-- ==== Sys2Proof/Word.lean ====
section
/-! DEFINITION. Words and bytes of the manual, and the plainest arithmetic on them (00_scope R5, R6, R11). -/

namespace Sys2Proof

/-- One byte. -/
abbrev Byte := BitVec 8

/-- One 64-bit word of a core, a descriptor or a record. -/
abbrev Word := BitVec 64

/-- 1 KiB = 1,024 B (R8). -/
def kib : Nat := 1024

/-- 1 MiB (R8). -/
def mib : Nat := 1024 * 1024

/-- 1 GiB (R8). -/
def gib : Nat := 1024 * 1024 * 1024

end Sys2Proof
end

