-- ==== Sys2Proof/Syntax.lean ====
section
/-! DEFINITION. The commands of the block, one constructor for each row of spec/opcode_table.json, and the operands they carry.
An operand holds what comes from outside the machine's own state: a written value, a message, a decoded
instruction's fields, a measured quantity, or the place of an error in an array. -/

namespace Sys2Proof

/-- The MCTP binding a message arrives on (R655). -/
inductive Binding where
  | i3c
  | pcieVdm
  deriving DecidableEq, Repr

/-- The path of a dictionary access (R657, R658, R662). `auth` is true inside an authenticated SPDM secured
session (R742). -/
inductive Path where
  /-- the BAR0 dictionary window, never authenticated -/
  | bar0
  | mctp (binding : Binding) (auth : Bool)
  /-- the security island, always authenticated -/
  | island
  deriving DecidableEq, Repr

/-- What the error-correcting code of a memory found (R147, R185, R186). -/
inductive Ecc where
  | clean
  | corrected
  /-- uncorrectable, after the one read retry of R186 where there is one -/
  | uncorrectable
  deriving DecidableEq, Repr

/-- Who issues an HBM access (R189). -/
inductive Requester where
  | core (core : Nat)
  | unit (sector : Nat)
  /-- the management processor, and the other units of firmware (R189) -/
  | manager
  | firmware
  | windowCache
  | stitchLogic
  | keyStream
  | fabric (src flow : Nat)
  | host
  deriving DecidableEq, Repr

/-- Where a bit error stands in a sector (R147): core memory or commons by offset, a byte of a tile register or of an
accumulator bank; `core` is the active position. -/
inductive MemCell where
  | cm (core offset : Nat)
  | commons (offset : Nat)
  | tile (core t offset : Nat)
  | acc (core bank offset : Nat)
  deriving DecidableEq, Repr

/-- Bit errors that arise in one protected word (R147). -/
structure MemError where
  cell : MemCell
  bits : Nat
  deriving DecidableEq, Repr

/-- What a scrub pass of a sector brings (R147, R153): the errors that have arisen by then, and those that arise behind it. -/
structure ScrubErrors where
  found : List MemError
  latent : List MemError
  deriving DecidableEq, Repr

/-- What the module finds as its power comes up (R51, R70, R72): the levels of PERST_N and MRST_N, and the outcome of the ROM's
self-check. -/
structure PowerUp where
  perstHigh : Bool
  mrstHigh : Bool
  romOk : Bool
  deriving DecidableEq, Repr

/-- What an AUX recovery finds (R51, R73, R870): the straps, and the outcome of the ROM's self-check. -/
structure AuxReturn where
  straps : Nat
  romOk : Bool
  deriving DecidableEq, Repr

/-- What a crash-record collection could not read (R802): the units that do not answer, and those whose samples it lacks. -/
structure Unread where
  noAnswer : List Nat
  noSample : List Nat
  deriving DecidableEq, Repr

/-- The quantities that a measurement reads (R86, R867): millivolts, milliamperes, tenths of a degree, watts,
the beat rate of each sector (R127), and whether every sensor with a trip value is at least 10 °C below it (R79). -/
structure Measure where
  mainMv : Nat
  auxMv : Nat
  mainMa : Nat
  auxMa : Nat
  dieMaxDc : Int
  inletDc : Int
  outletDc : Int
  powerW : Nat
  /-- for each sector, the beats that each of its active cores made in the whole millisecond (R127) -/
  coreBeats : List (List Nat)
  /-- for each sector, the late beats of its cores since the last tick, but for those of rebuilt words (R103, R149) -/
  late : List Nat
  tripCooled : Bool
  deriving DecidableEq, Repr

/-- What the power manager samples at a tick (R696, R697, R698): the mean powers in watts, and the highest reading, in tenths of
a degree, of each sector's four die sensors and of the 16 device-level sensors. -/
structure PowerSample where
  mean10W : Nat
  mean1W : Nat
  sectorDc : List Int
  deviceDc : Int
  deriving DecidableEq, Repr

/-- A stitch-group membership carried by a write: the opening device's node and the group ID (R505). -/
structure GroupRef where
  opener : Nat
  group : Nat
  deriving DecidableEq, Repr

/-- A remote write that reaches a sector (R164). `target` is that of R134; `credits` is what its source holds for it, in units
of 256 B (R165). -/
structure RemoteWr where
  source : Nat
  credits : Nat
  sector : Nat
  target : Nat
  offset : Nat
  data : List Byte
  group : Option GroupRef
  deriving DecidableEq, Repr

/-- A memory-side adder update (R217). -/
structure AddUpdate where
  who : Requester
  addr : Nat
  op : Nat
  mask : BitVec 16
  wantOld : Bool
  operand : List Byte
  q : BitVec 64
  ecc : Ecc
  deriving DecidableEq, Repr

/-- An engine of a core, numbered as R281 numbers the units. -/
inductive Eng where
  | au
  | pe
  | me
  | ve
  | kxu
  deriving DecidableEq, Repr

/-- An operand of an execute-stream instruction (R247). -/
inductive Opnd where
  | tile (tile gen : Nat)
  | queue (queue : Nat) (pop release : Bool)
  | ctx (context : Nat)
  | bank (bank gen : Nat)
  deriving DecidableEq, Repr

/-- The fields of an execute-stream instruction besides `eng` and `op`, which the command names (R246). -/
structure XIns where
  issue : Nat
  dst : Opnd
  srca : Opnd
  srcb : Opnd
  mod : BitVec 18
  deriving DecidableEq, Repr

/-- The fields of an access-stream instruction besides `op` (R263). -/
structure AIns where
  context : Nat
  queue : Nat
  tile : Nat
  pool : Bool
  eng : Nat
  gen : Nat
  imm : BitVec 16
  deriving DecidableEq, Repr

/-- The fields of a control-core instruction besides `op` (R271): `imm` holds `imm18`, whose low 14 bits are
`imm14`. -/
structure CIns where
  xd : Nat
  xa : Nat
  xb : Nat
  imm : BitVec 18
  deriving DecidableEq, Repr

/-- What the cores report when the kernel of a command ends (R387, R390, R414): the beats it took, the lowest code with
the cores that reported it (0 when none did), and the limbs or samples that are complete. -/
structure KernelReport where
  beats : Nat
  status : Nat
  faultCores : BitVec 25
  limbsDone : BitVec 64
  deriving DecidableEq, Repr

/-- A received flit and what its receiver found (R547, R548, R550, R119). -/
structure Flit where
  seq : Nat
  ack : Nat
  nak : Bool
  ftype : Nat
  cvc : Nat
  credits : Nat
  crcOk : Bool
  fecOk : Bool
  fifoFull : Bool
  deriving DecidableEq, Repr

/-- A HELLO (R557). -/
structure HelloMsg where
  node : Nat
  assigned : Bool
  port : Nat
  uid : Nat
  role : Nat
  twin : Nat
  deriving DecidableEq, Repr

/-- A network-layer packet as a router sees it (R560). -/
structure Packet where
  dst : Nat
  src : Nat
  flow : Nat
  hops : Nat
  vc : Nat
  ordered : Bool
  age : Nat
  length : Nat
  deriving DecidableEq, Repr

/-- A transport message: the fields of R560 and R592 that its receiver uses, and its payload (R594). -/
structure Msg where
  dst : Nat
  src : Nat
  flow : Nat
  tseq : Nat
  ordered : Bool
  window : Nat
  epoch : Nat
  offset : Nat
  group : Nat
  inGroup : Bool
  arg : Nat
  payload : List Byte
  deriving DecidableEq, Repr

/-- What the twin answered to a bind (R617). -/
structure TwinPeer where
  modeMatches : Bool
  identityMatches : Bool
  layoutMatches : Bool
  openMode : Bool
  sessionOk : Bool
  /-- the peer's `node_id` and `node_id_assigned` (R618) -/
  node : Nat
  nodeAssigned : Bool
  /-- the peer's keeper map equals this module's -/
  keepersMatch : Bool
  deriving DecidableEq, Repr

/-- A twin heartbeat (R629). -/
structure Heartbeat where
  uid : Nat
  role : Nat
  generation : Nat
  step : Nat
  sequence : Nat
  deriving DecidableEq, Repr

/-- An input that a leader forwards (R622). -/
inductive InputRec where
  | request (mtype : Nat) (m : Msg)
  | answer (mtype : Nat) (m : Msg)
  | slot (sector ring : Nat) (record : List Byte)
  | bar2 (offset : Nat) (data : List Byte)
  | dict (index sub : Nat) (data : List Byte)
  deriving DecidableEq, Repr

/-- The outcome of the checks of R731 on one image, with what the image says of itself. -/
structure ImageVerdict where
  magicOk : Bool
  keyOk : Bool
  signatureOk : Bool
  sectionsOk : Bool
  digestsOk : Bool
  svn : Nat
  headerDigest : List Byte
  deriving DecidableEq, Repr

/-- What the boot ROM finds in the two slots, and the digests it extends (R733, R734). -/
structure BootVerdict where
  slotA : ImageVerdict
  slotB : ImageVerdict
  romDigest : List Byte
  fuseDigest : List Byte
  sectionDigests : List (List Byte)
  deriving DecidableEq, Repr

/-- What the management processor finds at a boot besides its own state: the IDs of the committed groups of this device whose
staged granules did not survive (R532). -/
structure BootReport where
  lost : List Nat
  deriving DecidableEq, Repr

/-- An answer of a block asked to sleep (R703). -/
inductive SleepAns where
  | accept
  | refuse (reason : Nat)
  | delay (reason : Nat)
  /-- work reached the block after it had accepted (R705) -/
  | work
  deriving DecidableEq, Repr

/-- What demands a wake (R710). -/
inductive WakeKind where
  | meshPacket
  | ringWindow
  | bar2
  | dictionary
  deriving DecidableEq, Repr

/-- An SPDM request as the responder sees it (R740, R745). -/
inductive SpdmReq where
  | getVersion
  | getCapabilities
  | negotiateAlgorithms
  | getDigests
  | getCertificate (slot : Nat)
  | challenge
  | getMeasurements (block : Nat)
  | keyExchange (binding : Binding)
  /-- mutual authentication completed with a chain whose root has this digest -/
  | finish (session : Nat) (rootDigest : List Byte)
  | heartbeat (session : Nat)
  | keyUpdate (session : Nat)
  | endSession (session : Nat)
  /-- a request the responder does not support -/
  | other (code : Nat)
  deriving DecidableEq, Repr

/-- The payload of a key release (R749). -/
structure ReleaseReq where
  part : Nat
  pkg : Nat
  digest : List Byte
  secret : List Byte
  uses : Nat
  deriving DecidableEq, Repr

/-- The fields of a big-number command word (R770). -/
structure PkeCmd where
  w : Nat
  d : Nat
  a : Nat
  b : Nat
  m : Nat
  e : Nat
  deriving DecidableEq, Repr

/-- The commands, one for each row of spec/opcode_table.json, in its order. -/
inductive Instr where
  /-- DICT_WRITE (R660): A write to a dictionary entry that has no row of its own is checked in the order of R861 and ends with
  one result. -/
  | dictWrite (via : Path) (index sub : Nat) (data : List Byte)
  /-- RC_READ (R12): A read of an RC entry returns its value and then clears it. -/
  | rcRead (via : Path) (index sub : Nat)
  /-- DICT_REQUEST (R657): A dictionary read or write arrives as an MCTP vendor-defined message and is answered with a response. -/
  | dictRequest (via : Path) (wr : Bool) (tag index sub len : Nat) (data : List Byte)
  /-- DICT_WINDOW_GO (R662): A write of 1 to go in the BAR0 dictionary window starts an access, which sets result, type and data
  when it ends. -/
  | dictWindowGo (index sub op len : Nat) (data : List Byte)
  /-- POWER_ON_RESET (R789): AUX entering its operating range starts a power-on reset of everything, the always-on domain
  included. -/
  | powerOnReset (straps : Nat) (found : PowerUp)
  /-- MAIN_STAGE_ENABLE (R51): Once every condition of R51 holds, the module enables the main power stage by itself. -/
  | mainStageEnable (mainMv auxMv : Nat)
  /-- MAIN_OVERVOLTAGE (R48): Main above its overvoltage threshold disables the main stage within 10 us and sets the supply
  alert, without a save. -/
  | mainOvervoltage (mainMv : Nat)
  /-- AUX_OVERVOLTAGE (R870): AUX above 13.5 V disables the main stage and performs a last save, and the always-on domain then
  holds itself in reset. -/
  | auxOvervoltage (auxMv : Nat)
  /-- SUPPLY_RECOVERY_RESET (R721): After a sag save or an overvoltage shutdown, inputs within range for 10 ms start a reset of
  kind 0x02. -/
  | supplyRecoveryReset (mainMv auxMv : Nat)
  /-- AUX_RECOVERY_RESET (R870): After an AUX overvoltage, AUX within range for 10 ms starts a power-on reset. -/
  | auxRecoveryReset (auxMv : Nat) (found : AuxReturn)
  /-- MAIN_SAG (R54): Main falling below its sag threshold after the filter triggers the last save in every state except SL4. -/
  | mainSag (mainMv : Nat)
  /-- AUX_SAG (R56): AUX falling below its sag threshold triggers the last save in every state. -/
  | auxSag (auxMv : Nat)
  /-- SAG_INPUT (R75): A low on SAG_N driven from outside triggers the last save while sag_input_enable is true, except in SL4. -/
  | sagInput
  /-- LAST_SAVE_END (R868): The save header is written and read back, and last_save_count increments. -/
  | lastSaveEnd (durationUs auxMv : Nat)
  /-- AUX_BELOW_FLOOR (R869): AUX falling below 9.0 V holds the always-on domain in power-on reset and tears any save in
  progress. -/
  | auxBelowFloor (auxMv : Nat)
  /-- SAG_N_RELEASE (R74): Both inputs above their recovery thresholds for 10 ms make the module release SAG_N. -/
  | sagNRelease (mainMv auxMv : Nat)
  /-- EXTERNAL_RESET (R70): An assertion of MRST_N starts a device-level reset of kind 0x03, deferred during a save or after a
  trip. -/
  | externalReset (lowNs : Nat)
  /-- PERST_N_RESET (R72): PERST_N resets only the PCIe controller and PHY, and its deassertion samples pcie_refclk_mode. -/
  | perstNReset (high : Bool)
  /-- PCIE_HOT_RESET (R645): A hot or function-level reset restores configuration space, the MSI-X table and bus-master enable,
  and sets bar2_partition to 0xFF. -/
  | pcieHotReset (functionLevel : Bool)
  /-- THERMAL_TRIP (R78): A sensor at its trip value makes hardware disable the die rails, assert THERMTRIP_N and perform the
  last save. -/
  | thermalTrip (sensor : Nat) (tempDc : Int)
  /-- COOL_OK_LOW (R82): COOL_OK low for 1 ms with the main stage enabled sets the coolant alert and the 400 W cap. -/
  | coolOkLow
  /-- COOL_OK_RETURN (R82): COOL_OK returning high within the grace time restores the cap within 100 ms. -/
  | coolOkReturn (msSinceFall : Nat)
  /-- COOLANT_LOSS (R82): The expiry of cool_ok_grace_ms with COOL_OK still low acts as a thermal trip and saves with
  coolant_loss set. -/
  | coolantLoss
  /-- PRES_N_CHANGE (R43): A change of PRES_N on a port connector sets the cable alert, and a low on an enabled DOWN port starts
  training. -/
  | presNChange (port : Nat) (low : Bool)
  /-- CINCH_EDGE (R605): A rising CINCH edge is counted and repeated, and it fixes the step boundary when the device waits in
  cinched mode. -/
  | cinchEdge
  /-- TIMEREF_FALLBACK (R67): Loss of TIMEREF_IN edges or a failed frequency check switches to the crystal within 1 us and
  counts the fallback. -/
  | timerefFallback (edgesLost : Bool)
  /-- TIMEREF_SOURCE_WRITE (R68): A write to timeref_source selects the reference, and a write of 1 returns to TIMEREF_IN after
  a fallback. -/
  | timerefSourceWrite (via : Path) (data : List Byte)
  /-- MEASURE_TICK (R867): Every 1 ms the measured supply and temperature entries are updated as 10 ms means. -/
  | measureTick (m : Measure)
  /-- POWER_TICK (R873): Every 1 ms of time_count the power manager evaluates the cap, the peak limit and the throttle. -/
  | powerTick (p : PowerSample)
  /-- LEVEL_RAMP_END (R113): The end of the regulator ramp lets the pacer take the new pace limit at the next TIMEREF edge. -/
  | levelRampEnd (sector : Nat)
  /-- PACER_LOCK (R100): A sector's pacer locks within 20 us of power-on, and its cores may then beat. -/
  | pacerLock (sector : Nat)
  /-- CANARY_TRIM_TICK (R108): Every 100 us the management processor moves each domain's setpoint 5 mV toward the target slack. -/
  | canaryTrimTick (domain slackCentiPct : Nat)
  /-- CANARY_ALARM (R110): A canary below 3 % slack raises the domain's setpoint by 10 mV without firmware. -/
  | canaryAlarm (domain slackCentiPct : Nat)
  /-- CM_ATTR_WRITE (R144): A control-core write that changes bits of cm_attr zero-fills each changed region under its new code. -/
  | cmAttrWrite (core : Nat) (value : BitVec 32)
  /-- SCRUB_PASS (R153): Each scrub_period_ms the sector controller scrubs every line of core memory and commons. -/
  | scrubPass (sector : Nat) (errors : ScrubErrors)
  /-- REMOTE_WRITE (R164): A remote write arriving at a sector lands in an open landing range when it holds credit, or is
  dropped. -/
  | remoteWrite (w : RemoteWr)
  /-- LANDING_RANGE_CLOSE (R169): A landing range closes once every credit issued for it has returned or been revoked. -/
  | landingRangeClose (sector range : Nat)
  /-- HBM_READ (R186): An HBM read is retried once on an uncorrectable transfer and otherwise returns poisoned data with 0x0303. -/
  | hbmRead (who : Requester) (addr len : Nat) (ecc : Ecc) (fifoFull : Bool)
  /-- HBM_PARTIAL_WRITE (R864): A write of part of a 32 B transfer is performed as a read-modify-write. -/
  | hbmPartialWrite (who : Requester) (addr : Nat) (data : List Byte) (ecc : Ecc)
  /-- HBM_MAPOUT (R196): A write to hbm_mapout_cmd requests a planned map-out, which migrates the slot's granules. -/
  | hbmMapout (via : Path) (data : List Byte)
  /-- HBM_MAPIN (R206): A write to hbm_mapin_cmd maps a tested slot back in and migrates granules. -/
  | hbmMapin (via : Path) (data : List Byte)
  /-- HBM_MIGRATION_DONE (R199): A map-out or map-in migration completes and hbm_mapout_status reads done. -/
  | hbmMigrationDone
  /-- HBM_FORCED_MAPOUT (R200): A failing pseudo-channel is mapped out without a command, and its contents are lost. -/
  | hbmForcedMapout (pc : Nat)
  /-- HBM_PATTERN_TEST (R210): Op 1 of hbm_repair_cmd pattern-tests a mapped-out pseudo-channel. -/
  | hbmPatternTest (via : Path) (pc : Nat)
  /-- HBM_LANE_REPAIR (R207): Op 2 of hbm_repair_cmd repairs the lanes of a channel whose pseudo-channels are both out. -/
  | hbmLaneRepair (via : Path) (pc : Nat)
  /-- HBM_HARD_PPR (R211): Op 3 of hbm_repair_cmd hard-repairs the rows that failed the last test, recorded in eMRAM. -/
  | hbmHardPpr (via : Path) (pc : Nat)
  /-- HBM_SOFT_PPR (R211): Op 4 of hbm_repair_cmd soft-repairs the rows that failed the last test. -/
  | hbmSoftPpr (via : Path) (pc : Nat)
  /-- HBM_REPAIR_DONE (R212): A repair op ends, and hbm_repair_status takes its result. -/
  | hbmRepairDone (passed : Bool) (rows : List Nat) (spares : Nat)
  /-- HBM_THERMAL_TICK (R213): Every 1 ms each controller reads its stack temperature and sets its throttle step. -/
  | hbmThermalTick (stack : Nat) (tempDc : Int)
  /-- ADDER_UPDATE (R217): A memory-side adder update adds an operand into a 64 B line atomically. -/
  | adderUpdate (u : AddUpdate)
  /-- BLOCK_END (R239): A block ends when both parts are done and nothing is in flight, and the comparators are evaluated. -/
  | blockEnd (core : Nat)
  /-- ENGINE_OP_COMPLETE (R253): An instruction's write window ends and its destination's generation increases. -/
  | engineOpComplete (core : Nat) (eng : Eng)
  /-- NOP (R255): Execute-stream NOP does nothing. -/
  | nop (core : Nat) (x : XIns)
  /-- WAIT (R255): Execute-stream WAIT adds n beats before the next instruction. -/
  | wait (core : Nat) (x : XIns)
  /-- EXEC_LOOP (R267): Execute-stream LOOP decrements an LC counter and branches back while it is nonzero. -/
  | execLoop (core : Nat) (x : XIns)
  /-- PUSH (R255): PUSH checks a tile and pushes its entry on a queue. -/
  | push (core : Nat) (x : XIns)
  /-- PUSHK (R255): PUSHK pushes a token on a queue. -/
  | pushk (core : Nat) (x : XIns)
  /-- POPK (R255): POPK pops a token from a queue. -/
  | popk (core : Nat) (x : XIns)
  /-- FREE (R245): FREE frees a pool tile. -/
  | free (core : Nat) (x : XIns)
  /-- EXEC_END (R255): END ends the execute part. -/
  | execEnd (core : Nat) (x : XIns)
  /-- LDT (R264): LDT loads 4 KiB from a context into a tile. -/
  | ldt (core : Nat) (a : AIns)
  /-- LDT_COMPLETE (R264): The last line of an LDT arrives and the tile's entry is pushed. -/
  | ldtComplete (core xfer beats : Nat)
  /-- STT (R264): STT pops a tile entry and stores the tile to a context. -/
  | stt (core : Nat) (a : AIns)
  /-- CPY (R264): CPY copies imm lines from one stream context to another. -/
  | cpy (core : Nat) (a : AIns)
  /-- TOK (R264): TOK pushes a token on a queue. -/
  | tok (core : Nat) (a : AIns)
  /-- WTOK (R264): WTOK pops a token from a queue. -/
  | wtok (core : Nat) (a : AIns)
  /-- ACCESS_LOOP (R267): Access-stream LOOP counts on LC4 to LC7. -/
  | accessLoop (core : Nat) (a : AIns)
  /-- ACCESS_END (R264): END ends the access part. -/
  | accessEnd (core : Nat) (a : AIns)
  /-- TRANSFER_DONE (R475): An access-stream transfer completes when its last line is granted or acknowledged. -/
  | transferDone (core xfer beats : Nat)
  /-- TRANSFER_RESUME (R473): A map that covers a held page resumes the holding transfer within 2 us. -/
  | transferResume (core xfer : Nat)
  /-- MOVI (R272): The control core loads a sign-extended immediate. -/
  | movi (core : Nat) (c : CIns)
  /-- ADDI (R272): The control core adds an immediate. -/
  | addi (core : Nat) (c : CIns)
  /-- ALU (R272): The control core performs a register ALU operation. -/
  | alu (core : Nat) (c : CIns)
  /-- LDX (R272): The control core loads 8 B of its core memory through slot 15. -/
  | ldx (core : Nat) (c : CIns)
  /-- STX (R272): The control core stores 8 B to its core memory through slot 15. -/
  | stx (core : Nat) (c : CIns)
  /-- BCC (R272): The control core branches on a register comparison. -/
  | bcc (core : Nat) (c : CIns)
  /-- BRF (R272): The control core branches on the comparator flags. -/
  | brf (core : Nat) (c : CIns)
  /-- JMP (R272): The control core jumps to a half-word. -/
  | jmp (core : Nat) (c : CIns)
  /-- RUNB (R238): RUNB starts a block, or makes it pending. -/
  | runb (core : Nat) (c : CIns)
  /-- RUNC (R273): RUNC starts one of two blocks, chosen by a comparator flag at the deciding beat. -/
  | runc (core : Nat) (c : CIns)
  /-- WAITB (R272): WAITB returns the status of the running or last block. -/
  | waitb (core : Nat) (c : CIns)
  /-- SETLC (R274): SETLC sets a loop counter while no block runs. -/
  | setlc (core : Nat) (c : CIns)
  /-- GETLC (R272): GETLC reads a loop counter. -/
  | getlc (core : Nat) (c : CIns)
  /-- SETCMP (R274): SETCMP configures a comparator while no block runs. -/
  | setcmp (core : Nat) (c : CIns)
  /-- GETVS (R270): GETVS reads a VE summary as it stood at the end of the last block. -/
  | getvs (core : Nat) (c : CIns)
  /-- LDPM (R276): LDPM starts a copy into the back bank of program memory. -/
  | ldpm (core : Nat) (c : CIns)
  /-- LDPM_DONE (R277): An LDPM copy ends, or fails on a translation or protection fault. -/
  | ldpmDone (core beats : Nat)
  /-- SWAP (R278): SWAP exchanges the front and back banks once no block runs. -/
  | swap (core : Nat) (c : CIns)
  /-- PMWAIT (R272): PMWAIT returns the status of the last LDPM once it completes. -/
  | pmwait (core : Nat) (c : CIns)
  /-- ENQ (R281): ENQ pushes a command into a unit's C2 command queue. -/
  | enq (core : Nat) (c : CIns)
  /-- WAITE (R284): WAITE returns a status once every C2 queue is empty and every unit idle. -/
  | waite (core : Nat) (c : CIns)
  /-- HALT (R272): HALT ends the program with a status, and the core's holds and key contexts leave their rings. -/
  | halt (core : Nat) (c : CIns)
  /-- MADD (R310): The PE adds modulo q. -/
  | madd (core : Nat) (x : XIns)
  /-- MSUB (R310): The PE subtracts modulo q. -/
  | msub (core : Nat) (x : XIns)
  /-- MNEG (R310): The PE negates modulo q. -/
  | mneg (core : Nat) (x : XIns)
  /-- MCPY (R310): The PE copies a tile or a limb. -/
  | mcpy (core : Nat) (x : XIns)
  /-- MMUL (R303): The PE multiplies modulo q with reduction by R303. -/
  | mmul (core : Nat) (x : XIns)
  /-- MMAC (R310): The PE multiplies and adds into the destination modulo q. -/
  | mmac (core : Nat) (x : XIns)
  /-- MMULK (R310): The PE multiplies by a constant register. -/
  | mmulk (core : Nat) (x : XIns)
  /-- MMACK (R310): The PE multiplies by a constant and adds into the destination. -/
  | mmack (core : Nat) (x : XIns)
  /-- NTT (R316): The PE performs a forward NTT. -/
  | ntt (core : Nat) (x : XIns)
  /-- INTT (R316): The PE performs an inverse NTT, with the factor N^-1. -/
  | intt (core : Nat) (x : XIns)
  /-- AUT (R322): The PE applies an automorphism to a memory limb. -/
  | aut (core : Nat) (x : XIns)
  /-- AUTT (R323): The PE writes one 512-word output block of an automorphism. -/
  | autt (core : Nat) (x : XIns)
  /-- GSET (R312): GSET sets a Galois register. -/
  | gset (core : Nat) (x : XIns)
  /-- PTL (R310): PTL loads the prime table from a chain record. -/
  | ptl (core : Nat) (x : XIns)
  /-- KLD (R310): KLD loads the constant registers K0 to K15. -/
  | kld (core : Nat) (x : XIns)
  /-- TWB (R302): TWB builds a twiddle slot for one prime. -/
  | twb (core : Nat) (x : XIns)
  /-- ENCC (R329): ENCC encodes compact values into coefficients. -/
  | encc (core : Nat) (x : XIns)
  /-- ENCS (R330): ENCS slot-encodes compact values into coefficients. -/
  | encs (core : Nat) (x : XIns)
  /-- ENCR (R332): ENCR reduces a coefficient buffer into one prime and transforms it. -/
  | encr (core : Nat) (x : XIns)
  /-- CHAIN_COMMIT (R293): A write of 1 to chain_commit checks and registers the staged chain. -/
  | chainCommit (via : Path)
  /-- CHAIN_RELEASE (R294): A write of 2 to chain_commit releases a chain. -/
  | chainRelease (via : Path)
  /-- XEXP (R361): The KXU expands the next a-half tile of a key context. -/
  | xexp (core : Nat) (x : XIns)
  /-- XNOISE (R363): The KXU writes noise words for one prime. -/
  | xnoise (core : Nat) (x : XIns)
  /-- XNSET (R360): XNSET sets the noise distribution, and may advance NC. -/
  | xnset (core : Nat) (x : XIns)
  /-- KOPEN (R368): KOPEN reads and checks a key-open record and opens a key context. -/
  | kopen (core : Nat) (a : AIns)
  /-- KFETCH (R367): KFETCH requests the next chunk of the plan into a staging region. -/
  | kfetch (core : Nat) (a : AIns)
  /-- KTILE (R372): KTILE loads the next 4 KiB of a verified chunk into a tile. -/
  | ktile (core : Nat) (a : AIns)
  /-- KCLOSE (R367): KCLOSE closes a key context once no fetch is in flight. -/
  | kclose (core : Nat) (a : AIns)
  /-- KCHAIN (R367): KCHAIN copies a chain record into core memory. -/
  | kchain (core : Nat) (a : AIns)
  /-- KSTAT (R367): KSTAT pushes a token once every fetched chunk has its verdict. -/
  | kstat (core : Nat) (a : AIns)
  /-- KEY_CHUNK_ARRIVAL (R371): A key chunk lands in staging and is checked for tag, sequence and CRC. -/
  | keyChunkArrival (core ctx beats : Nat) (ecc : Ecc)
  /-- KEYSET_REGISTER (R353): A write of 1 to keyset_cmd decrypts, checks and registers a key package. -/
  | keysetRegister (via : Path)
  /-- KEYSET_RELEASE (R355): A write of 2 to keyset_cmd releases a key set. -/
  | keysetRelease (via : Path)
  /-- KEYSET_QUERY (R382): A write to query_tag fills keyset_query within 100 us. -/
  | keysetQuery (via : Path) (data : List Byte)
  /-- RING_SLOT_TAKE (R675): The sequencer takes a ring slot when its marker takes the expected value. -/
  | ringSlotTake (sector ring : Nat)
  /-- COMMAND_KERNEL_END (R387): The kernel of a command ends on every core of its set. -/
  | commandKernelEnd (sector ring index : Nat) (report : KernelReport)
  /-- COMPLETION_RELEASE (R678): Room in the completion ring releases a held completion. -/
  | completionRelease (sector ring : Nat)
  /-- HADD (R395): Homomorphic addition. -/
  | hadd (sector ring : Nat)
  /-- HSUB (R395): Homomorphic subtraction. -/
  | hsub (sector ring : Nat)
  /-- HNEG (R395): Homomorphic negation. -/
  | hneg (sector ring : Nat)
  /-- HADDP (R395): Adds a plaintext to a ciphertext. -/
  | haddp (sector ring : Nat)
  /-- HMULP (R395): Multiplies a ciphertext by a plaintext. -/
  | hmulp (sector ring : Nat)
  /-- HMULW (R398): Multiplies a ciphertext by encoded compact weights. -/
  | hmulw (sector ring : Nat)
  /-- HMULC (R399): Multiplies a ciphertext by a constant array. -/
  | hmulc (sector ring : Nat)
  /-- HMUL (R395): Multiplies two ciphertexts into three polynomials. -/
  | hmul (sector ring : Nat)
  /-- HRELIN (R403): Relinearises a three-polynomial ciphertext by the key-switch pipeline. -/
  | hrelin (sector ring : Nat)
  /-- HRESCALE (R396): Rescales a CKKS ciphertext by dropping one prime. -/
  | hrescale (sector ring : Nat)
  /-- HMODSW (R396): Switches the modulus of a BFV or BGV ciphertext. -/
  | hmodsw (sector ring : Nat)
  /-- HDROP (R396): Drops c levels. -/
  | hdrop (sector ring : Nat)
  /-- HROT (R403): Rotates a ciphertext by an automorphism followed by a key-switch. -/
  | hrot (sector ring : Nat)
  /-- HTONTT (R396): Transforms a ciphertext to the NTT domain. -/
  | htontt (sector ring : Nat)
  /-- HTOCOEF (R396): Transforms a ciphertext to the coefficient domain. -/
  | htocoef (sector ring : Nat)
  /-- HRAISE (R405): Raises a level-0 ciphertext to a target level. -/
  | hraise (sector ring : Nat)
  /-- HLINT (R400): Evaluates a linear transform from a diagonal table. -/
  | hlint (sector ring : Nat)
  /-- HBEXT (R409): Extracts LWE samples from a CKKS ciphertext. -/
  | hbext (sector ring : Nat)
  /-- HBPBS (R410): Programmable-bootstraps LWE samples through a table. -/
  | hbpbs (sector ring : Nat)
  /-- HBREPACK (R412): Repacks LWE samples into a CKKS ciphertext. -/
  | hbrepack (sector ring : Nat)
  /-- HE_ABORT (R417): A write to he_abort aborts a waiting or running command with 0x0504. -/
  | heAbort (via : Path) (data : List Byte)
  /-- MMA (R424): The ME multiplies matrix tiles into a bank, with optional dequantisation. -/
  | mma (core : Nat) (x : XIns)
  /-- MSUM (R428): The ME writes the row or column group sums of a tile. -/
  | msum (core : Nat) (x : XIns)
  /-- MMOD (R429): The ME performs a modular matrix product for base conversion. -/
  | mmod (core : Nat) (x : XIns)
  /-- VCH (R439): The VE runs a fused chain over its operands. -/
  | vch (core : Nat) (x : XIns)
  /-- VCLD (R432): VCLD checks chains and loads them into the chain table. -/
  | vcld (core : Nat) (x : XIns)
  /-- VUPD (R450): VUPD performs a one-pass optimiser update. -/
  | vupd (core : Nat) (x : XIns)
  /-- VHCFG (R445): VHCFG sets a tracker's history length and empties its history. -/
  | vhcfg (core : Nat) (x : XIns)
  /-- VHSTEP (R445): VHSTEP closes the open slot of the named trackers. -/
  | vhstep (core : Nat) (x : XIns)
  /-- XLAT_MAP (R467): A write of 1 to xm_cmd maps pages for a partition. -/
  | xlatMap (via : Path)
  /-- XLAT_UNMAP (R468): A write of 2 to xm_cmd unmaps pages once accesses through them have completed. -/
  | xlatUnmap (via : Path)
  /-- XLAT_CMD_DONE (R467): A map or unmap command completes and xm_status reads done. -/
  | xlatCmdDone
  /-- STREAM_ABANDON (R474): A write to stream_abandon ends a core's holding transfers with 0x0301. -/
  | streamAbandon (via : Path) (data : List Byte)
  /-- RING_START (R483): Op 1 of ring_cmd reads a ring record and starts a lacing ring. -/
  | ringStart (via : Path)
  /-- RING_STOP (R494): Op 2 of ring_cmd stops a lacing ring. -/
  | ringStop (via : Path) (ring : Nat)
  /-- RING_FORWARD (R486): A member forwards a unit to the next member once readers have passed it and a slot is free. -/
  | ringForward (ring member : Nat)
  /-- RJOIN (R489): RJOIN joins a ring at the core's member and attaches a hold. -/
  | rjoin (core : Nat) (a : AIns)
  /-- RNEXT (R489): RNEXT passes units, then anchors the hold to the next unit and pushes a token. -/
  | rnext (core : Nat) (a : AIns)
  /-- RDONE (R489): RDONE marks the held unit taken and frees the anchor. -/
  | rdone (core : Nat) (a : AIns)
  /-- RLEAVE (R489): RLEAVE detaches a hold from its ring. -/
  | rleave (core : Nat) (a : AIns)
  /-- SGOPEN (R512): SGOPEN opens a local or fabric stitch group. -/
  | sgopen (sector ring : Nat)
  /-- SGBIND (R513): SGBIND binds cores to a group for their filtered writes. -/
  | sgbind (sector ring : Nat)
  /-- SGCOMMIT (R516): SGCOMMIT seals a local group and applies it once its cores halt and its writes are acknowledged. -/
  | sgcommit (sector ring : Nat)
  /-- SGABORT (R525): SGABORT aborts a group with 0x0504. -/
  | sgabort (sector ring : Nat)
  /-- SG_ABORT_CMD (R537): A write to sg_abort_cmd acts as SGABORT. -/
  | sgAbortCmd (via : Path) (data : List Byte)
  /-- SGQ_FILL (R536): A write to sgq_id fills sg_query within 100 us. -/
  | sgqFill (via : Path) (data : List Byte)
  /-- SG_APPLY_DONE (R521): The apply of a committed group ends at a participant, and its granules and credits return. -/
  | sgApplyDone (opener group : Nat)
  /-- SG_PREPARE_TIMEOUT (R518): Missing votes after sg_prepare_timeout_us make the opener decide abort. -/
  | sgPrepareTimeout (group : Nat)
  /-- SG_DECISION_HOLD_EXPIRY (R526): A target with no decision when sg_decision_hold_ms expires discards the group's shadow. -/
  | sgDecisionHoldExpiry (opener group : Nat)
  /-- PORT_ENABLE (R573): Value 1 of port_cmd moves a port from DISABLED to DOWN. -/
  | portEnable (via : Path) (port : Nat)
  /-- PORT_DISABLE (R573): Value 2 of port_cmd disables a port. -/
  | portDisable (via : Path) (port : Nat)
  /-- PORT_RETRAIN (R573): Value 3 of port_cmd retrains a port. -/
  | portRetrain (via : Path) (port : Nat)
  /-- PORT_BURNISH_NOW (R573): Value 4 of port_cmd burnishes the next lane now. -/
  | portBurnishNow (via : Path) (port : Nat) (matched : Bool)
  /-- PORT_CLEAR_FAILED (R573): Value 5 of port_cmd clears the failed lanes and retrains. -/
  | portClearFailed (via : Path) (port : Nat)
  /-- TRAINING_DONE (R543): Training or retraining ends, and the port goes ACTIVE at its width or DOWN. -/
  | trainingDone (port goodMask : Nat)
  /-- TRAINING_TIMEOUT (R543): 500 ms without a successful training returns the port to DOWN. -/
  | trainingTimeout (port : Nat)
  /-- DOWN_RETRY (R544): Every 1 s a DOWN port with a cable present retries training. -/
  | downRetry (port : Nat)
  /-- FLIT_RECEIVE (R550): A received flit is accepted in sequence, or dropped with a nak. -/
  | flitReceive (port : Nat) (f : Flit)
  /-- ACK_TIMEOUT (R553): No ack for 100 us with flits outstanding, or 8 replays, moves the port to RETRAIN. -/
  | ackTimeout (port : Nat)
  /-- LANE_FAIL (R554): A failed lane is replaced by the keeper within 20 us. -/
  | laneFail (port lane : Nat)
  /-- BURNISH_TICK (R555): Each burnish_interval_ms a lane is burnished onto the keeper. -/
  | burnishTick (port : Nat) (matched : Bool)
  /-- BURNISH_READAPT_END (R555): The re-adapted lane becomes the port's keeper. -/
  | burnishReadaptEnd (port : Nat)
  /-- HELLO_TIMER (R557): Every 100 ms an ACTIVE port sends HELLO. -/
  | helloTimer (port : Nat)
  /-- HELLO (R558): A received HELLO updates neighbour and may isolate or clear the port. -/
  | hello (port : Nat) (h : HelloMsg)
  /-- HELLO_TIMEOUT (R557): 350 ms without a HELLO retrains the port. -/
  | helloTimeout (port : Nat)
  /-- ROUTE_ADVERTISEMENT (R563): A received path-vector advertisement updates the routing table. -/
  | routeAdvertisement (port dest : Nat) (path : List Nat)
  /-- ROUTE_PIN (R567): Value 1 of rc_cmd writes and pins a routing entry. -/
  | routePin (via : Path)
  /-- ROUTE_UNPIN (R567): Value 2 of rc_cmd unpins an entry for recomputation. -/
  | routeUnpin (via : Path)
  /-- ROUTE_COPY (R567): Value 3 of rc_cmd copies an entry into rc_entry. -/
  | routeCopy (via : Path)
  /-- PACKET_FORWARD (R569): A router looks up a packet's destination, ages it and forwards it, or drops it. -/
  | packetForward (port : Nat) (p : Packet) (elapsedNs : Nat) (freeCredits : List Nat)
  /-- VC_ESCAPE (R565): A packet that has waited 2 us for credit moves to VC3. -/
  | vcEscape (port : Nat) (p : Packet)
  /-- WOPEN (R584): WOPEN opens a window with a new epoch. -/
  | wopen (sector ring : Nat)
  /-- WCLOSE (R585): WCLOSE moves a window to CLOSING and sends REVOKE. -/
  | wclose (sector ring : Nat)
  /-- WBIND (R588): WBIND binds an outbound handle and sends CONNECT. -/
  | wbind (sector ring : Nat)
  /-- WUNBIND (R582): WUNBIND frees a handle once none of its requests is outstanding. -/
  | wunbind (sector ring : Nat)
  /-- STEPEND (R602): STEPEND marks the end of a step on a ring. -/
  | stepend (sector ring : Nat)
  /-- CLOSING_END (R585): A CLOSING window becomes QUIET once its credits are settled or 10 ms have passed. -/
  | closingEnd (window : Nat) (tenMs : Bool)
  /-- WINDOW_QUIET_EXPIRY (R583): window_quiet_ms after QUIET, the window becomes FREE. -/
  | windowQuietExpiry (window : Nat)
  /-- WINDOW_HOLDOFF_END (R586): The hold-off H after a reset ends, and windows may open. -/
  | windowHoldoffEnd
  /-- WRITE (R598): A WRITE message is checked and lands, and is answered with ACK. -/
  | write (m : Msg)
  /-- READ (R593): A READ message is answered with RDATA. -/
  | read (m : Msg) (ecc : Ecc)
  /-- ADD (R601): An ADD message applies an adder update to an HBM window. -/
  | add (m : Msg) (ecc : Ecc)
  /-- DONE (R604): A DONE message increments done_count. -/
  | done (m : Msg)
  /-- CONNECT (R593): A CONNECT is answered with CREDIT or a refusal. -/
  | connect (m : Msg)
  /-- REVOKE (R585): A REVOKE makes the source surrender its unused credit with REVOKED. -/
  | revoke (m : Msg)
  /-- ACK (R598): An ACK completes the matching request. -/
  | ack (m : Msg)
  /-- RDATA (R593): RDATA completes a READ. -/
  | rdata (m : Msg)
  /-- CREDIT (R589): A CREDIT updates the handle's granted_total and frontier. -/
  | credit (m : Msg)
  /-- REVOKED (R585): A REVOKED reports the units the source surrendered. -/
  | revoked (m : Msg)
  /-- CREDIT_REPEAT_TIMER (R593): Every 1 ms the target repeats the latest CREDIT of an OPEN window. -/
  | creditRepeatTimer (window : Nat)
  /-- TRANSPORT_RETRY (R595): A request with no answer within transport_retry_us is resent, or fails with 0x0404. -/
  | transportRetry (flow tseq : Nat)
  /-- SG_PREPARE (R518): A target votes on an SG_PREPARE. -/
  | sgPrepare (m : Msg)
  /-- SG_VOTE (R518): The opener receives a vote, and decides once every vote is in. -/
  | sgVote (m : Msg)
  /-- SG_DECISION (R519): A target logs a decision and applies or discards the group. -/
  | sgDecision (m : Msg)
  /-- SG_QUERY (R530): The opener answers SG_QUERY with the group's decision. -/
  | sgQuery (m : Msg)
  /-- STEP_ARRIVE (R603): A child's STEP_ARRIVE is counted toward the parent's arrival. -/
  | stepArrive (m : Msg)
  /-- STEP_RELEASE (R603): A STEP_RELEASE makes the device quiescent, or fails the step. -/
  | stepRelease (m : Msg)
  /-- RESET_NOTICE (R795): A RESET_NOTICE is recorded and may fail the present step. -/
  | resetNotice (m : Msg)
  /-- STEP_BOUNDARY (R604): At quiescence the device latches done counts, decides its groups and increments step_counter. -/
  | stepBoundary
  /-- CINCH_HOLD_EXPIRY (R605): No CINCH edge within cinch_hold_us lets the boundary fall by local rule. -/
  | cinchHoldExpiry
  /-- STEP_TIMEOUT (R608): A child missing for step_timeout_ms fails the step. -/
  | stepTimeout (child : Nat)
  /-- STEP_RESUME (R609): A write of 1 to step_resume lets sequencers start after a failed step. -/
  | stepResume (via : Path) (data : List Byte)
  /-- TWIN_BIND (R616): Op 1 of twin_cmd binds a pair after checks and resynchronisation. -/
  | twinBind (via : Path) (lead : Bool) (peer : TwinPeer)
  /-- TWIN_DETACH (R637): Op 2 of twin_cmd detaches the module. -/
  | twinDetach (via : Path)
  /-- TWIN_REATTACH (R638): Op 3 of twin_cmd starts resynchronisation of a detached follower. -/
  | twinReattach (via : Path)
  /-- TWIN_UNBIND (R637): Op 4 of twin_cmd unbinds the pair. -/
  | twinUnbind (via : Path)
  /-- TWIN_LEAD_ALONE (R636): Op 5 of twin_cmd makes a detached module leader. -/
  | twinLeadAlone (via : Path)
  /-- TWIN_BIND_TIMEOUT (R617): No matching bind or heartbeat within 10 s refuses the bind. -/
  | twinBindTimeout
  /-- TWIN_HEARTBEAT (R634): A received heartbeat updates twin state and may supersede the leader role. -/
  | twinHeartbeat (port : Nat) (h : Heartbeat)
  /-- TWIN_LOSS (R629): No heartbeat for twin_loss_ms declares the twin lost. -/
  | twinLoss
  /-- TWIN_TAKEOVER (R632): A follower takes over once no path to the shared node has been advertised for D + 5 ms. -/
  | twinTakeover (quietMs pauseUs : Nat)
  /-- INPUT_RECORD (R622): The follower receives and acknowledges a forwarded input. -/
  | inputRecord (seqNo : Nat) (r : InputRec)
  /-- COMMIT_RECORD (R626): The follower receives a step's commit record and compares digests or applies deltas. -/
  | commitRecord (step : Nat) (decisions : List (Nat × Nat)) (digest : List Byte)
  /-- TWIN_DELTA (R627): A standby follower stages a delta granule. -/
  | twinDelta (addr : Nat) (data : List Byte)
  /-- TWIN_LAG_EXPIRY (R625): A follower later than twin_lag_max_ms is detached. -/
  | twinLagExpiry
  /-- TWIN_RESYNC_DONE (R638): Resynchronisation completes at a boundary. -/
  | twinResyncDone
  /-- PSTART (R686): PSTART loads a program image into named cores, starts them and completes when they halt. -/
  | pstart (sector ring : Nat)
  /-- PSTOP (R687): PSTOP stops named cores with 0x0504. -/
  | pstop (sector ring : Nat)
  /-- RING_ENABLE (R682): A write of true to ring_enable checks placement, zeros the ring and enables it. -/
  | ringEnable (via : Path) (sector ring : Nat)
  /-- RING_DISABLE (R683): A write of false to ring_enable stops the taking of slots and drains the ring. -/
  | ringDisable (via : Path) (sector ring : Nat)
  /-- RING_DRAINED (R683): A draining ring's commands have completed, and it reads disabled. -/
  | ringDrained (sector ring : Nat)
  /-- BAR2_ACCESS (R649): A BAR2 access is mapped to HBM when permitted, and refused otherwise. -/
  | bar2Access (wr : Bool) (offset len : Nat) (data : List Byte)
  /-- RING_WINDOW_WRITE (R648): A BAR0 ring-window write takes effect after earlier BAR writes are acknowledged. -/
  | ringWindowWrite (offset : Nat) (data : List Byte)
  /-- MSIX_HOLDOFF_EXPIRY (R652): The end of a holdoff sends one message for the signals gathered. -/
  | msixHoldoffExpiry (vector : Nat)
  /-- FW_STAGE (R737): A write of 1 to fw_load_cmd verifies an image and writes it to the idle flash slot. -/
  | fwStage (via : Path)
  /-- FW_STAGE_DONE (R737): Staging ends and fw_load_status reads staged or refused. -/
  | fwStageDone (v : ImageVerdict)
  /-- FW_ACTIVATE (R738): A write of 2 to fw_load_cmd makes the staged image boot at the next device-level reset. -/
  | fwActivate (via : Path)
  /-- SLEEP_WAKE (R710): State 0 of sleep_request wakes the named domains. -/
  | sleepWake (via : Path) (others sectors : Nat)
  /-- SLEEP_SL1 (R699): State 1 of sleep_request asks the named sectors to quiesce. -/
  | sleepSl1 (via : Path) (others sectors : Nat)
  /-- SLEEP_SL2 (R699): State 2 of sleep_request asks named sectors and domains to enter retention. -/
  | sleepSl2 (via : Path) (others sectors : Nat)
  /-- SLEEP_SL3 (R699): State 3 of sleep_request asks the device to enter SL3. -/
  | sleepSl3 (via : Path)
  /-- SLEEP_SL4 (R699): State 4 of sleep_request asks the device to enter SL4. -/
  | sleepSl4 (via : Path)
  /-- SLEEP_ANSWER (R703): An asked block accepts, refuses or ends a delay, and the entry is decided and switched. -/
  | sleepAnswer (block : Nat) (ans : SleepAns)
  /-- SLEEP_DELAY_EXPIRY (R703): A delay that ends without an answer refuses with reason 12. -/
  | sleepDelayExpiry (block : Nat)
  /-- WAKE_DEMAND (R710): Traffic or an access to a sleeping domain starts its wake. -/
  | wakeDemand (domain : Nat) (kind : WakeKind)
  /-- DOMAIN_WAKE_DONE (R712): A waking domain is ON, with its pads released and SH entries restored. -/
  | domainWakeDone (domain stallUs : Nat)
  /-- PAD_RELEASE (R716): A write to pad_release releases a domain's latched pads. -/
  | padRelease (via : Path) (data : List Byte)
  /-- DEBUG_UNLOCK (R729): A signed token written to debug_unlock arms entry to RMA_DEBUG. -/
  | debugUnlock (via : Path) (token : List Byte) (signed : Bool)
  /-- BOOT_VERIFY_DONE (R734): The boot ROM finishes checking an image, and runs it, falls back, or enters recovery. -/
  | bootVerifyDone (v : BootVerdict)
  /-- BOOT_READY (R793): The management processor clears windows and keys, applies the commit log and reaches boot_state 3. -/
  | bootReady (sel : BootReport)
  /-- SVN_MIN_WRITE (R739): An authenticated write raises svn_min. -/
  | svnMinWrite (via : Path) (data : List Byte)
  /-- TRUST_ANCHOR_WRITE (R743): A write to trust_anchor, unauthenticated over I3C only while every element is zero. -/
  | trustAnchorWrite (via : Path) (elem : Nat) (data : List Byte)
  /-- SPDM_REQUEST (R740): An SPDM request is answered by the responder. -/
  | spdmRequest (q : SpdmReq)
  /-- KEY_RELEASE (R749): A vendor-defined release stores a release secret for a package. -/
  | keyRelease (session : Nat) (r : ReleaseReq)
  /-- KEY_REVOKE (R750): A vendor-defined revoke removes a release. -/
  | keyRevoke (session part pkg : Nat)
  /-- PKG_DECRYPT (R751): A write of 1 to pkg_cmd checks and starts decrypting a data package. -/
  | pkgDecrypt (via : Path)
  /-- PKG_DECRYPT_DONE (R752): A decrypt ends, and a failed tag zeroes the written plaintext. -/
  | pkgDecryptDone
  /-- PART_ASSIGN (R754): Value 1 of part_cmd assigns a FREE partition. -/
  | partAssign (via : Path) (part : Nat) (twinOk : Bool)
  /-- PART_SCRUB_FREE (R759): Value 2 of part_cmd scrubs a partition and leaves it FREE. -/
  | partScrubFree (via : Path) (part : Nat)
  /-- PART_SCRUB_KEEP (R759): Value 3 of part_cmd scrubs a partition and leaves it ASSIGNED. -/
  | partScrubKeep (via : Path) (part : Nat)
  /-- SCRUB_END (R759): After zeroing and the quiet hold, the windows are FREE and part_state takes its end state. -/
  | scrubEnd (part elapsedUs : Nat)
  /-- TRNG_FAIL (R758): A health-test failure lasting 100 ms marks the TRNG failed. -/
  | trngFail
  /-- DRBG_RESEED (R756): The DRBG reseeds after 2^20 requests or once per second. -/
  | drbgReseed (entropy : List Byte)
  /-- PKE_JOB_SUBMIT (R772): A write of 1 to pke_job_cmd checks a job image and queues the job. -/
  | pkeJobSubmit (via : Path)
  /-- PKE_JOB_START (R773): A loaded job starts at the next TIMEREF edge. -/
  | pkeJobStart
  /-- PKE_MADD (R771): The engine adds modulo m. -/
  | pkeMadd (c : PkeCmd)
  /-- PKE_MSUB (R771): The engine subtracts modulo m. -/
  | pkeMsub (c : PkeCmd)
  /-- PKE_MMUL (R771): The engine multiplies modulo m. -/
  | pkeMmul (c : PkeCmd)
  /-- PKE_MINV (R771): The engine inverts modulo m. -/
  | pkeMinv (c : PkeCmd)
  /-- PKE_MEXP (R771): The engine exponentiates modulo m. -/
  | pkeMexp (c : PkeCmd)
  /-- PKE_MRED (R771): The engine reduces a double-width value modulo m. -/
  | pkeMred (c : PkeCmd)
  /-- PKE_PADD (R771): The engine adds two curve points. -/
  | pkePadd (c : PkeCmd)
  /-- PKE_PDBL (R771): The engine doubles a curve point. -/
  | pkePdbl (c : PkeCmd)
  /-- PKE_PMUL (R771): The engine multiplies a curve point by a scalar. -/
  | pkePmul (c : PkeCmd)
  /-- PKE_PCHK (R771): The engine checks that a point is on the curve. -/
  | pkePchk (c : PkeCmd)
  /-- PKE_JOB_END (R777): A job's run ends and its outputs, or zeros, are stored. -/
  | pkeJobEnd (lateTicks : Nat) (mismatch : Bool)
  /-- PKE_WIPE_DONE (R782): The operand memory wipe ends, and the next job may start. -/
  | pkeWipeDone
  /-- PKE_SELFTEST (R785): A write of 1 to pke_selftest_cmd runs the known-answer test. -/
  | pkeSelftest (via : Path)
  /-- PKE_SELFTEST_DONE (R785): The self-test ends and sets pke_state. -/
  | pkeSelftestDone (passed : Bool)
  /-- SECTOR_RESET_CMD (R794): Op 1 of reset_cmd resets one sector. -/
  | sectorResetCmd (via : Path) (sector : Nat)
  /-- DEVICE_RESET_CMD (R790): Op 2 of reset_cmd starts a device-level reset. -/
  | deviceResetCmd (via : Path)
  /-- HANG_DECLARED (R797): Missing heartbeats declare a hang, which starts a crash-record collection. -/
  | hangDeclared (block : Nat)
  /-- STALL_DETECTED (R798): A ring closing no cycle for stall_limit_us reports a stall. -/
  | stallDetected (block : Nat)
  /-- CRASH_COLLECTION_DONE (R803): The crash header is written and the reset of the hang follows. -/
  | crashCollectionDone (unread : Unread)
  /-- OOS_REINSTATE (R810): An authenticated write of 1 to oos_reinstate clears out-of-service and resets. -/
  | oosReinstate (via : Path) (data : List Byte)
  /-- KEEPER_SWAP (R812): Op 1 of keeper_cmd swaps a logical core onto a keeper slot. -/
  | keeperSwap (via : Path) (core : Nat)
  /-- KEEPER_SELFTEST (R813): Op 2 of keeper_cmd self-tests a free keeper slot. -/
  | keeperSelftest (via : Path) (sector slot : Nat)
  /-- KEEPER_SELFTEST_DONE (R812): A slot self-test ends, and the slot becomes a keeper or is marked failed. -/
  | keeperSelftestDone (sector slot : Nat) (passed : Bool)
  /-- MESH_DETOUR (R814): Op 1 of mesh_link_cmd detours a mesh link. -/
  | meshDetour (via : Path) (link : Nat)
  /-- MESH_LINK_TEST (R815): Op 2 of mesh_link_cmd tests a detoured link for 10 ms. -/
  | meshLinkTest (via : Path) (link : Nat)
  /-- MESH_LINK_RESTORE (R815): Op 3 of mesh_link_cmd restores a detoured link. -/
  | meshLinkRestore (via : Path) (link : Nat)
  /-- MESH_LINK_REPEAT (R814): A packet repeat on a mesh link, which detours the link once repeats reach the threshold. -/
  | meshLinkRepeat (link : Nat)
  /-- FULL_SCAN_TEST (R816): Value 1 of full_test_cmd runs the scan test. -/
  | fullScanTest (via : Path)
  /-- EMRAM_MARCH_TEST (R816): Value 2 of full_test_cmd runs the eMRAM march test. -/
  | emramMarchTest (via : Path)
  /-- SISL_SELF_TEST (R816): Value 3 of full_test_cmd runs the security-island self-test. -/
  | sislSelfTest (via : Path)
  /-- FULL_TEST_DONE (R816): A full-stop test ends and starts a reset of kind 0x04. -/
  | fullTestDone (passed : Bool)
  /-- CRASH_READ (R820): A write of crash_read_offset loads crash_read_data. -/
  | crashRead (via : Path) (data : List Byte)
  /-- ORD_FLUSH (R831): A write to ord_flush applies a partition's held float updates. -/
  | ordFlush (via : Path) (data : List Byte)
  /-- NR_ARM (R837): Value 1 of nr_cmd draws and seals a seed and starts recording. -/
  | nrArm (via : Path) (part : Nat)
  /-- NR_LOAD (R840): Value 2 of nr_cmd loads a replay seed from a package. -/
  | nrLoad (via : Path) (part : Nat)
  /-- NR_ERASE (R837): Value 3 of nr_cmd erases the seed and returns to fresh noise. -/
  | nrErase (via : Path) (part : Nat)
  /-- HIST_CLEAR (R850): Value 1 of hist_cmd clears the histograms. -/
  | histClear (via : Path)
  /-- HIST_FREEZE (R850): Value 2 of hist_cmd freezes the histograms. -/
  | histFreeze (via : Path)
  /-- HIST_RESUME (R850): Value 3 of hist_cmd resumes counting. -/
  | histResume (via : Path)
  /-- BW_WINDOW_END (R851): At the end of each window the per-port byte counts are written. -/
  | bwWindowEnd (tx rx : List Nat)
  /-- FATAL_RESET (R789): An uncorrectable error in AON memory, or a failed self-check of the running firmware, starts a
  device-level reset of kind 0x06 that counts toward escalation. -/
  | fatalReset (aonError : Bool)
  /-- KEYSET_REGISTER_DONE (R354): Key-set registration completes within 50 ms plus 40 ms per GiB, and keyset_status leaves busy
  for registered or a refusal. -/
  | keysetRegisterDone
  /-- CHAIN_COMMIT_DONE (R293): The check of a staged chain completes within 10 ms, and the chain record, chain_digest and
  chain_status are written. -/
  | chainCommitDone
  /-- MESH_LINK_TEST_DONE (R815): The 10 ms idle-pattern test of a detoured mesh link ends, and mesh_link_status reads test
  passed or test failed. -/
  | meshLinkTestDone (passed : Bool)
  /-- RING_FILL_DONE (R485): The fill of a lacing ring from the key store or a device virtual address ends, and ring_state moves
  from filling to running. -/
  | ringFillDone (ring : Nat)
  /-- TRNG_SOURCE_PASS (R758): The entropy source passes its health tests again, so waiting draws, program starts and SPDM
  answers proceed and trng_state leaves failed. -/
  | trngSourcePass
  /-- BUS_MASTER_ENABLE (R646): A host change of bus-master enable in PCIe configuration space stops mirror writes and holds
  MSI-X messages in the PBA, or releases the pending messages. -/
  | busMasterEnable (on : Bool)
  /-- SET_ENDPOINT_ID (R655): The bus owner of a binding assigns the device's MCTP EID with Set Endpoint ID, which sets
  mctp_eid_i3c or mctp_eid_pcie. -/
  | setEndpointId (binding : Binding) (eid : Nat)
  /-- DYNAMIC_ADDRESS_ASSIGNMENT (R73): The I3C controller assigns the target a dynamic address by ENTDAA or SETAIASA. -/
  | dynamicAddressAssignment (addr : Nat) (entdaa : Bool)
  /-- TIMEREF_IN_PRESENT (R66): Edges begin arriving on TIMEREF_IN within 100 ppm of the crystal, so external_present sets and,
  with timeref_source 1 and no fallback yet, the device uses TIMEREF_IN. -/
  | timerefInPresent (ppm : Nat)
  /-- TWIN_HEARTBEAT_SEND (R629): Every 1 ms each ACTIVE yoke port sends a heartbeat with uid, role, twin_generation,
  step_counter and twin_sequence. -/
  | twinHeartbeatSend (port : Nat)
  /-- ANSWER_RECORD (R622): The follower receives the leader's answer record, with (src, flow, tseq) and the answer sent, and
  keeps it for use after a takeover. -/
  | answerRecord (src flow tseq mtype : Nat) (ans : Msg)
  /-- NOISE_KEYS_RECORD (R623): The follower receives the noise key of every core at a program start on the leader, and uses
  those keys in place of its own DRBG draws. -/
  | noiseKeysRecord (core : Nat) (key : BitVec 128)
  deriving DecidableEq, Repr

end Sys2Proof
end

