-- ==== Sys2Proof/Decode.lean ====
section
/-! DEFINITION. The command that a word spells. No row of the opcode table gives bits: a command reaches the block as
a write, a message, an event or a decoded instruction, so no word spells one. -/

namespace Sys2Proof

/-- The command of a word, by the table's bits: none. -/
def decodeTableWord (_nbits _w : Nat) : Option Instr := none

end Sys2Proof
end

