-- ==== Sys2Proof/Config.lean ====
section
/-! DEFINITION. What a part fixes, and the free values: results that the specification leaves open. A free value
is a constant without a body, so nothing can be proved of it; it is applied to the operands it depends on, or to
the counter `State.freeCtr`. -/

namespace Sys2Proof.Machine

/-- The fused life-cycle state of the part: PRODUCTION (R728).
DESIGN CHOICE (log 6): the specification gives the codes, and no part's fuses. -/
def fuseLifecycle : Nat := 2

/-- The fused `unique_id` (R763). DESIGN CHOICE (log 10): any nonzero value serves. -/
def fuseUniqueId : Nat := 1

/-- Whether the input filter takes a low of `MRST_N` of 1 µs to 10 µs, so many nanoseconds long, as an assertion: R70
leaves it open (log 117). -/
opaque mrstTaken : Nat → Bool

/-- Whether a part declares a sag at so many mV, within the tolerance of its threshold (R44): true for main, false for AUX (log
116). -/
opaque sagTaken : Bool → Nat → Bool

/-- The 256 bytes at an offset of the crash record with a sequence number: R801 names a record's contents and no
layout (log 18). -/
opaque crashRecord : Nat → Nat → Nat

/-- The digest of a keeper map (slots of all sectors in order): the bytes it is taken over are not stated (log 26). -/
opaque keeperDigest : List Nat → Nat

/-- What a modular operation gives a lane (R307, R875) whose input is `q` or more, or whose prime-table entry is
inconsistent: the operation, the input words and the words of the entry decide it (log 30). -/
opaque peLane : Nat → List Nat → List Nat → Nat

/-- A word of a transform under an inconsistent entry (R875): the operation, the input limb, the entry, the index (log 30). -/
opaque peWord : Nat → List Nat → List Nat → Nat → Nat

/-- Word i of tile t after a memory-form transform has used it as its working store (R319); the counter tells the
transforms apart (log 54). -/
opaque workWord : Nat → Nat → Nat → Nat

/-- What picks coefficient i of an `ENCS` within the bounds of R331: the inputs, E and log2 N decide it (log 55). -/
opaque encsPick : List Nat → Nat → Nat → Nat → Nat

/-- What picks the result of a function of R437 within 2 units in the last place: `EXP` 0x0B, `GELU` 0x0C, `SILU` 0x0D, `TANH`
0x0E, `RSQRT` 0x0F, of an FP32 pattern (log 39). -/
opaque veFunc : Nat → Nat → Nat

/-- A lane value outside the range of the narrow type that a chain writes (R433): its type code and the value (log 36). -/
opaque veNarrow : Nat → Nat → Nat

/-- A lane result that the specification does not state: a stage whose operand is of the other class (R435, R436), `MAX` or
`MIN` of zeros of different sign, `CLAMP` to a NaN; the stage operation, x and y (log 39). -/
opaque veOpen : Nat → Nat → Nat → Nat

/-- The `beats` field of a command that runs no kernel: R388 and R390 do not state it (log 53). -/
opaque seqBeats : Nat → Nat

/-- A shift of the control core by 64 or more (R272 does not state it): left or right, and the two operands (log 48). -/
opaque shiftOpen : Bool → Nat → Nat → Nat

/-- A value that a rule leaves open, for the units shared by the device: the log entry that names it, the counter that tells
one use from the next, and an index within the value. -/
opaque openValue : Nat → Nat → Nat → Nat

/-- The x-coordinate of the Wrap private key times a point (x, y) (R748): no rule gives the key of the part (log 66). -/
opaque wrapShared : Nat → Nat → Nat

/-- The measurement summary hash of R744, of the contents of its blocks: DSP0274 gives the encoding of a block, and the
specification does not repeat it (log 173). -/
opaque measurementSummary : List Nat → Nat

/-- The digest of the kernel that runs a homomorphic operation (R843): the images of Dufemir's kernels are not given (log 119). -/
opaque kernelDigest : Nat → Nat

/-- The beats by which an instruction was fetched before it issued (R252, R853) (log 56). -/
opaque fetchLead : Nat → Nat

end Sys2Proof.Machine
end

