-- ==== Sys2Proof/Machine/DictTable.lean ====
section
/-! DEFINITION. The object dictionary: every entry of every chapter's table, with its type, size, access right,
persistence, SH attribute and default (R10, R11, R856, R859, R860), and the key under which State holds it. -/

namespace Sys2Proof.Machine

/-- The access rights of R12, in the order of their codes (R659). -/
inductive Acc where
  | ro | rw | rwi | wo | cmd | rc | w1c | trust
  deriving DecidableEq, Repr

/-- The code of R659. -/
def Acc.code : Acc → Nat
  | .ro => 1 | .rw => 2 | .rwi => 3 | .wo => 4 | .cmd => 5 | .rc => 6 | .w1c => 7 | .trust => 8

/-- One row of a dictionary table: indices `base` to `base + count - 1`, sub-indices `lo` to `hi`. Type and
persistence are the codes of R659. -/
structure DRow where
  base : Nat
  count : Nat
  lo : Nat
  hi : Nat
  typ : Nat
  size : Nat
  acc : Acc
  pers : Nat
  sh : Bool
  dflt : Nat
  deriving DecidableEq, Repr

/-- Rows of the entries at 0x1000, part 0. -/
def dictRows1_0 : List DRow := [
  ⟨0x1001, 1, 0x01, 0x01, 9, 16, .ro, 4, false, 0x4D2D30303848562D585A55⟩,
  ⟨0x1001, 1, 0x02, 0x02, 1, 1, .ro, 4, false, 177⟩,
  ⟨0x1001, 1, 0x03, 0x03, 8, 16, .ro, 4, false, fuseUniqueId⟩,
  ⟨0x1002, 1, 0x01, 0x01, 1, 1, .ro, 1, false, 48⟩,
  ⟨0x1010, 1, 0x01, 0x01, 2, 2, .ro, 4, false, 32⟩,
  ⟨0x1010, 1, 0x02, 0x02, 2, 2, .ro, 4, false, 28⟩,
  ⟨0x1010, 1, 0x03, 0x03, 2, 2, .ro, 4, false, 25⟩,
  ⟨0x1010, 1, 0x04, 0x04, 2, 2, .ro, 4, false, 128⟩,
  ⟨0x1010, 1, 0x05, 0x05, 3, 4, .ro, 4, false, 4096⟩,
  ⟨0x1010, 1, 0x06, 0x06, 2, 2, .ro, 4, false, 32⟩,
  ⟨0x1010, 1, 0x07, 0x07, 3, 4, .ro, 4, false, 1572864⟩,
  ⟨0x1010, 1, 0x08, 0x08, 3, 4, .ro, 4, false, 8388608⟩,
  ⟨0x1010, 1, 0x09, 0x09, 2, 2, .ro, 4, false, 8⟩,
  ⟨0x1010, 1, 0x0A, 0x0A, 2, 2, .ro, 4, false, 8⟩,
  ⟨0x1010, 1, 0x0B, 0x0B, 3, 4, .ro, 4, false, 131072⟩,
  ⟨0x1010, 1, 0x0C, 0x0C, 2, 2, .ro, 4, false, 63⟩,
  ⟨0x1010, 1, 0x0D, 0x0D, 2, 2, .ro, 4, false, 3⟩,
  ⟨0x1010, 1, 0x0E, 0x0E, 2, 2, .ro, 4, false, 8⟩,
  ⟨0x1010, 1, 0x0F, 0x0F, 2, 2, .ro, 4, false, 4⟩,
  ⟨0x1010, 1, 0x10, 0x10, 2, 2, .ro, 4, false, 8⟩,
  ⟨0x1010, 1, 0x11, 0x11, 2, 2, .ro, 4, false, 6⟩,
  ⟨0x1010, 1, 0x12, 0x12, 2, 2, .ro, 4, false, 64⟩,
  ⟨0x1010, 1, 0x13, 0x13, 2, 2, .ro, 4, false, 4⟩,
  ⟨0x1010, 1, 0x14, 0x14, 2, 2, .ro, 4, false, 10⟩,
  ⟨0x1010, 1, 0x15, 0x15, 2, 2, .ro, 4, false, 17⟩,
  ⟨0x1010, 1, 0x16, 0x16, 2, 2, .ro, 4, false, 61⟩,
  ⟨0x1010, 1, 0x17, 0x17, 2, 2, .ro, 4, false, 30⟩,
  ⟨0x1010, 1, 0x18, 0x18, 2, 2, .ro, 4, false, 16⟩,
  ⟨0x1010, 1, 0x19, 0x19, 2, 2, .ro, 4, false, 4⟩,
  ⟨0x1010, 1, 0x1A, 0x1A, 2, 2, .ro, 4, false, 256⟩,
  ⟨0x1010, 1, 0x1B, 0x1B, 2, 2, .ro, 4, false, 64⟩,
  ⟨0x1010, 1, 0x1C, 0x1C, 2, 2, .ro, 4, false, 4096⟩,
  ⟨0x1010, 1, 0x1D, 0x1D, 3, 4, .ro, 4, false, 65536⟩,
  ⟨0x1010, 1, 0x1E, 0x1E, 2, 2, .ro, 4, false, 2⟩,
  ⟨0x1010, 1, 0x1F, 0x1F, 2, 2, .ro, 4, false, 64⟩,
  ⟨0x1010, 1, 0x20, 0x20, 2, 2, .ro, 4, false, 1024⟩,
  ⟨0x1010, 1, 0x21, 0x21, 2, 2, .ro, 4, false, 10⟩,
  ⟨0x1010, 1, 0x22, 0x22, 2, 2, .ro, 4, false, 12⟩,
  ⟨0x1010, 1, 0x23, 0x23, 2, 2, .ro, 4, false, 32⟩,
  ⟨0x1010, 1, 0x24, 0x24, 2, 2, .ro, 4, false, 64⟩]

/-- Rows of the entries at 0x1000, part 1. -/
def dictRows1_1 : List DRow := [
  ⟨0x1010, 1, 0x25, 0x25, 2, 2, .ro, 4, false, 64⟩,
  ⟨0x1010, 1, 0x26, 0x26, 2, 2, .ro, 4, false, 4⟩,
  ⟨0x1010, 1, 0x27, 0x27, 3, 4, .ro, 4, false, 16384⟩,
  ⟨0x1010, 1, 0x28, 0x28, 2, 2, .ro, 4, false, 128⟩,
  ⟨0x1010, 1, 0x29, 0x29, 2, 2, .ro, 4, false, 16⟩,
  ⟨0x1010, 1, 0x2A, 0x2A, 2, 2, .ro, 4, false, 8⟩,
  ⟨0x1010, 1, 0x2B, 0x2B, 2, 2, .ro, 4, false, 16⟩,
  ⟨0x1010, 1, 0x2C, 0x2C, 2, 2, .ro, 4, false, 16⟩,
  ⟨0x1010, 1, 0x2D, 0x2D, 2, 2, .ro, 4, false, 32⟩,
  ⟨0x1010, 1, 0x2E, 0x2E, 2, 2, .ro, 4, false, 16⟩,
  ⟨0x1010, 1, 0x2F, 0x2F, 2, 2, .ro, 4, false, 64⟩,
  ⟨0x1010, 1, 0x30, 0x30, 2, 2, .ro, 4, false, 1024⟩,
  ⟨0x1010, 1, 0x31, 0x31, 3, 4, .ro, 4, false, 65536⟩,
  ⟨0x1010, 1, 0x32, 0x32, 3, 4, .ro, 4, false, 2097152⟩,
  ⟨0x1010, 1, 0x33, 0x33, 2, 2, .ro, 4, false, 64⟩,
  ⟨0x1010, 1, 0x34, 0x34, 2, 2, .ro, 4, false, 32⟩,
  ⟨0x1010, 1, 0x35, 0x35, 3, 4, .ro, 4, false, 65536⟩,
  ⟨0x1010, 1, 0x36, 0x36, 2, 2, .ro, 4, false, 4⟩,
  ⟨0x1010, 1, 0x37, 0x37, 3, 4, .ro, 4, false, 262144⟩,
  ⟨0x1010, 1, 0x38, 0x38, 3, 4, .ro, 4, false, 2048⟩,
  ⟨0x1010, 1, 0x39, 0x39, 3, 4, .ro, 4, false, 1048576⟩,
  ⟨0x1010, 1, 0x3A, 0x3A, 3, 4, .ro, 4, false, 67108864⟩,
  ⟨0x1010, 1, 0x3B, 0x3B, 2, 2, .ro, 4, false, 4096⟩,
  ⟨0x1010, 1, 0x3C, 0x3C, 2, 2, .ro, 4, false, 32⟩,
  ⟨0x1010, 1, 0x3D, 0x3D, 2, 2, .ro, 4, false, 2⟩,
  ⟨0x1010, 1, 0x3E, 0x3E, 2, 2, .ro, 4, false, 9⟩,
  ⟨0x1010, 1, 0x3F, 0x3F, 3, 4, .ro, 4, false, 65536⟩,
  ⟨0x1010, 1, 0x40, 0x40, 2, 2, .ro, 4, false, 64⟩,
  ⟨0x1010, 1, 0x41, 0x41, 2, 2, .ro, 4, false, 2048⟩,
  ⟨0x1010, 1, 0x42, 0x42, 3, 4, .ro, 4, false, 1048576⟩,
  ⟨0x1010, 1, 0x43, 0x43, 3, 4, .ro, 4, false, 16384⟩,
  ⟨0x1010, 1, 0x44, 0x44, 2, 2, .ro, 4, false, 4096⟩,
  ⟨0x1010, 1, 0x45, 0x45, 2, 2, .ro, 4, false, 3840⟩,
  ⟨0x1010, 1, 0x46, 0x46, 3, 4, .ro, 4, false, 16384⟩,
  ⟨0x1010, 1, 0x47, 0x47, 2, 2, .ro, 4, false, 32⟩,
  ⟨0x1010, 1, 0x48, 0x48, 2, 2, .ro, 4, false, 128⟩,
  ⟨0x1010, 1, 0x49, 0x49, 2, 2, .ro, 4, false, 4096⟩,
  ⟨0x1010, 1, 0x4A, 0x4A, 2, 2, .ro, 4, false, 16⟩,
  ⟨0x1010, 1, 0x4B, 0x4B, 2, 2, .ro, 4, false, 8⟩,
  ⟨0x1010, 1, 0x4C, 0x4C, 2, 2, .ro, 4, false, 16⟩]

/-- Rows of the entries at 0x1000, part 2. -/
def dictRows1_2 : List DRow := [
  ⟨0x1010, 1, 0x4D, 0x4D, 2, 2, .ro, 4, false, 64⟩,
  ⟨0x1010, 1, 0x4E, 0x4E, 2, 2, .ro, 4, false, 16⟩,
  ⟨0x1010, 1, 0x4F, 0x4F, 2, 2, .ro, 4, false, 8192⟩,
  ⟨0x1010, 1, 0x50, 0x50, 2, 2, .ro, 4, false, 16⟩,
  ⟨0x1010, 1, 0x51, 0x51, 2, 2, .ro, 4, false, 512⟩,
  ⟨0x1010, 1, 0x52, 0x52, 3, 4, .ro, 4, false, 536870912⟩,
  ⟨0x1010, 1, 0x53, 0x53, 2, 2, .ro, 4, false, 32⟩,
  ⟨0x1010, 1, 0x54, 0x54, 3, 4, .ro, 4, false, 8388608⟩]

def dictRows1 : List DRow := dictRows1_0 ++ dictRows1_1 ++ dictRows1_2

/-- Rows of the entries at 0x2000, part 0. -/
def dictRows2_0 : List DRow := [
  ⟨0x2010, 1, 0x01, 0x01, 3, 4, .ro, 1, false, 0⟩,
  ⟨0x2010, 1, 0x02, 0x02, 3, 4, .ro, 1, false, 0⟩,
  ⟨0x2010, 1, 0x03, 0x03, 3, 4, .ro, 1, false, 0⟩,
  ⟨0x2010, 1, 0x04, 0x04, 3, 4, .ro, 1, false, 0⟩,
  ⟨0x2011, 1, 0x01, 0x01, 5, 4, .ro, 1, false, 0⟩,
  ⟨0x2011, 1, 0x02, 0x02, 1, 1, .rw, 3, false, 100⟩,
  ⟨0x2011, 1, 0x03, 0x03, 1, 1, .ro, 4, false, 115⟩,
  ⟨0x2011, 1, 0x04, 0x04, 5, 4, .ro, 1, false, 0⟩,
  ⟨0x2011, 1, 0x05, 0x05, 5, 4, .ro, 1, false, 0⟩,
  ⟨0x2011, 1, 0x06, 0x06, 3, 4, .ro, 3, false, 0⟩,
  ⟨0x2012, 1, 0x01, 0x01, 1, 1, .rw, 3, false, 0⟩,
  ⟨0x2012, 1, 0x02, 0x02, 1, 1, .ro, 1, false, 0⟩,
  ⟨0x2012, 1, 0x03, 0x03, 3, 4, .ro, 3, false, 0⟩,
  ⟨0x2012, 1, 0x04, 0x04, 4, 8, .ro, 2, false, 0⟩,
  ⟨0x2013, 1, 0x01, 0x01, 3, 4, .w1c, 1, false, 0⟩,
  ⟨0x2013, 1, 0x02, 0x02, 3, 4, .rw, 3, false, 255⟩,
  ⟨0x2014, 1, 0x01, 0x01, 7, 1, .rw, 3, false, 1⟩,
  ⟨0x2014, 1, 0x02, 0x02, 1, 1, .ro, 3, false, 0⟩,
  ⟨0x2014, 1, 0x03, 0x03, 2, 2, .rw, 3, false, 2000⟩,
  ⟨0x2020, 1, 0x01, 0x01, 3, 4, .ro, 1, false, 0⟩,
  ⟨0x2020, 1, 0x02, 0x02, 1, 1, .ro, 4, false, 4⟩,
  ⟨0x2020, 1, 0x03, 0x03, 3, 4, .rc, 1, false, 0⟩,
  ⟨0x2021, 1, 0x01, 0x20, 1, 1, .rwi, 2, true, 0⟩,
  ⟨0x2022, 1, 0x01, 0x20, 3, 4, .rc, 1, false, 0⟩,
  ⟨0x2023, 1, 0x01, 0x20, 2, 2, .ro, 1, false, 0⟩,
  ⟨0x2024, 1, 0x01, 0x01, 7, 1, .rw, 3, false, 1⟩,
  ⟨0x2024, 1, 0x02, 0x02, 1, 1, .rw, 3, false, 6⟩,
  ⟨0x2024, 1, 0x03, 0x03, 3, 4, .rc, 1, false, 0⟩,
  ⟨0x2025, 1, 0x01, 0x29, 5, 4, .ro, 1, false, 0⟩,
  ⟨0x2030, 1, 0x01, 0x01, 2, 2, .rw, 3, false, 1600⟩,
  ⟨0x2030, 1, 0x02, 0x02, 2, 2, .ro, 1, false, 1600⟩,
  ⟨0x2030, 1, 0x03, 0x03, 2, 2, .ro, 1, false, 0⟩,
  ⟨0x2030, 1, 0x04, 0x04, 3, 4, .rc, 1, false, 0⟩,
  ⟨0x2031, 1, 0x01, 0x20, 1, 1, .rw, 2, false, 2⟩,
  ⟨0x2032, 1, 0x01, 0x20, 1, 1, .ro, 1, false, 2⟩,
  ⟨0x2033, 1, 0x01, 0x01, 3, 4, .rw, 2, false, 0⟩,
  ⟨0x2034, 1, 0x01, 0x28, 1, 1, .ro, 1, false, 0⟩,
  ⟨0x2035, 1, 0x01, 0x01, 4, 8, .cmd, 1, false, 0⟩,
  ⟨0x2035, 1, 0x02, 0x02, 2, 2, .ro, 1, false, 0⟩,
  ⟨0x2035, 1, 0x03, 0x03, 1, 1, .ro, 1, false, 0⟩]

/-- Rows of the entries at 0x2000, part 1. -/
def dictRows2_1 : List DRow := [
  ⟨0x2035, 1, 0x04, 0x04, 1, 1, .rw, 3, false, 10⟩,
  ⟨0x2036, 1, 0x01, 0x01, 2, 2, .ro, 2, false, 0⟩,
  ⟨0x2036, 1, 0x02, 0x02, 9, 8, .ro, 2, false, 0⟩,
  ⟨0x2036, 1, 0x03, 0x03, 1, 1, .ro, 2, false, 0⟩,
  ⟨0x2036, 1, 0x04, 0x04, 1, 1, .ro, 2, false, 0⟩,
  ⟨0x2036, 1, 0x05, 0x05, 1, 1, .ro, 2, false, 0⟩,
  ⟨0x2036, 1, 0x06, 0x06, 4, 8, .ro, 2, false, 0⟩,
  ⟨0x2037, 1, 0x01, 0x01, 3, 4, .ro, 2, false, 0⟩,
  ⟨0x2037, 1, 0x02, 0x02, 3, 4, .ro, 2, false, 0⟩,
  ⟨0x2037, 1, 0x03, 0x03, 3, 4, .ro, 2, false, 0⟩,
  ⟨0x2038, 1, 0x01, 0x01, 3, 4, .ro, 2, false, 0⟩,
  ⟨0x2038, 1, 0x02, 0x02, 3, 4, .rc, 1, false, 0⟩,
  ⟨0x2039, 1, 0x01, 0x01, 4, 8, .ro, 1, false, 0⟩,
  ⟨0x2039, 1, 0x02, 0x02, 4, 8, .cmd, 1, false, 0⟩,
  ⟨0x2039, 1, 0x03, 0x03, 7, 1, .rw, 3, false, 1⟩,
  ⟨0x203A, 1, 0x01, 0x01, 3, 4, .ro, 3, false, 0⟩,
  ⟨0x203A, 1, 0x02, 0x02, 3, 4, .ro, 3, false, 0⟩,
  ⟨0x203A, 1, 0x03, 0x03, 3, 4, .ro, 3, false, 0⟩,
  ⟨0x203A, 1, 0x04, 0x04, 3, 4, .ro, 3, false, 0⟩,
  ⟨0x203A, 1, 0x05, 0x05, 3, 4, .ro, 3, false, 0⟩,
  ⟨0x203A, 1, 0x06, 0x06, 3, 4, .ro, 3, false, 0⟩,
  ⟨0x203B, 1, 0x01, 0x10, 8, 16, .ro, 2, false, 0⟩]

def dictRows2 : List DRow := dictRows2_0 ++ dictRows2_1

/-- Rows of the entries at 0x3000, part 0. -/
def dictRows3_0 : List DRow := [
  ⟨0x3001, 1, 0x01, 0x01, 4, 8, .ro, 1, false, 0x3FF0000000⟩,
  ⟨0x3001, 1, 0x02, 0x02, 2, 2, .ro, 3, false, 0⟩,
  ⟨0x3002, 1, 0x01, 0x20, 2, 2, .ro, 3, false, 65535⟩,
  ⟨0x3003, 1, 0x01, 0x01, 2, 2, .cmd, 1, false, 0⟩,
  ⟨0x3003, 1, 0x02, 0x02, 2, 2, .cmd, 1, false, 0⟩,
  ⟨0x3003, 1, 0x03, 0x03, 1, 1, .ro, 1, false, 0⟩,
  ⟨0x3003, 1, 0x04, 0x04, 3, 4, .ro, 3, false, 0⟩,
  ⟨0x3004, 1, 0x01, 0x01, 1, 1, .rw, 3, false, 4⟩,
  ⟨0x3004, 1, 0x02, 0x02, 2, 2, .rwi, 3, false, 16⟩,
  ⟨0x3005, 1, 0x01, 0x01, 1, 1, .rw, 3, false, 95⟩,
  ⟨0x3006, 1, 0x01, 0x10, 3, 4, .rc, 1, false, 0⟩,
  ⟨0x3007, 1, 0x01, 0x10, 3, 4, .rc, 2, false, 0⟩,
  ⟨0x3008, 1, 0x01, 0x01, 2, 2, .rw, 3, false, 8⟩,
  ⟨0x3009, 1, 0x01, 0x01, 3, 4, .cmd, 1, false, 0⟩,
  ⟨0x3009, 1, 0x02, 0x02, 3, 4, .ro, 1, false, 0⟩,
  ⟨0x300A, 1, 0x01, 0x01, 3, 4, .w1c, 1, false, 0⟩,
  ⟨0x300B, 1, 0x01, 0x10, 1, 1, .ro, 1, false, 0⟩,
  ⟨0x3401, 1, 0x01, 0x20, 3, 4, .rc, 1, false, 0⟩,
  ⟨0x3402, 1, 0x01, 0x20, 3, 4, .rc, 1, false, 0⟩,
  ⟨0x3403, 1, 0x01, 0x20, 3, 4, .rc, 2, false, 0⟩,
  ⟨0x3404, 1, 0x01, 0x20, 3, 4, .rc, 1, false, 0⟩,
  ⟨0x3405, 1, 0x01, 0x20, 2, 2, .rwi, 2, false, 0⟩,
  ⟨0x3406, 1, 0x01, 0x01, 3, 4, .rw, 2, false, 0⟩,
  ⟨0x3407, 1, 0x01, 0x01, 2, 2, .rw, 3, false, 16⟩,
  ⟨0x3408, 1, 0x01, 0x01, 4, 8, .ro, 2, false, 0⟩,
  ⟨0x3408, 1, 0x02, 0x02, 2, 2, .ro, 2, false, 0⟩,
  ⟨0x3408, 1, 0x03, 0x03, 4, 8, .ro, 2, false, 0⟩,
  ⟨0x3409, 1, 0x01, 0x01, 3, 4, .rc, 1, false, 0⟩,
  ⟨0x340A, 1, 0x01, 0x20, 1, 1, .ro, 1, false, 0⟩,
  ⟨0x3501, 1, 0x01, 0x01, 1, 1, .rw, 1, false, 0⟩,
  ⟨0x3501, 1, 0x02, 0x02, 4, 8, .rw, 1, false, 0⟩,
  ⟨0x3501, 1, 0x03, 0x03, 3, 4, .rw, 1, false, 0⟩,
  ⟨0x3501, 1, 0x04, 0x04, 4, 8, .rw, 1, false, 0⟩,
  ⟨0x3501, 1, 0x05, 0x05, 1, 1, .cmd, 1, false, 0⟩,
  ⟨0x3501, 1, 0x06, 0x06, 1, 1, .ro, 1, false, 0⟩,
  ⟨0x3502, 1, 0x01, 0x01, 2, 2, .ro, 2, false, 0⟩,
  ⟨0x3502, 1, 0x02, 0x02, 2, 2, .ro, 2, false, 0⟩,
  ⟨0x3502, 1, 0x03, 0x03, 1, 1, .ro, 2, false, 0⟩,
  ⟨0x3502, 1, 0x04, 0x04, 4, 8, .ro, 2, false, 0⟩,
  ⟨0x3502, 1, 0x05, 0x05, 4, 8, .ro, 2, false, 0⟩]

/-- Rows of the entries at 0x3000, part 1. -/
def dictRows3_1 : List DRow := [
  ⟨0x3502, 1, 0x06, 0x06, 4, 8, .ro, 2, false, 0⟩,
  ⟨0x3503, 1, 0x01, 0x20, 3, 4, .rc, 1, false, 0⟩,
  ⟨0x3504, 1, 0x01, 0x01, 2, 2, .cmd, 1, false, 0⟩,
  ⟨0x3505, 1, 0x01, 0x01, 3, 4, .ro, 1, false, 0⟩]

def dictRows3 : List DRow := dictRows3_0 ++ dictRows3_1

/-- Rows of the entries at 0x4000, part 0. -/
def dictRows4_0 : List DRow := [
  ⟨0x4100, 1, 0x01, 0x20, 3, 4, .rwi, 2, true, 0⟩,
  ⟨0x4101, 1, 0x01, 0x01, 2, 2, .ro, 2, false, 0⟩,
  ⟨0x4101, 1, 0x02, 0x02, 2, 2, .ro, 2, false, 0⟩,
  ⟨0x4101, 1, 0x03, 0x03, 1, 1, .ro, 2, false, 0⟩,
  ⟨0x4101, 1, 0x04, 0x04, 2, 2, .ro, 2, false, 0⟩,
  ⟨0x4101, 1, 0x05, 0x05, 4, 8, .ro, 2, false, 0⟩,
  ⟨0x4101, 1, 0x06, 0x06, 1, 1, .ro, 2, false, 0⟩,
  ⟨0x4101, 1, 0x07, 0x07, 1, 1, .ro, 2, false, 0⟩,
  ⟨0x4101, 1, 0x08, 0x08, 1, 1, .ro, 2, false, 0⟩,
  ⟨0x4102, 1, 0x01, 0x20, 3, 4, .rc, 1, false, 0⟩,
  ⟨0x4103, 1, 0x01, 0x01, 3, 4, .rc, 1, false, 0⟩,
  ⟨0x4104, 1, 0x01, 0x01, 3, 4, .rc, 1, false, 0⟩,
  ⟨0x4110, 1, 0x01, 0x20, 3, 4, .rc, 1, false, 0⟩,
  ⟨0x4111, 1, 0x01, 0x20, 3, 4, .rc, 1, false, 0⟩,
  ⟨0x4112, 1, 0x01, 0x01, 2, 2, .ro, 2, false, 0⟩,
  ⟨0x4112, 1, 0x02, 0x02, 2, 2, .ro, 2, false, 0⟩,
  ⟨0x4112, 1, 0x03, 0x03, 2, 2, .ro, 2, false, 0⟩,
  ⟨0x4112, 1, 0x04, 0x04, 3, 4, .ro, 2, false, 0⟩,
  ⟨0x4120, 1, 0x01, 0x20, 3, 4, .rc, 1, false, 0⟩,
  ⟨0x4121, 1, 0x01, 0x20, 3, 4, .rc, 1, false, 0⟩,
  ⟨0x4122, 1, 0x01, 0x01, 1, 1, .ro, 2, false, 0⟩,
  ⟨0x4122, 1, 0x02, 0x02, 1, 1, .ro, 2, false, 0⟩,
  ⟨0x4122, 1, 0x03, 0x03, 2, 2, .ro, 2, false, 0⟩,
  ⟨0x4122, 1, 0x04, 0x04, 2, 2, .ro, 2, false, 0⟩,
  ⟨0x4122, 1, 0x05, 0x05, 3, 4, .ro, 2, false, 0⟩,
  ⟨0x4122, 1, 0x06, 0x06, 4, 8, .ro, 2, false, 0⟩,
  ⟨0x4123, 1, 0x01, 0x01, 3, 4, .cmd, 1, false, 0⟩,
  ⟨0x4130, 1, 0x01, 0x20, 3, 4, .rc, 1, false, 0⟩,
  ⟨0x4131, 1, 0x01, 0x20, 3, 4, .rc, 1, false, 0⟩,
  ⟨0x4132, 1, 0x01, 0x20, 3, 4, .rc, 1, false, 0⟩,
  ⟨0x4133, 1, 0x01, 0x01, 1, 1, .rw, 3, false, 4⟩,
  ⟨0x4134, 1, 0x01, 0x01, 2, 2, .ro, 2, false, 0⟩,
  ⟨0x4134, 1, 0x02, 0x02, 2, 2, .ro, 2, false, 0⟩,
  ⟨0x4134, 1, 0x03, 0x03, 2, 2, .ro, 2, false, 0⟩,
  ⟨0x4134, 1, 0x04, 0x04, 3, 4, .ro, 2, false, 0⟩,
  ⟨0x4140, 1, 0x01, 0x01, 4, 8, .rw, 1, false, 0⟩,
  ⟨0x4140, 1, 0x02, 0x02, 1, 1, .cmd, 1, false, 0⟩,
  ⟨0x4140, 1, 0x03, 0x03, 1, 1, .ro, 1, false, 0⟩,
  ⟨0x4141, 1, 0x01, 0x40, 1, 1, .ro, 1, false, 0⟩,
  ⟨0x4142, 1, 0x01, 0x40, 3, 4, .ro, 1, false, 0⟩]

/-- Rows of the entries at 0x4000, part 1. -/
def dictRows4_1 : List DRow := [
  ⟨0x4150, 1, 0x01, 0x20, 3, 4, .rwi, 2, true, 0⟩,
  ⟨0x4151, 1, 0x01, 0x01, 2, 2, .ro, 1, false, 0⟩,
  ⟨0x4151, 1, 0x02, 0x02, 4, 8, .ro, 1, false, 0⟩,
  ⟨0x4152, 1, 0x01, 0x01, 3, 4, .rw, 3, false, 500⟩,
  ⟨0x4152, 1, 0x02, 0x02, 3, 4, .rw, 3, false, 1000⟩,
  ⟨0x4153, 1, 0x01, 0x01, 2, 2, .cmd, 1, false, 0⟩,
  ⟨0x4154, 1, 0x01, 0x01, 2, 2, .rw, 1, false, 0⟩,
  ⟨0x4154, 1, 0x02, 0x02, 1, 1, .ro, 1, false, 0⟩,
  ⟨0x4154, 1, 0x03, 0x03, 2, 2, .ro, 1, false, 0⟩,
  ⟨0x4154, 1, 0x04, 0x04, 2, 2, .ro, 1, false, 0⟩,
  ⟨0x4154, 1, 0x05, 0x05, 4, 8, .ro, 1, false, 0⟩,
  ⟨0x4154, 1, 0x06, 0x06, 3, 4, .ro, 1, false, 0⟩,
  ⟨0x4154, 1, 0x07, 0x07, 3, 4, .ro, 1, false, 0⟩,
  ⟨0x4154, 1, 0x08, 0x08, 3, 4, .ro, 1, false, 0⟩,
  ⟨0x4155, 1, 0x01, 0x01, 3, 4, .rc, 1, false, 0⟩,
  ⟨0x4155, 1, 0x02, 0x02, 3, 4, .rc, 1, false, 0⟩,
  ⟨0x4156, 1, 0x01, 0x01, 3, 4, .ro, 3, false, 0⟩]

def dictRows4 : List DRow := dictRows4_0 ++ dictRows4_1

/-- Rows of the entries at 0x5000, part 0. -/
def dictRows5_0 : List DRow := [
  ⟨0x5001, 1, 0x01, 0x01, 2, 2, .ro, 1, false, 0⟩,
  ⟨0x5002, 1, 0x01, 0x01, 1, 1, .rw, 1, false, 0⟩,
  ⟨0x5002, 1, 0x02, 0x02, 1, 1, .rw, 1, false, 0⟩,
  ⟨0x5002, 1, 0x03, 0x03, 1, 1, .rw, 1, false, 17⟩,
  ⟨0x5002, 1, 0x04, 0x04, 1, 1, .cmd, 1, false, 0⟩,
  ⟨0x5002, 1, 0x05, 0x05, 1, 1, .ro, 1, false, 0⟩,
  ⟨0x5003, 1, 0x01, 0x40, 4, 8, .rw, 1, false, 0⟩,
  ⟨0x5004, 1, 0x01, 0x01, 4, 8, .rw, 1, false, 0⟩,
  ⟨0x5004, 1, 0x02, 0x02, 4, 8, .rw, 1, false, 0⟩,
  ⟨0x5004, 1, 0x03, 0x03, 1, 1, .cmd, 1, false, 0⟩,
  ⟨0x5004, 1, 0x04, 0x04, 1, 1, .ro, 1, false, 0⟩,
  ⟨0x5005, 1, 0x01, 0x01, 2, 2, .ro, 1, false, 0⟩,
  ⟨0x5005, 1, 0x02, 0x02, 4, 8, .ro, 1, false, 2097152⟩,
  ⟨0x5006, 1, 0x01, 0x01, 4, 8, .rw, 1, false, 0⟩,
  ⟨0x5006, 1, 0x02, 0x02, 7, 1, .ro, 1, false, 0⟩,
  ⟨0x5006, 1, 0x03, 0x03, 1, 1, .ro, 1, false, 0⟩,
  ⟨0x5006, 1, 0x04, 0x04, 1, 1, .ro, 1, false, 0⟩,
  ⟨0x5006, 1, 0x05, 0x05, 2, 2, .ro, 1, false, 0⟩,
  ⟨0x5006, 1, 0x06, 0x06, 10, 32, .ro, 1, false, 0⟩,
  ⟨0x5006, 1, 0x07, 0x07, 2, 2, .ro, 1, false, 0⟩,
  ⟨0x5006, 1, 0x08, 0x08, 1, 1, .ro, 1, false, 0⟩,
  ⟨0x5007, 1, 0x01, 0x01, 2, 2, .ro, 2, false, 0⟩,
  ⟨0x5007, 1, 0x02, 0x02, 1, 1, .ro, 2, false, 0⟩,
  ⟨0x5007, 1, 0x03, 0x03, 2, 2, .ro, 2, false, 0⟩,
  ⟨0x5007, 1, 0x04, 0x04, 3, 4, .ro, 2, false, 0⟩,
  ⟨0x5007, 1, 0x05, 0x05, 3, 4, .ro, 2, false, 0⟩,
  ⟨0x5007, 1, 0x06, 0x06, 3, 4, .ro, 2, false, 0⟩,
  ⟨0x5007, 1, 0x07, 0x07, 4, 8, .ro, 2, false, 0⟩,
  ⟨0x5007, 1, 0x08, 0x08, 1, 1, .ro, 2, false, 0⟩,
  ⟨0x5007, 1, 0x09, 0x09, 4, 8, .ro, 2, false, 0⟩,
  ⟨0x5008, 1, 0x01, 0x20, 3, 4, .rc, 1, false, 0⟩,
  ⟨0x5009, 1, 0x01, 0x20, 3, 4, .rc, 1, false, 0⟩,
  ⟨0x5100, 256, 0x01, 0x01, 1, 1, .ro, 1, false, 0⟩,
  ⟨0x5100, 256, 0x02, 0x02, 1, 1, .ro, 1, false, 0⟩,
  ⟨0x5100, 256, 0x03, 0x03, 10, 32, .ro, 1, false, 0⟩]

def dictRows5 : List DRow := dictRows5_0

/-- Rows of the entries at 0x6000, part 0. -/
def dictRows6_0 : List DRow := [
  ⟨0x6001, 1, 0x01, 0x01, 2, 2, .rwi, 3, false, 0⟩,
  ⟨0x6001, 1, 0x02, 0x02, 7, 1, .rwi, 3, false, 0⟩,
  ⟨0x6002, 1, 0x01, 0x22, 3, 4, .ro, 1, false, 18304⟩,
  ⟨0x6003, 1, 0x01, 0x22, 1, 1, .cmd, 1, false, 0⟩,
  ⟨0x6004, 1, 0x01, 0x22, 3, 4, .ro, 1, false, 1985229328⟩,
  ⟨0x6005, 1, 0x01, 0x01, 7, 1, .rw, 3, false, 1⟩,
  ⟨0x6005, 1, 0x02, 0x02, 3, 4, .rw, 3, false, 1000⟩,
  ⟨0x6005, 1, 0x03, 0x03, 1, 1, .rw, 3, false, 4⟩,
  ⟨0x6006, 1, 0x01, 0x22, 3, 4, .rc, 1, false, 0⟩,
  ⟨0x6007, 1, 0x01, 0x22, 3, 4, .rc, 1, false, 0⟩,
  ⟨0x6008, 1, 0x01, 0x22, 3, 4, .ro, 2, false, 0⟩,
  ⟨0x6009, 1, 0x01, 0x20, 3, 4, .ro, 1, false, 0⟩,
  ⟨0x600A, 1, 0x01, 0x01, 2, 2, .rw, 1, false, 0⟩,
  ⟨0x600A, 1, 0x02, 0x02, 4, 8, .rw, 1, false, 0⟩,
  ⟨0x600A, 1, 0x03, 0x03, 1, 1, .cmd, 1, false, 0⟩,
  ⟨0x600A, 1, 0x04, 0x04, 1, 1, .ro, 1, false, 0⟩,
  ⟨0x600B, 1, 0x01, 0x01, 3, 4, .rc, 1, false, 0⟩,
  ⟨0x600B, 1, 0x02, 0x02, 3, 4, .rc, 1, false, 0⟩,
  ⟨0x600B, 1, 0x03, 0x03, 3, 4, .rc, 1, false, 0⟩,
  ⟨0x600C, 1, 0x01, 0x01, 7, 1, .ro, 1, false, 0⟩,
  ⟨0x6010, 1, 0x01, 0x01, 2, 2, .rw, 3, false, 4⟩,
  ⟨0x6010, 1, 0x02, 0x02, 3, 4, .rw, 3, false, 5000⟩,
  ⟨0x6010, 1, 0x03, 0x03, 1, 1, .rw, 3, false, 3⟩,
  ⟨0x6011, 1, 0x01, 0x09, 3, 4, .rc, 1, false, 0⟩,
  ⟨0x6013, 1, 0x01, 0x01, 3, 4, .ro, 1, false, 0⟩,
  ⟨0x6014, 1, 0x01, 0x01, 3, 4, .rc, 1, false, 0⟩,
  ⟨0x6020, 1, 0x01, 0x01, 4, 8, .ro, 3, false, 0⟩,
  ⟨0x6020, 1, 0x02, 0x02, 7, 1, .rwi, 3, false, 0⟩,
  ⟨0x6020, 1, 0x03, 0x03, 2, 2, .rwi, 3, false, 0⟩,
  ⟨0x6020, 1, 0x04, 0x04, 1, 1, .rwi, 3, false, 0⟩,
  ⟨0x6020, 1, 0x05, 0x05, 3, 4, .rw, 3, false, 200⟩,
  ⟨0x6020, 1, 0x06, 0x06, 3, 4, .ro, 2, false, 0⟩,
  ⟨0x6020, 1, 0x07, 0x07, 1, 1, .cmd, 1, false, 0⟩,
  ⟨0x6021, 1, 0x01, 0x20, 2, 2, .rwi, 3, false, 0⟩,
  ⟨0x6022, 1, 0x01, 0x01, 7, 1, .rw, 3, false, 0⟩,
  ⟨0x6022, 1, 0x02, 0x02, 3, 4, .rw, 3, false, 2000⟩,
  ⟨0x6022, 1, 0x03, 0x03, 3, 4, .rc, 1, false, 0⟩,
  ⟨0x6022, 1, 0x04, 0x04, 3, 4, .rc, 1, false, 0⟩,
  ⟨0x6022, 1, 0x05, 0x05, 3, 4, .rc, 1, false, 0⟩,
  ⟨0x6023, 1, 0x01, 0x01, 4, 8, .ro, 1, false, 0⟩]

def dictRows6 : List DRow := dictRows6_0

/-- Rows of the entries at 0x7000, part 0. -/
def dictRows7_0 : List DRow := [
  ⟨0x7001, 1, 0x01, 0x01, 4, 8, .rw, 3, false, 0⟩,
  ⟨0x7001, 1, 0x02, 0x02, 1, 1, .rw, 3, false, 0⟩,
  ⟨0x7001, 1, 0x03, 0x03, 1, 1, .cmd, 1, false, 0⟩,
  ⟨0x7001, 1, 0x04, 0x04, 1, 1, .ro, 1, false, 0⟩,
  ⟨0x7001, 1, 0x05, 0x05, 1, 1, .ro, 3, false, 0⟩,
  ⟨0x7001, 1, 0x06, 0x06, 1, 1, .ro, 3, false, 0⟩,
  ⟨0x7001, 1, 0x07, 0x07, 3, 4, .ro, 3, false, 0⟩,
  ⟨0x7001, 1, 0x08, 0x08, 4, 8, .ro, 3, false, 0⟩,
  ⟨0x7001, 1, 0x09, 0x09, 4, 8, .ro, 2, false, 0⟩,
  ⟨0x7002, 1, 0x01, 0x01, 2, 2, .rw, 3, false, 3⟩,
  ⟨0x7002, 1, 0x02, 0x02, 2, 2, .rw, 3, false, 50⟩,
  ⟨0x7002, 1, 0x03, 0x03, 3, 4, .rwi, 3, false, 16777215⟩,
  ⟨0x7002, 1, 0x04, 0x04, 7, 1, .rwi, 3, false, 1⟩,
  ⟨0x7002, 1, 0x05, 0x05, 2, 2, .rw, 3, false, 8⟩,
  ⟨0x7002, 1, 0x06, 0x06, 7, 1, .rw, 3, false, 1⟩,
  ⟨0x7002, 1, 0x07, 0x07, 1, 1, .rw, 3, false, 8⟩,
  ⟨0x7003, 1, 0x01, 0x01, 3, 4, .ro, 3, false, 0⟩,
  ⟨0x7003, 1, 0x02, 0x02, 4, 8, .ro, 3, false, 0⟩,
  ⟨0x7003, 1, 0x03, 0x03, 3, 4, .ro, 3, false, 0⟩,
  ⟨0x7004, 1, 0x01, 0x01, 4, 8, .ro, 2, false, 0⟩,
  ⟨0x7004, 1, 0x02, 0x02, 10, 32, .ro, 2, false, 0⟩,
  ⟨0x7004, 1, 0x03, 0x03, 10, 32, .ro, 2, false, 0⟩,
  ⟨0x7004, 1, 0x04, 0x04, 3, 4, .ro, 2, false, 0⟩,
  ⟨0x7005, 1, 0x01, 0x01, 3, 4, .rc, 1, false, 0⟩,
  ⟨0x7005, 1, 0x02, 0x02, 7, 1, .ro, 1, false, 0⟩,
  ⟨0x7005, 1, 0x03, 0x03, 1, 1, .ro, 1, false, 0⟩,
  ⟨0x7005, 1, 0x04, 0x04, 1, 1, .ro, 1, false, 0⟩]

def dictRows7 : List DRow := dictRows7_0

/-- Rows of the entries at 0x8000, part 0. -/
def dictRows8_0 : List DRow := [
  ⟨0x8001, 1, 0x01, 0x01, 1, 1, .ro, 1, false, fuseLifecycle⟩,
  ⟨0x8001, 1, 0x02, 0x02, 1, 1, .ro, 1, false, 0⟩,
  ⟨0x8001, 1, 0x03, 0x03, 2, 2, .trust, 3, false, 0⟩,
  ⟨0x8001, 1, 0x04, 0x04, 8, 128, .trust, 1, false, 0⟩,
  ⟨0x8010, 1, 0x01, 0x01, 1, 1, .ro, 1, false, 0⟩,
  ⟨0x8010, 1, 0x02, 0x02, 2, 2, .ro, 1, false, 0⟩,
  ⟨0x8010, 1, 0x03, 0x03, 10, 32, .ro, 1, false, 0⟩,
  ⟨0x8010, 1, 0x04, 0x04, 1, 1, .ro, 3, false, 0⟩,
  ⟨0x8010, 1, 0x05, 0x05, 2, 2, .ro, 3, false, 0⟩,
  ⟨0x8010, 1, 0x06, 0x06, 10, 32, .ro, 3, false, 0⟩,
  ⟨0x8010, 1, 0x07, 0x07, 3, 4, .ro, 3, false, 0⟩,
  ⟨0x8011, 1, 0x01, 0x08, 10, 32, .ro, 1, false, 0⟩,
  ⟨0x8020, 1, 0x01, 0x01, 1, 1, .ro, 1, false, 0⟩,
  ⟨0x8020, 1, 0x02, 0x02, 2, 2, .ro, 1, false, 0⟩,
  ⟨0x8021, 1, 0x01, 0x04, 10, 32, .trust, 3, false, 0⟩,
  ⟨0x8030, 1, 0x01, 0x01, 4, 8, .rw, 1, false, 0⟩,
  ⟨0x8030, 1, 0x02, 0x02, 4, 8, .rw, 1, false, 0⟩,
  ⟨0x8030, 1, 0x03, 0x03, 1, 1, .rw, 1, false, 0⟩,
  ⟨0x8030, 1, 0x04, 0x04, 1, 1, .cmd, 1, false, 0⟩,
  ⟨0x8030, 1, 0x05, 0x05, 1, 1, .ro, 1, false, 0⟩,
  ⟨0x8030, 1, 0x06, 0x06, 2, 2, .ro, 1, false, 0⟩,
  ⟨0x8031, 1, 0x01, 0x01, 2, 2, .ro, 1, false, 0⟩,
  ⟨0x8040, 1, 0x01, 0x01, 1, 1, .ro, 1, false, 0⟩,
  ⟨0x8040, 1, 0x02, 0x02, 3, 4, .ro, 3, false, 0⟩,
  ⟨0x8040, 1, 0x03, 0x03, 3, 4, .rc, 1, false, 0⟩,
  ⟨0x8100, 32, 0x01, 0x01, 3, 4, .trust, 3, false, 0⟩,
  ⟨0x8100, 32, 0x02, 0x02, 4, 8, .trust, 3, false, 0⟩,
  ⟨0x8100, 32, 0x03, 0x03, 4, 8, .trust, 3, false, 0⟩,
  ⟨0x8100, 32, 0x04, 0x04, 3, 4, .trust, 3, false, 0⟩,
  ⟨0x8100, 32, 0x05, 0x05, 3, 4, .trust, 3, false, 0⟩,
  ⟨0x8100, 32, 0x06, 0x06, 1, 1, .ro, 3, false, 0⟩,
  ⟨0x8100, 32, 0x07, 0x07, 1, 1, .cmd, 1, false, 0⟩,
  ⟨0x8100, 32, 0x08, 0x08, 1, 1, .ro, 1, false, 0⟩,
  ⟨0x8100, 32, 0x09, 0x09, 3, 4, .ro, 2, false, 0⟩]

def dictRows8 : List DRow := dictRows8_0

/-- Rows of the entries at 0x9000, part 0. -/
def dictRows9_0 : List DRow := [
  ⟨0x9001, 1, 0x01, 0x01, 3, 4, .cmd, 1, false, 0⟩,
  ⟨0x9001, 1, 0x02, 0x02, 1, 1, .ro, 3, false, 0⟩,
  ⟨0x9001, 1, 0x03, 0x03, 4, 8, .ro, 3, false, 0⟩,
  ⟨0x9001, 1, 0x04, 0x04, 3, 4, .ro, 3, false, 0⟩,
  ⟨0x9001, 1, 0x05, 0x05, 3, 4, .ro, 3, false, 0⟩,
  ⟨0x9002, 1, 0x01, 0x20, 3, 4, .ro, 2, false, 0⟩,
  ⟨0x9003, 1, 0x01, 0x01, 1, 1, .rw, 3, false, 3⟩,
  ⟨0x9003, 1, 0x02, 0x02, 3, 4, .rw, 3, false, 1000⟩,
  ⟨0x9003, 1, 0x03, 0x03, 3, 4, .ro, 3, false, 0⟩,
  ⟨0x9003, 1, 0x04, 0x04, 2, 2, .ro, 3, false, 0⟩,
  ⟨0x9003, 1, 0x05, 0x05, 9, 8, .ro, 3, false, 0⟩,
  ⟨0x9004, 1, 0x01, 0x01, 1, 1, .rw, 3, false, 3⟩,
  ⟨0x9004, 1, 0x02, 0x02, 2, 2, .rw, 3, false, 600⟩,
  ⟨0x9004, 1, 0x03, 0x03, 1, 1, .ro, 3, false, 0⟩,
  ⟨0x9004, 1, 0x04, 0x04, 7, 1, .ro, 3, false, 0⟩,
  ⟨0x9004, 1, 0x05, 0x05, 1, 1, .ro, 3, false, 0⟩,
  ⟨0x9004, 1, 0x06, 0x06, 1, 1, .cmd, 1, false, 0⟩,
  ⟨0x9010, 1, 0x01, 0x01, 3, 4, .rw, 3, false, 0⟩,
  ⟨0x9010, 1, 0x02, 0x02, 1, 1, .rw, 3, false, 16⟩,
  ⟨0x9010, 1, 0x03, 0x03, 1, 1, .ro, 3, false, 0⟩,
  ⟨0x9010, 1, 0x04, 0x04, 3, 4, .ro, 3, false, 0⟩,
  ⟨0x9010, 1, 0x05, 0x05, 3, 4, .ro, 3, false, 0⟩,
  ⟨0x9010, 1, 0x06, 0x06, 1, 1, .rw, 1, false, 0⟩,
  ⟨0x9010, 1, 0x07, 0x07, 3, 4, .rw, 1, false, 0⟩,
  ⟨0x9010, 1, 0x08, 0x08, 8, 256, .ro, 1, false, 0⟩,
  ⟨0x9011, 1, 0x01, 0x40, 3, 4, .rw, 3, false, 0⟩,
  ⟨0x9020, 1, 0x01, 0x01, 3, 4, .cmd, 1, false, 0⟩,
  ⟨0x9020, 1, 0x02, 0x02, 1, 1, .ro, 1, false, 0⟩,
  ⟨0x9020, 1, 0x03, 0x03, 10, 32, .ro, 3, false, 0⟩,
  ⟨0x9021, 1, 0x01, 0x20, 1, 1, .ro, 3, false, 3⟩,
  ⟨0x9030, 1, 0x01, 0x01, 2, 2, .cmd, 1, false, 0⟩,
  ⟨0x9030, 1, 0x02, 0x02, 1, 1, .ro, 1, false, 0⟩,
  ⟨0x9030, 1, 0x03, 0x03, 2, 2, .rw, 3, false, 16⟩,
  ⟨0x9030, 1, 0x04, 0x04, 4, 8, .ro, 3, false, 0⟩,
  ⟨0x9040, 1, 0x01, 0x01, 1, 1, .cmd, 1, false, 0⟩,
  ⟨0x9040, 1, 0x02, 0x02, 1, 1, .ro, 3, false, 0⟩,
  ⟨0x9050, 1, 0x01, 0x01, 2, 2, .ro, 2, false, 0⟩,
  ⟨0x9050, 1, 0x02, 0x02, 4, 8, .ro, 2, false, 0⟩,
  ⟨0x9050, 1, 0x03, 0x03, 1, 1, .ro, 2, false, 0⟩,
  ⟨0x9050, 1, 0x04, 0x04, 4, 8, .ro, 2, false, 0⟩]

/-- Rows of the entries at 0x9000, part 1. -/
def dictRows9_1 : List DRow := [
  ⟨0x9050, 1, 0x05, 0x05, 3, 4, .rc, 1, false, 0⟩,
  ⟨0x9100, 32, 0x01, 0x1C, 1, 1, .ro, 3, false, 0⟩]

def dictRows9 : List DRow := dictRows9_0 ++ dictRows9_1

/-- Rows of the entries at 0xA000, part 0. -/
def dictRowsA_0 : List DRow := [
  ⟨0xA001, 1, 0x01, 0x20, 1, 1, .rwi, 2, false, 0⟩,
  ⟨0xA002, 1, 0x01, 0x20, 4, 8, .rc, 1, false, 0⟩,
  ⟨0xA003, 1, 0x01, 0x05, 3, 4, .rc, 1, false, 0⟩,
  ⟨0xA004, 1, 0x01, 0x01, 1, 1, .cmd, 1, false, 0⟩,
  ⟨0xA004, 1, 0x02, 0x02, 3, 4, .ro, 1, false, 0⟩,
  ⟨0xA004, 1, 0x03, 0x03, 3, 4, .rc, 1, false, 0⟩,
  ⟨0xA004, 1, 0x04, 0x04, 3, 4, .ro, 2, false, 0⟩,
  ⟨0xA005, 1, 0x01, 0x20, 1, 1, .rw, 2, false, 0⟩,
  ⟨0xA010, 1, 0x01, 0x40, 3, 4, .rw, 1, false, 0⟩,
  ⟨0xA011, 1, 0x01, 0x40, 4, 8, .rw, 1, false, 0⟩,
  ⟨0xA020, 1, 0x01, 0x01, 3, 4, .rw, 3, false, 1000⟩,
  ⟨0xA020, 1, 0x02, 0x02, 4, 8, .ro, 1, false, 0⟩,
  ⟨0xA021, 1, 0x01, 0x67, 4, 8, .ro, 1, false, 0⟩,
  ⟨0xA022, 1, 0x01, 0x67, 4, 8, .ro, 1, false, 0⟩,
  ⟨0xA030, 1, 0x01, 0x01, 7, 1, .rw, 1, false, 0⟩,
  ⟨0xA030, 1, 0x02, 0x02, 1, 1, .rw, 1, false, 12⟩,
  ⟨0xA030, 1, 0x03, 0x03, 1, 1, .rw, 1, false, 0⟩,
  ⟨0xA030, 1, 0x04, 0x04, 4, 8, .rw, 1, false, 0⟩,
  ⟨0xA030, 1, 0x05, 0x05, 3, 4, .rw, 1, false, 4096⟩,
  ⟨0xA030, 1, 0x06, 0x06, 3, 4, .rw, 1, false, 1⟩,
  ⟨0xA030, 1, 0x07, 0x07, 4, 8, .ro, 1, false, 0⟩,
  ⟨0xA030, 1, 0x08, 0x08, 1, 1, .ro, 1, false, 0⟩,
  ⟨0xA200, 32, 0x01, 0x01, 1, 1, .ro, 2, false, 0⟩,
  ⟨0xA200, 32, 0x02, 0x02, 1, 1, .cmd, 1, false, 0⟩,
  ⟨0xA200, 32, 0x03, 0x03, 1, 1, .ro, 1, false, 0⟩,
  ⟨0xA200, 32, 0x04, 0x04, 2, 2, .ro, 1, false, 0⟩,
  ⟨0xA200, 32, 0x05, 0x05, 4, 8, .rw, 1, false, 0⟩,
  ⟨0xA200, 32, 0x06, 0x06, 4, 8, .ro, 2, false, 0⟩,
  ⟨0xA200, 32, 0x07, 0x07, 8, 64, .trust, 3, false, 0⟩,
  ⟨0xA200, 32, 0x08, 0x08, 8, 256, .ro, 2, false, 0⟩,
  ⟨0xA200, 32, 0x09, 0x09, 4, 8, .ro, 2, false, 0⟩,
  ⟨0xA300, 32, 0x01, 0x10, 3, 4, .rw, 1, false, 0⟩,
  ⟨0xA300, 32, 0x11, 0x20, 4, 8, .rw, 1, false, 0⟩,
  ⟨0xA320, 32, 0x01, 0x40, 3, 4, .ro, 1, false, 0⟩,
  ⟨0xA340, 1, 0x01, 0x01, 1, 1, .cmd, 1, false, 0⟩,
  ⟨0xA340, 1, 0x02, 0x02, 7, 1, .ro, 1, false, 0⟩,
  ⟨0xA400, 800, 0x01, 0x08, 3, 4, .rw, 1, false, 0⟩,
  ⟨0xA400, 800, 0x09, 0x10, 4, 8, .rw, 1, false, 0⟩]

def dictRowsA : List DRow := dictRowsA_0

/-- Rows of the entries at 0xB000, part 0. -/
def dictRowsB_0 : List DRow := [
  ⟨0xB001, 1, 0x01, 0x01, 2, 2, .ro, 4, false, 7878⟩,
  ⟨0xB001, 1, 0x02, 0x02, 2, 2, .ro, 4, false, 2048⟩,
  ⟨0xB001, 1, 0x03, 0x03, 1, 1, .rw, 3, false, 0⟩,
  ⟨0xB001, 1, 0x04, 0x04, 3, 4, .ro, 1, false, 0⟩,
  ⟨0xB002, 1, 0x01, 0x01, 4, 8, .rw, 1, false, 0⟩,
  ⟨0xB002, 1, 0x02, 0x02, 1, 1, .rw, 1, false, 255⟩,
  ⟨0xB002, 1, 0x03, 0x03, 3, 4, .rc, 1, false, 0⟩,
  ⟨0xB003, 1, 0x01, 0x01, 2, 2, .rw, 3, false, 0⟩,
  ⟨0xB003, 1, 0x02, 0x02, 1, 1, .rw, 3, false, 255⟩,
  ⟨0xB003, 1, 0x03, 0x03, 3, 4, .rc, 1, false, 0⟩,
  ⟨0xB010, 1, 0x01, 0x01, 1, 1, .ro, 1, false, 0⟩,
  ⟨0xB010, 1, 0x02, 0x02, 1, 1, .ro, 1, false, 0⟩,
  ⟨0xB020, 1, 0x01, 0x01, 3, 4, .rc, 1, false, 0⟩,
  ⟨0xB100, 256, 0x01, 0x01, 7, 1, .rw, 2, true, 0⟩,
  ⟨0xB100, 256, 0x02, 0x02, 3, 4, .rwi, 2, true, 4096⟩,
  ⟨0xB100, 256, 0x03, 0x03, 2, 2, .rwi, 2, true, 8⟩,
  ⟨0xB100, 256, 0x04, 0x04, 3, 4, .rwi, 2, true, 5120⟩,
  ⟨0xB100, 256, 0x05, 0x05, 2, 2, .rwi, 2, true, 8⟩,
  ⟨0xB100, 256, 0x06, 0x06, 1, 1, .rwi, 2, true, 255⟩,
  ⟨0xB100, 256, 0x07, 0x07, 4, 8, .rwi, 2, true, 0⟩,
  ⟨0xB100, 256, 0x08, 0x08, 1, 1, .ro, 1, false, 0⟩,
  ⟨0xB200, 32, 0x01, 0x01, 7, 1, .rw, 2, true, 0⟩,
  ⟨0xB200, 32, 0x02, 0x02, 1, 1, .rwi, 2, true, 0⟩,
  ⟨0xB200, 32, 0x03, 0x03, 3, 4, .rwi, 2, true, 4096⟩,
  ⟨0xB200, 32, 0x04, 0x04, 2, 2, .rwi, 2, true, 8⟩,
  ⟨0xB200, 32, 0x05, 0x05, 1, 1, .rwi, 2, true, 255⟩,
  ⟨0xB200, 32, 0x06, 0x06, 3, 4, .rc, 1, false, 0⟩,
  ⟨0xB300, 1, 0x01, 0x01, 4, 8, .rw, 1, false, 0⟩,
  ⟨0xB300, 1, 0x02, 0x02, 3, 4, .rw, 1, false, 0⟩,
  ⟨0xB300, 1, 0x03, 0x03, 1, 1, .cmd, 1, false, 0⟩,
  ⟨0xB300, 1, 0x04, 0x04, 1, 1, .ro, 1, false, 0⟩,
  ⟨0xB300, 1, 0x05, 0x05, 1, 1, .ro, 1, false, 0⟩,
  ⟨0xB300, 1, 0x06, 0x06, 1, 1, .ro, 3, false, 0⟩]

def dictRowsB : List DRow := dictRowsB_0

/-- Rows of the entries at 0xC000, part 0. -/
def dictRowsC_0 : List DRow := [
  ⟨0xC001, 1, 0x01, 0x01, 4, 8, .rw, 1, false, 0⟩,
  ⟨0xC001, 1, 0x02, 0x02, 1, 1, .rw, 1, false, 0⟩,
  ⟨0xC001, 1, 0x03, 0x03, 1, 1, .cmd, 1, false, 0⟩,
  ⟨0xC001, 1, 0x04, 0x04, 1, 1, .ro, 1, false, 0⟩,
  ⟨0xC001, 1, 0x05, 0x05, 2, 2, .ro, 1, false, 0⟩,
  ⟨0xC001, 1, 0x06, 0x06, 4, 8, .ro, 1, false, 0⟩,
  ⟨0xC002, 1, 0x01, 0x01, 1, 1, .ro, 3, false, 0⟩,
  ⟨0xC002, 1, 0x02, 0x02, 1, 1, .cmd, 1, false, 0⟩,
  ⟨0xC002, 1, 0x03, 0x03, 1, 1, .ro, 3, false, 0⟩,
  ⟨0xC002, 1, 0x04, 0x04, 3, 4, .ro, 3, false, 0⟩,
  ⟨0xC002, 1, 0x05, 0x05, 1, 1, .rw, 3, false, 3⟩,
  ⟨0xC002, 1, 0x06, 0x06, 3, 4, .rc, 1, false, 0⟩,
  ⟨0xC002, 1, 0x07, 0x07, 3, 4, .rc, 1, false, 0⟩,
  ⟨0xC002, 1, 0x08, 0x08, 3, 4, .ro, 2, false, 0⟩]

def dictRowsC : List DRow := dictRowsC_0

/-- The rows whose index has the high digit g. -/
def dictRowsOf : Nat → List DRow
  | 0x1 => dictRows1
  | 0x2 => dictRows2
  | 0x3 => dictRows3
  | 0x4 => dictRows4
  | 0x5 => dictRows5
  | 0x6 => dictRows6
  | 0x7 => dictRows7
  | 0x8 => dictRows8
  | 0x9 => dictRows9
  | 0xA => dictRowsA
  | 0xB => dictRowsB
  | 0xC => dictRowsC
  | _ => []

/-- The row of index `idx`, sub-index `sub` (1 and above), if the index map names one (R857). -/
def dictRow (idx sub : Nat) : Option DRow :=
  (dictRowsOf (idx / 4096)).find? fun r =>
    decide (r.base ≤ idx ∧ idx < r.base + r.count ∧ r.lo ≤ sub ∧ sub ≤ r.hi)

/-- The highest valid sub-index of `idx`, which its sub-index 0 holds (R10); 0 when the index is not named. -/
def dictSubs (idx : Nat) : Nat :=
  ((dictRowsOf (idx / 4096)).filter fun r => decide (r.base ≤ idx ∧ idx < r.base + r.count)).foldl
    (fun m r => max m r.hi) 0

/-- The default of the entry with key `k` = 256 · index + sub-index. The keeper map is that of a part with no failed
slot: position p at slot p, keepers at slots 25 to 27 (R866; PRESUMED, log 8). -/
def dictDefault (k : Nat) : Nat :=
  if 0x910000 ≤ k ∧ k < 0x912000 then k % 256 - 1 else ((dictRow (k / 256) (k % 256)).map DRow.dflt).getD 0

/-- The size in bytes of the entry with key `k`. -/
def dictSize (k : Nat) : Nat := ((dictRow (k / 256) (k % 256)).map DRow.size).getD 0

/-! The keys, by name. Element s of an ARRAY stands at the key of its first element + s (s from 0); an instance n
of an instanced record stands 256 · n further on. -/
namespace E

/-- `0x1001.01`, 00 R3. -/
abbrev ordering_code : Nat := 0x100101
/-- `0x1001.02`, 00 R3. -/
abbrev silicon_stepping : Nat := 0x100102
/-- `0x1001.03`, 18 R763. -/
abbrev unique_id : Nat := 0x100103
/-- `0x1002.01`, 02 R86. -/
abbrev i3c_static_address : Nat := 0x100201
/-- `0x2010.01`, 02 R86. -/
abbrev main_voltage_mv : Nat := 0x201001
/-- `0x2010.02`, 02 R86. -/
abbrev aux_voltage_mv : Nat := 0x201002
/-- `0x2010.03`, 02 R86. -/
abbrev main_current_ma : Nat := 0x201003
/-- `0x2010.04`, 02 R86. -/
abbrev aux_current_ma : Nat := 0x201004
/-- `0x2011.01`, 02 R86. -/
abbrev die_temp_max_dc : Nat := 0x201101
/-- `0x2011.02`, 02 R86. -/
abbrev die_throttle_c : Nat := 0x201102
/-- `0x2011.03`, 02 R86. -/
abbrev die_trip_c : Nat := 0x201103
/-- `0x2011.04`, 02 R86. -/
abbrev coolant_inlet_dc : Nat := 0x201104
/-- `0x2011.05`, 02 R86. -/
abbrev coolant_outlet_dc : Nat := 0x201105
/-- `0x2011.06`, 02 R86. -/
abbrev thermtrip_count : Nat := 0x201106
/-- `0x2012.01`, 02 R86. -/
abbrev timeref_source : Nat := 0x201201
/-- `0x2012.02`, 02 R86. -/
abbrev timeref_status : Nat := 0x201202
/-- `0x2012.03`, 02 R86. -/
abbrev timeref_fallback_count : Nat := 0x201203
/-- `0x2012.04`, 03 R128. -/
abbrev time_count : Nat := 0x201204
/-- `0x2013.01`, 02 R86. -/
abbrev alert_status : Nat := 0x201301
/-- `0x2013.02`, 02 R86. -/
abbrev alert_mask : Nat := 0x201302
/-- `0x2014.01`, 02 R86. -/
abbrev sag_input_enable : Nat := 0x201401
/-- `0x2014.02`, 02 R86. -/
abbrev last_save_cause : Nat := 0x201402
/-- `0x2014.03`, 02 R86. -/
abbrev cool_ok_grace_ms : Nat := 0x201403
/-- `0x2020.01`, 03 R128. -/
abbrev pacer_lock_status : Nat := 0x202001
/-- `0x2020.02`, 03 R128. -/
abbrev pace_burst_beats : Nat := 0x202002
/-- `0x2020.03`, 03 R128. -/
abbrev boundary_overflow_count : Nat := 0x202003
/-- `0x2021.01`, 03 R128. -/
abbrev sector_pacing : Nat := 0x202101
/-- `0x2022.01`, 03 R128. -/
abbrev pace_break_count : Nat := 0x202201
/-- `0x2023.01`, 03 R128. -/
abbrev sector_beat_rate : Nat := 0x202301
/-- `0x2024.01`, 03 R128. -/
abbrev canary_trim_enable : Nat := 0x202401
/-- `0x2024.02`, 03 R128. -/
abbrev canary_target_slack_pct : Nat := 0x202402
/-- `0x2024.03`, 03 R128. -/
abbrev canary_alarm_count : Nat := 0x202403
/-- `0x2025.01`, 03 R128. -/
abbrev domain_trim_mv : Nat := 0x202501
/-- `0x2030.01`, 17 R725. -/
abbrev power_cap_w : Nat := 0x203001
/-- `0x2030.02`, 17 R725. -/
abbrev power_cap_effective_w : Nat := 0x203002
/-- `0x2030.03`, 17 R725. -/
abbrev module_power_w : Nat := 0x203003
/-- `0x2030.04`, 17 R725. -/
abbrev cap_event_count : Nat := 0x203004
/-- `0x2031.01`, 17 R725. -/
abbrev sector_level_req : Nat := 0x203101
/-- `0x2032.01`, 17 R725. -/
abbrev sector_level : Nat := 0x203201
/-- `0x2033.01`, 17 R725. -/
abbrev cap_pinned_sectors : Nat := 0x203301
/-- `0x2034.01`, 17 R725. -/
abbrev domain_state : Nat := 0x203401
/-- `0x2035.01`, 17 R725. -/
abbrev sleep_request : Nat := 0x203501
/-- `0x2035.02`, 17 R725. -/
abbrev sleep_result : Nat := 0x203502
/-- `0x2035.03`, 17 R725. -/
abbrev sleep_phase : Nat := 0x203503
/-- `0x2035.04`, 17 R725. -/
abbrev sleep_delay_max_ms : Nat := 0x203504
/-- `0x2036.01`, 17 R725. -/
abbrev slr_block : Nat := 0x203601
/-- `0x2036.02`, 17 R725. -/
abbrev slr_name : Nat := 0x203602
/-- `0x2036.03`, 17 R725. -/
abbrev slr_reason : Nat := 0x203603
/-- `0x2036.04`, 17 R725. -/
abbrev slr_state : Nat := 0x203604
/-- `0x2036.05`, 17 R725. -/
abbrev slr_kind : Nat := 0x203605
/-- `0x2036.06`, 17 R725. -/
abbrev slr_time : Nat := 0x203606
/-- `0x2037.01`, 17 R725. -/
abbrev sleep_refused_count : Nat := 0x203701
/-- `0x2037.02`, 17 R725. -/
abbrev sleep_aborted_count : Nat := 0x203702
/-- `0x2037.03`, 17 R725. -/
abbrev sleep_entry_count : Nat := 0x203703
/-- `0x2038.01`, 17 R725. -/
abbrev wake_count : Nat := 0x203801
/-- `0x2038.02`, 17 R725. -/
abbrev wake_stall_max_us : Nat := 0x203802
/-- `0x2039.01`, 17 R725. -/
abbrev pad_hold : Nat := 0x203901
/-- `0x2039.02`, 17 R725. -/
abbrev pad_release : Nat := 0x203902
/-- `0x2039.03`, 17 R725. -/
abbrev pad_release_auto : Nat := 0x203903
/-- `0x203A.01`, 17 R725. -/
abbrev ls_sequence : Nat := 0x203A01
/-- `0x203A.02`, 17 R725. -/
abbrev ls_duration_us : Nat := 0x203A02
/-- `0x203A.03`, 17 R725. -/
abbrev ls_bytes : Nat := 0x203A03
/-- `0x203A.04`, 17 R725. -/
abbrev ls_aux_mv_end : Nat := 0x203A04
/-- `0x203A.05`, 17 R725. -/
abbrev ls_torn_count : Nat := 0x203A05
/-- `0x203A.06`, 17 R725. -/
abbrev last_save_count : Nat := 0x203A06
/-- `0x203B.01`, 17 R725. -/
abbrev sleep_refusal_log : Nat := 0x203B01
/-- `0x3001.01`, 05 R225. -/
abbrev hbm_capacity_bytes : Nat := 0x300101
/-- `0x3001.02`, 05 R225. -/
abbrev hbm_slots_out : Nat := 0x300102
/-- `0x3002.01`, 05 R225. -/
abbrev hbm_mapped_out : Nat := 0x300201
/-- `0x3003.01`, 05 R225. -/
abbrev hbm_mapout_cmd : Nat := 0x300301
/-- `0x3003.02`, 05 R225. -/
abbrev hbm_mapin_cmd : Nat := 0x300302
/-- `0x3003.03`, 05 R225. -/
abbrev hbm_mapout_status : Nat := 0x300303
/-- `0x3003.04`, 05 R225. -/
abbrev hbm_forced_mapout_count : Nat := 0x300304
/-- `0x3004.01`, 05 R225. -/
abbrev hbm_headroom_pcs : Nat := 0x300401
/-- `0x3004.02`, 05 R225. -/
abbrev key_store_gib : Nat := 0x300402
/-- `0x3005.01`, 05 R225. -/
abbrev hbm_throttle_c : Nat := 0x300501
/-- `0x3006.01`, 05 R225. -/
abbrev hbm_corrected_count : Nat := 0x300601
/-- `0x3007.01`, 05 R225. -/
abbrev hbm_ue_count : Nat := 0x300701
/-- `0x3008.01`, 05 R225. -/
abbrev hbm_ue_threshold : Nat := 0x300801
/-- `0x3009.01`, 05 R225. -/
abbrev hbm_repair_cmd : Nat := 0x300901
/-- `0x3009.02`, 05 R225. -/
abbrev hbm_repair_status : Nat := 0x300902
/-- `0x300A.01`, 05 R225. -/
abbrev hbm_alert_flags : Nat := 0x300A01
/-- `0x300B.01`, 05 R225. -/
abbrev hbm_throttle_step : Nat := 0x300B01
/-- `0x3401.01`, 04 R179. -/
abbrev cm_corrected_count : Nat := 0x340101
/-- `0x3402.01`, 04 R179. -/
abbrev cm_reconstructed_count : Nat := 0x340201
/-- `0x3403.01`, 04 R179. -/
abbrev onchip_uncorrectable_count : Nat := 0x340301
/-- `0x3404.01`, 04 R179. -/
abbrev commons_corrected_count : Nat := 0x340401
/-- `0x3405.01`, 04 R179. -/
abbrev cm_retain_mask : Nat := 0x340501
/-- `0x3406.01`, 04 R179. -/
abbrev commons_retain : Nat := 0x340601
/-- `0x3407.01`, 04 R179. -/
abbrev scrub_period_ms : Nat := 0x340701
/-- `0x3408.01`, 04 R179. -/
abbrev last_ue_address : Nat := 0x340801
/-- `0x3408.02`, 04 R179. -/
abbrev last_ue_block : Nat := 0x340802
/-- `0x3408.03`, 04 R179. -/
abbrev last_ue_time : Nat := 0x340803
/-- `0x3409.01`, 04 R179. -/
abbrev landing_violation_count : Nat := 0x340901
/-- `0x340A.01`, 04 R179. -/
abbrev landing_ranges_open : Nat := 0x340A01
/-- `0x3501.01`, 11 R496. -/
abbrev xm_partition : Nat := 0x350101
/-- `0x3501.02`, 11 R496. -/
abbrev xm_va : Nat := 0x350102
/-- `0x3501.03`, 11 R496. -/
abbrev xm_pages : Nat := 0x350103
/-- `0x3501.04`, 11 R496. -/
abbrev xm_entry : Nat := 0x350104
/-- `0x3501.05`, 11 R496. -/
abbrev xm_cmd : Nat := 0x350105
/-- `0x3501.06`, 11 R496. -/
abbrev xm_status : Nat := 0x350106
/-- `0x3502.01`, 11 R496. -/
abbrev tf_core : Nat := 0x350201
/-- `0x3502.02`, 11 R496. -/
abbrev tf_word : Nat := 0x350202
/-- `0x3502.03`, 11 R496. -/
abbrev tf_context : Nat := 0x350203
/-- `0x3502.04`, 11 R496. -/
abbrev tf_va : Nat := 0x350204
/-- `0x3502.05`, 11 R496. -/
abbrev tf_cursor : Nat := 0x350205
/-- `0x3502.06`, 11 R496. -/
abbrev tf_time : Nat := 0x350206
/-- `0x3503.01`, 11 R496. -/
abbrev translation_fault_count : Nat := 0x350301
/-- `0x3504.01`, 11 R496. -/
abbrev stream_abandon : Nat := 0x350401
/-- `0x3505.01`, 11 R496. -/
abbrev xlat_entries_used : Nat := 0x350501
/-- `0x4100.01`, 06 R286. -/
abbrev core_mode : Nat := 0x410001
/-- `0x4101.01`, 06 R286. -/
abbrev fault_core : Nat := 0x410101
/-- `0x4101.02`, 06 R286. -/
abbrev fault_status : Nat := 0x410102
/-- `0x4101.03`, 06 R286. -/
abbrev fault_kind : Nat := 0x410103
/-- `0x4101.04`, 06 R286. -/
abbrev fault_word : Nat := 0x410104
/-- `0x4101.05`, 06 R286. -/
abbrev fault_beat : Nat := 0x410105
/-- `0x4101.06`, 06 R286. -/
abbrev fault_tile : Nat := 0x410106
/-- `0x4101.07`, 06 R286. -/
abbrev fault_expected_gen : Nat := 0x410107
/-- `0x4101.08`, 06 R286. -/
abbrev fault_found_gen : Nat := 0x410108
/-- `0x4102.01`, 06 R286. -/
abbrev schedule_fault_count : Nat := 0x410201
/-- `0x4103.01`, 06 R286. -/
abbrev c2_underrun_count : Nat := 0x410301
/-- `0x4104.01`, 06 R286. -/
abbrev pm_bank_busy_count : Nat := 0x410401
/-- `0x4110.01`, 07 R335. -/
abbrev pe_range_count : Nat := 0x411001
/-- `0x4111.01`, 07 R335. -/
abbrev pe_encode_saturation_count : Nat := 0x411101
/-- `0x4112.01`, 07 R335. -/
abbrev pe_fault_core : Nat := 0x411201
/-- `0x4112.02`, 07 R335. -/
abbrev pe_fault_word : Nat := 0x411202
/-- `0x4112.03`, 07 R335. -/
abbrev pe_fault_status : Nat := 0x411203
/-- `0x4112.04`, 07 R335. -/
abbrev pe_fault_prefix_bytes : Nat := 0x411204
/-- `0x4120.01`, 09 R416. -/
abbrev he_command_count : Nat := 0x412001
/-- `0x4121.01`, 09 R416. -/
abbrev he_fault_count : Nat := 0x412101
/-- `0x4122.01`, 09 R416. -/
abbrev hef_sector : Nat := 0x412201
/-- `0x4122.02`, 09 R416. -/
abbrev hef_op : Nat := 0x412202
/-- `0x4122.03`, 09 R416. -/
abbrev hef_cmd_id : Nat := 0x412203
/-- `0x4122.04`, 09 R416. -/
abbrev hef_status : Nat := 0x412204
/-- `0x4122.05`, 09 R416. -/
abbrev hef_fault_cores : Nat := 0x412205
/-- `0x4122.06`, 09 R416. -/
abbrev hef_time : Nat := 0x412206
/-- `0x4123.01`, 09 R416. -/
abbrev he_abort : Nat := 0x412301
/-- `0x4130.01`, 10 R455. -/
abbrev me_saturation_count : Nat := 0x413001
/-- `0x4131.01`, 10 R455. -/
abbrev ve_saturation_count : Nat := 0x413101
/-- `0x4132.01`, 10 R455. -/
abbrev ve_nonfinite_count : Nat := 0x413201
/-- `0x4133.01`, 10 R455. -/
abbrev amax_history_default : Nat := 0x413301
/-- `0x4134.01`, 10 R455. -/
abbrev vef_core : Nat := 0x413401
/-- `0x4134.02`, 10 R455. -/
abbrev vef_word : Nat := 0x413402
/-- `0x4134.03`, 10 R455. -/
abbrev vef_status : Nat := 0x413403
/-- `0x4134.04`, 10 R455. -/
abbrev vef_prefix_elements : Nat := 0x413404
/-- `0x4140.01`, 11 R496. -/
abbrev ring_record_addr : Nat := 0x414001
/-- `0x4140.02`, 11 R496. -/
abbrev ring_cmd : Nat := 0x414002
/-- `0x4140.03`, 11 R496. -/
abbrev ring_cmd_status : Nat := 0x414003
/-- `0x4141.01`, 11 R496. -/
abbrev ring_state : Nat := 0x414101
/-- `0x4142.01`, 11 R496. -/
abbrev ring_circulations_done : Nat := 0x414201
/-- `0x4150.01`, 12 R535. -/
abbrev shadow_pool_cfg : Nat := 0x415001
/-- `0x4151.01`, 12 R535. -/
abbrev sg_records_used : Nat := 0x415101
/-- `0x4151.02`, 12 R535. -/
abbrev sg_staging_used_bytes : Nat := 0x415102
/-- `0x4152.01`, 12 R535. -/
abbrev sg_prepare_timeout_us : Nat := 0x415201
/-- `0x4152.02`, 12 R535. -/
abbrev sg_decision_hold_ms : Nat := 0x415202
/-- `0x4153.01`, 12 R535. -/
abbrev sg_abort_cmd : Nat := 0x415301
/-- `0x4154.01`, 12 R535. -/
abbrev sgq_id : Nat := 0x415401
/-- `0x4154.02`, 12 R535. -/
abbrev sgq_state : Nat := 0x415402
/-- `0x4154.03`, 12 R535. -/
abbrev sgq_status : Nat := 0x415403
/-- `0x4154.04`, 12 R535. -/
abbrev sgq_cause : Nat := 0x415404
/-- `0x4154.05`, 12 R535. -/
abbrev sgq_step : Nat := 0x415405
/-- `0x4154.06`, 12 R535. -/
abbrev sgq_cm_granules : Nat := 0x415406
/-- `0x4154.07`, 12 R535. -/
abbrev sgq_commons_granules : Nat := 0x415407
/-- `0x4154.08`, 12 R535. -/
abbrev sgq_hbm_granules : Nat := 0x415408
/-- `0x4155.01`, 12 R535. -/
abbrev sg_commit_count : Nat := 0x415501
/-- `0x4155.02`, 12 R535. -/
abbrev sg_abort_count : Nat := 0x415502
/-- `0x4156.01`, 12 R535. -/
abbrev sg_lost_count : Nat := 0x415601
/-- `0x5001.01`, 07 R335. -/
abbrev chains_registered : Nat := 0x500101
/-- `0x5002.01`, 07 R335. -/
abbrev chain_id : Nat := 0x500201
/-- `0x5002.02`, 07 R335. -/
abbrev prime_count : Nat := 0x500202
/-- `0x5002.03`, 07 R335. -/
abbrev log2_n_max : Nat := 0x500203
/-- `0x5002.04`, 07 R335. -/
abbrev chain_commit : Nat := 0x500204
/-- `0x5002.05`, 07 R335. -/
abbrev chain_status : Nat := 0x500205
/-- `0x5003.01`, 07 R335. -/
abbrev chain_stage_primes : Nat := 0x500301
/-- `0x5004.01`, 08 R380. -/
abbrev keyset_package_addr : Nat := 0x500401
/-- `0x5004.02`, 08 R380. -/
abbrev keyset_tag : Nat := 0x500402
/-- `0x5004.03`, 08 R380. -/
abbrev keyset_cmd : Nat := 0x500403
/-- `0x5004.04`, 08 R380. -/
abbrev keyset_status : Nat := 0x500404
/-- `0x5005.01`, 08 R380. -/
abbrev keysets_registered : Nat := 0x500501
/-- `0x5005.02`, 08 R380. -/
abbrev key_store_used_bytes : Nat := 0x500502
/-- `0x5006.01`, 08 R380. -/
abbrev query_tag : Nat := 0x500601
/-- `0x5006.02`, 08 R380. -/
abbrev query_found : Nat := 0x500602
/-- `0x5006.03`, 08 R380. -/
abbrev query_chain : Nat := 0x500603
/-- `0x5006.04`, 08 R380. -/
abbrev query_log2_n : Nat := 0x500604
/-- `0x5006.05`, 08 R380. -/
abbrev query_keys : Nat := 0x500605
/-- `0x5006.06`, 08 R380. -/
abbrev query_digest : Nat := 0x500606
/-- `0x5006.07`, 08 R380. -/
abbrev query_open_contexts : Nat := 0x500607
/-- `0x5006.08`, 08 R380. -/
abbrev query_partition : Nat := 0x500608
/-- `0x5007.01`, 08 R380. -/
abbrev ksf_core : Nat := 0x500701
/-- `0x5007.02`, 08 R380. -/
abbrev ksf_context : Nat := 0x500702
/-- `0x5007.03`, 08 R380. -/
abbrev ksf_status : Nat := 0x500703
/-- `0x5007.04`, 08 R380. -/
abbrev ksf_position : Nat := 0x500704
/-- `0x5007.05`, 08 R380. -/
abbrev ksf_expected_seq : Nat := 0x500705
/-- `0x5007.06`, 08 R380. -/
abbrev ksf_found_seq : Nat := 0x500706
/-- `0x5007.07`, 08 R380. -/
abbrev ksf_found_tag : Nat := 0x500707
/-- `0x5007.08`, 08 R380. -/
abbrev ksf_checks : Nat := 0x500708
/-- `0x5007.09`, 08 R380. -/
abbrev ksf_time : Nat := 0x500709
/-- `0x5008.01`, 08 R380. -/
abbrev key_stream_fault_count : Nat := 0x500801
/-- `0x5009.01`, 08 R380. -/
abbrev descriptor_invalid_count : Nat := 0x500901
/-- `0x5100.01`, 07 R335. -/
abbrev chain_prime_count : Nat := 0x510001
/-- `0x5100.02`, 07 R335. -/
abbrev chain_log2_n_max : Nat := 0x510002
/-- `0x5100.03`, 07 R335. -/
abbrev chain_digest : Nat := 0x510003
/-- `0x6001.01`, 13 R570. -/
abbrev node_id : Nat := 0x600101
/-- `0x6001.02`, 13 R570. -/
abbrev node_id_assigned : Nat := 0x600102
/-- `0x6002.01`, 13 R570. -/
abbrev port_state : Nat := 0x600201
/-- `0x6003.01`, 13 R570. -/
abbrev port_cmd : Nat := 0x600301
/-- `0x6004.01`, 13 R570. -/
abbrev lane_map : Nat := 0x600401
/-- `0x6005.01`, 13 R570. -/
abbrev burnish_enable : Nat := 0x600501
/-- `0x6005.02`, 13 R570. -/
abbrev burnish_interval_ms : Nat := 0x600502
/-- `0x6005.03`, 13 R570. -/
abbrev lane_fail_ber_exp : Nat := 0x600503
/-- `0x6006.01`, 13 R570. -/
abbrev link_retry_count : Nat := 0x600601
/-- `0x6007.01`, 13 R570. -/
abbrev fec_corrected_count : Nat := 0x600701
/-- `0x6008.01`, 13 R570. -/
abbrev link_down_count : Nat := 0x600801
/-- `0x6009.01`, 13 R570. -/
abbrev neighbour : Nat := 0x600901
/-- `0x600A.01`, 13 R570. -/
abbrev rc_node : Nat := 0x600A01
/-- `0x600A.02`, 13 R570. -/
abbrev rc_entry : Nat := 0x600A02
/-- `0x600A.03`, 13 R570. -/
abbrev rc_cmd : Nat := 0x600A03
/-- `0x600A.04`, 13 R570. -/
abbrev rc_status : Nat := 0x600A04
/-- `0x600B.01`, 13 R570. -/
abbrev packets_expired_count : Nat := 0x600B01
/-- `0x600B.02`, 13 R570. -/
abbrev packets_unroutable_count : Nat := 0x600B02
/-- `0x600B.03`, 13 R570. -/
abbrev link_flits_lost_count : Nat := 0x600B03
/-- `0x600C.01`, 13 R570. -/
abbrev route_converged : Nat := 0x600C01
/-- `0x6010.01`, 14 R612. -/
abbrev window_quiet_ms : Nat := 0x601001
/-- `0x6010.02`, 14 R612. -/
abbrev transport_retry_us : Nat := 0x601002
/-- `0x6010.03`, 14 R612. -/
abbrev transport_retries : Nat := 0x601003
/-- `0x6011.01`, 14 R612. -/
abbrev window_refusals : Nat := 0x601101
/-- `0x6013.01`, 14 R612. -/
abbrev windows_open : Nat := 0x601301
/-- `0x6014.01`, 14 R612. -/
abbrev window_cache_miss_count : Nat := 0x601401
/-- `0x6020.01`, 14 R612. -/
abbrev step_counter : Nat := 0x602001
/-- `0x6020.02`, 14 R612. -/
abbrev step_is_root : Nat := 0x602002
/-- `0x6020.03`, 14 R612. -/
abbrev step_parent : Nat := 0x602003
/-- `0x6020.04`, 14 R612. -/
abbrev step_child_count : Nat := 0x602004
/-- `0x6020.05`, 14 R612. -/
abbrev step_timeout_ms : Nat := 0x602005
/-- `0x6020.06`, 14 R612. -/
abbrev step_failed_count : Nat := 0x602006
/-- `0x6020.07`, 14 R612. -/
abbrev step_resume : Nat := 0x602007
/-- `0x6021.01`, 14 R612. -/
abbrev step_children : Nat := 0x602101
/-- `0x6022.01`, 14 R612. -/
abbrev cinch_mode : Nat := 0x602201
/-- `0x6022.02`, 14 R612. -/
abbrev cinch_hold_us : Nat := 0x602202
/-- `0x6022.03`, 14 R612. -/
abbrev cinch_edge_count : Nat := 0x602203
/-- `0x6022.04`, 14 R612. -/
abbrev cinch_outside_count : Nat := 0x602204
/-- `0x6022.05`, 14 R612. -/
abbrev cinch_miss_count : Nat := 0x602205
/-- `0x6023.01`, 14 R612. -/
abbrev last_boundary_time : Nat := 0x602301
/-- `0x7001.01`, 15 R639. -/
abbrev twin_peer_uid : Nat := 0x700101
/-- `0x7001.02`, 15 R639. -/
abbrev twin_mode : Nat := 0x700102
/-- `0x7001.03`, 15 R639. -/
abbrev twin_cmd : Nat := 0x700103
/-- `0x7001.04`, 15 R639. -/
abbrev twin_status : Nat := 0x700104
/-- `0x7001.05`, 15 R639. -/
abbrev twin_role : Nat := 0x700105
/-- `0x7001.06`, 15 R639. -/
abbrev twin_detach_cause : Nat := 0x700106
/-- `0x7001.07`, 15 R639. -/
abbrev twin_generation : Nat := 0x700107
/-- `0x7001.08`, 15 R639. -/
abbrev twin_sequence : Nat := 0x700108
/-- `0x7001.09`, 15 R639. -/
abbrev twin_bound_time : Nat := 0x700109
/-- `0x7002.01`, 15 R639. -/
abbrev twin_loss_ms : Nat := 0x700201
/-- `0x7002.02`, 15 R639. -/
abbrev twin_lag_max_ms : Nat := 0x700202
/-- `0x7002.03`, 15 R639. -/
abbrev twin_carry_regions : Nat := 0x700203
/-- `0x7002.04`, 15 R639. -/
abbrev twin_carry_commons : Nat := 0x700204
/-- `0x7002.05`, 15 R639. -/
abbrev twin_delta_max_gib : Nat := 0x700205
/-- `0x7002.06`, 15 R639. -/
abbrev twin_auto_reattach : Nat := 0x700206
/-- `0x7002.07`, 15 R639. -/
abbrev step_fabric_diameter : Nat := 0x700207
/-- `0x7003.01`, 15 R639. -/
abbrev twin_takeover_count : Nat := 0x700301
/-- `0x7003.02`, 15 R639. -/
abbrev twin_last_takeover_time : Nat := 0x700302
/-- `0x7003.03`, 15 R639. -/
abbrev twin_last_pause_us : Nat := 0x700303
/-- `0x7004.01`, 15 R639. -/
abbrev td_step : Nat := 0x700401
/-- `0x7004.02`, 15 R639. -/
abbrev td_leader_digest : Nat := 0x700402
/-- `0x7004.03`, 15 R639. -/
abbrev td_follower_digest : Nat := 0x700403
/-- `0x7004.04`, 15 R639. -/
abbrev td_count : Nat := 0x700404
/-- `0x7005.01`, 15 R639. -/
abbrev twin_heartbeat_miss_count : Nat := 0x700501
/-- `0x7005.02`, 15 R639. -/
abbrev twin_keeper_match : Nat := 0x700502
/-- `0x7005.03`, 15 R639. -/
abbrev twin_sync_progress : Nat := 0x700503
/-- `0x7005.04`, 15 R639. -/
abbrev twin_state : Nat := 0x700504
/-- `0x8001.01`, 18 R763. -/
abbrev lifecycle_state : Nat := 0x800101
/-- `0x8001.02`, 18 R763. -/
abbrev svn_floor : Nat := 0x800102
/-- `0x8001.03`, 18 R763. -/
abbrev svn_min : Nat := 0x800103
/-- `0x8001.04`, 18 R763. -/
abbrev debug_unlock : Nat := 0x800104
/-- `0x8010.01`, 18 R763. -/
abbrev boot_state : Nat := 0x801001
/-- `0x8010.02`, 18 R763. -/
abbrev running_svn : Nat := 0x801002
/-- `0x8010.03`, 18 R763. -/
abbrev running_digest : Nat := 0x801003
/-- `0x8010.04`, 18 R763. -/
abbrev staged_state : Nat := 0x801004
/-- `0x8010.05`, 18 R763. -/
abbrev staged_svn : Nat := 0x801005
/-- `0x8010.06`, 18 R763. -/
abbrev staged_digest : Nat := 0x801006
/-- `0x8010.07`, 18 R763. -/
abbrev boot_fallback_count : Nat := 0x801007
/-- `0x8011.01`, 18 R763. -/
abbrev mr : Nat := 0x801101
/-- `0x8020.01`, 18 R763. -/
abbrev spdm_sessions : Nat := 0x802001
/-- `0x8020.02`, 18 R763. -/
abbrev spdm_last_status : Nat := 0x802002
/-- `0x8021.01`, 18 R763. -/
abbrev trust_anchor : Nat := 0x802101
/-- `0x8030.01`, 18 R763. -/
abbrev pkg_addr : Nat := 0x803001
/-- `0x8030.02`, 18 R763. -/
abbrev pkg_dest : Nat := 0x803002
/-- `0x8030.03`, 18 R763. -/
abbrev pkg_partition : Nat := 0x803003
/-- `0x8030.04`, 18 R763. -/
abbrev pkg_cmd : Nat := 0x803004
/-- `0x8030.05`, 18 R763. -/
abbrev pkg_state : Nat := 0x803005
/-- `0x8030.06`, 18 R763. -/
abbrev pkg_status : Nat := 0x803006
/-- `0x8031.01`, 18 R763. -/
abbrev releases_held : Nat := 0x803101
/-- `0x8040.01`, 18 R763. -/
abbrev trng_state : Nat := 0x804001
/-- `0x8040.02`, 18 R763. -/
abbrev trng_fail_count : Nat := 0x804002
/-- `0x8040.03`, 18 R763. -/
abbrev drbg_reseed_count : Nat := 0x804003
/-- `0x8100.01`, 18 R763. -/
abbrev part_sectors : Nat := 0x810001
/-- `0x8100.02`, 18 R763. -/
abbrev part_hbm_base : Nat := 0x810002
/-- `0x8100.03`, 18 R763. -/
abbrev part_hbm_bytes : Nat := 0x810003
/-- `0x8100.04`, 18 R763. -/
abbrev part_window_first : Nat := 0x810004
/-- `0x8100.05`, 18 R763. -/
abbrev part_window_count : Nat := 0x810005
/-- `0x8100.06`, 18 R763. -/
abbrev part_state : Nat := 0x810006
/-- `0x8100.07`, 18 R763. -/
abbrev part_cmd : Nat := 0x810007
/-- `0x8100.08`, 18 R763. -/
abbrev part_status : Nat := 0x810008
/-- `0x8100.09`, 18 R763. -/
abbrev part_scrub_time_us : Nat := 0x810009
/-- `0x9001.01`, 20 R819. -/
abbrev reset_cmd : Nat := 0x900101
/-- `0x9001.02`, 20 R819. -/
abbrev last_reset_kind : Nat := 0x900102
/-- `0x9001.03`, 20 R819. -/
abbrev last_reset_time : Nat := 0x900103
/-- `0x9001.04`, 20 R819. -/
abbrev device_reset_count : Nat := 0x900104
/-- `0x9001.05`, 20 R819. -/
abbrev boot_count : Nat := 0x900105
/-- `0x9002.01`, 20 R819. -/
abbrev sector_reset_count : Nat := 0x900201
/-- `0x9003.01`, 20 R819. -/
abbrev hang_miss_limit : Nat := 0x900301
/-- `0x9003.02`, 20 R819. -/
abbrev stall_limit_us : Nat := 0x900302
/-- `0x9003.03`, 20 R819. -/
abbrev hang_count : Nat := 0x900303
/-- `0x9003.04`, 20 R819. -/
abbrev last_hang_block : Nat := 0x900304
/-- `0x9003.05`, 20 R819. -/
abbrev last_hang_name : Nat := 0x900305
/-- `0x9004.01`, 20 R819. -/
abbrev escalation_limit : Nat := 0x900401
/-- `0x9004.02`, 20 R819. -/
abbrev escalation_window_s : Nat := 0x900402
/-- `0x9004.03`, 20 R819. -/
abbrev escalation_count : Nat := 0x900403
/-- `0x9004.04`, 20 R819. -/
abbrev out_of_service : Nat := 0x900404
/-- `0x9004.05`, 20 R819. -/
abbrev oos_cause : Nat := 0x900405
/-- `0x9004.06`, 20 R819. -/
abbrev oos_reinstate : Nat := 0x900406
/-- `0x9010.01`, 20 R819. -/
abbrev crash_sample_sectors : Nat := 0x901001
/-- `0x9010.02`, 20 R819. -/
abbrev crash_cm_lines : Nat := 0x901002
/-- `0x9010.03`, 20 R819. -/
abbrev crash_state : Nat := 0x901003
/-- `0x9010.04`, 20 R819. -/
abbrev crash_seq : Nat := 0x901004
/-- `0x9010.05`, 20 R819. -/
abbrev crash_lost_count : Nat := 0x901005
/-- `0x9010.06`, 20 R819. -/
abbrev crash_read_slot : Nat := 0x901006
/-- `0x9010.07`, 20 R819. -/
abbrev crash_read_offset : Nat := 0x901007
/-- `0x9010.08`, 20 R819. -/
abbrev crash_read_data : Nat := 0x901008
/-- `0x9011.01`, 20 R819. -/
abbrev crash_cm_offsets : Nat := 0x901101
/-- `0x9020.01`, 20 R819. -/
abbrev keeper_cmd : Nat := 0x902001
/-- `0x9020.02`, 20 R819. -/
abbrev keeper_status : Nat := 0x902002
/-- `0x9020.03`, 20 R819. -/
abbrev keeper_map_digest : Nat := 0x902003
/-- `0x9021.01`, 20 R819. -/
abbrev keepers_free : Nat := 0x902101
/-- `0x9030.01`, 20 R819. -/
abbrev mesh_link_cmd : Nat := 0x903001
/-- `0x9030.02`, 20 R819. -/
abbrev mesh_link_status : Nat := 0x903002
/-- `0x9030.03`, 20 R819. -/
abbrev mesh_detour_threshold : Nat := 0x903003
/-- `0x9030.04`, 20 R819. -/
abbrev mesh_detoured : Nat := 0x903004
/-- `0x9040.01`, 20 R819. -/
abbrev full_test_cmd : Nat := 0x904001
/-- `0x9040.02`, 20 R819. -/
abbrev full_test_status : Nat := 0x904002
/-- `0x9050.01`, 20 R819. -/
abbrev prn_node : Nat := 0x905001
/-- `0x9050.02`, 20 R819. -/
abbrev prn_step : Nat := 0x905002
/-- `0x9050.03`, 20 R819. -/
abbrev prn_kind : Nat := 0x905003
/-- `0x9050.04`, 20 R819. -/
abbrev prn_time : Nat := 0x905004
/-- `0x9050.05`, 20 R819. -/
abbrev peer_reset_count : Nat := 0x905005
/-- `0x9100.01`, 20 R819. -/
abbrev keeper_slots : Nat := 0x910001
/-- `0xA001.01`, 21 R854. -/
abbrev det_mode : Nat := 0xA00101
/-- `0xA002.01`, 21 R854. -/
abbrev nd_count : Nat := 0xA00201
/-- `0xA003.01`, 21 R854. -/
abbrev nd_cause_count : Nat := 0xA00301
/-- `0xA004.01`, 21 R854. -/
abbrev ord_flush : Nat := 0xA00401
/-- `0xA004.02`, 21 R854. -/
abbrev ord_held : Nat := 0xA00402
/-- `0xA004.03`, 21 R854. -/
abbrev ord_overflow_count : Nat := 0xA00403
/-- `0xA004.04`, 21 R854. -/
abbrev ord_lost_count : Nat := 0xA00404
/-- `0xA005.01`, 21 R854. -/
abbrev prov_mode : Nat := 0xA00501
/-- `0xA010.01`, 21 R854. -/
abbrev dpc_cfg : Nat := 0xA01001
/-- `0xA011.01`, 21 R854. -/
abbrev dpc_value : Nat := 0xA01101
/-- `0xA020.01`, 21 R854. -/
abbrev bw_window_us : Nat := 0xA02001
/-- `0xA020.02`, 21 R854. -/
abbrev bw_window_end : Nat := 0xA02002
/-- `0xA021.01`, 21 R854. -/
abbrev bw_tx_bytes : Nat := 0xA02101
/-- `0xA022.01`, 21 R854. -/
abbrev bw_rx_bytes : Nat := 0xA02201
/-- `0xA030.01`, 21 R854. -/
abbrev tag_enable : Nat := 0xA03001
/-- `0xA030.02`, 21 R854. -/
abbrev tag_log2_rate : Nat := 0xA03002
/-- `0xA030.03`, 21 R854. -/
abbrev tag_partition : Nat := 0xA03003
/-- `0xA030.04`, 21 R854. -/
abbrev tag_buf_addr : Nat := 0xA03004
/-- `0xA030.05`, 21 R854. -/
abbrev tag_buf_records : Nat := 0xA03005
/-- `0xA030.06`, 21 R854. -/
abbrev tag_seed : Nat := 0xA03006
/-- `0xA030.07`, 21 R854. -/
abbrev tag_written : Nat := 0xA03007
/-- `0xA030.08`, 21 R854. -/
abbrev tag_status : Nat := 0xA03008
/-- `0xA200.01`, 21 R854. -/
abbrev nr_mode : Nat := 0xA20001
/-- `0xA200.02`, 21 R854. -/
abbrev nr_cmd : Nat := 0xA20002
/-- `0xA200.03`, 21 R854. -/
abbrev nr_status : Nat := 0xA20003
/-- `0xA200.04`, 21 R854. -/
abbrev nr_pkg_status : Nat := 0xA20004
/-- `0xA200.05`, 21 R854. -/
abbrev nr_pkg_addr : Nat := 0xA20005
/-- `0xA200.06`, 21 R854. -/
abbrev nr_record_id : Nat := 0xA20006
/-- `0xA200.07`, 21 R854. -/
abbrev nr_auditor_key : Nat := 0xA20007
/-- `0xA200.08`, 21 R854. -/
abbrev nr_sealed : Nat := 0xA20008
/-- `0xA200.09`, 21 R854. -/
abbrev nr_starts : Nat := 0xA20009
/-- `0xA300.01`, 21 R854. -/
abbrev spc_cfg : Nat := 0xA30001
/-- `0xA300.11`, 21 R854. -/
abbrev spc_value : Nat := 0xA30011
/-- `0xA320.01`, 21 R854. -/
abbrev lat_hist : Nat := 0xA32001
/-- `0xA340.01`, 21 R854. -/
abbrev hist_cmd : Nat := 0xA34001
/-- `0xA340.02`, 21 R854. -/
abbrev hist_frozen : Nat := 0xA34002
/-- `0xA400.01`, 21 R854. -/
abbrev cpc_cfg : Nat := 0xA40001
/-- `0xA400.09`, 21 R854. -/
abbrev cpc_value : Nat := 0xA40009
/-- `0xB001.01`, 16 R653. -/
abbrev pcie_vendor_id : Nat := 0xB00101
/-- `0xB001.02`, 16 R653. -/
abbrev pcie_device_id : Nat := 0xB00102
/-- `0xB001.03`, 16 R653. -/
abbrev pcie_refclk_mode : Nat := 0xB00103
/-- `0xB001.04`, 16 R653. -/
abbrev pcie_link_status : Nat := 0xB00104
/-- `0xB002.01`, 16 R653. -/
abbrev bar2_base : Nat := 0xB00201
/-- `0xB002.02`, 16 R653. -/
abbrev bar2_partition : Nat := 0xB00202
/-- `0xB002.03`, 16 R653. -/
abbrev bar_violation_count : Nat := 0xB00203
/-- `0xB003.01`, 16 R653. -/
abbrev msix_holdoff_us : Nat := 0xB00301
/-- `0xB003.02`, 16 R653. -/
abbrev msix_alert_vector : Nat := 0xB00302
/-- `0xB003.03`, 16 R653. -/
abbrev mirror_skip_count : Nat := 0xB00303
/-- `0xB010.01`, 16 R658. -/
abbrev mctp_eid_i3c : Nat := 0xB01001
/-- `0xB010.02`, 16 R658. -/
abbrev mctp_eid_pcie : Nat := 0xB01002
/-- `0xB020.01`, 16 R667. -/
abbrev dw_busy_count : Nat := 0xB02001
/-- `0xB100.01`, 16 R680. -/
abbrev ring_enable : Nat := 0xB10001
/-- `0xB100.02`, 16 R680. -/
abbrev ring_slot_offset : Nat := 0xB10002
/-- `0xB100.03`, 16 R680. -/
abbrev ring_slots : Nat := 0xB10003
/-- `0xB100.04`, 16 R680. -/
abbrev ring_comp_offset : Nat := 0xB10004
/-- `0xB100.05`, 16 R680. -/
abbrev ring_comp_slots : Nat := 0xB10005
/-- `0xB100.06`, 16 R680. -/
abbrev ring_vector : Nat := 0xB10006
/-- `0xB100.07`, 16 R680. -/
abbrev ring_mirror_addr : Nat := 0xB10007
/-- `0xB100.08`, 16 R680. -/
abbrev ring_status : Nat := 0xB10008
/-- `0xB200.01`, 16 R688. -/
abbrev ev_enable : Nat := 0xB20001
/-- `0xB200.02`, 16 R688. -/
abbrev ev_sector : Nat := 0xB20002
/-- `0xB200.03`, 16 R688. -/
abbrev ev_offset : Nat := 0xB20003
/-- `0xB200.04`, 16 R688. -/
abbrev ev_slots : Nat := 0xB20004
/-- `0xB200.05`, 16 R688. -/
abbrev ev_vector : Nat := 0xB20005
/-- `0xB200.06`, 16 R688. -/
abbrev ev_lost_count : Nat := 0xB20006
/-- `0xB300.01`, 16 R690. -/
abbrev fw_load_addr : Nat := 0xB30001
/-- `0xB300.02`, 16 R690. -/
abbrev fw_load_bytes : Nat := 0xB30002
/-- `0xB300.03`, 16 R690. -/
abbrev fw_load_cmd : Nat := 0xB30003
/-- `0xB300.04`, 16 R690. -/
abbrev fw_load_status : Nat := 0xB30004
/-- `0xB300.05`, 16 R690. -/
abbrev fw_running_slot : Nat := 0xB30005
/-- `0xB300.06`, 16 R690. -/
abbrev fw_next_slot : Nat := 0xB30006
/-- `0xC001.01`, 19 R787. -/
abbrev pke_job_addr : Nat := 0xC00101
/-- `0xC001.02`, 19 R787. -/
abbrev pke_job_partition : Nat := 0xC00102
/-- `0xC001.03`, 19 R787. -/
abbrev pke_job_cmd : Nat := 0xC00103
/-- `0xC001.04`, 19 R787. -/
abbrev pke_job_state : Nat := 0xC00104
/-- `0xC001.05`, 19 R787. -/
abbrev pke_job_status : Nat := 0xC00105
/-- `0xC001.06`, 19 R787. -/
abbrev pke_job_ticks : Nat := 0xC00106
/-- `0xC002.01`, 19 R787. -/
abbrev pke_state : Nat := 0xC00201
/-- `0xC002.02`, 19 R787. -/
abbrev pke_selftest_cmd : Nat := 0xC00202
/-- `0xC002.03`, 19 R787. -/
abbrev pke_selftest_status : Nat := 0xC00203
/-- `0xC002.04`, 19 R787. -/
abbrev pke_fault_count : Nat := 0xC00204
/-- `0xC002.05`, 19 R787. -/
abbrev pke_fault_limit : Nat := 0xC00205
/-- `0xC002.06`, 19 R787. -/
abbrev pke_late_tick_count : Nat := 0xC00206
/-- `0xC002.07`, 19 R787. -/
abbrev pke_jobs_count : Nat := 0xC00207
/-- `0xC002.08`, 19 R787. -/
abbrev pke_lost_job_count : Nat := 0xC00208

end E

end Sys2Proof.Machine
end

