-- ==== Sys2Proof/Machine/Tab.lean ====
section
/-! DEFINITION. Sparse tables: how every array of the machine is held (its registers by number, its memory by
address). One canonical form: keys strictly rising, and no entry that an unlisted key would read as. -/

namespace Sys2Proof.Machine

/-- A sparse table from Nat keys. What an unlisted key reads as is given to `Tab.get`. -/
abbrev Tab (α : Type) := List (Nat × α)

namespace Tab

variable {α : Type}

/-- The entry of key k, if one is listed. -/
def find? : Tab α → Nat → Option α
  | [], _ => none
  | (j, v) :: t, k => if j = k then some v else find? t k

/-- The value at key k; an unlisted key reads as d. -/
def get (d : α) (t : Tab α) (k : Nat) : α := (find? t k).getD d

/-- Remove key k. -/
def erase : Tab α → Nat → Tab α
  | [], _ => []
  | (j, v) :: t, k => if j = k then erase t k else (j, v) :: erase t k

/-- List key k with value v. -/
def insert : Tab α → Nat → α → Tab α
  | [], k, v => [(k, v)]
  | (j, w) :: t, k, v =>
    if j = k then (k, v) :: t else if k < j then (k, v) :: (j, w) :: t else (j, w) :: insert t k v

/-- Set key k to v: the entry is listed unless v is what an unlisted key reads as. -/
def set [DecidableEq α] (d : α) (t : Tab α) (k : Nat) (v : α) : Tab α :=
  if v = d then erase t k else insert t k v

/-- Remove every key from lo up to, and not including, hi. -/
def clear (t : Tab α) (lo hi : Nat) : Tab α := t.filter (fun e => e.1 < lo || hi ≤ e.1)

/-- The canonical form: keys strictly rising, and no entry equal to what an unlisted key reads as. -/
def wf [DecidableEq α] (d : Nat → α) : Tab α → Bool
  | [] => true
  | [(k, v)] => decide (v ≠ d k)
  | (k, v) :: (j, w) :: t => decide (v ≠ d k) && decide (k < j) && wf d ((j, w) :: t)

end Tab

end Sys2Proof.Machine
end

