-- ==== Sys2Proof/Machine/Parts.lean ====
section
/-! DEFINITION. The records that State is made of, for the module, its supplies, its sectors' controllers, HBM, the
host attachment, power, security and resets: one record for each unit, with its reset value beside it. -/

namespace Sys2Proof.Machine

/-- The pins that the rules read or drive (R37, R62, R73, R74, R79). -/
structure Pins where
  mrstHigh : Bool
  coolOk : Bool
  perstHigh : Bool
  /-- the module itself pulls `SAG_N` low (R74) -/
  sagOut : Bool
  /-- `THERMTRIP_N` is low (R79) -/
  thermTrip : Bool
  /-- straps `ADDR[3:0]` (R73) -/
  straps : Nat
  /-- bit n: `PRES_N` of port connector n is low; 32 and 33 are the yoke's (R40, R43) -/
  presLow : BitVec 34
  /-- edges repeated on `CINCH_OUT` (R65) -/
  cinchOut : Nat
  deriving DecidableEq, Repr

/-- Every input at its pull-up or in its normal state, every output released (R62), but for the straps, which the carrier
ties: all low here. DESIGN CHOICE (log 183). -/
def Pins.init : Pins := ⟨true, true, true, false, false, 0, 0, 0⟩

/-- Why the main stage is held off (R49, R80, R870, R871). -/
inductive Hold where
  | none
  | overvoltage
  /-- a save caused by a sag (R721) -/
  | sag
  /-- a thermal trip or a coolant loss (R80) -/
  | trip
  | auxOvervoltage
  deriving DecidableEq, Repr

/-- Supplies, cooling and the main stage (02_module). -/
structure Supply where
  /-- the main power stage is enabled (R51) -/
  mainOn : Bool
  /-- the input is in its operating range (R44, R90 bit 0) -/
  auxOk : Bool
  mainOk : Bool
  /-- the boot ROM has passed its self-check (R51) -/
  romOk : Bool
  hold : Hold
  /-- `MRST_N` asserted during a save, or waiting after a trip (R71, R80) -/
  mrstWaits : Bool
  /-- the always-on domain is held in power-on reset (R869, R870) -/
  aonHeld : Bool
  /-- some sensor with a trip value is not yet 10 °C below it (R79) -/
  hot : Bool
  /-- `COOL_OK` has been low for 1 ms with the main stage enabled (R82) -/
  coolLow : Bool
  /-- the inlet is above 45 °C, the outlet above 60 °C (R90 bit 2) -/
  coolantHot : Bool
  /-- the power manager throttles the die (R90 bit 1) -/
  dieHot : Bool
  /-- edges arrive on `TIMEREF_IN`, within 100 ppm (R66) -/
  timerefGood : Bool
  /-- a fallback since `timeref_source` was last written: no return without a write (R68) -/
  timerefFell : Bool
  /-- an external reset has taken the place of the supply-recovery reset of the present hold (R871) -/
  mrstDone : Bool
  deriving DecidableEq, Repr

def Supply.init : Supply :=
  ⟨false, true, false, true, .none, false, false, false, false, false, false, false, false, false⟩

/-- The critical state that a last save stores (R717). -/
structure SaveImage where
  seq : Nat
  cause : Nat
  time : Nat
  step : Nat
  twinSeq : Nat
  twinGen : Nat
  escal : List Nat
  commitLog : List (Nat × Nat)
  crashOpen : Bool
  deriving DecidableEq, Repr

/-- The last-save unit: what eMRAM holds and the save in progress (R718, R868). -/
structure Save where
  /-- the two slots of 512 KiB; `none` while a slot holds no valid save -/
  slotA : Option SaveImage
  slotB : Option SaveImage
  /-- a save is in progress (R868) -/
  running : Bool
  /-- the present or latest save holds an `aux_overvoltage` cause only AON reset follows (R870) -/
  frozen : SaveImage
  /-- the next power-up counts a torn save (R718) -/
  torn : Bool
  /-- the next boot restores the items of R717 (R722); `lost`: AON memory lost its copy (R869) -/
  restore : Bool
  lost : Bool
  deriving DecidableEq, Repr

def SaveImage.empty : SaveImage := ⟨0, 0, 0, 0, 0, 0, [], [], false⟩

def Save.init : Save := ⟨none, none, false, SaveImage.empty, false, false, false⟩

/-- A landing range of a sector (R164): `target` 0 to 24 with region `idx`, or 0x1F with 256 KiB range `idx`, and the
window that opened it. -/
structure Landing where
  target : Nat
  idx : Nat
  window : Nat
  /-- credits held by writes that landed in shadow (R166) -/
  shadowed : Nat
  closing : Bool
  deriving DecidableEq, Repr

/-- A record that the sequencer has taken from a command ring (R384, R386, R675). `started` is set when its kernel or its
programs run, or when it waits by a rule of its own; `loaded` when it loaded a kernel (R388); `abort` is the status that an
abort gives it, 0 for none; `nd` is the partition's `nd_count` at its start (R842); `prov` is what its provenance digest is
taken over, up to the result (R843), none when it asks for no provenance record. -/
structure Taken where
  record : List Byte
  started : Bool
  startTime : Nat
  startStep : Nat
  loaded : Bool
  abort : Nat
  nd : Nat
  prov : Option (List Byte)
  /-- of a homomorphic command: the 64 B at `src_a`, `src_b`, `aux` and `dst` as its checks read them (R391, R393) -/
  inputs : List (List Byte)
  deriving DecidableEq, Repr

/-- One command ring of a sector (R670 to R683), besides its configuration entries and control block. -/
structure Ring where
  /-- records taken and not completed, oldest first -/
  queue : List Taken
  /-- completions held because the completion ring is full (R678) -/
  held : List (List Byte)
  deriving DecidableEq, Repr

def Ring.init : Ring := ⟨[], []⟩

/-- A sector's controller, crossbar, sequencer and pacer. -/
structure Sector where
  /-- cap level and throttle level (R694) -/
  cap : Nat
  throttle : Nat
  /-- the level a change in progress goes to (R113, R114) -/
  ramp : Option Nat
  /-- the level whose pace limit the pacer has, and the one whose voltage the regulator's setpoint has (R98, R113, R114) -/
  pace : Nat
  volt : Nat
  /-- the sector has made no beat since the latest tick of 1 ms (R127) -/
  slept : Bool
  landing : List Landing
  rings : Tab Ring
  deriving DecidableEq, Repr

def Sector.init : Sector := ⟨0, 0, none, 2, 2, false, [], []⟩

/-- What a forced map-out lost (R201): every general-area granule that the map with `out` slots out placed on slot
`slot`, but for the granules written whole since, or returned by a map-in. -/
structure Lost where
  slot : Nat
  out : List Nat
  cleared : List (Nat × Nat)
  deriving DecidableEq, Repr

/-- A running maintenance operation of HBM (R209). -/
inductive HbmOp where
  | mapOut (pc : Nat)
  | mapIn (pc : Nat)
  | repair (op pc : Nat)
  deriving DecidableEq, Repr

/-- The HBM subsystem (05_hbm). -/
structure Hbm where
  op : Option HbmOp
  /-- slots mapped out, ascending (R192, R226) -/
  out : List Nat
  /-- forced map-outs that wait for the operation to end (R209) -/
  waiting : List Nat
  lost : List Lost
  /-- the latest pattern test of a pseudo-channel: whether it passed, and its failing rows (R206, R210) -/
  tested : Tab (Option (Bool × List Nat))
  /-- repairs recorded in eMRAM: (op, pseudo-channel, row); op 2 lane, op 3 hard (R211) -/
  hard : List (Nat × Nat × Nat)
  /-- soft repairs in force (R211) -/
  soft : List (Nat × Nat)
  /-- the times of the uncorrectable events of each pseudo-channel within 24 h (R200) -/
  ues : Tab (List Nat)
  deriving DecidableEq, Repr

def Hbm.init : Hbm := ⟨none, [], [], [], [], [], [], []⟩

/-- A dictionary access waiting for its domain to wake, or for the boot (R665, R736). -/
structure Access where
  via : Path
  tag : Nat
  wr : Bool
  index : Nat
  sub : Nat
  len : Nat
  data : List Byte
  /-- the domain it waits for; 40 stands for the boot -/
  domain : Nat
  deriving DecidableEq, Repr

/-- The answer to a dictionary access (R657, R659, R660). -/
structure DictAns where
  tag : Nat
  result : Nat
  typ : Nat
  acc : Nat
  pers : Nat
  sh : Bool
  data : List Byte
  deriving DecidableEq, Repr

def DictAns.init : DictAns := ⟨0, 0, 0, 0, 0, false, []⟩

/-- The BAR0 dictionary window (R662). -/
structure DictWindow where
  index : Nat
  sub : Nat
  op : Nat
  length : Nat
  busy : Bool
  waking : Bool
  result : Nat
  typ : Nat
  acc : Nat
  pers : Nat
  sh : Bool
  data : List Byte
  deriving DecidableEq, Repr

def DictWindow.init : DictWindow := ⟨0, 0, 0, 0, false, false, 0, 0, 0, 0, false, []⟩

/-- The host attachment (16_host). -/
structure HostSide where
  busMaster : Bool
  /-- the MSI-X table, 1,024 bytes (R647) -/
  msixTable : Tab Byte
  /-- pending bits of the 64 vectors (R646) -/
  pba : BitVec 64
  /-- vectors in their holdoff, and those with a message waiting behind it (R652) -/
  holdoff : BitVec 64
  behind : BitVec 64
  dw : DictWindow
  /-- the answer to the latest access, whichever its path -/
  answer : DictAns
  /-- accesses that wait (R665, R736), oldest first -/
  stalled : List Access
  /-- the dynamic I3C address, once assigned (R73) -/
  i3cDynamic : Option Nat
  /-- the reference clock mode sampled at the last deassertion of `PERST_N` (R644) -/
  refclkSampled : Nat
  deriving DecidableEq, Repr

def HostSide.init : HostSide :=
  ⟨false, [], 0, 0, 0, DictWindow.init, DictAns.init, [], none, 0⟩

/-- An asked block's place in a sleep entry (R702, R703). -/
inductive Asked where
  | waiting
  | delayed (reason : Nat)
  | accepted
  deriving DecidableEq, Repr

/-- A sleep entry in progress (R702): what was requested, and every asked block with its answer. -/
structure SleepEntry where
  state : Nat
  others : Nat
  sectors : Nat
  asked : List (Nat × Asked)
  deriving DecidableEq, Repr

/-- The power manager besides its dictionary entries (17_power). -/
structure PowerMgr where
  entry : Option SleepEntry
  /-- the device sleeps in this state: 0 none, 3 SL3, 4 SL4 (R699) -/
  deep : Nat
  /-- domains that a `sleep_request` wakes, and domains waking: bit d (R711) -/
  waking : BitVec 40
  byRequest : BitVec 40
  /-- domains powered whose pads wait for `pad_release`: bit d (R716) -/
  padWait : BitVec 40
  /-- wake demands waiting for the main stage (R874): bit d -/
  waitMain : BitVec 40
  /-- mesh routers off: bit s (R160, R712) -/
  routersOff : BitVec 32
  /-- consecutive ticks at least 50 W below the cap (R696) -/
  lowTicks : Nat
  /-- a wake from SL4, or from SL3 after a save, still owes the tasks of R713, R723 -/
  owes713 : Bool
  deriving DecidableEq, Repr

def PowerMgr.init : PowerMgr := ⟨none, 0, 0, 0, 0, 0, 0, 0, false⟩

/-- A hang being collected, or waiting to be (R801, R806). -/
structure Crash where
  block : Nat
  /-- `some s`: sector scope; `none`: device scope -/
  sector : Option Nat
  /-- a header-only record, written by the watchdog (R797) -/
  headerOnly : Bool
  time : Nat
  /-- the reset kind to follow -/
  kind : Nat
  deriving DecidableEq, Repr

/-- What a crash record's header says (R801, R802): its sequence number, the hang, the blocks that did not answer (at most 256),
whether more did not, and the bytes that each unit gave, by block ID and section (1 device unit, 2 sector controller, 3 core, 4
sample, 5 a sector whose domain is not ON); a unit that is off gives its domain state alone. -/
structure CrashRec where
  seq : Nat
  hang : Crash
  noAnswer : List Nat
  truncated : Bool
  parts : List (Nat × Nat × Nat)
  deriving DecidableEq, Repr

/-- Resets, hangs, recovery (20_resets). -/
structure Recovery where
  /-- `time_count` of the counted resets (R807) -/
  escal : List Nat
  /-- `time_count` of sector resets of kind 0x11, per sector (R799) -/
  sectorHangs : Tab (List Nat)
  /-- the collection in progress, then the hangs waiting (R803, R806) -/
  crashes : List Crash
  /-- the next HBM slot for a crash record, 0 to 15 (R804) -/
  crashSlot : Nat
  /-- the record that stands in eMRAM, and those copied to HBM by slot, each by its `crash_seq` (R803, R804) -/
  crashHeld : Option Nat
  crashCopies : Tab Nat
  /-- what those records' headers say, newest first -/
  crashRecs : List CrashRec
  /-- keeper swap or self-test in progress: sector, slot under test, logical core of a swap (R812, R813) -/
  keeper : Option (Nat × Nat × Option Nat)
  /-- mesh links: repeats within the last second with the time of each (R814), and the link under test (R815) -/
  meshRepeats : Tab (List Nat)
  meshTest : Option Nat
  /-- the full-stop test running (R816) -/
  fullTest : Option Nat
  /-- sequence of the next boot-log record and its ring position (R817) -/
  logSeq : Nat
  /-- steps of R793 deferred until the main stage is on (R874), with the committed groups lost (R532) -/
  deferred : Option (List Nat)
  /-- the kind of the reset the boot in progress follows -/
  kind : Nat
  deriving DecidableEq, Repr

def Recovery.init : Recovery :=
  ⟨[], [], [], 0, none, [], [], none, [], none, none, 0, none, 1⟩

/-- An SPDM session (R740, R742). -/
structure Session where
  id : Nat
  authenticated : Bool
  binding : Binding
  /-- its measurement summary hash (R744, R749) -/
  summary : Nat
  deriving DecidableEq, Repr

end Sys2Proof.Machine
end

