-- ==== Sys2Proof/Machine/CoreParts.lean ====
section
/-! DEFINITION. The records of one core: its streams, queues, generations, engines' registers and work in flight. -/

namespace Sys2Proof.Machine

/-- A data queue (R241, R242): its direction (false: access to execute), its depth and its entries, oldest first:
(token, tile, generation, beat of the push). `roomAt` is the first beat at which a push that met a full queue
finds room. -/
structure Queue where
  toAccess : Bool
  depth : Nat
  entries : List (Bool × Nat × Nat × Nat)
  roomAt : Nat
  deriving DecidableEq, Repr

def Queue.init : Queue := ⟨false, 1, [], 0⟩

/-- A comparator (R268): configuration, threshold and flag. -/
structure Cmp where
  cfg : Nat
  threshold : Nat
  flag : Bool
  deriving DecidableEq, Repr

def Cmp.init : Cmp := ⟨0, 0, false⟩

/-- The running block (R235 to R240): its first word, its start beat, and where each part stands. -/
structure Block where
  word : Nat
  b0 : Nat
  exeStart : Nat
  length : Nat
  /-- execute part: next word (from the header), beat the next instruction counts from, ended -/
  xpos : Nat
  xbase : Nat
  xdone : Bool
  /-- access part: next word, first beat at which it may issue, ended -/
  apos : Nat
  anext : Nat
  adone : Bool
  /-- the status of the first fault, 0 for none (R240, R259) -/
  fault : Nat
  /-- the latest beat at which anything of the block was issued or completed -/
  last : Nat
  deriving DecidableEq, Repr

/-- A prime-table entry (R296): q, mu, psi, psi_inv, n_max_inv and W7. -/
structure Prime where
  q : Nat
  mu : Nat
  psi : Nat
  psiInv : Nat
  nMaxInv : Nat
  w7 : Nat
  deriving DecidableEq, Repr

def Prime.init : Prime := ⟨0, 0, 0, 0, 0, 0⟩

/-- A built twiddle slot (R298, R302): the prime-table entry that it records, and the roots of its tables, as that entry stood
at the `TWB`'s issue. -/
structure Twiddle where
  entry : Nat
  psi : Nat
  psiInv : Nat
  deriving DecidableEq, Repr

/-- A chunk in a staging region of a key context (R367 to R372): the region's place (0 `stage_a`, 1 `stage_b`), the
plan position, whether it has its verdict, and the 4 KiB pieces that `KTILE` has begun and finished to load. -/
structure Staged where
  place : Nat
  position : Nat
  verdict : Bool
  taken : Nat
  loaded : Nat
  /-- its header (R370) -/
  header : List Byte
  deriving DecidableEq, Repr

/-- A key context (R366 to R375). -/
structure KeyCtx where
  /-- 0 closed, 1 open, 2 stopped -/
  state : Nat
  /-- the stop status -/
  status : Nat
  part : Nat
  tag : Nat
  chain : Nat
  logn : Nat
  kind : Nat
  galois : Nat
  /-- the chain's prime count P -/
  primes : Nat
  /-- the primes streamed, ascending -/
  list : List Nat
  digitFirst : Nat
  digits : Nat
  start : Nat
  /-- ring ID, for source 1 -/
  ring : Option Nat
  stageA : Nat
  stageB : Nat
  /-- of its key: the HBM address of the first chunk, and the seed -/
  base : Nat
  seed : Nat
  /-- chunks requested, and chunks that have arrived -/
  fetched : Nat
  arrived : Nat
  /-- tiles expanded by `XEXP` -/
  expanded : Nat
  staged : List Staged
  /-- for source 1: its member, and the number of the next unit it is offered there -/
  member : Nat
  next : Nat
  deriving DecidableEq, Repr

/-- A pass of a kernel over digits of one key (R403, R407, R413): what its key context names. -/
structure KeyPass where
  tag : Nat
  chain : Nat
  logn : Nat
  level : Nat
  kind : Nat
  galois : Nat
  list : List Nat
  first : Nat
  count : Nat
  ring : Option Nat
  deriving DecidableEq, Repr

def KeyCtx.init : KeyCtx := ⟨0, 0, 0, 0, 0, 0, 0, 0, 0, [], 0, 0, 0, none, 0, 0, 0, 0, 0, 0, 0, [], 0, 0⟩

/-- A hold of the AU, attached to a lacing ring (R489, R490): the ring, the member, the number of the next unit it is
offered there, and the key of the held unit's first byte. -/
structure RingHold where
  ring : Nat
  member : Nat
  next : Nat
  unit : Option Nat
  deriving DecidableEq, Repr

/-- A max-abs tracker (R445): the running value c, the history with its count, R and K, as binary32 patterns. -/
structure Tracker where
  c : Nat
  hist : List Nat
  r : Nat
  k : Nat
  deriving DecidableEq, Repr

/-- A part of a vector instruction's effect on a summary register, which takes effect at its last beat (R442 to
R444). `fl` is set in a float lane; `vs` is the summary register. -/
inductive VsUpd where
  /-- `RSUM` and `SQSUM`: the instruction's own sum -/
  | sum (vs : Nat) (fl : Bool) (part : Nat)
  /-- `RMAX` and `RMIN` with the instruction's own extreme -/
  | best (vs : Nat) (fl isMax : Bool) (v : Option Nat)
  /-- `ARGMAX`: the instruction's own maximum with its position, and the elements passed -/
  | arg (vs : Nat) (fl : Bool) (v : Option (Nat × Nat)) (n : Nat)
  /-- `CNT`, and the saturation count of `QNT` -/
  | cnt (vs n : Nat)
  /-- `AMAX`: tracker and the largest finite magnitude, as a binary32 pattern -/
  | amax (trk v : Nat)
  deriving DecidableEq, Repr

/-- An effect of an engine operation that happens at its last beat, besides the bytes it writes. -/
inductive Fx where
  | primes (t : Tab Prime)
  | consts (k : Tab Nat)
  | galois (m g logn : Nat)
  | twiddle (slot : Nat) (t : Twiddle)
  /-- `MMAC` and `MMACK` on tiles: the products join the tile as it stands then; `hit`: a source word was not below q -/
  | macc (tile : Nat) (narrow hit : Bool) (prods : List Nat) (p0 p1 : Prime)
  | rangeHit
  /-- coefficients cut to 64 bits by `ENCC` and `ENCS` (R328) -/
  | saturated (n : Nat)
  /-- a memory-form fault (R333, R334) with the bytes written without poison -/
  | peFault (prefixBytes : Nat)
  /-- `MMA`: bank, `mod`, and the bytes of its A, B and auxiliary tiles -/
  | mma (bank : Nat) (mod : BitVec 18) (a b aux : List Byte)
  /-- a fault of the ME or VE (R453, R454) with the elements written -/
  | veFault (prefixElems : Nat)
  | chains (first : Nat) (words : List (List Nat))
  /-- `XEXP` takes its place in the order of its key context, at the issue beat (R361) -/
  | expand (ctx : Nat)
  /-- `VHCFG` and `VHSTEP`, at the issue beat (R445): tracker and K; a mask of trackers -/
  | hcfg (trk k : Nat)
  | hstep (mask : Nat)
  | vs (u : VsUpd)
  | nonfinite
  | veSaturated (n : Nat)
  /-- `XNSET` (R360): distribution, parameter, log2 N, advance -/
  | noise (dist param logn : Nat) (advance : Bool)
  /-- words written marked poisoned, by the key of their first byte, with its device virtual address in memory -/
  | marks (lo n : Nat) (va : Option Nat)
  deriving DecidableEq, Repr

/-- An engine operation in flight (R253). Storages are numbered 0 to 31 for tiles, 32 to 35 for accumulator banks
(R287). Bytes to write come with their key and, in memory, their device virtual address. -/
structure Op where
  eng : Nat
  word : Nat
  issue : Nat
  occ : Nat
  lat : Nat
  dsts : List Nat
  srcs : List Nat
  /-- pool tiles that become free at the last beat of the read window (R245) -/
  release : List Nat
  writes : List (Nat × Option Nat × List Byte)
  fx : List Fx
  status : Nat
  deriving DecidableEq, Repr

/-- A line that waits for its slot of the wheel (R120 to R125, R475, R478): the beat of its grant, the transfer it belongs to
(none: an `STX`), whether it is written into own core memory or read from it, its source and destination by key, the device
virtual address there, and its bytes. `next` is the beat of the write that follows a read within own core memory; `data` the
bytes of a write that was read already, with whether they are poisoned. -/
structure Grant where
  beat : Nat
  xfer : Option Nat
  write : Bool
  src : Nat
  dst : Nat
  dva : Option Nat
  n : Nat
  next : Option Nat
  data : Option (List Byte × Bool)
  deriving DecidableEq, Repr

/-- The pending block (R238, R273, R287): the flag that a `RUNC` decides on (4: none), the blocks named, and the front-bank word
and the issue beat of the instruction that named it. -/
structure Pend where
  flag : Nat
  xa : Nat
  xb : Nat
  word : Nat
  beat : Nat
  deriving DecidableEq, Repr

/-- What an AU transfer is. -/
inductive XferKind where
  | ldt
  | stt
  | cpy
  | kopen
  | kfetch
  | ktile
  | kchain
  deriving DecidableEq, Repr

/-- An AU transfer in flight (R258, R464, R471, R475). `done` bytes have been moved; `writes` are those read and not
yet written (key, device virtual address, bytes, poisoned); `held` is the missing address while it holds. -/
structure Xfer where
  id : Nat
  kind : XferKind
  word : Nat
  issue : Nat
  /-- contexts; of a key operation, the key context stands in `dstContext` -/
  context : Nat
  dstContext : Nat
  queue : Nat
  tile : Nat
  pooled : Bool
  cursor : Nat
  dstCursor : Nat
  /-- the addresses that the walks start from, taken at issue -/
  start : Int
  dstStart : Int
  length : Nat
  done : Nat
  writes : List (Nat × Option Nat × List Byte × Bool)
  /-- requests through handles that have no answer yet -/
  remote : Nat
  held : Option Nat
  /-- the first status its accesses returned -/
  status : Nat
  /-- it moves lines to or from elsewhere than own core memory and tiles, so that its end has no fixed beat (R142, R265) -/
  far : Bool
  /-- the beat at which the last of its own lines has moved (R142) -/
  ownEnd : Nat
  deriving DecidableEq, Repr

/-- An `LDPM` in flight: the source address, the bytes, the first word, and its issue beat (R276). -/
structure Ldpm where
  va : Nat
  bytes : Nat
  word : Nat
  beat : Nat
  deriving DecidableEq, Repr

/-- One core. -/
structure Core where
  running : Bool
  pc : Nat
  /-- X1 to X15 (R271) -/
  xs : Tab Nat
  /-- the core beat counter, as far as the core's events have told it (R94); it does not wrap. DESIGN CHOICE (log 203) -/
  beat : Nat
  /-- the first beat at which the control core may issue (R272) -/
  cbeat : Nat
  /-- the halt status (R272 `HALT`) -/
  halt : Nat
  c2 : Bool
  cmAttr : Nat
  gens : Tab Nat
  /-- the first beat at which the latest generation of a storage that a load filled counts (R256) -/
  raised : Tab Nat
  queues : Tab Queue
  pool : Nat
  free : Nat
  lc : Tab Nat
  lcInit : Tab Nat
  cmps : Tab Cmp
  vs : Tab Nat
  /-- the hidden "seen" bits of VS0 to VS7, and the element counts of the ARGMAX pairs (R442) -/
  vsSeen : Nat
  vsCount : Tab Nat
  /-- VS0 to VS7 at the end of the most recent block (R270) -/
  vsSnap : Tab Nat
  block : Option Block
  pendBlock : Option Pend
  /-- the start beat of the latest block that was pending: a `RUNB` held until then issues no earlier (R238) -/
  pendStart : Nat
  /-- blocks that have ended after the control core's present beat, oldest first: the first beat of each status, and the status
  (R239, R272 `WAITB`) -/
  ended : List (Nat × Nat)
  lastStatus : Nat
  /-- the first beat at which the status of the last block is available (R239), 0 before any block -/
  lastEnd : Nat
  /-- the stream whose next instruction waits for a queue, a tile or a transfer slot: 1 execute, 2 access, 3 control -/
  waiting : Nat
  /-- the `RNEXT` that waits has passed its units (R489) -/
  passed : Bool
  ops : List Op
  /-- lines that wait for their slots, or hold them (R122) -/
  grants : List Grant
  /-- for each engine, the first beat after the occupancy of its latest instruction (R252) -/
  busyTo : Tab Nat
  xfers : List Xfer
  nextXfer : Nat
  cursors : Tab Nat
  /-- program memory's front bank, 0 or 1 -/
  front : Nat
  ldpm : Option Ldpm
  ldpmStatus : Nat
  /-- the beat at which the latest `LDPM` completed (R272 `PMWAIT`) -/
  ldpmEnd : Nat
  /-- C2 command queues (R281), each command with the front-bank word of its `ENQ` above its 64 bits (R287), the engines stopped
  by an underrun or a fault, and the status that the next `WAITE` returns (R284) -/
  c2q : Tab (List Nat)
  c2Stopped : Nat
  c2Status : Nat
  primes : Tab Prime
  consts : Tab Nat
  /-- (g, log2 N) of a Galois register that is set -/
  galois : Tab (Option (Nat × Nat))
  /-- the twiddle slots that are built -/
  twiddles : Tab (Option Twiddle)
  keys : Tab KeyCtx
  /-- the passes over keys that the running kernel has before it, the present one first (R403) -/
  passes : List KeyPass
  noiseKey : Nat
  noiseCtr : Nat
  noiseDist : Nat
  noiseParam : Nat
  /-- log2 N of the noise polynomials -/
  noiseLog : Nat
  chains : Tab (List Nat)
  trackers : Tab (Option Tracker)
  holds : Tab (Option RingHold)
  /-- pinned translations: (page number, entry) of the pages that mapped own core memory at program start (R469) -/
  pinned : List (Nat × Nat)
  /-- the stitch group of this device that the core's writes join (R513) -/
  bound : Option Nat
  tagLfsr : Nat
  /-- the status with which the program ends once its block has ended, when something stops it (R687, R759) -/
  stopping : Option Nat
  /-- the command whose kernel the front bank holds (R387) -/
  kernel : Option Nat
  deriving DecidableEq, Repr

/-- A core as reset leaves it (R143, R234). -/
def Core.init : Core where
  running := false
  pc := 0
  xs := []
  beat := 0
  cbeat := 0
  halt := 0
  c2 := false
  cmAttr := 0xFFFFFF
  gens := []
  raised := []
  queues := []
  pool := 0
  free := 0
  lc := []
  lcInit := []
  cmps := []
  vs := []
  vsSeen := 0
  vsCount := []
  vsSnap := []
  block := none
  pendBlock := none
  pendStart := 0
  ended := []
  lastStatus := 0
  lastEnd := 0
  waiting := 0
  passed := false
  ops := []
  grants := []
  busyTo := []
  xfers := []
  nextXfer := 0
  cursors := []
  front := 0
  ldpm := none
  ldpmStatus := 0
  ldpmEnd := 0
  c2q := []
  c2Stopped := 0
  c2Status := 0
  primes := []
  consts := []
  galois := []
  twiddles := []
  keys := []
  passes := []
  noiseKey := 0
  noiseCtr := 0
  noiseDist := 0
  noiseParam := 0
  noiseLog := 0
  chains := []
  trackers := []
  holds := []
  pinned := []
  bound := none
  tagLfsr := 0
  stopping := none
  kernel := none

end Sys2Proof.Machine
end

