-- ==== Sys2Proof/Machine/UnitParts.lean ====
section
/-! DEFINITION. The records of the units that several cores or devices share: stitch groups, lacing rings, windows,
ports, the step, the twin, keys and engines of the security island. -/

namespace Sys2Proof.Machine

/-! ## Stitch groups (12_stitch_groups) -/

/-- A shadow granule (R501 to R503): the key of its target's first byte, its bytes, and the credits it holds. -/
structure Granule where
  base : Nat
  data : List Byte
  credits : Nat
  /-- its words that are poisoned, by the key of their first byte (R150) -/
  marks : List Nat
  deriving DecidableEq, Repr

/-- A binding of a core (R513). -/
structure Bind where
  core : Nat
  base : Nat
  len : Nat
  regions : Nat
  deriving DecidableEq, Repr

/-- A stitch-group record (R505). `opener` is the node of another device that opened the group, `none` for a group of
this device. -/
structure Group where
  opener : Option Nat
  id : Nat
  part : Nat
  fabric : Bool
  step : Nat
  /-- as `sgq_state`: 1 open, 2 sealed, 3 prepared, 4 applying, 5 aborting (R536) -/
  state : Nat
  /-- the status of its failure, 0 while it is intact -/
  status : Nat
  cause : Nat
  binds : List Bind
  granules : List Granule
  /-- devices that acknowledged a write; those whose vote, or whose report of the apply, is still missing -/
  acked : List Nat
  awaited : List Nat
  /-- the `SGCOMMIT` that waits (R516, R521): sector and ring -/
  waiter : Option (Nat × Nat)
  /-- writes sent and not yet acknowledged -/
  unacked : Nat
  deriving DecidableEq, Repr

/-- A decision in the commit log (R519): opener, ID, step, whether it committed, and its time. -/
structure Decision where
  opener : Option Nat
  id : Nat
  step : Nat
  commit : Bool
  time : Nat
  deriving DecidableEq, Repr

/-! ## Key sets (08_ciphertexts, R350 to R357) -/

/-- A key of a set (R351): its seed, and the HBM address and count of its chunks in the key store. -/
structure KeyInfo where
  kind : Nat
  galois : Nat
  digits : Nat
  seed : Nat
  base : Nat
  chunks : Nat
  deriving DecidableEq, Repr

/-- A registered key set (R350, R352, R356): its space in the key store in 64 KiB units, and the full digest of its
parameter block. -/
structure KeySet where
  tag : Nat
  part : Nat
  scheme : Nat
  chain : Nat
  logn : Nat
  special : Nat
  alpha : Nat
  costs : Nat
  keys : List KeyInfo
  base : Nat
  units : Nat
  digest : Nat
  deriving DecidableEq, Repr

/-! ## Lacing rings (11_layout, R483 to R494) -/

/-- A unit at a member: its number, the members it has been offered at in this circulation, the circulations it has
completed, and its slot. -/
structure LaceUnit where
  unit : Nat
  offered : Nat
  rounds : Nat
  slot : Nat
  deriving DecidableEq, Repr

/-- A member: its buffer's key, its slots, the units it holds in the order of their offers, and the number of the first
of these among all it has offered. -/
structure Member where
  buffer : Nat
  slots : Nat
  units : List LaceUnit
  first : Nat
  deriving DecidableEq, Repr

/-- A lacing ring. Its state stands in `ring_state`. -/
structure Lace where
  part : Nat
  members : List Member
  fill : Nat
  circulations : Nat
  units : Nat
  source : Nat
  kind : Nat
  galois : Nat
  deriving DecidableEq, Repr

def Lace.init : Lace := ⟨0, [], 0, 0, 0, 0, 0, 0⟩

/-! ## Outbound handles (14_windows, R587 to R591, R595) -/

/-- What an answer to a request does at its source. -/
inductive Purpose where
  /-- a piece of the AU transfer (core, transfer); data of a read go to a key, with the device virtual address there -/
  | xfer (core id key : Nat) (va : Option Nat)
  /-- the CONNECT of a `WBIND` taken from a ring (sector, ring) -/
  | bind (sector ring : Nat)
  | other
  deriving DecidableEq, Repr

/-- A request through a handle: what it sends, and how often it has been sent again. -/
structure Request where
  tseq : Nat
  mtype : Nat
  offset : Nat
  arg : Nat
  data : List Byte
  group : Option Nat
  resends : Nat
  purpose : Purpose
  deriving DecidableEq, Repr

/-- What waits in the mesh router of a sector until it is ON: a response or acknowledgement (R97, R872), or an access to its memory
(R710, R711). -/
inductive Arrival where
  /-- the last line of a load: core, transfer, the beats it took -/
  | loaded (core id beats : Nat)
  /-- the end of another transfer -/
  | moved (core id beats : Nat)
  /-- a key chunk for a context of a core, the beats that its fetch took, and what ECC found in its read -/
  | chunk (core ctx beats : Nat) (ecc : Ecc)
  /-- the answer to a request through a handle: its status and data -/
  | answer (handle : Nat) (r : Request) (status : Nat) (data : List Byte)
  /-- a write from inside the device -/
  | write (w : RemoteWr)
  /-- a request of types 1 to 5 to a window of the sector, with what ECC finds where it reads -/
  | request (sector mtype : Nat) (m : Msg) (ecc : Ecc)
  deriving DecidableEq, Repr

/-- The sector that it has reached. -/
def Arrival.sector : Arrival → Option Nat
  | .loaded c _ _ => some (c / 25)
  | .moved c _ _ => some (c / 25)
  | .chunk c _ _ _ => some (c / 25)
  | .answer _ r _ _ => match r.purpose with
    | .xfer c _ _ _ => some (c / 25)
    | _ => none
  | .write w => some w.sector
  | .request x _ _ _ => some x

/-- A handle. `state`: 0 free, 1 connecting, 2 bound, 3 failed. -/
structure Handle where
  state : Nat
  part : Nat
  node : Nat
  window : Nat
  base : Nat
  ordered : Bool
  /-- the status of its failure (R591) -/
  failed : Nat
  epoch : Nat
  granted : Nat
  /-- in 256 B units -/
  frontier : Nat
  /-- units sent since it was bound -/
  sent : Nat
  nextSeq : Nat
  /-- requests sent and not answered, and those that wait for credit or for room (R589, R597), oldest first -/
  out : List Request
  held : List Request
  /-- the `WUNBIND` that waits -/
  unbinding : Option (Nat × Nat)
  deriving DecidableEq, Repr

def Handle.init : Handle := ⟨0, 0, 0, 0, 0, false, 0, 0, 0, 0, 0, 0, [], [], none⟩

/-! ## Windows, messages and steps (14_windows) -/

/-- What the target keeps of a window besides its context (R581, R585): the open blocks, each as 64 · target + index of
its landing range with the mask of its 256 B units written since it opened; and units consumed and surrendered since the
opening. -/
structure Win where
  blocks : List (Nat × Nat)
  consumed : Nat
  surrendered : Nat
  /-- the flows that have connected: (node, flow) -/
  flows : List (Nat × Nat)
  /-- 10 ms have passed since the REVOKE (R585) -/
  late : Bool
  deriving DecidableEq, Repr

def Win.init : Win := ⟨[], 0, 0, [], false⟩

/-- An answer that the target keeps (R596), with the time it was sent. -/
structure Kept where
  src : Nat
  flow : Nat
  tseq : Nat
  mtype : Nat
  ans : Msg
  time : Nat
  deriving DecidableEq, Repr

/-- A request of the device itself that has no answer yet: REVOKE, and the stitch, step and reset messages (R593). -/
structure Notice where
  tseq : Nat
  mtype : Nat
  msg : Msg
  resends : Nat
  deriving DecidableEq, Repr

/-- The target's side and the device's own requests (R586, R595 to R597). -/
structure Transport where
  kept : List Kept
  /-- for each (source, flow) that sends in order, the next `tseq`, and the requests held behind a missing one -/
  next : Tab (Option Nat)
  early : List (Nat × Msg)
  notices : List Notice
  nextNotice : Nat
  /-- the management processor opens no window yet (R586) -/
  holdoff : Bool
  deriving DecidableEq, Repr

def Transport.init : Transport := ⟨[], [], [], [], 0, false⟩

/-- The step of the device (R602 to R609). -/
structure StepSt where
  /-- children that have arrived -/
  arrived : List Nat
  /-- STEP_ARRIVE has been sent -/
  sent : Bool
  quiescent : Bool
  /-- the boundary has fallen, and `step_counter` has yet to increment -/
  boundary : Bool
  /-- the step failed, and `step_resume` is awaited -/
  failed : Bool
  /-- the failure has been reported to the parent -/
  reported : Bool
  /-- `cinch_mode` as it was read at quiescence (R607) -/
  cinch : Bool
  /-- granules that fabric groups have applied at the present boundary (R836, cause 5) -/
  applied : List Nat
  deriving DecidableEq, Repr

def StepSt.init : StepSt := ⟨[], false, false, false, false, false, false, []⟩

/-! ## Ports and routes (13_fabric) -/

/-- A port, besides `port_state` and `lane_map`. -/
structure Port where
  /-- enabled by `port_cmd` 1 and not disabled since -/
  enabled : Bool
  /-- next sequence number to send, the highest acknowledged, and the next expected -/
  nextSeq : Nat
  acked : Nat
  expect : Nat
  /-- `nak` stands in the next header that is sent (R550) -/
  nak : Bool
  /-- replays of the oldest unacknowledged sequence number (R553) -/
  replays : Nat
  /-- failures of RETRAIN in a row -/
  failures : Nat
  /-- flit buffers that the far end has for each virtual channel, as returned so far (R548) -/
  credits : Tab Nat
  /-- the logical lane that burnishes next (R555), the one in step 4, and its former physical lane's successor -/
  lane : Nat
  burnish : Option Nat
  deriving DecidableEq, Repr

def Port.init : Port := ⟨false, 0, 4095, 0, false, 0, 0, [], 0, none⟩

/-! ## Twin (15_twin) -/

/-- The twin, besides its entries. -/
structure Twin where
  heard : Option Heartbeat
  heardTime : Nat
  /-- the last heartbeat before a loss, for `twin_last_pause_us` -/
  lost : Bool
  /-- ports limited to HELLO (R634, R636) -/
  helloOnly : Bool
  /-- a bind waits for the peer's (R616): `lead` -/
  binding : Option Bool
  /-- what the peer answered to the bind (R617) -/
  peer : Option TwinPeer
  /-- a resynchronisation runs, started by a bind or not (R618, R638) -/
  syncing : Option Bool
  /-- the leader hands over at the next boundary (R637) -/
  handOver : Bool
  /-- the follower: input records of the present step, noise keys, and deltas staged -/
  inputs : List (Nat × InputRec)
  noise : Tab (Option Nat)
  deltas : List (Nat × List Byte)
  /-- the commit record of the leader's latest step, until the follower's own boundary (R626) -/
  commit : Option (Nat × List Byte)
  /-- the follower's own digest of the step named, until the leader's record of it comes (R626) -/
  own : Option (Nat × List Byte)
  /-- digest material of the present step: requests of each handle, and completion records (R626) -/
  requests : List (Nat × List Byte)
  completions : List (Nat × List Byte)
  deriving DecidableEq, Repr

def Twin.init : Twin :=
  ⟨none, 0, false, false, none, none, none, false, [], [], [], none, none, [], []⟩

/-! ## Security (18_security, 21_determinism) -/

/-- A release (R749, R750). -/
structure Release where
  part : Nat
  pkg : Nat
  secret : List Byte
  uses : Nat
  deriving DecidableEq, Repr

/-- The DRBG (R756): key, V, and the requests since its reseed. -/
structure Drbg where
  key : Nat
  v : Nat
  requests : Nat
  deriving DecidableEq, Repr

/-- A scrub (R759): whether the partition ends FREE. -/
structure Scrub where
  free : Bool
  deriving DecidableEq, Repr

/-- A package being decrypted (R751): its destination's partition and address, and its plaintext or `none`. -/
structure PkgJob where
  part : Nat
  dest : Nat
  length : Nat
  plain : Option (List Byte)
  deriving DecidableEq, Repr

/-- The security island and the firmware images. -/
structure Island where
  releases : List Release
  drbg : Drbg
  /-- a health test fails now (R758) -/
  trngFailing : Bool
  scrubs : Tab (Option Scrub)
  pkg : Option PkgJob
  /-- staging reads these bytes (R691) -/
  staging : Option (List Byte)
  /-- debug unlock accepted, its fuse to be blown at the next device-level reset (R729) -/
  unlock : Bool
  /-- what the measurement blocks named, and the releases, when the responder last noted them; and a difference that it has met
  since, with the time at which it met it (R745) -/
  seen : Option (List Byte)
  noticed : Option (List Byte × Nat)
  deriving DecidableEq, Repr

def Island.init : Island := ⟨[], ⟨0, 0, 0⟩, false, [], none, none, false, none, none⟩

/-- The noise replay of a partition (R837, R838): its seed, and each core's starts since the arm or load. -/
structure Replay where
  seed : List Byte
  starts : Tab Nat
  deriving DecidableEq, Repr

/-- A float update held in an ordered buffer (R830): contributor key, line, operation, mask and operand. -/
structure HeldAdd where
  key : Nat × Nat × Nat
  line : Nat
  op : Nat
  mask : Nat
  operand : List Byte
  deriving DecidableEq, Repr

/-- What the adders and determinism keep (R830, R836): updates held, and the lines last updated with the contributor
key of the latest float update, newest first. -/
structure Det where
  held : List HeldAdd
  lines : List (Nat × Option (Nat × Nat × Nat))
  deriving DecidableEq, Repr

def Det.init : Det := ⟨[], []⟩

/-! ## Big-number engine (19_big_number_engine) -/

/-- The running job (R769, R776): its partition, output area and mask, command words, the commands run, and the status of
the first that failed. -/
structure PkeJob where
  part : Nat
  outAddr : Nat
  outMask : Nat
  commands : List Nat
  run : Nat
  status : Nat
  /-- its partition has been scrubbed (R781) -/
  scrubbed : Bool
  deriving DecidableEq, Repr

/-- The engine, besides its entries: the job, the wipe after it, the self-test, and the times of the jobs that failed
with 0x0803 (R784). -/
structure Pke where
  job : Option PkeJob
  wiping : Bool
  testing : Bool
  faults : List Nat
  /-- a partition job was lost with the domain's power, and the reset that follows has yet to say so (R781) -/
  lost : Bool
  deriving DecidableEq, Repr

def Pke.init : Pke := ⟨none, false, false, [], false⟩

end Sys2Proof.Machine
end

