-- ==== Sys2Proof/Machine/State.lean ====
section
/-! DEFINITION. The machine: everything the specification gives the module, as plain data, and the module right
after a power-on reset. -/

namespace Sys2Proof.Machine

/-- What stops the machine. -/
inductive Fault where
  /-- Raised by a command whose unit number names no unit of the part (a core above 799, a sector above 31, ...).
  Safe: no such command can reach the hardware. -/
  | noSuchUnit
  deriving DecidableEq, Repr

/-- What the model declines to run. -/
inductive Refusal where
  /-- Raised by an arm of `exec` whose command has no meaning yet. Safe: nothing is claimed of it. -/
  | notModelled (mnemonic : String)
  deriving DecidableEq, Repr

/-- What leaves the module: the model's own record of its outputs (R593, R651). -/
inductive Out where
  /-- an MSI-X message (R651) -/
  | msix (vector : Nat)
  /-- a completion or event entry written to host memory (R679) -/
  | mirror (addr : Nat) (data : List Byte)
  /-- an I3C in-band interrupt with its mandatory data byte (R656) -/
  | ibi (mdb : Nat)
  /-- the status that a refused or completed access or request returns to its source, with data read -/
  | status (code : Nat) (poisoned : Bool) (data : List Byte)
  /-- a message of the transport layer (R593), by its type -/
  | msg (mtype : Nat) (m : Msg)
  /-- a packet that a router passes on at a port (R565) -/
  | packet (port : Nat) (p : Packet)
  /-- a HELLO at a port (R557) -/
  | hello (port : Nat) (h : HelloMsg)
  /-- an advertisement of a path, empty for a withdrawal, at a port (R563, R564) -/
  | advert (port dest : Nat) (path : List Nat)
  /-- a heartbeat at a yoke port (R629) -/
  | heartbeat (port : Nat) (h : Heartbeat)
  /-- a record on the yoke (15_twin): 2 input, 3 answer, 4 noise key, 5 delta, 6 commit record, 7 state copy,
  8 release, 9 registration, 10 the follower's arrival at the end of a step,
  11 an acknowledgement -/
  | yoke (kind number : Nat) (data : List Byte)
  /-- an answer of the SPDM responder: its error code, 0 for none, with the content that the rules give it -/
  | spdm (error : Nat) (data : List Byte)
  deriving DecidableEq, Repr

/-- The whole machine. -/
structure State where
  /-- the object dictionary, by 256 · index + sub-index; an unlisted entry reads its default (R856) -/
  dict : Tab Nat
  /-- every byte of every memory, by the keys of `Mem`; an unlisted byte reads 0 -/
  mem : Tab Byte
  /-- protected words stored marked poisoned, by the key of their first byte (R150, R863, R864) -/
  poison : Tab Bool
  /-- bit errors that stand in protected words on the chip and have not been met yet, by the key of a word's first byte (R147) -/
  flips : Tab Nat
  pins : Pins
  supply : Supply
  save : Save
  host : HostSide
  power : PowerMgr
  sectors : Tab Sector
  cores : Tab Core
  /-- translation entries: partition · 2^40 + large · 2^39 + page number (R466) -/
  xlat : Tab Nat
  /-- stitch-group records, the status, cause and step of each ID's last resolution, and the commit log -/
  groups : List Group
  resolved : Tab (Option (Nat × Nat × Nat))
  commitLog : List Decision
  keysets : List KeySet
  laces : Tab Lace
  handles : Tab Handle
  /-- what waits in the mesh routers of sectors that sleep (R872), oldest first -/
  arrivals : List Arrival
  /-- accounting of the windows whose contexts stand in HBM at 64 · w (R576) -/
  windows : Tab Win
  transport : Transport
  step : StepSt
  ports : Tab Port
  /-- the routing table (R561), by destination, and the paths learned: port · 2^16 + destination (R563) -/
  routes : Tab Nat
  paths : Tab (List Nat)
  twin : Twin
  island : Island
  replays : Tab (Option Replay)
  det : Det
  pke : Pke
  hbm : Hbm
  recovery : Recovery
  sessions : List Session
  /-- what has left the module, newest first -/
  sent : List Out
  /-- the model's own counter: the number of free values taken -/
  freeCtr : Nat
  /-- the commands that wait, first in first out -/
  pending : List Instr
  deriving DecidableEq, Repr

/-- The module right after a power-on reset. -/
def State.reset : State where
  dict := []
  mem := []
  poison := []
  flips := []
  pins := Pins.init
  supply := Supply.init
  save := Save.init
  host := HostSide.init
  power := PowerMgr.init
  sectors := []
  cores := []
  xlat := []
  groups := []
  resolved := []
  commitLog := []
  keysets := []
  laces := []
  handles := []
  arrivals := []
  windows := []
  transport := Transport.init
  step := StepSt.init
  ports := []
  routes := []
  paths := []
  twin := Twin.init
  island := Island.init
  replays := []
  det := Det.init
  pke := Pke.init
  hbm := Hbm.init
  recovery := Recovery.init
  sessions := []
  sent := []
  freeCtr := 0
  pending := []

end Sys2Proof.Machine
end

