-- ==== Sys2Proof/Machine/Ops.lean ====
section
/-! DEFINITION. The named operations over the dictionary, memory, statuses, alerts, MSI-X and sectors that every
family of commands uses. -/

namespace Sys2Proof.Machine

open Sys2Proof

/-- What a command answers. -/
abbrev Res := Host.Outcome State Fault Refusal

/-- A command that began in s ends in t: it has its effect on everything but the queue of waiting commands. -/
def done (s t : State) : Res := .next { t with pending := s.pending }

/-- A command of a unit that the part has (`ok`), or no such command. -/
def guarded (ok : Bool) (s t : State) : Res := if ok then done s t else .fault .noSuchUnit

/-! ## Bytes and numbers (R6) -/

/-- The number that bytes hold, least significant byte first. -/
def leNat : List Byte → Nat
  | [] => 0
  | b :: t => b.toNat + 256 * leNat t

/-- The n bytes of a number, least significant byte first. -/
def leBytes : Nat → Nat → List Byte
  | 0, _ => []
  | n + 1, v => BitVec.ofNat 8 v :: leBytes n (v / 256)

/-- Bits [hi:lo] of v. -/
def bits (v hi lo : Nat) : Nat := v / 2 ^ lo % 2 ^ (hi + 1 - lo)

/-- Bit i of v. -/
def bit (v i : Nat) : Bool := v / 2 ^ i % 2 == 1

/-- v with bit i set to b. -/
def setBit (v i : Nat) (b : Bool) : Nat :=
  if bit v i == b then v else if b then v + 2 ^ i else v - 2 ^ i

/-- v with bits [hi:lo] replaced by x. -/
def setBits (v hi lo x : Nat) : Nat :=
  v - bits v hi lo * 2 ^ lo + x % 2 ^ (hi + 1 - lo) * 2 ^ lo

/-- The 32-bit two's-complement pattern of an integer, and back. -/
def i32 (x : Int) : Nat := (x % 4294967296).toNat
def ofI32 (v : Nat) : Int := if v < 2147483648 then (v : Int) else (v : Int) - 4294967296

/-- The lowest code of those found (R18), 0 for none. -/
def lowestCode (l : List Nat) : Nat := l.foldl (fun m c => if m = 0 ∨ (c ≠ 0 ∧ c < m) then c else m) 0

/-! ## The dictionary -/

/-- The value of the entry with key k. -/
def rd (s : State) (k : Nat) : Nat := Tab.get (dictDefault k) s.dict k

/-- The entry with key k takes the value v, cut to the entry's size. -/
def wr (s : State) (k v : Nat) : State :=
  { s with dict := Tab.set (dictDefault k) s.dict k (v % 2 ^ (8 * dictSize k)) }

/-- A counter entry counts up by n, modulo its size. -/
def incBy (s : State) (k n : Nat) : State := wr s k (rd s k + n)

/-- A counter entry counts up by one. -/
def inc (s : State) (k : Nat) : State := incBy s k 1

/-- `time_count`, in TIMEREF periods of 40 ns (R126). -/
def now (s : State) : Nat := rd s E.time_count

/-- One period of the time reference passes, unless the always-on domain is held in reset (R126, R869). -/
def idle (s : State) : State := if s.supply.aonHeld then s else inc s E.time_count

/-! ## Memory -/

/-! The keys of `State.mem`: on-chip physical addresses (R134, R187), and above them the memories that have none. -/
namespace Mem

/-- HBM address A (R187). -/
def hbm (a : Nat) : Nat := a
/-- Offset o of target t of sector x (R134). -/
def onchip (x t o : Nat) : Nat := 2 ^ 39 + x * 2 ^ 32 + t * 2 ^ 27 + o
/-- Offset o of the core memory of logical core c (R23, R134). -/
def cm (c o : Nat) : Nat := onchip (c / 25) (c % 25) o
/-- Offset o of the commons of sector x. -/
def commons (x o : Nat) : Nat := onchip x 31 o
/-- Byte o of tile register t of core c (R133). -/
def tile (c t o : Nat) : Nat := 2 ^ 41 + c * 2 ^ 20 + t * 4096 + o
/-- Byte o of accumulator bank b of core c (R133). -/
def acc (c b o : Nat) : Nat := 2 ^ 42 + c * 2 ^ 16 + b * 16384 + o
/-- Byte o of program-memory bank b of core c. -/
def prog (c b o : Nat) : Nat := 2 ^ 43 + c * 2 ^ 18 + b * 131072 + o
/-- Byte o of module flash (R83). -/
def flash (o : Nat) : Nat := 2 ^ 44 + o
/-- Byte o of the big-number engine's operand memory. -/
def pke (o : Nat) : Nat := 2 ^ 45 + o
/-- Byte o of the boot buffer at the start of stack 0, pseudo-channel 0 (R735). -/
def bootBuf (o : Nat) : Nat := 2 ^ 46 + o

end Mem

/-- One byte. -/
def rdByte (s : State) (k : Nat) : Byte := Tab.get 0 s.mem k

/-- n bytes from key k upward. -/
def rdBytes (s : State) (k n : Nat) : List Byte :=
  let w := s.mem.filter fun e => decide (k ≤ e.1 ∧ e.1 < k + n)
  (List.range n).map fun i => Tab.get 0 w (k + i)

/-- The n-byte number at key k. -/
def rdNat (s : State) (k n : Nat) : Nat := leNat (rdBytes s k n)

/-- The cells of bytes from key k upward: a zero is not listed. -/
def cells (k : Nat) : List Byte → Tab Byte
  | [] => []
  | b :: t => if b = 0 then cells (k + 1) t else (k, b) :: cells (k + 1) t

/-- A memory with bytes written from key k upward. -/
def putBytes (m : Tab Byte) (k : Nat) (d : List Byte) : Tab Byte :=
  (m.filter fun e => decide (e.1 < k)) ++ cells k d ++ m.filter fun e => decide (k + d.length ≤ e.1)

/-- Core c. -/
def core (s : State) (c : Nat) : Core := Tab.get Core.init s.cores c

/-- Key k lies in a region of core memory that has the A code (R133, R143). -/
def inA (s : State) (k : Nat) : Bool :=
  decide (2 ^ 39 ≤ k ∧ k < 2 ^ 40) && decide (bits k 31 27 < 25) &&
    !bit (core s (25 * bits k 36 32 + bits k 31 27)).cmAttr (bits k 22 0 / 65536)

/-- The bytes of the protected word that key k lies in: 64 bits in tiles, accumulators and A regions, 256 bits in
W regions, commons and HBM (R133, R147, R864). -/
def wordBytes (s : State) (k : Nat) : Nat := if 2 ^ 41 ≤ k ∨ inA s k then 8 else 32

/-- What is noted of words wholly covered by a write of n bytes at key k is removed (R863, R864); `w` gives the bytes of a word. -/
def unmark {α : Type} (w : Nat → Nat) (p : Tab α) (k n : Nat) : Tab α :=
  p.filter fun e => decide (e.1 < k ∨ k + n < e.1 + w e.1)

/-- Bytes written from key k upward; a protected word written whole has valid check bits again. -/
def wrBytes (s : State) (k : Nat) (d : List Byte) : State :=
  { s with
    mem := putBytes s.mem k d
    poison := unmark (wordBytes s) s.poison k d.length
    flips := unmark (wordBytes s) s.flips k d.length }

/-- The n-byte number v written at key k. -/
def wrNat (s : State) (k n v : Nat) : State := wrBytes s k (leBytes n v)

/-- Zeros under valid check bits, from key lo up to and not including hi (R155). -/
def zeroFill (s : State) (lo hi : Nat) : State :=
  { s with mem := Tab.clear s.mem lo hi, poison := Tab.clear s.poison lo hi, flips := Tab.clear s.flips lo hi }

/-- The protected word at key k is stored marked poisoned. -/
def mark (s : State) (k : Nat) : State :=
  { s with poison := Tab.set false s.poison (k - k % wordBytes s k) true }

/-- Words that hold any of n bytes at key k are marked. -/
def markWords (s : State) (k n : Nat) : State :=
  let w := wordBytes s k
  (List.range ((k % w + n + w - 1) / w)).foldl (fun t i => mark t (k + w * i)) s

/-- Some word of the n bytes at key k is marked (R150). -/
def poisoned (s : State) (k n : Nat) : Bool :=
  s.poison.any fun e => decide (e.1 < k + n ∧ k < e.1 + wordBytes s e.1)

/-! ## Outputs -/

/-- An output leaves the module. -/
def emit (s : State) (o : Out) : State := { s with sent := o :: s.sent }

/-- A source receives a status, and data. -/
def answerStatus (s : State) (code : Nat) (poisoned : Bool) (data : List Byte) : State :=
  emit s (.status code poisoned data)

/-! ## MSI-X (R651 to R653) -/

/-- Vector v sends its message now, or leaves it pending while bus mastering is off (R646, R652). -/
def msixSend (s : State) (v : Nat) : State :=
  let h := s.host
  let hold := if rd s E.msix_holdoff_us = 0 then h.holdoff else h.holdoff ||| BitVec.ofNat 64 (2 ^ v)
  if h.busMaster then emit { s with host := { h with holdoff := hold } } (.msix v)
  else { s with host := { h with pba := h.pba ||| BitVec.ofNat 64 (2 ^ v), holdoff := hold } }

/-- A source signals vector v; 0xFF and other numbers above 63 name none (R651, R652). -/
def signalVector (s : State) (v : Nat) : State :=
  if 64 ≤ v then s
  else if bit s.host.holdoff.toNat v then
    { s with host := { s.host with behind := s.host.behind ||| BitVec.ofNat 64 (2 ^ v) } }
  else msixSend s v

/-! ## Alerts (R76, R90, R651, R656) -/

/-- Some stack is above step 0 (R215). -/
def stackThrottled (s : State) : Bool := (List.range 16).any fun c => rd s (E.hbm_throttle_step + c) != 0

/-- The alert bits whose condition holds now (R90: such a bit sets again at once). -/
def alertHolds (s : State) : Nat :=
  (if s.supply.mainOk && s.supply.auxOk then 0 else 1) + (if s.supply.dieHot || stackThrottled s then 2 else 0) +
  (if s.supply.coolLow || s.supply.coolantHot then 4 else 0) + (if rd s E.out_of_service = 1 then 64 else 0)

/-- `ALERT_N` is low (R76). -/
def alertLow (s : State) : Bool := !s.supply.aonHeld && decide (rd s E.alert_status &&& rd s E.alert_mask ≠ 0)

/-- After a change from `s0` to `s`, an `ALERT_N` that became asserted raises an in-band interrupt and signals the
alert vector (R651, R656). -/
def alertEdge (s0 s : State) : State :=
  if !alertLow s0 && alertLow s then signalVector (emit s (.ibi 0xA1)) (rd s E.msix_alert_vector) else s

/-- Bits of `alert_status` are set. -/
def setAlert (s : State) (b : Nat) : State :=
  alertEdge s (wr s E.alert_status (rd s E.alert_status ||| b))

/-- Bits of `alert_status` whose condition holds are set. -/
def refreshAlert (s : State) : State := setAlert s (alertHolds s)

/-! ## Units -/

/-- Sector x. -/
def sector (s : State) (x : Nat) : Sector := Tab.get Sector.init s.sectors x

/-- Sector x takes the record v. -/
def setSector (s : State) (x : Nat) (v : Sector) : State :=
  { s with sectors := Tab.set Sector.init s.sectors x v }

/-- Core c takes the record v. -/
def setCore (s : State) (c : Nat) (v : Core) : State := { s with cores := Tab.set Core.init s.cores c v }

/-- The state of domain d (R693). -/
def domainState (s : State) (d : Nat) : Nat := rd s (E.domain_state + d)

/-- Domain d is ON: the boot has ended, and the main stage feeds it (R790, R793, R874). -/
def domainOn (s : State) (d : Nat) : Bool := s.supply.mainOn && rd s E.boot_state == 3 && domainState s d == 0

/-- The physical slot of active position p of sector x (R24, R866). -/
def slotOf (s : State) (x p : Nat) : Nat := rd s (E.keeper_slots + 256 * x + p) % 128

/-- The block ID of logical core c (R21). -/
def coreBlock (s : State) (c : Nat) : Nat := 0x8000 + 32 * (c / 25) + slotOf s (c / 25) (c % 25)

/-! ## Performance counters (R845 to R848) -/

/-- The counter with configuration key `cfg` and value key `val` counts n of an event at an instance. -/
def countAt (s : State) (cfg val ev inst n : Nat) : State :=
  let c := rd s cfg
  if bit c 31 && bits c 11 0 == ev && (inst == 64 || bits c 29 24 == 63 || bits c 29 24 == inst) then incBy s val n
  else s

/-- A count event of the device, at an instance (64: the event has none). -/
def countDev (s : State) (ev inst n : Nat) : State :=
  (List.range 64).foldl (fun t i => countAt t (E.dpc_cfg + i) (E.dpc_value + i) ev inst n) s

/-- A count event of sector x: sector counters, and the device's (R846). -/
def countSec (s : State) (x ev n : Nat) : State :=
  countDev ((List.range 16).foldl
    (fun t i => countAt t (E.spc_cfg + 256 * x + i) (E.spc_value + 256 * x + i) ev 64 n) s) ev 64 n

/-- A count event of core c: its counters, its sector's and the device's (R846). -/
def countCore (s : State) (c ev n : Nat) : State :=
  countSec ((List.range 8).foldl
    (fun t i => countAt t (E.cpc_cfg + 256 * c + i) (E.cpc_value + 256 * c + i) ev 64 n) s) (c / 25) ev n

/-- Partition p is not FREE (R753). -/
def assigned (s : State) (p : Nat) : Bool := rd s (E.part_state + 256 * p) != 0

/-- The partition that owns sector x. -/
def ownerOf (s : State) (x : Nat) : Option Nat :=
  (List.range 32).find? fun p => assigned s p && bit (rd s (E.part_sectors + 256 * p)) x

/-- A timing-dependent choice of a cause, charged to a partition (R836). -/
def noteNd (s : State) (cause : Nat) (p : Option Nat) : State :=
  let s := countDev (inc s (E.nd_cause_count + (cause - 1))) 0x20B 64 1
  match p with
  | some p => inc s (E.nd_count + p)
  | none => s

/-- An uncorrectable on-chip word of sector x, at on-chip address a, reported by a block (R151, R180). -/
def onchipUe (s : State) (x a block : Nat) : State :=
  wr (wr (wr (inc s (E.onchip_uncorrectable_count + x)) E.last_ue_address a) E.last_ue_block block)
    E.last_ue_time (now s)

end Sys2Proof.Machine
end

