-- ==== Sys2Proof/Machine/Crypto.lean ====
section
/-! DEFINITION. The published functions that the rules name: CRC-32C, the SM3 digest, the SM4 block cipher and its
counter and GCM modes. The specification names them and gives no tables; they are written from the published
standards (PRESUMED, log 11). -/

namespace Sys2Proof.Machine

open Sys2Proof

/-- One 32-bit word of a cipher or a digest. -/
abbrev W32 := BitVec 32

/-- Bytes as a number, most significant byte first. -/
def beNat (l : List Byte) : Nat := l.foldl (fun a b => a * 256 + b.toNat) 0

/-- The n bytes of a number, most significant byte first. -/
def beBytes (n v : Nat) : List Byte := (leBytes n v).reverse

/-- Consecutive groups of n elements (n at least 1); the last may be shorter. `fuel` bounds the number of groups. -/
def groupsOf {α : Type} (n : Nat) : Nat → List α → List (List α)
  | 0, _ => []
  | f + 1, l => if l.isEmpty then [] else l.take n :: groupsOf n f (l.drop n)

/-! ## CRC-32C (reflected polynomial 0x82F6_3B78) -/

/-- One bit of the CRC register. -/
def crcBit (r : W32) : W32 := if r.getLsbD 0 then (r >>> 1) ^^^ 0x82F63B78#32 else r >>> 1

/-- One byte. -/
def crcByte (r : W32) (b : Byte) : W32 :=
  crcBit (crcBit (crcBit (crcBit (crcBit (crcBit (crcBit (crcBit (r ^^^ b.setWidth 32))))))))

/-- CRC-32C of bytes. -/
def crc32c (l : List Byte) : Nat := (l.foldl crcByte 0xFFFFFFFF#32 ^^^ 0xFFFFFFFF#32).toNat

/-! ## SM3 -/

/-- P0 and P1. -/
def sm3P0 (x : W32) : W32 := x ^^^ x.rotateLeft 9 ^^^ x.rotateLeft 17
def sm3P1 (x : W32) : W32 := x ^^^ x.rotateLeft 15 ^^^ x.rotateLeft 23

/-- The next message word from the latest sixteen, oldest first. -/
def sm3Next (w : List W32) : W32 :=
  let g := fun i => w.getD i 0
  sm3P1 (g 0 ^^^ g 7 ^^^ (g 13).rotateLeft 15) ^^^ (g 3).rotateLeft 7 ^^^ g 10

/-- n further message words, after those given (oldest first in the window). -/
def sm3Expand : Nat → List W32 → List W32
  | 0, w => w
  | n + 1, w => match w with
    | [] => []
    | h :: t => h :: sm3Expand n (t ++ [sm3Next w])

/-- One round: register words A to H, with the message words W_j and W_{j+4}. -/
def sm3Round (v : List W32) (j : Nat) (w w4 : W32) : List W32 :=
  match v with
  | [a, b, c, d, e, f, g, h] =>
    let t : W32 := if j < 16 then 0x79CC4519 else 0x7A879D8A
    let ss1 := (a.rotateLeft 12 + e + t.rotateLeft (j % 32)).rotateLeft 7
    let ss2 := ss1 ^^^ a.rotateLeft 12
    let ff := if j < 16 then a ^^^ b ^^^ c else (a &&& b) ||| (a &&& c) ||| (b &&& c)
    let gg := if j < 16 then e ^^^ f ^^^ g else (e &&& f) ||| (~~~e &&& g)
    let t1 := ff + d + ss2 + (w ^^^ w4)
    let t2 := gg + h + ss1 + w
    [t1, a, b.rotateLeft 9, c, sm3P0 t2, e, f.rotateLeft 19, g]
  | _ => v

/-- Rounds j upward over the message words. -/
def sm3Rounds : Nat → List W32 → List W32 → Nat → List W32
  | 0, v, _, _ => v
  | n + 1, v, w, j => sm3Rounds n (sm3Round v j (w.getD 0 0) (w.getD 4 0)) (w.drop 1) (j + 1)

/-- One block of 64 bytes. -/
def sm3Block (v : List W32) (b : List Byte) : List W32 :=
  let w := (groupsOf 4 16 b).map fun g => BitVec.ofNat 32 (beNat g)
  List.zipWith (· ^^^ ·) (sm3Rounds 64 v (sm3Expand 52 w) 0) v

def sm3Init : List W32 :=
  [0x7380166F, 0x4914B2B9, 0x172442D7, 0xDA8A0600, 0xA96F30BC, 0x163138AA, 0xE38DEE4D, 0xB0FB0E4E]

/-- The SM3 digest of bytes, 32 bytes. -/
def sm3 (m : List Byte) : List Byte :=
  let pad := (119 - m.length % 64) % 64
  let p := m ++ [0x80#8] ++ List.replicate pad 0 ++ beBytes 8 (8 * m.length)
  ((groupsOf 64 (p.length / 64) p).foldl sm3Block sm3Init).flatMap fun x => beBytes 4 x.toNat

/-! ## SM4 -/

/-- The S-box, as one number, byte 0 lowest. -/
def sm4Sbox : List Nat :=
  [0xd6,0x90,0xe9,0xfe,0xcc,0xe1,0x3d,0xb7,0x16,0xb6,0x14,0xc2,0x28,0xfb,0x2c,0x05] ++
  [0x2b,0x67,0x9a,0x76,0x2a,0xbe,0x04,0xc3,0xaa,0x44,0x13,0x26,0x49,0x86,0x06,0x99] ++
  [0x9c,0x42,0x50,0xf4,0x91,0xef,0x98,0x7a,0x33,0x54,0x0b,0x43,0xed,0xcf,0xac,0x62] ++
  [0xe4,0xb3,0x1c,0xa9,0xc9,0x08,0xe8,0x95,0x80,0xdf,0x94,0xfa,0x75,0x8f,0x3f,0xa6] ++
  [0x47,0x07,0xa7,0xfc,0xf3,0x73,0x17,0xba,0x83,0x59,0x3c,0x19,0xe6,0x85,0x4f,0xa8] ++
  [0x68,0x6b,0x81,0xb2,0x71,0x64,0xda,0x8b,0xf8,0xeb,0x0f,0x4b,0x70,0x56,0x9d,0x35] ++
  [0x1e,0x24,0x0e,0x5e,0x63,0x58,0xd1,0xa2,0x25,0x22,0x7c,0x3b,0x01,0x21,0x78,0x87] ++
  [0xd4,0x00,0x46,0x57,0x9f,0xd3,0x27,0x52,0x4c,0x36,0x02,0xe7,0xa0,0xc4,0xc8,0x9e] ++
  [0xea,0xbf,0x8a,0xd2,0x40,0xc7,0x38,0xb5,0xa3,0xf7,0xf2,0xce,0xf9,0x61,0x15,0xa1] ++
  [0xe0,0xae,0x5d,0xa4,0x9b,0x34,0x1a,0x55,0xad,0x93,0x32,0x30,0xf5,0x8c,0xb1,0xe3] ++
  [0x1d,0xf6,0xe2,0x2e,0x82,0x66,0xca,0x60,0xc0,0x29,0x23,0xab,0x0d,0x53,0x4e,0x6f] ++
  [0xd5,0xdb,0x37,0x45,0xde,0xfd,0x8e,0x2f,0x03,0xff,0x6a,0x72,0x6d,0x6c,0x5b,0x51] ++
  [0x8d,0x1b,0xaf,0x92,0xbb,0xdd,0xbc,0x7f,0x11,0xd9,0x5c,0x41,0x1f,0x10,0x5a,0xd8] ++
  [0x0a,0xc1,0x31,0x88,0xa5,0xcd,0x7b,0xbd,0x2d,0x74,0xd0,0x12,0xb8,0xe5,0xb4,0xb0] ++
  [0x89,0x69,0x97,0x4a,0x0c,0x96,0x77,0x7e,0x65,0xb9,0xf1,0x09,0xc5,0x6e,0xc6,0x84] ++
  [0x18,0xf0,0x7d,0xec,0x3a,0xdc,0x4d,0x20,0x79,0xee,0x5f,0x3e,0xd7,0xcb,0x39,0x48]

/-- The S-box on each byte of a word. -/
def sm4Tau (x : W32) : W32 :=
  BitVec.ofNat 32 (beNat ((beBytes 4 x.toNat).map fun b => BitVec.ofNat 8 (sm4Sbox.getD b.toNat 0)))

/-- The transform of the data rounds, and that of the key schedule. -/
def sm4T (x : W32) : W32 :=
  let b := sm4Tau x
  b ^^^ b.rotateLeft 2 ^^^ b.rotateLeft 10 ^^^ b.rotateLeft 18 ^^^ b.rotateLeft 24
def sm4T' (x : W32) : W32 :=
  let b := sm4Tau x
  b ^^^ b.rotateLeft 13 ^^^ b.rotateLeft 23

/-- The constant CK_i: its bytes are 7 times consecutive integers, modulo 256. -/
def sm4CK (i : Nat) : W32 :=
  BitVec.ofNat 32 (beNat ((List.range 4).map fun j => BitVec.ofNat 8 ((4 * i + j) * 7)))

/-- n round keys from the four latest key words, starting at round i. -/
def sm4Keys : Nat → Nat → List W32 → List W32
  | 0, _, _ => []
  | n + 1, i, k =>
    let r := k.getD 0 0 ^^^ sm4T' (k.getD 1 0 ^^^ k.getD 2 0 ^^^ k.getD 3 0 ^^^ sm4CK i)
    r :: sm4Keys n (i + 1) (k.drop 1 ++ [r])

/-- The 32 round keys of a 128-bit key. -/
def sm4Schedule (key : Nat) : List W32 :=
  let k := (groupsOf 4 4 (beBytes 16 key)).map fun g => BitVec.ofNat 32 (beNat g)
  sm4Keys 32 0 (List.zipWith (· ^^^ ·) k [0xA3B1BAC6#32, 0x56AA3350#32, 0x677D9197#32, 0xB27022DC#32])

/-- One data round. -/
def sm4Round (x : List W32) (rk : W32) : List W32 :=
  x.drop 1 ++ [x.getD 0 0 ^^^ sm4T (x.getD 1 0 ^^^ x.getD 2 0 ^^^ x.getD 3 0 ^^^ rk)]

/-- SM4 of a 128-bit block under a 128-bit key, both as big-endian numbers. -/
def sm4 (key block : Nat) : Nat :=
  let x := (groupsOf 4 4 (beBytes 16 block)).map fun g => BitVec.ofNat 32 (beNat g)
  beNat ((((sm4Schedule key).foldl sm4Round x).reverse).flatMap fun w => beBytes 4 w.toNat)

/-! ## GCM over SM4 -/

/-- One step of the product in GF(2^128), most significant bit first: (z, v) and the next bit of x. -/
def gfStep (p : Nat × Nat) (b : Bool) : Nat × Nat :=
  (if b then p.1 ^^^ p.2 else p.1, if p.2 % 2 = 1 then p.2 / 2 ^^^ (0xE1 * 2 ^ 120) else p.2 / 2)

/-- The product in GF(2^128) of GCM. -/
def gfMul (x y : Nat) : Nat :=
  ((List.range 128).foldl (fun p i => gfStep p (bit x (127 - i))) (0, y)).1

/-- Bytes padded with zeros to whole blocks of 16, as numbers. -/
def blocks16 (l : List Byte) : List Nat :=
  (groupsOf 16 ((l.length + 15) / 16) l).map fun g => beNat (g ++ List.replicate (16 - g.length) 0)

/-- GHASH of blocks under the hash key h. -/
def ghash (h : Nat) (l : List Nat) : Nat := l.foldl (fun y x => gfMul (y ^^^ x) h) 0

/-- n keystream blocks of counter mode from counter block c (its low 32 bits count). -/
def ctrStream (key : Nat) : Nat → Nat → List Byte
  | 0, _ => []
  | n + 1, c => beBytes 16 (sm4 key c) ++ ctrStream key n (c / 2 ^ 32 * 2 ^ 32 + (c % 2 ^ 32 + 1) % 2 ^ 32)

/-- Counter mode over bytes, from a 96-bit nonce, counter 2. -/
def gcmCrypt (key nonce : Nat) (d : List Byte) : List Byte :=
  List.zipWith (· ^^^ ·) d (ctrStream key ((d.length + 15) / 16) (nonce * 2 ^ 32 + 2))

/-- The 16-byte GCM tag of additional data and ciphertext. -/
def gcmTag (key nonce : Nat) (aad ct : List Byte) : Nat :=
  let h := sm4 key 0
  ghash h (blocks16 aad ++ blocks16 ct ++ [8 * aad.length * 2 ^ 64 + 8 * ct.length]) ^^^
    sm4 key (nonce * 2 ^ 32 + 1)

end Sys2Proof.Machine
end

