-- ==== Sys2Proof/Machine/PowerOps.lean ====
section
/-! DEFINITION. Blocks and their names (R20, R21), the end of a sleep entry by a refusal or by work (R704, R705,
R707), and wake demands (R710, R711). -/

namespace Sys2Proof.Machine

open Sys2Proof

/-- Two decimal digits, in ASCII. -/
def digits2 (n : Nat) : List Nat := [48 + n / 10 % 10, 48 + n % 10]

/-- ASCII codes padded with spaces to 8 (R20), as the number a STR(8) entry holds. -/
def pad8 (l : List Nat) : Nat := leNat ((l ++ List.replicate (8 - l.length) 32).map (BitVec.ofNat 8))

/-- The short name of a block, as the value of a STR(8) entry (R21). -/
def blockName (b : Nat) : Nat :=
  if 0x8000 ≤ b then pad8 ([67, 82] ++ digits2 ((b - 0x8000) / 32) ++ [46] ++ digits2 ((b - 0x8000) % 32))
  else if b / 256 = 1 then pad8 ([83, 69, 67] ++ digits2 (b % 256))
  else if b / 256 = 2 then pad8 ([88, 66, 65, 82] ++ digits2 (b % 256))
  else if b / 256 = 3 then pad8 ([67, 77, 78] ++ digits2 (b % 256))
  else if b / 256 = 4 then pad8 ([77, 69, 83, 72] ++ digits2 (b % 256))
  else if b / 256 = 5 then pad8 ([80, 65, 67, 69] ++ digits2 (b % 256))
  else if b / 256 = 6 then pad8 ([72, 66, 77, 67] ++ digits2 (b % 256))
  else if 0x700 ≤ b ∧ b < 0x720 then pad8 ([70, 80, 79, 82, 84] ++ digits2 (b % 256))
  else if b / 256 = 7 then pad8 [89, 80, 79, 82, 84, 48 + b % 16]
  else if b / 256 = 8 then pad8 ([77, 76, 73, 78, 75] ++ digits2 (b % 256))
  else match b with
    | 1 => pad8 [77, 71, 77, 84]
    | 2 => pad8 [83, 73, 83, 76]
    | 3 => pad8 [80, 75, 69]
    | 4 => pad8 [80, 67, 73, 69]
    | 5 => pad8 [73, 51, 67]
    | 6 => pad8 [69, 77, 82, 65, 77]
    | 7 => pad8 [84, 82, 69, 70]
    | _ => pad8 [70, 76, 65, 83, 72]

/-- The domain of a block that may be asked to sleep (R692, R707); `none` for blocks of the always-on domain. -/
def blockDomain (b : Nat) : Option Nat :=
  if b / 256 = 1 ∨ b / 256 = 2 then some (b % 256)
  else if b / 256 = 6 then some (32 + b % 256 / 4)
  else if 0x700 ≤ b ∧ b < 0x710 then some 36
  else if 0x710 ≤ b ∧ b < 0x720 then some 37
  else if b / 256 = 7 then some 38
  else if b = 3 then some 39
  else none

/-- Domain d reports state v (R693). -/
def setDomain (s : State) (d v : Nat) : State := wr s (E.domain_state + d) v

/-- Every domain that had accepted returns to ON (R704, R705). -/
def returnAsked (s : State) : State :=
  (List.range 40).foldl (fun t d => if domainState t d = 1 then setDomain t d 0 else t) s

/-- The sleep-refusal log gains an entry, newest first, and `last_sleep_refusal` is overwritten (R707, R725,
R727). `kind` reads 1 refused, 2 aborted, 3 delay expired. -/
def recordRefusal (s : State) (block reason state kind : Nat) : State :=
  let t := now s
  let e := block + blockName block * 2 ^ 16 + reason * 2 ^ 80 + (state * 16 + kind) * 2 ^ 88 + t % 2 ^ 32 * 2 ^ 96
  let s := (List.range 15).reverse.foldl
    (fun u i => wr u (E.sleep_refusal_log + i + 1) (rd u (E.sleep_refusal_log + i))) s
  let s := wr s E.sleep_refusal_log e
  wr (wr (wr (wr (wr (wr s E.slr_block block) E.slr_name (blockName block)) E.slr_reason reason)
    E.slr_state state) E.slr_kind kind) E.slr_time t

/-- The sleep entry in progress ends by a refusal (0x0602, R704) or by work (0x0603, R705); nothing is switched. -/
def endEntry (s : State) (block reason kind : Nat) : State :=
  match s.power.entry with
  | none => s
  | some e =>
    let s := returnAsked { s with power := { s.power with entry := none } }
    let s := recordRefusal s block reason e.state kind
    let s := if kind = 2 then inc s E.sleep_aborted_count else inc s E.sleep_refused_count
    wr (wr s E.sleep_phase 0) E.sleep_result (if kind = 2 then 0x0603 else 0x0602)

/-- Work or an access reaches domain d through block b: when the domain has a block that accepted a sleep entry
still being decided, the entry ends (R705). -/
def workReaches (s : State) (b : Nat) : State :=
  match s.power.entry with
  | none => s
  | some e => if e.asked.any (fun a => a.1 == b && a.2 == Asked.accepted) then endEntry s b 15 2 else s

/-- The sleep entry is abandoned without a count (R709, R723). -/
def abandonEntry (s : State) : State :=
  match s.power.entry with
  | none => s
  | some _ => wr (returnAsked { s with power := { s.power with entry := none } }) E.sleep_phase 0

/-- Domain d starts to wake, or waits for the main stage (R710, R874). -/
def wakeOne (s : State) (d : Nat) : State :=
  if !s.supply.mainOn then { s with power := { s.power with waitMain := s.power.waitMain ||| BitVec.ofNat 40 (2 ^ d) } }
  else if domainState s d = 0 ∨ domainState s d = 6 then s
  else setDomain { s with power := { s.power with waking := s.power.waking ||| BitVec.ofNat 40 (2 ^ d) } } d 6

/-- A wake demand for domain d. From SL3 or SL4 the device wakes as a whole (R710); from SL4, once the main stage is enabled
(R47, R874). SL4 ends with the demand, before that stage is on, for R55 and R75 too. DESIGN CHOICE (log 201). Out of service,
every demand is refused (R809). -/
def wakeDomain (s : State) (d : Nat) : State :=
  if rd s E.out_of_service = 1 then s
  else if s.power.deep = 0 then wakeOne s d
  else (List.range 40).foldl wakeOne { s with power := { s.power with routersOff := 0, deep := 0 } }

/-- Traffic reaches sector x: a sleep entry that it had accepted ends, and a sector that sleeps wakes (R705, R710). -/
def trafficTo (s : State) (x : Nat) : State :=
  let s := workReaches (workReaches s (0x100 + x)) (0x200 + x)
  if domainOn s x then s else wakeDomain s x

/-- What reaches sector x, which is not ON, wakes it and waits in its mesh router until it is (R710, R711, R872), in the order of
arrival. DEDUCED (log 208). Out of service nothing wakes, so nothing waits (R809). -/
def awaitSector (s : State) (x : Nat) (a : Arrival) : State :=
  if rd s E.out_of_service = 1 then s else wakeDomain { s with arrivals := s.arrivals ++ [a] } x

end Sys2Proof.Machine
end

