-- ==== Sys2Proof/Machine/Access.lean ====
section
/-! DEFINITION. One access to the object dictionary: what it may reach, the order of its checks (R861), its
result, and the codes it reports (R10, R12, R657 to R665, R735, R736, R809, R816, R856 to R861, R865). -/

namespace Sys2Proof.Machine

open Sys2Proof

/-- The access is authenticated (R658, R742): it comes from the security island, or inside an authenticated
session that the responder holds. -/
def authentic (s : State) : Path → Bool
  | .bar0 => false
  | .island => true
  | .mctp _ a => a && s.sessions.any (·.authenticated)

/-- What a chapter adds to the table row of an entry. -/
structure EntrySem where
  /-- the entry is limited to authenticated sessions (R660 result 6) -/
  authOnly : Bool
  /-- an unauthenticated write that the chapter still allows (R743) -/
  exempt : State → Path → Bool
  /-- the rule on a written value, and on the device's state other than idleness (R861 order 6) -/
  rule : State → Nat → Bool
  /-- the owning unit is idle (R861 order 7) -/
  idle : State → Bool
  /-- what an accepted write does -/
  eff : State → Path → Nat → State

/-- An entry with no rule of its own: an accepted write stores the value. -/
def plain (k : Nat) : EntrySem := ⟨false, fun _ _ => false, fun _ _ => true, fun _ => true, fun s _ v => wr s k v⟩

/-- A stored value limited by a rule. -/
def limited (k : Nat) (r : State → Nat → Bool) : EntrySem := { plain k with rule := r }

/-- A command entry: an accepted write has this effect and stores nothing. -/
def command (r : State → Nat → Bool) (f : State → Path → Nat → State) : EntrySem :=
  ⟨false, fun _ _ => false, r, fun _ => true, f⟩

/-- What becomes of an access before its checks. -/
inductive Gate where
  | serve
  /-- no such entry in this state (R735) -/
  | absent
  /-- it waits for the boot (R736) -/
  | boot
  /-- the device answers nothing (R720, R816, R870) -/
  | silent
  deriving DecidableEq, Repr

/-- Whether the device serves an access to an index now. -/
def gate (s : State) (idx : Nat) : Gate :=
  let low := idx / 4096 = 1 ∨ idx / 4096 = 8
  if s.supply.aonHeld ∨ s.save.running then .silent
  else if s.recovery.fullTest.isSome then if idx / 4096 = 1 ∨ idx = 0x9040 then .serve else .silent
  else if rd s E.boot_state = 1 then if low ∨ idx = 0xB300 then .serve else .absent
  else if rd s E.boot_state = 3 ∨ low then .serve
  else .boot

/-- The domain that owns an SH entry (R860, R865). -/
def shDomain (s : State) (idx sub : Nat) : Nat :=
  if idx = 0x2021 ∨ idx = 0x4100 ∨ idx = 0x4150 then sub - 1
  else if idx < 0xB200 then (idx - 0xB100) / 8
  else rd s (E.ev_sector + 256 * (idx - 0xB200)) % 32

/-- The answer of an access that ends with result r. -/
def ansOf (r : Nat) (tag : Nat) (row : Option DRow) (sub : Nat) (d : List Byte) : DictAns :=
  match row with
  | none => ⟨tag, r, 0, 0, 0, false, d⟩
  | some w => if sub = 0 then ⟨tag, r, 1, 1, 4, false, d⟩ else ⟨tag, r, w.typ, w.acc.code, w.pers, w.sh, d⟩

/-- The access right permits the operation (R861 order 3, R12). -/
def permits (a : Acc) (w : Bool) : Bool :=
  match a with
  | .ro | .rc => !w
  | .wo | .cmd => w
  | .rw | .rwi | .w1c | .trust => true

/-- A read of a WO entry is permitted and returns 0 (R12). -/
def readable (a : Acc) : Bool := a != .cmd

/-- The first failing check of R861 after existence, or 0. -/
def checks (s : State) (via : Path) (w : Bool) (row : DRow) (sem : EntrySem) (len : Nat) (v : Nat) : Nat :=
  if !(if w then permits row.acc true else readable row.acc) then 2
  else if ((w && row.acc == .trust) || sem.authOnly) && !authentic s via && !sem.exempt s via then 6
  else if len ≠ row.size then 3
  else if w && (!(decide (row.typ ≠ 7 ∨ v < 2)) || !sem.rule s v) then 4
  else if w && !sem.idle s then 5
  else 0

/-- The effect of an accepted write: W1C entries clear the bits written as 1, and others act by their chapter. -/
def accept (s : State) (via : Path) (row : DRow) (k : Nat) (sem : EntrySem) (v : Nat) : State :=
  if row.acc = .w1c then refreshAlert (wr s k (rd s k &&& (2 ^ (8 * row.size) - 1 - v))) else sem.eff s via v

/-- The index holds a partition's entries, by what R668 counts as belonging to one: partition, translation, lacing, stitch,
homomorphic, chain and key-set, package, determinism, ring and event entries. DEDUCED (log 144). -/
def partitionEntry (i : Nat) : Bool :=
  decide (i / 256 = 0x35 ∨ (0x4120 ≤ i ∧ i < 0x4160) ∨ (0x5002 ≤ i ∧ i < 0x5007) ∨ i = 0x8030 ∨ (0x8100 ≤ i ∧ i < 0x8120) ∨
    i = 0xA001 ∨ i = 0xA004 ∨ i = 0xA005 ∨ (0xA200 ≤ i ∧ i < 0xA220) ∨ (0xB100 ≤ i ∧ i < 0xB220))

/-- The leader of a pair forwards an accepted write of a partition's entry before it takes effect (R622). -/
def forwardWrite (s : State) (a : Access) : State :=
  if rd s E.twin_role = 1 ∧ !s.twin.lost ∧ partitionEntry a.index then
    emit s (.yoke 2 0 (leBytes 2 a.index ++ leBytes 1 a.sub ++ a.data))
  else s

/-- The answer is kept. -/
def finish (s : State) (a : DictAns) : State := { s with host := { s.host with answer := a } }

/-- A switched domain's entry while the device is out of service (R809): reads give defaults, writes result 5. -/
def oosAccess (s : State) (a : Access) (row : DRow) : State :=
  if a.wr then finish s (ansOf 5 a.tag (some row) a.sub [])
  else finish s (ansOf 0 a.tag (some row) a.sub (leBytes row.size row.dflt))

/-- The access, once nothing holds it back: the checks of R861 in order, then its effect. -/
def serve (s : State) (a : Access) (sem : EntrySem) : State :=
  let row := dictRow a.index (if a.sub = 0 then 1 else a.sub)
  let k := a.index * 256 + a.sub
  if 0xF000 ≤ a.index then
    let lc := rd s E.lifecycle_state
    finish s (ansOf (if lc = 2 ∨ lc = 4 then 1 else if authentic s a.via then 1 else 6) a.tag none a.sub [])
  else match row with
  | none => finish s (ansOf 1 a.tag none a.sub [])
  | some w =>
    if a.sub = 0 then
      if a.wr then finish s (ansOf 2 a.tag row 0 [])
      else if a.len ≠ 1 then finish s (ansOf 3 a.tag row 0 [])
      else finish s (ansOf 0 a.tag row 0 (leBytes 1 (dictSubs a.index)))
    else
      let v := leNat a.data
      match checks s a.via a.wr w sem (if a.wr then a.data.length else a.len) v with
      | 0 =>
        if a.wr then finish (accept (forwardWrite s a) a.via w k sem v) (ansOf 0 a.tag row a.sub [])
        else
          let d := leBytes w.size (if w.acc = .wo then 0 else rd s k)
          finish (if w.acc = .rc then wr s k 0 else s) (ansOf 0 a.tag row a.sub d)
      | r => finish s (ansOf r a.tag row a.sub [])

/-- An access that waits joins the queue of waiting accesses. -/
def stall (s : State) (a : Access) (d : Nat) : State :=
  { s with host := { s.host with stalled := s.host.stalled ++ [{ a with domain := d }] } }

/-- One access: it is served, refused, or waits for its domain or the boot. -/
def access (s : State) (a : Access) (sem : EntrySem) : State :=
  match gate s a.index with
  | .silent => s
  | .absent => finish s (ansOf 1 a.tag none a.sub [])
  | .boot => stall s a 40
  | .serve =>
    match dictRow a.index a.sub with
    | none => serve s a sem
    | some row =>
      if !row.sh then serve s a sem
      else if rd s E.out_of_service = 1 then oosAccess s a row
      else
        let d := shDomain s a.index a.sub
        let s := workReaches s (0x100 + d)
        if domainOn s d then serve s a sem else stall (wakeDomain s d) a d

/-- A write of value v to the entry with key k, by a path. -/
def writeOf (via : Path) (k v : Nat) : Access :=
  ⟨via, 0, true, k / 256, k % 256, dictSize k, leBytes (dictSize k) v, 0⟩

/-- A write of the bytes that a command brings. -/
def writeBytes (via : Path) (k : Nat) (d : List Byte) : Access :=
  ⟨via, 0, true, k / 256, k % 256, d.length, d, 0⟩

/-- A write that names an instance or an element that an entry does not have ends as one to a sub-index that no table lists (R857). -/
def noInstance (s : State) (via : Path) (k : Nat) : State :=
  access s ⟨via, 0, true, k / 256, 255, 0, [], 0⟩ (command (fun _ _ => true) fun s _ _ => s)

/-- A write t to an instance of the entry with key k, which that entry has or not (`ok`). -/
def instanced (ok : Bool) (s : State) (via : Path) (k : Nat) (t : State) : Res := done s (if ok then t else noInstance s via k)

/-- The result of the latest access (R660). -/
def result (s : State) : Nat := s.host.answer.result

end Sys2Proof.Machine
end

