-- ==== Sys2Proof/Machine/Levels.lean ====
section
/-! DEFINITION. Performance levels, the effective cap, pace breaks and the reference in use (R66 to R69, R82, R104,
R113 to R115, R694, R695): operations that the supply, timing and power families share. -/

namespace Sys2Proof.Machine

open Sys2Proof

/-- A voltage lies in its operating range (R44). -/
def mainInRange (mv : Nat) : Bool := decide (40000 ≤ mv ∧ mv ≤ 56000)
def auxInRange (mv : Nat) : Bool := decide (11400 ≤ mv ∧ mv ≤ 12600)

/-- A voltage is above its recovery threshold (R44, R74). -/
def mainRecovered (mv : Nat) : Bool := decide (42000 < mv)
def auxRecovered (mv : Nat) : Bool := decide (11200 < mv)

/-- A level's nominal core voltage in mV, its multiple of the 25 MHz reference, and the pace limit that this gives, in M
beats/s (R98). -/
def levelMv (l : Nat) : Nat := 850 - 50 * l
def levelMultiple (l : Nat) : Nat := [76, 70, 64, 56, 48, 40, 32, 22].getD l 22
def levelLimit (l : Nat) : Nat := 25 * levelMultiple l

/-- The effective cap in watts (R82, R695). -/
def effectiveCap (s : State) : Nat :=
  if s.supply.coolLow then 400
  else
    let excess := (ofI32 (rd s E.coolant_inlet_dc) - 450).toNat
    max 400 (min (rd s E.power_cap_w) (1600 - 5 * excess))

/-- `power_cap_effective_w` reports the effective cap (R695). -/
def refreshCap (s : State) : State := wr s E.power_cap_effective_w (effectiveCap s)

/-- Sector x is paced (R132). -/
def paced (s : State) (x : Nat) : Bool := bit (rd s (E.sector_pacing + x)) 0

/-- A paced sector counts a pace break (R103, R104), and so does the partition in mode 2 that owns it (R836, cause 4). -/
def paceBreak (s : State) (x : Nat) : State :=
  if !paced s x then s
  else
    let s := inc s (E.pace_break_count + x)
    match ownerOf s x with
    | some p => if rd s (E.det_mode + p) = 2 then noteNd s 4 (some p) else s
    | none => s

/-- Every paced sector counts a pace break (R104). -/
def paceBreakAll (s : State) : State := (List.range 32).foldl paceBreak s

/-- The reference in use becomes `TIMEREF_IN` or the crystal; a switch breaks the pace of paced sectors (R89, R104). -/
def useExternal (s : State) (ext : Bool) : State :=
  let v := rd s E.timeref_status
  if bit v 1 == ext then s else paceBreakAll (wr s E.timeref_status (setBit v 1 ext))

/-- The level that the request, the cap and the throttle grant sector x (R694). -/
def grantedLevel (s : State) (x : Nat) : Nat :=
  max (rd s (E.sector_level_req + x)) (max (sector s x).cap (sector s x).throttle)

/-- A change of the level of sector x to g starts (R113, R114): of a level that falls, the pacer takes the new pace limit
first. -/
def startRamp (s : State) (x g : Nat) : State :=
  let v := sector s x
  setSector s x { v with ramp := some g, pace := max v.pace g }

/-- The granted level of sector x is brought up to date and reported. A change starts unless one is in progress; a
sleeping sector takes the level at its wake (R694, R709). -/
def regrant (s : State) (x : Nat) : State :=
  let g := grantedLevel s x
  if g = rd s (E.sector_level + x) then s
  else
    let s := wr s (E.sector_level + x) g
    if domainOn s x ∧ (sector s x).ramp.isNone then startRamp s x g else s

/-- Sector x is switched on: its regulator and its pacer have the granted level; one that changed while the sector slept takes
effect now (R104, R709). -/
def levelAtWake (s : State) (x : Nat) : State :=
  let g := rd s (E.sector_level + x)
  let v := sector s x
  let s := setSector s x { v with ramp := none, pace := g, volt := g, slept := false }
  if v.pace = g then s else paceBreak s x

end Sys2Proof.Machine
end

