-- ==== Sys2Proof/Machine/BootLog.lean ====
section
/-! DEFINITION. The flash boot log (R83, R817), and going out of service (R808). -/

namespace Sys2Proof.Machine

open Sys2Proof

/-- The n bytes of an entry, as the record holds them. -/
def entryBytes (s : State) (k : Nat) : List Byte := leBytes (dictSize k) (rd s k)

/-- A boot-log record (R817): the sequence number, `time_count`, the event, and what the event names.
The digest of a crash record is free, as the record's layout is. -/
def bootRecord (s : State) (event kind status block : Nat) (detail : List Byte) : List Byte :=
  let b := leBytes 4 s.recovery.logSeq ++ leBytes 8 (now s) ++ leBytes 1 event ++ leBytes 1 kind ++
    leBytes 1 (rd s E.fw_running_slot) ++ [0] ++ leBytes 2 (rd s E.running_svn) ++ leBytes 2 status ++
    leBytes 2 block ++ leBytes 8 (if block = 0 then 0 else blockName block) ++ [0, 0] ++
    (if event = 7 then leBytes 32 (openValue 67 s.recovery.logSeq 0) else entryBytes s E.running_digest) ++ detail.take 188 ++ List.replicate (188 - detail.length) 0
  b ++ leBytes 4 (crc32c b)

/-- A record is appended to the circular log of 16,384 records (R83, R817). -/
def bootLog (s : State) (event kind status block : Nat) (detail : List Byte) : State :=
  let r := s.recovery
  { wrBytes s (Mem.flash (0x3810000 + r.logSeq % 16384 * 256)) (bootRecord s event kind status block detail) with
    recovery := { r with logSeq := r.logSeq + 1 } }

/-- The device goes out of service (R204, R808). -/
def goOutOfService (s : State) (cause : Nat) : State :=
  bootLog (setAlert (wr (wr s E.out_of_service 1) E.oos_cause cause) 64) 8 0 0x0902 0 []

end Sys2Proof.Machine
end

