-- ==== Sys2Proof/Machine/Hbm.lean ====
section
/-! DEFINITION. Commands of 05_hbm_subsystem: access, map-out and map-in, test and repair, thermal throttling. The
adders stand with the ordered buffer. -/

namespace Sys2Proof.Machine

open Sys2Proof

/-! ## The address map (R188 to R193) -/

/-- The row limit with m slots out (R192). -/
def rowLimit (m : Nat) : Nat := 524288 - 1024 * m

/-- The first address beyond the address space with m slots out (R192, R193). -/
def hbmTop (m : Nat) : Nat := 0x10000000 + (rowLimit m - 1024) * 512 * 1024

/-- The place of granule g of the general area, with the slots `out` out: its slot and its row (R192). -/
def placeIn (out : List Nat) (g : Nat) : Nat × Nat :=
  let m := out.length
  let slot := g % 512
  let row := 1024 + g / 512
  if out.contains slot then
    let live := (List.range 512).filter fun l => !out.contains l
    let k := out.idxOf slot * (rowLimit m - 1024) + (row - 1024)
    (live.getD (k % (512 - m)) 0, rowLimit m + k / (512 - m))
  else (slot, row)

/-- The slot that a granule of the general area lies in. -/
def slotIn (out : List Nat) (g : Nat) : Nat := (placeIn out g).1

/-- The places of address a: copy A and copy B in the reserved area, and one elsewhere (R192). -/
def placesOf (out : List Nat) (a : Nat) : List (Nat × Nat) :=
  if a < 0x10000000 then
    let g := a / 1024
    [(g % 512, g / 512), ((g + 8) % 512, 512 + g / 512)]
  else [placeIn out ((a - 0x10000000) / 1024)]

/-- The places of a that stand: a copy in a slot that is out does not (R194). -/
def livePlaces (out : List Nat) (a : Nat) : List (Nat × Nat) :=
  if a < 0x10000000 then (placesOf out a).filter fun e => !out.contains e.1 else placesOf out a

/-- The slot that address a is read from (R192, R194). -/
def slotAt (out : List Nat) (a : Nat) : Nat := ((livePlaces out a).headD (0, 0)).1

/-- The byte offset in the pseudo-channel of address a at a row (R192). -/
def pcOffset (row a : Nat) : Nat := row * 1024 + a % 1024

/-- Address a is stored once: in the general area, in the key store, and where a copy's slot is out (R186, R194). -/
def storedOnce (s : State) (a : Nat) : Bool := (livePlaces s.hbm.out a).length < 2

/-- The stack that serves address a (R191). -/
def stackAt (s : State) (a : Nat) : Nat := slotAt s.hbm.out a % 16

/-- Slot and physical pseudo-channel ID (R185, R191). -/
def pcOfSlot (l : Nat) : Nat := l % 16 * 32 + l / 16
def slotOfPc (pc : Nat) : Nat := pc % 32 * 16 + pc / 32

/-- The end of the key store (R188). -/
def keyStoreEnd (gib : Nat) : Nat := 0x10000000 + gib * 2 ^ 30

/-- The end of partition p's share. -/
def partEnd (s : State) (p : Nat) : Nat := rd s (E.part_hbm_base + 256 * p) + rd s (E.part_hbm_bytes + 256 * p)

/-- The end of the highest allocated space: the key store or a partition share (R190, R196). -/
def allocEnd (s : State) : Nat :=
  (List.range 32).foldl (fun t p => if assigned s p && rd s (E.part_hbm_bytes + 256 * p) != 0 then max t (partEnd s p) else t)
    (keyStoreEnd (rd s E.key_store_gib))

/-- The start of a headroom of h pseudo-channels (R188). It is counted from the top of the address space with no slot out, so that
slots that are forced out use the headroom up before they reach allocated space. DESIGN CHOICE (log 191). -/
def headroomStart (h : Nat) : Nat := hbmTop 0 - h * 2 ^ 29

/-! ## Access (R189, R201, R202) -/

/-- The requester may read, or write, address a (R189). Staging and the map of lost granules stand in no byte of the reserved area.
DESIGN CHOICE (log 209). -/
def hbmAllowed (s : State) (who : Requester) (w : Bool) (a : Nat) : Bool :=
  if a < 0x10000000 then who == .manager || who == .firmware || who == .windowCache || who == .stitchLogic
  else if a < keyStoreEnd (rd s E.key_store_gib) then who == .manager || (!w && who == .keyStream)
  else true

/-- An access of n bytes at a lies in the address space. -/
def hbmInside (s : State) (a n : Nat) : Bool := decide (a + n ≤ hbmTop s.hbm.out.length)

/-- Granule g of the general area is marked lost (R201, R202). -/
def lostGranule (s : State) (g : Nat) : Bool :=
  s.hbm.lost.any fun l => slotIn l.out g == l.slot && !l.cleared.any fun r => decide (r.1 ≤ g ∧ g < r.2)

/-- Some granule of n bytes at a is marked lost. -/
def lostAt (s : State) (a n : Nat) : Bool :=
  decide (0x10000000 ≤ a) &&
    (List.range ((a + n - 1) / 1024 + 1 - a / 1024)).any fun i => lostGranule s ((a - 0x10000000) / 1024 + i)

/-- Marks of granules lo to hi − 1 are removed. -/
def clearLost (s : State) (lo hi : Nat) : State :=
  if lo < hi then
    { s with hbm := { s.hbm with lost := s.hbm.lost.map fun l => { l with cleared := (lo, hi) :: l.cleared } } }
  else s

/-! ## Map-out and map-in (R195 to R206, R209, R226, R227) -/

/-- The list of slots out, and what the dictionary says of it (R193, R226). -/
def setOut (s : State) (out : List Nat) : State :=
  let s := { s with hbm := { s.hbm with out := out } }
  let s := wr s E.hbm_slots_out out.length
  let s := wr s E.hbm_capacity_bytes (0x10000000 + (523264 - 1024 * out.length) * 524288)
  (List.range 32).foldl
    (fun t i => wr t (E.hbm_mapped_out + i) (match out[i]? with | none => 0xFFFF | some l => pcOfSlot l)) s

/-- A slot joins the slots out, in ascending order. -/
def insertSlot (l : Nat) : List Nat → List Nat
  | [] => [l]
  | h :: t => if l < h then l :: h :: t else h :: insertSlot l t

/-- A maintenance operation runs (R209). -/
def hbmBusy (s : State) : Bool := s.hbm.op.isSome

/-- The reserved partner of a slot is out (R192, R196). -/
def partnerOut (s : State) (l : Nat) : Bool :=
  s.hbm.out.contains ((l + 8) % 512) || s.hbm.out.contains ((l + 504) % 512)

/-- A planned map-out starts, or is refused (R196, R227). -/
def mapOut (s : State) (pc : Nat) : State :=
  let l := slotOfPc pc
  if s.hbm.out.contains l then wr s E.hbm_mapout_status 3
  else if s.hbm.out.length = 32 then wr s E.hbm_mapout_status 4
  else if partnerOut s l then wr s E.hbm_mapout_status 5
  else if hbmTop (s.hbm.out.length + 1) < allocEnd s then wr s E.hbm_mapout_status 6
  else wr { s with hbm := { s.hbm with op := some (.mapOut pc) } } E.hbm_mapout_status 1

/-- `hbm_mapout_cmd`: a physical ID has 9 bits; a running operation ends the access with result 5 (R185, R209). -/
def mapOutSem : EntrySem :=
  { command (fun _ v => decide (v < 512)) (fun s _ v => mapOut s v) with idle := fun s => !hbmBusy s }

def execHbmMapout (via : Path) (d : List Byte) (s : State) : Res :=
  done s (access s (writeBytes via E.hbm_mapout_cmd d) mapOutSem)

/-- A map-in starts, or is refused (R206, R227). -/
def mapIn (s : State) (pc : Nat) : State :=
  if !s.hbm.out.contains (slotOfPc pc) then wr s E.hbm_mapout_status 3
  else if (Tab.get none s.hbm.tested pc).map Prod.fst ≠ some true then wr s E.hbm_mapout_status 7
  else wr { s with hbm := { s.hbm with op := some (.mapIn pc) } } E.hbm_mapout_status 1

def mapInSem : EntrySem :=
  { command (fun _ v => decide (v < 512)) (fun s _ v => mapIn s v) with idle := fun s => !hbmBusy s }

def execHbmMapin (via : Path) (d : List Byte) (s : State) : Res :=
  done s (access s (writeBytes via E.hbm_mapin_cmd d) mapInSem)

/-- A forced map-out (R200 to R205). Data of the lost granules is marked; the top of the address space that no
longer exists loses its contents. -/
def forcedMapOut (s : State) (pc : Nat) : State :=
  let l := slotOfPc pc
  let out := s.hbm.out
  if out.contains l then s
  else if out.length = 32 then wr s E.hbm_alert_flags (rd s E.hbm_alert_flags ||| 1)
  else
    let bad := partnerOut s l
    let s := { s with hbm := { s.hbm with lost := ⟨l, out, []⟩ :: s.hbm.lost } }
    let s := setOut s (insertSlot l out)
    let s := inc s E.hbm_forced_mapout_count
    let m := out.length + 1
    let s := zeroFill s (Mem.hbm (hbmTop m)) (Mem.hbm (hbmTop out.length))
    let s := wr s E.hbm_alert_flags
      (rd s E.hbm_alert_flags ||| (if hbmTop m < allocEnd s then 6 else 2))
    if bad then goOutOfService s 2 else s

/-- A forced map-out that falls due during another operation waits until that ends (R209). -/
def forceMapOut (s : State) (pc : Nat) : State :=
  if hbmBusy s then { s with hbm := { s.hbm with waiting := s.hbm.waiting ++ [pc] } } else forcedMapOut s pc

def execHbmForcedMapout (pc : Nat) (s : State) : Res :=
  guarded (decide (pc < 512)) s (forceMapOut s pc)

/-! ## Reads and writes (R186, R189, R194, R200, R202, R864) -/

/-- An uncorrectable event of address a is counted, for its stack and for its pseudo-channel, which is forced out when its share
of 24 h reaches `hbm_ue_threshold` (R186, R200, R864). -/
def countUe (s : State) (a : Nat) : State :=
  let pc := pcOfSlot (slotAt s.hbm.out a)
  let l := now s :: (Tab.get [] s.hbm.ues pc).filter fun t => decide (now s < t + 2160000000000)
  let full := decide (rd s E.hbm_ue_threshold ≤ l.length)
  let s := inc s (E.hbm_ue_count + stackAt s a)
  let s := { s with hbm := { s.hbm with ues := Tab.set [] s.hbm.ues pc (if full then [] else l) } }
  if full then forceMapOut s pc else s

/-- What one read of the general area, the key store or the reserved area returns: the status, and whether the data is poisoned;
the lower status wins (R18, R186, R194, R202). An uncorrectable copy of the reserved area is taken from the other. -/
def hbmStatus (s : State) (a n : Nat) (ecc : Ecc) : Nat × Bool :=
  if (ecc = .uncorrectable ∧ storedOnce s a) ∨ poisoned s (Mem.hbm a) n then (0x0303, true)
  else if lostAt s a n then (0x0304, true)
  else (0, false)

/-- What the errors of a read count. A transfer that a partial write stored poisoned was counted then, and is not again.
DESIGN CHOICE (log 194). -/
def noteEcc (s : State) (a : Nat) (ecc : Ecc) : State :=
  match ecc with
  | .clean => s
  | .corrected => inc s (E.hbm_corrected_count + stackAt s a)
  | .uncorrectable => if storedOnce s a then countUe s a else s

/-- The byte at HBM address a: a crash-record copy stands in the slots of its region (R188, R804). -/
def hbmByte (s : State) (a : Nat) : Byte :=
  let o := a - 0x8000000
  let q := Tab.get 0 s.recovery.crashCopies (o / 2097152)
  if 0x8000000 ≤ a ∧ a < 0xA000000 ∧ q ≠ 0 then
    BitVec.ofNat 8 (crashRecord q (o % 2097152 / 256 * 256) / 256 ^ (o % 256))
  else rdByte s (Mem.hbm a)

/-- n bytes of HBM from address a. -/
def hbmBytes (s : State) (a n : Nat) : List Byte :=
  if a < 0xA000000 ∧ 0x8000000 < a + n then (List.range n).map fun i => hbmByte s (a + i) else rdBytes s (Mem.hbm a) n

/-- A read of n bytes at HBM address a. An entry dropped at a full receive FIFO is counted, and the read retry
repeats the transfer (R119). -/
def hbmRead (s : State) (who : Requester) (a n : Nat) (ecc : Ecc) (fifoFull : Bool) : State :=
  if !hbmInside s a n || !hbmAllowed s who false a then answerStatus s 0x0302 false []
  else
    let r := hbmStatus s a n ecc
    let d := hbmBytes s a n
    answerStatus (noteEcc (if fifoFull then inc s E.boundary_overflow_count else s) a ecc) r.1 r.2 d

def execHbmRead (who : Requester) (a n : Nat) (ecc : Ecc) (fifoFull : Bool) (s : State) : Res :=
  done s (hbmRead s who a n ecc fifoFull)

/-- Bytes written at HBM address a; a write that covers a whole granule removes its mark (R202). -/
def hbmStore (s : State) (a : Nat) (d : List Byte) : State :=
  let s := wrBytes s (Mem.hbm a) d
  if 0x10000000 ≤ a then clearLost s ((a - 0x10000000 + 1023) / 1024) ((a - 0x10000000 + d.length) / 1024) else s

/-- A write that covers only part of a 32 B transfer (R864): when the transfer is uncorrectable it is taken from the
other copy in the reserved area, and stored marked poisoned where there is none; the event counts. -/
def hbmPartialWrite (s : State) (who : Requester) (a : Nat) (d : List Byte) (ecc : Ecc) : State :=
  if !hbmInside s a d.length || !hbmAllowed s who true a then answerStatus s 0x0302 false []
  else
    let s := hbmStore s a d
    let s := match ecc with
      | .clean => s
      | .corrected => inc s (E.hbm_corrected_count + stackAt s a)
      | .uncorrectable => countUe (if storedOnce s a then mark s (Mem.hbm a) else s) a
    answerStatus s 0 false []

def execHbmPartialWrite (who : Requester) (a : Nat) (d : List Byte) (ecc : Ecc) (s : State) : Res :=
  done s (hbmPartialWrite s who a d ecc)

/-! ## The ends of map-outs (R197, R199, R206, R209) -/

/-- The operation ends, and the forced map-outs that waited run (R209). -/
def endHbmOp (s : State) : State :=
  let w := s.hbm.waiting
  w.foldl forcedMapOut { s with hbm := { s.hbm with op := none, waiting := [] } }

/-- The end of a migration (R197, R199, R206). -/
def migrationDone (s : State) : State :=
  match s.hbm.op with
  | some (.mapOut pc) => endHbmOp (wr (setOut s (insertSlot (slotOfPc pc) s.hbm.out)) E.hbm_mapout_status 2)
  | some (.mapIn pc) =>
    let m := s.hbm.out.length
    let s := setOut s (s.hbm.out.erase (slotOfPc pc))
    let s := zeroFill s (Mem.hbm (hbmTop m)) (Mem.hbm (hbmTop (m - 1)))
    let s := clearLost s ((hbmTop m - 0x10000000) / 1024) ((hbmTop (m - 1) - 0x10000000) / 1024)
    endHbmOp (wr s E.hbm_mapout_status 2)
  | _ => s

/-! ## Test and repair (R207 to R212) -/

/-- Both pseudo-channels of a physical ID's channel are out (R208). -/
def channelOut (s : State) (pc : Nat) : Bool :=
  s.hbm.out.contains (slotOfPc (pc / 2 * 2)) && s.hbm.out.contains (slotOfPc (pc / 2 * 2 + 1))

/-- The request may run (R207, R208). -/
def repairOk (s : State) (op pc : Nat) : Bool :=
  if op = 2 then channelOut s pc
  else (op == 1 || op == 3 || op == 4) && s.hbm.out.contains (slotOfPc pc)

/-- A test or repair starts, or is refused (R207, R208, R212); while it runs its `result` reads 0. DESIGN CHOICE (log 192). -/
def repairStart (s : State) (v : Nat) : State :=
  let op := bits v 31 28
  let pc := bits v 8 0
  let st := rd s E.hbm_repair_status
  if repairOk s op pc then
    wr { s with hbm := { s.hbm with op := some (.repair op pc) } } E.hbm_repair_status
      (setBit (setBits st 3 2 0) 0 true)
  else wr s E.hbm_repair_status (setBits st 3 2 3)

def repairSem : EntrySem :=
  { command (fun _ _ => true) (fun s _ v => repairStart s v) with idle := fun s => !hbmBusy s }

/-- A write of one op of `hbm_repair_cmd`. -/
def repairCmd (op : Nat) (via : Path) (pc : Nat) (s : State) : State :=
  access s (writeOf via E.hbm_repair_cmd (op * 2 ^ 28 + pc)) repairSem

def execHbmPatternTest (via : Path) (pc : Nat) (s : State) : Res := guarded (decide (pc < 512)) s (repairCmd 1 via pc s)
def execHbmLaneRepair (via : Path) (pc : Nat) (s : State) : Res := guarded (decide (pc < 512)) s (repairCmd 2 via pc s)
def execHbmHardPpr (via : Path) (pc : Nat) (s : State) : Res := guarded (decide (pc < 512)) s (repairCmd 3 via pc s)
def execHbmSoftPpr (via : Path) (pc : Nat) (s : State) : Res := guarded (decide (pc < 512)) s (repairCmd 4 via pc s)

/-- The end of a test or repair: its result, the rows a test recorded (at most 64) and the spares left; a hard or
lane repair is recorded in eMRAM, a soft one until HBM loses power (R210, R211, R212). -/
def repairDone (s : State) (passed : Bool) (rows : List Nat) (spares : Nat) : State :=
  match s.hbm.op with
  | some (.repair op pc) =>
    let rows := rows.take 64
    let failed := ((Tab.get none s.hbm.tested pc).map Prod.snd).getD []
    let st := rd s E.hbm_repair_status
    let st := if op = 1 then setBits st 23 16 rows.length else st
    let st := setBits (setBits (setBit st 0 false) 3 2 (if passed then 1 else 2)) 31 24 spares
    let h := s.hbm
    let h := match op with
      | 1 => { h with tested := Tab.set none h.tested pc (some (passed, rows)) }
      | 2 => { h with hard := h.hard ++ [(2, pc, 0)] }
      | 3 => { h with hard := h.hard ++ failed.map fun r => (3, pc, r) }
      | _ => { h with soft := h.soft ++ failed.map fun r => (pc, r) }
    let h := if op = 1 ∨ passed then h else s.hbm
    endHbmOp (wr { s with hbm := h } E.hbm_repair_status st)
  | _ => s

def execHbmRepairDone (passed : Bool) (rows : List Nat) (spares : Nat) (s : State) : Res :=
  done s (repairDone s passed rows spares)

/-! ## Thermal throttling (R213 to R215) -/

/-- The entry temperature of step k, 1 to 5, in tenths of a degree. -/
def stepEntry (s : State) (k : Nat) : Int := (10 * rd s E.hbm_throttle_c + 20 * (k - 1) : Nat)

/-- The highest step that temperature t enters, and the step left when t has fallen 2 °C below an entry. -/
def throttleUp (s : State) (t : Int) : Nat → Nat
  | 0 => 0
  | k + 1 => if stepEntry s (k + 1) ≤ t then k + 1 else throttleUp s t k
def throttleDown (s : State) (t : Int) : Nat → Nat
  | 0 => 0
  | k + 1 => if t ≤ stepEntry s (k + 1) - 20 then throttleDown s t k else k + 1

/-- A controller reads its stack's temperature. -/
def thermalTick (s : State) (c : Nat) (t : Int) : State :=
  let cur := rd s (E.hbm_throttle_step + c)
  let s := wr s (E.hbm_throttle_step + c) (max (throttleUp s t 5) (throttleDown s t (min cur 5)))
  if stackThrottled s then setAlert s 2 else s

def execHbmThermalTick (c : Nat) (t : Int) (s : State) : Res :=
  guarded (decide (c < 16)) s (thermalTick s c t)

/-! ## Entries with rules (R190, R228 to R231) -/

/-- `hbm_headroom_pcs` (R190, R228). -/
def headroomSem : EntrySem :=
  limited E.hbm_headroom_pcs fun s v => decide (v ≤ 32 ∧ allocEnd s ≤ headroomStart v)

/-- A key store of so many GiB overlaps no assigned share and reaches no headroom (R190, R229). -/
def keyStoreRule (s : State) (v : Nat) : Bool :=
  decide (1 ≤ v ∧ v ≤ 64 ∧ keyStoreEnd v ≤ headroomStart (rd s E.hbm_headroom_pcs)) &&
    (List.range 32).all fun p => !assigned s p || decide (keyStoreEnd v ≤ rd s (E.part_hbm_base + 256 * p)) ||
      rd s (E.part_hbm_bytes + 256 * p) == 0

def throttleCSem : EntrySem := limited E.hbm_throttle_c fun _ v => decide (85 ≤ v ∧ v ≤ 100)
def ueThresholdSem : EntrySem := limited E.hbm_ue_threshold fun _ v => decide (v ≠ 0)

end Sys2Proof.Machine
end

