-- ==== Sys2Proof/Machine/MemCode.lean ====
section
/-! DEFINITION. The codes of the on-chip memories (R133, R146 to R153, R863): what a read, a scrub or a narrow write does when it
meets bit errors. -/

namespace Sys2Proof.Machine

open Sys2Proof

/-- The core that a key of core memory, a tile register or an accumulator bank lies in. -/
def coreAt (k : Nat) : Nat :=
  if 2 ^ 42 ≤ k then (k - 2 ^ 42) / 2 ^ 16 else if 2 ^ 41 ≤ k then (k - 2 ^ 41) / 2 ^ 20
  else 25 * bits k 36 32 + bits k 31 27

/-- The parity group of a core-memory key: the 64 lines of its region in its bank, by the key of each line (R140, R146). -/
def parityGroup (k : Nat) : List Nat :=
  let o := bits k 22 0
  (List.range 64).map fun i => k - o + (o / 65536 * 65536 + 1024 * i + o / 64 % 16 * 64)

/-- The parity line that a bank keeps for a region: at every beat the XOR of the region's 64 lines in that bank (R146), so it is
stored nowhere else; `k` is a key of the region and bank. -/
def parityLine (s : State) (k : Nat) : List Byte :=
  (parityGroup k).foldl (fun a l => List.zipWith (· ^^^ ·) a (rdBytes s l 64)) (List.replicate 64 0)

/-- The line at key k rebuilt from its parity group: the parity line with the other 63 lines taken out (R149). -/
def rebuiltLine (s : State) (k : Nat) : List Byte :=
  ((parityGroup k).filter (· != k - k % 64)).foldl (fun a l => List.zipWith (· ^^^ ·) a (rdBytes s l 64)) (parityLine s k)

/-- A line that holds a word with three bit errors or more: no code corrects it in line (R147, W). -/
def lineLost (s : State) (l : Nat) : Bool := s.flips.any fun e => decide (l ≤ e.1 ∧ e.1 < l + 64 ∧ 2 < e.2)

/-- Every other line of the parity group of key k is correctable, and none is lost already (R147). -/
def rebuildable (s : State) (k : Nat) : Bool :=
  ((parityGroup k).filter (· != k - k % 64)).all fun l => !lineLost s l && !poisoned s l 64

/-- An uncorrectable word: its data is poisoned, and its memory reports it (R150, R151, R180). A tile register and an accumulator
have no address of R134, so the reported one is free (log 188). -/
def loseWord (s : State) (k : Nat) : State :=
  if 2 ^ 41 ≤ k then
    let c := coreAt k
    onchipUe { mark s k with freeCtr := s.freeCtr + 1 } (c / 25) (openValue 188 s.freeCtr 0 % 2 ^ 40) (coreBlock s c)
  else if bits k 31 27 = 31 then onchipUe (mark s k) (bits k 36 32) (k - k % 64) (0x300 + bits k 36 32)
  else onchipUe (mark s k) (bits k 36 32) (k - k % 64) (coreBlock s (coreAt k))

/-- A read meets n bit errors in the word at key k (R147 to R151). `State.mem` holds every word as it was written, so a corrected
word is what it reads, and so is a rebuilt line. -/
def meetWord (s : State) (k n : Nat) : State :=
  let t := { s with flips := Tab.set 0 s.flips k 0 }
  let x := bits k 36 32
  if 2 ^ 41 ≤ k then if n ≤ 1 then t else loseWord t k
  else if bits k 31 27 = 31 then if n ≤ 2 then inc t (E.commons_corrected_count + x) else loseWord t k
  else if inA s k then if n ≤ 1 then inc t (E.cm_corrected_count + x) else loseWord t k
  else if n ≤ 2 then inc t (E.cm_corrected_count + x)
  else if rebuildable s k then paceBreak (inc t (E.cm_reconstructed_count + x)) x
  else loseWord t k

/-- A read of n bytes at key k meets the errors of every word that it touches. The reads of a sequencer and of a kernel meet none.
DEDUCED (log 212). -/
def meet (s : State) (k n : Nat) : State :=
  (s.flips.filter fun e => decide (e.1 < k + n ∧ k < e.1 + wordBytes s e.1)).foldl (fun t e => meetWord t e.1 e.2) s

/-- A write of n bytes at key k reads the words that it covers in part (R152, R863). -/
def meetEdges (s : State) (k n : Nat) : State :=
  (s.flips.filter fun e => decide (e.1 < k + n ∧ k < e.1 + wordBytes s e.1 ∧ (e.1 < k ∨ k + n < e.1 + wordBytes s e.1))).foldl
    (fun t e => meetWord t e.1 e.2) s

/-- The word at key k has n more bit errors. -/
def addFlips (s : State) (k n : Nat) : State :=
  let w := k - k % wordBytes s k
  { s with flips := Tab.set 0 s.flips w (Tab.get 0 s.flips w + n) }

/-- The errors that a read at key k brings stand in the word of its first byte. -/
def wordErrors (s : State) (k : Nat) (ecc : Ecc) : State :=
  match ecc with
  | .clean => s
  | .corrected => addFlips s k 1
  | .uncorrectable => addFlips s k 3

end Sys2Proof.Machine
end

