-- ==== Sys2Proof/Machine/Shadow.lean ====
section
/-! DEFINITION. Shadow (R501 to R510, R513, R517, R524): how a write joins a stitch group, and every write to HBM,
core memory or commons by its physical address. -/

namespace Sys2Proof.Machine

open Sys2Proof

/-! ## Storages and granules -/

/-- The storage that an address lies in: 0 HBM, 1 + c the core memory of core c, 1000 + x the commons of sector x. -/
def storageOf (k : Nat) : Nat :=
  if k < 2 ^ 38 then 0 else if bits k 31 27 = 31 then 1000 + bits k 36 32 else 1 + 25 * bits k 36 32 + bits k 31 27

/-- A key lies in the core memory of core c. -/
def ownCm (c k : Nat) : Bool := bits k 39 37 == 4 && decide (k < 2 ^ 40) && storageOf k == 1 + c

/-- The granule size of an address (R501). -/
def granuleSize (k : Nat) : Nat := if k < 2 ^ 38 then 1024 else 2048

/-- The granules that a storage may hold in shadow (R501, R507, R510). -/
def shadowCap (s : State) (st : Nat) : Nat :=
  if st = 0 then 65536
  else if 1000 ≤ st then if bit (rd s (E.shadow_pool_cfg + (st - 1000))) 24 then 512 else 0
  else if bits (rd s (E.shadow_pool_cfg + (st - 1) / 25)) 23 0 = 0 then 0 else 128

/-- The granules that storage `st` holds in shadow. -/
def shadowUsedAt (s : State) (st : Nat) : Nat :=
  (s.groups.map fun g => (g.granules.filter fun r => storageOf r.base == st).length).sum

/-- An on-chip address lies in a shadow pool or the commons shadow, which only the shadow logic accesses (R509). -/
def inPool (s : State) (k : Nat) : Bool :=
  let c := rd s (E.shadow_pool_cfg + bits k 36 32)
  decide (2 ^ 38 ≤ k) &&
    if bits k 31 27 = 31 then bit c 24 && decide (0x700000 ≤ bits k 22 0) else bit c (bits k 22 0 / 65536)

/-! ## Groups -/

/-- The group with an opener and an ID. -/
def findGroup (s : State) (o : Option Nat) (i : Nat) : Option Group :=
  s.groups.find? fun g => g.opener == o && g.id == i

/-- That group takes the record f gives it. -/
def setGroup (s : State) (o : Option Nat) (i : Nat) (f : Group → Group) : State :=
  { s with groups := s.groups.map fun g => if g.opener = o ∧ g.id = i then f g else g }

/-- The entries that count records and staging (R535). -/
def noteGroups (s : State) : State :=
  wr (wr s E.sg_records_used s.groups.length) E.sg_staging_used_bytes (1024 * shadowUsedAt s 0)

/-- Credits return to the landing range that holds an address (R166, R523). -/
def returnCredits (s : State) (k n : Nat) : State :=
  if k < 2 ^ 38 ∨ n = 0 then s
  else
    let x := bits k 36 32
    let t := bits k 31 27
    let i := if t = 31 then bits k 22 0 / 262144 else bits k 22 0 / 65536
    setSector s x { sector s x with landing := (sector s x).landing.map fun r =>
      if r.target = t ∧ r.idx = i then { r with shadowed := r.shadowed - n } else r }

/-- The shadow of a group is discarded, and its credits return (R525). -/
def discard (s : State) (o : Option Nat) (i : Nat) : State :=
  match findGroup s o i with
  | none => s
  | some g => noteGroups
      (setGroup (g.granules.foldl (fun t r => returnCredits t r.base r.credits) s) o i fun g => { g with granules := [] })

/-- A core leaves its group. -/
def unbind (s : State) (c : Nat) : State :=
  if (core s c).bound.isNone then s else setCore s c { core s c with bound := none }

/-- Some core bound to a group of this device runs. -/
def boundRuns (s : State) (g : Group) : Bool :=
  g.opener.isNone && g.binds.any fun b => (core s b.core).bound == some g.id && (core s b.core).running

/-- A group is resolved (R514, R521, R525, R536): its record goes, its cores are free, and the status of its
resolution is kept until its ID is opened again. Under 0x0504 a running bound core stays bound until it halts, and the
record stands as aborting until then (R517, R525). -/
def resolveGroup (s : State) (o : Option Nat) (i code cause : Nat) : State :=
  match findGroup s o i with
  | none => s
  | some g =>
    let s := discard s o i
    let s := if o.isNone then { s with resolved := Tab.set none s.resolved i (some (code, cause, g.step)) } else s
    let s :=
      if code = 0x0504 ∧ boundRuns s g then setGroup s o i fun g => { g with state := 5, status := code }
      else
        let s := { s with groups := s.groups.filter fun g => !(g.opener == o && g.id == i) }
        if o.isSome then s
        else g.binds.foldl (fun t b => if (core t b.core).bound = some i then unbind t b.core else t) s
    noteGroups (if code = 0 then inc s E.sg_commit_count else inc s E.sg_abort_count)

/-- A core that has halted leaves a group that was aborted while it ran (R525). -/
def leaveAborted (s : State) (c : Nat) : State :=
  match (core s c).bound with
  | none => s
  | some i => match findGroup s none i with
    | none => unbind s c
    | some g =>
      if g.state = 5 ∧ g.status = 0x0504 then
        let s := unbind s c
        if boundRuns s g then s
        else noteGroups { s with groups := s.groups.filter fun h => !(h.opener.isNone && h.id == i) }
      else s

/-- A group aborts before its decision (R525): a local group at once; a fabric group keeps its record, without shadow,
until the boundary of its step decides it (R518, R526). -/
def failGroup (s : State) (o : Option Nat) (i code cause : Nat) : State :=
  match findGroup s o i with
  | none => s
  | some g =>
    if g.opener.isNone && !g.fabric then resolveGroup s o i code cause
    else setGroup (discard s o i) o i fun g => { g with state := 5, status := code, cause := cause }

/-- A list with bytes replaced from an offset. -/
def splice (l : List Byte) (off : Nat) (d : List Byte) : List Byte :=
  l.take off ++ d ++ l.drop (off + d.length)

/-- The marks of a granule after a write of n bytes at key k: words covered whole lose theirs, and every word that poisoned bytes
touch has one (R150, R863). -/
def marksAfter (s : State) (old : List Nat) (k n : Nat) (bad : Bool) : List Nat :=
  let w := wordBytes s k
  let kept := old.filter fun m => decide (m < k ∨ k + n < m + w)
  if bad then kept ++ ((List.range ((k % w + n + w - 1) / w)).map fun i => k - k % w + w * i).filter (!kept.contains ·) else kept

/-- Bytes of one granule join group g: in the granule it holds already, or in one filled from the target (R502,
R503), poison with them (R150); `none` when no granule can be taken. -/
def joinGranule (s : State) (g : Group) (k : Nat) (d : List Byte) (cred : Nat) (bad : Bool) : Option Group :=
  let base := k - k % granuleSize k
  if g.granules.any (·.base == base) then
    some { g with granules := g.granules.map fun r =>
      if r.base = base then { r with
        data := splice r.data (k - base) d, credits := r.credits + cred, marks := marksAfter s r.marks k d.length bad } else r }
  else if shadowUsedAt s (storageOf k) < shadowCap s (storageOf k) then
    some { g with granules := g.granules ++
      [⟨base, splice (rdBytes s base (granuleSize k)) (k - base) d, cred,
        marksAfter s ((s.poison.map Prod.fst).filter fun m => decide (base ≤ m ∧ m < base + granuleSize k)) k d.length bad⟩] }
  else none

/-- Bytes cut at the boundaries of n-byte blocks. -/
def cutAt (n : Nat) : Nat → Nat → List Byte → List (Nat × List Byte)
  | 0, _, _ => []
  | _, _, [] => []
  | f + 1, k, d => let m := n - k % n; (k, d.take m) :: cutAt n f (k + m) (d.drop m)

/-- A write joins the group (R501 to R503, R517, R524): its status. `cred` credits go with it; `bad` bytes are poisoned. -/
def groupStore (s : State) (o : Option Nat) (i : Nat) (k : Nat) (d : List Byte) (cred : Nat) (bad : Bool) : State × Nat :=
  match findGroup s o i with
  | none => (s, 0x0507)
  | some g =>
    if g.state ≠ 1 then (s, 0x0507)
    else if g.status ≠ 0 then (s, 0x0501)
    else
      let r := (cutAt (granuleSize k) (d.length + 1) k d).foldl
        (fun (p : State × Bool) e =>
          if !p.2 then p else match findGroup p.1 o i with
          | none => (p.1, false)
          | some g => match joinGranule p.1 g e.1 e.2 cred bad with
            | none => (p.1, false)
            | some g' => (setGroup p.1 o i fun _ => g', true)) (s, true)
      if r.2 then (noteGroups r.1, 0)
      else (setGroup (discard r.1 o i) o i fun g => { g with status := 0x0501 }, 0x0501)

/-- The group of this device that a write of core c joins (R513): the write's address, and its device virtual
address where it has one. -/
def groupOf (s : State) (c : Nat) (va : Option Nat) (k : Nat) : Option Nat :=
  match (core s c).bound with
  | none => none
  | some i => match findGroup s none i with
    | none => none
    | some g => match g.binds.find? (·.core == c) with
      | none => none
      | some b =>
        let own := ownCm c k && bit b.regions (bits k 22 0 / 65536)
        let rng := match va with
          | some v => decide (b.base ≤ v ∧ v < b.base + b.len)
          | none => false
        if own || rng then some i else none

/-! ## Writes by physical address -/

/-- Bytes written at a valid HBM or on-chip address. -/
def storeAt (s : State) (k : Nat) (d : List Byte) : State :=
  if k < 2 ^ 38 then hbmStore s k d else wrBytes (meetEdges s k d.length) k d

/-- The on-chip address names memory that exists (R136). -/
def onchipValid (k : Nat) : Bool :=
  (decide (bits k 31 27 < 25) && decide (bits k 22 0 < 0x180000)) || bits k 31 27 == 31

/-- The reserved bits of an on-chip address are not interpreted (R7, R134). -/
def onchipKey (k : Nat) : Nat := Mem.onchip (bits k 36 32) (bits k 31 27) (bits k 22 0)

/-- The landing range that holds an on-chip address. -/
def landingAt (s : State) (k : Nat) : Option Landing :=
  (sector s (bits k 36 32)).landing.find? fun r =>
    r.target == bits k 31 27 && r.idx == (if r.target = 31 then bits k 22 0 / 262144 else bits k 22 0 / 65536)

/-- Every byte of n at an on-chip address lies in memory that exists and in an open landing range (R136, R164, R168). -/
def lands (s : State) (k n : Nat) : Bool :=
  decide (bits k 22 0 + n ≤ if bits k 31 27 = 31 then 0x800000 else 0x180000) &&
    ((List.range (n / 65536 + 1)).all fun i => (landingAt s (k + 65536 * i)).isSome) && (landingAt s (k + n - 1)).isSome

/-- Some of those ranges issues no new credit, since it closes (R169). -/
def landsClosing (s : State) (k n : Nat) : Bool := (landingAt s k).any (·.closing) || (landingAt s (k + n - 1)).any (·.closing)

/-- A granule's lines become visible, with the marks of their words. -/
def showGranule (s : State) (r : Granule) : State := r.marks.foldl mark (storeAt s r.base r.data)

/-- A write of n bytes at an on-chip address reaches a landing range: the 256 B units it touches are written (R581). -/
def noteLanded (s : State) (k n : Nat) : State :=
  match landingAt s k with
  | none => s
  | some r =>
    let w := Tab.get Win.init s.windows r.window
    let u := bits k 22 0 % (if r.target = 31 then 262144 else 65536) / 256
    let m := ((List.range ((k % 256 + n + 255) / 256)).map fun i => 2 ^ (u + i)).foldl (· ||| ·) 0
    { s with windows := Tab.set Win.init s.windows r.window { w with
        blocks := w.blocks.map fun b => if b.1 = 64 * r.target + r.idx then (b.1, b.2 ||| m) else b } }

end Sys2Proof.Machine
end

