-- ==== Sys2Proof/Machine/Ctx.lean ====
section
/-! DEFINITION. Stream contexts, their walks, and translation (R457 to R466, R469, R470, R490). -/

namespace Sys2Proof.Machine

open Sys2Proof

/-! ## Partitions and translation -/

/-- The key of `State.xlat` for a page of a partition. -/
def xlatKey (p : Nat) (large : Bool) (va : Nat) : Nat :=
  p * 2 ^ 40 + if large then 2 ^ 39 + va / 2 ^ 21 else va / 2 ^ 16

/-- The valid entry that maps a virtual address in partition p (R466). -/
def xlatAt (s : State) (p va : Nat) : Option Nat :=
  let e := Tab.get 0 s.xlat (xlatKey p false va)
  if bit e 63 then some e
  else
    let e := Tab.get 0 s.xlat (xlatKey p true va)
    if bit e 63 then some e else none

/-- The physical address that an entry gives. -/
def framed (e va : Nat) : Nat :=
  if bit e 62 then bits e 39 21 * 2 ^ 21 + va % 2 ^ 21 else bits e 39 16 * 2 ^ 16 + va % 2 ^ 16

/-- The entry's frame lies in the core memory of core c. -/
def mapsCore (e c : Nat) : Bool :=
  bits e 39 37 == 4 && bits e 36 32 == c / 25 && bits e 31 27 == c % 25

/-- The pages of core c's own memory in its partition's table: what a program start pins (R469). -/
def pagesOf (s : State) (c : Nat) : List (Nat × Nat) :=
  match ownerOf s (c / 25) with
  | none => []
  | some p => (s.xlat.filter fun e => e.1 / 2 ^ 40 == p && mapsCore e.2 c).map fun e => (e.1 % 2 ^ 39, e.2)

/-- The entry that core c finds for an address: a pinned one, or one of its partition's table that does not map its
own memory, since such a page takes effect at the next program start (R469). -/
def entryFor (s : State) (c va : Nat) : Option Nat :=
  match (core s c).pinned.find? (·.1 == va / 2 ^ 16) with
  | some e => some e.2
  | none => match ownerOf s (c / 25) with
    | none => none
    | some p => match xlatAt s p va with
      | none => none
      | some e => if mapsCore e c then none else some e

/-- Which permission an access needs (R466). -/
inductive Need where
  | read
  | write
  | code
  deriving DecidableEq, Repr

def Need.bitOf : Need → Nat
  | .read => 61
  | .write => 60
  | .code => 59

/-- An on-chip address lies in a ring region (R670). -/
def inRing (k : Nat) : Bool := bits k 31 27 == 31 && decide (0x6C0000 ≤ bits k 22 0 ∧ bits k 22 0 < 0x700000)

/-- A ring region is reached by cores of its sector's partition, sequencers and the management processor (R671). -/
def ringAllowed (s : State) (who : Requester) (k : Nat) : Bool :=
  !inRing k || match who with
    | .core c => ownerOf s (c / 25) == ownerOf s (bits k 36 32)
    | .unit _ => true
    | .manager => true
    | _ => false

/-- A physical address is valid (R136, R187, R189, R509): on-chip memory outside every shadow pool, HBM that a core may
reach, or outbound. -/
def physOk (s : State) (who : Requester) (w : Bool) (pa : Nat) : Bool :=
  if pa < 2 ^ 38 then hbmInside s pa 1 && hbmAllowed s who w pa
  else if bits pa 39 37 = 4 then onchipValid pa && !inPool s pa && ringAllowed s who pa
  else bits pa 39 37 == 6

/-- The checks of R470 on one entry: the code and the physical address. -/
def checkEntry (s : State) (who : Requester) (n : Need) (va : Nat) : Option Nat → Nat × Nat
  | none => (0x0301, 0)
  | some e =>
    let pa := framed e va
    if !bit e n.bitOf then (0x0302, 0)
    else if !physOk s who (n == .write) pa then (0x0302, 0)
    else (0, if bits pa 39 37 = 4 then onchipKey pa else pa)

/-- Translation of a device virtual address for core c (R465, R470): the code, 0 when it succeeds, and the key. -/
def translate (s : State) (c : Nat) (n : Need) (va : Int) : Nat × Nat :=
  if va < 0 ∨ 2 ^ 48 ≤ va then (0x0302, 0)
  else checkEntry s (.core c) n va.toNat (entryFor s c va.toNat)

/-- Translation for the sequencer of sector x, or the management processor acting for partition p. -/
def translateFor (s : State) (p : Nat) (who : Requester) (n : Need) (va : Nat) : Nat × Nat :=
  if 2 ^ 48 ≤ va then (0x0302, 0) else checkEntry s who n va (xlatAt s p va)

/-! ## Context records (R457 to R463) -/

/-- A stream-context record as it stands (R460). -/
structure Ctx where
  anchor : Nat
  areg : Nat
  walk : Nat
  esize : Nat
  bankCols : Bool
  base : Nat
  n0 : Nat
  n1 : Nat
  n2 : Nat
  n3 : Nat
  n4 : Nat
  s0 : Int
  s1 : Int
  s2 : Int
  s3 : Int
  s4 : Int
  deriving DecidableEq, Repr

/-- Word w of the front bank of core c. -/
def frontWord (s : State) (c w : Nat) : Nat := rdNat s (Mem.prog c (core s c).front (8 * w)) 8

/-- Context k of core c (R457, R460). -/
def ctxOf (s : State) (c k : Nat) : Ctx :=
  let w := fun i => frontWord s c (16128 + 8 * k + i)
  { anchor := bits (w 0) 63 62, areg := bits (w 0) 61 58, walk := bits (w 0) 57 56, esize := 2 ^ bits (w 0) 55 54
    bankCols := bit (w 0) 53, base := bits (w 0) 47 0
    n0 := bits (w 1) 23 0, n1 := bits (w 1) 47 24, n2 := bits (w 2) 23 0, n3 := bits (w 2) 47 24, n4 := bits (w 3) 23 0
    s0 := ofI32 (bits (w 4) 31 0), s1 := ofI32 (bits (w 4) 63 32), s2 := ofI32 (bits (w 5) 31 0)
    s3 := ofI32 (bits (w 5) 63 32), s4 := ofI32 (bits (w 6) 31 0) }

/-- n, the elements of a context, and its length in bytes (R461). -/
def Ctx.count (x : Ctx) : Nat := x.n0 * x.n1 * x.n2 * x.n3 * x.n4
def Ctx.bytes (x : Ctx) : Nat := x.count * x.esize

/-- The step of dimension 0 (R461). -/
def Ctx.t (x : Ctx) : Int := if x.walk = 1 then x.s0 else x.esize

/-- The address of element e of the walk, over `base` + a (R461). -/
def Ctx.addr (x : Ctx) (a : Int) (e : Nat) : Int :=
  let i := if x.walk = 2 then (e / x.n1 % x.n0, e % x.n1) else (e % x.n0, e / x.n0 % x.n1)
  let r := e / (x.n0 * x.n1)
  a + i.1 * x.t + i.2 * x.s1 + (r % x.n2 : Nat) * x.s2 + (r / x.n2 % x.n3 : Nat) * x.s3 +
    (r / (x.n2 * x.n3) : Nat) * x.s4

/-- A stride is a multiple of m, where its dimension has a size above 1. -/
def strideOk (n : Nat) (st : Int) (m : Nat) : Bool := decide (n ≤ 1) || st % m == 0

/-- The requirements of R462, over `base` + a. -/
def Ctx.ok (x : Ctx) (a : Int) : Bool :=
  x.anchor != 3 && x.walk != 3 && x.count != 0 &&
  match x.walk with
  | 0 => a % 64 == 0 && strideOk x.n1 x.s1 64 && strideOk x.n2 x.s2 64 && strideOk x.n3 x.s3 64 && strideOk x.n4 x.s4 64
  | 1 => a % x.esize == 0 && strideOk x.n0 x.s0 x.esize && strideOk x.n1 x.s1 x.esize && strideOk x.n2 x.s2 x.esize &&
      strideOk x.n3 x.s3 x.esize && strideOk x.n4 x.s4 x.esize
  | _ => a % 8 == 0 && x.s1 % 8 == 0 && x.n0 * x.esize % 8 == 0 && x.n1 % (8 / x.esize) == 0

/-- A line walk is contiguous (R463). -/
def Ctx.contiguous (x : Ctx) : Bool :=
  (decide (x.n1 ≤ 1) || x.s1 == x.n0 * x.esize) && (decide (x.n2 ≤ 1) || x.s2 == x.n1 * x.n0 * x.esize) &&
  (decide (x.n3 ≤ 1) || x.s3 == x.n2 * x.n1 * x.n0 * x.esize) &&
  (decide (x.n4 ≤ 1) || x.s4 == x.n3 * x.n2 * x.n1 * x.n0 * x.esize)

/-- `base` + a: the anchor adds control-core register `areg` (R460). Under a hold, addresses count from the unit's
first byte (R490). -/
def Ctx.start (s : State) (c : Nat) (x : Ctx) : Int :=
  x.base + if x.anchor = 1 then (if x.areg = 0 then 0 else Tab.get 0 (core s c).xs x.areg : Nat) else (0 : Nat)

/-- The key of the unit that a context's hold is anchored to (R490). -/
def heldUnit (s : State) (c : Nat) (x : Ctx) : Option Nat :=
  match Tab.get none (core s c).holds (x.areg % 4) with
  | some h => h.unit
  | none => none

/-- The code and key of one address of a context (R465, R470, R490). -/
def ctxAccess (s : State) (c : Nat) (x : Ctx) (n : Need) (va : Int) : Nat × Nat :=
  if x.anchor = 2 then
    match heldUnit s c x with
    | some k => if 0 ≤ va ∧ va < 65536 then (0, k + va.toNat) else (0x0302, 0)
    | none => (0x0302, 0)
  else translate s c n va

/-- Elements [lo, lo + n) of a walk, modulo its count, each with its address (R464). -/
def Ctx.elems (x : Ctx) (a : Int) (lo n : Nat) : List Int :=
  (List.range n).map fun i => x.addr a ((lo + i) % x.count)

/-- The whole context, of a line walk with no gap in a row, as pieces of at most 64 B that stay within a line:
address and bytes. -/
def Ctx.pieces (x : Ctx) (a : Int) : List (Int × Nat) :=
  let row : Nat := x.n0 * x.esize
  (List.range (x.count / x.n0)).flatMap fun r =>
    (List.range ((row + 63) / 64)).map fun l => (x.addr a (r * x.n0) + (64 * l : Nat), min 64 (row - 64 * l))

/-- An execute-stream operand of kind 2 (R249, R462, R463, R470): the code, and its pieces with their keys and virtual
addresses. A page that is not mapped is refused with 0x0302, as an address elsewhere is: the execute stream has no
hold. DEDUCED (log 29). -/
def ownPieces (s : State) (c k : Nat) (w : Bool) : Nat × List (Nat × Nat × Nat) :=
  let x := ctxOf s c k
  let a := Ctx.start s c x
  if !x.ok a || x.walk != 0 then (0x0105, [])
  else
    let ps := (x.pieces a).map fun p =>
      let r := ctxAccess s c x (if w then .write else .read) p.1
      (if r.1 = 0 ∧ ownCm c r.2 then some r.2 else none, p.1.toNat, p.2)
    if ps.all (·.1.isSome) then (0, ps.map fun p => (p.1.getD 0, p.2.1, p.2.2)) else (0x0302, [])

/-- The bytes of such an operand, and the byte offset of its first poisoned piece. -/
def pieceBytes (s : State) (ps : List (Nat × Nat × Nat)) : List Byte := ps.flatMap fun p => rdBytes s p.1 p.2.2

/-- The offset of the first byte of a piece that holds a poisoned word (R150). -/
def firstPoison (s : State) : List (Nat × Nat × Nat) → Nat → Option Nat
  | [], _ => none
  | p :: t, off => if poisoned s p.1 p.2.2 then some off else firstPoison s t (off + p.2.2)

/-- Bytes laid over pieces, in order: what an operation writes. -/
def layOver : List (Nat × Nat × Nat) → List Byte → List (Nat × Option Nat × List Byte)
  | [], _ => []
  | _, [] => []
  | p :: t, d => (p.1, some p.2.1, d.take p.2.2) :: layOver t (d.drop p.2.2)

/-- Bytes written to own core memory, commons, HBM or a sector by core c, at a valid key (R164, R165, R168, R509, R513): the
status; `bad` bytes are poisoned (R150). A write into another sector lands only in an open landing range, but for a ring region
(R671): the core holds the credits that it needs, issued as it sends and returned as the write lands, so a range that closes, and
issues none, is one it cannot reach. DESIGN CHOICE (log 123). A sector that sleeps with its ranges open keeps its memory: the write
wakes it and lands (R710; log 170). -/
def coreStore (s : State) (c : Nat) (va : Option Nat) (k : Nat) (d : List Byte) (bad : Bool) : State × Nat :=
  if inPool s k || (decide (2 ^ 38 ≤ k) && !ringAllowed s (.core c) k) then (s, 0x0302)
  else if 2 ^ 38 ≤ k ∧ bits k 36 32 ≠ c / 25 ∧ !inRing k ∧ (!lands s k d.length ∨ landsClosing s k d.length) then (s, 0x0302)
  else
    let s := if 2 ^ 38 ≤ k then noteLanded s k d.length else s
    let s := if 2 ^ 38 ≤ k ∧ bits k 36 32 ≠ c / 25 then trafficTo s (bits k 36 32) else s
    match groupOf s c va k with
    | some i => groupStore s none i k d 0 bad
    | none =>
      let s := storeAt s k d
      (if bad then markWords s k d.length else s, 0)

end Sys2Proof.Machine
end

