-- ==== Sys2Proof/Machine/Outbound.lean ====
section
/-! DEFINITION. Requests through outbound handles (R587 to R593, R597), and the events of a partition (R688 to R690). -/

namespace Sys2Proof.Machine

open Sys2Proof

/-! ## Handles -/

/-- A physical address is outbound, its handle and its offset (R587). -/
def isOutbound (k : Nat) : Bool := decide (k < 2 ^ 40) && bits k 39 37 == 6
def outHandle (k : Nat) : Nat := bits k 36 25
def outOffset (k : Nat) : Nat := bits k 24 0

def handle (s : State) (h : Nat) : Handle := Tab.get Handle.init s.handles h
def setHandle (s : State) (h : Nat) (v : Handle) : State := { s with handles := Tab.set Handle.init s.handles h v }

/-- The route to a node (R561); an entry that nothing has written is not valid, at distance 0xFF. -/
def route (s : State) (node : Nat) : Nat := Tab.get 0x00FF000000000000 s.routes node
def setRoute (s : State) (node v : Nat) : State := { s with routes := Tab.set 0x00FF000000000000 s.routes node v }
def reachable (s : State) (node : Nat) : Bool := bit (route s node) 63

/-- What a request of partition p through a handle is refused with at once (R562, R591), 0 for none. -/
def handleCode (s : State) (p : Option Nat) (h : Nat) : Nat :=
  let v := handle s h
  if some v.part ≠ p ∨ v.state < 2 then 0x0302
  else if v.state = 3 then v.failed
  else if !reachable s v.node then 0x0404
  else 0

/-- The transport header of a message (R592). -/
def msgHeader (m : Msg) : List Byte :=
  leBytes 8 (m.window * 2 ^ 44 + m.epoch * 2 ^ 28) ++
  leBytes 8 (m.offset * 2 ^ 28 + m.group * 2 ^ 16 + (if m.inGroup then 2 ^ 15 else 0) + m.arg)

/-- The window context's partition: the one whose window range holds window w (R577, R753). -/
def winPartition (s : State) (w : Nat) : Option Nat :=
  (List.range 32).find? fun p => assigned s p &&
    decide (rd s (E.part_window_first + 256 * p) ≤ w ∧ w < rd s (E.part_window_first + 256 * p) + rd s (E.part_window_count + 256 * p))

/-- The state code of port p (R543, R571), and the record of what is not in its entries. -/
def portCode (s : State) (p : Nat) : Nat := bits (rd s (E.port_state + p)) 31 28
def portActive (s : State) (p : Nat) : Bool := portCode s p == 3
def port (s : State) (p : Nat) : Port := Tab.get Port.init s.ports p
def setPort (s : State) (p : Nat) (v : Port) : State := { s with ports := Tab.set Port.init s.ports p v }

/-- The ACTIVE ports of a routing entry's `mask`, and its `pref` (R561). -/
def maskPorts (s : State) (e : Nat) : List Nat := (List.range 32).filter fun p => bit e p && portActive s p
def prefOf (e : Nat) : Nat := bits e 44 40

/-- The port that a packet leaves by (R565, R568): `pref` when it travels in order or on VC2 or VC3, and otherwise the port of
`mask` with the most free credits, ties broken by `pref` and then by the lowest number. A `pref` outside ACTIVE is skipped. -/
def egress (s : State) (e : Nat) (byPref : Bool) (free : Nat → Nat) : Option Nat :=
  let m := maskPorts s e
  if byPref then if portActive s (prefOf e) then some (prefOf e) else m.head?
  else
    let best := m.foldl (fun b p => max b (free p)) 0
    let tied := m.filter fun p => free p == best
    if tied.contains (prefOf e) then some (prefOf e) else tied.head?

/-- n flits leave at a port on a virtual channel (R547 to R549). -/
def sendFlits (s : State) (p vc n : Nat) : State :=
  let v := port s p
  countDev (setPort s p { v with
    nextSeq := (v.nextSeq + n) % 4096, credits := Tab.set 0 v.credits vc (Tab.get 0 v.credits vc - n) }) 0x206 p n

/-- A mirror or standby follower transmits no request of its own (R625, R627). -/
def transmits (s : State) : Bool := rd s E.twin_role != 2

/-- The virtual channel of a message (R593). -/
def msgVc (mtype : Nat) : Nat := if mtype < 0x10 then 0 else if mtype < 0x20 then 1 else 2

/-- The partition that sends a message: its handle's, or its window's. -/
def msgPartition (s : State) (mtype : Nat) (m : Msg) : Option Nat :=
  if mtype < 6 then (Tab.find? s.handles m.flow).map Handle.part else if mtype < 0x20 then winPartition s m.window else none

/-- A message leaves, when this module speaks for its node and a route exists; a choice among ports counts (R836, cause 1). -/
def sendMsg (s : State) (mtype : Nat) (m : Msg) : State :=
  if transmits s && reachable s m.dst then
    let e := route s m.dst
    let vc := msgVc mtype
    let byPref := m.ordered || vc == 2
    let s := if !byPref && decide (2 ≤ (maskPorts s e).length) then noteNd s 1 (msgPartition s mtype m) else s
    let s := match egress s e byPref fun p => Tab.get 0 (port s p).credits vc with
      | some p => sendFlits s p vc ((32 + m.payload.length + 241) / 242)
      | none => s
    emit s (.msg mtype m)
  else s

/-- The message of a request (R587, R588, R592). In the ordered and paced modes of its partition every packet is sent in
order (R566, R825). -/
def requestMsg (s : State) (h : Nat) (r : Request) : Msg :=
  let v := handle s h
  { dst := v.node, src := rd s E.node_id, flow := h, tseq := r.tseq
    ordered := v.ordered || rd s (E.det_mode + v.part) != 0, window := v.window
    epoch := v.epoch, offset := r.offset, group := r.group.getD 0, inGroup := r.group.isSome, arg := r.arg
    payload := r.data }

/-- The credits that a request needs (R590). -/
def Request.units (r : Request) : Nat := if r.mtype = 1 then (r.offset % 256 + r.data.length + 255) / 256 else 0

/-- The handle may send the request now (R589, R597). -/
def Handle.maySend (v : Handle) (r : Request) : Bool :=
  decide (v.out.length < 256) &&
    (r.mtype != 1 || decide (r.units ≤ (v.granted + 2 ^ 32 - v.sent % 2 ^ 32) % 2 ^ 32 ∧
      r.offset + r.data.length ≤ 256 * v.frontier))

/-- The request leaves. -/
def sendNow (s : State) (h : Nat) (r : Request) : State :=
  let v := handle s h
  let r := { r with tseq := v.nextSeq }
  let s := setHandle s h { v with nextSeq := (v.nextSeq + 1) % 65536, sent := v.sent + r.units, out := v.out ++ [r] }
  let m := requestMsg s h r
  let s := if rd s E.twin_role = 1 ∨ rd s E.twin_role = 2 then
      { s with twin := { s.twin with requests := s.twin.requests ++ [(h, leBytes 2 m.dst ++ msgHeader m ++ m.payload)] } }
    else s
  sendMsg s r.mtype m

/-- A request enters a handle: it leaves, or waits behind those that wait. A write under a group counts for its group
until it is answered (R516). -/
def request (s : State) (h : Nat) (r : Request) : State :=
  let s := match r.group with
    | some i => setGroup s none i fun g => { g with unacked := g.unacked + 1 }
    | none => s
  let v := handle s h
  if v.held.isEmpty && v.maySend r then sendNow s h r else setHandle s h { v with held := v.held ++ [r] }

/-- Waiting requests leave while they may, in order. -/
def pump : Nat → State → Nat → State
  | 0, s, _ => s
  | f + 1, s, h =>
    let v := handle s h
    match v.held with
    | [] => s
    | r :: t => if v.maySend r then pump f (sendNow (setHandle s h { v with held := t }) h r) h else s

/-! ## Requests and answers of the device itself (R593, R595, R625) -/

/-- The flow of the device's own requests; no handle has this number. DESIGN CHOICE (log 143). -/
def deviceFlow : Nat := 0x1000

/-- A message of the device's own flow. -/
def deviceMsg (s : State) (node tseq window epoch : Nat) (payload : List Byte) : Msg :=
  { dst := node, src := rd s E.node_id, flow := deviceFlow, tseq := tseq, ordered := false, window := window
    epoch := epoch, offset := 0, group := 0, inGroup := false, arg := 0, payload := payload }

/-- A request of the device itself: it stands until its answer comes. -/
def sendNotice (s : State) (mtype node window epoch : Nat) (payload : List Byte) : State :=
  let t := s.transport
  let m := deviceMsg s node t.nextNotice window epoch payload
  sendMsg { s with transport := { t with
    notices := t.notices ++ [⟨t.nextNotice, mtype, m, 0⟩], nextNotice := (t.nextNotice + 1) % 65536 } } mtype m

/-- The payload of the stitch messages (R594). -/
def groupPayload (i verdict step : Nat) : List Byte :=
  leBytes 2 i ++ leBytes 1 verdict ++ List.replicate 5 0 ++ leBytes 8 step

/-! ## Ring regions and events (R670 to R672, R677, R688 to R690) -/

/-- Byte o of the ring region of sector x. -/
def ringKey (x o : Nat) : Nat := Mem.commons x (0x6C0000 + o)

/-- A 32 B record with its marker joins an area of n entries at region offset `off`, after `posted` of them, whose
counts stand in the control block at `cb`. -/
def postEntry (s : State) (x cb off n : Nat) (r : List Byte) : State :=
  let posted := rdNat s (ringKey x (cb + 4)) 4
  let k := ringKey x (off + 64 * (posted % n))
  let s := wrNat (wrBytes s k r) (k + 32) 4 ((posted / n + 1) % 2 ^ 32)
  wrNat s (ringKey x (cb + 4)) 4 ((posted + 1) % 2 ^ 32)

/-- Entries of the area at `cb` that the host has not read. -/
def unread (s : State) (x cb : Nat) : Nat :=
  (rdNat s (ringKey x (cb + 4)) 4 + 2 ^ 32 - rdNat s (ringKey x (cb + 8)) 4) % 2 ^ 32

/-- The record of an event (R689). -/
def eventRecord (s : State) (etype status core detail : Nat) : List Byte :=
  leBytes 8 (etype * 2 ^ 48 + status * 2 ^ 32 + core * 2 ^ 16) ++ leBytes 8 detail ++ leBytes 8 (now s) ++ leBytes 8 0

/-- An event is posted to partition p, or lost (R690). -/
def postEvent (s : State) (p etype status core detail : Nat) : State :=
  let x := rd s (E.ev_sector + 256 * p) % 32
  let n := rd s (E.ev_slots + 256 * p)
  if rd s (E.ev_enable + 256 * p) ≠ 1 ∨ n ≤ unread s x 0x400 then inc s (E.ev_lost_count + 256 * p)
  else signalVector (postEntry s x 0x400 (rd s (E.ev_offset + 256 * p)) n (eventRecord s etype status core detail))
    (rd s (E.ev_vector + 256 * p))

end Sys2Proof.Machine
end

