-- ==== Sys2Proof/Machine/Desc.lean ====
section
/-! DEFINITION. Ciphertext descriptors, chains as descriptors name them, and key sets (R338 to R341, R350 to R356). -/

namespace Sys2Proof.Machine

open Sys2Proof

/-- A descriptor's fields (R338). -/
structure Desc where
  scheme : Nat
  domain : Nat
  polys : Nat
  logn : Nat
  limbs : Nat
  level : Nat
  chain : Nat
  budget : Nat
  scale : Nat
  tag : Nat
  base0 : Nat
  base1 : Nat
  base2 : Nat
  stride : Nat
  user : Nat
  deriving DecidableEq, Repr

/-- Word i of a 64 B record. -/
def recWord (l : List Byte) (i : Nat) : Nat := leNat ((l.drop (8 * i)).take 8)

def descOf (l : List Byte) : Desc :=
  let w := recWord l 0
  { scheme := bits w 63 62, domain := bits w 61 61, polys := bits w 60 59, logn := bits w 58 54, limbs := bits w 53 47
    level := bits w 46 41, chain := bits w 40 33, budget := bits w 32 25, scale := bits w 15 0, tag := recWord l 1
    base0 := bits (recWord l 2) 47 0, base1 := bits (recWord l 3) 47 0, base2 := bits (recWord l 4) 47 0
    stride := bits (recWord l 5) 47 0, user := recWord l 6 }

/-- The bytes of a descriptor, with its check (R338, R340, R343). -/
def Desc.bytes (d : Desc) : List Byte :=
  let w := d.scheme * 2 ^ 62 + d.domain * 2 ^ 61 + d.polys * 2 ^ 59 + d.logn * 2 ^ 54 + d.limbs * 2 ^ 47 + d.level * 2 ^ 41 +
    d.chain * 2 ^ 33 + d.budget * 2 ^ 25 + d.scale
  let b := leBytes 8 w ++ leBytes 8 d.tag ++ leBytes 8 d.base0 ++ leBytes 8 d.base1 ++ leBytes 8 d.base2 ++
    leBytes 8 d.stride ++ leBytes 8 d.user
  b ++ leBytes 8 (crc32c b * 2 ^ 32)

/-- The check word of a 64 B record is right (R340). -/
def checkOk (l : List Byte) : Bool := recWord l 7 / 2 ^ 32 == crc32c (l.take 56)

/-- Chain c: its prime count (0: not registered), its largest log2 N, and prime i (R296, R337). -/
def chainPrimes (s : State) (c : Nat) : Nat := rd s (E.chain_prime_count + 256 * c)
def chainLogn (s : State) (c : Nat) : Nat := rd s (E.chain_log2_n_max + 256 * c)
def chainRecord (c : Nat) : Nat := 0x10000000 + 0x1000 * c
def chainPrime (s : State) (c i : Nat) : Nat := rdNat s (Mem.hbm (chainRecord c + 64 * i)) 8

/-- The descriptor is valid (R341). -/
def descValid (s : State) (l : List Byte) : Bool :=
  let d := descOf l
  let n := chainPrimes s d.chain
  let bases := if d.polys = 3 then [d.base0, d.base1, d.base2, d.stride] else [d.base0, d.base1, d.stride]
  checkOk l && d.scheme != 3 && (d.polys == 2 || d.polys == 3) && decide (10 ≤ d.logn ∧ d.logn ≤ 17) &&
  decide (1 ≤ d.limbs ∧ d.limbs ≤ 64 ∧ d.limbs = d.level + 1) && n != 0 && decide (d.logn ≤ chainLogn s d.chain) &&
  decide (d.limbs ≤ n) && bases.all (· % 64 == 0) && decide (8 * 2 ^ d.logn ≤ d.stride)

/-- A registered key set that partition p sees (R356). -/
def findKeySet (s : State) (p : Option Nat) (tag : Nat) : Option KeySet :=
  s.keysets.find? fun k => k.tag == tag && some k.part == p

def KeySet.key (k : KeySet) (kind galois : Nat) : Option KeyInfo :=
  k.keys.find? fun e => e.kind == kind && e.galois == galois

/-- Chunks of a limb (R364). -/
def chunksOf (logn : Nat) : Nat := max 1 (8 * 2 ^ logn / 65536)
/-- Payload bytes of a chunk (R364). -/
def payloadOf (logn : Nat) : Nat := min 65536 (8 * 2 ^ logn)

/-- The blind-rotation key: its chunks follow R408. -/
def KeyInfo.blind (k : KeyInfo) : Bool := k.kind == 2 && k.galois == 0
def KeyCtx.blind (k : KeyCtx) : Bool := k.kind == 2 && k.galois == 0

/-- C of a key context's chunks, their payload bytes, and their tiles (R364, R367, R408). -/
def KeyCtx.perLimb (k : KeyCtx) : Nat := if k.blind then 256 else chunksOf k.logn
def KeyCtx.payload (k : KeyCtx) : Nat := if k.blind then 65536 else payloadOf k.logn
def KeyCtx.tiles (k : KeyCtx) : Nat := k.payload / 4096

end Sys2Proof.Machine
end

