-- ==== Sys2Proof/Machine/Float.lean ====
section
/-! DEFINITION. Floating-point values, exactly: decoding of every format, and results rounded to nearest with ties to
even (R424, R426, R434, R437). -/

namespace Sys2Proof.Machine

open Sys2Proof

/-- A floating-point value: a NaN, an infinity, or ± m · 2^e. -/
inductive Flt where
  | nan
  | inf (neg : Bool)
  | fin (neg : Bool) (m : Nat) (e : Int)
  deriving DecidableEq, Repr

/-- A format: exponent and fraction bits, and whether it has infinities (E4M3 has none: only the pattern of all ones is
a NaN). -/
structure Fmt where
  eb : Nat
  mb : Nat
  infs : Bool
  deriving DecidableEq, Repr

def Fmt.f32 : Fmt := ⟨8, 23, true⟩
def Fmt.bf16 : Fmt := ⟨8, 7, true⟩
def Fmt.f16 : Fmt := ⟨5, 10, true⟩
def Fmt.e4m3 : Fmt := ⟨4, 3, false⟩
def Fmt.e5m2 : Fmt := ⟨5, 2, true⟩

/-- The exponent bias. -/
def Fmt.bias (f : Fmt) : Int := 2 ^ (f.eb - 1) - 1
/-- The exponent of the last fraction bit of the smallest numbers. -/
def Fmt.emin (f : Fmt) : Int := 1 - f.bias - f.mb

/-- The value of a pattern. -/
def Fmt.decode (f : Fmt) (v : Nat) : Flt :=
  let neg := bit v (f.eb + f.mb)
  let x := v / 2 ^ f.mb % 2 ^ f.eb
  let m := v % 2 ^ f.mb
  if f.infs && x == 2 ^ f.eb - 1 then if m = 0 then .inf neg else .nan
  else if !f.infs && x == 2 ^ f.eb - 1 && m == 2 ^ f.mb - 1 then .nan
  else if x = 0 then .fin neg m f.emin
  else .fin neg (m + 2 ^ f.mb) (f.emin + x - 1)

/-- m · 2^e, with something more below when `sticky`, rounded to a multiple of 2^emin with at most `prec` bits. -/
def rne (prec : Nat) (emin : Int) (m : Nat) (e : Int) (sticky : Bool) : Nat × Int :=
  let sh := max ((Nat.log2 m + 1 : Int) - prec) (emin - e)
  if m = 0 ∨ sh ≤ 0 then (m, e)
  else
    let k := sh.toNat
    let q := m / 2 ^ k
    let r := m % 2 ^ k
    let up := decide (2 ^ (k - 1) < r) || (r == 2 ^ (k - 1) && (sticky || q % 2 == 1))
    (if up then q + 1 else q, e + sh)

/-- The pattern of an infinity, or what a value too large becomes in a format. -/
def Fmt.infPat (f : Fmt) (neg : Bool) : Nat :=
  (if neg then 2 ^ (f.eb + f.mb) else 0) + if f.infs then (2 ^ f.eb - 1) * 2 ^ f.mb else 2 ^ (f.eb + f.mb) - 1

/-- The pattern of a NaN: 0x7FC0_0000 in FP32 (R426, R437). -/
def Fmt.nanPat (f : Fmt) : Nat :=
  if f.infs then (2 ^ f.eb - 1) * 2 ^ f.mb + 2 ^ (f.mb - 1) else 2 ^ (f.eb + f.mb) - 1

/-- The pattern of ± m · 2^e (with a sticky bit), rounded; `none` when it is too large for the format. -/
def Fmt.pack? (f : Fmt) (neg : Bool) (m : Nat) (e : Int) (sticky : Bool) : Option Nat :=
  let sgn := if neg then 2 ^ (f.eb + f.mb) else 0
  let r := rne (f.mb + 1) f.emin m e sticky
  if r.1 = 0 then some sgn
  else
    -- bring the fraction to its full length, or to the smallest exponent
    let up := min ((f.mb : Int) - Nat.log2 r.1) (r.2 - f.emin)
    let m' := if 0 ≤ up then r.1 * 2 ^ up.toNat else r.1 / 2 ^ (-up).toNat
    let e' := r.2 - up
    let field : Int := if m' < 2 ^ f.mb then 0 else e' - f.emin + 1
    let pat := field.toNat * 2 ^ f.mb + m' % 2 ^ f.mb
    let top := if f.infs then (2 ^ f.eb - 1) * 2 ^ f.mb else 2 ^ (f.eb + f.mb) - 1
    if top ≤ pat then none else some (sgn + pat)

/-- The pattern of a value; one too large becomes an infinity. -/
def Fmt.encode (f : Fmt) (x : Flt) (sticky : Bool) : Nat :=
  match x with
  | .nan => f.nanPat
  | .inf n => f.infPat n
  | .fin n m e => (f.pack? n m e sticky).getD (f.infPat n)

/-- A value rounded to FP32, as a pattern. -/
def f32 (x : Flt) : Nat := Fmt.f32.encode x false

/-- The value of an FP32 pattern. -/
def ofF32 (v : Nat) : Flt := Fmt.f32.decode v

/-- An integer as a value. -/
def Flt.ofInt (i : Int) : Flt := .fin (decide (i < 0)) i.natAbs 0

def Flt.neg : Flt → Flt
  | .nan => .nan
  | .inf n => .inf !n
  | .fin n m e => .fin (!n) m e

def Flt.abs : Flt → Flt
  | .nan => .nan
  | .inf _ => .inf false
  | .fin _ m e => .fin false m e

/-- An exact finite value as an integer multiple of 2^e. -/
def scaled (neg : Bool) (m : Nat) (e e0 : Int) : Int :=
  (if neg then -1 else 1) * ((m * 2 ^ (e - e0).toNat : Nat) : Int)

/-- The exact sum. A zero sum is +0, unless both terms are −0. -/
def Flt.add : Flt → Flt → Flt
  | .nan, _ => .nan
  | _, .nan => .nan
  | .inf a, .inf b => if a = b then .inf a else .nan
  | .inf a, _ => .inf a
  | _, .inf b => .inf b
  | .fin n m e, .fin n' m' e' =>
    let e0 := min e e'
    let t := scaled n m e e0 + scaled n' m' e' e0
    if t = 0 then .fin (n && n' && m == 0 && m' == 0) 0 0 else .fin (decide (t < 0)) t.natAbs e0

/-- The exact product. -/
def Flt.mul : Flt → Flt → Flt
  | .nan, _ => .nan
  | _, .nan => .nan
  | .inf a, .inf b => .inf (a != b)
  | .inf a, .fin n m _ => if m = 0 then .nan else .inf (a != n)
  | .fin n m _, .inf b => if m = 0 then .nan else .inf (n != b)
  | .fin n m e, .fin n' m' e' => .fin (n != n') (m * m') (e + e')

/-- The quotient rounded to FP32 (R437). -/
def fdiv (a b : Flt) : Nat :=
  match a, b with
  | .nan, _ => f32 .nan
  | _, .nan => f32 .nan
  | .inf _, .inf _ => f32 .nan
  | .inf n, .fin n' _ _ => f32 (.inf (n != n'))
  | .fin n _ _, .inf n' => f32 (.fin (n != n') 0 0)
  | .fin n m e, .fin n' m' e' =>
    if m' = 0 then if m = 0 then f32 .nan else f32 (.inf (n != n'))
    else
      let k := Nat.log2 m' + 30
      let q := m * 2 ^ k
      Fmt.f32.encode (.fin (n != n') (q / m') (e - e' - k)) (q % m' != 0)

/-- The square root rounded to FP32 (R450). -/
def fsqrt (a : Flt) : Nat :=
  match a with
  | .nan => f32 .nan
  | .inf n => if n then f32 .nan else f32 (.inf false)
  | .fin n m e =>
    if m = 0 then f32 (.fin n 0 0)
    else if n then f32 .nan
    else
      let k := 60 + (e % 2).toNat
      let x := m * 2 ^ k
      let r := Nat.sqrt x
      Fmt.f32.encode (.fin false r ((e - k) / 2)) (r * r != x)

/-- a < b; false with a NaN. -/
def Flt.lt (a b : Flt) : Bool :=
  match a, b with
  | .nan, _ => false
  | _, .nan => false
  | .inf n, .inf n' => n && !n'
  | .inf n, .fin _ _ _ => n
  | .fin _ _ _, .inf n' => !n'
  | .fin n m e, .fin n' m' e' => let e0 := min e e'; decide (scaled n m e e0 < scaled n' m' e' e0)

/-- a = b; false with a NaN. -/
def Flt.eqv (a b : Flt) : Bool := !(a == .nan) && !(b == .nan) && !a.lt b && !b.lt a

def Flt.isNan : Flt → Bool
  | .nan => true
  | _ => false

def Flt.isFinite : Flt → Bool
  | .fin _ _ _ => true
  | _ => false

/-- The integer nearest to ± m · 2^e, ties to even. -/
def nearestInt (neg : Bool) (m : Nat) (e : Int) : Int :=
  let k : Nat := if 0 ≤ e then m * 2 ^ e.toNat else
    let d := (-e).toNat
    let q := m / 2 ^ d
    let r := m % 2 ^ d
    if 2 ^ (d - 1) < r ∨ (r = 2 ^ (d - 1) ∧ q % 2 = 1) then q + 1 else q
  if neg then -(k : Int) else k

/-- Sums, products and fused products of FP32 patterns, rounded once (R437). -/
def fadd (a b : Nat) : Nat := f32 ((ofF32 a).add (ofF32 b))
def fsub (a b : Nat) : Nat := f32 ((ofF32 a).add (ofF32 b).neg)
def fmul (a b : Nat) : Nat := f32 ((ofF32 a).mul (ofF32 b))
def ffma (a b c : Nat) : Nat := f32 (((ofF32 a).mul (ofF32 b)).add (ofF32 c))

end Sys2Proof.Machine
end

