-- ==== Sys2Proof/Machine/Modular.lean ====
section
/-! DEFINITION. Modular arithmetic of the PE and of the ME's modular mode (R289 to R291, R303 to R309, R316, R320,
R875), and primality (R293). -/

namespace Sys2Proof.Machine

open Sys2Proof

/-! ## Numbers -/

/-- The bit length of a number. -/
def bitLen (n : Nat) : Nat := if n = 0 then 0 else Nat.log2 n + 1

/-- a^e mod q, by squaring over the f lowest bits of e. -/
def powModF (q : Nat) : Nat → Nat → Nat → Nat → Nat
  | 0, _, _, acc => acc
  | f + 1, a, e, acc => powModF q f (a * a % q) (e / 2) (if e % 2 = 1 then acc * a % q else acc)

/-- a^e mod q. -/
def powMod (q a e : Nat) : Nat := powModF q (bitLen e) (a % q) e (1 % q)

/-- The odd part of n and the power of two in it. -/
def oddPart : Nat → Nat → Nat → Nat × Nat
  | 0, n, k => (n, k)
  | f + 1, n, k => if n % 2 = 0 ∧ n ≠ 0 then oddPart f (n / 2) (k + 1) else (n, k)

/-- Some of x, x², x⁴, … (r of them) is n − 1. -/
def hitsMinusOne (n : Nat) : Nat → Nat → Bool
  | 0, _ => false
  | r + 1, x => x == n - 1 || hitsMinusOne n r (x * x % n)

/-- n passes the Miller–Rabin test to base a. -/
def strongProbable (n a : Nat) : Bool :=
  let d := oddPart (bitLen n) (n - 1) 0
  let x := powMod n a d.1
  a % n == 0 || x == 1 || hitsMinusOne n d.2 x

/-- Primality by the twelve bases of R293; exact below 2^61. -/
def isPrime (n : Nat) : Bool :=
  decide (2 ≤ n) && (n == 2 || (n % 2 == 1 && [2, 3, 5, 7, 11, 13, 17, 19, 23, 29, 31, 37].all (strongProbable n)))

/-- brv_n(j): the low n bits of j in reverse (R291). -/
def brv : Nat → Nat → Nat
  | 0, _ => 0
  | n + 1, j => j % 2 * 2 ^ n + brv n (j / 2)

/-! ## Entries of the prime table (R296, R297, R875) -/

/-- The words of an entry. -/
def Prime.words (p : Prime) : List Nat := [p.q, p.mu, p.psi, p.psiInv, p.nMaxInv, 0, 0, p.w7]

def Prime.valid (p : Prime) : Bool := bits p.w7 63 56 == 1
def Prime.logN (p : Prime) : Nat := bits p.w7 15 8
def Prime.bits (p : Prime) : Nat := p.w7 % 64

/-- The entry of eight words. -/
def Prime.ofWords (w : List Nat) : Prime :=
  ⟨w.getD 0 0, w.getD 1 0, w.getD 2 0, w.getD 3 0, w.getD 4 0, w.getD 7 0⟩

/-- `q`, `mu` and `bits` fit each other, so that R303 reduces exactly.
DEDUCED (log 30): the fields that an operation uses decide whether R875 leaves its result open. -/
def Prime.sound (p : Prime) : Bool :=
  p.q % 2 == 1 && decide (3 ≤ p.q ∧ p.q < 2 ^ 61) && p.bits == bitLen p.q && p.mu == 2 ^ (2 * p.bits) / p.q

/-- The transform fields fit as well. -/
def Prime.soundNtt (p : Prime) : Bool :=
  p.sound && decide (10 ≤ p.logN ∧ p.logN ≤ 17) && powMod p.q p.psi (2 ^ p.logN) == p.q - 1 &&
    p.psi * p.psiInv % p.q == 1 && 2 ^ p.logN * p.nMaxInv % p.q == 1

/-! ## Reduction and lanes (R303, R305, R307) -/

/-- x mod q by the procedure of R303. -/
def reduce (p : Prime) (x : Nat) : Nat :=
  let t := x / 2 ^ (p.bits - 1)
  let u := t * p.mu / 2 ^ (p.bits + 1)
  let r := x - u * p.q
  let r := if p.q ≤ r then r - p.q else r
  if p.q ≤ r then r - p.q else r

def modMul (p : Prime) (a b : Nat) : Nat := reduce p (a * b)
def modAdd (p : Prime) (a b : Nat) : Nat := if p.q ≤ a + b then a + b - p.q else a + b
def modSub (p : Prime) (a b : Nat) : Nat := if a < b then a + p.q - b else a - b
def modNeg (p : Prime) (a : Nat) : Nat := if a = 0 then 0 else p.q - a

/-- One lane of width w bits: the result of R303 or R305, or the free value of R307 and R875. -/
def lane (w op : Nat) (p : Prime) (ins : List Nat) (f : Nat) : Nat :=
  if p.sound && ins.all (· < p.q) then f else peLane op ins p.words % 2 ^ w

/-- Some input of the lane is `q` or more (R307). -/
def laneHit (p : Prime) (ins : List Nat) : Bool := ins.any (p.q ≤ ·)

/-- A word operation in wide or narrow mode: prime p0 on the word, or p0 on its low half and p1 on its high half
(R308). -/
def wordOp (op : Nat) (narrow : Bool) (p0 p1 : Prime) (f : Prime → List Nat → Nat) (ins : List Nat) : Nat :=
  if narrow then
    let lo := ins.map (· % 2 ^ 32)
    let hi := ins.map (· / 2 ^ 32)
    lane 32 op p0 lo (f p0 lo) + 2 ^ 32 * lane 32 op p1 hi (f p1 hi)
  else lane 64 op p0 ins (f p0 ins)

/-- Some lane of the word met an input of `q` or more. -/
def wordHit (narrow : Bool) (p0 p1 : Prime) (ins : List Nat) : Bool :=
  if narrow then laneHit p0 (ins.map (· % 2 ^ 32)) || laneHit p1 (ins.map (· / 2 ^ 32)) else laneHit p0 ins

/-- Words zipped into the inputs of each lane; every list has the length of the first. -/
def lanesOf : List (List Nat) → List (List Nat)
  | [] => []
  | [a] => a.map fun x => [x]
  | [a, b] => List.zipWith (fun x y => [x, y]) a b
  | a :: b :: c :: _ => List.zipWith (fun x y => x :: y) a (List.zipWith (fun x y => [x, y]) b c)

/-! ## Transforms (R291, R304, R316) -/

/-- Σ a_i x^i mod q, by Horner's rule. -/
def evalPoly (q x : Nat) : List Nat → Nat
  | [] => 0
  | a :: t => (a + x * evalPoly q x t) % q

/-- e(j) of R291 for N = 2^n. -/
def evalExp (n j : Nat) : Nat := 2 * brv n j + 1

/-- A forward transform of N = 2^n words (R291, R304). -/
def nttFwd (p : Prime) (n : Nat) (l : List Nat) : List Nat :=
  let w := powMod p.q p.psi (2 ^ (p.logN - n))
  (List.range (2 ^ n)).map fun j => evalPoly p.q (powMod p.q w (evalExp n j)) l

/-- Word i of the limb whose transform is given: N^(−1) Σ_j A_j ψ^(−e(j) i) (R316), with N^(−1) from `n_max_inv` (R875). -/
def nttInv (p : Prime) (n : Nat) (l : List Nat) : List Nat :=
  let w := powMod p.q p.psiInv (2 ^ (p.logN - n))
  let ninv := p.nMaxInv * 2 ^ (p.logN - n) % p.q
  (List.range (2 ^ n)).map fun i =>
    let terms := (List.range (2 ^ n)).map fun j => l.getD j 0 * powMod p.q w (evalExp n j * i) % p.q
    ninv * (terms.foldl (· + ·) 0) % p.q

/-- A transform of one limb, with the free value where R307 or R875 leaves it open. -/
def transform (w : Nat) (inv : Bool) (p : Prime) (n : Nat) (l : List Nat) : List Nat :=
  if p.soundNtt && l.all (· < p.q) then if inv then nttInv p n l else nttFwd p n l
  else (List.range (2 ^ n)).map fun i => peWord (if inv then 0x11 else 0x10) l p.words i % 2 ^ w

/-- A transform in wide or narrow mode (R309). -/
def transformW (inv narrow : Bool) (p0 p1 : Prime) (n : Nat) (l : List Nat) : List Nat :=
  if narrow then
    List.zipWith (fun a b => a + 2 ^ 32 * b) (transform 32 inv p0 n (l.map (· % 2 ^ 32)))
      (transform 32 inv p1 n (l.map (· / 2 ^ 32)))
  else transform 64 inv p0 n l

/-- The word that σ_g writes from: j′ with e(j′) ≡ e(j) · g mod 2N (R320). -/
def autSource (n g j : Nat) : Nat := brv n (evalExp n j * g % 2 ^ (n + 1) / 2)

/-! ## Words and bytes -/

/-- The 64-bit words of bytes. -/
def wordsOf (b : List Byte) : List Nat := (groups8 b.length b).map leNat
where
  /-- Bytes in groups of eight. -/
  groups8 : Nat → List Byte → List (List Byte)
    | 0, _ => []
    | _, [] => []
    | f + 1, l => l.take 8 :: groups8 f (l.drop 8)

/-- The bytes of 64-bit words. -/
def bytesOf (l : List Nat) : List Byte := l.flatMap (leBytes 8)

end Sys2Proof.Machine
end

