-- ==== Sys2Proof/Machine/MatArith.lean ====
section
/-! DEFINITION. What the matrix engine computes (R418 to R428, R324, R325, R430): element by element, from the bytes of
its operands. -/

namespace Sys2Proof.Machine

open Sys2Proof

/-- The fields of an `MMA` or `MSUM` (R420, R428). -/
structure MmaMod where
  fmt : Nat
  acc : Bool
  grp : Nat
  aux : Nat
  auxGen : Nat
  zp : Bool
  ua : Bool
  ub : Bool
  col : Bool
  deriving DecidableEq, Repr

def MmaMod.of (m : BitVec 18) : MmaMod :=
  let v := m.toNat
  ⟨bits v 17 15, bit v 14, bits v 13 12, bits v 11 9, bits v 8 6, bit v 5, bit v 3, bit v 2, bit v 0⟩

/-- The format is INT8 or INT4. -/
def MmaMod.isInt (m : MmaMod) : Bool := decide (m.fmt ≤ 1)

/-- K of R418. -/
def MmaMod.k (m : MmaMod) : Nat :=
  match m.fmt with
  | 1 => 128
  | 4 => 32
  | 5 => 32
  | _ => 64

/-- The group size G; K when `grp` is 0, so that there is one group (R422). -/
def MmaMod.g (m : MmaMod) : Nat := if m.grp = 0 then m.k else 16 * 2 ^ m.grp
def MmaMod.groups (m : MmaMod) : Nat := m.k / m.g

/-- The rule of R422. -/
def MmaMod.ok (m : MmaMod) : Bool :=
  decide (m.g ≤ m.k) && (m.isInt || (!m.zp && !m.ua && !m.ub))

/-- Byte i of a tile. -/
def byteAt (l : List Byte) (i : Nat) : Nat := (l.getD i 0).toNat
def halfAt (l : List Byte) (i : Nat) : Nat := byteAt l i + 256 * byteAt l (i + 1)
def wordAt (l : List Byte) (i : Nat) : Nat := halfAt l i + 65536 * halfAt l (i + 2)

/-- The signed value of an n-bit pattern. -/
def signed (n v : Nat) : Int := if v < 2 ^ (n - 1) then (v : Int) else (v : Int) - 2 ^ n

/-- The integer of an INT8 or INT4 element whose place is counted in elements of a row of bytes. -/
def intElem (four : Bool) (uns : Bool) (l : List Byte) (e : Nat) : Int :=
  let v := if four then byteAt l (e / 2) / (if e % 2 = 0 then 1 else 16) % 16 else byteAt l e
  if uns then v else signed (if four then 4 else 8) v

/-- Row i, element k of an A tile (R418). -/
def aElem (m : MmaMod) (l : List Byte) (i k : Nat) : Flt :=
  match m.fmt with
  | 0 => .ofInt (intElem false m.ua l (64 * i + k))
  | 1 => .ofInt (intElem true m.ua l (128 * i + k))
  | 2 => Fmt.e4m3.decode (byteAt l (64 * i + k))
  | 6 => Fmt.e4m3.decode (byteAt l (64 * i + k))
  | 3 => Fmt.e5m2.decode (byteAt l (64 * i + k))
  | 7 => Fmt.e5m2.decode (byteAt l (64 * i + k))
  | 4 => Fmt.bf16.decode (halfAt l (64 * i + 2 * k))
  | _ => Fmt.f16.decode (halfAt l (64 * i + 2 * k))

/-- Row k, column j of a B tile (R418). -/
def bElem (m : MmaMod) (l : List Byte) (k j : Nat) : Flt :=
  match m.fmt with
  | 0 => .ofInt (intElem false m.ub l (64 * k + j))
  | 1 => .ofInt (intElem true m.ub l (64 * k + j))
  | 2 => Fmt.e4m3.decode (byteAt l (64 * k + j))
  | 7 => Fmt.e4m3.decode (byteAt l (64 * k + j))
  | 3 => Fmt.e5m2.decode (byteAt l (64 * k + j))
  | 6 => Fmt.e5m2.decode (byteAt l (64 * k + j))
  | 4 => Fmt.bf16.decode (halfAt l (128 * k + 2 * j))
  | _ => Fmt.f16.decode (halfAt l (128 * k + 2 * j))

/-- Half-word i of the auxiliary tile from an offset, as I16 (R423). -/
def auxHalf (aux : List Byte) (off i : Nat) : Int := signed 16 (halfAt aux (off + 2 * i))

/-- An exact sum, term by term. -/
def Flt.sum (n : Nat) (f : Nat → Flt) : Flt := (List.range n).foldl (fun (t : Flt) k => t.add (f k)) (Flt.ofInt 0)

/-- The exact group sum p, corrected for zero points (R424). -/
def groupSum (m : MmaMod) (a b aux : List Byte) (i j g : Nat) : Flt :=
  let p := Flt.sum m.g fun k => (aElem m a i (g * m.g + k)).mul (bElem m b (g * m.g + k) j)
  if m.zp then
    let za := auxHalf aux 0xC00 i
    let zb := auxHalf aux 0xC80 j
    p.add (.ofInt (m.g * za * zb - zb * auxHalf aux 0x800 (i * m.groups + g) - za * auxHalf aux 0xA00 (g * 64 + j)))
  else p

/-- The INT32 nearest to a value (R425), and whether it saturated. -/
def sat32 (t : Int) : Nat × Bool :=
  if t < -2147483648 then (2147483648, true)
  else if 2147483647 < t then (2147483647, true) else (i32 t, false)

/-- The integer that an exact integer value holds. -/
def Flt.toInt : Flt → Int
  | .fin n m e => scaled n m e 0
  | _ => 0

/-- The bank word (i, j) after an `MMA`, from its old word, and whether it saturated (R424 to R427). -/
def mmaWord (m : MmaMod) (a b aux : List Byte) (old i j : Nat) : Nat × Bool :=
  if m.grp ≠ 0 then
    ((List.range m.groups).foldl (fun v g =>
      let s := fmul (wordAt aux (4 * (i * m.groups + g))) (wordAt aux (0x400 + 4 * (g * 64 + j)))
      f32 ((ofF32 v).add ((groupSum m a b aux i j g).mul (ofF32 s)))) (if m.acc then old else 0), false)
  else
    let t := groupSum m a b aux i j 0
    if m.isInt then sat32 ((if m.acc then ofI32 old else 0) + t.toInt)
    else (f32 ((if m.acc then ofF32 old else .ofInt 0).add t), false)

/-- The bank after an `MMA`, and how many words saturated. -/
def mmaBank (m : MmaMod) (a b aux old : List Byte) : List Byte × Nat :=
  let r := (List.range 4096).map fun w => mmaWord m a b aux (wordAt old (4 * w)) (w / 64) (w % 64)
  (r.flatMap fun p => leBytes 4 p.1, (r.filter Prod.snd).length)

/-- Word w of the bank after an `MSUM` (R428). -/
def msumWord (m : MmaMod) (l : List Byte) (w : Nat) : Nat :=
  let sum := fun (f : Nat → Flt) => i32 (Flt.sum m.g f).toInt
  if m.col then
    if w < 64 * m.groups then
      sum fun k => bElem { m with ub := m.ua } l (w / 64 * m.g + k) (w % 64)
    else 0
  else if w < 64 * m.groups then sum fun k => aElem m l (w / m.groups) (w % m.groups * m.g + k)
  else 0

def msumBank (m : MmaMod) (l : List Byte) : List Byte := (List.range 4096).flatMap fun w => leBytes 4 (msumWord m l w)

/-! ## Modular matrix mode (R324 to R326, R429, R430) -/

/-- The fields of `MMOD` (R429). -/
structure MmodMod where
  narrow : Bool
  k : Nat
  kreg : Nat
  c : Nat
  deriving DecidableEq, Repr

def MmodMod.of (m : BitVec 18) : MmodMod :=
  ⟨bit m.toNat 17, bits m.toNat 16 11 + 1, bits m.toNat 10 7, 2 ^ bits m.toNat 6 3⟩

/-- The prime-table entries that a mask selects, ascending. -/
def maskList (mask : Nat) : List Nat := (List.range 64).filter (bit mask)

/-- y_j for coefficient r (R324, R325), over an element of `es` bytes: the sum is exact modulo p_j whatever the sizes of
the residues of the source primes. Under an entry that is not sound, or a constant not below p_j, it is free (R875). -/
def mmodWord (es : Nat) (k m c : Nat) (x w : List Byte) (p : Prime) (j r : Nat) : Nat :=
  let el := fun (l : List Byte) i => leNat ((l.drop (es * i)).take es)
  let xs := (List.range k).map fun i => el x (i * c + r)
  let ws := (List.range k).map fun i => el w (i * m + j)
  if p.sound && ws.all (· < p.q) then (List.zipWith (· * ·) xs ws).foldl (· + ·) 0 % p.q
  else peLane 0x108 (xs ++ ws) p.words % 2 ^ (8 * es)

/-- The bytes that an `MMOD` writes to its bank. -/
def mmodBank (es k c : Nat) (x w : List Byte) (ps : List Prime) : List Byte :=
  let m := ps.length
  (List.range (m * c)).flatMap fun e => leBytes es (mmodWord es k m c x w (ps.getD (e / c) Prime.init) (e / c) (e % c))

end Sys2Proof.Machine
end

