-- ==== Sys2Proof/Machine/Flags.lean ====
section
/-! DEFINITION. Comparators and their flags (R268, R269), the summary registers' effects (R442 to R444), and the
max-abs trackers (R445, R446). -/

namespace Sys2Proof.Machine

open Sys2Proof

/-- The truth of a relation, from "less" and "equal". -/
def relation (r : Nat) (lt eq : Bool) (ordered : Bool) : Bool :=
  match r with
  | 0 => lt
  | 1 => lt || eq
  | 2 => eq
  | 3 => !eq
  | 4 => ordered && !lt
  | _ => ordered && !lt && !eq

/-- `source relation threshold` in the type of R268; with a NaN only ≠ holds (R269). -/
def Cmp.holds (m : Cmp) (v : Nat) : Bool :=
  let r := bits m.cfg 5 3
  match bits m.cfg 7 6 with
  | 0 => relation r (decide (v < m.threshold)) (v == m.threshold) true
  | 1 => relation r (decide (ofI32 v < ofI32 m.threshold)) (v == m.threshold) true
  | _ =>
    let a := ofF32 v
    let b := ofF32 m.threshold
    relation r (a.lt b) (a.eqv b) (!a.isNan && !b.isNan)

/-- A configuration that R268 calls invalid. -/
def cmpInvalid (cfg : Nat) : Bool := bits cfg 7 6 == 3 || decide (6 ≤ bits cfg 5 3)

/-- The flag after an evaluation (R269). -/
def Core.evalCmp (k : Core) (m : Cmp) : Cmp :=
  let src := bits m.cfg 11 8
  let v := if src < 8 then Tab.get 0 k.vs src else Tab.get 0 k.lc (src - 8)
  { m with flag := bit m.cfg 0 && m.holds v }

/-- Every comparator is evaluated (R269). -/
def Core.evalCmps (k : Core) : Core :=
  let m := (List.range 4).foldl (fun t i => Tab.set Cmp.init t i (k.evalCmp (Tab.get Cmp.init k.cmps i))) k.cmps
  { k with cmps := m }

/-- Flag i. -/
def Core.flag (k : Core) (i : Nat) : Bool := (Tab.get Cmp.init k.cmps i).flag

/-! ## Summaries -/

def Core.vsAt (k : Core) (i : Nat) : Nat := Tab.get 0 k.vs (i % 8)
def Core.setVs (k : Core) (i v : Nat) : Core := { k with vs := Tab.set 0 k.vs (i % 8) (v % 2 ^ 32) }

/-- a comes before b in the order of a lane class. -/
def laneLt (fl : Bool) (a b : Nat) : Bool :=
  if fl then (ofF32 a).lt (ofF32 b) else decide (ofI32 a < ofI32 b)

/-- A cleared summary register: its value, its seen bit and its count (R237, R442). -/
def Core.clearVs (k : Core) (i : Nat) : Core :=
  { k.setVs i 0 with vsSeen := setBit k.vsSeen i false, vsCount := Tab.set 0 k.vsCount i 0 }

/-- The tracker t (R445): K as stored, or the default of the program start. -/
def Core.tracker (k : Core) (t : Nat) : Tracker := (Tab.get none k.trackers t).getD ⟨0, [], 0, 4⟩

def Core.setTracker (k : Core) (t : Nat) (v : Tracker) : Core := { k with trackers := Tab.set none k.trackers t (some v) }

/-- A reduction's effect at its last beat (R442, R443, R446). -/
def Core.applyVs (k : Core) : VsUpd → Core
  | .sum i fl p => k.setVs i (if fl then fadd (k.vsAt i) p else k.vsAt i + p)
  | .best _ _ _ none => k
  | .best i fl mx (some v) =>
    let old := k.vsAt i
    let better := if mx then laneLt fl old v else laneLt fl v old
    if bit k.vsSeen i then if better then k.setVs i v else k
    else { k.setVs i v with vsSeen := setBit k.vsSeen i true }
  | .arg i fl v n =>
    let base := Tab.get 0 k.vsCount i
    let k := match v with
      | none => k
      | some (x, j) =>
        if bit k.vsSeen i && !laneLt fl (k.vsAt i) x then k
        else { (k.setVs i x).setVs (i + 1) (base + j) with vsSeen := setBit k.vsSeen i true }
    { k with vsCount := Tab.set 0 k.vsCount i (base + n) }
  | .cnt i n => k.setVs i (k.vsAt i + n)
  | .amax t v =>
    let h := k.tracker t
    if laneLt true h.c v then k.setTracker t { h with c := v } else k

/-- The open slot of a tracker closes (R445). -/
def Tracker.close (h : Tracker) : Tracker :=
  let hist := (h.c :: h.hist).take 16
  { h with c := 0, hist := hist, r := (hist.take h.k).foldl (fun m v => if laneLt true m v then v else m) 0 }

end Sys2Proof.Machine
end

