-- ==== Sys2Proof/Machine/Operands.lean ====
section
/-! DEFINITION. Operands of the execute stream: their forms (R247), the storage an engine reaches (R248), the queues
they take entries from (R242 to R244, R876), and what each names. -/

namespace Sys2Proof.Machine

open Sys2Proof

/-- What an operand names. -/
inductive Opd where
  | tile (t gen : Nat)
  | bank (b gen : Nat)
  | ctx (k : Nat)
  /-- a queue that gives no tile: a wrong direction, a token at its head, or no entry -/
  | bad
  deriving DecidableEq, Repr

/-- Operands resolved: the first beat at which their queues are ready (`none`: an entry has yet to arrive), the codes
found, what each operand names, the entries taken from each queue, and the tiles released. -/
structure Resolved where
  ready : Option Nat
  codes : List Nat
  vals : List Opd
  pops : Tab Nat
  rel : List Nat
  deriving DecidableEq, Repr

def Core.queue (k : Core) (q : Nat) : Queue := Tab.get Queue.init k.queues q
def Core.setQueue (k : Core) (q : Nat) (v : Queue) : Core := { k with queues := Tab.set Queue.init k.queues q v }

/-- One operand, after those before it. Operands of one queue take its entries in the order of their fields; a peek
sees the entry that the next would take. DEDUCED (log 31). -/
def resolveOne (k : Core) (r : Resolved) (o : Opnd) : Resolved :=
  match o with
  | .tile t g => { r with vals := r.vals ++ [.tile t g] }
  | .bank b g => { r with vals := r.vals ++ [.bank b g] }
  | .ctx i => { r with vals := r.vals ++ [.ctx i] }
  | .queue q pop release =>
    let u := k.queue q
    let i := Tab.get 0 r.pops q
    if u.toAccess then { r with vals := r.vals ++ [.bad], codes := 0x0105 :: r.codes }
    else match u.entries[i]? with
      | none => { r with vals := r.vals ++ [.bad], ready := none }
      | some (token, t, g, p) =>
        let r := { r with ready := r.ready.map (max (p + 1)) }
        if token then { r with vals := r.vals ++ [.bad], codes := 0x0105 :: r.codes }
        else { r with
          vals := r.vals ++ [.tile t g]
          pops := if pop then Tab.set 0 r.pops q (i + 1) else r.pops
          rel := if pop && release then t :: r.rel else r.rel }

/-- The operands of an instruction planned for beat a, in the order of their fields. -/
def resolve (k : Core) (a : Nat) (os : List Opnd) : Resolved :=
  os.foldl (resolveOne k) ⟨some a, [], [], [], []⟩

/-- Entries leave their queues at beat a (R242, R244). -/
def Core.popAll (k : Core) (pops : Tab Nat) (a : Nat) : Core :=
  pops.foldl (fun k e => k.setQueue e.1 { k.queue e.1 with
    entries := (k.queue e.1).entries.drop e.2
    roomAt := if (k.queue e.1).depth ≤ (k.queue e.1).entries.length then a else (k.queue e.1).roomAt }) k

/-- A queue has room. -/
def Queue.room (q : Queue) : Bool := decide (q.entries.length < q.depth)

/-- An entry joins a queue in beat p. -/
def Core.pushEntry (k : Core) (q : Nat) (token : Bool) (t g p : Nat) : Core :=
  k.setQueue q { k.queue q with entries := (k.queue q).entries ++ [(token, t, g, p)] }

/-! ## Storage (R248) -/

/-- An engine may read what the operand names: 0 PE, 1 ME, 2 VE. -/
def mayRead (eng : Nat) : Opd → Bool
  | .tile t _ => match eng with
    | 0 => decide (t < 16)
    | 1 => decide (16 ≤ t ∧ t < 24)
    | 2 => decide (24 ≤ t)
    | _ => false
  | .bank _ _ => eng == 2
  | .ctx _ => eng == 0 || eng == 2
  | .bad => false

/-- An engine may write what the operand names: 3 is the KXU. -/
def mayWrite (eng : Nat) : Opd → Bool
  | .tile t _ => match eng with
    | 0 => decide (t < 24)
    | 2 => decide (16 ≤ t)
    | 3 => decide (t < 16)
    | _ => false
  | .bank _ _ => eng == 1
  | .ctx _ => eng == 0 || eng == 2
  | .bad => false

/-- Storage number and expected generation (R287). -/
def Opd.storage : Opd → List (Nat × Nat)
  | .tile t g => [(t, g)]
  | .bank b g => [(32 + b, g)]
  | _ => []

def Opd.isCtx : Opd → Bool
  | .ctx _ => true
  | _ => false

/-- The key of a storage's first byte, and its size. -/
def storageKey (c st : Nat) : Nat := if st < 32 then Mem.tile c st 0 else Mem.acc c (st - 32) 0
def storageBytes (st : Nat) : Nat := if st < 32 then 4096 else 16384

end Sys2Proof.Machine
end

