-- ==== Sys2Proof/Machine/Exec.lean ====
section
/-! DEFINITION. The execute stream's engine: when an instruction issues, what the device checks, what happens at its last
beat, and how a block starts and ends (R235 to R245, R250 to R259, R269, R270, R273, R287, R852, R853, R876). -/

namespace Sys2Proof.Machine

open Sys2Proof

/-- Core c runs, in a sector whose domain is powered and not quiesced, and whose pacer is locked (R97, R100, R234). -/
def coreRuns (s : State) (c : Nat) : Bool :=
  (core s c).running && s.supply.mainOn && decide (domainState s (c / 25) ≤ 1) && bit (rd s E.pacer_lock_status) (c / 25)

/-- Core c takes the record f gives it. -/
def onCore (s : State) (c : Nat) (f : Core → Core) : State := setCore s c (f (core s c))

/-! ## Faults (R259, R287) -/

/-- Where a schedule check failed (R257, R287). -/
structure Found where
  kind : Nat
  tile : Nat
  expected : Nat
  found : Nat
  deriving DecidableEq, Repr

/-- What `last_schedule_fault` and the counts take from a fault of block 0x01 (R286, R287). -/
def noteFault (s : State) (c code word beat : Nat) (f : Found) : State :=
  if code / 256 ≠ 1 then s
  else
    let s := wr (wr (wr (wr s E.fault_core c) E.fault_status code) E.fault_kind f.kind) E.fault_word word
    let s := wr (wr (wr (wr s E.fault_beat beat) E.fault_tile f.tile) E.fault_expected_gen f.expected)
      E.fault_found_gen f.found
    if code = 0x0101 then countCore (inc s (E.schedule_fault_count + c / 25)) c 0x00D 1 else s

/-- A fault of the running block: neither stream issues further, and the first fault names the block's status. In C2
mode the next `WAITE` returns it (R240, R259, R284). -/
def faultBlock (s : State) (c code word beat : Nat) (f : Found) : State :=
  onCore (noteFault s c code word beat f) c fun k =>
    if k.c2 then { k with c2Status := if k.c2Status = 0 then code else k.c2Status }
    else { k with
      waiting := 0
      block := k.block.map fun b =>
        { b with fault := if b.fault = 0 then code else b.fault, last := max b.last beat } }

/-! ## Windows in flight (R253, R256 to R258) -/

/-- The generation of a storage after the writes that have ended, and the one at the start of beat a (R256): a load raises its
tile's at the end of its last beat. -/
def Core.gen (k : Core) (t : Nat) : Nat := Tab.get 0 k.gens t % 8
def Core.genAt (k : Core) (t a : Nat) : Nat := if a < Tab.get 0 k.raised t then (k.gen t + 7) % 8 else k.gen t

/-- The end beat of an operation. -/
def Op.last (o : Op) : Nat := o.issue + o.lat - 1

/-- The write windows pending on a storage at beat a: first and last beat; `none` for an AU transfer, which is open. -/
def Core.writesOn (k : Core) (t a : Nat) : List (Nat × Option Nat) :=
  ((k.ops.filter fun o => o.dsts.contains t && decide (a ≤ o.last)).map fun o => (o.issue + o.lat - o.occ, some o.last)) ++
  ((k.xfers.filter fun x => (x.kind == .ldt || x.kind == .ktile) && x.tile == t).map fun x => (x.issue, none)) ++
  if a < Tab.get 0 k.raised t then [(0, some (Tab.get 0 k.raised t - 1))] else []

/-- The read windows pending on a storage at beat a. -/
def Core.readsOn (k : Core) (t a : Nat) : List (Nat × Option Nat) :=
  ((k.ops.filter fun o => o.srcs.contains t && decide (a < o.issue + o.occ)).map
    fun o => (o.issue, some (o.issue + o.occ - 1))) ++
  ((k.xfers.filter fun x => x.kind == .stt && x.tile == t).map fun x => (x.issue, none))

/-- A window meets the beats lo to hi. -/
def meets (lo : Nat) (hi : Option Nat) (w : Nat × Option Nat) : Bool :=
  (match hi with | some h => decide (w.1 ≤ h) | none => true) &&
  (match w.2 with | some e => decide (lo ≤ e) | none => true)

/-- The checks of kinds 1 and 2 on a source read from beat a to `hi`. -/
def Core.checkSrc (k : Core) (a : Nat) (hi : Option Nat) (t g : Nat) : Option Found :=
  if k.genAt t a ≠ g then some ⟨1, t, g, k.genAt t a⟩
  else if (k.writesOn t a).any (meets a hi) then some ⟨2, t, g, k.genAt t a⟩
  else none

/-- The checks of kinds 3 and 4 on a destination written from beat lo to `hi`, at issue beat a. -/
def Core.checkDst (k : Core) (a lo : Nat) (hi : Option Nat) (t g : Nat) : Option Found :=
  let f := (k.genAt t a + (k.writesOn t a).length) % 8
  if (k.readsOn t a).any (meets lo hi) || (k.writesOn t a).any (meets lo hi) then some ⟨3, t, g, f⟩
  else if f ≠ g then some ⟨4, t, g, f⟩
  else none

/-- The first of the lowest kind. -/
def lowestKind (l : List Found) : Option Found :=
  l.foldl (fun m f => match m with
    | none => some f
    | some b => if f.kind < b.kind then some f else m) none

/-! ## Pieces written to tiles and memory -/

/-- One kept piece is written: tiles at once, memory by the rules of a core's write. Poison goes with it; in shadow it goes with
the granule (R150). -/
def putPiece (s : State) (c : Nat) (e : Nat × Option Nat × List Byte × Bool) : State × Nat :=
  if 2 ^ 41 ≤ e.1 then
    let s := wrBytes s e.1 e.2.2.1
    (if e.2.2.2 then markWords s e.1 e.2.2.1.length else s, 0)
  else coreStore s c e.2.1 e.1 e.2.2.1 e.2.2.2

/-- All kept pieces are written; the lowest status stays (R18). -/
def putAll (s : State) (c : Nat) (l : List (Nat × Option Nat × List Byte × Bool)) (st : Nat) : State × Nat :=
  l.foldl (fun p e => let r := putPiece p.1 c e; (r.1, lowestCode [p.2, r.2])) (s, st)

/-! ## The slot wheel (R120 to R125, R141, R142, R478) -/

/-- The owners of the wheel's slots (R121). -/
inductive Owner where
  | pe
  | me
  | ve
  | kxu
  | au
  | port
  | control
  deriving DecidableEq, Repr

/-- The owner of a slot. -/
def slotOwner : Nat → Owner
  | 0 => .pe | 1 => .me | 2 => .pe | 3 => .ve | 4 => .au | 5 => .pe | 6 => .me | 7 => .pe
  | 8 => .ve | 9 => .kxu | 10 => .pe | 11 => .me | 12 => .pe | 13 => .ve | 14 => .port | _ => .control

/-- Beat t is one in which the owner is served by bank b (R120). -/
def serves (o : Owner) (b t : Nat) : Bool := slotOwner ((t + b) % 16) == o

/-- The bank of a core-memory key (R133, R175). -/
def bankOf (k : Nat) : Nat := k / 64 % 16

/-- The first beat from t in which the owner is served by bank b and which no other line has (R122); `fuel` bounds the search. -/
def grantFrom (used : List (Nat × Nat)) (o : Owner) (b : Nat) : Nat → Nat → Nat
  | 0, t => t
  | f + 1, t => if serves o b t && !used.contains (t, b) then t else grantFrom used o b f (t + 1)

/-- The beat and the bank of a line's grant. -/
def Grant.place (g : Grant) : Nat × Nat := (g.beat, bankOf (if g.write then g.dst else g.src))

/-- The first beat, from `ready`, at which an access of the owner to a key is granted. -/
def Core.grantBeat (k : Core) (o : Owner) (key ready : Nat) : Nat :=
  grantFrom (k.grants.map Grant.place) o (bankOf key) (16 * (k.grants.length + 2)) ready

/-- A slot that moves nothing: the first of the two that a strided piece takes (R478), or one kept for a write to come. -/
def emptySlot (key beat : Nat) : Grant := ⟨beat, none, false, key, 0, none, 0, none, none⟩

/-- A slot is taken. -/
def Core.book (k : Core) (g : Grant) : Core := { k with grants := k.grants ++ [g] }

/-- An access takes its slots: the beat in which its line moves. -/
def Core.take (k : Core) (o : Owner) (strided : Bool) (key ready : Nat) : Core × Nat :=
  let t := k.grantBeat o key ready
  if strided then
    let k := k.book (emptySlot key t)
    (k, k.grantBeat o key (t + 1))
  else (k, t)

/-- A transfer of core c takes the record f gives it. -/
def Core.mapXfer (k : Core) (id : Nat) (f : Xfer → Xfer) : Core :=
  { k with xfers := k.xfers.map fun x => if x.id = id then f x else x }

/-- A line is granted (R123, R124): a read takes what the array holds, and a write is in the array at the end of the beat. The
status of a write joins its transfer's; a failure before it fails the group that it would join (R527). -/
def runGrant (s : State) (c : Nat) (g : Grant) : State :=
  let s := onCore s c fun k => { k with grants := k.grants.erase g }
  if g.n = 0 then s
  else
    let s := if g.data.isSome then s else meet s g.src g.n
    let d := g.data.getD (rdBytes s g.src g.n, poisoned s g.src g.n)
    if g.write then
      let x := g.xfer.bind fun i => (core s c).xfers.find? (·.id == i)
      let st := (x.map Xfer.status).getD 0
      let s := match groupOf s c g.dva g.dst with
        | some i => if st = 0 then s else failGroup s none i 0x0506 st
        | none => s
      let r := putPiece s c (g.dst, g.dva, d.1, d.2)
      match x with
      | some x => onCore r.1 c fun k => k.mapXfer x.id fun x => { x with status := if x.status = 0 then r.2 else x.status }
      | none => r.1
    else match g.next, g.xfer with
    | some w, _ => onCore s c fun k => k.book { g with beat := w, write := true, next := none, data := some d }
    | none, some i => onCore s c fun k => k.mapXfer i fun x => { x with writes := x.writes ++ [(g.dst, g.dva, d.1, d.2)] }
    | none, none => s

/-- The line that is granted first; in one beat a read comes before a write (R124, R125). -/
def firstGrant (l : List Grant) : Option Grant :=
  l.foldl (fun m g => match m with
    | none => some g
    | some b => if g.beat < b.beat ∨ (g.beat = b.beat ∧ b.write ∧ !g.write) then some g else m) none

/-- Every line of core c that waits is granted. -/
def flushN : Nat → State → Nat → State
  | 0, s, _ => s
  | f + 1, s, c => match firstGrant (core s c).grants with
    | none => s
    | some g => flushN f (runGrant s c g) c

def flush (s : State) (c : Nat) : State := flushN (2 * (core s c).grants.length) s c

/-- An access to core memory from outside its core finds every line that was on its way: it comes through slot 14, in an order to
the core's own accesses that no rule gives. -/
def settleMem (s : State) (k : Nat) : State :=
  if 2 ^ 39 ≤ k ∧ k < 2 ^ 40 ∧ bits k 31 27 < 25 then flush s (coreAt k) else s

/-! ## Ends of transfers (R242, R244, R256, R258, R475) -/

/-- A transfer's write joins a group. -/
def xferGroup (s : State) (c : Nat) (x : Xfer) : Option Nat :=
  x.writes.findSome? fun e => if 2 ^ 41 ≤ e.1 then none else groupOf s c e.2.1 e.1

/-- What a transfer has kept is written; a failure fails its group (R527). The status it ends with. -/
def settle (s : State) (c : Nat) (x : Xfer) : State × Nat :=
  let s := match xferGroup s c x with
    | some i => if x.status = 0 then s else failGroup s none i 0x0506 x.status
    | none => s
  putAll s c x.writes x.status

/-- The transfer leaves at beat e with a status. -/
def endXfer (s : State) (c : Nat) (x : Xfer) (st e : Nat) : State :=
  let s := onCore s c fun k => { k with
    xfers := k.xfers.filter fun y => y.id != x.id
    beat := max k.beat e, block := k.block.map fun b => { b with last := max b.last e } }
  if st = 0 then s else faultBlock s c st x.word e ⟨0, 0, 0, 0⟩

/-- The key context of a `KTILE` has one more tile loaded; a staging region whose tiles are all loaded is free (R372). -/
def Core.tileLoaded (k : Core) (ctx position : Nat) : Core :=
  let v := Tab.get KeyCtx.init k.keys ctx
  let l := (v.staged.map fun g => if g.position = position then { g with loaded := g.loaded + 1 } else g).filter fun g =>
    g.loaded < v.tiles
  { k with keys := Tab.set KeyCtx.init k.keys ctx { v with staged := l } }

/-- A load ends at beat e: its tile takes its next generation at the end of that beat, and its entry is pushed in it. -/
def finishLoad (s : State) (c : Nat) (x : Xfer) (e : Nat) : State :=
  let r := settle s c x
  let s := onCore r.1 c fun k =>
    let g := (Tab.get 0 k.gens x.tile + 1) % 8
    let k := { k with gens := Tab.set 0 k.gens x.tile g, raised := Tab.set 0 k.raised x.tile (e + 1) }.pushEntry x.queue false x.tile g e
    if x.kind == .ktile then k.tileLoaded x.dstContext x.cursor else k
  endXfer s c x r.2 e

/-- A store or a copy ends at beat e; a pooled tile that it stored is free. -/
def finishStore (s : State) (c : Nat) (x : Xfer) (e : Nat) : State :=
  let r := settle s c x
  let s := if x.kind == .stt && x.pooled then
      onCore r.1 c fun k => { k with free := if bit k.pool x.tile then setBit k.free x.tile true else k.free } else r.1
  endXfer s c x r.2 e

/-- A transfer that fills a tile and pushes it. -/
def Xfer.loads (x : Xfer) : Bool := x.kind == .ldt || x.kind == .ktile

/-- The beat at which a transfer between own core memory and a tile or own core memory ends (R142, R265): `none` for one that
goes further, that holds, or whose queue has no room. -/
def Core.ownEndOf (k : Core) (x : Xfer) : Option Nat :=
  if x.far || x.held.isSome || x.remote != 0 || !(x.loads || x.kind == .stt || x.kind == .cpy) then none
  else if x.loads then if (k.queue x.queue).room then some (max x.ownEnd (k.queue x.queue).roomAt) else none
  else some x.ownEnd

/-- The transfer of this kind that ends first, with its beat. -/
def Core.firstEnd (k : Core) : Option (Xfer × Nat) :=
  k.xfers.foldl (fun m x => match k.ownEndOf x, m with
    | none, _ => m
    | some e, none => some (x, e)
    | some e, some b => if e < b.2 then some (x, e) else m) none

/-! ## Completion (R245, R253, R256, R333, R444, R453) -/

/-- An effect at the last beat of an operation of core c. -/
def applyFx (s : State) (c : Nat) (o : Op) : Fx → State
  | .primes t => onCore s c fun k =>
      { k with
        primes := t
        -- a changed entry leaves the slots built from it unbuilt (R301)
        twiddles := k.twiddles.filter fun e => match e.2 with
          | some w => Tab.get Prime.init t w.entry == Tab.get Prime.init k.primes w.entry
          | none => false }
  | .consts t => onCore s c fun k => { k with consts := t }
  | .galois m g n =>
    let k := core s c
    let ls := (k.primes.filter fun e => e.2.valid).map fun e => e.2.logN
    -- the table in force at the completion governs a GSET (R312)
    match ls.min? with
    | none => faultBlock s c 0x0105 o.word o.issue ⟨0, 0, 0, 0⟩
    | some l => if l < n then faultBlock s c 0x0105 o.word o.issue ⟨0, 0, 0, 0⟩
      else onCore s c fun k => { k with galois := Tab.set none k.galois m (some (g, n)) }
  | .twiddle i w => onCore s c fun k => { k with twiddles := Tab.set none k.twiddles i (some w) }
  | .macc t nw hit prods p0 p1 =>
    let key := Mem.tile c t 0
    let old := wordsOf (rdBytes s key 4096)
    let ins := lanesOf [old, prods]
    -- once for the instruction (R307)
    let s := if hit || old.any (fun w => wordHit nw p0 p1 [w]) then inc s (E.pe_range_count + c / 25) else s
    wrBytes s key (bytesOf (ins.map (wordOp 0x01 nw p0 p1 fun p l => modAdd p (l.getD 0 0) (l.getD 1 0))))
  | .rangeHit => inc s (E.pe_range_count + c / 25)
  | .saturated n => incBy s (E.pe_encode_saturation_count + c / 25) n
  | .peFault n => wr (wr (wr (wr s E.pe_fault_core c) E.pe_fault_word o.word) E.pe_fault_status 0x0303)
      E.pe_fault_prefix_bytes n
  | .mma b m x y aux =>
    let key := Mem.acc c b 0
    let r := mmaBank (MmaMod.of m) x y aux (rdBytes s key 16384)
    incBy (wrBytes s key r.1) (E.me_saturation_count + c / 25) r.2
  | .veFault n => wr (wr (wr (wr s E.vef_core c) E.vef_word o.word) E.vef_status 0x0303) E.vef_prefix_elements n
  | .chains f ws => onCore s c fun k =>
      { k with chains := (ws.zipIdx).foldl (fun t e => Tab.set [] t (f + e.2) e.1) k.chains }
  | .expand i => onCore s c fun k =>
      let v := Tab.get KeyCtx.init k.keys i
      { k with keys := Tab.set KeyCtx.init k.keys i { v with expanded := v.expanded + 1 } }
  | .hcfg t n => onCore s c fun k => k.setTracker t { k.tracker t with hist := [], r := 0, k := n }
  | .hstep m => onCore s c fun k => (List.range 16).foldl (fun k t =>
      if bit m t then k.setTracker t (k.tracker t).close else k) k
  | .vs u => onCore s c fun k => k.applyVs u
  | .nonfinite => inc s (E.ve_nonfinite_count + c / 25)
  | .veSaturated n => incBy s (E.ve_saturation_count + c / 25) n
  | .noise d p n adv => onCore s c fun k =>
      { k with noiseDist := d, noiseParam := p, noiseLog := n, noiseCtr := if adv then k.noiseCtr + 2 ^ n else k.noiseCtr }
  | .marks lo n _ => markWords s lo n

/-- Bytes that an operation writes: tiles and banks at once, memory by the rules of a core's write. -/
def applyWrite (s : State) (c : Nat) (e : Nat × Option Nat × List Byte) : State × Nat :=
  if 2 ^ 41 ≤ e.1 then (wrBytes s e.1 e.2.2, 0) else coreStore s c e.2.1 e.1 e.2.2 false

/-- The words that an effect marks belong to a group. -/
def Fx.group (s : State) (c : Nat) : Fx → Option Nat
  | .marks lo _ va => if 2 ^ 41 ≤ lo then none else groupOf s c va lo
  | _ => none

/-- The group that an operation's writes belong to, if any, the words that it would mark among them (R501, R513, R527). -/
def groupOfOp (s : State) (c : Nat) (o : Op) : Option Nat :=
  (o.writes.findSome? fun e => if 2 ^ 41 ≤ e.1 then none else groupOf s c e.2.1 e.1).or (o.fx.findSome? (Fx.group s c))

/-- An operation completes: its bytes, its generations, its effects, its status (R253, R256, R527). Its
lines of core memory were read at its issue and are written now. DEDUCED (log 204). -/
def completeOp (s : State) (c : Nat) (o : Op) : State :=
  -- the group fails, and with it goes what would have stood in its shadow
  let fx := o.fx.filter fun f => (f.group s c).isNone
  let s := match groupOfOp s c o with
    | some i => if o.status = 0 then s else failGroup s none i 0x0506 o.status
    | none => s
  let r := o.writes.foldl (fun (p : State × Nat) e =>
    let q := applyWrite p.1 c e
    (q.1, lowestCode [p.2, q.2])) (s, 0)
  let s := onCore r.1 c fun k => { k with
    gens := o.dsts.foldl (fun t d => Tab.set 0 t d ((Tab.get 0 t d + 1) % 8)) k.gens
    beat := max k.beat o.last
    block := k.block.map fun b => { b with last := max b.last o.last } }
  let s := fx.foldl (fun t f => applyFx t c o f) s
  let code := if o.status = 0 then r.2 else o.status
  if code = 0 then s else faultBlock s c code o.word o.issue ⟨0, 0, 0, 0⟩

/-- Tiles whose read windows ended before beat a become free (R245). -/
def Core.releaseBefore (k : Core) (a : Nat) : Core :=
  let due := k.ops.filter fun o => decide (o.issue + o.occ ≤ a)
  { k with
    free := (due.flatMap Op.release).foldl (fun m t => if bit k.pool t then setBit m t true else m) k.free
    ops := k.ops.map fun o => if o.issue + o.occ ≤ a then { o with release := [] } else o }

/-- The operation of a list that ends first; the earlier issued of two (R444). -/
def firstOp (l : List Op) : Option Op :=
  l.foldl (fun m o => match m with
    | none => some o
    | some b => if o.last < b.last then some o else m) none

/-- Operation o leaves the list, with the tiles released by then. -/
def Core.endOp (k : Core) (o : Op) : Core :=
  let k := k.releaseBefore (o.last + 1)
  { k with ops := k.ops.erase { o with release := [] } }

/-- What core c does next of itself: the beat (`none`: nothing), and the machine after it. In one beat its reads come first, then
its writes, its operations' ends and its transfers' ends. -/
def nextEvent (s : State) (c : Nat) : Option Nat × State :=
  let k := core s c
  let g := firstGrant k.grants
  let o := firstOp k.ops
  let x := k.firstEnd
  let before := fun (t : Nat) (u : Option Nat) => (u.map fun b => decide (t ≤ b)).getD true
  match g, o, x with
  | some g, o, x =>
    if before g.beat (o.map Op.last) && before g.beat (x.map Prod.snd) then (some g.beat, runGrant s c g)
    else opOrEnd o x
  | none, o, x => opOrEnd o x
where
  opOrEnd (o : Option Op) (x : Option (Xfer × Nat)) : Option Nat × State :=
    match o, x with
    | none, none => (none, s)
    | some o, none => (some o.last, completeOp (onCore s c fun k => k.endOp o) c o)
    | none, some e => (some e.2, ends e)
    | some o, some e =>
      if o.last ≤ e.2 then (some o.last, completeOp (onCore s c fun k => k.endOp o) c o) else (some e.2, ends e)
  ends (e : Xfer × Nat) : State := if e.1.loads then finishLoad s c e.1 e.2 else finishStore s c e.1 e.2

/-- What happens before beat a happens, in order. -/
def retireN : Nat → State → Nat → Nat → State
  | 0, s, _, _ => s
  | f + 1, s, c, a =>
    let e := nextEvent s c
    match e.1 with
    | none => onCore s c fun k => k.releaseBefore a
    | some t => if t < a then retireN f e.2 c a else onCore s c fun k => k.releaseBefore a

/-- Everything of core c that happens before beat a of itself has happened. -/
def retire (s : State) (c a : Nat) : State :=
  retireN ((core s c).ops.length + 2 * (core s c).grants.length + (core s c).xfers.length + 1) s c a

/-! ## Tagging (R852, R853) -/

/-- One step of the 32-bit Galois register of R852. -/
def lfsrStep (v : Nat) : Nat := if v % 2 = 1 then (v / 2) ^^^ 0x80200003 else v / 2

/-- Core c belongs to the partition that is tagged. -/
def tagged (s : State) (c : Nat) : Bool :=
  rd s E.tag_enable == 1 && ownerOf s (c / 25) == some (rd s E.tag_partition)

/-- The record of a tagged instruction (R853). -/
def tagRecord (s : State) (c word eng op status a planned o l : Nat) : List Byte :=
  leBytes 8 (c * 2 ^ 48 + word * 2 ^ 34 + eng * 2 ^ 31 + op * 2 ^ 24 + status % 256 * 2 ^ 16) ++ leBytes 8 a ++
  leBytes 8 (min (fetchLead s.freeCtr) 65535 * 2 ^ 48 + min (a - planned) 65535 * 2 ^ 32 + (o - 1) % 65536 * 2 ^ 16 +
    (l - 1) % 65536) ++ leBytes 8 (now s)

/-- The register of a tagged core advances with an instruction, and a tagged instruction writes its record. -/
def tagIssue (s : State) (c word eng op status a planned o l : Nat) : State :=
  if !tagged s c then s
  else
    let v := lfsrStep (core s c).tagLfsr
    let s := onCore s c fun k => { k with tagLfsr := v }
    if v % 2 ^ rd s E.tag_log2_rate ≠ 0 ∨ rd s E.tag_status ≠ 1 then s
    else
      let va := rd s E.tag_buf_addr + 32 * (rd s E.tag_written % rd s E.tag_buf_records)
      let r := translateFor s (rd s E.tag_partition) .manager .write va
      if r.1 ≠ 0 ∨ 2 ^ 39 + 2 ^ 38 ≤ r.2 then wr s E.tag_status 2
      else
        inc { storeAt s r.2 (tagRecord s c word eng op status a planned o l) with freeCtr := s.freeCtr + 1 } E.tag_written

/-! ## Issue (R250 to R252, R257, R259) -/

/-- What an instruction is, once its operands are known: its failures other than of R257, the storages it reads and
writes with their generations, whether it needs the working store (R319), its beats, and what it does. -/
structure Plan where
  codes : List Nat
  srcs : List (Nat × Nat)
  dsts : List (Nat × Nat)
  work : Bool
  occ : Nat
  lat : Nat
  writes : List (Nat × Option Nat × List Byte)
  fx : List Fx
  status : Nat
  deriving DecidableEq, Repr

/-- An instruction that is invalid for these reasons. -/
def Plan.bad (codes : List Nat) : Plan := ⟨codes, [], [], false, 1, 1, [], [], 0⟩

/-- The check of R257 on a planned instruction at beat a. -/
def Core.schedule (k : Core) (a : Nat) (p : Plan) : Option Found :=
  lowestKind ((p.srcs.filterMap fun e => k.checkSrc a (some (a + p.occ - 1)) e.1 e.2) ++
    (p.dsts.filterMap fun e => k.checkDst a (a + p.lat - p.occ) (some (a + p.lat - 1)) e.1 e.2) ++
    if p.work then (List.range 8).filterMap fun i =>
      (k.checkDst a a (some (a + p.occ - 1)) (8 + i) 8).bind fun f =>
        if f.kind = 3 then some { f with expected := k.gen (8 + i), found := k.gen (8 + i) } else none
    else [])

/-- The working store's writes: T8 to T15 hold free values after the last beat of the occupancy (R319). -/
def workOp (s : State) (c word a occ : Nat) : Op :=
  { eng := 8, word := word, issue := a, occ := occ, lat := occ, dsts := (List.range 8).map (8 + ·), srcs := []
    release := []
    writes := (List.range 8).map fun i =>
      (Mem.tile c (8 + i) 0, none, bytesOf ((List.range 512).map fun w => workWord s.freeCtr (8 + i) w % 2 ^ 64))
    fx := [], status := 0 }

/-- An effect that happens at the issue beat (R361, R445). -/
def Fx.early : Fx → Bool
  | .expand _ => true
  | .hcfg _ _ => true
  | .hstep _ => true
  | _ => false

/-- A core of a paced partition issues later than planned (R836, cause 3). -/
def noteLate (s : State) (c late : Nat) : State :=
  match ownerOf s (c / 25) with
  | some p => if late ≠ 0 ∧ rd s (E.det_mode + p) = 2 then noteNd s 3 (some p) else s
  | none => s

/-- The instruction issues at beat a. -/
def goIssue (s : State) (c eng op word planned a : Nat) (r : Resolved) (p : Plan) : State :=
  let o : Op :=
    { eng := eng, word := word, issue := a, occ := p.occ, lat := p.lat, dsts := p.dsts.map Prod.fst
      srcs := p.srcs.map Prod.fst, release := r.rel, writes := p.writes, fx := p.fx.filter (!·.early), status := p.status }
  let s := (p.fx.filter Fx.early).foldl (fun t f => applyFx t c o f) s
  let w := if p.work then [workOp s c word a p.occ] else []
  let s := onCore s c fun k =>
    let k := k.popAll r.pops a
    { k with
      ops := k.ops ++ w ++ [o]
      busyTo := Tab.set 0 k.busyTo eng (a + max p.occ 1)
      waiting := 0
      beat := max k.beat a
      block := k.block.map fun b => { b with xpos := b.xpos + 1, xbase := a, last := max b.last a } }
  let s := if p.work then { s with freeCtr := s.freeCtr + 1 } else s
  let s := countCore (countCore (countCore (noteLate s c (a - planned)) c 0x002 1) c 0x003 (a - planned)) c (0x004 + eng) p.occ
  tagIssue s c word eng op 0 a planned p.occ p.lat

/-- An instruction of an engine at its beat: its failures are weighed, and it issues or faults. An instruction that is
invalid has no windows, so only 0x0104 and 0x0105 are weighed with it. DEDUCED (log 32). -/
def weigh (s : State) (c eng op word planned a : Nat) (r : Resolved) (p : Plan) : State :=
  let k := core s c
  let busy := if a < Tab.get 0 k.busyTo eng then [0x0104] else []
  let codes := r.codes ++ p.codes ++ busy
  let sched := if codes.contains 0x0105 then none else k.schedule a p
  let code := lowestCode (codes ++ if sched.isSome then [0x0101] else [])
  if code = 0 then goIssue s c eng op word planned a r p
  else
    let f := if code = 0x0101 then sched.getD ⟨0, 0, 0, 0⟩ else ⟨0, 0, 0, 0⟩
    tagIssue (faultBlock s c code word a f) c word eng op code a planned 1 1

/-- The planned beat of the block's next execute-stream instruction (R250). -/
def Block.planned (b : Block) (issue : Nat) : Nat := b.xbase + issue

/-- An operand's storage is read: its errors are met (R147 to R151). -/
def meetOperand (c : Nat) (s : State) : Opd → State
  | .tile t _ => meet s (Mem.tile c t 0) 4096
  | .bank b _ => meet s (Mem.acc c b 0) 16384
  | .ctx i => (ownPieces s c i false).2.foldl (fun t p => meet t p.1 p.2.2) s
  | .bad => s

def meetOperands (s : State) (c : Nat) (l : List Opd) : State :=
  if s.flips.isEmpty then s else l.foldl (meetOperand c) s

/-- A native-mode instruction of an engine (R250, R251, R876). `plan` says what it is from the state, the beat and its
operands. -/
def issueNative (s : State) (c eng op : Nat) (x : XIns) (os : List Opnd)
    (plan : State → Nat → List Opd → Plan) : State :=
  match (core s c).block with
  | none => s
  | some b =>
    if b.xdone ∨ b.fault ≠ 0 then s
    else
      let word := b.word + b.xpos
      let planned := b.planned x.issue
      if b.length ≤ b.xpos then faultBlock s c 0x0105 word planned ⟨0, 0, 0, 0⟩
      else
        let r := resolve (core s c) planned os
        match r.ready with
        | none => onCore s c fun k => { k with waiting := 1 }
        | some a =>
          let s := meetOperands (retire s c a) c r.vals
          if ((core s c).block.map Block.fault).getD 1 ≠ 0 then s
          else weigh s c eng op word planned a r (plan s a r.vals)

/-- The head of an engine's C2 command queue (R281): queues 1 to 4 are the engines'. -/
def Core.c2Head (k : Core) (q : Nat) : Option Nat := (Tab.get [] k.c2q q).head?

/-- The front-bank word of the `ENQ` that pushed it (R287). -/
def Core.c2Word (k : Core) (q : Nat) : Nat := (k.c2Head q).getD 0 / 2 ^ 64

/-- The head command leaves its queue. -/
def Core.c2Pop (k : Core) (q : Nat) : Core := { k with c2q := Tab.set [] k.c2q q (Tab.get [] k.c2q q).tail }

/-- Some command of the AU's queue, or some transfer in flight, will push queue q (R284): `LDT`, `TOK`, and the key and
lacing operations that push. -/
def Core.willPush (k : Core) (q : Nat) : Bool :=
  (Tab.get [] k.c2q 0).any (fun w => bits w 52 50 == q && [1, 4, 0x20, 0x22, 0x25, 0x31].contains (bits w 63 58)) ||
  k.xfers.any fun x => x.queue == q && (x.kind == .ldt || x.kind == .ktile || x.kind == .kopen)

/-- Queues from which an instruction pops more entries than they hold (R284). -/
def missingQueues (k : Core) (os : List Opnd) : List Nat :=
  (List.range 8).filter fun q =>
    let pops := os.filter fun o => match o with
      | .queue r pop _ => r == q && pop
      | _ => false
    decide ((k.queue q).entries.length < pops.length)

/-- The operand field of a C2 command names no generation (R247, R281). -/
def genClear (f : Nat) : Bool := bits f 9 8 % 3 != 0 || bits f 2 0 == 0

/-- The operations of an engine (R310, R360, R419, R431) and of stream control (R255). -/
def engOps : Nat → List Nat
  | 0 => [0x01, 0x02, 0x03, 0x04, 0x05, 0x06, 0x08, 0x09, 0x10, 0x11, 0x12, 0x13, 0x14, 0x18, 0x19, 0x1A, 0x20, 0x21, 0x22]
  | 1 => [0x01, 0x02, 0x08]
  | 2 => [0x01, 0x02, 0x03, 0x04, 0x05]
  | 3 => [0x01, 0x02, 0x03]
  | 7 => [0x00, 0x01, 0x02, 0x03, 0x04, 0x05, 0x06, 0x7F]
  | _ => []

/-- A word is an execute-stream instruction (R246), an access-stream instruction (R264, R367, R489). -/
def execDefined (w : Nat) : Bool := (engOps (bits w 57 55)).contains (bits w 54 48)
def accessDefined (w : Nat) : Bool :=
  [0x01, 0x02, 0x03, 0x04, 0x05, 0x06, 0x20, 0x21, 0x22, 0x23, 0x24, 0x25, 0x30, 0x31, 0x32, 0x33, 0x3F].contains (bits w 63 58)

/-- A word of an engine's C2 queue is an instruction (R246), and meets the conditions of R281. An `eng` of 7 stands for `NOP`
and `PUSHK`, which R280 allows there. DEDUCED (log 33). -/
def c2Valid (eng w : Nat) : Bool :=
  execDefined w && bits w 63 58 == 0 && (bits w 57 55 == eng || bits w 57 55 == 7) &&
    genClear (bits w 47 38) && genClear (bits w 37 28) && genClear (bits w 27 18)

/-- An engine's C2 command ends with a status: the engine stops, and the next `WAITE` returns it (R284). -/
def c2Fail (s : State) (c q code a : Nat) : State :=
  let s := noteFault s c code ((core s c).c2Word q) a ⟨0, 0, 0, 0⟩
  onCore s c fun k => { k.c2Pop q with
    c2Stopped := setBit k.c2Stopped q true, c2Status := if k.c2Status = 0 then code else k.c2Status }

/-- A C2-mode command of an engine, at the head of its queue (R282, R284): it starts when its sources and destination
are clear and its queues hold entries, and none of the checks of R257 is made. -/
def issueC2 (s : State) (c eng op : Nat) (os : List Opnd) (plan : State → Nat → List Opd → Plan) : State :=
  let k := core s c
  let q := eng + 1
  let w := (k.c2Head q).getD 0
  let a0 := max k.beat (Tab.get 0 k.busyTo eng)
  if (k.c2Head q).isNone ∨ bit k.c2Stopped q then s
  else if !c2Valid eng w then c2Fail s c q 0x0105 a0
  else if bits w 57 55 ≠ eng ∨ bits w 54 48 ≠ op then s
  else
    let r := resolve k a0 os
    match r.ready with
    | none =>
      if (missingQueues k os).any fun i => !k.willPush i then
        let s := noteFault (inc s E.c2_underrun_count) c 0x0102 (k.c2Word q) a0 ⟨0, 0, 0, 0⟩
        onCore s c fun k => { k with c2Stopped := setBit k.c2Stopped q true, c2Status := 0x0102 }
      else onCore s c fun k => { k with waiting := 1 }
    | some a1 =>
      let p0 := plan s a1 r.vals
      -- two beats after the latency of what stands in its way allows
      let ends := (k.ops.filter fun o => (p0.srcs.any fun e => o.dsts.contains e.1) ||
        (p0.dsts.any fun e => o.dsts.contains e.1 || o.srcs.contains e.1) || (p0.work && o.dsts.any fun d => 8 ≤ d ∧ d < 16)).map
        fun o => o.last + 3
      let a := ends.foldl max a1
      let blocked := k.xfers.any fun x =>
        ((x.kind == .ldt || x.kind == .ktile) && (p0.srcs ++ p0.dsts).any fun e => e.1 == x.tile) ||
        (x.kind == .stt && p0.dsts.any fun e => e.1 == x.tile)
      if blocked then onCore s c fun k => { k with waiting := 1 }
      else
        let s := meetOperands (retire s c a) c r.vals
        let p := plan s a r.vals
        let code := lowestCode (r.codes ++ p.codes)
        if code = 0 then goIssue (onCore s c fun k => k.c2Pop q) c eng op (k.c2Word q) a a r p
        else c2Fail s c q code a

/-- An instruction of engine `eng` (0 PE, 1 ME, 2 VE, 3 KXU) of core c. -/
def issue (s : State) (c eng op : Nat) (x : XIns) (os : List Opnd) (plan : State → Nat → List Opd → Plan) : State :=
  if !coreRuns s c then s
  else if (core s c).c2 then issueC2 s c eng op os plan else issueNative s c eng op x os plan

/-! ## Blocks (R235 to R240, R269, R270, R273) -/

/-- The header checks of R236 and R458 on the block at word w. -/
def blockValid (s : State) (c w : Nat) : Bool :=
  let h := frontWord s c w
  let e := bits h 47 34
  let l := bits h 33 20
  bits h 63 48 == 0x5642 && decide (5 ≤ e ∧ e ≤ l - 1 ∧ e < l ∧ w + l ≤ 16128)

/-- A block starts at word w and beat b0 (R237). -/
def startBlock (s : State) (c w b0 : Nat) : State :=
  let h := frontWord s c w
  let h1 := frontWord s c (w + 1)
  let lo := frontWord s c (w + 2)
  let hi := frontWord s c (w + 3)
  let init := fun n => if n < 4 then bits lo (16 * n + 15) (16 * n) else bits hi (16 * n - 49) (16 * n - 64)
  onCore s c fun k =>
    let k := (List.range 8).foldl (fun k n => if bit h (4 + n) then k.clearVs n else k) k
    { k with
      pool := bits h1 63 32
      free := bits h1 63 32
      queues := (List.range 8).foldl (fun t n =>
        Tab.set Queue.init t n ⟨bit h1 (4 * n + 3), bits h1 (4 * n + 2) (4 * n) + 1, [], b0⟩) []
      lc := (List.range 8).foldl (fun t n => if bit h (12 + n) then Tab.set 0 t n (init n) else t) k.lc
      lcInit := (List.range 8).foldl (fun t n => Tab.set 0 t n (init n)) []
      cursors := []
      waiting := 0
      block := some ⟨w, b0, bits h 47 34, bits h 33 20, bits h 47 34, b0, false, 4, b0, false, 0, b0⟩ }

/-- A block is over, or did not start: its status is known from beat t (R239, R272 `WAITB`). -/
def Core.blockOver (k : Core) (st t : Nat) : Core :=
  { k with lastStatus := st, lastEnd := t, ended := if k.cbeat < t then k.ended ++ [(t, st)] else k.ended }

/-- The block that is pending starts, or fails its checks (R236, R238, R273, R287); e is the deciding beat. -/
def startPending (s : State) (c e : Nat) : State :=
  let k := core s c
  match k.pendBlock with
  | none => s
  | some p =>
    let w := if p.flag < 4 && !k.flag p.flag then p.xb else p.xa
    let s := onCore s c fun k => { k with pendBlock := none, pendStart := e + 1 }
    if blockValid s c w then startBlock s c w (e + 1)
    else onCore (noteFault s c 0x0105 p.word p.beat ⟨0, 0, 0, 0⟩) c fun k => k.blockOver 0x0105 (e + 1)

/-- Some queue holds an entry. -/
def Core.queuesHold (k : Core) : Bool := (List.range 8).any fun q => !(k.queue q).entries.isEmpty

/-- The running block ends (R239, R240): every part has ended or stopped, every instruction has completed and no
transfer is in flight. Its status is known from the next beat, the comparators and summaries are taken, and a pending
block starts. -/
def blockEnd (s : State) (c : Nat) : State :=
  match (core s c).block with
  | none => s
  | some b =>
    let s := if b.fault ≠ 0 ∨ (b.xdone ∧ b.adone) then
        retire s c (((core s c).ops.map fun o => o.last + 1).foldl max
          (((core s c).xfers.filterMap fun x => (core s c).ownEndOf x).foldl (fun m e => max m (e + 1)) 0)) else s
    match (core s c).block with
    | none => s
    | some b =>
      if (b.fault = 0 ∧ !(b.xdone && b.adone)) ∨ !(core s c).xfers.isEmpty then s
      else
        let st := if b.fault ≠ 0 then b.fault else if (core s c).queuesHold then 0x0106 else 0
        -- a queue that is not empty is no instruction's fault: the block's header word and end stand in the record (log 189)
        let s := if b.fault = 0 then noteFault s c st b.word b.last ⟨0, 0, 0, 0⟩ else s
        let s := onCore s c fun k =>
          let k := k.evalCmps.blockOver st (b.last + 1)
          { k with block := none, vsSnap := k.vs, beat := max k.beat b.last, waiting := 0 }
        startPending s c b.last

/-- The oldest operation of an engine completes, with everything that ends before it (R253, R444). -/
def engineComplete (s : State) (c eng : Nat) : State :=
  match firstOp ((core s c).ops.filter fun o => o.eng == eng) with
  | none => s
  | some o => retire s c (o.last + 1)

/-- The number of an engine as `eng` of R246 has it; the AU has no engine operations. -/
def engNum : Eng → Nat
  | .pe => 0
  | .me => 1
  | .ve => 2
  | .kxu => 3
  | .au => 15

def execEngineOpComplete (c : Nat) (e : Eng) (s : State) : Res :=
  guarded (decide (c < 800)) s (if coreRuns s c then engineComplete s c (engNum e) else s)

end Sys2Proof.Machine
end

