-- ==== Sys2Proof/Machine/StreamCtl.lean ====
section
/-! DEFINITION. The stream-control operations of the execute stream (R242 to R245, R250 to R252, R255, R266, R267, R280,
R876). -/

namespace Sys2Proof.Machine

open Sys2Proof

/-- The beat at which a push to queue q, planned for beat a, finds room; `none` while the queue is full (R244). -/
def pushBeat (k : Core) (q a : Nat) : Option Nat :=
  if (k.queue q).room then some (max a (k.queue q).roomAt) else none

/-- The beat at which an entry of queue q may be popped (R242, R244). -/
def popBeat (k : Core) (q a : Nat) : Option Nat :=
  match (k.queue q).entries with
  | [] => none
  | e :: _ => some (max a (e.2.2.2 + 1))

/-- The head of queue q is a token. -/
def headIsToken (k : Core) (q : Nat) : Bool :=
  match (k.queue q).entries with
  | [] => false
  | e :: _ => e.1

/-- A stream-control instruction, once it is known to issue at beat a: the codes it fails with, the tile it reads with
its expected generation, and what it does to its core. -/
structure CtlPlan where
  codes : List Nat
  src : Option (Nat × Nat)
  occ : Nat
  act : Core → Core

/-- The next instruction stands at word `pos` of the block and counts from beat `base`. -/
def Core.stepTo (k : Core) (pos base a : Nat) : Core :=
  { k with
    busyTo := Tab.set 0 k.busyTo 7 (a + 1)
    waiting := 0
    beat := max k.beat a
    block := k.block.map fun b => { b with xpos := pos, xbase := base, last := max b.last a } }

/-- A stream-control instruction of core c. `when` gives the beat of issue from the planned beat (`none`: it waits), and
the codes that a wrong queue gives at once. -/
def control (s : State) (c op : Nat) (x : XIns) (early : Core → List Nat) (whenReady : Core → Nat → Option Nat)
    (plan : Core → Block → Nat → CtlPlan) : State :=
  match (core s c).block with
  | none => s
  | some b =>
    if b.xdone ∨ b.fault ≠ 0 then s
    else
      let word := b.word + b.xpos
      let planned := b.planned x.issue
      if b.length ≤ b.xpos ∨ (early (core s c)).contains 0x0105 then faultBlock s c 0x0105 word planned ⟨0, 0, 0, 0⟩
      else match whenReady (core s c) planned with
      | none => onCore s c fun k => { k with waiting := 1 }
      | some a =>
        let s := retire s c a
        if ((core s c).block.map Block.fault).getD 1 ≠ 0 then s
        else
          let k := core s c
          let p := plan k b a
          let busy := if a < Tab.get 0 k.busyTo 7 then [0x0104] else []
          let codes := p.codes ++ busy
          let sched := if codes.contains 0x0105 then none else p.src.bind fun e => k.checkSrc a (some a) e.1 e.2
          let code := lowestCode (codes ++ if sched.isSome then [0x0101] else [])
          if code = 0 then
            let s := countCore (countCore (noteLate (onCore s c p.act) c (a - planned)) c 0x002 1) c 0x003 (a - planned)
            tagIssue s c word 7 op 0 a planned (max p.occ 1) (max p.occ 1)
          else
            let f := if code = 0x0101 then sched.getD ⟨0, 0, 0, 0⟩ else ⟨0, 0, 0, 0⟩
            tagIssue (faultBlock s c code word a f) c word 7 op code a planned 1 1

/-- No queue is touched: the instruction issues as planned. -/
def atOnce (_ : Core) (a : Nat) : Option Nat := some a
def noCodes (_ : Core) : List Nat := []

/-- In C2 mode a stream-control command stands at the head of some engine's queue; `NOP` and `PUSHK` act, and every
other returns 0x0105 (R280, R281). -/
def controlC2 (s : State) (c op : Nat) (ok : Bool) (act : Core → Option Core) : State :=
  let k := core s c
  match [1, 2, 3, 4].find? (fun q => match k.c2Head q with
    | some w => bits w 57 55 == 7 && bits w 54 48 == op
    | none => false) with
  | none => s
  | some q =>
    if !c2Valid (q - 1) ((k.c2Head q).getD 0) then c2Fail s c q 0x0105 k.beat
    else if ok then
      match act k with
      | some k' => setCore s c (k'.c2Pop q)
      | none => onCore s c fun k => { k with waiting := 1 }
    else
      let s := noteFault s c 0x0105 (k.c2Word q) k.beat ⟨0, 0, 0, 0⟩
      onCore s c fun k => { k.c2Pop q with c2Status := if k.c2Status = 0 then 0x0105 else k.c2Status }

/-- The instruction in the mode of its core. -/
def controlOf (s : State) (c : Nat) (native c2 : State) : State :=
  if !coreRuns s c then s else if (core s c).c2 then c2 else native

/-- `NOP`. -/
def nop (s : State) (c : Nat) (x : XIns) : State :=
  controlOf s c
    (control s c 0x00 x noCodes atOnce fun _ b a => ⟨[], none, 0, fun k => k.stepTo (b.xpos + 1) a a⟩)
    (controlC2 s c 0x00 true some)

def execNop (c : Nat) (x : XIns) (s : State) : Res := guarded (decide (c < 800)) s (nop s c x)

/-- `WAIT` adds n beats before the next instruction (R250, R255). -/
def waitN (s : State) (c : Nat) (x : XIns) : State :=
  controlOf s c
    (control s c 0x01 x noCodes atOnce fun _ b a =>
      ⟨[], none, 0, fun k => k.stepTo (b.xpos + 1) (a + bits x.mod.toNat 15 0) a⟩)
    (controlC2 s c 0x01 false some)

def execWait (c : Nat) (x : XIns) (s : State) : Res := guarded (decide (c < 800)) s (waitN s c x)

/-- What a `LOOP` does to its counter (R267), and whether it is taken. -/
def Core.loopTaken (k : Core) (n : Nat) : Bool := decide (1 < Tab.get 0 k.lc n)
def Core.loopStep (k : Core) (n : Nat) : Core :=
  { k with lc := Tab.set 0 k.lc n (if k.loopTaken n then Tab.get 0 k.lc n - 1 else Tab.get 0 k.lcInit n) }

/-- The execute stream's `LOOP` on LC0 to LC3 (R266, R267, R876). -/
def loopOp (s : State) (c : Nat) (x : XIns) : State :=
  let n := bits x.mod.toNat 17 16
  let d := bits x.mod.toNat 13 0
  controlOf s c
    (control s c 0x02 x noCodes atOnce fun k b a =>
      let out := k.loopTaken n && decide (b.xpos < b.exeStart + d)
      ⟨if out then [0x0105] else [], none, 0,
        fun k => (k.loopStep n).stepTo (if k.loopTaken n then b.xpos - d else b.xpos + 1) a a⟩)
    (controlC2 s c 0x02 false some)

def execExecLoop (c : Nat) (x : XIns) (s : State) : Res := guarded (decide (c < 800)) s (loopOp s c x)

/-- A queue that the execute stream may push (R243). -/
def notPushed (q : Nat) (k : Core) : List Nat := if (k.queue q).toAccess then [] else [0x0105]
def notPopped (q : Nat) (k : Core) : List Nat := if (k.queue q).toAccess then [0x0105] else []

/-- The read of tile t by a stream-control instruction in beat a (R254). -/
def readOp (word a t : Nat) : Op :=
  { eng := 7, word := word, issue := a, occ := 1, lat := 1, dsts := [], srcs := [t], release := [], writes := [], fx := [], status := 0 }

/-- `PUSH` reads a tile as a source and pushes its entry (R255). -/
def push (s : State) (c : Nat) (x : XIns) : State :=
  let q := bits x.mod.toNat 2 0
  controlOf s c
    (control s c 0x03 x (notPushed q) (fun k a => pushBeat k q a) fun _ b a =>
      match x.dst with
      | .tile t g => ⟨[], some (t, g), 1, fun k =>
        { (k.pushEntry q false t g a).stepTo (b.xpos + 1) a a with ops := k.ops ++ [readOp (b.word + b.xpos) a t] }⟩
      | _ => ⟨[0x0105], none, 1, id⟩)
    (controlC2 s c 0x03 false some)

def execPush (c : Nat) (x : XIns) (s : State) : Res := guarded (decide (c < 800)) s (push s c x)

/-- `PUSHK` pushes a token (R255). -/
def pushK (s : State) (c : Nat) (x : XIns) : State :=
  let q := bits x.mod.toNat 2 0
  controlOf s c
    (control s c 0x04 x (notPushed q) (fun k a => pushBeat k q a) fun _ b a =>
      ⟨[], none, 0, fun k => (k.pushEntry q true 0 0 a).stepTo (b.xpos + 1) a a⟩)
    (controlC2 s c 0x04 true fun k => if (k.queue q).room then some (k.pushEntry q true 0 0 k.beat) else none)

def execPushk (c : Nat) (x : XIns) (s : State) : Res := guarded (decide (c < 800)) s (pushK s c x)

/-- `POPK` pops a token (R255, R876). -/
def popK (s : State) (c : Nat) (x : XIns) : State :=
  let q := bits x.mod.toNat 2 0
  controlOf s c
    (control s c 0x05 x (notPopped q) (fun k a => popBeat k q a) fun k b a =>
      ⟨if headIsToken k q then [] else [0x0105], none, 0,
        fun k => (k.popAll [(q, 1)] a).stepTo (b.xpos + 1) a a⟩)
    (controlC2 s c 0x05 false some)

def execPopk (c : Nat) (x : XIns) (s : State) : Res := guarded (decide (c < 800)) s (popK s c x)

/-- `FREE` frees a pool tile at its issue beat (R245, R255); a tile outside the pool is not in it to free.
DEDUCED (log 34). -/
def freeTile (s : State) (c : Nat) (x : XIns) : State :=
  controlOf s c
    (control s c 0x06 x noCodes atOnce fun _ b a =>
      match x.dst with
      | .tile t _ => ⟨[], none, 1,
        fun k => { k.stepTo (b.xpos + 1) a a with free := if bit k.pool t then setBit k.free t true else k.free }⟩
      | _ => ⟨[0x0105], none, 1, id⟩)
    (controlC2 s c 0x06 false some)

def execFree (c : Nat) (x : XIns) (s : State) : Res := guarded (decide (c < 800)) s (freeTile s c x)

/-- An undefined word where the execute stream ends is an invalid instruction, planned by its issue field (R246, R250). -/
def badWord (s : State) (c : Nat) : State :=
  match (core s c).block with
  | none => s
  | some b =>
    if b.xdone ∨ b.fault ≠ 0 then s
    else
      let a := b.planned (bits (frontWord s c (b.word + b.xpos)) 63 58)
      faultBlock (retire s c a) c 0x0105 (b.word + b.xpos) a ⟨0, 0, 0, 0⟩

/-- The word at the execute stream's place is undefined. -/
def execUndefined (s : State) (c : Nat) : Bool :=
  (core s c).block.any fun b => decide (b.xpos < b.length) && !execDefined (frontWord s c (b.word + b.xpos))

/-- `END` ends the execute part (R255); it is the row that meets an undefined word at the stream's place. DEDUCED (log 202). -/
def endExecute (s : State) (c : Nat) (x : XIns) : State :=
  controlOf s c
    (if execUndefined s c then badWord s c else control s c 0x7F x noCodes atOnce fun _ b a =>
      ⟨[], none, 0, fun k =>
        let k := k.stepTo (b.xpos + 1) a a
        { k with block := k.block.map fun b => { b with xdone := true } }⟩)
    (controlC2 s c 0x7F false some)

def execExecEnd (c : Nat) (x : XIns) (s : State) : Res := guarded (decide (c < 800)) s (endExecute s c x)

end Sys2Proof.Machine
end

