-- ==== Sys2Proof/Machine/Au.lean ====
section
/-! DEFINITION. The address unit: how an access-stream instruction issues, how a transfer moves, holds, resumes and ends
(R242 to R245, R257 to R259, R263 to R267, R280 to R284, R464, R470 to R475, R872, R876). -/

namespace Sys2Proof.Machine

open Sys2Proof

/-! ## Walks from a cursor (R461, R464, R476) -/

/-- n bytes of a walk from byte position `cur`, as pieces that stay within a row or an element, and in a line walk
within a 64 B line; over start address a. -/
def walkFrom (x : Ctx) (a : Int) : Nat → Nat → Nat → List (Int × Nat)
  | 0, _, _ => []
  | f + 1, cur, n =>
    if n = 0 then []
    else
      let unit := if x.walk = 0 then x.n0 * x.esize else x.esize
      let p := cur % x.bytes
      let w := p % unit
      let room := if x.walk = 0 then min (unit - w) (64 - w % 64) else unit - w
      let m := max 1 (min room n)
      (x.addr a (if x.walk = 0 then p / unit * x.n0 else p / unit) + w, m) :: walkFrom x a f (p + m) (n - m)

/-- Two sides of a transfer, byte for byte: source address, destination address, bytes. -/
def pairUp : Nat → List (Int × Nat) → List (Int × Nat) → List (Int × Int × Nat)
  | 0, _, _ => []
  | _, [], _ => []
  | _, _, [] => []
  | f + 1, (a, m) :: s, (b, n) :: t =>
    let k := min m n
    (a, b, k) :: pairUp f (if m = k then s else (a + k, m - k) :: s) (if n = k then t else (b + k, n - k) :: t)

/-- The 64 lines of a tile, or what a tile's worth of bytes is cut to. -/
def tileSide : List (Int × Nat) := (List.range 64).map fun i => ((64 * i : Nat), 64)

/-! ## Where a transfer's pieces lie -/

/-- Which sides of a transfer are contexts. -/
def Xfer.fromTile (x : Xfer) : Bool := x.kind == .stt || x.kind == .kchain
def Xfer.toTile (x : Xfer) : Bool := x.kind == .ldt

/-- The pieces of a transfer from its first byte. -/
def xferPieces (s : State) (c : Nat) (x : Xfer) : List (Int × Int × Nat) :=
  let src := if x.fromTile then tileSide else walkFrom (ctxOf s c x.context) x.start x.length x.cursor x.length
  let dn := if x.kind == .cpy then x.dstContext else x.context
  let dst := if x.toTile then tileSide else walkFrom (ctxOf s c dn) x.dstStart x.length x.dstCursor x.length
  pairUp (src.length + dst.length + 1) src dst

/-- The pieces after the first n bytes; holds fall between pieces. -/
def dropBytes : List (Int × Int × Nat) → Nat → List (Int × Int × Nat)
  | [], _ => []
  | p :: t, n => if p.2.2 ≤ n then dropBytes t (n - p.2.2) else p :: t

/-- The code and the key of one address of one side. A write of a core bound to a local group goes through no window
within its filter (R529). -/
def sideAt (s : State) (c : Nat) (tile : Bool) (t ctx : Nat) (n : Need) (va : Int) : Nat × Nat :=
  if tile then (0, Mem.tile c t va.toNat)
  else
    let r := ctxAccess s c (ctxOf s c ctx) n va
    if r.1 = 0 ∧ isOutbound r.2 then
      let code := handleCode s (ownerOf s (c / 25)) (outHandle r.2)
      let grp := if n == .write then (groupOf s c (some va.toNat) r.2).bind (findGroup s none) else none
      if grp.any (fun g => !g.fabric) then (0x0505, 0) else (code, r.2)
    else r

/-- A piece with its keys, or the code and address that stop it, and the context of that address. -/
structure Placed where
  code : Nat
  miss : Int
  ctx : Nat
  src : Nat
  dst : Nat
  dva : Nat
  n : Nat
  deriving DecidableEq, Repr

def place (s : State) (c : Nat) (x : Xfer) (p : Int × Int × Nat) : Placed :=
  let r := if x.kind == .kchain then (0, Mem.hbm (0x10000000 + 0x1000 * x.tile + p.1.toNat))
    else sideAt s c x.fromTile x.tile x.context .read p.1
  let dn := if x.kind == .cpy then x.dstContext else x.context
  let d := sideAt s c x.toTile x.tile dn .write p.2.1
  if r.1 ≠ 0 then ⟨r.1, p.1, x.context, 0, 0, 0, 0⟩
  else if d.1 ≠ 0 then ⟨d.1, p.2.1, dn, 0, 0, 0, 0⟩
  else ⟨0, 0, 0, r.2, d.2, p.2.1.toNat, p.2.2⟩

/-! ## Moving bytes -/

/-- The status of a read of n bytes, for a reader in core c, and whether the bytes come marked poisoned (R150, R186, R202): a
core's own memory marks, and everything further away also answers, its own sector's commons too. DESIGN CHOICE (log 190). -/
def readStatus (s : State) (c k n : Nat) : Nat × Bool :=
  if 2 ^ 41 ≤ k then (0, poisoned s k n)
  else if k < 2 ^ 38 then hbmStatus s k n .clean
  else if ownCm c k then (0, poisoned s k n)
  else if poisoned s k n then (0x0303, true) else (0, false)

/-- Adjacent bytes of one handle joined, up to `cap` bytes (R590). -/
def coalesce (cap : Nat) : List (Nat × Option Nat × List Byte) → List (Nat × Option Nat × List Byte)
  | [] => []
  | e :: t => match coalesce cap t with
    | [] => [e]
    | f :: r =>
      if e.1 + e.2.2.length = f.1 ∧ outHandle e.1 = outHandle f.1 ∧ e.2.2.length + f.2.2.length ≤ cap ∧ e.2.1.isSome = f.2.1.isSome then
        (e.1, e.2.1, e.2.2 ++ f.2.2) :: r
      else e :: f :: r

/-- The group that a core's write through a window carries. -/
def groupRef (s : State) (c : Nat) (va k : Nat) : Option Nat :=
  match groupOf s c (some va) k with
  | some i => if (findGroup s none i).any (·.fabric) then some i else none
  | none => none

/-- WRITEs for bytes read by transfer `id` of core c. -/
def sendWrites (s : State) (c id : Nat) (l : List (Nat × Nat × List Byte)) : State :=
  (coalesce 3840 (l.map fun e => (e.1, groupRef s c e.2.1 e.1, e.2.2))).foldl
    (fun t e => request t (outHandle e.1)
      ⟨0, 1, (handle t (outHandle e.1)).base + outOffset e.1, 0, e.2.2, e.2.1, 0, .xfer c id 0 none⟩) s

/-- READs for pieces that lie behind windows. -/
def sendReads (s : State) (c id : Nat) (l : List Placed) : State :=
  l.foldl (fun t p => request t (outHandle p.src)
    ⟨0, 2, (handle t (outHandle p.src)).base + outOffset p.src, (p.n + 7) / 8, [], none, 0, .xfer c id p.dst (some p.dva)⟩) s

/-- The engine that a tile feeds: 0 PE, 1 ME, 2 VE. -/
def tileEngine (t : Nat) : Nat := if t < 16 then 0 else if t < 24 then 1 else 2

/-- The owner whose slots move the lines of a transfer (R121, R137): the engine that owns its tile, or the AU's own for `CPY`. -/
def Xfer.owner (x : Xfer) : Owner :=
  if x.kind == .cpy then .au else match tileEngine x.tile with
  | 0 => .pe
  | 1 => .me
  | _ => .ve

/-- A piece takes its slots in own core memory, from beat a (R122, R142, R478): the core with the grants, and the beat at which the
line has moved (0: it moves in no slot of the wheel). Every line is ready at a. DEDUCED (log 205). -/
def bookPiece (s : State) (c : Nat) (x : Xfer) (k : Core) (a : Nat) (p : Placed) : Core × Nat :=
  let strided := fun (i : Nat) => (ctxOf s c i).walk != 0
  if ownCm c p.src then
    let r := k.take x.owner (strided x.context) p.src a
    let dva := if 2 ^ 41 ≤ p.dst then none else some p.dva
    if ownCm c p.dst then
      let w := (r.1.book (emptySlot p.src r.2)).take x.owner (strided x.dstContext) p.dst (r.2 + 4)
      ((w.1.book (emptySlot p.dst w.2)).book ⟨r.2, some x.id, false, p.src, p.dst, dva, p.n, some w.2, none⟩, w.2)
    else (r.1.book ⟨r.2, some x.id, false, p.src, p.dst, dva, p.n, none, none⟩, r.2 + 4)
  else if 2 ^ 41 ≤ p.src ∧ ownCm c p.dst then
    let r := k.take x.owner (strided x.context) p.dst a
    (r.1.book ⟨r.2, some x.id, true, p.src, p.dst, some p.dva, p.n, none, none⟩, r.2)
  else (k, 0)

/-- Pieces that are all placed, at beat a: lines of own core memory wait for their slots; what comes from further away is read now,
in the issue order of the AU's requests (R157, R476), and kept for its destination; what goes from a tile further away is written
now, in that order too; the rest leaves through windows. Of the statuses met the lowest stays (R18). -/
def moveAll (s : State) (c : Nat) (x : Xfer) (a : Nat) (l : List Placed) : State × Xfer :=
  let slotted := fun (p : Placed) => ownCm c p.src || (decide (2 ^ 41 ≤ p.src) && ownCm c p.dst)
  let inner := l.filter fun p => slotted p && !isOutbound p.dst
  let b := inner.foldl (fun (q : Core × Nat) p => let r := bookPiece s c x q.1 a p; (r.1, max q.2 r.2)) (core s c, x.ownEnd)
  let s := setCore s c b.1
  let near := l.filter fun p => !isOutbound p.src && (!slotted p || isOutbound p.dst)
  let s := near.foldl (fun t p => meet (if ownCm c p.src then t else settleMem t p.src) p.src p.n) s
  let got := near.map fun p => (p, readStatus s c p.src p.n)
  let keep := (got.filter fun e => !isOutbound e.1.dst).map fun e => (e.1.dst, some e.1.dva, rdBytes s e.1.src e.1.n, e.2.2)
  let outs := (got.filter fun e => isOutbound e.1.dst).map fun e => (e.1.dst, e.1.dva, rdBytes s e.1.src e.1.n)
  let reads := l.filter fun p => isOutbound p.src
  let put := if x.fromTile then putAll s c keep 0 else (s, 0)
  let x := { x with
    done := x.done + (l.map Placed.n).sum
    writes := if x.fromTile then x.writes else x.writes ++ keep
    status := lowestCode ([x.status, put.2] ++ got.map fun (e : Placed × Nat × Bool) => e.2.1)
    ownEnd := b.2
    far := x.far || l.any fun p => !(slotted p && (decide (2 ^ 41 ≤ p.dst) || ownCm c p.dst)) }
  let o := coalesce 3840 (outs.map fun e => (e.1, groupRef put.1 c e.2.1 e.1, e.2.2))
  let s := sendReads (sendWrites put.1 c x.id outs) c x.id reads
  (s, { x with remote := x.remote + o.length + reads.length })

/-! ## Holds (R471, R472, R497) -/

/-- A transfer holds at an address (R471, R472). What it has moved stays in place. -/
def holdXfer (s : State) (c : Nat) (x : Xfer) (p : Placed) : State × Xfer :=
  let r := putAll s c x.writes x.status
  let s := r.1
  let s := wr (wr (wr s E.tf_core c) E.tf_word x.word) E.tf_context p.ctx
  let cur := if x.kind == .cpy && p.ctx == x.dstContext && p.ctx != x.context then x.dstCursor else x.cursor
  let s := wr (wr (wr s E.tf_va p.miss.toNat) E.tf_cursor (cur + x.done)) E.tf_time (now s)
  let s := inc s (E.translation_fault_count + c / 25)
  let s := match ownerOf s (c / 25) with
    | some q => postEvent s q 1 0x0301 c p.miss.toNat
    | none => s
  (s, { x with writes := [], status := r.2, held := some p.miss.toNat })

/-- The keys of the 64 B at offset 0 of a context, or the piece that stops their read. -/
def recordAt (s : State) (c ctx : Nat) (a : Int) : List (Nat × Nat) × Option Placed :=
  let l := (walkFrom (ctxOf s c ctx) a 64 0 64).map fun p => (sideAt s c false 0 ctx .read p.1, p)
  match l.find? fun e => e.1.1 != 0 with
  | some e => ([], some ⟨e.1.1, e.2.1, ctx, 0, 0, 0, 0⟩)
  | none => (l.map fun e => (e.1.2, e.2.2), none)

/-- The bytes under keys. -/
def gather (s : State) (l : List (Nat × Nat)) : List Byte := l.flatMap fun e => rdBytes s e.1 e.2

/-- The first access of a `KOPEN` that does not succeed: to its record, or to the descriptor that the record names. -/
def probeOpen (s : State) (c : Nat) (x : Xfer) : Option Placed :=
  let r := recordAt s c x.context x.start
  match r.2 with
  | some p => some p
  | none =>
    let d := bits (leNat ((gather s r.1).take 8)) 47 0
    match [d, d + 63].find? fun v => (translate s c .read v).1 != 0 with
    | some v => some ⟨(translate s c .read v).1, v, x.context, 0, 0, 0, 0⟩
    | none => none

/-- A transfer moves from beat a as far as its addresses allow: the state, the transfer, and the code that stopped it (0: it moved
or it holds). -/
def moveXfer (s : State) (c : Nat) (x : Xfer) (a : Nat) : State × Xfer × Nat :=
  if x.kind == .kopen then
    match probeOpen s c x with
    | none => (s, x, 0)
    | some p => if p.code = 0x0301 then let h := holdXfer s c x p; (h.1, h.2, 0) else (s, x, p.code)
  else
  let l := (dropBytes (xferPieces s c x) x.done).map (place s c x)
  let good := l.takeWhile fun p => p.code == 0
  match (l.drop good.length).head? with
  | none => let r := moveAll s c x a good; (r.1, r.2, 0)
  | some p =>
    if p.code = 0x0301 then
      let r := moveAll s c x a good
      let h := holdXfer r.1 c r.2 p
      (h.1, h.2, 0)
    else
      let r := moveAll s c x a good
      (r.1, r.2, p.code)

/-! ## Issue (R263, R264, R471, R475) -/

/-- What becomes of an access-stream instruction. -/
inductive AuRes where
  /-- it waits, and nothing changes (R244, R245, R475) -/
  | wait
  | fault (code : Nat) (f : Found)
  /-- it has issued; `next` is the word after it, when it is not the following one -/
  | go (s : State) (next : Option Nat)

/-- A fault without a schedule check. -/
def AuRes.bad (code : Nat) : AuRes := .fault code ⟨0, 0, 0, 0⟩

/-- Some transfer of the core holds. -/
def Core.holding (k : Core) : Bool := k.xfers.any fun x => x.held.isSome

/-- The access stream of the block at beat a takes its next instruction. -/
def auNative (s : State) (c : Nat) (early : Core → List Nat) (ready : Core → Nat → Option Nat)
    (body : State → Nat → Nat → AuRes) : State :=
  match (core s c).block with
  | none => s
  | some b =>
    if b.adone ∨ b.fault ≠ 0 ∨ (core s c).holding then s
    else
      let word := b.word + b.apos
      let a0 := max (max b.anext b.b0) (core s c).beat
      if b.exeStart ≤ b.apos ∨ (early (core s c)).contains 0x0105 then faultBlock s c 0x0105 word a0 ⟨0, 0, 0, 0⟩
      else match ready (core s c) a0 with
      | none => onCore s c fun k => { k with waiting := 2 }
      | some a =>
        let s := retire s c a
        if ((core s c).block.map Block.fault).getD 1 ≠ 0 then s
        else match body s a word with
        | .wait => onCore s c fun k => { k with waiting := 2 }
        | .fault code f => faultBlock s c code word a f
        | .go t next => onCore t c fun k => { k with
            waiting := 0
            beat := max k.beat a
            block := k.block.map fun b =>
              { b with apos := next.getD (b.apos + 1), anext := a + 1, last := max b.last a } }

/-- A C2-mode command at the head of the AU's queue (R281, R282): invalid when a `gen` is not 0. -/
def auC2 (s : State) (c op : Nat) (ok : Bool) (ready : Core → Nat → Option Nat) (body : State → Nat → Nat → AuRes) : State :=
  match (core s c).c2Head 0 with
  | none => s
  | some w =>
    if (bits w 63 58 ≠ op ∧ accessDefined w) ∨ bit (core s c).c2Stopped 0 ∨ (core s c).holding then s
    else
      let stop := fun (s : State) (code : Nat) =>
        let s := noteFault s c code ((core s c).c2Word 0) (core s c).beat ⟨0, 0, 0, 0⟩
        onCore s c fun k => { k.c2Pop 0 with
          c2Stopped := setBit k.c2Stopped 0 true, c2Status := if k.c2Status = 0 then code else k.c2Status }
      if !ok ∨ bits w 40 38 ≠ 0 ∨ !accessDefined w then stop s 0x0105
      else match ready (core s c) (core s c).beat with
      | none => onCore s c fun k => { k with waiting := 2 }
      | some a =>
        let s := retire s c a
        match body s a ((core s c).c2Word 0) with
        | .wait => onCore s c fun k => { k with waiting := 2 }
        | .fault code _ => stop s code
        | .go t _ => onCore t c fun k => { k.c2Pop 0 with waiting := 0, beat := max k.beat a }

/-- An access-stream instruction of core c in the mode of its core. -/
def auIssue (s : State) (c op : Nat) (c2ok : Bool) (early : Core → List Nat) (ready : Core → Nat → Option Nat)
    (body : State → Nat → Nat → AuRes) : State :=
  if !coreRuns s c then s
  else if (core s c).c2 then auC2 s c op c2ok ready body else auNative s c early ready body

/-- Queue q gives entries to the execute stream: the access stream may push it (R243). -/
def auPushes (q : Nat) (k : Core) : List Nat := if (k.queue q).toAccess then [0x0105] else []
def auPops (q : Nat) (k : Core) : List Nat := if (k.queue q).toAccess then [] else [0x0105]

/-- The transfers that count toward the limit of R475. -/
def Core.inFlight (k : Core) : Nat :=
  (k.xfers.filter fun x => x.kind == .ldt || x.kind == .stt || x.kind == .cpy || x.kind == .kfetch).length

/-- An engine's outstanding transfers in C2 mode (R283): in flight, or loaded and not yet popped. -/
def Core.outstanding (k : Core) (e : Nat) : Nat :=
  (k.xfers.filter fun x => (x.kind == .ldt || x.kind == .stt || x.kind == .ktile) && tileEngine x.tile == e).length +
  ((List.range 8).map fun q => ((k.queue q).entries.filter fun n => !n.1 && tileEngine n.2.1 == e).length).sum

/-- A transfer for engine e may start. -/
def Core.slotFree (k : Core) (e : Nat) : Bool :=
  decide (k.inFlight < 16) && (!k.c2 || decide (k.outstanding e < 6))

/-- The tiles that an engine may read, for a load from the pool. -/
def poolRange (e : Nat) : List Nat :=
  match e with
  | 0 => List.range 16
  | 1 => (List.range 8).map (16 + ·)
  | 2 => (List.range 8).map (24 + ·)
  | _ => []

/-- The first beat from a at which a load may take its tile: that of the first pool tile of its engine that is free, or that the
read window of an issued instruction frees (R245). -/
def loadReady (a : AIns) (k : Core) (b : Nat) : Option Nat :=
  if !a.pool || (poolRange a.eng).any (bit k.free) then some b
  else
    let due := (k.ops.filter fun o => o.release.any fun t => (poolRange a.eng).contains t && bit k.pool t).map fun o => o.issue + o.occ
    due.min?.map (max b)

/-- The tile that a load takes (R245, R263): the one named, or the lowest free pool tile of its engine. -/
def loadTile (k : Core) (a : AIns) : Option Nat :=
  if a.pool then (poolRange a.eng).find? (bit k.free) else some a.tile

/-- The schedule check of a load that names its tile (R257, R258, R263). -/
def loadCheck (k : Core) (beat : Nat) (a : AIns) : Option Found :=
  if a.pool || k.c2 then none else k.checkDst beat beat none a.tile a.gen

/-- A cursor after n bytes (R464). -/
def Core.advance (k : Core) (ctx n total : Nat) : Core :=
  { k with cursors := Tab.set 0 k.cursors ctx ((Tab.get 0 k.cursors ctx + n) % total) }

/-- A transfer joins those in flight. -/
def Core.addXfer (k : Core) (x : Xfer) : Core := { k with xfers := k.xfers ++ [x], nextXfer := k.nextXfer + 1 }

/-- A transfer of core c is replaced, or leaves. -/
def Core.setXfer (k : Core) (x : Xfer) : Core := { k with xfers := k.xfers.map fun y => if y.id = x.id then x else y }
def Core.dropXfer (k : Core) (id : Nat) : Core := { k with xfers := k.xfers.filter fun y => y.id != id }
def Core.xfer (k : Core) (id : Nat) : Option Xfer := k.xfers.find? fun x => x.id == id

/-- A new transfer is placed and starts to move; a code at its issue leaves no effect (R259). -/
def launch (s : State) (c : Nat) (x : Xfer) (after : Core → Core) : AuRes :=
  let r := moveXfer s c x x.issue
  if r.2.2 ≠ 0 ∧ r.2.1.held.isNone then .bad r.2.2
  else .go (onCore r.1 c fun k => after (k.addXfer r.2.1)) none

/-! ## Ends of transfers (R142, R242, R244, R256, R258, R265, R475) -/

/-- The beat at which a transfer ends that took `beats` where it goes beyond own core memory; a load by the tile path takes 16 beats
there at least (R142). -/
def endBeat (s : State) (c : Nat) (x : Xfer) (beats : Nat) : Nat :=
  if x.far then max (max (x.issue + if x.kind == .ldt then max 15 beats else beats) x.ownEnd) (core s c).beat else x.ownEnd

/-- A load ends: its tile takes its next generation, and its entry is pushed in that beat, or as soon as its queue has room
(R244). A load from own core memory may have ended by itself when its beat has come. -/
def loadEnd (s : State) (c : Nat) (x : Xfer) (beats : Nat) : State :=
  let k := core s c
  if !(k.queue x.queue).room then onCore s c fun k => { k with waiting := 2 }
  else
    let e := max (endBeat s c x beats) (k.queue x.queue).roomAt
    let s := retire s c (if x.far then e else e + 1)
    match (core s c).xfers.find? (·.id == x.id) with
    | some x => if x.far then finishLoad s c x e else s
    | none => s

/-- A store or a copy ends. -/
def storeEnd (s : State) (c : Nat) (x : Xfer) (beats : Nat) : State :=
  let e := endBeat s c x beats
  if x.far then
    let s := if x.ownEnd = 0 then s else retire s c (x.ownEnd + 1)
    match (core s c).xfers.find? (·.id == x.id) with
    | some x => finishStore s c x e
    | none => s
  else retire s c (e + 1)

/-- What reaches sector x while its cores make no beat waits in its mesh router, and wakes it: QUIESCED or WAKING (R97, R872). -/
def asleep (s : State) (x : Nat) : Bool := domainState s x == 2 || domainState s x == 6

/-- A response reaches sector x (R705, R872): it ends a sleep entry that the sector had accepted, waits in the router of a sector
that sleeps or wakes, and is otherwise taken. -/
def arrival (s : State) (x : Nat) (a : Arrival) (f : State → State) : State :=
  let s := workReaches (workReaches s (0x100 + x)) (0x200 + x)
  if asleep s x then awaitSector s x a else f s

/-- A held transfer goes on, when its page is mapped (R473). -/
def resumeXfer (s : State) (c id : Nat) : State :=
  match (core s c).xfer id with
  | none => s
  | some x =>
    match x.held with
    | none => s
    | some va =>
      -- still missing: nothing moves
      if ((entryFor s c va).isNone : Bool) then s
      else
        let r := moveXfer s c { x with held := none } (core s c).beat
        if r.2.2 ≠ 0 then endXfer (putAll r.1 c r.2.1.writes 0).1 c r.2.1 r.2.2 (core s c).beat
        else onCore r.1 c fun k => k.setXfer r.2.1

end Sys2Proof.Machine
end

