-- ==== Sys2Proof/Machine/AccessStream.lean ====
section
/-! DEFINITION. The access stream's loads, stores, copies, tokens and loop, and the ends of their transfers (R263 to R267,
R464, R471 to R475, R872, R876). -/

namespace Sys2Proof.Machine

open Sys2Proof

/-- A transfer's record at its issue. -/
def newXfer (s : State) (c : Nat) (kind : XferKind) (word beat context dstContext queue tile : Nat) (pooled : Bool) (n : Nat) :
    Xfer :=
  let k := core s c
  let start := fun i => Ctx.start s c (ctxOf s c i)
  { id := k.nextXfer, kind := kind, word := word, issue := beat, context := context, dstContext := dstContext
    queue := queue, tile := tile, pooled := pooled, cursor := Tab.get 0 k.cursors context
    dstCursor := Tab.get 0 k.cursors (if kind == .cpy then dstContext else context), start := start context
    dstStart := start (if kind == .cpy then dstContext else context), length := n, done := 0, writes := [], remote := 0
    held := none, status := 0, far := false, ownEnd := 0 }

/-- The context may be used (R462). -/
def ctxUsable (s : State) (c i : Nat) : Bool := (ctxOf s c i).ok (Ctx.start s c (ctxOf s c i))

/-- No condition on queues. -/
def anyBeat (_ : Core) (a : Nat) : Option Nat := some a

/-- `loadReady`, but for an invalid engine, which is no reason to wait. -/
def loadReadyOrBad (a : AIns) (k : Core) (b : Nat) : Option Nat := if a.pool ∧ 2 < a.eng then some b else loadReady a k b

/-- `LDT` (R245, R257, R258, R263 to R265). -/
def ldt (s : State) (c : Nat) (a : AIns) : State :=
  auIssue s c 0x01 true (auPushes a.queue) (loadReadyOrBad a) fun s beat word =>
    let k := core s c
    if a.pool ∧ 2 < a.eng then .bad 0x0105
    else match loadTile k a with
    | none => .wait
    | some t =>
      if !k.slotFree (tileEngine t) then .wait
      else
        let sched := loadCheck k beat a
        if !ctxUsable s c a.context then
          match sched with
          | some f => .fault 0x0101 f
          | none => .bad 0x0105
        else match sched with
        | some f => .fault 0x0101 f
        | none =>
          launch s c (newXfer s c .ldt word beat a.context 0 a.queue t a.pool 4096) fun k =>
            let k := k.advance a.context 4096 (ctxOf s c a.context).bytes
            if a.pool then { k with free := setBit k.free t false } else k

def execLdt (c : Nat) (a : AIns) (s : State) : Res := guarded (decide (c < 800)) s (ldt s c a)

/-- `STT` (R258, R264, R876). -/
def stt (s : State) (c : Nat) (a : AIns) : State :=
  auIssue s c 0x02 true (auPops a.queue) (fun k b => popBeat k a.queue b) fun s beat word =>
    let k := core s c
    match (k.queue a.queue).entries with
    | [] => .wait
    | (token, t, g, _) :: _ =>
      if token then .bad 0x0105
      else if !k.slotFree (tileEngine t) ∨ (k.c2 ∧ !(k.writesOn t beat).isEmpty) then .wait
      else match if k.c2 then none else k.checkSrc beat none t g with
      | some f => .fault 0x0101 f
      | none =>
        if !ctxUsable s c a.context then .bad 0x0105
        else launch s c (newXfer s c .stt word beat a.context 0 a.queue t a.pool 4096) fun k =>
          (k.popAll [(a.queue, 1)] beat).advance a.context 4096 (ctxOf s c a.context).bytes

def execStt (c : Nat) (a : AIns) (s : State) : Res := guarded (decide (c < 800)) s (stt s c a)

/-- `CPY` (R264, R464). -/
def cpy (s : State) (c : Nat) (a : AIns) : State :=
  auIssue s c 0x03 true noCodes anyBeat fun s beat word =>
    let k := core s c
    let n := 64 * a.imm.toNat
    if 16 ≤ k.inFlight then .wait
    else if !ctxUsable s c a.context || !ctxUsable s c a.tile then .bad 0x0105
    else launch s c (newXfer s c .cpy word beat a.context a.tile 0 0 false n) fun k =>
      (k.advance a.context n (ctxOf s c a.context).bytes).advance a.tile n (ctxOf s c a.tile).bytes

def execCpy (c : Nat) (a : AIns) (s : State) : Res := guarded (decide (c < 800)) s (cpy s c a)

/-- `TOK` pushes a token (R264). -/
def tok (s : State) (c : Nat) (a : AIns) : State :=
  auIssue s c 0x04 true (auPushes a.queue) (fun k b => pushBeat k a.queue b) fun s beat _ =>
    .go (onCore s c fun k => k.pushEntry a.queue true 0 0 beat) none

def execTok (c : Nat) (a : AIns) (s : State) : Res := guarded (decide (c < 800)) s (tok s c a)

/-- `WTOK` pops a token (R264, R876). -/
def wtok (s : State) (c : Nat) (a : AIns) : State :=
  auIssue s c 0x05 true (auPops a.queue) (fun k b => popBeat k a.queue b) fun s beat _ =>
    if headIsToken (core s c) a.queue then .go (onCore s c fun k => k.popAll [(a.queue, 1)] beat) none else .bad 0x0105

def execWtok (c : Nat) (a : AIns) (s : State) : Res := guarded (decide (c < 800)) s (wtok s c a)

/-- The access stream's `LOOP` on LC4 to LC7 (R266, R267, R280, R876). -/
def accessLoop (s : State) (c : Nat) (a : AIns) : State :=
  auIssue s c 0x06 false noCodes anyBeat fun s _ _ =>
    let k := core s c
    let n := 4 + a.queue % 4
    match k.block with
    | none => .wait
    | some b =>
      if k.loopTaken n ∧ b.apos < 4 + a.imm.toNat then .bad 0x0105
      else .go (onCore s c fun k => k.loopStep n) (if k.loopTaken n then some (b.apos - a.imm.toNat) else none)

def execAccessLoop (c : Nat) (a : AIns) (s : State) : Res := guarded (decide (c < 800)) s (accessLoop s c a)

/-- The word at the access stream's place is undefined (R264). -/
def accessUndefined (s : State) (c : Nat) : Bool :=
  !(core s c).c2 && (core s c).block.any fun b => decide (b.apos < b.exeStart) && !accessDefined (frontWord s c (b.word + b.apos))

/-- `END` ends the access part (R264); an undefined word in its place is invalid. DEDUCED (log 202). -/
def accessEnd (s : State) (c : Nat) (_a : AIns) : State :=
  auIssue s c 0x3F true noCodes anyBeat fun s _ _ =>
    if accessUndefined s c then .bad 0x0105 else
    .go (onCore s c fun k => { k with block := k.block.map fun b => { b with adone := true } }) none

def execAccessEnd (c : Nat) (a : AIns) (s : State) : Res := guarded (decide (c < 800)) s (accessEnd s c a)

/-! ## Ends -/

/-- The last line of a load arrives. -/
def ldtComplete (s : State) (c id beats : Nat) : State :=
  match (core s c).xfer id with
  | none => s
  | some x =>
    if x.held.isSome ∨ x.remote ≠ 0 ∨ (core s c).running = false then s
    else if x.loads then loadEnd s c x beats
    else s

def execLdtComplete (c id beats : Nat) (s : State) : Res :=
  guarded (decide (c < 800)) s (arrival s (c / 25) (.loaded c id beats) fun s => ldtComplete s c id beats)

/-- A map covers the page of a holding transfer (R473). -/
def execTransferResume (c id : Nat) (s : State) : Res :=
  guarded (decide (c < 800)) s (if coreRuns s c then resumeXfer s c id else s)

end Sys2Proof.Machine
end

