-- ==== Sys2Proof/Machine/Lacing.lean ====
section
/-! DEFINITION. Lacing rings: their start, fill, forwarding and stop, and the access stream's lacing operations (R376, R483
to R494, R499, R500). -/

namespace Sys2Proof.Machine

open Sys2Proof

def lace (s : State) (r : Nat) : Lace := Tab.get Lace.init s.laces r
def setLace (s : State) (r : Nat) (v : Lace) : State := { s with laces := Tab.set Lace.init s.laces r v }

/-- `ring_state` of ring r: 0 idle, 1 filling, 2 running, 3 finished, 4 stopped (R500). -/
def laceState (s : State) (r : Nat) : Nat := rd s (E.ring_state + r)
def laceRuns (s : State) (r : Nat) : Bool := laceState s r == 1 || laceState s r == 2

/-! ## Readers (R486, R489, R491) -/

/-- The plan of a key context (R369): its positions' count T, and the digit, prime and chunk of plan position p. -/
def KeyCtx.total (k : KeyCtx) : Nat := k.digits * k.list.length * k.perLimb
def KeyCtx.place (k : KeyCtx) (p : Nat) : Nat × Nat × Nat :=
  let n := k.perLimb
  (k.digitFirst + p / n / k.list.length, k.list.getD (p / n % k.list.length) 0, p % n)

/-- The `seq` of plan position p (R365). -/
def KeyCtx.seqAt (k : KeyCtx) (p : Nat) : Nat :=
  let e := k.place p
  (e.1 * k.primes + e.2.1) * k.perLimb + e.2.2

/-- The number of plan position p's chunk among its key's chunks in ascending `seq` (R353, R408): a blind-rotation key has chunks of
one prime alone. DEDUCED (log 211). -/
def KeyCtx.indexAt (k : KeyCtx) (p : Nat) : Nat := if k.blind then (k.place p).1 * 256 + (k.place p).2.2 else k.seqAt p

/-- The plan position of the k-th chunk (R369). -/
def KeyCtx.position (k : KeyCtx) (i : Nat) : Nat := (k.start + i) % k.total

/-- The unit lies in the plan. -/
def KeyCtx.plans (k : KeyCtx) (u : Nat) : Bool := (List.range k.total).any fun p => k.indexAt p == u

/-- A hold has taken or passed offer idx. -/
def RingHold.past (h : RingHold) (idx : Nat) : Bool :=
  decide (idx < h.next) && !(h.unit.isSome && idx + 1 == h.next)

/-- A key context has taken or passed offer idx, which is unit u (R376, R491). -/
def KeyCtx.past (k : KeyCtx) (idx u : Nat) : Bool :=
  k.state != 1 || decide (idx < k.next) || decide (k.total ≤ k.arrived) || !k.plans u

/-- Every reader joined at member i of ring r has taken or passed offer idx, which is unit u. -/
def passedByAll (s : State) (r i idx u : Nat) : Bool :=
  s.cores.all fun c =>
    (c.2.holds.all fun e => match e.2 with
      | some h => h.ring != r || h.member != i || h.past idx
      | none => true) &&
    c.2.keys.all fun e => e.2.ring != some r || e.2.member != i || e.2.past idx u

/-! ## Units (R485, R486) -/

/-- The key of slot j of a member, and of the header that belongs to it. -/
def Member.slotKey (m : Member) (j : Nat) : Nat := m.buffer + 65536 * j
def Member.headKey (m : Member) (j : Nat) : Nat := m.buffer + 65536 * m.slots + 64 * j

/-- The lowest slot that holds no unit. -/
def Member.freeSlot (m : Member) : Option Nat :=
  (List.range m.slots).find? fun j => m.units.all fun u => u.slot != j

/-- Bytes copied with their marks. -/
def copyMarked (s : State) (src dst n : Nat) : State :=
  let t := wrBytes s dst (rdBytes s src n)
  (List.range ((n + 7) / 8)).foldl (fun t i => if poisoned s (src + 8 * i) 8 then mark t (dst + 8 * i) else t) t

/-- Member i of a ring takes the record v. -/
def Lace.setMember (l : Lace) (i : Nat) (v : Member) : Lace := { l with members := l.members.set i v }

/-- The oldest unit leaves its member. -/
def Member.drop (m : Member) : Member := { m with units := m.units.tail, first := m.first + 1 }

/-- `ring_circulations_done`, and the end of a ring whose units are all retired. -/
def noteRounds (s : State) (r : Nat) : State :=
  let l := lace s r
  let us := l.members.flatMap fun m => m.units
  match (us.map fun u => u.rounds).min? with
  | none => wr (wr s (E.ring_circulations_done + r) l.circulations) (E.ring_state + r) 3
  | some n => wr s (E.ring_circulations_done + r) n

/-- A unit goes from member i to the one before it, with what its record becomes there; or it stays where it is while
no slot is free. -/
def passUnit (s : State) (r i : Nat) (u : LaceUnit) (offered rounds : Nat) : State :=
  let l := lace s r
  let n := l.members.length
  let m := l.members.getD i ⟨0, 0, [], 0⟩
  let j := (i + n - 1) % n
  if j = i then
    setLace s r (l.setMember i { m.drop with units := m.units.tail ++ [{ u with offered := offered, rounds := rounds }] })
  else
    let d := l.members.getD j ⟨0, 0, [], 0⟩
    match d.freeSlot with
    | none => s
    | some q =>
      let s := copyMarked s (m.slotKey u.slot) (d.slotKey q) 65536
      let s := if l.fill = 1 then copyMarked s (m.headKey u.slot) (d.headKey q) 64 else s
      let l := (l.setMember i m.drop).setMember j
        { d with units := d.units ++ [{ u with offered := offered, rounds := rounds, slot := q }] }
      setLace s r l

/-- A member forwards its oldest unit, starts its next circulation, or retires it (R486). -/
def ringForward (s : State) (r i : Nat) : State :=
  let l := lace s r
  let n := l.members.length
  if laceState s r ≠ 2 ∨ n ≤ i then s
  else
    let m := l.members.getD i ⟨0, 0, [], 0⟩
    match m.units with
    | [] => s
    | u :: _ =>
      if !passedByAll s r i m.first u.unit then s
      else if u.offered < n then noteRounds (passUnit s r i u (u.offered + 1) u.rounds) r
      else if u.rounds + 1 = l.circulations then noteRounds (setLace s r (l.setMember i m.drop)) r
      else noteRounds (passUnit s r i u 1 (u.rounds + 1)) r

def execRingForward (ring member : Nat) (s : State) : Res := guarded (decide (ring < 64)) s (ringForward s ring member)

/-! ## Start, fill and stop (R483 to R485, R494, R499) -/

/-- The partition whose HBM share holds an address. -/
def sharePartition (s : State) (a : Nat) : Option Nat :=
  (List.range 32).find? fun p => assigned s p && decide (rd s (E.part_hbm_base + 256 * p) ≤ a ∧ a < partEnd s p)

/-- A member entry gives a buffer that R484 and R671 allow, in a ring of partition p. -/
def memberOk (s : State) (p fill w e : Nat) : Bool :=
  let b := bits e 47 40
  let a := bits e 39 0
  let x := bits a 36 32
  let t := bits a 31 27
  let o := bits a 26 0
  let span := if fill = 1 then 65600 * b else 65536 * b
  let size := if t = 31 then 0x800000 else 0x180000
  let regions := (List.range 24).filter fun k => decide (65536 * k < o + span ∧ o < 65536 * (k + 1))
  bits a 39 37 == 4 && bit (rd s (E.part_sectors + 256 * p)) x && decide (t < 25 ∨ t = 31) && decide (w + 1 ≤ b) &&
  o % 65536 == 0 && decide (o + span ≤ size) &&
  (if t = 31 then decide (o + span ≤ 0x6C0000 ∨ 0x700000 ≤ o) &&
      !(bit (rd s (E.shadow_pool_cfg + x)) 24 && decide (0x700000 < o + span))
   else regions.all fun k => bit (core s (25 * x + t)).cmAttr k && !bit (rd s (E.shadow_pool_cfg + x)) k)

/-- The ring that a record describes starts, or is refused (R484). The record lies in the HBM share of the ring's
partition. DEDUCED (log 40). -/
def startRing (s : State) : State :=
  let a := rd s E.ring_record_addr
  let w := fun i => rdNat s (Mem.hbm (a + 8 * i)) 8
  let r := bits (w 0) 47 40
  let n := bits (w 0) 39 32
  let fill := bits (w 0) 31 24
  let units := bits (w 1) 31 0
  let es := (List.range n).map fun i => w (8 + i)
  let targets := es.map fun e => bits e 36 27
  let ok := match sharePartition s a with
    | none => false
    | some p =>
      bits (w 0) 63 48 == 0x524E && decide (r < 64 ∧ 1 ≤ n ∧ n ≤ 32 ∧ fill ≤ 2) && !laceRuns s r && units % n == 0 &&
      es.all (memberOk s p fill (units / n)) && decide targets.Nodup &&
      (fill != 1 || match (findKeySet s (some p) (w 2)).bind fun k => k.key (bits (w 3) 39 32) (bits (w 3) 31 0) with
        | some k => k.chunks == units
        | none => false)
  if !ok then wr s E.ring_cmd_status 4
  else
    let per := units / n
    let ms := es.zipIdx.map fun e => (⟨onchipKey (bits e.1 39 0), bits e.1 47 40,
      (List.range per).map fun k => ⟨e.2 * per + k, 1, 0, k⟩, 0⟩ : Member)
    let s := setLace s r ⟨(sharePartition s a).getD 0, ms, fill, bits (w 0) 23 16, units, w 2, bits (w 3) 39 32, bits (w 3) 31 0⟩
    wr (wr (wr s (E.ring_state + r) (if fill = 0 then 2 else 1)) (E.ring_circulations_done + r) 0) E.ring_cmd_status 2

/-- The chunk at HBM address a of the key store, or the 64 KiB at a virtual address, goes into a slot. -/
def fillUnit (s : State) (l : Lace) (m : Member) (u : LaceUnit) : State :=
  if l.fill = 1 then
    match (findKeySet s (some l.part) l.source).bind fun k => k.key l.kind l.galois with
    | none => s
    | some k =>
      let a := k.base + 65600 * u.unit
      copyMarked (copyMarked s (Mem.hbm a) (m.headKey u.slot) 64) (Mem.hbm (a + 64)) (m.slotKey u.slot) 65536
  else
    let t := translateFor s l.part .manager .read (bits l.source 47 0 + 65536 * u.unit)
    copyMarked s t.2 (m.slotKey u.slot) 65536

/-- Every address of a fill from virtual memory translates. -/
def fillOk (s : State) (l : Lace) : Bool :=
  l.fill != 2 || (List.range l.units).all fun u =>
    let t := translateFor s l.part .manager .read (bits l.source 47 0 + 65536 * u)
    t.1 == 0 && !isOutbound t.2

/-- The fill ends, and the ring runs (R485). A fill whose addresses do not translate stops the ring. DESIGN CHOICE (log
41). -/
def ringFillDone (s : State) (r : Nat) : State :=
  if laceState s r ≠ 1 then s
  else
    let l := lace s r
    if !fillOk s l then wr s (E.ring_state + r) 4
    else wr (l.members.foldl (fun t m => m.units.foldl (fun t u => fillUnit t l m u) t) s) (E.ring_state + r) 2

def execRingFillDone (ring : Nat) (s : State) : Res := guarded (decide (ring < 64)) s (ringFillDone s ring)

/-- The ring named for a stop stops, or is not running (R494, R499). -/
def stopRing (s : State) (r : Nat) : State :=
  if laceRuns s r then wr (wr s (E.ring_state + r) 4) E.ring_cmd_status 3 else wr s E.ring_cmd_status 5

/-- `ring_cmd` (R499). -/
def ringCmdSem : EntrySem :=
  command (fun _ v => bits v 7 6 == 1 || bits v 7 6 == 2) fun s _ v =>
    if bits v 7 6 = 1 then startRing s else stopRing s (bits v 5 0)

def execRingStart (via : Path) (s : State) : Res := done s (access s (writeOf via E.ring_cmd 0x40) ringCmdSem)
def execRingStop (via : Path) (ring : Nat) (s : State) : Res :=
  guarded (decide (ring < 64)) s (access s (writeOf via E.ring_cmd (0x80 + ring)) ringCmdSem)

/-- A ring with a member in sector x runs (R488). -/
def laceIn (s : State) (x : Nat) : Bool :=
  (List.range 64).any fun r => laceRuns s r && (lace s r).members.any fun m => bits m.buffer 36 32 == x

/-- A reset of sector x stops the rings that have a member there (R493). -/
def laceStopSector (s : State) (x : Nat) : State :=
  (List.range 64).foldl (fun t r =>
    if laceRuns t r && (lace t r).members.any (fun m => bits m.buffer 36 32 == x) then wr t (E.ring_state + r) 4 else t) s

/-- The holds and key contexts of a core leave their rings (R492). -/
def Core.leaveRings (k : Core) : Core :=
  { k with holds := [], keys := k.keys.map fun e => (e.1, { e.2 with ring := none }), passed := false }

/-! ## The access stream's operations (R489, R490) -/

def Core.hold (k : Core) (h : Nat) : Option RingHold := Tab.get none k.holds h
def Core.setHold (k : Core) (h : Nat) (v : Option RingHold) : Core := { k with holds := Tab.set none k.holds h v }

/-- The hold that an operation names. -/
def holdOf (a : AIns) : Nat := bits a.imm.toNat 9 8

/-- The member of ring r whose target is core c's own memory or its sector's commons. -/
def ownMember (s : State) (c r : Nat) : Option Nat :=
  (lace s r).members.findIdx? fun m =>
    bits m.buffer 36 32 == c / 25 && (bits m.buffer 31 27 == c % 25 || bits m.buffer 31 27 == 31)

/-- `RJOIN`: the hold's first offer is the oldest unit that the member holds. DEDUCED (log 42). -/
def rjoin (s : State) (c : Nat) (a : AIns) : State :=
  let r := bits a.imm.toNat 5 0
  auIssue s c 0x30 true noCodes anyBeat fun s _ _ =>
    if laceState s r = 3 ∨ laceState s r = 4 then .bad 0x0305
    else match (core s c).hold (holdOf a), (if laceRuns s r then ownMember s c r else none) with
    | none, some i =>
      .go (onCore s c fun k => k.setHold (holdOf a)
        (some ⟨r, i, ((lace s r).members.getD i ⟨0, 0, [], 0⟩).first, none⟩)) none
    | _, _ => .bad 0x0105

def execRjoin (c : Nat) (a : AIns) (s : State) : Res := guarded (decide (c < 800)) s (rjoin s c a)

/-- An operation on an attached hold of a ring that still runs. -/
def onHold (s : State) (c : Nat) (a : AIns) (f : RingHold → AuRes) : AuRes :=
  match (core s c).hold (holdOf a) with
  | none => .bad 0x0105
  | some h => if laceState s h.ring = 3 ∨ laceState s h.ring = 4 then .bad 0x0305 else f h

/-- The cursors of contexts anchored to a hold are 0. -/
def rewind (s : State) (c h : Nat) : State :=
  onCore s c fun k => { k with cursors := (List.range 32).foldl (fun t i =>
    if (ctxOf s c i).anchor = 2 ∧ (ctxOf s c i).areg % 4 = h then Tab.set 0 t i 0 else t) k.cursors }

/-- `RNEXT` has passed its units, so that the ring may go on while it waits. -/
def passUnits (s : State) (c : Nat) (a : AIns) : State :=
  let k := core s c
  if k.passed ∨ !coreRuns s c then s
  else match k.hold (holdOf a), k.block with
  | some h, some b =>
    if b.adone ∨ b.fault ≠ 0 ∨ k.holding ∨ laceState s h.ring ≠ 2 ∨ b.exeStart ≤ b.apos then s
    else setCore s c { k.setHold (holdOf a)
      (some { h with next := h.next + bits a.imm.toNat 7 0, unit := none }) with passed := true }
  | _, _ => s

/-- `RNEXT` (R489). -/
def rnext (s : State) (c : Nat) (a : AIns) : State :=
  auIssue (passUnits s c a) c 0x31 true (auPushes a.queue) (fun k b => pushBeat k a.queue b) fun s beat _ =>
    onHold s c a fun h =>
      let skip := if (core s c).passed then 0 else bits a.imm.toNat 7 0
      let m := (lace s h.ring).members.getD h.member ⟨0, 0, [], 0⟩
      let at' := h.next + skip
      match if at' < m.first then none else m.units[at' - m.first]? with
      | none => .wait
      | some u =>
        let s := rewind (onCore s c fun k => { k.setHold (holdOf a)
          (some { h with next := at' + 1, unit := some (m.slotKey u.slot) }) with passed := false }) c (holdOf a)
        .go (onCore s c fun k => k.pushEntry a.queue true 0 0 beat) none

def execRnext (c : Nat) (a : AIns) (s : State) : Res := guarded (decide (c < 800)) s (rnext s c a)

/-- `RDONE` marks the held unit taken. -/
def rdone (s : State) (c : Nat) (a : AIns) : State :=
  auIssue s c 0x32 true noCodes anyBeat fun s _ _ =>
    onHold s c a fun h => .go (onCore s c fun k => k.setHold (holdOf a) (some { h with unit := none })) none

def execRdone (c : Nat) (a : AIns) (s : State) : Res := guarded (decide (c < 800)) s (rdone s c a)

/-- `RLEAVE` detaches the hold. -/
def rleave (s : State) (c : Nat) (a : AIns) : State :=
  auIssue s c 0x33 true noCodes anyBeat fun s _ _ =>
    onHold s c a fun _ => .go (onCore s c fun k => k.setHold (holdOf a) none) none

def execRleave (c : Nat) (a : AIns) (s : State) : Res := guarded (decide (c < 800)) s (rleave s c a)

end Sys2Proof.Machine
end

