-- ==== Sys2Proof/Machine/Adder.lean ====
section
/-! DEFINITION. Memory-side adders (R217 to R224), the ordered reductions of a partition (R830 to R834), and the migration that
moves its lines. -/

namespace Sys2Proof.Machine

open Sys2Proof

/-! ## One update -/

/-- `op` of R217 is a float add. -/
def isFloatAdd (op : Nat) : Bool := decide (3 ≤ op ∧ op ≤ 6)

/-- Bytes of a memory element, and of an operand element, of an operation (R217). -/
def addElem (op : Nat) : Nat × Nat :=
  if op = 1 ∨ op = 3 then (4, 4) else if op = 2 ∨ op = 7 then (8, 8) else if op = 4 then (4, 2) else (4, 1)

/-- The memory element after an update (R218 to R220). -/
def addOne (op q m v : Nat) : Nat :=
  if op = 1 then (m + v) % 2 ^ 32
  else if op = 2 then (m + v) % 2 ^ 64
  else if op = 7 then (m + v) % (if q = 0 then 2 ^ 64 else q)
  else
    let f := if op = 3 then Fmt.f32 else if op = 4 then Fmt.bf16 else if op = 5 then Fmt.e4m3 else Fmt.e5m2
    f32 ((ofF32 m).add (f.decode v))

/-- The line after an update: elements whose mask bit is 0 keep their bytes (R221). -/
def addLine (op mask q : Nat) (operand old : List Byte) : List Byte :=
  let n := addElem op
  (List.range (64 / n.1)).flatMap fun i =>
    let m := (old.drop (n.1 * i)).take n.1
    if bit mask i then leBytes n.1 (addOne op q (leNat m) (leNat ((operand.drop (n.2 * i)).take n.2))) else m

/-- The controllers' lists of the lines updated last, with each line's latest float contributor (R836, cause 2): 65,536
lines for each stack. -/
def noteLine (s : State) (a : Nat) (key : Option (Nat × Nat × Nat)) : State :=
  let d := s.det
  let old := match d.lines.find? (·.1 == a) with
    | some e => e.2
    | none => none
  let l := (a, if key.isSome then key else old) :: d.lines.filter (·.1 != a)
  let same := l.filter fun e => stackAt s e.1 == stackAt s a
  { s with det := { d with lines := if 65536 < same.length then l.erase (same.getLast?.getD (0, none)) else l } }

/-- The line counts under cause 2 when this contributor updates it in open mode. -/
def lineOpen (s : State) (a : Nat) (key : Nat × Nat × Nat) : Bool :=
  match s.det.lines.find? (·.1 == a) with
  | some e => e.2 != some key
  | none => true

/-- An update is applied to its line; a line that cannot be read is left as it is (R222, R223). -/
def applyAdd (s : State) (u : HeldAdd) (q : Nat) (ecc : Ecc) : State :=
  if (hbmStatus s u.line 64 ecc).1 ≠ 0 then noteEcc s u.line ecc
  else
    let s := hbmStore (noteEcc s u.line ecc) u.line (addLine u.op u.mask q u.operand (rdBytes s (Mem.hbm u.line) 64))
    countDev (noteLine s u.line (if isFloatAdd u.op then some u.key else none)) 0x203 (stackAt s u.line) 1

/-- Updates that the controller of a stack holds (R830). -/
def heldAt (s : State) (c : Nat) : Nat := (s.det.held.filter fun u => stackAt s u.line == c).length

/-- `ord_held` follows the updates held. -/
def noteHeld (s : State) (held : List HeldAdd) : State :=
  wr { s with det := { s.det with held := held } } E.ord_held held.length

/-- A request for an adder update at an HBM line, with its contributor key (R217, R221, R223, R830, R833): the status, and the
line as it was. -/
def adderUpdate (s : State) (u : HeldAdd) (q : Nat) (wantOld : Bool) (ecc : Ecc) : State × Nat × List Byte :=
  if u.op = 0 ∨ 7 < u.op then (s, 0x0105, [])
  else
    let p := sharePartition s u.line
    let mode := (p.map fun p => rd s (E.det_mode + p)).getD 0
    if isFloatAdd u.op ∧ mode ≠ 0 ∧ !wantOld ∧ heldAt s (stackAt s u.line) < 8192 then
      (noteHeld s (s.det.held ++ [u]), 0, [])
    else
      let r := hbmStatus s u.line 64 ecc
      let old := rdBytes s (Mem.hbm u.line) 64
      let counts := isFloatAdd u.op && r.1 == 0 && (mode != 0 || lineOpen s u.line u.key)
      let s := if isFloatAdd u.op ∧ mode ≠ 0 ∧ !wantOld then inc s E.ord_overflow_count else s
      let s := applyAdd s u q ecc
      let s := if counts then noteNd s 2 p else s
      (s, r.1, old)

/-! ## Requests of this device -/

/-- The contributor key of a request (R830). A unit of the device hub counts as one of sector 8, where the hub is attached.
DEDUCED (log 145). -/
def contributor (s : State) : Requester → Nat × Nat × Nat
  | .core c => (0, c / 25, slotOf s (c / 25) (c % 25))
  | .unit x => (0, x, 31)
  | .fabric src flow => (1, src, flow)
  | _ => (0, 8, 31)

/-- The device virtual addresses that a partition maps to an HBM address. -/
def virtualsOf (s : State) (p a : Nat) : List Nat :=
  (s.xlat.filter fun e => decide (e.1 / 2 ^ 40 = p) && bit e.2 63).filterMap fun e =>
    if bit e.1 39 then
      if bits e.2 39 21 = a / 2 ^ 21 then some (e.1 % 2 ^ 39 * 2 ^ 21 + a % 2 ^ 21) else none
    else if bits e.2 39 16 = a / 2 ^ 16 then some (e.1 % 2 ^ 39 * 2 ^ 16 + a % 2 ^ 16) else none

/-- The line lies within the filter of a bound core (R528). -/
def inFilter (s : State) (a : Nat) : Requester → Bool
  | .core c => match ownerOf s (c / 25) with
    | none => false
    | some p => (virtualsOf s p a).any fun v => (groupOf s c (some v) a).isSome
  | _ => false

/-- An update that a core or a unit of this device sends. One that names no line is refused with the code that R599 gives an ADD.
DESIGN CHOICE (log 193). -/
def adderRequest (s : State) (u : AddUpdate) : State :=
  if u.op = 0 ∨ 7 < u.op then answerStatus s 0x0105 false []
  else if u.addr % 64 ≠ 0 ∨ !hbmInside s u.addr 64 ∨ !hbmAllowed s u.who true u.addr then answerStatus s 0x0302 false []
  else
    let bad := (hbmStatus s u.addr 64 u.ecc).1
    if inFilter s u.addr u.who ∧ bad = 0 then answerStatus s 0x0505 false []
    else
      let r := adderUpdate s ⟨contributor s u.who, u.addr, u.op, u.mask.toNat, u.operand⟩ u.q.toNat u.wantOld u.ecc
      answerStatus r.1 r.2.1 (decide (r.2.1 = 0x0303 ∨ r.2.1 = 0x0304)) (if u.wantOld then r.2.2 else [])

def execAdderUpdate (u : AddUpdate) (s : State) : Res := done s (adderRequest s u)

/-! ## Ordered reductions (R831, R834) -/

/-- The contributor key of the first comes before the second's, or is equal. -/
def keyLe (a b : Nat × Nat × Nat) : Bool :=
  decide (a.1 < b.1) || (a.1 == b.1 && (decide (a.2.1 < b.2.1) || (a.2.1 == b.2.1 && decide (a.2.2 ≤ b.2.2))))

/-- An update takes its place behind those with keys not above its own. -/
def insertHeld (u : HeldAdd) : List HeldAdd → List HeldAdd
  | [] => [u]
  | h :: t => if keyLe h.key u.key then h :: insertHeld u t else u :: h :: t

/-- Held updates in ascending contributor key, and in arrival order among equal keys. -/
def inOrder (l : List HeldAdd) : List HeldAdd := l.foldl (fun t u => insertHeld u t) []

/-- The held updates that f names are applied. -/
def flushHeld (s : State) (f : HeldAdd → Bool) : State :=
  let now' := s.det.held.filter f
  (inOrder now').foldl (fun t u => applyAdd t u 0 .clean) (noteHeld s (s.det.held.filter fun u => !f u))

/-- The held updates of a partition's share are applied. -/
def flushPart (s : State) (p : Nat) : State := flushHeld s fun u => sharePartition s u.line == some p

/-- `ord_flush` (R831, R855). -/
def ordFlushSem : EntrySem :=
  command (fun s v => decide (v < 32) && rd s (E.det_mode + v) != 0) (fun s _ v => flushPart s v)

def execOrdFlush (via : Path) (d : List Byte) (s : State) : Res := done s (access s (writeBytes via E.ord_flush d) ordFlushSem)

/-- A device-level or power-on reset discards every held update (R834). -/
def heldLost (s : State) : State :=
  noteHeld (incBy { s with det := Det.init } E.ord_lost_count s.det.held.length) []

/-- Updates held wait for one of the stacks of an HBM domain; R706 asks a controller for these. -/
def addersHeld (s : State) : Bool := !s.det.held.isEmpty

/-- A map-out or map-in ends: lines keep their addresses, and held updates go with them (R198, R834). -/
def execHbmMigrationDone (s : State) : Res := done s (migrationDone s)

end Sys2Proof.Machine
end

