-- ==== Sys2Proof/Machine/Rings.lean ====
section
/-! DEFINITION. Command rings (R384, R386, R389, R390, R668 to R683): taking a record, which command may start, and how a
command completes. -/

namespace Sys2Proof.Machine

open Sys2Proof

/-! ## The sequencer's accesses to memory -/

/-- The n bytes at a virtual address of partition p, cut at 64 KiB pages: the code, and (key, address, bytes). -/
def vaPieces (s : State) (p : Nat) (who : Requester) (nd : Need) : Nat → Nat → Nat → Nat × List (Nat × Nat × Nat)
  | 0, _, _ => (0, [])
  | f + 1, va, n =>
    if n = 0 then (0, [])
    else
      let m := min n (65536 - va % 65536)
      let r := translateFor s p who nd va
      if r.1 ≠ 0 then (r.1, [])
      else
        let t := vaPieces s p who nd f (va + m) (n - m)
        (t.1, (r.2, va, m) :: t.2)

/-- The pieces of a range, with fuel for its pages. -/
def vaRange (s : State) (p : Nat) (who : Requester) (nd : Need) (va n : Nat) : Nat × List (Nat × Nat × Nat) :=
  vaPieces s p who nd (n / 65536 + 2) va n

/-- The status of reading a piece of a range: poisoned or lost data (R150, R186, R202). -/
def pieceStatus (s : State) (e : Nat × Nat × Nat) : Nat :=
  if e.1 < 2 ^ 38 then (hbmStatus s e.1 e.2.2 .clean).1 else if poisoned s e.1 e.2.2 then 0x0303 else 0

/-- Bytes read at a virtual address with their status; an outbound address is not read so. PRESUMED (log 46). -/
def vaRead (s : State) (p : Nat) (who : Requester) (va n : Nat) : Nat × List Byte :=
  let r := vaRange s p who .read va n
  if r.1 ≠ 0 then (r.1, []) else if r.2.any (fun e => isOutbound e.1) then (0x0302, [])
  else (lowestCode (r.2.map (pieceStatus s)), r.2.flatMap fun e => rdBytes s e.1 e.2.2)

/-- Bytes written by a unit of sector x in partition p, at a valid key (R164, R515, R591, R671): the status. `g` is the
stitch group that the write joins. -/
def unitStore (s : State) (x p : Nat) (g : Option Nat) (k : Nat) (d : List Byte) : State × Nat :=
  if isOutbound k then
    let h := outHandle k
    let c := handleCode s (some p) h
    if c ≠ 0 then (s, c)
    else (request s h ⟨0, 1, (handle s h).base + outOffset k, 0, d, g, 0, .other⟩, 0)
  else if decide (2 ^ 38 ≤ k) && decide (bits k 36 32 ≠ x) && !inRing k && (!lands s k d.length || landsClosing s k d.length) then
    (s, 0x0302)
  else
    let s := if 2 ^ 38 ≤ k then noteLanded s k d.length else s
    match g with
    | some i => groupStore s none i k d 0 false
    | none => (storeAt s k d, 0)

/-- Bytes written at a virtual address by a unit of sector x in partition p: the first failing status. -/
def vaWrite (s : State) (x p : Nat) (g : Option Nat) (va : Nat) (d : List Byte) : State × Nat :=
  let r := vaRange s p (.unit x) .write va d.length
  if r.1 ≠ 0 then (s, r.1)
  else
    r.2.foldl (fun (q : State × Nat) e =>
      let w := unitStore q.1 x p g e.1 ((d.drop (e.2.1 - va)).take e.2.2)
      (w.1, if q.2 = 0 then w.2 else q.2)) (s, 0)

/-! ## Rings -/

/-- The configuration entries of ring k of sector x stand this far above those of ring 0 of sector 0 (R680). -/
def ringAt (x k : Nat) : Nat := 256 * (8 * x + k)
/-- The control block of ring k of sector x (R672), as an offset of the ring region. -/
def ringBlock (k : Nat) : Nat := 128 * k

def ringOf (s : State) (x k : Nat) : Ring := Tab.get Ring.init (sector s x).rings k
def setRing (s : State) (x k : Nat) (v : Ring) : State :=
  setSector s x { sector s x with rings := Tab.set Ring.init (sector s x).rings k v }

/-- `ring_status`: 0 disabled, 1 enabled, 2 draining (R680). -/
def ringStatus (s : State) (x k : Nat) : Nat := rd s (E.ring_status + ringAt x k)

/-- The sequencer of sector x runs. -/
def sequencerRuns (s : State) (x : Nat) : Bool := s.supply.mainOn && decide (domainState s x ≤ 1)

/-- Partition p is being scrubbed (R753). -/
def scrubbing (s : State) (p : Nat) : Bool := rd s (E.part_state + 256 * p) == 2

/-- Word i of a taken record. -/
def Taken.word (t : Taken) (i : Nat) : Nat := recWord t.record i
def Taken.op (t : Taken) : Nat := bits (t.word 0) 63 56
def Taken.fence (t : Taken) : Bool := bit (t.word 0) 55
def Taken.cmdId (t : Taken) : Nat := bits (t.word 6) 63 48
def Taken.completion (t : Taken) : Nat := bits (t.word 6) 47 0

/-- The operations that the tables of R395, R511, R582 and R676 define. -/
def knownOps : List Nat :=
  (List.range 0x12).tail ++ [0x20, 0x21, 0x22, 0x40, 0x41, 0x42, 0x43, 0x50, 0x51, 0x52, 0x53, 0x54, 0x60, 0x61]

/-- A homomorphic command (R676). -/
def isHe (op : Nat) : Bool := decide (op < 0x40)

/-- A pair that is bound: the leader and the follower (R639). -/
def twinBound (s : State) : Bool := rd s E.twin_role == 1 || rd s E.twin_role == 2

/-! ## Completion (R389, R390, R677 to R679) -/

/-- The completion record of R390. -/
def completionRecord (s : State) (t : Taken) (status faults limbs beats : Nat) : List Byte :=
  leBytes 8 (status * 2 ^ 48 + t.cmdId * 2 ^ 32 + faults) ++ leBytes 8 limbs ++ leBytes 8 beats ++ leBytes 8 (now s)

/-- A completion entry leaves for its mirror, when the host takes it (R646, R679). -/
def mirrorEntry (s : State) (x k e : Nat) (r : List Byte) : State :=
  let a := rd s (E.ring_mirror_addr + ringAt x k)
  let n := rd s (E.ring_comp_slots + ringAt x k)
  if a = 0 then s
  else if !s.host.busMaster then inc s E.mirror_skip_count
  else emit s (.mirror (a + 64 * (e % n)) (r ++ leBytes 4 ((e / n + 1) % 2 ^ 32) ++ List.replicate 28 0))

/-- An entry is posted to the completion ring, or held while that ring is full (R677, R678). -/
def postCompletion (s : State) (x k : Nat) (r : List Byte) : State :=
  let n := rd s (E.ring_comp_slots + ringAt x k)
  if !(ringOf s x k).held.isEmpty ∨ n ≤ unread s x (ringBlock k) then
    setRing s x k { ringOf s x k with held := (ringOf s x k).held ++ [r] }
  else
    let e := rdNat s (ringKey x (ringBlock k + 4)) 4
    let s := postEntry s x (ringBlock k) (rd s (E.ring_comp_offset + ringAt x k)) n r
    signalVector (mirrorEntry s x k e r) (rd s (E.ring_vector + ringAt x k))

/-- A command leaves its ring: its completion record is written where it asks, then `extra` after it (R842), and the
entry is posted. -/
def finishWith (s : State) (x k : Nat) (t : Taken) (r extra : List Byte) : State :=
  let s := setRing s x k { ringOf s x k with queue := (ringOf s x k).queue.erase t }
  let s := match ownerOf s x with
    | none => s
    | some p => if t.completion = 0 then s else (vaWrite s x p none t.completion (r ++ extra)).1
  let s := if twinBound s then
      { s with twin := { s.twin with completions := s.twin.completions ++ [(8 * x + k, r)] } } else s
  postCompletion s x k r

/-- The provenance record of a command (R842): its digest is taken over what its start kept and over the 16 bytes that
R843 takes from the result, and is zero when the command has failed. -/
def provRecord (s : State) (p : Nat) (t : Taken) (status : Nat) (tail : List Byte) : List Byte :=
  let dig := if status = 0 then sm3 (t.prov.getD [] ++ tail) else List.replicate 32 0
  let delta := min (rd s (E.nd_count + p) - t.nd) (2 ^ 32 - 1)
  let b := dig ++ leBytes 8 (t.cmdId * 2 ^ 48 + t.op * 2 ^ 40 + rd s (E.prov_mode + p) * 2 ^ 38 + delta) ++
    leBytes 8 t.startStep ++ leBytes 8 (now s)
  b ++ leBytes 8 (crc32c b * 2 ^ 32)

/-- A command that may keep a provenance record leaves its ring. -/
def finishProv (s : State) (x k : Nat) (t : Taken) (status : Nat) (r tail : List Byte) : State :=
  finishWith s x k t r
    (if t.prov.isSome ∧ t.completion ≠ 0 then provRecord s ((ownerOf s x).getD 0) t status tail else [])

/-- Beats of a command that runs no kernel: no rule states them. -/
def plainBeats (s : State) : Nat := seqBeats s.freeCtr % 2 ^ 64

/-- A command without a kernel completes with a status. -/
def finishPlain (s : State) (x k : Nat) (t : Taken) (status : Nat) : State :=
  finishWith { s with freeCtr := s.freeCtr + 1 } x k t (completionRecord s t status 0 0 (plainBeats s)) []

/-- A homomorphic command that fails is counted and recorded (R393, R416). -/
def noteHeFault (s : State) (x : Nat) (t : Taken) (status faults : Nat) : State :=
  let s := wr (wr (wr (inc s (E.he_fault_count + x)) E.hef_sector x) E.hef_op t.op) E.hef_cmd_id t.cmdId
  wr (wr (wr s E.hef_status status) E.hef_fault_cores faults) E.hef_time (now s)

/-! ## Taking and starting (R386, R602, R609, R669, R675, R676) -/

/-- The marker of the next slot has the value that R673 expects. -/
def slotReady (s : State) (x k : Nat) : Bool :=
  let r := rdNat s (ringKey x (ringBlock k)) 4
  let n := rd s (E.ring_slots + ringAt x k)
  rdNat s (ringKey x (rd s (E.ring_slot_offset + ringAt x k) + 128 * (r % n) + 64)) 4 == (r / n + 1) % 2 ^ 32

/-- The record of the next slot. -/
def slotRecord (s : State) (x k : Nat) : List Byte :=
  let r := rdNat s (ringKey x (ringBlock k)) 4
  let n := rd s (E.ring_slots + ringAt x k)
  rdBytes s (ringKey x (rd s (E.ring_slot_offset + ringAt x k) + 128 * (r % n))) 64

/-- The leader forwards an input to its follower, for the partition it belongs to (R622). -/
def forwardInput (s : State) (kind : Nat) (d : List Byte) : State :=
  if rd s E.twin_role = 1 ∧ !s.twin.lost then emit s (.yoke kind 0 d) else s

/-- The sequencer takes a slot (R675). A record with an undefined `op`, and every record of a partition that is being
scrubbed or of a device out of service, completes at once (R204, R669, R676, R809); one of the homomorphic operations counts as a
failed command (R393). -/
def takeRecord (s : State) (x k : Nat) (r : List Byte) : State :=
  let t : Taken := ⟨r, false, now s, rd s E.step_counter, false, 0, 0, none, []⟩
  let s := setRing s x k { ringOf s x k with queue := (ringOf s x k).queue ++ [t] }
  if rd s E.out_of_service = 1 then finishPlain s x k t 0x0902
  else if ((ownerOf s x).map (scrubbing s)).getD false then finishPlain s x k t 0x0405
  else if knownOps.contains t.op then s
  else finishPlain (if 1 ≤ t.op ∧ t.op ≤ 0x22 then noteHeFault s x t 0x0105 0 else s) x k t 0x0105

def ringSlotTake (s : State) (x k : Nat) : State :=
  if ringStatus s x k ≠ 1 ∨ !sequencerRuns s x ∨ !slotReady s x k then s
  else
    let r := slotRecord s x k
    let s := wrNat s (ringKey x (ringBlock k)) 4 ((rdNat s (ringKey x (ringBlock k)) 4 + 1) % 2 ^ 32)
    takeRecord (forwardInput s 2 r) x k r

def execRingSlotTake (x k : Nat) (s : State) : Res := guarded (decide (x < 32 ∧ k < 8)) s (ringSlotTake s x k)

/-- Held completions are posted while the completion ring has room (R678). -/
def releaseHeld : Nat → State → Nat → Nat → State
  | 0, s, _, _ => s
  | f + 1, s, x, k =>
    match (ringOf s x k).held with
    | [] => s
    | r :: t =>
      if rd s (E.ring_comp_slots + ringAt x k) ≤ unread s x (ringBlock k) then s
      else
        let h := ringOf s x k
        let s := postCompletion (setRing s x k { h with held := [] }) x k r
        releaseHeld f (setRing s x k { ringOf s x k with held := t }) x k

def completionRelease (s : State) (x k : Nat) : State :=
  if sequencerRuns s x then releaseHeld ((ringOf s x k).held.length + 1) s x k else s

def execCompletionRelease (x k : Nat) (s : State) : Res :=
  guarded (decide (x < 32 ∧ k < 8)) s (completionRelease s x k)

/-- The core set of a record: the cores of sector x at the active positions it names. -/
def Taken.cores (t : Taken) (x : Nat) : List Nat :=
  ((List.range 25).filter (bit (t.word 0))).map (25 * x + ·)

/-- The command of a ring that starts next, when it may: the first not started, with none held, no failed step, no
`STEPEND` before it, and with a fence nothing before it (R386, R602, R609, R678). -/
def nextStart (s : State) (x k : Nat) : Option Taken :=
  if !sequencerRuns s x ∨ ringStatus s x k = 0 ∨ s.step.failed ∨ !(ringOf s x k).held.isEmpty then none
  else
    let q := (ringOf s x k).queue
    match q.find? (!·.started) with
    | none => none
    | some t =>
      let before := q.takeWhile (·.started)
      if before.any (·.op == 0x54) ∨ (t.fence ∧ t.op ≠ 0x61 ∧ !before.isEmpty) then none else some t

/-- The command that starts next, when it is one of these operations. -/
def nextOp (s : State) (x k op : Nat) : Option Taken := (nextStart s x k).filter (·.op == op)

/-- A taken command takes a new record. -/
def setTaken (s : State) (x k : Nat) (t v : Taken) : State :=
  setRing s x k { ringOf s x k with queue := (ringOf s x k).queue.replace t v }

/-- The CRC-32C of bytes 0 to 55 stands in W7 (R340, R385, R511). -/
def Taken.checks (t : Taken) : Bool := checkOk t.record

/-- Partition p of a sector whose ring runs a command; rings of unassigned sectors have none. -/
def ringPart (s : State) (x : Nat) : Nat := (ownerOf s x).getD 32

end Sys2Proof.Machine
end

