-- ==== Sys2Proof/Machine/Stitch.lean ====
section
/-! DEFINITION. Stitch groups (R507 to R537): the records of the command rings, commit, apply and abort, and the entries of
the dictionary. -/

namespace Sys2Proof.Machine

open Sys2Proof

/-! ## Commands (R511 to R516) -/

def Taken.group (t : Taken) : Nat := bits (t.word 0) 43 32

/-- `SGOPEN`. -/
def sgOpen (s : State) (x k : Nat) (t : Taken) : State :=
  let fabric := bit (t.word 0) 31
  let step := if fabric then t.word 4 else 0
  if !t.checks then finishPlain s x k t 0x0105
  else if 4096 ≤ s.groups.length then finishPlain s x k t 0x0501
  else if (findGroup s none t.group).isSome ∨ (fabric ∧ step < rd s E.step_counter) then finishPlain s x k t 0x0507
  else
    let g : Group := ⟨none, t.group, ringPart s x, fabric, step, 1, 0, 0, [], [], [], [], none, 0⟩
    let s := { s with groups := s.groups ++ [g], resolved := Tab.set none s.resolved t.group none }
    finishPlain (noteGroups s) x k t 0

def execSgopen (x k : Nat) (s : State) : Res :=
  guarded (decide (x < 32 ∧ k < 8)) s (match nextOp s x k 0x40 with | some t => sgOpen s x k t | none => s)

/-- A core is bound, or some group will bind it at its next program start (R513, R514). -/
def isBound (s : State) (c : Nat) : Bool :=
  (core s c).bound.isSome || s.groups.any fun g => g.opener.isNone && g.binds.any (·.core == c)

/-- `SGBIND`. -/
def sgBind (s : State) (x k : Nat) (t : Taken) : State :=
  let p := ringPart s x
  let base := bits (t.word 1) 47 0
  let len := bits (t.word 2) 47 0
  let cs := t.cores x
  if !t.checks then finishPlain s x k t 0x0105
  else if (vaRange s p (.unit x) .write base len).1 ≠ 0 then finishPlain s x k t 0x0302
  else
    let ok := match findGroup s none t.group with
      | some g => g.state == 1 && g.part == p
      | none => false
    if !ok ∨ cs.any (isBound s) then finishPlain s x k t 0x0507
    else
      let bs := cs.map fun c => (⟨c, base, len, bits (t.word 3) 23 0⟩ : Bind)
      finishPlain (setGroup s none t.group fun g => { g with binds := g.binds ++ bs }) x k t 0

def execSgbind (x k : Nat) (s : State) : Res :=
  guarded (decide (x < 32 ∧ k < 8)) s (match nextOp s x k 0x41 with | some t => sgBind s x k t | none => s)

/-! ## Commit (R516, R519, R521) -/

/-- The waiting `SGCOMMIT` of a ring for a group. -/
def waitingCommit (s : State) (x k i : Nat) : Option Taken :=
  (ringOf s x k).queue.find? fun t => t.started && t.op == 0x42 && t.group == i

/-- The waiting `SGCOMMIT` of a group, if any, completes with a status. -/
def finishCommit (s : State) (w : Option (Nat × Nat)) (i st : Nat) : State :=
  match w with
  | none => s
  | some (x, k) => match waitingCommit s x k i with
    | some t => finishPlain s x k t st
    | none => s

/-- A group of this device aborts before its decision, and an `SGCOMMIT` that waits for it completes (R525). -/
def abortGroup (s : State) (i code cause : Nat) : State :=
  match findGroup s none i with
  | none => s
  | some g =>
    if g.state ≠ 1 then s
    else finishCommit (failGroup s none i code cause) g.waiter i code

/-- A local group that waits for its commit is decided once its bound cores have halted and its writes have been
acknowledged (R516). A group that has failed returns its failure (R524). -/
def tryCommit (s : State) (i : Nat) : State :=
  match findGroup s none i with
  | none => s
  | some g =>
    if g.fabric ∨ g.state ≠ 1 ∨ g.waiter.isNone ∨ g.unacked ≠ 0 ∨ g.binds.any (fun b => (core s b.core).running) then s
    else if g.status ≠ 0 then finishCommit (resolveGroup s none i g.status g.cause) g.waiter i g.status
    else
      let s := { s with commitLog := s.commitLog ++ [⟨none, i, g.step, true, now s⟩] }
      setGroup s none i fun g => { g with state := 4 }

/-- Every group of this device that waits for its commit; and every `SGCOMMIT` whose group an operation has aborted. -/
def settleGroups (s : State) : State :=
  let s := s.groups.foldl (fun t g => if g.opener.isNone then tryCommit t g.id else t) s
  s.sectors.foldl (fun t e => e.2.rings.foldl (fun u r =>
    r.2.queue.foldl (fun v q =>
      if q.started && q.op == 0x42 && ((findGroup v none q.group).map (·.state == 5)).getD true then
        match Tab.get none v.resolved q.group with
        | some (st, _, _) => finishPlain v e.1 r.1 q st
        | none => v
      else v) u) t) s

/-- `SGCOMMIT`. -/
def sgCommit (s : State) (x k : Nat) (t : Taken) : State :=
  if !t.checks then finishPlain s x k t 0x0105
  else
    let ok := match findGroup s none t.group with
      | some g => g.state == 1 && g.part == ringPart s x && !g.fabric && g.waiter.isNone
      | none => false
    if !ok then finishPlain s x k t 0x0507
    else
      let s := setTaken s x k t { t with started := true, startTime := now s }
      tryCommit (setGroup s none t.group fun g => { g with waiter := some (x, k) }) t.group

def execSgcommit (x k : Nat) (s : State) : Res :=
  guarded (decide (x < 32 ∧ k < 8)) s (match nextOp s x k 0x42 with | some t => sgCommit s x k t | none => s)

/-- `SGABORT`. A group that waits for its commit is not decided yet, so it is aborted too. -/
def sgAbort (s : State) (x k : Nat) (t : Taken) : State :=
  if !t.checks then finishPlain s x k t 0x0105
  else
    let ok := match findGroup s none t.group with
      | some g => g.state == 1 && g.part == ringPart s x
      | none => false
    if !ok then finishPlain s x k t 0x0507
    else finishPlain (abortGroup s t.group 0x0504 0) x k t 0

def execSgabort (x k : Nat) (s : State) : Res :=
  guarded (decide (x < 32 ∧ k < 8)) s (match nextOp s x k 0x43 with | some t => sgAbort s x k t | none => s)

/-- `sg_abort_cmd` (R537). -/
def sgAbortSem : EntrySem :=
  { command (fun _ _ => true) (fun s _ v => abortGroup s (bits v 11 0) 0x0504 0) with authOnly := true }

def execSgAbortCmd (via : Path) (d : List Byte) (s : State) : Res :=
  done s (access s (writeBytes via E.sg_abort_cmd d) sgAbortSem)

/-! ## Query (R536) -/

/-- Shadow granules of a group in the storages that f names. -/
def Group.count (g : Group) (f : Nat → Bool) : Nat := (g.granules.filter fun r => f (storageOf r.base)).length

/-- The other entries of `sg_query` for the group of this device that `sgq_id` names. -/
def fillQuery (s : State) (i : Nat) : State :=
  let r := (Tab.get none s.resolved i).getD (0, 0, 0)
  let g := (findGroup s none i).getD ⟨none, i, 0, false, r.2.2, 0, r.1, r.2.1, [], [], [], [], none, 0⟩
  let s := wr (wr (wr s E.sgq_state g.state) E.sgq_status g.status) E.sgq_cause g.cause
  let s := wr (wr s E.sgq_step g.step) E.sgq_cm_granules (g.count fun st => decide (0 < st ∧ st < 1000))
  wr (wr s E.sgq_commons_granules (g.count fun st => decide (1000 ≤ st))) E.sgq_hbm_granules (g.count (· == 0))

def sgqSem : EntrySem := { plain E.sgq_id with eff := fun s _ v => fillQuery (wr s E.sgq_id v) (v % 4096) }

def execSgqFill (via : Path) (d : List Byte) (s : State) : Res := done s (access s (writeBytes via E.sgq_id d) sgqSem)

/-! ## Shadow pools (R507 to R509) -/

/-- Bits set in the low n bits of a number. -/
def bitCount (n v : Nat) : Nat := ((List.range n).filter (bit v)).length

/-- A write of `shadow_pool_cfg` of sector x passes R508. -/
def poolRule (x : Nat) (s : State) (v : Nat) : Bool :=
  let o := rd s (E.shadow_pool_cfg + x)
  let n := bitCount 24 v
  let moved := fun k => bit v k != bit o k
  let hit := (sector s x).landing.any fun r =>
    if r.target = 31 then moved 24 && decide (28 ≤ r.idx) else decide (r.target < 25) && moved r.idx
  let used := (moved 24 && shadowUsedAt s (1000 + x) != 0) ||
    ((List.range 24).any moved && (List.range 25).any fun p => shadowUsedAt s (1 + 25 * x + p) != 0)
  (n == 0 || n == 4) && !hit && !used

/-- Regions that join the pool become W, and are filled with zeros where that changes them (R144, R509). -/
def joinRegion (s : State) (c k : Nat) : State :=
  if bit (core s c).cmAttr k then s
  else zeroFill (setCore s c { core s c with cmAttr := setBit (core s c).cmAttr k true })
    (Mem.cm c (65536 * k)) (Mem.cm c (65536 * (k + 1)))

def setPool (x : Nat) (s : State) (v : Nat) : State :=
  (List.range 25).foldl (fun t p => (List.range 24).foldl (fun u k => if bit v k then joinRegion u (25 * x + p) k else u) t)
    (wr s (E.shadow_pool_cfg + x) (v % 2 ^ 25))

/-- `shadow_pool_cfg` of sector x; its owning unit is the sector, idle while no core of it runs. PRESUMED (log 47). -/
def poolSem (x : Nat) : EntrySem :=
  { plain (E.shadow_pool_cfg + x) with
    rule := poolRule x
    idle := fun s => !(List.range 25).any fun p => (core s (25 * x + p)).running
    eff := fun s _ v => setPool x s v }

/-! ## Resets (R530) -/

/-- The group has shadow in core memory or commons of sector x. -/
def Group.inSector (g : Group) (x : Nat) : Bool :=
  g.granules.any fun r => decide (2 ^ 38 ≤ r.base) && bits r.base 36 32 == x

/-- Shadow in sector x is lost, with the writes it held. -/
def dropSector (s : State) (o : Option Nat) (i x : Nat) : State :=
  setGroup s o i fun g => { g with granules := g.granules.filter fun r => !(decide (2 ^ 38 ≤ r.base) && bits r.base 36 32 == x) }

/-- A reset of sector x clears its shadow: a group that has not been decided, or for which this target has not voted, is
aborted with 0x0503. A vote stands, and the target asks the opener for the decision; a decision stands. -/
def groupsSectorReset (s : State) (x : Nat) : State :=
  noteGroups (s.groups.foldl (fun t g =>
    if !g.inSector x then t
    else if g.state = 1 ∨ (g.opener.isNone ∧ g.state < 4) then
      match g.opener with
      | none => finishCommit (failGroup t none g.id 0x0503 0) g.waiter g.id 0x0503
      | some _ => failGroup t g.opener g.id 0x0503 0
    else
      let t := dropSector t g.opener g.id x
      match g.opener with
      | some o => if g.state = 3 then sendNotice t 0x23 o 0 0 (groupPayload g.id 2 g.step) else t
      | none => t) s)

end Sys2Proof.Machine
end

