-- ==== Sys2Proof/Machine/CoreStart.lean ====
section
/-! DEFINITION. The start and the end of a program on a core (R234, R362, R375, R432, R445, R469, R492, R513, R756 to R758,
R838, R852). -/

namespace Sys2Proof.Machine

open Sys2Proof

/-! ## Secret randomness (R756, R838) -/

/-- The DRBG gives a 128-bit block and updates its state, as the CTR_DRBG of NIST SP 800-90A over SM4 does.
PRESUMED (log 11). -/
def drawBlock (s : State) : State × Nat :=
  let d := s.island.drbg
  let at_ := fun i : Nat => sm4 d.key ((d.v + i) % 2 ^ 128)
  ({ s with island := { s.island with drbg := ⟨at_ 2, at_ 3, d.requests + 1⟩ } }, at_ 1)

/-- n blocks of 16 bytes. -/
def drawBytes : Nat → State → State × List Byte
  | 0, s => (s, [])
  | n + 1, s =>
    let r := drawBlock s
    let t := drawBytes n r.1
    (t.1, beBytes 16 r.2 ++ t.2)

/-- The SM3-based KDF of GB/T 32918, for 128 bits. -/
def kdf128 (z : List Byte) : Nat := beNat ((sm3 (z ++ beBytes 4 1)).take 16)

/-- The noise key of a program start on core c: the one its leader forwarded (R623), one derived from a replay seed
(R838), or one drawn. -/
def noiseKey (s : State) (c : Nat) : State × Nat :=
  let p := (ownerOf s (c / 25)).getD 32
  match (if rd s E.twin_role = 2 then Tab.get none s.twin.noise c else none) with
  | some v => ({ s with twin := { s.twin with noise := Tab.set none s.twin.noise c none } }, v)
  | none =>
    match (if rd s (E.nr_mode + 256 * p) = 0 then none else Tab.get none s.replays p) with
    | some r =>
      let n := Tab.get 0 r.starts c + 1
      let s := { s with replays := Tab.set none s.replays p (some { r with starts := Tab.set 0 r.starts c n }) }
      (inc s (E.nr_starts + 256 * p), kdf128 (r.seed ++ leBytes 2 c ++ leBytes 8 n))
    | none => drawBlock s

/-! ## Start (R234) -/

/-- Core c starts its program at a half-word. Tiles, accumulators, core memory and
`cm_attr` keep their contents. -/
def startCore (s : State) (c entry : Nat) : State :=
  let x := c / 25
  let r := noiseKey s c
  let s := forwardInput r.1 4 (leBytes 2 c ++ beBytes 16 r.2)
  let seed := (rd s E.tag_seed + c) % 2 ^ 32
  let amax := rd s E.amax_history_default
  let c2 := bit (rd s (E.core_mode + x)) (c % 25)
  let group := s.groups.find? fun g => g.opener.isNone && g.state == 1 && g.binds.any (·.core == c)
  onCore s c fun o =>
    { Core.init with
      running := true
      pc := entry
      cmAttr := o.cmAttr
      front := o.front
      kernel := o.kernel
      c2 := c2
      queues := if c2 then (List.range 8).foldl (fun t q => Tab.set Queue.init t q ⟨false, 8, [], 0⟩) [] else []
      cmps := o.cmps.map fun e => (e.1, { e.2 with flag := false })
      trackers := (List.range 16).foldl (fun t i => Tab.set none t i (some ⟨0, [], 0, amax⟩)) []
      noiseKey := r.2
      pinned := pagesOf s c
      bound := match o.bound with | some i => some i | none => group.map (·.id)
      tagLfsr := if seed = 0 then 1 else seed }

/-! ## End (R272, R362, R492, R516, R525) -/

/-- A started `PSTART` or `PSTOP` completes when every core it names has halted (R686, R687). A `PSTART` reports the
lowest nonzero halt status, or the status with which a `PSTOP` or a scrub ended it. -/
def settleStart (s : State) (x k : Nat) (t : Taken) : State :=
  let cs := t.cores x
  if !t.started ∨ (t.op ≠ 0x60 ∧ t.op ≠ 0x61) ∨ cs.any (fun c => (core s c).running) then s
  else if t.op = 0x61 then finishPlain s x k t 0
  else
    let bad := cs.filter fun c => (core s c).halt != 0
    let low := ((bad.map fun c => (core s c).halt).min?).getD 0
    let st := if t.abort ≠ 0 then t.abort else low
    let faults := (bad.map fun c => 2 ^ (c % 25)).sum
    finishProv { s with freeCtr := s.freeCtr + 1 } x k t st (completionRecord s t st faults 0 (plainBeats s)) (List.replicate 16 0)

/-- Every such command of sector x. -/
def settleStarts (s : State) (x : Nat) : State :=
  (List.range 8).foldl (fun u k => (ringOf u x k).queue.foldl (fun v t => settleStart v x k t) u) s

/-- The program of core c ends with a status. Work that its engines and its AU had in flight is over; an `STX` has its grant. -/
def haltCore (s : State) (c st : Nat) : State :=
  let s := onCore (flush s c) c fun k =>
    { k.leaveRings with
      running := false, halt := st, noiseKey := 0, block := none, pendBlock := none, waiting := 0, stopping := none
      passes := [], ops := [], xfers := [], grants := [], raised := [], ldpm := none, c2q := [], c2Stopped := 0 }
  settleStarts (settleGroups (leaveAborted s c)) (c / 25)

/-- A write of program memory from outside core c, by its sector controller, the awl path or the dictionary: into the back bank
while no `LDPM` runs, and into the front bank while the core is halted; any other is refused and counted (R279). -/
def pmWrite (s : State) (c bank off : Nat) (d : List Byte) : State × Nat :=
  let k := core s c
  if (if bank = k.front then k.running else k.ldpm.isSome) then (inc s E.pm_bank_busy_count, 0x0103)
  else (wrBytes s (Mem.prog c bank off) d, 0)

/-- A fault of the control core at beat a ends the program (R272, R287). -/
def haltFault (s : State) (c code a : Nat) : State :=
  haltCore (noteFault s c code ((core s c).pc / 2) a ⟨0, 0, 0, 0⟩) c code

/-- Something stops core c: its block takes no further instruction and ends as at a fault, and the program ends with it,
at once when no block runs (R259, R687, R759). -/
def stopCore (s : State) (c st : Nat) : State :=
  let k := core s c
  if !k.running then s
  else match k.block with
    | none => haltCore s c st
    | some b =>
      onCore s c fun k => { k with
        stopping := some st, pendBlock := none, waiting := 0, block := some { b with fault := if b.fault = 0 then st else b.fault } }

/-- The end of a block also ends a program that something has stopped. -/
def blockEndOrHalt (s : State) (c : Nat) : State :=
  let s := blockEnd s c
  match (core s c).stopping, (core s c).block with
  | some st, none => haltCore s c st
  | _, _ => s

def execBlockEnd (c : Nat) (s : State) : Res :=
  guarded (decide (c < 800)) s (if coreRuns s c then blockEndOrHalt s c else s)

end Sys2Proof.Machine
end

