-- ==== Sys2Proof/Machine/Control.lean ====
section
/-! DEFINITION. The control core's instructions (R238, R271 to R284). -/

namespace Sys2Proof.Machine

open Sys2Proof

/-! ## Registers and beats (R271, R272) -/

/-- Register i, 64 bits wide; X0 reads 0. -/
def Core.x (k : Core) (i : Nat) : Nat := if i = 0 then 0 else Tab.get 0 k.xs i % 2 ^ 64
/-- A write of register i; writes of X0 are discarded. -/
def Core.setX (k : Core) (i v : Nat) : Core := if i = 0 then k else { k with xs := Tab.set 0 k.xs i (v % 2 ^ 64) }

/-- The low n bits of v, extended by their sign to 64 bits. -/
def signExt (n v : Nat) : Nat := if bit v (n - 1) then 2 ^ 64 + v % 2 ^ n - 2 ^ n else v % 2 ^ n

/-- The immediates. -/
def imm14 (i : CIns) : Nat := i.imm.toNat % 2 ^ 14

/-- Some block runs or is pending. -/
def Core.blockBusy (k : Core) : Bool := k.block.isSome || k.pendBlock.isSome

/-- The control core goes on at half-word `pc` and may issue again at beat `next`. -/
def Core.goOn (k : Core) (pc next : Nat) : Core :=
  { k with
    pc := pc, cbeat := next, beat := max k.beat (next - 1), waiting := 0
    ended := k.ended.filter fun e => decide (next < e.1) }

/-- The next instruction in order, n beats after beat a. -/
def Core.onward (k : Core) (a n : Nat) : Core := k.goOn (k.pc + 1) (a + n)

/-- An instruction of the control core of core c, from the first beat at which it may issue. A program that has run past
its bank meets an invalid instruction. DEDUCED (log 28). -/
def controlCore (s : State) (c : Nat) (f : Core → Nat → State) : State :=
  let k := core s c
  if !coreRuns s c ∨ k.stopping.isSome then s
  else if 32768 ≤ k.pc then haltFault s c 0x0105 k.cbeat
  else f k k.cbeat

/-- The control core waits, and issues the same instruction later. -/
def hold (s : State) (c : Nat) : State := onCore s c fun k => { k with waiting := 3 }

/-- The target of a branch, modulo 2^18. -/
def branchTo (pc : Nat) (i : CIns) : Nat := (((pc : Int) + signed 14 (imm14 i)) % 2 ^ 18).toNat

/-! ## Arithmetic and branches -/

def movi (s : State) (c : Nat) (i : CIns) : State :=
  controlCore s c fun k a => setCore s c ((k.onward a 1).setX i.xd (signExt 18 i.imm.toNat))

def execMovi (c : Nat) (i : CIns) (s : State) : Res := guarded (decide (c < 800)) s (movi s c i)

def addi (s : State) (c : Nat) (i : CIns) : State :=
  controlCore s c fun k a => setCore s c ((k.onward a 1).setX i.xd (k.x i.xa + signExt 14 (imm14 i)))

def execAddi (c : Nat) (i : CIns) (s : State) : Res := guarded (decide (c < 800)) s (addi s c i)

/-- The operations of `ALU`. A shift by 64 or more has a free result (log 48). -/
def aluOp (f a b : Nat) : Nat :=
  match f with
  | 0 => a + b
  | 1 => a + 2 ^ 64 - b
  | 2 => a &&& b
  | 3 => a ||| b
  | 4 => a ^^^ b
  | 5 => if b < 64 then a * 2 ^ b else shiftOpen true a b
  | 6 => if b < 64 then a / 2 ^ b else shiftOpen false a b
  | _ => a * b

def alu (s : State) (c : Nat) (i : CIns) : State :=
  controlCore s c fun k a => setCore s c ((k.onward a 1).setX i.xd (aluOp ((imm14 i) % 8) (k.x i.xa) (k.x i.xb)))

def execAlu (c : Nat) (i : CIns) (s : State) : Res := guarded (decide (c < 800)) s (alu s c i)

/-- The relations of `BCC`. -/
def branchHolds (r a b : Nat) : Bool :=
  match r with
  | 0 => a == b
  | 1 => a != b
  | 2 => decide (signed 64 a < signed 64 b)
  | 3 => decide (a < b)
  | 4 => decide (signed 64 b ≤ signed 64 a)
  | _ => decide (b ≤ a)

/-- `BCC`. A relation above 5 is invalid, and the program halts. DEDUCED (log 28). -/
def bcc (s : State) (c : Nat) (i : CIns) : State :=
  controlCore s c fun k a =>
    if 5 < i.xd then haltFault s c 0x0105 a
    else if branchHolds i.xd (k.x i.xa) (k.x i.xb) then setCore s c (k.goOn (branchTo k.pc i) (a + 2))
    else setCore s c (k.onward a 1)

def execBcc (c : Nat) (i : CIns) (s : State) : Res := guarded (decide (c < 800)) s (bcc s c i)

def brf (s : State) (c : Nat) (i : CIns) : State :=
  controlCore s c fun k a =>
    if (List.range 4).any fun n => bit i.xd n && k.flag n then setCore s c (k.goOn (branchTo k.pc i) (a + 2))
    else setCore s c (k.onward a 1)

def execBrf (c : Nat) (i : CIns) (s : State) : Res := guarded (decide (c < 800)) s (brf s c i)

def jmp (s : State) (c : Nat) (i : CIns) : State :=
  controlCore s c fun k a => setCore s c (k.goOn i.imm.toNat (a + 2))

def execJmp (c : Nat) (i : CIns) (s : State) : Res := guarded (decide (c < 800)) s (jmp s c i)

/-! ## Core memory (R122 to R124, R136, R150, R513) -/

/-- The first beat from a at which slot 15 serves the bank of a core-memory offset. -/
def slot15 (a off : Nat) : Nat := a + (31 - (a + off / 64 % 16) % 16) % 16

/-- The offset that `LDX` and `STX` name. -/
def ctlOffset (k : Core) (i : CIns) : Nat := (k.x i.xa + 8 * (imm14 i)) % 2 ^ 64

/-- `LDX` reads what the array holds at its grant (R123, R125). An access outside the core's memory, or in its shadow pool, is
refused and ends the program with 0x0302; poisoned data ends it with 0x0303. DEDUCED (log 49). -/
def ldx (s : State) (c : Nat) (i : CIns) : State :=
  controlCore s c fun k a =>
    let o := ctlOffset k i
    let key := Mem.cm c o
    if 0x180000 < o + 8 ∨ inPool s key then haltCore s c 0x0302
    else
      let t := meet (retire s c (slot15 a o)) key 8
      if poisoned t key 8 then haltCore t c 0x0303
      else onCore t c fun k => (k.onward (slot15 a o) 5).setX i.xd (rdNat t key 8)

def execLdx (c : Nat) (i : CIns) (s : State) : Res := guarded (decide (c < 800)) s (ldx s c i)

/-- `STX`: its line is in the array at the end of its grant beat (R124), and not before it; the write joins the core's group where
its filter says so. -/
def stx (s : State) (c : Nat) (i : CIns) : State :=
  controlCore s c fun k a =>
    let o := ctlOffset k i
    if 0x180000 < o + 8 then haltCore s c 0x0302
    else
      let d := leBytes 8 (k.x i.xb)
      let u := retire s c (slot15 a o)
      let r := coreStore u c none (Mem.cm c o) d false
      if r.2 ≠ 0 then haltCore r.1 c r.2
      else onCore u c fun k =>
        (k.book ⟨slot15 a o, none, true, 0, Mem.cm c o, none, 8, none, some (d, false)⟩).onward (slot15 a o) 1

def execStx (c : Nat) (i : CIns) (s : State) : Res := guarded (decide (c < 800)) s (stx s c i)

/-! ## Blocks (R236, R238, R273 to R275) -/

/-- A block starts when none runs: at c + 4, or at e + 1 where the last block had not ended by beat c. One that fails its checks
does not start, and the control core has its status at once (R236, R238, R287). -/
def runNow (s : State) (c w a : Nat) : State :=
  let k := core s c
  let b0 := if a < k.lastEnd then k.lastEnd else a + 4
  if blockValid s c w then startBlock s c w b0
  else onCore (noteFault s c 0x0105 (k.pc / 2) a ⟨0, 0, 0, 0⟩) c fun k => k.blockOver 0x0105 a

/-- `RUNB` and `RUNC`, with the flag that decides (4: none). In C2 mode they return 0x0105 (R280). -/
def runBlock (s : State) (c f xa xb : Nat) : State :=
  controlCore s c fun k a =>
    -- held until the block that was pending has started (R238)
    let a := max a k.pendStart
    if k.c2 then
      onCore (noteFault s c 0x0105 (k.pc / 2) a ⟨0, 0, 0, 0⟩) c fun k => (k.onward a 1).blockOver 0x0105 a
    else if k.pendBlock.isSome then hold s c
    else if k.block.isSome then onCore s c fun k => { k.onward a 1 with pendBlock := some ⟨f, xa, xb, k.pc / 2, a⟩ }
    else onCore (runNow s c (if f < 4 && !k.flag f then xb else xa) a) c fun k => k.onward a 1

def runb (s : State) (c : Nat) (i : CIns) : State :=
  let xa := (core s c).x i.xa
  runBlock s c 4 xa xa

def execRunb (c : Nat) (i : CIns) (s : State) : Res := guarded (decide (c < 800)) s (runb s c i)

def runc (s : State) (c : Nat) (i : CIns) : State :=
  runBlock s c ((imm14 i) % 4) ((core s c).x i.xa) ((core s c).x i.xb)

def execRunc (c : Nat) (i : CIns) (s : State) : Res := guarded (decide (c < 800)) s (runc s c i)

/-- `WAITB` returns, from beat e + 1, the status of the block that ran at its beat, whatever has started since; or that of the
last block when none ran (R272, R275). -/
def waitb (s : State) (c : Nat) (i : CIns) : State :=
  controlCore s c fun k a =>
    match k.ended.find? fun e => decide (a < e.1) with
    | some e => setCore s c ((k.onward e.1 1).setX i.xd e.2)
    | none =>
      if k.block.isSome then hold s c
      else setCore s c ((k.onward (max a k.lastEnd) 1).setX i.xd k.lastStatus)

def execWaitb (c : Nat) (i : CIns) (s : State) : Res := guarded (decide (c < 800)) s (waitb s c i)

/-- What waits until no block runs or is pending (R274, R278). -/
def betweenBlocks (s : State) (c : Nat) (f : Core → Nat → State) : State :=
  controlCore s c fun k a => if k.blockBusy then hold s c else f k (max a k.lastEnd)

def setlc (s : State) (c : Nat) (i : CIns) : State :=
  betweenBlocks s c fun k a =>
    setCore s c { k.onward a 1 with lc := Tab.set 0 k.lc ((imm14 i) % 8) (k.x i.xa % 65536) }

def execSetlc (c : Nat) (i : CIns) (s : State) : Res := guarded (decide (c < 800)) s (setlc s c i)

def getlc (s : State) (c : Nat) (i : CIns) : State :=
  controlCore s c fun k a => setCore s c ((k.onward a 1).setX i.xd (Tab.get 0 k.lc ((imm14 i) % 8)))

def execGetlc (c : Nat) (i : CIns) (s : State) : Res := guarded (decide (c < 800)) s (getlc s c i)

/-- `SETCMP`. An enabled comparator of an invalid type or relation is an invalid instruction. DEDUCED (log 28). -/
def setcmp (s : State) (c : Nat) (i : CIns) : State :=
  betweenBlocks s c fun k a =>
    let cfg := k.x i.xa % 2 ^ 32
    if bit cfg 0 && cmpInvalid cfg then haltFault s c 0x0105 a
    else
      let n := (imm14 i) % 4
      let m := Tab.get Cmp.init k.cmps n
      setCore s c { k.onward a 1 with
        cmps := Tab.set Cmp.init k.cmps n { m with cfg := cfg, threshold := k.x i.xb % 2 ^ 32 } }

def execSetcmp (c : Nat) (i : CIns) (s : State) : Res := guarded (decide (c < 800)) s (setcmp s c i)

def getvs (s : State) (c : Nat) (i : CIns) : State :=
  controlCore s c fun k a => setCore s c ((k.onward a 1).setX i.xd (Tab.get 0 k.vsSnap ((imm14 i) % 8)))

def execGetvs (c : Nat) (i : CIns) (s : State) : Res := guarded (decide (c < 800)) s (getvs s c i)

/-! ## Program memory (R276 to R278) -/

/-- `LDPM`. A size or place outside the back bank returns 0x0105. DEDUCED (log 50). -/
def ldpm (s : State) (c : Nat) (i : CIns) : State :=
  controlCore s c fun k a =>
    let n := k.x i.xb % 2 ^ 18
    if k.ldpm.isSome then setCore s c ((k.onward a 1).setX i.xd 0x0103)
    else if n % 8 ≠ 0 ∨ 131072 < n ∨ 131072 < 8 * (imm14 i) + n then setCore s c ((k.onward a 1).setX i.xd 0x0105)
    else setCore s c { (k.onward a 1).setX i.xd 0 with ldpm := some ⟨k.x i.xa, n, (imm14 i), a⟩ }

def execLdpm (c : Nat) (i : CIns) (s : State) : Res := guarded (decide (c < 800)) s (ldpm s c i)

/-- The pieces of an `LDPM`'s source up to its first failure, and the code of that failure. -/
def ldpmPieces (s : State) (c : Nat) : Nat → Nat → Nat → List (Nat × Nat) × Nat
  | 0, _, _ => ([], 0)
  | f + 1, va, n =>
    if n = 0 then ([], 0)
    else
      let m := min n (65536 - va % 65536)
      let r := translate s c .code va
      if r.1 ≠ 0 then ([], r.1)
      else if isOutbound r.2 then ([], 0x0302)
      else
        let t := ldpmPieces s c f (va + m) (n - m)
        ((r.2, m) :: t.1, t.2)

/-- The copy ends: the words before a failure stay in the back bank. -/
def ldpmDone (s : State) (c beats : Nat) : State :=
  let k := core s c
  match k.ldpm with
  | none => s
  | some l =>
    if !coreRuns s c then s
    else
      let r := ldpmPieces s c 4 l.va l.bytes
      let s := r.1.foldl (fun t e => meet (settleMem t e.1) e.1 e.2) s
      let d := r.1.flatMap fun e => rdBytes s e.1 e.2
      let bad := r.1.any fun e => poisoned s e.1 e.2
      let s := wrBytes s (Mem.prog c (1 - k.front) (8 * l.word)) (d.take (d.length / 8 * 8))
      let st := if r.2 ≠ 0 then r.2 else if bad then 0x0303 else 0
      onCore s c fun k => { k with
        ldpm := none, ldpmStatus := st, ldpmEnd := l.beat + beats, beat := max k.beat (l.beat + beats) }

def execLdpmDone (c beats : Nat) (s : State) : Res := guarded (decide (c < 800)) s (ldpmDone s c beats)

/-- `SWAP`. -/
def swap (s : State) (c : Nat) (i : CIns) : State :=
  betweenBlocks s c fun k a =>
    if k.ldpm.isSome then setCore s c ((k.onward a 1).setX i.xd 0x0103)
    else setCore s c ({ k.goOn (k.x i.xa) (a + 1) with front := 1 - k.front, kernel := none }.setX i.xd 0)

def execSwap (c : Nat) (i : CIns) (s : State) : Res := guarded (decide (c < 800)) s (swap s c i)

/-- `PMWAIT`. -/
def pmwait (s : State) (c : Nat) (i : CIns) : State :=
  controlCore s c fun k a =>
    if k.ldpm.isSome then hold s c else setCore s c ((k.onward (max a k.ldpmEnd) 1).setX i.xd k.ldpmStatus)

def execPmwait (c : Nat) (i : CIns) (s : State) : Res := guarded (decide (c < 800)) s (pmwait s c i)

/-! ## C2 mode and the end (R281, R284) -/

/-- `ENQ`. Outside C2 mode, or for a unit above 4, it is invalid. DEDUCED (log 28). -/
def enq (s : State) (c : Nat) (i : CIns) : State :=
  controlCore s c fun k a =>
    let q := (imm14 i) % 8
    if !k.c2 ∨ 4 < q then haltFault s c 0x0105 a
    else if 16 ≤ (Tab.get [] k.c2q q).length then hold s c
    else setCore s c { k.onward a 1 with c2q := Tab.set [] k.c2q q (Tab.get [] k.c2q q ++ [k.x i.xa + 2 ^ 64 * (k.pc / 2)]) }

def execEnq (c : Nat) (i : CIns) (s : State) : Res := guarded (decide (c < 800)) s (enq s c i)

/-- Every queue of a unit that has not stopped is empty, and the AU is idle. -/
def Core.c2Idle (k : Core) : Bool :=
  k.xfers.isEmpty && (List.range 5).all fun q => bit k.c2Stopped q || (Tab.get [] k.c2q q).isEmpty

/-- `WAITE` returns the status of the first failure since the last one, and stopped units go on after it. -/
def waite (s : State) (c : Nat) (i : CIns) : State :=
  controlCore s c fun k a =>
    if !k.c2 then haltFault s c 0x0105 a
    else if !k.c2Idle then hold s c
    else
      let s := retire s c ((k.ops.map fun o => o.last + 1).foldl max 0)
      onCore s c fun k =>
        { (k.onward (max k.cbeat k.beat) 1).setX i.xd k.c2Status with c2Status := 0, c2Stopped := 0 }

def execWaite (c : Nat) (i : CIns) (s : State) : Res := guarded (decide (c < 800)) s (waite s c i)

/-- The half-word h of the front bank: the lower half of word h / 2 for an even h (R6, R271). -/
def halfWord32 (s : State) (c h : Nat) : Nat := bits (frontWord s c (h / 2)) (32 * (h % 2) + 31) (32 * (h % 2))

/-- A half-word is a control-core instruction (R272). -/
def ctlDefined (w : Nat) : Bool :=
  [0x01, 0x02, 0x03, 0x05, 0x06, 0x08, 0x09, 0x0A, 0x10, 0x11, 0x12, 0x13, 0x14, 0x15, 0x16, 0x18, 0x19, 0x1A, 0x20, 0x21, 0x3F].contains
    (bits w 31 26)

/-- `HALT`. It waits for the running and the pending block, so that they end by R239. DEDUCED (log 51). An undefined half-word in
its place is an invalid instruction (R272). DEDUCED (log 202). -/
def halt (s : State) (c : Nat) (i : CIns) : State :=
  controlCore s c fun k a =>
    if !ctlDefined (halfWord32 s c k.pc) then haltFault s c 0x0105 a
    else if k.blockBusy then hold s c else haltCore s c (k.x i.xa % 65536)

def execHalt (c : Nat) (i : CIns) (s : State) : Res := guarded (decide (c < 800)) s (halt s c i)

end Sys2Proof.Machine
end

