-- ==== Sys2Proof/Machine/Package.lean ====
section
/-! DEFINITION. Encrypted packages, and the releases that let the security island open them (R747 to R752, R840). -/

namespace Sys2Proof.Machine

open Sys2Proof

/-! ## The SM2 curve (GB/T 32918.5, R767): the specification names it and gives no numbers. PRESUMED (log 11) -/

def sm2P : Nat := 0xFFFFFFFEFFFFFFFFFFFFFFFFFFFFFFFFFFFFFFFF00000000FFFFFFFFFFFFFFFF
def sm2A : Nat := 0xFFFFFFFEFFFFFFFFFFFFFFFFFFFFFFFFFFFFFFFF00000000FFFFFFFFFFFFFFFC
def sm2B : Nat := 0x28E9FA9E9D9F5E344D5A9E4BCF6509A7F39789F515AB8F92DDBCBD414D940E93

/-- A point, as its coordinates; (0, 0) is the point at infinity (R767). -/
abbrev Point := Nat × Nat

/-- The point satisfies the curve's equation. -/
def onCurve (p : Point) : Bool :=
  decide (p.1 < sm2P ∧ p.2 < sm2P) && p.2 * p.2 % sm2P == (p.1 * p.1 * p.1 + sm2A * p.1 + sm2B) % sm2P

/-- A point of 64 bytes, x before y, each big-endian. -/
def pointOf (b : List Byte) : Point := (beNat (b.take 32), beNat ((b.drop 32).take 32))

/-! ## Releases (R749, R750) -/

/-- The entry that counts the release table. -/
def noteReleases (s : State) : State := wr s E.releases_held s.island.releases.length

def setReleases (s : State) (l : List Release) : State :=
  noteReleases { s with island := { s.island with releases := l } }

/-- The release of a package for a partition. -/
def findRelease (s : State) (p pkg : Nat) : Option Release :=
  s.island.releases.find? fun r => r.part == p && r.pkg == pkg

/-- Releases with one use of (p, pkg) less; a release whose uses are up is removed. -/
def spend (p pkg : Nat) : List Release → List Release
  | [] => []
  | r :: t =>
    if r.part = p ∧ r.pkg = pkg then if r.uses ≤ 1 then t else { r with uses := r.uses - 1 } :: t
    else r :: spend p pkg t

/-! ## Opening a package (R747, R748, R751) -/

/-- The n bytes at a lie in the HBM share of partition p. -/
def inShare (s : State) (p a n : Nat) : Bool :=
  decide (p < 32) && assigned s p && decide (rd s (E.part_hbm_base + 256 * p) ≤ a ∧ a + n ≤ partEnd s p)

/-- Fields of a package header. -/
def pkgBytes (h : List Byte) (lo n : Nat) : List Byte := (h.drop lo).take n
def pkgId (h : List Byte) : Nat := leNat (pkgBytes h 8 8)
def pkgLength (h : List Byte) : Nat := leNat (pkgBytes h 16 8)

/-- The content key, or `none` when P_e is not on the curve or the wrap tag does not match. -/
def contentKey (h secret : List Byte) : Option Nat :=
  let pe := pointOf (pkgBytes h 24 64)
  let z := beBytes 32 (wrapShared pe.1 pe.2 % 2 ^ 256)
  let kek := kdf128 (z ++ secret ++ pkgBytes h 8 8)
  let ct := pkgBytes h 88 16
  if onCurve pe && gcmTag kek 0 (h.take 88) ct == beNat (pkgBytes h 104 16) then some (beNat (gcmCrypt kek 0 ct)) else none

/-- The plaintext of the package at HBM address a under a content key, or `none` when its tag fails. -/
def pkgPlain (s : State) (a key : Nat) : Option (List Byte) :=
  let h := rdBytes s a 256
  let n := pkgLength h
  let ct := rdBytes s (a + 256) n
  let iv := beNat (pkgBytes h 120 12)
  if !poisoned s a (256 + n + 16) && gcmTag key iv h ct == beNat (rdBytes s (a + 256 + n) 16) then some (gcmCrypt key iv ct)
  else none

/-- The checks of R751 up to the content key, for a package of a kind at HBM address a in partition p: the state with a
use spent, the first failing code, and the content key. An opening that passes the release check spends a use. -/
def openPackage (s : State) (p kind a : Nat) : State × Nat × Nat :=
  let h := rdBytes s a 256
  if !inShare s p a 256 || !inShare s p a (256 + pkgLength h + 16) then (s, 0x0302, 0)
  else if leNat (h.take 2) ≠ 0x5650 ∨ leNat (pkgBytes h 2 1) ≠ 1 ∨ leNat (pkgBytes h 3 1) ≠ kind ∨ leNat (pkgBytes h 4 1) ≠ p then
    (s, 0x0704, 0)
  else match findRelease s p (pkgId h) with
  | none => (s, 0x0702, 0)
  | some r =>
    let s := setReleases s (spend p (pkgId h) s.island.releases)
    match contentKey h r.secret with
    | none => (s, 0x0703, 0)
    | some k => (s, 0, k)

/-! ## Data packages (R751, R752, R764) -/

/-- The package load ends with a status. -/
def pkgEnd (s : State) (code : Nat) : State :=
  wr (wr { s with island := { s.island with pkg := none } } E.pkg_status code) E.pkg_state 2

/-- `pkg_cmd`: the checks of R751, and then the decrypt runs; out of service, 0x0902 (R809). An outbound destination is no
memory of the partition (PRESUMED, log 46). -/
def pkgStart (s : State) : State :=
  let p := rd s E.pkg_partition
  let a := rd s E.pkg_addr
  let d := rd s E.pkg_dest
  let r := openPackage s p 2 a
  if rd s E.out_of_service = 1 then pkgEnd s 0x0902
  else if r.2.1 ≠ 0 then pkgEnd r.1 r.2.1
  else
    let n := pkgLength (rdBytes s a 256)
    let t := vaRange r.1 p .manager .write d n
    if t.1 ≠ 0 ∨ t.2.any (fun e => isOutbound e.1) then pkgEnd r.1 0x0302
    else
      let s := { r.1 with island := { r.1.island with pkg := some ⟨p, d, n, pkgPlain s a r.2.2⟩ } }
      wr (wr s E.pkg_state 1) E.pkg_status 0

def pkgSem : EntrySem :=
  command (fun s v => rd s E.pkg_state != 1 && v == 1) (fun s _ _ => pkgStart s)

/-- The other entries of `package_load` (R764). -/
def pkgEntrySem (k : Nat) : EntrySem := limited k fun s _ => rd s E.pkg_state != 1

def execPkgDecrypt (via : Path) (s : State) : Res := done s (access s (writeOf via E.pkg_cmd 1) pkgSem)

/-- The decrypt ends: the plaintext stands at its destination, or zeros when the tag failed (R752). The island's writes
enter a sector through its mesh router, so they land as remote writes do (R164). -/
def pkgDone (s : State) : State :=
  match s.island.pkg with
  | none => s
  | some j =>
    let d := j.plain.getD (List.replicate j.length 0)
    let r := vaWrite s 32 j.part none j.dest d
    pkgEnd r.1 (if j.plain.isNone then 0x0703 else r.2)

def execPkgDecryptDone (s : State) : Res := done s (pkgDone s)

end Sys2Proof.Machine
end

