-- ==== Sys2Proof/Machine/Determinism.lean ====
section
/-! DEFINITION. Noise replay, counters, histograms, bandwidth windows, tagging (21_determinism_and_counters, R837 to R855), and the end of
a failure of the TRNG (R758). -/

namespace Sys2Proof.Machine

open Sys2Proof

/-! ## Noise replay (R837 to R841) -/

/-- `nr_sealed` (R839). P_e, Z and the signature are free: no rule gives the ephemeral key or the Alias key. -/
def sealReplay (s : State) (p id : Nat) (seed : List Byte) : List Byte :=
  let o := fun i => openValue 70 s.freeCtr i
  let head := leBytes 2 0x4E52 ++ [1] ++ leBytes 1 p ++ leBytes 4 0 ++ leBytes 8 id ++ beBytes 64 (o 1 % 2 ^ 512)
  let kek := kdf128 (beBytes 32 (o 2 % 2 ^ 256) ++ leBytes 8 id)
  let ct := gcmCrypt kek 0 seed
  head ++ ct ++ beBytes 16 (gcmTag kek 0 head ct) ++ List.replicate 64 0 ++ beBytes 64 (o 3 % 2 ^ 512)

/-- A new seed and record for partition p: mode 1. -/
def armReplay (s : State) (p : Nat) : State :=
  let r := drawBytes 2 s
  let s := r.1
  let id := openValue 70 s.freeCtr 0 % 2 ^ 64
  let z := sealReplay s p id r.2
  let s := { s with replays := Tab.set none s.replays p (some ⟨r.2, []⟩), freeCtr := s.freeCtr + 1 }
  let s := wr (wr (wr s (E.nr_record_id + 256 * p) id) (E.nr_sealed + 256 * p) (leNat z)) (E.nr_starts + 256 * p) 0
  wr (wr s (E.nr_mode + 256 * p) 1) (E.nr_status + 256 * p) 2

/-- The seed and record ID of a replay package: mode 2 (R840). A failure changes the status entries only. -/
def loadReplay (s : State) (p : Nat) : State :=
  let a := rd s (E.nr_pkg_addr + 256 * p)
  let r := openPackage s p 3 a
  let pt := if r.2.1 = 0 then pkgPlain s a r.2.2 else none
  let fail := fun (t : State) (c : Nat) => wr (wr t (E.nr_pkg_status + 256 * p) c) (E.nr_status + 256 * p) 5
  match pt with
  | none => fail r.1 (if r.2.1 = 0 then 0x0703 else r.2.1)
  | some b =>
    if b.length ≠ 40 then fail r.1 0x0704
    else
      let s := { r.1 with replays := Tab.set none r.1.replays p (some ⟨b.take 32, []⟩) }
      let s := wr (wr s (E.nr_record_id + 256 * p) (leNat (b.drop 32))) (E.nr_starts + 256 * p) 0
      wr (wr (wr s (E.nr_pkg_status + 256 * p) 0) (E.nr_mode + 256 * p) 2) (E.nr_status + 256 * p) 2

/-- The seed of partition p is erased: mode 0 (R837, R841). -/
def eraseSeed (s : State) (p : Nat) : State :=
  wr { s with replays := Tab.set none s.replays p none } (E.nr_mode + 256 * p) 0

/-- Some core of partition p runs. -/
def partRuns (s : State) (p : Nat) : Bool := s.cores.any fun e => e.2.running && ownerOf s (e.1 / 25) == some p

/-- `nr_cmd` of partition p. While a health test fails, an arm waits for its draw (R758). -/
def nrCommand (s : State) (p v : Nat) : State :=
  let status := E.nr_status + 256 * p
  if v = 1 ∧ rd s (E.nr_auditor_key + 256 * p) = 0 then wr s status 3
  else if partRuns s p then wr s status 4
  else match v with
    | 1 => if s.island.trngFailing ∨ rd s E.trng_state = 2 then wr s status 1 else armReplay s p
    | 2 => loadReplay s p
    | _ => wr (eraseSeed s p) status 2

def nrSem (p : Nat) : EntrySem :=
  { command (fun _ v => decide (1 ≤ v ∧ v ≤ 3)) (fun s _ v => nrCommand s p v) with authOnly := true }

def nrExec (via : Path) (p v : Nat) (s : State) : Res :=
  instanced (decide (p < 32)) s via E.nr_cmd (access s (writeOf via (E.nr_cmd + 256 * p) v) (nrSem p))

def execNrArm (via : Path) (p : Nat) (s : State) : Res := nrExec via p 1 s
def execNrLoad (via : Path) (p : Nat) (s : State) : Res := nrExec via p 2 s
def execNrErase (via : Path) (p : Nat) (s : State) : Res := nrExec via p 3 s

/-- `nr_auditor_key`: a point of the curve (R855). -/
def auditorSem (p : Nat) : EntrySem := limited (E.nr_auditor_key + 256 * p) fun _ v => onCurve (pointOf (leBytes 64 v))

/-- The entropy source passes again (R758): what waited for a draw goes on. -/
def trngPass (s : State) : State :=
  let s := wr { s with island := { s.island with trngFailing := false } } E.trng_state 0
  (List.range 32).foldl (fun t p => if rd t (E.nr_status + 256 * p) = 1 then nrCommand t p 1 else t) s

def execTrngSourcePass (s : State) : Res := done s (trngPass s)

/-! ## Counters (R845 to R847, R855) -/

/-- An event's level (1 core, 2 sector, 3 device), whether it counts occupancy, and the number of its instances (0: it has none). -/
def eventInfo (e : Nat) : Option (Nat × Bool × Nat) :=
  if 1 ≤ e ∧ e ≤ 0x00D then some (1, decide (9 ≤ e ∧ e ≤ 0x00B), 0)
  else if 0x101 ≤ e ∧ e ≤ 0x106 then some (2, e == 0x103 || e == 0x105, 0)
  else if 0x201 ≤ e ∧ e ≤ 0x20B then
    some (3, e == 0x204 || e == 0x205 || e == 0x209, if e = 0x20A ∨ e = 0x20B then 0 else if e ≤ 0x205 then 16 else 34)
  else none

/-- A configuration that R846 does not reject, for a counter of a level. An event without instances takes any `inst` that names one
somewhere. DEDUCED (log 115). -/
def counterOk (level v : Nat) : Bool :=
  match eventInfo (bits v 11 0) with
  | none => !bit v 31 && bits v 11 0 == 0
  | some (l, occ, n) =>
    decide (l ≤ level) && (occ || bits v 23 12 == 0) && (bits v 29 24 == 63 || n == 0 || decide (bits v 29 24 < n))

/-- A counter's configuration; bit 30 reads 0. -/
def counterSem (k level : Nat) : EntrySem :=
  { limited k (fun _ v => counterOk level v) with eff := fun s _ v => wr s k (setBit v 30 false) }

/-! ## Histograms and bandwidth windows (R849 to R851) -/

/-- Every histogram reads 0. -/
def clearHist (s : State) : State := { s with dict := Tab.clear s.dict 0xA32000 0xA34000 }

def histSem : EntrySem :=
  command (fun _ v => decide (1 ≤ v ∧ v ≤ 3)) fun s _ v =>
    if v = 1 then clearHist s else wr s E.hist_frozen (if v = 2 then 1 else 0)

def execHistClear (via : Path) (s : State) : Res := done s (access s (writeOf via E.hist_cmd 1) histSem)
def execHistFreeze (via : Path) (s : State) : Res := done s (access s (writeOf via E.hist_cmd 2) histSem)
def execHistResume (via : Path) (s : State) : Res := done s (access s (writeOf via E.hist_cmd 3) histSem)

/-- A bandwidth window ends: bytes moved, by sub-index from 1. -/
def bwWindow (s : State) (tx rx : List Nat) : State :=
  let s := (List.range 0x67).foldl (fun t i => wr (wr t (E.bw_tx_bytes + i) (tx.getD i 0)) (E.bw_rx_bytes + i) (rx.getD i 0)) s
  wr s E.bw_window_end (now s)

def execBwWindowEnd (tx rx : List Nat) (s : State) : Res := done s (bwWindow s tx rx)

def bwWindowSem : EntrySem := limited E.bw_window_us fun _ v => decide (1 ≤ v ∧ v ≤ 1000000)

/-! ## Tagging (R852, R853, R855) -/

/-- A tag entry other than `tag_enable`, with its own rule. -/
def tagSem (k : Nat) (r : Nat → Bool) : EntrySem := limited k fun s v => rd s E.tag_enable == 0 && r v
def tagRateSem : EntrySem := tagSem E.tag_log2_rate fun v => decide (4 ≤ v ∧ v ≤ 20)
def tagRecordsSem : EntrySem := tagSem E.tag_buf_records fun v => decide (64 ≤ v ∧ v ≤ 1048576) && 2 ^ Nat.log2 v == v

/-- `tag_enable`: `tag_status` reads 0 off, 1 running (R854). -/
def tagEnableSem : EntrySem :=
  { plain E.tag_enable with eff := fun s _ v => wr (wr s E.tag_enable v) E.tag_status v }

def provModeSem (p : Nat) : EntrySem := limited (E.prov_mode + p) fun _ v => decide (v ≤ 2)

end Sys2Proof.Machine
end

