-- ==== Sys2Proof/Machine/Fabric.lean ====
section
/-! DEFINITION. Fabric ports, their links, lanes and burnishing (R539 to R556), discovery (R557 to R559), routes (R561 to R568) and
forwarding (R565, R569). -/

namespace Sys2Proof.Machine

open Sys2Proof

/-! ## Ports (R543, R571) -/

def portWord (s : State) (p : Nat) : Nat := rd s (E.port_state + p)
def setPortWord (s : State) (p v : Nat) : State := wr s (E.port_state + p) v
def portWidth (s : State) (p : Nat) : Nat := bits (portWord s p) 27 24
def portFailed (s : State) (p : Nat) : Nat := bits (portWord s p) 23 15
def portKeeper (s : State) (p : Nat) : Nat := bits (portWord s p) 14 11
def portBurn (s : State) (p : Nat) : Nat := bits (portWord s p) 10 7
def portCable (s : State) (p : Nat) : Bool := bit (portWord s p) 6

/-- Fields of `port_state` take new values. -/
def setState (s : State) (p v : Nat) : State := setPortWord s p (setBits (portWord s p) 31 28 v)
def setWidth (s : State) (p v : Nat) : State := setPortWord s p (setBits (portWord s p) 27 24 v)
def setFailed (s : State) (p v : Nat) : State := setPortWord s p (setBits (portWord s p) 23 15 v)
def setKeeper (s : State) (p v : Nat) : State := setPortWord s p (setBits (portWord s p) 14 11 v)
def setBurn (s : State) (p v : Nat) : State := setPortWord s p (setBits (portWord s p) 10 7 v)

/-- The physical lane of logical lane k (R572). -/
def laneOf (s : State) (p k : Nat) : Nat := bits (rd s (E.lane_map + p)) (4 * k + 3) (4 * k)
def setLane (s : State) (p k v : Nat) : State :=
  wr s (E.lane_map + p) (setBits (rd s (E.lane_map + p)) (4 * k + 3) (4 * k) v)

/-- Lanes of a port that are good. -/
def goodLanes (s : State) (p : Nat) : Nat := ((List.range 9).filter fun l => !bit (portFailed s p) l).length

/-- The power domain of a port (R42). -/
def portDomain (p : Nat) : Nat := if p < 16 then 36 else if p < 32 then 37 else 38

/-- `PRES_N` of the port's connector is low (R40). -/
def presLow (s : State) (p : Nat) : Bool := bit s.pins.presLow.toNat p

/-- Flits sent and not acknowledged (R549). -/
def Port.outstanding (v : Port) : Nat := (v.nextSeq + 8192 - 1 - v.acked) % 4096

/-! ## Routes (R561 to R564) -/

/-- The path to a destination as a port advertised it, empty for none. -/
def pathAt (s : State) (p d : Nat) : List Nat := Tab.get [] s.paths (65536 * p + d)
def setPath (s : State) (p d : Nat) (l : List Nat) : State := { s with paths := Tab.set [] s.paths (65536 * p + d) l }

/-- The fabric ports that have a path to a destination, and are ACTIVE. -/
def pathPorts (s : State) (d : Nat) : List Nat := (List.range 32).filter fun p => portActive s p && !(pathAt s p d).isEmpty

/-- The length of the shortest path. -/
def pathLength (s : State) (d : Nat) : Nat :=
  (pathPorts s d).foldl (fun n p => if n = 0 then (pathAt s p d).length else min n (pathAt s p d).length) 0

/-- The lowest assigned node that the device knows: itself and every destination it can reach. -/
def treeRoot (s : State) : Nat := (s.paths.map fun e => e.1 % 65536).foldl min (rd s E.node_id)

/-- Of ports, the one whose neighbour has the lowest node, and then the lowest number (R563). -/
def lowestNeighbour (s : State) (l : List Nat) : Option Nat :=
  l.foldl (fun b p => match b with
    | none => some p
    | some q => if bits (rd s (E.neighbour + p)) 15 0 < bits (rd s (E.neighbour + q)) 15 0 then some p else some q) none

/-- The port towards a destination on the fabric's tree (R563). Towards the root it is the tie rule's; towards another
destination what one device receives does not tell which of its ports the tree path takes, unless there is only one: a free
value among them. DESIGN CHOICE (log 61). -/
def treePort (s : State) (d : Nat) (shortest : List Nat) : Nat :=
  let l := pathPorts s d
  if d = treeRoot s then (lowestNeighbour s shortest).getD 0
  else l.getD (openValue 61 s.freeCtr d % max l.length 1) 0

/-- The entry of a destination is computed (R563, R568). -/
def computeRoute (s : State) (d : Nat) : State :=
  let e := route s d
  let l := pathPorts s d
  let n := pathLength s d
  let m := l.filter fun p => (pathAt s p d).length == n
  if rd s E.node_id_assigned = 1 ∧ d = rd s E.node_id then setRoute s d (2 ^ 63 + 2 ^ 61)
  else if bit e 62 then setRoute s d (setBit e 63 (!l.isEmpty))
  else if l.isEmpty then setRoute s d 0x00FF000000000000
  else
    let r := 2 ^ 63 + n * 2 ^ 48 + treePort s d m * 2 ^ 40 + (m.map (2 ^ ·)).sum
    setRoute { s with freeCtr := s.freeCtr + 1 } d
      (if bits e 55 48 = n ∧ bits e 31 0 = bits r 31 0 ∧ l.contains (prefOf e) ∧ bit e 63 ∧ d ≠ treeRoot s then e else r)

/-- The device advertises routes: it has an ID and speaks for it (R559, R619, R636). -/
def advertises (s : State) : Bool := rd s E.node_id_assigned == 1 && decide (rd s E.twin_role < 2)

/-- The path that the device advertises for a destination, empty when it has none. -/
def ownPath (s : State) (d : Nat) : List Nat :=
  if d = rd s E.node_id then [d]
  else
    let n := pathLength s d
    match lowestNeighbour s ((pathPorts s d).filter fun p => (pathAt s p d).length == n) with
    | some p => rd s E.node_id :: pathAt s p d
    | none => []

/-- A destination is advertised on every ACTIVE fabric port (R563, R564). -/
def advertise (s : State) (d : Nat) : State :=
  if !advertises s then s
  else ((List.range 32).filter (portActive s)).foldl (fun t p => emit t (.advert p d (ownPath t d))) s

/-- After a change of the paths to a destination: its entry, and an advertisement when the device's own path has changed.
`route_converged` is false after a computation that changed the table and true after one that did not; R564 states only how
long it may stay false. DESIGN CHOICE (log 135). -/
def routeChanged (s0 s : State) (d : Nat) : State :=
  let s1 := computeRoute s d
  let s1 := wr s1 E.route_converged (if route s1 d = route s0 d then 1 else 0)
  if ownPath s0 d = ownPath s1 d then s1 else advertise s1 d

/-- Destinations that a port has paths to. -/
def destsOf (s : State) (p : Nat) : List Nat :=
  (s.paths.filter fun e => decide (e.1 / 65536 = p)).map fun e => e.1 % 65536

/-- A port leaves ACTIVE: every path learned through it goes (R564). -/
def withdrawPort (s0 s : State) (p : Nat) : State :=
  (destsOf s p).foldl (fun t d => routeChanged s0 (setPath t p d []) d) s

/-- A port becomes ACTIVE: the device advertises what it knows to the new neighbour. -/
def advertiseTo (s : State) (p : Nat) : State :=
  if !advertises s ∨ 32 ≤ p then s
  else
    let s := computeRoute s (rd s E.node_id)
    let ds := rd s E.node_id :: ((s.paths.map fun e => e.1 % 65536).foldl (fun l d => if l.contains d then l else l ++ [d]) [])
    ds.foldl (fun t d => if (ownPath t d).isEmpty then t else emit t (.advert p d (ownPath t d))) s

/-- An advertisement arrives (R563): it replaces the port's path; one that names this device is discarded. -/
def takeAdvert (s : State) (p d : Nat) (path : List Nat) : State :=
  if !portActive s p ∨ rd s E.node_id_assigned ≠ 1 then s
  else
    let l := if path.contains (rd s E.node_id) then [] else path
    routeChanged s (setPath s p d l) d

def execRouteAdvertisement (p d : Nat) (path : List Nat) (s : State) : Res :=
  guarded (decide (p < 32 ∧ d < 65536)) s (takeAdvert s p d path)

/-! ## Link states (R543 to R546) -/

/-- A burnish in progress stops: the lane map of its step 1 stands (R556). -/
def stopBurnish (s : State) (p : Nat) : State :=
  match (port s p).burnish with
  | none => s
  | some k =>
    let keeper := laneOf s p k
    let s := setKeeper (setLane s p k (portBurn s p)) p keeper
    setBurn (setPort s p { port s p with burnish := none }) p 15

/-- A port leaves ACTIVE or RETRAIN for DOWN or DISABLED: its replay buffer is discarded (R546). `link_down_count` counts
these. DEDUCED (log 136). -/
def dropLink (s : State) (p : Nat) : State :=
  let v := port s p
  let s := if portCode s p = 3 ∨ portCode s p = 4 then
      inc (incBy s E.link_flits_lost_count v.outstanding) (E.link_down_count + p)
    else s
  setPort (stopBurnish s p) p { Port.init with enabled := v.enabled, lane := v.lane }

/-- The neighbour of a port is no longer known. DEDUCED (log 137). -/
def forgetNeighbour (s : State) (p : Nat) : State :=
  let s := setPortWord s p (setBit (portWord s p) 5 false)
  if p < 32 then wr s (E.neighbour + p) 0 else s

/-- A port takes a state in which it carries no packets: DISABLED, DOWN, TRAINING or RETRAIN. -/
def portOut (s0 : State) (p st : Nat) : State :=
  let s := if st < 2 then forgetNeighbour (dropLink s0 p) p else stopBurnish s0 p
  withdrawPort s0 (setWidth (setState s p st) p 0) p

/-- An enabled port whose domain is on leaves DISABLED, and trains when a cable is there. -/
def portUp (s : State) (p : Nat) : State :=
  if portCode s p ≠ 0 ∨ !domainOn s (portDomain p) then s
  else
    let s := setPortWord s p (setBit (portWord s p) 6 (presLow s p))
    setState s p (if presLow s p then 2 else 1)

/-- RETRAIN begins: the burnish stops, and the replay buffer stays (R553, R556). -/
def retrain (s : State) (p : Nat) : State := if portCode s p = 3 ∨ portCode s p = 5 then portOut s p 4 else s

/-- The level of `PRES_N` has changed (R543). -/
def presTrain (s : State) (p : Nat) : State :=
  let s := setPortWord s p (setBit (portWord s p) 6 (presLow s p))
  if presLow s p ∧ portCode s p = 1 then setState s p 2 else s

/-- The lanes of a trained port: a failed lane's logical lane goes to the spare lane, and a spare that is good and left over is
the keeper (R545, R554). -/
def bindLanes (s : State) (p : Nat) : State :=
  let used := (List.range 8).map (laneOf s p)
  let spare := ((List.range 9).find? fun l => !used.contains l).getD 15
  let ok := spare < 9 ∧ !bit (portFailed s p) spare
  match (List.range 8).find? fun k => bit (portFailed s p) (laneOf s p k) with
  | some k => if ok ∧ goodLanes s p = 8 then setKeeper (setLane s p k spare) p 15 else setKeeper s p 15
  | none => setKeeper s p (if ok then spare else 15)

/-- A port is ACTIVE at the width that its good lanes give. -/
def portIn (s : State) (p : Nat) : State :=
  let s := bindLanes s p
  let s := if goodLanes s p < 8 then setKeeper s p 15 else s
  let s := setWidth (setState s p 3) p (if goodLanes s p < 8 then 4 else 8)
  advertiseTo (setPort s p { port s p with failures := 0, replays := 0 }) p

/-- Training or retraining ends (R543 to R545): a third failure of RETRAIN in a row takes the port DOWN. -/
def trainingDone (s : State) (p good : Nat) : State :=
  if portCode s p ≠ 2 ∧ portCode s p ≠ 4 then s
  else
    let s := setFailed s p (511 - good % 512)
    if 4 ≤ goodLanes s p then portIn s p
    else if portCode s p = 2 then portOut s p 1
    else
      let n := (port s p).failures + 1
      if 3 ≤ n then portOut s p 1 else setPort s p { port s p with failures := n }

def execTrainingDone (p good : Nat) (s : State) : Res := guarded (decide (p < 34)) s (trainingDone s p good)

/-- 500 ms without a successful training. -/
def execTrainingTimeout (p : Nat) (s : State) : Res :=
  guarded (decide (p < 34)) s (if portCode s p = 2 then portOut s p 1 else s)

/-- Training is tried again while the cable is there (R544). -/
def execDownRetry (p : Nat) (s : State) : Res :=
  guarded (decide (p < 34)) s (if portCode s p = 1 ∧ presLow s p then setState s p 2 else s)

/-! ## Burnishing (R554 to R556) -/

/-- The next logical lane is burnished onto the keeper, when the comparison of step 2 matches. -/
def burnishStart (s : State) (p : Nat) (matched : Bool) : State :=
  let v := port s p
  if portCode s p ≠ 3 ∨ portWidth s p ≠ 8 ∨ 9 ≤ portKeeper s p ∨ v.burnish.isSome ∨ !matched then s
  else
    let k := v.lane % 8
    let old := laneOf s p k
    let s := setBurn (setKeeper (setLane s p k (portKeeper s p)) p 15) p old
    setPort s p { v with burnish := some k, lane := (k + 1) % 8 }

def execBurnishTick (p : Nat) (matched : Bool) (s : State) : Res :=
  guarded (decide (p < 34)) s (if rd s E.burnish_enable = 1 then burnishStart s p matched else s)

/-- The re-adapted lane becomes the port's keeper. -/
def burnishEnd (s : State) (p : Nat) : State :=
  if (port s p).burnish.isNone then s
  else setBurn (setKeeper (setPort s p { port s p with burnish := none }) p (portBurn s p)) p 15

def execBurnishReadaptEnd (p : Nat) (s : State) : Res := guarded (decide (p < 34)) s (burnishEnd s p)

/-- A physical lane fails. -/
def laneFail (s : State) (p l : Nat) : State :=
  if bit (portFailed s p) l ∨ portCode s p < 2 then s
  else
    let busy := (port s p).burnish.isSome
    let own := busy && portBurn s p == l
    let s := if own then setBurn (setPort s p { port s p with burnish := none }) p 15 else stopBurnish s p
    let s := setFailed s p (setBit (portFailed s p) l true)
    if portCode s p ≠ 3 ∧ portCode s p ≠ 5 then s
    else if goodLanes s p < 4 then retrain s p
    else if goodLanes s p < 8 then setKeeper (setWidth s p 4) p 15
    else if own then s
    else bindLanes s p

def execLaneFail (p l : Nat) (s : State) : Res := guarded (decide (p < 34 ∧ l < 9)) s (laneFail s p l)

/-! ## Flits (R547 to R553) -/

/-- The header of an accepted flit, or of an idle one: acknowledgements, a replay asked for, and credits. -/
def takeHeader (s : State) (p : Nat) (f : Flit) : State :=
  let v := port s p
  let n := (f.ack + 4096 - v.acked) % 4096
  let v := if n ≠ 0 ∧ n ≤ v.outstanding then { v with acked := f.ack % 4096, replays := 0 } else v
  let v := { v with credits := Tab.set 0 v.credits (f.cvc % 4) (Tab.get 0 v.credits (f.cvc % 4) + f.credits) }
  let s := setPort s p v
  if f.nak ∧ v.outstanding ≠ 0 then
    let s := countDev (inc s (E.link_retry_count + p)) 0x208 p 1
    let s := setPort s p { v with replays := v.replays + 1 }
    if 8 ≤ v.replays + 1 then retrain s p else s
  else s

/-- A flit arrives (R119, R550, R552). -/
def flitReceive (s : State) (p : Nat) (f : Flit) : State :=
  if portCode s p ≠ 3 ∧ portCode s p ≠ 5 then s
  else
    let s := countDev s 0x207 p 1
    let s := if f.fifoFull then inc s E.boundary_overflow_count else s
    let good := f.crcOk && f.fecOk && !f.fifoFull
    if f.ftype = 0 then if good then takeHeader s p f else s
    else if good ∧ f.ftype < 3 ∧ f.seq = (port s p).expect then
      takeHeader (setPort s p { port s p with expect := (f.seq + 1) % 4096, nak := false }) p f
    else setPort s p { port s p with nak := true }

def execFlitReceive (p : Nat) (f : Flit) (s : State) : Res := guarded (decide (p < 34)) s (flitReceive s p f)

/-- No `ack` has advanced for 100 µs while flits are outstanding, or one sequence number has been replayed 8 times. -/
def execAckTimeout (p : Nat) (s : State) : Res :=
  guarded (decide (p < 34)) s (if (port s p).outstanding ≠ 0 ∨ 8 ≤ (port s p).replays then retrain s p else s)

/-! ## Discovery (R557 to R559, R574, R620) -/

/-- Bytes 0 to 7 of the unique ID. -/
def ownUid (s : State) : Nat := rd s E.unique_id % 2 ^ 64

/-- The `uid` of the bound twin, 0 when the module is not bound. -/
def twinUid (s : State) : Nat := if rd s E.twin_role = 0 then 0 else rd s E.twin_peer_uid

/-- The HELLO of a port. -/
def helloOf (s : State) (p : Nat) : HelloMsg :=
  ⟨rd s E.node_id, rd s E.node_id_assigned == 1, p, ownUid s, 0, twinUid s⟩

/-- A HELLO leaves by a port. -/
def sendHello (s : State) (p : Nat) : State := emit (sendFlits s p 2 1) (.hello p (helloOf s p))

def execHelloTimer (p : Nat) (s : State) : Res :=
  guarded (decide (p < 32)) s (if portCode s p = 3 ∨ portCode s p = 5 then sendHello s p else s)

/-- The HELLO conflicts with this device (R558, R620). -/
def helloConflict (s : State) (h : HelloMsg) : Bool :=
  let twins := h.twin == ownUid s && twinUid s == h.uid && h.uid != 0
  (h.assigned && rd s E.node_id_assigned == 1 && h.node == rd s E.node_id && h.uid != ownUid s && !twins) || h.role == 2

/-- A HELLO arrives. -/
def takeHello (s : State) (p : Nat) (h : HelloMsg) : State :=
  if portCode s p ≠ 3 ∧ portCode s p ≠ 5 then s
  else
    let s0 := s
    let s := wr s (E.neighbour + p) (2 ^ 31 + h.role % 4 * 2 ^ 29 + h.port % 32 * 2 ^ 22 + h.node % 65536)
    let s := setPortWord s p (setBit (portWord s p) 5 true)
    if helloConflict s h then if portCode s p = 3 then withdrawPort s0 (setState s p 5) p else s
    else if portCode s p = 5 then advertiseTo (setState s p 3) p
    else s

def execHello (p : Nat) (h : HelloMsg) (s : State) : Res := guarded (decide (p < 32)) s (takeHello s p h)

/-- 350 ms without a HELLO. -/
def execHelloTimeout (p : Nat) (s : State) : Res := guarded (decide (p < 32)) s (retrain s p)

/-! ## Port commands (R573) -/

/-- `port_cmd`. `matched` is what the comparison of a burnish finds. -/
def portCommand (p : Nat) (matched : Bool) (s : State) (v : Nat) : State :=
  if v = 1 then portUp (setPort s p { port s p with enabled := true }) p
  else if v = 2 then portOut (setPort s p { port s p with enabled := false }) p 0
  else if v = 3 then retrain s p
  else if v = 4 then burnishStart s p matched
  else setFailed (retrain s p) p 0

def portSem (p : Nat) (matched : Bool) : EntrySem :=
  command (fun _ v => decide (1 ≤ v ∧ v ≤ 5)) (fun s _ v => portCommand p matched s v)

def portWrite (via : Path) (p v : Nat) (matched : Bool) (s : State) : Res :=
  instanced (decide (p < 34)) s via E.port_cmd (access s (writeOf via (E.port_cmd + p) v) (portSem p matched))

def execPortEnable (via : Path) (p : Nat) (s : State) : Res := portWrite via p 1 true s
def execPortDisable (via : Path) (p : Nat) (s : State) : Res := portWrite via p 2 true s
def execPortRetrain (via : Path) (p : Nat) (s : State) : Res := portWrite via p 3 true s
def execPortBurnishNow (via : Path) (p : Nat) (matched : Bool) (s : State) : Res := portWrite via p 4 matched s
def execPortClearFailed (via : Path) (p : Nat) (s : State) : Res := portWrite via p 5 true s

/-- A domain of ports goes off: all enter DISABLED, and remember whether they were enabled (R546). -/
def portsOff (s : State) (d : Nat) : State :=
  ((List.range 34).filter fun p => portDomain p == d).foldl (fun t p => if portCode t p = 0 then t else portOut t p 0) s

/-- A domain of ports is on again. -/
def portsOn (s : State) (d : Nat) : State :=
  ((List.range 34).filter fun p => portDomain p == d).foldl (fun t p => if (port t p).enabled then portUp t p else t) s

/-- Every port enters DISABLED; each remembers whether it was enabled (R546, R796). -/
def portsDisable (s : State) : State := [36, 37, 38].foldl portsOff s

/-- A port that a stall is reported of goes DOWN (R798). -/
def portStalled (s : State) (p : Nat) : State := if portCode s p < 2 then s else portOut s p 1

/-- The cable bits follow the pins, after their entries have returned to their defaults. -/
def refreshCables (s : State) : State :=
  (List.range 34).foldl (fun t p => setPortWord t p (setBit (portWord t p) 6 (presLow t p))) s

/-! ## Host override (R567, R568) -/

/-- A command of `rc_cmd`. -/
def routeCommand (s : State) (v : Nat) : State :=
  let d := rd s E.rc_node
  let e := rd s E.rc_entry
  let own := rd s E.node_id_assigned == 1 && d == rd s E.node_id
  if v = 3 then wr (wr s E.rc_entry (route s d)) E.rc_status 2
  else if own ∨ (v = 1 ∧ (bits e 39 32 ≠ 0 ∨ !bit e (prefOf e))) then wr s E.rc_status 3
  else if v = 1 then
    wr (setRoute s d (bits e 63 63 * 2 ^ 63 + 2 ^ 62 + bits e 55 48 * 2 ^ 48 + prefOf e * 2 ^ 40 + bits e 31 0)) E.rc_status 2
  else wr (routeChanged s (setRoute s d (setBit (route s d) 62 false)) d) E.rc_status 2

def routeSem : EntrySem := command (fun _ v => decide (1 ≤ v ∧ v ≤ 3)) (fun s _ v => routeCommand s v)

def execRoutePin (via : Path) (s : State) : Res := done s (access s (writeOf via E.rc_cmd 1) routeSem)
def execRouteUnpin (via : Path) (s : State) : Res := done s (access s (writeOf via E.rc_cmd 2) routeSem)
def execRouteCopy (via : Path) (s : State) : Res := done s (access s (writeOf via E.rc_cmd 3) routeSem)

/-! ## Forwarding (R562, R565, R569) -/

/-- A packet arrives at a router of the device (R559, R562, R569, R634, R636): it is dropped, or leaves with its lifetime
reduced. -/
def packetForward (s : State) (port : Nat) (p : Packet) (ns : Nat) (free : List Nat) : State :=
  let e := route s p.dst
  let us := max 1 ((ns + 999) / 1000)
  if !portActive s port ∨ !advertises s ∨ s.twin.helloOnly ∨ bit e 61 then s
  else if !bit e 63 then inc s E.packets_unroutable_count
  else
    let byPref := p.ordered || decide (2 ≤ p.vc)
    match egress s e byPref fun q => free.getD q 0 with
    | none => inc s E.packets_unroutable_count
    | some q =>
      if 64 < p.hops + 1 ∨ p.age ≤ us then inc s E.packets_expired_count
      else
        let s := if !byPref ∧ 2 ≤ (maskPorts s e).length then noteNd s 1 none else s
        emit (sendFlits s q p.vc ((16 + p.length + 241) / 242)) (.packet q { p with hops := p.hops + 1, age := p.age - us })

def execPacketForward (port : Nat) (p : Packet) (ns : Nat) (free : List Nat) (s : State) : Res :=
  guarded (decide (port < 32)) s (packetForward s port p ns free)

/-- A packet has waited 2 µs for credit at a port: it moves to VC3 and follows `pref` (R565). -/
def vcEscape (s : State) (port : Nat) (p : Packet) : State :=
  let e := route s p.dst
  if !portActive s port ∨ s.twin.helloOnly then s
  else match (if bit e 63 then egress s e true fun _ => 0 else none) with
    | none => inc s E.packets_unroutable_count
    | some q => emit (sendFlits s q 3 ((16 + p.length + 241) / 242)) (.packet q { p with vc := 3 })

def execVcEscape (port : Nat) (p : Packet) (s : State) : Res := guarded (decide (port < 32)) s (vcEscape s port p)

end Sys2Proof.Machine
end

