-- ==== Sys2Proof/Machine/OnChip.lean ====
section
/-! DEFINITION. Commands of 04_on_chip_memory besides remote writes: region attributes and scrubbing. -/

namespace Sys2Proof.Machine

open Sys2Proof

/-! ## Region attributes (R143 to R145, R509) -/

/-- Region k of core c may not change its code: it holds an open landing range (R145), or belongs to the shadow pool,
which only the shadow logic accesses (R509). -/
def regionFixed (s : State) (c k : Nat) : Bool :=
  bit (rd s (E.shadow_pool_cfg + c / 25)) k ||
    (sector s (c / 25)).landing.any fun g => g.target == c % 25 && g.idx == k

/-- The regions whose bit of `cm_attr` a write of v changes. -/
def changedRegions (s : State) (c v : Nat) : List Nat :=
  (List.range 24).filter fun k => bit v k != bit (core s c).cmAttr k

/-- A control-core write of `cm_attr` of core c: each changed region is filled with zeros under its new code, and the
control core issues nothing for 1,024 beats a region (R144); or nothing changes, and 0x0302 is reported (R145). -/
def cmAttrWrite (s : State) (c v : Nat) : State :=
  let l := changedRegions s c v
  if l.any (regionFixed s c) then answerStatus s 0x0302 false []
  else
    let s := l.foldl (fun t k => zeroFill t (Mem.cm c (65536 * k)) (Mem.cm c (65536 * (k + 1)))) s
    onCore s c fun k => { k with cmAttr := v % 2 ^ 24, cbeat := k.cbeat + 1024 * l.length }

/-- `CM_ATTR_WRITE`: the cores of a sector that is off execute nothing. -/
def execCmAttrWrite (c : Nat) (v : BitVec 32) (s : State) : Res :=
  guarded (decide (c < 800)) s (if domainOn s (c / 25) then cmAttrWrite (flush s c) c v.toNat else s)

/-! ## Scrubbing (R147 to R153) -/

/-- The key of a cell of sector x. -/
def cellKey (x : Nat) : MemCell → Nat
  | .cm p o => Mem.onchip x (p % 25) (o % 0x180000)
  | .commons o => Mem.commons x (o % 0x800000)
  | .tile p t o => Mem.tile (25 * x + p % 25) (t % 32) (o % 4096)
  | .acc p b o => Mem.acc (25 * x + p % 25) (b % 4) (o % 16384)

/-- Errors that arise in sector x. -/
def arise (s : State) (x : Nat) (l : List MemError) : State :=
  l.foldl (fun t e => addFlips t (cellKey x e.cell) e.bits) s

/-- A scrub of sector x reads every line of its core memory and commons (R147, R153). -/
def scrub (s : State) (x : Nat) : State := meet s (Mem.onchip x 0 0) (2 ^ 32)

/-- `SCRUB_PASS`: a scrub of sector x, which meets the errors that have arisen by then; others arise behind it, and stand until a
read or the next scrub meets them. -/
def execScrubPass (x : Nat) (e : ScrubErrors) (s : State) : Res :=
  guarded (decide (x < 32)) s (if domainOn s x then arise (scrub (arise s x e.found) x) x e.latent else s)

/-- `scrub_period_ms` (R181). -/
def scrubPeriodSem : EntrySem := limited E.scrub_period_ms fun _ v => decide (4 ≤ v ∧ v ≤ 1000)

/-- Cores of sector x run a program. -/
def sectorCoresRun (s : State) (x : Nat) : Bool := (List.range 25).any fun p => (core s (25 * x + p)).running

/-- `cm_retain_mask` (R175, R182). -/
def retainMaskSem (x : Nat) : EntrySem :=
  { limited (E.cm_retain_mask + x) (fun _ v => decide (((List.range 16).filter (bit v)).length ≤ 4)) with
    idle := fun s => !sectorCoresRun s x }

end Sys2Proof.Machine
end

