-- ==== Sys2Proof/Machine/Host.lean ====
section
/-! DEFINITION. The PCIe function and firmware loading (R645 to R656, R691, R737, R738), and the side bands' addresses. -/

namespace Sys2Proof.Machine

open Sys2Proof

/-! ## BAR2 (R649, R650, R669, R735) -/

/-- The general area: above the key store, up to the headroom, and within the address space (R188, R193). -/
def generalArea (s : State) (a n : Nat) : Bool :=
  decide (keyStoreEnd (rd s E.key_store_gib) ≤ a ∧ a + n ≤ headroomStart (rd s E.hbm_headroom_pcs) ∧ a + n ≤ hbmTop s.hbm.out.length)

/-- n bytes at a lie in the general area and in no partition's share. -/
def unassigned (s : State) (a n : Nat) : Bool :=
  generalArea s a n && (List.range 32).all fun p =>
    !assigned s p || decide (a + n ≤ rd s (E.part_hbm_base + 256 * p) ∨ partEnd s p ≤ a)

/-- BAR2 permits an access to n bytes at HBM address a. -/
def bar2Permits (s : State) (a n : Nat) : Bool :=
  let v := rd s E.bar2_partition
  if v < 32 then assigned s v && !scrubbing s v && decide (rd s (E.part_hbm_base + 256 * v) ≤ a ∧ a + n ≤ partEnd s v)
  else v == 0x3F && unassigned s a n

/-- An access that is not permitted: bytes of 0xFF, or nothing, and a count. -/
def bar2Refuse (s : State) (w : Bool) (n : Nat) : State :=
  let s := inc s E.bar_violation_count
  if w then s else answerStatus s 0 false (List.replicate n 0xFF)

/-- A BAR2 access at an offset. Out of service it is refused (R809); one to a stack that sleeps waits for its domain (R710). In
the recovery state BAR2 maps the boot buffer (R735). -/
def bar2Access (s : State) (w : Bool) (o n : Nat) (d : List Byte) : State :=
  let len := if w then d.length else n
  if rd s E.boot_state = 1 then
    if 32 * 2 ^ 20 < o + len then bar2Refuse s w len
    else if w then wrBytes s (Mem.bootBuf o) d else answerStatus s 0 false (rdBytes s (Mem.bootBuf o) n)
  else
    let a := rd s E.bar2_base + o
    if rd s E.out_of_service = 1 ∨ !bar2Permits s a len then bar2Refuse s w len
    else
      let dom := 32 + stackAt s a / 4
      let s := workReaches s (0x600 + stackAt s a)
      if !domainOn s dom then stall (wakeDomain s dom) ⟨.bar0, 0, w, 0x20000000 + o, 0, n, d, 0⟩ dom
      else if w then hbmStore (forwardInput s 2 (leBytes 8 a ++ d)) a d
      else
        let r := hbmStatus s a n .clean
        answerStatus s r.1 r.2 (rdBytes s a n)

def execBar2Access (w : Bool) (o n : Nat) (d : List Byte) (s : State) : Res :=
  guarded (decide (o + (if w then d.length else n) ≤ 0x10000000)) s (bar2Access s w o n d)

/-- `bar2_base` (R650). -/
def bar2BaseSem : EntrySem := limited E.bar2_base fun s v => v % 65536 == 0 && generalArea s v 0x10000000

/-! ## MSI-X (R646, R651, R652) -/

/-- The holdoff of a vector ends: the signals gathered share one message, which starts the next holdoff. -/
def holdoffEnd (s : State) (v : Nat) : State :=
  let h := s.host
  let m : BitVec 64 := BitVec.ofNat 64 (2 ^ v)
  let s := { s with host := { h with holdoff := h.holdoff &&& ~~~m, behind := h.behind &&& ~~~m } }
  if bit h.behind.toNat v then msixSend s v else s

def execMsixHoldoffExpiry (v : Nat) (s : State) : Res := guarded (decide (v < 64)) s (holdoffEnd s v)

/-- Bus mastering is enabled or disabled: messages that stood in the PBA leave (R646), and `pcie_link_status` shows it. -/
def busMaster (s : State) (on : Bool) : State :=
  let s := wr s E.pcie_link_status (setBit (rd s E.pcie_link_status) 22 on)
  let p := s.host.pba.toNat
  let s := { s with host := { s.host with busMaster := on } }
  if on then ((List.range 64).filter (bit p)).foldl (fun t v => emit t (.msix v)) { s with host := { s.host with pba := 0 } } else s

def execBusMasterEnable (on : Bool) (s : State) : Res := done s (busMaster s on)

/-! ## Side-band addresses (R73, R655) -/

/-- Set Endpoint ID on a binding. -/
def execSetEndpointId (b : Binding) (eid : Nat) (s : State) : Res :=
  done s (wr s (match b with | .i3c => E.mctp_eid_i3c | .pcieVdm => E.mctp_eid_pcie) eid)

/-- The I3C controller assigns a dynamic address: by ENTDAA the one it sends, by SETAIASA the static address (R73). -/
def execDynamicAddressAssignment (addr : Nat) (entdaa : Bool) (s : State) : Res :=
  done s { s with host := { s.host with i3cDynamic := some (if entdaa then addr % 128 else rd s E.i3c_static_address) } }

/-! ## Firmware loading (R691, R730, R731, R737, R738) -/

/-- The bytes that `fw_load_addr` and `fw_load_bytes` name; in the recovery state the address is an offset of the boot
buffer (R735). -/
def imageSource (s : State) : Option (List Byte) :=
  let a := rd s E.fw_load_addr
  let n := rd s E.fw_load_bytes
  if n = 0 ∨ 28 * 2 ^ 20 < n then none
  else if rd s E.boot_state = 1 then if a + n ≤ 32 * 2 ^ 20 then some (rdBytes s (Mem.bootBuf a) n) else none
  else if unassigned s a n then some (rdBytes s a n) else none

/-- Staging starts (R691, R746). -/
def stageStart (s : State) : State :=
  match imageSource s with
  | none => wr s E.fw_load_status 3
  | some b =>
    let s := wr (wr (wr s E.staged_state 1) E.staged_digest 0) E.staged_svn 0
    wr { s with island := { s.island with staging := some b } } E.fw_load_status 1

/-- The slot that does not run. -/
def idleSlot (s : State) : Nat := 1 - rd s E.fw_running_slot % 2

/-- The flash address of a slot's image (R83). -/
def slotFlash (k : Nat) : Nat := if k = 0 then 0x10000 else 0x1C10000

/-- The staged image becomes the boot image (R691, R738). -/
def activate (s : State) : State :=
  if rd s E.staged_state < 2 then wr s E.fw_load_status 6
  else wr (wr (wr s E.staged_state 3) E.fw_next_slot (idleSlot s)) E.fw_load_status 5

def fwSem : EntrySem :=
  command (fun s v => rd s E.fw_load_status != 1 && (v == 1 || v == 2))
    (fun s _ v => if v = 1 then stageStart s else activate s)

/-- `fw_load_addr` and `fw_load_bytes`. -/
def fwEntrySem (k : Nat) : EntrySem := limited k fun s _ => rd s E.fw_load_status != 1

def execFwStage (via : Path) (s : State) : Res := done s (access s (writeOf via E.fw_load_cmd 1) fwSem)
def execFwActivate (via : Path) (s : State) : Res := done s (access s (writeOf via E.fw_load_cmd 2) fwSem)

/-- A section of an image (R730). -/
structure ImageSection where
  offset : Nat
  length : Nat
  kind : Nat
  digest : List Byte
  deriving DecidableEq, Repr

/-- The sections that a header names (R730). -/
def imageSections (h : List Byte) : List ImageSection :=
  (List.range (min 8 (leNat ((h.drop 9).take 1)))).map fun k =>
    let b := h.drop (16 + 48 * k)
    ⟨leNat (b.take 4), leNat ((b.drop 4).take 4), leNat ((b.drop 8).take 1), (b.drop 16).take 32⟩

/-- Sections lie within an image of n bytes and within 28 MiB, do not overlap, and include exactly one of each of kinds 1 to 3
(R731); there are 1 to 8, of kinds 1 to 5 (R730). -/
def sectionsFit (h : List Byte) (n : Nat) : Bool :=
  let l := imageSections h
  let count := leNat ((h.drop 9).take 1)
  decide (1 ≤ count ∧ count ≤ 8) && l.all (fun e => decide (e.offset + e.length ≤ min n (28 * 2 ^ 20) ∧ 1 ≤ e.kind ∧ e.kind ≤ 5)) &&
    [1, 2, 3].all (fun k => (l.map ImageSection.kind).count k == 1) &&
    (List.range l.length).all fun i => (l.drop (i + 1)).all fun e =>
      let a := l.getD i ⟨0, 0, 0, []⟩
      decide (a.offset + a.length ≤ e.offset ∨ e.offset + e.length ≤ a.offset)

/-- What an image of n bytes says of itself, by its header and its sections (R730, R731); `v` says whether its key is good and its
signature verifies. -/
def readImage (get : Nat → Nat → List Byte) (n : Nat) (v : ImageVerdict) : ImageVerdict :=
  let h := get 0 4096
  { magicOk := leNat (h.take 4) == 0x56465748 && leNat ((h.drop 4).take 2) == 1
    keyOk := v.keyOk && decide (leNat ((h.drop 8).take 1) ≤ 3)
    signatureOk := v.signatureOk
    sectionsOk := decide (4096 ≤ n) && sectionsFit h n
    digestsOk := (imageSections h).all fun e => sm3 (get e.offset e.length) == e.digest
    svn := leNat ((h.drop 6).take 2)
    headerDigest := sm3 h }

/-- The digests that MR2 to MR5 are extended with (R733). -/
def imageDigests (h : List Byte) : List (List Byte) :=
  let l := imageSections h
  ([1, 2, 3].flatMap fun k => (l.filter (·.kind == k)).map ImageSection.digest) ++ (l.filter (4 ≤ ·.kind)).map ImageSection.digest

/-- The checks of R731 accept an image: the version number is compared here. -/
def imageAccepted (s : State) (v : ImageVerdict) : Bool :=
  v.magicOk && v.keyOk && v.signatureOk && v.sectionsOk && v.digestsOk &&
    decide (max (rd s E.svn_floor) (rd s E.svn_min) ≤ v.svn)

/-- Staging ends: an image that passes is written to the slot that does not run (R737). -/
def stageDone (s : State) (v : ImageVerdict) : State :=
  match s.island.staging with
  | none => s
  | some b =>
    let s := { s with island := { s.island with staging := none } }
    let v := readImage (fun o n => (b.drop o).take n) b.length v
    if imageAccepted s v then
      let s := wrBytes s (Mem.flash (slotFlash (idleSlot s))) b
      wr (wr (wr (wr s E.staged_state 2) E.staged_svn v.svn) E.staged_digest (leNat (v.headerDigest.take 32))) E.fw_load_status 2
    else wr (wr s E.staged_state 0) E.fw_load_status 4

def execFwStageDone (v : ImageVerdict) (s : State) : Res := done s (stageDone s v)

end Sys2Proof.Machine
end

