-- ==== Sys2Proof/Machine/Elementary.lean ====
section
/-! DEFINITION. The functions that the specification bounds and does not fix: the five functions of a float lane (R437) and
the cosine sums of `ENCS` (R330, R331), computed in fixed point far beyond the bounds, with the choice that a bound leaves
taken from a free value. -/

namespace Sys2Proof.Machine

open Sys2Proof

/-! ## Fixed point -/

/-- Fraction bits of a fixed-point value. -/
def fixBits : Nat := 640

/-- 1. -/
def fixOne : Int := 2 ^ fixBits

/-- ± m · 2^e. -/
def fixOf (neg : Bool) (m : Nat) (e : Int) : Int := scaled neg m e (-fixBits)

def fixMul (a b : Int) : Int := a * b / fixOne
def fixDiv (a b : Int) : Int := a * fixOne / b

/-- The root of a value that is not negative. -/
def fixRoot (a : Int) : Int := (Nat.sqrt (a.toNat * 2 ^ fixBits) : Nat)

/-- A fixed-point value as a floating-point one. -/
def fltOfFix (v : Int) : Flt := .fin (decide (v < 0)) v.natAbs (-fixBits)

/-- e^t for t cut to −450 to 450, by the series of t / 2^16 and 16 squarings. -/
def fixExp (t : Int) : Int :=
  let r := max (-450 * fixOne) (min (450 * fixOne) t) / 2 ^ 16
  let y := (List.range 60).foldr (fun k a => fixOne + fixMul r a / ((k + 1 : Nat) : Int)) fixOne
  (List.range 16).foldl (fun v _ => fixMul v v) y

/-! ## The functions of R437 -/

/-- π · 10^100. -/
def piDigits : Nat :=
  31415926535897932384626433832795028841971693993751058209749445923078164062862089986280348253421170679

/-- The root of 2 / π. -/
def rootTwoOverPi : Int := fixRoot ((2 * 10 ^ 100 * 2 ^ fixBits / piDigits : Nat) : Int)

/-- The argument of the tanh in the tanh form of GELU: √(2/π) · (x + 0.044715 · x³). PRESUMED (log 39). -/
def geluArg (x : Int) : Int := fixMul rootTwoOverPi (x + fixMul x (fixMul x x) * 44715 / 1000000)

/-- The function of stage operation `sop` at a finite value, to some 2^−150 of its magnitude; `none` for `RSQRT` of a
value that is not positive. -/
def veExact (sop : Nat) (neg : Bool) (m : Nat) (e : Int) : Option Flt :=
  let x := fixOf neg m e
  match sop with
  | 0x0B => some (fltOfFix (fixExp x))
  | 0x0C => some (fltOfFix (fixDiv x (fixOne + fixExp (-2 * geluArg x))))
  | 0x0D => some (fltOfFix (fixDiv x (fixOne + fixExp (-x))))
  | 0x0E => let y := fixExp (2 * x); some (fltOfFix (fixDiv (y - fixOne) (y + fixOne)))
  | _ =>
    if neg || m == 0 then none
    else
      let odd := (e % 2).toNat
      some (.fin false (Nat.sqrt (2 ^ 400 / (m * 2 ^ odd))) (-200 - (e - odd) / 2))

/-- A pattern within 2 units in the last place of pattern v, chosen by k. Below a power of two the units are half as large. -/
def nearF32 (v k : Nat) : Nat :=
  let mag := v % 2 ^ 31
  let below := if mag % 2 ^ 23 = 0 ∧ 2 ^ 23 < mag ∧ mag < 0x7F800000 then 4 else 2
  let t : Int := Int.ofNat (mag + k % (below + 3)) - Int.ofNat below
  let neg := if t < 0 then decide (v < 2 ^ 31) else if t = 0 then k / 8 % 2 == 1 else decide (2 ^ 31 ≤ v)
  (if neg then 2 ^ 31 else 0) + min t.natAbs 0x7F800000

/-- `EXP`, `GELU`, `SILU`, `TANH`, `RSQRT` of an FP32 pattern (R437): within 2 units in the last place of the correctly rounded
result. At an infinity, and for `RSQRT` of a value that is not positive, no rule states a result: a free value. -/
def veFunction (sop x : Nat) : Nat :=
  let k := veFunc sop x
  let any := f32 (ofF32 (k % 2 ^ 32))
  match ofF32 x with
  | .nan => f32 .nan
  | .inf _ => any
  | .fin n m e =>
    match veExact sop n m e with
    | some y => nearF32 (f32 y) k
    | none => any

/-! ## The sums of `ENCS` (R330, R331) -/

/-- Cosine and sine of π / 2^k, by halving the angle. -/
def halfTurn : Nat → Int × Int
  | 0 => (-fixOne, 0)
  | k + 1 =>
    let c := (halfTurn k).1
    (fixRoot ((fixOne + c) / 2), fixRoot ((fixOne - c) / 2))

/-- cos(π · m / 2^n). -/
def cosPi (n m : Nat) : Int :=
  ((List.range (n + 1)).foldl (fun (z : Int × Int) j =>
    if bit m j then
      let h := halfTurn (n - j)
      (fixMul z.1 h.1 - fixMul z.2 h.2, fixMul z.1 h.2 + fixMul z.2 h.1)
    else z) (fixOne, 0)).1

/-- 2^E · m_i of R330 for N = 2^n and the slot values z. -/
def encsExact (e n i : Nat) (z : List Int) : Int :=
  let sum := ((List.range z.length).map fun k => fixMul (z.getD k 0) (cosPi n (i * 5 ^ k % 2 ^ (n + 1)))).sum
  sum * 2 ^ (e + 1) / 2 ^ n

/-- A coefficient within the bounds of R331 of v, chosen by k: less than 1 away below 2^56, and less than 2^−54 of the magnitude
from there on. A value nearer than 2^−300 to an integer counts as that integer. -/
def encsNear (v : Int) (k : Nat) : Int :=
  let q := v / fixOne
  let r := v % fixOne
  let b := v.natAbs / 2 ^ (fixBits + 54)
  if b < 4 then
    if r < 2 ^ (fixBits - 300) then q
    else if fixOne - r < 2 ^ (fixBits - 300) then q + 1
    else q + Int.ofNat (k % 2)
  else q + Int.ofNat (k % (2 * b - 1)) - Int.ofNat (b - 1)

end Sys2Proof.Machine
end

