-- ==== Sys2Proof/Machine/Pe.lean ====
section
/-! DEFINITION. The polynomial engine (07_polynomial_arithmetic, R298 to R334): element-wise operations, transforms,
automorphisms, its tables, and just-in-time encoding. -/

namespace Sys2Proof.Machine

open Sys2Proof

/-! ## Memory operands (R313, R314) -/

/-- The 64 KiB-page pieces of a contiguous range, all of them in own core memory (R28, R313): key, virtual address, bytes. -/
def pagePieces (s : State) (c : Nat) (x : Ctx) (w : Bool) : Nat → Nat → Nat → Option (List (Nat × Nat × Nat))
  | 0, _, _ => some []
  | f + 1, va, n =>
    if n = 0 then some []
    else
      let m := min n (65536 - va % 65536)
      let r := ctxAccess s c x (if w then .write else .read) va
      if r.1 = 0 ∧ ownCm c r.2 then
        (pagePieces s c x w f (va + m) (n - m)).map ((r.2, va, m) :: ·)
      else none

/-- A contiguous, 64 B-aligned range of own core memory (R249, R313, R463): the code, and its pieces. -/
def ownRange (s : State) (c k : Nat) (w : Bool) : Nat × List (Nat × Nat × Nat) :=
  let x := ctxOf s c k
  let a := Ctx.start s c x
  if !x.ok a || x.walk != 0 || !x.contiguous then (0x0105, [])
  else if a < 0 then (0x0302, [])
  else match pagePieces s c x w (x.bytes / 65536 + 2) a.toNat x.bytes with
  | some l => (0, l)
  | none => (0x0302, [])

/-- The bytes of a range. -/
def rangeBytes (l : List (Nat × Nat × Nat)) : Nat := (l.map fun p => p.2.2).sum

/-- The offset of the first 64 B line of a range that holds a poisoned word (R150). -/
def poisonLine (s : State) : List (Nat × Nat × Nat) → Nat → Option Nat
  | [], _ => none
  | p :: t, off =>
    match (List.range ((p.2.2 + 63) / 64)).find? fun i => poisoned s (p.1 + 64 * i) 64 with
    | some i => some (off + 64 * i)
    | none => poisonLine s t (off + p.2.2)

/-- Two ranges share a byte. -/
def overlaps (a b : List (Nat × Nat × Nat)) : Bool :=
  a.any fun p => b.any fun q => decide (p.1 < q.1 + q.2.2 ∧ q.1 < p.1 + p.2.2)

/-- Two ranges are the same bytes in the same order. -/
def sameRange (a b : List (Nat × Nat × Nat)) : Bool := (a.map fun p => (p.1, p.2.2)) == b.map fun p => (p.1, p.2.2)

/-- The codes of R314 for a destination against the sources. -/
def overlapCodes (dst : List (Nat × Nat × Nat)) (srcs : List (List (Nat × Nat × Nat))) (coincide : Bool) : List Nat :=
  if srcs.any fun s => overlaps s dst && !(coincide && sameRange s dst) then [0x0105] else []

/-- log2 of a limb's words, when a range is N · 8 B for a ring degree N (R289, R313). -/
def limbLog (n : Nat) : Option Nat := (List.range 8).map (10 + ·) |>.find? fun l => n == 8 * 2 ^ l

/-! ## The two forms -/

/-- Operands that a PE operation takes: the tile form, the memory form, or a mixture (R313). -/
inductive Form where
  | tile
  | mem
  | mixed
  deriving DecidableEq, Repr

def formOf (vs : List Opd) : Form :=
  if vs.all Opd.isCtx then .mem else if vs.any Opd.isCtx then .mixed else .tile

/-- The bytes of a tile as its engine reads them. -/
def tileBytes (s : State) (c : Nat) : Opd → List Byte
  | .tile t _ => rdBytes s (Mem.tile c t 0) 4096
  | .bank b _ => rdBytes s (Mem.acc c b 0) 16384
  | _ => []

/-- A tile or bank operand holds a poisoned word (R150). -/
def opdPoisoned (s : State) (c : Nat) : Opd → Bool
  | .tile t _ => poisoned s (Mem.tile c t 0) 4096
  | .bank b _ => poisoned s (Mem.acc c b 0) 16384
  | _ => false

def ctxNum : Opd → Nat
  | .ctx k => k
  | _ => 0

def tileNum : Opd → Nat
  | .tile t _ => t
  | _ => 0

/-- The codes of the storage rule for a destination and sources of engine `eng` (R248). -/
def storageCodes (eng : Nat) (dst : Opd) (srcs : List Opd) : List Nat :=
  if mayWrite eng dst && srcs.all (mayRead eng) then [] else [0x0105]

/-- A plan in the tile form: a poisoned operand leaves the destination unchanged, and the operation completes with
0x0303 (R150). DEDUCED (log 35). -/
def tilePlan (s : State) (c : Nat) (codes : List Nat) (srcs dsts : List (Nat × Nat)) (reads : List Opd) (o l : Nat)
    (writes : List (Nat × Option Nat × List Byte)) (fx : List Fx) : Plan :=
  if reads.any (opdPoisoned s c) then ⟨codes, srcs, dsts, false, o, l, [], [], 0x0303⟩
  else ⟨codes, srcs, dsts, false, o, l, writes, fx, 0⟩

/-- What a memory-form operation writes when it meets poison (R333): the bytes without poison, and the words marked. -/
def poisonedPlan (dst : List (Nat × Nat × Nat)) (elementwise : Bool) (off : Nat) (out : List Byte) (p : Plan) : Plan :=
  let n := rangeBytes dst
  if n ≤ 65536 then { p with writes := [], fx := [.peFault 0], status := 0x0303 }
  else if elementwise then
    { p with writes := layOver dst (out.take off), fx := [.peFault off], status := 0x0303 }
  else { p with writes := [], fx := (dst.map fun q => Fx.marks q.1 q.2.2 (some q.2.1)) ++ [.peFault 0], status := 0x0303 }

/-- A plan in the memory form, from the ranges read, the range written and its bytes. -/
def memPlan (s : State) (codes : List Nat) (elementwise work : Bool) (o l : Nat)
    (reads : List (List (Nat × Nat × Nat))) (dst : List (Nat × Nat × Nat)) (out : List Byte) (fx : List Fx) : Plan :=
  let p : Plan := ⟨codes, [], [], work, o, l, layOver dst out, fx, 0⟩
  match (reads.filterMap fun r => poisonLine s r 0).min? with
  | none => p
  | some off => poisonedPlan dst elementwise off out p

/-! ## Element-wise operations (R303 to R311, R315) -/

/-- Entry p of the prime table of core c. -/
def primeAt (s : State) (c p : Nat) : Prime := Tab.get Prime.init (core s c).primes p

/-- The entries that an arithmetic operation names may be used (R301, R308). -/
def primesOk (s : State) (c p : Nat) (narrow : Bool) : Bool :=
  (primeAt s c p).valid &&
    (!narrow || (p % 2 == 0 && (primeAt s c (p + 1)).valid && decide ((primeAt s c p).bits ≤ 30) &&
      decide ((primeAt s c (p + 1)).bits ≤ 30)))

/-- An element-wise operation: its code, whether it reads a second source, the constant register, or its destination,
its tile beats, the lines of its memory form in 64ths of N, and its result. -/
structure ElemOp where
  op : Nat
  two : Bool
  konst : Bool
  acc : Bool
  occ : Nat
  lat : Nat
  lines : Nat
  f : Prime → List Nat → Nat

def eMadd : ElemOp := ⟨0x01, true, false, false, 4, 10, 24, fun p l => modAdd p (l.getD 0 0) (l.getD 1 0)⟩
def eMsub : ElemOp := ⟨0x02, true, false, false, 4, 10, 24, fun p l => modSub p (l.getD 0 0) (l.getD 1 0)⟩
def eMneg : ElemOp := ⟨0x03, false, false, false, 4, 10, 16, fun p l => modNeg p (l.getD 0 0)⟩
def eMcpy : ElemOp := ⟨0x04, false, false, false, 4, 10, 16, fun _ l => l.getD 0 0⟩
def eMmul : ElemOp := ⟨0x05, true, false, false, 4, 16, 24, fun p l => modMul p (l.getD 0 0) (l.getD 1 0)⟩
def eMmac : ElemOp := ⟨0x06, true, false, true, 4, 18, 32, fun p l => modMul p (l.getD 0 0) (l.getD 1 0)⟩
def eMmulk : ElemOp := ⟨0x08, false, true, false, 4, 16, 16, fun p l => modMul p (l.getD 0 0) (l.getD 1 0)⟩
def eMmack : ElemOp := ⟨0x09, false, true, true, 4, 18, 24, fun p l => modMul p (l.getD 0 0) (l.getD 1 0)⟩

/-- The words of an operation's product or sum, from its sources' words, and whether a lane met an input of `q` or
more. -/
def elemWords (e : ElemOp) (narrow : Bool) (p0 p1 : Prime) (k : Nat) (srcs : List (List Nat)) : List Nat × Bool :=
  let ins := (lanesOf srcs).map fun l => if e.konst then l ++ [k] else l
  (ins.map (wordOp e.op narrow p0 p1 e.f), ins.any (wordHit narrow p0 p1))

/-- The plan of an element-wise operation: destination, then sources. -/
def elemPlan (e : ElemOp) (c : Nat) (mod : BitVec 18) (s : State) (_a : Nat) (vs : List Opd) : Plan :=
  let narrow := bit mod.toNat 17
  let p := bits mod.toNat 16 11
  let p0 := primeAt s c p
  let p1 := primeAt s c (p + 1)
  let k := Tab.get 0 (core s c).consts (bits mod.toNat 10 7)
  let dst := vs.getD 0 .bad
  let srcs := vs.drop 1
  let codes := (if primesOk s c p narrow then [] else [0x0105]) ++ storageCodes 0 dst srcs
  match formOf vs with
  | .mixed => Plan.bad [0x0105]
  | .tile =>
    let r := elemWords e narrow p0 p1 k (srcs.map fun o => wordsOf (tileBytes s c o))
    let key := Mem.tile c (tileNum dst) 0
    let hit := if r.2 then [Fx.rangeHit] else []
    if e.acc then
      tilePlan s c codes (srcs.flatMap Opd.storage) dst.storage (dst :: srcs) e.occ e.lat []
        [.macc (tileNum dst) narrow r.2 r.1 p0 p1]
    else tilePlan s c codes (srcs.flatMap Opd.storage) dst.storage srcs e.occ e.lat [(key, none, bytesOf r.1)] hit
  | .mem =>
    let d := ownRange s c (ctxNum dst) true
    let rs := srcs.map fun o => ownRange s c (ctxNum o) false
    let ranges := rs.map Prod.snd
    let sizes := if ranges.all (rangeBytes · == rangeBytes d.2) && (limbLog (rangeBytes d.2)).isSome then [] else [0x0105]
    let codes := codes ++ d.1 :: rs.map Prod.fst ++ sizes ++ overlapCodes d.2 ranges true
    let r := elemWords e narrow p0 p1 k (ranges.map fun l => wordsOf (pieceBytes s l))
    let old := wordsOf (pieceBytes s d.2)
    let sums := lanesOf [old, r.1]
    let out := if e.acc then sums.map (wordOp 0x01 narrow p0 p1 fun p l => modAdd p (l.getD 0 0) (l.getD 1 0)) else r.1
    let hit := r.2 || (e.acc && old.any fun w => wordHit narrow p0 p1 [w])
    let ℓ := rangeBytes d.2 / 8 * e.lines / 64
    let o := (ℓ + 5) / 6 + 2
    memPlan s codes true false o (o + 18) (if e.acc then d.2 :: ranges else ranges) d.2 (bytesOf out)
      (if hit then [.rangeHit] else [])

/-- An element-wise instruction. -/
def elem (e : ElemOp) (s : State) (c : Nat) (x : XIns) : State :=
  issue s c 0 e.op x (if e.two then [x.dst, x.srca, x.srcb] else [x.dst, x.srca]) (elemPlan e c x.mod)

def execMadd (c : Nat) (x : XIns) (s : State) : Res := guarded (decide (c < 800)) s (elem eMadd s c x)
def execMsub (c : Nat) (x : XIns) (s : State) : Res := guarded (decide (c < 800)) s (elem eMsub s c x)
def execMneg (c : Nat) (x : XIns) (s : State) : Res := guarded (decide (c < 800)) s (elem eMneg s c x)
def execMcpy (c : Nat) (x : XIns) (s : State) : Res := guarded (decide (c < 800)) s (elem eMcpy s c x)
def execMmul (c : Nat) (x : XIns) (s : State) : Res := guarded (decide (c < 800)) s (elem eMmul s c x)
def execMmac (c : Nat) (x : XIns) (s : State) : Res := guarded (decide (c < 800)) s (elem eMmac s c x)
def execMmulk (c : Nat) (x : XIns) (s : State) : Res := guarded (decide (c < 800)) s (elem eMmulk s c x)
def execMmack (c : Nat) (x : XIns) (s : State) : Res := guarded (decide (c < 800)) s (elem eMmack s c x)

/-! ## Transforms (R302, R304, R316 to R319) -/

/-- The prime of a built slot: q, mu and `bits` from its entry as it stands, the roots as its tables hold them (R298, R302). -/
def Twiddle.prime (s : State) (c : Nat) (w : Twiddle) : Prime := { primeAt s c w.entry with psi := w.psi, psiInv := w.psiInv }

/-- The primes that a twiddle slot serves (R302, R308, R309): `none` when it is unbuilt, or breaks narrow mode. -/
def slotPrimes (s : State) (c slot : Nat) (narrow : Bool) : Option (Prime × Prime) :=
  match Tab.get none (core s c).twiddles slot, Tab.get none (core s c).twiddles (slot + 1) with
  | none, _ => none
  | some w, v =>
    if narrow then
      match v with
      | some v => if slot % 2 = 0 ∧ v.entry = w.entry + 1 ∧ primesOk s c w.entry true then some (w.prime s c, v.prime s c) else none
      | none => none
    else if (primeAt s c w.entry).valid then some (w.prime s c, w.prime s c) else none

/-- The tile group of an operand of k tiles (R317). -/
def tileGroup (k : Nat) : Opd → Option (List (Nat × Nat))
  | .tile t g => if t % k = 0 ∧ t + k ≤ 16 then some ((List.range k).map fun i => (t + i, g)) else none
  | _ => none

/-- The plan of `NTT` (inv false) and `INTT`. -/
def nttPlan (inv : Bool) (c : Nat) (mod : BitVec 18) (s : State) (_a : Nat) (vs : List Opd) : Plan :=
  let narrow := bit mod.toNat 17
  let n := bits mod.toNat 14 12 + 10
  match slotPrimes s c (bits mod.toNat 16 15) narrow with
  | none => Plan.bad [0x0105]
  | some (p0, p1) =>
    let codes := if n ≤ p0.logN ∧ (!narrow ∨ n ≤ p1.logN) then [] else [0x0105]
    let dst := vs.getD 0 .bad
    let src := vs.getD 1 .bad
    let hitOf := fun (l : List Nat) => if l.any (fun w => wordHit narrow p0 p1 [w]) then [Fx.rangeHit] else []
    match formOf vs with
    | .mixed => Plan.bad [0x0105]
    | .tile =>
      if 12 < n then Plan.bad [0x0105]
      else match tileGroup (2 ^ (n - 9)) dst, tileGroup (2 ^ (n - 9)) src with
      | some d, some r =>
        let l := r.flatMap fun e => wordsOf (rdBytes s (Mem.tile c e.1 0) 4096)
        let out := transformW inv narrow p0 p1 n l
        let o := 2 ^ n * n / 256
        tilePlan s c codes r d (r.map fun e => .tile e.1 e.2) o (o + 12)
          (d.zipIdx.map fun e => (Mem.tile c e.1.1 0, none, bytesOf ((out.drop (512 * e.2)).take 512))) (hitOf l)
      | _, _ => Plan.bad [0x0105]
    | .mem =>
      let d := ownRange s c (ctxNum dst) true
      let r := ownRange s c (ctxNum src) false
      let sizes := if 12 ≤ n ∧ rangeBytes d.2 = 8 * 2 ^ n ∧ rangeBytes r.2 = 8 * 2 ^ n then [] else [0x0105]
      let l := wordsOf (pieceBytes s r.2)
      let o := (2 ^ n + 11) / 12 + 64
      memPlan s (codes ++ [d.1, r.1] ++ sizes ++ overlapCodes d.2 [r.2] true) false true o (o + 32) [r.2] d.2
        (bytesOf (transformW inv narrow p0 p1 n l)) (hitOf l)

def ntt (s : State) (c : Nat) (x : XIns) : State := issue s c 0 0x10 x [x.dst, x.srca] (nttPlan false c x.mod)
def intt (s : State) (c : Nat) (x : XIns) : State := issue s c 0 0x11 x [x.dst, x.srca] (nttPlan true c x.mod)
def execNtt (c : Nat) (x : XIns) (s : State) : Res := guarded (decide (c < 800)) s (ntt s c x)
def execIntt (c : Nat) (x : XIns) (s : State) : Res := guarded (decide (c < 800)) s (intt s c x)

/-! ## Automorphisms (R301, R320 to R323) -/

/-- The plan of `AUT`. -/
def autPlan (c : Nat) (mod : BitVec 18) (s : State) (_a : Nat) (vs : List Opd) : Plan :=
  match Tab.get none (core s c).galois (bits mod.toNat 17 16), formOf vs with
  | some (g, n), .mem =>
    let d := ownRange s c (ctxNum (vs.getD 0 .bad)) true
    let r := ownRange s c (ctxNum (vs.getD 1 .bad)) false
    let sizes := if rangeBytes d.2 = 8 * 2 ^ n ∧ rangeBytes r.2 = 8 * 2 ^ n then [] else [0x0105]
    let l := wordsOf (pieceBytes s r.2)
    let o := (2 ^ n + 23) / 24 + 16
    memPlan s ([d.1, r.1] ++ sizes ++ overlapCodes d.2 [r.2] false) false true o (o + 24) [r.2] d.2
      (bytesOf ((List.range (2 ^ n)).map fun j => l.getD (autSource n g j) 0)) []
  | _, _ => Plan.bad [0x0105]

def aut (s : State) (c : Nat) (x : XIns) : State := issue s c 0 0x12 x [x.dst, x.srca] (autPlan c x.mod)
def execAut (c : Nat) (x : XIns) (s : State) : Res := guarded (decide (c < 800)) s (aut s c x)

/-- Output word r of block b takes word r′ of its input block (R321): the word of R320 within the block. -/
def autBlock (n g b : Nat) (l : List Nat) : List Nat :=
  (List.range 512).map fun r => l.getD (autSource n g (512 * b + r) % 512) 0

/-- The plan of `AUTT`. -/
def auttPlan (c : Nat) (mod : BitVec 18) (s : State) (_a : Nat) (vs : List Opd) : Plan :=
  let b := bits mod.toNat 15 8
  let dst := vs.getD 0 .bad
  let src := vs.getD 1 .bad
  match Tab.get none (core s c).galois (bits mod.toNat 17 16), formOf vs with
  | some (g, n), .tile =>
    tilePlan s c ((if b < 2 ^ (n - 9) then [] else [0x0105]) ++ storageCodes 0 dst [src]) src.storage dst.storage [src] 8 20
      [(Mem.tile c (tileNum dst) 0, none, bytesOf (autBlock n g b (wordsOf (tileBytes s c src))))] []
  | _, _ => Plan.bad [0x0105]

def autt (s : State) (c : Nat) (x : XIns) : State := issue s c 0 0x13 x [x.dst, x.srca] (auttPlan c x.mod)
def execAutt (c : Nat) (x : XIns) (s : State) : Res := guarded (decide (c < 800)) s (autt s c x)

/-! ## The PE's registers (R297 to R302, R310 to R313) -/

/-- The plan of `GSET`: what depends on the prime table is judged when it completes (R312). -/
def gsetPlan (c : Nat) (mod : BitVec 18) (s : State) (_a : Nat) (_vs : List Opd) : Plan :=
  let g := Tab.get 0 (core s c).consts (bits mod.toNat 12 9) % 2 ^ 18
  let n := bits mod.toNat 15 13 + 10
  ⟨if g % 2 = 1 ∧ g < 2 ^ (n + 1) then [] else [0x0105], [], [], false, 1, 2, [], [.galois (bits mod.toNat 17 16) g n], 0⟩

def gset (s : State) (c : Nat) (x : XIns) : State := issue s c 0 0x14 x [] (gsetPlan c x.mod)
def execGset (c : Nat) (x : XIns) (s : State) : Res := guarded (decide (c < 800)) s (gset s c x)

/-- A table load from n bytes of own core memory: the effect from its words. -/
def loadPlan (n o l : Nat) (f : List Nat → Fx) (c : Nat) (s : State) (_a : Nat) (vs : List Opd) : Plan :=
  match vs with
  | [.ctx k] =>
    let r := ownRange s c k false
    memPlan s [r.1, if rangeBytes r.2 = n then 0 else 0x0105] true false o l [r.2] [] [] [f (wordsOf (pieceBytes s r.2))]
  | _ => Plan.bad [0x0105]

/-- The prime table that a chain record gives (R296). -/
def primesOfWords (w : List Nat) : Tab Prime :=
  (List.range 64).foldl (fun t i => Tab.set Prime.init t i (Prime.ofWords ((w.drop (8 * i)).take 8))) []

def ptl (s : State) (c : Nat) (x : XIns) : State :=
  issue s c 0 0x18 x [x.srca] (loadPlan 4096 11 15 (fun w => .primes (primesOfWords w)) c)
def execPtl (c : Nat) (x : XIns) (s : State) : Res := guarded (decide (c < 800)) s (ptl s c x)

/-- K0 to K15 from 128 bytes. -/
def constsOfWords (w : List Nat) : Tab Nat := (List.range 16).foldl (fun t i => Tab.set 0 t i (w.getD i 0)) []

def kld (s : State) (c : Nat) (x : XIns) : State :=
  issue s c 0 0x19 x [x.srca] (loadPlan 128 4 8 (fun w => .consts (constsOfWords w)) c)
def execKld (c : Nat) (x : XIns) (s : State) : Res := guarded (decide (c < 800)) s (kld s c x)

/-- The plan of `TWB`. -/
def twbPlan (c : Nat) (mod : BitVec 18) (s : State) (_a : Nat) (_vs : List Opd) : Plan :=
  let i := bits mod.toNat 15 10
  let p := primeAt s c i
  ⟨if p.valid then [] else [0x0105], [], [], false, 48, 48, [], [.twiddle (bits mod.toNat 17 16) ⟨i, p.psi, p.psiInv⟩], 0⟩

def twb (s : State) (c : Nat) (x : XIns) : State := issue s c 0 0x1A x [] (twbPlan c x.mod)
def execTwb (c : Nat) (x : XIns) (s : State) : Res := guarded (decide (c < 800)) s (twb s c x)

/-! ## Just-in-time encoding (R327 to R332) -/

/-- The fields of `ENCC` and `ENCS` (R311). -/
structure EncMod where
  vtype : Nat
  group : Nat
  e : Nat
  n : Nat
  place : Nat
  deriving DecidableEq, Repr

def EncMod.of (m : BitVec 18) : EncMod :=
  ⟨bits m.toNat 17 16, bits m.toNat 15 14, bits m.toNat 13 8, bits m.toNat 7 5 + 10, bits m.toNat 4 3⟩

def EncMod.ok (m : EncMod) : Bool := m.group != 3 && decide (m.e ≤ 60)

/-- Value i of a tensor (R311). -/
def encValue (m : EncMod) (l : List Byte) (i : Nat) : Flt :=
  match m.vtype with
  | 0 => .ofInt (intElem false false l i)
  | 1 => .ofInt (intElem true false l i)
  | 2 => Fmt.e4m3.decode (byteAt l i)
  | _ => Fmt.e5m2.decode (byteAt l i)

/-- The count of values in a tensor. -/
def EncMod.values (m : EncMod) (bytes : Nat) : Nat := if m.vtype = 1 then 2 * bytes else bytes

/-- A coefficient cut to 64 bits (R328), and whether it was. -/
def cut64 (v : Int) : Int × Bool :=
  if 2 ^ 63 ≤ v then (2 ^ 63 - 1, true) else if v ≤ -(2 ^ 63) then (-(2 ^ 63 - 1), true) else (v, false)

/-- The integer nearest to x · 2^E (R328). A coefficient of a NaN is free; an infinity is beyond 2^63. -/
def roundCoeff (e i : Nat) (x : Flt) : Int × Bool :=
  match x with
  | .nan => (signed 64 (peWord 0x20 [e] [] i % 2 ^ 64), false)
  | .inf n => (if n then -(2 ^ 63 - 1) else 2 ^ 63 - 1, true)
  | .fin n m x => cut64 (nearestInt n m (x + e))

/-- The coefficient that value i goes to, and its sign (R329). -/
def EncMod.coeffOf (m : EncMod) (i : Nat) : Nat × Bool :=
  match m.place with
  | 1 => if i = 0 then (0, false) else (2 ^ m.n - i, true)
  | 2 => (2 * i, false)
  | _ => (i, false)

/-- The pattern of a signed 64-bit coefficient. -/
def i64 (v : Int) : Nat := (v % 2 ^ 64).toNat

/-- The buffer of `ENCC` from the bytes of values and scales, and the coefficients cut (R327 to R329). -/
def enccOut (m : EncMod) (vals scales : List Byte) : List Nat × Nat :=
  let g := 32 * 2 ^ m.group
  let n := m.values vals.length
  let cs := (List.range n).map fun i =>
    let p := m.coeffOf i
    let x := (encValue m vals i).mul (ofF32 (wordAt scales (4 * (i / g))))
    (p.1, roundCoeff m.e i (if p.2 then x.neg else x))
  let t : Tab Nat := cs.foldl (fun t c => Tab.set 0 t c.1 (i64 c.2.1)) []
  ((List.range (2 ^ m.n)).map (Tab.get 0 t), (cs.filter fun c => c.2.2).length)

/-- The slot values of an `ENCS` of `count` values (R327, R330); `none` when one is a NaN or an infinity. -/
def encsSlots (m : EncMod) (count : Nat) (vals scales : List Byte) : Option (List Int) :=
  (List.range count).mapM fun i =>
    match (encValue m vals i).mul (ofF32 (wordAt scales (4 * (i / (32 * 2 ^ m.group))))) with
    | .fin n x e => some (fixOf n x e)
    | _ => none

/-- The buffer of `ENCS` (R330, R331), and the coefficients cut: each coefficient is a fixed function of the inputs, within the
bounds of R331 of the exact value. From a value that is a NaN or an infinity it is free. -/
def encsOut (m : EncMod) (count : Nat) (vals scales : List Byte) : List Nat × Nat :=
  let key := m.vtype :: m.group :: count :: (vals ++ scales).map BitVec.toNat
  let slots := encsSlots m count vals scales
  let cs := (List.range (2 ^ m.n)).map fun i =>
    let k := encsPick key m.e m.n i
    match slots with
    | some z => cut64 (encsNear (encsExact m.e m.n i z) k)
    | none => (signed 64 (k % 2 ^ 64), false)
  (cs.map fun c => i64 c.1, (cs.filter Prod.snd).length)

/-- The plan of `ENCC` and `ENCS`. -/
def encPlan (slots : Bool) (c : Nat) (mod : BitVec 18) (s : State) (_a : Nat) (vs : List Opd) : Plan :=
  let m := EncMod.of mod
  match vs with
  | [.ctx kd, .ctx ka, .ctx kb] =>
    let d := ownRange s c kd true
    let a := ownRange s c ka false
    let b := ownRange s c kb false
    let n := m.values (rangeBytes a.2)
    let limit := if slots ∨ m.place = 2 then 2 ^ (m.n - 1) else 2 ^ m.n
    let bad := d.1 != 0 || a.1 != 0 || b.1 != 0 || !m.ok || (!slots && m.place == 3) || decide (limit < n) || rangeBytes d.2 != 8 * 2 ^ m.n ||
      decide (rangeBytes b.2 < (n + 32 * 2 ^ m.group - 1) / (32 * 2 ^ m.group) * 4)
    let r := if slots then encsOut m n (pieceBytes s a.2) (pieceBytes s b.2) else enccOut m (pieceBytes s a.2) (pieceBytes s b.2)
    let ℓ := (rangeBytes a.2 + 63) / 64 + (rangeBytes b.2 + 63) / 64 + 2 ^ m.n / 8
    let o := if slots then 2 ^ m.n * (m.n - 1) / 128 + 96 else (ℓ + 5) / 6 + 16
    memPlan s ([d.1, a.1, b.1, if bad then 0x0105 else 0] ++ overlapCodes d.2 [a.2, b.2] false) false slots o
      (o + if slots then 32 else 24) [a.2, b.2] d.2 (bytesOf r.1) (if r.2 = 0 then [] else [.saturated r.2])
  | _ => Plan.bad [0x0105]

def encc (s : State) (c : Nat) (x : XIns) : State := issue s c 0 0x20 x [x.dst, x.srca, x.srcb] (encPlan false c x.mod)
def encs (s : State) (c : Nat) (x : XIns) : State := issue s c 0 0x21 x [x.dst, x.srca, x.srcb] (encPlan true c x.mod)
def execEncc (c : Nat) (x : XIns) (s : State) : Res := guarded (decide (c < 800)) s (encc s c x)
def execEncs (c : Nat) (x : XIns) (s : State) : Res := guarded (decide (c < 800)) s (encs s c x)

/-- A buffer reduced modulo one prime or one narrow pair, as the words of a limb (R332). -/
def encrWords (narrow : Bool) (p0 p1 : Prime) (l : List Nat) : List Nat :=
  let red := fun (p : Prime) (w : Nat) => ((signed 64 w) % (p.q : Int)).toNat
  l.map fun w => if narrow then red p0 w % 2 ^ 32 + 2 ^ 32 * (red p1 w % 2 ^ 32) else red p0 w

/-- The plan of `ENCR`. -/
def encrPlan (c : Nat) (mod : BitVec 18) (s : State) (_a : Nat) (vs : List Opd) : Plan :=
  let narrow := bit mod.toNat 17
  let n := bits mod.toNat 14 12 + 10
  match slotPrimes s c (bits mod.toNat 16 15) narrow, vs with
  | some (p0, p1), [.ctx kd, .ctx ka] =>
    let d := ownRange s c kd true
    let r := ownRange s c ka false
    let ok := decide (n ≤ p0.logN ∧ (!narrow ∨ n ≤ p1.logN) ∧ 12 ≤ n ∧ rangeBytes d.2 = 8 * 2 ^ n ∧ rangeBytes r.2 = 8 * 2 ^ n)
    let o := (2 ^ n + 11) / 12 + 64
    memPlan s ([d.1, r.1, if ok then 0 else 0x0105] ++ overlapCodes d.2 [r.2] true) false true o (o + 32) [r.2] d.2
      (bytesOf (transformW false narrow p0 p1 n (encrWords narrow p0 p1 (wordsOf (pieceBytes s r.2))))) []
  | _, _ => Plan.bad [0x0105]

def encr (s : State) (c : Nat) (x : XIns) : State := issue s c 0 0x22 x [x.dst, x.srca] (encrPlan c x.mod)
def execEncr (c : Nat) (x : XIns) (s : State) : Res := guarded (decide (c < 800)) s (encr s c x)

end Sys2Proof.Machine
end

