-- ==== Sys2Proof/Machine/Keys.lean ====
section
/-! DEFINITION. The KXU, key contexts and their chunks (R358 to R378, R383). -/

namespace Sys2Proof.Machine

open Sys2Proof

/-! ## Key contexts -/

def Core.key (k : Core) (i : Nat) : KeyCtx := Tab.get KeyCtx.init k.keys i
def Core.setKey (k : Core) (i : Nat) (v : KeyCtx) : Core := { k with keys := Tab.set KeyCtx.init k.keys i v }

/-- What an operation on a context that is not open returns: the stop status of one that has stopped (R361, R369,
R374). -/
def KeyCtx.refusal (v : KeyCtx) : Option Nat :=
  if v.state = 1 then none else if v.state = 2 then some v.status else some 0x020B

/-! ## `XEXP` (R358 to R361) -/

/-- Word j of limb i of a-half digit d (R359). -/
def halfWord (seed q d i j : Nat) : Nat :=
  let b := leBytes 32 seed
  let e := beNat ([BitVec.ofNat 8 d, BitVec.ofNat 8 i] ++ List.replicate 10 0 ++ beBytes 4 j)
  sm4 (beNat (b.take 16)) (beNat (b.drop 16) ^^^ e) % q

/-- The words of the n-th tile of a context (R361, R369). -/
def halfTile (s : State) (v : KeyCtx) (n : Nat) : List Nat :=
  let e := v.place (v.position (n / v.tiles))
  let q := chainPrime s v.chain e.2.1
  (List.range 512).map fun r => halfWord v.seed q e.1 e.2.1 (e.2.2 * 8192 + n % v.tiles * 512 + r)

/-- The plan of `XEXP`; there is no tile after the last of the context's plan. DEDUCED (log 43). -/
def xexpPlan (c : Nat) (mod : BitVec 18) (s : State) (_a : Nat) (vs : List Opd) : Plan :=
  let i := bits mod.toNat 0 0
  let v := (core s c).key i
  let dst := vs.getD 0 .bad
  let codes := match v.refusal with
    | some r => [r]
    | none => if v.total * v.tiles ≤ v.expanded then [0x020B] else []
  ⟨codes ++ storageCodes 3 dst [], [], dst.storage, false, 4, 24,
    [(Mem.tile c (tileNum dst) 0, none, bytesOf (halfTile s v v.expanded))], [.expand i], 0⟩

def xexp (s : State) (c : Nat) (x : XIns) : State := issue s c 3 0x01 x [x.dst] (xexpPlan c x.mod)
def execXexp (c : Nat) (x : XIns) (s : State) : Res := guarded (decide (c < 800)) s (xexp s c x)

/-! ## Noise (R360, R362, R363) -/

/-- The parameter lies in its distribution's range (R360, R363). -/
def noiseOk (dist param : Nat) : Bool :=
  dist == 1 || (dist == 0 && decide (1 ≤ param ∧ param ≤ 32)) || (dist == 2 && decide (1 ≤ param ∧ param ≤ 60))

/-- Set bits among the low n of z. -/
def popcount : Nat → Nat → Nat
  | 0, _ => 0
  | n + 1, z => z % 2 + popcount n (z / 2)

/-- v of R363. -/
def noiseValue (dist param z : Nat) : Int :=
  match dist with
  | 0 => (popcount param z : Int) - popcount param (z / 2 ^ param)
  | 1 => (z % 3 : Nat) - 1
  | _ => (z % (2 ^ (param + 1) + 1) : Nat) - (2 ^ param : Nat)

/-- The plan of `XNOISE`. No distribution is set at program start: an `XNOISE` before any `XNSET` is invalid. DEDUCED
(log 44). -/
def xnoisePlan (c : Nat) (mod : BitVec 18) (s : State) (_a : Nat) (vs : List Opd) : Plan :=
  let k := core s c
  let p := primeAt s c (bits mod.toNat 17 12)
  let t := bits mod.toNat 7 0
  let dst := vs.getD 0 .bad
  let ok := noiseOk k.noiseDist k.noiseParam && decide (10 ≤ k.noiseLog ∧ t < 2 ^ k.noiseLog / 512) && p.valid
  let ws := (List.range 512).map fun r =>
    let z := sm4 k.noiseKey ((k.noiseCtr + 512 * t + r) % 2 ^ 128)
    (noiseValue k.noiseDist k.noiseParam z % (p.q : Int)).toNat
  ⟨(if ok then [] else [0x0105]) ++ storageCodes 3 dst [], [], dst.storage, false, 4, 24,
    [(Mem.tile c (tileNum dst) 0, none, bytesOf ws)], [], 0⟩

def xnoise (s : State) (c : Nat) (x : XIns) : State := issue s c 3 0x02 x [x.dst] (xnoisePlan c x.mod)
def execXnoise (c : Nat) (x : XIns) (s : State) : Res := guarded (decide (c < 800)) s (xnoise s c x)

/-- The plan of `XNSET`. -/
def xnsetPlan (mod : BitVec 18) (_s : State) (_a : Nat) (_vs : List Opd) : Plan :=
  let d := bits mod.toNat 17 16
  let p := bits mod.toNat 15 10
  ⟨if noiseOk d p then [] else [0x0105], [], [], false, 1, 2, [], [.noise d p (bits mod.toNat 9 7 + 10) (bit mod.toNat 0)], 0⟩

def xnset (s : State) (c : Nat) (x : XIns) : State := issue s c 3 0x03 x [] (xnsetPlan x.mod)
def execXnset (c : Nat) (x : XIns) (s : State) : Res := guarded (decide (c < 800)) s (xnset s c x)

/-! ## `KOPEN` (R366, R368, R491) -/

/-- The region of core memory is W, in no pool, and holds no open landing range. -/
def stageOk (s : State) (c r : Nat) : Bool :=
  decide (r < 24) && bit (core s c).cmAttr r && !bit (rd s (E.shadow_pool_cfg + c / 25)) r &&
    !(sector s (c / 25)).landing.any fun g => g.target == c % 25 && g.idx == r

/-- The context that words 1 to 4 of a key-open record and a descriptor that has been checked open, or the code that R368 gives.
A ring that this core does not reach, or that does not run, is an invalid operand. DEDUCED (log 45). -/
def openChecked (s : State) (c i : Nat) (w : Nat → Nat) (d : Desc) : Except Nat KeyCtx :=
  let ks := findKeySet s (ownerOf s (c / 25)) d.tag
  let kind := bits (w 1) 39 32
  let g := bits (w 1) 31 0
  let key := ks.bind fun k => k.key kind g
  let p := chainPrimes s d.chain
  let k := (ks.map KeySet.special).getD 0
  let mod := match ks with
    | some v => v.chain == d.chain && v.logn == d.logn && decide (d.level + k + 1 ≤ p)
    | none => true
  let src := bits (w 3) 55 48
  let ring := bits (w 3) 63 56
  let list := (List.range 64).filter fun j => bit (w 2) j
  let first := bits (w 3) 7 0
  let total := (key.map KeyInfo.digits).getD 0
  let n := if bits (w 3) 15 8 = 0 then total - first else bits (w 3) 15 8
  let a := bits (w 4) 4 0
  let b := bits (w 4) 12 8
  let v : KeyCtx := { KeyCtx.init with
    state := 1, part := (ownerOf s (c / 25)).getD 0, tag := d.tag, chain := d.chain, logn := d.logn, kind := kind, galois := g
    primes := p, list := list, digitFirst := first, digits := n, start := bits (w 3) 47 32
    ring := if src = 1 then some ring else none, stageA := a, stageB := b, base := (key.map KeyInfo.base).getD 0, seed := (key.map KeyInfo.seed).getD 0
    member := (ownMember s c ring).getD 0
    next := ((lace s ring).members.getD ((ownMember s c ring).getD 0) ⟨0, 0, [], 0⟩).first }
  let ok := ((core s c).key i).state == 0 && !list.isEmpty && list.all (fun j => decide (j ≤ d.level ∨ (p - k ≤ j ∧ j < p))) &&
    decide (1 ≤ n ∧ first + n ≤ total) && decide (v.start < v.total) && a != b && stageOk s c a && stageOk s c b &&
    (src == 0 || (src == 1 && decide (ring < 64) && laceRuns s ring && (ownMember s c ring).isSome))
  -- among several failures the lowest code (R18, R342)
  if !mod then .error 0x0206
  else if key.isNone then .error 0x0209
  else if !ok then .error 0x020B
  else .ok v

/-- The context that a record and a descriptor open, or the code that R368 gives. -/
def openKey (s : State) (c i : Nat) (rec' desc : List Byte) : Except Nat KeyCtx :=
  if !descValid s desc then .error 0x0208 else openChecked s c i (recWord rec') (descOf desc)

/-- `KOPEN` starts to read its record (R367). -/
def kopen (s : State) (c : Nat) (a : AIns) : State :=
  auIssue s c 0x20 true (auPushes a.queue) anyBeat fun s beat word =>
    if !ctxUsable s c a.context then .bad 0x0105
    else launch s c (newXfer s c .kopen word beat a.context (bits a.imm.toNat 0 0) a.queue 0 false 64) id

def execKopen (c : Nat) (a : AIns) (s : State) : Res := guarded (decide (c < 800)) s (kopen s c a)

/-- A `KOPEN` ends: it opens its context and pushes a token, or fails. -/
def kopenEnd (s : State) (c : Nat) (x : Xfer) (beats : Nat) : State :=
  let k := core s c
  if !(k.queue x.queue).room then onCore s c fun k => { k with waiting := 2 }
  else
    let e := max (endBeat s c x beats) (k.queue x.queue).roomAt
    let r := (recordAt s c x.context x.start).1
    let rb := gather s r
    let dk := (translate s c .read (bits (recWord rb 0) 47 0)).2
    let bad := (r.map fun p => (readStatus s c p.1 p.2)) ++ [readStatus s c dk 64]
    let st := lowestCode (bad.map fun b => if b.2 then max b.1 0x0303 else b.1)
    if st ≠ 0 then endXfer s c x st e
    else match openKey s c x.dstContext rb (rdBytes s dk 64) with
    | .error code =>
      endXfer (if code = 0x0208 then inc s (E.descriptor_invalid_count + c / 25) else s) c x code e
    | .ok v => endXfer (onCore s c fun k => (k.setKey x.dstContext v).pushEntry x.queue true 0 0 e) c x 0 e

/-! ## Chunks (R364 to R374, R377, R383) -/

/-- The lower staging place that no chunk occupies. -/
def KeyCtx.freePlace (v : KeyCtx) : Option Nat := [0, 1].find? fun p => v.staged.all fun g => g.place != p

/-- The staging region's first byte. -/
def KeyCtx.stageKey (v : KeyCtx) (c place : Nat) : Nat := Mem.cm c (65536 * if place = 0 then v.stageA else v.stageB)

/-- A key context stops (R373, R374). -/
def stopKey (s : State) (c i st : Nat) : State :=
  onCore s c fun k => k.setKey i { k.key i with state := 2, status := st }

/-- `KFETCH` requests the next chunk (R367, R369, R475, R493). -/
def kfetch (s : State) (c : Nat) (a : AIns) : State :=
  let i := bits a.imm.toNat 0 0
  auIssue s c 0x21 true noCodes anyBeat fun s beat word =>
    let k := core s c
    let v := k.key i
    match v.refusal with
    | some r => .bad r
    | none =>
      if v.total ≤ v.fetched then .bad 0x020B
      else match v.freePlace with
      | none => .wait
      | some p =>
        if 16 ≤ k.inFlight then .wait
        else if v.ring.any fun r => !laceRuns s r then
          .fault 0x0305 ⟨0, 0, 0, 0⟩
        else
          let x := { newXfer s c .kfetch word beat 0 i 0 0 false v.payload with cursor := v.fetched }
          .go (onCore s c fun k => (k.addXfer x).setKey i
            { v with fetched := v.fetched + 1, staged := v.staged ++ [⟨p, v.fetched, false, 0, 0, []⟩] }) none

/-- `KFETCH` on a ring that has stopped or finished stops its context first. -/
def kfetchStop (s : State) (c : Nat) (a : AIns) : State :=
  let v := (core s c).key (bits a.imm.toNat 0 0)
  let due := match (core s c).block with
    | some b => !b.adone && b.fault == 0 && !(core s c).holding && decide (b.apos < b.exeStart)
    | none => (core s c).c2 && ((core s c).c2Head 0).any fun w => bits w 63 58 == 0x21
  if coreRuns s c && due && v.state == 1 && v.ring.any (fun r => laceState s r == 3 || laceState s r == 4) then
    stopKey s c (bits a.imm.toNat 0 0) 0x0305
  else s

def execKfetch (c : Nat) (a : AIns) (s : State) : Res := guarded (decide (c < 800)) s (kfetch (kfetchStop s c a) c a)

/-- The checks of R371 that a chunk fails, as `ksf_checks` (R383). -/
def chunkChecks (v : KeyCtx) (k : Nat) (h payload : List Byte) : Nat :=
  let w := recWord h
  let p := v.position k
  let e := v.place p
  let seqOk := bits (w 1) 63 56 == e.2.2 && bits (w 1) 55 48 == e.2.1 && bits (w 1) 47 40 == e.1 && bits (w 1) 39 32 == v.kind &&
    bits (w 1) 31 0 == v.galois && bits (w 2) 63 32 == v.payload && bits (w 2) 31 0 == v.seqAt p &&
    bits (w 3) 15 8 == v.chain && bits (w 3) 7 0 == v.logn
  (if w 0 = v.tag then 0 else 1) + (if seqOk then 0 else 2) +
    if w 7 / 2 ^ 32 = crc32c (h.take 60 ++ payload) then 0 else 4

/-- The status of failing checks, the lowest first (R18, R371). -/
def checksStatus (f : Nat) : Nat := if bit f 0 then 0x0203 else if bit f 1 then 0x0204 else if bit f 2 then 0x0205 else 0

/-- The record of a failing chunk (R373, R383). -/
def noteKeyFault (s : State) (c i k f : Nat) (v : KeyCtx) (h : List Byte) : State :=
  let s := wr (wr (wr (wr s E.ksf_core c) E.ksf_context i) E.ksf_status (checksStatus f)) E.ksf_position k
  let s := wr (wr s E.ksf_expected_seq (v.seqAt (v.position k))) E.ksf_found_seq (bits (recWord h 2) 31 0)
  let s := wr (wr (wr s E.ksf_found_tag (recWord h 0)) E.ksf_checks f) E.ksf_time (now s)
  inc s (E.key_stream_fault_count + c / 25)

/-- The number of the offer by which a ring brings the next unit of a context's plan, if it stands at its member. -/
def ringOffer (s : State) (v : KeyCtx) : Option Nat :=
  match v.ring with
  | none => some 0
  | some r =>
    let m := (lace s r).members.getD v.member ⟨0, 0, [], 0⟩
    ((List.range m.units.length).map (m.first + ·)).find? fun j =>
      decide (v.next ≤ j) && v.plans ((m.units.getD (j - m.first) ⟨0, 0, 0, 0⟩).unit)

/-- The keys of the header and the payload of the next chunk of a context (R357, R370, R377, R485): in the key store, or in the
slot of the unit that its ring offers as number j. -/
def KeyCtx.chunkKeys (s : State) (v : KeyCtx) (j : Nat) : Nat × Nat :=
  match v.ring with
  | none =>
    let a := v.base + (64 + v.payload) * v.indexAt (v.position v.arrived)
    (Mem.hbm a, Mem.hbm (a + 64))
  | some r =>
    let m := (lace s r).members.getD v.member ⟨0, 0, [], 0⟩
    let q := (m.units.getD (j - m.first) ⟨0, 0, 0, 0⟩).slot
    (m.headKey q, m.slotKey q)

/-- What the landing of a chunk leaves: the state, the status of its read, the checks it fails, and its header. -/
structure Landed where
  s : State
  status : Nat
  checks : Nat
  header : List Byte

/-- The next chunk of a context lands in a staging place, and its checks are made (R370, R371); its ring offers it as number j.
What ECC finds stands at the first byte of the payload: a transfer of HBM that it cannot correct lands marked (R150, R186).
DEDUCED (log 210). -/
def landChunk (s : State) (c i place j : Nat) (ecc : Ecc) : Landed :=
  let v := (core s c).key i
  let at_ := v.chunkKeys s j
  let far := decide (at_.2 < 2 ^ 38)
  let s := if far then s else wordErrors s at_.2 ecc
  let s := meet (meet (settleMem s at_.2) at_.1 64) at_.2 v.payload
  let h := rdBytes s at_.1 64
  let key := v.stageKey c place
  let t := copyMarked (flush s c) at_.2 key v.payload
  let t := if far then (if ecc = .uncorrectable ∧ storedOnce s at_.2 then markWords t key 32 else t) |> fun t => noteEcc t at_.2 ecc else t
  ⟨countCore t c 0x00C 1,
    lowestCode [(readStatus s c at_.1 64).1, (if far then hbmStatus s at_.2 v.payload ecc else readStatus s c at_.2 v.payload).1],
    chunkChecks v v.arrived h (rdBytes s at_.2 v.payload), h⟩

/-- The context after a chunk that its ring offered as number j. -/
def KeyCtx.advance (v : KeyCtx) (j : Nat) : KeyCtx :=
  { v with arrived := v.arrived + 1, next := if v.ring.isSome then j + 1 else v.next }

/-- A chunk's failing checks stop its context (R373), unless it has stopped already. -/
def chunkVerdict (s : State) (c i : Nat) (v : KeyCtx) (f : Nat) (h : List Byte) : State :=
  if v.state ≠ 1 ∨ f = 0 then s else stopKey (noteKeyFault s c i v.arrived f v h) c i (checksStatus f)

/-- A chunk arrives for the oldest fetch of a context: its payload lands in its staging region, the context keeps its header, and
its checks give its verdict or stop the context (R370 to R374). The fetch ends after the beats that it took, with the status of the
read. DEDUCED (log 210). -/
def chunkArrives (s : State) (c i beats : Nat) (ecc : Ecc) : State :=
  let k := core s c
  let v := k.key i
  match k.xfers.find? (fun x => x.kind == .kfetch && x.dstContext == i), v.staged.find? (fun g => g.position == v.arrived) with
  | some x, some g =>
    match ringOffer s v with
    | none => s
    | some j =>
      let l := landChunk s c i g.place j ecc
      let v' := { v.advance j with
        staged := v.staged.map fun y => if y.position = g.position then { y with verdict := l.checks == 0, header := l.header } else y }
      let s := onCore l.s c fun k => k.setKey i v'
      chunkVerdict (endXfer s c x l.status (max (core s c).beat (x.issue + beats))) c i v l.checks l.header
  | _, _ => s

/-! ## The key contexts of kernels (R403) -/

/-- The unit that member m of a ring of n members and T units is offered as number j, in the order of R486. -/
def Lace.unitAt (l : Lace) (m j : Nat) : Nat := (l.units / max 1 l.members.length * m + j) % max 1 l.units

/-- The plan position of the first unit that a context's ring brings it (R378). -/
def KeyCtx.firstPosition (s : State) (v : KeyCtx) : Nat :=
  match v.ring with
  | none => 0
  | some r =>
    let l := lace s r
    ((List.range l.units).findSome? fun i =>
      (List.range v.total).find? fun p => v.indexAt p == l.unitAt v.member (v.next + i)).getD 0

/-- The context of a kernel's pass: a `KOPEN` with staging regions 0 and 1. DEDUCED (log 196). -/
def KeyPass.open (s : State) (c : Nat) (p : KeyPass) : Except Nat KeyCtx :=
  let mask := p.list.foldl (fun n i => n + 2 ^ i) 0
  let w := fun n => match n with
    | 1 => p.kind * 2 ^ 32 + p.galois
    | 2 => mask
    | 3 => (p.ring.getD 0) * 2 ^ 56 + (if p.ring.isSome then 2 ^ 48 else 0) + p.count * 2 ^ 8 + p.first
    | 4 => 2 ^ 8
    | _ => 0
  let d := { descOf [] with tag := p.tag, chain := p.chain, logn := p.logn, level := p.level }
  (openChecked s c 0 w d).map fun v => { v with start := v.firstPosition s }

/-- The present pass of core c opens its context; one that fails to open leaves the pass without one. -/
def openPass (s : State) (c : Nat) : State :=
  match (core s c).passes with
  | [] => s
  | p :: _ =>
    let s := onCore s c fun k => k.setKey 0 KeyCtx.init
    match p.open s c with
    | .ok v => onCore s c fun k => k.setKey 0 v
    | .error _ => s

/-- A chunk that a kernel has asked for arrives on core c (R370 to R373, R403): the kernel takes the chunks of its context in
turn, and goes to its next pass after the last chunk of one. DEDUCED (log 196). -/
def kernelChunk (s : State) (c : Nat) (ecc : Ecc) : State :=
  let v := (core s c).key 0
  if v.state ≠ 1 ∨ v.total ≤ v.arrived then s
  else match ringOffer s v with
  | none => s
  | some j =>
    let l := landChunk s c 0 (v.arrived % 2) j ecc
    let v' := { v.advance j with
      fetched := v.arrived + 1, staged := [⟨v.arrived % 2, v.arrived, l.checks == 0, 0, 0, l.header⟩] }
    let s := chunkVerdict (onCore l.s c fun k => k.setKey 0 v') c 0 v l.checks l.header
    if l.checks ≠ 0 then s
    else if l.status ≠ 0 then stopKey s c 0 l.status
    else if v'.arrived < v'.total ∨ (core s c).passes.length ≤ 1 then s
    else openPass (onCore s c fun k => { k with passes := k.passes.tail }) c

/-- A chunk arrives at a core that runs. -/
def keyChunk (s : State) (c i beats : Nat) (ecc : Ecc) : State :=
  if !(core s c).running then s else if (core s c).passes = [] then chunkArrives s c i beats ecc else kernelChunk s c ecc

def execKeyChunkArrival (c ctx beats : Nat) (ecc : Ecc) (s : State) : Res :=
  guarded (decide (c < 800)) s (arrival s (c / 25) (.chunk c (ctx % 2) beats ecc) fun s => keyChunk s c (ctx % 2) beats ecc)

/-- The tile operand of a `KTILE` is none that it may load. -/
def ktileBad (a : AIns) : Bool := if a.pool then a.eng != 0 else decide (16 ≤ a.tile)

/-- The lines of a `KTILE`'s 4 KiB take the PE's slots (R372): the core with its grants, and the beat at which the last has
moved. -/
def ktileSlots (k : Core) (c id src t a : Nat) : Core × Nat :=
  (List.range 64).foldl (fun (q : Core × Nat) i =>
    let r := q.1.take .pe false (src + 64 * i) a
    (r.1.book ⟨r.2, some id, false, src + 64 * i, Mem.tile c t (64 * i), none, 64, none, none⟩, max q.2 (r.2 + 4))) (k, 0)

/-- `KTILE` (R367, R372, R374). Of several failures the lowest code is returned (R18). -/
def ktile (s : State) (c : Nat) (a : AIns) : State :=
  let i := bits a.imm.toNat 0 0
  auIssue s c 0x22 true (auPushes a.queue) (fun k b => if ktileBad a then some b else loadReady a k b) fun s beat word =>
    let k := core s c
    let v := k.key i
    if ktileBad a then .bad (lowestCode (0x0105 :: v.refusal.toList))
    else match v.refusal with
    | some r => match loadCheck k beat a with
      | some f => .fault 0x0101 f
      | none => .bad r
    | none =>
      match v.staged.find? fun g => decide (g.taken < v.tiles) with
      | none => .wait
      | some g =>
        if !g.verdict then .wait
        else match loadTile k a with
        | none => .wait
        | some t =>
          if k.c2 ∧ 6 ≤ k.outstanding (tileEngine t) then .wait
          else match loadCheck k beat a with
          | some f => .fault 0x0101 f
          | none =>
            let x := { newXfer s c .ktile word beat 0 i a.queue t a.pool 4096 with cursor := g.position, done := 4096 }
            let b := ktileSlots k c x.id (v.stageKey c g.place + 4096 * g.taken) t beat
            let v' := { v with
              staged := v.staged.map fun y => if y.position = g.position then { y with taken := y.taken + 1 } else y }
            .go (onCore s c fun k =>
              let k := ({ k with grants := b.1.grants }.addXfer { x with ownEnd := b.2 }).setKey i v'
              if a.pool then { k with free := setBit k.free t false } else k) none

def execKtile (c : Nat) (a : AIns) (s : State) : Res := guarded (decide (c < 800)) s (ktile s c a)

/-- Some fetch of context i is in flight. -/
def Core.fetching (k : Core) (i : Nat) : Bool := k.xfers.any fun x => x.kind == .kfetch && x.dstContext == i

/-- `KCLOSE` (R367, R374). -/
def kclose (s : State) (c : Nat) (a : AIns) : State :=
  let i := bits a.imm.toNat 0 0
  auIssue s c 0x23 true noCodes anyBeat fun s _ _ =>
    let k := core s c
    if (k.key i).state = 0 then .bad 0x020B
    else if k.fetching i then .wait
    else .go (onCore s c fun k => k.setKey i KeyCtx.init) none

def execKclose (c : Nat) (a : AIns) (s : State) : Res := guarded (decide (c < 800)) s (kclose s c a)

/-- `KCHAIN` (R367). -/
def kchain (s : State) (c : Nat) (a : AIns) : State :=
  let id := bits a.imm.toNat 15 8
  auIssue s c 0x24 true noCodes anyBeat fun s beat word =>
    let codes := (if ctxUsable s c a.context then [] else [0x0105]) ++ if chainPrimes s id = 0 then [0x020B] else []
    if codes ≠ [] then .bad (lowestCode codes)
    else launch s c { newXfer s c .kchain word beat a.context 0 0 id false 4096 with cursor := 0, dstCursor := 0 } id'
where
  /-- A `KCHAIN` leaves cursors as they are (R464). -/
  id' (k : Core) : Core := k

def execKchain (c : Nat) (a : AIns) (s : State) : Res := guarded (decide (c < 800)) s (kchain s c a)

/-- `KSTAT` (R367). -/
def kstat (s : State) (c : Nat) (a : AIns) : State :=
  let i := bits a.imm.toNat 0 0
  auIssue s c 0x25 true (auPushes a.queue) (fun k b => pushBeat k a.queue b) fun s beat _ =>
    let v := (core s c).key i
    if v.state = 0 then .bad 0x020B
    else if v.arrived < v.fetched then .wait
    else .go (onCore s c fun k => k.pushEntry a.queue true 0 0 beat) none

def execKstat (c : Nat) (a : AIns) (s : State) : Res := guarded (decide (c < 800)) s (kstat s c a)

/-! ## `TRANSFER_DONE` (R475) -/

/-- A transfer other than a load completes. -/
def transferDone (s : State) (c id beats : Nat) : State :=
  match (core s c).xfer id with
  | none => s
  | some x =>
    if x.held.isSome ∨ x.remote ≠ 0 ∨ (core s c).running = false then s
    else match x.kind with
    | .stt => storeEnd s c x beats
    | .cpy => storeEnd s c x beats
    | .kchain => storeEnd s c x beats
    | .kopen => kopenEnd s c x beats
    | _ => s

def execTransferDone (c id beats : Nat) (s : State) : Res :=
  guarded (decide (c < 800)) s (arrival s (c / 25) (.moved c id beats) fun s => transferDone s c id beats)

end Sys2Proof.Machine
end

