-- ==== Sys2Proof/Machine/KeySets.lean ====
section
/-! DEFINITION. Registering and releasing moduli chains and key sets (R292 to R297, R336, R337, R350 to R357, R381, R382,
R407, R408). -/

namespace Sys2Proof.Machine

open Sys2Proof

/-! ## Chains (R292 to R297) -/

/-- The staged primes. -/
def stagedPrimes (s : State) : List Nat := (List.range (rd s E.prime_count)).map fun i => rd s (E.chain_stage_primes + i)

/-- Some value stands twice. -/
def hasTwice : List Nat → Bool
  | [] => false
  | a :: t => t.contains a || hasTwice t

/-- The first failing check of R293, or 2. -/
def chainCheck (s : State) : Nat :=
  let n := rd s E.log2_n_max
  let l := stagedPrimes s
  if chainPrimes s (rd s E.chain_id) ≠ 0 then 3
  else if !decide (1 ≤ rd s E.prime_count ∧ rd s E.prime_count ≤ 64 ∧ 10 ≤ n ∧ n ≤ 17) then 4
  else if l.any fun q => decide (2 ^ 61 ≤ q ∨ q % 2 = 0) then 5
  else if l.any fun q => !isPrime q then 6
  else if l.any fun q => q % 2 ^ (n + 1) != 1 then 7
  else if hasTwice l then 8
  else 2

/-- The least h from `h` upward for which h^((q − 1) / 2N), raised to N, is q − 1 (R297). -/
def leastRoot (q n : Nat) : Nat → Nat → Nat
  | 0, h => h
  | f + 1, h => if powMod q (powMod q h ((q - 1) / 2 ^ (n + 1))) (2 ^ n) = q - 1 then h else leastRoot q n f (h + 1)

/-- `psi` of a prime for N_max = 2^n (R297). -/
def chainPsi (q n : Nat) : Nat := powMod q (leastRoot q n q 2) ((q - 1) / 2 ^ (n + 1))

/-- Entry i of the record of chain c (R296); inverses modulo the prime q are powers q − 2. -/
def chainEntry (c n i q : Nat) : List Nat :=
  let b := bitLen q
  let psi := chainPsi q n
  [q, 2 ^ (2 * b) / q, psi, powMod q psi (q - 2), powMod q (2 ^ n) (q - 2), 0, 0,
    2 ^ 56 + c * 2 ^ 48 + i * 2 ^ 40 + n * 2 ^ 8 + b]

/-- The 4 KiB record of a chain (R296). -/
def chainRecordBytes (c n : Nat) (l : List Nat) : List Byte :=
  bytesOf ((List.range 64).flatMap fun i =>
    if i < l.length then chainEntry c n i (l.getD i 0) else List.replicate 8 0)

/-- The number of registered chains is reported. -/
def noteChains (s : State) : State :=
  wr s E.chains_registered ((List.range 256).filter fun c => chainPrimes s c != 0).length

/-- A chain is registered (R295, R337); a leader forwards it (R621). -/
def registerChain (s : State) : State :=
  let c := rd s E.chain_id
  let n := rd s E.log2_n_max
  let r := chainRecordBytes c n (stagedPrimes s)
  let s := hbmStore (forwardInput s 9 r) (chainRecord c) r
  noteChains (wr (wr (wr s (E.chain_prime_count + 256 * c) (rd s E.prime_count)) (E.chain_log2_n_max + 256 * c) n)
    (E.chain_digest + 256 * c) (leNat (sm3 r)))

/-- A chain's entries read as those of an unregistered one (R337). -/
def clearChain (s : State) (c : Nat) : State :=
  wr (wr (wr s (E.chain_prime_count + 256 * c) 0) (E.chain_log2_n_max + 256 * c) 0) (E.chain_digest + 256 * c) 0

/-- Chain `chain_id` is released, or not (R294). -/
def releaseChain (s : State) : State :=
  let c := rd s E.chain_id
  if chainPrimes s c = 0 ∨ s.keysets.any (·.chain == c) then wr s E.chain_status 10
  else wr (noteChains (clearChain s c)) E.chain_status 9

/-- `chain_commit` (R293, R294, R336). -/
def chainSem : EntrySem :=
  command (fun s v => rd s E.chain_status != 1 && (v == 1 || v == 2))
    (fun s _ v => if v = 1 then wr s E.chain_status 1 else releaseChain s)

/-- The staging entries (R336). -/
def chainStageSem (k : Nat) : EntrySem := limited k fun s _ => rd s E.chain_status != 1

def execChainCommit (via : Path) (s : State) : Res := done s (access s (writeOf via E.chain_commit 1) chainSem)
def execChainRelease (via : Path) (s : State) : Res := done s (access s (writeOf via E.chain_commit 2) chainSem)

/-- The check of the staged chain ends (R293). -/
def chainDone (s : State) : State :=
  if rd s E.chain_status ≠ 1 then s
  else
    let v := chainCheck s
    wr (if v = 2 then registerChain s else s) E.chain_status v

def execChainCommitDone (s : State) : Res := done s (chainDone s)

/-! ## The content of a key package (R350 to R354, R364, R365, R407, R408) -/

/-- The parameter block's header, from word list to fields; keys and base are filled later. -/
def keyHeader (p : Nat) (w : Nat → Nat) : KeySet :=
  { tag := 0, part := p, scheme := bits (w 0) 47 46, chain := bits (w 0) 40 33, logn := bits (w 0) 45 41
    special := bits (w 0) 32 26, alpha := bits (w 0) 25 19, costs := w 6, keys := [], base := 0, units := 0, digest := 0 }

/-- Key entry e of a block whose plaintext is given (R351). -/
def keyEntry (pt : List Byte) (e : Nat) : KeyInfo :=
  let w := recWord (pt.drop (64 + 128 * e))
  { kind := bits (w 0) 39 32, galois := bits (w 0) 31 0, digits := bits (w 0) 47 40
    seed := leNat ((pt.drop (64 + 128 * e + 8)).take 32), base := 0, chunks := 0 }

/-- Chunks of a key: D · P · C, or 256 a digit of the blind-rotation key (R364, R408). -/
def keyChunks (v : KeySet) (primes : Nat) (k : KeyInfo) : Nat :=
  if k.blind then 256 * k.digits else k.digits * primes * chunksOf v.logn

/-- Payload bytes of a key's chunks (R364, R408). -/
def keyPayload (v : KeySet) (k : KeyInfo) : Nat := if k.blind then 65536 else payloadOf v.logn

/-- The digit counts N_b · C_e / 256 of a blind-rotation key, over the N_b and ℓ_b that R406 allows (R408). -/
def blindDigits : List Nat :=
  [10, 11, 12].flatMap fun b => ((List.range 8).map fun i => (i + 1) * 2 ^ b).filterMap fun r =>
    if r % 4096 = 0 then some (2 ^ b * (r / 4096) / 256) else none

/-- A key entry is valid (R351, R408): its kind, its element and its digit count. -/
def keyEntryOk (v : KeySet) (primes : Nat) (k : KeyInfo) : Bool :=
  match k.kind with
  | 0 => k.galois % 2 == 1 && decide (k.galois < 2 ^ (v.logn + 1)) && k.digits == (primes - v.special + v.alpha - 1) / v.alpha
  | 1 => k.galois == 0 && k.digits == (primes - v.special + v.alpha - 1) / v.alpha
  | 2 => if k.galois = 0 then blindDigits.contains k.digits else k.digits == (primes - v.special + v.alpha - 1) / v.alpha
  | _ => false

/-- Two entries share (`kind`, `galois`). -/
def sharedKey : List KeyInfo → Bool
  | [] => false
  | k :: t => t.any (fun e => e.kind == k.kind && e.galois == k.galois) || sharedKey t

/-- Chunk z of a key has the header that R365 and R408 give. The prime of the blind-rotation key's chunks is that of its
first chunk, a prime of the chain. -/
def chunkHeaderOk (v : KeySet) (primes first : Nat) (k : KeyInfo) (z : Nat) (h : List Byte) : Bool :=
  let w := recWord h
  let c := if k.blind then 256 else chunksOf v.logn
  let i := if k.blind then first else z / c % primes
  let d := if k.blind then z / 256 else z / c / primes
  let j := z % c
  w 0 == v.tag && bits (w 1) 63 56 == j && bits (w 1) 55 48 == i && bits (w 1) 47 40 == d && bits (w 1) 39 32 == k.kind &&
    bits (w 1) 31 0 == k.galois && bits (w 2) 63 32 == keyPayload v k && bits (w 2) 31 0 == (d * primes + i) * c + j &&
    bits (w 3) 15 8 == v.chain && bits (w 3) 7 0 == v.logn && decide (i < primes)

/-- Chunk z of a key, in the bytes that start at the key's first chunk. -/
def chunkAt (n : Nat) (b : List Byte) (z : Nat) : List Byte := (b.drop (z * (64 + n))).take (64 + n)

/-- Every chunk of a key is right: its header, its CRC, and the digest of all payloads (R353 status 7). -/
def keyChunksOk (v : KeySet) (primes : Nat) (k : KeyInfo) (digest : List Byte) (b : List Byte) : Bool :=
  let n := keyPayload v k
  let m := keyChunks v primes k
  let first := bits (recWord b 1) 55 48
  let cs := (List.range m).map (chunkAt n b)
  (List.range m).all (fun z =>
    let c := chunkAt n b z
    c.length == 64 + n && chunkHeaderOk v primes first k z c &&
      recWord c 7 / 2 ^ 32 == crc32c (c.take 60 ++ c.drop 64)) &&
  sm3 (cs.flatMap fun c => c.drop 64) == digest

/-- The bytes of all chunks of a key. -/
def keyBytes (v : KeySet) (primes : Nat) (k : KeyInfo) : Nat := keyChunks v primes k * (64 + keyPayload v k)

/-- The offset of each key's first chunk in the plaintext, from `o` on. -/
def keyOffsets (v : KeySet) (primes : Nat) : List KeyInfo → Nat → List Nat
  | [], _ => []
  | k :: t, o => o :: keyOffsets v primes t (o + keyBytes v primes k)

/-! ## The key store (R353, R357) -/

/-- The store's first 64 KiB unit for key sets, and the unit past its end. -/
def storeFirst : Nat := 0x10200000 / 65536
def storeLast (s : State) : Nat := keyStoreEnd (rd s E.key_store_gib) / 65536

/-- Units u to u + n − 1 lie in no key set. -/
def unitsFree (s : State) (u n : Nat) : Bool :=
  s.keysets.all fun k => decide (u + n ≤ k.base ∨ k.base + k.units ≤ u)

/-- The lowest place for n units: the store's start, or the end of some key set.
DESIGN CHOICE (log 62): R357 leaves the placement to the management processor. -/
def placeUnits (s : State) (n : Nat) : Option Nat :=
  let cand := storeFirst :: s.keysets.map fun k => k.base + k.units
  (cand.filter fun u => unitsFree s u n && decide (u + n ≤ storeLast s)).min?

/-- The entries that count key sets (R380). -/
def noteKeySets (s : State) : State :=
  wr (wr s E.keysets_registered s.keysets.length) E.key_store_used_bytes
    (2097152 + 65536 * (s.keysets.map KeySet.units).sum)

/-- The partition whose HBM share holds the first byte of a package (R356). -/
def sharePart (s : State) (a : Nat) : Option Nat := (List.range 32).find? fun p => inShare s p a 1

/-! ## Registration (R353) -/

/-- The checks of R353 on a package's plaintext in partition p, and the key set: the status, and the set when it may be
registered. -/
def checkKeySet (s : State) (p : Nat) (pt : List Byte) : Nat × Option KeySet :=
  let w := recWord pt
  let v := keyHeader p w
  let nk := bits (w 1) 15 0
  let primes := chainPrimes s v.chain
  let known := primes != 0
  let keys := (List.range nk).map (keyEntry pt)
  let block := pt.take (64 + 128 * nk)
  let dig := sm3 block
  let v := { v with tag := leNat (dig.take 8), digest := leNat dig, keys := keys }
  let offs := keyOffsets v primes keys (64 + 128 * nk)
  let total := 64 + 128 * nk + (keys.map (keyBytes v primes)).sum
  if bits (w 0) 63 48 ≠ 0x4B53 ∨ v.scheme = 3 ∨ !decide (1 ≤ v.alpha ∧ v.alpha ≤ 64 ∧ 1 ≤ nk ∧ nk ≤ 1024 ∧ 10 ≤ v.logn) ∨
      (known && decide (chainLogn s v.chain < v.logn ∨ primes ≤ v.special)) ∨ block.length ≠ 64 + 128 * nk then (4, none)
  else if !known ∨ leNat ((pt.drop 16).take 32) ≠ rd s (E.chain_digest + 256 * v.chain) then (5, none)
  else if !keys.all (keyEntryOk v primes) ∨ sharedKey keys then (6, none)
  else if pt.length ≠ total ∨ !(List.range nk).all (fun e =>
      keyChunksOk v primes (keys.getD e ⟨0, 0, 0, 0, 0, 0⟩) ((pt.drop (64 + 128 * e + 40)).take 32) (pt.drop (offs.getD e 0))) then
    (7, none)
  else if s.keysets.any (·.tag == v.tag) then (8, none)
  else
    let n := (total + 65535) / 65536
    match placeUnits s n with
    | none => (9, none)
    | some u =>
      if 4096 ≤ s.keysets.length then (9, none)
      else (2, some { v with
        base := u, units := n
        keys := List.zipWith (fun k o => { k with base := 65536 * u + o, chunks := keyChunks v primes k }) keys offs })

/-- The registration of the package that `keyset_package_addr` names; a leader forwards it (R621). -/
def registerKeySet (s : State) : State :=
  let a := rd s E.keyset_package_addr
  match sharePart s a with
  | none => wr s E.keyset_status 3
  | some p =>
    let r := openPackage s p 1 a
    match (if r.2.1 = 0 then pkgPlain s a r.2.2 else none) with
    | none => wr r.1 E.keyset_status 3
    | some pt =>
      let c := checkKeySet r.1 p pt
      match c.2 with
      | none => wr r.1 E.keyset_status c.1
      | some v =>
        let s := hbmStore (forwardInput r.1 9 pt) (65536 * v.base) pt
        wr (wr (noteKeySets { s with keysets := s.keysets ++ [v] }) E.keyset_tag v.tag) E.keyset_status 2

/-- Key contexts that hold a tag open, over all cores (R355, R382). -/
def openContexts (s : State) (tag : Nat) : Nat :=
  (s.cores.flatMap fun e => [e.2.key 0, e.2.key 1]).filter (fun v => v.state != 0 && v.tag == tag) |>.length

/-- Key sets leave the store, and their space is zeroed (R189, R355, R759 step 5). -/
def removeKeySets (s : State) (f : KeySet → Bool) : State :=
  let s := (s.keysets.filter f).foldl (fun t k => zeroFill t (65536 * k.base) (65536 * (k.base + k.units))) s
  noteKeySets { s with keysets := s.keysets.filter fun k => !f k }

/-- The key set named by `keyset_tag` is released, or not (R355). -/
def releaseKeySet (s : State) : State :=
  let t := rd s E.keyset_tag
  if !s.keysets.any (·.tag == t) ∨ openContexts s t ≠ 0 then wr s E.keyset_status 11
  else wr (removeKeySets s (·.tag == t)) E.keyset_status 10

/-- `keyset_cmd` (R353, R355, R381). -/
def keysetSem : EntrySem :=
  command (fun s v => rd s E.keyset_status != 1 && (v == 1 || v == 2))
    (fun s _ v => if v = 1 then wr s E.keyset_status 1 else releaseKeySet s)

/-- The other entries of `keyset_reg` (R381). -/
def keysetEntrySem (k : Nat) : EntrySem := limited k fun s _ => rd s E.keyset_status != 1

def execKeysetRegister (via : Path) (s : State) : Res := done s (access s (writeOf via E.keyset_cmd 1) keysetSem)
def execKeysetRelease (via : Path) (s : State) : Res := done s (access s (writeOf via E.keyset_cmd 2) keysetSem)

/-- The registration ends (R354). -/
def keysetDone (s : State) : State := if rd s E.keyset_status = 1 then registerKeySet s else s

def execKeysetRegisterDone (s : State) : Res := done s (keysetDone s)

/-- `query_tag` (R382): the other entries follow. -/
def queryKeySet (s : State) (t : Nat) : State :=
  let s := wr s E.query_tag t
  match s.keysets.find? (·.tag == t) with
  | none =>
    [E.query_found, E.query_chain, E.query_log2_n, E.query_keys, E.query_digest, E.query_open_contexts, E.query_partition].foldl
      (fun u k => wr u k 0) s
  | some v =>
    let s := wr (wr (wr (wr s E.query_found 1) E.query_chain v.chain) E.query_log2_n v.logn) E.query_keys v.keys.length
    wr (wr (wr s E.query_digest v.digest) E.query_open_contexts (openContexts s t)) E.query_partition v.part

def querySem : EntrySem := { plain E.query_tag with eff := fun s _ v => queryKeySet s v }

def execKeysetQuery (via : Path) (d : List Byte) (s : State) : Res := done s (access s (writeBytes via E.query_tag d) querySem)

/-- The key sets of partition p are released (R759 step 5). -/
def dropKeySets (s : State) (p : Nat) : State := removeKeySets s (·.part == p)

/-- Every chain and key set is released (R793). -/
def dropAllKeys (s : State) : State :=
  noteChains ((List.range 256).foldl clearChain (noteKeySets { s with keysets := [] }))

end Sys2Proof.Machine
end

