-- ==== Sys2Proof/Machine/RingCtl.lean ====
section
/-! DEFINITION. Enabling and disabling rings, the ring window, and starting and stopping programs (R648, R668 to R690). -/

namespace Sys2Proof.Machine

open Sys2Proof

/-! ## Placement (R681, R688) -/

/-- An area of the ring region: its offset and its bytes. -/
abbrev Area := Nat × Nat

/-- The areas of ring k of sector x: slots, and completion entries. -/
def ringAreas (s : State) (x k : Nat) : List Area :=
  [(rd s (E.ring_slot_offset + ringAt x k), 128 * rd s (E.ring_slots + ringAt x k)),
   (rd s (E.ring_comp_offset + ringAt x k), 64 * rd s (E.ring_comp_slots + ringAt x k))]

/-- The area of the event ring of partition p. -/
def eventArea (s : State) (p : Nat) : Area := (rd s (E.ev_offset + 256 * p), 64 * rd s (E.ev_slots + 256 * p))

/-- A count is a power of two from 8 to 1,024. -/
def slotCount (n : Nat) : Bool := decide (8 ≤ n ∧ n ≤ 1024) && 2 ^ Nat.log2 n == n

/-- Two areas share a byte. -/
def areasMeet (a b : Area) : Bool := decide (a.1 < b.1 + b.2 ∧ b.1 < a.1 + a.2)

/-- The area lies in the part of the region that configuration places. -/
def areaInside (a : Area) : Bool := decide (0x1000 ≤ a.1 ∧ a.1 + a.2 ≤ 0x40000)

/-- The areas of sector x in use by enabled rings other than `ring`, and by enabled event rings other than `ev`. A draining
ring still uses its areas. DEDUCED (log 140). -/
def usedAreas (s : State) (x : Nat) (ring ev : Option Nat) : List Area :=
  ((List.range 8).filter fun k => some k != ring && ringStatus s x k != 0).flatMap (ringAreas s x) ++
  ((List.range 32).filter fun p => some p != ev && rd s (E.ev_enable + 256 * p) == 1 && rd s (E.ev_sector + 256 * p) == x).map (eventArea s)

/-- The areas are placed as R681 asks. -/
def placed (s : State) (x : Nat) (ring ev : Option Nat) (l : List Area) : Bool :=
  l.all fun a => areaInside a && (usedAreas s x ring ev).all fun b => !areasMeet a b

/-- Ring k of sector x may be enabled (R681). -/
def ringPlaced (s : State) (x k : Nat) : Bool :=
  slotCount (rd s (E.ring_slots + ringAt x k)) && slotCount (rd s (E.ring_comp_slots + ringAt x k)) &&
    rd s (E.ring_slot_offset + ringAt x k) % 128 == 0 && rd s (E.ring_comp_offset + ringAt x k) % 64 == 0 &&
    placed s x (some k) none (ringAreas s x k)

/-! ## Command rings (R682, R683) -/

/-- Zeros over an area of sector x's ring region. -/
def zeroArea (s : State) (x : Nat) (a : Area) : State := zeroFill s (ringKey x a.1) (ringKey x (a.1 + a.2))

/-- An enable acts (R682). -/
def ringStart (s : State) (x k : Nat) : State :=
  let s := (ringAreas s x k).foldl (fun t a => zeroArea t x a) s
  wr (wrBytes s (ringKey x (ringBlock k)) (List.replicate 12 0)) (E.ring_status + ringAt x k) 1

/-- A disable stops the taking of slots (R683). -/
def ringStop (s : State) (x k : Nat) : State :=
  if ringStatus s x k = 1 then wr s (E.ring_status + ringAt x k) 2 else s

/-- `ring_enable`. A write of true to a ring that is enabled leaves it as it is. DEDUCED (log 141). -/
def ringEnableSem (x k : Nat) : EntrySem :=
  { limited (E.ring_enable + ringAt x k) (fun s v => v == 0 || ringStatus s x k == 1 || ringPlaced s x k) with
    eff := fun s _ v =>
      let t := wr s (E.ring_enable + ringAt x k) v
      if v = 0 then ringStop t x k else if ringStatus t x k = 1 then t else ringStart t x k }

/-- The other entries of the ring's REC: the ring is idle while `ring_status` is 0 (R680). -/
def ringEntrySem (x k key : Nat) : EntrySem := { plain key with idle := fun s => ringStatus s x k == 0 }

def execRingEnable (via : Path) (x k : Nat) (s : State) : Res :=
  instanced (decide (x < 32 ∧ k < 8)) s via E.ring_enable (access s (writeOf via (E.ring_enable + ringAt x k) 1) (ringEnableSem x k))
def execRingDisable (via : Path) (x k : Nat) (s : State) : Res :=
  instanced (decide (x < 32 ∧ k < 8)) s via E.ring_enable (access s (writeOf via (E.ring_enable + ringAt x k) 0) (ringEnableSem x k))

/-- A draining ring whose commands have posted their completions reads 0 (R683). -/
def ringDrained (s : State) (x k : Nat) : State :=
  let r := ringOf s x k
  if ringStatus s x k = 2 ∧ r.queue.isEmpty ∧ r.held.isEmpty then wr s (E.ring_status + ringAt x k) 0 else s

def execRingDrained (x k : Nat) (s : State) : Res := guarded (decide (x < 32 ∧ k < 8)) s (ringDrained s x k)

/-- After a reset, a ring whose `ring_enable` survived is enabled again, with nothing taken and nothing held (R793, R794). -/
def ringReenable (s : State) (x k : Nat) : State :=
  let s := setRing s x k Ring.init
  if rd s (E.ring_enable + ringAt x k) = 1 then ringStart s x k else wr s (E.ring_status + ringAt x k) 0

/-! ## Event rings (R688) -/

/-- The event ring of partition p may be enabled. -/
def eventPlaced (s : State) (p : Nat) : Bool :=
  let x := rd s (E.ev_sector + 256 * p)
  decide (x < 32) && ownerOf s x == some p && slotCount (rd s (E.ev_slots + 256 * p)) && rd s (E.ev_offset + 256 * p) % 64 == 0 &&
    placed s x none (some p) [eventArea s p]

/-- The event ring starts empty, as a command ring does (R682). DEDUCED (log 142). -/
def eventStart (s : State) (p : Nat) : State :=
  let x := rd s (E.ev_sector + 256 * p)
  wrBytes (zeroArea s x (eventArea s p)) (ringKey x 0x400) (List.replicate 12 0)

def eventEnableSem (p : Nat) : EntrySem :=
  { limited (E.ev_enable + 256 * p) (fun s v => v == 0 || rd s (E.ev_enable + 256 * p) == 1 || eventPlaced s p) with
    eff := fun s _ v =>
      let was := rd s (E.ev_enable + 256 * p)
      let t := wr s (E.ev_enable + 256 * p) v
      if v = 1 ∧ was = 0 then eventStart t p else t }

def eventEntrySem (p key : Nat) : EntrySem := { plain key with idle := fun s => rd s (E.ev_enable + 256 * p) == 0 }

/-! ## The ring window (R647, R648, R665) -/

/-- Sector and region offset of an offset of the ring window. -/
def windowSector (o : Nat) : Nat := o / 0x40000
def windowRegion (o : Nat) : Nat := o % 0x40000

/-- Bytes written to the ring window at an offset. -/
def windowStore (s : State) (o : Nat) (d : List Byte) : State := wrBytes s (ringKey (windowSector o) (windowRegion o)) d

/-- A ring-window write to a sector that sleeps wakes it and waits, as an access to it does (R665, R710). It waits with the
dictionary accesses, under an index above every dictionary index. -/
def ringWindowWrite (s : State) (o : Nat) (d : List Byte) : State :=
  let x := windowSector o
  let s := workReaches (workReaches s (0x100 + x)) (0x200 + x)
  if domainOn s x then windowStore s o d
  else stall (wakeDomain s x) ⟨.bar0, 0, true, 0x10000 + o, 0, d.length, d, 0⟩ x

def execRingWindowWrite (o : Nat) (d : List Byte) (s : State) : Res :=
  guarded (decide (o < 0x800000 ∧ windowRegion o + d.length ≤ 0x40000)) s (ringWindowWrite s o d)

/-! ## `PSTART` and `PSTOP` (R685 to R687, R758, R842, R843) -/

/-- Noise keys can be given now: no health test fails (R758), and a follower holds the keys its leader drew (R623). -/
def keysReady (s : State) (cs : List Nat) : Bool :=
  !s.island.trngFailing && rd s E.trng_state != 2 &&
    (rd s E.twin_role != 2 || cs.all fun c => (Tab.get none s.twin.noise c).isSome)

/-- Partition p keeps provenance records for a command whose completion address is given, and the range it will write is
accessible (R393, R842): whether it keeps one, and the code. -/
def provPlan (s : State) (x p : Nat) (t : Taken) : Bool × Nat :=
  let m := rd s (E.prov_mode + p)
  if (m = 1 ∨ m = 2) ∧ t.completion ≠ 0 then
    (true, if (vaRange s p (.unit x) .write (t.completion + 32) 64).1 ≠ 0 then 0x0302 else 0)
  else (false, 0)

/-- The record's image, read for `LDPM`'s permission: the code, and the bytes (R150, R470, R686). -/
def imageRead (s : State) (x p va n : Nat) : Nat × List Byte :=
  let r := vaRange s p (.unit x) .code va n
  if r.1 ≠ 0 then (r.1, [])
  else if r.2.any (fun e => isOutbound e.1) then (0x0302, [])
  else
    let c := lowestCode (r.2.map (pieceStatus s))
    if c ≠ 0 then (c, []) else (0, r.2.flatMap fun e => rdBytes s e.1 e.2.2)

/-- A `PSTART` loads its image and starts its cores. -/
def pstart (s : State) (x k : Nat) (t : Taken) : State :=
  let p := ringPart s x
  let cs := t.cores x
  let image := bits (t.word 1) 47 0
  let n := bits (t.word 2) 17 0
  let pv := provPlan s x p t
  if cs.any (fun c => (core s c).running) then s
  else if !t.checks ∨ cs.isEmpty ∨ (image ≠ 0 ∧ !(n % 8 == 0 && decide (8 ≤ n ∧ n ≤ 131072))) then finishPlain s x k t 0x0105
  else
    let im := if image = 0 then (0, []) else imageRead s x p image n
    if im.1 ≠ 0 ∨ pv.2 ≠ 0 then finishPlain s x k t (lowestCode [im.1, pv.2])
    else if !keysReady s cs then s
    else
      let s := if image = 0 then s else cs.foldl (fun u c =>
        let u := (pmWrite u c (core u c).front 0 im.2).1
        setCore u c { core u c with kernel := none }) s
      let low := cs.headD 0
      let img := if image = 0 then rdBytes s (Mem.prog low (core s low).front 0) 131072 else im.2
      let prov := entryBytes s E.running_digest ++ sm3 img ++ t.record.take 8 ++ (t.record.drop 40).take 8 ++ List.replicate 8 0
      let s := setTaken s x k t { t with
        started := true, startTime := now s, startStep := rd s E.step_counter, loaded := image != 0
        nd := rd s (E.nd_count + p), prov := if pv.1 then some prov else none }
      cs.foldl (fun u c => startCore u c (bits (t.word 3) 14 0)) s

def execPstart (x k : Nat) (s : State) : Res :=
  guarded (decide (x < 32 ∧ k < 8)) s (match nextOp s x k 0x60 with | some t => pstart s x k t | none => s)

/-- The started command of sector x that runs core c gets the status of what stops it. -/
def abortStarter (s : State) (x c st : Nat) : State :=
  (List.range 8).foldl (fun u k =>
    setRing u x k { ringOf u x k with queue := (ringOf u x k).queue.map fun t =>
      if t.started && (t.op == 0x60 || isHe t.op) && (t.cores x).contains c && t.abort == 0 then { t with abort := st } else t }) s

/-- A `PSTOP` stops the cores it names. -/
def pstop (s : State) (x k : Nat) (t : Taken) : State :=
  if !t.checks then finishPlain s x k t 0x0105
  else
    let run := (t.cores x).filter fun c => (core s c).running
    let s := run.foldl (fun u c => abortStarter u x c 0x0504) s
    let s := setTaken s x k t { t with started := true, startTime := now s, startStep := rd s E.step_counter }
    let s := run.foldl (fun u c => stopCore u c 0x0504) s
    settleStarts s x

def execPstop (x k : Nat) (s : State) : Res :=
  guarded (decide (x < 32 ∧ k < 8)) s (match nextOp s x k 0x61 with | some t => pstop s x k t | none => s)

end Sys2Proof.Machine
end

