-- ==== Sys2Proof/Machine/Windows.lean ====
section
/-! DEFINITION. Windows (R576 to R586), the credits and landing ranges behind them (R164 to R169, R581), and the window records of
the command rings (R582, R588). -/

namespace Sys2Proof.Machine

open Sys2Proof

/-! ## Contexts (R576, R578) -/

/-- Word i of the context of window w. -/
def winWord (s : State) (w i : Nat) : Nat := rdNat s (Mem.hbm (64 * w + 8 * i)) 8
def setWinWord (s : State) (w i v : Nat) : State := wrNat s (Mem.hbm (64 * w + 8 * i)) 8 v

def winState (s : State) (w : Nat) : Nat := bits (winWord s w 0) 63 62
def winTarget (s : State) (w : Nat) : Nat := bits (winWord s w 0) 56 55
def winEpoch (s : State) (w : Nat) : Nat := bits (winWord s w 0) 15 0
def winSector (s : State) (w : Nat) : Nat := bits (winWord s w 0) 43 39
def winBase (s : State) (w : Nat) : Nat := bits (winWord s w 2) 47 0
def winLength (s : State) (w : Nat) : Nat := bits (winWord s w 3) 35 0
def winFrontier (s : State) (w : Nat) : Nat := bits (winWord s w 5) 27 0

/-- What the target keeps besides the context. -/
def win (s : State) (w : Nat) : Win := Tab.get Win.init s.windows w
def setWin (s : State) (w : Nat) (v : Win) : State := { s with windows := Tab.set Win.init s.windows w v }

/-- The window's state changes (R578, R583): `windows_open` counts those that are OPEN. -/
def setWinState (s : State) (w st : Nat) : State :=
  let n := rd s E.windows_open
  let n := if winState s w = 1 ∧ st ≠ 1 then n - 1 else if winState s w ≠ 1 ∧ st = 1 then n + 1 else n
  setWinWord (setWinWord (wr s E.windows_open n) w 0 (setBits (winWord s w 0) 63 62 st)) w 7 (now s)

/-! ## Blocks (R579 to R581) -/

/-- The numbers of the set bits of v below n, ascending. -/
def setBitsOf (n v : Nat) : List Nat := (List.range n).filter (bit v)

/-- The bytes of a block: 64 KiB of core memory, 256 KiB of commons. -/
def blockSize (target : Nat) : Nat := if target = 1 then 262144 else 65536

/-- The cores that context words name, as active positions. -/
def namedCores (w1 w2 : Nat) : List Nat := setBitsOf 24 (bits w1 23 0) ++ if bit w2 63 then [24] else []

/-- The landing range of each block of a window with these words, in order: target of R134 and index. -/
def blocksOf (l : List Nat) : List (Nat × Nat) :=
  let w1 := l.getD 1 0
  let w2 := l.getD 2 0
  let t := bits (l.getD 0 0) 56 55
  if t = 0 then (namedCores w1 w2).flatMap fun c => (setBitsOf 24 (bits w1 47 24)).map fun r => (c, r)
  else if t = 1 then (List.range (bits (l.getD 3 0) 35 0 / 262144)).map fun k => (31, bits w2 47 0 / 262144 + k)
  else []

/-- The eight words of a window's context. -/
def winWords (s : State) (w : Nat) : List Nat := (List.range 8).map (winWord s w)

/-- The key of offset o of a window. -/
def winKey (s : State) (w o : Nat) : Nat :=
  let t := winTarget s w
  if t = 2 then Mem.hbm (winBase s w + o)
  else if t = 1 then Mem.commons (winSector s w) (winBase s w + o)
  else
    let b := (blocksOf (winWords s w)).getD (o / 65536) (0, 0)
    Mem.onchip (winSector s w) b.1 (65536 * b.2 + o % 65536)

/-- The block that holds offset o is open. -/
def blockOpen (s : State) (w o : Nat) : Bool :=
  let b := (blocksOf (winWords s w)).getD (o / blockSize (winTarget s w)) (0, 0)
  (win s w).blocks.any (·.1 == 64 * b.1 + b.2)

/-- `landing_ranges_open` follows the sector's list. -/
def setLanding (s : State) (x : Nat) (l : List Landing) : State :=
  wr (setSector s x { sector s x with landing := l }) (E.landing_ranges_open + x) l.length

/-- A block may become a landing range: in no shadow pool, outside the ring region, and open for no window yet (R164, R509,
R671). The last is the model's reading: a range opens once. DEDUCED (log 120). -/
def rangeFree (s : State) (x : Nat) (b : Nat × Nat) : Bool :=
  let k := Mem.onchip x b.1 (b.2 * if b.1 = 31 then 262144 else 65536)
  !(inPool s k || (b.1 == 31 && decide (27 ≤ b.2 ∧ b.2 < 28)) || (landingAt s k).isSome)

/-- Block n of a window opens, with the frontier at its end at least (R581). -/
def openBlock (s : State) (w n : Nat) : State :=
  match (blocksOf (winWords s w))[n]? with
  | none => s
  | some b =>
    let x := winSector s w
    let s := setLanding s x ((sector s x).landing ++ [⟨b.1, b.2, w, 0, false⟩])
    let s := setWin s w { win s w with blocks := (win s w).blocks ++ [(64 * b.1 + b.2, 0)] }
    setWinWord s w 5 (max (winFrontier s w) ((n + 1) * blockSize (winTarget s w) / 256))

/-! ## Credits (R165, R166, R578, R585) -/

/-- Credits of the window held by writes that landed in shadow (R166). -/
def winShadowed (s : State) (w : Nat) : Nat :=
  (((sector s (winSector s w)).landing.filter (·.window == w)).map Landing.shadowed).sum

/-- Credits granted and neither consumed nor surrendered. -/
def creditLeft (s : State) (w : Nat) : Nat :=
  (bits (winWord s w 4) 63 32 + 2 ^ 32 - ((win s w).consumed + (win s w).surrendered) % 2 ^ 32) % 2 ^ 32

/-- The `granted_total` that a CREDIT carries. An HBM window has no credits: its CREDIT grants the most units that the field can
hold beyond those that have come. DESIGN CHOICE (log 121). -/
def creditTotal (s : State) (w : Nat) : Nat :=
  if winTarget s w = 2 then ((win s w).consumed + 2 ^ 32 - 1) % 2 ^ 32 else bits (winWord s w 4) 63 32

/-- The CREDIT of a window to a flow of a node (R593, R594). -/
def creditMsg (s : State) (w node flow tseq : Nat) : Msg :=
  { dst := node, src := rd s E.node_id, flow := flow, tseq := tseq, ordered := false, window := w, epoch := winEpoch s w
    offset := 0, group := 0, inGroup := false, arg := 0
    payload := leBytes 4 (creditTotal s w) ++ leBytes 4 (winFrontier s w) ++ List.replicate 8 0 }

/-- The latest CREDIT goes to every flow that has connected, unsolicited. -/
def sendCredits (s : State) (w : Nat) : State :=
  if (winPartition s w).any (scrubbing s) then s
  else (win s w).flows.foldl (fun t f => sendMsg t 0x12 (creditMsg t w f.1 f.2 0)) s

/-- The target of an OPEN window grants as far as `credit_max` lets it. The moment is the model's choice; R578 states only the
limit. DESIGN CHOICE (log 122). -/
def regrantWindow (s : State) (w : Nat) : State :=
  if winState s w ≠ 1 ∨ winTarget s w = 2 then s
  else
    let g := ((win s w).consumed - winShadowed s w + bits (winWord s w 4) 31 0) % 2 ^ 32
    if g = bits (winWord s w 4) 63 32 then s
    else
      let d := (g + 2 ^ 32 - bits (winWord s w 4) 63 32) % 2 ^ 32
      if 2 ^ 31 ≤ d then s
      else countSec (sendCredits (setWinWord s w 4 (setBits (winWord s w 4) 63 32 g)) w) (winSector s w) 0x104 d

/-- Every unit of an open block has been written, and its credits have returned (R581). -/
def blockDone (s : State) (w : Nat) (b : Nat × Nat) : Bool :=
  b.2 == 2 ^ (blockSize (winTarget s w) / 256) - 1 &&
    !(sector s (winSector s w)).landing.any fun r => 64 * r.target + r.idx == b.1 && r.shadowed != 0

/-- A rolling window's finished blocks close, and the next ones open (R581). -/
def rollWindow : Nat → State → Nat → State
  | 0, s, _ => s
  | f + 1, s, w =>
    if winState s w ≠ 1 ∨ winTarget s w = 2 ∨ !bit (winWord s w 0) 50 then s
    else match (win s w).blocks.find? (blockDone s w) with
    | none => s
    | some b =>
      let x := winSector s w
      let s := setLanding s x ((sector s x).landing.filter fun r => !(r.window == w && 64 * r.target + r.idx == b.1))
      let s := setWin s w { win s w with blocks := (win s w).blocks.filter (·.1 != b.1) }
      let n := winFrontier s w * 256 / blockSize (winTarget s w)
      let s := match (blocksOf (winWords s w))[n]? with
        | some c => if rangeFree s x c then openBlock s w n else s
        | none => s
      rollWindow f s w

/-- After a write has landed, or credits have returned: new credit, and the blocks that roll on. -/
def creditsMove (s : State) (w : Nat) : State :=
  sendIf (rollWindow (1 + (blocksOf (winWords s w)).length) (regrantWindow s w) w) (winFrontier s w)
where
  sendIf (t : State) (f : Nat) : State := if winFrontier t w = f then t else sendCredits t w

/-! ## Closing (R583, R585, R169) -/

/-- A window leaves CLOSING, or is made QUIET by a reset: its landing ranges close, their credits revoked. -/
def quietWindow (s : State) (w : Nat) : State :=
  let x := winSector s w
  let s := if winTarget s w = 2 then s else setLanding s x ((sector s x).landing.filter (·.window != w))
  setWin (setWinState s w 3) w { win s w with blocks := [], flows := [] }

/-- R585 is met. -/
def mayQuiet (s : State) (w : Nat) : Bool :=
  winTarget s w == 2 || ((creditLeft s w == 0 || (win s w).late) && winShadowed s w == 0)

/-- A CLOSING window whose credits are settled, or 10 ms after its REVOKE, becomes QUIET. -/
def closingEnd (s : State) (w : Nat) (tenMs : Bool) : State :=
  if winState s w ≠ 2 then s
  else
    let s := if tenMs then setWin s w { win s w with late := true } else s
    if mayQuiet s w then quietWindow s w else s

def execClosingEnd (w : Nat) (tenMs : Bool) (s : State) : Res := guarded (decide (w < 1048576)) s (closingEnd s w tenMs)

/-- `window_quiet_ms` after QUIET (R583). -/
def execWindowQuietExpiry (w : Nat) (s : State) : Res :=
  guarded (decide (w < 1048576)) s (if winState s w = 3 then setWinState s w 0 else s)

/-- The hold-off of R586 ends. -/
def execWindowHoldoffEnd (s : State) : Res := done s { s with transport := { s.transport with holdoff := false } }

/-- The latest CREDIT is repeated while the window is OPEN (R593). -/
def execCreditRepeatTimer (w : Nat) (s : State) : Res :=
  guarded (decide (w < 1048576)) s (if winState s w = 1 then sendCredits s w else s)

/-- A range of a sector whose window rolls, or closes, closes once its credits are back (R169, R581, R585). -/
def landingRangeClose (s : State) (x r : Nat) : State :=
  match (sector s x).landing[r]? with
  | none => s
  | some l => if winState s l.window = 2 then closingEnd s l.window false else creditsMove s l.window

def execLandingRangeClose (x r : Nat) (s : State) : Res := guarded (decide (x < 32)) s (landingRangeClose s x r)

/-! ## Window records (R582, R584, R585, R588) -/

/-- The `id` of a window record. -/
def Taken.id (t : Taken) : Nat := bits (t.word 0) 51 32

/-- The lowest of the codes that apply, 0 for none (R18). -/
def lowestOf (l : List Nat) : Nat := l.foldl (fun m c => if c = 0 then m else if m = 0 then c else min m c) 0

/-- The ranges of an image open at once. -/
def openAtOnce (l : List Nat) : Nat :=
  let n := (blocksOf l).length
  if bit (l.getD 0 0) 50 then min n (bits (l.getD 0 0) 49 44 + 1) else n

/-- An image breaks R577, R579 or R580, or its ranges cannot open. -/
def imageRefused (s : State) (p w : Nat) (l : List Nat) : Bool :=
  let t := bits (l.getD 0 0) 56 55
  let x := bits (l.getD 0 0) 43 39
  let len := bits (l.getD 3 0) 35 0
  let base := bits (l.getD 2 0) 47 0
  winPartition s w != some p || bits (l.getD 0 0) 61 57 != p ||
  if t = 2 then
    len % 1024 != 0 || !decide (rd s (E.part_hbm_base + 256 * p) ≤ base ∧ base + len ≤ partEnd s p)
  else
    ownerOf s x != some p ||
    (if t = 0 then len != (blocksOf l).length * 65536
      else len % 262144 != 0 || base % 262144 != 0 || decide (0x800000 < base + len)) ||
    (blocksOf l).any (fun b => !rangeFree s x b) || decide (64 < (sector s x).landing.length + openAtOnce l)

/-- The context that an image opens (R578, R582, R584). -/
def openContext (s : State) (w : Nat) (l : List Nat) : State :=
  let w0 := l.getD 0 0
  let e := (winEpoch s w + 1) % 65536
  let s := setWinState s w 1
  let s := setWinWord s w 0 (2 ^ 62 + bits w0 61 39 * 2 ^ 39 + e)
  let s := setWinWord (setWinWord s w 1 (l.getD 1 0)) w 2 (l.getD 2 0 - bits (l.getD 2 0) 62 48 * 2 ^ 48)
  let s := setWinWord (setWinWord s w 3 (bits (l.getD 3 0) 35 0)) w 4 (bits (l.getD 4 0) 31 0)
  let s := setWinWord s w 5 (if bits w0 56 55 = 2 then bits (l.getD 3 0) 35 0 / 256 else 0)
  setWin (setWinWord s w 6 0) w Win.init

/-- `WOPEN`. It waits while the management processor opens no window (R586). -/
def wopen (s : State) (x k : Nat) (t : Taken) : State :=
  if s.transport.holdoff then s
  else
    let p := ringPart s x
    let w := t.id
    let r := vaRead s p (.unit x) (bits (t.word 1) 47 0) 64
    let l := (List.range 8).map (recWord r.2)
    let tgt := bits (l.getD 0 0) 56 55
    let bad := tgt == 3 || (tgt != 2 && (bit (l.getD 0 0) 52 || bit (l.getD 0 0) 51))
    let st := if !t.checks then 0x0105
      else if r.1 ≠ 0 then lowestOf [0x0302, if winState s w = 0 then 0 else 0x0407]
      else lowestOf [if bad then 0x0105 else 0, if imageRefused s p w l then 0x0302 else 0,
        if winState s w = 0 then 0 else 0x0407]
    if st ≠ 0 then finishPlain s x k t st
    else
      let s := (List.range (openAtOnce l)).foldl (fun u n => openBlock u w n) (openContext s w l)
      finishPlain (regrantWindow s w) x k t 0

def execWopen (x k : Nat) (s : State) : Res :=
  guarded (decide (x < 32 ∧ k < 8)) s (match nextOp s x k 0x50 with | some t => wopen s x k t | none => s)

/-- A window moves to CLOSING (R585): the peer of a core-memory or commons window receives REVOKE. -/
def closeWindow (s : State) (w : Nat) : State :=
  let s := setWin (setWinState s w 2) w { win s w with late := false }
  if winTarget s w = 2 then s
  else
    let x := winSector s w
    let s := setLanding s x ((sector s x).landing.map fun r => if r.window = w then { r with closing := true } else r)
    sendNotice s 0x06 (bits (winWord s w 1) 63 48) w (winEpoch s w) []

/-- `WCLOSE`. -/
def wclose (s : State) (x k : Nat) (t : Taken) : State :=
  if !t.checks then finishPlain s x k t 0x0105
  else if winState s t.id ≠ 1 ∨ winPartition s t.id ≠ some (ringPart s x) then finishPlain s x k t 0x0407
  else finishPlain (closeWindow s t.id) x k t 0

def execWclose (x k : Nat) (s : State) : Res :=
  guarded (decide (x < 32 ∧ k < 8)) s (match nextOp s x k 0x51 with | some t => wclose s x k t | none => s)

/-- `WBIND`: the handle connects, and the record completes with the answer (R588, R589, R562). -/
def wbind (s : State) (x k : Nat) (t : Taken) : State :=
  let p := ringPart s x
  let r := vaRead s p (.unit x) (bits (t.word 1) 47 0) 64
  let w0 := recWord r.2 0
  let base := bits (recWord r.2 1) 35 0
  let h := t.id
  let st := if !t.checks ∨ 4096 ≤ h then 0x0105
    else
      let busy := if (handle s h).state = 0 then 0 else 0x0407
      if r.1 ≠ 0 then lowestOf [0x0302, busy]
      else lowestOf [if !checkOk r.2 || base % 65536 != 0 then 0x0105 else 0, busy,
        if reachable s (bits w0 63 48) then 0 else 0x0404]
  if st ≠ 0 then finishPlain s x k t st
  else
    let s := setTaken s x k t { t with started := true, startTime := now s }
    let s := setHandle s h { Handle.init with
      state := 1, part := p, node := bits w0 63 48, window := bits w0 47 28, base := base, ordered := bit w0 27
      nextSeq := (handle s h).nextSeq }
    request s h ⟨0, 5, 0, 0, [], none, 0, .bind x k⟩

def execWbind (x k : Nat) (s : State) : Res :=
  guarded (decide (x < 32 ∧ k < 8)) s (match nextOp s x k 0x52 with | some t => wbind s x k t | none => s)

/-- The waiting record of a ring with this operation and `id` completes. -/
def finishWaiting (s : State) (x k op id st : Nat) : State :=
  match (ringOf s x k).queue.find? fun t => t.started && t.op == op && t.id == id with
  | some t => finishPlain s x k t st
  | none => s

/-- A handle that waits to be unbound is freed once none of its requests is outstanding (R582). -/
def settleHandle (s : State) (h : Nat) : State :=
  let v := handle s h
  match v.unbinding with
  | none => s
  | some (x, k) =>
    if v.out.isEmpty && v.held.isEmpty then
      finishWaiting (setHandle s h { Handle.init with nextSeq := v.nextSeq }) x k 0x53 h 0
    else s

/-- `WUNBIND`. -/
def wunbind (s : State) (x k : Nat) (t : Taken) : State :=
  let v := handle s t.id
  if !t.checks ∨ 4096 ≤ t.id then finishPlain s x k t 0x0105
  else if v.state < 2 ∨ v.part ≠ ringPart s x ∨ v.unbinding.isSome then finishPlain s x k t 0x0407
  else
    let s := setTaken s x k t { t with started := true, startTime := now s }
    settleHandle (setHandle s t.id { v with unbinding := some (x, k) }) t.id

def execWunbind (x k : Nat) (s : State) : Res :=
  guarded (decide (x < 32 ∧ k < 8)) s (match nextOp s x k 0x53 with | some t => wunbind s x k t | none => s)

/-! ## Writes into a sector (R164 to R168, R171) -/

/-- A write of another device's fabric group joins its record here, or starts it (R505, R506). -/
def joinRemote (s : State) (opener id p : Nat) : State :=
  if (findGroup s (some opener) id).isSome then s
  else noteGroups { s with groups := s.groups ++
    [⟨some opener, id, p, true, rd s E.step_counter, 1, 0, 0, [], [], [], [], none, 0⟩] }

/-- Credits go into shadow with the granule at key k (R166). -/
def holdCredits (s : State) (k u : Nat) : State :=
  match landingAt s k with
  | none => s
  | some m =>
    let x := bits k 36 32
    let up := fun (l : Landing) => if m.target = l.target ∧ m.idx = l.idx then { l with shadowed := l.shadowed + u } else l
    setSector s x { sector s x with landing := (sector s x).landing.map up }

/-- Bytes of a group land in shadow, granule by granule; on-chip granules take the credits of their units. -/
def shadowStore (s : State) (o : Option Nat) (i k : Nat) (d : List Byte) : State × Nat :=
  (cutAt (granuleSize k) (d.length + 1) k d).foldl (fun (q : State × Nat) e =>
    if q.2 ≠ 0 then q
    else
      let u := if 2 ^ 38 ≤ k then (e.1 % 256 + e.2.length + 255) / 256 else 0
      let r := groupStore q.1 o i e.1 e.2 u false
      if r.2 ≠ 0 then r
      else if 2 ^ 38 ≤ k then
        (holdCredits r.1 e.1 u, 0)
      else r) (s, 0)

/-- Bytes of a group or of none are written at a key. -/
def landBytes (s : State) (g : Option (Option Nat × Nat)) (k : Nat) (d : List Byte) : State × Nat :=
  let s := if 2 ^ 38 ≤ k then noteLanded s k d.length else s
  match g with
  | some (o, i) => shadowStore s o i k d
  | none => (storeAt s k d, 0)

/-- The units of 256 B that n bytes at a key touch. -/
def unitsOf (k n : Nat) : Nat := (k % 256 + n + 255) / 256

/-- A remote write from inside the device, which reaches a sector: it is dropped outside memory that exists and outside every open
landing range (R136, R168), and without the credits that it needs (R165, R167). Its credits return as it lands (R166), so a range
that closes takes the writes that hold some (R169). The ring region needs none (R671). -/
def remoteWrite (s : State) (w : RemoteWr) : State :=
  let k := Mem.onchip w.sector w.target w.offset
  let n := w.data.length
  if 0x800000 ≤ w.offset ∨ 32 ≤ w.target ∨ !onchipValid k then answerStatus s 0x0302 false []
  else if inRing k ∧ inRing (k + n - 1) then answerStatus (storeAt s k w.data) 0 false []
  else if !lands s k n then answerStatus s 0x0302 false []
  else match landingAt s k with
  | none => answerStatus s 0x0302 false []
  | some r =>
    if w.credits < unitsOf k n then answerStatus (inc s E.landing_violation_count) 0x0403 false []
    else
      let s := settleMem s k
      let own := fun (g : GroupRef) => g.opener == rd s E.node_id
      let g := w.group.map fun g => (if own g then none else some g.opener, g.group)
      let s := match g with
        | some (some o, i) => joinRemote s o i ((ownerOf s w.sector).getD 32)
        | _ => s
      let q := landBytes s g k w.data
      answerStatus (creditsMove q.1 r.window) q.2 false []

def execRemoteWrite (w : RemoteWr) (s : State) : Res :=
  guarded (decide (w.sector < 32)) s
    (if s.supply.mainOn ∧ domainState s w.sector < 2 then remoteWrite s w
      else awaitSector (workReaches s (0x100 + w.sector)) w.sector (.write w))

end Sys2Proof.Machine
end

