-- ==== Sys2Proof/Machine/Steps.lean ====
section
/-! DEFINITION. Fabric stitch groups at the boundary (R518 to R526, R835), steps and their boundary (R602 to R610), and cinch (R605
to R607). -/

namespace Sys2Proof.Machine

open Sys2Proof

/-! ## The step tree (R603) -/

/-- The children of the device. -/
def stepChildren (s : State) : List Nat := (List.range (min (rd s E.step_child_count) 32)).map fun i => rd s (E.step_children + i)

/-- In a mirrored pair the follower counts as a child of the leader, under the node that they share (R625). -/
def allChildren (s : State) : List Nat :=
  stepChildren s ++ if rd s E.twin_role = 1 ∧ rd s E.twin_mode = 1 ∧ s.twin.syncing.isNone ∧ !s.twin.lost then [rd s E.node_id] else []

/-- Rings that are enabled, as (sector, ring). -/
def liveRings (s : State) : List (Nat × Nat) :=
  (List.range 32).flatMap fun x => ((List.range 8).filter fun k => ringStatus s x k != 0).map fun k => (x, k)

/-- A ring has reached its `STEPEND`, and every command before it has completed. A ring of a partition that is being scrubbed
holds no step back. DEDUCED (log 128). -/
def ringArrived (s : State) (r : Nat × Nat) : Bool :=
  ((ownerOf s r.1).map (scrubbing s)).getD false ||
    match (ringOf s r.1 r.2).queue with
    | t :: _ => t.started && t.op == 0x54
    | [] => false

/-- Some ring holds a `STEPEND` that waits for the boundary. -/
def stependWaits (s : State) : Bool :=
  (liveRings s).any fun r => (ringOf s r.1 r.2).queue.any fun t => t.started && t.op == 0x54

/-- Requests that no answer has come for; the messages of the step itself and a reset's notices do not count. -/
def requestsOut (s : State) : Bool :=
  s.handles.any (fun h => !h.2.out.isEmpty || !h.2.held.isEmpty) || s.transport.notices.any fun n => decide (n.mtype < 0x24)

/-- The device is locally quiescent (R603). -/
def localQuiet (s : State) : Bool := stependWaits s && (liveRings s).all (ringArrived s) && !requestsOut s

/-- The payloads of STEP_ARRIVE, STEP_RELEASE and RESET_NOTICE (R594). -/
def stepPayload (n : Nat) : List Byte := leBytes 8 n
def releasePayload (n : Nat) (failed : Bool) : List Byte := leBytes 8 n ++ [if failed then 1 else 0] ++ List.replicate 7 0
def resetPayload (n kind : Nat) : List Byte := leBytes 8 n ++ leBytes 1 kind ++ List.replicate 7 0

/-- A release goes to every child. -/
def releaseChildren (s : State) (failed : Bool) : State :=
  (stepChildren s).foldl (fun t c => sendNotice t 0x25 c 0 0 (releasePayload (rd s E.step_counter) failed)) s

/-- The device is quiescent: the boundary falls by `cinch_mode` as it stands now (R605, R607). -/
def becomeQuiet (s : State) : State :=
  { s with step := { s.step with quiescent := true, cinch := rd s E.cinch_mode == 1 } }

/-- What the arrivals so far lead to (R603). A follower tells its leader over the yoke (R625). -/
def stepProgress (s : State) : State :=
  let t := s.step
  if t.failed ∨ t.quiescent ∨ t.reported ∨ !localQuiet s ∨ !(allChildren s).all (t.arrived.contains ·) then s
  else if t.sent then s
  else if rd s E.twin_role = 2 then
    emit { s with step := { t with sent := true } } (.yoke 10 (rd s E.step_counter) [])
  else if rd s E.step_is_root = 1 then becomeQuiet (releaseChildren s false)
  else sendNotice { s with step := { t with sent := true } } 0x24 (rd s E.step_parent) 0 0 (stepPayload (rd s E.step_counter))

/-- `STEPEND`. The record completes at the boundary of its step, or with the step's failure. DEDUCED (log 129). -/
def stepEnd (s : State) (x k : Nat) (t : Taken) : State :=
  if !t.checks then finishPlain s x k t 0x0105
  else if t.word 2 ≠ rd s E.step_counter then finishPlain s x k t 0x0407
  else stepProgress (setTaken s x k t { t with started := true, startTime := now s })

def execStepend (x k : Nat) (s : State) : Res :=
  guarded (decide (x < 32 ∧ k < 8)) s (match nextOp s x k 0x54 with | some t => stepEnd s x k t | none => s)

/-- Every `STEPEND` that waits completes with a status. -/
def endSteps (s : State) (st : Nat) : State :=
  (liveRings s).foldl (fun t r => (ringOf t r.1 r.2).queue.foldl (fun u q =>
    if q.started && q.op == 0x54 then finishPlain u r.1 r.2 q st else u) t) s

/-! ## Decisions and applies (R518 to R523, R835) -/

/-- The partition that an address belongs to. -/
def partAt (s : State) (k : Nat) : Option Nat := if k < 2 ^ 38 then sharePartition s k else ownerOf s (bits k 36 32)

/-- A granule is applied: its lines become visible. Two fabric groups that apply one granule at a boundary count in open mode
(R836, cause 5). -/
def applyGranule (s : State) (fabric : Bool) (r : Granule) : State :=
  let p := partAt s r.base
  let again := fabric && s.step.applied.contains r.base && (p.map fun p => rd s (E.det_mode + p)).getD 0 == 0
  let s := showGranule s r
  let s := if again then noteNd s 5 p else s
  if fabric then { s with step := { s.step with applied := r.base :: s.step.applied } } else s

/-- The place of a group in the order of applies: its decision's place in the log, or (opener node, ID) in the ordered modes
(R522, R835). -/
def applyPlace (s : State) (g : Group) : Nat × Nat × Nat :=
  let ordered := g.fabric && rd s (E.det_mode + g.part) != 0
  if ordered then (g.step, g.opener.getD (rd s E.node_id), g.id)
  else (0, (s.commitLog.findIdx? fun d => d.opener == g.opener && d.id == g.id && d.commit).getD s.commitLog.length, 0)

/-- Another group that is being applied writes a granule of this one and comes before it. -/
def applyBlocked (s : State) (g : Group) : Bool :=
  s.groups.any fun h => h.state == 4 && !(h.opener == g.opener && h.id == g.id) &&
    h.granules.any (fun r => g.granules.any (·.base == r.base)) &&
    (applyPlace s h != applyPlace s g && keyLe (applyPlace s h) (applyPlace s g))

/-- A group of this device whose applies have ended everywhere is resolved (R521). -/
def settleGroup (s : State) (i : Nat) : State :=
  match findGroup s none i with
  | none => s
  | some g =>
    if g.state = 4 ∧ g.granules.isEmpty ∧ g.awaited.isEmpty then finishCommit (resolveGroup s none i 0 0) g.waiter i 0
    else if g.state = 5 ∧ g.fabric ∧ g.awaited.isEmpty ∧ (s.commitLog.any fun d => d.opener.isNone && d.id == i && d.step == g.step) then
      resolveGroup s none i g.status g.cause
    else s

/-- The answer to an SG_DECISION (R593). -/
def ackDecision (s : State) (node : Nat) (w : Nat × Nat) : State :=
  let m := { deviceMsg s node w.2 0 0 (List.replicate 8 0) with flow := w.1 }
  sendMsg { s with transport := { s.transport with kept := s.transport.kept ++ [⟨node, w.1, w.2, 0x10, m, now s⟩] } } 0x10 m

/-- The step increments once every group of it has been decided and applied here (R604); held reductions come first (R831).
The next step then begins, and every `STEPEND` completes. -/
def stepIncrement (s : State) : State :=
  if !s.step.boundary then s
  else if s.groups.any (fun g => g.fabric && decide (g.step ≤ rd s E.step_counter)) then s
  else
    let n := rd s E.step_counter
    let s := flushHeld s fun _ => true
    let s := endSteps s 0
    let s := wr s E.step_counter (n + 1)
    let s := if twinBound s then wr s E.twin_sequence n else s
    { s with step := StepSt.init }

/-- The apply of a committed group ends at this device. -/
def applyDone (s : State) (o : Option Nat) (i : Nat) : State :=
  match findGroup s o i with
  | none => s
  | some g =>
    if g.state ≠ 4 ∨ applyBlocked s g then s
    else
      let s := g.granules.foldl (fun t r => applyGranule t g.fabric r) s
      let s := discard s o i
      let s := g.granules.foldl (fun t r => match landingAt t r.base with
        | some l => creditsMove t l.window
        | none => t) s
      match o with
      | none => stepIncrement (settleGroup s i)
      | some n =>
        let s := match g.waiter with
          | some w => ackDecision s n w
          | none => s
        stepIncrement (resolveGroup s o i 0 0)

def execSgApplyDone (opener group : Nat) (s : State) : Res :=
  done s (applyDone s (if opener = rd s E.node_id then none else some opener) group)

/-- The opener decides a fabric group: the decision is logged before any apply, and goes to every target (R518, R519). -/
def decideGroup (s : State) (i : Nat) (commit : Bool) : State :=
  match findGroup s none i with
  | none => s
  | some g =>
    let s := { s with commitLog := s.commitLog ++ [⟨none, i, g.step, commit, now s⟩] }
    let s := g.acked.foldl (fun t n => sendNotice t 0x22 n 0 0 (groupPayload i (if commit then 0 else 1) g.step)) s
    let s := if commit then s
      else discard s none i
    let s := setGroup s none i fun g => { g with
      state := if commit then 4 else 5
      status := if commit then 0 else if g.status = 0 then 0x0502 else g.status
      awaited := g.acked }
    stepIncrement (settleGroup s i)

/-- At the boundary the opener of a group asks its targets to prepare; one without targets is decided at once. -/
def prepareGroup (s : State) (i : Nat) : State :=
  match findGroup s none i with
  | none => s
  | some g =>
    if g.acked.isEmpty then decideGroup s i (g.state == 1 && g.status == 0)
    else
      let s := g.acked.foldl (fun t n => sendNotice t 0x20 n 0 0 (groupPayload i 2 g.step)) s
      setGroup s none i fun g => { g with state := if g.state = 1 then 2 else g.state, awaited := g.acked }

/-- A vote comes in (R518). -/
def takeVote (s : State) (i node verdict : Nat) : State :=
  match findGroup s none i with
  | none => s
  | some g =>
    if (g.state ≠ 2 ∧ g.state ≠ 5) ∨ !g.awaited.contains node then s
    else
      let st := if verdict = 0 ∨ g.status ≠ 0 then g.status else 0x0502
      let rest := g.awaited.filter (· != node)
      let s := setGroup s none i fun g => { g with awaited := rest, status := st }
      if rest.isEmpty then decideGroup s i (st == 0) else s

/-- Votes that are missing after `sg_prepare_timeout_us` count as votes to abort. -/
def prepareTimeout (s : State) (i : Nat) : State :=
  match findGroup s none i with
  | none => s
  | some g =>
    let decided := s.commitLog.any fun d => d.opener.isNone && d.id == i && d.step == g.step
    if (g.state ≠ 2 ∧ g.state ≠ 5) ∨ g.awaited.isEmpty ∨ decided then s else decideGroup s i false

def execSgPrepareTimeout (i : Nat) (s : State) : Res := done s (prepareTimeout s i)

/-- A target with no decision when `sg_decision_hold_ms` expires discards the group's shadow (R526). -/
def decisionExpiry (s : State) (o i : Nat) : State :=
  match findGroup s (some o) i with
  | none => s
  | some g => if g.state = 4 then s else stepIncrement (resolveGroup s (some o) i 0x0502 0)

def execSgDecisionHoldExpiry (opener group : Nat) (s : State) : Res := done s (decisionExpiry s opener group)

/-! ## The boundary (R604 to R606) -/

/-- Windows that the partitions' ranges hold and whose state f names. -/
def windowsWhere (s : State) (f : Nat → Bool) : List Nat :=
  (List.range 32).flatMap fun p =>
    if assigned s p then
      ((List.range (rd s (E.part_window_count + 256 * p))).map (rd s (E.part_window_first + 256 * p) + ·)).filter fun w => f (winState s w)
    else []

/-- Every OPEN window latches its DONE count (R604). -/
def latchDone (s : State) : State :=
  (windowsWhere s (· == 1)).foldl (fun t w => setWinWord t w 6 (bits (winWord t w 6) 31 0 * 2 ^ 32)) s

/-- The digest of the step (R626): the step, each handle's requests, the completion records in ring order. -/
def stepDigest (s : State) : List Byte :=
  let n := rd s E.step_counter
  let perHandle := (List.range 4096).flatMap fun h =>
    let r := s.twin.requests.filter (·.1 == h)
    if r.isEmpty then [] else sm3 (r.flatMap Prod.snd)
  let recs := (List.range 256).flatMap fun r => (s.twin.completions.filter (·.1 == r)).flatMap Prod.snd
  sm3 (leBytes 8 n ++ perHandle ++ sm3 recs)

/-- The leader's commit record of the step: its number, the decisions of its groups, and the digest (R624, R626). -/
def commitRecord (s : State) : State :=
  if rd s E.twin_role ≠ 1 then s
  else
    let n := rd s E.step_counter
    let ds := s.commitLog.filter (·.step == n)
    emit s (.yoke 6 n (leBytes 8 n ++ ds.flatMap (fun d => leBytes 2 d.id ++ leBytes 1 (if d.commit then 0 else 1)) ++ stepDigest s))

/-- A module leaves its pair with a cause (R637, R639). -/
def detachTwin (s : State) (cause : Nat) : State :=
  wr (wr { s with twin := { Twin.init with heard := s.twin.heard, heardTime := s.twin.heardTime, helloOnly := true } }
    E.twin_role 3) E.twin_detach_cause cause

/-- The follower compares its digest of a step with the leader's, once it has both (R626): digests that differ are recorded,
and it detaches. -/
def compareDigests (s : State) : State :=
  match s.twin.own, s.twin.commit with
  | some (n, d), some (m, e) =>
    if n ≠ m then s
    else
      let s := { s with twin := { s.twin with own := none, commit := none } }
      if d = e then s
      else
        let s := wr (wr s E.td_step n) E.td_leader_digest (leNat e)
        detachTwin (inc (wr s E.td_follower_digest (leNat d)) E.td_count) 2
  | _, _ => s

/-- The boundary of the step falls. A leader that was told to detach hands over at it (R637). -/
def fallBoundary (s : State) : State :=
  let n := rd s E.step_counter
  let s := wr (latchDone s) E.last_boundary_time (now s)
  let s := { s with step := { s.step with boundary := true, applied := [] } }
  let mine := (s.groups.filter fun g => g.opener.isNone && g.fabric && g.step == n).map Group.id
  let s := mine.foldl prepareGroup s
  let s := commitRecord s
  let own := if rd s E.twin_role = 2 ∧ rd s E.twin_mode = 1 then some (n, stepDigest s) else none
  let over' := s.twin.handOver
  let s := compareDigests (stepIncrement { s with twin := { s.twin with requests := [], completions := [], own := own } })
  if over' then detachTwin ((List.range 32).foldl (fun t p => if portCode t p = 0 then t else portOut t p 0) s) 1 else s

/-- The device waits for its boundary. -/
def boundaryWaits (s : State) : Bool := s.step.quiescent && !s.step.boundary && !s.step.failed

/-- The boundary at quiescence, where no cinch is asked for. -/
def execStepBoundary (s : State) : Res := done s (if boundaryWaits s && !s.step.cinch then fallBoundary s else s)

/-- A rising CINCH edge (R605, R606). -/
def cinchEdge (s : State) : State :=
  let s := inc s E.cinch_edge_count
  if boundaryWaits s && s.step.cinch then fallBoundary s else inc s E.cinch_outside_count

/-- The hold of R605 ends without an edge. -/
def execCinchHoldExpiry (s : State) : Res :=
  done s (if boundaryWaits s && s.step.cinch then fallBoundary (inc s E.cinch_miss_count) else s)

/-! ## A failed step (R608, R609) -/

/-- The device receives a failed release for its step, or is the root that sends one. -/
def failStep (s : State) : State :=
  let n := rd s E.step_counter
  let gs := (s.groups.filter fun g => g.fabric && g.step == n).map fun g => (g.opener, g.id)
  let s := gs.foldl (fun t g => resolveGroup (setGroup t g.1 g.2 fun r => { r with state := 5 }) g.1 g.2 0x0502 0) s
  let s := (windowsWhere s (· == 1)).foldl (fun t w => setWinWord t w 6 (bits (winWord t w 6) 63 32 * 2 ^ 32)) s
  let s := inc s E.step_failed_count
  let s := ((List.range 32).filter (assigned s)).foldl (fun t p => postEvent t p 2 0x0408 0 n) s
  endSteps (releaseChildren { s with step := { StepSt.init with failed := true } } true) 0x0408

/-- A parent learns that a child is lost for step n. -/
def parentFails (s : State) (m : Msg) : State :=
  if rd s E.step_is_root = 1 then failStep s
  else sendNotice { s with step := { s.step with reported := true } } 0x26 (rd s E.step_parent) 0 0 m.payload

/-- A child has neither arrived nor had a valid route for `step_timeout_ms` (R608). A parent that is not the root passes on a
notice that names its step. DEDUCED (log 130). -/
def stepTimeout (s : State) (c : Nat) : State :=
  if s.step.failed ∨ s.step.reported ∨ s.step.quiescent ∨ s.step.arrived.contains c ∨ !(stepChildren s).contains c ∨ reachable s c then s
  else parentFails s (deviceMsg s c 0 0 0 (resetPayload (rd s E.step_counter) 0))

def execStepTimeout (c : Nat) (s : State) : Res := done s (stepTimeout s c)

/-- `step_resume` (R609, R613). -/
def stepResumeSem : EntrySem :=
  command (fun s v => v == 1 && s.step.failed) (fun s _ _ => { s with step := StepSt.init })

def execStepResume (via : Path) (d : List Byte) (s : State) : Res :=
  done s (access s (writeBytes via E.step_resume d) stepResumeSem)

/-- A device that returns from a reset tells its parent and children (R610). -/
def sendResetNotices (s : State) (kind : Nat) : State :=
  let to' := (if rd s E.step_is_root = 1 then [] else [rd s E.step_parent]) ++ stepChildren s
  to'.foldl (fun t c => sendNotice t 0x26 c 0 0 (resetPayload (rd s E.step_counter) kind)) s

/-- Step entries of access RWI are written while the device is quiescent, or no `STEPEND` is pending (R612). -/
def stepIdle (s : State) : Bool := s.step.quiescent || !stependWaits s

end Sys2Proof.Machine
end

