-- ==== Sys2Proof/Machine/Xlat.lean ====
section
/-! DEFINITION. Mapping and unmapping pages, and abandoning a core's holding transfers (R466 to R468, R474, R498). -/

namespace Sys2Proof.Machine

open Sys2Proof

/-- The page size that `large` of an entry selects. -/
def pageBytes (e : Nat) : Nat := if bit e 62 then 2 ^ 21 else 2 ^ 16

/-- The entry that a map installs for its i-th page: `frame` advances by one page per page, `valid` is 1, and the
reserved bits are 0 (R466, R467). -/
def mapEntry (e i : Nat) : Nat :=
  let f := bits e 39 16 * 2 ^ 16 + i * pageBytes e
  2 ^ 63 + bits e 62 59 * 2 ^ 59 + bits f 39 16 * 2 ^ 16

/-- The physical address of a page's first byte. -/
def frameOf (e : Nat) : Nat := bits e 39 16 * 2 ^ 16

/-- Partition p owns the frame of an entry, or the frame lies in the outbound space, which any partition may map
(R467). -/
def frameOwned (s : State) (p e : Nat) : Bool :=
  let f := frameOf e
  if f < 2 ^ 38 then
    decide (p < 32) && assigned s p && decide (rd s (E.part_hbm_base + 256 * p) ≤ f ∧ f + pageBytes e ≤ partEnd s p)
  else if bits f 39 37 = 4 then decide (p < 32) && assigned s p && bit (rd s (E.part_sectors + 256 * p)) (bits f 36 32)
  else bits f 39 37 == 6

/-- A large page maps core memory (R467 status 7). -/
def largeCore (e : Nat) : Bool := bit e 62 && bits (frameOf e) 39 37 == 4 && decide (bits (frameOf e) 31 27 < 25)

/-- The first virtual address of the page that a key of `State.xlat` names, and its size. -/
def pageOfKey (k : Nat) : Nat × Nat :=
  if bit k 39 then (bits k 38 0 * 2 ^ 21, 2 ^ 21) else (bits k 38 0 * 2 ^ 16, 2 ^ 16)

/-- Partition p maps some page that meets the range [lo, hi). -/
def rangeMapped (s : State) (p lo hi : Nat) : Bool :=
  s.xlat.any fun e => e.1 / 2 ^ 40 == p && decide ((pageOfKey e.1).1 < hi ∧ lo < (pageOfKey e.1).1 + (pageOfKey e.1).2)

/-- The operands of the command, as the entries hold them; software may not write them while it runs (R498). -/
def xmPart (s : State) : Nat := rd s E.xm_partition
def xmVa (s : State) : Nat := rd s E.xm_va
def xmPages (s : State) : Nat := rd s E.xm_pages
def xmEntry (s : State) : Nat := rd s E.xm_entry
/-- The end of the range of pages. -/
def xmEnd (s : State) : Nat := xmVa s + xmPages s * pageBytes (xmEntry s)

/-- The lowest status of the refusals that hold for a map (R467), or 1. -/
def mapStatus (s : State) : Nat :=
  let e := xmEntry s
  let pages := (List.range (xmPages s)).map (mapEntry e)
  if pages.any fun f => !frameOwned s (xmPart s) f then 3
  else if xmVa s % pageBytes e ≠ 0 ∨ frameOf e % pageBytes e ≠ 0 then 4
  else if rangeMapped s (xmPart s) (xmVa s) (xmEnd s) then 5
  else if 1048576 < s.xlat.length + xmPages s then 6
  else if pages.any largeCore then 7
  else if xmPages s = 0 ∨ 2 ^ 48 < xmEnd s then 8
  else 1

/-- The lowest status of the refusals that hold for an unmap, or 1: of the entry it reads only the page size. -/
def unmapStatus (s : State) : Nat :=
  let e := xmEntry s
  if xmVa s % pageBytes e ≠ 0 then 4
  else if (List.range (xmPages s)).any fun i =>
    (Tab.get 0 s.xlat (xlatKey (xmPart s) (bit e 62) (xmVa s + i * pageBytes e))) == 0 then 5
  else if xmPages s = 0 ∨ 2 ^ 48 < xmEnd s then 8
  else 1

/-- `xm_cmd` (R467, R498). The running command is kept where the write put it. -/
def xmSem : EntrySem :=
  command (fun s v => rd s E.xm_status != 1 && (v == 1 || v == 2))
    (fun s _ v => wr (wr s E.xm_cmd v) E.xm_status (if v = 1 then mapStatus s else unmapStatus s))

def execXlatMap (via : Path) (s : State) : Res := done s (access s (writeOf via E.xm_cmd 1) xmSem)
def execXlatUnmap (via : Path) (s : State) : Res := done s (access s (writeOf via E.xm_cmd 2) xmSem)

/-- The other entries of `xlat_map` (R498). -/
def xmEntrySem (k : Nat) : EntrySem := limited k fun s _ => rd s E.xm_status != 1

/-- An access that core c has translated through a page of the range is not complete (R468): a transfer that does not
hold has bytes still to write there, or an `LDPM` reads there. -/
def usesRange (s : State) (c lo hi : Nat) : Bool :=
  let k := core s c
  (k.xfers.any fun x => x.held.isNone && x.writes.any fun w =>
    match w.2.1 with
    | some va => decide (va < hi ∧ lo < va + w.2.2.1.length)
    | none => false) ||
  k.ldpm.any fun l => decide (l.va < hi ∧ lo < l.va + l.bytes)

/-- Some core of partition p uses the range. -/
def partUsesRange (s : State) (p lo hi : Nat) : Bool :=
  s.cores.any fun e => ownerOf s (e.1 / 25) == some p && usesRange s e.1 lo hi

/-- The entries in use are reported. -/
def noteXlat (s : State) : State := wr s E.xlat_entries_used s.xlat.length

/-- The running command completes (R467): a map installs its entries; an unmap removes them once no access through them
is in flight (R468). -/
def xlatDone (s : State) : State :=
  if rd s E.xm_status ≠ 1 then s
  else
    let p := xmPart s
    let e := xmEntry s
    let keys := (List.range (xmPages s)).map fun i => (xlatKey p (bit e 62) (xmVa s + i * pageBytes e), i)
    if rd s E.xm_cmd = 1 then
      wr (noteXlat { s with xlat := keys.foldl (fun t k => Tab.set 0 t k.1 (mapEntry e k.2)) s.xlat }) E.xm_status 2
    else if partUsesRange s p (xmVa s) (xmEnd s) then s
    else wr (noteXlat { s with xlat := keys.foldl (fun t k => Tab.set 0 t k.1 0) s.xlat }) E.xm_status 2

def execXlatCmdDone (s : State) : Res := done s (xlatDone s)

/-- The translation entries of partition p are removed (R759 step 4). -/
def dropXlat (s : State) (p : Nat) : State := noteXlat { s with xlat := s.xlat.filter fun e => e.1 / 2 ^ 40 != p }

/-- Every holding transfer of core c ends with 0x0301 (R474). -/
def abandonHeld (s : State) (c : Nat) : State :=
  ((core s c).xfers.filter fun x => x.held.isSome).foldl (fun t x => endXfer t c x 0x0301 (core t c).beat) s

def abandonSem : EntrySem := command (fun _ _ => true) fun s _ v => if v < 800 then abandonHeld s v else s

def execStreamAbandon (via : Path) (d : List Byte) (s : State) : Res :=
  done s (access s (writeBytes via E.stream_abandon d) abandonSem)

end Sys2Proof.Machine
end

