-- ==== Sys2Proof/Machine/Partition.lean ====
section
/-! DEFINITION. Partitions: assignment, and the scrub (R753 to R755, R759 to R761, R764). -/

namespace Sys2Proof.Machine

open Sys2Proof

/-! ## Assignment (R754) -/

/-- Two ranges share a number; an empty range shares none. -/
def rangesMeet (a n b m : Nat) : Bool := decide (a < b + m ∧ b < a + n ∧ n ≠ 0 ∧ m ≠ 0)

/-- The HBM share that partition p's entries ask for may be assigned. -/
def shareOk (s : State) (p : Nat) : Bool :=
  let b := rd s (E.part_hbm_base + 256 * p)
  let n := rd s (E.part_hbm_bytes + 256 * p)
  b % 2 ^ 29 == 0 && n % 2 ^ 29 == 0 && (n == 0 || (generalArea s b n && (List.range 32).all fun q =>
    q == p || !assigned s q || !rangesMeet b n (rd s (E.part_hbm_base + 256 * q)) (rd s (E.part_hbm_bytes + 256 * q))))

/-- The window range that partition p's entries ask for may be assigned. -/
def windowsOk (s : State) (p : Nat) : Bool :=
  let b := rd s (E.part_window_first + 256 * p)
  let n := rd s (E.part_window_count + 256 * p)
  decide (b + n ≤ 1048576) && (List.range 32).all fun q =>
    q == p || !assigned s q || !rangesMeet b n (rd s (E.part_window_first + 256 * q)) (rd s (E.part_window_count + 256 * q))

/-- The sectors that partition p's entries name are some, and no other partition's. -/
def sectorsOk (s : State) (p : Nat) : Bool :=
  let m := rd s (E.part_sectors + 256 * p)
  m != 0 && (List.range 32).all fun q => q == p || !assigned s q || (m &&& rd s (E.part_sectors + 256 * q)) == 0

/-- `twinOk`: the partitions of a bound pair would still match (R617), as the other module's would stand. -/
def partAssign (s : State) (p : Nat) (twinOk : Bool) : State :=
  if sectorsOk s p && shareOk s p && windowsOk s p && (twinOk || !twinBound s) then
    wr (wr s (E.part_state + 256 * p) 1) (E.part_status + 256 * p) 2
  else wr s (E.part_status + 256 * p) 3

/-! ## The scrub (R759) -/

/-- The sectors of partition p. -/
def sectorsOf (s : State) (p : Nat) : List Nat := (List.range 32).filter (bit (rd s (E.part_sectors + 256 * p)))

/-- The cores of partition p. -/
def coresOf (s : State) (p : Nat) : List Nat := (sectorsOf s p).flatMap fun x => (List.range 25).map (25 * x + ·)

/-- Step 2 in sector x: every taken command completes with 0x0405, and its cores are halted. -/
def scrubRings (s : State) (x : Nat) : State :=
  let s := (List.range 25).foldl (fun t p => if (core t (25 * x + p)).running then abortStarter t x (25 * x + p) 0x0405 else t) s
  let s := (List.range 25).foldl (fun t p => if (core t (25 * x + p)).running then haltCore t (25 * x + p) 0x0405 else t) s
  (List.range 8).foldl (fun t k => (ringOf t x k).queue.foldl (fun u q => finishPlain u x k q 0x0405) t) s

/-- Step 3: lacing rings with a member in the partition stop, key contexts close, and its open groups abort. -/
def scrubUnits (s : State) (p : Nat) : State :=
  let s := (sectorsOf s p).foldl laceStopSector s
  let s := (coresOf s p).foldl (fun t c => if (core t c).keys.isEmpty then t else setCore t c { core t c with keys := [] }) s
  s.groups.foldl (fun t g => if g.opener.isNone && g.part == p then abortGroup t g.id 0x0504 0 else t) s

/-- Windows of partition p that are OPEN or CLOSING. -/
def liveWindows (s : State) (p : Nat) (f : Nat → Bool) : List Nat :=
  ((List.range (rd s (E.part_window_count + 256 * p))).map (rd s (E.part_window_first + 256 * p) + ·)).filter fun w => f (winState s w)

/-- Step 4: windows QUIET, handles unbound, translation entries removed. -/
def scrubFabric (s : State) (p : Nat) : State :=
  let s := (liveWindows s p fun v => v == 1 || v == 2).foldl quietWindow s
  let s := (s.handles.filter fun h => h.2.part == p && h.2.state != 0).foldl (fun t h => setHandle t h.1 Handle.init) s
  dropXlat s p

/-- Step 6 in sector x: core memory, tiles, accumulators, program memory, chain tables, commons and shadow are filled, and
`cm_attr` takes its default. -/
def scrubSector (s : State) (x : Nat) : State :=
  let s := (List.range 25).foldl (fun t p =>
    let c := 25 * x + p
    let t := zeroFill t (Mem.cm c 0) (Mem.cm c 0x180000)
    let t := zeroFill t (Mem.tile c 0 0) (Mem.tile (c + 1) 0 0)
    let t := zeroFill t (Mem.acc c 0 0) (Mem.acc (c + 1) 0 0)
    let t := zeroFill t (Mem.prog c 0 0) (Mem.prog (c + 1) 0 0)
    setCore t c { core t c with cmAttr := 0xFFFFFF, chains := [], kernel := none }) s
  zeroFill s (Mem.commons x 0) (Mem.commons x 0x800000)

/-- A queued big-number job of the partition is removed, and the result of a running one will be zeros (R781). -/
def scrubPke (s : State) (p : Nat) : State :=
  let s := { s with pke := { s.pke with job := s.pke.job.map fun j => if j.part = p then { j with scrubbed := true } else j } }
  if rd s E.pke_job_state = 1 ∧ rd s E.pke_job_partition = p then
    wr (wr s E.pke_job_status 0x0405) E.pke_job_state 3
  else s

/-- The partition's noise replay is erased (R841). -/
def eraseReplay (s : State) (p : Nat) : State :=
  wr { s with replays := Tab.set none s.replays p none } (E.nr_mode + 256 * p) 0

/-- Steps 1 to 7 of a scrub of partition p, which then waits for step 8. -/
def scrubStart (s : State) (p : Nat) (free : Bool) : State :=
  let s := wr (wr s (E.part_state + 256 * p) 2) (E.part_status + 256 * p) 1
  let s := { s with island := { s.island with scrubs := Tab.set none s.island.scrubs p (some ⟨free⟩) } }
  let s := setReleases s (s.island.releases.filter (·.part != p))
  let s := (sectorsOf s p).foldl scrubRings s
  let s := eraseReplay (scrubPke (scrubFabric (scrubUnits s p) p) p) p
  let s := dropKeySets s p
  let s := (sectorsOf s p).foldl scrubSector s
  let s := zeroFill s (rd s (E.part_hbm_base + 256 * p)) (partEnd s p)
  stepProgress (clearLost s ((rd s (E.part_hbm_base + 256 * p) - 0x10000000) / 1024) ((partEnd s p - 0x10000000) / 1024))

/-- A ring, and the partition's event ring, are disabled (step 8). -/
def ringsOff (s : State) (p : Nat) : State :=
  let s := (sectorsOf s p).foldl (fun t x => (List.range 8).foldl (fun u k =>
    wr (wr (setRing u x k Ring.init) (E.ring_enable + ringAt x k) 0) (E.ring_status + ringAt x k) 0) t) s
  wr s (E.ev_enable + 256 * p) 0

/-- A job of the partition runs in the big-number engine. -/
def pkeHolds (s : State) (p : Nat) : Bool := match s.pke.job with | some j => j.part == p | none => false

/-- Step 8, `window_quiet_ms` after step 4, and not before a big-number job of the partition has ended. -/
def scrubEnd (s : State) (p us : Nat) : State :=
  match Tab.get none s.island.scrubs p with
  | none => s
  | some v =>
    if rd s (E.part_state + 256 * p) ≠ 2 ∨ us < 1000 * rd s E.window_quiet_ms ∨ pkeHolds s p then s
    else
      let s := (liveWindows s p (· == 3)).foldl (fun t w => setWinState t w 0) s
      let s := ringsOff s p
      let s := { s with island := { s.island with scrubs := Tab.set none s.island.scrubs p none } }
      wr (wr (wr s (E.part_state + 256 * p) (if v.free then 0 else 1)) (E.part_status + 256 * p) 2) (E.part_scrub_time_us + 256 * p) us

def execScrubEnd (p us : Nat) (s : State) : Res := guarded (decide (p < 32)) s (scrubEnd s p us)

/-- A scrub that a reset cut off starts again (R760). -/
def resumeScrubs (s : State) : State :=
  (List.range 32).foldl (fun t p =>
    if rd t (E.part_state + 256 * p) = 2 then
      match Tab.get none t.island.scrubs p with
      | some v => scrubStart t p v.free
      | none => t
    else t) s

/-! ## `part_cmd` and the record's entries (R753, R754, R764) -/

def partSem (p : Nat) (twinOk : Bool) : EntrySem :=
  { command (fun s v => decide ((v = 1 ∧ rd s (E.part_state + 256 * p) = 0) ∨ ((v = 2 ∨ v = 3) ∧ rd s (E.part_state + 256 * p) = 1)))
      (fun s _ v => if v = 1 then partAssign s p twinOk else scrubStart s p (v == 2)) with authOnly := true }

/-- The entries that an assignment reads are writable while the partition is FREE. -/
def partEntrySem (p key : Nat) : EntrySem := { plain key with idle := fun s => rd s (E.part_state + 256 * p) == 0 }

def execPartAssign (via : Path) (p : Nat) (twinOk : Bool) (s : State) : Res :=
  instanced (decide (p < 32)) s via E.part_cmd (access s (writeOf via (E.part_cmd + 256 * p) 1) (partSem p twinOk))
def execPartScrubFree (via : Path) (p : Nat) (s : State) : Res :=
  instanced (decide (p < 32)) s via E.part_cmd (access s (writeOf via (E.part_cmd + 256 * p) 2) (partSem p true))
def execPartScrubKeep (via : Path) (p : Nat) (s : State) : Res :=
  instanced (decide (p < 32)) s via E.part_cmd (access s (writeOf via (E.part_cmd + 256 * p) 3) (partSem p true))

end Sys2Proof.Machine
end

