-- ==== Sys2Proof/Machine/KeySwitch.lean ====
section
/-! DEFINITION. What the kernels of key-switches, rescales, linear transforms and the scheme bridge compute (R324, R325, R358, R359, R395,
R400, R402 to R404, R408 to R411). -/

namespace Sys2Proof.Machine

open Sys2Proof

/-- Prime i of a chain, as its record gives it (R296). -/
def chainEntryAt (s : State) (c i : Nat) : Prime := Prime.ofWords (wordsOf (rdBytes s (Mem.hbm (chainRecord c + 64 * i)) 64))

/-! ## Limbs -/

def mulLimb (p : Prime) (a b : List Nat) : List Nat := (elemWords eMmul false p p 0 [a, b]).1
def addLimb (p : Prime) (a b : List Nat) : List Nat := (elemWords eMadd false p p 0 [a, b]).1
def subLimb (p : Prime) (a b : List Nat) : List Nat := (elemWords eMsub false p p 0 [a, b]).1
def scaleLimb (p : Prime) (k : Nat) (a : List Nat) : List Nat := (elemWords eMmulk false p p k [a]).1
def zeroLimb (n : Nat) : List Nat := List.replicate (2 ^ n) 0

/-- The inverse modulo a prime. -/
def primeInv (q a : Nat) : Nat := powMod q (a % q) (q - 2)

/-- σ_g of a limb in the NTT domain (R320). -/
def autLimb (n g : Nat) (l : List Nat) : List Nat := (List.range (2 ^ n)).map fun j => l.getD (autSource n g j) 0

/-- The product of a set's primes but for one. -/
def prodOthers (qs : List Nat) (q : Nat) : Nat := (qs.filter (· != q)).foldl (· * ·) 1

/-- Step 1 of a base conversion: the coefficients of a limb, times (Q/q)^(−1) mod q. -/
def hatLimb (qs : List Nat) (p : Prime) (n : Nat) (l : List Nat) : List Nat :=
  scaleLimb p (primeInv p.q (prodOthers qs p.q)) (transform 64 true p n l)

/-- Step 2 of a base conversion, from the primes qs into prime p (R324, R325). -/
def convertLimb (qs : List Nat) (xs : List (List Nat)) (p n : Nat) : List Nat :=
  let ws := qs.map fun q => prodOthers qs q % p
  (List.range (2 ^ n)).map fun r => (List.zipWith (fun x w => x.getD r 0 * w) xs ws).sum % p

/-! ## The key-switch (R403, R404) -/

/-- The limbs of a polynomial by prime, and of a ciphertext by polynomial and prime. -/
abbrev Limbs := Nat → List Nat
abbrev CtLimbs := Nat → Limbs

/-- A limb of the b-half of a key's digit, from its chunks (R353, R364). -/
def keyLimb (s : State) (v : KeySet) (k : KeyInfo) (d i : Nat) : List Nat :=
  let c := chunksOf v.logn
  let n := payloadOf v.logn
  (List.range c).flatMap fun j =>
    wordsOf (rdBytes s (Mem.hbm (k.base + (64 + n) * ((d * chainPrimes s v.chain + i) * c + j) + 64)) n)

/-- The primes of digit d that a polynomial of a level has. At a level below P − K − 1 the last digit has the primes that are left.
DEDUCED (log 197). -/
def digitPrimes (v : KeySet) (level d : Nat) : List Nat := ((List.range v.alpha).map (d * v.alpha + ·)).filter (· ≤ level)
def digitCount (v : KeySet) (level : Nat) : Nat := (level + v.alpha) / v.alpha

/-- Digit d of a polynomial, raised to prime j of the extended basis, in the NTT domain: a prime of the digit keeps its limb. -/
def raisedLimb (s : State) (v : KeySet) (level : Nat) (c : Limbs) (d j : Nat) : List Nat :=
  let is := digitPrimes v level d
  if is.contains j then c j
  else
    let qs := is.map (chainPrime s v.chain)
    let p := chainEntryAt s v.chain j
    transform 64 false p v.logn (convertLimb qs (is.map fun i => hatLimb qs (chainEntryAt s v.chain i) v.logn (c i)) p.q v.logn)

/-- The accumulator of prime j: the sum over the digits of a raised limb times a half of the key. -/
def accumulated (s : State) (v : KeySet) (level : Nat) (c : Limbs) (half : Nat → Limbs) (j : Nat) : List Nat :=
  let p := chainEntryAt s v.chain j
  (List.range (digitCount v level)).foldl
    (fun t d => addLimb p t (mulLimb p (raisedLimb s v level c d j) (half d j))) (zeroLimb v.logn)

/-- Limb i of an accumulator, converted down from the K special primes. -/
def downLimb (s : State) (v : KeySet) (acc : Limbs) (i : Nat) : List Nat :=
  let n := chainPrimes s v.chain
  let sp := (List.range v.special).map (n - v.special + ·)
  let qs := sp.map (chainPrime s v.chain)
  let p := chainEntryAt s v.chain i
  let x := convertLimb qs (sp.map fun j => hatLimb qs (chainEntryAt s v.chain j) v.logn (acc j)) p.q v.logn
  scaleLimb p (primeInv p.q (qs.foldl (· * ·) 1)) (subLimb p (acc i) (transform 64 false p v.logn x))

/-- The two polynomials that a key-switch of c makes under key k: from the b-halves (polynomial 0) and the a-halves (polynomial
1). -/
def keySwitch (s : State) (v : KeySet) (k : KeyInfo) (level : Nat) (c : Limbs) : CtLimbs := fun j =>
  let half : Nat → Limbs := fun d i =>
    if j = 0 then keyLimb s v k d i else (List.range (2 ^ v.logn)).map (halfWord k.seed (chainPrime s v.chain i) d i)
  downLimb s v (accumulated s v level c half)

/-- A ciphertext of two polynomials, rotated by g: σ_g, then the key-switch of polynomial 1 (R395 `HROT`). -/
def rotated (s : State) (v : KeySet) (g level : Nat) (c : CtLimbs) : CtLimbs := fun j i =>
  let c' : CtLimbs := fun j i => autLimb v.logn g (c j i)
  let k := (v.key 0 g).getD ⟨0, 0, 0, 0, 0, 0⟩
  let r := keySwitch s v k level (c' 1) j i
  if j = 0 then addLimb (chainEntryAt s v.chain i) (c' 0 i) r else r

/-- A ciphertext of three polynomials, made one of two (R395 `HRELIN`). -/
def relinearised (s : State) (v : KeySet) (level : Nat) (c : CtLimbs) : CtLimbs := fun j i =>
  let k := (v.key 1 0).getD ⟨0, 0, 0, 0, 0, 0⟩
  addLimb (chainEntryAt s v.chain i) (c j i) (keySwitch s v k level (c 2) j i)

/-- The sum of R400 over the entries (r, diagonal) of a table with `baby` n1: a rotation by 0 is none. -/
def diagonalSum (s : State) (v : KeySet) (level n1 : Nat) (es : List (Nat × Limbs)) (c : CtLimbs) : CtLimbs := fun j i =>
  let p := chainEntryAt s v.chain i
  let turn := fun (r : Nat) (c : CtLimbs) => if r = 0 then c else rotated s v (powMod (2 ^ (v.logn + 1)) 5 r) level c
  let inner : Nat → CtLimbs := fun g j i =>
    let p := chainEntryAt s v.chain i
    (es.filter fun e => e.1 / n1 == g).foldl
      (fun t e => addLimb p t (mulLimb p (turn (e.1 % n1) c j i) (e.2 i))) (zeroLimb v.logn)
  ((es.map fun e => e.1 / n1).eraseDups).foldl (fun t g => addLimb p t (turn (g * n1) (inner g) j i)) (zeroLimb v.logn)

/-! ## Dropping a prime (R395 `HRESCALE`, `HMODSW`) -/

/-- Limb i of a polynomial divided by its last prime q: (c_i − r) / q, with r congruent to c modulo q. No rule says which
multiple of q `open_` adds to a coefficient of r; it is one integer for all primes. DESIGN CHOICE (log 198). -/
def dropPrime (s : State) (chain n last : Nat) (c : Limbs) (open_ : Nat → Int) (i : Nat) : List Nat :=
  let pl := chainEntryAt s chain last
  let p := chainEntryAt s chain i
  let x := (transform 64 true pl n (c last)).zipIdx.map fun e => (((e.1 : Int) + open_ e.2 * pl.q) % (p.q : Int)).toNat
  scaleLimb p (primeInv p.q pl.q) (subLimb p (c i) (transform 64 false p n x))

/-! ## The bridge (R408 to R411) -/

/-- Word x of the a-half of the sample of place t, whose phase is b − ⟨a, s⟩ (R411), from the polynomial u of degree below n
that meets the secret s: coefficient t of u·Y^x modulo Y^n + 1, up to sign. No rule gives the sign with which a ciphertext's
second polynomial meets the secret: `plus` says it. DESIGN CHOICE (log 199). -/
def lweWord (plus : Bool) (q n : Nat) (u : Nat → Nat) (t x : Nat) : Nat :=
  let neg := fun a => if a % q = 0 then 0 else q - a % q
  let w := if x ≤ t then u (t - x) else neg (u (n + t - x))
  if plus then neg w else w % q

/-- The sign of a ciphertext's second polynomial (log 199). -/
def secretSign : Bool := openValue 199 0 0 % 2 == 0

/-- Steps 2 to 4 of R409: the sample of coefficient m of a ciphertext of degree 2^n whose limbs are given in the coefficient
domain, in the ring of degree 2^nb. No rule says how the modulus switch rounds: `up` adds 0 or 1 to word x. DESIGN CHOICE (log
199). -/
def extractSample (q n nb : Nat) (c0 c1 : List Nat) (m : Nat) (up : Nat → Nat) : List Nat :=
  let k := 2 ^ (n - nb)
  let switch := fun x w => (w * 2 ^ (nb + 1) / q + up x) % 2 ^ (nb + 1)
  let u := fun e => c1.getD (m % k + k * e) 0
  ((List.range (2 ^ nb)).map fun x => switch x (lweWord secretSign q (2 ^ nb) u (m / k) x)) ++ [switch (2 ^ nb) (c0.getD m 0)]

/-- X^e times a polynomial of degree below 2^n modulo X^(2^n) + 1 and q. -/
def shiftPoly (q n e : Nat) (l : List Nat) : List Nat :=
  (List.range (2 ^ n)).map fun i =>
    let j := (i + 2 * 2 ^ n - e % (2 * 2 ^ n)) % (2 * 2 ^ n)
    let w := l.getD (j % 2 ^ n) 0 % q
    if j < 2 ^ n ∨ w = 0 then w else q - w

/-- Row r of element e of the blind-rotation key, in the NTT domain over 2^nb: its b-half and its a-half (R359, R408). -/
def blindRow (s : State) (k : KeyInfo) (q prime nb digits e r : Nat) : List Nat × List Nat :=
  let place := fun w => (e * (digits * 2 ^ nb / 4096) + (r * 2 ^ nb + w) / 8192, (r * 2 ^ nb + w) % 8192)
  ((List.range (2 ^ nb)).map fun w => rdNat s (Mem.hbm (k.base + 65600 * (place w).1 + 64 + 8 * (place w).2)) 8,
    (List.range (2 ^ nb)).map fun w => halfWord k.seed q ((place w).1 / 256) prime (8192 * ((place w).1 % 256) + (place w).2))

/-- The product of element e with an accumulator: a sum of its rows, each times one piece of the accumulator's decomposition. No
rule says how the accumulator is decomposed: `piece r` is a free value. DESIGN CHOICE (log 199). -/
def externalProduct (s : State) (k : KeyInfo) (p : Prime) (prime nb digits e : Nat) (piece : Nat → List Nat) : List Nat × List Nat :=
  (List.range (2 * digits)).foldl (fun t r =>
    let row := blindRow s k p.q prime nb digits e r
    let x := transform 64 false p nb (piece r)
    let by_ := fun l => transform 64 true p nb (mulLimb p x l)
    (addLimb p t.1 (by_ row.1), addLimb p t.2 (by_ row.2))) (zeroLimb nb, zeroLimb nb)

/-- The blind rotation of a sample (a, b), and the extraction of coefficient 0 (R410, R411). Element e selects between the
accumulator and X^(a_e) times it: what it adds is its product with their difference. -/
def bootstrapped (s : State) (k : KeyInfo) (p : Prime) (prime nb digits : Nat) (lut a : List Nat) (b : Nat)
    (piece : Nat → Nat → List Nat) : List Nat :=
  let start := (shiftPoly p.q nb (2 * 2 ^ nb - b % (2 * 2 ^ nb)) lut, zeroLimb nb)
  let acc := (List.range (2 ^ nb)).foldl (fun (t : List Nat × List Nat) e =>
    if shiftPoly p.q nb (a.getD e 0) t.1 = t.1 ∧ shiftPoly p.q nb (a.getD e 0) t.2 = t.2 then t
    else
      let x := externalProduct s k p prime nb digits e (piece e)
      (addLimb p t.1 x.1, addLimb p t.2 x.2)) start
  (List.range (2 ^ nb)).map (lweWord secretSign p.q (2 ^ nb) (fun e => acc.2.getD e 0) 0) ++ [acc.1.getD 0 0]

end Sys2Proof.Machine
end

