-- ==== Sys2Proof/Machine/HePlan.lean ====
section
/-! DEFINITION. Homomorphic commands: what the command tables say of each operation, the records a command reads, and the checks of
R393 (09_homomorphic_operations, R384 to R400, R402, R406 to R413, R415). -/

namespace Sys2Proof.Machine

open Sys2Proof

/-! ## The command tables (R395, R396) -/

/-- What R395 and R396 say of an operation. Domains: `some true` NTT, `some false` coefficient, `none` either. -/
structure HeInfo where
  schemes : List Nat
  ctA : Bool
  ctB : Bool
  pt : Bool
  scratch : Bool
  inPlace : Bool
  /-- polynomial counts that its ciphertext sources may have -/
  polys : List Nat
  source : Option Bool
  result : Option Bool
  noise : Option Nat
  deriving DecidableEq, Repr

def anyScheme : List Nat := [0, 1, 2]

/-- Operation `op`. `HADD` and `HSUB` need sources of one polynomial count, and the operations that switch keys two polynomials:
the table states counts for some rows only. DEDUCED (log 101). -/
def heInfo (op : Nat) : HeInfo :=
  match op with
  | 0x01 | 0x02 => ⟨anyScheme, true, true, false, false, true, [2, 3], none, none, some 0⟩
  | 0x03 => ⟨anyScheme, true, false, false, false, true, [2, 3], none, none, some 0⟩
  | 0x04 => ⟨anyScheme, true, false, true, false, true, [2, 3], none, none, some 0⟩
  | 0x05 => ⟨anyScheme, true, false, true, false, true, [2, 3], some true, some true, some 1⟩
  | 0x06 => ⟨[0], true, false, false, false, true, [2, 3], some true, some true, some 1⟩
  | 0x07 => ⟨anyScheme, true, false, false, false, true, [2, 3], none, none, some 2⟩
  | 0x08 => ⟨[0, 2], true, true, false, false, false, [2], some true, some true, some 3⟩
  | 0x09 => ⟨anyScheme, true, false, false, true, true, [3], some true, some true, some 4⟩
  | 0x0A => ⟨[0], true, false, false, false, true, [2, 3], some true, some true, none⟩
  | 0x0B => ⟨[1, 2], true, false, false, false, true, [2, 3], some true, some true, some 6⟩
  | 0x0C => ⟨[0], true, false, false, false, true, [2, 3], none, none, none⟩
  | 0x0D => ⟨anyScheme, true, false, false, true, true, [2], some true, some true, some 5⟩
  | 0x0E => ⟨anyScheme, true, false, false, false, true, [2, 3], some false, some true, none⟩
  | 0x0F => ⟨anyScheme, true, false, false, false, true, [2, 3], some true, some false, none⟩
  | 0x10 => ⟨[0], true, false, false, false, false, [2, 3], some false, some true, none⟩
  | 0x11 => ⟨[0], true, false, false, true, true, [2], some true, some true, none⟩
  | 0x20 => ⟨[0], true, false, false, true, false, [2], some false, none, none⟩
  | 0x21 => ⟨anyScheme, false, false, false, false, false, [], none, none, none⟩
  | _ => ⟨anyScheme, false, false, false, true, false, [], none, some true, none⟩

/-- The command reads a 64 B record at `aux`. -/
def auxRecord (op : Nat) : Bool := [0x04, 0x05, 0x06, 0x11, 0x20, 0x21, 0x22].contains op
/-- The record at `aux` is a bridge record. -/
def isBridge (op : Nat) : Bool := decide (0x20 ≤ op)
/-- The result is an LWE array (R395). -/
def arrayResult (op : Nat) : Bool := op == 0x20 || op == 0x21
/-- Element-wise commands (R414): those whose result words each take the words of one place. DEDUCED (log 124). -/
def elementwise (op : Nat) : Bool := [0x01, 0x02, 0x03, 0x04, 0x05, 0x07, 0x08, 0x0C].contains op

/-! ## What a command has before it -/

/-- A command with what its records say: the record's fields, the descriptors, the record at `aux`, the key set named, and the
entries of a diagonal table with their plaintext records. -/
structure HePlan where
  x : Nat
  part : Nat
  op : Nat
  arg : Nat
  dst : Nat
  srcA : Nat
  srcB : Nat
  auxAt : Nat
  a : Desc
  b : Desc
  d : Desc
  aux : List Byte
  ks : Option KeySet
  diag : List (Nat × Nat)
  pts : List (List Byte)
  deriving DecidableEq, Repr

/-- The plaintext record at `aux` (R397). -/
def HePlan.pt (h : HePlan) : Desc := descOf h.aux

/-- Bridge-record fields (R406). -/
def HePlan.nb (h : HePlan) : Nat := bits (recWord h.aux 0) 47 43
def HePlan.bridgePrime (h : HePlan) : Nat := bits (recWord h.aux 0) 39 32
def HePlan.outLevel (h : HePlan) : Nat := bits (recWord h.aux 0) 21 16
/-- `baby` of a diagonal table (R400), and the fields of a weight record (R398). -/
def HePlan.baby (h : HePlan) : Nat := bits (recWord h.aux 0) 23 16
def HePlan.enc (h : HePlan) : EncMod := EncMod.of (BitVec.ofNat 18 (recWord h.aux 0))
def HePlan.weightCount (h : HePlan) : Nat := bits (recWord h.aux 2) 31 0
/-- Bytes of a weight record's values and scales. -/
def HePlan.weightBytes (h : HePlan) : Nat := if h.enc.vtype = 1 then (h.weightCount + 1) / 2 else h.weightCount
def HePlan.scaleBytes (h : HePlan) : Nat := (h.weightCount + 32 * 2 ^ h.enc.group - 1) / (32 * 2 ^ h.enc.group) * 4

/-- The key set's tag that a command names: the bridge record's, or its first source's. -/
def HePlan.tag (h : HePlan) : Nat := if isBridge h.op then recWord h.aux 1 else h.a.tag

/-- The 64 B at `src_a`, `src_b`, `aux` and `dst`, where the command has a record there, with the code of each. -/
def heInputs (s : State) (x p : Nat) (t : Taken) : List (Nat × List Byte) :=
  let i := heInfo t.op
  let at_ := fun (use : Bool) (va : Nat) => if use then vaRead s p (.unit x) va 64 else (0, List.replicate 64 0)
  [at_ i.ctA (bits (t.word 2) 47 0), at_ i.ctB (bits (t.word 3) 47 0), at_ (auxRecord t.op) (bits (t.word 4) 47 0),
    at_ (!arrayResult t.op) (bits (t.word 1) 47 0)]

/-- The plan of a taken command from those records. -/
def hePlan (s : State) (x p : Nat) (t : Taken) (l : List (List Byte)) : HePlan :=
  let aux := l.getD 2 []
  let at_ := bits (t.word 4) 47 0
  let n := if t.op = 0x11 then bits (recWord aux 0) 15 0 else 0
  let es := if n ≤ 1024 then (vaRead s p (.unit x) (at_ + 64) (16 * n)).2 else []
  let diag := (List.range (es.length / 16)).map fun e =>
    (leNat ((es.drop (16 * e)).take 4), bits (leNat ((es.drop (16 * e + 8)).take 8)) 47 0)
  let h : HePlan := ⟨x, p, t.op, t.word 5, bits (t.word 1) 47 0, bits (t.word 2) 47 0, bits (t.word 3) 47 0, at_,
    descOf (l.getD 0 []), descOf (l.getD 1 []), descOf (l.getD 3 []), aux, none, diag,
    diag.map fun e => (vaRead s p (.unit x) e.2 64).2⟩
  { h with ks := findKeySet s (some p) h.tag }

/-- The key set, where there is one. -/
def HePlan.set (h : HePlan) : KeySet := h.ks.getD (keyHeader h.part fun _ => 0)

/-- P and K of the key set, and log2 N and level of the ciphertext result. -/
def HePlan.primes (s : State) (h : HePlan) : Nat := match h.ks with | some k => chainPrimes s k.chain | none => 0
def HePlan.special (h : HePlan) : Nat := match h.ks with | some k => k.special | none => 0
def HePlan.logn (h : HePlan) : Nat :=
  if (heInfo h.op).ctA then h.a.logn else match h.ks with | some k => k.logn | none => 0
/-- Levels that the command consumes (R396). -/
def HePlan.consumed (h : HePlan) : Nat :=
  if h.op = 0x0A ∨ h.op = 0x0B then 1 else if h.op = 0x0C then bits h.arg 5 0 else 0
def HePlan.level (h : HePlan) : Nat :=
  if h.op = 0x10 then bits h.arg 5 0 else if h.op = 0x22 then h.outLevel else h.a.level - h.consumed
def HePlan.polys (h : HePlan) : Nat := if h.op = 0x08 then 3 else if h.op = 0x09 ∨ h.op = 0x22 then 2 else h.a.polys
def HePlan.chain (h : HePlan) : Nat :=
  if (heInfo h.op).ctA then h.a.chain else match h.ks with | some k => k.chain | none => 0

/-! ## Address ranges -/

/-- A range of device virtual addresses. -/
abbrev VRange := Nat × Nat

/-- The limbs of the first `limbs` primes of a descriptor's polynomials. -/
def Desc.ranges (d : Desc) (polys limbs logn : Nat) : List VRange :=
  ([d.base0, d.base1, d.base2].take polys).flatMap fun b => (List.range limbs).map fun i => (b + i * d.stride, 8 * 2 ^ logn)

/-- Bytes of a sample that `HBEXT` writes (R409), and of one that `HBPBS` writes (R410). -/
def HePlan.extBytes (h : HePlan) : Nat := 2 * (2 ^ h.nb + 32)
def HePlan.pbsBytes (h : HePlan) : Nat := 8 * (2 ^ h.nb + 8)
def HePlan.samples (h : HePlan) : Nat := bits h.arg 31 0

/-- The result's ranges, but for its descriptor. -/
def HePlan.resultRanges (h : HePlan) : List VRange :=
  if h.op = 0x20 then [(h.dst, h.samples * h.extBytes)]
  else if h.op = 0x21 then [(h.dst, h.samples * h.pbsBytes)]
  else h.d.ranges h.polys (h.level + 1) h.logn

/-- Scratch: the limbs of R402. `HLINT` and `HBREPACK` run `HROT`'s pipeline and `HBEXT` that of `HRELIN`. DEDUCED (log 102). -/
def HePlan.scratchRange (h : HePlan) : List VRange :=
  let l := if h.op = 0x22 then h.outLevel else h.a.level
  let n := if h.op = 0x09 ∨ h.op = 0x20 then 2 * (l + 1) + 2 * (l + 1 + h.special) else (l + 1) + 2 * (l + 1 + h.special)
  if (heInfo h.op).scratch then [(h.srcB, n * (8 * 2 ^ h.logn))] else []

/-- A source's data: its ranges, in the order of R843. -/
def HePlan.sources (h : HePlan) : List (List VRange) :=
  let i := heInfo h.op
  (if i.ctA then [h.a.ranges h.a.polys h.a.limbs h.a.logn] else
    [[(h.srcA, h.samples * if h.op = 0x21 then h.extBytes else h.pbsBytes)]]) ++
  (if i.ctB then [h.b.ranges h.b.polys h.b.limbs h.b.logn] else []) ++
  (if i.pt then [h.pt.ranges 1 h.a.limbs h.pt.logn] else []) ++
  (match h.op with
    | 0x06 => [[(bits (recWord h.aux 1) 47 0, h.weightBytes)], [(bits (recWord h.aux 3) 47 0, h.scaleBytes)]]
    | 0x07 => [[(h.auxAt, 8 * h.a.limbs)]]
    | 0x11 => h.pts.map fun r => (descOf r).ranges 1 h.a.limbs (descOf r).logn
    | 0x21 => [[(bits (recWord h.aux 2) 47 0, 8 * 2 ^ h.nb)]]
    | _ => [])

/-- Two lists of ranges share a byte. -/
def rangesShare (l m : List VRange) : Bool :=
  l.any fun a => m.any fun b => decide (a.1 < b.1 + b.2 ∧ b.1 < a.1 + a.2)

/-- The result coincides with `src_a` (R394). -/
def HePlan.coincides (h : HePlan) : Bool :=
  h.d.stride == h.a.stride && ([h.d.base0, h.d.base1, h.d.base2].take h.polys) == ([h.a.base0, h.a.base1, h.a.base2].take h.polys)

/-- Result limbs overlap a source or the scratch area other than as R394 allows. -/
def HePlan.overlapBad (h : HePlan) : Bool :=
  let i := heInfo h.op
  let r := h.resultRanges
  let others := if i.ctA && i.inPlace && h.coincides then h.sources.tail else h.sources
  others.any (rangesShare r) || rangesShare r h.scratchRange

/-! ## The first stage (R393) -/

/-- The command returns 0x0105. A range of samples past N (R409), a count above N (R412), a weight count above N/2 (R398) and a
drop of no level (R395) are among its causes; the last is DEDUCED (log 103). `known`: the descriptors could be read. -/
def HePlan.badRecord (s : State) (h : HePlan) (t : Taken) (known : Bool) : Bool :=
  let i := heInfo h.op
  let cs := t.cores h.x
  let cts := (if i.ctA then [h.a] else []) ++ (if i.ctB then [h.b] else [])
  !t.checks || cs.isEmpty || decide (bits (rd s (E.core_mode + h.x)) 24 0 &&& bits (t.word 0) 24 0 ≠ 0) ||
  known && (cts.any (fun d => d.scheme != 3 && (!i.schemes.contains d.scheme || (2 ≤ d.polys && !i.polys.contains d.polys))) ||
    (i.ctB && h.a.polys != h.b.polys) || (i.ctA && !isBridge h.op && decide (h.a.logn < 12)) || h.overlapBad ||
    (h.op == 0x06 && decide (2 ^ (h.a.logn - 1) < h.weightCount)) || (h.op == 0x0C && h.consumed == 0) ||
    (h.op == 0x20 && decide (2 ^ h.a.logn < bits h.arg 63 32 + h.samples)) || (h.op == 0x22 && h.ks.isSome && decide (2 ^ h.logn < h.samples)))

/-! ## The second stage -/

/-- A plaintext record is valid (R397). -/
def ptValid (s : State) (l : List Byte) : Bool :=
  let d := descOf l
  let n := chainPrimes s d.chain
  checkOk l && d.scheme != 3 && d.polys == 1 && decide (10 ≤ d.logn ∧ d.logn ≤ 17 ∧ 1 ≤ d.limbs ∧ d.limbs ≤ 64 ∧ d.limbs = d.level + 1) &&
  n != 0 && decide (d.logn ≤ chainLogn s d.chain ∧ d.limbs ≤ n ∧ d.base0 % 64 = 0 ∧ d.stride % 64 = 0 ∧ 8 * 2 ^ d.logn ≤ d.stride)

/-- A bridge record is valid (R406). What it says of q_b holds once its key set is known. -/
def HePlan.bridgeValid (s : State) (h : HePlan) : Bool :=
  let w := recWord h.aux 0
  let digits := bits w 31 28
  checkOk h.aux && bits w 63 48 == 0x4252 && decide (10 ≤ h.nb ∧ h.nb ≤ 12 ∧ 1 ≤ digits ∧ digits ≤ 8) && digits * 2 ^ h.nb % 4096 == 0 &&
  match h.ks with
    | none => true
    | some k =>
      let b := bitLen (chainPrime s k.chain h.bridgePrime)
      decide (h.bridgePrime < chainPrimes s k.chain ∧ b ≤ 61 ∧ b ≤ digits * bits w 27 22)

/-- A diagonal table's header and entries (R400). -/
def HePlan.tableValid (s : State) (h : HePlan) : Bool :=
  checkOk h.aux && decide (1 ≤ bits (recWord h.aux 0) 15 0 ∧ bits (recWord h.aux 0) 15 0 ≤ 1024 ∧ 1 ≤ h.baby ∧ h.baby ≤ 64) &&
  h.diag.all (fun e => decide (e.1 < 2 ^ (h.a.logn - 1))) && h.pts.all (ptValid s)

/-- The four fields taken from `dst` obey R341 (R391). -/
def HePlan.resultPlaced (h : HePlan) : Bool :=
  ([h.d.base0, h.d.base1, h.d.base2].take h.polys).all (· % 64 == 0) && h.d.stride % 64 == 0 && decide (8 * 2 ^ h.logn ≤ h.d.stride)

/-- Every descriptor and record is valid; records stand at multiples of 64. A weight record whose `enc` fits no encoding, or
another N, counts as invalid. DEDUCED (log 104). -/
def HePlan.valid (s : State) (h : HePlan) (l : List (List Byte)) : Bool :=
  let i := heInfo h.op
  (!i.ctA || (h.srcA % 64 == 0 && descValid s (l.getD 0 []))) && (!i.ctB || (h.srcB % 64 == 0 && descValid s (l.getD 1 []))) &&
  (!auxRecord h.op || h.auxAt % 64 == 0) && (!i.pt || ptValid s h.aux) &&
  (h.op != 0x06 || (checkOk h.aux && h.enc.ok && h.enc.n == h.a.logn)) && (h.op != 0x11 || h.tableValid s) &&
  (!isBridge h.op || h.bridgeValid s) && (arrayResult h.op || (h.dst % 64 == 0 && h.resultPlaced))

/-! ## The third stage -/

/-- L(q): the integer nearest 256 · log2 q (R347). -/
def scaleOf (q : Nat) : Nat := (Nat.log2 (q ^ 512) + 1) / 2

/-- The scale of a CKKS result (R347, R396). -/
def HePlan.scale (s : State) (h : HePlan) : Int :=
  match h.op with
  | 0x05 => h.a.scale + h.pt.scale
  | 0x06 => h.a.scale + 256 * h.enc.e
  | 0x07 => h.a.scale + bits h.arg 15 0
  | 0x08 => h.a.scale + h.b.scale
  | 0x0A => (h.a.scale : Int) - scaleOf (chainPrime s h.a.chain h.a.level)
  | 0x11 => h.a.scale + bits (recWord h.aux 0) 47 32
  | 0x22 => bits (recWord h.aux 0) 15 0
  | _ => h.a.scale

/-- The noise budget after a BFV or BGV operation (R348). -/
def HePlan.budget (h : HePlan) : Int :=
  let m := if (heInfo h.op).ctB then min h.a.budget h.b.budget else h.a.budget
  match (heInfo h.op).noise with
  | some c => (m : Int) - ((h.ks.map fun k => bits k.costs (8 * c + 7) (8 * c)).getD 0 : Nat)
  | none => m

/-- The keys that the command needs (R356, R395, R400, R407, R412). A rotation by 0 needs none. -/
def HePlan.keys (h : HePlan) : List (Nat × Nat) :=
  let m := 2 ^ (h.logn + 1)
  match h.op with
  | 0x09 => [(1, 0)]
  | 0x0D => [(0, bits h.arg 31 0)]
  | 0x11 => h.diag.flatMap fun e =>
      (if e.1 % h.baby = 0 then [] else [(0, powMod m 5 (e.1 % h.baby))]) ++
      (if e.1 / h.baby = 0 then [] else [(0, powMod m 5 (e.1 / h.baby * h.baby))])
  | 0x20 => [(2, 1)]
  | 0x21 => [(2, 0)]
  | 0x22 => (2, 2) :: ((List.range (h.logn + 1)).filter (h.nb + 1 ≤ ·)).map fun j => (0, 2 ^ j + 1)
  | _ => []

/-- The command has a key operand. -/
def HePlan.usesKeys (h : HePlan) : Bool := isBridge h.op || !h.keys.isEmpty

/-- The command takes something from its key set: keys, the cost of its noise class, or the bound of `HRAISE` (R348, R396). -/
def HePlan.needsSet (h : HePlan) : Bool :=
  h.usesKeys || h.op == 0x10 || ((heInfo h.op).ctA && h.a.scheme != 0 && (heInfo h.op).noise.isSome)

/-- The level must leave the special primes (R368, R396). -/
def HePlan.levelOver (s : State) (h : HePlan) : Bool :=
  match h.op with
  | 0x09 | 0x0D | 0x11 | 0x20 => h.ks.isSome && decide (h.primes s < h.a.level + h.special + 1)
  | 0x10 | 0x22 => h.ks.isSome && decide (h.primes s < h.level + h.special + 1)
  | _ => false

/-- Modulus sets differ, a plaintext's level is too low, or a required level is not met (R346, R368, R396, R397). -/
def HePlan.setsDiffer (s : State) (h : HePlan) : Bool :=
  let i := heInfo h.op
  let low := fun (d : Desc) => d.chain != h.a.chain || d.logn != h.a.logn || decide (d.level < h.a.level)
  (i.ctB && (h.a.chain != h.b.chain || h.a.logn != h.b.logn || h.a.level != h.b.level)) || (i.pt && low h.pt) ||
  (h.op == 0x11 && h.pts.any fun r => low (descOf r)) ||
  (i.ctA && h.usesKeys && match h.ks with | some k => k.chain != h.a.chain || k.logn != h.a.logn | none => false) ||
  ((h.op == 0x10 || h.op == 0x20) && h.a.level != 0) || h.levelOver s

/-- A source is not in the domain required (R396). -/
def HePlan.wrongDomain (h : HePlan) : Bool :=
  let i := heInfo h.op
  let is := fun (d : Desc) (b : Bool) => d.domain == if b then 1 else 0
  match i.source with
  | some b => (i.ctA && !is h.a b) || (i.ctB && !is h.b b) || (i.pt && !is h.pt b) || (h.op == 0x11 && h.pts.any fun r => !is (descOf r) b)
  | none => (i.ctB && h.a.domain != h.b.domain) || (i.pt && h.a.domain != h.pt.domain)

/-- The scale breaks R347. -/
def HePlan.wrongScale (s : State) (h : HePlan) : Bool :=
  let v := h.scale s
  let i := heInfo h.op
  (if i.ctA then h.a.scheme == 0 else true) && (decide (v < 0 ∨ 65535 < v) || ((h.op == 1 || h.op == 2) && h.a.scale != h.b.scale) ||
    (h.op == 4 && h.a.scale != h.pt.scale))

/-- Some range fails translation or protection. -/
def badRange (s : State) (x p : Nat) (n : Need) (l : List VRange) : Bool :=
  l.any fun r => r.2 != 0 && (vaRange s p (.unit x) n r.1 r.2).1 != 0

/-- The command's addresses, all but its records'. -/
def HePlan.addressBad (s : State) (h : HePlan) (t : Taken) : Bool :=
  badRange s h.x h.part .read h.sources.flatten || badRange s h.x h.part .write h.resultRanges ||
  badRange s h.x h.part .read h.scratchRange || badRange s h.x h.part .write h.scratchRange ||
  (h.op == 0x11 && badRange s h.x h.part .read ((h.auxAt + 64, 16 * bits (recWord h.aux 0) 15 0) :: h.diag.map fun e => (e.2, 64))) ||
  badRange s h.x h.part .write (if arrayResult h.op then [] else [(h.dst, 64)]) ||
  badRange s h.x h.part .write (if t.completion = 0 then [] else [(t.completion, 32)])

/-- A laced key-switch finds its ring running, filled with the key it needs (R393, R403). -/
def HePlan.laceBad (s : State) (h : HePlan) : Bool :=
  let l := lace s (bits h.arg 37 32)
  (h.op == 0x09 || h.op == 0x0D) && bit h.arg 40 &&
    !(laceRuns s (bits h.arg 37 32) && l.fill == 1 && l.source == h.tag && h.keys.contains (l.kind, l.galois))

/-- The places that the result and its descriptor write, by address. -/
def HePlan.writePlaces (s : State) (h : HePlan) : List (Nat × Nat × Nat) :=
  (h.resultRanges ++ if arrayResult h.op then [] else [(h.dst, 64)]).flatMap fun (r : VRange) => (vaRange s h.part (.unit h.x) .write r.1 r.2).2

/-- Bytes of core memory that the result writes on core c (R415). -/
def HePlan.coreBytes (s : State) (h : HePlan) (c : Nat) : Nat :=
  (h.writePlaces s).foldl (fun n (e : Nat × Nat × Nat) => if ownCm c e.1 then n + e.2.2 else n) 0

/-- The granules that the result would take in shadow, each once (R502). -/
def HePlan.granules (s : State) (h : HePlan) : List Nat :=
  ((h.writePlaces s).flatMap fun e =>
    let g := granuleSize e.1
    (List.range ((e.1 % g + e.2.2 + g - 1) / g)).map fun i => e.1 - e.1 % g + g * i).eraseDups

/-- Some storage has less shadow than the result's writes need (R415, R501, R510). -/
def HePlan.overShadow (s : State) (h : HePlan) : Bool :=
  let l := (h.granules s).map storageOf
  l.eraseDups.any fun st => decide (shadowCap s st < l.count st)

/-- The conditions on a command's group (R393, R415). -/
def HePlan.groupCodes (s : State) (h : HePlan) (t : Taken) : List Nat :=
  if !bit (t.word 0) 54 then []
  else
    (if ((List.range 800).any fun c => decide (262144 < h.coreBytes s c)) || h.overShadow s then [0x0501] else []) ++
    (match findGroup s none t.group with
      | some g => if g.state = 1 ∧ g.part = h.part then [] else [0x0507]
      | none => [0x0507])

/-- The codes of the third stage that apply. -/
def HePlan.codes (s : State) (h : HePlan) (t : Taken) (prov : Nat) : List Nat :=
  let on := fun (b : Bool) (c : Nat) => if b then [c] else []
  let i := heInfo h.op
  on (decide (h.a.level < h.consumed)) 0x0201 ++ on (i.ctA && h.a.scheme != 0 && decide (h.budget < 1)) 0x0202 ++
  on (i.ctB && h.a.tag != h.b.tag) 0x0203 ++ on (h.setsDiffer s) 0x0206 ++ on h.wrongDomain 0x0207 ++
  on (h.needsSet && (h.ks.isNone || h.keys.any fun k => ((h.ks.bind fun v => v.key k.1 k.2).isNone))) 0x0209 ++
  on (h.wrongScale s) 0x020A ++ on (h.addressBad s t || prov != 0) 0x0302 ++ on (h.laceBad s) 0x0305 ++ h.groupCodes s t

/-! ## The passes over keys (R403, R407, R412, R413) -/

/-- The primes whose chunks core c takes in a key-switch: its own limbs and special primes, at set position p of n (R392, R403). -/
def HePlan.corePrimes (s : State) (h : HePlan) (n p : Nat) : List Nat :=
  let l := if h.op = 0x22 then h.outLevel else h.a.level
  (List.range (l + 1)).filter (· % n == p) ++
    ((List.range h.special).filter (· % n == p)).map (h.primes s - h.special + ·)

/-- The passes over keys that the kernel makes on the core at set position p of n: a laced key-switch takes each digit by
itself, and `HBPBS` its key once for each batch of 32 samples. That `HLINT` and the bridge commands take their keys one after
another through a context of this kind is DEDUCED (log 196). -/
def HePlan.passes (s : State) (h : HePlan) (n p : Nat) : List KeyPass :=
  let level := if h.op = 0x22 then h.outLevel else h.a.level
  let digits := fun k => ((h.ks.bind fun v => v.key k.1 k.2).map KeyInfo.digits).getD 0
  let pass := fun (l : List Nat) (k : Nat × Nat) (first count : Nat) (ring : Option Nat) =>
    (⟨h.tag, h.chain, h.logn, level, k.1, k.2, l, first, count, ring⟩ : KeyPass)
  let l := h.corePrimes s n p
  if h.op = 0x21 then
    let per := (h.samples + n - 1) / n
    List.replicate ((min per (h.samples - p * per) + 31) / 32)
      { pass [h.bridgePrime] (2, 0) 0 (digits (2, 0)) none with level := h.primes s - h.special - 1 }
  else if l.isEmpty then []
  else if (h.op = 0x09 ∨ h.op = 0x0D) ∧ bit h.arg 40 then
    (List.range (digits (h.keys.headD (0, 0)))).map fun d => pass l (h.keys.headD (0, 0)) d 1 (some (bits h.arg 37 32))
  else h.keys.eraseDups.map fun k => pass l k 0 (digits k) none

/-- The first failing check of R393, 0 when none fails. A record that cannot be read fails with 0x0302 once the record's own checks
have passed. DEDUCED (log 105). -/
def HePlan.check (s : State) (h : HePlan) (t : Taken) (l : List (Nat × List Byte)) (prov : Nat) : Nat :=
  let known := l.all (·.1 == 0)
  if h.badRecord s t known then 0x0105
  else if !known then 0x0302
  else if !h.valid s (l.map Prod.snd) then 0x0208
  else ((h.codes s t prov).min?).getD 0

end Sys2Proof.Machine
end

