-- ==== Sys2Proof/Machine/He.lean ====
section
/-! DEFINITION. Homomorphic commands: their start, their results, the end of their kernels, and `he_abort` (R386 to R392, R395 to
R417, R842, R843). -/

namespace Sys2Proof.Machine

open Sys2Proof

/-! ## Completion -/

/-- A homomorphic command leaves its ring; a failure is counted and recorded (R390, R393, R416). -/
def finishHe (s : State) (x k : Nat) (t : Taken) (status faults limbs beats : Nat) (tail : List Byte) : State :=
  let s := if status = 0 then s else noteHeFault s x t status faults
  finishProv s x k t status (completionRecord s t status faults limbs beats) tail

/-- A command that fails its checks, or is aborted while it waits: nothing is written but its completion record. -/
def refuseHe (s : State) (x k : Nat) (t : Taken) (status : Nat) : State :=
  finishHe { s with freeCtr := s.freeCtr + 1 } x k { t with prov := none } status 0 0 (plainBeats s) []

/-! ## Free memory -/

/-- Bytes of a range take free values, but for those whose keys are kept. -/
def scramble (s : State) (lo n : Nat) (keep : Nat → Bool) : State :=
  let d := ((List.range n).map (lo + ·)).map fun k => if keep k then rdByte s k else BitVec.ofNat 8 (openValue 68 s.freeCtr k)
  { s with
    mem := putBytes s.mem lo d
    poison := s.poison.filter fun e => decide (e.1 < lo ∨ lo + n ≤ e.1) || keep e.1
    flips := s.flips.filter fun e => decide (e.1 < lo ∨ lo + n ≤ e.1) || keep e.1
    freeCtr := s.freeCtr + 1 }

/-! ## Start (R386 to R388, R842, R843) -/

/-- The kernel of an operation: `HROT` and `HRELIN` share one. -/
def kernelOf (op : Nat) : Nat := if op = 0x09 then 0x0D else op

/-- The kernel is in the front bank of core c, whose words no rule gives (R387). -/
def loadKernel (op : Nat) (s : State) (c : Nat) : State :=
  if (core s c).kernel = some (kernelOf op) then s
  else
    let s := scramble s (Mem.prog c (core s c).front 0) 131072 (fun _ => false)
    setCore s c { core s c with kernel := some (kernelOf op) }

/-- A record with every address field, `stride`, `user` and `check` set to 0 (R843 item 4). -/
def scrubRecord (op slot : Nat) (r : List Byte) : List Byte :=
  let w := fun i => recWord r i
  let top := fun i => w i / 2 ^ 48 * 2 ^ 48
  let tail := leBytes 8 (w 7 % 2 ^ 32)
  if slot < 2 ∨ op = 0x04 ∨ op = 0x05 ∨ slot = 3 then
    (r.take 16) ++ leBytes 8 (top 2) ++ leBytes 8 (top 3) ++ leBytes 8 (top 4) ++ leBytes 8 (top 5) ++ leBytes 8 0 ++ tail
  else if op = 0x06 then r.take 8 ++ leBytes 8 (top 1) ++ (r.drop 16).take 8 ++ leBytes 8 (top 3) ++ (r.drop 32).take 24 ++ tail
  else if op = 0x11 then r.take 56 ++ tail
  else r.take 16 ++ leBytes 8 (top 2) ++ (r.drop 24).take 32 ++ tail

/-- The digest of a source's data (R843 item 5). -/
def sourceDigest (s : State) (h : HePlan) (l : List VRange) : List Byte :=
  sm3 (l.flatMap fun r => (vaRead s h.part (.unit h.x) r.1 r.2).2)

/-- What a provenance digest is taken over, up to the result (R843). -/
def heMaterial (s : State) (h : HePlan) (t : Taken) (l : List (List Byte)) : List Byte :=
  let i := heInfo h.op
  let recs := (if i.ctA then [scrubRecord h.op 0 (l.getD 0 [])] else []) ++ (if i.ctB then [scrubRecord h.op 1 (l.getD 1 [])] else []) ++
    (if auxRecord h.op then [scrubRecord h.op 2 h.aux] else []) ++ h.pts.map (scrubRecord h.op 3)
  entryBytes s E.running_digest ++ leBytes 32 (kernelDigest (kernelOf h.op)) ++ t.record.take 8 ++ (t.record.drop 40).take 8 ++
    recs.flatten ++ (if rd s (E.prov_mode + h.part) = 2 then h.sources.flatMap (sourceDigest s h) else []) ++ leBytes 8 h.tag

/-- The command has passed its checks: its kernel starts on every core of its set, and its key contexts open (R403). -/
def runHe (s : State) (x k : Nat) (t : Taken) (h : HePlan) (l : List (List Byte)) (prov : Bool) : State :=
  let cs := t.cores x
  let loaded := cs.any fun c => (core s c).kernel != some (kernelOf h.op)
  let t' := { t with
    started := true, startTime := now s, startStep := rd s E.step_counter, loaded := loaded, nd := rd s (E.nd_count + h.part)
    inputs := l, prov := if prov then some (heMaterial s h t l) else none }
  let s := cs.foldl (fun u c => startCore u c 0) (cs.foldl (loadKernel h.op) (setTaken s x k t t'))
  (cs.zipIdx).foldl (fun u e => openPass (onCore u e.1 fun k => { k with passes := h.passes u cs.length e.2 }) e.1) s

/-- The next command of a ring, of operation `op`, starts once its cores are halted; or it fails its checks. -/
def heStart (s : State) (x k : Nat) (t : Taken) : State :=
  let p := ringPart s x
  let l := heInputs s x p t
  let h := hePlan s x p t (l.map Prod.snd)
  let pv := provPlan s x p t
  if (t.cores x).any fun c => (core s c).running then s
  else
    let c := h.check s t l pv.2
    if c = 0 ∧ !keysReady s (t.cores x) then s
    else
      let s := inc (countSec s x 0x106 1) (E.he_command_count + x)
      if c = 0 then runHe s x k t h (l.map Prod.snd) pv.1
      else refuseHe (if c = 0x0208 then inc s (E.descriptor_invalid_count + x) else s) x k t c

def heCommand (op : Nat) (s : State) (x k : Nat) : Res :=
  guarded (decide (x < 32 ∧ k < 8)) s (match nextOp s x k op with | some t => heStart s x k t | none => s)

def execHadd (x k : Nat) (s : State) : Res := heCommand 0x01 s x k
def execHsub (x k : Nat) (s : State) : Res := heCommand 0x02 s x k
def execHneg (x k : Nat) (s : State) : Res := heCommand 0x03 s x k
def execHaddp (x k : Nat) (s : State) : Res := heCommand 0x04 s x k
def execHmulp (x k : Nat) (s : State) : Res := heCommand 0x05 s x k
def execHmulw (x k : Nat) (s : State) : Res := heCommand 0x06 s x k
def execHmulc (x k : Nat) (s : State) : Res := heCommand 0x07 s x k
def execHmul (x k : Nat) (s : State) : Res := heCommand 0x08 s x k
def execHrelin (x k : Nat) (s : State) : Res := heCommand 0x09 s x k
def execHrescale (x k : Nat) (s : State) : Res := heCommand 0x0A s x k
def execHmodsw (x k : Nat) (s : State) : Res := heCommand 0x0B s x k
def execHdrop (x k : Nat) (s : State) : Res := heCommand 0x0C s x k
def execHrot (x k : Nat) (s : State) : Res := heCommand 0x0D s x k
def execHtontt (x k : Nat) (s : State) : Res := heCommand 0x0E s x k
def execHtocoef (x k : Nat) (s : State) : Res := heCommand 0x0F s x k
def execHraise (x k : Nat) (s : State) : Res := heCommand 0x10 s x k
def execHlint (x k : Nat) (s : State) : Res := heCommand 0x11 s x k
def execHbext (x k : Nat) (s : State) : Res := heCommand 0x20 s x k
def execHbpbs (x k : Nat) (s : State) : Res := heCommand 0x21 s x k
def execHbrepack (x k : Nat) (s : State) : Res := heCommand 0x22 s x k

/-! ## Results (R339, R395, R397 to R399, R405) -/

/-- Limb i of polynomial j of a descriptor. -/
def HePlan.limb (s : State) (h : HePlan) (d : Desc) (j i : Nat) : List Nat :=
  wordsOf (vaRead s h.part (.unit h.x) (([d.base0, d.base1, d.base2].getD j 0) + i * d.stride) (8 * 2 ^ d.logn)).2

/-- The weights of `HMULW`, encoded (R398). -/
def HePlan.weights (s : State) (h : HePlan) : List Nat × Nat :=
  let rd' := fun i n => (vaRead s h.part (.unit h.x) (bits (recWord h.aux i) 47 0) n).2
  encsOut h.enc h.weightCount (rd' 1 h.weightBytes) (rd' 3 h.scaleBytes)

/-- Words of a result that no rule gives: any residues, when the sources are residues (R339). -/
def freeLimb (s : State) (residues : Bool) (q n j i : Nat) : List Nat :=
  (List.range (2 ^ n)).map fun w => openValue 68 s.freeCtr ((j * 64 + i) * 2 ^ 20 + w) % if residues then q else 2 ^ 64

/-- Every word of the ciphertext sources' limbs is below its prime. -/
def HePlan.residues (s : State) (h : HePlan) : Bool :=
  let ok := fun (d : Desc) => (List.range d.polys).all fun j => (List.range d.limbs).all fun i =>
    (h.limb s d j i).all (· < chainPrime s d.chain i)
  (!(heInfo h.op).ctA || ok h.a) && (!(heInfo h.op).ctB || ok h.b)

/-- Limb i of result polynomial j, and whether a lane met an input of `q` or more (R307). -/
def HePlan.result (s : State) (h : HePlan) (residues : Bool) (weights : List Nat) (j i : Nat) : List Nat × Bool :=
  let p := chainEntryAt s h.chain i
  let n := h.a.logn
  let a' := fun j i => h.limb s h.a j i
  let a := fun j => a' j i
  let b := fun j => h.limb s h.b j i
  let el := fun (e : ElemOp) (k : Nat) (l : List (List Nat)) => elemWords e false p p k l
  let tr := fun (inv : Bool) (l : List Nat) => (transform 64 inv p n l, l.any (p.q ≤ ·))
  match h.op with
  | 0x01 => el eMadd 0 [a j, b j]
  | 0x02 => el eMsub 0 [a j, b j]
  | 0x03 => el eMneg 0 [a j]
  | 0x04 => if j = 0 then el eMadd 0 [a 0, h.limb s h.pt 0 i] else (a j, false)
  | 0x05 => el eMmul 0 [a j, h.limb s h.pt 0 i]
  | 0x06 =>
    let w := tr false (encrWords false p p weights)
    let r := el eMmul 0 [a j, w.1]
    (r.1, w.2 || r.2)
  | 0x07 => el eMmulk (leNat (vaRead s h.part (.unit h.x) (h.auxAt + 8 * i) 8).2) [a j]
  | 0x08 =>
    if j = 1 then
      let u := el eMmul 0 [a 0, b 1]
      let v := el eMmul 0 [a 1, b 0]
      let r := el eMadd 0 [u.1, v.1]
      (r.1, u.2 || v.2 || r.2)
    else el eMmul 0 [a (j / 2), b (j / 2)]
  | 0x0C => (a j, false)
  | 0x0E => tr false (a j)
  | 0x0F => tr true (a j)
  | 0x10 =>
    let q0 := chainPrime s h.a.chain 0
    let l := h.limb s h.a j 0
    if l.all (· < q0) then
      tr false (l.map fun w => (((w : Int) - if q0 < 2 * w then q0 else 0) % (p.q : Int)).toNat)
    else (freeLimb s false p.q n j i, true)
  | 0x09 => (relinearised s h.set h.level a' j i, !residues)
  | 0x0A => (dropPrime s h.chain n h.a.level (a' j) (fun w => -(openValue 198 s.freeCtr (j * 2 ^ 20 + w) % 2 : Nat)) i, !residues)
  | 0x0B => (dropPrime s h.chain n h.a.level (a' j) (fun w => signed 64 (openValue 198 s.freeCtr (j * 2 ^ 20 + w) % 2 ^ 64)) i, !residues)
  | 0x0D => (rotated s h.set (bits h.arg 31 0) h.level a' j i, !residues)
  | 0x11 => (diagonalSum s h.set h.level h.baby (List.zipWith (fun e r => (e.1, h.limb s (descOf r) 0)) h.diag h.pts) a' j i, !residues)
  -- `HBREPACK`: no rule gives the embedding of a sample in the ring, nor how its modulus becomes the level's
  | _ => (freeLimb s residues p.q h.logn j i, false)

/-- The descriptor of a ciphertext result (R343, R349, R391, R396). The `user` of a result that has no ciphertext source is free. -/
def HePlan.resultDesc (s : State) (h : HePlan) : Desc :=
  let i := heInfo h.op
  let scheme := if i.ctA then h.a.scheme else 0
  { scheme := scheme
    domain := match i.result with | some b => if b then 1 else 0 | none => h.a.domain
    polys := h.polys, logn := h.logn, limbs := h.level + 1, level := h.level, chain := h.chain
    budget := if scheme = 0 then 0 else h.budget.toNat
    scale := if scheme = 0 then (h.scale s).toNat else 0
    tag := h.tag, base0 := h.d.base0, base1 := h.d.base1, base2 := h.d.base2, stride := h.d.stride
    user := if i.ctA then h.a.user else openValue 69 s.freeCtr 0 % 2 ^ 64 }

/-- The words of sample z of `HBEXT` (R409): the source switched to the embedded bridge secret, and its coefficient split off and
switched to 2N_b. -/
def HePlan.extWords (s : State) (h : HePlan) (z : Nat) : List Nat :=
  let n := h.a.logn
  let p := chainEntryAt s h.chain 0
  let k := (h.set.key 2 1).getD ⟨0, 0, 0, 0, 0, 0⟩
  let r := keySwitch s h.set k 0 fun i => transform 64 false (chainEntryAt s h.chain i) n (h.limb s h.a 1 i)
  extractSample p.q n h.nb (addLimb p (h.limb s h.a 0 0) (transform 64 true p n (r 0 0))) (transform 64 true p n (r 1 0))
    (bits h.arg 63 32 + z) fun x => openValue 199 s.freeCtr (z * 2 ^ 16 + x + 1) % 2

/-- The words of sample z of `HBPBS` (R410). From a table word of q_b or more (R406) they are free below q_b. -/
def HePlan.pbsWords (s : State) (h : HePlan) (z : Nat) : List Nat :=
  let p := chainEntryAt s h.chain h.bridgePrime
  let k := (h.set.key 2 0).getD ⟨0, 0, 0, 0, 0, 0⟩
  let rd' := fun va n => (vaRead s h.part (.unit h.x) va n).2
  let lut := wordsOf (rd' (bits (recWord h.aux 2) 47 0) (8 * 2 ^ h.nb))
  let src := rd' (h.srcA + z * h.extBytes) h.extBytes
  let word := fun i => leNat ((src.drop (2 * i)).take 2)
  if lut.all (· < p.q) then
    bootstrapped s k p h.bridgePrime h.nb (bits (recWord h.aux 0) 31 28) lut ((List.range (2 ^ h.nb)).map word) (word (2 ^ h.nb))
      fun e r => (List.range (2 ^ h.nb)).map fun w => openValue 199 s.freeCtr (((z * 4096 + e) * 16 + r) * 4096 + w + 1) % p.q
  else (List.range (2 ^ h.nb + 1)).map fun i => openValue 68 s.freeCtr (z * 2 ^ 16 + i) % p.q

/-- The bytes of sample z of a bridge array (R409, R410). The seven words of an `HBPBS` sample past b are free: no rule gives
them. -/
def HePlan.sample (s : State) (h : HePlan) (z : Nat) : List Byte :=
  if h.op = 0x20 then (h.extWords s z).flatMap (leBytes 2) ++ List.replicate 62 0
  else bytesOf (h.pbsWords s z) ++
    (List.range 7).flatMap fun i => leBytes 8 (openValue 68 s.freeCtr (z * 2 ^ 16 + 4097 + i) % 2 ^ 64)

/-! ## The end of a kernel (R387 to R390, R414, R415) -/

/-- The code of a source range as a kernel meets it (R150, R202, R333): poison, lost memory. -/
def sourceCode (s : State) (p x : Nat) (r : VRange) : Nat :=
  let l := (vaRange s p (.unit x) .read r.1 r.2).2.map fun e =>
    if e.1 < 2 ^ 38 then (hbmStatus s e.1 e.2.2 .clean).1 else if poisoned s e.1 e.2.2 then 0x0303 else 0
  ((l.filter (· != 0)).min?).getD 0

/-- The first nonzero code, lowest first. -/
def lowest (l : List Nat) : Nat := ((l.filter (· != 0)).min?).getD 0

/-- The ranges that limb i of an element-wise result reads. -/
def HePlan.limbSources (h : HePlan) (i : Nat) : List VRange :=
  let at_ : Desc → Nat → List VRange := fun d n => ([d.base0, d.base1, d.base2].take n).map fun b => (b + i * d.stride, 8 * 2 ^ d.logn)
  at_ h.a h.a.polys ++ (if (heInfo h.op).ctB then at_ h.b h.b.polys else []) ++ (if (heInfo h.op).pt then at_ h.pt 1 else []) ++
    (if h.op = 0x07 then [(h.auxAt + 8 * i, 8)] else [])

/-- Limbs of the result, or shares of the samples, complete at the end (R390, R414): a mask. -/
def HePlan.complete (s : State) (h : HePlan) (t : Taken) (r : KernelReport) (status : Nat) : Nat :=
  let n := if arrayResult h.op then (t.cores h.x).length else h.level + 1
  let good := fun i => if status = 0 then true
    else if 0x0203 ≤ status ∧ status ≤ 0x0205 then false
    else if status = 0x0303 ∨ status = 0x0304 then elementwise h.op && (h.limbSources i).all fun v => sourceCode s h.part h.x v == 0
    else bit r.limbsDone.toNat i
  ((List.range n).filter good).foldl (fun m i => m + 2 ^ i) 0

/-- The result's data, with the mask of what is complete: its code, and the writes by address. The rest of a failed result is
free. -/
def HePlan.data (s : State) (h : HePlan) (t : Taken) (mask : Nat) : List (Nat × List Byte) × Bool :=
  let nc := (t.cores h.x).length
  if arrayResult h.op then
    let size := if h.op = 0x20 then h.extBytes else h.pbsBytes
    let per := (h.samples + nc - 1) / nc
    let open_ := fun z => (List.range size).map fun i => BitVec.ofNat 8 (openValue 69 s.freeCtr (z * 2 ^ 20 + i))
    ((List.range h.samples).map fun z => (h.dst + z * size, if bit mask (z / per) then h.sample s z else open_ z), false)
  else
    let res := h.residues s
    let w := if h.op = 0x06 then (h.weights s).1 else []
    let cells := (List.range h.polys).flatMap fun j => (List.range (h.level + 1)).map fun i =>
      let r := if bit mask i then h.result s res w j i else (freeLimb { s with freeCtr := s.freeCtr + 1 } false 0 h.logn j i, false)
      ((([h.d.base0, h.d.base1, h.d.base2].getD j 0) + i * h.d.stride, bytesOf r.1), r.2)
    (cells.map Prod.fst, cells.any Prod.snd)

/-- Bytes written one range after another: the lowest failing status. -/
def writeAll (s : State) (x p : Nat) (g : Option Nat) (l : List (Nat × List Byte)) : State × Nat :=
  l.foldl (fun (q : State × Nat) e =>
    let w := vaWrite q.1 x p g e.1 e.2
    (w.1, lowest [q.2, w.2])) (s, 0)

/-- Operations whose kernels use core memory and commons beyond their operands: those that broadcast, switch keys or bridge. No rule
says which bytes they use. DEDUCED (log 106). -/
def usesBuffers (op : Nat) : Bool := [0x06, 0x09, 0x0A, 0x0B, 0x0D, 0x10, 0x11, 0x20, 0x21, 0x22].contains op

/-- What a kernel leaves in its cores' tiles and accumulators, in the scratch area, and in the memory it buffers in: free values.
Operands, ring regions and the buffers of running lacing rings stay. -/
def kernelLeaves (s : State) (h : HePlan) (t : Taken) : State :=
  let cs := t.cores h.x
  let keys := ((h.resultRanges ++ h.sources.flatten ++ [(h.auxAt, 64), (h.dst, 64), (h.srcA, 64)]).flatMap fun (r : VRange) =>
    (vaRange s h.part (.unit h.x) .read r.1 r.2).2).map fun (e : Nat × Nat × Nat) => (e.1, e.2.2)
  let laced := (s.laces.filter fun e => laceRuns s e.1).flatMap fun e => e.2.members.map fun m => (m.buffer, 65600 * m.slots)
  -- the staging regions of a context that has stopped stand as its last chunks left them (R374, R414)
  let staged := (cs.filter fun c => ((core s c).key 0).state == 2).map fun c => (Mem.cm c 0, 131072)
  let keep := fun k => (keys ++ laced ++ staged).any fun e => decide (e.1 ≤ k ∧ k < e.1 + e.2)
  let s := cs.foldl (fun u c => scramble (scramble u (Mem.tile c 0 0) 131072 fun _ => false) (Mem.acc c 0 0) 65536 fun _ => false) s
  let s := (h.scratchRange.flatMap fun r => (vaRange s h.part (.unit h.x) .write r.1 r.2).2).foldl
    (fun u e => scramble u e.1 e.2.2 keep) s
  if usesBuffers h.op then
    scramble (cs.foldl (fun u c => scramble u (Mem.cm c 0) 0x180000 keep) s) (Mem.commons h.x 0) 0x6C0000 keep
  else s

/-- The kernel of a started command ends, with what its cores report and the codes of the key contexts that have stopped (R373,
R414): every core halts, the result and its descriptor are written, and the command completes. Operands are read here, as they
stand when the kernel ends. DEDUCED (log 107). -/
def kernelEnd (s : State) (x k : Nat) (t : Taken) (r : KernelReport) : State :=
  let p := ringPart s x
  let h := hePlan s x p t t.inputs
  let stopped := (t.cores x).filter fun c => ((core s c).key 0).state == 2 && !(core s c).passes.isEmpty
  let code := lowest (stopped.map fun c => ((core s c).key 0).status)
  let faults := stopped.foldl (fun m c => m ||| 2 ^ (c % 25)) r.faultCores.toNat
  let r := { r with status := lowest [r.status, code], faultCores := BitVec.ofNat _ faults }
  let g := if bit (t.word 0) 54 then some t.group else none
  let st := lowest [r.status, t.abort, if r.status = 0 ∧ t.abort = 0 then lowest (h.sources.flatten.map (sourceCode s p x)) else 0]
  let mask := h.complete s t r st
  let d := h.data s t mask
  let desc := h.resultDesc s
  let s := if d.2 then inc s (E.pe_range_count + x) else s
  let s := if h.op = 0x06 then incBy s (E.pe_encode_saturation_count + x) (h.weights s).2 else s
  let s := kernelLeaves { s with freeCtr := s.freeCtr + 2 } h t
  -- the kernel closes its contexts, and every core halts (R403)
  let s := (t.cores x).foldl (fun u c =>
    let u := onCore u c fun k => { k with keys := [] }
    if (core u c).running then haltCore u c 0 else u) s
  let w := writeAll s x p g d.1
  let st := lowest [st, w.2]
  let v := if st = 0 ∧ !arrayResult h.op then vaWrite w.1 x p g h.dst desc.bytes else (w.1, 0)
  let st := lowest [st, v.2]
  let beats := r.beats + 96 + if t.loaded then 512 else 0
  let tail := if arrayResult h.op then List.replicate 16 0 else desc.bytes.take 16
  finishHe v.1 x k t st r.faultCores.toNat (if w.2 = 0 then mask else 0) beats tail

/-- The started homomorphic commands of a ring, oldest first. -/
def startedHe (s : State) (x k : Nat) : List Taken := (ringOf s x k).queue.filter fun t => t.started && isHe t.op

def execCommandKernelEnd (x k i : Nat) (r : KernelReport) (s : State) : Res :=
  guarded (decide (x < 32 ∧ k < 8)) s (match (startedHe s x k)[i]? with | some t => kernelEnd s x k t r | none => s)

/-! ## `he_abort` (R414, R417) -/

/-- The command of sector x with an ID, waiting or running: its ring and itself. -/
def namedHe (s : State) (x id : Nat) : Option (Nat × Taken) :=
  ((List.range 8).flatMap fun k => ((ringOf s x k).queue.filter fun t => isHe t.op && t.cmdId == id).map fun t => (k, t)).head?

/-- A waiting command completes at once; a running one when its kernel ends. -/
def heAbort (s : State) (v : Nat) : State :=
  let x := bits v 20 16
  match namedHe s x (bits v 15 0) with
  | none => s
  | some (k, t) =>
    if t.started then setTaken s x k t { t with abort := if t.abort = 0 then 0x0504 else t.abort }
    else refuseHe s x k t 0x0504

def heAbortSem : EntrySem := command (fun _ _ => true) fun s _ v => heAbort s v

def execHeAbort (via : Path) (d : List Byte) (s : State) : Res := done s (access s (writeBytes via E.he_abort d) heAbortSem)

end Sys2Proof.Machine
end

