-- ==== Sys2Proof/Machine/Pke.lean ====
section
/-! DEFINITION. The big-number and public-key engine (19_big_number_engine, R765 to R788): its arithmetic, its jobs and its self-test. -/

namespace Sys2Proof.Machine

open Sys2Proof

/-! ## Arithmetic (R767, R771, R774, R775) -/

/-- One step of Euclid's algorithm with the coefficient of a; f steps at most. -/
def invStep : Nat → Nat → Nat → Int → Int → Nat × Int
  | 0, r, _, t, _ => (r, t)
  | f + 1, r, r', t, t' => if r' = 0 then (r, t) else invStep f r' (r % r') t' (t - (r / r' : Nat) * t')

/-- a^(−1) mod m, when a shares no factor with m. -/
def invMod (m a : Nat) : Option Nat :=
  let g := invStep (2 * bitLen m + 2) m a 0 1
  if g.1 = 1 then some ((g.2 % (m : Int)).toNat) else none

/-- Inverse of a nonzero element of the curve's field. -/
def fieldInv (a : Nat) : Nat := powMod sm2P a (sm2P - 2)

/-- x and y from a slope. -/
def slopePoint (l : Nat) (p q : Point) : Point :=
  let x := (l * l + 2 * sm2P - p.1 - q.1) % sm2P
  (x, (l * (p.1 + sm2P - x) + sm2P - p.2) % sm2P)

/-- 2P (R775: infinity when y is 0). -/
def pointDouble (p : Point) : Point :=
  if p = (0, 0) ∨ p.2 = 0 then (0, 0)
  else slopePoint ((3 * p.1 * p.1 + sm2A) * fieldInv (2 * p.2 % sm2P) % sm2P) p p

/-- P + Q. -/
def pointAdd (p q : Point) : Point :=
  if p = (0, 0) then q
  else if q = (0, 0) then p
  else if p.1 = q.1 then if p.2 = q.2 then pointDouble p else (0, 0)
  else slopePoint ((q.2 + sm2P - p.2) * fieldInv ((q.1 + sm2P - p.1) % sm2P) % sm2P) p q

/-- [k]P over the f low bits of k, by doubling and adding. -/
def pointMul : Nat → Nat → Point → Point
  | 0, _, _ => (0, 0)
  | f + 1, k, p =>
    let q := pointMul f (k / 2) (pointDouble p)
    if k % 2 = 1 then pointAdd p q else q

/-- The status of a point source: a coordinate of p or more; off the curve (R775). -/
def pointCode (infinityOk : Bool) (p : Point) : Nat :=
  if sm2P ≤ p.1 ∨ sm2P ≤ p.2 then 0x0801
  else if p = (0, 0) then if infinityOk then 0 else 0x0802
  else if onCurve p then 0 else 0x0802

/-- The value of a modular command, or an invalid operand: modulus, w, sources (R771, R775). -/
def modCommand (op w m a b : Nat) : Option Nat :=
  if m % 2 = 0 ∨ m < 2 ^ (64 * (w - 1)) then none
  else if op = 0x06 then some (a % m)
  else if m ≤ a ∨ (op ≤ 0x03 ∧ m ≤ b) then none
  else match op with
    | 0x01 => some ((a + b) % m)
    | 0x02 => some ((a + m - b) % m)
    | 0x03 => some (a * b % m)
    | 0x04 => if a = 0 then none else invMod m a
    | _ => some (powMod m a b)

/-! ## Registers and command words (R765, R766, R770) -/

/-- The low n words of register r. -/
def regNat (s : State) (r n : Nat) : Nat := rdNat s (Mem.pke (512 * r)) (8 * n)

/-- The point of register r (R767). -/
def regPoint (s : State) (r : Nat) : Point := (rdNat s (Mem.pke (512 * r)) 32, rdNat s (Mem.pke (512 * r + 256)) 32)

/-- Register r takes a number, or a point; every other word of it becomes 0. -/
def setReg (s : State) (r v : Nat) : State := wrNat s (Mem.pke (512 * r)) 512 v
def setPoint (s : State) (r : Nat) (p : Point) : State := setReg s r (p.1 + p.2 * 2 ^ 2048)

/-- The fields of a command word (R770). -/
def pkeWord (v : Nat) : Nat × PkeCmd :=
  (bits v 63 56, ⟨bits v 55 49, bits v 48 44, bits v 43 39, bits v 38 34, bits v 33 29, bits v 28 22⟩)

/-- The word is one that R772 accepts. The fields a command does not use are free of rules but for the reserved bits and `e`. -/
def pkeWordOk (v : Nat) : Bool :=
  let (op, c) := pkeWord v
  bits v 21 0 == 0 &&
    if 0x01 ≤ op ∧ op ≤ 0x06 then
      decide (2 ≤ c.w ∧ c.w ≤ 64) && (if op = 0x05 then decide (1 ≤ c.e ∧ c.e ≤ 64) else c.e == 0) && (op != 0x06 || decide (c.w ≤ 32))
    else decide (0x10 ≤ op ∧ op ≤ 0x13) && c.w == 4 && c.e == 0

/-- K(w) of R778. -/
def montgomery (w : Nat) : Nat := w * w + 2 * w + 8

/-- The duration of a command in ticks (R778): of its `op`, `w` and `e` alone (R774). -/
def pkeTicks (op w e : Nat) : Nat :=
  match op with
  | 0x01 | 0x02 => 2 * w + 8
  | 0x03 => w * w + 4 * w + 16
  | 0x04 => 128 * w * (w + 2) + 16
  | 0x05 => 128 * e * montgomery w + 2 * (w * w + 4 * w + 16)
  | 0x06 => 2 * w * w + 8 * w + 32
  | 0x10 => 4000
  | 0x11 => 3744
  | 0x12 => 216352
  | _ => 192

/-- D of a job (R773). -/
def jobTicks (l : List Nat) : Nat := 64 + (l.map fun v => pkeTicks (pkeWord v).1 (pkeWord v).2.w (pkeWord v).2.e).sum

/-! ## Job images (R769, R772) -/

/-- The image's header, its command words, and the input and output areas. -/
structure PkeImage where
  header : List Byte
  commands : List Nat
  code : Nat
  deriving DecidableEq, Repr

/-- The engine reads and writes the memory of partition p as the controller of its lowest sector does. DEDUCED (log 111). -/
def partUnit (s : State) (p : Nat) : Nat := ((List.range 32).find? (bit (rd s (E.part_sectors + 256 * p)))).getD 0

/-- A set of registers, ascending. -/
def maskRegs (m : Nat) : List Nat := (List.range 32).filter (bit m)

/-- The code of a range: no translation, or poisoned data. A poisoned image or input refuses the job with 0x0303. PRESUMED (log
112). -/
def pkeRange (s : State) (p : Nat) (n : Need) (va len : Nat) : Nat :=
  if len = 0 then 0
  else
    let r := vaRange s p (.unit (partUnit s p)) n va len
    if r.1 ≠ 0 ∨ r.2.any (fun e => isOutbound e.1) then 0x0302
    else if n = .read ∧ r.2.any (fun e => poisoned s e.1 e.2.2) then 0x0303
    else 0

/-- The image at `pke_job_addr` in `pke_job_partition`, with the code of the first failing check of R772. -/
def pkeImage (s : State) : PkeImage :=
  let p := rd s E.pke_job_partition
  let a := rd s E.pke_job_addr
  if rd s E.pke_state = 2 then ⟨[], [], 0x0805⟩
  else if p ≥ 32 ∨ pkeRange s p .read a 64 ≠ 0 then ⟨[], [], if p ≥ 32 then 0x0302 else pkeRange s p .read a 64⟩
  else
    let h := (vaRead s p (.unit (partUnit s p)) a 64).2
    let w := recWord h
    let n := bits (w 0) 47 40
    let fields := bits (w 0) 63 48 == 0x424E && decide (1 ≤ n ∧ n ≤ 16) && bits (w 0) 39 32 == 0 && bits (w 1) 63 32 == 0 &&
      bits (w 2) 63 48 == 0 && bits (w 3) 63 48 == 0 && w 4 == 0 && w 5 == 0 && w 6 == 0 && bits (w 7) 31 0 == 0 && checkOk h
    if !fields then ⟨h, [], 0x0804⟩
    else if pkeRange s p .read (a + 64) (8 * n) ≠ 0 then ⟨h, [], pkeRange s p .read (a + 64) (8 * n)⟩
    else
      let c := wordsOf (vaRead s p (.unit (partUnit s p)) (a + 64) (8 * n)).2
      let i := pkeRange s p .read (bits (w 2) 47 0) (512 * (maskRegs (bits (w 0) 31 0)).length)
      let o := pkeRange s p .write (bits (w 3) 47 0) (512 * (maskRegs (bits (w 1) 31 0)).length)
      ⟨h, c, if !c.all pkeWordOk then 0x0804 else if i ≠ 0 then i else o⟩

/-! ## Submission and start (R768, R772, R773, R784, R785, R788) -/

/-- A refused job: only its own status entries change. -/
def refuseJob (s : State) (code : Nat) : State := wr (wr s E.pke_job_status code) E.pke_job_state 3

/-- `pke_job_cmd` takes a job, or refuses it; out of service, with 0x0902 (R809). During a self-test the job waits (R785),
though 0x0805 names the self-test too (log 110). -/
def submitJob (s : State) : State :=
  let i := pkeImage s
  if rd s E.out_of_service = 1 then refuseJob s 0x0902
  else if i.code ≠ 0 then refuseJob s i.code
  else wakeDomain (workReaches (wr (wr s E.pke_job_status 0) E.pke_job_state 1) 3) 39

def pkeIdle (s : State) : Bool := rd s E.pke_job_state != 1 && rd s E.pke_job_state != 2

def pkeJobSem : EntrySem := command (fun s v => v == 1 && pkeIdle s) fun s _ _ => submitJob s

/-- The other entries of `pke_job` (R788). -/
def pkeEntrySem (k : Nat) : EntrySem := limited k fun s _ => pkeIdle s
def pkeFaultLimitSem : EntrySem := limited E.pke_fault_limit fun _ v => decide (1 ≤ v ∧ v ≤ 16)

def execPkeJobSubmit (via : Path) (s : State) : Res := done s (access s (writeOf via E.pke_job_cmd 1) pkeJobSem)

/-- Registers named by a mask take 512 B each from consecutive bytes. -/
def loadRegs (s : State) : List Nat → List Byte → State
  | [], _ => s
  | r :: t, b => loadRegs (wrBytes s (Mem.pke (512 * r)) (b.take 512)) t (b.drop 512)

/-- The queued job starts once its domain is on and the engine is free and wiped; its checks hold then too (R772). -/
def startJob (s : State) : State :=
  if rd s E.pke_job_state ≠ 1 ∨ s.pke.job.isSome ∨ s.pke.wiping ∨ s.pke.testing ∨ !domainOn s 39 then s
  else
    let p := rd s E.pke_job_partition
    let i := pkeImage s
    if i.code ≠ 0 then refuseJob s i.code
    else
      let ins := maskRegs (bits (recWord i.header 0) 31 0)
      let b := (vaRead s p (.unit (partUnit s p)) (bits (recWord i.header 2) 47 0) (512 * ins.length)).2
      let s := loadRegs (zeroFill s (Mem.pke 0) (Mem.pke 16384)) ins b
      let j : PkeJob := ⟨p, bits (recWord i.header 3) 47 0, bits (recWord i.header 1) 31 0, i.commands, 0, 0, false⟩
      wr (wr (inc { s with pke := { s.pke with job := some j } } E.pke_jobs_count) E.pke_job_state 2) E.pke_job_ticks (jobTicks i.commands)

def execPkeJobStart (s : State) : Res := done s (startJob s)

/-! ## Commands (R771, R774 to R776) -/

/-- The running job's next command, when it is this one. -/
def nextCommand (s : State) (op : Nat) (c : PkeCmd) : Option PkeJob :=
  match s.pke.job with
  | none => none
  | some j => match j.commands[j.run]? with
    | some v => if pkeWord v = (op, c) then some j else none
    | none => none

/-- A command has run with a status; the first failing one gives the job's (R776). -/
def commandRan (s : State) (j : PkeJob) (status : Nat) : State :=
  { s with pke := { s.pke with job := some { j with run := j.run + 1, status := if j.status = 0 then status else j.status } } }

/-- A modular command. -/
def pkeMod (op : Nat) (s : State) (c : PkeCmd) : State :=
  match nextCommand s op c with
  | none => s
  | some j =>
    let a := regNat s c.a (if op = 0x06 then 2 * c.w else c.w)
    let b := regNat s c.b (if op = 0x05 then c.e else c.w)
    match modCommand op c.w (regNat s c.m c.w) a b with
    | some v => commandRan (setReg s c.d v) j 0
    | none => commandRan (setReg s c.d 0) j 0x0801

/-- A point command. `PCHK` has no destination. -/
def pkePoint (op : Nat) (s : State) (c : PkeCmd) : State :=
  match nextCommand s op c with
  | none => s
  | some j =>
    let a := regPoint s c.a
    let b := regPoint s c.b
    let ca := pointCode (op != 0x13) a
    let code := if ca ≠ 0 then ca else if op = 0x10 then pointCode true b else 0
    if op = 0x13 then commandRan s j code
    else if code ≠ 0 then commandRan (setReg s c.d 0) j code
    else
      let r := match op with
        | 0x10 => pointAdd a b
        | 0x11 => pointDouble a
        | _ => pointMul 256 (regNat s c.b 4) a
      commandRan (setPoint s c.d r) j 0

def execPkeMadd (c : PkeCmd) (s : State) : Res := done s (pkeMod 0x01 s c)
def execPkeMsub (c : PkeCmd) (s : State) : Res := done s (pkeMod 0x02 s c)
def execPkeMmul (c : PkeCmd) (s : State) : Res := done s (pkeMod 0x03 s c)
def execPkeMinv (c : PkeCmd) (s : State) : Res := done s (pkeMod 0x04 s c)
def execPkeMexp (c : PkeCmd) (s : State) : Res := done s (pkeMod 0x05 s c)
def execPkeMred (c : PkeCmd) (s : State) : Res := done s (pkeMod 0x06 s c)
def execPkePadd (c : PkeCmd) (s : State) : Res := done s (pkePoint 0x10 s c)
def execPkePdbl (c : PkeCmd) (s : State) : Res := done s (pkePoint 0x11 s c)
def execPkePmul (c : PkeCmd) (s : State) : Res := done s (pkePoint 0x12 s c)
def execPkePchk (c : PkeCmd) (s : State) : Res := done s (pkePoint 0x13 s c)

/-! ## The end of a job (R776, R777, R779, R781 to R784) -/

/-- TIMEREF periods in 24 h. -/
def dayPeriods : Nat := 24 * 3600 * 25000000

/-- A job failed with 0x0803: it counts, and enough failures within 24 h take the engine out of service. -/
def noteJobFault (s : State) : State :=
  let l := (s.pke.faults.filter fun t => decide (now s < t + dayPeriods)) ++ [now s]
  let s := inc { s with pke := { s.pke with faults := l } } E.pke_fault_count
  if rd s E.pke_fault_limit ≤ l.length then wr s E.pke_state 2 else s

/-- The output registers' bytes, or zeros. -/
def jobOutput (s : State) (j : PkeJob) (ok : Bool) : List Byte :=
  (maskRegs j.outMask).flatMap fun r => if ok then rdBytes s (Mem.pke (512 * r)) 512 else List.replicate 512 0

/-- The run ends: the status is formed, the outputs are stored, and the wipe begins. -/
def jobEnd (s : State) (late : Nat) (mismatch : Bool) : State :=
  match s.pke.job with
  | none => s
  | some j =>
    if j.run ≠ j.commands.length then s
    else
      let bad := mismatch || late != 0
      let s := incBy s E.pke_late_tick_count late
      let s := if bad then noteJobFault s else s
      let st := if bad then 0x0803 else j.status
      let st := if j.scrubbed then 0x0405 else st
      let w := vaWrite s (partUnit s j.part) j.part none j.outAddr (jobOutput s j (st == 0))
      let s := { w.1 with pke := { w.1.pke with job := none, wiping := true } }
      wr s E.pke_job_status (if st = 0 then w.2 else st)

def execPkeJobEnd (late : Nat) (mismatch : Bool) (s : State) : Res := done s (jobEnd s late mismatch)

/-- The engine is zero-filled (R782). -/
def pkeWipe (s : State) : State := zeroFill s (Mem.pke 0) (Mem.pke 16384)

/-- The wipe ends; a job whose wipe it was is done. A self-test that waits starts (R781). -/
def wipeDone (s : State) : State :=
  if !s.pke.wiping then s
  else
    let s := pkeWipe { s with pke := { s.pke with wiping := false } }
    if rd s E.pke_job_state = 2 then wr s E.pke_job_state 3 else s

def execPkeWipeDone (s : State) : Res := done s (wipeDone s)

/-! ## Self-test (R785, R788) -/

def pkeSelftestSem : EntrySem :=
  { command (fun _ v => v == 1) (fun s _ _ =>
      let s := wr (wr s E.pke_state 1) E.pke_selftest_status 1
      wakeDomain (workReaches { s with pke := { s.pke with testing := true } } 3) 39) with authOnly := true }

def execPkeSelftest (via : Path) (s : State) : Res := done s (access s (writeOf via E.pke_selftest_cmd 1) pkeSelftestSem)

/-- A self-test that the engine runs ends. -/
def selftestDone (s : State) (passed : Bool) : State :=
  if !s.pke.testing ∨ s.pke.job.isSome ∨ s.pke.wiping ∨ !domainOn s 39 then s
  else
    let s := { s with pke := { s.pke with testing := false, wiping := true, faults := if passed then [] else s.pke.faults } }
    wr (wr s E.pke_state (if passed then 0 else 2)) E.pke_selftest_status (if passed then 2 else 3)

def execPkeSelftestDone (passed : Bool) (s : State) : Res := done s (selftestDone s passed)

/-! ## Power (R781, R782) -/

/-- The engine's domain loses power: a running job is lost, and all it held. -/
def pkeLost (s : State) : State :=
  let s := if s.pke.job.isSome then inc { s with pke := { s.pke with lost := true } } E.pke_lost_job_count else s
  pkeWipe { s with pke := { s.pke with job := none, wiping := false } }

/-- After a reset, the entries of a lost partition job say so (R781). -/
def pkeReset (s : State) : State :=
  if s.pke.lost then wr (wr { s with pke := { s.pke with lost := false } } E.pke_job_status 0x0806) E.pke_job_state 3 else s

/-- The engine is running a job (R781). -/
def pkeRuns (s : State) : Bool := s.pke.job.isSome || s.pke.wiping

end Sys2Proof.Machine
end

