-- ==== Sys2Proof/Machine/Messages.lean ====
section
/-! DEFINITION. Messages of the transport layer: what the target does with a request (R592 to R601, R164 to R171), and what the
source does with an answer (R585, R589, R591, R595, R600). -/

namespace Sys2Proof.Machine

open Sys2Proof

/-! ## Arrival checks (R599) -/

/-- The bytes that a request names. -/
def reqBytes (mtype : Nat) (m : Msg) : Nat :=
  if mtype = 1 then m.payload.length else if mtype = 2 then 8 * m.arg else if mtype = 3 then 64 else 0

/-- The 256 B units that a WRITE touches (R590). -/
def msgUnits (m : Msg) : Nat := (m.offset % 256 + m.payload.length + 255) / 256

/-- Every block that the bytes touch is open. -/
def rangeOpen (s : State) (w o n : Nat) : Bool :=
  let z := blockSize (winTarget s w)
  winTarget s w == 2 || (List.range ((o + n + z - 1) / z - o / z)).all fun i => blockOpen s w ((o / z + i) * z)

/-- The request's permission bit is 0. A DONE and a CONNECT have none. -/
def permitMissing (s : State) (w mtype : Nat) : Bool :=
  (mtype == 1 && !bit (winWord s w 0) 54) || (mtype == 2 && !bit (winWord s w 0) 53) || (mtype == 3 && !bit (winWord s w 0) 52)

/-- The range fails (R593, R599 order 5); a payload outside 8 B to 3,840 B counts so. DEDUCED (log 131). -/
def rangeFails (s : State) (w mtype : Nat) (m : Msg) : Bool :=
  let n := reqBytes mtype m
  decide (mtype ≤ 3) &&
    (decide (n < 8 ∨ 3840 < n ∨ n % 8 ≠ 0 ∨ winLength s w < m.offset + n ∨ 256 * winFrontier s w < m.offset + n) ||
      !rangeOpen s w m.offset n || (mtype == 3 && m.offset % 64 != 0))

/-- The group that a request names, as a group of its sender. -/
def namedGroup (s : State) (m : Msg) : Option Group := findGroup s (some m.src) m.group

/-- The first check of R599 that fails, or 0; out of service, 0x0902 (R809). A CONNECT comes before any CREDIT, so its epoch is
not checked. DEDUCED (log 132). -/
def arrivalCheck (s : State) (mtype : Nat) (m : Msg) : Nat :=
  let w := m.window
  let st := winState s w
  let hbmT := winTarget s w == 2
  let grouped := m.inGroup && decide (mtype = 1 ∨ mtype = 3)
  if rd s E.out_of_service = 1 then 0x0902
  else if (winPartition s w).any (scrubbing s) then 0x0405
  else if st = 0 ∨ st = 3 ∨ (st = 2 ∧ hbmT) then 0x0401
  else if mtype ≠ 5 ∧ m.epoch ≠ winEpoch s w then 0x0402
  else if (!bit (winWord s w 0) 51 && m.src != bits (winWord s w 1) 63 48) ∨ permitMissing s w mtype then 0x0406
  else if rangeFails s w mtype m then 0x0302
  else if !hbmT ∧ ((st = 2 ∧ mtype ≠ 1) ∨ (mtype = 1 ∧ creditLeft s w < msgUnits m)) then 0x0403
  else if grouped ∧ (namedGroup s m).any (fun g => g.state != 1) then 0x0507
  else if mtype = 3 ∧ m.inGroup then 0x0505
  else if grouped ∧ (namedGroup s m).isNone ∧ 4096 ≤ s.groups.length then 0x0501
  else if mtype = 3 ∧ (byteAt' m.payload 74 = 0 ∨ 7 < byteAt' m.payload 74) then 0x0105
  else 0
where
  byteAt' (l : List Byte) (i : Nat) : Nat := (l.getD i 0).toNat

/-- A refusal is counted (R167, R599). -/
def countRefusal (s : State) (mtype code : Nat) : State :=
  let s := if code / 256 = 4 then inc s (E.window_refusals + (code % 256 - 1)) else s
  if code = 0x0403 ∧ mtype = 1 then inc s E.landing_violation_count else s

/-! ## Performing a request -/

/-- An answer to a message: it goes back to its sender with the same flow and sequence. -/
def answerMsg (s : State) (m : Msg) (payload : List Byte) : Msg :=
  { m with dst := m.src, src := rd s E.node_id, ordered := false, inGroup := false, payload := payload }

/-- The first 8 B of an ACK or RDATA. -/
def statusBytes (st : Nat) : List Byte := leBytes 2 st ++ List.replicate 6 0

/-- A WRITE lands (R164, R171, R501, R581). -/
def performWrite (s : State) (m : Msg) : State × Nat :=
  let w := m.window
  let p := (winPartition s w).getD 32
  let s := if m.inGroup then joinRemote s m.src m.group p else s
  let g := if m.inGroup then some (some m.src, m.group) else none
  let z := blockSize (winTarget s w)
  let s := setWin s w { win s w with consumed := (win s w).consumed + msgUnits m }
  let q := (cutAt z (m.payload.length + 1) m.offset m.payload).foldl (fun (q : State × Nat) e =>
    let r := landBytes q.1 g (winKey q.1 w e.1) e.2
    (r.1, if q.2 = 0 then r.2 else q.2)) (s, 0)
  (creditsMove q.1 w, q.2)

/-- A READ of a window: the status and the bytes (R149, R150, R186, R194, R202). -/
def performRead (s : State) (m : Msg) (ecc : Ecc) : State × Nat × List Byte :=
  let w := m.window
  let n := 8 * m.arg
  let k := winKey s w m.offset
  let z := blockSize (winTarget s w)
  let l := (List.range ((m.offset + n + z - 1) / z - m.offset / z)).map fun i =>
    let lo := max m.offset ((m.offset / z + i) * z)
    (winKey s w lo, min (m.offset + n) ((m.offset / z + i + 1) * z) - lo)
  if winTarget s w = 2 then
    (noteEcc s k ecc, (hbmStatus s k n ecc).1, l.flatMap fun e => rdBytes s e.1 e.2)
  else
    let s := wordErrors s k ecc
    let s := l.foldl (fun t e => meet (settleMem t e.1) e.1 e.2) s
    (s, if l.any fun e => poisoned s e.1 e.2 then 0x0303 else 0, l.flatMap fun e => rdBytes s e.1 e.2)

/-- A checked request of types 1 to 5 is performed: the state, the answer's type and its payload. -/
def perform (s : State) (mtype : Nat) (m : Msg) (ecc : Ecc) : State × Nat × List Byte :=
  let w := m.window
  if mtype = 1 then
    let r := performWrite s m
    (r.1, 0x10, statusBytes r.2)
  else if mtype = 2 then
    let r := performRead s m ecc
    (r.1, 0x11, statusBytes r.2.1 ++ r.2.2)
  else if mtype = 3 then
    let u : HeldAdd := ⟨(1, m.src, m.flow), winBase s w + m.offset, leNat ((m.payload.drop 74).take 1),
      leNat ((m.payload.drop 72).take 2), m.payload.take 64⟩
    let old := bit (leNat ((m.payload.drop 75).take 1)) 0
    let r := adderUpdate s u (leNat ((m.payload.drop 64).take 8)) old ecc
    (r.1, 0x10, statusBytes r.2.1 ++ if old then r.2.2 else [])
  else if mtype = 4 then
    let v := winWord s w 6
    (setWinWord s w 6 (setBits v 31 0 (v + 1)), 0x10, statusBytes 0)
  else
    let f := (win s w).flows
    let s := if f.contains (m.src, m.flow) then s else setWin s w { win s w with flows := f ++ [(m.src, m.flow)] }
    (s, 0x12, (creditMsg s w m.src m.flow m.tseq).payload)

/-! ## Stitch, step and reset messages -/

/-- The fields of a stitch message (R594). -/
def sgId (m : Msg) : Nat := leNat (m.payload.take 2)
def sgVerdict (m : Msg) : Nat := leNat ((m.payload.drop 2).take 1)
def sgStep (m : Msg) : Nat := leNat ((m.payload.drop 8).take 8)

/-- A target votes (R518): commit while its part of the group is intact. -/
def vote (s : State) (m : Msg) : State × Option (Nat × List Byte) :=
  match findGroup s (some m.src) (sgId m) with
  | some g =>
    let ok := decide (g.state = 1 ∨ g.state = 3) && g.status == 0
    let s := if ok then setGroup s (some m.src) g.id fun g => { g with state := 3, step := sgStep m } else s
    (s, some (0x21, groupPayload (sgId m) (if ok then 0 else 1) (sgStep m)))
  | none => (s, some (0x21, groupPayload (sgId m) 1 (sgStep m)))

/-- A decision reaches a target (R519, R525): it is logged; a commit is acknowledged once applied, an abort at once. -/
def takeDecision (s : State) (m : Msg) (asked : Bool) : State × Option (Nat × List Byte) :=
  match findGroup s (some m.src) (sgId m) with
  | none => (s, some (0x10, statusBytes 0))
  | some g =>
    if sgVerdict m = 2 then (s, some (0x10, statusBytes 0))
    else
      let log := { s with commitLog := s.commitLog ++ [⟨some m.src, g.id, sgStep m, sgVerdict m == 0, now s⟩] }
      let w := if asked then g.waiter else some (m.flow, m.tseq)
      if sgVerdict m = 0 then
        if g.state = 4 then (s, none)
        else (setGroup log (some m.src) g.id fun g => { g with state := 4, waiter := w }, none)
      else (stepIncrement (resolveGroup log (some m.src) g.id 0x0502 0), some (0x10, statusBytes 0))

/-- The opener answers a query with its decision (R519, R530, R532): undecided while its record stands undecided, and abort for
a group that it does not know. DEDUCED (log 134). -/
def answerQuery (s : State) (m : Msg) : State × Option (Nat × List Byte) :=
  let v := match s.commitLog.find? fun d => d.opener.isNone && d.id == sgId m && d.step == sgStep m with
    | some d => if d.commit then 0 else 1
    | none => if (findGroup s none (sgId m)).isSome then 2 else 1
  (s, some (0x22, groupPayload (sgId m) v (sgStep m)))

/-- A child arrives (R603); in a mirrored pair, so does the follower. -/
def takeArrive (s : State) (m : Msg) : State × Option (Nat × List Byte) :=
  let n := leNat (m.payload.take 8)
  let s := if n = rd s E.step_counter ∧ (allChildren s).contains m.src ∧ !s.step.arrived.contains m.src then
      stepProgress { s with step := { s.step with arrived := s.step.arrived ++ [m.src] } }
    else s
  (s, some (0x10, statusBytes 0))

/-- The parent releases the step (R603, R609). -/
def takeRelease (s : State) (m : Msg) : State × Option (Nat × List Byte) :=
  let n := leNat (m.payload.take 8)
  let failed := leNat ((m.payload.drop 8).take 1) == 1
  let s := if n ≠ rd s E.step_counter ∨ m.src ≠ rd s E.step_parent ∨ rd s E.step_is_root = 1 ∨ s.step.failed then s
    else if failed then failStep s
    else if s.step.quiescent then s
    else becomeQuiet (releaseChildren s false)
  (s, some (0x10, statusBytes 0))

/-- A RESET_NOTICE is recorded (R795), and one from a child that names the present step fails it (R608). -/
def takeNotice (s : State) (m : Msg) : State × Option (Nat × List Byte) :=
  let n := leNat (m.payload.take 8)
  let k := leNat ((m.payload.drop 8).take 1)
  let s := wr (wr (wr (wr s E.prn_node m.src) E.prn_step n) E.prn_kind k) E.prn_time (now s)
  let s := inc s E.peer_reset_count
  let s := if n = rd s E.step_counter ∧ (stepChildren s).contains m.src ∧ !s.step.failed ∧ !s.step.reported ∧ !s.step.quiescent then
      parentFails s m
    else s
  (s, some (0x10, statusBytes 0))

/-! ## Taking a request (R592 to R599) -/

/-- How long an answer is kept, in periods of 40 ns: H of R586. -/
def holdTime (s : State) : Nat := 25 * (rd s E.transport_retries * rd s E.transport_retry_us + 2000)

/-- The kept answer of a repeated request. -/
def keptAnswer (s : State) (m : Msg) : Option Kept :=
  s.transport.kept.find? fun k => k.src == m.src && k.flow == m.flow && k.tseq == m.tseq && decide (now s - k.time ≤ holdTime s)

/-- An answer leaves and is kept; the leader of a pair tells its follower (R596, R622). -/
def sendAnswer (s : State) (m : Msg) (at' : Nat) (payload : List Byte) : State :=
  let a := answerMsg s m payload
  let a := if at' = 0x12 then { a with epoch := winEpoch s m.window } else a
  let t := s.transport
  let old := t.kept.filter fun k => decide (now s - k.time ≤ holdTime s) && !(k.src == m.src && k.flow == m.flow && k.tseq == m.tseq)
  let s := { s with transport := { t with kept := old ++ [⟨m.src, m.flow, m.tseq, at', a, now s⟩] } }
  forwardInput (sendMsg s at' a) 3 (leBytes 2 m.src ++ leBytes 2 m.flow ++ leBytes 2 m.tseq ++ payload)

/-- The window's context misses the on-die cache; what the cache holds is not stated (R576). -/
def contextMiss (s : State) (w : Nat) : State :=
  let s' := { s with freeCtr := s.freeCtr + 1 }
  if openValue 60 s.freeCtr w % 2 = 1 then countDev (inc s' E.window_cache_miss_count) 0x20A 64 1 else s'

/-- A request of types 1 to 5 is refused with a code, or performed (0), and answered. -/
def answerWindow (s : State) (mtype : Nat) (m : Msg) (ecc : Ecc) : Nat → State
  | 0 =>
    let s := forwardInput s 2 (leBytes 1 mtype ++ msgHeader m ++ m.payload)
    let r := perform s mtype m ecc
    sendAnswer r.1 m r.2.1 r.2.2
  | code => sendAnswer (countRefusal s mtype code) m (if mtype = 2 then 0x11 else 0x10) (statusBytes code)

/-- The request waits for its sector already: a repeat of it is not performed again, but for a READ (R596). -/
def requestWaits (s : State) (mtype : Nat) (m : Msg) : Bool :=
  mtype != 2 && s.arrivals.any fun a => match a with
    | .request _ t n _ => t == mtype && n.src == m.src && n.flow == m.flow && n.tseq == m.tseq
    | _ => false

/-- A request of types 1 to 5 that is not a repeat: it is refused, or performed and answered. A target sector that sleeps is woken,
and the request waits in its router (R710, R711). -/
def serveWindow (s : State) (mtype : Nat) (m : Msg) (ecc : Ecc) : State :=
  let s := contextMiss s m.window
  match arrivalCheck s mtype m with
  | 0 =>
    let x := winSector s m.window
    let s := if winTarget s m.window = 2 then s else workReaches (workReaches s (0x100 + x)) (0x200 + x)
    if winTarget s m.window ≠ 2 ∧ !decide (domainState s x < 2) then
      if requestWaits s mtype m then wakeDomain s x else awaitSector s x (.request x mtype m ecc)
    else answerWindow s mtype m ecc 0
  | code => answerWindow s mtype m ecc code

/-- A stitch, step or reset message that is not a repeat. -/
def serveDevice (s : State) (mtype : Nat) (m : Msg) : State :=
  let s := forwardInput s 2 (leBytes 1 mtype ++ msgHeader m ++ m.payload)
  let r := if mtype = 0x20 then vote s m else if mtype = 0x22 then takeDecision s m false
    else if mtype = 0x23 then answerQuery s m else if mtype = 0x24 then takeArrive s m
    else if mtype = 0x25 then takeRelease s m else takeNotice s m
  match r.2 with
  | some (t, p) => sendAnswer r.1 m t p
  | none => r.1

/-- A source gives up its unused credit (R585). -/
def surrender (s : State) (m : Msg) : State × Nat :=
  s.handles.foldl (fun (q : State × Nat) e =>
    let v := e.2
    if v.state = 2 ∧ v.node = m.src ∧ v.window = m.window ∧ v.epoch = m.epoch then
      let u := (v.granted + 2 ^ 32 - v.sent % 2 ^ 32) % 2 ^ 32
      (setHandle q.1 e.1 { v with granted := v.sent % 2 ^ 32 }, q.2 + u)
    else q) (s, 0)

/-- REVOKE reaches a source. -/
def serveRevoke (s : State) (m : Msg) : State :=
  let s := forwardInput s 2 (leBytes 1 6 ++ msgHeader m)
  let r := surrender s m
  sendAnswer r.1 m 0x13 (leBytes 4 r.2 ++ List.replicate 4 0)

/-- One request, whose turn it is. -/
def serveRequest (s : State) (mtype : Nat) (m : Msg) (ecc : Ecc) : State :=
  if mtype ≤ 5 then serveWindow s mtype m ecc else if mtype = 6 then serveRevoke s m else serveDevice s mtype m

/-- The key of a flow of a node. -/
def flowKey (m : Msg) : Nat := m.src * 8192 + m.flow

/-- The next sequence number that a flow's ordered requests are performed at. -/
def setNext (s : State) (m : Msg) : State :=
  { s with transport := { s.transport with
    next := Tab.set none s.transport.next (flowKey m) (some ((m.tseq + 1) % 65536)) } }

/-- Requests held behind a missing one are performed when their turn has come (R597). -/
def releaseEarly : Nat → State → Nat → State
  | 0, s, _ => s
  | f + 1, s, k =>
    match Tab.get none s.transport.next k with
    | none => s
    | some n => match s.transport.early.find? fun e => flowKey e.2 == k && e.2.tseq == n with
      | none => s
      | some e =>
        let s := { s with transport := { s.transport with early := s.transport.early.filter (· != e) } }
        releaseEarly f (serveRequest (setNext s e.2) e.1 e.2 .clean) k

/-- A request is taken in its order (R597): one that comes ahead of a missing one is held. A CONNECT, and the first request of a
flow, begin its order. DESIGN CHOICE (log 133). -/
def takeRequest (s : State) (mtype : Nat) (m : Msg) (ecc : Ecc) : State :=
  match Tab.get none s.transport.next (flowKey m), m.ordered && mtype != 5 with
  | some n, true =>
    if m.tseq = n then
      releaseEarly (s.transport.early.length + 1) (serveRequest (setNext s m) mtype m ecc) (flowKey m)
    else if (m.tseq + 65536 - n) % 65536 < 32768 then
      if s.transport.early.any (fun e => e.2.src == m.src && e.2.flow == m.flow && e.2.tseq == m.tseq) then s
      else { s with transport := { s.transport with early := s.transport.early ++ [(mtype, m)] } }
    else serveRequest s mtype m ecc
  | _, _ =>
    let s := if m.ordered || mtype == 5 then setNext s m else s
    serveRequest s mtype m ecc

/-- A request that is a repeat gets its kept answer again (R596). -/
def acceptRequest (s : State) (mtype : Nat) (m : Msg) (ecc : Ecc) : State :=
  match keptAnswer s m with
  | some k => if mtype = 2 then serveRequest s mtype m ecc else sendMsg s k.mtype k.ans
  | none => takeRequest s mtype m ecc

/-- The device takes messages for its node: its ID is assigned, and it is not a follower or a detached module (R559, R619,
R634, R636). -/
def takesMessages (s : State) (m : Msg) : Bool :=
  s.supply.mainOn && rd s E.boot_state == 3 && rd s E.node_id_assigned == 1 && m.dst == rd s E.node_id && decide (rd s E.twin_role < 2)

/-- A request arrives from the fabric. -/
def receive (s : State) (mtype : Nat) (m : Msg) (ecc : Ecc) : Res :=
  done s (if takesMessages s m then acceptRequest s mtype m ecc else s)

def execWrite (m : Msg) (s : State) : Res := receive s 0x01 m .clean
def execRead (m : Msg) (ecc : Ecc) (s : State) : Res := receive s 0x02 m ecc
def execAdd (m : Msg) (ecc : Ecc) (s : State) : Res := receive s 0x03 m ecc
def execDone (m : Msg) (s : State) : Res := receive s 0x04 m .clean
def execConnect (m : Msg) (s : State) : Res := receive s 0x05 m .clean
def execRevoke (m : Msg) (s : State) : Res := receive s 0x06 m .clean
def execSgPrepare (m : Msg) (s : State) : Res := receive s 0x20 m .clean
def execSgQuery (m : Msg) (s : State) : Res := receive s 0x23 m .clean
def execStepArrive (m : Msg) (s : State) : Res := receive s 0x24 m .clean
def execStepRelease (m : Msg) (s : State) : Res := receive s 0x25 m .clean
def execResetNotice (m : Msg) (s : State) : Res := receive s 0x26 m .clean

/-! ## Answers (R589 to R591, R595, R598, R600) -/

/-- An answer that matches nothing is dropped and counted (R600). -/
def unmatched (s : State) : State := inc s (E.window_refusals + 8)

/-- What a request of this device was for is done, with a status and data; its core is awake. -/
def purposeTaken (s : State) (h : Nat) (r : Request) (st : Nat) (d : List Byte) : State :=
  match r.purpose with
  | .other => s
  | .bind x k => if st = 0 then s else finishWaiting (setHandle s h { Handle.init with nextSeq := (handle s h).nextSeq }) x k 0x52 h st
  | .xfer c id key va =>
    match (core s c).xfer id with
    | none => s
    | some _ =>
      let bad := st != 0
      let far := va.isSome && isOutbound key && !bad
      let s := onCore s c fun k => { k with xfers := k.xfers.map fun x =>
        if x.id = id then { x with
          remote := if far then x.remote else x.remote - 1
          status := lowestCode [x.status, st]
          writes := if r.mtype = 2 && !d.isEmpty && !isOutbound key then x.writes ++ [(key, va, d, bad)] else x.writes }
        else x }
      if far then request s (outHandle key) ⟨0, 1, (handle s (outHandle key)).base + outOffset key, 0, d, none, 0, .xfer c id 0 none⟩
      else s

/-- What a request was for is done. The answer to a transfer of a core whose sector makes no beats waits in its router, as every
other response does (R705, R872). -/
def purposeDone (s : State) (h : Nat) (r : Request) (st : Nat) (d : List Byte) : State :=
  match r.purpose with
  | .xfer c _ _ _ => arrival s (c / 25) (.answer h r st d) fun s => purposeTaken s h r st d
  | _ => purposeTaken s h r st d

/-- The group that a WRITE belongs to learns its answer (R516, R518, R524). -/
def groupAnswer (s : State) (node : Nat) (r : Request) (st : Nat) : State :=
  match r.group with
  | none => s
  | some i =>
    let s := setGroup s none i fun g => { g with
      unacked := g.unacked - 1
      acked := if st = 0 ∧ !g.acked.contains node then g.acked ++ [node] else g.acked }
    if st = 0x0501 then setGroup (discard s none i) none i fun g => { g with status := if g.status = 0 then st else g.status } else s

/-- A request is done. -/
def requestDone (s : State) (h : Nat) (r : Request) (st : Nat) (d : List Byte) : State :=
  purposeDone (groupAnswer s (handle s h).node r st) h r st d

/-- A handle fails (R591): every request that waits in it ends with the status. -/
def failHandle (s : State) (h st : Nat) : State :=
  let v := handle s h
  v.held.foldl (fun t r => requestDone t h r st []) (setHandle s h { v with state := 3, failed := st, held := [] })

/-- After an answer: the handle sends what waited, and whatever waited for the answer goes on. -/
def answered (s : State) (h : Nat) : State :=
  let s := settleHandle (pump ((handle s h).held.length + 1) s h) h
  stepProgress (settleGroups s)

/-- The request of a handle with this sequence ends with a status and data. -/
def endRequest (s : State) (h : Nat) (r : Request) (st : Nat) (d : List Byte) : State :=
  let v := handle s h
  let s := setHandle s h { v with out := v.out.filter (·.tseq != r.tseq) }
  let s := requestDone s h r st d
  let s := if (st = 0x0401 ∨ st = 0x0402) ∧ r.mtype ≠ 5 then failHandle s h st else s
  answered s h

/-- The outstanding request that an answer of these types matches. -/
def matching (s : State) (m : Msg) (ok : Nat → Bool) : Option Request :=
  if (handle s m.flow).node = m.src then (handle s m.flow).out.find? fun r => r.tseq == m.tseq && ok r.mtype else none

/-- A request of the device itself has its answer. -/
def noticeDone (s : State) (n : Notice) : State :=
  let s := { s with transport := { s.transport with notices := s.transport.notices.filter (·.tseq != n.tseq) } }
  let s := if n.mtype = 0x22 then
      let i := sgId n.msg
      stepIncrement (settleGroup (setGroup s none i fun g => { g with awaited := g.awaited.filter (· != n.msg.dst) }) i)
    else s
  stepProgress s

/-- The device's own request that an answer matches. -/
def matchNotice (s : State) (m : Msg) (ok : Nat → Bool) : Option Notice :=
  if m.flow = deviceFlow then s.transport.notices.find? fun n => n.tseq == m.tseq && n.msg.dst == m.src && ok n.mtype else none

/-- An answer that the leader accepts goes to its follower (R622). -/
def forwardAnswer (s : State) (mtype : Nat) (m : Msg) : State := forwardInput s 2 (leBytes 1 mtype ++ msgHeader m ++ m.payload)

/-- An ACK completes its request (R598). -/
def takeAck (s : State) (m : Msg) : State :=
  let st := leNat (m.payload.take 2)
  match matching s m fun t => t != 2 with
  | some r => endRequest (forwardAnswer s 0x10 m) m.flow r st ((m.payload.drop 8).take 64)
  | none => match matchNotice s m fun t => t == 0x22 || decide (0x24 ≤ t) with
    | some n => noticeDone (forwardAnswer s 0x10 m) n
    | none => unmatched s

/-- RDATA completes a READ. -/
def takeRdata (s : State) (m : Msg) : State :=
  match matching s m (· == 2) with
  | some r => endRequest (forwardAnswer s 0x11 m) m.flow r (leNat (m.payload.take 2)) (m.payload.drop 8)
  | none => unmatched s

/-- A CREDIT binds a connecting handle, and updates a bound one (R589). -/
def takeCredit (s : State) (m : Msg) : State :=
  let h := m.flow
  let v := handle s h
  if v.node ≠ m.src ∨ v.state = 0 ∨ v.window ≠ m.window ∨ v.state = 3 then unmatched s
  else
    let s := forwardAnswer s 0x12 m
    let g := leNat (m.payload.take 4)
    let f := leNat ((m.payload.drop 4).take 4)
    let newer := v.state == 1 || decide ((g + 2 ^ 32 - v.granted) % 2 ^ 32 < 2 ^ 31)
    let learn := fun (t : State) => setHandle t h { handle t h with
      epoch := m.epoch, granted := if newer then g else v.granted, frontier := f % 2 ^ 28, state := 2 }
    match matching s m (· == 5) with
    | some r => match r.purpose with
      | .bind x k => finishWaiting (endRequest (learn s) h r 0 []) x k 0x52 h 0
      | _ => endRequest (learn s) h r 0 []
    | none => if v.state = 1 then unmatched s else answered (learn s) h

/-- REVOKED reports what the source surrendered (R585). -/
def takeRevoked (s : State) (m : Msg) : State :=
  match matchNotice s m (· == 6) with
  | none => unmatched s
  | some n =>
    let w := n.msg.window
    let s := noticeDone (forwardAnswer s 0x13 m) n
    if winState s w = 2 ∧ winEpoch s w = n.msg.epoch then
      setWin s w { win s w with surrendered := (win s w).surrendered + leNat (m.payload.take 4) }
    else s

/-- A vote answers a prepare request (R518). -/
def takeVoteMsg (s : State) (m : Msg) : State :=
  match matchNotice s m (· == 0x20) with
  | none => unmatched s
  | some n => takeVote (noticeDone (forwardAnswer s 0x21 m) n) (sgId n.msg) m.src (sgVerdict m)

/-- A decision answers a query, or is a request of its own (R519, R530). -/
def takeDecisionMsg (s : State) (m : Msg) : State :=
  match matchNotice s m (· == 0x23) with
  | some n => stepProgress (takeDecision (noticeDone (forwardAnswer s 0x22 m) n) m true).1
  | none => acceptRequest s 0x22 m .clean

/-- An answer arrives from the fabric. -/
def receiveAnswer (s : State) (m : Msg) (f : State → Msg → State) : Res := done s (if takesMessages s m then f s m else s)

def execAck (m : Msg) (s : State) : Res := receiveAnswer s m takeAck
def execRdata (m : Msg) (s : State) : Res := receiveAnswer s m takeRdata
def execCredit (m : Msg) (s : State) : Res := receiveAnswer s m takeCredit
def execRevoked (m : Msg) (s : State) : Res := receiveAnswer s m takeRevoked
def execSgVote (m : Msg) (s : State) : Res := receiveAnswer s m takeVoteMsg
def execSgDecision (m : Msg) (s : State) : Res := receiveAnswer s m takeDecisionMsg

/-! ## Retries (R595) -/

/-- A request without an answer is sent again, or fails with 0x0404. -/
def transportRetry (s : State) (flow tseq : Nat) : State :=
  let most := rd s E.transport_retries
  if flow = deviceFlow then
    match s.transport.notices.find? (·.tseq == tseq) with
    | none => s
    | some n =>
      if n.resends < most then
        sendMsg { s with transport := { s.transport with notices := s.transport.notices.map fun k =>
          if k.tseq = tseq then { k with resends := k.resends + 1 } else k } } n.mtype n.msg
      else noticeDone s n
  else match (handle s flow).out.find? (·.tseq == tseq) with
  | none => s
  | some r =>
    if r.resends < most then
      let v := handle s flow
      let again := fun (q : Request) => if q.tseq = tseq then { q with resends := q.resends + 1 } else q
      let s := setHandle s flow { v with out := v.out.map again }
      sendMsg s r.mtype (requestMsg s flow r)
    else endRequest s flow r 0x0404 []

def execTransportRetry (flow tseq : Nat) (s : State) : Res := done s (transportRetry s flow tseq)

end Sys2Proof.Machine
end

