-- ==== Sys2Proof/Machine/Twin.lean ====
section
/-! DEFINITION. Twin pairing over the yoke (R614 to R641). -/

namespace Sys2Proof.Machine

open Sys2Proof

/-- `twin_state` follows the twin (R641). -/
def refreshTwin (s : State) : State :=
  let one := portActive s 32 != portActive s 33
  let b := fun (x : Bool) (n : Nat) => if x then n else 0
  wr s E.twin_state (b s.twin.syncing.isSome 4 + b (one && rd s E.twin_role != 0) 2 + b (bit (rd s E.twin_state) 0) 1)

/-- A resynchronisation begins (R618, R638): `lead` when this module is the one that is copied. -/
def startSync (s : State) (lead : Bool) : State :=
  let s := wr (wr { s with twin := { s.twin with syncing := some lead, lost := false } } E.twin_sync_progress 0) E.twin_status 1
  refreshTwin (if lead then emit s (.yoke 7 0 []) else s)

/-! ## Binding (R616 to R618) -/

/-- Some assigned partition of this module is in the open mode. -/
def openHere (s : State) : Bool := (List.range 32).any fun p => assigned s p && rd s (E.det_mode + p) == 0

/-- The first check of R617 that a bind fails, or 2. -/
def bindStatus (s : State) (p : TwinPeer) : Nat :=
  if !p.modeMatches then 4 else if !p.identityMatches then 5 else if !p.layoutMatches then 6
  else if p.openMode || openHere s then 7 else if !p.sessionOk then 8 else if rd s E.twin_role ≠ 0 then 9 else 2

/-- The heartbeat that names the peer has been heard, and the bind goes on. -/
def goBind (s : State) : State :=
  match s.twin.binding, s.twin.peer, s.twin.heard with
  | some lead, some p, some h =>
    if h.uid ≠ rd s E.twin_peer_uid ∨ s.twin.lost then s
    else
      let s := { s with twin := { s.twin with binding := none, peer := none } }
      match bindStatus s p with
      | 2 =>
        let s := wr s E.twin_keeper_match (if p.keepersMatch then 1 else 0)
        let s := if lead then s else wr (wr s E.node_id p.node) E.node_id_assigned (if p.nodeAssigned then 1 else 0)
        startSync s lead
      | st => wr s E.twin_status st
  | _, _, _ => s

/-- `twin_cmd` with `op` 1. -/
def bindTwin (s : State) (lead : Bool) (p : TwinPeer) : State :=
  goBind (wr { s with twin := { s.twin with binding := some lead, peer := some p } } E.twin_status 1)

/-- 10 s have passed without a matching bind or a heartbeat. -/
def bindTimeout (s : State) : State :=
  if s.twin.binding.isNone then s
  else
    let heard := s.twin.heard.any fun h => h.uid == rd s E.twin_peer_uid
    wr { s with twin := { s.twin with binding := none, peer := none } } E.twin_status (if heard then 4 else 3)

def execTwinBindTimeout (s : State) : Res := done s (bindTimeout s)

/-! ## Commands (R636 to R638, R640) -/

/-- The command completes with a status. -/
def twinDone (s : State) (st : Nat) : State := wr s E.twin_status st

/-- The other commands of `twin_cmd`. -/
def twinCommand (s : State) (op : Nat) : State :=
  let r := rd s E.twin_role
  if op = 2 then
    if r = 1 then twinDone { s with twin := { s.twin with handOver := true } } 2
    else if r = 2 then twinDone (detachTwin s 1) 2
    else twinDone s 9
  else if op = 3 then
    if r = 3 ∧ s.twin.syncing.isNone then startSync s false else twinDone s 9
  else if op = 4 then
    if r = 0 then twinDone s 9
    else
      let s := if r = 1 then s else wr s E.node_id_assigned 0
      twinDone (refreshTwin (wr (wr { s with twin := Twin.init } E.twin_role 0) E.twin_peer_uid 0)) 2
  else if r = 3 then
    let s := wr (wr s E.twin_role 1) E.twin_generation (rd s E.twin_generation + 1)
    twinDone (refreshTwin { s with twin := { s.twin with helloOnly := false, syncing := none, lost := true } }) 2
  else twinDone s 9

/-- `twin_cmd`; what the peer answers to a bind comes with the command. -/
def twinSem (p : TwinPeer) : EntrySem :=
  { command (fun _ v => decide (1 ≤ bits v 7 4 ∧ bits v 7 4 ≤ 5))
      (fun s _ v => if bits v 7 4 = 1 then bindTwin s (bit v 0) p else twinCommand s (bits v 7 4)) with authOnly := true }

/-- A peer that answers nothing. -/
def TwinPeer.silent : TwinPeer := ⟨false, false, false, false, false, 0, false, false⟩

def execTwinBind (via : Path) (lead : Bool) (p : TwinPeer) (s : State) : Res :=
  done s (access s (writeOf via E.twin_cmd (if lead then 0x11 else 0x10)) (twinSem p))
def execTwinDetach (via : Path) (s : State) : Res := done s (access s (writeOf via E.twin_cmd 0x20) (twinSem TwinPeer.silent))
def execTwinReattach (via : Path) (s : State) : Res := done s (access s (writeOf via E.twin_cmd 0x30) (twinSem TwinPeer.silent))
def execTwinUnbind (via : Path) (s : State) : Res := done s (access s (writeOf via E.twin_cmd 0x40) (twinSem TwinPeer.silent))
def execTwinLeadAlone (via : Path) (s : State) : Res := done s (access s (writeOf via E.twin_cmd 0x50) (twinSem TwinPeer.silent))

/-- The copy completes at a boundary (R618, R638). -/
def resyncDone (s : State) : State :=
  match s.twin.syncing with
  | none => s
  | some lead =>
    let s := { s with twin := { s.twin with syncing := none, helloOnly := false, lost := false } }
    let s := wr (wr s E.twin_role (if lead then 1 else 2)) E.twin_detach_cause 0
    refreshTwin (wr (wr (wr s E.twin_bound_time (now s)) E.twin_sync_progress 100) E.twin_status 2)

def execTwinResyncDone (s : State) : Res := done s (resyncDone s)

/-! ## Heartbeats (R629, R634, R636) -/

def ownHeartbeat (s : State) : Heartbeat :=
  ⟨ownUid s, rd s E.twin_role, rd s E.twin_generation, rd s E.step_counter, rd s E.twin_sequence⟩

def execTwinHeartbeatSend (p : Nat) (s : State) : Res :=
  guarded (decide (p = 32 ∨ p = 33)) s (if portActive s p then emit (sendFlits s p 2 1) (.heartbeat p (ownHeartbeat s)) else s)

/-- The twin claims the leader role with a better claim (R634): this module gives it up, and keeps HELLO alone. -/
def superseded (s : State) (h : Heartbeat) : Bool :=
  rd s E.twin_role == 1 && h.role == 1 &&
    (decide (rd s E.twin_generation < h.generation) ||
      (h.generation == rd s E.twin_generation && decide (rd s E.twin_sequence < h.sequence)))

/-- What a heartbeat of the twin leads to besides being heard. -/
def heardTwin (s : State) (h : Heartbeat) : State :=
  let auto := rd s E.twin_auto_reattach == 1 && s.twin.syncing.isNone
  if superseded s h then detachTwin s 7
  else if rd s E.twin_role = 3 ∧ rd s E.twin_detach_cause = 6 ∧ h.role = 1 ∧ auto then startSync s false
  else if rd s E.twin_role = 1 ∧ h.role = 3 ∧ auto then startSync s true
  else goBind s

def heartbeat (s : State) (p : Nat) (h : Heartbeat) : State :=
  if !portActive s p ∨ h.uid ≠ rd s E.twin_peer_uid then s
  else
    let s := { s with twin := { s.twin with heard := some h, heardTime := now s, lost := false } }
    refreshTwin (heardTwin (wr s E.twin_state (setBit (rd s E.twin_state) 0 true)) h)

def execTwinHeartbeat (p : Nat) (h : Heartbeat) (s : State) : Res :=
  guarded (decide (p = 32 ∨ p = 33)) s (heartbeat s p h)

/-- No heartbeat for `twin_loss_ms` (R629, R631): one is missing for each millisecond. DEDUCED (log 125). -/
def twinLoss (s : State) : State :=
  let s := wr s E.twin_state (setBit (rd s E.twin_state) 0 false)
  let s := incBy s E.twin_heartbeat_miss_count (rd s E.twin_loss_ms)
  let lostSync := s.twin.syncing == some false
  let s := { s with twin := { s.twin with lost := true, syncing := none } }
  let s := if lostSync then detachTwin s 6
    else if rd s E.twin_role = 1 then wr s E.twin_detach_cause 5
    else s
  stepProgress (refreshTwin s)

def execTwinLoss (s : State) : Res := done s (if rd s E.twin_role = 0 ∧ s.twin.syncing.isNone then s else twinLoss s)

/-! ## Records (R622 to R627) -/

/-- The follower acknowledges a record. -/
def ackYoke (s : State) (n : Nat) : State := emit s (.yoke 11 n [])

/-- An answer that the leader accepted is taken, by its type. -/
def takeAnswer (s : State) (mtype : Nat) (m : Msg) : State :=
  if mtype = 0x10 then takeAck s m else if mtype = 0x11 then takeRdata s m else if mtype = 0x12 then takeCredit s m
  else if mtype = 0x13 then takeRevoked s m else if mtype = 0x21 then takeVoteMsg s m else takeDecisionMsg s m

/-- The leader's answer is kept, as if this module had sent it (R596, R622). -/
def answerRecord (s : State) (src flow tseq mtype : Nat) (ans : Msg) : State :=
  if rd s E.twin_role ≠ 2 then s
  else
    let t := s.transport
    let old := t.kept.filter fun k => !(k.src == src && k.flow == flow && k.tseq == tseq)
    { s with transport := { t with kept := old ++ [⟨src, flow, tseq, mtype, ans, now s⟩] } }

def execAnswerRecord (src flow tseq mtype : Nat) (ans : Msg) (s : State) : Res := done s (answerRecord s src flow tseq mtype ans)

/-- The noise key of a core's next program start (R623). -/
def execNoiseKeysRecord (c : Nat) (key : BitVec 128) (s : State) : Res :=
  guarded (decide (c < 800)) s (if rd s E.twin_role = 2 then
    { s with twin := { s.twin with noise := Tab.set none s.twin.noise c (some key.toNat) } } else s)

/-- A granule of the leader is written here: an HBM address, or an on-chip address. -/
def putGranule (s : State) (e : Nat × List Byte) : State :=
  if e.1 < 2 ^ 38 then hbmStore s e.1 e.2 else wrBytes s (onchipKey e.1) e.2

/-- A delta is staged, or the state copy is written as it comes (R627, R628, R638). -/
def twinDelta (s : State) (a : Nat) (d : List Byte) : State :=
  if s.twin.syncing = some false then putGranule s (a, d)
  else if rd s E.twin_role ≠ 2 ∨ rd s E.twin_mode ≠ 2 then s
  else
    let l := s.twin.deltas ++ [(a, d)]
    if rd s E.twin_delta_max_gib * 2 ^ 30 < (l.map fun e => e.2.length).sum then detachTwin s 4
    else { s with twin := { s.twin with deltas := l } }

def execTwinDelta (a : Nat) (d : List Byte) (s : State) : Res := done s (twinDelta s a d)

/-- The commit record of a step reaches the follower (R624, R626, R627). -/
def commitRecordIn (s : State) (n : Nat) (ds : List (Nat × Nat)) (digest : List Byte) : State :=
  if rd s E.twin_role ≠ 2 then s
  else if rd s E.twin_mode = 1 then
    let s := ackYoke { s with twin := { s.twin with commit := some (n, digest) } } n
    let s := compareDigests s
    if rd s E.twin_role = 2 ∧ n = rd s E.step_counter ∧ localQuiet s ∧ !s.step.quiescent then fallBoundary (becomeQuiet s) else s
  else
    let s := s.twin.deltas.foldl putGranule s
    let s := { s with
      commitLog := s.commitLog ++ ds.map fun d => ⟨none, d.1, n, d.2 == 0, now s⟩
      twin := { s.twin with deltas := [], inputs := [] } }
    ackYoke (wr (wr s E.step_counter (n + 1)) E.twin_sequence n) n

def execCommitRecord (n : Nat) (ds : List (Nat × Nat)) (digest : List Byte) (s : State) : Res := done s (commitRecordIn s n ds digest)

/-- A mirror follower that is later than `twin_lag_max_ms` detaches, and the leader's boundary proceeds (R625). -/
def lagExpiry (s : State) : State :=
  if rd s E.twin_role = 2 then detachTwin s 3
  else if rd s E.twin_role = 1 then stepProgress { s with twin := { s.twin with lost := true } }
  else s

def execTwinLagExpiry (s : State) : Res := done s (lagExpiry s)

/-! ## Takeover (R630, R632) -/

/-- Requests that have no answer are sent again, with the same sequences. -/
def resendAll (s : State) : State :=
  let s := s.handles.foldl (fun t h => h.2.out.foldl (fun u r => sendMsg u r.mtype (requestMsg u h.1 r)) t) s
  s.transport.notices.foldl (fun t n => sendMsg t n.mtype n.msg) s

/-- After a reset a bound module is detached, its fabric ports limited to HELLO (R636). -/
def twinReset (s : State) : State :=
  let s := { s with twin := { Twin.init with helloOnly := rd s E.twin_role != 0 } }
  if rd s E.twin_role = 0 then s else wr (wr s E.twin_role 3) E.twin_detach_cause 6

end Sys2Proof.Machine
end

