-- ==== Sys2Proof/Machine/Units.lean ====
section
/-! DEFINITION. What each unit loses when its power goes, what a reset does to it, and what a boot gives back (R155, R175
to R177, R490, R530 to R533, R684, R706, R717, R793, R794, R796, R811, R812). -/

namespace Sys2Proof.Machine

open Sys2Proof

/-! ## A sector without power (R155, R175 to R177, R796) -/

/-- Core memory of sector x loses the banks that `keep` does not select (R175). -/
def clearCoreMemory (s : State) (x keep : Nat) : State :=
  let stays := fun k => decide (k < Mem.onchip x 0 0 ∨ Mem.onchip x 25 0 ≤ k) || bit keep (k / 64 % 16)
  { s with
    mem := s.mem.filter fun e => stays e.1
    poison := s.poison.filter fun e => stays e.1
    flips := s.flips.filter fun e => stays e.1 }

/-- The cores of sector x stop and lose what they hold; a core with a retained bank keeps `cm_attr` (R177). -/
def clearCores (s : State) (x keep : Nat) : State :=
  (List.range 25).foldl (fun t p =>
    let c := 25 * x + p
    setCore t c (if keep = 0 then Core.init else { Core.init with cmAttr := (core t c).cmAttr })) s

/-- Sector x loses power, but for the core-memory banks that `keep` selects and, with `commons`, its commons. Its levels
stand in the power manager. -/
def sectorLost (s : State) (x keep : Nat) (commons : Bool) : State :=
  let c := 25 * x
  let s := zeroFill s (Mem.tile c 0 0) (Mem.tile (c + 25) 0 0)
  let s := zeroFill s (Mem.acc c 0 0) (Mem.acc (c + 25) 0 0)
  let s := zeroFill s (Mem.prog c 0 0) (Mem.prog (c + 25) 0 0)
  let s := clearCores (clearCoreMemory s x keep) x keep
  let s := if commons then s else zeroFill s (Mem.commons x 0) (Mem.commons x 0x800000)
  let s := { setLanding s x [] with arrivals := s.arrivals.filter fun a => a.sector != some x }
  let v := sector s x
  setSector s x { Sector.init with cap := v.cap, throttle := v.throttle, pace := v.pace, volt := v.volt, slept := v.slept }

/-! ## A reset of one sector (R794) -/

/-- Windows in a state that f names whose target is core memory or commons of sector x. -/
def windowsOf (s : State) (x : Nat) : List Nat :=
  (windowsWhere s fun v => v == 1 || v == 2).filter fun w => decide (winTarget s w < 2) && winSector s w == x

/-- The windows of sector x become QUIET. -/
def windowsQuiet (s : State) (x : Nat) : State := (windowsOf s x).foldl quietWindow s

/-- A command that ran when its sector was reset posts its completion; `hung` names the cores that the hang named. -/
def postAborted (s : State) (x k : Nat) (t : Taken) (st hung : Nat) : State :=
  postCompletion { s with freeCtr := s.freeCtr + 1 } x k (completionRecord s t st (hung &&& bits (t.word 0) 24 0) 0 (plainBeats s))

/-! ## A device-level reset and the boot after it (R531, R532, R636, R750, R781, R793, R796, R841) -/

/-- Groups at a reset: a commit that stands in the log keeps its staged HBM granules when HBM keeps its contents; every other
group of this device was aborted (R530, R531), and other devices' groups that are not decided are dropped. DEDUCED (log 138). -/
def resetGroups (s : State) (kept : Bool) : State :=
  let stays := fun (g : Group) => kept && g.state == 4
  let lost := s.groups.filter fun g => g.opener.isNone && g.state != 4
  let cut := fun (g : Group) => { g with granules := g.granules.filter fun r => decide (r.base < 2 ^ 38), awaited := [], waiter := none, unacked := 0, binds := [] }
  noteGroups { s with
    groups := (s.groups.filter stays).map cut
    resolved := lost.foldl (fun t g => Tab.set none t g.id (some (0x0503, 0, g.step))) s.resolved
    commitLog := if kept then s.commitLog else [] }

/-- What a device-level reset of this kind leaves of the units, after the dictionary has taken its defaults. -/
def unitsReset (s : State) (kind : Nat) : State :=
  let s := resetGroups s (kind != 1 && s.supply.mainOn)
  let s := { s with
    laces := [], handles := [], windows := [], transport := Transport.init, step := StepSt.init, routes := [], paths := []
    island := { Island.init with scrubs := s.island.scrubs } }
  let s := if kind = 1 then (List.range 32).foldl eraseReplay { s with resolved := [] } else s
  pkeReset (noteReleases (heldLost (refreshCables (twinReset s))))

/-- The last decision that the log holds for a group of this device. -/
def loggedStep (s : State) (i : Nat) : Nat :=
  ((s.commitLog.reverse.find? fun d => d.opener.isNone && d.id == i).map Decision.step).getD 0

/-- A committed group whose staged granules did not survive is counted, and queries for it are answered with 0x0503 (R532). -/
def groupLost (s : State) (i : Nat) : State :=
  inc { s with resolved := Tab.set none s.resolved i (some (0x0503, 0, loggedStep s i)) } E.sg_lost_count

/-- The committed groups in the log are applied (R531), or counted lost (R532). -/
def bootGroups (s : State) (lost : List Nat) : State :=
  let live := s.groups.filter fun g => !(g.opener.isNone && lost.contains g.id)
  let s := live.foldl (fun t g => g.granules.foldl showGranule t) s
  let s := live.foldl (fun t g => if g.opener.isNone then { t with resolved := Tab.set none t.resolved g.id (some (0, 0, g.step)) } else t) s
  lost.foldl groupLost (noteGroups { s with groups := [] })

/-- The record in eMRAM is copied to the next of 16 HBM slots, when HBM is available (R804). -/
def copyCrash (s : State) : State :=
  match s.recovery.crashHeld with
  | some q =>
    if rd s E.crash_state = 2 ∧ s.supply.mainOn then
      let r := s.recovery
      wr { s with recovery := { r with
        crashCopies := Tab.set 0 r.crashCopies r.crashSlot q, crashSlot := (r.crashSlot + 1) % 16 } } E.crash_state 3
    else s
  | none => s

/-- The window table is cleared: every window is FREE (R586, R713). -/
def clearWindows (s : State) : State := { zeroFill s 0 (2 ^ 26) with windows := [] }

/-- The steps of a boot that need HBM or a sector (R793, R874): every domain is ON, the window table is cleared, groups are
settled, rings are enabled again, scrubs start again, and ports that were enabled return to DOWN. -/
def bootUnits (s : State) (lost : List Nat) : State :=
  let s := (List.range 40).foldl (fun t d => setDomain t d 0) s
  let s := wr (pkeWipe s) E.pacer_lock_status (2 ^ 32 - 1)
  let s := { s with
    power := { s.power with routersOff := 0, deep := 0, owes713 := false, waking := 0, padWait := 0 }
    recovery := { s.recovery with deferred := none } }
  let s := bootGroups (clearWindows s) lost
  let s := (List.range 32).foldl (fun t x => (List.range 8).foldl (fun u k =>
    if rd u (E.ring_enable + ringAt x k) = 1 then ringReenable u x k else u) t) s
  [36, 37, 38].foldl portsOn (copyCrash (resumeScrubs s))

/-- Steps that waited for the main stage run (R874). -/
def runDeferred (s : State) : State :=
  match s.recovery.deferred with
  | some l => bootUnits s l
  | none => s

/-- The commit log, as a save stores its heads (R519, R717): opener (65,536 for this device), ID and verdict in one
number, and the step. -/
def savedLog (s : State) : List (Nat × Nat) :=
  s.commitLog.map fun d => (d.opener.getD 65536 * 8192 + d.id * 2 + (if d.commit then 1 else 0), d.step)

/-- The commit log that a save gives back. -/
def restoredLog (s : State) (l : List (Nat × Nat)) : List Decision :=
  l.map fun e => ⟨if e.1 / 8192 = 65536 then none else some (e.1 / 8192), e.1 / 2 % 4096, e.2, e.1 % 2 == 1, now s⟩

/-! ## Keepers (R811, R812) -/

/-- A swap of logical core c is refused. -/
def coreSwapRefused (s : State) (c : Nat) : Bool :=
  let x := c / 25
  let k := core s c
  k.running || (sector s x).landing.any (·.target == c % 25) || shadowUsedAt s (1 + c) != 0 || !k.holds.isEmpty ||
    k.keys.any (fun e => e.2.state != 0) ||
    (sector s x).rings.any fun r => r.2.queue.any fun t => (t.cores x).contains c

/-- Logical core c stands on another slot: core memory, program memory, `cm_attr` and the pinned translations have come
with it; its tiles and accumulators have not, and read as zeros. DESIGN CHOICE (log 20). -/
def coreMoved (s : State) (c : Nat) : State :=
  let k := core s c
  let s := zeroFill s (Mem.tile c 0 0) (Mem.tile (c + 1) 0 0)
  let s := zeroFill s (Mem.acc c 0 0) (Mem.acc (c + 1) 0 0)
  setCore s c { Core.init with cmAttr := k.cmAttr, front := k.front, kernel := k.kernel, pinned := k.pinned, bound := k.bound }

/-! ## Conditions of a sleep entry (R533, R684, R706) -/

/-- A core of sector x runs, a record taken from its rings has not completed, or its partition is being scrubbed
(R706, R760). -/
def coresBusy (s : State) (x : Nat) : Bool :=
  sectorCoresRun s x || ((sector s x).rings.any fun r => !r.2.queue.isEmpty) || (ownerOf s x).any (scrubbing s)

/-- A shadow granule of sector x is in use, or a core of it is bound (R533). -/
def shadowUsed (s : State) (x : Nat) : Bool :=
  s.groups.any (·.inSector x) || (List.range 25).any fun p => isBound s (25 * x + p)

/-- A ring of sector x is idle: enabled, with nothing taken, held or waiting in its slots. -/
def ringIdle (s : State) (x k : Nat) : Bool :=
  ringStatus s x k == 1 && (ringOf s x k).queue.isEmpty && (ringOf s x k).held.isEmpty && !slotReady s x k

/-- An enabled ring of sector x refuses a sleep in a state (R684). -/
def ringsBlock (s : State) (x state : Nat) : Bool :=
  let on := (List.range 8).filter fun k => ringStatus s x k != 0
  let ev := (List.range 32).any fun p => rd s (E.ev_enable + 256 * p) == 1 && rd s (E.ev_sector + 256 * p) % 32 == x
  (!on.isEmpty || ev) && !(state == 2 && bit (rd s E.commons_retain) x && on.all (ringIdle s x))

/-- A window that targets sector x, or any window, is OPEN or CLOSING. -/
def windowOpenAt (s : State) (x : Nat) : Bool := !(windowsOf s x).isEmpty
def windowOpenAny (s : State) : Bool := !(windowsWhere s fun v => v == 1 || v == 2).isEmpty

/-- Firmware staging or a key-set registration is in progress. -/
def loadRuns (s : State) : Bool := s.island.staging.isSome || rd s E.keyset_status == 1

end Sys2Proof.Machine
end

