-- ==== Sys2Proof/Machine/Lifecycle.lean ====
section
/-! DEFINITION. Losing power, the last save, and every kind of reset (R49, R717 to R722, R789 to R796, R806,
R868 to R871): the operations that the supply, power and recovery families share. -/

namespace Sys2Proof.Machine

open Sys2Proof

/-- The persistence code of the entry with key k (R13, R659); sub-index 0 is F. -/
def dictPers (k : Nat) : Nat := ((dictRow (k / 256) (k % 256)).map DRow.pers).getD 4

/-- A reset returns V entries, and W entries when `warm` is false, to their defaults (R13, R791). -/
def dictReset (s : State) (warm : Bool) : State :=
  { s with dict := s.dict.filter fun e => decide ((if warm then 2 else 3) ≤ dictPers e.1) }

/-- `hbm_capacity_bytes` reports the capacity of the slots that stand: the map-outs outlive a reset, and R193 goes before the
default that R791 gives a V entry. DESIGN CHOICE (log 195). -/
def capacityNow (s : State) : State := wr s E.hbm_capacity_bytes (hbmTop s.hbm.out.length)

/-- Every switched domain loses power: its contents are lost, its work ends, its pads are unlatched (R49, R719).
HBM keeps its contents in self-refresh when `keep` holds (R790). -/
def mainLost (s : State) (keep : Bool) : State :=
  let s := abandonEntry s
  let s := (List.range 32).foldl (fun t x => sectorLost t x 0 false) s
  let s := pkeLost (portsDisable s)
  let s := (List.range 40).foldl (fun t d => setDomain t d 4) s
  let s := wr (wr s E.pad_hold 0) E.pacer_lock_status 0
  let s := if keep then s else
    { zeroFill s 0 (2 ^ 38) with hbm := { s.hbm with lost := [], soft := [], op := none, waiting := [] } }
  { s with power := { s.power with waking := 0, byRequest := 0 }, supply := { s.supply with dieHot := false } }

/-- The measured main current: below 50 mA while the main stage is disabled (R51, R867); the value is free (log 185). -/
def mainCurrent (s : State) (ma : Nat) : State :=
  if s.supply.mainOn then wr s E.main_current_ma ma
  else wr { s with freeCtr := s.freeCtr + 1 } E.main_current_ma (openValue 185 s.freeCtr 0 % 50)

/-- The main power stage goes off. -/
def stageOff (s : State) : State :=
  mainCurrent { s with supply := { s.supply with mainOn := false, coolLow := false } } 0

/-- The module disables the main power stage. -/
def mainOff (s : State) : State := if s.supply.mainOn then stageOff (mainLost s false) else s

/-- The critical state, as a save stores it (R717). -/
def critical (s : State) (cause : Nat) : SaveImage :=
  ⟨rd s E.ls_sequence + 1, cause, now s, rd s E.step_counter, rd s E.twin_sequence, rd s E.twin_generation,
    s.recovery.escal, savedLog s, !s.recovery.crashes.isEmpty⟩

/-- Why the main stage stays off after a save with these causes (R721, R80, R870). -/
def holdAfter (cause : Nat) : Hold :=
  if bit cause 5 then .auxOvervoltage else if bit cause 3 ∨ bit cause 4 then .trip else .sag

/-- The hold after a save that met another: a trip's stays (R80), but an AUX overvoltage ends in a power-on reset (R870). -/
def joinHold (h : Hold) (cause : Nat) : Hold :=
  if h = .trip ∧ !bit cause 5 then .trip else holdAfter cause

/-- A last save is declared with a cause, or a cause joins the save in progress (R81, R719, R720, R868). At the
freeze a crash collection stops and its open header is saved (R806). -/
def lastSave (s : State) (cause : Nat) : State :=
  if s.save.running then
    let c := rd s E.last_save_cause ||| cause
    { wr s E.last_save_cause c with supply := { s.supply with hold := joinHold s.supply.hold c, mrstDone := false } }
  else
    let s := wr s E.last_save_cause cause
    let s := { s with pins := { s.pins with sagOut := true } }
    let img := critical s cause
    let s := if s.recovery.crashes.isEmpty then s
      else wr { s with recovery := { s.recovery with crashes := [] } } E.crash_state 4
    let s := if s.supply.mainOn then mainOff s else abandonEntry s
    { s with
      save := { s.save with running := true, frozen := img }
      supply := { s.supply with hold := joinHold s.supply.hold cause, mrstDone := false } }

/-- The newest valid slot (R718). -/
def newestSave (v : Save) : Option SaveImage :=
  match v.slotA, v.slotB with
  | some a, some b => if a.seq < b.seq then some b else some a
  | some a, none => some a
  | none, b => b

/-- The save's bytes: commit-log heads, counters, an open crash header, the save header (R717). -/
def saveBytes (v : SaveImage) : Nat := 32768 + 512 + (if v.crashOpen then 4096 else 0) + 64

/-- The save's header is written and read back: the slot that does not hold the newest save becomes the newest
(R718, R719, R725, R868). -/
def saveEnd (s : State) (us mv : Nat) : State :=
  let img := { s.save.frozen with cause := rd s E.last_save_cause }
  let toB := match s.save.slotA, s.save.slotB with
    | some a, some b => decide (b.seq < a.seq)
    | some _, none => true
    | none, _ => false
  let v := if toB then { s.save with slotB := some img } else { s.save with slotA := some img }
  let s := { s with save := { v with running := false, restore := true } }
  let s := wr (wr (wr (wr s E.ls_sequence img.seq) E.ls_duration_us us) E.ls_bytes (saveBytes img)) E.ls_aux_mv_end mv
  setAlert (inc s E.last_save_count) 16

/-- A device-level reset returns the status of the reference to what the inputs give; after a fallback the crystal stays in use
(R66, R68, R89). -/
def timerefReset (s : State) (v : Nat) : State :=
  wr s E.timeref_status
    ((if bit v 0 then 1 else 0) +
      (if bit v 0 && rd s E.timeref_source == 1 && s.supply.timerefGood && !s.supply.timerefFell then 2 else 0))

/-- The hangs that wait, and the collection in progress, at a device-level reset (R806). -/
def crashAtReset (s : State) (kind : Nat) : State :=
  match s.recovery.crashes with
  | [] => s
  | _ :: t =>
    let s := incBy s E.crash_lost_count t.length
    let s := if kind = 3 then wr s E.crash_state 4 else s
    { s with recovery := { s.recovery with crashes := [] } }

/-- Every sector's granted level follows its request again (R694). -/
def levelsReset (s : State) : State :=
  (List.range 32).foldl (fun t x =>
    let t := regrant (setSector t x { sector t x with cap := 0, throttle := 0, ramp := none }) x
    let g := rd t (E.sector_level + x)
    setSector t x { sector t x with ramp := none, pace := g, volt := g }) s

/-- A device-level reset of this kind (R789 to R791, R796). It keeps HBM when the main stage feeds it, the PCIe
link, configuration space, the MSI-X table and the I3C dynamic address. -/
def startReset (s : State) (kind : Nat) : State :=
  let s := bootLog (crashAtReset s kind) 5 kind 0 0 []
  let s := mainLost s s.supply.mainOn
  let link := rd s E.pcie_link_status
  let tref := rd s E.timeref_status
  let addr := rd s E.i3c_static_address
  -- the fuse of an accepted debug unlock is blown now (R729)
  let fuses := (if s.island.unlock ∧ rd s E.lifecycle_state = 2 then 3 else rd s E.lifecycle_state, rd s E.svn_floor)
  let s := unitsReset (dictReset { s with island := { s.island with unlock := false } } true) kind
  let s := wr (wr (wr (wr s E.pcie_link_status link) E.i3c_static_address addr) E.lifecycle_state fuses.1) E.svn_floor fuses.2
  let s := timerefReset s tref
  let s := wr (wr (inc s E.device_reset_count) E.last_reset_kind kind) E.last_reset_time (now s)
  let r := s.recovery
  let s := { s with
    recovery := { r with
      escal := if kind = 5 ∨ kind = 6 then r.escal ++ [now s] else r.escal
      kind := kind, keeper := none, meshTest := none, meshRepeats := [], fullTest := none, deferred := none }
    hbm := { s.hbm with op := none, waiting := [], soft := [] }
    power := { PowerMgr.init with owes713 := s.power.owes713 }
    host := { s.host with dw := DictWindow.init, stalled := [] }
    supply := { s.supply with mrstWaits := false }
    sessions := [] }
  capacityNow (refreshCap (levelsReset s))

/-- A power-on reset: everything, the always-on domain included (R789, R796, R869). The newest valid save is restored at the
boot (R722). `mrst`: `MRST_N` is high; `rom`: the boot ROM passes its self-check (R51). -/
def powerOnReset (s : State) (straps : Nat) (perst mrst rom : Bool) : State :=
  let s := mainLost s false
  let fuses := (rd s E.lifecycle_state, rd s E.svn_floor)
  let s := unitsReset (dictReset s false) 1
  let s := wr (wr (wr s E.i3c_static_address (0x30 + straps % 16)) E.lifecycle_state fuses.1) E.svn_floor fuses.2
  let s := if s.save.torn then inc s E.ls_torn_count else s
  let s := wr (wr s E.last_reset_kind 1) E.last_reset_time 0
  let r := s.recovery
  let s := { s with
    save := { s.save with running := false, torn := false, restore := true, lost := true }
    recovery := { r with
      escal := [], sectorHangs := [], crashes := [], kind := 1, keeper := none, meshTest := none, meshRepeats := [],
      fullTest := none, deferred := none }
    hbm := { s.hbm with op := none, waiting := [], soft := [], ues := [] }
    power := PowerMgr.init
    host := { HostSide.init with refclkSampled := if perst then rd s E.pcie_refclk_mode else s.host.refclkSampled }
    supply := { Supply.init with hot := s.supply.hot, timerefGood := s.supply.timerefGood, auxOk := true, romOk := rom }
    pins := { s.pins with straps := straps % 16, perstHigh := perst, mrstHigh := mrst, sagOut := false, thermTrip := false }
    sessions := [] }
  capacityNow (refreshCap (levelsReset s))

/-- The entries of class V whose owning unit is in sector x, by key (R791, R796). -/
def sectorV (x : Nat) : List Nat :=
  [E.pace_break_count + x, E.sector_beat_rate + x, E.cm_corrected_count + x, E.cm_reconstructed_count + x,
   E.commons_corrected_count + x, E.landing_ranges_open + x, E.translation_fault_count + x,
   E.schedule_fault_count + x, E.pe_range_count + x, E.pe_encode_saturation_count + x, E.he_command_count + x,
   E.he_fault_count + x, E.me_saturation_count + x, E.ve_saturation_count + x, E.ve_nonfinite_count + x,
   E.key_stream_fault_count + x, E.descriptor_invalid_count + x] ++
  (List.range 8).map (fun k => E.ring_status + 256 * (8 * x + k)) ++
  (List.range 32).map (fun i => E.spc_cfg + 256 * x + i) ++
  (List.range 64).map (fun i => E.lat_hist + 256 * x + i) ++
  (List.range 25).flatMap (fun p => (List.range 16).map fun i => E.cpc_cfg + 256 * (25 * x + p) + i)

/-- A sector reset of kind 0x10 or 0x11, in the order of R794. The mesh router stays powered. `hung`
names the active positions that a hang named. -/
def sectorReset (s : State) (x kind hung : Nat) : State :=
  let taken := (List.range 8).map fun k => (k, (Tab.get Ring.init (sector s x).rings k).queue.filter (·.started))
  let s := laceStopSector s x
  let s := groupsSectorReset s x
  let s := windowsQuiet s x
  let s := sectorLost s x 0 false
  let s := (sectorV x).foldl (fun t k => wr t k (dictDefault k)) s
  let s := levelAtWake (setDomain s x 0) x
  let s := wr s E.pacer_lock_status (setBit (rd s E.pacer_lock_status) x true)
  let s := (List.range 8).foldl (fun t k => ringReenable t x k) s
  let st := if kind = 0x11 then 0x0901 else 0x0503
  let s := taken.foldl (fun t e => e.2.foldl (fun u r => postAborted u x e.1 r st hung) t) s
  let s := inc s (E.sector_reset_count + x)
  let s := wr (wr s E.last_reset_kind kind) E.last_reset_time (now s)
  let r := s.recovery
  let r := match r.keeper with
    | some (y, _, _) => if y = x then { r with keeper := none } else r
    | none => r
  { s with recovery := { r with
      sectorHangs := if kind = 0x11 then Tab.set [] r.sectorHangs x (now s :: Tab.get [] r.sectorHangs x)
        else r.sectorHangs } }

end Sys2Proof.Machine
end

