-- ==== Sys2Proof/Machine/Supply.lean ====
section
/-! DEFINITION. Commands of 02_module_connectors_supplies: supplies, the main stage, last saves, cooling, pins and
measured quantities. -/

namespace Sys2Proof.Machine

open Sys2Proof

def execPowerOnReset (straps : Nat) (found : PowerUp) (s : State) : Res :=
  done s (powerOnReset s straps found.perstHigh found.mrstHigh found.romOk)

/-! ## Pins that stand for other state (R39, R42, R63) -/

/-- The test access port answers in the life-cycle states MANUFACTURE and RMA_DEBUG; in the others it ignores its inputs (R39,
R728). -/
def tapAnswers (s : State) : Bool := rd s E.lifecycle_state == 1 || rd s E.lifecycle_state == 3

/-- The level of `TDO` at shift n of an answer, `none` while it is high-impedance (R39, R63). What the port answers is not
stated: a free value (log 186). -/
def tdo (s : State) (n : Nat) : Option Bool :=
  if tapAnswers s && !s.supply.aonHeld then some (openValue 186 n 0 % 2 == 1) else none

/-- `CAB_3V3` of port connector p is powered while the port's domain is on (R42, R693), which it is not yet while it
wakes. DEDUCED (log 207). -/
def cabPower (s : State) (p : Nat) : Bool := s.supply.mainOn && decide (domainState s (portDomain p) ≤ 2)

/-- An open-drain output that the module pulls low reads low; with AUX absent it is released (R63); below 9.0 V it counts as
absent. DEDUCED (log 206). -/
def sagLow (s : State) : Bool := s.pins.sagOut && !s.supply.aonHeld
def thermTripLow (s : State) : Bool := s.pins.thermTrip && !s.supply.aonHeld

/-- Whether the inputs lie in their operating ranges (R44, R90 bit 0). -/
def noteInputs (s : State) (mainMv auxMv : Nat) : State :=
  refreshAlert { s with supply := { s.supply with mainOk := mainInRange mainMv, auxOk := auxInRange auxMv } }

/-- Every condition of R51, with those of R79 and of the holds, and the device not in SL4 (R47, R871). -/
def mayEnable (s : State) (mainMv auxMv : Nat) : Bool :=
  auxInRange auxMv && mainInRange mainMv && s.supply.romOk && s.pins.mrstHigh && s.pins.coolOk &&
    s.supply.hold == .none && !s.supply.hot && s.power.deep != 4 && !s.supply.aonHeld && !s.save.running

/-- The main stage is enabled; what waited for it runs (R51, R874). -/
def enableMain (s : State) : State :=
  let s := { s with supply := { s.supply with mainOn := true } }
  let w := s.power.waitMain
  let s := { s with power := { s.power with waitMain := 0 } }
  let s := runDeferred s
  (List.range 40).foldl (fun t d => if bit w.toNat d then wakeOne t d else t) s

/-- The condition of the present hold has been met for 10 ms (R49, R721). -/
def holdMet (s : State) (mainMv auxMv : Nat) : Bool :=
  (match s.supply.hold with
    | .overvoltage => mainInRange mainMv
    | .sag => mainRecovered mainMv && auxRecovered auxMv
    | _ => false) && !s.save.running && !s.supply.aonHeld

/-- The present hold ends. -/
def endHold (s : State) : State := { s with supply := { s.supply with hold := .none, mrstDone := false } }

/-- The module enables the main stage when every condition holds, and otherwise keeps it as it is. A hold in whose place an
external reset has been ends by its own condition (R871). -/
def mainStageEnable (s : State) (mainMv auxMv : Nat) : State :=
  let s := noteInputs s mainMv auxMv
  let s := if s.supply.mrstDone && holdMet s mainMv auxMv then endHold s else s
  if mayEnable s mainMv auxMv && !s.supply.mainOn then enableMain s else s

def execMainStageEnable (mainMv auxMv : Nat) (s : State) : Res := done s (mainStageEnable s mainMv auxMv)

/-- Main exceeds 58.0 V (R44, R48, R49). A stage that is disabled already, in SL4 or before its first enabling, is held off too.
DESIGN CHOICE (log 187). -/
def mainOvervoltage (s : State) (mv : Nat) : State :=
  if 58000 < mv then
    let s := mainOff s
    let s := if s.supply.hold = .none then
      { s with supply := { s.supply with mainOk := false, hold := .overvoltage, mrstDone := false } }
      else { s with supply := { s.supply with mainOk := false } }
    setAlert s 1
  else s

def execMainOvervoltage (mv : Nat) (s : State) : Res := done s (mainOvervoltage s mv)

/-- AUX exceeds 13.5 V (R44, R870); with the always-on domain held in reset nothing is left to save. -/
def auxOvervoltage (s : State) (mv : Nat) : State :=
  if 13500 < mv ∧ !s.supply.aonHeld then
    let s := mainOff s
    let s := setAlert { s with supply := { s.supply with auxOk := false } } 1
    lastSave s 32
  else s

def execAuxOvervoltage (mv : Nat) (s : State) : Res := done s (auxOvervoltage s mv)

/-- The supply-recovery reset of an overvoltage shutdown or of a sag save, once the hold's own condition has been
met for 10 ms; it re-enables the main stage under R51 (R49, R721). An external reset takes its place (R871). -/
def supplyRecovery (s : State) (mainMv auxMv : Nat) : State :=
  let s := noteInputs s mainMv auxMv
  if holdMet s mainMv auxMv then
    let s := endHold (if s.supply.mrstDone then s else startReset s 2)
    if mayEnable s mainMv auxMv then enableMain s else s
  else s

def execSupplyRecoveryReset (mainMv auxMv : Nat) (s : State) : Res := done s (supplyRecovery s mainMv auxMv)

/-- AUX back in its range after an AUX overvoltage starts a power-on reset (R870). -/
def auxRecovery (s : State) (mv straps : Nat) (rom : Bool) : State :=
  if s.supply.hold = .auxOvervoltage ∧ !s.save.running ∧ auxInRange mv then
    powerOnReset s straps s.pins.perstHigh s.pins.mrstHigh rom
  else s

def execAuxRecoveryReset (mv : Nat) (found : AuxReturn) (s : State) : Res := done s (auxRecovery s mv found.straps found.romOk)

/-- The input is below its sag threshold, which lies between 39.5 V and 39.9 V for main, and between 10.6 V and 10.8 V for AUX;
within that tolerance the part decides (R44). -/
def mainSags (mv : Nat) : Bool := decide (mv < 39500) || (decide (mv < 39900) && sagTaken true mv)
def auxSags (mv : Nat) : Bool := decide (mv < 10600) || (decide (mv < 10800) && sagTaken false mv)

/-- Main falls below its sag threshold; in SL4 the detector is disarmed (R44, R54, R55). -/
def mainSag (s : State) (mv : Nat) : State :=
  if mainSags mv ∧ s.power.deep ≠ 4 ∧ !s.supply.aonHeld then
    lastSave (setAlert { s with supply := { s.supply with mainOk := false } } 1) 1
  else s

def execMainSag (mv : Nat) (s : State) : Res := done s (mainSag s mv)

/-- AUX falls below its sag threshold, in every state (R44, R56). -/
def auxSag (s : State) (mv : Nat) : State :=
  if auxSags mv ∧ !s.supply.aonHeld then
    lastSave (setAlert { s with supply := { s.supply with auxOk := false } } 1) 2
  else s

def execAuxSag (mv : Nat) (s : State) : Res := done s (auxSag s mv)

/-- `SAG_N` driven low from outside (R55, R75). -/
def sagInput (s : State) : State :=
  if rd s E.sag_input_enable = 1 ∧ s.power.deep ≠ 4 ∧ !s.supply.aonHeld then lastSave s 4 else s

def execSagInput (s : State) : Res := done s (sagInput s)

/-- A deferred `MRST_N` takes effect: at once after a sag save or an overvoltage, whose hold stays (R71, R871);
after a trip only once the sensors have cooled and `COOL_OK` is high (R79, R80). -/
def takeMrst (s : State) : State :=
  match s.supply.hold with
  | .trip =>
    if !s.supply.hot ∧ s.pins.coolOk then
      let s := startReset s 3
      { endHold s with pins := { s.pins with thermTrip := false } }
    else { s with supply := { s.supply with mrstWaits := true } }
  | .auxOvervoltage => s
  | .none => startReset s 3
  | _ =>
    let s := startReset s 3
    { s with supply := { s.supply with mrstDone := true } }

/-- The end of the last save (R71, R721, R868, R870). -/
def lastSaveEnd (s : State) (us mv : Nat) : State :=
  if !s.save.running then s
  else
    let s := saveEnd s us mv
    if s.supply.hold = .auxOvervoltage then
      { s with supply := { s.supply with aonHeld := true, mrstWaits := false } }
    else if s.supply.mrstWaits then takeMrst s else s

def execLastSaveEnd (us mv : Nat) (s : State) : Res := done s (lastSaveEnd s us mv)

/-- AUX below 9.0 V: the always-on domain is held in power-on reset, a save in progress is torn, and no output is driven (R61,
R63, R79, R869). -/
def auxBelowFloor (s : State) (mv : Nat) : State :=
  if mv < 9000 then
    let s := mainOff s
    { s with
      save := { s.save with running := false, torn := s.save.torn || s.save.running, lost := true }
      pins := { s.pins with sagOut := false, thermTrip := false }
      supply := { s.supply with aonHeld := true, auxOk := false, mrstWaits := false } }
  else s

def execAuxBelowFloor (mv : Nat) (s : State) : Res := done s (auxBelowFloor s mv)

/-- The module releases `SAG_N` (R74). -/
def sagRelease (s : State) (mainMv auxMv : Nat) : State :=
  if mainRecovered mainMv && auxRecovered auxMv then
    noteInputs { s with pins := { s.pins with sagOut := false } } mainMv auxMv
  else s

def execSagNRelease (mainMv auxMv : Nat) (s : State) : Res := done s (sagRelease s mainMv auxMv)

/-- `MRST_N` low for so many nanoseconds, then high (R51, R70, R71, R80, R871). Between 1 µs and 10 µs the filter decides. -/
def externalReset (s : State) (ns : Nat) : State :=
  let s := { s with pins := { s.pins with mrstHigh := true } }
  if s.supply.aonHeld then s
  else if 10000 ≤ ns ∨ (1000 ≤ ns ∧ mrstTaken ns) then
    if s.save.running then { s with supply := { s.supply with mrstWaits := true } } else takeMrst s
  else s

def execExternalReset (ns : Nat) (s : State) : Res := done s (externalReset s ns)

/-- Configuration space, the MSI-X table and the bus-master enable return to their defaults, and BAR2 selects
nothing (R645). -/
def pcieDefaults (s : State) : State :=
  let s := { s with host := { s.host with busMaster := false, msixTable := [], pba := 0, holdoff := 0, behind := 0 } }
  wr (wr s E.bar2_partition 0xFF) E.pcie_link_status (setBit (rd s E.pcie_link_status) 22 false)

/-- `PERST_N` resets only the PCIe controller and PHY; at its deassertion the reference clock mode is sampled (R72,
R644, R654). -/
def perstReset (s : State) (high : Bool) : State :=
  let s := { s with pins := { s.pins with perstHigh := high } }
  if high then
    let m := rd s E.pcie_refclk_mode
    wr { s with host := { s.host with refclkSampled := m } } E.pcie_link_status
      (setBit (rd s E.pcie_link_status) 21 (m == 1))
  else wr (pcieDefaults s) E.pcie_link_status 0

def execPerstNReset (high : Bool) (s : State) : Res := done s (perstReset s high)

/-- A hot reset and a function-level reset do the same three things (R645). -/
def execPcieHotReset (_functionLevel : Bool) (s : State) : Res := done s (pcieDefaults s)

/-- The trip value of a sensor, in tenths of a degree: dies 0 to 143, HBM stacks 144 to 159, the coolant outlet
160; the inlet has none (R78 and its table). -/
def tripValue (sensor : Nat) : Option Int :=
  if sensor < 144 then some 1150 else if sensor < 160 then some 1050 else if sensor = 160 then some 700 else none

/-- The die rails go off, `THERMTRIP_N` goes low, the trip is counted, and the last save runs; the main stage stays off until
every sensor has cooled (R78, R79, R82). -/
def tripNow (s : State) (cause : Nat) : State :=
  let s := mainOff s
  let s := { s with pins := { s.pins with thermTrip := true }, supply := { s.supply with hot := true } }
  lastSave (inc s E.thermtrip_count) cause

/-- A sensor reads a temperature; at its trip value it trips (R78, R79). -/
def thermalTrip (s : State) (sensor : Nat) (t : Int) : State :=
  match tripValue sensor with
  | some v => if v ≤ t then tripNow s 8 else s
  | none => s

def execThermalTrip (sensor : Nat) (t : Int) (s : State) : Res :=
  guarded (decide (sensor < 162)) s (thermalTrip s sensor t)

/-- `COOL_OK` has been low for 1 ms (R82, R695). -/
def coolOkLow (s : State) : State :=
  let s := { s with pins := { s.pins with coolOk := false } }
  if s.supply.mainOn then refreshCap (setAlert { s with supply := { s.supply with coolLow := true } } 4) else s

def execCoolOkLow (s : State) : Res := done s (coolOkLow s)

/-- `COOL_OK` returns high so many ms after its fall (R82); a waiting `MRST_N` of a trip may then be taken (R80). -/
def coolOkReturn (s : State) (ms : Nat) : State :=
  let s := { s with pins := { s.pins with coolOk := true } }
  let s := if ms ≤ rd s E.cool_ok_grace_ms ∨ !s.supply.mainOn then
      refreshCap { s with supply := { s.supply with coolLow := false } } else s
  if s.supply.mrstWaits ∧ !s.save.running then takeMrst s else s

def execCoolOkReturn (ms : Nat) (s : State) : Res := done s (coolOkReturn s ms)

/-- `cool_ok_grace_ms` expires with `COOL_OK` still low (R82). -/
def coolantLoss (s : State) : State := if s.supply.coolLow then tripNow s 16 else s

def execCoolantLoss (s : State) : Res := done s (coolantLoss s)

/-- `PRES_N` of a port connector changes (R43, R543). -/
def presChange (s : State) (p : Nat) (low : Bool) : State :=
  if bit s.pins.presLow.toNat p == low then s
  else
    let s := { s with pins := { s.pins with presLow := BitVec.ofNat 34 (setBit s.pins.presLow.toNat p low) } }
    let s := setAlert s 128
    if low then presTrain s p else s

def execPresNChange (p : Nat) (low : Bool) (s : State) : Res :=
  guarded (decide (p < 34)) s (presChange s p low)

/-- The mean rate of cores that made so many beats each in a millisecond, in M beats/s, rounded down (R127). -/
def beatRate (l : List Nat) : Nat := l.sum / (1000 * max 1 l.length)

/-- Sector x at the end of a whole millisecond: its beat rate, 0 when it slept throughout, and the late beats of a paced sector
(R103, R127). -/
def sectorTick (m : Measure) (s : State) (x : Nat) : State :=
  let v := sector s x
  let asleep := !s.supply.mainOn || decide (2 ≤ domainState s x)
  let s := wr s (E.sector_beat_rate + x) (if v.slept && asleep then 0 else beatRate (m.coreBeats.getD x []))
  let s := (List.range (m.late.getD x 0)).foldl (fun t _ => paceBreak t x) s
  setSector s x { v with slept := asleep }

/-- The measured entries take their 10 ms means, and each sector its beat rate (R86, R127, R867); the inputs, the
coolant and the trip sensors are judged by them (R44, R79, R90, R695). -/
def measureTick (s : State) (m : Measure) : State :=
  let s := mainCurrent (wr (wr (wr s E.main_voltage_mv m.mainMv) E.aux_voltage_mv m.auxMv) E.aux_current_ma m.auxMa) m.mainMa
  let s := wr (wr (wr s E.die_temp_max_dc (i32 m.dieMaxDc)) E.coolant_inlet_dc (i32 m.inletDc))
    E.coolant_outlet_dc (i32 m.outletDc)
  let s := wr s E.module_power_w m.powerW
  let s := (List.range 32).foldl (sectorTick m) s
  let s := { s with supply := { s.supply with
    mainOk := mainInRange m.mainMv, auxOk := auxInRange m.auxMv
    coolantHot := decide (450 < m.inletDc ∨ 600 < m.outletDc)
    hot := s.supply.hot && !m.tripCooled } }
  let s := refreshCap (refreshAlert s)
  if s.supply.mrstWaits ∧ !s.save.running then takeMrst s else s

def execMeasureTick (m : Measure) (s : State) : Res := done s (measureTick s m)

/-- A rising CINCH edge is repeated on `CINCH_OUT` whenever AUX is in range (R64, R65), and judged by the step
boundary (R605, R606). -/
def execCinchEdge (s : State) : Res :=
  done s (cinchEdge (if s.supply.auxOk then { s with pins := { s.pins with cinchOut := s.pins.cinchOut + 1 } } else s))

/-! The rules of this chapter's entries (R82, R87). -/

def dieThrottleSem : EntrySem := limited E.die_throttle_c fun _ v => decide (85 ≤ v ∧ v ≤ 105)
def coolGraceSem : EntrySem := limited E.cool_ok_grace_ms fun _ v => decide (100 ≤ v ∧ v ≤ 10000)

/-- A write of `alert_mask` may assert `ALERT_N` (R76). -/
def alertMaskSem : EntrySem :=
  { plain E.alert_mask with eff := fun s _ v => alertEdge s (wr s E.alert_mask v) }

end Sys2Proof.Machine
end

