-- ==== Sys2Proof/Machine/Power.lean ====
section
/-! DEFINITION. Commands of 17_power_states_and_domains: the cap and throttle loop, sleep entries, wake requests and
pads. The end of a wake stands with the accesses that it releases. -/

namespace Sys2Proof.Machine

open Sys2Proof

/-! ## The cap and throttle loop (R696 to R698, R873) -/

/-- The granted level that the cap rules act on. -/
def levelOf (s : State) (x : Nat) : Nat := rd s (E.sector_level + x)

/-- The cap level of sector x goes to one above its granted level, at most PL7 (R696, R697). -/
def raiseCap (s : State) (x : Nat) : State :=
  regrant (setSector s x { sector s x with cap := min 7 (levelOf s x + 1) }) x

/-- Among the sectors of a list, the one with the lowest granted level, the highest number on a tie (R696). -/
def lowestLevel (s : State) (l : List Nat) : Option Nat :=
  l.foldl (fun b x => match b with
    | none => some x
    | some y => if levelOf s x ≤ levelOf s y then some x else b) none

/-- The sector whose cap level R696 raises: an unpinned one below PL7, or else a pinned one. -/
def capVictim (s : State) : Option Nat :=
  let below := (List.range 32).filter fun x => decide (levelOf s x < 7)
  let free := below.filter fun x => !bit (rd s E.cap_pinned_sectors) x
  lowestLevel s (if free.isEmpty then below else free)

/-- The sector with the highest cap level, the lowest number on a tie (R696). -/
def highestCap (s : State) : Nat :=
  (List.range 32).foldl (fun b x => if (sector s b).cap < (sector s x).cap then x else b) 0

/-- One raise by R696. -/
def capRaise (s : State) (raised : List Nat) : State × List Nat :=
  match capVictim s with
  | some x => (raiseCap s x, if raised.contains x then raised else x :: raised)
  | none => (s, raised)

/-- The raises of R697 and R696, in that order, each sector raised counted once. -/
def capUp (s : State) (p : PowerSample) : State :=
  let hit := if 1850 < p.mean1W then (List.range 32).filter fun x => decide (levelOf s x < 7) else []
  let s := hit.foldl raiseCap s
  let r := if effectiveCap s < p.mean10W then capRaise s hit else (s, hit)
  incBy r.1 E.cap_event_count r.2.length

/-- After 100 consecutive ticks at least 50 W below the cap, one cap level falls by one (R696). -/
def capDown (s : State) (p : PowerSample) : State :=
  let n := if p.mean10W + 50 ≤ effectiveCap s then s.power.lowTicks + 1 else 0
  let x := highestCap s
  if 100 ≤ n ∧ (sector s x).cap ≠ 0 then
    let s := setSector s x { sector s x with cap := (sector s x).cap - 1 }
    regrant { s with power := { s.power with lowTicks := 0 } } x
  else { s with power := { s.power with lowTicks := n } }

/-- A sensor that reads so many tenths of a degree is above `die_throttle_c`, or at least 2 °C below it (R77, R698). -/
def dieHot (s : State) (dc : Int) : Bool := decide ((10 * rd s E.die_throttle_c : Nat) < dc)
def dieCool (s : State) (dc : Int) : Bool := decide (dc + 20 ≤ (10 * rd s E.die_throttle_c : Nat))

/-- The throttle level of sector x rises while it is hot, and falls at every tenth tick once cool (R698). -/
def throttleSector (tenth : Bool) (p : PowerSample) (s : State) (x : Nat) : State :=
  let t := (sector s x).throttle
  let dc := p.sectorDc.getD x 0
  if dieHot s p.deviceDc || dieHot s dc then
    if t < 7 then regrant (setSector s x { sector s x with throttle := t + 1 }) x else s
  else if tenth && dieCool s p.deviceDc && dieCool s dc && t != 0 then
    regrant (setSector s x { sector s x with throttle := t - 1 }) x
  else s

/-- The next multiple of 25,000 above the present `time_count` (R873). -/
def nextTick (s : State) : Nat := (now s / 25000 + 1) * 25000

/-- One tick of the power manager's loop. Time advances to the tick. -/
def powerTick (s : State) (p : PowerSample) : State :=
  let s := wr s E.time_count (nextTick s)
  if !s.supply.mainOn then s
  else
    let s := capDown (capUp s p) p
    let s := (List.range 32).foldl (throttleSector (now s % 250000 == 0) p) s
    let hot := dieHot s p.deviceDc || (List.range 32).any fun x => dieHot s (p.sectorDc.getD x 0) || (sector s x).throttle != 0
    refreshAlert { s with supply := { s.supply with dieHot := hot } }

def execPowerTick (p : PowerSample) (s : State) : Res := done s (powerTick s p)

/-! ## Sleep entries (R699 to R709) -/

/-- The domains that an entry switches (R699, R700). -/
def entryDomains (state others sectors : Nat) : List Nat :=
  if 3 ≤ state then List.range 40
  else (List.range 32).filter (bit sectors) ++ if state = 2 then (List.range 4).filterMap fun i => if bit others i then some (36 + i) else none else []

/-- The blocks asked for a domain (R706, R707); a sector asked for SL1 answers by its controller alone. -/
def askedBlocks (state d : Nat) : List Nat :=
  if d < 32 then if state = 1 then [0x100 + d] else [0x100 + d, 0x200 + d]
  else if d < 36 then (List.range 4).map fun i => 0x600 + 4 * (d - 32) + i
  else if d = 36 then (List.range 16).map (0x700 + ·)
  else if d = 37 then (List.range 16).map (0x710 + ·)
  else if d = 38 then [0x720, 0x721]
  else [3]

/-- What a block must answer, by the table of R706: the reason, and whether it may delay; `none` when no reason of
the table holds. The lowest reason that refuses comes before one that delays. -/
def blockReason (s : State) (e : SleepEntry) (b : Nat) : Option (Nat × Bool) :=
  let x := b % 256
  if b / 256 = 1 then
    if e.state = 1 then if (sector s x).ramp.isSome then some (11, true) else none
    else if laceIn s x then some (3, false)
    else if shadowUsed s x then some (4, false)
    else if ringsBlock s x e.state then some (5, false)
    else if coresBusy s x then some (1, true)
    else if (sector s x).ramp.isSome then some (11, true)
    else none
  else if b / 256 = 2 then if (sector s x).landing.isEmpty then none else some (2, false)
  else if b / 256 = 6 then if hbmBusy s || addersHeld s then some (8, true) else none
  else if b / 256 = 7 then if portCode s x = 0 then none else some (7, false)
  else if b = 3 then if pkeRuns s then some (10, true) else none
  else if b = 1 then
    if (3 ≤ e.state ∧ windowOpenAny s) ∨ (List.range 32).any (fun y => bit e.sectors y && windowOpenAt s y) then some (6, false)
    else if 3 ≤ e.state ∧ (rd s E.twin_role = 1 ∨ rd s E.twin_role = 2) then some (9, false)
    else if 3 ≤ e.state ∧ (!s.groups.isEmpty ∨ stependWaits s) then some (13, false)
    else if !s.recovery.crashes.isEmpty ∨ loadRuns s then some (11, true)
    else none
  else none

/-- The answer a block gives: the table of R706 rules over what the command says. -/
def answerOf (s : State) (e : SleepEntry) (b : Nat) (ans : SleepAns) : SleepAns :=
  match ans with
  | .work => .work
  | _ => match blockReason s e b with
    | some (r, false) => .refuse r
    | some (r, true) => match ans with
      | .accept => .delay r
      | other => other
    | none => ans

/-- Sector x is switched: quiesced in SL1, retained in SL2, off in SL3 and SL4 (R97, R175 to R178, R699). -/
def switchSector (state : Nat) (s : State) (x : Nat) : State :=
  if state = 1 then setDomain s x 2
  else
    let keep := if state = 2 then rd s (E.cm_retain_mask + x) else 0
    let com := state == 2 && bit (rd s E.commons_retain) x
    let s := sectorLost s x keep com
    let s := wr s E.pacer_lock_status (setBit (rd s E.pacer_lock_status) x false)
    setDomain s x (if state = 2 then 3 else 4)

/-- Domain d, 32 or above, is switched, its pads latched (R699, R708, R715). -/
def switchOther (state : Nat) (s : State) (d : Nat) : State :=
  let s := if d = 39 then pkeLost s else wr s E.pad_hold (setBit (rd s E.pad_hold) d true)
  let s := if 36 ≤ d ∧ d < 39 then portsOff s d else s
  let s := if 32 ≤ d ∧ d < 36 then { s with hbm := { s.hbm with soft := [] } } else s
  setDomain s d (if state = 3 ∧ 32 ≤ d ∧ d < 36 then 5 else 4)

/-- The switching phase, in the order of R708, and the end of the entry. A sector that was RETAINED keeps nothing in SL3 and SL4
(R178), and stacks in self-refresh go off in SL4. In SL4 stack power and the main stage go
off, and HBM contents are lost (R699, R713). -/
def switchAll (s : State) (e : SleepEntry) : State :=
  let doms := (entryDomains e.state e.others e.sectors).filter fun d =>
    domainState s d == 1 || domainState s d == 0 || (domainState s d == 2 && e.state != 1) ||
      (3 ≤ e.state && domainState s d == 3) || (e.state == 4 && domainState s d == 5)
  let s := (doms.filter (· < 32)).foldl (switchSector e.state) s
  let s := ((doms.filter fun d => 36 ≤ d) ++ doms.filter fun d => 32 ≤ d ∧ d < 36).foldl (switchOther e.state) s
  let s := { s with power := { s.power with
    entry := none
    deep := if 3 ≤ e.state then max e.state s.power.deep else s.power.deep
    routersOff := if 3 ≤ e.state then BitVec.allOnes 32 else s.power.routersOff
    owes713 := s.power.owes713 || e.state == 4 } }
  let s := if e.state = 4 then
      stageOff { zeroFill s 0 (2 ^ 38) with hbm := { s.hbm with lost := [] } }
    else s
  wr (wr (inc s E.sleep_entry_count) E.sleep_phase 0) E.sleep_result 0

/-- A request to enter a sleep state (R700 to R702, R706). -/
def sleepEnter (s : State) (state others sectors : Nat) : State :=
  let sectors := if 3 ≤ state then 2 ^ 32 - 1 else sectors
  let doms := (entryDomains state others sectors).filter fun d =>
    domainState s d == 0 || (domainState s d == 2 && state != 1)
  let blocks := doms.flatMap (askedBlocks state) ++ if state = 1 then [] else [1]
  let e : SleepEntry := ⟨state, others, sectors, blocks.map fun b => (b, Asked.waiting)⟩
  if e.asked.isEmpty then switchAll s e
  else wr { s with power := { s.power with entry := some e } } E.sleep_phase 1

/-- A wake of the named domains: `sleep_result` reads 0x0601 while one runs (R700, R710, R711). -/
def sleepWake (s : State) (others sectors : Nat) : State :=
  let doms := (entryDomains 2 others sectors).filter fun d => !domainOn s d
  let doms := if doms.isEmpty || s.power.deep == 0 then doms else (List.range 40).filter fun d => !domainOn s d
  let s := doms.foldl wakeDomain s
  let b := doms.foldl (fun (w : BitVec 40) d => w ||| BitVec.ofNat 40 (2 ^ d)) 0
  if doms.isEmpty ∨ rd s E.out_of_service = 1 then wr s E.sleep_result 0
  else wr { s with power := { s.power with byRequest := s.power.byRequest ||| b } } E.sleep_result 0x0601

/-- A write of `sleep_request` (R700, R701). -/
def sleepRequest (s : State) (v : Nat) : State :=
  let state := bits v 63 60
  let others := bits v 35 32
  let sectors := bits v 31 0
  if 4 < state ∨ ((state = 1 ∨ state = 2) ∧ sectors = 0) ∨ (state = 1 ∧ others ≠ 0) then wr s E.sleep_result 0x0604
  else if s.power.entry.isSome ∨ s.power.byRequest ≠ 0 ∨ s.save.running then wr s E.sleep_result 0x0605
  else if state = 0 then sleepWake s others sectors
  else sleepEnter s state others sectors

def sleepSem : EntrySem := command (fun _ _ => true) fun s _ v => sleepRequest s v

/-- A write of one state with its fields. -/
def sleepCmd (state : Nat) (via : Path) (others sectors : Nat) (s : State) : State :=
  access s (writeOf via E.sleep_request (state * 2 ^ 60 + others % 16 * 2 ^ 32 + sectors % 2 ^ 32)) sleepSem

def execSleepWake (via : Path) (others sectors : Nat) (s : State) : Res := done s (sleepCmd 0 via others sectors s)
def execSleepSl1 (via : Path) (others sectors : Nat) (s : State) : Res := done s (sleepCmd 1 via others sectors s)
def execSleepSl2 (via : Path) (others sectors : Nat) (s : State) : Res := done s (sleepCmd 2 via others sectors s)
def execSleepSl3 (via : Path) (s : State) : Res := done s (sleepCmd 3 via 0 0 s)
def execSleepSl4 (via : Path) (s : State) : Res := done s (sleepCmd 4 via 0 0 s)

/-- An asked block's answer is noted. -/
def noteAnswer (e : SleepEntry) (b : Nat) (a : Asked) : SleepEntry :=
  { e with asked := e.asked.map fun p => if p.1 = b then (b, a) else p }

/-- A domain all of whose blocks have accepted reports ASKED (R693). -/
def markAsked (s : State) (e : SleepEntry) : State :=
  (entryDomains e.state e.others e.sectors).foldl (fun t d =>
    if domainState t d == 0 && (askedBlocks e.state d).all (fun b => e.asked.any fun p => p.1 == b && p.2 == .accepted)
    then setDomain t d 1 else t) s

/-- The lowest block, of those that would refuse now, names the refusal when several refuse at once (R707); one
answer comes at a time, so that is the block that answers. An asked block answers (R703 to R706). -/
def sleepAnswer (s : State) (b : Nat) (ans : SleepAns) : State :=
  match s.power.entry with
  | none => s
  | some e =>
    if !e.asked.any (fun p => p.1 == b) then s
    else match answerOf s e b ans with
    | .refuse r => endEntry s b r 1
    | .work => if e.asked.any (fun p => p.1 == b && p.2 == .accepted) then endEntry s b 15 2 else s
    | .delay r => { s with power := { s.power with entry := some (noteAnswer e b (.delayed r)) } }
    | .accept =>
      let e := noteAnswer e b .accepted
      let s := markAsked { s with power := { s.power with entry := some e } } e
      if e.asked.all fun p => p.2 == .accepted then switchAll (wr s E.sleep_phase 2) e else s

def execSleepAnswer (b : Nat) (ans : SleepAns) (s : State) : Res := done s (sleepAnswer s b ans)

/-- A delay that ends without an answer refuses with reason 12 (R703, R725). -/
def delayExpiry (s : State) (b : Nat) : State :=
  match s.power.entry with
  | none => s
  | some e =>
    if e.asked.any (fun p => p.1 == b && p.2 != .accepted) then endEntry s b 12 3 else s

def execSleepDelayExpiry (b : Nat) (s : State) : Res := done s (delayExpiry s b)

/-- Traffic demands a wake of domain d (R705, R709, R710, R872). A dictionary access wakes a sector or a domain of an
SH entry by its own path. -/
def wakeDemand (s : State) (d : Nat) (_kind : WakeKind) : State :=
  if d < 32 then trafficTo s d else if domainOn s d then s else wakeDomain s d

def execWakeDemand (d : Nat) (kind : WakeKind) (s : State) : Res := guarded (decide (d < 40)) s (wakeDemand s d kind)

/-! ## Entries with rules (R694, R695, R726) -/

def powerCapSem : EntrySem :=
  { plain E.power_cap_w with
    rule := fun _ v => decide (400 ≤ v ∧ v ≤ 1600), eff := fun s _ v => refreshCap (wr s E.power_cap_w v) }
def levelReqSem (x : Nat) : EntrySem :=
  { plain (E.sector_level_req + x) with
    rule := fun _ v => decide (v ≤ 7), eff := fun s _ v => regrant (wr s (E.sector_level_req + x) v) x }
def delayMaxSem : EntrySem := limited E.sleep_delay_max_ms fun _ v => decide (1 ≤ v ∧ v ≤ 10)

end Sys2Proof.Machine
end

