-- ==== Sys2Proof/Machine/Mesh.lean ====
section
/-! DEFINITION. The device's network of mesh routers: what each router attaches, which links a packet crosses, and the route around a
failed link (R25, R159 to R163, R814). A route is a function of the links that are detoured, so a packet meets the route in force when
its command comes; none is in flight between two commands, so every router has drained (R163). -/

namespace Sys2Proof.Machine

open Sys2Proof

/-- What is attached to a mesh router besides its neighbours (R159): an HBM controller, a fabric or a yoke port, the device hub. -/
inductive Attach where
  | hbm (controller : Nat)
  | fabric (port : Nat)
  | yoke (port : Nat)
  | hub
  deriving DecidableEq, Repr

/-- The edge attachments of the router of sector x (R159). -/
def attachments (x : Nat) : List Attach :=
  (if x < 8 then [.hbm x] else []) ++ (if 24 ≤ x ∧ x < 32 then [.hbm (x - 16)] else []) ++
  (if x % 8 = 0 then (List.range 4).map fun i => .fabric (x / 2 + i) else []) ++
  (if x % 8 = 7 then (List.range 4).map fun i => .fabric (16 + 4 * (x / 8) + i) else []) ++
  (if x = 15 then [.yoke 0] else []) ++ (if x = 23 then [.yoke 1] else []) ++ if x = 8 ∨ x = 16 then [.hub] else []

/-- The routers that an attachment hangs on. -/
def routersOf (a : Attach) : List Nat := (List.range 32).filter fun x => (attachments x).contains a

/-- The link between columns c and c + 1 in row r, and the one between rows r and r + 1 in column c (R814). -/
def rowLink (r c : Nat) : Nat := 7 * r + c
def colLink (r c : Nat) : Nat := 28 + 8 * r + c

/-- The steps from a to b along a line, each by its lower end, in the order in which they are taken. -/
def steps (a b : Nat) : List Nat :=
  if a ≤ b then (List.range (b - a)).map (a + ·) else (List.range (a - b)).map fun i => a - 1 - i

/-- The links that a packet from the router of sector a to that of sector b crosses: along its row to the destination column,
then along that column (R162). -/
def meshPath (a b : Nat) : List Nat :=
  (steps (a % 8) (b % 8)).map (rowLink (a / 8)) ++ (steps (a / 8) (b / 8)).map fun r => colLink r (b % 8)

/-- The links of the path that replaces link k (R814). -/
def detourPath (k : Nat) : List Nat :=
  if k < 28 then
    let r := k / 7
    let c := k % 7
    let r' := if r = 3 then 2 else r + 1
    let v := fun col => 28 + 8 * min r r' + col
    [v c, 7 * r' + c, v (c + 1)]
  else
    let r := (k - 28) / 8
    let c := (k - 28) % 8
    let h := fun row => 7 * row + if c = 7 then 6 else c
    [h r, 28 + 8 * r + (if c = 7 then 6 else c + 1), h (r + 1)]

/-- The links of the route in force from sector a to sector b: a link that is detoured is replaced by its path (R163, R814). -/
def meshRoute (s : State) (a b : Nat) : List Nat :=
  (meshPath a b).flatMap fun k => if bit (rd s E.mesh_detoured) k then detourPath k else [k]

/-- A packet from sector a reaches sector b: every router stays on its own switch except in SL3 and SL4 (R160). -/
def meshReaches (s : State) (a b : Nat) : Bool := !bit s.power.routersOff.toNat a && !bit s.power.routersOff.toNat b

end Sys2Proof.Machine
end

