-- ==== Sys2Proof/Machine/Resets.lean ====
section
/-! DEFINITION. Commands of 20_resets_hangs_recovery, but for the end of a boot: resets, hangs, crash records,
keepers, mesh links and full-stop tests. -/

namespace Sys2Proof.Machine

open Sys2Proof

/-! ## Commanded and fatal resets (R789, R810, R820, R822) -/

/-- `reset_cmd`: op 1 resets one sector, op 2 the device. -/
def resetSem : EntrySem :=
  { command (fun _ v => decide (bits v 31 28 = 1 ∨ bits v 31 28 = 2))
      (fun s _ v => if bits v 31 28 = 1 then sectorReset s (bits v 4 0) 0x10 0 else startReset s 4) with
    authOnly := true }

def execSectorResetCmd (via : Path) (x : Nat) (s : State) : Res :=
  guarded (decide (x < 32)) s (access s (writeOf via E.reset_cmd (1 * 2 ^ 28 + x)) resetSem)

def execDeviceResetCmd (via : Path) (s : State) : Res :=
  done s (access s (writeOf via E.reset_cmd (2 * 2 ^ 28)) resetSem)

/-- An uncorrectable error in AON memory, or a failed self-check of the firmware (R789). -/
def execFatalReset (_aonError : Bool) (s : State) : Res := done s (startReset s 6)

/-- `oos_reinstate` (R810). -/
def reinstate (s : State) : State :=
  let s := wr (wr (wr s E.out_of_service 0) E.oos_cause 0) E.escalation_count 0
  startReset (bootLog { s with recovery := { s.recovery with escal := [] } } 9 0 0 0 []) 4

def reinstateSem : EntrySem :=
  { command (fun _ v => v == 1) (fun s _ _ => reinstate s) with authOnly := true }

def execOosReinstate (via : Path) (d : List Byte) (s : State) : Res :=
  done s (access s (writeBytes via E.oos_reinstate d) reinstateSem)

/-! ## Hangs and crash records (R797 to R806) -/

/-- The latest n counted entries that lie within the escalation window (R799, R807). -/
def within (s : State) (l : List Nat) : Nat :=
  (l.filter fun t => decide (now s ≤ t + rd s E.escalation_window_s * 25000000)).length

/-- The collection of the first hang waiting begins (R803, R804). -/
def beginCrash (s : State) : State :=
  let s := if rd s E.crash_state = 2 then inc s E.crash_lost_count else s
  wr { s with recovery := { s.recovery with crashHeld := none } } E.crash_state 1 |> fun t => inc t E.crash_seq

/-- A hang of a block is declared: what it reports, and its crash record begins or waits (R799, R800, R801, R806). -/
def declareHang (s : State) (block : Nat) (sec : Option Nat) (headerOnly : Bool) : State :=
  let s := setAlert (inc s E.hang_count) 32
  let s := wr (wr s E.last_hang_block block) E.last_hang_name (blockName block)
  let kind := match sec with
    | some x => if 2 ≤ within s (Tab.get [] s.recovery.sectorHangs x) then 5 else 0x11
    | none => 5
  let s := bootLog s 6 kind 0x0901 block []
  let c : Crash := ⟨block, sec, headerOnly, now s, kind⟩
  if s.recovery.crashes.isEmpty then beginCrash { s with recovery := { s.recovery with crashes := [c] } }
  else { s with recovery := { s.recovery with crashes := s.recovery.crashes ++ [c] } }

/-- Missed heartbeats (R797): of a sector controller whose domain is ON, the management processor or the security
island. -/
def hangDeclared (s : State) (block : Nat) : State :=
  if block / 256 = 1 then
    if domainOn s (block % 256) then declareHang s block (some (block % 256)) false else s
  else declareHang s block none (block == 2)

def execHangDeclared (block : Nat) (s : State) : Res :=
  guarded (block == 1 || block == 2 || (block / 256 == 1 && decide (block % 256 < 32))) s (hangDeclared s block)

/-- The sector that a block lies in (R21, R692). -/
def blockSector (b : Nat) : Option Nat :=
  if 0x8000 ≤ b then some ((b - 0x8000) / 32) else if 1 ≤ b / 256 ∧ b / 256 ≤ 5 then some (b % 256) else none

/-- A block of R21 exists. -/
def blockExists (b : Nat) : Bool :=
  if 0x8000 ≤ b then decide (b < 0x8400 ∧ b % 32 < 28)
  else if b / 256 = 0 then decide (1 ≤ b ∧ b ≤ 8)
  else if b / 256 ≤ 5 then decide (b % 256 < 32)
  else if b / 256 = 6 then decide (b % 256 < 16)
  else if b / 256 = 7 then decide (b % 256 < 34)
  else decide (b / 256 = 8 ∧ b % 256 < 52)

/-- A ring that holds work and closes no cycle for `stall_limit_us`, its domain ON and not QUIESCED (R798): a hang of
its sector; a port goes DOWN; any other unit is a hang of the device. -/
def stallDetected (s : State) (b : Nat) : State :=
  match blockSector b with
  | some x => if domainOn s x then declareHang s b (some x) false else s
  | none => if b / 256 = 7 then portStalled s (b % 256) else declareHang s b none false

def execStallDetected (b : Nat) (s : State) : Res := guarded (blockExists b) s (stallDetected s b)

/-- The active position whose core a block is, as a bit mask; 0 for other blocks. -/
def hungCore (s : State) (b : Nat) : Nat :=
  if b < 0x8000 then 0
  else ((List.range 25).find? fun p => slotOf s ((b - 0x8000) / 32) p == (b - 0x8000) % 32).elim 0 (2 ^ ·)

/-- The sectors in a record's scope, and those whose cores are sampled (R801). -/
def crashSectors (c : Crash) : List Nat := match c.sector with | some x => [x] | none => List.range 32
def crashSampled (s : State) (c : Crash) : List Nat :=
  match c.sector with | some x => [x] | none => (List.range 32).filter (bit (rd s E.crash_sample_sectors))

/-- The device-level units (R21). -/
def deviceUnits : List Nat :=
  (List.range 8).map (1 + ·) ++ (List.range 16).map (0x600 + ·) ++ (List.range 34).map (0x700 + ·) ++ (List.range 52).map (0x800 + ·)

/-- What the units of sector x give: its controller, its cores and their samples, or its domain state where it is not ON. Units of
`silent` do not answer, and cores of `unread` give no sample: their bytes are omitted. -/
def sectorParts (s : State) (c : Crash) (x : Nat) (silent unread : List Nat) : List (Nat × Nat × Nat) :=
  if domainOn s x then
    let cores := ((List.range 25).map fun p => coreBlock s (25 * x + p)).filter fun b => !silent.contains b
    let n := 8192 + 64 * rd s E.crash_cm_lines
    (if silent.contains (0x100 + x) then [] else [(0x100 + x, 2, 2048)]) ++ cores.map (fun b => (b, 3, 512)) ++
      if (crashSampled s c).contains x then (cores.filter fun b => !unread.contains b).map fun b => (b, 4, n) else []
  else [(0x100 + x, 5, 64)]

/-- The sections of a record (R801, R802). A header-only record holds the header alone. -/
def crashParts (s : State) (c : Crash) (silent unread : List Nat) : List (Nat × Nat × Nat) :=
  if c.headerOnly then []
  else (deviceUnits.filter fun b => !silent.contains b).map (fun b => (b, 1, 256)) ++
    (crashSectors c).flatMap fun x => sectorParts s c x silent unread

/-- The bytes of a record: its header of 4,096 B and its sections. -/
def CrashRec.bytes (r : CrashRec) : Nat := 4096 + (r.parts.map fun p => p.2.2).sum

/-- The record of a hang, with the units that did not answer within 20 µs and the cores whose memory did not (R802). -/
def crashRecOf (s : State) (c : Crash) (silent unread : List Nat) : CrashRec :=
  let l := silent ++ unread.filter fun b => !silent.contains b
  ⟨rd s E.crash_seq, c, l.take 256, decide (256 < l.length), crashParts s c silent unread⟩

/-- The header is written, the record closed, and the reset of the hang follows; the next hang's collection begins
after a sector reset (R803, R804, R806). -/
def crashDone (s : State) (silent unread : List Nat) : State :=
  match s.recovery.crashes with
  | [] => s
  | c :: t =>
    let r := crashRecOf s c silent unread
    let s := wr { s with recovery := { s.recovery with
      crashHeld := some r.seq, crashRecs := r :: s.recovery.crashRecs.take 16 } } E.crash_state 2
    let s := bootLog s 7 c.kind 0 c.block []
    match c.sector with
    | some x =>
      if c.kind = 0x11 then
        let s := copyCrash (sectorReset { s with recovery := { s.recovery with crashes := t } } x 0x11 (hungCore s c.block))
        if t.isEmpty then s else beginCrash s
      else startReset s c.kind
    | none => startReset s c.kind

def execCrashCollectionDone (u : Unread) (s : State) : Res := done s (crashDone s u.noAnswer u.noSample)

/-- The bytes of the slot that `crash_read_slot` names (R804, R820; the boot log's 4 MiB by R83). -/
def crashSlotBytes (slot : Nat) : Nat :=
  if slot ≤ 16 then 2097152 else if slot = 0x20 then 4194304 else 0

/-- The 256 bytes at an offset of a slot: the boot log holds its records; a crash record's content is laid out by
no rule, so its bytes are free; an empty slot reads zero. -/
def crashBytes (s : State) (slot off : Nat) : Nat :=
  if slot = 0x20 then rdNat s (Mem.flash (0x3810000 + off)) 256
  else
    let q := if slot = 0 then s.recovery.crashHeld.getD 0 else Tab.get 0 s.recovery.crashCopies (slot - 1)
    if q = 0 then 0 else crashRecord q off

def crashReadSem : EntrySem :=
  { plain E.crash_read_offset with
    rule := fun s v => decide (v % 256 = 0 ∧ v < crashSlotBytes (rd s E.crash_read_slot))
    eff := fun s _ v => wr (wr s E.crash_read_offset v) E.crash_read_data (crashBytes s (rd s E.crash_read_slot) v) }

def execCrashRead (via : Path) (d : List Byte) (s : State) : Res :=
  done s (access s (writeBytes via E.crash_read_offset d) crashReadSem)

/-! ## Keepers (R811 to R813, R866) -/

/-- Slot t of sector x holds an active position. -/
def slotActive (s : State) (x t : Nat) : Bool := (List.range 25).any fun p => slotOf s x p == t

/-- The slot is marked failed (R866). -/
def slotFailed (s : State) (x t : Nat) : Bool :=
  (List.range 3).any fun i => rd s (E.keeper_slots + 256 * x + 25 + i) == t + 128

/-- The slot is under self-test. -/
def slotTested (s : State) (x t : Nat) : Bool :=
  match s.recovery.keeper with
  | some (y, u, _) => y == x && u == t
  | none => false

/-- The lowest-numbered healthy keeper of sector x (R811). -/
def freeKeeper (s : State) (x : Nat) : Option Nat :=
  (List.range 28).find? fun t => !slotActive s x t && !slotFailed s x t && !slotTested s x t

/-- The slots of sector x, active positions first and then the others ascending with their failed marks (R866). -/
def writeSlots (s : State) (x : Nat) (act failed : List Nat) : State :=
  let rest := (List.range 28).filter fun t => !act.contains t
  let vals := act ++ rest.map fun t => if failed.contains t then t + 128 else t
  (List.range 28).foldl (fun u i => wr u (E.keeper_slots + 256 * x + i) (vals.getD i 0)) s

/-- The slots of sector x that are marked failed. -/
def failedSlots (s : State) (x : Nat) : List Nat := (List.range 28).filter (slotFailed s x)

/-- The digest of the keeper map; the specification does not say over which bytes, so its value is free. -/
def updateKeeperDigest (s : State) : State :=
  wr s E.keeper_map_digest (keeperDigest ((List.range 32).flatMap fun x =>
    (List.range 28).map fun i => rd s (E.keeper_slots + 256 * x + i)))

/-- A swap of logical core c (R811, R812): the keeper takes its core memory, program memory, `cm_attr` and pinned
translations; tiles and accumulators are not copied; the former slot runs its self-test. -/
def keeperSwap (s : State) (c : Nat) : State :=
  let x := c / 25
  let p := c % 25
  if coreSwapRefused s c then wr s E.keeper_status 4
  else match freeKeeper s x with
  | none => wr s E.keeper_status 5
  | some t =>
    let old := slotOf s x p
    let act := ((List.range 25).map (slotOf s x)).set p t
    let s := coreMoved (writeSlots s x act (failedSlots s x)) c
    let s := updateKeeperDigest s
    let s := wr s (E.keepers_free + x) (rd s (E.keepers_free + x) - 1)
    let s := bootLog s 11 0 0 (coreBlock s c) (leBytes 2 c ++ leBytes 1 old ++ leBytes 1 t)
    wr { s with recovery := { s.recovery with keeper := some (x, old, some c) } } E.keeper_status 2

/-- A self-test of a slot that holds no logical core (R813). -/
def keeperTest (s : State) (x t : Nat) : State :=
  if 28 ≤ t ∨ slotActive s x t then wr s E.keeper_status 7
  else wr { s with recovery := { s.recovery with keeper := some (x, t, none) } } E.keeper_status 2

/-- `keeper_cmd` (R820, R822): op 1 names a logical core, 0 to 799. -/
def keeperSem : EntrySem :=
  { command (fun _ v => decide ((bits v 31 28 = 1 ∧ bits v 9 0 < 800) ∨ bits v 31 28 = 2))
      (fun s _ v => if bits v 31 28 = 1 then keeperSwap s (bits v 9 0) else keeperTest s (bits v 19 15) (bits v 14 10)) with
    authOnly := true }

def execKeeperSwap (via : Path) (c : Nat) (s : State) : Res :=
  guarded (decide (c < 1024)) s (access s (writeOf via E.keeper_cmd (1 * 2 ^ 28 + c)) keeperSem)

def execKeeperSelftest (via : Path) (x t : Nat) (s : State) : Res :=
  guarded (decide (x < 32 ∧ t < 32)) s (access s (writeOf via E.keeper_cmd (2 * 2 ^ 28 + x * 2 ^ 15 + t * 2 ^ 10)) keeperSem)

/-- The end of a slot's self-test (R812, R813). -/
def keeperTestDone (s : State) (x t : Nat) (passed : Bool) : State :=
  match s.recovery.keeper with
  | none => s
  | some (y, u, c) =>
    if y ≠ x ∨ u ≠ t then s
    else
      let s := { s with recovery := { s.recovery with keeper := none } }
      let failed := failedSlots s x
      let wasHealthy := c.isNone && !failed.contains t
      let act := (List.range 25).map (slotOf s x)
      let n := rd s (E.keepers_free + x)
      if passed then
        let s := writeSlots s x act (failed.filter (· ≠ t))
        wr (if wasHealthy then s else wr s (E.keepers_free + x) (n + 1)) E.keeper_status 3
      else
        let s := writeSlots s x act (t :: failed)
        wr (if wasHealthy then wr s (E.keepers_free + x) (n - 1) else s) E.keeper_status 6

def execKeeperSelftestDone (x t : Nat) (passed : Bool) (s : State) : Res :=
  guarded (decide (x < 32 ∧ t < 28)) s (keeperTestDone s x t passed)

/-! ## Mesh links (R814, R815, R823) -/

/-- The link is detoured, or the detour refused because its path would cross a detoured link (R814). -/
def detour (s : State) (k : Nat) : State :=
  if (detourPath k).any fun j => bit (rd s E.mesh_detoured) j then wr s E.mesh_link_status 5
  else
    let s := wr (wr s E.mesh_detoured (setBit (rd s E.mesh_detoured) k true)) E.mesh_link_status 2
    bootLog s 12 0 0 (0x800 + k) (leBytes 1 k)

/-- Test and restoration of a detoured link (R815); a link that is not detoured is refused. -/
def meshTest (s : State) (k : Nat) : State :=
  if bit (rd s E.mesh_detoured) k then
    wr { s with recovery := { s.recovery with meshTest := some k } } E.mesh_link_status 1
  else wr s E.mesh_link_status 5
def meshRestore (s : State) (k : Nat) : State :=
  if bit (rd s E.mesh_detoured) k then
    wr (wr s E.mesh_detoured (setBit (rd s E.mesh_detoured) k false)) E.mesh_link_status 2
  else wr s E.mesh_link_status 5

def meshSem : EntrySem :=
  { command (fun _ v => decide (1 ≤ bits v 15 12 ∧ bits v 15 12 ≤ 3 ∧ bits v 5 0 < 52))
      (fun s _ v => match bits v 15 12 with
        | 1 => detour s (bits v 5 0)
        | 2 => meshTest s (bits v 5 0)
        | _ => meshRestore s (bits v 5 0)) with
    authOnly := true }

/-- A write of one op of `mesh_link_cmd` for link k. -/
def meshCmd (op : Nat) (via : Path) (k : Nat) (s : State) : State :=
  access s (writeOf via E.mesh_link_cmd (op * 2 ^ 12 + k)) meshSem

def execMeshDetour (via : Path) (k : Nat) (s : State) : Res := guarded (decide (k < 64)) s (meshCmd 1 via k s)
def execMeshLinkTest (via : Path) (k : Nat) (s : State) : Res := guarded (decide (k < 64)) s (meshCmd 2 via k s)
def execMeshLinkRestore (via : Path) (k : Nat) (s : State) : Res := guarded (decide (k < 64)) s (meshCmd 3 via k s)

/-- A packet is repeated on link k; repeats that reach the threshold within 1 s detour it (R814). -/
def meshRepeat (s : State) (k : Nat) : State :=
  let t := now s
  let l := t :: (Tab.get [] s.recovery.meshRepeats k).filter fun u => decide (t < u + 25000000)
  let full := decide (rd s E.mesh_detour_threshold ≤ l.length)
  let s := { s with recovery := { s.recovery with meshRepeats := Tab.set [] s.recovery.meshRepeats k (if full then [] else l) } }
  if full && !bit (rd s E.mesh_detoured) k then detour s k else s

def execMeshLinkRepeat (k : Nat) (s : State) : Res := guarded (decide (k < 52)) s (meshRepeat s k)

/-- The link test ends (R815, R819). -/
def meshTestDone (s : State) (passed : Bool) : State :=
  match s.recovery.meshTest with
  | some _ => wr { s with recovery := { s.recovery with meshTest := none } } E.mesh_link_status (if passed then 3 else 4)
  | none => s

def execMeshLinkTestDone (passed : Bool) (s : State) : Res := done s (meshTestDone s passed)

/-! ## Full-stop tests (R816) -/

/-- A full-stop test starts: HBM goes to self-refresh and the ports are disabled; a scan test leaves on-chip state
zero. -/
def fullTest (s : State) (v : Nat) : State :=
  if (List.range 32).all (fun p => rd s (E.part_state + 256 * p) == 0) &&
      (rd s E.twin_role == 0 || rd s E.twin_role == 3) then
    let s := portsDisable s
    let s := if v = 1 then (List.range 32).foldl (fun t x => sectorLost t x 0 false) s else s
    wr { s with recovery := { s.recovery with fullTest := some v } } E.full_test_status 1
  else wr s E.full_test_status 4

def fullTestSem : EntrySem :=
  { command (fun _ v => decide (1 ≤ v ∧ v ≤ 3)) (fun s _ v => fullTest s v) with authOnly := true }

def execFullScanTest (via : Path) (s : State) : Res := done s (access s (writeOf via E.full_test_cmd 1) fullTestSem)
def execEmramMarchTest (via : Path) (s : State) : Res := done s (access s (writeOf via E.full_test_cmd 2) fullTestSem)
def execSislSelfTest (via : Path) (s : State) : Res := done s (access s (writeOf via E.full_test_cmd 3) fullTestSem)

/-- The end of a full-stop test starts a reset; a failure takes the device out of service (R808, R816). -/
def fullTestDone (s : State) (passed : Bool) : State :=
  match s.recovery.fullTest with
  | none => s
  | some _ =>
    let s := wr { s with recovery := { s.recovery with fullTest := none } } E.full_test_status (if passed then 2 else 3)
    let s := bootLog s 13 4 (if passed then 0 else 0x0902) 0 []
    startReset (if passed then s else goOutOfService s 3) 4

def execFullTestDone (passed : Bool) (s : State) : Res := done s (fullTestDone s passed)

/-! ## Entries with rules (R805, R821) -/

def sampleSectorsSem : EntrySem :=
  limited E.crash_sample_sectors fun _ v => decide (((List.range 32).filter (bit v)).length ≤ 4)
def cmLinesSem : EntrySem := limited E.crash_cm_lines fun _ v => decide (v ≤ 64)
def hangLimitSem : EntrySem := limited E.hang_miss_limit fun _ v => decide (2 ≤ v ∧ v ≤ 10)
def stallLimitSem : EntrySem := limited E.stall_limit_us fun _ v => decide (100 ≤ v ∧ v ≤ 100000)
def escLimitSem : EntrySem := limited E.escalation_limit fun _ v => decide (1 ≤ v ∧ v ≤ 10)
def escWindowSem : EntrySem := limited E.escalation_window_s fun _ v => decide (60 ≤ v ∧ v ≤ 3600)
def detourThresholdSem : EntrySem := limited E.mesh_detour_threshold fun _ v => decide (v ≠ 0)
def cmOffsetSem (k : Nat) : EntrySem := limited k fun _ v => decide (v % 64 = 0 ∧ v < 0x180000)

end Sys2Proof.Machine
end

