-- ==== Sys2Proof/Machine/Security.lean ====
section
/-! DEFINITION. The security island: the boot's verification, measurements, SPDM, releases and randomness (R728 to R746,
R749, R750, R756 to R758). -/

namespace Sys2Proof.Machine

open Sys2Proof

/-! ## Life cycle (R729) -/

/-- `debug_unlock`: a token that is signed as R729 asks arms entry to RMA_DEBUG. -/
def unlockSem (signed : Bool) : EntrySem :=
  { plain E.debug_unlock with eff := fun s _ v =>
      let t := wr s E.debug_unlock v
      if signed then { t with island := { t.island with unlock := true } } else t }

def execDebugUnlock (via : Path) (token : List Byte) (signed : Bool) (s : State) : Res :=
  done s (access s (writeBytes via E.debug_unlock token) (unlockSem signed))

/-! ## Measurements (R733, R743) -/

/-- Measurement register i is extended by a digest. -/
def extend (s : State) (i : Nat) (d : List Byte) : State :=
  wr s (E.mr + i) (leNat (sm3 (leBytes 32 (rd s (E.mr + i)) ++ d)))

/-- SM3 of the trust-anchor list. -/
def anchorDigest (s : State) : List Byte := sm3 ((List.range 4).flatMap fun i => leBytes 32 (rd s (E.trust_anchor + i)))

/-- Every element of `trust_anchor` is zero. -/
def noAnchor (s : State) : Bool := (List.range 4).all fun i => rd s (E.trust_anchor + i) == 0

/-- An element of `trust_anchor` (R743): each change extends MR7 (R733). -/
def anchorSem (i : Nat) : EntrySem :=
  { plain (E.trust_anchor + i) with
    exempt := fun s via => noAnchor s && (match via with | .mctp .i3c _ => true | _ => false)
    eff := fun s _ v => let t := wr s (E.trust_anchor + i) v; extend t 7 (anchorDigest t) }

def execTrustAnchorWrite (via : Path) (i : Nat) (d : List Byte) (s : State) : Res :=
  instanced (decide (i < 4)) s via E.trust_anchor (access s (writeBytes via (E.trust_anchor + i) d) (anchorSem i))

/-- `svn_min` rises, up to the `svn` of the running image (R739). -/
def svnSem : EntrySem :=
  limited E.svn_min fun s v => decide (rd s E.svn_min ≤ v) && (v == rd s E.svn_min || decide (v ≤ rd s E.running_svn))

def execSvnMinWrite (via : Path) (d : List Byte) (s : State) : Res := done s (access s (writeBytes via E.svn_min d) svnSem)

/-! ## The end of the boot ROM's checks (R733, R734, R735) -/

/-- The DRBG is instantiated: no rule gives its seed. -/
def instantiate (s : State) : State :=
  { s with freeCtr := s.freeCtr + 1
           island := { s.island with drbg :=
             ⟨openValue 65 s.freeCtr 0 % 2 ^ 128, openValue 65 s.freeCtr 1 % 2 ^ 128, 0⟩ } }

/-- The image in slot k runs. -/
def runImage (s : State) (k : Nat) (v : ImageVerdict) (sections : List (List Byte)) : State :=
  let d := v.headerDigest.take 32
  let s := wr (wr (wr s E.fw_running_slot k) E.running_svn v.svn) E.running_digest (leNat d)
  let s := extend s 1 d
  let s := (sections.zipIdx).foldl (fun t e => extend t (min (2 + e.2) 5) e.1) s
  wr (extend (bootLog s 2 s.recovery.kind 0 0 []) 7 (anchorDigest s)) E.boot_state 2

/-- What slot k of the flash holds: the image whose header stands there (R83, R730), or, while nothing has been written there,
the image that the part was made with, of which the command tells. DESIGN CHOICE (log 5): no rule gives the flash's first
content. -/
def slotImage (s : State) (k : Nat) (v : ImageVerdict) : ImageVerdict :=
  let get := fun o n => rdBytes s (Mem.flash (slotFlash k + o)) n
  if (get 0 16).all (· == 0) then v else readImage get (28 * 2 ^ 20) v

/-- The section digests of slot k's image. -/
def slotDigests (s : State) (k : Nat) (v : BootVerdict) : List (List Byte) :=
  let h := rdBytes s (Mem.flash (slotFlash k)) 4096
  if (h.take 16).all (· == 0) then v.sectionDigests else imageDigests h

/-- The boot ROM has checked the images: the one named by `fw_next_slot` runs, or the other, or the device enters
the recovery state, which a decommissioned part always does (R728). -/
def bootVerified (s : State) (v : BootVerdict) : State :=
  if rd s E.boot_state ≠ 0 ∨ s.supply.aonHeld ∨ !s.supply.romOk then s
  else
    let s := instantiate (bootLog s 1 s.recovery.kind 0 0 [])
    let s := extend (extend s 0 v.romDigest) 6 v.fuseDigest
    let k := rd s E.fw_next_slot % 2
    let image := fun k => slotImage s k (if k = 0 then v.slotA else v.slotB)
    let first := image k
    let other := image (1 - k)
    if rd s E.lifecycle_state = 4 then wr s E.boot_state 1
    else if imageAccepted s first then runImage s k first (slotDigests s k v)
    else
      let s := inc (bootLog (bootLog s 3 s.recovery.kind 0 0 []) 4 s.recovery.kind 0 0 []) E.boot_fallback_count
      if imageAccepted s other then runImage s (1 - k) other (slotDigests s (1 - k) v)
      else wr (bootLog s 3 s.recovery.kind 0 0 []) E.boot_state 1

def execBootVerifyDone (v : BootVerdict) (s : State) : Res := done s (bootVerified s v)

/-! ## Attestation (R740 to R745) -/

/-- The content of a measurement block (R744). -/
def blockContent (s : State) (b : Nat) : Option (List Byte) :=
  if 1 ≤ b ∧ b ≤ 8 then some (leBytes 32 (rd s (E.mr + (b - 1))))
  else match b with
  | 0x10 => some (entryBytes s E.unique_id ++ entryBytes s E.ordering_code ++ entryBytes s E.silicon_stepping)
  | 0x11 => some (entryBytes s E.fw_running_slot ++ entryBytes s E.running_svn ++ entryBytes s E.running_digest)
  | 0x12 => some (entryBytes s E.staged_state ++ entryBytes s E.staged_svn ++ entryBytes s E.staged_digest)
  | 0x13 => some (entryBytes s E.lifecycle_state ++ entryBytes s E.svn_floor ++ entryBytes s E.svn_min ++
      [if s.island.unlock then 1 else 0])
  | 0x14 => some ((List.range 32).flatMap fun p =>
      [E.part_state, E.part_sectors, E.part_hbm_base, E.part_hbm_bytes, E.part_window_first, E.part_window_count].flatMap fun k =>
        entryBytes s (k + 256 * p))
  | 0x15 => some (leBytes 32 (keeperDigest (((List.range 32).flatMap fun x => (List.range 28).map fun i =>
      rd s (E.keeper_slots + 256 * x + i)) ++ s.hbm.hard.flatMap fun r => [r.1, r.2.1, r.2.2])))
  | 0x16 => some (entryBytes s E.twin_peer_uid ++ entryBytes s E.twin_mode ++ entryBytes s E.twin_role ++ entryBytes s E.twin_generation)
  | 0x17 => some (entryBytes s E.boot_count ++ entryBytes s E.device_reset_count ++ entryBytes s E.escalation_count)
  | 0x18 => some (leBytes 32 (wrapShared 0 0) ++ leBytes 32 (openValue 66 0 0))
  | _ => none

/-- The indexes of the blocks, ascending. -/
def blockIndexes : List Nat := [1, 2, 3, 4, 5, 6, 7, 8, 0x10, 0x11, 0x12, 0x13, 0x14, 0x15, 0x16, 0x17, 0x18]

/-- The measurement summary hash, over every block. -/
def summary (s : State) : Nat :=
  measurementSummary (blockIndexes.flatMap fun b => ((blockContent s b).getD []).map BitVec.toNat) % 2 ^ 256

/-- What the blocks name, and the releases held: what R745 has change. Block 0x18 never changes. -/
def attested (s : State) : List Byte :=
  (blockIndexes.dropLast.flatMap fun b => (blockContent s b).getD []) ++
    s.island.releases.flatMap fun r => leBytes 1 r.part ++ leBytes 8 r.pkg ++ leBytes 1 r.uses

/-- A change to a block or the seal of a release may still run, and what the responder notes of it (R745): once what it has
noted differs from what stands now, it is free whether the change has ended, for 5 ms from when it notes the difference. DESIGN
CHOICE (log 200): a command that makes a change is one event here. -/
def changeRuns (s : State) : Bool × State :=
  let c := attested s
  let note := fun (seen : Option (List Byte)) (noticed : Option (List Byte × Nat)) =>
    { s with freeCtr := s.freeCtr + 1, island := { s.island with seen := seen, noticed := noticed } }
  match s.island.seen with
  | none => (false, { s with island := { s.island with seen := some c } })
  | some b =>
    if b = c then (false, s)
    else
      let since := match s.island.noticed with | some e => if e.1 = c then e.2 else now s | none => now s
      if openValue 200 s.freeCtr 0 % 2 = 1 ∧ now s < since + 125000 then (true, note (some b) (some (c, since)))
      else (false, note (some c) none)

/-- The requests that a change makes wait (R745). -/
def awaitsChange : SpdmReq → Bool
  | .getMeasurements _ => true
  | .challenge => true
  | .keyExchange _ => true
  | _ => false

/-- The responder cannot answer now (R736, R758, R816). -/
def spdmBusy (s : State) : Bool := s.recovery.fullTest.isSome || rd s E.boot_state != 3 || s.island.trngFailing || rd s E.trng_state == 2

/-- The device answers nothing (R720, R870). -/
def spdmSilent (s : State) : Bool := s.supply.aonHeld || s.save.running

/-- An answer leaves. -/
def spdmAnswer (s : State) (d : List Byte) : State := emit s (.spdm 0 d)
def spdmError (s : State) (e : Nat) : State := emit s (.spdm e [])

/-- ERROR Busy (R736, R745, R758). -/
def spdmIsBusy (s : State) : State := spdmError (wr s E.spdm_last_status 0x0701) 3

/-- The sessions change, and their number is reported. -/
def setSessions (s : State) (l : List Session) : State := wr { s with sessions := l } E.spdm_sessions l.length

/-- The lowest session number that no session has. -/
def freeSession (s : State) : Nat := ((List.range 9).find? fun i => !s.sessions.any (·.id == i)).getD 0

/-- A digest stands in `trust_anchor` (R742). -/
def anchored (s : State) (d : List Byte) : Bool :=
  leNat d != 0 && (List.range 4).any fun i => rd s (E.trust_anchor + i) == leNat d

/-- A request that needs a session. -/
def inSession (s : State) (i : Nat) (f : State → State) : State := if s.sessions.any (·.id == i) then f s else spdmError s 2

/-- The responder's answers (R740 to R745). The capability flags and the error codes other than Busy are those of DSP0274.
PRESUMED (log 63). The signatures and certificates that DSP0274 puts beside the named content are not in the answers. -/
def spdmServe (s : State) : SpdmReq → State
  | .getVersion => spdmAnswer s [0x10, 0x11, 0x12]
  | .getCapabilities => spdmAnswer s (leBytes 4 0x63F6)
  | .negotiateAlgorithms => spdmAnswer s []
  | .getDigests => spdmAnswer s [if rd s E.lifecycle_state = 1 then 6 else 7]
  | .getCertificate k =>
    if 2 < k ∨ (k = 0 ∧ rd s E.lifecycle_state = 1) then spdmError s 1 else spdmAnswer s (entryBytes s E.unique_id)
  | .challenge => spdmAnswer s (leBytes 32 (summary s))
  | .getMeasurements b =>
    if b = 0 then spdmAnswer s [BitVec.ofNat 8 blockIndexes.length]
    else if b = 0xFF then spdmAnswer s (blockIndexes.flatMap fun i => (blockContent s i).getD [])
    else match blockContent s b with
    | some d => spdmAnswer s d
    | none => spdmError s 1
  | .keyExchange b =>
    if 8 ≤ s.sessions.length then spdmError s 0x0A
    else
      let i := freeSession s
      spdmAnswer (setSessions s (s.sessions ++ [⟨i, false, b, summary s⟩])) (leBytes 1 i ++ leBytes 32 (summary s))
  | .finish i root => inSession s i fun s =>
      let ok := anchored s root
      spdmAnswer (setSessions s (s.sessions.map fun v => if v.id = i then { v with authenticated := v.authenticated || ok } else v)) []
  | .heartbeat i => inSession s i fun s => spdmAnswer s []
  | .keyUpdate i => inSession s i fun s => spdmAnswer s []
  | .endSession i => inSession s i fun s => spdmAnswer (setSessions s (s.sessions.filter (·.id != i))) []
  | .other _ => spdmError s 7

/-- Requests that the responder answers at any time of a boot (R736). -/
def alwaysServed : SpdmReq → Bool
  | .getVersion => true
  | .getCapabilities => true
  | .negotiateAlgorithms => true
  | _ => false

/-- An SPDM request. A decommissioned part answers with an error; which one is open (R728). -/
def spdmRequest (s : State) (q : SpdmReq) : State :=
  if spdmSilent s then s
  else if rd s E.lifecycle_state = 4 then spdmError { s with freeCtr := s.freeCtr + 1 } (openValue 63 s.freeCtr 0 % 255 + 1)
  else if spdmBusy s && (s.recovery.fullTest.isSome || !alwaysServed q) then spdmIsBusy s
  else if !awaitsChange q then spdmServe s q
  else
    let r := changeRuns s
    if r.1 then spdmIsBusy r.2 else spdmServe r.2 q

def execSpdmRequest (q : SpdmReq) (s : State) : Res := done s (spdmRequest s q)

/-! ## Releases (R749, R750) -/

/-- Session i is authenticated (R742). -/
def sessionOk (s : State) (i : Nat) : Bool := s.sessions.any fun v => v.id == i && v.authenticated

/-- The first failing check of R749, or 0. -/
def releaseCode (s : State) (i : Nat) (r : ReleaseReq) : Nat :=
  let d := leNat r.digest
  if !sessionOk s i then 0x0706
  else if !(s.sessions.any fun v => v.id == i && v.summary == d) || d != summary s then 0x0705
  else if !decide (r.part < 32) || rd s (E.part_state + 256 * r.part) != 1 then 0x0704
  else if 256 ≤ s.island.releases.length then 0x0706
  else 0

/-- A release. A use count outside 1 to 255 is no release of R749: nothing is stored. -/
def keyRelease (s : State) (i : Nat) (r : ReleaseReq) : State :=
  if spdmSilent s then s
  else if spdmBusy s then spdmIsBusy s
  else if !decide (1 ≤ r.uses ∧ r.uses ≤ 255) then spdmError s 1
  else
    let c := releaseCode s i r
    if c ≠ 0 then spdmAnswer s (leBytes 2 c)
    else
      let s := forwardInput s 8 (leBytes 1 1 ++ leBytes 1 r.part ++ leBytes 8 r.pkg ++ r.secret ++ leBytes 1 r.uses)
      spdmAnswer (setReleases s (s.island.releases ++ [⟨r.part, r.pkg, r.secret.take 32, r.uses⟩])) (leBytes 2 0)

def execKeyRelease (session : Nat) (r : ReleaseReq) (s : State) : Res := done s (keyRelease s session r)

/-- A revoke removes the releases that it names. -/
def keyRevoke (s : State) (i p pkg : Nat) : State :=
  if spdmSilent s then s
  else if spdmBusy s then spdmIsBusy s
  else if !sessionOk s i then spdmAnswer s (leBytes 2 0x0706)
  else
    let s := forwardInput s 8 (leBytes 1 2 ++ leBytes 1 p ++ leBytes 8 pkg)
    spdmAnswer (setReleases s (s.island.releases.filter fun r => !(r.part == p && r.pkg == pkg))) (leBytes 2 0)

def execKeyRevoke (session part pkg : Nat) (s : State) : Res := done s (keyRevoke s session part pkg)

/-! ## Randomness (R756, R758) -/

/-- The source has failed for 100 ms. -/
def trngFail (s : State) : State :=
  wr (inc { s with island := { s.island with trngFailing := true } } E.trng_fail_count) E.trng_state 2

def execTrngFail (s : State) : Res := done s (trngFail s)

/-- The DRBG reseeds: its new state is a function of the entropy and of its old state; the derivation function's result is
left free. A reseed waits while a health test fails. -/
def reseed (s : State) (entropy : List Byte) : State :=
  if s.island.trngFailing then s
  else
    let d := s.island.drbg
    let z := leNat (entropy ++ leBytes 16 d.key ++ leBytes 16 d.v)
    inc { s with island := { s.island with drbg := ⟨openValue 65 z 2 % 2 ^ 128, openValue 65 z 3 % 2 ^ 128, 0⟩ } } E.drbg_reseed_count

def execDrbgReseed (entropy : List Byte) (s : State) : Res := done s (reseed s entropy)

end Sys2Proof.Machine
end

