-- ==== Sys2Proof/Machine/Timing.lean ====
section
/-! DEFINITION. Commands of 03_self_timed_operation: level changes, pacers, canaries. -/

namespace Sys2Proof.Machine

open Sys2Proof

/-- The ramp of a level change of sector x ends: its setpoint has the new voltage, and its pacer the new limit; a paced sector
counts a break, of a level that falls as of one that rises (DESIGN CHOICE, log 184: R104 does not say at which moment of the
change); a level granted meanwhile starts its change now (R104, R113, R114, R694). -/
def levelRampEnd (s : State) (x : Nat) : State :=
  match (sector s x).ramp with
  | none => s
  | some l =>
    let g := rd s (E.sector_level + x)
    let s := paceBreak (setSector s x { sector s x with ramp := none, pace := l, volt := l }) x
    if g = l then s else startRamp s x g

def execLevelRampEnd (x : Nat) (s : State) : Res :=
  guarded (decide (x < 32)) s (levelRampEnd s x)

/-- The pacer of sector x locks, in a domain that is powered: not one RETAINED (3) or OFF (4) (R100, R129, R693). -/
def pacerLock (s : State) (x : Nat) : State :=
  if s.supply.mainOn ∧ domainState s x ≠ 3 ∧ domainState s x ≠ 4 then wr s E.pacer_lock_status (setBit (rd s E.pacer_lock_status) x true) else s

def execPacerLock (x : Nat) (s : State) : Res :=
  guarded (decide (x < 32)) s (pacerLock s x)

/-- The setpoint offset of domain d (40: the always-on domain, sub-index 0x29), within its bounds (R109, R131). -/
def setTrim (s : State) (d : Nat) (mv : Int) : State :=
  wr s (E.domain_trim_mv + d) (i32 (max (-50) (min 25 mv)))

/-- The management processor moves domain d's setpoint by 5 mV toward the target slack, or holds it at nominal
while trimming is disabled (R108, R109, R112). Slack is in hundredths of a percent. -/
def canaryTrim (s : State) (d slack : Nat) : State :=
  let t := ofI32 (rd s (E.domain_trim_mv + d))
  let target := 100 * rd s E.canary_target_slack_pct
  if rd s E.canary_trim_enable = 0 then setTrim s d 0
  else if target < slack then setTrim s d (t - 5)
  else if slack < target then setTrim s d (t + 5)
  else s

def execCanaryTrimTick (d slack : Nat) (s : State) : Res :=
  guarded (decide (d < 41)) s (canaryTrim s d slack)

/-- A slack below 3 % raises the setpoint by 10 mV within its bounds, and counts (R110). -/
def canaryAlarm (s : State) (d slack : Nat) : State :=
  if slack < 300 then inc (setTrim s d (ofI32 (rd s (E.domain_trim_mv + d)) + 10)) E.canary_alarm_count else s

def execCanaryAlarm (d slack : Nat) (s : State) : Res :=
  guarded (decide (d < 41)) s (canaryAlarm s d slack)

/-- A fallback to the crystal (R67, R89, R101, R104). -/
def timerefFallback (s : State) (edgesLost : Bool) : State :=
  let v := rd s E.timeref_status
  let s := { s with supply := { s.supply with timerefGood := false } }
  let s := wr s E.timeref_status (setBit v 0 (!edgesLost && bit v 0))
  if bit v 1 then
    let s := useExternal { s with supply := { s.supply with timerefFell := true } } false
    let s := wr s E.timeref_status (setBit (rd s E.timeref_status) 2 true)
    setAlert (inc s E.timeref_fallback_count) 8
  else s

def execTimerefFallback (edgesLost : Bool) (s : State) : Res := done s (timerefFallback s edgesLost)

/-- A written source takes effect: `fell_back` clears, and `TIMEREF_IN` is used when it is selected and good (R66,
R68, R88, R89). -/
def timerefSource (s : State) (v : Nat) : State :=
  let s := wr { s with supply := { s.supply with timerefFell := false } } E.timeref_source v
  let s := wr s E.timeref_status (setBit (rd s E.timeref_status) 2 false)
  useExternal s (v == 1 && bit (rd s E.timeref_status) 0 && s.supply.timerefGood)

def timerefSourceSem : EntrySem :=
  { plain E.timeref_source with rule := fun _ v => decide (v < 2), eff := fun s _ v => timerefSource s v }

def execTimerefSourceWrite (via : Path) (d : List Byte) (s : State) : Res :=
  done s (access s (writeBytes via E.timeref_source d) timerefSourceSem)

/-- Edges arrive on `TIMEREF_IN`, so many ppm from the crystal: too far from it, the reference in use falls back; after a
fallback only a write returns (R66 to R68, R89). -/
def timerefPresent (s : State) (ppm : Nat) : State :=
  let good := decide (ppm ≤ 100)
  let s := { s with supply := { s.supply with timerefGood := good } }
  let s := wr s E.timeref_status (setBit (rd s E.timeref_status) 0 true)
  if !good then timerefFallback s false
  else if rd s E.timeref_source = 1 ∧ !s.supply.timerefFell then useExternal s true else s

def execTimerefInPresent (ppm : Nat) (s : State) : Res := done s (timerefPresent s ppm)

/-! The rules of this chapter's entries (R105, R130). -/

/-- `canary_target_slack_pct` (R130). -/
def slackSem : EntrySem := limited E.canary_target_slack_pct fun _ v => decide (4 ≤ v ∧ v ≤ 15)

end Sys2Proof.Machine
end

