-- ==== Sys2Proof/Machine/EntryTable.lean ====
section
/-! DEFINITION. The rule and the effect of a write to each entry of the dictionary, by index and sub-index (the chapters'
"Dictionary entries", R12, R658, R660, R861). Entries that only the device writes need none. -/

namespace Sys2Proof.Machine

open Sys2Proof

/-! ## Facts that a row of its own would bring -/

/-- A yes or no that a plain access does not bring, left free (log 64). -/
def openBit (s : State) (i : Nat) : Bool := openValue 64 s.freeCtr i % 2 == 1

/-- The access takes a free yes or no. -/
def openly (f : Bool → EntrySem) : EntrySem :=
  { f true with eff := fun s via v => (f (openBit s 0)).eff { s with freeCtr := s.freeCtr + 1 } via v }

/-- What a twin's peer answers to a bind, left free. -/
def openPeer (s : State) : TwinPeer where
  modeMatches := openBit s 1
  identityMatches := openBit s 2
  layoutMatches := openBit s 3
  openMode := openBit s 4
  sessionOk := openBit s 5
  node := openValue 64 s.freeCtr 6 % 65536
  nodeAssigned := openBit s 7
  keepersMatch := openBit s 8

def twinOpenSem : EntrySem :=
  { twinSem TwinPeer.silent with
    eff := fun s via v => (twinSem (openPeer s)).eff { s with freeCtr := s.freeCtr + 1 } via v }

/-! ## Entries with a condition of their own -/

/-- A partition in mode 2 holds sector x (R827). -/
def pacedOwner (s : State) (x : Nat) : Bool := ((ownerOf s x).map fun p => rd s (E.det_mode + p) == 2).getD false

/-- `sector_pacing` (R105, R132, R827). -/
def pacingSem (x : Nat) : EntrySem :=
  { limited (E.sector_pacing + x) (fun s v => bit v 0 || !pacedOwner s x) with
    idle := fun s => !sectorCoresRun s x
    eff := fun s _ v => wr s (E.sector_pacing + x) (v % 2) }

/-- `cap_pinned_sectors` (R827). -/
def pinnedSem : EntrySem :=
  limited E.cap_pinned_sectors fun s v => (List.range 32).all fun x => bit v x || !pacedOwner s x

/-- `core_mode` is written while the sector's cores are idle (R280). -/
def coreModeSem (x : Nat) : EntrySem :=
  { plain (E.core_mode + x) with
    idle := fun s => !sectorCoresRun s x, eff := fun s _ v => wr s (E.core_mode + x) (v % 2 ^ 25) }

/-- `key_store_gib` (R190, R229) is written while no key context is open. DEDUCED (log 126). -/
def keyStoreSem : EntrySem :=
  { limited E.key_store_gib keyStoreRule with idle := fun s => s.cores.all fun e => e.2.keys.all fun k => k.2.state == 0 }

/-- `node_id` and `node_id_assigned`: every fabric port is DISABLED or DOWN. -/
def nodeSem (k : Nat) : EntrySem :=
  { plain k with idle := fun s => (List.range 32).all fun p => decide (portCode s p < 2) }

/-- The step entries of access RWI (R612, R613). -/
def stepSem (k : Nat) (r : Nat → Bool) : EntrySem := { limited k (fun _ v => r v) with idle := stepIdle }

/-- `twin_mode` and `twin_peer_uid` are written while the module is not bound. -/
def unboundSem (k : Nat) : EntrySem := { plain k with idle := fun s => rd s E.twin_role == 0 }

/-- The twin's entries of access RWI: the pair is idle while neither bound nor resynchronising. DEDUCED (log 127). -/
def carrySem (k : Nat) : EntrySem := { plain k with idle := fun s => !twinBound s && s.twin.syncing.isNone }

/-- `det_mode` (R826). -/
def detModeSem (p : Nat) : EntrySem :=
  { limited (E.det_mode + p) (fun s v => decide (v ≤ 2) && (v != 2 || (sectorsOf s p).all fun x =>
      bit (rd s (E.sector_pacing + x)) 0 && bit (rd s E.cap_pinned_sectors) x)) with
    idle := fun s => !partRuns s p && s.det.held.all fun u => sharePartition s u.line != some p }

/-- A value between two bounds. -/
def within' (k lo hi : Nat) : EntrySem := limited k fun _ v => decide (lo ≤ v ∧ v ≤ hi)

/-! ## The table -/

/-- Entries of ranges 0x2000 and 0x3000, but for pads. -/
def moduleSem (i sub : Nat) : EntrySem :=
  let k := 256 * i + sub
  let x := sub - 1
  if i = 0x2021 then pacingSem x
  else if i = 0x2031 then levelReqSem x
  else if i = 0x3405 then retainMaskSem x
  else if k = E.die_throttle_c then dieThrottleSem
  else if k = E.timeref_source then timerefSourceSem
  else if k = E.alert_mask then alertMaskSem
  else if k = E.cool_ok_grace_ms then coolGraceSem
  else if k = E.canary_target_slack_pct then slackSem
  else if k = E.power_cap_w then powerCapSem
  else if k = E.cap_pinned_sectors then pinnedSem
  else if k = E.sleep_request then sleepSem
  else if k = E.sleep_delay_max_ms then delayMaxSem
  else if k = E.scrub_period_ms then scrubPeriodSem
  else if k = E.hbm_mapout_cmd then mapOutSem
  else if k = E.hbm_mapin_cmd then mapInSem
  else if k = E.hbm_headroom_pcs then headroomSem
  else if k = E.key_store_gib then keyStoreSem
  else if k = E.hbm_throttle_c then throttleCSem
  else if k = E.hbm_ue_threshold then ueThresholdSem
  else if k = E.hbm_repair_cmd then repairSem
  else if i = 0x3501 then if k = E.xm_cmd then xmSem else xmEntrySem k
  else if k = E.stream_abandon then abandonSem
  else plain k

/-- Entries of ranges 0x4000 and 0x5000. -/
def coreSem (i sub : Nat) : EntrySem :=
  let k := 256 * i + sub
  let x := sub - 1
  if i = 0x4100 then coreModeSem x
  else if i = 0x4150 then poolSem x
  else if k = E.he_abort then heAbortSem
  else if k = E.amax_history_default then within' k 1 16
  else if k = E.ring_cmd then ringCmdSem
  else if k = E.sg_prepare_timeout_us then within' k 50 20000
  else if k = E.sg_decision_hold_ms then within' k 10 60000
  else if k = E.sg_abort_cmd then sgAbortSem
  else if k = E.sgq_id then sgqSem
  else if k = E.chain_commit then chainSem
  else if i = 0x5002 ∨ i = 0x5003 then chainStageSem k
  else if k = E.keyset_cmd then keysetSem
  else if i = 0x5004 then keysetEntrySem k
  else if k = E.query_tag then querySem
  else plain k

/-- Entries of ranges 0x6000 and 0x7000. -/
def fabricSem (i sub : Nat) : EntrySem :=
  let k := 256 * i + sub
  if i = 0x6003 then openly (portSem (sub - 1))
  else if k = E.node_id ∨ k = E.node_id_assigned then nodeSem k
  else if k = E.burnish_interval_ms then within' k 100 3600000
  else if k = E.lane_fail_ber_exp then within' k 3 6
  else if k = E.rc_cmd then routeSem
  else if k = E.window_quiet_ms then within' k 2 1000
  else if k = E.transport_retry_us then within' k 2500 100000
  else if k = E.transport_retries then within' k 1 7
  else if k = E.step_timeout_ms then within' k 10 60000
  else if k = E.step_resume then stepResumeSem
  else if k = E.step_child_count then stepSem k fun v => decide (v ≤ 32)
  else if i = 0x6020 ∨ i = 0x6021 then stepSem k fun _ => true
  else if k = E.cinch_hold_us then within' k 100 20000
  else if k = E.twin_peer_uid ∨ k = E.twin_mode then unboundSem k
  else if k = E.twin_cmd then twinOpenSem
  else if k = E.twin_loss_ms then within' k 2 100
  else if k = E.twin_lag_max_ms then within' k 5 1000
  else if k = E.twin_carry_regions ∨ k = E.twin_carry_commons then carrySem k
  else if k = E.twin_delta_max_gib then within' k 1 64
  else if k = E.step_fabric_diameter then within' k 1 64
  else plain k

/-- Entries of ranges 0x8000, 0x9000 and 0xC000. -/
def islandSem (i sub : Nat) : EntrySem :=
  let k := 256 * i + sub
  let p := i - 0x8100
  if k = E.svn_min then svnSem
  else if k = E.debug_unlock then openly unlockSem
  else if i = 0x8021 then anchorSem (sub - 1)
  else if k = E.pkg_cmd then pkgSem
  else if i = 0x8030 then pkgEntrySem k
  else if 0x8100 ≤ i ∧ i < 0x8120 then if sub = 7 then openly (partSem p) else partEntrySem p k
  else if k = E.reset_cmd then resetSem
  else if k = E.hang_miss_limit then hangLimitSem
  else if k = E.stall_limit_us then stallLimitSem
  else if k = E.escalation_limit then escLimitSem
  else if k = E.escalation_window_s then escWindowSem
  else if k = E.oos_reinstate then reinstateSem
  else if k = E.crash_sample_sectors then sampleSectorsSem
  else if k = E.crash_cm_lines then cmLinesSem
  else if k = E.crash_read_offset then crashReadSem
  else if i = 0x9011 then cmOffsetSem k
  else if k = E.keeper_cmd then keeperSem
  else if k = E.mesh_link_cmd then meshSem
  else if k = E.mesh_detour_threshold then detourThresholdSem
  else if k = E.full_test_cmd then fullTestSem
  else if k = E.pke_job_cmd then pkeJobSem
  else if i = 0xC001 then pkeEntrySem k
  else if k = E.pke_selftest_cmd then pkeSelftestSem
  else if k = E.pke_fault_limit then pkeFaultLimitSem
  else plain k

/-- Entries of range 0xA000. -/
def detSem (i sub : Nat) : EntrySem :=
  let k := 256 * i + sub
  if i = 0xA001 then detModeSem (sub - 1)
  else if k = E.ord_flush then ordFlushSem
  else if i = 0xA005 then provModeSem (sub - 1)
  else if i = 0xA010 then counterSem k 3
  else if k = E.bw_window_us then bwWindowSem
  else if k = E.tag_enable then tagEnableSem
  else if k = E.tag_log2_rate then tagRateSem
  else if k = E.tag_buf_records then tagRecordsSem
  else if i = 0xA030 then tagSem k fun _ => true
  else if 0xA200 ≤ i ∧ i < 0xA220 then if sub = 2 then nrSem (i - 0xA200) else if sub = 7 then auditorSem (i - 0xA200) else plain k
  else if 0xA300 ≤ i ∧ i < 0xA320 then if sub ≤ 16 then counterSem k 2 else plain k
  else if k = E.hist_cmd then histSem
  else if 0xA400 ≤ i ∧ i < 0xA720 then if sub ≤ 8 then counterSem k 1 else plain k
  else plain k

/-- Entries of range 0xB000. -/
def hostSem (i sub : Nat) : EntrySem :=
  let k := 256 * i + sub
  let r := i - 0xB100
  if k = E.pcie_refclk_mode then within' k 0 1
  else if k = E.bar2_base then bar2BaseSem
  else if 0xB100 ≤ i ∧ i < 0xB200 then if sub = 1 then ringEnableSem (r / 8) (r % 8) else ringEntrySem (r / 8) (r % 8) k
  else if 0xB200 ≤ i ∧ i < 0xB220 then if sub = 1 then eventEnableSem (i - 0xB200) else eventEntrySem (i - 0xB200) k
  else if k = E.fw_load_cmd then fwSem
  else if k = E.fw_load_addr ∨ k = E.fw_load_bytes then fwEntrySem k
  else plain k

/-- The rule and effect of a write to an entry, but for `pad_release`. -/
def tableSem (i sub : Nat) : EntrySem :=
  if i < 0x4000 then moduleSem i sub
  else if i < 0x6000 then coreSem i sub
  else if i < 0x8000 then fabricSem i sub
  else if i < 0xA000 ∨ 0xC000 ≤ i then islandSem i sub
  else if i < 0xB000 then detSem i sub
  else hostSem i sub

end Sys2Proof.Machine
end

