-- ==== Sys2Proof/Machine/Entry.lean ====
section
/-! DEFINITION. The paths to the dictionary, the end of a wake and of a boot, and the accesses that wait for them (R657,
R660 to R665, R711 to R716, R722, R793, R807 to R809, R874). -/

namespace Sys2Proof.Machine

open Sys2Proof

/-! ## Accesses that waited (R665, R711, R736) -/

/-- The rule and effect of a write to an entry, given what a write of `pad_release` does. -/
def semWith (pads : State → Nat → State) (i sub : Nat) : EntrySem :=
  if 256 * i + sub = E.pad_release then command (fun _ _ => true) fun s _ v => pads s v else tableSem i sub

/-- The tag of the accesses of the BAR0 window, above those that a requester can give. -/
def windowTag : Nat := 256

/-- The access of the BAR0 window has ended: its fields show the answer, and data that was read (R662). -/
def windowDone (s : State) (wrote : Bool) : State :=
  let a := s.host.answer
  let w := s.host.dw
  let read := !wrote && a.result == 0
  { s with host := { s.host with dw := { w with
      busy := false, waking := false, result := a.result, typ := a.typ, acc := a.acc, pers := a.pers, sh := a.sh
      length := if read then a.data.length else w.length
      data := if read then a.data else w.data } } }

/-- The access waits. -/
def waitsFor (s : State) (tag : Nat) : Bool := s.host.stalled.any (·.tag == tag)

/-- One access that waited goes on: a BAR2 access, a ring-window write, or an access to the dictionary. -/
def goOnWith (pads : State → Nat → State) (s : State) (a : Access) : State :=
  if 0x20000000 ≤ a.index then bar2Access s a.wr (a.index - 0x20000000) a.len a.data
  else if 0x10000 ≤ a.index then windowStore s (a.index - 0x10000) a.data
  else
    let s := access s a (semWith pads a.index a.sub)
    if a.tag = windowTag ∧ !waitsFor s windowTag then windowDone s a.wr else s

/-- The accesses that waited for domain d go on, in the order in which they came (R664). -/
def releaseWith (pads : State → Nat → State) (s : State) (d : Nat) : State :=
  let l := s.host.stalled.filter (·.domain == d)
  l.foldl (goOnWith pads) { s with host := { s.host with stalled := s.host.stalled.filter (·.domain != d) } }

/-! ## The end of a wake (R711 to R716, R723) -/

/-- The tasks of a wake from SL4 (R713), once every memory domain is ON. -/
def wakeTasks (s : State) : State :=
  if s.power.owes713 ∧ (List.range 4).all (fun i => domainOn s (32 + i)) then
    let s := dropAllKeys { clearWindows s with groups := [], xlat := [] }
    noteXlat (noteGroups { s with
      power := { s.power with owes713 := false }, transport := { s.transport with holdoff := true } })
  else s

/-- What waited in its sector's router is taken; a request meets its checks as they stand then. -/
def takeArrival (s : State) : Arrival → State
  | .loaded c id beats => ldtComplete s c id beats
  | .moved c id beats => transferDone s c id beats
  | .chunk c i beats ecc => keyChunk s c i beats ecc
  | .answer h r st d => purposeTaken s h r st d
  | .write w => remoteWrite s w
  | .request _ ty m ecc => answerWindow s ty m ecc (arrivalCheck s ty m)

/-- What waited in the router of sector x is taken, in the order in which it came (R872). -/
def takeArrivals (s : State) (x : Nat) : State :=
  (s.arrivals.filter (·.sector == some x)).foldl takeArrival { s with arrivals := s.arrivals.filter (·.sector != some x) }

/-- What a domain finds when it is ON again: a sector's pacer locks and what its router holds is taken, ports that were enabled
return to DOWN, the big-number engine is wiped (R546, R712, R782, R872). -/
def domainBack (s : State) (d : Nat) : State :=
  if d < 32 then levelAtWake (wr s E.pacer_lock_status (setBit (rd s E.pacer_lock_status) d true)) d |> fun t => takeArrivals t d
  else if d < 36 then wakeTasks s
  else if d < 39 then portsOn s d
  else pkeWipe s

/-- Domain d is ON, its pads released; a wake named by `sleep_request` ends with its last domain. -/
def domainIsOn (s : State) (d : Nat) : State :=
  let m : BitVec 40 := BitVec.ofNat 40 (2 ^ d)
  let p := s.power
  let named := p.byRequest &&& ~~~m
  let s := setDomain { s with power := { p with waking := p.waking &&& ~~~m, byRequest := named, padWait := p.padWait &&& ~~~m } } d 0
  let s := wr s E.pad_hold (setBit (rd s E.pad_hold) d false)
  let s := if p.byRequest ≠ 0 ∧ named = 0 then wr s E.sleep_result 0 else s
  domainBack (inc s E.wake_count) d

/-- `pad_release` releases the pads of the domains it names that wait for it; others it leaves (R716). `fuel` bounds the
releases that the accesses released here may ask for in turn. -/
def releasePads (fuel : Nat) (s : State) (v : Nat) : State :=
  match fuel with
  | 0 => s
  | n + 1 => ((List.range 40).filter fun d => bit v d && bit s.power.padWait.toNat d).foldl
      (fun t d => releaseWith (releasePads n) (domainIsOn t d) d) s

/-- Each release that `pad_release` makes is of another of the 40 domains. -/
def pads (s : State) (v : Nat) : State := releasePads 40 s v

/-- The rule and effect of a write to an entry. -/
def entrySem (i sub : Nat) : EntrySem := semWith pads i sub

/-- The accesses that waited for domain d go on. -/
def release (s : State) (d : Nat) : State := releaseWith pads s d

/-- A domain that wakes has power again, `stallUs` after the longest wait of an access for it began (R714). Its pads are
released at once, or wait for `pad_release`. -/
def domainWakeDone (s : State) (d stallUs : Nat) : State :=
  if !s.supply.mainOn ∨ domainState s d ≠ 6 ∨ bit s.power.padWait.toNat d then s
  else
    let s := if rd s E.wake_stall_max_us < stallUs ∧ s.host.stalled.any (·.domain == d) then wr s E.wake_stall_max_us stallUs else s
    if bit (rd s E.pad_hold) d ∧ rd s E.pad_release_auto = 0 then
      { s with power := { s.power with padWait := s.power.padWait ||| BitVec.ofNat 40 (2 ^ d) } }
    else release (domainIsOn s d) d

def execDomainWakeDone (d stallUs : Nat) (s : State) : Res := guarded (decide (d < 40)) s (domainWakeDone s d stallUs)

def execPadRelease (via : Path) (d : List Byte) (s : State) : Res :=
  done s (access s (writeBytes via E.pad_release d) (entrySem (E.pad_release / 256) (E.pad_release % 256)))

/-! ## The paths (R657, R660, R662 to R664) -/

/-- `DICT_WRITE`. -/
def execDictWrite (via : Path) (i sub : Nat) (d : List Byte) (s : State) : Res :=
  guarded (decide (i < 65536 ∧ sub < 256)) s (access s (writeBytes via (256 * i + sub) d) (entrySem i sub))

/-- A read of an RC entry returns its count and clears it (R12). -/
def execRcRead (via : Path) (i sub : Nat) (s : State) : Res :=
  guarded (decide (i < 65536 ∧ sub < 256)) s
    (access s ⟨via, 0, false, i, sub, ((dictRow i sub).map DRow.size).getD 1, [], 0⟩ (entrySem i sub))

/-- Two paths use one MCTP binding. -/
def sameBinding : Path → Path → Bool
  | .mctp b _, .mctp c _ => b == c
  | _, _ => false

/-- Accesses outstanding on the binding of a path (R657). -/
def outstandingOn (s : State) (via : Path) : Nat := (s.host.stalled.filter fun a => sameBinding a.via via).length

/-- A dictionary message (R657, R861 order 1). -/
def dictRequest (s : State) (a : Access) : State :=
  if gate s a.index ≠ .silent ∧ 4 ≤ outstandingOn s a.via then finish s (ansOf 7 a.tag none a.sub [])
  else access s a (entrySem a.index a.sub)

def execDictRequest (via : Path) (w : Bool) (tag i sub len : Nat) (d : List Byte) (s : State) : Res :=
  guarded (decide (i < 65536 ∧ sub < 256 ∧ tag < 256)) s (dictRequest s ⟨via, tag, w, i, sub, len, d, 0⟩)

/-- A write of 1 to `go`, with the window's fields as they stand (R662, R663). -/
def windowGo (s : State) (i sub op len : Nat) (d : List Byte) : State :=
  if s.host.dw.busy then inc s E.dw_busy_count
  else
    let s := { s with host := { s.host with dw := { s.host.dw with
      index := i, sub := sub, op := op, length := len, data := if op = 2 then d.take len else s.host.dw.data } } }
    if op ≠ 1 ∧ op ≠ 2 then windowDone (finish s (ansOf 2 windowTag none sub [])) true
    else
      let s := access s ⟨.bar0, windowTag, op == 2, i, sub, len, if op = 2 then d.take len else [], 0⟩ (entrySem i sub)
      if waitsFor s windowTag then { s with host := { s.host with dw := { s.host.dw with
        busy := true, waking := s.host.stalled.any fun a => a.tag == windowTag && a.domain != 40 } } }
      else windowDone s (op == 2)

def execDictWindowGo (i sub op len : Nat) (d : List Byte) (s : State) : Res :=
  guarded (decide (i < 65536 ∧ sub < 256 ∧ op < 4 ∧ len < 512)) s
    (if gate s i = .silent then s else windowGo s i sub op len d)

/-! ## The end of a boot (R722, R723, R793, R804, R807 to R809) -/

/-- The items of a save are restored at the boot after it (R717, R722). HBM has lost its contents, so the commit log is
the save's; the other items that AON memory lost are the save's too. -/
def restoreSave (s : State) : State :=
  match s.save.restore, newestSave s.save with
  | true, some v =>
    let s := { s with commitLog := restoredLog s v.commitLog }
    let s := if s.save.lost then
        wr (wr (wr { s with recovery := { s.recovery with escal := v.escal } } E.step_counter v.step) E.twin_sequence v.twinSeq)
          E.twin_generation v.twinGen
      else s
    let s := if v.crashOpen then wr s E.crash_state 4 else s
    bootLog (setAlert { s with save := { s.save with restore := false, lost := false } } 16) 10 s.recovery.kind 0 0 []
  | _, _ => { s with save := { s.save with restore := false, lost := false } }

/-- The counted resets within the window are counted, and enough of them take the device out of service (R807, R808). -/
def escalate (s : State) : State :=
  let n := within s s.recovery.escal
  let s := wr s E.escalation_count n
  if rd s E.escalation_limit ≤ n ∧ rd s E.out_of_service = 0 then goOutOfService s 1 else s

/-- A device that has an ID and speaks for it tells its peers of the reset (R594, R610, R792). -/
def tellReset (s : State) : State := if advertises s then sendResetNotices s s.recovery.kind else s

/-- Out of service, only the always-on domain is powered (R809). -/
def aonOnly (s : State) : State := (List.range 40).foldl (fun t d => setDomain t d 4) s

/-- The management processor is ready: `boot_state` reads 3 (R793). -/
def bootReady (s : State) (sel : BootReport) : State :=
  if rd s E.boot_state ≠ 2 ∨ s.supply.aonHeld ∨ s.save.running then s
  else
    let s := escalate (restoreSave (inc s E.boot_count))
    let s := dropAllKeys (noteXlat { s with xlat := [], windows := [], transport := { s.transport with holdoff := true } })
    let s := wr s E.boot_state 3
    let s :=
      if rd s E.out_of_service = 1 then refreshAlert (aonOnly s)
      else if s.supply.mainOn then tellReset (bootUnits s sel.lost)
      else tellReset { s with recovery := { s.recovery with deferred := some sel.lost } }
    release (refreshAlert s) 40

def execBootReady (sel : BootReport) (s : State) : Res := done s (bootReady s sel)

end Sys2Proof.Machine
end

