-- ==== Sys2Proof/Machine/Me.lean ====
section
/-! DEFINITION. The matrix engine's instructions (R418 to R430, R453, R454). -/

namespace Sys2Proof.Machine

open Sys2Proof

/-- A plan of the ME: a poisoned operand leaves the bank unchanged (R453, R454). -/
def mePlan (s : State) (c : Nat) (codes : List Nat) (srcs : List Opd) (dst : Opd) (old : Bool) (o l : Nat)
    (writes : List (Nat × Option Nat × List Byte)) (fx : List Fx) : Plan :=
  let reads := if old then dst :: srcs else srcs
  let codes := codes ++ storageCodes 1 dst srcs
  if reads.any (opdPoisoned s c) then ⟨codes, srcs.flatMap Opd.storage, dst.storage, false, o, l, [], [.veFault 0], 0x0303⟩
  else ⟨codes, srcs.flatMap Opd.storage, dst.storage, false, o, l, writes, fx, 0⟩

def bankNum : Opd → Nat
  | .bank b _ => b
  | _ => 0

/-- The plan of `MMA` (R418 to R427): the auxiliary tile is a source where the instruction uses it (R421). -/
def mmaPlan (c : Nat) (mod : BitVec 18) (s : State) (_a : Nat) (vs : List Opd) : Plan :=
  let m := MmaMod.of mod
  let dst := vs.getD 0 .bad
  let x := vs.getD 1 .bad
  let y := vs.getD 2 .bad
  let aux : Opd := .tile (16 + m.aux) m.auxGen
  let srcs := if m.grp ≠ 0 ∨ m.zp then [x, y, aux] else [x, y]
  let o := if m.fmt = 4 ∨ m.fmt = 5 then 128 else 64
  mePlan s c (if m.ok then [] else [0x0105]) srcs dst m.acc o (o + 16) []
    [.mma (bankNum dst) mod (tileBytes s c x) (tileBytes s c y) (tileBytes s c aux)]

def mma (s : State) (c : Nat) (x : XIns) : State := issue s c 1 0x01 x [x.dst, x.srca, x.srcb] (mmaPlan c x.mod)
def execMma (c : Nat) (x : XIns) (s : State) : Res := guarded (decide (c < 800)) s (mma s c x)

/-- The plan of `MSUM` (R428). -/
def msumPlan (c : Nat) (mod : BitVec 18) (s : State) (_a : Nat) (vs : List Opd) : Plan :=
  let m := { MmaMod.of mod with zp := false, acc := false, ua := bit mod.toNat 3, ub := false }
  let dst := vs.getD 0 .bad
  let x := vs.getD 1 .bad
  mePlan s c (if m.ok && m.isInt then [] else [0x0105]) [x] dst false 16 24
    [(Mem.acc c (bankNum dst) 0, none, msumBank m (tileBytes s c x))] []

def msum (s : State) (c : Nat) (x : XIns) : State := issue s c 1 0x02 x [x.dst, x.srca] (msumPlan c x.mod)
def execMsum (c : Nat) (x : XIns) (s : State) : Res := guarded (decide (c < 800)) s (msum s c x)

/-- The limits of R326 and R430 for k source primes, m target primes and c coefficients. -/
def MmodMod.ok (d : MmodMod) (ps : List Prime) : Bool :=
  let m := ps.length
  let n := d.narrow
  decide (m ≠ 0 ∧ d.c ≤ 1024 ∧ d.k * d.c ≤ (if n then 1024 else 512) ∧ m * d.c ≤ (if n then 4096 else 2048) ∧
    d.k * m ≤ (if n then 1024 else 512)) && ps.all fun p => p.valid && (!n || decide (p.bits ≤ 30))

/-- The plan of `MMOD` (R324 to R326, R429, R430). -/
def mmodPlan (c : Nat) (mod : BitVec 18) (s : State) (_a : Nat) (vs : List Opd) : Plan :=
  let d := MmodMod.of mod
  let ps := (maskList (Tab.get 0 (core s c).consts d.kreg)).map (primeAt s c)
  let dst := vs.getD 0 .bad
  let x := vs.getD 1 .bad
  let y := vs.getD 2 .bad
  let lanes := if d.narrow then 256 else 64
  let o := (d.k * ps.length * d.c + lanes - 1) / lanes
  mePlan s c (if d.ok ps then [] else [0x0105]) [x, y] dst false o (o + 16)
    [(Mem.acc c (bankNum dst) 0, none, mmodBank (if d.narrow then 4 else 8) d.k d.c (tileBytes s c x) (tileBytes s c y) ps)] []

def mmod (s : State) (c : Nat) (x : XIns) : State := issue s c 1 0x08 x [x.dst, x.srca, x.srcb] (mmodPlan c x.mod)
def execMmod (c : Nat) (x : XIns) (s : State) : Res := guarded (decide (c < 800)) s (mmod s c x)

end Sys2Proof.Machine
end

