-- ==== Sys2Proof/Machine/TwinInput.lean ====
section
/-! DEFINITION. What the follower of a pair does with the leader's inputs, and its takeover (R622, R625, R627, R630, R632). -/

namespace Sys2Proof.Machine

open Sys2Proof

/-- An input takes its effect on this module (R622, R625). -/
def takeInput (s : State) : InputRec → State
  | .request t m => acceptRequest s t m .clean
  | .answer t m => takeAnswer s t m
  | .slot x k r => if x < 32 ∧ k < 8 then takeRecord s x k r else s
  | .bar2 a d => if hbmInside s a d.length then hbmStore s a d else s
  | .dict i sub d => access s (writeBytes .island (256 * i + sub) d) (entrySem i sub)

/-- An input record reaches the follower: a mirror takes it, a standby keeps it (R625, R627). -/
def inputRecord (s : State) (n : Nat) (r : InputRec) : State :=
  if rd s E.twin_role ≠ 2 then s
  else if rd s E.twin_mode = 1 then ackYoke (takeInput s r) n
  else ackYoke { s with twin := { s.twin with inputs := s.twin.inputs ++ [(n, r)] } } n

def execInputRecord (n : Nat) (r : InputRec) (s : State) : Res := done s (inputRecord s n r)

/-- The survivor takes the node over. -/
def takeover (s : State) (pauseUs : Nat) : State :=
  let mirror := rd s E.twin_mode == 1
  let s := wr (wr (wr s E.twin_generation (rd s E.twin_generation + 1)) E.twin_role 1) E.twin_last_takeover_time (now s)
  let ins := s.twin.inputs
  let s := { s with twin := { s.twin with inputs := [], deltas := [], helloOnly := false, lost := true } }
  let s := if mirror then resendAll s else ins.foldl (fun t r => takeInput t r.2) s
  let ps := (List.range 32).filter (portActive s)
  let s := ps.foldl (fun t p => advertiseTo (sendHello t p) p) s
  let s := wr (inc s E.twin_takeover_count) E.twin_last_pause_us pauseUs
  refreshTwin (((List.range 32).filter (assigned s)).foldl (fun t p => postEvent t p 3 0 0 (rd s E.twin_generation)) s)

/-- A follower whose leader is lost takes over once no path to the node has been advertised for `step_fabric_diameter` + 5 ms.
While some neighbour still advertises one, only the yoke is lost, and it detaches with cause 5. -/
def twinTakeover (s : State) (quietMs pauseUs : Nat) : State :=
  if rd s E.twin_role ≠ 2 ∨ !s.twin.lost ∨ !(List.range 32).any (portActive s) then s
  else if !(pathPorts s (rd s E.node_id)).isEmpty then refreshTwin (detachTwin s 5)
  else if quietMs < rd s E.step_fabric_diameter + 5 then s
  else takeover s pauseUs

def execTwinTakeover (quietMs pauseUs : Nat) (s : State) : Res := done s (twinTakeover s quietMs pauseUs)

end Sys2Proof.Machine
end

