-- ==== Sys2Proof/Machine/VeArith.lean ====
section
/-! DEFINITION. What a vector-engine chain computes (R433 to R438, R442, R443, R446, R447), and one element of the
parameter update (R450). -/

namespace Sys2Proof.Machine

open Sys2Proof

/-! ## Element types (R434) -/

/-- Bits of an element; 0 for a code that names no type. -/
def typeBits (t : Nat) : Nat :=
  match t with
  | 0 => 32
  | 1 => 32
  | 2 => 16
  | 3 => 16
  | 4 => 16
  | 5 => 8
  | 6 => 8
  | 7 => 4
  | 8 => 8
  | 9 => 8
  | _ => 0

/-- The class of a type: float or integer. -/
def typeFloat (t : Nat) : Bool := t == 0 || t == 2 || t == 3 || t == 8 || t == 9

/-- The format of a float type. -/
def typeFmt (t : Nat) : Fmt :=
  match t with
  | 2 => .bf16
  | 3 => .f16
  | 8 => .e4m3
  | 9 => .e5m2
  | _ => .f32

/-- Bytes that n elements take. -/
def typeBytes (t n : Nat) : Nat := (n * typeBits t + 7) / 8

/-- Element i as its lane holds it, 32 bits. -/
def elemAt (t : Nat) (l : List Byte) (i : Nat) : Nat :=
  match t with
  | 0 => f32 (ofF32 (wordAt l (4 * i)))
  | 1 => wordAt l (4 * i)
  | 2 => f32 (Fmt.bf16.decode (halfAt l (2 * i)))
  | 3 => f32 (Fmt.f16.decode (halfAt l (2 * i)))
  | 4 => i32 (signed 16 (halfAt l (2 * i)))
  | 5 => i32 (intElem false false l i)
  | 6 => byteAt l i
  | 7 => i32 (intElem true false l i)
  | 8 => f32 (Fmt.e4m3.decode (byteAt l i))
  | _ => f32 (Fmt.e5m2.decode (byteAt l i))

/-- The lowest and highest value of an integer type. -/
def typeRange (t : Nat) : Int × Int :=
  match t with
  | 4 => (-32768, 32767)
  | 5 => (-128, 127)
  | 6 => (0, 255)
  | 7 => (-8, 7)
  | _ => (-2147483648, 2147483647)

/-- The pattern that a lane value takes in the output type. Float types round to nearest with ties to even. DEDUCED
(log 36). A value that the type does not hold, and a NaN in a narrow type, are free. -/
def narrowTo (t v : Nat) : Nat :=
  if t = 0 then v
  else if typeFloat t then
    match ofF32 v with
    | .nan => veNarrow t v % 2 ^ typeBits t
    | .inf n => if (typeFmt t).infs then (typeFmt t).infPat n else veNarrow t v % 2 ^ typeBits t
    | .fin n m e => match (typeFmt t).pack? n m e false with
      | some p => p
      | none => if (typeFmt t).infs then (typeFmt t).infPat n else veNarrow t v % 2 ^ typeBits t
  else
    let r := typeRange t
    if r.1 ≤ ofI32 v ∧ ofI32 v ≤ r.2 then (ofI32 v % 2 ^ typeBits t).toNat else veNarrow t v % 2 ^ typeBits t

/-- Nibbles in pairs, low nibble first; the high nibble of a last byte that has one element is free. -/
def nibbles : List Nat → List Byte
  | [] => []
  | [a] => [BitVec.ofNat 8 (a + 16 * (veNarrow 7 a % 16))]
  | a :: b :: t => BitVec.ofNat 8 (a + 16 * b) :: nibbles t

/-- Lane values as the bytes of the output type. -/
def packLanes (t : Nat) (l : List Nat) : List Byte :=
  if t = 7 then nibbles (l.map (narrowTo t)) else l.flatMap fun v => leBytes (typeBits t / 8) (narrowTo t v)

/-! ## Stages (R435, R436, R438) -/

structure Stage where
  sop : Nat
  opnd : Nat
  vs : Nat
  trk : Nat
  qfmt : Nat
  imm : Nat
  deriving DecidableEq, Repr

def Stage.of (w : Nat) : Stage :=
  ⟨bits w 63 58, bits w 57 56, bits w 55 53, bits w 52 49, bits w 48 46, bits w 31 0⟩

/-- The header and the stages of a chain. -/
def chainTa (w : List Nat) : Nat := bits (w.getD 0 0) 63 60
def chainTb (w : List Nat) : Nat := bits (w.getD 0 0) 59 56
def chainTout (w : List Nat) : Nat := bits (w.getD 0 0) 55 52
def chainStages (w : List Nat) : List Stage := ((w.drop 1).take (w.getD 0 0 % 16)).map Stage.of

/-- The stage takes an operand y. -/
def Stage.needsY (t : Stage) : Bool := (decide (1 ≤ t.sop) && decide (t.sop ≤ 8)) || t.sop == 0x14

/-- The type that `qfmt` names. -/
def qfmtType (q : Nat) : Nat :=
  match q with
  | 0 => 5
  | 1 => 7
  | 2 => 8
  | _ => 9

/-- The lane's class after a stage; `none` when the stage is invalid for the class before it, or undefined. A stage
that takes y has no meaning with `opnd` 0: its `opnd` is undefined. DEDUCED (log 37). -/
def Stage.after (t : Stage) (fl : Bool) : Option Bool :=
  if t.needsY && t.opnd == 0 then none
  else if t.sop ∈ [0x01, 0x02, 0x03, 0x04, 0x07, 0x08, 0x09, 0x0A, 0x14, 0x19, 0x1A, 0x1B, 0x1D] then some fl
  else if t.sop = 0x1C then if t.vs % 2 = 0 then some fl else none
  else if t.sop ∈ [0x05, 0x06, 0x0B, 0x0C, 0x0D, 0x0E, 0x0F, 0x18, 0x1E] then if fl then some true else none
  else if t.sop = 0x10 then if fl then none else some true
  else if t.sop = 0x11 then if fl then some false else none
  else if t.sop = 0x12 then if fl && decide (t.qfmt ≤ 3) then some (decide (2 ≤ t.qfmt)) else none
  else if t.sop = 0x13 then if t.qfmt ≤ 3 then some true else none
  else none

/-- The class after all stages. -/
def classAfter (l : List Stage) (fl : Bool) : Option Bool := l.foldl (fun c t => c.bind t.after) (some fl)

/-- Some stage takes y from `srcb`. -/
def usesSrcb (w : List Nat) : Bool := (chainStages w).any fun t => t.needsY && t.opnd == 1

/-- The check of R438. -/
def chainOk (w : List Nat) : Bool :=
  decide (typeBits (chainTa w) ≠ 0 ∧ typeBits (chainTout w) ≠ 0 ∧ w.getD 0 0 % 16 ≤ 8) &&
  (!usesSrcb w || typeBits (chainTb w) != 0) &&
  classAfter (chainStages w) (typeFloat (chainTa w)) == some (typeFloat (chainTout w)) &&
  (chainStages w).all fun t => t.sop != 0x12 || qfmtType t.qfmt == chainTout w

/-! ## Lanes (R436, R437, R447) -/

/-- A NaN or an infinity. -/
def oddF32 (v : Nat) : Bool := !(ofF32 v).isFinite

/-- Both are zeros, of different sign. -/
def mixedZeros (a b : Nat) : Bool := (a == 0 && b == 0x80000000) || (a == 0x80000000 && b == 0)

/-- |v| of an FP32 pattern. -/
def absF32 (v : Nat) : Nat := v % 2 ^ 31

/-- An operation of a float lane. -/
def floatOp (sop imm x y : Nat) : Nat :=
  match sop with
  | 0x01 => fadd x y
  | 0x02 => fsub x y
  | 0x03 => fsub y x
  | 0x04 => fmul x y
  | 0x05 => fdiv (ofF32 x) (ofF32 y)
  | 0x06 => ffma x y imm
  | 0x07 => if (ofF32 x).isNan || (ofF32 y).isNan then f32 .nan
      else if mixedZeros x y then veOpen sop x y % 2 ^ 32 else if laneLt true x y then y else x
  | 0x08 => if (ofF32 x).isNan || (ofF32 y).isNan then f32 .nan
      else if mixedZeros x y then veOpen sop x y % 2 ^ 32 else if laneLt true y x then y else x
  | 0x09 => if laneLt true x 0 || x == 0x80000000 then 0 else x
  | 0x0A => if (ofF32 imm).isNan then veOpen sop x imm % 2 ^ 32
      else if laneLt true (absF32 imm) x then absF32 imm
      else if laneLt true x (absF32 imm + 2 ^ 31) then absF32 imm + 2 ^ 31 else x
  | _ => veFunction sop x

/-- An operation of an integer lane. -/
def intOp (sop imm x y : Nat) : Nat :=
  match sop with
  | 0x01 => (x + y) % 2 ^ 32
  | 0x02 => (x + 2 ^ 32 - y) % 2 ^ 32
  | 0x03 => (y + 2 ^ 32 - x) % 2 ^ 32
  | 0x04 => x * y % 2 ^ 32
  | 0x07 => if ofI32 x < ofI32 y then y else x
  | 0x08 => if ofI32 y < ofI32 x then y else x
  | 0x09 => if ofI32 x < 0 then 0 else x
  | 0x0A => let b : Int := (ofI32 imm).natAbs
      if b < ofI32 x then i32 b else if ofI32 x < -b then i32 (-b) else x
  | _ => x

/-- f of R447. -/
def qfmtTop (q : Nat) : Flt :=
  match q with
  | 0 => .ofInt 127
  | 1 => .ofInt 7
  | 2 => .ofInt 448
  | _ => .ofInt 57344

/-- r and d of a tracker (R447). -/
def quantR (q : Nat) (t : Tracker) : Nat := if t.r = 0 then 0x3F800000 else fdiv (qfmtTop q) (ofF32 t.r)
def quantD (q : Nat) (t : Tracker) : Nat := if t.r = 0 then 0x3F800000 else fdiv (ofF32 t.r) (qfmtTop q)

/-- `QNT` of a lane (R447): the lane, and whether the element was clamped or a NaN. The product is rounded once. -/
def qnt (q : Nat) (t : Tracker) (x : Nat) : Nat × Bool :=
  let top := qfmtTop q
  match (ofF32 x).mul (ofF32 (quantR q t)) with
  | .nan => (0, true)
  | .inf n =>
    (if q ≤ 1 then i32 ((if n then -1 else 1) * top.toInt) else f32 (if n then top.neg else top), true)
  | .fin n m e =>
    if q ≤ 1 then
      let v := nearestInt n m e
      if top.toInt < v then (i32 top.toInt, true) else if v < -top.toInt then (i32 (-top.toInt), true) else (i32 v, false)
    else
      let f := if q = 2 then Fmt.e4m3 else Fmt.e5m2
      let r := rne (f.mb + 1) f.emin m e false
      if top.lt (.fin false r.1 r.2) then (f32 (if n then top.neg else top), true) else (f32 (.fin n r.1 r.2), false)

/-! ## A pass (R436, R442, R443, R446) -/

/-- Where a pass stands after some stages: lanes with their active marks, the class, the effects, and whether a lane
met or produced a NaN or an infinity. -/
structure Pass where
  lanes : List (Nat × Bool)
  fl : Bool
  fx : List Fx
  odd : Bool

/-- The values of the active elements with their places. -/
def Pass.active (p : Pass) : List (Nat × Nat) := (p.lanes.zipIdx.filter fun e => e.1.2).map fun e => (e.1.1, e.2)

/-- The sums of the 128 lanes, each element through f, in ascending order. -/
def laneSums (f : Nat → Nat) (l : List (Nat × Nat)) : Tab Nat :=
  l.foldl (fun t e => Tab.set 0 t (e.2 % 128) (fadd (Tab.get 0 t (e.2 % 128)) (f e.1))) []

/-- The fixed tree of R442: neighbours, then pairs of those. -/
def treeSum : Nat → List Nat → List Nat
  | 0, l => l
  | k + 1, l => treeSum k (pairs l)
where
  /-- Neighbours added. -/
  pairs : List Nat → List Nat
    | a :: b :: t => fadd a b :: pairs t
    | l => l

/-- The value that is greatest, or least, with the lowest place. -/
def extreme (fl isMax : Bool) (l : List (Nat × Nat)) : Option (Nat × Nat) :=
  (l.filter fun e => !(fl && (ofF32 e.1).isNan)).foldl (fun m e => match m with
    | none => some e
    | some b => if (if isMax then laneLt fl b.1 e.1 else laneLt fl e.1 b.1) then some e else m) none

/-- The largest finite magnitude. -/
def largest (l : List (Nat × Nat)) : Option Nat :=
  (l.filter fun e => (ofF32 e.1).isFinite).foldl (fun m e => match m with
    | none => some (absF32 e.1)
    | some b => if laneLt true b (absF32 e.1) then some (absF32 e.1) else m) none

/-- A sum of a reduction, and whether a lane of it is not finite. -/
def reduceSum (fl : Bool) (f : Nat → Nat) (l : List (Nat × Nat)) : Nat × Bool :=
  if fl then
    let t := laneSums f l
    let v := (List.range 128).map (Tab.get 0 t)
    ((treeSum 7 v).getD 0 0, v.any oddF32)
  else ((l.map fun e => f e.1).foldl (· + ·) 0 % 2 ^ 32, false)

/-- One stage, with y for each element. -/
def Pass.stage (k : Core) (p : Pass) (t : Stage) (ys : List Nat) (mixed : Bool) : Pass :=
  let met := p.fl && t.needsY && t.sop != 0x14 && !mixed && ys.any oddF32
  let zip := fun (f : Nat → Nat → Nat) => List.zipWith (fun (x : Nat × Bool) y => (f x.1 y, x.2)) p.lanes ys
  let done := fun (fl : Bool) (l : List (Nat × Bool)) =>
    { p with fl := fl, lanes := l, odd := p.odd || met || (fl && l.any fun x => oddF32 x.1) }
  match t.sop with
  | 0x10 => done true (p.lanes.map fun x => (f32 (.ofInt (ofI32 x.1)), x.2))
  | 0x11 => done false (p.lanes.map fun x => match ofF32 x.1 with
      | .nan => (0, x.2)
      | .inf n => (if n then 2147483648 else 2147483647, x.2)
      | .fin n m e => ((sat32 (nearestInt n m e)).1, x.2))
  | 0x12 =>
    let l := p.lanes.map fun x => (qnt t.qfmt (k.tracker t.trk) x.1, x.2)
    let n := (l.filter fun x => x.1.2 && x.2).length
    let r := done (decide (2 ≤ t.qfmt)) (l.map fun x => (x.1.1, x.2))
    if n = 0 then r else { r with fx := p.fx ++ [.vs (.cnt t.vs n), .veSaturated n] }
  | 0x13 =>
    let d := ofF32 (quantD t.qfmt (k.tracker t.trk))
    done true (p.lanes.map fun x => (f32 ((if p.fl then ofF32 x.1 else .ofInt (ofI32 x.1)).mul d), x.2))
  | 0x14 => { p with lanes := List.zipWith (fun x y => (x.1, x.2 && y != 0)) p.lanes ys }
  | 0x18 => match largest p.active with
      | some v => { p with fx := p.fx ++ [.vs (.amax t.trk v)] }
      | none => p
  | 0x19 =>
    if p.active.isEmpty then p
    else
      let r := reduceSum p.fl id p.active
      { p with fx := p.fx ++ [.vs (.sum t.vs p.fl r.1)], odd := p.odd || r.2 }
  | 0x1A => { p with fx := p.fx ++ [.vs (.best t.vs p.fl true ((extreme p.fl true p.active).map Prod.fst))] }
  | 0x1B => { p with fx := p.fx ++ [.vs (.best t.vs p.fl false ((extreme p.fl false p.active).map Prod.fst))] }
  | 0x1C => { p with fx := p.fx ++ [.vs (.arg t.vs p.fl (extreme p.fl true p.active) p.lanes.length)] }
  | 0x1D =>
    { p with fx := p.fx ++ [.vs (.cnt t.vs (p.active.filter fun e => laneLt p.fl t.imm e.1).length)] }
  | 0x1E =>
    if p.active.isEmpty then p
    else
      let r := reduceSum true (fun x => fmul x x) p.active
      { p with fx := p.fx ++ [.vs (.sum t.vs true r.1)], odd := p.odd || r.2 }
  | sop =>
    if mixed then done p.fl (zip fun x y => veOpen sop x y % 2 ^ 32)
    else if p.fl then done true (zip (floatOp sop t.imm)) else done false (zip (intOp sop t.imm))

/-- A chain passes over the elements of `srca` with those of `srcb`. -/
def runChain (k : Core) (w : List Nat) (xs bs : List Nat) : Pass :=
  let fl := typeFloat (chainTa w)
  (chainStages w).foldl (fun p t =>
    let ys := match t.opnd with
      | 1 => bs
      | 2 => xs.map fun _ => t.imm
      | 3 => xs.map fun _ => k.vsAt t.vs
      | _ => xs.map fun _ => 0
    p.stage k t ys (t.opnd == 1 && typeFloat (chainTb w) != p.fl))
    ⟨xs.map fun x => (x, true), fl, [], fl && xs.any oddF32⟩

/-! ## The parameter update (R449, R450) -/

/-- The constants of an update record. -/
structure Upd where
  opt : Nat
  lr : Nat
  wd : Nat
  beta1 : Nat
  beta2 : Nat
  eps : Nat
  gscale : Nat
  bc1 : Nat
  bc2 : Nat
  deriving DecidableEq, Repr

def Upd.of (w : List Nat) : Upd :=
  let at' := fun i => w.getD i 0
  ⟨bits (at' 0) 63 56, bits (at' 1) 31 0, bits (at' 1) 63 32, bits (at' 2) 31 0, bits (at' 2) 63 32, bits (at' 3) 31 0,
    bits (at' 3) 63 32, bits (at' 4) 31 0, bits (at' 4) 63 32⟩

/-- p, m and v of one element after the update, and every FP32 value formed on the way. -/
def Upd.step (u : Upd) (p g m v : Nat) : (Nat × Nat × Nat) × List Nat :=
  let g := fmul g u.gscale
  let wp := fmul u.wd p
  match u.opt with
  | 0 =>
    let t := fadd g wp
    let d := fmul u.lr t
    let p' := fsub p d
    ((p', m, v), [g, wp, t, d, p'])
  | 1 =>
    let m' := ffma u.beta1 m g
    let t := fadd m' wp
    let d := fmul u.lr t
    let p' := fsub p d
    ((p', m', v), [g, wp, m', t, d, p'])
  | _ =>
    let g1 := fmul (fsub 0x3F800000 u.beta1) g
    let g2 := fmul (fmul (fsub 0x3F800000 u.beta2) g) g
    let m' := ffma u.beta1 m g1
    let v' := ffma u.beta2 v g2
    let root := fadd (fsqrt (ofF32 (fmul v' u.bc2))) u.eps
    let q := fdiv (ofF32 (fmul m' u.bc1)) (ofF32 root)
    let t := fadd q wp
    let d := fmul u.lr t
    let p' := fsub p d
    ((p', m', v'), [g, wp, g1, g2, m', v', root, q, t, d, p'])

end Sys2Proof.Machine
end

