-- ==== Sys2Proof/Machine/Ve.lean ====
section
/-! DEFINITION. The vector engine's instructions (R431 to R451, R453, R454). -/

namespace Sys2Proof.Machine

open Sys2Proof

/-! ## Operands (R439, R440) -/

/-- An operand of a chain: its code, its pieces, and the elements by which it may set n; `lines` is true when it lies
in core memory. -/
structure VeOpd where
  code : Nat
  pieces : List (Nat × Nat × Nat)
  sets : Nat
  lines : Bool
  /-- the context reads again and again what one row holds (R440) -/
  again : Bool
  deriving DecidableEq, Repr

/-- All strides that count are zero, and a row holds one element or 128. -/
def Ctx.rereads (x : Ctx) : Bool :=
  (x.n0 == 1 || x.n0 == 128) && (decide (x.n1 ≤ 1) || x.s1 == 0) && (decide (x.n2 ≤ 1) || x.s2 == 0) &&
    (decide (x.n3 ≤ 1) || x.s3 == 0) && (decide (x.n4 ≤ 1) || x.s4 == 0)

/-- An operand of type t. A tile counts 1,024 elements and a bank 4,096 when n is formed, whatever their type; each
holds as many as its bytes allow. DEDUCED (log 38). -/
def veOpd (s : State) (c t : Nat) (w : Bool) : Opd → VeOpd
  | .tile i _ => ⟨0, [(Mem.tile c i 0, 0, 4096)], 1024, false, false⟩
  | .bank b _ => ⟨0, [(Mem.acc c b 0, 0, 16384)], 4096, false, false⟩
  | .ctx k =>
    let r := ownPieces s c k w
    ⟨r.1, r.2, 8 * rangeBytes r.2 / typeBits t, true, (ctxOf s c k).rereads⟩
  | .bad => ⟨0x0105, [], 0, false, false⟩

/-- Elements that the operand holds. -/
def VeOpd.cap (o : VeOpd) (t : Nat) : Nat := 8 * rangeBytes o.pieces / typeBits t

/-- The key of byte `off` of pieces. -/
def keyAt : List (Nat × Nat × Nat) → Nat → Nat
  | [], _ => 0
  | p :: t, off => if off < p.2.2 then p.1 + off else keyAt t (off - p.2.2)

/-- Element i of type t lies in a poisoned word (R150). -/
def elemPoisoned (s : State) (ps : List (Nat × Nat × Nat)) (t i : Nat) : Bool :=
  (List.range (max 1 (typeBits t / 8))).any fun j => poisoned s (keyAt ps (i * typeBits t / 8 + j)) 1

/-- Some word of the pieces is poisoned. -/
def piecesPoisoned (s : State) (ps : List (Nat × Nat × Nat)) : Bool := ps.any fun p => poisoned s p.1 p.2.2

/-- The pieces that the first n bytes reach. -/
def linesOf : List (Nat × Nat × Nat) → Nat → Nat
  | [], _ => 0
  | p :: t, n => if n = 0 then 0 else 1 + linesOf t (n - p.2.2)

/-- The 64 B lines that an operand of n elements moves (R440, R441). -/
def VeOpd.cost (o : VeOpd) (t n : Nat) : Nat :=
  if !o.lines then 0 else if o.again then min (linesOf o.pieces (typeBytes t n)) ((128 * typeBits t / 8 + 63) / 64)
  else linesOf o.pieces (typeBytes t n)

/-! ## `VCH` (R431, R437 to R444) -/

/-- The element of a bank that element e of a walk comes from, when the walk turns columns into rows (R480, R481). -/
def bankWord (turn : Bool) (o : Opd) (e : Nat) : Nat :=
  match o with
  | .bank _ _ => if turn then e % 64 * 64 + e / 64 else e
  | _ => e

/-- The plan of `VCH`; the operands are `dst`, `srca`, and `srcb` where a stage uses it. -/
def vchPlan (c : Nat) (mod : BitVec 18) (s : State) (_a : Nat) (vs : List Opd) : Plan :=
  let k := core s c
  let w := Tab.get [] k.chains (bits mod.toNat 17 14)
  let bcb := bits mod.toNat 13 12
  let two := usesSrcb w
  let dst := vs.getD 0 .bad
  let xa := vs.getD 1 .bad
  let xb := if two then vs.getD 2 .bad else .bad
  if w.isEmpty then Plan.bad [0x0105]
  else
    let ta := chainTa w
    let tb := chainTb w
    let tc := chainTout w
    let d := veOpd s c tc true dst
    let a := veOpd s c ta false xa
    let b := veOpd s c tb false xb
    let n := max (max d.sets a.sets) (if two && bcb == 0 then b.sets else 0)
    let needB := if bcb = 0 then n else if bcb = 1 then 1 else 128
    let srcs := if two then [xa, xb] else [xa]
    let short := decide (d.cap tc < n ∨ a.cap ta < n) || (two && (decide (b.cap tb < needB) || bcb == 3))
    let codes := [d.code, a.code, if two then b.code else 0, if short then 0x0105 else 0] ++ storageCodes 2 dst srcs
    let at' := fun e => if bcb = 0 then e else if bcb = 1 then 0 else e % 128
    let x := pieceBytes s a.pieces
    let y := pieceBytes s b.pieces
    let turn := match dst with
      | .ctx i => (ctxOf s c i).bankCols
      | _ => false
    let p := runChain k w ((List.range n).map fun e => elemAt ta x (bankWord turn xa e))
      ((List.range n).map fun e => if two then elemAt tb y (bankWord turn xb (at' e)) else 0)
    let st := (chainStages w).length
    let ℓ := d.cost tc n + a.cost ta n + if two then b.cost tb needB else 0
    let mem := d.lines || a.lines || (two && b.lines)
    let bank := srcs.any fun o => match o with
      | .bank _ _ => true
      | _ => false
    let o := if mem then max ((ℓ + 2) / 3) ((n + 127) / 128) + 2 else if bank then 32 else 8
    let l := if mem then o + 14 + 2 * st else if bank then 38 + 2 * st else 14 + 2 * st
    let out := packLanes tc (p.lanes.map Prod.fst)
    let q : Plan := ⟨codes, srcs.flatMap Opd.storage, dst.storage, false, o, l, layOver d.pieces out,
      p.fx ++ (if p.odd then [.nonfinite] else []), 0⟩
    if piecesPoisoned s a.pieces || (two && piecesPoisoned s b.pieces) then
      match (List.range n).find? fun e => elemPoisoned s a.pieces ta e || (two && elemPoisoned s b.pieces tb (at' e)) with
      | none => q
      | some e =>
        if !dst.isCtx || typeBytes tc n ≤ 65536 then { q with writes := [], fx := [.veFault 0], status := 0x0303 }
        else
          let part := packLanes tc ((p.lanes.map Prod.fst).take e)
          { q with writes := layOver d.pieces part, fx := [.veFault e], status := 0x0303 }
    else q

/-- The operands of a `VCH`: `srcb` only where its chain, as it stands at the planned beat, uses it. -/
def vchOperands (s : State) (c : Nat) (x : XIns) : List Opnd :=
  let k := core s c
  let due := match k.block with
    | some b => (retire s c (b.planned x.issue))
    | none => s
  if usesSrcb (Tab.get [] (core due c).chains (bits x.mod.toNat 17 14)) then [x.dst, x.srca, x.srcb] else [x.dst, x.srca]

def vch (s : State) (c : Nat) (x : XIns) : State := issue s c 2 0x01 x (vchOperands s c x) (vchPlan c x.mod)
def execVch (c : Nat) (x : XIns) (s : State) : Res := guarded (decide (c < 800)) s (vch s c x)

/-! ## `VCLD` (R431 to R433, R438) -/

/-- Words in groups of sixteen: the chains of a record. -/
def chainGroups : Nat → List Nat → List (List Nat)
  | 0, _ => []
  | n + 1, l => l.take 16 :: chainGroups n (l.drop 16)

/-- The plan of `VCLD`. A poisoned record loads no chain (R150). -/
def vcldPlan (c : Nat) (mod : BitVec 18) (s : State) (_a : Nat) (vs : List Opd) : Plan :=
  match vs with
  | [.ctx k] =>
    let f := bits mod.toNat 17 14
    let r := ownRange s c k false
    let n := rangeBytes r.2 / 128
    let ws := chainGroups n (wordsOf (pieceBytes s r.2))
    let ok := rangeBytes r.2 % 128 == 0 && decide (1 ≤ n ∧ f + n ≤ 16) && ws.all chainOk
    let o := (2 * n + 2) / 3 + 2
    let p : Plan := ⟨[r.1, if ok then 0 else 0x0105], [], [], false, o, o + 8, [], [.chains f ws], 0⟩
    if piecesPoisoned s r.2 then { p with fx := [], status := 0x0303 } else p
  | _ => Plan.bad [0x0105]

def vcld (s : State) (c : Nat) (x : XIns) : State := issue s c 2 0x02 x [x.srca] (vcldPlan c x.mod)
def execVcld (c : Nat) (x : XIns) (s : State) : Res := guarded (decide (c < 800)) s (vcld s c x)

/-! ## `VUPD` (R449 to R451, R453) -/

/-- The type of a field of the record is one that an update takes. -/
def updType (t : Nat) : Bool := t == 0 || t == 2

/-- A stream of an update: its pieces to read and to write, its codes, and its elements. -/
structure UpdStream where
  ctx : Nat
  t : Nat
  used : Bool
  out : Bool
  pieces : List (Nat × Nat × Nat)
  codes : List Nat
  deriving DecidableEq, Repr

def updStream (s : State) (c ctx t : Nat) (used out : Bool) : UpdStream :=
  if !used then ⟨ctx, t, false, false, [], []⟩
  else
    let r := ownPieces s c ctx false
    ⟨ctx, t, true, out, r.2, if out then [r.1, (ownPieces s c ctx true).1] else [r.1]⟩

def UpdStream.count (u : UpdStream) : Nat := 8 * rangeBytes u.pieces / typeBits u.t

/-- The lines of a stream, twice where it is also written. -/
def UpdStream.cost (u : UpdStream) (n : Nat) : Nat := linesOf u.pieces (typeBytes u.t n) * if u.out then 2 else 1

/-- The bytes written to a stream: of a frozen element its old ones. -/
def updOut (u : UpdStream) (old : List Byte) (frozen : Nat → Bool) (vals : List Nat) : List Byte :=
  let b := typeBits u.t / 8
  vals.zipIdx.flatMap fun e => if frozen e.2 then (old.drop (b * e.2)).take b else leBytes b (narrowTo u.t e.1)

/-- The plan of `VUPD`. -/
def vupdPlan (c : Nat) (s : State) (_a : Nat) (vs : List Opd) : Plan :=
  match vs with
  | [.ctx k] =>
    let r := ownRange s c k false
    let w := wordsOf (pieceBytes s r.2)
    let w0 := w.getD 0 0
    let u := Upd.of w
    let tp := bits w0 55 52
    let tg := bits w0 51 48
    let ts := bits w0 47 44
    let p := updStream s c (bits w0 39 35) tp true true
    let g := updStream s c (bits w0 34 30) tg true false
    let m := updStream s c (bits w0 29 25) ts (decide (1 ≤ u.opt)) true
    let v := updStream s c (bits w0 24 20) ts (u.opt == 2) true
    let f := updStream s c (bits w0 19 15) 5 (bit w0 14) false
    let n := p.count
    let short := decide (g.count < n) || (m.used && decide (m.count < n)) || (v.used && decide (v.count < n)) ||
      (f.used && decide (rangeBytes f.pieces < (n + 7) / 8))
    let bad := rangeBytes r.2 != 64 || decide (2 < u.opt) || !updType tp || !updType tg || (decide (1 ≤ u.opt) && !updType ts)
    let codes := [r.1, if bad ∨ short then 0x0105 else 0] ++ p.codes ++ g.codes ++ m.codes ++ v.codes ++ f.codes
    let pb := pieceBytes s p.pieces
    let gb := pieceBytes s g.pieces
    let mb := pieceBytes s m.pieces
    let vb := pieceBytes s v.pieces
    let fb := pieceBytes s f.pieces
    let frozen := fun e => f.used && bit (byteAt fb (e / 8)) (e % 8)
    let res := (List.range n).map fun e =>
      u.step (elemAt tp pb e) (elemAt tg gb e) (if m.used then elemAt ts mb e else 0) (if v.used then elemAt ts vb e else 0)
    let ins := (List.range n).flatMap fun e => elemAt tp pb e :: elemAt tg gb e ::
      ((if m.used then [elemAt ts mb e] else []) ++ if v.used then [elemAt ts vb e] else [])
    let outs := fun k => layOver p.pieces (updOut p pb frozen ((res.map fun x => x.1.1).take k)) ++
      (if m.used then layOver m.pieces (updOut m mb frozen ((res.map fun x => x.1.2.1).take k)) else []) ++
      if v.used then layOver v.pieces (updOut v vb frozen ((res.map fun x => x.1.2.2).take k)) else []
    let ℓ := p.cost n + g.cost n + m.cost n + v.cost n + if f.used then linesOf f.pieces ((n + 7) / 8) else 0
    let o := (ℓ + 2) / 3 + 2
    let odd := ins.any oddF32 || res.any fun x => x.2.any oddF32
    let q : Plan := ⟨codes, [], [], false, o, o + 30, outs n, if odd then [.nonfinite] else [], 0⟩
    let rec' := piecesPoisoned s r.2
    let hit := fun e => rec' || elemPoisoned s p.pieces tp e || elemPoisoned s g.pieces tg e ||
      (m.used && elemPoisoned s m.pieces ts e) || (v.used && elemPoisoned s v.pieces ts e) ||
      (f.used && poisoned s (keyAt f.pieces (e / 8)) 1)
    if rec' || [p, g, m, v, f].any fun x => piecesPoisoned s x.pieces then
      match (List.range n).find? hit with
      | none => q
      | some e =>
        let small := decide (typeBytes tp n ≤ 65536) && (!m.used || decide (typeBytes ts n ≤ 65536)) &&
          (!v.used || decide (typeBytes ts n ≤ 65536))
        if small then { q with writes := [], fx := [.veFault 0], status := 0x0303 }
        else { q with writes := outs e, fx := [.veFault e], status := 0x0303 }
    else q
  | _ => Plan.bad [0x0105]

def vupd (s : State) (c : Nat) (x : XIns) : State := issue s c 2 0x03 x [x.srca] (vupdPlan c)
def execVupd (c : Nat) (x : XIns) (s : State) : Res := guarded (decide (c < 800)) s (vupd s c x)

/-! ## Trackers (R431, R445) -/

def vhcfg (s : State) (c : Nat) (x : XIns) : State :=
  issue s c 2 0x04 x [] fun _ _ _ =>
    ⟨[], [], [], false, 1, 2, [], [.hcfg (bits x.mod.toNat 17 14) (bits x.mod.toNat 13 10 + 1)], 0⟩
def execVhcfg (c : Nat) (x : XIns) (s : State) : Res := guarded (decide (c < 800)) s (vhcfg s c x)

def vhstep (s : State) (c : Nat) (x : XIns) : State :=
  issue s c 2 0x05 x [] fun _ _ _ => ⟨[], [], [], false, 1, 2, [], [.hstep (bits x.mod.toNat 15 0)], 0⟩
def execVhstep (c : Nat) (x : XIns) (s : State) : Res := guarded (decide (c < 800)) s (vhstep s c x)

end Sys2Proof.Machine
end

