-- ==== Sys2Proof/Machine/Dispatch.lean ====
section
/-! DEFINITION. One arm for each command: the call of its meaning. -/

namespace Sys2Proof.Machine

open Sys2Proof

/-- The effect of a command on everything but the queue. -/
def exec (i : Instr) (s : State) : Host.Outcome State Fault Refusal :=
  match i with
  | .dictWrite via index sub data => Sys2Proof.Machine.execDictWrite via index sub data s
  | .rcRead via index sub => Sys2Proof.Machine.execRcRead via index sub s
  | .dictRequest via wr tag index sub len data => Sys2Proof.Machine.execDictRequest via wr tag index sub len data s
  | .dictWindowGo index sub op len data => Sys2Proof.Machine.execDictWindowGo index sub op len data s
  | .powerOnReset straps found => Sys2Proof.Machine.execPowerOnReset straps found s
  | .mainStageEnable mainMv auxMv => Sys2Proof.Machine.execMainStageEnable mainMv auxMv s
  | .mainOvervoltage mainMv => Sys2Proof.Machine.execMainOvervoltage mainMv s
  | .auxOvervoltage auxMv => Sys2Proof.Machine.execAuxOvervoltage auxMv s
  | .supplyRecoveryReset mainMv auxMv => Sys2Proof.Machine.execSupplyRecoveryReset mainMv auxMv s
  | .auxRecoveryReset auxMv found => Sys2Proof.Machine.execAuxRecoveryReset auxMv found s
  | .mainSag mainMv => Sys2Proof.Machine.execMainSag mainMv s
  | .auxSag auxMv => Sys2Proof.Machine.execAuxSag auxMv s
  | .sagInput => Sys2Proof.Machine.execSagInput s
  | .lastSaveEnd durationUs auxMv => Sys2Proof.Machine.execLastSaveEnd durationUs auxMv s
  | .auxBelowFloor auxMv => Sys2Proof.Machine.execAuxBelowFloor auxMv s
  | .sagNRelease mainMv auxMv => Sys2Proof.Machine.execSagNRelease mainMv auxMv s
  | .externalReset lowNs => Sys2Proof.Machine.execExternalReset lowNs s
  | .perstNReset high => Sys2Proof.Machine.execPerstNReset high s
  | .pcieHotReset functionLevel => Sys2Proof.Machine.execPcieHotReset functionLevel s
  | .thermalTrip sensor tempDc => Sys2Proof.Machine.execThermalTrip sensor tempDc s
  | .coolOkLow => Sys2Proof.Machine.execCoolOkLow s
  | .coolOkReturn msSinceFall => Sys2Proof.Machine.execCoolOkReturn msSinceFall s
  | .coolantLoss => Sys2Proof.Machine.execCoolantLoss s
  | .presNChange port low => Sys2Proof.Machine.execPresNChange port low s
  | .cinchEdge => Sys2Proof.Machine.execCinchEdge s
  | .timerefFallback edgesLost => Sys2Proof.Machine.execTimerefFallback edgesLost s
  | .timerefSourceWrite via data => Sys2Proof.Machine.execTimerefSourceWrite via data s
  | .measureTick m => Sys2Proof.Machine.execMeasureTick m s
  | .powerTick p => Sys2Proof.Machine.execPowerTick p s
  | .levelRampEnd sector => Sys2Proof.Machine.execLevelRampEnd sector s
  | .pacerLock sector => Sys2Proof.Machine.execPacerLock sector s
  | .canaryTrimTick domain slackCentiPct => Sys2Proof.Machine.execCanaryTrimTick domain slackCentiPct s
  | .canaryAlarm domain slackCentiPct => Sys2Proof.Machine.execCanaryAlarm domain slackCentiPct s
  | .cmAttrWrite core value => Sys2Proof.Machine.execCmAttrWrite core value s
  | .scrubPass sector errors => Sys2Proof.Machine.execScrubPass sector errors s
  | .remoteWrite w => Sys2Proof.Machine.execRemoteWrite w s
  | .landingRangeClose sector range => Sys2Proof.Machine.execLandingRangeClose sector range s
  | .hbmRead who addr len ecc fifoFull => Sys2Proof.Machine.execHbmRead who addr len ecc fifoFull s
  | .hbmPartialWrite who addr data ecc => Sys2Proof.Machine.execHbmPartialWrite who addr data ecc s
  | .hbmMapout via data => Sys2Proof.Machine.execHbmMapout via data s
  | .hbmMapin via data => Sys2Proof.Machine.execHbmMapin via data s
  | .hbmMigrationDone => Sys2Proof.Machine.execHbmMigrationDone s
  | .hbmForcedMapout pc => Sys2Proof.Machine.execHbmForcedMapout pc s
  | .hbmPatternTest via pc => Sys2Proof.Machine.execHbmPatternTest via pc s
  | .hbmLaneRepair via pc => Sys2Proof.Machine.execHbmLaneRepair via pc s
  | .hbmHardPpr via pc => Sys2Proof.Machine.execHbmHardPpr via pc s
  | .hbmSoftPpr via pc => Sys2Proof.Machine.execHbmSoftPpr via pc s
  | .hbmRepairDone passed rows spares => Sys2Proof.Machine.execHbmRepairDone passed rows spares s
  | .hbmThermalTick stack tempDc => Sys2Proof.Machine.execHbmThermalTick stack tempDc s
  | .adderUpdate u => Sys2Proof.Machine.execAdderUpdate u s
  | .blockEnd core => Sys2Proof.Machine.execBlockEnd core s
  | .engineOpComplete core eng => Sys2Proof.Machine.execEngineOpComplete core eng s
  | .nop core x => Sys2Proof.Machine.execNop core x s
  | .wait core x => Sys2Proof.Machine.execWait core x s
  | .execLoop core x => Sys2Proof.Machine.execExecLoop core x s
  | .push core x => Sys2Proof.Machine.execPush core x s
  | .pushk core x => Sys2Proof.Machine.execPushk core x s
  | .popk core x => Sys2Proof.Machine.execPopk core x s
  | .free core x => Sys2Proof.Machine.execFree core x s
  | .execEnd core x => Sys2Proof.Machine.execExecEnd core x s
  | .ldt core a => Sys2Proof.Machine.execLdt core a s
  | .ldtComplete core xfer beats => Sys2Proof.Machine.execLdtComplete core xfer beats s
  | .stt core a => Sys2Proof.Machine.execStt core a s
  | .cpy core a => Sys2Proof.Machine.execCpy core a s
  | .tok core a => Sys2Proof.Machine.execTok core a s
  | .wtok core a => Sys2Proof.Machine.execWtok core a s
  | .accessLoop core a => Sys2Proof.Machine.execAccessLoop core a s
  | .accessEnd core a => Sys2Proof.Machine.execAccessEnd core a s
  | .transferDone core xfer beats => Sys2Proof.Machine.execTransferDone core xfer beats s
  | .transferResume core xfer => Sys2Proof.Machine.execTransferResume core xfer s
  | .movi core c => Sys2Proof.Machine.execMovi core c s
  | .addi core c => Sys2Proof.Machine.execAddi core c s
  | .alu core c => Sys2Proof.Machine.execAlu core c s
  | .ldx core c => Sys2Proof.Machine.execLdx core c s
  | .stx core c => Sys2Proof.Machine.execStx core c s
  | .bcc core c => Sys2Proof.Machine.execBcc core c s
  | .brf core c => Sys2Proof.Machine.execBrf core c s
  | .jmp core c => Sys2Proof.Machine.execJmp core c s
  | .runb core c => Sys2Proof.Machine.execRunb core c s
  | .runc core c => Sys2Proof.Machine.execRunc core c s
  | .waitb core c => Sys2Proof.Machine.execWaitb core c s
  | .setlc core c => Sys2Proof.Machine.execSetlc core c s
  | .getlc core c => Sys2Proof.Machine.execGetlc core c s
  | .setcmp core c => Sys2Proof.Machine.execSetcmp core c s
  | .getvs core c => Sys2Proof.Machine.execGetvs core c s
  | .ldpm core c => Sys2Proof.Machine.execLdpm core c s
  | .ldpmDone core beats => Sys2Proof.Machine.execLdpmDone core beats s
  | .swap core c => Sys2Proof.Machine.execSwap core c s
  | .pmwait core c => Sys2Proof.Machine.execPmwait core c s
  | .enq core c => Sys2Proof.Machine.execEnq core c s
  | .waite core c => Sys2Proof.Machine.execWaite core c s
  | .halt core c => Sys2Proof.Machine.execHalt core c s
  | .madd core x => Sys2Proof.Machine.execMadd core x s
  | .msub core x => Sys2Proof.Machine.execMsub core x s
  | .mneg core x => Sys2Proof.Machine.execMneg core x s
  | .mcpy core x => Sys2Proof.Machine.execMcpy core x s
  | .mmul core x => Sys2Proof.Machine.execMmul core x s
  | .mmac core x => Sys2Proof.Machine.execMmac core x s
  | .mmulk core x => Sys2Proof.Machine.execMmulk core x s
  | .mmack core x => Sys2Proof.Machine.execMmack core x s
  | .ntt core x => Sys2Proof.Machine.execNtt core x s
  | .intt core x => Sys2Proof.Machine.execIntt core x s
  | .aut core x => Sys2Proof.Machine.execAut core x s
  | .autt core x => Sys2Proof.Machine.execAutt core x s
  | .gset core x => Sys2Proof.Machine.execGset core x s
  | .ptl core x => Sys2Proof.Machine.execPtl core x s
  | .kld core x => Sys2Proof.Machine.execKld core x s
  | .twb core x => Sys2Proof.Machine.execTwb core x s
  | .encc core x => Sys2Proof.Machine.execEncc core x s
  | .encs core x => Sys2Proof.Machine.execEncs core x s
  | .encr core x => Sys2Proof.Machine.execEncr core x s
  | .chainCommit via => Sys2Proof.Machine.execChainCommit via s
  | .chainRelease via => Sys2Proof.Machine.execChainRelease via s
  | .xexp core x => Sys2Proof.Machine.execXexp core x s
  | .xnoise core x => Sys2Proof.Machine.execXnoise core x s
  | .xnset core x => Sys2Proof.Machine.execXnset core x s
  | .kopen core a => Sys2Proof.Machine.execKopen core a s
  | .kfetch core a => Sys2Proof.Machine.execKfetch core a s
  | .ktile core a => Sys2Proof.Machine.execKtile core a s
  | .kclose core a => Sys2Proof.Machine.execKclose core a s
  | .kchain core a => Sys2Proof.Machine.execKchain core a s
  | .kstat core a => Sys2Proof.Machine.execKstat core a s
  | .keyChunkArrival core ctx beats ecc => Sys2Proof.Machine.execKeyChunkArrival core ctx beats ecc s
  | .keysetRegister via => Sys2Proof.Machine.execKeysetRegister via s
  | .keysetRelease via => Sys2Proof.Machine.execKeysetRelease via s
  | .keysetQuery via data => Sys2Proof.Machine.execKeysetQuery via data s
  | .ringSlotTake sector ring => Sys2Proof.Machine.execRingSlotTake sector ring s
  | .commandKernelEnd sector ring index report => Sys2Proof.Machine.execCommandKernelEnd sector ring index report s
  | .completionRelease sector ring => Sys2Proof.Machine.execCompletionRelease sector ring s
  | .hadd sector ring => Sys2Proof.Machine.execHadd sector ring s
  | .hsub sector ring => Sys2Proof.Machine.execHsub sector ring s
  | .hneg sector ring => Sys2Proof.Machine.execHneg sector ring s
  | .haddp sector ring => Sys2Proof.Machine.execHaddp sector ring s
  | .hmulp sector ring => Sys2Proof.Machine.execHmulp sector ring s
  | .hmulw sector ring => Sys2Proof.Machine.execHmulw sector ring s
  | .hmulc sector ring => Sys2Proof.Machine.execHmulc sector ring s
  | .hmul sector ring => Sys2Proof.Machine.execHmul sector ring s
  | .hrelin sector ring => Sys2Proof.Machine.execHrelin sector ring s
  | .hrescale sector ring => Sys2Proof.Machine.execHrescale sector ring s
  | .hmodsw sector ring => Sys2Proof.Machine.execHmodsw sector ring s
  | .hdrop sector ring => Sys2Proof.Machine.execHdrop sector ring s
  | .hrot sector ring => Sys2Proof.Machine.execHrot sector ring s
  | .htontt sector ring => Sys2Proof.Machine.execHtontt sector ring s
  | .htocoef sector ring => Sys2Proof.Machine.execHtocoef sector ring s
  | .hraise sector ring => Sys2Proof.Machine.execHraise sector ring s
  | .hlint sector ring => Sys2Proof.Machine.execHlint sector ring s
  | .hbext sector ring => Sys2Proof.Machine.execHbext sector ring s
  | .hbpbs sector ring => Sys2Proof.Machine.execHbpbs sector ring s
  | .hbrepack sector ring => Sys2Proof.Machine.execHbrepack sector ring s
  | .heAbort via data => Sys2Proof.Machine.execHeAbort via data s
  | .mma core x => Sys2Proof.Machine.execMma core x s
  | .msum core x => Sys2Proof.Machine.execMsum core x s
  | .mmod core x => Sys2Proof.Machine.execMmod core x s
  | .vch core x => Sys2Proof.Machine.execVch core x s
  | .vcld core x => Sys2Proof.Machine.execVcld core x s
  | .vupd core x => Sys2Proof.Machine.execVupd core x s
  | .vhcfg core x => Sys2Proof.Machine.execVhcfg core x s
  | .vhstep core x => Sys2Proof.Machine.execVhstep core x s
  | .xlatMap via => Sys2Proof.Machine.execXlatMap via s
  | .xlatUnmap via => Sys2Proof.Machine.execXlatUnmap via s
  | .xlatCmdDone => Sys2Proof.Machine.execXlatCmdDone s
  | .streamAbandon via data => Sys2Proof.Machine.execStreamAbandon via data s
  | .ringStart via => Sys2Proof.Machine.execRingStart via s
  | .ringStop via ring => Sys2Proof.Machine.execRingStop via ring s
  | .ringForward ring member => Sys2Proof.Machine.execRingForward ring member s
  | .rjoin core a => Sys2Proof.Machine.execRjoin core a s
  | .rnext core a => Sys2Proof.Machine.execRnext core a s
  | .rdone core a => Sys2Proof.Machine.execRdone core a s
  | .rleave core a => Sys2Proof.Machine.execRleave core a s
  | .sgopen sector ring => Sys2Proof.Machine.execSgopen sector ring s
  | .sgbind sector ring => Sys2Proof.Machine.execSgbind sector ring s
  | .sgcommit sector ring => Sys2Proof.Machine.execSgcommit sector ring s
  | .sgabort sector ring => Sys2Proof.Machine.execSgabort sector ring s
  | .sgAbortCmd via data => Sys2Proof.Machine.execSgAbortCmd via data s
  | .sgqFill via data => Sys2Proof.Machine.execSgqFill via data s
  | .sgApplyDone opener group => Sys2Proof.Machine.execSgApplyDone opener group s
  | .sgPrepareTimeout group => Sys2Proof.Machine.execSgPrepareTimeout group s
  | .sgDecisionHoldExpiry opener group => Sys2Proof.Machine.execSgDecisionHoldExpiry opener group s
  | .portEnable via port => Sys2Proof.Machine.execPortEnable via port s
  | .portDisable via port => Sys2Proof.Machine.execPortDisable via port s
  | .portRetrain via port => Sys2Proof.Machine.execPortRetrain via port s
  | .portBurnishNow via port matched => Sys2Proof.Machine.execPortBurnishNow via port matched s
  | .portClearFailed via port => Sys2Proof.Machine.execPortClearFailed via port s
  | .trainingDone port goodMask => Sys2Proof.Machine.execTrainingDone port goodMask s
  | .trainingTimeout port => Sys2Proof.Machine.execTrainingTimeout port s
  | .downRetry port => Sys2Proof.Machine.execDownRetry port s
  | .flitReceive port f => Sys2Proof.Machine.execFlitReceive port f s
  | .ackTimeout port => Sys2Proof.Machine.execAckTimeout port s
  | .laneFail port lane => Sys2Proof.Machine.execLaneFail port lane s
  | .burnishTick port matched => Sys2Proof.Machine.execBurnishTick port matched s
  | .burnishReadaptEnd port => Sys2Proof.Machine.execBurnishReadaptEnd port s
  | .helloTimer port => Sys2Proof.Machine.execHelloTimer port s
  | .hello port h => Sys2Proof.Machine.execHello port h s
  | .helloTimeout port => Sys2Proof.Machine.execHelloTimeout port s
  | .routeAdvertisement port dest path => Sys2Proof.Machine.execRouteAdvertisement port dest path s
  | .routePin via => Sys2Proof.Machine.execRoutePin via s
  | .routeUnpin via => Sys2Proof.Machine.execRouteUnpin via s
  | .routeCopy via => Sys2Proof.Machine.execRouteCopy via s
  | .packetForward port p elapsedNs freeCredits => Sys2Proof.Machine.execPacketForward port p elapsedNs freeCredits s
  | .vcEscape port p => Sys2Proof.Machine.execVcEscape port p s
  | .wopen sector ring => Sys2Proof.Machine.execWopen sector ring s
  | .wclose sector ring => Sys2Proof.Machine.execWclose sector ring s
  | .wbind sector ring => Sys2Proof.Machine.execWbind sector ring s
  | .wunbind sector ring => Sys2Proof.Machine.execWunbind sector ring s
  | .stepend sector ring => Sys2Proof.Machine.execStepend sector ring s
  | .closingEnd window tenMs => Sys2Proof.Machine.execClosingEnd window tenMs s
  | .windowQuietExpiry window => Sys2Proof.Machine.execWindowQuietExpiry window s
  | .windowHoldoffEnd => Sys2Proof.Machine.execWindowHoldoffEnd s
  | .write m => Sys2Proof.Machine.execWrite m s
  | .read m ecc => Sys2Proof.Machine.execRead m ecc s
  | .add m ecc => Sys2Proof.Machine.execAdd m ecc s
  | .done m => Sys2Proof.Machine.execDone m s
  | .connect m => Sys2Proof.Machine.execConnect m s
  | .revoke m => Sys2Proof.Machine.execRevoke m s
  | .ack m => Sys2Proof.Machine.execAck m s
  | .rdata m => Sys2Proof.Machine.execRdata m s
  | .credit m => Sys2Proof.Machine.execCredit m s
  | .revoked m => Sys2Proof.Machine.execRevoked m s
  | .creditRepeatTimer window => Sys2Proof.Machine.execCreditRepeatTimer window s
  | .transportRetry flow tseq => Sys2Proof.Machine.execTransportRetry flow tseq s
  | .sgPrepare m => Sys2Proof.Machine.execSgPrepare m s
  | .sgVote m => Sys2Proof.Machine.execSgVote m s
  | .sgDecision m => Sys2Proof.Machine.execSgDecision m s
  | .sgQuery m => Sys2Proof.Machine.execSgQuery m s
  | .stepArrive m => Sys2Proof.Machine.execStepArrive m s
  | .stepRelease m => Sys2Proof.Machine.execStepRelease m s
  | .resetNotice m => Sys2Proof.Machine.execResetNotice m s
  | .stepBoundary => Sys2Proof.Machine.execStepBoundary s
  | .cinchHoldExpiry => Sys2Proof.Machine.execCinchHoldExpiry s
  | .stepTimeout child => Sys2Proof.Machine.execStepTimeout child s
  | .stepResume via data => Sys2Proof.Machine.execStepResume via data s
  | .twinBind via lead peer => Sys2Proof.Machine.execTwinBind via lead peer s
  | .twinDetach via => Sys2Proof.Machine.execTwinDetach via s
  | .twinReattach via => Sys2Proof.Machine.execTwinReattach via s
  | .twinUnbind via => Sys2Proof.Machine.execTwinUnbind via s
  | .twinLeadAlone via => Sys2Proof.Machine.execTwinLeadAlone via s
  | .twinBindTimeout => Sys2Proof.Machine.execTwinBindTimeout s
  | .twinHeartbeat port h => Sys2Proof.Machine.execTwinHeartbeat port h s
  | .twinLoss => Sys2Proof.Machine.execTwinLoss s
  | .twinTakeover quietMs pauseUs => Sys2Proof.Machine.execTwinTakeover quietMs pauseUs s
  | .inputRecord seqNo r => Sys2Proof.Machine.execInputRecord seqNo r s
  | .commitRecord step decisions digest => Sys2Proof.Machine.execCommitRecord step decisions digest s
  | .twinDelta addr data => Sys2Proof.Machine.execTwinDelta addr data s
  | .twinLagExpiry => Sys2Proof.Machine.execTwinLagExpiry s
  | .twinResyncDone => Sys2Proof.Machine.execTwinResyncDone s
  | .pstart sector ring => Sys2Proof.Machine.execPstart sector ring s
  | .pstop sector ring => Sys2Proof.Machine.execPstop sector ring s
  | .ringEnable via sector ring => Sys2Proof.Machine.execRingEnable via sector ring s
  | .ringDisable via sector ring => Sys2Proof.Machine.execRingDisable via sector ring s
  | .ringDrained sector ring => Sys2Proof.Machine.execRingDrained sector ring s
  | .bar2Access wr offset len data => Sys2Proof.Machine.execBar2Access wr offset len data s
  | .ringWindowWrite offset data => Sys2Proof.Machine.execRingWindowWrite offset data s
  | .msixHoldoffExpiry vector => Sys2Proof.Machine.execMsixHoldoffExpiry vector s
  | .fwStage via => Sys2Proof.Machine.execFwStage via s
  | .fwStageDone v => Sys2Proof.Machine.execFwStageDone v s
  | .fwActivate via => Sys2Proof.Machine.execFwActivate via s
  | .sleepWake via others sectors => Sys2Proof.Machine.execSleepWake via others sectors s
  | .sleepSl1 via others sectors => Sys2Proof.Machine.execSleepSl1 via others sectors s
  | .sleepSl2 via others sectors => Sys2Proof.Machine.execSleepSl2 via others sectors s
  | .sleepSl3 via => Sys2Proof.Machine.execSleepSl3 via s
  | .sleepSl4 via => Sys2Proof.Machine.execSleepSl4 via s
  | .sleepAnswer block ans => Sys2Proof.Machine.execSleepAnswer block ans s
  | .sleepDelayExpiry block => Sys2Proof.Machine.execSleepDelayExpiry block s
  | .wakeDemand domain kind => Sys2Proof.Machine.execWakeDemand domain kind s
  | .domainWakeDone domain stallUs => Sys2Proof.Machine.execDomainWakeDone domain stallUs s
  | .padRelease via data => Sys2Proof.Machine.execPadRelease via data s
  | .debugUnlock via token signed => Sys2Proof.Machine.execDebugUnlock via token signed s
  | .bootVerifyDone v => Sys2Proof.Machine.execBootVerifyDone v s
  | .bootReady sel => Sys2Proof.Machine.execBootReady sel s
  | .svnMinWrite via data => Sys2Proof.Machine.execSvnMinWrite via data s
  | .trustAnchorWrite via elem data => Sys2Proof.Machine.execTrustAnchorWrite via elem data s
  | .spdmRequest q => Sys2Proof.Machine.execSpdmRequest q s
  | .keyRelease session r => Sys2Proof.Machine.execKeyRelease session r s
  | .keyRevoke session part pkg => Sys2Proof.Machine.execKeyRevoke session part pkg s
  | .pkgDecrypt via => Sys2Proof.Machine.execPkgDecrypt via s
  | .pkgDecryptDone => Sys2Proof.Machine.execPkgDecryptDone s
  | .partAssign via part twinOk => Sys2Proof.Machine.execPartAssign via part twinOk s
  | .partScrubFree via part => Sys2Proof.Machine.execPartScrubFree via part s
  | .partScrubKeep via part => Sys2Proof.Machine.execPartScrubKeep via part s
  | .scrubEnd part elapsedUs => Sys2Proof.Machine.execScrubEnd part elapsedUs s
  | .trngFail => Sys2Proof.Machine.execTrngFail s
  | .drbgReseed entropy => Sys2Proof.Machine.execDrbgReseed entropy s
  | .pkeJobSubmit via => Sys2Proof.Machine.execPkeJobSubmit via s
  | .pkeJobStart => Sys2Proof.Machine.execPkeJobStart s
  | .pkeMadd c => Sys2Proof.Machine.execPkeMadd c s
  | .pkeMsub c => Sys2Proof.Machine.execPkeMsub c s
  | .pkeMmul c => Sys2Proof.Machine.execPkeMmul c s
  | .pkeMinv c => Sys2Proof.Machine.execPkeMinv c s
  | .pkeMexp c => Sys2Proof.Machine.execPkeMexp c s
  | .pkeMred c => Sys2Proof.Machine.execPkeMred c s
  | .pkePadd c => Sys2Proof.Machine.execPkePadd c s
  | .pkePdbl c => Sys2Proof.Machine.execPkePdbl c s
  | .pkePmul c => Sys2Proof.Machine.execPkePmul c s
  | .pkePchk c => Sys2Proof.Machine.execPkePchk c s
  | .pkeJobEnd lateTicks mismatch => Sys2Proof.Machine.execPkeJobEnd lateTicks mismatch s
  | .pkeWipeDone => Sys2Proof.Machine.execPkeWipeDone s
  | .pkeSelftest via => Sys2Proof.Machine.execPkeSelftest via s
  | .pkeSelftestDone passed => Sys2Proof.Machine.execPkeSelftestDone passed s
  | .sectorResetCmd via sector => Sys2Proof.Machine.execSectorResetCmd via sector s
  | .deviceResetCmd via => Sys2Proof.Machine.execDeviceResetCmd via s
  | .hangDeclared block => Sys2Proof.Machine.execHangDeclared block s
  | .stallDetected block => Sys2Proof.Machine.execStallDetected block s
  | .crashCollectionDone unread => Sys2Proof.Machine.execCrashCollectionDone unread s
  | .oosReinstate via data => Sys2Proof.Machine.execOosReinstate via data s
  | .keeperSwap via core => Sys2Proof.Machine.execKeeperSwap via core s
  | .keeperSelftest via sector slot => Sys2Proof.Machine.execKeeperSelftest via sector slot s
  | .keeperSelftestDone sector slot passed => Sys2Proof.Machine.execKeeperSelftestDone sector slot passed s
  | .meshDetour via link => Sys2Proof.Machine.execMeshDetour via link s
  | .meshLinkTest via link => Sys2Proof.Machine.execMeshLinkTest via link s
  | .meshLinkRestore via link => Sys2Proof.Machine.execMeshLinkRestore via link s
  | .meshLinkRepeat link => Sys2Proof.Machine.execMeshLinkRepeat link s
  | .fullScanTest via => Sys2Proof.Machine.execFullScanTest via s
  | .emramMarchTest via => Sys2Proof.Machine.execEmramMarchTest via s
  | .sislSelfTest via => Sys2Proof.Machine.execSislSelfTest via s
  | .fullTestDone passed => Sys2Proof.Machine.execFullTestDone passed s
  | .crashRead via data => Sys2Proof.Machine.execCrashRead via data s
  | .ordFlush via data => Sys2Proof.Machine.execOrdFlush via data s
  | .nrArm via part => Sys2Proof.Machine.execNrArm via part s
  | .nrLoad via part => Sys2Proof.Machine.execNrLoad via part s
  | .nrErase via part => Sys2Proof.Machine.execNrErase via part s
  | .histClear via => Sys2Proof.Machine.execHistClear via s
  | .histFreeze via => Sys2Proof.Machine.execHistFreeze via s
  | .histResume via => Sys2Proof.Machine.execHistResume via s
  | .bwWindowEnd tx rx => Sys2Proof.Machine.execBwWindowEnd tx rx s
  | .fatalReset aonError => Sys2Proof.Machine.execFatalReset aonError s
  | .keysetRegisterDone => Sys2Proof.Machine.execKeysetRegisterDone s
  | .chainCommitDone => Sys2Proof.Machine.execChainCommitDone s
  | .meshLinkTestDone passed => Sys2Proof.Machine.execMeshLinkTestDone passed s
  | .ringFillDone ring => Sys2Proof.Machine.execRingFillDone ring s
  | .trngSourcePass => Sys2Proof.Machine.execTrngSourcePass s
  | .busMasterEnable on => Sys2Proof.Machine.execBusMasterEnable on s
  | .setEndpointId binding eid => Sys2Proof.Machine.execSetEndpointId binding eid s
  | .dynamicAddressAssignment addr entdaa => Sys2Proof.Machine.execDynamicAddressAssignment addr entdaa s
  | .timerefInPresent ppm => Sys2Proof.Machine.execTimerefInPresent ppm s
  | .twinHeartbeatSend port => Sys2Proof.Machine.execTwinHeartbeatSend port s
  | .answerRecord src flow tseq mtype ans => Sys2Proof.Machine.execAnswerRecord src flow tseq mtype ans s
  | .noiseKeysRecord core key => Sys2Proof.Machine.execNoiseKeysRecord core key s

end Sys2Proof.Machine
end

