-- ==== Sys2Proof/Machine/Step.lean ====
section
/-! DEFINITION. One step of the block: the command at the front of its queue, or one period of its clock. -/

namespace Sys2Proof.Machine

open Sys2Proof

/-- A step takes the first command of the queue and runs it with the queue's rest. On an empty queue one period of
the time reference passes (R126).
DESIGN CHOICE (log 9): the specification has no row for a period of the clock. -/
def step (s : State) : Host.Outcome State Fault Refusal :=
  match s.pending with
  | [] => .next (idle s)
  | c :: t => exec c { s with pending := t }

/-- The command that a word spells, put at the front of the queue; no word spells one. -/
def State.withFetchWord (s : State) (nbits w : Nat) : State :=
  match decodeTableWord nbits w with
  | none => s
  | some c => { s with pending := c :: s.pending }

end Sys2Proof.Machine
end

