-- ==== Sys2Proof/WellFormed.lean ====
section
/-! DEFINITION. Which commands name units that the part has: the numbers of cores, sectors, rings, ports, domains, pseudo-channels
and the rest lie in the ranges that the specification gives them (R21 to R23, R40, R576, R670, R692, R753, R814, and the index
map of R857). A command that names no unit, in a number that no field of an access can hold, cannot reach the block. -/

namespace Sys2Proof

/-- A logical core, 0 to 799 (R23). -/
def coreNo (c : Nat) : Bool := decide (c < 800)
/-- A sector, 0 to 31 (R22, R25). -/
def sectorNo (x : Nat) : Bool := decide (x < 32)
/-- A port: 0 to 31 fabric, 32 and 33 yoke (R40). -/
def portNo (p : Nat) : Bool := decide (p < 34)
/-- A switched domain, 0 to 39 (R692). -/
def domainNo (d : Nat) : Bool := decide (d < 40)
/-- A partition, 0 to 31 (R753). -/
def partNo (p : Nat) : Bool := decide (p < 32)
/-- A dictionary sub-entry: a 16-bit index and an 8-bit sub-index (R657). -/
def entryNo (i sub : Nat) : Bool := decide (i < 65536 ∧ sub < 256)
/-- A block that sends heartbeats (R797). -/
def heartbeatBlock (b : Nat) : Bool := b == 1 || b == 2 || (b / 256 == 1 && decide (b % 256 < 32))
/-- A block of the table of R21. -/
def blockNo (b : Nat) : Bool :=
  if 0x8000 ≤ b then decide (b < 0x8400 ∧ b % 32 < 28)
  else if b / 256 = 0 then decide (1 ≤ b ∧ b ≤ 8)
  else if b / 256 ≤ 5 then decide (b % 256 < 32)
  else if b / 256 = 6 then decide (b % 256 < 16)
  else if b / 256 = 7 then decide (b % 256 < 34)
  else decide (b / 256 = 8 ∧ b % 256 < 52)

/-- The command names units that exist. -/
def Instr.wellFormed (i : Instr) : Bool :=
  match i with
  | .dictWrite _ index sub _ | .rcRead _ index sub => entryNo index sub
  | .dictRequest _ _ tag index sub _ _ => entryNo index sub && decide (tag < 256)
  | .dictWindowGo index sub op len _ => entryNo index sub && decide (op < 4 ∧ len < 512)
  | .powerOnReset .. | .mainStageEnable .. | .mainOvervoltage .. | .auxOvervoltage .. | .supplyRecoveryReset ..
  | .auxRecoveryReset .. | .mainSag .. | .auxSag .. | .sagInput | .lastSaveEnd .. | .auxBelowFloor ..
  | .sagNRelease .. | .externalReset .. | .perstNReset .. | .pcieHotReset .. | .coolOkLow | .coolOkReturn ..
  | .coolantLoss | .cinchEdge | .timerefFallback .. | .timerefSourceWrite .. | .measureTick .. | .powerTick ..
  | .hbmRead .. | .hbmPartialWrite .. | .hbmMapout .. | .hbmMapin .. | .hbmMigrationDone | .hbmRepairDone ..
  | .adderUpdate .. | .chainCommit .. | .chainRelease .. | .keysetRegister .. | .keysetRelease .. | .keysetQuery ..
  | .heAbort .. | .xlatMap .. | .xlatUnmap .. | .xlatCmdDone | .streamAbandon .. | .ringStart .. | .sgAbortCmd ..
  | .sgqFill .. | .sgApplyDone .. | .sgPrepareTimeout .. | .sgDecisionHoldExpiry .. | .routePin .. | .routeUnpin ..
  | .routeCopy .. | .windowHoldoffEnd | .write .. | .read .. | .add .. | .done .. | .connect .. | .revoke ..
  | .ack .. | .rdata .. | .credit .. | .revoked .. | .transportRetry .. | .sgPrepare .. | .sgVote .. | .sgDecision ..
  | .sgQuery .. | .stepArrive .. | .stepRelease .. | .resetNotice .. | .stepBoundary | .cinchHoldExpiry
  | .stepTimeout .. | .stepResume .. | .twinBind .. | .twinDetach .. | .twinReattach .. | .twinUnbind ..
  | .twinLeadAlone .. | .twinBindTimeout | .twinLoss | .twinTakeover .. | .inputRecord .. | .commitRecord ..
  | .twinDelta .. | .twinLagExpiry | .twinResyncDone | .fwStage .. | .fwStageDone .. | .fwActivate .. | .sleepWake ..
  | .sleepSl1 .. | .sleepSl2 .. | .sleepSl3 .. | .sleepSl4 .. | .sleepAnswer .. | .sleepDelayExpiry ..
  | .padRelease .. | .debugUnlock .. | .bootVerifyDone .. | .bootReady .. | .svnMinWrite .. | .spdmRequest ..
  | .keyRelease .. | .keyRevoke .. | .pkgDecrypt .. | .pkgDecryptDone | .trngFail | .drbgReseed .. | .pkeJobSubmit ..
  | .pkeJobStart | .pkeMadd .. | .pkeMsub .. | .pkeMmul .. | .pkeMinv .. | .pkeMexp .. | .pkeMred .. | .pkePadd ..
  | .pkePdbl .. | .pkePmul .. | .pkePchk .. | .pkeJobEnd .. | .pkeWipeDone | .pkeSelftest .. | .pkeSelftestDone ..
  | .deviceResetCmd .. | .crashCollectionDone .. | .oosReinstate .. | .fullScanTest .. | .emramMarchTest ..
  | .sislSelfTest .. | .fullTestDone .. | .crashRead .. | .ordFlush .. | .histClear .. | .histFreeze ..
  | .histResume .. | .bwWindowEnd .. | .fatalReset .. | .keysetRegisterDone | .chainCommitDone | .meshLinkTestDone ..
  | .trngSourcePass | .busMasterEnable .. | .setEndpointId .. | .dynamicAddressAssignment .. | .timerefInPresent ..
  | .answerRecord .. => true
  -- a write to an instance that an entry does not have has a result of its own (R857)
  | .portEnable .. | .portDisable .. | .portRetrain .. | .portBurnishNow .. | .portClearFailed .. | .ringEnable .. | .ringDisable ..
  | .partAssign .. | .partScrubFree .. | .partScrubKeep .. | .nrArm .. | .nrLoad .. | .nrErase .. | .trustAnchorWrite .. => true
  -- so has a number that a field can hold and that names nothing (R811, R814)
  | .keeperSwap _ core => decide (core < 1024)
  | .meshDetour _ link | .meshLinkTest _ link | .meshLinkRestore _ link => decide (link < 64)
  | .thermalTrip sensor _ => decide (sensor < 162)
  | .presNChange port _ | .trainingDone port _ | .trainingTimeout port | .downRetry port | .flitReceive port _
  | .ackTimeout port | .burnishTick port _ | .burnishReadaptEnd port => portNo port
  | .levelRampEnd sector | .pacerLock sector | .scrubPass sector _ | .landingRangeClose sector _
  | .sectorResetCmd _ sector => sectorNo sector
  | .remoteWrite w => sectorNo w.sector
  | .canaryTrimTick domain _ | .canaryAlarm domain _ => decide (domain < 41)
  | .cmAttrWrite core _ | .blockEnd core | .engineOpComplete core _ | .nop core _ | .wait core _ | .execLoop core _
  | .push core _ | .pushk core _ | .popk core _ | .free core _ | .execEnd core _ | .ldt core _
  | .ldtComplete core _ _ | .stt core _ | .cpy core _ | .tok core _ | .wtok core _ | .accessLoop core _
  | .accessEnd core _ | .transferDone core _ _ | .transferResume core _ | .movi core _ | .addi core _ | .alu core _
  | .ldx core _ | .stx core _ | .bcc core _ | .brf core _ | .jmp core _ | .runb core _ | .runc core _ | .waitb core _
  | .setlc core _ | .getlc core _ | .setcmp core _ | .getvs core _ | .ldpm core _ | .ldpmDone core _ | .swap core _
  | .pmwait core _ | .enq core _ | .waite core _ | .halt core _ | .madd core _ | .msub core _ | .mneg core _
  | .mcpy core _ | .mmul core _ | .mmac core _ | .mmulk core _ | .mmack core _ | .ntt core _ | .intt core _
  | .aut core _ | .autt core _ | .gset core _ | .ptl core _ | .kld core _ | .twb core _ | .encc core _ | .encs core _
  | .encr core _ | .xexp core _ | .xnoise core _ | .xnset core _ | .kopen core _ | .kfetch core _ | .ktile core _
  | .kclose core _ | .kchain core _ | .kstat core _ | .keyChunkArrival core _ _ _ | .mma core _ | .msum core _
  | .mmod core _ | .vch core _ | .vcld core _ | .vupd core _ | .vhcfg core _ | .vhstep core _ | .rjoin core _
  | .rnext core _ | .rdone core _ | .rleave core _ | .noiseKeysRecord core _ => coreNo core
  | .hbmForcedMapout pc | .hbmPatternTest _ pc | .hbmLaneRepair _ pc | .hbmHardPpr _ pc | .hbmSoftPpr _ pc => decide (pc < 512)
  | .hbmThermalTick stack _ => decide (stack < 16)
  | .ringSlotTake sector ring | .commandKernelEnd sector ring _ _ | .completionRelease sector ring
  | .sgopen sector ring | .sgbind sector ring | .sgcommit sector ring | .sgabort sector ring | .wopen sector ring
  | .wclose sector ring | .wbind sector ring | .wunbind sector ring | .stepend sector ring | .pstart sector ring
  | .pstop sector ring | .ringDrained sector ring
  | .hadd sector ring | .hsub sector ring | .hneg sector ring | .haddp sector ring | .hmulp sector ring
  | .hmulw sector ring | .hmulc sector ring | .hmul sector ring | .hrelin sector ring | .hrescale sector ring
  | .hmodsw sector ring | .hdrop sector ring | .hrot sector ring | .htontt sector ring | .htocoef sector ring
  | .hraise sector ring | .hlint sector ring | .hbext sector ring | .hbpbs sector ring | .hbrepack sector ring => sectorNo sector && decide (ring < 8)
  | .ringStop _ ring | .ringForward ring _ | .ringFillDone ring => decide (ring < 64)
  | .laneFail port lane => portNo port && decide (lane < 9)
  | .helloTimer port | .hello port _ | .helloTimeout port | .packetForward port _ _ _ | .vcEscape port _ => decide (port < 32)
  | .scrubEnd part _ => partNo part
  | .routeAdvertisement port dest _ => decide (port < 32 ∧ dest < 65536)
  | .closingEnd window _ | .windowQuietExpiry window | .creditRepeatTimer window => decide (window < 1048576)
  | .twinHeartbeat port _ | .twinHeartbeatSend port => decide (port = 32 ∨ port = 33)
  | .bar2Access wr offset len data => decide (offset + (if wr then data.length else len) ≤ 0x10000000)
  | .ringWindowWrite offset data => decide (offset < 0x800000 ∧ offset % 0x40000 + data.length ≤ 0x40000)
  | .msixHoldoffExpiry vector => decide (vector < 64)
  | .wakeDemand domain _ | .domainWakeDone domain _ => domainNo domain
  | .hangDeclared block => heartbeatBlock block
  | .stallDetected block => blockNo block
  | .keeperSelftest _ sector slot => decide (sector < 32 ∧ slot < 32)
  | .keeperSelftestDone sector slot _ => decide (sector < 32 ∧ slot < 28)
  | .meshLinkRepeat link => decide (link < 52)

end Sys2Proof
end

