-- ==== Sys2Proof/Safety.lean ====
section
/-! DEFINITION. What a safe run is, and the conditions in whose terms statements about the block are made. -/

namespace Sys2Proof.Machine

open Sys2Proof

/-! ## Runs -/

/-- Every command that waits names units that the part has. -/
def State.queueOk (s : State) : Bool := s.pending.all Instr.wellFormed

/-- The memory's canonical form: addresses strictly rising, and no listed byte that an unlisted address would read
as. -/
def Memory.wf (m : Tab Byte) : Bool := Tab.wf (fun _ => 0) m

/-- Memory, the marks of poisoned words, the bit errors noted and the dictionary have their canonical form: keys rise strictly,
and nothing is listed that an unlisted key reads as. -/
def State.canonical (s : State) : Bool :=
  Memory.wf s.mem && Tab.wf (fun _ => false) s.poison && Tab.wf (fun _ => 0) s.flips && Tab.wf dictDefault s.dict

/-! ## Frames -/

/-- From s to t nothing of the machine has changed but core c. -/
def OnlyCore (s t : State) (c : Nat) : Prop := t = setCore s c (core t c)

/-- Every byte of every memory reads as before, and no word has lost or taken a mark. -/
def SameMemory (s t : State) : Prop := (∀ k, rdByte t k = rdByte s k) ∧ t.poison = s.poison

/-! ## The control core (R234, R272) -/

/-- The control core of core c may issue: its program runs, nothing stops it, and it stands within its bank. -/
def ControlFree (s : State) (c : Nat) : Prop :=
  c < 800 ∧ coreRuns s c = true ∧ (core s c).stopping = none ∧ (core s c).pc < 32768

/-- Some block runs or is pending on core c. -/
def BlocksIdle (s : State) (c : Nat) : Prop := (core s c).block = none ∧ (core s c).pendBlock = none

/-- A 64-bit register of core c, as bits. -/
def Core.xw (k : Core) (i : Nat) : BitVec 64 := BitVec.ofNat 64 (k.x i)

/-- From s to t the control core of core c went to half-word `pc`, may issue again at beat `next`, and wrote v to
register d; a write of X0 is discarded (R271). Of the machine nothing else changed. -/
def Wrote (s t : State) (c pc next d : Nat) (v : BitVec 64) : Prop :=
  OnlyCore s t c ∧
    (∀ j, (core t c).x j = if j = d ∧ d ≠ 0 then v.toNat else (core s c).x j) ∧
    core t c = { core s c with
      xs := (core t c).xs, pc := pc, cbeat := next, beat := max (core s c).beat (next - 1), waiting := 0
      ended := (core s c).ended.filter fun e => decide (next < e.1) }

/-- Core c has nothing in flight: no operation, no transfer, no line that waits for its slot, and no load of which the new
generation counts only after beat a (R253, R256 to R258). -/
def Quiet (s : State) (c a : Nat) : Prop :=
  (core s c).ops = [] ∧ (core s c).xfers = [] ∧ (core s c).grants = [] ∧ ∀ t, Tab.get 0 (core s c).raised t ≤ a

/-! ## The streams of a block (R235 to R270) -/

/-- The execute stream of core c in native mode may issue its next instruction at beat a: its program and its block b run,
its part has not ended, and no fault has stopped it. u is the machine once everything that ends before beat a has
ended (R253). -/
def ExecuteFree (s : State) (c a : Nat) (b : Block) (u : State) : Prop :=
  c < 800 ∧ coreRuns s c = true ∧ (core s c).c2 = false ∧ (core s c).block = some b ∧ b.xdone = false ∧ b.fault = 0 ∧
    b.xpos < b.length ∧ u = retire s c a ∧ ∃ v, (core u c).block = some v ∧ v.fault = 0

/-- The same of the access stream: it issues in order, from the beat after its last instruction, and not while a transfer
holds (R264, R471). -/
def AccessFree (s : State) (c a : Nat) (b : Block) (u : State) : Prop :=
  c < 800 ∧ coreRuns s c = true ∧ (core s c).c2 = false ∧ (core s c).block = some b ∧ b.adone = false ∧ b.fault = 0 ∧
    b.apos < b.exeStart ∧ (core s c).holding = false ∧ max (max b.anext b.b0) (core s c).beat ≤ a ∧ u = retire s c a ∧
    ∃ v, (core u c).block = some v ∧ v.fault = 0

/-- From u to t the execute stream of core c went to word `pos` of its block, to count from beat `base`, and its part
has ended or not. The operations in flight are those of before and those of `more`; no generation changed, every other core is as
before, and memory is too, unless the core is tagged (R853). -/
def ExecuteWent (u t : State) (c pos base : Nat) (ended : Bool) (more : List Op := []) : Prop :=
  (∃ b, (core t c).block = some b ∧ b.xpos = pos ∧ b.xbase = base ∧ b.xdone = ended ∧ b.fault = 0) ∧
    (core t c).waiting = 0 ∧ (core t c).ops = (core u c).ops ++ more ∧ (core t c).gens = (core u c).gens ∧
    (∀ j, j ≠ c → core t j = core u j) ∧ (tagged u c = false → SameMemory u t)

/-- From u to t the access stream of core c went to word `pos`, to issue from beat `next` on, and its part has ended or not. No
operation of its engines started or ended, no generation changed, and of every other core at most lines that waited for their
slots, and transfers with them, went on. -/
def AccessWent (u t : State) (c pos next : Nat) (ended : Bool) : Prop :=
  (∃ b, (core t c).block = some b ∧ b.apos = pos ∧ b.anext = next ∧ b.adone = ended ∧ b.fault = 0) ∧
    (core t c).waiting = 0 ∧ (core t c).ops = (core u c).ops ∧ (core t c).gens = (core u c).gens ∧
    ∀ j, j ≠ c → core t j = { core u j with grants := (core t j).grants, xfers := (core t j).xfers }

/-- The entries of queue q. -/
def Core.held (k : Core) (q : Nat) : List (Bool × Nat × Nat × Nat) := (k.queue q).entries

/-- Only queue q of core c has changed its entries, to `l`, between two machines. -/
def OnlyQueue (u t : State) (c q : Nat) (l : List (Bool × Nat × Nat × Nat)) : Prop :=
  (core t c).held q = l ∧ ∀ j, j ≠ q → (core t c).queue j = (core u c).queue j

/-! ## Operations of the engines (R247 to R257) -/

/-- Word i of bytes. -/
def word64 (d : List Byte) (i : Nat) : Nat := leNat ((d.drop (8 * i)).take 8)

/-- An engine's instruction with operands `os` finds all its queue entries, and issues at beat a (R242, R251). u is the machine once
everything that ends before beat a has ended, and the reads of its operands have met the bit errors that lie in them (R147). -/
def Ready (s u : State) (c a : Nat) (b : Block) (x : XIns) (os : List Opnd) (r : Resolved) : Prop :=
  (∃ v, ExecuteFree s c a b v ∧ u = meetOperands v c r.vals) ∧ r = resolve (core s c) (b.xbase + x.issue) os ∧ r.ready = some a ∧ ∀ n ∈ r.codes, n = 0

/-- Engine `eng` of core c is free at beat a, and the checks of R257 find nothing against an instruction that reads the storages
`srcs` during its occupancy and writes the storages `dsts` in the last beats of its latency, each with the generation that it
expects (R252, R253, R257). -/
def Clear (u : State) (c eng a occ lat : Nat) (srcs dsts : List (Nat × Nat)) : Prop :=
  Tab.get 0 (core u c).busyTo eng ≤ a ∧
    (∀ e ∈ srcs, (core u c).checkSrc a (some (a + occ - 1)) e.1 e.2 = none) ∧
    ∀ e ∈ dsts, (core u c).checkDst a (a + lat - occ) (some (a + lat - 1)) e.1 e.2 = none

/-- Nothing reads or writes the working store T8 to T15 of core c during an occupancy from beat a (R319). -/
def StoreFree (u : State) (c a occ : Nat) : Prop :=
  ∀ t, 8 ≤ t → t < 16 → ((core u c).readsOn t a ++ (core u c).writesOn t a).any (meets a (some (a + occ - 1))) = false

/-- Operand context k of core c is a contiguous range of its own memory, of n bytes, that it may read or write (R249, R313,
R463); the range, as pieces. -/
def Spans (u : State) (c k : Nat) (w : Bool) (n : Nat) (l : List (Nat × Nat × Nat)) : Prop :=
  ownRange u c k w = (0, l) ∧ rangeBytes l = n

/-- The first of a transfer's addresses that cannot be reached, if there is one, is one whose page is not mapped, at which it holds
(R470 to R472). -/
def Goes (s : State) (c : Nat) (x : Xfer) : Prop :=
  if x.kind = .kopen then ∀ p, probeOpen s c x = some p → p.code = 0x0301
  else ∀ p, ((dropBytes (xferPieces s c x) x.done).map (place s c x)).find? (fun p => p.code != 0) = some p → p.code = 0x0301

/-- From u to t the instruction of engine `eng` at word `word` issued at beat a as operation o, which is in flight
behind those before it; its queues lost the entries it popped, its engine is busy for its occupancy, and the stream
counts on from beat a. No operation ended, no generation changed, every other core is as before, and memory is
too, unless the core is tagged (R853). -/
def Flies (u t : State) (c eng a word : Nat) (r : Resolved) (o : Op) : Prop :=
  (∃ w, (core t c).ops = (core u c).ops ++ w ++ [o] ∧ w.length ≤ 1) ∧
    o.eng = eng ∧ o.issue = a ∧ o.word = word ∧ o.release = r.rel ∧
    Tab.get 0 (core t c).busyTo eng = a + max o.occ 1 ∧
    (∃ b v, (core u c).block = some v ∧ (core t c).block = some b ∧ b.xpos = v.xpos + 1 ∧ b.xbase = a ∧ b.fault = 0) ∧
    (∀ q, (core t c).held q = ((core u c).held q).drop (Tab.get 0 r.pops q)) ∧
    (core t c).gens = (core u c).gens ∧ (∀ j, j ≠ c → core t j = core u j) ∧ (tagged u c = false → SameMemory u t)

/-- The command n, of engine `eng` of core c, issues as the operation that plan p describes. -/
def IssuesAs (n : Instr) (s u : State) (c eng a : Nat) (b : Block) (r : Resolved) (p : Plan) : Prop :=
  ∃ t o, exec n s = .next t ∧ Flies u t c eng a (b.word + b.xpos) r o ∧ o.occ = p.occ ∧ o.lat = p.lat ∧
    o.srcs = p.srcs.map Prod.fst ∧ o.dsts = p.dsts.map Prod.fst ∧ o.writes = p.writes ∧ o.status = p.status ∧
    o.fx = p.fx.filter (!·.early)

/-! ## The dictionary (R657 to R665, R861) -/

/-- The device serves an access to the entry with key k now: it answers (R735, R736, R816, R870), no sleep entry is
being decided (R705), and an SH entry's device is in service with its domain ON (R665, R809). -/
def Serves (s : State) (k : Nat) : Prop :=
  gate s (k / 256) = .serve ∧ s.power.entry = none ∧
    ∀ w, dictRow (k / 256) (k % 256) = some w → w.sh = true →
      rd s E.out_of_service ≠ 1 ∧ domainOn s (shDomain s (k / 256) (k % 256)) = true

/-- The machine u with the answer of a write to the entry with key k: result r, with the entry's attributes
(R657, R659, R660). -/
def ended (u : State) (k r : Nat) : State := finish u (ansOf r 0 (dictRow (k / 256) (k % 256)) (k % 256) [])

/-- The command n answers a next state of which P holds. -/
def Leads (n : Instr) (s : State) (P : State → Prop) : Prop := ∃ t, exec n s = .next t ∧ P t

/-- The command n leaves the machine as it was. -/
def Stays (n : Instr) (s : State) : Prop := exec n s = .next s

/-- A write was accepted, of the entry with key k, by the command n: the machine is then u with that answer. -/
def Accepts (n : Instr) (s : State) (k : Nat) (u : State) : Prop := exec n s = .next (ended u k 0)

/-- The machine once the leader of a pair has forwarded this write of a partition's entry (R622); s itself where no pair
or no partition's entry is concerned. -/
def told (s : State) (via : Path) (k : Nat) (d : List Byte) : State := forwardWrite s (writeBytes via k d)

/-- What a value becomes in the entry with key k. -/
def cut (k v : Nat) : Nat := v % 2 ^ (8 * dictSize k)

/-- From s to t no entry but those named has changed. -/
def EntriesBut (s t : State) (ks : List Nat) : Prop := ∀ k, k ∉ ks → rd t k = rd s k

/-! ## Command rings and messages (R389, R390, R595 to R599, R677) -/

/-- From s to t the command v has left ring k of sector x. Where it names no completion address, nothing is held, and its
completion ring has room above the control blocks, the entry posted for it holds the status `code`, its ID and no
faults (R390, R677). -/
def Completed (s t : State) (x k : Nat) (v : Taken) (code : Nat) : Prop :=
  let at_ := 256 * (8 * x + k)
  let off := rd s (E.ring_comp_offset + at_)
  let n := rd s (E.ring_comp_slots + at_)
  (ringOf t x k).queue = (ringOf s x k).queue.erase v ∧
    (v.completion = 0 → (ringOf s x k).held = [] → unread s x (128 * k) < n → 0x1000 ≤ off →
      rdNat t (ringKey x (off + 64 * (rdNat s (ringKey x (128 * k + 4)) 4 % n))) 8 = code * 2 ^ 48 + v.cmdId * 2 ^ 32)

/-- The ring's command v, which has started, waits. -/
def Waits (t : State) (x k : Nat) (v : Taken) : Prop := ∃ w ∈ (ringOf t x k).queue, w.record = v.record ∧ w.started = true

/-- The request m gets an answer of this type with this payload, which is kept for repeats of it (R595, R596). -/
def Answers (s t : State) (m : Msg) (mtype : Nat) (payload : List Byte) : Prop :=
  ∃ a : Msg, t.transport.kept.getLast? = some ⟨m.src, m.flow, m.tseq, mtype, a, now s⟩ ∧ a.dst = m.src ∧ a.payload = payload

/-- The device takes the request m now: messages reach it, m is no repeat, and m needs no order, or its turn has come in the
order of its flow, in which none is held (R595 to R597). -/
def Fresh (s : State) (m : Msg) : Prop :=
  takesMessages s m = true ∧ keptAnswer s m = none ∧ (m.ordered = false ∨
    (s.transport.early = [] ∧
      (Tab.get none s.transport.next (flowKey m) = none ∨ Tab.get none s.transport.next (flowKey m) = some m.tseq)))

/-- A command of ring k of sector x that completes with a status c and changes nothing but what its completion writes. -/
def Refuses (n : Instr) (s : State) (x k : Nat) (v : Taken) (c : Nat) : Prop :=
  Leads n s fun t => Completed s t x k v c ∧ (v.completion = 0 → ∀ b < 2 ^ 38, rdByte t b = rdByte s b)

/-- No group is open, and no `SGCOMMIT` waits. -/
def NoCommits (s : State) : Prop :=
  s.groups = [] ∧ ∀ e ∈ s.sectors, ∀ r ∈ e.2.rings, ∀ v ∈ r.2.queue, v.started = true → v.op ≠ 0x42

/-- A notice of the device itself has joined those that wait for their answer. -/
def Notified (s t : State) (mtype node : Nat) (payload : List Byte) : Prop :=
  ∃ n ∈ t.transport.notices, n ∉ s.transport.notices ∧ n.mtype = mtype ∧ n.msg.dst = node ∧ n.msg.payload = payload

/-! ## Power (R49, R719, R789 to R796) -/

/-- The machine t has come from s by a device-level reset of this kind: the management processor's state is lost, no core
holds anything, no session, window, lacing or waiting access is left, and the main stage, the PCIe link and the MSI-X table
are as before (R789 to R791, R796). -/
def WasReset (s t : State) (kind : Nat) : Prop :=
  rd t E.last_reset_kind = kind ∧ t.recovery.kind = kind ∧ rd t E.boot_state = 0 ∧ (∀ c < 800, core t c = Core.init) ∧
    t.sessions = [] ∧ t.windows = [] ∧ t.laces = [] ∧ t.host.stalled = [] ∧ t.host.msixTable = s.host.msixTable ∧
    rd t E.pcie_link_status = cut E.pcie_link_status (rd s E.pcie_link_status) ∧ t.supply.mainOn = s.supply.mainOn

/-- The switched domains of t have lost power: the main stage is off, and no core holds anything (R49). -/
def Unpowered (t : State) : Prop := t.supply.mainOn = false ∧ ∀ c < 800, core t c = Core.init

/-- An image of n bytes, read by `get` at an offset and a length, passes every check of R731 by its header's bytes (R730);
whether its key is good and its signature verifies is `v`'s. -/
def ImageSound (s : State) (get : Nat → Nat → List Byte) (n : Nat) (v : ImageVerdict) : Prop :=
  let field := fun (o w : Nat) => leNat (((get 0 4096).drop o).take w)
  let count := field 9 1
  let off := fun (k : Nat) => field (16 + 48 * k) 4
  let len := fun (k : Nat) => field (20 + 48 * k) 4
  let kind := fun (k : Nat) => field (24 + 48 * k) 1
  field 0 4 = 0x56465748 ∧ field 4 2 = 1 ∧ v.keyOk = true ∧ field 8 1 ≤ 3 ∧ v.signatureOk = true ∧ 4096 ≤ n ∧
    1 ≤ count ∧ count ≤ 8 ∧ max (rd s E.svn_floor) (rd s E.svn_min) ≤ field 6 2 ∧
    (∀ k < count, off k + len k ≤ min n (28 * 2 ^ 20) ∧ 1 ≤ kind k ∧ kind k ≤ 5 ∧
      sm3 (get (off k) (len k)) = ((get 0 4096).drop (32 + 48 * k)).take 32) ∧
    (∀ i < count, ∀ j < count, i < j → off i + len i ≤ off j ∨ off j + len j ≤ off i) ∧
    ∀ w, 1 ≤ w → w ≤ 3 → ((List.range count).filter (kind · == w)).length = 1

/-- A last save runs in t, and its cause holds bit b (R81, R719, R720). -/
def Saving (t : State) (b : Nat) : Prop := t.save.running = true ∧ bit (rd t E.last_save_cause) b = true

end Sys2Proof.Machine
end

