-- ==== Sys2Proof/Certificates/Slice0/Obligations.lean ====
section
/-! DEFINITION. The statements for the provers: what the block's commands do, by the numbered rules of the specification. -/

open Sys2Proof (Instr Byte Path Opnd XIns AIns CIns Eng Ecc Msg Measure MemError MemCell Requester AddUpdate KernelReport ImageVerdict
  PowerSample GroupRef RemoteWr Flit HelloMsg
  Packet TwinPeer Heartbeat InputRec BootVerdict BootReport SleepAns WakeKind SpdmReq ReleaseReq PkeCmd Binding)

open Sys2Proof.Machine

/-! ## The whole block -/

/-- A step with command c at the front of the queue is `exec` of c with the queue's rest; on an empty queue it lets one
period of the time reference pass (the model's choice, log 9). -/
def Obligations.StepRunsFront : Prop :=
  (∀ (c : Instr) (q : List Instr) (s : State),
    step { s with pending := c :: q } = exec c { s with pending := q }) ∧
  ∀ s : State, s.pending = [] → step s = .next (idle s)

/-- A command answers a next state exactly when the units it names exist, and takes nothing from the queue and puts
nothing into it; every other command stops with `noSuchUnit`. -/
def Obligations.OnlyMissingUnitsStop : Prop :=
  ∀ (c : Instr) (s : State),
    (c.wellFormed = true → ∃ t, exec c s = .next t ∧ t.pending = s.pending) ∧
    (c.wellFormed = false → exec c s = .fault .noSuchUnit)

/-- The headline. From every state whose waiting commands name units that exist, a step answers a next state, takes
the first command of the queue and no other, and keeps that invariant; so a run through the whole queue meets no
fault and no refusal. -/
def Obligations.QueueRunsThrough : Prop :=
  (∀ s : State, s.queueOk = true → ∃ t, step s = .next t ∧ t.pending = s.pending.tail ∧ t.queueOk = true) ∧
  ∀ s : State, s.queueOk = true → ∃ t : State, Host.Core.run Sys2Proof.core s.pending.length s = .next t ∧ t.pending = []

/-- Every step keeps memory, the marks of poisoned words and the dictionary in canonical form, so that equal contents are equal
data in every state that a run reaches (the model's representation, log 2). -/
def Obligations.MemoryStaysCanonical : Prop :=
  ∀ s t : State, s.canonical = true → step s = .next t → t.canonical = true

/-- The invariants hold after reset: nothing waits, memory has its canonical form and lists nothing, and every entry of
the dictionary reads its default. -/
def Obligations.ResetHolds : Prop :=
  State.reset.queueOk = true ∧ State.reset.canonical = true ∧ (∀ k, rdByte State.reset k = 0) ∧
    ∀ k, rd State.reset k = dictDefault k

/-! ## Memory and the dictionary -/

/-- A write keeps the canonical form of memory, and of two memories with it those that read alike are equal; the bytes
written read back in their places, and every other byte reads as before (the model's memory, log 2). -/
def Obligations.MemoryReadsBack : Prop :=
  ∀ (s : State) (k : Nat) (d : List Byte), Memory.wf s.mem = true →
    Memory.wf (wrBytes s k d).mem = true ∧ rdBytes (wrBytes s k d) k d.length = d ∧
    (∀ a, a < k ∨ k + d.length ≤ a → rdByte (wrBytes s k d) a = rdByte s a) ∧
    (∀ lo hi, Memory.wf (zeroFill s lo hi).mem = true ∧
      ∀ a, rdByte (zeroFill s lo hi) a = if lo ≤ a ∧ a < hi then 0 else rdByte s a) ∧
    ∀ t : State, Memory.wf t.mem = true → (∀ a, rdByte t a = rdByte s a) → t.mem = s.mem

/-! ## The control core (R271 to R284) -/

/-- `MOVI`, `ADDI`, `ALU`, `GETLC` and `GETVS` write their result into xd in one beat (R271, R272). A shift by 64 or more
leaves its result open (log 48), and of it nothing is said here but that it is written.

`BCC` and `BRF` go to pc + imm14 in two beats when their condition holds, and on in one beat when it does not; `JMP`
goes to imm18 in two beats; none of them writes a register (R271, R272). Targets count modulo 2^18 (log 28). -/
def Obligations.ControlComputes : Prop :=
  (∀ (s : State) (c : Nat) (i : CIns), ControlFree s c →
      let k := core s c
      let imm : BitVec 14 := i.imm.truncate 14
      let result := fun (n : Instr) (v : BitVec 64) =>
        ∃ t, exec n s = .next t ∧ Wrote s t c (k.pc + 1) (k.cbeat + 1) i.xd v
      result (.movi c i) (i.imm.signExtend 64) ∧
      result (.addi c i) (k.xw i.xa + imm.signExtend 64) ∧
      result (.getlc c i) (BitVec.ofNat 64 (Tab.get 0 k.lc (imm.toNat % 8))) ∧
      result (.getvs c i) (BitVec.ofNat 64 (Tab.get 0 k.vsSnap (imm.toNat % 8))) ∧
      (imm.toNat % 8 = 0 → result (.alu c i) (k.xw i.xa + k.xw i.xb)) ∧
      (imm.toNat % 8 = 1 → result (.alu c i) (k.xw i.xa - k.xw i.xb)) ∧
      (imm.toNat % 8 = 2 → result (.alu c i) (k.xw i.xa &&& k.xw i.xb)) ∧
      (imm.toNat % 8 = 3 → result (.alu c i) (k.xw i.xa ||| k.xw i.xb)) ∧
      (imm.toNat % 8 = 4 → result (.alu c i) (k.xw i.xa ^^^ k.xw i.xb)) ∧
      (imm.toNat % 8 = 5 → k.x i.xb < 64 → result (.alu c i) (k.xw i.xa <<< k.x i.xb)) ∧
      (imm.toNat % 8 = 6 → k.x i.xb < 64 → result (.alu c i) (k.xw i.xa >>> k.x i.xb)) ∧
      (imm.toNat % 8 = 7 → result (.alu c i) (k.xw i.xa * k.xw i.xb)) ∧
      (5 ≤ imm.toNat % 8 → imm.toNat % 8 ≤ 6 → 64 ≤ k.x i.xb → ∃ v, result (.alu c i) v)) ∧
  (∀ (s : State) (c : Nat) (i : CIns), ControlFree s c →
      let k := core s c
      let a := k.xw i.xa
      let b := k.xw i.xb
      let imm : BitVec 14 := i.imm.truncate 14
      let target := (BitVec.ofNat 18 k.pc + imm.signExtend 18).toNat
      let goes := fun (n : Instr) (taken : Bool) =>
        ∃ t, exec n s = .next t ∧
          Wrote s t c (if taken then target else k.pc + 1) (k.cbeat + if taken then 2 else 1) 0 0
      (i.xd = 0 → goes (.bcc c i) (a == b)) ∧ (i.xd = 1 → goes (.bcc c i) (a != b)) ∧
      (i.xd = 2 → goes (.bcc c i) (a.slt b)) ∧ (i.xd = 3 → goes (.bcc c i) (a.ult b)) ∧
      (i.xd = 4 → goes (.bcc c i) (!a.slt b)) ∧ (i.xd = 5 → goes (.bcc c i) (!a.ult b)) ∧
      goes (.brf c i) ((i.xd % 2 == 1 && k.flag 0) || (i.xd / 2 % 2 == 1 && k.flag 1) ||
        (i.xd / 4 % 2 == 1 && k.flag 2) || (i.xd / 8 % 2 == 1 && k.flag 3)) ∧
      ∃ t, exec (.jmp c i) s = .next t ∧ Wrote s t c i.imm.toNat (k.cbeat + 2) 0 0)

/-- `LDX` and `STX` reach 8 bytes of the core's own memory at xa + 8 · imm14, in the first beat in which slot 15 serves
their bank; data read arrive four beats later, and what is stored is in memory at the end of that beat (R122 to R124, R272).
A store of a core that is bound to a group, at an address that its filter names, leaves memory as it was (R502, R513). -/
def Obligations.ControlMemory : Prop :=
  ∀ (s : State) (c : Nat) (i : CIns), ControlFree s c →
    let k := core s c
    let o := (k.x i.xa + 8 * (i.imm.truncate 14 : BitVec 14).toNat) % 2 ^ 64
    let key := Mem.cm c o
    o + 8 ≤ 0x180000 → inPool s key = false →
    ∃ g, k.cbeat ≤ g ∧ g < k.cbeat + 16 ∧ (g + o / 64) % 16 = 15 ∧
      (let u := meet (retire s c g) key 8
       poisoned u key 8 = false →
        ∃ t, exec (.ldx c i) s = .next t ∧
          Wrote u t c ((core u c).pc + 1) (g + 5) i.xd (BitVec.ofNat 64 (rdNat u key 8))) ∧
      (let u := retire s c g
       let d := leBytes 8 (k.x i.xb)
       let line : Grant := ⟨g, none, true, 0, key, none, 8, none, some (d, false)⟩
       inPool u key = false → (groupOf u c none key = none ∨ (coreStore u c none key d false).2 = 0) →
        ∃ t, exec (.stx c i) s = .next t ∧ OnlyCore u t c ∧
          core t c = { core u c with
            pc := (core u c).pc + 1, cbeat := g + 1, beat := max (core u c).beat g, waiting := 0
            ended := (core u c).ended.filter (fun e => decide (g + 1 < e.1)), grants := (core u c).grants ++ [line] } ∧
          ((core u c).grants = [] → groupOf u c none key = none →
            rdBytes (flush t c) key 8 = d ∧ ∀ a, a < key ∨ key + 8 ≤ a → rdByte (flush t c) a = rdByte u a) ∧
          ((core u c).grants = [] → groupOf u c none key ≠ none → ∀ a, rdByte (flush t c) a = rdByte u a))

/-- `SETLC`, `SETCMP`, `SWAP`, `WAITB` and `PMWAIT` once nothing holds them (R239, R272 to R278). A comparator keeps its flag
until the next evaluation.

`HALT` with no block running or pending ends the program with status xa[15:0], and an undefined half-word in its place ends it with
0x0105 (R272; that `HALT` is the row which meets such a half-word is the model's choice, log 202). -/
def Obligations.ControlEndsBlocks : Prop :=
  (∀ (s : State) (c : Nat) (i : CIns), ControlFree s c →
      let k := core s c
      let n := (i.imm.truncate 14 : BitVec 14).toNat
      let a := max k.cbeat k.lastEnd
      let on := { k with
        pc := k.pc + 1, cbeat := a + 1, beat := max k.beat a, waiting := 0
        ended := k.ended.filter fun e => decide (a + 1 < e.1) }
      let known := k.ended.find? fun e => decide (k.cbeat < e.1)
      let cmp : Cmp := ⟨k.x i.xa % 2 ^ 32, k.x i.xb % 2 ^ 32, (Tab.get Cmp.init k.cmps (n % 4)).flag⟩
      (BlocksIdle s c →
        (∃ t, exec (.setlc c i) s = .next t ∧ OnlyCore s t c ∧
          core t c = { on with lc := Tab.set 0 k.lc (n % 8) (k.x i.xa % 65536) }) ∧
        (k.x i.xa % 2 = 0 ∨ (k.x i.xa / 64 % 4 ≠ 3 ∧ k.x i.xa / 8 % 8 < 6) →
          ∃ t, exec (.setcmp c i) s = .next t ∧ OnlyCore s t c ∧
            core t c = { on with cmps := Tab.set Cmp.init k.cmps (n % 4) cmp }) ∧
        (k.ldpm = none →
          ∃ t, exec (.swap c i) s = .next t ∧ OnlyCore s t c ∧ (core t c).front = 1 - k.front ∧
            (core t c).pc = k.x i.xa ∧ (core t c).cbeat = a + 1 ∧
            (∀ j, (core t c).x j = if j = i.xd then 0 else k.x j)) ∧
        (k.ldpm ≠ none →
          ∃ t, exec (.swap c i) s = .next t ∧ Wrote s t c (k.pc + 1) (a + 1) i.xd 0x0103)) ∧
      (k.block = none → known = none →
        ∃ t, exec (.waitb c i) s = .next t ∧
          Wrote s t c (k.pc + 1) (a + 1) i.xd (BitVec.ofNat 64 k.lastStatus)) ∧
      (∀ e, known = some e →
        ∃ t, exec (.waitb c i) s = .next t ∧ Wrote s t c (k.pc + 1) (e.1 + 1) i.xd (BitVec.ofNat 64 e.2)) ∧
      (k.ldpm = none →
        ∃ t, exec (.pmwait c i) s = .next t ∧
          Wrote s t c (k.pc + 1) (max k.cbeat k.ldpmEnd + 1) i.xd (BitVec.ofNat 64 k.ldpmStatus))) ∧
  (∀ (s : State) (c : Nat) (i : CIns), ControlFree s c →
      let word := halfWord32 s c (core s c).pc
      (BlocksIdle s c → ctlDefined word = true →
        ∃ t, exec (.halt c i) s = .next t ∧ (core t c).running = false ∧ (core t c).halt = (core s c).x i.xa % 65536 ∧
          (core t c).noiseKey = 0 ∧ (core t c).ops = [] ∧ (core t c).xfers = [] ∧ coreRuns t c = false) ∧
      (ctlDefined word = false →
        ∃ t, exec (.halt c i) s = .next t ∧ (core t c).running = false ∧ (core t c).halt = 0x0105 ∧ coreRuns t c = false))

/-- What waits leaves the machine as it was, but for the mark that the control core waits: `SETLC`, `SETCMP`, `SWAP` and
`HALT` while a block runs or is pending, `WAITB` while one runs, `RUNB` and `RUNC` while one is pending, `PMWAIT` while an
`LDPM` runs, `ENQ` on a full queue (R238, R272, R274, R278).

In C2 mode `ENQ` pushes xa, with its own front-bank word, behind the commands of its unit's queue while fewer than 16 wait, and `WAITE` returns the
status of the first failure since the last one, once every queue is empty and every unit idle (R272, R281, R284). -/
def Obligations.ControlWaits : Prop :=
  (∀ (s : State) (c : Nat) (i : CIns), ControlFree s c →
      let k := core s c
      let holds := fun (n : Instr) => exec n s = .next (setCore s c { k with waiting := 3 })
      (¬BlocksIdle s c → holds (.setlc c i) ∧ holds (.setcmp c i) ∧ holds (.swap c i) ∧
        (ctlDefined (halfWord32 s c k.pc) = true → holds (.halt c i))) ∧
      (k.block ≠ none → k.ended.find? (fun e => decide (k.cbeat < e.1)) = none → holds (.waitb c i)) ∧
      (k.c2 = false → k.pendBlock ≠ none → holds (.runb c i) ∧ holds (.runc c i)) ∧
      (k.ldpm ≠ none → holds (.pmwait c i)) ∧
      (k.c2 = true → i.imm.toNat % 8 ≤ 4 → 16 ≤ (Tab.get [] k.c2q (i.imm.toNat % 8)).length → holds (.enq c i))) ∧
  (∀ (s : State) (c : Nat) (i : CIns), ControlFree s c → (core s c).c2 = true →
      let k := core s c
      let q := i.imm.toNat % 8
      (q ≤ 4 → (Tab.get [] k.c2q q).length < 16 →
        ∃ t, exec (.enq c i) s = .next t ∧ OnlyCore s t c ∧
          core t c = { k with
            pc := k.pc + 1, cbeat := k.cbeat + 1, beat := max k.beat k.cbeat, waiting := 0
            ended := k.ended.filter fun e => decide (k.cbeat + 1 < e.1)
            c2q := Tab.set [] k.c2q q (Tab.get [] k.c2q q ++ [k.x i.xa + 2 ^ 64 * (k.pc / 2)]) }) ∧
      (k.xfers = [] → k.ops = [] → (∀ n < 5, Tab.get [] k.c2q n = []) →
        ∃ t, exec (.waite c i) s = .next t ∧ OnlyCore s t c ∧ (core t c).c2Status = 0 ∧ (core t c).c2Stopped = 0 ∧
          (core t c).pc = k.pc + 1 ∧ (core t c).cbeat = max k.cbeat k.beat + 1 ∧
          ∀ j, (core t c).x j = if j = i.xd ∧ i.xd ≠ 0 then k.c2Status % 2 ^ 64 else k.x j))

/-- `LDPM` starts a copy and returns 0, or 0x0103 while another runs (R276). At its end the back bank holds the bytes that
could be translated, the front bank and every other byte are as before, and `PMWAIT` will return 0 or the code of the
failure (R277). -/
def Obligations.ProgramMemoryReload : Prop :=
  ∀ (s : State) (c : Nat) (i : CIns), ControlFree s c →
    let k := core s c
    let n := k.x i.xb % 2 ^ 18
    let w := (i.imm.truncate 14 : BitVec 14).toNat
    (k.ldpm = none → n % 8 = 0 → n ≤ 131072 → 8 * w + n ≤ 131072 →
      ∃ t, exec (.ldpm c i) s = .next t ∧ OnlyCore s t c ∧ (core t c).ldpm = some ⟨k.x i.xa, n, w, k.cbeat⟩ ∧
        (core t c).pc = k.pc + 1 ∧ (core t c).cbeat = k.cbeat + 1 ∧
        ∀ j, (core t c).x j = if j = i.xd then 0 else k.x j) ∧
    (k.ldpm ≠ none →
      ∃ t, exec (.ldpm c i) s = .next t ∧ Wrote s t c (k.pc + 1) (k.cbeat + 1) i.xd 0x0103) ∧
    ∀ (l : Ldpm) (beats : Nat), k.ldpm = some l →
      let r := ldpmPieces s c 4 l.va l.bytes
      -- the lines on their way to the source have come, and the errors in it are met
      let u := r.1.foldl (fun t e => meet (settleMem t e.1) e.1 e.2) s
      let d := r.1.flatMap fun e => rdBytes u e.1 e.2
      let key := Mem.prog c (1 - k.front) (8 * l.word)
      ∃ t, exec (.ldpmDone c beats) s = .next t ∧ (core t c).ldpm = none ∧ (core t c).ldpmEnd = l.beat + beats ∧
        ((core t c).ldpmStatus = if r.2 ≠ 0 then r.2 else if r.1.any (fun e => poisoned u e.1 e.2) then 0x0303 else 0) ∧
        rdBytes t key (d.length / 8 * 8) = d.take (d.length / 8 * 8) ∧
        (∀ a, a < key ∨ key + d.length / 8 * 8 ≤ a → rdByte t a = rdByte u a) ∧ (core t c).front = k.front

/-- `RUNB` and `RUNC` with no block running or pending, and none to start before them, start the block that they name at beat c + 4
when its header is valid: its queues are empty, with the directions and depths of the header, its pool is free, its loop counters hold what the
header says, and the summaries it clears read 0 (R236 to R238, R273).

While a block runs and none is pending, `RUNB` and `RUNC` make their blocks pending; the running block ends when both
parts are done and nothing is in flight: its status is 0, or 0x0106 when a queue still holds an entry, and it is
known from beat e + 1, with the summaries as they stand (R238 to R240, R269, R270, R273). -/
def Obligations.BlocksRun : Prop :=
  (∀ (s : State) (c : Nat) (i : CIns), ControlFree s c → BlocksIdle s c → (core s c).c2 = false →
      (core s c).lastEnd ≤ max (core s c).cbeat (core s c).pendStart →
      let k := core s c
      let a := max k.cbeat k.pendStart
      let starts := fun (n : Instr) (w : Nat) => blockValid s c w = true →
        let h := frontWord s c w
        let h1 := frontWord s c (w + 1)
        ∃ t b, exec n s = .next t ∧ OnlyCore s t c ∧ (core t c).block = some b ∧
          b.word = w ∧ b.b0 = a + 4 ∧ b.exeStart = bits h 47 34 ∧ b.length = bits h 33 20 ∧ b.xpos = bits h 47 34 ∧
          b.apos = 4 ∧ b.xdone = false ∧ b.adone = false ∧ b.fault = 0 ∧
          (core t c).pool = bits h1 63 32 ∧ (core t c).free = bits h1 63 32 ∧
          (∀ q, q < 8 → (core t c).queue q = ⟨bit h1 (4 * q + 3), bits h1 (4 * q + 2) (4 * q) + 1, [], a + 4⟩) ∧
          (∀ n, n < 8 → bit h (4 + n) = true → Tab.get 0 (core t c).vs n = 0) ∧
          (∀ n, n < 4 → bit h (12 + n) = true →
            Tab.get 0 (core t c).lc n = bits (frontWord s c (w + 2)) (16 * n + 15) (16 * n)) ∧
          (core t c).pc = k.pc + 1 ∧ (core t c).cbeat = a + 1 ∧ ∀ j, (core t c).x j = k.x j
      starts (.runb c i) (k.x i.xa) ∧
      starts (.runc c i) (if k.flag (i.imm.toNat % 4) then k.x i.xa else k.x i.xb)) ∧
  (∀ (s : State) (c : Nat) (i : CIns), ControlFree s c →
      let k := core s c
      (k.c2 = false → k.block ≠ none → k.pendBlock = none →
        let a := max k.cbeat k.pendStart
        let pends := fun (n : Instr) (p : Pend) =>
          exec n s = .next (setCore s c
            { k with
              pc := k.pc + 1, cbeat := a + 1, beat := max k.beat a, waiting := 0
              ended := k.ended.filter fun e => decide (a + 1 < e.1)
              pendBlock := some p })
        pends (.runb c i) ⟨4, k.x i.xa, k.x i.xa, k.pc / 2, a⟩ ∧
          pends (.runc c i) ⟨i.imm.toNat % 4, k.x i.xa, k.x i.xb, k.pc / 2, a⟩) ∧
      ∀ b, k.block = some b → b.xdone = true → b.adone = true → b.fault = 0 → k.ops = [] → k.xfers = [] →
        k.pendBlock = none →
        ∃ t, exec (.blockEnd c) s = .next t ∧ (core t c).block = none ∧ SameMemory s t ∧ (∀ j, j ≠ c → core t j = core s j) ∧
          (if (List.range 8).any (fun q => !(k.queue q).entries.isEmpty) = true then
              (core t c).lastStatus = 0x0106 ∧ rd t E.fault_status = 0x0106
            else (core t c).lastStatus = 0 ∧ OnlyCore s t c) ∧
          (core t c).lastEnd = b.last + 1 ∧
          (k.cbeat < b.last + 1 → (core t c).ended = k.ended ++ [(b.last + 1, (core t c).lastStatus)]) ∧ (core t c).vsSnap = k.vs ∧ (core t c).vs = k.vs ∧ (core t c).running = true ∧
          (∀ n, n < 4 → (core t c).flag n =
            (bit (Tab.get Cmp.init k.cmps n).cfg 0 && (Tab.get Cmp.init k.cmps n).holds
              (let src := bits (Tab.get Cmp.init k.cmps n).cfg 11 8
               if src < 8 then Tab.get 0 k.vs src else Tab.get 0 k.lc (src - 8)))) ∧
          ∀ j, (core t c).x j = k.x j)

/-! ## The two streams (R241 to R270, R876) -/

/-- `NOP`, `WAIT`, `LOOP` and `END` of the execute stream, at their planned beat: `WAIT` moves the beat that the next
instruction counts from, a `LOOP` branches back while its counter is above 1 and otherwise reloads it, and `END` ends the
part (R250, R255, R266, R267).

`PUSH`, `PUSHK` and `POPK` in the beat in which their queue has room or an entry that may be popped, and `FREE`: a push
appends the tile's entry, or a token, to a queue toward the access stream; a pop takes the token at the head of a queue
toward the execute stream; `FREE` puts a tile of the pool back; the tile that `PUSH` names is read in that beat (R242 to R245, R254, R255). An undefined word at
the stream's place fails its block with 0x0105 (R246; that `END` is the row which meets it is the model's choice, log 202). -/
def Obligations.ExecuteStreamRuns : Prop :=
  (∀ (s u : State) (c a : Nat) (b : Block) (x : XIns), ExecuteFree s c a b u → a = b.xbase + x.issue →
      Tab.get 0 (core u c).busyTo 7 ≤ a →
      let k := core u c
      let n := x.mod.toNat / 65536 % 4
      let d := x.mod.toNat % 16384
      let same := fun (t : State) => (core t c).queues = k.queues ∧ (core t c).free = k.free
      (∃ t, exec (.nop c x) s = .next t ∧ ExecuteWent u t c (b.xpos + 1) a false ∧ same t ∧ (core t c).lc = k.lc) ∧
      (∃ t, exec (.wait c x) s = .next t ∧ ExecuteWent u t c (b.xpos + 1) (a + x.mod.toNat % 65536) false ∧ same t ∧
        (core t c).lc = k.lc) ∧
      (execDefined (frontWord s c (b.word + b.xpos)) = true →
        ∃ t, exec (.execEnd c x) s = .next t ∧ ExecuteWent u t c (b.xpos + 1) a true ∧ same t ∧ (core t c).lc = k.lc) ∧
      (1 < Tab.get 0 k.lc n → b.exeStart + d ≤ b.xpos →
        ∃ t, exec (.execLoop c x) s = .next t ∧ ExecuteWent u t c (b.xpos - d) a false ∧ same t ∧
          ∀ j, Tab.get 0 (core t c).lc j = if j = n then Tab.get 0 k.lc n - 1 else Tab.get 0 k.lc j) ∧
      (Tab.get 0 k.lc n ≤ 1 →
        ∃ t, exec (.execLoop c x) s = .next t ∧ ExecuteWent u t c (b.xpos + 1) a false ∧ same t ∧
          ∀ j, Tab.get 0 (core t c).lc j = if j = n then Tab.get 0 k.lcInit n else Tab.get 0 k.lc j)) ∧
  (∀ (s u : State) (c a : Nat) (b : Block) (x : XIns), ExecuteFree s c a b u → Tab.get 0 (core u c).busyTo 7 ≤ a →
      let k := core u c
      let q := x.mod.toNat % 8
      let e := (core s c).queue q
      (e.toAccess = true → e.entries.length < e.depth → a = max (b.xbase + x.issue) e.roomAt →
        (∀ t g, x.dst = .tile t g → k.checkSrc a (some a) t g = none →
          ∃ v, exec (.push c x) s = .next v ∧ ExecuteWent u v c (b.xpos + 1) a false [readOp (b.word + b.xpos) a t] ∧
            OnlyQueue u v c q (k.held q ++ [(false, t, g, a)])) ∧
        ∃ v, exec (.pushk c x) s = .next v ∧ ExecuteWent u v c (b.xpos + 1) a false ∧
          OnlyQueue u v c q (k.held q ++ [(true, 0, 0, a)])) ∧
      (∀ p l t g, e.toAccess = false → e.entries = (true, t, g, p) :: l → a = max (b.xbase + x.issue) (p + 1) →
        ∃ v, exec (.popk c x) s = .next v ∧ ExecuteWent u v c (b.xpos + 1) a false ∧ OnlyQueue u v c q l) ∧
      (∀ t g, x.dst = .tile t g → a = b.xbase + x.issue →
        ∃ v, exec (.free c x) s = .next v ∧ ExecuteWent u v c (b.xpos + 1) a false ∧
          (∀ j, bit (core v c).free j = if j = t ∧ bit k.pool t = true then true else bit k.free j) ∧
          (core v c).queues = k.queues)) ∧
  (∀ (s u : State) (c a : Nat) (b : Block) (x : XIns), ExecuteFree s c a b u →
      let word := frontWord s c (b.word + b.xpos)
      a = b.xbase + word / 2 ^ 58 % 64 → execDefined word = false →
      ∃ t w, exec (.execEnd c x) s = .next t ∧ (core t c).block = some w ∧ w.fault = 0x0105 ∧ w.xdone = false ∧ SameMemory u t ∧
        (core t c).ops = (core u c).ops)

/-- `TOK`, `WTOK`, `LOOP` and `END` of the access stream; an undefined word at the stream's place fails its block with 0x0105
(R242 to R244, R264, R266, R267; that `END` is the row which meets it is the model's choice, log 202). -/
def Obligations.AccessControl : Prop :=
  ∀ (s u : State) (c a : Nat) (b : Block) (i : AIns), AccessFree s c a b u →
    let k := core u c
    let a0 := max (max b.anext b.b0) (core s c).beat
    let e := (core s c).queue i.queue
    let n := 4 + i.queue % 4
    let d := i.imm.toNat
    (e.toAccess = false → e.entries.length < e.depth → a = max a0 e.roomAt →
      ∃ t, exec (.tok c i) s = .next t ∧ AccessWent u t c (b.apos + 1) (a + 1) false ∧ SameMemory u t ∧
        OnlyQueue u t c i.queue (k.held i.queue ++ [(true, 0, 0, a)])) ∧
    (∀ p l t g, e.toAccess = true → e.entries = (true, t, g, p) :: l → a = max a0 (p + 1) →
      ∃ v, exec (.wtok c i) s = .next v ∧ AccessWent u v c (b.apos + 1) (a + 1) false ∧ SameMemory u v ∧
        OnlyQueue u v c i.queue l) ∧
    (a = a0 → 1 < Tab.get 0 k.lc n → 4 + d ≤ b.apos →
      ∃ t, exec (.accessLoop c i) s = .next t ∧ AccessWent u t c (b.apos - d) (a + 1) false ∧ SameMemory u t ∧
        ∀ j, Tab.get 0 (core t c).lc j = if j = n then Tab.get 0 k.lc n - 1 else Tab.get 0 k.lc j) ∧
    (a = a0 → Tab.get 0 k.lc n ≤ 1 →
      ∃ t, exec (.accessLoop c i) s = .next t ∧ AccessWent u t c (b.apos + 1) (a + 1) false ∧ SameMemory u t ∧
        ∀ j, Tab.get 0 (core t c).lc j = if j = n then Tab.get 0 k.lcInit n else Tab.get 0 k.lc j) ∧
    (a = a0 → accessUndefined u c = false →
      ∃ t, exec (.accessEnd c i) s = .next t ∧ AccessWent u t c (b.apos + 1) (a + 1) true ∧ SameMemory u t ∧
        (core t c).queues = k.queues) ∧
    (a = a0 → accessUndefined u c = true →
      ∃ t w, exec (.accessEnd c i) s = .next t ∧ (core t c).block = some w ∧ w.fault = 0x0105 ∧ w.adone = false ∧ SameMemory u t)

/-- `LDT`, `STT` and `CPY` issue when a transfer slot is free, their contexts are usable and every check passes: a transfer
joins those in flight, and holds where a page is not mapped; the cursors of its contexts move on by its length modulo their
bytes, and `STT` takes its tile's entry from its queue. A load from the pool takes the lowest free tile of its engine (R245,
R257, R258, R263, R264, R464, R475). -/
def Obligations.TransfersIssue : Prop :=
  ∀ (s u : State) (c a : Nat) (b : Block) (i : AIns), AccessFree s c a b u → (core u c).inFlight < 16 →
    ctxUsable u c i.context = true →
    let k := core u c
    let a0 := max (max b.anext b.b0) (core s c).beat
    let e := (core s c).queue i.queue
    let flies := fun (t : State) (kind : XferKind) (tile n : Nat) =>
      ∃ x, (core t c).xfers = k.xfers ++ [x] ∧ x.id = k.nextXfer ∧ x.kind = kind ∧ x.issue = a ∧
        x.context = i.context ∧ x.tile = tile ∧ x.length = n ∧ x.word = b.word + b.apos
    let cursor := fun (t : State) (ctx n : Nat) =>
      Tab.get 0 (core t c).cursors ctx = (Tab.get 0 k.cursors ctx + n) % (ctxOf u c ctx).bytes
    let moves := fun (kind : XferKind) (dst q tile n : Nat) (pooled : Bool) =>
      Goes u c (newXfer u c kind (b.word + b.apos) a i.context dst q tile pooled n)
    (∀ tile, e.toAccess = false → loadReady i (core s c) a0 = some a →
      (if i.pool then i.eng ≤ 2 ∧ (poolRange i.eng).find? (bit k.free) = some tile else i.tile = tile) →
      loadCheck k a i = none → moves .ldt 0 i.queue tile 4096 i.pool →
      ∃ t, exec (.ldt c i) s = .next t ∧ AccessWent u t c (b.apos + 1) (a + 1) false ∧ flies t .ldt tile 4096 ∧
        cursor t i.context 4096 ∧ (core t c).queues = k.queues ∧
        ∀ j, bit (core t c).free j = if i.pool = true ∧ j = tile then false else bit k.free j) ∧
    (∀ tile g p l, e.toAccess = true → e.entries = (false, tile, g, p) :: l → a = max a0 (p + 1) →
      k.checkSrc a none tile g = none → moves .stt 0 i.queue tile 4096 i.pool →
      ∃ t, exec (.stt c i) s = .next t ∧ AccessWent u t c (b.apos + 1) (a + 1) false ∧ flies t .stt tile 4096 ∧
        cursor t i.context 4096 ∧ OnlyQueue u t c i.queue l ∧ (core t c).free = k.free) ∧
    (a = a0 → ctxUsable u c i.tile = true → i.context ≠ i.tile → moves .cpy i.tile 0 0 (64 * i.imm.toNat) false →
      ∃ t, exec (.cpy c i) s = .next t ∧ AccessWent u t c (b.apos + 1) (a + 1) false ∧
        flies t .cpy 0 (64 * i.imm.toNat) ∧ cursor t i.context (64 * i.imm.toNat) ∧
        cursor t i.tile (64 * i.imm.toNat) ∧ (core t c).queues = k.queues ∧ (core t c).free = k.free)

/-- A load's tile holds the bytes that its transfer brought, takes its next generation at the end of the beat of the last line, and is
pushed in that beat; a store or a copy writes what it read, and frees a pool tile that it stored. Then the transfer is over
(R242, R253, R256, R264, R475).

A transfer that holds goes on once its page is mapped: it moves as far as its addresses allow, and holds no more when
they all succeed (R473). -/
def Obligations.TransfersMove : Prop :=
  (∀ (s : State) (c id beats : Nat) (x : Xfer), c < 800 → s.power.entry = none → asleep s (c / 25) = false →
      (core s c).running = true → (core s c).xfers = [x] → (core s c).ops = [] → (core s c).grants = [] → x.id = id → x.held = none →
      x.remote = 0 → x.status = 0 →
      let k := core s c
      let q := k.queue x.queue
      let e := endBeat s c x beats
      (∀ d, x.kind = .ldt → q.entries.length < q.depth → x.writes = [(Mem.tile c x.tile 0, none, d, false)] →
        ∃ t, exec (.ldtComplete c id beats) s = .next t ∧ rdBytes t (Mem.tile c x.tile 0) d.length = d ∧
          (∀ a, a < Mem.tile c x.tile 0 ∨ Mem.tile c x.tile 0 + d.length ≤ a → rdByte t a = rdByte s a) ∧
          Tab.get 0 (core t c).gens x.tile = (Tab.get 0 k.gens x.tile + 1) % 8 ∧
          Tab.get 0 (core t c).raised x.tile = max e q.roomAt + 1 ∧
          (core t c).held x.queue = q.entries ++ [(false, x.tile, (Tab.get 0 k.gens x.tile + 1) % 8, max e q.roomAt)] ∧
          (core t c).xfers = []) ∧
      (x.kind = .stt ∨ x.kind = .cpy → k.bound = none →
        let r := putAll s c x.writes 0
        r.2 = 0 →
        ∃ t, exec (.transferDone c id beats) s = .next t ∧ (∀ a, rdByte t a = rdByte r.1 a) ∧
          (core t c).xfers = [] ∧ (core t c).gens = k.gens ∧
          (∀ j, bit (core t c).free j = if x.kind = .stt ∧ x.pooled = true ∧ j = x.tile ∧ bit k.pool j = true then true
            else bit k.free j) ∧
          (core t c).beat = max k.beat e)) ∧
  (∀ (s : State) (c id va : Nat) (x : Xfer), c < 800 → coreRuns s c = true → (core s c).xfer id = some x →
      x.held = some va → (entryFor s c va).isSome = true →
      let r := moveXfer s c { x with held := none } (core s c).beat
      Goes s c { x with held := none } → ((core r.1 c).xfer id).isSome = true →
      ∃ t, exec (.transferResume c id) s = .next t ∧ (core t c).xfer id = some r.2.1 ∧ ∀ a, rdByte t a = rdByte r.1 a)

/-- The oldest operation of an engine ends: its bytes are in their storage, each destination takes its next generation, and
the pool tiles that it released are free (R245, R253, R256).

What an operation of an engine does besides its bytes, at its last beat: it loads a table, sets a register, adds the products of
`MMAC` or `MMACK` to a tile, or works on an accumulator bank or a summary register, and of its core changes nothing else that it does
not name (R301, R305, R310, R360, R418, R431, R442, R444). -/
def Obligations.EngineOperationsEnd : Prop :=
  (∀ (s : State) (c : Nat) (e : Eng) (o : Op) (key : Nat) (d : List Byte), c < 800 → coreRuns s c = true →
      (core s c).ops = [o] → (core s c).grants = [] → (core s c).xfers = [] → o.eng = engNum e → o.writes = [(key, none, d)] → 2 ^ 41 ≤ key → o.fx = [] → o.status = 0 →
      1 ≤ o.lat → o.occ ≤ o.lat →
      ∃ t, exec (.engineOpComplete c e) s = .next t ∧ (core t c).ops = [] ∧ rdBytes t key d.length = d ∧
        (∀ a, a < key ∨ key + d.length ≤ a → rdByte t a = rdByte s a) ∧
        (∀ j, o.dsts.count j ≤ 1 → (core t c).gen j = ((core s c).gen j + o.dsts.count j) % 8) ∧
        (∀ j, bit (core t c).free j =
          if o.release.contains j = true ∧ bit (core s c).pool j = true then true else bit (core s c).free j) ∧
        (core t c).beat = max (core s c).beat (o.issue + o.lat - 1) ∧ t.dict = s.dict ∧ ∀ j, j ≠ c → core t j = core s j) ∧
  (∀ (s : State) (c : Nat) (e : Eng) (o : Op) (f : Fx), c < 800 → coreRuns s c = true → (core s c).ops = [o] →
      (core s c).grants = [] → (core s c).xfers = [] → o.eng = engNum e → o.writes = [] → o.fx = [f] → o.status = 0 → 1 ≤ o.lat → o.occ ≤ o.lat →
      let k := core s c
      let lands := fun (P : State → Prop) => ∃ t, exec (.engineOpComplete c e) s = .next t ∧ (core t c).ops = [] ∧ P t ∧
        (core t c).xs = k.xs ∧ (core t c).queues = k.queues ∧ ∀ j, j ≠ c → core t j = core s j
      (∀ t, f = .primes t → lands fun u => (core u c).primes = t ∧ SameMemory s u) ∧
      (∀ t, f = .consts t → lands fun u => (core u c).consts = t ∧ SameMemory s u) ∧
      (∀ i p, f = .twiddle i p → lands fun u => Tab.get none (core u c).twiddles i = some p ∧ SameMemory s u) ∧
      (∀ i ws, f = .chains i ws → lands fun u => SameMemory s u ∧
        ∀ n < ws.length, Tab.get [] (core u c).chains (i + n) = ws.getD n []) ∧
      (∀ d p n adv, f = .noise d p n adv → lands fun u => SameMemory s u ∧ (core u c).noiseDist = d ∧
        (core u c).noiseParam = p ∧ (core u c).noiseLog = n ∧
        (core u c).noiseCtr = if adv then k.noiseCtr + 2 ^ n else k.noiseCtr) ∧
      (∀ v fl p, f = .vs (.sum v fl p) → lands fun u => SameMemory s u ∧ (core u c).vsAt v =
        (if fl then fadd (k.vsAt v) p else k.vsAt v + p) % 2 ^ 32) ∧
      (∀ t narrow hit l p0 p1, f = .macc t narrow hit l p0 p1 → p0.sound = true → p0.q ≤ 2 ^ (if narrow then 32 else 64) →
        (narrow = true → p1.sound = true ∧ p1.q ≤ 2 ^ 32) → l.length = 512 → lands fun u =>
        let key := Mem.tile c t 0
        (∀ i < 512, let v := rdNat s (key + 8 * i) 8
          let y := l.getD i 0
          let w := rdNat u (key + 8 * i) 8
          if narrow then v % 2 ^ 32 < p0.q → y % 2 ^ 32 < p0.q → v / 2 ^ 32 < p1.q → y / 2 ^ 32 < p1.q →
            w = (v % 2 ^ 32 + y % 2 ^ 32) % p0.q + 2 ^ 32 * ((v / 2 ^ 32 + y / 2 ^ 32) % p1.q)
          else v < p0.q → y < p0.q → w = (v + y) % p0.q) ∧
        ∀ a, a < key ∨ key + 4096 ≤ a → rdByte u a = rdByte s a) ∧
      (∀ bk m y z aux, f = .mma bk m y z aux → lands fun u =>
        let key := Mem.acc c bk 0
        let out := (mmaBank (MmaMod.of m) y z aux (rdBytes s key 16384)).1
        rdBytes u key out.length = out ∧ ∀ a, a < key ∨ key + out.length ≤ a → rdByte u a = rdByte s a))

/-! ## The engines -/

/-- The element-wise operations of the PE in the tile form: 4 beats of occupancy and their latency, and of each word, in
wide mode and for each half in narrow mode, the residue that the operation names, for inputs below `q` and a prime-table entry
whose fields fit, whenever the entry is valid, the tiles are the engine's, and R252 and R257 find nothing (R248, R253, R257, R301,
R303 to R311). `MMAC` and `MMACK` keep their products until their last beat, where they join the tile.

The procedure of R303 gives x mod q for every product of two inputs below q, for an entry whose `q`, `mu` and `bits`
fit; and powers are powers (R303, R875). -/
def Obligations.PolynomialArithmetic : Prop :=
  (∀ (s u : State) (c a : Nat) (b : Block) (x : XIns) (r : Resolved) (d gd ta ga tb gb : Nat),
      let p := x.mod.toNat / 2048 % 64
      let narrow := bit x.mod.toNat 17
      let p0 := primeAt u c p
      let p1 := primeAt u c (p + 1)
      let konst := Tab.get 0 (core u c).consts (x.mod.toNat / 128 % 16)
      let at_ := fun (t i : Nat) => rdNat u (Mem.tile c t (8 * i)) 8
      let inRange := fun (v : Nat) => if narrow then v % 2 ^ 32 < p0.q ∧ v / 2 ^ 32 < p1.q else v < p0.q
      let is := fun (w : Nat) (f : Nat → Nat → Nat → Nat) (v y : Nat) =>
        if narrow then w = f p0.q (v % 2 ^ 32) (y % 2 ^ 32) + 2 ^ 32 * f p1.q (v / 2 ^ 32) (y / 2 ^ 32) else w = f p0.q v y
      let runs := fun (n : Instr) (e : ElemOp) (os : List Opnd) (vals : List Opd) (lat : Nat) (second : Nat → Nat)
          (f : Nat → Nat → Nat → Nat) =>
        Ready s u c a b x os r → r.vals = vals → primesOk u c p narrow = true → d < 24 → ta < 16 → (e.two = true → tb < 16) →
        Clear u c 0 a 4 lat ((vals.drop 1).flatMap Opd.storage) [(d, gd)] →
        (if e.acc then vals else vals.drop 1).all (fun v => !opdPoisoned u c v) = true → p0.sound = true → (narrow = true → p1.sound = true) →
        (∀ i < 512, inRange (at_ ta i) ∧ inRange (second i)) →
        ∃ t o, exec n s = .next t ∧ Flies u t c 0 a (b.word + b.xpos) r o ∧ o.occ = 4 ∧ o.lat = lat ∧ o.dsts = [d] ∧
          o.srcs = (vals.drop 1).flatMap (fun v => v.storage.map Prod.fst) ∧ o.status = 0 ∧
          if e.acc then ∃ l, o.writes = [] ∧ o.fx = [.macc d narrow false l p0 p1] ∧
            ∀ i < 512, is (l.getD i 0) f (at_ ta i) (second i)
          else ∃ m, o.writes = [(Mem.tile c d 0, none, m)] ∧ m.length = 4096 ∧ o.fx = [] ∧
            ∀ i < 512, is (word64 m i) f (at_ ta i) (second i)
      let two := [Opd.tile d gd, .tile ta ga, .tile tb gb]
      let one := [Opd.tile d gd, .tile ta ga]
      let os2 := [x.dst, x.srca, x.srcb]
      let os1 := [x.dst, x.srca]
      runs (.madd c x) eMadd os2 two 10 (at_ tb) (fun q v y => (v + y) % q) ∧
      runs (.msub c x) eMsub os2 two 10 (at_ tb) (fun q v y => (v + q - y) % q) ∧
      runs (.mneg c x) eMneg os1 one 10 (at_ ta) (fun q v _ => (q - v) % q) ∧
      runs (.mcpy c x) eMcpy os1 one 10 (at_ ta) (fun _ v _ => v) ∧
      runs (.mmul c x) eMmul os2 two 16 (at_ tb) (fun q v y => v * y % q) ∧
      runs (.mmac c x) eMmac os2 two 18 (at_ tb) (fun q v y => v * y % q) ∧
      runs (.mmulk c x) eMmulk os1 one 16 (fun _ => konst) (fun q v y => v * y % q) ∧
      runs (.mmack c x) eMmack os1 one 18 (fun _ => konst) (fun q v y => v * y % q)) ∧
  ((∀ (p : Prime) (x : Nat), p.sound = true → x < p.q * p.q → reduce p x = x % p.q) ∧
    ∀ q v e : Nat, 0 < q → powMod q v e = v ^ e % q)

/-- The transforms, automorphisms, table loads and just-in-time encodings of the PE issue whenever their operands are as R301, R302
and R310 to R332 ask, their engine is free and R257 finds nothing; their occupancies and latencies are those of the table of
R253 and of R315 to R332: of N words, n = log2 N.

The KXU: `XEXP` and `XNOISE` fill a tile with 4 beats of occupancy and a latency of 24, `XEXP` with the next tile of its
key context, `XNOISE` with noise of the distribution in force under the core's noise key; `XNSET` takes 1 beat, and its
setting holds from its last beat (R253, R359 to R363).

The matrix engine and the vector engine issue under the same conditions, with the operands that R418 to R431, R438 to R440 and R449
ask: `MMA` holds its engine for 64 beats, or 128 in the 16-bit floating formats, `MSUM` for 16; `VHCFG` and `VHSTEP` act on
their trackers at the issue beat (R253, R419, R428 to R433, R441, R445, R449). -/
def Obligations.EnginesIssue : Prop :=
  (∀ (s u : State) (c a : Nat) (b : Block) (x : XIns) (r : Resolved),
      let v := x.mod.toNat
      let narrow := bit v 17
      let n := v / 4096 % 8 + 10
      let N := 2 ^ n
      let far := (N + 11) / 12 + 64
      let goes := fun (i : Instr) (p : Plan) (beats : Nat × Nat) => IssuesAs i s u c 0 a b r p ∧ (p.occ, p.lat) = beats
      let slot := fun (p0 p1 : Prime) => slotPrimes u c (v / 32768 % 4) narrow = some (p0, p1) ∧ n ≤ p0.logN ∧ (narrow = true → n ≤ p1.logN)
      let free := Tab.get 0 (core u c).busyTo 0 ≤ a
      let transform := fun (i : Instr) (inv : Bool) => Ready s u c a b x [x.dst, x.srca] r → ∀ p0 p1, slot p0 p1 →
        (∀ d gd t gt dl sl, r.vals = [.tile d gd, .tile t gt] → n ≤ 12 → tileGroup (2 ^ (n - 9)) (.tile d gd) = some dl →
          tileGroup (2 ^ (n - 9)) (.tile t gt) = some sl → Clear u c 0 a (N * n / 256) (N * n / 256 + 12) sl dl →
          goes i (nttPlan inv c x.mod u a r.vals) (N * n / 256, N * n / 256 + 12)) ∧
        (∀ d t dl sl, r.vals = [.ctx d, .ctx t] → 12 ≤ n → Spans u c d true (8 * N) dl → Spans u c t false (8 * N) sl →
          overlapCodes dl [sl] true = [] → free → StoreFree u c a far →
          goes i (nttPlan inv c x.mod u a r.vals) (far, far + 32))
      transform (.ntt c x) false ∧ transform (.intt c x) true ∧
      (Ready s u c a b x [x.dst, x.srca] r → ∀ g m, Tab.get none (core u c).galois (v / 65536 % 4) = some (g, m) →
        (∀ d t dl sl, r.vals = [.ctx d, .ctx t] → Spans u c d true (8 * 2 ^ m) dl → Spans u c t false (8 * 2 ^ m) sl →
          overlapCodes dl [sl] false = [] → free → StoreFree u c a ((2 ^ m + 23) / 24 + 16) →
          goes (.aut c x) (autPlan c x.mod u a r.vals) ((2 ^ m + 23) / 24 + 16, (2 ^ m + 23) / 24 + 40)) ∧
        (∀ d gd t gt, r.vals = [.tile d gd, .tile t gt] → v / 256 % 256 < 2 ^ (m - 9) → d < 24 → t < 16 →
          Clear u c 0 a 8 20 [(t, gt)] [(d, gd)] → goes (.autt c x) (auttPlan c x.mod u a r.vals) (8, 20))) ∧
      (Ready s u c a b x [] r →
        let g := Tab.get 0 (core u c).consts (v / 512 % 16) % 2 ^ 18
        (g % 2 = 1 → g < 2 ^ (v / 8192 % 8 + 11) → free → goes (.gset c x) (gsetPlan c x.mod u a r.vals) (1, 2)) ∧
        ((primeAt u c (v / 1024 % 64)).valid = true → free → goes (.twb c x) (twbPlan c x.mod u a r.vals) (48, 48))) ∧
      (Ready s u c a b x [x.srca] r → ∀ k l, r.vals = [.ctx k] → free →
        (Spans u c k false 4096 l →
          goes (.ptl c x) (loadPlan 4096 11 15 (fun w => .primes (primesOfWords w)) c u a r.vals) (11, 15)) ∧
        (Spans u c k false 128 l → goes (.kld c x) (loadPlan 128 4 8 (fun w => .consts (constsOfWords w)) c u a r.vals) (4, 8))) ∧
      (Ready s u c a b x [x.dst, x.srca, x.srcb] r → ∀ d ka kb dl al bl na nb,
        let m := EncMod.of x.mod
        let count := m.values na
        let lines := (na + 63) / 64 + (nb + 63) / 64 + 2 ^ m.n / 8
        r.vals = [.ctx d, .ctx ka, .ctx kb] → Spans u c d true (8 * 2 ^ m.n) dl → Spans u c ka false na al → Spans u c kb false nb bl →
        m.group ≠ 3 → m.e ≤ 60 → (count + 32 * 2 ^ m.group - 1) / (32 * 2 ^ m.group) * 4 ≤ nb → overlapCodes dl [al, bl] false = [] → free →
        (m.place ≠ 3 → count ≤ (if m.place = 2 then 2 ^ (m.n - 1) else 2 ^ m.n) →
          goes (.encc c x) (encPlan false c x.mod u a r.vals) ((lines + 5) / 6 + 16, (lines + 5) / 6 + 40)) ∧
        (count ≤ 2 ^ (m.n - 1) → StoreFree u c a (2 ^ m.n * (m.n - 1) / 128 + 96) →
          goes (.encs c x) (encPlan true c x.mod u a r.vals) (2 ^ m.n * (m.n - 1) / 128 + 96, 2 ^ m.n * (m.n - 1) / 128 + 128))) ∧
      (Ready s u c a b x [x.dst, x.srca] r → ∀ p0 p1 d t dl sl, slot p0 p1 → r.vals = [.ctx d, .ctx t] → 12 ≤ n →
        Spans u c d true (8 * N) dl → Spans u c t false (8 * N) sl → overlapCodes dl [sl] true = [] → free → StoreFree u c a far →
        goes (.encr c x) (encrPlan c x.mod u a r.vals) (far, far + 32))) ∧
  (∀ (s u : State) (c a : Nat) (b : Block) (x : XIns) (r : Resolved),
      let k := core u c
      let i := x.mod.toNat % 2
      let v := k.key i
      let p := primeAt u c (x.mod.toNat / 4096 % 64)
      let t := x.mod.toNat % 256
      (∀ d gd, Ready s u c a b x [x.dst] r → r.vals = [.tile d gd] → d < 16 → Clear u c 3 a 4 24 [] [(d, gd)] →
        (v.state = 1 → v.expanded < v.total * v.tiles →
          ∃ t o, exec (.xexp c x) s = .next t ∧ Flies u t c 3 a (b.word + b.xpos) r o ∧ o.occ = 4 ∧ o.lat = 24 ∧
            o.writes = [(Mem.tile c d 0, none, bytesOf (halfTile u v v.expanded))] ∧
            (core t c).key i = { v with expanded := v.expanded + 1 }) ∧
        (noiseOk k.noiseDist k.noiseParam = true → 10 ≤ k.noiseLog → t < 2 ^ k.noiseLog / 512 → p.valid = true →
          ∃ w o, exec (.xnoise c x) s = .next w ∧ Flies u w c 3 a (b.word + b.xpos) r o ∧ o.occ = 4 ∧ o.lat = 24 ∧
            o.writes = [(Mem.tile c d 0, none, bytesOf ((List.range 512).map fun j =>
              ((noiseValue k.noiseDist k.noiseParam
                (sm4 k.noiseKey ((k.noiseCtr + 512 * t + j) % 2 ^ 128))) % (p.q : Int)).toNat))])) ∧
      (Ready s u c a b x [] r → noiseOk (x.mod.toNat / 65536 % 4) (x.mod.toNat / 1024 % 64) = true → Tab.get 0 k.busyTo 3 ≤ a →
        ∃ t o, exec (.xnset c x) s = .next t ∧ Flies u t c 3 a (b.word + b.xpos) r o ∧ o.occ = 1 ∧ o.lat = 2 ∧
          o.fx = [.noise (x.mod.toNat / 65536 % 4) (x.mod.toNat / 1024 % 64) (x.mod.toNat / 128 % 8 + 10)
            (bit x.mod.toNat 0)])) ∧
  (∀ (s u : State) (c a : Nat) (b : Block) (x : XIns) (r : Resolved),
      let goes := fun (i : Instr) (eng : Nat) (p : Plan) (beats : Nat × Nat) => IssuesAs i s u c eng a b r p ∧ (p.occ, p.lat) = beats
      let m := MmaMod.of x.mod
      let trk := x.mod.toNat / 16384 % 16
      (∀ d gd ta ga tb gb, Ready s u c a b x [x.dst, x.srca, x.srcb] r → r.vals = [.bank d gd, .tile ta ga, .tile tb gb] →
        16 ≤ ta → ta < 24 → 16 ≤ tb → tb < 24 →
        (let occ := if m.fmt = 4 ∨ m.fmt = 5 then 128 else 64
         let srcs := [(ta, ga), (tb, gb)] ++ if m.grp ≠ 0 ∨ m.zp = true then [(16 + m.aux, m.auxGen)] else []
         m.ok = true → Clear u c 1 a occ (occ + 16) srcs [(32 + d, gd)] → goes (.mma c x) 1 (mmaPlan c x.mod u a r.vals) (occ, occ + 16)) ∧
        (let w := MmodMod.of x.mod
         let ps := (maskList (Tab.get 0 (core u c).consts w.kreg)).map (primeAt u c)
         let lanes := if w.narrow then 256 else 64
         let occ := (w.k * ps.length * w.c + lanes - 1) / lanes
         w.ok ps = true → Clear u c 1 a occ (occ + 16) [(ta, ga), (tb, gb)] [(32 + d, gd)] →
          goes (.mmod c x) 1 (mmodPlan c x.mod u a r.vals) (occ, occ + 16))) ∧
      (∀ d gd ta ga, Ready s u c a b x [x.dst, x.srca] r → r.vals = [.bank d gd, .tile ta ga] → 16 ≤ ta → ta < 24 → m.fmt ≤ 1 → m.g ≤ m.k →
        Clear u c 1 a 16 24 [(ta, ga)] [(32 + d, gd)] → goes (.msum c x) 1 (msumPlan c x.mod u a r.vals) (16, 24)) ∧
      (Ready s u c a b x (vchOperands s c x) r →
        let w := Tab.get [] (core u c).chains (x.mod.toNat / 16384 % 16)
        let bcb := x.mod.toNat / 4096 % 4
        let two := usesSrcb w
        let dst := r.vals.getD 0 .bad
        let srcs := (r.vals.drop 1).take (if two then 2 else 1)
        let d := veOpd u c (chainTout w) true dst
        let e := veOpd u c (chainTa w) false (srcs.getD 0 .bad)
        let f := veOpd u c (chainTb w) false (srcs.getD 1 .bad)
        let n := max (max d.sets e.sets) (if two = true ∧ bcb = 0 then f.sets else 0)
        let p := vchPlan c x.mod u a r.vals
        w ≠ [] → d.code = 0 → e.code = 0 → n ≤ d.cap (chainTout w) → n ≤ e.cap (chainTa w) → mayWrite 2 dst = true →
        srcs.all (mayRead 2) = true →
        (two = true → f.code = 0 ∧ bcb ≠ 3 ∧ (if bcb = 0 then n else if bcb = 1 then 1 else 128) ≤ f.cap (chainTb w)) →
        Clear u c 2 a p.occ p.lat (srcs.flatMap Opd.storage) dst.storage →
        IssuesAs (.vch c x) s u c 2 a b r p ∧ 0 < p.occ ∧ p.occ ≤ p.lat) ∧
      (Ready s u c a b x [x.srca] r → ∀ k l, r.vals = [.ctx k] → Tab.get 0 (core u c).busyTo 2 ≤ a →
        (∀ n, Spans u c k false (128 * n) l → 1 ≤ n → trk + n ≤ 16 → (chainGroups n (wordsOf (pieceBytes u l))).all chainOk = true →
          goes (.vcld c x) 2 (vcldPlan c x.mod u a r.vals) ((2 * n + 2) / 3 + 2, (2 * n + 2) / 3 + 10)) ∧
        (Spans u c k false 64 l →
          let w := (wordsOf (pieceBytes u l)).getD 0 0
          let opt := (Upd.of (wordsOf (pieceBytes u l))).opt
          let stream := fun (at_ t : Nat) (used out : Bool) => updStream u c (w / 2 ^ at_ % 32) t used out
          let p := stream 35 (w / 2 ^ 52 % 16) true true
          let g := stream 30 (w / 2 ^ 48 % 16) true false
          let m := stream 25 (w / 2 ^ 44 % 16) (decide (1 ≤ opt)) true
          let v := stream 20 (w / 2 ^ 44 % 16) (opt == 2) true
          let f := stream 15 5 (bit w 14) false
          opt ≤ 2 → updType (w / 2 ^ 52 % 16) = true → updType (w / 2 ^ 48 % 16) = true →
          (1 ≤ opt → updType (w / 2 ^ 44 % 16) = true) → ([p, g, m, v, f].all fun y => y.codes.all (· == 0)) = true → p.count ≤ g.count →
          (m.used = true → p.count ≤ m.count) → (v.used = true → p.count ≤ v.count) →
          (f.used = true → (p.count + 7) / 8 ≤ rangeBytes f.pieces) →
          let q := vupdPlan c u a r.vals
          IssuesAs (.vupd c x) s u c 2 a b r q ∧ q.lat = q.occ + 30)) ∧
      (Ready s u c a b x [] r → Tab.get 0 (core u c).busyTo 2 ≤ a →
        (∃ t o, exec (.vhcfg c x) s = .next t ∧ Flies u t c 2 a (b.word + b.xpos) r o ∧ o.occ = 1 ∧ o.lat = 2 ∧
          (core t c).tracker trk =
            { (core u c).tracker trk with hist := [], r := 0, k := x.mod.toNat / 1024 % 16 + 1 }) ∧
        ∃ t o, exec (.vhstep c x) s = .next t ∧ Flies u t c 2 a (b.word + b.xpos) r o ∧ o.occ = 1 ∧ o.lat = 2 ∧
          ∀ n < 16, (core t c).tracker n =
            if bit x.mod.toNat n then ((core u c).tracker n).close else (core u c).tracker n))

/-- The operations on key contexts that a core's access stream runs: `KOPEN` and `KCHAIN` start their transfers, `KFETCH`
requests the next chunk of its plan into the lower free staging region, `KTILE` loads the next tile of the oldest chunk
that has its verdict, `KSTAT` pushes a token once every chunk asked for has arrived, and `KCLOSE` closes its context
(R366 to R374, R475).

A chunk that arrives from the key store for the oldest fetch of a key context lands in its staging region. When its tag, its place in
the plan and its CRC are right it has its verdict; otherwise the context stops with the lowest of 0x0203, 0x0204
and 0x0205 (R370 to R374). -/
def Obligations.KeyContexts : Prop :=
  (∀ (s u : State) (c a : Nat) (b : Block) (i : AIns), AccessFree s c a b u →
      a = max (max b.anext b.b0) (core s c).beat →
      let k := core u c
      let n := i.imm.toNat % 2
      let v := k.key n
      let q := (core s c).queue i.queue
      let went := fun (t : State) => AccessWent u t c (b.apos + 1) (a + 1) false
      let word := b.word + b.apos
      (q.toAccess = false → ctxUsable u c i.context = true →
        Goes u c (newXfer u c .kopen word a i.context n i.queue 0 false 64) →
        ∃ t x, exec (.kopen c i) s = .next t ∧ went t ∧ (core t c).xfers = k.xfers ++ [x] ∧ x.kind = .kopen ∧
          x.dstContext = n ∧ x.id = k.nextXfer) ∧
      (ctxUsable u c i.context = true → chainPrimes u (i.imm.toNat / 256) ≠ 0 →
        Goes u c { newXfer u c .kchain word a i.context 0 0 (i.imm.toNat / 256) false 4096 with cursor := 0, dstCursor := 0 } →
        ∃ t x, exec (.kchain c i) s = .next t ∧ went t ∧ (core t c).xfers = k.xfers ++ [x] ∧ x.kind = .kchain ∧
          x.length = 4096 ∧ (core t c).cursors = k.cursors) ∧
      (∀ p, v.state = 1 → v.ring = none → ((core s c).key n).ring = none → v.fetched < v.total → v.freePlace = some p →
        k.inFlight < 16 →
        ∃ t x, exec (.kfetch c i) s = .next t ∧ went t ∧ SameMemory u t ∧ (core t c).xfers = k.xfers ++ [x] ∧
          x.kind = .kfetch ∧ x.cursor = v.fetched ∧ (core t c).key n =
            { v with fetched := v.fetched + 1, staged := v.staged ++ [⟨p, v.fetched, false, 0, 0, []⟩] }) ∧
      (∀ g, v.state = 1 → q.toAccess = false → v.staged.find? (fun g => decide (g.taken < v.tiles)) = some g →
        g.verdict = true → i.pool = false → i.tile < 16 → loadCheck k a i = none →
        ∃ t x l, exec (.ktile c i) s = .next t ∧ went t ∧ SameMemory u t ∧ (core t c).xfers = k.xfers ++ [x] ∧ x.kind = .ktile ∧
          x.tile = i.tile ∧ x.cursor = g.position ∧
          -- its 64 lines wait for the slots of the PE, each from its place in the chunk to its place in the tile
          (core t c).grants = k.grants ++ l ∧ (l.map fun e => (e.src, e.dst, e.n)) = ((List.range 64).map fun j =>
            (v.stageKey c g.place + 4096 * g.taken + 64 * j, Mem.tile c i.tile (64 * j), 64)) ∧
          ∀ e ∈ l, e.xfer = some x.id ∧ a ≤ e.beat ∧ e.beat + 4 ≤ x.ownEnd ∧ slotOwner ((e.beat + e.src / 64 % 16) % 16) = .pe) ∧
      (v.state ≠ 0 → k.fetching n = false →
        ∃ t, exec (.kclose c i) s = .next t ∧ went t ∧ SameMemory u t ∧ (core t c).key n = KeyCtx.init ∧
          ∀ j, j ≠ n → (core t c).key j = k.key j) ∧
      (v.state ≠ 0 → v.fetched ≤ v.arrived → q.toAccess = false → q.entries.length < q.depth → q.roomAt ≤ a →
        ∃ t, exec (.kstat c i) s = .next t ∧ went t ∧ SameMemory u t ∧
          OnlyQueue u t c i.queue (k.held i.queue ++ [(true, 0, 0, a)]))) ∧
  (∀ (s : State) (c n beats : Nat) (x : Xfer) (g : Staged),
      let k := core s c
      let v := k.key n
      -- the chunk as it stands in the key store
      let at_ := Mem.hbm (v.base + (64 + v.payload) * v.indexAt (v.position v.arrived))
      let h := rdBytes s at_ 64
      let d := rdBytes s (at_ + 64) v.payload
      let f := chunkChecks v v.arrived h d
      let key := v.stageKey c g.place
      c < 800 → n < 2 → s.power.entry = none → asleep s (c / 25) = false → k.running = true → k.passes = [] → v.ring = none →
      v.state = 1 → at_ + 64 + v.payload ≤ 2 ^ 38 → k.grants = [] → s.flips = [] →
      k.xfers.find? (fun x => x.kind == .kfetch && x.dstContext == n) = some x →
      v.staged.find? (fun g => g.position == v.arrived) = some g →
      (hbmStatus s at_ 64 .clean).1 = 0 → (hbmStatus s (at_ + 64) v.payload .clean).1 = 0 →
      ∃ t, exec (.keyChunkArrival c n beats .clean) s = .next t ∧ (core t c).beat = max k.beat (x.issue + beats) ∧
        rdBytes t key v.payload = d ∧
        (∀ a, a < key ∨ key + v.payload ≤ a → rdByte t a = rdByte s a) ∧
        ((core t c).key n).arrived = v.arrived + 1 ∧ ((core t c).xfers = k.xfers.filter fun y => y.id ≠ x.id) ∧
        (if f = 0 then ((core t c).key n).state = 1 ∧
            (((core t c).key n).staged.find? fun y => y.position == v.arrived) = some { g with verdict := true, header := h }
          else ((core t c).key n).state = 2 ∧ ((core t c).key n).status =
            if bit f 0 then 0x0203 else if bit f 1 then 0x0204 else 0x0205) ∧
        ∀ j, j ≠ c → core t j = core s j)

/-! ## Accesses to the dictionary (R12, R657 to R665, R861) -/

/-- A write ends with the result of the first check of R861 that fails: existence, right, authentication, length, value,
idleness. A write that passes them all is forwarded where its pair asks for it, and has its entry's effect; a W1C entry clears
the bits written as 1. A refused write leaves everything but its answer as it was (R12, R660, R861).

A read of a readable entry answers its value, least significant byte first; an RC entry's count is cleared by it, a WO
entry reads 0, and a command entry cannot be read. A dictionary message that would be its binding's fifth tag ends with
result 7, and the BAR0 window takes the answer into its fields (R12, R657, R660 to R663, R861).

A write to a partition, a port, a ring or an element that its entry does not have ends with result 1 and changes nothing else
(R857). -/
def Obligations.AccessesAnswer : Prop :=
  (∀ (s : State) (via : Path) (i sub : Nat) (d : List Byte), i < 0xF000 → 1 ≤ sub → sub < 256 →
      Serves s (256 * i + sub) →
      let m := entrySem i sub
      let v := leNat d
      let ends := fun (r : Nat) => exec (.dictWrite via i sub d) s = .next (ended s (256 * i + sub) r)
      (dictRow i sub = none → ends 1) ∧
      ∀ w, dictRow i sub = some w →
        let held := (w.acc = .trust ∨ m.authOnly = true) ∧ authentic s via = false ∧ m.exempt s via = false
        let bad := (w.typ = 7 ∧ 2 ≤ v) ∨ m.rule s v = false
        (w.acc = .ro ∨ w.acc = .rc → ends 2) ∧
        (w.acc ≠ .ro → w.acc ≠ .rc →
          (held → ends 6) ∧ (¬held → d.length ≠ w.size → ends 3) ∧ (¬held → d.length = w.size → bad → ends 4) ∧
          (¬held → d.length = w.size → ¬bad → m.idle s = false → ends 5) ∧
          (¬held → d.length = w.size → ¬bad → m.idle s = true →
            ∃ t, exec (.dictWrite via i sub d) s = .next t ∧ result t = 0 ∧
              let u := forwardWrite s (writeBytes via (256 * i + sub) d)
              let x := if w.acc = .w1c then
                  refreshAlert (wr u (256 * i + sub) (rd u (256 * i + sub) &&& (2 ^ (8 * w.size) - 1 - v)))
                else m.eff u via v
              t = { ended x (256 * i + sub) 0 with pending := s.pending }))) ∧
  (∀ (s : State) (i sub : Nat) (w : DRow), i < 0xF000 → 1 ≤ sub → sub < 256 → dictRow i sub = some w →
      Serves s (256 * i + sub) → (entrySem i sub).authOnly = false →
      let k := 256 * i + sub
      let value := leBytes w.size (if w.acc = .wo then 0 else rd s k)
      let after := if w.acc = .rc then wr s k 0 else s
      (∀ (via : Path) (tag : Nat) (d : List Byte), tag < 256 → outstandingOn s via < 4 →
        let n := Instr.dictRequest via false tag i sub w.size d
        (w.acc ≠ .cmd → exec n s = .next (finish after (ansOf 0 tag (some w) sub value))) ∧
        (w.acc = .cmd → exec n s = .next (finish s (ansOf 2 tag (some w) sub [])))) ∧
      (∀ (via : Path) (wrt : Bool) (tag len : Nat) (d : List Byte), tag < 256 → 4 ≤ outstandingOn s via →
        exec (.dictRequest via wrt tag i sub len d) s = .next (finish s (ansOf 7 tag none sub []))) ∧
      (∀ via, w.acc ≠ .cmd → exec (.rcRead via i sub) s = .next (finish after (ansOf 0 0 (some w) sub value))) ∧
      (s.host.dw.busy = false → waitsFor s windowTag = false → w.acc ≠ .cmd →
        ∃ t, exec (.dictWindowGo i sub 1 w.size []) s = .next t ∧ t.dict = after.dict ∧ t.mem = s.mem ∧
          t.host.dw = { s.host.dw with
            index := i, sub := sub, op := 1, length := w.size, waking := false, result := 0, typ := w.typ,
            acc := w.acc.code, pers := w.pers, sh := w.sh, data := value }) ∧
      ∀ op len d, op < 4 → len < 512 → s.host.dw.busy = true →
        exec (.dictWindowGo i sub op len d) s = .next (inc s E.dw_busy_count)) ∧
  (∀ (s : State) (via : Path),
      let absent := fun (k : Nat) (n : Instr) => exec n s = .next (ended s (256 * (k / 256) + 255) 1)
      let served := fun (k : Nat) => gate s (k / 256) = .serve
      (∀ p b, 32 ≤ p → served E.part_cmd → ∀ n ∈ [.partAssign via p b, .partScrubFree via p, .partScrubKeep via p], absent E.part_cmd n) ∧
      (∀ p, 32 ≤ p → served E.nr_cmd → ∀ n ∈ [.nrArm via p, .nrLoad via p, .nrErase via p], absent E.nr_cmd n) ∧
      (∀ p b, 34 ≤ p → served E.port_cmd → ∀ n ∈ [.portEnable via p, .portDisable via p, .portRetrain via p, .portBurnishNow via p b,
        .portClearFailed via p], absent E.port_cmd n) ∧
      (∀ x k, 32 ≤ x ∨ 8 ≤ k → served E.ring_enable → ∀ n ∈ [.ringEnable via x k, .ringDisable via x k], absent E.ring_enable n) ∧
      ∀ i d, 4 ≤ i → served E.trust_anchor → absent E.trust_anchor (.trustAnchorWrite via i d))

/-- What an access meets where the device does not serve it: nothing while the always-on domain is held in reset, a
save runs, or a full-stop test keeps it silent; result 1 in the recovery state outside the ranges that answer; a wait
until the boot has ended; a wait until its domain is ON; and out of service, an SH entry's default or result 5
(R665, R735, R736, R809, R816, R870). -/
def Obligations.AccessesHeldBack : Prop :=
  ∀ (s : State) (via : Path) (i sub : Nat) (d : List Byte), i < 0xF000 → 1 ≤ sub → sub < 256 →
    let n := Instr.dictWrite via i sub d
    let low := i / 4096 = 1 ∨ i / 4096 = 8
    let silent := s.supply.aonHeld = true ∨ s.save.running = true
    let answers := ¬silent ∧ s.recovery.fullTest = none
    let waits := fun (u : State) (d0 : Nat) =>
      exec n s = .next { u with host := { u.host with stalled := u.host.stalled ++ [⟨via, 0, true, i, sub, d.length, d, d0⟩] } }
    (silent → exec n s = .next s) ∧
    (s.recovery.fullTest ≠ none → i / 4096 ≠ 1 → i ≠ 0x9040 → exec n s = .next s) ∧
    (answers → rd s E.boot_state = 1 → ¬low → i ≠ 0xB300 → exec n s = .next (finish s (ansOf 1 0 none sub []))) ∧
    (answers → rd s E.boot_state = 2 → ¬low → waits s 40) ∧
    ∀ w, dictRow i sub = some w → w.sh = true → gate s i = .serve →
      (rd s E.out_of_service = 1 →
        exec n s = .next (ended s (256 * i + sub) 5) ∧
        exec (.rcRead via i sub) s = .next (finish s (ansOf 0 0 (some w) sub (leBytes w.size w.dflt)))) ∧
      (rd s E.out_of_service ≠ 1 → s.power.entry = none → domainOn s (shDomain s i sub) = false →
        waits (wakeDomain s (shDomain s i sub)) (shDomain s i sub))

/-! ## The module: supplies, cooling, pins (R37 to R90) -/

/-- Supplies that leave their ranges. An overvoltage of main disables the main stage, which stays held off; an overvoltage
of AUX, a sag of main or AUX and a low of an enabled `SAG_N` start the last save, or join its cause; AUX below 9.0 V holds the
always-on domain in reset and tears a save in progress. In SL4 main's detector and `SAG_N` start nothing. At its end a save's
header stands in the slot that does not hold the newest save (R44, R48, R49, R54 to R56, R61, R75, R718 to R721, R868 to R870).

The main stage is enabled when every condition of R51 holds and no hold of R49, R79 or R721 stands, or the hold's own condition is met
after an external reset took the place of its recovery, and then the domains that wait for it begin to wake; otherwise it stays as it
is (R51, R871, R874). -/
def Obligations.SuppliesChange : Prop :=
  (∀ s : State,
      let saves := fun (n : Instr) (b : Nat) (P : State → Prop) => Leads n s fun t => Saving t b ∧ P t ∧
        (s.save.running = false → t.save.frozen.cause = 2 ^ b ∧ t.pins.sagOut = true ∧
          (s.supply.mainOn = true → Unpowered t))
      let awake := s.supply.aonHeld = false
      (∀ mv, 58000 < mv → Leads (.mainOvervoltage mv) s fun t => t.supply.mainOk = false ∧ bit (rd t E.alert_status) 0 = true ∧
        t.save = s.save ∧ (s.supply.mainOn = true → Unpowered t) ∧
        t.supply.hold = if s.supply.hold = .none then .overvoltage else s.supply.hold) ∧
      (∀ mv, mv ≤ 58000 → Stays (.mainOvervoltage mv) s) ∧
      (∀ mv, 13500 < mv → awake → saves (.auxOvervoltage mv) 5 fun t =>
        t.supply.auxOk = false ∧ t.supply.hold = .auxOvervoltage ∧ bit (rd t E.alert_status) 0 = true) ∧
      (∀ mv, mv ≤ 13500 ∨ s.supply.aonHeld = true → Stays (.auxOvervoltage mv) s) ∧
      (∀ mv, mv < 39500 → s.power.deep ≠ 4 → awake → saves (.mainSag mv) 0 fun t => t.supply.mainOk = false) ∧
      (∀ mv, 39900 ≤ mv ∨ s.power.deep = 4 ∨ s.supply.aonHeld = true → Stays (.mainSag mv) s) ∧
      (∀ mv, mv < 10600 → awake → saves (.auxSag mv) 1 fun t => t.supply.auxOk = false) ∧
      (∀ mv, 10800 ≤ mv ∨ s.supply.aonHeld = true → Stays (.auxSag mv) s) ∧
      (rd s E.sag_input_enable = 1 → s.power.deep ≠ 4 → awake → saves .sagInput 2 fun _ => True) ∧
      (rd s E.sag_input_enable ≠ 1 ∨ s.power.deep = 4 ∨ s.supply.aonHeld = true → Stays .sagInput s) ∧
      (∀ mv, mv < 9000 → Leads (.auxBelowFloor mv) s fun t => t.supply.aonHeld = true ∧ t.supply.mainOn = false ∧
        t.save.running = false ∧ t.save.torn = (s.save.torn || s.save.running) ∧ t.save.lost = true ∧
        t.pins.sagOut = false ∧ t.pins.thermTrip = false) ∧
      (∀ us mv, s.save.running = true → s.supply.mrstWaits = false → Leads (.lastSaveEnd us mv) s fun t =>
        let img := { s.save.frozen with cause := rd s E.last_save_cause }
        t.save.running = false ∧ t.save.restore = true ∧
        (∀ a b, s.save.slotA = some a → s.save.slotB = some b →
          if b.seq < a.seq then t.save.slotA = some a ∧ t.save.slotB = some img
          else t.save.slotA = some img ∧ t.save.slotB = some b) ∧
        (∀ a, s.save.slotA = some a → s.save.slotB = none → t.save.slotA = some a ∧ t.save.slotB = some img) ∧
        (s.save.slotA = none → t.save.slotA = some img ∧ t.save.slotB = s.save.slotB) ∧
        rd t E.ls_sequence = cut E.ls_sequence img.seq ∧ rd t E.ls_duration_us = cut E.ls_duration_us us ∧
        rd t E.ls_aux_mv_end = cut E.ls_aux_mv_end mv ∧
        rd t E.last_save_count = cut E.last_save_count (rd s E.last_save_count + 1) ∧
        t.supply.aonHeld = (s.supply.aonHeld || s.supply.hold == .auxOvervoltage))) ∧
  (∀ (s : State) (main aux : Nat),
      let ended := s.supply.mrstDone = true ∧ ((s.supply.hold = .overvoltage ∧ 40000 ≤ main ∧ main ≤ 56000) ∨
        (s.supply.hold = .sag ∧ 42000 < main ∧ 11200 < aux))
      let ok := 40000 ≤ main ∧ main ≤ 56000 ∧ 11400 ≤ aux ∧ aux ≤ 12600 ∧ s.supply.romOk = true ∧ s.pins.mrstHigh = true ∧
        s.pins.coolOk = true ∧ (s.supply.hold = .none ∨ ended) ∧ s.supply.hot = false ∧ s.power.deep ≠ 4 ∧
        s.supply.aonHeld = false ∧ s.save.running = false
      (ok → s.supply.mainOn = false → s.recovery.deferred = none → Leads (.mainStageEnable main aux) s fun t =>
        t.supply.mainOn = true ∧ t.power.waitMain = 0 ∧ ∀ d < 40, domainState t d =
          if bit s.power.waitMain.toNat d ∧ domainState s d ≠ 0 then 6 else domainState s d) ∧
      (¬ok ∨ s.supply.mainOn = true → Leads (.mainStageEnable main aux) s fun t =>
        t.supply.mainOn = s.supply.mainOn ∧ t.power = s.power ∧ t.cores = s.cores ∧ t.mem = s.mem))

/-- A sensor at its trip value, and a coolant loss that outlasts its grace, switch the die off, pull `THERMTRIP_N` low
and start the last save; below it nothing happens. `COOL_OK` low for 1 ms caps the module at 400 W (R78 to R82).

What the module reports: the measured entries, the release of `SAG_N`, a cable that comes or goes, and the edges
repeated on `CINCH_OUT` (R43, R44, R64, R65, R74, R86, R127, R867). -/
def Obligations.ModuleProtects : Prop :=
  (∀ s : State,
      let trips := fun (n : Instr) (b : Nat) => Leads n s fun t =>
        t.supply.mainOn = false ∧ t.supply.hot = true ∧ t.pins.thermTrip = true ∧ Saving t b ∧
        (s.save.running = false → t.supply.hold = .trip) ∧ (s.supply.mainOn = true → Unpowered t)
      (∀ sensor (t : Int), sensor ≤ 160 →
        let limit : Int := if sensor < 144 then 1150 else if sensor < 160 then 1050 else 700
        (limit ≤ t → trips (.thermalTrip sensor t) 3) ∧ (t < limit → Stays (.thermalTrip sensor t) s)) ∧
      (s.supply.coolLow = true → trips .coolantLoss 4) ∧
      (s.supply.coolLow = false → Stays .coolantLoss s) ∧
      (s.supply.mainOn = true → Leads .coolOkLow s fun t => t.pins.coolOk = false ∧ t.supply.coolLow = true ∧
        rd t E.power_cap_effective_w = 400 ∧ bit (rd t E.alert_status) 2 = true ∧ t.supply.mainOn = true) ∧
      ∀ ms, s.supply.mrstWaits = false → Leads (.coolOkReturn ms) s fun t => t.pins.coolOk = true ∧
        (t.supply.coolLow = if ms ≤ rd s E.cool_ok_grace_ms ∨ s.supply.mainOn = false then false else s.supply.coolLow) ∧
        t.supply.mainOn = s.supply.mainOn ∧ t.mem = s.mem ∧ t.cores = s.cores) ∧
  (∀ s : State,
      (∀ m : Measure, s.supply.mrstWaits = false → Leads (.measureTick m) s fun t =>
        rd t E.main_voltage_mv = cut E.main_voltage_mv m.mainMv ∧ rd t E.aux_voltage_mv = cut E.aux_voltage_mv m.auxMv ∧
        (if s.supply.mainOn then rd t E.main_current_ma = cut E.main_current_ma m.mainMa else rd t E.main_current_ma < 50) ∧ rd t E.aux_current_ma = cut E.aux_current_ma m.auxMa ∧
        rd t E.die_temp_max_dc = i32 m.dieMaxDc ∧ rd t E.coolant_inlet_dc = i32 m.inletDc ∧
        rd t E.coolant_outlet_dc = i32 m.outletDc ∧ rd t E.module_power_w = cut E.module_power_w m.powerW ∧
        (∀ x < 32, rd t (E.sector_beat_rate + x) = cut (E.sector_beat_rate + x)
          (if (sector s x).slept = true ∧ (s.supply.mainOn = false ∨ 2 ≤ domainState s x) then 0
            else (m.coreBeats.getD x []).sum / (1000 * max 1 (m.coreBeats.getD x []).length))) ∧
        (s.supply.hot = false → t.supply.hot = false) ∧
        t.supply.mainOk = decide (40000 ≤ m.mainMv ∧ m.mainMv ≤ 56000) ∧
        t.supply.auxOk = decide (11400 ≤ m.auxMv ∧ m.auxMv ≤ 12600) ∧ t.mem = s.mem ∧ t.cores = s.cores) ∧
      (∀ main aux, 42000 < main → 11200 < aux → Leads (.sagNRelease main aux) s fun t =>
        t.pins = { s.pins with sagOut := false } ∧ t.mem = s.mem ∧ t.cores = s.cores) ∧
      (∀ main aux, main ≤ 42000 ∨ aux ≤ 11200 → Stays (.sagNRelease main aux) s) ∧
      (∀ p low, p < 34 → bit s.pins.presLow.toNat p ≠ low → Leads (.presNChange p low) s fun t =>
        bit t.pins.presLow.toNat p = low ∧ bit (rd t E.alert_status) 7 = true ∧ t.mem = s.mem ∧ t.cores = s.cores) ∧
      (∀ p low, p < 34 → bit s.pins.presLow.toNat p = low → Stays (.presNChange p low) s) ∧
      Leads .cinchEdge s fun t =>
        t.pins.cinchOut = s.pins.cinchOut + (if s.supply.auxOk then 1 else 0) ∧
        (¬(boundaryWaits s = true ∧ s.step.cinch = true) →
          rd t E.cinch_edge_count = cut E.cinch_edge_count (rd s E.cinch_edge_count + 1) ∧
          rd t E.cinch_outside_count = cut E.cinch_outside_count (rd s E.cinch_outside_count + 1) ∧ t.cores = s.cores))

/-- Resets that a supply or a pin starts: `POWER_ON_RESET`, the supply-recovery reset once its hold's condition is met, the
power-on reset after an AUX overvoltage, `MRST_N` of 10 µs or longer, at once or after the save or the trip that it must wait
for; and the three resets of the PCIe controller, which touch nothing else (R49, R70 to R73, R80, R645, R721, R789, R796,
R869 to R871). -/
def Obligations.PinsReset : Prop :=
  ∀ s : State,
    let restarts := fun (n : Instr) (straps : Nat) => Leads n s fun t =>
      rd t E.last_reset_kind = 1 ∧ rd t E.boot_state = 0 ∧ rd t E.time_count = 0 ∧ Unpowered t ∧ t.sessions = [] ∧
      rd t E.i3c_static_address = 0x30 + straps % 16 ∧ t.supply.hold = .none ∧ t.supply.aonHeld = false ∧
      t.save.running = false ∧ t.save.slotA = s.save.slotA ∧ t.save.slotB = s.save.slotB
    let idle := s.supply.aonHeld = false ∧ s.save.running = false
    (∀ straps perst mrst rom, restarts (.powerOnReset straps ⟨perst, mrst, rom⟩) straps ∧
      Leads (.powerOnReset straps ⟨perst, mrst, rom⟩) s fun t => t.pins.mrstHigh = mrst ∧ t.supply.romOk = rom ∧ t.pins.perstHigh = perst) ∧
    (∀ mv straps rom, s.supply.hold = .auxOvervoltage → s.save.running = false → 11400 ≤ mv → mv ≤ 12600 →
      restarts (.auxRecoveryReset mv ⟨straps, rom⟩) straps) ∧
    (∀ main aux, idle →
      (s.supply.hold = .overvoltage ∧ 40000 ≤ main ∧ main ≤ 56000) ∨ (s.supply.hold = .sag ∧ 42000 < main ∧ 11200 < aux) →
      Leads (.supplyRecoveryReset main aux) s fun t => t.supply.hold = .none ∧
        if s.supply.mrstDone = true then rd t E.last_reset_kind = rd s E.last_reset_kind
        else rd t E.last_reset_kind = 2 ∧ rd t E.boot_state = 0 ∧ t.sessions = []) ∧
    (∀ ns, 10000 ≤ ns → idle → s.supply.hold ≠ .trip → s.supply.hold ≠ .auxOvervoltage →
      Leads (.externalReset ns) s fun t => WasReset s t 3 ∧ t.supply.hold = s.supply.hold ∧
        (s.supply.hold ≠ .none → t.supply.mrstDone = true)) ∧
    (∀ ns, 10000 ≤ ns → idle → s.supply.hold = .trip → s.supply.hot = false → s.pins.coolOk = true →
      Leads (.externalReset ns) s fun t => WasReset s t 3 ∧ t.supply.hold = .none ∧ t.pins.thermTrip = false) ∧
    (∀ ns, 10000 ≤ ns → s.supply.aonHeld = false → s.save.running = true ∨ (s.supply.hold = .trip ∧ s.supply.hot = true) →
      exec (.externalReset ns) s = .next { s with
        pins := { s.pins with mrstHigh := true }, supply := { s.supply with mrstWaits := true } }) ∧
    (∀ ns, ns < 1000 → exec (.externalReset ns) s = .next { s with pins := { s.pins with mrstHigh := true } }) ∧
    (let empty := { s.host with busMaster := false, msixTable := [], pba := 0, holdoff := 0, behind := 0 }
      let cleared := fun (n : Instr) => Leads n s fun t => t.host = empty ∧
        rd t E.bar2_partition = 0xFF ∧ EntriesBut s t [E.bar2_partition, E.pcie_link_status] ∧ t.mem = s.mem ∧ t.cores = s.cores
      cleared (.perstNReset false) ∧ ∀ f, cleared (.pcieHotReset f)) ∧
    Leads (.perstNReset true) s fun t => t.pins = { s.pins with perstHigh := true } ∧
      t.host = { s.host with refclkSampled := rd s E.pcie_refclk_mode } ∧ EntriesBut s t [E.pcie_link_status]

/-! ## Self-timed operation (R100 to R132) -/

/-- The setpoint of a domain moves by 5 mV toward its target slack, or by 10 mV at an alarm, and stays within −50 mV and
+25 mV; disabled trimming holds it at nominal (R108 to R112).

The reference: it falls back to the crystal when the edges stop or stray, with an alert, and every paced sector
counts a break; it is used again when its source is written or its edges return good and no fallback stands. A level change
ends with its ramp, or goes on to the level granted meanwhile, of which the pacer takes a lower limit first; a pacer that has power
locks (R66 to R68, R88, R89, R100 to R104, R113, R114). -/
def Obligations.DomainsTrim : Prop :=
  (∀ (s : State) (d slack : Nat), d < 41 →
      let t := ofI32 (rd s (E.domain_trim_mv + d))
      let target := 100 * rd s E.canary_target_slack_pct
      let moves := fun (n : Instr) (mv : Int) => exec n s = .next (wr s (E.domain_trim_mv + d) (i32 (max (-50) (min 25 mv))))
      (rd s E.canary_trim_enable = 0 → moves (.canaryTrimTick d slack) 0) ∧
      (rd s E.canary_trim_enable ≠ 0 → target < slack → moves (.canaryTrimTick d slack) (t - 5)) ∧
      (rd s E.canary_trim_enable ≠ 0 → slack < target → moves (.canaryTrimTick d slack) (t + 5)) ∧
      (rd s E.canary_trim_enable ≠ 0 → slack = target → Stays (.canaryTrimTick d slack) s) ∧
      (slack < 300 → exec (.canaryAlarm d slack) s =
        .next (inc (wr s (E.domain_trim_mv + d) (i32 (max (-50) (min 25 (t + 10))))) E.canary_alarm_count)) ∧
      (300 ≤ slack → Stays (.canaryAlarm d slack) s)) ∧
  (∀ s : State,
      let st := rd s E.timeref_status
      (∀ lost, Leads (.timerefFallback lost) s fun t =>
        t.supply = { s.supply with timerefGood := false, timerefFell := s.supply.timerefFell || bit st 1 } ∧
        (lost = true → bit (rd t E.timeref_status) 0 = false) ∧ bit (rd t E.timeref_status) 1 = false ∧
        (bit st 1 = true → bit (rd t E.timeref_status) 2 = true ∧ bit (rd t E.alert_status) 3 = true ∧
          (∀ x < 32, bit (rd s (E.sector_pacing + x)) 0 = true →
            rd t (E.pace_break_count + x) = cut (E.pace_break_count + x) (rd s (E.pace_break_count + x) + 1)) ∧
          rd t E.timeref_fallback_count = cut E.timeref_fallback_count (rd s E.timeref_fallback_count + 1))) ∧
      (∀ via v, Serves s E.timeref_source → v < 2 → Leads (.timerefSourceWrite via (leBytes 1 v)) s fun t =>
        result t = 0 ∧ rd t E.timeref_source = v ∧ bit (rd t E.timeref_status) 2 = false ∧
        bit (rd t E.timeref_status) 1 = (v == 1 && bit st 0 && s.supply.timerefGood)) ∧
      (∀ ppm, Leads (.timerefInPresent ppm) s fun t => t.supply.timerefGood = decide (ppm ≤ 100) ∧
        bit (rd t E.timeref_status) 0 = true ∧
        bit (rd t E.timeref_status) 1 =
          (decide (ppm ≤ 100) && (bit st 1 || (rd s E.timeref_source == 1 && !s.supply.timerefFell)))) ∧
      ∀ x < 32,
        (s.supply.mainOn = true → domainState s x ≠ 3 → domainState s x ≠ 4 → exec (.pacerLock x) s =
          .next (wr s E.pacer_lock_status (setBit (rd s E.pacer_lock_status) x true))) ∧
        (s.supply.mainOn = false ∨ domainState s x = 3 ∨ domainState s x = 4 → Stays (.pacerLock x) s) ∧
        (∀ l, (sector s x).ramp = some l → Leads (.levelRampEnd x) s fun t =>
          let g := rd s (E.sector_level + x)
          (sector t x).ramp = (if g = l then none else some g) ∧ (sector t x).volt = l ∧
          (sector t x).pace = (if g = l then l else max l g) ∧ (∀ y, y ≠ x → sector t y = sector s y) ∧
          rd t (E.pace_break_count + x) = if bit (rd s (E.sector_pacing + x)) 0 then
            cut (E.pace_break_count + x) (rd s (E.pace_break_count + x) + 1) else rd s (E.pace_break_count + x)) ∧
        ((sector s x).ramp = none → Stays (.levelRampEnd x) s))

/-! ## On-chip memory (R143 to R181) -/

/-- A change of `cm_attr` fills each changed region with zeros, changes nothing else in memory, and holds the control core
for 1,024 beats a region; a change of a region that may not change reports 0x0302 and does nothing (R144, R145, R509).

A scrub of a powered sector meets an error in its core memory or commons, and no word is lost that its code or its parity group can
restore: a corrected and a rebuilt word count, and a rebuilt one of a paced sector breaks its pace; a word that nothing can restore is
marked and reported, with its address and block. An error behind the scrub, or in a tile, stands until a read meets it
(R146 to R153). -/
def Obligations.MemoryKeepsCode : Prop :=
  (∀ (s : State) (c : Nat) (v : BitVec 32), c < 800 → domainOn s (c / 25) = true →
      -- the lines on their way have come
      let u := flush s c
      let l := (List.range 24).filter fun k => bit v.toNat k != bit (core u c).cmAttr k
      let fixed := ∃ k ∈ l, bit (rd u (E.shadow_pool_cfg + c / 25)) k = true ∨
        ∃ g ∈ (sector u (c / 25)).landing, g.target = c % 25 ∧ g.idx = k
      (fixed → exec (.cmAttrWrite c v) s = .next (emit u (.status 0x0302 false []))) ∧
      (¬fixed → Leads (.cmAttrWrite c v) s fun t =>
        core t c = { core u c with cmAttr := v.toNat % 2 ^ 24, cbeat := (core u c).cbeat + 1024 * l.length } ∧
        (∀ j, j ≠ c → core t j = core u j) ∧ t.dict = u.dict ∧
        ∀ a, rdByte t a = if ∃ k ∈ l, Mem.cm c (65536 * k) ≤ a ∧ a < Mem.cm c (65536 * (k + 1)) then 0 else rdByte u a)) ∧
  (∀ (s : State) (x : Nat), x < 32 → domainOn s x = true → s.flips = [] →
      let one := fun (cell : MemCell) (n : Nat) (P : State → Prop) =>
        Leads (.scrubPass x ⟨[⟨cell, n⟩], []⟩) s fun t => t.mem = s.mem ∧ t.cores = s.cores ∧ t.flips = [] ∧ P t
      let counts := fun (t : State) (k : Nat) => rd t (k + x) = cut (k + x) (rd s (k + x) + 1)
      let lost := fun (t : State) (k : Nat) => counts t E.onchip_uncorrectable_count ∧ poisoned t k 1 = true
      Stays (.scrubPass x ⟨[], []⟩) s ∧
      (∀ cell n, 0 < n → Leads (.scrubPass x ⟨[], [⟨cell, n⟩]⟩) s fun t => t = { s with flips := t.flips } ∧ (t.flips.map Prod.snd) = [n]) ∧
      (∀ p o, p < 25 → o < 0x180000 →
        let k := Mem.onchip x p o
        let wide := bit (core s (25 * x + p)).cmAttr (o / 65536) = true
        (wide → (∀ n, 1 ≤ n → n ≤ 2 → one (.cm p o) n fun t => counts t E.cm_corrected_count ∧ t.poison = s.poison)) ∧
        (wide → (∀ l ∈ parityGroup k, l ≠ k - k % 64 → poisoned s l 64 = false) → ∀ n, 3 ≤ n → one (.cm p o) n fun t =>
          counts t E.cm_reconstructed_count ∧ t.poison = s.poison ∧
          (bit (rd s (E.sector_pacing + x)) 0 = true → counts t E.pace_break_count)) ∧
        (¬wide → one (.cm p o) 1 fun t => counts t E.cm_corrected_count ∧ t.poison = s.poison) ∧
        (¬wide → ∀ n, 2 ≤ n → one (.cm p o) n fun t => lost t k ∧
          rd t E.last_ue_address = cut E.last_ue_address (k - k % 64) ∧
          rd t E.last_ue_block = cut E.last_ue_block (coreBlock s (25 * x + p)))) ∧
      (∀ o, o < 0x800000 →
        let k := Mem.commons x o
        (∀ n, 1 ≤ n → n ≤ 2 → one (.commons o) n fun t => counts t E.commons_corrected_count ∧ t.poison = s.poison) ∧
        ∀ n, 3 ≤ n → one (.commons o) n fun t => lost t k ∧ rd t E.last_ue_address = cut E.last_ue_address (k - k % 64) ∧
          rd t E.last_ue_block = 0x300 + x) ∧
      (∀ p r o, p < 25 → r < 32 → o < 4096 →
        -- scrubs read no tiles: an error there stands until an engine reads the word
        Leads (.scrubPass x ⟨[⟨.tile p r o, 2⟩], []⟩) s fun t => t = { s with flips := t.flips } ∧
          lost (meet t (Mem.tile (25 * x + p) r 0) 4096) (Mem.tile (25 * x + p) r o)))

/-! ## HBM (R185 to R224) -/

/-- A read of HBM answers its bytes, with 0x0303 where a transfer that is stored once cannot be corrected or a word is marked, else
0x0304 where a granule is marked lost; a write stores its bytes and no others, unless it is the uncorrectable event that forces its
pseudo-channel out, marks what it could not read, and clears the
granules it covers whole. Outside the address space, in the reserved area and in the key store, a requester that may not
pass gets 0x0302 and nothing changes (R186, R189, R194, R200, R202, R864). -/
def Obligations.HbmAccesses : Prop :=
  ∀ (s : State) (who : Requester) (a : Nat) (ecc : Ecc),
    let keyEnd := 0x10000000 + rd s E.key_store_gib * 2 ^ 30
    let may := fun (w : Bool) (n : Nat) => a + n ≤ 0x10000000 + (523264 - 1024 * s.hbm.out.length) * 524288 ∧
      (a < 0x10000000 → who = .manager ∨ who = .firmware ∨ who = .windowCache ∨ who = .stitchLogic) ∧
      (0x10000000 ≤ a → a < keyEnd → who = .manager ∨ (w = false ∧ who = .keyStream))
    -- this uncorrectable event forces no pseudo-channel out
    let kept := ecc = .uncorrectable →
      (Tab.get [] s.hbm.ues (pcOfSlot (slotAt s.hbm.out a))).length + 1 < rd s E.hbm_ue_threshold
    let once := storedOnce s a = true
    let cell := E.hbm_ue_count + stackAt s a
    s.hbm.out.length ≤ 32 →
    (∀ n full, ¬may false n → exec (.hbmRead who a n ecc full) s = .next (emit s (.status 0x0302 false []))) ∧
    (∀ d, ¬may true d.length → exec (.hbmPartialWrite who a d ecc) s = .next (emit s (.status 0x0302 false []))) ∧
    (0x10000000 ≤ a → once) ∧
    (∀ n full, may false n → Leads (.hbmRead who a n ecc full) s fun t =>
      let d := hbmBytes s a n
      let bad := (ecc = .uncorrectable ∧ once) ∨ poisoned s a n = true
      (0xA000000 ≤ a → d = rdBytes s a n) ∧ (kept → t.mem = s.mem ∧ t.poison = s.poison ∧ t.hbm.out = s.hbm.out) ∧
      (t.sent.head? = some (if bad then .status 0x0303 true d
        else if lostAt s a n then .status 0x0304 true d else .status 0 false d)) ∧
      (once → ecc = .uncorrectable → rd t cell = cut cell (rd s cell + 1))) ∧
    (∀ d, may true d.length → Leads (.hbmPartialWrite who a d ecc) s fun t =>
      (kept → rdBytes t a d.length = d ∧ (∀ b, b < a ∨ a + d.length ≤ b → rdByte t b = rdByte s b) ∧
        t.sent = .status 0 false [] :: s.sent ∧ (ecc = .uncorrectable → once → poisoned t a 1 = true) ∧
        (0x10000000 ≤ a → a % 1024 = 0 → d.length = 1024 → lostAt t a 1024 = false)) ∧
      (ecc = .uncorrectable → rd t cell = cut cell (rd s cell + 1)))

/-- `hbm_mapout_cmd` and `hbm_mapin_cmd` start a migration, or report why not, in the order of R227; while an operation runs
they end with result 5 and change nothing (R185, R196, R206, R209, R227).

The end of a migration puts its slot out, or in again with its top of the address space reading zero; a forced map-out
does so at once, marks what it lost and alerts, or waits for the operation that runs; without a slot left it only
alerts (R197 to R206, R209). -/
def Obligations.BanksMapOut : Prop :=
  (∀ (s : State) (via : Path) (pc : Nat), pc < 512 → Serves s E.hbm_mapout_cmd →
      let l := pc % 32 * 16 + pc / 32
      let out := s.hbm.out
      let cmd := Instr.hbmMapout via (leBytes 2 pc)
      let back := Instr.hbmMapin via (leBytes 2 pc)
      let partner := (l + 8) % 512 ∈ out ∨ (l + 504) % 512 ∈ out
      let top := 0x10000000 + (523264 - 1024 * (out.length + 1)) * 524288
      (s.hbm.op ≠ none → exec cmd s = .next (ended s E.hbm_mapout_cmd 5) ∧ exec back s = .next (ended s E.hbm_mapin_cmd 5)) ∧
      (s.hbm.op = none → out.length ≤ 32 →
        let tells := fun (v : Nat) => Accepts cmd s E.hbm_mapout_cmd (wr s E.hbm_mapout_status v)
        let tells' := fun (v : Nat) => Accepts back s E.hbm_mapin_cmd (wr s E.hbm_mapout_status v)
        (l ∈ out → tells 3) ∧ (l ∉ out → out.length = 32 → tells 4) ∧ (l ∉ out → out.length < 32 → partner → tells 5) ∧
        (l ∉ out → out.length < 32 → ¬partner → top < allocEnd s → tells 6) ∧
        (l ∉ out → out.length < 32 → ¬partner → allocEnd s ≤ top → Accepts cmd s E.hbm_mapout_cmd
          (wr { s with hbm := { s.hbm with op := some (.mapOut pc) } } E.hbm_mapout_status 1)) ∧
        (l ∉ out → tells' 3) ∧ (l ∈ out → (∀ r, Tab.get none s.hbm.tested pc ≠ some (true, r)) → tells' 7) ∧
        (∀ r, l ∈ out → Tab.get none s.hbm.tested pc = some (true, r) → Accepts back s E.hbm_mapin_cmd
          (wr { s with hbm := { s.hbm with op := some (.mapIn pc) } } E.hbm_mapout_status 1)))) ∧
  (∀ (s : State) (pc : Nat), pc < 512 →
      let l := pc % 32 * 16 + pc / 32
      let out := s.hbm.out
      let m := out.length
      let top := fun (n : Nat) => 0x10000000 + (523264 - 1024 * n) * 524288
      let tells := fun (t : State) (o : List Nat) => t.hbm.out = o ∧ rd t E.hbm_slots_out = cut E.hbm_slots_out o.length ∧
        rd t E.hbm_capacity_bytes = cut E.hbm_capacity_bytes (top o.length)
      (s.hbm.op = some (.mapOut pc) → s.hbm.waiting = [] → m < 32 → Leads .hbmMigrationDone s fun t =>
        tells t (insertSlot l out) ∧ t.hbm.op = none ∧ rd t E.hbm_mapout_status = 2 ∧ t.mem = s.mem) ∧
      (s.hbm.op = some (.mapIn pc) → s.hbm.waiting = [] → l ∈ out → m ≤ 32 → Leads .hbmMigrationDone s fun t =>
        tells t (out.erase l) ∧ t.hbm.op = none ∧ rd t E.hbm_mapout_status = 2 ∧
        ∀ a, rdByte t a = if top m ≤ a ∧ a < top (m - 1) then 0 else rdByte s a) ∧
      (s.hbm.op ≠ none → exec (.hbmForcedMapout pc) s =
        .next { s with hbm := { s.hbm with waiting := s.hbm.waiting ++ [pc] } }) ∧
      (s.hbm.op = none → l ∈ out → Stays (.hbmForcedMapout pc) s) ∧
      (s.hbm.op = none → l ∉ out → m = 32 →
        exec (.hbmForcedMapout pc) s = .next (wr s E.hbm_alert_flags (rd s E.hbm_alert_flags ||| 1))) ∧
      (s.hbm.op = none → l ∉ out → m < 32 → Leads (.hbmForcedMapout pc) s fun t =>
        tells t (insertSlot l out) ∧ t.hbm.lost = ⟨l, out, []⟩ :: s.hbm.lost ∧ bit (rd t E.hbm_alert_flags) 1 = true ∧
        (bit (rd t E.hbm_alert_flags) 2 = (bit (rd s E.hbm_alert_flags) 2 || decide (top (m + 1) < allocEnd s))) ∧
        rd t E.hbm_forced_mapout_count = cut E.hbm_forced_mapout_count (rd s E.hbm_forced_mapout_count + 1) ∧
        (∀ a, top (m + 1) ≤ a → a < top m → rdByte t a = 0) ∧ (∀ a < top (m + 1), rdByte t a = rdByte s a) ∧
        ((l + 8) % 512 ∈ out ∨ (l + 504) % 512 ∈ out → rd t E.out_of_service = 1 ∧ rd t E.oos_cause = 2)))

/-- The four ops of `hbm_repair_cmd` start on a pseudo-channel that is mapped out, a lane repair on a channel both of whose
pseudo-channels are; others are refused. A test keeps its result and its rows, and a repair that passes is recorded, a hard one or
a lane's for good; its end reports the result, the rows and the spares (R207 to R212).

The throttling step of a stack at temperature T, in tenths of a degree: a step is in force from its entry temperature on,
ends 2 °C below it, and between the two stays as it was; a step above 0 alerts (R213 to R215). -/
def Obligations.HbmServices : Prop :=
  (∀ (s : State) (via : Path) (pc : Nat), pc < 512 →
      let slot := fun (p : Nat) => p % 32 * 16 + p / 32
      let single := slot pc ∈ s.hbm.out
      let both := slot (pc / 2 * 2) ∈ s.hbm.out ∧ slot (pc / 2 * 2 + 1) ∈ s.hbm.out
      let st := rd s E.hbm_repair_status
      let starts := fun (n : Instr) (op : Nat) (ok : Prop) => Serves s E.hbm_repair_cmd →
        (s.hbm.op ≠ none → exec n s = .next (ended s E.hbm_repair_cmd 5)) ∧
        (s.hbm.op = none → ok → Accepts n s E.hbm_repair_cmd
          (wr { s with hbm := { s.hbm with op := some (.repair op pc) } } E.hbm_repair_status
            (setBit (setBits st 3 2 0) 0 true))) ∧
        (s.hbm.op = none → ¬ok → Accepts n s E.hbm_repair_cmd (wr s E.hbm_repair_status (setBits st 3 2 3)))
      starts (.hbmPatternTest via pc) 1 single ∧ starts (.hbmLaneRepair via pc) 2 both ∧
      starts (.hbmHardPpr via pc) 3 single ∧ starts (.hbmSoftPpr via pc) 4 single ∧
      ∀ op passed (rows : List Nat) spares, s.hbm.op = some (.repair op pc) → 1 ≤ op → op ≤ 4 → s.hbm.waiting = [] →
        Leads (.hbmRepairDone passed rows spares) s fun t =>
          let failed := ((Tab.get none s.hbm.tested pc).map Prod.snd).getD []
          t.hbm.op = none ∧ t.hbm.out = s.hbm.out ∧ t.mem = s.mem ∧ EntriesBut s t [E.hbm_repair_status] ∧
          bit (rd t E.hbm_repair_status) 0 = false ∧
          bits (rd t E.hbm_repair_status) 3 2 = (if passed then 1 else 2) ∧
          bits (rd t E.hbm_repair_status) 31 24 = spares % 256 ∧
          (op = 1 → Tab.get none t.hbm.tested pc = some (passed, rows.take 64) ∧
            bits (rd t E.hbm_repair_status) 23 16 = (rows.take 64).length) ∧
          (op = 2 → t.hbm.hard = if passed then s.hbm.hard ++ [(2, pc, 0)] else s.hbm.hard) ∧
          (op = 3 → t.hbm.hard = if passed then s.hbm.hard ++ failed.map (fun r => (3, pc, r)) else s.hbm.hard) ∧
          (op = 4 → t.hbm.soft = if passed then s.hbm.soft ++ failed.map (fun r => (pc, r)) else s.hbm.soft)) ∧
  (∀ (s : State) (c : Nat) (T : Int), c < 16 → Leads (.hbmThermalTick c T) s fun t =>
      let before := rd s (E.hbm_throttle_step + c)
      let after := rd t (E.hbm_throttle_step + c)
      let entry := fun (k : Nat) => (10 * rd s E.hbm_throttle_c + 20 * (k - 1) : Int)
      after ≤ 5 ∧ (∀ k, 1 ≤ k → k ≤ 5 → (entry k ≤ T → k ≤ after) ∧ (T ≤ entry k - 20 → after < k) ∧
        (entry k - 20 < T → T < entry k → (k ≤ after ↔ k ≤ before))) ∧
      (after ≠ 0 → bit (rd t E.alert_status) 1 = true) ∧ t.mem = s.mem ∧ t.cores = s.cores ∧ t.hbm = s.hbm ∧
      EntriesBut s t [E.hbm_throttle_step + c, E.alert_status])

/-! ## Memory-side adders (R217 to R224, R830 to R834) -/

/-- An update of one element type by integer addition, modulo 2^32, 2^64 or q, changes the elements that its mask names and no
other byte; a float update of a partition in an ordered mode is held instead, and `ord_flush` applies what is held for its
partition and leaves the rest. An update of a line that cannot be read answers the status of the read. A request to no line, or
to a line that a requester may not write, is refused, and so is an op that R217 does not give (R217 to R223, R528, R830, R831).
-/
def Obligations.AddersUpdate : Prop :=
  ∀ (s : State) (u : AddUpdate), s.hbm.out.length ≤ 32 →
    let a := u.addr
    let ok := a % 64 = 0 ∧ hbmInside s a 64 = true ∧ hbmAllowed s u.who true a = true
    let mode := ((sharePartition s a).map fun p => rd s (E.det_mode + p)).getD 0
    let float := 3 ≤ u.op ∧ u.op ≤ 6
    let n := if u.op = 1 then 4 else 8
    let sum := fun (m v : Nat) => if u.op = 1 then (m + v) % 2 ^ 32 else if u.op = 2 then (m + v) % 2 ^ 64
      else (m + v) % (if u.q = 0 then 2 ^ 64 else u.q.toNat)
    let tells := fun (c : Nat) => exec (.adderUpdate u) s = .next (emit s (.status c false []))
    (u.op = 0 ∨ 7 < u.op → tells 0x0105) ∧
    (1 ≤ u.op → u.op ≤ 7 → ¬ok → tells 0x0302) ∧
    (1 ≤ u.op → u.op ≤ 7 → ok → (hbmStatus s a 64 u.ecc).1 = 0 → inFilter s a u.who = true → tells 0x0505) ∧
    (1 ≤ u.op → u.op ≤ 7 → ¬float → ok → (hbmStatus s a 64 u.ecc).1 = 0 → inFilter s a u.who = false →
      Leads (.adderUpdate u) s fun t => t.sent = .status 0 false (if u.wantOld then rdBytes s a 64 else []) :: s.sent ∧
        (∀ b, b < a ∨ a + 64 ≤ b → rdByte t b = rdByte s b) ∧ t.cores = s.cores ∧ t.det.held = s.det.held ∧
        ∀ i < 64 / n, rdNat t (a + n * i) n = if bit u.mask.toNat i then
            sum (rdNat s (a + n * i) n) (leNat ((u.operand.drop (n * i)).take n)) % 2 ^ (8 * n)
          else rdNat s (a + n * i) n) ∧
    (1 ≤ u.op → u.op ≤ 7 → ¬float → ok → (hbmStatus s a 64 u.ecc).1 ≠ 0 → Leads (.adderUpdate u) s fun t =>
      t.sent.head? = some (.status (hbmStatus s a 64 u.ecc).1 true (if u.wantOld then rdBytes s a 64 else []))) ∧
    (float → ok → mode ≠ 0 → u.wantOld = false → heldAt s (stackAt s a) < 8192 →
      ¬(inFilter s a u.who = true ∧ (hbmStatus s a 64 u.ecc).1 = 0) →
      Leads (.adderUpdate u) s fun t => t.mem = s.mem ∧ t.sent = .status 0 false [] :: s.sent ∧
        t.det.held = s.det.held ++ [⟨contributor s u.who, a, u.op, u.mask.toNat, u.operand⟩]) ∧
    ∀ via p, p < 32 → Serves s E.ord_flush → rd s (E.det_mode + p) ≠ 0 →
      Leads (.ordFlush via (leBytes 1 p)) s fun t => result t = 0 ∧
        (t.det.held = s.det.held.filter fun h => sharePartition s h.line != some p) ∧
        rd t E.ord_held = cut E.ord_held t.det.held.length ∧
        ∀ b, (∀ h ∈ s.det.held, sharePartition s h.line = some p → b < h.line ∨ h.line + 64 ≤ b) → rdByte t b = rdByte s b

/-! ## Chains and key sets (R292 to R297, R336, R337, R350 to R357, R381, R382) -/

/-- `chain_commit` of 1 starts the check of the staged chain, which ends with the first failing check of R293 and
changes nothing else, or registers the chain: its entries and its record. A release clears the entries of a chain that no key
set uses (R293 to R297, R336, R337).

`keyset_cmd` of 1 starts a registration; at its end a package that opens and passes the checks of R353 lies in the key
store, and any other leaves the store as it was and reports its status. A release removes a key set that no context holds open,
and zeroes its space; a query finds it (R353 to R357, R381, R382). -/
def Obligations.KeysRegister : Prop :=
  (∀ s : State,
      let c := rd s E.chain_id
      let n := rd s E.log2_n_max
      let count := rd s E.prime_count
      let l := (List.range count).map fun i => rd s (E.chain_stage_primes + i)
      let tells := fun (v : Nat) => exec .chainCommitDone s = .next (wr s E.chain_status v)
      let known := rd s (E.chain_prime_count + 256 * c) ≠ 0
      let inRange := 1 ≤ count ∧ count ≤ 64 ∧ 10 ≤ n ∧ n ≤ 17
      let sized := ∀ q ∈ l, q < 2 ^ 61 ∧ q % 2 = 1
      let primes := ∀ q ∈ l, isPrime q = true
      let ones := ∀ q ∈ l, q % 2 ^ (n + 1) = 1
      c < 256 →
      (∀ via, Serves s E.chain_commit →
        let go := fun (n : Instr) (v : Nat) (u : State → State) =>
          (rd s E.chain_status = 1 → exec n s = .next (ended s E.chain_commit 4)) ∧
          (rd s E.chain_status ≠ 1 → Accepts n s E.chain_commit (u (told s via E.chain_commit (leBytes 1 v))))
        go (.chainCommit via) 1 (fun u => wr u E.chain_status 1) ∧
        (¬known ∨ (∃ k ∈ s.keysets, k.chain = c) → go (.chainRelease via) 2 (fun u => wr u E.chain_status 10)) ∧
        (rd s E.chain_status ≠ 1 → known → (∀ k ∈ s.keysets, k.chain ≠ c) → Leads (.chainRelease via) s fun t =>
          result t = 0 ∧ rd t E.chain_status = 9 ∧ rd t (E.chain_prime_count + 256 * c) = 0 ∧
          rd t (E.chain_digest + 256 * c) = 0 ∧ t.mem = s.mem ∧ t.keysets = s.keysets ∧
          ∀ d < 256, d ≠ c → rd t (E.chain_prime_count + 256 * d) = rd s (E.chain_prime_count + 256 * d))) ∧
      (rd s E.chain_status ≠ 1 → Stays .chainCommitDone s) ∧
      (rd s E.chain_status = 1 →
        (known → tells 3) ∧ (¬known → ¬inRange → tells 4) ∧ (¬known → inRange → ¬sized → tells 5) ∧
        (¬known → inRange → sized → ¬primes → tells 6) ∧ (¬known → inRange → sized → primes → ¬ones → tells 7) ∧
        (¬known → inRange → sized → primes → ones → ¬l.Nodup → tells 8) ∧
        (¬known → inRange → sized → primes → ones → l.Nodup → Leads .chainCommitDone s fun t =>
          rd t E.chain_status = 2 ∧ rd t (E.chain_prime_count + 256 * c) = count ∧ rd t (E.chain_log2_n_max + 256 * c) = n ∧
          (∀ i < count, rdNat t (chainRecord c + 64 * i) 8 = l.getD i 0 ∧
            rdNat t (chainRecord c + 64 * i + 8) 8 = 2 ^ (2 * bitLen (l.getD i 0)) / l.getD i 0) ∧
          ∀ a, a < chainRecord c ∨ chainRecord c + 4096 ≤ a → rdByte t a = rdByte s a))) ∧
  (∀ s : State,
      let tag := rd s E.keyset_tag
      let held := s.keysets.any (·.tag == tag) = true ∧ openContexts s tag = 0
      let a := rd s E.keyset_package_addr
      (∀ via, Serves s E.keyset_cmd →
        let go := fun (n : Instr) (v : Nat) (u : State → State) =>
          (rd s E.keyset_status = 1 → exec n s = .next (ended s E.keyset_cmd 4)) ∧
          (rd s E.keyset_status ≠ 1 → Accepts n s E.keyset_cmd (u (told s via E.keyset_cmd (leBytes 1 v))))
        go (.keysetRegister via) 1 (fun u => wr u E.keyset_status 1) ∧
        (¬held → go (.keysetRelease via) 2 (fun u => wr u E.keyset_status 11)) ∧
        (held → rd s E.keyset_status ≠ 1 → Leads (.keysetRelease via) s fun t => result t = 0 ∧ rd t E.keyset_status = 10 ∧
          t.keysets = s.keysets.filter (fun k => k.tag ≠ tag) ∧
          ∀ b, rdByte t b = if ∃ k ∈ s.keysets, k.tag = tag ∧ 65536 * k.base ≤ b ∧ b < 65536 * (k.base + k.units) then 0
            else rdByte s b)) ∧
      (rd s E.keyset_status ≠ 1 → Stays .keysetRegisterDone s) ∧
      (rd s E.keyset_status = 1 → sharePart s a = none →
        exec .keysetRegisterDone s = .next (wr s E.keyset_status 3)) ∧
      (∀ p pt, rd s E.keyset_status = 1 → sharePart s a = some p →
        let r := openPackage s p 1 a
        (if r.2.1 = 0 then pkgPlain s a r.2.2 else none) = some pt →
        let c := checkKeySet r.1 p pt
        (c.2 = none → exec .keysetRegisterDone s = .next { wr r.1 E.keyset_status c.1 with pending := s.pending }) ∧
        ∀ v, c.2 = some v → Leads .keysetRegisterDone s fun t => rd t E.keyset_status = 2 ∧
          rd t E.keyset_tag = cut E.keyset_tag v.tag ∧ t.keysets = r.1.keysets ++ [v] ∧
          rdBytes t (65536 * v.base) pt.length = pt) ∧
      ∀ via q, q < 2 ^ 64 → Serves s E.query_tag → Leads (.keysetQuery via (leBytes 8 q)) s fun t => result t = 0 ∧
        rd t E.query_tag = q ∧ t.mem = s.mem ∧ t.keysets = s.keysets ∧
        (s.keysets.find? (·.tag == q) = none → rd t E.query_found = 0 ∧ rd t E.query_digest = 0) ∧
        ∀ v, s.keysets.find? (·.tag == q) = some v → rd t E.query_found = 1 ∧ rd t E.query_chain = cut E.query_chain v.chain ∧
          rd t E.query_partition = cut E.query_partition v.part ∧
          rd t E.query_open_contexts = cut E.query_open_contexts (openContexts s q))

/-! ## Command rings (R384 to R390, R668 to R683) -/

/-- A ring is enabled when its areas are placed as R681 asks, with its areas and its control block zeroed; disabling it stops
the taking of slots, and it reads 0 once drained. The next slot whose marker is right is taken, and held completions are posted
as room comes (R673, R675, R678, R680 to R683). -/
def Obligations.RingsTurn : Prop :=
  ∀ (s : State) (x k : Nat), x < 32 → k < 8 →
    let at_ := 256 * (8 * x + k)
    let on := E.ring_enable + at_
    let st := E.ring_status + at_
    let block := ringKey x (128 * k)
    let r := rdNat s block 4
    (∀ via, Serves s on →
      let n := Instr.ringEnable via x k
      let m := Instr.ringDisable via x k
      (rd s st ≠ 1 → ringPlaced s x k = false → exec n s = .next (ended s on 4)) ∧
      (rd s st ≠ 1 → ringPlaced s x k = true → Leads n s fun t => result t = 0 ∧ rd t on = 1 ∧ rd t st = 1 ∧
        rdNat t block 4 = 0 ∧ rdNat t (block + 4) 4 = 0 ∧ rdNat t (block + 8) 4 = 0 ∧
        (∀ o < 128 * rd s (E.ring_slots + at_), rdByte t (ringKey x (rd s (E.ring_slot_offset + at_) + o)) = 0) ∧
        (∀ o < 64 * rd s (E.ring_comp_slots + at_), rdByte t (ringKey x (rd s (E.ring_comp_offset + at_) + o)) = 0) ∧
        ∀ a, a < Mem.commons x 0x6C0000 ∨ Mem.commons x 0x700000 ≤ a → rdByte t a = rdByte s a) ∧
      (rd s st = 1 → Accepts n s on (wr (told s via on [1]) on 1)) ∧
      (rd s st = 1 → Accepts m s on (wr (wr (told s via on [0]) on 0) st 2)) ∧
      (rd s st ≠ 1 → Accepts m s on (wr (told s via on [0]) on 0))) ∧
    (rd s st = 2 → (ringOf s x k).queue = [] → (ringOf s x k).held = [] → exec (.ringDrained x k) s = .next (wr s st 0)) ∧
    (rd s st ≠ 2 ∨ (ringOf s x k).queue ≠ [] ∨ (ringOf s x k).held ≠ [] → Stays (.ringDrained x k) s) ∧
    (rd s st = 1 → sequencerRuns s x = true → slotReady s x k = true → rd s E.out_of_service ≠ 1 →
      ((ownerOf s x).map (scrubbing s)).getD false = false →
      let d := slotRecord s x k
      bits (recWord d 0) 63 56 ∈ knownOps → Leads (.ringSlotTake x k) s fun t =>
        (∃ v, (ringOf t x k).queue = (ringOf s x k).queue ++ [v] ∧ v.record = d ∧ v.started = false) ∧
        rdNat t block 4 = (r + 1) % 2 ^ 32 ∧ (∀ a, a < block ∨ block + 4 ≤ a → rdByte t a = rdByte s a) ∧
        t.dict = s.dict ∧ t.cores = s.cores) ∧
    (rd s st ≠ 1 ∨ sequencerRuns s x = false ∨ slotReady s x k = false → Stays (.ringSlotTake x k) s) ∧
    (∀ e, sequencerRuns s x = true → (ringOf s x k).held = [e] → e.length = 32 →
      unread s x (128 * k) < rd s (E.ring_comp_slots + at_) → Leads (.completionRelease x k) s fun t =>
        (ringOf t x k).held = [] ∧ (ringOf t x k).queue = (ringOf s x k).queue ∧
        rdNat t (block + 4) 4 = (rdNat s (block + 4) 4 + 1) % 2 ^ 32)

/-- `PSTART` waits while a core of its set runs or no key can be given; else it loads its image into the front bank of
each core, or runs what stands there, and starts every core at its entry. `PSTOP` ends with 0x0504 the programs of its cores
at once where no block runs, and else at the end of their blocks (R685 to R687, R758). -/
def Obligations.ProgramsStartAndStop : Prop :=
  ∀ (s : State) (x k : Nat) (v : Taken), x < 32 → k < 8 →
    let cs := v.cores x
    let p := ringPart s x
    let image := bits (v.word 1) 47 0
    let n := bits (v.word 2) 17 0
    (nextOp s x k 0x60 = some v →
      ((∃ c ∈ cs, (core s c).running = true) → Stays (.pstart x k) s) ∧
      ((∀ c ∈ cs, (core s c).running = false) → v.checks = true → cs ≠ [] → (provPlan s x p v).2 = 0 →
        (image ≠ 0 → n % 8 = 0 ∧ 8 ≤ n ∧ n ≤ 131072 ∧ (imageRead s x p image n).1 = 0) →
        (keysReady s cs = false → Stays (.pstart x k) s) ∧
        (keysReady s cs = true → Leads (.pstart x k) s fun t =>
          (∃ w ∈ (ringOf t x k).queue, w.record = v.record ∧ w.started = true ∧ w.startTime = now s) ∧
          ∀ c ∈ cs, (core t c).running = true ∧ (core t c).pc = bits (v.word 3) 14 0 ∧ (core t c).block = none ∧
            (∀ j, (core t c).x j = 0) ∧ (core t c).cmAttr = (core s c).cmAttr ∧
            (image ≠ 0 → (∀ d ∈ cs, (core s d).front < 2) → rdBytes t (Mem.prog c (core s c).front 0) (imageRead s x p image n).2.length =
              (imageRead s x p image n).2)))) ∧
    (nextOp s x k 0x61 = some v → v.checks = true → Leads (.pstop x k) s fun t =>
      ∀ c ∈ cs, (core s c).running = true →
        ((core s c).block = none → (core t c).running = false ∧ (core t c).halt = 0x0504) ∧
        ∀ b, (core s c).block = some b → (core t c).stopping = some 0x0504 ∧
          ∃ w, (core t c).block = some w ∧ w.fault = if b.fault = 0 then 0x0504 else b.fault)

/-! ## Homomorphic operations (R384 to R417) -/

/-- Each of the twenty homomorphic commands, when it is the next of its ring: it waits while a core of its set runs; with a
failing check it is counted and reported, and no core starts; else its kernel starts on every core of its set (R386 to R393). -/
def Obligations.HomomorphicCommandsStart : Prop :=
  ∀ (s : State) (x k : Nat) (v : Taken), x < 32 → k < 8 →
    let cs := v.cores x
    let p := ringPart s x
    let l := heInputs s x p v
    let code := (hePlan s x p v (l.map Prod.snd)).check s v l (provPlan s x p v).2
    let runs := fun (n : Instr) (op : Nat) => nextOp s x k op = some v →
      ((∃ c ∈ cs, (core s c).running = true) → Stays n s) ∧
      ((∀ c ∈ cs, (core s c).running = false) →
        (code = 0 → keysReady s cs = true → Leads n s fun t =>
          rd t (E.he_command_count + x) = cut (E.he_command_count + x) (rd s (E.he_command_count + x) + 1) ∧
          (∃ w ∈ (ringOf t x k).queue, w.record = v.record ∧ w.started = true ∧ w.startTime = now s) ∧
          ∀ c ∈ cs, (core t c).running = true ∧ (core t c).pc = 0 ∧
            (core t c).kernel = some (if op = 0x09 then 0x0D else op)) ∧
        (code ≠ 0 → Leads n s fun t => rd t E.hef_status = cut E.hef_status code ∧ rd t E.hef_op = op ∧
          rd t (E.he_fault_count + x) = cut (E.he_fault_count + x) (rd s (E.he_fault_count + x) + 1) ∧
          ∀ c ∈ cs, (core t c).running = false))
    runs (.hadd x k) 0x01 ∧ runs (.hsub x k) 0x02 ∧ runs (.hneg x k) 0x03 ∧ runs (.haddp x k) 0x04 ∧
    runs (.hmulp x k) 0x05 ∧ runs (.hmulw x k) 0x06 ∧ runs (.hmulc x k) 0x07 ∧ runs (.hmul x k) 0x08 ∧
    runs (.hrelin x k) 0x09 ∧ runs (.hrescale x k) 0x0A ∧ runs (.hmodsw x k) 0x0B ∧ runs (.hdrop x k) 0x0C ∧
    runs (.hrot x k) 0x0D ∧ runs (.htontt x k) 0x0E ∧ runs (.htocoef x k) 0x0F ∧ runs (.hraise x k) 0x10 ∧
    runs (.hlint x k) 0x11 ∧ runs (.hbext x k) 0x20 ∧ runs (.hbpbs x k) 0x21 ∧ runs (.hbrepack x k) 0x22

/-- The words of element-wise results: for an entry that fits, and source words below its prime, the word that the operation
names; a product of ciphertexts has three polynomials, and `HADDP` leaves the others as they were (R307, R395).

When a kernel ends, every core of its command halts with status 0 and the command leaves its ring; a failure is recorded
with its status. `he_abort` completes a waiting command of its name with 0x0504, and marks a running one (R388 to R390, R414 to
R417). -/
def Obligations.HomomorphicKernels : Prop :=
  (∀ (s : State) (h : HePlan) (i j : Nat) (ws : List Nat),
      let p := chainEntryAt s h.chain i
      let a := fun j => h.limb s h.a j i
      let b := fun j => h.limb s h.b j i
      let pt := h.limb s h.pt 0 i
      let below := fun (m : List Nat) => ∀ w ∈ m, w < p.q
      let is := fun (f : Nat → Nat) (n : Nat) => (h.result s true ws j i).1 = (List.range n).map f
      let at_ := fun (m : List Nat) (e : Nat) => m.getD e 0
      let n := (a j).length
      p.sound = true → below (a j) →
      (h.op = 0x01 → below (b j) → (b j).length = n → is (fun e => (at_ (a j) e + at_ (b j) e) % p.q) n) ∧
      (h.op = 0x02 → below (b j) → (b j).length = n → is (fun e => (at_ (a j) e + p.q - at_ (b j) e) % p.q) n) ∧
      (h.op = 0x03 → is (fun e => (p.q - at_ (a j) e) % p.q) n) ∧
      (h.op = 0x04 → below pt → pt.length = n →
        is (fun e => if j = 0 then (at_ (a 0) e + at_ pt e) % p.q else at_ (a j) e) n) ∧
      (h.op = 0x05 → below pt → pt.length = n → is (fun e => at_ (a j) e * at_ pt e % p.q) n) ∧
      (h.op = 0x0C → is (fun e => at_ (a j) e) n) ∧
      (h.op = 0x08 → j < 3 → (∀ m ∈ [a 0, a 1, b 0, b 1], below m ∧ m.length = 2 ^ h.a.logn) →
        is (fun e => if j = 1 then (at_ (a 0) e * at_ (b 1) e % p.q + at_ (a 1) e * at_ (b 0) e % p.q) % p.q
          else at_ (a (j / 2)) e * at_ (b (j / 2)) e % p.q) (2 ^ h.a.logn))) ∧
  (∀ (s : State) (x k : Nat) (v : Taken), x < 32 → k < 8 →
      let cs := v.cores x
      (∀ (i : Nat) (r : KernelReport), (startedHe s x k)[i]? = some v →
        Leads (.commandKernelEnd x k i r) s fun t =>
          (∀ c ∈ cs, (core s c).running = true → (core t c).running = false ∧ (core t c).halt = 0 ∧ (core t c).noiseKey = 0) ∧
          (r.status ≠ 0 → v.abort = 0 → rd t E.hef_op = v.op ∧ rd t E.hef_sector = x ∧
            rd t (E.he_fault_count + x) = cut (E.he_fault_count + x) (rd s (E.he_fault_count + x) + 1))) ∧
      ((startedHe s x k)[0]? = none → ∀ r, Stays (.commandKernelEnd x k 0 r) s) ∧
      ∀ via (id : Nat), id < 65536 → Serves s E.he_abort → namedHe s x id = some (k, v) →
        Leads (.heAbort via (leBytes 4 (65536 * x + id))) s fun t => result t = 0 ∧
          (v.started = true → (ringOf t x k).queue = (ringOf s x k).queue.replace v
            { v with abort := if v.abort = 0 then 0x0504 else v.abort }) ∧
          (v.started = false → rd t E.hef_status = 0x0504 ∧ rd t E.hef_cmd_id = id) ∧
          ∀ c, (core t c).running = (core s c).running)

/-! ## The host (R645 to R656, R691, R737, R738) -/

/-- BAR2 reaches the bytes that its partition, or the firmware's part, permits, counts what it does not, and waits for a
stack that sleeps; the ring window writes a sector that is on; messages of a vector in its holdoff gather; and bus mastering, an
endpoint ID and a dynamic address take effect (R73, R646, R648, R652, R655, R665, R669, R735, R809).

Firmware: staging takes the named bytes, or reports 3; an image that passes every check of R731 is written to the slot that
does not run, and any other leaves both slots as they were; a staged image becomes the next boot's (R691, R731, R737, R738). -/
def Obligations.HostReaches : Prop :=
  (∀ s : State,
      (∀ (w : Bool) (o n : Nat) (d : List Byte),
        let len := if w then d.length else n
        let a := rd s E.bar2_base + o
        let cmd := Instr.bar2Access w o n d
        let refused := inc s E.bar_violation_count
        o + len ≤ 0x10000000 → rd s E.boot_state ≠ 1 → s.power.entry = none →
        (rd s E.out_of_service = 1 ∨ bar2Permits s a len = false →
          exec cmd s = .next (if w then refused else emit refused (.status 0 false (List.replicate len 0xFF)))) ∧
        (rd s E.out_of_service ≠ 1 → bar2Permits s a len = true → domainOn s (32 + stackAt s a / 4) = true →
          Leads cmd s fun t => t.cores = s.cores ∧ t.dict = s.dict ∧
            (w = true → rdBytes t a d.length = d ∧ ∀ b, b < a ∨ a + d.length ≤ b → rdByte t b = rdByte s b) ∧
            (w = false → t.mem = s.mem ∧ ∃ c b, t.sent = .status c b (rdBytes s a n) :: s.sent)) ∧
        (rd s E.out_of_service ≠ 1 → bar2Permits s a len = true → domainOn s (32 + stackAt s a / 4) = false →
          Leads cmd s fun t => t.mem = s.mem ∧ t.host.stalled.length = s.host.stalled.length + 1)) ∧
      (∀ (o : Nat) (d : List Byte), o < 0x800000 → o % 0x40000 + d.length ≤ 0x40000 → s.power.entry = none →
        let key := Mem.commons (o / 0x40000) (0x6C0000 + o % 0x40000)
        (domainOn s (o / 0x40000) = true → exec (.ringWindowWrite o d) s = .next (wrBytes s key d)) ∧
        (domainOn s (o / 0x40000) = false → Leads (.ringWindowWrite o d) s fun t =>
          t.mem = s.mem ∧ t.host.stalled.length = s.host.stalled.length + 1)) ∧
      (∀ v < 64,
        let m : BitVec 64 := BitVec.ofNat 64 (2 ^ v)
        let freed := { s with host := { s.host with holdoff := s.host.holdoff &&& ~~~m, behind := s.host.behind &&& ~~~m } }
        (bit s.host.behind.toNat v = false → exec (.msixHoldoffExpiry v) s = .next freed) ∧
        (bit s.host.behind.toNat v = true → s.host.busMaster = true → Leads (.msixHoldoffExpiry v) s fun t =>
          t.sent = .msix v :: s.sent ∧ bit t.host.behind.toNat v = false ∧
          bit t.host.holdoff.toNat v = (rd s E.msix_holdoff_us != 0))) ∧
      (Leads (.busMasterEnable true) s fun t => t.host = { s.host with busMaster := true, pba := 0 } ∧
        t.sent = (((List.range 64).filter (bit s.host.pba.toNat)).map Out.msix).reverse ++ s.sent ∧
        EntriesBut s t [E.pcie_link_status]) ∧
      (Leads (.busMasterEnable false) s fun t => t.host = { s.host with busMaster := false } ∧ t.sent = s.sent ∧
        EntriesBut s t [E.pcie_link_status]) ∧
      (∀ eid, exec (.setEndpointId .i3c eid) s = .next (wr s E.mctp_eid_i3c eid) ∧
        exec (.setEndpointId .pcieVdm eid) s = .next (wr s E.mctp_eid_pcie eid)) ∧
      ∀ addr, exec (.dynamicAddressAssignment addr true) s =
          .next { s with host := { s.host with i3cDynamic := some (addr % 128) } } ∧
        exec (.dynamicAddressAssignment addr false) s =
          .next { s with host := { s.host with i3cDynamic := some (rd s E.i3c_static_address) } }) ∧
  (∀ s : State,
      let go := fun (n : Instr) (P : Prop) => Serves s E.fw_load_cmd →
        (rd s E.fw_load_status = 1 → exec n s = .next (ended s E.fw_load_cmd 4)) ∧ (rd s E.fw_load_status ≠ 1 → P)
      let slot := 1 - rd s E.fw_running_slot % 2
      let key := Mem.flash (if slot = 0 then 0x10000 else 0x1C10000)
      (∀ via, go (.fwStage via)
        ((imageSource s = none → Accepts (.fwStage via) s E.fw_load_cmd (wr s E.fw_load_status 3)) ∧
          ∀ b, imageSource s = some b → Leads (.fwStage via) s fun t => result t = 0 ∧ t.island.staging = some b ∧
            rd t E.fw_load_status = 1 ∧ rd t E.staged_state = 1 ∧ rd t E.staged_digest = 0 ∧ t.mem = s.mem)) ∧
      (∀ via, go (.fwActivate via)
        ((rd s E.staged_state < 2 → Accepts (.fwActivate via) s E.fw_load_cmd (wr s E.fw_load_status 6)) ∧
          (2 ≤ rd s E.staged_state → Accepts (.fwActivate via) s E.fw_load_cmd
            (wr (wr (wr s E.staged_state 3) E.fw_next_slot slot) E.fw_load_status 5)))) ∧
      (∀ v, s.island.staging = none → Stays (.fwStageDone v) s) ∧
      ∀ (v : ImageVerdict) (b : List Byte), s.island.staging = some b →
        let good := ImageSound s (fun o n => (b.drop o).take n) b.length v
        (good → Leads (.fwStageDone v) s fun t => t.island.staging = none ∧ rd t E.staged_state = 2 ∧
          rd t E.fw_load_status = 2 ∧ rd t E.staged_svn = leNat ((b.drop 6).take 2) ∧
          rd t E.staged_digest = leNat (sm3 (b.take 4096)) ∧ rdBytes t key b.length = b ∧
          ∀ a, a < key ∨ key + b.length ≤ a → rdByte t a = rdByte s a) ∧
        (¬good → Leads (.fwStageDone v) s fun t => t.island.staging = none ∧ rd t E.staged_state = 0 ∧
          rd t E.fw_load_status = 4 ∧ t.mem = s.mem))

/-! ## Translation and lacing rings (R466 to R500) -/

/-- A map and an unmap are checked in the order of R467, and report the first refusal or start; at the end of a map each page
of the range has its entry, at the end of an unmap none has, and no other page changes. An unmap waits for the accesses in
flight through its range (R466 to R468, R498).

`stream_abandon` ends every holding transfer of the core it names, whose block stops with 0x0301, and no other core's (R474). -/
def Obligations.PagesMap : Prop :=
  (∀ s : State,
      let p := xmPart s
      let e := xmEntry s
      let va := xmVa s
      let n := xmPages s
      let size := if bit e 62 then 2 ^ 21 else 2 ^ 16
      let stop := va + n * size
      let key := fun (i : Nat) => xlatKey p (bit e 62) (va + i * size)
      let owned := ∀ i < n, frameOwned s p (mapEntry e i) = true
      let aligned := va % size = 0 ∧ bits e 39 16 * 2 ^ 16 % size = 0
      let free := rangeMapped s p va stop = false
      let room := s.xlat.length + n ≤ 1048576
      let small := ∀ i < n, largeCore (mapEntry e i) = false
      let fits := n ≠ 0 ∧ stop ≤ 2 ^ 48
      let mapped := ∀ i < n, Tab.get 0 s.xlat (key i) ≠ 0
      (∀ via, Serves s E.xm_cmd →
        let tells := fun (m : Instr) (v c : Nat) =>
          Accepts m s E.xm_cmd (wr (wr (told s via E.xm_cmd (leBytes 1 v)) E.xm_cmd v) E.xm_status c)
        let map := Instr.xlatMap via
        let unmap := Instr.xlatUnmap via
        (rd s E.xm_status = 1 → exec map s = .next (ended s E.xm_cmd 4) ∧ exec unmap s = .next (ended s E.xm_cmd 4)) ∧
        (rd s E.xm_status ≠ 1 →
          (¬owned → tells map 1 3) ∧ (owned → ¬aligned → tells map 1 4) ∧ (owned → aligned → ¬free → tells map 1 5) ∧
          (owned → aligned → free → ¬room → tells map 1 6) ∧ (owned → aligned → free → room → ¬small → tells map 1 7) ∧
          (owned → aligned → free → room → small → ¬fits → tells map 1 8) ∧
          (owned → aligned → free → room → small → fits → tells map 1 1) ∧
          (va % size ≠ 0 → tells unmap 2 4) ∧ (va % size = 0 → ¬mapped → tells unmap 2 5) ∧
          (va % size = 0 → mapped → ¬fits → tells unmap 2 8) ∧ (va % size = 0 → mapped → fits → tells unmap 2 1))) ∧
      (rd s E.xm_status ≠ 1 → Stays .xlatCmdDone s) ∧
      (rd s E.xm_status = 1 → rd s E.xm_cmd = 1 → Leads .xlatCmdDone s fun t => rd t E.xm_status = 2 ∧
        rd t E.xlat_entries_used = cut E.xlat_entries_used t.xlat.length ∧ t.mem = s.mem ∧ t.cores = s.cores ∧
        (∀ i < n, Tab.get 0 t.xlat (key i) = mapEntry e i) ∧
        ∀ j, (∀ i < n, key i ≠ j) → Tab.get 0 t.xlat j = Tab.get 0 s.xlat j) ∧
      (rd s E.xm_status = 1 → rd s E.xm_cmd ≠ 1 → partUsesRange s p va stop = true → Stays .xlatCmdDone s) ∧
      (rd s E.xm_status = 1 → rd s E.xm_cmd ≠ 1 → partUsesRange s p va stop = false → Leads .xlatCmdDone s fun t =>
        rd t E.xm_status = 2 ∧ t.mem = s.mem ∧ t.cores = s.cores ∧ (∀ i < n, Tab.get 0 t.xlat (key i) = 0) ∧
        ∀ j, (∀ i < n, key i ≠ j) → Tab.get 0 t.xlat j = Tab.get 0 s.xlat j)) ∧
  (∀ (s : State) (via : Path) (c : Nat) (b : Block), c < 800 → Serves s E.stream_abandon →
      (core s c).block = some b → (core s c).holding = true →
      Leads (.streamAbandon via (leBytes (dictSize E.stream_abandon) c)) s fun t => result t = 0 ∧
        (core t c).holding = false ∧ (∃ w, (core t c).block = some w ∧ w.fault = if b.fault = 0 then 0x0301 else b.fault) ∧
        ∀ j, j ≠ c → core t j = core s j)

/-- A lacing ring starts from a record that fits R484, filling or running, and any other record is refused; a stop stops a ring
that runs. The end of a fill lets the ring run, and fills no byte outside its members' buffers (R483 to R485, R494, R499, R500).

A member forwards its oldest unit once every joined reader has taken or passed it: to the member before it, into the lowest
free slot, with the unit's bytes; after the last member of the last circulation the unit is gone (R486, R491).

The lacing operations of an access stream: `RJOIN` attaches a hold of the stream's own member, `RNEXT` takes the next unit but
those it skips, pushes a token and rewinds the contexts that follow the hold, `RDONE` gives the unit back, `RLEAVE` detaches
(R486, R489 to R491). -/
def Obligations.LacingRings : Prop :=
  (∀ (s : State),
      let a := rd s E.ring_record_addr
      let w := fun (i : Nat) => rdNat s (Mem.hbm (a + 8 * i)) 8
      let r := bits (w 0) 47 40
      let n := bits (w 0) 39 32
      let fill := bits (w 0) 31 24
      let units := bits (w 1) 31 0
      let es := (List.range n).map fun i => w (8 + i)
      (∀ via p, Serves s E.ring_cmd → sharePartition s a = some p →
        let fits := bits (w 0) 63 48 = 0x524E ∧ r < 64 ∧ 1 ≤ n ∧ n ≤ 32 ∧ fill ≤ 2 ∧ rd s (E.ring_state + r) ≠ 1 ∧
          rd s (E.ring_state + r) ≠ 2 ∧ units % n = 0 ∧ (∀ e ∈ es, memberOk s p fill (units / n) e = true) ∧
          (es.map fun e => bits e 36 27).Nodup ∧
          (fill = 1 → ∃ k, (findKeySet s (some p) (w 2)).bind (fun v => v.key (bits (w 3) 39 32) (bits (w 3) 31 0)) = some k ∧
            k.chunks = units)
        (¬fits → Accepts (.ringStart via) s E.ring_cmd (wr (told s via E.ring_cmd [0x40]) E.ring_cmd_status 4)) ∧
        (fits → Leads (.ringStart via) s fun t => result t = 0 ∧ rd t E.ring_cmd_status = 2 ∧
          rd t (E.ring_state + r) = (if fill = 0 then 2 else 1) ∧ rd t (E.ring_circulations_done + r) = 0 ∧ t.mem = s.mem ∧
          (lace t r).members.length = n ∧ (lace t r).part = p ∧
          ∀ i < n, ∃ m, (lace t r).members[i]? = some m ∧ m.slots = bits (w (8 + i)) 47 40 ∧ m.units.length = units / n)) ∧
      (∀ via ring, ring < 64 → Serves s E.ring_cmd →
        let runs := rd s (E.ring_state + ring) = 1 ∨ rd s (E.ring_state + ring) = 2
        let u := told s via E.ring_cmd [BitVec.ofNat 8 (0x80 + ring)]
        (runs → Accepts (.ringStop via ring) s E.ring_cmd (wr (wr u (E.ring_state + ring) 4) E.ring_cmd_status 3)) ∧
        (¬runs → Accepts (.ringStop via ring) s E.ring_cmd (wr u E.ring_cmd_status 5))) ∧
      ∀ ring, ring < 64 →
        (rd s (E.ring_state + ring) ≠ 1 → Stays (.ringFillDone ring) s) ∧
        (rd s (E.ring_state + ring) = 1 → fillOk s (lace s ring) = false →
          exec (.ringFillDone ring) s = .next (wr s (E.ring_state + ring) 4)) ∧
        (rd s (E.ring_state + ring) = 1 → fillOk s (lace s ring) = true → Leads (.ringFillDone ring) s fun t =>
          rd t (E.ring_state + ring) = 2 ∧ t.cores = s.cores ∧ t.laces = s.laces ∧
          ∀ b, (∀ m ∈ (lace s ring).members, ∀ u ∈ m.units, (b < m.slotKey u.slot ∨ m.slotKey u.slot + 65536 ≤ b) ∧
            (b < m.headKey u.slot ∨ m.headKey u.slot + 64 ≤ b)) → rdByte t b = rdByte s b)) ∧
  (∀ (s : State) (r i : Nat) (m : Member) (u : LaceUnit) (l : List LaceUnit), r < 64 → rd s (E.ring_state + r) = 2 →
      let ms := (lace s r).members
      let n := ms.length
      let j := (i + n - 1) % n
      ms[i]? = some m → m.units = u :: l →
      (passedByAll s r i m.first u.unit = false → Stays (.ringForward r i) s) ∧
      (passedByAll s r i m.first u.unit = true →
        (∀ d q, u.offered < n → 1 < n → ms[j]? = some d → d.freeSlot = some q → Leads (.ringForward r i) s fun t =>
          (lace t r).members[i]? = some { m with units := l, first := m.first + 1 } ∧
          (lace t r).members[j]? = some { d with units := d.units ++ [{ u with offered := u.offered + 1, slot := q }] } ∧
          ((lace s r).fill ≠ 1 → rdBytes t (d.slotKey q) 65536 = rdBytes s (m.slotKey u.slot) 65536) ∧ t.cores = s.cores) ∧
        (∀ d, u.offered < n → 1 < n → ms[j]? = some d → d.freeSlot = none → Leads (.ringForward r i) s fun t =>
          t.laces = s.laces ∧ t.mem = s.mem) ∧
        (n ≤ u.offered → u.rounds + 1 = (lace s r).circulations → Leads (.ringForward r i) s fun t =>
          (lace t r).members[i]? = some { m with units := l, first := m.first + 1 } ∧ t.mem = s.mem ∧ t.cores = s.cores))) ∧
  (∀ (s u : State) (c a : Nat) (b : Block) (i : AIns), AccessFree s c a b u →
      a = max (max b.anext b.b0) (core s c).beat →
      let k := core u c
      let h := bits i.imm.toNat 9 8
      let r := bits i.imm.toNat 5 0
      let skip := bits i.imm.toNat 7 0
      let q := (core s c).queue i.queue
      let went := fun (t : State) => AccessWent u t c (b.apos + 1) (a + 1) false
      let holds := fun (t : State) (v : Option RingHold) => (core t c).hold h = v ∧ ∀ j, j ≠ h → (core t c).hold j = k.hold j
      (∀ m x, k.hold h = none → laceRuns u r = true → ownMember u c r = some m → (lace u r).members[m]? = some x →
        Leads (.rjoin c i) s fun t => went t ∧ holds t (some ⟨r, m, x.first, none⟩) ∧ SameMemory u t) ∧
      (∀ v m y, k.hold h = some v → (core s c).hold h = some v → (core s c).passed = false → laceState s v.ring = 2 →
        laceState u v.ring = 2 → (lace u v.ring).members[v.member]? = some m → m.first ≤ v.next + skip →
        m.units[v.next + skip - m.first]? = some y →
        q.toAccess = false → q.entries.length < q.depth → q.roomAt ≤ a →
        Leads (.rnext c i) s fun t => went t ∧ SameMemory u t ∧
          holds t (some { v with next := v.next + skip + 1, unit := some (m.slotKey y.slot) }) ∧
          OnlyQueue u t c i.queue (k.held i.queue ++ [(true, 0, 0, a)]) ∧
          ∀ x < 32, (ctxOf u c x).anchor = 2 → (ctxOf u c x).areg % 4 = h → Tab.get 0 (core t c).cursors x = 0) ∧
      (∀ v, k.hold h = some v → laceRuns u v.ring = true →
        (Leads (.rdone c i) s fun t => went t ∧ holds t (some { v with unit := none }) ∧ SameMemory u t) ∧
        Leads (.rleave c i) s fun t => went t ∧ holds t none ∧ SameMemory u t))

/-! ## Stitch groups (R501 to R537) -/

/-- The stitch records of a ring, each when it is the next of its ring: `SGOPEN` opens a record, `SGBIND` binds its
cores, `SGCOMMIT` waits for its cores and its writes and is decided, `SGABORT` resolves its group with 0x0504; a record that breaks
R511, names no open group of its partition or finds no room completes with its status and changes no group
(R505, R511 to R516, R525).

`sg_abort_cmd` aborts an open group of this device, from an authenticated session only, and `sgq_id` shows a group or how it
was resolved (R525, R536, R537).

How groups end: the applies of a committed group make its granules visible and resolve it; missing votes decide an abort;
a target without a decision discards the group (R518 to R526). -/
def Obligations.StitchGroups : Prop :=
  (∀ (s : State) (x k : Nat) (v : Taken), x < 32 → k < 8 →
      let p := ringPart s x
      let i := v.group
      let fabric := bit (v.word 0) 31
      let cs := v.cores x
      let next := fun (op : Nat) => nextOp s x k op = some v
      let fails := fun (n : Instr) (c : Nat) => Leads n s fun t => Completed s t x k v c ∧ t.groups = s.groups
      (v.checks = false → (next 0x40 → fails (.sgopen x k) 0x0105) ∧ (next 0x41 → fails (.sgbind x k) 0x0105) ∧
        (next 0x42 → fails (.sgcommit x k) 0x0105) ∧ (next 0x43 → fails (.sgabort x k) 0x0105)) ∧
      (v.checks = true →
        let step := if fabric then v.word 4 else 0
        let late := fabric = true ∧ step < rd s E.step_counter
        let range := (vaRange s p (.unit x) .write (bits (v.word 1) 47 0) (bits (v.word 2) 47 0)).1
        (next 0x40 → 4096 ≤ s.groups.length → fails (.sgopen x k) 0x0501) ∧
        (next 0x40 → s.groups.length < 4096 → findGroup s none i ≠ none ∨ late → fails (.sgopen x k) 0x0507) ∧
        (next 0x40 → s.groups.length < 4096 → findGroup s none i = none → ¬late → Leads (.sgopen x k) s fun t =>
          Completed s t x k v 0 ∧
          t.groups = s.groups ++ [⟨none, i, p, fabric, step, 1, 0, 0, [], [], [], [], none, 0⟩] ∧
          rd t E.sg_records_used = cut E.sg_records_used (s.groups.length + 1)) ∧
        (next 0x41 → range ≠ 0 → fails (.sgbind x k) 0x0302) ∧
        ∀ g, findGroup s none i = some g →
          (next 0x41 → range = 0 → g.state ≠ 1 ∨ g.part ≠ p ∨ (∃ c ∈ cs, isBound s c = true) → fails (.sgbind x k) 0x0507) ∧
          (next 0x41 → range = 0 → g.state = 1 → g.part = p → (∀ c ∈ cs, isBound s c = false) → Leads (.sgbind x k) s fun t =>
            Completed s t x k v 0 ∧ ∃ h, findGroup t none i = some h ∧ h = { g with
              binds := g.binds ++ cs.map fun c => ⟨c, bits (v.word 1) 47 0, bits (v.word 2) 47 0, bits (v.word 3) 23 0⟩ }) ∧
          (next 0x42 → g.state ≠ 1 ∨ g.part ≠ p ∨ g.fabric = true ∨ g.waiter ≠ none → fails (.sgcommit x k) 0x0507) ∧
          (next 0x42 → g.state = 1 → g.part = p → g.fabric = false → g.waiter = none →
            let busy := g.unacked ≠ 0 ∨ ∃ b ∈ g.binds, (core s b.core).running = true
            (busy → Leads (.sgcommit x k) s fun t => Waits t x k v ∧ t.commitLog = s.commitLog ∧
              findGroup t none i = some { g with waiter := some (x, k) }) ∧
            (¬busy → g.status = 0 → Leads (.sgcommit x k) s fun t => Waits t x k v ∧
              t.commitLog = s.commitLog ++ [⟨none, i, g.step, true, now s⟩] ∧
              findGroup t none i = some { g with waiter := some (x, k), state := 4 })) ∧
          (next 0x43 → g.state ≠ 1 ∨ g.part ≠ p → fails (.sgabort x k) 0x0507) ∧
          (next 0x43 → g.state = 1 → g.part = p → g.fabric = false → g.waiter = none →
            (∀ b ∈ g.binds, (core s b.core).running = false) → Leads (.sgabort x k) s fun t =>
            Completed s t x k v 0 ∧ findGroup t none i = none ∧ Tab.get none t.resolved i = some (0x0504, 0, g.step) ∧
            rd t E.sg_abort_count = cut E.sg_abort_count (rd s E.sg_abort_count + 1)))) ∧
  (∀ (s : State) (via : Path) (i : Nat), i < 4096 →
      (Serves s E.sg_abort_cmd →
        let n := Instr.sgAbortCmd via (leBytes 2 i)
        (authentic s via = false → exec n s = .next (ended s E.sg_abort_cmd 6)) ∧
        (authentic s via = true → (∀ g, findGroup s none i = some g → g.state ≠ 1) →
          Accepts n s E.sg_abort_cmd (told s via E.sg_abort_cmd (leBytes 2 i))) ∧
        ∀ g, authentic s via = true → findGroup s none i = some g → g.state = 1 → g.fabric = false → g.waiter = none →
          (∀ b ∈ g.binds, (core s b.core).running = false) → Leads n s fun t => result t = 0 ∧ findGroup t none i = none ∧
            Tab.get none t.resolved i = some (0x0504, 0, g.step) ∧ t.mem = s.mem ∧
            ∀ c, (core t c).bound = if (∃ b ∈ g.binds, b.core = c) ∧ (core s c).bound = some i then none else (core s c).bound) ∧
      (Serves s E.sgq_id → Leads (.sgqFill via (leBytes 2 i)) s fun t => result t = 0 ∧ rd t E.sgq_id = i ∧
        t.groups = s.groups ∧ t.mem = s.mem ∧
        (∀ g, findGroup s none i = some g → rd t E.sgq_state = cut E.sgq_state g.state ∧
          rd t E.sgq_status = cut E.sgq_status g.status ∧ rd t E.sgq_cause = cut E.sgq_cause g.cause ∧
          rd t E.sgq_step = cut E.sgq_step g.step) ∧
        ∀ st cause step, findGroup s none i = none → Tab.get none s.resolved i = some (st, cause, step) → rd t E.sgq_state = 0 ∧
          rd t E.sgq_status = cut E.sgq_status st ∧ rd t E.sgq_cause = cut E.sgq_cause cause ∧ rd t E.sgq_step = cut E.sgq_step step)) ∧
  (∀ (s : State) (i : Nat), s.step.boundary = false →
      (∀ g r, findGroup s none i = some g → g.state = 4 → applyBlocked s g = false → g.granules = [r] → 2 ^ 26 ≤ r.base →
        g.awaited = [] → g.waiter = none → Leads (.sgApplyDone (rd s E.node_id) i) s fun t =>
          rdBytes t r.base r.data.length = r.data ∧ findGroup t none i = none ∧
          Tab.get none t.resolved i = some (0, 0, g.step) ∧
          rd t E.sg_commit_count = cut E.sg_commit_count (rd s E.sg_commit_count + 1)) ∧
      (∀ g, findGroup s none i = some g → g.state ≠ 4 ∨ applyBlocked s g = true → Stays (.sgApplyDone (rd s E.node_id) i) s) ∧
      (∀ g, findGroup s none i = some g → g.state = 2 → g.awaited ≠ [] →
        (∀ d ∈ s.commitLog, ¬(d.opener = none ∧ d.id = i ∧ d.step = g.step)) → Leads (.sgPrepareTimeout i) s fun t =>
          t.commitLog = s.commitLog ++ [⟨none, i, g.step, false, now s⟩] ∧ t.mem = s.mem ∧ t.cores = s.cores) ∧
      (findGroup s none i = none → Stays (.sgPrepareTimeout i) s) ∧
      ∀ o g, findGroup s (some o) i = some g →
        (g.state = 4 → Stays (.sgDecisionHoldExpiry o i) s) ∧
        (g.state ≠ 4 → Leads (.sgDecisionHoldExpiry o i) s fun t => findGroup t (some o) i = none ∧ t.mem = s.mem ∧
          rd t E.sg_abort_count = cut E.sg_abort_count (rd s E.sg_abort_count + 1)))

/-! ## Windows, messages and steps (R576 to R613) -/

/-- The messages of a stitch group that spans devices: a target votes to commit while its part is intact, the opener decides once
every vote is in, a target logs the decision before it acts on it, and a query gets the decision that was logged
(R518, R519, R525, R530). -/
def Obligations.StitchMessagesDecide : Prop :=
  ∀ (s : State) (m : Msg),
    let i := leNat (m.payload.take 2)
    let verdict := leNat ((m.payload.drop 2).take 1)
    let step := leNat ((m.payload.drop 8).take 8)
    let reply := fun (v : Nat) => leBytes 2 i ++ leBytes 1 v ++ List.replicate 5 (0 : Byte) ++ leBytes 8 step
    let status := leBytes 2 0 ++ List.replicate 6 (0 : Byte)
    let mine := findGroup s (some m.src) i
    (Fresh s m →
      (mine = none → Leads (.sgPrepare m) s fun t => Answers s t m 0x21 (reply 1) ∧ t.groups = s.groups) ∧
      (∀ g, mine = some g → ¬((g.state = 1 ∨ g.state = 3) ∧ g.status = 0) →
        Leads (.sgPrepare m) s fun t => Answers s t m 0x21 (reply 1) ∧ t.groups = s.groups) ∧
      (∀ g, mine = some g → g.state = 1 ∨ g.state = 3 → g.status = 0 → Leads (.sgPrepare m) s fun t =>
        Answers s t m 0x21 (reply 0) ∧ findGroup t (some m.src) i = some { g with state := 3, step := step }) ∧
      (∀ d, (s.commitLog.find? fun d => d.opener.isNone && d.id == i && d.step == step) = some d →
        Leads (.sgQuery m) s fun t => Answers s t m 0x22 (reply (if d.commit then 0 else 1)) ∧ t.commitLog = s.commitLog) ∧
      ((∀ q ∈ s.transport.notices, q.mtype ≠ 0x23) → s.step.boundary = false →
        (mine = none → Leads (.sgDecision m) s fun t => Answers s t m 0x10 status ∧ t.groups = s.groups) ∧
        (∀ g, mine = some g → verdict = 0 → g.state ≠ 4 → Leads (.sgDecision m) s fun t => t.mem = s.mem ∧
          t.commitLog = s.commitLog ++ [⟨some m.src, i, step, true, now s⟩] ∧
          findGroup t (some m.src) i = some { g with state := 4, waiter := some (m.flow, m.tseq) }) ∧
        (∀ g, mine = some g → verdict = 1 → Leads (.sgDecision m) s fun t => t.mem = s.mem ∧ Answers s t m 0x10 status ∧
          t.commitLog = s.commitLog ++ [⟨some m.src, i, step, false, now s⟩] ∧ findGroup t (some m.src) i = none))) ∧
    ∀ q g, takesMessages s m = true → m.flow = deviceFlow → s.transport.notices = [q] → q.tseq = m.tseq → q.msg.dst = m.src →
      q.mtype = 0x20 → findGroup s none (leNat (q.msg.payload.take 2)) = some g → g.state = 2 → g.status = 0 →
      m.src ∈ g.awaited → s.step.boundary = false →
      let decides := g.awaited.filter (· != m.src) = []
      (decides → Leads (.sgVote m) s fun t =>
        t.commitLog = s.commitLog ++ [⟨none, g.id, g.step, decide (verdict = 0), now s⟩]) ∧
      (¬decides → Leads (.sgVote m) s fun t => t.commitLog = s.commitLog ∧ t.mem = s.mem ∧
        findGroup t none g.id = some { g with
          awaited := g.awaited.filter (· != m.src), status := if verdict = 0 then 0 else 0x0502 })

/-- The timed changes of a window: a QUIET window becomes FREE, a CLOSING one whose credits are settled becomes QUIET and its
landing ranges close, a rolling one's finished range closes, an OPEN one repeats its CREDIT, and the hold-off ends
(R169, R581, R583, R585, R586, R593).

The window records of a ring, each when it is the next of its ring: `WOPEN` opens a FREE window with a new epoch,
`WCLOSE` closes an OPEN one, `WBIND` connects a free handle, `WUNBIND` frees a bound one; each other record completes with its
status (R18, R582, R584 to R589). -/
def Obligations.WindowsOpen : Prop :=
  ((∀ s : State, exec .windowHoldoffEnd s = .next { s with transport := { s.transport with holdoff := false } }) ∧
    ∀ (s : State) (w : Nat), w < 1048576 →
      let x := winSector s w
      let others := fun (t : State) => ∀ b, b < 64 * w ∨ 64 * w + 64 ≤ b → rdByte t b = rdByte s b
      (winState s w ≠ 3 → Stays (.windowQuietExpiry w) s) ∧
      (winState s w = 3 → Leads (.windowQuietExpiry w) s fun t => winState t w = 0 ∧ others t) ∧
      (∀ late, (winState s w ≠ 2 → Stays (.closingEnd w late) s) ∧
        (winState s w = 2 →
          winTarget s w = 2 ∨ ((creditLeft s w = 0 ∨ (win s w).late = true ∨ late = true) ∧ winShadowed s w = 0) →
          Leads (.closingEnd w late) s fun t => winState t w = 3 ∧ others t ∧ (win t w).blocks = [] ∧ (win t w).flows = [] ∧
            (winTarget s w ≠ 2 → (sector t x).landing = (sector s x).landing.filter (·.window != w)))) ∧
      (winState s w ≠ 1 → Stays (.creditRepeatTimer w) s) ∧
      (winState s w = 1 → Leads (.creditRepeatTimer w) s fun t => t.mem = s.mem ∧ t.windows = s.windows ∧
        ∀ f ∈ (win s w).flows, transmits s = true → reachable s f.1 = true →
          (winPartition s w).any (scrubbing s) = false → .msg 0x12 (creditMsg s w f.1 f.2 0) ∈ t.sent) ∧
      ∀ y r l, y < 32 → (sector s y).landing[r]? = some l → l.window = w →
        (winState s w = 2 → exec (.landingRangeClose y r) s = exec (.closingEnd w false) s) ∧
        ∀ b, winState s w = 1 → winTarget s w ≠ 2 → bit (winWord s w 0) 50 = true → (win s w).blocks = [b] →
          blockDone s w b = true →
          (blocksOf (winWords s w))[winFrontier s w * 256 / blockSize (winTarget s w)]? = none →
          Leads (.landingRangeClose y r) s fun t => (win t w).blocks = [] ∧
            (sector t x).landing = (sector s x).landing.filter fun r => !(r.window == w && 64 * r.target + r.idx == b.1)) ∧
  (∀ (s : State) (x k : Nat) (v : Taken), x < 32 → k < 8 →
      let p := ringPart s x
      let w := v.id
      let next := fun (op : Nat) => nextOp s x k op = some v
      let image := vaRead s p (.unit x) (bits (v.word 1) 47 0) 64
      let l := (List.range 8).map (recWord image.2)
      let target := bits (l.getD 0 0) 56 55
      let ill := target = 3 ∨ (target ≠ 2 ∧ (bit (l.getD 0 0) 52 = true ∨ bit (l.getD 0 0) 51 = true))
      let n := Instr.wopen x k
      (next 0x50 → s.transport.holdoff = true → Stays n s) ∧
      (next 0x50 → s.transport.holdoff = false →
        (v.checks = false → Refuses n s x k v 0x0105) ∧
        (v.checks = true → image.1 ≠ 0 → Refuses n s x k v 0x0302) ∧
        (v.checks = true → image.1 = 0 → ill → Refuses n s x k v 0x0105) ∧
        (v.checks = true → image.1 = 0 → ¬ill → imageRefused s p w l = true → Refuses n s x k v 0x0302) ∧
        (v.checks = true → image.1 = 0 → ¬ill → imageRefused s p w l = false → winState s w ≠ 0 → Refuses n s x k v 0x0407) ∧
        (v.checks = true → image.1 = 0 → ¬ill → imageRefused s p w l = false → winState s w = 0 → Leads n s fun t =>
          Completed s t x k v 0 ∧ rd t E.windows_open = cut E.windows_open (rd s E.windows_open + 1) ∧
          (v.completion = 0 → winState t w = 1 ∧ winEpoch t w = (winEpoch s w + 1) % 65536 ∧ winTarget t w = target ∧
            winBase t w = bits (l.getD 2 0) 47 0 ∧ winLength t w = bits (l.getD 3 0) 35 0))) ∧
      (next 0x51 → v.checks = false → Refuses (.wclose x k) s x k v 0x0105) ∧
      (next 0x51 → v.checks = true → ¬(winState s w = 1 ∧ winPartition s w = some p) → Refuses (.wclose x k) s x k v 0x0407) ∧
      (next 0x51 → v.checks = true → winState s w = 1 → winPartition s w = some p → Leads (.wclose x k) s fun t =>
        Completed s t x k v 0 ∧ (v.completion = 0 → winState t w = 2) ∧ (winTarget s w ≠ 2 →
          (∀ r ∈ (sector t (winSector s w)).landing, r.window = w → r.closing = true) ∧
          ∃ m ∈ t.transport.notices, m.mtype = 6 ∧ m.msg.dst = bits (winWord s w 1) 63 48 ∧ m.msg.window = w ∧
            m.msg.epoch = winEpoch s w)) ∧
      (let node := bits (l.getD 0 0) 63 48
       let base := bits (l.getD 1 0) 35 0
       let m := Instr.wbind x k
       next 0x52 →
        (v.checks = false ∨ 4096 ≤ w → Refuses m s x k v 0x0105) ∧
        (v.checks = true → w < 4096 →
          (image.1 ≠ 0 → Refuses m s x k v 0x0302) ∧
          (image.1 = 0 → checkOk image.2 = false ∨ base % 65536 ≠ 0 → Refuses m s x k v 0x0105) ∧
          (image.1 = 0 → checkOk image.2 = true → base % 65536 = 0 → reachable s node = false → Refuses m s x k v 0x0404) ∧
          (image.1 = 0 → checkOk image.2 = true → base % 65536 = 0 → reachable s node = true → (handle s w).state ≠ 0 →
            Refuses m s x k v 0x0407) ∧
          (image.1 = 0 → checkOk image.2 = true → base % 65536 = 0 → reachable s node = true → (handle s w).state = 0 →
            Leads m s fun t => Waits t x k v ∧ t.mem = s.mem ∧ (handle t w).state = 1 ∧ (handle t w).part = p ∧
              (handle t w).node = node ∧ (handle t w).window = bits (l.getD 0 0) 47 28 ∧ (handle t w).base = base ∧
              (handle t w).out.map Request.mtype = [5]))) ∧
      (next 0x53 →
        let h := handle s w
        (v.checks = false ∨ 4096 ≤ w → Refuses (.wunbind x k) s x k v 0x0105) ∧
        (v.checks = true → w < 4096 → h.state < 2 ∨ h.part ≠ p ∨ h.unbinding ≠ none → Refuses (.wunbind x k) s x k v 0x0407) ∧
        (v.checks = true → w < 4096 → 2 ≤ h.state → h.part = p → h.unbinding = none →
          (h.out ≠ [] ∨ h.held ≠ [] → Leads (.wunbind x k) s fun t => Waits t x k v ∧ t.mem = s.mem ∧
            handle t w = { h with unbinding := some (x, k) }) ∧
          (h.out = [] → h.held = [] → (∀ u ∈ (ringOf s x k).queue, u.started = true → u.op = 0x53 → u.id ≠ w) →
            Leads (.wunbind x k) s fun t => Completed s t x k v 0 ∧ handle t w = { Handle.init with nextSeq := h.nextSeq }))))

/-- A remote write into a sector that is awake lands in an open landing range, or in the ring region, and changes no other byte
but those of the lines that were on their way there; outside memory that exists, and outside every range, it is dropped with
0x0302; without the credits of its 256 B units it is dropped with 0x0403 and counted; of a group, it changes no byte that a
reader sees; and it wakes a sector that sleeps, waits, and lands when the sector is ON (R136, R164, R165, R167, R168, R501, R671,
R710, R711). -/
def Obligations.RemoteWritesLand : Prop :=
  ∀ (s : State) (w : RemoteWr), w.sector < 32 →
    let k := Mem.onchip w.sector w.target w.offset
    let n := w.data.length
    let awake := s.supply.mainOn = true ∧ domainState s w.sector < 2
    let absent := 0x800000 ≤ w.offset ∨ 32 ≤ w.target ∨ onchipValid k = false
    let ring := inRing k = true ∧ inRing (k + n - 1) = true
    let ready := awake ∧ ¬absent ∧ ¬ring ∧ lands s k n = true
    let units := (k % 256 + n + 255) / 256
    let stored := fun (before t : State) => rdBytes t k n = w.data ∧ t.sent.head? = some (.status 0 false []) ∧
      ∀ b, 2 ^ 26 ≤ b → b < k ∨ k + n ≤ b → rdByte t b = rdByte before b
    (awake → absent → exec (.remoteWrite w) s = .next (emit s (.status 0x0302 false []))) ∧
    (awake → ¬absent → ring → Leads (.remoteWrite w) s (stored s)) ∧
    (awake → ¬absent → ¬ring → lands s k n = false → exec (.remoteWrite w) s = .next (emit s (.status 0x0302 false []))) ∧
    (ready → w.credits < units → exec (.remoteWrite w) s =
      .next (emit (wr s E.landing_violation_count (rd s E.landing_violation_count + 1)) (.status 0x0403 false []))) ∧
    (ready → units ≤ w.credits → w.group = none → Leads (.remoteWrite w) s (stored (settleMem s k))) ∧
    (ready → units ≤ w.credits → ∀ g, w.group = some g → Leads (.remoteWrite w) s fun t =>
      ∀ b, 2 ^ 26 ≤ b → rdByte t b = rdByte (settleMem s k) b) ∧
    (s.supply.mainOn = true → 2 ≤ domainState s w.sector → domainState s w.sector ≠ 6 → s.power.entry = none →
      s.power.deep = 0 → rd s E.out_of_service ≠ 1 → Leads (.remoteWrite w) s fun t =>
        domainState t w.sector = 6 ∧ t.mem = s.mem ∧ t.sent = s.sent ∧ t.arrivals = s.arrivals ++ [.write w]) ∧
    (s.supply.mainOn = true → domainState s w.sector = 6 → bit s.power.padWait.toNat w.sector = false →
      bit (rd s E.pad_hold) w.sector = false → (∀ a ∈ s.host.stalled, a.domain ≠ w.sector) → s.arrivals = [.write w] →
      ¬absent → ¬ring → lands s k n = true → units ≤ w.credits → w.group = none → ∀ us, Leads (.domainWakeDone w.sector us) s fun t =>
        domainState t w.sector = 0 ∧ t.arrivals = [] ∧ rdBytes t k n = w.data)

/-- A request of types 1 to 5 is refused with the first check of R599 that fails, in the order of R599, and counted; a repeat gets
its answer again, one ahead of its order is held, one for a sector that sleeps wakes it and waits, and a device whose node a
message does not name takes none (R559, R596, R597, R599, R710, R711).

What a request does that passes its checks: a WRITE lands, or joins its group's shadow; a READ brings the bytes; an ADD adds
lane by lane; a DONE counts; a CONNECT is answered with the window's credit; a REVOKE takes the unused credit of every
handle of the window (R164, R501, R585, R593, R598, R601, R604).

What an answer does at its source, when it matches a request there: an ACK or RDATA ends a piece of a transfer, CREDIT binds a
handle or updates it, REVOKED reports credit given up; a stale window fails the handle; an answer that matches nothing counts; and a
request without an answer is sent again or fails with 0x0404 (R585, R589, R591, R595, R598, R600). -/
def Obligations.WindowMessages : Prop :=
  (∀ (s : State) (n : Instr) (ty : Nat) (m : Msg),
      (n, ty) ∈ [(Instr.write m, 1), (.read m .clean, 2), (.add m .clean, 3), (.done m, 4), (.connect m, 5)] →
      let w := m.window
      let st := winState s w
      let hbm := winTarget s w = 2
      let bytes := if ty = 1 then m.payload.length else if ty = 2 then 8 * m.arg else 64
      let scrubs := (winPartition s w).any (scrubbing s) = true
      let shut := st = 0 ∨ st = 3 ∨ (st = 2 ∧ hbm)
      let stale := ty ≠ 5 ∧ m.epoch ≠ winEpoch s w
      let barred := (bit (winWord s w 0) 51 = false ∧ m.src ≠ bits (winWord s w 1) 63 48) ∨
        (ty = 1 ∧ bit (winWord s w 0) 54 = false) ∨ (ty = 2 ∧ bit (winWord s w 0) 53 = false) ∨
        (ty = 3 ∧ bit (winWord s w 0) 52 = false)
      let outside := ty ≤ 3 ∧ (bytes < 8 ∨ 3840 < bytes ∨ bytes % 8 ≠ 0 ∨ winLength s w < m.offset + bytes ∨
        256 * winFrontier s w < m.offset + bytes ∨ rangeOpen s w m.offset bytes = false ∨ (ty = 3 ∧ m.offset % 64 ≠ 0))
      let uncredited := ¬hbm ∧ ((st = 2 ∧ ty ≠ 1) ∨ (ty = 1 ∧ creditLeft s w < (m.offset % 256 + m.payload.length + 255) / 256))
      let grouped := m.inGroup = true ∧ (ty = 1 ∨ ty = 3)
      let sealed := grouped ∧ ∃ g, namedGroup s m = some g ∧ g.state ≠ 1
      let full := grouped ∧ namedGroup s m = none ∧ 4096 ≤ s.groups.length
      let refuses := fun (c : Nat) => Leads n s fun t =>
        Answers s t m (if ty = 2 then 0x11 else 0x10) (leBytes 2 c ++ List.replicate 6 0) ∧ t.mem = s.mem ∧ t.cores = s.cores ∧
          (c / 256 = 4 → rd t (E.window_refusals + (c % 256 - 1)) =
            cut E.window_refusals (rd s (E.window_refusals + (c % 256 - 1)) + 1))
      (takesMessages s m = false → Stays n s) ∧
      (∀ a, takesMessages s m = true → keptAnswer s m = some a → ty ≠ 2 → exec n s = .next (sendMsg s a.mtype a.ans)) ∧
      (∀ j, takesMessages s m = true → keptAnswer s m = none → m.ordered = true → ty ≠ 5 →
        Tab.get none s.transport.next (flowKey m) = some j → m.tseq ≠ j → (m.tseq + 65536 - j) % 65536 < 32768 →
        (∀ e ∈ s.transport.early, ¬(e.2.src = m.src ∧ e.2.flow = m.flow ∧ e.2.tseq = m.tseq)) →
        exec n s = .next { s with transport := { s.transport with early := s.transport.early ++ [(ty, m)] } }) ∧
      (Fresh s m → arrivalCheck s ty m = 0 → ¬hbm → s.power.entry = none → s.power.deep = 0 → 2 ≤ domainState s (winSector s w) →
        domainState s (winSector s w) ≠ 6 → s.arrivals = [] → Leads n s fun t =>
          t.arrivals = [.request (winSector s w) ty m .clean] ∧ domainState t (winSector s w) = 6 ∧ t.mem = s.mem) ∧
      (Fresh s m → rd s E.out_of_service ≠ 1 →
        (scrubs → refuses 0x0405) ∧ (¬scrubs → shut → refuses 0x0401) ∧ (¬scrubs → ¬shut → stale → refuses 0x0402) ∧
        (¬scrubs → ¬shut → ¬stale → barred → refuses 0x0406) ∧
        (¬scrubs → ¬shut → ¬stale → ¬barred → outside → refuses 0x0302) ∧
        (¬scrubs → ¬shut → ¬stale → ¬barred → ¬outside → uncredited → refuses 0x0403) ∧
        (¬scrubs → ¬shut → ¬stale → ¬barred → ¬outside → ¬uncredited → sealed → refuses 0x0507) ∧
        (¬scrubs → ¬shut → ¬stale → ¬barred → ¬outside → ¬uncredited → ¬sealed → ty = 3 → m.inGroup = true → refuses 0x0505) ∧
        (¬scrubs → ¬shut → ¬stale → ¬barred → ¬outside → ¬uncredited → ¬sealed → ty ≠ 3 → full → refuses 0x0501) ∧
        (¬scrubs → ¬shut → ¬stale → ¬barred → ¬outside → ¬uncredited → ¬sealed → ty = 3 → m.inGroup = false →
          (m.payload.getD 74 0).toNat = 0 ∨ 7 < (m.payload.getD 74 0).toNat → refuses 0x0105))) ∧
  (∀ (s : State) (m : Msg), Fresh s m → m.window < 1048576 →
      let w := m.window
      let hbm := winTarget s w = 2 ∧ 2 ^ 26 ≤ winBase s w + m.offset ∧ winBase s w + m.offset < 2 ^ 37
      let ready := hbm ∨ (winTarget s w < 2 ∧ s.power.entry = none ∧ domainState s (winSector s w) < 2)
      let k := winKey s w m.offset
      let z := blockSize (winTarget s w)
      let whole := fun (n : Nat) => hbm ∨ (ready ∧ m.offset % z + n ≤ z)
      let status := fun (c : Nat) => leBytes 2 c ++ List.replicate 6 (0 : Byte)
      let others := fun (t : State) (n : Nat) => ∀ b, 2 ^ 26 ≤ b → b < k ∨ k + n ≤ b → rdByte t b = rdByte s b
      (arrivalCheck s 1 m = 0 → whole m.payload.length → m.inGroup = false → Leads (.write m) s fun t =>
        Answers s t m 0x10 (status 0) ∧ rdBytes t k m.payload.length = m.payload ∧ others t m.payload.length ∧
          (win t w).consumed = (win s w).consumed + (m.offset % 256 + m.payload.length + 255) / 256) ∧
      (arrivalCheck s 1 m = 0 → hbm → m.inGroup = true → Leads (.write m) s fun t =>
        t.mem = s.mem ∧ ∃ g, findGroup t (some m.src) m.group = some g) ∧
      (arrivalCheck s 2 m = 0 → whole (8 * m.arg) → ∀ e,
        let n := 8 * m.arg
        let errors := if e = .corrected then 1 else 3
        let read := if winTarget s w = 2 then noteEcc s k e
          else meet (settleMem (if e = .clean then s else addFlips s k errors) k) k n
        Leads (.read m e) s fun t => t.mem = read.mem ∧ t.cores = read.cores ∧
          Answers s t m 0x11 (status (if winTarget s w = 2 then (hbmStatus s k n e).1
            else if poisoned read k n = true then 0x0303 else 0) ++ rdBytes read k n)) ∧
      (arrivalCheck s 3 m = 0 → hbm → ∀ e, (hbmStatus s k 64 e).1 = 0 →
        let op := leNat ((m.payload.drop 74).take 1)
        let mask := leNat ((m.payload.drop 72).take 2)
        let old := bit (leNat ((m.payload.drop 75).take 1)) 0
        let n := if op = 1 then 4 else 8
        op = 1 ∨ op = 2 → Leads (.add m e) s fun t =>
          Answers s t m 0x10 (status 0 ++ if old then rdBytes s k 64 else []) ∧ others t 64 ∧
          ∀ i < 64 / n, rdNat t (k + n * i) n = if bit mask i then
            (rdNat s (k + n * i) n + leNat (((m.payload.take 64).drop (n * i)).take n)) % 2 ^ (8 * n) else rdNat s (k + n * i) n) ∧
      (arrivalCheck s 4 m = 0 → ready → Leads (.done m) s fun t => Answers s t m 0x10 (status 0) ∧
        bits (winWord t w 6) 31 0 = (bits (winWord s w 6) 31 0 + 1) % 2 ^ 32 ∧
        ∀ b, b < 64 * w + 48 ∨ 64 * w + 56 ≤ b → rdByte t b = rdByte s b) ∧
      (arrivalCheck s 5 m = 0 → ready → Leads (.connect m) s fun t => t.mem = s.mem ∧ (m.src, m.flow) ∈ (win t w).flows ∧
        Answers s t m 0x12 (leBytes 4 (creditTotal s w) ++ leBytes 4 (winFrontier s w) ++ List.replicate 8 0)) ∧
      (Tab.wf (fun _ => Handle.init) s.handles = true → Leads (.revoke m) s fun t => t.mem = s.mem ∧
        ∀ h, handle t h = if (handle s h).state = 2 ∧ (handle s h).node = m.src ∧ (handle s h).window = w ∧
            (handle s h).epoch = m.epoch then { handle s h with granted := (handle s h).sent % 2 ^ 32 } else handle s h) ∧
      ∀ h v, s.handles = [(h, v)] → v.state = 2 → v.node = m.src → v.window = w → v.epoch = m.epoch → Leads (.revoke m) s fun t =>
        Answers s t m 0x13 (leBytes 4 ((v.granted + 2 ^ 32 - v.sent % 2 ^ 32) % 2 ^ 32) ++ List.replicate 4 0)) ∧
  (∀ (s : State) (m : Msg),
      let h := m.flow
      let v := handle s h
      let st := leNat (m.payload.take 2)
      let lost := wr s (E.window_refusals + 8) (rd s (E.window_refusals + 8) + 1)
      let plain := v.held = [] ∧ v.unbinding = none ∧ NoCommits s
      let ended := fun (t : State) (r : Request) => (handle t h).out = v.out.filter (·.tseq != r.tseq)
      (takesMessages s m = false → Stays (.ack m) s ∧ Stays (.rdata m) s ∧ Stays (.credit m) s ∧ Stays (.revoked m) s) ∧
      (takesMessages s m = true →
        (v.node ≠ m.src → h ≠ deviceFlow → exec (.ack m) s = .next lost ∧ exec (.rdata m) s = .next lost ∧
          exec (.credit m) s = .next lost ∧ exec (.revoked m) s = .next lost) ∧
        (∀ r, v.node = m.src → v.out.find? (·.tseq == m.tseq) = some r → r.group = none → plain →
          (∀ c id key va x, r.purpose = .xfer c id key va → (core s c).xfer id = some x →
            (r.mtype ≠ 2 → st ≠ 0x0401 → st ≠ 0x0402 → (va = none ∨ isOutbound key = false ∨ st ≠ 0) →
              Leads (.ack m) s fun t => ended t r ∧ t.mem = s.mem ∧
                (core t c).xfer id = some { x with remote := x.remote - 1, status := if x.status = 0 then st else x.status }) ∧
            (r.mtype = 2 → st ≠ 0x0401 → st ≠ 0x0402 → isOutbound key = false → m.payload.length > 8 →
              Leads (.rdata m) s fun t => ended t r ∧ t.mem = s.mem ∧
                (core t c).xfer id = some { x with
                  remote := x.remote - 1, status := if x.status = 0 then st else x.status
                  writes := x.writes ++ [(key, va, m.payload.drop 8, st != 0)] })) ∧
          (r.purpose = .other → r.mtype ≠ 2 → r.mtype ≠ 5 → st = 0x0401 ∨ st = 0x0402 → Leads (.ack m) s fun t =>
            (handle t h).state = 3 ∧ (handle t h).failed = st ∧ ended t r)) ∧
        (v.node = m.src → v.state = 2 → v.window = m.window → (∀ r ∈ v.out, r.mtype ≠ 5) → plain → Leads (.credit m) s fun t =>
          t.mem = s.mem ∧ handle t h = { v with
            epoch := m.epoch, frontier := leNat ((m.payload.drop 4).take 4) % 2 ^ 28
            granted := if (leNat (m.payload.take 4) + 2 ^ 32 - v.granted) % 2 ^ 32 < 2 ^ 31 then leNat (m.payload.take 4)
              else v.granted }) ∧
        (∀ r x k, v.node = m.src → v.state = 1 → v.window = m.window → v.out = [r] → r.mtype = 5 → r.tseq = m.tseq →
          r.group = none → r.purpose = .bind x k → plain → Leads (.credit m) s fun t =>
            (handle t h).state = 2 ∧ (handle t h).epoch = m.epoch ∧ (handle t h).granted = leNat (m.payload.take 4) ∧
              ∀ u, (ringOf s x k).queue = [u] → u.started = true → u.op = 0x52 → u.id = h → (ringOf t x k).queue = []) ∧
        ∀ q, h = deviceFlow → s.transport.notices = [q] → q.tseq = m.tseq → q.msg.dst = m.src → q.mtype = 6 →
          winState s q.msg.window = 2 → winEpoch s q.msg.window = q.msg.epoch → Leads (.revoked m) s fun t => t.mem = s.mem ∧
            t.transport.notices.filter (·.mtype == 6) = [] ∧
            (win t q.msg.window).surrendered = (win s q.msg.window).surrendered + leNat (m.payload.take 4)) ∧
      ∀ r, h ≠ deviceFlow → v.out.find? (·.tseq == m.tseq) = some r →
        (r.resends < rd s E.transport_retries → Leads (.transportRetry h m.tseq) s fun t => t.mem = s.mem ∧
          (handle t h).out = v.out.map (fun q => if q.tseq = m.tseq then { q with resends := q.resends + 1 } else q) ∧
          (transmits s = true → reachable s v.node = true → ∃ a, .msg r.mtype a ∈ t.sent ∧ a.tseq = m.tseq ∧ a.flow = h ∧
            a.payload = r.data)) ∧
        (rd s E.transport_retries ≤ r.resends → r.group = none → plain → ∀ c id key va x, r.purpose = .xfer c id key va →
          (core s c).xfer id = some x → Leads (.transportRetry h m.tseq) s fun t => ended t r ∧
            (core t c).xfer id = some { x with remote := x.remote - 1, status := if x.status = 0 then 0x0404 else x.status }))

/-- A step: `STEPEND` names the present step and waits for its boundary; children arrive and the parent releases; the boundary
latches the DONE counts and begins the next step; a missing child, a failed release or the notice of a reset fails it; and
`step_resume` ends the failure (R602 to R610, R613, R795). -/
def Obligations.StepsAdvance : Prop :=
  ∀ (s : State),
    let n := rd s E.step_counter
    let status := leBytes 2 0 ++ List.replicate 6 (0 : Byte)
    let fails := fun (t : State) => t.step = { StepSt.init with failed := true } ∧
      rd t E.step_failed_count = cut E.step_failed_count (rd s E.step_failed_count + 1)
    (∀ x k v, x < 32 → k < 8 → nextOp s x k 0x54 = some v →
      (v.checks = false → Refuses (.stepend x k) s x k v 0x0105) ∧
      (v.checks = true → v.word 2 ≠ n → Refuses (.stepend x k) s x k v 0x0407) ∧
      (v.checks = true → v.word 2 = n → Leads (.stepend x k) s fun t => Waits t x k v ∧ t.mem = s.mem)) ∧
    (∀ m, Fresh s m →
      let named := leNat (m.payload.take 8)
      let kind := leNat ((m.payload.drop 8).take 1)
      (named = n → m.src ∈ stepChildren s → Leads (.stepArrive m) s fun t => Answers s t m 0x10 status ∧ m.src ∈ t.step.arrived ∧
        t.mem = s.mem) ∧
      (named ≠ n → Leads (.stepArrive m) s fun t => Answers s t m 0x10 status ∧ t.step = s.step) ∧
      (named = n → m.src = rd s E.step_parent → rd s E.step_is_root ≠ 1 → s.step.failed = false →
        (kind ≠ 1 → s.step.quiescent = false → Leads (.stepRelease m) s fun t => Answers s t m 0x10 status ∧
          t.step = { s.step with quiescent := true, cinch := rd s E.cinch_mode == 1 } ∧ t.mem = s.mem) ∧
        (kind = 1 → Leads (.stepRelease m) s fails)) ∧
      Leads (.resetNotice m) s fun t => rd t E.prn_node = cut E.prn_node m.src ∧ rd t E.prn_step = cut E.prn_step named ∧
        rd t E.prn_kind = cut E.prn_kind kind ∧ rd t E.prn_time = cut E.prn_time (now s) ∧
        rd t E.peer_reset_count = cut E.peer_reset_count (rd s E.peer_reset_count + 1) ∧
        (named = n → m.src ∈ stepChildren s → s.step.failed = false → s.step.reported = false → s.step.quiescent = false →
          rd s E.step_is_root = 1 → fails t)) ∧
    (let waits := s.step.quiescent = true ∧ s.step.boundary = false ∧ s.step.failed = false
     let alone := (∀ g ∈ s.groups, g.fabric = true → n < g.step) ∧ rd s E.twin_role = 0 ∧ s.twin.handOver = false ∧ s.det.held = [] ∧
       ∀ x k, ∀ v ∈ (ringOf s x k).queue, v.op = 0x54 → v.completion = 0
     let falls := fun (t : State) => t.step = StepSt.init ∧ rd t E.step_counter = cut E.step_counter (n + 1) ∧
       rd t E.last_boundary_time = cut E.last_boundary_time (now s) ∧
       ((windowsWhere s (· == 1)).Nodup → ∀ w ∈ windowsWhere s (· == 1), w < 1048576 →
         winWord t w 6 = bits (winWord s w 6) 31 0 * 2 ^ 32)
     (¬waits → Stays .stepBoundary s ∧ Stays .cinchHoldExpiry s) ∧
     (waits → s.step.cinch = true → Stays .stepBoundary s) ∧ (waits → s.step.cinch = false → Stays .cinchHoldExpiry s) ∧
     (waits → s.step.cinch = false → alone → Leads .stepBoundary s falls) ∧
     (waits → s.step.cinch = true → alone → Leads .cinchHoldExpiry s fun t => falls t ∧
       rd t E.cinch_miss_count = cut E.cinch_miss_count (rd s E.cinch_miss_count + 1))) ∧
    (∀ c, let due := s.step.failed = false ∧ s.step.reported = false ∧ s.step.quiescent = false ∧ c ∉ s.step.arrived ∧
        c ∈ stepChildren s ∧ reachable s c = false
      (¬due → Stays (.stepTimeout c) s) ∧
      (due → rd s E.step_is_root = 1 → Leads (.stepTimeout c) s fails) ∧
      (due → rd s E.step_is_root ≠ 1 → Leads (.stepTimeout c) s fun t => t.step = { s.step with reported := true } ∧
        t.mem = s.mem ∧ ∃ q ∈ t.transport.notices, q.mtype = 0x26 ∧ q.msg.dst = rd s E.step_parent ∧
          q.msg.payload = leBytes 8 n ++ leBytes 1 0 ++ List.replicate 7 0)) ∧
    ∀ via, Serves s E.step_resume →
      (s.step.failed = true → Accepts (.stepResume via (leBytes (dictSize E.step_resume) 1)) s E.step_resume
        { s with step := StepSt.init }) ∧
      (s.step.failed = false → exec (.stepResume via (leBytes (dictSize E.step_resume) 1)) s = .next (ended s E.step_resume 4))

/-! ## Fabric ports, discovery and routes (R543 to R575) -/

/-- `port_cmd` enables, disables, retrains, burnishes and clears a port, and a burnish moves one lane onto the keeper and makes
the lane it frees the keeper (R543, R546, R555, R556, R573).

A port's link: training ends by the lanes that are good, retraining follows eight replays, a lost acknowledgement or a lost
HELLO, a failed lane is replaced by the keeper or halves the width, and flits are accepted in sequence only
(R543 to R545, R550, R552 to R554, R557). -/
def Obligations.PortsAndLinks : Prop :=
  (∀ (s : State) (p : Nat), p < 34 →
      let c := portCode s p
      let v := port s p
      let j := v.lane % 8
      let burns := c = 3 ∧ portWidth s p = 8 ∧ portKeeper s p < 9 ∧ v.burnish = none
      let burnt := fun (t : State) => laneOf t p j = portKeeper s p ∧ portKeeper t p = 15 ∧ portBurn t p = laneOf s p j ∧
        (port t p).burnish = some j ∧ (port t p).lane = (j + 1) % 8 ∧ portCode t p = 3 ∧
        ∀ i < 8, i ≠ j → laneOf t p i = laneOf s p i
      (∀ via, Serves s (E.port_cmd + p) →
        let same := fun (n : Instr) => Accepts n s (E.port_cmd + p) s
        (c = 0 → domainOn s (portDomain p) = true → Leads (.portEnable via p) s fun t => result t = 0 ∧
          portCode t p = (if presLow s p then 2 else 1) ∧ (port t p).enabled = true) ∧
        (c ≠ 0 → Leads (.portEnable via p) s fun t => result t = 0 ∧ portCode t p = c ∧ (port t p).enabled = true) ∧
        (Leads (.portDisable via p) s fun t => result t = 0 ∧ portCode t p = 0 ∧ portWidth t p = 0 ∧ (port t p).enabled = false ∧
          (c = 3 ∨ c = 4 → rd t (E.link_down_count + p) = cut E.link_down_count (rd s (E.link_down_count + p) + 1) ∧
            rd t E.link_flits_lost_count = cut E.link_flits_lost_count (rd s E.link_flits_lost_count + v.outstanding))) ∧
        (c = 3 ∨ c = 5 → Leads (.portRetrain via p) s fun t => result t = 0 ∧ portCode t p = 4 ∧ portWidth t p = 0) ∧
        (¬(c = 3 ∨ c = 5) → same (.portRetrain via p)) ∧
        (burns → Leads (.portBurnishNow via p true) s fun t => result t = 0 ∧ burnt t) ∧
        (¬burns → same (.portBurnishNow via p true)) ∧ same (.portBurnishNow via p false) ∧
        (Leads (.portClearFailed via p) s fun t => result t = 0 ∧ portFailed t p = 0 ∧
          portCode t p = if c = 3 ∨ c = 5 then 4 else c)) ∧
      (rd s E.burnish_enable ≠ 1 → ∀ m, Stays (.burnishTick p m) s) ∧
      (rd s E.burnish_enable = 1 → (¬burns → Stays (.burnishTick p true) s) ∧ Stays (.burnishTick p false) s ∧
        (burns → Leads (.burnishTick p true) s burnt)) ∧
      (v.burnish = none → Stays (.burnishReadaptEnd p) s) ∧
      (v.burnish ≠ none → Leads (.burnishReadaptEnd p) s fun t => portKeeper t p = portBurn s p ∧ portBurn t p = 15 ∧
        (port t p).burnish = none ∧ rd t (E.lane_map + p) = rd s (E.lane_map + p) ∧ t.routes = s.routes)) ∧
  (∀ (s : State) (p : Nat), p < 34 →
      let c := portCode s p
      let v := port s p
      let up := c = 3 ∨ c = 5
      (∀ good,
        let g := ((List.range 9).filter (bit good)).length
        let n := Instr.trainingDone p good
        (¬(c = 2 ∨ c = 4) → Stays n s) ∧
        (c = 2 ∨ c = 4 → 4 ≤ g → Leads n s fun t => portCode t p = 3 ∧ portWidth t p = (if g < 8 then 4 else 8) ∧
          portFailed t p = 511 - good % 512 ∧ (port t p).failures = 0) ∧
        (c = 2 → g < 4 → Leads n s fun t => portCode t p = 1 ∧ portWidth t p = 0) ∧
        (c = 4 → g < 4 → v.failures < 2 → Leads n s fun t => portCode t p = 4 ∧ (port t p).failures = v.failures + 1) ∧
        (c = 4 → g < 4 → 2 ≤ v.failures → Leads n s fun t => portCode t p = 1)) ∧
      (c ≠ 2 → Stays (.trainingTimeout p) s) ∧ (c = 2 → Leads (.trainingTimeout p) s fun t => portCode t p = 1) ∧
      (¬(c = 1 ∧ presLow s p = true) → Stays (.downRetry p) s) ∧
      (c = 1 → presLow s p = true → Leads (.downRetry p) s fun t => portCode t p = 2 ∧ t.routes = s.routes) ∧
      (let late := (v.outstanding ≠ 0 ∨ 8 ≤ v.replays) ∧ up
       (¬late → Stays (.ackTimeout p) s) ∧ (late → Leads (.ackTimeout p) s fun t => portCode t p = 4 ∧ (port t p).acked = v.acked)) ∧
      (p < 32 → (¬up → Stays (.helloTimeout p) s) ∧ (up → Leads (.helloTimeout p) s fun t => portCode t p = 4)) ∧
      (∀ l, l < 9 →
        let g := goodLanes s p - 1
        let n := Instr.laneFail p l
        (bit (portFailed s p) l = true ∨ c < 2 → Stays n s) ∧
        (bit (portFailed s p) l = false → up → v.burnish = none →
          (g < 4 → Leads n s fun t => portCode t p = 4 ∧ bit (portFailed t p) l = true) ∧
          (4 ≤ g → g < 8 → Leads n s fun t => portCode t p = c ∧ portWidth t p = 4 ∧ portKeeper t p = 15 ∧
            bit (portFailed t p) l = true) ∧
          (8 ≤ g → ((List.range 8).map (laneOf s p)).Nodup → Leads n s fun t => portCode t p = c ∧
            portWidth t p = portWidth s p ∧ bit (portFailed t p) l = true ∧ ∀ i < 8, laneOf t p i ≠ l))) ∧
      ∀ f : Flit,
        let n := Instr.flitReceive p f
        let good := f.crcOk = true ∧ f.fecOk = true ∧ f.fifoFull = false
        let takes := good ∧ (f.ftype = 1 ∨ f.ftype = 2) ∧ f.seq = v.expect
        let acks := (f.ack + 4096 - v.acked) % 4096
        (¬up → Stays n s) ∧
        (up → f.ftype ≠ 0 → ¬takes → Leads n s fun t => port t p = { v with nak := true } ∧ t.sent = s.sent ∧ t.mem = s.mem ∧
          (f.fifoFull = true → rd t E.boundary_overflow_count =
            cut E.boundary_overflow_count (rd s E.boundary_overflow_count + 1))) ∧
        (up → takes → f.nak = false → Leads n s fun t => (port t p).expect = (f.seq + 1) % 4096 ∧ (port t p).nak = false ∧
          (port t p).acked = (if acks ≠ 0 ∧ acks ≤ v.outstanding then f.ack % 4096 else v.acked) ∧
          Tab.get 0 (port t p).credits (f.cvc % 4) = Tab.get 0 v.credits (f.cvc % 4) + f.credits ∧ portCode t p = c) ∧
        (up → takes → f.nak = true → acks = 0 → v.outstanding ≠ 0 → Leads n s fun t =>
          rd t (E.link_retry_count + p) = cut E.link_retry_count (rd s (E.link_retry_count + p) + 1) ∧
          (port t p).replays = v.replays + 1 ∧ portCode t p = if 8 ≤ v.replays + 1 then 4 else c))

/-- Discovery and routes: a HELLO names the neighbour, and isolates a port whose neighbour claims this device's node; an
advertisement replaces the port's path, and the entry of its destination follows the shortest paths of the ACTIVE ports unless
it is pinned; `rc_cmd` pins, unpins and copies entries (R557, R558, R561, R563, R567, R568).

A router ages a packet and sends it on by its route, by `pref` when it travels in order or on VC2 or VC3; it drops and counts
one that has no route or whose lifetime is over; and a packet that has waited too long for credit escapes to VC3
(R559, R562, R565, R569). -/
def Obligations.PacketsFind : Prop :=
  (∀ (s : State),
      let me := rd s E.node_id
      let named := rd s E.node_id_assigned = 1
      (∀ p, p < 32 →
        let c := portCode s p
        let up := c = 3 ∨ c = 5
        (¬up → Stays (.helloTimer p) s) ∧
        (up → Leads (.helloTimer p) s fun t => t.sent = .hello p (helloOf s p) :: s.sent ∧ t.mem = s.mem ∧ t.routes = s.routes) ∧
        (∀ h : HelloMsg,
          let twins := h.twin = ownUid s ∧ twinUid s = h.uid ∧ h.uid ≠ 0
          let clash := (h.assigned = true ∧ named ∧ h.node = me ∧ h.uid ≠ ownUid s ∧ ¬twins) ∨ h.role = 2
          let n := Instr.hello p h
          let heard := fun (t : State) => rd t (E.neighbour + p) =
            2 ^ 31 + h.role % 4 * 2 ^ 29 + h.port % 32 * 2 ^ 22 + h.node % 65536
          (¬up → Stays n s) ∧
          (c = 3 → clash → Leads n s fun t => heard t ∧ portCode t p = 5 ∧
            ∀ d < 65536, pathAt t p d = []) ∧
          (c = 5 → clash → Leads n s fun t => heard t ∧ portCode t p = 5) ∧
          (up → ¬clash → Leads n s fun t => heard t ∧ portCode t p = 3)) ∧
        (∀ d path, d < 65536 →
          let n := Instr.routeAdvertisement p d path
          (portActive s p = false ∨ ¬named → Stays n s) ∧
          (portActive s p = true → named → Leads n s fun t =>
            pathAt t p d = (if me ∈ path then [] else path) ∧
            (∀ q e, ¬(q = p ∧ e = d) → q < 32 → e < 65536 → pathAt t q e = pathAt s q e) ∧
            (∀ e, e ≠ d → route t e = route s e) ∧
            (d ≠ me → bit (route s d) 62 = true →
              route t d = setBit (route s d) 63 (!(pathPorts t d).isEmpty)) ∧
            (d ≠ me → bit (route s d) 62 = false → pathPorts t d = [] → route t d = 0x00FF000000000000) ∧
            (d ≠ me → bit (route s d) 62 = false → pathPorts t d ≠ [] → pathLength t d < 256 →
              bit (route t d) 63 = true ∧ bits (route t d) 55 48 = pathLength t d ∧ prefOf (route t d) ∈ pathPorts t d ∧
              ∀ q < 32, bit (route t d) q = decide (q ∈ pathPorts t d ∧ (pathAt t q d).length = pathLength t d))))) ∧
      ∀ via, Serves s E.rc_cmd →
        let d := rd s E.rc_node
        let e := rd s E.rc_entry
        let own := named ∧ d = me
        let fits := bits e 39 32 = 0 ∧ bit e (prefOf e) = true
        let refused := wr s E.rc_status 3
        (own ∨ ¬fits → Accepts (.routePin via) s E.rc_cmd refused) ∧
        (¬own → fits → Leads (.routePin via) s fun t => result t = 0 ∧ rd t E.rc_status = 2 ∧ (∀ j, j ≠ d → route t j = route s j) ∧
          route t d = bits e 63 63 * 2 ^ 63 + 2 ^ 62 + bits e 55 48 * 2 ^ 48 + prefOf e * 2 ^ 40 + bits e 31 0) ∧
        (own → Accepts (.routeUnpin via) s E.rc_cmd refused) ∧
        (¬own → Leads (.routeUnpin via) s fun t => result t = 0 ∧ rd t E.rc_status = 2 ∧ bit (route t d) 62 = false ∧
          ∀ j, j ≠ d → route t j = route s j) ∧
        Leads (.routeCopy via) s fun t => result t = 0 ∧ rd t E.rc_status = 2 ∧
          rd t E.rc_entry = cut E.rc_entry (route s d) ∧ t.routes = s.routes) ∧
  (∀ (s : State) (port : Nat) (p : Packet), port < 32 →
      let e := route s p.dst
      let lost := Host.Outcome.next (wr s E.packets_unroutable_count (rd s E.packets_unroutable_count + 1))
      (∀ ns free,
        let us := max 1 ((ns + 999) / 1000)
        let n := Instr.packetForward port p ns free
        let held := portActive s port = false ∨ advertises s = false ∨ s.twin.helloOnly = true ∨ bit e 61 = true
        let strict := p.ordered = true ∨ 2 ≤ p.vc
        let spent := 64 < p.hops + 1 ∨ p.age ≤ us
        let goes := fun (q : Nat) (t : State) => t.mem = s.mem ∧ t.routes = s.routes ∧
          t.sent = .packet q { p with hops := p.hops + 1, age := p.age - us } :: s.sent
        (held → Stays n s) ∧
        (¬held → bit e 63 = false → exec n s = lost) ∧
        (¬held → bit e 63 = true → maskPorts s e = [] → ¬(strict ∧ portActive s (prefOf e) = true) → exec n s = lost) ∧
        (¬held → bit e 63 = true → maskPorts s e ≠ [] → spent →
          exec n s = .next (wr s E.packets_expired_count (rd s E.packets_expired_count + 1))) ∧
        (¬held → bit e 63 = true → strict → portActive s (prefOf e) = true → ¬spent → Leads n s (goes (prefOf e))) ∧
        (¬held → bit e 63 = true → ¬strict → maskPorts s e ≠ [] → ¬spent → ∃ q ∈ maskPorts s e,
          (∀ r ∈ maskPorts s e, free.getD r 0 ≤ free.getD q 0) ∧ Leads n s (goes q))) ∧
      (let n := Instr.vcEscape port p
       (portActive s port = false ∨ s.twin.helloOnly = true → Stays n s) ∧
       (portActive s port = true → s.twin.helloOnly = false → bit e 63 = false → exec n s = lost) ∧
       (portActive s port = true → s.twin.helloOnly = false → bit e 63 = true → portActive s (prefOf e) = true →
         Leads n s fun t => t.mem = s.mem ∧ t.sent = .packet (prefOf e) { p with vc := 3 } :: s.sent)))

/-! ## Twin pairing (R614 to R641) -/

/-- `twin_cmd`, from an authenticated session only: a bind ends with the first check of R617 that fails, or starts a
resynchronisation; detach, reattach, unbind and lead alone act by the module's role or end with status 9; a bind without an answer
times out, and a resynchronisation ends in the module's role (R616 to R618, R636 to R638, R640).

Heartbeats: a module sends its own, hears its twin's, gives up a leader's role to a better claim, reattaches on its own where
that is enabled, and finds a silent twin lost (R629, R631, R634, R636, R638). -/
def Obligations.TwinCommandsRun : Prop :=
  (∀ (s : State),
      let role := rd s E.twin_role
      (∀ via, Serves s E.twin_cmd →
        let bind := fun (lead : Bool) (p : TwinPeer) => Instr.twinBind via lead p
        let status := fun (n : Instr) (c : Nat) => Leads n s fun t => result t = 0 ∧ rd t E.twin_status = c ∧ rd t E.twin_role = role ∧
          t.twin.syncing = s.twin.syncing
        (authentic s via = false → ∀ n, n ∈ [bind true ⟨true, true, true, false, true, 0, false, false⟩, bind false ⟨true, true, true, false, true, 0, false, false⟩,
            .twinDetach via, .twinReattach via, .twinUnbind via, .twinLeadAlone via] → exec n s = .next (ended s E.twin_cmd 6)) ∧
        (authentic s via = true →
          (∀ lead p, s.twin.heard = none → Leads (bind lead p) s fun t => result t = 0 ∧ rd t E.twin_status = 1 ∧
            t.twin.binding = some lead ∧ t.twin.peer = some p) ∧
          (∀ lead p h, s.twin.heard = some h → h.uid = rd s E.twin_peer_uid → s.twin.lost = false →
            let n := bind lead p
            let same := p.modeMatches = true
            let who := p.identityMatches = true
            let layout := p.layoutMatches = true
            let strict := p.openMode = false ∧ openHere s = false
            let session := p.sessionOk = true
            (¬same → status n 4) ∧ (same → ¬who → status n 5) ∧ (same → who → ¬layout → status n 6) ∧
            (same → who → layout → ¬strict → status n 7) ∧ (same → who → layout → strict → ¬session → status n 8) ∧
            (same → who → layout → strict → session → role ≠ 0 → status n 9) ∧
            (same → who → layout → strict → session → role = 0 → Leads n s fun t => result t = 0 ∧ rd t E.twin_status = 1 ∧
              t.twin.syncing = some lead ∧ t.twin.binding = none ∧ rd t E.twin_sync_progress = 0 ∧
              rd t E.twin_keeper_match = (if p.keepersMatch then 1 else 0) ∧
              (lead = false → rd t E.node_id = cut E.node_id p.node ∧
                rd t E.node_id_assigned = if p.nodeAssigned then 1 else 0))) ∧
          (role = 1 → Leads (.twinDetach via) s fun t => result t = 0 ∧ t.twin.handOver = true ∧ rd t E.twin_status = 2 ∧
            rd t E.twin_role = 1) ∧
          (role = 2 → Leads (.twinDetach via) s fun t => result t = 0 ∧ rd t E.twin_role = 3 ∧ rd t E.twin_detach_cause = 1 ∧
            t.twin.helloOnly = true ∧ rd t E.twin_status = 2) ∧
          (role ≠ 1 → role ≠ 2 → status (.twinDetach via) 9) ∧
          (role = 3 → s.twin.syncing = none → Leads (.twinReattach via) s fun t => result t = 0 ∧ t.twin.syncing = some false ∧
            rd t E.twin_status = 1) ∧
          (¬(role = 3 ∧ s.twin.syncing = none) → status (.twinReattach via) 9) ∧
          (role = 0 → status (.twinUnbind via) 9) ∧
          (role ≠ 0 → Leads (.twinUnbind via) s fun t => result t = 0 ∧ rd t E.twin_role = 0 ∧ rd t E.twin_peer_uid = 0 ∧
            t.twin = Twin.init ∧ rd t E.twin_status = 2) ∧
          (role = 3 → Leads (.twinLeadAlone via) s fun t => result t = 0 ∧ rd t E.twin_role = 1 ∧
            rd t E.twin_generation = cut E.twin_generation (rd s E.twin_generation + 1) ∧ t.twin.helloOnly = false ∧
            rd t E.twin_status = 2) ∧
          (role ≠ 3 → status (.twinLeadAlone via) 9))) ∧
      (s.twin.binding = none → Stays .twinBindTimeout s) ∧
      (s.twin.binding ≠ none → Leads .twinBindTimeout s fun t => t.twin.binding = none ∧
        rd t E.twin_status = if s.twin.heard.any (fun h => h.uid == rd s E.twin_peer_uid) then 4 else 3) ∧
      (s.twin.syncing = none → Stays .twinResyncDone s) ∧
      ∀ lead, s.twin.syncing = some lead → Leads .twinResyncDone s fun t => rd t E.twin_role = (if lead then 1 else 2) ∧
        rd t E.twin_detach_cause = 0 ∧ rd t E.twin_sync_progress = 100 ∧ rd t E.twin_status = 2 ∧ t.twin.syncing = none ∧
        rd t E.twin_bound_time = cut E.twin_bound_time (now s) ∧ t.mem = s.mem) ∧
  (∀ (s : State),
      let role := rd s E.twin_role
      (∀ p, p = 32 ∨ p = 33 →
        (portActive s p = false → Stays (.twinHeartbeatSend p) s) ∧
        (portActive s p = true → Leads (.twinHeartbeatSend p) s fun t => t.mem = s.mem ∧ t.sent =
          .heartbeat p ⟨ownUid s, role, rd s E.twin_generation, rd s E.step_counter, rd s E.twin_sequence⟩ :: s.sent) ∧
        ∀ h : Heartbeat,
          let n := Instr.twinHeartbeat p h
          let better := rd s E.twin_generation < h.generation ∨
            (h.generation = rd s E.twin_generation ∧ rd s E.twin_sequence < h.sequence)
          let auto := rd s E.twin_auto_reattach = 1 ∧ s.twin.syncing = none
          let heard := fun (t : State) => t.twin.heard = some h ∧ t.twin.heardTime = now s
          (portActive s p = false ∨ h.uid ≠ rd s E.twin_peer_uid → Stays n s) ∧
          (portActive s p = true → h.uid = rd s E.twin_peer_uid →
            (role = 1 → h.role = 1 → better → Leads n s fun t => heard t ∧ rd t E.twin_role = 3 ∧ rd t E.twin_detach_cause = 7 ∧
              t.twin.helloOnly = true) ∧
            (role = 1 → h.role = 1 → ¬better → s.twin.binding = none → Leads n s fun t => heard t ∧ rd t E.twin_role = 1 ∧
              t.twin.lost = false ∧ bit (rd t E.twin_state) 0 = true) ∧
            (role = 3 → rd s E.twin_detach_cause = 6 → h.role = 1 → auto → Leads n s fun t => heard t ∧
              t.twin.syncing = some false) ∧
            (role = 1 → h.role = 3 → auto → Leads n s fun t => heard t ∧ t.twin.syncing = some true))) ∧
      (role = 0 → s.twin.syncing = none → Stays .twinLoss s) ∧
      (role ≠ 0 ∨ s.twin.syncing ≠ none →
        let counts := fun (t : State) => rd t E.twin_heartbeat_miss_count =
          cut E.twin_heartbeat_miss_count (rd s E.twin_heartbeat_miss_count + rd s E.twin_loss_ms)
        (s.twin.syncing = some false → Leads .twinLoss s fun t => counts t ∧ rd t E.twin_role = 3 ∧ rd t E.twin_detach_cause = 6) ∧
        (s.twin.syncing ≠ some false → Leads .twinLoss s fun t => counts t ∧ rd t E.twin_role = role ∧ t.twin.lost = true ∧
          t.twin.syncing = none ∧ (role = 1 → rd t E.twin_detach_cause = 5))))

/-- What a follower does with the leader's records: a mirror takes inputs as they come and compares its digest with the leader's; a
standby stages inputs and deltas and applies them at the commit; a follower whose leader is gone takes the node over
(R622 to R627, R630, R632, R638). -/
def Obligations.TwinFollows : Prop :=
  ∀ (s : State),
    let role := rd s E.twin_role
    let mirror := role = 2 ∧ rd s E.twin_mode = 1
    let standby := role = 2 ∧ rd s E.twin_mode = 2
    let acked := fun (t : State) (n : Nat) => t.sent.head? = some (.yoke 11 n [])
    let detached := fun (n : Instr) (c : Nat) => Leads n s fun t => rd t E.twin_role = 3 ∧ rd t E.twin_detach_cause = c ∧
      t.twin.helloOnly = true
    (∀ n r, (role ≠ 2 → Stays (.inputRecord n r) s) ∧
      (standby → exec (.inputRecord n r) s = .next (emit { s with
        twin := { s.twin with inputs := s.twin.inputs ++ [(n, r)] } } (.yoke 11 n [])))) ∧
    (∀ n a d, mirror → hbmInside s a d.length = true → Leads (.inputRecord n (.bar2 a d)) s fun t =>
      acked t n ∧ rdBytes t a d.length = d ∧ ∀ b, b < a ∨ a + d.length ≤ b → rdByte t b = rdByte s b) ∧
    (∀ n x k r, mirror → x < 32 → k < 8 → rd s E.out_of_service ≠ 1 → ((ownerOf s x).map (scrubbing s)).getD false = false →
      knownOps.contains (bits (recWord r 0) 63 56) = true → Leads (.inputRecord n (.slot x k r)) s fun t => acked t n ∧
        (ringOf t x k).queue.map Taken.record = (ringOf s x k).queue.map Taken.record ++ [r] ∧ t.mem = s.mem) ∧
    (∀ n ds d, role ≠ 2 → Stays (.commitRecord n ds d) s) ∧
    (∀ n ds d e, mirror → s.twin.own = some (n, e) → e ≠ d → Leads (.commitRecord n ds d) s fun t =>
      rd t E.twin_role = 3 ∧ rd t E.twin_detach_cause = 2 ∧ rd t E.td_step = cut E.td_step n ∧
        rd t E.td_leader_digest = cut E.td_leader_digest (leNat d) ∧
        rd t E.td_follower_digest = cut E.td_follower_digest (leNat e) ∧ rd t E.td_count = cut E.td_count (rd s E.td_count + 1)) ∧
    (∀ n ds d, mirror → s.twin.own = some (n, d) → n ≠ rd s E.step_counter → Leads (.commitRecord n ds d) s fun t =>
      acked t n ∧ rd t E.twin_role = 2 ∧ t.twin.own = none ∧ t.twin.commit = none ∧ t.mem = s.mem) ∧
    (∀ n ds d a g, standby → s.twin.deltas = [(a, g)] → a < 2 ^ 38 → Leads (.commitRecord n ds d) s fun t => acked t n ∧
      rdBytes t a g.length = g ∧ rd t E.step_counter = cut E.step_counter (n + 1) ∧
      rd t E.twin_sequence = cut E.twin_sequence n ∧ t.twin.deltas = [] ∧ t.twin.inputs = [] ∧
      t.commitLog = s.commitLog ++ ds.map fun e => ⟨none, e.1, n, e.2 == 0, now s⟩) ∧
    (∀ a d, let total := (s.twin.deltas.map fun e => e.2.length).sum + d.length
      (s.twin.syncing = some false → a < 2 ^ 38 → Leads (.twinDelta a d) s fun t => rdBytes t a d.length = d ∧
        ∀ b, b < a ∨ a + d.length ≤ b → rdByte t b = rdByte s b) ∧
      (s.twin.syncing ≠ some false → ¬standby → Stays (.twinDelta a d) s) ∧
      (s.twin.syncing ≠ some false → standby → rd s E.twin_delta_max_gib * 2 ^ 30 < total → detached (.twinDelta a d) 4) ∧
      (s.twin.syncing ≠ some false → standby → total ≤ rd s E.twin_delta_max_gib * 2 ^ 30 → exec (.twinDelta a d) s =
        .next { s with twin := { s.twin with deltas := s.twin.deltas ++ [(a, d)] } })) ∧
    (role = 2 → detached .twinLagExpiry 3) ∧
    (role = 1 → Leads .twinLagExpiry s fun t => t.twin.lost = true ∧ rd t E.twin_role = 1 ∧ t.mem = s.mem) ∧
    (role ≠ 1 → role ≠ 2 → Stays .twinLagExpiry s) ∧
    (∀ quiet pause,
      let n := Instr.twinTakeover quiet pause
      let alone := role = 2 ∧ s.twin.lost = true ∧ ∃ p < 32, portActive s p = true
      let heard := pathPorts s (rd s E.node_id) ≠ []
      (¬alone → Stays n s) ∧ (alone → heard → detached n 5) ∧
      (alone → ¬heard → quiet < rd s E.step_fabric_diameter + 5 → Stays n s) ∧
      (alone → ¬heard → rd s E.step_fabric_diameter + 5 ≤ quiet → rd s E.twin_mode = 1 ∨ s.twin.inputs = [] → Leads n s fun t =>
        rd t E.twin_role = 1 ∧ rd t E.twin_generation = cut E.twin_generation (rd s E.twin_generation + 1) ∧
        rd t E.twin_takeover_count = cut E.twin_takeover_count (rd s E.twin_takeover_count + 1) ∧
        rd t E.twin_last_takeover_time = cut E.twin_last_takeover_time (now s) ∧
        rd t E.twin_last_pause_us = cut E.twin_last_pause_us pause ∧ t.twin.helloOnly = false)) ∧
    (∀ src flow tseq ty a, (role ≠ 2 → Stays (.answerRecord src flow tseq ty a) s) ∧
      (role = 2 → Leads (.answerRecord src flow tseq ty a) s fun t =>
        t.transport.kept.getLast? = some ⟨src, flow, tseq, ty, a, now s⟩ ∧ t.mem = s.mem ∧ t.sent = s.sent)) ∧
    ∀ c key, c < 800 → (role ≠ 2 → Stays (.noiseKeysRecord c key) s) ∧
      (role = 2 → Leads (.noiseKeysRecord c key) s fun t => Tab.get none t.twin.noise c = some key.toNat ∧
        (∀ j, j ≠ c → Tab.get none t.twin.noise j = Tab.get none s.twin.noise j) ∧ t.cores = s.cores)

/-! ## Power states (R692 to R727) -/

/-- A tick of the power manager: time goes to the next multiple of 25,000; a hot sector's throttle level rises and a cool one's
falls at every tenth tick; a mean above the effective cap raises one sector's cap level, the lowest of those not pinned, and is
counted (R694 to R698, R873). -/
def Obligations.PowerTicks : Prop :=
  ∀ (s : State) (p : PowerSample),
    let n := Instr.powerTick p
    let tick := (now s / 25000 + 1) * 25000
    let limit : Int := 10 * (rd s E.die_throttle_c : Nat)
    let sensor := fun (x : Nat) => p.sectorDc.getD x 0
    let hot := fun (x : Nat) => limit < p.deviceDc ∨ limit < sensor x
    let cool := fun (x : Nat) => p.deviceDc + 20 ≤ limit ∧ sensor x + 20 ≤ limit ∧ cut E.time_count tick % 250000 = 0
    let level := fun (u : State) (x : Nat) => rd u (E.sector_level + x)
    (s.supply.mainOn = false → exec n s = .next (wr s E.time_count tick)) ∧
    (s.supply.mainOn = true → Leads n s fun t => now t = cut E.time_count tick ∧ t.mem = s.mem ∧ t.cores = s.cores ∧
      ∀ x < 32,
        let h := (sector s x).throttle
        (hot x → (sector t x).throttle = if h < 7 then h + 1 else h) ∧
        (¬hot x → cool x → (sector t x).throttle = h - 1) ∧
        (¬hot x → ¬cool x → (sector t x).throttle = h)) ∧
    (s.supply.mainOn = true → p.mean1W ≤ 1850 → p.mean10W ≤ effectiveCap s → effectiveCap s < p.mean10W + 50 → Leads n s fun t =>
      rd t E.cap_event_count = cut E.cap_event_count (rd s E.cap_event_count) ∧ t.power.lowTicks = 0 ∧ ∀ x < 32, (sector t x).cap = (sector s x).cap) ∧
    ∀ v, s.supply.mainOn = true → p.mean1W ≤ 1850 → effectiveCap s < p.mean10W → v < 32 → level s v < 7 →
      bit (rd s E.cap_pinned_sectors) v = false →
      (∀ x < 32, x ≠ v → bit (rd s E.cap_pinned_sectors) x = false → level s v < level s x ∨ (level s x = level s v ∧ x < v)) →
      Leads n s fun t => (sector t v).cap = level s v + 1 ∧ (∀ x < 32, x ≠ v → (sector t x).cap = (sector s x).cap) ∧
        rd t E.cap_event_count = cut E.cap_event_count (rd s E.cap_event_count + 1)

/-- A sleep request is refused by its fields or while another runs, or asks its blocks; each block's answer, and a delay that ends,
lead to a refusal, to an abort, or to the switching of every domain named, in the state that the request asks for
(R699 to R708, R725, R727).

Wakes: a request or a demand makes a domain WAKING, and the end of its wake makes it ON, with its pads released then or by
`pad_release` (R700, R709 to R712, R715, R716, R874). -/
def Obligations.DomainsSleepAndWake : Prop :=
  (∀ (s : State),
      (∀ via others sectors, others < 16 → sectors < 2 ^ 32 → Serves s E.sleep_request →
        let tells := fun (n : Instr) (c : Nat) => Accepts n s E.sleep_request (wr s E.sleep_result c)
        let idle := s.power.byRequest = 0
        let asks := fun (n : Instr) (st oth sec : Nat) => Leads n s fun t => result t = 0 ∧ rd t E.sleep_phase = 1 ∧ t.mem = s.mem ∧
          ∃ e, t.power.entry = some e ∧ e.state = st ∧ e.sectors = sec ∧ e.others = oth ∧
            e.asked = ((((entryDomains st oth sec).filter fun d => domainState s d == 0 || (domainState s d == 2 && st != 1)).flatMap
              (askedBlocks st) ++ if st = 1 then [] else [1]).map fun b => (b, Asked.waiting))
        (sectors = 0 ∨ others ≠ 0 → tells (.sleepSl1 via others sectors) 0x0604) ∧
        (sectors = 0 → tells (.sleepSl2 via others sectors) 0x0604) ∧
        (sectors ≠ 0 → ¬idle → tells (.sleepSl1 via 0 sectors) 0x0605 ∧ tells (.sleepSl2 via others sectors) 0x0605 ∧
          tells (.sleepSl3 via) 0x0605 ∧ tells (.sleepSl4 via) 0x0605 ∧ tells (.sleepWake via others sectors) 0x0605) ∧
        (idle → sectors ≠ 0 → (∃ d < 32, bit sectors d = true ∧ domainState s d = 0) → asks (.sleepSl1 via 0 sectors) 1 0 sectors) ∧
        (idle → sectors ≠ 0 → asks (.sleepSl2 via others sectors) 2 others sectors) ∧
        (idle → asks (.sleepSl3 via) 3 0 (2 ^ 32 - 1) ∧ asks (.sleepSl4 via) 4 0 (2 ^ 32 - 1)) ∧
        (idle → sectors ≠ 0 → (∀ d < 32, bit sectors d = true → domainState s d ≠ 0) → Leads (.sleepSl1 via 0 sectors) s fun t =>
          result t = 0 ∧ rd t E.sleep_phase = 0 ∧ rd t E.sleep_result = 0 ∧
          rd t E.sleep_entry_count = cut E.sleep_entry_count (rd s E.sleep_entry_count + 1))) ∧
      (∀ b a, s.power.entry = none → Stays (.sleepAnswer b a) s ∧ Stays (.sleepDelayExpiry b) s) ∧
      ∀ e b, s.power.entry = some e →
        let was := fun (a : Asked) => (b, a) ∈ e.asked
        let only := (e.asked.filter (·.1 == b)).length = 1
        let reason := blockReason s e b
        let ends := fun (n : Instr) (r kind : Nat) => Leads n s fun t => t.power.entry = none ∧ rd t E.sleep_phase = 0 ∧
          rd t E.sleep_result = (if kind = 2 then 0x0603 else 0x0602) ∧ rd t E.slr_block = cut E.slr_block b ∧
          rd t E.slr_reason = cut E.slr_reason r ∧ rd t E.slr_kind = kind ∧ t.mem = s.mem ∧ t.cores = s.cores ∧
          (∀ d < 40, domainState t d = if domainState s d = 1 then 0 else domainState s d) ∧
          if kind = 2 then rd t E.sleep_aborted_count = cut E.sleep_aborted_count (rd s E.sleep_aborted_count + 1)
          else rd t E.sleep_refused_count = cut E.sleep_refused_count (rd s E.sleep_refused_count + 1)
        let noted := fun (a : Asked) => e.asked.map fun q => if q.1 = b then (b, a) else q
        (e.asked.filter (·.1 == b) = [] → ∀ a, Stays (.sleepAnswer b a) s ∧ Stays (.sleepDelayExpiry b) s) ∧
        (only → was .accepted → ends (.sleepAnswer b .work) 15 2 ∧ Stays (.sleepDelayExpiry b) s) ∧
        (only → ¬was .accepted → ends (.sleepDelayExpiry b) 12 3 ∧ Stays (.sleepAnswer b .work) s) ∧
        (∀ r, only → reason = some (r, false) → ends (.sleepAnswer b .accept) r 1) ∧
        (∀ r, only → reason = none → ends (.sleepAnswer b (.refuse r)) r 1) ∧
        (∀ r, only → reason = some (r, true) → exec (.sleepAnswer b .accept) s = .next { s with
          power := { s.power with entry := some { e with asked := noted (.delayed r) } } }) ∧
        (only → reason = none → (∃ q ∈ e.asked, q.1 ≠ b ∧ q.2 ≠ .accepted) → Leads (.sleepAnswer b .accept) s fun t =>
          t.power.entry = some { e with asked := noted .accepted } ∧ t.mem = s.mem) ∧
        (only → reason = none → (∀ q ∈ e.asked, q.1 ≠ b → q.2 = .accepted) → 1 ≤ e.state → e.state ≤ 4 →
          Leads (.sleepAnswer b .accept) s fun t => t.power.entry = none ∧ rd t E.sleep_phase = 0 ∧ rd t E.sleep_result = 0 ∧
            rd t E.sleep_entry_count = cut E.sleep_entry_count (rd s E.sleep_entry_count + 1) ∧
            (∀ d ∈ entryDomains e.state e.others e.sectors, domainState s d ≤ 1 → domainState t d =
              if e.state = 1 then 2 else if d < 32 then (if e.state = 2 then 3 else 4) else if e.state = 3 ∧ d < 36 then 5 else 4) ∧
            (3 ≤ e.state → t.power.deep = max e.state s.power.deep) ∧ (e.state = 4 → t.supply.mainOn = false ∧ ∀ k < 2 ^ 38, rdByte t k = 0))) ∧
  (∀ (s : State),
      let awake := s.power.entry = none ∧ s.power.deep = 0 ∧ rd s E.out_of_service ≠ 1
      (∀ via others sectors, others < 16 → sectors < 2 ^ 32 → Serves s E.sleep_request → s.power.byRequest = 0 →
        let n := Instr.sleepWake via others sectors
        let doms := (entryDomains 2 others sectors).filter fun d => !domainOn s d
        (doms = [] → Accepts n s E.sleep_request (wr s E.sleep_result 0)) ∧
        (doms ≠ [] → awake → s.supply.mainOn = true → Leads n s fun t => result t = 0 ∧ rd t E.sleep_result = 0x0601 ∧
          (∀ d ∈ doms, domainState s d ≠ 0 → domainState t d = 6) ∧ ∀ d < 40, bit t.power.byRequest.toNat d = decide (d ∈ doms))) ∧
      (∀ d kind, d < 40 →
        let n := Instr.wakeDemand d kind
        (domainOn s d = true → s.power.entry = none → Stays n s) ∧
        (awake → s.supply.mainOn = true → domainState s d ≠ 0 → domainState s d ≠ 6 → Leads n s fun t => domainState t d = 6 ∧
          bit t.power.waking.toNat d = true ∧ ∀ e < 40, e ≠ d → domainState t e = domainState s e) ∧
        (awake → s.supply.mainOn = false → Leads n s fun t => bit t.power.waitMain.toNat d = true ∧ t.dict = s.dict)) ∧
      (∀ d us, d < 40 →
        let n := Instr.domainWakeDone d us
        let due := s.supply.mainOn = true ∧ domainState s d = 6 ∧ bit s.power.padWait.toNat d = false
        let held := bit (rd s E.pad_hold) d = true ∧ rd s E.pad_release_auto = 0
        (¬due → Stays n s) ∧
        (due → held → Leads n s fun t => bit t.power.padWait.toNat d = true ∧ domainState t d = 6) ∧
        (due → ¬held → (∀ a ∈ s.host.stalled, a.domain ≠ d) → Leads n s fun t => domainState t d = 0 ∧
          bit t.power.waking.toNat d = false ∧ bit (rd t E.pad_hold) d = false ∧
          rd t E.wake_count = cut E.wake_count (rd s E.wake_count + 1) ∧
          (d < 32 → bit (rd t E.pacer_lock_status) d = true) ∧
          (s.power.byRequest = BitVec.ofNat 40 (2 ^ d) → rd t E.sleep_result = 0))) ∧
      ∀ via d, d < 40 → Serves s E.pad_release → (∀ a ∈ s.host.stalled, a.domain ≠ d) →
        let n := Instr.padRelease via (leBytes (dictSize E.pad_release) (2 ^ d))
        (bit s.power.padWait.toNat d = false → Accepts n s E.pad_release s) ∧
        (bit s.power.padWait.toNat d = true → Leads n s fun t => result t = 0 ∧ domainState t d = 0 ∧
          bit (rd t E.pad_hold) d = false ∧ bit t.power.padWait.toNat d = false))

/-! ## Security (R728 to R764) -/

/-- The chain of a boot: the boot ROM runs the first image that R731 accepts, of the slot named by `fw_next_slot` and then of
the other (of a slot whose flash nothing has written, the image that the command tells of, by the model's choice, log 5), or
enters the recovery state; when the management processor is ready, windows, keys and translations are clear, the hold-off
stands, and the domains are ON, unless too many resets put the device out of service (R586, R728, R731, R733, R734, R793, R807,
R808). -/
def Obligations.BootChain : Prop :=
  ∀ (s : State),
    (∀ v : BootVerdict,
      let n := Instr.bootVerifyDone v
      let due := rd s E.boot_state = 0 ∧ s.supply.aonHeld = false ∧ s.supply.romOk = true
      let at_ := fun (slot o n : Nat) => rdBytes s (Mem.flash ((if slot = 0 then 0x10000 else 0x1C10000) + o)) n
      let named := fun (slot : Nat) => if slot = 0 then v.slotA else v.slotB
      let bare := fun (slot : Nat) => ∀ b ∈ at_ slot 0 16, b = 0
      let image := fun (slot : Nat) => slotImage s slot (named slot)
      let ok := fun (slot : Nat) =>
        (bare slot → let i := named slot
          i.magicOk = true ∧ i.keyOk = true ∧ i.signatureOk = true ∧ i.sectionsOk = true ∧ i.digestsOk = true ∧
            max (rd s E.svn_floor) (rd s E.svn_min) ≤ i.svn) ∧
        (¬bare slot → ImageSound s (at_ slot) (28 * 2 ^ 20) (named slot))
      let k := rd s E.fw_next_slot % 2
      let extended := fun (t : State) (i : Nat) (d : List Byte) =>
        rd t (E.mr + i) = cut E.mr (leNat (sm3 (leBytes 32 (rd s (E.mr + i)) ++ d)))
      let runs := fun (slot : Nat) (falls : Nat) => let i := image slot; Leads n s fun t => rd t E.boot_state = 2 ∧
        (¬bare slot → rd t E.running_svn = leNat ((at_ slot 6 2)) ∧ rd t E.running_digest = leNat (sm3 (at_ slot 0 4096))) ∧
        rd t E.fw_running_slot = slot ∧ rd t E.running_svn = cut E.running_svn i.svn ∧
        rd t E.running_digest = cut E.running_digest (leNat (i.headerDigest.take 32)) ∧ extended t 0 v.romDigest ∧
        extended t 1 (i.headerDigest.take 32) ∧
        extended t 6 v.fuseDigest ∧ rd t E.boot_fallback_count = cut E.boot_fallback_count (rd s E.boot_fallback_count + falls)
      (¬due → Stays n s) ∧
      (due → rd s E.lifecycle_state = 4 → Leads n s fun t => rd t E.boot_state = 1) ∧
      (due → rd s E.lifecycle_state ≠ 4 → ok k → rd s E.boot_fallback_count < 2 ^ 16 → runs k 0) ∧
      (due → rd s E.lifecycle_state ≠ 4 → ¬ok k → ok (1 - k) → runs (1 - k) 1) ∧
      (due → rd s E.lifecycle_state ≠ 4 → ¬ok k → ¬ok (1 - k) → Leads n s fun t => rd t E.boot_state = 1 ∧
        rd t E.boot_fallback_count = cut E.boot_fallback_count (rd s E.boot_fallback_count + 1))) ∧
    ∀ r : BootReport,
      let n := Instr.bootReady r
      let due := rd s E.boot_state = 2 ∧ s.supply.aonHeld = false ∧ s.save.running = false
      let plain := s.save.restore = false ∧ s.host.stalled = [] ∧ rd s E.out_of_service = 0
      let many := rd s E.escalation_limit ≤ within s s.recovery.escal
      (¬due → Stays n s) ∧
      (due → plain → Leads n s fun t => rd t E.boot_state = 3 ∧ rd t E.boot_count = cut E.boot_count (rd s E.boot_count + 1) ∧
        t.xlat = [] ∧ t.keysets = [] ∧ t.transport.holdoff = true ∧
        (many → rd t E.out_of_service = 1 ∧ ∀ d < 40, domainState t d = 4) ∧
        (¬many → s.supply.mainOn = true → rd t E.out_of_service = 0 ∧ (∀ d < 40, domainState t d = 0) ∧
          rd t E.pacer_lock_status = 2 ^ 32 - 1))

/-- Trust entries change in an authenticated session only, but for an empty anchor list over I3C; `svn_min` never falls and never
passes the running image; a signed token arms the unlock; and a change of an anchor extends MR7 (R729, R733, R739, R742, R743).

The SPDM responder: silent in a save, busy before BOOT_READY and while the entropy source fails, and otherwise it measures,
opens at most eight sessions, authenticates one whose peer's root is anchored, and ends them; while a block or the releases it names change, a measurement,
a challenge or a key exchange may be answered Busy, for at most 5 ms; releases are taken from an
authenticated session with the present measurements, and revoked (R736, R740 to R745, R749, R750, R758). -/
def Obligations.TrustGuards : Prop :=
  (∀ (s : State) (via : Path),
      (∀ token signed, Serves s E.debug_unlock → token.length = 128 →
        let n := Instr.debugUnlock via token signed
        (authentic s via = false → exec n s = .next (ended s E.debug_unlock 6)) ∧
        (authentic s via = true → Leads n s fun t => result t = 0 ∧ rd t E.debug_unlock = leNat token ∧
          t.island.unlock = (signed || s.island.unlock) ∧ rd t E.lifecycle_state = rd s E.lifecycle_state)) ∧
      (∀ v, Serves s E.svn_min → v < 2 ^ 16 →
        let n := Instr.svnMinWrite via (leBytes 2 v)
        let fits := rd s E.svn_min ≤ v ∧ (v = rd s E.svn_min ∨ v ≤ rd s E.running_svn)
        (authentic s via = false → exec n s = .next (ended s E.svn_min 6)) ∧
        (authentic s via = true → ¬fits → exec n s = .next (ended s E.svn_min 4)) ∧
        (authentic s via = true → fits → Accepts n s E.svn_min (wr s E.svn_min v))) ∧
      ∀ i d, i < 4 → Serves s (E.trust_anchor + i) → d.length = 32 →
        let n := Instr.trustAnchorWrite via i d
        let empty := ∀ j < 4, rd s (E.trust_anchor + j) = 0
        let i3c := ∃ a, via = .mctp .i3c a
        let anchor := fun (j : Nat) => if j = i then d else leBytes 32 (rd s (E.trust_anchor + j))
        (authentic s via = false → ¬(empty ∧ i3c) → exec n s = .next (ended s (E.trust_anchor + i) 6)) ∧
        (authentic s via = true ∨ (empty ∧ i3c) → Leads n s fun t => result t = 0 ∧ rd t (E.trust_anchor + i) = leNat d ∧
          rd t (E.mr + 7) = cut E.mr (leNat (sm3 (leBytes 32 (rd s (E.mr + 7)) ++ sm3 ((List.range 4).flatMap anchor)))))) ∧
  (∀ (s : State),
      let silent := s.supply.aonHeld = true ∨ s.save.running = true
      let busy := s.recovery.fullTest.isSome = true ∨ rd s E.boot_state ≠ 3 ∨ s.island.trngFailing = true ∨ rd s E.trng_state = 2
      let busyNow := Host.Outcome.next (emit (wr s E.spdm_last_status 0x0701) (.spdm 3 []))
      let serves := ¬silent ∧ ¬busy ∧ rd s E.lifecycle_state ≠ 4
      let ask := fun (q : SpdmReq) => Instr.spdmRequest q
      let answers := fun (n : Instr) (d : List Byte) => exec n s = .next (emit s (.spdm 0 d))
      let refuses := fun (n : Instr) (e : Nat) => exec n s = .next (emit s (.spdm e []))
      (∀ q, silent → Stays (ask q) s) ∧
      (∀ q, ¬silent → rd s E.lifecycle_state ≠ 4 → busy → s.recovery.fullTest.isSome = true ∨ alwaysServed q = false →
        exec (ask q) s = busyNow) ∧
      (serves →
        let settled := s.island.seen = none ∨ s.island.seen = some (attested s)
        let changes := fun (q : SpdmReq) (served : State → Prop) =>
          (settled → Leads (ask q) s served) ∧
          (¬settled → Leads (ask q) s fun t => served t ∨ (t.sent = .spdm 3 [] :: s.sent ∧ rd t E.spdm_last_status = 0x0701 ∧
            t.sessions = s.sessions ∧ ∀ e, s.island.noticed = some (attested s, e) → now s < e + 125000))
        let gives := fun (q : SpdmReq) (c : Nat) (d : List Byte) => changes q fun t => t.sent = .spdm c d :: s.sent ∧
          t.island.seen = some (attested s) ∧ t.mem = s.mem ∧ t.dict = s.dict ∧ t.sessions = s.sessions
        gives .challenge 0 (leBytes 32 (summary s)) ∧ gives (.getMeasurements 0) 0 [17] ∧
        (∀ b, 1 ≤ b → b ≤ 8 → gives (.getMeasurements b) 0 (leBytes 32 (rd s (E.mr + (b - 1))))) ∧
        (∀ k, 2 < k → refuses (ask (.getCertificate k)) 1) ∧ (∀ c, refuses (ask (.other c)) 7) ∧
        (∀ b, 8 ≤ s.sessions.length → gives (.keyExchange b) 0x0A []) ∧
        (∀ b, s.sessions.length < 8 → changes (.keyExchange b) fun t => ∃ i, (∀ v ∈ s.sessions, v.id ≠ i) ∧ i < 9 ∧
          t.sessions = s.sessions ++ [⟨i, false, b, summary s⟩] ∧
          t.sent = .spdm 0 (leBytes 1 i ++ leBytes 32 (summary s)) :: s.sent ∧
          rd t E.spdm_sessions = cut E.spdm_sessions (s.sessions.length + 1)) ∧
        ∀ i, let known := ∃ v ∈ s.sessions, v.id = i
          (¬known → refuses (ask (.heartbeat i)) 2 ∧ refuses (ask (.keyUpdate i)) 2 ∧ refuses (ask (.endSession i)) 2 ∧
            ∀ d, refuses (ask (.finish i d)) 2) ∧
          (known → answers (ask (.heartbeat i)) [] ∧ answers (ask (.keyUpdate i)) [] ∧
            (Leads (ask (.endSession i)) s fun t => t.sessions = s.sessions.filter (·.id != i)) ∧
            ∀ d, Leads (ask (.finish i d)) s fun t => t.sessions = s.sessions.map fun v =>
              if v.id = i then { v with
                authenticated := v.authenticated ||
                  (leNat d != 0 && (List.range 4).any fun j => rd s (E.trust_anchor + j) == leNat d) } else v)) ∧
      (∀ i p pkg r,
        let release := Instr.keyRelease i r
        let revoke := Instr.keyRevoke i p pkg
        let session := ∃ v ∈ s.sessions, v.id = i ∧ v.authenticated = true
        let measured := (∃ v ∈ s.sessions, v.id = i ∧ v.summary = leNat r.digest) ∧ leNat r.digest = summary s
        let assigned := r.part < 32 ∧ rd s (E.part_state + 256 * r.part) = 1
        let room := s.island.releases.length < 256
        let uses := 1 ≤ r.uses ∧ r.uses ≤ 255
        (silent → Stays release s ∧ Stays revoke s) ∧ (¬silent → busy → exec release s = busyNow ∧ exec revoke s = busyNow) ∧
        (¬silent → ¬busy →
          (uses → ¬session → answers release (leBytes 2 0x0706)) ∧ (uses → session → ¬measured → answers release (leBytes 2 0x0705)) ∧
          (uses → session → measured → ¬assigned → answers release (leBytes 2 0x0704)) ∧
          (uses → session → measured → assigned → ¬room → answers release (leBytes 2 0x0706)) ∧
          (uses → session → measured → assigned → room → Leads release s fun t =>
            t.island.releases = s.island.releases ++ [⟨r.part, r.pkg, r.secret.take 32, r.uses⟩] ∧
            rd t E.releases_held = cut E.releases_held (s.island.releases.length + 1) ∧ t.sent.head? = some (.spdm 0 (leBytes 2 0))) ∧
          (¬session → answers revoke (leBytes 2 0x0706)) ∧
          (session → Leads revoke s fun t => t.island.releases = s.island.releases.filter (fun r => !(r.part == p && r.pkg == pkg)) ∧
            t.sent.head? = some (.spdm 0 (leBytes 2 0))))))

/-- A data package is opened in the order of R751 and ends with the first code that applies, or decrypts; at its end the plaintext
stands at its destination, or zeros with 0x0703 (R747, R748, R751, R752).

Partitions: `part_cmd` assigns a FREE partition whose sectors, share and windows are its own, and scrubs an assigned one, whose
share then reads zero; a scrub ends when its time is over and no job of the partition runs; and the entropy source's failures, passes and
reseeds (R753, R754, R756, R758, R759). -/
def Obligations.PackagesDecrypt : Prop :=
  (∀ (s : State),
      (∀ via, Serves s E.pkg_cmd → rd s E.out_of_service ≠ 1 →
        let n := Instr.pkgDecrypt via
        let p := rd s E.pkg_partition
        let a := rd s E.pkg_addr
        let h := rdBytes s a 256
        let len := leNat ((h.drop 16).take 8)
        let pkg := leNat ((h.drop 8).take 8)
        let inside := inShare s p a 256 = true ∧ inShare s p a (256 + len + 16) = true
        let header := leNat (h.take 2) = 0x5650 ∧ leNat ((h.drop 2).take 1) = 1 ∧ leNat ((h.drop 3).take 1) = 2 ∧
          leNat ((h.drop 4).take 1) = p
        let dest := vaRange s p .firmware .write (rd s E.pkg_dest) len
        let lands := dest.1 = 0 ∧ ∀ e ∈ dest.2, isOutbound e.1 = false
        let fails := fun (c : Nat) => Leads n s fun t => result t = 0 ∧ rd t E.pkg_state = 2 ∧ rd t E.pkg_status = c ∧ t.mem = s.mem
        (rd s E.pkg_state = 1 → exec n s = .next (ended s E.pkg_cmd 4)) ∧
        (rd s E.pkg_state ≠ 1 →
          (¬inside → fails 0x0302) ∧ (inside → ¬header → fails 0x0704) ∧
          (inside → header → (∀ r ∈ s.island.releases, ¬(r.part = p ∧ r.pkg = pkg)) → fails 0x0702) ∧
          ∀ r, inside → header → findRelease s p pkg = some r →
            (contentKey h r.secret = none → fails 0x0703) ∧
            (contentKey h r.secret ≠ none → ¬lands → fails 0x0302) ∧
            ∀ k, contentKey h r.secret = some k → lands → Leads n s fun t => result t = 0 ∧ rd t E.pkg_state = 1 ∧
              rd t E.pkg_status = 0 ∧ t.mem = s.mem ∧ t.island.releases = spend p pkg s.island.releases ∧
              t.island.pkg = some ⟨p, rd s E.pkg_dest, len, pkgPlain s a k⟩)) ∧
      (s.island.pkg = none → Stays .pkgDecryptDone s) ∧
      ∀ j k, s.island.pkg = some j →
        let d := j.plain.getD (List.replicate j.length 0)
        vaRange s j.part (.unit 32) .write j.dest d.length = (0, [(k, j.dest, d.length)]) → k < 2 ^ 38 →
        Leads .pkgDecryptDone s fun t => rd t E.pkg_state = 2 ∧ rd t E.pkg_status = (if j.plain = none then 0x0703 else 0) ∧
          t.island.pkg = none ∧ rdBytes t k d.length = d ∧ ∀ b, b < k ∨ k + d.length ≤ b → rdByte t b = rdByte s b) ∧
  (∀ (s : State),
      (∀ via p twin, p < 32 → Serves s (E.part_cmd + 256 * p) →
        let k := E.part_cmd + 256 * p
        let n := Instr.partAssign via p twin
        let e := fun (key q : Nat) => rd s (key + 256 * q)
        let st := e E.part_state p
        let apart := fun (a n b m : Nat) => n = 0 ∨ m = 0 ∨ a + n ≤ b ∨ b + m ≤ a
        let others := fun (P : Nat → Prop) => ∀ q < 32, q ≠ p → e E.part_state q ≠ 0 → P q
        let sectors := e E.part_sectors p ≠ 0 ∧ others fun q => e E.part_sectors p &&& e E.part_sectors q = 0
        let share := e E.part_hbm_base p % 2 ^ 29 = 0 ∧ e E.part_hbm_bytes p % 2 ^ 29 = 0 ∧ (e E.part_hbm_bytes p = 0 ∨
          (generalArea s (e E.part_hbm_base p) (e E.part_hbm_bytes p) = true ∧
            others fun q => apart (e E.part_hbm_base p) (e E.part_hbm_bytes p) (e E.part_hbm_base q) (e E.part_hbm_bytes q)))
        let windows := e E.part_window_first p + e E.part_window_count p ≤ 1048576 ∧
          others fun q => apart (e E.part_window_first p) (e E.part_window_count p) (e E.part_window_first q) (e E.part_window_count q)
        let may := sectors ∧ share ∧ windows ∧ (twin = true ∨ twinBound s = false)
        let scrubs := fun (m : Instr) (free : Bool) => Leads m s fun t => result t = 0 ∧ rd t (E.part_state + 256 * p) = 2 ∧
          rd t (E.part_status + 256 * p) = 1 ∧ Tab.get none t.island.scrubs p = some ⟨free⟩ ∧
          t.island.releases = s.island.releases.filter (·.part != p) ∧
          ∀ b, e E.part_hbm_base p ≤ b → b < e E.part_hbm_base p + e E.part_hbm_bytes p → rdByte t b = 0
        (authentic s via = false → exec n s = .next (ended s k 6) ∧ exec (.partScrubFree via p) s = .next (ended s k 6) ∧
          exec (.partScrubKeep via p) s = .next (ended s k 6)) ∧
        (authentic s via = true → st ≠ 0 → exec n s = .next (ended s k 4)) ∧
        (authentic s via = true → st = 0 → may → Leads n s fun t => result t = 0 ∧ rd t (E.part_state + 256 * p) = 1 ∧
          rd t (E.part_status + 256 * p) = 2 ∧ t.mem = s.mem) ∧
        (authentic s via = true → st = 0 → ¬may → Leads n s fun t => result t = 0 ∧ rd t (E.part_state + 256 * p) = 0 ∧
          rd t (E.part_status + 256 * p) = 3 ∧ t.mem = s.mem) ∧
        (authentic s via = true → st ≠ 1 → exec (.partScrubFree via p) s = .next (ended s k 4) ∧
          exec (.partScrubKeep via p) s = .next (ended s k 4)) ∧
        (authentic s via = true → st = 1 → scrubs (.partScrubFree via p) true ∧ scrubs (.partScrubKeep via p) false)) ∧
      (∀ p us, p < 32 →
        let n := Instr.scrubEnd p us
        let holds := ∃ j, s.pke.job = some j ∧ j.part = p
        (Tab.get none s.island.scrubs p = none → Stays n s) ∧
        ∀ v, Tab.get none s.island.scrubs p = some v →
          let due := rd s (E.part_state + 256 * p) = 2 ∧ 1000 * rd s E.window_quiet_ms ≤ us ∧ ¬holds
          (¬due → Stays n s) ∧
          (due → Leads n s fun t => rd t (E.part_state + 256 * p) = (if v.free then 0 else 1) ∧ rd t (E.part_status + 256 * p) = 2 ∧
            rd t (E.part_scrub_time_us + 256 * p) = cut (E.part_scrub_time_us + 256 * p) us ∧ Tab.get none t.island.scrubs p = none ∧
            rd t (E.ev_enable + 256 * p) = 0 ∧
            ∀ x ∈ sectorsOf s p, ∀ k < 8, rd t (E.ring_enable + ringAt x k) = 0 ∧ rd t (E.ring_status + ringAt x k) = 0 ∧
              ringOf t x k = Ring.init)) ∧
      (Leads .trngFail s fun t => t.island.trngFailing = true ∧ rd t E.trng_state = 2 ∧
        rd t E.trng_fail_count = cut E.trng_fail_count (rd s E.trng_fail_count + 1) ∧ t.mem = s.mem) ∧
      ((∀ p < 32, rd s (E.nr_status + 256 * p) ≠ 1) → exec .trngSourcePass s =
        .next (wr { s with island := { s.island with trngFailing := false } } E.trng_state 0)) ∧
      ∀ entropy, (s.island.trngFailing = true → Stays (.drbgReseed entropy) s) ∧
        (s.island.trngFailing = false → Leads (.drbgReseed entropy) s fun t => t.island.drbg.requests = 0 ∧
          rd t E.drbg_reseed_count = cut E.drbg_reseed_count (rd s E.drbg_reseed_count + 1) ∧ t.mem = s.mem ∧
          t.island.releases = s.island.releases))

/-! ## The big-number engine (R765 to R788) -/

/-- A job is taken or refused by the checks of R772 in their order, starts when the engine is free and wiped, with its input
registers loaded and every other register zero, and takes the ticks of R778 (R768, R769, R772, R773, R778, R784, R788).

A job's end stores its outputs, or zeros when it failed, and the engine is wiped before the next; a job that ran late or differently
fails with 0x0803, and enough of these take the engine out of service; the self-test puts it back (R776, R777, R779, R782 to R785). -/
def Obligations.PkeJobs : Prop :=
  (∀ (s : State),
      let p := rd s E.pke_job_partition
      let a := rd s E.pke_job_addr
      let i := pkeImage s
      let h := (vaRead s p (.unit (partUnit s p)) a 64).2
      let w := recWord h
      let n := bits (w 0) 47 40
      let reads := fun (at_ len : Nat) => pkeRange s p .read at_ len
      let fields := bits (w 0) 63 48 = 0x424E ∧ 1 ≤ n ∧ n ≤ 16 ∧ bits (w 0) 39 32 = 0 ∧ bits (w 1) 63 32 = 0 ∧
        bits (w 2) 63 48 = 0 ∧ bits (w 3) 63 48 = 0 ∧ w 4 = 0 ∧ w 5 = 0 ∧ w 6 = 0 ∧ bits (w 7) 31 0 = 0 ∧ checkOk h = true
      let words := wordsOf (vaRead s p (.unit (partUnit s p)) (a + 64) (8 * n)).2
      let input := reads (bits (w 2) 47 0) (512 * (maskRegs (bits (w 0) 31 0)).length)
      let output := pkeRange s p .write (bits (w 3) 47 0) (512 * (maskRegs (bits (w 1) 31 0)).length)
      let usable := rd s E.pke_state ≠ 2 ∧ p < 32 ∧ reads a 64 = 0
      (rd s E.pke_state = 2 → i.code = 0x0805) ∧ (rd s E.pke_state ≠ 2 → 32 ≤ p → i.code = 0x0302) ∧
      (rd s E.pke_state ≠ 2 → p < 32 → reads a 64 ≠ 0 → i.code = reads a 64) ∧ (usable → ¬fields → i.code = 0x0804) ∧
      (usable → fields → reads (a + 64) (8 * n) ≠ 0 → i.code = reads (a + 64) (8 * n)) ∧
      (usable → fields → reads (a + 64) (8 * n) = 0 → (∃ v ∈ words, pkeWordOk v = false) → i.code = 0x0804) ∧
      (usable → fields → reads (a + 64) (8 * n) = 0 → (∀ v ∈ words, pkeWordOk v = true) →
        i.code = if input ≠ 0 then input else output) ∧
      (∀ via, Serves s E.pke_job_cmd → rd s E.out_of_service ≠ 1 →
        let m := Instr.pkeJobSubmit via
        let idle := rd s E.pke_job_state ≠ 1 ∧ rd s E.pke_job_state ≠ 2
        (¬idle → exec m s = .next (ended s E.pke_job_cmd 4)) ∧
        (idle → i.code ≠ 0 → Leads m s fun t => result t = 0 ∧ rd t E.pke_job_state = 3 ∧
          rd t E.pke_job_status = cut E.pke_job_status i.code ∧ t.mem = s.mem ∧ t.pke = s.pke) ∧
        (idle → i.code = 0 → Leads m s fun t => result t = 0 ∧ rd t E.pke_job_state = 1 ∧ rd t E.pke_job_status = 0 ∧ t.mem = s.mem ∧
          t.pke = s.pke)) ∧
      (let due := rd s E.pke_job_state = 1 ∧ s.pke.job = none ∧ s.pke.wiping = false ∧ s.pke.testing = false ∧ domainOn s 39 = true
       let ins := maskRegs (bits (recWord i.header 0) 31 0)
       let data := (vaRead s p (.unit (partUnit s p)) (bits (recWord i.header 2) 47 0) (512 * ins.length)).2
       let ticks := fun (v : Nat) =>
         let c := (pkeWord v).2
         match (pkeWord v).1 with
         | 0x01 | 0x02 => 2 * c.w + 8
         | 0x03 => c.w * c.w + 4 * c.w + 16
         | 0x04 => 128 * c.w * (c.w + 2) + 16
         | 0x05 => 128 * c.e * (c.w * c.w + 2 * c.w + 8) + 2 * (c.w * c.w + 4 * c.w + 16)
         | 0x06 => 2 * c.w * c.w + 8 * c.w + 32
         | 0x10 => 4000
         | 0x11 => 3744
         | 0x12 => 216352
         | _ => 192
       (¬due → Stays .pkeJobStart s) ∧
       (due → i.code ≠ 0 → Leads .pkeJobStart s fun t => rd t E.pke_job_state = 3 ∧
         rd t E.pke_job_status = cut E.pke_job_status i.code ∧ t.pke = s.pke ∧ t.mem = s.mem) ∧
       (due → i.code = 0 → Leads .pkeJobStart s fun t => rd t E.pke_job_state = 2 ∧
         rd t E.pke_jobs_count = cut E.pke_jobs_count (rd s E.pke_jobs_count + 1) ∧
         rd t E.pke_job_ticks = cut E.pke_job_ticks (64 + (i.commands.map ticks).sum) ∧
         t.pke.job = some ⟨p, bits (recWord i.header 3) 47 0, bits (recWord i.header 1) 31 0, i.commands, 0, 0, false⟩ ∧
         (∀ j r, ins[j]? = some r → rdBytes t (Mem.pke (512 * r)) 512 = (data.drop (512 * j)).take 512) ∧
         ∀ r < 32, r ∉ ins → rdBytes t (Mem.pke (512 * r)) 512 = List.replicate 512 0))) ∧
  (∀ (s : State),
      (s.pke.job = none → ∀ late m, Stays (.pkeJobEnd late m) s) ∧
      (∀ j, s.pke.job = some j → j.run ≠ j.commands.length → ∀ late m, Stays (.pkeJobEnd late m) s) ∧
      (∀ j k late m, s.pke.job = some j → j.run = j.commands.length →
        let bad := m = true ∨ late ≠ 0
        let good := ¬bad ∧ j.status = 0 ∧ j.scrubbed = false
        let regs := maskRegs j.outMask
        let recent := s.pke.faults.filter fun t => decide (now s < t + 24 * 3600 * 25000000)
        vaRange s j.part (.unit (partUnit s j.part)) .write j.outAddr (512 * regs.length) = (0, [(k, j.outAddr, 512 * regs.length)]) →
        k < 2 ^ 38 → Leads (.pkeJobEnd late m) s fun t => t.pke.job = none ∧ t.pke.wiping = true ∧
          rdBytes t k (512 * regs.length) =
            (if m = true ∨ late ≠ 0 ∨ j.status ≠ 0 ∨ j.scrubbed = true then List.replicate (512 * regs.length) 0
              else regs.flatMap fun r => rdBytes s (Mem.pke (512 * r)) 512) ∧
          rd t E.pke_job_status = cut E.pke_job_status
            (if j.scrubbed = true then 0x0405 else if m = true ∨ late ≠ 0 then 0x0803 else j.status) ∧
          (bad → rd t E.pke_fault_count = cut E.pke_fault_count (rd s E.pke_fault_count + 1) ∧
            rd t E.pke_late_tick_count = cut E.pke_late_tick_count (rd s E.pke_late_tick_count + late) ∧
            (rd s E.pke_fault_limit ≤ recent.length + 1 → rd t E.pke_state = 2)) ∧
          (good → rd t E.pke_state = rd s E.pke_state)) ∧
      (∀ j late m, s.pke.job = some j → j.run = j.commands.length → j.outMask = 0 → Leads (.pkeJobEnd late m) s fun t =>
        t.pke.job = none ∧ t.pke.wiping = true ∧ t.mem = s.mem) ∧
      (s.pke.wiping = false → Stays .pkeWipeDone s) ∧
      (s.pke.wiping = true → Leads .pkeWipeDone s fun t => t.pke.wiping = false ∧ (∀ o < 16384, rdByte t (Mem.pke o) = 0) ∧
        rd t E.pke_job_state = (if rd s E.pke_job_state = 2 then 3 else rd s E.pke_job_state) ∧
        ∀ b, b < Mem.pke 0 ∨ Mem.pke 16384 ≤ b → rdByte t b = rdByte s b) ∧
      (∀ via, Serves s E.pke_selftest_cmd →
        (authentic s via = false → exec (.pkeSelftest via) s = .next (ended s E.pke_selftest_cmd 6)) ∧
        (authentic s via = true → Leads (.pkeSelftest via) s fun t => result t = 0 ∧ rd t E.pke_state = 1 ∧
          rd t E.pke_selftest_status = 1 ∧ t.pke.testing = true ∧ t.mem = s.mem)) ∧
      ∀ passed,
        let due := s.pke.testing = true ∧ s.pke.job = none ∧ s.pke.wiping = false ∧ domainOn s 39 = true
        (¬due → Stays (.pkeSelftestDone passed) s) ∧
        (due → Leads (.pkeSelftestDone passed) s fun t => rd t E.pke_state = (if passed then 0 else 2) ∧
          rd t E.pke_selftest_status = (if passed then 2 else 3) ∧ t.pke.testing = false ∧ t.pke.wiping = true ∧
          t.pke.faults = if passed then [] else s.pke.faults))

/-- The modular commands of the running job, each when it is the next: sum, difference, product, inverse, power and remainder
modulo an odd modulus of w words; an invalid operand makes the destination 0 and the job's status 0x0801, and the job runs on
(R766, R771, R774 to R776). -/
def Obligations.PkeModularArithmetic : Prop :=
  ∀ (s : State) (c : PkeCmd), 2 ≤ c.w → c.w ≤ 64 → c.d < 32 →
    let reg := fun (r n : Nat) => rdNat s (Mem.pke (512 * r)) (8 * n)
    let m := reg c.m c.w
    let a := reg c.a c.w
    let b := reg c.b c.w
    let valid := m % 2 = 1 ∧ 2 ^ (64 * (c.w - 1)) ≤ m
    let next := fun (op : Nat) (j : PkeJob) => s.pke.job = some j ∧ ∃ v, j.commands[j.run]? = some v ∧ pkeWord v = (op, c)
    let gives := fun (n : Instr) (j : PkeJob) (v : Nat) => Leads n s fun t =>
      rdNat t (Mem.pke (512 * c.d)) 512 = v ∧ t.pke.job = some { j with run := j.run + 1 } ∧
        ∀ k, k < Mem.pke (512 * c.d) ∨ Mem.pke (512 * c.d) + 512 ≤ k → rdByte t k = rdByte s k
    let fails := fun (n : Instr) (j : PkeJob) => Leads n s fun t => rdNat t (Mem.pke (512 * c.d)) 512 = 0 ∧
      t.pke.job = some { j with run := j.run + 1, status := if j.status = 0 then 0x0801 else j.status }
    (∀ n op, (n, op) ∈ [(Instr.pkeMadd c, 1), (.pkeMsub c, 2), (.pkeMmul c, 3), (.pkeMinv c, 4), (.pkeMexp c, 5), (.pkeMred c, 6)] →
      ((∀ j, ¬next op j) → Stays n s) ∧ ∀ j, next op j → ¬valid ∨ (op ≠ 6 ∧ m ≤ a) ∨ (op ≤ 3 ∧ m ≤ b) → fails n j) ∧
    (valid → a < m → b < m →
      (∀ j, next 1 j → gives (.pkeMadd c) j ((a + b) % m)) ∧ (∀ j, next 2 j → gives (.pkeMsub c) j ((a + m - b) % m)) ∧
      ∀ j, next 3 j → gives (.pkeMmul c) j (a * b % m)) ∧
    (valid → a < m →
      (∀ j, next 4 j → Nat.gcd a m ≠ 1 → fails (.pkeMinv c) j) ∧
      (∀ j, next 4 j → Nat.gcd a m = 1 → ∃ v, v < m ∧ a * v % m = 1 ∧ gives (.pkeMinv c) j v) ∧
      ∀ j, next 5 j → gives (.pkeMexp c) j (a ^ reg c.b c.e % m)) ∧
    (valid → ∀ j, next 6 j → gives (.pkeMred c) j (reg c.a (2 * c.w) % m))

/-- The point commands of the running job, each when it is the next: a coordinate of p or more fails with 0x0801 and a point off the
curve with 0x0802; the point at infinity is a source of sums and not of `PCHK`; sums with infinity, of opposite points, doublings of
points of order 2 and products by 0 and 1 are as R775 says, and every result is of the curve's formulas (R767, R771, R775). -/
def Obligations.PkePoints : Prop :=
  ∀ (s : State) (c : PkeCmd), c.d < 32 →
    let reg := fun (u : State) (r : Nat) => (rdNat u (Mem.pke (512 * r)) 32, rdNat u (Mem.pke (512 * r + 256)) 32)
    let a := reg s c.a
    let b := reg s c.b
    let k := rdNat s (Mem.pke (512 * c.b)) 32
    let big := fun (q : Point) => sm2P ≤ q.1 ∨ sm2P ≤ q.2
    let on := fun (q : Point) => onCurve q = true
    let source := fun (q : Point) => ¬big q ∧ (q = (0, 0) ∨ on q)
    let next := fun (op : Nat) (j : PkeJob) => s.pke.job = some j ∧ ∃ v, j.commands[j.run]? = some v ∧ pkeWord v = (op, c)
    let ran := fun (t : State) (j : PkeJob) (st : Nat) => t.pke.job = some { j with
      run := j.run + 1, status := if j.status = 0 then st else j.status }
    let gives := fun (n : Instr) (j : PkeJob) (q : Point) => Leads n s fun t => reg t c.d = q ∧ ran t j 0
    let fails := fun (n : Instr) (j : PkeJob) (st : Nat) => Leads n s fun t => reg t c.d = (0, 0) ∧ ran t j st
    (∀ n op, (n, op) ∈ [(Instr.pkePadd c, 0x10), (.pkePdbl c, 0x11), (.pkePmul c, 0x12)] →
      ((∀ j, ¬next op j) → Stays n s) ∧
      ∀ j, next op j → (big a → fails n j 0x0801) ∧ (¬big a → a ≠ (0, 0) → ¬on a → fails n j 0x0802)) ∧
    (∀ j, next 0x10 j → source a →
      (big b → fails (.pkePadd c) j 0x0801) ∧ (¬big b → b ≠ (0, 0) → ¬on b → fails (.pkePadd c) j 0x0802) ∧
      (source b → (a = (0, 0) → gives (.pkePadd c) j b) ∧ (b = (0, 0) → gives (.pkePadd c) j a) ∧
        (a ≠ (0, 0) → b ≠ (0, 0) → a.1 = b.1 → a.2 ≠ b.2 → gives (.pkePadd c) j (0, 0)) ∧ gives (.pkePadd c) j (pointAdd a b))) ∧
    (∀ j, next 0x11 j → source a → (a = (0, 0) ∨ a.2 = 0 → gives (.pkePdbl c) j (0, 0)) ∧ gives (.pkePdbl c) j (pointDouble a)) ∧
    (∀ j, next 0x12 j → source a → (k = 0 → gives (.pkePmul c) j (0, 0)) ∧ (k = 1 → gives (.pkePmul c) j a) ∧
      gives (.pkePmul c) j (pointMul 256 k a)) ∧
    ((∀ j, ¬next 0x13 j) → Stays (.pkePchk c) s) ∧
    ∀ j, next 0x13 j → Leads (.pkePchk c) s fun t => t.mem = s.mem ∧
      ran t j (if sm2P ≤ a.1 ∨ sm2P ≤ a.2 then 0x0801 else if a ≠ (0, 0) ∧ onCurve a = true then 0 else 0x0802)

/-! ## Resets, hangs and recovery (R789 to R823) -/

/-- `reset_cmd`, from an authenticated session only, resets one sector or the device; an AON error or a failed self-check resets it
with kind 0x06, which counts; `oos_reinstate` ends out-of-service with a reset; a full-stop test needs every partition FREE and no
bound twin, and its end is a reset, out of service when it failed (R789 to R791, R794, R808, R810, R816, R820). -/
def Obligations.ResetsRun : Prop :=
  ∀ (s : State),
    (∀ via, Serves s E.reset_cmd →
      (authentic s via = false → exec (.deviceResetCmd via) s = .next (ended s E.reset_cmd 6) ∧
        ∀ x, x < 32 → exec (.sectorResetCmd via x) s = .next (ended s E.reset_cmd 6)) ∧
      (authentic s via = true → (Leads (.deviceResetCmd via) s fun t => result t = 0 ∧ WasReset s t 4 ∧
          t.recovery.escal = s.recovery.escal) ∧
        ∀ x, x < 32 → Leads (.sectorResetCmd via x) s fun t => result t = 0 ∧ domainState t x = 0 ∧
          rd t (E.sector_reset_count + x) = cut E.sector_reset_count (rd s (E.sector_reset_count + x) + 1) ∧
          rd t E.last_reset_kind = 0x10 ∧ rd t E.last_reset_time = cut E.last_reset_time (now s) ∧
          (∀ p < 25, core t (25 * x + p) = Core.init) ∧ (sector t x).landing = [] ∧
          (∀ p < 25, ∀ o < 0x180000, rdByte t (Mem.onchip x p o) = 0) ∧ ∀ o < 0x6C0000, rdByte t (Mem.commons x o) = 0)) ∧
    (∀ a, Leads (.fatalReset a) s fun t => WasReset s t 6 ∧ t.recovery.escal = s.recovery.escal ++ [now s]) ∧
    (∀ via, Serves s E.oos_reinstate →
      let n := Instr.oosReinstate via (leBytes (dictSize E.oos_reinstate) 1)
      (authentic s via = false → exec n s = .next (ended s E.oos_reinstate 6)) ∧
      (authentic s via = true → Leads n s fun t => result t = 0 ∧ WasReset s t 4 ∧ rd t E.out_of_service = 0 ∧ rd t E.oos_cause = 0 ∧
        t.recovery.escal = [])) ∧
    (∀ via n v, (n, v) ∈ [(Instr.fullScanTest via, 1), (.emramMarchTest via, 2), (.sislSelfTest via, 3)] → Serves s E.full_test_cmd →
      let may := (∀ p < 32, rd s (E.part_state + 256 * p) = 0) ∧ (rd s E.twin_role = 0 ∨ rd s E.twin_role = 3)
      (authentic s via = false → exec n s = .next (ended s E.full_test_cmd 6)) ∧
      (authentic s via = true → ¬may → Accepts n s E.full_test_cmd (wr s E.full_test_status 4)) ∧
      (authentic s via = true → may → Leads n s fun t => result t = 0 ∧ t.recovery.fullTest = some v ∧ rd t E.full_test_status = 1 ∧
        (∀ p < 34, portCode t p = 0) ∧ (v = 1 → ∀ c < 800, core t c = Core.init))) ∧
    (s.recovery.fullTest = none → ∀ p, Stays (.fullTestDone p) s) ∧
    ∀ passed, s.recovery.fullTest ≠ none → Leads (.fullTestDone passed) s fun t => WasReset s t 4 ∧ t.recovery.fullTest = none ∧
      (passed = false → rd t E.out_of_service = 1 ∧ rd t E.oos_cause = 3)

/-- A hang is declared of a block whose domain is ON, or of the device, with its name, its alert and its kind, and its crash
record is collected or waits; a record names the units that did not answer, at most 256, without their bytes, and of a sector
that is not ON its domain state alone; when it is written the reset of the hang follows; `crash_read` shows the boot log (R797
to R806, R820). -/
def Obligations.HangsCollect : Prop :=
  ∀ (s : State),
    let kind := fun (x : Nat) => if 2 ≤ within s (Tab.get [] s.recovery.sectorHangs x) then 5 else 0x11
    let declared := fun (n : Instr) (b : Nat) (sec : Option Nat) (hdr : Bool) (k : Nat) => Leads n s fun t =>
      t.recovery.crashes = s.recovery.crashes ++ [⟨b, sec, hdr, now s, k⟩] ∧
      rd t E.hang_count = cut E.hang_count (rd s E.hang_count + 1) ∧ rd t E.last_hang_block = cut E.last_hang_block b ∧
      bit (rd t E.alert_status) 5 = true ∧ t.cores = s.cores ∧
      (s.recovery.crashes = [] → rd t E.crash_state = 1 ∧ rd t E.crash_seq = cut E.crash_seq (rd s E.crash_seq + 1))
    (∀ x, x < 32 →
      (domainOn s x = false → Stays (.hangDeclared (0x100 + x)) s) ∧
      (domainOn s x = true → declared (.hangDeclared (0x100 + x)) (0x100 + x) (some x) false (kind x))) ∧
    declared (.hangDeclared 1) 1 none false 5 ∧ declared (.hangDeclared 2) 2 none true 5 ∧
    (∀ b, blockExists b = true →
      (∀ x, blockSector b = some x → domainOn s x = false → Stays (.stallDetected b) s) ∧
      (∀ x, blockSector b = some x → domainOn s x = true → declared (.stallDetected b) b (some x) false (kind x)) ∧
      (blockSector b = none → b / 256 ≠ 7 → declared (.stallDetected b) b none false 5) ∧
      (b / 256 = 7 → (portCode s (b % 256) < 2 → Stays (.stallDetected b) s) ∧
        (2 ≤ portCode s (b % 256) → Leads (.stallDetected b) s fun t => portCode t (b % 256) = 1))) ∧
    (s.recovery.crashes = [] → ∀ a b, Stays (.crashCollectionDone ⟨a, b⟩) s) ∧
    (∀ c r a b, s.recovery.crashes = c :: r →
      let done := Instr.crashCollectionDone ⟨a, b⟩
      let recorded := fun (t : State) => ∃ v ∈ t.recovery.crashRecs, v.seq = rd s E.crash_seq ∧ v.hang = c ∧ v.noAnswer.length ≤ 256 ∧
        (v.truncated = false → ∀ u, u ∈ v.noAnswer ↔ u ∈ a ∨ u ∈ b) ∧ (c.headerOnly = true → v.parts = []) ∧
        (∀ p ∈ v.parts, p.2.1 ≠ 5 → p.1 ∉ a) ∧ (∀ p ∈ v.parts, p.2.1 = 4 → p.1 ∉ b) ∧
        ∀ x < 32, c.headerOnly = false → (c.sector = none ∨ c.sector = some x) → domainOn s x = false →
          (0x100 + x, 5, 64) ∈ v.parts ∧ (0x100 + x, 2, 2048) ∉ v.parts
      (∀ x, c.sector = some x → x < 32 → c.kind = 0x11 → Leads done s fun t => t.recovery.crashes = r ∧ recorded t ∧
        rd t E.last_reset_kind = 0x11 ∧ domainState t x = 0 ∧ (∀ p < 25, core t (25 * x + p) = Core.init) ∧
        Tab.get [] t.recovery.sectorHangs x = now s :: Tab.get [] s.recovery.sectorHangs x ∧
        (r ≠ [] → rd t E.crash_state = 1)) ∧
      (c.sector = none ∨ c.kind ≠ 0x11 → c.kind < 256 → Leads done s fun t => WasReset s t c.kind ∧ recorded t ∧
        t.recovery.crashes = [] ∧ t.recovery.crashHeld = some (rd s E.crash_seq))) ∧
    ∀ via v, Serves s E.crash_read_offset → v < 2 ^ 32 →
      let n := Instr.crashRead via (leBytes 4 v)
      let slot := rd s E.crash_read_slot
      let size := if slot ≤ 16 then 2097152 else if slot = 0x20 then 4194304 else 0
      (¬(v % 256 = 0 ∧ v < size) → exec n s = .next (ended s E.crash_read_offset 4)) ∧
      (v % 256 = 0 → v < size → Leads n s fun t => result t = 0 ∧ rd t E.crash_read_offset = v ∧ t.mem = s.mem ∧
        (slot = 0x20 → rd t E.crash_read_data = leNat (rdBytes s (Mem.flash (0x3810000 + v)) 256)))

/-- Spare parts: a keeper takes an idle core's place with its core memory and attributes, the slot it leaves is tested, and a slot that
fails is marked; a mesh link is detoured on command or after too many repeats, unless its path crosses a detour, and is tested and
restored (R811 to R815, R820, R822, R823, R866).

Noise replay: an arm needs an auditor key, no running core and a healthy source, draws a seed and seals a record; a load opens a
replay package; an erase returns to fresh noise. Histograms clear, freeze and resume, and a bandwidth window's counts are written
(R837, R839 to R841, R850, R851, R855, R758). -/
def Obligations.KeepersAndHistory : Prop :=
  (∀ (s : State),
      let clean := fun (x : Nat) => ((List.range 25).map (slotOf s x)).Nodup ∧ ∀ p < 25, slotOf s x p < 28
      (∀ via, Serves s E.keeper_cmd →
        (authentic s via = false → (∀ c, c < 800 → exec (.keeperSwap via c) s = .next (ended s E.keeper_cmd 6)) ∧
          ∀ x t, x < 32 → t < 32 → exec (.keeperSelftest via x t) s = .next (ended s E.keeper_cmd 6)) ∧
        (authentic s via = true →
          (∀ c, c < 800 →
            let n := Instr.keeperSwap via c
            let x := c / 25
            let p := c % 25
            (coreSwapRefused s c = true → Accepts n s E.keeper_cmd (wr s E.keeper_status 4)) ∧
            (coreSwapRefused s c = false → freeKeeper s x = none → Accepts n s E.keeper_cmd (wr s E.keeper_status 5)) ∧
            ∀ k, coreSwapRefused s c = false → freeKeeper s x = some k → Leads n s fun t => result t = 0 ∧ rd t E.keeper_status = 2 ∧
              slotOf t x p = k ∧ (∀ q < 25, q ≠ p → slotOf t x q = slotOf s x q) ∧
              rd t (E.keepers_free + x) = cut E.keepers_free (rd s (E.keepers_free + x) - 1) ∧
              t.recovery.keeper = some (x, slotOf s x p, some c) ∧ (core t c).cmAttr = (core s c).cmAttr ∧
              (∀ o < 0x180000, rdByte t (Mem.cm c o) = rdByte s (Mem.cm c o)) ∧ ∀ d < 800, d ≠ c → core t d = core s d) ∧
          ∀ x k, x < 32 → k < 32 →
            let n := Instr.keeperSelftest via x k
            let held := ∃ p < 25, slotOf s x p = k
            (28 ≤ k ∨ held → Accepts n s E.keeper_cmd (wr s E.keeper_status 7)) ∧
            (k < 28 → ¬held → Accepts n s E.keeper_cmd
              (wr { s with recovery := { s.recovery with keeper := some (x, k, none) } } E.keeper_status 2)))) ∧
      (∀ x k passed, x < 32 → k < 28 →
        let n := Instr.keeperSelftestDone x k passed
        ((∀ c, s.recovery.keeper ≠ some (x, k, c)) → Stays n s) ∧
        ∀ c, s.recovery.keeper = some (x, k, c) → clean x → (∀ p < 25, slotOf s x p ≠ k) → Leads n s fun t =>
          t.recovery.keeper = none ∧ rd t E.keeper_status = (if passed then 3 else 6) ∧ slotFailed t x k = !passed ∧
          (∀ p < 25, slotOf t x p = slotOf s x p) ∧ t.cores = s.cores ∧ t.mem = s.mem) ∧
      (∀ k, k < 52 →
        let path := detourPath k
        let crosses := ∃ j ∈ path, bit (rd s E.mesh_detoured) j = true
        let out := bit (rd s E.mesh_detoured) k = true
        let map := fun (t : State) (b : Bool) => bit (rd t E.mesh_detoured) k = b ∧
          ∀ j < 52, j ≠ k → bit (rd t E.mesh_detoured) j = bit (rd s E.mesh_detoured) j
        let recent := (Tab.get [] s.recovery.meshRepeats k).filter fun u => decide (now s < u + 25000000)
        (∀ via, Serves s E.mesh_link_cmd →
          (authentic s via = false → exec (.meshDetour via k) s = .next (ended s E.mesh_link_cmd 6) ∧
            exec (.meshLinkTest via k) s = .next (ended s E.mesh_link_cmd 6) ∧
            exec (.meshLinkRestore via k) s = .next (ended s E.mesh_link_cmd 6)) ∧
          (authentic s via = true →
            (crosses → Accepts (.meshDetour via k) s E.mesh_link_cmd (wr s E.mesh_link_status 5)) ∧
            (¬crosses → Leads (.meshDetour via k) s fun t => result t = 0 ∧ rd t E.mesh_link_status = 2 ∧ map t true) ∧
            (¬out → Accepts (.meshLinkTest via k) s E.mesh_link_cmd (wr s E.mesh_link_status 5) ∧
              Accepts (.meshLinkRestore via k) s E.mesh_link_cmd (wr s E.mesh_link_status 5)) ∧
            (out → (Leads (.meshLinkTest via k) s fun t => result t = 0 ∧ rd t E.mesh_link_status = 1 ∧
                t.recovery.meshTest = some k ∧ map t true) ∧
              Leads (.meshLinkRestore via k) s fun t => result t = 0 ∧ rd t E.mesh_link_status = 2 ∧ map t false))) ∧
        (recent.length + 1 < rd s E.mesh_detour_threshold → exec (.meshLinkRepeat k) s = .next { s with
          recovery := { s.recovery with meshRepeats := Tab.set [] s.recovery.meshRepeats k (now s :: recent) } }) ∧
        (rd s E.mesh_detour_threshold ≤ recent.length + 1 → ¬out → ¬crosses → Leads (.meshLinkRepeat k) s fun t =>
          rd t E.mesh_link_status = 2 ∧ map t true ∧ Tab.get [] t.recovery.meshRepeats k = [])) ∧
      (∀ passed, (s.recovery.meshTest = none → Stays (.meshLinkTestDone passed) s) ∧
        (s.recovery.meshTest ≠ none → exec (.meshLinkTestDone passed) s = .next
          (wr { s with recovery := { s.recovery with meshTest := none } } E.mesh_link_status (if passed then 3 else 4))))) ∧
  (∀ (s : State),
      (∀ via p, p < 32 → Serves s (E.nr_cmd + 256 * p) →
        let k := E.nr_cmd + 256 * p
        let arm := Instr.nrArm via p
        let load := Instr.nrLoad via p
        let erase := Instr.nrErase via p
        let status := fun (t : State) => rd t (E.nr_status + 256 * p)
        let mode := fun (t : State) => rd t (E.nr_mode + 256 * p)
        let runs := partRuns s p = true
        let keyed := rd s (E.nr_auditor_key + 256 * p) ≠ 0
        let failing := s.island.trngFailing = true ∨ rd s E.trng_state = 2
        let tells := fun (n : Instr) (c : Nat) => Leads n s fun t => result t = 0 ∧ status t = c ∧ mode t = mode s ∧
          t.replays = s.replays ∧ t.mem = s.mem
        let package := openPackage s p 3 (rd s (E.nr_pkg_addr + 256 * p))
        let seed := pkgPlain s (rd s (E.nr_pkg_addr + 256 * p)) package.2.2
        (authentic s via = false → exec arm s = .next (ended s k 6) ∧ exec load s = .next (ended s k 6) ∧
          exec erase s = .next (ended s k 6)) ∧
        (authentic s via = true →
          (¬keyed → tells arm 3) ∧ (keyed → runs → tells arm 4) ∧ (runs → tells load 4 ∧ tells erase 4) ∧
          (keyed → ¬runs → failing → tells arm 1) ∧
          (keyed → ¬runs → ¬failing → Leads arm s fun t => result t = 0 ∧ status t = 2 ∧ mode t = 1 ∧
            rd t (E.nr_starts + 256 * p) = 0 ∧ t.mem = s.mem ∧
            ∃ d, d.length = 32 ∧ Tab.get none t.replays p = some ⟨d, []⟩) ∧
          (¬runs → Leads erase s fun t => result t = 0 ∧ status t = 2 ∧ mode t = 0 ∧ Tab.get none t.replays p = none) ∧
          (¬runs → package.2.1 ≠ 0 → Leads load s fun t => result t = 0 ∧ status t = 5 ∧ mode t = mode s ∧ t.replays = s.replays ∧
            rd t (E.nr_pkg_status + 256 * p) = cut (E.nr_pkg_status + 256 * p) package.2.1) ∧
          (¬runs → package.2.1 = 0 → seed = none → Leads load s fun t => result t = 0 ∧ status t = 5 ∧ t.replays = s.replays ∧
            rd t (E.nr_pkg_status + 256 * p) = 0x0703) ∧
          ∀ b, ¬runs → package.2.1 = 0 → seed = some b → b.length = 40 → Leads load s fun t => result t = 0 ∧ status t = 2 ∧
            mode t = 2 ∧ rd t (E.nr_pkg_status + 256 * p) = 0 ∧ rd t (E.nr_starts + 256 * p) = 0 ∧
            rd t (E.nr_record_id + 256 * p) = cut (E.nr_record_id + 256 * p) (leNat (b.drop 32)) ∧
            Tab.get none t.replays p = some ⟨b.take 32, []⟩)) ∧
      (∀ via, Serves s E.hist_cmd →
        (Leads (.histClear via) s fun t => result t = 0 ∧ (∀ x < 32, ∀ i < 64, rd t (E.lat_hist + 256 * x + i) = 0) ∧
          rd t E.hist_frozen = rd s E.hist_frozen ∧ t.mem = s.mem) ∧
        Accepts (.histFreeze via) s E.hist_cmd (wr s E.hist_frozen 1) ∧ Accepts (.histResume via) s E.hist_cmd (wr s E.hist_frozen 0)) ∧
      ∀ tx rx, Leads (.bwWindowEnd tx rx) s fun t => rd t E.bw_window_end = cut E.bw_window_end (now s) ∧ t.mem = s.mem ∧
        ∀ i < 0x67, rd t (E.bw_tx_bytes + i) = cut E.bw_tx_bytes (tx.getD i 0) ∧
          rd t (E.bw_rx_bytes + i) = cut E.bw_rx_bytes (rx.getD i 0))
end

