-- ==== Sys2Proof/Laws/Tab.lean ====
section
/-! SUPPORT. What reading, writing and clearing a sparse table do, and that they keep its canonical form. -/

namespace Sys2Proof.Machine.Tab

variable {α : Type}

/-! ## Reads after writes -/

theorem find?_insert_same (t : Tab α) (k : Nat) (v : α) : find? (insert t k v) k = some v := by
  induction t with
  | nil => simp [insert, find?]
  | cons e t ih =>
    simp only [insert]
    split
    · simp [find?]
    · split <;> simp [find?, *]

theorem find?_insert_other {k j : Nat} (hj : j ≠ k) (v : α) : ∀ t : Tab α, find? (insert t k v) j = find? t j := by
  intro t
  induction t with
  | nil => simp [insert, find?, Ne.symm hj]
  | cons e t ih =>
    simp only [insert]
    split
    · rename_i h
      simp [find?, h, Ne.symm hj]
    · split
      · simp [find?, Ne.symm hj]
      · simp [find?, ih]

theorem find?_erase_same (t : Tab α) (k : Nat) : find? (erase t k) k = none := by
  induction t with
  | nil => rfl
  | cons e t ih =>
    simp only [erase]
    split
    · exact ih
    · simp [find?, *]

theorem find?_erase_other {k j : Nat} (hj : j ≠ k) : ∀ t : Tab α, find? (erase t k) j = find? t j := by
  intro t
  induction t with
  | nil => rfl
  | cons e t ih =>
    simp only [erase]
    split
    · rename_i h
      simp [find?, h, Ne.symm hj, ih]
    · simp [find?, ih]

/-- Reading the key just written gives the value written. -/
@[simp] theorem get_set_same [DecidableEq α] (d : α) (t : Tab α) (k : Nat) (v : α) : get d (set d t k v) k = v := by
  unfold get set
  split
  · rename_i hv
    rw [find?_erase_same]; simp [hv]
  · rw [find?_insert_same]; rfl

/-- A write leaves every other key as it was. -/
theorem get_set_other [DecidableEq α] {k j : Nat} (hj : j ≠ k) (e d : α) (t : Tab α) (v : α) :
    get e (set d t k v) j = get e t j := by
  unfold get set
  split
  · rw [find?_erase_other hj]
  · rw [find?_insert_other hj]

theorem find?_filter (p : Nat → Bool) (j : Nat) : ∀ t : Tab α,
    find? (t.filter fun e => p e.1) j = if p j then find? t j else none := by
  intro t
  induction t with
  | nil => simp [find?]
  | cons e t ih =>
    rw [List.filter_cons]
    by_cases hk : e.1 = j
    · by_cases hp : p j
      · simp [hk, hp, find?]
      · simp [hk, hp, ih]
    · split <;> simp [find?, hk, ih]

/-- After clearing a range, its keys read as unlisted keys do, and every other key as it did. -/
theorem get_clear (e : α) (t : Tab α) (lo hi k : Nat) :
    get e (clear t lo hi) k = if lo ≤ k ∧ k < hi then e else get e t k := by
  unfold get clear
  rw [find?_filter (fun j => decide (j < lo) || decide (hi ≤ j))]
  by_cases h : lo ≤ k ∧ k < hi
  · have hn : ¬(k < lo ∨ hi ≤ k) := by omega
    simp [h, hn]
  · rw [if_neg h, if_pos]
    simp only [Bool.or_eq_true, decide_eq_true_eq]
    omega

/-! ## The canonical form -/

/-- Keys strictly rising, each above b when b is given. -/
def Rising : Option Nat → Tab α → Prop
  | _, [] => True
  | b, (k, _) :: t => (∀ m, b = some m → m < k) ∧ Rising (some k) t

theorem Rising.weaken {b c : Option Nat} {t : Tab α} (h : Rising b t)
    (hc : ∀ m, c = some m → ∃ n, b = some n ∧ m ≤ n) : Rising c t := by
  cases t with
  | nil => trivial
  | cons e t =>
    refine ⟨fun m hm => ?_, h.2⟩
    obtain ⟨n, hn, hle⟩ := hc m hm
    exact lt_of_le_of_lt hle (h.1 n hn)

theorem Rising.none {b : Option Nat} {t : Tab α} (h : Rising b t) : Rising none t :=
  h.weaken (by simp)

theorem Rising.mem_lt {b : Nat} : ∀ {t : Tab α}, Rising (some b) t → ∀ {e : Nat × α}, e ∈ t → b < e.1 := by
  intro t
  induction t generalizing b with
  | nil => intro _ e he; cases he
  | cons f t ih =>
    intro h e he
    rcases List.mem_cons.1 he with he | he
    · exact he ▸ h.1 b rfl
    · exact lt_trans (h.1 b rfl) (ih h.2 he)

theorem filter_rising (p : Nat × α → Bool) : ∀ {b : Option Nat} {t : Tab α}, Rising b t → Rising b (t.filter p) := by
  intro b t
  induction t generalizing b with
  | nil => intro _; trivial
  | cons e t ih =>
    intro h
    rw [List.filter_cons]
    split
    · exact ⟨h.1, ih h.2⟩
    · exact ih (h.2.weaken (fun m hm => ⟨e.1, rfl, le_of_lt (h.1 m hm)⟩))

theorem erase_eq_filter (t : Tab α) (k : Nat) : erase t k = t.filter (fun e => decide (e.1 ≠ k)) := by
  induction t with
  | nil => rfl
  | cons e t ih => by_cases h : e.1 = k <;> simp [erase, h, ih]

theorem insert_rising (k : Nat) (v : α) : ∀ {b : Option Nat} {t : Tab α}, Rising b t → (∀ m, b = some m → m < k) →
    Rising b (insert t k v) := by
  intro b t
  induction t generalizing b with
  | nil => intro _ hb; exact ⟨hb, trivial⟩
  | cons e t ih =>
    intro h hb
    simp only [insert]
    split
    · rename_i he
      exact ⟨hb, he ▸ h.2⟩
    · split
      · rename_i h1 h2
        exact ⟨hb, fun m hm => by cases hm; exact h2, h.2⟩
      · rename_i h1 h2
        exact ⟨h.1, ih h.2 (fun m hm => by cases hm; omega)⟩

/-- The canonical form in terms of its two halves. -/
theorem wf_iff [DecidableEq α] (d : Nat → α) (t : Tab α) :
    wf d t = true ↔ Rising none t ∧ ∀ k v, (k, v) ∈ t → v ≠ d k := by
  suffices H : ∀ (t : Tab α), wf d t = true ↔ Rising none t ∧ ∀ k v, (k, v) ∈ t → v ≠ d k from H t
  intro t
  induction t with
  | nil => simp [wf, Rising]
  | cons e t ih =>
    cases t with
    | nil =>
      obtain ⟨k, v⟩ := e
      simp [wf, Rising]
    | cons f t =>
      obtain ⟨k, v⟩ := e
      obtain ⟨j, w⟩ := f
      rw [wf, Bool.and_eq_true, Bool.and_eq_true, ih]
      constructor
      · rintro ⟨⟨h1, h2⟩, h3, h4⟩
        refine ⟨⟨by simp, ⟨fun m hm => by cases hm; simpa using h2, h3.2⟩⟩, ?_⟩
        intro a b hab
        rcases List.mem_cons.1 hab with h | h
        · cases h; simpa using h1
        · exact h4 a b h
      · rintro ⟨⟨_, h2⟩, h3⟩
        exact ⟨⟨by simpa using h3 k v (by simp), by simpa using h2.1 k rfl⟩,
          h2.none, fun a b hab => h3 a b (List.mem_cons_of_mem _ hab)⟩

theorem mem_insert {k : Nat} {v : α} : ∀ {t : Tab α} {e : Nat × α}, e ∈ insert t k v → e = (k, v) ∨ e ∈ t := by
  intro t
  induction t with
  | nil => intro e h; simpa [insert] using h
  | cons f t ih =>
    intro e h
    simp only [insert] at h
    split at h
    · rcases List.mem_cons.1 h with h | h
      · exact Or.inl h
      · exact Or.inr (List.mem_cons_of_mem _ h)
    · split at h
      · rcases List.mem_cons.1 h with h | h
        · exact Or.inl h
        · exact Or.inr h
      · rcases List.mem_cons.1 h with h | h
        · exact Or.inr (h ▸ List.mem_cons_self)
        · rcases ih h with h | h
          · exact Or.inl h
          · exact Or.inr (List.mem_cons_of_mem _ h)

/-- A filter keeps the canonical form. -/
theorem filter_wf [DecidableEq α] {d : Nat → α} {t : Tab α} (p : Nat × α → Bool) (h : wf d t = true) :
    wf d (t.filter p) = true := by
  rw [wf_iff] at h ⊢
  exact ⟨filter_rising p h.1, fun a b hab => h.2 a b (List.mem_filter.1 hab).1⟩

/-- A write keeps the canonical form, when it is given what its key reads as unlisted. -/
theorem set_wf [DecidableEq α] {d : Nat → α} {t : Tab α} (h : wf d t = true) (k : Nat) (v : α) :
    wf d (set (d k) t k v) = true := by
  unfold set
  split
  · rw [erase_eq_filter]; exact filter_wf _ h
  · rename_i hv
    rw [wf_iff] at h ⊢
    refine ⟨insert_rising k v h.1 (by simp), fun a b hab => ?_⟩
    rcases mem_insert hab with h' | h'
    · cases h'; exact hv
    · exact h.2 a b h'

/-- Clearing a range keeps the canonical form. -/
theorem clear_wf [DecidableEq α] {d : Nat → α} {t : Tab α} (h : wf d t = true) (lo hi : Nat) :
    wf d (clear t lo hi) = true := filter_wf _ h

theorem find?_none_of_lt {b : Nat} {t : Tab α} (h : Rising (some b) t) {k : Nat} (hk : k ≤ b) : find? t k = none := by
  induction t generalizing b with
  | nil => rfl
  | cons e t ih =>
    have h1 := h.1 b rfl
    simp only [find?]
    rw [if_neg (by omega)]
    exact ih h.2 (by omega)

/-- Two tables in canonical form that read alike are equal. -/
theorem ext_of_wf [DecidableEq α] {d : Nat → α} : ∀ {t u : Tab α}, wf d t = true → wf d u = true →
    (∀ k, get (d k) t k = get (d k) u k) → t = u := by
  intro t
  induction t with
  | nil =>
    intro u _ hu h
    cases u with
    | nil => rfl
    | cons f u =>
      obtain ⟨_, hn⟩ := (wf_iff d _).1 hu
      have := h f.1
      simp only [get, find?, if_pos] at this
      exact absurd this.symm (hn f.1 f.2 List.mem_cons_self)
  | cons e t ih =>
    intro u ht hu h
    obtain ⟨hr, hn⟩ := (wf_iff d _).1 ht
    cases u with
    | nil =>
      have := h e.1
      simp only [get, find?, if_pos] at this
      exact absurd this (hn e.1 e.2 List.mem_cons_self)
    | cons f u =>
      obtain ⟨hr', hn'⟩ := (wf_iff d _).1 hu
      have hk : e.1 = f.1 := by
        rcases lt_trichotomy e.1 f.1 with hl | hl | hl
        · have := h e.1
          have hx : find? (f :: u) e.1 = none := by
            simp only [find?]; rw [if_neg (by omega)]; exact find?_none_of_lt hr'.2 (by omega)
          rw [get, get, hx] at this
          simp only [find?, if_pos] at this
          exact absurd this (hn e.1 e.2 List.mem_cons_self)
        · exact hl
        · have := h f.1
          have hx : find? (e :: t) f.1 = none := by
            simp only [find?]; rw [if_neg (by omega)]; exact find?_none_of_lt hr.2 (by omega)
          rw [get, get, hx] at this
          simp only [find?, if_pos] at this
          exact absurd this.symm (hn' f.1 f.2 List.mem_cons_self)
      have hv : e.2 = f.2 := by
        have := h e.1
        simpa [get, find?, hk] using this
      have htl : wf d t = true := (wf_iff d _).2 ⟨hr.2.none, fun a b hab => hn a b (List.mem_cons_of_mem _ hab)⟩
      have hul : wf d u = true := (wf_iff d _).2 ⟨hr'.2.none, fun a b hab => hn' a b (List.mem_cons_of_mem _ hab)⟩
      have : t = u := by
        apply ih htl hul
        intro k
        by_cases hkk : k ≤ e.1
        · rw [get, get, find?_none_of_lt hr.2 hkk, find?_none_of_lt hr'.2 (by omega)]
        · have := h k
          have e1 : find? (e :: t) k = find? t k := by simp only [find?]; rw [if_neg (by omega)]
          have e2 : find? (f :: u) k = find? u k := by simp only [find?]; rw [if_neg (by omega)]
          rw [get, get, e1, e2] at this
          exact this
      rw [this, Prod.ext hk hv]

end Sys2Proof.Machine.Tab
end

