-- ==== Sys2Proof/Laws/State.lean ====
section
/-! SUPPORT. What the named updates of the machine leave as it was: one lemma for each field and update, each true by
unfolding. -/

namespace Sys2Proof.Machine

open Sys2Proof

variable (s : State)

/-! ## `wr` -/

@[simp] theorem wr_mem (k v : Nat) : (wr s k v).mem = s.mem := rfl
@[simp] theorem wr_poison (k v : Nat) : (wr s k v).poison = s.poison := rfl
@[simp] theorem wr_flips (k v : Nat) : (wr s k v).flips = s.flips := rfl
@[simp] theorem wr_pins (k v : Nat) : (wr s k v).pins = s.pins := rfl
@[simp] theorem wr_supply (k v : Nat) : (wr s k v).supply = s.supply := rfl
@[simp] theorem wr_save (k v : Nat) : (wr s k v).save = s.save := rfl
@[simp] theorem wr_host (k v : Nat) : (wr s k v).host = s.host := rfl
@[simp] theorem wr_power (k v : Nat) : (wr s k v).power = s.power := rfl
@[simp] theorem wr_sectors (k v : Nat) : (wr s k v).sectors = s.sectors := rfl
@[simp] theorem wr_cores (k v : Nat) : (wr s k v).cores = s.cores := rfl
@[simp] theorem wr_xlat (k v : Nat) : (wr s k v).xlat = s.xlat := rfl
@[simp] theorem wr_groups (k v : Nat) : (wr s k v).groups = s.groups := rfl
@[simp] theorem wr_resolved (k v : Nat) : (wr s k v).resolved = s.resolved := rfl
@[simp] theorem wr_commitLog (k v : Nat) : (wr s k v).commitLog = s.commitLog := rfl
@[simp] theorem wr_keysets (k v : Nat) : (wr s k v).keysets = s.keysets := rfl
@[simp] theorem wr_laces (k v : Nat) : (wr s k v).laces = s.laces := rfl
@[simp] theorem wr_handles (k v : Nat) : (wr s k v).handles = s.handles := rfl
@[simp] theorem wr_windows (k v : Nat) : (wr s k v).windows = s.windows := rfl
@[simp] theorem wr_transport (k v : Nat) : (wr s k v).transport = s.transport := rfl
@[simp] theorem wr_step (k v : Nat) : (wr s k v).step = s.step := rfl
@[simp] theorem wr_ports (k v : Nat) : (wr s k v).ports = s.ports := rfl
@[simp] theorem wr_routes (k v : Nat) : (wr s k v).routes = s.routes := rfl
@[simp] theorem wr_paths (k v : Nat) : (wr s k v).paths = s.paths := rfl
@[simp] theorem wr_twin (k v : Nat) : (wr s k v).twin = s.twin := rfl
@[simp] theorem wr_island (k v : Nat) : (wr s k v).island = s.island := rfl
@[simp] theorem wr_replays (k v : Nat) : (wr s k v).replays = s.replays := rfl
@[simp] theorem wr_det (k v : Nat) : (wr s k v).det = s.det := rfl
@[simp] theorem wr_pke (k v : Nat) : (wr s k v).pke = s.pke := rfl
@[simp] theorem wr_hbm (k v : Nat) : (wr s k v).hbm = s.hbm := rfl
@[simp] theorem wr_recovery (k v : Nat) : (wr s k v).recovery = s.recovery := rfl
@[simp] theorem wr_sessions (k v : Nat) : (wr s k v).sessions = s.sessions := rfl
@[simp] theorem wr_sent (k v : Nat) : (wr s k v).sent = s.sent := rfl
@[simp] theorem wr_arrivals (k v : Nat) : (wr s k v).arrivals = s.arrivals := rfl
@[simp] theorem wr_freeCtr (k v : Nat) : (wr s k v).freeCtr = s.freeCtr := rfl
@[simp] theorem wr_pending (k v : Nat) : (wr s k v).pending = s.pending := rfl

/-! ## `wrBytes` -/

@[simp] theorem wrBytes_dict (k : Nat) (d : List Byte) : (wrBytes s k d).dict = s.dict := rfl
@[simp] theorem wrBytes_pins (k : Nat) (d : List Byte) : (wrBytes s k d).pins = s.pins := rfl
@[simp] theorem wrBytes_supply (k : Nat) (d : List Byte) : (wrBytes s k d).supply = s.supply := rfl
@[simp] theorem wrBytes_save (k : Nat) (d : List Byte) : (wrBytes s k d).save = s.save := rfl
@[simp] theorem wrBytes_host (k : Nat) (d : List Byte) : (wrBytes s k d).host = s.host := rfl
@[simp] theorem wrBytes_power (k : Nat) (d : List Byte) : (wrBytes s k d).power = s.power := rfl
@[simp] theorem wrBytes_sectors (k : Nat) (d : List Byte) : (wrBytes s k d).sectors = s.sectors := rfl
@[simp] theorem wrBytes_cores (k : Nat) (d : List Byte) : (wrBytes s k d).cores = s.cores := rfl
@[simp] theorem wrBytes_xlat (k : Nat) (d : List Byte) : (wrBytes s k d).xlat = s.xlat := rfl
@[simp] theorem wrBytes_groups (k : Nat) (d : List Byte) : (wrBytes s k d).groups = s.groups := rfl
@[simp] theorem wrBytes_resolved (k : Nat) (d : List Byte) : (wrBytes s k d).resolved = s.resolved := rfl
@[simp] theorem wrBytes_commitLog (k : Nat) (d : List Byte) : (wrBytes s k d).commitLog = s.commitLog := rfl
@[simp] theorem wrBytes_keysets (k : Nat) (d : List Byte) : (wrBytes s k d).keysets = s.keysets := rfl
@[simp] theorem wrBytes_laces (k : Nat) (d : List Byte) : (wrBytes s k d).laces = s.laces := rfl
@[simp] theorem wrBytes_handles (k : Nat) (d : List Byte) : (wrBytes s k d).handles = s.handles := rfl
@[simp] theorem wrBytes_windows (k : Nat) (d : List Byte) : (wrBytes s k d).windows = s.windows := rfl
@[simp] theorem wrBytes_transport (k : Nat) (d : List Byte) : (wrBytes s k d).transport = s.transport := rfl
@[simp] theorem wrBytes_step (k : Nat) (d : List Byte) : (wrBytes s k d).step = s.step := rfl
@[simp] theorem wrBytes_ports (k : Nat) (d : List Byte) : (wrBytes s k d).ports = s.ports := rfl
@[simp] theorem wrBytes_routes (k : Nat) (d : List Byte) : (wrBytes s k d).routes = s.routes := rfl
@[simp] theorem wrBytes_paths (k : Nat) (d : List Byte) : (wrBytes s k d).paths = s.paths := rfl
@[simp] theorem wrBytes_twin (k : Nat) (d : List Byte) : (wrBytes s k d).twin = s.twin := rfl
@[simp] theorem wrBytes_island (k : Nat) (d : List Byte) : (wrBytes s k d).island = s.island := rfl
@[simp] theorem wrBytes_replays (k : Nat) (d : List Byte) : (wrBytes s k d).replays = s.replays := rfl
@[simp] theorem wrBytes_det (k : Nat) (d : List Byte) : (wrBytes s k d).det = s.det := rfl
@[simp] theorem wrBytes_pke (k : Nat) (d : List Byte) : (wrBytes s k d).pke = s.pke := rfl
@[simp] theorem wrBytes_hbm (k : Nat) (d : List Byte) : (wrBytes s k d).hbm = s.hbm := rfl
@[simp] theorem wrBytes_recovery (k : Nat) (d : List Byte) : (wrBytes s k d).recovery = s.recovery := rfl
@[simp] theorem wrBytes_sessions (k : Nat) (d : List Byte) : (wrBytes s k d).sessions = s.sessions := rfl
@[simp] theorem wrBytes_sent (k : Nat) (d : List Byte) : (wrBytes s k d).sent = s.sent := rfl
@[simp] theorem wrBytes_arrivals (k : Nat) (d : List Byte) : (wrBytes s k d).arrivals = s.arrivals := rfl
@[simp] theorem wrBytes_freeCtr (k : Nat) (d : List Byte) : (wrBytes s k d).freeCtr = s.freeCtr := rfl
@[simp] theorem wrBytes_pending (k : Nat) (d : List Byte) : (wrBytes s k d).pending = s.pending := rfl

/-! ## `wrNat` -/

@[simp] theorem wrNat_dict (k n v : Nat) : (wrNat s k n v).dict = s.dict := rfl
@[simp] theorem wrNat_pins (k n v : Nat) : (wrNat s k n v).pins = s.pins := rfl
@[simp] theorem wrNat_supply (k n v : Nat) : (wrNat s k n v).supply = s.supply := rfl
@[simp] theorem wrNat_save (k n v : Nat) : (wrNat s k n v).save = s.save := rfl
@[simp] theorem wrNat_host (k n v : Nat) : (wrNat s k n v).host = s.host := rfl
@[simp] theorem wrNat_power (k n v : Nat) : (wrNat s k n v).power = s.power := rfl
@[simp] theorem wrNat_sectors (k n v : Nat) : (wrNat s k n v).sectors = s.sectors := rfl
@[simp] theorem wrNat_cores (k n v : Nat) : (wrNat s k n v).cores = s.cores := rfl
@[simp] theorem wrNat_xlat (k n v : Nat) : (wrNat s k n v).xlat = s.xlat := rfl
@[simp] theorem wrNat_groups (k n v : Nat) : (wrNat s k n v).groups = s.groups := rfl
@[simp] theorem wrNat_resolved (k n v : Nat) : (wrNat s k n v).resolved = s.resolved := rfl
@[simp] theorem wrNat_commitLog (k n v : Nat) : (wrNat s k n v).commitLog = s.commitLog := rfl
@[simp] theorem wrNat_keysets (k n v : Nat) : (wrNat s k n v).keysets = s.keysets := rfl
@[simp] theorem wrNat_laces (k n v : Nat) : (wrNat s k n v).laces = s.laces := rfl
@[simp] theorem wrNat_handles (k n v : Nat) : (wrNat s k n v).handles = s.handles := rfl
@[simp] theorem wrNat_windows (k n v : Nat) : (wrNat s k n v).windows = s.windows := rfl
@[simp] theorem wrNat_transport (k n v : Nat) : (wrNat s k n v).transport = s.transport := rfl
@[simp] theorem wrNat_step (k n v : Nat) : (wrNat s k n v).step = s.step := rfl
@[simp] theorem wrNat_ports (k n v : Nat) : (wrNat s k n v).ports = s.ports := rfl
@[simp] theorem wrNat_routes (k n v : Nat) : (wrNat s k n v).routes = s.routes := rfl
@[simp] theorem wrNat_paths (k n v : Nat) : (wrNat s k n v).paths = s.paths := rfl
@[simp] theorem wrNat_twin (k n v : Nat) : (wrNat s k n v).twin = s.twin := rfl
@[simp] theorem wrNat_island (k n v : Nat) : (wrNat s k n v).island = s.island := rfl
@[simp] theorem wrNat_replays (k n v : Nat) : (wrNat s k n v).replays = s.replays := rfl
@[simp] theorem wrNat_det (k n v : Nat) : (wrNat s k n v).det = s.det := rfl
@[simp] theorem wrNat_pke (k n v : Nat) : (wrNat s k n v).pke = s.pke := rfl
@[simp] theorem wrNat_hbm (k n v : Nat) : (wrNat s k n v).hbm = s.hbm := rfl
@[simp] theorem wrNat_recovery (k n v : Nat) : (wrNat s k n v).recovery = s.recovery := rfl
@[simp] theorem wrNat_sessions (k n v : Nat) : (wrNat s k n v).sessions = s.sessions := rfl
@[simp] theorem wrNat_sent (k n v : Nat) : (wrNat s k n v).sent = s.sent := rfl
@[simp] theorem wrNat_arrivals (k n v : Nat) : (wrNat s k n v).arrivals = s.arrivals := rfl
@[simp] theorem wrNat_freeCtr (k n v : Nat) : (wrNat s k n v).freeCtr = s.freeCtr := rfl
@[simp] theorem wrNat_pending (k n v : Nat) : (wrNat s k n v).pending = s.pending := rfl

/-! ## `zeroFill` -/

@[simp] theorem zeroFill_dict (lo hi : Nat) : (zeroFill s lo hi).dict = s.dict := rfl
@[simp] theorem zeroFill_pins (lo hi : Nat) : (zeroFill s lo hi).pins = s.pins := rfl
@[simp] theorem zeroFill_supply (lo hi : Nat) : (zeroFill s lo hi).supply = s.supply := rfl
@[simp] theorem zeroFill_save (lo hi : Nat) : (zeroFill s lo hi).save = s.save := rfl
@[simp] theorem zeroFill_host (lo hi : Nat) : (zeroFill s lo hi).host = s.host := rfl
@[simp] theorem zeroFill_power (lo hi : Nat) : (zeroFill s lo hi).power = s.power := rfl
@[simp] theorem zeroFill_sectors (lo hi : Nat) : (zeroFill s lo hi).sectors = s.sectors := rfl
@[simp] theorem zeroFill_cores (lo hi : Nat) : (zeroFill s lo hi).cores = s.cores := rfl
@[simp] theorem zeroFill_xlat (lo hi : Nat) : (zeroFill s lo hi).xlat = s.xlat := rfl
@[simp] theorem zeroFill_groups (lo hi : Nat) : (zeroFill s lo hi).groups = s.groups := rfl
@[simp] theorem zeroFill_resolved (lo hi : Nat) : (zeroFill s lo hi).resolved = s.resolved := rfl
@[simp] theorem zeroFill_commitLog (lo hi : Nat) : (zeroFill s lo hi).commitLog = s.commitLog := rfl
@[simp] theorem zeroFill_keysets (lo hi : Nat) : (zeroFill s lo hi).keysets = s.keysets := rfl
@[simp] theorem zeroFill_laces (lo hi : Nat) : (zeroFill s lo hi).laces = s.laces := rfl
@[simp] theorem zeroFill_handles (lo hi : Nat) : (zeroFill s lo hi).handles = s.handles := rfl
@[simp] theorem zeroFill_windows (lo hi : Nat) : (zeroFill s lo hi).windows = s.windows := rfl
@[simp] theorem zeroFill_transport (lo hi : Nat) : (zeroFill s lo hi).transport = s.transport := rfl
@[simp] theorem zeroFill_step (lo hi : Nat) : (zeroFill s lo hi).step = s.step := rfl
@[simp] theorem zeroFill_ports (lo hi : Nat) : (zeroFill s lo hi).ports = s.ports := rfl
@[simp] theorem zeroFill_routes (lo hi : Nat) : (zeroFill s lo hi).routes = s.routes := rfl
@[simp] theorem zeroFill_paths (lo hi : Nat) : (zeroFill s lo hi).paths = s.paths := rfl
@[simp] theorem zeroFill_twin (lo hi : Nat) : (zeroFill s lo hi).twin = s.twin := rfl
@[simp] theorem zeroFill_island (lo hi : Nat) : (zeroFill s lo hi).island = s.island := rfl
@[simp] theorem zeroFill_replays (lo hi : Nat) : (zeroFill s lo hi).replays = s.replays := rfl
@[simp] theorem zeroFill_det (lo hi : Nat) : (zeroFill s lo hi).det = s.det := rfl
@[simp] theorem zeroFill_pke (lo hi : Nat) : (zeroFill s lo hi).pke = s.pke := rfl
@[simp] theorem zeroFill_hbm (lo hi : Nat) : (zeroFill s lo hi).hbm = s.hbm := rfl
@[simp] theorem zeroFill_recovery (lo hi : Nat) : (zeroFill s lo hi).recovery = s.recovery := rfl
@[simp] theorem zeroFill_sessions (lo hi : Nat) : (zeroFill s lo hi).sessions = s.sessions := rfl
@[simp] theorem zeroFill_sent (lo hi : Nat) : (zeroFill s lo hi).sent = s.sent := rfl
@[simp] theorem zeroFill_arrivals (lo hi : Nat) : (zeroFill s lo hi).arrivals = s.arrivals := rfl
@[simp] theorem zeroFill_freeCtr (lo hi : Nat) : (zeroFill s lo hi).freeCtr = s.freeCtr := rfl
@[simp] theorem zeroFill_pending (lo hi : Nat) : (zeroFill s lo hi).pending = s.pending := rfl

/-! ## `mark` -/

@[simp] theorem mark_dict (k : Nat) : (mark s k).dict = s.dict := rfl
@[simp] theorem mark_mem (k : Nat) : (mark s k).mem = s.mem := rfl
@[simp] theorem mark_flips (k : Nat) : (mark s k).flips = s.flips := rfl
@[simp] theorem mark_pins (k : Nat) : (mark s k).pins = s.pins := rfl
@[simp] theorem mark_supply (k : Nat) : (mark s k).supply = s.supply := rfl
@[simp] theorem mark_save (k : Nat) : (mark s k).save = s.save := rfl
@[simp] theorem mark_host (k : Nat) : (mark s k).host = s.host := rfl
@[simp] theorem mark_power (k : Nat) : (mark s k).power = s.power := rfl
@[simp] theorem mark_sectors (k : Nat) : (mark s k).sectors = s.sectors := rfl
@[simp] theorem mark_cores (k : Nat) : (mark s k).cores = s.cores := rfl
@[simp] theorem mark_xlat (k : Nat) : (mark s k).xlat = s.xlat := rfl
@[simp] theorem mark_groups (k : Nat) : (mark s k).groups = s.groups := rfl
@[simp] theorem mark_resolved (k : Nat) : (mark s k).resolved = s.resolved := rfl
@[simp] theorem mark_commitLog (k : Nat) : (mark s k).commitLog = s.commitLog := rfl
@[simp] theorem mark_keysets (k : Nat) : (mark s k).keysets = s.keysets := rfl
@[simp] theorem mark_laces (k : Nat) : (mark s k).laces = s.laces := rfl
@[simp] theorem mark_handles (k : Nat) : (mark s k).handles = s.handles := rfl
@[simp] theorem mark_windows (k : Nat) : (mark s k).windows = s.windows := rfl
@[simp] theorem mark_transport (k : Nat) : (mark s k).transport = s.transport := rfl
@[simp] theorem mark_step (k : Nat) : (mark s k).step = s.step := rfl
@[simp] theorem mark_ports (k : Nat) : (mark s k).ports = s.ports := rfl
@[simp] theorem mark_routes (k : Nat) : (mark s k).routes = s.routes := rfl
@[simp] theorem mark_paths (k : Nat) : (mark s k).paths = s.paths := rfl
@[simp] theorem mark_twin (k : Nat) : (mark s k).twin = s.twin := rfl
@[simp] theorem mark_island (k : Nat) : (mark s k).island = s.island := rfl
@[simp] theorem mark_replays (k : Nat) : (mark s k).replays = s.replays := rfl
@[simp] theorem mark_det (k : Nat) : (mark s k).det = s.det := rfl
@[simp] theorem mark_pke (k : Nat) : (mark s k).pke = s.pke := rfl
@[simp] theorem mark_hbm (k : Nat) : (mark s k).hbm = s.hbm := rfl
@[simp] theorem mark_recovery (k : Nat) : (mark s k).recovery = s.recovery := rfl
@[simp] theorem mark_sessions (k : Nat) : (mark s k).sessions = s.sessions := rfl
@[simp] theorem mark_sent (k : Nat) : (mark s k).sent = s.sent := rfl
@[simp] theorem mark_arrivals (k : Nat) : (mark s k).arrivals = s.arrivals := rfl
@[simp] theorem mark_freeCtr (k : Nat) : (mark s k).freeCtr = s.freeCtr := rfl
@[simp] theorem mark_pending (k : Nat) : (mark s k).pending = s.pending := rfl

/-! ## `emit` -/

@[simp] theorem emit_dict (o : Out) : (emit s o).dict = s.dict := rfl
@[simp] theorem emit_mem (o : Out) : (emit s o).mem = s.mem := rfl
@[simp] theorem emit_poison (o : Out) : (emit s o).poison = s.poison := rfl
@[simp] theorem emit_flips (o : Out) : (emit s o).flips = s.flips := rfl
@[simp] theorem emit_pins (o : Out) : (emit s o).pins = s.pins := rfl
@[simp] theorem emit_supply (o : Out) : (emit s o).supply = s.supply := rfl
@[simp] theorem emit_save (o : Out) : (emit s o).save = s.save := rfl
@[simp] theorem emit_host (o : Out) : (emit s o).host = s.host := rfl
@[simp] theorem emit_power (o : Out) : (emit s o).power = s.power := rfl
@[simp] theorem emit_sectors (o : Out) : (emit s o).sectors = s.sectors := rfl
@[simp] theorem emit_cores (o : Out) : (emit s o).cores = s.cores := rfl
@[simp] theorem emit_xlat (o : Out) : (emit s o).xlat = s.xlat := rfl
@[simp] theorem emit_groups (o : Out) : (emit s o).groups = s.groups := rfl
@[simp] theorem emit_resolved (o : Out) : (emit s o).resolved = s.resolved := rfl
@[simp] theorem emit_commitLog (o : Out) : (emit s o).commitLog = s.commitLog := rfl
@[simp] theorem emit_keysets (o : Out) : (emit s o).keysets = s.keysets := rfl
@[simp] theorem emit_laces (o : Out) : (emit s o).laces = s.laces := rfl
@[simp] theorem emit_handles (o : Out) : (emit s o).handles = s.handles := rfl
@[simp] theorem emit_windows (o : Out) : (emit s o).windows = s.windows := rfl
@[simp] theorem emit_transport (o : Out) : (emit s o).transport = s.transport := rfl
@[simp] theorem emit_step (o : Out) : (emit s o).step = s.step := rfl
@[simp] theorem emit_ports (o : Out) : (emit s o).ports = s.ports := rfl
@[simp] theorem emit_routes (o : Out) : (emit s o).routes = s.routes := rfl
@[simp] theorem emit_paths (o : Out) : (emit s o).paths = s.paths := rfl
@[simp] theorem emit_twin (o : Out) : (emit s o).twin = s.twin := rfl
@[simp] theorem emit_island (o : Out) : (emit s o).island = s.island := rfl
@[simp] theorem emit_replays (o : Out) : (emit s o).replays = s.replays := rfl
@[simp] theorem emit_det (o : Out) : (emit s o).det = s.det := rfl
@[simp] theorem emit_pke (o : Out) : (emit s o).pke = s.pke := rfl
@[simp] theorem emit_hbm (o : Out) : (emit s o).hbm = s.hbm := rfl
@[simp] theorem emit_recovery (o : Out) : (emit s o).recovery = s.recovery := rfl
@[simp] theorem emit_sessions (o : Out) : (emit s o).sessions = s.sessions := rfl
@[simp] theorem emit_arrivals (o : Out) : (emit s o).arrivals = s.arrivals := rfl
@[simp] theorem emit_freeCtr (o : Out) : (emit s o).freeCtr = s.freeCtr := rfl
@[simp] theorem emit_pending (o : Out) : (emit s o).pending = s.pending := rfl

/-! ## `setSector` -/

@[simp] theorem setSector_dict (x : Nat) (v : Sector) : (setSector s x v).dict = s.dict := rfl
@[simp] theorem setSector_mem (x : Nat) (v : Sector) : (setSector s x v).mem = s.mem := rfl
@[simp] theorem setSector_poison (x : Nat) (v : Sector) : (setSector s x v).poison = s.poison := rfl
@[simp] theorem setSector_flips (x : Nat) (v : Sector) : (setSector s x v).flips = s.flips := rfl
@[simp] theorem setSector_pins (x : Nat) (v : Sector) : (setSector s x v).pins = s.pins := rfl
@[simp] theorem setSector_supply (x : Nat) (v : Sector) : (setSector s x v).supply = s.supply := rfl
@[simp] theorem setSector_save (x : Nat) (v : Sector) : (setSector s x v).save = s.save := rfl
@[simp] theorem setSector_host (x : Nat) (v : Sector) : (setSector s x v).host = s.host := rfl
@[simp] theorem setSector_power (x : Nat) (v : Sector) : (setSector s x v).power = s.power := rfl
@[simp] theorem setSector_cores (x : Nat) (v : Sector) : (setSector s x v).cores = s.cores := rfl
@[simp] theorem setSector_xlat (x : Nat) (v : Sector) : (setSector s x v).xlat = s.xlat := rfl
@[simp] theorem setSector_groups (x : Nat) (v : Sector) : (setSector s x v).groups = s.groups := rfl
@[simp] theorem setSector_resolved (x : Nat) (v : Sector) : (setSector s x v).resolved = s.resolved := rfl
@[simp] theorem setSector_commitLog (x : Nat) (v : Sector) : (setSector s x v).commitLog = s.commitLog := rfl
@[simp] theorem setSector_keysets (x : Nat) (v : Sector) : (setSector s x v).keysets = s.keysets := rfl
@[simp] theorem setSector_laces (x : Nat) (v : Sector) : (setSector s x v).laces = s.laces := rfl
@[simp] theorem setSector_handles (x : Nat) (v : Sector) : (setSector s x v).handles = s.handles := rfl
@[simp] theorem setSector_windows (x : Nat) (v : Sector) : (setSector s x v).windows = s.windows := rfl
@[simp] theorem setSector_transport (x : Nat) (v : Sector) : (setSector s x v).transport = s.transport := rfl
@[simp] theorem setSector_step (x : Nat) (v : Sector) : (setSector s x v).step = s.step := rfl
@[simp] theorem setSector_ports (x : Nat) (v : Sector) : (setSector s x v).ports = s.ports := rfl
@[simp] theorem setSector_routes (x : Nat) (v : Sector) : (setSector s x v).routes = s.routes := rfl
@[simp] theorem setSector_paths (x : Nat) (v : Sector) : (setSector s x v).paths = s.paths := rfl
@[simp] theorem setSector_twin (x : Nat) (v : Sector) : (setSector s x v).twin = s.twin := rfl
@[simp] theorem setSector_island (x : Nat) (v : Sector) : (setSector s x v).island = s.island := rfl
@[simp] theorem setSector_replays (x : Nat) (v : Sector) : (setSector s x v).replays = s.replays := rfl
@[simp] theorem setSector_det (x : Nat) (v : Sector) : (setSector s x v).det = s.det := rfl
@[simp] theorem setSector_pke (x : Nat) (v : Sector) : (setSector s x v).pke = s.pke := rfl
@[simp] theorem setSector_hbm (x : Nat) (v : Sector) : (setSector s x v).hbm = s.hbm := rfl
@[simp] theorem setSector_recovery (x : Nat) (v : Sector) : (setSector s x v).recovery = s.recovery := rfl
@[simp] theorem setSector_sessions (x : Nat) (v : Sector) : (setSector s x v).sessions = s.sessions := rfl
@[simp] theorem setSector_sent (x : Nat) (v : Sector) : (setSector s x v).sent = s.sent := rfl
@[simp] theorem setSector_arrivals (x : Nat) (v : Sector) : (setSector s x v).arrivals = s.arrivals := rfl
@[simp] theorem setSector_freeCtr (x : Nat) (v : Sector) : (setSector s x v).freeCtr = s.freeCtr := rfl
@[simp] theorem setSector_pending (x : Nat) (v : Sector) : (setSector s x v).pending = s.pending := rfl

/-! ## `setCore` -/

@[simp] theorem setCore_dict (c : Nat) (v : Core) : (setCore s c v).dict = s.dict := rfl
@[simp] theorem setCore_mem (c : Nat) (v : Core) : (setCore s c v).mem = s.mem := rfl
@[simp] theorem setCore_poison (c : Nat) (v : Core) : (setCore s c v).poison = s.poison := rfl
@[simp] theorem setCore_flips (c : Nat) (v : Core) : (setCore s c v).flips = s.flips := rfl
@[simp] theorem setCore_pins (c : Nat) (v : Core) : (setCore s c v).pins = s.pins := rfl
@[simp] theorem setCore_supply (c : Nat) (v : Core) : (setCore s c v).supply = s.supply := rfl
@[simp] theorem setCore_save (c : Nat) (v : Core) : (setCore s c v).save = s.save := rfl
@[simp] theorem setCore_host (c : Nat) (v : Core) : (setCore s c v).host = s.host := rfl
@[simp] theorem setCore_power (c : Nat) (v : Core) : (setCore s c v).power = s.power := rfl
@[simp] theorem setCore_sectors (c : Nat) (v : Core) : (setCore s c v).sectors = s.sectors := rfl
@[simp] theorem setCore_xlat (c : Nat) (v : Core) : (setCore s c v).xlat = s.xlat := rfl
@[simp] theorem setCore_groups (c : Nat) (v : Core) : (setCore s c v).groups = s.groups := rfl
@[simp] theorem setCore_resolved (c : Nat) (v : Core) : (setCore s c v).resolved = s.resolved := rfl
@[simp] theorem setCore_commitLog (c : Nat) (v : Core) : (setCore s c v).commitLog = s.commitLog := rfl
@[simp] theorem setCore_keysets (c : Nat) (v : Core) : (setCore s c v).keysets = s.keysets := rfl
@[simp] theorem setCore_laces (c : Nat) (v : Core) : (setCore s c v).laces = s.laces := rfl
@[simp] theorem setCore_handles (c : Nat) (v : Core) : (setCore s c v).handles = s.handles := rfl
@[simp] theorem setCore_windows (c : Nat) (v : Core) : (setCore s c v).windows = s.windows := rfl
@[simp] theorem setCore_transport (c : Nat) (v : Core) : (setCore s c v).transport = s.transport := rfl
@[simp] theorem setCore_step (c : Nat) (v : Core) : (setCore s c v).step = s.step := rfl
@[simp] theorem setCore_ports (c : Nat) (v : Core) : (setCore s c v).ports = s.ports := rfl
@[simp] theorem setCore_routes (c : Nat) (v : Core) : (setCore s c v).routes = s.routes := rfl
@[simp] theorem setCore_paths (c : Nat) (v : Core) : (setCore s c v).paths = s.paths := rfl
@[simp] theorem setCore_twin (c : Nat) (v : Core) : (setCore s c v).twin = s.twin := rfl
@[simp] theorem setCore_island (c : Nat) (v : Core) : (setCore s c v).island = s.island := rfl
@[simp] theorem setCore_replays (c : Nat) (v : Core) : (setCore s c v).replays = s.replays := rfl
@[simp] theorem setCore_det (c : Nat) (v : Core) : (setCore s c v).det = s.det := rfl
@[simp] theorem setCore_pke (c : Nat) (v : Core) : (setCore s c v).pke = s.pke := rfl
@[simp] theorem setCore_hbm (c : Nat) (v : Core) : (setCore s c v).hbm = s.hbm := rfl
@[simp] theorem setCore_recovery (c : Nat) (v : Core) : (setCore s c v).recovery = s.recovery := rfl
@[simp] theorem setCore_sessions (c : Nat) (v : Core) : (setCore s c v).sessions = s.sessions := rfl
@[simp] theorem setCore_sent (c : Nat) (v : Core) : (setCore s c v).sent = s.sent := rfl
@[simp] theorem setCore_arrivals (c : Nat) (v : Core) : (setCore s c v).arrivals = s.arrivals := rfl
@[simp] theorem setCore_freeCtr (c : Nat) (v : Core) : (setCore s c v).freeCtr = s.freeCtr := rfl
@[simp] theorem setCore_pending (c : Nat) (v : Core) : (setCore s c v).pending = s.pending := rfl

/-! ## What each update writes -/

/-- The entry just written reads its value, cut to its size. -/
@[simp] theorem rd_wr_same (k v : Nat) : rd (wr s k v) k = v % 2 ^ (8 * dictSize k) := by
  unfold rd wr; exact Tab.get_set_same _ _ _ _

/-- A write leaves every other entry as it was. -/
theorem rd_wr_other {k j : Nat} (h : j ≠ k) (v : Nat) : rd (wr s k v) j = rd s j := by
  unfold rd wr; exact Tab.get_set_other h _ _ _ _

theorem rd_wr (k v j : Nat) : rd (wr s k v) j = if j = k then v % 2 ^ (8 * dictSize k) else rd s j := by
  split
  · rename_i h; rw [h, rd_wr_same]
  · rename_i h; exact rd_wr_other s h v

/-- An update that leaves the dictionary leaves every entry. -/
theorem rd_congr {s t : State} (h : t.dict = s.dict) (k : Nat) : rd t k = rd s k := by unfold rd; rw [h]

theorem core_setCore (c j : Nat) (v : Core) : core (setCore s c v) j = if j = c then v else core s j := by
  unfold core setCore
  split
  · rename_i h; subst h; exact Tab.get_set_same _ _ _ _
  · rename_i h; exact Tab.get_set_other h _ _ _ _

@[simp] theorem core_setCore_same (c : Nat) (v : Core) : core (setCore s c v) c = v := by simp [core_setCore]

theorem sector_setSector (x y : Nat) (v : Sector) : sector (setSector s x v) y = if y = x then v else sector s y := by
  unfold sector setSector
  split
  · rename_i h; subst h; exact Tab.get_set_same _ _ _ _
  · rename_i h; exact Tab.get_set_other h _ _ _ _

@[simp] theorem sector_setSector_same (x : Nat) (v : Sector) : sector (setSector s x v) x = v := by simp [sector_setSector]

@[simp] theorem sent_emit (o : Out) : (emit s o).sent = o :: s.sent := rfl

end Sys2Proof.Machine
end

