-- ==== Sys2Proof/Laws/Memory.lean ====
section
/-! SUPPORT. Memory: a read after a write, that a write leaves every other place alone, and that every memory operation keeps
the canonical form. -/

namespace Sys2Proof.Machine

open Sys2Proof

/-! ## Cells -/

theorem find?_cells (k : Nat) (d : List Byte) (a : Nat) : Tab.find? (cells k d) a =
    if k ≤ a ∧ a < k + d.length ∧ d.getD (a - k) 0 ≠ 0 then some (d.getD (a - k) 0) else none := by
  induction d generalizing k with
  | nil => simp [cells, Tab.find?]
  | cons b t ih =>
    rw [cells]
    by_cases ha : a = k
    · subst ha
      by_cases hb : b = 0
      · rw [if_pos hb, ih, if_neg (by omega), if_neg (by simp [hb])]
      · rw [if_neg hb, if_pos (by simpa using hb)]; simp [Tab.find?]
    · have hs : Tab.find? (if b = 0 then cells (k + 1) t else (k, b) :: cells (k + 1) t) a = Tab.find? (cells (k + 1) t) a := by
        split
        · rfl
        · simp [Tab.find?, Ne.symm ha]
      rw [hs, ih]
      by_cases h : k + 1 ≤ a
      · have e : a - k = (a - (k + 1)) + 1 := by omega
        rw [e, List.getD_cons_succ]
        exact if_congr (by simp only [List.length_cons]; constructor <;> rintro ⟨h1, h2, h3⟩ <;> exact ⟨by omega, by omega, h3⟩) rfl rfl
      · rw [if_neg (by omega), if_neg (by omega)]

theorem find?_append (l m : Tab Byte) (a : Nat) : Tab.find? (l ++ m) a = (Tab.find? l a).or (Tab.find? m a) := by
  induction l with
  | nil => simp [Tab.find?]
  | cons e t ih =>
    simp only [List.cons_append, Tab.find?]
    split
    · rfl
    · exact ih

/-! ## Reads after writes -/

theorem get_putBytes (m : Tab Byte) (k : Nat) (d : List Byte) (a : Nat) :
    Tab.get 0 (putBytes m k d) a = if k ≤ a ∧ a < k + d.length then d.getD (a - k) 0 else Tab.get 0 m a := by
  unfold Tab.get putBytes
  rw [find?_append, find?_append, find?_cells, Tab.find?_filter (fun x => decide (x < k)),
    Tab.find?_filter (fun x => decide (k + d.length ≤ x))]
  by_cases h1 : a < k
  · have n1 : ¬(k ≤ a ∧ a < k + d.length) := by omega
    have n2 : ¬(k ≤ a ∧ a < k + d.length ∧ d.getD (a - k) 0 ≠ 0) := fun h => n1 ⟨h.1, h.2.1⟩
    have n3 : ¬k + d.length ≤ a := by omega
    rw [if_neg n1, if_neg n2, if_pos (decide_eq_true h1), if_neg (by simpa using n3)]
    simp
  · by_cases h2 : a < k + d.length
    · have n3 : ¬k + d.length ≤ a := by omega
      rw [if_pos (show k ≤ a ∧ a < k + d.length from ⟨by omega, h2⟩), if_neg (show ¬(decide (a < k) = true) by simpa using h1),
        if_neg (show ¬(decide (k + d.length ≤ a) = true) by simpa using n3)]
      by_cases h : d.getD (a - k) 0 = 0
      · rw [if_neg (fun h' => h'.2.2 h), h]; rfl
      · rw [if_pos ⟨by omega, h2, h⟩]; rfl
    · have n1 : ¬(k ≤ a ∧ a < k + d.length) := fun h => h2 h.2
      have n2 : ¬(k ≤ a ∧ a < k + d.length ∧ d.getD (a - k) 0 ≠ 0) := fun h => h2 h.2.1
      rw [if_neg n1, if_neg n2, if_neg (by simpa using h1), if_pos (by simpa using Nat.le_of_not_lt h2)]
      simp

/-- A byte read after bytes were written. -/
theorem rdByte_wrBytes (s : State) (k : Nat) (d : List Byte) (a : Nat) :
    rdByte (wrBytes s k d) a = if k ≤ a ∧ a < k + d.length then d.getD (a - k) 0 else rdByte s a := get_putBytes ..

theorem rdByte_zeroFill (s : State) (lo hi a : Nat) :
    rdByte (zeroFill s lo hi) a = if lo ≤ a ∧ a < hi then 0 else rdByte s a := by
  unfold rdByte zeroFill Tab.get Tab.clear
  rw [Tab.find?_filter (fun x => decide (x < lo) || decide (hi ≤ x))]
  by_cases h : lo ≤ a ∧ a < hi
  · rw [if_pos h, if_neg (by simp; omega)]; rfl
  · rw [if_neg h, if_pos (by simp; omega)]

/-- Bytes are read one by one. -/
theorem rdBytes_eq_map (s : State) (k n : Nat) : rdBytes s k n = (List.range n).map fun i => rdByte s (k + i) := by
  unfold rdBytes
  apply List.map_congr_left
  intro i hi
  simp only [List.mem_range] at hi
  unfold rdByte Tab.get
  rw [Tab.find?_filter (fun x => decide (k ≤ x ∧ x < k + n)), if_pos (by simp; omega)]

@[simp] theorem rdBytes_length (s : State) (k n : Nat) : (rdBytes s k n).length = n := by simp [rdBytes_eq_map]

/-- Bytes just written read back. -/
@[simp] theorem rdBytes_wrBytes (s : State) (k : Nat) (d : List Byte) : rdBytes (wrBytes s k d) k d.length = d := by
  rw [rdBytes_eq_map]
  apply List.ext_getElem
  · simp
  · intro i h1 h2
    simp [rdByte_wrBytes, h2]

/-- A read that meets no byte of a write gives what it gave before. -/
theorem rdBytes_wrBytes_other (s : State) (k : Nat) (d : List Byte) (a n : Nat) (h : a + n ≤ k ∨ k + d.length ≤ a) :
    rdBytes (wrBytes s k d) a n = rdBytes s a n := by
  rw [rdBytes_eq_map, rdBytes_eq_map]
  apply List.map_congr_left
  intro i hi
  simp only [List.mem_range] at hi
  rw [rdByte_wrBytes, if_neg (by omega)]

theorem rdByte_congr {s t : State} (h : t.mem = s.mem) (a : Nat) : rdByte t a = rdByte s a := by unfold rdByte; rw [h]

theorem rdBytes_congr {s t : State} (h : t.mem = s.mem) (a n : Nat) : rdBytes t a n = rdBytes s a n := by
  unfold rdBytes; rw [h]

theorem rdNat_congr {s t : State} (h : t.mem = s.mem) (a n : Nat) : rdNat t a n = rdNat s a n := by
  unfold rdNat; rw [rdBytes_congr h]

@[simp] theorem leBytes_length (n v : Nat) : (leBytes n v).length = n := by
  induction n generalizing v with
  | zero => rfl
  | succ n ih => simp [leBytes, ih]

/-! ## The canonical form -/

theorem mem_cells {k : Nat} {d : List Byte} {e : Nat × Byte} (h : e ∈ cells k d) : k ≤ e.1 ∧ e.1 < k + d.length ∧ e.2 ≠ 0 := by
  induction d generalizing k with
  | nil => simp [cells] at h
  | cons b t ih =>
    rw [cells] at h
    split at h
    · obtain ⟨h1, h2, h3⟩ := ih h
      exact ⟨by omega, by simp only [List.length_cons]; omega, h3⟩
    · rename_i hb
      rcases List.mem_cons.1 h with rfl | h
      · exact ⟨le_refl _, by simp, hb⟩
      · obtain ⟨h1, h2, h3⟩ := ih h
        exact ⟨by omega, by simp only [List.length_cons]; omega, h3⟩

theorem rising_append {l m : Tab Byte} {b : Option Nat} (hl : Tab.Rising b l) (hm : Tab.Rising none m)
    (h : ∀ e ∈ l, ∀ f ∈ m, e.1 < f.1) (hb : ∀ f ∈ m, ∀ j, b = some j → j < f.1) : Tab.Rising b (l ++ m) := by
  induction l generalizing b with
  | nil =>
    cases m with
    | nil => trivial
    | cons f m => exact ⟨fun j hj => hb f (by simp) j hj, hm.2⟩
  | cons e t ih =>
    refine ⟨hl.1, ih hl.2 (fun x hx => h x (List.mem_cons_of_mem _ hx)) ?_⟩
    intro f hf j hj
    cases hj
    exact h e (by simp) f hf

theorem rising_cells (k : Nat) (d : List Byte) {b : Option Nat} (hb : ∀ j, b = some j → j < k) : Tab.Rising b (cells k d) := by
  induction d generalizing k b with
  | nil => trivial
  | cons c t ih =>
    rw [cells]
    split
    · exact ih (k + 1) fun j hj => by have := hb j hj; omega
    · exact ⟨hb, ih (k + 1) fun j hj => by cases hj; omega⟩

/-- A write of bytes keeps the canonical form. -/
theorem putBytes_wf {m : Tab Byte} (h : Tab.wf (fun _ => 0) m = true) (k : Nat) (d : List Byte) :
    Tab.wf (fun _ => 0) (putBytes m k d) = true := by
  rw [Tab.wf_iff] at h ⊢
  unfold putBytes
  have lo : ∀ e ∈ m.filter (fun e => decide (e.1 < k)), e.1 < k := fun e he => by
    simpa using (List.mem_filter.1 he).2
  have hi : ∀ e ∈ m.filter (fun e => decide (k + d.length ≤ e.1)), k + d.length ≤ e.1 := fun e he => by
    simpa using (List.mem_filter.1 he).2
  constructor
  · refine rising_append (rising_append (Tab.filter_rising _ h.1) (rising_cells k d (by simp)) ?_ (by simp))
      (Tab.filter_rising _ h.1) ?_ (by simp)
    · intro e he f hf
      exact Nat.lt_of_lt_of_le (lo e he) (mem_cells hf).1
    · intro e he f hf
      have hf := hi f hf
      rcases List.mem_append.1 he with he | he
      · have := lo e he; omega
      · have := (mem_cells he).2.1; omega
  · intro a b hab
    rcases List.mem_append.1 hab with hab | hab
    · rcases List.mem_append.1 hab with hab | hab
      · exact h.2 a b (List.mem_filter.1 hab).1
      · exact (mem_cells hab).2.2
    · exact h.2 a b (List.mem_filter.1 hab).1

/-- Every operation on memory keeps its canonical form. -/
theorem wrBytes_wf {s : State} (h : Tab.wf (fun _ => 0) s.mem = true) (k : Nat) (d : List Byte) :
    Tab.wf (fun _ => 0) (wrBytes s k d).mem = true := putBytes_wf h k d

theorem wrNat_wf {s : State} (h : Tab.wf (fun _ => 0) s.mem = true) (k n v : Nat) :
    Tab.wf (fun _ => 0) (wrNat s k n v).mem = true := putBytes_wf h k _

theorem zeroFill_wf {s : State} (h : Tab.wf (fun _ => 0) s.mem = true) (lo hi : Nat) :
    Tab.wf (fun _ => 0) (zeroFill s lo hi).mem = true := Tab.clear_wf h lo hi

/-- The marks of poisoned words keep theirs. -/
theorem unmark_wf {α : Type} [DecidableEq α] {d : Nat → α} (w : Nat → Nat) {p : Tab α} (h : Tab.wf d p = true) (k n : Nat) :
    Tab.wf d (unmark w p k n) = true := Tab.filter_wf _ h

theorem mark_wf {s : State} (h : Tab.wf (fun _ => false) s.poison = true) (k : Nat) :
    Tab.wf (fun _ => false) (mark s k).poison = true :=
  Tab.set_wf (d := fun _ => false) h (k - k % wordBytes s k) true

/-- And so does the dictionary. -/
theorem wr_wf {s : State} (h : Tab.wf dictDefault s.dict = true) (k v : Nat) : Tab.wf dictDefault (wr s k v).dict = true :=
  Tab.set_wf h k _

/-- Memories in the canonical form that read alike are equal. -/
theorem mem_ext {s t : State} (hs : Tab.wf (fun _ => 0) s.mem = true) (ht : Tab.wf (fun _ => 0) t.mem = true)
    (h : ∀ a, rdByte t a = rdByte s a) : t.mem = s.mem := Tab.ext_of_wf ht hs h

end Sys2Proof.Machine
end

