-- ==== Sys2Proof/Laws/Ops.lean ====
section
/-! SUPPORT. What the operations that commands share can do: how a command ends, and what becomes of an access to the
dictionary. -/

namespace Sys2Proof.Machine

open Sys2Proof

/-! ## The end of a command -/

/-- A command of a unit that the part has ends in its effect, with the queue as it was. -/
@[simp] theorem guarded_true (s t : State) : guarded true s t = done s t := rfl

@[simp] theorem guarded_false (s t : State) : guarded false s t = .fault .noSuchUnit := rfl

theorem guarded_of {b : Bool} (h : b = true) (s t : State) : guarded b s t = done s t := by rw [h]; rfl

@[simp] theorem instanced_true (s : State) (via : Path) (k : Nat) (t : State) : instanced true s via k t = done s t := rfl

@[simp] theorem instanced_false (s : State) (via : Path) (k : Nat) (t : State) :
    instanced false s via k t = done s (noInstance s via k) := rfl

/-- A write to an instance always answers a next state, whether its entry has that instance or not. -/
theorem instanced_next (b : Bool) (s : State) (via : Path) (k : Nat) (t : State) :
    ∃ u, instanced b s via k t = .next u ∧ u.pending = s.pending := ⟨_, rfl, rfl⟩

theorem done_eq {s t : State} (h : t.pending = s.pending) : done s t = .next t := by
  unfold done; rw [← h]

/-- `done` always answers a next state, whose queue is the one it began with. -/
theorem done_next (s t : State) : ∃ u, done s t = .next u ∧ u.pending = s.pending := ⟨_, rfl, rfl⟩

/-- Whatever its effect, a guarded command answers a next state exactly when its units exist. -/
theorem guarded_next (b : Bool) (s t : State) : (∃ u, guarded b s t = .next u) ↔ b = true := by
  cases b <;> simp [guarded, done]

theorem done_setCore (s : State) (c : Nat) (k : Core) : done s (setCore s c k) = .next (setCore s c k) := rfl
theorem done_wr (s : State) (k v : Nat) : done s (wr s k v) = .next (wr s k v) := rfl
theorem done_emit (s : State) (o : Out) : done s (emit s o) = .next (emit s o) := rfl
theorem done_self (s : State) : done s s = .next s := rfl

/-- The leads that a `done` gives. -/
theorem leads_of_done {n : Instr} {s u : State} {P : State → Prop} (h : exec n s = done s u)
    (hP : P { u with pending := s.pending }) : Leads n s P := ⟨_, h, hP⟩

/-! ## Accesses to the dictionary (R861) -/

theorem workReaches_none {s : State} (h : s.power.entry = none) (b : Nat) : workReaches s b = s := by
  unfold workReaches; rw [h]

/-- An access that nothing holds back is served. -/
theorem access_of_serves {s : State} {a : Access} (sem : EntrySem) (hk : a.sub < 256) (h : Serves s (256 * a.index + a.sub)) :
    access s a sem = serve s a sem := by
  obtain ⟨hg, he, hr⟩ := h
  have h1 : (256 * a.index + a.sub) / 256 = a.index := by omega
  have h2 : (256 * a.index + a.sub) % 256 = a.sub := by omega
  rw [h1] at hg
  rw [h1, h2] at hr
  unfold access
  simp only [hg]
  split
  · rfl
  · rename_i w hw
    cases hs : w.sh
    · simp
    · obtain ⟨ho, hd⟩ := hr w hw hs
      simp [ho, hd, workReaches_none he]

/-- The first failing check of a write, in the order of R861: a served write of a row ends with it, and changes nothing but
its answer. -/
theorem serve_refused {s : State} {via : Path} {i sub : Nat} {d : List Byte} {sem : EntrySem} {w : DRow} (hi : i < 0xF000)
    (hs : 1 ≤ sub) (hw : dictRow i sub = some w) {r : Nat} (h : checks s via true w sem d.length (leNat d) = r + 1) :
    serve s ⟨via, 0, true, i, sub, d.length, d, 0⟩ sem = finish s (ansOf (r + 1) 0 (some w) sub []) := by
  unfold serve
  simp only [if_neg (show ¬0xF000 ≤ i by omega), if_neg (show ¬sub = 0 by omega), hw, if_true, h]

/-- A served write that passes every check has its effect, after the leader of a pair has forwarded it. -/
theorem serve_accepted {s : State} {via : Path} {i sub : Nat} {d : List Byte} {sem : EntrySem} {w : DRow} (hi : i < 0xF000)
    (hs : 1 ≤ sub) (hw : dictRow i sub = some w) (h : checks s via true w sem d.length (leNat d) = 0) :
    serve s ⟨via, 0, true, i, sub, d.length, d, 0⟩ sem =
      finish (accept (forwardWrite s ⟨via, 0, true, i, sub, d.length, d, 0⟩) via w (i * 256 + sub) sem (leNat d))
        (ansOf 0 0 (some w) sub []) := by
  unfold serve
  simp only [if_neg (show ¬0xF000 ≤ i by omega), if_neg (show ¬sub = 0 by omega), hw, if_true, h]

/-- The answer is all that `finish` changes. -/
@[simp] theorem finish_dict (s : State) (a : DictAns) : (finish s a).dict = s.dict := rfl
@[simp] theorem finish_mem (s : State) (a : DictAns) : (finish s a).mem = s.mem := rfl
@[simp] theorem finish_cores (s : State) (a : DictAns) : (finish s a).cores = s.cores := rfl
@[simp] theorem finish_pending (s : State) (a : DictAns) : (finish s a).pending = s.pending := rfl
@[simp] theorem finish_answer (s : State) (a : DictAns) : (finish s a).host.answer = a := rfl
theorem done_finish (s : State) (a : DictAns) : done s (finish s a) = .next (finish s a) := rfl

/-- A pair that does not lead forwards nothing. -/
theorem forwardWrite_eq {s : State} (a : Access) (h : rd s E.twin_role ≠ 1 ∨ s.twin.lost = true ∨ partitionEntry a.index = false) :
    forwardWrite s a = s := by
  unfold forwardWrite
  rw [if_neg]
  rintro ⟨h1, h2, h3⟩
  rcases h with h | h | h
  · exact h h1
  · simp [h] at h2
  · simp [h] at h3

end Sys2Proof.Machine
end

