-- ==== Sys2Proof/Laws/Control.lean ====
section
/-! SUPPORT. The control core: its registers, and what an instruction that goes on changes. -/

namespace Sys2Proof.Machine

open Sys2Proof

theorem x_setX (k : Core) (i v j : Nat) : (k.setX i v).x j = if j = i ∧ i ≠ 0 then v % 2 ^ 64 else k.x j := by
  unfold Core.setX Core.x
  by_cases hi : i = 0
  · simp [hi]
  · by_cases hj : j = i
    · subst hj; simp [hi]
    · simp only [hi, if_false, Tab.get_set_other hj, hj, false_and]

/-- X0 reads as zero (R271). -/
@[simp] theorem x_zero (k : Core) : k.x 0 = 0 := by simp [Core.x]

theorem x_lt (k : Core) (i : Nat) : k.x i < 2 ^ 64 := by
  unfold Core.x; split
  · exact Nat.two_pow_pos _
  · exact Nat.mod_lt _ (Nat.two_pow_pos _)

/-- A control core that may issue runs its instruction at its next beat. -/
theorem controlCore_free {s : State} {c : Nat} (h : ControlFree s c) (f : Core → Nat → State) :
    controlCore s c f = f (core s c) (core s c).cbeat := by
  obtain ⟨_, h1, h2, h3⟩ := h
  unfold controlCore
  simp only [h1, h2]
  rw [if_neg (by simp), if_neg (by omega)]

theorem onlyCore_set (s : State) (c : Nat) (k : Core) : OnlyCore s (setCore s c k) c := by
  unfold OnlyCore; rw [core_setCore_same]

/-- An instruction that goes on to `pc`, and writes v to register d. -/
theorem wrote_setX {s : State} {c : Nat} (pc next d v : Nat) (w : BitVec 64) (hv : v % 2 ^ 64 = w.toNat) :
    Wrote s (setCore s c (((core s c).goOn pc next).setX d v)) c pc next d w := by
  refine ⟨onlyCore_set .., ?_, ?_⟩
  · intro j
    rw [core_setCore_same, x_setX, hv]; rfl
  · rw [core_setCore_same]
    simp only [Core.setX, Core.goOn]
    split <;> rfl

end Sys2Proof.Machine
end

