-- ==== Sys2Proof/Laws/Package.lean ====
section
/-! SUPPORT. Byte strings as numbers, what the ciphers' lengths and bounds are, and that a package made for a release opens. -/

namespace Sys2Proof.Machine

open Sys2Proof

/-! ## Numbers and bytes -/

theorem beNat_append (l : List Byte) (b : Byte) : beNat (l ++ [b]) = beNat l * 256 + b.toNat := by simp [beNat]

theorem beNat_beBytes (n v : Nat) : beNat (beBytes n v) = v % 256 ^ n := by
  induction n generalizing v with
  | zero => simp [beBytes, leBytes, beNat, Nat.mod_one]
  | succ n ih =>
    have h : beBytes (n + 1) v = beBytes n (v / 256) ++ [BitVec.ofNat 8 v] := by simp [beBytes, leBytes]
    rw [h, beNat_append, ih, Nat.pow_succ', Nat.mod_mul]
    simp only [BitVec.toNat_ofNat]
    omega

theorem leNat_leBytes (n v : Nat) : leNat (leBytes n v) = v % 256 ^ n := by
  induction n generalizing v with
  | zero => simp [leBytes, leNat, Nat.mod_one]
  | succ n ih => rw [leBytes, leNat, ih, Nat.pow_succ', Nat.mod_mul]; simp

@[simp] theorem beBytes_length (n v : Nat) : (beBytes n v).length = n := by simp [beBytes]

theorem beNat_lt (l : List Byte) : beNat l < 256 ^ l.length := by
  suffices h : ∀ a, l.foldl (fun a b => a * 256 + b.toNat) a < (a + 1) * 256 ^ l.length by simpa [beNat] using h 0
  induction l with
  | nil => intro a; simp
  | cons b t ih =>
    intro a
    refine lt_of_lt_of_le (ih _) ?_
    rw [List.length_cons, Nat.pow_succ', ← Nat.mul_assoc]
    exact Nat.mul_le_mul_right _ (by have := b.isLt; dsimp only; omega)

/-! ## The block cipher and its modes -/

theorem sm4_rounds_length (l : List W32) {x : List W32} (h : x.length = 4) : (l.foldl sm4Round x).length = 4 := by
  induction l generalizing x with
  | nil => exact h
  | cons r t ih => exact ih (by simp [sm4Round, h])

theorem sm4_lt (key block : Nat) : sm4 key block < 2 ^ 128 := by
  have h := sm4_rounds_length (sm4Schedule key)
    (x := (groupsOf 4 4 (beBytes 16 block)).map fun g => BitVec.ofNat 32 (beNat g)) rfl
  have hl : (((sm4Schedule key).foldl sm4Round
      ((groupsOf 4 4 (beBytes 16 block)).map fun g => BitVec.ofNat 32 (beNat g))).reverse.flatMap
      fun w => beBytes 4 w.toNat).length = 16 := by
    simp [List.length_flatMap, h]
  exact lt_of_lt_of_eq (beNat_lt _) (by rw [hl]; norm_num)

theorem gfStep_lt {p : Nat × Nat} (b : Bool) (h : p.1 < 2 ^ 128 ∧ p.2 < 2 ^ 128) :
    (gfStep p b).1 < 2 ^ 128 ∧ (gfStep p b).2 < 2 ^ 128 := by
  have h2 : p.2 / 2 < 2 ^ 128 := by omega
  unfold gfStep
  constructor <;> dsimp only <;> split
  · exact Nat.xor_lt_two_pow h.1 h.2
  · exact h.1
  · exact Nat.xor_lt_two_pow h2 (by decide)
  · exact h2

theorem gfMul_lt (x : Nat) {y : Nat} (h : y < 2 ^ 128) : gfMul x y < 2 ^ 128 := by
  have step : ∀ (l : List Nat) (p : Nat × Nat), p.1 < 2 ^ 128 ∧ p.2 < 2 ^ 128 →
      (l.foldl (fun p i => gfStep p (bit x (127 - i))) p).1 < 2 ^ 128 := by
    intro l
    induction l with
    | nil => intro p h; exact h.1
    | cons i t ih => intro p h; exact ih _ (gfStep_lt _ h)
  exact step _ _ ⟨Nat.two_pow_pos _, h⟩

theorem ghash_lt {h : Nat} (hh : h < 2 ^ 128) (l : List Nat) : ghash h l < 2 ^ 128 := by
  have step : ∀ (l : List Nat) (y : Nat), y < 2 ^ 128 → l.foldl (fun y x => gfMul (y ^^^ x) h) y < 2 ^ 128 := by
    intro l
    induction l with
    | nil => intro y hy; exact hy
    | cons i t ih => intro y _; exact ih _ (gfMul_lt _ hh)
  exact step l 0 (by decide)

theorem gcmTag_lt (key nonce : Nat) (aad ct : List Byte) : gcmTag key nonce aad ct < 2 ^ 128 :=
  Nat.xor_lt_two_pow (ghash_lt (sm4_lt key 0) _) (sm4_lt key _)

theorem ctrStream_length (key n c : Nat) : (ctrStream key n c).length = 16 * n := by
  induction n generalizing c with
  | zero => rfl
  | succ n ih => simp [ctrStream, ih]; omega

@[simp] theorem gcmCrypt_length (key nonce : Nat) (d : List Byte) : (gcmCrypt key nonce d).length = d.length := by
  simp [gcmCrypt, ctrStream_length]; omega

theorem zipWith_xor_twice : ∀ (d k : List Byte), d.length ≤ k.length →
    List.zipWith (· ^^^ ·) (List.zipWith (· ^^^ ·) d k) k = d
  | [], _, _ => by simp
  | a :: d, [], h => by simp at h
  | a :: d, b :: k, h => by
    simp only [List.zipWith_cons_cons, zipWith_xor_twice d k (by simpa using h), BitVec.xor_assoc, BitVec.xor_self,
      BitVec.xor_zero]

/-- Counter mode undoes itself. -/
theorem gcmCrypt_twice (key nonce : Nat) (d : List Byte) : gcmCrypt key nonce (gcmCrypt key nonce d) = d := by
  rw [gcmCrypt, gcmCrypt_length, gcmCrypt]
  exact zipWith_xor_twice _ _ (by simp [ctrStream_length]; omega)

/-! ## Making a package (R747, R748) -/

/-- The key that wraps a content key, from the first 88 bytes of a header and a secret. -/
def wrapKey (a secret : List Byte) : Nat :=
  kdf128 (beBytes 32 (wrapShared (pointOf (pkgBytes a 24 64)).1 (pointOf (pkgBytes a 24 64)).2 % 2 ^ 256) ++ secret ++
    pkgBytes a 8 8)

/-- A header of 256 bytes: its first 88, a content key wrapped with its tag, and a nonce. -/
def madeHeader (a secret : List Byte) (key iv : Nat) : List Byte :=
  let ct := gcmCrypt (wrapKey a secret) 0 (beBytes 16 key)
  a ++ (ct ++ (beBytes 16 (gcmTag (wrapKey a secret) 0 a ct) ++ (beBytes 12 iv ++ List.replicate 124 0)))

/-- The whole package of a plaintext. -/
def madePackage (a secret : List Byte) (key iv : Nat) (pt : List Byte) : List Byte :=
  let h := madeHeader a secret key iv
  let ct := gcmCrypt key iv pt
  h ++ (ct ++ beBytes 16 (gcmTag key iv h ct))

theorem madeHeader_length {a : List Byte} (h : a.length = 88) (secret : List Byte) (key iv : Nat) :
    (madeHeader a secret key iv).length = 256 := by simp [madeHeader, h]

/-- A field of the first 88 bytes. -/
theorem pkgBytes_made {a : List Byte} (h : a.length = 88) (secret : List Byte) (key iv o n : Nat) (hb : o + n ≤ 88) :
    pkgBytes (madeHeader a secret key iv) o n = pkgBytes a o n := by
  simp only [pkgBytes, madeHeader]
  rw [List.drop_append_of_le_length (by omega), List.take_append_of_le_length (by rw [List.length_drop]; omega)]

theorem contentKey_made {a : List Byte} (h : a.length = 88) (hc : onCurve (pointOf (pkgBytes a 24 64)) = true)
    (secret : List Byte) {key : Nat} (hk : key < 2 ^ 128) (iv : Nat) :
    contentKey (madeHeader a secret key iv) secret = some key := by
  have ct : pkgBytes (madeHeader a secret key iv) 88 16 = gcmCrypt (wrapKey a secret) 0 (beBytes 16 key) := by
    simp only [pkgBytes, madeHeader]
    rw [List.drop_left' h, List.take_left' (by simp)]
  have tag : pkgBytes (madeHeader a secret key iv) 104 16 =
      beBytes 16 (gcmTag (wrapKey a secret) 0 a (gcmCrypt (wrapKey a secret) 0 (beBytes 16 key))) := by
    simp only [pkgBytes, madeHeader]
    rw [← List.append_assoc a, List.drop_left' (by simp [h]), List.take_left' (by simp)]
  have first : (madeHeader a secret key iv).take 88 = a := by simp only [madeHeader]; exact List.take_left' h
  have bound : ∀ v, v < 2 ^ 128 → v % 256 ^ 16 = v := fun v h => Nat.mod_eq_of_lt (lt_of_lt_of_eq h (by norm_num))
  unfold contentKey
  simp only [pkgBytes_made h secret key iv 24 64 (by omega), pkgBytes_made h secret key iv 8 8 (by omega), ct, tag, first]
  rw [← wrapKey, beNat_beBytes, bound _ (gcmTag_lt _ _ _ _), hc, gcmCrypt_twice, beNat_beBytes, bound _ hk]
  simp

/-- The machine with a package at a, unmarked, whose plaintext is pt. -/
def holdsPackage (s : State) (a : Nat) (b secret : List Byte) (key iv : Nat) (pt : List Byte) : State :=
  wrBytes s a (madePackage b secret key iv pt)

theorem rdBytes_append (s : State) (k m n : Nat) : rdBytes s k (m + n) = rdBytes s k m ++ rdBytes s (k + m) n := by
  simp only [rdBytes_eq_map, List.range_add, List.map_append, List.map_map]
  congr 1
  exact List.map_congr_left fun i _ => by simp [Nat.add_assoc]

theorem rdBytes_package (s : State) (a : Nat) {b : List Byte} (hb : b.length = 88) (secret : List Byte) (key iv : Nat)
    (pt : List Byte) :
    let t := holdsPackage s a b secret key iv pt
    let h := madeHeader b secret key iv
    rdBytes t a 256 = h ∧ rdBytes t (a + 256) pt.length = gcmCrypt key iv pt ∧
      rdBytes t (a + 256 + pt.length) 16 = beBytes 16 (gcmTag key iv h (gcmCrypt key iv pt)) := by
  dsimp only
  have all := rdBytes_wrBytes s a (madePackage b secret key iv pt)
  have n : (madePackage b secret key iv pt).length = 256 + (pt.length + 16) := by
    simp [madePackage, madeHeader_length hb]
  rw [n, rdBytes_append, rdBytes_append] at all
  conv at all => rhs; unfold madePackage
  have p := List.append_inj all (by simp [madeHeader_length hb])
  have q := List.append_inj p.2 (by simp)
  exact ⟨p.1, q.1, q.2⟩

/-- A made package is plain again under its content key. -/
theorem pkgPlain_made (s : State) (a : Nat) {b : List Byte} (hb : b.length = 88) (secret : List Byte) (key : Nat) {iv : Nat}
    (hi : iv < 2 ^ 96) (pt : List Byte) (hl : leNat (pkgBytes b 16 8) = pt.length)
    (hp : poisoned (holdsPackage s a b secret key iv pt) a (256 + pt.length + 16) = false) :
    pkgPlain (holdsPackage s a b secret key iv pt) a key = some pt := by
  obtain ⟨h1, h2, h3⟩ := rdBytes_package s a hb secret key iv pt
  have len : pkgLength (madeHeader b secret key iv) = pt.length := by
    rw [← hl, ← pkgBytes_made hb secret key iv 16 8 (by omega)]; rfl
  have nonce : beNat (pkgBytes (madeHeader b secret key iv) 120 12) = iv := by
    have : pkgBytes (madeHeader b secret key iv) 120 12 = beBytes 12 iv := by
      simp only [pkgBytes, madeHeader]
      rw [← List.append_assoc, ← List.append_assoc, List.drop_left' (by simp [hb]), List.take_left' (by simp)]
    rw [this, beNat_beBytes, Nat.mod_eq_of_lt (lt_of_lt_of_eq hi (by norm_num))]
  unfold pkgPlain
  dsimp only
  rw [h1, len, h2, h3, nonce, hp, beNat_beBytes, Nat.mod_eq_of_lt (lt_of_lt_of_eq (gcmTag_lt _ _ _ _) (by norm_num)),
    gcmCrypt_twice]
  simp

end Sys2Proof.Machine
end

