-- ==== Sys2Proof/Tests/States.lean ====
section
/-! SUPPORT. Small machine states from which the tests start. -/

open Sys2Proof (Instr Byte Path Opnd XIns AIns CIns Eng Ecc Msg)

open Sys2Proof.Machine

namespace Tests

set_option Elab.async false

/-- The part in service after boot: the main stage is on, and every pacer is locked. -/
def ready : State :=
  wr (wr { State.reset with supply := { State.reset.supply with mainOn := true } } E.boot_state 3) E.pacer_lock_status 0xFFFFFFFF

/-- An on-chip physical address (R181). -/
def onchip (x t o : Nat) : Nat := 4 * 2 ^ 37 + x * 2 ^ 32 + t * 2 ^ 27 + o

/-- A page's entry that may be read, written and executed (R454). -/
def page (pa : Nat) : Nat := 2 ^ 63 + 2 ^ 61 + 2 ^ 60 + 2 ^ 59 + pa

/-- Partition 0 holds every sector; page 6 lies in HBM, page 7 in the commons of sector 0. -/
def mapped : State :=
  wr (wr { ready with xlat := [(6, page 0x500000000), (7, page (onchip 0 31 0x100000))] } E.part_state 1)
    E.part_sectors 0xFFFFFFFF

/-- A command record: six words, and its checksum in the last (R387). -/
def record (ws : List Nat) : List Byte :=
  let d := (ws ++ List.replicate 7 0).take 7 |>.flatMap (leBytes 8)
  d ++ leBytes 4 0 ++ leBytes 4 (crc32c d)

/-- A record taken into a ring. -/
def taken (r : List Byte) (started : Bool) : Taken := ⟨r, started, 0, 0, false, 0, 0, none, []⟩

/-- Ring k of sector x, with 16 slots and 16 completion slots, in this state (R675). -/
def ringAt (s : State) (x k st : Nat) : State :=
  let a := 256 * (8 * x + k)
  wr (wr (wr (wr (wr (wr s (E.ring_slots + a) 16) (E.ring_comp_slots + a) 16) (E.ring_slot_offset + a) 0x4000)
    (E.ring_comp_offset + a) 0x8000) (E.ring_status + a) st) (E.ring_enable + a) (if st = 1 then 1 else 0)

/-- The machine with bytes put at a key. -/
def put (s : State) (k : Nat) (d : List Nat) : State := wrBytes s k (d.map (BitVec.ofNat 8))

end Tests
end

