-- ==== Sys2Proof/Tests/Streams.lean ====
section
/-! SUPPORT. States in which the hypotheses of the statements about the two streams of a block hold together. -/

open Sys2Proof (Instr Byte Path Opnd XIns AIns CIns Eng Ecc Msg)

open Sys2Proof.Machine

namespace Tests

set_option Elab.async false

/-- A block in whose middle both streams stand. -/
def blk : Block := ⟨2, 59, 12, 40, 16, 59, false, 8, 59, false, 0, 70⟩

def streamCore : Core :=
  { Core.init with
    running := true, beat := 58, cbeat := 70, block := some blk, lc := [(0, 4), (1, 1), (4, 6), (5, 1)]
    lcInit := [(0, 4), (1, 9), (5, 7)], pool := 0xFF00, free := 0xF400, gens := [(9, 2)]
    queues := [(0, ⟨false, 4, [(true, 3, 4, 6)], 0⟩), (1, ⟨true, 4, [(true, 0, 0, 5), (false, 9, 2, 6)], 0⟩),
               (2, ⟨true, 2, [(false, 9, 2, 5)], 62⟩), (3, ⟨false, 2, [], 66⟩)] }

def stream : State := setCore ready 3 streamCore

def xi (dst : Opnd) (issue imm : Nat) : XIns := ⟨issue, dst, .tile 0 0, .tile 0 0, BitVec.ofNat 18 imm⟩

theorem stream_execute (a : Nat) (h : a = 59 ∨ a = 62) : ExecuteFree stream 3 a blk (retire stream 3 a) := by
  unfold ExecuteFree
  rcases h with rfl | rfl <;> exact ⟨by decide +kernel, by decide +kernel, by decide +kernel, by decide +kernel, rfl, rfl,
    by decide +kernel, rfl, blk, by decide +kernel, rfl⟩

theorem stream_access (a : Nat) (h : a = 59 ∨ a = 66 ∨ a = 62) : AccessFree stream 3 a blk (retire stream 3 a) := by
  unfold AccessFree
  rcases h with rfl | rfl | rfl <;> exact ⟨by decide +kernel, by decide +kernel, by decide +kernel, by decide +kernel, rfl,
    rfl, by decide +kernel, by decide +kernel, by decide +kernel, rfl, blk, by decide +kernel, rfl⟩

/-- A word at the execute stream's place that holds an `END`, and one that holds nothing; the same of the access stream. -/
def ended (e a : Nat) : State :=
  wrBytes (wrBytes stream (Mem.prog 3 0 (8 * (blk.word + blk.xpos))) (leBytes 8 e))
    (Mem.prog 3 0 (8 * (blk.word + blk.apos))) (leBytes 8 a)

theorem ended_execute (e w a : Nat) (h : (e, w, a) ∈ [(7 * 2 ^ 55 + 0x7F * 2 ^ 48, 0x3F * 2 ^ 58, 62), (0, 0, 59)]) :
    ExecuteFree (ended e w) 3 a blk (retire (ended e w) 3 a) := by
  unfold ExecuteFree
  rcases List.mem_pair.mp h with h | h <;> cases h <;> exact ⟨by decide +kernel, by decide +kernel, by decide +kernel,
    by decide +kernel, rfl, rfl, by decide +kernel, rfl, blk, by decide +kernel, rfl⟩

theorem witness_ExecuteStreamRuns_ends :
    let e := 7 * 2 ^ 55 + 0x7F * 2 ^ 48
    let w := 0x3F * 2 ^ 58
    ExecuteFree (ended e w) 3 62 blk (retire (ended e w) 3 62) ∧
      execDefined (frontWord (ended e w) 3 (blk.word + blk.xpos)) = true ∧ Tab.get 0 (core (ended e w) 3).busyTo 7 ≤ 62 ∧
      ExecuteFree (ended 0 0) 3 59 blk (retire (ended 0 0) 3 59) ∧
      59 = blk.xbase + frontWord (ended 0 0) 3 (blk.word + blk.xpos) / 2 ^ 58 % 64 ∧
      execDefined (frontWord (ended 0 0) 3 (blk.word + blk.xpos)) = false :=
  ⟨ended_execute _ _ _ (by decide), by decide +kernel, by decide +kernel, ended_execute _ _ _ (by decide), by decide +kernel,
    by decide +kernel⟩

theorem ended_access (e w : Nat) (h : (e, w) ∈ [(7 * 2 ^ 55 + 0x7F * 2 ^ 48, 0x3F * 2 ^ 58), (0, 0)]) :
    AccessFree (ended e w) 3 59 blk (retire (ended e w) 3 59) := by
  unfold AccessFree
  rcases List.mem_pair.mp h with h | h <;> cases h <;> exact ⟨by decide +kernel, by decide +kernel, by decide +kernel,
    by decide +kernel, rfl, rfl, by decide +kernel, by decide +kernel, by decide +kernel, rfl, blk, by decide +kernel, rfl⟩

theorem witness_AccessControl_ends :
    let e := 7 * 2 ^ 55 + 0x7F * 2 ^ 48
    let w := 0x3F * 2 ^ 58
    AccessFree (ended e w) 3 59 blk (retire (ended e w) 3 59) ∧ 59 = max (max blk.anext blk.b0) (core (ended e w) 3).beat ∧
      accessUndefined (retire (ended e w) 3 59) 3 = false ∧ AccessFree (ended 0 0) 3 59 blk (retire (ended 0 0) 3 59) ∧
      59 = max (max blk.anext blk.b0) (core (ended 0 0) 3).beat ∧ accessUndefined (retire (ended 0 0) 3 59) 3 = true :=
  ⟨ended_access _ _ (by decide), by decide +kernel, by decide +kernel, ended_access _ _ (by decide), by decide +kernel,
    by decide +kernel⟩

/-- `LOOP` back to the first instruction with its counter above 1, on with its counter at 1; a push at the beat of the
queue's room and at the planned beat; a pop; `FREE` of a tile of the pool. -/
theorem witness_ExecuteStreamRuns :
    let k := core (retire stream 3 62) 3
    ExecuteFree stream 3 62 blk (retire stream 3 62) ∧ 62 = blk.xbase + (xi (.tile 9 2) 3 4).issue ∧
      Tab.get 0 k.busyTo 7 ≤ 62 ∧ Tab.get 0 k.lc 0 = 4 ∧ blk.exeStart + 4 = blk.xpos ∧ Tab.get 0 k.lc 1 = 1 ∧
      ((core stream 3).queue 2).toAccess = true ∧ ((core stream 3).queue 2).entries.length = 1 ∧
      ((core stream 3).queue 2).depth = 2 ∧ 62 = max (blk.xbase + 0) ((core stream 3).queue 2).roomAt ∧
      k.checkSrc 62 (some 62) 9 2 = none ∧ ((core stream 3).queue 0).toAccess = false ∧
      ((core stream 3).queue 0).entries = (true, 3, 4, 6) :: [] ∧ 62 = max (blk.xbase + 3) (6 + 1) :=
  ⟨stream_execute 62 (.inr rfl), by decide +kernel⟩

def ai (q imm : Nat) : AIns := ⟨1, q, 2, false, 0, 0, BitVec.ofNat 16 imm⟩

/-- `TOK` at the beat of the queue's room, `WTOK` of a token, `LOOP` to the first instruction and on, at the earliest beat. -/
theorem witness_AccessControl :
    let k := core (retire stream 3 59) 3
    AccessFree stream 3 66 blk (retire stream 3 66) ∧ ((core stream 3).queue 3).toAccess = false ∧
      ((core stream 3).queue 3).entries.length < ((core stream 3).queue 3).depth ∧
      66 = max (max (max blk.anext blk.b0) (core stream 3).beat) ((core stream 3).queue 3).roomAt ∧
      AccessFree stream 3 59 blk (retire stream 3 59) ∧ 59 = max (max blk.anext blk.b0) (core stream 3).beat ∧
      ((core stream 3).queue 1).toAccess = true ∧
      ((core stream 3).queue 1).entries = (true, 0, 0, 5) :: [(false, 9, 2, 6)] ∧
      Tab.get 0 k.lc (4 + (ai 0 4).queue % 4) = 6 ∧ 4 + (ai 0 4).imm.toNat = blk.apos ∧
      Tab.get 0 k.lc (4 + (ai 1 4).queue % 4) = 1 :=
  ⟨stream_access 66 (.inr (.inl rfl)), by decide +kernel, by decide +kernel, by decide +kernel,
    stream_access 59 (.inl rfl), by decide +kernel⟩

/-- A walk context: 64 lines of the mapped page (R258). -/
def lines (base : Nat) : List Byte :=
  leBytes 8 (3 * 2 ^ 54 + base) ++ leBytes 8 (512 + 4 * 2 ^ 24) ++ leBytes 8 (1 + 2 ^ 24) ++ leBytes 8 1 ++
    leBytes 8 (8 + 4096 * 2 ^ 32) ++ leBytes 8 0 ++ leBytes 8 0 ++ leBytes 8 0

def putContext (s : State) (n : Nat) (d : List Byte) : State := wrBytes s (Mem.prog 3 0 (8 * (16128 + 8 * n))) d

/-- The same core with two contexts over the mapped page; queue 1 holds a tile. -/
def moving : State :=
  putContext (putContext (setCore mapped 3
    { streamCore with queues := [(1, ⟨true, 4, [(false, 9, 2, 6)], 0⟩), (3, ⟨false, 2, [], 66⟩)] }) 1 (lines 0x60000))
    2 (lines 0x64000)

/-- The same with a context over a page that is not mapped. -/
def unmapped : State := putContext moving 1 (lines 0x90000)

theorem moving_access : AccessFree moving 3 59 blk (retire moving 3 59) := by
  unfold AccessFree
  exact ⟨by decide +kernel, by decide +kernel, by decide +kernel, by decide +kernel, rfl,
    rfl, by decide +kernel, by decide +kernel, by decide +kernel, rfl, blk, by decide +kernel, rfl⟩

def loadPool : AIns := ⟨1, 3, 0, true, 0, 0, 0⟩

def store : AIns := ⟨1, 1, 0, false, 0, 0, 0⟩
def copy : AIns := ⟨1, 0, 2, false, 0, 0, 4⟩

/-- A transfer of which no address is out of reach goes. -/
theorem goes_of_reached (s : State) (c : Nat) (x : Xfer) (hk : x.kind ≠ .kopen)
    (h : ((dropBytes (xferPieces s c x) x.done).map (place s c x)).find? (fun p => p.code != 0) = none) : Goes s c x := by
  unfold Goes; rw [if_neg hk]; intro p hp; rw [h] at hp; cases hp

/-- A load into the lowest free tile of the PE, a load into tile 2, a store of tile 9, a copy of 256 bytes. -/
theorem witness_TransfersIssue :
    let u := retire moving 3 59
    let k := core u 3
    let moves := fun (kind : XferKind) (dst q tile n : Nat) (pooled : Bool) =>
      Goes u 3 (newXfer u 3 kind (blk.word + blk.apos) 59 1 dst q tile pooled n)
    (moves .ldt 0 3 10 4096 true ∧ moves .ldt 0 3 2 4096 false ∧ moves .stt 0 1 9 4096 false ∧
      moves .cpy 2 0 0 (64 * copy.imm.toNat) false) ∧
    AccessFree moving 3 59 blk u ∧ k.inFlight < 16 ∧ ctxUsable u 3 1 = true ∧ ctxUsable u 3 2 = true ∧
      59 = max (max blk.anext blk.b0) (core moving 3).beat ∧ ((core moving 3).queue 3).toAccess = false ∧
      (∀ i ∈ [loadPool, copy], loadReady i (core moving 3) 59 = some 59) ∧
      loadPool.eng ≤ 2 ∧ (poolRange loadPool.eng).find? (bit k.free) = some 10 ∧ loadCheck k 59 loadPool = none ∧
      loadCheck k 59 copy = none ∧ ((core moving 3).queue 1).toAccess = true ∧
      ((core moving 3).queue 1).entries = [(false, 9, 2, 6)] ∧ k.checkSrc 59 none 9 2 = none ∧ copy.context ≠ copy.tile := by
  refine ⟨⟨?_, ?_, ?_, ?_⟩, moving_access, by decide +kernel⟩ <;>
    exact goes_of_reached _ _ _ (by decide) (by decide +kernel)

/-- A load of a page that no entry maps holds at once: the first address out of reach is one whose code is 0x0301. -/
theorem witness_TransfersIssue_holds :
    let u := retire unmapped 3 59
    Goes u 3 (newXfer u 3 .ldt (blk.word + blk.apos) 59 1 0 3 2 false 4096) := by
  refine (if_neg (by decide)).mpr fun p hp => ?_
  have h : ((dropBytes (xferPieces (retire unmapped 3 59) 3 (newXfer (retire unmapped 3 59) 3 .ldt (blk.word + blk.apos) 59 1 0 3 2
      false 4096)) 0).map (place (retire unmapped 3 59) 3 (newXfer (retire unmapped 3 59) 3 .ldt (blk.word + blk.apos) 59 1 0 3 2
      false 4096))).all (fun p => p.code == 0 || p.code == 0x0301) = true := by decide +kernel
  have := List.all_eq_true.mp h p (List.mem_of_find?_eq_some hp)
  have hc := List.find?_some hp
  simp only [bne_iff_ne, ne_eq] at hc
  simpa [hc] using this

end Tests
end

