-- ==== Sys2Proof/Tests/KeyContexts.lean ====
section
/-! SUPPORT. States in which the hypotheses of the statements about key contexts hold together. -/

open Sys2Proof (Instr Byte Path Opnd XIns AIns CIns Eng Ecc Msg)

open Sys2Proof.Machine

namespace Tests

set_option Elab.async false

/-- An open context of three chunks, of which the first has its verdict. -/
def keyCtx : KeyCtx :=
  { KeyCtx.init with state := 1, logn := 13, list := [0, 1], digits := 2, seed := 12345, primes := 3, stageA := 4, stageB := 6
                     fetched := 1, arrived := 1, staged := [⟨1, 0, true, 0, 0, []⟩] }

def keyCore (k : KeyCtx) : Core :=
  { streamCore with keys := [(0, k), (1, { k with state := 2, staged := [], fetched := 3, arrived := 3 })]
                    queues := [(1, ⟨false, 4, [(true, 0, 0, 6)], 0⟩)] }

def keyed (k : KeyCtx) (xs : List Xfer) : State :=
  putContext (putContext (setCore (wr mapped (E.chain_prime_count + 256 * 12) 2) 3 { keyCore k with xfers := xs }) 1 (lines 0x60000)) 2 (lines 0x64000)

def kins (tile imm : Nat) : AIns := ⟨1, 1, tile, false, 0, 0, BitVec.ofNat 16 imm⟩

theorem keyed_access : AccessFree (keyed keyCtx []) 3 59 blk (retire (keyed keyCtx []) 3 59) := by
  unfold AccessFree
  exact ⟨by decide +kernel, by decide +kernel, by decide +kernel, by decide +kernel, rfl,
    rfl, by decide +kernel, by decide +kernel, by decide +kernel, rfl, blk, by decide +kernel, rfl⟩

theorem witness_KeyContexts :
    let s := keyed keyCtx []
    let u := retire s 3 59
    let k := core u 3
    AccessFree s 3 59 blk u ∧ 59 = max (max blk.anext blk.b0) (core s 3).beat ∧
      ((core s 3).queue 1).toAccess = false ∧ ctxUsable u 3 1 = true ∧ chainPrimes u (0x0C00 / 256) ≠ 0 ∧
      (k.key 0).state = 1 ∧ (k.key 0).ring = none ∧ ((core s 3).key 0).ring = none ∧ (k.key 0).fetched < (k.key 0).total ∧
      (k.key 0).freePlace = some 0 ∧ k.inFlight < 16 ∧
      (k.key 0).staged.find? (fun g => decide (g.taken < (k.key 0).tiles)) = some ⟨1, 0, true, 0, 0, []⟩ ∧
      (kins 8 0).pool = false ∧ (kins 8 0).tile < 16 ∧ loadCheck k 59 (kins 8 0) = none ∧ k.fetching 0 = false ∧
      (k.key 1).state ≠ 0 ∧ (k.key 1).fetched ≤ (k.key 1).arrived ∧
      ((core s 3).queue 1).entries.length < ((core s 3).queue 1).depth ∧ ((core s 3).queue 1).roomAt ≤ 59 :=
  ⟨keyed_access, by decide +kernel⟩

/-- The transfer of `KCHAIN` reaches every address; that of `KOPEN` holds at its descriptor, whose page is not mapped. -/
theorem witness_KeyContexts_goes :
    let u := retire (keyed keyCtx []) 3 59
    Goes u 3 (newXfer u 3 .kopen 10 59 1 0 1 0 false 64) ∧
      Goes u 3 { newXfer u 3 .kchain 10 59 1 0 0 12 false 4096 with cursor := 0, dstCursor := 0 } := by
  refine ⟨?_, goes_of_reached _ _ _ (by decide) (by decide +kernel)⟩
  have h : (probeOpen (retire (keyed keyCtx []) 3 59) 3 (newXfer (retire (keyed keyCtx []) 3 59) 3 .kopen 10 59 1 0 1 0 false
      64)).all (fun p => p.code == 0x0301) = true := by decide +kernel
  exact (if_pos rfl).mpr fun p hp => by rw [hp] at h; simpa using h

/-- A context whose first chunk is on its way. -/
def fetching : State :=
  keyed { keyCtx with arrived := 0, staged := [⟨1, 0, false, 0, 0, []⟩] }
    [⟨7, .kfetch, 10, 59, 0, 0, 0, 0, false, 0, 0, 0, 0, 65536, 0, [], 0, none, 0, false, 0⟩]

/-- Its chunk stands in the key store as zeros, which fail the tag and the place in the plan. -/
theorem witness_KeyContexts_arrival :
    let k := core fetching 3
    let v := k.key 0
    let at_ := Mem.hbm (v.base + (64 + v.payload) * v.indexAt (v.position v.arrived))
    fetching.power.entry = none ∧ asleep fetching 0 = false ∧ k.running = true ∧ k.passes = [] ∧ v.ring = none ∧
      v.state = 1 ∧ at_ + 64 + v.payload ≤ 2 ^ 38 ∧ k.grants = [] ∧ fetching.flips = [] ∧
      (k.xfers.find? (fun x => x.kind == .kfetch && x.dstContext == 0)).isSome = true ∧
      v.staged.find? (fun g => g.position == v.arrived) = some ⟨1, 0, false, 0, 0, []⟩ ∧
      (hbmStatus fetching at_ 64 .clean).1 = 0 ∧ (hbmStatus fetching (at_ + 64) v.payload .clean).1 = 0 ∧
      chunkChecks v 0 (rdBytes fetching at_ 64) [] ≠ 0 := by
  decide +kernel

end Tests
end

