-- ==== Sys2Proof/Tests/Access.lean ====
section
/-! SUPPORT. States in which the hypotheses of the statements about accesses to the dictionary hold together. -/

open Sys2Proof (Instr Byte Path Opnd XIns AIns CIns Eng Ecc Msg)

open Sys2Proof.Machine

namespace Tests

set_option Elab.async false

/-- The part of a row that the checks of an access look at. -/
def rowIs (k : Nat) (acc : Acc) (size : Nat) (sh : Bool) : Bool :=
  (dictRow (k / 256) (k % 256)).any fun w => w.acc == acc && w.size == size && w.sh == sh

/-- `key_store_gib` is idle only while no key context is open. -/
def keyOpen : State := setCore mapped 3 { streamCore with keys := [(0, keyCtx)] }

theorem serves_plain : Serves mapped E.sag_input_enable ∧ Serves keyOpen E.key_store_gib := by
  unfold Serves; decide +kernel

/-- One access for each check of R861: no entry, no right, no authentication, a wrong length, a wrong value, an entry that is not
idle, and an access that passes them all, with a W1C entry among these. -/
theorem witness_AccessesAnswer :
    let ok := fun (s : State) (k : Nat) (d : List Byte) =>
      let m := entrySem (k / 256) (k % 256)
      d.length = ((dictRow (k / 256) (k % 256)).map DRow.size).getD 0 ∧ m.authOnly = false ∧ m.rule s (leNat d) = true
    (Serves mapped 0x123401 ∧ dictRow 0x1234 1 = none) ∧
    (Serves mapped E.boot_state ∧ rowIs E.boot_state .ro 1 false = true) ∧
    (Serves mapped 0x802101 ∧ rowIs 0x802101 .trust 32 false = true ∧ authentic mapped .bar0 = false ∧
      (entrySem 0x8021 1).exempt mapped .bar0 = false) ∧
    (Serves mapped E.sag_input_enable ∧ rowIs E.sag_input_enable .rw 1 false = true ∧
      (entrySem (E.sag_input_enable / 256) 1).authOnly = false ∧ ok mapped E.sag_input_enable [1] ∧
      (entrySem (E.sag_input_enable / 256) 1).idle mapped = true) ∧
    (Serves keyOpen E.key_store_gib ∧ ok keyOpen E.key_store_gib (leBytes 2 1) ∧
      (entrySem (E.key_store_gib / 256) (E.key_store_gib % 256)).idle keyOpen = false) ∧
    (Serves mapped 0x201301 ∧ rowIs 0x201301 .w1c 4 false = true ∧ ok mapped 0x201301 [1, 0, 0, 0]) := by
  unfold Serves; decide +kernel

/-- The machine with four accesses of its I3C binding outstanding, and with its window busy. -/
def crowded : State :=
  { mapped with host := { mapped.host with stalled := List.replicate 4 ⟨.mctp .i3c true, 0, true, 0x2000, 1, 1, [], 0⟩ } }
def windowBusy : State := { mapped with host := { mapped.host with dw := { mapped.host.dw with busy := true } } }

/-- A readable entry, an RC entry and a command entry; a fifth tag; the window idle and busy. -/
theorem witness_AccessesAnswer_reads :
    (Serves mapped E.boot_state ∧ rowIs E.boot_state .ro 1 false = true ∧
      (entrySem (E.boot_state / 256) 1).authOnly = false ∧ outstandingOn mapped .bar0 < 4 ∧
      mapped.host.dw.busy = false ∧ waitsFor mapped windowTag = false) ∧
    (Serves mapped 0x202201 ∧ rowIs 0x202201 .rc 4 false = true ∧ (entrySem 0x2022 1).authOnly = false) ∧
    (Serves mapped 0x203501 ∧ rowIs 0x203501 .cmd 8 false = true ∧ (entrySem 0x2035 1).authOnly = false) ∧
    (Serves crowded E.boot_state ∧ outstandingOn crowded (.mctp .i3c true) = 4) ∧
    (Serves windowBusy E.boot_state ∧ windowBusy.host.dw.busy = true) := by
  unfold Serves; decide +kernel

/-- The device serves the entries that have instances, and the first number that each lacks ends with result 1. -/
theorem witness_AccessesAnswer_instances :
    ([E.part_cmd, E.nr_cmd, E.port_cmd, E.ring_enable, E.trust_anchor].all fun k => gate mapped (k / 256) == .serve) ∧
      ([Instr.partAssign .bar0 32 true, .nrErase .bar0 32, .portEnable .bar0 34, .ringEnable .bar0 0 8, .trustAnchorWrite .bar0 4 []].all
        fun n => match exec n mapped with | .next t => result t == 1 | _ => false) = true := by
  decide +kernel

/-- Each reason to hold an access back, alone. -/
theorem witness_AccessesHeldBack :
    let held := { mapped with supply := { mapped.supply with aonHeld := true } }
    let saves := { mapped with save := { mapped.save with running := true } }
    let tests := { mapped with recovery := { mapped.recovery with fullTest := some 1 } }
    let answers := fun (s : State) => s.supply.aonHeld = false ∧ s.save.running = false ∧ s.recovery.fullTest = none
    held.supply.aonHeld = true ∧ saves.save.running = true ∧ tests.recovery.fullTest ≠ none ∧ 0x4100 / 4096 ≠ 1 ∧
      (answers (wr mapped E.boot_state 1) ∧ rd (wr mapped E.boot_state 1) E.boot_state = 1) ∧
      (answers (wr mapped E.boot_state 2) ∧ rd (wr mapped E.boot_state 2) E.boot_state = 2) ∧
      (rowIs 0x410001 .rwi 4 true = true ∧ gate (wr mapped E.out_of_service 1) 0x4100 = .serve ∧
        rd (wr mapped E.out_of_service 1) E.out_of_service = 1) ∧
      (gate (wr mapped E.domain_state 4) 0x4100 = .serve ∧ rd (wr mapped E.domain_state 4) E.out_of_service ≠ 1 ∧
        (wr mapped E.domain_state 4).power.entry = none ∧
        domainOn (wr mapped E.domain_state 4) (shDomain (wr mapped E.domain_state 4) 0x4100 1) = false) := by
  decide +kernel

end Tests
end

