-- ==== Sys2Proof/Tests/HostSide.lean ====
section
/-! SUPPORT. States in which the hypotheses of the statements about the host's paths, firmware and translation hold together. -/

open Sys2Proof (Instr Byte Path Opnd XIns AIns CIns Eng Ecc Msg ImageVerdict)

open Sys2Proof.Machine

namespace Tests

set_option Elab.async false

/-- BAR2 shows partition 0's part of HBM. -/
def hosted : State :=
  wr (wr (wr (wr mapped E.bar2_base 0x500000000) E.part_hbm_base 0x500000000) E.part_hbm_bytes 0x100000000) E.bar2_partition 0

def msixState (behind : BitVec 64) : State :=
  { hosted with host := { hosted.host with busMaster := true, holdoff := 0xFF, behind := behind, pba := 5 } }

/-- The last bytes of BAR2 and of the ring window, and a stack that sleeps. -/
theorem witness_HostReaches :
    let asleep := (List.range 40).foldl (fun s d => wr s (E.domain_state + d) 4) hosted
    rd hosted E.boot_state ≠ 1 ∧ hosted.power.entry = none ∧ rd hosted E.out_of_service ≠ 1 ∧
      0xFFFFFFC + 4 ≤ 0x10000000 ∧ bar2Permits hosted (rd hosted E.bar2_base + 0xFFFFFFC) 4 = true ∧
      bar2Permits mapped (rd mapped E.bar2_base + 0) 4 = false ∧
      domainOn hosted (32 + stackAt hosted (rd hosted E.bar2_base) / 4) = true ∧
      (bar2Permits asleep (rd asleep E.bar2_base) 4 = true ∧
        domainOn asleep (32 + stackAt asleep (rd asleep E.bar2_base) / 4) = false) ∧
      (0x7FFFFC < 0x800000 ∧ 0x7FFFFC % 0x40000 + 4 ≤ 0x40000) ∧ domainOn hosted (0x7FFFFC / 0x40000) = true ∧
      domainOn asleep 0 = false ∧ bit (msixState 3).host.behind.toNat 63 = false ∧
      (bit (msixState 3).host.behind.toNat 1 = true ∧ (msixState 3).host.busMaster = true) := by
  decide +kernel

/-- A header of three sections, of kinds 1 to 3 and of no byte, then zeros (R730). -/
def goodImage : List Byte :=
  let part := fun (k : Nat) => leBytes 4 4096 ++ leBytes 4 0 ++ leBytes 1 k ++ List.replicate 7 0 ++ sm3 []
  let head := leBytes 4 0x56465748 ++ leBytes 2 1 ++ leBytes 2 5 ++ leBytes 1 2 ++ leBytes 1 3 ++ List.replicate 6 0 ++
    part 1 ++ part 2 ++ part 3
  head ++ List.replicate (4096 - head.length) 0

/-- What the device's keys say of it. -/
def goodVerdict : ImageVerdict := ⟨true, true, true, true, true, 5, [1]⟩

def staging (b : List Byte) : State := { mapped with island := { mapped.island with staging := some b } }

/-- `goodImage` passes every check, and three bytes do not. -/
theorem witness_HostReaches_image :
    ImageSound (staging goodImage) (fun o n => (goodImage.drop o).take n) goodImage.length goodVerdict ∧
      ¬ImageSound (staging [1, 2, 3]) (fun o n => (([1, 2, 3] : List Byte).drop o).take n) 3 goodVerdict := by
  unfold ImageSound
  refine ⟨⟨by decide +kernel, by decide +kernel, rfl, by decide +kernel, rfl, by decide +kernel, by decide +kernel,
    by decide +kernel, by decide +kernel, ?_, by decide +kernel, fun w h1 h3 => ?_⟩, fun h => absurd h.1 (by decide +kernel)⟩
  · decide +kernel
  · interval_cases w <;> decide +kernel

theorem witness_HostReaches_firmware :
    Serves mapped E.fw_load_cmd ∧ rd mapped E.fw_load_status ≠ 1 ∧ imageSource mapped = none ∧
      rd mapped E.staged_state < 2 ∧
      rd (wr mapped E.fw_load_status 1) E.fw_load_status = 1 ∧ rd (wr mapped E.staged_state 2) E.staged_state = 2 ∧
      (imageSource (wr (wr mapped E.fw_load_addr 0x500000000) E.fw_load_bytes 64)).isSome = true ∧
      mapped.island.staging = none ∧ ∀ b, (staging b).island.staging = some b := by
  refine ⟨?_, by decide +kernel, by decide +kernel, by decide +kernel, by decide +kernel, by decide +kernel, by decide +kernel,
    rfl, fun _ => rfl⟩
  unfold Serves; decide +kernel

/-! ## Translation -/

/-- A command on pages: its address, its page count, its entry, and the running command with its status. -/
def mapping (va n e cmd status : Nat) : State :=
  wr (wr (wr (wr (wr hosted E.xm_va va) E.xm_pages n) E.xm_entry e) E.xm_cmd cmd) E.xm_status status

def pageOwned (s : State) : Bool :=
  (List.range (xmPages s)).all fun i => frameOwned s (xmPart s) (mapEntry (xmEntry s) i)
def pageAligned (s : State) : Bool :=
  xmVa s % pageBytes (xmEntry s) == 0 && frameOf (xmEntry s) % pageBytes (xmEntry s) == 0
def pageSmall (s : State) : Bool := (List.range (xmPages s)).all fun i => !largeCore (mapEntry (xmEntry s) i)
def pageFits (s : State) : Bool := xmPages s != 0 && decide (xmEnd s ≤ 2 ^ 48)
def pageMapped (s : State) : Bool :=
  (List.range (xmPages s)).all fun i =>
    Tab.get 0 s.xlat (xlatKey (xmPart s) (bit (xmEntry s) 62) (xmVa s + i * pageBytes (xmEntry s))) != 0

/-- Maps that R467 refuses for each reason in turn and one that it takes, at the last pages of the address space; unmaps. -/
theorem witness_PagesMap :
    let e := page 0x500100000
    let free := fun (s : State) => rangeMapped s (xmPart s) (xmVa s) (xmEnd s) == false
    Serves (mapping 0x80000 2 e 0 2) E.xm_cmd ∧ rd (mapping 0x80000 2 e 0 1) E.xm_status = 1 ∧
      rd (mapping 0x80000 2 e 0 2) E.xm_status ≠ 1 ∧
      pageOwned (mapping 0x80000 2 (page 0x600000000) 0 2) = false ∧
      (let s := mapping 0x80001 2 e 0 2; pageOwned s = true ∧ pageAligned s = false) ∧
      (let s := mapping 0x60000 2 e 0 2; pageOwned s = true ∧ pageAligned s = true ∧ free s = false) ∧
      (let s := mapping 0x200000 1 (2 ^ 62 + page (onchip 0 3 0)) 0 2
       pageOwned s = true ∧ pageAligned s = true ∧ free s = true ∧ pageSmall s = false) ∧
      (let s := mapping 0x80000 0 e 0 2
       pageOwned s = true ∧ pageAligned s = true ∧ free s = true ∧ pageSmall s = true ∧ pageFits s = false) ∧
      (let s := mapping (2 ^ 48 - 2 ^ 17) 2 e 0 2
       pageOwned s = true ∧ pageAligned s = true ∧ free s = true ∧ s.xlat.length + xmPages s ≤ 1048576 ∧
         pageSmall s = true ∧ pageFits s = true) ∧
      (pageMapped (mapping 0x60000 2 e 0 2) = true ∧ pageFits (mapping 0x60000 2 e 0 2) = true) ∧
      (pageAligned (mapping 0x80000 2 e 0 2) = true ∧ pageMapped (mapping 0x80000 2 e 0 2) = false) ∧
      (pageMapped (mapping 0x60000 0 e 0 2) = true ∧ pageFits (mapping 0x60000 0 e 0 2) = false) ∧
      rd (mapping 0x60000 2 e 2 1) E.xm_cmd ≠ 1 ∧
      partUsesRange (mapping 0x60000 2 e 2 1) 0 0x60000 0x80000 = false := by
  unfold Serves; decide +kernel

/-- A full table: no room is left, however many pages the command names. -/
theorem witness_PagesMap_full :
    let s := { mapping 0x80000 1 (page 0x500100000) 0 2 with xlat := List.replicate 1048576 (6, page 0x500000000) }
    pageOwned s = true ∧ pageAligned s = true ∧ rangeMapped s (xmPart s) (xmVa s) (xmEnd s) = false ∧
      ¬(s.xlat.length + xmPages s ≤ 1048576) := by
  refine ⟨by decide +kernel, by decide +kernel, ?_, ?_⟩
  · simp only [rangeMapped, List.any_replicate]
    decide +kernel
  · rw [List.length_replicate]
    decide +kernel

/-- An access in flight through the range that is to be unmapped; a transfer that holds. -/
theorem witness_PagesMap_waits :
    let s := setCore (mapping 0x60000 2 (page 0x500000000) 2 1) 3 { Core.init with ldpm := some ⟨0x60000, 16, 4, 50⟩ }
    let x : Xfer := ⟨8, .stt, 10, 59, 1, 0, 2, 9, true, 0, 0, 0, 0, 64, 64, [], 0, some 0x80000, 0, false, 0⟩
    let h := setCore mapped 3 { streamCore with xfers := [x] }
    (rd s E.xm_status = 1 ∧ rd s E.xm_cmd ≠ 1 ∧ partUsesRange s 0 0x60000 0x80000 = true) ∧
      (Serves h E.stream_abandon ∧ (core h 3).block = some blk ∧ (core h 3).holding = true) := by
  unfold Serves; decide +kernel

/-! ## Lacing rings -/

/-- A member in memory: its buffer's key as R484 encodes it. -/
def memberAt (tile off slots : Nat) : Nat := slots * 2 ^ 40 + onchip 0 tile off

def ringRecord (r n fill units : Nat) (es : List Nat) : List Byte :=
  ([0x524E * 2 ^ 48 + r * 2 ^ 40 + n * 2 ^ 32 + fill * 2 ^ 24 + 2 * 2 ^ 16, units, 0x60000, 0, 0, 0, 0, 0] ++ es).flatMap (leBytes 8)

def ringStored (d : List Byte) : State :=
  wrBytes (wr (setCore hosted 3 { streamCore with cmAttr := 0xF0 }) E.ring_record_addr 0x500001000) 0x500001000 d

def ringOk (s : State) (fill units n : Nat) : Bool :=
  let es := (List.range n).map fun i => rdNat s (Mem.hbm (0x500001000 + 64 + 8 * i)) 8
  es.all (memberOk s 0 fill (units / n)) && decide (es.map fun e => bits e 36 27).Nodup

/-- Rings 5 and 63: a record that fits, one whose units do not divide, and a ring that runs and is stopped. -/
theorem witness_LacingRings :
    let es := [memberAt 3 0x40000 3, memberAt 31 0x100000 4]
    let s := ringStored (ringRecord 63 2 0 4 es)
    let w := fun (i : Nat) => rdNat s (Mem.hbm (0x500001000 + 8 * i)) 8
    let odd := ringStored (ringRecord 5 2 0 5 es)
    let runs := wr s (E.ring_state + 63) 1
    (Serves s E.ring_cmd ∧ sharePartition s (rd s E.ring_record_addr) = some 0 ∧ bits (w 0) 63 48 = 0x524E ∧
      bits (w 0) 47 40 = 63 ∧ bits (w 0) 39 32 = 2 ∧ bits (w 0) 31 24 = 0 ∧ bits (w 1) 31 0 = 4 ∧
      rd s (E.ring_state + 63) ≠ 1 ∧ rd s (E.ring_state + 63) ≠ 2 ∧ ringOk s 0 4 2 = true) ∧
    bits (rdNat odd (Mem.hbm (0x500001000 + 8)) 8) 31 0 % 2 ≠ 0 ∧
    (Serves runs E.ring_cmd ∧ rd runs (E.ring_state + 63) = 1 ∧ fillOk runs (lace runs 63) = true) ∧
    (rd s (E.ring_state + 63) ≠ 1 ∧ rd s (E.ring_state + 63) ≠ 2) ∧
    fillOk s { lace s 63 with fill := 2, units := 1, source := 0x90000 } = false := by
  unfold Serves; decide +kernel

def units (l : List Nat) (offered rounds : Nat) : List LaceUnit := l.zipIdx.map fun e => ⟨e.1, offered, rounds, e.2⟩

/-- Ring 5 runs with two members. -/
def laced (ms : List Member) : State :=
  setLace (wr (setCore hosted 3 { streamCore with cmAttr := 0xF0 }) (E.ring_state + 5) 2) 5
    { lace hosted 5 with members := ms, part := 0, circulations := 2, fill := 2 }

def memA (l : List LaceUnit) : Member := ⟨Mem.cm 3 0x40000, 3, l, 4⟩
def memB (l : List LaceUnit) : Member := ⟨Mem.commons 0 0x100000, 4, l, 7⟩

/-- A unit that goes on, one for which there is no room, one that has gone round, and a reader that has not passed. -/
theorem witness_LacingRings_forward :
    let s := laced [memA (units [0, 1] 1 0), memB (units [2, 3] 1 0)]
    let full := laced [memA (units [0, 1] 1 0), memB (units [2, 3, 4, 5] 1 0)]
    let done := laced [memA (units [0, 1] 2 1), memB (units [2, 3] 1 0)]
    let held := setCore s 3 { core s 3 with holds := [(1, some ⟨5, 0, 4, none⟩)] }
    (rd s (E.ring_state + 5) = 2 ∧ (lace s 5).members[0]? = some (memA (units [0, 1] 1 0)) ∧
      passedByAll s 5 0 4 0 = true ∧ (lace s 5).members[1]? = some (memB (units [2, 3] 1 0)) ∧
      (memB (units [2, 3] 1 0)).freeSlot = some 2 ∧ (lace s 5).members.length = 2) ∧
    ((memB (units [2, 3, 4, 5] 1 0)).freeSlot = none ∧ passedByAll full 5 0 4 0 = true) ∧
    (passedByAll done 5 0 4 0 = true ∧ 1 + 1 = (lace done 5).circulations) ∧
    passedByAll held 5 0 4 0 = false := by
  decide +kernel

def laceReader (holds : Tab (Option RingHold)) : State :=
  setCore (laced [memA (units [0, 1, 3] 1 0), memB (units [2, 4] 1 0)]) 3
    { streamCore with cmAttr := 0xF0, queues := [(1, ⟨false, 4, [(true, 3, 4, 6)], 0⟩)], holds := holds }

theorem laceReader_access (h : Tab (Option RingHold)) (hh : h = [] ∨ h = [(1, some ⟨5, 0, 5, none⟩)]) :
    AccessFree (laceReader h) 3 59 blk (retire (laceReader h) 3 59) := by
  unfold AccessFree
  rcases hh with rfl | rfl <;>
    exact ⟨by decide +kernel, by decide +kernel, by decide +kernel, by decide +kernel, rfl,
      rfl, by decide +kernel, by decide +kernel, by decide +kernel, rfl, blk, by decide +kernel, rfl⟩

/-- `RJOIN` of hold 1, and `RNEXT`, `RDONE` and `RLEAVE` of a hold that has a unit before it. -/
theorem witness_LacingRings_readers :
    let s := laceReader []
    let u := retire s 3 59
    let h : RingHold := ⟨5, 0, 5, none⟩
    let s' := laceReader [(1, some h)]
    let u' := retire s' 3 59
    (AccessFree s 3 59 blk u ∧ (core u 3).hold 1 = none ∧ laceRuns u 5 = true ∧ ownMember u 3 5 = some 0 ∧
      ((lace u 5).members[0]?).isSome = true) ∧
    (AccessFree s' 3 59 blk u' ∧ (core u' 3).hold 1 = some h ∧ (core s' 3).hold 1 = some h ∧ (core s' 3).passed = false ∧
      laceState s' 5 = 2 ∧ laceState u' 5 = 2 ∧ (lace u' 5).members[0]? = some (memA (units [0, 1, 3] 1 0)) ∧
      (memA (units [0, 1, 3] 1 0)).first ≤ 5 ∧ ((memA (units [0, 1, 3] 1 0)).units[5 - 4]?).isSome = true ∧
      ((core s' 3).queue 1).toAccess = false ∧ ((core s' 3).queue 1).entries.length < ((core s' 3).queue 1).depth ∧
      ((core s' 3).queue 1).roomAt ≤ 59 ∧ laceRuns u' 5 = true) := by
  refine ⟨⟨laceReader_access [] (.inl rfl), by decide +kernel⟩, laceReader_access _ (.inr rfl), by decide +kernel⟩

end Tests
end

