-- ==== Sys2Proof/Tests/Rings.lean ====
section
/-! SUPPORT. States in which the hypotheses of the statements about chains, key sets, rings and homomorphic commands hold together. -/

open Sys2Proof (Instr Byte Path Opnd XIns AIns CIns Eng Ecc Msg KernelReport)

open Sys2Proof.Machine

namespace Tests

set_option Elab.async false

/-- Chain 5 staged with these primes, its commit in this status. -/
def staged (primes : List Nat) (status : Nat) : State :=
  primes.zipIdx.foldl (fun s e => wr s (E.chain_stage_primes + e.2) e.1)
    (wr (wr (wr (wr mapped E.chain_id 5) E.log2_n_max 11) E.prime_count primes.length) E.chain_status status)

def keySet (tag chain : Nat) : KeySet := ⟨tag, 0, 0, chain, 12, 0, 1, 0, [], 4096, 2, 0⟩

def chainKnown : State := wr (staged [12289] 0) (E.chain_prime_count + 256 * 5) 1

/-- The first failing check of R293 is each in turn, and none: 40961 and 12289 are 1 modulo 4096. -/
theorem witness_KeysRegister_chains :
    let l := fun (s : State) => (List.range (rd s E.prime_count)).map fun i => rd s (E.chain_stage_primes + i)
    let sized := fun (s : State) => ∀ q ∈ l s, q < 2 ^ 61 ∧ q % 2 = 1
    let primes := fun (s : State) => ∀ q ∈ l s, isPrime q = true
    let ones := fun (s : State) => ∀ q ∈ l s, q % 2 ^ (11 + 1) = 1
    Serves (staged [12289] 1) E.chain_commit ∧ rd (staged [12289] 1) E.chain_status = 1 ∧
      (rd chainKnown E.chain_status ≠ 1 ∧ rd chainKnown (E.chain_prime_count + 256 * 5) ≠ 0 ∧
        Serves chainKnown E.chain_commit ∧ chainKnown.keysets = [] ∧
        (∃ k ∈ ({ chainKnown with keysets := [keySet 77 5] } : State).keysets, k.chain = 5)) ∧
      rd (wr chainKnown E.chain_status 1) E.chain_status = 1 ∧ rd (staged [] 1) E.prime_count = 0 ∧
      ¬sized (staged [12288] 1) ∧ (sized (staged [15] 1) ∧ ¬primes (staged [15] 1)) ∧
      (sized (staged [97] 1) ∧ primes (staged [97] 1) ∧ ¬ones (staged [97] 1)) ∧
      (primes (staged [12289, 12289] 1) ∧ ones (staged [12289, 12289] 1) ∧ ¬(l (staged [12289, 12289] 1)).Nodup) ∧
      (sized (staged [12289, 40961] 1) ∧ primes (staged [12289, 40961] 1) ∧ ones (staged [12289, 40961] 1) ∧
        (l (staged [12289, 40961] 1)).Nodup ∧ rd (staged [12289, 40961] 1) (E.chain_prime_count + 256 * 5) = 0) := by
  unfold Serves; decide +kernel

def holdsKeys (status : Nat) : State :=
  wr (wr { mapped with keysets := [keySet 77 5, keySet 78 6] } E.keyset_tag 77) E.keyset_status status

theorem witness_KeysRegister_sets :
    Serves (holdsKeys 0) E.keyset_cmd ∧ Serves (holdsKeys 0) E.query_tag ∧ rd (holdsKeys 0) E.keyset_status ≠ 1 ∧
      (holdsKeys 0).keysets.any (·.tag == 77) = true ∧ openContexts (holdsKeys 0) 77 = 0 ∧
      (wr (holdsKeys 0) E.keyset_tag 5).keysets.any (·.tag == 5) = false ∧
      (Serves (holdsKeys 1) E.keyset_cmd ∧ rd (holdsKeys 1) E.keyset_status = 1 ∧
        sharePart (holdsKeys 1) (rd (holdsKeys 1) E.keyset_package_addr) = none) ∧
      (holdsKeys 0).keysets.find? (·.tag == 5) = none ∧ (holdsKeys 0).keysets.find? (·.tag == 78) = some (keySet 78 6) := by
  unfold Serves; decide +kernel

/-! ## Rings -/

def opRecord (op cores : Nat) (ws : List Nat) : List Byte := record ((op * 2 ^ 56 + cores) :: ws)

/-- Ring 3 of sector 2 with these commands taken and these completions held. -/
def queued (s : State) (q : List Taken) (h : List (List Byte)) : State := setRing (ringAt s 2 3 1) 2 3 ⟨q, h⟩

/-- The ring's first slot holds a record with its marker. -/
def slotFilled : State :=
  wrNat (wrBytes (ringAt mapped 2 3 1) (ringKey 2 0x4000) (opRecord 0x60 3 [])) (ringKey 2 0x4040) 4 1

theorem witness_RingsTurn :
    let k := 256 * (8 * 2 + 3)
    let off := ringAt mapped 2 3 0
    let drains := ringAt mapped 2 3 2
    let full := queued mapped [] [List.replicate 32 5]
    (Serves off (E.ring_enable + k) ∧ rd off (E.ring_status + k) ≠ 1 ∧ ringPlaced off 2 3 = true ∧
      ringPlaced (wr off (E.ring_slot_offset + k) 0x4010) 2 3 = false) ∧
    (Serves slotFilled (E.ring_enable + k) ∧ rd slotFilled (E.ring_status + k) = 1 ∧ sequencerRuns slotFilled 2 = true ∧
      slotReady slotFilled 2 3 = true ∧ rd slotFilled E.out_of_service ≠ 1 ∧
      ((ownerOf slotFilled 2).map (scrubbing slotFilled)).getD false = false ∧
      bits (recWord (slotRecord slotFilled 2 3) 0) 63 56 ∈ knownOps) ∧
    (rd drains (E.ring_status + k) = 2 ∧ (ringOf drains 2 3).queue = [] ∧ (ringOf drains 2 3).held = []) ∧
    slotReady (ringAt mapped 2 3 1) 2 3 = false ∧
    (sequencerRuns full 2 = true ∧ (ringOf full 2 3).held = [List.replicate 32 5] ∧
      unread full 2 (128 * 3) < rd full (E.ring_comp_slots + k)) := by
  unfold Serves; decide +kernel

/-- `PSTART` of an image of the shortest length, and of what stands in the bank; `PSTOP`. -/
def pstartImage : Taken := taken (opRecord 0x60 5 [0x60000, 8, 9]) false
def pstartBank : Taken := taken (opRecord 0x60 5 [0, 0, 9]) false
def pstop : Taken := taken (opRecord 0x61 5 []) false

theorem witness_ProgramsStartAndStop :
    let s := queued mapped [pstartImage] []
    let b := queued mapped [pstartBank] []
    let busy := setCore s 52 { Core.init with running := true }
    let noKeys := { s with island := { s.island with trngFailing := true } }
    (nextOp s 2 3 0x60 = some pstartImage ∧ (∀ c ∈ pstartImage.cores 2, (core s c).running = false) ∧
      pstartImage.cores 2 = [50, 52] ∧ pstartImage.checks = true ∧ (provPlan s 2 (ringPart s 2) pstartImage).2 = 0 ∧
      bits (pstartImage.word 1) 47 0 = 0x60000 ∧ bits (pstartImage.word 2) 17 0 = 8 ∧
      (imageRead s 2 (ringPart s 2) 0x60000 8).1 = 0 ∧ keysReady s [50, 52] = true ∧
      ∀ d ∈ [50, 52], (core s d).front < 2) ∧
    (nextOp b 2 3 0x60 = some pstartBank ∧ bits (pstartBank.word 1) 47 0 = 0 ∧ pstartBank.checks = true) ∧
    (nextOp busy 2 3 0x60 = some pstartImage ∧ ∃ c ∈ pstartImage.cores 2, (core busy c).running = true) ∧
    keysReady noKeys [50, 52] = false ∧
    (nextOp (queued mapped [pstop] []) 2 3 0x61 = some pstop ∧ pstop.checks = true ∧
      (∃ c ∈ pstop.cores 2, (core (setCore (queued mapped [pstop] []) 52 { Core.init with running := true }) c).running = true)) := by
  decide +kernel

end Tests
end

