-- ==== Sys2Proof/Tests/Windows.lean ====
section
/-! SUPPORT. States in which the hypotheses of the statements about windows, messages and steps hold together. -/

open Sys2Proof (Instr Byte Path Opnd XIns AIns CIns Eng Ecc Msg RemoteWr)

open Sys2Proof.Machine

namespace Tests

set_option Elab.async false

/-- Node 9, with a route to node 12; partition 0 has HBM and the first thousand windows; ring 3 of sector 2 is enabled. -/
def windowed : State :=
  setRoute (setCore (wr (wr (wr (wr (wr (wr (ringAt mapped 2 3 1) E.part_hbm_base 0x500000000) E.part_hbm_bytes 0x100000000)
    E.part_window_first 0) E.part_window_count 1000) E.node_id 9) E.node_id_assigned 1) 3 { Core.init with cmAttr := 0xF0 }) 12
    (2 ^ 63 + 2 ^ 48 + 3)

def withImage (s : State) (ws : List Nat) : State := wrBytes s 0x500000100 (record ws)

def ringNext (s : State) (v : Taken) : State := setRing s 2 3 ⟨[v], []⟩

def windowRecord (op id : Nat) (ws : List Nat) : Taken := taken (record ((op * 2 ^ 56 + id * 2 ^ 32) :: ws)) false

def wopen7 : Taken := windowRecord 0x50 7 [0x60100]

/-- The same record with a wrong checksum. -/
def broken7 : Taken := { wopen7 with record := wopen7.record.set 9 9 }

/-- Window images: target and attributes of word 0; the peer, the range and the handles of word 1; base and length (R582). -/
def imageWord (target attrs : Nat) : Nat := target * 2 ^ 55 + attrs + 2 ^ 54 + 2 ^ 53
def coreImage : List Nat := [imageWord 0 0, 12 * 2 ^ 48 + 48 * 2 ^ 24 + 8, 0, 2 * 65536, 512]
def rollingImage : List Nat := [imageWord 0 (2 ^ 50), 12 * 2 ^ 48 + 48 * 2 ^ 24 + 8, 0, 2 * 65536, 512]
def hbmImage : List Nat := [imageWord 2 (2 ^ 52), 12 * 2 ^ 48, 0x500010000, 0x10000, 512]

/-- Window 7 opened with this image, and closed again, and settled. -/
def opened (image : List Nat) : State :=
  regrantWindow ((List.range (openAtOnce image)).foldl (fun s n => openBlock s 7 n) (openContext windowed 7 image)) 7
def closed (s : State) : State := closeWindow s 7
def settled (s : State) : State := closingEnd s 7 true

def connected (s : State) : State := setWin s 7 { win s 7 with flows := [(12, 5)] }

/-- Windows in each state; a rolling window whose one block is written whole and is the image's last. -/
theorem witness_WindowsOpen :
    let a := connected (opened coreImage)
    let c := closed (opened coreImage)
    let q := settled c
    let r := setWin (setWinWord (opened rollingImage) 7 1 (12 * 2 ^ 48 + 16 * 2 ^ 24 + 8)) 7
      { win (opened rollingImage) 7 with blocks := [(64 * 3 + 4, 2 ^ 256 - 1)] }
    (winState a 7 = 1 ∧ winTarget a 7 = 0 ∧ (win a 7).flows = [(12, 5)] ∧ transmits a = true ∧ reachable a 12 = true ∧
      (winPartition a 7).any (scrubbing a) = false) ∧
    (winState c 7 = 2 ∧ winShadowed c 7 = 0 ∧ winTarget (closed (opened hbmImage)) 7 = 2 ∧
      creditLeft (setWin c 7 { win c 7 with consumed := 512 }) 7 = 0) ∧
    (winState q 7 = 3 ∧ winState windowed 7 = 0) ∧
    ((sector c 0).landing.map Landing.window = [7, 7] ∧ winState r 7 = 1 ∧ bit (winWord r 7 0) 50 = true ∧
      blockDone r 7 (64 * 3 + 4, 2 ^ 256 - 1) = true ∧
      (blocksOf (winWords r 7))[winFrontier r 7 * 256 / blockSize (winTarget r 7)]? = none) := by
  decide +kernel

/-! ## The window records -/

def imageAt (s : State) (v : Taken) : Nat × List Byte := vaRead s 0 (.unit 2) (bits (v.word 1) 47 0) 64
def imageWords (s : State) (v : Taken) : List Nat := (List.range 8).map (recWord (imageAt s v).2)

/-- `WOPEN` of an image that is not readable, has no kind, is refused, meets an OPEN window, and is taken. -/
theorem witness_WindowsChangeState_open :
    let next := fun (s : State) (v : Taken) => nextOp (ringNext s v) 2 3 0x50 = some v
    let good := withImage windowed coreImage
    let away := windowRecord 0x50 7 [0x90100]
    let ill := withImage windowed [imageWord 3 0, 12 * 2 ^ 48, 0x100000, 0x40000, 512]
    let bad := withImage windowed [imageWord 1 0, 12 * 2 ^ 48, 0x100001, 0x40000, 512]
    let again := withImage (opened hbmImage) hbmImage
    let holdoff := { good with transport := { good.transport with holdoff := true } }
    (next holdoff wopen7 ∧ holdoff.transport.holdoff = true) ∧ (next good wopen7 ∧ good.transport.holdoff = false) ∧
      (broken7.checks = false ∧ next good broken7) ∧ (wopen7.checks = true ∧ (imageAt good wopen7).1 = 0) ∧
      (next good away ∧ away.checks = true ∧ (imageAt good away).1 ≠ 0) ∧
      (next ill wopen7 ∧ (imageAt ill wopen7).1 = 0 ∧ bits ((imageWords ill wopen7).getD 0 0) 56 55 = 3) ∧
      (next bad wopen7 ∧ (imageAt bad wopen7).1 = 0 ∧ imageRefused bad 0 7 (imageWords bad wopen7) = true) ∧
      (next again wopen7 ∧ imageRefused again 0 7 (imageWords again wopen7) = false ∧ winState again 7 ≠ 0) ∧
      (imageRefused good 0 7 (imageWords good wopen7) = false ∧ winState good 7 = 0 ∧ wopen7.completion = 0) := by
  decide +kernel

/-- A handle bound to window 3 of node 12, with a request without an answer. -/
def bound (state : Nat) (out : List Request) : Handle :=
  { Handle.init with state := state, part := 0, node := 12, window := 3, out := out, nextSeq := 4 }

def request (mtype seq : Nat) (p : Purpose) : Request := ⟨seq, mtype, 0, 0, [1, 2], none, 0, p⟩

theorem witness_WindowsChangeState_records :
    let next := fun (s : State) (v : Taken) (op : Nat) => nextOp (ringNext s v) 2 3 op = some v
    let closes := windowRecord 0x51 7 []
    let binds := windowRecord 0x52 6 [0x60100]
    let frees := windowRecord 0x53 6 []
    let beyond := windowRecord 0x52 4096 [0x60100]
    let img := fun (node base : Nat) => withImage windowed [node * 2 ^ 48 + 3 * 2 ^ 28 + 2 ^ 27, base]
    let held := fun (h : Handle) => setHandle windowed 6 h
    (next (opened coreImage) closes 0x51 ∧ closes.checks = true ∧ winState (opened coreImage) 7 = 1 ∧
      winPartition (opened coreImage) 7 = some 0 ∧ winState windowed 7 ≠ 1) ∧
    (next (img 12 0x20000) binds 0x52 ∧ binds.checks = true ∧ binds.id = 6 ∧ beyond.id = 4096 ∧
      (imageAt (img 12 0x20000) binds).1 = 0 ∧ checkOk (imageAt (img 12 0x20000) binds).2 = true ∧
      reachable (img 12 0x20000) 12 = true ∧ reachable (img 13 0x20000) 13 = false ∧
      bits ((imageWords (img 12 0x20001) binds).getD 1 0) 35 0 % 65536 ≠ 0 ∧ (handle (img 12 0x20000) 6).state = 0 ∧
      (handle (held (bound 2 [])) 6).state ≠ 0) ∧
    (next (held (bound 2 [])) frees 0x53 ∧ frees.checks = true ∧ (handle (held (bound 2 [])) 6).out = [] ∧
      (handle (held (bound 3 [request 1 3 .other])) 6).out ≠ [] ∧ (handle (held (bound 1 [])) 6).state < 2) := by
  decide +kernel

/-- A write that one unit covers, one that runs past the open range, one that crosses into a second unit, one of a group, and one to
the ring region; memory that does not exist; a sector that sleeps. -/
theorem witness_RemoteWritesLand :
    let w := fun (credits target offset n : Nat) (g : Option Sys2Proof.GroupRef) => (⟨12, credits, 0, target, offset, List.replicate n 5, g⟩ : RemoteWr)
    let key := fun (w : RemoteWr) => Mem.onchip w.sector w.target w.offset
    let present := fun (w : RemoteWr) => w.offset < 0x800000 ∧ w.target < 32 ∧ onchipValid (key w) = true
    let ring := fun (w : RemoteWr) => inRing (key w) = true ∧ inRing (key w + w.data.length - 1) = true
    let units := fun (w : RemoteWr) => (key w % 256 + w.data.length + 255) / 256
    let o := opened coreImage
    let asleep := wr o E.domain_state 4
    let waking := { wr o E.domain_state 6 with arrivals := [.write (w 1 3 0x40008 8 none)] }
    let one := w 1 3 0x40008 8 none
    let two := w 1 3 0x400FC 8 none
    let past := w 9 3 0x5FFFC 8 none
    let grouped := w 1 3 0x40008 8 (some ⟨12, 5⟩)
    (o.supply.mainOn = true ∧ domainState o 0 < 2) ∧
      (present one ∧ ¬ring one ∧ lands o (key one) 8 = true ∧ units one ≤ one.credits ∧ one.group = none) ∧
      (present two ∧ ¬ring two ∧ lands o (key two) 8 = true ∧ two.credits < units two) ∧
      (present past ∧ ¬ring past ∧ lands o (key past) 8 = false ∧ (landingAt o (key past)).isSome = true) ∧
      (present grouped ∧ ¬ring grouped ∧ lands o (key grouped) 8 = true ∧ units grouped ≤ grouped.credits) ∧
      ring (w 0 31 0x6FFFF8 8 none) ∧ ¬ring (w 0 31 0x6FFFF8 16 none) ∧
      (0x800000 ≤ (w 1 3 0x800000 8 none).offset ∧ 32 ≤ (w 1 32 0 8 none).target ∧ onchipValid (key (w 1 25 0 8 none)) = false) ∧
      (asleep.supply.mainOn = true ∧ 2 ≤ domainState asleep 0 ∧ domainState asleep 0 ≠ 6 ∧ asleep.power.entry = none ∧
        asleep.power.deep = 0 ∧ rd asleep E.out_of_service ≠ 1) ∧
      (waking.supply.mainOn = true ∧ domainState waking 0 = 6 ∧ bit waking.power.padWait.toNat 0 = false ∧
        bit (rd waking E.pad_hold) 0 = false ∧ (∀ a ∈ waking.host.stalled, a.domain ≠ 0) ∧ waking.arrivals = [.write one] ∧
        lands waking (key one) 8 = true) := by
  decide +kernel

end Tests
end

