-- ==== Sys2Proof/Tests/FabricSide.lean ====
section
/-! SUPPORT. States in which the hypotheses of the statements about ports, routes, packets and a pair hold together. -/

open Sys2Proof (Instr Byte Path Opnd XIns AIns CIns Eng Ecc Msg Flit HelloMsg Packet TwinPeer Heartbeat InputRec)

open Sys2Proof.Machine

namespace Tests

set_option Elab.async false

/-- A port in a state (R543), with a width, failed lanes and a keeper; lanes 0 to 7 carry it. -/
def portIn (p st width failed keeper : Nat) (v : Port) : State :=
  setPort (wr (wr windowed (E.port_state + p) (st * 2 ^ 28 + width * 2 ^ 24 + failed * 2 ^ 15 + keeper * 2 ^ 11 + 15 * 2 ^ 7))
    (E.lane_map + p) 0x76543210) p v

def portUp : Port := { Port.init with enabled := true, nextSeq := 10, acked := 5, expect := 3, lane := 2 }

def lowPresence (s : State) : State := { s with pins := { s.pins with presLow := 0x3FFFFFFFF } }

/-- The last port of either kind, down, training, up, retraining and isolated; lanes 0 to 3 failed. -/
theorem witness_PortsAndLinks :
    let s := fun (st : Nat) => portIn 33 st 8 0 8 portUp
    let burning := portIn 33 3 8 0 15 { portUp with burnish := some 2, lane := 3 }
    (∀ st ∈ [0, 1, 2, 3, 4, 5], portCode (s st) 33 = st ∧ Serves (s st) (E.port_cmd + 33)) ∧
      domainOn (s 0) (portDomain 33) = true ∧ presLow (s 1) 33 = false ∧ presLow (lowPresence (s 1)) 33 = true ∧
      (portWidth (s 3) 33 = 8 ∧ portKeeper (s 3) 33 = 8 ∧ (port (s 3) 33).burnish = none) ∧
      portKeeper (portIn 33 3 8 0 15 portUp) 33 = 15 ∧
      rd (wr (s 3) E.burnish_enable 0) E.burnish_enable ≠ 1 ∧ rd (wr (s 3) E.burnish_enable 1) E.burnish_enable = 1 ∧
      (port burning 33).burnish = some 2 := by
  unfold Serves; decide +kernel

theorem witness_PortsAndLinks_change :
    let s := portIn 31 3 8 0 8 portUp
    let v := port s 31
    let count := fun (good : Nat) => ((List.range 9).filter (bit good)).length
    (count 0xF = 4 ∧ count 0x7 = 3 ∧ count 0xFF = 8 ∧ portCode (portIn 31 2 8 0 8 portUp) 31 = 2) ∧
      (∀ n ∈ [1, 2], (port (portIn 31 4 4 0 8 { portUp with failures := n }) 31).failures = n) ∧
      (v.outstanding ≠ 0 ∧ portCode s 31 = 3 ∧ (port (portIn 31 3 8 0 8 { portUp with nextSeq := 6 }) 31).outstanding = 0) ∧
      (goodLanes s 31 - 1 = 8 ∧ bit (portFailed s 31) 8 = false ∧ v.burnish = none ∧
        ((List.range 8).map (laneOf s 31)).Nodup) ∧
      (goodLanes (portIn 31 3 8 1 15 portUp) 31 - 1 = 7 ∧ bit (portFailed (portIn 31 3 8 1 15 portUp) 31) 1 = false) ∧
      (goodLanes (portIn 31 3 4 0x1F 15 portUp) 31 - 1 = 3 ∧ bit (portFailed (portIn 31 3 4 0x1F 15 portUp) 31) 0 = true) ∧
      (v.expect = 3 ∧ v.acked = 5 ∧ v.outstanding = 4 ∧ (5 + 4096 - v.acked) % 4096 = 0 ∧ (9 + 4096 - v.acked) % 4096 = 4) := by
  decide +kernel

def helloFrom (node uid role : Nat) : HelloMsg := ⟨node, true, 3, uid, role, 0⟩

def copying (node entry : Nat) : State := wr (wr (portIn 3 3 8 0 8 portUp) E.rc_node node) E.rc_entry entry

theorem witness_PacketsFind :
    let s := portIn 3 3 8 0 8 portUp
    let isolated := portIn 3 5 8 0 8 portUp
    let clash := helloFrom 9 77 3
    let twins := fun (h : HelloMsg) => h.twin = ownUid s ∧ twinUid s = h.uid ∧ h.uid ≠ 0
    (portCode s 3 = 3 ∧ portCode isolated 3 = 5 ∧ portCode (portIn 3 1 8 0 8 portUp) 3 = 1) ∧
    (clash.assigned = true ∧ rd s E.node_id_assigned = 1 ∧ clash.node = rd s E.node_id ∧ clash.uid ≠ ownUid s ∧ ¬twins clash) ∧
    (helloFrom 12 77 2).role = 2 ∧ ((helloFrom 12 77 1).node ≠ rd s E.node_id ∧ (helloFrom 12 77 1).role ≠ 2) ∧
    (portActive s 3 = true ∧ portActive isolated 3 = false ∧ 9 ∉ [12, 13] ∧ 12 ≠ rd s E.node_id) ∧
    (let pinned := setRoute s 12 (2 ^ 63 + 2 ^ 62 + 2 ^ 48 + 8)
     bit (route pinned 12) 62 = true ∧ bit (route s 12) 62 = false) ∧
    (let u := setPath s 3 12 [12]
     pathPorts u 12 = [3] ∧ pathLength u 12 < 256 ∧ pathPorts s 12 = []) ∧
    (let c := copying 12 (2 ^ 63 + 2 ^ 48 + 3 * 2 ^ 40 + 8)
     Serves c E.rc_cmd ∧ rd c E.rc_node = 12 ∧ bits (rd c E.rc_entry) 39 32 = 0 ∧
       bit (rd c E.rc_entry) (prefOf (rd c E.rc_entry)) = true) ∧
    (let own := copying 9 (2 ^ 63 + 2 ^ 48 + 3 * 2 ^ 40 + 8); rd own E.rc_node = rd own E.node_id) := by
  unfold Serves; decide +kernel

/-- Some ports ACTIVE, and the entry of node 12. -/
def routed (ports : List Nat) (entry : Nat) : State :=
  setRoute (ports.foldl (fun s p => wr s (E.port_state + p) (3 * 2 ^ 28 + 8 * 2 ^ 24)) windowed) 12 entry

def packetOf (ordered : Bool) (vc hops age : Nat) : Packet := ⟨12, 9, 5, hops, vc, ordered, age, 64⟩

/-- A packet at its last hop and in its last microsecond. -/
theorem witness_PacketsForward :
    let e := 2 ^ 63 + 3 * 2 ^ 40 + 2 ^ 3 + 2 ^ 5
    let s := routed [1, 3, 5] e
    (portActive s 1 = true ∧ advertises s = true ∧ s.twin.helloOnly = false ∧ bit e 61 = false ∧ bit e 63 = true ∧
      maskPorts s e = [3, 5] ∧ portActive s (prefOf e) = true) ∧
    (portActive (routed [3, 5] e) 1 = false ∧ bit (2 ^ 61 + e) 61 = true ∧ bit (route (routed [1] 0) 12) 63 = false) ∧
    (maskPorts (routed [1] e) e = [] ∧ portActive (routed [1] e) (prefOf e) = false ∧
      maskPorts (routed [1, 5] e) e = [5] ∧ portActive (routed [1, 5] e) (prefOf e) = false) ∧
    ((packetOf true 0 63 2).hops + 1 = 64 ∧ ¬(packetOf true 0 63 2).age ≤ max 1 ((1000 + 999) / 1000)) ∧
    (64 < (packetOf true 0 64 2).hops + 1 ∧ (packetOf false 0 0 1).age ≤ max 1 ((1000 + 999) / 1000)) ∧
    (2 ≤ (packetOf false 2 0 9).vc ∧ (packetOf false 1 0 9).ordered = false ∧ (packetOf false 1 0 9).vc < 2) := by
  decide +kernel

end Tests
end

