-- ==== Sys2Proof/Tests/Twins.lean ====
section
/-! SUPPORT. States in which the hypotheses of the statements about a pair hold together. -/

open Sys2Proof (Instr Byte Path Opnd XIns AIns CIns Eng Ecc Msg Flit HelloMsg Packet TwinPeer Heartbeat InputRec)

open Sys2Proof.Machine

namespace Tests

set_option Elab.async false

/-- A module of a pair, in a role and a mode. -/
def pairAs (role mode : Nat) (f : Twin → Twin) : State :=
  let s := wr (wr (wr (wr windowed E.twin_role role) E.twin_mode mode) E.twin_peer_uid 77) E.twin_generation 4
  { s with twin := f s.twin }

def beat (role generation sequence : Nat) : Heartbeat := ⟨77, role, generation, 5, sequence⟩

def heardTwin (t : Twin) : Twin := { t with heard := some (beat 1 4 0) }

theorem witness_TwinCommandsRun :
    let good : TwinPeer := ⟨true, true, true, false, true, 9, true, true⟩
    let s := pairAs 0 1 heardTwin
    (∀ r ∈ [0, 1, 2, 3], Serves (pairAs r 1 id) E.twin_cmd ∧ rd (pairAs r 1 id) E.twin_role = r ∧
      (pairAs r 1 id).twin.heard = none ∧ (pairAs r 1 id).twin.syncing = none ∧ (pairAs r 1 id).twin.binding = none) ∧
      authentic s .bar0 = false ∧ authentic s .island = true ∧
      (s.twin.heard = some (beat 1 4 0) ∧ (beat 1 4 0).uid = rd s E.twin_peer_uid ∧ s.twin.lost = false) ∧
      (good.modeMatches = true ∧ good.identityMatches = true ∧ good.layoutMatches = true ∧ good.openMode = false ∧
        openHere (wr s E.det_mode 1) = false ∧ openHere s = true ∧ good.sessionOk = true) ∧
      (∃ b, (pairAs 0 1 fun t => { t with binding := some true }).twin.binding = some b) ∧
      (∀ b ∈ [true, false], (pairAs 0 1 fun t => { t with syncing := some b }).twin.syncing = some b) := by
  unfold Serves; decide +kernel

/-- Its yoke port 33 is ACTIVE. -/
def yoked (s : State) : State := wr s (E.port_state + 33) (3 * 2 ^ 28 + 8 * 2 ^ 24)

theorem witness_TwinCommandsRun_heartbeats :
    let s := yoked (pairAs 1 1 id)
    let auto := fun (s : State) => yoked (wr s E.twin_auto_reattach 1)
    let away := wr (pairAs 3 1 id) E.twin_detach_cause 6
    portActive s 33 = true ∧ portActive (pairAs 1 1 id) 33 = false ∧ rd s E.twin_role = 1 ∧ rd s E.twin_peer_uid = 77 ∧
      rd s E.twin_generation < (beat 1 5 0).generation ∧
      ((beat 1 4 0).generation = rd s E.twin_generation ∧ rd s E.twin_sequence = (beat 1 4 0).sequence) ∧
      s.twin.binding = none ∧
      (portActive (auto away) 33 = true ∧ rd (auto away) E.twin_role = 3 ∧ rd (auto away) E.twin_detach_cause = 6 ∧
        rd (auto away) E.twin_auto_reattach = 1 ∧ (auto away).twin.syncing = none) ∧
      (rd (auto (pairAs 1 1 id)) E.twin_role = 1 ∧ (beat 3 4 0).role = 3) ∧
      rd windowed E.twin_role = 0 ∧ (pairAs 2 1 fun t => { t with syncing := some false }).twin.syncing = some false := by
  decide +kernel

/-- A mirror and a standby with what their leader sends. -/
theorem witness_TwinFollows :
    let mirror := pairAs 2 1 id
    let slot := record [0x40 * 2 ^ 56]
    let own := fun (d : List Byte) => pairAs 2 1 fun t => { t with own := some (5, d) }
    let standby := pairAs 2 2 fun t => { t with deltas := [(0x500000000, [7, 8])] }
    let lost := fun (mode : Nat) => yoked (pairAs 2 mode fun t => { t with lost := true })
    (rd mirror E.twin_role = 2 ∧ rd mirror E.twin_mode = 1 ∧ hbmInside mirror 0x500000000 3 = true ∧
      rd mirror E.out_of_service ≠ 1 ∧ ((ownerOf mirror 2).map (scrubbing mirror)).getD false = false ∧
      knownOps.contains (bits (recWord slot 0) 63 56) = true) ∧
    ((own [1]).twin.own = some (5, [1]) ∧ 5 ≠ rd (own [1]) E.step_counter ∧ rd (pairAs 1 1 id) E.twin_role ≠ 2) ∧
    (rd standby E.twin_role = 2 ∧ rd standby E.twin_mode = 2 ∧ standby.twin.deltas = [(0x500000000, [7, 8])] ∧
      0x500000000 < 2 ^ 38 ∧ standby.twin.syncing ≠ some false ∧ 2 + 1 ≤ rd standby E.twin_delta_max_gib * 2 ^ 30 ∧
      rd (wr standby E.twin_delta_max_gib 0) E.twin_delta_max_gib * 2 ^ 30 < 2 + 1) ∧
    (pairAs 2 1 fun t => { t with syncing := some false }).twin.syncing = some false ∧
    (∀ m ∈ [1, 2], rd (lost m) E.twin_role = 2 ∧ (lost m).twin.lost = true ∧ rd (lost m) E.twin_mode = m ∧
      (lost m).twin.inputs = [] ∧ pathPorts (lost m) (rd (lost m) E.node_id) = []) ∧
    (let up := wr (lost 1) (E.port_state + 3) (3 * 2 ^ 28 + 8 * 2 ^ 24)
     (∃ p, p < 32 ∧ portActive up p = true) ∧ pathPorts up (rd up E.node_id) = [] ∧
       pathPorts (setPath up 3 9 [9]) (rd up E.node_id) ≠ []) := by
  decide +kernel

end Tests
end

