-- ==== Sys2Proof/Tests/PowerStates.lean ====
section
/-! SUPPORT. States in which the hypotheses of the statements about power states hold together. -/

open Sys2Proof (Instr Byte Path Opnd XIns AIns CIns Eng Ecc Msg PowerSample SleepAns WakeKind)

open Sys2Proof.Machine

namespace Tests

set_option Elab.async false

/-- The granted levels of the first sectors. -/
def levels (l : List Nat) (s : State) : State :=
  l.zipIdx.foldl (fun s e => wr (setSector s e.2 { sector s e.2 with cap := e.1 }) (E.sector_level + e.2) e.1) s

/-- Hot by sector and by device, cool at a tenth tick and at another; a mean below, near and above the cap, with the least of two
levels chosen, the first of two equal ones, and a pinned one passed over. -/
theorem witness_PowerTicks :
    let limit : Int := 10 * (rd mapped E.die_throttle_c : Nat)
    let hot : PowerSample := ⟨1000, 1000, List.replicate 32 (limit + 1), limit⟩
    let warm : PowerSample := ⟨1000, 1000, List.replicate 32 limit, limit + 1⟩
    let cool : PowerSample := ⟨1000, 1000, List.replicate 32 (limit - 20), limit - 20⟩
    let s := wr mapped E.time_count 225001
    let tick := fun (u : State) => cut E.time_count ((now u / 25000 + 1) * 25000)
    let three := levels [3, 1, 1] (wr mapped E.cap_pinned_sectors 0xFFFFFFF8)
    State.reset.supply.mainOn = false ∧ mapped.supply.mainOn = true ∧
      (limit < hot.sectorDc.getD 5 0 ∧ ¬limit < hot.deviceDc ∧ limit < warm.deviceDc ∧ ¬limit < warm.sectorDc.getD 5 0 ∧
        cool.deviceDc + 20 ≤ limit ∧ cool.sectorDc.getD 31 0 + 20 ≤ limit ∧ tick s % 250000 = 0 ∧ tick mapped % 250000 ≠ 0) ∧
      (1851 - 1 ≤ 1850 ∧ effectiveCap mapped - 49 ≤ effectiveCap mapped ∧ effectiveCap mapped < effectiveCap mapped - 49 + 50 ∧
        effectiveCap mapped ≤ 1850 ∧ effectiveCap three < 1801) ∧
      (1 < 32 ∧ rd three (E.sector_level + 1) < 7 ∧ bit (rd three E.cap_pinned_sectors) 1 = false ∧
        ∀ x < 32, x ≠ 1 → bit (rd three E.cap_pinned_sectors) x = false → rd three (E.sector_level + 1) < rd three (E.sector_level + x) ∨
          (rd three (E.sector_level + 1) = rd three (E.sector_level + x) ∧ 1 < x)) := by
  decide +kernel

/-- An entry in progress. -/
def entering (st oth sec : Nat) (asked : List (Nat × Asked)) (s : State) : State :=
  { s with power := { s.power with entry := some ⟨st, oth, sec, asked⟩ } }

def inState (l : List (Nat × Nat)) (s : State) : State := l.foldl (fun s e => wr s (E.domain_state + e.1) e.2) s

def byRequest (n : Nat) (s : State) : State := { s with power := { s.power with byRequest := BitVec.ofNat 40 n } }

/-- A request idle and not, of sectors that are ON and of sectors that all sleep; entries whose one block waits, has accepted or
delays, one that is refused for its landing, one delayed by its cores, and one that is the last, in each state. -/
theorem witness_SleepEntries :
    let alone := fun (st : Nat) (a : Asked) => entering st 0 1 [(0x100, a)] mapped
    let last := fun (st : Nat) => entering st 0 1 [(0x100, .waiting), (1, .accepted)] mapped
    let landing := entering 2 0 1 [(0x200, .waiting)] (setSector mapped 0 { sector mapped 0 with landing := [⟨0, 0, 0, 0, 0⟩] })
    let ramping := entering 1 0 1 [(0x100, .waiting)] (setSector mapped 0 { sector mapped 0 with ramp := some 9 })
    (Serves mapped E.sleep_request ∧ mapped.power.byRequest = 0 ∧ (byRequest 1 mapped).power.byRequest ≠ 0) ∧
      ((0 = 0 ∨ 15 ≠ 0) ∧ (∃ d < 32, bit 0x80000000 d = true ∧ domainState mapped d = 0)) ∧
      (∀ d < 32, bit 5 d = true → domainState (inState [(0, 2), (2, 4)] mapped) d ≠ 0) ∧
      mapped.power.entry = none ∧
      (∀ a ∈ [Asked.waiting, .accepted, .delayed 11], ∃ e, (alone 1 a).power.entry = some e ∧ (0x100, a) ∈ e.asked ∧
        (e.asked.filter (·.1 == 0x100)).length = 1 ∧ e.asked.filter (·.1 == 0x101) = []) ∧
      (∃ e, landing.power.entry = some e ∧ (e.asked.filter (·.1 == 0x200)).length = 1 ∧ blockReason landing e 0x200 = some (2, false)) ∧
      (∃ e, ramping.power.entry = some e ∧ (e.asked.filter (·.1 == 0x100)).length = 1 ∧ blockReason ramping e 0x100 = some (11, true)) ∧
      (∃ e, (alone 1 .waiting).power.entry = some e ∧ blockReason (alone 1 .waiting) e 0x100 = none) ∧
      (∃ e, (entering 2 0 1 [(0x100, .waiting), (1, .waiting)] mapped).power.entry = some e ∧
        (e.asked.filter (·.1 == 0x100)).length = 1 ∧ ∃ q ∈ e.asked, q.1 ≠ 0x100 ∧ q.2 ≠ .accepted) ∧
      (∀ st ∈ [1, 2, 3, 4], ∃ e, (last st).power.entry = some e ∧ e.state = st ∧ (e.asked.filter (·.1 == 0x100)).length = 1 ∧
        blockReason (last st) e 0x100 = none ∧ (∀ q ∈ e.asked, q.1 ≠ 0x100 → q.2 = .accepted) ∧
        ∃ d ∈ entryDomains e.state e.others e.sectors, domainState (last st) d ≤ 1) := by
  unfold Serves
  refine ⟨?_, ?_, ?_, ?_, ?_, ⟨⟨2, 0, 1, [(0x200, .waiting)]⟩, ?_⟩, ⟨⟨1, 0, 1, [(0x100, .waiting)]⟩, ?_⟩,
    ⟨⟨1, 0, 1, [(0x100, .waiting)]⟩, ?_⟩, ⟨⟨2, 0, 1, [(0x100, .waiting), (1, .waiting)]⟩, ?_⟩, ?_⟩
  · decide +kernel
  · decide +kernel
  · decide +kernel
  · decide +kernel
  · intro a h
    exact ⟨_, rfl, List.mem_cons_self .., by decide +revert +kernel⟩
  · decide +kernel
  · decide +kernel
  · decide +kernel
  · decide +kernel
  · intro st h
    refine ⟨_, rfl, rfl, ?_⟩
    simp only [List.mem_cons, List.not_mem_nil, or_false] at h
    rcases h with rfl | rfl | rfl | rfl <;> decide +kernel

/-- Domain d is WAKING, its pads held or not, or waits for its pads. -/
def wakingAt (d : Nat) (s : State) : State :=
  { inState [(d, 6)] s with power := { s.power with waking := BitVec.ofNat 40 (2 ^ d), byRequest := BitVec.ofNat 40 (2 ^ d) } }
def padsWait (d : Nat) (s : State) : State :=
  { inState [(d, 6)] s with power := { s.power with padWait := BitVec.ofNat 40 (2 ^ d) } }

theorem witness_DomainsWake :
    let asleep := inState [(0, 4), (39, 4)] mapped
    let off := { asleep with supply := { asleep.supply with mainOn := false } }
    let held := wr (wr (wakingAt 3 mapped) E.pad_hold 8) E.pad_release_auto 0
    let due := fun (s : State) (d : Nat) => s.supply.mainOn = true ∧ domainState s d = 6 ∧ bit s.power.padWait.toNat d = false
    (∀ s ∈ [mapped, asleep], Serves s E.sleep_request ∧ s.power.byRequest = 0 ∧ s.power.entry = none ∧ s.power.deep = 0 ∧
      rd s E.out_of_service ≠ 1 ∧ s.supply.mainOn = true ∧ s.host.stalled = []) ∧
      ((entryDomains 2 15 0xFFFFFFFF).filter fun d => !domainOn mapped d) = [] ∧
      ((entryDomains 2 8 1).filter fun d => !domainOn asleep d) = [0, 39] ∧
      (domainOn mapped 39 = true ∧ domainState asleep 39 ≠ 0 ∧ domainState asleep 39 ≠ 6 ∧ off.supply.mainOn = false) ∧
      ¬due mapped 3 ∧
      (due held 3 ∧ bit (rd held E.pad_hold) 3 = true ∧ rd held E.pad_release_auto = 0) ∧
      (∀ d ∈ [0, 31, 39], due (wakingAt d mapped) d ∧ (wakingAt d mapped).power.byRequest = BitVec.ofNat 40 (2 ^ d) ∧
        bit (rd (wakingAt d mapped) E.pad_hold) d = false ∧ (wakingAt d mapped).host.stalled = []) ∧
      (Serves (padsWait 39 mapped) E.pad_release ∧ bit (padsWait 39 mapped).power.padWait.toNat 39 = true ∧
        (padsWait 39 mapped).host.stalled = [] ∧ bit mapped.power.padWait.toNat 39 = false) := by
  unfold Serves; decide +kernel

end Tests
end

