-- ==== Sys2Proof/Tests/Trust.lean ====
section
/-! SUPPORT. States in which the hypotheses of the statements about boot, trust, packages and partitions hold together. -/

open Sys2Proof (Instr Byte Path Opnd XIns AIns CIns Eng Ecc Msg ImageVerdict BootVerdict SpdmReq ReleaseReq)

open Sys2Proof.Machine

namespace Tests

set_option Elab.async false

def imageVerdict (ok : Bool) (svn : Nat) : ImageVerdict := ⟨true, ok, true, true, true, svn, List.replicate 32 7⟩

/-- Both images, the second only, and neither; a security version at its floor and below it; an end of life; a boot that is due,
with a full history of resets and without. -/
theorem witness_BootChain :
    let ok := fun (s : State) (i : ImageVerdict) => i.magicOk = true ∧ i.keyOk = true ∧ i.signatureOk = true ∧ i.sectionsOk = true ∧
      i.digestsOk = true ∧ max (rd s E.svn_floor) (rd s E.svn_min) ≤ i.svn
    let s := wr State.reset E.svn_floor 3
    let started := wr mapped E.boot_state 2
    let many := { started with recovery := { started.recovery with escal := List.replicate 8 0 } }
    (rd s E.boot_state = 0 ∧ s.supply.aonHeld = false ∧ s.supply.romOk = true ∧ rd mapped E.boot_state ≠ 0) ∧
      rd (wr s E.lifecycle_state 4) E.lifecycle_state = 4 ∧ rd s E.lifecycle_state ≠ 4 ∧
      (ok s (imageVerdict true 3) ∧ ¬ok s (imageVerdict false 3) ∧ ¬ok s (imageVerdict true 2) ∧ rd s E.boot_fallback_count < 2 ^ 16) ∧
      (∀ u ∈ [started, many], rd u E.boot_state = 2 ∧ u.supply.aonHeld = false ∧ u.save.running = false ∧ u.save.restore = false ∧
        u.host.stalled = [] ∧ rd u E.out_of_service = 0 ∧ u.supply.mainOn = true) ∧
      rd many E.escalation_limit ≤ within many many.recovery.escal ∧
      ¬(rd started E.escalation_limit ≤ within started started.recovery.escal) := by
  decide +kernel

/-- The flash with `goodImage` in slot k. -/
def flashed (k : Nat) : State := wrBytes State.reset (Mem.flash (if k = 0 then 0x10000 else 0x1C10000)) goodImage

theorem goodImage_length : goodImage.length = 4096 := by decide +kernel

/-- Bytes of an image's size in one slot leave the other bare. -/
theorem other_bare (d : List Byte) (hd : d.length = 4096) (k : Nat) (hk : k < 2) :
    rdBytes (wrBytes State.reset (Mem.flash (if k = 0 then 0x10000 else 0x1C10000)) d)
      (Mem.flash ((if 1 - k = 0 then 0x10000 else 0x1C10000) + 0)) 16 = List.replicate 16 0 := by
  have h : Mem.flash ((if 1 - k = 0 then 0x10000 else 0x1C10000) + 0) + 16 ≤ Mem.flash (if k = 0 then 0x10000 else 0x1C10000) ∨
      Mem.flash (if k = 0 then 0x10000 else 0x1C10000) + d.length ≤ Mem.flash ((if 1 - k = 0 then 0x10000 else 0x1C10000) + 0) := by
    rw [hd]; revert k; decide
  rw [rdBytes_wrBytes_other _ _ _ _ _ h]; clear h; revert k; decide +kernel

/-- An image that stands in the flash is no bare slot, and passes every check by its bytes. -/
theorem witness_BootChain_flash :
    ∀ k < 2,
      let at_ := fun (j o n : Nat) => rdBytes (flashed k) (Mem.flash ((if j = 0 then 0x10000 else 0x1C10000) + o)) n
      rd (flashed k) E.boot_state = 0 ∧ (¬∀ b ∈ at_ k 0 16, b = 0) ∧ (∀ b ∈ at_ (1 - k) 0 16, b = 0) ∧
        ImageSound (flashed k) (at_ k) (28 * 2 ^ 20) goodVerdict := by
  intro k hk at_
  have whole : at_ k 0 4096 = goodImage := by rw [← goodImage_length]; exact rdBytes_wrBytes ..
  have head : at_ k 0 16 = goodImage.take 16 := by
    rw [← whole]
    simp only [at_]
    rw [show (4096 : Nat) = 16 + 4080 from rfl, rdBytes_append, List.take_left' (rdBytes_length ..)]
  have rest : at_ (1 - k) 0 16 = List.replicate 16 0 := other_bare goodImage goodImage_length k hk
  have bits : rd (flashed k) E.boot_state = 0 ∧ (¬∀ b ∈ at_ k 0 16, b = 0) ∧ ∀ b ∈ at_ (1 - k) 0 16, b = 0 := by
    rw [head, rest]
    exact ⟨(by decide +kernel : rd State.reset E.boot_state = 0), by decide +kernel, by decide⟩
  refine ⟨bits.1, bits.2.1, bits.2.2, ?_⟩
  have low : max (rd (flashed k) E.svn_floor) (rd (flashed k) E.svn_min) ≤ leNat ((goodImage.drop 6).take 2) := by
    exact (by decide +kernel : max (rd State.reset E.svn_floor) (rd State.reset E.svn_min) ≤
      leNat ((goodImage.drop 6).take 2))
  unfold ImageSound
  rw [whole]
  refine ⟨by decide +kernel, by decide +kernel, rfl, by decide +kernel, rfl, by decide, by decide +kernel, by decide +kernel, low,
    ?_, by decide +kernel, fun w h1 h3 => ?_⟩
  · have three : leNat ((goodImage.drop 9).take 1) = 3 := by decide +kernel
    dsimp only
    rw [three]
    have empty : ∀ j < 3, leNat ((goodImage.drop (20 + 48 * j)).take 4) = 0 := by decide +kernel
    have digest : ∀ j < 3, sm3 [] = (goodImage.drop (32 + 48 * j)).take 32 := by decide +kernel
    have fits : ∀ j < 3, leNat ((goodImage.drop (16 + 48 * j)).take 4) ≤ 4096 ∧
        1 ≤ leNat ((goodImage.drop (24 + 48 * j)).take 1) ∧ leNat ((goodImage.drop (24 + 48 * j)).take 1) ≤ 5 := by decide +kernel
    intro j hj
    rw [empty j hj]
    exact ⟨(fits j hj).1.trans (by decide), (fits j hj).2.1, (fits j hj).2.2, digest j hj⟩
  · interval_cases w <;> decide +kernel

/-- The responder has noted nothing, what stands now, and something else. -/
theorem witness_TrustGuards_changes :
    let noted := fun (l : Option (List Byte)) => { mapped with island := { mapped.island with seen := l } }
    (noted none).island.seen = none ∧ (∀ l, attested (noted l) = attested mapped) ∧
      (noted (some (attested mapped))).island.seen = some (attested mapped) ∧
      ¬((noted (some [])).island.seen = none ∨ (noted (some [])).island.seen = some (attested mapped)) := by
  refine ⟨rfl, fun _ => rfl, rfl, fun h => ?_⟩
  rcases h with h | h
  · cases h
  · have := congrArg List.length (Option.some.inj h)
    exact absurd this (by decide +kernel)

theorem witness_TrustGuards_entries :
    let s := wr (wr mapped E.svn_min 3) E.running_svn 8
    let anchored := wr mapped (E.trust_anchor + 2) 8
    let fits := fun (v : Nat) => rd s E.svn_min ≤ v ∧ (v = rd s E.svn_min ∨ v ≤ rd s E.running_svn)
    Serves s E.debug_unlock ∧ Serves s E.svn_min ∧ Serves s (E.trust_anchor + 3) ∧ authentic s .bar0 = false ∧
      authentic s .island = true ∧ (fits 3 ∧ fits 8 ∧ ¬fits 2 ∧ ¬fits 9) ∧
      (∀ j < 4, rd mapped (E.trust_anchor + j) = 0) ∧ authentic mapped (.mctp .i3c false) = false ∧
      (¬∀ j < 4, rd anchored (E.trust_anchor + j) = 0) ∧ Serves anchored (E.trust_anchor + 0) ∧
      (List.replicate 128 (1 : Byte)).length = 128 ∧ (List.replicate 32 (1 : Byte)).length = 32 := by
  unfold Serves; decide +kernel

def sessions (l : List (Nat × Bool)) (s : State) : State := { s with sessions := l.map fun e => ⟨e.1, e.2, .i3c, summary s⟩ }

def island (f : Island → Island) (s : State) : State := { s with island := f s.island }

/-- Silent, busy in each way, and serving with no session, with two and with eight; a release for an assigned partition with the
present measurements, and each thing that it may want. -/
theorem witness_TrustGuards_spdm :
    let silent := fun (s : State) => s.supply.aonHeld = true ∨ s.save.running = true
    let busy := fun (s : State) => s.recovery.fullTest.isSome = true ∨ rd s E.boot_state ≠ 3 ∨ s.island.trngFailing = true ∨ rd s E.trng_state = 2
    let two := sessions [(1, true), (2, false)] mapped
    let eight := sessions ((List.range 8).map fun i => (i, true)) mapped
    let held := island (fun i => { i with releases := List.replicate 256 ⟨0, 5, [], 3⟩ }) two
    silent { mapped with supply := { mapped.supply with aonHeld := true } } ∧
      (∀ s ∈ [wr mapped E.boot_state 2, wr mapped E.trng_state 2, island (fun i => { i with trngFailing := true }) mapped,
        { mapped with recovery := { mapped.recovery with fullTest := some 3 } }],
        ¬silent s ∧ busy s ∧ rd s E.lifecycle_state ≠ 4) ∧ alwaysServed .challenge = false ∧
      (∀ s ∈ [mapped, two, eight], ¬silent s ∧ ¬busy s ∧ rd s E.lifecycle_state ≠ 4) ∧
      (two.sessions.length < 8 ∧ 8 ≤ eight.sessions.length) ∧
      ((∃ v ∈ two.sessions, v.id = 2) ∧ ¬∃ v ∈ two.sessions, v.id = 3) ∧
      ((∃ v ∈ two.sessions, v.id = 1 ∧ v.authenticated = true) ∧ ¬∃ v ∈ two.sessions, v.id = 2 ∧ v.authenticated = true) ∧
      (rd two E.part_state = 1 ∧ rd two (E.part_state + 256 * 31) ≠ 1) ∧
      two.island.releases.length < 256 ∧ ¬(held.island.releases.length < 256) := by
  decide +kernel

/-- A release with the present measurements, for the first use and the last; and one with other measurements. -/
theorem witness_TrustGuards_release :
    let s := sessions [(1, true), (2, false)] mapped
    let r : Nat → ReleaseReq := fun u => ⟨0, 5, leBytes 32 (summary s), List.replicate 32 3, u⟩
    let other : ReleaseReq := { r 1 with digest := leBytes 32 (summary s + 1) }
    (∀ u ∈ [1, 255], 1 ≤ (r u).uses ∧ (r u).uses ≤ 255 ∧ (r u).part < 32 ∧ rd s (E.part_state + 256 * (r u).part) = 1 ∧
      (∃ v ∈ s.sessions, v.id = 1 ∧ v.summary = leNat (r u).digest) ∧ leNat (r u).digest = summary s) ∧
      leNat other.digest ≠ summary s := by
  intro s r other
  have lt : summary s < 256 ^ 32 := lt_of_lt_of_eq (Nat.mod_lt _ (Nat.two_pow_pos 256)) (by norm_num)
  have same : leNat (leBytes 32 (summary s)) = summary s := by rw [leNat_leBytes, Nat.mod_eq_of_lt lt]
  refine ⟨fun u hu => ⟨?_, ?_, (by decide : (0 : Nat) < 32),
    (by decide +kernel : rd (sessions [(1, true), (2, false)] mapped) (E.part_state + 256 * 0) = 1), ⟨⟨1, true, .i3c, summary mapped⟩, ?_, rfl, ?_⟩, same⟩, ?_⟩
  · revert u; decide
  · revert u; decide
  · exact List.mem_cons_self ..
  · exact (show summary mapped = summary s from rfl).trans same.symm
  · show leNat (leBytes 32 (summary s + 1)) ≠ summary s
    rw [leNat_leBytes]; omega

/-! ## Packages -/

/-- The base point of the curve. -/
def baseX : Nat := 0x32C4AE2C1F1981195F9904466A39C9948FE30BBFF2660BE1715A4589334C74C7
def baseY : Nat := 0xBC3736A2F4F6779C59BDCEE36B692153D0A9877CC62A474002DF32E52139F0A0

/-- The first 88 bytes of a package: kind, ID, length and point (R747). -/
def packageHead (kind id len : Nat) : List Byte :=
  leBytes 2 0x5650 ++ [1, BitVec.ofNat 8 kind, 0, 0, 0, 0] ++ leBytes 8 id ++ leBytes 8 len ++ beBytes 32 baseX ++ beBytes 32 baseY

def secret : List Byte := List.replicate 32 3

/-- A partition whose HBM share holds the packages, a release for package 5, and the entries that name one package; a registration
runs. -/
def released : State :=
  island (fun i => { i with releases := [⟨0, 5, secret, 2⟩] })
    ([(E.pkg_addr, 0x500001000), (E.pkg_dest, 0x60000), (E.keyset_package_addr, 0x500001000), (E.keyset_status, 1),
      (E.nr_pkg_addr, 0x500001000)].foldl (fun s e => wr s e.1 e.2) windowed)

/-- The package at 0x500001000. -/
def packaged (kind id : Nat) (pt : List Byte) : State :=
  holdsPackage released 0x500001000 (packageHead kind id pt.length) secret 9 7 pt

theorem packageHead_fields (kind id len : Nat) (hk : kind < 256) (hi : id < 2 ^ 64) (hl : len < 2 ^ 64) :
    let a := packageHead kind id len
    a.length = 88 ∧ leNat (pkgBytes a 0 2) = 0x5650 ∧ leNat (pkgBytes a 2 1) = 1 ∧ leNat (pkgBytes a 3 1) = kind ∧
      leNat (pkgBytes a 4 1) = 0 ∧ leNat (pkgBytes a 8 8) = id ∧ leNat (pkgBytes a 16 8) = len ∧
      onCurve (pointOf (pkgBytes a 24 64)) = true := by
  have h0 : pkgBytes (packageHead kind id len) 0 2 = leBytes 2 0x5650 := rfl
  have h2 : pkgBytes (packageHead kind id len) 2 1 = [1] := rfl
  have h3 : pkgBytes (packageHead kind id len) 3 1 = [BitVec.ofNat 8 kind] := rfl
  have h4 : pkgBytes (packageHead kind id len) 4 1 = [0] := rfl
  have h8 : pkgBytes (packageHead kind id len) 8 8 = leBytes 8 id := rfl
  have h16 : pkgBytes (packageHead kind id len) 16 8 = leBytes 8 len := rfl
  have h24 : pkgBytes (packageHead kind id len) 24 64 = beBytes 32 baseX ++ beBytes 32 baseY := rfl
  dsimp only
  rw [h0, h2, h3, h4, h8, h16, h24]
  refine ⟨by simp [packageHead], by decide, by decide, by simp [leNat, Nat.mod_eq_of_lt hk], by decide, ?_, ?_, by decide +kernel⟩
  · rw [leNat_leBytes, Nat.mod_eq_of_lt (lt_of_lt_of_eq hi (by norm_num))]
  · rw [leNat_leBytes, Nat.mod_eq_of_lt (lt_of_lt_of_eq hl (by norm_num))]

/-- What the package at 0x500001000 is, in the words of R751. -/
theorem packaged_opens (kind : Nat) (hk : kind < 256) (pt : List Byte) (hp : pt.length < 4096) :
    let s := packaged kind 5 pt
    let h := rdBytes s 0x500001000 256
    leNat (h.take 2) = 0x5650 ∧ leNat (pkgBytes h 2 1) = 1 ∧ leNat (pkgBytes h 3 1) = kind ∧ leNat (pkgBytes h 4 1) = 0 ∧
      pkgId h = 5 ∧ pkgLength h = pt.length ∧ contentKey h secret = some 9 ∧ pkgPlain s 0x500001000 9 = some pt := by
  obtain ⟨hb, f0, f2, f3, f4, f8, f16, hc⟩ := packageHead_fields kind 5 pt.length hk (by norm_num) (by omega)
  have h := (rdBytes_package released 0x500001000 hb secret 9 7 pt).1
  have at_ := fun o n ho => pkgBytes_made hb secret 9 7 o n ho
  dsimp only
  unfold packaged
  rw [h, at_ 2 1 (by omega), at_ 3 1 (by omega), at_ 4 1 (by omega), pkgId, at_ 8 8 (by omega), pkgLength, at_ 16 8 (by omega)]
  refine ⟨?_, f2, f3, f4, f8, f16, contentKey_made hb hc _ (by norm_num) _, pkgPlain_made _ _ hb _ _ (by norm_num) _ f16 ?_⟩
  · rw [← f0, ← at_ 0 2 (by omega)]; rfl
  · rfl

/-- A package in the right form whose point is not on the curve. -/
def offCurve : State :=
  wrBytes released 0x500001000 (leBytes 2 0x5650 ++ [1, 2, 0, 0, 0, 0] ++ leBytes 8 5 ++ leBytes 8 40 ++ List.replicate 64 1)

/-- A running decryption, whose place is one page that the partition may write. -/
def decrypting (plain : Option (List Byte)) : State := island (fun i => { i with pkg := some ⟨0, 0x60100, 3, plain⟩ }) windowed

/-- Each end of R751 in turn; and both ends of a decryption. -/
theorem witness_PackagesDecrypt_fails :
    let far := wr released E.pkg_addr 0x400001000
    let inside := fun (s : State) => inShare s 0 (rd s E.pkg_addr) 256 = true ∧
      inShare s 0 (rd s E.pkg_addr) (256 + leNat (((rdBytes s (rd s E.pkg_addr) 256).drop 16).take 8) + 16) = true
    (Serves released E.pkg_cmd ∧ rd released E.out_of_service ≠ 1 ∧ rd released E.pkg_state ≠ 1 ∧ rd released E.pkg_partition = 0) ∧
      rd (wr released E.pkg_state 1) E.pkg_state = 1 ∧ ¬inside far ∧
      (inside released ∧ ¬(leNat ((rdBytes released 0x500001000 256).take 2) = 0x5650)) ∧
      (inside offCurve ∧ leNat ((rdBytes offCurve 0x500001000 256).take 2) = 0x5650 ∧ findRelease offCurve 0 5 = some ⟨0, 5, secret, 2⟩ ∧
        (∀ r ∈ (island (fun i => { i with releases := [] }) offCurve).island.releases, ¬(r.part = 0 ∧ r.pkg = 5)) ∧
        contentKey (rdBytes offCurve 0x500001000 256) secret = none) ∧
      (vaRange (wr released E.pkg_dest 0x90000) 0 .manager .write 0x90000 3).1 ≠ 0 ∧
      released.island.pkg = none ∧
      (∀ v ∈ [none, some [7, 8, 9]], ∃ j, (decrypting v).island.pkg = some j ∧ j.plain = v ∧
        vaRange (decrypting v) j.part (.unit 32) .write j.dest (j.plain.getD (List.replicate j.length 0)).length =
          (0, [(0x500000100, j.dest, (j.plain.getD (List.replicate j.length 0)).length)]) ∧ 0x500000100 < 2 ^ 38) := by
  unfold Serves
  refine ⟨?_, ?_, ?_, ?_, ?_, ?_, ?_, ?_⟩
  iterate 7 decide +kernel
  intro v h
  refine ⟨_, rfl, rfl, ?_⟩
  simp only [List.mem_cons, List.not_mem_nil, or_false] at h
  rcases h with rfl | rfl <;> decide +kernel

theorem witness_PackagesDecrypt :
    let s := packaged 2 5 [1, 2, 3]
    let h := rdBytes s 0x500001000 256
    let dest := vaRange s 0 .manager .write (rd s E.pkg_dest) 3
    (Serves s E.pkg_cmd ∧ rd s E.pkg_state ≠ 1 ∧ rd s E.pkg_partition = 0 ∧ rd s E.pkg_addr = 0x500001000 ∧
      inShare s 0 0x500001000 256 = true ∧ inShare s 0 0x500001000 (256 + 3 + 16) = true ∧
      findRelease s 0 5 = some ⟨0, 5, secret, 2⟩ ∧ dest.1 = 0 ∧ ∀ e ∈ dest.2, isOutbound e.1 = false) ∧
      leNat (h.take 2) = 0x5650 ∧ leNat (pkgBytes h 2 1) = 1 ∧ leNat (pkgBytes h 3 1) = 2 ∧ leNat (pkgBytes h 4 1) = 0 ∧
      pkgId h = 5 ∧ pkgLength h = 3 ∧ contentKey h secret = some 9 ∧ pkgPlain s 0x500001000 9 = some [1, 2, 3] := by
  refine ⟨?_, packaged_opens 2 (by norm_num) [1, 2, 3] (by norm_num)⟩
  unfold Serves; decide +kernel

/-- It passes every check for partition 0. -/
theorem packaged_checks (kind : Nat) (hk : kind < 256) (pt : List Byte) (hp : pt.length < 4096) :
    let s := packaged kind 5 pt
    openPackage s 0 kind 0x500001000 = (setReleases s [⟨0, 5, secret, 1⟩], 0, 9) := by
  obtain ⟨f0, f2, f3, f4, f8, f16, hc, -⟩ := packaged_opens kind hk pt hp
  have near : inShare (packaged kind 5 pt) 0 0x500001000 256 = true := (by decide +kernel : inShare released 0 0x500001000 256 = true)
  have wide : inShare (packaged kind 5 pt) 0 0x500001000 (256 + pt.length + 16) = true := by
    have : rd (packaged kind 5 pt) (E.part_hbm_base + 256 * 0) = 0x500000000 := (by decide +kernel : rd released _ = _)
    have : partEnd (packaged kind 5 pt) 0 = 0x600000000 := (by decide +kernel : partEnd released 0 = _)
    have : assigned (packaged kind 5 pt) 0 = true := (by decide +kernel : assigned released 0 = _)
    simp_all [inShare]; omega
  have find : findRelease (packaged kind 5 pt) 0 5 = some ⟨0, 5, secret, 2⟩ := rfl
  unfold openPackage
  dsimp only at f0 f2 f3 f4 f8 f16 hc ⊢
  rw [f16, near, wide, f0, f2, f3, f4, f8, find]
  dsimp only
  rw [hc]
  simp only [Bool.not_true, Bool.or_self, Bool.false_eq_true, if_false, ne_eq, not_true, or_self]
  rfl

/-- The registration of a package whose plaintext is no key set, and of what is no package. -/
theorem witness_KeysRegister_package :
    let pt : List Byte := [1, 2, 3]
    let s := packaged 1 5 pt
    rd s E.keyset_status = 1 ∧ rd s E.keyset_package_addr = 0x500001000 ∧ sharePart s 0x500001000 = some 0 ∧
      (openPackage s 0 1 0x500001000).2 = (0, 9) ∧ pkgPlain s 0x500001000 9 = some pt ∧
      (checkKeySet (openPackage s 0 1 0x500001000).1 0 pt).2 = none ∧ (openPackage released 0 1 0x500001000).2.1 ≠ 0 := by
  intro pt s
  have o : openPackage s 0 1 0x500001000 = (setReleases s [⟨0, 5, secret, 1⟩], 0, 9) := packaged_checks 1 (by norm_num) _ (by decide)
  refine ⟨?_, ?_, ?_, by rw [o], (packaged_opens 1 (by norm_num) [1, 2, 3] (by decide)).2.2.2.2.2.2.2, ?_, by decide +kernel⟩
  · exact (by decide +kernel : rd released E.keyset_status = 1)
  · exact (by decide +kernel : rd released E.keyset_package_addr = 0x500001000)
  · exact (by decide +kernel : sharePart released 0x500001000 = some 0)
  · have magic : bits (recWord ([1, 2, 3] : List Byte) 0) 63 48 ≠ 0x4B53 := by decide
    unfold checkKeySet
    dsimp only [pt]
    rw [if_pos (.inl magic)]

/-- The load of a noise-replay package. -/
theorem witness_KeepersAndHistory_load :
    let pt : List Byte := List.replicate 40 6
    let s := packaged 3 5 pt
    Serves s E.nr_cmd ∧ authentic s .island = true ∧ partRuns s 0 = false ∧ rd s E.nr_pkg_addr = 0x500001000 ∧
      (openPackage s 0 3 0x500001000).2 = (0, 9) ∧ pkgPlain s 0x500001000 9 = some pt ∧ pt.length = 40 ∧
      (openPackage released 0 3 0x500001000).2.1 ≠ 0 := by
  intro pt s
  have o : openPackage s 0 3 0x500001000 = (setReleases s [⟨0, 5, secret, 1⟩], 0, 9) := packaged_checks 3 (by norm_num) _ (by decide)
  have serves : Serves released E.nr_cmd := by unfold Serves; decide +kernel
  refine ⟨serves, rfl, ?_, ?_, by rw [o], (packaged_opens 3 (by norm_num) pt (by decide)).2.2.2.2.2.2.2, by decide, by decide +kernel⟩
  · exact (by decide +kernel : partRuns released 0 = false)
  · exact (by decide +kernel : rd released E.nr_pkg_addr = 0x500001000)

theorem openPackage_poison (s : State) (q : Tab Bool) (p k a : Nat) :
    (openPackage { s with poison := q } p k a).2 = (openPackage s p k a).2 := by
  have h : rdBytes { s with poison := q } a 256 = rdBytes s a 256 := rfl
  have i : ∀ n, inShare { s with poison := q } p a n = inShare s p a n := fun _ => rfl
  have f : ∀ g, findRelease { s with poison := q } p g = findRelease s p g := fun _ => rfl
  unfold openPackage
  simp only [h, i, f]
  split
  · rfl
  split
  · rfl
  split
  · rfl
  split <;> rfl

/-- The same package with a word that is poisoned: it opens, and is not plain. -/
theorem witness_KeepersAndHistory_poisoned :
    let s := { packaged 3 5 (List.replicate 40 6) with poison := [(0x500001100, true)] }
    (openPackage s 0 3 0x500001000).2 = (0, 9) ∧ pkgPlain s 0x500001000 9 = none := by
  intro s
  have o := packaged_checks 3 (by norm_num) (List.replicate 40 6) (by decide)
  refine ⟨(openPackage_poison _ _ _ _ _).trans (by rw [o]), ?_⟩
  have bad : ∀ n, poisoned s 0x500001000 (256 + n + 16) = true := by
    intro n
    show ([(0x500001100, true)] : List (Nat × Bool)).any _ = true
    simp [wordBytes]; omega
  unfold pkgPlain
  dsimp only
  rw [bad]
  rfl

/-- A partition that may be assigned, its edges, and each thing that stands against it. -/
def asks1 (sectors base bytes first count : Nat) : State :=
  [(E.part_sectors, sectors), (E.part_hbm_base, base), (E.part_hbm_bytes, bytes), (E.part_window_first, first), (E.part_window_count, count)].foldl
    (fun s e => wr s (e.1 + 256) e.2) (wr windowed E.part_sectors 7)

theorem witness_PartitionsScrub_assign :
    let e := fun (s : State) (key q : Nat) => rd s (key + 256 * q)
    let apart := fun (a n b m : Nat) => n = 0 ∨ m = 0 ∨ a + n ≤ b ∨ b + m ≤ a
    let others := fun (s : State) (P : Nat → Bool) => (List.range 32).all fun q => q == 1 || e s E.part_state q == 0 || P q
    let sectors := fun (s : State) => e s E.part_sectors 1 ≠ 0 ∧ others s fun q => e s E.part_sectors 1 &&& e s E.part_sectors q == 0
    let share := fun (s : State) => e s E.part_hbm_base 1 % 2 ^ 29 = 0 ∧ e s E.part_hbm_bytes 1 % 2 ^ 29 = 0 ∧ (e s E.part_hbm_bytes 1 = 0 ∨
      (generalArea s (e s E.part_hbm_base 1) (e s E.part_hbm_bytes 1) = true ∧ others s fun q => decide
        (apart (e s E.part_hbm_base 1) (e s E.part_hbm_bytes 1) (e s E.part_hbm_base q) (e s E.part_hbm_bytes q))))
    let windows := fun (s : State) => e s E.part_window_first 1 + e s E.part_window_count 1 ≤ 1048576 ∧ others s fun q => decide
      (apart (e s E.part_window_first 1) (e s E.part_window_count 1) (e s E.part_window_first q) (e s E.part_window_count q))
    let good := asks1 8 0x600000000 0x20000000 1000 1047576
    let k := E.part_cmd + 256 * 1
    (Serves good k ∧ authentic good .bar0 = false ∧ authentic good .island = true ∧ e good E.part_state 1 = 0 ∧ twinBound good = false) ∧
      (sectors good ∧ share good ∧ windows good ∧ share (asks1 8 0 0 0 0) ∧ windows (asks1 8 0 0 0 0)) ∧
      (¬sectors (asks1 9 0x600000000 0x20000000 1000 10) ∧ ¬sectors (asks1 0 0x600000000 0x20000000 1000 10) ∧
        ¬share (asks1 8 0x600000000 0x20000001 1000 10) ∧ ¬share (asks1 8 0x5E0000000 0x20000000 1000 10) ∧
        ¬windows (asks1 8 0x600000000 0x20000000 999 10) ∧ ¬windows (asks1 8 0x600000000 0x20000000 1000 1047577)) ∧
      twinBound (wr good E.twin_role 1) = true ∧
      (e windowed E.part_state 0 = 1 ∧ Serves windowed E.part_cmd ∧ rd windowed E.part_hbm_base < rd windowed E.part_hbm_base + rd windowed E.part_hbm_bytes) := by
  unfold Serves; decide +kernel

def scrubbed (free : Bool) : State :=
  island (fun i => { i with scrubs := [(0, some ⟨free⟩)] }) (wr (wr windowed E.part_state 2) E.window_quiet_ms 3)

theorem witness_PartitionsScrub_ends :
    let due := fun (s : State) (us : Nat) => rd s E.part_state = 2 ∧ 1000 * rd s E.window_quiet_ms ≤ us ∧ s.pke.job = none
    (∀ f ∈ [true, false], Tab.get none (scrubbed f).island.scrubs 0 = some ⟨f⟩ ∧ due (scrubbed f) 3000 ∧ ¬due (scrubbed f) 2999) ∧
      Tab.get none windowed.island.scrubs 0 = none ∧ 2 ∈ sectorsOf (scrubbed true) 0 ∧
      (∀ p < 32, rd windowed (E.nr_status + 256 * p) ≠ 1) ∧ windowed.island.trngFailing = false ∧
      (island (fun i => { i with trngFailing := true }) windowed).island.trngFailing = true := by
  decide +kernel

end Tests
end

