-- ==== Sys2Proof/Tests/BigNumbers.lean ====
section
/-! SUPPORT. States in which the hypotheses of the statements about the big-number engine hold together. -/

open Sys2Proof (Instr Byte Path Opnd XIns AIns CIns Eng Ecc Msg PkeCmd)

open Sys2Proof.Machine

namespace Tests

set_option Elab.async false

/-- A command word (R770): op, w, d, a, b, m and e. -/
def pkeOp (op : Nat) (c : PkeCmd) : Nat :=
  op * 2 ^ 56 + c.w * 2 ^ 49 + c.d * 2 ^ 44 + c.a * 2 ^ 39 + c.b * 2 ^ 34 + c.m * 2 ^ 29 + c.e * 2 ^ 22

def pkeHead (n x input output : Nat) : List Byte := record [0x424E * 2 ^ 48 + n * 2 ^ 40 + 7, 8, input, output, x]

/-- A job image at 0x60100 in partition 0. -/
def pkeWith (head : List Byte) (ws : List Nat) : State :=
  wr (wrBytes windowed 0x500000100 (head ++ ws.flatMap (leBytes 8))) E.pke_job_addr 0x60100

def pkeWords : List Nat := [pkeOp 1 ⟨2, 3, 1, 2, 0, 0⟩, pkeOp 0x10 ⟨4, 5, 6, 7, 0, 0⟩]

def pkeGood : State := pkeWith (pkeHead 2 0 0x61000 0x62000) pkeWords

/-- A good job, idle and pending with the engine free; and a job refused at each check of R772 in turn. -/
theorem witness_PkeJobs_starts :
    let reads := fun (s : State) (at_ len : Nat) => pkeRange s 0 .read at_ len
    let off := wr pkeGood E.pke_state 2
    let far := wr pkeGood E.pke_job_addr 0x90100
    let edge := wr (wrBytes pkeGood (onchip 0 31 0x10FFC0) (pkeHead 2 0 0x61000 0x62000)) E.pke_job_addr 0x7FFC0
    let pending := wr pkeGood E.pke_job_state 1
    let h := (vaRead pkeGood 0 (.unit (partUnit pkeGood 0)) 0x60100 64).2
    (pkeImage pkeGood).code = 0 ∧ checkOk h = true ∧ (recWord h 0) / 2 ^ 40 = 0x424E02 ∧ reads pkeGood 0x60140 16 = 0 ∧
      (∀ v ∈ wordsOf (vaRead pkeGood 0 (.unit (partUnit pkeGood 0)) 0x60140 16).2, pkeWordOk v = true) ∧
      reads pkeGood 0x61000 1536 = 0 ∧ pkeRange pkeGood 0 .write 0x62000 512 = 0 ∧
      (rd off E.pke_state = 2 ∧ (pkeImage off).code ≠ 0) ∧ 32 ≤ rd (wr pkeGood E.pke_job_partition 32) E.pke_job_partition ∧
      (rd far E.pke_job_partition < 32 ∧ reads far 0x90100 64 ≠ 0) ∧
      (recWord (vaRead (pkeWith (pkeHead 2 1 0 0) pkeWords) 0 (.unit 0) 0x60100 64).2 4 ≠ 0) ∧
      (reads edge 0x7FFC0 64 = 0 ∧ reads edge 0x80000 16 ≠ 0) ∧ pkeWordOk (pkeOp 1 ⟨1, 3, 1, 2, 0, 0⟩) = false ∧
      reads pkeGood 0x91000 1536 ≠ 0 ∧
      (Serves pkeGood E.pke_job_cmd ∧ rd pkeGood E.out_of_service ≠ 1 ∧ rd pkeGood E.pke_job_state ≠ 1 ∧ rd pkeGood E.pke_job_state ≠ 2) ∧
      (∀ s ∈ [pending, wr pending E.pke_state 2], rd s E.pke_job_state = 1 ∧ s.pke.job = none ∧ s.pke.wiping = false ∧ s.pke.testing = false ∧ domainOn s 39 = true) ∧
      (pkeImage pending).code = 0 ∧ (pkeImage (wr pending E.pke_state 2)).code ≠ 0 := by
  unfold Serves; decide +kernel

/-! ## Commands of a running job -/

def jobOf (ws : List Nat) (run status : Nat) : PkeJob := ⟨0, 0x62000, 8, ws, run, status, false⟩

/-- Registers of the engine with these values, and a job whose next command is the given one. -/
def pkeAt (op : Nat) (c : PkeCmd) (regs : List (Nat × Nat)) : State :=
  let s := regs.foldl (fun s e => wrNat s (Mem.pke (512 * e.1)) 512 e.2) windowed
  { s with pke := { s.pke with job := some (jobOf [0, pkeOp op c] 1 0) } }

/-- A modulus of two words, at the least value that its words allow and above it. -/
def modulus : Nat := 2 ^ 127 + 29

theorem pke_next (op : Nat) (ho : op ∈ [1, 2, 3, 4, 5, 6]) :
    let c : PkeCmd := ⟨2, 3, 1, 2, 4, if op = 5 then 1 else 0⟩
    ∃ j, (pkeAt op c [(1, 5), (2, 7), (4, modulus)]).pke.job = some j ∧ ∃ v, j.commands[j.run]? = some v ∧ pkeWord v = (op, c) := by
  refine ⟨_, rfl, _, rfl, ?_⟩
  simp only [List.mem_cons, List.not_mem_nil, or_false] at ho
  rcases ho with rfl | rfl | rfl | rfl | rfl | rfl <;> decide +kernel

/-- A valid modulus with operands below it, an operand of m, a modulus too small and an even one; an invertible number and not. -/
theorem witness_PkeModularArithmetic :
    let c : PkeCmd := ⟨2, 3, 1, 2, 4, 0⟩
    let reg := fun (s : State) (r n : Nat) => rdNat s (Mem.pke (512 * r)) (8 * n)
    let s := fun (a b m : Nat) => pkeAt 1 c [(1, a), (2, b), (4, m)]
    let valid := fun (s : State) => reg s 4 2 % 2 = 1 ∧ 2 ^ (64 * (2 - 1)) ≤ reg s 4 2
    let least := 2 ^ 64 + 1
    (2 ≤ c.w ∧ c.w ≤ 64 ∧ c.d < 32) ∧
      (∀ m ∈ [modulus, least], valid (s (m - 1) (m - 2) m) ∧ reg (s (m - 1) (m - 2) m) 1 2 < reg (s (m - 1) (m - 2) m) 4 2 ∧
        reg (s (m - 1) (m - 2) m) 2 2 < m) ∧
      (reg (s modulus 3 modulus) 4 2 ≤ reg (s modulus 3 modulus) 1 2 ∧ reg (s 3 modulus modulus) 4 2 ≤ reg (s 3 modulus modulus) 2 2) ∧
      ¬valid (s 2 4 (2 ^ 64 - 1)) ∧ ¬valid (s 2 4 (2 ^ 127)) ∧
      (valid (s 9 4 (3 * (2 ^ 126 + 1))) ∧ Nat.gcd (reg (s 9 4 (3 * (2 ^ 126 + 1))) 1 2) (reg (s 9 4 (3 * (2 ^ 126 + 1))) 4 2) ≠ 1) ∧
      Nat.gcd (reg (s 2 4 modulus) 1 2) (reg (s 2 4 modulus) 4 2) = 1 ∧ windowed.pke.job = none := by
  decide +kernel

def packed (q : Point) : Nat := q.1 + q.2 * 2 ^ 2048

theorem pke_point (op : Nat) (ho : op ∈ [0x10, 0x11, 0x12, 0x13]) :
    let c : PkeCmd := ⟨4, 3, 1, 2, 0, 0⟩
    ∃ j, (pkeAt op c []).pke.job = some j ∧ ∃ v, j.commands[j.run]? = some v ∧ pkeWord v = (op, c) := by
  refine ⟨_, rfl, _, rfl, ?_⟩
  simp only [List.mem_cons, List.not_mem_nil, or_false] at ho
  rcases ho with rfl | rfl | rfl | rfl <;> decide +kernel

/-- The base point, its opposite, infinity, a coordinate of p, points off the curve, and the products by 0 and 1. -/
theorem witness_PkePoints :
    let reg := fun (s : State) (r : Nat) => (rdNat s (Mem.pke (512 * r)) 32, rdNat s (Mem.pke (512 * r + 256)) 32)
    let s := fun (a b : Point) => pkeAt 0x10 ⟨4, 3, 1, 2, 0, 0⟩ [(1, packed a), (2, packed b)]
    let g : Point := (baseX, baseY)
    let big := fun (q : Point) => sm2P ≤ q.1 ∨ sm2P ≤ q.2
    let source := fun (q : Point) => ¬big q ∧ (q = (0, 0) ∨ onCurve q = true)
    (∀ q ∈ [g, (0, 0), (baseX, sm2P - baseY)], source (reg (s q q) 1) ∧ source (reg (s q q) 2) ∧ reg (s q q) 1 = q) ∧
      (∀ q ∈ [(baseX, sm2P), (sm2P, 5)], big (reg (s q g) 1)) ∧
      (¬big (reg (s (5, 5) g) 1) ∧ reg (s (5, 5) g) 1 ≠ (0, 0) ∧ ¬onCurve (reg (s (5, 5) g) 1) = true) ∧
      ((reg (s g (baseX, sm2P - baseY)) 1).1 = (reg (s g (baseX, sm2P - baseY)) 2).1 ∧
        (reg (s g (baseX, sm2P - baseY)) 1).2 ≠ (reg (s g (baseX, sm2P - baseY)) 2).2) ∧
      (∀ k ∈ [0, 1], rdNat (s g (k, 0)) (Mem.pke (512 * 2)) 32 = k) := by
  decide +kernel

/-! ## A job's end -/

def jobWith (f : PkeJob → PkeJob) (g : Pke → Pke) : State :=
  { windowed with pke := g { windowed.pke with job := some (f (jobOf pkeWords 2 0)) } }

theorem witness_PkeJobs_ends :
    let over1 := jobWith id id
    let failed := jobWith (fun j => { j with status := 0x801 }) id
    let gone := jobWith (fun j => { j with scrubbed := true }) id
    let early := jobWith (fun j => { j with run := 1 }) id
    let silent := jobWith (fun j => { j with outMask := 0 }) id
    let often := jobWith id fun p => { p with faults := [0, 0, 0, 0, 0, 0] }
    let wiping := { windowed with pke := { windowed.pke with wiping := true } }
    let testing := { windowed with pke := { windowed.pke with testing := true } }
    (∀ s ∈ [over1, failed, gone, often], (s.pke.job.map fun j => j.run == j.commands.length) = some true ∧
      (s.pke.job.map fun j => vaRange s j.part (.unit (partUnit s j.part)) .write j.outAddr (512 * (maskRegs j.outMask).length) ==
        (0, [(0x500002000, j.outAddr, 512 * (maskRegs j.outMask).length)])) = some true) ∧ 0x500002000 < 2 ^ 38 ∧
      (over1.pke.job.map fun j => (j.status == 0) && !j.scrubbed) = some true ∧
      rd often E.pke_fault_limit ≤ (often.pke.faults.filter fun t => decide (now often < t + 24 * 3600 * 25000000)).length + 1 ∧
      (early.pke.job.map fun j => j.run == j.commands.length) = some false ∧ (silent.pke.job.map (·.outMask)) = some 0 ∧
      windowed.pke.job = none ∧ windowed.pke.wiping = false ∧ wiping.pke.wiping = true ∧
      rd (wr wiping E.pke_job_state 2) E.pke_job_state = 2 ∧
      (Serves windowed E.pke_selftest_cmd ∧ authentic windowed .bar0 = false ∧ authentic windowed .island = true) ∧
      (testing.pke.testing = true ∧ testing.pke.job = none ∧ testing.pke.wiping = false ∧ domainOn testing 39 = true) := by
  unfold Serves; decide +kernel

end Tests
end

