-- ==== Sys2Proof/Tests/Control.lean ====
section
/-! SUPPORT. States in which the hypotheses of the statements about a core's control core hold together. -/

open Sys2Proof (Instr Byte Path Opnd XIns AIns CIns Eng Ecc Msg)

open Sys2Proof.Machine

namespace Tests

set_option Elab.async false

/-- A core whose program runs. -/
def ctlCore : Core :=
  { Core.init with running := true, xs := [(1, 72), (2, 0xFFFFFFFFFFFFFFF0), (3, 63), (4, 64), (5, 0x17FFF8), (6, 47)], pc := 9, cbeat := 55, beat := 60 }

def ctl : State := setCore ready 3 ctlCore

/-- The same core at a word that holds a `HALT` in its second half (R272), and nothing in its first. -/
def ctlHalts : State := wrBytes ctl (Mem.prog 3 0 32) (leBytes 8 (0x3F * 2 ^ 58))

def ci (imm xd : Nat) (xa : Nat := 1) : CIns := ⟨xd, xa, 2, BitVec.ofNat 18 imm⟩

/-- The same core with a block that runs, one that is pending, and a copy of its program. -/
def ctlBusy : State :=
  setCore ctl 3 { ctlCore with ldpm := some ⟨0x6000, 16, 4, 50⟩, block := some ⟨2, 59, 20, 12, 20, 59, true, 4, 59, true, 0, 70⟩,
                               pendBlock := some ⟨4, 1, 1, 4, 54⟩ }

/-- The same core while an `LDPM` runs. -/
def ctlCopies : State := setCore ctl 3 { ctlCore with ldpm := some ⟨0x6000, 16, 4, 50⟩ }

/-- The same core about to start the longest copy that word 1 leaves room for. -/
def ctlLoads : State := setCore ctl 3 { ctlCore with xs := [(1, 0x6000), (2, 131064)] }

/-- The same core in C2 mode: queue 2 is full, queue 4 holds one command less. -/
def ctlC2 : State :=
  setCore ctl 3 { ctlCore with c2 := true, c2Status := 0x0105,
                               c2q := [(2, List.replicate 16 7), (4, List.replicate 15 7)] }

theorem witness_ControlComputes :
    ControlFree ctl 3 ∧ (∀ n < 8, ((ci (2 ^ 14 + 16 + n) 5).imm.truncate 14 : BitVec 14).toNat % 8 = n) ∧
      (core ctl 3).x 3 = 63 ∧ (core ctl 3).x 4 = 64 ∧ ∀ n < 6, (ci 5 n).xd = n := by
  unfold ControlFree; decide +kernel

/-- The same core in C2 mode with nothing queued. -/
def ctlC2Idle : State := setCore ctl 3 { ctlCore with c2 := true, c2Status := 0x0105 }

/-- An open group to which core 3 is bound, its cinch over the upper half of the pool of shadows. -/
def ctlBound : State :=
  setCore { wr ready E.shadow_pool_cfg 0xF00000 with
            groups := [{ opener := none, id := 1, part := 0, fabric := false, step := 0, state := 1, status := 0, cause := 0
                         binds := [⟨3, 0, 0, 1⟩], granules := [], acked := [], awaited := [], waiter := none, unacked := 0 }] }
    3 { ctlCore with bound := some 1 }

/-- The last double word of the core's memory: slot 15 serves its bank in beat 64. -/
theorem witness_ControlMemory :
    let o := ((core ctl 3).x 5 + 8 * ((ci 0 0 5).imm.truncate 14 : BitVec 14).toNat) % 2 ^ 64
    let u := meet (retire ctl 3 64) (Mem.cm 3 o) 8
    ControlFree ctl 3 ∧ o + 8 = 0x180000 ∧ inPool ctl (Mem.cm 3 o) = false ∧ (64 + o / 64) % 16 = 15 ∧
      poisoned u (Mem.cm 3 o) 8 = false ∧ inPool (retire ctl 3 64) (Mem.cm 3 o) = false ∧
      groupOf (retire ctl 3 64) 3 none (Mem.cm 3 o) = none ∧ (core (retire ctl 3 64) 3).grants = [] := by
  unfold ControlFree; decide +kernel

theorem witness_ControlMemory_bound :
    let o := ((core ctlBound 3).x 1 + 8 * ((ci 0 0).imm.truncate 14 : BitVec 14).toNat) % 2 ^ 64
    let key := Mem.cm 3 o
    let u := retire ctlBound 3 62
    ControlFree ctlBound 3 ∧ inPool ctlBound key = false ∧ inPool u key = false ∧ (62 + o / 64) % 16 = 15 ∧
      (core u 3).grants = [] ∧ groupOf u 3 none key = some 1 ∧
      (coreStore u 3 none key (leBytes 8 ((core ctlBound 3).x 2)) false).2 = 0 := by
  unfold ControlFree; decide +kernel

/-- The same core before the beat at which the status of a block that ended is known. -/
def ctlEnded : State := setCore ctl 3 { ctlCore with ended := [(54, 0), (58, 0x0106)] }

/-- A word for `HALT`, and an undefined one. -/
theorem witness_ControlEndsBlocks_halt :
    ControlFree ctlHalts 3 ∧ BlocksIdle ctlHalts 3 ∧ ctlDefined (halfWord32 ctlHalts 3 (core ctlHalts 3).pc) = true ∧
      ControlFree ctl 3 ∧ ctlDefined (halfWord32 ctl 3 (core ctl 3).pc) = false := by
  unfold ControlFree BlocksIdle; decide +kernel

theorem witness_ControlEndsBlocks :
    ControlFree ctl 3 ∧ BlocksIdle ctl 3 ∧ (core ctl 3).ldpm = none ∧ (core ctl 3).x 1 % 2 = 0 ∧
      (core ctl 3).x 6 % 2 = 1 ∧ (core ctl 3).x 6 / 64 % 4 ≠ 3 ∧ (core ctl 3).x 6 / 8 % 8 < 6 ∧
      (core ctl 3).block = none ∧ ((core ctl 3).ended.find? fun e => decide ((core ctl 3).cbeat < e.1)) = none ∧
      ControlFree ctlCopies 3 ∧ BlocksIdle ctlCopies 3 ∧ (core ctlCopies 3).ldpm ≠ none ∧ ControlFree ctlEnded 3 ∧
      ((core ctlEnded 3).ended.find? fun e => decide ((core ctlEnded 3).cbeat < e.1)) = some (58, 0x0106) := by
  unfold ControlFree BlocksIdle; decide +kernel

theorem witness_ControlWaits :
    ControlFree ctlBusy 3 ∧ ¬BlocksIdle ctlBusy 3 ∧ (core ctlBusy 3).block ≠ none ∧ (core ctlBusy 3).pendBlock ≠ none ∧
      (core ctlBusy 3).c2 = false ∧ (core ctlBusy 3).ldpm ≠ none ∧ (core ctlBusy 3).ended = [] ∧
      ctlDefined (halfWord32 (wrBytes ctlBusy (Mem.prog 3 0 32) (leBytes 8 (0x3F * 2 ^ 58))) 3 9) = true ∧ ControlFree ctlC2 3 ∧ (core ctlC2 3).c2 = true ∧
      (Tab.get [] (core ctlC2 3).c2q 2).length = 16 ∧ (Tab.get [] (core ctlC2 3).c2q 4).length = 15 := by
  unfold ControlFree BlocksIdle; decide +kernel

theorem witness_ControlWaits_idle :
    ControlFree ctlC2Idle 3 ∧ (core ctlC2Idle 3).c2 = true ∧ (core ctlC2Idle 3).xfers = [] ∧
      (core ctlC2Idle 3).ops = [] ∧ ∀ n < 5, Tab.get [] (core ctlC2Idle 3).c2q n = [] := by
  unfold ControlFree; decide +kernel

theorem witness_ProgramMemoryReload :
    ControlFree ctlLoads 3 ∧ (core ctlLoads 3).ldpm = none ∧ (core ctlLoads 3).x 2 % 2 ^ 18 = 131064 ∧
      131064 % 8 = 0 ∧ 8 * ((ci 1 0).imm.truncate 14 : BitVec 14).toNat + 131064 = 131072 ∧
      ControlFree ctlCopies 3 ∧ (core ctlCopies 3).ldpm = some ⟨0x6000, 16, 4, 50⟩ := by
  unfold ControlFree; decide +kernel

/-- A valid block at word 2 (R236). -/
def ctlBlock : State :=
  wrBytes (setCore ctl 3 { ctlCore with lastEnd := 55, xs := [(1, 2), (2, 2)], vs := [(0, 7), (4, 9)] }) (Mem.prog 3 0 16)
    (leBytes 8 (0x5642 * 2 ^ 48 + 12 * 2 ^ 34 + 20 * 2 ^ 20 + 0x1230) ++ leBytes 8 (0xFF00 * 2 ^ 32 + 0x9A371B2C) ++
      leBytes 8 0x0001000200030004)

/-- A block whose two parts are done and that nothing holds in flight. -/
def ctlDone : State :=
  setCore ctl 3 { ctlCore with block := some ⟨2, 59, 20, 12, 20, 59, true, 4, 59, true, 0, 70⟩, lc := [(1, 4)],
                               cmps := [(0, ⟨0x509, 11, false⟩), (2, ⟨0x911, 3, false⟩)],
                               queues := [(2, ⟨true, 2, [(true, 0, 0, 5)], 0⟩)] }

theorem witness_BlocksRun :
    ControlFree ctlBlock 3 ∧ BlocksIdle ctlBlock 3 ∧ (core ctlBlock 3).c2 = false ∧
      (core ctlBlock 3).lastEnd = max (core ctlBlock 3).cbeat (core ctlBlock 3).pendStart ∧ blockValid ctlBlock 3 ((core ctlBlock 3).x 1) = true ∧
      (core ctlBlock 3).flag 0 = false ∧ blockValid ctlBlock 3 ((core ctlBlock 3).x 2) = true := by
  unfold ControlFree BlocksIdle; decide +kernel

theorem witness_BlocksRun_follow :
    ControlFree ctlDone 3 ∧ (core ctlDone 3).c2 = false ∧ (core ctlDone 3).pendBlock = none ∧
      (core ctlDone 3).ops = [] ∧ (core ctlDone 3).xfers = [] ∧
      ∃ b, (core ctlDone 3).block = some b ∧ b.xdone = true ∧ b.adone = true ∧ b.fault = 0 := by
  refine ⟨?_, by decide +kernel, by decide +kernel, by decide +kernel, by decide +kernel, _, rfl, rfl, rfl, rfl⟩
  unfold ControlFree; decide +kernel

end Tests
end

