-- ==== Sys2Proof/Tests/Engines.lean ====
section
/-! SUPPORT. States in which the hypotheses of the statements about transfers, engines and key contexts hold together. -/

open Sys2Proof (Instr Byte Path Opnd XIns AIns CIns Eng Ecc Msg)

open Sys2Proof.Machine

namespace Tests

set_option Elab.async false

def line : List Byte := (List.range 64).map (BitVec.ofNat 8)

/-- A transfer in flight, of 64 bytes. -/
def xfer (kind : XferKind) (writes : List (Nat × Option Nat × List Byte × Bool)) : Xfer :=
  ⟨7, kind, 10, 59, 1, 0, 3, 9, true, 0, 0, 0, 0, 64, 64, writes, 0, none, 0, false, 0⟩

def flying (x : Xfer) : State := setCore mapped 3 { streamCore with xfers := [x] }

def loading : State := flying (xfer .ldt [(Mem.tile 3 9 0, none, line, false)])
def storing : State := flying (xfer .stt [(0x500000000, some 0x60000, line, false)])
def heldXfer : Xfer := { xfer .cpy [] with dstContext := 2, dstStart := 0x64000, start := 0x60000, done := 0, held := some 0x60000 }
def holding : State := putContext (putContext (flying heldXfer) 1 (lines 0x60000)) 2 (lines 0x64000)

theorem witness_TransfersMove :
    let x := xfer .ldt [(Mem.tile 3 9 0, none, line, false)]
    let y := xfer .stt [(0x500000000, some 0x60000, line, false)]
    (loading.power.entry = none ∧ asleep loading 0 = false ∧ (core loading 3).running = true ∧
      (core loading 3).xfers = [x] ∧ (core loading 3).grants = [] ∧ x.id = 7 ∧ x.held = none ∧ x.remote = 0 ∧ x.status = 0 ∧
      ((core loading 3).queue x.queue).entries.length < ((core loading 3).queue x.queue).depth ∧ (core loading 3).ops = []) ∧
    (storing.power.entry = none ∧ asleep storing 0 = false ∧ (core storing 3).running = true ∧
      (core storing 3).xfers = [y] ∧ (core storing 3).ops = [] ∧ (core storing 3).grants = [] ∧ y.id = 7 ∧ y.held = none ∧ y.remote = 0 ∧ y.status = 0 ∧ (core storing 3).bound = none ∧
      (putAll storing 3 y.writes 0).2 = 0) := by
  decide +kernel

theorem witness_TransfersMove_resumes :
    let r := moveXfer holding 3 { heldXfer with held := none } (core holding 3).beat
    Goes holding 3 { heldXfer with held := none } ∧ coreRuns holding 3 = true ∧ (core holding 3).xfer 7 = some heldXfer ∧ heldXfer.held = some 0x60000 ∧
      (entryFor holding 3 0x60000).isSome = true ∧ ((core r.1 3).xfer 7).isSome = true :=
  ⟨goes_of_reached _ _ _ (by decide) (by decide +kernel), by decide +kernel⟩

/-- An operation of the ME that writes tile 9 and releases tiles 10 and 12. -/
def meOp : Op :=
  { eng := 1, word := 3, issue := 60, occ := 4, lat := 10, dsts := [9, 33, 33], srcs := [], release := [10, 12]
    writes := [(Mem.tile 3 9 0, none, line)], fx := [], status := 0 }

def operating (o : Op) : State := setCore ready 3 { streamCore with ops := [o] }

def entryOf (q n width : Nat) : Prime := ⟨q, 2 ^ (2 * width) / q, 0, 0, 0, 2 ^ 56 + n * 256 + width⟩

/-- One effect of each kind. -/
def effects : List Fx :=
  [.primes [(1, ⟨17, 1, 1, 1, 1, 1⟩)], .consts [(1, 3)], .twiddle 2 ⟨3, 5, 7⟩, .chains 5 [[1, 2], [3], []], .noise 1 2 10 true,
    .vs (.sum 1 false 8), .mma 1 0 line line line,
    .macc 9 false false (List.replicate 512 12288) (entryOf 12289 12 14) (entryOf 12289 12 14),
    .macc 9 true false (List.replicate 512 (96 + 2 ^ 32 * 192)) (entryOf 97 12 7) (entryOf 193 12 8)]

theorem witness_EngineOperationsEnd :
    (coreRuns (operating meOp) 3 = true ∧ (core (operating meOp) 3).ops = [meOp] ∧ (core (operating meOp) 3).grants = [] ∧
      (core (operating meOp) 3).xfers = [] ∧ meOp.eng = engNum .me ∧
      2 ^ 41 ≤ Mem.tile 3 9 0 ∧ meOp.fx = [] ∧ meOp.status = 0 ∧ 1 ≤ meOp.lat ∧ meOp.occ ≤ meOp.lat ∧
      meOp.dsts.count 33 = 2 ∧ meOp.dsts.count 9 = 1) ∧
    ∀ f ∈ effects, let o := { meOp with writes := [], dsts := [], fx := [f] }
      coreRuns (operating o) 3 = true ∧ (core (operating o) 3).ops = [o] ∧ (core (operating o) 3).grants = [] ∧
        (core (operating o) 3).xfers = [] ∧ o.eng = engNum .me ∧ o.writes = [] ∧
        o.fx = [f] ∧ o.status = 0 ∧ 1 ≤ o.lat ∧ o.occ ≤ o.lat := by
  decide +kernel

/-- The entries with which the products join their tile, and words below both of their moduli. -/
theorem witness_EngineOperationsEnd_sums :
    (∀ p ∈ [entryOf 12289 12 14, entryOf 97 12 7, entryOf 193 12 8], p.sound = true ∧ p.q ≤ 2 ^ 32) ∧
      12288 < 12289 ∧ (96 + 2 ^ 32 * 192) % 2 ^ 32 < 97 ∧ (96 + 2 ^ 32 * 192) / 2 ^ 32 < 193 ∧
      ∀ i < 512, rdNat (operating meOp) (Mem.tile 3 9 0 + 8 * i) 8 < 97 := by
  decide +kernel

/-! ## Polynomial arithmetic -/

def polyCore : Core :=
  { streamCore with
    gens := [(8, 1), (9, 2), (10, 7), (17, 1), (18, 2), (33, 7)]
    pinned := [(5, page (onchip 0 3 0))], primes := [(0, entryOf 12289 12 14), (2, entryOf 97 12 7), (3, entryOf 193 12 8)], consts := [(1, 5), (2, 1)]
    twiddles := [(0, some ⟨0, 0, 0⟩)], galois := [(0, some (5, 10))], chains := [(3, [0]), (4, [0])]
    trackers := [(2, some ⟨5, [1, 2], 3, 4⟩)], noiseKey := 77, noiseParam := 3, noiseLog := 11
    keys := [(0, { KeyCtx.init with state := 1, logn := 12, list := [0, 1], digits := 2, seed := 12345 })] }

/-- A context of `n1` rows of `n0` words of 2^es bytes, over the page that is pinned to the core's own memory. -/
def area (es base n0 n1 stride : Nat) : List Byte :=
  leBytes 8 (es * 2 ^ 54 + base) ++ leBytes 8 (n0 + n1 * 2 ^ 24) ++ leBytes 8 (1 + 2 ^ 24) ++ leBytes 8 1 ++
    leBytes 8 (8 + stride * 2 ^ 32) ++ leBytes 8 0 ++ leBytes 8 0 ++ leBytes 8 0

/-- Contexts: whole polynomials of 4096 words in 1 and 2, of 1024 words in 5 and 6, and smaller areas. -/
def contexts : List (Nat × List Byte) :=
  [(1, area 3 0x50000 512 8 4096), (2, area 3 0x58000 512 8 4096), (3, area 3 0x58000 16 1 0), (4, area 3 0x58000 512 1 0),
   (5, area 3 0x5C000 512 2 4096), (6, area 3 0x5A000 512 2 4096), (7, area 3 0x50000 16 1 0), (8, area 3 0x50100 8 1 0),
   (9, area 2 0x50200 64 1 0)]

def poly : State :=
  contexts.foldl (fun s e => putContext s e.1 e.2)
    (wrBytes (setCore mapped 3 polyCore) (Mem.cm 3 0x100) (leBytes 8 (9 * 2 ^ 35 + 9 * 2 ^ 30)))

def at60 : State := retire poly 3 60

theorem poly_execute : ExecuteFree poly 3 60 blk at60 := by
  unfold ExecuteFree
  exact ⟨by decide +kernel, by decide +kernel, by decide +kernel, by decide +kernel, rfl, rfl, by decide +kernel, rfl, blk,
    by decide +kernel, rfl⟩

/-- No bit error lies anywhere, so the reads of the operands meet none. -/
theorem at60_clean : at60.flips = [] := by decide +kernel

def xop (dst srca srcb : Opnd) (imm : Nat) : XIns := ⟨1, dst, srca, srcb, BitVec.ofNat 18 imm⟩

def found (os : List Opnd) : Resolved := resolve (core poly 3) (blk.xbase + 1) os

theorem poly_ready (x : XIns) (os : List Opnd) (h : x.issue = 1)
    (hr : (found os).ready = some 60) (hc : ∀ n ∈ (found os).codes, n = 0) : Ready poly at60 3 60 blk x os (found os) :=
  ⟨⟨at60, poly_execute, by unfold meetOperands; rw [at60_clean]; rfl⟩, by rw [h]; rfl, hr, hc⟩

def t10 : Opnd := .tile 10 7
def t8 : Opnd := .tile 8 1
def t9 : Opnd := .tile 9 2

theorem three_ready (m : Nat) : Ready poly at60 3 60 blk (xop t10 t8 t9 m) [t10, t8, t9] (found [t10, t8, t9]) :=
  poly_ready _ _ rfl (by decide +kernel) (by decide +kernel)

theorem two_ready (m : Nat) : Ready poly at60 3 60 blk (xop t10 t8 t9 m) [t10, t8] (found [t10, t8]) :=
  poly_ready _ _ rfl (by decide +kernel) (by decide +kernel)

theorem polyArithmetic_clear :
    let srcs := fun (vals : List Opd) => (vals.drop 1).flatMap Opd.storage
    ∀ lat ∈ [10, 16, 18], Clear at60 3 0 60 4 lat (srcs (found [t10, t8, t9]).vals) [(10, 7)] ∧
      Clear at60 3 0 60 4 lat (srcs (found [t10, t8]).vals) [(10, 7)] := by
  unfold Clear; decide +kernel

/-- The tile form, in wide mode with the prime 12289 and in narrow mode with 97 and 193. -/
theorem witness_PolynomialArithmetic :
    (primeAt at60 3 0).sound = true ∧ (primeAt at60 3 2).sound = true ∧ (primeAt at60 3 3).sound = true ∧
      primesOk at60 3 0 false = true ∧ primesOk at60 3 2 true = true ∧ (10 < 24 ∧ 8 < 16 ∧ 9 < 16) ∧
      (∀ m ∈ [128, 2 ^ 17 + 2 * 2048 + 128],
        Ready poly at60 3 60 blk (xop t10 t8 t9 m) [t10, t8, t9] (found [t10, t8, t9]) ∧
          Ready poly at60 3 60 blk (xop t10 t8 t9 m) [t10, t8] (found [t10, t8])) ∧
      (found [t10, t8, t9]).vals = [.tile 10 7, .tile 8 1, .tile 9 2] ∧ (found [t10, t8]).vals = [.tile 10 7, .tile 8 1] ∧
      (∀ v ∈ [Opd.tile 10 7, .tile 8 1, .tile 9 2], opdPoisoned at60 3 v = false) ∧
      (∀ i < 512, rdNat at60 (Mem.tile 3 8 (8 * i)) 8 = 0 ∧ rdNat at60 (Mem.tile 3 9 (8 * i)) 8 = 0) ∧
      Tab.get 0 (core at60 3).consts 1 < 97 :=
  ⟨by decide +kernel, by decide +kernel, by decide +kernel, by decide +kernel, by decide +kernel, by decide,
    fun m _ => ⟨three_ready m, two_ready m⟩, by decide +kernel⟩

/-- An entry at the edge: the largest product of two inputs below q. -/
theorem witness_PolynomialArithmetic_barrett :
    (entryOf 12289 12 14).sound = true ∧ 12288 * 12288 < (entryOf 12289 12 14).q * (entryOf 12289 12 14).q := by
  decide +kernel

/-- e = 2.7182818… and tanh 1 = 0.7615941… round to these FP32 patterns (R437). -/
theorem test_exp_tanh_of_one :
    (veExact 0x0B false 1 0).map f32 = some 0x402DF854 ∧ (veExact 0x0E false 1 0).map f32 = some 0x3F42F7D6 := by
  decide +kernel

/-- m_4 = (2/16) · cos(π · 4 / 16) for the one slot value 1 (R330): 2^20 of it is 92681.9…. -/
theorem test_encs_cosine : encsExact 20 4 4 [fixOne] / fixOne = 92681 := by
  decide +kernel

end Tests
end

