-- ==== Sys2Proof/Tests/Homomorphic.lean ====
section
/-! SUPPORT. A registered chain, a key set and records with which every homomorphic command passes its checks. -/

open Sys2Proof (Instr Byte Path Opnd XIns AIns CIns Eng Ecc Msg KernelReport)

open Sys2Proof.Machine

namespace Tests

set_option Elab.async false

/-- A source: its domain, polynomials and level, and its first polynomial's place. -/
def source (scheme : Nat) (ntt : Bool) (polys level base : Nat) : Desc :=
  { scheme := scheme, domain := if ntt then 1 else 0, polys := polys, logn := 12, limbs := level + 1, level := level, chain := 5
    budget := 20, scale := 5000, tag := 7, base0 := base, base1 := base + 0x20000, base2 := base + 0x40000, stride := 0x8000
    user := 0 }

/-- The descriptor at `src_a` that suits the command (R395, R396). -/
def sourceFor (op : Nat) : Desc :=
  if op = 0x09 then source 0 true 3 1 0x100000
  else if op = 0x0B then source 1 true 2 1 0x100000
  else if op = 0x0A ∨ op = 0x0C then source 0 true 2 1 0x100000
  else if op = 0x0E ∨ op = 0x10 ∨ op = 0x20 then source 0 false 2 0 0x100000
  else source 0 true 2 0 0x100000

/-- The record at `aux` that suits the command: a plaintext, weights (R398), a diagonal table (R400) or a bridge record (R406). -/
def auxFor (op : Nat) : List Byte :=
  if op = 0x04 ∨ op = 0x05 then (source 0 true 1 0 0x280000).bytes
  else if op = 0x06 then record [2 ^ 6, 0x290000, 4, 0x290100]
  else if op = 0x11 then record [2 * 2 ^ 16 + 1] ++ leBytes 8 1 ++ leBytes 8 0x10200
  else record [0x4252 * 2 ^ 48 + 12 * 2 ^ 43 + 2 ^ 28 + 16 * 2 ^ 22 + 1000, 7, 0x2A0000]

def argFor (op : Nat) : Nat :=
  if op = 0x0D then 3 else if op = 0x0C ∨ 0x20 ≤ op then 1 else 0

def heTaken (op : Nat) : Taken :=
  taken (opRecord op 1 [0x100C0, if 0x20 < op then 0x2B0000 else 0x10000, if (heInfo op).scratch then 0x400000 else 0x10040, 0x10100, argFor op]) false

def keyRing : KeySet :=
  ⟨7, 0, 0, 5, 12, 1, 1, 0x010101010101010101, [⟨1, 0, 3, 9, 4096, 1⟩, ⟨0, 3, 3, 9, 4097, 1⟩, ⟨0, 5, 3, 9, 4098, 1⟩,
    ⟨2, 0, 3, 9, 4099, 1⟩, ⟨2, 1, 3, 9, 4100, 1⟩, ⟨2, 2, 3, 9, 4101, 1⟩], 4096, 6, 0⟩

/-- Ring 3 of sector 2 with this command next: chain 5 of three primes, and the pages of its records and ranges. -/
def heState (op : Nat) : State :=
  let s := wr (wr (ringAt mapped 2 3 1) (E.chain_prime_count + 256 * 5) 3) (E.chain_log2_n_max + 256 * 5) 12
  let s := [40961, 65537, 61441].zipIdx.foldl (fun s e => wrBytes s (chainRecord 5 + 64 * e.2)
    ((⟨e.1, 2 ^ 32 / e.1, 0, 0, 0, 2 ^ 56 + 12 * 256 + 16⟩ : Prime).words.flatMap (leBytes 8))) s
  let s := { s with xlat := (List.range 80).map fun i => (i + 1, page (0x500000000 + 65536 * i)), keysets := [keyRing] }
  let s := wrBytes s 0x500000000 ((sourceFor op).bytes ++ (source 0 true 2 0 0x180000).bytes)
  let s := wrBytes s 0x5000000C0 ((source 0 true 3 1 0x300000).bytes ++ auxFor op)
  setRing (wrBytes s 0x500000200 (source 0 true 1 0 0x280000).bytes) 2 3 ⟨[heTaken op], []⟩

def heCode (op : Nat) : Nat :=
  let s := heState op
  let t := heTaken op
  let l := heInputs s 2 (ringPart s 2) t
  (hePlan s 2 (ringPart s 2) t (l.map Prod.snd)).check s t l (provPlan s 2 (ringPart s 2) t).2

/-- The twenty commands, each with sources that it takes. -/
def heOps : List Nat := (List.range 17).map (· + 1) ++ [0x20, 0x21, 0x22]

theorem witness_HomomorphicCommandsStart :
    ∀ op ∈ heOps, nextOp (heState op) 2 3 op = some (heTaken op) ∧ heCode op = 0 ∧ (heTaken op).cores 2 = [50] ∧
      (core (heState op) 50).running = false ∧ keysReady (heState op) [50] = true := by
  decide +kernel

/-- A check that fails: no page is mapped; a core of the set runs. -/
theorem witness_HomomorphicCommandsStart_else :
    let s := { heState 1 with xlat := [] }
    let busy := setCore (heState 1) 50 { Core.init with running := true }
    let l := heInputs s 2 (ringPart s 2) (heTaken 1)
    nextOp s 2 3 1 = some (heTaken 1) ∧ (core s 50).running = false ∧
      (hePlan s 2 (ringPart s 2) (heTaken 1) (l.map Prod.snd)).check s (heTaken 1) l (provPlan s 2 (ringPart s 2) (heTaken 1)).2
        = 0x0302 ∧
      nextOp busy 2 3 1 = some (heTaken 1) ∧ (∃ c ∈ (heTaken 1).cores 2, (core busy c).running = true) := by
  decide +kernel

/-- The plan of a command over polynomials of eight words (the words' statement asks for no least degree). -/
def small (op : Nat) : HePlan :=
  let d := { source 0 true 2 0 0x100000 with logn := 3 }
  ⟨2, 0, op, 0, 0, 0, 0, 0, d, { d with base0 := 0x180000, base1 := 0x1A0000 }, d,
    { source 0 true 1 0 0x280000 with logn := 3 }.bytes, none, [], []⟩

def heData : State := wrBytes (heState 1) 0x5000F0000 [1, 2]

/-- Words of one limb, all below the limb's prime. -/
def limbOk (l : List Nat) : Bool := l.length == 8 && l.all fun w => decide (w < (chainEntryAt heData 5 0).q)

theorem witness_HomomorphicKernels :
    (chainEntryAt heData 5 0).sound = true ∧ ∀ op ∈ [1, 2, 3, 4, 5, 8, 12],
      (small op).op = op ∧ (small op).chain = 5 ∧
      (∀ j < 2, limbOk ((small op).limb heData (small op).a j 0) = true ∧
        limbOk ((small op).limb heData (small op).b j 0) = true) ∧
      limbOk ((small op).limb heData (small op).pt 0 0) = true := by
  decide +kernel

/-- A running `HNEG`, whose kernel ends well or fails; and the same command waiting. -/
def heStarted : Taken := { heTaken 3 with started := true }

def heRunning : State := setCore (queued mapped [heStarted] []) 50 { Core.init with running := true }
def heWaiting : State := queued mapped [heTaken 3] []

theorem witness_HomomorphicKernels_end :
    (startedHe heRunning 2 3)[0]? = some heStarted ∧ (core heRunning 50).running = true ∧ heStarted.abort = 0 ∧
      (startedHe heWaiting 2 3)[0]? = none ∧
      Serves heRunning E.he_abort ∧ namedHe heRunning 2 0 = some (3, heStarted) ∧ heStarted.started = true ∧
      Serves heWaiting E.he_abort ∧ namedHe heWaiting 2 0 = some (3, heTaken 3) ∧ (heTaken 3).started = false := by
  unfold Serves; decide +kernel

end Tests
end

