-- ==== Sys2Proof/Tests/Issues.lean ====
section
/-! SUPPORT. Operands and tables with which every engine's instruction issues. -/

open Sys2Proof (Instr Byte Path Opnd XIns AIns CIns Eng Ecc Msg)

open Sys2Proof.Machine

namespace Tests

set_option Elab.async false

/-- An instruction and its operands. -/
abbrev Row : Type := XIns × List Opnd

def op2 (d a : Opnd) (imm : Nat) : Row := (xop d a (.tile 0 0) imm, [d, a])
def op3 (d a b : Opnd) (imm : Nat) : Row := (xop d a b imm, [d, a, b])
def opA (a : Opnd) (imm : Nat) : Row := (xop (.tile 0 0) a (.tile 0 0) imm, [a])
def op0 (imm : Nat) : Row := (xop (.tile 0 0) (.tile 0 0) (.tile 0 0) imm, [])

def vchIns : XIns := xop (.tile 25 0) (.tile 24 0) (.tile 26 0) (3 * 16384)

/-- Rows of every engine, in the order of the statement. -/
def rows : List Row :=
  [op2 (.tile 2 0) (.tile 4 0) 0, op2 (.ctx 1) (.ctx 2) (2 * 4096), op2 (.ctx 6) (.ctx 5) 0, op2 (.tile 3 0) (.tile 8 1) 256,
   op0 512, opA (.ctx 4) 0, opA (.ctx 3) 0, op3 (.ctx 5) (.ctx 7) (.ctx 8) 0,
   (xop (.tile 2 0) (.tile 0 0) (.tile 0 0) 0, [.tile 2 0]), op0 (65536 + 1024 * 3 + 128 * 2),
   op3 (.bank 1 7) (.tile 17 1) (.tile 18 2) 0, op3 (.bank 1 7) (.tile 17 1) (.tile 18 2) (4 * 32768),
   op3 (.bank 1 7) (.tile 17 1) (.tile 18 2) 256, op2 (.bank 1 7) (.tile 17 1) 8, (vchIns, vchOperands poly 3 vchIns),
   opA (.ctx 7) (2 * 16384), opA (.ctx 8) 0]

/-- Every row's instruction finds its operands at beat 60. -/
theorem witness_EnginesIssue : ∀ e ∈ rows, Ready poly at60 3 60 blk e.1 e.2 (found e.2) := by
  have h : ∀ e ∈ rows, e.1.issue = 1 ∧ (found e.2).ready = some 60 ∧ ∀ n ∈ (found e.2).codes, n = 0 := by decide +kernel
  exact fun e he => poly_ready e.1 e.2 (h e he).1 (h e he).2.1 (h e he).2.2

/-- The pieces of a context. -/
def pieces (k : Nat) (w : Bool) : List (Nat × Nat × Nat) := (ownRange at60 3 k w).2

/-- `NTT`, `INTT` and `ENCR`: the tile form with N = 1,024, and whole polynomials of 4,096 words in memory. -/
theorem witness_EnginesIssue_transforms :
    ((slotPrimes at60 3 0 false).any fun e => decide (10 ≤ e.1.logN ∧ 12 ≤ e.1.logN)) = true ∧
      (found [.tile 2 0, .tile 4 0]).vals = [.tile 2 0, .tile 4 0] ∧
      tileGroup 2 (.tile 2 0) = some [(2, 0), (3, 0)] ∧ tileGroup 2 (.tile 4 0) = some [(4, 0), (5, 0)] ∧
      Clear at60 3 0 60 40 52 [(4, 0), (5, 0)] [(2, 0), (3, 0)] ∧
      (found [.ctx 1, .ctx 2]).vals = [.ctx 1, .ctx 2] ∧ Spans at60 3 1 true 32768 (pieces 1 true) ∧
      Spans at60 3 2 false 32768 (pieces 2 false) ∧ overlapCodes (pieces 1 true) [pieces 2 false] true = [] ∧
      Tab.get 0 (core at60 3).busyTo 0 ≤ 60 ∧ StoreFree at60 3 60 406 := by
  unfold Clear Spans StoreFree; decide +kernel

/-- `AUT` over 1,024 words, `AUTT` on tiles, `GSET` of g = 5 for N = 2,048, `TWB`, `PTL` and `KLD`. -/
theorem witness_EnginesIssue_tables :
    Tab.get none (core at60 3).galois 0 = some (5, 10) ∧ (found [.ctx 6, .ctx 5]).vals = [.ctx 6, .ctx 5] ∧
      Spans at60 3 6 true 8192 (pieces 6 true) ∧ Spans at60 3 5 false 8192 (pieces 5 false) ∧
      overlapCodes (pieces 6 true) [pieces 5 false] false = [] ∧ StoreFree at60 3 60 59 ∧
      (found [.tile 3 0, .tile 8 1]).vals = [.tile 3 0, .tile 8 1] ∧ 256 / 256 % 256 < 2 ^ (10 - 9) ∧
      Clear at60 3 0 60 8 20 [(8, 1)] [(3, 0)] ∧ Tab.get 0 (core at60 3).consts (512 / 512 % 16) % 2 ^ 18 = 5 ∧
      (primeAt at60 3 0).valid = true ∧ (found [.ctx 4]).vals = [.ctx 4] ∧ Spans at60 3 4 false 4096 (pieces 4 false) ∧
      (found [.ctx 3]).vals = [.ctx 3] ∧ Spans at60 3 3 false 128 (pieces 3 false) := by
  unfold Clear Spans StoreFree; decide +kernel

/-- `ENCC` and `ENCS` of 128 INT8 values with a scale for each 32. -/
theorem witness_EnginesIssue_encodes :
    let m := EncMod.of 0
    (found [.ctx 5, .ctx 7, .ctx 8]).vals = [.ctx 5, .ctx 7, .ctx 8] ∧ Spans at60 3 5 true 8192 (pieces 5 true) ∧
      Spans at60 3 7 false 128 (pieces 7 false) ∧ Spans at60 3 8 false 64 (pieces 8 false) ∧ m.n = 10 ∧ m.group ≠ 3 ∧ m.e ≤ 60 ∧
      m.place ≠ 3 ∧ m.values 128 ≤ 2 ^ 9 ∧ (m.values 128 + 32 * 2 ^ m.group - 1) / (32 * 2 ^ m.group) * 4 ≤ 64 ∧
      overlapCodes (pieces 5 true) [pieces 7 false, pieces 8 false] false = [] ∧
      StoreFree at60 3 60 (2 ^ m.n * (m.n - 1) / 128 + 96) := by
  unfold Spans StoreFree; decide +kernel

/-- The KXU. -/
theorem witness_EnginesIssue_kxu :
    let k := core at60 3
    (found [.tile 2 0]).vals = [.tile 2 0] ∧ Clear at60 3 3 60 4 24 [] [(2, 0)] ∧ (k.key 0).state = 1 ∧
      (k.key 0).expanded < (k.key 0).total * (k.key 0).tiles ∧ noiseOk k.noiseDist k.noiseParam = true ∧ 10 ≤ k.noiseLog ∧
      0 < 2 ^ k.noiseLog / 512 ∧ (primeAt at60 3 0).valid = true ∧
      noiseOk ((65536 + 1024 * 3 + 128 * 2) / 65536 % 4) ((65536 + 1024 * 3 + 128 * 2) / 1024 % 64) = true ∧
      Tab.get 0 k.busyTo 3 ≤ 60 := by
  unfold Clear; decide +kernel

/-- The matrix engine: an INT8 and a 16-bit product, `MMOD` by two primes and `MSUM`. -/
theorem witness_EnginesIssue_matrices :
    let w := MmodMod.of 256
    let ps := (maskList (Tab.get 0 (core at60 3).consts w.kreg)).map (primeAt at60 3)
    let occ := (w.k * ps.length * w.c + 63) / 64
    (found [.bank 1 7, .tile 17 1, .tile 18 2]).vals = [.bank 1 7, .tile 17 1, .tile 18 2] ∧ (MmaMod.of 0).ok = true ∧
      (MmaMod.of (4 * 32768)).ok = true ∧ Clear at60 3 1 60 64 80 [(17, 1), (18, 2)] [(33, 7)] ∧
      Clear at60 3 1 60 128 144 [(17, 1), (18, 2)] [(33, 7)] ∧ w.ok ps = true ∧ w.narrow = false ∧
      Clear at60 3 1 60 occ (occ + 16) [(17, 1), (18, 2)] [(33, 7)] ∧
      (found [.bank 1 7, .tile 17 1]).vals = [.bank 1 7, .tile 17 1] ∧ (MmaMod.of 8).fmt ≤ 1 ∧ (MmaMod.of 8).g ≤ (MmaMod.of 8).k ∧
      Clear at60 3 1 60 16 24 [(17, 1)] [(33, 7)] := by
  unfold Clear; decide +kernel

/-- The vector engine: a chain over two tiles, a load of one chain, an update of the simplest kind, and the trackers. -/
theorem witness_EnginesIssue_vectors :
    let w := Tab.get [] (core at60 3).chains 3
    let vals := (found (vchOperands poly 3 vchIns)).vals
    let d := veOpd at60 3 (chainTout w) true (vals.getD 0 .bad)
    let e := veOpd at60 3 (chainTa w) false (vals.getD 1 .bad)
    let p := vchPlan 3 vchIns.mod at60 60 vals
    w ≠ [] ∧ usesSrcb w = false ∧ d.code = 0 ∧ e.code = 0 ∧ max d.sets e.sets ≤ d.cap (chainTout w) ∧
      max d.sets e.sets ≤ e.cap (chainTa w) ∧ mayWrite 2 (vals.getD 0 .bad) = true ∧ ((vals.drop 1).take 1).all (mayRead 2) = true ∧
      Clear at60 3 2 60 p.occ p.lat (((vals.drop 1).take 1).flatMap Opd.storage) (vals.getD 0 .bad).storage ∧
      (found [.ctx 7]).vals = [.ctx 7] ∧ Spans at60 3 7 false 128 (pieces 7 false) ∧ 2 + 1 ≤ 16 ∧
      (chainGroups 1 (wordsOf (pieceBytes at60 (pieces 7 false)))).all chainOk = true ∧
      (found [.ctx 8]).vals = [.ctx 8] ∧ Spans at60 3 8 false 64 (pieces 8 false) ∧ Tab.get 0 (core at60 3).busyTo 2 ≤ 60 := by
  unfold Clear Spans; decide +kernel

/-- `VUPD`: the update word at the context's place names parameters and gradients, and no moments. -/
theorem witness_EnginesIssue_update :
    let l := wordsOf (pieceBytes at60 (pieces 8 false))
    let w := l.getD 0 0
    let p := updStream at60 3 (w / 2 ^ 35 % 32) (w / 2 ^ 52 % 16) true true
    let g := updStream at60 3 (w / 2 ^ 30 % 32) (w / 2 ^ 48 % 16) true false
    let f := updStream at60 3 (w / 2 ^ 15 % 32) 5 (bit w 14) false
    (Upd.of l).opt = 0 ∧ updType (w / 2 ^ 52 % 16) = true ∧ updType (w / 2 ^ 48 % 16) = true ∧
      (∀ y ∈ [p, g, f], y.codes.all (· == 0) = true) ∧ p.count ≤ g.count ∧ f.used = false := by
  decide +kernel

end Tests
end

