-- ==== Sys2Proof/Tests/Memories.lean ====
section
/-! SUPPORT. States in which the hypotheses of the statements about the memories hold together. -/

open Sys2Proof (Instr Byte Path Opnd XIns AIns CIns Eng Ecc Msg MemError Requester AddUpdate)

open Sys2Proof.Machine

namespace Tests

set_option Elab.async false

/-- A powered sector in which region 23 of core 28 may not change, nor region 2 of its core 3. -/
def regions : State :=
  setSector (wr (setCore mapped 28 { Core.init with cmAttr := 0xFFFF0F }) (E.shadow_pool_cfg + 1) 0x800000) 1
    { sector mapped 1 with landing := [⟨3, 2, 5, 0, false⟩] }

theorem witness_MemoryKeepsCode :
    let changed := fun (v : BitVec 32) => (List.range 24).filter fun k => bit v.toNat k != bit (core regions 28).cmAttr k
    domainOn regions 1 = true ∧ changed 0x7FFF0F = [23] ∧ bit (rd regions (E.shadow_pool_cfg + 1)) 23 = true ∧
      changed 0xFFFF0B = [2] ∧ (∃ g ∈ (sector regions 1).landing, g.target = 3 ∧ g.idx = 2) ∧
      changed 0xFFFF0E = [0] ∧ bit (rd regions (E.shadow_pool_cfg + 1)) 0 = false ∧ (28 / 25, 28 % 25) = (1, 3) ∧
      (24 < 25 ∧ 0x17FFFF < 0x180000 ∧ 0x7FFFFF < 0x800000) ∧
      bit (rd (wr regions (E.sector_pacing + 1) 1) (E.sector_pacing + 1)) 0 = true := by
  decide +kernel

theorem witness_MemoryKeepsCode_lines :
    core (flush regions 28) 28 = core regions 28 ∧ sector (flush regions 28) 1 = sector regions 1 ∧
      rd (flush regions 28) (E.shadow_pool_cfg + 1) = 0x800000 := by
  decide +kernel

/-- A wide region and one of SEC-DED words, the last byte of the commons, and a tile; the parity group of an address lies whole. -/
theorem witness_MemoryKeepsCode_errors :
    domainOn regions 1 = true ∧ regions.flips = [] ∧ bit (core regions (25 * 1 + 3)).cmAttr (0x40 / 65536) = true ∧
      (∀ l ∈ parityGroup (Mem.onchip 1 3 0x40), l ≠ Mem.onchip 1 3 0x40 - Mem.onchip 1 3 0x40 % 64 → poisoned regions l 64 = false) ∧
      bit (rd (wr regions (E.sector_pacing + 1) 1) (E.sector_pacing + 1)) 0 = true ∧
      ¬bit (core regions (25 * 1 + 3)).cmAttr (0x4FFFF / 65536) = true ∧ (0x7FFFFF < 0x800000 ∧ 24 < 25 ∧ 31 < 32 ∧ 4095 < 4096) := by
  decide +kernel

/-- The part with pseudo-channel slots mapped out, and an operation that runs. -/
def slotsOut (out : List Nat) (op : Option HbmOp) (tested : Tab (Option (Bool × List Nat))) : State :=
  { mapped with hbm := { mapped.hbm with out := out, op := op, tested := tested } }

/-- The first byte above the address space with n slots out (R189). -/
def hbmTop (n : Nat) : Nat := 0x10000000 + (523264 - 1024 * n) * 524288

/-- The last line, the first beyond it, the key store at its edges, the reserved area, and a granule written whole. -/
theorem witness_HbmAccesses :
    let s := slotsOut [5] none []
    let keyEnd := 0x10000000 + rd s E.key_store_gib * 2 ^ 30
    s.hbm.out.length ≤ 32 ∧ hbmTop 1 - 64 + 64 ≤ hbmTop 1 ∧ ¬(hbmTop 1 - 32 + 64 ≤ hbmTop 1) ∧
      (Requester.core 3 ≠ .firmware ∧ Requester.core 3 ≠ .keyStream ∧ keyEnd - 1 < keyEnd ∧ 0x10000000 ≤ keyEnd - 1) ∧
      (0xFFFFFFF < 0x10000000 ∧ Requester.stitchLogic ≠ .firmware) ∧
      (keyEnd % 1024 = 0 ∧ keyEnd + 1024 ≤ hbmTop 1) := by
  decide +kernel

/-- One more uncorrectable event stays below the share, and another does not; the key store is stored once, and the reserved area
twice. -/
theorem witness_HbmAccesses_events :
    let s := slotsOut [5] none []
    let pc := pcOfSlot (slotAt s.hbm.out 0x10000000)
    let full := { s with hbm := { s.hbm with ues := [(pc, List.replicate (rd s E.hbm_ue_threshold - 1) 0)] } }
    storedOnce s 0x10000000 = true ∧ (Tab.get [] s.hbm.ues pc).length + 1 < rd s E.hbm_ue_threshold ∧
      ¬(Tab.get [] full.hbm.ues pc).length + 1 < rd full E.hbm_ue_threshold ∧ storedOnce s 0x9000000 = false ∧
      (Requester.manager = .manager ∧ 0x9000000 + 64 ≤ hbmTop 1) := by
  decide +kernel

/-- Slots whose map-out ends in each report: out already, all 32 out, a partner out, in use, and a start; and the same of
map-in. Pseudo-channel 1 lies in slot 16. -/
theorem witness_BanksMapOut :
    let full := slotsOut ((List.range 32).map (16 * · + 3)) none []
    let one := slotsOut [16] none []
    Serves (slotsOut [16] (some (.mapIn 1)) []) E.hbm_mapout_cmd ∧ (slotsOut [16] (some (.mapIn 1)) []).hbm.op ≠ none ∧
      Serves one E.hbm_mapout_cmd ∧ one.hbm.op = none ∧ 1 % 32 * 16 + 1 / 32 = 16 ∧ 16 ∈ one.hbm.out ∧
      full.hbm.out.length = 32 ∧ 16 ∉ full.hbm.out ∧
      (24 ∉ one.hbm.out ∧ (24 + 504) % 512 ∈ one.hbm.out) ∧
      (0 ∉ one.hbm.out ∧ (0 + 8) % 512 ∉ one.hbm.out ∧ (0 + 504) % 512 ∉ one.hbm.out ∧ allocEnd one ≤ hbmTop 2) ∧
      (let used := wr (wr (wr one E.part_state 1) E.part_hbm_base 0x500000000) E.part_hbm_bytes (hbmTop 1 - 0x500000000)
       hbmTop 2 < allocEnd used) ∧
      Tab.get none one.hbm.tested 1 = none ∧
      Tab.get none (slotsOut [16] none [(1, some (true, []))]).hbm.tested 1 = some (true, []) := by
  unfold Serves; decide +kernel

theorem witness_BanksMapOut_ends :
    let out := slotsOut [8] (some (.mapOut 1)) []
    let back := slotsOut [16] (some (.mapIn 1)) []
    let full := slotsOut ((List.range 32).map (16 * · + 3)) none []
    (out.hbm.op = some (.mapOut 1) ∧ out.hbm.waiting = [] ∧ out.hbm.out.length < 32) ∧
      (back.hbm.op = some (.mapIn 1) ∧ back.hbm.waiting = [] ∧ 16 ∈ back.hbm.out ∧ back.hbm.out.length ≤ 32) ∧
      (full.hbm.op = none ∧ 16 ∉ full.hbm.out ∧ full.hbm.out.length = 32 ∧ 3 ∈ full.hbm.out) ∧
      ((slotsOut [8] none []).hbm.op = none ∧ (16 + 504) % 512 ∈ (slotsOut [8] none []).hbm.out ∧
        rd (wr (slotsOut [8] none []) E.hbm_headroom_pcs 1) E.hbm_headroom_pcs < 1 + 1) := by
  decide +kernel

theorem witness_HbmServices :
    let s := slotsOut [0, 16] none []
    Serves s E.hbm_repair_cmd ∧ s.hbm.op = none ∧ 1 % 32 * 16 + 1 / 32 ∈ s.hbm.out ∧ 1 / 2 * 2 % 32 * 16 ∈ s.hbm.out ∧
      2 % 32 * 16 + 2 / 32 ∉ s.hbm.out ∧ (slotsOut [16] none []).hbm.op = none ∧ 0 ∉ (slotsOut [16] none []).hbm.out ∧
      (Serves (slotsOut [16] (some (.repair 1 1)) []) E.hbm_repair_cmd ∧
        (slotsOut [16] (some (.repair 1 1)) []).hbm.op ≠ none) ∧
      (∀ op ∈ [1, 2, 3, 4], (slotsOut [0, 16] (some (.repair op 1)) [(1, some (false, [7, 8]))]).hbm.op = some (.repair op 1) ∧
        (slotsOut [0, 16] (some (.repair op 1)) [(1, some (false, [7, 8]))]).hbm.waiting = []) ∧
      (let entry := fun (k : Nat) => (10 * rd s E.hbm_throttle_c + 20 * (k - 1) : Int)
       entry 2 ≤ entry 2 ∧ entry 2 - 20 ≤ entry 2 - 20 ∧ entry 2 - 20 < entry 2 - 1) := by
  unfold Serves; decide +kernel

/-- A partition of HBM in mode 0 and in mode 1; an update of each kind. -/
def adder (op addr : Nat) : AddUpdate := ⟨.core 3, addr, op, 0xA5A5, false, List.replicate 64 3, 97, .clean⟩

def shared : State := wr (wr mapped E.part_hbm_base 0x500000000) E.part_hbm_bytes 0x100000000
def orderly : State := wr shared E.det_mode 1

theorem witness_AddersUpdate :
    let allowed := fun (s : State) (u : AddUpdate) =>
      u.addr % 64 = 0 ∧ hbmInside s u.addr 64 = true ∧ hbmAllowed s u.who true u.addr = true ∧
        (hbmStatus s u.addr 64 u.ecc).1 = 0 ∧ inFilter s u.addr u.who = false
    shared.hbm.out.length ≤ 32 ∧ (∀ op ∈ [1, 2, 7], allowed shared (adder op 0x500000000)) ∧
      ¬(adder 1 0x500000020).addr % 64 = 0 ∧
      (allowed orderly (adder 3 0x500000000) ∧ sharePartition orderly 0x500000000 = some 0 ∧ rd orderly E.det_mode = 1 ∧
        heldAt orderly (stackAt orderly 0x500000000) < 8192) ∧
      Serves orderly E.ord_flush := by
  unfold Serves; decide +kernel

/-- An update of a granule that holds a poisoned word. -/
theorem witness_AddersUpdate_poisoned :
    let s := { shared with poison := [(0x500000000, true)] }
    let u := adder 1 0x500000000
    (1 ≤ u.op ∧ u.op ≤ 7 ∧ u.op < 3) ∧ s.hbm.out.length ≤ 32 ∧ u.addr % 64 = 0 ∧ hbmInside s u.addr 64 = true ∧
      hbmAllowed s u.who true u.addr = true ∧ inFilter s u.addr u.who = false ∧ (hbmStatus s u.addr 64 u.ecc).1 ≠ 0 := by
  decide +kernel

/-- Core 3 is bound to an open group whose filter names the mapped page. -/
def filtered : State :=
  setCore { shared with
            groups := [{ opener := none, id := 1, part := 0, fabric := false, step := 0, state := 1, status := 0, cause := 0
                         binds := [⟨3, 0x60000, 0x10000, 0⟩], granules := [], acked := [], awaited := [], waiter := none
                         unacked := 0 }] }
    3 { Core.init with bound := some 1 }

theorem witness_AddersUpdate_filter :
    let u := adder 1 0x500000000
    filtered.hbm.out.length ≤ 32 ∧ u.addr % 64 = 0 ∧ hbmInside filtered u.addr 64 = true ∧
      hbmAllowed filtered u.who true u.addr = true ∧ (hbmStatus filtered u.addr 64 u.ecc).1 = 0 ∧
      inFilter filtered u.addr u.who = true := by
  decide +kernel

end Tests
end

