-- ==== Sys2Proof/Tests/Messages.lean ====
section
/-! SUPPORT. States in which the hypotheses of the statements about messages between nodes and about steps hold together. -/

open Sys2Proof (Instr Byte Path Opnd XIns AIns CIns Eng Ecc Msg)

open Sys2Proof.Machine

namespace Tests

set_option Elab.async false

/-- A request to window 7 from node 12. -/
def request7 (offset : Nat) (payload : List Byte) : Msg :=
  { dst := 9, src := 12, flow := 5, tseq := 77, ordered := false, window := 7, epoch := 1, offset := offset, group := 0
    inGroup := false, arg := 8, payload := payload }

def bytesOf64 (n : Nat) : List Byte := (List.range n).map (BitVec.ofNat 8)

/-- Which of the conditions of R599 a request of type `ty` meets: scrubbed, shut, stale, barred, outside, without credit, in a
group that takes no more, in a new group with no record left. -/
def arrival (s : State) (ty : Nat) (m : Msg) : List Bool :=
  let w := m.window
  let st := winState s w
  let hbm := winTarget s w == 2
  let bytes := if ty = 1 then m.payload.length else if ty = 2 then 8 * m.arg else 64
  let grouped := m.inGroup && (ty == 1 || ty == 3)
  [(winPartition s w).any (scrubbing s), st == 0 || st == 3 || (st == 2 && hbm), ty != 5 && m.epoch != winEpoch s w,
    (!bit (winWord s w 0) 51 && m.src != bits (winWord s w 1) 63 48) || (ty == 1 && !bit (winWord s w 0) 54) ||
      (ty == 2 && !bit (winWord s w 0) 53) || (ty == 3 && !bit (winWord s w 0) 52),
    decide (ty ≤ 3) && (decide (bytes < 8 ∨ 3840 < bytes ∨ bytes % 8 ≠ 0 ∨ winLength s w < m.offset + bytes ∨
      256 * winFrontier s w < m.offset + bytes) || !rangeOpen s w m.offset bytes || (ty == 3 && m.offset % 64 != 0)),
    !hbm && ((st == 2 && ty != 1) || (ty == 1 && decide (creditLeft s w < (m.offset % 256 + m.payload.length + 255) / 256))),
    grouped && (namedGroup s m).any (·.state != 1), grouped && (namedGroup s m).isNone && decide (4096 ≤ s.groups.length)]

theorem fresh (s : State) (m : Msg) (h : takesMessages s m = true) (hk : keptAnswer s m = none) (ho : m.ordered = false) :
    Fresh s m := ⟨h, hk, .inl ho⟩

def openCore : State := opened coreImage
def openHbm : State := opened hbmImage
def group12 (state : Nat) : Group := ⟨some 12, 5, 0, false, 0, state, 0, 0, [], [], [], [], none, 0⟩
def inGroup5 (m : Msg) : Msg := { m with group := 5, inGroup := true }

/-- The conditions of R599 one after the other: a request that meets none of those before it. -/
theorem witness_WindowMessages_checks :
    let m := request7 0 (bytesOf64 64)
    let none7 := { m with window := 8 }
    let scrubs := wr openCore E.part_state 2
    let spent := setWin openCore 7 { win openCore 7 with consumed := 512 }
    let f := false
    (arrival scrubs 1 m).head? = some true ∧
      (arrival openCore 1 none7).take 2 = [f, true] ∧
      (arrival openCore 1 { m with epoch := 2 }).take 3 = [f, f, true] ∧
      (arrival openCore 1 { m with src := 13 }).take 4 = [f, f, f, true] ∧
      (arrival openCore 1 (request7 0x20000 (bytesOf64 8))).take 5 = [f, f, f, f, true] ∧
      (arrival openCore 1 (request7 0x1FFF8 (bytesOf64 8))).take 5 = [f, f, f, f, f] ∧
      (arrival spent 1 m).take 6 = [f, f, f, f, f, true] ∧
      (arrival { openHbm with groups := [group12 4] } 1 (inGroup5 m)).take 7 = [f, f, f, f, f, f, true] ∧
      (arrival { openHbm with groups := [group12 1] } 3 (inGroup5 m)).take 7 = [f, f, f, f, f, f, f] ∧
      (arrival openHbm 3 m).take 7 = [f, f, f, f, f, f, f] ∧ (m.payload.getD 74 0).toNat = 0 ∧
      (∀ s ∈ [openCore, openHbm, spent, scrubs], takesMessages s m = true ∧ keptAnswer s m = none ∧
        rd s E.out_of_service ≠ 1) ∧ m.ordered = false := by
  decide +kernel

theorem witness_WindowMessages_full :
    let s := { openHbm with groups := List.replicate 4096 { group12 1 with id := 9 } }
    let m := inGroup5 (request7 0 (bytesOf64 64))
    m.inGroup = true ∧ namedGroup s m = none ∧ 4096 ≤ s.groups.length := by
  refine ⟨rfl, ?_, List.length_replicate.ge⟩
  exact List.find?_eq_none.2 fun g hg => by rw [List.eq_of_mem_replicate hg]; decide

/-- A request for a sector that sleeps. -/
theorem witness_WindowMessages_asleep :
    let m := request7 (65536 - 64) (bytesOf64 64)
    let s := wr openCore (E.domain_state + winSector openCore 7) 3
    takesMessages s m = true ∧ keptAnswer s m = none ∧ m.ordered = false ∧ arrivalCheck s 1 m = 0 ∧ winTarget s 7 ≠ 2 ∧
      s.power.entry = none ∧ s.power.deep = 0 ∧ domainState s (winSector s 7) = 3 ∧ s.arrivals = [] := by
  decide +kernel

/-- A message for another node, a repeat, and one ahead of its order. -/
theorem witness_WindowMessages_order :
    let m := request7 0 (bytesOf64 64)
    let kept := { openCore with transport := { openCore.transport with kept := [⟨12, 5, 77, 0x10, m, now openCore⟩] } }
    let next := { openCore with transport := { openCore.transport with next := [(flowKey m, some 77)] } }
    let early := { m with ordered := true, tseq := 79 }
    takesMessages openCore { m with dst := 8 } = false ∧ takesMessages kept m = true ∧
      (keptAnswer kept m).isSome = true ∧
      (takesMessages next early = true ∧ keptAnswer next early = none ∧ Tab.get none next.transport.next (flowKey early) = some 77 ∧
        (79 + 65536 - 77) % 65536 < 32768 ∧ next.transport.early = []) ∧
      (early.tseq ≠ 77 ∧ Tab.get none next.transport.next (flowKey { m with ordered := true }) = some m.tseq) := by
  decide +kernel

/-- An `ADD` of 32-bit elements, and of 64-bit ones. -/
def addPayload (op : Nat) : List Byte := bytesOf64 64 ++ leBytes 8 0 ++ leBytes 2 0xABCD ++ leBytes 1 op ++ leBytes 5 1

theorem witness_WindowMessages_land :
    let m := request7 0 (bytesOf64 64)
    let add := fun (op : Nat) => request7 64 (addPayload op)
    let h : Handle := { Handle.init with state := 2, node := 12, window := 7, epoch := 1, granted := 9, sent := 4 }
    let holds := { openCore with handles := [(4, h)] }
    (arrivalCheck openHbm 1 m = 0 ∧ winTarget openHbm 7 = 2 ∧ 2 ^ 26 ≤ winBase openHbm 7 + 0 ∧ winBase openHbm 7 + 0 < 2 ^ 37 ∧
      arrivalCheck openHbm 1 (inGroup5 m) = 0 ∧ arrivalCheck openHbm 2 m = 0 ∧ arrivalCheck openHbm 4 m = 0 ∧
      arrivalCheck openHbm 5 m = 0) ∧
    (∀ op ∈ [1, 2], arrivalCheck openHbm 3 (add op) = 0 ∧ leNat (((add op).payload.drop 74).take 1) = op ∧
      (hbmStatus openHbm (winKey openHbm 7 64) 64 .clean).1 = 0) ∧
    (arrivalCheck openCore 1 (request7 (65536 - 64) (bytesOf64 64)) = 0 ∧ winTarget openCore 7 < 2 ∧
      openCore.power.entry = none ∧ domainState openCore (winSector openCore 7) < 2 ∧
      (65536 - 64) % blockSize (winTarget openCore 7) + 64 = blockSize (winTarget openCore 7)) ∧
    (takesMessages holds m = true ∧ keptAnswer holds m = none ∧ Tab.wf (fun _ => Handle.init) holds.handles = true ∧
      h.state = 2 ∧ h.node = m.src ∧ h.window = m.window ∧ h.epoch = m.epoch) := by
  decide +kernel

/-! ## Answers -/

def answer (flow tseq : Nat) (payload : List Byte) : Msg :=
  { dst := 9, src := 12, flow := flow, tseq := tseq, ordered := false, window := 7, epoch := 4, offset := 0, group := 0
    inGroup := false, arg := 0, payload := payload }

def statusBytes (c : Nat) : List Byte := leBytes 2 c ++ List.replicate 6 0

def sending : Xfer := ⟨8, .stt, 10, 59, 1, 0, 2, 9, true, 0, 0, 0, 0, 4096, 4096, [], 0, none, 0, false, 0⟩

/-- Handle 6, with one request; ring 3 of sector 2 holds the `WBIND` that it answers. -/
def asking (state : Nat) (r : Request) : State :=
  setHandle (ringNext (setCore windowed 3 { Core.init with cmAttr := 0xF0, xfers := [{ sending with remote := 2 }] })
    { windowRecord 0x52 6 [] with started := true }) 6
    { Handle.init with state := state, part := 0, node := 12, window := 7, epoch := 4, granted := 7, out := [r] }

def sent7 : Request := ⟨77, 1, 0, 0, [1, 2], none, 0, .xfer 3 8 (6 * 2 ^ 37 + 5) (some 0x60000)⟩
def read7 : Request := ⟨77, 2, 0, 0, [], none, 3, .xfer 3 8 (Mem.tile 3 10 5) (some 0x60000)⟩
def bind7 : Request := ⟨77, 5, 0, 0, [], none, 0, .bind 2 3⟩
def other7 : Request := ⟨77, 1, 0, 0, [1, 2], none, 0, .other⟩

def plainHandle (s : State) : Bool :=
  (handle s 6).held.isEmpty && (handle s 6).unbinding.isNone && s.groups.isEmpty &&
    s.sectors.all fun e => e.2.rings.all fun r => r.2.queue.all fun v => !v.started || v.op != 0x42

theorem noCommits_of (s : State) (h : s.groups.isEmpty = true ∧ (s.sectors.all fun e => e.2.rings.all fun r =>
    r.2.queue.all fun v => !v.started || v.op != 0x42) = true) : NoCommits s := by
  refine ⟨List.isEmpty_iff.1 h.1, fun e he r hr v hv hs => ?_⟩
  have h1 := List.all_eq_true.1 (List.all_eq_true.1 (List.all_eq_true.1 h.2 e he) r hr) v hv
  simpa [hs] using h1

theorem witness_WindowMessages_plain :
    (handle (asking 2 sent7) 6).held = [] ∧ (handle (asking 2 sent7) 6).unbinding = none ∧ NoCommits (asking 2 sent7) :=
  ⟨by decide +kernel, by decide +kernel, noCommits_of _ (by decide +kernel)⟩

theorem witness_WindowMessages_answers :
    let m := answer 6 77 (statusBytes 0 ++ bytesOf64 8)
    (∀ r ∈ [sent7, read7, bind7, other7], ∀ st ∈ [1, 2], takesMessages (asking st r) m = true ∧ (handle (asking st r) 6).node = m.src ∧
      (handle (asking st r) 6).out.find? (·.tseq == m.tseq) = some r ∧ r.group = none ∧ plainHandle (asking st r) = true ∧
      ((core (asking st r) 3).xfer 8).isSome = true) ∧
    takesMessages (asking 2 sent7) { m with dst := 13 } = false ∧
    ((handle (asking 2 sent7) 6).node ≠ 13 ∧ 6 ≠ deviceFlow) ∧
    (isOutbound (Mem.tile 3 10 5) = false ∧ m.payload.length = 16 ∧ leNat ((statusBytes 0x0401).take 2) = 0x0401) ∧
    ((handle (asking 2 sent7) 6).state = 2 ∧ (handle (asking 2 sent7) 6).window = m.window ∧ sent7.mtype ≠ 5) ∧
    ((handle (asking 1 bind7) 6).state = 1 ∧ (handle (asking 1 bind7) 6).out = [bind7] ∧ bind7.mtype = 5) ∧
    (rd (asking 2 sent7) E.transport_retries = 3 ∧ sent7.resends < 3 ∧ 3 ≤ read7.resends ∧
      transmits (asking 2 sent7) = true ∧ reachable (asking 2 sent7) 12 = true) ∧
    (let s := closed openCore
     ∃ q ∈ s.transport.notices, s.transport.notices = [q] ∧ q.msg.dst = 12 ∧ q.mtype = 6 ∧ winState s q.msg.window = 2 ∧
       winEpoch s q.msg.window = q.msg.epoch) := by
  decide +kernel

/-! ## Groups that span devices -/

def spanning (state : Nat) (status : Nat) : Group := ⟨some 12, 5, 0, true, 9, state, status, 0, [], [], [], [], none, 0⟩
def opener (awaited : List Nat) : Group := ⟨none, 5, 0, true, 9, 2, 0, 0, [], [], [], awaited, none, 0⟩
def verdict (v : Nat) : List Byte := leBytes 2 5 ++ leBytes 1 v ++ List.replicate 5 0 ++ leBytes 8 9

def preparing (awaited : List Nat) : State :=
  { windowed with
    groups := [opener awaited]
    transport := { windowed.transport with notices := [⟨77, 0x20, { answer 0x1000 77 (verdict 0) with dst := 12, src := 9 }, 0⟩] } }

theorem witness_StitchMessagesDecide :
    let m := fun (v : Nat) => answer 5 77 (verdict v)
    let s := fun (g : Group) => { windowed with groups := [g] }
    (takesMessages windowed (m 0) = true ∧ keptAnswer windowed (m 0) = none ∧ (m 0).ordered = false ∧
      findGroup windowed (some 12) 5 = none ∧ windowed.transport.notices = [] ∧ windowed.step.boundary = false) ∧
    (∀ st ∈ [1, 3], findGroup (s (spanning st 0)) (some 12) 5 = some (spanning st 0)) ∧
    (findGroup (s (spanning 1 0x0502)) (some 12) 5 = some (spanning 1 0x0502) ∧
      findGroup (s (spanning 4 0)) (some 12) 5 = some (spanning 4 0)) ∧
    leNat (((m 1).payload.drop 2).take 1) = 1 ∧
    (({ windowed with commitLog := [⟨none, 5, 9, true, 0⟩] } : State).commitLog.find?
      fun d => d.opener.isNone && d.id == 5 && d.step == 9) = some ⟨none, 5, 9, true, 0⟩ ∧
    (∀ l ∈ [[12], [12, 14]], let p := preparing l
      takesMessages p (answer 0x1000 77 (verdict 0)) = true ∧ 0x1000 = deviceFlow ∧
        p.transport.notices.map Notice.tseq = [77] ∧ findGroup p none 5 = some (opener l) ∧ (opener l).state = 2 ∧
        (opener l).status = 0 ∧ 12 ∈ (opener l).awaited ∧ p.step.boundary = false) := by
  decide +kernel

/-! ## Steps -/

/-- Step 5 of a node with child 12 and parent 14. -/
def stepping (f : StepSt → StepSt) (root : Nat) : State :=
  let s := wr (wr (wr (wr (wr windowed E.step_counter 5) E.step_child_count 1) E.step_children 12) E.step_parent 14) E.step_is_root root
  { s with step := f s.step }

def notice (src step kind : Nat) : Msg :=
  { answer 0x1000 77 (leBytes 8 step ++ leBytes 1 kind ++ List.replicate 7 0) with src := src }

def dueStep (s : State) (c : Nat) : Bool :=
  !s.step.failed && !s.step.reported && !s.step.quiescent && !s.step.arrived.contains c && (stepChildren s).contains c && !reachable s c

theorem witness_StepsAdvance :
    let id' := fun (x : StepSt) => x
    let quiet := fun (x : StepSt) => { x with quiescent := true }
    let cinch := fun (x : StepSt) => { x with quiescent := true, cinch := true }
    let failed := fun (x : StepSt) => { x with failed := true }
    let s := stepping id' 0
    let v := windowRecord 0x54 0 [0, 5]
    let waits := fun (s : State) => s.step.quiescent = true ∧ s.step.boundary = false ∧ s.step.failed = false
    let alone := fun (s : State) => s.groups = [] ∧ rd s E.twin_role = 0 ∧ s.twin.handOver = false ∧ s.det.held = []
    (nextOp (ringNext s v) 2 3 0x54 = some v ∧ v.checks = true ∧ v.word 2 = rd (ringNext s v) E.step_counter ∧
      v.completion = 0 ∧ (windowRecord 0x54 0 [0, 6]).word 2 ≠ 5 ∧
      (let b := { v with record := v.record.set 9 9 }; nextOp (ringNext s b) 2 3 0x54 = some b ∧ b.checks = false)) ∧
    (takesMessages s (notice 12 5 0) = true ∧ keptAnswer s (notice 12 5 0) = none ∧ (notice 12 5 0).ordered = false ∧
      12 ∈ stepChildren s ∧ leNat ((notice 12 5 0).payload.take 8) = rd s E.step_counter ∧
      leNat ((notice 12 6 0).payload.take 8) ≠ rd s E.step_counter) ∧
    (takesMessages s (notice 14 5 1) = true ∧ 14 = rd s E.step_parent ∧ rd s E.step_is_root ≠ 1 ∧ s.step.failed = false ∧
      s.step.quiescent = false ∧ leNat (((notice 14 5 1).payload.drop 8).take 1) = 1) ∧
    (rd (stepping id' 1) E.step_is_root = 1 ∧ (stepping id' 1).step.reported = false) ∧
    (waits (stepping quiet 0) ∧ (stepping quiet 0).step.cinch = false ∧ alone (stepping quiet 0)) ∧
    (waits (stepping cinch 0) ∧ (stepping cinch 0).step.cinch = true ∧ alone (stepping cinch 0)) ∧
    (¬waits s ∧ windowsWhere (opened hbmImage) (· == 1) = [7]) ∧
    (dueStep { s with routes := [] } 12 = true ∧ dueStep { stepping id' 1 with routes := [] } 12 = true ∧ dueStep s 12 = false) ∧
    (Serves s E.step_resume ∧ (stepping failed 0).step.failed = true ∧ Serves (stepping failed 0) E.step_resume) := by
  unfold Serves; decide +kernel

end Tests
end

