-- ==== Sys2Proof/Tests/Module.lean ====
section
/-! SUPPORT. States in which the hypotheses of the statements about the module, its pins and its clocks hold together. -/

open Sys2Proof (Instr Byte Path Opnd XIns AIns CIns Eng Ecc Msg)

open Sys2Proof.Machine

namespace Tests

set_option Elab.async false

def image (n : Nat) : SaveImage := { SaveImage.empty with seq := n }

def saving (a b : Option SaveImage) : State :=
  { mapped with save := { mapped.save with running := true, slotA := a, slotB := b, frozen := image 5 } }

def heldBy (h : Hold) (hot : Bool) : State :=
  { mapped with supply := { mapped.supply with hold := h, mainOn := false, hot := hot } }

/-- The same after `MRST_N` has reset the module while the hold stands. -/
def restarted (h : Hold) : State := { heldBy h false with supply := { (heldBy h false).supply with mrstDone := true } }

/-- The thresholds are met by their own values; both orders of the save slots, one slot and none. -/
theorem witness_SuppliesChange :
    let off := wr mapped E.sag_input_enable 0
    let deep := { mapped with power := { mapped.power with deep := 4 } }
    (58000 < 58001 ∧ 13500 < 13501 ∧ 39499 < 39500 ∧ 10599 < 10600 ∧ 8999 < 9000) ∧
      (39900 ≤ 39900 ∧ 10800 ≤ 10800 ∧ 58000 ≤ 58000 ∧ 13500 ≤ 13500) ∧
      (mapped.power.deep ≠ 4 ∧ mapped.supply.aonHeld = false ∧ mapped.save.running = false ∧ mapped.supply.mainOn = true) ∧
      rd mapped E.sag_input_enable = 1 ∧
      (rd off E.sag_input_enable ≠ 1 ∧ deep.power.deep = 4) ∧
      (∀ e ∈ [(some (image 3), some (image 4)), (some (image 4), some (image 3)), (some (image 4), none), (none, none)],
        (saving e.1 e.2).save.running = true ∧ (saving e.1 e.2).supply.mrstWaits = false ∧ (saving e.1 e.2).save.slotA = e.1 ∧
          (saving e.1 e.2).save.slotB = e.2) := by
  decide +kernel

/-- Every condition of the main stage holds at the edges of its ranges, and one of them fails. -/
theorem witness_SuppliesChange_main :
    let s := heldBy .none false
    (∀ e ∈ [(40000, 11400), (56000, 12600)], 40000 ≤ e.1 ∧ e.1 ≤ 56000 ∧ 11400 ≤ e.2 ∧ e.2 ≤ 12600) ∧
      s.supply.romOk = true ∧ s.pins.mrstHigh = true ∧ s.pins.coolOk = true ∧ s.supply.hold = .none ∧ s.supply.hot = false ∧
      s.power.deep ≠ 4 ∧ s.supply.aonHeld = false ∧ s.save.running = false ∧ s.supply.mainOn = false ∧
      s.recovery.deferred = none ∧ (heldBy .sag false).supply.hold ≠ .none := by
  decide +kernel

/-- The conditions of both holds at the edges of their ranges, after `MRST_N`. -/
theorem witness_SuppliesChange_restarted :
    let volt := restarted .overvoltage
    let sag := restarted .sag
    (∀ s ∈ [volt, sag], s.supply.mrstDone = true ∧ s.supply.romOk = true ∧ s.pins.mrstHigh = true ∧ s.pins.coolOk = true ∧
      s.supply.hot = false ∧ s.power.deep ≠ 4 ∧ s.supply.aonHeld = false ∧ s.save.running = false ∧ s.supply.mainOn = false ∧
      s.recovery.deferred = none) ∧
      (volt.supply.hold = .overvoltage ∧ 40000 ≤ 40000 ∧ 56000 ≤ 56000) ∧ (sag.supply.hold = .sag ∧ 42000 < 42001 ∧ 11400 ≤ 11400) := by
  decide +kernel

theorem witness_ModuleProtects :
    let low := { mapped with supply := { mapped.supply with coolLow := true } }
    let present := { mapped with pins := { mapped.pins with presLow := 0x200000001 } }
    low.supply.coolLow = true ∧ mapped.supply.coolLow = false ∧ mapped.supply.mainOn = true ∧
      mapped.supply.mrstWaits = false ∧ mapped.save.running = false ∧
      bit present.pins.presLow.toNat 33 = true ∧ bit present.pins.presLow.toNat 32 = false ∧
      ¬(boundaryWaits mapped = true ∧ mapped.step.cinch = true) := by
  decide +kernel

/-- A sector that slept for the whole millisecond, with the main stage on and off, and one that did not. -/
theorem witness_ModuleProtects_rates :
    let slept := setSector (wr mapped (E.domain_state + 2) 3) 2 { sector mapped 2 with slept := true }
    let off := { slept with supply := { slept.supply with mainOn := false } }
    (sector slept 2).slept = true ∧ 2 ≤ domainState slept 2 ∧ slept.supply.mainOn = true ∧ (sector off 2).slept = true ∧
      off.supply.mainOn = false ∧ (sector slept 3).slept = false ∧ mapped.supply.hot = false ∧
      (42000 < 42001 ∧ 11200 < 11201 ∧ 42000 ≤ 42000 ∧ 11200 ≤ 11200) := by
  decide +kernel

theorem witness_PinsReset_restarted :
    (restarted .overvoltage).supply.mrstDone = true ∧ (restarted .overvoltage).supply.hold = .overvoltage ∧
      (restarted .sag).supply.mrstDone = true ∧ (restarted .sag).supply.hold = .sag ∧ (restarted .sag).supply.aonHeld = false ∧
      (restarted .sag).save.running = false ∧ (heldBy .sag false).supply.mrstDone = false := by
  decide +kernel

theorem witness_PinsReset :
    let s := heldBy .auxOvervoltage false
    (s.supply.hold = .auxOvervoltage ∧ s.save.running = false) ∧
      (∀ h ∈ [Hold.overvoltage, .sag], (heldBy h false).supply.aonHeld = false ∧ (heldBy h false).save.running = false ∧
        (heldBy h false).supply.hold = h) ∧
      (mapped.supply.aonHeld = false ∧ mapped.save.running = false ∧ mapped.supply.hold = .none) ∧
      ((heldBy .trip false).supply.hold = .trip ∧ (heldBy .trip false).supply.hot = false ∧
        (heldBy .trip false).pins.coolOk = true) ∧
      ((heldBy .trip true).supply.hot = true ∧ (heldBy .trip true).supply.aonHeld = false) ∧
      ((saving none none).save.running = true ∧ (saving none none).supply.aonHeld = false) := by
  decide +kernel

/-- Trimming off and on, with the slack at its target and on either side; a source written, a change of level with and without
another granted meanwhile. -/
theorem witness_DomainsTrim :
    let target := 100 * rd mapped E.canary_target_slack_pct
    let ramping := fun (l : Nat) => setSector mapped 2 { sector mapped 2 with ramp := some l }
    rd (wr mapped E.canary_trim_enable 0) E.canary_trim_enable = 0 ∧ rd mapped E.canary_trim_enable ≠ 0 ∧
      target < target + 1 ∧ target - 1 < target ∧ Serves mapped E.timeref_source ∧
      bit (rd (wr mapped E.timeref_status 3) E.timeref_status) 1 = true ∧
      bit (rd (wr mapped (E.sector_pacing + 2) 1) (E.sector_pacing + 2)) 0 = true ∧
      mapped.supply.mainOn = true ∧ State.reset.supply.mainOn = false ∧ domainState mapped 2 ≠ 3 ∧ domainState mapped 2 ≠ 4 ∧
      domainState (wr mapped (E.domain_state + 2) 3) 2 = 3 ∧
      (sector (ramping 9) 2).ramp = some 9 ∧ rd (ramping 9) (E.sector_level + 2) ≠ 9 ∧
      (sector (ramping (rd mapped (E.sector_level + 2))) 2).ramp = some (rd mapped (E.sector_level + 2)) ∧
      (sector mapped 2).ramp = none := by
  unfold Serves; decide +kernel

end Tests
end

