-- ==== Sys2Proof/Tests/Recovery.lean ====
section
/-! SUPPORT. States in which the hypotheses of the statements about resets, hangs, spare parts and noise replay hold together, and
those of the statements about the whole block. -/

open Sys2Proof (Instr Byte Path Opnd XIns AIns CIns Eng Ecc Msg)

open Sys2Proof.Machine

namespace Tests

set_option Elab.async false

theorem witness_ResetsRun :
    let idle := wr windowed E.part_state 0
    let testing := { idle with recovery := { idle.recovery with fullTest := some 2 } }
    let may := fun (s : State) => (∀ p < 32, rd s (E.part_state + 256 * p) = 0) ∧ (rd s E.twin_role = 0 ∨ rd s E.twin_role = 3)
    Serves windowed E.reset_cmd ∧ Serves windowed E.oos_reinstate ∧ Serves idle E.full_test_cmd ∧
      authentic windowed .bar0 = false ∧ authentic windowed .island = true ∧
      may idle ∧ may (wr idle E.twin_role 3) ∧ ¬may windowed ∧ ¬may (wr idle E.twin_role 1) ∧
      windowed.recovery.fullTest = none ∧ testing.recovery.fullTest ≠ none := by
  unfold Serves; decide +kernel

def crashed (l : List Crash) (hangs : List Nat) : State :=
  { windowed with recovery := { windowed.recovery with crashes := l, sectorHangs := [(3, hangs)] } }

/-- Domains ON and not, with and without two hangs before; each kind of block; a crash of a sector's reset and of the device's, the
last and not; and the offsets of the boot log at both ends. -/
theorem witness_HangsCollect :
    let port := fun (n : Nat) => wr windowed (E.port_state + 33) (n * 2 ^ 28)
    let asleep := inState [(3, 4)] windowed
    let c : Crash := ⟨0x103, some 3, false, 5, 0x11⟩
    let d : Crash := ⟨1, none, false, 5, 5⟩
    let log := wr windowed E.crash_read_slot 0x20
    (domainOn asleep 3 = false ∧ domainOn windowed 31 = true ∧ within (crashed [] [0, 0]) (Tab.get [] (crashed [] [0, 0]).recovery.sectorHangs 3) = 2 ∧
      windowed.recovery.crashes = []) ∧
      (∀ b ∈ [0x103, 0x51F, 0x805F, 0x8060, 0x807B], blockExists b = (b != 0x805F) ∧ blockSector b ≠ none) ∧
      (∀ b ∈ [1, 8, 0x600, 0x60F, 0x833], blockExists b = true ∧ blockSector b = none ∧ b / 256 ≠ 7) ∧
      (blockExists 0x721 = true ∧ blockSector 0x721 = none ∧ portCode (port 1) 33 < 2 ∧ 2 ≤ portCode (port 2) 33) ∧
      (∀ r ∈ [[], [d]], (crashed (c :: r) []).recovery.crashes = c :: r ∧ c.sector = some 3 ∧ c.kind = 0x11) ∧
      ((crashed [d] []).recovery.crashes = [d] ∧ d.sector = none ∧ d.kind < 256) ∧
      Serves windowed E.crash_read_offset ∧
      (∀ v ∈ [0, 2097152 - 256], v % 256 = 0 ∧ v < 2097152 ∧ rd windowed E.crash_read_slot ≤ 16) ∧
      rd log E.crash_read_slot = 0x20 ∧ ¬(4194304 < 4194304) ∧ 1 % 256 ≠ 0 := by
  unfold Serves; decide +kernel

def swapping (k : Option (Nat × Nat × Option Nat)) (s : State) : State := { s with recovery := { s.recovery with keeper := k } }

def meshed (f : Recovery → Recovery) (out threshold : Nat) : State :=
  let s := wr (wr windowed E.mesh_detoured out) E.mesh_detour_threshold threshold
  { s with recovery := f s.recovery }

theorem witness_KeepersAndHistory_keepers :
    let running := setCore windowed 3 { Core.init with running := true }
    let spent := writeSlots windowed 31 (List.range 25) [25, 26, 27]
    let swapped := swapping (some (0, 3, some 3)) (writeSlots windowed 0 ((List.range 25).set 3 25) [])
    let clean := fun (s : State) (x : Nat) => ((List.range 25).map (slotOf s x)).Nodup ∧ ∀ p < 25, slotOf s x p < 28
    Serves windowed E.keeper_cmd ∧ authentic windowed .bar0 = false ∧ authentic windowed .island = true ∧
      coreSwapRefused running 3 = true ∧ (coreSwapRefused windowed 799 = false ∧ freeKeeper windowed 31 = some 25) ∧
      (coreSwapRefused spent 799 = false ∧ freeKeeper spent 31 = none) ∧
      (28 ≤ 28 ∧ ∃ p < 25, slotOf windowed 31 p = 24) ∧ (¬∃ p < 25, slotOf windowed 31 p = 27) ∧
      (swapped.recovery.keeper = some (0, 3, some 3) ∧ clean swapped 0 ∧ (∀ p < 25, slotOf swapped 0 p ≠ 3) ∧ slotOf swapped 0 3 = 25) ∧
      windowed.recovery.keeper = none := by
  unfold Serves; decide +kernel

theorem witness_KeepersAndHistory_links :
    let crosses := fun (s : State) (k : Nat) => ∃ j ∈ detourPath k, bit (rd s E.mesh_detoured) j = true
    let repeated := meshed (fun r => { r with meshRepeats := [(51, [0, 0, 0])] }) 0 4
    Serves windowed E.mesh_link_cmd ∧
      (∃ j ∈ detourPath 0, crosses (meshed id (2 ^ j) 4) 0) ∧ ¬crosses windowed 51 ∧
      (bit (rd (meshed id (2 ^ 51) 4) E.mesh_detoured) 51 = true ∧ ¬bit (rd windowed E.mesh_detoured) 51 = true) ∧
      (((Tab.get [] repeated.recovery.meshRepeats 51).filter fun u => decide (now repeated < u + 25000000)).length + 1 =
        rd repeated E.mesh_detour_threshold ∧ ¬crosses repeated 51 ∧ rd (meshed id 0 5) E.mesh_detour_threshold = 5) ∧
      windowed.recovery.meshTest = none ∧ (meshed (fun r => { r with meshTest := some 51 }) 0 4).recovery.meshTest ≠ none := by
  unfold Serves; decide +kernel

theorem witness_KeepersAndHistory_replay :
    let keyed := wr windowed E.nr_auditor_key 5
    let running := setCore keyed 3 { Core.init with running := true }
    Serves windowed E.nr_cmd ∧ Serves windowed E.hist_cmd ∧ authentic windowed .bar0 = false ∧ authentic windowed .island = true ∧
      rd windowed E.nr_auditor_key = 0 ∧ (rd keyed E.nr_auditor_key ≠ 0 ∧ partRuns keyed 0 = false ∧ keyed.island.trngFailing = false ∧
        rd keyed E.trng_state ≠ 2) ∧
      partRuns running 0 = true ∧ rd (wr keyed E.trng_state 2) E.trng_state = 2 := by
  unfold Serves; decide +kernel

/-- A queue whose commands all name units that exist; a command that does not; and a machine in canonical form that lists bytes,
marks and entries, whose step answers. -/
theorem witness_whole_block :
    let q := [Instr.sagInput, .pacerLock 31, .setlc 799 ⟨0, 1, 2, 3⟩]
    let s := { put windowed 0x500000100 [1, 0, 2] with pending := q, poison := [(0x500000120, true)] }
    q.all Instr.wellFormed = true ∧ (Instr.setlc 800 ⟨0, 0, 0, 0⟩).wellFormed = false ∧ s.queueOk = true ∧ s.canonical = true ∧
      Memory.wf s.mem = true ∧ (s.mem ≠ [] ∧ s.dict ≠ []) ∧
      (match step s with | .next t => t.pending == q.tail | _ => false) = true ∧ windowed.pending = [] := by
  decide +kernel

end Tests
end

