-- ==== Sys2Proof/Tests/Slice0.lean ====
section
/-! SUPPORT. A command of each kind that names no unit of the part, and the specification's worked examples. The expected numbers
are those of the examples in spec/, or are worked out by hand from the rule that the test names. -/

open Sys2Proof (Instr Byte Path Opnd XIns AIns CIns Eng Ecc Msg RemoteWr SleepAns WakeKind Heartbeat HelloMsg Packet)

open Sys2Proof.Machine

namespace Tests

set_option Elab.async false

/-! ## Commands that name no unit (each check of `Instr.wellFormed`) -/

def noCtl : CIns := ⟨0, 0, 0, 0⟩

/-- The first number beyond the range of each kind of unit is refused. -/
theorem test_missing_units :
    [Instr.setlc 800 noCtl, .levelRampEnd 32, .dictWrite .bar0 65536 0 [], .dictWrite .bar0 0 256 [],
      .dictRequest .island false 256 0 0 1 [], .dictWindowGo 0 0 4 1 [], .dictWindowGo 0 0 1 512 [], .thermalTrip 162 0,
      .trainingTimeout 34, .canaryAlarm 41 0, .hbmForcedMapout 512, .hbmThermalTick 16 0, .ringSlotTake 32 0, .ringSlotTake 0 8,
      .ringFillDone 64, .laneFail 33 9, .helloTimer 32, .scrubEnd 32 0, .routeAdvertisement 32 0 [], .routeAdvertisement 0 65536 [],
      .windowQuietExpiry 1048576, .twinHeartbeatSend 31, .bar2Access false 0xFFFFFFF 2 [], .ringWindowWrite 0x800000 [],
      .ringWindowWrite 0x3FFFC [0, 0, 0, 0, 0], .msixHoldoffExpiry 64, .domainWakeDone 40 0, .keeperSwap .island 1024, .meshLinkTest .island 64,
      .hangDeclared 3, .hangDeclared 0x120, .stallDetected 0, .stallDetected 0x722, .stallDetected 0x801C, .keeperSelftest .island 0 32,
      .keeperSelftestDone 0 28 true, .meshLinkRepeat 52].all (fun i => !i.wellFormed) = true := by
  decide +kernel

def toTarget (sector target : Nat) : RemoteWr := ⟨0, 9, sector, target, 0, [1], none⟩

/-- A remote write names a sector of the part; a reserved target is an address like any other, which nothing answers (R136). -/
theorem test_missing_targets :
    (Instr.remoteWrite (toTarget 32 0)).wellFormed = false ∧
      ([25, 26, 30, 32].all fun t => (Instr.remoteWrite (toTarget 0 t)).wellFormed &&
        match exec (.remoteWrite (toTarget 0 t)) ready with
        | .next u => u.sent.head? == some (.status 0x0302 false [])
        | _ => false) = true := by
  decide +kernel

/-- The last number of each range is accepted. -/
theorem test_last_units :
    [Instr.setlc 799 noCtl, .levelRampEnd 31, .dictWrite .bar0 65535 255 [], .dictWindowGo 0 0 3 511 [], .thermalTrip 161 0,
      .trainingTimeout 33, .canaryAlarm 40 0, .hbmForcedMapout 511, .hbmThermalTick 15 0, .ringSlotTake 31 7, .ringFillDone 63,
      .laneFail 33 8, .helloTimer 31, .scrubEnd 31 0, .windowQuietExpiry 1048575, .twinHeartbeatSend 33,
      .bar2Access false 0xFFFFFFE 2 [], .ringWindowWrite 0x7FFFFC [0, 0, 0, 0], .msixHoldoffExpiry 63, .domainWakeDone 39 0,
      .hangDeclared 0x11F, .stallDetected 0x721, .stallDetected 0x801B, .keeperSelftest .island 31 31, .meshLinkRepeat 51].all
      Instr.wellFormed = true := by
  decide +kernel

/-- Such a command stops, and no word spells a command. -/
theorem test_missing_unit_stops :
    (exec (.setlc 800 noCtl) ready = .fault .noSuchUnit) ∧ Sys2Proof.decodeTableWord 32 0 = none :=
  ⟨rfl, rfl⟩

/-! ## Worked examples -/

/-- One reduction (the example after R307): 10,000 × 11,000 modulo 12,289. -/
theorem test_reduction :
    modMul { q := 12289, mu := 21843, psi := 0, psiInv := 0, nMaxInv := 0, w7 := 2 ^ 56 + 11 * 256 + 14 } 10000 11000 = 1161 := by
  decide +kernel

/-- Where one word comes from (the example after R323): N = 2^16, g = 5, output word 512. -/
theorem test_automorphism : autSource 16 5 512 = 17024 := by decide +kernel

/-- One address before and after a map-out (the example after R194). -/
theorem test_mapout : slotAt [] 0x2F409480 = 37 ∧ slotAt [37] 0x2F409480 = 490 ∧ 490 % 16 = 10 ∧ rowLimit 1 = 523264 := by
  decide +kernel

/-- The three operations of the example after R262, and what T4 and T6 hold at a beat. -/
def opOf (eng issue lat : Nat) : Op :=
  { eng := eng, word := 0, issue := issue, occ := 4, lat := lat, dsts := [4], srcs := [], release := [], writes := [], fx := [], status := 0 }

def coreThen (t4 : Nat) (ops : List Op) : Core := { Core.init with gens := [(4, t4)], ops := ops }

def addPlan : Plan := ⟨[], [(4, 2)], [(6, 0)], false, 4, 10, [], [], 0⟩

/-- One schedule, five arrivals (the example after R262): the third instruction's check at its beat, as kind and found
generation. -/
theorem test_five_arrivals :
    let i1 := opOf 0 1000 16
    let i2 := opOf 4 1010 24
    let check := fun (k : Core) (a : Nat) => (k.schedule a addPlan).map fun f => (f.kind, f.found)
    check (coreThen 2 [i2]) 1016 = none ∧ check (coreThen 1 [i1, i2]) 1015 = some (1, 1) ∧ check (coreThen 2 [i2]) 1017 = none ∧
      (check (coreThen 2 [i2]) 1028).map Prod.fst = some 2 ∧ check (coreThen 3 []) 1040 = some (1, 3) := by
  decide +kernel

/-- The durations of the table after R778 for 256 bits and for 4,096. -/
theorem test_durations :
    [0x01, 0x03, 0x06, 0x04, 0x05].map (fun op => pkeTicks op 4 4) = [16, 48, 96, 3088, 16480] ∧
      [0x01, 0x03, 0x04, 0x05].map (fun op => pkeTicks op 64 64) = [136, 4368, 540688, 34677280] := by
  decide +kernel

/-- An inlet of 48.0 °C gives an effective cap of 1,450 W (the example after R698). -/
theorem test_cap : effectiveCap (wr ready E.coolant_inlet_dc 480) = 1450 := by decide +kernel

/-- Posting one command (the example after R690): with 133 records consumed, the next slot of ring 2 of sector 9 is at region
offset 0x4280, and its marker is 3. -/
theorem test_posting :
    let k := 256 * (8 * 9 + 2)
    let s := wrNat (wr (wr ready (E.ring_slots + k) 64) (E.ring_slot_offset + k) 0x4000) (ringKey 9 (128 * 2)) 4 133
    slotReady (wrNat s (ringKey 9 0x42C0) 4 3) 9 2 = true ∧ slotReady (wrNat s (ringKey 9 0x42C0) 4 2) 9 2 = false ∧
      slotRecord (wrBytes s (ringKey 9 0x4280) [7]) 9 2 = (7 : Byte) :: List.replicate 63 0 := by
  decide +kernel

/-! ## Published functions that the rules name (log 11): the standards' own test vectors -/

theorem test_crc32c : crc32c ([0x31, 0x32, 0x33, 0x34, 0x35, 0x36, 0x37, 0x38, 0x39].map (BitVec.ofNat 8)) = 0xE3069283 := by
  decide +kernel

theorem test_sm3 :
    beNat (sm3 ([0x61, 0x62, 0x63].map (BitVec.ofNat 8))) = 0x66C7F0F462EEEDD9D1F2D46BDC10E4E24167C4875CF2F7A2297DA02B8F4BA8E0 := by
  decide +kernel

theorem test_sm4 : sm4 0x0123456789ABCDEFFEDCBA9876543210 0x0123456789ABCDEFFEDCBA9876543210 = 0x681EDF34D206965E86B3E94F536E4246 := by
  decide +kernel

theorem test_sm2_point : onCurve (baseX, baseY) = true := by decide +kernel

end Tests
end

