-- ==== Sys2Proof/Tests/Stitching.lean ====
section
/-! SUPPORT. States in which the hypotheses of the statements about stitch groups hold together. -/

open Sys2Proof (Instr Byte Path Opnd XIns AIns CIns Eng Ecc Msg)

open Sys2Proof.Machine

namespace Tests

set_option Elab.async false

/-- A stitch record of group i. -/
def stitch (op cores i : Nat) (ws : List Nat) (fabric : Nat := 0) : Taken :=
  taken (record ((op * 2 ^ 56 + i * 2 ^ 32 + fabric * 2 ^ 31 + cores) :: ws)) false

/-- Its checksum broken. -/
def broken (v : Taken) : Taken := { v with record := v.record.set 9 9 }

/-- Group 5, open, with core 50 bound. -/
def group5 : Group := ⟨none, 5, 0, false, 0, 1, 0, 0, [⟨50, 0x60000, 0x100, 3⟩], [], [], [], none, 0⟩

def stitched (gs : List Group) (v : Taken) : State := { queued mapped [v] [] with groups := gs }

theorem witness_StitchGroups :
    let opens := stitch 0x40 0 4095 []
    let binds := stitch 0x41 3 5 [0x60000, 0x100, 7]
    let beyond := stitch 0x41 3 5 [0x90000, 0x100, 7]
    let commits := stitch 0x42 0 5 []
    let aborts := stitch 0x43 0 5 []
    let range := fun (s : State) (v : Taken) => (vaRange s 0 (.unit 2) .write (bits (v.word 1) 47 0) (bits (v.word 2) 47 0)).1
    (∀ op ∈ [0x40, 0x41, 0x42, 0x43], let v := broken (stitch op 0 5 [])
      v.checks = false ∧ nextOp (stitched [] v) 2 3 op = some v) ∧
    (opens.checks = true ∧ nextOp (stitched [] opens) 2 3 0x40 = some opens ∧ findGroup (stitched [] opens) none 4095 = none) ∧
    (let late := stitch 0x40 0 5 [0, 0, 0, 7] 1
     nextOp (stitched [] late) 2 3 0x40 = some late ∧ bit (late.word 0) 31 = true ∧
       late.word 4 < rd (wr (stitched [] late) E.step_counter 9) E.step_counter) ∧
    (nextOp (stitched [group5] binds) 2 3 0x41 = some binds ∧ range (stitched [group5] binds) binds = 0 ∧
      findGroup (stitched [group5] binds) none 5 = some group5 ∧ ringPart (stitched [group5] binds) 2 = 0 ∧
      binds.cores 2 = [50, 51] ∧ isBound (stitched [{ group5 with binds := [] }] binds) 50 = false ∧
      isBound (setCore (stitched [group5] binds) 50 { Core.init with bound := some 5 }) 50 = true) ∧
    (nextOp (stitched [group5] beyond) 2 3 0x41 = some beyond ∧ range (stitched [group5] beyond) beyond ≠ 0) ∧
    (commits.checks = true ∧ nextOp (stitched [group5] commits) 2 3 0x42 = some commits ∧ group5.state = 1 ∧
      group5.fabric = false ∧ group5.waiter = none ∧ group5.unacked = 0 ∧ group5.status = 0 ∧
      (∀ b ∈ group5.binds, (core (stitched [group5] commits) b.core).running = false) ∧
      findGroup (stitched [{ group5 with unacked := 1 }] commits) none 5 = some { group5 with unacked := 1 } ∧
      findGroup (stitched [{ group5 with state := 4 }] commits) none 5 = some { group5 with state := 4 }) ∧
    (aborts.checks = true ∧ nextOp (stitched [group5] aborts) 2 3 0x43 = some aborts ∧
      ∀ b ∈ group5.binds, (core (stitched [group5] aborts) b.core).running = false) := by
  decide +kernel

/-- All 4,096 records are in use. -/
theorem witness_StitchGroups_full :
    let v := stitch 0x40 0 5 []
    v.checks = true ∧ nextOp (stitched (List.replicate 4096 group5) v) 2 3 0x40 = some v ∧
      4096 ≤ (stitched (List.replicate 4096 group5) v).groups.length := by
  refine ⟨by decide +kernel, ?_, List.length_replicate.ge⟩
  exact (by decide +kernel : nextOp (stitched [] (stitch 0x40 0 5 [])) 2 3 0x40 = some (stitch 0x40 0 5 []))

def grouped (gs : List Group) : State := { mapped with groups := gs, resolved := [(7, some (0x0502, 3, 9))] }

theorem witness_StitchGroups_entries :
    Serves (grouped [group5]) E.sg_abort_cmd ∧ authentic (grouped [group5]) .bar0 = false ∧
      authentic (grouped [group5]) .island = true ∧ findGroup (grouped [group5]) none 5 = some group5 ∧
      findGroup (grouped [group5]) none 4095 = none ∧ Serves (grouped [group5]) E.sgq_id ∧
      Tab.get none (grouped []).resolved 7 = some (0x0502, 3, 9) := by
  unfold Serves; decide +kernel

def granule : Granule := ⟨0x500000000, List.replicate 64 7, 1, []⟩

theorem witness_StitchGroups_end :
    let applied := { group5 with state := 4, granules := [granule] }
    let awaits := { group5 with state := 2, awaited := [3] }
    mapped.step.boundary = false ∧ findGroup (grouped [applied]) none 5 = some applied ∧
      applyBlocked (grouped [applied]) applied = false ∧ 2 ^ 26 ≤ granule.base ∧ applied.awaited = [] ∧ applied.waiter = none ∧
      findGroup (grouped [group5]) none 5 = some group5 ∧ group5.state ≠ 4 ∧
      (findGroup (grouped [awaits]) none 5 = some awaits ∧ awaits.awaited ≠ [] ∧ (grouped [awaits]).commitLog = []) ∧
      findGroup (grouped []) none 5 = none ∧
      (∀ st ∈ [3, 4], findGroup (grouped [{ group5 with opener := some 3, state := st }]) (some 3) 5 =
        some { group5 with opener := some 3, state := st }) := by
  decide +kernel

end Tests
end

section
/-! SUPPORT. What counters, alerts, links and sleep entries leave alone, and the pins at a step's boundary. -/

namespace Sys2Proof.Machine

open Sys2Proof

/-! ## Folds -/

/-- A fold whose steps keep a view of the state keeps it. -/
theorem foldl_keeps {σ α β : Type} (f : σ → β) {g : σ → α → σ} (h : ∀ s a, f (g s a) = f s) (l : List α) (s : σ) :
    f (l.foldl g s) = f s := by
  induction l generalizing s with
  | nil => rfl
  | cons a l ih => rw [List.foldl_cons, ih, h]

/-- A fold whose steps on the elements of the list keep a view of the state keeps it. -/
theorem foldl_keeps_of_mem {σ α β : Type} (f : σ → β) {g : σ → α → σ} {l : List α} (h : ∀ a ∈ l, ∀ s, f (g s a) = f s) (s : σ) :
    f (l.foldl g s) = f s := by
  induction l generalizing s with
  | nil => rfl
  | cons a l ih =>
    rw [List.foldl_cons, ih fun b hb => h b (List.mem_cons_of_mem a hb), h a List.mem_cons_self]

/-- What one element's step establishes, and every step keeps, holds after the fold. -/
theorem foldl_establishes {σ α : Type} {P : σ → Prop} {g : σ → α → σ} {l : List α} {a : α} (ha : a ∈ l)
    (established : ∀ s, P (g s a)) (kept : ∀ s b, P s → P (g s b)) (s : σ) : P (l.foldl g s) := by
  have keeps : ∀ (m : List α) (t : σ), P t → P (m.foldl g t) := by
    intro m
    induction m with
    | nil => exact fun _ h => h
    | cons b m ih => exact fun t h => ih _ (kept t b h)
  induction l generalizing s with
  | nil => cases ha
  | cons b l ih =>
    rcases List.mem_cons.1 ha with rfl | ha
    · exact keeps l _ (established s)
    · exact ih ha _

/-! ## What counters, alerts, links and sleep entries leave alone -/

/-- The machine without what counters, alerts, links and sleep entries change: the dictionary, the host attachment, what has
left the module, ports and routes, the power manager, and the count of free values. -/
def still (s : State) : State :=
  { s with dict := [], host := HostSide.init, sent := [], ports := [], routes := [], paths := [], power := PowerMgr.init, freeCtr := 0 }

theorem pins_of_still {s t : State} (h : still t = still s) : t.pins = s.pins :=
  show (still t).pins = (still s).pins from congrArg State.pins h
theorem supply_of_still {s t : State} (h : still t = still s) : t.supply = s.supply :=
  show (still t).supply = (still s).supply from congrArg State.supply h
theorem save_of_still {s t : State} (h : still t = still s) : t.save = s.save :=
  show (still t).save = (still s).save from congrArg State.save h
theorem mem_of_still {s t : State} (h : still t = still s) : t.mem = s.mem :=
  show (still t).mem = (still s).mem from congrArg State.mem h
theorem cores_of_still {s t : State} (h : still t = still s) : t.cores = s.cores :=
  show (still t).cores = (still s).cores from congrArg State.cores h
theorem sectors_of_still {s t : State} (h : still t = still s) : t.sectors = s.sectors :=
  show (still t).sectors = (still s).sectors from congrArg State.sectors h

variable (s : State)

@[simp] theorem still_wr (k v : Nat) : still (wr s k v) = still s := by simp only [still, wr]
@[simp] theorem still_inc (k : Nat) : still (inc s k) = still s := still_wr ..
@[simp] theorem still_incBy (k n : Nat) : still (incBy s k n) = still s := still_wr ..
@[simp] theorem still_emit (o : Out) : still (emit s o) = still s := by simp only [still, emit]
@[simp] theorem still_host (h : HostSide) : still { s with host := h } = still s := rfl
@[simp] theorem still_power (p : PowerMgr) : still { s with power := p } = still s := rfl
@[simp] theorem still_freeCtr (n : Nat) : still { s with freeCtr := n } = still s := rfl
@[simp] theorem still_setPort (p : Nat) (v : Port) : still (setPort s p v) = still s := by simp only [still, setPort]
@[simp] theorem still_setRoute (n v : Nat) : still (setRoute s n v) = still s := by simp only [still, setRoute]
@[simp] theorem still_setPath (p d : Nat) (l : List Nat) : still (setPath s p d l) = still s := by simp only [still, setPath]
@[simp] theorem still_setPortWord (p v : Nat) : still (setPortWord s p v) = still s := still_wr ..
@[simp] theorem still_setState (p v : Nat) : still (setState s p v) = still s := still_wr ..
@[simp] theorem still_setWidth (p v : Nat) : still (setWidth s p v) = still s := still_wr ..
@[simp] theorem still_setKeeper (p v : Nat) : still (setKeeper s p v) = still s := still_wr ..
@[simp] theorem still_setBurn (p v : Nat) : still (setBurn s p v) = still s := still_wr ..
@[simp] theorem still_setLane (p k v : Nat) : still (setLane s p k v) = still s := still_wr ..
@[simp] theorem still_refreshCap : still (refreshCap s) = still s := still_wr ..
@[simp] theorem still_noteGroups : still (noteGroups s) = still s := by simp [noteGroups]
@[simp] theorem still_setDomain (d v : Nat) : still (setDomain s d v) = still s := still_wr ..

@[simp] theorem still_countAt (cfg val ev i n : Nat) : still (countAt s cfg val ev i n) = still s := by
  simp [countAt, apply_ite still]

@[simp] theorem still_countDev (ev i n : Nat) : still (countDev s ev i n) = still s :=
  foldl_keeps still (fun t _ => still_countAt t ..) _ s

@[simp] theorem still_noteNd (cause : Nat) (p : Option Nat) : still (noteNd s cause p) = still s := by
  cases p <;> simp [noteNd]

@[simp] theorem still_paceBreak (x : Nat) : still (paceBreak s x) = still s := by
  unfold paceBreak
  split
  · rfl
  · dsimp only
    split <;> simp [apply_ite still]

/-! ### Alerts -/

@[simp] theorem still_msixSend (v : Nat) : still (msixSend s v) = still s := by
  simp [msixSend, apply_ite still]

@[simp] theorem still_signalVector (v : Nat) : still (signalVector s v) = still s := by
  simp [signalVector, apply_ite still]

@[simp] theorem still_alertEdge (t : State) : still (alertEdge t s) = still s := by
  simp [alertEdge, apply_ite still]

@[simp] theorem still_setAlert (b : Nat) : still (setAlert s b) = still s := by simp [setAlert]

@[simp] theorem still_refreshAlert : still (refreshAlert s) = still s := by simp [refreshAlert]

/-! ### Links -/

@[simp] theorem still_forgetNeighbour (p : Nat) : still (forgetNeighbour s p) = still s := by
  simp [forgetNeighbour, apply_ite still]

@[simp] theorem still_stopBurnish (p : Nat) : still (stopBurnish s p) = still s := by
  unfold stopBurnish; split <;> simp

@[simp] theorem still_dropLink (p : Nat) : still (dropLink s p) = still s := by
  simp [dropLink, apply_ite still]

@[simp] theorem still_computeRoute (d : Nat) : still (computeRoute s d) = still s := by
  simp [computeRoute, apply_ite still]

@[simp] theorem still_advertise (d : Nat) : still (advertise s d) = still s := by
  unfold advertise
  split
  · rfl
  · exact foldl_keeps still (fun t _ => still_emit t _) _ s

@[simp] theorem still_routeChanged (s0 : State) (d : Nat) : still (routeChanged s0 s d) = still s := by
  simp [routeChanged, apply_ite still]

@[simp] theorem still_withdrawPort (s0 : State) (p : Nat) : still (withdrawPort s0 s p) = still s :=
  foldl_keeps still (fun t _ => by simp) _ s

@[simp] theorem still_portOut (p st : Nat) : still (portOut s p st) = still s := by
  simp [portOut, apply_ite still]

@[simp] theorem still_portsOff (d : Nat) : still (portsOff s d) = still s :=
  foldl_keeps still (fun t _ => by simp [apply_ite still]) _ s

@[simp] theorem still_portsDisable : still (portsDisable s) = still s := by simp [portsDisable]

@[simp] theorem still_presTrain (p : Nat) : still (presTrain s p) = still s := by
  simp [presTrain, apply_ite still]

@[simp] theorem still_sendFlits (p vc n : Nat) : still (sendFlits s p vc n) = still s := by simp [sendFlits]

@[simp] theorem still_sendMsg (mtype : Nat) (m : Msg) : still (sendMsg s mtype m) = still s := by
  unfold sendMsg
  split
  · dsimp only
    split <;> simp [apply_ite still]
  · rfl

/-! ### Sleep entries -/

@[simp] theorem still_returnAsked : still (returnAsked s) = still s :=
  foldl_keeps still (fun t _ => by simp [apply_ite still]) _ s

@[simp] theorem still_abandonEntry : still (abandonEntry s) = still s := by
  unfold abandonEntry; split <;> simp

/-! ### The main stage -/

@[simp] theorem still_mainCurrent (ma : Nat) : still (mainCurrent s ma) = still s := by
  simp [mainCurrent, apply_ite still]

end Sys2Proof.Machine
end

section
/-! SUPPORT. No operation of a step's boundary moves a pin. -/

namespace Sys2Proof.Machine

open Sys2Proof

variable (s : State)

/-! ### Notices and groups -/

@[simp] theorem countDev_pins (ev i n : Nat) : (countDev s ev i n).pins = s.pins := pins_of_still (still_countDev ..)
@[simp] theorem noteNd_pins (cause : Nat) (p : Option Nat) : (noteNd s cause p).pins = s.pins := pins_of_still (still_noteNd ..)
@[simp] theorem paceBreak_pins (x : Nat) : (paceBreak s x).pins = s.pins := pins_of_still (still_paceBreak ..)
@[simp] theorem setAlert_pins (b : Nat) : (setAlert s b).pins = s.pins := pins_of_still (still_setAlert ..)
@[simp] theorem signalVector_pins (v : Nat) : (signalVector s v).pins = s.pins := pins_of_still (still_signalVector ..)
@[simp] theorem noteGroups_pins : (noteGroups s).pins = s.pins := pins_of_still (still_noteGroups s)
@[simp] theorem sendMsg_pins (mtype : Nat) (m : Msg) : (sendMsg s mtype m).pins = s.pins := pins_of_still (still_sendMsg ..)
@[simp] theorem portOut_pins (p st : Nat) : (portOut s p st).pins = s.pins := pins_of_still (still_portOut ..)
@[simp] theorem inc_pins (k : Nat) : (inc s k).pins = s.pins := pins_of_still (still_inc ..)

@[simp] theorem sendNotice_pins (mtype node w e : Nat) (d : List Byte) : (sendNotice s mtype node w e d).pins = s.pins := by
  simp [sendNotice]

@[simp] theorem setGroup_pins (o : Option Nat) (i : Nat) (f : Group → Group) : (setGroup s o i f).pins = s.pins := rfl

@[simp] theorem returnCredits_pins (k n : Nat) : (returnCredits s k n).pins = s.pins := by
  simp [returnCredits, apply_ite State.pins]

@[simp] theorem discard_pins (o : Option Nat) (i : Nat) : (discard s o i).pins = s.pins := by
  unfold discard
  split
  · rfl
  · simp [foldl_keeps State.pins fun t (r : Granule) => returnCredits_pins t r.base r.credits]

/-! ### HBM -/

@[simp] theorem setOut_pins (out : List Nat) : (setOut s out).pins = s.pins := by
  unfold setOut
  rw [foldl_keeps State.pins fun t (i : Nat) => wr_pins t (E.hbm_mapped_out + i) _, wr_pins, wr_pins]

@[simp] theorem goOutOfService_pins (cause : Nat) : (goOutOfService s cause).pins = s.pins := by
  simp [goOutOfService, bootLog]

@[simp] theorem forcedMapOut_pins (pc : Nat) : (forcedMapOut s pc).pins = s.pins := by
  unfold forcedMapOut
  dsimp only
  split
  · rfl
  split
  · exact wr_pins ..
  · rw [apply_ite State.pins, goOutOfService_pins, ite_self, wr_pins, zeroFill_pins, inc_pins, setOut_pins]

@[simp] theorem forceMapOut_pins (pc : Nat) : (forceMapOut s pc).pins = s.pins := by
  simp [forceMapOut, apply_ite State.pins]

@[simp] theorem countUe_pins (a : Nat) : (countUe s a).pins = s.pins := by
  simp [countUe, apply_ite State.pins]

@[simp] theorem noteEcc_pins (a : Nat) (e : Ecc) : (noteEcc s a e).pins = s.pins := by
  cases e <;> simp [noteEcc, apply_ite State.pins]

@[simp] theorem clearLost_pins (lo hi : Nat) : (clearLost s lo hi).pins = s.pins := by
  simp [clearLost, apply_ite State.pins]

@[simp] theorem hbmStore_pins (a : Nat) (d : List Byte) : (hbmStore s a d).pins = s.pins := by
  simp [hbmStore, apply_ite State.pins]

/-! ### Held reductions -/

@[simp] theorem noteLine_pins (a : Nat) (k : Option (Nat × Nat × Nat)) : (noteLine s a k).pins = s.pins := by
  unfold noteLine; rfl

@[simp] theorem noteHeld_pins (l : List HeldAdd) : (noteHeld s l).pins = s.pins := by simp [noteHeld]

@[simp] theorem applyAdd_pins (u : HeldAdd) (q : Nat) (e : Ecc) : (applyAdd s u q e).pins = s.pins := by
  simp [applyAdd, apply_ite State.pins]

@[simp] theorem flushHeld_pins (f : HeldAdd → Bool) : (flushHeld s f).pins = s.pins := by
  simp [flushHeld, foldl_keeps State.pins fun t u => applyAdd_pins t u 0 .clean]

/-! ### Stores of a unit -/

@[simp] theorem onchipUe_pins (x a b : Nat) : (onchipUe s x a b).pins = s.pins := by simp [onchipUe]

@[simp] theorem loseWord_pins (k : Nat) : (loseWord s k).pins = s.pins := by
  simp [loseWord, apply_ite State.pins]

@[simp] theorem meetWord_pins (k n : Nat) : (meetWord s k n).pins = s.pins := by
  simp [meetWord, apply_ite State.pins]

@[simp] theorem meetEdges_pins (k n : Nat) : (meetEdges s k n).pins = s.pins :=
  foldl_keeps State.pins (fun t _ => meetWord_pins t ..) _ s

@[simp] theorem storeAt_pins (k : Nat) (d : List Byte) : (storeAt s k d).pins = s.pins := by
  simp [storeAt, apply_ite State.pins]

@[simp] theorem noteLanded_pins (k n : Nat) : (noteLanded s k n).pins = s.pins := by
  unfold noteLanded; split <;> rfl

@[simp] theorem setHandle_pins (h : Nat) (v : Handle) : (setHandle s h v).pins = s.pins := rfl

@[simp] theorem sendNow_pins (h : Nat) (r : Request) : (sendNow s h r).pins = s.pins := by
  simp [sendNow, apply_ite State.pins]

@[simp] theorem request_pins (h : Nat) (r : Request) : (request s h r).pins = s.pins := by
  unfold request
  dsimp only
  split <;> simp [apply_ite State.pins]

@[simp] theorem groupStore_pins (o : Option Nat) (i k : Nat) (d : List Byte) (c : Nat) (bad : Bool) :
    (groupStore s o i k d c bad).1.pins = s.pins := by
  unfold groupStore
  split
  · rfl
  split
  · rfl
  split
  · rfl
  simp only [apply_ite Prod.fst, apply_ite State.pins, noteGroups_pins, setGroup_pins, discard_pins, ite_self]
  refine foldl_keeps (fun p : State × Bool => p.1.pins) (fun p e => ?_) _ (s, true)
  split
  · rfl
  split
  · rfl
  split <;> rfl

@[simp] theorem unitStore_pins (x p : Nat) (g : Option Nat) (k : Nat) (d : List Byte) :
    (unitStore s x p g k d).1.pins = s.pins := by
  unfold unitStore
  split
  · dsimp only
    split <;> simp
  · split
    · rfl
    · dsimp only
      cases g <;> simp [apply_ite State.pins]

@[simp] theorem vaWrite_pins (x p : Nat) (g : Option Nat) (va : Nat) (d : List Byte) :
    (vaWrite s x p g va d).1.pins = s.pins := by
  unfold vaWrite
  dsimp only
  split
  · rfl
  · refine foldl_keeps (fun q : State × Nat => q.1.pins) (fun q e => ?_) _ (s, 0)
    exact unitStore_pins q.1 ..

/-! ### Completions -/

@[simp] theorem setRing_pins (x k : Nat) (v : Ring) : (setRing s x k v).pins = s.pins := rfl

@[simp] theorem postEntry_pins (x cb off n : Nat) (r : List Byte) : (postEntry s x cb off n r).pins = s.pins := by
  simp [postEntry]

@[simp] theorem mirrorEntry_pins (x k e : Nat) (r : List Byte) : (mirrorEntry s x k e r).pins = s.pins := by
  simp [mirrorEntry, apply_ite State.pins]

@[simp] theorem postCompletion_pins (x k : Nat) (r : List Byte) : (postCompletion s x k r).pins = s.pins := by
  simp [postCompletion, apply_ite State.pins]

@[simp] theorem finishWith_pins (x k : Nat) (t : Taken) (r e : List Byte) : (finishWith s x k t r e).pins = s.pins := by
  unfold finishWith
  dsimp only
  split <;> simp [apply_ite State.pins]

@[simp] theorem finishPlain_pins (x k : Nat) (t : Taken) (st : Nat) : (finishPlain s x k t st).pins = s.pins := by
  simp [finishPlain]

@[simp] theorem endSteps_pins (st : Nat) : (endSteps s st).pins = s.pins :=
  foldl_keeps State.pins (fun t r => foldl_keeps State.pins (fun u q => by simp [apply_ite State.pins]) _ t) _ s

@[simp] theorem finishCommit_pins (w : Option (Nat × Nat)) (i st : Nat) : (finishCommit s w i st).pins = s.pins := by
  unfold finishCommit
  split
  · rfl
  · split <;> simp

/-! ### Decisions and the boundary -/

@[simp] theorem unbind_pins (c : Nat) : (unbind s c).pins = s.pins := by
  simp [unbind, apply_ite State.pins]

@[simp] theorem resolveGroup_pins (o : Option Nat) (i code cause : Nat) : (resolveGroup s o i code cause).pins = s.pins := by
  unfold resolveGroup
  split
  · rfl
  · simp [apply_ite State.pins, foldl_keeps State.pins fun t (b : Bind) =>
      (by simp [apply_ite State.pins] : (if (core t b.core).bound = some i then unbind t b.core else t).pins = t.pins)]

@[simp] theorem stepIncrement_pins : (stepIncrement s).pins = s.pins := by
  simp [stepIncrement, apply_ite State.pins]

@[simp] theorem settleGroup_pins (i : Nat) : (settleGroup s i).pins = s.pins := by
  unfold settleGroup
  split <;> simp [apply_ite State.pins]

@[simp] theorem decideGroup_pins (i : Nat) (commit : Bool) : (decideGroup s i commit).pins = s.pins := by
  unfold decideGroup
  split
  · rfl
  · simp [apply_ite State.pins, foldl_keeps State.pins fun t n => sendNotice_pins t ..]

@[simp] theorem prepareGroup_pins (i : Nat) : (prepareGroup s i).pins = s.pins := by
  unfold prepareGroup
  split
  · rfl
  · simp [apply_ite State.pins, foldl_keeps State.pins fun t n => sendNotice_pins t ..]

@[simp] theorem setWinWord_pins (w i v : Nat) : (setWinWord s w i v).pins = s.pins := by simp [setWinWord]

@[simp] theorem latchDone_pins : (latchDone s).pins = s.pins :=
  foldl_keeps State.pins (fun t _ => setWinWord_pins t ..) _ s

@[simp] theorem commitRecord_pins : (commitRecord s).pins = s.pins := by
  simp [commitRecord, apply_ite State.pins]

@[simp] theorem detachTwin_pins (cause : Nat) : (detachTwin s cause).pins = s.pins := by simp [detachTwin]

@[simp] theorem compareDigests_pins : (compareDigests s).pins = s.pins := by
  unfold compareDigests
  split <;> simp [apply_ite State.pins]

/-- The boundary of a step moves no pin. -/
@[simp] theorem fallBoundary_pins : (fallBoundary s).pins = s.pins := by
  simp [fallBoundary, apply_ite State.pins, foldl_keeps State.pins prepareGroup_pins,
    foldl_keeps State.pins fun t p => (by simp [apply_ite State.pins] : (if portCode t p = 0 then t else portOut t p 0).pins = t.pins)]

end Sys2Proof.Machine
end

section
/-! SUPPORT. What the loss of the main stage and a last save leave of the machine (R49, R81, R719, R720). -/

namespace Sys2Proof.Machine

open Sys2Proof

variable (s : State)

/-! ## A sector without power -/

theorem clearCores_save (x keep : Nat) : (clearCores s x keep).save = s.save :=
  foldl_keeps State.save (fun t _ => setCore_save t ..) _ s

theorem clearCoreMemory_save (x keep : Nat) : (clearCoreMemory s x keep).save = s.save := rfl

theorem clearCoreMemory_cores (x keep : Nat) : (clearCoreMemory s x keep).cores = s.cores := rfl

theorem setLanding_save (x : Nat) (l : List Landing) : (setLanding s x l).save = s.save := by
  unfold setLanding; rw [wr_save, setSector_save]

theorem setLanding_cores (x : Nat) (l : List Landing) : (setLanding s x l).cores = s.cores := by
  unfold setLanding; rw [wr_cores, setSector_cores]

theorem sectorLost_save (x keep : Nat) (commons : Bool) : (sectorLost s x keep commons).save = s.save := by
  unfold sectorLost
  dsimp only
  rw [setSector_save, setLanding_save, apply_ite State.save, zeroFill_save, ite_self, clearCores_save, clearCoreMemory_save,
    zeroFill_save, zeroFill_save, zeroFill_save]

theorem core_congr {s t : State} (h : t.cores = s.cores) (c : Nat) : core t c = core s c := by unfold core; rw [h]

/-- The cores that a sector without power keeps are those of the other sectors. -/
theorem core_clearCores (x c : Nat) : core (clearCores s x 0) c = if c / 25 = x then Core.init else core s c := by
  unfold clearCores
  simp only [if_true]
  by_cases hx : c / 25 = x
  · rw [if_pos hx]
    refine foldl_establishes (P := fun t => core t c = Core.init) (a := c % 25)
      (List.mem_range.2 (Nat.mod_lt _ (by decide))) (fun t => ?_) (fun t p h => ?_) s
    · rw [core_setCore, if_pos (by omega)]
    · rw [core_setCore, h, ite_self]
  · rw [if_neg hx]
    refine foldl_keeps_of_mem (core · c) (fun p hp t => ?_) s
    have hp := List.mem_range.1 hp
    rw [core_setCore, if_neg (by omega)]

theorem core_sectorLost (x c : Nat) (commons : Bool) :
    core (sectorLost s x 0 commons) c = if c / 25 = x then Core.init else core s c := by
  unfold sectorLost
  dsimp only
  rw [core_congr (setSector_cores ..), core, setLanding_cores, apply_ite State.cores, zeroFill_cores, ite_self, ← core,
    core_clearCores, core_congr (clearCoreMemory_cores ..), core_congr (zeroFill_cores ..), core_congr (zeroFill_cores ..),
    core_congr (zeroFill_cores ..)]

/-! ## The main stage goes off -/

theorem pkeLost_save : (pkeLost s).save = s.save := by
  unfold pkeLost pkeWipe
  rw [zeroFill_save]
  dsimp only
  rw [apply_ite State.save, save_of_still (still_inc ..), ite_self]

theorem pkeLost_cores : (pkeLost s).cores = s.cores := by
  unfold pkeLost pkeWipe
  rw [zeroFill_cores]
  dsimp only
  rw [apply_ite State.cores, cores_of_still (still_inc ..), ite_self]

theorem foldl_setDomain_still (v : Nat) (l : List Nat) : still (l.foldl (fun t d => setDomain t d v) s) = still s :=
  foldl_keeps still (fun t d => still_setDomain t d v) l s

theorem mainLost_save (keep : Bool) : (mainLost s keep).save = s.save := by
  unfold mainLost
  dsimp only
  rw [apply_ite State.save, zeroFill_save, ite_self, wr_save, wr_save, save_of_still (foldl_setDomain_still ..), pkeLost_save,
    save_of_still (still_portsDisable _), foldl_keeps State.save fun t x => sectorLost_save t x 0 false,
    save_of_still (still_abandonEntry s)]

/-- Without the main stage no core holds anything (R49, R719). -/
theorem core_mainLost (keep : Bool) {c : Nat} (hc : c < 800) : core (mainLost s keep) c = Core.init := by
  unfold mainLost
  dsimp only
  rw [core]
  dsimp only
  rw [apply_ite State.cores, zeroFill_cores, ite_self, wr_cores, wr_cores, cores_of_still (foldl_setDomain_still ..), pkeLost_cores,
    cores_of_still (still_portsDisable _), ← core]
  refine foldl_establishes (P := fun t => core t c = Core.init) (a := c / 25) (List.mem_range.2 (by omega)) (fun t => ?_)
    (fun t x h => ?_) (abandonEntry s)
  · rw [core_sectorLost, if_pos rfl]
  · rw [core_sectorLost, h, ite_self]

theorem stageOff_supply : (stageOff s).supply = { s.supply with mainOn := false, coolLow := false } := by
  unfold stageOff; rw [supply_of_still (still_mainCurrent ..)]

theorem stageOff_save : (stageOff s).save = s.save := by
  unfold stageOff; rw [save_of_still (still_mainCurrent ..)]

theorem stageOff_cores : (stageOff s).cores = s.cores := by
  unfold stageOff; rw [cores_of_still (still_mainCurrent ..)]

theorem mainOff_mainOn : (mainOff s).supply.mainOn = false := by
  unfold mainOff
  split
  · rw [stageOff_supply]
  · rename_i h; exact eq_false_of_ne_true h

theorem mainOff_save : (mainOff s).save = s.save := by
  unfold mainOff
  split
  · rw [stageOff_save, mainLost_save]
  · rfl

/-- The module that disables the main stage leaves no core anything (R49). -/
theorem core_mainOff (h : s.supply.mainOn = true) {c : Nat} (hc : c < 800) : core (mainOff s) c = Core.init := by
  unfold mainOff
  rw [if_pos h, core_congr (stageOff_cores _), core_mainLost s false hc]

end Sys2Proof.Machine
end

section
/-! SUPPORT. What a last save and a trip leave of the machine (R78 to R82, R719, R720, R868). -/

namespace Sys2Proof.Machine

open Sys2Proof

/-! ## Bits -/

theorem bit_eq_testBit (v i : Nat) : bit v i = v.testBit i := by
  unfold bit; rw [Nat.testBit_eq_decide_div_mod_eq, beq_eq_decide]

/-- A bit of what is set stays when the value is cut to a size that holds it. -/
theorem bit_or_mod {w n i : Nat} (v : Nat) (hi : i < n) (hw : bit w i = true) : bit ((v ||| w) % 2 ^ n) i = true := by
  rw [bit_eq_testBit] at hw ⊢
  rw [Nat.testBit_mod_two_pow, Nat.testBit_or, hw, decide_eq_true hi, Bool.or_true, Bool.and_self]

theorem bit_setBit (v i : Nat) (b : Bool) : bit (setBit v i b) i = b := by
  have hp := Nat.two_pow_pos i
  unfold setBit
  split
  · rename_i h; exact eq_of_beq h
  rename_i h
  unfold bit at h ⊢
  cases b
  · have odd : v / 2 ^ i % 2 = 1 := by simpa using h
    have : (v - 2 ^ i) / 2 ^ i = v / 2 ^ i - 1 := by simpa using Nat.sub_mul_div v (2 ^ i) 1
    rw [if_neg (by decide), this, beq_eq_false_iff_ne]
    omega
  · have even : v / 2 ^ i % 2 ≠ 1 := by simpa using h
    rw [if_pos rfl, Nat.add_div_right _ hp, beq_iff_eq]
    omega

variable (s : State)

/-! ## A last save -/

theorem rd_returnAsked {k : Nat} (hk : k < E.domain_state) : rd (returnAsked s) k = rd s k := by
  refine foldl_keeps (rd · k) (fun t d => ?_) _ s
  split
  · exact rd_wr_other t (by omega) 0
  · rfl

/-- The end of a sleep entry that nothing counts writes no entry below `domain_state`. -/
theorem rd_abandonEntry {k : Nat} (hk : k < E.domain_state) : rd (abandonEntry s) k = rd s k := by
  unfold abandonEntry
  split
  · rfl
  · rw [rd_wr_other _ (Nat.ne_of_lt (hk.trans (by decide))), rd_returnAsked _ hk]
    rfl

/-- The causes of the save that runs after one more is declared (R720). -/
def causesNow (cause : Nat) : Nat := if s.save.running then rd s E.last_save_cause ||| cause else cause

theorem lastSave_running (cause : Nat) : (lastSave s cause).save.running = true := by
  unfold lastSave
  split
  · assumption
  · rfl

/-- The machine when a save that starts has noted its cause, pulled `SAG_N` low and stopped a crash collection (R74, R720,
R806). -/
def saveBegun (cause : Nat) : State :=
  let u := { wr s E.last_save_cause cause with pins := { s.pins with sagOut := true } }
  if s.recovery.crashes.isEmpty then u else wr { u with recovery := { s.recovery with crashes := [] } } E.crash_state 4

theorem saveBegun_supply (cause : Nat) : (saveBegun s cause).supply = s.supply := by
  unfold saveBegun
  dsimp only
  split <;> simp only [wr_supply]

theorem saveBegun_pins (cause : Nat) : (saveBegun s cause).pins = { s.pins with sagOut := true } := by
  unfold saveBegun
  dsimp only
  split <;> simp only [wr_pins]

theorem saveBegun_cores (cause : Nat) : (saveBegun s cause).cores = s.cores := by
  unfold saveBegun
  dsimp only
  split <;> simp only [wr_cores]

theorem rd_saveBegun_cause (cause : Nat) : rd (saveBegun s cause) E.last_save_cause = cause % 2 ^ 8 := by
  unfold saveBegun
  dsimp only
  split
  · exact rd_wr_same s E.last_save_cause cause
  · rw [rd_wr_other _ (by decide)]
    exact rd_wr_same s E.last_save_cause cause

/-- A save that starts switches the main stage off, or ends a sleep entry where that stage is off already; then it runs, and
the hold is its cause's (R719). -/
theorem lastSave_starts (cause : Nat) (hr : s.save.running = false) : ∃ img,
    lastSave s cause =
      let u := saveBegun s cause
      let v := if u.supply.mainOn then mainOff u else abandonEntry u
      { v with
        save := { v.save with running := true, frozen := img }
        supply := { v.supply with hold := joinHold v.supply.hold cause, mrstDone := false } } := by
  unfold lastSave
  rw [if_neg (by rw [hr]; decide)]
  exact ⟨_, rfl⟩

/-- With the main stage off, a save that starts ends a sleep entry, and the hold is its cause's. -/
theorem lastSave_idle (cause : Nat) (h : s.supply.mainOn = false) (hr : s.save.running = false) :
    ∃ v : Save, lastSave s cause = { abandonEntry (saveBegun s cause) with
      save := v
      supply := { s.supply with hold := joinHold s.supply.hold cause, mrstDone := false } } := by
  have off : ¬(saveBegun s cause).supply.mainOn = true := by rw [saveBegun_supply, h]; decide
  obtain ⟨img, started⟩ := lastSave_starts s cause hr
  rw [started]
  dsimp only
  rw [if_neg off, supply_of_still (still_abandonEntry _), saveBegun_supply]
  exact ⟨_, rfl⟩

theorem lastSave_supply (cause : Nat) (h : s.supply.mainOn = false) :
    (lastSave s cause).supply = { s.supply with hold := joinHold s.supply.hold (causesNow s cause), mrstDone := false } := by
  cases hr : s.save.running
  · obtain ⟨v, e⟩ := lastSave_idle s cause h hr
    rw [e, causesNow, hr]; rfl
  · unfold lastSave causesNow
    rw [if_pos hr, if_pos hr]

theorem lastSave_cores (cause : Nat) (h : s.supply.mainOn = false) : (lastSave s cause).cores = s.cores := by
  cases hr : s.save.running
  · obtain ⟨v, e⟩ := lastSave_idle s cause h hr
    rw [e]
    dsimp only
    rw [cores_of_still (still_abandonEntry _), saveBegun_cores]
  · unfold lastSave
    rw [if_pos hr]
    dsimp only
    rw [wr_cores]

theorem lastSave_thermTrip (cause : Nat) (h : s.supply.mainOn = false) : (lastSave s cause).pins.thermTrip = s.pins.thermTrip := by
  cases hr : s.save.running
  · obtain ⟨v, e⟩ := lastSave_idle s cause h hr
    rw [e]
    dsimp only
    rw [pins_of_still (still_abandonEntry _), saveBegun_pins]
  · unfold lastSave
    rw [if_pos hr]
    dsimp only
    rw [wr_pins]

theorem rd_lastSave_cause (cause : Nat) (h : s.supply.mainOn = false) :
    rd (lastSave s cause) E.last_save_cause = causesNow s cause % 2 ^ 8 := by
  cases hr : s.save.running
  · obtain ⟨v, e⟩ := lastSave_idle s cause h hr
    have : rd (lastSave s cause) E.last_save_cause = rd (abandonEntry (saveBegun s cause)) E.last_save_cause :=
      rd_congr (by rw [e]) _
    rw [this, rd_abandonEntry _ (by decide), rd_saveBegun_cause, causesNow, hr]; rfl
  · have : rd (lastSave s cause) E.last_save_cause =
        rd (wr s E.last_save_cause (rd s E.last_save_cause ||| cause)) E.last_save_cause :=
      rd_congr (by unfold lastSave; rw [if_pos hr]) _
    rw [this, rd_wr_same, causesNow, if_pos hr]
    rfl

/-! ## A trip -/

/-- A trip is a last save, after the main stage has gone off and `THERMTRIP_N` low (R78, R79). -/
theorem tripNow_saves (cause : Nat) : ∃ u : State, tripNow s cause = lastSave u cause ∧ u.save = s.save ∧
    u.supply.mainOn = false ∧ u.supply.hot = true ∧ u.pins.thermTrip = true ∧ u.cores = (mainOff s).cores := by
  refine ⟨_, rfl, ?_, ?_, ?_, ?_, ?_⟩
  · rw [save_of_still (still_inc ..)]; exact mainOff_save s
  · rw [supply_of_still (still_inc ..)]; exact mainOff_mainOn s
  · rw [supply_of_still (still_inc ..)]
  · rw [inc_pins]
  · rw [cores_of_still (still_inc ..)]

/-- Where the machine t stands after a trip of s whose cause has bit b: the die is off, `THERMTRIP_N` low, and the last save
runs (R78 to R82). -/
def Tripped (s t : State) (b : Nat) : Prop :=
  t.supply.mainOn = false ∧ t.supply.hot = true ∧ t.pins.thermTrip = true ∧ Saving t b ∧
    (s.save.running = false → t.supply.hold = .trip) ∧ (s.supply.mainOn = true → Unpowered t)

/-- A cause that is a thermal trip or a coolant loss, and no AUX overvoltage, leaves the hold of a trip (R80, R721). -/
theorem joinHold_trip {cause : Nat} (h5 : bit cause 5 = false) (h : bit cause 3 = true ∨ bit cause 4 = true) (m : Hold) :
    joinHold m cause = .trip := by
  unfold joinHold holdAfter
  rw [h5, if_pos h]
  simp

theorem tripped_tripNow {cause b : Nat} (hb : b = 3 ∨ b = 4) (hc : bit cause b = true) (h5 : bit cause 5 = false) :
    Tripped s (tripNow s cause) b := by
  obtain ⟨u, e, hsave, hoff, hhot, htrip, hcores⟩ := tripNow_saves s cause
  have off : (lastSave u cause).supply.mainOn = false := by rw [lastSave_supply u cause hoff]; exact hoff
  rw [e]
  refine ⟨off, ?_, ?_, ⟨lastSave_running u cause, ?_⟩, fun hr => ?_, fun hon => ⟨off, fun c hlt => ?_⟩⟩
  · rw [lastSave_supply u cause hoff]; exact hhot
  · rw [lastSave_thermTrip u cause hoff, htrip]
  · have hlt : b < 8 := by omega
    rw [rd_lastSave_cause u cause hoff, causesNow]
    split
    · exact bit_or_mod _ hlt hc
    · simpa using bit_or_mod 0 hlt hc
  · rw [lastSave_supply u cause hoff, causesNow, hsave, hr]
    exact joinHold_trip h5 (by rcases hb with rfl | rfl <;> simp [hc]) _
  · rw [core_congr (lastSave_cores u cause hoff), core_congr hcores, core_mainOff s hon hlt]

end Sys2Proof.Machine
end

section
/-! SUPPORT. Alerts and the cap as their entries report them, and cooling (R76, R82, R90, R695). -/

namespace Sys2Proof.Machine

open Sys2Proof

variable (s : State)

/-- A command leads to what its effect satisfies, where the queue of waiting commands plays no part in it. -/
theorem leads_of_effect {n : Instr} {s u : State} {P : State → Prop} (h : exec n s = done s u) (hP : P u)
    (blind : ∀ v q, P v → P { v with pending := q }) : Leads n s P := leads_of_done h (blind u s.pending hP)

/-! ## Alerts -/

theorem signalVector_dict (v : Nat) : (signalVector s v).dict = s.dict := by
  unfold signalVector msixSend
  split
  · rfl
  split
  · rfl
  dsimp only
  split <;> rfl

theorem alertEdge_dict (t : State) : (alertEdge t s).dict = s.dict := by
  unfold alertEdge
  split
  · rw [signalVector_dict, emit_dict]
  · rfl

/-- An alert writes `alert_status` alone. -/
theorem rd_setAlert_other {k : Nat} (h : k ≠ E.alert_status) (b : Nat) : rd (setAlert s b) k = rd s k := by
  unfold setAlert; rw [rd_congr (alertEdge_dict ..), rd_wr_other _ h]

/-- The bits of an alert stand in `alert_status` (R90). -/
theorem bit_setAlert {b i : Nat} (hi : i < 32) (hb : bit b i = true) : bit (rd (setAlert s b) E.alert_status) i = true := by
  unfold setAlert
  rw [rd_congr (alertEdge_dict ..), rd_wr_same]
  exact bit_or_mod (n := 32) _ hi hb

/-! ## Cooling -/

theorem refreshCap_supply : (refreshCap s).supply = s.supply := supply_of_still (still_refreshCap s)

/-- A coolant loss caps the module at 400 W (R82). -/
theorem rd_refreshCap_coolLow (h : s.supply.coolLow = true) : rd (refreshCap s) E.power_cap_effective_w = 400 := by
  unfold refreshCap effectiveCap
  rw [rd_wr_same, h]
  rfl

/-- `COOL_OK` low for 1 ms, with the main stage on, is noted and raises alert 2 (R82, R90). -/
theorem coolOkLow_eq (h : s.supply.mainOn = true) : coolOkLow s = refreshCap (setAlert { s with
    pins := { s.pins with coolOk := false }, supply := { s.supply with coolLow := true } } 4) := by
  unfold coolOkLow
  dsimp only
  rw [if_pos h]

theorem still_capped (u : State) (b : Nat) : still (refreshCap (setAlert u b)) = still u := by simp

theorem leads_coolOkLow (h : s.supply.mainOn = true) : Leads .coolOkLow s fun t =>
    t.pins.coolOk = false ∧ t.supply.coolLow = true ∧ rd t E.power_cap_effective_w = 400 ∧
      bit (rd t E.alert_status) 2 = true ∧ t.supply.mainOn = true := by
  refine leads_of_effect (u := coolOkLow s) rfl ?_ fun _ _ h => h
  rw [coolOkLow_eq s h, pins_of_still (still_capped ..), supply_of_still (still_capped ..)]
  refine ⟨rfl, rfl, ?_, ?_, h⟩
  · exact rd_refreshCap_coolLow _ (by rw [supply_of_still (still_setAlert ..)])
  · rw [refreshCap, rd_wr_other _ (by decide)]
    exact bit_setAlert _ (by decide) (by decide)

/-- The return of `COOL_OK` as the module notes it: it ends a coolant loss within its grace, or with the main stage off (R82). -/
def coolNoted (ms : Nat) : State :=
  let u := { s with pins := { s.pins with coolOk := true } }
  if ms ≤ rd u E.cool_ok_grace_ms ∨ !u.supply.mainOn then refreshCap { u with supply := { u.supply with coolLow := false } } else u

theorem coolNoted_pins (ms : Nat) : (coolNoted s ms).pins = { s.pins with coolOk := true } := by
  unfold coolNoted
  dsimp only
  split
  · rw [pins_of_still (still_refreshCap _)]
  · rfl

theorem coolNoted_supply (ms : Nat) : (coolNoted s ms).supply = { s.supply with
    coolLow := if ms ≤ rd s E.cool_ok_grace_ms ∨ s.supply.mainOn = false then false else s.supply.coolLow } := by
  have grace : rd { s with pins := { s.pins with coolOk := true } } E.cool_ok_grace_ms = rd s E.cool_ok_grace_ms := rd_congr rfl _
  unfold coolNoted
  simp only [grace, Bool.not_eq_true']
  split
  · rw [refreshCap_supply]
  · rfl

theorem coolNoted_mem (ms : Nat) : (coolNoted s ms).mem = s.mem := by
  unfold coolNoted
  dsimp only
  split
  · rw [mem_of_still (still_refreshCap _)]
  · rfl

theorem coolNoted_cores (ms : Nat) : (coolNoted s ms).cores = s.cores := by
  unfold coolNoted
  dsimp only
  split
  · rw [cores_of_still (still_refreshCap _)]
  · rfl

/-- Where no `MRST_N` waits, noting it is all that the return of `COOL_OK` does. -/
theorem coolOkReturn_eq (ms : Nat) (h : s.supply.mrstWaits = false) : coolOkReturn s ms = coolNoted s ms := by
  have waits : ¬((coolNoted s ms).supply.mrstWaits = true ∧ (!(coolNoted s ms).save.running) = true) := by
    rw [coolNoted_supply]; simp [h]
  exact if_neg waits

theorem leads_coolOkReturn (ms : Nat) (h : s.supply.mrstWaits = false) : Leads (.coolOkReturn ms) s fun t =>
    t.pins.coolOk = true ∧
      (t.supply.coolLow = if ms ≤ rd s E.cool_ok_grace_ms ∨ s.supply.mainOn = false then false else s.supply.coolLow) ∧
      t.supply.mainOn = s.supply.mainOn ∧ t.mem = s.mem ∧ t.cores = s.cores := by
  refine leads_of_effect (u := coolOkReturn s ms) rfl ?_ fun _ _ h => h
  rw [coolOkReturn_eq s ms h, coolNoted_pins, coolNoted_supply, coolNoted_mem, coolNoted_cores]
  exact ⟨rfl, rfl, rfl, rfl, rfl⟩

/-! ## Trips -/

theorem leads_trip {n : Instr} {cause b : Nat} (h : exec n s = done s (tripNow s cause)) (hb : b = 3 ∨ b = 4)
    (hc : bit cause b = true) (h5 : bit cause 5 = false) : Leads n s fun t => Tripped s t b :=
  leads_of_effect h (tripped_tripNow s hb hc h5) fun _ _ h => h

/-- The trip values of R78: dies, HBM stacks and the coolant outlet. -/
theorem tripValue_of_le {sensor : Nat} (h : sensor ≤ 160) :
    tripValue sensor = some (if sensor < 144 then 1150 else if sensor < 160 then 1050 else 700) := by
  unfold tripValue
  split
  · rfl
  split
  · rfl
  · rw [if_pos (by omega)]

theorem exec_thermalTrip {sensor : Nat} (h : sensor ≤ 160) (t : Int) :
    exec (.thermalTrip sensor t) s = done s (thermalTrip s sensor t) :=
  guarded_of (decide_eq_true (by omega)) s _

theorem thermalTrip_of_le {sensor : Nat} (h : sensor ≤ 160) (t : Int) : thermalTrip s sensor t =
    if (if sensor < 144 then 1150 else if sensor < 160 then 1050 else 700) ≤ t then tripNow s 8 else s := by
  unfold thermalTrip; rw [tripValue_of_le h]

theorem leads_thermalTrip {sensor : Nat} (h : sensor ≤ 160) {t : Int}
    (ht : (if sensor < 144 then 1150 else if sensor < 160 then 1050 else 700) ≤ t) :
    Leads (.thermalTrip sensor t) s fun u => Tripped s u 3 :=
  leads_trip s (by rw [exec_thermalTrip s h, thermalTrip_of_le s h, if_pos ht]) (Or.inl rfl) (by decide) (by decide)

theorem stays_thermalTrip {sensor : Nat} (h : sensor ≤ 160) {t : Int}
    (ht : t < if sensor < 144 then 1150 else if sensor < 160 then 1050 else 700) : Stays (.thermalTrip sensor t) s := by
  unfold Stays
  rw [exec_thermalTrip s h, thermalTrip_of_le s h, if_neg (Int.not_le.2 ht), done_self]

theorem leads_coolantLoss (h : s.supply.coolLow = true) : Leads .coolantLoss s fun t => Tripped s t 4 :=
  leads_trip s (cause := 16) (show done s (coolantLoss s) = _ by unfold coolantLoss; rw [if_pos h]) (Or.inr rfl) (by decide) (by decide)

theorem stays_coolantLoss (h : s.supply.coolLow = false) : Stays .coolantLoss s := by
  show done s (coolantLoss s) = .next s
  unfold coolantLoss
  rw [if_neg (by rw [h]; decide), done_self]

end Sys2Proof.Machine
end

section
/-! SUPPORT. The measured entries, and the end of a millisecond in every sector (R86, R103, R127, R867). -/

namespace Sys2Proof.Machine

open Sys2Proof

variable (s : State)

/-! ## Counters -/

theorem rd_inc_other {k j : Nat} (h : j ≠ k) : rd (inc s k) j = rd s j := rd_wr_other s h _

/-- A device counter's event writes counter values alone (R846). -/
theorem rd_countDev {k : Nat} (hk : k < E.dpc_value) (ev i n : Nat) : rd (countDev s ev i n) k = rd s k := by
  refine foldl_keeps (rd · k) (fun t j => ?_) _ s
  unfold countAt
  dsimp only
  split
  · exact rd_wr_other t (by omega) _
  · rfl

theorem rd_noteNd {k : Nat} (hk : k < E.nd_count) (cause : Nat) (p : Option Nat) : rd (noteNd s cause p) k = rd s k := by
  have dev : rd (countDev (inc s (E.nd_cause_count + (cause - 1))) 0x20B 64 1) k = rd s k := by
    rw [rd_countDev _ (hk.trans (by decide)), rd_inc_other s (by simp only [E.nd_count, E.nd_cause_count] at *; omega)]
  cases p with
  | none => exact dev
  | some p => exact (rd_inc_other _ (by omega)).trans dev

/-- A pace break writes its sector's count, and what counts a timing-dependent choice (R104, R836). -/
theorem rd_paceBreak {k x : Nat} (hx : k ≠ E.pace_break_count + x) (hk : k < E.nd_count) : rd (paceBreak s x) k = rd s k := by
  unfold paceBreak
  split
  · rfl
  dsimp only
  split
  · split
    · rw [rd_noteNd _ hk, rd_inc_other s hx]
    · rw [rd_inc_other s hx]
  · rw [rd_inc_other s hx]

/-! ## A sector's millisecond -/

/-- The sector makes no beat now: the main stage is off, or its domain sleeps. -/
def sectorSleeps (x : Nat) : Bool := !s.supply.mainOn || decide (2 ≤ domainState s x)

/-- What `sector_beat_rate` takes at the end of a millisecond: 0 for a sector that slept throughout (R127). -/
def tickRate (m : Measure) (x : Nat) : Nat :=
  if (sector s x).slept && sectorSleeps s x then 0 else beatRate (m.coreBeats.getD x [])

/-- The late beats that a millisecond's end counts for sector x (R103). -/
def lateBreaks (n x : Nat) : State := (List.range n).foldl (fun t _ => paceBreak t x) s

theorem sectorTick_eq (m : Measure) (x : Nat) : sectorTick m s x =
    setSector (lateBreaks (wr s (E.sector_beat_rate + x) (tickRate s m x)) (m.late.getD x 0) x) x
      { sector s x with slept := sectorSleeps s x } := rfl

theorem still_lateBreaks (n x : Nat) : still (lateBreaks s n x) = still s :=
  foldl_keeps still (fun t _ => still_paceBreak t x) _ s

theorem rd_lateBreaks {k x : Nat} (hx : k ≠ E.pace_break_count + x) (hk : k < E.nd_count) (n : Nat) :
    rd (lateBreaks s n x) k = rd s k :=
  foldl_keeps (rd · k) (fun t _ => rd_paceBreak t hx hk) _ s

theorem rd_sectorTick (m : Measure) {k x : Nat} (hx : k ≠ E.pace_break_count + x) (hk : k < E.nd_count) :
    rd (sectorTick m s x) k =
      if k = E.sector_beat_rate + x then cut (E.sector_beat_rate + x) (tickRate s m x) else rd s k := by
  rw [sectorTick_eq, rd_congr (setSector_dict ..), rd_lateBreaks _ hx hk, rd_wr]
  rfl

theorem sector_sectorTick_other (m : Measure) {x y : Nat} (h : y ≠ x) : sector (sectorTick m s x) y = sector s y := by
  rw [sectorTick_eq, sector_setSector, if_neg h]
  unfold sector
  rw [sectors_of_still (still_lateBreaks ..), wr_sectors]

/-- The machine t has come from s by the ends of the millisecond in sectors 0 to n - 1. -/
structure Ticked (m : Measure) (s t : State) (n : Nat) : Prop where
  rates : ∀ x < n, rd t (E.sector_beat_rate + x) = cut (E.sector_beat_rate + x) (tickRate s m x)
  later : ∀ x, n ≤ x → sector t x = sector s x
  entries : ∀ k < E.nd_count, k < E.pace_break_count ∨ E.sector_beat_rate + 32 ≤ k → rd t k = rd s k
  supply : t.supply = s.supply
  mem : t.mem = s.mem
  cores : t.cores = s.cores

theorem Ticked.zero (m : Measure) (s : State) : Ticked m s s 0 where
  rates _ h := absurd h (Nat.not_lt_zero _)
  later _ _ := rfl
  entries _ _ _ := rfl
  supply := rfl
  mem := rfl
  cores := rfl

/-- Before its end of the millisecond, a sector is as it was. -/
theorem Ticked.tickRate_eq {m : Measure} {s t : State} {n : Nat} (h : Ticked m s t n) (hn : n < 32) :
    tickRate t m n = tickRate s m n := by
  have domain : domainState t n = domainState s n :=
    h.entries _ (by simp only [E.domain_state, E.nd_count]; omega) (Or.inr (by simp only [E.domain_state, E.sector_beat_rate]; omega))
  unfold tickRate sectorSleeps
  rw [h.later n (le_refl n), h.supply, domain]

theorem Ticked.succ {m : Measure} {s t : State} {n : Nat} (h : Ticked m s t n) (hn : n < 32) :
    Ticked m s (sectorTick m t n) (n + 1) := by
  have kept : still (lateBreaks (wr t (E.sector_beat_rate + n) (tickRate t m n)) (m.late.getD n 0) n) = still t := by
    rw [still_lateBreaks, still_wr]
  constructor
  case rates =>
    intro x hx
    have apart : E.sector_beat_rate + x ≠ E.pace_break_count + n := by
      simp only [E.pace_break_count, E.sector_beat_rate]; omega
    have low : E.sector_beat_rate + x < E.nd_count := by simp only [E.sector_beat_rate, E.nd_count]; omega
    rw [rd_sectorTick t m apart low]
    split
    · rename_i e
      obtain rfl : x = n := by omega
      rw [h.tickRate_eq hn]
    · exact h.rates x (by omega)
  case later =>
    intro x hx
    rw [sector_sectorTick_other t m (by omega), h.later x (by omega)]
  case entries =>
    intro k low apart
    have h1 : k ≠ E.pace_break_count + n := by simp only [E.pace_break_count, E.sector_beat_rate] at *; omega
    have h2 : k ≠ E.sector_beat_rate + n := by simp only [E.pace_break_count, E.sector_beat_rate] at *; omega
    rw [rd_sectorTick t m h1 low, if_neg h2, h.entries k low apart]
  case supply => rw [sectorTick_eq, setSector_supply, supply_of_still kept, h.supply]
  case mem => rw [sectorTick_eq, setSector_mem, mem_of_still kept, h.mem]
  case cores => rw [sectorTick_eq, setSector_cores, cores_of_still kept, h.cores]

theorem ticked_foldl (m : Measure) (s : State) {n : Nat} (hn : n ≤ 32) : Ticked m s ((List.range n).foldl (sectorTick m) s) n := by
  induction n with
  | zero => exact Ticked.zero m s
  | succ n ih =>
    rw [List.range_succ, List.foldl_append]
    exact (ih (by omega)).succ (by omega)

/-! ## Measured entries -/

/-- The main current that is measured: below 50 mA while the main stage is off (R51, R867). -/
def currentRead (ma : Nat) : Nat := if s.supply.mainOn then ma else openValue 185 s.freeCtr 0 % 50

theorem rd_mainCurrent (ma k : Nat) :
    rd (mainCurrent s ma) k = if k = E.main_current_ma then cut E.main_current_ma (currentRead s ma) else rd s k := by
  unfold mainCurrent currentRead
  split <;> exact rd_wr ..

/-- The measured entries with their new means (R86, R867). -/
def noteMeasured (m : Measure) : State :=
  let u := mainCurrent (wr (wr (wr s E.main_voltage_mv m.mainMv) E.aux_voltage_mv m.auxMv) E.aux_current_ma m.auxMa) m.mainMa
  wr (wr (wr (wr u E.die_temp_max_dc (i32 m.dieMaxDc)) E.coolant_inlet_dc (i32 m.inletDc)) E.coolant_outlet_dc (i32 m.outletDc))
    E.module_power_w m.powerW

theorem still_noteMeasured (m : Measure) : still (noteMeasured s m) = still s := by simp [noteMeasured]

/-- What each entry reads after a measurement. -/
theorem rd_noteMeasured (m : Measure) (k : Nat) : rd (noteMeasured s m) k =
    if k = E.module_power_w then cut E.module_power_w m.powerW
    else if k = E.coolant_outlet_dc then cut E.coolant_outlet_dc (i32 m.outletDc)
    else if k = E.coolant_inlet_dc then cut E.coolant_inlet_dc (i32 m.inletDc)
    else if k = E.die_temp_max_dc then cut E.die_temp_max_dc (i32 m.dieMaxDc)
    else if k = E.main_current_ma then cut E.main_current_ma (currentRead s m.mainMa)
    else if k = E.aux_current_ma then cut E.aux_current_ma m.auxMa
    else if k = E.aux_voltage_mv then cut E.aux_voltage_mv m.auxMv
    else if k = E.main_voltage_mv then cut E.main_voltage_mv m.mainMv
    else rd s k := by
  unfold noteMeasured
  simp only [rd_wr, rd_mainCurrent, cut]
  rfl

theorem cut_i32 {k : Nat} (h : dictSize k = 4) (x : Int) : cut k (i32 x) = i32 x := by
  unfold cut i32
  rw [h]
  exact Nat.mod_eq_of_lt (by omega)

end Sys2Proof.Machine
end

section
/-! SUPPORT. The tick of the measurements, the release of `SAG_N`, cables, and cinch edges (R43, R64, R65, R74, R86, R867). -/

namespace Sys2Proof.Machine

open Sys2Proof

variable (s : State)

/-! ## The tick of the measurements -/

/-- The measured entries and every sector's millisecond. -/
def ticked (m : Measure) : State := (List.range 32).foldl (sectorTick m) (noteMeasured s m)

theorem ticked_ticked (m : Measure) : Ticked m (noteMeasured s m) (ticked s m) 32 := ticked_foldl m _ (le_refl 32)

/-- The supplies as a measurement judges them (R44, R79, R695). -/
def judged (m : Measure) : Supply :=
  { s.supply with
    mainOk := mainInRange m.mainMv, auxOk := auxInRange m.auxMv
    coolantHot := decide (450 < m.inletDc ∨ 600 < m.outletDc)
    hot := s.supply.hot && !m.tripCooled }

/-- The machine after a measurement, before a `MRST_N` that waits is taken. -/
def measured (m : Measure) : State :=
  refreshCap (refreshAlert { ticked s m with supply := judged (ticked s m) m })

theorem still_measured (m : Measure) :
    still (measured s m) = still { ticked s m with supply := judged (ticked s m) m } := by simp [measured]

theorem ticked_supply (m : Measure) : (ticked s m).supply = s.supply := by
  rw [(ticked_ticked s m).supply, supply_of_still (still_noteMeasured s m)]

theorem measured_supply (m : Measure) : (measured s m).supply = judged s m := by
  rw [supply_of_still (still_measured s m)]
  unfold judged
  rw [ticked_supply]

theorem measured_mem (m : Measure) : (measured s m).mem = s.mem := by
  rw [mem_of_still (still_measured s m)]
  dsimp only
  rw [(ticked_ticked s m).mem, mem_of_still (still_noteMeasured s m)]

theorem measured_cores (m : Measure) : (measured s m).cores = s.cores := by
  rw [cores_of_still (still_measured s m)]
  dsimp only
  rw [(ticked_ticked s m).cores, cores_of_still (still_noteMeasured s m)]

/-- Where no `MRST_N` waits, that is all that a tick does. -/
theorem measureTick_eq (m : Measure) (h : s.supply.mrstWaits = false) : measureTick s m = measured s m := by
  have waits : ¬((measured s m).supply.mrstWaits = true ∧ (!(measured s m).save.running) = true) := by
    rw [measured_supply]; simp [judged, h]
  exact if_neg waits

theorem rd_withSupply (v : Supply) (k : Nat) : rd { s with supply := v } k = rd s k := rfl

/-- The alert and the cap that follow a measurement change no other entry. -/
theorem rd_measured_ticked (m : Measure) {k : Nat} (ha : k ≠ E.alert_status) (hc : k ≠ E.power_cap_effective_w) :
    rd (measured s m) k = rd (ticked s m) k := by
  unfold measured refreshCap refreshAlert
  rw [rd_wr_other _ hc, rd_setAlert_other _ ha, rd_withSupply]

/-- What a measured entry reads after the tick. -/
theorem rd_measured (m : Measure) {k : Nat} (hk : k < E.pace_break_count ∨ E.sector_beat_rate + 32 ≤ k) (hn : k < E.nd_count)
    (ha : k ≠ E.alert_status) (hc : k ≠ E.power_cap_effective_w) : rd (measured s m) k = rd (noteMeasured s m) k := by
  rw [rd_measured_ticked s m ha hc, (ticked_ticked s m).entries k hn hk]

/-- The measurement leaves what a sector's beat rate depends on (R127). -/
theorem tickRate_noteMeasured (m : Measure) {x : Nat} (hx : x < 32) : tickRate (noteMeasured s m) m x = tickRate s m x := by
  have domain : domainState (noteMeasured s m) x = domainState s x := by
    unfold domainState
    rw [rd_noteMeasured]
    simp only [E.domain_state, E.module_power_w, E.coolant_outlet_dc, E.coolant_inlet_dc, E.die_temp_max_dc, E.main_current_ma,
      E.aux_current_ma, E.aux_voltage_mv, E.main_voltage_mv]
    repeat rw [if_neg (by omega)]
  have sectors : sector (noteMeasured s m) x = sector s x := by
    unfold sector; rw [sectors_of_still (still_noteMeasured s m)]
  unfold tickRate sectorSleeps
  rw [sectors, domain, supply_of_still (still_noteMeasured s m)]

theorem rd_measured_beatRate (m : Measure) {x : Nat} (hx : x < 32) :
    rd (measured s m) (E.sector_beat_rate + x) = cut (E.sector_beat_rate + x) (tickRate s m x) := by
  have ha : E.sector_beat_rate + x ≠ E.alert_status := by simp only [E.sector_beat_rate, E.alert_status]; omega
  have hc : E.sector_beat_rate + x ≠ E.power_cap_effective_w := by simp only [E.sector_beat_rate, E.power_cap_effective_w]; omega
  rw [rd_measured_ticked s m ha hc, (ticked_ticked s m).rates x hx, tickRate_noteMeasured s m hx]

/-- The rate of the statement: 0 for a sector that slept throughout, with the main stage off or its domain asleep. -/
theorem tickRate_eq_ite (m : Measure) (x : Nat) : tickRate s m x =
    if (sector s x).slept = true ∧ (s.supply.mainOn = false ∨ 2 ≤ domainState s x) then 0
    else (m.coreBeats.getD x []).sum / (1000 * max 1 (m.coreBeats.getD x []).length) := by
  unfold tickRate sectorSleeps beatRate
  simp only [Bool.and_eq_true, Bool.or_eq_true, Bool.not_eq_true', decide_eq_true_eq]

theorem leads_measureTick (m : Measure) (h : s.supply.mrstWaits = false) : Leads (.measureTick m) s fun t =>
    rd t E.main_voltage_mv = cut E.main_voltage_mv m.mainMv ∧ rd t E.aux_voltage_mv = cut E.aux_voltage_mv m.auxMv ∧
      (if s.supply.mainOn then rd t E.main_current_ma = cut E.main_current_ma m.mainMa else rd t E.main_current_ma < 50) ∧
      rd t E.aux_current_ma = cut E.aux_current_ma m.auxMa ∧
      rd t E.die_temp_max_dc = i32 m.dieMaxDc ∧ rd t E.coolant_inlet_dc = i32 m.inletDc ∧
      rd t E.coolant_outlet_dc = i32 m.outletDc ∧ rd t E.module_power_w = cut E.module_power_w m.powerW ∧
      (∀ x < 32, rd t (E.sector_beat_rate + x) = cut (E.sector_beat_rate + x)
        (if (sector s x).slept = true ∧ (s.supply.mainOn = false ∨ 2 ≤ domainState s x) then 0
          else (m.coreBeats.getD x []).sum / (1000 * max 1 (m.coreBeats.getD x []).length))) ∧
      (s.supply.hot = false → t.supply.hot = false) ∧
      t.supply.mainOk = decide (40000 ≤ m.mainMv ∧ m.mainMv ≤ 56000) ∧
      t.supply.auxOk = decide (11400 ≤ m.auxMv ∧ m.auxMv ≤ 12600) ∧ t.mem = s.mem ∧ t.cores = s.cores := by
  refine leads_of_effect (u := measureTick s m) rfl ?_ fun _ _ h => h
  have reads (k : Nat) (hk : k < E.pace_break_count ∨ E.sector_beat_rate + 32 ≤ k := by decide) (hn : k < E.nd_count := by decide)
      (ha : k ≠ E.alert_status := by decide) (hc : k ≠ E.power_cap_effective_w := by decide) :
      rd (measured s m) k = rd (noteMeasured s m) k := rd_measured s m hk hn ha hc
  rw [measureTick_eq s m h, measured_supply, measured_mem, measured_cores]
  refine ⟨?_, ?_, ?_, ?_, ?_, ?_, ?_, ?_, fun x hx => ?_, fun hot => ?_, rfl, rfl, rfl, rfl⟩
  · rw [reads E.main_voltage_mv, rd_noteMeasured]; rfl
  · rw [reads E.aux_voltage_mv, rd_noteMeasured]; rfl
  · have current : rd (measured s m) E.main_current_ma = cut E.main_current_ma (currentRead s m.mainMa) := by
      rw [reads E.main_current_ma, rd_noteMeasured]; rfl
    rw [current, currentRead]
    split
    · rfl
    · exact (Nat.mod_le _ _).trans_lt (Nat.mod_lt _ (by decide))
  · rw [reads E.aux_current_ma, rd_noteMeasured]; rfl
  · rw [reads E.die_temp_max_dc, rd_noteMeasured]; exact cut_i32 (k := E.die_temp_max_dc) rfl _
  · rw [reads E.coolant_inlet_dc, rd_noteMeasured]; exact cut_i32 (k := E.coolant_inlet_dc) rfl _
  · rw [reads E.coolant_outlet_dc, rd_noteMeasured]; exact cut_i32 (k := E.coolant_outlet_dc) rfl _
  · rw [reads E.module_power_w, rd_noteMeasured]; rfl
  · rw [rd_measured_beatRate s m hx, tickRate_eq_ite]
  · simp [judged, hot]

end Sys2Proof.Machine
end

section
/-! SUPPORT. The release of `SAG_N`, cables that come or go, and cinch edges (R43, R64, R65, R74). -/

namespace Sys2Proof.Machine

open Sys2Proof

variable (s : State)

/-! ## `SAG_N` -/

theorem sagRelease_eq {main aux : Nat} (hm : 42000 < main) (ha : 11200 < aux) :
    sagRelease s main aux = noteInputs { s with pins := { s.pins with sagOut := false } } main aux := by
  unfold sagRelease mainRecovered auxRecovered
  rw [if_pos (by simp [hm, ha])]

theorem leads_sagNRelease {main aux : Nat} (hm : 42000 < main) (ha : 11200 < aux) :
    Leads (.sagNRelease main aux) s fun t => t.pins = { s.pins with sagOut := false } ∧ t.mem = s.mem ∧ t.cores = s.cores := by
  refine leads_of_effect (u := sagRelease s main aux) rfl ?_ fun _ _ h => h
  rw [sagRelease_eq s hm ha, noteInputs, pins_of_still (still_refreshAlert _), mem_of_still (still_refreshAlert _),
    cores_of_still (still_refreshAlert _)]
  exact ⟨rfl, rfl, rfl⟩

theorem stays_sagNRelease {main aux : Nat} (h : main ≤ 42000 ∨ aux ≤ 11200) : Stays (.sagNRelease main aux) s := by
  show done s (sagRelease s main aux) = .next s
  unfold sagRelease mainRecovered auxRecovered
  rw [if_neg (by simp only [Bool.and_eq_true, decide_eq_true_eq]; omega), done_self]

/-! ## Cables -/

/-- The pins after `PRES_N` of port p has changed. -/
def presPins (p : Nat) (low : Bool) : Pins :=
  { s.pins with presLow := BitVec.ofNat 34 (setBit s.pins.presLow.toNat p low) }

theorem bit_presPins {p : Nat} (hp : p < 34) (low : Bool) : bit (presPins s p low).presLow.toNat p = low := by
  rw [presPins, BitVec.toNat_ofNat, bit_eq_testBit, Nat.testBit_mod_two_pow, ← bit_eq_testBit, bit_setBit, decide_eq_true hp,
    Bool.true_and]

theorem presChange_eq {p : Nat} {low : Bool} (h : bit s.pins.presLow.toNat p ≠ low) : presChange s p low =
    let u := setAlert { s with pins := presPins s p low } 128
    if low then presTrain u p else u := by
  unfold presChange
  rw [if_neg (by simpa using h)]
  rfl

theorem still_presChange {p : Nat} {low : Bool} (h : bit s.pins.presLow.toNat p ≠ low) :
    still (presChange s p low) = still { s with pins := presPins s p low } := by
  rw [presChange_eq s h]
  simp [apply_ite still]

theorem rd_presTrain {k : Nat} (hk : k < E.port_state) (p : Nat) : rd (presTrain s p) k = rd s k := by
  have apart : k ≠ E.port_state + p := by omega
  have word (t : State) (v : Nat) : rd (setPortWord t p v) k = rd t k := rd_wr_other t apart v
  unfold presTrain setState
  dsimp only
  split
  · rw [word, word]
  · rw [word]

theorem leads_presNChange {p : Nat} {low : Bool} (hp : p < 34) (h : bit s.pins.presLow.toNat p ≠ low) :
    Leads (.presNChange p low) s fun t =>
      bit t.pins.presLow.toNat p = low ∧ bit (rd t E.alert_status) 7 = true ∧ t.mem = s.mem ∧ t.cores = s.cores := by
  refine leads_of_effect (guarded_of (decide_eq_true hp) s (presChange s p low)) ?_ fun _ _ h => h
  have kept := still_presChange s h
  rw [pins_of_still kept, mem_of_still kept, cores_of_still kept]
  refine ⟨bit_presPins s hp low, ?_, rfl, rfl⟩
  have alert : bit (rd (setAlert { s with pins := presPins s p low } 128) E.alert_status) 7 = true :=
    bit_setAlert _ (by decide) (by decide)
  rw [presChange_eq s h]
  dsimp only
  split
  · rw [rd_presTrain _ (by decide), alert]
  · exact alert

theorem stays_presNChange {p : Nat} {low : Bool} (hp : p < 34) (h : bit s.pins.presLow.toNat p = low) :
    Stays (.presNChange p low) s := by
  show guarded (decide (p < 34)) s (presChange s p low) = .next s
  unfold presChange
  rw [guarded_of (decide_eq_true hp), if_pos (by simpa using h), done_self]

/-! ## Cinch edges -/

/-- A cinch edge changes no pin, whether it ends a step or not. -/
theorem cinchEdge_pins : (cinchEdge s).pins = s.pins := by
  unfold cinchEdge
  dsimp only
  split
  · rw [fallBoundary_pins, inc_pins]
  · rw [inc_pins, inc_pins]

theorem boundaryWaits_congr {s t : State} (h : t.step = s.step) : boundaryWaits t = boundaryWaits s := by
  unfold boundaryWaits; rw [h]

/-- An edge that no boundary waits for is counted, and counted as outside (R606). -/
theorem cinchEdge_outside (h : ¬(boundaryWaits s = true ∧ s.step.cinch = true)) :
    cinchEdge s = inc (inc s E.cinch_edge_count) E.cinch_outside_count := by
  have step : (inc s E.cinch_edge_count).step = s.step := wr_step ..
  unfold cinchEdge
  refine if_neg fun w => h ?_
  rwa [boundaryWaits_congr step, step, Bool.and_eq_true] at w

/-- The machine with an edge of `CINCH` repeated on `CINCH_OUT` whenever AUX is in range (R65). -/
def cinchRepeated : State := if s.supply.auxOk then { s with pins := { s.pins with cinchOut := s.pins.cinchOut + 1 } } else s

theorem cinchRepeated_cinchOut :
    (cinchRepeated s).pins.cinchOut = s.pins.cinchOut + (if s.supply.auxOk then 1 else 0) := by
  unfold cinchRepeated
  split <;> rfl

theorem cinchRepeated_dict : (cinchRepeated s).dict = s.dict := by
  unfold cinchRepeated; split <;> rfl

theorem cinchRepeated_cores : (cinchRepeated s).cores = s.cores := by
  unfold cinchRepeated; split <;> rfl

theorem cinchRepeated_step : (cinchRepeated s).step = s.step := by
  unfold cinchRepeated; split <;> rfl

theorem leads_cinchEdge : Leads .cinchEdge s fun t =>
    t.pins.cinchOut = s.pins.cinchOut + (if s.supply.auxOk then 1 else 0) ∧
      (¬(boundaryWaits s = true ∧ s.step.cinch = true) →
        rd t E.cinch_edge_count = cut E.cinch_edge_count (rd s E.cinch_edge_count + 1) ∧
        rd t E.cinch_outside_count = cut E.cinch_outside_count (rd s E.cinch_outside_count + 1) ∧ t.cores = s.cores) := by
  refine leads_of_effect (u := cinchEdge (cinchRepeated s)) rfl ?_ fun _ _ h => h
  refine ⟨by rw [cinchEdge_pins, cinchRepeated_cinchOut], fun h => ?_⟩
  have outside : ¬(boundaryWaits (cinchRepeated s) = true ∧ (cinchRepeated s).step.cinch = true) := by
    rwa [boundaryWaits_congr (cinchRepeated_step s), cinchRepeated_step]
  have same (k : Nat) : rd (cinchRepeated s) k = rd s k := rd_congr (cinchRepeated_dict s) k
  rw [cinchEdge_outside _ outside]
  refine ⟨?_, ?_, ?_⟩
  · rw [rd_inc_other _ (by decide), inc, incBy, rd_wr_same, same]; rfl
  · rw [inc, incBy, rd_wr_same, rd_inc_other _ (by decide), same]; rfl
  · rw [cores_of_still (still_inc ..), cores_of_still (still_inc ..), cinchRepeated_cores]

end Sys2Proof.Machine
end

section
/-! # Trips, coolant loss and what the module reports -/

namespace Sys2Proof.Machine

/-- Settles O24: a trip is a last save after the main stage has gone off (`tripped_tripNow`), and what is reported is read off the
updates of one tick (`leads_measureTick`), one cable (`leads_presNChange`) and one cinch edge (`leads_cinchEdge`). -/
theorem moduleProtects : Obligations.ModuleProtects := by
  unfold Obligations.ModuleProtects
  refine ⟨fun s => ⟨fun sensor t h => ⟨fun ht => leads_thermalTrip s h ht, fun ht => stays_thermalTrip s h ht⟩, leads_coolantLoss s,
    stays_coolantLoss s, leads_coolOkLow s, leads_coolOkReturn s⟩, fun s => ⟨leads_measureTick s, fun _ _ => leads_sagNRelease s,
    fun _ _ => stays_sagNRelease s, fun _ _ => leads_presNChange s, fun _ _ => stays_presNChange s, leads_cinchEdge s⟩⟩

end Sys2Proof.Machine
end

section
/-! SUPPORT. Single bits of an entry, pace breaks, and the reference in use (R66 to R68, R89, R104). -/

namespace Sys2Proof.Machine

open Sys2Proof

/-! ## Bits -/

/-- A bit below the size of an entry is kept when the value is cut to it. -/
theorem bit_mod_two_pow {n i : Nat} (v : Nat) (hi : i < n) : bit (v % 2 ^ n) i = bit v i := by
  rw [bit_eq_testBit, bit_eq_testBit, Nat.testBit_mod_two_pow, decide_eq_true hi, Bool.true_and]

/-- The bits below bit i stay when it is set or cleared. -/
theorem setBit_mod (v i : Nat) (b : Bool) : setBit v i b % 2 ^ i = v % 2 ^ i := by
  unfold setBit
  split
  · rfl
  rename_i h
  unfold bit at h
  cases b
  · have nonzero : v / 2 ^ i ≠ 0 := fun zero => h (by rw [zero]; rfl)
    have le : 2 ^ i ≤ v := Nat.le_of_not_lt fun lt => nonzero (Nat.div_eq_of_lt lt)
    exact (Nat.mod_eq_sub_mod le).symm
  · exact Nat.add_mod_right ..

/-- So do the bits above it. -/
theorem setBit_div (v i : Nat) (b : Bool) : setBit v i b / 2 ^ (i + 1) = v / 2 ^ (i + 1) := by
  have hp := Nat.two_pow_pos i
  rw [Nat.pow_succ, ← Nat.div_div_eq_div_mul, ← Nat.div_div_eq_div_mul]
  unfold setBit
  split
  · rfl
  rename_i h
  unfold bit at h
  cases b
  · have odd : v / 2 ^ i % 2 = 1 := by simpa using h
    have down : (v - 2 ^ i) / 2 ^ i = v / 2 ^ i - 1 := by simpa using Nat.sub_mul_div v (2 ^ i) 1
    rw [if_neg (by decide), down]
    generalize v / 2 ^ i = q at odd ⊢
    omega
  · have even : v / 2 ^ i % 2 ≠ 1 := by simpa using h
    rw [if_pos rfl, Nat.add_div_right _ hp]
    generalize v / 2 ^ i = q at even ⊢
    omega

theorem bit_setBit_other {i j : Nat} (h : j ≠ i) (v : Nat) (b : Bool) : bit (setBit v i b) j = bit v j := by
  simp only [bit_eq_testBit]
  rcases Nat.lt_or_gt_of_ne h with below | above
  · have low (w : Nat) : w.testBit j = (w % 2 ^ i).testBit j := by
      rw [Nat.testBit_mod_two_pow, decide_eq_true below, Bool.true_and]
    rw [low, low v, setBit_mod]
  · have high (w : Nat) : w.testBit j = (w / 2 ^ (i + 1)).testBit (j - (i + 1)) := by
      rw [Nat.testBit_div_two_pow]; congr 1; omega
    rw [high, high v, setBit_div]

variable (s : State)

/-- `timeref_status` with one bit written: the others keep their values. -/
theorem bit_wr_status {j : Nat} (hj : j < 8) (v i : Nat) (b : Bool) :
    bit (rd (wr s E.timeref_status (setBit v i b)) E.timeref_status) j = if j = i then b else bit v j := by
  rw [rd_wr_same, bit_mod_two_pow (n := 8 * dictSize E.timeref_status) _ hj]
  split
  · rename_i e; rw [e, bit_setBit]
  · rename_i ne; exact bit_setBit_other ne v b

/-! ## Pace breaks -/

/-- A sector's count of breaks is none of the entries below those counts. -/
theorem pace_break_count_ne {k : Nat} (hk : k < E.pace_break_count) (x : Nat) : E.pace_break_count + x ≠ k := by omega

theorem rd_inc_same (k : Nat) : rd (inc s k) k = cut k (rd s k + 1) := rd_wr_same s k _

/-- A break of sector x counts in its own count, if the sector is paced (R104). -/
theorem rd_paceBreak_same {x : Nat} (hx : x < 32) : rd (paceBreak s x) (E.pace_break_count + x) =
    if paced s x then cut (E.pace_break_count + x) (rd s (E.pace_break_count + x) + 1) else rd s (E.pace_break_count + x) := by
  have low : E.pace_break_count + x < E.nd_count := by simp only [E.pace_break_count, E.nd_count]; omega
  unfold paceBreak
  cases paced s x
  · rfl
  dsimp only
  rw [if_neg (by decide), if_pos rfl]
  split
  · split
    · rw [rd_noteNd _ low, rd_inc_same]
    · exact rd_inc_same ..
  · exact rd_inc_same ..

/-- No break changes which sectors are paced. -/
theorem paced_paceBreak {x : Nat} (hx : x < 32) (y : Nat) : paced (paceBreak s y) x = paced s x := by
  unfold paced
  rw [rd_paceBreak s (by simp only [E.sector_pacing, E.pace_break_count]; omega)
    (by simp only [E.sector_pacing, E.nd_count]; omega)]

/-- Breaks of the sectors below n count once for each that is paced. -/
theorem rd_foldl_paceBreak {x : Nat} (hx : x < 32) (n : Nat) :
    rd ((List.range n).foldl paceBreak s) (E.pace_break_count + x) =
      if x < n then rd (paceBreak s x) (E.pace_break_count + x) else rd s (E.pace_break_count + x) := by
  induction n with
  | zero => rfl
  | succ n ih =>
    rw [List.range_succ, List.foldl_append, List.foldl_cons, List.foldl_nil]
    by_cases e : x = n
    · subst e
      rw [if_neg (Nat.lt_irrefl x)] at ih
      rw [if_pos (Nat.lt_succ_self x), rd_paceBreak_same _ hx, rd_paceBreak_same s hx, ih,
        foldl_keeps (paced · x) fun t y => paced_paceBreak t hx y]
    · rw [rd_paceBreak _ (by omega) (by simp only [E.pace_break_count, E.nd_count]; omega), ih]
      exact if_congr (by omega) rfl rfl

/-- A break of every paced sector counts once in each (R104). -/
theorem rd_paceBreakAll_count {x : Nat} (hx : x < 32) (hp : paced s x = true) :
    rd (paceBreakAll s) (E.pace_break_count + x) = cut (E.pace_break_count + x) (rd s (E.pace_break_count + x) + 1) := by
  unfold paceBreakAll
  rw [rd_foldl_paceBreak s hx, if_pos hx, rd_paceBreak_same s hx, if_pos hp]

theorem rd_paceBreakAll {k : Nat} (hk : k < E.pace_break_count) : rd (paceBreakAll s) k = rd s k :=
  foldl_keeps (rd · k) (fun t x => rd_paceBreak t (by omega) (hk.trans (by decide))) _ s

@[simp] theorem still_paceBreakAll : still (paceBreakAll s) = still s := foldl_keeps still (fun t x => still_paceBreak t x) _ s

theorem sector_paceBreak (x y : Nat) : sector (paceBreak s x) y = sector s y := by
  unfold sector; rw [sectors_of_still (still_paceBreak ..)]

/-! ## The reference in use -/

@[simp] theorem still_useExternal (ext : Bool) : still (useExternal s ext) = still s := by
  simp [useExternal, apply_ite still]

/-- The choice of a reference writes bit 1 of `timeref_status` (R89). -/
theorem bit_useExternal {j : Nat} (hj : j < 8) (ext : Bool) :
    bit (rd (useExternal s ext) E.timeref_status) j = if j = 1 then ext else bit (rd s E.timeref_status) j := by
  unfold useExternal
  dsimp only
  split
  · rename_i same
    split
    · rename_i e; rw [e]; exact eq_of_beq same
    · rfl
  · rw [rd_paceBreakAll _ (by decide), bit_wr_status s hj]

/-- Every other entry below the break counts is as it was. -/
theorem rd_useExternal {k : Nat} (hs : k ≠ E.timeref_status) (hk : k < E.pace_break_count) (ext : Bool) :
    rd (useExternal s ext) k = rd s k := by
  unfold useExternal
  dsimp only
  split
  · rfl
  · rw [rd_paceBreakAll _ hk, rd_wr_other s hs]

/-- A switch of the reference breaks the pace of every paced sector (R104). -/
theorem rd_useExternal_count {x : Nat} (hx : x < 32) {ext : Bool} (h : bit (rd s E.timeref_status) 1 ≠ ext)
    (hp : paced s x = true) : rd (useExternal s ext) (E.pace_break_count + x) =
      cut (E.pace_break_count + x) (rd s (E.pace_break_count + x) + 1) := by
  have pacing (v : Nat) : paced (wr s E.timeref_status v) x = true := by
    unfold paced
    rw [rd_wr_other s (by simp only [E.sector_pacing, E.timeref_status]; omega)]
    exact hp
  unfold useExternal
  dsimp only
  rw [if_neg (by simpa using h), rd_paceBreakAll_count _ hx (pacing _), rd_wr_other s (pace_break_count_ne (by decide) x)]

end Sys2Proof.Machine
end

section
/-! SUPPORT. The time reference: a fallback, a written source, edges that return (R66 to R68, R88, R89, R104). -/

namespace Sys2Proof.Machine

open Sys2Proof

variable (s : State)

/-! ## A fallback -/

/-- The machine when the edges of `TIMEREF_IN` are noted as bad, or as gone, before the reference in use changes (R88, R89). -/
def edgesBad (lost : Bool) : State :=
  wr { s with supply := { s.supply with timerefGood := false } } E.timeref_status
    (setBit (rd s E.timeref_status) 0 (!lost && bit (rd s E.timeref_status) 0))

/-- A fallback of the reference in use to the crystal, before its count and its alert: it stands, and the status says so (R67,
R89). -/
def fellBack : State :=
  let u := useExternal { s with supply := { s.supply with timerefFell := true } } false
  wr u E.timeref_status (setBit (rd u E.timeref_status) 2 true)

theorem bit_edgesBad {j : Nat} (hj : j < 8) (lost : Bool) : bit (rd (edgesBad s lost) E.timeref_status) j =
    if j = 0 then !lost && bit (rd s E.timeref_status) 0 else bit (rd s E.timeref_status) j := bit_wr_status _ hj ..

theorem rd_edgesBad {k : Nat} (h : k ≠ E.timeref_status) (lost : Bool) : rd (edgesBad s lost) k = rd s k :=
  rd_wr_other { s with supply := { s.supply with timerefGood := false } } h _

theorem bit_fellBack {j : Nat} (hj : j < 8) : bit (rd (fellBack s) E.timeref_status) j =
    if j = 2 then true else if j = 1 then false else bit (rd s E.timeref_status) j := by
  unfold fellBack
  rw [bit_wr_status _ hj, bit_useExternal _ hj]
  rfl

theorem rd_fellBack {k : Nat} (hs : k ≠ E.timeref_status) (hk : k < E.pace_break_count) : rd (fellBack s) k = rd s k := by
  unfold fellBack
  rw [rd_wr_other _ hs, rd_useExternal _ hs hk]
  rfl

theorem rd_fellBack_count {x : Nat} (hx : x < 32) (h : bit (rd s E.timeref_status) 1 = true) (hp : paced s x = true) :
    rd (fellBack s) (E.pace_break_count + x) = cut (E.pace_break_count + x) (rd s (E.pace_break_count + x) + 1) := by
  have switches : bit (rd s E.timeref_status) 1 ≠ false := by rw [h]; decide
  unfold fellBack
  rw [rd_wr_other _ (pace_break_count_ne (by decide) x)]
  exact rd_useExternal_count { s with supply := { s.supply with timerefFell := true } } hx switches hp

theorem fellBack_supply : (fellBack s).supply = { s.supply with timerefFell := true } := by
  unfold fellBack
  rw [wr_supply, supply_of_still (still_useExternal ..)]

/-- With the crystal in use, only the edges are noted. -/
theorem timerefFallback_of_crystal (lost : Bool) (h : bit (rd s E.timeref_status) 1 = false) :
    timerefFallback s lost = edgesBad s lost := if_neg (by rw [h]; decide)

/-- With `TIMEREF_IN` in use, the device falls back, counts it and raises alert 3 (R67, R90). -/
theorem timerefFallback_of_external (lost : Bool) (h : bit (rd s E.timeref_status) 1 = true) :
    timerefFallback s lost = setAlert (inc (fellBack (edgesBad s lost)) E.timeref_fallback_count) 8 := if_pos h

/-- After a fallback the crystal is in use, and bit 2 stands if `TIMEREF_IN` was in use (R89). -/
theorem bit_timerefFallback {j : Nat} (hj : j < 8) (lost : Bool) :
    bit (rd (timerefFallback s lost) E.timeref_status) j =
      if j = 2 then bit (rd s E.timeref_status) 1 || bit (rd s E.timeref_status) 2
      else if j = 1 then false
      else if j = 0 then !lost && bit (rd s E.timeref_status) 0 else bit (rd s E.timeref_status) j := by
  cases h : bit (rd s E.timeref_status) 1
  · rw [timerefFallback_of_crystal s lost h, bit_edgesBad s hj, Bool.false_or]
    by_cases two : j = 2
    · subst two; rfl
    by_cases one : j = 1
    · subst one; exact h
    · rw [if_neg two, if_neg one]
  · rw [timerefFallback_of_external s lost h, rd_setAlert_other _ (by decide), rd_inc_other _ (by decide), bit_fellBack _ hj,
      bit_edgesBad s hj, Bool.true_or]

theorem timerefFallback_supply (lost : Bool) : (timerefFallback s lost).supply = { s.supply with
    timerefGood := false, timerefFell := s.supply.timerefFell || bit (rd s E.timeref_status) 1 } := by
  cases h : bit (rd s E.timeref_status) 1
  · rw [timerefFallback_of_crystal s lost h, Bool.or_false]; rfl
  · rw [timerefFallback_of_external s lost h, supply_of_still (still_setAlert ..), supply_of_still (still_inc ..), fellBack_supply,
      Bool.or_true]
    rfl

/-- A fallback of the reference in use counts once, in its own count (R67). -/
theorem rd_timerefFallback_count (lost : Bool) (h : bit (rd s E.timeref_status) 1 = true) :
    rd (timerefFallback s lost) E.timeref_fallback_count = cut E.timeref_fallback_count (rd s E.timeref_fallback_count + 1) := by
  rw [timerefFallback_of_external s lost h, rd_setAlert_other _ (by decide), rd_inc_same, rd_fellBack _ (by decide) (by decide),
    rd_edgesBad s (by decide)]

/-- And as a break in every paced sector (R104). -/
theorem rd_timerefFallback_break (lost : Bool) (h : bit (rd s E.timeref_status) 1 = true) {x : Nat} (hx : x < 32)
    (hp : paced s x = true) : rd (timerefFallback s lost) (E.pace_break_count + x) =
      cut (E.pace_break_count + x) (rd s (E.pace_break_count + x) + 1) := by
  have pacing : paced (edgesBad s lost) x = true := by
    unfold paced
    rw [rd_edgesBad s (by simp only [E.sector_pacing, E.timeref_status]; omega)]
    exact hp
  have inUse : bit (rd (edgesBad s lost) E.timeref_status) 1 = true := (bit_edgesBad s (by decide) lost).trans h
  have noAlert : E.pace_break_count + x ≠ E.alert_status := pace_break_count_ne (by decide) x
  rw [timerefFallback_of_external s lost h, rd_setAlert_other _ noAlert, rd_inc_other _ (pace_break_count_ne (by decide) x),
    rd_fellBack_count _ hx inUse pacing, rd_edgesBad s (pace_break_count_ne (by decide) x)]

theorem leads_timerefFallback (lost : Bool) : Leads (.timerefFallback lost) s fun t =>
    t.supply = { s.supply with timerefGood := false, timerefFell := s.supply.timerefFell || bit (rd s E.timeref_status) 1 } ∧
      (lost = true → bit (rd t E.timeref_status) 0 = false) ∧ bit (rd t E.timeref_status) 1 = false ∧
      (bit (rd s E.timeref_status) 1 = true → bit (rd t E.timeref_status) 2 = true ∧ bit (rd t E.alert_status) 3 = true ∧
        (∀ x < 32, bit (rd s (E.sector_pacing + x)) 0 = true →
          rd t (E.pace_break_count + x) = cut (E.pace_break_count + x) (rd s (E.pace_break_count + x) + 1)) ∧
        rd t E.timeref_fallback_count = cut E.timeref_fallback_count (rd s E.timeref_fallback_count + 1)) := by
  refine leads_of_effect (u := timerefFallback s lost) rfl ?_ fun _ _ h => h
  refine ⟨timerefFallback_supply s lost, fun gone => ?_, bit_timerefFallback s (j := 1) (by decide) lost, fun inUse => ⟨?_, ?_,
    fun x hx hp => rd_timerefFallback_break s lost inUse hx hp, rd_timerefFallback_count s lost inUse⟩⟩
  · rw [bit_timerefFallback s (by decide), gone]; rfl
  · rw [bit_timerefFallback s (by decide), inUse]; rfl
  · rw [timerefFallback_of_external s lost inUse]
    exact bit_setAlert _ (by decide) (by decide)

/-! ## A written source -/

/-- A source of 0 or 1 passes every check of the entry (R861). -/
theorem checks_timerefSource (via : Path) {v : Nat} (hv : v < 2) : ∃ w,
    dictRow (E.timeref_source / 256) (E.timeref_source % 256) = some w ∧ w.acc ≠ .w1c ∧ checks s via true w timerefSourceSem 1 v = 0 := by
  refine ⟨⟨0x2012, 1, 1, 1, 1, 1, .rw, 3, false, 0⟩, by decide, by decide, ?_⟩
  simp [checks, permits, timerefSourceSem, plain, hv, Nat.le_of_lt_succ hv]

/-- A write of a source that the device serves has its effect, and answers result 0. -/
theorem access_timerefSource (via : Path) {v : Nat} (hs : Serves s E.timeref_source) (hv : v < 2) : ∃ a : DictAns,
    access s (writeBytes via E.timeref_source (leBytes 1 v)) timerefSourceSem = finish (timerefSource s v) a ∧ a.result = 0 := by
  obtain ⟨w, row, acc, passes⟩ := checks_timerefSource s via hv
  have inNoPartition : partitionEntry (E.timeref_source / 256) = false := by decide
  have value : leNat (leBytes 1 v) = v := by simp [leNat, leBytes]; omega
  have served : access s (writeBytes via E.timeref_source (leBytes 1 v)) timerefSourceSem = _ :=
    (access_of_serves _ (show E.timeref_source % 256 < 256 by decide) hs).trans
      (serve_accepted (by decide) (by decide) row (by rw [leBytes_length, value]; exact passes))
  rw [served, value, forwardWrite_eq _ (Or.inr (Or.inr inNoPartition)), accept, if_neg acc]
  exact ⟨_, rfl, rfl⟩

/-- The machine with a source written and no fallback standing, before the reference in use is chosen (R68, R88, R89). -/
def sourceWritten (v : Nat) : State :=
  let u := wr { s with supply := { s.supply with timerefFell := false } } E.timeref_source v
  wr u E.timeref_status (setBit (rd u E.timeref_status) 2 false)

theorem bit_sourceWritten {j : Nat} (hj : j < 8) (v : Nat) : bit (rd (sourceWritten s v) E.timeref_status) j =
    if j = 2 then false else bit (rd s E.timeref_status) j := by
  unfold sourceWritten
  rw [bit_wr_status _ hj, rd_wr_other _ (by decide)]
  rfl

theorem rd_sourceWritten {v : Nat} (hv : v < 2) : rd (sourceWritten s v) E.timeref_source = v := by
  unfold sourceWritten
  rw [rd_wr_other _ (by decide), rd_wr_same]
  exact Nat.mod_eq_of_lt (hv.trans (by decide))

theorem timerefSource_eq (v : Nat) : timerefSource s v =
    useExternal (sourceWritten s v) (v == 1 && bit (rd s E.timeref_status) 0 && s.supply.timerefGood) := by
  have edges : bit (rd (sourceWritten s v) E.timeref_status) 0 = bit (rd s E.timeref_status) 0 := bit_sourceWritten s (by decide) v
  rw [← edges]
  rfl

theorem leads_timerefSourceWrite (via : Path) {v : Nat} (hs : Serves s E.timeref_source) (hv : v < 2) :
    Leads (.timerefSourceWrite via (leBytes 1 v)) s fun t =>
      result t = 0 ∧ rd t E.timeref_source = v ∧ bit (rd t E.timeref_status) 2 = false ∧
        bit (rd t E.timeref_status) 1 = (v == 1 && bit (rd s E.timeref_status) 0 && s.supply.timerefGood) := by
  obtain ⟨a, served, good⟩ := access_timerefSource s via hs hv
  refine leads_of_effect (u := finish (timerefSource s v) a) (congrArg (done s) served) ?_ fun _ _ h => h
  have entry (k : Nat) : rd (finish (timerefSource s v) a) k = rd (timerefSource s v) k := rd_congr (finish_dict ..) k
  rw [entry, entry, timerefSource_eq]
  refine ⟨good, ?_, ?_, ?_⟩
  · rw [rd_useExternal _ (by decide) (by decide), rd_sourceWritten s hv]
  · rw [bit_useExternal _ (by decide), if_neg (by decide), bit_sourceWritten s (by decide), if_pos rfl]
  · rw [bit_useExternal _ (by decide), if_pos rfl]

/-! ## Edges that return -/

/-- The machine when edges of `TIMEREF_IN` are noted as present, good or bad (R66, R88). -/
def edgesSeen (good : Bool) : State :=
  let u := { s with supply := { s.supply with timerefGood := good } }
  wr u E.timeref_status (setBit (rd u E.timeref_status) 0 true)

theorem bit_edgesSeen {j : Nat} (hj : j < 8) (good : Bool) : bit (rd (edgesSeen s good) E.timeref_status) j =
    if j = 0 then true else bit (rd s E.timeref_status) j := bit_wr_status _ hj ..

theorem rd_edgesSeen {k : Nat} (h : k ≠ E.timeref_status) (good : Bool) : rd (edgesSeen s good) k = rd s k :=
  rd_wr_other { s with supply := { s.supply with timerefGood := good } } h _

/-- Edges too far from the crystal: the reference in use falls back (R67). -/
theorem timerefPresent_bad {ppm : Nat} (h : 100 < ppm) : timerefPresent s ppm = timerefFallback (edgesSeen s false) false := by
  have bad : decide (ppm ≤ 100) = false := decide_eq_false (by omega)
  unfold timerefPresent
  rw [bad]
  rfl

/-- Good edges are used where they are selected and no fallback stands (R66, R68). -/
theorem timerefPresent_good {ppm : Nat} (h : ppm ≤ 100) : timerefPresent s ppm =
    if rd s E.timeref_source = 1 ∧ s.supply.timerefFell = false then useExternal (edgesSeen s true) true else edgesSeen s true := by
  have good : decide (ppm ≤ 100) = true := decide_eq_true h
  have source : rd (edgesSeen s true) E.timeref_source = rd s E.timeref_source := rd_edgesSeen s (by decide) true
  unfold timerefPresent
  rw [good, ← source]
  exact (if_neg (by decide)).trans (if_congr (and_congr_right' (iff_of_eq (Bool.not_eq_true' _))) rfl rfl)

theorem leads_timerefInPresent (ppm : Nat) : Leads (.timerefInPresent ppm) s fun t =>
    t.supply.timerefGood = decide (ppm ≤ 100) ∧ bit (rd t E.timeref_status) 0 = true ∧
      bit (rd t E.timeref_status) 1 =
        (decide (ppm ≤ 100) && (bit (rd s E.timeref_status) 1 || (rd s E.timeref_source == 1 && !s.supply.timerefFell))) := by
  refine leads_of_effect (u := timerefPresent s ppm) rfl ?_ fun _ _ h => h
  by_cases h : ppm ≤ 100
  · rw [timerefPresent_good s h, decide_eq_true h, Bool.true_and]
    split
    · rename_i use
      rw [supply_of_still (still_useExternal ..), bit_useExternal _ (by decide), bit_useExternal _ (by decide),
        bit_edgesSeen s (by decide)]
      exact ⟨rfl, rfl, by simp [use]⟩
    · rename_i use
      rw [bit_edgesSeen s (by decide), bit_edgesSeen s (by decide)]
      have unused : (rd s E.timeref_source == 1 && !s.supply.timerefFell) = false := by simpa using use
      exact ⟨rfl, rfl, by rw [unused, Bool.or_false]; rfl⟩
  · rw [timerefPresent_bad s (by omega), decide_eq_false h, timerefFallback_supply, bit_timerefFallback _ (by decide),
      bit_timerefFallback _ (by decide), bit_edgesSeen s (j := 0) (by decide)]
    exact ⟨rfl, rfl, rfl⟩

end Sys2Proof.Machine
end

section
/-! SUPPORT. Setpoint trims, pacer locks, and the end of a level's ramp (R100, R104, R108 to R114, R129). -/

namespace Sys2Proof.Machine

open Sys2Proof

variable (s : State)

/-! ## Trims -/

theorem exec_canaryTrimTick {d : Nat} (hd : d < 41) (slack : Nat) :
    exec (.canaryTrimTick d slack) s = done s (canaryTrim s d slack) := guarded_of (decide_eq_true hd) s _

theorem exec_canaryAlarm {d : Nat} (hd : d < 41) (slack : Nat) :
    exec (.canaryAlarm d slack) s = done s (canaryAlarm s d slack) := guarded_of (decide_eq_true hd) s _

theorem exec_canaryTrimTick_moves {d slack : Nat} {mv : Int} (hd : d < 41) (h : canaryTrim s d slack = setTrim s d mv) :
    exec (.canaryTrimTick d slack) s = .next (wr s (E.domain_trim_mv + d) (i32 (max (-50) (min 25 mv)))) := by
  rw [exec_canaryTrimTick s hd, h, setTrim, done_wr]

/-- With trimming disabled, the setpoint is nominal (R112). -/
theorem canaryTrim_of_disabled (d slack : Nat) (h : rd s E.canary_trim_enable = 0) : canaryTrim s d slack = setTrim s d 0 :=
  if_pos h

/-- More slack than the target lowers the setpoint (R108). -/
theorem canaryTrim_of_gt {d slack : Nat} (h : rd s E.canary_trim_enable ≠ 0) (ht : 100 * rd s E.canary_target_slack_pct < slack) :
    canaryTrim s d slack = setTrim s d (ofI32 (rd s (E.domain_trim_mv + d)) - 5) := (if_neg h).trans (if_pos ht)

/-- Less slack than the target raises it (R108). -/
theorem canaryTrim_of_lt {d slack : Nat} (h : rd s E.canary_trim_enable ≠ 0) (ht : slack < 100 * rd s E.canary_target_slack_pct) :
    canaryTrim s d slack = setTrim s d (ofI32 (rd s (E.domain_trim_mv + d)) + 5) :=
  (if_neg h).trans ((if_neg (Nat.lt_asymm ht)).trans (if_pos ht))

theorem stays_canaryTrimTick {d slack : Nat} (hd : d < 41) (h : rd s E.canary_trim_enable ≠ 0)
    (ht : slack = 100 * rd s E.canary_target_slack_pct) : Stays (.canaryTrimTick d slack) s := by
  have same : canaryTrim s d slack = s := (if_neg h).trans ((if_neg ht.not_gt).trans (if_neg ht.not_lt))
  unfold Stays
  rw [exec_canaryTrimTick s hd, same, done_self]

/-- A slack below 3 % raises the setpoint by 10 mV, and counts (R110). -/
theorem exec_canaryAlarm_of_lt {d slack : Nat} (hd : d < 41) (h : slack < 300) : exec (.canaryAlarm d slack) s =
    .next (inc (wr s (E.domain_trim_mv + d) (i32 (max (-50) (min 25 (ofI32 (rd s (E.domain_trim_mv + d)) + 10)))))
      E.canary_alarm_count) := by
  rw [exec_canaryAlarm s hd, canaryAlarm, if_pos h]
  rfl

theorem stays_canaryAlarm {d slack : Nat} (hd : d < 41) (h : 300 ≤ slack) : Stays (.canaryAlarm d slack) s := by
  unfold Stays
  rw [exec_canaryAlarm s hd, canaryAlarm, if_neg (Nat.not_lt.2 h), done_self]

/-! ## Pacer locks -/

theorem exec_pacerLock {x : Nat} (hx : x < 32) : exec (.pacerLock x) s = done s (pacerLock s x) :=
  guarded_of (decide_eq_true hx) s _

theorem exec_pacerLock_powered {x : Nat} (hx : x < 32) (on : s.supply.mainOn = true) (h3 : domainState s x ≠ 3)
    (h4 : domainState s x ≠ 4) :
    exec (.pacerLock x) s = .next (wr s E.pacer_lock_status (setBit (rd s E.pacer_lock_status) x true)) := by
  rw [exec_pacerLock s hx, pacerLock, if_pos ⟨on, h3, h4⟩, done_wr]

theorem stays_pacerLock {x : Nat} (hx : x < 32) (h : s.supply.mainOn = false ∨ domainState s x = 3 ∨ domainState s x = 4) :
    Stays (.pacerLock x) s := by
  have off : ¬(s.supply.mainOn = true ∧ domainState s x ≠ 3 ∧ domainState s x ≠ 4) := by
    rintro ⟨on, h3, h4⟩
    rcases h with h | h | h
    · rw [h] at on; cases on
    · exact h3 h
    · exact h4 h
  unfold Stays
  rw [exec_pacerLock s hx, pacerLock, if_neg off, done_self]

/-! ## The end of a ramp -/

theorem exec_levelRampEnd {x : Nat} (hx : x < 32) : exec (.levelRampEnd x) s = done s (levelRampEnd s x) :=
  guarded_of (decide_eq_true hx) s _

/-- Sector x has reached level l: its regulator and its pacer have it, and a paced sector has counted the change (R104, R113,
R114). -/
def levelReached (x l : Nat) : State :=
  paceBreak (setSector s x { sector s x with ramp := none, pace := l, volt := l }) x

theorem levelRampEnd_eq {x l : Nat} (h : (sector s x).ramp = some l) : levelRampEnd s x =
    if rd s (E.sector_level + x) = l then levelReached s x l
    else startRamp (levelReached s x l) x (rd s (E.sector_level + x)) := by
  unfold levelRampEnd; rw [h]; rfl

theorem sector_levelReached (x l y : Nat) : sector (levelReached s x l) y =
    if y = x then { sector s x with ramp := none, pace := l, volt := l } else sector s y := by
  unfold levelReached; rw [sector_paceBreak, sector_setSector]

/-- Sector x after the end of its ramp to level l, where g is the granted level. -/
theorem sector_levelRampEnd {x l : Nat} (h : (sector s x).ramp = some l) (y : Nat) : sector (levelRampEnd s x) y =
    let g := rd s (E.sector_level + x)
    if y = x then { sector s x with ramp := if g = l then none else some g, pace := if g = l then l else max l g, volt := l }
    else sector s y := by
  rw [levelRampEnd_eq s h]
  dsimp only
  split
  · exact sector_levelReached ..
  · unfold startRamp
    dsimp only
    rw [sector_setSector, sector_levelReached, sector_levelReached, if_pos rfl]
    split <;> rfl

/-- The end of a ramp breaks the pace of its sector, if that is paced (R104). -/
theorem rd_levelRampEnd_break {x l : Nat} (hx : x < 32) (h : (sector s x).ramp = some l) :
    rd (levelRampEnd s x) (E.pace_break_count + x) = if bit (rd s (E.sector_pacing + x)) 0 then
      cut (E.pace_break_count + x) (rd s (E.pace_break_count + x) + 1) else rd s (E.pace_break_count + x) := by
  have reached : rd (levelRampEnd s x) (E.pace_break_count + x) = rd (levelReached s x l) (E.pace_break_count + x) := by
    rw [levelRampEnd_eq s h]
    split <;> rfl
  rw [reached, levelReached, rd_paceBreak_same _ hx]
  rfl

theorem leads_levelRampEnd {x l : Nat} (hx : x < 32) (h : (sector s x).ramp = some l) : Leads (.levelRampEnd x) s fun t =>
    let g := rd s (E.sector_level + x)
    (sector t x).ramp = (if g = l then none else some g) ∧ (sector t x).volt = l ∧
      (sector t x).pace = (if g = l then l else max l g) ∧ (∀ y, y ≠ x → sector t y = sector s y) ∧
      rd t (E.pace_break_count + x) = if bit (rd s (E.sector_pacing + x)) 0 then
        cut (E.pace_break_count + x) (rd s (E.pace_break_count + x) + 1) else rd s (E.pace_break_count + x) := by
  refine leads_of_effect (u := levelRampEnd s x) (exec_levelRampEnd s hx) ?_ fun _ _ h => h
  have other (y : Nat) (hy : y ≠ x) : sector (levelRampEnd s x) y = sector s y := by
    rw [sector_levelRampEnd s h]; exact if_neg hy
  have own := sector_levelRampEnd s h x
  dsimp only at own
  rw [if_pos rfl] at own
  rw [own]
  exact ⟨rfl, rfl, rfl, other, rd_levelRampEnd_break s hx h⟩

theorem stays_levelRampEnd {x : Nat} (hx : x < 32) (h : (sector s x).ramp = none) : Stays (.levelRampEnd x) s := by
  unfold Stays
  rw [exec_levelRampEnd s hx, levelRampEnd, h]
  exact done_self s

end Sys2Proof.Machine
end

section
/-! # Trims, the time reference, level changes and pacer locks -/

namespace Sys2Proof.Machine

/-- Settles O26: trims are the cases of `canaryTrim` and `canaryAlarm`; what a fallback, a written source and returning edges
leave is read off the bits of `timeref_status` (`bit_timerefFallback`, `bit_useExternal`) and the breaks that a switch counts
(`rd_useExternal_count`); the end of a ramp is `sector_levelRampEnd`. -/
theorem domainsTrim : Obligations.DomainsTrim := by
  unfold Obligations.DomainsTrim
  refine ⟨fun s d slack hd => ⟨?disabled, ?above, ?below, stays_canaryTrimTick s hd, exec_canaryAlarm_of_lt s hd,
    stays_canaryAlarm s hd⟩, fun s => ⟨leads_timerefFallback s, fun via _ => leads_timerefSourceWrite s via, leads_timerefInPresent s,
    fun x hx => ⟨exec_pacerLock_powered s hx, stays_pacerLock s hx, fun _ => leads_levelRampEnd s hx, stays_levelRampEnd s hx⟩⟩⟩
  case disabled => exact fun off => exec_canaryTrimTick_moves s hd (canaryTrim_of_disabled s d slack off)
  case above => exact fun on more => exec_canaryTrimTick_moves s hd (canaryTrim_of_gt s on more)
  case below => exact fun on less => exec_canaryTrimTick_moves s hd (canaryTrim_of_lt s on less)

end Sys2Proof.Machine
end

section
/-! SUPPORT. Fields of an entry, and a served write of a command entry (R861). -/

namespace Sys2Proof.Machine

open Sys2Proof

/-! ## Fields -/

/-- A value in three parts: what is above a field, the field, and what is below it. -/
theorem eq_parts (v lo w : Nat) : v = 2 ^ lo * (2 ^ w * (v / 2 ^ (lo + w)) + v / 2 ^ lo % 2 ^ w) + v % 2 ^ lo := by
  rw [Nat.pow_add, ← Nat.div_div_eq_div_mul, Nat.div_add_mod, Nat.div_add_mod]

/-- Writing a field replaces the middle part. -/
theorem setBits_eq_parts (v hi lo x : Nat) : setBits v hi lo x =
    2 ^ lo * (2 ^ (hi + 1 - lo) * (v / 2 ^ (lo + (hi + 1 - lo))) + x % 2 ^ (hi + 1 - lo)) + v % 2 ^ lo := by
  have parts := eq_parts v lo (hi + 1 - lo)
  unfold setBits bits
  rw [Nat.mul_add] at parts ⊢
  rw [Nat.mul_comm (v / 2 ^ lo % _), Nat.mul_comm (x % _)]
  omega

theorem testBit_setBits {hi lo : Nat} (h : lo ≤ hi) (v x i : Nat) :
    (setBits v hi lo x).testBit i = if lo ≤ i ∧ i ≤ hi then x.testBit (i - lo) else v.testBit i := by
  have inner : x % 2 ^ (hi + 1 - lo) < 2 ^ (hi + 1 - lo) := Nat.mod_lt _ (Nat.two_pow_pos _)
  rw [setBits_eq_parts, Nat.testBit_two_pow_mul_add _ (Nat.mod_lt _ (Nat.two_pow_pos lo)), Nat.testBit_two_pow_mul_add _ inner]
  by_cases below : i < lo
  · rw [if_pos below, if_neg (by omega), Nat.testBit_mod_two_pow, decide_eq_true below, Bool.true_and]
  by_cases within : i ≤ hi
  · rw [if_neg below, if_pos (by omega), if_pos (by omega), Nat.testBit_mod_two_pow,
      decide_eq_true (show i - lo < hi + 1 - lo by omega), Bool.true_and]
  · rw [if_neg below, if_neg (by omega), if_neg (by omega), Nat.testBit_div_two_pow]
    congr 1; omega

theorem testBit_bits (v hi lo i : Nat) : (bits v hi lo).testBit i = (decide (i < hi + 1 - lo) && v.testBit (lo + i)) := by
  unfold bits; rw [Nat.testBit_mod_two_pow, Nat.testBit_div_two_pow, Nat.add_comm lo]

/-- A field reads what was last written there, cut to its width. -/
theorem bits_setBits {hi lo : Nat} (h : lo ≤ hi) (v x : Nat) : bits (setBits v hi lo x) hi lo = x % 2 ^ (hi + 1 - lo) := by
  refine Nat.eq_of_testBit_eq fun i => ?_
  rw [testBit_bits, testBit_setBits h, Nat.testBit_mod_two_pow]
  by_cases within : i < hi + 1 - lo
  · rw [if_pos (by omega), Nat.add_sub_cancel_left]
  · rw [decide_eq_false within, Bool.false_and, Bool.false_and]

/-- Two values that agree on the bits of a field hold the same field. -/
theorem bits_congr {v w hi lo : Nat} (h : ∀ i, lo ≤ i → i ≤ hi → v.testBit i = w.testBit i) : bits v hi lo = bits w hi lo := by
  refine Nat.eq_of_testBit_eq fun i => ?_
  rw [testBit_bits, testBit_bits]
  by_cases within : i < hi + 1 - lo
  · rw [h (lo + i) (by omega) (by omega)]
  · rw [decide_eq_false within, Bool.false_and, Bool.false_and]

/-- A write of one field leaves every other. -/
theorem bits_setBits_other {hi lo hi' lo' : Nat} (h : lo ≤ hi) (apart : hi' < lo ∨ hi < lo') (v x : Nat) :
    bits (setBits v hi lo x) hi' lo' = bits v hi' lo' :=
  bits_congr fun i _ _ => by rw [testBit_setBits h, if_neg (by omega)]

theorem bit_setBits_other {hi lo j : Nat} (h : lo ≤ hi) (apart : j < lo ∨ hi < j) (v x : Nat) :
    bit (setBits v hi lo x) j = bit v j := by
  rw [bit_eq_testBit, bit_eq_testBit, testBit_setBits h, if_neg (by omega)]

theorem bits_setBit_other {hi lo j : Nat} (apart : j < lo ∨ hi < j) (v : Nat) (b : Bool) :
    bits (setBit v j b) hi lo = bits v hi lo :=
  bits_congr fun i _ _ => by
    have other := bit_setBit_other (show i ≠ j by omega) v b
    rwa [bit_eq_testBit, bit_eq_testBit] at other

/-- A field within the size of an entry is kept when the value is cut to it. -/
theorem bits_mod_two_pow {n hi : Nat} (h : hi < n) (v lo : Nat) : bits (v % 2 ^ n) hi lo = bits v hi lo :=
  bits_congr fun i _ _ => by rw [Nat.testBit_mod_two_pow, decide_eq_true (show i < n by omega), Bool.true_and]

/-! ## A served write of a command entry -/

section Served

variable {s : State} {via : Path} {k : Nat} {d : List Byte} {sem : EntrySem} {w : DRow}

theorem serves_key (hs : Serves s k) : Serves s (256 * (k / 256) + k % 256) := by rwa [Nat.div_add_mod]

/-- A served write that passes every check has its effect, once the leader of a pair has forwarded it. -/
theorem access_accepted (hs : Serves s k) (hi : k / 256 < 0xF000) (hsub : 1 ≤ k % 256)
    (row : dictRow (k / 256) (k % 256) = some w) (acc : w.acc ≠ .w1c)
    (passes : checks s via true w sem d.length (leNat d) = 0) :
    access s (writeBytes via k d) sem = ended (sem.eff (told s via k d) via (leNat d)) k 0 := by
  have served : access s (writeBytes via k d) sem = _ :=
    (access_of_serves _ (show k % 256 < 256 from Nat.mod_lt _ (by decide)) (serves_key hs)).trans
      (serve_accepted hi hsub row passes)
  rw [served, accept, if_neg acc, ended, row]
  rfl

/-- A served write that fails a check changes nothing but its answer. -/
theorem access_refused (hs : Serves s k) (hi : k / 256 < 0xF000) (hsub : 1 ≤ k % 256)
    (row : dictRow (k / 256) (k % 256) = some w) {r : Nat} (fails : checks s via true w sem d.length (leNat d) = r + 1) :
    access s (writeBytes via k d) sem = ended s k (r + 1) := by
  have served : access s (writeBytes via k d) sem = _ :=
    (access_of_serves _ (show k % 256 < 256 from Nat.mod_lt _ (by decide)) (serves_key hs)).trans
      (serve_refused hi hsub row fails)
  rw [served, ended, row]

end Served

/-- A write of a value is one of its bytes. -/
theorem writeOf_eq (via : Path) (k v : Nat) : writeOf via k v = writeBytes via k (leBytes (dictSize k) v) := by
  unfold writeOf writeBytes; rw [leBytes_length]

theorem hbm_of_still {s t : State} (h : still t = still s) : t.hbm = s.hbm :=
  show (still t).hbm = (still s).hbm from congrArg State.hbm h

theorem det_of_still {s t : State} (h : still t = still s) : t.det = s.det :=
  show (still t).det = (still s).det from congrArg State.det h

end Sys2Proof.Machine
end

section
/-! SUPPORT. Tests and repairs of HBM: their starts, and their ends (R207 to R212). -/

namespace Sys2Proof.Machine

open Sys2Proof

variable (s : State)

/-! ## Starts -/

/-- What a command to `hbm_repair_cmd` holds fits its 4 bytes. -/
theorem leNat_repairValue {op pc : Nat} (ho : op < 16) (hp : pc < 512) :
    leNat (leBytes (dictSize E.hbm_repair_cmd) (op * 2 ^ 28 + pc)) = op * 2 ^ 28 + pc := by
  rw [leNat_leBytes]
  exact Nat.mod_eq_of_lt (show _ < 256 ^ 4 by omega)

theorem checks_repair (via : Path) (v : Nat) : ∃ w, dictRow (E.hbm_repair_cmd / 256) (E.hbm_repair_cmd % 256) = some w ∧
    w.acc ≠ .w1c ∧ checks s via true w repairSem 4 v = if s.hbm.op = none then 0 else 4 + 1 := by
  refine ⟨⟨0x3009, 1, 1, 1, 3, 4, .cmd, 1, false, 0⟩, by decide, by decide, ?_⟩
  cases h : s.hbm.op <;> simp [checks, permits, repairSem, command, hbmBusy, h]

theorem told_repair (via : Path) (d : List Byte) : told s via E.hbm_repair_cmd d = s :=
  forwardWrite_eq _ (Or.inr (Or.inr (show partitionEntry (E.hbm_repair_cmd / 256) = false by decide)))

/-- While an operation runs, a request ends with result 5 (R209). -/
theorem repairCmd_busy (via : Path) (op pc : Nat) (hs : Serves s E.hbm_repair_cmd) (busy : s.hbm.op ≠ none) :
    repairCmd op via pc s = ended s E.hbm_repair_cmd 5 := by
  obtain ⟨w, row, -, fails⟩ := checks_repair s via (leNat (leBytes (dictSize E.hbm_repair_cmd) (op * 2 ^ 28 + pc)))
  rw [if_neg busy] at fails
  rw [repairCmd, writeOf_eq]
  exact access_refused hs (by decide) (by decide) row (by rw [leBytes_length]; exact fails)

/-- Otherwise it is accepted. -/
theorem repairCmd_idle (via : Path) {op pc : Nat} (ho : op < 16) (hp : pc < 512) (hs : Serves s E.hbm_repair_cmd)
    (idle : s.hbm.op = none) :
    repairCmd op via pc s = ended (repairStart s (op * 2 ^ 28 + pc)) E.hbm_repair_cmd 0 := by
  obtain ⟨w, row, acc, passes⟩ := checks_repair s via (leNat (leBytes (dictSize E.hbm_repair_cmd) (op * 2 ^ 28 + pc)))
  rw [if_pos idle] at passes
  rw [repairCmd, writeOf_eq, access_accepted hs (by decide) (by decide) row acc (by rw [leBytes_length]; exact passes), told_repair,
    leNat_repairValue ho hp]
  rfl

/-- A request is started, or refused, by its op and its pseudo-channel (R207, R208). -/
theorem repairStart_eq {op pc : Nat} (ho : op < 16) (hp : pc < 512) : repairStart s (op * 2 ^ 28 + pc) =
    if repairOk s op pc then
      wr { s with hbm := { s.hbm with op := some (.repair op pc) } } E.hbm_repair_status
        (setBit (setBits (rd s E.hbm_repair_status) 3 2 0) 0 true)
    else wr s E.hbm_repair_status (setBits (rd s E.hbm_repair_status) 3 2 3) := by
  have opField : bits (op * 2 ^ 28 + pc) 31 28 = op := by unfold bits; omega
  have pcField : bits (op * 2 ^ 28 + pc) 8 0 = pc := by unfold bits; omega
  unfold repairStart
  rw [opField, pcField]

/-- What a write of an op of `hbm_repair_cmd` does, where `ok` says that the request may run. -/
theorem repair_starts {n : Instr} {via : Path} {op pc : Nat} {ok : Prop} (ho : op < 16) (hp : pc < 512)
    (hn : exec n s = guarded (decide (pc < 512)) s (repairCmd op via pc s)) (allowed : repairOk s op pc = true ↔ ok)
    (hs : Serves s E.hbm_repair_cmd) :
    (s.hbm.op ≠ none → exec n s = .next (ended s E.hbm_repair_cmd 5)) ∧
    (s.hbm.op = none → ok → Accepts n s E.hbm_repair_cmd
      (wr { s with hbm := { s.hbm with op := some (.repair op pc) } } E.hbm_repair_status
        (setBit (setBits (rd s E.hbm_repair_status) 3 2 0) 0 true))) ∧
    (s.hbm.op = none → ¬ok → Accepts n s E.hbm_repair_cmd
      (wr s E.hbm_repair_status (setBits (rd s E.hbm_repair_status) 3 2 3))) := by
  rw [guarded_of (decide_eq_true hp)] at hn
  refine ⟨fun busy => ?busy, fun idle may => ?starts, fun idle mayNot => ?refused⟩
  case busy => rw [hn, repairCmd_busy s via op pc hs busy]; rfl
  case starts =>
    rw [Accepts, hn, repairCmd_idle s via ho hp hs idle, repairStart_eq s ho hp, if_pos (allowed.2 may)]; rfl
  case refused =>
    rw [Accepts, hn, repairCmd_idle s via ho hp hs idle, repairStart_eq s ho hp, if_neg (mt allowed.1 mayNot)]; rfl

/-- A test and a soft or hard repair need their pseudo-channel out (R207, R208). -/
theorem repairOk_single {op : Nat} (ho : op = 1 ∨ op = 3 ∨ op = 4) (pc : Nat) :
    repairOk s op pc = true ↔ slotOfPc pc ∈ s.hbm.out := by
  rcases ho with rfl | rfl | rfl <;> simp [repairOk]

/-- A lane repair needs both pseudo-channels of the channel out (R208). -/
theorem repairOk_lane (pc : Nat) :
    repairOk s 2 pc = true ↔ slotOfPc (pc / 2 * 2) ∈ s.hbm.out ∧ slotOfPc (pc / 2 * 2 + 1) ∈ s.hbm.out := by
  simp [repairOk, channelOut]

/-! ## Ends -/

/-- What the end of op writes to `hbm_repair_status`, over the value st (R210, R212). -/
def repairWord (st op : Nat) (passed : Bool) (rows : List Nat) (spares : Nat) : Nat :=
  setBits (setBits (setBit (if op = 1 then setBits st 23 16 (rows.take 64).length else st) 0 false) 3 2 (if passed then 1 else 2))
    31 24 spares

/-- The failing rows of the latest test of a pseudo-channel. -/
def failedRows (pc : Nat) : List Nat := ((Tab.get none s.hbm.tested pc).map Prod.snd).getD []

/-- The records of HBM that the end of op leaves: a test's result and rows, and a repair that passed (R210, R211). -/
def repairRecords (op pc : Nat) (passed : Bool) (rows : List Nat) : Hbm :=
  if op = 1 then { s.hbm with tested := Tab.set none s.hbm.tested pc (some (passed, rows.take 64)) }
  else if passed = false then s.hbm
  else if op = 2 then { s.hbm with hard := s.hbm.hard ++ [(2, pc, 0)] }
  else if op = 3 then { s.hbm with hard := s.hbm.hard ++ (failedRows s pc).map fun r => (3, pc, r) }
  else { s.hbm with soft := s.hbm.soft ++ (failedRows s pc).map fun r => (pc, r) }

variable (passed : Bool) (rows : List Nat) (spares : Nat)

/-- An operation that no forced map-out awaits just ends (R209). -/
theorem endHbmOp_eq (h : s.hbm.waiting = []) : endHbmOp s = { s with hbm := { s.hbm with op := none, waiting := [] } } := by
  unfold endHbmOp; rw [h]; rfl

theorem mem_withHbm (v : Hbm) : { s with hbm := v }.mem = s.mem := rfl

theorem repairRecords_out (op pc : Nat) : (repairRecords s op pc passed rows).out = s.hbm.out := by
  unfold repairRecords; repeat' split
  all_goals rfl

theorem repairRecords_waiting (op pc : Nat) : (repairRecords s op pc passed rows).waiting = s.hbm.waiting := by
  unfold repairRecords; repeat' split
  all_goals rfl

theorem repairDone_eq {op pc : Nat} (h : s.hbm.op = some (.repair op pc)) (h1 : 1 ≤ op) (h4 : op ≤ 4) (hw : s.hbm.waiting = []) :
    repairDone s passed rows spares =
      { wr s E.hbm_repair_status (repairWord (rd s E.hbm_repair_status) op passed rows spares) with
        hbm := { repairRecords s op pc passed rows with op := none, waiting := [] } } := by
  have ends : repairDone s passed rows spares =
      endHbmOp (wr { s with hbm := repairRecords s op pc passed rows } E.hbm_repair_status
        (repairWord (rd s E.hbm_repair_status) op passed rows spares)) := by
    unfold repairDone
    rw [h]
    obtain rfl | rfl | rfl | rfl : op = 1 ∨ op = 2 ∨ op = 3 ∨ op = 4 := by omega
    all_goals cases passed <;> rfl
  rw [ends, endHbmOp_eq _ (by rw [wr_hbm]; exact (repairRecords_waiting ..).trans hw)]
  rfl

/-! ### What the status reports -/

theorem bit_repairWord (st op : Nat) : bit (repairWord st op passed rows spares) 0 = false := by
  unfold repairWord
  rw [bit_setBits_other (by decide) (by decide), bit_setBits_other (by decide) (by decide), bit_setBit]

theorem bits_repairWord_result (st op : Nat) : bits (repairWord st op passed rows spares) 3 2 = if passed then 1 else 2 := by
  unfold repairWord
  rw [bits_setBits_other (by decide) (by decide), bits_setBits (by decide)]
  cases passed <;> rfl

theorem bits_repairWord_spares (st op : Nat) : bits (repairWord st op passed rows spares) 31 24 = spares % 256 :=
  bits_setBits (by decide) ..

theorem bits_repairWord_rows (st : Nat) : bits (repairWord st 1 passed rows spares) 23 16 = (rows.take 64).length := by
  have atMost := List.length_take_le 64 rows
  unfold repairWord
  rw [bits_setBits_other (by decide) (by decide), bits_setBits_other (by decide) (by decide), bits_setBit_other (by decide), if_pos rfl,
    bits_setBits (by decide)]
  exact Nat.mod_eq_of_lt (by omega)

/-! ### What is recorded -/

theorem repairRecords_test (pc : Nat) : Tab.get none (repairRecords s 1 pc passed rows).tested pc = some (passed, rows.take 64) := by
  have tested : (repairRecords s 1 pc passed rows).tested = Tab.set none s.hbm.tested pc (some (passed, rows.take 64)) := rfl
  rw [tested, Tab.get_set_same]

theorem repairRecords_lane (pc : Nat) :
    (repairRecords s 2 pc passed rows).hard = if passed then s.hbm.hard ++ [(2, pc, 0)] else s.hbm.hard := by
  cases passed <;> rfl

theorem repairRecords_hard (pc : Nat) : (repairRecords s 3 pc passed rows).hard =
    if passed then s.hbm.hard ++ (failedRows s pc).map (fun r => (3, pc, r)) else s.hbm.hard := by
  cases passed <;> rfl

theorem repairRecords_soft (pc : Nat) : (repairRecords s 4 pc passed rows).soft =
    if passed then s.hbm.soft ++ (failedRows s pc).map (fun r => (pc, r)) else s.hbm.soft := by
  cases passed <;> rfl

theorem leads_hbmRepairDone {op pc : Nat} (h : s.hbm.op = some (.repair op pc)) (h1 : 1 ≤ op) (h4 : op ≤ 4)
    (hw : s.hbm.waiting = []) : Leads (.hbmRepairDone passed rows spares) s fun t =>
      let failed := ((Tab.get none s.hbm.tested pc).map Prod.snd).getD []
      t.hbm.op = none ∧ t.hbm.out = s.hbm.out ∧ t.mem = s.mem ∧ EntriesBut s t [E.hbm_repair_status] ∧
      bit (rd t E.hbm_repair_status) 0 = false ∧
      bits (rd t E.hbm_repair_status) 3 2 = (if passed then 1 else 2) ∧
      bits (rd t E.hbm_repair_status) 31 24 = spares % 256 ∧
      (op = 1 → Tab.get none t.hbm.tested pc = some (passed, rows.take 64) ∧
        bits (rd t E.hbm_repair_status) 23 16 = (rows.take 64).length) ∧
      (op = 2 → t.hbm.hard = if passed then s.hbm.hard ++ [(2, pc, 0)] else s.hbm.hard) ∧
      (op = 3 → t.hbm.hard = if passed then s.hbm.hard ++ failed.map (fun r => (3, pc, r)) else s.hbm.hard) ∧
      (op = 4 → t.hbm.soft = if passed then s.hbm.soft ++ failed.map (fun r => (pc, r)) else s.hbm.soft) := by
  refine leads_of_effect (u := repairDone s passed rows spares) rfl ?_ fun _ _ h => h
  have entry (k : Nat) : rd (repairDone s passed rows spares) k =
      rd (wr s E.hbm_repair_status (repairWord (rd s E.hbm_repair_status) op passed rows spares)) k :=
    rd_congr (by rw [repairDone_eq s passed rows spares h h1 h4 hw]) k
  have word : rd (repairDone s passed rows spares) E.hbm_repair_status =
      repairWord (rd s E.hbm_repair_status) op passed rows spares % 2 ^ 32 := by
    rw [entry]; exact rd_wr_same ..
  have field {hi : Nat} (hlt : hi < 32) (lo : Nat) : bits (rd (repairDone s passed rows spares) E.hbm_repair_status) hi lo =
      bits (repairWord (rd s E.hbm_repair_status) op passed rows spares) hi lo := by
    rw [word, bits_mod_two_pow hlt]
  have records : (repairDone s passed rows spares).hbm = { repairRecords s op pc passed rows with op := none, waiting := [] } := by
    rw [repairDone_eq s passed rows spares h h1 h4 hw]
  dsimp only
  rw [records, field (by decide), field (by decide), field (by decide)]
  refine ⟨rfl, repairRecords_out .., ?memory, fun k hk => ?others, ?ended, bits_repairWord_result .., bits_repairWord_spares ..,
    ?test, ?lane, ?hard, ?soft⟩
  case memory => rw [repairDone_eq s passed rows spares h h1 h4 hw, mem_withHbm, wr_mem]
  case others => rw [entry]; exact rd_wr_other s (by simpa using hk) _
  case ended =>
    rw [word, bit_mod_two_pow _ (by decide), bit_repairWord]
  case test => rintro rfl; exact ⟨repairRecords_test .., bits_repairWord_rows ..⟩
  case lane => rintro rfl; exact repairRecords_lane ..
  case hard => rintro rfl; exact repairRecords_hard ..
  case soft => rintro rfl; exact repairRecords_soft ..

end Sys2Proof.Machine
end

section
/-! SUPPORT. The throttling steps of a stack (R213 to R215). -/

namespace Sys2Proof.Machine

open Sys2Proof

variable (s : State)

theorem stepEntry_eq {k : Nat} (h : 1 ≤ k) : stepEntry s k = 10 * rd s E.hbm_throttle_c + 20 * (k - 1) := by
  unfold stepEntry; omega

/-- The highest step entered is at or above k exactly when step k is entered. -/
theorem le_throttleUp (T : Int) {k : Nat} (hk : 1 ≤ k) (n : Nat) : k ≤ throttleUp s T n ↔ k ≤ n ∧ stepEntry s k ≤ T := by
  induction n with
  | zero => simp only [throttleUp]; omega
  | succ n ih =>
    have entry := stepEntry_eq s hk
    have next := stepEntry_eq s (Nat.le_add_left 1 n)
    rw [throttleUp]
    split
    · omega
    · rw [ih]
      by_cases top : k = n + 1
      · subst top; omega
      · omega

/-- From step n, the step that is left standing is at or above k exactly when step k was reached and is not left. -/
theorem le_throttleDown (T : Int) {k : Nat} (hk : 1 ≤ k) (n : Nat) :
    k ≤ throttleDown s T n ↔ k ≤ n ∧ stepEntry s k - 20 < T := by
  induction n with
  | zero => simp only [throttleDown]; omega
  | succ n ih =>
    have entry := stepEntry_eq s hk
    have next := stepEntry_eq s (Nat.le_add_left 1 n)
    rw [throttleDown]
    split
    · rw [ih]
      by_cases top : k = n + 1
      · subst top; omega
      · omega
    · omega

/-- The step that a stack is in after temperature T. -/
def stepAfter (c : Nat) (T : Int) : Nat := max (throttleUp s T 5) (throttleDown s T (min (rd s (E.hbm_throttle_step + c)) 5))

theorem le_stepAfter (c : Nat) (T : Int) {k : Nat} (hk : 1 ≤ k) : k ≤ stepAfter s c T ↔
    k ≤ 5 ∧ (stepEntry s k ≤ T ∨ (k ≤ rd s (E.hbm_throttle_step + c) ∧ stepEntry s k - 20 < T)) := by
  rw [stepAfter, le_max_iff, le_throttleUp s T hk, le_throttleDown s T hk]
  omega

theorem stepAfter_le (c : Nat) (T : Int) : stepAfter s c T ≤ 5 := by
  by_contra above
  have := (le_stepAfter s c T (by decide : 1 ≤ 6)).1 (by omega)
  omega

theorem thermalTick_eq (c : Nat) (T : Int) : thermalTick s c T =
    let u := wr s (E.hbm_throttle_step + c) (stepAfter s c T)
    if stackThrottled u then setAlert u 2 else u := rfl

theorem still_thermalTick (c : Nat) (T : Int) : still (thermalTick s c T) = still s := by
  rw [thermalTick_eq]
  simp [apply_ite still]

theorem rd_thermalTick_other (c : Nat) (T : Int) {k : Nat} (h : k ≠ E.alert_status) :
    rd (thermalTick s c T) k = rd (wr s (E.hbm_throttle_step + c) (stepAfter s c T)) k := by
  rw [thermalTick_eq]
  dsimp only
  split
  · exact rd_setAlert_other _ h _
  · rfl

theorem throttle_step_ne_alert_status {c : Nat} (hc : c < 16) : E.hbm_throttle_step + c ≠ E.alert_status := by
  simp only [E.hbm_throttle_step, E.alert_status]; omega

theorem rd_thermalTick_step {c : Nat} (hc : c < 16) (T : Int) :
    rd (thermalTick s c T) (E.hbm_throttle_step + c) = stepAfter s c T := by
  have size : ∀ c < 16, dictSize (E.hbm_throttle_step + c) = 1 := by decide
  have small := stepAfter_le s c T
  rw [rd_thermalTick_other s c T (throttle_step_ne_alert_status hc), rd_wr_same, size c hc]
  exact Nat.mod_eq_of_lt (by omega)

/-- A stack above step 0 alerts (R215). -/
theorem bit_thermalTick_alert {c : Nat} (hc : c < 16) (T : Int) (h : rd (thermalTick s c T) (E.hbm_throttle_step + c) ≠ 0) :
    bit (rd (thermalTick s c T) E.alert_status) 1 = true := by
  rw [rd_thermalTick_other s c T (throttle_step_ne_alert_status hc)] at h
  have throttled : stackThrottled (wr s (E.hbm_throttle_step + c) (stepAfter s c T)) = true :=
    List.any_eq_true.2 ⟨c, List.mem_range.2 hc, bne_iff_ne.2 h⟩
  rw [thermalTick_eq]
  dsimp only
  rw [if_pos throttled]
  exact bit_setAlert _ (by decide) (by decide)

theorem leads_hbmThermalTick {c : Nat} (hc : c < 16) (T : Int) : Leads (.hbmThermalTick c T) s fun t =>
    let before := rd s (E.hbm_throttle_step + c)
    let after := rd t (E.hbm_throttle_step + c)
    let entry := fun (k : Nat) => (10 * rd s E.hbm_throttle_c + 20 * (k - 1) : Int)
    after ≤ 5 ∧ (∀ k, 1 ≤ k → k ≤ 5 → (entry k ≤ T → k ≤ after) ∧ (T ≤ entry k - 20 → after < k) ∧
      (entry k - 20 < T → T < entry k → (k ≤ after ↔ k ≤ before))) ∧
    (after ≠ 0 → bit (rd t E.alert_status) 1 = true) ∧ t.mem = s.mem ∧ t.cores = s.cores ∧ t.hbm = s.hbm ∧
    EntriesBut s t [E.hbm_throttle_step + c, E.alert_status] := by
  refine leads_of_effect (u := thermalTick s c T) (guarded_of (decide_eq_true hc) s _) ?_ fun _ _ h => h
  have kept := still_thermalTick s c T
  refine ⟨?_, fun k h1 h5 => ?steps, bit_thermalTick_alert s hc T, mem_of_still kept, cores_of_still kept, hbm_of_still kept,
    fun k hk => ?others⟩
  · rw [rd_thermalTick_step s hc]; exact stepAfter_le s c T
  case steps =>
    have reached := le_stepAfter s c T h1
    rw [stepEntry_eq s h1] at reached
    rw [rd_thermalTick_step s hc]
    dsimp only
    omega
  case others =>
    obtain ⟨notStep, notAlert⟩ : k ≠ E.hbm_throttle_step + c ∧ k ≠ E.alert_status := by simpa using hk
    rw [rd_thermalTick_other s c T notAlert, rd_wr_other s notStep]

end Sys2Proof.Machine
end

section
/-! # Tests, repairs and throttling of HBM -/

namespace Sys2Proof.Machine

/-- Settles O30: a request is one access of `hbm_repair_cmd` (`repair_starts`), the end of an operation leaves `repairRecords` and
`repairWord`, and step k of a stack is in force as `le_stepAfter` says. -/
theorem hbmServices : Obligations.HbmServices := by
  unfold Obligations.HbmServices
  refine ⟨fun s via pc hp => ⟨?test, ?lane, ?hard, ?soft, ?ends⟩, fun s c T hc => leads_hbmThermalTick s hc T⟩
  case test => exact repair_starts s (by decide) hp rfl (repairOk_single s (.inl rfl) pc)
  case lane => exact repair_starts s (by decide) hp rfl (repairOk_lane s pc)
  case hard => exact repair_starts s (by decide) hp rfl (repairOk_single s (.inr (.inl rfl)) pc)
  case soft => exact repair_starts s (by decide) hp rfl (repairOk_single s (.inr (.inr rfl)) pc)
  case ends => exact fun op passed rows spares h h1 h4 hw => leads_hbmRepairDone s passed rows spares h h1 h4 hw

end Sys2Proof.Machine
end

section
/-! SUPPORT. The line of an update at a memory-side adder: its elements before and after (R217 to R221). -/

namespace Sys2Proof.Machine

open Sys2Proof

/-- Element i of what is put together from pieces of n bytes is the piece of i. -/
theorem take_drop_flatMap {α : Type} (f : α → List Byte) (n : Nat) {l : List α} (h : ∀ a ∈ l, (f a).length = n) {i : Nat}
    (hi : i < l.length) : ((l.flatMap f).drop (n * i)).take n = f l[i] := by
  induction l generalizing i with
  | nil => cases hi
  | cons a l ih =>
    have first := h a List.mem_cons_self
    rw [List.flatMap_cons]
    cases i with
    | zero => exact List.take_left' first
    | succ i =>
      rw [Nat.mul_succ, Nat.add_comm, ← List.drop_drop, List.drop_left' first]
      exact ih (fun b hb => h b (List.mem_cons_of_mem a hb)) (Nat.lt_of_succ_lt_succ hi)

/-- Bytes within a longer read. -/
theorem take_drop_rdBytes (s : State) (a : Nat) {m o n : Nat} (h : o + n ≤ m) :
    ((rdBytes s a m).drop o).take n = rdBytes s (a + o) n := by
  obtain ⟨r, rfl⟩ := Nat.exists_eq_add_of_le h
  rw [rdBytes_append, rdBytes_append, List.append_assoc, List.drop_left' (rdBytes_length ..), List.take_left' (rdBytes_length ..)]

/-- One element of a line after an update (R218 to R221). -/
def addedElem (op mask q : Nat) (operand old : List Byte) (i : Nat) : List Byte :=
  let n := addElem op
  let m := (old.drop (n.1 * i)).take n.1
  if bit mask i then leBytes n.1 (addOne op q (leNat m) (leNat ((operand.drop (n.2 * i)).take n.2))) else m

theorem addLine_eq (op mask q : Nat) (operand old : List Byte) :
    addLine op mask q operand old = (List.range (64 / (addElem op).1)).flatMap (addedElem op mask q operand old) := rfl

/-- Memory elements have 4 bytes or 8. -/
theorem addElem_fst (op : Nat) : (addElem op).1 = 4 ∨ (addElem op).1 = 8 := by
  unfold addElem
  repeat' split
  all_goals simp

/-- Every memory element lies within its line. -/
theorem addElem_within {op i : Nat} (hi : i < 64 / (addElem op).1) : (addElem op).1 * i + (addElem op).1 ≤ 64 := by
  rcases addElem_fst op with e | e <;> rw [e] at hi ⊢ <;> omega

theorem addedElem_length (op mask q : Nat) (operand : List Byte) {old : List Byte} (hold : old.length = 64) {i : Nat}
    (hi : i < 64 / (addElem op).1) : (addedElem op mask q operand old i).length = (addElem op).1 := by
  unfold addedElem
  dsimp only
  split
  · exact leBytes_length ..
  · have within := addElem_within hi
    rw [List.length_take, List.length_drop, hold]
    omega

/-- An updated line is a line. -/
theorem addLine_length (op mask q : Nat) (operand : List Byte) {old : List Byte} (hold : old.length = 64) :
    (addLine op mask q operand old).length = 64 := by
  have each : ∀ i ∈ List.range (64 / (addElem op).1), (addedElem op mask q operand old i).length = (addElem op).1 :=
    fun i hi => addedElem_length op mask q operand hold (List.mem_range.1 hi)
  rw [addLine_eq, List.length_flatMap, List.map_congr_left each, List.map_const', List.sum_replicate, List.length_range]
  rcases addElem_fst op with e | e <;> rw [e] <;> rfl

theorem take_drop_addLine (op mask q : Nat) (operand : List Byte) {old : List Byte} (hold : old.length = 64) {i : Nat}
    (hi : i < 64 / (addElem op).1) :
    ((addLine op mask q operand old).drop ((addElem op).1 * i)).take (addElem op).1 = addedElem op mask q operand old i := by
  rw [addLine_eq, take_drop_flatMap (addedElem op mask q operand old) _
    (fun j hj => addedElem_length op mask q operand hold (List.mem_range.1 hj)) (by rwa [List.length_range]), List.getElem_range]

end Sys2Proof.Machine
end

section
/-! SUPPORT. What an update at a memory-side adder changes of the machine (R222, R223, R830, R831). -/

namespace Sys2Proof.Machine

open Sys2Proof

variable (s : State)

/-! ## A line that is read -/

/-- A read of HBM is clean, or it answers 0x0303 or 0x0304 (R186, R202). -/
theorem hbmStatus_fst (a n : Nat) (ecc : Ecc) :
    (hbmStatus s a n ecc).1 = 0 ∨ (hbmStatus s a n ecc).1 = 0x0303 ∨ (hbmStatus s a n ecc).1 = 0x0304 := by
  unfold hbmStatus
  repeat' split
  all_goals simp

/-- The errors of a clean read change nothing but a count. -/
theorem noteEcc_of_clean {a n : Nat} {ecc : Ecc} (h : (hbmStatus s a n ecc).1 = 0) : ∃ d, noteEcc s a ecc = { s with dict := d } := by
  cases ecc with
  | clean => exact ⟨_, rfl⟩
  | corrected => exact ⟨_, rfl⟩
  | uncorrectable =>
    have twice : ¬storedOnce s a = true := by
      intro once
      rw [hbmStatus, if_pos (.inl ⟨rfl, once⟩)] at h
      cases h
    exact ⟨s.dict, if_neg twice⟩

/-- A store in HBM writes its bytes, and may remove marks of lost granules. -/
theorem hbmStore_eq (a : Nat) (d : List Byte) : ∃ v, hbmStore s a d = { wrBytes s a d with hbm := v } := by
  unfold hbmStore clearLost
  dsimp only
  repeat' split
  all_goals exact ⟨_, rfl⟩

theorem sent_countDev (ev i n : Nat) : (countDev s ev i n).sent = s.sent := by
  refine foldl_keeps State.sent (fun t j => ?_) _ s
  unfold countAt
  dsimp only
  split <;> rfl

/-! ## One update -/

/-- The machine t has come from s by an update of the line at a, which left the bytes d there. -/
structure Updated (s t : State) (a : Nat) (d : List Byte) : Prop where
  mem : t.mem = (wrBytes s a d).mem
  sent : t.sent = s.sent
  cores : t.cores = s.cores
  held : t.det.held = s.det.held

section Updated

variable {s} {t : State} {a : Nat} {d : List Byte}

/-- A counter that follows changes none of this. -/
theorem Updated.countDev (h : Updated s t a d) (ev i n : Nat) : Updated s (countDev t ev i n) a d where
  mem := (mem_of_still (still_countDev ..)).trans h.mem
  sent := (sent_countDev ..).trans h.sent
  cores := (cores_of_still (still_countDev ..)).trans h.cores
  held := (congrArg Det.held (det_of_still (still_countDev ..))).trans h.held

theorem Updated.rdByte_other (h : Updated s t a d) {b : Nat} (hb : b < a ∨ a + d.length ≤ b) : rdByte t b = rdByte s b := by
  rw [rdByte_congr h.mem, rdByte_wrBytes, if_neg (by omega)]

theorem Updated.rdBytes_line (h : Updated s t a d) : rdBytes t a d.length = d := by
  rw [rdBytes_congr h.mem, rdBytes_wrBytes]

end Updated

/-- A line written, beside a change of counts and marks, and noted as updated last. -/
theorem updated_noteLine (e : Tab Nat) (v : Hbm) (a : Nat) (d : List Byte) (key : Option (Nat × Nat × Nat)) :
    Updated s (noteLine { wrBytes { s with dict := e } a d with hbm := v } a key) a d := ⟨rfl, rfl, rfl, rfl⟩

variable (u : HeldAdd) (q : Nat)

/-- The line of an update after it. -/
def lineAfter : List Byte := addLine u.op u.mask q u.operand (rdBytes s u.line 64)

theorem lineAfter_length : (lineAfter s u q).length = 64 := addLine_length _ _ _ _ (rdBytes_length ..)

/-- An update of a line that can be read. -/
theorem updated_applyAdd {ecc : Ecc} (h : (hbmStatus s u.line 64 ecc).1 = 0) :
    Updated s (applyAdd s u q ecc) u.line (lineAfter s u q) := by
  obtain ⟨d, noted⟩ := noteEcc_of_clean s h
  obtain ⟨v, stored⟩ := hbmStore_eq { s with dict := d } u.line (lineAfter s u q)
  unfold applyAdd
  rw [if_neg (not_not.2 h), noted]
  dsimp only [Mem.hbm]
  rw [← lineAfter, stored]
  exact (updated_noteLine ..).countDev ..

/-- Element i of the line after an update. -/
theorem rdBytes_applyAdd {ecc : Ecc} (h : (hbmStatus s u.line 64 ecc).1 = 0) {i : Nat} (hi : i < 64 / (addElem u.op).1) :
    rdBytes (applyAdd s u q ecc) (u.line + (addElem u.op).1 * i) (addElem u.op).1 =
      addedElem u.op u.mask q u.operand (rdBytes s u.line 64) i := by
  have line := (updated_applyAdd s u q h).rdBytes_line
  rw [lineAfter_length] at line
  rw [← take_drop_rdBytes _ _ (addElem_within hi), line]
  exact take_drop_addLine _ _ _ _ (rdBytes_length ..) hi

/-- An update whose read meets no new error leaves a line that cannot be read as it is (R223). -/
theorem applyAdd_unreadable (h : (hbmStatus s u.line 64 .clean).1 ≠ 0) : applyAdd s u q .clean = s := if_pos h

/-- Such an update writes counters alone. -/
theorem rd_applyAdd_clean {k : Nat} (hk : k < E.dpc_value) : rd (applyAdd s u q .clean) k = rd s k := by
  by_cases h : (hbmStatus s u.line 64 .clean).1 = 0
  · obtain ⟨v, stored⟩ := hbmStore_eq s u.line (lineAfter s u q)
    unfold applyAdd
    rw [if_neg (not_not.2 h), rd_countDev _ hk]
    dsimp only [Mem.hbm, noteEcc]
    rw [← lineAfter, stored]
    rfl
  · rw [applyAdd_unreadable s u q h]

theorem applyAdd_clean_held : (applyAdd s u q .clean).det.held = s.det.held := by
  by_cases h : (hbmStatus s u.line 64 .clean).1 = 0
  · exact (updated_applyAdd s u q h).held
  · rw [applyAdd_unreadable s u q h]

theorem rdByte_applyAdd_clean {b : Nat} (hb : b < u.line ∨ u.line + 64 ≤ b) : rdByte (applyAdd s u q .clean) b = rdByte s b := by
  by_cases h : (hbmStatus s u.line 64 .clean).1 = 0
  · exact (updated_applyAdd s u q h).rdByte_other (by rwa [lineAfter_length])
  · rw [applyAdd_unreadable s u q h]

/-! ## Held updates -/

theorem mem_insertHeld {v u : HeldAdd} {l : List HeldAdd} (h : v ∈ insertHeld u l) : v = u ∨ v ∈ l := by
  induction l with
  | nil => simpa [insertHeld] using h
  | cons w l ih =>
    rw [insertHeld] at h
    split at h
    · rcases List.mem_cons.1 h with rfl | h
      · exact .inr List.mem_cons_self
      · exact (ih h).imp_right (List.mem_cons_of_mem w)
    · exact List.mem_cons.1 h

/-- Putting updates in order adds none. -/
theorem mem_of_mem_inOrder {v : HeldAdd} {l : List HeldAdd} (h : v ∈ inOrder l) : v ∈ l := by
  have grown : ∀ (l t : List HeldAdd), v ∈ l.foldl (fun t u => insertHeld u t) t → v ∈ t ∨ v ∈ l := by
    intro l
    induction l with
    | nil => exact fun t h => .inl h
    | cons u l ih =>
      intro t h
      rcases ih _ h with h | h
      · exact (mem_insertHeld h).symm.imp_right fun e => List.mem_cons.2 (.inl e)
      · exact .inr (List.mem_cons_of_mem u h)
  exact (grown l [] h).resolve_left List.not_mem_nil

variable (f : HeldAdd → Bool)

/-- What a flush leaves held. -/
theorem flushHeld_held : (flushHeld s f).det.held = s.det.held.filter fun u => !f u :=
  foldl_keeps (fun t : State => t.det.held) (fun t u => applyAdd_clean_held t u 0) _ (noteHeld s _)

/-- `ord_held` counts what is left. -/
theorem rd_flushHeld : rd (flushHeld s f) E.ord_held = cut E.ord_held (s.det.held.filter fun u => !f u).length :=
  (foldl_keeps (rd · E.ord_held) (fun t u => rd_applyAdd_clean t u 0 (by decide)) _ (noteHeld s _)).trans (rd_wr_same ..)

/-- A byte in none of the lines that a flush updates. -/
theorem rdByte_flushHeld {b : Nat} (hb : ∀ u ∈ s.det.held, f u = true → b < u.line ∨ u.line + 64 ≤ b) :
    rdByte (flushHeld s f) b = rdByte s b := by
  refine foldl_keeps_of_mem (rdByte · b) (fun u hu t => ?_) (noteHeld s (s.det.held.filter fun u => !f u))
  obtain ⟨isHeld, named⟩ := List.mem_filter.1 (mem_of_mem_inOrder hu)
  exact rdByte_applyAdd_clean t u 0 (hb u isHeld named)

/-! ## Requests of this device -/

/-- The update that a request of this device asks for. -/
def askedAdd (r : AddUpdate) : HeldAdd := ⟨contributor s r.who, r.addr, r.op, r.mask.toNat, r.operand⟩

/-- The line of a request is one that its requester may write (R217, R189). -/
def LineAllowed (r : AddUpdate) : Prop := r.addr % 64 = 0 ∧ hbmInside s r.addr 64 = true ∧ hbmAllowed s r.who true r.addr = true

variable {s} {r : AddUpdate}

theorem adderRequest_badOp (h : r.op = 0 ∨ 7 < r.op) : adderRequest s r = emit s (.status 0x0105 false []) := if_pos h

theorem lineAllowed_iff : LineAllowed s r ↔
    ¬(r.addr % 64 ≠ 0 ∨ (!hbmInside s r.addr 64) = true ∨ (!hbmAllowed s r.who true r.addr) = true) := by
  simp [LineAllowed]

theorem adderRequest_refused (h1 : 1 ≤ r.op) (h7 : r.op ≤ 7) (hl : ¬LineAllowed s r) :
    adderRequest s r = emit s (.status 0x0302 false []) := by
  unfold adderRequest
  rw [if_neg (by omega), if_pos (not_not.1 (mt lineAllowed_iff.2 hl))]
  rfl

/-- An update within the filter of a bound core, of a line that can be read, is refused (R528). -/
theorem adderRequest_filtered (h1 : 1 ≤ r.op) (h7 : r.op ≤ 7) (hl : LineAllowed s r) (clean : (hbmStatus s r.addr 64 r.ecc).1 = 0)
    (inside : inFilter s r.addr r.who = true) : adderRequest s r = emit s (.status 0x0505 false []) := by
  unfold adderRequest
  rw [if_neg (by omega), if_neg (lineAllowed_iff.1 hl)]
  exact if_pos ⟨inside, clean⟩

/-- Any other answers what the update of its line does. -/
theorem adderRequest_updates (h1 : 1 ≤ r.op) (h7 : r.op ≤ 7) (hl : LineAllowed s r)
    (hf : ¬(inFilter s r.addr r.who = true ∧ (hbmStatus s r.addr 64 r.ecc).1 = 0)) {t : State} {code : Nat} {old : List Byte}
    (h : adderUpdate s (askedAdd s r) r.q.toNat r.wantOld r.ecc = (t, code, old)) :
    adderRequest s r = emit t (.status code (decide (code = 0x0303 ∨ code = 0x0304)) (if r.wantOld then old else [])) := by
  unfold adderRequest
  rw [if_neg (by omega), if_neg (lineAllowed_iff.1 hl)]
  dsimp only
  rw [if_neg hf, ← askedAdd, h]
  rfl

/-- An integer update is applied at once. -/
theorem adderUpdate_integer {v : HeldAdd} (h1 : 1 ≤ v.op) (h7 : v.op ≤ 7) (hi : ¬(3 ≤ v.op ∧ v.op ≤ 6)) (q : Nat) (wantOld : Bool)
    (ecc : Ecc) : adderUpdate s v q wantOld ecc = (applyAdd s v q ecc, (hbmStatus s v.line 64 ecc).1, rdBytes s v.line 64) := by
  have integer : isFloatAdd v.op = false := decide_eq_false hi
  unfold adderUpdate
  rw [if_neg (by omega), integer]
  rfl

/-- A float update of a partition in an ordered mode, which asks for no old line, is held while there is room (R830). -/
theorem adderUpdate_held {v : HeldAdd} (hf : 3 ≤ v.op ∧ v.op ≤ 6)
    (ordered : ((sharePartition s v.line).map fun p => rd s (E.det_mode + p)).getD 0 ≠ 0)
    (room : heldAt s (stackAt s v.line) < 8192) (q : Nat) (ecc : Ecc) :
    adderUpdate s v q false ecc = (noteHeld s (s.det.held ++ [v]), 0, []) := by
  unfold adderUpdate
  rw [if_neg (by omega)]
  exact if_pos ⟨decide_eq_true hf, ordered, rfl, room⟩

/-! ### What each answers -/

theorem leads_adderUpdate_integer (h1 : 1 ≤ r.op) (h7 : r.op ≤ 7) (hi : ¬(3 ≤ r.op ∧ r.op ≤ 6)) (hl : LineAllowed s r)
    (clean : (hbmStatus s r.addr 64 r.ecc).1 = 0) (outside : inFilter s r.addr r.who = false) :
    Leads (.adderUpdate r) s fun t => t.sent = .status 0 false (if r.wantOld then rdBytes s r.addr 64 else []) :: s.sent ∧
      (∀ b, b < r.addr ∨ r.addr + 64 ≤ b → rdByte t b = rdByte s b) ∧ t.cores = s.cores ∧ t.det.held = s.det.held ∧
      ∀ i < 64 / (addElem r.op).1, rdBytes t (r.addr + (addElem r.op).1 * i) (addElem r.op).1 =
        addedElem r.op r.mask.toNat r.q.toNat r.operand (rdBytes s r.addr 64) i := by
  have updated := updated_applyAdd s (askedAdd s r) r.q.toNat clean
  have answer := adderRequest_updates h1 h7 hl (fun h => by rw [outside] at h; cases h.1)
    (adderUpdate_integer (v := askedAdd s r) h1 h7 hi r.q.toNat r.wantOld r.ecc)
  have code : (hbmStatus s (askedAdd s r).line 64 r.ecc).1 = 0 := clean
  rw [code] at answer
  refine leads_of_effect (congrArg (done s) answer) ⟨?sent, fun b hb => ?bytes, updated.cores, updated.held, fun i hi => ?elements⟩
    fun _ _ h => h
  case sent => rw [sent_emit, updated.sent]; rfl
  case bytes => exact updated.rdByte_other (by rwa [lineAfter_length])
  case elements => exact rdBytes_applyAdd s (askedAdd s r) r.q.toNat clean hi

theorem leads_adderUpdate_unreadable (h1 : 1 ≤ r.op) (h7 : r.op ≤ 7) (hi : ¬(3 ≤ r.op ∧ r.op ≤ 6)) (hl : LineAllowed s r)
    (bad : (hbmStatus s r.addr 64 r.ecc).1 ≠ 0) : Leads (.adderUpdate r) s fun t =>
      t.sent.head? = some (.status (hbmStatus s r.addr 64 r.ecc).1 true (if r.wantOld then rdBytes s r.addr 64 else [])) := by
  have marked : decide ((hbmStatus s r.addr 64 r.ecc).1 = 0x0303 ∨ (hbmStatus s r.addr 64 r.ecc).1 = 0x0304) = true :=
    decide_eq_true ((hbmStatus_fst s r.addr 64 r.ecc).resolve_left bad)
  have answer := adderRequest_updates h1 h7 hl (fun h => bad h.2)
    (adderUpdate_integer (v := askedAdd s r) h1 h7 hi r.q.toNat r.wantOld r.ecc)
  refine leads_of_effect (congrArg (done s) answer) ?_ fun _ _ h => h
  rw [sent_emit, ← marked]
  rfl

theorem leads_adderUpdate_held (hf : 3 ≤ r.op ∧ r.op ≤ 6) (hl : LineAllowed s r)
    (ordered : ((sharePartition s r.addr).map fun p => rd s (E.det_mode + p)).getD 0 ≠ 0) (noOld : r.wantOld = false)
    (room : heldAt s (stackAt s r.addr) < 8192)
    (passes : ¬(inFilter s r.addr r.who = true ∧ (hbmStatus s r.addr 64 r.ecc).1 = 0)) :
    Leads (.adderUpdate r) s fun t => t.mem = s.mem ∧ t.sent = .status 0 false [] :: s.sent ∧
      t.det.held = s.det.held ++ [⟨contributor s r.who, r.addr, r.op, r.mask.toNat, r.operand⟩] := by
  have held := adderUpdate_held (v := askedAdd s r) hf ordered room r.q.toNat r.ecc
  rw [← noOld] at held
  have answer := adderRequest_updates (by omega) (by omega) hl passes held
  rw [noOld] at answer
  exact leads_of_effect (congrArg (done s) answer) ⟨rfl, rfl, rfl⟩ fun _ _ h => h

/-! ## `ord_flush` -/

/-- A flush of a partition in an ordered mode passes every check of the entry (R831, R861). -/
theorem checks_ordFlush (via : Path) {p : Nat} (hp : p < 32) (mode : rd s (E.det_mode + p) ≠ 0) : ∃ w,
    dictRow (E.ord_flush / 256) (E.ord_flush % 256) = some w ∧ w.acc ≠ .w1c ∧ checks s via true w ordFlushSem 1 p = 0 := by
  refine ⟨⟨0xA004, 1, 0x01, 0x01, 1, 1, .cmd, 1, false, 0⟩, by decide, by decide, ?_⟩
  simp [checks, permits, ordFlushSem, command, hp, mode]

/-- The leader of a pair may send a write on: nothing else changes (R622). -/
theorem told_eq (via : Path) (k : Nat) (d : List Byte) : ∃ l, told s via k d = { s with sent := l } := by
  unfold told forwardWrite
  split <;> exact ⟨_, rfl⟩

theorem leads_ordFlush (via : Path) {p : Nat} (hp : p < 32) (hs : Serves s E.ord_flush) (mode : rd s (E.det_mode + p) ≠ 0) :
    Leads (.ordFlush via (leBytes 1 p)) s fun t => result t = 0 ∧
      (t.det.held = s.det.held.filter fun h => sharePartition s h.line != some p) ∧
      rd t E.ord_held = cut E.ord_held t.det.held.length ∧
      ∀ b, (∀ h ∈ s.det.held, sharePartition s h.line = some p → b < h.line ∨ h.line + 64 ≤ b) → rdByte t b = rdByte s b := by
  obtain ⟨w, row, acc, passes⟩ := checks_ordFlush via hp mode
  obtain ⟨l, forwarded⟩ := told_eq (s := s) via E.ord_flush (leBytes 1 p)
  have value : leNat (leBytes 1 p) = p := by rw [leNat_leBytes]; omega
  have served := access_accepted (via := via) hs (by decide) (by decide) row acc
    (show checks s via true w ordFlushSem (leBytes 1 p).length (leNat (leBytes 1 p)) = 0 by rw [leBytes_length, value]; exact passes)
  rw [forwarded, value] at served
  have held : (flushPart { s with sent := l } p).det.held = s.det.held.filter fun h => sharePartition s h.line != some p :=
    flushHeld_held { s with sent := l } _
  refine leads_of_effect (congrArg (done s) served) ⟨?answer, held, ?count, fun b hb => ?bytes⟩ fun _ _ h => h
  case answer => rw [ended, row]; rfl
  case count => exact (rd_flushHeld { s with sent := l } _).trans (congrArg (fun m => cut E.ord_held (List.length m)) held.symm)
  case bytes => exact rdByte_flushHeld { s with sent := l } _ fun u hu hf => hb u hu (eq_of_beq hf)

end Sys2Proof.Machine
end

section
/-! # Memory-side adders -/

namespace Sys2Proof.Machine

open Sys2Proof

/-- Bytes of an element of an integer update, in memory and in the operand (R217). -/
theorem addElem_integer {op : Nat} (h1 : 1 ≤ op) (h7 : op ≤ 7) (hi : ¬(3 ≤ op ∧ op ≤ 6)) :
    addElem op = (if op = 1 then 4 else 8, if op = 1 then 4 else 8) := by
  obtain rfl | rfl | rfl : op = 1 ∨ op = 2 ∨ op = 7 := by omega
  all_goals rfl

/-- The sums of R218 to R220: modulo 2^32, 2^64, or q, where q of 0 stands for 2^64. -/
theorem addOne_integer {op : Nat} (h1 : 1 ≤ op) (h7 : op ≤ 7) (hi : ¬(3 ≤ op ∧ op ≤ 6)) (q : BitVec 64) (m v : Nat) :
    addOne op q.toNat m v = if op = 1 then (m + v) % 2 ^ 32 else if op = 2 then (m + v) % 2 ^ 64
      else (m + v) % (if q = 0 then 2 ^ 64 else q.toNat) := by
  have zero : q.toNat = 0 ↔ q = 0 := ⟨fun h => BitVec.eq_of_toNat_eq h, fun h => by rw [h]; rfl⟩
  obtain rfl | rfl | rfl : op = 1 ∨ op = 2 ∨ op = 7 := by omega
  case inr.inr => simp only [addOne, zero]; rfl
  all_goals rfl

/-- An element after an update, as a number. -/
theorem leNat_addedElem (op mask q : Nat) (operand old : List Byte) (i : Nat) :
    leNat (addedElem op mask q operand old i) =
      let n := addElem op
      let m := leNat ((old.drop (n.1 * i)).take n.1)
      if bit mask i then addOne op q m (leNat ((operand.drop (n.2 * i)).take n.2)) % 2 ^ (8 * n.1) else m := by
  unfold addedElem
  dsimp only
  split
  · rw [leNat_leBytes, Nat.pow_mul]
  · rfl

/-- Settles O31: a request is refused, updates its line at once or is held (`adderRequest_updates`, `adderUpdate_integer`,
`adderUpdate_held`); an updated line is read element by element (`rdBytes_applyAdd`), and a flush writes the lines of the updates
that it names alone (`rdByte_flushHeld`). -/
theorem addersUpdate : Obligations.AddersUpdate := by
  unfold Obligations.AddersUpdate
  intro s r _
  refine ⟨fun h => ?badOp, fun h1 h7 hl => ?refused, fun h1 h7 hl clean inside => ?filtered,
    fun h1 h7 hi hl clean outside => ?integer, leads_adderUpdate_unreadable, leads_adderUpdate_held,
    fun via p hp hs mode => leads_ordFlush via hp hs mode⟩
  case badOp => exact congrArg (done s) (adderRequest_badOp h)
  case refused => exact congrArg (done s) (adderRequest_refused h1 h7 hl)
  case filtered => exact congrArg (done s) (adderRequest_filtered h1 h7 hl clean inside)
  case integer =>
    obtain ⟨t, runs, sent, bytes, cores, held, elements⟩ := leads_adderUpdate_integer h1 h7 hi hl clean outside
    refine ⟨t, runs, sent, bytes, cores, held, fun i hlt => ?_⟩
    rw [addElem_integer h1 h7 hi] at elements
    dsimp only at elements hlt ⊢
    have within := addElem_within (op := r.op) (i := i) (by rwa [addElem_integer h1 h7 hi])
    rw [addElem_integer h1 h7 hi] at within
    rw [rdNat, elements i hlt, leNat_addedElem, addElem_integer h1 h7 hi]
    dsimp only
    rw [addOne_integer h1 h7 hi, take_drop_rdBytes _ _ within]
    rfl

end Sys2Proof.Machine
end

section
/-! SUPPORT. What holds the control core back, and its two C2 instructions (R238, R272, R274, R278, R281, R284). -/

namespace Sys2Proof.Machine

open Sys2Proof

/-! ## A table written twice -/

/-- A second entry for a key takes the place of the first, in whatever order the table stands. -/
theorem Tab.insert_insert {α : Type} (t : Tab α) (k : Nat) (v w : α) : (t.insert k v).insert k w = t.insert k w := by
  induction t with
  | nil => simp [Tab.insert]
  | cons e t ih =>
    by_cases same : e.1 = k
    · simp [Tab.insert, same]
    by_cases before : k < e.1
    · simp [Tab.insert, same, before]
    · simp [Tab.insert, same, before, ih]

/-- Removing a key removes its entry, if one was just listed, with the rest. -/
theorem Tab.erase_insert {α : Type} (t : Tab α) (k : Nat) (v : α) : (t.insert k v).erase k = t.erase k := by
  induction t with
  | nil => simp [Tab.insert, Tab.erase]
  | cons e t ih =>
    by_cases same : e.1 = k
    · simp [Tab.insert, Tab.erase, same]
    by_cases before : k < e.1
    · simp [Tab.insert, Tab.erase, same, before]
    · simp [Tab.insert, Tab.erase, same, before, ih]

/-- Only the last write of a key counts. The first must list the key: a removal would take what a table that is not in
canonical form lists twice. -/
theorem Tab.set_set {α : Type} [DecidableEq α] {d v : α} (listed : v ≠ d) (t : Tab α) (k : Nat) (w : α) :
    Tab.set d (Tab.set d t k v) k w = Tab.set d t k w := by
  simp only [set, listed, if_false, insert_insert, erase_insert]

theorem setCore_setCore {v : Core} (h : v ≠ Core.init) (s : State) (c : Nat) (w : Core) :
    setCore (setCore s c v) c w = setCore s c w := by
  simp only [setCore, Tab.set_set h]

/-! ## Nothing in flight -/

/-- A core that may issue is not as reset leaves it: it runs. -/
theorem core_ne_init {s : State} {c : Nat} (h : ControlFree s c) : core s c ≠ Core.init := by
  obtain ⟨_, runs, _, _⟩ := h
  intro reset
  simp [coreRuns, reset, Core.init] at runs

/-- No event comes before beat 0. -/
theorem retire_zero (s : State) (c : Nat) : retire s c 0 = onCore s c fun k => k.releaseBefore 0 := by
  unfold retire retireN
  dsimp only
  split
  · rfl
  · exact if_neg (Nat.not_lt_zero _)

/-- Without an operation there is no tile to release. -/
theorem releaseBefore_idle {k : Core} (h : k.ops = []) (a : Nat) : k.releaseBefore a = k := by
  simp only [Core.releaseBefore, h, List.filter_nil, List.flatMap_nil, List.foldl_nil, List.map_nil]
  rw [← h]

theorem retire_zero_idle {s : State} {c : Nat} (h : (core s c).ops = []) : retire s c 0 = setCore s c (core s c) := by
  rw [retire_zero, onCore, releaseBefore_idle h]

/-! ## What holds -/

/-- A command of a core that the part has, whose effect is that the core takes a record, ends with it alone. -/
theorem exec_setCore {n : Instr} {s t : State} {c : Nat} {k : Core} (runs : exec n s = guarded (decide (c < 800)) s t)
    (hc : c < 800) (takes : t = setCore s c k) : exec n s = .next (setCore s c k) := by
  rw [runs, guarded_of (decide_eq_true hc), takes, done_setCore]

theorem blockBusy_iff {s : State} {c : Nat} : (core s c).blockBusy = true ↔ ¬BlocksIdle s c := by
  unfold Core.blockBusy BlocksIdle
  rw [← not_iff_not]
  simp

section
variable {s : State} {c : Nat} (h : ControlFree s c)
include h

/-- What waits for the end of the blocks holds while one runs or is pending (R274, R278). -/
theorem betweenBlocks_busy (busy : ¬BlocksIdle s c) (f : Core → Nat → State) : betweenBlocks s c f = hold s c := by
  rw [betweenBlocks, controlCore_free h, if_pos (blockBusy_iff.2 busy)]

/-- `HALT` lets the blocks end first, by the model's reading (log 51). -/
theorem halt_busy (busy : ¬BlocksIdle s c) (isDefined : ctlDefined (halfWord32 s c (core s c).pc) = true) (i : CIns) :
    halt s c i = hold s c := by
  rw [halt, controlCore_free h, isDefined, if_neg (by decide), if_pos (blockBusy_iff.2 busy)]

/-- `WAITB` holds while a block runs, unless it knows the status of one that ran at its beat (R272, R275). -/
theorem waitb_running (running : (core s c).block ≠ none)
    (unknown : (core s c).ended.find? (fun e => decide ((core s c).cbeat < e.1)) = none) (i : CIns) :
    waitb s c i = hold s c := by
  rw [waitb, controlCore_free h]
  simp only [unknown]
  exact if_pos (Option.isSome_iff_ne_none.2 running)

/-- `RUNB` and `RUNC` outside C2 mode hold while a block is pending (R238). -/
theorem runBlock_pending (native : (core s c).c2 = false) (pending : (core s c).pendBlock ≠ none) (f xa xb : Nat) :
    runBlock s c f xa xb = hold s c := by
  rw [runBlock, controlCore_free h]
  simp only [native]
  rw [if_neg (by decide), if_pos (Option.isSome_iff_ne_none.2 pending)]

/-- `PMWAIT` holds while an `LDPM` runs (R272). -/
theorem pmwait_copying (copying : (core s c).ldpm ≠ none) (i : CIns) : pmwait s c i = hold s c := by
  rw [pmwait, controlCore_free h, if_pos (Option.isSome_iff_ne_none.2 copying)]

/-! ## C2 mode -/

section
variable (c2 : (core s c).c2 = true)
include c2

/-- `ENQ` to a unit that C2 mode has pushes its command, unless the queue is full (R281). -/
theorem enq_unit {i : CIns} (unit : imm14 i % 8 ≤ 4) : enq s c i =
    if 16 ≤ (Tab.get [] (core s c).c2q (imm14 i % 8)).length then hold s c
    else setCore s c { (core s c).onward (core s c).cbeat 1 with
      c2q := Tab.set [] (core s c).c2q (imm14 i % 8)
        (Tab.get [] (core s c).c2q (imm14 i % 8) ++ [(core s c).x i.xa + 2 ^ 64 * ((core s c).pc / 2)]) } := by
  rw [enq, controlCore_free h]
  exact if_neg (by simp [c2, unit])

/-- `WAITE` with no transfer, no operation and no command in a queue returns at once (R284). -/
theorem waite_idle (xfers : (core s c).xfers = []) (ops : (core s c).ops = [])
    (queues : ∀ n < 5, Tab.get [] (core s c).c2q n = []) (i : CIns) : waite s c i =
    setCore s c { ((core s c).onward (max (core s c).cbeat (core s c).beat) 1).setX i.xd (core s c).c2Status with
      c2Status := 0, c2Stopped := 0 } := by
  have idle : (core s c).c2Idle = true := by
    simp only [Core.c2Idle, xfers, List.isEmpty_nil, Bool.true_and, List.all_eq_true, List.mem_range]
    intro q hq
    simp [queues q hq]
  rw [waite, controlCore_free h, if_neg (by simp [c2]), if_neg (by simp [idle])]
  simp only [ops, List.map_nil, List.foldl_nil, retire_zero_idle ops]
  rw [onCore, core_setCore_same, setCore_setCore (core_ne_init h)]

end
end

@[simp] theorem setX_pc (k : Core) (i v : Nat) : (k.setX i v).pc = k.pc := by
  unfold Core.setX; split <;> rfl

@[simp] theorem setX_cbeat (k : Core) (i v : Nat) : (k.setX i v).cbeat = k.cbeat := by
  unfold Core.setX; split <;> rfl

/-- The unit that `ENQ` names stands in the low bits of its 14-bit immediate. -/
theorem imm14_mod_eight (i : CIns) : imm14 i % 8 = i.imm.toNat % 8 :=
  Nat.mod_mod_of_dvd _ (by decide)

/-- Settles O10: whatever waits has `hold` as its effect (`betweenBlocks_busy` and the lemmas after it); an `ENQ` that a queue has
room for pushes its command (`enq_unit`), and a `WAITE` that finds nothing to wait for changes its core's record alone
(`waite_idle`). -/
theorem controlWaits : Obligations.ControlWaits := by
  unfold Obligations.ControlWaits
  refine ⟨fun s c i free => ?waits, fun s c i free c2 => ⟨fun unit room => ?push, fun xfers ops queues => ?idle⟩⟩
  case waits =>
    have between := betweenBlocks_busy free
    have hc := free.1
    refine ⟨fun busy => ⟨exec_setCore rfl hc (between busy _), exec_setCore rfl hc (between busy _),
        exec_setCore rfl hc (between busy _), fun isDefined => exec_setCore rfl hc (halt_busy free busy isDefined i)⟩,
      fun running unknown => exec_setCore rfl hc (waitb_running free running unknown i),
      fun native pending => ⟨exec_setCore rfl hc (runBlock_pending free native pending ..),
        exec_setCore rfl hc (runBlock_pending free native pending ..)⟩,
      fun copying => exec_setCore rfl hc (pmwait_copying free copying i),
      fun c2 unit full => exec_setCore rfl hc ?_⟩
    rw [← imm14_mod_eight] at unit full
    exact (enq_unit free c2 unit).trans (if_pos full)
  case push =>
    rw [← imm14_mod_eight] at unit room ⊢
    exact ⟨_, exec_setCore rfl free.1 ((enq_unit free c2 unit).trans (if_neg (Nat.not_le.2 room))), onlyCore_set ..,
      core_setCore_same ..⟩
  case idle =>
    refine ⟨_, exec_setCore rfl free.1 (waite_idle free c2 xfers ops queues i), onlyCore_set .., ?_⟩
    rw [core_setCore_same]
    exact ⟨rfl, rfl, setX_pc .., setX_cbeat .., x_setX ((core s c).onward _ 1) i.xd (core s c).c2Status⟩

end Sys2Proof.Machine
end

section
/-! SUPPORT. The reduction of R303, powers, and the residues of the element-wise operations (R303 to R305, R875). -/

namespace Sys2Proof.Machine

open Sys2Proof

/-! ## Bit lengths -/

theorem two_pow_bitLen_le {n : Nat} (h : n ≠ 0) : 2 ^ (bitLen n - 1) ≤ n := by
  rw [bitLen, if_neg h, Nat.add_sub_cancel]
  exact Nat.log2_self_le h

theorem lt_two_pow_bitLen (n : Nat) : n < 2 ^ bitLen n := by
  unfold bitLen
  split
  · omega
  · exact Nat.lt_log2_self

/-! ## The procedure of R303 -/

/-- The quotient that R303 estimates, with A for 2^(bits − 1), is at most 2 too small and never too large. -/
theorem barrett_quotient {A q mu t u x : Nat} (below : A ≤ q) (lo : t * A ≤ x) (hi : x < t * A + A) (small : t < 4 * A)
    (muLo : mu * q ≤ 4 * A * A) (muHi : 4 * A * A < mu * q + q) (uLo : u * (4 * A) ≤ t * mu) (uHi : t * mu < (u + 1) * (4 * A)) :
    u * q ≤ x ∧ x < (u + 3) * q := by
  have hA : 0 < 4 * A := by omega
  constructor
  · have scaled : 4 * A * (u * q) ≤ 4 * A * (t * A) := calc
      4 * A * (u * q) = u * (4 * A) * q := by ring
      _ ≤ t * mu * q := Nat.mul_le_mul_right q uLo
      _ = t * (mu * q) := by ring
      _ ≤ t * (4 * A * A) := Nat.mul_le_mul_left t muLo
      _ = 4 * A * (t * A) := by ring
    exact (Nat.le_of_mul_le_mul_left scaled hA).trans lo
  · have scaled : 4 * A * (t * A) < 4 * A * ((u + 2) * q) := calc
      4 * A * (t * A) = t * (4 * A * A) := by ring
      _ ≤ t * (mu * q + q) := Nat.mul_le_mul_left t muHi.le
      _ = t * mu * q + t * q := by ring
      _ < (u + 1) * (4 * A) * q + 4 * A * q := Nat.add_lt_add_of_le_of_lt (Nat.mul_le_mul_right q uHi.le)
          (Nat.mul_lt_mul_of_pos_right small (by omega))
      _ = 4 * A * ((u + 2) * q) := by ring
    calc
      x < t * A + A := hi
      _ < (u + 2) * q + q := Nat.add_lt_add_of_lt_of_le (Nat.lt_of_mul_lt_mul_left scaled) below
      _ = (u + 3) * q := by ring

/-- One conditional subtraction (R303, R305). -/
theorem condSub_eq_mod {q r : Nat} (h : r < 2 * q) : (if q ≤ r then r - q else r) = r % q := by
  split
  · rename_i le
    rw [Nat.mod_eq_sub_mod le, Nat.mod_eq_of_lt (by omega)]
  · exact (Nat.mod_eq_of_lt (by omega)).symm

/-- The two conditional subtractions of R303. -/
theorem condSub_twice_eq_mod {q r : Nat} (h : r < 3 * q) :
    (let r := if q ≤ r then r - q else r
     if q ≤ r then r - q else r) = r % q := by
  dsimp only
  by_cases le : q ≤ r
  · rw [if_pos le, condSub_eq_mod (by omega), Nat.mod_eq_sub_mod le]
  · rw [if_neg le, condSub_eq_mod (by omega)]

theorem Prime.sound_iff {p : Prime} : p.sound = true ↔
    p.q % 2 = 1 ∧ (3 ≤ p.q ∧ p.q < 2 ^ 61) ∧ p.bits = bitLen p.q ∧ p.mu = 2 ^ (2 * p.bits) / p.q := by
  simp [Prime.sound, and_assoc]

theorem Prime.sound_lt {p : Prime} (h : p.sound = true) : p.q < 2 ^ 61 := (Prime.sound_iff.1 h).2.1.2

/-- The procedure of R303 gives x mod q. -/
theorem reduce_eq_mod {p : Prime} (sound : p.sound = true) {x : Nat} (hx : x < p.q * p.q) : reduce p x = x % p.q := by
  obtain ⟨_, ⟨three, _⟩, hbits, hmu⟩ := Prime.sound_iff.1 sound
  obtain ⟨n, hn⟩ : ∃ n, p.bits = n + 1 := by
    rw [hbits, bitLen, if_neg (by omega)]
    exact ⟨_, rfl⟩
  have below : 2 ^ n ≤ p.q := by simpa [← hbits, hn] using two_pow_bitLen_le (n := p.q) (by omega)
  have above : p.q < 2 * 2 ^ n := by simpa [← hbits, hn, Nat.pow_succ'] using lt_two_pow_bitLen p.q
  have square : 2 ^ (2 * p.bits) = 4 * 2 ^ n * 2 ^ n := by rw [hn]; ring
  have four : 2 ^ (p.bits + 1) = 4 * 2 ^ n := by rw [hn]; ring
  have one : 2 ^ (p.bits - 1) = 2 ^ n := by rw [hn, Nat.add_sub_cancel]
  rw [square] at hmu
  have lo : x / 2 ^ n * 2 ^ n ≤ x := Nat.div_mul_le_self ..
  have small : x / 2 ^ n < 4 * 2 ^ n := by
    refine Nat.div_lt_of_lt_mul (hx.trans ?_)
    calc
      p.q * p.q < 2 * 2 ^ n * (2 * 2 ^ n) := Nat.mul_lt_mul'' above above
      _ = 2 ^ n * (4 * 2 ^ n) := by ring
  obtain ⟨least, most⟩ := barrett_quotient (mu := p.mu) (u := x / 2 ^ n * p.mu / (4 * 2 ^ n)) below lo
    (Nat.lt_div_mul_add (by positivity)) small (hmu ▸ Nat.div_mul_le_self ..) (hmu ▸ Nat.lt_div_mul_add (by omega))
    (Nat.div_mul_le_self ..) (by rw [Nat.add_mul, Nat.one_mul]; exact Nat.lt_div_mul_add (by positivity))
  have rest : ∀ u, u * p.q ≤ x → (x - u * p.q) % p.q = x % p.q := fun u h => by
    rw [Nat.mul_comm] at h ⊢
    exact Nat.sub_mul_mod h
  unfold reduce
  rw [one, four]
  exact (condSub_twice_eq_mod (by rw [Nat.add_mul] at most; omega)).trans (rest _ least)

/-! ## Powers -/

theorem powModF_eq {q : Nat} : ∀ {f a e acc : Nat}, e < 2 ^ f → acc < q → powModF q f a e acc = acc * a ^ e % q := by
  intro f
  induction f with
  | zero =>
    intro a e acc he hacc
    obtain rfl : e = 0 := by omega
    rw [powModF, Nat.pow_zero, Nat.mul_one, Nat.mod_eq_of_lt hacc]
  | succ f ih =>
    intro a e acc he hacc
    have half : e / 2 < 2 ^ f := by rw [Nat.pow_succ'] at he; omega
    have square : (a * a % q) ^ (e / 2) ≡ a ^ (2 * (e / 2)) [MOD q] := by
      rw [Nat.pow_mul, Nat.pow_two]
      exact (Nat.mod_modEq ..).pow _
    rw [powModF]
    by_cases odd : e % 2 = 1
    · rw [if_pos odd, ih half (Nat.mod_lt _ (by omega))]
      calc acc * a % q * (a * a % q) ^ (e / 2) % q
          = acc * a * a ^ (2 * (e / 2)) % q := (Nat.mod_modEq ..).mul square
        _ = acc * a ^ (2 * (e / 2) + 1) % q := by ring_nf
        _ = acc * a ^ e % q := by rw [show 2 * (e / 2) + 1 = e by omega]
    · rw [if_neg odd, ih half hacc]
      calc acc * (a * a % q) ^ (e / 2) % q
          = acc * a ^ (2 * (e / 2)) % q := square.mul_left acc
        _ = acc * a ^ e % q := by rw [show 2 * (e / 2) = e by omega]

theorem powMod_eq {q : Nat} (hq : 0 < q) (a e : Nat) : powMod q a e = a ^ e % q := by
  rw [powMod, powModF_eq (lt_two_pow_bitLen e) (Nat.mod_lt 1 hq)]
  calc 1 % q * (a % q) ^ e % q
      = 1 * a ^ e % q := (Nat.mod_modEq 1 q).mul ((Nat.mod_modEq a q).pow e)
    _ = a ^ e % q := by rw [Nat.one_mul]

/-! ## Sums, differences and products of residues (R305) -/

theorem modAdd_eq {p : Prime} {v y : Nat} (hv : v < p.q) (hy : y < p.q) : modAdd p v y = (v + y) % p.q :=
  condSub_eq_mod (by omega)

theorem modSub_eq {p : Prime} {v y : Nat} (hv : v < p.q) (hy : y < p.q) : modSub p v y = (v + p.q - y) % p.q := by
  rw [← condSub_eq_mod (by omega), modSub]
  split <;> split <;> omega

theorem modNeg_eq {p : Prime} {v : Nat} (hv : v < p.q) : modNeg p v = (p.q - v) % p.q := by
  rw [← condSub_eq_mod (by omega), modNeg]
  split <;> split <;> omega

theorem modMul_eq {p : Prime} (sound : p.sound = true) {v y : Nat} (hv : v < p.q) (hy : y < p.q) : modMul p v y = v * y % p.q :=
  reduce_eq_mod sound (Nat.mul_lt_mul'' hv hy)

/-! ## Element-wise operations on one lane -/

/-- The inputs of an element-wise operation in one lane: a word of the first source, and one of the second or the constant. -/
def ElemOp.inputs (e : ElemOp) (v y : Nat) : List Nat := if e.two || e.konst then [v, y] else [v]

/-- In a lane with a sound entry and inputs below q the operation gives the residue that f names. -/
def ElemOp.Gives (e : ElemOp) (f : Nat → Nat → Nat → Nat) : Prop :=
  ∀ (p : Prime) (v y : Nat), p.sound = true → v < p.q → y < p.q → e.f p (e.inputs v y) = f p.q v y ∧ f p.q v y < p.q

theorem ElemOp.gives_of_mod {e : ElemOp} {f : Nat → Nat → Nat → Nat}
    (h : ∀ (p : Prime) (v y : Nat), p.sound = true → v < p.q → y < p.q → e.f p (e.inputs v y) = f p.q v y % p.q) :
    e.Gives fun q v y => f q v y % q :=
  fun p v y sound hv hy => ⟨h p v y sound hv hy, Nat.mod_lt _ (by omega)⟩

theorem eMadd_gives : eMadd.Gives fun q v y => (v + y) % q := ElemOp.gives_of_mod fun _ _ _ _ hv hy => modAdd_eq hv hy
theorem eMsub_gives : eMsub.Gives fun q v y => (v + q - y) % q := ElemOp.gives_of_mod fun _ _ _ _ hv hy => modSub_eq hv hy
theorem eMneg_gives : eMneg.Gives fun q v _ => (q - v) % q := ElemOp.gives_of_mod fun _ _ _ _ hv _ => modNeg_eq hv
theorem eMcpy_gives : eMcpy.Gives fun _ v _ => v := fun _ _ _ _ hv _ => ⟨rfl, hv⟩
theorem eMmul_gives : eMmul.Gives fun q v y => v * y % q := ElemOp.gives_of_mod fun _ _ _ sound hv hy => modMul_eq sound hv hy
theorem eMmac_gives : eMmac.Gives fun q v y => v * y % q := ElemOp.gives_of_mod fun _ _ _ sound hv hy => modMul_eq sound hv hy
theorem eMmulk_gives : eMmulk.Gives fun q v y => v * y % q := ElemOp.gives_of_mod fun _ _ _ sound hv hy => modMul_eq sound hv hy
theorem eMmack_gives : eMmack.Gives fun q v y => v * y % q := ElemOp.gives_of_mod fun _ _ _ sound hv hy => modMul_eq sound hv hy

end Sys2Proof.Machine
end

section
/-! SUPPORT. Words of bytes, and what an element-wise operation makes of the words of its sources (R303 to R309). -/

namespace Sys2Proof.Machine

open Sys2Proof

/-! ## Words and bytes -/

theorem word64_succ (b : List Byte) (i : Nat) : word64 b (i + 1) = word64 (b.drop 8) i := by
  rw [word64, word64, List.drop_drop, Nat.mul_succ, Nat.add_comm]

theorem groups8_map_leNat {n : Nat} : ∀ {f : Nat} {b : List Byte}, b.length = 8 * n → n ≤ f →
    (wordsOf.groups8 f b).map leNat = (List.range n).map (word64 b) := by
  induction n with
  | zero =>
    intro f b hb _
    obtain rfl : b = [] := List.eq_nil_of_length_eq_zero hb
    cases f <;> rfl
  | succ n ih =>
    intro f b hb hf
    obtain ⟨f, rfl⟩ : ∃ g, f = g + 1 := ⟨f - 1, by omega⟩
    obtain ⟨x, t, rfl⟩ : ∃ x t, b = x :: t := List.exists_cons_of_length_pos (by omega)
    have rest : ((x :: t).drop 8).length = 8 * n := by rw [List.length_drop, hb]; omega
    rw [wordsOf.groups8, List.map_cons, ih rest (by omega), List.range_succ_eq_map, List.map_cons, List.map_map]
    · congr 1
      exact List.map_congr_left fun i _ => (word64_succ (x :: t) i).symm
    · simp

theorem wordsOf_eq {n : Nat} {b : List Byte} (h : b.length = 8 * n) : wordsOf b = (List.range n).map (word64 b) :=
  groups8_map_leNat h (by omega)

theorem wordsOf_rdBytes (s : State) (k n : Nat) :
    wordsOf (rdBytes s k (8 * n)) = (List.range n).map fun i => rdNat s (k + 8 * i) 8 := by
  rw [wordsOf_eq (rdBytes_length ..)]
  refine List.map_congr_left fun i hi => ?_
  have hi := List.mem_range.1 hi
  rw [word64, take_drop_rdBytes s k (by omega), rdNat]

theorem bytesOf_length (l : List Nat) : (bytesOf l).length = 8 * l.length := by
  simp [bytesOf, List.length_flatMap, Nat.mul_comm]

theorem word64_bytesOf {l : List Nat} {i : Nat} (h : i < l.length) : word64 (bytesOf l) i = l.getD i 0 % 2 ^ 64 := by
  rw [word64, bytesOf, take_drop_flatMap (leBytes 8) 8 (fun v _ => leBytes_length 8 v) h, leNat_leBytes,
    List.getD_eq_getElem l 0 h]
  norm_num

/-! ## One word -/

/-- The word's residues are below their moduli: the word itself in wide mode, each half in narrow mode (R307, R308). -/
def InRange (narrow : Bool) (p0 p1 : Prime) (v : Nat) : Prop :=
  if narrow then v % 2 ^ 32 < p0.q ∧ v / 2 ^ 32 < p1.q else v < p0.q

/-- Word w holds what f names for the residues of v and y: of the words in wide mode, of each half in narrow mode (R308). -/
def Residues (narrow : Bool) (p0 p1 : Prime) (f : Nat → Nat → Nat → Nat) (w v y : Nat) : Prop :=
  if narrow then w = f p0.q (v % 2 ^ 32) (y % 2 ^ 32) + 2 ^ 32 * f p1.q (v / 2 ^ 32) (y / 2 ^ 32) else w = f p0.q v y

/-- The moduli of narrow mode have 30 bits at most (R308). -/
theorem primesOk_narrow {s : State} {c p : Nat} (ok : primesOk s c p true = true) (h0 : (primeAt s c p).sound = true)
    (h1 : (primeAt s c (p + 1)).sound = true) : (primeAt s c p).q < 2 ^ 30 ∧ (primeAt s c (p + 1)).q < 2 ^ 30 := by
  have short {v : Prime} (sound : v.sound = true) (h : v.bits ≤ 30) : v.q < 2 ^ 30 := by
    obtain ⟨_, _, hbits, _⟩ := Prime.sound_iff.1 sound
    exact (lt_two_pow_bitLen v.q).trans_le (Nat.pow_le_pow_right (by omega) (hbits ▸ h))
  simp only [primesOk, Bool.not_true, Bool.false_or, Bool.and_eq_true, decide_eq_true_eq] at ok
  obtain ⟨_, ⟨_, b0⟩, b1⟩ := ok
  exact ⟨short h0 b0, short h1 b1⟩

variable {e : ElemOp} {f : Nat → Nat → Nat → Nat} {narrow : Bool} {p0 p1 : Prime} {v y : Nat}

theorem ElemOp.map_inputs (e : ElemOp) (g : Nat → Nat) (v y : Nat) : (e.inputs v y).map g = e.inputs (g v) (g y) := by
  unfold ElemOp.inputs
  split <;> rfl

theorem ElemOp.mem_inputs {a : Nat} (h : a ∈ e.inputs v y) : a = v ∨ a = y := by
  unfold ElemOp.inputs at h
  split at h
  · simpa using h
  · exact .inl (List.mem_singleton.1 h)

/-- A lane with a sound entry and inputs below q computes (R303, R305, R307). -/
theorem lane_inputs (w op : Nat) {p : Prime} (gives : e.Gives f) (sound : p.sound = true) (hv : v < p.q) (hy : y < p.q) :
    lane w op p (e.inputs v y) (e.f p (e.inputs v y)) = f p.q v y := by
  have below : (e.inputs v y).all (· < p.q) = true := by
    rw [List.all_eq_true]
    intro a ha
    rcases ElemOp.mem_inputs ha with rfl | rfl
    · exact decide_eq_true hv
    · exact decide_eq_true hy
  rw [lane, if_pos (by rw [sound, below]; rfl), (gives p v y sound hv hy).1]

theorem laneHit_inputs {p : Prime} (hv : v < p.q) (hy : y < p.q) : laneHit p (e.inputs v y) = false := by
  rw [laneHit, List.any_eq_false]
  intro a ha
  rcases ElemOp.mem_inputs ha with rfl | rfl <;> simpa

theorem wordHit_inputs (hv : InRange narrow p0 p1 v) (hy : InRange narrow p0 p1 y) :
    wordHit narrow p0 p1 (e.inputs v y) = false := by
  unfold wordHit
  cases narrow
  · exact laneHit_inputs hv hy
  · obtain ⟨v0, v1⟩ := hv
    obtain ⟨y0, y1⟩ := hy
    rw [if_pos rfl, ElemOp.map_inputs, ElemOp.map_inputs, laneHit_inputs v0 y0, laneHit_inputs v1 y1, Bool.or_false]

theorem residues_wordOp (gives : e.Gives f) (h0 : p0.sound = true) (h1 : narrow = true → p1.sound = true)
    (hv : InRange narrow p0 p1 v) (hy : InRange narrow p0 p1 y) :
    Residues narrow p0 p1 f (wordOp e.op narrow p0 p1 e.f (e.inputs v y)) v y := by
  unfold wordOp
  cases narrow
  · exact lane_inputs 64 e.op gives h0 hv hy
  · obtain ⟨v0, v1⟩ := hv
    obtain ⟨y0, y1⟩ := hy
    simp only [if_pos, ElemOp.map_inputs, lane_inputs 32 e.op gives h0 v0 y0, lane_inputs 32 e.op gives (h1 rfl) v1 y1]
    rfl

/-- What the residues make up is a word. -/
theorem residues_lt {w : Nat} (gives : e.Gives f) (h0 : p0.sound = true) (h1 : narrow = true → p1.sound = true)
    (short : narrow = true → p0.q < 2 ^ 30 ∧ p1.q < 2 ^ 30) (hv : InRange narrow p0 p1 v) (hy : InRange narrow p0 p1 y)
    (hw : Residues narrow p0 p1 f w v y) : w < 2 ^ 64 := by
  cases narrow
  · have bound : f p0.q v y < p0.q := (gives p0 v y h0 hv hy).2
    have hw : w = f p0.q v y := hw
    exact hw ▸ (bound.trans (Prime.sound_lt h0)).trans (by norm_num)
  · obtain ⟨v0, v1⟩ := hv
    obtain ⟨y0, y1⟩ := hy
    obtain ⟨q0, q1⟩ := short rfl
    have lo := (gives p0 _ _ h0 v0 y0).2
    have hi := (gives p1 _ _ (h1 rfl) v1 y1).2
    have hw : w = f p0.q (v % 2 ^ 32) (y % 2 ^ 32) + 2 ^ 32 * f p1.q (v / 2 ^ 32) (y / 2 ^ 32) := hw
    omega

/-! ## The words of the sources -/

/-- The inputs of every word, from the words of one source or of two, and the constant. -/
theorem elemWords_eq (single : ¬(e.two = true ∧ e.konst = true)) (k n : Nat) (a b : Nat → Nat) :
    elemWords e narrow p0 p1 k (if e.two then [(List.range n).map a, (List.range n).map b] else [(List.range n).map a]) =
      (((List.range n).map fun i => e.inputs (a i) (if e.two then b i else k)).map (wordOp e.op narrow p0 p1 e.f),
        ((List.range n).map fun i => e.inputs (a i) (if e.two then b i else k)).any (wordHit narrow p0 p1)) := by
  have ins : ((lanesOf (if e.two then [(List.range n).map a, (List.range n).map b] else [(List.range n).map a])).map
      fun l => if e.konst then l ++ [k] else l) = (List.range n).map fun i => e.inputs (a i) (if e.two then b i else k) := by
    cases two : e.two
    · cases konst : e.konst <;> simp [lanesOf, ElemOp.inputs, two, konst]
    · have konst : e.konst = false := by simpa [two] using single
      simp [lanesOf, ElemOp.inputs, two, konst, List.zipWith_map, List.zipWith_self]
  rw [elemWords, ins]

end Sys2Proof.Machine
end

section
/-! SUPPORT. What the counts of an issue, and the record of a tagged instruction, leave alone (R836, R845 to R848, R852, R853). -/

namespace Sys2Proof.Machine

open Sys2Proof

variable (s : State)

theorem poison_of_still {s t : State} (h : still t = still s) : t.poison = s.poison :=
  show (still t).poison = (still s).poison from congrArg State.poison h

/-! ## Counters -/

@[simp] theorem still_countSec (x ev n : Nat) : still (countSec s x ev n) = still s := by
  rw [countSec, still_countDev]
  exact foldl_keeps still (fun t _ => still_countAt t ..) _ s

@[simp] theorem still_countCore (c ev n : Nat) : still (countCore s c ev n) = still s := by
  rw [countCore, still_countSec]
  exact foldl_keeps still (fun t _ => still_countAt t ..) _ s

@[simp] theorem still_noteLate (c late : Nat) : still (noteLate s c late) = still s := by
  unfold noteLate
  split
  · split
    · exact still_noteNd ..
    · rfl
  · rfl

/-- Entries that stand apart from the performance counters and the counts of timing-dependent choices (R836, R845). -/
def Uncounted (k : Nat) : Prop := k < E.nd_count ∨ E.dpc_value + 64 ≤ k ∧ k < E.spc_value

theorem rd_countAt_other {k val : Nat} (h : k ≠ val) (cfg ev i n : Nat) : rd (countAt s cfg val ev i n) k = rd s k := by
  unfold countAt
  dsimp only
  split
  · exact rd_wr_other s h _
  · rfl

theorem rd_countDev_of_uncounted {k : Nat} (h : Uncounted k) (ev i n : Nat) : rd (countDev s ev i n) k = rd s k :=
  foldl_keeps_of_mem (rd · k) (fun j hj t => rd_countAt_other t (by
    have := List.mem_range.1 hj
    simp only [Uncounted, E.nd_count, E.dpc_value] at h ⊢
    omega) ..) s

theorem rd_countCore_of_uncounted {k : Nat} (h : Uncounted k) (c ev n : Nat) : rd (countCore s c ev n) k = rd s k := by
  have below : k < E.spc_value := by
    simp only [Uncounted, E.nd_count, E.spc_value] at h ⊢
    omega
  have above : E.spc_value < E.cpc_value := by decide
  rw [countCore, countSec, rd_countDev_of_uncounted _ h]
  exact (foldl_keeps (rd · k) (fun t j => rd_countAt_other t (by omega) ..) _ _).trans
    (foldl_keeps (rd · k) (fun t j => rd_countAt_other t (by omega) ..) _ s)

theorem ownerOf_lt {x p : Nat} (h : ownerOf s x = some p) : p < 32 := List.mem_range.1 (List.mem_of_find?_eq_some h)

theorem rd_noteNd_of_uncounted {k p : Nat} (h : Uncounted k) (hp : p < 32) : rd (noteNd s 3 (some p)) k = rd s k := by
  simp only [noteNd]
  rw [rd_inc_other _ (by simp only [Uncounted, E.nd_count, E.dpc_value] at h ⊢; omega), rd_countDev_of_uncounted _ h,
    rd_inc_other _ (by simp only [Uncounted, E.nd_count, E.nd_cause_count, E.dpc_value] at h ⊢; omega)]

theorem rd_noteLate_of_uncounted {k : Nat} (h : Uncounted k) (c late : Nat) : rd (noteLate s c late) k = rd s k := by
  unfold noteLate
  split
  · rename_i p owner
    split
    · exact rd_noteNd_of_uncounted s h (ownerOf_lt s owner)
    · rfl
  · rfl

/-! ## Tagging -/

/-- Whether a core is tagged stands in entries that count nothing (R753, R852). -/
theorem tagged_congr {s t : State} (h : ∀ k, Uncounted k → rd t k = rd s k) (c : Nat) : tagged t c = tagged s c := by
  have owner : ownerOf t (c / 25) = ownerOf s (c / 25) := by
    have own : ∀ p ∈ List.range 32, (assigned t p && bit (rd t (E.part_sectors + 256 * p)) (c / 25)) =
        (assigned s p && bit (rd s (E.part_sectors + 256 * p)) (c / 25)) := by
      intro p hp
      have hp := List.mem_range.1 hp
      rw [assigned, assigned, h _ (.inl (by simp only [E.part_state, E.nd_count]; omega)),
        h _ (.inl (by simp only [E.part_sectors, E.nd_count]; omega))]
    unfold ownerOf
    rw [← List.head?_filter, ← List.head?_filter, List.filter_congr own]
  rw [tagged, tagged, owner, h E.tag_enable (.inr (by decide)), h E.tag_partition (.inr (by decide))]

/-! ## Reads and stores change no core -/

@[simp] theorem paceBreak_cores (x : Nat) : (paceBreak s x).cores = s.cores := cores_of_still (still_paceBreak ..)
@[simp] theorem inc_cores (k : Nat) : (inc s k).cores = s.cores := cores_of_still (still_inc ..)

@[simp] theorem onchipUe_cores (x a b : Nat) : (onchipUe s x a b).cores = s.cores := by simp [onchipUe]

@[simp] theorem loseWord_cores (k : Nat) : (loseWord s k).cores = s.cores := by
  simp [loseWord, apply_ite State.cores]

@[simp] theorem meetWord_cores (k n : Nat) : (meetWord s k n).cores = s.cores := by
  simp [meetWord, apply_ite State.cores]

@[simp] theorem meet_cores (k n : Nat) : (meet s k n).cores = s.cores :=
  foldl_keeps State.cores (fun t _ => meetWord_cores t ..) _ s

@[simp] theorem meetEdges_cores (k n : Nat) : (meetEdges s k n).cores = s.cores :=
  foldl_keeps State.cores (fun t _ => meetWord_cores t ..) _ s

@[simp] theorem storeAt_cores (k : Nat) (d : List Byte) : (storeAt s k d).cores = s.cores := by
  obtain ⟨v, stored⟩ := hbmStore_eq (s := s) k d
  unfold storeAt
  split
  · rw [stored]
    rfl
  · exact (wrBytes_cores ..).trans (meetEdges_cores ..)

theorem meetOperand_cores (c : Nat) (o : Opd) : (meetOperand c s o).cores = s.cores := by
  cases o with
  | tile t g => exact meet_cores ..
  | bank b g => exact meet_cores ..
  | ctx i => exact foldl_keeps State.cores (fun t _ => meet_cores t ..) _ s
  | bad => rfl

@[simp] theorem meetOperands_cores (c : Nat) (l : List Opd) : (meetOperands s c l).cores = s.cores := by
  unfold meetOperands
  split
  · rfl
  · exact foldl_keeps State.cores (fun t o => meetOperand_cores t c o) _ s

/-- The record of a tagged instruction advances the register of its core, and changes no core else (R852, R853). -/
theorem core_tagIssue (c word eng op status a planned o l : Nat) : ∃ v, ∀ j,
    core (tagIssue s c word eng op status a planned o l) j = if j = c then { core s c with tagLfsr := v } else core s j := by
  unfold tagIssue
  split
  · refine ⟨(core s c).tagLfsr, fun j => ?_⟩
    split
    · subst j; rfl
    · rfl
  · refine ⟨lfsrStep (core s c).tagLfsr, fun j => (core_congr ?_ j).trans (core_setCore ..)⟩
    dsimp only
    split
    · rfl
    split
    · rfl
    rw [inc_cores]
    exact storeAt_cores ..

theorem tagIssue_untagged {c : Nat} (h : tagged s c = false) (word eng op status a planned o l : Nat) :
    tagIssue s c word eng op status a planned o l = s := by
  rw [tagIssue, h]
  rfl

end Sys2Proof.Machine
end

section
/-! SUPPORT. An engine's instruction that finds its operands, its engine and every check clear issues (R242 to R257). -/

namespace Sys2Proof.Machine

open Sys2Proof

/-! ## Codes and checks -/

theorem lowestCode_eq_zero {l : List Nat} (h : ∀ n ∈ l, n = 0) : lowestCode l = 0 := by
  exact List.foldlRecOn (motive := (· = 0)) l _ rfl fun m hm a ha => by
    rw [hm, h a ha]
    rfl

/-- The checks of R257 find nothing against a plan whose storages are clear and that leaves the working store alone. -/
theorem schedule_of_clear {u : State} {c eng a : Nat} {p : Plan} (work : p.work = false)
    (clear : Clear u c eng a p.occ p.lat p.srcs p.dsts) : (core u c).schedule a p = none := by
  obtain ⟨_, srcs, dsts⟩ := clear
  rw [Core.schedule, List.filterMap_eq_nil_iff.2 srcs, List.filterMap_eq_nil_iff.2 dsts, work]
  rfl

/-! ## The entries that operands take -/

theorem resolveOne_pops_wf (k : Core) {r : Resolved} (h : Tab.wf (fun _ => 0) r.pops = true) (o : Opnd) :
    Tab.wf (fun _ => 0) (resolveOne k r o).pops = true := by
  cases o with
  | tile t g => exact h
  | bank b g => exact h
  | ctx i => exact h
  | queue q pop release =>
    unfold resolveOne
    dsimp only
    split
    · exact h
    · split
      · exact h
      · split
        · exact h
        · dsimp only
          split
          · exact Tab.set_wf (d := fun _ => 0) h ..
          · exact h

theorem resolve_pops_rising (k : Core) (a : Nat) (os : List Opnd) : Tab.Rising none (resolve k a os).pops :=
  ((Tab.wf_iff (fun _ => 0) _).1 (List.foldlRecOn (motive := fun r : Resolved => Tab.wf (fun _ => 0) r.pops = true) os _ rfl
    fun _ h o _ => resolveOne_pops_wf k h o)).1

theorem queue_setQueue (k : Core) (q j : Nat) (v : Queue) : (k.setQueue q v).queue j = if j = q then v else k.queue j := by
  unfold Core.setQueue Core.queue
  split
  · rename_i same
    rw [same, Tab.get_set_same]
  · rename_i other
    exact Tab.get_set_other other ..

/-- Only the queues of a core change when entries leave them. -/
theorem popAll_eq (pops : Tab Nat) (a : Nat) : ∀ k : Core, ∃ t, k.popAll pops a = { k with queues := t } := by
  induction pops with
  | nil => exact fun k => ⟨k.queues, rfl⟩
  | cons e pops ih =>
    intro k
    obtain ⟨t, popped⟩ := ih (k.setQueue e.1 _)
    exact ⟨t, popped⟩

/-- Each queue loses as many entries as its operands took. -/
theorem held_popAll {pops : Tab Nat} (rising : Tab.Rising none pops) (a q : Nat) :
    ∀ k : Core, (k.popAll pops a).held q = (k.held q).drop (Tab.get 0 pops q) := by
  induction pops with
  | nil => exact fun k => rfl
  | cons e pops ih =>
    intro k
    have rest : (k.popAll (e :: pops) a).held q = ((k.setQueue e.1 _).held q).drop (Tab.get 0 pops q) :=
      ih rising.2.none (k.setQueue e.1 _)
    rw [rest, Core.held, queue_setQueue]
    by_cases same : e.1 = q
    · have unlisted : Tab.get 0 pops q = 0 := by rw [Tab.get, Tab.find?_none_of_lt rising.2 same.ge]; rfl
      have listed : Tab.get 0 (e :: pops) q = e.2 := by simp [Tab.get, Tab.find?, same]
      rw [unlisted, listed, if_pos same.symm, same]
      rfl
    · have passed : Tab.get 0 (e :: pops) q = Tab.get 0 pops q := by simp [Tab.get, Tab.find?, same]
      rw [passed, if_neg (Ne.symm same)]
      rfl

/-! ## The issue -/

/-- The operation that a plan becomes at its issue (R253). -/
def issuedOp (eng word a : Nat) (r : Resolved) (p : Plan) : Op :=
  { eng := eng, word := word, issue := a, occ := p.occ, lat := p.lat, dsts := p.dsts.map Prod.fst
    srcs := p.srcs.map Prod.fst, release := r.rel, writes := p.writes, fx := p.fx.filter (!·.early), status := p.status }

/-- The working store's operation, of a plan that needs it (R319). -/
def workOps (s : State) (c word a : Nat) (p : Plan) : List Op := if p.work then [workOp s c word a p.occ] else []

/-- The record of a core that issued: the entries have left their queues, the operations are in flight, and the stream counts
on from the issue beat (R242, R250, R253). -/
def Core.issued (k : Core) (eng a : Nat) (r : Resolved) (p : Plan) (w : List Op) (o : Op) : Core :=
  let k := k.popAll r.pops a
  { k with
    ops := k.ops ++ w ++ [o]
    busyTo := Tab.set 0 k.busyTo eng (a + max p.occ 1)
    waiting := 0
    beat := max k.beat a
    block := k.block.map fun b => { b with xpos := b.xpos + 1, xbase := a, last := max b.last a } }

/-- The machine once core c has issued, before what the issue counts. -/
def issuedState (s : State) (c eng word a : Nat) (r : Resolved) (p : Plan) : State :=
  { setCore s c ((core s c).issued eng a r p (workOps s c word a p) (issuedOp eng word a r p)) with
    freeCtr := if p.work then s.freeCtr + 1 else s.freeCtr }

/-- What the issue counts (R836, R845). -/
def issueCounted (s : State) (c eng occ late : Nat) : State :=
  countCore (countCore (countCore (noteLate s c late) c 0x002 1) c 0x003 late) c (0x004 + eng) occ

variable {u : State} {c eng op word planned a : Nat} {r : Resolved} {p : Plan}

/-- An issue without an effect at the issue beat changes its core, then counts, then leaves its record. -/
theorem goIssue_eq (early : ∀ f ∈ p.fx, f.early = false) : goIssue u c eng op word planned a r p =
    tagIssue (issueCounted (issuedState u c eng word a r p) c eng p.occ (a - planned)) c word eng op 0 a planned p.occ p.lat := by
  have noEarly : p.fx.filter Fx.early = [] := List.filter_eq_nil_iff.2 fun f hf => by simp [early f hf]
  unfold goIssue issuedState workOps
  rw [noEarly]
  dsimp only
  cases p.work <;> rfl

theorem still_issueCounted (s : State) (occ late : Nat) : still (issueCounted s c eng occ late) = still s := by
  simp [issueCounted]

theorem tagged_issueCounted (s : State) (occ late : Nat) : tagged (issueCounted s c eng occ late) c = tagged s c :=
  tagged_congr (fun k h => by
    rw [issueCounted, rd_countCore_of_uncounted _ h, rd_countCore_of_uncounted _ h, rd_countCore_of_uncounted _ h,
      rd_noteLate_of_uncounted _ h]) c

/-- The cores after an issue. -/
theorem core_goIssue (early : ∀ f ∈ p.fx, f.early = false) : ∃ v, ∀ j, core (goIssue u c eng op word planned a r p) j =
    if j = c then { (core u c).issued eng a r p (workOps u c word a p) (issuedOp eng word a r p) with tagLfsr := v }
    else core u j := by
  obtain ⟨v, tagged⟩ := core_tagIssue (issueCounted (issuedState u c eng word a r p) c eng p.occ (a - planned))
    c word eng op 0 a planned p.occ p.lat
  have counted (j : Nat) : core (issueCounted (issuedState u c eng word a r p) c eng p.occ (a - planned)) j =
      core (setCore u c ((core u c).issued eng a r p (workOps u c word a p) (issuedOp eng word a r p))) j :=
    core_congr (cores_of_still (still_issueCounted ..)) j
  refine ⟨v, fun j => ?_⟩
  rw [goIssue_eq early, tagged, counted, counted, core_setCore, core_setCore, if_pos rfl]
  split <;> rfl

theorem sameMemory_goIssue (early : ∀ f ∈ p.fx, f.early = false) (untagged : tagged u c = false) :
    SameMemory u (goIssue u c eng op word planned a r p) := by
  have same := still_issueCounted (c := c) (eng := eng) (issuedState u c eng word a r p) p.occ (a - planned)
  have unseen : tagged (issueCounted (issuedState u c eng word a r p) c eng p.occ (a - planned)) c = false :=
    (tagged_issueCounted ..).trans untagged
  rw [goIssue_eq early, tagIssue_untagged _ unseen]
  exact ⟨rdByte_congr ((mem_of_still same).trans rfl), (poison_of_still same).trans rfl⟩

/-- An issue is what `Flies` says of it. -/
theorem flies_goIssue (early : ∀ f ∈ p.fx, f.early = false) (pops : Tab.Rising none r.pops) {v : Block}
    (block : (core u c).block = some v) (sound : v.fault = 0) :
    Flies u (goIssue u c eng op word planned a r p) c eng a word r (issuedOp eng word a r p) := by
  obtain ⟨l, cores⟩ := core_goIssue (u := u) (c := c) (eng := eng) (op := op) (word := word) (planned := planned) (a := a)
    (r := r) early
  obtain ⟨q, popped⟩ := popAll_eq r.pops a (core u c)
  have own := (cores c).trans (if_pos rfl)
  have frame : (core u c).issued eng a r p (workOps u c word a p) (issuedOp eng word a r p) =
      { core u c with
        queues := ((core u c).popAll r.pops a).queues
        ops := (core u c).ops ++ workOps u c word a p ++ [issuedOp eng word a r p]
        busyTo := Tab.set 0 (core u c).busyTo eng (a + max p.occ 1)
        waiting := 0
        beat := max (core u c).beat a
        block := some { v with xpos := v.xpos + 1, xbase := a, last := max v.last a } } := by
    rw [Core.issued, popped]
    dsimp only
    rw [block]
    rfl
  rw [frame] at own
  refine ⟨⟨workOps u c word a p, ?_, ?_⟩, rfl, rfl, rfl, rfl, ?_, ?_, fun q => ?_, ?_,
    fun j other => (cores j).trans (if_neg other), sameMemory_goIssue early⟩
  · rw [own]
  · unfold workOps
    split <;> simp
  · rw [own]
    exact Tab.get_set_same ..
  · exact ⟨{ v with xpos := v.xpos + 1, xbase := a, last := max v.last a }, v, block, by rw [own], rfl, rfl, sound⟩
  · rw [own]
    exact held_popAll pops a q (core u c)
  · rw [own]

/-- The queue of waiting commands plays no part in an issue. -/
theorem Flies.withPending {t : State} {o : Op} (h : Flies u t c eng a word r o) (q : List Instr) :
    Flies u { t with pending := q } c eng a word r o := h

/-- An instruction without a failure issues (R250, R257, R259). -/
theorem weigh_eq_goIssue (operands : ∀ n ∈ r.codes, n = 0) (codes : ∀ n ∈ p.codes, n = 0)
    (free : Tab.get 0 (core u c).busyTo eng ≤ a) (clear : (core u c).schedule a p = none) :
    weigh u c eng op word planned a r p = goIssue u c eng op word planned a r p := by
  have noCode : lowestCode (r.codes ++ p.codes ++ []) = 0 :=
    lowestCode_eq_zero fun n hn => by
      rw [List.append_nil] at hn
      exact (List.mem_append.1 hn).elim (operands n) (codes n)
  unfold weigh
  simp only [if_neg (Nat.not_lt.2 free), clear, ite_self, Option.isSome_none, Bool.false_eq_true, if_false,
    List.append_nil] at noCode ⊢
  rw [if_pos noCode]

/-! ## The command -/

variable {s : State} {b : Block} {x : XIns} {os : List Opnd}

/-- Reads of operands that meet bit errors change no core. -/
theorem core_meetOperands (s : State) (c : Nat) (l : List Opd) (j : Nat) : core (meetOperands s c l) j = core s j :=
  core_congr (meetOperands_cores ..) j

/-- The block of a stream that is ready has no fault. -/
theorem block_of_ready (ready : Ready s u c a b x os r) : ∃ v, (core u c).block = some v ∧ v.fault = 0 := by
  obtain ⟨⟨w, free, rfl⟩, _⟩ := ready
  obtain ⟨_, _, _, _, _, _, _, _, v, block, sound⟩ := free
  exact ⟨v, (core_meetOperands ..).symm ▸ block, sound⟩

/-- An instruction whose stream and operands are ready is weighed at its beat, in the machine at that beat (R250, R251). -/
theorem issue_of_ready (ready : Ready s u c a b x os r) (plan : State → Nat → List Opd → Plan) :
    issue s c eng op x os plan = weigh u c eng op (b.word + b.xpos) (b.xbase + x.issue) a r (plan u a r.vals) := by
  obtain ⟨v, block, sound⟩ := block_of_ready ready
  obtain ⟨⟨w, free, rfl⟩, rfl, beat, _⟩ := ready
  obtain ⟨_, runs, native, started, going, unfaulted, within, rfl, _⟩ := free
  unfold issue issueNative
  rw [runs, native, started]
  simp only [going, unfaulted, Block.planned, beat, Nat.not_le.2 within, block, Option.map_some, Option.getD_some, sound]
  rfl

/-- An instruction whose stream and operands are ready, whose plan has no failure and no effect at the issue beat, and against
which R257 finds nothing, issues as its plan says. -/
theorem issuesAs_of_ready {n : Instr} {plan : State → Nat → List Opd → Plan}
    (runs : exec n s = guarded (decide (c < 800)) s (issue s c eng op x os plan)) (ready : Ready s u c a b x os r)
    (codes : ∀ n ∈ (plan u a r.vals).codes, n = 0) (free : Tab.get 0 (core u c).busyTo eng ≤ a)
    (clear : (core u c).schedule a (plan u a r.vals) = none) (early : ∀ f ∈ (plan u a r.vals).fx, f.early = false) :
    IssuesAs n s u c eng a b r (plan u a r.vals) := by
  obtain ⟨v, block, sound⟩ := block_of_ready ready
  have hc : c < 800 := by
    obtain ⟨⟨_, free, _⟩, _⟩ := ready
    exact free.1
  have pops : Tab.Rising none r.pops := by
    obtain ⟨_, rfl, _⟩ := ready
    exact resolve_pops_rising ..
  have operands : ∀ n ∈ r.codes, n = 0 := ready.2.2.2
  rw [issue_of_ready ready, weigh_eq_goIssue operands codes free clear, guarded_of (decide_eq_true hc)] at runs
  exact ⟨_, _, runs, (flies_goIssue early pops block sound).withPending _, rfl, rfl, rfl, rfl, rfl, rfl, rfl⟩

end Sys2Proof.Machine
end

section
/-! SUPPORT. The element-wise operations of the PE in the tile form (R248, R253, R301, R303 to R311). -/

namespace Sys2Proof.Machine

open Sys2Proof

/-! ## What `mod` names, and the operands -/

/-- Narrow mode (R308, R310). -/
abbrev narrowMode (mod : BitVec 18) : Bool := bit mod.toNat 17

/-- The entry that `mod` names: of the words in wide mode, of their low halves in narrow mode (R301, R308, R310). -/
abbrev lowPrime (u : State) (c : Nat) (mod : BitVec 18) : Prime := primeAt u c (mod.toNat / 2048 % 64)

/-- The next entry: of the high halves in narrow mode (R308). -/
abbrev highPrime (u : State) (c : Nat) (mod : BitVec 18) : Prime := primeAt u c (mod.toNat / 2048 % 64 + 1)

theorem bits_entry (v : Nat) : bits v 16 11 = v / 2048 % 64 := rfl
theorem bits_constant (v : Nat) : bits v 10 7 = v / 128 % 16 := rfl

/-- Word i of tile t of core c. -/
def tileWord (s : State) (c t i : Nat) : Nat := rdNat s (Mem.tile c t (8 * i)) 8

theorem wordsOf_tileBytes (s : State) (c t g : Nat) : wordsOf (tileBytes s c (.tile t g)) = (List.range 512).map (tileWord s c t) :=
  wordsOf_rdBytes s (Mem.tile c t 0) 512

/-- The sources of an element-wise operation, of the first alone or of both. -/
def ElemOp.sources (e : ElemOp) (a b : Opd) : List Opd := if e.two then [a, b] else [a]

/-- What an operation reads: its sources, and its destination if it accumulates (R305). -/
def ElemOp.reads (e : ElemOp) (dst a b : Opd) : List Opd := if e.acc then dst :: e.sources a b else e.sources a b

theorem formOf_sources (e : ElemOp) (d gd ta ga tb gb : Nat) :
    formOf (.tile d gd :: e.sources (.tile ta ga) (.tile tb gb)) = .tile := by
  unfold ElemOp.sources
  split <;> rfl

/-- The PE writes T0 to T23 and reads T0 to T15 (R248). -/
theorem storageCodes_sources {e : ElemOp} {d ta tb : Nat} (hd : d < 24) (ha : ta < 16) (hb : e.two = true → tb < 16)
    (gd ga gb : Nat) : storageCodes 0 (.tile d gd) (e.sources (.tile ta ga) (.tile tb gb)) = [] := by
  have reads : (e.sources (.tile ta ga) (.tile tb gb)).all (mayRead 0) = true := by
    unfold ElemOp.sources
    split
    · rename_i two
      simp [mayRead, ha, hb two]
    · simp [mayRead, ha]
  rw [storageCodes, reads]
  simp [mayWrite, hd]

/-- A plan in the tile form that reads no poison (R150). -/
theorem tilePlan_of_clean {u : State} {c : Nat} {reads : List Opd} (clean : reads.all (fun v => !opdPoisoned u c v) = true)
    (codes : List Nat) (srcs dsts : List (Nat × Nat)) (o l : Nat) (writes : List (Nat × Option Nat × List Byte)) (fx : List Fx) :
    tilePlan u c codes srcs dsts reads o l writes fx = ⟨codes, srcs, dsts, false, o, l, writes, fx, 0⟩ :=
  if_neg (by simpa using clean)

/-! ## The words of an operation -/

/-- Word i of the operation's second input is `second i`: a word of the second source, or the constant that `mod` names; an
operation of one input sees neither (R310). -/
def ElemOp.Sees (e : ElemOp) (u : State) (c : Nat) (mod : BitVec 18) (tb : Nat) (second : Nat → Nat) : Prop :=
  ∀ v i, e.inputs v (second i) =
    e.inputs v (if e.two then tileWord u c tb i else Tab.get 0 (core u c).consts (mod.toNat / 128 % 16))

/-- The words that an operation computes from its first source, tile t, and its second input (R303 to R309). -/
def elemResult (e : ElemOp) (u : State) (c : Nat) (mod : BitVec 18) (t : Nat) (second : Nat → Nat) : List Nat :=
  ((List.range 512).map fun i => e.inputs (tileWord u c t i) (second i)).map
    (wordOp e.op (narrowMode mod) (lowPrime u c mod) (highPrime u c mod) e.f)

/-- Each word's inputs are below the moduli (R307, R308). -/
def InputsInRange (u : State) (c : Nat) (mod : BitVec 18) (t : Nat) (second : Nat → Nat) : Prop :=
  ∀ i < 512, InRange (narrowMode mod) (lowPrime u c mod) (highPrime u c mod) (tileWord u c t i) ∧
    InRange (narrowMode mod) (lowPrime u c mod) (highPrime u c mod) (second i)

/-- Word i, for each i, holds the residues that f names for the operation's inputs. -/
def HoldsResidues (u : State) (c : Nat) (mod : BitVec 18) (f : Nat → Nat → Nat → Nat) (word : Nat → Nat) (t : Nat)
    (second : Nat → Nat) : Prop :=
  ∀ i < 512, Residues (narrowMode mod) (lowPrime u c mod) (highPrime u c mod) f (word i) (tileWord u c t i) (second i)

variable {u : State} {c : Nat} {mod : BitVec 18} {ta tb : Nat} {e : ElemOp} {f : Nat → Nat → Nat → Nat} {second : Nat → Nat}

theorem ElemOp.sees_two (two : e.two = true) : e.Sees u c mod tb (tileWord u c tb) := fun v i => by
  rw [if_pos two]

theorem ElemOp.sees_constant (two : e.two = false) : e.Sees u c mod tb fun _ => Tab.get 0 (core u c).consts (mod.toNat / 128 % 16) :=
  fun v i => by rw [two, if_neg Bool.false_ne_true]

theorem ElemOp.sees_one (one : (e.two || e.konst) = false) : e.Sees u c mod tb second := fun v i => by
  simp only [ElemOp.inputs, one, Bool.false_eq_true, if_false]

theorem elemResult_length : (elemResult e u c mod ta second).length = 512 := by simp [elemResult]

/-- What the operation makes of its source tiles, of which none has an input of `q` or more. -/
theorem elemWords_tiles (single : ¬(e.two = true ∧ e.konst = true)) (sees : e.Sees u c mod tb second)
    (inRange : InputsInRange u c mod ta second) (ga gb : Nat) :
    elemWords e (narrowMode mod) (lowPrime u c mod) (highPrime u c mod) (Tab.get 0 (core u c).consts (mod.toNat / 128 % 16))
      ((e.sources (.tile ta ga) (.tile tb gb)).map fun o => wordsOf (tileBytes u c o)) =
    (elemResult e u c mod ta second, false) := by
  have words : (e.sources (.tile ta ga) (.tile tb gb)).map (fun o => wordsOf (tileBytes u c o)) =
      if e.two then [(List.range 512).map (tileWord u c ta), (List.range 512).map (tileWord u c tb)]
      else [(List.range 512).map (tileWord u c ta)] := by
    unfold ElemOp.sources
    split <;> simp only [List.map_cons, List.map_nil, wordsOf_tileBytes]
  rw [words, elemWords_eq single]
  simp only [← sees _ _]
  refine congrArg (Prod.mk _) (List.any_eq_false.2 fun l hl => ?_)
  obtain ⟨i, hi, rfl⟩ := List.mem_map.1 hl
  obtain ⟨first, last⟩ := inRange i (List.mem_range.1 hi)
  exact Bool.not_eq_true _ ▸ wordHit_inputs first last

/-- The result holds the residues that f names, and its words fit 64 bits. -/
theorem elemResult_holds (gives : e.Gives f) (ok : primesOk u c (mod.toNat / 2048 % 64) (narrowMode mod) = true)
    (h0 : (lowPrime u c mod).sound = true) (h1 : narrowMode mod = true → (highPrime u c mod).sound = true)
    (inRange : InputsInRange u c mod ta second) :
    HoldsResidues u c mod f ((elemResult e u c mod ta second).getD · 0) ta second ∧
      ∀ i < 512, (elemResult e u c mod ta second).getD i 0 < 2 ^ 64 := by
  refine forall₂_and.1 fun i hi => ?_
  have word : (elemResult e u c mod ta second).getD i 0 = wordOp e.op (narrowMode mod) (lowPrime u c mod) (highPrime u c mod) e.f
      (e.inputs (tileWord u c ta i) (second i)) := by
    rw [List.getD_eq_getElem _ _ (by rwa [elemResult_length])]
    simp only [elemResult, List.getElem_map, List.getElem_range]
  obtain ⟨first, last⟩ := inRange i hi
  have named := residues_wordOp gives h0 h1 first last
  beta_reduce
  rw [word]
  exact ⟨named, residues_lt gives h0 h1 (fun narrow => primesOk_narrow (narrow ▸ ok) h0 (h1 narrow)) first last named⟩

/-! ## The issue -/

variable {s : State} {a : Nat} {b : Block} {x : XIns} {r : Resolved} {d gd ga gb : Nat}

/-- The plan of an element-wise operation in the tile form, with no failure, no poison and no input of `q` or more. -/
theorem elemPlan_tiles (single : ¬(e.two = true ∧ e.konst = true)) (sees : e.Sees u c mod tb second)
    (ok : primesOk u c (mod.toNat / 2048 % 64) (narrowMode mod) = true) (hd : d < 24) (ha : ta < 16) (hb : e.two = true → tb < 16)
    (clean : (e.reads (.tile d gd) (.tile ta ga) (.tile tb gb)).all (fun v => !opdPoisoned u c v) = true)
    (inRange : InputsInRange u c mod ta second) :
    elemPlan e c mod u a (.tile d gd :: e.sources (.tile ta ga) (.tile tb gb)) =
      ⟨[], (e.sources (.tile ta ga) (.tile tb gb)).flatMap Opd.storage, [(d, gd)], false, e.occ, e.lat,
        if e.acc then [] else [(Mem.tile c d 0, none, bytesOf (elemResult e u c mod ta second))],
        if e.acc then
          [.macc d (narrowMode mod) false (elemResult e u c mod ta second) (lowPrime u c mod) (highPrime u c mod)]
        else [], 0⟩ := by
  unfold elemPlan
  simp only [List.getD_cons_zero, List.drop_one, List.tail_cons, formOf_sources, storageCodes_sources hd ha hb, bits_entry,
    bits_constant, ok, elemWords_tiles single sees inRange]
  cases acc : e.acc
  all_goals
    rw [ElemOp.reads, acc] at clean
    exact tilePlan_of_clean clean ..

/-- An element-wise instruction whose operands are ready in the tile form issues as its operation, which computes in every word
the residues that f names (R248, R253, R257, R301, R303 to R311). -/
theorem elem_issues {n : Instr} (runs : exec n s = guarded (decide (c < 800)) s (elem e s c x)) (gives : e.Gives f)
    (single : ¬(e.two = true ∧ e.konst = true)) (sees : e.Sees u c x.mod tb second)
    (ready : Ready s u c a b x (if e.two then [x.dst, x.srca, x.srcb] else [x.dst, x.srca]) r)
    (vals : r.vals = .tile d gd :: e.sources (.tile ta ga) (.tile tb gb))
    (ok : primesOk u c (x.mod.toNat / 2048 % 64) (narrowMode x.mod) = true) (hd : d < 24) (ha : ta < 16)
    (hb : e.two = true → tb < 16)
    (clear : Clear u c 0 a e.occ e.lat ((e.sources (.tile ta ga) (.tile tb gb)).flatMap Opd.storage) [(d, gd)])
    (clean : (e.reads (.tile d gd) (.tile ta ga) (.tile tb gb)).all (fun v => !opdPoisoned u c v) = true)
    (h0 : (lowPrime u c x.mod).sound = true) (h1 : narrowMode x.mod = true → (highPrime u c x.mod).sound = true)
    (inRange : InputsInRange u c x.mod ta second) :
    ∃ t o, exec n s = .next t ∧ Flies u t c 0 a (b.word + b.xpos) r o ∧ o.occ = e.occ ∧ o.lat = e.lat ∧ o.dsts = [d] ∧
      o.srcs = (e.sources (.tile ta ga) (.tile tb gb)).flatMap (fun v => v.storage.map Prod.fst) ∧ o.status = 0 ∧
      if e.acc then ∃ l, o.writes = [] ∧ o.fx = [.macc d (narrowMode x.mod) false l (lowPrime u c x.mod) (highPrime u c x.mod)] ∧
        HoldsResidues u c x.mod f (l.getD · 0) ta second
      else ∃ m, o.writes = [(Mem.tile c d 0, none, m)] ∧ m.length = 4096 ∧ o.fx = [] ∧
        HoldsResidues u c x.mod f (word64 m) ta second := by
  have plan := elemPlan_tiles (a := a) single sees ok hd ha hb clean inRange
  obtain ⟨holds, fits⟩ := elemResult_holds gives ok h0 h1 inRange
  have issues := issuesAs_of_ready (plan := elemPlan e c x.mod) runs ready
  rw [vals, plan] at issues
  obtain ⟨t, o, next, flies, occ, lat, srcs, dsts, writes, status, fx⟩ := issues (by simp) clear.1
    (schedule_of_clear (eng := 0) rfl clear) (by cases e.acc <;> simp [Fx.early])
  refine ⟨t, o, next, flies, occ, lat, dsts, srcs.trans List.map_flatMap, status, ?_⟩
  cases acc : e.acc
  · rw [acc] at writes fx
    refine ⟨_, writes, by rw [bytesOf_length, elemResult_length], fx, fun i hi => ?_⟩
    rw [word64_bytesOf (hi.trans_eq elemResult_length.symm), Nat.mod_eq_of_lt (fits i hi)]
    exact holds i hi
  · rw [acc] at writes fx
    exact ⟨_, writes, fx, holds⟩

end Sys2Proof.Machine
end

section
/-! SUPPORT. The element-wise residues of the PE and the reduction of R303. -/

namespace Sys2Proof.Machine

open Sys2Proof

/-- Settles O18: each operation gives its residue in one lane (`reduce_eq_mod` for products), an instruction that is ready issues
as its plan says (`issuesAs_of_ready`), and the words of that plan are lanes of the source tiles (`elem_issues`). -/
theorem polynomialArithmetic : Obligations.PolynomialArithmetic := by
  unfold Obligations.PolynomialArithmetic
  refine ⟨?_, fun p x sound below => reduce_eq_mod sound below, fun q v e hq => powMod_eq hq v e⟩
  intro s u c a b x r d gd ta ga tb gb p narrow p0 p1 konst at_ inRange is runs two one os2 os1
  exact ⟨
    elem_issues rfl eMadd_gives (by decide) (ElemOp.sees_two rfl),
    elem_issues rfl eMsub_gives (by decide) (ElemOp.sees_two rfl),
    elem_issues (tb := tb) (gb := gb) (second := at_ ta) rfl eMneg_gives (by decide) (ElemOp.sees_one rfl),
    elem_issues (tb := tb) (gb := gb) (second := at_ ta) rfl eMcpy_gives (by decide) (ElemOp.sees_one rfl),
    elem_issues rfl eMmul_gives (by decide) (ElemOp.sees_two rfl),
    elem_issues rfl eMmac_gives (by decide) (ElemOp.sees_two rfl),
    elem_issues (tb := tb) (gb := gb) rfl eMmulk_gives (by decide) (ElemOp.sees_constant rfl),
    elem_issues (tb := tb) (gb := gb) rfl eMmack_gives (by decide) (ElemOp.sees_constant rfl)⟩

end Sys2Proof.Machine
end

section
/-! SUPPORT. What a core does of itself before a beat is the same whatever its holds are and wherever its access stream stands
(R253, R489). -/

namespace Sys2Proof.Machine

open Sys2Proof

/-! ## The machine with other cores -/

/-- The machine with this table of cores. -/
def State.withCores (s : State) (l : Tab Core) : State := { s with cores := l }

section

variable (s : State) (l : Tab Core)

@[simp] theorem now_withCores : now (s.withCores l) = now s := rfl
@[simp] theorem ownerOf_withCores (x : Nat) : ownerOf (s.withCores l) x = ownerOf s x := rfl
@[simp] theorem findGroup_withCores (o : Option Nat) (i : Nat) : findGroup (s.withCores l) o i = findGroup s o i := rfl
@[simp] theorem landingAt_withCores (k : Nat) : landingAt (s.withCores l) k = landingAt s k := rfl
@[simp] theorem power_withCores : (s.withCores l).power = s.power := rfl

@[simp] theorem wr_withCores (k v : Nat) : wr (s.withCores l) k v = (wr s k v).withCores l := rfl
@[simp] theorem inc_withCores (k : Nat) : inc (s.withCores l) k = (inc s k).withCores l := rfl

variable {s l}

/-- A choice that no core decides, between machines of which no core takes part. -/
theorem ite_withCores {p q : Prop} [Decidable p] [Decidable q] {a b t u : State} (same : p ↔ q) (ha : a = t.withCores l)
    (hb : b = u.withCores l) : (if p then a else b) = (if q then t else u).withCores l := by
  rw [ha, hb, apply_ite (State.withCores · l)]
  exact if_congr same rfl rfl

/-- Steps of which no core takes part, in a row. -/
theorem foldl_withCores {α : Type} {g : State → α → State} (hg : ∀ s l a, g (State.withCores s l) a = (g s a).withCores l)
    (m : List α) : m.foldl g (s.withCores l) = (m.foldl g s).withCores l :=
  List.foldl_hom (State.withCores · l) fun t a => hg t l a

variable (s l)

/-! ### Counters -/

theorem countAt_withCores (cfg val ev i n : Nat) :
    countAt (s.withCores l) cfg val ev i n = (countAt s cfg val ev i n).withCores l := ite_withCores Iff.rfl rfl rfl

@[simp] theorem countDev_withCores (ev i n : Nat) : countDev (s.withCores l) ev i n = (countDev s ev i n).withCores l :=
  foldl_withCores (fun t m _ => by exact countAt_withCores t m ..) _

@[simp] theorem countCore_withCores (c ev n : Nat) : countCore (s.withCores l) c ev n = (countCore s c ev n).withCores l := by
  unfold countCore countSec
  rw [foldl_withCores (fun t m _ => by exact countAt_withCores t m ..), foldl_withCores (fun t m _ => by exact countAt_withCores t m ..),
    countDev_withCores]

@[simp] theorem noteNd_withCores (cause : Nat) (p : Option Nat) :
    noteNd (s.withCores l) cause p = (noteNd s cause p).withCores l := by cases p <;> simp [noteNd]

@[simp] theorem noteFault_withCores (c code word beat : Nat) (f : Found) :
    noteFault (s.withCores l) c code word beat f = (noteFault s c code word beat f).withCores l := by
  simp only [noteFault, wr_withCores, inc_withCores, countCore_withCores]
  exact ite_withCores Iff.rfl rfl (ite_withCores Iff.rfl rfl rfl)

@[simp] theorem paceBreak_withCores (x : Nat) : paceBreak (s.withCores l) x = (paceBreak s x).withCores l := by
  refine ite_withCores Iff.rfl rfl ?_
  simp only [inc_withCores, ownerOf_withCores]
  cases ownerOf (inc s (E.pace_break_count + x)) x with
  | none => rfl
  | some p => exact ite_withCores Iff.rfl (noteNd_withCores ..) rfl

/-! ### Traffic to a sector -/

theorem returnAsked_withCores : returnAsked (s.withCores l) = (returnAsked s).withCores l :=
  foldl_withCores (fun t m d => by exact ite_withCores Iff.rfl rfl rfl) _

theorem recordRefusal_withCores (b r st k : Nat) :
    recordRefusal (s.withCores l) b r st k = (recordRefusal s b r st k).withCores l := by
  simp only [recordRefusal, now_withCores, wr_withCores,
    foldl_withCores (g := fun u i => wr u (E.sleep_refusal_log + i + 1) (rd u (E.sleep_refusal_log + i))) fun _ _ _ => rfl]

theorem endEntry_withCores (b r k : Nat) : endEntry (s.withCores l) b r k = (endEntry s b r k).withCores l := by
  simp only [endEntry, power_withCores]
  cases s.power.entry with
  | none => rfl
  | some e =>
    have ended : recordRefusal (returnAsked { s.withCores l with power := { s.power with entry := none } }) b r e.state k =
        (recordRefusal (returnAsked { s with power := { s.power with entry := none } }) b r e.state k).withCores l := by
      rw [← recordRefusal_withCores, ← returnAsked_withCores]; rfl
    dsimp only
    rw [ended, ← wr_withCores, ← wr_withCores]
    exact congrArg (fun t => wr (wr t _ _) _ _) (ite_withCores Iff.rfl (inc_withCores ..) (inc_withCores ..))

theorem workReaches_withCores (b : Nat) : workReaches (s.withCores l) b = (workReaches s b).withCores l := by
  simp only [workReaches, power_withCores]
  cases s.power.entry with
  | none => rfl
  | some e => exact ite_withCores Iff.rfl (endEntry_withCores ..) rfl

theorem wakeOne_withCores (d : Nat) : wakeOne (s.withCores l) d = (wakeOne s d).withCores l :=
  ite_withCores Iff.rfl rfl (ite_withCores Iff.rfl rfl rfl)

theorem wakeDomain_withCores (d : Nat) : wakeDomain (s.withCores l) d = (wakeDomain s d).withCores l :=
  ite_withCores Iff.rfl rfl (ite_withCores Iff.rfl (wakeOne_withCores ..)
    (foldl_withCores (s := { s with power := { s.power with routersOff := 0, deep := 0 } }) (fun t m d => wakeOne_withCores t m d) _))

@[simp] theorem trafficTo_withCores (x : Nat) : trafficTo (s.withCores l) x = (trafficTo s x).withCores l := by
  simp only [trafficTo, workReaches_withCores]
  exact ite_withCores Iff.rfl rfl (wakeDomain_withCores ..)

end

end Sys2Proof.Machine
end

section
/-! SUPPORT. Machines that are alike but for one core's access stream, and the operations that keep them so (R253, R489). -/

namespace Sys2Proof.Machine

open Sys2Proof

/-! ## Machines that are alike but for one core's access stream -/

/-- What only the access stream of a core changes: its holds, whether the `RNEXT` that waits has passed its units, the place of
the stream in its block, and whether its part has ended. -/
structure Aside where
  holds : Tab (Option RingHold)
  passed : Bool
  apos : Nat
  adone : Bool

/-- A core with this in place of its own. -/
def Core.withAside (k : Core) (v : Aside) : Core :=
  { k with holds := v.holds, passed := v.passed, block := k.block.map fun b => { b with apos := v.apos, adone := v.adone } }

/-- The second machine is the first, but that core c has v. -/
inductive Alike (c : Nat) (v : Aside) (s : State) : State → Prop
  | mk (l : Tab Core) (cores : ∀ j, core (s.withCores l) j = if j = c then (core s j).withAside v else core s j) :
    Alike c v s (s.withCores l)

/-- The same of machines with what they answer, which is the same. -/
def AlikeWith {β : Type} (c : Nat) (v : Aside) (p q : State × β) : Prop := Alike c v p.1 q.1 ∧ q.2 = p.2

/-! ### What is read of two such machines -/

namespace Alike

variable {c : Nat} {v : Aside} {s t : State}

theorem core_eq (h : Alike c v s t) (j : Nat) : core t j = if j = c then (core s j).withAside v else core s j := by
  obtain ⟨l, cores⟩ := h
  exact cores j

/-- What is read beside the cores is the same. -/
theorem reads {α : Type} (h : Alike c v s t) (g : State → α) (hg : ∀ l, g (s.withCores l) = g s) : g t = g s := by
  obtain ⟨l, _⟩ := h
  exact hg l

/-- So is what is read of a core beside its access stream. -/
theorem core_reads {α : Type} (h : Alike c v s t) (g : Core → α) (hg : ∀ k : Core, g (k.withAside v) = g k) (j : Nat) :
    g (core t j) = g (core s j) := by
  rw [h.core_eq]
  split
  · exact hg _
  · rfl

theorem mem (h : Alike c v s t) : t.mem = s.mem := h.reads State.mem fun _ => rfl
theorem poison (h : Alike c v s t) : t.poison = s.poison := h.reads State.poison fun _ => rfl
theorem flips (h : Alike c v s t) : t.flips = s.flips := h.reads State.flips fun _ => rfl
theorem rdBytes (h : Alike c v s t) (k n : Nat) : rdBytes t k n = rdBytes s k n := rdBytes_congr h.mem k n
theorem findGroup (h : Alike c v s t) (o : Option Nat) (i : Nat) : findGroup t o i = findGroup s o i :=
  h.reads (Machine.findGroup · o i) fun _ => rfl

theorem inA (h : Alike c v s t) (k : Nat) : inA t k = inA s k := by
  unfold Machine.inA
  rw [h.core_reads Core.cmAttr fun _ => rfl]

theorem wordBytes (h : Alike c v s t) : wordBytes t = wordBytes s := by
  funext k
  unfold Machine.wordBytes
  rw [h.inA]

theorem poisoned (h : Alike c v s t) (k n : Nat) : poisoned t k n = poisoned s k n := by
  unfold Machine.poisoned
  rw [h.poison, h.wordBytes]

theorem groupOf (h : Alike c v s t) (d : Nat) (va : Option Nat) (k : Nat) : groupOf t d va k = groupOf s d va k := by
  unfold Machine.groupOf
  simp only [h.core_reads Core.bound fun _ => rfl, h.findGroup]

theorem boundRuns (h : Alike c v s t) (g : Group) : boundRuns t g = boundRuns s g := by
  unfold Machine.boundRuns
  simp only [h.core_reads Core.bound fun _ => rfl, h.core_reads Core.running fun _ => rfl]

/-! ### What keeps them alike -/

/-- An operation in which no core takes part. -/
theorem apart (h : Alike c v s t) (f : State → State) (hf : ∀ s l, f (s.withCores l) = (f s).withCores l) : Alike c v (f s) (f t) := by
  obtain ⟨l, cores⟩ := h
  have same := congrArg State.cores (hf s s.cores)
  rw [hf]
  refine ⟨l, fun j => (cores j).trans ?_⟩
  unfold core
  rw [show (f s).cores = s.cores from same]

/-- An update beside the cores, of the two machines alike. -/
theorem update (h : Alike c v s t) {s' t' : State} (hs : s'.cores = s.cores) (ht : t' = s'.withCores t.cores) : Alike c v s' t' := by
  obtain ⟨l, cores⟩ := h
  rw [ht]
  refine ⟨l, fun j => (cores j).trans ?_⟩
  unfold core
  rw [hs]

/-- An update of a core beside its access stream. -/
theorem setCore (h : Alike c v s t) (d : Nat) {k k' : Core} (hk : k' = if d = c then k.withAside v else k) :
    Alike c v (setCore s d k) (setCore t d k') := by
  obtain ⟨l, cores⟩ := h
  refine ⟨Tab.set Core.init l d k', fun j => ?_⟩
  change core (Machine.setCore (s.withCores l) d k') j = _
  rw [core_setCore, core_setCore, cores]
  by_cases at_ : j = d
  · rw [if_pos at_, if_pos at_, hk, at_]
  · rw [if_neg at_, if_neg at_]

theorem onCore (h : Alike c v s t) (d : Nat) {f : Core → Core} (hf : ∀ k : Core, f (k.withAside v) = (f k).withAside v) :
    Alike c v (onCore s d f) (onCore t d f) := by
  refine h.setCore d ?_
  rw [h.core_eq, apply_ite f, hf]

theorem ite {p q : Prop} [Decidable p] [Decidable q] {a b a' b' : State} (same : q ↔ p) (ha : Alike c v a a') (hb : Alike c v b b') :
    Alike c v (if p then a else b) (if q then a' else b') := by
  by_cases hp : p
  · rwa [if_pos hp, if_pos (same.2 hp)]
  · rwa [if_neg hp, if_neg (mt same.1 hp)]

theorem foldl {α : Type} {g g' : State → α → State} (step : ∀ {s t}, Alike c v s t → ∀ a, Alike c v (g s a) (g' t a)) (m : List α)
    (h : Alike c v s t) : Alike c v (m.foldl g s) (m.foldl g' t) := by
  induction m generalizing s t with
  | nil => exact h
  | cons a m ih => exact ih (step h a)

theorem pair {β : Type} (h : Alike c v s t) (b : β) : AlikeWith c v (s, b) (t, b) := ⟨h, rfl⟩

end Alike

namespace AlikeWith

variable {β : Type} {c : Nat} {v : Aside} {p q : State × β}

theorem ite {r r' : Prop} [Decidable r] [Decidable r'] {a b a' b' : State × β} (same : r' ↔ r) (ha : AlikeWith c v a a')
    (hb : AlikeWith c v b b') : AlikeWith c v (if r then a else b) (if r' then a' else b') := by
  by_cases hr : r
  · rwa [if_pos hr, if_pos (same.2 hr)]
  · rwa [if_neg hr, if_neg (mt same.1 hr)]

theorem foldl {α : Type} {g g' : State × β → α → State × β}
    (step : ∀ {s t}, Alike c v s t → ∀ b a, AlikeWith c v (g (s, b) a) (g' (t, b) a)) (m : List α)
    (h : AlikeWith c v p q) : AlikeWith c v (m.foldl g p) (m.foldl g' q) := by
  induction m generalizing p q with
  | nil => exact h
  | cons a m ih =>
    obtain ⟨s, b⟩ := p
    obtain ⟨t, b'⟩ := q
    obtain ⟨alike, rfl : b' = b⟩ := h
    exact ih (step alike b' a)

/-- An operation on a machine and what it answered. -/
theorem andThen {γ : Type} (f : State × β → State × γ) (h : AlikeWith c v p q)
    (hf : ∀ {s t}, Alike c v s t → ∀ b, AlikeWith c v (f (s, b)) (f (t, b))) : AlikeWith c v (f p) (f q) := by
  obtain ⟨s, b⟩ := p
  obtain ⟨t, b'⟩ := q
  obtain ⟨alike, rfl : b' = b⟩ := h
  exact hf alike b'

end AlikeWith

/-! ### Memory -/

namespace Alike

variable {c : Nat} {v : Aside} {s t : State} (h : Alike c v s t)
include h

theorem wrBytes (k : Nat) (d : List Byte) : Alike c v (wrBytes s k d) (wrBytes t k d) := by
  refine h.update rfl ?_
  unfold Machine.wrBytes
  rw [h.wordBytes]
  obtain ⟨l, _⟩ := h
  rfl

theorem mark (k : Nat) : Alike c v (mark s k) (mark t k) := by
  refine h.update rfl ?_
  unfold Machine.mark
  rw [h.wordBytes]
  obtain ⟨l, _⟩ := h
  rfl

theorem markWords (k n : Nat) : Alike c v (markWords s k n) (markWords t k n) := by
  unfold Machine.markWords
  rw [h.wordBytes]
  exact foldl (fun h _ => by exact h.mark _) _ h

theorem inc (k : Nat) : Alike c v (inc s k) (inc t k) := h.apart (Machine.inc · k) fun s l => inc_withCores s l k

theorem wr (k n : Nat) : Alike c v (wr s k n) (wr t k n) := h.apart (Machine.wr · k n) fun _ _ => rfl

theorem incBy (k n : Nat) : Alike c v (incBy s k n) (incBy t k n) := h.apart (Machine.incBy · k n) fun _ _ => rfl

theorem loseWord (k : Nat) : Alike c v (loseWord s k) (loseWord t k) := by
  have lost (x a : Nat) (b : State → Nat) (same : b t = b s) {s' t' : State} (marked : Alike c v s' t') :
      Alike c v (onchipUe s' x a (b s)) (onchipUe t' x a (b t)) := by
    rw [same]
    exact marked.apart (onchipUe · x a (b s)) fun _ _ => rfl
  have free : t.freeCtr = s.freeCtr := h.reads State.freeCtr fun _ => rfl
  unfold Machine.loseWord
  simp only [free]
  refine ite Iff.rfl ?_ (ite Iff.rfl ?_ ?_)
  · exact lost _ _ (coreBlock · _) (h.reads (coreBlock · _) fun _ => rfl)
      ((h.mark k).apart (fun u => { u with freeCtr := s.freeCtr + 1 }) fun _ _ => rfl)
  · exact lost _ _ (fun _ => _) rfl (h.mark k)
  · exact lost _ _ (coreBlock · _) (h.reads (coreBlock · _) fun _ => rfl) (h.mark k)

theorem meetWord (k n : Nat) : Alike c v (meetWord s k n) (meetWord t k n) := by
  have met : Alike c v { s with flips := Tab.set 0 s.flips k 0 } { t with flips := Tab.set 0 t.flips k 0 } :=
    h.apart (fun u => { u with flips := Tab.set 0 u.flips k 0 }) fun _ _ => rfl
  have rebuilds : rebuildable t k = rebuildable s k := by
    unfold rebuildable lineLost
    simp only [h.flips, h.poisoned]
  unfold Machine.meetWord
  simp only [h.inA, rebuilds]
  refine ite Iff.rfl (ite Iff.rfl met (met.loseWord k)) (ite Iff.rfl (ite Iff.rfl (met.inc _) (met.loseWord k)) (ite Iff.rfl
    (ite Iff.rfl (met.inc _) (met.loseWord k)) (ite Iff.rfl (met.inc _) (ite Iff.rfl ?_ (met.loseWord k)))))
  exact (met.inc _).apart (paceBreak · _) fun s l => paceBreak_withCores s l _

theorem meet (k n : Nat) : Alike c v (meet s k n) (meet t k n) := by
  unfold Machine.meet
  rw [h.wordBytes, h.flips]
  exact foldl (fun h e => by exact h.meetWord ..) _ h

theorem meetEdges (k n : Nat) : Alike c v (meetEdges s k n) (meetEdges t k n) := by
  unfold Machine.meetEdges
  rw [h.wordBytes, h.flips]
  exact foldl (fun h e => by exact h.meetWord ..) _ h

theorem hbmStore (a : Nat) (d : List Byte) : Alike c v (hbmStore s a d) (hbmStore t a d) :=
  ite Iff.rfl ((h.wrBytes ..).apart (clearLost · _ _) fun _ _ => ite_withCores Iff.rfl rfl rfl) (h.wrBytes ..)

theorem storeAt (k : Nat) (d : List Byte) : Alike c v (storeAt s k d) (storeAt t k d) :=
  ite Iff.rfl (h.hbmStore k d) ((h.meetEdges ..).wrBytes k d)

end Alike

end Sys2Proof.Machine
end

section
/-! SUPPORT. Stitch groups, and the writes of a core, in machines that are alike (R501 to R537). -/

namespace Sys2Proof.Machine

open Sys2Proof

/-! ## Groups -/

theorem returnCredits_withCores (s : State) (l : Tab Core) (k n : Nat) :
    returnCredits (s.withCores l) k n = (returnCredits s k n).withCores l := ite_withCores Iff.rfl rfl rfl

theorem discard_withCores (s : State) (l : Tab Core) (o : Option Nat) (i : Nat) :
    discard (s.withCores l) o i = (discard s o i).withCores l := by
  simp only [discard, findGroup_withCores]
  cases findGroup s o i with
  | none => rfl
  | some g =>
    simp only [foldl_withCores (g := fun t (r : Granule) => returnCredits t r.base r.credits)
      fun t m r => returnCredits_withCores t m r.base r.credits]
    rfl

/-- The status of a resolution of a group of this device is kept (R536). -/
def resolvedAs (s : State) (o : Option Nat) (i code cause step : Nat) : State :=
  if o.isNone then { s with resolved := Tab.set none s.resolved i (some (code, cause, step)) } else s

/-- The record of a resolved group goes, or stands as aborting while a bound core runs (R517, R525). -/
def leftGroup (s : State) (o : Option Nat) (i code : Nat) (g : Group) : State :=
  if code = 0x0504 ∧ boundRuns s g then setGroup s o i fun g => { g with state := 5, status := code }
  else
    let s := { s with groups := s.groups.filter fun g => !(g.opener == o && g.id == i) }
    if o.isSome then s else g.binds.foldl (fun t b => if (core t b.core).bound = some i then unbind t b.core else t) s

/-- How a group is resolved, step by step. -/
theorem resolveGroup_eq {s : State} {o : Option Nat} {i code cause : Nat} {g : Group} (found : findGroup s o i = some g) :
    resolveGroup s o i code cause =
      let t := leftGroup (resolvedAs (discard s o i) o i code cause g.step) o i code g
      noteGroups (if code = 0 then inc t E.sg_commit_count else inc t E.sg_abort_count) := by
  unfold resolveGroup
  rw [found]
  rfl

namespace Alike

variable {c : Nat} {v : Aside} {s t : State} (h : Alike c v s t)
include h

theorem setGroup (o : Option Nat) (i : Nat) (f : Group → Group) : Alike c v (setGroup s o i f) (setGroup t o i f) :=
  h.apart (Machine.setGroup · o i f) fun _ _ => rfl

theorem noteGroups : Alike c v (noteGroups s) (noteGroups t) := h.apart Machine.noteGroups fun _ _ => rfl

theorem discard (o : Option Nat) (i : Nat) : Alike c v (discard s o i) (discard t o i) :=
  h.apart (Machine.discard · o i) fun s l => discard_withCores s l o i

theorem unbind (d : Nat) : Alike c v (unbind s d) (unbind t d) := by
  refine ite (by rw [h.core_reads Core.bound fun _ => rfl]) h (h.setCore d ?_)
  rw [h.core_eq]
  split <;> rfl

theorem resolvedAs (o : Option Nat) (i code cause step : Nat) :
    Alike c v (resolvedAs s o i code cause step) (resolvedAs t o i code cause step) :=
  ite Iff.rfl (h.apart (fun u => { u with resolved := Tab.set none u.resolved i (some (code, cause, step)) }) fun _ _ => rfl) h

theorem leftGroup (o : Option Nat) (i code : Nat) (g : Group) : Alike c v (leftGroup s o i code g) (leftGroup t o i code g) := by
  have gone : Alike c v { s with groups := s.groups.filter fun g => !(g.opener == o && g.id == i) }
      { t with groups := t.groups.filter fun g => !(g.opener == o && g.id == i) } :=
    h.apart (fun u => { u with groups := u.groups.filter fun g => !(g.opener == o && g.id == i) }) fun _ _ => rfl
  refine ite (by rw [h.boundRuns]) (h.setGroup ..) (ite Iff.rfl gone (gone.foldl (fun h b => ?_) g.binds))
  exact ite (by rw [h.core_reads Core.bound fun _ => rfl]) (h.unbind _) h

theorem resolveGroup (o : Option Nat) (i code cause : Nat) :
    Alike c v (resolveGroup s o i code cause) (resolveGroup t o i code cause) := by
  cases found : Machine.findGroup s o i with
  | none =>
    rw [Machine.resolveGroup, Machine.resolveGroup, h.findGroup, found]
    exact h
  | some g =>
    have left := ((h.discard o i).resolvedAs o i code cause g.step).leftGroup o i code g
    rw [resolveGroup_eq found, resolveGroup_eq ((h.findGroup o i).trans found)]
    exact (ite Iff.rfl (left.inc _) (left.inc _)).noteGroups

theorem failGroup (o : Option Nat) (i code cause : Nat) : Alike c v (failGroup s o i code cause) (failGroup t o i code cause) := by
  unfold Machine.failGroup
  rw [h.findGroup]
  cases Machine.findGroup s o i with
  | none => exact h
  | some g => exact ite Iff.rfl (h.resolveGroup ..) ((h.discard o i).setGroup ..)

theorem joinGranule (g : Group) (k : Nat) (d : List Byte) (cred : Nat) (bad : Bool) :
    joinGranule t g k d cred bad = joinGranule s g k d cred bad := by
  unfold Machine.joinGranule marksAfter
  simp only [h.wordBytes, h.rdBytes, h.poison, h.reads (shadowUsedAt · _) fun _ => rfl, h.reads (shadowCap · _) fun _ => rfl]

theorem groupStore (o : Option Nat) (i k : Nat) (d : List Byte) (cred : Nat) (bad : Bool) :
    AlikeWith c v (groupStore s o i k d cred bad) (groupStore t o i k d cred bad) := by
  unfold Machine.groupStore
  rw [h.findGroup]
  cases Machine.findGroup s o i with
  | none => exact h.pair _
  | some g =>
    refine .ite Iff.rfl (h.pair _) (.ite Iff.rfl (h.pair _) ?_)
    refine AlikeWith.andThen (fun r : State × Bool => if r.2 then (Machine.noteGroups r.1, 0)
        else (Machine.setGroup (Machine.discard r.1 o i) o i fun g => { g with status := 0x0501 }, 0x0501))
      (.foldl ?_ _ (h.pair true)) fun h b => .ite Iff.rfl (h.noteGroups.pair 0) (((h.discard o i).setGroup ..).pair _)
    intro s t h b e
    refine .ite Iff.rfl (h.pair _) ?_
    dsimp only
    rw [h.findGroup]
    cases Machine.findGroup s o i with
    | none => exact h.pair _
    | some g =>
      dsimp only
      rw [h.joinGranule]
      cases Machine.joinGranule s g e.1 e.2 cred bad with
      | none => exact h.pair _
      | some g' => exact (h.setGroup ..).pair _

/-! ## Writes of a core -/

theorem noteLanded (k n : Nat) : Alike c v (noteLanded s k n) (noteLanded t k n) :=
  h.apart (Machine.noteLanded · k n) fun s l => by
    simp only [Machine.noteLanded, landingAt_withCores]
    cases landingAt s k <;> rfl

theorem coreStore (d : Nat) (va : Option Nat) (k : Nat) (l : List Byte) (bad : Bool) :
    AlikeWith c v (coreStore s d va k l bad) (coreStore t d va k l bad) := by
  unfold Machine.coreStore
  refine .ite (by rw [h.reads (inPool · k) fun _ => rfl, h.reads (ringAllowed · _ _) fun _ => rfl]) (h.pair _)
    (.ite (by rw [h.reads (lands · k _) fun _ => rfl, h.reads (landsClosing · k _) fun _ => rfl]) (h.pair _) ?_)
  have landed := ite (p := 2 ^ 38 ≤ k) (q := 2 ^ 38 ≤ k) Iff.rfl (h.noteLanded k l.length) h
  have reached := ite (p := 2 ^ 38 ≤ k ∧ bits k 36 32 ≠ d / 25) (q := 2 ^ 38 ≤ k ∧ bits k 36 32 ≠ d / 25) Iff.rfl
    (landed.apart (trafficTo · (bits k 36 32)) fun s l => trafficTo_withCores s l _) landed
  dsimp only
  rw [reached.groupOf]
  split
  · exact reached.groupStore ..
  · exact ⟨ite Iff.rfl ((reached.storeAt k l).markWords ..) (reached.storeAt k l), rfl⟩

theorem putPiece (d : Nat) (e : Nat × Option Nat × List Byte × Bool) : AlikeWith c v (putPiece s d e) (putPiece t d e) :=
  .ite Iff.rfl ⟨ite Iff.rfl ((h.wrBytes ..).markWords ..) (h.wrBytes ..), rfl⟩ (h.coreStore ..)

theorem putAll (d : Nat) (l : List (Nat × Option Nat × List Byte × Bool)) (st : Nat) :
    AlikeWith c v (putAll s d l st) (putAll t d l st) :=
  .foldl (fun h b e => ⟨(h.putPiece d e).1, congrArg (fun r => lowestCode [b, r]) (h.putPiece d e).2⟩) l (h.pair st)

end Alike

end Sys2Proof.Machine
end

section
/-! SUPPORT. Lines, transfers and operations that end before a beat, in machines that are alike (R242, R253, R256). -/

namespace Sys2Proof.Machine

open Sys2Proof

/-! ## What a core does of itself -/

/-- A group of this device fails with the status that a write of it would have had (R527). -/
def failFor (s : State) (o : Option Nat) (st : Nat) : State :=
  match o with
  | some i => if st = 0 then s else failGroup s none i 0x0506 st
  | none => s

/-- What a granted line carries: what was read for it already, or what stands at its source now. -/
def Grant.carries (g : Grant) (s : State) : List Byte × Bool := g.data.getD (rdBytes s g.src g.n, poisoned s g.src g.n)

/-- A granted line is written, and its status joins that of its transfer. -/
def writeGrant (s : State) (c : Nat) (g : Grant) (d : List Byte × Bool) : State :=
  let x := g.xfer.bind fun i => (core s c).xfers.find? (·.id == i)
  let r := putPiece (failFor s (groupOf s c g.dva g.dst) ((x.map Xfer.status).getD 0)) c (g.dst, g.dva, d.1, d.2)
  match x with
  | some x => onCore r.1 c fun k => k.mapXfer x.id fun x => { x with status := if x.status = 0 then r.2 else x.status }
  | none => r.1

/-- A granted line has been read, and waits for its write or joins what its transfer keeps. -/
def readGrant (s : State) (c : Nat) (g : Grant) (d : List Byte × Bool) : State :=
  match g.next, g.xfer with
  | some w, _ => onCore s c fun k => k.book { g with beat := w, write := true, next := none, data := some d }
  | none, some i => onCore s c fun k => k.mapXfer i fun x => { x with writes := x.writes ++ [(g.dst, g.dva, d.1, d.2)] }
  | none, none => s

theorem runGrant_eq (s : State) (c : Nat) (g : Grant) : runGrant s c g =
    let s := onCore s c fun k => { k with grants := k.grants.erase g }
    if g.n = 0 then s
    else
      let s := if g.data.isSome then s else meet s g.src g.n
      if g.write then writeGrant s c g (g.carries s) else readGrant s c g (g.carries s) := rfl

theorem settle_eq (s : State) (c : Nat) (x : Xfer) :
    settle s c x = putAll (failFor s (xferGroup s c x) x.status) c x.writes x.status := rfl

/-- A core whose load has ended: its tile has its next generation, and its queue the tile's entry (R242, R256, R372). -/
def Core.loaded (k : Core) (x : Xfer) (e : Nat) : Core :=
  let g := (Tab.get 0 k.gens x.tile + 1) % 8
  let k := { k with gens := Tab.set 0 k.gens x.tile g, raised := Tab.set 0 k.raised x.tile (e + 1) }.pushEntry x.queue false x.tile g e
  if x.kind == .ktile then k.tileLoaded x.dstContext x.cursor else k

theorem finishLoad_eq (s : State) (c : Nat) (x : Xfer) (e : Nat) : finishLoad s c x e =
    endXfer (onCore (settle s c x).1 c fun k => k.loaded x e) c x (settle s c x).2 e := rfl

/-- The core of an operation that has written its bytes takes its generations, and its block has lasted until then. -/
def Core.completed (k : Core) (o : Op) : Core :=
  { k with
    gens := o.dsts.foldl (fun t d => Tab.set 0 t d ((Tab.get 0 t d + 1) % 8)) k.gens
    beat := max k.beat o.last
    block := k.block.map fun b => { b with last := max b.last o.last } }

/-- The bytes of an operation are written, once its group has failed with its status, if any; the lowest status (R18, R527). -/
def writeOp (s : State) (c : Nat) (o : Op) : State × Nat :=
  o.writes.foldl (fun (p : State × Nat) e =>
    let q := applyWrite p.1 c e
    (q.1, lowestCode [p.2, q.2])) (failFor s (groupOfOp s c o) o.status, 0)

/-- An operation that has written its bytes has its other effects. -/
def takeEffect (s : State) (c : Nat) (o : Op) (l : List Fx) : State :=
  l.foldl (fun t f => applyFx t c o f) (onCore s c fun k => k.completed o)

theorem completeOp_eq (s : State) (c : Nat) (o : Op) : completeOp s c o =
    let r := writeOp s c o
    let t := takeEffect r.1 c o (o.fx.filter fun f => (f.group s c).isNone)
    let code := if o.status = 0 then r.2 else o.status
    if code = 0 then t else faultBlock t c code o.word o.issue ⟨0, 0, 0, 0⟩ := rfl

/-! ### Cores and their access streams -/

theorem completed_withAside (k : Core) (v : Aside) (o : Op) : (k.withAside v).completed o = (k.completed o).withAside v := by
  simp only [Core.withAside, Core.completed, Option.map_map]
  rfl

/-- A choice that the access stream does not decide, between cores. -/
theorem ite_withAside {v : Aside} {p q : Prop} [Decidable p] [Decidable q] {a b k l : Core} (same : p ↔ q) (ha : a = k.withAside v)
    (hb : b = l.withAside v) : (if p then a else b) = (if q then k else l).withAside v := by
  rw [ha, hb, apply_ite (Core.withAside · v)]
  exact if_congr same rfl rfl

theorem loaded_withAside (k : Core) (v : Aside) (x : Xfer) (e : Nat) : (k.withAside v).loaded x e = (k.loaded x e).withAside v := by
  unfold Core.loaded
  exact ite_withAside Iff.rfl rfl rfl

/-- A reduction's effect reads and writes summary registers and trackers alone (R442, R443, R446). -/
theorem applyVs_withAside (k : Core) (v : Aside) (u : VsUpd) : (k.withAside v).applyVs u = (k.applyVs u).withAside v := by
  cases u with
  | sum i fl p => rfl
  | best i fl mx o =>
    cases o with
    | none => rfl
    | some x => exact ite_withAside Iff.rfl (ite_withAside Iff.rfl rfl rfl) rfl
  | arg i fl o n =>
    cases o with
    | none => rfl
    | some x =>
      have best : (if bit (k.withAside v).vsSeen i && !laneLt fl ((k.withAside v).vsAt i) x.1 then k.withAside v
          else { (((k.withAside v).setVs i x.1).setVs (i + 1) (Tab.get 0 k.vsCount i + x.2)) with
            vsSeen := setBit (k.withAside v).vsSeen i true }) =
          (if bit k.vsSeen i && !laneLt fl (k.vsAt i) x.1 then k
          else { ((k.setVs i x.1).setVs (i + 1) (Tab.get 0 k.vsCount i + x.2)) with
            vsSeen := setBit k.vsSeen i true }).withAside v := ite_withAside Iff.rfl rfl rfl
      exact congrArg (fun l : Core => { l with vsCount := Tab.set 0 l.vsCount i (Tab.get 0 k.vsCount i + n) }) best
  | cnt i n => rfl
  | amax n x => exact ite_withAside Iff.rfl rfl rfl

namespace Alike

variable {c : Nat} {v : Aside} {s t : State} (h : Alike c v s t) (d : Nat)
include h

theorem failFor (o : Option Nat) (st : Nat) : Alike c v (failFor s o st) (failFor t o st) := by
  cases o with
  | none => exact h
  | some i => exact ite Iff.rfl h (h.failGroup ..)

theorem faultBlock (code word beat : Nat) (f : Found) :
    Alike c v (faultBlock s d code word beat f) (faultBlock t d code word beat f) := by
  unfold Machine.faultBlock
  refine (h.apart (noteFault · d code word beat f) fun s l => noteFault_withCores s l ..).onCore d fun k => ?_
  refine ite_withAside Iff.rfl rfl ?_
  simp only [Core.withAside, Option.map_map]
  rfl

/-! ### Lines -/

theorem carries (g : Grant) : g.carries t = g.carries s := by
  unfold Grant.carries
  rw [h.rdBytes, h.poisoned]

theorem writeGrant (g : Grant) (e : List Byte × Bool) : Alike c v (writeGrant s d g e) (writeGrant t d g e) := by
  unfold Machine.writeGrant
  rw [h.core_reads Core.xfers fun _ => rfl, h.groupOf]
  have put := (h.failFor (Machine.groupOf s d g.dva g.dst)
    (((g.xfer.bind fun i => (core s d).xfers.find? (·.id == i)).map Xfer.status).getD 0)).putPiece d (g.dst, g.dva, e.1, e.2)
  dsimp only
  rw [put.2]
  split
  · exact put.1.onCore d fun _ => rfl
  · exact put.1

theorem readGrant (g : Grant) (e : List Byte × Bool) : Alike c v (readGrant s d g e) (readGrant t d g e) := by
  unfold Machine.readGrant
  split
  · exact h.onCore d fun _ => rfl
  · exact h.onCore d fun _ => rfl
  · exact h

theorem runGrant (g : Grant) : Alike c v (runGrant s d g) (runGrant t d g) := by
  have erased := h.onCore d (f := fun k => { k with grants := k.grants.erase g }) fun _ => rfl
  have met := ite (p := g.data.isSome) (q := g.data.isSome) Iff.rfl erased (erased.meet g.src g.n)
  rw [runGrant_eq, runGrant_eq]
  refine ite Iff.rfl erased ?_
  dsimp only
  rw [met.carries]
  exact ite Iff.rfl (met.writeGrant d ..) (met.readGrant d ..)

/-! ### Ends of transfers -/

theorem xferGroup (x : Xfer) : xferGroup t d x = xferGroup s d x := by
  unfold Machine.xferGroup
  simp only [h.groupOf]

theorem settle (x : Xfer) : AlikeWith c v (settle s d x) (settle t d x) := by
  rw [settle_eq, settle_eq, h.xferGroup]
  exact (h.failFor ..).putAll ..

theorem endXfer (x : Xfer) (st e : Nat) : Alike c v (endXfer s d x st e) (endXfer t d x st e) := by
  have left := h.onCore d (f := fun k => { k with
      xfers := k.xfers.filter fun y => y.id != x.id
      beat := max k.beat e, block := k.block.map fun b => { b with last := max b.last e } }) fun k => by
    simp only [Core.withAside, Option.map_map]
    rfl
  exact ite Iff.rfl left (left.faultBlock ..)

theorem finishLoad (x : Xfer) (e : Nat) : Alike c v (finishLoad s d x e) (finishLoad t d x e) := by
  have settled := h.settle d x
  rw [finishLoad_eq, finishLoad_eq, settled.2]
  exact (settled.1.onCore d fun k => loaded_withAside k v x e).endXfer ..

theorem finishStore (x : Xfer) (e : Nat) : Alike c v (finishStore s d x e) (finishStore t d x e) := by
  have settled := h.settle d x
  unfold Machine.finishStore
  dsimp only
  rw [settled.2]
  exact (ite Iff.rfl (settled.1.onCore d fun _ => rfl) settled.1).endXfer ..

/-! ### Ends of operations -/

theorem applyFx (o : Op) (f : Fx) : Alike c v (applyFx s d o f) (applyFx t d o f) := by
  cases f <;> dsimp only [Machine.applyFx]
  case primes | consts | twiddle | chains | expand | hcfg | noise => exact h.onCore d fun _ => rfl
  case galois m g n =>
    rw [h.core_reads Core.primes fun _ => rfl]
    split
    · exact h.faultBlock ..
    · exact ite Iff.rfl (h.faultBlock ..) (h.onCore d fun _ => rfl)
  case macc n nw hit prods p0 p1 =>
    rw [h.rdBytes]
    exact (ite Iff.rfl (h.inc _) h).wrBytes ..
  case rangeHit | nonfinite => exact h.inc _
  case saturated n | veSaturated n => exact h.incBy ..
  case peFault n | veFault n => exact (((h.wr ..).wr ..).wr ..).wr ..
  case mma b m x y aux =>
    rw [h.rdBytes]
    exact (h.wrBytes ..).incBy ..
  case hstep m => exact h.onCore d fun k => List.foldl_hom (Core.withAside · v) fun k i => ite_withAside Iff.rfl rfl rfl
  case vs u => exact h.onCore d fun k => applyVs_withAside k v u
  case marks lo n va => exact h.markWords ..

theorem applyWrite (e : Nat × Option Nat × List Byte) : AlikeWith c v (applyWrite s d e) (applyWrite t d e) :=
  .ite Iff.rfl ((h.wrBytes ..).pair 0) (h.coreStore ..)

theorem fxGroup (f : Fx) : f.group t d = f.group s d := by
  cases f with
  | marks lo n va => exact congrArg (fun g => if 2 ^ 41 ≤ lo then none else g) (h.groupOf d va lo)
  | _ => rfl

theorem groupOfOp (o : Op) : groupOfOp t d o = groupOfOp s d o := by
  unfold Machine.groupOfOp
  simp only [h.groupOf, funext (h.fxGroup d)]

theorem writeOp (o : Op) : AlikeWith c v (writeOp s d o) (writeOp t d o) := by
  unfold Machine.writeOp
  rw [h.groupOfOp]
  exact .foldl (fun h b e => ⟨(h.applyWrite d e).1, congrArg (fun r => lowestCode [b, r]) (h.applyWrite d e).2⟩) _
    ((h.failFor ..).pair 0)

theorem takeEffect (o : Op) (l : List Fx) : Alike c v (takeEffect s d o l) (takeEffect t d o l) :=
  foldl (fun h f => by exact h.applyFx d o f) l (h.onCore d fun k => completed_withAside k v o)

theorem completeOp (o : Op) : Alike c v (completeOp s d o) (completeOp t d o) := by
  have written := h.writeOp d o
  have ended := written.1.takeEffect d o (o.fx.filter fun f => (f.group s d).isNone)
  simp only [completeOp_eq, h.fxGroup d, written.2]
  exact ite Iff.rfl ended (ended.faultBlock ..)

/-! ### Everything that happens before a beat -/

theorem nextEvent : (nextEvent t d).1 = (nextEvent s d).1 ∧ Alike c v (nextEvent s d).2 (nextEvent t d).2 := by
  have ended (o : Op) := (h.onCore d (f := fun k => k.endOp o) fun _ => rfl).completeOp d o
  have left (e : Xfer × Nat) : Alike c v (nextEvent.ends s d e) (nextEvent.ends t d e) :=
    ite Iff.rfl (h.finishLoad ..) (h.finishStore ..)
  have later (o : Option Op) (x : Option (Xfer × Nat)) : (nextEvent.opOrEnd t d o x).1 = (nextEvent.opOrEnd s d o x).1 ∧
      Alike c v (nextEvent.opOrEnd s d o x).2 (nextEvent.opOrEnd t d o x).2 := by
    cases o with
    | none =>
      cases x with
      | none => exact ⟨rfl, h⟩
      | some e => exact ⟨rfl, left e⟩
    | some o =>
      cases x with
      | none => exact ⟨rfl, ended o⟩
      | some e =>
        unfold Machine.nextEvent.opOrEnd
        dsimp only
        split
        · exact ⟨rfl, ended o⟩
        · exact ⟨rfl, left e⟩
  unfold Machine.nextEvent
  dsimp only
  rw [h.core_reads Core.grants fun _ => rfl, h.core_reads Core.ops fun _ => rfl, h.core_reads Core.firstEnd fun _ => rfl]
  split
  · split
    · exact ⟨rfl, h.runGrant ..⟩
    · exact later ..
  · exact later ..

theorem retireN (f a : Nat) : Alike c v (retireN f s d a) (retireN f t d a) := by
  have released {s t : State} (h : Alike c v s t) :
      Alike c v (Machine.onCore s d fun k => k.releaseBefore a) (Machine.onCore t d fun k => k.releaseBefore a) :=
    h.onCore d fun _ => rfl
  induction f generalizing s t with
  | zero => exact h
  | succ f ih =>
    have next := h.nextEvent d
    unfold Machine.retireN
    dsimp only
    rw [next.1]
    split
    · exact released h
    · exact ite Iff.rfl (ih next.2) (released h)

theorem retire (a : Nat) : Alike c v (retire s d a) (retire t d a) := by
  unfold Machine.retire
  rw [h.core_reads Core.ops fun _ => rfl, h.core_reads Core.grants fun _ => rfl, h.core_reads Core.xfers fun _ => rfl]
  exact h.retireN ..

end Alike

end Sys2Proof.Machine
end

section
/-! SUPPORT. An access stream that is free to issue: its beat, and where it goes on (R264). -/

namespace Sys2Proof.Machine

open Sys2Proof

variable {s s' t u : State} {c a : Nat} {b : Block} {v : Aside}

/-- With the place of its own access stream, a core changes in its holds alone. -/
theorem withAside_own {k : Core} (block : k.block = some b) (l : Tab (Option RingHold)) (p : Bool) :
    k.withAside ⟨l, p, b.apos, b.adone⟩ = { k with holds := l, passed := p } := by
  cases k
  cases block
  rfl

/-- Two machines of which one gives core c other holds. -/
theorem alike_setCore (block : (core s c).block = some b) (l : Tab (Option RingHold)) (p : Bool) :
    Alike c ⟨l, p, b.apos, b.adone⟩ s (setCore s c { core s c with holds := l, passed := p }) := by
  refine .mk (Tab.set Core.init s.cores c _) fun j => (core_setCore ..).trans (ite_congr rfl (fun own => ?_) fun _ => rfl)
  rw [own, withAside_own block]

/-- Every machine is like itself. -/
theorem alike_self (block : (core s c).block = some b) : Alike c ⟨(core s c).holds, (core s c).passed, b.apos, b.adone⟩ s s := by
  refine .mk s.cores fun j => ?_
  split
  · rename_i own
    rw [own, withAside_own block]
    rfl
  · rfl

/-- What a core does before a beat leaves its holds and the place of its access stream (R253, R489). -/
theorem retire_keeps (block : (core s c).block = some b) (a : Nat) : (core (retire s c a) c).holds = (core s c).holds ∧
    ∀ w, (core (retire s c a) c).block = some w → w.apos = b.apos ∧ w.adone = b.adone := by
  have own := ((alike_self block).retire c a).core_eq c
  rw [if_pos rfl] at own
  refine ⟨(congrArg Core.holds own :), fun w hw => ?_⟩
  have same := congrArg Core.block own
  rw [hw] at same
  have same := Option.some.inj (same.trans (congrArg (Option.map _) hw))
  exact ⟨(congrArg Block.apos same :), (congrArg Block.adone same :)⟩

/-- A stream that is free is free in a machine that is alike. -/
theorem AccessFree.alike (free : AccessFree s c a b u) (h : Alike c v s s') (apos : v.apos = b.apos) (adone : v.adone = b.adone) :
    AccessFree s' c a b (retire s' c a) := by
  obtain ⟨hc, runs, native, block, going, unfaulted, within, moving, beat, rfl, w, blockAt, sound⟩ := free
  refine ⟨hc, ?_, (h.core_reads Core.c2 (fun _ => rfl) c).trans native, ?_, going, unfaulted, within,
    (h.core_reads Core.holding (fun _ => rfl) c).trans moving, ?_, rfl, ?_⟩
  · rw [← runs, coreRuns, coreRuns, h.core_reads Core.running fun _ => rfl]
    obtain ⟨l, _⟩ := h
    rfl
  · rw [h.core_eq, if_pos rfl, Core.withAside, block, apos, adone]
    rfl
  · rwa [h.core_reads Core.beat fun _ => rfl]
  · rw [(h.retire c a).core_eq, if_pos rfl, Core.withAside, blockAt]
    exact ⟨_, rfl, sound⟩

/-- A core whose access stream has issued at beat a, and goes on at the next word. -/
def Core.issuedAccess (k : Core) (a : Nat) : Core :=
  { k with
    waiting := 0
    beat := max k.beat a
    block := k.block.map fun b => { b with apos := b.apos + 1, anext := a + 1, last := max b.last a } }

/-- An instruction of a free stream that nothing keeps from its beat issues there, as its body says (R264). -/
theorem auIssue_of_free {op : Nat} {ok : Bool} {early : Core → List Nat} {ready : Core → Nat → Option Nat}
    {body : State → Nat → Nat → AuRes} (free : AccessFree s c a b u) (beat : a = max (max b.anext b.b0) (core s c).beat)
    (defined : (early (core s c)).contains 0x0105 = false) (atOnce : ready (core s c) a = some a)
    (goes : ∀ word, body u a word = .go t none) :
    auIssue s c op ok early ready body = onCore t c fun k => k.issuedAccess a := by
  obtain ⟨hc, runs, native, block, going, unfaulted, within, moving, _, rfl, w, blockAt, sound⟩ := free
  unfold auIssue auNative
  rw [runs, native, block]
  simp only [going, unfaulted, moving, defined, ← beat, atOnce, blockAt, goes, Nat.not_le.2 within, Option.map_some,
    Option.getD_some, sound]
  rfl

/-- From u to t core c has changed at most in its holds, what its queues hold, and the cursors of its contexts. -/
structure Reads (u t : State) (c : Nat) : Prop where
  own : core t c = { core u c with
    holds := (core t c).holds, passed := (core t c).passed, queues := (core t c).queues, cursors := (core t c).cursors }
  other : ∀ j, j ≠ c → core t j = core u j
  memory : SameMemory u t

/-- A stream that issued goes on at its next word, in a machine that has changed no further. -/
theorem Reads.went (h : Reads u t c) (free : AccessFree s c a b u) :
    AccessWent u (onCore t c fun k => k.issuedAccess a) c (b.apos + 1) (a + 1) false := by
  obtain ⟨_, _, _, block, going, _, _, _, _, rfl, w, blockAt, sound⟩ := free
  obtain ⟨apos, adone⟩ := (retire_keeps block a).2 w blockAt
  have own : core (onCore t c fun k => k.issuedAccess a) c = (core t c).issuedAccess a := core_setCore_same ..
  have kept : (core t c).block = some w := (congrArg Core.block h.own :).trans blockAt
  refine ⟨⟨{ w with apos := w.apos + 1, anext := a + 1, last := max w.last a }, ?_, ?_, rfl, ?_, sound⟩, ?_, ?_, ?_, fun j hj => ?_⟩
  · rw [own, Core.issuedAccess, kept]
    rfl
  · rw [apos]
  · rw [← going, ← adone]
  · rw [own]
    rfl
  · rw [own]
    exact (congrArg Core.ops h.own :)
  · rw [own]
    exact (congrArg Core.gens h.own :)
  · rw [onCore, core_setCore, if_neg hj, h.other j hj]

end Sys2Proof.Machine
end

section
/-! SUPPORT. The lacing operations of an access stream that is free to issue (R486, R489 to R491). -/

namespace Sys2Proof.Machine

open Sys2Proof

theorem core_onCore (s : State) (c : Nat) (f : Core → Core) (j : Nat) :
    core (onCore s c f) j = if j = c then f (core s c) else core s j := core_setCore ..

/-! ## Holds -/

theorem hold_setHold_same (k : Core) (h : Nat) (x : Option RingHold) : (k.setHold h x).hold h = x := Tab.get_set_same ..

theorem hold_setHold_other {h j : Nat} (other : j ≠ h) (k : Core) (x : Option RingHold) : (k.setHold h x).hold j = k.hold j :=
  Tab.get_set_other other ..

variable {s s' t u : State} {c a : Nat} {b : Block} {i : AIns} {v : RingHold}

/-- What a core reads as, where its new value is known. -/
theorem Reads.of_core {l : Tab (Option RingHold)} {p : Bool} {q : Tab Queue} {cursors : Tab Nat}
    (own : core t c = { core u c with holds := l, passed := p, queues := q, cursors := cursors })
    (other : ∀ j, j ≠ c → core t j = core u j) (memory : SameMemory u t) : Reads u t c where
  own := by rw [own]
  other := other
  memory := memory

theorem reads_setHold (u : State) (c h : Nat) (x : Option RingHold) : Reads u (onCore u c fun k => k.setHold h x) c where
  own := by
    rw [onCore, core_setCore_same]
    rfl
  other j hj := (core_setCore ..).trans (if_neg hj)
  memory := ⟨fun _ => rfl, rfl⟩

/-- The queue of waiting commands plays no part in an access stream. -/
theorem AccessWent.withPending {pos next : Nat} {ended : Bool} (h : AccessWent u t c pos next ended) (q : List Instr) :
    AccessWent u { t with pending := q } c pos next ended := h

/-- An operation of a free access stream that attaches or detaches a hold, or gives its unit back. -/
theorem leads_setHold {n : Instr} {op h : Nat} {ok : Bool} {body : State → Nat → Nat → AuRes} {x : Option RingHold}
    (runs : exec n s = guarded (decide (c < 800)) s (auIssue s c op ok noCodes anyBeat body)) (free : AccessFree s c a b u)
    (beat : a = max (max b.anext b.b0) (core s c).beat)
    (goes : ∀ word, body u a word = .go (onCore u c fun k => k.setHold h x) none) :
    Leads n s fun t => AccessWent u t c (b.apos + 1) (a + 1) false ∧
      ((core t c).hold h = x ∧ ∀ j, j ≠ h → (core t c).hold j = (core u c).hold j) ∧ SameMemory u t := by
  have issued := auIssue_of_free (op := op) (ok := ok) (early := noCodes) (ready := anyBeat) free beat rfl rfl goes
  have own : core (onCore (onCore u c fun k => k.setHold h x) c fun k => k.issuedAccess a) c =
      ((core u c).setHold h x).issuedAccess a := by
    rw [onCore, core_setCore_same, onCore, core_setCore_same]
  refine leads_of_done (runs.trans ((guarded_of (decide_eq_true free.1) ..).trans (congrArg (done s) issued)))
    ⟨((reads_setHold u c h x).went free).withPending _, ?_, fun _ => rfl, rfl⟩
  change (core (onCore (onCore u c fun k => k.setHold h x) c fun k => k.issuedAccess a) c).hold h = x ∧ ∀ j, j ≠ h →
    (core (onCore (onCore u c fun k => k.setHold h x) c fun k => k.issuedAccess a) c).hold j = _
  rw [own]
  exact ⟨hold_setHold_same .., fun j hj => hold_setHold_other hj ..⟩

/-- A listed element is what a read with any default gives. -/
theorem getD_of_getElem? {α : Type} {l : List α} {n : Nat} {x : α} (h : l[n]? = some x) (d : α) : l.getD n d = x := by
  rw [List.getD_eq_getElem?_getD, h, Option.getD_some]

/-! ## Rings that run -/

theorem laceState_of_runs {r : Nat} (h : laceRuns s r = true) : ¬(laceState s r = 3 ∨ laceState s r = 4) := by
  simp only [laceRuns, Bool.or_eq_true, beq_iff_eq] at h
  omega

theorem onHold_of_runs (held : (core u c).hold (holdOf i) = some v) (runs : laceRuns u v.ring = true) (f : RingHold → AuRes) :
    onHold u c i f = f v := by
  rw [onHold, held]
  exact if_neg (laceState_of_runs runs)

/-- `RJOIN` attaches a hold of the stream's own member, at the oldest unit there (R489, log 42). -/
theorem rjoin_attaches {m : Nat} {x : Member} (free : AccessFree s c a b u) (beat : a = max (max b.anext b.b0) (core s c).beat)
    (unheld : (core u c).hold (holdOf i) = none) (runs : laceRuns u (bits i.imm.toNat 5 0) = true)
    (own : ownMember u c (bits i.imm.toNat 5 0) = some m) (member : (lace u (bits i.imm.toNat 5 0)).members[m]? = some x) :
    Leads (.rjoin c i) s fun t => AccessWent u t c (b.apos + 1) (a + 1) false ∧
      ((core t c).hold (holdOf i) = some ⟨bits i.imm.toNat 5 0, m, x.first, none⟩ ∧
        ∀ j, j ≠ holdOf i → (core t c).hold j = (core u c).hold j) ∧ SameMemory u t := by
  refine leads_setHold rfl free beat fun _ => ?_
  rw [if_neg (laceState_of_runs runs), unheld, if_pos runs, own]
  dsimp only
  rw [getD_of_getElem? member]

/-- `RDONE` gives the unit of an attached hold back (R489). -/
theorem rdone_releases (free : AccessFree s c a b u) (beat : a = max (max b.anext b.b0) (core s c).beat)
    (held : (core u c).hold (holdOf i) = some v) (runs : laceRuns u v.ring = true) :
    Leads (.rdone c i) s fun t => AccessWent u t c (b.apos + 1) (a + 1) false ∧
      ((core t c).hold (holdOf i) = some { v with unit := none } ∧
        ∀ j, j ≠ holdOf i → (core t c).hold j = (core u c).hold j) ∧ SameMemory u t :=
  leads_setHold rfl free beat fun _ => onHold_of_runs held runs _

/-- `RLEAVE` detaches it (R489). -/
theorem rleave_detaches (free : AccessFree s c a b u) (beat : a = max (max b.anext b.b0) (core s c).beat)
    (held : (core u c).hold (holdOf i) = some v) (runs : laceRuns u v.ring = true) :
    Leads (.rleave c i) s fun t => AccessWent u t c (b.apos + 1) (a + 1) false ∧
      ((core t c).hold (holdOf i) = none ∧ ∀ j, j ≠ holdOf i → (core t c).hold j = (core u c).hold j) ∧ SameMemory u t :=
  leads_setHold rfl free beat fun _ => onHold_of_runs held runs _

/-! ## `RNEXT` (R489, R490) -/

/-- The holds of a core whose `RNEXT` has passed the units that it skips. -/
def passedHolds (k : Core) (i : AIns) (v : RingHold) : Tab (Option RingHold) :=
  Tab.set none k.holds (holdOf i) (some { v with next := v.next + bits i.imm.toNat 7 0, unit := none })

theorem get_passedHolds (k : Core) (i : AIns) (v : RingHold) :
    Tab.get none (passedHolds k i v) (holdOf i) = some { v with next := v.next + bits i.imm.toNat 7 0, unit := none } :=
  Tab.get_set_same ..

theorem get_passedHolds_other {i : AIns} {j : Nat} (other : j ≠ holdOf i) (k : Core) (v : RingHold) :
    Tab.get none (passedHolds k i v) j = k.hold j := Tab.get_set_other other ..

/-- The machine in which the units that an `RNEXT` skips are passed. -/
def skipped (s : State) (c : Nat) (i : AIns) (v : RingHold) : State :=
  setCore s c { core s c with holds := passedHolds (core s c) i v, passed := true }

/-- An `RNEXT` that is free to issue passes its units first. -/
theorem passUnits_of_free (free : AccessFree s c a b u) (held : (core s c).hold (holdOf i) = some v)
    (unpassed : (core s c).passed = false) (running : laceState s v.ring = 2) :
    passUnits s c i = skipped s c i v := by
  obtain ⟨hc, runs, native, block, going, unfaulted, within, moving, beat, rfl, w, blockAt, sound⟩ := free
  unfold passUnits
  rw [if_neg (by simp [unpassed, runs]), held, block]
  exact if_neg (by simp [going, unfaulted, moving, running, within])

theorem ctxOf_congr {c : Nat} (mem : t.mem = u.mem) (front : (core t c).front = (core u c).front) (x : Nat) :
    ctxOf t c x = ctxOf u c x := by
  unfold ctxOf frontWord
  simp only [front, rdNat_congr mem]

/-- The cursors of the contexts of core c, once those that are anchored to hold h have gone back to 0 (R490). -/
def rewound (u : State) (c h : Nat) (t : Tab Nat) : Tab Nat :=
  (List.range 32).foldl (fun t x => if (ctxOf u c x).anchor = 2 ∧ (ctxOf u c x).areg % 4 = h then Tab.set 0 t x 0 else t) t

theorem get_rewound {h x : Nat} (hx : x < 32) (anchor : (ctxOf u c x).anchor = 2) (reg : (ctxOf u c x).areg % 4 = h) (l : Tab Nat) :
    Tab.get 0 (rewound u c h l) x = 0 := by
  refine foldl_establishes (P := fun t => Tab.get 0 t x = 0) (List.mem_range.2 hx) (fun t => ?_) (fun t y kept => ?_) l
  · rw [if_pos ⟨anchor, reg⟩]
    exact Tab.get_set_same ..
  · split
    · by_cases same : x = y
      · rw [same]
        exact Tab.get_set_same ..
      · rwa [Tab.get_set_other same]
    · exact kept

/-- A core whose `RNEXT` has taken a unit: its hold has it, the contexts under the hold go back, and its queue has a token
(R489, R490). -/
def Core.tookUnit (k : Core) (i : AIns) (x : RingHold) (cursors : Tab Nat) (beat : Nat) : Core :=
  { k.setHold (holdOf i) (some x) with passed := false, cursors := cursors }.pushEntry i.queue true 0 0 beat

theorem Core.hold_took (k : Core) (i : AIns) (x : RingHold) (cursors : Tab Nat) (beat j : Nat) :
    ((k.tookUnit i x cursors beat).issuedAccess beat).hold j = if j = holdOf i then some x else k.hold j := by
  change Tab.get none (Tab.set none k.holds (holdOf i) (some x)) j = _
  split
  · next own => rw [own, Tab.get_set_same]
  · next other => exact Tab.get_set_other other ..

theorem Core.queue_took (k : Core) (i : AIns) (x : RingHold) (cursors : Tab Nat) (beat j : Nat) :
    ((k.tookUnit i x cursors beat).issuedAccess beat).queue j =
      if j = i.queue then { k.queue i.queue with entries := (k.queue i.queue).entries ++ [(true, 0, 0, beat)] } else k.queue j :=
  queue_setQueue ..

theorem Core.cursors_took (k : Core) (i : AIns) (x : RingHold) (cursors : Tab Nat) (beat : Nat) :
    ((k.tookUnit i x cursors beat).issuedAccess beat).cursors = cursors := rfl

/-- Over passed holds, a core that has taken a unit differs from the one before in its holds, queues and cursors. -/
theorem Core.tookUnit_of_passed (k : Core) (l : Tab (Option RingHold)) (i : AIns) (x : RingHold) (cursors : Tab Nat) (beat : Nat) :
    Core.tookUnit { k with holds := l, passed := true } i x cursors beat =
      { k with
        holds := Tab.set none l (holdOf i) (some x)
        passed := false
        queues := (k.pushEntry i.queue true 0 0 beat).queues
        cursors := cursors } := rfl

/-- The machine once an `RNEXT` of core c has taken a unit at this beat. -/
def tookUnit (u : State) (c : Nat) (i : AIns) (x : RingHold) (beat : Nat) : State :=
  onCore (rewind (onCore u c fun k => { k.setHold (holdOf i) (some x) with passed := false }) c (holdOf i)) c
    fun k => k.pushEntry i.queue true 0 0 beat

theorem mem_tookUnit (u : State) (c : Nat) (i : AIns) (x : RingHold) (beat : Nat) : (tookUnit u c i x beat).mem = u.mem := rfl

theorem poison_tookUnit (u : State) (c : Nat) (i : AIns) (x : RingHold) (beat : Nat) :
    (tookUnit u c i x beat).poison = u.poison := rfl

theorem core_tookUnit (u : State) (c : Nat) (i : AIns) (x : RingHold) (beat j : Nat) : core (tookUnit u c i x beat) j =
    if j = c then (core u c).tookUnit i x (rewound u c (holdOf i) (core u c).cursors) beat else core u j := by
  have contexts : ctxOf (onCore u c fun k => { k.setHold (holdOf i) (some x) with passed := false }) c = ctxOf u c := by
    funext n
    refine ctxOf_congr ?_ ?_ n
    · rfl
    · rw [core_onCore, if_pos rfl]
      rfl
  simp only [tookUnit, rewind, core_onCore, if_true, contexts]
  exact ite_congr rfl (fun _ => rfl) fun other => by rw [if_neg other, if_neg other]

/-- An `RNEXT` that is free to issue, on a hold with the unit before it that it comes to after those that it skips. -/
structure RnextFree (s u : State) (c a : Nat) (b : Block) (i : AIns) (v : RingHold) (m : Member) (y : LaceUnit) : Prop where
  free : AccessFree s c a b u
  beat : a = max (max b.anext b.b0) (core s c).beat
  held : (core s c).hold (holdOf i) = some v
  unpassed : (core s c).passed = false
  running : laceState s v.ring = 2
  runningAt : laceState u v.ring = 2
  member : (lace u v.ring).members[v.member]? = some m
  first : m.first ≤ v.next + bits i.imm.toNat 7 0
  unit : m.units[v.next + bits i.imm.toNat 7 0 - m.first]? = some y
  pushes : ((core s c).queue i.queue).toAccess = false
  room : ((core s c).queue i.queue).entries.length < ((core s c).queue i.queue).depth
  roomAt : ((core s c).queue i.queue).roomAt ≤ a

/-- A hold that has taken the unit it comes to after those that it skips. -/
def RingHold.taking (v : RingHold) (i : AIns) (m : Member) (y : LaceUnit) : RingHold :=
  { v with next := v.next + bits i.imm.toNat 7 0 + 1, unit := some (m.slotKey y.slot) }

namespace RnextFree

variable {m : Member} {y : LaceUnit} (h : RnextFree s u c a b i v m y)
include h

theorem block : (core s c).block = some b := by
  obtain ⟨_, _, _, block, _⟩ := h.free
  exact block

theorem alike : Alike c ⟨passedHolds (core s c) i v, true, b.apos, b.adone⟩ s (skipped s c i v) := alike_setCore h.block ..

theorem alikeAt : Alike c ⟨passedHolds (core s c) i v, true, b.apos, b.adone⟩ u (retire (skipped s c i v) c a) := by
  obtain ⟨_, _, _, _, _, _, _, _, _, rfl, _⟩ := h.free
  exact h.alike.retire c a

/-- At its beat the core has changed by what the `RNEXT` has passed alone. -/
theorem core_at : core (retire (skipped s c i v) c a) c =
    { core u c with holds := passedHolds (core s c) i v, passed := true } := by
  obtain ⟨_, _, _, block, _, _, _, _, _, rfl, w, blockAt, _⟩ := h.free
  obtain ⟨apos, adone⟩ := (retire_keeps block a).2 w blockAt
  rw [h.alikeAt.core_eq, if_pos rfl, ← apos, ← adone, withAside_own blockAt]

theorem rnext_eq : rnext s c i =
    onCore (tookUnit (retire (skipped s c i v) c a) c i (v.taking i m y) a) c fun k => k.issuedAccess a := by
  have at_ : lace (retire (skipped s c i v) c a) v.ring = lace u v.ring := h.alikeAt.reads (lace · v.ring) fun _ => rfl
  have runs : laceRuns (retire (skipped s c i v) c a) v.ring = true := by
    rw [laceRuns, h.alikeAt.reads (laceState · v.ring) fun _ => rfl, h.runningAt]
    rfl
  have held : (core (retire (skipped s c i v) c a) c).hold (holdOf i) =
      some { v with next := v.next + bits i.imm.toNat 7 0, unit := none } := by
    rw [h.core_at, Core.hold]
    exact get_passedHolds ..
  have queue : (core (skipped s c i v) c).queue i.queue = (core s c).queue i.queue := h.alike.core_reads (·.queue i.queue) (fun _ => rfl) c
  unfold rnext
  rw [passUnits_of_free h.free h.held h.unpassed h.running]
  refine auIssue_of_free (h.free.alike h.alike rfl rfl) ?_ ?_ ?_ fun word => ?_
  · rw [h.alike.core_reads Core.beat fun _ => rfl]
    exact h.beat
  · rw [auPushes, queue, h.pushes]
    rfl
  · rw [pushBeat, queue, Queue.room, if_pos (decide_eq_true h.room), max_eq_left h.roomAt]
  · rw [onHold_of_runs held runs, h.core_at]
    dsimp only
    rw [if_pos rfl, at_, getD_of_getElem? h.member, Nat.add_zero, if_neg (Nat.not_lt.2 h.first), h.unit]
    rfl

/-- The core once it has taken the unit. -/
theorem core_took : core (tookUnit (retire (skipped s c i v) c a) c i (v.taking i m y) a) c =
    Core.tookUnit { core u c with holds := passedHolds (core s c) i v, passed := true } i (v.taking i m y)
      (rewound u c (holdOf i) (core u c).cursors) a := by
  have contexts : rewound (retire (skipped s c i v) c a) c = rewound u c := by
    have same : ctxOf (retire (skipped s c i v) c a) c = ctxOf u c := by
      funext n
      refine ctxOf_congr h.alikeAt.mem ?_ n
      exact h.alikeAt.core_reads Core.front (fun _ => rfl) c
    unfold rewound
    rw [same]
  rw [core_tookUnit, if_pos rfl, contexts, h.core_at]

theorem reads : Reads u (tookUnit (retire (skipped s c i v) c a) c i (v.taking i m y) a) c :=
  .of_core (h.core_took.trans (Core.tookUnit_of_passed ..))
    (fun j hj => by rw [core_tookUnit, if_neg hj, h.alikeAt.core_eq, if_neg hj])
    ⟨rdByte_congr ((mem_tookUnit ..).trans h.alikeAt.mem), (poison_tookUnit ..).trans h.alikeAt.poison⟩

/-- `RNEXT` takes the next unit but those it skips, pushes a token, and rewinds the contexts that follow the hold (R489, R490). -/
theorem takes : Leads (.rnext c i) s fun t => AccessWent u t c (b.apos + 1) (a + 1) false ∧ SameMemory u t ∧
    ((core t c).hold (holdOf i) = some (v.taking i m y) ∧ ∀ j, j ≠ holdOf i → (core t c).hold j = (core u c).hold j) ∧
    OnlyQueue u t c i.queue ((core u c).held i.queue ++ [(true, 0, 0, a)]) ∧
    ∀ x < 32, (ctxOf u c x).anchor = 2 → (ctxOf u c x).areg % 4 = holdOf i → Tab.get 0 (core t c).cursors x = 0 := by
  have holds : (core u c).holds = (core s c).holds := by
    obtain ⟨_, _, _, block, _, _, _, _, _, rfl, _⟩ := h.free
    exact (retire_keeps block a).1
  have runs : exec (.rnext c i) s = done s (onCore (tookUnit (retire (skipped s c i v) c a) c i (v.taking i m y) a) c
      fun k => k.issuedAccess a) := (guarded_of (decide_eq_true h.free.1) ..).trans (congrArg (done s) h.rnext_eq)
  have own := h.core_took
  have reads := h.reads
  generalize tookUnit (retire (skipped s c i v) c a) c i (v.taking i m y) a = w at runs own reads
  have issued : core (onCore w c fun k => k.issuedAccess a) c = (core w c).issuedAccess a := core_setCore_same ..
  rw [own] at issued
  refine leads_of_done runs ⟨(reads.went h.free).withPending _, reads.memory, ?_⟩
  change (Core.hold (core (onCore w c fun k => k.issuedAccess a) c) _ = _ ∧
      ∀ j, j ≠ _ → Core.hold (core (onCore w c fun k => k.issuedAccess a) c) j = _) ∧
    (Core.held (core (onCore w c fun k => k.issuedAccess a) c) _ = _ ∧
      ∀ j, j ≠ _ → Core.queue (core (onCore w c fun k => k.issuedAccess a) c) j = _) ∧
    ∀ x < 32, _ → _ → Tab.get 0 (core (onCore w c fun k => k.issuedAccess a) c).cursors x = 0
  rw [issued]
  refine ⟨⟨(Core.hold_took ..).trans (if_pos rfl), fun j hj => ((Core.hold_took ..).trans (if_neg hj)).trans ?_⟩,
    ⟨congrArg Queue.entries ((Core.queue_took ..).trans (if_pos rfl)), fun j hj => (Core.queue_took ..).trans (if_neg hj)⟩,
    fun x hx anchor reg => (congrArg (Tab.get 0 · x) (Core.cursors_took ..)).trans (get_rewound hx anchor reg _)⟩
  exact (get_passedHolds_other hj ..).trans (congrArg (Tab.get none · j) holds.symm)

end RnextFree

end Sys2Proof.Machine
end

section
/-! SUPPORT. The units of a lacing ring: their copies, and how a member forwards its oldest unit (R486, R491). -/

namespace Sys2Proof.Machine

open Sys2Proof

variable {s : State} {r i : Nat} {m d : Member} {u : LaceUnit} {l : List LaceUnit}

/-! ## Copies with their marks -/

/-- What marks leave alone is after a copy as after its write. -/
theorem copyMarked_reads {α : Type} (f : State → α) (marks : ∀ t k, f (mark t k) = f t) (s : State) (a b n : Nat) :
    f (copyMarked s a b n) = f (wrBytes s b (rdBytes s a n)) := by
  refine foldl_keeps f (fun t i => ?_) ..
  split
  · exact marks ..
  · rfl

theorem copyMarked_mem (s : State) (a b n : Nat) : (copyMarked s a b n).mem = (wrBytes s b (rdBytes s a n)).mem :=
  copyMarked_reads State.mem (fun _ _ => rfl) ..

@[simp] theorem copyMarked_cores (s : State) (a b n : Nat) : (copyMarked s a b n).cores = s.cores :=
  copyMarked_reads State.cores (fun _ _ => rfl) ..

theorem rdBytes_copyMarked (s : State) (a b n : Nat) : rdBytes (copyMarked s a b n) b n = rdBytes s a n := by
  have copied := rdBytes_wrBytes s b (rdBytes s a n)
  rw [rdBytes_length] at copied
  rw [rdBytes_congr (copyMarked_mem ..), copied]

theorem rdByte_copyMarked_other {x b n : Nat} (other : x < b ∨ b + n ≤ x) (s : State) (a : Nat) :
    rdByte (copyMarked s a b n) x = rdByte s x := by
  rw [rdByte_congr (copyMarked_mem ..), rdByte_wrBytes, rdBytes_length]
  exact if_neg (by omega)

/-! ## The ring's records -/

theorem lace_setLace (s : State) (r : Nat) (v : Lace) : lace (setLace s r v) r = v := Tab.get_set_same ..

/-- The count of a ring's circulations, and its end, are entries alone. -/
theorem noteRounds_reads {α : Type} (f : State → α) (entries : ∀ t k v, f (wr t k v) = f t) (s : State) (r : Nat) :
    f (noteRounds s r) = f s := by
  unfold noteRounds
  dsimp only
  split
  · rw [entries, entries]
  · exact entries ..

theorem lace_noteRounds (s : State) (r j : Nat) : lace (noteRounds s r) j = lace s j :=
  noteRounds_reads (lace · j) (fun _ _ _ => rfl) ..

/-! ## A member forwards -/

theorem member_lt (member : (lace s r).members[i]? = some m) : i < (lace s r).members.length :=
  (List.getElem?_eq_some_iff.1 member).1

/-- The member before one of several is another. -/
theorem before_ne {i n : Nat} (hi : i < n) (several : 1 < n) : (i + n - 1) % n ≠ i := by
  by_cases first : i = 0
  · rw [first, Nat.zero_add, Nat.mod_eq_of_lt (by omega)]
    omega
  · rw [show i + n - 1 = i - 1 + n by omega, Nat.add_mod_right, Nat.mod_eq_of_lt (by omega)]
    omega

/-- What a member of a running ring does with its oldest unit (R486). -/
theorem ringForward_eq (running : laceState s r = 2) (member : (lace s r).members[i]? = some m) (units : m.units = u :: l) :
    ringForward s r i =
      if passedByAll s r i m.first u.unit = false then s
      else if u.offered < (lace s r).members.length then noteRounds (passUnit s r i u (u.offered + 1) u.rounds) r
      else if u.rounds + 1 = (lace s r).circulations then noteRounds (setLace s r ((lace s r).setMember i m.drop)) r
      else noteRounds (passUnit s r i u 1 (u.rounds + 1)) r := by
  have known := member_lt member
  unfold ringForward
  rw [if_neg (by omega), getD_of_getElem? member]
  simp only [units, Bool.not_eq_true']

/-- The machine once the bytes of a slot of member m are in slot q of member d, in a ring that a key fills with their header. -/
def carried (s : State) (l : Lace) (m d : Member) (slot q : Nat) : State :=
  let t := copyMarked s (m.slotKey slot) (d.slotKey q) 65536
  if l.fill = 1 then copyMarked t (m.headKey slot) (d.headKey q) 64 else t

@[simp] theorem carried_cores (s : State) (l : Lace) (m d : Member) (slot q : Nat) : (carried s l m d slot q).cores = s.cores := by
  unfold carried
  split <;> simp only [copyMarked_cores]

theorem rdBytes_carried {l : Lace} (plain : l.fill ≠ 1) (s : State) (m d : Member) (slot q : Nat) :
    rdBytes (carried s l m d slot q) (d.slotKey q) 65536 = rdBytes s (m.slotKey slot) 65536 := by
  rw [carried, if_neg plain]
  exact rdBytes_copyMarked ..

/-- A unit goes to another member's lowest free slot, with its bytes. -/
theorem passUnit_of_free {j q offered rounds : Nat} (member : (lace s r).members[i]? = some m)
    (before : (i + (lace s r).members.length - 1) % (lace s r).members.length = j) (other : j ≠ i)
    (next : (lace s r).members[j]? = some d) (slot : d.freeSlot = some q) : passUnit s r i u offered rounds =
      setLace (carried s (lace s r) m d u.slot q) r (((lace s r).setMember i m.drop).setMember j
        { d with units := d.units ++ [{ u with offered := offered, rounds := rounds, slot := q }] }) := by
  unfold passUnit
  simp only [before, other, if_false, getD_of_getElem? member, getD_of_getElem? next, slot]
  rfl

/-- It stays where it is while no slot is free. -/
theorem passUnit_of_full {j offered rounds : Nat}
    (before : (i + (lace s r).members.length - 1) % (lace s r).members.length = j) (other : j ≠ i)
    (next : (lace s r).members[j]? = some d) (full : d.freeSlot = none) : passUnit s r i u offered rounds = s := by
  unfold passUnit
  simp only [before, other, if_false, getD_of_getElem? next, full]

variable (known : r < 64) (running : laceState s r = 2) (member : (lace s r).members[i]? = some m) (units : m.units = u :: l)
include known

theorem exec_ringForward (i : Nat) (s : State) : exec (.ringForward r i) s = done s (ringForward s r i) :=
  guarded_of (decide_eq_true known) ..

include running member units

/-- A unit that a joined reader has neither taken nor passed stays. -/
theorem ringForward_stays (unread : passedByAll s r i m.first u.unit = false) : Stays (.ringForward r i) s := by
  rw [Stays, exec_ringForward known, ringForward_eq running member units, if_pos unread, done_self]

variable (read : passedByAll s r i m.first u.unit = true)
include read

/-- A unit that has more members to see goes to the member before. -/
theorem ringForward_passes {q : Nat} (more : u.offered < (lace s r).members.length) (several : 1 < (lace s r).members.length)
    (next : (lace s r).members[(i + (lace s r).members.length - 1) % (lace s r).members.length]? = some d)
    (slot : d.freeSlot = some q) : Leads (.ringForward r i) s fun t =>
      (lace t r).members[i]? = some { m with units := l, first := m.first + 1 } ∧
      (lace t r).members[(i + (lace s r).members.length - 1) % (lace s r).members.length]? =
        some { d with units := d.units ++ [{ u with offered := u.offered + 1, slot := q }] } ∧
      ((lace s r).fill ≠ 1 → rdBytes t (d.slotKey q) 65536 = rdBytes s (m.slotKey u.slot) 65536) ∧ t.cores = s.cores := by
  have other := before_ne (member_lt member) several
  have runs := exec_ringForward known i s
  rw [ringForward_eq running member units, if_neg (by simp [read]), if_pos more,
    passUnit_of_free member rfl other next slot] at runs
  have drop : m.drop = { m with units := l, first := m.first + 1 } := by rw [Member.drop, units]; rfl
  have laced (t : State) (v : Lace) : lace { noteRounds (setLace t r v) r with pending := s.pending } r = v :=
    (lace_noteRounds ..).trans (lace_setLace ..)
  refine leads_of_done runs ⟨?_, ?_, fun plain => ?_, ?_⟩
  · rw [laced, Lace.setMember, Lace.setMember, List.getElem?_set_ne other, List.getElem?_set_self (member_lt member), drop]
  · rw [laced, Lace.setMember, Lace.setMember, List.getElem?_set_self]
    simpa using member_lt next
  · refine (rdBytes_congr ?_ ..).trans (rdBytes_carried plain ..)
    exact noteRounds_reads State.mem (fun _ _ _ => rfl) ..
  · exact (noteRounds_reads State.cores (fun _ _ _ => rfl) ..).trans (carried_cores ..)

/-- While the member before has no slot free, no unit moves. -/
theorem ringForward_waits (more : u.offered < (lace s r).members.length) (several : 1 < (lace s r).members.length)
    (next : (lace s r).members[(i + (lace s r).members.length - 1) % (lace s r).members.length]? = some d)
    (full : d.freeSlot = none) : Leads (.ringForward r i) s fun t => t.laces = s.laces ∧ t.mem = s.mem := by
  have runs := exec_ringForward known i s
  rw [ringForward_eq running member units, if_neg (by simp [read]), if_pos more,
    passUnit_of_full rfl (before_ne (member_lt member) several) next full] at runs
  exact leads_of_done runs ⟨noteRounds_reads State.laces (fun _ _ _ => rfl) .., noteRounds_reads State.mem (fun _ _ _ => rfl) ..⟩

/-- After the last member of the last circulation the unit is gone. -/
theorem ringForward_retires (seen : (lace s r).members.length ≤ u.offered) (last : u.rounds + 1 = (lace s r).circulations) :
    Leads (.ringForward r i) s fun t =>
      (lace t r).members[i]? = some { m with units := l, first := m.first + 1 } ∧ t.mem = s.mem ∧ t.cores = s.cores := by
  have runs := exec_ringForward known i s
  rw [ringForward_eq running member units, if_neg (by simp [read]), if_neg (Nat.not_lt.2 seen), if_pos last] at runs
  refine leads_of_done runs ⟨?_, noteRounds_reads State.mem (fun _ _ _ => rfl) .., noteRounds_reads State.cores (fun _ _ _ => rfl) ..⟩
  refine (congrArg (·.members[i]?) ((lace_noteRounds ..).trans (lace_setLace ..))).trans ?_
  rw [Lace.setMember, List.getElem?_set_self (member_lt member), Member.drop, units]
  rfl

end Sys2Proof.Machine
end

section
/-! SUPPORT. The fill of a lacing ring, and writes of `ring_cmd` (R485, R499). -/

namespace Sys2Proof.Machine

open Sys2Proof

variable {s : State} {r p : Nat}

/-! ## The ring's entries -/

theorem dictSize_ringState : ∀ r < 64, dictSize (E.ring_state + r) = 1 := by decide

/-- A state of a ring fits its entry. -/
theorem rd_ringState (known : r < 64) {v : Nat} (fits : v < 256) (s : State) :
    rd (wr s (E.ring_state + r) v) (E.ring_state + r) = v := by
  rw [rd_wr_same, dictSize_ringState r known]
  exact Nat.mod_eq_of_lt fits

/-! ## Fills -/

/-- What neither bytes nor marks change is after a copy as before. -/
theorem copyMarked_keeps {α : Type} (f : State → α) (marks : ∀ t k, f (mark t k) = f t) (bytes : ∀ t k d, f (wrBytes t k d) = f t)
    (s : State) (a b n : Nat) : f (copyMarked s a b n) = f s := (copyMarked_reads f marks ..).trans (bytes ..)

/-- What neither bytes nor marks change is after a unit's fill as before. -/
theorem fillUnit_keeps {α : Type} (f : State → α) (marks : ∀ t k, f (mark t k) = f t) (bytes : ∀ t k d, f (wrBytes t k d) = f t)
    (s : State) (l : Lace) (m : Member) (u : LaceUnit) : f (fillUnit s l m u) = f s := by
  unfold fillUnit
  split
  · split
    · rfl
    · rw [copyMarked_keeps f marks bytes, copyMarked_keeps f marks bytes]
  · exact copyMarked_keeps f marks bytes ..

/-- A unit's fill writes its slot and its header alone. -/
theorem rdByte_fillUnit {m : Member} {u : LaceUnit} {b : Nat} (slot : b < m.slotKey u.slot ∨ m.slotKey u.slot + 65536 ≤ b)
    (head : b < m.headKey u.slot ∨ m.headKey u.slot + 64 ≤ b) (s : State) (l : Lace) :
    rdByte (fillUnit s l m u) b = rdByte s b := by
  unfold fillUnit
  split
  · split
    · rfl
    · rw [rdByte_copyMarked_other slot, rdByte_copyMarked_other head]
  · exact rdByte_copyMarked_other slot ..

/-- The machine once every member of a ring has its units. -/
def filled (s : State) (l : Lace) : State := l.members.foldl (fun t m => m.units.foldl (fun t u => fillUnit t l m u) t) s

theorem filled_keeps {α : Type} (f : State → α) (marks : ∀ t k, f (mark t k) = f t) (bytes : ∀ t k d, f (wrBytes t k d) = f t)
    (s : State) (l : Lace) : f (filled s l) = f s :=
  foldl_keeps f (fun t m => foldl_keeps f (fun t u => fillUnit_keeps f marks bytes t l m u) m.units t) ..

theorem rdByte_filled {l : Lace} {b : Nat} (outside : ∀ m ∈ l.members, ∀ u ∈ m.units,
      (b < m.slotKey u.slot ∨ m.slotKey u.slot + 65536 ≤ b) ∧ (b < m.headKey u.slot ∨ m.headKey u.slot + 64 ≤ b)) (s : State) :
    rdByte (filled s l) b = rdByte s b := by
  refine foldl_keeps_of_mem (rdByte · b) (fun m hm t => ?_) s
  refine foldl_keeps_of_mem (rdByte · b) (fun u hu t => ?_) t
  obtain ⟨slot, head⟩ := outside m hm u hu
  exact rdByte_fillUnit slot head ..

theorem exec_ringFillDone (known : r < 64) (s : State) : exec (.ringFillDone r) s = done s (ringFillDone s r) :=
  guarded_of (decide_eq_true known) ..

/-- A ring that does not fill stays as it is. -/
theorem ringFillDone_stays (known : r < 64) (idle : laceState s r ≠ 1) : Stays (.ringFillDone r) s := by
  rw [Stays, exec_ringFillDone known, ringFillDone, if_pos idle, done_self]

/-- A fill whose addresses do not translate stops its ring (log 41). -/
theorem ringFillDone_stops (known : r < 64) (filling : laceState s r = 1) (bad : fillOk s (lace s r) = false) :
    exec (.ringFillDone r) s = .next (wr s (E.ring_state + r) 4) := by
  rw [exec_ringFillDone known, ringFillDone, if_neg (not_not_intro filling), if_pos (by rw [bad]; rfl)]
  rfl

/-- The end of any other fill lets the ring run, with its units in their slots (R485). -/
theorem ringFillDone_runs (known : r < 64) (filling : laceState s r = 1) (good : fillOk s (lace s r) = true) :
    exec (.ringFillDone r) s = done s (wr (filled s (lace s r)) (E.ring_state + r) 2) := by
  rw [exec_ringFillDone known, ringFillDone, if_neg (not_not_intro filling), if_neg (by rw [good]; decide)]
  rfl

/-- The end of a fill, read (R485). -/
theorem ringFillDone_leads (known : r < 64) (filling : laceState s r = 1) (good : fillOk s (lace s r) = true) :
    Leads (.ringFillDone r) s fun t => rd t (E.ring_state + r) = 2 ∧ t.cores = s.cores ∧ t.laces = s.laces ∧
      ∀ b, (∀ m ∈ (lace s r).members, ∀ u ∈ m.units, (b < m.slotKey u.slot ∨ m.slotKey u.slot + 65536 ≤ b) ∧
        (b < m.headKey u.slot ∨ m.headKey u.slot + 64 ≤ b)) → rdByte t b = rdByte s b :=
  leads_of_done (ringFillDone_runs known filling good) ⟨rd_ringState known (by decide) _,
    filled_keeps State.cores (fun _ _ => rfl) (fun _ _ _ => rfl) .., filled_keeps State.laces (fun _ _ => rfl) (fun _ _ _ => rfl) ..,
    fun _ outside => rdByte_filled outside s⟩

/-! ## Writes of `ring_cmd` (R499) -/

theorem told_pending (s : State) (via : Path) (k : Nat) (d : List Byte) : (told s via k d).pending = s.pending := by
  obtain ⟨o, sent⟩ := told_eq (s := s) via k d
  rw [sent]

theorem checks_ringCmd (s : State) (via : Path) {v : Nat} (op : bits v 7 6 = 1 ∨ bits v 7 6 = 2) :
    ∃ w, dictRow (E.ring_cmd / 256) (E.ring_cmd % 256) = some w ∧ w.acc ≠ .w1c ∧ checks s via true w ringCmdSem 1 v = 0 := by
  refine ⟨⟨0x4140, 1, 2, 2, 1, 1, .cmd, 1, false, 0⟩, by decide, by decide, ?_⟩
  rcases op with op | op <;> simp [checks, permits, ringCmdSem, command, op]

/-- A served command to `ring_cmd` starts or stops a ring, once the leader of a pair has forwarded it. -/
theorem access_ringCmd (via : Path) {v : Nat} (small : v < 256) (op : bits v 7 6 = 1 ∨ bits v 7 6 = 2) (serves : Serves s E.ring_cmd) :
    access s (writeOf via E.ring_cmd v) ringCmdSem = ended (ringCmdSem.eff (told s via E.ring_cmd [BitVec.ofNat 8 v]) via v) E.ring_cmd 0 := by
  obtain ⟨w, row, acc, passes⟩ := checks_ringCmd s via op
  have size : dictSize E.ring_cmd = 1 := by decide
  have value : leNat (leBytes 1 v) = v := (leNat_leBytes ..).trans (Nat.mod_eq_of_lt small)
  rw [writeOf_eq, size, access_accepted serves (by decide) (by decide) row acc (by rw [leBytes_length, value]; exact passes), value]
  rfl

theorem ringCmdSem_start (s : State) (via : Path) {v : Nat} (op : bits v 7 6 = 1) : ringCmdSem.eff s via v = startRing s := if_pos op

theorem ringCmdSem_stop (s : State) (via : Path) {v : Nat} (op : bits v 7 6 = 2) :
    ringCmdSem.eff s via v = stopRing s (bits v 5 0) := if_neg (by rw [op]; decide)

end Sys2Proof.Machine
end

section
/-! SUPPORT. The stop and the start of a lacing ring (R484, R494, R499). -/

namespace Sys2Proof.Machine

open Sys2Proof

variable {s : State} {r p : Nat}

/-! ## Stops -/

theorem stopRing_pending : (stopRing s r).pending = s.pending := by
  unfold stopRing
  split <;> rfl

theorem exec_ringStop (via : Path) (known : r < 64) (serves : Serves s E.ring_cmd) : exec (.ringStop via r) s =
    .next (ended (stopRing (told s via E.ring_cmd [BitVec.ofNat 8 (0x80 + r)]) r) E.ring_cmd 0) := by
  have op : bits (0x80 + r) 7 6 = 2 := by unfold bits; omega
  have ring : bits (0x80 + r) 5 0 = r := by unfold bits; omega
  have runs : exec (.ringStop via r) s = done s (access s (writeOf via E.ring_cmd (0x80 + r)) ringCmdSem) :=
    guarded_of (decide_eq_true known) ..
  rw [runs, access_ringCmd via (by omega) (.inr op) serves, ringCmdSem_stop _ _ op, ring]
  exact done_eq (stopRing_pending.trans (told_pending ..))

/-- A stop stops a ring that runs, and is answered with status 5 for any other (R494, R499). -/
theorem ringStop_accepted (via : Path) (known : r < 64) (serves : Serves s E.ring_cmd) :
    let runs := rd s (E.ring_state + r) = 1 ∨ rd s (E.ring_state + r) = 2
    let u := told s via E.ring_cmd [BitVec.ofNat 8 (0x80 + r)]
    (runs → Accepts (.ringStop via r) s E.ring_cmd (wr (wr u (E.ring_state + r) 4) E.ring_cmd_status 3)) ∧
    (¬runs → Accepts (.ringStop via r) s E.ring_cmd (wr u E.ring_cmd_status 5)) := by
  have runs : laceRuns (told s via E.ring_cmd [BitVec.ofNat 8 (0x80 + r)]) r = true ↔
      rd s (E.ring_state + r) = 1 ∨ rd s (E.ring_state + r) = 2 := by
    obtain ⟨o, told⟩ := told_eq (s := s) via E.ring_cmd [BitVec.ofNat 8 (0x80 + r)]
    rw [told, laceRuns, Bool.or_eq_true, beq_iff_eq, beq_iff_eq]
    rfl
  refine ⟨fun run => ?_, fun idle => ?_⟩
  · rw [Accepts, exec_ringStop via known serves, stopRing, if_pos (runs.2 run)]
  · rw [Accepts, exec_ringStop via known serves, stopRing, if_neg (mt runs.1 idle)]

/-! ## Starts -/

/-- Word i of the record that `ring_record_addr` names (R484). -/
def recordWord (s : State) (i : Nat) : Nat := rdNat s (Mem.hbm (rd s E.ring_record_addr + 8 * i)) 8

/-- The record's ring, its members, and its units. -/
def recordRing (s : State) : Nat := bits (recordWord s 0) 47 40
def recordMembers (s : State) : Nat := bits (recordWord s 0) 39 32
def recordFill (s : State) : Nat := bits (recordWord s 0) 31 24
def recordUnits (s : State) : Nat := bits (recordWord s 1) 31 0

/-- Its member entries. -/
def recordEntries (s : State) : List Nat := (List.range (recordMembers s)).map fun i => recordWord s (8 + i)

/-- The key that a fill from the key store names. -/
def recordKey (s : State) (p : Nat) : Option KeyInfo :=
  (findKeySet s (some p) (recordWord s 2)).bind fun v => v.key (bits (recordWord s 3) 39 32) (bits (recordWord s 3) 31 0)

/-- A record in partition p's share fits R484. -/
def RecordFits (s : State) (p : Nat) : Prop :=
  bits (recordWord s 0) 63 48 = 0x524E ∧ recordRing s < 64 ∧ 1 ≤ recordMembers s ∧ recordMembers s ≤ 32 ∧ recordFill s ≤ 2 ∧
    rd s (E.ring_state + recordRing s) ≠ 1 ∧ rd s (E.ring_state + recordRing s) ≠ 2 ∧ recordUnits s % recordMembers s = 0 ∧
    (∀ e ∈ recordEntries s, memberOk s p (recordFill s) (recordUnits s / recordMembers s) e = true) ∧
    ((recordEntries s).map fun e => bits e 36 27).Nodup ∧
    (recordFill s = 1 → ∃ k, recordKey s p = some k ∧ k.chunks = recordUnits s)

/-- The record passes the checks of a start. -/
def recordOk (s : State) (p : Nat) : Bool :=
  bits (recordWord s 0) 63 48 == 0x524E &&
  decide (recordRing s < 64 ∧ 1 ≤ recordMembers s ∧ recordMembers s ≤ 32 ∧ recordFill s ≤ 2) &&
  !laceRuns s (recordRing s) && recordUnits s % recordMembers s == 0 &&
  (recordEntries s).all (memberOk s p (recordFill s) (recordUnits s / recordMembers s)) &&
  decide ((recordEntries s).map fun e => bits e 36 27).Nodup &&
  (recordFill s != 1 || (recordKey s p).any fun k => k.chunks == recordUnits s)

theorem recordOk_iff : recordOk s p = true ↔ RecordFits s p := by
  simp only [recordOk, RecordFits, laceRuns, laceState, Bool.and_eq_true, Bool.or_eq_true, Bool.not_eq_true', Bool.or_eq_false_iff,
    beq_iff_eq, bne_iff_ne, beq_eq_false_iff_ne, decide_eq_true_eq, List.all_eq_true, Option.any_eq_true, and_assoc,
    imp_iff_not_or, ne_eq]

/-- The members of a ring with these entries and units for each. -/
def membersOf (es : List Nat) (per : Nat) : List Member :=
  es.zipIdx.map fun e => ⟨onchipKey (bits e.1 39 0), bits e.1 47 40, (List.range per).map fun k => ⟨e.2 * per + k, 1, 0, k⟩, 0⟩

/-- The ring that the record describes. -/
def recordLace (s : State) (p : Nat) : Lace :=
  ⟨p, membersOf (recordEntries s) (recordUnits s / recordMembers s), recordFill s, bits (recordWord s 0) 23 16, recordUnits s,
    recordWord s 2, bits (recordWord s 3) 39 32, bits (recordWord s 3) 31 0⟩

/-- The machine once the ring of the record has started. -/
def ringStarted (s : State) (p : Nat) : State :=
  wr (wr (wr (setLace s (recordRing s) (recordLace s p)) (E.ring_state + recordRing s) (if recordFill s = 0 then 2 else 1))
    (E.ring_circulations_done + recordRing s) 0) E.ring_cmd_status 2

/-- A record in partition p's share starts its ring if it passes the checks, and is refused otherwise (R484, log 40). -/
theorem startRing_eq (share : sharePartition s (rd s E.ring_record_addr) = some p) :
    startRing s = if recordOk s p then ringStarted s p else wr s E.ring_cmd_status 4 := by
  have key : (match recordKey s p with | some k => k.chunks == recordUnits s | none => false) =
      (recordKey s p).any fun k => k.chunks == recordUnits s := by cases recordKey s p <;> rfl
  unfold startRing
  simp only [share]
  change (if !(_ && (_ || (match recordKey s p with | some k => k.chunks == recordUnits s | none => false))) then _ else _) = _
  rw [key]
  change (if !recordOk s p then _ else ringStarted s p) = _
  cases recordOk s p <;> rfl

/-- What leaves the module plays no part in a record's checks. -/
theorem recordOk_sent (s : State) (p : Nat) (o : List Out) : recordOk { s with sent := o } p = recordOk s p := rfl

/-- A served start of a ring whose record stands in partition p's share. -/
theorem exec_ringStart (via : Path) (serves : Serves s E.ring_cmd) (share : sharePartition s (rd s E.ring_record_addr) = some p) :
    exec (.ringStart via) s = .next (ended (if recordOk s p then ringStarted (told s via E.ring_cmd [0x40]) p
      else wr (told s via E.ring_cmd [0x40]) E.ring_cmd_status 4) E.ring_cmd 0) := by
  have started : startRing (told s via E.ring_cmd [0x40]) = if recordOk s p then ringStarted (told s via E.ring_cmd [0x40]) p
      else wr (told s via E.ring_cmd [0x40]) E.ring_cmd_status 4 := by
    obtain ⟨o, told⟩ := told_eq (s := s) via E.ring_cmd [0x40]
    rw [told, ← recordOk_sent s p o]
    exact startRing_eq share
  have runs : exec (.ringStart via) s = done s (access s (writeOf via E.ring_cmd 0x40) ringCmdSem) := rfl
  rw [runs, access_ringCmd via (by decide) (.inl (by decide)) serves, ringCmdSem_start _ _ (by decide)]
  change done s (ended (startRing (told s via E.ring_cmd [0x40])) _ _) = _
  rw [started]
  refine done_eq (Eq.trans ?_ (told_pending s via E.ring_cmd [0x40]))
  change State.pending (if _ then _ else _) = _
  split <;> rfl

/-- Any other record is refused (R484). -/
theorem ringStart_refused (via : Path) (serves : Serves s E.ring_cmd)
    (share : sharePartition s (rd s E.ring_record_addr) = some p) (bad : ¬RecordFits s p) :
    Accepts (.ringStart via) s E.ring_cmd (wr (told s via E.ring_cmd [0x40]) E.ring_cmd_status 4) := by
  rw [Accepts, exec_ringStart via serves share, if_neg (mt recordOk_iff.1 bad)]

theorem membersOf_length (es : List Nat) (per : Nat) : (membersOf es per).length = es.length := by
  rw [membersOf, List.length_map, List.length_zipIdx]

/-- Member i has the slots that its entry says, and its part of the units. -/
theorem membersOf_getElem? {es : List Nat} {per i e : Nat} (entry : es[i]? = some e) : (membersOf es per)[i]? =
    some ⟨onchipKey (bits e 39 0), bits e 47 40, (List.range per).map fun k => ⟨i * per + k, 1, 0, k⟩, 0⟩ := by
  rw [membersOf, List.getElem?_map, List.getElem?_zipIdx, entry, Option.map_some, Option.map_some, Nat.zero_add]

/-- The entries of a started ring. -/
theorem rd_ringStarted (known : recordRing s < 64) : rd (ringStarted s p) E.ring_cmd_status = 2 ∧
    rd (ringStarted s p) (E.ring_state + recordRing s) = (if recordFill s = 0 then 2 else 1) ∧
    rd (ringStarted s p) (E.ring_circulations_done + recordRing s) = 0 := by
  have state : E.ring_state + recordRing s ≠ E.ring_cmd_status := Nat.ne_of_gt (by unfold E.ring_state E.ring_cmd_status; omega)
  have rounds : E.ring_circulations_done + recordRing s ≠ E.ring_cmd_status :=
    Nat.ne_of_gt (by unfold E.ring_circulations_done E.ring_cmd_status; omega)
  have apart : E.ring_state + recordRing s ≠ E.ring_circulations_done + recordRing s :=
    Nat.ne_of_lt (by unfold E.ring_circulations_done E.ring_state; omega)
  unfold ringStarted
  refine ⟨?_, ?_, ?_⟩
  · rw [rd_wr_same]
    decide
  · rw [rd_wr_other _ state, rd_wr_other _ apart, rd_ringState known (by split <;> decide)]
  · rw [rd_wr_other _ rounds, rd_wr_same, Nat.zero_mod]

/-- A record that fits R484 starts its ring, filling or running. -/
theorem ringStart_leads (via : Path) (serves : Serves s E.ring_cmd)
    (share : sharePartition s (rd s E.ring_record_addr) = some p) (fits : RecordFits s p) :
    Leads (.ringStart via) s fun t => result t = 0 ∧ rd t E.ring_cmd_status = 2 ∧
      rd t (E.ring_state + recordRing s) = (if recordFill s = 0 then 2 else 1) ∧
      rd t (E.ring_circulations_done + recordRing s) = 0 ∧ t.mem = s.mem ∧
      (lace t (recordRing s)).members.length = recordMembers s ∧ (lace t (recordRing s)).part = p ∧
      ∀ i < recordMembers s, ∃ m, (lace t (recordRing s)).members[i]? = some m ∧ m.slots = bits (recordWord s (8 + i)) 47 40 ∧
        m.units.length = recordUnits s / recordMembers s := by
  obtain ⟨-, known, -⟩ := id fits
  obtain ⟨o, told⟩ := told_eq (s := s) via E.ring_cmd [0x40]
  have runs := exec_ringStart via serves share
  rw [if_pos (recordOk_iff.2 fits), told] at runs
  obtain ⟨status, state, rounds⟩ := rd_ringStarted (s := { s with sent := o }) (p := p) known
  have laced : lace (ended (ringStarted { s with sent := o } p) E.ring_cmd 0) (recordRing s) = recordLace s p := lace_setLace ..
  refine ⟨_, runs, rfl, status, state, rounds, rfl, ?_, ?_, fun i hi => ?_⟩
  · rw [laced, recordLace, membersOf_length, recordEntries, List.length_map, List.length_range]
  · rw [laced]
    rfl
  · have entry : (recordEntries s)[i]? = some (recordWord s (8 + i)) := by
      rw [recordEntries, List.getElem?_map, List.getElem?_range hi, Option.map_some]
    rw [laced]
    refine ⟨_, membersOf_getElem? entry, rfl, ?_⟩
    rw [List.length_map, List.length_range]

/-- Settles O39, part by part: starts, stops and fills by what their writes do; forwarding by the branches of a member's step; the
lacing operations by what a free access stream issues at its beat. -/
theorem lacingRings : Obligations.LacingRings := by
  unfold Obligations.LacingRings
  refine ⟨fun s => ⟨fun via p serves share => ⟨ringStart_refused via serves share, ringStart_leads via serves share⟩,
      fun via ring known serves => ringStop_accepted via known serves, fun ring known =>
      ⟨ringFillDone_stays known, ringFillDone_stops known, ringFillDone_leads known⟩⟩,
    fun s r i m u l known running member units => ⟨ringForward_stays known running member units, fun read => ⟨?passes, ?waits, ?retires⟩⟩,
    fun s u c a b i free beat => ⟨?joins, ?takes, ?leaves⟩⟩
  case passes => exact fun d q more several next slot => ringForward_passes known running member units read more several next slot
  case waits => exact fun d more several next full => ringForward_waits known running member units read more several next full
  case retires => exact ringForward_retires known running member units read
  case joins => exact fun m x unheld runs own member => rjoin_attaches free beat unheld runs own member
  case takes =>
    exact fun v m y _ held unpassed running runningAt member first unit pushes room roomAt =>
      RnextFree.takes ⟨free, beat, held, unpassed, running, runningAt, member, first, unit, pushes, room, roomAt⟩
  case leaves => exact fun v held runs => ⟨rdone_releases free beat held runs, rleave_detaches free beat held runs⟩

end Sys2Proof.Machine
end

section
/-! SUPPORT. A fabric group whose abort no target has to hear of (R518, R525). -/

namespace Sys2Proof.Machine

open Sys2Proof

/-- A sealed fabric group of this device, with core 50 bound: the vote of device 3 is missing, though no device is listed as
having acknowledged a write of the group. -/
def targetless : Group := ⟨none, 5, 0, true, 0, 2, 0, 0, [⟨50, 0x60000, 0x100, 3⟩], [], [], [3], none, 0⟩

/-- The machine after reset, but for that group and its bound core. -/
def awaitsVote : State :=
  { State.reset with groups := [targetless], cores := [(50, { Core.init with bound := some 5 })] }

theorem findGroup_awaitsVote : findGroup awaitsVote none 5 = some targetless := rfl

/-- The abort waits for no target's answer, so it resolves the group at once, which frees the core (R525). -/
theorem prepareTimeout_frees_core : (core (prepareTimeout awaitsVote 5) 50).bound = none := by decide +kernel

/-- Refutes O40: missing votes decide an abort of a fabric group, but the statement says that its cores stay as they were. The
group `targetless` has no target to hear of the abort (`acked` is empty while `awaited` is not, which the statement allows, though
`prepareGroup` never makes it so): the decision resolves it, and its bound core is free. -/
theorem not_stitchGroups : ¬ Obligations.StitchGroups := by
  unfold Obligations.StitchGroups
  rintro ⟨-, -, ends⟩
  obtain ⟨-, -, timeout, -, -⟩ := ends awaitsVote 5 rfl
  obtain ⟨t, ran, -, -, cores⟩ := timeout targetless findGroup_awaitsVote rfl (List.cons_ne_nil _ _) nofun
  have outcome : t = { prepareTimeout awaitsVote 5 with pending := awaitsVote.pending } := (Host.Outcome.next.inj ran).symm
  have kept : (core (prepareTimeout awaitsVote 5) 50).bound = some 5 := by
    rw [outcome] at cores
    rw [core, cores]
    rfl
  rw [prepareTimeout_frees_core] at kept
  cases kept

end Sys2Proof.Machine
end

section
/-! SUPPORT. The link of a port: what its entries and its record hold together, and what each update of a port makes of it
(R543, R571, R572). -/

namespace Sys2Proof.Machine

open Sys2Proof

/-! ## The link of a port -/

/-- What a port's entries `port_state` and `lane_map` hold, and its record. -/
structure Link where
  code : Nat
  width : Nat
  failed : Nat
  keeper : Nat
  burn : Nat
  lanes : Nat
  port : Port

/-- The link of port p. -/
def link (s : State) (p : Nat) : Link :=
  ⟨portCode s p, portWidth s p, portFailed s p, portKeeper s p, portBurn s p, rd s (E.lane_map + p), port s p⟩

/-- The physical lane of logical lane k. -/
def Link.lane (x : Link) (k : Nat) : Nat := bits x.lanes (4 * k + 3) (4 * k)

/-- Logical lane k goes to physical lane v. -/
def Link.setLane (x : Link) (k v : Nat) : Link := { x with lanes := setBits x.lanes (4 * k + 3) (4 * k) v % 2 ^ 32 }

/-- The number of good lanes. -/
def Link.good (x : Link) : Nat := ((List.range 9).filter fun l => !bit x.failed l).length

theorem link_lane (s : State) (p k : Nat) : (link s p).lane k = laneOf s p k := rfl

theorem link_good (s : State) (p : Nat) : (link s p).good = goodLanes s p := rfl

theorem Link.lane_setLane_same {k : Nat} (hk : k < 8) (x : Link) (v : Nat) : (x.setLane k v).lane k = v % 16 := by
  have width : 4 * k + 3 + 1 - 4 * k = 4 := by omega
  rw [lane, setLane, bits_mod_two_pow (by omega), bits_setBits (by omega), width]
  rfl

theorem Link.lane_setLane_other {i k : Nat} (hi : i < 8) (other : i ≠ k) (x : Link) (v : Nat) :
    (x.setLane k v).lane i = x.lane i := by
  rw [lane, setLane, bits_mod_two_pow (by omega), bits_setBits_other (by omega) (by omega), lane]

theorem bits_lt (v hi lo : Nat) : bits v hi lo < 2 ^ (hi + 1 - lo) := Nat.mod_lt _ (Nat.two_pow_pos _)

theorem laneOf_lt (s : State) (p k : Nat) : laneOf s p k < 16 := by
  have width : 4 * k + 3 + 1 - 4 * k = 4 := by omega
  have below := bits_lt (rd s (E.lane_map + p)) (4 * k + 3) (4 * k)
  rwa [width] at below

theorem portFailed_lt (s : State) (p : Nat) : portFailed s p < 512 := bits_lt _ 23 15

theorem portBurn_lt (s : State) (p : Nat) : portBurn s p < 16 := bits_lt _ 10 7

/-! ## The updates of a port -/

theorem dictSize_port_state : ∀ p < 34, dictSize (E.port_state + p) = 4 := by decide

theorem dictSize_lane_map : ∀ p < 34, dictSize (E.lane_map + p) = 4 := by decide

theorem lane_map_ne_port_state {p : Nat} : E.lane_map + p ≠ E.port_state + p :=
  fun same => absurd (Nat.add_right_cancel same) (by decide)

/-- A link is read off two entries and one record. -/
theorem link_congr {s t : State} {p : Nat} (state : rd t (E.port_state + p) = rd s (E.port_state + p))
    (lanes : rd t (E.lane_map + p) = rd s (E.lane_map + p)) (record : port t p = port s p) : link t p = link s p := by
  simp only [link, portCode, portWidth, portFailed, portKeeper, portBurn, portWord, state, lanes, record]

/-- What leaves the dictionary and the records of ports leaves every link. -/
theorem link_of_same {s t : State} (dict : t.dict = s.dict) (ports : t.ports = s.ports) (p : Nat) : link t p = link s p :=
  link_congr (rd_congr dict _) (rd_congr dict _) (by unfold port; rw [ports])

/-- A write of another entry leaves a link. -/
theorem link_wr_other {k p : Nat} (state : E.port_state + p ≠ k) (lanes : E.lane_map + p ≠ k) (s : State) (v : Nat) :
    link (wr s k v) p = link s p :=
  link_congr (rd_wr_other s state v) (rd_wr_other s lanes v) rfl

theorem port_setPort (s : State) (p : Nat) (v : Port) : port (setPort s p v) p = v := Tab.get_set_same ..

theorem link_setPort (s : State) (p : Nat) (v : Port) : link (setPort s p v) p = { link s p with port := v } :=
  congrArg (fun u => ({ link s p with port := u } : Link)) (port_setPort s p v)

section

variable {p : Nat} (hp : p < 34) (s : State) (v : Nat)

include hp

theorem link_setPortWord : link (setPortWord s p v) p = { link s p with
    code := bits v 31 28, width := bits v 27 24, failed := bits v 23 15, keeper := bits v 14 11, burn := bits v 10 7 } := by
  have word : rd (setPortWord s p v) (E.port_state + p) = v % 2 ^ 32 := by
    rw [setPortWord, rd_wr_same, dictSize_port_state p hp]
  have lanes : rd (setPortWord s p v) (E.lane_map + p) = rd s (E.lane_map + p) := rd_wr_other s lane_map_ne_port_state v
  simp (disch := decide) only [link, portCode, portWidth, portFailed, portKeeper, portBurn, portWord, word, lanes, bits_mod_two_pow]
  rfl

theorem link_setState : link (setState s p v) p = { link s p with code := v % 16 } := by
  simp (disch := decide) only [setState, link_setPortWord hp, bits_setBits, bits_setBits_other]
  rfl

theorem link_setWidth : link (setWidth s p v) p = { link s p with width := v % 16 } := by
  simp (disch := decide) only [setWidth, link_setPortWord hp, bits_setBits, bits_setBits_other]
  rfl

theorem link_setFailed : link (setFailed s p v) p = { link s p with failed := v % 512 } := by
  simp (disch := decide) only [setFailed, link_setPortWord hp, bits_setBits, bits_setBits_other]
  rfl

theorem link_setKeeper : link (setKeeper s p v) p = { link s p with keeper := v % 16 } := by
  simp (disch := decide) only [setKeeper, link_setPortWord hp, bits_setBits, bits_setBits_other]
  rfl

theorem link_setBurn : link (setBurn s p v) p = { link s p with burn := v % 16 } := by
  simp (disch := decide) only [setBurn, link_setPortWord hp, bits_setBits, bits_setBits_other]
  rfl

/-- The bits below the fields, of the cable and the neighbour, are no part of a link. -/
theorem link_setPortWord_bit {j : Nat} (low : j < 7) (b : Bool) : link (setPortWord s p (setBit (portWord s p) j b)) p = link s p := by
  simp (disch := omega) only [link_setPortWord hp, bits_setBit_other]
  rfl

theorem link_setLane (k : Nat) : link (setLane s p k v) p = (link s p).setLane k v := by
  have lanes : rd (setLane s p k v) (E.lane_map + p) = setBits (rd s (E.lane_map + p)) (4 * k + 3) (4 * k) v % 2 ^ 32 := by
    rw [setLane, rd_wr_same, dictSize_lane_map p hp]
  have state : rd (setLane s p k v) (E.port_state + p) = rd s (E.port_state + p) := rd_wr_other s lane_map_ne_port_state.symm _
  simp only [link, portCode, portWidth, portFailed, portKeeper, portBurn, portWord, state, lanes, Link.setLane]
  rfl

end

end Sys2Proof.Machine
end

section
/-! SUPPORT. Links that go up and out: what the routes, a burnish that stops and a dropped link leave of a port (R543 to R546, R556,
R564). -/

namespace Sys2Proof.Machine

open Sys2Proof

variable {p k : Nat} (s : State)

/-! ## Routes leave links alone -/

theorem computeRoute_keeps (d : Nat) : (computeRoute s d).dict = s.dict ∧ (computeRoute s d).ports = s.ports := by
  constructor
  · simp [computeRoute, setRoute, apply_ite State.dict]
  · simp [computeRoute, setRoute, apply_ite State.ports]

theorem advertise_keeps (d : Nat) : (advertise s d).dict = s.dict ∧ (advertise s d).ports = s.ports := by
  unfold advertise
  split
  · exact ⟨rfl, rfl⟩
  · exact ⟨foldl_keeps State.dict (fun t q => emit_dict t (.advert q d (ownPath t d))) _ s,
      foldl_keeps State.ports (fun t q => emit_ports t (.advert q d (ownPath t d))) _ s⟩

theorem advertiseTo_keeps (q : Nat) : (advertiseTo s q).dict = s.dict ∧ (advertiseTo s q).ports = s.ports := by
  unfold advertiseTo
  split
  · exact ⟨rfl, rfl⟩
  obtain ⟨dict, ports⟩ := computeRoute_keeps s (rd s E.node_id)
  exact ⟨(foldl_keeps State.dict (fun t d => by split <;> rfl) _ _).trans dict,
    (foldl_keeps State.ports (fun t d => by split <;> rfl) _ _).trans ports⟩

theorem link_advertiseTo (q : Nat) : link (advertiseTo s q) p = link s p :=
  link_of_same (advertiseTo_keeps s q).1 (advertiseTo_keeps s q).2 p

/-- A change of the paths writes one entry, `route_converged`. -/
theorem routeChanged_keeps (s0 : State) (d : Nat) : (∀ k, k ≠ E.route_converged → rd (routeChanged s0 s d) k = rd s k) ∧
    (routeChanged s0 s d).ports = s.ports := by
  obtain ⟨dict, ports⟩ := computeRoute_keeps s d
  have written (v : Nat) : (∀ k, k ≠ E.route_converged → rd (wr (computeRoute s d) E.route_converged v) k = rd s k) ∧
      (wr (computeRoute s d) E.route_converged v).ports = s.ports :=
    ⟨fun k other => (rd_wr_other _ other v).trans (rd_congr dict k), ports⟩
  have told (v : Nat) : (∀ k, k ≠ E.route_converged → rd (advertise (wr (computeRoute s d) E.route_converged v) d) k = rd s k) ∧
      (advertise (wr (computeRoute s d) E.route_converged v) d).ports = s.ports := by
    obtain ⟨sameDict, samePorts⟩ := advertise_keeps (wr (computeRoute s d) E.route_converged v) d
    exact ⟨fun k other => (rd_congr sameDict k).trans ((written v).1 k other), samePorts.trans ports⟩
  unfold routeChanged
  dsimp only
  generalize (if route (computeRoute s d) d = route s0 d then 1 else 0) = v
  split
  · exact written v
  · exact told v

theorem rd_withdrawPort (other : k ≠ E.route_converged) (s0 : State) (q : Nat) : rd (withdrawPort s0 s q) k = rd s k :=
  foldl_keeps (rd · k) (fun t d => (routeChanged_keeps (setPath t q d []) s0 d).1 k other) _ s

theorem withdrawPort_ports (s0 : State) (q : Nat) : (withdrawPort s0 s q).ports = s.ports :=
  foldl_keeps State.ports (fun t d => (routeChanged_keeps (setPath t q d []) s0 d).2) _ s

/-! ## Entries apart from a link's -/

/-- Entry k is none of those that a change of port p's state writes as such. -/
structure Apart (p k : Nat) : Prop where
  state : k ≠ E.port_state + p
  lanes : k ≠ E.lane_map + p
  neighbour : k ≠ E.neighbour + p
  converged : k ≠ E.route_converged

theorem apart_link_down_count (hp : p < 34) : Apart p (E.link_down_count + p) := by
  constructor <;> simp only [E.link_down_count, E.port_state, E.lane_map, E.neighbour, E.route_converged] <;> omega

theorem apart_link_retry_count (hp : p < 34) : Apart p (E.link_retry_count + p) := by
  constructor <;> simp only [E.link_retry_count, E.port_state, E.lane_map, E.neighbour, E.route_converged] <;> omega

theorem apart_link_flits_lost_count (hp : p < 34) : Apart p E.link_flits_lost_count := by
  constructor <;> simp only [E.link_flits_lost_count, E.port_state, E.lane_map, E.neighbour, E.route_converged] <;> omega

theorem apart_boundary_overflow_count (hp : p < 34) : Apart p E.boundary_overflow_count := by
  constructor <;> simp only [E.boundary_overflow_count, E.port_state, E.lane_map, E.neighbour, E.route_converged] <;> omega

theorem link_wr_apart (h : Apart p k) (v : Nat) : link (wr s k v) p = link s p := link_wr_other h.state.symm h.lanes.symm s v

theorem rd_setPortWord (h : Apart p k) (v : Nat) : rd (setPortWord s p v) k = rd s k := rd_wr_other s h.state v

theorem link_withdrawPort (hp : p < 34) (s0 : State) (q : Nat) : link (withdrawPort s0 s q) p = link s p := by
  have state : E.port_state + p ≠ E.route_converged := by simp only [E.port_state, E.route_converged]; omega
  have lanes : E.lane_map + p ≠ E.route_converged := by simp only [E.lane_map, E.route_converged]; omega
  exact link_congr (rd_withdrawPort s state s0 q) (rd_withdrawPort s lanes s0 q)
    (by unfold port; rw [withdrawPort_ports])

/-! ## A link that goes out -/

theorem stopBurnish_idle (idle : (port s p).burnish = none) : stopBurnish s p = s := by
  unfold stopBurnish; rw [idle]

/-- A burnish that stops may move lanes, and leaves the rest of the link (R556). -/
theorem link_stopBurnish (hp : p < 34) : ∃ keeper burn lanes, link (stopBurnish s p) p =
    { link s p with keeper := keeper, burn := burn, lanes := lanes, port := { port s p with burnish := none } } := by
  cases running : (port s p).burnish with
  | none =>
    have same : ({ port s p with burnish := none } : Port) = port s p := by rw [← running]
    rw [stopBurnish_idle s running, same]
    exact ⟨_, _, _, rfl⟩
  | some j =>
    unfold stopBurnish
    rw [running]
    dsimp only
    rw [link_setBurn hp, link_setPort, link_setKeeper hp, link_setLane hp]
    exact ⟨_, _, _, rfl⟩

theorem rd_stopBurnish (h : Apart p k) : rd (stopBurnish s p) k = rd s k := by
  have word (t : State) (v : Nat) : rd (setPortWord t p v) k = rd t k := rd_setPortWord t h v
  have record (t : State) (v : Port) : rd (setPort t p v) k = rd t k := rfl
  have lane (t : State) (j v : Nat) : rd (setLane t p j v) k = rd t k := rd_wr_other t h.lanes _
  unfold stopBurnish
  split
  · rfl
  · rw [setBurn, word, record, setKeeper, word, lane]

/-- The counts of a dropped link (R546). -/
def dropCounted (p : Nat) : State :=
  if portCode s p = 3 ∨ portCode s p = 4 then
    inc (incBy s E.link_flits_lost_count (port s p).outstanding) (E.link_down_count + p)
  else s

/-- The record of a port whose link is dropped. -/
def Port.dropped (v : Port) : Port := { Port.init with enabled := v.enabled, lane := v.lane }

theorem dropLink_eq : dropLink s p = setPort (stopBurnish (dropCounted s p) p) p (port s p).dropped := rfl

theorem link_dropCounted (hp : p < 34) : link (dropCounted s p) p = link s p := by
  unfold dropCounted
  split
  · exact (link_wr_apart _ (apart_link_down_count hp) _).trans (link_wr_apart s (apart_link_flits_lost_count hp) _)
  · rfl

theorem link_dropLink (hp : p < 34) : ∃ keeper burn lanes, link (dropLink s p) p =
    { link s p with keeper := keeper, burn := burn, lanes := lanes, port := (port s p).dropped } := by
  obtain ⟨keeper, burn, lanes, stopped⟩ := link_stopBurnish (dropCounted s p) hp
  rw [dropLink_eq, link_setPort, stopped, link_dropCounted s hp]
  exact ⟨_, _, _, rfl⟩

theorem rd_dropLink (h : Apart p k) : rd (dropLink s p) k = rd (dropCounted s p) k := rd_stopBurnish (dropCounted s p) h

theorem link_forgetNeighbour (hp : p < 34) : link (forgetNeighbour s p) p = link s p := by
  have state : E.port_state + p ≠ E.neighbour + p := fun same => absurd (Nat.add_right_cancel same) (by decide)
  have lanes : E.lane_map + p ≠ E.neighbour + p := fun same => absurd (Nat.add_right_cancel same) (by decide)
  unfold forgetNeighbour
  dsimp only
  split
  · rw [link_wr_other state lanes, link_setPortWord_bit hp s (by decide)]
  · exact link_setPortWord_bit hp s (by decide) false

theorem rd_forgetNeighbour (h : Apart p k) : rd (forgetNeighbour s p) k = rd s k := by
  unfold forgetNeighbour
  dsimp only
  split
  · rw [rd_wr_other _ h.neighbour, rd_setPortWord s h]
  · exact rd_setPortWord s h _

/-- The record of a port that goes out to a state: in DISABLED and DOWN its replay buffer is discarded (R546, R553). -/
def Port.out (v : Port) (st : Nat) : Port := if st < 2 then v.dropped else { v with burnish := none }

/-- From s to t, port p has gone out to a state. -/
structure WentOut (s t : State) (p st : Nat) : Prop where
  code : portCode t p = st
  width : portWidth t p = 0
  failed : portFailed t p = portFailed s p
  record : port t p = (port s p).out st

theorem wentOut_portOut (hp : p < 34) {st : Nat} (fits : st < 16) : WentOut s (portOut s p st) p st := by
  have left : ∃ keeper burn lanes, link (if st < 2 then forgetNeighbour (dropLink s p) p else stopBurnish s p) p =
      { link s p with keeper := keeper, burn := burn, lanes := lanes, port := (port s p).out st } := by
    unfold Port.out
    split
    · rw [link_forgetNeighbour _ hp]
      exact link_dropLink s hp
    · exact link_stopBurnish s hp
  obtain ⟨keeper, burn, lanes, left⟩ := left
  have out : link (portOut s p st) p = { link s p with
      code := st, width := 0, keeper := keeper, burn := burn, lanes := lanes, port := (port s p).out st } := by
    rw [portOut, link_withdrawPort _ hp, link_setWidth hp, link_setState hp, left, Nat.mod_eq_of_lt fits]
  exact ⟨congrArg Link.code out, congrArg Link.width out, congrArg Link.failed out, congrArg Link.port out⟩

theorem rd_portOut (h : Apart p k) (st : Nat) : rd (portOut s p st) k = if st < 2 then rd (dropCounted s p) k else rd s k := by
  have word (t : State) (v : Nat) : rd (setPortWord t p v) k = rd t k := rd_setPortWord t h v
  rw [portOut, rd_withdrawPort _ h.converged, setWidth, word, setState, word]
  split
  · rw [rd_forgetNeighbour _ h, rd_dropLink s h]
  · exact rd_stopBurnish s h

/-! ## RETRAIN, and a port that is enabled -/

/-- A port that carries flits: ACTIVE or ISOLATED (R543). -/
def LinkUp (s : State) (p : Nat) : Prop := portCode s p = 3 ∨ portCode s p = 5

theorem retrain_of_up (up : LinkUp s p) : retrain s p = portOut s p 4 := if_pos up

theorem retrain_of_not_up (down : ¬LinkUp s p) : retrain s p = s := if_neg down

theorem wentOut_retrain (hp : p < 34) (up : LinkUp s p) : WentOut s (retrain s p) p 4 := by
  rw [retrain_of_up s up]; exact wentOut_portOut s hp (by decide)

theorem portUp_enabled (known : portCode s p ≠ 0) : portUp s p = s := if_pos (Or.inl known)

/-- A port whose domain is on leaves DISABLED, and trains where a cable is there (R543). -/
theorem link_portUp (hp : p < 34) (off : portCode s p = 0) (on : domainOn s (portDomain p) = true) :
    link (portUp s p) p = { link s p with code := if presLow s p then 2 else 1 } := by
  have leaves : ¬(portCode s p ≠ 0 ∨ (!domainOn s (portDomain p)) = true) := by simp [off, on]
  rw [portUp, if_neg leaves]
  have cable (v : Nat) : presLow (setPortWord s p v) p = presLow s p := rfl
  have small : (if presLow s p then 2 else 1) % 16 = if presLow s p then 2 else 1 := by split <;> rfl
  dsimp only
  rw [link_setState hp, link_setPortWord_bit hp s (by decide), cable, small]

end Sys2Proof.Machine
end

section
/-! SUPPORT. Lanes and training: the lanes that a port counts as good, how a failed one is replaced, and how training ends (R543 to
R545, R554). -/

namespace Sys2Proof.Machine

open Sys2Proof

variable {p : Nat} (s : State)

/-! ## Good lanes -/

/-- What training leaves out of the good lanes is what the port notes as failed. -/
theorem bit_untrained {l : Nat} (hl : l < 9) (trained : Nat) : bit (511 - trained % 512) l = !bit trained l := by
  have flipped : 511 - trained % 512 = 2 ^ 9 - (trained % 512 + 1) := by omega
  rw [bit_eq_testBit, bit_eq_testBit, flipped, Nat.testBit_two_pow_sub_succ (Nat.mod_lt _ (by decide)), decide_eq_true hl,
    Nat.testBit_mod_two_pow, decide_eq_true hl, Bool.true_and, Bool.true_and]

/-- The lanes that trained as good are counted as good. -/
theorem goodLanes_trained (hp : p < 34) (trained : Nat) :
    goodLanes (setFailed s p (511 - trained % 512)) p = ((List.range 9).filter (bit trained)).length := by
  have small : (511 - trained % 512) % 512 = 511 - trained % 512 := Nat.mod_eq_of_lt (by omega)
  rw [← link_good, link_setFailed hp, Link.good, small]
  congr 1
  refine List.filter_congr fun l hl => ?_
  rw [bit_untrained (List.mem_range.1 hl), Bool.not_not]

theorem bit_of_lt {v n i : Nat} (hv : v < 2 ^ n) (hi : n ≤ i) : bit v i = false := by
  rw [bit_eq_testBit]
  exact Nat.testBit_lt_two_pow (hv.trans_le (Nat.pow_le_pow_right (by decide) hi))

/-- A lane that fails is the only one whose bit changes. -/
theorem bit_portFailed_setFailed (hp : p < 34) {l : Nat} (hl : l < 9) (i : Nat) :
    bit (portFailed (setFailed s p (setBit (portFailed s p) l true)) p) i = if i = l then true else bit (portFailed s p) i := by
  have failed : portFailed (setFailed s p (setBit (portFailed s p) l true)) p = setBit (portFailed s p) l true % 2 ^ 9 :=
    congrArg Link.failed (link_setFailed hp s _)
  rw [failed]
  by_cases hi : i < 9
  · rw [bit_mod_two_pow _ hi]
    split
    · rename_i same; rw [same, bit_setBit]
    · rename_i other; exact bit_setBit_other other _ _
  · rw [bit_of_lt (Nat.mod_lt _ (by decide)) (Nat.le_of_not_lt hi), if_neg (by omega),
      bit_of_lt (portFailed_lt s p) (Nat.le_of_not_lt hi)]

/-- It is one good lane less. -/
theorem goodLanes_setFailed (hp : p < 34) {l : Nat} (hl : l < 9) (works : bit (portFailed s p) l = false) :
    goodLanes (setFailed s p (setBit (portFailed s p) l true)) p = goodLanes s p - 1 := by
  have good : l ∈ (List.range 9).filter fun i => !bit (portFailed s p) i := by simp [hl, works]
  have erased : (List.range 9).filter (fun i => !bit (portFailed (setFailed s p (setBit (portFailed s p) l true)) p) i) =
      ((List.range 9).filter fun i => !bit (portFailed s p) i).erase l := by
    rw [(List.nodup_range.filter _).erase_eq_filter, List.filter_filter]
    refine List.filter_congr fun i _ => ?_
    rw [bit_portFailed_setFailed s hp hl]
    by_cases same : i = l <;> simp [same]
  rw [goodLanes, erased, List.length_erase_of_mem good, goodLanes]

/-- With nine good lanes no lane has failed. -/
theorem bit_portFailed_of_nine (all : 9 ≤ goodLanes s p) (i : Nat) : bit (portFailed s p) i = false := by
  by_cases hi : i < 9
  case neg => exact bit_of_lt (portFailed_lt s p) (Nat.le_of_not_lt hi)
  have most := List.length_filter_le (fun i => !bit (portFailed s p) i) (List.range 9)
  have every := List.length_filter_eq_length_iff.1 (Nat.le_antisymm most (by simpa [goodLanes] using all)) i (List.mem_range.2 hi)
  simpa using every

/-! ## The lanes of a trained port (R545, R554) -/

/-- The physical lane that carries no logical lane, 15 for none. -/
def spareLane (s : State) (p : Nat) : Nat :=
  ((List.range 9).find? fun l => !((List.range 8).map (laneOf s p)).contains l).getD 15

/-- There is a spare lane: eight logical lanes cannot use nine. -/
theorem spareLane_free (p : Nat) : spareLane s p < 9 ∧ ∀ k < 8, laneOf s p k ≠ spareLane s p := by
  cases found : (List.range 9).find? fun l => !((List.range 8).map (laneOf s p)).contains l with
  | none =>
    have used : List.range 9 ⊆ (List.range 8).map (laneOf s p) := fun l hl => by
      simpa using List.find?_eq_none.1 found l hl
    have le := (List.nodup_range.subperm used).length_le
    simp at le
  | some l =>
    have spare : spareLane s p = l := by rw [spareLane, found]; rfl
    have free := List.find?_some found
    rw [spare]
    exact ⟨List.mem_range.1 (List.mem_of_find?_eq_some found), by simpa using free⟩

/-- A logical lane whose physical lane has failed. -/
def failedLane (s : State) (p : Nat) : Option Nat := (List.range 8).find? fun k => bit (portFailed s p) (laneOf s p k)

theorem bindLanes_of_sound (sound : failedLane s p = none) :
    ∃ keeper, bindLanes s p = setKeeper s p keeper := by
  unfold failedLane at sound
  unfold bindLanes
  simp only [sound]
  exact ⟨_, rfl⟩

theorem bindLanes_of_failed {k : Nat} (failed : failedLane s p = some k) : bindLanes s p =
    if (spareLane s p < 9 ∧ (!bit (portFailed s p) (spareLane s p)) = true) ∧ goodLanes s p = 8 then
      setKeeper (setLane s p k (spareLane s p)) p 15
    else setKeeper s p 15 := by
  unfold failedLane at failed
  unfold bindLanes spareLane
  simp only [failed]

theorem link_bindLanes (hp : p < 34) : ∃ keeper lanes, link (bindLanes s p) p = { link s p with keeper := keeper, lanes := lanes } := by
  cases failed : failedLane s p with
  | none =>
    obtain ⟨keeper, bound⟩ := bindLanes_of_sound s failed
    rw [bound, link_setKeeper hp]
    exact ⟨_, _, rfl⟩
  | some k =>
    rw [bindLanes_of_failed s failed]
    split
    · rw [link_setKeeper hp, link_setLane hp]
      exact ⟨_, _, rfl⟩
    · rw [link_setKeeper hp]
      exact ⟨_, _, rfl⟩

/-- Where one lane alone has failed, and no two logical lanes share a lane, none is left on it (R554). -/
theorem bindLanes_replaces (hp : p < 34) {l : Nat} (failed : ∀ i, bit (portFailed s p) i = decide (i = l)) (eight : goodLanes s p = 8)
    (apart : ((List.range 8).map (laneOf s p)).Nodup) {i : Nat} (hi : i < 8) : laneOf (bindLanes s p) p i ≠ l := by
  cases bad : failedLane s p with
  | none =>
    obtain ⟨keeper, bound⟩ := bindLanes_of_sound s bad
    have sound := List.find?_eq_none.1 bad i (List.mem_range.2 hi)
    rw [bound, ← link_lane, link_setKeeper hp]
    exact (by simpa [failed] using sound : laneOf s p i ≠ l)
  | some k =>
    have carried : laneOf s p k = l := by simpa [failed] using List.find?_some bad
    have hk : k < 8 := List.mem_range.1 (List.mem_of_find?_eq_some bad)
    obtain ⟨spare, free⟩ := spareLane_free s p
    have good : spareLane s p ≠ l := fun same => free k hk (carried.trans same.symm)
    have moved : link (bindLanes s p) p = { (link s p).setLane k (spareLane s p) with keeper := 15 } := by
      rw [bindLanes_of_failed s bad, if_pos ⟨⟨spare, by simp [failed, good]⟩, eight⟩, link_setKeeper hp, link_setLane hp]
    have lane : laneOf (bindLanes s p) p i = ((link s p).setLane k (spareLane s p)).lane i := by rw [← link_lane, moved]; rfl
    rw [lane]
    by_cases same : i = k
    · rw [same, Link.lane_setLane_same hk, Nat.mod_eq_of_lt (by omega)]
      exact good
    · rw [Link.lane_setLane_other hi same, link_lane]
      exact fun shared => same (List.inj_on_of_nodup_map apart (List.mem_range.2 hi) (List.mem_range.2 hk) (shared.trans carried.symm))

/-! ## The end of a training (R543 to R545) -/

/-- A port that has become ACTIVE: its width follows its good lanes. -/
theorem link_portIn (hp : p < 34) : ∃ keeper lanes, link (portIn s p) p = { link s p with
    code := 3, width := if goodLanes s p < 8 then 4 else 8, keeper := keeper, lanes := lanes,
    port := { port s p with failures := 0, replays := 0 } } := by
  obtain ⟨keeper, lanes, bound⟩ := link_bindLanes s hp
  have kept : ∃ keeper, link (if goodLanes (bindLanes s p) p < 8 then setKeeper (bindLanes s p) p 15 else bindLanes s p) p =
      { link s p with keeper := keeper, lanes := lanes } := by
    split
    · rw [link_setKeeper hp, bound]
      exact ⟨_, rfl⟩
    · exact ⟨_, bound⟩
  obtain ⟨keeper, kept⟩ := kept
  unfold portIn
  dsimp only
  generalize (if goodLanes (bindLanes s p) p < 8 then setKeeper (bindLanes s p) p 15 else bindLanes s p) = u at kept ⊢
  have good : goodLanes u p = goodLanes s p := by rw [← link_good, kept]; rfl
  have small : (if goodLanes s p < 8 then 4 else 8) % 16 = if goodLanes s p < 8 then 4 else 8 := by split <;> rfl
  have trained : link (setWidth (setState u p 3) p (if goodLanes u p < 8 then 4 else 8)) p = { link s p with
      code := 3, width := if goodLanes s p < 8 then 4 else 8, keeper := keeper, lanes := lanes } := by
    rw [link_setWidth hp, link_setState hp, kept, good, small]
  have record : port (setWidth (setState u p 3) p (if goodLanes u p < 8 then 4 else 8)) p = port s p := congrArg Link.port trained
  rw [link_advertiseTo, link_setPort, record, trained]
  exact ⟨_, _, rfl⟩

/-- Four good lanes or more end a training in ACTIVE. -/
theorem trainingDone_of_good (hp : p < 34) {good : Nat} (trains : portCode s p = 2 ∨ portCode s p = 4)
    (enough : 4 ≤ ((List.range 9).filter (bit good)).length) :
    trainingDone s p good = portIn (setFailed s p (511 - good % 512)) p := by
  have busy : ¬(portCode s p ≠ 2 ∧ portCode s p ≠ 4) := by omega
  rw [trainingDone, if_neg busy]
  exact if_pos ((goodLanes_trained s hp good).symm ▸ enough)

theorem trainingDone_idle {good : Nat} (idle : ¬(portCode s p = 2 ∨ portCode s p = 4)) : trainingDone s p good = s :=
  if_pos (not_or.1 idle)

theorem portCode_setFailed (hp : p < 34) (v : Nat) : portCode (setFailed s p v) p = portCode s p :=
  congrArg Link.code (link_setFailed hp s v)

/-- Fewer end TRAINING in DOWN. -/
theorem trainingDone_of_training (hp : p < 34) {good : Nat} (training : portCode s p = 2)
    (few : ((List.range 9).filter (bit good)).length < 4) :
    trainingDone s p good = portOut (setFailed s p (511 - good % 512)) p 1 := by
  have busy : ¬(portCode s p ≠ 2 ∧ portCode s p ≠ 4) := by omega
  have still : portCode (setFailed s p (511 - good % 512)) p = 2 := (portCode_setFailed s hp _).trans training
  rw [trainingDone, if_neg busy]
  dsimp only
  rw [goodLanes_trained s hp, if_neg (by omega), if_pos still]

/-- They end RETRAIN there at the third failure in a row (R544). -/
theorem trainingDone_of_retrain (hp : p < 34) {good : Nat} (retrains : portCode s p = 4)
    (few : ((List.range 9).filter (bit good)).length < 4) :
    trainingDone s p good = if 3 ≤ (port s p).failures + 1 then portOut (setFailed s p (511 - good % 512)) p 1
      else setPort (setFailed s p (511 - good % 512)) p { port s p with failures := (port s p).failures + 1 } := by
  have busy : ¬(portCode s p ≠ 2 ∧ portCode s p ≠ 4) := by omega
  have still : portCode (setFailed s p (511 - good % 512)) p ≠ 2 := by rw [portCode_setFailed s hp]; omega
  rw [trainingDone, if_neg busy]
  dsimp only
  rw [goodLanes_trained s hp, if_neg (by omega), if_neg still]
  rfl

/-! ## Lanes that fail (R554) -/

/-- The port once lane l is noted as failed. -/
def laneNoted (s : State) (p l : Nat) : State := setFailed s p (setBit (portFailed s p) l true)

theorem laneFail_known {l : Nat} (known : bit (portFailed s p) l = true ∨ portCode s p < 2) : laneFail s p l = s := if_pos known

/-- A good lane of a port that carries flits, and burnishes none, fails: the lanes left decide what follows. -/
theorem laneFail_eq (hp : p < 34) {l : Nat} (hl : l < 9) (works : bit (portFailed s p) l = false) (up : LinkUp s p)
    (idle : (port s p).burnish = none) : laneFail s p l =
      if goodLanes s p - 1 < 4 then retrain (laneNoted s p l) p
      else if goodLanes s p - 1 < 8 then setKeeper (setWidth (laneNoted s p l) p 4) p 15
      else bindLanes (laneNoted s p l) p := by
  have alive : ¬(bit (portFailed s p) l = true ∨ portCode s p < 2) := by
    rw [works]; rcases up with code | code <;> simp [code]
  have carries : ¬(portCode (laneNoted s p l) p ≠ 3 ∧ portCode (laneNoted s p l) p ≠ 5) := by
    rw [laneNoted, portCode_setFailed s hp]; rcases up with code | code <;> simp [code]
  rw [laneFail, if_neg alive]
  simp only [idle, Option.isSome_none, Bool.false_and, Bool.false_eq_true, if_false, stopBurnish_idle s idle]
  rw [← laneNoted, if_neg carries, laneNoted, goodLanes_setFailed s hp hl works]

end Sys2Proof.Machine
end

section
/-! SUPPORT. Burnishing, and flits as a port receives them (R119, R547 to R553, R555, R556). -/

namespace Sys2Proof.Machine

open Sys2Proof

variable {p : Nat} (s : State)

/-! ## Burnishing (R555, R556) -/

/-- The port can burnish its next lane: it is ACTIVE at full width, has a keeper, and burnishes none. -/
def Burns (s : State) (p : Nat) : Prop := portCode s p = 3 ∧ portWidth s p = 8 ∧ portKeeper s p < 9 ∧ (port s p).burnish = none

theorem burnishStart_unmatched (p : Nat) : burnishStart s p false = s := if_pos (by simp)

theorem burnishStart_stays (stays : ¬Burns s p) (matched : Bool) : burnishStart s p matched = s := by
  refine if_pos ?_
  by_contra starts
  push Not at starts
  obtain ⟨code, width, keeper, idle, -⟩ := starts
  exact stays ⟨code, width, keeper, by simpa using idle⟩

/-- The next logical lane goes to the keeper, and the lane that it frees is re-adapted. -/
theorem link_burnishStart (hp : p < 34) (burns : Burns s p) : link (burnishStart s p true) p =
    { (link s p).setLane ((port s p).lane % 8) (portKeeper s p) with
      keeper := 15, burn := laneOf s p ((port s p).lane % 8)
      port := { port s p with burnish := some ((port s p).lane % 8), lane := ((port s p).lane % 8 + 1) % 8 } } := by
  obtain ⟨code, width, keeper, idle⟩ := burns
  have starts : ¬(portCode s p ≠ 3 ∨ portWidth s p ≠ 8 ∨ 9 ≤ portKeeper s p ∨ (port s p).burnish.isSome = true ∨
      (!true) = true) := by simp [code, width, keeper, idle]
  rw [burnishStart, if_neg starts]
  dsimp only
  rw [link_setPort, link_setBurn hp, link_setKeeper hp, link_setLane hp, Nat.mod_eq_of_lt (laneOf_lt ..)]

/-- What a burnish shows of the port. -/
theorem burnt_burnishStart (hp : p < 34) (burns : Burns s p) :
    let t := burnishStart s p true
    let j := (port s p).lane % 8
    laneOf t p j = portKeeper s p ∧ portKeeper t p = 15 ∧ portBurn t p = laneOf s p j ∧ (port t p).burnish = some j ∧
      (port t p).lane = (j + 1) % 8 ∧ portCode t p = 3 ∧ ∀ i < 8, i ≠ j → laneOf t p i = laneOf s p i := by
  intro t j
  have hj : j < 8 := Nat.mod_lt _ (by decide)
  have started : link t p = _ := link_burnishStart s hp burns
  have lane (i : Nat) : laneOf t p i = ((link s p).setLane j (portKeeper s p)).lane i := by rw [← link_lane, started]; rfl
  have record := congrArg Link.port started
  obtain ⟨code, -, keeper, -⟩ := burns
  refine ⟨?_, congrArg Link.keeper started, congrArg Link.burn started, congrArg Port.burnish record, congrArg Port.lane record,
    (congrArg Link.code started).trans code, fun i hi other => ?_⟩
  · rw [lane, Link.lane_setLane_same hj, Nat.mod_eq_of_lt (by omega)]
  · rw [lane, Link.lane_setLane_other hi other, link_lane]

theorem burnishEnd_idle (idle : (port s p).burnish = none) : burnishEnd s p = s := if_pos (by rw [idle]; rfl)

/-- The re-adapted lane becomes the keeper. -/
theorem burnishEnd_of_running (running : (port s p).burnish ≠ none) : burnishEnd s p =
    setBurn (setKeeper (setPort s p { port s p with burnish := none }) p (portBurn s p)) p 15 :=
  if_neg (by simpa using running)

theorem link_burnishEnd (hp : p < 34) (running : (port s p).burnish ≠ none) : link (burnishEnd s p) p =
    { link s p with keeper := portBurn s p, burn := 15, port := { port s p with burnish := none } } := by
  rw [burnishEnd_of_running s running, link_setBurn hp, link_setKeeper hp, link_setPort, Nat.mod_eq_of_lt (portBurn_lt s p)]

theorem burnishEnd_routes (running : (port s p).burnish ≠ none) : (burnishEnd s p).routes = s.routes := by
  rw [burnishEnd_of_running s running]; rfl

/-! ## Counts leave links alone -/

theorem countDev_ports (ev i n : Nat) : (countDev s ev i n).ports = s.ports := by
  refine foldl_keeps State.ports (fun t j => ?_) _ s
  unfold countAt
  dsimp only
  split <;> rfl

theorem link_countDev (hp : p < 34) (ev i n : Nat) : link (countDev s ev i n) p = link s p := by
  have state : E.port_state + p < E.dpc_value := by simp only [E.port_state, E.dpc_value]; omega
  have lanes : E.lane_map + p < E.dpc_value := by simp only [E.lane_map, E.dpc_value]; omega
  exact link_congr (rd_countDev s state ev i n) (rd_countDev s lanes ev i n) (by unfold port; rw [countDev_ports])

/-! ## The header of a flit (R547 to R549, R553) -/

/-- The flits that a header acknowledges. -/
def Port.acks (v : Port) (f : Flit) : Nat := (f.ack + 4096 - v.acked) % 4096

/-- The record of a port once it has taken the header of a flit: what is acknowledged, and the credits. -/
def Port.headed (v : Port) (f : Flit) : Port :=
  let w := if v.acks f ≠ 0 ∧ v.acks f ≤ v.outstanding then { v with acked := f.ack % 4096, replays := 0 } else v
  { w with credits := Tab.set 0 w.credits (f.cvc % 4) (Tab.get 0 w.credits (f.cvc % 4) + f.credits) }

theorem Port.headed_expect (v : Port) (f : Flit) : (v.headed f).expect = v.expect := by unfold headed; dsimp only; split <;> rfl

theorem Port.headed_nak (v : Port) (f : Flit) : (v.headed f).nak = v.nak := by unfold headed; dsimp only; split <;> rfl

theorem Port.headed_acked (v : Port) (f : Flit) :
    (v.headed f).acked = if v.acks f ≠ 0 ∧ v.acks f ≤ v.outstanding then f.ack % 4096 else v.acked := by
  unfold headed; dsimp only; split <;> rfl

theorem Port.headed_credits (v : Port) (f : Flit) :
    Tab.get 0 (v.headed f).credits (f.cvc % 4) = Tab.get 0 v.credits (f.cvc % 4) + f.credits := by
  unfold headed
  dsimp only
  rw [Tab.get_set_same]
  split <;> rfl

/-- A header that acknowledges nothing brings credits alone. -/
theorem Port.headed_of_no_acks {v : Port} {f : Flit} (noAcks : v.acks f = 0) :
    v.headed f = { v with credits := Tab.set 0 v.credits (f.cvc % 4) (Tab.get 0 v.credits (f.cvc % 4) + f.credits) } := by
  unfold headed
  rw [if_neg fun acked => acked.1 noAcks]

theorem takeHeader_plain {f : Flit} (plain : f.nak = false) : takeHeader s p f = setPort s p ((port s p).headed f) :=
  if_neg fun asks => by rw [plain] at asks; exact absurd asks.1 (by decide)

/-- The port replays: the retry counts, and so does the replay of the oldest flit. -/
def replaying (s : State) (p : Nat) (v : Port) : State :=
  setPort (countDev (inc (setPort s p v) (E.link_retry_count + p)) 0x208 p 1) p { v with replays := v.replays + 1 }

/-- A header that asks for a replay gets it, and the eighth of one flit retrains the link. -/
theorem takeHeader_replays {f : Flit} (asks : f.nak = true) (waiting : ((port s p).headed f).outstanding ≠ 0) : takeHeader s p f =
    if 8 ≤ ((port s p).headed f).replays + 1 then retrain (replaying s p ((port s p).headed f)) p
    else replaying s p ((port s p).headed f) := if_pos ⟨asks, waiting⟩

theorem link_replaying (hp : p < 34) (v : Port) :
    link (replaying s p v) p = { link s p with port := { v with replays := v.replays + 1 } } := by
  have counted : link (inc (setPort s p v) (E.link_retry_count + p)) p = _ := link_wr_apart _ (apart_link_retry_count hp) _
  rw [replaying, link_setPort, link_countDev _ hp, counted, link_setPort]

theorem rd_replaying (hp : p < 34) (v : Port) : rd (replaying s p v) (E.link_retry_count + p) =
    cut (E.link_retry_count + p) (rd s (E.link_retry_count + p) + 1) := by
  have low : E.link_retry_count + p < E.dpc_value := by simp only [E.link_retry_count, E.dpc_value]; omega
  exact (rd_countDev _ low ..).trans (rd_inc_same ..)

theorem rd_retrain {k : Nat} (h : Apart p k) : rd (retrain s p) k = rd s k := by
  unfold retrain
  split
  · exact rd_portOut s h 4
  · rfl

/-! ## Flits (R550, R552) -/

/-- The port accepts the flit: it came whole, carries data, and is the next expected. -/
def Accepted (v : Port) (f : Flit) : Prop :=
  (f.crcOk = true ∧ f.fecOk = true ∧ f.fifoFull = false) ∧ (f.ftype = 1 ∨ f.ftype = 2) ∧ f.seq = v.expect

/-- The machine once the flit is counted, and a boundary buffer that was full. -/
def flitCounted (s : State) (p : Nat) (f : Flit) : State :=
  if f.fifoFull then inc (countDev s 0x207 p 1) E.boundary_overflow_count else countDev s 0x207 p 1

theorem link_flitCounted (hp : p < 34) (f : Flit) : link (flitCounted s p f) p = link s p := by
  unfold flitCounted
  split
  · exact (link_wr_apart _ (apart_boundary_overflow_count hp) _).trans (link_countDev s hp ..)
  · exact link_countDev s hp ..

theorem port_flitCounted (hp : p < 34) (f : Flit) : port (flitCounted s p f) p = port s p :=
  congrArg Link.port (link_flitCounted s hp f)

theorem flitCounted_sent (f : Flit) : (flitCounted s p f).sent = s.sent := by
  unfold flitCounted
  split
  · exact (wr_sent ..).trans (sent_countDev ..)
  · exact sent_countDev ..

theorem flitCounted_mem (f : Flit) : (flitCounted s p f).mem = s.mem := by
  unfold flitCounted
  split <;> exact mem_of_still (by simp)

theorem rd_flitCounted_overflow {f : Flit} (full : f.fifoFull = true) : rd (flitCounted s p f) E.boundary_overflow_count =
    cut E.boundary_overflow_count (rd s E.boundary_overflow_count + 1) := by
  unfold flitCounted
  rw [if_pos full, rd_inc_same, rd_countDev s (by decide)]

theorem rd_flitCounted {k : Nat} (low : k < E.dpc_value) (other : k ≠ E.boundary_overflow_count) (f : Flit) :
    rd (flitCounted s p f) k = rd s k := by
  unfold flitCounted
  split
  · rw [rd_inc_other _ other, rd_countDev s low]
  · exact rd_countDev s low ..

theorem flitReceive_down (down : ¬LinkUp s p) (f : Flit) : flitReceive s p f = s := if_pos (not_or.1 down)

/-- A flit that is not accepted, and is not idle, asks for a replay, and is gone. -/
theorem flitReceive_refuses (hp : p < 34) (up : LinkUp s p) {f : Flit} (busy : f.ftype ≠ 0) (refused : ¬Accepted (port s p) f) :
    flitReceive s p f = setPort (flitCounted s p f) p { port s p with nak := true } := by
  have carries : ¬(portCode s p ≠ 3 ∧ portCode s p ≠ 5) := by rw [← not_or, not_not]; exact up
  rw [flitReceive, if_neg carries]
  dsimp only
  rw [← flitCounted, if_neg busy, port_flitCounted s hp]
  refine if_neg fun ⟨good, data, next⟩ => refused ⟨?_, by omega, next⟩
  simpa [and_assoc] using good

/-- The machine once the flit f is counted, and the next is expected. -/
def flitTaken (s : State) (p : Nat) (f : Flit) : State :=
  setPort (flitCounted s p f) p { port s p with expect := (f.seq + 1) % 4096, nak := false }

theorem port_flitTaken (f : Flit) : port (flitTaken s p f) p = { port s p with expect := (f.seq + 1) % 4096, nak := false } :=
  port_setPort ..

theorem portCode_flitTaken (hp : p < 34) (f : Flit) : portCode (flitTaken s p f) p = portCode s p :=
  congrArg Link.code (link_flitCounted s hp f)

/-- One that is accepted raises the number expected next, and its header is taken. -/
theorem flitReceive_accepts (hp : p < 34) (up : LinkUp s p) {f : Flit} (accepted : Accepted (port s p) f) :
    flitReceive s p f = takeHeader (flitTaken s p f) p f := by
  have carries : ¬(portCode s p ≠ 3 ∧ portCode s p ≠ 5) := by rw [← not_or, not_not]; exact up
  obtain ⟨⟨crc, fec, room⟩, data, next⟩ := accepted
  rw [flitReceive, if_neg carries]
  dsimp only
  rw [← flitCounted, if_neg (by omega), port_flitCounted s hp]
  exact if_pos ⟨by simp [crc, fec, room], by omega, next⟩

end Sys2Proof.Machine
end

section
/-! SUPPORT. Served writes of `port_cmd`, and what they lead to (R546, R555, R573, R861). -/

namespace Sys2Proof.Machine

open Sys2Proof

/-! ## The counts of a port -/

theorem dictSize_link_down_count : ∀ p < 34, dictSize (E.link_down_count + p) = 4 := by decide

theorem dictSize_link_retry_count : ∀ p < 34, dictSize (E.link_retry_count + p) = 4 := by decide

/-! ## A served write of `port_cmd` (R573, R861) -/

/-- The row of `port_cmd` in the dictionary. -/
def portCmdRow : DRow := ⟨0x6003, 1, 0x01, 0x22, 1, 1, .cmd, 1, false, 0⟩

theorem dictRow_port_cmd : ∀ p < 34, dictRow ((E.port_cmd + p) / 256) ((E.port_cmd + p) % 256) = some portCmdRow := by decide

theorem port_cmd_index {p : Nat} (hp : p < 34) : (E.port_cmd + p) / 256 = 0x6003 ∧ 1 ≤ (E.port_cmd + p) % 256 := by
  simp only [E.port_cmd]; omega

variable {s : State} {p : Nat}

/-- A served value of 1 to 5 is obeyed: it passes every check, and no pair forwards it. -/
theorem access_portCmd {v : Nat} (via : Path) (hp : p < 34) (known : 1 ≤ v ∧ v ≤ 5) (matched : Bool)
    (serves : Serves s (E.port_cmd + p)) :
    access s (writeOf via (E.port_cmd + p) v) (portSem p matched) = ended (portCommand p matched s v) (E.port_cmd + p) 0 := by
  obtain ⟨index, sub⟩ := port_cmd_index hp
  have size : dictSize (E.port_cmd + p) = 1 := by rw [dictSize, dictRow_port_cmd p hp]; rfl
  have value : leNat (leBytes (dictSize (E.port_cmd + p)) v) = v := by
    rw [leNat_leBytes, size]
    exact Nat.mod_eq_of_lt (by omega)
  have passes : checks s via true portCmdRow (portSem p matched) 1 v = 0 := by
    simp [checks, portCmdRow, permits, portSem, command, known]
  have untold (d : List Byte) : told s via (E.port_cmd + p) d = s :=
    forwardWrite_eq _ (Or.inr (Or.inr (show partitionEntry ((E.port_cmd + p) / 256) = false by rw [index]; decide)))
  rw [writeOf_eq, access_accepted serves (by rw [index]; decide) sub (dictRow_port_cmd p hp) (by decide)
    (by rw [value, leBytes_length, size]; exact passes), untold, value]
  rfl

theorem result_ended (u : State) (k r : Nat) : result (ended u k r) = r := by
  change (ansOf r 0 (dictRow (k / 256) (k % 256)) (k % 256) []).result = r
  unfold ansOf
  split
  · rfl
  · split <;> rfl

theorem exec_portWrite {n : Instr} {v : Nat} {via : Path} {matched : Bool} (runs : exec n s = portWrite via p v matched s)
    (hp : p < 34) (known : 1 ≤ v ∧ v ≤ 5) (serves : Serves s (E.port_cmd + p)) :
    exec n s = done s (ended (portCommand p matched s v) (E.port_cmd + p) 0) := by
  rw [runs, portWrite, decide_eq_true hp, instanced_true, access_portCmd via hp known matched serves]

/-- A command of a port leads to what its effect satisfies, with result 0. -/
theorem leads_portWrite {n : Instr} {v : Nat} {via : Path} {matched : Bool} {P : State → Prop}
    (runs : exec n s = portWrite via p v matched s) (hp : p < 34) (known : 1 ≤ v ∧ v ≤ 5) (serves : Serves s (E.port_cmd + p))
    (effect : P (portCommand p matched s v)) (blind : ∀ u h q, P u → P { u with host := h, pending := q }) :
    Leads n s fun t => result t = 0 ∧ P t :=
  ⟨_, exec_portWrite runs hp known serves, result_ended _ _ 0,
    blind (portCommand p matched s v) (ended (portCommand p matched s v) (E.port_cmd + p) 0).host s.pending effect⟩

/-- A command that finds nothing to do is accepted. -/
theorem accepts_portWrite {n : Instr} {v : Nat} {via : Path} {matched : Bool} (runs : exec n s = portWrite via p v matched s)
    (hp : p < 34) (known : 1 ≤ v ∧ v ≤ 5) (serves : Serves s (E.port_cmd + p)) (nothing : portCommand p matched s v = s) :
    Accepts n s (E.port_cmd + p) s := by
  have ends := exec_portWrite runs hp known serves
  rw [nothing] at ends
  exact ends

/-! ## The commands of a port (R573) -/

theorem portCommand_enable (matched : Bool) : portCommand p matched s 1 = portUp (setPort s p { port s p with enabled := true }) p :=
  if_pos rfl

theorem portCommand_disable (matched : Bool) :
    portCommand p matched s 2 = portOut (setPort s p { port s p with enabled := false }) p 0 := by
  rw [portCommand, if_neg (by decide), if_pos rfl]

theorem portCommand_retrain (matched : Bool) : portCommand p matched s 3 = retrain s p := by
  rw [portCommand, if_neg (by decide), if_neg (by decide), if_pos rfl]

theorem portCommand_burnish (matched : Bool) : portCommand p matched s 4 = burnishStart s p matched := by
  rw [portCommand, if_neg (by decide), if_neg (by decide), if_neg (by decide), if_pos rfl]

theorem portCommand_clear (matched : Bool) : portCommand p matched s 5 = setFailed (retrain s p) p 0 := by
  rw [portCommand, if_neg (by decide), if_neg (by decide), if_neg (by decide), if_neg (by decide)]

section

variable (via : Path) (hp : p < 34) (serves : Serves s (E.port_cmd + p))

include hp serves

theorem portEnable_leads_off (off : portCode s p = 0) (on : domainOn s (portDomain p) = true) :
    Leads (.portEnable via p) s fun t =>
      result t = 0 ∧ portCode t p = (if presLow s p then 2 else 1) ∧ (port t p).enabled = true := by
  refine leads_portWrite rfl hp (by decide) serves ?_ fun _ _ _ h => h
  have up := link_portUp (setPort s p { port s p with enabled := true }) hp off on
  rw [link_setPort] at up
  rw [portCommand_enable]
  exact ⟨congrArg Link.code up, congrArg (fun x => x.port.enabled) up⟩

theorem portEnable_leads_known (known : portCode s p ≠ 0) :
    Leads (.portEnable via p) s fun t => result t = 0 ∧ portCode t p = portCode s p ∧ (port t p).enabled = true := by
  refine leads_portWrite rfl hp (by decide) serves ?_ fun _ _ _ h => h
  have same := portUp_enabled (setPort s p { port s p with enabled := true }) known
  rw [portCommand_enable, same, port_setPort]
  exact ⟨rfl, rfl⟩

theorem portDisable_leads : Leads (.portDisable via p) s fun t => result t = 0 ∧ portCode t p = 0 ∧ portWidth t p = 0 ∧
    (port t p).enabled = false ∧ (portCode s p = 3 ∨ portCode s p = 4 →
      rd t (E.link_down_count + p) = cut E.link_down_count (rd s (E.link_down_count + p) + 1) ∧
      rd t E.link_flits_lost_count = cut E.link_flits_lost_count (rd s E.link_flits_lost_count + (port s p).outstanding)) := by
  refine leads_portWrite rfl hp (by decide) serves ?_ fun _ _ _ h => h
  rw [portCommand_disable]
  have record := port_setPort s p { port s p with enabled := false }
  have code : portCode (setPort s p { port s p with enabled := false }) p = portCode s p := rfl
  have entries (k : Nat) : rd (setPort s p { port s p with enabled := false }) k = rd s k := rfl
  generalize setPort s p { port s p with enabled := false } = u at record code entries ⊢
  have out : WentOut u (portOut u p 0) p 0 := wentOut_portOut u hp (by decide)
  have counts {k : Nat} (h : Apart p k) : rd (portOut u p 0) k = rd (dropCounted u p) k := rd_portOut u h 0
  refine ⟨out.code, out.width, by rw [out.record, record]; rfl, fun active => ?_⟩
  have counted : dropCounted u p = inc (incBy u E.link_flits_lost_count (port u p).outstanding) (E.link_down_count + p) :=
    if_pos (by rw [code]; exact active)
  have apart : E.link_down_count + p ≠ E.link_flits_lost_count := by
    simp only [E.link_down_count, E.link_flits_lost_count]; omega
  constructor
  · refine (counts (apart_link_down_count hp)).trans ?_
    rw [counted, rd_inc_same, incBy, rd_wr_other _ apart, entries, cut, cut, dictSize_link_down_count p hp]
    rfl
  · refine (counts (apart_link_flits_lost_count hp)).trans ?_
    rw [counted, rd_inc_other _ apart.symm, incBy, rd_wr_same, record, entries]
    rfl

theorem portRetrain_leads (up : LinkUp s p) :
    Leads (.portRetrain via p) s fun t => result t = 0 ∧ portCode t p = 4 ∧ portWidth t p = 0 := by
  refine leads_portWrite rfl hp (by decide) serves ?_ fun _ _ _ h => h
  rw [portCommand_retrain]
  exact ⟨(wentOut_retrain s hp up).code, (wentOut_retrain s hp up).width⟩

theorem portRetrain_accepts (down : ¬LinkUp s p) : Accepts (.portRetrain via p) s (E.port_cmd + p) s :=
  accepts_portWrite rfl hp (by decide) serves ((portCommand_retrain true).trans (retrain_of_not_up s down))

theorem portClearFailed_leads : Leads (.portClearFailed via p) s fun t => result t = 0 ∧ portFailed t p = 0 ∧
    portCode t p = if portCode s p = 3 ∨ portCode s p = 5 then 4 else portCode s p := by
  refine leads_portWrite rfl hp (by decide) serves ?_ fun _ _ _ h => h
  rw [portCommand_clear, portCode_setFailed _ hp]
  refine ⟨congrArg Link.failed (link_setFailed hp (retrain s p) 0), ?_⟩
  split
  · rename_i up; exact (wentOut_retrain s hp up).code
  · rename_i down; rw [retrain_of_not_up s down]

end

end Sys2Proof.Machine
end

section
/-! SUPPORT. What the events of a port's link lead to (R543 to R546, R550 to R556). -/

namespace Sys2Proof.Machine

open Sys2Proof

variable {s : State} {p : Nat}

/-! ## Training and loss of a link (R543 to R546, R552, R553) -/

theorem stays_of_same {n : Instr} {t : State} (runs : exec n s = done s t) (same : t = s) : Stays n s := by
  rw [same] at runs; exact runs

section

variable (hp : p < 34)

include hp

theorem exec_trainingDone (good : Nat) : exec (.trainingDone p good) s = done s (trainingDone s p good) :=
  guarded_of (decide_eq_true hp) s _

theorem trainingDone_leads_active {good : Nat} (trains : portCode s p = 2 ∨ portCode s p = 4)
    (enough : 4 ≤ ((List.range 9).filter (bit good)).length) : Leads (.trainingDone p good) s fun t => portCode t p = 3 ∧
      portWidth t p = (if ((List.range 9).filter (bit good)).length < 8 then 4 else 8) ∧ portFailed t p = 511 - good % 512 ∧
      (port t p).failures = 0 := by
  refine leads_of_effect (exec_trainingDone hp good) ?_ fun _ _ h => h
  obtain ⟨keeper, lanes, active⟩ := link_portIn (setFailed s p (511 - good % 512)) hp
  rw [goodLanes_trained s hp, link_setFailed hp, Nat.mod_eq_of_lt (show 511 - good % 512 < 512 by omega)] at active
  rw [trainingDone_of_good s hp trains enough]
  exact ⟨congrArg Link.code active, congrArg Link.width active, congrArg Link.failed active,
    congrArg (fun x => x.port.failures) active⟩

theorem trainingDone_leads_down {good : Nat} (training : portCode s p = 2) (few : ((List.range 9).filter (bit good)).length < 4) :
    Leads (.trainingDone p good) s fun t => portCode t p = 1 ∧ portWidth t p = 0 := by
  refine leads_of_effect (exec_trainingDone hp good) ?_ fun _ _ h => h
  rw [trainingDone_of_training s hp training few]
  have out := wentOut_portOut (setFailed s p (511 - good % 512)) hp (st := 1) (by decide)
  exact ⟨out.code, out.width⟩

theorem trainingDone_leads_retrain {good : Nat} (retrains : portCode s p = 4) (few : ((List.range 9).filter (bit good)).length < 4)
    (again : (port s p).failures < 2) :
    Leads (.trainingDone p good) s fun t => portCode t p = 4 ∧ (port t p).failures = (port s p).failures + 1 := by
  refine leads_of_effect (exec_trainingDone hp good) ?_ fun _ _ h => h
  rw [trainingDone_of_retrain s hp retrains few, if_neg (by omega), port_setPort]
  exact ⟨(portCode_setFailed s hp _).trans retrains, rfl⟩

theorem trainingDone_leads_third {good : Nat} (retrains : portCode s p = 4) (few : ((List.range 9).filter (bit good)).length < 4)
    (third : 2 ≤ (port s p).failures) : Leads (.trainingDone p good) s fun t => portCode t p = 1 := by
  refine leads_of_effect (exec_trainingDone hp good) ?_ fun _ _ h => h
  rw [trainingDone_of_retrain s hp retrains few, if_pos (by omega)]
  exact (wentOut_portOut _ hp (by decide)).code

theorem exec_trainingTimeout : exec (.trainingTimeout p) s = done s (if portCode s p = 2 then portOut s p 1 else s) :=
  guarded_of (decide_eq_true hp) s _

theorem trainingTimeout_leads (training : portCode s p = 2) : Leads (.trainingTimeout p) s fun t => portCode t p = 1 := by
  refine leads_of_effect (exec_trainingTimeout hp) ?_ fun _ _ h => h
  rw [if_pos training]
  exact (wentOut_portOut s hp (by decide)).code

theorem exec_downRetry : exec (.downRetry p) s = done s (if portCode s p = 1 ∧ presLow s p then setState s p 2 else s) :=
  guarded_of (decide_eq_true hp) s _

theorem downRetry_leads (down : portCode s p = 1) (cable : presLow s p = true) :
    Leads (.downRetry p) s fun t => portCode t p = 2 ∧ t.routes = s.routes := by
  refine leads_of_effect (exec_downRetry hp) ?_ fun _ _ h => h
  rw [if_pos ⟨down, cable⟩]
  exact ⟨congrArg Link.code (link_setState hp s 2), wr_routes ..⟩

theorem exec_ackTimeout : exec (.ackTimeout p) s =
    done s (if (port s p).outstanding ≠ 0 ∨ 8 ≤ (port s p).replays then retrain s p else s) :=
  guarded_of (decide_eq_true hp) s _

theorem ackTimeout_stays (inTime : ¬(((port s p).outstanding ≠ 0 ∨ 8 ≤ (port s p).replays) ∧ LinkUp s p)) :
    Stays (.ackTimeout p) s := by
  refine stays_of_same (exec_ackTimeout hp) ?_
  split
  · rename_i late; exact retrain_of_not_up s fun up => inTime ⟨late, up⟩
  · rfl

theorem ackTimeout_leads (late : (port s p).outstanding ≠ 0 ∨ 8 ≤ (port s p).replays) (up : LinkUp s p) :
    Leads (.ackTimeout p) s fun t => portCode t p = 4 ∧ (port t p).acked = (port s p).acked := by
  refine leads_of_effect (exec_ackTimeout hp) ?_ fun _ _ h => h
  rw [if_pos late]
  have out := wentOut_retrain s hp up
  exact ⟨out.code, by rw [out.record]; rfl⟩

end

theorem exec_helloTimeout (fabric : p < 32) : exec (.helloTimeout p) s = done s (retrain s p) :=
  guarded_of (decide_eq_true fabric) s _

theorem helloTimeout_leads (fabric : p < 32) (up : LinkUp s p) : Leads (.helloTimeout p) s fun t => portCode t p = 4 :=
  leads_of_effect (exec_helloTimeout fabric) (wentOut_retrain s (by omega) up).code fun _ _ h => h

/-! ## Lanes and burnishing (R554 to R556) -/

section

variable (hp : p < 34)

include hp

theorem exec_laneFail {l : Nat} (hl : l < 9) : exec (.laneFail p l) s = done s (laneFail s p l) :=
  guarded_of (decide_eq_true ⟨hp, hl⟩) s _

section

variable {l : Nat} (hl : l < 9) (works : bit (portFailed s p) l = false) (up : LinkUp s p) (idle : (port s p).burnish = none)

include hl works up idle

theorem laneFail_leads_retrain (few : goodLanes s p - 1 < 4) :
    Leads (.laneFail p l) s fun t => portCode t p = 4 ∧ bit (portFailed t p) l = true := by
  refine leads_of_effect (exec_laneFail hp hl) ?_ fun _ _ h => h
  rw [laneFail_eq s hp hl works up idle, if_pos few]
  have upNoted : LinkUp (laneNoted s p l) p := by
    rw [LinkUp, laneNoted, portCode_setFailed s hp]; exact up
  have out := wentOut_retrain _ hp upNoted
  refine ⟨out.code, ?_⟩
  rw [out.failed, laneNoted, bit_portFailed_setFailed s hp hl, if_pos rfl]

theorem laneFail_leads_half (enough : 4 ≤ goodLanes s p - 1) (few : goodLanes s p - 1 < 8) :
    Leads (.laneFail p l) s fun t => portCode t p = portCode s p ∧ portWidth t p = 4 ∧ portKeeper t p = 15 ∧
      bit (portFailed t p) l = true := by
  refine leads_of_effect (exec_laneFail hp hl) ?_ fun _ _ h => h
  rw [laneFail_eq s hp hl works up idle, if_neg (by omega), if_pos few]
  have halved : link (setKeeper (setWidth (laneNoted s p l) p 4) p 15) p =
      { link (laneNoted s p l) p with width := 4, keeper := 15 } := by rw [link_setKeeper hp, link_setWidth hp]
  refine ⟨(congrArg Link.code halved).trans (portCode_setFailed s hp _), congrArg Link.width halved, congrArg Link.keeper halved, ?_⟩
  have failed : portFailed (setKeeper (setWidth (laneNoted s p l) p 4) p 15) p = portFailed (laneNoted s p l) p :=
    congrArg Link.failed halved
  rw [failed, laneNoted, bit_portFailed_setFailed s hp hl, if_pos rfl]

theorem laneFail_leads_replaced (all : 8 ≤ goodLanes s p - 1) (apart : ((List.range 8).map (laneOf s p)).Nodup) :
    Leads (.laneFail p l) s fun t => portCode t p = portCode s p ∧ portWidth t p = portWidth s p ∧ bit (portFailed t p) l = true ∧
      ∀ i < 8, laneOf t p i ≠ l := by
  refine leads_of_effect (exec_laneFail hp hl) ?_ fun _ _ h => h
  rw [laneFail_eq s hp hl works up idle, if_neg (by omega), if_neg (by omega)]
  have noted : link (laneNoted s p l) p = { link s p with failed := setBit (portFailed s p) l true % 512 } := link_setFailed hp s _
  obtain ⟨keeper, lanes, bound⟩ := link_bindLanes (laneNoted s p l) hp
  rw [noted] at bound
  have nine : goodLanes s p = 9 := by
    have most : goodLanes s p ≤ (List.range 9).length := List.length_filter_le ..
    rw [List.length_range] at most
    omega
  have alone (i : Nat) : bit (portFailed (laneNoted s p l) p) i = decide (i = l) := by
    rw [laneNoted, bit_portFailed_setFailed s hp hl]
    split
    · rename_i same; exact (decide_eq_true same).symm
    · rename_i other
      rw [decide_eq_false other]
      exact bit_portFailed_of_nine s nine.ge i
  have eight : goodLanes (laneNoted s p l) p = 8 := by rw [laneNoted, goodLanes_setFailed s hp hl works, nine]
  have laneNoted_lane (i : Nat) : laneOf (laneNoted s p l) p i = laneOf s p i := by rw [← link_lane, noted]; rfl
  have failed : portFailed (bindLanes (laneNoted s p l) p) p = portFailed (laneNoted s p l) p :=
    (congrArg Link.failed bound).trans (congrArg Link.failed noted).symm
  refine ⟨congrArg Link.code bound, congrArg Link.width bound, ?_, fun i hi => ?_⟩
  · rw [failed, alone, decide_eq_true rfl]
  · exact bindLanes_replaces _ hp alone eight (by simpa only [funext laneNoted_lane] using apart) hi

end

theorem exec_burnishTick (matched : Bool) : exec (.burnishTick p matched) s =
    done s (if rd s E.burnish_enable = 1 then burnishStart s p matched else s) := guarded_of (decide_eq_true hp) s _

theorem burnishTick_stays_off (off : rd s E.burnish_enable ≠ 1) (matched : Bool) : Stays (.burnishTick p matched) s :=
  stays_of_same (exec_burnishTick hp matched) (if_neg off)

theorem burnishTick_stays {matched : Bool} (on : rd s E.burnish_enable = 1) (same : burnishStart s p matched = s) :
    Stays (.burnishTick p matched) s := stays_of_same (exec_burnishTick hp matched) ((if_pos on).trans same)

theorem exec_burnishReadaptEnd : exec (.burnishReadaptEnd p) s = done s (burnishEnd s p) := guarded_of (decide_eq_true hp) s _

theorem burnishReadaptEnd_leads (running : (port s p).burnish ≠ none) : Leads (.burnishReadaptEnd p) s fun t =>
    portKeeper t p = portBurn s p ∧ portBurn t p = 15 ∧ (port t p).burnish = none ∧
      rd t (E.lane_map + p) = rd s (E.lane_map + p) ∧ t.routes = s.routes := by
  refine leads_of_effect (exec_burnishReadaptEnd hp) ?_ fun _ _ h => h
  have adapted := link_burnishEnd s hp running
  exact ⟨congrArg Link.keeper adapted, congrArg Link.burn adapted, congrArg (fun x => x.port.burnish) adapted,
    congrArg Link.lanes adapted, burnishEnd_routes s running⟩

/-! ## Flits (R550 to R553) -/

theorem exec_flitReceive (f : Flit) : exec (.flitReceive p f) s = done s (flitReceive s p f) := guarded_of (decide_eq_true hp) s _

theorem flitReceive_leads_refused (up : LinkUp s p) {f : Flit} (busy : f.ftype ≠ 0) (refused : ¬Accepted (port s p) f) :
    Leads (.flitReceive p f) s fun t => port t p = { port s p with nak := true } ∧ t.sent = s.sent ∧ t.mem = s.mem ∧
      (f.fifoFull = true → rd t E.boundary_overflow_count =
        cut E.boundary_overflow_count (rd s E.boundary_overflow_count + 1)) := by
  refine leads_of_effect (exec_flitReceive hp f) ?_ fun _ _ h => h
  rw [flitReceive_refuses s hp up busy refused]
  exact ⟨port_setPort .., flitCounted_sent s f, flitCounted_mem s f, fun full => rd_flitCounted_overflow s full⟩

theorem flitReceive_leads_accepted (up : LinkUp s p) {f : Flit} (accepted : Accepted (port s p) f) (plain : f.nak = false) :
    Leads (.flitReceive p f) s fun t => (port t p).expect = (f.seq + 1) % 4096 ∧ (port t p).nak = false ∧
      (port t p).acked = (if (port s p).acks f ≠ 0 ∧ (port s p).acks f ≤ (port s p).outstanding then f.ack % 4096
        else (port s p).acked) ∧
      Tab.get 0 (port t p).credits (f.cvc % 4) = Tab.get 0 (port s p).credits (f.cvc % 4) + f.credits ∧
      portCode t p = portCode s p := by
  refine leads_of_effect (exec_flitReceive hp f) ?_ fun _ _ h => h
  have taken : flitReceive s p f = setPort (flitTaken s p f) p ((port (flitTaken s p f) p).headed f) :=
    (flitReceive_accepts s hp up accepted).trans (takeHeader_plain _ plain)
  rw [taken, port_setPort, Port.headed_expect, Port.headed_nak, Port.headed_acked, Port.headed_credits, port_flitTaken s f]
  exact ⟨rfl, rfl, rfl, rfl, portCode_flitTaken s hp f⟩

theorem flitReceive_leads_replay (up : LinkUp s p) {f : Flit} (accepted : Accepted (port s p) f) (asks : f.nak = true)
    (unacked : (port s p).acks f = 0) (waiting : (port s p).outstanding ≠ 0) : Leads (.flitReceive p f) s fun t =>
      rd t (E.link_retry_count + p) = cut E.link_retry_count (rd s (E.link_retry_count + p) + 1) ∧
      (port t p).replays = (port s p).replays + 1 ∧ portCode t p = if 8 ≤ (port s p).replays + 1 then 4 else portCode s p := by
  refine leads_of_effect (exec_flitReceive hp f) ?_ fun _ _ h => h
  obtain ⟨v, headed⟩ : ∃ v, v = (port (flitTaken s p f) p).headed f := ⟨_, rfl⟩
  have noAcks : (port (flitTaken s p f) p).acks f = 0 := by rw [port_flitTaken s f]; exact unacked
  have credited := headed.trans (Port.headed_of_no_acks noAcks)
  rw [port_flitTaken s f] at credited
  have outstanding : v.outstanding ≠ 0 := by rw [credited]; exact waiting
  have replays : v.replays = (port s p).replays := by rw [credited]
  have taken : flitReceive s p f = if 8 ≤ v.replays + 1 then retrain (replaying (flitTaken s p f) p v) p
      else replaying (flitTaken s p f) p v := by
    rw [headed] at outstanding ⊢
    exact (flitReceive_accepts s hp up accepted).trans (takeHeader_replays _ asks outstanding)
  have again : link (replaying (flitTaken s p f) p v) p = { link (flitTaken s p f) p with port := { v with replays := v.replays + 1 } } :=
    link_replaying _ hp v
  have code : portCode (replaying (flitTaken s p f) p v) p = portCode s p :=
    (congrArg Link.code again).trans (portCode_flitTaken s hp f)
  have record : port (replaying (flitTaken s p f) p v) p = { v with replays := v.replays + 1 } := congrArg Link.port again
  have low : E.link_retry_count + p < E.dpc_value := by simp only [E.link_retry_count, E.dpc_value]; omega
  have other : E.link_retry_count + p ≠ E.boundary_overflow_count := by
    simp only [E.link_retry_count, E.boundary_overflow_count]; omega
  have before : rd (flitTaken s p f) (E.link_retry_count + p) = rd s (E.link_retry_count + p) := rd_flitCounted s low other f
  have retried := rd_replaying (flitTaken s p f) hp v
  rw [before, cut, dictSize_link_retry_count p hp] at retried
  rw [taken, replays]
  split
  · have out := wentOut_retrain (replaying (flitTaken s p f) p v) hp (by rw [LinkUp, code]; exact up)
    refine ⟨(rd_retrain _ (apart_link_retry_count hp)).trans retried, ?_, out.code⟩
    rw [out.record, record, ← replays]
    rfl
  · exact ⟨retried, by rw [record, ← replays], code⟩

end

end Sys2Proof.Machine
end

section
/-! SUPPORT. The commands and the links of ports (R543 to R557, R573). -/

namespace Sys2Proof.Machine

open Sys2Proof

/-- Settles O46: each part by the lemma of its command or event, which reads the link off the updates that the command makes. -/
theorem portsAndLinks : Obligations.PortsAndLinks := by
  unfold Obligations.PortsAndLinks
  refine ⟨fun s p hp => ⟨fun via serves => ⟨portEnable_leads_off via hp serves, portEnable_leads_known via hp serves,
      portDisable_leads via hp serves, portRetrain_leads via hp serves, portRetrain_accepts via hp serves, fun burns => ?burnishes,
      fun rests => ?keeps, ?unmatched, portClearFailed_leads via hp serves⟩,
    fun off m => burnishTick_stays_off hp off m, fun on => ⟨fun rests => burnishTick_stays hp on (burnishStart_stays s rests true),
      burnishTick_stays hp on (burnishStart_unmatched s p), fun burns => ?ticks⟩,
    fun idle => stays_of_same (exec_burnishReadaptEnd hp) (burnishEnd_idle s idle), burnishReadaptEnd_leads hp⟩,
    fun s p hp => ⟨fun good => ⟨fun idle => stays_of_same (exec_trainingDone hp good) (trainingDone_idle s idle),
        trainingDone_leads_active hp, trainingDone_leads_down hp, trainingDone_leads_retrain hp, trainingDone_leads_third hp⟩,
      fun other => stays_of_same (exec_trainingTimeout hp) (if_neg other), trainingTimeout_leads hp,
      fun other => stays_of_same (exec_downRetry hp) (if_neg other), fun down cable => downRetry_leads hp down cable,
      ⟨ackTimeout_stays hp, fun late => ackTimeout_leads hp late.1 late.2⟩,
      fun fabric => ⟨fun down => stays_of_same (exec_helloTimeout fabric) (retrain_of_not_up s down), helloTimeout_leads fabric⟩,
      fun l hl => ⟨fun known => stays_of_same (exec_laneFail hp hl) (laneFail_known s known), fun works up idle =>
        ⟨laneFail_leads_retrain hp hl works up idle, laneFail_leads_half hp hl works up idle,
          laneFail_leads_replaced hp hl works up idle⟩⟩,
      fun f => ⟨fun down => stays_of_same (exec_flitReceive hp f) (flitReceive_down s down f),
        fun up => flitReceive_leads_refused hp up, fun up => flitReceive_leads_accepted hp up,
        fun up => flitReceive_leads_replay hp up⟩⟩⟩
  case burnishes => 
    refine leads_portWrite rfl hp (by decide) serves ?_ fun _ _ _ h => h
    rw [portCommand_burnish]
    exact burnt_burnishStart s hp burns
  case keeps => exact accepts_portWrite rfl hp (by decide) serves ((portCommand_burnish true).trans (burnishStart_stays s rests true))
  case unmatched => exact accepts_portWrite rfl hp (by decide) serves ((portCommand_burnish false).trans (burnishStart_unmatched s p))
  case ticks =>
    refine leads_of_effect (exec_burnishTick hp true) ?_ fun _ _ h => h
    rw [if_pos on]
    exact burnt_burnishStart s hp burns

end Sys2Proof.Machine
end

section
/-! SUPPORT. The answer to a transfer of a core whose sector sleeps (R97, R872). -/

namespace Sys2Proof.Machine

open Sys2Proof

/-- A store of core 3 with two requests through handles that have no answer yet. -/
def unansweredStore : Xfer := ⟨8, .stt, 10, 59, 1, 0, 2, 9, true, 0, 0, 0, 0, 4096, 4096, [], 2, none, 0, true, 0⟩

/-- One of the two: a WRITE of two bytes. -/
def storeWrite : Request := ⟨77, 1, 0, 0, [1, 2], none, 0, .xfer 3 8 0 none⟩

/-- Node 9 in service, with that WRITE out through handle 6 to node 12; sector 0, in which core 3 lies, is QUIESCED. -/
def sleepsBeforeAnswer : State :=
  let inService := wr (wr (wr { State.reset with supply := { State.reset.supply with mainOn := true } } E.boot_state 3)
    E.node_id_assigned 1) E.node_id 9
  { wr inService E.domain_state 2 with
    cores := [(3, { Core.init with xfers := [unansweredStore] })]
    handles := [(6, { Handle.init with state := 2, node := 12, out := [storeWrite] })] }

/-- The ACK of that WRITE, with status 0. -/
def storeAck : Msg :=
  { dst := 9, src := 12, flow := 6, tseq := 77, ordered := false, window := 0, epoch := 0, offset := 0, group := 0
    inGroup := false, arg := 0, payload := statusBytes 0 }

/-- An ACK that the device takes is `takeAck`. -/
theorem exec_ack_taken {s : State} {m : Msg} (takes : takesMessages s m = true) : exec (.ack m) s = done s (takeAck s m) := by
  change done s (if takesMessages s m then takeAck s m else s) = _
  rw [if_pos takes]

theorem takesMessages_storeAck : takesMessages sleepsBeforeAnswer storeAck = true := by decide +kernel

/-- The ACK has status 0, so neither window status fails the handle. -/
theorem status_storeAck : leNat (storeAck.payload.take 2) = 0 := by decide

/-- The answer waits in the router of the sector, which it wakes, and the transfer counts the request as unanswered (R872). -/
theorem takeAck_waits_for_sector : (takeAck sleepsBeforeAnswer storeAck).arrivals = [.answer 6 storeWrite 0 []] ∧
    domainState (takeAck sleepsBeforeAnswer storeAck) 0 = 6 ∧
    (core (takeAck sleepsBeforeAnswer storeAck) 3).xfer 8 = some unansweredStore := by
  decide +kernel

/-- Refutes O44: the statement says that the ACK of a WRITE ends a piece of its core's transfer at once, whatever state the core's
sector is in. In `sleepsBeforeAnswer` that sector is QUIESCED, so the answer waits in its router (`takeAck_waits_for_sector`), and
the transfer still counts two requests without an answer where the statement says one. -/
theorem not_windowMessages : ¬ Obligations.WindowMessages := by
  unfold Obligations.WindowMessages
  rintro ⟨-, -, answers⟩
  obtain ⟨-, taken, -⟩ := answers sleepsBeforeAnswer storeAck
  obtain ⟨-, matched, -⟩ := taken takesMessages_storeAck
  have plain : (handle sleepsBeforeAnswer 6).held = [] ∧ (handle sleepsBeforeAnswer 6).unbinding = none ∧
      NoCommits sleepsBeforeAnswer := ⟨rfl, rfl, rfl, nofun⟩
  obtain ⟨ends, -⟩ := matched storeWrite rfl rfl rfl plain
  obtain ⟨ack, -⟩ := ends 3 8 0 none unansweredStore rfl rfl
  obtain ⟨t, ran, -, -, ended⟩ := ack (by decide) (by rw [status_storeAck]; decide) (by rw [status_storeAck]; decide) (.inl rfl)
  obtain ⟨-, -, unmoved⟩ := takeAck_waits_for_sector
  have counted : (core t 3).xfer 8 = some unansweredStore := by
    rw [← Host.Outcome.next.inj ((exec_ack_taken takesMessages_storeAck).symm.trans ran)]
    exact unmoved
  have remote : unansweredStore.remote = unansweredStore.remote - 1 :=
    congrArg Xfer.remote (Option.some.inj (counted.symm.trans ended))
  exact absurd remote (by decide)

end Sys2Proof.Machine
end

section
/-! SUPPORT. What messages of the device and the progress of its step leave of the entries and of the twin's record (R547 to R549,
R593, R603). -/

namespace Sys2Proof.Machine

open Sys2Proof

variable (s : State) {k : Nat}

theorem twin_of_still {s t : State} (h : still t = still s) : t.twin = s.twin :=
  show (still t).twin = (still s).twin from congrArg State.twin h

/-! ## Flits, messages and notices -/

theorem rd_sendFlits (low : k < E.dpc_value) (p vc n : Nat) : rd (sendFlits s p vc n) k = rd s k := rd_countDev _ low _ _ _

theorem sendFlits_sent (p vc n : Nat) : (sendFlits s p vc n).sent = s.sent := sent_countDev _ _ _ _

/-- A message writes counts alone (R836, R846). -/
theorem rd_sendMsg (low : k < E.nd_count) (mtype : Nat) (m : Msg) : rd (sendMsg s mtype m) k = rd s k := by
  unfold sendMsg
  split
  · have noted (b : Bool) (p : Option Nat) : rd (if b then noteNd s 1 p else s) k = rd s k := by
      split
      · exact rd_noteNd s low 1 p
      · rfl
    dsimp only
    rw [rd_congr (emit_dict ..)]
    split
    · exact (rd_sendFlits _ (low.trans (by decide)) _ _ _).trans (noted _ _)
    · exact noted _ _
  · rfl

theorem sendMsg_twin (mtype : Nat) (m : Msg) : (sendMsg s mtype m).twin = s.twin := twin_of_still (still_sendMsg s mtype m)

theorem rd_sendNotice (low : k < E.nd_count) (mtype node w e : Nat) (d : List Byte) :
    rd (sendNotice s mtype node w e d) k = rd s k := rd_sendMsg _ low _ _

theorem sendNotice_twin (mtype node w e : Nat) (d : List Byte) : (sendNotice s mtype node w e d).twin = s.twin :=
  sendMsg_twin _ mtype _

/-! ## The progress of a step (R603) -/

/-- What arrivals lead to moves the step's own record and sends, and nothing else: a view of the machine that neither changes is
kept. -/
theorem stepProgress_keeps {β : Type} (f : State → β) (step : ∀ t v, f { t with step := v } = f t)
    (emits : ∀ t o, f (emit t o) = f t) (notice : ∀ t mtype node w e d, f (sendNotice t mtype node w e d) = f t) :
    f (stepProgress s) = f s := by
  unfold stepProgress
  dsimp only
  split
  · rfl
  split
  · rfl
  split
  · rw [emits, step]
  split
  · rw [becomeQuiet, step, releaseChildren]
    exact foldl_keeps f (fun t c => notice t 0x25 c 0 0 _) _ s
  · rw [notice, step]

theorem rd_stepProgress (low : k < E.nd_count) : rd (stepProgress s) k = rd s k :=
  stepProgress_keeps s (rd · k) (fun _ _ => rfl) (fun _ _ => rfl) fun t => rd_sendNotice t low

theorem stepProgress_twin : (stepProgress s).twin = s.twin :=
  stepProgress_keeps s State.twin (fun _ _ => rfl) (fun _ _ => rfl) sendNotice_twin

end Sys2Proof.Machine
end

section
/-! SUPPORT. The updates of a pair: its state, the start and the end of a resynchronisation, and a module that leaves its pair
(R618, R637 to R641). -/

namespace Sys2Proof.Machine

open Sys2Proof

variable (s : State) {k : Nat}

/-! ## `twin_state` -/

@[simp] theorem refreshTwin_twin : (refreshTwin s).twin = s.twin := rfl

theorem rd_refreshTwin (other : k ≠ E.twin_state) : rd (refreshTwin s) k = rd s k := rd_wr_other s other _

/-- The bit for a heard twin stays as it is. -/
theorem bit_refreshTwin : bit (rd (refreshTwin s) E.twin_state) 0 = bit (rd s E.twin_state) 0 := by
  unfold refreshTwin
  rw [rd_wr_same]
  generalize bit (rd s E.twin_state) 0 = heard
  generalize s.twin.syncing.isSome = syncing
  generalize (portActive s 32 != portActive s 33 && rd s E.twin_role != 0) = one
  revert heard syncing one
  decide

/-! ## A resynchronisation -/

theorem startSync_twin (lead : Bool) : (startSync s lead).twin = { s.twin with syncing := some lead, lost := false } := by
  cases lead <;> rfl

/-- The start writes its progress and the status, besides `twin_state`. -/
theorem rd_startSync (other : k ≠ E.twin_state) (lead : Bool) : rd (startSync s lead) k =
    if k = E.twin_status then 1 else if k = E.twin_sync_progress then 0 else rd s k := by
  have sent (u : State) : rd (if lead then emit u (.yoke 7 0 []) else u) k = rd u k := by cases lead <;> rfl
  unfold startSync
  rw [rd_refreshTwin _ other, sent, rd_wr, rd_wr]
  rfl

theorem rd_startSync_other (lead : Bool)
    (other : k ≠ E.twin_state ∧ k ≠ E.twin_status ∧ k ≠ E.twin_sync_progress) : rd (startSync s lead) k = rd s k := by
  obtain ⟨state, status, progress⟩ := other
  rw [rd_startSync s state, if_neg status, if_neg progress]

theorem resyncDone_of_idle (idle : s.twin.syncing = none) : resyncDone s = s := by
  unfold resyncDone; rw [idle]

/-- Its end writes the module's role, no cause of a detachment, the time, the progress and the status, besides `twin_state`. -/
theorem rd_resyncDone {lead : Bool} (syncs : s.twin.syncing = some lead) (other : k ≠ E.twin_state) : rd (resyncDone s) k =
    if k = E.twin_status then 2 else if k = E.twin_sync_progress then 100
    else if k = E.twin_bound_time then cut E.twin_bound_time (now s) else if k = E.twin_detach_cause then 0
    else if k = E.twin_role then (if lead then 1 else 2) else rd s k := by
  have clock (u : State) (v w : Nat) : now (wr (wr u E.twin_role v) E.twin_detach_cause w) = now u :=
    (rd_wr_other _ (by decide) _).trans (rd_wr_other _ (by decide) _)
  unfold resyncDone
  rw [syncs]
  dsimp only
  rw [rd_refreshTwin _ other, rd_wr, rd_wr, rd_wr, rd_wr, rd_wr, clock]
  cases lead <;> rfl

/-- A resynchronisation ends in the module's role (R618, R638). -/
theorem twinResyncDone_leads {lead : Bool} (syncs : s.twin.syncing = some lead) : Leads .twinResyncDone s fun t =>
    rd t E.twin_role = (if lead then 1 else 2) ∧ rd t E.twin_detach_cause = 0 ∧ rd t E.twin_sync_progress = 100 ∧
    rd t E.twin_status = 2 ∧ t.twin.syncing = none ∧ rd t E.twin_bound_time = cut E.twin_bound_time (now s) ∧ t.mem = s.mem := by
  refine leads_of_effect (u := resyncDone s) rfl ?_ fun _ _ h => h
  have entries {k : Nat} (other : k ≠ E.twin_state) := rd_resyncDone s syncs other
  refine ⟨entries (by decide), entries (by decide), entries (by decide), entries (by decide), ?idle, entries (by decide), ?memory⟩
  case idle => unfold resyncDone; rw [syncs]; rfl
  case memory => unfold resyncDone; rw [syncs]; rfl

/-! ## A module that leaves its pair -/

theorem rd_detachTwin (cause : Nat) : rd (detachTwin s cause) k =
    if k = E.twin_detach_cause then cut E.twin_detach_cause cause else if k = E.twin_role then 3 else rd s k := by
  unfold detachTwin
  rw [rd_wr, rd_wr]
  rfl

theorem detachTwin_role (cause : Nat) : rd (detachTwin s cause) E.twin_role = 3 := rd_detachTwin s cause

theorem detachTwin_cause (cause : Nat) : rd (detachTwin s cause) E.twin_detach_cause = cut E.twin_detach_cause cause :=
  rd_detachTwin s cause

end Sys2Proof.Machine
end

section
/-! SUPPORT. Served writes of `twin_cmd`, and the commands other than a bind (R616, R636 to R638, R640, R861). -/

namespace Sys2Proof.Machine

open Sys2Proof

variable {s : State} {via : Path}

/-! ## A served write of `twin_cmd` -/

/-- The row of `twin_cmd` in the dictionary. -/
def twinCmdRow : DRow := ⟨0x7001, 1, 0x03, 0x03, 1, 1, .cmd, 1, false, 0⟩

theorem dictRow_twin_cmd : dictRow (E.twin_cmd / 256) (E.twin_cmd % 256) = some twinCmdRow := by decide

/-- A value whose field `op` names a command (R639). -/
structure NamesTwinCommand (v : Nat) : Prop where
  byte : v < 256
  op : 1 ≤ bits v 7 4 ∧ bits v 7 4 ≤ 5

theorem namesTwinCommand_bind (lead : Bool) : NamesTwinCommand (if lead then 0x11 else 0x10) := by
  cases lead <;> exact ⟨by decide, by decide⟩

theorem leNat_twin_cmd {v : Nat} (byte : v < 256) : leNat (leBytes (dictSize E.twin_cmd) v) = v :=
  (leNat_leBytes ..).trans (Nat.mod_eq_of_lt byte)

/-- A served command from an authenticated session is obeyed: it passes every check, and no pair forwards it. -/
theorem access_twinCmd {v : Nat} (p : TwinPeer) (names : NamesTwinCommand v) (serves : Serves s E.twin_cmd)
    (auth : authentic s via = true) :
    access s (writeOf via E.twin_cmd v) (twinSem p) = ended ((twinSem p).eff s via v) E.twin_cmd 0 := by
  have passes : checks s via true twinCmdRow (twinSem p) 1 v = 0 := by
    simp [checks, twinCmdRow, permits, twinSem, command, auth, names.op]
  have untold (d : List Byte) : told s via E.twin_cmd d = s :=
    forwardWrite_eq _ (.inr (.inr (show partitionEntry (E.twin_cmd / 256) = false by decide)))
  rw [writeOf_eq, access_accepted serves (by decide) (by decide) dictRow_twin_cmd (by decide)
    (by rw [leNat_twin_cmd names.byte]; exact passes), untold, leNat_twin_cmd names.byte]

/-- From any other session it ends with result 6, and changes nothing (R616). -/
theorem access_twinCmd_unauthenticated (v : Nat) (p : TwinPeer) (serves : Serves s E.twin_cmd) (other : authentic s via = false) :
    access s (writeOf via E.twin_cmd v) (twinSem p) = ended s E.twin_cmd 6 := by
  have fails (n w : Nat) : checks s via true twinCmdRow (twinSem p) n w = 6 := by
    simp [checks, twinCmdRow, permits, twinSem, command, other]
  rw [writeOf_eq, access_refused serves (by decide) (by decide) dictRow_twin_cmd (fails _ _)]

/-- The instruction writes v to `twin_cmd`, and brings what the peer answers. -/
def WritesTwinCmd (n : Instr) (s : State) (via : Path) (v : Nat) (p : TwinPeer) : Prop :=
  exec n s = done s (access s (writeOf via E.twin_cmd v) (twinSem p))

variable {n : Instr} {v : Nat} {p : TwinPeer}

theorem exec_twinCmd_unauthenticated (runs : WritesTwinCmd n s via v p) (serves : Serves s E.twin_cmd)
    (other : authentic s via = false) : exec n s = .next (ended s E.twin_cmd 6) := by
  rw [runs, access_twinCmd_unauthenticated v p serves other]
  rfl

/-- A command leads to what its effect satisfies, with result 0. -/
theorem leads_twinCmd {P : State → Prop} (runs : WritesTwinCmd n s via v p) (names : NamesTwinCommand v)
    (serves : Serves s E.twin_cmd) (auth : authentic s via = true) (effect : P ((twinSem p).eff s via v))
    (blind : ∀ u h q, P u → P { u with host := h, pending := q }) : Leads n s fun t => result t = 0 ∧ P t := by
  have ends : exec n s = done s (ended ((twinSem p).eff s via v) E.twin_cmd 0) := by
    rw [runs, access_twinCmd p names serves auth]
  exact leads_of_done ends ⟨result_ended _ _ 0, blind ((twinSem p).eff s via v) _ _ effect⟩

/-- The command has ended with a status, and has moved neither the role nor a resynchronisation. -/
def EndedWith (s t : State) (c : Nat) : Prop :=
  rd t E.twin_status = c ∧ rd t E.twin_role = rd s E.twin_role ∧ t.twin.syncing = s.twin.syncing

theorem rd_twinDone_status (s : State) {c : Nat} (byte : c < 256) : rd (twinDone s c) E.twin_status = c :=
  (rd_wr_same ..).trans (Nat.mod_eq_of_lt byte)

theorem endedWith_twinDone (s : State) {c : Nat} (byte : c < 256) : EndedWith s (twinDone s c) c :=
  ⟨rd_twinDone_status s byte, rd_wr_other s (by decide) c, rfl⟩

/-! ## The commands other than a bind (R636 to R638, R640) -/

section

variable (s)

theorem twinCommand_detach_leader (leads : rd s E.twin_role = 1) :
    twinCommand s 2 = twinDone { s with twin := { s.twin with handOver := true } } 2 := by
  unfold twinCommand; rw [if_pos rfl, if_pos leads]

theorem twinCommand_detach_follower (follows : rd s E.twin_role = 2) : twinCommand s 2 = twinDone (detachTwin s 1) 2 := by
  unfold twinCommand; rw [if_pos rfl, follows, if_neg (by decide), if_pos rfl]

theorem twinCommand_detach_refused (notLeader : rd s E.twin_role ≠ 1) (notFollower : rd s E.twin_role ≠ 2) :
    twinCommand s 2 = twinDone s 9 := by
  unfold twinCommand; rw [if_pos rfl, if_neg notLeader, if_neg notFollower]

theorem twinCommand_reattach : twinCommand s 3 =
    if rd s E.twin_role = 3 ∧ s.twin.syncing = none then startSync s false else twinDone s 9 := by
  unfold twinCommand
  rw [if_neg (by decide), if_pos rfl]
  simp only [Option.isNone_iff_eq_none]

/-- The module that an unbind leaves: a leader keeps its node, any other gives it up (R637). -/
def unbound : State :=
  let u := if rd s E.twin_role = 1 then s else wr s E.node_id_assigned 0
  refreshTwin (wr (wr { u with twin := Twin.init } E.twin_role 0) E.twin_peer_uid 0)

theorem twinCommand_unbind : twinCommand s 4 = if rd s E.twin_role = 0 then twinDone s 9 else twinDone (unbound s) 2 := by
  unfold twinCommand; rw [if_neg (by decide), if_neg (by decide), if_pos rfl]; rfl

/-- The module that leads alone: a detached one that takes the role with the next generation (R636). -/
def leadsAlone : State :=
  let u := wr (wr s E.twin_role 1) E.twin_generation (rd s E.twin_generation + 1)
  refreshTwin { u with twin := { u.twin with helloOnly := false, syncing := none, lost := true } }

theorem twinCommand_leadAlone : twinCommand s 5 = if rd s E.twin_role = 3 then twinDone (leadsAlone s) 2 else twinDone s 9 := by
  unfold twinCommand leadsAlone; rw [if_neg (by decide), if_neg (by decide), if_neg (by decide)]

end

section

variable (serves : Serves s E.twin_cmd) (auth : authentic s via = true)

include serves auth

/-- A command that is no bind leads to what `twinCommand` makes of the machine. -/
theorem leads_twinCommand (op : Nat) {P : State → Prop} (runs : WritesTwinCmd n s via (16 * op) TwinPeer.silent)
    (other : 2 ≤ op ∧ op ≤ 5) (effect : P (twinCommand s op)) (blind : ∀ u h q, P u → P { u with host := h, pending := q }) :
    Leads n s fun t => result t = 0 ∧ P t := by
  have field : bits (16 * op) 7 4 = op := by
    change 16 * op / 2 ^ 4 % 2 ^ 4 = op
    omega
  refine leads_twinCmd runs ⟨by omega, by rw [field]; omega⟩ serves auth ?_ blind
  change P (if bits (16 * op) 7 4 = 1 then _ else twinCommand s (bits (16 * op) 7 4))
  rwa [field, if_neg (by omega)]

/-- A command that the module's role does not permit ends with status 9. -/
theorem leads_not_permitted (op : Nat) (runs : WritesTwinCmd n s via (16 * op) TwinPeer.silent)
    (other : 2 ≤ op ∧ op ≤ 5) (refused : twinCommand s op = twinDone s 9) :
    Leads n s fun t => result t = 0 ∧ EndedWith s t 9 :=
  leads_twinCommand serves auth op runs other (by rw [refused]; exact endedWith_twinDone s (by decide)) fun _ _ _ h => h

theorem twinDetach_leads_leader (leads : rd s E.twin_role = 1) : Leads (.twinDetach via) s fun t =>
    result t = 0 ∧ t.twin.handOver = true ∧ rd t E.twin_status = 2 ∧ rd t E.twin_role = 1 := by
  refine leads_twinCommand serves auth 2 rfl (by decide) ?_ fun _ _ _ h => h
  rw [twinCommand_detach_leader s leads]
  exact ⟨rfl, rd_twinDone_status _ (by decide), (rd_wr_other _ (by decide) 2).trans leads⟩

theorem twinDetach_leads_follower (follows : rd s E.twin_role = 2) : Leads (.twinDetach via) s fun t =>
    result t = 0 ∧ rd t E.twin_role = 3 ∧ rd t E.twin_detach_cause = 1 ∧ t.twin.helloOnly = true ∧ rd t E.twin_status = 2 := by
  refine leads_twinCommand serves auth 2 rfl (by decide) ?_ fun _ _ _ h => h
  rw [twinCommand_detach_follower s follows]
  exact ⟨(rd_wr_other _ (by decide) 2).trans (detachTwin_role s 1), (rd_wr_other _ (by decide) 2).trans (detachTwin_cause s 1), rfl,
    rd_twinDone_status _ (by decide)⟩

theorem twinDetach_leads_refused (notLeader : rd s E.twin_role ≠ 1) (notFollower : rd s E.twin_role ≠ 2) :
    Leads (.twinDetach via) s fun t => result t = 0 ∧ EndedWith s t 9 :=
  leads_not_permitted serves auth 2 rfl (by decide) (twinCommand_detach_refused s notLeader notFollower)

theorem twinReattach_leads (detached : rd s E.twin_role = 3) (idle : s.twin.syncing = none) : Leads (.twinReattach via) s fun t =>
    result t = 0 ∧ t.twin.syncing = some false ∧ rd t E.twin_status = 1 := by
  refine leads_twinCommand serves auth 3 rfl (by decide) ?_ fun _ _ _ h => h
  rw [twinCommand_reattach, if_pos ⟨detached, idle⟩, startSync_twin]
  exact ⟨rfl, rd_startSync s (by decide) false⟩

theorem twinReattach_leads_refused (other : ¬(rd s E.twin_role = 3 ∧ s.twin.syncing = none)) :
    Leads (.twinReattach via) s fun t => result t = 0 ∧ EndedWith s t 9 :=
  leads_not_permitted serves auth 3 rfl (by decide) ((twinCommand_reattach s).trans (if_neg other))

theorem twinUnbind_leads_refused (alone : rd s E.twin_role = 0) :
    Leads (.twinUnbind via) s fun t => result t = 0 ∧ EndedWith s t 9 :=
  leads_not_permitted serves auth 4 rfl (by decide) ((twinCommand_unbind s).trans (if_pos alone))

theorem twinUnbind_leads (paired : rd s E.twin_role ≠ 0) : Leads (.twinUnbind via) s fun t => result t = 0 ∧
    rd t E.twin_role = 0 ∧ rd t E.twin_peer_uid = 0 ∧ t.twin = Twin.init ∧ rd t E.twin_status = 2 := by
  refine leads_twinCommand serves auth 4 rfl (by decide) ?_ fun _ _ _ h => h
  rw [twinCommand_unbind, if_neg paired]
  refine ⟨?role, ?peer, rfl, rd_twinDone_status _ (by decide)⟩ <;>
    rw [twinDone, rd_wr_other _ (by decide), unbound, rd_refreshTwin _ (by decide)]
  case role => rw [rd_wr_other _ (by decide), rd_wr_same]; decide
  case peer => rw [rd_wr_same]; decide

theorem twinLeadAlone_leads (detached : rd s E.twin_role = 3) : Leads (.twinLeadAlone via) s fun t => result t = 0 ∧
    rd t E.twin_role = 1 ∧ rd t E.twin_generation = cut E.twin_generation (rd s E.twin_generation + 1) ∧
    t.twin.helloOnly = false ∧ rd t E.twin_status = 2 := by
  refine leads_twinCommand serves auth 5 rfl (by decide) ?_ fun _ _ _ h => h
  rw [twinCommand_leadAlone, if_pos detached]
  refine ⟨?role, ?generation, rfl, rd_twinDone_status _ (by decide)⟩ <;>
    rw [twinDone, rd_wr_other _ (by decide), leadsAlone, rd_refreshTwin _ (by decide)]
  case role => exact (rd_wr_other _ (by decide) _).trans (rd_wr_same ..)
  case generation => exact rd_wr_same ..

theorem twinLeadAlone_leads_refused (other : rd s E.twin_role ≠ 3) :
    Leads (.twinLeadAlone via) s fun t => result t = 0 ∧ EndedWith s t 9 :=
  leads_not_permitted serves auth 5 rfl (by decide) ((twinCommand_leadAlone s).trans (if_neg other))

end

end Sys2Proof.Machine
end

section
/-! SUPPORT. A bind of a pair: the checks of R617, the resynchronisation it starts, and its timeout (R616 to R618). -/

namespace Sys2Proof.Machine

open Sys2Proof

variable {s : State} {via : Path} {lead : Bool} {p : TwinPeer} {h : Heartbeat}

/-- A bind waits for the peer's (R616). -/
def bindWaits (s : State) (lead : Bool) (p : TwinPeer) : State :=
  wr { s with twin := { s.twin with binding := some lead, peer := some p } } E.twin_status 1

/-- The bind waits no more, and its checks begin (R617). -/
def bindChecked (s : State) : State := wr { s with twin := { s.twin with binding := none, peer := none } } E.twin_status 1

theorem rd_bindChecked {k : Nat} (other : k ≠ E.twin_status) : rd (bindChecked s) k = rd s k := rd_wr_other _ other 1

theorem bindTwin_unheard (silent : s.twin.heard = none) : bindTwin s lead p = bindWaits s lead p := by
  change goBind (bindWaits s lead p) = _
  unfold goBind
  rw [show (bindWaits s lead p).twin.heard = none from silent]
  rfl

/-- A bind reads of the module its partitions' modes and its role alone, which it does not change itself. -/
theorem bindStatus_bindChecked : bindStatus (bindChecked s) p = bindStatus s p := by
  have role : rd (bindChecked s) E.twin_role = rd s E.twin_role := rd_bindChecked (by decide)
  have openSame : openHere (bindChecked s) = openHere s := by
    have mode (q : Nat) : rd (bindChecked s) (E.det_mode + q) = rd s (E.det_mode + q) :=
      rd_bindChecked (by simp only [E.det_mode, E.twin_status]; omega)
    have state (q : Nat) : rd (bindChecked s) (E.part_state + 256 * q) = rd s (E.part_state + 256 * q) :=
      rd_bindChecked (by simp only [E.part_state, E.twin_status]; omega)
    simp only [openHere, assigned, mode, state]
  simp only [bindStatus, role, openSame]

/-- What a passed check leaves before the resynchronisation: the comparison of the keepers (log 176), and a follower's node. -/
def bindPassed (s : State) (lead : Bool) (p : TwinPeer) : State :=
  let u := wr (bindChecked s) E.twin_keeper_match (if p.keepersMatch then 1 else 0)
  if lead then u else wr (wr u E.node_id p.node) E.node_id_assigned (if p.nodeAssigned then 1 else 0)

section

variable (heard : s.twin.heard = some h) (named : h.uid = rd s E.twin_peer_uid) (present : s.twin.lost = false)

include heard named present

/-- A bind whose peer has been heard ends with the first check that fails, or starts a resynchronisation (R617, R618). -/
theorem bindTwin_heard : bindTwin s lead p =
    if bindStatus s p = 2 then startSync (bindPassed s lead p) lead else twinDone (bindChecked s) (bindStatus s p) := by
  have peer : rd (bindWaits s lead p) E.twin_peer_uid = rd s E.twin_peer_uid := rd_wr_other _ (by decide) 1
  have here : ¬(h.uid ≠ rd (bindWaits s lead p) E.twin_peer_uid ∨ (bindWaits s lead p).twin.lost = true) := by
    rw [peer, named]
    simp [bindWaits, present]
  have checked : { bindWaits s lead p with twin := { (bindWaits s lead p).twin with binding := none, peer := none } } =
    bindChecked s := rfl
  change goBind (bindWaits s lead p) = _
  unfold goBind
  rw [show (bindWaits s lead p).twin.heard = some h from heard, show (bindWaits s lead p).twin.binding = some lead from rfl,
    show (bindWaits s lead p).twin.peer = some p from rfl]
  dsimp only
  rw [if_neg here, checked, bindStatus_bindChecked]
  split
  · rename_i passes; rw [if_pos passes]; rfl
  · rename_i fails; rw [if_neg fails]; rfl

end

/-- The checks of R617 end with one of the codes of `twin_status`, of which 9 is the highest. -/
theorem bindStatus_le (s : State) (p : TwinPeer) : bindStatus s p ≤ 9 := by
  unfold bindStatus; repeat' split
  all_goals decide

section

variable (serves : Serves s E.twin_cmd) (auth : authentic s via = true)

include serves auth

theorem leads_twinBind {P : State → Prop} (effect : P (bindTwin s lead p))
    (blind : ∀ u h q, P u → P { u with host := h, pending := q }) :
    Leads (.twinBind via lead p) s fun t => result t = 0 ∧ P t := by
  refine leads_twinCmd rfl (namesTwinCommand_bind lead) serves auth ?_ blind
  cases lead <;> exact effect

theorem twinBind_leads_waiting (silent : s.twin.heard = none) : Leads (.twinBind via lead p) s fun t =>
    result t = 0 ∧ rd t E.twin_status = 1 ∧ t.twin.binding = some lead ∧ t.twin.peer = some p := by
  refine leads_twinBind serves auth ?_ fun _ _ _ h => h
  rw [bindTwin_unheard silent]
  exact ⟨rd_wr_same .., rfl, rfl⟩

variable (heard : s.twin.heard = some h) (named : h.uid = rd s E.twin_peer_uid) (present : s.twin.lost = false)

include heard named present

theorem twinBind_leads_status {c : Nat} (fails : bindStatus s p = c) (failing : c ≠ 2) :
    Leads (.twinBind via lead p) s fun t => result t = 0 ∧ EndedWith s t c := by
  have byte : c < 256 := by have := bindStatus_le s p; omega
  refine leads_twinBind serves auth ?_ fun _ _ _ h => h
  rw [bindTwin_heard heard named present, fails, if_neg failing]
  obtain ⟨status, role, syncing⟩ := endedWith_twinDone (bindChecked s) byte
  exact ⟨status, role.trans (rd_bindChecked (by decide)), syncing⟩

theorem twinBind_leads_resync (passes : bindStatus s p = 2) : Leads (.twinBind via lead p) s fun t => result t = 0 ∧
    rd t E.twin_status = 1 ∧ t.twin.syncing = some lead ∧ t.twin.binding = none ∧ rd t E.twin_sync_progress = 0 ∧
    rd t E.twin_keeper_match = (if p.keepersMatch then 1 else 0) ∧
    (lead = false → rd t E.node_id = cut E.node_id p.node ∧
      rd t E.node_id_assigned = if p.nodeAssigned then 1 else 0) := by
  refine leads_twinBind serves auth ?_ fun _ _ _ h => h
  rw [bindTwin_heard heard named present, if_pos passes, startSync_twin]
  have flag (b : Bool) (k : Nat) (size : dictSize k = 1) : (if b then 1 else 0) % 2 ^ (8 * dictSize k) = if b then 1 else 0 := by
    rw [size]; cases b <;> rfl
  refine ⟨rd_startSync _ (by decide) lead, rfl, ?binding, rd_startSync _ (by decide) lead, ?keepers, ?node⟩
  case binding => cases lead <;> rfl
  case keepers =>
    rw [rd_startSync_other _ lead (by decide), bindPassed]
    cases lead
    · exact (rd_wr_other _ (by decide) _).trans ((rd_wr_other _ (by decide) _).trans ((rd_wr_same ..).trans (flag _ _ (by decide))))
    · exact (rd_wr_same ..).trans (flag _ _ (by decide))
  case node =>
    rintro rfl
    rw [rd_startSync_other _ false (by decide), rd_startSync_other _ false (by decide)]
    exact ⟨(rd_wr_other _ (by decide) _).trans (rd_wr_same ..), (rd_wr_same ..).trans (flag _ _ (by decide))⟩

end

/-! ## A bind without an answer -/

theorem bindTimeout_of_no_bind (idle : s.twin.binding = none) : bindTimeout s = s := by
  unfold bindTimeout; rw [idle]; rfl

theorem twinBindTimeout_leads (waits : s.twin.binding ≠ none) : Leads .twinBindTimeout s fun t => t.twin.binding = none ∧
    rd t E.twin_status = if s.twin.heard.any (fun h => h.uid == rd s E.twin_peer_uid) then 4 else 3 := by
  refine leads_of_effect (u := bindTimeout s) rfl ?_ fun _ _ h => h
  unfold bindTimeout
  rw [if_neg (by rwa [Option.isNone_iff_eq_none])]
  refine ⟨rfl, (rd_wr_same ..).trans ?_⟩
  split <;> decide

end Sys2Proof.Machine
end

section
/-! SUPPORT. Heartbeats of a pair, sent and heard, and a twin that falls silent (R629, R631, R634, R636, R638). -/

namespace Sys2Proof.Machine

open Sys2Proof

variable {s : State} {p : Nat} {h : Heartbeat}

/-! ## Heartbeats sent -/

theorem exec_twinHeartbeatSend (yoke : p = 32 ∨ p = 33) : exec (.twinHeartbeatSend p) s =
    done s (if portActive s p then emit (sendFlits s p 2 1) (.heartbeat p (ownHeartbeat s)) else s) :=
  guarded_of (decide_eq_true yoke) s _

theorem twinHeartbeatSend_leads (yoke : p = 32 ∨ p = 33) (active : portActive s p = true) :
    Leads (.twinHeartbeatSend p) s fun t => t.mem = s.mem ∧ t.sent = .heartbeat p (ownHeartbeat s) :: s.sent := by
  refine leads_of_effect (exec_twinHeartbeatSend yoke) ?_ fun _ _ h => h
  rw [if_pos active, sent_emit, sendFlits_sent]
  exact ⟨mem_of_still (still_sendFlits s p 2 1), rfl⟩

/-! ## Heartbeats heard -/

theorem exec_twinHeartbeat (yoke : p = 32 ∨ p = 33) (h : Heartbeat) :
    exec (.twinHeartbeat p h) s = done s (heartbeat s p h) := guarded_of (decide_eq_true yoke) s _

theorem heartbeat_of_other (other : portActive s p = false ∨ h.uid ≠ rd s E.twin_peer_uid) : heartbeat s p h = s :=
  if_pos (by simpa using other)

/-- The module has heard its twin's heartbeat h (R629). -/
def twinHeard (s : State) (h : Heartbeat) : State :=
  wr { s with twin := { s.twin with heard := some h, heardTime := now s, lost := false } } E.twin_state
    (setBit (rd s E.twin_state) 0 true)

theorem rd_twinHeard {k : Nat} (other : k ≠ E.twin_state) (h : Heartbeat) : rd (twinHeard s h) k = rd s k := rd_wr_other _ other _

theorem bit_twinHeard (h : Heartbeat) : bit (rd (twinHeard s h) E.twin_state) 0 = true := by
  rw [twinHeard, rd_wr_same, bit_mod_two_pow _ (by decide), bit_setBit]

theorem heartbeat_of_twin (active : portActive s p = true) (named : h.uid = rd s E.twin_peer_uid) :
    heartbeat s p h = refreshTwin (heardTwin (twinHeard s h) h) :=
  if_neg (by simp [active, named])

/-- The twin leads by a better claim: a later generation, or a later step of the same (R634). -/
def BetterClaim (s : State) (h : Heartbeat) : Prop :=
  rd s E.twin_generation < h.generation ∨ (h.generation = rd s E.twin_generation ∧ rd s E.twin_sequence < h.sequence)

theorem superseded_iff (s : State) (h : Heartbeat) :
    superseded s h = true ↔ rd s E.twin_role = 1 ∧ h.role = 1 ∧ BetterClaim s h := by
  simp [superseded, BetterClaim, and_assoc]

theorem superseded_twinHeard (s : State) (h : Heartbeat) : superseded (twinHeard s h) h = superseded s h := by
  unfold superseded
  rw [rd_twinHeard (by decide), rd_twinHeard (by decide), rd_twinHeard (by decide)]

/-- The module reattaches on its own, and no resynchronisation runs (R636, R638). -/
def Reattaches (s : State) : Prop := rd s E.twin_auto_reattach = 1 ∧ s.twin.syncing = none

theorem reattaches_twinHeard (auto : Reattaches s) (h : Heartbeat) :
    (rd (twinHeard s h) E.twin_auto_reattach == 1 && (twinHeard s h).twin.syncing.isNone) = true := by
  rw [rd_twinHeard (by decide), auto.1, show (twinHeard s h).twin.syncing = none from auto.2]
  rfl

/-! ### What a heartbeat leads to -/

theorem heardTwin_superseded (leads : rd s E.twin_role = 1) (claims : h.role = 1) (better : BetterClaim s h) :
    heardTwin (twinHeard s h) h = detachTwin (twinHeard s h) 7 :=
  if_pos (by rw [superseded_twinHeard, superseded_iff]; exact ⟨leads, claims, better⟩)

/-- A heartbeat that takes no role away: a lost follower reattaches, the leader takes its follower back, or a bind goes on. -/
theorem heardTwin_kept (kept : ¬(rd s E.twin_role = 1 ∧ h.role = 1 ∧ BetterClaim s h)) : heardTwin (twinHeard s h) h =
    let auto := rd (twinHeard s h) E.twin_auto_reattach == 1 && (twinHeard s h).twin.syncing.isNone
    if rd s E.twin_role = 3 ∧ rd s E.twin_detach_cause = 6 ∧ h.role = 1 ∧ auto then startSync (twinHeard s h) false
    else if rd s E.twin_role = 1 ∧ h.role = 3 ∧ auto then startSync (twinHeard s h) true
    else goBind (twinHeard s h) := by
  have role : rd (twinHeard s h) E.twin_role = rd s E.twin_role := rd_twinHeard (by decide) h
  have cause : rd (twinHeard s h) E.twin_detach_cause = rd s E.twin_detach_cause := rd_twinHeard (by decide) h
  unfold heardTwin
  rw [superseded_twinHeard, if_neg (by rwa [superseded_iff]), role, cause]

theorem heardTwin_reattaches (detached : rd s E.twin_role = 3) (lost : rd s E.twin_detach_cause = 6) (leads : h.role = 1)
    (auto : Reattaches s) : heardTwin (twinHeard s h) h = startSync (twinHeard s h) false :=
  (heardTwin_kept (by simp [detached])).trans (if_pos ⟨detached, lost, leads, reattaches_twinHeard auto h⟩)

theorem heardTwin_takes_back (leads : rd s E.twin_role = 1) (detached : h.role = 3) (auto : Reattaches s) :
    heardTwin (twinHeard s h) h = startSync (twinHeard s h) true :=
  (heardTwin_kept (by simp [detached])).trans
    ((if_neg (by simp [leads])).trans (if_pos ⟨leads, detached, reattaches_twinHeard auto h⟩))

theorem goBind_of_no_bind {s : State} (idle : s.twin.binding = none) : goBind s = s := by
  unfold goBind; rw [idle]

/-- The leader keeps its role against a claim that is no better, where no bind waits. -/
theorem heardTwin_keeps_role (leads : rd s E.twin_role = 1) (claims : h.role = 1) (worse : ¬BetterClaim s h)
    (idle : s.twin.binding = none) : heardTwin (twinHeard s h) h = twinHeard s h :=
  (heardTwin_kept (by simp [worse])).trans
    ((if_neg (by simp [leads])).trans ((if_neg (by simp [claims])).trans (goBind_of_no_bind idle)))

section

variable (yoke : p = 32 ∨ p = 33) (active : portActive s p = true) (named : h.uid = rd s E.twin_peer_uid)

include yoke active named

theorem leads_twinHeartbeat {P : State → Prop} (effect : P (refreshTwin (heardTwin (twinHeard s h) h)))
    (blind : ∀ u q, P u → P { u with pending := q }) : Leads (.twinHeartbeat p h) s P :=
  leads_of_effect (exec_twinHeartbeat yoke h) (by rwa [heartbeat_of_twin active named]) blind

theorem twinHeartbeat_leads_superseded (leads : rd s E.twin_role = 1) (claims : h.role = 1) (better : BetterClaim s h) :
    Leads (.twinHeartbeat p h) s fun t => (t.twin.heard = some h ∧ t.twin.heardTime = now s) ∧ rd t E.twin_role = 3 ∧
      rd t E.twin_detach_cause = 7 ∧ t.twin.helloOnly = true := by
  refine leads_twinHeartbeat yoke active named ?_ fun _ _ h => h
  rw [heardTwin_superseded leads claims better]
  exact ⟨⟨rfl, rfl⟩, (rd_refreshTwin _ (by decide)).trans (detachTwin_role _ 7),
    (rd_refreshTwin _ (by decide)).trans (detachTwin_cause _ 7), rfl⟩

theorem twinHeartbeat_leads_kept (leads : rd s E.twin_role = 1) (claims : h.role = 1) (worse : ¬BetterClaim s h)
    (idle : s.twin.binding = none) : Leads (.twinHeartbeat p h) s fun t =>
      (t.twin.heard = some h ∧ t.twin.heardTime = now s) ∧ rd t E.twin_role = 1 ∧ t.twin.lost = false ∧
      bit (rd t E.twin_state) 0 = true := by
  refine leads_twinHeartbeat yoke active named ?_ fun _ _ h => h
  rw [heardTwin_keeps_role leads claims worse idle]
  exact ⟨⟨rfl, rfl⟩, (rd_refreshTwin _ (by decide)).trans ((rd_twinHeard (by decide) h).trans leads), rfl,
    (bit_refreshTwin _).trans (bit_twinHeard h)⟩

/-- A heartbeat that starts a resynchronisation is heard all the same. -/
theorem twinHeartbeat_leads_resync {lead : Bool} (starts : heardTwin (twinHeard s h) h = startSync (twinHeard s h) lead) :
    Leads (.twinHeartbeat p h) s fun t => (t.twin.heard = some h ∧ t.twin.heardTime = now s) ∧ t.twin.syncing = some lead := by
  refine leads_twinHeartbeat yoke active named ?_ fun _ _ h => h
  rw [starts, refreshTwin_twin, startSync_twin]
  exact ⟨⟨rfl, rfl⟩, rfl⟩

end

/-! ## A twin that falls silent -/

theorem twinLoss_stays (alone : rd s E.twin_role = 0) (idle : s.twin.syncing = none) : Stays .twinLoss s :=
  stays_of_same (t := if rd s E.twin_role = 0 ∧ s.twin.syncing.isNone then s else twinLoss s) rfl
    (if_pos ⟨alone, by rw [idle]; rfl⟩)

/-- The module has missed its twin's heartbeats for `twin_loss_ms`, and counts one for each millisecond (R629; log 125). -/
def twinMissed (s : State) : State :=
  let u := wr s E.twin_state (setBit (rd s E.twin_state) 0 false)
  { incBy u E.twin_heartbeat_miss_count (rd u E.twin_loss_ms) with twin := { s.twin with lost := true, syncing := none } }

theorem rd_twinMissed {k : Nat} (other : k ≠ E.twin_state ∧ k ≠ E.twin_heartbeat_miss_count) :
    rd (twinMissed s) k = rd s k := (rd_wr_other _ other.2 _).trans (rd_wr_other _ other.1 _)

theorem rd_twinMissed_count : rd (twinMissed s) E.twin_heartbeat_miss_count =
    cut E.twin_heartbeat_miss_count (rd s E.twin_heartbeat_miss_count + rd s E.twin_loss_ms) := by
  have marked {k : Nat} (other : k ≠ E.twin_state) : rd (wr s E.twin_state (setBit (rd s E.twin_state) 0 false)) k = rd s k :=
    rd_wr_other s other _
  refine (rd_wr_same ..).trans ?_
  rw [marked (by decide), marked (by decide)]
  rfl

/-- A follower whose copy was under way is detached, and a leader goes on as leader (R631, R638). -/
theorem twinLoss_eq (s : State) : twinLoss s = stepProgress (refreshTwin
    (if s.twin.syncing == some false then detachTwin (twinMissed s) 6
    else if rd s E.twin_role = 1 then wr (twinMissed s) E.twin_detach_cause 5 else twinMissed s)) := by
  rw [← rd_twinMissed (s := s) (k := E.twin_role) (by decide)]
  rfl

/-- What a loss leads to stands before the state of the twin is brought up to date and the step goes on. -/
theorem leads_twinLoss {P : State → Prop} (paired : rd s E.twin_role ≠ 0 ∨ s.twin.syncing ≠ none)
    (effect : P (twinLoss s)) (blind : ∀ u q, P u → P { u with pending := q }) : Leads .twinLoss s P := by
  have bound : ¬(rd s E.twin_role = 0 ∧ s.twin.syncing.isNone = true) := by
    rw [Option.isNone_iff_eq_none]
    rintro ⟨alone, idle⟩
    exact paired.elim (· alone) (· idle)
  refine leads_of_effect (u := if rd s E.twin_role = 0 ∧ s.twin.syncing.isNone then s else twinLoss s) rfl ?_ blind
  rwa [if_neg bound]

theorem rd_settled {k : Nat} (low : k < E.nd_count) (other : k ≠ E.twin_state) (u : State) :
    rd (stepProgress (refreshTwin u)) k = rd u k := (rd_stepProgress _ low).trans (rd_refreshTwin u other)

theorem twinLoss_leads_syncing (copies : s.twin.syncing = some false) : Leads .twinLoss s fun t =>
    rd t E.twin_heartbeat_miss_count =
      cut E.twin_heartbeat_miss_count (rd s E.twin_heartbeat_miss_count + rd s E.twin_loss_ms) ∧
    rd t E.twin_role = 3 ∧ rd t E.twin_detach_cause = 6 := by
  refine leads_twinLoss (.inr (by rw [copies]; nofun)) ?_ fun _ _ h => h
  rw [twinLoss_eq, copies, if_pos (by decide)]
  exact ⟨(rd_settled (by decide) (by decide) _).trans ((rd_detachTwin _ 6).trans rd_twinMissed_count),
    (rd_settled (by decide) (by decide) _).trans (detachTwin_role _ 6),
    (rd_settled (by decide) (by decide) _).trans (detachTwin_cause _ 6)⟩

theorem twinLoss_leads (paired : rd s E.twin_role ≠ 0 ∨ s.twin.syncing ≠ none) (other : s.twin.syncing ≠ some false) :
    Leads .twinLoss s fun t => rd t E.twin_heartbeat_miss_count =
        cut E.twin_heartbeat_miss_count (rd s E.twin_heartbeat_miss_count + rd s E.twin_loss_ms) ∧
      rd t E.twin_role = rd s E.twin_role ∧ t.twin.lost = true ∧ t.twin.syncing = none ∧
      (rd s E.twin_role = 1 → rd t E.twin_detach_cause = 5) := by
  refine leads_twinLoss paired ?_ fun _ _ h => h
  have role : rd (twinMissed s) E.twin_role = rd s E.twin_role := rd_twinMissed (by decide)
  rw [twinLoss_eq, if_neg (by simpa using other), rd_settled (by decide) (by decide), rd_settled (by decide) (by decide),
    rd_settled (by decide) (by decide), stepProgress_twin, refreshTwin_twin]
  by_cases leads : rd s E.twin_role = 1
  · rw [if_pos leads]
    exact ⟨(rd_wr_other _ (by decide) 5).trans rd_twinMissed_count, (rd_wr_other _ (by decide) 5).trans role, rfl, rfl,
      fun _ => rd_wr_same ..⟩
  · rw [if_neg leads]
    exact ⟨rd_twinMissed_count, role, rfl, rfl, fun is => absurd is leads⟩

end Sys2Proof.Machine
end

section
/-! SUPPORT. The commands and the heartbeats of a pair (R616 to R618, R629, R631, R634, R636 to R638, R640). -/

namespace Sys2Proof.Machine

open Sys2Proof

/-- Settles O48: each clause by the lemma of its command or event. A served `twin_cmd` is obeyed by `leads_twinCmd`, which leaves
the effect of the command to be read; a bind is read off the first check that fails (`bindTwin_heard`), a heartbeat off what it leads to
(`heardTwin_kept`), and a loss off `twinLoss_eq`, after which the step's progress keeps the twin's entries (`rd_stepProgress`). -/
theorem twinCommandsRun : Obligations.TwinCommandsRun := by
  unfold Obligations.TwinCommandsRun
  refine ⟨fun s => ⟨fun via serves => ⟨fun other n isCmd => ?unauthenticated, fun auth =>
      ⟨fun lead p => twinBind_leads_waiting serves auth, fun lead p h heard named present => ?bind,
      twinDetach_leads_leader serves auth, twinDetach_leads_follower serves auth, twinDetach_leads_refused serves auth,
      twinReattach_leads serves auth, twinReattach_leads_refused serves auth, twinUnbind_leads_refused serves auth,
      twinUnbind_leads serves auth, twinLeadAlone_leads serves auth, twinLeadAlone_leads_refused serves auth⟩⟩,
    fun idle => stays_of_same rfl (bindTimeout_of_no_bind idle), twinBindTimeout_leads,
    fun idle => stays_of_same rfl (resyncDone_of_idle s idle),
    fun lead syncs => twinResyncDone_leads s syncs⟩,
    fun s => ⟨fun p yoke => ⟨fun down => ?rests, twinHeartbeatSend_leads yoke, fun h =>
        ⟨fun other => stays_of_same (exec_twinHeartbeat yoke h) (heartbeat_of_other other), fun active named =>
          ⟨twinHeartbeat_leads_superseded yoke active named, twinHeartbeat_leads_kept yoke active named,
            fun detached lost leads auto =>
              twinHeartbeat_leads_resync yoke active named (heardTwin_reattaches detached lost leads auto),
            fun leads detached auto => twinHeartbeat_leads_resync yoke active named (heardTwin_takes_back leads detached auto)⟩⟩⟩,
      twinLoss_stays, fun paired => ⟨twinLoss_leads_syncing, twinLoss_leads paired⟩⟩⟩
  case unauthenticated =>
    simp only [List.mem_cons, List.not_mem_nil, or_false] at isCmd
    obtain rfl | rfl | rfl | rfl | rfl | rfl := isCmd
    all_goals exact exec_twinCmd_unauthenticated rfl serves other
  case bind =>
    have ends {c : Nat} := twinBind_leads_status (lead := lead) (p := p) (c := c) serves auth heard named present
    refine ⟨fun mode => ends ?mode (by decide), fun mode who => ends ?who (by decide),
      fun mode who layout => ends ?layout (by decide), fun mode who layout strict => ends ?strict (by decide),
      fun mode who layout strict session => ends ?session (by decide),
      fun mode who layout strict session paired => ends ?paired (by decide),
      fun mode who layout strict session alone => twinBind_leads_resync serves auth heard named present ?passes⟩
    case mode => simp [bindStatus, mode]
    case who => simp [bindStatus, mode, who]
    case layout => simp [bindStatus, mode, who, layout]
    case strict =>
      have opened : (p.openMode || openHere s) = true := by
        rw [← Bool.not_eq_false, Bool.or_eq_false_iff]
        exact strict
      simp [bindStatus, mode, who, layout, opened]
    case session => simp [bindStatus, mode, who, layout, strict, session]
    case paired => simp [bindStatus, mode, who, layout, strict, session, paired]
    case passes => simp [bindStatus, mode, who, layout, strict, session, alone]
  case rests => exact stays_of_same (exec_twinHeartbeatSend yoke) (if_neg (by rw [down]; nofun))

end Sys2Proof.Machine
end

section
/-! SUPPORT. Writes of `ring_enable`: the checks of R681, the zeros of R682, and the drain of R683. -/

namespace Sys2Proof.Machine

open Sys2Proof

/-! ## Numbers in memory -/

/-- A number just written reads back, cut to its size. -/
theorem rdNat_wrNat_same (s : State) (a n v : Nat) : rdNat (wrNat s a n v) a n = v % 256 ^ n := by
  have back := rdBytes_wrBytes s a (leBytes n v)
  rw [leBytes_length] at back
  rw [rdNat, wrNat, back, leNat_leBytes]

theorem rdByte_wrNat_other {a k n : Nat} (other : a < k ∨ k + n ≤ a) (s : State) (v : Nat) :
    rdByte (wrNat s k n v) a = rdByte s a := by
  rw [wrNat, rdByte_wrBytes, leBytes_length, if_neg (by omega)]

theorem leNat_replicate_zero (n : Nat) : leNat (List.replicate n 0) = 0 := by
  induction n with
  | zero => rfl
  | succ n ih => rw [List.replicate_succ, leNat, ih]; rfl

/-- A number whose bytes are all 0 is 0. -/
theorem rdNat_of_zeros {s : State} {a n : Nat} (zeros : ∀ i < n, rdByte s (a + i) = 0) : rdNat s a n = 0 := by
  have bytes : rdBytes s a n = List.replicate n 0 := by
    rw [rdBytes_eq_map, List.eq_replicate_iff]
    refine ⟨by rw [List.length_map, List.length_range], fun b isByte => ?_⟩
    obtain ⟨i, within, rfl⟩ := List.mem_map.1 isByte
    exact zeros i (List.mem_range.1 within)
  rw [rdNat, bytes, leNat_replicate_zero]

/-! ## The entries of a ring (R680) -/

/-- The row of `ring_enable` in the dictionary. -/
def ringEnableRow : DRow := ⟨0xB100, 256, 0x01, 0x01, 7, 1, .rw, 2, true, 0⟩

theorem dictRow_ring_enable : ∀ x < 32, ∀ k < 8, dictRow (0xB100 + (8 * x + k)) 1 = some ringEnableRow := by decide

theorem dictSize_ring_status : ∀ x < 32, ∀ k < 8, dictSize (E.ring_status + ringAt x k) = 1 := by decide

variable {s : State} {x k : Nat}

section

variable (hx : x < 32) (hk : k < 8)

include hx hk

theorem dictRow_ringEnable : dictRow ((E.ring_enable + ringAt x k) / 256) ((E.ring_enable + ringAt x k) % 256) = some ringEnableRow := by
  have index : (E.ring_enable + ringAt x k) / 256 = 0xB100 + (8 * x + k) := by unfold E.ring_enable ringAt; omega
  have sub : (E.ring_enable + ringAt x k) % 256 = 1 := by unfold E.ring_enable ringAt; omega
  rw [index, sub]
  exact dictRow_ring_enable x hx k hk

theorem dictSize_ringEnable : dictSize (E.ring_enable + ringAt x k) = 1 := by
  rw [dictSize, dictRow_ringEnable hx hk]; rfl

theorem rd_wr_ringEnable {v : Nat} (fits : v < 2) : rd (wr s (E.ring_enable + ringAt x k) v) (E.ring_enable + ringAt x k) = v := by
  rw [rd_wr_same, dictSize_ringEnable hx hk]; omega

theorem ringStatus_wr {v : Nat} (fits : v < 3) : ringStatus (wr s (E.ring_status + ringAt x k) v) x k = v := by
  rw [ringStatus, rd_wr_same, dictSize_ring_status x hx k hk]; omega

end

/-- A write of `ring_enable` leaves the other entries of its ring. -/
theorem rd_wr_ringEnable_other {e : Nat} (other : e ∈ [E.ring_slot_offset, E.ring_slots, E.ring_comp_offset, E.ring_comp_slots,
    E.ring_status]) (v : Nat) : rd (wr s (E.ring_enable + ringAt x k) v) (e + ringAt x k) = rd s (e + ringAt x k) := by
  refine rd_wr_other _ (fun same => ?_) v
  rw [Nat.add_right_cancel same] at other
  exact absurd other (by decide)

theorem ringStatus_wr_ringEnable (v : Nat) : ringStatus (wr s (E.ring_enable + ringAt x k) v) x k = ringStatus s x k :=
  rd_wr_ringEnable_other (by decide) v

theorem ringAreas_wr_ringEnable (v : Nat) : ringAreas (wr s (E.ring_enable + ringAt x k) v) x k = ringAreas s x k := by
  have kept {e : Nat} (other : e ∈ [E.ring_slot_offset, E.ring_slots, E.ring_comp_offset, E.ring_comp_slots, E.ring_status]) :=
    rd_wr_ringEnable_other (s := s) (x := x) (k := k) other v
  rw [ringAreas, ringAreas, kept (by decide), kept (by decide), kept (by decide), kept (by decide)]

/-! ## The start of a ring (R681, R682) -/

/-- A ring's start zeroes its areas and its control block, and leaves every other byte. -/
theorem rdByte_ringStart (s : State) (x k a : Nat) : rdByte (ringStart s x k) a =
    if (ringKey x (ringBlock k) ≤ a ∧ a < ringKey x (ringBlock k) + 12) ∨
      ∃ r ∈ ringAreas s x k, ringKey x r.1 ≤ a ∧ a < ringKey x (r.1 + r.2) then 0 else rdByte s a := by
  have zeroed (l : List Area) (t : State) : rdByte (l.foldl (fun t r => zeroArea t x r) t) a =
      if ∃ r ∈ l, ringKey x r.1 ≤ a ∧ a < ringKey x (r.1 + r.2) then 0 else rdByte t a := by
    induction l generalizing t with
    | nil => simp
    | cons r l ih =>
      rw [List.foldl_cons, ih, zeroArea, rdByte_zeroFill]
      by_cases later : ∃ r ∈ l, ringKey x r.1 ≤ a ∧ a < ringKey x (r.1 + r.2)
      · rw [if_pos later, if_pos (later.imp fun _ h => ⟨List.mem_cons_of_mem _ h.1, h.2⟩)]
      · simp [later]
  have cleared : rdByte (ringStart s x k) a = _ := rdByte_wrBytes ((ringAreas s x k).foldl (fun t r => zeroArea t x r) s) ..
  rw [cleared, zeroed, List.length_replicate]
  by_cases block : ringKey x (ringBlock k) ≤ a ∧ a < ringKey x (ringBlock k) + 12
  · rw [if_pos block, if_pos (.inl block)]
    exact List.getD_replicate _ (by omega)
  · rw [if_neg block]
    exact if_congr (by simp only [block, false_or]) rfl rfl

theorem ringKey_add (x a b : Nat) : ringKey x (a + b) = ringKey x a + b := by unfold ringKey Mem.commons Mem.onchip; omega

/-- Every byte of an area reads 0 once its ring has started. -/
theorem ringStart_area {r : Area} (mine : r ∈ ringAreas s x k) {o : Nat} (within : o < r.2) :
    rdByte (ringStart s x k) (ringKey x (r.1 + o)) = 0 := by
  have covered : ringKey x r.1 ≤ ringKey x (r.1 + o) ∧ ringKey x (r.1 + o) < ringKey x (r.1 + r.2) := by
    rw [ringKey_add, ringKey_add]
    omega
  rw [rdByte_ringStart, if_pos (.inr ⟨r, mine, covered⟩)]

/-- `consumed`, `posted` and `comp_consumed` read 0 once a ring has started. -/
theorem ringStart_count {o : Nat} (within : o + 4 ≤ 12) : rdNat (ringStart s x k) (ringKey x (ringBlock k) + o) 4 = 0 :=
  rdNat_of_zeros fun i hi => by rw [rdByte_ringStart, if_pos (.inl (by omega))]

/-- Of the entries, a start writes `ring_status` alone. -/
theorem ringStart_dict (s : State) (x k : Nat) : (ringStart s x k).dict = (wr s (E.ring_status + ringAt x k) 1).dict := rfl

/-- Areas that are placed lie in the ring region, below its end at 0x40000. -/
theorem area_inside (placed : ringPlaced s x k = true) {r : Area} (mine : r ∈ ringAreas s x k) : r.1 + r.2 ≤ 0x40000 := by
  simp only [ringPlaced, Machine.placed, Bool.and_eq_true, List.all_eq_true] at placed
  obtain ⟨-, areas⟩ := placed
  have inside := (areas r mine).1
  simp only [areaInside, decide_eq_true_eq] at inside
  exact inside.2

/-- The start of a ring that is placed leaves every byte outside the ring region. -/
theorem ringStart_outside (hk : k < 8) (inside : ∀ r ∈ ringAreas s x k, r.1 + r.2 ≤ 0x40000) {a : Nat}
    (outside : a < Mem.commons x 0x6C0000 ∨ Mem.commons x 0x700000 ≤ a) : rdByte (ringStart s x k) a = rdByte s a := by
  rw [rdByte_ringStart, if_neg]
  unfold ringKey ringBlock Mem.commons Mem.onchip at *
  rintro (block | ⟨r, mine, area⟩)
  · omega
  · have := inside r mine
    omega

/-! ## A served write of `ring_enable` (R682, R683, R861) -/

/-- An accepted write leads to what its effect satisfies, where the answer plays no part in it. -/
theorem leads_of_accepts {n : Instr} {e : Nat} {u : State} {P : State → Prop} (accepted : Accepts n s e u) (effect : P u)
    (blind : ∀ v h, P v → P { v with host := h }) : Leads n s fun t => result t = 0 ∧ P t :=
  ⟨_, accepted, result_ended u e 0, blind u (ended u e 0).host effect⟩

section

variable {via : Path} {v : Nat} {n : Instr}

theorem checks_ringEnable (s : State) (x k : Nat) (via : Path) {v : Nat} (bool : v < 2) :
    checks s via true ringEnableRow (ringEnableSem x k) 1 v =
      if v = 0 ∨ ringStatus s x k = 1 ∨ ringPlaced s x k = true then 0 else 4 := by
  have rule : (ringEnableSem x k).rule s v = decide (v = 0 ∨ ringStatus s x k = 1 ∨ ringPlaced s x k = true) := by
    simp [ringEnableSem, limited, Bool.or_assoc, beq_eq_decide]
  have unlimited : (ringEnableSem x k).authOnly = false := rfl
  have idle : (ringEnableSem x k).idle s = true := rfl
  by_cases may : v = 0 ∨ ringStatus s x k = 1 ∨ ringPlaced s x k = true
  · simp [checks, permits, ringEnableRow, rule, unlimited, idle, bool, may]
  · simp [checks, permits, ringEnableRow, rule, unlimited, bool, may]

/-- The command writes v to the ring's `ring_enable`. -/
def WritesRingEnable (n : Instr) (s : State) (via : Path) (x k v : Nat) : Prop :=
  exec n s = instanced (decide (x < 32 ∧ k < 8)) s via E.ring_enable
    (access s (writeOf via (E.ring_enable + ringAt x k) v) (ringEnableSem x k))

theorem writes_ringEnable (s : State) (via : Path) (x k : Nat) : WritesRingEnable (.ringEnable via x k) s via x k 1 := rfl

theorem writes_ringDisable (s : State) (via : Path) (x k : Nat) : WritesRingEnable (.ringDisable via x k) s via x k 0 := rfl

section

variable (hx : x < 32) (hk : k < 8) (serves : Serves s (E.ring_enable + ringAt x k)) (writes : WritesRingEnable n s via x k v)
  (bool : v < 2)

include hx hk serves writes bool

/-- A write that R681 forbids changes nothing but its answer. -/
theorem exec_ringEnable_refused (forbidden : ¬(v = 0 ∨ ringStatus s x k = 1 ∨ ringPlaced s x k = true)) :
    exec n s = .next (ended s (E.ring_enable + ringAt x k) 4) := by
  have size := dictSize_ringEnable hx hk
  have value : leNat (leBytes 1 v) = v := (leNat_leBytes ..).trans (Nat.mod_eq_of_lt (by omega))
  rw [writes, decide_eq_true ⟨hx, hk⟩, instanced_true, writeOf_eq, size,
    access_refused serves (by unfold E.ring_enable ringAt; omega) (by unfold E.ring_enable ringAt; omega) (dictRow_ringEnable hx hk)
      (by rw [leBytes_length, value, checks_ringEnable s x k via bool, if_neg forbidden])]
  rfl

/-- Any other is obeyed, once the leader of a pair has forwarded it. -/
theorem exec_ringEnable_accepted (may : v = 0 ∨ ringStatus s x k = 1 ∨ ringPlaced s x k = true) {u : State}
    (effect : (ringEnableSem x k).eff (told s via (E.ring_enable + ringAt x k) [BitVec.ofNat 8 v]) via v = u)
    (queue : u.pending = (told s via (E.ring_enable + ringAt x k) [BitVec.ofNat 8 v]).pending) :
    Accepts n s (E.ring_enable + ringAt x k) u := by
  have size := dictSize_ringEnable hx hk
  have value : leNat (leBytes 1 v) = v := (leNat_leBytes ..).trans (Nat.mod_eq_of_lt (by omega))
  rw [Accepts, writes, decide_eq_true ⟨hx, hk⟩, instanced_true, writeOf_eq, size,
    access_accepted serves (by unfold E.ring_enable ringAt; omega) (by unfold E.ring_enable ringAt; omega) (dictRow_ringEnable hx hk)
      (by decide) (by rw [leBytes_length, value, checks_ringEnable s x k via bool, if_pos may]), value]
  change done s (ended ((ringEnableSem x k).eff (told s via (E.ring_enable + ringAt x k) [BitVec.ofNat 8 v]) via v) _ _) = _
  rw [effect]
  exact done_eq (queue.trans (told_pending ..))

end

/-! ## What each write does -/

theorem ringStatus_told (via : Path) (e : Nat) (d : List Byte) : ringStatus (told s via e d) x k = ringStatus s x k := by
  obtain ⟨o, sent⟩ := told_eq (s := s) via e d
  rw [sent]; rfl

theorem ringEnableSem_eff (s : State) (x k : Nat) (via : Path) (v : Nat) : (ringEnableSem x k).eff s via v =
    if v = 0 then ringStop (wr s (E.ring_enable + ringAt x k) v) x k
    else if ringStatus s x k = 1 then wr s (E.ring_enable + ringAt x k) v
    else ringStart (wr s (E.ring_enable + ringAt x k) v) x k := by
  change (if v = 0 then _ else if ringStatus (wr s (E.ring_enable + ringAt x k) v) x k = 1 then _ else _) = _
  rw [ringStatus_wr_ringEnable]

theorem ringEnableSem_starts (off : ringStatus s x k ≠ 1) :
    (ringEnableSem x k).eff s via 1 = ringStart (wr s (E.ring_enable + ringAt x k) 1) x k := by
  rw [ringEnableSem_eff, if_neg (by decide), if_neg off]

/-- Log 141: true written to an enabled ring. -/
theorem ringEnableSem_rests (enabled : ringStatus s x k = 1) :
    (ringEnableSem x k).eff s via 1 = wr s (E.ring_enable + ringAt x k) 1 := by
  rw [ringEnableSem_eff, if_neg (by decide), if_pos enabled]

theorem ringEnableSem_drains (enabled : ringStatus s x k = 1) :
    (ringEnableSem x k).eff s via 0 = wr (wr s (E.ring_enable + ringAt x k) 0) (E.ring_status + ringAt x k) 2 := by
  rw [ringEnableSem_eff, if_pos rfl, ringStop, ringStatus_wr_ringEnable, if_pos enabled]

/-- Log 141: false written to a ring that is not enabled. -/
theorem ringEnableSem_off (off : ringStatus s x k ≠ 1) :
    (ringEnableSem x k).eff s via 0 = wr s (E.ring_enable + ringAt x k) 0 := by
  rw [ringEnableSem_eff, if_pos rfl, ringStop, ringStatus_wr_ringEnable, if_neg off]

end

section

variable (via : Path) (hx : x < 32) (hk : k < 8) (serves : Serves s (E.ring_enable + ringAt x k))

include hx hk serves

theorem ringEnable_refused (off : ringStatus s x k ≠ 1) (unplaced : ringPlaced s x k = false) :
    exec (.ringEnable via x k) s = .next (ended s (E.ring_enable + ringAt x k) 4) :=
  exec_ringEnable_refused hx hk serves (writes_ringEnable ..) (by decide) (by simp [off, unplaced])

theorem ringEnable_rests (enabled : ringStatus s x k = 1) : Accepts (.ringEnable via x k) s (E.ring_enable + ringAt x k)
    (wr (told s via (E.ring_enable + ringAt x k) [1]) (E.ring_enable + ringAt x k) 1) :=
  exec_ringEnable_accepted hx hk serves (writes_ringEnable ..) (by decide) (.inr (.inl enabled))
    (ringEnableSem_rests ((ringStatus_told ..).trans enabled)) rfl

theorem ringDisable_drains (enabled : ringStatus s x k = 1) : Accepts (.ringDisable via x k) s (E.ring_enable + ringAt x k)
    (wr (wr (told s via (E.ring_enable + ringAt x k) [0]) (E.ring_enable + ringAt x k) 0) (E.ring_status + ringAt x k) 2) :=
  exec_ringEnable_accepted hx hk serves (writes_ringDisable ..) (by decide) (.inl rfl)
    (ringEnableSem_drains ((ringStatus_told ..).trans enabled)) rfl

theorem ringDisable_off (off : ringStatus s x k ≠ 1) : Accepts (.ringDisable via x k) s (E.ring_enable + ringAt x k)
    (wr (told s via (E.ring_enable + ringAt x k) [0]) (E.ring_enable + ringAt x k) 0) :=
  exec_ringEnable_accepted hx hk serves (writes_ringDisable ..) (by decide) (.inl rfl)
    (ringEnableSem_off (by rwa [ringStatus_told])) rfl

/-- A ring that is placed starts. -/
theorem ringEnable_leads (off : ringStatus s x k ≠ 1) (placed : ringPlaced s x k = true) :
    Leads (.ringEnable via x k) s fun t => result t = 0 ∧ rd t (E.ring_enable + ringAt x k) = 1 ∧ ringStatus t x k = 1 ∧
      (∀ o, o + 4 ≤ 12 → rdNat t (ringKey x (ringBlock k) + o) 4 = 0) ∧
      (∀ r ∈ ringAreas s x k, ∀ o < r.2, rdByte t (ringKey x (r.1 + o)) = 0) ∧
      ∀ a, a < Mem.commons x 0x6C0000 ∨ Mem.commons x 0x700000 ≤ a → rdByte t a = rdByte s a := by
  have started := exec_ringEnable_accepted hx hk serves (writes_ringEnable s via x k) (by decide) (.inr (.inr placed))
    (ringEnableSem_starts (by rwa [ringStatus_told])) rfl
  obtain ⟨o, sent⟩ := told_eq (s := s) via (E.ring_enable + ringAt x k) [BitVec.ofNat 8 1]
  rw [sent] at started
  refine leads_of_accepts started ?_ fun _ _ h => h
  have areas := ringAreas_wr_ringEnable (s := { s with sent := o }) (x := x) (k := k) 1
  have enable := rd_wr_ringEnable (s := { s with sent := o }) hx hk (v := 1) (by decide)
  refine ⟨?_, ?_, fun o within => ringStart_count within, fun r mine o within => ringStart_area (by rwa [areas]) within,
    fun a outside => ringStart_outside hk (fun r mine => area_inside placed (by rwa [areas] at mine)) outside⟩
  · rw [rd_congr (ringStart_dict ..), rd_wr_other _ (by unfold E.ring_enable E.ring_status; omega), enable]
  · rw [ringStatus, rd_congr (ringStart_dict ..)]
    exact ringStatus_wr hx hk (by decide)

end

/-! ## The end of a drain (R683) -/

theorem exec_ringDrained (hx : x < 32) (hk : k < 8) : exec (.ringDrained x k) s = done s (ringDrained s x k) :=
  guarded_of (decide_eq_true ⟨hx, hk⟩) ..

theorem ringDrained_ends (hx : x < 32) (hk : k < 8) (draining : ringStatus s x k = 2) (started : (ringOf s x k).queue = [])
    (posted : (ringOf s x k).held = []) : exec (.ringDrained x k) s = .next (wr s (E.ring_status + ringAt x k) 0) := by
  rw [exec_ringDrained hx hk, ringDrained, if_pos (by simp [draining, started, posted])]
  rfl

theorem ringDrained_stays (hx : x < 32) (hk : k < 8)
    (busy : ringStatus s x k ≠ 2 ∨ (ringOf s x k).queue ≠ [] ∨ (ringOf s x k).held ≠ []) : Stays (.ringDrained x k) s :=
  stays_of_same (exec_ringDrained hx hk) (if_neg (by simpa [imp_iff_not_or] using busy))

end Sys2Proof.Machine
end

section
/-! SUPPORT. The taking of slots, and the posting of completions that a full ring has held (R673, R675, R677, R678). -/

namespace Sys2Proof.Machine

open Sys2Proof

variable {s : State} {x k : Nat}

@[simp] theorem ringOf_setRing (s : State) (x k : Nat) (v : Ring) : ringOf (setRing s x k v) x k = v := by
  rw [ringOf, setRing, sector_setSector_same]
  exact Tab.get_set_same ..

theorem ringOf_congr {s t : State} (h : t.sectors = s.sectors) (x k : Nat) : ringOf t x k = ringOf s x k := by
  unfold ringOf sector; rw [h]

/-! ## Slots (R673, R675) -/

theorem exec_ringSlotTake (hx : x < 32) (hk : k < 8) : exec (.ringSlotTake x k) s = done s (ringSlotTake s x k) :=
  guarded_of (decide_eq_true ⟨hx, hk⟩) ..

theorem ringSlotTake_stays (hx : x < 32) (hk : k < 8)
    (waits : ringStatus s x k ≠ 1 ∨ sequencerRuns s x = false ∨ slotReady s x k = false) : Stays (.ringSlotTake x k) s :=
  stays_of_same (exec_ringSlotTake hx hk) (if_pos (by simpa using waits))

/-- A record as the sequencer takes it. -/
def freshTaken (s : State) (r : List Byte) : Taken := ⟨r, false, now s, rd s E.step_counter, false, 0, 0, none, []⟩

/-- A record of a known operation joins its ring's queue, where the device serves the sector's partition. -/
theorem takeRecord_eq {r : List Byte} (inService : rd s E.out_of_service ≠ 1)
    (unscrubbed : ((ownerOf s x).map (scrubbing s)).getD false = false) (known : bits (recWord r 0) 63 56 ∈ knownOps) :
    takeRecord s x k r = setRing s x k { ringOf s x k with queue := (ringOf s x k).queue ++ [freshTaken s r] } :=
  (if_neg inService).trans ((if_neg (Bool.eq_false_iff.1 unscrubbed)).trans (if_pos (List.contains_iff_mem.2 known)))

/-- The leader of a pair may send an input on: nothing else changes (R622). -/
theorem forwardInput_eq (s : State) (kind : Nat) (d : List Byte) : ∃ l, forwardInput s kind d = { s with sent := l } := by
  unfold forwardInput
  split <;> exact ⟨_, rfl⟩

/-- The machine once the count of the slots taken of a ring has risen. -/
def slotCounted (s : State) (x k : Nat) : State :=
  wrNat s (ringKey x (ringBlock k)) 4 ((rdNat s (ringKey x (ringBlock k)) 4 + 1) % 2 ^ 32)

/-- The next slot whose marker is right is taken. -/
theorem ringSlotTake_leads (hx : x < 32) (hk : k < 8) (enabled : ringStatus s x k = 1) (runs : sequencerRuns s x = true)
    (ready : slotReady s x k = true) (inService : rd s E.out_of_service ≠ 1)
    (unscrubbed : ((ownerOf s x).map (scrubbing s)).getD false = false)
    (known : bits (recWord (slotRecord s x k) 0) 63 56 ∈ knownOps) : Leads (.ringSlotTake x k) s fun t =>
      (∃ v, (ringOf t x k).queue = (ringOf s x k).queue ++ [v] ∧ v.record = slotRecord s x k ∧ v.started = false) ∧
      rdNat t (ringKey x (ringBlock k)) 4 = (rdNat s (ringKey x (ringBlock k)) 4 + 1) % 2 ^ 32 ∧
      (∀ a, a < ringKey x (ringBlock k) ∨ ringKey x (ringBlock k) + 4 ≤ a → rdByte t a = rdByte s a) ∧
      t.dict = s.dict ∧ t.cores = s.cores := by
  have takes : ringSlotTake s x k = takeRecord (forwardInput (slotCounted s x k) 2 (slotRecord s x k)) x k (slotRecord s x k) :=
    if_neg (by simp [enabled, runs, ready])
  obtain ⟨o, sent⟩ := forwardInput_eq (slotCounted s x k) 2 (slotRecord s x k)
  have taken := takeRecord_eq (s := { slotCounted s x k with sent := o }) (k := k) inService unscrubbed known
  rw [← sent, ← takes, sent] at taken
  refine leads_of_effect (exec_ringSlotTake hx hk) ?_ fun _ _ h => h
  rw [taken]
  refine ⟨⟨freshTaken { slotCounted s x k with sent := o } (slotRecord s x k), ?_, rfl, rfl⟩, ?_, ?_, rfl, rfl⟩
  · rw [ringOf_setRing]
    rfl
  · exact (rdNat_wrNat_same ..).trans (Nat.mod_eq_of_lt (Nat.mod_lt _ (by decide)))
  · exact fun a outside => rdByte_wrNat_other outside s _

/-! ## Completions (R677, R678) -/

/-- An entry that joins an area counts in `posted`. -/
theorem posted_postEntry (s : State) (x cb off n : Nat) (r : List Byte) : rdNat (postEntry s x cb off n r) (ringKey x (cb + 4)) 4 =
    (rdNat s (ringKey x (cb + 4)) 4 + 1) % 2 ^ 32 :=
  (rdNat_wrNat_same ..).trans (Nat.mod_eq_of_lt (Nat.mod_lt _ (by decide)))

theorem mirrorEntry_still (s : State) (x k e : Nat) (r : List Byte) : still (mirrorEntry s x k e r) = still s := by
  simp [mirrorEntry, apply_ite still]

/-- A completion ring has room for an entry. -/
def HasRoom (s : State) (x k : Nat) : Prop := unread s x (ringBlock k) < rd s (E.ring_comp_slots + ringAt x k)

/-- Where none is held and the ring has room, an entry is posted: the ring's records are as they were, and `posted` rises. -/
theorem postCompletion_posts (unheld : (ringOf s x k).held = []) (room : HasRoom s x k) (r : List Byte) :
    ringOf (postCompletion s x k r) x k = ringOf s x k ∧ rdNat (postCompletion s x k r) (ringKey x (ringBlock k + 4)) 4 =
      (rdNat s (ringKey x (ringBlock k + 4)) 4 + 1) % 2 ^ 32 := by
  obtain ⟨e, v, posts⟩ : ∃ e v, postCompletion s x k r = signalVector (mirrorEntry (postEntry s x (ringBlock k)
      (rd s (E.ring_comp_offset + ringAt x k)) (rd s (E.ring_comp_slots + ringAt x k)) r) x k e r) v :=
    ⟨_, _, if_neg (by simpa [unheld, HasRoom] using room)⟩
  have same := (still_signalVector _ v).trans (mirrorEntry_still
    (postEntry s x (ringBlock k) (rd s (E.ring_comp_offset + ringAt x k)) (rd s (E.ring_comp_slots + ringAt x k)) r) x k e r)
  rw [posts]
  exact ⟨ringOf_congr (sectors_of_still same) x k, (rdNat_congr (mem_of_still same) ..).trans (posted_postEntry ..)⟩

theorem exec_completionRelease (hx : x < 32) (hk : k < 8) : exec (.completionRelease x k) s = done s (completionRelease s x k) :=
  guarded_of (decide_eq_true ⟨hx, hk⟩) ..

/-- The one completion held is posted where the ring has room. -/
theorem completionRelease_leads (hx : x < 32) (hk : k < 8) (runs : sequencerRuns s x = true) {e : List Byte}
    (held : (ringOf s x k).held = [e]) (room : HasRoom s x k) : Leads (.completionRelease x k) s fun t =>
      (ringOf t x k).held = [] ∧ (ringOf t x k).queue = (ringOf s x k).queue ∧
      rdNat t (ringKey x (ringBlock k + 4)) 4 = (rdNat s (ringKey x (ringBlock k + 4)) 4 + 1) % 2 ^ 32 := by
  have emptied := ringOf_setRing s x k { ringOf s x k with held := [] }
  obtain ⟨record, posted⟩ := postCompletion_posts (congrArg Ring.held emptied) (show HasRoom (setRing s x k _) x k from room) e
  have releases : completionRelease s x k = setRing (postCompletion (setRing s x k { ringOf s x k with held := [] }) x k e) x k
      { ringOf (postCompletion (setRing s x k { ringOf s x k with held := [] }) x k e) x k with held := [] } := by
    rw [completionRelease, if_pos runs, held, List.length_singleton, releaseHeld, held]
    simp only [if_neg (Nat.not_le.2 room)]
    rw [releaseHeld, ringOf_setRing]
  refine leads_of_effect (exec_completionRelease hx hk) ?_ fun _ _ h => h
  rw [releases, ringOf_setRing, record, emptied]
  exact ⟨rfl, rfl, posted⟩

end Sys2Proof.Machine
end

section
/-! SUPPORT. The command rings (R673, R675, R678, R680 to R683). -/

namespace Sys2Proof.Machine

open Sys2Proof

/-- Settles O33, part by part: a write of `ring_enable` is refused or obeyed by what `checks_ringEnable` makes of R681; what a start
zeroes is read off `rdByte_ringStart`; a taken slot and a released completion change what their own lemmas say. -/
theorem ringsTurn : Obligations.RingsTurn := by
  unfold Obligations.RingsTurn
  refine fun s x k hx hk => ⟨fun via serves => ⟨ringEnable_refused via hx hk serves, fun off placed => ?starts,
      ringEnable_rests via hx hk serves, ringDisable_drains via hx hk serves, ringDisable_off via hx hk serves⟩,
    ringDrained_ends hx hk, ringDrained_stays hx hk, ringSlotTake_leads hx hk, ringSlotTake_stays hx hk,
    fun e runs held _ room => ?posts⟩
  case starts =>
    obtain ⟨t, runs, answer, enable, status, counts, areas, outside⟩ := ringEnable_leads via hx hk serves off placed
    exact ⟨t, runs, answer, enable, status, counts 0 (by decide), counts 4 (by decide), counts 8 (by decide),
      areas (_, _) (List.mem_cons_self ..), areas (_, _) (List.mem_cons_of_mem _ (List.mem_cons_self ..)), outside⟩
  case posts =>
    have posts := completionRelease_leads hx hk runs held room
    rwa [ringKey_add] at posts

end Sys2Proof.Machine
end

section
/-! SUPPORT. Which commands answer a next state, and runs through a queue (spec/95_what_each_step_holds.md). -/

namespace Sys2Proof.Machine

open Sys2Proof

/-! ## The units of a command -/

theorem guarded_and (p q : Prop) [Decidable p] [Decidable q] (s t : State) :
    guarded (decide (p ∧ q)) s t = guarded (decide p && decide q) s t := by rw [Bool.decide_and]

/-- Every command is guarded by the units that it names: with them it has an effect, and without them it stops. -/
theorem exec_eq_guarded (c : Instr) (s : State) : ∃ t, exec c s = guarded c.wellFormed s t := by
  cases c with
  | dictRequest | dictWindowGo =>
    exact ⟨_, congrArg (guarded · s _) (by simp [Instr.wellFormed, entryNo, Bool.decide_and, Bool.and_assoc])⟩
  | laneFail | ringSlotTake | commandKernelEnd | completionRelease | ringDrained | sgopen | sgbind
  | sgcommit | sgabort | wopen | wclose | wbind | wunbind | stepend | pstart | pstop | hadd | hsub | hneg | haddp | hmulp | hmulw
  | hmulc | hmul | hrelin | hrescale | hmodsw | hdrop | hrot | htontt | htocoef | hraise | hlint | hbext | hbpbs | hbrepack =>
    exact ⟨_, guarded_and ..⟩
  | _ => exact ⟨_, rfl⟩

theorem exec_of_wellFormed {c : Instr} (names : c.wellFormed = true) (s : State) :
    ∃ t, exec c s = .next t ∧ t.pending = s.pending := by
  obtain ⟨t, runs⟩ := exec_eq_guarded c s
  rw [runs, guarded_of names]
  exact done_next s t

theorem exec_of_not_wellFormed {c : Instr} (names : c.wellFormed = false) (s : State) : exec c s = .fault .noSuchUnit := by
  obtain ⟨t, runs⟩ := exec_eq_guarded c s
  rw [runs, names, guarded_false]

/-! ## Steps and runs -/

theorem step_of_pending {s : State} {c : Instr} {q : List Instr} (waits : s.pending = c :: q) :
    step s = exec c { s with pending := q } := by simp only [step, waits]

theorem step_of_empty {s : State} (empty : s.pending = []) : step s = .next (idle s) := by simp only [step, empty]

@[simp] theorem idle_pending (s : State) : (idle s).pending = s.pending := by unfold idle; split <;> rfl

/-- A step takes the first command of a well-formed queue and no other. -/
theorem step_of_queueOk {s : State} (ok : s.queueOk = true) :
    ∃ t, step s = .next t ∧ t.pending = s.pending.tail ∧ t.queueOk = true := by
  cases waits : s.pending with
  | nil => exact ⟨idle s, step_of_empty waits, by simp [waits], by simp [State.queueOk, waits]⟩
  | cons c q =>
    have names : c.wellFormed = true ∧ q.all Instr.wellFormed = true := by simpa [State.queueOk, waits] using ok
    obtain ⟨t, runs, rest⟩ := exec_of_wellFormed names.1 { s with pending := q }
    exact ⟨t, (step_of_pending waits).trans runs, rest, by rw [State.queueOk, rest]; exact names.2⟩

theorem run_succ_of_step {M : Host.Core} {k : Nat} {s t : M.State} (steps : M.step s = .next t) :
    M.run (k + 1) s = M.run k t := by rw [Host.Core.run, steps]

theorem run_queue {n : Nat} {s : State} (ok : s.queueOk = true) (long : s.pending.length = n) :
    ∃ t : State, Host.Core.run Sys2Proof.core n s = .next t ∧ t.pending = [] := by
  induction n generalizing s with
  | zero => exact ⟨s, rfl, List.length_eq_zero_iff.1 long⟩
  | succ n ih =>
    obtain ⟨t, steps, rest, ok⟩ := step_of_queueOk ok
    obtain ⟨u, runs, empty⟩ := ih ok (by rw [rest, List.length_tail, long, Nat.add_sub_cancel])
    exact ⟨u, (run_succ_of_step steps).trans runs, empty⟩

/-! ## The statements -/

/-- Settles O1: both are what `step` makes of the queue. -/
theorem stepRunsFront : Obligations.StepRunsFront := by
  unfold Obligations.StepRunsFront
  exact ⟨fun c q s => step_of_pending (s := { s with pending := c :: q }) rfl, fun s empty => step_of_empty empty⟩

/-- Settles O2: a command is `guarded` by its units (`exec_eq_guarded`). -/
theorem onlyMissingUnitsStop : Obligations.OnlyMissingUnitsStop := by
  unfold Obligations.OnlyMissingUnitsStop
  exact fun c s => ⟨fun names => exec_of_wellFormed names s, fun names => exec_of_not_wellFormed names s⟩

/-- Settles O3, by induction on the length of the queue: a step keeps the invariant and shortens the queue (`step_of_queueOk`). -/
theorem queueRunsThrough : Obligations.QueueRunsThrough := by
  unfold Obligations.QueueRunsThrough
  exact ⟨fun s ok => step_of_queueOk ok, fun s ok => run_queue ok rfl⟩

/-- Settles O5: after reset every table is empty, and an empty table reads its default. -/
theorem resetHolds : Obligations.ResetHolds := by
  unfold Obligations.ResetHolds
  exact ⟨rfl, rfl, fun _ => rfl, fun _ => rfl⟩

/-- Settles O6: by what reads after writes give, and because a canonical table is determined by its reads. -/
theorem memoryReadsBack : Obligations.MemoryReadsBack := by
  unfold Obligations.MemoryReadsBack
  refine fun s k d canonical => ⟨wrBytes_wf canonical k d, rdBytes_wrBytes s k d, fun a outside => ?_,
    fun lo hi => ⟨zeroFill_wf canonical lo hi, rdByte_zeroFill s lo hi⟩, fun t canonical' same => mem_ext canonical canonical' same⟩
  rw [rdByte_wrBytes, if_neg (by omega)]

end Sys2Proof.Machine
end

section
/-! SUPPORT. Memory, marks, bit errors and dictionary in canonical form (log 2): the shapes that an update of the machine takes, and
the updates that write there. -/

namespace Sys2Proof.Machine

open Sys2Proof

/-- Memory, the marks, the bit errors and the dictionary have their canonical form. -/
@[irreducible] def Canonical (s : State) : Prop := s.canonical = true

theorem canonical_def (s : State) : Canonical s ↔ s.canonical = true := by unfold Canonical; exact Iff.rfl

theorem canonical_iff (s : State) : Canonical s ↔ Memory.wf s.mem = true ∧ Tab.wf (fun _ => false) s.poison = true ∧
    Tab.wf (fun _ => 0) s.flips = true ∧ Tab.wf dictDefault s.dict = true := by
  simp only [canonical_def, State.canonical, Bool.and_eq_true, and_assoc]

/-! ## The shapes of an update -/

/-- An update of other fields keeps the canonical form. -/
protected theorem Canonical.mk {s : State} {pins : Pins} {supply : Supply} {save : Save} {host : HostSide} {power : PowerMgr} {sectors :
    Tab Sector} {cores : Tab Core} {xlat : Tab Nat} {groups : List Group} {resolved : Tab (Option (Nat × Nat × Nat))}
    {commitLog : List Decision} {keysets : List KeySet} {laces : Tab Lace} {handles : Tab Handle} {arrivals : List Arrival}
    {windows : Tab Win} {transport : Transport} {step : StepSt} {ports : Tab Port} {routes : Tab Nat} {paths : Tab (List Nat)}
    {twin : Twin} {island : Island} {replays : Tab (Option Replay)} {det : Det} {pke : Pke} {hbm : Hbm} {recovery : Recovery}
    {sessions : List Session} {sent : List Out} {freeCtr : Nat} {pending : List Instr}
        (h : Canonical s) : Canonical (.mk s.dict s.mem s.poison s.flips pins supply save host power sectors cores xlat groups
    resolved commitLog keysets laces handles arrivals windows transport step ports routes paths twin island replays det pke
    hbm recovery sessions sent freeCtr pending) := by
  rw [canonical_iff] at h ⊢
  exact h

protected theorem Canonical.ite {p : Prop} [Decidable p] {s t : State} (hs : Canonical s) (ht : Canonical t) :
    Canonical (if p then s else t) := by split <;> assumption

protected theorem Canonical.ite_fst {α : Type} {p : Prop} [Decidable p] {s t : State × α} (hs : Canonical s.1) (ht : Canonical t.1) :
    Canonical (if p then s else t).1 := by split <;> assumption

/-- A fold whose steps keep the canonical form keeps it. -/
protected theorem Canonical.foldl {α : Type} {f : State → α → State} {l : List α} {s : State} (h : Canonical s)
    (step : ∀ s a, Canonical s → Canonical (f s a)) : Canonical (l.foldl f s) := by
  induction l generalizing s with
  | nil => exact h
  | cons a l ih => exact ih (step s a h)

protected theorem Canonical.foldl_fst {α β : Type} {f : State × β → α → State × β} {l : List α} {s : State × β} (h : Canonical s.1)
    (step : ∀ s a, Canonical s.1 → Canonical (f s a).1) : Canonical (l.foldl f s).1 := by
  induction l generalizing s with
  | nil => exact h
  | cons a l ih => exact ih (step s a h)

/-- The effect of a write to the entry keeps the canonical form. -/
@[irreducible] def EntrySem.Keeps (e : EntrySem) : Prop := ∀ s via v, Canonical s → Canonical (e.eff s via v)

theorem EntrySem.Keeps.eff {e : EntrySem} {s : State} {via : Path} {v : Nat} (keeps : e.Keeps) (h : Canonical s) :
    Canonical (e.eff s via v) := by
  unfold EntrySem.Keeps at keeps
  exact keeps s via v h

theorem keeps_of_eff {e : EntrySem} (keeps : ∀ s via v, Canonical s → Canonical (e.eff s via v)) : e.Keeps := by
  unfold EntrySem.Keeps
  exact keeps

/-- The effect alone decides. -/
theorem keeps_mk {e : EntrySem} {authOnly : Bool} {exempt : State → Path → Bool} {rule : State → Nat → Bool} {idle : State → Bool}
    (keeps : e.Keeps) : EntrySem.Keeps ⟨authOnly, exempt, rule, idle, e.eff⟩ := by
  unfold EntrySem.Keeps at keeps ⊢
  exact keeps

theorem keeps_ite {p : Prop} [Decidable p] {a b : EntrySem} (ha : a.Keeps) (hb : b.Keeps) : (if p then a else b).Keeps := by
  split <;> assumption

/-- What an access-stream instruction leads to is in canonical form. -/
@[irreducible] def AuRes.Keeps : AuRes → Prop
  | .go t _ => Canonical t
  | _ => True

theorem goes_wait : AuRes.wait.Keeps := by unfold AuRes.Keeps; trivial

theorem goes_fault {code : Nat} {f : Found} : (AuRes.fault code f).Keeps := by unfold AuRes.Keeps; trivial

theorem goes_bad {code : Nat} : (AuRes.bad code).Keeps := goes_fault

theorem goes_go {t : State} {next : Option Nat} (h : Canonical t) : (AuRes.go t next).Keeps := by unfold AuRes.Keeps; exact h

theorem canonical_of_goes {t : State} {next : Option Nat} (h : (AuRes.go t next).Keeps) : Canonical t := by
  unfold AuRes.Keeps at h
  exact h

theorem goes_ite {p : Prop} [Decidable p] {a b : AuRes} (ha : a.Keeps) (hb : b.Keeps) : (if p then a else b).Keeps := by
  split <;> assumption

/-! ## The updates of the dictionary, of memory and of marks -/

section
variable {s : State}

protected theorem Canonical.wr {k v : Nat} (h : Canonical s) : Canonical (wr s k v) := by
  obtain ⟨hm, hp, hf, hd⟩ := (canonical_iff s).1 h
  exact (canonical_iff _).2 ⟨hm, hp, hf, wr_wf hd k v⟩

protected theorem Canonical.wrBytes {k : Nat} {d : List Byte} (h : Canonical s) : Canonical (wrBytes s k d) := by
  obtain ⟨hm, hp, hf, hd⟩ := (canonical_iff s).1 h
  exact (canonical_iff _).2 ⟨wrBytes_wf hm k d, unmark_wf _ hp k d.length, unmark_wf _ hf k d.length, hd⟩

protected theorem Canonical.zeroFill {lo hi : Nat} (h : Canonical s) : Canonical (zeroFill s lo hi) := by
  obtain ⟨hm, hp, hf, hd⟩ := (canonical_iff s).1 h
  exact (canonical_iff _).2 ⟨zeroFill_wf hm lo hi, Tab.clear_wf hp lo hi, Tab.clear_wf hf lo hi, hd⟩

protected theorem Canonical.mark {k : Nat} (h : Canonical s) : Canonical (mark s k) := by
  obtain ⟨hm, hp, hf, hd⟩ := (canonical_iff s).1 h
  exact (canonical_iff _).2 ⟨hm, mark_wf hp k, hf, hd⟩

protected theorem Canonical.setFlips {k v : Nat} (h : Canonical s) : Canonical { s with flips := Tab.set 0 s.flips k v } := by
  obtain ⟨hm, hp, hf, hd⟩ := (canonical_iff s).1 h
  exact (canonical_iff _).2 ⟨hm, hp, Tab.set_wf hf k v, hd⟩

/-- A part of the dictionary is in canonical form. -/
protected theorem Canonical.filterDict {p : Nat × Nat → Bool} (h : Canonical s) : Canonical { s with dict := s.dict.filter p } := by
  obtain ⟨hm, hp, hf, hd⟩ := (canonical_iff s).1 h
  exact (canonical_iff _).2 ⟨hm, hp, hf, Tab.filter_wf _ hd⟩

/-- A part of memory, with its marks and errors, is in canonical form. -/
protected theorem Canonical.filterMem {p : Nat × Byte → Bool} {m f : Nat → Bool} (h : Canonical s) :
    Canonical { s with
      mem := s.mem.filter p, poison := s.poison.filter fun e => m e.1, flips := s.flips.filter fun e => f e.1 } := by
  obtain ⟨hm, hp, hf, hd⟩ := (canonical_iff s).1 h
  exact (canonical_iff _).2 ⟨Tab.filter_wf _ hm, Tab.filter_wf _ hp, Tab.filter_wf _ hf, hd⟩

end

/-! ## The end of a command -/

theorem canonical_of_done {s u t : State} (runs : done s u = .next t) (h : Canonical u) : Canonical t := by
  cases runs
  exact h.mk

theorem canonical_of_guarded {ok : Bool} {s u t : State} (runs : guarded ok s u = .next t) (h : Canonical u) : Canonical t := by
  cases ok with
  | true => exact canonical_of_done runs h
  | false => cases runs

end Sys2Proof.Machine
end

section
/-! SUPPORT. Every operation of the machine keeps the canonical form: one lemma for each definition that answers a state, in the
order of the definitions, each read off what it calls. -/

namespace Sys2Proof.Machine

open Sys2Proof

/-! ### The definitions of `Machine/Ops.lean` -/

protected theorem Canonical.incBy {s : State} {k n : Nat} (h : Canonical s) : Canonical (incBy s k n) := h.wr

protected theorem Canonical.inc {s : State} {k : Nat} (h : Canonical s) : Canonical (inc s k) := h.incBy

protected theorem Canonical.idle {s : State} (h : Canonical s) : Canonical (idle s) := h.ite h.inc

protected theorem Canonical.wrNat {s : State} {k n v : Nat} (h : Canonical s) : Canonical (wrNat s k n v) := h.wrBytes

protected theorem Canonical.markWords {s : State} {k n : Nat} (h : Canonical s) : Canonical (markWords s k n) :=
  h.foldl fun _ _ h => h.mark

protected theorem Canonical.emit {s : State} {o : Out} (h : Canonical s) : Canonical (emit s o) := h.mk

protected theorem Canonical.answerStatus {s : State} {code : Nat} {poisoned : Bool} {data : List Byte} (h : Canonical s) :
    Canonical (answerStatus s code poisoned data) := h.emit

protected theorem Canonical.msixSend {s : State} {v : Nat} (h : Canonical s) : Canonical (msixSend s v) := h.mk.emit.ite h.mk

protected theorem Canonical.signalVector {s : State} {v : Nat} (h : Canonical s) : Canonical (signalVector s v) :=
  h.ite (h.mk.ite h.msixSend)

protected theorem Canonical.alertEdge {s0 s : State} (hs : Canonical s) : Canonical (alertEdge s0 s) :=
  hs.emit.signalVector.ite hs

protected theorem Canonical.setAlert {s : State} {b : Nat} (h : Canonical s) : Canonical (setAlert s b) := h.wr.alertEdge

protected theorem Canonical.refreshAlert {s : State} (h : Canonical s) : Canonical (refreshAlert s) := h.setAlert

protected theorem Canonical.setSector {s : State} {x : Nat} {v : Sector} (h : Canonical s) : Canonical (setSector s x v) := h.mk

protected theorem Canonical.setCore {s : State} {c : Nat} {v : Core} (h : Canonical s) : Canonical (setCore s c v) := h.mk

protected theorem Canonical.countAt {s : State} {cfg val ev inst n : Nat} (h : Canonical s) :
    Canonical (countAt s cfg val ev inst n) := h.incBy.ite h

protected theorem Canonical.countDev {s : State} {ev inst n : Nat} (h : Canonical s) : Canonical (countDev s ev inst n) :=
  h.foldl fun _ _ h => h.countAt

protected theorem Canonical.countSec {s : State} {x ev n : Nat} (h : Canonical s) : Canonical (countSec s x ev n) :=
  .countDev (h.foldl fun _ _ h => h.countAt)

protected theorem Canonical.countCore {s : State} {c ev n : Nat} (h : Canonical s) : Canonical (countCore s c ev n) :=
  .countSec (h.foldl fun _ _ h => h.countAt)

protected theorem Canonical.noteNd {s : State} {cause : Nat} {p : Option Nat} (h : Canonical s) :
    Canonical (noteNd s cause p) := by
  unfold noteNd
  dsimp only
  split
  · exact h.inc.countDev.inc
  · exact h.inc.countDev

protected theorem Canonical.onchipUe {s : State} {x a block : Nat} (h : Canonical s) : Canonical (onchipUe s x a block) :=
  h.inc.wr.wr.wr

/-! ### The definitions of `Machine/PowerOps.lean` -/

protected theorem Canonical.setDomain {s : State} {d v : Nat} (h : Canonical s) : Canonical (setDomain s d v) := h.wr

protected theorem Canonical.returnAsked {s : State} (h : Canonical s) : Canonical (returnAsked s) :=
  h.foldl fun _ _ h => h.setDomain.ite h

protected theorem Canonical.recordRefusal {s : State} {block reason state kind : Nat} (h : Canonical s) :
    Canonical (recordRefusal s block reason state kind) := .wr (.wr (.wr (.wr (.wr (.wr (.wr (h.foldl fun _ _ h => h.wr)))))))

protected theorem Canonical.endEntry {s : State} {block reason kind : Nat} (h : Canonical s) :
    Canonical (endEntry s block reason kind) := by
  unfold endEntry
  split
  · exact h
  · exact .wr (.wr (h.mk.returnAsked.recordRefusal.inc.ite h.mk.returnAsked.recordRefusal.inc))

protected theorem Canonical.workReaches {s : State} {b : Nat} (h : Canonical s) : Canonical (workReaches s b) := by
  unfold workReaches
  split
  · exact h
  · exact h.endEntry.ite h

protected theorem Canonical.abandonEntry {s : State} (h : Canonical s) : Canonical (abandonEntry s) := by
  unfold abandonEntry
  split
  · exact h
  · exact h.mk.returnAsked.wr

protected theorem Canonical.wakeOne {s : State} {d : Nat} (h : Canonical s) : Canonical (wakeOne s d) :=
  h.mk.ite (h.ite h.mk.setDomain)

protected theorem Canonical.wakeDomain {s : State} {d : Nat} (h : Canonical s) : Canonical (wakeDomain s d) :=
  h.ite (h.wakeOne.ite (h.mk.foldl fun _ _ h => h.wakeOne))

protected theorem Canonical.trafficTo {s : State} {x : Nat} (h : Canonical s) : Canonical (trafficTo s x) :=
  h.workReaches.workReaches.ite h.workReaches.workReaches.wakeDomain

protected theorem Canonical.awaitSector {s : State} {x : Nat} {a : Arrival} (h : Canonical s) : Canonical (awaitSector s x a) :=
  h.ite h.mk.wakeDomain

/-! ### The definitions of `Machine/Access.lean` -/

theorem keeps_plain {k : Nat} : (plain k).Keeps := keeps_of_eff fun _ _ _ h => h.wr

theorem keeps_limited {k : Nat} {r : State → Nat → Bool} : (limited k r).Keeps := keeps_mk keeps_plain

theorem keeps_command {r : State → Nat → Bool} {f : State → Path → Nat → State} (hf : ∀ s via v, Canonical s → Canonical
    (f s via v)) :
    (command r f).Keeps := keeps_of_eff fun _ _ _ h => hf _ _ _ h

protected theorem Canonical.accept {s : State} {via : Path} {row : DRow} {k : Nat} {sem : EntrySem} {v : Nat} (h : Canonical s)
    (hsem : sem.Keeps) :
    Canonical (accept s via row k sem v) := h.wr.refreshAlert.ite (hsem.eff h)

protected theorem Canonical.forwardWrite {s : State} {a : Access} (h : Canonical s) : Canonical (forwardWrite s a) :=
  h.emit.ite h

protected theorem Canonical.finish {s : State} {a : DictAns} (h : Canonical s) : Canonical (finish s a) := h.mk

protected theorem Canonical.oosAccess {s : State} {a : Access} {row : DRow} (h : Canonical s) : Canonical (oosAccess s a row) :=
  h.finish.ite h.finish

protected theorem Canonical.serve {s : State} {a : Access} {sem : EntrySem} (h : Canonical s) (hsem : sem.Keeps) :
    Canonical (serve s a sem) :=
  h.finish.ite (by
    split
    · exact h.finish
    · exact .ite (h.finish.ite (h.finish.ite h.finish)) (by
        dsimp only
        split
        · exact .ite (.finish (h.forwardWrite.accept hsem)) (.finish (h.wr.ite h))
        · exact h.finish))

protected theorem Canonical.stall {s : State} {a : Access} {d : Nat} (h : Canonical s) : Canonical (stall s a d) := h.mk

protected theorem Canonical.access {s : State} {a : Access} {sem : EntrySem} (h : Canonical s) (hsem : sem.Keeps) :
    Canonical (access s a sem) := by
  unfold access
  split
  · exact h
  · exact h.finish
  · exact h.stall
  · split
    · exact h.serve hsem
    · exact .ite (h.serve hsem) (h.oosAccess.ite (.ite (h.workReaches.serve hsem) h.workReaches.wakeDomain.stall))

protected theorem Canonical.noInstance {s : State} {via : Path} {k : Nat} (h : Canonical s) : Canonical (noInstance s via k) :=
  h.access (keeps_command (fun _ _ _ h => h))

/-! ### The definitions of `Machine/Levels.lean` -/

protected theorem Canonical.refreshCap {s : State} (h : Canonical s) : Canonical (refreshCap s) := h.wr

protected theorem Canonical.paceBreak {s : State} {x : Nat} (h : Canonical s) : Canonical (paceBreak s x) :=
  h.ite (by
    dsimp only
    split
    · exact h.inc.noteNd.ite h.inc
    · exact h.inc)

protected theorem Canonical.paceBreakAll {s : State} (h : Canonical s) : Canonical (paceBreakAll s) :=
  h.foldl fun _ _ h => h.paceBreak

protected theorem Canonical.useExternal {s : State} {ext : Bool} (h : Canonical s) : Canonical (useExternal s ext) :=
  h.ite h.wr.paceBreakAll

protected theorem Canonical.startRamp {s : State} {x g : Nat} (h : Canonical s) : Canonical (startRamp s x g) := h.setSector

protected theorem Canonical.regrant {s : State} {x : Nat} (h : Canonical s) : Canonical (regrant s x) :=
  h.ite (h.wr.startRamp.ite h.wr)

protected theorem Canonical.levelAtWake {s : State} {x : Nat} (h : Canonical s) : Canonical (levelAtWake s x) :=
  h.setSector.ite h.setSector.paceBreak

/-! ### The definitions of `Machine/BootLog.lean` -/

protected theorem Canonical.bootLog {s : State} {event kind status block : Nat} {detail : List Byte} (h : Canonical s) :
    Canonical (bootLog s event kind status block detail) := h.wrBytes.mk

protected theorem Canonical.goOutOfService {s : State} {cause : Nat} (h : Canonical s) : Canonical (goOutOfService s cause) :=
  h.wr.wr.setAlert.bootLog

/-! ### The definitions of `Machine/Hbm.lean` -/

protected theorem Canonical.clearLost {s : State} {lo hi : Nat} (h : Canonical s) : Canonical (clearLost s lo hi) := h.mk.ite h

protected theorem Canonical.setOut {s : State} {out : List Nat} (h : Canonical s) : Canonical (setOut s out) :=
  h.mk.wr.wr.foldl fun _ _ h => h.wr

protected theorem Canonical.mapOut {s : State} {pc : Nat} (h : Canonical s) : Canonical (mapOut s pc) :=
  h.wr.ite (h.wr.ite (h.wr.ite (h.wr.ite h.mk.wr)))

theorem keeps_mapOutSem : mapOutSem.Keeps := keeps_mk (keeps_command (fun _ _ _ h => h.mapOut))

protected theorem Canonical.mapIn {s : State} {pc : Nat} (h : Canonical s) : Canonical (mapIn s pc) :=
  h.wr.ite (h.wr.ite h.mk.wr)

theorem keeps_mapInSem : mapInSem.Keeps := keeps_mk (keeps_command (fun _ _ _ h => h.mapIn))

protected theorem Canonical.forcedMapOut {s : State} {pc : Nat} (h : Canonical s) : Canonical (forcedMapOut s pc) :=
  h.ite (h.wr.ite (h.mk.setOut.inc.zeroFill.wr.goOutOfService.ite h.mk.setOut.inc.zeroFill.wr))

protected theorem Canonical.forceMapOut {s : State} {pc : Nat} (h : Canonical s) : Canonical (forceMapOut s pc) :=
  h.mk.ite h.forcedMapOut

protected theorem Canonical.countUe {s : State} {a : Nat} (h : Canonical s) : Canonical (countUe s a) :=
  h.inc.mk.forceMapOut.ite h.inc.mk

protected theorem Canonical.noteEcc {s : State} {a : Nat} {ecc : Ecc} (h : Canonical s) : Canonical (noteEcc s a ecc) := by
  unfold noteEcc
  split
  · exact h
  · exact h.inc
  · exact h.countUe.ite h

protected theorem Canonical.hbmRead {s : State} {who : Requester} {a n : Nat} {ecc : Ecc} {fifoFull : Bool} (h : Canonical s) :
    Canonical (hbmRead s who a n ecc fifoFull) := h.answerStatus.ite (.answerStatus (.noteEcc (h.inc.ite h)))

protected theorem Canonical.hbmStore {s : State} {a : Nat} {d : List Byte} (h : Canonical s) : Canonical (hbmStore s a d) :=
  h.wrBytes.clearLost.ite h.wrBytes

protected theorem Canonical.hbmPartialWrite {s : State} {who : Requester} {a : Nat} {d : List Byte} {ecc : Ecc}
    (h : Canonical s) :
    Canonical (hbmPartialWrite s who a d ecc) :=
  h.answerStatus.ite (.answerStatus (by
    split
    · exact h.hbmStore
    · exact h.hbmStore.inc
    · exact .countUe (h.hbmStore.mark.ite h.hbmStore)))

protected theorem Canonical.endHbmOp {s : State} (h : Canonical s) : Canonical (endHbmOp s) :=
  h.mk.foldl fun _ _ h => h.forcedMapOut

protected theorem Canonical.migrationDone {s : State} (h : Canonical s) : Canonical (migrationDone s) := by
  unfold migrationDone
  split
  · exact h.setOut.wr.endHbmOp
  · exact h.setOut.zeroFill.clearLost.wr.endHbmOp
  · exact h

protected theorem Canonical.repairStart {s : State} {v : Nat} (h : Canonical s) : Canonical (repairStart s v) :=
  h.mk.wr.ite h.wr

theorem keeps_repairSem : repairSem.Keeps := keeps_mk (keeps_command (fun _ _ _ h => h.repairStart))

protected theorem Canonical.repairCmd {op : Nat} {via : Path} {pc : Nat} {s : State} (h : Canonical s) :
    Canonical (repairCmd op via pc s) := h.access keeps_repairSem

protected theorem Canonical.repairDone {s : State} {passed : Bool} {rows : List Nat} {spares : Nat} (h : Canonical s) :
    Canonical (repairDone s passed rows spares) := by
  unfold repairDone
  split
  · exact h.mk.wr.endHbmOp
  · exact h

protected theorem Canonical.thermalTick {s : State} {c : Nat} {t : ℤ} (h : Canonical s) : Canonical (thermalTick s c t) :=
  h.wr.setAlert.ite h.wr

theorem keeps_headroomSem : headroomSem.Keeps := keeps_limited

theorem keeps_throttleCSem : throttleCSem.Keeps := keeps_limited

theorem keeps_ueThresholdSem : ueThresholdSem.Keeps := keeps_limited

/-! ### The definitions of `Machine/MemCode.lean` -/

protected theorem Canonical.loseWord {s : State} {k : Nat} (h : Canonical s) : Canonical (loseWord s k) :=
  h.mark.mk.onchipUe.ite (h.mark.onchipUe.ite h.mark.onchipUe)

protected theorem Canonical.meetWord {s : State} {k n : Nat} (h : Canonical s) : Canonical (meetWord s k n) := by
  have corrected := Canonical.setFlips (k := k) (v := 0) h
  exact Canonical.ite (Canonical.ite corrected (Canonical.loseWord corrected))
    (Canonical.ite (Canonical.ite (Canonical.inc corrected) (Canonical.loseWord corrected))
      (Canonical.ite (Canonical.ite (Canonical.inc corrected) (Canonical.loseWord corrected))
        (Canonical.ite (Canonical.inc corrected)
          (Canonical.ite (Canonical.paceBreak (Canonical.inc corrected)) (Canonical.loseWord corrected)))))

protected theorem Canonical.meet {s : State} {k n : Nat} (h : Canonical s) : Canonical (meet s k n) :=
  h.foldl fun _ _ h => h.meetWord

protected theorem Canonical.meetEdges {s : State} {k n : Nat} (h : Canonical s) : Canonical (meetEdges s k n) :=
  h.foldl fun _ _ h => h.meetWord

protected theorem Canonical.addFlips {s : State} {k n : Nat} (h : Canonical s) : Canonical (addFlips s k n) :=
    Canonical.setFlips h

protected theorem Canonical.wordErrors {s : State} {k : Nat} {ecc : Ecc} (h : Canonical s) :
    Canonical (wordErrors s k ecc) := by
  unfold wordErrors
  split
  · exact h
  · exact h.addFlips
  · exact h.addFlips

/-! ### The definitions of `Machine/Shadow.lean` -/

protected theorem Canonical.setGroup {s : State} {o : Option Nat} {i : Nat} {f : Group → Group} (h : Canonical s) :
    Canonical (setGroup s o i f) := h.mk

protected theorem Canonical.noteGroups {s : State} (h : Canonical s) : Canonical (noteGroups s) := h.wr.wr

protected theorem Canonical.returnCredits {s : State} {k n : Nat} (h : Canonical s) : Canonical (returnCredits s k n) :=
  h.ite h.setSector

protected theorem Canonical.discard {s : State} {o : Option Nat} {i : Nat} (h : Canonical s) : Canonical (discard s o i) := by
  unfold discard
  split
  · exact h
  · exact .noteGroups (.setGroup (h.foldl fun _ _ h => h.returnCredits))

protected theorem Canonical.unbind {s : State} {c : Nat} (h : Canonical s) : Canonical (unbind s c) := h.ite h.setCore

protected theorem Canonical.resolveGroup {s : State} {o : Option Nat} {i code cause : Nat} (h : Canonical s) :
    Canonical (resolveGroup s o i code cause) := by
  unfold resolveGroup
  split
  · exact h
  · exact .noteGroups (.ite (.inc (.ite (.setGroup (h.discard.mk.ite h.discard)) (.ite (.mk (h.discard.mk.ite h.discard))
      (.foldl (.mk (h.discard.mk.ite h.discard)) fun _ _ h => h.unbind.ite h)))) (.inc (.ite (.setGroup (h.discard.mk.ite
      h.discard)) (.ite (.mk (h.discard.mk.ite h.discard)) (.foldl (.mk (h.discard.mk.ite h.discard)) fun _ _ h => h.unbind.ite
      h)))))

protected theorem Canonical.leaveAborted {s : State} {c : Nat} (h : Canonical s) : Canonical (leaveAborted s c) := by
  unfold leaveAborted
  split
  · exact h
  · split
    · exact h.unbind
    · exact .ite (h.unbind.ite h.unbind.mk.noteGroups) h

protected theorem Canonical.failGroup {s : State} {o : Option Nat} {i code cause : Nat} (h : Canonical s) :
    Canonical (failGroup s o i code cause) := by
  unfold failGroup
  split
  · exact h
  · exact h.resolveGroup.ite h.discard.setGroup

protected theorem Canonical.groupStore {s : State} {o : Option Nat} {i k : Nat} {d : List Byte} {cred : Nat} {bad : Bool}
    (h : Canonical s) :
    Canonical (groupStore s o i k d cred bad).1 := by
  unfold groupStore
  split
  · exact h
  · exact h.ite_fst (h.ite_fst (.ite_fst (.noteGroups (h.foldl_fst fun _ _ h => h.ite_fst (by
      split
      · exact h
      · split
        · exact h
        · exact h.setGroup))) (.setGroup (.discard (h.foldl_fst fun _ _ h => h.ite_fst (by
      split
      · exact h
      · split
        · exact h
        · exact h.setGroup))))))

protected theorem Canonical.storeAt {s : State} {k : Nat} {d : List Byte} (h : Canonical s) : Canonical (storeAt s k d) :=
  h.hbmStore.ite h.meetEdges.wrBytes

protected theorem Canonical.showGranule {s : State} {r : Granule} (h : Canonical s) : Canonical (showGranule s r) :=
  h.storeAt.foldl fun _ _ h => h.mark

protected theorem Canonical.noteLanded {s : State} {k n : Nat} (h : Canonical s) : Canonical (noteLanded s k n) := by
  unfold noteLanded
  split
  · exact h
  · exact h.mk

/-! ### The definitions of `Machine/Ctx.lean` -/

protected theorem Canonical.coreStore {s : State} {c : Nat} {va : Option Nat} {k : Nat} {d : List Byte} {bad : Bool}
    (h : Canonical s) :
    Canonical (coreStore s c va k d bad).1 :=
  h.ite_fst (h.ite_fst (by
    dsimp only
    split
    · exact .groupStore (.ite (.trafficTo (h.noteLanded.ite h)) (h.noteLanded.ite h))
    · exact .ite (.markWords (.storeAt (.ite (.trafficTo (h.noteLanded.ite h)) (h.noteLanded.ite h)))) (.storeAt (.ite
        (.trafficTo (h.noteLanded.ite h)) (h.noteLanded.ite h)))))

/-! ### The definitions of `Machine/Outbound.lean` -/

protected theorem Canonical.setHandle {s : State} {h : Nat} {v : Handle} (hs : Canonical s) : Canonical (setHandle s h v) :=
  hs.mk

protected theorem Canonical.setRoute {s : State} {node v : Nat} (h : Canonical s) : Canonical (setRoute s node v) := h.mk

protected theorem Canonical.setPort {s : State} {p : Nat} {v : Port} (h : Canonical s) : Canonical (setPort s p v) := h.mk

protected theorem Canonical.sendFlits {s : State} {p vc n : Nat} (h : Canonical s) : Canonical (sendFlits s p vc n) :=
  h.setPort.countDev

protected theorem Canonical.sendMsg {s : State} {mtype : Nat} {m : Msg} (h : Canonical s) : Canonical (sendMsg s mtype m) :=
  .ite (.emit (by
    split
    · exact .sendFlits (h.noteNd.ite h)
    · exact h.noteNd.ite h)) h

protected theorem Canonical.sendNow {s : State} {h : Nat} {r : Request} (hs : Canonical s) : Canonical (sendNow s h r) :=
  .sendMsg (hs.setHandle.mk.ite hs.setHandle)

protected theorem Canonical.request {s : State} {h : Nat} {r : Request} (hs : Canonical s) : Canonical (request s h r) :=
  .ite (.sendNow (by
    split
    · exact hs.setGroup
    · exact hs)) (.setHandle (by
    split
    · exact hs.setGroup
    · exact hs))

protected theorem Canonical.pump {n : Nat} {s : State} {k : Nat} (h : Canonical s) : Canonical (pump n s k) := by
  induction n generalizing s with
  | zero => exact h
  | succ n ih =>
    rw [pump]
    split
    · exact h
    · exact Canonical.ite (ih (Canonical.sendNow (Canonical.setHandle h))) h

protected theorem Canonical.sendNotice {s : State} {mtype node window epoch : Nat} {payload : List Byte} (h : Canonical s) :
    Canonical (sendNotice s mtype node window epoch payload) := h.mk.sendMsg

protected theorem Canonical.postEntry {s : State} {x cb off n : Nat} {r : List Byte} (h : Canonical s) :
    Canonical (postEntry s x cb off n r) := h.wrBytes.wrNat.wrNat

protected theorem Canonical.postEvent {s : State} {p etype status core detail : Nat} (h : Canonical s) :
    Canonical (postEvent s p etype status core detail) := h.inc.ite h.postEntry.signalVector

/-! ### The definitions of `Machine/Exec.lean` -/

protected theorem Canonical.onCore {s : State} {c : Nat} {f : Core → Core} (h : Canonical s) : Canonical (onCore s c f) :=
  h.setCore

protected theorem Canonical.noteFault {s : State} {c code word beat : Nat} {f : Found} (h : Canonical s) :
    Canonical (noteFault s c code word beat f) := h.ite (h.wr.wr.wr.wr.wr.wr.wr.wr.inc.countCore.ite h.wr.wr.wr.wr.wr.wr.wr.wr)

protected theorem Canonical.faultBlock {s : State} {c code word beat : Nat} {f : Found} (h : Canonical s) :
    Canonical (faultBlock s c code word beat f) := h.noteFault.onCore

protected theorem Canonical.putPiece {s : State} {c : Nat} {e : Nat × Option Nat × List Byte × Bool} (h : Canonical s) :
    Canonical (putPiece s c e).1 := .ite_fst (h.wrBytes.markWords.ite h.wrBytes) h.coreStore

protected theorem Canonical.putAll {s : State} {c : Nat} {l : List (Nat × Option Nat × List Byte × Bool)} {st : Nat}
    (h : Canonical s) :
    Canonical (putAll s c l st).1 := h.foldl_fst fun _ _ h => h.putPiece

protected theorem Canonical.runGrant {s : State} {c : Nat} {g : Grant} (h : Canonical s) : Canonical (runGrant s c g) :=
  h.onCore.ite (.ite (by
    dsimp only
    split
    · exact .onCore (.putPiece (by
        split
        · exact .ite (h.onCore.ite h.onCore.meet) (.failGroup (h.onCore.ite h.onCore.meet))
        · exact h.onCore.ite h.onCore.meet))
    · exact .putPiece (by
        split
        · exact .ite (h.onCore.ite h.onCore.meet) (.failGroup (h.onCore.ite h.onCore.meet))
        · exact h.onCore.ite h.onCore.meet)) (by
    split
    · exact .onCore (h.onCore.ite h.onCore.meet)
    · exact .onCore (h.onCore.ite h.onCore.meet)
    · exact h.onCore.ite h.onCore.meet))

protected theorem Canonical.flushN {n : Nat} {s : State} {c : Nat} (h : Canonical s) : Canonical (flushN n s c) := by
  induction n generalizing s with
  | zero => exact h
  | succ n ih =>
    rw [flushN]
    split
    · exact h
    · exact ih (Canonical.runGrant h)

protected theorem Canonical.flush {s : State} {c : Nat} (h : Canonical s) : Canonical (flush s c) := h.flushN

protected theorem Canonical.settleMem {s : State} {k : Nat} (h : Canonical s) : Canonical (settleMem s k) := h.flush.ite h

protected theorem Canonical.settle {s : State} {c : Nat} {x : Xfer} (h : Canonical s) : Canonical (settle s c x).1 :=
  .putAll (by
    split
    · exact h.ite h.failGroup
    · exact h)

protected theorem Canonical.endXfer {s : State} {c : Nat} {x : Xfer} {st e : Nat} (h : Canonical s) :
    Canonical (endXfer s c x st e) := h.onCore.ite h.onCore.faultBlock

protected theorem Canonical.finishLoad {s : State} {c : Nat} {x : Xfer} {e : Nat} (h : Canonical s) :
    Canonical (finishLoad s c x e) := h.settle.onCore.endXfer

protected theorem Canonical.finishStore {s : State} {c : Nat} {x : Xfer} {e : Nat} (h : Canonical s) :
    Canonical (finishStore s c x e) := .endXfer (h.settle.onCore.ite h.settle)

protected theorem Canonical.applyFx {s : State} {c : Nat} {o : Op} {a0 : Fx} (h : Canonical s) :
    Canonical (applyFx s c o a0) := by
  unfold applyFx
  split
  · exact h.onCore
  · exact h.onCore
  · dsimp only
    split
    · exact h.faultBlock
    · exact h.faultBlock.ite h.onCore
  · exact h.onCore
  · exact .wrBytes (h.inc.ite h)
  · exact h.inc
  · exact h.incBy
  · exact h.wr.wr.wr.wr
  · exact h.wrBytes.incBy
  · exact h.wr.wr.wr.wr
  · exact h.onCore
  · exact h.onCore
  · exact h.onCore
  · exact h.onCore
  · exact h.onCore
  · exact h.inc
  · exact h.incBy
  · exact h.onCore
  · exact h.markWords

protected theorem Canonical.applyWrite {s : State} {c : Nat} {e : Nat × Option Nat × List Byte} (h : Canonical s) :
    Canonical (applyWrite s c e).1 := h.wrBytes.ite_fst h.coreStore

protected theorem Canonical.completeOp {s : State} {c : Nat} {o : Op} (h : Canonical s) : Canonical (completeOp s c o) :=
  .ite (.foldl (.onCore (.foldl_fst (by
    split
    · exact h.ite h.failGroup
    · exact h) fun _ _ h => h.applyWrite)) fun _ _ h => h.applyFx) (.faultBlock (.foldl (.onCore (.foldl_fst (by
    split
    · exact h.ite h.failGroup
    · exact h) fun _ _ h => h.applyWrite)) fun _ _ h => h.applyFx))

protected theorem Canonical.nextEvent_ends {s : State} {c : Nat} {e : Xfer × Nat} (h : Canonical s) :
    Canonical (nextEvent.ends s c e) := h.finishLoad.ite h.finishStore

protected theorem Canonical.nextEvent_opOrEnd {s : State} {c : Nat} {o : Option Op} {x : Option (Xfer × Nat)} (h : Canonical s)
    :
    Canonical (nextEvent.opOrEnd s c o x).2 := by
  unfold nextEvent.opOrEnd
  split
  · exact h
  · exact h.onCore.completeOp
  · exact h.nextEvent_ends
  · split
    · exact h.onCore.completeOp
    · exact h.nextEvent_ends

protected theorem Canonical.nextEvent {s : State} {c : Nat} (h : Canonical s) : Canonical (nextEvent s c).2 := by
  unfold nextEvent
  dsimp only
  split
  · split
    · exact h.runGrant
    · exact h.nextEvent_opOrEnd
  · exact h.nextEvent_opOrEnd

protected theorem Canonical.retireN {n : Nat} {s : State} {c a : Nat} (h : Canonical s) : Canonical (retireN n s c a) := by
  induction n generalizing s with
  | zero => exact h
  | succ n ih =>
    rw [retireN]
    split
    · exact Canonical.onCore h
    · exact Canonical.ite (ih (Canonical.nextEvent h)) (Canonical.onCore h)

protected theorem Canonical.retire {s : State} {c a : Nat} (h : Canonical s) : Canonical (retire s c a) := h.retireN

protected theorem Canonical.tagIssue {s : State} {c word eng op status a planned o l : Nat} (h : Canonical s) :
    Canonical (tagIssue s c word eng op status a planned o l) := h.ite (h.onCore.ite (h.onCore.wr.ite h.onCore.storeAt.mk.inc))

protected theorem Canonical.noteLate {s : State} {c late : Nat} (h : Canonical s) : Canonical (noteLate s c late) := by
  unfold noteLate
  split
  · exact h.noteNd.ite h
  · exact h

protected theorem Canonical.goIssue {s : State} {c eng op word planned a : Nat} {r : Resolved} {p : Plan} (h : Canonical s) :
    Canonical (goIssue s c eng op word planned a r p) :=
  .tagIssue (.countCore (.countCore (.countCore (.noteLate (.ite (.mk (.onCore (h.foldl fun _ _ h => h.applyFx))) (.onCore
    (h.foldl fun _ _ h => h.applyFx)))))))

protected theorem Canonical.weigh {s : State} {c eng op word planned a : Nat} {r : Resolved} {p : Plan} (h : Canonical s) :
    Canonical (weigh s c eng op word planned a r p) := h.goIssue.ite h.faultBlock.tagIssue

protected theorem Canonical.meetOperand {c : Nat} {s : State} {a0 : Opd} (h : Canonical s) :
    Canonical (meetOperand c s a0) := by
  unfold meetOperand
  split
  · exact h.meet
  · exact h.meet
  · exact h.foldl fun _ _ h => h.meet
  · exact h

protected theorem Canonical.meetOperands {s : State} {c : Nat} {l : List Opd} (h : Canonical s) :
    Canonical (meetOperands s c l) := h.ite (h.foldl fun _ _ h => h.meetOperand)

protected theorem Canonical.issueNative {s : State} {c eng op : Nat} {x : XIns} {os : List Opnd}
    {plan : State → Nat → List Opd → Plan} (h : Canonical s) :
    Canonical (issueNative s c eng op x os plan) := by
  unfold issueNative
  split
  · exact h
  · exact h.ite (h.faultBlock.ite (by
      dsimp only
      split
      · exact h.onCore
      · exact h.retire.meetOperands.ite h.retire.meetOperands.weigh))

protected theorem Canonical.c2Fail {s : State} {c q code a : Nat} (h : Canonical s) : Canonical (c2Fail s c q code a) := by
  unfold c2Fail
  exact h.noteFault.onCore

protected theorem Canonical.issueC2 {s : State} {c eng op : Nat} {os : List Opnd} {plan : State → Nat → List Opd → Plan}
    (h : Canonical s) :
    Canonical (issueC2 s c eng op os plan) :=
  h.ite (h.c2Fail.ite (h.ite (by
    dsimp only
    split
    · exact h.inc.noteFault.onCore.ite h.onCore
    · exact h.onCore.ite (h.retire.meetOperands.onCore.goIssue.ite h.retire.meetOperands.c2Fail))))

protected theorem Canonical.issue {s : State} {c eng op : Nat} {x : XIns} {os : List Opnd}
    {plan : State → Nat → List Opd → Plan} (h : Canonical s) :
    Canonical (issue s c eng op x os plan) := h.ite (h.issueC2.ite h.issueNative)

protected theorem Canonical.startBlock {s : State} {c w b0 : Nat} (h : Canonical s) : Canonical (startBlock s c w b0) := by
  unfold startBlock
  exact h.onCore

protected theorem Canonical.startPending {s : State} {c e : Nat} (h : Canonical s) : Canonical (startPending s c e) := by
  unfold startPending
  dsimp only
  split
  · exact h
  · exact h.onCore.startBlock.ite h.onCore.noteFault.onCore

protected theorem Canonical.blockEnd {s : State} {c : Nat} (h : Canonical s) : Canonical (blockEnd s c) := by
  unfold blockEnd
  split
  · exact h
  · dsimp only
    split
    · exact h.retire.ite h
    · exact .ite (h.retire.ite h) (.startPending (.onCore (.ite (.noteFault (h.retire.ite h)) (h.retire.ite h))))

protected theorem Canonical.engineComplete {s : State} {c eng : Nat} (h : Canonical s) :
    Canonical (engineComplete s c eng) := by
  unfold engineComplete
  split
  · exact h
  · exact h.retire

/-! ### The definitions of `Machine/StreamCtl.lean` -/

protected theorem Canonical.control {s : State} {c op : Nat} {x : XIns} {early : Core → List Nat}
    {whenReady : Core → Nat → Option Nat} {plan : Core → Block → Nat → CtlPlan} (h : Canonical s) :
    Canonical (control s c op x early whenReady plan) := by
  unfold control
  split
  · exact h
  · exact h.ite (h.faultBlock.ite (by
      split
      · exact h.onCore
      · exact h.retire.ite (h.retire.onCore.noteLate.countCore.countCore.tagIssue.ite h.retire.faultBlock.tagIssue)))

protected theorem Canonical.controlC2 {s : State} {c op : Nat} {ok : Bool} {act : Core → Option Core} (h : Canonical s) :
    Canonical (controlC2 s c op ok act) := by
  unfold controlC2
  dsimp only
  split
  · exact h
  · exact h.c2Fail.ite (.ite (by
      split
      · exact h.setCore
      · exact h.onCore) h.noteFault.onCore)

protected theorem Canonical.controlOf {s : State} {c : Nat} {native c2 : State} (hs : Canonical s) (hnative : Canonical native)
    (hc2 : Canonical c2) :
    Canonical (controlOf s c native c2) := hs.ite (hc2.ite hnative)

protected theorem Canonical.nop {s : State} {c : Nat} {x : XIns} (h : Canonical s) : Canonical (nop s c x) :=
  h.controlOf h.control h.controlC2

protected theorem Canonical.waitN {s : State} {c : Nat} {x : XIns} (h : Canonical s) : Canonical (waitN s c x) :=
  h.controlOf h.control h.controlC2

protected theorem Canonical.loopOp {s : State} {c : Nat} {x : XIns} (h : Canonical s) : Canonical (loopOp s c x) :=
  h.controlOf h.control h.controlC2

protected theorem Canonical.push {s : State} {c : Nat} {x : XIns} (h : Canonical s) : Canonical (push s c x) :=
  h.controlOf h.control h.controlC2

protected theorem Canonical.pushK {s : State} {c : Nat} {x : XIns} (h : Canonical s) : Canonical (pushK s c x) :=
  h.controlOf h.control h.controlC2

protected theorem Canonical.popK {s : State} {c : Nat} {x : XIns} (h : Canonical s) : Canonical (popK s c x) :=
  h.controlOf h.control h.controlC2

protected theorem Canonical.freeTile {s : State} {c : Nat} {x : XIns} (h : Canonical s) : Canonical (freeTile s c x) :=
  h.controlOf h.control h.controlC2

protected theorem Canonical.badWord {s : State} {c : Nat} (h : Canonical s) : Canonical (badWord s c) := by
  unfold badWord
  split
  · exact h
  · exact h.ite h.retire.faultBlock

protected theorem Canonical.endExecute {s : State} {c : Nat} {x : XIns} (h : Canonical s) : Canonical (endExecute s c x) :=
  h.controlOf (h.badWord.ite h.control) h.controlC2

/-! ### The definitions of `Machine/Au.lean` -/

protected theorem Canonical.sendWrites {s : State} {c id : Nat} {l : List (Nat × Nat × List Byte)} (h : Canonical s) :
    Canonical (sendWrites s c id l) := h.foldl fun _ _ h => h.request

protected theorem Canonical.sendReads {s : State} {c id : Nat} {l : List Placed} (h : Canonical s) :
    Canonical (sendReads s c id l) := h.foldl fun _ _ h => h.request

protected theorem Canonical.moveAll {s : State} {c : Nat} {x : Xfer} {a : Nat} {l : List Placed} (h : Canonical s) :
    Canonical (moveAll s c x a l).1 :=
  .sendReads (.sendWrites (.ite_fst (.putAll (h.setCore.foldl fun _ _ h => .meet (h.ite h.settleMem))) (h.setCore.foldl
    fun _ _ h => .meet (h.ite h.settleMem))))

protected theorem Canonical.holdXfer {s : State} {c : Nat} {x : Xfer} {p : Placed} (h : Canonical s) :
    Canonical (holdXfer s c x p).1 := by
  unfold holdXfer
  dsimp only
  split
  · exact h.putAll.wr.wr.wr.wr.wr.wr.inc.postEvent
  · exact h.putAll.wr.wr.wr.wr.wr.wr.inc

protected theorem Canonical.moveXfer {s : State} {c : Nat} {x : Xfer} {a : Nat} (h : Canonical s) :
    Canonical (moveXfer s c x a).1 :=
  .ite_fst (by
    split
    · exact h
    · exact .ite_fst (.holdXfer h) h) (by
    dsimp only
    split
    · exact .moveAll h
    · exact .ite_fst (.holdXfer (.moveAll h)) (.moveAll h))

theorem goes_AuRes_bad {code : Nat} : (AuRes.bad code).Keeps := goes_fault

protected theorem Canonical.auNative {s : State} {c : Nat} {early : Core → List Nat} {ready : Core → Nat → Option Nat}
    {body : State → Nat → Nat → AuRes} (h : Canonical s) (goes : ∀ s a w, Canonical s → (body s a w).Keeps) :
    Canonical (auNative s c early ready body) := by
  unfold auNative
  split
  · exact h
  · refine Canonical.ite h (Canonical.ite (Canonical.faultBlock h) ?_)
    split
    · exact Canonical.onCore h
    · rename_i a _
      refine Canonical.ite (Canonical.retire h) ?_
      split
      · exact Canonical.onCore (Canonical.retire h)
      · exact Canonical.faultBlock (Canonical.retire h)
      · rename_i went
        exact Canonical.onCore (canonical_of_goes (went ▸ goes _ _ _ (Canonical.retire h)))

protected theorem Canonical.auC2 {s : State} {c op : Nat} {ok : Bool} {ready : Core → Nat → Option Nat}
    {body : State → Nat → Nat → AuRes} (h : Canonical s) (goes : ∀ s a w, Canonical s → (body s a w).Keeps) :
    Canonical (auC2 s c op ok ready body) := by
  unfold auC2
  split
  · exact h
  · refine Canonical.ite h (Canonical.ite (Canonical.onCore (Canonical.noteFault h)) ?_)
    split
    · exact Canonical.onCore h
    · dsimp only
      split
      · exact Canonical.onCore (Canonical.retire h)
      · exact Canonical.onCore (Canonical.noteFault (Canonical.retire h))
      · rename_i went
        exact Canonical.onCore (canonical_of_goes (went ▸ goes _ _ _ (Canonical.retire h)))

protected theorem Canonical.auIssue {s : State} {c op : Nat} {ok : Bool} {early : Core → List Nat}
    {ready : Core → Nat → Option Nat}
    {body : State → Nat → Nat → AuRes} (h : Canonical s) (goes : ∀ s a w, Canonical s → (body s a w).Keeps) :
    Canonical (auIssue s c op ok early ready body) :=
  Canonical.ite h (Canonical.ite (Canonical.auC2 h goes) (Canonical.auNative h goes))

theorem goes_launch {s : State} {c : Nat} {x : Xfer} {after : Core → Core} (h : Canonical s) : (launch s c x after).Keeps :=
  goes_ite goes_bad (goes_go h.moveXfer.onCore)

protected theorem Canonical.loadEnd {s : State} {c : Nat} {x : Xfer} {beats : Nat} (h : Canonical s) :
    Canonical (loadEnd s c x beats) :=
  h.onCore.ite (by
    split
    · exact h.retire.finishLoad.ite h.retire
    · exact h.retire)

protected theorem Canonical.storeEnd {s : State} {c : Nat} {x : Xfer} {beats : Nat} (h : Canonical s) :
    Canonical (storeEnd s c x beats) :=
  .ite (by
    split
    · exact .finishStore (h.ite h.retire)
    · exact h.ite h.retire) h.retire

protected theorem Canonical.arrival {s : State} {x : Nat} {a : Arrival} {f : State → State} (h : Canonical s) (hf : ∀
    (a : State), Canonical a → Canonical (f a)) :
    Canonical (arrival s x a f) := h.workReaches.workReaches.awaitSector.ite (hf _ h.workReaches.workReaches)

protected theorem Canonical.resumeXfer {s : State} {c id : Nat} (h : Canonical s) : Canonical (resumeXfer s c id) := by
  unfold resumeXfer
  split
  · exact h
  · split
    · exact h
    · exact h.ite (h.moveXfer.putAll.endXfer.ite h.moveXfer.onCore)

/-! ### The definitions of `Machine/AccessStream.lean` -/

protected theorem Canonical.ldt {s : State} {c : Nat} {a : AIns} (h : Canonical s) : Canonical (ldt s c a) :=
  h.auIssue (fun _ _ _ h => goes_ite goes_bad (by
    split
    · exact goes_wait
    · exact goes_ite goes_wait (goes_ite (by
        split
        · exact goes_fault
        · exact goes_bad) (by
        split
        · exact goes_fault
        · exact goes_launch h))))

protected theorem Canonical.stt {s : State} {c : Nat} {a : AIns} (h : Canonical s) : Canonical (stt s c a) :=
  h.auIssue (fun _ _ _ h => by
    dsimp only
    split
    · exact goes_wait
    · exact goes_ite goes_bad (goes_ite goes_wait (by
        split
        · exact goes_fault
        · exact goes_ite goes_bad (goes_launch h))))

protected theorem Canonical.cpy {s : State} {c : Nat} {a : AIns} (h : Canonical s) : Canonical (cpy s c a) :=
  h.auIssue (fun _ _ _ h => goes_ite goes_wait (goes_ite goes_bad (goes_launch h)))

protected theorem Canonical.tok {s : State} {c : Nat} {a : AIns} (h : Canonical s) : Canonical (tok s c a) :=
  h.auIssue (fun _ _ _ h => goes_go h.onCore)

protected theorem Canonical.wtok {s : State} {c : Nat} {a : AIns} (h : Canonical s) : Canonical (wtok s c a) :=
  h.auIssue (fun _ _ _ h => goes_ite (goes_go h.onCore) goes_bad)

protected theorem Canonical.accessLoop {s : State} {c : Nat} {a : AIns} (h : Canonical s) : Canonical (accessLoop s c a) :=
  h.auIssue (fun _ _ _ h => by
    dsimp only
    split
    · exact goes_wait
    · exact goes_ite goes_bad (goes_go h.onCore))

protected theorem Canonical.accessEnd {s : State} {c : Nat} {a0 : AIns} (h : Canonical s) : Canonical (accessEnd s c a0) :=
  h.auIssue (fun _ _ _ h => goes_ite goes_bad (goes_go h.onCore))

protected theorem Canonical.ldtComplete {s : State} {c id beats : Nat} (h : Canonical s) :
    Canonical (ldtComplete s c id beats) := by
  unfold ldtComplete
  split
  · exact h
  · exact h.ite (h.loadEnd.ite h)

/-! ### The definitions of `Machine/Lacing.lean` -/

protected theorem Canonical.setLace {s : State} {r : Nat} {v : Lace} (h : Canonical s) : Canonical (setLace s r v) := h.mk

protected theorem Canonical.copyMarked {s : State} {src dst n : Nat} (h : Canonical s) : Canonical (copyMarked s src dst n) :=
  h.wrBytes.foldl fun _ _ h => h.mark.ite h

protected theorem Canonical.noteRounds {s : State} {r : Nat} (h : Canonical s) : Canonical (noteRounds s r) := by
  unfold noteRounds
  dsimp only
  split
  · exact h.wr.wr
  · exact h.wr

protected theorem Canonical.passUnit {s : State} {r i : Nat} {u : LaceUnit} {offered rounds : Nat} (h : Canonical s) :
    Canonical (passUnit s r i u offered rounds) :=
  h.setLace.ite (by
    dsimp only
    split
    · exact h
    · exact .setLace (h.copyMarked.copyMarked.ite h.copyMarked))

protected theorem Canonical.ringForward {s : State} {r i : Nat} (h : Canonical s) : Canonical (ringForward s r i) :=
  h.ite (by
    split
    · exact h
    · exact h.ite (h.passUnit.noteRounds.ite (h.setLace.noteRounds.ite h.passUnit.noteRounds)))

protected theorem Canonical.startRing {s : State} (h : Canonical s) : Canonical (startRing s) := h.wr.ite h.setLace.wr.wr.wr

protected theorem Canonical.fillUnit {s : State} {l : Lace} {m : Member} {u : LaceUnit} (h : Canonical s) :
    Canonical (fillUnit s l m u) :=
  .ite (by
    split
    · exact h
    · exact h.copyMarked.copyMarked) h.copyMarked

protected theorem Canonical.ringFillDone {s : State} {r : Nat} (h : Canonical s) : Canonical (ringFillDone s r) :=
  h.ite (h.wr.ite (.wr (h.foldl fun _ _ h => h.foldl fun _ _ h => h.fillUnit)))

protected theorem Canonical.stopRing {s : State} {r : Nat} (h : Canonical s) : Canonical (stopRing s r) := h.wr.wr.ite h.wr

theorem keeps_ringCmdSem : ringCmdSem.Keeps := keeps_command (fun _ _ _ h => h.startRing.ite h.stopRing)

protected theorem Canonical.laceStopSector {s : State} {x : Nat} (h : Canonical s) : Canonical (laceStopSector s x) :=
  h.foldl fun _ _ h => h.wr.ite h

protected theorem Canonical.rjoin {s : State} {c : Nat} {a : AIns} (h : Canonical s) : Canonical (rjoin s c a) :=
  h.auIssue (fun _ _ _ h => goes_ite goes_bad (by
    split
    · exact goes_go h.onCore
    · exact goes_bad))

theorem goes_onHold {s : State} {c : Nat} {a : AIns} {f : RingHold → AuRes} (goes : ∀ v, (f v).Keeps) : (onHold s c a f).Keeps
    := by
  unfold onHold
  split
  · exact goes_bad
  · exact goes_ite goes_bad (goes _)

protected theorem Canonical.rewind {s : State} {c h : Nat} (hs : Canonical s) : Canonical (rewind s c h) := hs.onCore

protected theorem Canonical.passUnits {s : State} {c : Nat} {a : AIns} (h : Canonical s) : Canonical (passUnits s c a) :=
  h.ite (by
    split
    · exact h.ite h.setCore
    · exact h)

protected theorem Canonical.rnext {s : State} {c : Nat} {a : AIns} (h : Canonical s) : Canonical (rnext s c a) :=
  h.passUnits.auIssue (fun _ _ _ h => goes_onHold (fun _ => by
    dsimp only
    split
    · exact goes_wait
    · exact goes_go h.onCore.rewind.onCore))

protected theorem Canonical.rdone {s : State} {c : Nat} {a : AIns} (h : Canonical s) : Canonical (rdone s c a) :=
  h.auIssue (fun _ _ _ h => goes_onHold (fun _ => goes_go h.onCore))

protected theorem Canonical.rleave {s : State} {c : Nat} {a : AIns} (h : Canonical s) : Canonical (rleave s c a) :=
  h.auIssue (fun _ _ _ h => goes_onHold (fun _ => goes_go h.onCore))

/-! ### The definitions of `Machine/Adder.lean` -/

protected theorem Canonical.noteLine {s : State} {a : Nat} {key : Option (Nat × Nat × Nat)} (h : Canonical s) :
    Canonical (noteLine s a key) := h.mk

protected theorem Canonical.applyAdd {s : State} {u : HeldAdd} {q : Nat} {ecc : Ecc} (h : Canonical s) :
    Canonical (applyAdd s u q ecc) := h.noteEcc.ite h.noteEcc.hbmStore.noteLine.countDev

protected theorem Canonical.noteHeld {s : State} {held : List HeldAdd} (h : Canonical s) : Canonical (noteHeld s held) :=
  h.mk.wr

protected theorem Canonical.adderUpdate {s : State} {u : HeldAdd} {q : Nat} {wantOld : Bool} {ecc : Ecc} (h : Canonical s) :
    Canonical (adderUpdate s u q wantOld ecc).1 :=
  h.ite_fst (h.noteHeld.ite_fst (.ite (.noteNd (.applyAdd (h.inc.ite h))) (.applyAdd (h.inc.ite h))))

protected theorem Canonical.adderRequest {s : State} {u : AddUpdate} (h : Canonical s) : Canonical (adderRequest s u) :=
  h.answerStatus.ite (h.answerStatus.ite (h.answerStatus.ite h.adderUpdate.answerStatus))

protected theorem Canonical.flushHeld {s : State} {f : HeldAdd → Bool} (h : Canonical s) : Canonical (flushHeld s f) :=
  h.noteHeld.foldl fun _ _ h => h.applyAdd

protected theorem Canonical.flushPart {s : State} {p : Nat} (h : Canonical s) : Canonical (flushPart s p) := h.flushHeld

theorem keeps_ordFlushSem : ordFlushSem.Keeps := keeps_command (fun _ _ _ h => h.flushPart)

protected theorem Canonical.heldLost {s : State} (h : Canonical s) : Canonical (heldLost s) := h.mk.incBy.noteHeld

/-! ### The definitions of `Machine/Rings.lean` -/

protected theorem Canonical.unitStore {s : State} {x p : Nat} {g : Option Nat} {k : Nat} {d : List Byte} (h : Canonical s) :
    Canonical (unitStore s x p g k d).1 :=
  .ite_fst (h.ite_fst h.request) (h.ite_fst (by
    dsimp only
    split
    · exact .groupStore (h.noteLanded.ite h)
    · exact .storeAt (h.noteLanded.ite h)))

protected theorem Canonical.vaWrite {s : State} {x p : Nat} {g : Option Nat} {va : Nat} {d : List Byte} (h : Canonical s) :
    Canonical (vaWrite s x p g va d).1 := h.ite_fst (h.foldl_fst fun _ _ h => h.unitStore)

protected theorem Canonical.setRing {s : State} {x k : Nat} {v : Ring} (h : Canonical s) : Canonical (setRing s x k v) :=
  h.setSector

protected theorem Canonical.mirrorEntry {s : State} {x k e : Nat} {r : List Byte} (h : Canonical s) :
    Canonical (mirrorEntry s x k e r) := h.ite (h.inc.ite h.emit)

protected theorem Canonical.postCompletion {s : State} {x k : Nat} {r : List Byte} (h : Canonical s) :
    Canonical (postCompletion s x k r) := h.setRing.ite h.postEntry.mirrorEntry.signalVector

protected theorem Canonical.finishWith {s : State} {x k : Nat} {t : Taken} {r extra : List Byte} (h : Canonical s) :
    Canonical (finishWith s x k t r extra) :=
  .postCompletion (.ite (.mk (by
    split
    · exact h.setRing
    · exact h.setRing.ite h.setRing.vaWrite)) (by
    split
    · exact h.setRing
    · exact h.setRing.ite h.setRing.vaWrite))

protected theorem Canonical.finishProv {s : State} {x k : Nat} {t : Taken} {status : Nat} {r tail : List Byte} (h : Canonical s)
    :
    Canonical (finishProv s x k t status r tail) := h.finishWith

protected theorem Canonical.finishPlain {s : State} {x k : Nat} {t : Taken} {status : Nat} (h : Canonical s) :
    Canonical (finishPlain s x k t status) := h.mk.finishWith

protected theorem Canonical.noteHeFault {s : State} {x : Nat} {t : Taken} {status faults : Nat} (h : Canonical s) :
    Canonical (noteHeFault s x t status faults) := h.inc.wr.wr.wr.wr.wr.wr

protected theorem Canonical.forwardInput {s : State} {kind : Nat} {d : List Byte} (h : Canonical s) :
    Canonical (forwardInput s kind d) := h.emit.ite h

protected theorem Canonical.takeRecord {s : State} {x k : Nat} {r : List Byte} (h : Canonical s) :
    Canonical (takeRecord s x k r) :=
  h.setRing.finishPlain.ite (h.setRing.finishPlain.ite (h.setRing.ite (.finishPlain (h.setRing.noteHeFault.ite h.setRing))))

protected theorem Canonical.ringSlotTake {s : State} {x k : Nat} (h : Canonical s) : Canonical (ringSlotTake s x k) :=
  h.ite h.wrNat.forwardInput.takeRecord

protected theorem Canonical.releaseHeld {n : Nat} {s : State} {x k : Nat} (h : Canonical s) : Canonical (releaseHeld n s x k) :=
    by
  induction n generalizing s with
  | zero => exact h
  | succ n ih =>
    rw [releaseHeld]
    split
    · exact h
    · exact Canonical.ite h (ih (Canonical.setRing (Canonical.postCompletion (Canonical.setRing h))))

protected theorem Canonical.completionRelease {s : State} {x k : Nat} (h : Canonical s) : Canonical (completionRelease s x k) :=
  h.releaseHeld.ite h

protected theorem Canonical.setTaken {s : State} {x k : Nat} {t v : Taken} (h : Canonical s) : Canonical (setTaken s x k t v) :=
  h.setRing

/-! ### The definitions of `Machine/Stitch.lean` -/

protected theorem Canonical.sgOpen {s : State} {x k : Nat} {t : Taken} (h : Canonical s) : Canonical (sgOpen s x k t) :=
  h.finishPlain.ite (h.finishPlain.ite (h.finishPlain.ite h.mk.noteGroups.finishPlain))

protected theorem Canonical.sgBind {s : State} {x k : Nat} {t : Taken} (h : Canonical s) : Canonical (sgBind s x k t) :=
  h.finishPlain.ite (h.finishPlain.ite (h.finishPlain.ite h.setGroup.finishPlain))

protected theorem Canonical.finishCommit {s : State} {w : Option (Nat × Nat)} {i st : Nat} (h : Canonical s) :
    Canonical (finishCommit s w i st) := by
  unfold finishCommit
  split
  · exact h
  · split
    · exact h.finishPlain
    · exact h

protected theorem Canonical.abortGroup {s : State} {i code cause : Nat} (h : Canonical s) :
    Canonical (abortGroup s i code cause) := by
  unfold abortGroup
  split
  · exact h
  · exact h.ite h.failGroup.finishCommit

protected theorem Canonical.tryCommit {s : State} {i : Nat} (h : Canonical s) : Canonical (tryCommit s i) := by
  unfold tryCommit
  split
  · exact h
  · exact h.ite (h.resolveGroup.finishCommit.ite h.mk.setGroup)

protected theorem Canonical.settleGroups {s : State} (h : Canonical s) : Canonical (settleGroups s) :=
  .foldl (h.foldl fun _ _ h => h.tryCommit.ite h) fun _ _ h => h.foldl fun _ _ h => h.foldl fun _ _ h => .ite (by
    split
    · exact h.finishPlain
    · exact h) h

protected theorem Canonical.sgCommit {s : State} {x k : Nat} {t : Taken} (h : Canonical s) : Canonical (sgCommit s x k t) :=
  h.finishPlain.ite (h.finishPlain.ite h.setTaken.setGroup.tryCommit)

protected theorem Canonical.sgAbort {s : State} {x k : Nat} {t : Taken} (h : Canonical s) : Canonical (sgAbort s x k t) :=
  h.finishPlain.ite (h.finishPlain.ite h.abortGroup.finishPlain)

theorem keeps_sgAbortSem : sgAbortSem.Keeps := keeps_mk (keeps_command (fun _ _ _ h => h.abortGroup))

protected theorem Canonical.fillQuery {s : State} {i : Nat} (h : Canonical s) : Canonical (fillQuery s i) :=
  h.wr.wr.wr.wr.wr.wr.wr

theorem keeps_sgqSem : sgqSem.Keeps := keeps_of_eff fun _ _ _ h => h.wr.fillQuery

protected theorem Canonical.joinRegion {s : State} {c k : Nat} (h : Canonical s) : Canonical (joinRegion s c k) :=
  h.ite h.setCore.zeroFill

protected theorem Canonical.setPool {x : Nat} {s : State} {v : Nat} (h : Canonical s) : Canonical (setPool x s v) :=
  h.wr.foldl fun _ _ h => h.foldl fun _ _ h => h.joinRegion.ite h

theorem keeps_poolSem {x : Nat} : (poolSem x).Keeps := keeps_of_eff fun _ _ _ h => h.setPool

protected theorem Canonical.dropSector {s : State} {o : Option Nat} {i x : Nat} (h : Canonical s) :
    Canonical (dropSector s o i x) := h.setGroup

protected theorem Canonical.groupsSectorReset {s : State} {x : Nat} (h : Canonical s) : Canonical (groupsSectorReset s x) :=
  .noteGroups (h.foldl fun _ _ h => h.ite (.ite (by
    split
    · exact h.failGroup.finishCommit
    · exact h.failGroup) (by
    dsimp only
    split
    · exact h.dropSector.sendNotice.ite h.dropSector
    · exact h.dropSector)))

/-! ### The definitions of `Machine/CoreStart.lean` -/

protected theorem Canonical.drawBlock {s : State} (h : Canonical s) : Canonical (drawBlock s).1 := h.mk

protected theorem Canonical.drawBytes {n : Nat} {s : State} (h : Canonical s) : Canonical (drawBytes n s).1 := by
  induction n generalizing s with
  | zero => exact h
  | succ n ih => exact ih (Canonical.drawBlock h)

protected theorem Canonical.noiseKey {s : State} {c : Nat} (h : Canonical s) : Canonical (noiseKey s c).1 := by
  unfold noiseKey
  dsimp only
  split
  · exact h.mk
  · split
    · exact h.mk.inc
    · exact h.drawBlock

protected theorem Canonical.startCore {s : State} {c entry : Nat} (h : Canonical s) : Canonical (startCore s c entry) := by
  unfold startCore
  exact h.noiseKey.forwardInput.onCore

protected theorem Canonical.settleStart {s : State} {x k : Nat} {t : Taken} (h : Canonical s) :
    Canonical (settleStart s x k t) := h.ite (h.finishPlain.ite h.mk.finishProv)

protected theorem Canonical.settleStarts {s : State} {x : Nat} (h : Canonical s) : Canonical (settleStarts s x) :=
  h.foldl fun _ _ h => h.foldl fun _ _ h => h.settleStart

protected theorem Canonical.haltCore {s : State} {c st : Nat} (h : Canonical s) : Canonical (haltCore s c st) :=
  h.flush.onCore.leaveAborted.settleGroups.settleStarts

protected theorem Canonical.pmWrite {s : State} {c bank off : Nat} {d : List Byte} (h : Canonical s) :
    Canonical (pmWrite s c bank off d).1 := h.inc.ite_fst h.wrBytes

protected theorem Canonical.haltFault {s : State} {c code a : Nat} (h : Canonical s) : Canonical (haltFault s c code a) :=
  h.noteFault.haltCore

protected theorem Canonical.stopCore {s : State} {c st : Nat} (h : Canonical s) : Canonical (stopCore s c st) :=
  h.ite (by
    split
    · exact h.haltCore
    · exact h.onCore)

protected theorem Canonical.blockEndOrHalt {s : State} {c : Nat} (h : Canonical s) : Canonical (blockEndOrHalt s c) := by
  unfold blockEndOrHalt
  dsimp only
  split
  · exact h.blockEnd.haltCore
  · exact h.blockEnd

/-! ### The definitions of `Machine/Control.lean` -/

protected theorem Canonical.controlCore {s : State} {c : Nat} {f : Core → Nat → State} (h : Canonical s) (hf : ∀ (a : Core)
    (a_1 : Nat), Canonical (f a a_1)) :
    Canonical (controlCore s c f) := h.ite (h.haltFault.ite (hf _ _))

protected theorem Canonical.hold {s : State} {c : Nat} (h : Canonical s) : Canonical (hold s c) := h.onCore

protected theorem Canonical.movi {s : State} {c : Nat} {i : CIns} (h : Canonical s) : Canonical (movi s c i) :=
  h.controlCore (fun _ _ => h.setCore)

protected theorem Canonical.addi {s : State} {c : Nat} {i : CIns} (h : Canonical s) : Canonical (addi s c i) :=
  h.controlCore (fun _ _ => h.setCore)

protected theorem Canonical.alu {s : State} {c : Nat} {i : CIns} (h : Canonical s) : Canonical (alu s c i) :=
  h.controlCore (fun _ _ => h.setCore)

protected theorem Canonical.bcc {s : State} {c : Nat} {i : CIns} (h : Canonical s) : Canonical (bcc s c i) :=
  h.controlCore (fun _ _ => h.haltFault.ite (h.setCore.ite h.setCore))

protected theorem Canonical.brf {s : State} {c : Nat} {i : CIns} (h : Canonical s) : Canonical (brf s c i) :=
  h.controlCore (fun _ _ => h.setCore.ite h.setCore)

protected theorem Canonical.jmp {s : State} {c : Nat} {i : CIns} (h : Canonical s) : Canonical (jmp s c i) :=
  h.controlCore (fun _ _ => h.setCore)

protected theorem Canonical.ldx {s : State} {c : Nat} {i : CIns} (h : Canonical s) : Canonical (ldx s c i) :=
  h.controlCore (fun _ _ => h.haltCore.ite (h.retire.meet.haltCore.ite h.retire.meet.onCore))

protected theorem Canonical.stx {s : State} {c : Nat} {i : CIns} (h : Canonical s) : Canonical (stx s c i) :=
  h.controlCore (fun _ _ => h.haltCore.ite (h.retire.coreStore.haltCore.ite h.retire.onCore))

protected theorem Canonical.runNow {s : State} {c w a : Nat} (h : Canonical s) : Canonical (runNow s c w a) :=
  h.startBlock.ite h.noteFault.onCore

protected theorem Canonical.runBlock {s : State} {c f xa xb : Nat} (h : Canonical s) : Canonical (runBlock s c f xa xb) :=
  h.controlCore (fun _ _ => h.noteFault.onCore.ite (h.hold.ite (h.onCore.ite h.runNow.onCore)))

protected theorem Canonical.runb {s : State} {c : Nat} {i : CIns} (h : Canonical s) : Canonical (runb s c i) := h.runBlock

protected theorem Canonical.runc {s : State} {c : Nat} {i : CIns} (h : Canonical s) : Canonical (runc s c i) := h.runBlock

protected theorem Canonical.waitb {s : State} {c : Nat} {i : CIns} (h : Canonical s) : Canonical (waitb s c i) :=
  h.controlCore (fun _ _ => by
    split
    · exact h.setCore
    · exact h.hold.ite h.setCore)

protected theorem Canonical.betweenBlocks {s : State} {c : Nat} {f : Core → Nat → State} (h : Canonical s) (hf : ∀ (a : Core)
    (a_1 : Nat), Canonical (f a a_1)) :
    Canonical (betweenBlocks s c f) := h.controlCore (fun _ _ => h.hold.ite (hf _ _))

protected theorem Canonical.setlc {s : State} {c : Nat} {i : CIns} (h : Canonical s) : Canonical (setlc s c i) :=
  h.betweenBlocks (fun _ _ => h.setCore)

protected theorem Canonical.getlc {s : State} {c : Nat} {i : CIns} (h : Canonical s) : Canonical (getlc s c i) :=
  h.controlCore (fun _ _ => h.setCore)

protected theorem Canonical.setcmp {s : State} {c : Nat} {i : CIns} (h : Canonical s) : Canonical (setcmp s c i) :=
  h.betweenBlocks (fun _ _ => h.haltFault.ite h.setCore)

protected theorem Canonical.getvs {s : State} {c : Nat} {i : CIns} (h : Canonical s) : Canonical (getvs s c i) :=
  h.controlCore (fun _ _ => h.setCore)

protected theorem Canonical.ldpm {s : State} {c : Nat} {i : CIns} (h : Canonical s) : Canonical (ldpm s c i) :=
  h.controlCore (fun _ _ => h.setCore.ite (h.setCore.ite h.setCore))

protected theorem Canonical.ldpmDone {s : State} {c beats : Nat} (h : Canonical s) : Canonical (ldpmDone s c beats) := by
  unfold ldpmDone
  dsimp only
  split
  · exact h
  · exact h.ite (.onCore (.wrBytes (h.foldl fun _ _ h => h.settleMem.meet)))

protected theorem Canonical.swap {s : State} {c : Nat} {i : CIns} (h : Canonical s) : Canonical (swap s c i) :=
  h.betweenBlocks (fun _ _ => h.setCore.ite h.setCore)

protected theorem Canonical.pmwait {s : State} {c : Nat} {i : CIns} (h : Canonical s) : Canonical (pmwait s c i) :=
  h.controlCore (fun _ _ => h.hold.ite h.setCore)

protected theorem Canonical.enq {s : State} {c : Nat} {i : CIns} (h : Canonical s) : Canonical (enq s c i) :=
  h.controlCore (fun _ _ => h.haltFault.ite (h.hold.ite h.setCore))

protected theorem Canonical.waite {s : State} {c : Nat} {i : CIns} (h : Canonical s) : Canonical (waite s c i) :=
  h.controlCore (fun _ _ => h.haltFault.ite (h.hold.ite h.retire.onCore))

protected theorem Canonical.halt {s : State} {c : Nat} {i : CIns} (h : Canonical s) : Canonical (halt s c i) :=
  h.controlCore (fun _ _ => h.haltFault.ite (h.hold.ite h.haltCore))

/-! ### The definitions of `Machine/Package.lean` -/

protected theorem Canonical.noteReleases {s : State} (h : Canonical s) : Canonical (noteReleases s) := h.wr

protected theorem Canonical.setReleases {s : State} {l : List Release} (h : Canonical s) : Canonical (setReleases s l) :=
  h.mk.noteReleases

protected theorem Canonical.openPackage {s : State} {p kind a : Nat} (h : Canonical s) : Canonical (openPackage s p kind a).1 :=
  h.ite_fst (h.ite_fst (by
    split
    · exact h
    · dsimp only
      split <;> exact h.setReleases))

protected theorem Canonical.pkgEnd {s : State} {code : Nat} (h : Canonical s) : Canonical (pkgEnd s code) := h.mk.wr.wr

protected theorem Canonical.pkgStart {s : State} (h : Canonical s) : Canonical (pkgStart s) :=
  h.pkgEnd.ite (h.openPackage.pkgEnd.ite (h.openPackage.pkgEnd.ite h.openPackage.mk.wr.wr))

theorem keeps_pkgSem : pkgSem.Keeps := keeps_command (fun _ _ _ h => h.pkgStart)

theorem keeps_pkgEntrySem {k : Nat} : (pkgEntrySem k).Keeps := keeps_limited

protected theorem Canonical.pkgDone {s : State} (h : Canonical s) : Canonical (pkgDone s) := by
  unfold pkgDone
  split
  · exact h
  · exact h.vaWrite.pkgEnd

/-! ### The definitions of `Machine/Determinism.lean` -/

protected theorem Canonical.armReplay {s : State} {p : Nat} (h : Canonical s) : Canonical (armReplay s p) :=
  h.drawBytes.mk.wr.wr.wr.wr.wr

protected theorem Canonical.loadReplay {s : State} {p : Nat} (h : Canonical s) : Canonical (loadReplay s p) := by
  unfold loadReplay
  dsimp only
  split
  · exact h.openPackage.wr.wr
  · exact h.openPackage.wr.wr.ite h.openPackage.mk.wr.wr.wr.wr.wr

protected theorem Canonical.eraseSeed {s : State} {p : Nat} (h : Canonical s) : Canonical (eraseSeed s p) := h.mk.wr

protected theorem Canonical.nrCommand {s : State} {p v : Nat} (h : Canonical s) : Canonical (nrCommand s p v) :=
  h.wr.ite (h.wr.ite (by
    split
    · exact h.wr.ite h.armReplay
    · exact h.loadReplay
    · exact h.eraseSeed.wr))

theorem keeps_nrSem {p : Nat} : (nrSem p).Keeps := keeps_mk (keeps_command (fun _ _ _ h => h.nrCommand))

theorem keeps_auditorSem {p : Nat} : (auditorSem p).Keeps := keeps_limited

protected theorem Canonical.trngPass {s : State} (h : Canonical s) : Canonical (trngPass s) :=
  h.mk.wr.foldl fun _ _ h => h.nrCommand.ite h

theorem keeps_counterSem {k level : Nat} : (counterSem k level).Keeps := keeps_of_eff fun _ _ _ h => h.wr

protected theorem Canonical.clearHist {s : State} (h : Canonical s) : Canonical (clearHist s) := Canonical.filterDict h

theorem keeps_histSem : histSem.Keeps := keeps_command (fun _ _ _ h => h.clearHist.ite h.wr)

protected theorem Canonical.bwWindow {s : State} {tx rx : List Nat} (h : Canonical s) : Canonical (bwWindow s tx rx) :=
  .wr (h.foldl fun _ _ h => h.wr.wr)

theorem keeps_bwWindowSem : bwWindowSem.Keeps := keeps_limited

theorem keeps_tagSem {k : Nat} {r : Nat → Bool} : (tagSem k r).Keeps := keeps_limited

theorem keeps_tagRateSem : tagRateSem.Keeps := keeps_tagSem

theorem keeps_tagRecordsSem : tagRecordsSem.Keeps := keeps_tagSem

theorem keeps_tagEnableSem : tagEnableSem.Keeps := keeps_of_eff fun _ _ _ h => h.wr.wr

theorem keeps_provModeSem {p : Nat} : (provModeSem p).Keeps := keeps_limited

/-! ### The definitions of `Machine/Fabric.lean` -/

protected theorem Canonical.setPortWord {s : State} {p v : Nat} (h : Canonical s) : Canonical (setPortWord s p v) := h.wr

protected theorem Canonical.setState {s : State} {p v : Nat} (h : Canonical s) : Canonical (setState s p v) := h.setPortWord

protected theorem Canonical.setWidth {s : State} {p v : Nat} (h : Canonical s) : Canonical (setWidth s p v) := h.setPortWord

protected theorem Canonical.setFailed {s : State} {p v : Nat} (h : Canonical s) : Canonical (setFailed s p v) := h.setPortWord

protected theorem Canonical.setKeeper {s : State} {p v : Nat} (h : Canonical s) : Canonical (setKeeper s p v) := h.setPortWord

protected theorem Canonical.setBurn {s : State} {p v : Nat} (h : Canonical s) : Canonical (setBurn s p v) := h.setPortWord

protected theorem Canonical.setLane {s : State} {p k v : Nat} (h : Canonical s) : Canonical (setLane s p k v) := h.wr

protected theorem Canonical.setPath {s : State} {p d : Nat} {l : List Nat} (h : Canonical s) : Canonical (setPath s p d l) :=
  h.mk

protected theorem Canonical.computeRoute {s : State} {d : Nat} (h : Canonical s) : Canonical (computeRoute s d) :=
  h.setRoute.ite (h.setRoute.ite (h.setRoute.ite h.mk.setRoute))

protected theorem Canonical.advertise {s : State} {d : Nat} (h : Canonical s) : Canonical (advertise s d) :=
  h.ite (h.foldl fun _ _ h => h.emit)

protected theorem Canonical.routeChanged {s0 s : State} {d : Nat} (hs : Canonical s) : Canonical (routeChanged s0 s d) :=
  hs.computeRoute.wr.ite hs.computeRoute.wr.advertise

protected theorem Canonical.withdrawPort {s0 s : State} {p : Nat} (hs : Canonical s) : Canonical (withdrawPort s0 s p) :=
  hs.foldl fun _ _ h => h.setPath.routeChanged

protected theorem Canonical.advertiseTo {s : State} {p : Nat} (h : Canonical s) : Canonical (advertiseTo s p) :=
  h.ite (h.computeRoute.foldl fun _ _ h => h.ite h.emit)

protected theorem Canonical.takeAdvert {s : State} {p d : Nat} {path : List Nat} (h : Canonical s) :
    Canonical (takeAdvert s p d path) := h.ite h.setPath.routeChanged

protected theorem Canonical.stopBurnish {s : State} {p : Nat} (h : Canonical s) : Canonical (stopBurnish s p) := by
  unfold stopBurnish
  split
  · exact h
  · exact h.setLane.setKeeper.setPort.setBurn

protected theorem Canonical.dropLink {s : State} {p : Nat} (h : Canonical s) : Canonical (dropLink s p) :=
  .setPort (.stopBurnish (h.incBy.inc.ite h))

protected theorem Canonical.forgetNeighbour {s : State} {p : Nat} (h : Canonical s) : Canonical (forgetNeighbour s p) :=
  h.setPortWord.wr.ite h.setPortWord

protected theorem Canonical.portOut {s0 : State} {p st : Nat} (h : Canonical s0) : Canonical (portOut s0 p st) :=
  .withdrawPort (.setWidth (.setState (h.dropLink.forgetNeighbour.ite h.stopBurnish)))

protected theorem Canonical.portUp {s : State} {p : Nat} (h : Canonical s) : Canonical (portUp s p) :=
  h.ite h.setPortWord.setState

protected theorem Canonical.retrain {s : State} {p : Nat} (h : Canonical s) : Canonical (retrain s p) := h.portOut.ite h

protected theorem Canonical.presTrain {s : State} {p : Nat} (h : Canonical s) : Canonical (presTrain s p) :=
  h.setPortWord.setState.ite h.setPortWord

protected theorem Canonical.bindLanes {s : State} {p : Nat} (h : Canonical s) : Canonical (bindLanes s p) := by
  unfold bindLanes
  dsimp only
  split
  · exact h.setLane.setKeeper.ite h.setKeeper
  · exact h.setKeeper

protected theorem Canonical.portIn {s : State} {p : Nat} (h : Canonical s) : Canonical (portIn s p) :=
  .advertiseTo (.setPort (.setWidth (.setState (h.bindLanes.setKeeper.ite h.bindLanes))))

protected theorem Canonical.trainingDone {s : State} {p good : Nat} (h : Canonical s) : Canonical (trainingDone s p good) :=
  h.ite (h.setFailed.portIn.ite (h.setFailed.portOut.ite (h.setFailed.portOut.ite h.setFailed.setPort)))

protected theorem Canonical.burnishStart {s : State} {p : Nat} {matched : Bool} (h : Canonical s) :
    Canonical (burnishStart s p matched) := h.ite h.setLane.setKeeper.setBurn.setPort

protected theorem Canonical.burnishEnd {s : State} {p : Nat} (h : Canonical s) : Canonical (burnishEnd s p) :=
  h.ite h.setPort.setKeeper.setBurn

protected theorem Canonical.laneFail {s : State} {p l : Nat} (h : Canonical s) : Canonical (laneFail s p l) :=
  h.ite (.ite (.setFailed (h.setPort.setBurn.ite h.stopBurnish)) (.ite (.retrain (.setFailed (h.setPort.setBurn.ite
    h.stopBurnish))) (.ite (.setKeeper (.setWidth (.setFailed (h.setPort.setBurn.ite h.stopBurnish)))) (.ite (.setFailed
    (h.setPort.setBurn.ite h.stopBurnish)) (.bindLanes (.setFailed (h.setPort.setBurn.ite h.stopBurnish)))))))

protected theorem Canonical.takeHeader {s : State} {p : Nat} {f : Flit} (h : Canonical s) : Canonical (takeHeader s p f) :=
  .ite (h.setPort.inc.countDev.setPort.retrain.ite h.setPort.inc.countDev.setPort) h.setPort

protected theorem Canonical.flitReceive {s : State} {p : Nat} {f : Flit} (h : Canonical s) : Canonical (flitReceive s p f) :=
  h.ite (.ite (.ite (.takeHeader (h.countDev.inc.ite h.countDev)) (h.countDev.inc.ite h.countDev)) (.ite (.takeHeader (.setPort
    (h.countDev.inc.ite h.countDev))) (.setPort (h.countDev.inc.ite h.countDev))))

protected theorem Canonical.sendHello {s : State} {p : Nat} (h : Canonical s) : Canonical (sendHello s p) := h.sendFlits.emit

protected theorem Canonical.takeHello {s : State} {p : Nat} {h : HelloMsg} (hs : Canonical s) : Canonical (takeHello s p h) :=
  hs.ite (.ite (hs.wr.setPortWord.setState.withdrawPort.ite hs.wr.setPortWord) (hs.wr.setPortWord.setState.advertiseTo.ite
    hs.wr.setPortWord))

protected theorem Canonical.portCommand {p : Nat} {matched : Bool} {s : State} {v : Nat} (h : Canonical s) :
    Canonical (portCommand p matched s v) :=
  h.setPort.portUp.ite (h.setPort.portOut.ite (h.retrain.ite (h.burnishStart.ite h.retrain.setFailed)))

theorem keeps_portSem {p : Nat} {matched : Bool} : (portSem p matched).Keeps := keeps_command (fun _ _ _ h => h.portCommand)

protected theorem Canonical.portsOff {s : State} {d : Nat} (h : Canonical s) : Canonical (portsOff s d) :=
  h.foldl fun _ _ h => h.ite h.portOut

protected theorem Canonical.portsOn {s : State} {d : Nat} (h : Canonical s) : Canonical (portsOn s d) :=
  h.foldl fun _ _ h => h.portUp.ite h

protected theorem Canonical.portsDisable {s : State} (h : Canonical s) : Canonical (portsDisable s) :=
  h.foldl fun _ _ h => h.portsOff

protected theorem Canonical.portStalled {s : State} {p : Nat} (h : Canonical s) : Canonical (portStalled s p) := h.ite h.portOut

protected theorem Canonical.refreshCables {s : State} (h : Canonical s) : Canonical (refreshCables s) :=
  h.foldl fun _ _ h => h.setPortWord

protected theorem Canonical.routeCommand {s : State} {v : Nat} (h : Canonical s) : Canonical (routeCommand s v) :=
  h.wr.wr.ite (h.wr.ite (h.setRoute.wr.ite h.setRoute.routeChanged.wr))

theorem keeps_routeSem : routeSem.Keeps := keeps_command (fun _ _ _ h => h.routeCommand)

protected theorem Canonical.packetForward {s : State} {port : Nat} {p : Packet} {ns : Nat} {free : List Nat} (h : Canonical s) :
    Canonical (packetForward s port p ns free) :=
  h.ite (h.inc.ite (by
    dsimp only
    split
    · exact h.inc
    · exact h.inc.ite (.emit (.sendFlits (h.noteNd.ite h)))))

protected theorem Canonical.vcEscape {s : State} {port : Nat} {p : Packet} (h : Canonical s) : Canonical (vcEscape s port p) :=
  h.ite (by
    split
    · exact h.inc
    · exact h.sendFlits.emit)

/-! ### The definitions of `Machine/OnChip.lean` -/

protected theorem Canonical.cmAttrWrite {s : State} {c v : Nat} (h : Canonical s) : Canonical (cmAttrWrite s c v) :=
  h.answerStatus.ite (.onCore (h.foldl fun _ _ h => h.zeroFill))

protected theorem Canonical.arise {s : State} {x : Nat} {l : List MemError} (h : Canonical s) : Canonical (arise s x l) :=
  h.foldl fun _ _ h => h.addFlips

protected theorem Canonical.scrub {s : State} {x : Nat} (h : Canonical s) : Canonical (scrub s x) := h.meet

theorem keeps_scrubPeriodSem : scrubPeriodSem.Keeps := keeps_limited

theorem keeps_retainMaskSem {x : Nat} : (retainMaskSem x).Keeps := keeps_mk keeps_limited

/-! ### The definitions of `Machine/Host.lean` -/

protected theorem Canonical.bar2Refuse {s : State} {w : Bool} {n : Nat} (h : Canonical s) : Canonical (bar2Refuse s w n) :=
  h.inc.ite h.inc.answerStatus

protected theorem Canonical.bar2Access {s : State} {w : Bool} {o n : Nat} {d : List Byte} (h : Canonical s) :
    Canonical (bar2Access s w o n d) :=
  .ite (h.bar2Refuse.ite (h.wrBytes.ite h.answerStatus)) (h.bar2Refuse.ite (h.workReaches.wakeDomain.stall.ite
    (h.workReaches.forwardInput.hbmStore.ite h.workReaches.answerStatus)))

theorem keeps_bar2BaseSem : bar2BaseSem.Keeps := keeps_limited

protected theorem Canonical.holdoffEnd {s : State} {v : Nat} (h : Canonical s) : Canonical (holdoffEnd s v) :=
  h.mk.msixSend.ite h.mk

protected theorem Canonical.busMaster {s : State} {on : Bool} (h : Canonical s) : Canonical (busMaster s on) :=
  .ite (h.wr.mk.mk.foldl fun _ _ h => h.emit) h.wr.mk

protected theorem Canonical.stageStart {s : State} (h : Canonical s) : Canonical (stageStart s) := by
  unfold stageStart
  split
  · exact h.wr
  · exact h.wr.wr.wr.mk.wr

protected theorem Canonical.activate {s : State} (h : Canonical s) : Canonical (activate s) := h.wr.ite h.wr.wr.wr

theorem keeps_fwSem : fwSem.Keeps := keeps_command (fun _ _ _ h => h.stageStart.ite h.activate)

theorem keeps_fwEntrySem {k : Nat} : (fwEntrySem k).Keeps := keeps_limited

protected theorem Canonical.stageDone {s : State} {v : ImageVerdict} (h : Canonical s) : Canonical (stageDone s v) := by
  unfold stageDone
  split
  · exact h
  · exact h.mk.wrBytes.wr.wr.wr.wr.ite h.mk.wr.wr

/-! ### The definitions of `Machine/Pe.lean` -/

protected theorem Canonical.elem {e : ElemOp} {s : State} {c : Nat} {x : XIns} (h : Canonical s) : Canonical (elem e s c x) :=
  h.issue

protected theorem Canonical.ntt {s : State} {c : Nat} {x : XIns} (h : Canonical s) : Canonical (ntt s c x) := h.issue

protected theorem Canonical.intt {s : State} {c : Nat} {x : XIns} (h : Canonical s) : Canonical (intt s c x) := h.issue

protected theorem Canonical.aut {s : State} {c : Nat} {x : XIns} (h : Canonical s) : Canonical (aut s c x) := h.issue

protected theorem Canonical.autt {s : State} {c : Nat} {x : XIns} (h : Canonical s) : Canonical (autt s c x) := h.issue

protected theorem Canonical.gset {s : State} {c : Nat} {x : XIns} (h : Canonical s) : Canonical (gset s c x) := h.issue

protected theorem Canonical.ptl {s : State} {c : Nat} {x : XIns} (h : Canonical s) : Canonical (ptl s c x) := h.issue

protected theorem Canonical.kld {s : State} {c : Nat} {x : XIns} (h : Canonical s) : Canonical (kld s c x) := h.issue

protected theorem Canonical.twb {s : State} {c : Nat} {x : XIns} (h : Canonical s) : Canonical (twb s c x) := h.issue

protected theorem Canonical.encc {s : State} {c : Nat} {x : XIns} (h : Canonical s) : Canonical (encc s c x) := h.issue

protected theorem Canonical.encs {s : State} {c : Nat} {x : XIns} (h : Canonical s) : Canonical (encs s c x) := h.issue

protected theorem Canonical.encr {s : State} {c : Nat} {x : XIns} (h : Canonical s) : Canonical (encr s c x) := h.issue

/-! ### The definitions of `Machine/Keys.lean` -/

protected theorem Canonical.xexp {s : State} {c : Nat} {x : XIns} (h : Canonical s) : Canonical (xexp s c x) := h.issue

protected theorem Canonical.xnoise {s : State} {c : Nat} {x : XIns} (h : Canonical s) : Canonical (xnoise s c x) := h.issue

protected theorem Canonical.xnset {s : State} {c : Nat} {x : XIns} (h : Canonical s) : Canonical (xnset s c x) := h.issue

protected theorem Canonical.kopen {s : State} {c : Nat} {a : AIns} (h : Canonical s) : Canonical (kopen s c a) :=
  h.auIssue (fun _ _ _ h => goes_ite goes_bad (goes_launch h))

protected theorem Canonical.kopenEnd {s : State} {c : Nat} {x : Xfer} {beats : Nat} (h : Canonical s) :
    Canonical (kopenEnd s c x beats) :=
  h.onCore.ite (h.endXfer.ite (by
    split
    · exact .endXfer (h.inc.ite h)
    · exact h.onCore.endXfer))

protected theorem Canonical.stopKey {s : State} {c i st : Nat} (h : Canonical s) : Canonical (stopKey s c i st) := h.onCore

protected theorem Canonical.kfetch {s : State} {c : Nat} {a : AIns} (h : Canonical s) : Canonical (kfetch s c a) :=
  h.auIssue (fun _ _ _ h => by
    dsimp only
    split
    · exact goes_bad
    · exact goes_ite goes_bad (by
        split
        · exact goes_wait
        · exact goes_ite goes_wait (goes_ite goes_fault (goes_go h.onCore))))

protected theorem Canonical.kfetchStop {s : State} {c : Nat} {a : AIns} (h : Canonical s) : Canonical (kfetchStop s c a) :=
  h.stopKey.ite h

protected theorem Canonical.noteKeyFault {s : State} {c i k f : Nat} {v : KeyCtx} {h : List Byte} (hs : Canonical s) :
    Canonical (noteKeyFault s c i k f v h) := hs.wr.wr.wr.wr.wr.wr.wr.wr.wr.inc

protected theorem Canonical.landChunk {s : State} {c i place j : Nat} {ecc : Ecc} (h : Canonical s) :
    Canonical (landChunk s c i place j ecc).s := by
  have met (k n : Nat) {u : State} (hu : Canonical u) (l m : Nat) : Canonical (meet (meet (settleMem u k) l m) k n) :=
    Canonical.meet (Canonical.meet (Canonical.settleMem hu))
  have copied {u : State} (hu : Canonical u) {c k key n : Nat} : Canonical (copyMarked (flush u c) k key n) :=
    Canonical.copyMarked (Canonical.flush hu)
  refine Canonical.countCore (Canonical.ite (Canonical.noteEcc (Canonical.ite (Canonical.markWords (copied ?_)) (copied ?_)))
    (copied ?_))
  all_goals exact met _ _ (Canonical.ite h (Canonical.wordErrors h)) _ _

protected theorem Canonical.chunkVerdict {s : State} {c i : Nat} {v : KeyCtx} {f : Nat} {h : List Byte} (hs : Canonical s) :
    Canonical (chunkVerdict s c i v f h) := hs.ite hs.noteKeyFault.stopKey

protected theorem Canonical.chunkArrives {s : State} {c i beats : Nat} {ecc : Ecc} (h : Canonical s) :
    Canonical (chunkArrives s c i beats ecc) := by
  unfold chunkArrives
  dsimp only
  split
  · split
    · exact h
    · exact h.landChunk.onCore.endXfer.chunkVerdict
  · exact h

protected theorem Canonical.openPass {s : State} {c : Nat} (h : Canonical s) : Canonical (openPass s c) := by
  unfold openPass
  split
  · exact h
  · dsimp only
    split
    · exact h.onCore.onCore
    · exact h.onCore

protected theorem Canonical.kernelChunk {s : State} {c : Nat} {ecc : Ecc} (h : Canonical s) : Canonical (kernelChunk s c ecc) :=
  h.ite (by
    split
    · exact h
    · exact h.landChunk.onCore.chunkVerdict.ite (h.landChunk.onCore.chunkVerdict.stopKey.ite
        (h.landChunk.onCore.chunkVerdict.ite h.landChunk.onCore.chunkVerdict.onCore.openPass)))

protected theorem Canonical.keyChunk {s : State} {c i beats : Nat} {ecc : Ecc} (h : Canonical s) :
    Canonical (keyChunk s c i beats ecc) := h.ite (h.chunkArrives.ite h.kernelChunk)

protected theorem Canonical.ktile {s : State} {c : Nat} {a : AIns} (h : Canonical s) : Canonical (ktile s c a) :=
  h.auIssue (fun _ _ _ h => goes_ite goes_bad (by
    split
    · split
      · exact goes_fault
      · exact goes_bad
    · split
      · exact goes_wait
      · exact goes_ite goes_wait (by
          split
          · exact goes_wait
          · exact goes_ite goes_wait (by
              split
              · exact goes_fault
              · exact goes_go h.onCore))))

protected theorem Canonical.kclose {s : State} {c : Nat} {a : AIns} (h : Canonical s) : Canonical (kclose s c a) :=
  h.auIssue (fun _ _ _ h => goes_ite goes_bad (goes_ite goes_wait (goes_go h.onCore)))

protected theorem Canonical.kchain {s : State} {c : Nat} {a : AIns} (h : Canonical s) : Canonical (kchain s c a) :=
  h.auIssue (fun _ _ _ h => goes_ite goes_bad (goes_launch h))

protected theorem Canonical.kstat {s : State} {c : Nat} {a : AIns} (h : Canonical s) : Canonical (kstat s c a) :=
  h.auIssue (fun _ _ _ h => goes_ite goes_bad (goes_ite goes_wait (goes_go h.onCore)))

protected theorem Canonical.transferDone {s : State} {c id beats : Nat} (h : Canonical s) :
    Canonical (transferDone s c id beats) := by
  unfold transferDone
  split
  · exact h
  · exact h.ite (by
      split
      · exact h.storeEnd
      · exact h.storeEnd
      · exact h.storeEnd
      · exact h.kopenEnd
      · exact h)

/-! ### The definitions of `Machine/KeySets.lean` -/

protected theorem Canonical.noteChains {s : State} (h : Canonical s) : Canonical (noteChains s) := h.wr

protected theorem Canonical.registerChain {s : State} (h : Canonical s) : Canonical (registerChain s) :=
  h.forwardInput.hbmStore.wr.wr.wr.noteChains

protected theorem Canonical.clearChain {s : State} {c : Nat} (h : Canonical s) : Canonical (clearChain s c) := h.wr.wr.wr

protected theorem Canonical.releaseChain {s : State} (h : Canonical s) : Canonical (releaseChain s) :=
  h.wr.ite h.clearChain.noteChains.wr

theorem keeps_chainSem : chainSem.Keeps := keeps_command (fun _ _ _ h => h.wr.ite h.releaseChain)

theorem keeps_chainStageSem {k : Nat} : (chainStageSem k).Keeps := keeps_limited

protected theorem Canonical.chainDone {s : State} (h : Canonical s) : Canonical (chainDone s) :=
  h.ite (.wr (h.registerChain.ite h))

protected theorem Canonical.noteKeySets {s : State} (h : Canonical s) : Canonical (noteKeySets s) := h.wr.wr

protected theorem Canonical.registerKeySet {s : State} (h : Canonical s) : Canonical (registerKeySet s) := by
  unfold registerKeySet
  dsimp only
  split
  · exact h.wr
  · split
    · exact h.openPackage.wr
    · split
      · exact h.openPackage.wr
      · exact h.openPackage.forwardInput.hbmStore.mk.noteKeySets.wr.wr

protected theorem Canonical.removeKeySets {s : State} {f : KeySet → Bool} (h : Canonical s) : Canonical (removeKeySets s f) :=
  .noteKeySets (.mk (h.foldl fun _ _ h => h.zeroFill))

protected theorem Canonical.releaseKeySet {s : State} (h : Canonical s) : Canonical (releaseKeySet s) :=
  h.wr.ite h.removeKeySets.wr

theorem keeps_keysetSem : keysetSem.Keeps := keeps_command (fun _ _ _ h => h.wr.ite h.releaseKeySet)

theorem keeps_keysetEntrySem {k : Nat} : (keysetEntrySem k).Keeps := keeps_limited

protected theorem Canonical.keysetDone {s : State} (h : Canonical s) : Canonical (keysetDone s) := h.registerKeySet.ite h

protected theorem Canonical.queryKeySet {s : State} {t : Nat} (h : Canonical s) : Canonical (queryKeySet s t) := by
  unfold queryKeySet
  dsimp only
  split
  · exact h.wr.foldl fun _ _ h => h.wr
  · exact h.wr.wr.wr.wr.wr.wr.wr.wr

theorem keeps_querySem : querySem.Keeps := keeps_of_eff fun _ _ _ h => h.queryKeySet

protected theorem Canonical.dropKeySets {s : State} {p : Nat} (h : Canonical s) : Canonical (dropKeySets s p) := h.removeKeySets

protected theorem Canonical.dropAllKeys {s : State} (h : Canonical s) : Canonical (dropAllKeys s) :=
  .noteChains (h.mk.noteKeySets.foldl fun _ _ h => h.clearChain)

/-! ### The definitions of `Machine/RingCtl.lean` -/

protected theorem Canonical.zeroArea {s : State} {x : Nat} {a : Area} (h : Canonical s) : Canonical (zeroArea s x a) :=
  h.zeroFill

protected theorem Canonical.ringStart {s : State} {x k : Nat} (h : Canonical s) : Canonical (ringStart s x k) :=
  .wr (.wrBytes (h.foldl fun _ _ h => h.zeroArea))

protected theorem Canonical.ringStop {s : State} {x k : Nat} (h : Canonical s) : Canonical (ringStop s x k) := h.wr.ite h

theorem keeps_ringEnableSem {x k : Nat} : (ringEnableSem x k).Keeps :=
  keeps_of_eff fun _ _ _ h => h.wr.ringStop.ite (h.wr.ite h.wr.ringStart)

theorem keeps_ringEntrySem {x k key : Nat} : (ringEntrySem x k key).Keeps := keeps_mk keeps_plain

protected theorem Canonical.ringDrained {s : State} {x k : Nat} (h : Canonical s) : Canonical (ringDrained s x k) := h.wr.ite h

protected theorem Canonical.ringReenable {s : State} {x k : Nat} (h : Canonical s) : Canonical (ringReenable s x k) :=
  h.setRing.ringStart.ite h.setRing.wr

protected theorem Canonical.eventStart {s : State} {p : Nat} (h : Canonical s) : Canonical (eventStart s p) :=
  h.zeroArea.wrBytes

theorem keeps_eventEnableSem {p : Nat} : (eventEnableSem p).Keeps := keeps_of_eff fun _ _ _ h => h.wr.eventStart.ite h.wr

theorem keeps_eventEntrySem {p key : Nat} : (eventEntrySem p key).Keeps := keeps_mk keeps_plain

protected theorem Canonical.windowStore {s : State} {o : Nat} {d : List Byte} (h : Canonical s) :
    Canonical (windowStore s o d) := h.wrBytes

protected theorem Canonical.ringWindowWrite {s : State} {o : Nat} {d : List Byte} (h : Canonical s) :
    Canonical (ringWindowWrite s o d) := h.workReaches.workReaches.windowStore.ite h.workReaches.workReaches.wakeDomain.stall

protected theorem Canonical.pstart {s : State} {x k : Nat} {t : Taken} (h : Canonical s) : Canonical (pstart s x k t) :=
  h.ite (h.finishPlain.ite (h.finishPlain.ite (h.ite (.foldl (.setTaken (h.ite (h.foldl fun _ _ h => h.pmWrite.setCore)))
    fun _ _ h => h.startCore))))

protected theorem Canonical.abortStarter {s : State} {x c st : Nat} (h : Canonical s) : Canonical (abortStarter s x c st) :=
  h.foldl fun _ _ h => h.setRing

protected theorem Canonical.pstop {s : State} {x k : Nat} {t : Taken} (h : Canonical s) : Canonical (pstop s x k t) :=
  h.finishPlain.ite (.settleStarts (.foldl (.setTaken (h.foldl fun _ _ h => h.abortStarter)) fun _ _ h => h.stopCore))

/-! ### The definitions of `Machine/Windows.lean` -/

protected theorem Canonical.setWinWord {s : State} {w i v : Nat} (h : Canonical s) : Canonical (setWinWord s w i v) := h.wrNat

protected theorem Canonical.setWin {s : State} {w : Nat} {v : Win} (h : Canonical s) : Canonical (setWin s w v) := h.mk

protected theorem Canonical.setWinState {s : State} {w st : Nat} (h : Canonical s) : Canonical (setWinState s w st) :=
  h.wr.setWinWord.setWinWord

protected theorem Canonical.setLanding {s : State} {x : Nat} {l : List Landing} (h : Canonical s) :
    Canonical (setLanding s x l) := h.setSector.wr

protected theorem Canonical.openBlock {s : State} {w n : Nat} (h : Canonical s) : Canonical (openBlock s w n) := by
  unfold openBlock
  split
  · exact h
  · exact h.setLanding.setWin.setWinWord

protected theorem Canonical.sendCredits {s : State} {w : Nat} (h : Canonical s) : Canonical (sendCredits s w) :=
  h.ite (h.foldl fun _ _ h => h.sendMsg)

protected theorem Canonical.regrantWindow {s : State} {w : Nat} (h : Canonical s) : Canonical (regrantWindow s w) :=
  h.ite (h.ite (h.ite h.setWinWord.sendCredits.countSec))

protected theorem Canonical.rollWindow {n : Nat} {s : State} {w : Nat} (h : Canonical s) : Canonical (rollWindow n s w) := by
  induction n generalizing s with
  | zero => exact h
  | succ n ih =>
    rw [rollWindow]
    refine Canonical.ite h ?_
    split
    · exact h
    · refine ih ?_
      dsimp only
      split
      · exact Canonical.ite (Canonical.openBlock (Canonical.setWin (Canonical.setLanding h))) (Canonical.setWin
          (Canonical.setLanding h))
      · exact Canonical.setWin (Canonical.setLanding h)

protected theorem Canonical.creditsMove_sendIf {w : Nat} {t : State} {f : Nat} (h : Canonical t) :
    Canonical (creditsMove.sendIf w t f) := h.ite h.sendCredits

protected theorem Canonical.creditsMove {s : State} {w : Nat} (h : Canonical s) : Canonical (creditsMove s w) :=
  h.regrantWindow.rollWindow.creditsMove_sendIf

protected theorem Canonical.quietWindow {s : State} {w : Nat} (h : Canonical s) : Canonical (quietWindow s w) :=
  .setWin (.setWinState (h.ite h.setLanding))

protected theorem Canonical.closingEnd {s : State} {w : Nat} {tenMs : Bool} (h : Canonical s) :
    Canonical (closingEnd s w tenMs) := h.ite (.ite (.quietWindow (h.setWin.ite h)) (h.setWin.ite h))

protected theorem Canonical.landingRangeClose {s : State} {x r : Nat} (h : Canonical s) :
    Canonical (landingRangeClose s x r) := by
  unfold landingRangeClose
  split
  · exact h
  · exact h.closingEnd.ite h.creditsMove

protected theorem Canonical.openContext {s : State} {w : Nat} {l : List Nat} (h : Canonical s) :
    Canonical (openContext s w l) :=
  h.setWinState.setWinWord.setWinWord.setWinWord.setWinWord.setWinWord.setWinWord.setWinWord.setWin

protected theorem Canonical.wopen {s : State} {x k : Nat} {t : Taken} (h : Canonical s) : Canonical (wopen s x k t) :=
  h.ite (h.finishPlain.ite (.finishPlain (.regrantWindow (h.openContext.foldl fun _ _ h => h.openBlock))))

protected theorem Canonical.closeWindow {s : State} {w : Nat} (h : Canonical s) : Canonical (closeWindow s w) :=
  h.setWinState.setWin.ite h.setWinState.setWin.setLanding.sendNotice

protected theorem Canonical.wclose {s : State} {x k : Nat} {t : Taken} (h : Canonical s) : Canonical (wclose s x k t) :=
  h.finishPlain.ite (h.finishPlain.ite h.closeWindow.finishPlain)

protected theorem Canonical.wbind {s : State} {x k : Nat} {t : Taken} (h : Canonical s) : Canonical (wbind s x k t) :=
  h.finishPlain.ite h.setTaken.setHandle.request

protected theorem Canonical.finishWaiting {s : State} {x k op id st : Nat} (h : Canonical s) :
    Canonical (finishWaiting s x k op id st) := by
  unfold finishWaiting
  split
  · exact h.finishPlain
  · exact h

protected theorem Canonical.settleHandle {s : State} {h : Nat} (hs : Canonical s) : Canonical (settleHandle s h) := by
  unfold settleHandle
  dsimp only
  split
  · exact hs
  · exact hs.setHandle.finishWaiting.ite hs

protected theorem Canonical.wunbind {s : State} {x k : Nat} {t : Taken} (h : Canonical s) : Canonical (wunbind s x k t) :=
  h.finishPlain.ite (h.finishPlain.ite h.setTaken.setHandle.settleHandle)

protected theorem Canonical.joinRemote {s : State} {opener id p : Nat} (h : Canonical s) :
    Canonical (joinRemote s opener id p) := h.ite h.mk.noteGroups

protected theorem Canonical.holdCredits {s : State} {k u : Nat} (h : Canonical s) : Canonical (holdCredits s k u) := by
  unfold holdCredits
  split
  · exact h
  · exact h.setSector

protected theorem Canonical.shadowStore {s : State} {o : Option Nat} {i k : Nat} {d : List Byte} (h : Canonical s) :
    Canonical (shadowStore s o i k d).1 :=
  h.foldl_fst fun _ _ h => h.ite_fst (h.groupStore.ite_fst (h.groupStore.holdCredits.ite_fst h.groupStore))

protected theorem Canonical.landBytes {s : State} {g : Option (Option Nat × Nat)} {k : Nat} {d : List Byte} (h : Canonical s) :
    Canonical (landBytes s g k d).1 := by
  unfold landBytes
  dsimp only
  split
  · exact .shadowStore (h.noteLanded.ite h)
  · exact .storeAt (h.noteLanded.ite h)

protected theorem Canonical.remoteWrite {s : State} {w : RemoteWr} (h : Canonical s) : Canonical (remoteWrite s w) :=
  h.answerStatus.ite (h.storeAt.answerStatus.ite (h.answerStatus.ite (by
    split
    · exact h.answerStatus
    · exact h.inc.answerStatus.ite (.answerStatus (.creditsMove (.landBytes (by
        split
        · exact h.settleMem.joinRemote
        · exact h.settleMem)))))))

/-! ### The definitions of `Machine/Steps.lean` -/

protected theorem Canonical.releaseChildren {s : State} {failed : Bool} (h : Canonical s) :
    Canonical (releaseChildren s failed) := h.foldl fun _ _ h => h.sendNotice

protected theorem Canonical.becomeQuiet {s : State} (h : Canonical s) : Canonical (becomeQuiet s) := h.mk

protected theorem Canonical.stepProgress {s : State} (h : Canonical s) : Canonical (stepProgress s) :=
  h.ite (h.ite (h.mk.emit.ite (h.releaseChildren.becomeQuiet.ite h.mk.sendNotice)))

protected theorem Canonical.stepEnd {s : State} {x k : Nat} {t : Taken} (h : Canonical s) : Canonical (stepEnd s x k t) :=
  h.finishPlain.ite (h.finishPlain.ite h.setTaken.stepProgress)

protected theorem Canonical.endSteps {s : State} {st : Nat} (h : Canonical s) : Canonical (endSteps s st) :=
  h.foldl fun _ _ h => h.foldl fun _ _ h => h.finishPlain.ite h

protected theorem Canonical.applyGranule {s : State} {fabric : Bool} {r : Granule} (h : Canonical s) :
    Canonical (applyGranule s fabric r) :=
  .ite (.mk (h.showGranule.noteNd.ite h.showGranule)) (h.showGranule.noteNd.ite h.showGranule)

protected theorem Canonical.settleGroup {s : State} {i : Nat} (h : Canonical s) : Canonical (settleGroup s i) := by
  unfold settleGroup
  split
  · exact h
  · exact h.resolveGroup.finishCommit.ite (h.resolveGroup.ite h)

protected theorem Canonical.ackDecision {s : State} {node : Nat} {w : Nat × Nat} (h : Canonical s) :
    Canonical (ackDecision s node w) := h.mk.sendMsg

protected theorem Canonical.stepIncrement {s : State} (h : Canonical s) : Canonical (stepIncrement s) :=
  h.ite (h.ite (.mk (h.flushHeld.endSteps.wr.wr.ite h.flushHeld.endSteps.wr)))

protected theorem Canonical.applyDone {s : State} {o : Option Nat} {i : Nat} (h : Canonical s) :
    Canonical (applyDone s o i) := by
  unfold applyDone
  split
  · exact h
  · exact h.ite (by
      dsimp only
      split
      · exact .stepIncrement (.settleGroup (.foldl (.discard (h.foldl fun _ _ h => h.applyGranule)) fun _ _ h => by
          split
          · exact h.creditsMove
          · exact h))
      · exact .stepIncrement (.resolveGroup (by
          split
          · exact .ackDecision (.foldl (.discard (h.foldl fun _ _ h => h.applyGranule)) fun _ _ h => by
              split
              · exact h.creditsMove
              · exact h)
          · exact .foldl (.discard (h.foldl fun _ _ h => h.applyGranule)) fun _ _ h => by
              split
              · exact h.creditsMove
              · exact h)))

protected theorem Canonical.decideGroup {s : State} {i : Nat} {commit : Bool} (h : Canonical s) :
    Canonical (decideGroup s i commit) := by
  unfold decideGroup
  split
  · exact h
  · exact .stepIncrement (.settleGroup (.setGroup (.ite (h.mk.foldl fun _ _ h => h.sendNotice) (.discard (h.mk.foldl
      fun _ _ h => h.sendNotice)))))

protected theorem Canonical.prepareGroup {s : State} {i : Nat} (h : Canonical s) : Canonical (prepareGroup s i) := by
  unfold prepareGroup
  split
  · exact h
  · exact h.decideGroup.ite (.setGroup (h.foldl fun _ _ h => h.sendNotice))

protected theorem Canonical.takeVote {s : State} {i node verdict : Nat} (h : Canonical s) :
    Canonical (takeVote s i node verdict) := by
  unfold takeVote
  split
  · exact h
  · exact h.ite (h.setGroup.decideGroup.ite h.setGroup)

protected theorem Canonical.prepareTimeout {s : State} {i : Nat} (h : Canonical s) : Canonical (prepareTimeout s i) := by
  unfold prepareTimeout
  split
  · exact h
  · exact h.ite h.decideGroup

protected theorem Canonical.decisionExpiry {s : State} {o i : Nat} (h : Canonical s) : Canonical (decisionExpiry s o i) := by
  unfold decisionExpiry
  split
  · exact h
  · exact h.ite h.resolveGroup.stepIncrement

protected theorem Canonical.latchDone {s : State} (h : Canonical s) : Canonical (latchDone s) :=
  h.foldl fun _ _ h => h.setWinWord

protected theorem Canonical.commitRecord {s : State} (h : Canonical s) : Canonical (commitRecord s) := h.ite h.emit

protected theorem Canonical.detachTwin {s : State} {cause : Nat} (h : Canonical s) : Canonical (detachTwin s cause) :=
  h.mk.wr.wr

protected theorem Canonical.compareDigests {s : State} (h : Canonical s) : Canonical (compareDigests s) := by
  unfold compareDigests
  split
  · exact h.ite (h.mk.ite h.mk.wr.wr.wr.inc.detachTwin)
  · exact h

protected theorem Canonical.fallBoundary {s : State} (h : Canonical s) : Canonical (fallBoundary s) :=
  .ite (.detachTwin (.foldl (.compareDigests (.stepIncrement (.mk (.commitRecord (h.latchDone.wr.mk.foldl fun _ _ h =>
    h.prepareGroup))))) fun _ _ h => h.ite h.portOut)) (.compareDigests (.stepIncrement (.mk (.commitRecord
    (h.latchDone.wr.mk.foldl fun _ _ h => h.prepareGroup)))))

protected theorem Canonical.cinchEdge {s : State} (h : Canonical s) : Canonical (cinchEdge s) :=
  h.inc.fallBoundary.ite h.inc.inc

protected theorem Canonical.failStep {s : State} (h : Canonical s) : Canonical (failStep s) :=
  .endSteps (.releaseChildren (.mk (.foldl (.inc (.foldl (h.foldl fun _ _ h => h.setGroup.resolveGroup) fun _ _ h =>
    h.setWinWord)) fun _ _ h => h.postEvent)))

protected theorem Canonical.parentFails {s : State} {m : Msg} (h : Canonical s) : Canonical (parentFails s m) :=
  h.failStep.ite h.mk.sendNotice

protected theorem Canonical.stepTimeout {s : State} {c : Nat} (h : Canonical s) : Canonical (stepTimeout s c) :=
  h.ite h.parentFails

theorem keeps_stepResumeSem : stepResumeSem.Keeps := keeps_command (fun _ _ _ h => h.mk)

protected theorem Canonical.sendResetNotices {s : State} {kind : Nat} (h : Canonical s) : Canonical (sendResetNotices s kind) :=
  h.foldl fun _ _ h => h.sendNotice

/-! ### The definitions of `Machine/Xlat.lean` -/

theorem keeps_xmSem : xmSem.Keeps := keeps_command (fun _ _ _ h => h.wr.wr)

theorem keeps_xmEntrySem {k : Nat} : (xmEntrySem k).Keeps := keeps_limited

protected theorem Canonical.noteXlat {s : State} (h : Canonical s) : Canonical (noteXlat s) := h.wr

protected theorem Canonical.xlatDone {s : State} (h : Canonical s) : Canonical (xlatDone s) :=
  h.ite (h.mk.noteXlat.wr.ite (h.ite h.mk.noteXlat.wr))

protected theorem Canonical.dropXlat {s : State} {p : Nat} (h : Canonical s) : Canonical (dropXlat s p) := h.mk.noteXlat

protected theorem Canonical.abandonHeld {s : State} {c : Nat} (h : Canonical s) : Canonical (abandonHeld s c) :=
  h.foldl fun _ _ h => h.endXfer

theorem keeps_abandonSem : abandonSem.Keeps := keeps_command (fun _ _ _ h => h.abandonHeld.ite h)

/-! ### The definitions of `Machine/Partition.lean` -/

protected theorem Canonical.partAssign {s : State} {p : Nat} {twinOk : Bool} (h : Canonical s) :
    Canonical (partAssign s p twinOk) := h.wr.wr.ite h.wr

protected theorem Canonical.scrubRings {s : State} {x : Nat} (h : Canonical s) : Canonical (scrubRings s x) :=
  .foldl (.foldl (h.foldl fun _ _ h => h.abortStarter.ite h) fun _ _ h => h.haltCore.ite h) fun _ _ h => h.foldl fun _ _ h =>
    h.finishPlain

protected theorem Canonical.scrubUnits {s : State} {p : Nat} (h : Canonical s) : Canonical (scrubUnits s p) :=
  .foldl (.foldl (h.foldl fun _ _ h => h.laceStopSector) fun _ _ h => h.ite h.setCore) fun _ _ h => h.abortGroup.ite h

protected theorem Canonical.scrubFabric {s : State} {p : Nat} (h : Canonical s) : Canonical (scrubFabric s p) :=
  .dropXlat (.foldl (h.foldl fun _ _ h => h.quietWindow) fun _ _ h => h.setHandle)

protected theorem Canonical.scrubSector {s : State} {x : Nat} (h : Canonical s) : Canonical (scrubSector s x) :=
  .zeroFill (h.foldl fun _ _ h => h.zeroFill.zeroFill.zeroFill.zeroFill.setCore)

protected theorem Canonical.scrubPke {s : State} {p : Nat} (h : Canonical s) : Canonical (scrubPke s p) := h.mk.wr.wr.ite h.mk

protected theorem Canonical.eraseReplay {s : State} {p : Nat} (h : Canonical s) : Canonical (eraseReplay s p) := h.mk.wr

protected theorem Canonical.scrubStart {s : State} {p : Nat} {free : Bool} (h : Canonical s) :
    Canonical (scrubStart s p free) :=
  .stepProgress (.clearLost (.zeroFill (.foldl (.dropKeySets (.eraseReplay (.scrubPke (.scrubFabric (.scrubUnits
    (h.wr.wr.mk.setReleases.foldl fun _ _ h => h.scrubRings)))))) fun _ _ h => h.scrubSector)))

protected theorem Canonical.ringsOff {s : State} {p : Nat} (h : Canonical s) : Canonical (ringsOff s p) :=
  .wr (h.foldl fun _ _ h => h.foldl fun _ _ h => h.setRing.wr.wr)

protected theorem Canonical.scrubEnd {s : State} {p us : Nat} (h : Canonical s) : Canonical (scrubEnd s p us) := by
  unfold scrubEnd
  split
  · exact h
  · exact h.ite (.wr (.wr (.wr (.mk (.ringsOff (h.foldl fun _ _ h => h.setWinState))))))

protected theorem Canonical.resumeScrubs {s : State} (h : Canonical s) : Canonical (resumeScrubs s) :=
  h.foldl fun _ _ h => .ite (by
    split
    · exact h.scrubStart
    · exact h) h

theorem keeps_partSem {p : Nat} {twinOk : Bool} : (partSem p twinOk).Keeps :=
  keeps_mk (keeps_command (fun _ _ _ h => h.partAssign.ite h.scrubStart))

theorem keeps_partEntrySem {p key : Nat} : (partEntrySem p key).Keeps := keeps_mk keeps_plain

/-! ### The definitions of `Machine/He.lean` -/

protected theorem Canonical.finishHe {s : State} {x k : Nat} {t : Taken} {status faults limbs beats : Nat} {tail : List Byte}
    (h : Canonical s) :
    Canonical (finishHe s x k t status faults limbs beats tail) := .finishProv (h.ite h.noteHeFault)

protected theorem Canonical.refuseHe {s : State} {x k : Nat} {t : Taken} {status : Nat} (h : Canonical s) :
    Canonical (refuseHe s x k t status) := h.mk.finishHe

protected theorem Canonical.scramble {s : State} {lo n : Nat} {keep : Nat → Bool} (h : Canonical s) : Canonical
    (scramble s lo n keep) := by
  obtain ⟨hm, hp, hf, hd⟩ := (canonical_iff s).1 h
  exact (canonical_iff _).2 ⟨putBytes_wf hm lo _, Tab.filter_wf _ hp, Tab.filter_wf _ hf, hd⟩

protected theorem Canonical.loadKernel {op : Nat} {s : State} {c : Nat} (h : Canonical s) : Canonical (loadKernel op s c) :=
  h.ite h.scramble.setCore

protected theorem Canonical.runHe {s : State} {x k : Nat} {t : Taken} {h : HePlan} {l : List (List Byte)} {prov : Bool}
    (hs : Canonical s) :
    Canonical (runHe s x k t h l prov) :=
  .foldl (.foldl (hs.setTaken.foldl fun _ _ h => h.loadKernel) fun _ _ h => h.startCore) fun _ _ h => h.onCore.openPass

protected theorem Canonical.heStart {s : State} {x k : Nat} {t : Taken} (h : Canonical s) : Canonical (heStart s x k t) :=
  h.ite (h.ite (h.countSec.inc.runHe.ite (.refuseHe (h.countSec.inc.inc.ite h.countSec.inc))))

protected theorem Canonical.writeAll {s : State} {x p : Nat} {g : Option Nat} {l : List (Nat × List Byte)} (h : Canonical s) :
    Canonical (writeAll s x p g l).1 := h.foldl_fst fun _ _ h => h.vaWrite

protected theorem Canonical.kernelLeaves {s : State} {h : HePlan} {t : Taken} (hs : Canonical s) :
    Canonical (kernelLeaves s h t) :=
  .ite (.scramble (.foldl (.foldl (hs.foldl fun _ _ h => h.scramble.scramble) fun _ _ h => h.scramble) fun _ _ h => h.scramble))
    (.foldl (hs.foldl fun _ _ h => h.scramble.scramble) fun _ _ h => h.scramble)

protected theorem Canonical.kernelEnd {s : State} {x k : Nat} {t : Taken} {r : KernelReport} (h : Canonical s) :
    Canonical (kernelEnd s x k t r) :=
  .finishHe (.ite_fst (.vaWrite (.writeAll (.foldl (.kernelLeaves (.mk (.ite (.incBy (h.inc.ite h)) (h.inc.ite h))))
    fun _ _ h => h.onCore.haltCore.ite h.onCore))) (.writeAll (.foldl (.kernelLeaves (.mk (.ite (.incBy (h.inc.ite h))
    (h.inc.ite h)))) fun _ _ h => h.onCore.haltCore.ite h.onCore)))

protected theorem Canonical.heAbort {s : State} {v : Nat} (h : Canonical s) : Canonical (heAbort s v) := by
  unfold heAbort
  dsimp only
  split
  · exact h
  · exact h.setTaken.ite h.refuseHe

theorem keeps_heAbortSem : heAbortSem.Keeps := keeps_command (fun _ _ _ h => h.heAbort)

/-! ### The definitions of `Machine/Pke.lean` -/

protected theorem Canonical.setReg {s : State} {r v : Nat} (h : Canonical s) : Canonical (setReg s r v) := h.wrNat

protected theorem Canonical.setPoint {s : State} {r : Nat} {p : Point} (h : Canonical s) : Canonical (setPoint s r p) :=
  h.setReg

protected theorem Canonical.refuseJob {s : State} {code : Nat} (h : Canonical s) : Canonical (refuseJob s code) := h.wr.wr

protected theorem Canonical.submitJob {s : State} (h : Canonical s) : Canonical (submitJob s) :=
  h.refuseJob.ite (h.refuseJob.ite h.wr.wr.workReaches.wakeDomain)

theorem keeps_pkeJobSem : pkeJobSem.Keeps := keeps_command (fun _ _ _ h => h.submitJob)

theorem keeps_pkeEntrySem {k : Nat} : (pkeEntrySem k).Keeps := keeps_limited

theorem keeps_pkeFaultLimitSem : pkeFaultLimitSem.Keeps := keeps_limited

protected theorem Canonical.loadRegs {s : State} {l : List Nat} {b : List Byte} (h : Canonical s) : Canonical (loadRegs s l b)
    := by
  induction l generalizing s b with
  | nil => exact h
  | cons r l ih => exact ih (Canonical.wrBytes h)

protected theorem Canonical.startJob {s : State} (h : Canonical s) : Canonical (startJob s) :=
  h.ite (h.refuseJob.ite h.zeroFill.loadRegs.mk.inc.wr.wr)

protected theorem Canonical.commandRan {s : State} {j : PkeJob} {status : Nat} (h : Canonical s) :
    Canonical (commandRan s j status) := h.mk

protected theorem Canonical.pkeMod {op : Nat} {s : State} {c : PkeCmd} (h : Canonical s) : Canonical (pkeMod op s c) := by
  unfold pkeMod
  split
  · exact h
  · dsimp only
    split <;> exact h.setReg.commandRan

protected theorem Canonical.pkePoint {op : Nat} {s : State} {c : PkeCmd} (h : Canonical s) : Canonical (pkePoint op s c) := by
  unfold pkePoint
  split
  · exact h
  · exact h.commandRan.ite (h.setReg.commandRan.ite h.setPoint.commandRan)

protected theorem Canonical.noteJobFault {s : State} (h : Canonical s) : Canonical (noteJobFault s) := h.mk.inc.wr.ite h.mk.inc

protected theorem Canonical.jobEnd {s : State} {late : Nat} {mismatch : Bool} (h : Canonical s) :
    Canonical (jobEnd s late mismatch) := by
  unfold jobEnd
  split
  · exact h
  · exact h.ite (.wr (.mk (.vaWrite (h.incBy.noteJobFault.ite h.incBy))))

protected theorem Canonical.pkeWipe {s : State} (h : Canonical s) : Canonical (pkeWipe s) := h.zeroFill

protected theorem Canonical.wipeDone {s : State} (h : Canonical s) : Canonical (wipeDone s) :=
  h.ite (h.mk.pkeWipe.wr.ite h.mk.pkeWipe)

theorem keeps_pkeSelftestSem : pkeSelftestSem.Keeps :=
  keeps_mk (keeps_command (fun _ _ _ h => h.wr.wr.mk.workReaches.wakeDomain))

protected theorem Canonical.selftestDone {s : State} {passed : Bool} (h : Canonical s) : Canonical (selftestDone s passed) :=
  h.ite h.mk.wr.wr

protected theorem Canonical.pkeLost {s : State} (h : Canonical s) : Canonical (pkeLost s) := .pkeWipe (.mk (h.mk.inc.ite h))

protected theorem Canonical.pkeReset {s : State} (h : Canonical s) : Canonical (pkeReset s) := h.mk.wr.wr.ite h

/-! ### The definitions of `Machine/Messages.lean` -/

protected theorem Canonical.countRefusal {s : State} {mtype code : Nat} (h : Canonical s) :
    Canonical (countRefusal s mtype code) := .ite (.inc (h.inc.ite h)) (h.inc.ite h)

protected theorem Canonical.performWrite {s : State} {m : Msg} (h : Canonical s) : Canonical (performWrite s m).1 :=
  .creditsMove (.foldl_fst (.setWin (h.joinRemote.ite h)) fun _ _ h => h.landBytes)

protected theorem Canonical.performRead {s : State} {m : Msg} {ecc : Ecc} (h : Canonical s) :
    Canonical (performRead s m ecc).1 := h.noteEcc.ite_fst (h.wordErrors.foldl fun _ _ h => h.settleMem.meet)

protected theorem Canonical.perform {s : State} {mtype : Nat} {m : Msg} {ecc : Ecc} (h : Canonical s) :
    Canonical (perform s mtype m ecc).1 :=
  .ite_fst (.performWrite h) (.ite_fst (.performRead h) (.ite_fst (.adderUpdate h) (.ite_fst (.setWinWord h) (.ite h (.setWin
    h)))))

protected theorem Canonical.vote {s : State} {m : Msg} (h : Canonical s) : Canonical (vote s m).1 := by
  unfold vote
  split
  · exact h.setGroup.ite h
  · exact h

protected theorem Canonical.takeDecision {s : State} {m : Msg} {asked : Bool} (h : Canonical s) :
    Canonical (takeDecision s m asked).1 := by
  unfold takeDecision
  split
  · exact h
  · exact h.ite_fst (.ite_fst (h.ite_fst h.mk.setGroup) h.mk.resolveGroup.stepIncrement)

protected theorem Canonical.answerQuery {s : State} {m : Msg} (h : Canonical s) : Canonical (answerQuery s m).1 := h

protected theorem Canonical.takeArrive {s : State} {m : Msg} (h : Canonical s) : Canonical (takeArrive s m).1 :=
  h.mk.stepProgress.ite h

protected theorem Canonical.takeRelease {s : State} {m : Msg} (h : Canonical s) : Canonical (takeRelease s m).1 :=
  h.ite (h.failStep.ite (h.ite h.releaseChildren.becomeQuiet))

protected theorem Canonical.takeNotice {s : State} {m : Msg} (h : Canonical s) : Canonical (takeNotice s m).1 :=
  h.wr.wr.wr.wr.inc.parentFails.ite h.wr.wr.wr.wr.inc

protected theorem Canonical.sendAnswer {s : State} {m : Msg} {at' : Nat} {payload : List Byte} (h : Canonical s) :
    Canonical (sendAnswer s m at' payload) := h.mk.sendMsg.forwardInput

protected theorem Canonical.contextMiss {s : State} {w : Nat} (h : Canonical s) : Canonical (contextMiss s w) :=
  h.mk.inc.countDev.ite h.mk

protected theorem Canonical.answerWindow {s : State} {mtype : Nat} {m : Msg} {ecc : Ecc} {a0 : Nat} (h : Canonical s) :
    Canonical (answerWindow s mtype m ecc a0) := by
  unfold answerWindow
  split
  · exact h.forwardInput.perform.sendAnswer
  · exact h.countRefusal.sendAnswer

protected theorem Canonical.serveWindow {s : State} {mtype : Nat} {m : Msg} {ecc : Ecc} (h : Canonical s) :
    Canonical (serveWindow s mtype m ecc) := by
  unfold serveWindow
  dsimp only
  split
  · exact .ite (.ite (.wakeDomain (h.contextMiss.ite h.contextMiss.workReaches.workReaches)) (.awaitSector (h.contextMiss.ite
      h.contextMiss.workReaches.workReaches))) (.answerWindow (h.contextMiss.ite h.contextMiss.workReaches.workReaches))
  · exact h.contextMiss.answerWindow

protected theorem Canonical.serveDevice {s : State} {mtype : Nat} {m : Msg} (h : Canonical s) :
    Canonical (serveDevice s mtype m) := by
  unfold serveDevice
  dsimp only
  split
  · exact .sendAnswer (h.forwardInput.vote.ite_fst (h.forwardInput.takeDecision.ite_fst (h.forwardInput.answerQuery.ite_fst
      (h.forwardInput.takeArrive.ite_fst (h.forwardInput.takeRelease.ite_fst h.forwardInput.takeNotice)))))
  · exact h.forwardInput.vote.ite_fst (h.forwardInput.takeDecision.ite_fst (h.forwardInput.answerQuery.ite_fst
      (h.forwardInput.takeArrive.ite_fst (h.forwardInput.takeRelease.ite_fst h.forwardInput.takeNotice))))

protected theorem Canonical.surrender {s : State} {m : Msg} (h : Canonical s) : Canonical (surrender s m).1 :=
  h.foldl_fst fun _ _ h => h.setHandle.ite_fst h

protected theorem Canonical.serveRevoke {s : State} {m : Msg} (h : Canonical s) : Canonical (serveRevoke s m) :=
  h.forwardInput.surrender.sendAnswer

protected theorem Canonical.serveRequest {s : State} {mtype : Nat} {m : Msg} {ecc : Ecc} (h : Canonical s) :
    Canonical (serveRequest s mtype m ecc) := h.serveWindow.ite (h.serveRevoke.ite h.serveDevice)

protected theorem Canonical.setNext {s : State} {m : Msg} (h : Canonical s) : Canonical (setNext s m) := h.mk

protected theorem Canonical.releaseEarly {n : Nat} {s : State} {k : Nat} (h : Canonical s) : Canonical (releaseEarly n s k) :=
    by
  induction n generalizing s with
  | zero => exact h
  | succ n ih =>
    rw [releaseEarly]
    split
    · exact h
    · split
      · exact h
      · exact ih (Canonical.serveRequest (Canonical.setNext (Canonical.mk h)))

protected theorem Canonical.takeRequest {s : State} {mtype : Nat} {m : Msg} {ecc : Ecc} (h : Canonical s) :
    Canonical (takeRequest s mtype m ecc) := by
  unfold takeRequest
  split
  · exact h.setNext.serveRequest.releaseEarly.ite (.ite (h.ite h.mk) h.serveRequest)
  · exact .serveRequest (h.setNext.ite h)

protected theorem Canonical.acceptRequest {s : State} {mtype : Nat} {m : Msg} {ecc : Ecc} (h : Canonical s) :
    Canonical (acceptRequest s mtype m ecc) := by
  unfold acceptRequest
  split
  · exact h.serveRequest.ite h.sendMsg
  · exact h.takeRequest

protected theorem Canonical.unmatched {s : State} (h : Canonical s) : Canonical (unmatched s) := h.inc

protected theorem Canonical.purposeTaken {s : State} {h : Nat} {r : Request} {st : Nat} {d : List Byte} (hs : Canonical s) :
    Canonical (purposeTaken s h r st d) := by
  unfold purposeTaken
  split
  · exact hs
  · exact hs.ite hs.setHandle.finishWaiting
  · split
    · exact hs
    · exact hs.onCore.request.ite hs.onCore

protected theorem Canonical.purposeDone {s : State} {h : Nat} {r : Request} {st : Nat} {d : List Byte} (hs : Canonical s) :
    Canonical (purposeDone s h r st d) := by
  unfold purposeDone
  split
  · exact hs.arrival (fun _ h => h.purposeTaken)
  · exact hs.purposeTaken

protected theorem Canonical.groupAnswer {s : State} {node : Nat} {r : Request} {st : Nat} (h : Canonical s) :
    Canonical (groupAnswer s node r st) := by
  unfold groupAnswer
  split
  · exact h
  · exact h.setGroup.discard.setGroup.ite h.setGroup

protected theorem Canonical.requestDone {s : State} {h : Nat} {r : Request} {st : Nat} {d : List Byte} (hs : Canonical s) :
    Canonical (requestDone s h r st d) := hs.groupAnswer.purposeDone

protected theorem Canonical.failHandle {s : State} {h st : Nat} (hs : Canonical s) : Canonical (failHandle s h st) :=
  hs.setHandle.foldl fun _ _ h => h.requestDone

protected theorem Canonical.answered {s : State} {h : Nat} (hs : Canonical s) : Canonical (answered s h) :=
  hs.pump.settleHandle.settleGroups.stepProgress

protected theorem Canonical.endRequest {s : State} {h : Nat} {r : Request} {st : Nat} {d : List Byte} (hs : Canonical s) :
    Canonical (endRequest s h r st d) := .answered (hs.setHandle.requestDone.failHandle.ite hs.setHandle.requestDone)

protected theorem Canonical.noticeDone {s : State} {n : Notice} (h : Canonical s) : Canonical (noticeDone s n) :=
  .stepProgress (h.mk.setGroup.settleGroup.stepIncrement.ite h.mk)

protected theorem Canonical.forwardAnswer {s : State} {mtype : Nat} {m : Msg} (h : Canonical s) :
    Canonical (forwardAnswer s mtype m) := h.forwardInput

protected theorem Canonical.takeAck {s : State} {m : Msg} (h : Canonical s) : Canonical (takeAck s m) := by
  unfold takeAck
  dsimp only
  split
  · exact h.forwardAnswer.endRequest
  · split
    · exact h.forwardAnswer.noticeDone
    · exact h.unmatched

protected theorem Canonical.takeRdata {s : State} {m : Msg} (h : Canonical s) : Canonical (takeRdata s m) := by
  unfold takeRdata
  split
  · exact h.forwardAnswer.endRequest
  · exact h.unmatched

protected theorem Canonical.takeCredit {s : State} {m : Msg} (h : Canonical s) : Canonical (takeCredit s m) :=
  h.unmatched.ite (by
    dsimp only
    split
    · split
      · exact h.forwardAnswer.setHandle.endRequest.finishWaiting
      · exact h.forwardAnswer.setHandle.endRequest
    · exact h.forwardAnswer.unmatched.ite h.forwardAnswer.setHandle.answered)

protected theorem Canonical.takeRevoked {s : State} {m : Msg} (h : Canonical s) : Canonical (takeRevoked s m) := by
  unfold takeRevoked
  split
  · exact h.unmatched
  · exact h.forwardAnswer.noticeDone.setWin.ite h.forwardAnswer.noticeDone

protected theorem Canonical.takeVoteMsg {s : State} {m : Msg} (h : Canonical s) : Canonical (takeVoteMsg s m) := by
  unfold takeVoteMsg
  split
  · exact h.unmatched
  · exact h.forwardAnswer.noticeDone.takeVote

protected theorem Canonical.takeDecisionMsg {s : State} {m : Msg} (h : Canonical s) : Canonical (takeDecisionMsg s m) := by
  unfold takeDecisionMsg
  split
  · exact h.forwardAnswer.noticeDone.takeDecision.stepProgress
  · exact h.acceptRequest

protected theorem Canonical.transportRetry {s : State} {flow tseq : Nat} (h : Canonical s) :
    Canonical (transportRetry s flow tseq) :=
  .ite (by
    split
    · exact h
    · exact h.mk.sendMsg.ite h.noticeDone) (by
    split
    · exact h
    · exact h.setHandle.sendMsg.ite h.endRequest)

/-! ### The definitions of `Machine/Twin.lean` -/

protected theorem Canonical.refreshTwin {s : State} (h : Canonical s) : Canonical (refreshTwin s) := h.wr

protected theorem Canonical.startSync {s : State} {lead : Bool} (h : Canonical s) : Canonical (startSync s lead) :=
  .refreshTwin (h.mk.wr.wr.emit.ite h.mk.wr.wr)

protected theorem Canonical.goBind {s : State} (h : Canonical s) : Canonical (goBind s) := by
  unfold goBind
  split
  · exact h.ite (by
      dsimp only
      split
      · exact .startSync (h.mk.wr.ite h.mk.wr.wr.wr)
      · exact h.mk.wr)
  · exact h

protected theorem Canonical.bindTwin {s : State} {lead : Bool} {p : TwinPeer} (h : Canonical s) :
    Canonical (bindTwin s lead p) := h.mk.wr.goBind

protected theorem Canonical.bindTimeout {s : State} (h : Canonical s) : Canonical (bindTimeout s) := h.ite h.mk.wr

protected theorem Canonical.twinDone {s : State} {st : Nat} (h : Canonical s) : Canonical (twinDone s st) := h.wr

protected theorem Canonical.twinCommand {s : State} {op : Nat} (h : Canonical s) : Canonical (twinCommand s op) :=
  .ite (h.mk.twinDone.ite (h.detachTwin.twinDone.ite h.twinDone)) (.ite (h.startSync.ite h.twinDone) (.ite (h.twinDone.ite
    (.twinDone (.refreshTwin (.wr (.wr (.mk (h.ite h.wr))))))) (h.wr.wr.mk.refreshTwin.twinDone.ite h.twinDone)))

theorem keeps_twinSem {p : TwinPeer} : (twinSem p).Keeps :=
  keeps_mk (keeps_command (fun _ _ _ h => h.bindTwin.ite h.twinCommand))

protected theorem Canonical.resyncDone {s : State} (h : Canonical s) : Canonical (resyncDone s) := by
  unfold resyncDone
  split
  · exact h
  · exact h.mk.wr.wr.wr.wr.wr.refreshTwin

protected theorem Canonical.heardTwin {s : State} {h : Heartbeat} (hs : Canonical s) : Canonical (heardTwin s h) :=
  hs.detachTwin.ite (hs.startSync.ite (hs.startSync.ite hs.goBind))

protected theorem Canonical.heartbeat {s : State} {p : Nat} {h : Heartbeat} (hs : Canonical s) : Canonical (heartbeat s p h) :=
  hs.ite hs.mk.wr.heardTwin.refreshTwin

protected theorem Canonical.twinLoss {s : State} (h : Canonical s) : Canonical (twinLoss s) :=
  .stepProgress (.refreshTwin (h.wr.incBy.mk.detachTwin.ite (h.wr.incBy.mk.wr.ite h.wr.incBy.mk)))

protected theorem Canonical.ackYoke {s : State} {n : Nat} (h : Canonical s) : Canonical (ackYoke s n) := h.emit

protected theorem Canonical.takeAnswer {s : State} {mtype : Nat} {m : Msg} (h : Canonical s) :
    Canonical (takeAnswer s mtype m) :=
  h.takeAck.ite (h.takeRdata.ite (h.takeCredit.ite (h.takeRevoked.ite (h.takeVoteMsg.ite h.takeDecisionMsg))))

protected theorem Canonical.answerRecord {s : State} {src flow tseq mtype : Nat} {ans : Msg} (h : Canonical s) :
    Canonical (answerRecord s src flow tseq mtype ans) := h.ite h.mk

protected theorem Canonical.putGranule {s : State} {e : Nat × List Byte} (h : Canonical s) : Canonical (putGranule s e) :=
  h.hbmStore.ite h.wrBytes

protected theorem Canonical.twinDelta {s : State} {a : Nat} {d : List Byte} (h : Canonical s) : Canonical (twinDelta s a d) :=
  h.putGranule.ite (h.ite (h.detachTwin.ite h.mk))

protected theorem Canonical.commitRecordIn {s : State} {n : Nat} {ds : List (Nat × Nat)} {digest : List Byte} (h : Canonical s)
    :
    Canonical (commitRecordIn s n ds digest) :=
  h.ite (.ite (h.mk.ackYoke.compareDigests.becomeQuiet.fallBoundary.ite h.mk.ackYoke.compareDigests) (.ackYoke (.wr (.wr (.mk
    (h.foldl fun _ _ h => h.putGranule))))))

protected theorem Canonical.lagExpiry {s : State} (h : Canonical s) : Canonical (lagExpiry s) :=
  h.detachTwin.ite (h.mk.stepProgress.ite h)

protected theorem Canonical.resendAll {s : State} (h : Canonical s) : Canonical (resendAll s) :=
  .foldl (h.foldl fun _ _ h => h.foldl fun _ _ h => h.sendMsg) fun _ _ h => h.sendMsg

protected theorem Canonical.twinReset {s : State} (h : Canonical s) : Canonical (twinReset s) := h.mk.ite h.mk.wr.wr

/-! ### The definitions of `Machine/Units.lean` -/

protected theorem Canonical.clearCoreMemory {s : State} {x keep : Nat} (h : Canonical s) : Canonical (clearCoreMemory s x keep)
    := by
  obtain ⟨hm, hp, hf, hd⟩ := (canonical_iff s).1 h
  exact (canonical_iff _).2 ⟨Tab.filter_wf _ hm, Tab.filter_wf _ hp, Tab.filter_wf _ hf, hd⟩

protected theorem Canonical.clearCores {s : State} {x keep : Nat} (h : Canonical s) : Canonical (clearCores s x keep) :=
  h.foldl fun _ _ h => h.setCore

protected theorem Canonical.sectorLost {s : State} {x keep : Nat} {commons : Bool} (h : Canonical s) :
    Canonical (sectorLost s x keep commons) :=
  .setSector (.mk (.setLanding (h.zeroFill.zeroFill.zeroFill.clearCoreMemory.clearCores.ite
    h.zeroFill.zeroFill.zeroFill.clearCoreMemory.clearCores.zeroFill)))

protected theorem Canonical.windowsQuiet {s : State} {x : Nat} (h : Canonical s) : Canonical (windowsQuiet s x) :=
  h.foldl fun _ _ h => h.quietWindow

protected theorem Canonical.postAborted {s : State} {x k : Nat} {t : Taken} {st hung : Nat} (h : Canonical s) :
    Canonical (postAborted s x k t st hung) := h.mk.postCompletion

protected theorem Canonical.resetGroups {s : State} {kept : Bool} (h : Canonical s) : Canonical (resetGroups s kept) :=
  h.mk.noteGroups

protected theorem Canonical.unitsReset {s : State} {kind : Nat} (h : Canonical s) : Canonical (unitsReset s kind) :=
  .pkeReset (.noteReleases (.heldLost (.refreshCables (.twinReset (.ite (h.resetGroups.mk.mk.foldl fun _ _ h => h.eraseReplay)
    h.resetGroups.mk)))))

protected theorem Canonical.groupLost {s : State} {i : Nat} (h : Canonical s) : Canonical (groupLost s i) := h.mk.inc

protected theorem Canonical.bootGroups {s : State} {lost : List Nat} (h : Canonical s) : Canonical (bootGroups s lost) :=
  .foldl (.noteGroups (.mk (.foldl (h.foldl fun _ _ h => h.foldl fun _ _ h => h.showGranule) fun _ _ h => h.mk.ite h)))
    fun _ _ h => h.groupLost

protected theorem Canonical.copyCrash {s : State} (h : Canonical s) : Canonical (copyCrash s) := by
  unfold copyCrash
  split
  · exact h.mk.wr.ite h
  · exact h

protected theorem Canonical.clearWindows {s : State} (h : Canonical s) : Canonical (clearWindows s) := h.zeroFill.mk

protected theorem Canonical.bootUnits {s : State} {lost : List Nat} (h : Canonical s) : Canonical (bootUnits s lost) :=
  .foldl (.copyCrash (.resumeScrubs (.foldl (.bootGroups (.clearWindows (.mk (.wr (.pkeWipe (h.foldl fun _ _ h =>
    h.setDomain)))))) fun _ _ h => h.foldl fun _ _ h => h.ringReenable.ite h))) fun _ _ h => h.portsOn

protected theorem Canonical.runDeferred {s : State} (h : Canonical s) : Canonical (runDeferred s) := by
  unfold runDeferred
  split
  · exact h.bootUnits
  · exact h

protected theorem Canonical.coreMoved {s : State} {c : Nat} (h : Canonical s) : Canonical (coreMoved s c) :=
  h.zeroFill.zeroFill.setCore

/-! ### The definitions of `Machine/Lifecycle.lean` -/

protected theorem Canonical.dictReset {s : State} {warm : Bool} (h : Canonical s) : Canonical (dictReset s warm) :=
    Canonical.filterDict h

protected theorem Canonical.capacityNow {s : State} (h : Canonical s) : Canonical (capacityNow s) := h.wr

protected theorem Canonical.mainLost {s : State} {keep : Bool} (h : Canonical s) : Canonical (mainLost s keep) :=
  .mk (.ite (.wr (.wr (.foldl (.pkeLost (.portsDisable (h.abandonEntry.foldl fun _ _ h => h.sectorLost))) fun _ _ h =>
    h.setDomain))) (.mk (.zeroFill (.wr (.wr (.foldl (.pkeLost (.portsDisable (h.abandonEntry.foldl fun _ _ h => h.sectorLost)))
    fun _ _ h => h.setDomain))))))

protected theorem Canonical.mainCurrent {s : State} {ma : Nat} (h : Canonical s) : Canonical (mainCurrent s ma) :=
  h.wr.ite h.mk.wr

protected theorem Canonical.stageOff {s : State} (h : Canonical s) : Canonical (stageOff s) := h.mk.mainCurrent

protected theorem Canonical.mainOff {s : State} (h : Canonical s) : Canonical (mainOff s) := h.mainLost.stageOff.ite h

protected theorem Canonical.lastSave {s : State} {cause : Nat} (h : Canonical s) : Canonical (lastSave s cause) :=
  h.wr.mk.ite (.mk (.ite (.mainOff (h.wr.mk.ite h.wr.mk.mk.wr)) (.abandonEntry (h.wr.mk.ite h.wr.mk.mk.wr))))

protected theorem Canonical.saveEnd {s : State} {us mv : Nat} (h : Canonical s) : Canonical (saveEnd s us mv) :=
  h.mk.wr.wr.wr.wr.inc.setAlert

protected theorem Canonical.timerefReset {s : State} {v : Nat} (h : Canonical s) : Canonical (timerefReset s v) := h.wr

protected theorem Canonical.crashAtReset {s : State} {kind : Nat} (h : Canonical s) : Canonical (crashAtReset s kind) := by
  unfold crashAtReset
  split
  · exact h
  · exact .mk (h.incBy.wr.ite h.incBy)

protected theorem Canonical.levelsReset {s : State} (h : Canonical s) : Canonical (levelsReset s) :=
  h.foldl fun _ _ h => h.setSector.regrant.setSector

protected theorem Canonical.startReset {s : State} {kind : Nat} (h : Canonical s) : Canonical (startReset s kind) :=
  h.crashAtReset.bootLog.mainLost.mk.dictReset.unitsReset.wr.wr.wr.wr.timerefReset.inc.wr.wr.mk.levelsReset.refreshCap.capacityNow

protected theorem Canonical.powerOnReset {s : State} {straps : Nat} {perst mrst rom : Bool} (h : Canonical s) :
    Canonical (powerOnReset s straps perst mrst rom) :=
  .capacityNow (.refreshCap (.levelsReset (.mk (.wr (.wr (h.mainLost.dictReset.unitsReset.wr.wr.wr.inc.ite
    h.mainLost.dictReset.unitsReset.wr.wr.wr))))))

protected theorem Canonical.sectorReset {s : State} {x kind hung : Nat} (h : Canonical s) :
    Canonical (sectorReset s x kind hung) :=
  .mk (.wr (.wr (.inc (.foldl (.foldl (.wr (.levelAtWake (.setDomain
    (h.laceStopSector.groupsSectorReset.windowsQuiet.sectorLost.foldl fun _ _ h => h.wr)))) fun _ _ h => h.ringReenable)
    fun _ _ h => h.foldl fun _ _ h => h.postAborted))))

/-! ### The definitions of `Machine/Supply.lean` -/

protected theorem Canonical.noteInputs {s : State} {mainMv auxMv : Nat} (h : Canonical s) :
    Canonical (noteInputs s mainMv auxMv) := h.mk.refreshAlert

protected theorem Canonical.enableMain {s : State} (h : Canonical s) : Canonical (enableMain s) :=
  h.mk.mk.runDeferred.foldl fun _ _ h => h.wakeOne.ite h

protected theorem Canonical.endHold {s : State} (h : Canonical s) : Canonical (endHold s) := h.mk

protected theorem Canonical.mainStageEnable {s : State} {mainMv auxMv : Nat} (h : Canonical s) :
    Canonical (mainStageEnable s mainMv auxMv) :=
  .ite (.enableMain (h.noteInputs.endHold.ite h.noteInputs)) (h.noteInputs.endHold.ite h.noteInputs)

protected theorem Canonical.mainOvervoltage {s : State} {mv : Nat} (h : Canonical s) : Canonical (mainOvervoltage s mv) :=
  .ite (.setAlert (h.mainOff.mk.ite h.mainOff.mk)) h

protected theorem Canonical.auxOvervoltage {s : State} {mv : Nat} (h : Canonical s) : Canonical (auxOvervoltage s mv) :=
  h.mainOff.mk.setAlert.lastSave.ite h

protected theorem Canonical.supplyRecovery {s : State} {mainMv auxMv : Nat} (h : Canonical s) :
    Canonical (supplyRecovery s mainMv auxMv) :=
  .ite (.ite (.enableMain (.endHold (h.noteInputs.ite h.noteInputs.startReset))) (.endHold (h.noteInputs.ite
    h.noteInputs.startReset))) h.noteInputs

protected theorem Canonical.auxRecovery {s : State} {mv straps : Nat} {rom : Bool} (h : Canonical s) :
    Canonical (auxRecovery s mv straps rom) := h.powerOnReset.ite h

protected theorem Canonical.mainSag {s : State} {mv : Nat} (h : Canonical s) : Canonical (mainSag s mv) :=
  h.mk.setAlert.lastSave.ite h

protected theorem Canonical.auxSag {s : State} {mv : Nat} (h : Canonical s) : Canonical (auxSag s mv) :=
  h.mk.setAlert.lastSave.ite h

protected theorem Canonical.sagInput {s : State} (h : Canonical s) : Canonical (sagInput s) := h.lastSave.ite h

protected theorem Canonical.takeMrst {s : State} (h : Canonical s) : Canonical (takeMrst s) := by
  unfold takeMrst
  split
  · exact h.startReset.endHold.mk.ite h.mk
  · exact h
  · exact h.startReset
  · exact h.startReset.mk

protected theorem Canonical.lastSaveEnd {s : State} {us mv : Nat} (h : Canonical s) : Canonical (lastSaveEnd s us mv) :=
  h.ite (h.saveEnd.mk.ite (h.saveEnd.takeMrst.ite h.saveEnd))

protected theorem Canonical.auxBelowFloor {s : State} {mv : Nat} (h : Canonical s) : Canonical (auxBelowFloor s mv) :=
  h.mainOff.mk.ite h

protected theorem Canonical.sagRelease {s : State} {mainMv auxMv : Nat} (h : Canonical s) :
    Canonical (sagRelease s mainMv auxMv) := h.mk.noteInputs.ite h

protected theorem Canonical.externalReset {s : State} {ns : Nat} (h : Canonical s) : Canonical (externalReset s ns) :=
  h.mk.ite (.ite (h.mk.mk.ite h.mk.takeMrst) h.mk)

protected theorem Canonical.pcieDefaults {s : State} (h : Canonical s) : Canonical (pcieDefaults s) := h.mk.wr.wr

protected theorem Canonical.perstReset {s : State} {high : Bool} (h : Canonical s) : Canonical (perstReset s high) :=
  h.mk.mk.wr.ite h.mk.pcieDefaults.wr

protected theorem Canonical.tripNow {s : State} {cause : Nat} (h : Canonical s) : Canonical (tripNow s cause) :=
  h.mainOff.mk.inc.lastSave

protected theorem Canonical.thermalTrip {s : State} {sensor : Nat} {t : ℤ} (h : Canonical s) :
    Canonical (thermalTrip s sensor t) := by
  unfold thermalTrip
  split
  · exact h.tripNow.ite h
  · exact h

protected theorem Canonical.coolOkLow {s : State} (h : Canonical s) : Canonical (coolOkLow s) :=
  h.mk.mk.setAlert.refreshCap.ite h.mk

protected theorem Canonical.coolOkReturn {s : State} {ms : Nat} (h : Canonical s) : Canonical (coolOkReturn s ms) :=
  .ite (.takeMrst (h.mk.mk.refreshCap.ite h.mk)) (h.mk.mk.refreshCap.ite h.mk)

protected theorem Canonical.coolantLoss {s : State} (h : Canonical s) : Canonical (coolantLoss s) := h.tripNow.ite h

protected theorem Canonical.presChange {s : State} {p : Nat} {low : Bool} (h : Canonical s) : Canonical (presChange s p low) :=
  h.ite (h.mk.setAlert.presTrain.ite h.mk.setAlert)

protected theorem Canonical.sectorTick {m : Measure} {s : State} {x : Nat} (h : Canonical s) : Canonical (sectorTick m s x) :=
  .setSector (h.wr.foldl fun _ _ h => h.paceBreak)

protected theorem Canonical.measureTick {s : State} {m : Measure} (h : Canonical s) : Canonical (measureTick s m) :=
  .ite (.takeMrst (.refreshCap (.refreshAlert (.mk (h.wr.wr.wr.mainCurrent.wr.wr.wr.wr.foldl fun _ _ h => h.sectorTick)))))
    (.refreshCap (.refreshAlert (.mk (h.wr.wr.wr.mainCurrent.wr.wr.wr.wr.foldl fun _ _ h => h.sectorTick))))

theorem keeps_dieThrottleSem : dieThrottleSem.Keeps := keeps_limited

theorem keeps_coolGraceSem : coolGraceSem.Keeps := keeps_limited

theorem keeps_alertMaskSem : alertMaskSem.Keeps := keeps_of_eff fun _ _ _ h => h.wr.alertEdge

/-! ### The definitions of `Machine/Power.lean` -/

protected theorem Canonical.raiseCap {s : State} {x : Nat} (h : Canonical s) : Canonical (raiseCap s x) := h.setSector.regrant

protected theorem Canonical.capRaise {s : State} {raised : List Nat} (h : Canonical s) : Canonical (capRaise s raised).1 := by
  unfold capRaise
  split
  · exact h.raiseCap
  · exact h

protected theorem Canonical.capUp {s : State} {p : PowerSample} (h : Canonical s) : Canonical (capUp s p) :=
  .incBy (.ite_fst (.capRaise (h.foldl fun _ _ h => h.raiseCap)) (h.foldl fun _ _ h => h.raiseCap))

protected theorem Canonical.capDown {s : State} {p : PowerSample} (h : Canonical s) : Canonical (capDown s p) :=
  h.setSector.mk.regrant.ite h.mk

protected theorem Canonical.throttleSector {tenth : Bool} {p : PowerSample} {s : State} {x : Nat} (h : Canonical s) :
    Canonical (throttleSector tenth p s x) := .ite (h.setSector.regrant.ite h) (h.setSector.regrant.ite h)

protected theorem Canonical.powerTick {s : State} {p : PowerSample} (h : Canonical s) : Canonical (powerTick s p) :=
  h.wr.ite (.refreshAlert (.mk (h.wr.capUp.capDown.foldl fun _ _ h => h.throttleSector)))

protected theorem Canonical.switchSector {state : Nat} {s : State} {x : Nat} (h : Canonical s) :
    Canonical (switchSector state s x) := h.setDomain.ite h.sectorLost.wr.setDomain

protected theorem Canonical.switchOther {state : Nat} {s : State} {d : Nat} (h : Canonical s) :
    Canonical (switchOther state s d) :=
  .setDomain (.ite (.mk (.ite (.portsOff (h.pkeLost.ite h.wr)) (h.pkeLost.ite h.wr))) (.ite (.portsOff (h.pkeLost.ite h.wr))
    (h.pkeLost.ite h.wr)))

protected theorem Canonical.switchAll {s : State} {e : SleepEntry} (h : Canonical s) : Canonical (switchAll s e) :=
  .wr (.wr (.inc (.ite (.stageOff (.mk (.zeroFill (.mk (.foldl (h.foldl fun _ _ h => h.switchSector) fun _ _ h =>
    h.switchOther))))) (.mk (.foldl (h.foldl fun _ _ h => h.switchSector) fun _ _ h => h.switchOther)))))

protected theorem Canonical.sleepEnter {s : State} {state others sectors : Nat} (h : Canonical s) :
    Canonical (sleepEnter s state others sectors) := h.switchAll.ite h.mk.wr

protected theorem Canonical.sleepWake {s : State} {others sectors : Nat} (h : Canonical s) :
    Canonical (sleepWake s others sectors) :=
  .ite (.wr (h.foldl fun _ _ h => h.wakeDomain)) (.wr (.mk (h.foldl fun _ _ h => h.wakeDomain)))

protected theorem Canonical.sleepRequest {s : State} {v : Nat} (h : Canonical s) : Canonical (sleepRequest s v) :=
  h.wr.ite (h.wr.ite (h.sleepWake.ite h.sleepEnter))

theorem keeps_sleepSem : sleepSem.Keeps := keeps_command (fun _ _ _ h => h.sleepRequest)

protected theorem Canonical.sleepCmd {state : Nat} {via : Path} {others sectors : Nat} {s : State} (h : Canonical s) :
    Canonical (sleepCmd state via others sectors s) := h.access keeps_sleepSem

protected theorem Canonical.markAsked {s : State} {e : SleepEntry} (h : Canonical s) : Canonical (markAsked s e) :=
  h.foldl fun _ _ h => h.setDomain.ite h

protected theorem Canonical.sleepAnswer {s : State} {b : Nat} {ans : SleepAns} (h : Canonical s) :
    Canonical (sleepAnswer s b ans) := by
  unfold sleepAnswer
  split
  · exact h
  · exact h.ite (by
      split
      · exact h.endEntry
      · exact h.endEntry.ite h
      · exact h.mk
      · exact h.mk.markAsked.wr.switchAll.ite h.mk.markAsked)

protected theorem Canonical.delayExpiry {s : State} {b : Nat} (h : Canonical s) : Canonical (delayExpiry s b) := by
  unfold delayExpiry
  split
  · exact h
  · exact h.endEntry.ite h

protected theorem Canonical.wakeDemand {s : State} {d : Nat} {a0 : WakeKind} (h : Canonical s) :
    Canonical (wakeDemand s d a0) := h.trafficTo.ite (h.ite h.wakeDomain)

theorem keeps_powerCapSem : powerCapSem.Keeps := keeps_of_eff fun _ _ _ h => h.wr.refreshCap

theorem keeps_levelReqSem {x : Nat} : (levelReqSem x).Keeps := keeps_of_eff fun _ _ _ h => h.wr.regrant

theorem keeps_delayMaxSem : delayMaxSem.Keeps := keeps_limited

/-! ### The definitions of `Machine/Resets.lean` -/

theorem keeps_resetSem : resetSem.Keeps := keeps_mk (keeps_command (fun _ _ _ h => h.sectorReset.ite h.startReset))

protected theorem Canonical.reinstate {s : State} (h : Canonical s) : Canonical (reinstate s) :=
  h.wr.wr.wr.mk.bootLog.startReset

theorem keeps_reinstateSem : reinstateSem.Keeps := keeps_mk (keeps_command (fun _ _ _ h => h.reinstate))

protected theorem Canonical.beginCrash {s : State} (h : Canonical s) : Canonical (beginCrash s) :=
  .inc (.wr (.mk (h.inc.ite h)))

protected theorem Canonical.declareHang {s : State} {block : Nat} {sec : Option Nat} {headerOnly : Bool} (h : Canonical s) :
    Canonical (declareHang s block sec headerOnly) :=
  h.inc.setAlert.wr.wr.bootLog.mk.beginCrash.ite h.inc.setAlert.wr.wr.bootLog.mk

protected theorem Canonical.hangDeclared {s : State} {block : Nat} (h : Canonical s) : Canonical (hangDeclared s block) :=
  .ite (h.declareHang.ite h) h.declareHang

protected theorem Canonical.stallDetected {s : State} {b : Nat} (h : Canonical s) : Canonical (stallDetected s b) := by
  unfold stallDetected
  split
  · exact h.declareHang.ite h
  · exact h.portStalled.ite h.declareHang

protected theorem Canonical.crashDone {s : State} {silent unread : List Nat} (h : Canonical s) :
    Canonical (crashDone s silent unread) := by
  unfold crashDone
  split
  · exact h
  · dsimp only
    split
    · exact .ite (h.mk.wr.bootLog.mk.sectorReset.copyCrash.ite h.mk.wr.bootLog.mk.sectorReset.copyCrash.beginCrash)
        h.mk.wr.bootLog.startReset
    · exact h.mk.wr.bootLog.startReset

theorem keeps_crashReadSem : crashReadSem.Keeps := keeps_of_eff fun _ _ _ h => h.wr.wr

protected theorem Canonical.writeSlots {s : State} {x : Nat} {act failed : List Nat} (h : Canonical s) :
    Canonical (writeSlots s x act failed) := h.foldl fun _ _ h => h.wr

protected theorem Canonical.updateKeeperDigest {s : State} (h : Canonical s) : Canonical (updateKeeperDigest s) := h.wr

protected theorem Canonical.keeperSwap {s : State} {c : Nat} (h : Canonical s) : Canonical (keeperSwap s c) :=
  h.wr.ite (by
    split
    · exact h.wr
    · exact h.writeSlots.coreMoved.updateKeeperDigest.wr.bootLog.mk.wr)

protected theorem Canonical.keeperTest {s : State} {x t : Nat} (h : Canonical s) : Canonical (keeperTest s x t) :=
  h.wr.ite h.mk.wr

theorem keeps_keeperSem : keeperSem.Keeps := keeps_mk (keeps_command (fun _ _ _ h => h.keeperSwap.ite h.keeperTest))

protected theorem Canonical.keeperTestDone {s : State} {x t : Nat} {passed : Bool} (h : Canonical s) :
    Canonical (keeperTestDone s x t passed) := by
  unfold keeperTestDone
  split
  · exact h
  · exact h.ite (.ite (.wr (h.mk.writeSlots.ite h.mk.writeSlots.wr)) (.wr (h.mk.writeSlots.wr.ite h.mk.writeSlots)))

protected theorem Canonical.detour {s : State} {k : Nat} (h : Canonical s) : Canonical (detour s k) := h.wr.ite h.wr.wr.bootLog

protected theorem Canonical.meshTest {s : State} {k : Nat} (h : Canonical s) : Canonical (meshTest s k) := h.mk.wr.ite h.wr

protected theorem Canonical.meshRestore {s : State} {k : Nat} (h : Canonical s) : Canonical (meshRestore s k) :=
  h.wr.wr.ite h.wr

theorem keeps_meshSem : meshSem.Keeps :=
  keeps_mk (keeps_command (fun _ _ _ h => by
    split
    · exact h.detour
    · exact h.meshTest
    · exact h.meshRestore))

protected theorem Canonical.meshCmd {op : Nat} {via : Path} {k : Nat} {s : State} (h : Canonical s) :
    Canonical (meshCmd op via k s) := h.access keeps_meshSem

protected theorem Canonical.meshRepeat {s : State} {k : Nat} (h : Canonical s) : Canonical (meshRepeat s k) :=
  h.mk.detour.ite h.mk

protected theorem Canonical.meshTestDone {s : State} {passed : Bool} (h : Canonical s) : Canonical (meshTestDone s passed) := by
  unfold meshTestDone
  split
  · exact h.mk.wr
  · exact h

protected theorem Canonical.fullTest {s : State} {v : Nat} (h : Canonical s) : Canonical (fullTest s v) :=
  .ite (.wr (.mk (.ite (h.portsDisable.foldl fun _ _ h => h.sectorLost) h.portsDisable))) h.wr

theorem keeps_fullTestSem : fullTestSem.Keeps := keeps_mk (keeps_command (fun _ _ _ h => h.fullTest))

protected theorem Canonical.fullTestDone {s : State} {passed : Bool} (h : Canonical s) : Canonical (fullTestDone s passed) := by
  unfold fullTestDone
  split
  · exact h
  · exact .startReset (h.mk.wr.bootLog.ite h.mk.wr.bootLog.goOutOfService)

theorem keeps_sampleSectorsSem : sampleSectorsSem.Keeps := keeps_limited

theorem keeps_cmLinesSem : cmLinesSem.Keeps := keeps_limited

theorem keeps_hangLimitSem : hangLimitSem.Keeps := keeps_limited

theorem keeps_stallLimitSem : stallLimitSem.Keeps := keeps_limited

theorem keeps_escLimitSem : escLimitSem.Keeps := keeps_limited

theorem keeps_escWindowSem : escWindowSem.Keeps := keeps_limited

theorem keeps_detourThresholdSem : detourThresholdSem.Keeps := keeps_limited

theorem keeps_cmOffsetSem {k : Nat} : (cmOffsetSem k).Keeps := keeps_limited

/-! ### The definitions of `Machine/Security.lean` -/

theorem keeps_unlockSem {signed : Bool} : (unlockSem signed).Keeps := keeps_of_eff fun _ _ _ h => h.wr.mk.ite h.wr

protected theorem Canonical.extend {s : State} {i : Nat} {d : List Byte} (h : Canonical s) : Canonical (extend s i d) := h.wr

theorem keeps_anchorSem {i : Nat} : (anchorSem i).Keeps := keeps_of_eff fun _ _ _ h => h.wr.extend

theorem keeps_svnSem : svnSem.Keeps := keeps_limited

protected theorem Canonical.instantiate {s : State} (h : Canonical s) : Canonical (instantiate s) := h.mk

protected theorem Canonical.runImage {s : State} {k : Nat} {v : ImageVerdict} {sections : List (List Byte)} (h : Canonical s) :
    Canonical (runImage s k v sections) := .wr (.extend (.bootLog (h.wr.wr.wr.extend.foldl fun _ _ h => h.extend)))

protected theorem Canonical.bootVerified {s : State} {v : BootVerdict} (h : Canonical s) : Canonical (bootVerified s v) :=
  h.ite (h.bootLog.instantiate.extend.extend.wr.ite (h.bootLog.instantiate.extend.extend.runImage.ite
    (h.bootLog.instantiate.extend.extend.bootLog.bootLog.inc.runImage.ite
    h.bootLog.instantiate.extend.extend.bootLog.bootLog.inc.bootLog.wr)))

protected theorem Canonical.changeRuns {s : State} (h : Canonical s) : Canonical (changeRuns s).2 := by
  unfold changeRuns
  dsimp only
  split
  · exact h.mk
  · split
    · exact h
    · split
      · split <;> split <;> exact h.mk
      · split <;> exact h.mk

protected theorem Canonical.spdmAnswer {s : State} {d : List Byte} (h : Canonical s) : Canonical (spdmAnswer s d) := h.emit

protected theorem Canonical.spdmError {s : State} {e : Nat} (h : Canonical s) : Canonical (spdmError s e) := h.emit

protected theorem Canonical.spdmIsBusy {s : State} (h : Canonical s) : Canonical (spdmIsBusy s) := h.wr.spdmError

protected theorem Canonical.setSessions {s : State} {l : List Session} (h : Canonical s) : Canonical (setSessions s l) :=
  h.mk.wr

protected theorem Canonical.inSession {s : State} {i : Nat} {f : State → State} (h : Canonical s) (hf : ∀ (a : State), Canonical
    a → Canonical (f a)) :
    Canonical (inSession s i f) := .ite (hf _ h) h.spdmError

protected theorem Canonical.spdmServe {s : State} {a0 : SpdmReq} (h : Canonical s) : Canonical (spdmServe s a0) := by
  unfold spdmServe
  split
  · exact h.spdmAnswer
  · exact h.spdmAnswer
  · exact h.spdmAnswer
  · exact h.spdmAnswer
  · exact h.spdmError.ite h.spdmAnswer
  · exact h.spdmAnswer
  · exact h.spdmAnswer.ite (h.spdmAnswer.ite (by
      split
      · exact h.spdmAnswer
      · exact h.spdmError))
  · exact h.spdmError.ite h.setSessions.spdmAnswer
  · exact h.inSession (fun _ h => h.setSessions.spdmAnswer)
  · exact h.inSession (fun _ h => h.spdmAnswer)
  · exact h.inSession (fun _ h => h.spdmAnswer)
  · exact h.inSession (fun _ h => h.setSessions.spdmAnswer)
  · exact h.spdmError

protected theorem Canonical.spdmRequest {s : State} {q : SpdmReq} (h : Canonical s) : Canonical (spdmRequest s q) :=
  h.ite (h.mk.spdmError.ite (h.spdmIsBusy.ite (h.spdmServe.ite (h.changeRuns.spdmIsBusy.ite h.changeRuns.spdmServe))))

protected theorem Canonical.keyRelease {s : State} {i : Nat} {r : ReleaseReq} (h : Canonical s) :
    Canonical (keyRelease s i r) :=
  h.ite (h.spdmIsBusy.ite (h.spdmError.ite (h.spdmAnswer.ite h.forwardInput.setReleases.spdmAnswer)))

protected theorem Canonical.keyRevoke {s : State} {i p pkg : Nat} (h : Canonical s) : Canonical (keyRevoke s i p pkg) :=
  h.ite (h.spdmIsBusy.ite (h.spdmAnswer.ite h.forwardInput.setReleases.spdmAnswer))

protected theorem Canonical.trngFail {s : State} (h : Canonical s) : Canonical (trngFail s) := h.mk.inc.wr

protected theorem Canonical.reseed {s : State} {entropy : List Byte} (h : Canonical s) : Canonical (reseed s entropy) :=
  h.ite h.mk.inc

/-! ### The definitions of `Machine/Timing.lean` -/

protected theorem Canonical.levelRampEnd {s : State} {x : Nat} (h : Canonical s) : Canonical (levelRampEnd s x) := by
  unfold levelRampEnd
  split
  · exact h
  · exact h.setSector.paceBreak.ite h.setSector.paceBreak.startRamp

protected theorem Canonical.pacerLock {s : State} {x : Nat} (h : Canonical s) : Canonical (pacerLock s x) := h.wr.ite h

protected theorem Canonical.setTrim {s : State} {d : Nat} {mv : ℤ} (h : Canonical s) : Canonical (setTrim s d mv) := h.wr

protected theorem Canonical.canaryTrim {s : State} {d slack : Nat} (h : Canonical s) : Canonical (canaryTrim s d slack) :=
  h.setTrim.ite (h.setTrim.ite (h.setTrim.ite h))

protected theorem Canonical.canaryAlarm {s : State} {d slack : Nat} (h : Canonical s) : Canonical (canaryAlarm s d slack) :=
  h.setTrim.inc.ite h

protected theorem Canonical.timerefFallback {s : State} {edgesLost : Bool} (h : Canonical s) :
    Canonical (timerefFallback s edgesLost) := h.mk.wr.mk.useExternal.wr.inc.setAlert.ite h.mk.wr

protected theorem Canonical.timerefSource {s : State} {v : Nat} (h : Canonical s) : Canonical (timerefSource s v) :=
  h.mk.wr.wr.useExternal

theorem keeps_timerefSourceSem : timerefSourceSem.Keeps := keeps_of_eff fun _ _ _ h => h.timerefSource

protected theorem Canonical.timerefPresent {s : State} {ppm : Nat} (h : Canonical s) : Canonical (timerefPresent s ppm) :=
  h.mk.wr.timerefFallback.ite (h.mk.wr.useExternal.ite h.mk.wr)

theorem keeps_slackSem : slackSem.Keeps := keeps_limited

/-! ### The definitions of `Machine/EntryTable.lean` -/

theorem keeps_openly {f : Bool → EntrySem} (hf : ∀ b, (f b).Keeps) : (openly f).Keeps :=
  keeps_of_eff fun _ via v h => (hf _).eff (via := via) (v := v) (Canonical.mk h)

theorem keeps_twinOpenSem : twinOpenSem.Keeps :=
  keeps_of_eff fun _ via v h => keeps_twinSem.eff (via := via) (v := v) (Canonical.mk h)

theorem keeps_pacingSem {x : Nat} : (pacingSem x).Keeps := keeps_of_eff fun _ _ _ h => h.wr

theorem keeps_pinnedSem : pinnedSem.Keeps := keeps_limited

theorem keeps_coreModeSem {x : Nat} : (coreModeSem x).Keeps := keeps_of_eff fun _ _ _ h => h.wr

theorem keeps_keyStoreSem : keyStoreSem.Keeps := keeps_mk keeps_limited

theorem keeps_nodeSem {k : Nat} : (nodeSem k).Keeps := keeps_mk keeps_plain

theorem keeps_stepSem {k : Nat} {r : Nat → Bool} : (stepSem k r).Keeps := keeps_mk keeps_limited

theorem keeps_unboundSem {k : Nat} : (unboundSem k).Keeps := keeps_mk keeps_plain

theorem keeps_carrySem {k : Nat} : (carrySem k).Keeps := keeps_mk keeps_plain

theorem keeps_detModeSem {p : Nat} : (detModeSem p).Keeps := keeps_mk keeps_limited

theorem keeps_within' {k lo hi : Nat} : (within' k lo hi).Keeps := keeps_limited

theorem keeps_moduleSem {i sub : Nat} : (moduleSem i sub).Keeps :=
  keeps_ite keeps_pacingSem <| keeps_ite keeps_levelReqSem <| keeps_ite keeps_retainMaskSem <| keeps_ite keeps_dieThrottleSem <|
    keeps_ite keeps_timerefSourceSem <| keeps_ite keeps_alertMaskSem <| keeps_ite keeps_coolGraceSem <| keeps_ite keeps_slackSem
    <| keeps_ite keeps_powerCapSem <| keeps_ite keeps_pinnedSem <| keeps_ite keeps_sleepSem <| keeps_ite keeps_delayMaxSem <|
    keeps_ite keeps_scrubPeriodSem <| keeps_ite keeps_mapOutSem <| keeps_ite keeps_mapInSem <| keeps_ite keeps_headroomSem <|
    keeps_ite keeps_keyStoreSem <| keeps_ite keeps_throttleCSem <| keeps_ite keeps_ueThresholdSem <| keeps_ite keeps_repairSem
    <| keeps_ite (keeps_ite keeps_xmSem keeps_xmEntrySem) <| keeps_ite keeps_abandonSem keeps_plain

theorem keeps_coreSem {i sub : Nat} : (coreSem i sub).Keeps :=
  keeps_ite keeps_coreModeSem <| keeps_ite keeps_poolSem <| keeps_ite keeps_heAbortSem <| keeps_ite keeps_within' <| keeps_ite
    keeps_ringCmdSem <| keeps_ite keeps_within' <| keeps_ite keeps_within' <| keeps_ite keeps_sgAbortSem <| keeps_ite
    keeps_sgqSem <| keeps_ite keeps_chainSem <| keeps_ite keeps_chainStageSem <| keeps_ite keeps_keysetSem <| keeps_ite
    keeps_keysetEntrySem <| keeps_ite keeps_querySem keeps_plain

theorem keeps_fabricSem {i sub : Nat} : (fabricSem i sub).Keeps :=
  keeps_ite (keeps_openly (fun _ => keeps_portSem)) <| keeps_ite keeps_nodeSem <| keeps_ite keeps_within' <| keeps_ite
    keeps_within' <| keeps_ite keeps_routeSem <| keeps_ite keeps_within' <| keeps_ite keeps_within' <| keeps_ite keeps_within'
    <| keeps_ite keeps_within' <| keeps_ite keeps_stepResumeSem <| keeps_ite keeps_stepSem <| keeps_ite keeps_stepSem <|
    keeps_ite keeps_within' <| keeps_ite keeps_unboundSem <| keeps_ite keeps_twinOpenSem <| keeps_ite keeps_within' <| keeps_ite
    keeps_within' <| keeps_ite keeps_carrySem <| keeps_ite keeps_within' <| keeps_ite keeps_within' keeps_plain

theorem keeps_islandSem {i sub : Nat} : (islandSem i sub).Keeps :=
  keeps_ite keeps_svnSem <| keeps_ite (keeps_openly (fun _ => keeps_unlockSem)) <| keeps_ite keeps_anchorSem <| keeps_ite
    keeps_pkgSem <| keeps_ite keeps_pkgEntrySem <| keeps_ite (keeps_ite (keeps_openly (fun _ => keeps_partSem))
    keeps_partEntrySem) <| keeps_ite keeps_resetSem <| keeps_ite keeps_hangLimitSem <| keeps_ite keeps_stallLimitSem <|
    keeps_ite keeps_escLimitSem <| keeps_ite keeps_escWindowSem <| keeps_ite keeps_reinstateSem <| keeps_ite
    keeps_sampleSectorsSem <| keeps_ite keeps_cmLinesSem <| keeps_ite keeps_crashReadSem <| keeps_ite keeps_cmOffsetSem <|
    keeps_ite keeps_keeperSem <| keeps_ite keeps_meshSem <| keeps_ite keeps_detourThresholdSem <| keeps_ite keeps_fullTestSem <|
    keeps_ite keeps_pkeJobSem <| keeps_ite keeps_pkeEntrySem <| keeps_ite keeps_pkeSelftestSem <| keeps_ite
    keeps_pkeFaultLimitSem keeps_plain

theorem keeps_detSem {i sub : Nat} : (detSem i sub).Keeps :=
  keeps_ite keeps_detModeSem <| keeps_ite keeps_ordFlushSem <| keeps_ite keeps_provModeSem <| keeps_ite keeps_counterSem <|
    keeps_ite keeps_bwWindowSem <| keeps_ite keeps_tagEnableSem <| keeps_ite keeps_tagRateSem <| keeps_ite keeps_tagRecordsSem
    <| keeps_ite keeps_tagSem <| keeps_ite (keeps_ite keeps_nrSem (keeps_ite keeps_auditorSem keeps_plain)) <| keeps_ite
    (keeps_ite keeps_counterSem keeps_plain) <| keeps_ite keeps_histSem <| keeps_ite (keeps_ite keeps_counterSem keeps_plain)
    keeps_plain

theorem keeps_hostSem {i sub : Nat} : (hostSem i sub).Keeps :=
  keeps_ite keeps_within' <| keeps_ite keeps_bar2BaseSem <| keeps_ite (keeps_ite keeps_ringEnableSem keeps_ringEntrySem) <|
    keeps_ite (keeps_ite keeps_eventEnableSem keeps_eventEntrySem) <| keeps_ite keeps_fwSem <| keeps_ite keeps_fwEntrySem
    keeps_plain

theorem keeps_tableSem {i sub : Nat} : (tableSem i sub).Keeps :=
  keeps_ite keeps_moduleSem <| keeps_ite keeps_coreSem <| keeps_ite keeps_fabricSem <| keeps_ite keeps_islandSem <| keeps_ite
    keeps_detSem keeps_hostSem

/-! ### The definitions of `Machine/Entry.lean` -/

theorem keeps_semWith {pads : State → Nat → State} {i sub : Nat} (hpads : ∀ s v, Canonical s → Canonical (pads s v)) :
    (semWith pads i sub).Keeps := keeps_ite (keeps_command (fun _ _ _ h => hpads _ _ h)) keeps_tableSem

protected theorem Canonical.windowDone {s : State} {wrote : Bool} (h : Canonical s) : Canonical (windowDone s wrote) := h.mk

protected theorem Canonical.goOnWith {pads : State → Nat → State} {s : State} {a : Access} (hpads : ∀ s v, Canonical s →
    Canonical (pads s v)) (h : Canonical s) :
    Canonical (goOnWith pads s a) :=
  h.bar2Access.ite (h.windowStore.ite (.ite (.windowDone (h.access (keeps_semWith (fun _ _ h => hpads _ _ h)))) (h.access
    (keeps_semWith (fun _ _ h => hpads _ _ h)))))

protected theorem Canonical.releaseWith {pads : State → Nat → State} {s : State} {d : Nat} (hpads : ∀ s v, Canonical s →
    Canonical (pads s v)) (h : Canonical s) :
    Canonical (releaseWith pads s d) := h.mk.foldl fun _ _ h => .goOnWith (fun _ _ h => hpads _ _ h) h

protected theorem Canonical.wakeTasks {s : State} (h : Canonical s) : Canonical (wakeTasks s) :=
  h.clearWindows.mk.dropAllKeys.mk.noteGroups.noteXlat.ite h

protected theorem Canonical.takeArrival {s : State} {a0 : Arrival} (h : Canonical s) : Canonical (takeArrival s a0) := by
  unfold takeArrival
  split
  · exact h.ldtComplete
  · exact h.transferDone
  · exact h.keyChunk
  · exact h.purposeTaken
  · exact h.remoteWrite
  · exact h.answerWindow

protected theorem Canonical.takeArrivals {s : State} {x : Nat} (h : Canonical s) : Canonical (takeArrivals s x) :=
  h.mk.foldl fun _ _ h => h.takeArrival

protected theorem Canonical.domainBack {s : State} {d : Nat} (h : Canonical s) : Canonical (domainBack s d) :=
  h.wr.levelAtWake.takeArrivals.ite (h.wakeTasks.ite (h.portsOn.ite h.pkeWipe))

protected theorem Canonical.domainIsOn {s : State} {d : Nat} (h : Canonical s) : Canonical (domainIsOn s d) :=
  .domainBack (.inc (h.mk.setDomain.wr.wr.ite h.mk.setDomain.wr))

protected theorem Canonical.releasePads {n : Nat} {s : State} {v : Nat} (h : Canonical s) : Canonical (releasePads n s v) := by
  induction n generalizing s v with
  | zero => exact h
  | succ n ih => exact Canonical.foldl h fun _ _ h => Canonical.releaseWith (fun _ _ h => ih h) (Canonical.domainIsOn h)

protected theorem Canonical.pads {s : State} {v : Nat} (h : Canonical s) : Canonical (pads s v) := h.releasePads

theorem keeps_entrySem {i sub : Nat} : (entrySem i sub).Keeps := keeps_semWith (fun _ _ h => h.pads)

protected theorem Canonical.release {s : State} {d : Nat} (h : Canonical s) : Canonical (release s d) :=
  .releaseWith (fun _ _ h => h.pads) h

protected theorem Canonical.domainWakeDone {s : State} {d stallUs : Nat} (h : Canonical s) :
    Canonical (domainWakeDone s d stallUs) := h.ite (.ite (.mk (h.wr.ite h)) (.release (.domainIsOn (h.wr.ite h))))

protected theorem Canonical.dictRequest {s : State} {a : Access} (h : Canonical s) : Canonical (dictRequest s a) :=
  h.finish.ite (h.access keeps_entrySem)

protected theorem Canonical.windowGo {s : State} {i sub op len : Nat} {d : List Byte} (h : Canonical s) :
    Canonical (windowGo s i sub op len d) :=
  h.inc.ite (h.mk.finish.windowDone.ite (.ite (.mk (h.mk.access keeps_entrySem)) (.windowDone (h.mk.access keeps_entrySem))))

protected theorem Canonical.restoreSave {s : State} (h : Canonical s) : Canonical (restoreSave s) := by
  unfold restoreSave
  split
  · exact .bootLog (.setAlert (.mk (.ite (.wr (h.mk.mk.wr.wr.wr.ite h.mk)) (h.mk.mk.wr.wr.wr.ite h.mk))))
  · exact h.mk

protected theorem Canonical.escalate {s : State} (h : Canonical s) : Canonical (escalate s) := h.wr.goOutOfService.ite h.wr

protected theorem Canonical.tellReset {s : State} (h : Canonical s) : Canonical (tellReset s) := h.sendResetNotices.ite h

protected theorem Canonical.aonOnly {s : State} (h : Canonical s) : Canonical (aonOnly s) := h.foldl fun _ _ h => h.setDomain

protected theorem Canonical.bootReady {s : State} {sel : BootReport} (h : Canonical s) : Canonical (bootReady s sel) :=
  h.ite (.release (.refreshAlert (h.inc.restoreSave.escalate.mk.noteXlat.dropAllKeys.wr.aonOnly.refreshAlert.ite
    (h.inc.restoreSave.escalate.mk.noteXlat.dropAllKeys.wr.bootUnits.tellReset.ite
    h.inc.restoreSave.escalate.mk.noteXlat.dropAllKeys.wr.mk.tellReset))))

/-! ### The definitions of `Machine/Me.lean` -/

protected theorem Canonical.mma {s : State} {c : Nat} {x : XIns} (h : Canonical s) : Canonical (mma s c x) := h.issue

protected theorem Canonical.msum {s : State} {c : Nat} {x : XIns} (h : Canonical s) : Canonical (msum s c x) := h.issue

protected theorem Canonical.mmod {s : State} {c : Nat} {x : XIns} (h : Canonical s) : Canonical (mmod s c x) := h.issue

/-! ### The definitions of `Machine/TwinInput.lean` -/

protected theorem Canonical.takeInput {s : State} {a0 : InputRec} (h : Canonical s) : Canonical (takeInput s a0) := by
  unfold takeInput
  split
  · exact h.acceptRequest
  · exact h.takeAnswer
  · exact h.takeRecord.ite h
  · exact h.hbmStore.ite h
  · exact h.access keeps_entrySem

protected theorem Canonical.inputRecord {s : State} {n : Nat} {r : InputRec} (h : Canonical s) :
    Canonical (inputRecord s n r) := h.ite (h.takeInput.ackYoke.ite h.mk.ackYoke)

protected theorem Canonical.takeover {s : State} {pauseUs : Nat} (h : Canonical s) : Canonical (takeover s pauseUs) :=
  .refreshTwin (.foldl (.wr (.inc (.foldl (h.wr.wr.wr.mk.resendAll.ite (h.wr.wr.wr.mk.foldl fun _ _ h => h.takeInput))
    fun _ _ h => h.sendHello.advertiseTo))) fun _ _ h => h.postEvent)

protected theorem Canonical.twinTakeover {s : State} {quietMs pauseUs : Nat} (h : Canonical s) :
    Canonical (twinTakeover s quietMs pauseUs) := h.ite (h.detachTwin.refreshTwin.ite (h.ite h.takeover))

/-! ### The definitions of `Machine/Ve.lean` -/

protected theorem Canonical.vch {s : State} {c : Nat} {x : XIns} (h : Canonical s) : Canonical (vch s c x) := h.issue

protected theorem Canonical.vcld {s : State} {c : Nat} {x : XIns} (h : Canonical s) : Canonical (vcld s c x) := h.issue

protected theorem Canonical.vupd {s : State} {c : Nat} {x : XIns} (h : Canonical s) : Canonical (vupd s c x) := h.issue

protected theorem Canonical.vhcfg {s : State} {c : Nat} {x : XIns} (h : Canonical s) : Canonical (vhcfg s c x) := h.issue

protected theorem Canonical.vhstep {s : State} {c : Nat} {x : XIns} (h : Canonical s) : Canonical (vhstep s c x) := h.issue

end Sys2Proof.Machine
end

section
/-! SUPPORT. Every command, and so every step, keeps the canonical form (log 2). -/

namespace Sys2Proof.Machine

open Sys2Proof

theorem canonical_exec {c : Instr} {s t : State} (h : Canonical s) (runs : exec c s = .next t) : Canonical t := by
  cases c with
  | dictWrite | rcRead => exact canonical_of_guarded runs (h.access keeps_entrySem)
  | dictRequest => exact canonical_of_guarded runs h.dictRequest
  | dictWindowGo => exact canonical_of_guarded runs (h.ite h.windowGo)
  | powerOnReset => exact canonical_of_done runs h.powerOnReset
  | mainStageEnable => exact canonical_of_done runs h.mainStageEnable
  | mainOvervoltage => exact canonical_of_done runs h.mainOvervoltage
  | auxOvervoltage => exact canonical_of_done runs h.auxOvervoltage
  | supplyRecoveryReset => exact canonical_of_done runs h.supplyRecovery
  | auxRecoveryReset => exact canonical_of_done runs h.auxRecovery
  | mainSag => exact canonical_of_done runs h.mainSag
  | auxSag => exact canonical_of_done runs h.auxSag
  | sagInput => exact canonical_of_done runs h.sagInput
  | lastSaveEnd => exact canonical_of_done runs h.lastSaveEnd
  | auxBelowFloor => exact canonical_of_done runs h.auxBelowFloor
  | sagNRelease => exact canonical_of_done runs h.sagRelease
  | externalReset => exact canonical_of_done runs h.externalReset
  | perstNReset => exact canonical_of_done runs h.perstReset
  | pcieHotReset => exact canonical_of_done runs h.pcieDefaults
  | thermalTrip => exact canonical_of_guarded runs h.thermalTrip
  | coolOkLow => exact canonical_of_done runs h.coolOkLow
  | coolOkReturn => exact canonical_of_done runs h.coolOkReturn
  | coolantLoss => exact canonical_of_done runs h.coolantLoss
  | presNChange => exact canonical_of_guarded runs h.presChange
  | cinchEdge => exact canonical_of_done runs (.cinchEdge (h.mk.ite h))
  | timerefFallback => exact canonical_of_done runs h.timerefFallback
  | timerefSourceWrite => exact canonical_of_done runs (h.access keeps_timerefSourceSem)
  | measureTick => exact canonical_of_done runs h.measureTick
  | powerTick => exact canonical_of_done runs h.powerTick
  | levelRampEnd => exact canonical_of_guarded runs h.levelRampEnd
  | pacerLock => exact canonical_of_guarded runs h.pacerLock
  | canaryTrimTick => exact canonical_of_guarded runs h.canaryTrim
  | canaryAlarm => exact canonical_of_guarded runs h.canaryAlarm
  | cmAttrWrite => exact canonical_of_guarded runs (h.flush.cmAttrWrite.ite h)
  | scrubPass => exact canonical_of_guarded runs (h.arise.scrub.arise.ite h)
  | remoteWrite => exact canonical_of_guarded runs (h.remoteWrite.ite h.workReaches.awaitSector)
  | landingRangeClose => exact canonical_of_guarded runs h.landingRangeClose
  | hbmRead => exact canonical_of_done runs h.hbmRead
  | hbmPartialWrite => exact canonical_of_done runs h.hbmPartialWrite
  | hbmMapout => exact canonical_of_done runs (h.access keeps_mapOutSem)
  | hbmMapin => exact canonical_of_done runs (h.access keeps_mapInSem)
  | hbmMigrationDone => exact canonical_of_done runs h.migrationDone
  | hbmForcedMapout => exact canonical_of_guarded runs h.forceMapOut
  | hbmPatternTest | hbmLaneRepair | hbmHardPpr | hbmSoftPpr => exact canonical_of_guarded runs h.repairCmd
  | hbmRepairDone => exact canonical_of_done runs h.repairDone
  | hbmThermalTick => exact canonical_of_guarded runs h.thermalTick
  | adderUpdate => exact canonical_of_done runs h.adderRequest
  | blockEnd => exact canonical_of_guarded runs (h.blockEndOrHalt.ite h)
  | engineOpComplete => exact canonical_of_guarded runs (h.engineComplete.ite h)
  | nop => exact canonical_of_guarded runs h.nop
  | wait => exact canonical_of_guarded runs h.waitN
  | execLoop => exact canonical_of_guarded runs h.loopOp
  | push => exact canonical_of_guarded runs h.push
  | pushk => exact canonical_of_guarded runs h.pushK
  | popk => exact canonical_of_guarded runs h.popK
  | free => exact canonical_of_guarded runs h.freeTile
  | execEnd => exact canonical_of_guarded runs h.endExecute
  | ldt => exact canonical_of_guarded runs h.ldt
  | ldtComplete => exact canonical_of_guarded runs (h.arrival (fun _ h => h.ldtComplete))
  | stt => exact canonical_of_guarded runs h.stt
  | cpy => exact canonical_of_guarded runs h.cpy
  | tok => exact canonical_of_guarded runs h.tok
  | wtok => exact canonical_of_guarded runs h.wtok
  | accessLoop => exact canonical_of_guarded runs h.accessLoop
  | accessEnd => exact canonical_of_guarded runs h.accessEnd
  | transferDone => exact canonical_of_guarded runs (h.arrival (fun _ h => h.transferDone))
  | transferResume => exact canonical_of_guarded runs (h.resumeXfer.ite h)
  | movi => exact canonical_of_guarded runs h.movi
  | addi => exact canonical_of_guarded runs h.addi
  | alu => exact canonical_of_guarded runs h.alu
  | ldx => exact canonical_of_guarded runs h.ldx
  | stx => exact canonical_of_guarded runs h.stx
  | bcc => exact canonical_of_guarded runs h.bcc
  | brf => exact canonical_of_guarded runs h.brf
  | jmp => exact canonical_of_guarded runs h.jmp
  | runb => exact canonical_of_guarded runs h.runb
  | runc => exact canonical_of_guarded runs h.runc
  | waitb => exact canonical_of_guarded runs h.waitb
  | setlc => exact canonical_of_guarded runs h.setlc
  | getlc => exact canonical_of_guarded runs h.getlc
  | setcmp => exact canonical_of_guarded runs h.setcmp
  | getvs => exact canonical_of_guarded runs h.getvs
  | ldpm => exact canonical_of_guarded runs h.ldpm
  | ldpmDone => exact canonical_of_guarded runs h.ldpmDone
  | swap => exact canonical_of_guarded runs h.swap
  | pmwait => exact canonical_of_guarded runs h.pmwait
  | enq => exact canonical_of_guarded runs h.enq
  | waite => exact canonical_of_guarded runs h.waite
  | halt => exact canonical_of_guarded runs h.halt
  | madd | msub | mneg | mcpy | mmul | mmac | mmulk | mmack => exact canonical_of_guarded runs h.elem
  | ntt => exact canonical_of_guarded runs h.ntt
  | intt => exact canonical_of_guarded runs h.intt
  | aut => exact canonical_of_guarded runs h.aut
  | autt => exact canonical_of_guarded runs h.autt
  | gset => exact canonical_of_guarded runs h.gset
  | ptl => exact canonical_of_guarded runs h.ptl
  | kld => exact canonical_of_guarded runs h.kld
  | twb => exact canonical_of_guarded runs h.twb
  | encc => exact canonical_of_guarded runs h.encc
  | encs => exact canonical_of_guarded runs h.encs
  | encr => exact canonical_of_guarded runs h.encr
  | chainCommit | chainRelease => exact canonical_of_done runs (h.access keeps_chainSem)
  | xexp => exact canonical_of_guarded runs h.xexp
  | xnoise => exact canonical_of_guarded runs h.xnoise
  | xnset => exact canonical_of_guarded runs h.xnset
  | kopen => exact canonical_of_guarded runs h.kopen
  | kfetch => exact canonical_of_guarded runs h.kfetchStop.kfetch
  | ktile => exact canonical_of_guarded runs h.ktile
  | kclose => exact canonical_of_guarded runs h.kclose
  | kchain => exact canonical_of_guarded runs h.kchain
  | kstat => exact canonical_of_guarded runs h.kstat
  | keyChunkArrival => exact canonical_of_guarded runs (h.arrival (fun _ h => h.keyChunk))
  | keysetRegister | keysetRelease => exact canonical_of_done runs (h.access keeps_keysetSem)
  | keysetQuery => exact canonical_of_done runs (h.access keeps_querySem)
  | ringSlotTake => exact canonical_of_guarded runs h.ringSlotTake
  | commandKernelEnd => exact canonical_of_guarded runs (by
  split
  · exact h.kernelEnd
  · exact h)
  | completionRelease => exact canonical_of_guarded runs h.completionRelease
    | hadd | hsub | hneg | haddp | hmulp | hmulw | hmulc | hmul | hrelin | hrescale | hmodsw | hdrop | hrot | htontt |
  htocoef | hraise | hlint | hbext | hbpbs | hbrepack =>
    exact canonical_of_guarded runs (by
  split
  · exact h.heStart
  · exact h)
  | heAbort => exact canonical_of_done runs (h.access keeps_heAbortSem)
  | mma => exact canonical_of_guarded runs h.mma
  | msum => exact canonical_of_guarded runs h.msum
  | mmod => exact canonical_of_guarded runs h.mmod
  | vch => exact canonical_of_guarded runs h.vch
  | vcld => exact canonical_of_guarded runs h.vcld
  | vupd => exact canonical_of_guarded runs h.vupd
  | vhcfg => exact canonical_of_guarded runs h.vhcfg
  | vhstep => exact canonical_of_guarded runs h.vhstep
  | xlatMap | xlatUnmap => exact canonical_of_done runs (h.access keeps_xmSem)
  | xlatCmdDone => exact canonical_of_done runs h.xlatDone
  | streamAbandon => exact canonical_of_done runs (h.access keeps_abandonSem)
  | ringStart => exact canonical_of_done runs (h.access keeps_ringCmdSem)
  | ringStop => exact canonical_of_guarded runs (h.access keeps_ringCmdSem)
  | ringForward => exact canonical_of_guarded runs h.ringForward
  | rjoin => exact canonical_of_guarded runs h.rjoin
  | rnext => exact canonical_of_guarded runs h.rnext
  | rdone => exact canonical_of_guarded runs h.rdone
  | rleave => exact canonical_of_guarded runs h.rleave
  | sgopen => exact canonical_of_guarded runs (by
  split
  · exact h.sgOpen
  · exact h)
  | sgbind => exact canonical_of_guarded runs (by
  split
  · exact h.sgBind
  · exact h)
  | sgcommit => exact canonical_of_guarded runs (by
  split
  · exact h.sgCommit
  · exact h)
  | sgabort => exact canonical_of_guarded runs (by
  split
  · exact h.sgAbort
  · exact h)
  | sgAbortCmd => exact canonical_of_done runs (h.access keeps_sgAbortSem)
  | sgqFill => exact canonical_of_done runs (h.access keeps_sgqSem)
  | sgApplyDone => exact canonical_of_done runs h.applyDone
  | sgPrepareTimeout => exact canonical_of_done runs h.prepareTimeout
  | sgDecisionHoldExpiry => exact canonical_of_done runs h.decisionExpiry
    | portEnable | portDisable | portRetrain | portBurnishNow | portClearFailed =>
    exact canonical_of_done runs (.ite (h.access keeps_portSem) h.noInstance)
  | trainingDone => exact canonical_of_guarded runs h.trainingDone
  | trainingTimeout => exact canonical_of_guarded runs (h.portOut.ite h)
  | downRetry => exact canonical_of_guarded runs (h.setState.ite h)
  | flitReceive => exact canonical_of_guarded runs h.flitReceive
  | ackTimeout => exact canonical_of_guarded runs (h.retrain.ite h)
  | laneFail => exact canonical_of_guarded runs h.laneFail
  | burnishTick => exact canonical_of_guarded runs (h.burnishStart.ite h)
  | burnishReadaptEnd => exact canonical_of_guarded runs h.burnishEnd
  | helloTimer => exact canonical_of_guarded runs (h.sendHello.ite h)
  | hello => exact canonical_of_guarded runs h.takeHello
  | helloTimeout => exact canonical_of_guarded runs h.retrain
  | routeAdvertisement => exact canonical_of_guarded runs h.takeAdvert
  | routePin | routeUnpin | routeCopy => exact canonical_of_done runs (h.access keeps_routeSem)
  | packetForward => exact canonical_of_guarded runs h.packetForward
  | vcEscape => exact canonical_of_guarded runs h.vcEscape
  | wopen => exact canonical_of_guarded runs (by
  split
  · exact h.wopen
  · exact h)
  | wclose => exact canonical_of_guarded runs (by
  split
  · exact h.wclose
  · exact h)
  | wbind => exact canonical_of_guarded runs (by
  split
  · exact h.wbind
  · exact h)
  | wunbind => exact canonical_of_guarded runs (by
  split
  · exact h.wunbind
  · exact h)
  | stepend => exact canonical_of_guarded runs (by
  split
  · exact h.stepEnd
  · exact h)
  | closingEnd => exact canonical_of_guarded runs h.closingEnd
  | windowQuietExpiry => exact canonical_of_guarded runs (h.setWinState.ite h)
  | windowHoldoffEnd | dynamicAddressAssignment => exact canonical_of_done runs h.mk
    | write | read | add | done | connect | revoke | sgPrepare | sgQuery | stepArrive | stepRelease | resetNotice =>
    exact canonical_of_done runs (h.acceptRequest.ite h)
  | ack => exact canonical_of_done runs (h.takeAck.ite h)
  | rdata => exact canonical_of_done runs (h.takeRdata.ite h)
  | credit => exact canonical_of_done runs (h.takeCredit.ite h)
  | revoked => exact canonical_of_done runs (h.takeRevoked.ite h)
  | creditRepeatTimer => exact canonical_of_guarded runs (h.sendCredits.ite h)
  | transportRetry => exact canonical_of_done runs h.transportRetry
  | sgVote => exact canonical_of_done runs (h.takeVoteMsg.ite h)
  | sgDecision => exact canonical_of_done runs (h.takeDecisionMsg.ite h)
  | stepBoundary => exact canonical_of_done runs (h.fallBoundary.ite h)
  | cinchHoldExpiry => exact canonical_of_done runs (h.inc.fallBoundary.ite h)
  | stepTimeout => exact canonical_of_done runs h.stepTimeout
  | stepResume => exact canonical_of_done runs (h.access keeps_stepResumeSem)
  | twinBind | twinDetach | twinReattach | twinUnbind | twinLeadAlone => exact canonical_of_done runs (h.access keeps_twinSem)
  | twinBindTimeout => exact canonical_of_done runs h.bindTimeout
  | twinHeartbeat => exact canonical_of_guarded runs h.heartbeat
  | twinLoss => exact canonical_of_done runs (h.ite h.twinLoss)
  | twinTakeover => exact canonical_of_done runs h.twinTakeover
  | inputRecord => exact canonical_of_done runs h.inputRecord
  | commitRecord => exact canonical_of_done runs h.commitRecordIn
  | twinDelta => exact canonical_of_done runs h.twinDelta
  | twinLagExpiry => exact canonical_of_done runs h.lagExpiry
  | twinResyncDone => exact canonical_of_done runs h.resyncDone
  | pstart => exact canonical_of_guarded runs (by
  split
  · exact h.pstart
  · exact h)
  | pstop => exact canonical_of_guarded runs (by
  split
  · exact h.pstop
  · exact h)
  | ringEnable | ringDisable => exact canonical_of_done runs (.ite (h.access keeps_ringEnableSem) h.noInstance)
  | ringDrained => exact canonical_of_guarded runs h.ringDrained
  | bar2Access => exact canonical_of_guarded runs h.bar2Access
  | ringWindowWrite => exact canonical_of_guarded runs h.ringWindowWrite
  | msixHoldoffExpiry => exact canonical_of_guarded runs h.holdoffEnd
  | fwStage | fwActivate => exact canonical_of_done runs (h.access keeps_fwSem)
  | fwStageDone => exact canonical_of_done runs h.stageDone
  | sleepWake | sleepSl1 | sleepSl2 | sleepSl3 | sleepSl4 => exact canonical_of_done runs h.sleepCmd
  | sleepAnswer => exact canonical_of_done runs h.sleepAnswer
  | sleepDelayExpiry => exact canonical_of_done runs h.delayExpiry
  | wakeDemand => exact canonical_of_guarded runs h.wakeDemand
  | domainWakeDone => exact canonical_of_guarded runs h.domainWakeDone
  | padRelease => exact canonical_of_done runs (h.access keeps_entrySem)
  | debugUnlock => exact canonical_of_done runs (h.access keeps_unlockSem)
  | bootVerifyDone => exact canonical_of_done runs h.bootVerified
  | bootReady => exact canonical_of_done runs h.bootReady
  | svnMinWrite => exact canonical_of_done runs (h.access keeps_svnSem)
  | trustAnchorWrite => exact canonical_of_done runs (.ite (h.access keeps_anchorSem) h.noInstance)
  | spdmRequest => exact canonical_of_done runs h.spdmRequest
  | keyRelease => exact canonical_of_done runs h.keyRelease
  | keyRevoke => exact canonical_of_done runs h.keyRevoke
  | pkgDecrypt => exact canonical_of_done runs (h.access keeps_pkgSem)
  | pkgDecryptDone => exact canonical_of_done runs h.pkgDone
  | partAssign | partScrubFree | partScrubKeep => exact canonical_of_done runs (.ite (h.access keeps_partSem) h.noInstance)
  | scrubEnd => exact canonical_of_guarded runs h.scrubEnd
  | trngFail => exact canonical_of_done runs h.trngFail
  | drbgReseed => exact canonical_of_done runs h.reseed
  | pkeJobSubmit => exact canonical_of_done runs (h.access keeps_pkeJobSem)
  | pkeJobStart => exact canonical_of_done runs h.startJob
  | pkeMadd | pkeMsub | pkeMmul | pkeMinv | pkeMexp | pkeMred => exact canonical_of_done runs h.pkeMod
  | pkePadd | pkePdbl | pkePmul | pkePchk => exact canonical_of_done runs h.pkePoint
  | pkeJobEnd => exact canonical_of_done runs h.jobEnd
  | pkeWipeDone => exact canonical_of_done runs h.wipeDone
  | pkeSelftest => exact canonical_of_done runs (h.access keeps_pkeSelftestSem)
  | pkeSelftestDone => exact canonical_of_done runs h.selftestDone
  | sectorResetCmd => exact canonical_of_guarded runs (h.access keeps_resetSem)
  | deviceResetCmd => exact canonical_of_done runs (h.access keeps_resetSem)
  | hangDeclared => exact canonical_of_guarded runs h.hangDeclared
  | stallDetected => exact canonical_of_guarded runs h.stallDetected
  | crashCollectionDone => exact canonical_of_done runs h.crashDone
  | oosReinstate => exact canonical_of_done runs (h.access keeps_reinstateSem)
  | keeperSwap | keeperSelftest => exact canonical_of_guarded runs (h.access keeps_keeperSem)
  | keeperSelftestDone => exact canonical_of_guarded runs h.keeperTestDone
  | meshDetour | meshLinkTest | meshLinkRestore => exact canonical_of_guarded runs h.meshCmd
  | meshLinkRepeat => exact canonical_of_guarded runs h.meshRepeat
  | fullScanTest | emramMarchTest | sislSelfTest => exact canonical_of_done runs (h.access keeps_fullTestSem)
  | fullTestDone => exact canonical_of_done runs h.fullTestDone
  | crashRead => exact canonical_of_done runs (h.access keeps_crashReadSem)
  | ordFlush => exact canonical_of_done runs (h.access keeps_ordFlushSem)
  | nrArm | nrLoad | nrErase => exact canonical_of_done runs (.ite (h.access keeps_nrSem) h.noInstance)
  | histClear | histFreeze | histResume => exact canonical_of_done runs (h.access keeps_histSem)
  | bwWindowEnd => exact canonical_of_done runs h.bwWindow
  | fatalReset => exact canonical_of_done runs h.startReset
  | keysetRegisterDone => exact canonical_of_done runs h.keysetDone
  | chainCommitDone => exact canonical_of_done runs h.chainDone
  | meshLinkTestDone => exact canonical_of_done runs h.meshTestDone
  | ringFillDone => exact canonical_of_guarded runs h.ringFillDone
  | trngSourcePass => exact canonical_of_done runs h.trngPass
  | busMasterEnable => exact canonical_of_done runs h.busMaster
  | setEndpointId => exact canonical_of_done runs h.wr
  | timerefInPresent => exact canonical_of_done runs h.timerefPresent
  | twinHeartbeatSend => exact canonical_of_guarded runs (h.sendFlits.emit.ite h)
  | answerRecord => exact canonical_of_done runs h.answerRecord
  | noiseKeysRecord => exact canonical_of_guarded runs (h.mk.ite h)

theorem canonical_step {s t : State} (h : Canonical s) (steps : step s = .next t) : Canonical t := by
  cases waits : s.pending with
  | nil =>
    rw [step_of_empty waits] at steps
    cases steps
    exact h.idle
  | cons c q =>
    rw [step_of_pending waits] at steps
    exact canonical_exec h.mk steps

/-- Settles O4: the four tables are written only by operations that keep their canonical form, and every command is composed of
these (`canonical_exec`). -/
theorem memoryStaysCanonical : Obligations.MemoryStaysCanonical := by
  unfold Obligations.MemoryStaysCanonical
  intro s t h steps
  exact (canonical_def t).1 (canonical_step ((canonical_def s).2 h) steps)

end Sys2Proof.Machine
end

section
/-! SUPPORT. The control core's arithmetic and branches (R271, R272). -/

namespace Sys2Proof.Machine

open Sys2Proof

/-! ## Immediates and registers as bits -/

theorem bit_top_eq_msb {w : Nat} (b : BitVec w) : bit b.toNat (w - 1) = b.msb := by
  rw [bit_eq_testBit, BitVec.msb_eq_getLsbD_last]; rfl

theorem signExt_toNat {w : Nat} (small : w ≤ 64) (b : BitVec w) : signExt w b.toNat % 2 ^ 64 = (b.signExtend 64).toNat := by
  have below := b.isLt
  have fits : 2 ^ w ≤ 2 ^ 64 := Nat.pow_le_pow_right (by decide) small
  rw [BitVec.toNat_signExtend, BitVec.toNat_setWidth, signExt, bit_top_eq_msb, Nat.mod_eq_of_lt below,
    Nat.mod_eq_of_lt (lt_of_lt_of_le below fits)]
  cases b.msb with
  | false => simpa using lt_of_lt_of_le below fits
  | true => simp only [if_true]; omega

theorem imm14_eq (i : CIns) : imm14 i = (i.imm.truncate 14 : BitVec 14).toNat := by simp [imm14]

theorem signed_toNat {w : Nat} (positive : 0 < w) (b : BitVec w) : signed w b.toNat = b.toInt := by
  have half : 2 ^ w = 2 * 2 ^ (w - 1) := by rw [← Nat.pow_succ', Nat.succ_eq_add_one, Nat.sub_add_cancel positive]
  rw [signed, BitVec.toInt_eq_toNat_cond]
  by_cases low : b.toNat < 2 ^ (w - 1)
  · rw [if_pos low, if_pos (by omega)]
  · rw [if_neg low, if_neg (by omega)]
    push_cast
    rfl

theorem xw_toNat (k : Core) (i : Nat) : (k.xw i).toNat = k.x i := by
  rw [Core.xw, BitVec.toNat_ofNat, Nat.mod_eq_of_lt (x_lt k i)]

theorem branchTo_eq (pc : Nat) (i : CIns) :
    branchTo pc i = (BitVec.ofNat 18 pc + (i.imm.truncate 14 : BitVec 14).signExtend 18).toNat := by
  rw [branchTo, imm14_eq, signed_toNat (by decide)]
  generalize (i.imm.truncate 14 : BitVec 14) = b
  have below := b.isLt
  have widened : (b.setWidth 18).toNat = b.toNat := by rw [BitVec.toNat_setWidth, Nat.mod_eq_of_lt (by omega)]
  rw [BitVec.toNat_add, BitVec.toNat_ofNat, BitVec.toNat_signExtend, BitVec.toInt_eq_msb_cond, widened]
  cases b.msb with
  | false => simp only [Bool.false_eq_true, if_false]; omega
  | true => simp only [if_true]; omega

theorem branchHolds_eq {r : Nat} {a b : Nat} (va : BitVec 64) (vb : BitVec 64) (ha : a = va.toNat) (hb : b = vb.toNat) :
    (r = 0 → branchHolds r a b = (va == vb)) ∧ (r = 1 → branchHolds r a b = (va != vb)) ∧
    (r = 2 → branchHolds r a b = va.slt vb) ∧ (r = 3 → branchHolds r a b = va.ult vb) ∧
    (r = 4 → branchHolds r a b = !va.slt vb) ∧ (r = 5 → branchHolds r a b = !va.ult vb) := by
  have same : (a == b) = (va == vb) := by
    rw [Bool.eq_iff_iff, beq_iff_eq, beq_iff_eq, ha, hb, BitVec.toNat_inj]
  subst ha hb
  refine ⟨?_, ?_, ?_, ?_, ?_, ?_⟩ <;> rintro rfl
  · exact same
  · exact congrArg not same
  · simp [branchHolds, signed_toNat, BitVec.slt]
  · simp [branchHolds, BitVec.ult]
  · rw [Bool.eq_iff_iff]; simp [branchHolds, signed_toNat, BitVec.slt]
  · rw [Bool.eq_iff_iff]; simp [branchHolds, BitVec.ult]

/-! ## Instructions that go on -/

section
variable {s : State} {c : Nat} (free : ControlFree s c)
include free

/-- An instruction of a free control core that writes register d and goes on to `pc`. -/
theorem goes_of_controlCore {n : Instr} {pc next d v : Nat} {w : BitVec 64} {f : Core → Nat → State}
    (runs : exec n s = guarded (decide (c < 800)) s (controlCore s c f))
    (does : f (core s c) (core s c).cbeat = setCore s c (((core s c).goOn pc next).setX d v)) (value : v % 2 ^ 64 = w.toNat) :
    ∃ t, exec n s = .next t ∧ Wrote s t c pc next d w := by
  refine ⟨_, ?_, wrote_setX pc next d v w value⟩
  rw [runs, guarded_of (decide_eq_true free.1), controlCore_free free, does, done_setCore]

/-- One that writes no register. -/
theorem jumps_of_controlCore {n : Instr} {pc next : Nat} {f : Core → Nat → State}
    (runs : exec n s = guarded (decide (c < 800)) s (controlCore s c f))
    (does : f (core s c) (core s c).cbeat = setCore s c ((core s c).goOn pc next)) :
    ∃ t, exec n s = .next t ∧ Wrote s t c pc next 0 0 :=
  goes_of_controlCore (d := 0) (v := 0) free runs does rfl

theorem goes_alu (i : CIns) {f : Nat} (op : imm14 i % 8 = f) {w : BitVec 64}
    (value : aluOp f ((core s c).x i.xa) ((core s c).x i.xb) % 2 ^ 64 = w.toNat) :
    ∃ t, exec (.alu c i) s = .next t ∧ Wrote s t c ((core s c).pc + 1) ((core s c).cbeat + 1) i.xd w :=
  goes_of_controlCore free rfl rfl (by rw [op]; exact value)

theorem goes_bcc (i : CIns) (valid : i.xd ≤ 5) {taken : Bool}
    (decides : branchHolds i.xd ((core s c).x i.xa) ((core s c).x i.xb) = taken) :
    ∃ t, exec (.bcc c i) s = .next t ∧ Wrote s t c
      (if taken then (BitVec.ofNat 18 (core s c).pc + (i.imm.truncate 14 : BitVec 14).signExtend 18).toNat else (core s c).pc + 1)
      ((core s c).cbeat + if taken then 2 else 1) 0 0 := by
  refine jumps_of_controlCore free (f := _) rfl ?_
  rw [if_neg (by omega), decides, branchTo_eq]
  cases taken <;> rfl

theorem goes_brf (i : CIns) {taken : Bool} (decides : ((List.range 4).any fun n => bit i.xd n && (core s c).flag n) = taken) :
    ∃ t, exec (.brf c i) s = .next t ∧ Wrote s t c
      (if taken then (BitVec.ofNat 18 (core s c).pc + (i.imm.truncate 14 : BitVec 14).signExtend 18).toNat else (core s c).pc + 1)
      ((core s c).cbeat + if taken then 2 else 1) 0 0 := by
  refine jumps_of_controlCore free (f := _) rfl ?_
  rw [decides, branchTo_eq]
  cases taken <;> rfl

end

/-- Settles O7: each instruction is one `goOn` of the control core (`goes_of_controlCore`), with its result read as bits. -/
theorem controlComputes : Obligations.ControlComputes := by
  unfold Obligations.ControlComputes
  constructor
  · intro s c i free
    dsimp only
    have a := xw_toNat (core s c) i.xa
    have b := xw_toNat (core s c) i.xb
    rw [← imm14_eq]
    refine ⟨goes_of_controlCore free rfl rfl (signExt_toNat (by decide) i.imm), goes_of_controlCore free rfl rfl ?addiCase,
      goes_of_controlCore free rfl rfl ?getlcCase, goes_of_controlCore free rfl rfl ?getvsCase,
      fun op => goes_alu free i op ?addCase, fun op => goes_alu free i op ?subCase, fun op => goes_alu free i op ?andCase,
      fun op => goes_alu free i op ?orCase, fun op => goes_alu free i op ?xorCase, fun op low => goes_alu free i op ?leftCase,
      fun op low => goes_alu free i op ?rightCase, fun op => goes_alu free i op ?mulCase, fun _ _ _ => ⟨BitVec.ofNat 64 _, goes_alu free i rfl (BitVec.toNat_ofNat ..).symm⟩⟩
    case addiCase =>
      rw [BitVec.toNat_add, a, imm14_eq, ← signExt_toNat (by decide), Nat.add_mod_mod]
    case getlcCase => exact (BitVec.toNat_ofNat ..).symm
    case getvsCase => exact (BitVec.toNat_ofNat ..).symm
    case addCase => rw [BitVec.toNat_add, a, b]; rfl
    case subCase => rw [BitVec.toNat_sub, a, b, aluOp]; have := x_lt (core s c) i.xb; omega
    case andCase => rw [BitVec.toNat_and, a, b]; exact Nat.mod_eq_of_lt (lt_of_le_of_lt Nat.and_le_left (x_lt ..))
    case orCase => rw [BitVec.toNat_or, a, b]; exact Nat.mod_eq_of_lt (Nat.or_lt_two_pow (x_lt ..) (x_lt ..))
    case xorCase => rw [BitVec.toNat_xor, a, b]; exact Nat.mod_eq_of_lt (Nat.xor_lt_two_pow (x_lt ..) (x_lt ..))
    case leftCase => rw [BitVec.toNat_shiftLeft, a, Nat.shiftLeft_eq, aluOp, if_pos low]
    case rightCase =>
      rw [BitVec.toNat_ushiftRight, a, Nat.shiftRight_eq_div_pow, aluOp, if_pos low]
      exact Nat.mod_eq_of_lt (lt_of_le_of_lt (Nat.div_le_self ..) (x_lt ..))
    case mulCase => rw [BitVec.toNat_mul, a, b]; rfl
  · intro s c i free
    dsimp only
    obtain ⟨eq, ne, lt, ltu, ge, geu⟩ := branchHolds_eq (r := i.xd) ((core s c).xw i.xa) ((core s c).xw i.xb)
      (xw_toNat (core s c) i.xa).symm (xw_toNat (core s c) i.xb).symm
    refine ⟨fun r => goes_bcc free i (by omega) (eq r), fun r => goes_bcc free i (by omega) (ne r),
      fun r => goes_bcc free i (by omega) (lt r), fun r => goes_bcc free i (by omega) (ltu r),
      fun r => goes_bcc free i (by omega) (ge r), fun r => goes_bcc free i (by omega) (geu r), goes_brf free i ?_,
      jumps_of_controlCore free rfl rfl⟩
    simp [List.range_succ, bit, Bool.or_assoc]

end Sys2Proof.Machine
end

section
/-! SUPPORT. How a program ends (R272, R287): what follows its end leaves the halted core as it is. -/

namespace Sys2Proof.Machine

open Sys2Proof

/-- The program of core c₀ has ended with status st₀, and nothing of it is in flight. -/
@[irreducible] def Halted (c₀ st₀ : Nat) (s : State) : Prop :=
  (core s c₀).running = false ∧ (core s c₀).halt = st₀ ∧ (core s c₀).noiseKey = 0 ∧ (core s c₀).ops = [] ∧ (core s c₀).xfers = [] ∧
    (core s c₀).grants = []

section
variable {c₀ st₀ : Nat}
theorem halted_def (s : State) : Halted c₀ st₀ s ↔ (core s c₀).running = false ∧ (core s c₀).halt = st₀ ∧ (core s c₀).noiseKey = 0 ∧
    (core s c₀).ops = [] ∧ (core s c₀).xfers = [] ∧ (core s c₀).grants = [] := by unfold Halted; exact Iff.rfl

/-- An update that leaves the cores. -/
protected theorem Halted.cores_eq {s t : State} (h : Halted c₀ st₀ s) (same : t.cores = s.cores) : Halted c₀ st₀ t := by
  rw [halted_def] at h ⊢; rwa [core_congr same]
protected theorem Halted.mk {s : State} {dict mem poison flips pins supply save host power sectors xlat groups resolved
    commitLog keysets laces handles arrivals windows transport step ports routes paths twin island replays det pke
    hbm recovery sessions sent freeCtr pending} (h : Halted c₀ st₀ s) : Halted c₀ st₀ (.mk dict mem poison flips pins supply save host power sectors s.cores xlat groups
    resolved commitLog keysets laces handles arrivals windows transport step ports routes paths twin island replays det pke
    hbm recovery sessions sent freeCtr pending) := h.cores_eq rfl

protected theorem Halted.setCore {s : State} {c : Nat} {k : Core} (h : Halted c₀ st₀ s)
    (same : k.running = (core s c).running ∧ k.halt = (core s c).halt ∧ k.noiseKey = (core s c).noiseKey ∧ k.ops = (core s c).ops ∧
      k.xfers = (core s c).xfers ∧ k.grants = (core s c).grants) : Halted c₀ st₀ (setCore s c k) := by
  rw [halted_def] at h ⊢
  rw [core_setCore]
  split
  · rename_i it
    subst it
    obtain ⟨running, halt, noiseKey, ops, xfers, grants⟩ := same
    rwa [running, halt, noiseKey, ops, xfers, grants]
  · exact h
protected theorem Halted.ite {p : Prop} [Decidable p] {s t : State} (hs : Halted c₀ st₀ s) (ht : Halted c₀ st₀ t) :
    Halted c₀ st₀ (if p then s else t) := by split <;> assumption
protected theorem Halted.unbind {s : State} {c : Nat} (h : Halted c₀ st₀ s) : Halted c₀ st₀ (unbind s c) :=
  h.ite (h.setCore ⟨rfl, rfl, rfl, rfl, rfl, rfl⟩)

protected theorem Halted.ite_fst {α : Type} {p : Prop} [Decidable p] {s t : State × α} (hs : Halted c₀ st₀ s.1) (ht : Halted c₀ st₀ t.1) :
    Halted c₀ st₀ (if p then s else t).1 := by split <;> assumption
protected theorem Halted.foldl {α : Type} {f : State → α → State} {l : List α} {s : State} (h : Halted c₀ st₀ s)
    (step : ∀ s a, Halted c₀ st₀ s → Halted c₀ st₀ (f s a)) : Halted c₀ st₀ (l.foldl f s) := by
  induction l generalizing s with
  | nil => exact h
  | cons a l ih => exact ih (step s a h)
protected theorem Halted.foldl_fst {α β : Type} {f : State × β → α → State × β} {l : List α} {s : State × β} (h : Halted c₀ st₀ s.1)
    (step : ∀ s a, Halted c₀ st₀ s.1 → Halted c₀ st₀ (f s a).1) : Halted c₀ st₀ (l.foldl f s).1 := by
  induction l generalizing s with
  | nil => exact h
  | cons a l ih => exact ih (step s a h)

protected theorem Halted.wr {s : State} {k v : Nat} (h : Halted c₀ st₀ s) : Halted c₀ st₀ (wr s k v) := h.mk

protected theorem Halted.incBy {s : State} {k n : Nat} (h : Halted c₀ st₀ s) : Halted c₀ st₀ (incBy s k n) := h.wr

protected theorem Halted.inc {s : State} {k : Nat} (h : Halted c₀ st₀ s) : Halted c₀ st₀ (inc s k) := h.incBy

protected theorem Halted.wrBytes {s : State} {k : Nat} {d : List Byte} (h : Halted c₀ st₀ s) : Halted c₀ st₀ (wrBytes s k d) :=
  h.mk

protected theorem Halted.wrNat {s : State} {k n v : Nat} (h : Halted c₀ st₀ s) : Halted c₀ st₀ (wrNat s k n v) := h.wrBytes

protected theorem Halted.mark {s : State} {k : Nat} (h : Halted c₀ st₀ s) : Halted c₀ st₀ (mark s k) := h.mk

protected theorem Halted.emit {s : State} {o : Out} (h : Halted c₀ st₀ s) : Halted c₀ st₀ (emit s o) := h.mk

protected theorem Halted.msixSend {s : State} {v : Nat} (h : Halted c₀ st₀ s) : Halted c₀ st₀ (msixSend s v) :=
  h.mk.emit.ite h.mk

protected theorem Halted.signalVector {s : State} {v : Nat} (h : Halted c₀ st₀ s) : Halted c₀ st₀ (signalVector s v) :=
  h.ite (h.mk.ite h.msixSend)

protected theorem Halted.setSector {s : State} {x : Nat} {v : Sector} (h : Halted c₀ st₀ s) : Halted c₀ st₀ (setSector s x v) :=
  h.mk

protected theorem Halted.countAt {s : State} {cfg val ev inst n : Nat} (h : Halted c₀ st₀ s) :
    Halted c₀ st₀ (countAt s cfg val ev inst n) := h.incBy.ite h

protected theorem Halted.countDev {s : State} {ev inst n : Nat} (h : Halted c₀ st₀ s) : Halted c₀ st₀ (countDev s ev inst n) :=
  h.foldl fun _ _ h => h.countAt

protected theorem Halted.noteNd {s : State} {cause : Nat} {p : Option Nat} (h : Halted c₀ st₀ s) :
    Halted c₀ st₀ (noteNd s cause p) := by
  unfold noteNd
  dsimp only
  split
  · exact h.inc.countDev.inc
  · exact h.inc.countDev

protected theorem Halted.onchipUe {s : State} {x a block : Nat} (h : Halted c₀ st₀ s) : Halted c₀ st₀ (onchipUe s x a block) :=
  h.inc.wr.wr.wr

protected theorem Halted.paceBreak {s : State} {x : Nat} (h : Halted c₀ st₀ s) : Halted c₀ st₀ (paceBreak s x) :=
  h.ite (by
    dsimp only
    split
    · exact h.inc.noteNd.ite h.inc
    · exact h.inc)

protected theorem Halted.clearLost {s : State} {lo hi : Nat} (h : Halted c₀ st₀ s) : Halted c₀ st₀ (clearLost s lo hi) :=
  h.mk.ite h

protected theorem Halted.hbmStore {s : State} {a : Nat} {d : List Byte} (h : Halted c₀ st₀ s) :
    Halted c₀ st₀ (hbmStore s a d) := h.wrBytes.clearLost.ite h.wrBytes

protected theorem Halted.loseWord {s : State} {k : Nat} (h : Halted c₀ st₀ s) : Halted c₀ st₀ (loseWord s k) :=
  h.mark.mk.onchipUe.ite (h.mark.onchipUe.ite h.mark.onchipUe)

protected theorem Halted.meetWord {s : State} {k n : Nat} (h : Halted c₀ st₀ s) : Halted c₀ st₀ (meetWord s k n) :=
  .ite (h.mk.ite h.mk.loseWord) (.ite (h.mk.inc.ite h.mk.loseWord) (.ite (h.mk.inc.ite h.mk.loseWord) (h.mk.inc.ite
    (h.mk.inc.paceBreak.ite h.mk.loseWord))))

protected theorem Halted.meetEdges {s : State} {k n : Nat} (h : Halted c₀ st₀ s) : Halted c₀ st₀ (meetEdges s k n) :=
  h.foldl fun _ _ h => h.meetWord

protected theorem Halted.setGroup {s : State} {o : Option Nat} {i : Nat} {f : Group → Group} (h : Halted c₀ st₀ s) :
    Halted c₀ st₀ (setGroup s o i f) := h.mk

protected theorem Halted.noteGroups {s : State} (h : Halted c₀ st₀ s) : Halted c₀ st₀ (noteGroups s) := h.wr.wr

protected theorem Halted.returnCredits {s : State} {k n : Nat} (h : Halted c₀ st₀ s) : Halted c₀ st₀ (returnCredits s k n) :=
  h.ite h.setSector

protected theorem Halted.discard {s : State} {o : Option Nat} {i : Nat} (h : Halted c₀ st₀ s) :
    Halted c₀ st₀ (discard s o i) := by
  unfold discard
  split
  · exact h
  · exact .noteGroups (.setGroup (h.foldl fun _ _ h => h.returnCredits))

protected theorem Halted.resolveGroup {s : State} {o : Option Nat} {i code cause : Nat} (h : Halted c₀ st₀ s) :
    Halted c₀ st₀ (resolveGroup s o i code cause) := by
  unfold resolveGroup
  split
  · exact h
  · exact .noteGroups (.ite (.inc (.ite (.setGroup (h.discard.mk.ite h.discard)) (.ite (.mk (h.discard.mk.ite h.discard))
      (.foldl (.mk (h.discard.mk.ite h.discard)) fun _ _ h => h.unbind.ite h)))) (.inc (.ite (.setGroup (h.discard.mk.ite
      h.discard)) (.ite (.mk (h.discard.mk.ite h.discard)) (.foldl (.mk (h.discard.mk.ite h.discard)) fun _ _ h => h.unbind.ite
      h)))))

protected theorem Halted.leaveAborted {s : State} {c : Nat} (h : Halted c₀ st₀ s) : Halted c₀ st₀ (leaveAborted s c) := by
  unfold leaveAborted
  split
  · exact h
  · split
    · exact h.unbind
    · exact .ite (h.unbind.ite h.unbind.mk.noteGroups) h

protected theorem Halted.groupStore {s : State} {o : Option Nat} {i k : Nat} {d : List Byte} {cred : Nat} {bad : Bool}
    (h : Halted c₀ st₀ s) :
    Halted c₀ st₀ (groupStore s o i k d cred bad).1 := by
  unfold groupStore
  split
  · exact h
  · exact h.ite_fst (h.ite_fst (.ite_fst (.noteGroups (h.foldl_fst fun _ _ h => h.ite_fst (by
      split
      · exact h
      · split
        · exact h
        · exact h.setGroup))) (.setGroup (.discard (h.foldl_fst fun _ _ h => h.ite_fst (by
      split
      · exact h
      · split
        · exact h
        · exact h.setGroup))))))

protected theorem Halted.storeAt {s : State} {k : Nat} {d : List Byte} (h : Halted c₀ st₀ s) : Halted c₀ st₀ (storeAt s k d) :=
  h.hbmStore.ite h.meetEdges.wrBytes

protected theorem Halted.noteLanded {s : State} {k n : Nat} (h : Halted c₀ st₀ s) : Halted c₀ st₀ (noteLanded s k n) := by
  unfold noteLanded
  split
  · exact h
  · exact h.mk

protected theorem Halted.setHandle {s : State} {h : Nat} {v : Handle} (hs : Halted c₀ st₀ s) :
    Halted c₀ st₀ (setHandle s h v) := hs.mk

protected theorem Halted.setPort {s : State} {p : Nat} {v : Port} (h : Halted c₀ st₀ s) : Halted c₀ st₀ (setPort s p v) := h.mk

protected theorem Halted.sendFlits {s : State} {p vc n : Nat} (h : Halted c₀ st₀ s) : Halted c₀ st₀ (sendFlits s p vc n) :=
  h.setPort.countDev

protected theorem Halted.sendMsg {s : State} {mtype : Nat} {m : Msg} (h : Halted c₀ st₀ s) :
    Halted c₀ st₀ (sendMsg s mtype m) :=
  .ite (.emit (by
    split
    · exact .sendFlits (h.noteNd.ite h)
    · exact h.noteNd.ite h)) h

protected theorem Halted.sendNow {s : State} {h : Nat} {r : Request} (hs : Halted c₀ st₀ s) : Halted c₀ st₀ (sendNow s h r) :=
  .sendMsg (hs.setHandle.mk.ite hs.setHandle)

protected theorem Halted.request {s : State} {h : Nat} {r : Request} (hs : Halted c₀ st₀ s) : Halted c₀ st₀ (request s h r) :=
  .ite (.sendNow (by
    split
    · exact hs.setGroup
    · exact hs)) (.setHandle (by
    split
    · exact hs.setGroup
    · exact hs))

protected theorem Halted.postEntry {s : State} {x cb off n : Nat} {r : List Byte} (h : Halted c₀ st₀ s) :
    Halted c₀ st₀ (postEntry s x cb off n r) := h.wrBytes.wrNat.wrNat

protected theorem Halted.unitStore {s : State} {x p : Nat} {g : Option Nat} {k : Nat} {d : List Byte} (h : Halted c₀ st₀ s) :
    Halted c₀ st₀ (unitStore s x p g k d).1 :=
  .ite_fst (h.ite_fst h.request) (h.ite_fst (by
    dsimp only
    split
    · exact .groupStore (h.noteLanded.ite h)
    · exact .storeAt (h.noteLanded.ite h)))

protected theorem Halted.vaWrite {s : State} {x p : Nat} {g : Option Nat} {va : Nat} {d : List Byte} (h : Halted c₀ st₀ s) :
    Halted c₀ st₀ (vaWrite s x p g va d).1 := h.ite_fst (h.foldl_fst fun _ _ h => h.unitStore)

protected theorem Halted.setRing {s : State} {x k : Nat} {v : Ring} (h : Halted c₀ st₀ s) : Halted c₀ st₀ (setRing s x k v) :=
  h.setSector

protected theorem Halted.mirrorEntry {s : State} {x k e : Nat} {r : List Byte} (h : Halted c₀ st₀ s) :
    Halted c₀ st₀ (mirrorEntry s x k e r) := h.ite (h.inc.ite h.emit)

protected theorem Halted.postCompletion {s : State} {x k : Nat} {r : List Byte} (h : Halted c₀ st₀ s) :
    Halted c₀ st₀ (postCompletion s x k r) := h.setRing.ite h.postEntry.mirrorEntry.signalVector

protected theorem Halted.finishWith {s : State} {x k : Nat} {t : Taken} {r extra : List Byte} (h : Halted c₀ st₀ s) :
    Halted c₀ st₀ (finishWith s x k t r extra) :=
  .postCompletion (.ite (.mk (by
    split
    · exact h.setRing
    · exact h.setRing.ite h.setRing.vaWrite)) (by
    split
    · exact h.setRing
    · exact h.setRing.ite h.setRing.vaWrite))

protected theorem Halted.finishProv {s : State} {x k : Nat} {t : Taken} {status : Nat} {r tail : List Byte}
    (h : Halted c₀ st₀ s) :
    Halted c₀ st₀ (finishProv s x k t status r tail) := h.finishWith

protected theorem Halted.finishPlain {s : State} {x k : Nat} {t : Taken} {status : Nat} (h : Halted c₀ st₀ s) :
    Halted c₀ st₀ (finishPlain s x k t status) := h.mk.finishWith

protected theorem Halted.finishCommit {s : State} {w : Option (Nat × Nat)} {i st : Nat} (h : Halted c₀ st₀ s) :
    Halted c₀ st₀ (finishCommit s w i st) := by
  unfold finishCommit
  split
  · exact h
  · split
    · exact h.finishPlain
    · exact h

protected theorem Halted.tryCommit {s : State} {i : Nat} (h : Halted c₀ st₀ s) : Halted c₀ st₀ (tryCommit s i) := by
  unfold tryCommit
  split
  · exact h
  · exact h.ite (h.resolveGroup.finishCommit.ite h.mk.setGroup)

protected theorem Halted.settleGroups {s : State} (h : Halted c₀ st₀ s) : Halted c₀ st₀ (settleGroups s) :=
  .foldl (h.foldl fun _ _ h => h.tryCommit.ite h) fun _ _ h => h.foldl fun _ _ h => h.foldl fun _ _ h => .ite (by
    split
    · exact h.finishPlain
    · exact h) h

protected theorem Halted.settleStart {s : State} {x k : Nat} {t : Taken} (h : Halted c₀ st₀ s) :
    Halted c₀ st₀ (settleStart s x k t) := h.ite (h.finishPlain.ite h.mk.finishProv)

protected theorem Halted.settleStarts {s : State} {x : Nat} (h : Halted c₀ st₀ s) : Halted c₀ st₀ (settleStarts s x) :=
  h.foldl fun _ _ h => h.foldl fun _ _ h => h.settleStart

end

/-- A register that takes 0 reads 0 whether or not it is X0 (R271). -/
theorem x_setX_zero (k : Core) (i j : Nat) : (k.setX i 0).x j = if j = i then 0 else k.x j := by
  rw [x_setX]
  by_cases zero : i = 0
  · subst zero
    by_cases same : j = 0
    · subst same; simp
    · simp [same]
  · simp [zero]

theorem haltCore_halted (s : State) (c st : Nat) : Halted c st (haltCore s c st) := by
  refine Halted.settleStarts (Halted.settleGroups (Halted.leaveAborted ?_))
  rw [halted_def, onCore, core_setCore_same]
  exact ⟨rfl, rfl, rfl, rfl, rfl, rfl⟩

/-- A core whose program has ended does not run. -/
theorem coreRuns_of_halted {s : State} {c st : Nat} (h : Halted c st s) : coreRuns s c = false := by
  rw [halted_def] at h
  rw [coreRuns, h.1]
  rfl

section
variable {s : State} {c : Nat} (free : ControlFree s c)
include free

theorem betweenBlocks_idle (idle : BlocksIdle s c) (f : Core → Nat → State) :
    betweenBlocks s c f = f (core s c) (max (core s c).cbeat (core s c).lastEnd) := by
  have still : ¬(core s c).blockBusy = true := fun busy => blockBusy_iff.1 busy idle
  rw [betweenBlocks, controlCore_free free, if_neg still]

/-- An instruction that goes on to `pc`, writes register d and does nothing else. -/
theorem exec_writes {n : Instr} {t : State} {pc next d v : Nat} {w : BitVec 64} (runs : exec n s = guarded (decide (c < 800)) s t)
    (does : t = setCore s c (((core s c).goOn pc next).setX d v)) (value : v % 2 ^ 64 = w.toNat) :
    ∃ t, exec n s = .next t ∧ Wrote s t c pc next d w :=
  ⟨_, exec_setCore runs free.1 does, wrote_setX pc next d v w value⟩

theorem halt_idle (idle : BlocksIdle s c) (isDefined : ctlDefined (halfWord32 s c (core s c).pc) = true) (i : CIns) :
    halt s c i = haltCore s c ((core s c).x i.xa % 65536) := by
  have still : ¬(core s c).blockBusy = true := fun busy => blockBusy_iff.1 busy idle
  rw [halt, controlCore_free free, isDefined, if_neg (by decide), if_neg still]

theorem halt_undefined (isUndefined : ctlDefined (halfWord32 s c (core s c).pc) = false) (i : CIns) :
    halt s c i = haltFault s c 0x0105 (core s c).cbeat := by
  rw [halt, controlCore_free free, isUndefined, if_pos (by decide)]

theorem exec_halts {n : Instr} {u : State} {st : Nat} (runs : exec n s = guarded (decide (c < 800)) s (haltCore u c st)) :
    ∃ t, exec n s = .next t ∧ Halted c st t :=
  ⟨_, runs.trans (guarded_of (decide_eq_true free.1) ..), (haltCore_halted u c st).mk⟩

end

/-- Settles O9: between blocks an instruction is one update of its core (`betweenBlocks_idle`, `exec_writes`); a program's end
leaves the core halted with nothing in flight (`haltCore_halted`). -/
theorem controlEndsBlocks : Obligations.ControlEndsBlocks := by
  unfold Obligations.ControlEndsBlocks
  constructor
  · intro s c i free
    dsimp only
    rw [← imm14_eq]
    refine ⟨fun idle => ?between, fun quiet unknown => ?waitbLast, fun e known => ?waitbKnown, fun none => ?pmwaitCase⟩
    case between =>
      have between := betweenBlocks_idle free idle
      refine ⟨⟨_, exec_setCore rfl free.1 (between _), onlyCore_set .., core_setCore_same ..⟩, fun valid => ?setcmpCase,
        fun none => ?swapCase, fun copying => ?swapBusy⟩
      case setcmpCase =>
        have valid : ¬((bit ((core s c).x i.xa % 2 ^ 32) 0 && cmpInvalid ((core s c).x i.xa % 2 ^ 32)) = true) := by
          rw [cmpInvalid]
          simp only [bit, Bool.and_eq_true, Bool.or_eq_true, beq_iff_eq, bits]
          norm_num
          omega
        exact ⟨_, exec_setCore rfl free.1 ((between _).trans (if_neg valid)), onlyCore_set .., core_setCore_same ..⟩
      case swapCase =>
        refine ⟨_, exec_setCore rfl free.1 ((between _).trans (if_neg (by simp [none]))), onlyCore_set .., ?_, ?_, ?_, ?_⟩
        · rw [core_setCore_same, Core.setX]; split <;> rfl
        · rw [core_setCore_same, setX_pc]; rfl
        · rw [core_setCore_same, setX_cbeat]; rfl
        · intro j
          rw [core_setCore_same, x_setX_zero]
          rfl
      case swapBusy =>
        exact exec_writes free rfl ((between _).trans (if_pos (Option.isSome_iff_ne_none.2 copying))) rfl
    case waitbLast =>
      refine exec_writes free rfl ?_ (BitVec.toNat_ofNat ..).symm
      rw [waitb, controlCore_free free, unknown, quiet]
      rfl
    case waitbKnown =>
      refine exec_writes free rfl ?_ (BitVec.toNat_ofNat ..).symm
      rw [waitb, controlCore_free free, known]
      rfl
    case pmwaitCase =>
      refine exec_writes free rfl ?_ (BitVec.toNat_ofNat ..).symm
      rw [pmwait, controlCore_free free, none]
      rfl
  · intro s c i free
    refine ⟨fun idle isDefined => ?_, fun isUndefined => ?_⟩
    · obtain ⟨t, runs, halted⟩ := exec_halts (n := .halt c i) free (congrArg (guarded _ s) (halt_idle free idle isDefined i))
      have still := coreRuns_of_halted halted
      obtain ⟨running, status, key, ops, xfers, -⟩ := (halted_def _).1 halted
      exact ⟨t, runs, running, status, key, ops, xfers, still⟩
    · obtain ⟨t, runs, halted⟩ := exec_halts (n := .halt c i) free (congrArg (guarded _ s) (halt_undefined free isUndefined i))
      have still := coreRuns_of_halted halted
      obtain ⟨running, status, -⟩ := (halted_def _).1 halted
      exact ⟨t, runs, running, status, still⟩

end Sys2Proof.Machine
end

section
/-! SUPPORT. The reload of program memory (R276, R277). -/

namespace Sys2Proof.Machine

open Sys2Proof

/-- A core without its lines, its transfers and its group. -/
def Core.rest (k : Core) : Core := { k with grants := [], xfers := [], bound := none }

/-- Core c₀ is k₀ but for its lines, its transfers and its group. -/
@[irreducible] def Rest (c₀ : Nat) (k₀ : Core) (s : State) : Prop := (core s c₀).rest = k₀

section
variable {c₀ : Nat} {k₀ : Core}
theorem rest_def (s : State) : Rest c₀ k₀ s ↔ (core s c₀).rest = k₀ := by unfold Rest; exact Iff.rfl

/-- An update that leaves the cores. -/
protected theorem Rest.cores_eq {s t : State} (h : Rest c₀ k₀ s) (same : t.cores = s.cores) : Rest c₀ k₀ t := by
  rw [rest_def] at h ⊢; rwa [core_congr same]
protected theorem Rest.mk {s : State} {dict mem poison flips pins supply save host power sectors xlat groups resolved
    commitLog keysets laces handles arrivals windows transport step ports routes paths twin island replays det pke
    hbm recovery sessions sent freeCtr pending} (h : Rest c₀ k₀ s) : Rest c₀ k₀ (.mk dict mem poison flips pins supply save host power sectors s.cores xlat groups
    resolved commitLog keysets laces handles arrivals windows transport step ports routes paths twin island replays det pke
    hbm recovery sessions sent freeCtr pending) := h.cores_eq rfl

protected theorem Rest.setCore {s : State} {c : Nat} {k : Core} (h : Rest c₀ k₀ s)
    (same : k.rest = (core s c).rest) : Rest c₀ k₀ (setCore s c k) := by
  rw [rest_def] at h ⊢
  rw [core_setCore]
  split
  · rename_i it
    subst it
    rwa [same]
  · exact h
protected theorem Rest.onCore {s : State} {c : Nat} {f : Core → Core} (h : Rest c₀ k₀ s) (same : ∀ k, (f k).rest = k.rest) :
    Rest c₀ k₀ (onCore s c f) := h.setCore (same _)
protected theorem Rest.ite {p : Prop} [Decidable p] {s t : State} (hs : Rest c₀ k₀ s) (ht : Rest c₀ k₀ t) :
    Rest c₀ k₀ (if p then s else t) := by split <;> assumption
protected theorem Rest.unbind {s : State} {c : Nat} (h : Rest c₀ k₀ s) : Rest c₀ k₀ (unbind s c) :=
  h.ite (h.setCore rfl)

protected theorem Rest.ite_fst {α : Type} {p : Prop} [Decidable p] {s t : State × α} (hs : Rest c₀ k₀ s.1) (ht : Rest c₀ k₀ t.1) :
    Rest c₀ k₀ (if p then s else t).1 := by split <;> assumption
protected theorem Rest.foldl {α : Type} {f : State → α → State} {l : List α} {s : State} (h : Rest c₀ k₀ s)
    (step : ∀ s a, Rest c₀ k₀ s → Rest c₀ k₀ (f s a)) : Rest c₀ k₀ (l.foldl f s) := by
  induction l generalizing s with
  | nil => exact h
  | cons a l ih => exact ih (step s a h)
protected theorem Rest.foldl_fst {α β : Type} {f : State × β → α → State × β} {l : List α} {s : State × β} (h : Rest c₀ k₀ s.1)
    (step : ∀ s a, Rest c₀ k₀ s.1 → Rest c₀ k₀ (f s a).1) : Rest c₀ k₀ (l.foldl f s).1 := by
  induction l generalizing s with
  | nil => exact h
  | cons a l ih => exact ih (step s a h)

protected theorem Rest.wr {s : State} {k v : Nat} (h : Rest c₀ k₀ s) : Rest c₀ k₀ (wr s k v) := h.mk

protected theorem Rest.incBy {s : State} {k n : Nat} (h : Rest c₀ k₀ s) : Rest c₀ k₀ (incBy s k n) := h.wr

protected theorem Rest.inc {s : State} {k : Nat} (h : Rest c₀ k₀ s) : Rest c₀ k₀ (inc s k) := h.incBy

protected theorem Rest.wrBytes {s : State} {k : Nat} {d : List Byte} (h : Rest c₀ k₀ s) : Rest c₀ k₀ (wrBytes s k d) := h.mk

protected theorem Rest.mark {s : State} {k : Nat} (h : Rest c₀ k₀ s) : Rest c₀ k₀ (mark s k) := h.mk

protected theorem Rest.markWords {s : State} {k n : Nat} (h : Rest c₀ k₀ s) : Rest c₀ k₀ (markWords s k n) :=
  h.foldl fun _ _ h => h.mark

protected theorem Rest.setSector {s : State} {x : Nat} {v : Sector} (h : Rest c₀ k₀ s) : Rest c₀ k₀ (setSector s x v) := h.mk

protected theorem Rest.countAt {s : State} {cfg val ev inst n : Nat} (h : Rest c₀ k₀ s) :
    Rest c₀ k₀ (countAt s cfg val ev inst n) := h.incBy.ite h

protected theorem Rest.countDev {s : State} {ev inst n : Nat} (h : Rest c₀ k₀ s) : Rest c₀ k₀ (countDev s ev inst n) :=
  h.foldl fun _ _ h => h.countAt

protected theorem Rest.noteNd {s : State} {cause : Nat} {p : Option Nat} (h : Rest c₀ k₀ s) :
    Rest c₀ k₀ (noteNd s cause p) := by
  unfold noteNd
  dsimp only
  split
  · exact h.inc.countDev.inc
  · exact h.inc.countDev

protected theorem Rest.onchipUe {s : State} {x a block : Nat} (h : Rest c₀ k₀ s) : Rest c₀ k₀ (onchipUe s x a block) :=
  h.inc.wr.wr.wr

protected theorem Rest.setDomain {s : State} {d v : Nat} (h : Rest c₀ k₀ s) : Rest c₀ k₀ (setDomain s d v) := h.wr

protected theorem Rest.returnAsked {s : State} (h : Rest c₀ k₀ s) : Rest c₀ k₀ (returnAsked s) :=
  h.foldl fun _ _ h => h.setDomain.ite h

protected theorem Rest.recordRefusal {s : State} {block reason state kind : Nat} (h : Rest c₀ k₀ s) :
    Rest c₀ k₀ (recordRefusal s block reason state kind) := .wr (.wr (.wr (.wr (.wr (.wr (.wr (h.foldl fun _ _ h => h.wr)))))))

protected theorem Rest.endEntry {s : State} {block reason kind : Nat} (h : Rest c₀ k₀ s) :
    Rest c₀ k₀ (endEntry s block reason kind) := by
  unfold endEntry
  split
  · exact h
  · exact .wr (.wr (h.mk.returnAsked.recordRefusal.inc.ite h.mk.returnAsked.recordRefusal.inc))

protected theorem Rest.workReaches {s : State} {b : Nat} (h : Rest c₀ k₀ s) : Rest c₀ k₀ (workReaches s b) := by
  unfold workReaches
  split
  · exact h
  · exact h.endEntry.ite h

protected theorem Rest.wakeOne {s : State} {d : Nat} (h : Rest c₀ k₀ s) : Rest c₀ k₀ (wakeOne s d) :=
  h.mk.ite (h.ite h.mk.setDomain)

protected theorem Rest.wakeDomain {s : State} {d : Nat} (h : Rest c₀ k₀ s) : Rest c₀ k₀ (wakeDomain s d) :=
  h.ite (h.wakeOne.ite (h.mk.foldl fun _ _ h => h.wakeOne))

protected theorem Rest.trafficTo {s : State} {x : Nat} (h : Rest c₀ k₀ s) : Rest c₀ k₀ (trafficTo s x) :=
  h.workReaches.workReaches.ite h.workReaches.workReaches.wakeDomain

protected theorem Rest.paceBreak {s : State} {x : Nat} (h : Rest c₀ k₀ s) : Rest c₀ k₀ (paceBreak s x) :=
  h.ite (by
    dsimp only
    split
    · exact h.inc.noteNd.ite h.inc
    · exact h.inc)

protected theorem Rest.clearLost {s : State} {lo hi : Nat} (h : Rest c₀ k₀ s) : Rest c₀ k₀ (clearLost s lo hi) := h.mk.ite h

protected theorem Rest.hbmStore {s : State} {a : Nat} {d : List Byte} (h : Rest c₀ k₀ s) : Rest c₀ k₀ (hbmStore s a d) :=
  h.wrBytes.clearLost.ite h.wrBytes

protected theorem Rest.loseWord {s : State} {k : Nat} (h : Rest c₀ k₀ s) : Rest c₀ k₀ (loseWord s k) :=
  h.mark.mk.onchipUe.ite (h.mark.onchipUe.ite h.mark.onchipUe)

protected theorem Rest.meetWord {s : State} {k n : Nat} (h : Rest c₀ k₀ s) : Rest c₀ k₀ (meetWord s k n) :=
  .ite (h.mk.ite h.mk.loseWord) (.ite (h.mk.inc.ite h.mk.loseWord) (.ite (h.mk.inc.ite h.mk.loseWord) (h.mk.inc.ite
    (h.mk.inc.paceBreak.ite h.mk.loseWord))))

protected theorem Rest.meet {s : State} {k n : Nat} (h : Rest c₀ k₀ s) : Rest c₀ k₀ (meet s k n) :=
  h.foldl fun _ _ h => h.meetWord

protected theorem Rest.meetEdges {s : State} {k n : Nat} (h : Rest c₀ k₀ s) : Rest c₀ k₀ (meetEdges s k n) :=
  h.foldl fun _ _ h => h.meetWord

protected theorem Rest.setGroup {s : State} {o : Option Nat} {i : Nat} {f : Group → Group} (h : Rest c₀ k₀ s) :
    Rest c₀ k₀ (setGroup s o i f) := h.mk

protected theorem Rest.noteGroups {s : State} (h : Rest c₀ k₀ s) : Rest c₀ k₀ (noteGroups s) := h.wr.wr

protected theorem Rest.returnCredits {s : State} {k n : Nat} (h : Rest c₀ k₀ s) : Rest c₀ k₀ (returnCredits s k n) :=
  h.ite h.setSector

protected theorem Rest.discard {s : State} {o : Option Nat} {i : Nat} (h : Rest c₀ k₀ s) : Rest c₀ k₀ (discard s o i) := by
  unfold discard
  split
  · exact h
  · exact .noteGroups (.setGroup (h.foldl fun _ _ h => h.returnCredits))

protected theorem Rest.resolveGroup {s : State} {o : Option Nat} {i code cause : Nat} (h : Rest c₀ k₀ s) :
    Rest c₀ k₀ (resolveGroup s o i code cause) := by
  unfold resolveGroup
  split
  · exact h
  · exact .noteGroups (.ite (.inc (.ite (.setGroup (h.discard.mk.ite h.discard)) (.ite (.mk (h.discard.mk.ite h.discard))
      (.foldl (.mk (h.discard.mk.ite h.discard)) fun _ _ h => h.unbind.ite h)))) (.inc (.ite (.setGroup (h.discard.mk.ite
      h.discard)) (.ite (.mk (h.discard.mk.ite h.discard)) (.foldl (.mk (h.discard.mk.ite h.discard)) fun _ _ h => h.unbind.ite
      h)))))

protected theorem Rest.failGroup {s : State} {o : Option Nat} {i code cause : Nat} (h : Rest c₀ k₀ s) :
    Rest c₀ k₀ (failGroup s o i code cause) := by
  unfold failGroup
  split
  · exact h
  · exact h.resolveGroup.ite h.discard.setGroup

protected theorem Rest.groupStore {s : State} {o : Option Nat} {i k : Nat} {d : List Byte} {cred : Nat} {bad : Bool}
    (h : Rest c₀ k₀ s) :
    Rest c₀ k₀ (groupStore s o i k d cred bad).1 := by
  unfold groupStore
  split
  · exact h
  · exact h.ite_fst (h.ite_fst (.ite_fst (.noteGroups (h.foldl_fst fun _ _ h => h.ite_fst (by
      split
      · exact h
      · split
        · exact h
        · exact h.setGroup))) (.setGroup (.discard (h.foldl_fst fun _ _ h => h.ite_fst (by
      split
      · exact h
      · split
        · exact h
        · exact h.setGroup))))))

protected theorem Rest.storeAt {s : State} {k : Nat} {d : List Byte} (h : Rest c₀ k₀ s) : Rest c₀ k₀ (storeAt s k d) :=
  h.hbmStore.ite h.meetEdges.wrBytes

protected theorem Rest.noteLanded {s : State} {k n : Nat} (h : Rest c₀ k₀ s) : Rest c₀ k₀ (noteLanded s k n) := by
  unfold noteLanded
  split
  · exact h
  · exact h.mk

protected theorem Rest.coreStore {s : State} {c : Nat} {va : Option Nat} {k : Nat} {d : List Byte} {bad : Bool}
    (h : Rest c₀ k₀ s) :
    Rest c₀ k₀ (coreStore s c va k d bad).1 :=
  h.ite_fst (h.ite_fst (by
    dsimp only
    split
    · exact .groupStore (.ite (.trafficTo (h.noteLanded.ite h)) (h.noteLanded.ite h))
    · exact .ite (.markWords (.storeAt (.ite (.trafficTo (h.noteLanded.ite h)) (h.noteLanded.ite h)))) (.storeAt (.ite
        (.trafficTo (h.noteLanded.ite h)) (h.noteLanded.ite h)))))

protected theorem Rest.putPiece {s : State} {c : Nat} {e : Nat × Option Nat × List Byte × Bool} (h : Rest c₀ k₀ s) :
    Rest c₀ k₀ (putPiece s c e).1 := .ite_fst (h.wrBytes.markWords.ite h.wrBytes) h.coreStore

protected theorem Rest.runGrant {s : State} {c : Nat} {g : Grant} (h : Rest c₀ k₀ s) : Rest c₀ k₀ (runGrant s c g) :=
  .ite (h.onCore (fun _ => rfl)) (.ite (by
    dsimp only
    split
    · exact .onCore (.putPiece (by
        split
        · exact .ite (.ite (h.onCore (fun _ => rfl)) (.meet (h.onCore (fun _ => rfl)))) (.failGroup (.ite (h.onCore (fun _ =>
            rfl)) (.meet (h.onCore (fun _ => rfl)))))
        · exact .ite (h.onCore (fun _ => rfl)) (.meet (h.onCore (fun _ => rfl))))) (fun _ => rfl)
    · exact .putPiece (by
        split
        · exact .ite (.ite (h.onCore (fun _ => rfl)) (.meet (h.onCore (fun _ => rfl)))) (.failGroup (.ite (h.onCore (fun _ =>
            rfl)) (.meet (h.onCore (fun _ => rfl)))))
        · exact .ite (h.onCore (fun _ => rfl)) (.meet (h.onCore (fun _ => rfl))))) (by
    split
    · exact .onCore (.ite (h.onCore (fun _ => rfl)) (.meet (h.onCore (fun _ => rfl)))) (fun _ => rfl)
    · exact .onCore (.ite (h.onCore (fun _ => rfl)) (.meet (h.onCore (fun _ => rfl)))) (fun _ => rfl)
    · exact .ite (h.onCore (fun _ => rfl)) (.meet (h.onCore (fun _ => rfl)))))

protected theorem Rest.flushN {n : Nat} {s : State} {c : Nat} (h : Rest c₀ k₀ s) : Rest c₀ k₀ (flushN n s c) := by
  induction n generalizing s with
  | zero => exact h
  | succ n ih =>
    rw [flushN]
    split
    · exact h
    · exact ih h.runGrant

protected theorem Rest.flush {s : State} {c : Nat} (h : Rest c₀ k₀ s) : Rest c₀ k₀ (flush s c) := h.flushN

protected theorem Rest.settleMem {s : State} {k : Nat} (h : Rest c₀ k₀ s) : Rest c₀ k₀ (settleMem s k) := h.flush.ite h

end

theorem rest_self (s : State) (c : Nat) : Rest c (core s c).rest s := (rest_def s).2 rfl

theorem front_of_rest {s u : State} {c : Nat} (h : Rest c (core s c).rest u) : (core u c).front = (core s c).front :=
  show (core u c).rest.front = (core s c).rest.front from congrArg Core.front ((rest_def u).1 h)

/-- What an `LDPM` takes from its source: each place with its length, and the code of the first that has none (R276, R277). -/
def Ldpm.source (s : State) (c : Nat) (l : Ldpm) : List (Nat × Nat) × Nat := ldpmPieces s c 4 l.va l.bytes

/-- The source's lines have come, and the errors in it are met. -/
def Ldpm.met (s : State) (c : Nat) (l : Ldpm) : State :=
  (l.source s c).1.foldl (fun t e => meet (settleMem t e.1) e.1 e.2) s

/-- The bytes that an `LDPM` copies: whole words. -/
def Ldpm.copied (s : State) (c : Nat) (l : Ldpm) : List Byte :=
  let d := (l.source s c).1.flatMap fun e => rdBytes (l.met s c) e.1 e.2
  d.take (d.length / 8 * 8)

theorem Ldpm.met_rest (s : State) (c : Nat) (l : Ldpm) : Rest c (core s c).rest (l.met s c) :=
  .foldl (rest_self s c) fun _ _ h => h.settleMem.meet

theorem ldpmDone_running {s : State} {c beats : Nat} {l : Ldpm} (runs : coreRuns s c = true) (copying : (core s c).ldpm = some l) :
    ldpmDone s c beats =
      onCore (wrBytes (l.met s c) (Mem.prog c (1 - (core s c).front) (8 * l.word)) (l.copied s c)) c fun k => { k with
        ldpm := none
        ldpmStatus := if (l.source s c).2 ≠ 0 then (l.source s c).2
          else if (l.source s c).1.any fun e => poisoned (l.met s c) e.1 e.2 then 0x0303 else 0
        ldpmEnd := l.beat + beats
        beat := max k.beat (l.beat + beats) } := by
  rw [ldpmDone, copying]
  dsimp only
  rw [runs]
  rfl

theorem ldpm_starts {s : State} {c : Nat} {i : CIns} (free : ControlFree s c) (idle : (core s c).ldpm = none)
    (aligned : (core s c).x i.xb % 2 ^ 18 % 8 = 0) (small : (core s c).x i.xb % 2 ^ 18 ≤ 131072)
    (fits : 8 * imm14 i + (core s c).x i.xb % 2 ^ 18 ≤ 131072) :
    ldpm s c i = setCore s c { (((core s c).onward (core s c).cbeat 1).setX i.xd 0) with
      ldpm := some ⟨(core s c).x i.xa, (core s c).x i.xb % 2 ^ 18, imm14 i, (core s c).cbeat⟩ } := by
  rw [ldpm, controlCore_free free]
  dsimp only
  rw [idle, if_neg (by simp), if_neg (by omega)]

theorem Ldpm.copied_length (s : State) (c : Nat) (l : Ldpm) : (l.copied s c).length =
    ((l.source s c).1.flatMap fun e => rdBytes (l.met s c) e.1 e.2).length / 8 * 8 := by
  rw [copied, List.length_take]
  exact Nat.min_eq_left (Nat.div_mul_le_self ..)

/-- Settles O11: the end of a copy is one write of the back bank (`ldpmDone_running`), after reads that leave the core's banks as
they are (`Ldpm.met_rest`). -/
theorem programMemoryReload : Obligations.ProgramMemoryReload := by
  unfold Obligations.ProgramMemoryReload
  intro s c i free
  dsimp only
  rw [← imm14_eq]
  refine ⟨fun none aligned small fits => ?start, fun copying => ?busy, fun l beats copying => ?done⟩
  case start =>
    refine ⟨_, exec_setCore rfl free.1 (ldpm_starts free none aligned small fits), onlyCore_set .., ?_, ?_, ?_, ?_⟩
    · rw [core_setCore_same]
    · rw [core_setCore_same]; exact setX_pc ..
    · rw [core_setCore_same]; exact setX_cbeat ..
    · intro j; rw [core_setCore_same]; exact x_setX_zero ..
  case busy =>
    refine exec_writes free rfl ?_ rfl
    rw [ldpm, controlCore_free free]
    exact if_pos (Option.isSome_iff_ne_none.2 copying)
  case done =>
    have frontStands : (core (l.met s c) c).front = (core s c).front := front_of_rest (l.met_rest s c)
    have size := l.copied_length s c
    refine ⟨_, (guarded_of (decide_eq_true free.1) ..).trans (congrArg (done s) (ldpmDone_running free.2.1 copying)), ?_⟩
    refine ⟨congrArg Core.ldpm (core_setCore_same ..), congrArg Core.ldpmEnd (core_setCore_same ..),
      congrArg Core.ldpmStatus (core_setCore_same ..), ?_, fun a outside => ?_,
      (congrArg Core.front (core_setCore_same ..)).trans frontStands⟩
    · exact (congrArg (rdBytes _ _) size.symm).trans (rdBytes_wrBytes (l.met s c) _ (l.copied s c))
    · refine (rdByte_wrBytes (l.met s c) _ (l.copied s c) a).trans (if_neg ?_)
      rw [size]
      exact fun inside => by
        rcases outside with before | behind
        · exact absurd inside.1 (Nat.not_le.2 before)
        · exact absurd inside.2 (Nat.not_lt.2 behind)

end Sys2Proof.Machine
end

section
/-! SUPPORT. Loads and stores of the control core (R122 to R124, R272), and what they leave of memory, the cores and the queue. -/

namespace Sys2Proof.Machine

open Sys2Proof

/-- Memory is m₀. -/
@[irreducible] def MemIs (m₀ : Tab Byte) (s : State) : Prop := s.mem = m₀

section
variable {m₀ : Tab Byte}
theorem memIs_def (s : State) : MemIs m₀ s ↔ s.mem = m₀ := by unfold MemIs; exact Iff.rfl

theorem memIs_self (s : State) : MemIs s.mem s := (memIs_def s).2 rfl

protected theorem MemIs.mk {s : State} {dict poison flips pins supply save host power sectors cores xlat groups resolved commitLog keysets laces handles arrivals windows transport step ports routes paths twin island replays det pke hbm recovery sessions sent freeCtr pending} (h : MemIs m₀ s) :
    MemIs m₀ (.mk dict s.mem poison flips pins supply save host power sectors cores xlat groups resolved commitLog keysets laces handles arrivals windows transport step ports routes paths twin island replays det pke hbm recovery sessions sent freeCtr pending) :=
  (memIs_def _).2 ((memIs_def s).1 h)
protected theorem MemIs.ite {p : Prop} [Decidable p] {s t : State} (hs : MemIs m₀ s) (ht : MemIs m₀ t) :
    MemIs m₀ (if p then s else t) := by split <;> assumption
protected theorem MemIs.ite_fst {α : Type} {p : Prop} [Decidable p] {s t : State × α} (hs : MemIs m₀ s.1) (ht : MemIs m₀ t.1) :
    MemIs m₀ (if p then s else t).1 := by split <;> assumption
protected theorem MemIs.foldl {α : Type} {f : State → α → State} {l : List α} {s : State} (h : MemIs m₀ s)
    (step : ∀ s a, MemIs m₀ s → MemIs m₀ (f s a)) : MemIs m₀ (l.foldl f s) := by
  induction l generalizing s with
  | nil => exact h
  | cons a l ih => exact ih (step s a h)
protected theorem MemIs.foldl_fst {α β : Type} {f : State × β → α → State × β} {l : List α} {s : State × β} (h : MemIs m₀ s.1)
    (step : ∀ s a, MemIs m₀ s.1 → MemIs m₀ (f s a).1) : MemIs m₀ (l.foldl f s).1 := by
  induction l generalizing s with
  | nil => exact h
  | cons a l ih => exact ih (step s a h)

protected theorem MemIs.wr {s : State} {k v : Nat} (h : MemIs m₀ s) : MemIs m₀ (wr s k v) := h.mk

protected theorem MemIs.incBy {s : State} {k n : Nat} (h : MemIs m₀ s) : MemIs m₀ (incBy s k n) := h.wr

protected theorem MemIs.inc {s : State} {k : Nat} (h : MemIs m₀ s) : MemIs m₀ (inc s k) := h.incBy

protected theorem MemIs.mark {s : State} {k : Nat} (h : MemIs m₀ s) : MemIs m₀ (mark s k) := h.mk

protected theorem MemIs.setSector {s : State} {x : Nat} {v : Sector} (h : MemIs m₀ s) : MemIs m₀ (setSector s x v) := h.mk

protected theorem MemIs.countAt {s : State} {cfg val ev inst n : Nat} (h : MemIs m₀ s) :
    MemIs m₀ (countAt s cfg val ev inst n) := h.incBy.ite h

protected theorem MemIs.countDev {s : State} {ev inst n : Nat} (h : MemIs m₀ s) : MemIs m₀ (countDev s ev inst n) :=
  h.foldl fun _ _ h => h.countAt

protected theorem MemIs.noteNd {s : State} {cause : Nat} {p : Option Nat} (h : MemIs m₀ s) : MemIs m₀ (noteNd s cause p) := by
  unfold noteNd
  dsimp only
  split
  · exact h.inc.countDev.inc
  · exact h.inc.countDev

protected theorem MemIs.onchipUe {s : State} {x a block : Nat} (h : MemIs m₀ s) : MemIs m₀ (onchipUe s x a block) :=
  h.inc.wr.wr.wr

protected theorem MemIs.setDomain {s : State} {d v : Nat} (h : MemIs m₀ s) : MemIs m₀ (setDomain s d v) := h.wr

protected theorem MemIs.returnAsked {s : State} (h : MemIs m₀ s) : MemIs m₀ (returnAsked s) :=
  h.foldl fun _ _ h => h.setDomain.ite h

protected theorem MemIs.recordRefusal {s : State} {block reason state kind : Nat} (h : MemIs m₀ s) :
    MemIs m₀ (recordRefusal s block reason state kind) := .wr (.wr (.wr (.wr (.wr (.wr (.wr (h.foldl fun _ _ h => h.wr)))))))

protected theorem MemIs.endEntry {s : State} {block reason kind : Nat} (h : MemIs m₀ s) :
    MemIs m₀ (endEntry s block reason kind) := by
  unfold endEntry
  split
  · exact h
  · exact .wr (.wr (h.mk.returnAsked.recordRefusal.inc.ite h.mk.returnAsked.recordRefusal.inc))

protected theorem MemIs.workReaches {s : State} {b : Nat} (h : MemIs m₀ s) : MemIs m₀ (workReaches s b) := by
  unfold workReaches
  split
  · exact h
  · exact h.endEntry.ite h

protected theorem MemIs.wakeOne {s : State} {d : Nat} (h : MemIs m₀ s) : MemIs m₀ (wakeOne s d) :=
  h.mk.ite (h.ite h.mk.setDomain)

protected theorem MemIs.wakeDomain {s : State} {d : Nat} (h : MemIs m₀ s) : MemIs m₀ (wakeDomain s d) :=
  h.ite (h.wakeOne.ite (h.mk.foldl fun _ _ h => h.wakeOne))

protected theorem MemIs.trafficTo {s : State} {x : Nat} (h : MemIs m₀ s) : MemIs m₀ (trafficTo s x) :=
  h.workReaches.workReaches.ite h.workReaches.workReaches.wakeDomain

protected theorem MemIs.paceBreak {s : State} {x : Nat} (h : MemIs m₀ s) : MemIs m₀ (paceBreak s x) :=
  h.ite (by
    dsimp only
    split
    · exact h.inc.noteNd.ite h.inc
    · exact h.inc)

protected theorem MemIs.loseWord {s : State} {k : Nat} (h : MemIs m₀ s) : MemIs m₀ (loseWord s k) :=
  h.mark.mk.onchipUe.ite (h.mark.onchipUe.ite h.mark.onchipUe)

protected theorem MemIs.meetWord {s : State} {k n : Nat} (h : MemIs m₀ s) : MemIs m₀ (meetWord s k n) :=
  .ite (h.mk.ite h.mk.loseWord) (.ite (h.mk.inc.ite h.mk.loseWord) (.ite (h.mk.inc.ite h.mk.loseWord) (h.mk.inc.ite
    (h.mk.inc.paceBreak.ite h.mk.loseWord))))

protected theorem MemIs.meet {s : State} {k n : Nat} (h : MemIs m₀ s) : MemIs m₀ (meet s k n) := h.foldl fun _ _ h => h.meetWord

protected theorem MemIs.meetEdges {s : State} {k n : Nat} (h : MemIs m₀ s) : MemIs m₀ (meetEdges s k n) :=
  h.foldl fun _ _ h => h.meetWord

protected theorem MemIs.setGroup {s : State} {o : Option Nat} {i : Nat} {f : Group → Group} (h : MemIs m₀ s) :
    MemIs m₀ (setGroup s o i f) := h.mk

protected theorem MemIs.noteGroups {s : State} (h : MemIs m₀ s) : MemIs m₀ (noteGroups s) := h.wr.wr

protected theorem MemIs.returnCredits {s : State} {k n : Nat} (h : MemIs m₀ s) : MemIs m₀ (returnCredits s k n) :=
  h.ite h.setSector

protected theorem MemIs.discard {s : State} {o : Option Nat} {i : Nat} (h : MemIs m₀ s) : MemIs m₀ (discard s o i) := by
  unfold discard
  split
  · exact h
  · exact .noteGroups (.setGroup (h.foldl fun _ _ h => h.returnCredits))

protected theorem MemIs.groupStore {s : State} {o : Option Nat} {i k : Nat} {d : List Byte} {cred : Nat} {bad : Bool}
    (h : MemIs m₀ s) :
    MemIs m₀ (groupStore s o i k d cred bad).1 := by
  unfold groupStore
  split
  · exact h
  · exact h.ite_fst (h.ite_fst (.ite_fst (.noteGroups (h.foldl_fst fun _ _ h => h.ite_fst (by
      split
      · exact h
      · split
        · exact h
        · exact h.setGroup))) (.setGroup (.discard (h.foldl_fst fun _ _ h => h.ite_fst (by
      split
      · exact h
      · split
        · exact h
        · exact h.setGroup))))))

protected theorem MemIs.noteLanded {s : State} {k n : Nat} (h : MemIs m₀ s) : MemIs m₀ (noteLanded s k n) := by
  unfold noteLanded
  split
  · exact h
  · exact h.mk

end

/-- The cores are k₀. -/
@[irreducible] def CoresIs (k₀ : Tab Core) (s : State) : Prop := s.cores = k₀

section
variable {k₀ : Tab Core}
theorem coresIs_def (s : State) : CoresIs k₀ s ↔ s.cores = k₀ := by unfold CoresIs; exact Iff.rfl

theorem coresIs_self (s : State) : CoresIs s.cores s := (coresIs_def s).2 rfl

protected theorem CoresIs.mk {s : State} {dict mem poison flips pins supply save host power sectors xlat groups resolved commitLog keysets laces handles arrivals windows transport step ports routes paths twin island replays det pke hbm recovery sessions sent freeCtr pending} (h : CoresIs k₀ s) :
    CoresIs k₀ (.mk dict mem poison flips pins supply save host power sectors s.cores xlat groups resolved commitLog keysets laces handles arrivals windows transport step ports routes paths twin island replays det pke hbm recovery sessions sent freeCtr pending) :=
  (coresIs_def _).2 ((coresIs_def s).1 h)
protected theorem CoresIs.ite {p : Prop} [Decidable p] {s t : State} (hs : CoresIs k₀ s) (ht : CoresIs k₀ t) :
    CoresIs k₀ (if p then s else t) := by split <;> assumption
protected theorem CoresIs.ite_fst {α : Type} {p : Prop} [Decidable p] {s t : State × α} (hs : CoresIs k₀ s.1) (ht : CoresIs k₀ t.1) :
    CoresIs k₀ (if p then s else t).1 := by split <;> assumption
protected theorem CoresIs.foldl {α : Type} {f : State → α → State} {l : List α} {s : State} (h : CoresIs k₀ s)
    (step : ∀ s a, CoresIs k₀ s → CoresIs k₀ (f s a)) : CoresIs k₀ (l.foldl f s) := by
  induction l generalizing s with
  | nil => exact h
  | cons a l ih => exact ih (step s a h)
protected theorem CoresIs.foldl_fst {α β : Type} {f : State × β → α → State × β} {l : List α} {s : State × β} (h : CoresIs k₀ s.1)
    (step : ∀ s a, CoresIs k₀ s.1 → CoresIs k₀ (f s a).1) : CoresIs k₀ (l.foldl f s).1 := by
  induction l generalizing s with
  | nil => exact h
  | cons a l ih => exact ih (step s a h)

protected theorem CoresIs.wr {s : State} {k v : Nat} (h : CoresIs k₀ s) : CoresIs k₀ (wr s k v) := h.mk

protected theorem CoresIs.incBy {s : State} {k n : Nat} (h : CoresIs k₀ s) : CoresIs k₀ (incBy s k n) := h.wr

protected theorem CoresIs.inc {s : State} {k : Nat} (h : CoresIs k₀ s) : CoresIs k₀ (inc s k) := h.incBy

protected theorem CoresIs.wrBytes {s : State} {k : Nat} {d : List Byte} (h : CoresIs k₀ s) : CoresIs k₀ (wrBytes s k d) := h.mk

protected theorem CoresIs.mark {s : State} {k : Nat} (h : CoresIs k₀ s) : CoresIs k₀ (mark s k) := h.mk

protected theorem CoresIs.markWords {s : State} {k n : Nat} (h : CoresIs k₀ s) : CoresIs k₀ (markWords s k n) :=
  h.foldl fun _ _ h => h.mark

protected theorem CoresIs.setSector {s : State} {x : Nat} {v : Sector} (h : CoresIs k₀ s) : CoresIs k₀ (setSector s x v) := h.mk

protected theorem CoresIs.countAt {s : State} {cfg val ev inst n : Nat} (h : CoresIs k₀ s) :
    CoresIs k₀ (countAt s cfg val ev inst n) := h.incBy.ite h

protected theorem CoresIs.countDev {s : State} {ev inst n : Nat} (h : CoresIs k₀ s) : CoresIs k₀ (countDev s ev inst n) :=
  h.foldl fun _ _ h => h.countAt

protected theorem CoresIs.noteNd {s : State} {cause : Nat} {p : Option Nat} (h : CoresIs k₀ s) :
    CoresIs k₀ (noteNd s cause p) := by
  unfold noteNd
  dsimp only
  split
  · exact h.inc.countDev.inc
  · exact h.inc.countDev

protected theorem CoresIs.onchipUe {s : State} {x a block : Nat} (h : CoresIs k₀ s) : CoresIs k₀ (onchipUe s x a block) :=
  h.inc.wr.wr.wr

protected theorem CoresIs.setDomain {s : State} {d v : Nat} (h : CoresIs k₀ s) : CoresIs k₀ (setDomain s d v) := h.wr

protected theorem CoresIs.returnAsked {s : State} (h : CoresIs k₀ s) : CoresIs k₀ (returnAsked s) :=
  h.foldl fun _ _ h => h.setDomain.ite h

protected theorem CoresIs.recordRefusal {s : State} {block reason state kind : Nat} (h : CoresIs k₀ s) :
    CoresIs k₀ (recordRefusal s block reason state kind) := .wr (.wr (.wr (.wr (.wr (.wr (.wr (h.foldl fun _ _ h => h.wr)))))))

protected theorem CoresIs.endEntry {s : State} {block reason kind : Nat} (h : CoresIs k₀ s) :
    CoresIs k₀ (endEntry s block reason kind) := by
  unfold endEntry
  split
  · exact h
  · exact .wr (.wr (h.mk.returnAsked.recordRefusal.inc.ite h.mk.returnAsked.recordRefusal.inc))

protected theorem CoresIs.workReaches {s : State} {b : Nat} (h : CoresIs k₀ s) : CoresIs k₀ (workReaches s b) := by
  unfold workReaches
  split
  · exact h
  · exact h.endEntry.ite h

protected theorem CoresIs.wakeOne {s : State} {d : Nat} (h : CoresIs k₀ s) : CoresIs k₀ (wakeOne s d) :=
  h.mk.ite (h.ite h.mk.setDomain)

protected theorem CoresIs.wakeDomain {s : State} {d : Nat} (h : CoresIs k₀ s) : CoresIs k₀ (wakeDomain s d) :=
  h.ite (h.wakeOne.ite (h.mk.foldl fun _ _ h => h.wakeOne))

protected theorem CoresIs.trafficTo {s : State} {x : Nat} (h : CoresIs k₀ s) : CoresIs k₀ (trafficTo s x) :=
  h.workReaches.workReaches.ite h.workReaches.workReaches.wakeDomain

protected theorem CoresIs.paceBreak {s : State} {x : Nat} (h : CoresIs k₀ s) : CoresIs k₀ (paceBreak s x) :=
  h.ite (by
    dsimp only
    split
    · exact h.inc.noteNd.ite h.inc
    · exact h.inc)

protected theorem CoresIs.clearLost {s : State} {lo hi : Nat} (h : CoresIs k₀ s) : CoresIs k₀ (clearLost s lo hi) := h.mk.ite h

protected theorem CoresIs.hbmStore {s : State} {a : Nat} {d : List Byte} (h : CoresIs k₀ s) : CoresIs k₀ (hbmStore s a d) :=
  h.wrBytes.clearLost.ite h.wrBytes

protected theorem CoresIs.loseWord {s : State} {k : Nat} (h : CoresIs k₀ s) : CoresIs k₀ (loseWord s k) :=
  h.mark.mk.onchipUe.ite (h.mark.onchipUe.ite h.mark.onchipUe)

protected theorem CoresIs.meetWord {s : State} {k n : Nat} (h : CoresIs k₀ s) : CoresIs k₀ (meetWord s k n) :=
  .ite (h.mk.ite h.mk.loseWord) (.ite (h.mk.inc.ite h.mk.loseWord) (.ite (h.mk.inc.ite h.mk.loseWord) (h.mk.inc.ite
    (h.mk.inc.paceBreak.ite h.mk.loseWord))))

protected theorem CoresIs.meetEdges {s : State} {k n : Nat} (h : CoresIs k₀ s) : CoresIs k₀ (meetEdges s k n) :=
  h.foldl fun _ _ h => h.meetWord

protected theorem CoresIs.setGroup {s : State} {o : Option Nat} {i : Nat} {f : Group → Group} (h : CoresIs k₀ s) :
    CoresIs k₀ (setGroup s o i f) := h.mk

protected theorem CoresIs.noteGroups {s : State} (h : CoresIs k₀ s) : CoresIs k₀ (noteGroups s) := h.wr.wr

protected theorem CoresIs.returnCredits {s : State} {k n : Nat} (h : CoresIs k₀ s) : CoresIs k₀ (returnCredits s k n) :=
  h.ite h.setSector

protected theorem CoresIs.discard {s : State} {o : Option Nat} {i : Nat} (h : CoresIs k₀ s) : CoresIs k₀ (discard s o i) := by
  unfold discard
  split
  · exact h
  · exact .noteGroups (.setGroup (h.foldl fun _ _ h => h.returnCredits))

protected theorem CoresIs.groupStore {s : State} {o : Option Nat} {i k : Nat} {d : List Byte} {cred : Nat} {bad : Bool}
    (h : CoresIs k₀ s) :
    CoresIs k₀ (groupStore s o i k d cred bad).1 := by
  unfold groupStore
  split
  · exact h
  · exact h.ite_fst (h.ite_fst (.ite_fst (.noteGroups (h.foldl_fst fun _ _ h => h.ite_fst (by
      split
      · exact h
      · split
        · exact h
        · exact h.setGroup))) (.setGroup (.discard (h.foldl_fst fun _ _ h => h.ite_fst (by
      split
      · exact h
      · split
        · exact h
        · exact h.setGroup))))))

protected theorem CoresIs.storeAt {s : State} {k : Nat} {d : List Byte} (h : CoresIs k₀ s) : CoresIs k₀ (storeAt s k d) :=
  h.hbmStore.ite h.meetEdges.wrBytes

protected theorem CoresIs.noteLanded {s : State} {k n : Nat} (h : CoresIs k₀ s) : CoresIs k₀ (noteLanded s k n) := by
  unfold noteLanded
  split
  · exact h
  · exact h.mk

protected theorem CoresIs.coreStore {s : State} {c : Nat} {va : Option Nat} {k : Nat} {d : List Byte} {bad : Bool}
    (h : CoresIs k₀ s) :
    CoresIs k₀ (coreStore s c va k d bad).1 :=
  h.ite_fst (h.ite_fst (by
    dsimp only
    split
    · exact .groupStore (.ite (.trafficTo (h.noteLanded.ite h)) (h.noteLanded.ite h))
    · exact .ite (.markWords (.storeAt (.ite (.trafficTo (h.noteLanded.ite h)) (h.noteLanded.ite h)))) (.storeAt (.ite
        (.trafficTo (h.noteLanded.ite h)) (h.noteLanded.ite h)))))

end

/-- The commands that wait are q₀. -/
@[irreducible] def QueueIs (q₀ : List Instr) (s : State) : Prop := s.pending = q₀

section
variable {q₀ : List Instr}
theorem queueIs_def (s : State) : QueueIs q₀ s ↔ s.pending = q₀ := by unfold QueueIs; exact Iff.rfl

theorem queueIs_self (s : State) : QueueIs s.pending s := (queueIs_def s).2 rfl

protected theorem QueueIs.mk {s : State} {dict mem poison flips pins supply save host power sectors cores xlat groups resolved commitLog keysets laces handles arrivals windows transport step ports routes paths twin island replays det pke hbm recovery sessions sent freeCtr} (h : QueueIs q₀ s) :
    QueueIs q₀ (.mk dict mem poison flips pins supply save host power sectors cores xlat groups resolved commitLog keysets laces handles arrivals windows transport step ports routes paths twin island replays det pke hbm recovery sessions sent freeCtr s.pending) :=
  (queueIs_def _).2 ((queueIs_def s).1 h)
protected theorem QueueIs.ite {p : Prop} [Decidable p] {s t : State} (hs : QueueIs q₀ s) (ht : QueueIs q₀ t) :
    QueueIs q₀ (if p then s else t) := by split <;> assumption
protected theorem QueueIs.ite_fst {α : Type} {p : Prop} [Decidable p] {s t : State × α} (hs : QueueIs q₀ s.1) (ht : QueueIs q₀ t.1) :
    QueueIs q₀ (if p then s else t).1 := by split <;> assumption
protected theorem QueueIs.foldl {α : Type} {f : State → α → State} {l : List α} {s : State} (h : QueueIs q₀ s)
    (step : ∀ s a, QueueIs q₀ s → QueueIs q₀ (f s a)) : QueueIs q₀ (l.foldl f s) := by
  induction l generalizing s with
  | nil => exact h
  | cons a l ih => exact ih (step s a h)
protected theorem QueueIs.foldl_fst {α β : Type} {f : State × β → α → State × β} {l : List α} {s : State × β} (h : QueueIs q₀ s.1)
    (step : ∀ s a, QueueIs q₀ s.1 → QueueIs q₀ (f s a).1) : QueueIs q₀ (l.foldl f s).1 := by
  induction l generalizing s with
  | nil => exact h
  | cons a l ih => exact ih (step s a h)

protected theorem QueueIs.wr {s : State} {k v : Nat} (h : QueueIs q₀ s) : QueueIs q₀ (wr s k v) := h.mk

protected theorem QueueIs.incBy {s : State} {k n : Nat} (h : QueueIs q₀ s) : QueueIs q₀ (incBy s k n) := h.wr

protected theorem QueueIs.inc {s : State} {k : Nat} (h : QueueIs q₀ s) : QueueIs q₀ (inc s k) := h.incBy

protected theorem QueueIs.wrBytes {s : State} {k : Nat} {d : List Byte} (h : QueueIs q₀ s) : QueueIs q₀ (wrBytes s k d) := h.mk

protected theorem QueueIs.mark {s : State} {k : Nat} (h : QueueIs q₀ s) : QueueIs q₀ (mark s k) := h.mk

protected theorem QueueIs.markWords {s : State} {k n : Nat} (h : QueueIs q₀ s) : QueueIs q₀ (markWords s k n) :=
  h.foldl fun _ _ h => h.mark

protected theorem QueueIs.setSector {s : State} {x : Nat} {v : Sector} (h : QueueIs q₀ s) : QueueIs q₀ (setSector s x v) := h.mk

protected theorem QueueIs.setCore {s : State} {c : Nat} {v : Core} (h : QueueIs q₀ s) : QueueIs q₀ (setCore s c v) := h.mk

protected theorem QueueIs.countAt {s : State} {cfg val ev inst n : Nat} (h : QueueIs q₀ s) :
    QueueIs q₀ (countAt s cfg val ev inst n) := h.incBy.ite h

protected theorem QueueIs.countDev {s : State} {ev inst n : Nat} (h : QueueIs q₀ s) : QueueIs q₀ (countDev s ev inst n) :=
  h.foldl fun _ _ h => h.countAt

protected theorem QueueIs.countSec {s : State} {x ev n : Nat} (h : QueueIs q₀ s) : QueueIs q₀ (countSec s x ev n) :=
  .countDev (h.foldl fun _ _ h => h.countAt)

protected theorem QueueIs.countCore {s : State} {c ev n : Nat} (h : QueueIs q₀ s) : QueueIs q₀ (countCore s c ev n) :=
  .countSec (h.foldl fun _ _ h => h.countAt)

protected theorem QueueIs.noteNd {s : State} {cause : Nat} {p : Option Nat} (h : QueueIs q₀ s) :
    QueueIs q₀ (noteNd s cause p) := by
  unfold noteNd
  dsimp only
  split
  · exact h.inc.countDev.inc
  · exact h.inc.countDev

protected theorem QueueIs.onchipUe {s : State} {x a block : Nat} (h : QueueIs q₀ s) : QueueIs q₀ (onchipUe s x a block) :=
  h.inc.wr.wr.wr

protected theorem QueueIs.setDomain {s : State} {d v : Nat} (h : QueueIs q₀ s) : QueueIs q₀ (setDomain s d v) := h.wr

protected theorem QueueIs.returnAsked {s : State} (h : QueueIs q₀ s) : QueueIs q₀ (returnAsked s) :=
  h.foldl fun _ _ h => h.setDomain.ite h

protected theorem QueueIs.recordRefusal {s : State} {block reason state kind : Nat} (h : QueueIs q₀ s) :
    QueueIs q₀ (recordRefusal s block reason state kind) := .wr (.wr (.wr (.wr (.wr (.wr (.wr (h.foldl fun _ _ h => h.wr)))))))

protected theorem QueueIs.endEntry {s : State} {block reason kind : Nat} (h : QueueIs q₀ s) :
    QueueIs q₀ (endEntry s block reason kind) := by
  unfold endEntry
  split
  · exact h
  · exact .wr (.wr (h.mk.returnAsked.recordRefusal.inc.ite h.mk.returnAsked.recordRefusal.inc))

protected theorem QueueIs.workReaches {s : State} {b : Nat} (h : QueueIs q₀ s) : QueueIs q₀ (workReaches s b) := by
  unfold workReaches
  split
  · exact h
  · exact h.endEntry.ite h

protected theorem QueueIs.wakeOne {s : State} {d : Nat} (h : QueueIs q₀ s) : QueueIs q₀ (wakeOne s d) :=
  h.mk.ite (h.ite h.mk.setDomain)

protected theorem QueueIs.wakeDomain {s : State} {d : Nat} (h : QueueIs q₀ s) : QueueIs q₀ (wakeDomain s d) :=
  h.ite (h.wakeOne.ite (h.mk.foldl fun _ _ h => h.wakeOne))

protected theorem QueueIs.trafficTo {s : State} {x : Nat} (h : QueueIs q₀ s) : QueueIs q₀ (trafficTo s x) :=
  h.workReaches.workReaches.ite h.workReaches.workReaches.wakeDomain

protected theorem QueueIs.paceBreak {s : State} {x : Nat} (h : QueueIs q₀ s) : QueueIs q₀ (paceBreak s x) :=
  h.ite (by
    dsimp only
    split
    · exact h.inc.noteNd.ite h.inc
    · exact h.inc)

protected theorem QueueIs.clearLost {s : State} {lo hi : Nat} (h : QueueIs q₀ s) : QueueIs q₀ (clearLost s lo hi) := h.mk.ite h

protected theorem QueueIs.hbmStore {s : State} {a : Nat} {d : List Byte} (h : QueueIs q₀ s) : QueueIs q₀ (hbmStore s a d) :=
  h.wrBytes.clearLost.ite h.wrBytes

protected theorem QueueIs.loseWord {s : State} {k : Nat} (h : QueueIs q₀ s) : QueueIs q₀ (loseWord s k) :=
  h.mark.mk.onchipUe.ite (h.mark.onchipUe.ite h.mark.onchipUe)

protected theorem QueueIs.meetWord {s : State} {k n : Nat} (h : QueueIs q₀ s) : QueueIs q₀ (meetWord s k n) :=
  .ite (h.mk.ite h.mk.loseWord) (.ite (h.mk.inc.ite h.mk.loseWord) (.ite (h.mk.inc.ite h.mk.loseWord) (h.mk.inc.ite
    (h.mk.inc.paceBreak.ite h.mk.loseWord))))

protected theorem QueueIs.meet {s : State} {k n : Nat} (h : QueueIs q₀ s) : QueueIs q₀ (meet s k n) :=
  h.foldl fun _ _ h => h.meetWord

protected theorem QueueIs.meetEdges {s : State} {k n : Nat} (h : QueueIs q₀ s) : QueueIs q₀ (meetEdges s k n) :=
  h.foldl fun _ _ h => h.meetWord

protected theorem QueueIs.setGroup {s : State} {o : Option Nat} {i : Nat} {f : Group → Group} (h : QueueIs q₀ s) :
    QueueIs q₀ (setGroup s o i f) := h.mk

protected theorem QueueIs.noteGroups {s : State} (h : QueueIs q₀ s) : QueueIs q₀ (noteGroups s) := h.wr.wr

protected theorem QueueIs.returnCredits {s : State} {k n : Nat} (h : QueueIs q₀ s) : QueueIs q₀ (returnCredits s k n) :=
  h.ite h.setSector

protected theorem QueueIs.discard {s : State} {o : Option Nat} {i : Nat} (h : QueueIs q₀ s) : QueueIs q₀ (discard s o i) := by
  unfold discard
  split
  · exact h
  · exact .noteGroups (.setGroup (h.foldl fun _ _ h => h.returnCredits))

protected theorem QueueIs.unbind {s : State} {c : Nat} (h : QueueIs q₀ s) : QueueIs q₀ (unbind s c) := h.ite h.setCore

protected theorem QueueIs.resolveGroup {s : State} {o : Option Nat} {i code cause : Nat} (h : QueueIs q₀ s) :
    QueueIs q₀ (resolveGroup s o i code cause) := by
  unfold resolveGroup
  split
  · exact h
  · exact .noteGroups (.ite (.inc (.ite (.setGroup (h.discard.mk.ite h.discard)) (.ite (.mk (h.discard.mk.ite h.discard))
      (.foldl (.mk (h.discard.mk.ite h.discard)) fun _ _ h => h.unbind.ite h)))) (.inc (.ite (.setGroup (h.discard.mk.ite
      h.discard)) (.ite (.mk (h.discard.mk.ite h.discard)) (.foldl (.mk (h.discard.mk.ite h.discard)) fun _ _ h => h.unbind.ite
      h)))))

protected theorem QueueIs.failGroup {s : State} {o : Option Nat} {i code cause : Nat} (h : QueueIs q₀ s) :
    QueueIs q₀ (failGroup s o i code cause) := by
  unfold failGroup
  split
  · exact h
  · exact h.resolveGroup.ite h.discard.setGroup

protected theorem QueueIs.groupStore {s : State} {o : Option Nat} {i k : Nat} {d : List Byte} {cred : Nat} {bad : Bool}
    (h : QueueIs q₀ s) :
    QueueIs q₀ (groupStore s o i k d cred bad).1 := by
  unfold groupStore
  split
  · exact h
  · exact h.ite_fst (h.ite_fst (.ite_fst (.noteGroups (h.foldl_fst fun _ _ h => h.ite_fst (by
      split
      · exact h
      · split
        · exact h
        · exact h.setGroup))) (.setGroup (.discard (h.foldl_fst fun _ _ h => h.ite_fst (by
      split
      · exact h
      · split
        · exact h
        · exact h.setGroup))))))

protected theorem QueueIs.storeAt {s : State} {k : Nat} {d : List Byte} (h : QueueIs q₀ s) : QueueIs q₀ (storeAt s k d) :=
  h.hbmStore.ite h.meetEdges.wrBytes

protected theorem QueueIs.noteLanded {s : State} {k n : Nat} (h : QueueIs q₀ s) : QueueIs q₀ (noteLanded s k n) := by
  unfold noteLanded
  split
  · exact h
  · exact h.mk

protected theorem QueueIs.coreStore {s : State} {c : Nat} {va : Option Nat} {k : Nat} {d : List Byte} {bad : Bool}
    (h : QueueIs q₀ s) :
    QueueIs q₀ (coreStore s c va k d bad).1 :=
  h.ite_fst (h.ite_fst (by
    dsimp only
    split
    · exact .groupStore (.ite (.trafficTo (h.noteLanded.ite h)) (h.noteLanded.ite h))
    · exact .ite (.markWords (.storeAt (.ite (.trafficTo (h.noteLanded.ite h)) (h.noteLanded.ite h)))) (.storeAt (.ite
        (.trafficTo (h.noteLanded.ite h)) (h.noteLanded.ite h)))))

protected theorem QueueIs.onCore {s : State} {c : Nat} {f : Core → Core} (h : QueueIs q₀ s) : QueueIs q₀ (onCore s c f) :=
  h.setCore

protected theorem QueueIs.noteFault {s : State} {c code word beat : Nat} {f : Found} (h : QueueIs q₀ s) :
    QueueIs q₀ (noteFault s c code word beat f) := h.ite (h.wr.wr.wr.wr.wr.wr.wr.wr.inc.countCore.ite h.wr.wr.wr.wr.wr.wr.wr.wr)

protected theorem QueueIs.faultBlock {s : State} {c code word beat : Nat} {f : Found} (h : QueueIs q₀ s) :
    QueueIs q₀ (faultBlock s c code word beat f) := h.noteFault.onCore

protected theorem QueueIs.putPiece {s : State} {c : Nat} {e : Nat × Option Nat × List Byte × Bool} (h : QueueIs q₀ s) :
    QueueIs q₀ (putPiece s c e).1 := .ite_fst (h.wrBytes.markWords.ite h.wrBytes) h.coreStore

protected theorem QueueIs.putAll {s : State} {c : Nat} {l : List (Nat × Option Nat × List Byte × Bool)} {st : Nat}
    (h : QueueIs q₀ s) :
    QueueIs q₀ (putAll s c l st).1 := h.foldl_fst fun _ _ h => h.putPiece

protected theorem QueueIs.runGrant {s : State} {c : Nat} {g : Grant} (h : QueueIs q₀ s) : QueueIs q₀ (runGrant s c g) :=
  h.onCore.ite (.ite (by
    dsimp only
    split
    · exact .onCore (.putPiece (by
        split
        · exact .ite (h.onCore.ite h.onCore.meet) (.failGroup (h.onCore.ite h.onCore.meet))
        · exact h.onCore.ite h.onCore.meet))
    · exact .putPiece (by
        split
        · exact .ite (h.onCore.ite h.onCore.meet) (.failGroup (h.onCore.ite h.onCore.meet))
        · exact h.onCore.ite h.onCore.meet)) (by
    split
    · exact .onCore (h.onCore.ite h.onCore.meet)
    · exact .onCore (h.onCore.ite h.onCore.meet)
    · exact h.onCore.ite h.onCore.meet))

protected theorem QueueIs.settle {s : State} {c : Nat} {x : Xfer} (h : QueueIs q₀ s) : QueueIs q₀ (settle s c x).1 :=
  .putAll (by
    split
    · exact h.ite h.failGroup
    · exact h)

protected theorem QueueIs.endXfer {s : State} {c : Nat} {x : Xfer} {st e : Nat} (h : QueueIs q₀ s) :
    QueueIs q₀ (endXfer s c x st e) := h.onCore.ite h.onCore.faultBlock

protected theorem QueueIs.finishLoad {s : State} {c : Nat} {x : Xfer} {e : Nat} (h : QueueIs q₀ s) :
    QueueIs q₀ (finishLoad s c x e) := h.settle.onCore.endXfer

protected theorem QueueIs.finishStore {s : State} {c : Nat} {x : Xfer} {e : Nat} (h : QueueIs q₀ s) :
    QueueIs q₀ (finishStore s c x e) := .endXfer (h.settle.onCore.ite h.settle)

protected theorem QueueIs.applyFx {s : State} {c : Nat} {o : Op} {a0 : Fx} (h : QueueIs q₀ s) :
    QueueIs q₀ (applyFx s c o a0) := by
  unfold applyFx
  split
  · exact h.onCore
  · exact h.onCore
  · dsimp only
    split
    · exact h.faultBlock
    · exact h.faultBlock.ite h.onCore
  · exact h.onCore
  · exact .wrBytes (h.inc.ite h)
  · exact h.inc
  · exact h.incBy
  · exact h.wr.wr.wr.wr
  · exact h.wrBytes.incBy
  · exact h.wr.wr.wr.wr
  · exact h.onCore
  · exact h.onCore
  · exact h.onCore
  · exact h.onCore
  · exact h.onCore
  · exact h.inc
  · exact h.incBy
  · exact h.onCore
  · exact h.markWords

protected theorem QueueIs.applyWrite {s : State} {c : Nat} {e : Nat × Option Nat × List Byte} (h : QueueIs q₀ s) :
    QueueIs q₀ (applyWrite s c e).1 := h.wrBytes.ite_fst h.coreStore

protected theorem QueueIs.completeOp {s : State} {c : Nat} {o : Op} (h : QueueIs q₀ s) : QueueIs q₀ (completeOp s c o) :=
  .ite (.foldl (.onCore (.foldl_fst (by
    split
    · exact h.ite h.failGroup
    · exact h) fun _ _ h => h.applyWrite)) fun _ _ h => h.applyFx) (.faultBlock (.foldl (.onCore (.foldl_fst (by
    split
    · exact h.ite h.failGroup
    · exact h) fun _ _ h => h.applyWrite)) fun _ _ h => h.applyFx))

protected theorem QueueIs.nextEvent_ends {s : State} {c : Nat} {e : Xfer × Nat} (h : QueueIs q₀ s) :
    QueueIs q₀ (nextEvent.ends s c e) := h.finishLoad.ite h.finishStore

protected theorem QueueIs.nextEvent_opOrEnd {s : State} {c : Nat} {o : Option Op} {x : Option (Xfer × Nat)} (h : QueueIs q₀ s) :
    QueueIs q₀ (nextEvent.opOrEnd s c o x).2 := by
  unfold nextEvent.opOrEnd
  split
  · exact h
  · exact h.onCore.completeOp
  · exact h.nextEvent_ends
  · split
    · exact h.onCore.completeOp
    · exact h.nextEvent_ends

protected theorem QueueIs.nextEvent {s : State} {c : Nat} (h : QueueIs q₀ s) : QueueIs q₀ (nextEvent s c).2 := by
  unfold nextEvent
  dsimp only
  split
  · split
    · exact h.runGrant
    · exact h.nextEvent_opOrEnd
  · exact h.nextEvent_opOrEnd

protected theorem QueueIs.retireN {n : Nat} {s : State} {c a : Nat} (h : QueueIs q₀ s) : QueueIs q₀ (retireN n s c a) := by
  induction n generalizing s with
  | zero => exact h
  | succ n ih =>
    rw [retireN]
    split
    · exact h.onCore
    · exact .ite (ih h.nextEvent) h.onCore

protected theorem QueueIs.retire {s : State} {c a : Nat} (h : QueueIs q₀ s) : QueueIs q₀ (retire s c a) := h.retireN

end

/-! ## A core's own memory -/

section
variable {s u : State} {c o : Nat}

theorem bits_cm (place : o < 0x180000) : bits (Mem.cm c o) 31 27 = c % 25 := by
  simp only [bits, Mem.cm, Mem.onchip]
  omega

theorem sector_cm (real : c < 800) (place : o < 0x180000) : bits (Mem.cm c o) 36 32 = c / 25 := by
  simp only [bits, Mem.cm, Mem.onchip]
  omega

/-- A core's own memory lies on the chip, below the tiles. -/
theorem cm_onchip (real : c < 800) (place : o < 0x180000) : 2 ^ 38 ≤ Mem.cm c o ∧ Mem.cm c o < 2 ^ 41 := by
  simp only [Mem.cm, Mem.onchip]
  omega

theorem ringAllowed_cm (place : o < 0x180000) (who : Requester) : ringAllowed s who (Mem.cm c o) = true := by
  have apart : inRing (Mem.cm c o) = false := by
    rw [inRing, bits_cm place]
    have : c % 25 ≠ 31 := by omega
    simp [this]
  simp [ringAllowed, apart]

theorem groupOf_congr {va : Option Nat} {k : Nat} (cores : u.cores = s.cores) (groups : u.groups = s.groups) :
    groupOf u c va k = groupOf s c va k := by
  simp only [groupOf, findGroup, core_congr cores, groups]

theorem noteLanded_groups (k n : Nat) : (noteLanded s k n).groups = s.groups := by
  unfold noteLanded; split <;> rfl

theorem noteLanded_cores (k n : Nat) : (noteLanded s k n).cores = s.cores := by
  unfold noteLanded; split <;> rfl

/-- A key of the memory of core c's own sector, in which core c may store outside its pool. -/
structure OwnKey (s : State) (c k : Nat) : Prop where
  chip : 2 ^ 38 ≤ k ∧ k < 2 ^ 41
  own : bits k 36 32 = c / 25
  outside : inPool s k = false
  allowed : ringAllowed s (.core c) k = true

theorem ownKey_cm (real : c < 800) (place : o < 0x180000) (outside : inPool s (Mem.cm c o) = false) : OwnKey s c (Mem.cm c o) :=
  ⟨cm_onchip real place, sector_cm real place, outside, ringAllowed_cm place _⟩

/-- A store of a core into its own sector, outside the pool and the rings: the group's, or at once (R502, R513). -/
theorem coreStore_own {k : Nat} (key : OwnKey s c k) (d : List Byte) :
    coreStore s c none k d false = match groupOf s c none k with
      | some i => groupStore (noteLanded s k d.length) none i k d 0 false
      | none => (storeAt (noteLanded s k d.length) k d, 0) := by
  have here : ¬(2 ^ 38 ≤ k ∧ bits k 36 32 ≠ c / 25 ∧ !inRing k ∧ (!lands s k d.length ∨ landsClosing s k d.length)) :=
    fun far => far.2.1 key.own
  have still : ¬(2 ^ 38 ≤ k ∧ bits k 36 32 ≠ c / 25) := fun far => far.2 key.own
  unfold coreStore
  rw [key.outside, key.allowed, if_neg (by simp), if_neg here]
  dsimp only
  rw [if_pos key.chip.1, if_neg still, groupOf_congr (noteLanded_cores ..) (noteLanded_groups ..)]
  cases groupOf s c none k with
  | none => simp only [Bool.false_eq_true, if_false]
  | some i => simp only

/-- Without a group the store is in memory at once; of a group, no byte changes that a reader sees. -/
theorem rdByte_coreStore_own {k : Nat} (key : OwnKey s c k) (d : List Byte) (a : Nat) :
    rdByte (coreStore s c none k d false).1 a =
      if groupOf s c none k = none ∧ k ≤ a ∧ a < k + d.length then d.getD (a - k) 0 else rdByte s a := by
  have landed := (memIs_self s).noteLanded (k := k) (n := d.length)
  rw [coreStore_own key]
  cases joins : groupOf s c none k with
  | some i => exact (rdByte_congr ((memIs_def _).1 landed.groupStore) a).trans (if_neg (by simp)).symm
  | none =>
    dsimp only
    rw [storeAt, if_neg (Nat.not_lt.2 key.chip.1), rdByte_wrBytes, rdByte_congr ((memIs_def _).1 landed.meetEdges)]
    simp

end

/-! ## A line of the control core -/

section
variable {u : State} {c : Nat}

/-- The one line of a store: what its grant does. -/
theorem runGrant_store (g : Grant) (n : g.n ≠ 0) (write : g.write = true) (free : g.xfer = none) {d : List Byte × Bool}
    (carries : g.data = some d) :
    runGrant u c g = (putPiece (onCore u c fun k => { k with grants := k.grants.erase g }) c (g.dst, g.dva, d.1, d.2)).1 := by
  unfold runGrant
  rw [write, free, carries]
  dsimp only
  rw [if_neg n]
  simp only [Option.bind_none, Option.map_none, Option.getD_none, if_true, Option.isSome_some, Option.getD_some]
  split <;> rfl

/-- A core with one store on its way: nothing else waits once it is in memory. -/
theorem flush_store {g : Grant} (alone : (core u c).grants = [g]) (n : g.n ≠ 0) (write : g.write = true) (free : g.xfer = none)
    (chip : g.dst < 2 ^ 41) {d : List Byte × Bool} (carries : g.data = some d) :
    flush u c = (coreStore (onCore u c fun k => { k with grants := k.grants.erase g }) c g.dva g.dst d.1 d.2).1 := by
  have first : firstGrant (core u c).grants = some g := by rw [alone]; rfl
  have put : runGrant u c g =
      (coreStore (onCore u c fun k => { k with grants := k.grants.erase g }) c g.dva g.dst d.1 d.2).1 := by
    rw [runGrant_store g n write free carries, putPiece, if_neg (Nat.not_le.2 chip)]
  have none : firstGrant (core (runGrant u c g) c).grants = none := by
    rw [put, core_congr ((coresIs_def _).1 (CoresIs.coreStore (coresIs_self _))), onCore, core_setCore_same, alone]
    simp [firstGrant]
  rw [flush, alone]
  show flushN (1 + 1) u c = _
  rw [flushN, first]
  dsimp only
  rw [flushN, none, put]

end

/-! ## `LDX` and `STX` -/

/-- The line that a store of core c takes at beat g. -/
def storeLine (g key : Nat) (d : List Byte) : Grant := ⟨g, none, true, 0, key, none, 8, none, some (d, false)⟩

@[simp] theorem storeLine_dst (g k : Nat) (d : List Byte) : (storeLine g k d).dst = k := rfl
@[simp] theorem storeLine_dva (g k : Nat) (d : List Byte) : (storeLine g k d).dva = none := rfl
@[simp] theorem storeLine_n (g k : Nat) (d : List Byte) : (storeLine g k d).n = 8 := rfl
@[simp] theorem storeLine_data (g k : Nat) (d : List Byte) : (storeLine g k d).data = some (d, false) := rfl

/-- The store of one line reads back once it is in memory; of a group, it changes no byte that a reader sees. -/
theorem rdByte_flush_storeLine {u : State} {k : Core} {c key g : Nat} {d : List Byte} (own : OwnKey u c key)
    (alone : k.grants = [storeLine g key d]) (bound : k.bound = (core u c).bound) (a : Nat) :
    rdByte (flush (setCore u c k) c) a =
      if groupOf u c none key = none ∧ key ≤ a ∧ a < key + d.length then d.getD (a - key) 0 else rdByte u a := by
  have line : (core (setCore u c k) c).grants = [storeLine g key d] := by rw [core_setCore_same]; exact alone
  have stored := flush_store line (by simp) rfl rfl (by simpa using own.chip.2) (storeLine_data ..)
  rw [storeLine_dst, storeLine_dva] at stored
  dsimp only at stored
  have group (k' : Core) (same : k'.bound = (core u c).bound) :
      groupOf (setCore (setCore u c k) c k') c none key = groupOf u c none key := by
    unfold groupOf
    rw [core_setCore_same, same]
    rfl
  rw [stored, onCore]
  generalize erased : ({ core (setCore u c k) c with grants := (core (setCore u c k) c).grants.erase (storeLine g key d) } : Core) = k'
  have same : k'.bound = (core u c).bound := by rw [← erased, core_setCore_same]; exact bound
  refine (rdByte_coreStore_own (s := setCore (setCore u c k) c k') ⟨own.chip, own.own, own.outside, own.allowed⟩ d a).trans ?_
  rw [group _ same]
  rfl

/-- Core c after it has taken the line of a store at beat g. -/
def Core.storing (k : Core) (g key : Nat) (d : List Byte) : Core := (k.book (storeLine g key d)).onward g 1

section
variable {u : State} {c key g : Nat} {d : List Byte} (own : OwnKey u c key) (quiet : (core u c).grants = [])
include own quiet

theorem rdByte_flush_storing (a : Nat) : rdByte (flush (setCore u c ((core u c).storing g key d)) c) a =
    if groupOf u c none key = none ∧ key ≤ a ∧ a < key + d.length then d.getD (a - key) 0 else rdByte u a :=
  rdByte_flush_storeLine (k := (core u c).storing g key d) own (congrArg (· ++ [storeLine g key d]) quiet) rfl a

theorem flush_storing_alone (alone : groupOf u c none key = none) (size : d.length = 8) :
    rdBytes (flush (setCore u c ((core u c).storing g key d)) c) key 8 = d ∧
      ∀ a, a < key ∨ key + 8 ≤ a → rdByte (flush (setCore u c ((core u c).storing g key d)) c) a = rdByte u a := by
  refine ⟨?_, fun a apart => (rdByte_flush_storing own quiet a).trans (if_neg (by omega))⟩
  have written : rdBytes (wrBytes u key d) key 8 = d := size ▸ rdBytes_wrBytes u key d
  refine Eq.trans ?_ written
  rw [rdBytes_eq_map, rdBytes_eq_map]
  refine List.map_congr_left fun j _ => (rdByte_flush_storing own quiet _).trans ?_
  rw [rdByte_wrBytes]
  simp [alone]

theorem flush_storing_group (joins : groupOf u c none key ≠ none) (a : Nat) :
    rdByte (flush (setCore u c ((core u c).storing g key d)) c) a = rdByte u a :=
  (rdByte_flush_storing own quiet a).trans (if_neg fun both => joins both.1)

end

/-- What becomes of core c, of a machine whose queue is the one that the instruction met. -/
theorem exec_setCore_of {n : Instr} {s u t : State} {c : Nat} {k : Core} (runs : exec n s = guarded (decide (c < 800)) s t)
    (real : c < 800) (takes : t = setCore u c k) (queue : u.pending = s.pending) : exec n s = .next (setCore u c k) := by
  rw [runs, guarded_of (decide_eq_true real), takes, done, ← queue]
  rfl

theorem retire_queue (s : State) (c a : Nat) : (retire s c a).pending = s.pending :=
  (queueIs_def _).1 (queueIs_self s).retire

section
variable {s : State} {c : Nat} {i : CIns} {o g : Nat} (free : ControlFree s c)
  (offset : o = ((core s c).x i.xa + 8 * imm14 i) % 2 ^ 64) (place : o + 8 ≤ 0x180000) (beat : g = slot15 (core s c).cbeat o)
include free offset place beat

theorem ldx_reads (outside : inPool s (Mem.cm c o) = false)
    (clean : poisoned (meet (retire s c g) (Mem.cm c o) 8) (Mem.cm c o) 8 = false) :
    ldx s c i = onCore (meet (retire s c g) (Mem.cm c o) 8) c fun k =>
      (k.onward g 5).setX i.xd (rdNat (meet (retire s c g) (Mem.cm c o) 8) (Mem.cm c o) 8) := by
  rw [ldx, controlCore_free free]
  dsimp only
  rw [ctlOffset, ← offset, ← beat, if_neg (by simp [outside]; omega), clean]
  rfl

theorem stx_stores (taken : (coreStore (retire s c g) c none (Mem.cm c o) (leBytes 8 ((core s c).x i.xb)) false).2 = 0) :
    stx s c i = onCore (retire s c g) c
      fun k => k.storing g (Mem.cm c o) (leBytes 8 ((core s c).x i.xb)) := by
  rw [stx, controlCore_free free]
  dsimp only
  rw [ctlOffset, ← offset, ← beat, if_neg (by omega), if_neg (not_not.2 taken)]
  rfl

end

/-- Settles O8: the slot's beat is `slot15`, a load is one read of what has then been met (`ldx_reads`), and a store is one line, whose
grant writes its bytes, or keeps them in the group (`rdByte_flush_storing`). -/
theorem controlMemory : Obligations.ControlMemory := by
  unfold Obligations.ControlMemory
  intro s c i free
  dsimp only
  rw [← imm14_eq]
  generalize offset : ((core s c).x i.xa + 8 * imm14 i) % 2 ^ 64 = o
  intro place outside
  have real := free.1
  have inside : o < 0x180000 := by omega
  refine ⟨slot15 (core s c).cbeat o, ?_, ?_, ?_, fun clean => ?load, fun open_ takes => ?store⟩
  · unfold slot15; omega
  · unfold slot15; omega
  · unfold slot15; omega
  case load =>
    refine ⟨_, exec_setCore_of rfl real (ldx_reads free offset.symm place rfl outside clean) ?_,
      wrote_setX _ _ _ _ _ (BitVec.toNat_ofNat ..).symm⟩
    exact (queueIs_def _).1 (queueIs_self s).retire.meet
  case store =>
    have own := ownKey_cm real inside open_
    have taken : (coreStore (retire s c (slot15 (core s c).cbeat o)) c none (Mem.cm c o) (leBytes 8 ((core s c).x i.xb)) false).2 = 0 := by
      rcases takes with alone | done
      · rw [coreStore_own own, alone]
      · exact done
    have runs := exec_setCore_of (n := .stx c i) rfl real (stx_stores free offset.symm place rfl taken) (retire_queue ..)
    generalize retire s c (slot15 (core s c).cbeat o) = u at runs own ⊢
    generalize Mem.cm c o = key at runs own ⊢
    refine ⟨_, runs, onlyCore_set .., core_setCore_same .., fun quiet alone => ?_, fun quiet joins a => ?_⟩
    · exact flush_storing_alone own quiet alone (leBytes_length ..)
    · exact flush_storing_group own quiet joins a

end Sys2Proof.Machine
end

section
/-! SUPPORT. A load that ends before the next instruction's beat, and pushes its entry behind a token (R242, R253). -/

namespace Sys2Proof.Machine

open Sys2Proof

/-- A load of tile 3 for this queue, whose last line has moved in beat 10. -/
def endingLoad (q : Nat) : Xfer := ⟨0, .ldt, 8, 5, 0, 0, q, 3, false, 0, 0, 0, 0, 4096, 4096, [], 0, none, 0, false, 10⟩

/-- A running block, in whose middle both streams stand at beat 20. -/
def midBlock : Block := ⟨2, 5, 12, 40, 16, 20, false, 8, 20, false, 0, 5⟩

/-- A core whose queue 0, toward the execute or the access stream, holds a token of beat 6, while a load for it is in flight. -/
def feeding (toAccess : Bool) : Core :=
  { Core.init with running := true, block := some midBlock, queues := [(0, ⟨toAccess, 4, [(true, 3, 4, 6)], 0⟩)], xfers := [endingLoad 0] }

/-- The machine after reset with its main stage on, its pacers locked and core 0 feeding. -/
def feed (toAccess : Bool) : State :=
  { wr State.reset E.pacer_lock_status 0xFFFFFFFF with
    supply := { State.reset.supply with mainOn := true }, cores := [(0, feeding toAccess)] }

def zeroX : XIns := ⟨0, .tile 0 0, .tile 0 0, .tile 0 0, 0⟩
def zeroA : AIns := ⟨1, 0, 2, false, 0, 0, 0⟩

theorem executeFree_feed : ExecuteFree (feed false) 0 20 midBlock (retire (feed false) 0 20) := by
  unfold ExecuteFree
  exact ⟨by decide, by decide +kernel, rfl, rfl, rfl, rfl, by decide, rfl, { midBlock with last := 10 }, by decide +kernel, rfl⟩

theorem accessFree_feed : AccessFree (feed true) 0 20 midBlock (retire (feed true) 0 20) := by
  unfold AccessFree
  exact ⟨by decide, by decide +kernel, rfl, rfl, rfl, rfl, by decide, by decide +kernel, by decide +kernel, rfl,
    { midBlock with last := 10 }, by decide +kernel, rfl⟩

/-- What queue 0 holds once `POPK`, or `WTOK`, has taken the token: the load's entry. -/
def heldAfter (r : Res) : List (Bool × Nat × Nat × Nat) :=
  match r with
  | .next t => (core t 0).held 0
  | _ => []

theorem popk_leaves_load : heldAfter (exec (.popk 0 zeroX) (feed false)) = [(false, 3, 1, 10)] := by decide +kernel
theorem wtok_leaves_load : heldAfter (exec (.wtok 0 zeroA) (feed true)) = [(false, 3, 1, 10)] := by decide +kernel

/-- Refutes O13: a load that ends before `POPK` issues pushes its entry behind the token, so the queue holds more than what stood
behind the token when the command was given. In `feed false` the load of tile 3 ends in beat 10, before the pop in beat 20. -/
theorem not_executeStreamRuns : ¬ Obligations.ExecuteStreamRuns := by
  unfold Obligations.ExecuteStreamRuns
  rintro ⟨-, pops, -⟩
  obtain ⟨-, pop, -⟩ := pops (feed false) _ 0 20 midBlock zeroX executeFree_feed (by decide +kernel)
  obtain ⟨v, runs, -, emptied, -⟩ := pop 6 [] 3 4 rfl rfl rfl
  have held := popk_leaves_load
  rw [runs] at held
  exact absurd (emptied.symm.trans held) (by decide)

/-- Refutes O14: in `feed true` a load for the queue that `WTOK` waits on ends in beat 10, before the token is taken in beat 20, and
pushes its entry (the statement asks nothing of the transfers in flight). -/
theorem not_accessControl : ¬ Obligations.AccessControl := by
  unfold Obligations.AccessControl
  intro h
  obtain ⟨-, wait, -⟩ := h (feed true) _ 0 20 midBlock zeroA accessFree_feed
  obtain ⟨v, runs, -, -, emptied, -⟩ := wait 6 [] 3 4 rfl rfl rfl
  have held := wtok_leaves_load
  rw [runs] at held
  exact absurd (emptied.symm.trans held) (by decide)

end Sys2Proof.Machine
end

section
/-! SUPPORT. Transfers end, and held ones go on (R242, R253, R256, R473, R475). -/

namespace Sys2Proof.Machine

open Sys2Proof

section
variable {k₀ : Tab Core}

protected theorem CoresIs.putPiece {s : State} {c : Nat} {e : Nat × Option Nat × List Byte × Bool} (h : CoresIs k₀ s) :
    CoresIs k₀ (putPiece s c e).1 :=
  .ite_fst (h.wrBytes.markWords.ite h.wrBytes) h.coreStore

protected theorem CoresIs.putAll {s : State} {c : Nat} {l : List (Nat × Option Nat × List Byte × Bool)} {st : Nat} (h : CoresIs k₀ s) :
    CoresIs k₀ (putAll s c l st).1 :=
  h.foldl_fst fun _ _ h => h.putPiece

end

/-! ## A transfer that ends -/

/-- A core of which transfer x has left at beat e. -/
def Core.leaves (k : Core) (x : Xfer) (e : Nat) : Core :=
  { k with
    xfers := k.xfers.filter fun y => y.id != x.id
    beat := max k.beat e, block := k.block.map fun b => { b with last := max b.last e } }

/-- A core of which store or copy x has moved its bytes: the pool tile of a store is free. -/
def Core.stored (k : Core) (x : Xfer) : Core :=
  { k with free := if x.kind == .stt && x.pooled && bit k.pool x.tile then setBit k.free x.tile true else k.free }

section
variable {s u : State} {c e : Nat} {x : Xfer}

theorem endXfer_zero (s : State) (c : Nat) (x : Xfer) (e : Nat) : endXfer s c x 0 e = onCore s c fun k => k.leaves x e := by
  unfold endXfer
  exact if_pos rfl

theorem core_finishLoad (settled : settle s c x = (u, 0)) : core (finishLoad s c x e) c = ((core u c).loaded x e).leaves x e := by
  rw [finishLoad_eq, settled]
  simp only [endXfer_zero, onCore, core_setCore_same]

theorem mem_finishLoad (settled : settle s c x = (u, 0)) : (finishLoad s c x e).mem = u.mem := by
  rw [finishLoad_eq, settled, endXfer_zero]
  rfl

theorem core_finishStore (settled : settle s c x = (u, 0)) :
    core (finishStore s c x e) c = ((core u c).stored x).leaves x e := by
  unfold finishStore
  rw [settled]
  simp only [endXfer_zero, onCore, core_setCore_same]
  unfold Core.stored
  cases x.kind == .stt && x.pooled with
  | false => rfl
  | true => simp only [if_true, core_setCore_same, Bool.true_and]

theorem mem_finishStore (settled : settle s c x = (u, 0)) : (finishStore s c x e).mem = u.mem := by
  unfold finishStore
  rw [settled]
  dsimp only
  rw [endXfer_zero]
  split <;> rfl

theorem tile_high (c t o : Nat) : 2 ^ 41 ≤ Mem.tile c t o := by unfold Mem.tile; omega

/-- Bytes for a tile or a bank are written at once (R256). -/
theorem settle_high {key : Nat} {d : List Byte} (high : 2 ^ 41 ≤ key) (writes : x.writes = [(key, none, d, false)])
    (status : x.status = 0) : settle s c x = (wrBytes s key d, 0) := by
  have noGroup : xferGroup s c x = none := by
    rw [xferGroup, writes]
    simp only [List.findSome?_cons, if_pos high, List.findSome?_nil]
  have put : putPiece s c (key, none, d, false) = (wrBytes s key d, 0) := by
    rw [putPiece, if_pos high]
    rfl
  rw [settle, noGroup, writes, status, putAll, List.foldl_cons, List.foldl_nil, put]
  rfl

/-- A store of a core of no group writes what it has read (R513). -/
theorem settle_unbound (unbound : (core s c).bound = none) (status : x.status = 0) : settle s c x = putAll s c x.writes 0 := by
  have noGroup : xferGroup s c x = none := by
    refine List.findSome?_eq_none_iff.2 fun e _ => ?_
    rw [groupOf, unbound]
    exact ite_self _
  rw [settle, noGroup, status]

end

/-! ## What a core with one transfer does before a beat -/

/-- Core c has transfer x in flight, and nothing else. -/
structure OneXfer (s : State) (c : Nat) (x : Xfer) : Prop where
  xfers : (core s c).xfers = [x]
  ops : (core s c).ops = []
  grants : (core s c).grants = []

section
variable {s u : State} {c e a : Nat} {x : Xfer}

theorem releaseBefore_of_idle {k : Core} (ops : k.ops = []) (a : Nat) : k.releaseBefore a = k := by
  cases k
  cases ops
  rfl

theorem nextEvent_of_idle (ops : (core s c).ops = []) (grants : (core s c).grants = []) : nextEvent s c =
    match (core s c).firstEnd with
    | none => (none, s)
    | some e => (some e.2, nextEvent.ends s c e) := by
  unfold nextEvent
  dsimp only
  rw [ops, grants]
  cases (core s c).firstEnd <;> rfl

/-- Nothing ends of a core of which nothing can end. -/
theorem retireN_idle (ops : (core s c).ops = []) (grants : (core s c).grants = []) (ends : (core s c).firstEnd = none) (n : Nat) :
    retireN (n + 1) s c a = setCore s c (core s c) := by
  rw [retireN, nextEvent_of_idle ops grants, ends]
  exact congrArg (setCore s c) (releaseBefore_of_idle ops a)

theorem OneXfer.firstEnd (one : OneXfer s c x) : (core s c).firstEnd = ((core s c).ownEndOf x).map fun e => (x, e) := by
  unfold Core.firstEnd
  rw [one.xfers]
  cases found : (core s c).ownEndOf x <;> simp [found]

/-- A transfer without a beat of its own does not end by itself. -/
theorem OneXfer.retire_far (one : OneXfer s c x) (far : (core s c).ownEndOf x = none) (a : Nat) :
    retire s c a = setCore s c (core s c) :=
  retireN_idle one.ops one.grants (by rw [one.firstEnd, far]; rfl) _

/-- A transfer with a beat of its own ends in it. -/
theorem OneXfer.retire_own (one : OneXfer s c x) (own : (core s c).ownEndOf x = some e)
    (ops : (core (nextEvent.ends s c (x, e)) c).ops = []) (grants : (core (nextEvent.ends s c (x, e)) c).grants = [])
    (xfers : (core (nextEvent.ends s c (x, e)) c).xfers = []) :
    retire s c (e + 1) = setCore (nextEvent.ends s c (x, e)) c (core (nextEvent.ends s c (x, e)) c) := by
  have none : (core (nextEvent.ends s c (x, e)) c).firstEnd = none := by rw [Core.firstEnd, xfers]; rfl
  unfold retire
  rw [one.ops, one.grants, one.xfers]
  show retireN (1 + 1) s c (e + 1) = _
  rw [retireN, nextEvent_of_idle one.ops one.grants, one.firstEnd, own]
  show (if e < e + 1 then retireN 1 _ c (e + 1) else _) = _
  rw [if_pos (Nat.lt_succ_self e)]
  exact retireN_idle ops grants none 0

theorem arrival_awake {x : Nat} (decided : s.power.entry = none) (awake : asleep s x = false) (w : Arrival) (f : State → State) :
    arrival s x w f = f s := by
  have reaches (b : Nat) : workReaches s b = s := by rw [workReaches, decided]
  rw [arrival, reaches, reaches, awake]
  rfl

/-- A core that is put in its own place leaves every core as it is. -/
theorem core_setCore_self (s : State) (c j : Nat) : core (setCore s c (core s c)) j = core s j := by
  rw [core_setCore]
  split
  · rename_i same; rw [same]
  · rfl

/-- A machine is like itself with a core put in its own place. -/
theorem alike_setCore_self (s : State) (c : Nat) : ∃ v, Alike c v s (setCore s c (core s c)) := by
  cases block : (core s c).block with
  | some b => exact ⟨_, alike_setCore block (core s c).holds (core s c).passed⟩
  | none =>
    refine ⟨⟨(core s c).holds, (core s c).passed, 0, false⟩, .mk (Tab.set Core.init s.cores c _) fun j => (core_setCore ..).trans ?_⟩
    refine ite_congr rfl (fun own => ?_) fun _ => rfl
    rw [own, Core.withAside, block]
    simp only [Option.map_none]
    rw [← block]

theorem settle_setCore_self (s : State) (c : Nat) (x : Xfer) : (settle (setCore s c (core s c)) c x).1.mem = (settle s c x).1.mem ∧
    (settle (setCore s c (core s c)) c x).2 = (settle s c x).2 := by
  obtain ⟨v, alike⟩ := alike_setCore_self s c
  obtain ⟨settled, same⟩ := alike.settle c x
  exact ⟨settled.mem, same⟩

end
/-! ## The ends of transfers -/

section
variable {s : State} {c beats : Nat} {x : Xfer}

theorem OneXfer.found (one : OneXfer s c x) : (core s c).xfers.find? (·.id == x.id) = some x := by
  rw [one.xfers]
  simp

theorem leaves_xfers (one : OneXfer s c x) {k : Core} (same : k.xfers = (core s c).xfers) (e : Nat) : (k.leaves x e).xfers = [] := by
  rw [Core.leaves, same, one.xfers]
  simp

@[simp] theorem loaded_ops (k : Core) (x : Xfer) (e : Nat) : (k.loaded x e).ops = k.ops := by unfold Core.loaded; split <;> rfl
@[simp] theorem loaded_grants (k : Core) (x : Xfer) (e : Nat) : (k.loaded x e).grants = k.grants := by unfold Core.loaded; split <;> rfl
@[simp] theorem loaded_xfers (k : Core) (x : Xfer) (e : Nat) : (k.loaded x e).xfers = k.xfers := by unfold Core.loaded; split <;> rfl

/-- A transfer ends in its beat, whether that is its own or told (R142, R265): the machine is then as its end makes it. -/
structure EndsAs (t : State) (c : Nat) (k : Core) (m : Tab Byte) : Prop where
  core_eq : core t c = k
  mem_eq : t.mem = m

theorem EndsAs.self {t : State} {k : Core} {m : Tab Byte} (h : EndsAs t c k m) : EndsAs (setCore t c (core t c)) c k m :=
  ⟨(core_setCore_same ..).trans h.core_eq, h.mem_eq⟩

theorem ownEndOf_far (far : x.far = true) : (core s c).ownEndOf x = none := by
  rw [Core.ownEndOf, far]
  rfl

theorem ownEndOf_load (near : x.far = false) (kind : x.kind = .ldt) (held : x.held = none) (remote : x.remote = 0)
    (room : ((core s c).queue x.queue).room = true) :
    (core s c).ownEndOf x = some (max x.ownEnd ((core s c).queue x.queue).roomAt) := by
  unfold Core.ownEndOf Xfer.loads
  rw [near, kind, held, remote, room]
  rfl

theorem ownEndOf_store (near : x.far = false) (kind : x.kind = .stt ∨ x.kind = .cpy) (held : x.held = none) (remote : x.remote = 0) :
    (core s c).ownEndOf x = some x.ownEnd := by
  unfold Core.ownEndOf Xfer.loads
  rw [near, held, remote]
  rcases kind with kind | kind <;> rw [kind] <;> rfl

/-- A load ends in the later of its own beat and the one in which its queue has room (R242, R244). -/
theorem loadEnd_one (one : OneXfer s c x) (kind : x.kind = .ldt) (held : x.held = none) (remote : x.remote = 0)
    (room : ((core s c).queue x.queue).room = true) {u : State} (settled : settle s c x = (u, 0))
    (keeps : ∀ v : State, core v c = core s c → (settle v c x).1.cores = v.cores) :
    EndsAs (loadEnd s c x beats) c
      (((core s c).loaded x (max (endBeat s c x beats) ((core s c).queue x.queue).roomAt)).leaves x
        (max (endBeat s c x beats) ((core s c).queue x.queue).roomAt)) u.mem := by
  generalize beat : max (endBeat s c x beats) ((core s c).queue x.queue).roomAt = e
  unfold loadEnd
  dsimp only
  rw [room, beat]
  simp only [Bool.not_true, Bool.false_eq_true, if_false]
  cases far : x.far with
  | true =>
    simp only [if_true]
    rw [one.retire_far (ownEndOf_far far), core_setCore_self, one.found]
    dsimp only
    rw [far]
    obtain ⟨mem, status⟩ := settle_setCore_self s c x
    rw [settled] at mem status
    have again : settle (setCore s c (core s c)) c x = ((settle (setCore s c (core s c)) c x).1, 0) := Prod.ext rfl status
    refine ⟨(core_finishLoad again).trans ?_, (mem_finishLoad again).trans mem⟩
    rw [core_congr (keeps _ (core_setCore_same ..)), core_setCore_same]
  | false =>
    have own := ownEndOf_load far kind held remote room
    have beat' : max x.ownEnd ((core s c).queue x.queue).roomAt = e := by rw [← beat, endBeat, far]; rfl
    rw [beat'] at own
    have ends : nextEvent.ends s c (x, e) = finishLoad s c x e := by
      unfold nextEvent.ends Xfer.loads
      dsimp only
      rw [kind]
      rfl
    have after : core (finishLoad s c x e) c = ((core s c).loaded x e).leaves x e := by
      have cores := keeps s rfl
      rw [settled] at cores
      rw [core_finishLoad settled, core_congr cores]
    have gone := one.retire_own own (by rw [ends, after]; exact (loaded_ops ..).trans one.ops)
      (by rw [ends, after]; exact (loaded_grants ..).trans one.grants)
      (by rw [ends, after]; exact leaves_xfers one (loaded_xfers ..) e)
    simp only [if_false, Bool.false_eq_true]
    have none : (core (setCore (finishLoad s c x e) c (core (finishLoad s c x e) c)) c).xfers.find? (·.id == x.id) = none := by
      rw [core_setCore_same, after, leaves_xfers one (loaded_xfers ..)]
      rfl
    rw [gone, ends, none]
    exact EndsAs.self ⟨after, mem_finishLoad settled⟩

/-- A store or a copy ends in its own beat, or in the one told for what goes further (R142, R265). -/
theorem storeEnd_one (one : OneXfer s c x) (kind : x.kind = .stt ∨ x.kind = .cpy) (held : x.held = none) (remote : x.remote = 0)
    {u : State} (settled : settle s c x = (u, 0)) (keeps : ∀ v : State, core v c = core s c → (settle v c x).1.cores = v.cores) :
    EndsAs (storeEnd s c x beats) c (((core s c).stored x).leaves x (endBeat s c x beats)) u.mem := by
  generalize beat : endBeat s c x beats = e
  have after (v : State) (same : core v c = core s c) (w : State) (settles : settle v c x = (w, 0)) :
      core (finishStore v c x e) c = ((core s c).stored x).leaves x e := by
    have cores := keeps v same
    rw [settles] at cores
    rw [core_finishStore settles, core_congr cores, same]
  unfold storeEnd
  dsimp only
  rw [beat]
  cases far : x.far with
  | true =>
    simp only [if_true]
    obtain ⟨mem, status⟩ := settle_setCore_self s c x
    rw [settled] at mem status
    have again : settle (setCore s c (core s c)) c x = ((settle (setCore s c (core s c)) c x).1, 0) := Prod.ext rfl status
    by_cases zero : x.ownEnd = 0
    · rw [if_pos zero, one.found]
      exact ⟨after s rfl u settled, mem_finishStore settled⟩
    · rw [if_neg zero, one.retire_far (ownEndOf_far far), core_setCore_self, one.found]
      exact ⟨after _ (core_setCore_same ..) _ again, (mem_finishStore again).trans mem⟩
  | false =>
    have own := ownEndOf_store (s := s) (c := c) far kind held remote
    have beat' : x.ownEnd = e := by rw [← beat, endBeat, far]; rfl
    rw [beat'] at own
    have ends : nextEvent.ends s c (x, e) = finishStore s c x e := by
      unfold nextEvent.ends Xfer.loads
      dsimp only
      rcases kind with kind | kind <;> rw [kind] <;> rfl
    have gone := one.retire_own own (by rw [ends, after s rfl u settled]; exact one.ops)
      (by rw [ends, after s rfl u settled]; exact one.grants)
      (by rw [ends, after s rfl u settled]; exact leaves_xfers one rfl e)
    simp only [if_false, Bool.false_eq_true]
    rw [gone, ends]
    exact EndsAs.self ⟨after s rfl u settled, mem_finishStore settled⟩

end
/-! ## Transfers that go on -/

section
variable {s : State} {c a : Nat} {x : Xfer}

/-- However far it moves, a transfer keeps its number. -/
theorem moveXfer_id (s : State) (c : Nat) (x : Xfer) (a : Nat) : (moveXfer s c x a).2.1.id = x.id := by
  unfold moveXfer
  split
  · split
    · rfl
    · split <;> rfl
  · dsimp only
    split
    · rfl
    · split <;> rfl

theorem head?_drop_takeWhile {α : Type} (p : α → Bool) (l : List α) :
    (l.drop (l.takeWhile p).length).head? = l.find? fun y => !p y := by
  induction l with
  | nil => rfl
  | cons y l ih => cases h : p y <;> simp [h, ih]

/-- A transfer whose first unreachable address is one without a page moves, or holds there (R470 to R472). -/
theorem moveXfer_of_goes (goes : Goes s c x) (a : Nat) : (moveXfer s c x a).2.2 = 0 := by
  unfold Goes at goes
  unfold moveXfer
  by_cases kind : x.kind = .kopen
  · rw [if_pos kind] at goes
    rw [if_pos (by rw [kind]; rfl)]
    split
    · rfl
    · rename_i p stops
      rw [if_pos (goes p stops)]
  · rw [if_neg kind] at goes
    rw [if_neg (by simpa using kind)]
    dsimp only
    rw [head?_drop_takeWhile]
    split
    · rfl
    · rename_i p stops
      rw [if_pos (goes p stops)]

/-- A transfer that is in flight is replaced by what it has become. -/
theorem xfer_setXfer {k : Core} {id : Nat} {y : Xfer} (flies : (k.xfer id).isSome = true) (same : y.id = id) :
    (k.setXfer y).xfer id = some y := by
  unfold Core.xfer Core.setXfer at *
  dsimp only
  generalize k.xfers = l at flies ⊢
  induction l with
  | nil => cases flies
  | cons z l ih =>
    by_cases at_ : z.id = id
    · simp [at_, same]
    · have rest : (l.find? fun x => x.id == id).isSome = true := by simpa [at_] using flies
      have kept : (if z.id = y.id then y else z) = z := if_neg (by rwa [same])
      rw [List.map_cons, kept, List.find?_cons_of_neg (by simpa using at_)]
      exact ih rest

theorem resumeXfer_goes {id va : Nat} (flies : (core s c).xfer id = some x) (holds : x.held = some va)
    (mapped : (entryFor s c va).isSome = true) (goes : Goes s c { x with held := none }) :
    resumeXfer s c id = onCore (moveXfer s c { x with held := none } (core s c).beat).1 c fun k =>
      k.setXfer (moveXfer s c { x with held := none } (core s c).beat).2.1 := by
  have there : (entryFor s c va).isNone = false := by
    cases found : entryFor s c va with
    | none => rw [found] at mapped; cases mapped
    | some e => rfl
  unfold resumeXfer
  rw [flies]
  dsimp only
  rw [holds]
  dsimp only
  rw [there, if_neg (by decide), if_neg (not_not.2 (moveXfer_of_goes goes _))]

end

/-! ## The obligation -/

section
variable {s : State} {c beats : Nat} {x : Xfer}

theorem ldtComplete_one (one : OneXfer s c x) (runs : (core s c).running = true) (kind : x.kind = .ldt) (held : x.held = none)
    (remote : x.remote = 0) : ldtComplete s c x.id beats = loadEnd s c x beats := by
  have found : (core s c).xfer x.id = some x := one.found
  unfold ldtComplete
  rw [found]
  dsimp only
  rw [if_neg (by simp [held, remote, runs]), if_pos (by simp [Xfer.loads, kind])]

theorem transferDone_one (one : OneXfer s c x) (runs : (core s c).running = true) (kind : x.kind = .stt ∨ x.kind = .cpy)
    (held : x.held = none) (remote : x.remote = 0) : transferDone s c x.id beats = storeEnd s c x beats := by
  have found : (core s c).xfer x.id = some x := one.found
  unfold transferDone
  rw [found]
  dsimp only
  rw [if_neg (by simp [held, remote, runs])]
  rcases kind with kind | kind <;> rw [kind]

theorem held_pushEntry (k : Core) (q t g p : Nat) (token : Bool) :
    (k.pushEntry q token t g p).held q = k.held q ++ [(token, t, g, p)] := by
  rw [Core.held, Core.pushEntry, queue_setQueue, if_pos rfl]
  rfl

/-- What a tile of the pool is once a store has freed it. -/
theorem bit_stored (k : Core) (j : Nat) : bit (k.stored x).free j =
    if x.kind = .stt ∧ x.pooled = true ∧ j = x.tile ∧ bit k.pool j = true then true else bit k.free j := by
  unfold Core.stored
  by_cases frees : x.kind = .stt ∧ x.pooled = true ∧ bit k.pool x.tile = true
  · have sets : (x.kind == .stt && x.pooled && bit k.pool x.tile) = true := by simp [frees.1, frees.2.1, frees.2.2]
    rw [sets, if_pos rfl]
    by_cases at_ : j = x.tile
    · rw [at_, bit_setBit, if_pos ⟨frees.1, frees.2.1, rfl, frees.2.2⟩]
    · rw [bit_setBit_other at_, if_neg fun h => at_ h.2.2.1]
  · have keeps : (x.kind == .stt && x.pooled && bit k.pool x.tile) = false := by
      rw [Bool.eq_false_iff]
      intro h
      simp only [Bool.and_eq_true, beq_iff_eq] at h
      exact frees ⟨h.1.1, h.1.2, h.2⟩
    rw [keeps, if_neg (by decide), if_neg]
    rintro ⟨kind, pooled, rfl, inPool⟩
    exact frees ⟨kind, pooled, inPool⟩

end

/-- Settles O16: a core with one transfer ends it in its beat (`loadEnd_one`, `storeEnd_one`), and one that holds moves as far as its
addresses allow (`resumeXfer_goes`). -/
theorem transfersMove : Obligations.TransfersMove := by
  unfold Obligations.TransfersMove
  refine ⟨fun s c id beats x real decided awake runs xfers ops grants same held remote status => ?_,
    fun s c id va x real runs flies holds mapped => ?resume⟩
  · subst same
    have one : OneXfer s c x := ⟨xfers, ops, grants⟩
    refine ⟨fun d kind room writes => ?load, fun kind unbound => ?store⟩
    case load =>
      have room' : ((core s c).queue x.queue).room = true := decide_eq_true room
      have ends := loadEnd_one (beats := beats) one kind held remote room' (settle_high (tile_high ..) writes status) fun v _ => by
        rw [settle_high (tile_high ..) writes status]
        rfl
      have runs' : exec (.ldtComplete c x.id beats) s = done s (loadEnd s c x beats) := by
        rw [← ldtComplete_one one runs kind held remote]
        exact (guarded_of (decide_eq_true real) ..).trans (congrArg (done s) (arrival_awake decided awake ..))
      generalize max (endBeat s c x beats) ((core s c).queue x.queue).roomAt = e at ends ⊢
      have own : core { loadEnd s c x beats with pending := s.pending } c = ((core s c).loaded x e).leaves x e := ends.core_eq
      have plain : (core s c).loaded x e = { core s c with
          gens := Tab.set 0 (core s c).gens x.tile ((Tab.get 0 (core s c).gens x.tile + 1) % 8)
          raised := Tab.set 0 (core s c).raised x.tile (e + 1) }.pushEntry x.queue false x.tile
            ((Tab.get 0 (core s c).gens x.tile + 1) % 8) e := by
        unfold Core.loaded
        rw [kind]
        rfl
      refine ⟨_, runs', ?_, fun a outside => ?_, ?_, ?_, ?_, ?_⟩
      · exact (rdBytes_congr ends.mem_eq ..).trans (rdBytes_wrBytes s _ d)
      · exact (rdByte_congr ends.mem_eq a).trans ((rdByte_wrBytes s (Mem.tile c x.tile 0) d a).trans (if_neg (by omega)))
      · rw [own, plain]; exact Tab.get_set_same ..
      · rw [own, plain]; exact Tab.get_set_same 0 (core s c).raised x.tile (e + 1)
      · rw [own, plain]; exact held_pushEntry ..
      · rw [own]; exact leaves_xfers one (loaded_xfers ..) e
    case store =>
      intro r sound
      have settles (v : State) (same : core v c = core s c) : settle v c x = putAll v c x.writes 0 :=
        settle_unbound ((congrArg Core.bound same).trans unbound) status
      have settled : settle s c x = (r.1, 0) := (settles s rfl).trans (Prod.ext (show _ = r.1 from rfl) sound)
      have ends := storeEnd_one (beats := beats) one kind held remote settled
        fun v same => by
          rw [settles v same]
          exact (coresIs_def _).1 (coresIs_self v).putAll
      have runs' : exec (.transferDone c x.id beats) s = done s (storeEnd s c x beats) := by
        rw [← transferDone_one one runs kind held remote]
        exact (guarded_of (decide_eq_true real) ..).trans (congrArg (done s) (arrival_awake decided awake ..))
      have own : core { storeEnd s c x beats with pending := s.pending } c = ((core s c).stored x).leaves x (endBeat s c x beats) :=
        ends.core_eq
      refine ⟨_, runs', fun a => rdByte_congr ends.mem_eq a, ?_, ?_, fun j => ?_, ?_⟩
      · rw [own]; exact leaves_xfers one rfl (endBeat s c x beats)
      · rw [own]; rfl
      · rw [own]; exact bit_stored (core s c) j
      · rw [own]; rfl
  case resume =>
    intro r goes still
    have runs' : exec (.transferResume c id) s = done s (onCore r.1 c fun k => k.setXfer r.2.1) := by
      rw [← resumeXfer_goes flies holds mapped goes]
      exact (guarded_of (decide_eq_true real) ..).trans (congrArg (done s) (if_pos runs))
    have number : x.id = id := by simpa using List.find?_some flies
    refine ⟨_, runs', ?_, fun a => rfl⟩
    refine (congrArg (Core.xfer · id) (core_setCore_same ..)).trans (xfer_setXfer still ?_)
    exact (moveXfer_id ..).trans number

end Sys2Proof.Machine
end

section
/-! SUPPORT. The ends of an engine's operations (R245, R253, R256). -/

namespace Sys2Proof.Machine

open Sys2Proof

/-! ## An operation that ends -/

/-- Core c has operation o in flight, and nothing else, and o's read window ends within its latency (R245, R253). -/
structure OneOp (s : State) (c : Nat) (o : Op) : Prop where
  ops : (core s c).ops = [o]
  grants : (core s c).grants = []
  xfers : (core s c).xfers = []
  latency : 1 ≤ o.lat
  window : o.occ ≤ o.lat

/-- The pool tiles that an operation released are free (R245). -/
def Core.releases (k : Core) (o : Op) : Core :=
  { k with free := o.release.foldl (fun m t => if bit k.pool t then setBit m t true else m) k.free, ops := [] }

theorem bit_released (pool : Nat) (j : Nat) (l : List Nat) (m : Nat) :
    bit (l.foldl (fun m t => if bit pool t then setBit m t true else m) m) j =
      if l.contains j = true ∧ bit pool j = true then true else bit m j := by
  induction l generalizing m with
  | nil => simp
  | cons t l ih =>
    rw [List.foldl_cons, ih]
    by_cases at_ : j = t
    · subst at_
      by_cases member : bit pool j = true
      · simp [member, bit_setBit]
      · simp [member]
    · have kept : bit (if bit pool t then setBit m t true else m) j = bit m j := by
        split
        · exact bit_setBit_other at_ ..
        · rfl
      rw [kept]
      simp [at_]

section
variable {s : State} {c : Nat} {o : Op}

theorem OneOp.endOp (one : OneOp s c o) : (core s c).endOp o = (core s c).releases o := by
  have elapsed : o.issue + o.occ ≤ o.last + 1 := by
    have := one.latency
    have := one.window
    unfold Op.last
    omega
  unfold Core.endOp Core.releaseBefore Core.releases
  rw [one.ops]
  simp [elapsed]

/-- The core as operation o ends, but for its other effects. -/
def Core.finishes (k : Core) (o : Op) : Core := (k.releases o).completed o

/-- What an engine completes: its one operation, in its last beat (R253, R444). -/
theorem OneOp.engineComplete (one : OneOp s c o) {n : Nat} (eng : o.eng = n) {u : State}
    (completes : completeOp (setCore s c ((core s c).releases o)) c o = u) (ops : (core u c).ops = []) (grants : (core u c).grants = [])
    (xfers : (core u c).xfers = []) : engineComplete s c n = setCore u c (core u c) := by
  have none : (core u c).firstEnd = none := by rw [Core.firstEnd, xfers]; rfl
  have next : nextEvent s c = (some o.last, u) := by
    unfold nextEvent Core.firstEnd
    dsimp only
    rw [one.ops, one.grants, one.xfers, ← completes, ← one.endOp]
    rfl
  have first : firstOp ((core s c).ops.filter fun o => o.eng == n) = some o := by
    rw [one.ops, List.filter_cons, eng]
    simp [firstOp]
  unfold Machine.engineComplete
  rw [first]
  unfold retire
  rw [one.ops, one.grants, one.xfers]
  show retireN (1 + 1) s c (o.last + 1) = _
  rw [retireN, next]
  show (if o.last < o.last + 1 then retireN 1 u c (o.last + 1) else _) = _
  rw [if_pos (Nat.lt_succ_self _)]
  exact retireN_idle ops grants none 0

theorem failFor_zero (s : State) (g : Option Nat) : failFor s g 0 = s := by
  cases g with
  | none => rfl
  | some i =>
    rw [failFor]
    exact if_pos rfl

/-- An operation whose one byte string goes to a tile or a bank, with no other effect. -/
theorem completeOp_writes {key : Nat} {d : List Byte} (writes : o.writes = [(key, none, d)]) (high : 2 ^ 41 ≤ key) (fx : o.fx = [])
    (status : o.status = 0) : completeOp s c o = onCore (wrBytes s key d) c fun k => k.completed o := by
  have put : applyWrite s c (key, none, d) = (wrBytes s key d, 0) := by rw [applyWrite, if_pos high]
  have wrote : writeOp s c o = (wrBytes s key d, 0) := by
    rw [writeOp, writes, status, failFor_zero, List.foldl_cons, List.foldl_nil]
    dsimp only
    rw [put]
    rfl
  rw [completeOp_eq, wrote, fx, status]
  rfl

/-- An operation of one effect that marks no word. -/
theorem completeOp_effect {f : Fx} (writes : o.writes = []) (fx : o.fx = [f]) (unmarked : f.group s c = none)
    (status : o.status = 0) : completeOp s c o = applyFx (onCore s c fun k => k.completed o) c o f := by
  have wrote : writeOp s c o = (s, 0) := by rw [writeOp, writes, status, failFor_zero]; rfl
  have kept : o.fx.filter (fun f => (f.group s c).isNone) = [f] := by rw [fx]; simp [unmarked]
  rw [completeOp_eq, wrote, status]
  dsimp only
  rw [kept]
  rfl

end

/-! ## What it leaves -/

section
variable {s : State} {c : Nat} {o : Op}

/-- The machine in which operation o of core c has its effects. -/
def beforeEffects (s : State) (c : Nat) (o : Op) : State := onCore (setCore s c ((core s c).releases o)) c fun k => k.completed o

@[simp] theorem core_beforeEffects : core (beforeEffects s c o) c = (core s c).finishes o := by
  unfold beforeEffects onCore
  rw [core_setCore_same, core_setCore_same]
  rfl

theorem mem_onCore (s : State) (c : Nat) (f : Core → Core) : (onCore s c f).mem = s.mem := rfl
theorem poison_onCore (s : State) (c : Nat) (f : Core → Core) : (onCore s c f).poison = s.poison := rfl

theorem mem_beforeEffects : (beforeEffects s c o).mem = s.mem := by unfold beforeEffects onCore setCore; rfl
theorem poison_beforeEffects : (beforeEffects s c o).poison = s.poison := by unfold beforeEffects onCore setCore; rfl

theorem core_beforeEffects_other {j : Nat} (other : j ≠ c) : core (beforeEffects s c o) j = core s j := by
  unfold beforeEffects onCore
  rw [core_setCore, if_neg other, core_setCore, if_neg other]

theorem finishes_gens (k : Core) (o : Op) : (k.finishes o).gens = o.dsts.foldl (fun t d => Tab.set 0 t d ((Tab.get 0 t d + 1) % 8)) k.gens := rfl

/-- Each destination takes its next generation once for each time that it is named (R256). -/
theorem get_nextGens (j : Nat) (l : List Nat) (t : Tab Nat) :
    Tab.get 0 (l.foldl (fun t d => Tab.set 0 t d ((Tab.get 0 t d + 1) % 8)) t) j % 8 = (Tab.get 0 t j + l.count j) % 8 := by
  induction l generalizing t with
  | nil => simp
  | cons d l ih =>
    rw [List.foldl_cons, ih]
    by_cases at_ : j = d
    · subst at_
      rw [Tab.get_set_same, List.count_cons_self]
      omega
    · rw [Tab.get_set_other at_, List.count_cons_of_ne (Ne.symm at_)]

/-- An operation of one engine ends as u, of which core c has nothing in flight. -/
theorem OneOp.runs (one : OneOp s c o) (real : c < 800) (going : coreRuns s c = true) {e : Eng} (eng : o.eng = engNum e) {u : State}
    (completes : completeOp (setCore s c ((core s c).releases o)) c o = u) (ops : (core u c).ops = []) (grants : (core u c).grants = [])
    (xfers : (core u c).xfers = []) : exec (.engineOpComplete c e) s = done s (setCore u c (core u c)) := by
  rw [← one.engineComplete eng completes ops grants xfers]
  exact (guarded_of (decide_eq_true real) ..).trans (congrArg (done s) (if_pos going))

/-- What effect f leaves of core c and of the others: it changes none of what the statement names as kept. -/
structure KeepsCore (s u : State) (c : Nat) (o : Op) : Prop where
  ops : (core u c).ops = []
  grants : (core u c).grants = (core s c).grants
  xfers : (core u c).xfers = (core s c).xfers
  xs : (core u c).xs = (core s c).xs
  queues : (core u c).queues = (core s c).queues
  other : ∀ j, j ≠ c → core u j = core s j

/-- An effect on core c alone. -/
theorem keepsCore_onCore {f : Core → Core} (same : ∀ k : Core, (f k).ops = k.ops ∧ (f k).grants = k.grants ∧ (f k).xfers = k.xfers ∧
    (f k).xs = k.xs ∧ (f k).queues = k.queues) : KeepsCore s (onCore (beforeEffects s c o) c f) c o := by
  have own : core (onCore (beforeEffects s c o) c f) c = f ((core s c).finishes o) := by
    rw [onCore, core_setCore_same, core_beforeEffects]
  obtain ⟨ops, grants, xfers, xs, queues⟩ := same ((core s c).finishes o)
  refine ⟨by rw [own, ops]; rfl, by rw [own, grants]; rfl, by rw [own, xfers]; rfl, by rw [own, xs]; rfl, by rw [own, queues]; rfl,
    fun j other => ?_⟩
  rw [onCore, core_setCore, if_neg other, core_beforeEffects_other other]

/-- An effect on no core. -/
theorem keepsCore_cores {u : State} (same : u.cores = (beforeEffects s c o).cores) : KeepsCore s u c o := by
  have own : core u c = (core s c).finishes o := (core_congr same c).trans core_beforeEffects
  exact ⟨by rw [own]; rfl, by rw [own]; rfl, by rw [own]; rfl, by rw [own]; rfl, by rw [own]; rfl,
    fun j other => (core_congr same j).trans (core_beforeEffects_other other)⟩

/-- What the statement says of every effect of an operation that ends. -/
theorem OneOp.lands (one : OneOp s c o) (real : c < 800) (going : coreRuns s c = true) {e : Eng} (eng : o.eng = engNum e) {f : Fx}
    (writes : o.writes = []) (fx : o.fx = [f]) (status : o.status = 0) (unmarked : ∀ t, f.group t c = none) {u : State}
    (effect : applyFx (beforeEffects s c o) c o f = u) (keeps : KeepsCore s u c o) {P : State → Prop}
    (holds : ∀ t, t.mem = u.mem → t.poison = u.poison → core t c = core u c → P t) :
    ∃ t, exec (.engineOpComplete c e) s = .next t ∧ (core t c).ops = [] ∧ P t ∧ (core t c).xs = (core s c).xs ∧
      (core t c).queues = (core s c).queues ∧ ∀ j, j ≠ c → core t j = core s j := by
  have completes : completeOp (setCore s c ((core s c).releases o)) c o = u :=
    (completeOp_effect writes fx (unmarked _) status).trans effect
  have own : core (setCore u c (core u c)) c = core u c := core_setCore_same ..
  refine ⟨_, one.runs real going eng completes keeps.ops (keeps.grants.trans one.grants) (keeps.xfers.trans one.xfers), ?_, ?_, ?_, ?_,
    fun j other => ?_⟩
  · exact (congrArg Core.ops own).trans keeps.ops
  · exact holds _ rfl rfl own
  · exact (congrArg Core.xs own).trans keeps.xs
  · exact (congrArg Core.queues own).trans keeps.queues
  · exact ((core_setCore ..).trans (if_neg other)).trans (keeps.other j other)

end

/-! ## Sums of tiles -/

/-- The words of a tile once `MMAC` has added its products, word by word (R305). -/
theorem maccSum_word (narrow : Bool) {p0 p1 : Prime} (h0 : p0.sound = true) (h1 : narrow = true → p1.sound = true)
    (fits0 : p0.q ≤ 2 ^ (if narrow then 32 else 64)) (fits1 : narrow = true → p1.q ≤ 2 ^ 32) {v y : Nat} (hv : InRange narrow p0 p1 v)
    (hy : InRange narrow p0 p1 y) :
    Residues narrow p0 p1 (fun q a b => (a + b) % q)
      (wordOp 0x01 narrow p0 p1 (fun p l => modAdd p (l.getD 0 0) (l.getD 1 0)) [v, y] % 2 ^ 64) v y := by
  have word : Residues narrow p0 p1 (fun q a b => (a + b) % q)
      (wordOp 0x01 narrow p0 p1 (fun p l => modAdd p (l.getD 0 0) (l.getD 1 0)) [v, y]) v y :=
    residues_wordOp eMadd_gives h0 h1 hv hy
  generalize wordOp 0x01 narrow p0 p1 (fun p l => modAdd p (l.getD 0 0) (l.getD 1 0)) [v, y] = w at word ⊢
  cases narrow
  · have word : w = (v + y) % p0.q := word
    have hv : v < p0.q := hv
    have bound := Nat.mod_lt (v + y) (show 0 < p0.q by omega)
    have fits0 : p0.q ≤ 2 ^ 64 := fits0
    show w % 2 ^ 64 = (v + y) % p0.q
    rw [Nat.mod_eq_of_lt (by omega), word]
  · obtain ⟨v0, v1⟩ := hv
    have fits0 : p0.q ≤ 2 ^ 32 := fits0
    have fits1 := fits1 rfl
    have word : w = (v % 2 ^ 32 + y % 2 ^ 32) % p0.q + 2 ^ 32 * ((v / 2 ^ 32 + y / 2 ^ 32) % p1.q) := word
    have lo := Nat.mod_lt (v % 2 ^ 32 + y % 2 ^ 32) (show 0 < p0.q by omega)
    have hi := Nat.mod_lt (v / 2 ^ 32 + y / 2 ^ 32) (show 0 < p1.q by omega)
    show w % 2 ^ 64 = (v % 2 ^ 32 + y % 2 ^ 32) % p0.q + 2 ^ 32 * ((v / 2 ^ 32 + y / 2 ^ 32) % p1.q)
    rw [Nat.mod_eq_of_lt (by omega), word]
/-- Rows set one after the other. -/
theorem get_setRun {α : Type} [DecidableEq α] (d : α) (f j : Nat) (l : List α) (m : Nat) (t : Tab α) :
    Tab.get d ((l.zipIdx m).foldl (fun t e => Tab.set d t (f + e.2) e.1) t) j =
      if f + m ≤ j ∧ j < f + m + l.length then l.getD (j - (f + m)) d else Tab.get d t j := by
  induction l generalizing m t with
  | nil => simp
  | cons v l ih =>
    rw [List.zipIdx_cons, List.foldl_cons, ih]
    by_cases first : j = f + m
    · subst first
      rw [if_neg (by omega), if_pos (by simp), Tab.get_set_same]
      simp
    · rw [Tab.get_set_other first]
      by_cases inside : f + (m + 1) ≤ j ∧ j < f + (m + 1) + l.length
      · rw [if_pos inside, if_pos (by simp only [List.length_cons]; omega), show j - (f + m) = (j - (f + (m + 1))) + 1 by omega]
        rfl
      · rw [if_neg inside, if_neg (by simp only [List.length_cons]; omega)]

/-- The words that `MMAC` leaves in its tile. -/
def maccWords (s : State) (key : Nat) (narrow : Bool) (p0 p1 : Prime) (prods : List Nat) : List Nat :=
  (lanesOf [wordsOf (rdBytes s key 4096), prods]).map (wordOp 0x01 narrow p0 p1 fun p l => modAdd p (l.getD 0 0) (l.getD 1 0))

section
variable {s : State} {key : Nat} {narrow : Bool} {p0 p1 : Prime} {prods : List Nat} (size : prods.length = 512)
include size

theorem maccWords_length : (maccWords s key narrow p0 p1 prods).length = 512 := by
  rw [maccWords, List.length_map, lanesOf, List.length_zipWith, wordsOf_rdBytes s key 512, size]
  simp

theorem maccWords_getD {i : Nat} (hi : i < 512) : (maccWords s key narrow p0 p1 prods).getD i 0 =
    wordOp 0x01 narrow p0 p1 (fun p l => modAdd p (l.getD 0 0) (l.getD 1 0)) [rdNat s (key + 8 * i) 8, prods.getD i 0] := by
  rw [List.getD_eq_getElem _ _ (by rwa [maccWords_length size]), List.getD_eq_getElem _ _ (by omega)]
  simp only [maccWords, lanesOf, List.getElem_map, List.getElem_zipWith, wordsOf_rdBytes s key 512, List.getElem_range]

theorem rdNat_maccWords {i : Nat} (hi : i < 512) :
    rdNat (wrBytes s key (bytesOf (maccWords s key narrow p0 p1 prods))) (key + 8 * i) 8 =
      wordOp 0x01 narrow p0 p1 (fun p l => modAdd p (l.getD 0 0) (l.getD 1 0)) [rdNat s (key + 8 * i) 8, prods.getD i 0] % 2 ^ 64 := by
  have long := maccWords_length (s := s) (key := key) (narrow := narrow) (p0 := p0) (p1 := p1) size
  have bytes : (bytesOf (maccWords s key narrow p0 p1 prods)).length = 4096 := by rw [bytesOf_length, long]
  have reads := take_drop_rdBytes (wrBytes s key (bytesOf (maccWords s key narrow p0 p1 prods))) key (show 8 * i + 8 ≤ 4096 by omega)
  rw [rdNat, ← reads, ← bytes, rdBytes_wrBytes]
  exact (word64_bytesOf (by omega)).trans (by rw [maccWords_getD size hi])

end

/-! ## Effects on the core -/

section
variable (s : State) (c : Nat) (o : Op)

theorem applyFx_primes (t : Tab Prime) : applyFx s c o (.primes t) = onCore s c fun k => { k with
    primes := t
    twiddles := k.twiddles.filter fun e => match e.2 with
      | some w => Tab.get Prime.init t w.entry == Tab.get Prime.init k.primes w.entry
      | none => false } := rfl

theorem applyFx_consts (t : Tab Nat) : applyFx s c o (.consts t) = onCore s c fun k => { k with consts := t } := rfl

theorem applyFx_twiddle (i : Nat) (w : Twiddle) : applyFx s c o (.twiddle i w) = onCore s c fun k =>
    { k with twiddles := Tab.set none k.twiddles i (some w) } := rfl

theorem applyFx_chains (f : Nat) (ws : List (List Nat)) : applyFx s c o (.chains f ws) = onCore s c fun k =>
    { k with chains := (ws.zipIdx).foldl (fun t e => Tab.set [] t (f + e.2) e.1) k.chains } := rfl

theorem applyFx_noise (d p n : Nat) (adv : Bool) : applyFx s c o (.noise d p n adv) = onCore s c fun k =>
    { k with noiseDist := d, noiseParam := p, noiseLog := n, noiseCtr := if adv then k.noiseCtr + 2 ^ n else k.noiseCtr } := rfl

/-- The products join the tile; a count may go up. -/
theorem applyFx_macc (t : Nat) (narrow hit : Bool) (l : List Nat) (p0 p1 : Prime) : ∃ v, applyFx s c o (.macc t narrow hit l p0 p1) =
    { wrBytes s (Mem.tile c t 0) (bytesOf (maccWords s (Mem.tile c t 0) narrow p0 p1 l)) with dict := v } := by
  unfold applyFx
  dsimp only
  split
  · exact ⟨_, rfl⟩
  · exact ⟨_, rfl⟩

/-- The bank takes what `MMA` makes of it; a count may go up. -/
theorem applyFx_mma (b : Nat) (m : BitVec 18) (x y aux : List Byte) : ∃ v, applyFx s c o (.mma b m x y aux) =
    { wrBytes s (Mem.acc c b 0) (mmaBank (MmaMod.of m) x y aux (rdBytes s (Mem.acc c b 0) 16384)).1 with dict := v } := ⟨_, rfl⟩

theorem applyFx_vs (u : VsUpd) : applyFx s c o (.vs u) = onCore s c fun k => k.applyVs u := rfl

end

/-! ## The obligation -/

section
variable {s : State} {c : Nat} {o : Op}

/-- The operation that only writes a tile or a bank. -/
theorem OneOp.ends_writing (one : OneOp s c o) (real : c < 800) (going : coreRuns s c = true) {e : Eng} (eng : o.eng = engNum e)
    {key : Nat} {d : List Byte} (writes : o.writes = [(key, none, d)]) (high : 2 ^ 41 ≤ key) (fx : o.fx = []) (status : o.status = 0) :
    ∃ t, exec (.engineOpComplete c e) s = .next t ∧ core t c = (core s c).finishes o ∧ t.mem = (wrBytes s key d).mem ∧
      t.dict = s.dict ∧ ∀ j, j ≠ c → core t j = core s j := by
  have completes := completeOp_writes (s := setCore s c ((core s c).releases o)) (c := c) writes high fx status
  have own : core (onCore (wrBytes (setCore s c ((core s c).releases o)) key d) c fun k => k.completed o) c = (core s c).finishes o := by
    rw [onCore, core_setCore_same]
    exact congrArg (Core.completed · o) (core_setCore_same ..)
  have others (j : Nat) (other : j ≠ c) :
      core (onCore (wrBytes (setCore s c ((core s c).releases o)) key d) c fun k => k.completed o) j = core s j := by
    rw [onCore, core_setCore, if_neg other]
    exact (core_setCore ..).trans (if_neg other)
  have mem : (onCore (wrBytes (setCore s c ((core s c).releases o)) key d) c fun k => k.completed o).mem = (wrBytes s key d).mem := rfl
  have dict : (onCore (wrBytes (setCore s c ((core s c).releases o)) key d) c fun k => k.completed o).dict = s.dict := rfl
  generalize (onCore (wrBytes (setCore s c ((core s c).releases o)) key d) c fun k => k.completed o) = u at completes own others mem dict
  refine ⟨_, one.runs real going eng completes ?_ ?_ ?_, (core_setCore_same ..).trans own, mem, dict, fun j other => ?_⟩
  · rw [own]; rfl
  · rw [own]; exact one.grants
  · rw [own]; exact one.xfers
  · exact ((core_setCore ..).trans (if_neg other)).trans (others j other)

end

/-- Settles O17: a core with one operation ends it in its last beat, with one change of memory (`OneOp.ends_writing`) or one effect
(`OneOp.lands`). -/
theorem engineOperationsEnd : Obligations.EngineOperationsEnd := by
  unfold Obligations.EngineOperationsEnd
  refine ⟨fun s c e o key d real going ops grants xfers eng writes high fx status latency window => ?_,
    fun s c e o f real going ops grants xfers eng writes fx status latency window => ?_⟩
  · have one : OneOp s c o := ⟨ops, grants, xfers, latency, window⟩
    obtain ⟨t, runs, own, mem, dict, other⟩ := one.ends_writing real going eng writes high fx status
    refine ⟨t, runs, ?_, ?_, fun a outside => ?_, fun j _ => ?_, fun j => ?_, ?_, dict, other⟩
    · rw [own]; rfl
    · exact (rdBytes_congr mem ..).trans (rdBytes_wrBytes s key d)
    · exact (rdByte_congr mem a).trans ((rdByte_wrBytes s key d a).trans (if_neg (by omega)))
    · rw [own, Core.gen, finishes_gens, get_nextGens, Core.gen]
      omega
    · rw [own]; exact bit_released (core s c).pool j o.release (core s c).free
    · rw [own]; rfl
  · have one : OneOp s c o := ⟨ops, grants, xfers, latency, window⟩
    have onCoreAlone {g : Core → Core} (effect : applyFx (beforeEffects s c o) c o f = onCore (beforeEffects s c o) c g)
        (unmarked : ∀ t, f.group t c = none) (same : ∀ k : Core, (g k).ops = k.ops ∧ (g k).grants = k.grants ∧ (g k).xfers = k.xfers ∧
          (g k).xs = k.xs ∧ (g k).queues = k.queues) {P : State → Prop}
        (holds : ∀ t, SameMemory s t → core t c = g ((core s c).finishes o) → P t) :=
      one.lands real going eng writes fx status unmarked effect (keepsCore_onCore same) (P := P) fun t mem poison own =>
        holds t ⟨rdByte_congr (mem.trans ((mem_onCore ..).trans mem_beforeEffects)), poison.trans ((poison_onCore ..).trans poison_beforeEffects)⟩ (own.trans (by rw [onCore, core_setCore_same, core_beforeEffects]))
    dsimp only
    refine ⟨?primes, ?consts, ?twiddle, ?chains, ?noise, ?vs, ?macc, ?mma⟩
    case primes =>
      rintro t rfl
      exact onCoreAlone (applyFx_primes ..) (fun _ => rfl) (fun _ => ⟨rfl, rfl, rfl, rfl, rfl⟩) fun u same own => ⟨by rw [own], same⟩
    case consts =>
      rintro t rfl
      exact onCoreAlone (applyFx_consts ..) (fun _ => rfl) (fun _ => ⟨rfl, rfl, rfl, rfl, rfl⟩) fun u same own => ⟨by rw [own], same⟩
    case twiddle =>
      rintro i p rfl
      exact onCoreAlone (applyFx_twiddle ..) (fun _ => rfl) (fun _ => ⟨rfl, rfl, rfl, rfl, rfl⟩) fun u same own =>
        ⟨by rw [own]; exact Tab.get_set_same none ((core s c).finishes o).twiddles i (some p), same⟩
    case chains =>
      rintro i ws rfl
      refine onCoreAlone (applyFx_chains ..) (fun _ => rfl) (fun _ => ⟨rfl, rfl, rfl, rfl, rfl⟩) fun u same own => ⟨same, fun n hn => ?_⟩
      rw [own]
      refine (get_setRun [] i (i + n) ws 0 _).trans ((if_pos (by omega)).trans ?_)
      rw [Nat.add_zero, Nat.add_sub_cancel_left]
    case noise =>
      rintro d p n adv rfl
      exact onCoreAlone (applyFx_noise ..) (fun _ => rfl) (fun _ => ⟨rfl, rfl, rfl, rfl, rfl⟩) fun u same own =>
        ⟨same, by rw [own], by rw [own], by rw [own], by rw [own]; rfl⟩
    case vs =>
      rintro v fl p rfl
      refine onCoreAlone (applyFx_vs ..) (fun _ => rfl) (fun _ => ⟨rfl, rfl, rfl, rfl, rfl⟩) fun u same own => ⟨same, ?_⟩
      rw [own]
      exact Tab.get_set_same 0 (core s c).vs (v % 8) _
    case macc =>
      rintro t narrow hit l p0 p1 rfl sound0 fits0 second size
      obtain ⟨v, effect⟩ := applyFx_macc (beforeEffects s c o) c o t narrow hit l p0 p1
      have words : maccWords (beforeEffects s c o) (Mem.tile c t 0) narrow p0 p1 l = maccWords s (Mem.tile c t 0) narrow p0 p1 l := rfl
      rw [words] at effect
      generalize Mem.tile c t 0 = key at effect ⊢
      have bytes : (bytesOf (maccWords s key narrow p0 p1 l)).length = 4096 := by rw [bytesOf_length, maccWords_length size]
      refine one.lands real going eng writes fx status (fun _ => rfl) effect (keepsCore_cores rfl) fun u mem _ _ =>
        ⟨fun i hi => ?_, fun a outside => ?_⟩
      · have reads : rdNat u (key + 8 * i) 8 = _ := (rdNat_congr mem ..).trans (rdNat_maccWords (s := s) size hi)
        rw [reads]
        cases narrow with
        | false =>
          rw [if_neg Bool.false_ne_true]
          exact fun hv hy => maccSum_word false sound0 (fun wide => (Bool.false_ne_true wide).elim) fits0
            (fun wide => (Bool.false_ne_true wide).elim) hv hy
        | true =>
          rw [if_pos rfl]
          exact fun v0 y0 v1 y1 => maccSum_word true sound0 (fun _ => (second rfl).1) fits0 (fun _ => (second rfl).2) ⟨v0, v1⟩ ⟨y0, y1⟩
      · refine (rdByte_congr mem a).trans ((rdByte_wrBytes s key _ a).trans (if_neg ?_))
        rw [bytes]
        omega
    case mma =>
      rintro bk m y z aux rfl
      obtain ⟨v, effect⟩ := applyFx_mma (beforeEffects s c o) c o bk m y z aux
      have bytes : rdBytes (beforeEffects s c o) (Mem.acc c bk 0) 16384 = rdBytes s (Mem.acc c bk 0) 16384 := rfl
      rw [bytes] at effect
      generalize Mem.acc c bk 0 = key at effect ⊢
      generalize (mmaBank (MmaMod.of m) y z aux (rdBytes s key 16384)).1 = out at effect ⊢
      exact one.lands real going eng writes fx status (fun _ => rfl) effect (keepsCore_cores rfl) fun u mem _ _ =>
        ⟨(rdBytes_congr mem ..).trans (rdBytes_wrBytes s key out),
          fun a outside => (rdByte_congr mem a).trans ((rdByte_wrBytes s key out a).trans (if_neg (by omega)))⟩

end Sys2Proof.Machine
end

section
/-! SUPPORT. Accesses that the device does not serve now (R665, R735, R736, R809, R816, R870). -/

namespace Sys2Proof.Machine

open Sys2Proof

/-! ## Accesses that are not served -/

section
variable {s : State} {via : Path} {i sub : Nat} {d : List Byte}

theorem writeBytes_index (element : sub < 256) : writeBytes via (256 * i + sub) d = ⟨via, 0, true, i, sub, d.length, d, 0⟩ := by
  unfold writeBytes
  rw [show (256 * i + sub) / 256 = i by omega, show (256 * i + sub) % 256 = sub by omega]

theorem exec_dictWrite_eq (real : i < 0xF000) (element : sub < 256) : exec (.dictWrite via i sub d) s =
    done s (access s ⟨via, 0, true, i, sub, d.length, d, 0⟩ (entrySem i sub)) := by
  rw [← writeBytes_index (via := via) (d := d) element]
  exact guarded_of (decide_eq_true ⟨by omega, element⟩) ..

theorem exec_rcRead_eq (real : i < 0xF000) (element : sub < 256) : exec (.rcRead via i sub) s =
    done s (access s ⟨via, 0, false, i, sub, ((dictRow i sub).map DRow.size).getD 1, [], 0⟩ (entrySem i sub)) :=
  guarded_of (decide_eq_true ⟨by omega, element⟩) ..

theorem ended_index (element : sub < 256) (u : State) (r : Nat) : ended u (256 * i + sub) r = finish u (ansOf r 0 (dictRow i sub) sub []) := by
  unfold ended
  rw [show (256 * i + sub) / 256 = i by omega, show (256 * i + sub) % 256 = sub by omega]

end

section
variable {s : State} {a : Access} {m : EntrySem}

theorem access_silent (h : gate s a.index = .silent) : access s a m = s := by unfold access; rw [h]

theorem access_absent (h : gate s a.index = .absent) : access s a m = finish s (ansOf 1 a.tag none a.sub []) := by
  unfold access; rw [h]

theorem access_boot (h : gate s a.index = .boot) : access s a m = stall s a 40 := by unfold access; rw [h]

/-- A shared entry out of service (R809). -/
theorem access_oos {w : DRow} (h : gate s a.index = .serve) (row : dictRow a.index a.sub = some w) (shared : w.sh = true)
    (out : rd s E.out_of_service = 1) : access s a m = oosAccess s a w := by
  unfold access
  rw [h]
  dsimp only
  rw [row]
  dsimp only
  rw [shared, if_neg (by decide), if_pos out]

/-- A shared entry of a domain that sleeps (R665). -/
theorem access_asleep {w : DRow} (h : gate s a.index = .serve) (row : dictRow a.index a.sub = some w) (shared : w.sh = true)
    (service : rd s E.out_of_service ≠ 1) (decided : s.power.entry = none) (asleep : domainOn s (shDomain s a.index a.sub) = false) :
    access s a m = stall (wakeDomain s (shDomain s a.index a.sub)) a (shDomain s a.index a.sub) := by
  have reaches (b : Nat) : workReaches s b = s := by rw [workReaches, decided]
  unfold access
  rw [h]
  dsimp only
  rw [row]
  dsimp only
  rw [shared, if_neg (by decide), if_neg service, reaches, asleep, if_neg (by decide)]

theorem wakeDomain_queue (s : State) (d : Nat) : (wakeDomain s d).pending = s.pending :=
  (queueIs_def _).1 (queueIs_self s).wakeDomain

end

/-- Settles O22: what the gate says of an index, and what an access does for each answer of it. -/
theorem accessesHeldBack : Obligations.AccessesHeldBack := by
  unfold Obligations.AccessesHeldBack
  intro s via i sub d real _ element
  dsimp only
  rw [exec_dictWrite_eq real element, exec_rcRead_eq real element]
  refine ⟨fun silent => ?_, fun tested low apart => ?_, fun answers boot low apart => ?_, fun answers boot low => ?_,
    fun w row shared serve => ⟨fun out => ⟨?_, ?_⟩, fun service decided asleep => ?_⟩⟩
  · rw [access_silent (if_pos silent)]
    rfl
  · have gated : gate s i = .silent := by
      unfold gate
      dsimp only
      split
      · rfl
      · rw [if_pos (Option.isSome_iff_ne_none.2 tested), if_neg (by simp [low, apart])]
    rw [access_silent gated]
    rfl
  · have gated : gate s i = .absent := by
      unfold gate
      dsimp only
      rw [if_neg answers.1, if_neg (by simp [answers.2]), if_pos boot, if_neg (by tauto)]
    rw [access_absent gated]
    exact done_finish ..
  · have gated : gate s i = .boot := by
      unfold gate
      dsimp only
      rw [if_neg answers.1, if_neg (by simp [answers.2]), if_neg (by simp [boot]), if_neg (by simp only [boot]; tauto)]
    rw [access_boot gated]
    rfl
  · rw [access_oos serve row shared out, ended_index element, row]
    rfl
  · rw [access_oos serve row shared out]
    rfl
  · rw [access_asleep serve row shared service decided asleep]
    exact done_eq (wakeDomain_queue ..)

end Sys2Proof.Machine
end

section
/-! SUPPORT. Accesses to the dictionary and their answers (R12, R657 to R663, R857, R861). -/

namespace Sys2Proof.Machine

open Sys2Proof

/-! ## The checks of a write and of a read (R861) -/

section
variable {s : State} {via : Path} {w : DRow} {m : EntrySem} {len v : Nat}

theorem permits_eq (a : Acc) : permits a true = true ↔ a ≠ .ro ∧ a ≠ .rc := by cases a <;> simp [permits]

/-- The entry is limited to authenticated sessions, and the path is none of these. -/
def HeldBack (s : State) (via : Path) (w : DRow) (m : EntrySem) : Prop :=
  (w.acc = .trust ∨ m.authOnly = true) ∧ authentic s via = false ∧ m.exempt s via = false

theorem heldBack_iff : (((true && w.acc == .trust) || m.authOnly) && !authentic s via && !m.exempt s via) = true ↔ HeldBack s via w m := by
  unfold HeldBack
  simp [and_assoc]

theorem checks_readOnly (right : w.acc = .ro ∨ w.acc = .rc) : checks s via true w m len v = 2 := by
  unfold checks
  rcases right with right | right <;> rw [right] <;> rfl

section
variable (first : w.acc ≠ .ro) (second : w.acc ≠ .rc)
include first second

theorem checks_heldBack (held : HeldBack s via w m) : checks s via true w m len v = 6 := by
  have right : permits w.acc true = true := (permits_eq _).2 ⟨first, second⟩
  unfold checks
  rw [if_pos rfl, right, if_neg (by decide), if_pos (heldBack_iff.2 held)]

theorem checks_length (open_ : ¬HeldBack s via w m) (size : len ≠ w.size) : checks s via true w m len v = 3 := by
  have right : permits w.acc true = true := (permits_eq _).2 ⟨first, second⟩
  unfold checks
  rw [if_pos rfl, right, if_neg (by decide), if_neg (mt heldBack_iff.1 open_), if_pos size]

theorem checks_value (open_ : ¬HeldBack s via w m) (size : len = w.size) (bad : (w.typ = 7 ∧ 2 ≤ v) ∨ m.rule s v = false) :
    checks s via true w m len v = 4 := by
  have right : permits w.acc true = true := (permits_eq _).2 ⟨first, second⟩
  unfold checks
  rw [if_pos rfl, right, if_neg (by decide), if_neg (mt heldBack_iff.1 open_), if_neg (not_not.2 size), if_pos]
  rcases bad with ⟨typ, high⟩ | rule
  · simp [typ, Nat.not_lt.2 high]
  · simp [rule]

theorem checks_good (open_ : ¬HeldBack s via w m) (size : len = w.size) (good : ¬((w.typ = 7 ∧ 2 ≤ v) ∨ m.rule s v = false)) :
    checks s via true w m len v = if m.idle s then 0 else 5 := by
  have right : permits w.acc true = true := (permits_eq _).2 ⟨first, second⟩
  have fits : ¬(true && (!decide (w.typ ≠ 7 ∨ v < 2) || !m.rule s v)) = true := by
    intro fails
    simp only [Bool.true_and, Bool.or_eq_true, Bool.not_eq_true', decide_eq_false_iff_not, not_or, not_not, not_lt] at fails
    exact good fails
  unfold checks
  rw [if_pos rfl, right, if_neg (by decide), if_neg (mt heldBack_iff.1 open_), if_neg (not_not.2 size), if_neg fits]
  cases m.idle s <;> rfl

end

/-- A read of an entry that no session guards. -/
theorem checks_read (plain : m.authOnly = false) : checks s via false w m w.size v = if w.acc = .cmd then 2 else 0 := by
  unfold checks
  rw [plain]
  cases w.acc <;> simp [readable]

end

/-! ## Served accesses -/

theorem ansOf_result (r tag : Nat) (row : Option DRow) (sub : Nat) (d : List Byte) : (ansOf r tag row sub d).result = r := by
  unfold ansOf
  split
  · rfl
  · split <;> rfl

theorem ansOf_row {sub : Nat} (listed : 1 ≤ sub) (r tag : Nat) (w : DRow) (d : List Byte) :
    ansOf r tag (some w) sub d = ⟨tag, r, w.typ, w.acc.code, w.pers, w.sh, d⟩ := by
  unfold ansOf
  exact if_neg (by omega)

section
variable {s : State} {via : Path} {i sub : Nat} {d : List Byte} {m : EntrySem} (real : i < 0xF000)
include real

theorem serve_unknown {a : Access} (index : a.index = i) (element : a.sub ≠ 0) (unknown : dictRow i a.sub = none) :
    serve s a m = finish s (ansOf 1 a.tag none a.sub []) := by
  unfold serve
  rw [index, if_neg element, unknown, if_neg (Nat.not_le.2 real)]

/-- What a read leaves: the count of an RC entry is cleared (R12). -/
def afterRead (s : State) (w : DRow) (k : Nat) : State := if w.acc = .rc then wr s k 0 else s

/-- What a read of a row answers: a WO entry reads 0 (R12). -/
def readValue (s : State) (w : DRow) (k : Nat) : List Byte := leBytes w.size (if w.acc = .wo then 0 else rd s k)

variable {w : DRow} {tag : Nat} (listed : 1 ≤ sub) (row : dictRow i sub = some w) (plain : m.authOnly = false)
include listed row plain

theorem serve_read (readable : w.acc ≠ .cmd) : serve s ⟨via, tag, false, i, sub, w.size, d, 0⟩ m =
    finish (afterRead s w (256 * i + sub)) (ansOf 0 tag (some w) sub (readValue s w (256 * i + sub))) := by
  have checked : checks s via false w m w.size (leNat d) = 0 := (checks_read plain).trans (if_neg readable)
  unfold serve
  simp only [if_neg (Nat.not_le.2 real), if_neg (show ¬sub = 0 by omega), row, Bool.false_eq_true, if_false, checked,
    Nat.mul_comm i 256]
  rfl

theorem serve_readCommand (command : w.acc = .cmd) : serve s ⟨via, tag, false, i, sub, w.size, d, 0⟩ m =
    finish s (ansOf 2 tag (some w) sub []) := by
  have checked : checks s via false w m w.size (leNat d) = 2 := (checks_read plain).trans (if_pos command)
  unfold serve
  simp only [if_neg (Nat.not_le.2 real), if_neg (show ¬sub = 0 by omega), row, Bool.false_eq_true, if_false, checked]

end

/-! ## Accesses to what an entry does not have -/

/-- A write to an element that the entry does not have (R857). -/
theorem noInstance_eq {s : State} {k : Nat} (via : Path) (real : k / 256 < 0xF000) (gated : gate s (k / 256) = .serve)
    (unknown : dictRow (k / 256) 255 = none) : noInstance s via k = ended s (256 * (k / 256) + 255) 1 := by
  have answer : ended s (256 * (k / 256) + 255) 1 = finish s (ansOf 1 0 none 255 []) := by
    rw [ended_index (by decide), unknown]
  unfold noInstance access
  dsimp only
  rw [gated]
  dsimp only
  rw [unknown, answer]
  exact serve_unknown real rfl (show 255 ≠ 0 by decide) unknown

theorem instanced_absent {n : Instr} {s : State} {k : Nat} {ok : Bool} {via : Path} {t : State} (runs : exec n s = instanced ok s via k t)
    (real : k / 256 < 0xF000) (absent : ok = false) (unknown : dictRow (k / 256) 255 = none) (gated : gate s (k / 256) = .serve) :
    exec n s = .next (ended s (256 * (k / 256) + 255) 1) := by
  rw [runs, absent, instanced, if_neg (by decide), noInstance_eq via real gated unknown]
  rfl

/-! ## The window (R662, R663) -/

/-- The window's fields as an operation begins. -/
def opening (s : State) (i sub op len : Nat) (d : List Byte) : State :=
  { s with host := { s.host with dw := { s.host.dw with
      index := i, sub := sub, op := op, length := len, data := if op = 2 then d.take len else s.host.dw.data } } }

/-- A read through the window that is answered at once. -/
theorem windowGo_read {s t : State} {i sub len : Nat} {d : List Byte} (idle : s.host.dw.busy = false)
    (reads : access (opening s i sub 1 len d) ⟨.bar0, windowTag, false, i, sub, len, [], 0⟩ (entrySem i sub) = t)
    (answered : waitsFor t windowTag = false) : windowGo s i sub 1 len d = windowDone t false := by
  unfold windowGo
  rw [idle]
  simp only [Bool.false_eq_true, if_false]
  rw [if_neg (by decide)]
  change (if waitsFor (access (opening s i sub 1 len d) ⟨.bar0, windowTag, false, i, sub, len, [], 0⟩ (entrySem i sub)) windowTag then _
    else _) = _
  rw [reads, answered, if_neg (by decide)]
  exact congrArg (windowDone · false) reads

theorem windowGo_busy {s : State} (busy : s.host.dw.busy = true) (i sub op len : Nat) (d : List Byte) :
    windowGo s i sub op len d = inc s E.dw_busy_count := by
  unfold windowGo
  rw [busy, if_pos rfl]

/-- A value of the dictionary is shorter than the 512 bytes that the window can move. -/
theorem size_of_row {i sub : Nat} {w : DRow} (row : dictRow i sub = some w) : w.size < 512 := by
  have all (n : Nat) : (dictRowsOf n).all (fun r => decide (r.size < 512)) = true := by
    rcases Nat.lt_or_ge n 16 with low | high
    · revert n
      decide +kernel
    · unfold dictRowsOf
      split <;> first | omega | rfl
  exact of_decide_eq_true (List.all_eq_true.1 (all _) w (List.mem_of_find?_eq_some row))

/-- What the window shows once an answer of result 0 to its read stands. -/
theorem dw_windowDone {s : State} {i sub len : Nat} {d : List Byte} {w : DRow} (listed : 1 ≤ sub) (idle : s.host.dw.busy = false)
    (size : d.length = len) : (windowDone (finish (opening s i sub 1 len []) (ansOf 0 windowTag (some w) sub d)) false).host.dw =
      { s.host.dw with
        index := i, sub := sub, op := 1, length := len, waking := false, result := 0, typ := w.typ, acc := w.acc.code,
        pers := w.pers, sh := w.sh, data := d } := by
  dsimp only
  rw [ansOf_row listed, idle, ← size]
  rfl

/-- Settles O21: a write follows the order of `checks` (R861), a read the row, and the window is one read that is answered. -/
theorem accessesAnswer : Obligations.AccessesAnswer := by
  unfold Obligations.AccessesAnswer
  refine ⟨fun s via i sub d real listed element serves => ?writes, fun s i sub w real listed element row serves plain => ?reads,
    fun s via => ?instances⟩
  case writes =>
    dsimp only
    rw [exec_dictWrite_eq real element, access_of_serves (a := ⟨via, 0, true, i, sub, d.length, d, 0⟩) _ element serves]
    refine ⟨fun unknown => ?_, fun w row => ⟨fun right => ?_, fun first second => ⟨fun held => ?_, fun open_ size => ?_,
      fun open_ size bad => ?_, fun open_ size good busy => ?_, fun open_ size good idle => ?_⟩⟩⟩
    · rw [serve_unknown real rfl (show sub ≠ 0 by omega) unknown, ended_index element, unknown]
      exact done_finish ..
    · rw [serve_refused real listed row (checks_readOnly right), ended_index element, row]
      exact done_finish ..
    · rw [serve_refused real listed row (checks_heldBack first second held), ended_index element, row]
      exact done_finish ..
    · rw [serve_refused real listed row (checks_length first second open_ size), ended_index element, row]
      exact done_finish ..
    · rw [serve_refused real listed row (checks_value first second open_ size bad), ended_index element, row]
      exact done_finish ..
    · have checked := checks_good first second open_ size good
      rw [busy, if_neg (by decide)] at checked
      rw [serve_refused real listed row checked, ended_index element, row]
      exact done_finish ..
    · have checked := checks_good first second open_ size good
      rw [idle, if_pos rfl] at checked
      rw [serve_accepted real listed row checked, ended_index element, row, writeBytes_index element, Nat.mul_comm i 256]
      exact ⟨_, rfl, ansOf_result .., rfl⟩
  case reads =>
    dsimp only
    have served (a : Access) (index : a.index = i) (at_ : a.sub = sub) (m : EntrySem) : access s a m = serve s a m := by
      refine access_of_serves m (at_ ▸ element) ?_
      rw [index, at_]
      exact serves
    have gated : gate s i = .serve := (show (256 * i + sub) / 256 = i by omega) ▸ serves.1
    have requests {via : Path} {wrt : Bool} {tag len : Nat} {d : List Byte} (small : tag < 256) :
        exec (.dictRequest via wrt tag i sub len d) s = done s (dictRequest s ⟨via, tag, wrt, i, sub, len, d, 0⟩) :=
      guarded_of (decide_eq_true ⟨by omega, element, small⟩) ..
    refine ⟨fun via tag d small free => ⟨fun readable => ?_, fun command => ?_⟩, fun via wrt tag len d small full => ?_,
      fun via readable => ?_, fun idle quiet readable => ?window, fun op len d small short busy => ?_⟩
    · rw [requests small, dictRequest, if_neg (fun both => Nat.not_le.2 free both.2), served _ rfl rfl,
        serve_read real listed row plain readable]
      unfold afterRead
      split <;> rfl
    · rw [requests small, dictRequest, if_neg (fun both => Nat.not_le.2 free both.2), served _ rfl rfl,
        serve_readCommand real listed row plain command]
      rfl
    · rw [requests small, dictRequest, if_pos ⟨by rw [gated]; decide, full⟩]
      rfl
    · rw [exec_rcRead_eq real element, row, served _ rfl rfl]
      refine (congrArg (done s) (serve_read real listed row plain readable)).trans ?_
      unfold afterRead
      split <;> rfl
    case window =>
      have opened : Serves (opening s i sub 1 w.size []) (256 * i + sub) := serves
      have reads : access (opening s i sub 1 w.size []) ⟨.bar0, windowTag, false, i, sub, w.size, [], 0⟩ (entrySem i sub) = _ :=
        (access_of_serves (a := ⟨.bar0, windowTag, false, i, sub, w.size, [], 0⟩) _ element opened).trans
          (serve_read real listed row plain readable)
      have answered : waitsFor (finish (afterRead (opening s i sub 1 w.size []) w (256 * i + sub)) (ansOf 0 windowTag (some w) sub
          (readValue (opening s i sub 1 w.size []) w (256 * i + sub)))) windowTag = false := by
        rw [← quiet]
        unfold afterRead
        split <;> rfl
      have runs : exec (.dictWindowGo i sub 1 w.size []) s = done s (if gate s i = .silent then s else windowGo s i sub 1 w.size []) :=
        guarded_of (decide_eq_true ⟨by omega, element, by decide, size_of_row row⟩) ..
      rw [gated, if_neg (by decide), windowGo_read idle reads answered] at runs
      refine ⟨_, runs, ?_, ?_, ?_⟩
      · unfold afterRead
        split <;> rfl
      · unfold afterRead
        split <;> rfl
      · refine Eq.trans ?_ (dw_windowDone listed idle (leBytes_length ..))
        unfold afterRead
        split <;> rfl
    · refine (guarded_of (decide_eq_true ⟨by omega, element, small, short⟩) ..).trans ?_
      rw [gated, if_neg (by decide), windowGo_busy busy]
      rfl
  case instances =>
    refine ⟨fun p b high gated n member => ?_, fun p high gated n member => ?_, fun p b high gated n member => ?_,
      fun x k high gated n member => ?_, fun i d high gated => ?_⟩
    · simp only [List.mem_cons, List.not_mem_nil, or_false] at member
      have out : decide (p < 32) = false := decide_eq_false (Nat.not_lt.2 high)
      rcases member with rfl | rfl | rfl <;> exact instanced_absent rfl (by decide) out (by decide +kernel) gated
    · simp only [List.mem_cons, List.not_mem_nil, or_false] at member
      have out : decide (p < 32) = false := decide_eq_false (Nat.not_lt.2 high)
      rcases member with rfl | rfl | rfl <;> exact instanced_absent rfl (by decide) out (by decide +kernel) gated
    · simp only [List.mem_cons, List.not_mem_nil, or_false] at member
      have out : decide (p < 34) = false := decide_eq_false (Nat.not_lt.2 high)
      rcases member with rfl | rfl | rfl | rfl | rfl <;> exact instanced_absent rfl (by decide) out (by decide +kernel) gated
    · simp only [List.mem_cons, List.not_mem_nil, or_false] at member
      have out : decide (x < 32 ∧ k < 8) = false := decide_eq_false (by omega)
      rcases member with rfl | rfl <;> exact instanced_absent rfl (by decide) out (by decide +kernel) gated
    · exact instanced_absent rfl (by decide) (decide_eq_false (Nat.not_lt.2 high)) (by decide +kernel) gated

end Sys2Proof.Machine
end

section
/-! SUPPORT. The power manager's tick (R694 to R698, R873). -/

namespace Sys2Proof.Machine

open Sys2Proof

/-! ## Levels of sectors (R113, R694) -/

/-- What a change of the level of sector x keeps, whatever it is that has the value v. -/
theorem regrant_keeps {β : Type} {f : State → β} {x : Nat} (level : ∀ s g, f (wr s (E.sector_level + x) g) = f s)
    (ramp : ∀ s g, f (startRamp s x g) = f s) (s : State) : f (regrant s x) = f s := by
  unfold regrant
  dsimp only
  split
  · rfl
  · split
    · rw [ramp, level]
    · exact level ..

theorem rd_regrant {k x : Nat} (other : k ≠ E.sector_level + x) (s : State) : rd (regrant s x) k = rd s k :=
  regrant_keeps (f := (rd · k)) (fun s g => rd_wr_other s other g) (fun _ _ => rfl) s

/-- The levels that the cap and the throttle ask of sector y. -/
def asked (s : State) (y : Nat) : Nat × Nat := ((sector s y).cap, (sector s y).throttle)

theorem asked_setSector (s : State) (x y : Nat) (v : Sector) :
    asked (setSector s x v) y = if y = x then (v.cap, v.throttle) else asked s y := by
  unfold asked
  rw [sector_setSector]
  split <;> rfl

theorem asked_regrant (s : State) (x y : Nat) : asked (regrant s x) y = asked s y := by
  refine regrant_keeps (f := (asked · y)) (fun _ _ => rfl) (fun s g => ?_) s
  unfold startRamp
  rw [asked_setSector]
  split
  next same => rw [same]; rfl
  next => rfl

/-- What a change of the levels of sectors keeps: memory, cores and supplies, and the entries that hold no level and count none. -/
structure LevelsOnly (s t : State) : Prop where
  mem : t.mem = s.mem
  cores : t.cores = s.cores
  supply : t.supply = s.supply
  entries : ∀ k, (∀ x < 32, k ≠ E.sector_level + x) → k ≠ E.cap_event_count → rd t k = rd s k

namespace LevelsOnly
variable {s t u : State}

theorem refl (s : State) : LevelsOnly s s := ⟨rfl, rfl, rfl, fun _ _ _ => rfl⟩

theorem trans (h : LevelsOnly s t) (h' : LevelsOnly t u) : LevelsOnly s u :=
  ⟨h'.mem.trans h.mem, h'.cores.trans h.cores, h'.supply.trans h.supply,
    fun k far other => (h'.entries k far other).trans (h.entries k far other)⟩

theorem setSector_regrant {x : Nat} (known : x < 32) (s : State) (v : Sector) : LevelsOnly s (regrant (setSector s x v) x) where
  mem := regrant_keeps (f := State.mem) (fun _ _ => rfl) (fun _ _ => rfl) _
  cores := regrant_keeps (f := State.cores) (fun _ _ => rfl) (fun _ _ => rfl) _
  supply := regrant_keeps (f := State.supply) (fun _ _ => rfl) (fun _ _ => rfl) _
  entries _ far _ := rd_regrant (far x known) _

theorem foldl {g : State → Nat → State} {l : List Nat} (step : ∀ x ∈ l, ∀ s, LevelsOnly s (g s x)) (s : State) :
    LevelsOnly s (l.foldl g s) := by
  induction l generalizing s with
  | nil => exact refl s
  | cons x l ih =>
    exact (step x (.head _) s).trans (ih (fun y member => step y (.tail _ member)) _)

theorem effectiveCap (h : LevelsOnly s t) : effectiveCap t = effectiveCap s := by
  unfold Machine.effectiveCap
  rw [h.supply, h.entries E.coolant_inlet_dc (by decide) (by decide), h.entries E.power_cap_w (by decide) (by decide)]

end LevelsOnly

/-! ## The throttle (R698) -/

/-- The throttle level of a sector whose level is h, after a tick. -/
def throttled (s : State) (tenth : Bool) (p : PowerSample) (x h : Nat) : Nat :=
  let dc := p.sectorDc.getD x 0
  if dieHot s p.deviceDc || dieHot s dc then if h < 7 then h + 1 else h
  else if tenth && dieCool s p.deviceDc && dieCool s dc then h - 1 else h

theorem LevelsOnly.throttled {s t : State} (h : LevelsOnly s t) : throttled t = throttled s := by
  have limit := h.entries E.die_throttle_c (by decide) (by decide)
  have hot : dieHot t = dieHot s := by unfold dieHot; rw [limit]
  have cool : dieCool t = dieCool s := by unfold dieCool; rw [limit]
  unfold Machine.throttled
  rw [hot, cool]

theorem throttleSector_levels {x : Nat} (known : x < 32) (tenth : Bool) (p : PowerSample) (s : State) :
    LevelsOnly s (throttleSector tenth p s x) := by
  unfold throttleSector
  dsimp only
  split
  · split
    · exact .setSector_regrant known ..
    · exact .refl s
  · split
    · exact .setSector_regrant known ..
    · exact .refl s

theorem asked_throttleSector (tenth : Bool) (p : PowerSample) (s : State) (x y : Nat) : asked (throttleSector tenth p s x) y =
    if y = x then ((asked s x).1, throttled s tenth p x (asked s x).2) else asked s y := by
  have takes (v : Nat) : asked (regrant (setSector s x { sector s x with throttle := v }) x) y =
      if y = x then ((asked s x).1, v) else asked s y := by
    rw [asked_regrant, asked_setSector]
    rfl
  have stays {v : Nat} (same : v = (asked s x).2) : asked s y = if y = x then ((asked s x).1, v) else asked s y := by
    split
    next here => rw [here, same]
    next => rfl
  unfold throttleSector throttled
  dsimp only
  split
  · split
    next low => rw [takes, if_pos (show (asked s x).2 < 7 from low)]; rfl
    next high => exact stays (if_neg high)
  · split
    next falls =>
      rw [takes, if_pos (Bool.and_eq_true_iff.1 falls).1]
      rfl
    next keeps =>
      refine stays ?_
      split
      next cool =>
        simp only [Bool.and_eq_true, bne_iff_ne, not_and, not_not] at keeps cool
        exact (congrArg (· - 1) (keeps cool)).trans (keeps cool).symm
      next => rfl

theorem asked_throttle (tenth : Bool) (p : PowerSample) {l : List Nat} (known : ∀ x ∈ l, x < 32) (distinct : l.Nodup) (s : State)
    (y : Nat) : asked (l.foldl (throttleSector tenth p) s) y =
      if y ∈ l then ((asked s y).1, throttled s tenth p y (asked s y).2) else asked s y := by
  induction l generalizing s with
  | nil => rfl
  | cons x l ih =>
    have levels := throttleSector_levels (known x (.head _)) tenth p s
    rw [List.foldl_cons, ih (fun z member => known z (.tail _ member)) (List.nodup_cons.1 distinct).2, asked_throttleSector,
      levels.throttled]
    by_cases here : y = x
    · rw [if_pos here, here, if_neg (List.nodup_cons.1 distinct).1, if_pos (.head _)]
    · rw [if_neg here]
      simp only [List.mem_cons, here, false_or]

/-! ## The cap (R696) -/

theorem lowestLevel_mem {s : State} (l : List Nat) : lowestLevel s l = none ∨ ∃ y ∈ l, lowestLevel s l = some y := by
  induction l using List.reverseRecOn with
  | nil => exact .inl rfl
  | append_singleton l x ih =>
    refine .inr ?_
    unfold lowestLevel at ih ⊢
    rw [List.foldl_append, List.foldl_cons, List.foldl_nil]
    rcases ih with none | ⟨y, member, some⟩
    · exact ⟨x, by simp, by rw [none]⟩
    · rw [some]
      dsimp only
      split
      · exact ⟨x, by simp, rfl⟩
      · exact ⟨y, by simp [member], rfl⟩

/-- The pick of the lowest level, the highest number on a tie, out of a rising list. -/
theorem lowestLevel_eq {s : State} {v : Nat} {l : List Nat} (rising : l.Pairwise (· < ·)) (member : v ∈ l)
    (lowest : ∀ x ∈ l, x ≠ v → levelOf s v < levelOf s x ∨ (levelOf s x = levelOf s v ∧ x < v)) : lowestLevel s l = some v := by
  obtain ⟨a, b, rfl⟩ := List.append_of_mem member
  obtain ⟨-, tail, before⟩ := List.pairwise_append.1 rising
  have taken : lowestLevel s (a ++ [v]) = some v := by
    rcases lowestLevel_mem (s := s) a with none | ⟨y, within, some⟩ <;> unfold lowestLevel at * <;>
      rw [List.foldl_append, List.foldl_cons, List.foldl_nil]
    · rw [none]
    · have less := before y within v (.head _)
      rw [some]
      refine if_pos ?_
      rcases lowest y (by simp [within]) (Nat.ne_of_lt less) with below | ⟨same, -⟩ <;> omega
  have kept (x : Nat) (after : x ∈ b) : ¬levelOf s x ≤ levelOf s v := by
    have less := List.rel_of_pairwise_cons tail after
    rcases lowest x (by simp [after]) (Nat.ne_of_gt less) with below | ⟨-, back⟩ <;> omega
  rw [show a ++ v :: b = a ++ [v] ++ b by simp]
  unfold lowestLevel at *
  rw [List.foldl_append, taken]
  clear taken member lowest rising tail before
  induction b with
  | nil => rfl
  | cons x b ih =>
    rw [List.foldl_cons]
    dsimp only
    rw [if_neg (kept x (.head _))]
    exact ih fun y after => kept y (.tail _ after)

/-- The sector whose cap level one raise takes up is the lowest of those not pinned. -/
theorem capVictim_eq {s : State} {v : Nat} (known : v < 32) (low : levelOf s v < 7) (free : bit (rd s E.cap_pinned_sectors) v = false)
    (lowest : ∀ x < 32, x ≠ v → bit (rd s E.cap_pinned_sectors) x = false →
      levelOf s v < levelOf s x ∨ (levelOf s x = levelOf s v ∧ x < v)) : capVictim s = some v := by
  unfold capVictim
  dsimp only
  generalize below : (List.range 32).filter (fun x => decide (levelOf s x < 7)) = l
  have inside : v ∈ l.filter fun x => !bit (rd s E.cap_pinned_sectors) x := by simp [← below, known, low, free]
  rw [if_neg (by rw [List.isEmpty_iff]; exact List.ne_nil_of_mem inside)]
  refine lowestLevel_eq ?_ inside fun x within => ?_
  · rw [← below]
    exact (List.pairwise_lt_range.filter _).filter _
  · simp only [← below, List.mem_filter, List.mem_range, Bool.not_eq_true'] at within
    exact fun other => lowest x within.1.1 other within.2

theorem asked_raiseCap (s : State) (x y : Nat) :
    asked (raiseCap s x) y = if y = x then (min 7 (levelOf s x + 1), (asked s x).2) else asked s y := by
  unfold raiseCap
  rw [asked_regrant, asked_setSector]
  rfl

/-- The throttle levels stand, and the rest as `LevelsOnly` says. -/
structure CapsOnly (s t : State) : Prop extends LevelsOnly s t where
  throttle : ∀ y, (asked t y).2 = (asked s y).2

namespace CapsOnly
variable {s t u : State}

theorem refl (s : State) : CapsOnly s s := ⟨.refl s, fun _ => rfl⟩

theorem trans (h : CapsOnly s t) (h' : CapsOnly t u) : CapsOnly s u :=
  ⟨h.toLevelsOnly.trans h'.toLevelsOnly, fun y => (h'.throttle y).trans (h.throttle y)⟩

theorem raise {x : Nat} (known : x < 32) (s : State) : CapsOnly s (raiseCap s x) := by
  refine ⟨.setSector_regrant known .., fun y => ?_⟩
  rw [asked_raiseCap]
  split
  next here => rw [here]
  next => rfl

theorem foldl {l : List Nat} (known : ∀ x ∈ l, x < 32) (s : State) : CapsOnly s (l.foldl raiseCap s) := by
  induction l generalizing s with
  | nil => exact refl s
  | cons x l ih => exact (raise (known x (.head _)) s).trans (ih (fun y member => known y (.tail _ member)) _)

theorem count (s : State) (n : Nat) : CapsOnly s (incBy s E.cap_event_count n) :=
  ⟨⟨rfl, rfl, rfl, fun _ _ other => rd_wr_other s other _⟩, fun _ => rfl⟩

end CapsOnly

theorem mem_of_lowestLevel {s : State} {l : List Nat} {x : Nat} (h : lowestLevel s l = some x) : x ∈ l := by
  rcases lowestLevel_mem (s := s) l with none | ⟨y, member, some⟩
  · rw [none] at h
    exact absurd h nofun
  · exact Option.some.inj (some.symm.trans h) ▸ member

theorem capVictim_known {s : State} {x : Nat} (h : capVictim s = some x) : x < 32 := by
  have member := mem_of_lowestLevel h
  split at member
  · exact List.mem_range.1 (List.mem_of_mem_filter member)
  · exact List.mem_range.1 (List.mem_of_mem_filter (List.mem_of_mem_filter member))

theorem capRaise_caps (s : State) (raised : List Nat) : CapsOnly s (capRaise s raised).1 := by
  unfold capRaise
  split
  next victim => exact .raise (capVictim_known victim) s
  next => exact .refl s

theorem capUp_caps (s : State) (p : PowerSample) : CapsOnly s (capUp s p) := by
  unfold capUp
  dsimp only
  refine .trans ?_ (.count ..)
  generalize found : (if 1850 < p.mean1W then (List.range 32).filter fun x => decide (levelOf s x < 7) else []) = l
  have hit : ∀ x ∈ l, x < 32 := by
    intro x member
    rw [← found] at member
    split at member
    · exact List.mem_range.1 (List.mem_of_mem_filter member)
    · exact absurd member List.not_mem_nil
  have first := CapsOnly.foldl hit s
  split
  · exact first.trans (capRaise_caps ..)
  · exact first

theorem highestCap_known (s : State) : highestCap s < 32 := by
  unfold highestCap
  have : ∀ (l : List Nat) (b : Nat), b < 32 → (∀ x ∈ l, x < 32) →
      l.foldl (fun b x => if (sector s b).cap < (sector s x).cap then x else b) b < 32 := by
    intro l
    induction l with
    | nil => exact fun b low _ => low
    | cons x l ih =>
      intro b low known
      refine ih _ ?_ fun y member => known y (.tail _ member)
      dsimp only
      split
      · exact known x (.head _)
      · exact low
  exact this _ 0 (by decide) fun x member => List.mem_range.1 member

theorem capDown_caps (s : State) (p : PowerSample) : CapsOnly s (capDown s p) := by
  unfold capDown
  dsimp only
  generalize (if p.mean10W + 50 ≤ effectiveCap s then s.power.lowTicks + 1 else 0) = n
  split
  · refine ⟨⟨?_, ?_, ?_, fun k far _ => rd_regrant (far _ (highestCap_known s)) _⟩, fun y => ?_⟩
    · exact regrant_keeps (f := State.mem) (fun _ _ => rfl) (fun _ _ => rfl) _
    · exact regrant_keeps (f := State.cores) (fun _ _ => rfl) (fun _ _ => rfl) _
    · exact regrant_keeps (f := State.supply) (fun _ _ => rfl) (fun _ _ => rfl) _
    · rw [asked_regrant]
      refine (congrArg Prod.snd (asked_setSector s (highestCap s) y _)).trans ?_
      split
      next here => rw [here]; rfl
      next => rfl
  · exact ⟨⟨rfl, rfl, rfl, fun _ _ _ => rfl⟩, fun _ => rfl⟩

/-! ## One tick (R873) -/

/-- The machine at the time of the next tick. -/
def atTick (s : State) : State := wr s E.time_count (nextTick s)

/-- The machine once a tick has changed its caps. -/
def capped (s : State) (p : PowerSample) : State := capDown (capUp (atTick s) p) p

/-- The machine once a tick has changed its levels. -/
def levelled (s : State) (p : PowerSample) : State :=
  (List.range 32).foldl (throttleSector (now (capped s p) % 250000 == 0) p) (capped s p)

theorem levelled_levels (s : State) (p : PowerSample) : LevelsOnly (atTick s) (levelled s p) :=
  ((capUp_caps ..).trans (capDown_caps ..)).toLevelsOnly.trans
    (.foldl (fun _ member s => throttleSector_levels (List.mem_range.1 member) _ _ s) _)

theorem now_capped (s : State) (p : PowerSample) : now (capped s p) = cut E.time_count (nextTick s) :=
  (((capUp_caps ..).trans (capDown_caps ..)).entries E.time_count (by decide) (by decide)).trans (rd_wr_same ..)

theorem asked_levelled {y : Nat} (known : y < 32) (s : State) (p : PowerSample) : asked (levelled s p) y =
    ((asked (capped s p) y).1, throttled (atTick s) (cut E.time_count (nextTick s) % 250000 == 0) p y (asked s y).2) := by
  have caps : CapsOnly (atTick s) (capped s p) := (capUp_caps ..).trans (capDown_caps ..)
  have old : (asked (capped s p) y).2 = (asked s y).2 := caps.throttle y
  rw [levelled, asked_throttle _ p (fun x member => List.mem_range.1 member) List.nodup_range, if_pos (List.mem_range.2 known),
    now_capped, caps.throttled, old]

/-- Some sensor is hot at a tick, or some sector throttled after it. -/
def hotAfter (s : State) (p : PowerSample) : Bool :=
  let t := levelled s p
  dieHot t p.deviceDc || (List.range 32).any fun x => dieHot t (p.sectorDc.getD x 0) || (sector t x).throttle != 0

theorem powerTick_eq {s : State} (on : s.supply.mainOn = true) (p : PowerSample) :
    powerTick s p = refreshAlert { levelled s p with supply := { (levelled s p).supply with dieHot := hotAfter s p } } := by
  unfold powerTick
  dsimp only
  rw [wr_supply, on]
  rfl

theorem power_setAlert (s : State) (b : Nat) : (setAlert s b).power = s.power := by
  unfold setAlert alertEdge signalVector msixSend
  dsimp only
  split
  · split
    · rfl
    · split
      · rfl
      · split <;> rfl
  · rfl

/-- What holds once the levels are settled holds after the tick. -/
theorem powerTick_leads {s : State} {p : PowerSample} {P : State → Prop} (on : s.supply.mainOn = true)
    (settled : ∀ t : State, t.mem = s.mem → t.cores = s.cores → t.power = (levelled s p).power →
      (∀ y, asked t y = asked (levelled s p) y) → (∀ k, k ≠ E.alert_status → rd t k = rd (levelled s p) k) → P t) :
    Leads (.powerTick p) s P := by
  refine leads_of_done (congrArg (done s) (powerTick_eq on p)) (settled _ ?_ ?_ ?_ (fun y => ?_) fun k other => ?_)
  · exact (mem_of_still (still_refreshAlert ..)).trans (levelled_levels s p).mem
  · exact (cores_of_still (still_refreshAlert ..)).trans (levelled_levels s p).cores
  · exact power_setAlert ..
  · have sectors : (refreshAlert { levelled s p with supply := { (levelled s p).supply with dieHot := hotAfter s p } }).sectors =
        (levelled s p).sectors := (sectors_of_still (still_refreshAlert ..)).trans rfl
    exact congrArg (fun l => ((Tab.get Sector.init l y).cap, (Tab.get Sector.init l y).throttle)) sectors
  · exact rd_setAlert_other _ other _

/-- The throttles leave the caps, the record of the power manager and the count of cap events as they were. -/
theorem power_levelled (s : State) (p : PowerSample) : (levelled s p).power = (capped s p).power := by
  refine foldl_keeps State.power (fun s x => ?_) _ _
  unfold throttleSector
  dsimp only
  split
  · split
    · exact regrant_keeps (f := State.power) (fun _ _ => rfl) (fun _ _ => rfl) _
    · rfl
  · split
    · exact regrant_keeps (f := State.power) (fun _ _ => rfl) (fun _ _ => rfl) _
    · rfl

theorem rd_levelled_count (s : State) (p : PowerSample) : rd (levelled s p) E.cap_event_count = rd (capped s p) E.cap_event_count := by
  refine foldl_keeps_of_mem (rd · E.cap_event_count) (fun x member s => ?_) _
  have far : E.cap_event_count ≠ E.sector_level + x := by
    have known := List.mem_range.1 member
    simp only [E.cap_event_count, E.sector_level]
    omega
  unfold throttleSector
  dsimp only
  split
  · split
    · exact rd_regrant far _
    · rfl
  · split
    · exact rd_regrant far _
    · rfl

section
variable {s : State} {p : PowerSample}

/-- A mean of 1 ms that hits no sector, and one of 10 ms that is not above the cap (R696, R697). -/
theorem capUp_still (calm : p.mean1W ≤ 1850) (below : p.mean10W ≤ effectiveCap s) : capUp s p = incBy s E.cap_event_count 0 := by
  unfold capUp
  simp only [if_neg (Nat.not_lt.2 calm), List.foldl_nil, if_neg (Nat.not_lt.2 below), List.length_nil]

theorem capUp_one {v : Nat} (calm : p.mean1W ≤ 1850) (above : effectiveCap s < p.mean10W) (victim : capVictim s = some v) :
    capUp s p = incBy (raiseCap s v) E.cap_event_count 1 := by
  unfold capUp capRaise
  simp only [if_neg (Nat.not_lt.2 calm), List.foldl_nil, if_pos above, victim]
  rfl

theorem capDown_none (near : effectiveCap s < p.mean10W + 50) : capDown s p = { s with power := { s.power with lowTicks := 0 } } := by
  unfold capDown
  simp only [if_neg (Nat.not_le.2 near)]
  exact if_neg fun due => absurd due.1 (by decide)

theorem effectiveCap_atTick (s : State) : effectiveCap (atTick s) = effectiveCap s := by
  unfold effectiveCap atTick
  rw [rd_wr_other _ (by decide), rd_wr_other _ (by decide)]
  rfl

theorem levelOf_atTick {x : Nat} (known : x < 32) (s : State) : levelOf (atTick s) x = levelOf s x := by
  refine rd_wr_other _ ?_ _
  simp only [E.time_count, E.sector_level]
  omega

theorem rd_power (s : State) (v : PowerMgr) (k : Nat) : rd { s with power := v } k = rd s k := rfl

theorem rd_count_atTick (s : State) (n : Nat) :
    rd (incBy (atTick s) E.cap_event_count n) E.cap_event_count = cut E.cap_event_count (rd s E.cap_event_count + n) := by
  refine (rd_wr_same (atTick s) E.cap_event_count _).trans ?_
  rw [atTick, rd_wr_other _ (by decide)]
  rfl

end

/-- Settles O50: a tick runs the caps and then the throttles, and each sector's level is its own. -/
theorem powerTicks : Obligations.PowerTicks := by
  unfold Obligations.PowerTicks
  refine fun s p => ⟨fun off => ?idle, fun on => ?throttles, fun on calm below near => ?still, fun v on calm above known low free lowest => ?raise⟩
  case idle =>
    refine (congrArg (done s) (show powerTick s p = atTick s from ?_)).trans (done_eq rfl)
    unfold powerTick
    dsimp only
    rw [wr_supply, off]
    rfl
  case throttles =>
    refine powerTick_leads on fun t mem cores _ levels entries => ⟨?_, mem, cores, fun x known => ?_⟩
    · refine (entries _ (by decide)).trans (((levelled_levels s p).entries E.time_count (by decide) (by decide)).trans (rd_wr_same ..))
    · have level : (sector t x).throttle =
          throttled (atTick s) (cut E.time_count (nextTick s) % 250000 == 0) p x (sector s x).throttle :=
        congrArg Prod.snd ((levels x).trans (asked_levelled known s p))
      have limit : rd (atTick s) E.die_throttle_c = rd s E.die_throttle_c := rd_wr_other _ (by decide) _
      rw [level]
      unfold throttled dieHot dieCool
      simp only [limit, Bool.or_eq_true, Bool.and_eq_true, decide_eq_true_eq, beq_iff_eq]
      exact ⟨fun hot => if_pos hot, fun cold cool => (if_neg cold).trans (if_pos ⟨⟨cool.2.2, cool.1⟩, cool.2.1⟩),
        fun cold warm => (if_neg cold).trans (if_neg fun cool => warm ⟨cool.1.2, cool.2, cool.1.1⟩)⟩
  case still =>
    have caps : capped s p = { incBy (atTick s) E.cap_event_count 0 with power := { s.power with lowTicks := 0 } } := by
      unfold capped
      rw [capUp_still calm ((effectiveCap_atTick s).symm ▸ below), capDown_none]
      · rfl
      · rw [(CapsOnly.count (atTick s) 0).effectiveCap, effectiveCap_atTick]
        exact near
    refine powerTick_leads on fun t _ _ power levels entries => ⟨?_, ?_, fun x known => ?_⟩
    · rw [entries _ (by decide), rd_levelled_count, caps]
      exact rd_count_atTick s 0
    · rw [power, power_levelled, caps]
    · have level := congrArg Prod.fst ((levels x).trans (asked_levelled known s p))
      rw [caps] at level
      exact level
  case raise =>
    have victim : capVictim (atTick s) = some v := by
      have pinned : rd (atTick s) E.cap_pinned_sectors = rd s E.cap_pinned_sectors := rd_wr_other _ (by decide) _
      refine capVictim_eq known ?_ (pinned.symm ▸ free) fun x low other unpinned => ?_
      · rw [levelOf_atTick known]
        exact low
      · rw [levelOf_atTick known, levelOf_atTick low]
        exact lowest x low other (pinned ▸ unpinned)
    have caps : capped s p =
        { incBy (raiseCap (atTick s) v) E.cap_event_count 1 with power := { (raiseCap (atTick s) v).power with lowTicks := 0 } } := by
      unfold capped
      have same : effectiveCap (incBy (raiseCap (atTick s) v) E.cap_event_count 1) = effectiveCap (atTick s) :=
        ((CapsOnly.raise known _).trans (.count ..)).effectiveCap
      have near : effectiveCap s < p.mean10W + 50 := by omega
      rw [capUp_one calm ((effectiveCap_atTick s).symm ▸ above) victim, capDown_none]
      · rfl
      · rw [same, effectiveCap_atTick]
        exact near
    refine powerTick_leads on fun t _ _ _ levels entries => ?_
    have level {x : Nat} (known : x < 32) : (sector t x).cap = (asked (raiseCap (atTick s) v) x).1 := by
      have level := congrArg Prod.fst ((levels x).trans (asked_levelled known s p))
      rw [caps] at level
      exact level
    refine ⟨?_, fun x known other => ?_, ?_⟩
    · rw [level known, asked_raiseCap, if_pos rfl, levelOf_atTick known]
      exact Nat.min_eq_right low
    · rw [level known, asked_raiseCap, if_neg other]
      rfl
    · have kept : rd (raiseCap (atTick s) v) E.cap_event_count = rd s E.cap_event_count := by
        refine (rd_regrant ?_ _).trans (rd_wr_other _ (by decide) _)
        simp only [E.cap_event_count, E.sector_level]
        omega
      have counted := rd_inc_same (raiseCap (atTick s) v) E.cap_event_count
      rw [kept] at counted
      rw [entries _ (by decide), rd_levelled_count, caps]
      exact (rd_power _ _ _).trans counted

end Sys2Proof.Machine
end

section
/-! SUPPORT. The modular commands of the big-number engine (R766, R771, R774 to R776). -/

namespace Sys2Proof.Machine

open Sys2Proof

/-! ## Euclid's algorithm (R771) -/

/-- One more step halves the product of the two remainders. -/
theorem remainders_halve {r r' f : Nat} (less : r' < r) (some_ : r' ≠ 0) (fuel : r * r' < 2 ^ (f + 1)) : r' * (r % r') < 2 ^ f := by
  have split := Nat.div_add_mod r r'
  have quotient : 1 ≤ r / r' := (Nat.one_le_div_iff (Nat.pos_of_ne_zero some_)).2 (Nat.le_of_lt less)
  have rest : r % r' < r' := Nat.mod_lt _ (Nat.pos_of_ne_zero some_)
  have once : r' * 1 ≤ r' * (r / r') := Nat.mul_le_mul_left _ quotient
  have half : 2 * (r % r') ≤ r := by omega
  have product : r' * (2 * (r % r')) ≤ r' * r := Nat.mul_le_mul_left _ half
  rw [Nat.pow_succ] at fuel
  nlinarith

/-- With enough steps the result is the greatest common divisor, and the coefficient of a gives it modulo m. -/
theorem invStep_eq {m a : Nat} : ∀ {f r r' : Nat} {t t' : Int}, r' < r → r * r' < 2 ^ f → (m : Int) ∣ t * a - r → (m : Int) ∣ t' * a - r' →
    (invStep f r r' t t').1 = Nat.gcd r r' ∧ (m : Int) ∣ (invStep f r r' t t').2 * a - (invStep f r r' t t').1 := by
  intro f
  induction f with
  | zero =>
    intro r r' t t' less fuel first _
    obtain rfl : r' = 0 := by
      by_contra some_
      have := Nat.mul_pos (Nat.lt_of_le_of_lt (Nat.zero_le _) less) (Nat.pos_of_ne_zero some_)
      omega
    exact ⟨(Nat.gcd_zero_right r).symm, first⟩
  | succ f ih =>
    intro r r' t t' less fuel first second
    rw [invStep]
    by_cases done_ : r' = 0
    · rw [if_pos done_, done_]
      exact ⟨(Nat.gcd_zero_right r).symm, first⟩
    · rw [if_neg done_]
      have rest := Nat.mod_lt r (Nat.pos_of_ne_zero done_)
      have next : (m : Int) ∣ (t - (r / r' : Nat) * t') * a - (r % r' : Nat) := by
        have split : ((r % r' : Nat) : Int) = r - (r / r' : Nat) * r' := by
          have := Nat.div_add_mod r r'
          have cast : ((r' * (r / r') + r % r' : Nat) : Int) = r := congrArg _ this
          push_cast at cast ⊢
          linarith
        rw [split, show (t - (r / r' : Nat) * t') * (a : Int) - (r - (r / r' : Nat) * r') =
          (t * a - r) - (r / r' : Nat) * (t' * a - r') by ring]
        exact Int.dvd_sub first (Dvd.dvd.mul_left second _)
      obtain ⟨gcd, coefficient⟩ := ih rest (remainders_halve less done_ fuel) second next
      refine ⟨gcd.trans ?_, coefficient⟩
      rw [Nat.gcd_comm r' (r % r'), ← Nat.gcd_rec, Nat.gcd_comm]

theorem invMod_fuel {m a : Nat} (less : a < m) : m * a < 2 ^ (2 * bitLen m + 2) := by
  have bound := lt_two_pow_bitLen m
  calc m * a < m * m := Nat.mul_lt_mul_of_pos_left less (by omega)
    _ < 2 ^ bitLen m * 2 ^ bitLen m := Nat.mul_lt_mul'' bound bound
    _ = 2 ^ (2 * bitLen m) := by rw [← Nat.pow_add]; congr 1; omega
    _ ≤ 2 ^ (2 * bitLen m + 2) := Nat.pow_le_pow_right (by decide) (by omega)

theorem invMod_none {m a : Nat} (less : a < m) (shared : Nat.gcd a m ≠ 1) : invMod m a = none := by
  have gcd := (invStep_eq (m := m) (a := a) (t := 0) (t' := 1) less (invMod_fuel less) (by simp) (by simp)).1
  unfold invMod
  exact if_neg (by rw [gcd, Nat.gcd_comm]; exact shared)

theorem invMod_some {m a : Nat} (less : a < m) (large : 1 < m) (coprime : Nat.gcd a m = 1) :
    ∃ v, invMod m a = some v ∧ v < m ∧ a * v % m = 1 := by
  obtain ⟨gcd, coefficient⟩ := invStep_eq (m := m) (a := a) (t := 0) (t' := 1) less (invMod_fuel less) (by simp) (by simp)
  rw [Nat.gcd_comm, coprime] at gcd
  unfold invMod
  generalize invStep (2 * bitLen m + 2) m a 0 1 = g at gcd coefficient ⊢
  dsimp only
  rw [gcd] at coefficient
  have some_ : (m : Int) ≠ 0 := by omega
  have low := Int.emod_nonneg g.2 some_
  have high := Int.emod_lt_of_pos g.2 (show (0 : Int) < m by omega)
  refine ⟨_, if_pos gcd, by omega, ?_⟩
  have value : ((a * (g.2 % m).toNat % m : Nat) : Int) = 1 := by
    rw [Int.natCast_mod, Nat.cast_mul, Int.toNat_of_nonneg low]
    calc (a : Int) * (g.2 % m) % m = g.2 * a % m := by
          rw [mul_comm g.2]
          exact (Int.mod_modEq g.2 m).mul_left a
      _ = 1 % m := (Int.modEq_iff_dvd.2 coefficient).symm
      _ = 1 := Int.emod_eq_of_lt (by decide) (by omega)
  exact_mod_cast value

/-! ## The commands -/

theorem leNat_lt (d : List Byte) : leNat d < 256 ^ d.length := by
  induction d with
  | nil => decide
  | cons b d ih =>
    have low := b.isLt
    rw [leNat, List.length_cons, Nat.pow_succ]
    omega

theorem rdNat_lt (s : State) (k n : Nat) : rdNat s k n < 256 ^ n := by
  have bound := leNat_lt (rdBytes s k n)
  rwa [rdBytes_length] at bound

section
variable {s : State} {c : PkeCmd} {n : Instr} {op : Nat}

/-- The job whose next command is this one. -/
def IsNext (s : State) (op : Nat) (c : PkeCmd) (j : PkeJob) : Prop := s.pke.job = some j ∧ ∃ v, j.commands[j.run]? = some v ∧ pkeWord v = (op, c)

theorem nextCommand_some {j : PkeJob} (next : IsNext s op c j) : nextCommand s op c = some j := by
  obtain ⟨job, v, command, word⟩ := next
  unfold nextCommand
  rw [job]
  dsimp only
  rw [command]
  exact if_pos word

theorem nextCommand_none (none_ : ∀ j, ¬IsNext s op c j) : nextCommand s op c = none := by
  unfold nextCommand
  split
  · rfl
  next j job =>
    split
    next v command => exact if_neg fun word => none_ j ⟨job, v, command, word⟩
    next => rfl

variable (runs : exec n s = done s (pkeMod op s c))
include runs

theorem pkeMod_stays (none_ : ∀ j, ¬IsNext s op c j) : Stays n s := by
  rw [Stays, runs, pkeMod, nextCommand_none none_]
  exact done_eq rfl

/-- The value that a modular command works on. -/
def operands (s : State) (c : PkeCmd) (op : Nat) : Option Nat :=
  modCommand op c.w (regNat s c.m c.w) (regNat s c.a (if op = 0x06 then 2 * c.w else c.w)) (regNat s c.b (if op = 0x05 then c.e else c.w))

theorem pkeMod_some {j : PkeJob} {v : Nat} (next : IsNext s op c j) (value : operands s c op = some v) :
    exec n s = done s (commandRan (setReg s c.d v) j 0) := by
  rw [runs, pkeMod, nextCommand_some next]
  dsimp only
  rw [show modCommand .. = some v from value]

theorem pkeMod_none {j : PkeJob} (next : IsNext s op c j) (invalid : operands s c op = none) :
    exec n s = done s (commandRan (setReg s c.d 0) j 0x0801) := by
  rw [runs, pkeMod, nextCommand_some next]
  dsimp only
  rw [show modCommand .. = none from invalid]

/-- A valid command writes its destination, and the job runs on. -/
theorem pkeMod_gives {j : PkeJob} {v : Nat} (next : IsNext s op c j) (value : operands s c op = some v) (fits : v < 256 ^ 512) :
    Leads n s fun t => rdNat t (Mem.pke (512 * c.d)) 512 = v ∧ t.pke.job = some { j with run := j.run + 1 } ∧
      ∀ k, k < Mem.pke (512 * c.d) ∨ Mem.pke (512 * c.d) + 512 ≤ k → rdByte t k = rdByte s k := by
  refine leads_of_done (pkeMod_some runs next value) ⟨?_, ?_, fun k far => ?_⟩
  · exact (rdNat_wrNat_same s (Mem.pke (512 * c.d)) 512 v).trans (Nat.mod_eq_of_lt fits)
  · have status : (if j.status = 0 then 0 else j.status) = j.status := by split <;> omega
    exact congrArg (fun st => some { j with run := j.run + 1, status := st }) status
  · refine (rdByte_wrBytes s (Mem.pke (512 * c.d)) (leBytes 512 v) k).trans (if_neg ?_)
    rw [leBytes_length]
    omega

/-- An invalid operand makes the destination 0. -/
theorem pkeMod_fails {j : PkeJob} (next : IsNext s op c j) (invalid : operands s c op = none) :
    Leads n s fun t => rdNat t (Mem.pke (512 * c.d)) 512 = 0 ∧
      t.pke.job = some { j with run := j.run + 1, status := if j.status = 0 then 0x0801 else j.status } :=
  leads_of_done (pkeMod_none runs next invalid)
    ⟨(rdNat_wrNat_same s (Mem.pke (512 * c.d)) 512 0).trans (Nat.zero_mod _), rfl⟩

end

/-! ## The values of the commands -/

section
variable {op w m a b : Nat}

theorem modCommand_none (invalid : ¬(m % 2 = 1 ∧ 2 ^ (64 * (w - 1)) ≤ m) ∨ (op ≠ 6 ∧ m ≤ a) ∨ (op ≤ 3 ∧ m ≤ b)) :
    modCommand op w m a b = none := by
  unfold modCommand
  by_cases modulus : m % 2 = 0 ∨ m < 2 ^ (64 * (w - 1))
  · exact if_pos modulus
  · have sources : (op ≠ 6 ∧ m ≤ a) ∨ (op ≤ 3 ∧ m ≤ b) := by
      refine invalid.resolve_left fun bad => bad ⟨by omega, by omega⟩
    rw [if_neg modulus, if_neg (show op ≠ 6 by omega), if_pos (by omega)]

variable (odd : m % 2 = 1) (large : 2 ^ (64 * (w - 1)) ≤ m)
include odd large

theorem modCommand_red : modCommand 6 w m a b = some (a % m) := by
  unfold modCommand
  rw [if_neg (by omega), if_pos rfl]

variable (first : a < m)
include first

theorem modCommand_two (second : b < m) : modCommand 1 w m a b = some ((a + b) % m) ∧ modCommand 2 w m a b = some ((a + m - b) % m) ∧
    modCommand 3 w m a b = some (a * b % m) := by
  have modulus : ¬(m % 2 = 0 ∨ m < 2 ^ (64 * (w - 1))) := by omega
  have sources (op : Nat) : ¬(m ≤ a ∨ (op ≤ 3 ∧ m ≤ b)) := by omega
  refine ⟨?_, ?_, ?_⟩ <;>
  · unfold modCommand
    rw [if_neg modulus, if_neg (by decide), if_neg (sources _)]
    rfl

theorem modCommand_inv : modCommand 4 w m a b = if a = 0 then none else invMod m a := by
  unfold modCommand
  rw [if_neg (by omega), if_neg (by decide), if_neg (by omega)]
  rfl

theorem modCommand_exp : modCommand 5 w m a b = some (a ^ b % m) := by
  unfold modCommand
  rw [if_neg (by omega), if_neg (by decide), if_neg (by omega)]
  exact congrArg some (powMod_eq (by omega) a b)

end

/-- Settles O56: each command is `modCommand` of its operands, and an inverse is Euclid's. -/
theorem pkeModularArithmetic : Obligations.PkeModularArithmetic := by
  unfold Obligations.PkeModularArithmetic
  intro s c wide small known
  dsimp only
  have positive : 1 < 2 ^ (64 * (c.w - 1)) := Nat.one_lt_two_pow (by omega)
  have fits {v : Nat} (low : v < rdNat s (Mem.pke (512 * c.m)) (8 * c.w)) : v < 256 ^ 512 :=
    Nat.lt_of_lt_of_le (Nat.lt_trans low (rdNat_lt ..)) (Nat.pow_le_pow_right (by decide) (by omega))
  have runs : ∀ n op, (n, op) ∈ [(Instr.pkeMadd c, 1), (.pkeMsub c, 2), (.pkeMmul c, 3), (.pkeMinv c, 4), (.pkeMexp c, 5), (.pkeMred c, 6)] →
      exec n s = done s (pkeMod op s c) := by
    intro n op member
    simp only [List.mem_cons, List.not_mem_nil, or_false, Prod.mk.injEq] at member
    rcases member with ⟨rfl, rfl⟩ | ⟨rfl, rfl⟩ | ⟨rfl, rfl⟩ | ⟨rfl, rfl⟩ | ⟨rfl, rfl⟩ | ⟨rfl, rfl⟩ <;> rfl
  refine ⟨fun n op member => ⟨pkeMod_stays (runs n op member), fun j next invalid => pkeMod_fails (runs n op member) next ?_⟩,
    fun ⟨odd, large⟩ first second => ⟨fun j next => ?add, fun j next => ?sub, fun j next => ?mul⟩,
    fun ⟨odd, large⟩ first => ⟨fun j next shared => ?none, fun j next coprime => ?inv, fun j next => ?exp⟩,
    fun ⟨odd, large⟩ j next => ?red⟩
  · refine modCommand_none (invalid.imp_right (Or.imp (fun ⟨other, high⟩ => ⟨other, ?_⟩) fun ⟨low, high⟩ => ⟨low, ?_⟩))
    · rw [if_neg other]
      exact high
    · rw [if_neg (show op ≠ 5 by omega)]
      exact high
  case add => exact pkeMod_gives (op := 1) rfl next (modCommand_two odd large first second).1 (fits (Nat.mod_lt _ (by omega)))
  case sub => exact pkeMod_gives (op := 2) rfl next (modCommand_two odd large first second).2.1 (fits (Nat.mod_lt _ (by omega)))
  case mul => exact pkeMod_gives (op := 3) rfl next (modCommand_two odd large first second).2.2 (fits (Nat.mod_lt _ (by omega)))
  case exp => exact pkeMod_gives (op := 5) rfl next (modCommand_exp odd large first) (fits (Nat.mod_lt _ (by omega)))
  case red => exact pkeMod_gives (op := 6) rfl next (modCommand_red odd large) (fits (Nat.mod_lt _ (by omega)))
  case none =>
    refine pkeMod_fails (op := 4) rfl next ((modCommand_inv odd large first).trans ?_)
    split
    · rfl
    · exact invMod_none first shared
  case inv =>
    obtain ⟨v, value, low, inverse⟩ := invMod_some first (by omega) coprime
    have some_ : ¬rdNat s (Mem.pke (512 * c.a)) (8 * c.w) = 0 := by
      intro zero
      rw [zero, Nat.gcd_zero_left] at coprime
      omega
    exact ⟨v, low, inverse, pkeMod_gives (op := 4) rfl next (((modCommand_inv odd large first).trans (if_neg some_)).trans value) (fits low)⟩

end Sys2Proof.Machine
end

section
/-! SUPPORT. Writes of entries that the device serves, wake demands, and translation for units (R470, R658, R710, R861). -/

namespace Sys2Proof.Machine

open Sys2Proof

/-! ## Served writes (R861) -/

/-- Row w is the one of the entry with key k, and a write of it may be accepted. -/
structure Writable (k : Nat) (w : DRow) : Prop where
  real : k / 256 < 0xF000
  listed : 1 ≤ k % 256
  row : dictRow (k / 256) (k % 256) = some w
  write : w.acc ≠ .ro ∧ w.acc ≠ .rc
  keeps : w.acc ≠ .w1c

section
variable {n : Instr} {s u : State} {via : Path} {k : Nat} {d : List Byte} {m : EntrySem} {w : DRow}
  (runs : exec n s = done s (access s (writeBytes via k d) m)) (serves : Serves s k) (entry : Writable k w)
include runs serves entry

/-- A path that may not write ends with result 6 (R658, R742). -/
theorem exec_heldBack (held : HeldBack s via w m) : exec n s = .next (ended s k 6) := by
  rw [runs, access_refused serves entry.real entry.listed entry.row (checks_heldBack entry.write.1 entry.write.2 held)]
  exact done_finish ..

variable (open_ : ¬HeldBack s via w m) (size : d.length = w.size)
include open_ size

/-- A value that the entry does not take ends with result 4. -/
theorem exec_badValue (bad : (w.typ = 7 ∧ 2 ≤ leNat d) ∨ m.rule s (leNat d) = false) : exec n s = .next (ended s k 4) := by
  rw [runs, access_refused serves entry.real entry.listed entry.row (checks_value entry.write.1 entry.write.2 open_ size bad)]
  exact done_finish ..

variable (good : ¬((w.typ = 7 ∧ 2 ≤ leNat d) ∨ m.rule s (leNat d) = false))
include good

/-- A command to a unit that is not idle ends with result 5. -/
theorem exec_notIdle (busy : m.idle s = false) : exec n s = .next (ended s k 5) := by
  have checked := checks_good entry.write.1 entry.write.2 open_ size good
  rw [busy, if_neg (by decide)] at checked
  rw [runs, access_refused serves entry.real entry.listed entry.row checked]
  exact done_finish ..

/-- Any other write has its entry's effect, once the leader of a pair has forwarded it. -/
theorem exec_accepted (idle : m.idle s = true) (effect : m.eff (told s via k d) via (leNat d) = u) (queue : u.pending = s.pending) :
    Accepts n s k u := by
  have checked := checks_good entry.write.1 entry.write.2 open_ size good
  rw [idle, if_pos rfl] at checked
  rw [Accepts, runs, access_accepted serves entry.real entry.listed entry.row entry.keeps checked, effect]
  exact done_eq queue

end

/-- An entry that belongs to no partition is not forwarded. -/
theorem told_device {k : Nat} (device : partitionEntry (k / 256) = false) (s : State) (via : Path) (d : List Byte) : told s via k d = s :=
  forwardWrite_eq _ (Or.inr (Or.inr device))

/-- No check on the path. -/
theorem not_heldBack {s : State} {via : Path} {w : DRow} {m : EntrySem} (trust : w.acc ≠ .trust) (plain : m.authOnly = false) :
    ¬HeldBack s via w m := by
  rintro ⟨trusted | limited, -, -⟩
  · exact trust trusted
  · rw [plain] at limited
    exact absurd limited (by decide)

theorem not_heldBack_of_authentic {s : State} {via : Path} {w : DRow} {m : EntrySem} (known : authentic s via = true) :
    ¬HeldBack s via w m := by
  rintro ⟨-, unknown, -⟩
  rw [known] at unknown
  exact absurd unknown (by decide)

/-- The bytes of a value that fits its entry are the value. -/
theorem leNat_value {n v : Nat} (fits : v < 256 ^ n) : leNat (leBytes n v) = v := (leNat_leBytes n v).trans (Nat.mod_eq_of_lt fits)

/-! ## Wake demands (R710, R874) -/

/-- Between s and t the power manager's record and the states of domains may differ, and nothing else. -/
structure PowerOnly (s t : State) : Prop where
  rest : ∃ v l, t = { s with power := v, dict := l }
  entries : ∀ k, (∀ d < 40, k ≠ E.domain_state + d) → rd t k = rd s k

namespace PowerOnly
variable {s t u : State}

theorem refl (s : State) : PowerOnly s s := ⟨⟨_, _, rfl⟩, fun _ _ => rfl⟩

theorem trans (h : PowerOnly s t) (h' : PowerOnly t u) : PowerOnly s u := by
  obtain ⟨v, l, rfl⟩ := h.rest
  obtain ⟨v', l', rfl⟩ := h'.rest
  exact ⟨⟨v', l', rfl⟩, fun k far => (h'.entries k far).trans (h.entries k far)⟩

theorem power (s : State) (v : PowerMgr) : PowerOnly s { s with power := v } := ⟨⟨v, _, rfl⟩, fun _ _ => rfl⟩

theorem setDomain {d : Nat} (known : d < 40) (s : State) (v : Nat) : PowerOnly s (setDomain s d v) :=
  ⟨⟨_, _, rfl⟩, fun _ far => rd_wr_other _ (far d known) _⟩

theorem foldl {g : State → Nat → State} {l : List Nat} (step : ∀ d ∈ l, ∀ s, PowerOnly s (g s d)) (s : State) : PowerOnly s (l.foldl g s) := by
  induction l generalizing s with
  | nil => exact refl s
  | cons d l ih => exact (step d (.head _) s).trans (ih (fun e member => step e (.tail _ member)) _)

theorem wakeOne {d : Nat} (known : d < 40) (s : State) : PowerOnly s (wakeOne s d) := by
  unfold Machine.wakeOne
  split
  · exact power ..
  · split
    · exact refl s
    · exact (power s _).trans (setDomain known ..)

theorem wakeDomain {d : Nat} (known : d < 40) (s : State) : PowerOnly s (wakeDomain s d) := by
  unfold Machine.wakeDomain
  split
  · exact refl s
  · split
    · exact wakeOne known s
    · exact (power s _).trans (foldl (fun e member s => wakeOne (List.mem_range.1 member) s) _)

theorem mem (h : PowerOnly s t) : t.mem = s.mem := by obtain ⟨_, _, rfl⟩ := h.rest; rfl
theorem pke (h : PowerOnly s t) : t.pke = s.pke := by obtain ⟨_, _, rfl⟩ := h.rest; rfl
theorem pending (h : PowerOnly s t) : t.pending = s.pending := by obtain ⟨_, _, rfl⟩ := h.rest; rfl
theorem cores (h : PowerOnly s t) : t.cores = s.cores := by obtain ⟨_, _, rfl⟩ := h.rest; rfl

end PowerOnly

/-! ## Translation for a unit of the device (R470) -/

/-- What a translation for a unit reads of the machine. -/
structure TranslatesAlike (s t : State) : Prop where
  xlat : t.xlat = s.xlat
  hbm : t.hbm = s.hbm
  keyStore : rd t E.key_store_gib = rd s E.key_store_gib
  pools : ∀ x < 32, rd t (E.shadow_pool_cfg + x) = rd s (E.shadow_pool_cfg + x)

namespace TranslatesAlike
variable {s t : State}

theorem physOk (h : TranslatesAlike s t) (x y : Nat) (w : Bool) (pa : Nat) : physOk t (.unit y) w pa = physOk s (.unit x) w pa := by
  have pool : inPool t pa = inPool s pa := by
    have low : bits pa 36 32 < 32 := Nat.mod_lt _ (by decide)
    unfold inPool
    rw [h.pools _ low]
  unfold Machine.physOk hbmInside hbmAllowed ringAllowed
  rw [h.hbm, h.keyStore, pool]
  rfl

theorem translateFor (h : TranslatesAlike s t) (p x y : Nat) (nd : Need) (va : Nat) :
    translateFor t p (.unit y) nd va = translateFor s p (.unit x) nd va := by
  have entry : xlatAt t p va = xlatAt s p va := by unfold xlatAt; rw [h.xlat]
  unfold Machine.translateFor checkEntry
  rw [entry]
  simp only [h.physOk x y]

theorem vaRange (h : TranslatesAlike s t) (p x y : Nat) (nd : Need) (va n : Nat) :
    vaRange t p (.unit y) nd va n = vaRange s p (.unit x) nd va n := by
  unfold Machine.vaRange
  generalize n / 65536 + 2 = f
  induction f generalizing va n with
  | zero => rfl
  | succ f ih =>
    unfold vaPieces
    simp only [h.translateFor p x y, ih]

end TranslatesAlike

/-- The pieces of a range that translates make up the range. -/
theorem vaPieces_length {s : State} {p : Nat} {who : Requester} {nd : Need} : ∀ {f va n : Nat}, n = 0 ∨ n + va % 65536 ≤ 65536 * f →
    (vaPieces s p who nd f va n).1 = 0 → ((vaPieces s p who nd f va n).2.map (·.2.2)).sum = n := by
  intro f
  induction f with
  | zero =>
    intro va n fuel _
    obtain rfl : n = 0 := by omega
    rfl
  | succ f ih =>
    intro va n fuel ok
    unfold vaPieces at ok ⊢
    by_cases empty : n = 0
    · rw [if_pos empty, empty]; rfl
    · rw [if_neg empty] at ok ⊢
      dsimp only at ok ⊢
      split at ok
      next fails => exact absurd ok fails
      next good =>
        rw [if_neg good]
        have least : min n (65536 - va % 65536) ≤ n := Nat.min_le_left ..
        have full : min n (65536 - va % 65536) = n ∨ min n (65536 - va % 65536) = 65536 - va % 65536 := by
          rcases Nat.le_total n (65536 - va % 65536) with short | long
          · exact .inl (Nat.min_eq_left short)
          · exact .inr (Nat.min_eq_right long)
        generalize min n (65536 - va % 65536) = m at ok least full ⊢
        rw [List.map_cons, List.sum_cons, ih (by omega) ok]
        dsimp only
        omega

/-- A read of a range that translates to no outbound address brings as many bytes as it has. -/
theorem vaRead_length {s : State} {p : Nat} {who : Requester} {va n : Nat} (ok : (vaRange s p who .read va n).1 = 0)
    (here : (vaRange s p who .read va n).2.any (fun e => isOutbound e.1) = false) : (vaRead s p who va n).2.length = n := by
  unfold vaRead
  dsimp only
  rw [if_neg (not_not.2 ok), if_neg (by rw [here]; decide), List.length_flatMap]
  simp only [rdBytes_length]
  exact vaPieces_length (.inr (by omega)) ok

end Sys2Proof.Machine
end

section
/-! SUPPORT. Jobs of the big-number engine (R768 to R788). -/

namespace Sys2Proof.Machine

open Sys2Proof

/-! ## Job images (R769, R772) -/

section
variable (s : State)

/-- The partition that the job entries name, and the address of the image. -/
abbrev jobPart : Nat := rd s E.pke_job_partition
abbrev jobAddr : Nat := rd s E.pke_job_addr

/-- The header as it stands in memory. -/
def jobHeader : List Byte := (vaRead s (jobPart s) (.unit (partUnit s (jobPart s))) (jobAddr s) 64).2

/-- The fields of a header are those of R769. -/
def fieldsOk (h : List Byte) : Bool :=
  let w := recWord h
  let n := bits (w 0) 47 40
  bits (w 0) 63 48 == 0x424E && decide (1 ≤ n ∧ n ≤ 16) && bits (w 0) 39 32 == 0 && bits (w 1) 63 32 == 0 && bits (w 2) 63 48 == 0 &&
    bits (w 3) 63 48 == 0 && w 4 == 0 && w 5 == 0 && w 6 == 0 && bits (w 7) 31 0 == 0 && checkOk h

theorem fieldsOk_iff (h : List Byte) : fieldsOk h = true ↔
    bits (recWord h 0) 63 48 = 0x424E ∧ 1 ≤ bits (recWord h 0) 47 40 ∧ bits (recWord h 0) 47 40 ≤ 16 ∧ bits (recWord h 0) 39 32 = 0 ∧
      bits (recWord h 1) 63 32 = 0 ∧ bits (recWord h 2) 63 48 = 0 ∧ bits (recWord h 3) 63 48 = 0 ∧ recWord h 4 = 0 ∧ recWord h 5 = 0 ∧
      recWord h 6 = 0 ∧ bits (recWord h 7) 31 0 = 0 ∧ checkOk h = true := by
  unfold fieldsOk
  simp only [Bool.and_eq_true, beq_iff_eq, decide_eq_true_eq, and_assoc]

/-- The command words after a header, their range, and the ranges of the registers. -/
def jobWords (h : List Byte) : List Nat :=
  wordsOf (vaRead s (jobPart s) (.unit (partUnit s (jobPart s))) (jobAddr s + 64) (8 * bits (recWord h 0) 47 40)).2
def wordsRange (h : List Byte) : Nat := pkeRange s (jobPart s) .read (jobAddr s + 64) (8 * bits (recWord h 0) 47 40)
def inputRange (h : List Byte) : Nat :=
  pkeRange s (jobPart s) .read (bits (recWord h 2) 47 0) (512 * (maskRegs (bits (recWord h 0) 31 0)).length)
def outputRange (h : List Byte) : Nat :=
  pkeRange s (jobPart s) .write (bits (recWord h 3) 47 0) (512 * (maskRegs (bits (recWord h 1) 31 0)).length)

theorem pkeImage_eq : pkeImage s =
    if rd s E.pke_state = 2 then ⟨[], [], 0x0805⟩
    else if jobPart s ≥ 32 ∨ pkeRange s (jobPart s) .read (jobAddr s) 64 ≠ 0 then
      ⟨[], [], if jobPart s ≥ 32 then 0x0302 else pkeRange s (jobPart s) .read (jobAddr s) 64⟩
    else if !fieldsOk (jobHeader s) then ⟨jobHeader s, [], 0x0804⟩
    else if wordsRange s (jobHeader s) ≠ 0 then ⟨jobHeader s, [], wordsRange s (jobHeader s)⟩
    else ⟨jobHeader s, jobWords s (jobHeader s), if !(jobWords s (jobHeader s)).all pkeWordOk then 0x0804
      else if inputRange s (jobHeader s) ≠ 0 then inputRange s (jobHeader s) else outputRange s (jobHeader s)⟩ := rfl

/-- A job is tried once the engine is in service and the partition's header can be read. -/
structure JobTried : Prop where
  engine : rd s E.pke_state ≠ 2
  part : jobPart s < 32
  header : pkeRange s (jobPart s) .read (jobAddr s) 64 = 0

variable {s}

theorem pkeImage_tried (h : JobTried s) : pkeImage s =
    if !fieldsOk (jobHeader s) then ⟨jobHeader s, [], 0x0804⟩
    else if wordsRange s (jobHeader s) ≠ 0 then ⟨jobHeader s, [], wordsRange s (jobHeader s)⟩
    else ⟨jobHeader s, jobWords s (jobHeader s), if !(jobWords s (jobHeader s)).all pkeWordOk then 0x0804
      else if inputRange s (jobHeader s) ≠ 0 then inputRange s (jobHeader s) else outputRange s (jobHeader s)⟩ := by
  rw [pkeImage_eq, if_neg h.engine, if_neg]
  rintro (high | code)
  · exact absurd h.part (Nat.not_lt.2 high)
  · exact code h.header

theorem pkeImage_fields (h : JobTried s) (fields : fieldsOk (jobHeader s) = true) : pkeImage s =
    if wordsRange s (jobHeader s) ≠ 0 then ⟨jobHeader s, [], wordsRange s (jobHeader s)⟩
    else ⟨jobHeader s, jobWords s (jobHeader s), if !(jobWords s (jobHeader s)).all pkeWordOk then 0x0804
      else if inputRange s (jobHeader s) ≠ 0 then inputRange s (jobHeader s) else outputRange s (jobHeader s)⟩ := by
  rw [pkeImage_tried h, fields, if_neg (by decide)]

/-- A job that passes its checks has inputs that can be read. -/
theorem input_of_code (taken : (pkeImage s).code = 0) : pkeRange s (jobPart s) .read (bits (recWord (pkeImage s).header 2) 47 0)
    (512 * (maskRegs (bits (recWord (pkeImage s).header 0) 31 0)).length) = 0 := by
  rw [pkeImage_eq] at taken ⊢
  split at taken
  · exact absurd taken (by decide)
  · rename_i engine
    rw [if_neg engine]
    split at taken
    next bad =>
      dsimp only at taken
      split at taken
      · exact absurd taken (by decide)
      · exact absurd taken (bad.resolve_left ‹_›)
    next tried =>
      rw [if_neg tried]
      split at taken
      · exact absurd (show 0x0804 = 0 from taken) (by decide)
      · rename_i fields
        rw [if_neg fields]
        split at taken
        next words => exact absurd taken words
        next words =>
          rw [if_neg words]
          dsimp only at taken ⊢
          split at taken
          · exact absurd (show 0x0804 = 0 from taken) (by decide)
          · split at taken
            next input => exact absurd taken input
            next input => exact not_not.1 input

/-- A range that can be read brings its bytes. -/
theorem length_of_pkeRange {p va n : Nat} (ok : pkeRange s p .read va n = 0) : (vaRead s p (.unit (partUnit s p)) va n).2.length = n := by
  unfold pkeRange at ok
  by_cases empty : n = 0
  · rw [empty]
    rfl
  · rw [if_neg empty] at ok
    dsimp only at ok
    split at ok
    · exact absurd ok (by decide)
    next translates =>
      rw [not_or, not_not] at translates
      exact vaRead_length translates.1 (Bool.eq_false_iff.2 translates.2)

end

/-! ## The registers (R765, R782) -/

theorem mem_maskRegs {m r : Nat} (member : r ∈ maskRegs m) : r < 32 := List.mem_range.1 (List.mem_of_mem_filter member)

theorem maskRegs_nodup (m : Nat) : (maskRegs m).Nodup := List.nodup_range.filter _

/-- Register r holds its part of what a load brings, when the load names it, and else what it held. -/
theorem rdBytes_loadRegs_other {l : List Nat} {r : Nat} (out : r ∉ l) (s : State) (b : List Byte) :
    rdBytes (loadRegs s l b) (Mem.pke (512 * r)) 512 = rdBytes s (Mem.pke (512 * r)) 512 := by
  induction l generalizing s b with
  | nil => rfl
  | cons q l ih =>
    have other : r ≠ q := fun same => out (same ▸ .head _)
    rw [loadRegs, ih (fun member => out (.tail _ member)), rdBytes_wrBytes_other]
    have short : (b.take 512).length ≤ 512 := List.length_take_le ..
    unfold Mem.pke
    omega

theorem rdBytes_loadRegs {l : List Nat} (distinct : l.Nodup) (s : State) {b : List Byte} (size : b.length = 512 * l.length) {j r : Nat}
    (named : l[j]? = some r) : rdBytes (loadRegs s l b) (Mem.pke (512 * r)) 512 = (b.drop (512 * j)).take 512 := by
  induction l generalizing s b j with
  | nil => exact absurd named (by simp)
  | cons q l ih =>
    rw [List.length_cons] at size
    cases j with
    | zero =>
      obtain rfl : q = r := by simpa using named
      rw [loadRegs, rdBytes_loadRegs_other (List.nodup_cons.1 distinct).1]
      have back := rdBytes_wrBytes s (Mem.pke (512 * q)) (b.take 512)
      rw [List.length_take, Nat.min_eq_left (by omega)] at back
      exact back
    | succ j =>
      rw [loadRegs, ih (List.nodup_cons.1 distinct).2 _ (by rw [List.length_drop, size]; omega) (by simpa using named), List.drop_drop]
      congr 2
      omega

theorem rdBytes_zeroFill {s : State} {lo hi a n : Nat} (inside : lo ≤ a ∧ a + n ≤ hi) :
    rdBytes (zeroFill s lo hi) a n = List.replicate n 0 := by
  rw [rdBytes_eq_map, List.eq_replicate_iff]
  refine ⟨by rw [List.length_map, List.length_range], fun b member => ?_⟩
  obtain ⟨i, low, rfl⟩ := List.mem_map.1 member
  have := List.mem_range.1 low
  rw [rdByte_zeroFill, if_pos (by omega)]

/-! ## Submission (R768, R772, R788) -/

theorem writable_pkeJobCmd : Writable E.pke_job_cmd ⟨0xC001, 1, 3, 3, 1, 1, .cmd, 1, false, 0⟩ :=
  ⟨by decide, by decide, by decide, by decide, by decide⟩

theorem exec_pkeJobSubmit (s : State) (via : Path) : exec (.pkeJobSubmit via) s = done s (access s (writeBytes via E.pke_job_cmd (leBytes 1 1)) pkeJobSem) := by
  rw [show leBytes 1 1 = leBytes (dictSize E.pke_job_cmd) 1 from rfl, ← writeOf_eq]
  rfl

/-- A refusal writes the job's own entries. -/
theorem rd_refuseJob (s : State) (code : Nat) : rd (refuseJob s code) E.pke_job_state = 3 ∧
    rd (refuseJob s code) E.pke_job_status = cut E.pke_job_status code := by
  unfold refuseJob
  refine ⟨rd_wr_same .., ?_⟩
  rw [rd_wr_other _ (by decide), rd_wr_same]
  rfl

/-! ## The end of a job (R776, R777, R782 to R784) -/

section
variable (s : State) (late : Nat) (bad : Bool)

/-- The machine once a job's late ticks and its fault have counted. -/
def faulted : State := if bad then noteJobFault (incBy s E.pke_late_tick_count late) else incBy s E.pke_late_tick_count late

/-- The end of a job counts in three entries and in the times of faults. -/
theorem faulted_eq : ∃ l f, faulted s late bad = { s with dict := l, pke := { s.pke with faults := f } } ∧
    ∀ k, k ≠ E.pke_late_tick_count → k ≠ E.pke_fault_count → k ≠ E.pke_state → rd (faulted s late bad) k = rd s k := by
  unfold faulted
  split
  · unfold noteJobFault
    dsimp only
    split
    · exact ⟨_, _, rfl, fun k a b c => ((rd_wr_other _ c _).trans (rd_wr_other _ b _)).trans (rd_wr_other _ a _)⟩
    · exact ⟨_, _, rfl, fun k a b _ => (rd_wr_other _ b _).trans (rd_wr_other _ a _)⟩
  · exact ⟨_, s.pke.faults, rfl, fun k a _ _ => rd_wr_other _ a _⟩

theorem faulted_alike : TranslatesAlike s (faulted s late bad) := by
  obtain ⟨l, f, same, entries⟩ := faulted_eq s late bad
  refine ⟨by rw [same], by rw [same], entries _ (by decide) (by decide) (by decide), fun x known => entries _ ?_ ?_ ?_⟩ <;>
    simp only [E.shadow_pool_cfg, E.pke_late_tick_count, E.pke_fault_count, E.pke_state] <;> omega

theorem faulted_mem : (faulted s late bad).mem = s.mem := by
  obtain ⟨l, f, same, -⟩ := faulted_eq s late bad
  rw [same]

end

theorem unitStore_hbm {s : State} {x p k : Nat} (low : k < 2 ^ 38) (d : List Byte) : unitStore s x p none k d = (hbmStore s k d, 0) := by
  have inside : isOutbound k = false := by
    unfold isOutbound bits
    rw [beq_eq_false_iff_ne.2 (show k / 2 ^ 37 % 2 ^ (39 + 1 - 37) ≠ 6 by omega), Bool.and_false]
  have here : ¬2 ^ 38 ≤ k := Nat.not_le.2 low
  unfold unitStore
  rw [inside, if_neg (by decide), decide_eq_false here, Bool.false_and, Bool.false_and, Bool.false_and, if_neg (by decide), if_neg here]
  exact congrArg (·, 0) (if_pos low)

/-- Bytes written by a unit to one piece of HBM are stored. -/
theorem vaWrite_one {s : State} {x p va k : Nat} {d : List Byte} (range : vaRange s p (.unit x) .write va d.length = (0, [(k, va, d.length)]))
    (low : k < 2 ^ 38) : vaWrite s x p none va d = (hbmStore s k d, 0) := by
  unfold vaWrite
  dsimp only
  rw [range]
  dsimp only
  rw [if_neg (by decide), List.foldl_cons, List.foldl_nil, Nat.sub_self, List.drop_zero, List.take_length]
  dsimp only
  rw [unitStore_hbm low]
  rfl

theorem vaWrite_empty (s : State) (x p va : Nat) : vaWrite s x p none va [] = (s, 0) := rfl

section
variable {s : State} {j : PkeJob} (running : s.pke.job = some j) (over_ : j.run = j.commands.length) (late : Nat) (m : Bool)

/-- The status that a job ends with. -/
def endStatus (j : PkeJob) (bad : Bool) : Nat := if j.scrubbed then 0x0405 else if bad then 0x0803 else j.status

/-- What a job leaves, once its output w has been stored. -/
def wiping (j : PkeJob) (bad : Bool) (w : State × Nat) : State :=
  wr { w.1 with pke := { w.1.pke with job := none, wiping := true } } E.pke_job_status (if endStatus j bad = 0 then w.2 else endStatus j bad)

include running over_

theorem jobEnd_eq : jobEnd s late m = wiping j (m || late != 0) (vaWrite (faulted s late (m || late != 0))
    (partUnit (faulted s late (m || late != 0)) j.part) j.part none j.outAddr
    (jobOutput (faulted s late (m || late != 0)) j (endStatus j (m || late != 0) == 0))) := by
  unfold jobEnd
  rw [running]
  dsimp only
  rw [if_neg (not_not.2 over_)]
  rfl

end

theorem jobOutput_length (s : State) (j : PkeJob) (ok : Bool) : (jobOutput s j ok).length = 512 * (maskRegs j.outMask).length := by
  unfold jobOutput
  rw [List.length_flatMap]
  have each : (maskRegs j.outMask).map (fun r => (if ok then rdBytes s (Mem.pke (512 * r)) 512 else List.replicate 512 0).length) =
      (maskRegs j.outMask).map fun _ => 512 := by
    refine List.map_congr_left fun r _ => ?_
    cases ok
    · exact List.length_replicate
    · exact rdBytes_length ..
  rw [each, List.map_const', List.sum_replicate, smul_eq_mul, Nat.mul_comm]

theorem jobOutput_false (s : State) (j : PkeJob) : jobOutput s j false = List.replicate (512 * (maskRegs j.outMask).length) 0 := by
  rw [List.eq_replicate_iff]
  refine ⟨jobOutput_length .., fun b member => ?_⟩
  obtain ⟨r, -, inside⟩ := List.mem_flatMap.1 member
  exact (List.mem_replicate.1 inside).2

/-- What the end of a job writes, beyond its output. -/
theorem rd_wiping {k : Nat} (other : k ≠ E.pke_job_status) (j : PkeJob) (bad : Bool) (w : State × Nat) : rd (wiping j bad w) k = rd w.1 k :=
  rd_wr_other _ other _

theorem rd_hbmStore (s : State) (a : Nat) (d : List Byte) (k : Nat) : rd (hbmStore s a d) k = rd s k := by
  obtain ⟨v, same⟩ := hbmStore_eq (s := s) a d
  rw [same]
  rfl

theorem rdBytes_hbmStore (s : State) (a : Nat) (d : List Byte) : rdBytes (hbmStore s a d) a d.length = d := by
  obtain ⟨v, same⟩ := hbmStore_eq (s := s) a d
  rw [same]
  exact rdBytes_wrBytes s a d

section
variable {s : State} (late : Nat)

theorem rd_faulted_late (bad : Bool) : rd (faulted s late bad) E.pke_late_tick_count =
    cut E.pke_late_tick_count (rd s E.pke_late_tick_count + late) := by
  have first : rd (incBy s E.pke_late_tick_count late) E.pke_late_tick_count = cut E.pke_late_tick_count (rd s E.pke_late_tick_count + late) :=
    rd_wr_same ..
  unfold faulted noteJobFault
  cases bad
  · exact first
  · dsimp only
    rw [if_pos rfl]
    split
    · exact ((rd_wr_other _ (by decide) _).trans (rd_wr_other _ (by decide) _)).trans first
    · exact (rd_wr_other _ (by decide) _).trans first

theorem rd_faulted_count : rd (faulted s late true) E.pke_fault_count = cut E.pke_fault_count (rd s E.pke_fault_count + 1) := by
  unfold faulted noteJobFault
  dsimp only
  rw [if_pos rfl]
  have old : rd (incBy s E.pke_late_tick_count late) E.pke_fault_count = rd s E.pke_fault_count := rd_wr_other _ (by decide) _
  split
  · refine (rd_wr_other _ (by decide) _).trans ((rd_inc_same ..).trans ?_)
    exact congrArg (fun v => cut E.pke_fault_count (v + 1)) old
  · refine (rd_inc_same ..).trans ?_
    exact congrArg (fun v => cut E.pke_fault_count (v + 1)) old

theorem rd_faulted_state (many : rd s E.pke_fault_limit ≤ (s.pke.faults.filter fun t => decide (now s < t + dayPeriods)).length + 1) :
    rd (faulted s late true) E.pke_state = 2 := by
  have limit (f : Pke) : rd (inc { incBy s E.pke_late_tick_count late with pke := f } E.pke_fault_count) E.pke_fault_limit = rd s E.pke_fault_limit :=
    (rd_wr_other _ (by decide) _).trans (rd_wr_other _ (by decide) _)
  have time : now (incBy s E.pke_late_tick_count late) = now s := rd_wr_other _ (by decide) _
  unfold faulted noteJobFault
  dsimp only
  rw [if_pos rfl, limit, if_pos]
  · exact rd_wr_same ..
  · rw [List.length_append, time]
    exact many

theorem rd_faulted_good : rd (faulted s 0 false) E.pke_state = rd s E.pke_state := rd_wr_other _ (by decide) _

end

theorem endStatus_iff (j : PkeJob) (bad : Bool) : endStatus j bad = 0 ↔ j.scrubbed = false ∧ bad = false ∧ j.status = 0 := by
  unfold endStatus
  cases j.scrubbed <;> cases bad <;> simp

/-- The output of a job whose status is 0 is its registers, and of any other zeros. -/
theorem jobOutput_good {s t : State} (same : t.mem = s.mem) (j : PkeJob) :
    jobOutput t j true = (maskRegs j.outMask).flatMap fun r => rdBytes s (Mem.pke (512 * r)) 512 := by
  unfold jobOutput
  exact congrArg (fun f => (maskRegs j.outMask).flatMap f) (funext fun r => rdBytes_congr same ..)

/-! ## The parts of the obligation -/

section
variable (s : State)

theorem pkeJobSubmit_cases (via : Path) (serves : Serves s E.pke_job_cmd) (inService : rd s E.out_of_service ≠ 1) :
    (pkeIdle s = false → exec (.pkeJobSubmit via) s = .next (ended s E.pke_job_cmd 4)) ∧
    (pkeIdle s = true → Accepts (.pkeJobSubmit via) s E.pke_job_cmd (submitJob s)) := by
  have open_ : ¬HeldBack s via ⟨0xC001, 1, 3, 3, 1, 1, .cmd, 1, false, 0⟩ pkeJobSem := not_heldBack (by decide) rfl
  have runs := exec_pkeJobSubmit s via
  have rule : pkeJobSem.rule s (leNat (leBytes 1 1)) = pkeIdle s := rfl
  refine ⟨fun busy => exec_badValue runs serves writable_pkeJobCmd open_ rfl (.inr (rule.trans busy)), fun idle =>
    exec_accepted runs serves writable_pkeJobCmd open_ rfl ?_ rfl ?_ ?_⟩
  · rintro (⟨typ, -⟩ | fails)
    · exact absurd typ (by decide)
    · rw [rule, idle] at fails
      exact absurd fails (by decide)
  · rw [told_device (by decide)]
    rfl
  · unfold submitJob
    dsimp only
    rw [if_neg inService]
    split
    · rfl
    · rw [workReaches_none (show (wr (wr s E.pke_job_status 0) E.pke_job_state 1).power.entry = none from serves.2.1)]
      exact (PowerOnly.wakeDomain (by decide) _).pending

theorem submitJob_refused (inService : rd s E.out_of_service ≠ 1) (refused : (pkeImage s).code ≠ 0) :
    submitJob s = refuseJob s (pkeImage s).code := by
  unfold submitJob
  dsimp only
  rw [if_neg inService, if_pos refused]

theorem submitJob_taken (inService : rd s E.out_of_service ≠ 1) (awake : s.power.entry = none) (taken : (pkeImage s).code = 0) :
    PowerOnly (wr (wr s E.pke_job_status 0) E.pke_job_state 1) (submitJob s) := by
  unfold submitJob
  dsimp only
  rw [if_neg inService, if_neg (not_not.2 taken),
    workReaches_none (show (wr (wr s E.pke_job_status 0) E.pke_job_state 1).power.entry = none from awake)]
  exact .wakeDomain (by decide) _

end

/-! ## The self-test (R785, R788) -/

theorem writable_pkeSelftestCmd : Writable E.pke_selftest_cmd ⟨0xC002, 1, 2, 2, 1, 1, .cmd, 1, false, 0⟩ :=
  ⟨by decide, by decide, by decide, by decide, by decide⟩

/-- The self-test is asked for. -/
def testing (s : State) : State :=
  { wr (wr s E.pke_state 1) E.pke_selftest_status 1 with pke := { s.pke with testing := true } }

theorem pkeSelftest_cases {s : State} {via : Path} (serves : Serves s E.pke_selftest_cmd) :
    (authentic s via = false → exec (.pkeSelftest via) s = .next (ended s E.pke_selftest_cmd 6)) ∧
    (authentic s via = true → Accepts (.pkeSelftest via) s E.pke_selftest_cmd (wakeDomain (testing s) 39)) := by
  have runs : exec (.pkeSelftest via) s = done s (access s (writeBytes via E.pke_selftest_cmd (leBytes 1 1)) pkeSelftestSem) := by
    rw [show leBytes 1 1 = leBytes (dictSize E.pke_selftest_cmd) 1 from rfl, ← writeOf_eq]
    rfl
  refine ⟨fun unknown => exec_heldBack runs serves writable_pkeSelftestCmd ⟨.inr rfl, unknown, rfl⟩, fun known =>
    exec_accepted runs serves writable_pkeSelftestCmd (not_heldBack_of_authentic known) rfl ?_ rfl ?_ ?_⟩
  · rintro (⟨typ, -⟩ | fails)
    · exact absurd typ (by decide)
    · exact absurd (show true = false from fails) (by decide)
  · rw [told_device (by decide)]
    exact congrArg (wakeDomain · 39) (workReaches_none (show (testing s).power.entry = none from serves.2.1) 3)
  · exact (PowerOnly.wakeDomain (by decide) _).pending

/-! ## Start and end -/

section
variable (s : State)

/-- The queued job may start. -/
def StartDue : Prop := rd s E.pke_job_state = 1 ∧ s.pke.job = none ∧ s.pke.wiping = false ∧ s.pke.testing = false ∧ domainOn s 39 = true

/-- The registers as a job starts. -/
def loaded : State :=
  let ins := maskRegs (bits (recWord (pkeImage s).header 0) 31 0)
  loadRegs (zeroFill s (Mem.pke 0) (Mem.pke 16384)) ins
    (vaRead s (jobPart s) (.unit (partUnit s (jobPart s))) (bits (recWord (pkeImage s).header 2) 47 0) (512 * ins.length)).2

/-- The job that starts. -/
def started : PkeJob := ⟨jobPart s, bits (recWord (pkeImage s).header 3) 47 0, bits (recWord (pkeImage s).header 1) 31 0, (pkeImage s).commands, 0, 0, false⟩

variable {s}

theorem startJob_idle (idle : ¬StartDue s) : startJob s = s := by
  unfold startJob
  refine if_pos (by_contra fun due => idle ?_)
  simp only [ne_eq, not_or, not_not, Bool.not_eq_true, Option.isSome_eq_false_iff, Option.isNone_iff_eq_none,
    Bool.not_eq_eq_eq_not, Bool.not_true] at due
  obtain ⟨state, job, wiping, testing, on⟩ := due
  exact ⟨state, job, wiping, testing, Bool.eq_true_of_not_eq_false on⟩

theorem startJob_due (due : StartDue s) : startJob s = if (pkeImage s).code ≠ 0 then refuseJob s (pkeImage s).code else
    wr (wr (inc { loaded s with pke := { (loaded s).pke with job := some (started s) } } E.pke_jobs_count) E.pke_job_state 2) E.pke_job_ticks
      (jobTicks (pkeImage s).commands) := by
  obtain ⟨state, job, wiping, testing, on⟩ := due
  unfold startJob
  refine if_neg ?_
  simp [state, job, wiping, testing, on]

theorem loadRegs_dict (s : State) (l : List Nat) (b : List Byte) : (loadRegs s l b).dict = s.dict ∧ (loadRegs s l b).pending = s.pending := by
  induction l generalizing s b with
  | nil => exact ⟨rfl, rfl⟩
  | cons r l ih => exact ih ..

end

/-- The durations of R778. -/
theorem jobTicks_eq (l : List Nat) : jobTicks l = 64 + (l.map fun v =>
    let c := (pkeWord v).2
    match (pkeWord v).1 with
    | 0x01 | 0x02 => 2 * c.w + 8
    | 0x03 => c.w * c.w + 4 * c.w + 16
    | 0x04 => 128 * c.w * (c.w + 2) + 16
    | 0x05 => 128 * c.e * (c.w * c.w + 2 * c.w + 8) + 2 * (c.w * c.w + 4 * c.w + 16)
    | 0x06 => 2 * c.w * c.w + 8 * c.w + 32
    | 0x10 => 4000
    | 0x11 => 3744
    | 0x12 => 216352
    | _ => 192).sum := rfl

/-- Settles O55: a job's checks are those of its image in their order, and its end stores its output by one write of a unit. -/
theorem pkeJobs : Obligations.PkeJobs := by
  unfold Obligations.PkeJobs
  refine ⟨fun s => ?starts, fun s => ?ends⟩
  case starts =>
    dsimp only
    refine ⟨fun dead => ?_, fun alive high => ?_, fun alive low code => ?_, fun ⟨alive, low, header⟩ bad => ?_,
      fun ⟨alive, low, header⟩ fields words => ?_, fun ⟨alive, low, header⟩ fields words bad => ?_,
      fun ⟨alive, low, header⟩ fields words good => ?_, fun via serves inService => ?submit, ?start⟩
    · rw [pkeImage_eq, if_pos dead]
    · rw [pkeImage_eq, if_neg alive, if_pos (.inl high)]
      exact if_pos high
    · rw [pkeImage_eq, if_neg alive, if_pos (.inr code)]
      exact if_neg (Nat.not_le.2 low)
    · rw [pkeImage_tried ⟨alive, low, header⟩, if_pos]
      rw [Bool.not_eq_true', Bool.eq_false_iff]
      exact fun fields => bad ((fieldsOk_iff _).1 fields)
    · rw [pkeImage_fields ⟨alive, low, header⟩ ((fieldsOk_iff _).2 fields)]
      exact congrArg PkeImage.code (if_pos words)
    · rw [pkeImage_fields ⟨alive, low, header⟩ ((fieldsOk_iff _).2 fields)]
      refine (congrArg PkeImage.code (if_neg (not_not.2 words))).trans (if_pos ?_)
      obtain ⟨v, member, unknown⟩ := bad
      rw [Bool.not_eq_true', List.all_eq_false]
      exact ⟨v, member, by rw [unknown]; decide⟩
    · rw [pkeImage_fields ⟨alive, low, header⟩ ((fieldsOk_iff _).2 fields)]
      refine (congrArg PkeImage.code (if_neg (not_not.2 words))).trans (if_neg ?_)
      rw [show (jobWords s (jobHeader s)).all pkeWordOk = true from List.all_eq_true.2 good]
      decide
    case submit =>
      have idle_iff : pkeIdle s = true ↔ rd s E.pke_job_state ≠ 1 ∧ rd s E.pke_job_state ≠ 2 := by
        unfold pkeIdle
        rw [Bool.and_eq_true, bne_iff_ne, bne_iff_ne]
      obtain ⟨busy, accepted⟩ := pkeJobSubmit_cases s via serves inService
      refine ⟨fun notIdle => busy (Bool.eq_false_iff.2 (mt idle_iff.1 notIdle)), fun idle refused => ?_, fun idle taken => ?_⟩
      · have runs := accepted (idle_iff.2 idle)
        rw [submitJob_refused s inService refused] at runs
        exact leads_of_accepts (P := fun t => rd t E.pke_job_state = 3 ∧ rd t E.pke_job_status = cut E.pke_job_status (pkeImage s).code ∧
          t.mem = s.mem ∧ t.pke = s.pke) runs ⟨(rd_refuseJob ..).1, (rd_refuseJob ..).2, rfl, rfl⟩ fun _ _ h => h
      · have after := submitJob_taken s inService serves.2.1 taken
        have state : rd (submitJob s) E.pke_job_state = 1 := (after.entries _ (by decide)).trans (rd_wr_same ..)
        have status : rd (submitJob s) E.pke_job_status = 0 :=
          ((after.entries _ (by decide)).trans (rd_wr_other _ (by decide) _)).trans (rd_wr_same ..)
        exact leads_of_accepts (P := fun t => rd t E.pke_job_state = 1 ∧ rd t E.pke_job_status = 0 ∧ t.mem = s.mem ∧ t.pke = s.pke)
          (accepted (idle_iff.2 idle)) ⟨state, status, after.mem, after.pke⟩ fun _ _ h => h
    case start =>
      refine ⟨fun idle => (congrArg (done s) (startJob_idle idle)).trans (done_self s), fun due refused => ?_, fun due taken => ?_⟩
      · refine leads_of_done (u := refuseJob s (pkeImage s).code) (congrArg (done s) ((startJob_due due).trans (if_pos refused))) ?_
        exact ⟨(rd_refuseJob ..).1, (rd_refuseJob ..).2, rfl, rfl⟩
      · refine leads_of_done (congrArg (done s) ((startJob_due due).trans (if_neg (not_not.2 taken)))) ?_
        have entries (k : Nat) : rd (loaded s) k = rd s k := rd_congr (loadRegs_dict ..).1 k
        have size := length_of_pkeRange (input_of_code taken)
        refine ⟨?_, ?_, ?_, ?_, fun j r named => ?_, fun r known out => ?_⟩
        · exact (rd_wr_other _ (by decide) _).trans (rd_wr_same ..)
        · refine ((rd_wr_other _ (by decide) _).trans (rd_wr_other _ (by decide) _)).trans ((rd_inc_same ..).trans ?_)
          exact congrArg (fun v => cut E.pke_jobs_count (v + 1)) (entries _)
        · exact (rd_wr_same ..).trans (congrArg (cut E.pke_job_ticks) (jobTicks_eq _))
        · rfl
        · exact rdBytes_loadRegs (maskRegs_nodup _) _ size named
        · refine (rdBytes_loadRegs_other out _ _).trans (rdBytes_zeroFill ?_)
          unfold Mem.pke
          omega
  case ends =>
    dsimp only
    refine ⟨fun none_ late m => ?_, fun j running unfinished late m => ?_, fun j k late m running over_ range low => ?ended,
      fun j late m running over_ empty => ?_, fun clean => ?_, fun dirty => ?wiped, fun via serves => ?tests, fun passed => ?tested⟩
    · refine (congrArg (done s) (show jobEnd s late m = s from ?_)).trans (done_self s)
      unfold jobEnd
      rw [none_]
    · refine (congrArg (done s) (show jobEnd s late m = s from ?_)).trans (done_self s)
      unfold jobEnd
      rw [running]
      exact if_pos unfinished
    case ended =>
      have bad_iff : (m || late != 0) = true ↔ m = true ∨ late ≠ 0 := by rw [Bool.or_eq_true, bne_iff_ne]
      generalize isBad : (m || late != 0) = bad at bad_iff
      obtain ⟨l, f, same, entries⟩ := faulted_eq s late bad
      have output : vaWrite (faulted s late bad) (partUnit (faulted s late bad) j.part) j.part none j.outAddr
          (jobOutput (faulted s late bad) j (endStatus j bad == 0)) =
          (hbmStore (faulted s late bad) k (jobOutput (faulted s late bad) j (endStatus j bad == 0)), 0) := by
        refine vaWrite_one ?_ low
        rw [jobOutput_length, (faulted_alike s late bad).vaRange j.part (partUnit s j.part)]
        exact range
      have runs : exec (.pkeJobEnd late m) s = done s (wiping j bad
          (hbmStore (faulted s late bad) k (jobOutput (faulted s late bad) j (endStatus j bad == 0)), 0)) := by
        rw [← output, ← isBad]
        exact congrArg (done s) (jobEnd_eq running over_ late m)
      have kept {e : Nat} (other : e ≠ E.pke_job_status) (q : List Instr) : rd { wiping j bad
          (hbmStore (faulted s late bad) k (jobOutput (faulted s late bad) j (endStatus j bad == 0)), 0) with pending := q } e =
          rd (faulted s late bad) e := (rd_wiping other ..).trans (rd_hbmStore ..)
      have stored : ∃ v, hbmStore (faulted s late bad) k (jobOutput (faulted s late bad) j (endStatus j bad == 0)) =
        { wrBytes (faulted s late bad) k (jobOutput (faulted s late bad) j (endStatus j bad == 0)) with hbm := v } := hbmStore_eq ..
      refine leads_of_done runs ⟨rfl, rfl, ?_, ?_, fun fails => ⟨?_, ?_, fun many => ?_⟩, fun good => ?_⟩
      · have back := rdBytes_hbmStore (faulted s late bad) k (jobOutput (faulted s late bad) j (endStatus j bad == 0))
        rw [jobOutput_length] at back
        refine Eq.trans back ?_
        by_cases clean : endStatus j bad = 0
        · obtain ⟨kept, good, status⟩ := (endStatus_iff j bad).1 clean
          rw [if_neg]
          · rw [clean]
            exact jobOutput_good (faulted_mem ..) j
          · rw [← or_assoc, ← bad_iff, good, kept, status]
            decide
        · rw [if_pos, show (endStatus j bad == 0) = false from beq_eq_false_iff_ne.2 clean, jobOutput_false]
          by_contra good
          rw [← or_assoc, ← bad_iff, not_or, not_or, not_not, Bool.not_eq_true, Bool.not_eq_true] at good
          exact clean ((endStatus_iff j bad).2 ⟨good.2.2, good.1, good.2.1⟩)
      · refine (rd_wr_same ..).trans (congrArg (cut E.pke_job_status) ?_)
        have status : (if endStatus j bad = 0 then 0 else endStatus j bad) = endStatus j bad := by split <;> omega
        refine status.trans ?_
        unfold endStatus
        simp only [bad_iff]
      · rw [bad_iff.2 fails] at kept ⊢
        exact (kept (by decide) _).trans (rd_faulted_count late)
      · exact (kept (by decide) _).trans (rd_faulted_late late bad)
      · rw [bad_iff.2 fails] at kept ⊢
        exact (kept (by decide) _).trans (rd_faulted_state late many)
      · have calm : bad = false := Bool.eq_false_iff.2 fun fails => good.1 (bad_iff.1 fails)
        have onTime : late = 0 := not_not.1 fun late_ => good.1 (.inr late_)
        rw [calm, onTime] at kept ⊢
        exact (kept (by decide) _).trans rd_faulted_good
    · have nothing : (jobOutput (faulted s late (m || late != 0)) j (endStatus j (m || late != 0) == 0)) = [] := by
        unfold jobOutput
        rw [empty]
        rfl
      refine leads_of_done (congrArg (done s) (jobEnd_eq running over_ late m)) ⟨rfl, rfl, ?_⟩
      rw [nothing, vaWrite_empty]
      exact faulted_mem ..
    · refine (congrArg (done s) (show wipeDone s = s from ?_)).trans (done_self s)
      unfold wipeDone
      rw [clean]
      rfl
    case wiped =>
      have entries (k : Nat) : rd (pkeWipe { s with pke := { s.pke with wiping := false } }) k = rd s k := rfl
      have bytes (a : Nat) : rdByte (pkeWipe { s with pke := { s.pke with wiping := false } }) a =
        if Mem.pke 0 ≤ a ∧ a < Mem.pke 16384 then 0 else rdByte s a := rdByte_zeroFill ..
      have runs : exec .pkeWipeDone s = done s (if rd s E.pke_job_state = 2
          then wr (pkeWipe { s with pke := { s.pke with wiping := false } }) E.pke_job_state 3
          else pkeWipe { s with pke := { s.pke with wiping := false } }) := by
        refine congrArg (done s) ?_
        unfold wipeDone
        rw [dirty]
        rfl
      generalize wiped_ : pkeWipe { s with pke := { s.pke with wiping := false } } = u at entries bytes runs
      have clean : u.pke.wiping = false := by rw [← wiped_]; rfl
      refine leads_of_done runs ⟨?_, fun o inside => ?_, ?_, fun b far => ?_⟩
      · split <;> exact clean
      · have zero := bytes (Mem.pke o)
        rw [if_pos (by unfold Mem.pke; omega)] at zero
        split <;> exact zero
      · split
        · exact rd_wr_same u E.pke_job_state 3
        · exact entries _
      · have same := bytes b
        rw [if_neg (by omega)] at same
        split <;> exact same
    case tests =>
      obtain ⟨refused, accepted⟩ := pkeSelftest_cases serves
      refine ⟨refused, fun known => ?_⟩
      have after := PowerOnly.wakeDomain (d := 39) (by decide) (testing s)
      have state : rd (wakeDomain (testing s) 39) E.pke_state = 1 :=
        (after.entries _ (by decide)).trans
          ((rd_wr_other (wr s E.pke_state 1) (show E.pke_state ≠ E.pke_selftest_status by decide) 1).trans (rd_wr_same s E.pke_state 1))
      have status : rd (wakeDomain (testing s) 39) E.pke_selftest_status = 1 :=
        (after.entries _ (by decide)).trans (rd_wr_same (wr s E.pke_state 1) E.pke_selftest_status 1)
      exact leads_of_accepts (P := fun t => rd t E.pke_state = 1 ∧ rd t E.pke_selftest_status = 1 ∧ t.pke.testing = true ∧ t.mem = s.mem)
        (accepted known) ⟨state, status, by rw [after.pke]; rfl, after.mem⟩ fun _ _ h => h
    case tested =>
      refine ⟨fun idle => ?_, fun ⟨runs, free, clean, on⟩ => ?_⟩
      · refine (congrArg (done s) (if_pos (by_contra fun due => idle ?_))).trans (done_self s)
        simp only [not_or, Bool.not_eq_true, Option.isSome_eq_false_iff, Option.isNone_iff_eq_none, Bool.not_eq_eq_eq_not, Bool.not_true,
          Bool.not_eq_false] at due
        exact due
      · have state : exec (.pkeSelftestDone passed) s = done s (wr (wr { s with
            pke := { s.pke with testing := false, wiping := true, faults := if passed then [] else s.pke.faults } } E.pke_state
              (if passed then 0 else 2)) E.pke_selftest_status (if passed then 2 else 3)) := by
          refine congrArg (done s) (if_neg ?_)
          simp [runs, free, clean, on]
        refine leads_of_done state ⟨?_, ?_, rfl, rfl, rfl⟩
        · refine (rd_wr_other _ (by decide) _).trans ((rd_wr_same ..).trans ?_)
          cases passed <;> rfl
        · refine (rd_wr_same ..).trans ?_
          cases passed <;> rfl

end Sys2Proof.Machine
end

section
/-! SUPPORT. Accesses to HBM, and map-outs of its pseudo-channels (R185 to R206, R209, R227, R864). -/

namespace Sys2Proof.Machine

open Sys2Proof

/-! ## The address map (R189, R192, R193) -/

theorem hbmTop_eq (m : Nat) : hbmTop m = 0x10000000 + (523264 - 1024 * m) * 524288 := by
  unfold hbmTop rowLimit
  omega

/-- What a requester may reach (R189). -/
def MayReach (s : State) (who : Requester) (w : Bool) (a n : Nat) : Prop :=
  a + n ≤ 0x10000000 + (523264 - 1024 * s.hbm.out.length) * 524288 ∧
    (a < 0x10000000 → who = .manager ∨ who = .firmware ∨ who = .windowCache ∨ who = .stitchLogic) ∧
    (0x10000000 ≤ a → a < 0x10000000 + rd s E.key_store_gib * 2 ^ 30 → who = .manager ∨ (w = false ∧ who = .keyStream))

theorem mayReach_iff (s : State) (who : Requester) (w : Bool) (a n : Nat) :
    MayReach s who w a n ↔ hbmInside s a n = true ∧ hbmAllowed s who w a = true := by
  unfold MayReach hbmInside hbmAllowed keyStoreEnd
  rw [← hbmTop_eq, decide_eq_true_eq]
  refine and_congr_right fun _ => ?_
  by_cases reserved : a < 0x10000000
  · rw [if_pos reserved]
    simp only [reserved, Nat.not_le.2 reserved, forall_const, false_imp_iff, and_true, Bool.or_eq_true, beq_iff_eq, or_assoc]
  · rw [if_neg reserved]
    by_cases key : a < 0x10000000 + rd s E.key_store_gib * 2 ^ 30
    · rw [if_pos key]
      simp only [reserved, key, Nat.not_lt.1 reserved, forall_const, false_imp_iff, true_and, Bool.or_eq_true, beq_iff_eq,
        Bool.and_eq_true, Bool.not_eq_true']
    · rw [if_neg key]
      simp only [reserved, key, false_imp_iff, implies_true, and_self]

/-- An address that the map reaches lies below the on-chip memories. -/
theorem MayReach.low {s : State} {who : Requester} {w : Bool} {a n : Nat} (h : MayReach s who w a n) : a < 2 ^ 38 := by
  have := h.1
  omega

theorem storedOnce_general (s : State) {a : Nat} (general : 0x10000000 ≤ a) : storedOnce s a = true := by
  unfold storedOnce livePlaces placesOf
  rw [if_neg (Nat.not_lt.2 general), if_neg (Nat.not_lt.2 general)]
  rfl

theorem stackAt_lt (s : State) (a : Nat) : stackAt s a < 16 := Nat.mod_lt _ (by decide)

/-! ## A pseudo-channel that goes out (R193, R200 to R205) -/

section
variable (s : State) (out : List Nat)

theorem setOut_eq : ∃ l, setOut s out = { s with hbm := { s.hbm with out := out }, dict := l } := by
  unfold setOut
  dsimp only
  generalize start : wr (wr { s with hbm := { s.hbm with out := out } } E.hbm_slots_out out.length) E.hbm_capacity_bytes _ = u
  have written : ∃ l, u = { s with hbm := { s.hbm with out := out }, dict := l } := ⟨_, start.symm⟩
  clear start
  generalize List.range 32 = is
  induction is generalizing u with
  | nil => exact written
  | cons i is ih =>
    obtain ⟨l, rfl⟩ := written
    exact ih _ ⟨_, rfl⟩

/-- Entries that a list of writes does not name are as they were. -/
theorem rd_foldl_wr {l : List Nat} {key val : Nat → Nat} {k : Nat} (far : ∀ i ∈ l, k ≠ key i) (u : State) :
    rd (l.foldl (fun t i => wr t (key i) (val i)) u) k = rd u k :=
  foldl_keeps_of_mem (rd · k) (fun i member t => rd_wr_other t (far i member) _) u

theorem rd_setOut {k : Nat} (far : ∀ i < 32, k ≠ E.hbm_mapped_out + i) (slots : k ≠ E.hbm_slots_out) (capacity : k ≠ E.hbm_capacity_bytes) :
    rd (setOut s out) k = rd s k := by
  unfold setOut
  dsimp only
  rw [rd_foldl_wr fun i member => far i (List.mem_range.1 member), rd_wr_other _ capacity, rd_wr_other _ slots]
  rfl

theorem rd_setOut_slots : rd (setOut s out) E.hbm_slots_out = cut E.hbm_slots_out out.length := by
  unfold setOut
  dsimp only
  rw [rd_foldl_wr (by decide), rd_wr_other _ (by decide), rd_wr_same]
  rfl

theorem rd_setOut_capacity : rd (setOut s out) E.hbm_capacity_bytes =
    cut E.hbm_capacity_bytes (0x10000000 + (523264 - 1024 * out.length) * 524288) := by
  unfold setOut
  dsimp only
  rw [rd_foldl_wr (by decide), rd_wr_same]
  rfl

end

theorem rd_bootLog (s : State) (event kind status block : Nat) (detail : List Byte) (k : Nat) :
    rd (bootLog s event kind status block detail) k = rd s k := rfl

theorem rd_goOutOfService {k : Nat} (service : k ≠ E.out_of_service) (cause : k ≠ E.oos_cause) (alert : k ≠ E.alert_status) (s : State)
    (c : Nat) : rd (goOutOfService s c) k = rd s k := by
  unfold goOutOfService
  rw [rd_bootLog, rd_setAlert_other _ alert, rd_wr_other _ cause, rd_wr_other _ service]

theorem rd_goOutOfService_service (s : State) (c : Nat) : rd (goOutOfService s c) E.out_of_service = 1 := by
  unfold goOutOfService
  rw [rd_bootLog, rd_setAlert_other _ (by decide), rd_wr_other _ (by decide)]
  exact rd_wr_same ..

theorem rd_goOutOfService_cause (s : State) (c : Nat) : rd (goOutOfService s c) E.oos_cause = cut E.oos_cause c := by
  unfold goOutOfService
  rw [rd_bootLog, rd_setAlert_other _ (by decide)]
  exact rd_wr_same ..

theorem goOutOfService_hbm (s : State) (c : Nat) : (goOutOfService s c).hbm = s.hbm :=
  (hbm_of_still (still_setAlert (wr (wr s E.out_of_service 1) E.oos_cause c) 64)).trans rfl

/-- Out of service, the boot log gains a record and no other byte changes. -/
theorem rdByte_goOutOfService (s : State) (c : Nat) {a : Nat} (low : a < 2 ^ 44) : rdByte (goOutOfService s c) a = rdByte s a := by
  unfold goOutOfService bootLog
  refine (rdByte_wrBytes ..).trans ((if_neg ?_).trans ?_)
  · unfold Mem.flash
    omega
  · exact congrArg (Tab.get 0 · a) (mem_of_still (still_setAlert ..))

section
variable (s : State) (pc : Nat)

/-- A forced map-out counts, loses the bytes from lo up to hi, and alerts. -/
def forcedFrom (u : State) (lo hi flags : Nat) : State :=
  wr (zeroFill (inc u E.hbm_forced_mapout_count) lo hi) E.hbm_alert_flags (rd (inc u E.hbm_forced_mapout_count) E.hbm_alert_flags ||| flags)

/-- The machine once a slot is marked lost, and out. -/
def slotLost : State :=
  setOut { s with hbm := { s.hbm with lost := ⟨slotOfPc pc, s.hbm.out, []⟩ :: s.hbm.lost } } (insertSlot (slotOfPc pc) s.hbm.out)

/-- What the flags gain of a forced map-out: bit 1, and bit 2 when it reaches allocated space (R204). -/
def forcedFlags : Nat :=
  if hbmTop (s.hbm.out.length + 1) < allocEnd (zeroFill (inc (slotLost s pc) E.hbm_forced_mapout_count) (Mem.hbm (hbmTop (s.hbm.out.length + 1)))
    (Mem.hbm (hbmTop s.hbm.out.length))) then 6 else 2

/-- The machine once a pseudo-channel is forced out. -/
def forcedOut : State := forcedFrom (slotLost s pc) (hbmTop (s.hbm.out.length + 1)) (hbmTop s.hbm.out.length) (forcedFlags s pc)

theorem rd_forcedFrom {u : State} {k : Nat} (count : k ≠ E.hbm_forced_mapout_count) (flags : k ≠ E.hbm_alert_flags) (lo hi v : Nat) :
    rd (forcedFrom u lo hi v) k = rd u k := (rd_wr_other _ flags _).trans (rd_inc_other u count)

theorem rd_slotLost {k : Nat} (far : ∀ i < 32, k ≠ E.hbm_mapped_out + i) (slots : k ≠ E.hbm_slots_out) (capacity : k ≠ E.hbm_capacity_bytes) :
    rd (slotLost s pc) k = rd s k := rd_setOut _ _ far slots capacity

variable {s pc}

theorem forcedMapOut_known (out : slotOfPc pc ∈ s.hbm.out) : forcedMapOut s pc = s := by
  unfold forcedMapOut
  dsimp only
  rw [if_pos (List.contains_iff_mem.2 out)]

theorem forcedMapOut_full (live : slotOfPc pc ∉ s.hbm.out) (full : s.hbm.out.length = 32) :
    forcedMapOut s pc = wr s E.hbm_alert_flags (rd s E.hbm_alert_flags ||| 1) := by
  unfold forcedMapOut
  dsimp only
  rw [if_neg (by rw [List.contains_iff_mem]; exact live), if_pos full]

theorem forcedMapOut_eq (live : slotOfPc pc ∉ s.hbm.out) (room : s.hbm.out.length ≠ 32) : forcedMapOut s pc =
    if partnerOut s (slotOfPc pc) then goOutOfService (forcedOut s pc) 2 else forcedOut s pc := by
  unfold forcedMapOut
  dsimp only
  rw [if_neg (by rw [List.contains_iff_mem]; exact live), if_neg room]
  rfl

variable (s pc)

theorem forcedFrom_eq (u : State) (lo hi v : Nat) : ∃ l, forcedFrom u lo hi v = { zeroFill u lo hi with dict := l } := ⟨_, rfl⟩

theorem forcedOut_eq : ∃ l, forcedOut s pc = { zeroFill s (hbmTop (s.hbm.out.length + 1)) (hbmTop s.hbm.out.length) with
    hbm := { s.hbm with lost := ⟨slotOfPc pc, s.hbm.out, []⟩ :: s.hbm.lost, out := insertSlot (slotOfPc pc) s.hbm.out }, dict := l } := by
  obtain ⟨l, same⟩ := setOut_eq { s with hbm := { s.hbm with lost := ⟨slotOfPc pc, s.hbm.out, []⟩ :: s.hbm.lost } }
    (insertSlot (slotOfPc pc) s.hbm.out)
  unfold forcedOut
  obtain ⟨l', same'⟩ := forcedFrom_eq (slotLost s pc) (hbmTop (s.hbm.out.length + 1)) (hbmTop s.hbm.out.length) (forcedFlags s pc)
  rw [same', slotLost, same]
  exact ⟨l', rfl⟩

theorem rd_forcedOut {k : Nat} (far : ∀ i < 32, k ≠ E.hbm_mapped_out + i) (slots : k ≠ E.hbm_slots_out) (capacity : k ≠ E.hbm_capacity_bytes)
    (count : k ≠ E.hbm_forced_mapout_count) (flags : k ≠ E.hbm_alert_flags) : rd (forcedOut s pc) k = rd s k :=
  (rd_forcedFrom count flags ..).trans (rd_slotLost s pc far slots capacity)

theorem rd_forcedMapOut {k : Nat} (far : ∀ i < 32, k ≠ E.hbm_mapped_out + i) (slots : k ≠ E.hbm_slots_out)
    (capacity : k ≠ E.hbm_capacity_bytes) (count : k ≠ E.hbm_forced_mapout_count) (flags : k ≠ E.hbm_alert_flags)
    (service : k ≠ E.out_of_service) (cause : k ≠ E.oos_cause) (alert : k ≠ E.alert_status) : rd (forcedMapOut s pc) k = rd s k := by
  by_cases out : slotOfPc pc ∈ s.hbm.out
  · rw [forcedMapOut_known out]
  · by_cases full : s.hbm.out.length = 32
    · rw [forcedMapOut_full out full]
      exact rd_wr_other _ flags _
    · rw [forcedMapOut_eq out full]
      split
      · rw [rd_goOutOfService service cause alert, rd_forcedOut s pc far slots capacity count flags]
      · exact rd_forcedOut s pc far slots capacity count flags

end

/-! ## Events of a read or a write (R186, R200, R864) -/

/-- The uncorrectable events of the pseudo-channel of address a, with one more, are fewer than force it out. -/
def StaysIn (s : State) (a : Nat) : Prop := (Tab.get [] s.hbm.ues (pcOfSlot (slotAt s.hbm.out a))).length + 1 < rd s E.hbm_ue_threshold

section
variable {s : State} {a : Nat}

/-- The machine once an uncorrectable event has counted for its stack. -/
def ueCounted (s : State) (a : Nat) : State := inc s (E.hbm_ue_count + stackAt s a)

theorem countUe_kept (few : StaysIn s a) : ∃ v, countUe s a = { ueCounted s a with hbm := { s.hbm with ues := v } } := by
  have notFull : ¬rd s E.hbm_ue_threshold ≤ (now s :: (Tab.get [] s.hbm.ues (pcOfSlot (slotAt s.hbm.out a))).filter
      fun t => decide (now s < t + 2160000000000)).length := by
    have short := List.length_filter_le (fun t => decide (now s < t + 2160000000000))
      (Tab.get [] s.hbm.ues (pcOfSlot (slotAt s.hbm.out a)))
    unfold StaysIn at few
    rw [List.length_cons]
    omega
  unfold countUe
  dsimp only
  rw [decide_eq_false notFull, if_neg (by decide)]
  exact ⟨_, rfl⟩

/-- An uncorrectable event counts, whether it forces its pseudo-channel out or not. -/
theorem rd_countUe : rd (countUe s a) (E.hbm_ue_count + stackAt s a) =
    cut (E.hbm_ue_count + stackAt s a) (rd s (E.hbm_ue_count + stackAt s a) + 1) := by
  have low := stackAt_lt s a
  unfold countUe
  dsimp only
  split
  · unfold forceMapOut
    split
    · exact rd_inc_same s (E.hbm_ue_count + stackAt s a)
    · rw [rd_forcedMapOut]
      · exact rd_inc_same s (E.hbm_ue_count + stackAt s a)
      · intro i known
        simp only [E.hbm_ue_count, E.hbm_mapped_out]
        omega
      all_goals
        simp only [E.hbm_ue_count, E.hbm_slots_out, E.hbm_capacity_bytes, E.hbm_forced_mapout_count, E.hbm_alert_flags, E.out_of_service,
          E.oos_cause, E.alert_status]
        omega
  · exact rd_inc_same s (E.hbm_ue_count + stackAt s a)

end

section
variable {s : State} {who : Requester} {a n : Nat} {ecc : Ecc} {full : Bool}

theorem hbmRead_refused (may : ¬MayReach s who false a n) : hbmRead s who a n ecc full = emit s (.status 0x0302 false []) := by
  refine if_pos ?_
  rw [mayReach_iff, not_and_or, Bool.not_eq_true, Bool.not_eq_true] at may
  rcases may with out | barred
  · rw [out]; rfl
  · rw [barred, Bool.not_false, Bool.or_true]

/-- The machine once a read has counted a full receive FIFO. -/
def fifoCounted (s : State) (full : Bool) : State := if full then inc s E.boundary_overflow_count else s

theorem hbmRead_eq (may : MayReach s who false a n) : hbmRead s who a n ecc full =
    answerStatus (noteEcc (fifoCounted s full) a ecc) (hbmStatus s a n ecc).1 (hbmStatus s a n ecc).2 (hbmBytes s a n) := by
  obtain ⟨inside, allowed⟩ := (mayReach_iff ..).1 may
  refine if_neg ?_
  rw [inside, allowed]
  decide

theorem fifoCounted_eq : ∃ l, fifoCounted s full = { s with dict := l } := by
  unfold fifoCounted
  split <;> exact ⟨_, rfl⟩

theorem rd_fifoCounted {k : Nat} (other : k ≠ E.boundary_overflow_count) : rd (fifoCounted s full) k = rd s k := by
  unfold fifoCounted
  split
  · exact rd_inc_other _ other
  · rfl

/-- The events of a read that force no pseudo-channel out count in the dictionary and in the record of events. -/
theorem noteEcc_kept (kept : ecc = .uncorrectable → StaysIn s a) : ∃ l v, noteEcc s a ecc = { s with dict := l, hbm := { s.hbm with ues := v } } := by
  cases ecc with
  | clean => exact ⟨s.dict, s.hbm.ues, rfl⟩
  | corrected => exact ⟨_, s.hbm.ues, rfl⟩
  | uncorrectable =>
    unfold noteEcc
    dsimp only
    split
    · obtain ⟨v, counted⟩ := countUe_kept (kept rfl)
      rw [counted]
      exact ⟨_, v, rfl⟩
    · exact ⟨s.dict, s.hbm.ues, rfl⟩

/-- The answer of a read (R186, R194, R202). -/
theorem status_hbm (d : List Byte) : Out.status (hbmStatus s a n ecc).1 (hbmStatus s a n ecc).2 d =
    if (ecc = .uncorrectable ∧ storedOnce s a = true) ∨ poisoned s a n = true then .status 0x0303 true d
    else if lostAt s a n then .status 0x0304 true d else .status 0 false d := by
  unfold hbmStatus Mem.hbm
  by_cases bad : (ecc = .uncorrectable ∧ storedOnce s a = true) ∨ poisoned s a n = true
  · rw [if_pos bad, if_pos bad]
  · rw [if_neg bad, if_neg bad]
    split <;> rfl

variable {d : List Byte}

theorem hbmPartialWrite_refused (may : ¬MayReach s who true a d.length) : hbmPartialWrite s who a d ecc = emit s (.status 0x0302 false []) := by
  refine if_pos ?_
  rw [mayReach_iff, not_and_or, Bool.not_eq_true, Bool.not_eq_true] at may
  rcases may with out | barred
  · rw [out]; rfl
  · rw [barred, Bool.not_false, Bool.or_true]

/-- The events of a write. -/
def noteWrite (s : State) (a : Nat) : Ecc → State
  | .clean => s
  | .corrected => inc s (E.hbm_corrected_count + stackAt s a)
  | .uncorrectable => countUe (if storedOnce s a then mark s (Mem.hbm a) else s) a

theorem hbmPartialWrite_eq (may : MayReach s who true a d.length) :
    hbmPartialWrite s who a d ecc = answerStatus (noteWrite (hbmStore s a d) a ecc) 0 false [] := by
  obtain ⟨inside, allowed⟩ := (mayReach_iff ..).1 may
  refine (if_neg ?_).trans ?_
  · rw [inside, allowed]
    decide
  · cases ecc <;> rfl

/-- A store leaves the slots that are out, and the record of events. -/
theorem hbmStore_records (s : State) (a : Nat) (d : List Byte) : (hbmStore s a d).hbm.out = s.hbm.out ∧ (hbmStore s a d).hbm.ues = s.hbm.ues := by
  unfold hbmStore clearLost
  dsimp only
  split
  · split <;> exact ⟨rfl, rfl⟩
  · exact ⟨rfl, rfl⟩

theorem stackAt_congr {t : State} (same : t.hbm.out = s.hbm.out) (a : Nat) : stackAt t a = stackAt s a := by unfold stackAt; rw [same]

theorem storedOnce_congr {t : State} (same : t.hbm.out = s.hbm.out) (a : Nat) : storedOnce t a = storedOnce s a := by unfold storedOnce; rw [same]

/-- What a table gives, if not by default, it lists. -/
theorem mem_of_find? {α : Type} {t : Tab α} {k : Nat} {v : α} (found : t.find? k = some v) : (k, v) ∈ t := by
  induction t with
  | nil => exact absurd found nofun
  | cons e t ih =>
    unfold Tab.find? at found
    split at found
    next here => exact Option.some.inj found ▸ here ▸ .head _
    next => exact .tail _ (ih found)

/-- The word at an address of HBM that is marked is poisoned. -/
theorem poisoned_mark (low : a < 2 ^ 38) : poisoned (mark s a) a 1 = true := by
  have word {k : Nat} (below : k < 2 ^ 38) : wordBytes s k = 32 := by
    unfold wordBytes inA
    rw [decide_eq_false (show ¬(2 ^ 39 ≤ k ∧ k < 2 ^ 40) by omega)]
    exact if_neg (by simp; omega)
  have start : a - a % 32 < 2 ^ 38 := by omega
  have marked : (a - a % 32, true) ∈ (mark s a).poison := by
    refine mem_of_find? ?_
    have set_ : Tab.get false (mark s a).poison (a - a % 32) = true := by
      unfold mark
      rw [word low]
      exact Tab.get_set_same false s.poison (a - a % 32) true
    unfold Tab.get at set_
    cases found : Tab.find? (mark s a).poison (a - a % 32) with
    | none => rw [found] at set_; exact absurd set_ (by decide)
    | some v => rw [found] at set_; exact congrArg some set_
  unfold poisoned
  rw [List.any_eq_true]
  refine ⟨_, marked, decide_eq_true ⟨by dsimp only; omega, ?_⟩⟩
  rw [show wordBytes (mark s a) (a - a % 32) = 32 from word start]
  omega

/-- A granule that is written whole is marked lost no more (R202). -/
theorem lostAt_hbmStore (general : 0x10000000 ≤ a) (aligned : a % 1024 = 0) (whole : d.length = 1024) :
    lostAt (hbmStore s a d) a 1024 = false := by
  have one : (a + 1024 - 1) / 1024 + 1 - a / 1024 = 1 := by omega
  have lo : (a - 0x10000000 + 1023) / 1024 = (a - 0x10000000) / 1024 := by omega
  have hi : (a - 0x10000000 + 1024) / 1024 = (a - 0x10000000) / 1024 + 1 := by omega
  unfold lostAt
  rw [one, decide_eq_true general, Bool.true_and, List.any_eq_false]
  intro i member
  obtain rfl : i = 0 := by simpa using member
  unfold hbmStore clearLost lostGranule
  rw [whole, if_pos general, lo, hi, if_pos (Nat.lt_succ_self _), Bool.not_eq_true, List.any_eq_false]
  intro l inside
  obtain ⟨q, -, rfl⟩ := List.mem_map.1 inside
  simp

end

/-- The machine as a write's event finds it. -/
def marked (s : State) (a : Nat) : State := if storedOnce s a then mark s a else s

theorem marked_eq (s : State) (a : Nat) : ∃ p, marked s a = { s with poison := p } := by
  unfold marked
  split <;> exact ⟨_, rfl⟩

/-- The events of a write that force no pseudo-channel out. -/
theorem noteWrite_kept {s : State} {a : Nat} {ecc : Ecc} (kept : ecc = .uncorrectable → StaysIn (marked s a) a) :
    ∃ l p v, noteWrite s a ecc = { s with dict := l, poison := p, hbm := { s.hbm with ues := v } } ∧
      (ecc = .uncorrectable → p = (marked s a).poison) := by
  cases ecc with
  | clean => exact ⟨s.dict, s.poison, s.hbm.ues, rfl, nofun⟩
  | corrected => exact ⟨_, s.poison, s.hbm.ues, rfl, nofun⟩
  | uncorrectable =>
    obtain ⟨v, counted⟩ := countUe_kept (kept rfl)
    obtain ⟨p, same⟩ := marked_eq s a
    have split : noteWrite s a .uncorrectable = countUe (marked s a) a := rfl
    refine ⟨(ueCounted (marked s a) a).dict, p, v, ?_, fun _ => by rw [same]⟩
    rw [split, counted, same]
    rfl

/-- Settles O28: an access is refused, or is one read or one store and its events. -/
theorem hbmAccesses : Obligations.HbmAccesses := by
  unfold Obligations.HbmAccesses
  intro s who a ecc
  dsimp only
  intro slots
  refine ⟨fun n full may => ?_, fun d may => ?_, storedOnce_general s, fun n full may => ?read, fun d may => ?write⟩
  · exact congrArg (done s) (hbmRead_refused may)
  · exact congrArg (done s) (hbmPartialWrite_refused may)
  case read =>
    obtain ⟨l, counted⟩ := fifoCounted_eq (s := s) (full := full)
    refine leads_of_done (congrArg (done s) (hbmRead_eq may)) ⟨fun high => ?_, fun kept => ?_, ?_, fun once event => ?_⟩
    · exact if_neg fun both => Nat.not_lt.2 high both.1
    · have few : ecc = .uncorrectable → StaysIn (fifoCounted s full) a := by
        intro event
        unfold StaysIn
        rw [rd_fifoCounted (by decide), counted]
        exact kept event
      obtain ⟨l', v, noted⟩ := noteEcc_kept few
      rw [noted, counted]
      exact ⟨rfl, rfl, rfl⟩
    · exact congrArg some (status_hbm ..)
    · have same : (fifoCounted s full).hbm.out = s.hbm.out := by rw [counted]
      have old : rd (fifoCounted s full) (E.hbm_ue_count + stackAt s a) = rd s (E.hbm_ue_count + stackAt s a) := by
        refine rd_fifoCounted ?_
        simp only [E.hbm_ue_count, E.boundary_overflow_count]
        omega
      have event_ : noteEcc (fifoCounted s full) a ecc = countUe (fifoCounted s full) a := by
        rw [event]
        exact if_pos ((storedOnce_congr same a).trans once)
      have count := rd_countUe (s := fifoCounted s full) (a := a)
      rw [stackAt_congr same, old] at count
      rw [event_]
      exact count
  case write =>
    obtain ⟨out, ues⟩ := hbmStore_records s a d
    obtain ⟨v, stored⟩ := hbmStore_eq (s := s) a d
    refine leads_of_done (congrArg (done s) (hbmPartialWrite_eq may)) ⟨fun kept => ?_, fun event => ?_⟩
    · have few : ecc = .uncorrectable → StaysIn (marked (hbmStore s a d) a) a := by
        intro event
        obtain ⟨p, same⟩ := marked_eq (hbmStore s a d) a
        unfold StaysIn
        rw [same]
        change (Tab.get [] (hbmStore s a d).hbm.ues (pcOfSlot (slotAt (hbmStore s a d).hbm.out a))).length + 1 < rd (hbmStore s a d) _
        rw [out, ues, rd_hbmStore]
        exact kept event
      obtain ⟨l, p, w, noted, poison⟩ := noteWrite_kept few
      rw [noted]
      refine ⟨?_, fun b far => ?_, ?_, fun event once => ?_, fun general aligned whole => lostAt_hbmStore general aligned whole⟩
      · exact rdBytes_hbmStore s a d
      · rw [stored]
        exact (rdByte_wrBytes s a d b).trans (if_neg (by omega))
      · rw [stored]
        rfl
      · have isMarked : marked (hbmStore s a d) a = mark (hbmStore s a d) a := if_pos ((storedOnce_congr out a).trans once)
        rw [poison event, isMarked]
        exact poisoned_mark (MayReach.low may)
    · obtain ⟨p, same⟩ := marked_eq (hbmStore s a d) a
      have count := rd_countUe (s := marked (hbmStore s a d) a) (a := a)
      have outs : (marked (hbmStore s a d) a).hbm.out = s.hbm.out := by rw [same]; exact out
      have old : rd (marked (hbmStore s a d) a) (E.hbm_ue_count + stackAt s a) = rd s (E.hbm_ue_count + stackAt s a) := by
        rw [same]
        exact rd_hbmStore ..
      rw [stackAt_congr outs, old] at count
      have split : noteWrite (hbmStore s a d) a .uncorrectable = countUe (marked (hbmStore s a d) a) a := rfl
      rw [event, split]
      generalize countUe (marked (hbmStore s a d) a) a = u at count ⊢
      exact count

/-! ## Planned map-outs (R196, R206, R209, R227) -/

theorem writable_hbmMapoutCmd : Writable E.hbm_mapout_cmd ⟨0x3003, 1, 1, 1, 2, 2, .cmd, 1, false, 0⟩ :=
  ⟨by decide, by decide, by decide, by decide, by decide⟩

theorem writable_hbmMapinCmd : Writable E.hbm_mapin_cmd ⟨0x3003, 1, 2, 2, 2, 2, .cmd, 1, false, 0⟩ :=
  ⟨by decide, by decide, by decide, by decide, by decide⟩

section
variable {s : State} {via : Path} {pc : Nat} (small : pc < 512)
include small

theorem leNat_pc : leNat (leBytes 2 pc) = pc := leNat_value (show pc < 256 ^ 2 by omega)

/-- Both commands take a number of 9 bits, on an idle unit. -/
theorem hbmMapout_cases (serves : Serves s E.hbm_mapout_cmd) :
    (s.hbm.op ≠ none → exec (.hbmMapout via (leBytes 2 pc)) s = .next (ended s E.hbm_mapout_cmd 5)) ∧
    (s.hbm.op = none → (mapOut s pc).pending = s.pending → Accepts (.hbmMapout via (leBytes 2 pc)) s E.hbm_mapout_cmd (mapOut s pc)) := by
  have open_ : ¬HeldBack s via ⟨0x3003, 1, 1, 1, 2, 2, .cmd, 1, false, 0⟩ mapOutSem := not_heldBack (by decide) rfl
  have good : ¬(((⟨0x3003, 1, 1, 1, 2, 2, .cmd, 1, false, 0⟩ : DRow).typ = 7 ∧ 2 ≤ leNat (leBytes 2 pc)) ∨
      mapOutSem.rule s (leNat (leBytes 2 pc)) = false) := by
    rw [leNat_pc small]
    rintro (⟨typ, -⟩ | fails)
    · exact absurd typ (by decide)
    · exact absurd ((decide_eq_true small).symm.trans fails) (by decide)
  refine ⟨fun busy => exec_notIdle rfl serves writable_hbmMapoutCmd open_ rfl good ?_, fun idle queue =>
    exec_accepted rfl serves writable_hbmMapoutCmd open_ rfl good ?_ ?_ queue⟩
  · change (!s.hbm.op.isSome) = false
    rw [Option.isSome_iff_ne_none.2 busy]
    rfl
  · change (!s.hbm.op.isSome) = true
    rw [idle]
    rfl
  · rw [told_device (by decide), leNat_pc small]
    rfl

theorem hbmMapin_cases (serves : Serves s E.hbm_mapin_cmd) :
    (s.hbm.op ≠ none → exec (.hbmMapin via (leBytes 2 pc)) s = .next (ended s E.hbm_mapin_cmd 5)) ∧
    (s.hbm.op = none → (mapIn s pc).pending = s.pending → Accepts (.hbmMapin via (leBytes 2 pc)) s E.hbm_mapin_cmd (mapIn s pc)) := by
  have open_ : ¬HeldBack s via ⟨0x3003, 1, 2, 2, 2, 2, .cmd, 1, false, 0⟩ mapInSem := not_heldBack (by decide) rfl
  have good : ¬(((⟨0x3003, 1, 2, 2, 2, 2, .cmd, 1, false, 0⟩ : DRow).typ = 7 ∧ 2 ≤ leNat (leBytes 2 pc)) ∨
      mapInSem.rule s (leNat (leBytes 2 pc)) = false) := by
    rw [leNat_pc small]
    rintro (⟨typ, -⟩ | fails)
    · exact absurd typ (by decide)
    · exact absurd ((decide_eq_true small).symm.trans fails) (by decide)
  refine ⟨fun busy => exec_notIdle rfl serves writable_hbmMapinCmd open_ rfl good ?_, fun idle queue =>
    exec_accepted rfl serves writable_hbmMapinCmd open_ rfl good ?_ ?_ queue⟩
  · change (!s.hbm.op.isSome) = false
    rw [Option.isSome_iff_ne_none.2 busy]
    rfl
  · change (!s.hbm.op.isSome) = true
    rw [idle]
    rfl
  · rw [told_device (by decide), leNat_pc small]
    rfl

end

section
variable {s : State} {pc : Nat}

theorem mapOut_known (out : slotOfPc pc ∈ s.hbm.out) : mapOut s pc = wr s E.hbm_mapout_status 3 := by
  unfold mapOut
  dsimp only
  rw [if_pos (List.contains_iff_mem.2 out)]

variable (live : slotOfPc pc ∉ s.hbm.out)
include live

theorem not_contains_of_live : ¬s.hbm.out.contains (slotOfPc pc) = true := by rw [List.contains_iff_mem]; exact live

theorem mapOut_full (full : s.hbm.out.length = 32) : mapOut s pc = wr s E.hbm_mapout_status 4 := by
  unfold mapOut
  dsimp only
  rw [if_neg (not_contains_of_live live), if_pos full]

variable (room : s.hbm.out.length ≠ 32)
include room

theorem mapOut_partner (partner : partnerOut s (slotOfPc pc) = true) : mapOut s pc = wr s E.hbm_mapout_status 5 := by
  unfold mapOut
  dsimp only
  rw [if_neg (not_contains_of_live live), if_neg room, if_pos partner]

variable (alone : ¬partnerOut s (slotOfPc pc) = true)
include alone

theorem mapOut_allocated (used : hbmTop (s.hbm.out.length + 1) < allocEnd s) : mapOut s pc = wr s E.hbm_mapout_status 6 := by
  unfold mapOut
  dsimp only
  rw [if_neg (not_contains_of_live live), if_neg room, if_neg alone, if_pos used]

theorem mapOut_starts (free : ¬hbmTop (s.hbm.out.length + 1) < allocEnd s) :
    mapOut s pc = wr { s with hbm := { s.hbm with op := some (.mapOut pc) } } E.hbm_mapout_status 1 := by
  unfold mapOut
  dsimp only
  rw [if_neg (not_contains_of_live live), if_neg room, if_neg alone, if_neg free]

end

section
variable {s : State} {pc : Nat}

theorem mapIn_live (live : slotOfPc pc ∉ s.hbm.out) : mapIn s pc = wr s E.hbm_mapout_status 3 := by
  unfold mapIn
  rw [Bool.eq_false_iff.2 (not_contains_of_live live)]
  rfl

theorem mapIn_untested (out : slotOfPc pc ∈ s.hbm.out) (untested : ∀ r, Tab.get none s.hbm.tested pc ≠ some (true, r)) :
    mapIn s pc = wr s E.hbm_mapout_status 7 := by
  unfold mapIn
  rw [List.contains_iff_mem.2 out, if_neg (by decide), if_pos]
  intro passed
  obtain ⟨⟨p, r⟩, known, rfl⟩ := Option.map_eq_some_iff.1 passed
  exact untested r known

theorem mapIn_starts (out : slotOfPc pc ∈ s.hbm.out) {r : List Nat} (tested : Tab.get none s.hbm.tested pc = some (true, r)) :
    mapIn s pc = wr { s with hbm := { s.hbm with op := some (.mapIn pc) } } E.hbm_mapout_status 1 := by
  unfold mapIn
  rw [List.contains_iff_mem.2 out, if_neg (by decide), tested, if_neg (by simp)]

end

/-! ## The ends of migrations, and forced map-outs (R197 to R206, R209) -/

theorem partnerOut_iff (s : State) (l : Nat) : partnerOut s l = true ↔ (l + 8) % 512 ∈ s.hbm.out ∨ (l + 504) % 512 ∈ s.hbm.out := by
  unfold partnerOut
  rw [Bool.or_eq_true, List.contains_iff_mem, List.contains_iff_mem]

/-- The end of allocated space does not depend on the slots that are out. -/
theorem allocEnd_congr {s t : State} (keyStore : rd t E.key_store_gib = rd s E.key_store_gib)
    (parts : ∀ p < 32, rd t (E.part_state + 256 * p) = rd s (E.part_state + 256 * p) ∧
      rd t (E.part_hbm_base + 256 * p) = rd s (E.part_hbm_base + 256 * p) ∧
      rd t (E.part_hbm_bytes + 256 * p) = rd s (E.part_hbm_bytes + 256 * p)) : allocEnd t = allocEnd s := by
  unfold allocEnd
  rw [keyStore]
  refine List.foldl_ext _ _ _ fun e p member => ?_
  obtain ⟨state, base, bytes⟩ := parts p (List.mem_range.1 member)
  unfold assigned partEnd
  rw [state, base, bytes]

/-- The migration that leaves the machine u reports its end. -/
def reported (u : State) : State := { wr u E.hbm_mapout_status 2 with hbm := { u.hbm with op := none, waiting := [] } }

theorem rd_reported {k : Nat} (other : k ≠ E.hbm_mapout_status) (u : State) : rd (reported u) k = rd u k := rd_wr_other u other 2

theorem rdByte_reported (u : State) (a : Nat) : rdByte (reported u) a = rdByte u a := by
  unfold rdByte
  rfl

theorem rd_reported_status (u : State) : rd (reported u) E.hbm_mapout_status = 2 := rd_wr_same u E.hbm_mapout_status 2

/-- The machine at the end of a migration that leaves these slots out. -/
def ending (s : State) (out : List Nat) : State := reported (setOut s out)

theorem ending_eq (s : State) (out : List Nat) : (ending s out).hbm.op = none ∧ (ending s out).mem = s.mem := by
  obtain ⟨l, same⟩ := setOut_eq s out
  unfold ending reported
  rw [same]
  exact ⟨rfl, rfl⟩

/-- What the machine says of a list of slots that are out (R193, R226). -/
def TellsOut (t : State) (out : List Nat) : Prop :=
  t.hbm.out = out ∧ rd t E.hbm_slots_out = cut E.hbm_slots_out out.length ∧
    rd t E.hbm_capacity_bytes = cut E.hbm_capacity_bytes (0x10000000 + (523264 - 1024 * out.length) * 524288)

theorem tells_setOut (s : State) (out : List Nat) : TellsOut (setOut s out) out := by
  refine ⟨?_, rd_setOut_slots s out, rd_setOut_capacity s out⟩
  obtain ⟨l, same⟩ := setOut_eq s out
  rw [same]

theorem tells_reported {u : State} {out : List Nat} (h : TellsOut u out) : TellsOut (reported u) out :=
  ⟨h.1, (rd_reported (by decide) u).trans h.2.1, (rd_reported (by decide) u).trans h.2.2⟩

theorem endHbmOp_reported {u : State} (none_ : u.hbm.waiting = []) : endHbmOp (wr u E.hbm_mapout_status 2) = reported u :=
  endHbmOp_eq (wr u E.hbm_mapout_status 2) none_

theorem waiting_setOut (s : State) (out : List Nat) : (setOut s out).hbm.waiting = s.hbm.waiting := by
  obtain ⟨l, same⟩ := setOut_eq s out
  rw [same]

theorem migrationDone_mapOut {s : State} {pc : Nat} (op : s.hbm.op = some (.mapOut pc)) (none_ : s.hbm.waiting = []) :
    migrationDone s = ending s (insertSlot (slotOfPc pc) s.hbm.out) := by
  unfold migrationDone
  rw [op]
  exact endHbmOp_reported ((waiting_setOut ..).trans none_)

/-- The bytes from lo up to hi are zero again, and no granule of g up to h is marked lost. -/
def cleared (u : State) (lo hi g h : Nat) : State := clearLost (zeroFill u lo hi) g h

theorem cleared_eq (u : State) (lo hi g h : Nat) : ∃ l, cleared u lo hi g h = { zeroFill u lo hi with hbm := { u.hbm with lost := l } } := by
  unfold cleared clearLost
  split
  · exact ⟨_, rfl⟩
  · exact ⟨u.hbm.lost, rfl⟩

theorem tells_cleared {u : State} {out : List Nat} (h : TellsOut u out) (lo hi g g' : Nat) : TellsOut (cleared u lo hi g g') out := by
  obtain ⟨l, same⟩ := cleared_eq u lo hi g g'
  obtain ⟨slots, count, capacity⟩ := h
  rw [same]
  exact ⟨slots, count, capacity⟩

theorem waiting_cleared (u : State) (lo hi g h : Nat) : (cleared u lo hi g h).hbm.waiting = u.hbm.waiting := by
  obtain ⟨l, same⟩ := cleared_eq u lo hi g h
  rw [same]

theorem rdByte_cleared (u : State) (lo hi g h a : Nat) : rdByte (cleared u lo hi g h) a = if lo ≤ a ∧ a < hi then 0 else rdByte u a := by
  obtain ⟨l, same⟩ := cleared_eq u lo hi g h
  rw [same]
  exact rdByte_zeroFill u lo hi a

/-- The slots of a map-in's end, whose top of the address space is zero again (R206). -/
def mappedIn (s : State) (out : List Nat) (m : Nat) : State :=
  cleared (setOut s out) (hbmTop m) (hbmTop (m - 1)) ((hbmTop m - 0x10000000) / 1024) ((hbmTop (m - 1) - 0x10000000) / 1024)

theorem rdByte_mappedIn (s : State) (out : List Nat) (m a : Nat) :
    rdByte (mappedIn s out m) a = if hbmTop m ≤ a ∧ a < hbmTop (m - 1) then 0 else rdByte s a := by
  obtain ⟨k, set_⟩ := setOut_eq s out
  unfold mappedIn
  rw [rdByte_cleared, set_]
  rfl

theorem migrationDone_mapIn {s : State} {pc : Nat} (op : s.hbm.op = some (.mapIn pc)) (none_ : s.hbm.waiting = []) :
    migrationDone s = reported (mappedIn s (s.hbm.out.erase (slotOfPc pc)) s.hbm.out.length) := by
  unfold migrationDone
  rw [op]
  exact endHbmOp_reported (u := mappedIn s (s.hbm.out.erase (slotOfPc pc)) s.hbm.out.length)
    ((waiting_cleared ..).trans ((waiting_setOut ..).trans none_))

section
variable (s : State) (pc : Nat)

theorem tells_forcedFrom {u : State} {out : List Nat} (h : TellsOut u out) (lo hi v : Nat) : TellsOut (forcedFrom u lo hi v) out :=
  ⟨h.1, (rd_forcedFrom (by decide) (by decide) lo hi v).trans h.2.1, (rd_forcedFrom (by decide) (by decide) lo hi v).trans h.2.2⟩

theorem tells_forcedOut : TellsOut (forcedOut s pc) (insertSlot (slotOfPc pc) s.hbm.out) := tells_forcedFrom (tells_setOut ..) ..

theorem rd_forcedFrom_count (u : State) (lo hi v : Nat) : rd (forcedFrom u lo hi v) E.hbm_forced_mapout_count =
    cut E.hbm_forced_mapout_count (rd u E.hbm_forced_mapout_count + 1) := (rd_wr_other _ (by decide) _).trans (rd_inc_same u _)

theorem rd_forcedOut_count : rd (forcedOut s pc) E.hbm_forced_mapout_count =
    cut E.hbm_forced_mapout_count (rd s E.hbm_forced_mapout_count + 1) := by
  rw [forcedOut, rd_forcedFrom_count, rd_slotLost s pc (by decide) (by decide) (by decide)]

theorem bit_forcedFrom (u : State) (lo hi v : Nat) {i : Nat} (low : i < 32) :
    bit (rd (forcedFrom u lo hi v) E.hbm_alert_flags) i = (bit (rd u E.hbm_alert_flags) i || bit v i) := by
  have written : rd (forcedFrom u lo hi v) E.hbm_alert_flags = (rd u E.hbm_alert_flags ||| v) % 2 ^ 32 := by
    have old : rd (inc u E.hbm_forced_mapout_count) E.hbm_alert_flags = rd u E.hbm_alert_flags := rd_inc_other u (by decide)
    rw [← old]
    exact rd_wr_same (zeroFill (inc u E.hbm_forced_mapout_count) lo hi) E.hbm_alert_flags _
  rw [written, bit_mod_two_pow _ low, bit_eq_testBit, bit_eq_testBit, bit_eq_testBit, Nat.testBit_or]

/-- The flags of a forced map-out: of the map-out, and of allocated space that it reached (R204). -/
theorem forcedFlags_eq : forcedFlags s pc = if hbmTop (s.hbm.out.length + 1) < allocEnd s then 6 else 2 := by
  have entries {k : Nat} (far : ∀ i < 32, k ≠ E.hbm_mapped_out + i) (slots : k ≠ E.hbm_slots_out) (capacity : k ≠ E.hbm_capacity_bytes)
      (count : k ≠ E.hbm_forced_mapout_count) (lo hi : Nat) : rd (zeroFill (inc (slotLost s pc) E.hbm_forced_mapout_count) lo hi) k = rd s k :=
    (rd_inc_other (slotLost s pc) count).trans (rd_slotLost s pc far slots capacity)
  unfold forcedFlags
  rw [allocEnd_congr (entries (by decide) (by decide) (by decide) (by decide) ..) fun p known => ⟨entries ?_ ?_ ?_ ?_ .., entries ?_ ?_ ?_ ?_ ..,
    entries ?_ ?_ ?_ ?_ ..⟩]
  all_goals
    simp only [E.part_state, E.part_hbm_base, E.part_hbm_bytes, E.hbm_forced_mapout_count, E.hbm_mapped_out, E.hbm_slots_out, E.hbm_capacity_bytes]
    omega

theorem bit_forcedOut {i : Nat} (low : i < 32) : bit (rd (forcedOut s pc) E.hbm_alert_flags) i =
    (bit (rd s E.hbm_alert_flags) i || bit (if hbmTop (s.hbm.out.length + 1) < allocEnd s then 6 else 2) i) := by
  rw [forcedOut, bit_forcedFrom _ _ _ _ low, rd_slotLost s pc (by decide) (by decide) (by decide), forcedFlags_eq]

theorem rdByte_forcedOut (a : Nat) : rdByte (forcedOut s pc) a =
    if hbmTop (s.hbm.out.length + 1) ≤ a ∧ a < hbmTop s.hbm.out.length then 0 else rdByte s a := by
  obtain ⟨l, same⟩ := forcedOut_eq s pc
  rw [same]
  exact rdByte_zeroFill ..

end

theorem exec_hbmForcedMapout {s : State} {pc : Nat} (small : pc < 512) (idle : s.hbm.op = none) :
    exec (.hbmForcedMapout pc) s = done s (forcedMapOut s pc) := by
  refine (guarded_of (decide_eq_true small) ..).trans ?_
  unfold forceMapOut hbmBusy
  rw [idle]
  rfl

/-- What a forced map-out that finds its pseudo-channel live, and a slot left, leads to (R200 to R205). -/
structure ForcedTo (s : State) (l : Nat) (t : State) : Prop where
  slots : TellsOut t (insertSlot l s.hbm.out)
  lost : t.hbm.lost = ⟨l, s.hbm.out, []⟩ :: s.hbm.lost
  alert : bit (rd t E.hbm_alert_flags) 1 = true
  reached : bit (rd t E.hbm_alert_flags) 2 =
    (bit (rd s E.hbm_alert_flags) 2 || decide (hbmTop (s.hbm.out.length + 1) < allocEnd s))
  count : rd t E.hbm_forced_mapout_count = cut E.hbm_forced_mapout_count (rd s E.hbm_forced_mapout_count + 1)
  top : ∀ a, hbmTop (s.hbm.out.length + 1) ≤ a → a < hbmTop s.hbm.out.length → rdByte t a = 0
  rest : ∀ a, a < hbmTop (s.hbm.out.length + 1) → rdByte t a = rdByte s a

theorem hbmTop_lt (m : Nat) : hbmTop m < 2 ^ 44 := by
  rw [hbmTop_eq]
  omega

theorem forcedOut_to (s : State) (pc : Nat) : ForcedTo s (slotOfPc pc) (forcedOut s pc) where
  slots := tells_forcedOut s pc
  lost := by
    obtain ⟨l, same⟩ := forcedOut_eq s pc
    rw [same]
  alert := by
    rw [bit_forcedOut s pc (by decide)]
    split <;> exact Bool.or_true _
  reached := by
    rw [bit_forcedOut s pc (by decide)]
    split
    next used => rw [decide_eq_true used]; rfl
    next unused => rw [decide_eq_false unused]; rfl
  count := rd_forcedOut_count s pc
  top a low high := (rdByte_forcedOut s pc a).trans (if_pos ⟨low, high⟩)
  rest a low := (rdByte_forcedOut s pc a).trans (if_neg fun inside => Nat.not_le.2 low inside.1)

theorem ForcedTo.goOutOfService {s u : State} {l : Nat} (h : ForcedTo s l u) : ForcedTo s l (goOutOfService u 2) := by
  have entries {k : Nat} := rd_goOutOfService (k := k) (s := u) (c := 2)
  have hbm := goOutOfService_hbm u 2
  obtain ⟨⟨slots, count, capacity⟩, lost, alert, reached, events, top, rest⟩ := h
  refine ⟨⟨?_, ?_, ?_⟩, ?_, ?_, ?_, ?_, fun a low high => ?_, fun a low => ?_⟩
  · rw [hbm, slots]
  · rw [entries (by decide) (by decide) (by decide), count]
  · rw [entries (by decide) (by decide) (by decide), capacity]
  · rw [hbm, lost]
  · rw [entries (by decide) (by decide) (by decide), alert]
  · rw [entries (by decide) (by decide) (by decide), reached]
  · rw [entries (by decide) (by decide) (by decide), events]
  · rw [rdByte_goOutOfService u 2 (Nat.lt_trans high (hbmTop_lt _)), top a low high]
  · rw [rdByte_goOutOfService u 2 (Nat.lt_trans low (hbmTop_lt _)), rest a low]

/-- A forced map-out of a live pseudo-channel with a slot left: without its partner the device leaves service (R204). -/
theorem leads_hbmForcedMapout {s : State} {pc : Nat} (small : pc < 512) (idle : s.hbm.op = none) (live : slotOfPc pc ∉ s.hbm.out)
    (room : s.hbm.out.length < 32) : Leads (.hbmForcedMapout pc) s fun t => ForcedTo s (slotOfPc pc) t ∧
      (partnerOut s (slotOfPc pc) = true → rd t E.out_of_service = 1 ∧ rd t E.oos_cause = 2) := by
  have runs := (exec_hbmForcedMapout small idle).trans (congrArg (done s) (forcedMapOut_eq live (Nat.ne_of_lt room)))
  have forced := forcedOut_to s pc
  generalize forcedOut s pc = u at runs forced
  have blind (v : State) (q : List Instr) (h : ForcedTo s (slotOfPc pc) v ∧
      (partnerOut s (slotOfPc pc) = true → rd v E.out_of_service = 1 ∧ rd v E.oos_cause = 2)) :
      ForcedTo s (slotOfPc pc) { v with pending := q } ∧
        (partnerOut s (slotOfPc pc) = true → rd v E.out_of_service = 1 ∧ rd v E.oos_cause = 2) :=
    ⟨⟨h.1.slots, h.1.lost, h.1.alert, h.1.reached, h.1.count, h.1.top, h.1.rest⟩, h.2⟩
  by_cases partner : partnerOut s (slotOfPc pc) = true
  · rw [if_pos partner] at runs
    exact leads_of_effect runs ⟨forced.goOutOfService, fun _ => ⟨rd_goOutOfService_service u 2, rd_goOutOfService_cause u 2⟩⟩ blind
  · rw [if_neg partner] at runs
    exact leads_of_effect runs ⟨forced, fun out => absurd out partner⟩ blind

/-- Settles O29: a command's checks are those of R227 in their order; a pseudo-channel goes out by one list of slots. -/
theorem banksMapOut : Obligations.BanksMapOut := by
  unfold Obligations.BanksMapOut
  refine ⟨fun s via pc small serves => ?commands, fun s pc small => ?ends⟩
  case commands =>
    dsimp only
    rw [show pc % 32 * 16 + pc / 32 = slotOfPc pc from rfl]
    have servesIn : Serves s E.hbm_mapin_cmd := by
      obtain ⟨gated, awake, -⟩ := serves
      refine ⟨gated, awake, fun w row shared => ?_⟩
      rw [writable_hbmMapinCmd.row] at row
      exact absurd (Option.some.inj row ▸ shared) (by decide)
    obtain ⟨busy, idle⟩ := hbmMapout_cases (via := via) small serves
    obtain ⟨busyIn, idleIn⟩ := hbmMapin_cases (via := via) small servesIn
    refine ⟨fun runs => ⟨busy runs, busyIn runs⟩, fun free slots => ?_⟩
    have tells {u : State} (same : mapOut s pc = u) (queue : u.pending = s.pending) :
        Accepts (.hbmMapout via (leBytes 2 pc)) s E.hbm_mapout_cmd u := same ▸ idle free (same.symm ▸ queue)
    have tellsIn {u : State} (same : mapIn s pc = u) (queue : u.pending = s.pending) :
        Accepts (.hbmMapin via (leBytes 2 pc)) s E.hbm_mapin_cmd u := same ▸ idleIn free (same.symm ▸ queue)
    refine ⟨fun out => ?_, fun live full => ?_, fun live room partner => ?_, fun live room alone used => ?_,
      fun live room alone unused => ?_, fun live => ?_, fun out untested => ?_, fun r out tested => ?_⟩
    · exact tells (mapOut_known out) rfl
    · exact tells (mapOut_full live full) rfl
    · exact tells (mapOut_partner live (Nat.ne_of_lt room) ((partnerOut_iff ..).2 partner)) rfl
    · exact tells (mapOut_allocated live (Nat.ne_of_lt room) (mt (partnerOut_iff ..).1 alone) (hbmTop_eq _ ▸ used)) rfl
    · exact tells (mapOut_starts live (Nat.ne_of_lt room) (mt (partnerOut_iff ..).1 alone) (hbmTop_eq _ ▸ Nat.not_lt.2 unused)) rfl
    · exact tellsIn (mapIn_live live) rfl
    · exact tellsIn (mapIn_untested out untested) rfl
    · exact tellsIn (mapIn_starts out tested) rfl
  case ends =>
    dsimp only
    rw [show pc % 32 * 16 + pc / 32 = slotOfPc pc from rfl]
    refine ⟨fun op none_ few => ?mapOut, fun op none_ out few => ?mapIn, fun busy => ?_, fun idle out => ?_, fun idle live full => ?_,
      fun idle live room => ?forced⟩
    case mapOut =>
      have told_ := tells_reported (tells_setOut s (insertSlot (slotOfPc pc) s.hbm.out))
      have ends := ending_eq s (insertSlot (slotOfPc pc) s.hbm.out)
      have status := rd_reported_status (setOut s (insertSlot (slotOfPc pc) s.hbm.out))
      refine leads_of_effect (congrArg (done s) (migrationDone_mapOut op none_)) ?_ fun _ _ h => h
      exact ⟨told_, ends.1, status, ends.2⟩
    case mapIn =>
      have room := List.length_pos_of_mem out
      have told_ := tells_reported (tells_cleared (tells_setOut s (s.hbm.out.erase (slotOfPc pc))) (hbmTop s.hbm.out.length)
        (hbmTop (s.hbm.out.length - 1)) ((hbmTop s.hbm.out.length - 0x10000000) / 1024) ((hbmTop (s.hbm.out.length - 1) - 0x10000000) / 1024))
      have bytes (a : Nat) := rdByte_mappedIn s (s.hbm.out.erase (slotOfPc pc)) s.hbm.out.length a
      have runs := congrArg (done s) (migrationDone_mapIn op none_)
      rw [mappedIn] at runs bytes
      generalize cleared _ _ _ _ _ = u at told_ bytes runs
      refine leads_of_effect runs ⟨told_, rfl, rd_reported_status u, fun a => ?_⟩ fun _ _ h => h
      by_cases inside : hbmTop s.hbm.out.length ≤ a ∧ a < hbmTop (s.hbm.out.length - 1)
      · rw [rdByte_reported, (bytes a).trans (if_pos inside)]
        rw [hbmTop_eq, hbmTop_eq] at inside
        rw [if_pos inside]
      · rw [rdByte_reported, (bytes a).trans (if_neg inside)]
        rw [hbmTop_eq, hbmTop_eq] at inside
        rw [if_neg inside]
    · refine (guarded_of (decide_eq_true small) ..).trans ?_
      unfold forceMapOut hbmBusy
      rw [Option.isSome_iff_ne_none.2 busy, if_pos rfl]
      rfl
    · exact (exec_hbmForcedMapout small idle).trans (congrArg (done s) (forcedMapOut_known out))
    · exact (exec_hbmForcedMapout small idle).trans (congrArg (done s) (forcedMapOut_full live full))
    case forced =>
      obtain ⟨t, runs, forced, service⟩ := leads_hbmForcedMapout small idle live room
      refine ⟨t, runs, forced.slots, forced.lost, forced.alert, ?_, forced.count, fun a low high => ?_, fun a low => ?_, fun partner => ?_⟩
      · rw [forced.reached, hbmTop_eq]
      · exact forced.top a (by rw [hbmTop_eq]; exact low) (by rw [hbmTop_eq]; exact high)
      · exact forced.rest a (by rw [hbmTop_eq]; exact low)
      · exact service ((partnerOut_iff ..).2 partner)

end Sys2Proof.Machine
end

section
/-! SUPPORT. Homomorphic commands (R386 to R393), and what their starts and ends leave of the dictionary. -/

namespace Sys2Proof.Machine

open Sys2Proof

/-! ## What errors of memory, counters and messages leave of the dictionary -/

/-- Entries below the performance counters that errors of memory, sleep entries and stitch groups change beside what they are asked
for: the first key, and how many. -/
def noisy : List (Nat × Nat) :=
  [(E.alert_status, 1), (E.pace_break_count, 32), (E.domain_state, 40), (E.sleep_result, 2), (E.slr_block, 6),
    (E.sleep_refused_count, 2), (E.sleep_refusal_log, 16), (E.cm_corrected_count, 32), (E.cm_reconstructed_count, 32),
    (E.onchip_uncorrectable_count, 32), (E.commons_corrected_count, 32), (E.last_ue_address, 3), (E.landing_ranges_open, 32),
    (E.sg_records_used, 2), (E.sg_commit_count, 2)]

/-- An entry of none of these, below the counts of timing-dependent choices and the counters. -/
def Calm (k : Nat) : Bool := decide (k < E.nd_count) && noisy.all fun e => decide (k < e.1 ∨ e.1 + e.2 ≤ k)

theorem not_calm {b n i : Nat} (listed : (b, n) ∈ noisy) (small : i < n) : Calm (b + i) = false := by
  rw [← Bool.not_eq_true]
  intro calm
  have apart := of_decide_eq_true (List.all_eq_true.1 (Bool.and_eq_true_iff.1 calm).2 _ listed)
  dsimp only at apart
  omega

theorem not_calm_counter {k : Nat} (high : E.nd_count ≤ k) : Calm k = false := by
  rw [Calm, decide_eq_false (Nat.not_lt.2 high), Bool.false_and]

/-- The dictionary differs from that of d₀ in entries that are not calm alone. -/
@[irreducible] def Steady (d₀ : State) (s : State) : Prop := ∀ k, Calm k = true → rd s k = rd d₀ k

section
variable {d₀ : State}

theorem steady_def (s : State) : Steady d₀ s ↔ ∀ k, Calm k = true → rd s k = rd d₀ k := by unfold Steady; exact Iff.rfl

theorem steady_self (s : State) : Steady s s := (steady_def s).2 fun _ _ => rfl

theorem Steady.rd {s : State} (h : Steady d₀ s) {k : Nat} (calm : Calm k = true) : rd s k = rd d₀ k := (steady_def s).1 h k calm

theorem Steady.trans {s t : State} (h : Steady d₀ s) (h' : Steady s t) : Steady d₀ t :=
  (steady_def t).2 fun _ calm => (h'.rd calm).trans (h.rd calm)

/-- An update that leaves the dictionary. -/
theorem Steady.of_dict {s t : State} (h : Steady d₀ s) (same : t.dict = s.dict) : Steady d₀ t :=
  (steady_def t).2 fun k calm => (rd_congr same k).trans (h.rd calm)

protected theorem Steady.mk {s : State} {mem poison flips pins supply save host power sectors cores xlat groups resolved commitLog keysets laces handles arrivals windows transport step ports routes paths twin island replays det pke hbm recovery sessions sent freeCtr pending} (h : Steady d₀ s) :
    Steady d₀ (.mk s.dict mem poison flips pins supply save host power sectors cores xlat groups resolved commitLog keysets laces handles arrivals windows transport step ports routes paths twin island replays det pke hbm recovery sessions sent freeCtr pending) := h.of_dict rfl
protected theorem Steady.wr {s : State} {k v : Nat} (h : Steady d₀ s) (loud : Calm k = false) : Steady d₀ (wr s k v) :=
  (steady_def _).2 fun j calm => (rd_wr_other s (fun e => by rw [e, loud] at calm; exact absurd calm Bool.false_ne_true) v).trans (h.rd calm)
protected theorem Steady.incBy {s : State} {k n : Nat} (h : Steady d₀ s) (loud : Calm k = false) : Steady d₀ (incBy s k n) := h.wr loud
protected theorem Steady.inc {s : State} {k : Nat} (h : Steady d₀ s) (loud : Calm k = false) : Steady d₀ (inc s k) := h.incBy loud
protected theorem Steady.ite {p : Prop} [Decidable p] {s t : State} (hs : Steady d₀ s) (ht : Steady d₀ t) :
    Steady d₀ (if p then s else t) := by split <;> assumption
protected theorem Steady.ite_fst {α : Type} {p : Prop} [Decidable p] {s t : State × α} (hs : Steady d₀ s.1) (ht : Steady d₀ t.1) :
    Steady d₀ (if p then s else t).1 := by split <;> assumption
protected theorem Steady.foldl {α : Type} {f : State → α → State} {l : List α} {s : State} (h : Steady d₀ s)
    (step : ∀ s a, Steady d₀ s → Steady d₀ (f s a)) : Steady d₀ (l.foldl f s) := by
  induction l generalizing s with
  | nil => exact h
  | cons a l ih => exact ih (step s a h)
protected theorem Steady.foldl_mem {α : Type} {f : State → α → State} {l : List α} {s : State} (h : Steady d₀ s)
    (step : ∀ s, ∀ a ∈ l, Steady d₀ s → Steady d₀ (f s a)) : Steady d₀ (l.foldl f s) := by
  induction l generalizing s with
  | nil => exact h
  | cons a l ih => exact ih (step s a (.head l) h) fun s b m h => step s b (.tail a m) h
protected theorem Steady.foldl_fst {α β : Type} {f : State × β → α → State × β} {l : List α} {s : State × β} (h : Steady d₀ s.1)
    (step : ∀ s a, Steady d₀ s.1 → Steady d₀ (f s a).1) : Steady d₀ (l.foldl f s).1 := by
  induction l generalizing s with
  | nil => exact h
  | cons a l ih => exact ih (step s a h)
end

section
variable {d₀ : State}

protected theorem Steady.wrBytes {s : State} {k : Nat} {d : List Byte} (h : Steady d₀ s) : Steady d₀ (wrBytes s k d) := h.mk

protected theorem Steady.wrNat {s : State} {k n v : Nat} (h : Steady d₀ s) : Steady d₀ (wrNat s k n v) := h.wrBytes

protected theorem Steady.emit {s : State} {o : Out} (h : Steady d₀ s) : Steady d₀ (emit s o) := h.mk

protected theorem Steady.msixSend {s : State} {v : Nat} (h : Steady d₀ s) : Steady d₀ (msixSend s v) := h.mk.emit.ite h.mk

protected theorem Steady.signalVector {s : State} {v : Nat} (h : Steady d₀ s) : Steady d₀ (signalVector s v) :=
  h.ite (h.mk.ite h.msixSend)

protected theorem Steady.setSector {s : State} {x : Nat} {v : Sector} (h : Steady d₀ s) : Steady d₀ (setSector s x v) := h.mk

protected theorem Steady.setCore {s : State} {c : Nat} {v : Core} (h : Steady d₀ s) : Steady d₀ (setCore s c v) := h.mk

protected theorem Steady.countDev {s : State} {ev inst n : Nat} (h : Steady d₀ s) : Steady d₀ (countDev s ev inst n) :=
  h.foldl fun _ i h => (h.incBy (not_calm_counter (Nat.le_trans (by decide) (Nat.le_add_right E.dpc_value i)))).ite h

protected theorem Steady.countSec {s : State} {x ev n : Nat} (h : Steady d₀ s) : Steady d₀ (countSec s x ev n) :=
  .countDev (h.foldl fun _ i h => (h.incBy (not_calm_counter (by
    have : E.nd_count ≤ E.spc_value := by decide
    omega))).ite h)

protected theorem Steady.noteNd {s : State} {cause : Nat} {p : Option Nat} (h : Steady d₀ s) : Steady d₀ (noteNd s cause p) :=
    by
  have counted := (h.inc (not_calm_counter (Nat.le_trans (by decide) (Nat.le_add_right E.nd_cause_count (cause - 1))))).countDev
    (ev := 0x20B)
    (inst := 64) (n := 1)
  unfold noteNd
  dsimp only
  split
  · exact counted.inc (not_calm_counter (Nat.le_add_right ..))
  · exact counted

protected theorem Steady.clearLost {s : State} {lo hi : Nat} (h : Steady d₀ s) : Steady d₀ (clearLost s lo hi) := h.mk.ite h

protected theorem Steady.hbmStore {s : State} {a : Nat} {d : List Byte} (h : Steady d₀ s) : Steady d₀ (hbmStore s a d) :=
  h.wrBytes.clearLost.ite h.wrBytes

protected theorem Steady.setGroup {s : State} {o : Option Nat} {i : Nat} {f : Group → Group} (h : Steady d₀ s) :
    Steady d₀ (setGroup s o i f) := h.mk

protected theorem Steady.noteLanded {s : State} {k n : Nat} (h : Steady d₀ s) : Steady d₀ (noteLanded s k n) := by
  unfold noteLanded
  split
  · exact h
  · exact h.mk

protected theorem Steady.setHandle {s : State} {h : Nat} {v : Handle} (hs : Steady d₀ s) : Steady d₀ (setHandle s h v) := hs.mk

protected theorem Steady.setPort {s : State} {p : Nat} {v : Port} (h : Steady d₀ s) : Steady d₀ (setPort s p v) := h.mk

protected theorem Steady.sendFlits {s : State} {p vc n : Nat} (h : Steady d₀ s) : Steady d₀ (sendFlits s p vc n) :=
  h.setPort.countDev

protected theorem Steady.sendMsg {s : State} {mtype : Nat} {m : Msg} (h : Steady d₀ s) : Steady d₀ (sendMsg s mtype m) :=
  .ite (.emit (by
    split
    · exact .sendFlits (h.noteNd.ite h)
    · exact h.noteNd.ite h)) h

protected theorem Steady.sendNow {s : State} {h : Nat} {r : Request} (hs : Steady d₀ s) : Steady d₀ (sendNow s h r) :=
  .sendMsg (hs.setHandle.mk.ite hs.setHandle)

protected theorem Steady.request {s : State} {h : Nat} {r : Request} (hs : Steady d₀ s) : Steady d₀ (request s h r) :=
  .ite (.sendNow (by
    split
    · exact hs.setGroup
    · exact hs)) (.setHandle (by
    split
    · exact hs.setGroup
    · exact hs))

protected theorem Steady.postEntry {s : State} {x cb off n : Nat} {r : List Byte} (h : Steady d₀ s) :
    Steady d₀ (postEntry s x cb off n r) := h.wrBytes.wrNat.wrNat

protected theorem Steady.onCore {s : State} {c : Nat} {f : Core → Core} (h : Steady d₀ s) : Steady d₀ (onCore s c f) :=
  h.setCore

protected theorem Steady.setRing {s : State} {x k : Nat} {v : Ring} (h : Steady d₀ s) : Steady d₀ (setRing s x k v) :=
  h.setSector

protected theorem Steady.mirrorEntry {s : State} {x k e : Nat} {r : List Byte} (h : Steady d₀ s) : Steady d₀
    (mirrorEntry s x k e r) :=
  h.ite ((h.inc (by decide)).ite h.emit)

protected theorem Steady.postCompletion {s : State} {x k : Nat} {r : List Byte} (h : Steady d₀ s) :
    Steady d₀ (postCompletion s x k r) := h.setRing.ite h.postEntry.mirrorEntry.signalVector

protected theorem Steady.forwardInput {s : State} {kind : Nat} {d : List Byte} (h : Steady d₀ s) :
    Steady d₀ (forwardInput s kind d) := h.emit.ite h

protected theorem Steady.setTaken {s : State} {x k : Nat} {t v : Taken} (h : Steady d₀ s) : Steady d₀ (setTaken s x k t v) :=
  h.setRing

protected theorem Steady.drawBlock {s : State} (h : Steady d₀ s) : Steady d₀ (drawBlock s).1 := by
  unfold drawBlock
  exact h.mk

protected theorem Steady.noiseKey {s : State} {c : Nat} (h : Steady d₀ s) : Steady d₀ (noiseKey s c).1 := by
  have loud (p : Nat) : Calm (E.nr_starts + 256 * p) = false := not_calm_counter (Nat.le_trans (by decide) (Nat.le_add_right
    ..))
  unfold noiseKey
  dsimp only
  split
  · exact h.mk
  · split
    · exact h.mk.inc (loud _)
    · exact h.drawBlock

protected theorem Steady.startCore {s : State} {c entry : Nat} (h : Steady d₀ s) : Steady d₀ (startCore s c entry) := by
  unfold startCore
  exact h.noiseKey.forwardInput.onCore

protected theorem Steady.openPass {s : State} {c : Nat} (h : Steady d₀ s) : Steady d₀ (openPass s c) := by
  unfold openPass
  split
  · exact h
  · dsimp only
    split
    · exact h.onCore.onCore
    · exact h.onCore

protected theorem Steady.scramble {s : State} {lo n : Nat} {keep : Nat → Bool} (h : Steady d₀ s) :
    Steady d₀ (scramble s lo n keep) := h.mk

protected theorem Steady.loadKernel {op : Nat} {s : State} {c : Nat} (h : Steady d₀ s) : Steady d₀ (loadKernel op s c) :=
  h.ite h.scramble.setCore

end

section
variable {k₀ : Tab Core}

protected theorem CoresIs.wrNat {s : State} {k n v : Nat} (h : CoresIs k₀ s) : CoresIs k₀ (wrNat s k n v) := h.wrBytes

protected theorem CoresIs.emit {s : State} {o : Out} (h : CoresIs k₀ s) : CoresIs k₀ (emit s o) := h.mk

protected theorem CoresIs.msixSend {s : State} {v : Nat} (h : CoresIs k₀ s) : CoresIs k₀ (msixSend s v) := h.mk.emit.ite h.mk

protected theorem CoresIs.signalVector {s : State} {v : Nat} (h : CoresIs k₀ s) : CoresIs k₀ (signalVector s v) :=
  h.ite (h.mk.ite h.msixSend)

protected theorem CoresIs.setHandle {s : State} {h : Nat} {v : Handle} (hs : CoresIs k₀ s) : CoresIs k₀ (setHandle s h v) :=
  hs.mk

protected theorem CoresIs.setPort {s : State} {p : Nat} {v : Port} (h : CoresIs k₀ s) : CoresIs k₀ (setPort s p v) := h.mk

protected theorem CoresIs.sendFlits {s : State} {p vc n : Nat} (h : CoresIs k₀ s) : CoresIs k₀ (sendFlits s p vc n) :=
  h.setPort.countDev

protected theorem CoresIs.sendMsg {s : State} {mtype : Nat} {m : Msg} (h : CoresIs k₀ s) : CoresIs k₀ (sendMsg s mtype m) :=
  .ite (.emit (by
    split
    · exact .sendFlits (h.noteNd.ite h)
    · exact h.noteNd.ite h)) h

protected theorem CoresIs.sendNow {s : State} {h : Nat} {r : Request} (hs : CoresIs k₀ s) : CoresIs k₀ (sendNow s h r) :=
  .sendMsg (hs.setHandle.mk.ite hs.setHandle)

protected theorem CoresIs.request {s : State} {h : Nat} {r : Request} (hs : CoresIs k₀ s) : CoresIs k₀ (request s h r) :=
  .ite (.sendNow (by
    split
    · exact hs.setGroup
    · exact hs)) (.setHandle (by
    split
    · exact hs.setGroup
    · exact hs))

protected theorem CoresIs.postEntry {s : State} {x cb off n : Nat} {r : List Byte} (h : CoresIs k₀ s) :
    CoresIs k₀ (postEntry s x cb off n r) := h.wrBytes.wrNat.wrNat

protected theorem CoresIs.unitStore {s : State} {x p : Nat} {g : Option Nat} {k : Nat} {d : List Byte} (h : CoresIs k₀ s) :
    CoresIs k₀ (unitStore s x p g k d).1 :=
  .ite_fst (h.ite_fst h.request) (h.ite_fst (by
    dsimp only
    split
    · exact .groupStore (h.noteLanded.ite h)
    · exact .storeAt (h.noteLanded.ite h)))

protected theorem CoresIs.vaWrite {s : State} {x p : Nat} {g : Option Nat} {va : Nat} {d : List Byte} (h : CoresIs k₀ s) :
    CoresIs k₀ (vaWrite s x p g va d).1 := h.ite_fst (h.foldl_fst fun _ _ h => h.unitStore)

protected theorem CoresIs.setRing {s : State} {x k : Nat} {v : Ring} (h : CoresIs k₀ s) : CoresIs k₀ (setRing s x k v) :=
  h.setSector

protected theorem CoresIs.mirrorEntry {s : State} {x k e : Nat} {r : List Byte} (h : CoresIs k₀ s) :
    CoresIs k₀ (mirrorEntry s x k e r) := h.ite (h.inc.ite h.emit)

protected theorem CoresIs.postCompletion {s : State} {x k : Nat} {r : List Byte} (h : CoresIs k₀ s) :
    CoresIs k₀ (postCompletion s x k r) := h.setRing.ite h.postEntry.mirrorEntry.signalVector

protected theorem CoresIs.finishWith {s : State} {x k : Nat} {t : Taken} {r extra : List Byte} (h : CoresIs k₀ s) :
    CoresIs k₀ (finishWith s x k t r extra) :=
  .postCompletion (.ite (.mk (by
    split
    · exact h.setRing
    · exact h.setRing.ite h.setRing.vaWrite)) (by
    split
    · exact h.setRing
    · exact h.setRing.ite h.setRing.vaWrite))

protected theorem CoresIs.finishProv {s : State} {x k : Nat} {t : Taken} {status : Nat} {r tail : List Byte} (h : CoresIs k₀ s)
    :
    CoresIs k₀ (finishProv s x k t status r tail) := h.finishWith

protected theorem CoresIs.noteHeFault {s : State} {x : Nat} {t : Taken} {status faults : Nat} (h : CoresIs k₀ s) :
    CoresIs k₀ (noteHeFault s x t status faults) := h.inc.wr.wr.wr.wr.wr.wr

protected theorem CoresIs.finishHe {s : State} {x k : Nat} {t : Taken} {status faults limbs beats : Nat} {tail : List Byte}
    (h : CoresIs k₀ s) :
    CoresIs k₀ (finishHe s x k t status faults limbs beats tail) := .finishProv (h.ite h.noteHeFault)

protected theorem CoresIs.refuseHe {s : State} {x k : Nat} {t : Taken} {status : Nat} (h : CoresIs k₀ s) :
    CoresIs k₀ (refuseHe s x k t status) := h.mk.finishHe

end

/-! ## Storing at a virtual address -/

section
variable {d₀ : State}

protected theorem Steady.paceBreak {s : State} {x : Nat} (known : x < 32) (h : Steady d₀ s) : Steady d₀ (paceBreak s x) := by
  have counted := h.inc (not_calm (b := E.pace_break_count) (by decide) known)
  refine h.ite ?_
  dsimp only
  split
  · exact counted.noteNd.ite counted
  · exact counted

protected theorem Steady.onchipUe {s : State} {x a block : Nat} (known : x < 32) (h : Steady d₀ s) : Steady d₀ (onchipUe s x a block) :=
  (((h.inc (not_calm (b := E.onchip_uncorrectable_count) (by decide) known)).wr (by decide)).wr (by decide)).wr (by decide)

theorem sectorBits (k : Nat) : bits k 36 32 < 32 := bits_lt k 36 32

/-- A word of core memory or of the commons that nothing can restore. -/
protected theorem Steady.loseWord {s : State} {k : Nat} (low : k < 2 ^ 41) (h : Steady d₀ s) : Steady d₀ (loseWord s k) := by
  rw [Machine.loseWord, if_neg (Nat.not_le.2 low)]
  exact (Steady.onchipUe (sectorBits k) h.mk).ite (Steady.onchipUe (sectorBits k) h.mk)

protected theorem Steady.meetWord {s : State} {k n : Nat} (low : k < 2 ^ 41) (h : Steady d₀ s) : Steady d₀ (meetWord s k n) := by
  have cleared : Steady d₀ { s with flips := Tab.set 0 s.flips k 0 } := h.mk
  have lost := cleared.loseWord low
  have counted {b : Nat} (listed : (b, 32) ∈ noisy) := cleared.inc (not_calm listed (sectorBits k))
  unfold Machine.meetWord
  dsimp only
  exact (cleared.ite lost).ite (((counted (by decide)).ite lost).ite (((counted (by decide)).ite lost).ite ((counted (by decide)).ite
    (((counted (by decide)).paceBreak (sectorBits k)).ite lost))))

protected theorem Steady.meetEdges {s : State} {k n : Nat} (low : k + n ≤ 2 ^ 41) (h : Steady d₀ s) : Steady d₀ (meetEdges s k n) :=
  h.foldl_mem fun _ e member h => by
    have inside := of_decide_eq_true (List.mem_filter.1 member).2
    exact h.meetWord (Nat.lt_of_lt_of_le inside.1 low)

protected theorem Steady.storeAt {s : State} {k : Nat} {d : List Byte} (low : k + d.length ≤ 2 ^ 41) (h : Steady d₀ s) :
    Steady d₀ (storeAt s k d) := h.hbmStore.ite (h.meetEdges low).wrBytes

/-- A write that joins no stitch group. -/
protected theorem Steady.unitStore {s : State} {x p k : Nat} {d : List Byte} (low : k + d.length ≤ 2 ^ 41) (h : Steady d₀ s) :
    Steady d₀ (unitStore s x p none k d).1 := by
  unfold Machine.unitStore
  dsimp only
  split
  · split
    · exact h
    · dsimp only
      exact h.request
  · split
    · exact h
    · exact Steady.storeAt low (h.noteLanded.ite h)
end

/-- A physical address that a unit may reach, and the bytes up to its page's end, lie below the tile registers. -/
theorem translateFor_page {s : State} {p : Nat} {who : Requester} {nd : Need} {va m : Nat} (ok : (translateFor s p who nd va).1 = 0)
    (fits : m ≤ 65536 - va % 65536) : (translateFor s p who nd va).2 + m ≤ 2 ^ 40 := by
  have page (e : Nat) : framed e va + m ≤ 2 ^ 40 := by
    have big := bits_lt e 39 21
    have small := bits_lt e 39 16
    unfold framed
    split <;> omega
  have offset (e : Nat) : bits (framed e va) 22 0 + m ≤ 2 ^ 23 := by
    unfold framed bits
    split <;> omega
  have onchip (e : Nat) : onchipKey (framed e va) + m ≤ 2 ^ 40 := by
    have x := bits_lt (framed e va) 36 32
    have t := bits_lt (framed e va) 31 27
    have o := offset e
    unfold onchipKey Mem.onchip
    omega
  revert ok
  unfold translateFor
  split
  · exact fun ok => absurd ok (by decide)
  · cases xlatAt s p va with
    | none => exact fun ok => absurd ok (show (0x0301 : Nat) ≠ 0 by decide)
    | some e =>
      unfold checkEntry
      dsimp only
      split
      · exact fun ok => absurd ok (by decide)
      · split
        · exact fun ok => absurd ok (by decide)
        · intro _
          dsimp only
          split
          · exact onchip e
          · exact page e

theorem vaPieces_low {s : State} {p : Nat} {who : Requester} {nd : Need} : ∀ {f va n : Nat}, ∀ e ∈ (vaPieces s p who nd f va n).2,
    e.1 + e.2.2 ≤ 2 ^ 40
  | 0, _, _, e, member => absurd member List.not_mem_nil
  | f + 1, va, n, e, member => by
    rw [vaPieces] at member
    split at member
    · exact absurd member List.not_mem_nil
    · dsimp only at member
      split at member
      · exact absurd member List.not_mem_nil
      · rename_i ok
        rcases List.mem_cons.1 member with here | later
        · rw [here]
          exact translateFor_page (Decidable.not_not.1 ok) (Nat.min_le_right ..)
        · exact vaPieces_low e later

section
variable {d₀ : State} {s : State} {x k : Nat} {t : Taken}

/-- Bytes that a sequencer writes. -/
protected theorem Steady.vaWrite {p va : Nat} {d : List Byte} (h : Steady d₀ s) : Steady d₀ (vaWrite s x p none va d).1 := by
  unfold Machine.vaWrite
  dsimp only
  split
  · exact h
  · refine List.foldlRecOn (motive := fun q : State × Nat => Steady d₀ q.1) _ _ h fun q h e member => ?_
    have fits := Nat.add_le_add_left (List.length_take_le e.2.2 (d.drop (e.2.1 - va))) e.1
    exact Steady.unitStore (Nat.le_trans fits (Nat.le_trans (vaPieces_low e member) (by decide))) h

protected theorem Steady.finishWith {r extra : List Byte} (h : Steady d₀ s) : Steady d₀ (finishWith s x k t r extra) := by
  have left := h.setRing (x := x) (k := k) (v := { ringOf s x k with queue := (ringOf s x k).queue.erase t })
  unfold Machine.finishWith
  dsimp only
  refine .postCompletion ?_
  have written : Steady d₀ (match ownerOf (setRing s x k { ringOf s x k with queue := (ringOf s x k).queue.erase t }) x with
      | none => setRing s x k { ringOf s x k with queue := (ringOf s x k).queue.erase t }
      | some p => if t.completion = 0 then setRing s x k { ringOf s x k with queue := (ringOf s x k).queue.erase t }
        else (vaWrite (setRing s x k { ringOf s x k with queue := (ringOf s x k).queue.erase t }) x p none t.completion (r ++ extra)).1) := by
    split
    · exact left
    · exact left.ite left.vaWrite
  exact Steady.ite written.mk written
end

/-! ## The start of a program or of a kernel -/

theorem drawBlock_eq (s : State) : ∃ i, (drawBlock s).1 = { s with island := i } := by
  unfold drawBlock
  exact ⟨_, rfl⟩

/-- Registers of which nothing is noted read 0. -/
theorem x_of_unwritten {k : Core} (unwritten : k.xs = []) (j : Nat) : k.x j = 0 := by
  unfold Core.x
  rw [unwritten]
  split <;> rfl

/-- What a start changes beside the dictionary: its core's record alone. -/
theorem startCore_eq (s : State) (c entry : Nat) : ∃ u f, startCore s c entry = onCore u c f ∧ u.cores = s.cores ∧ u.sectors = s.sectors ∧
    u.mem = s.mem ∧ u.pending = s.pending ∧ ∀ o : Core, (f o).running = true ∧ (f o).pc = entry ∧ (f o).block = none ∧ (∀ j, (f o).x j = 0) ∧
      (f o).cmAttr = o.cmAttr ∧ (f o).front = o.front ∧ (f o).kernel = o.kernel := by
  have key : ∃ u, (noiseKey s c).1 = u ∧ u.cores = s.cores ∧ u.sectors = s.sectors ∧ u.mem = s.mem ∧ u.pending = s.pending := by
    unfold noiseKey
    dsimp only
    split
    · exact ⟨_, rfl, rfl, rfl, rfl, rfl⟩
    · split
      · exact ⟨_, rfl, rfl, rfl, rfl, rfl⟩
      · obtain ⟨i, drawn⟩ := drawBlock_eq s
        rw [drawn]
        exact ⟨_, rfl, rfl, rfl, rfl, rfl⟩
  obtain ⟨u, drawn, cores, sectors, mem, pending⟩ := key
  obtain ⟨l, sent⟩ := forwardInput_eq u 4 (leBytes 2 c ++ beBytes 16 (noiseKey s c).2)
  unfold startCore
  dsimp only
  rw [drawn, sent]
  refine ⟨{ u with sent := l }, _, rfl, cores, sectors, mem, pending, fun o => ?_⟩
  exact ⟨rfl, rfl, rfl, x_of_unwritten rfl, rfl, rfl, rfl⟩

/-- A start of core c, as it is seen on core j. -/
theorem core_startCore (s : State) (c entry j : Nat) : (j ≠ c → core (startCore s c entry) j = core s j) ∧
    (core (startCore s c entry) c).running = true ∧ (core (startCore s c entry) c).pc = entry ∧ (core (startCore s c entry) c).block = none ∧
    (∀ i, (core (startCore s c entry) c).x i = 0) ∧ (core (startCore s c entry) c).cmAttr = (core s c).cmAttr ∧
    (core (startCore s c entry) c).front = (core s c).front ∧ (core (startCore s c entry) c).kernel = (core s c).kernel := by
  obtain ⟨u, f, starts, cores, -, -, -, started⟩ := startCore_eq s c entry
  rw [starts, ← core_congr cores c, ← core_congr cores j]
  refine ⟨fun other => by rw [core_onCore, if_neg other], ?_⟩
  rw [core_onCore, if_pos rfl]
  exact started (core u c)

theorem sectors_startCore (s : State) (c entry : Nat) : (startCore s c entry).sectors = s.sectors := by
  obtain ⟨u, f, starts, -, sectors, -⟩ := startCore_eq s c entry
  rw [starts]
  exact sectors

theorem kernel_startCore (s : State) (c entry j : Nat) : (core (startCore s c entry) j).kernel = (core s j).kernel := by
  obtain ⟨other, -, -, -, -, -, -, kernel⟩ := core_startCore s c entry j
  by_cases it : j = c
  · rw [it, kernel]
  · rw [other it]

theorem kernel_loadKernel (op : Nat) (s : State) (c j : Nat) :
    (core (loadKernel op s c) j).kernel = if j = c then some (kernelOf op) else (core s j).kernel := by
  unfold loadKernel
  dsimp only
  by_cases loaded : (core s c).kernel = some (kernelOf op)
  · rw [if_pos loaded]
    split
    · rename_i it
      rw [it, loaded]
    · rfl
  · rw [if_neg loaded, core_setCore]
    split <;> rfl

theorem sectors_loadKernel (op : Nat) (s : State) (c : Nat) : (loadKernel op s c).sectors = s.sectors := by
  unfold loadKernel
  dsimp only
  split <;> rfl

/-- The opening of a key context changes nothing of a core but its contexts. -/
theorem core_openPass (s : State) (c j : Nat) : (core (openPass s c) j).running = (core s j).running ∧
    (core (openPass s c) j).pc = (core s j).pc ∧ (core (openPass s c) j).kernel = (core s j).kernel := by
  have update {f : Core → Core} (same : ∀ k, (f k).running = k.running ∧ (f k).pc = k.pc ∧ (f k).kernel = k.kernel) (u : State) :
      (core (onCore u c f) j).running = (core u j).running ∧ (core (onCore u c f) j).pc = (core u j).pc ∧
        (core (onCore u c f) j).kernel = (core u j).kernel := by
    rw [core_onCore]
    split
    · rename_i it
      rw [it]
      exact same _
    · exact ⟨rfl, rfl, rfl⟩
  have setKey {i : Nat} {v : KeyCtx} (k : Core) : (k.setKey i v).running = k.running ∧ (k.setKey i v).pc = k.pc ∧
    (k.setKey i v).kernel = k.kernel := ⟨rfl, rfl, rfl⟩
  unfold openPass
  split
  · exact ⟨rfl, rfl, rfl⟩
  · dsimp only
    split
    · obtain ⟨running, pc, kernel⟩ := update (fun k => setKey k) (onCore s c fun k => k.setKey 0 KeyCtx.init)
      obtain ⟨running', pc', kernel'⟩ := update (fun k => setKey (i := 0) (v := KeyCtx.init) k) s
      exact ⟨running.trans running', pc.trans pc', kernel.trans kernel'⟩
    · exact update (fun k => setKey k) s

theorem sectors_openPass (s : State) (c : Nat) : (openPass s c).sectors = s.sectors := by
  unfold openPass
  split
  · rfl
  · dsimp only
    split <;> rfl

/-- What each step of a fold brings about for its own element, and keeps for the others, holds of all of them at the end. -/
theorem foldl_reaches {α : Type} {f : State → α → State} {P : α → State → Prop} {l : List α} (reach : ∀ s, ∀ a ∈ l, P a (f s a))
    (keep : ∀ s, ∀ a ∈ l, ∀ b, P b s → P b (f s a)) (s : State) : ∀ b ∈ l, P b (l.foldl f s) := by
  induction l generalizing s with
  | nil => exact fun b member => absurd member List.not_mem_nil
  | cons a l ih =>
    intro b member
    rcases List.mem_cons.1 member with here | later
    · rw [here, List.foldl_cons]
      exact List.foldlRecOn (motive := P a) l f (reach s a (.head l)) fun u h c m => keep u c (.tail a m) a h
    · exact ih (fun s a m => reach s a (.tail _ m)) (fun s a m => keep s a (.tail _ m)) _ b later

/-! ## Homomorphic commands (R386 to R393) -/

section
variable {s : State} {x k : Nat} {v : Taken}

theorem mem_of_nextOp {op : Nat} (next : nextOp s x k op = some v) : v ∈ (ringOf s x k).queue ∧ v.op = op := by
  obtain ⟨starts, named⟩ := Option.filter_eq_some_iff.1 next
  refine ⟨?_, beq_iff_eq.1 named⟩
  unfold nextStart at starts
  dsimp only at starts
  split at starts
  · exact absurd starts (by simp)
  · split at starts
    · exact absurd starts (by simp)
    · rename_i found
      split at starts
      · exact absurd starts (by simp)
      · rw [← Option.some.inj starts]
        exact List.mem_of_find?_eq_some found

theorem ringOf_setTaken (s : State) (x k : Nat) (t w : Taken) : ringOf (setTaken s x k t w) x k =
    { ringOf s x k with queue := (ringOf s x k).queue.replace t w } := ringOf_setRing ..

theorem mem_replace_self {α : Type} [BEq α] [LawfulBEq α] {a b : α} : ∀ {l : List α}, a ∈ l → b ∈ l.replace a b
  | c :: l, member => by
    by_cases here : c = a
    · rw [here, List.replace_cons_self]
      exact .head _
    · rw [List.replace_cons, beq_false_of_ne (fun e => here e.symm)]
      exact .tail _ (mem_replace_self ((List.mem_cons.1 member).resolve_left (fun e => here e.symm)))

theorem mem_setTaken {w : Taken} (queued : v ∈ (ringOf s x k).queue) : w ∈ (ringOf (setTaken s x k v w) x k).queue := by
  rw [ringOf_setTaken]
  exact mem_replace_self queued

/-- A command of which a core runs yet waits. -/
theorem heStart_waits {c : Nat} (member : c ∈ v.cores x) (runs : (core s c).running = true) : heStart s x k v = s :=
  if_pos (List.any_eq_true.2 ⟨c, member, runs⟩)

/-- The code of a command's checks as the machine stands. -/
def heCode (s : State) (x : Nat) (v : Taken) : Nat :=
  (hePlan s x (ringPart s x) v ((heInputs s x (ringPart s x) v).map Prod.snd)).check s v (heInputs s x (ringPart s x) v)
    (provPlan s x (ringPart s x) v).2

/-- The machine once a command that starts or fails is counted (R391, R845). -/
def heCounted (s : State) (x : Nat) : State := inc (countSec s x 0x106 1) (E.he_command_count + x)

theorem heStart_starts (halted : ∀ c ∈ v.cores x, (core s c).running = false) (passes : heCode s x v = 0)
    (ready : keysReady s (v.cores x) = true) : heStart s x k v =
      runHe (heCounted s x) x k v (hePlan s x (ringPart s x) v ((heInputs s x (ringPart s x) v).map Prod.snd))
        ((heInputs s x (ringPart s x) v).map Prod.snd) (provPlan s x (ringPart s x) v).1 := by
  unfold heCode at passes
  unfold heStart
  dsimp only
  rw [if_neg (by simpa using halted), passes, if_neg (by simp [ready]), if_pos rfl]
  rfl

/-- The machine once a command that fails its checks is counted. -/
def heFailed (s : State) (x : Nat) (v : Taken) : State :=
  if heCode s x v = 0x0208 then inc (heCounted s x) (E.descriptor_invalid_count + x) else heCounted s x

theorem heStart_fails (halted : ∀ c ∈ v.cores x, (core s c).running = false) (fails : heCode s x v ≠ 0) :
    heStart s x k v = refuseHe (heFailed s x v) x k v (heCode s x v) := by
  unfold heFailed
  unfold heCode at fails ⊢
  unfold heStart
  dsimp only
  rw [if_neg (by simpa using halted), if_neg (fun none_ => fails none_.1), if_neg fails]
  rfl

theorem rd_heCounted {j : Nat} (calm : Calm j = true) (other : j ≠ E.he_command_count + x) : rd (heCounted s x) j = rd s j :=
  (rd_inc_other (s := countSec s x 0x106 1) other).trans ((steady_self s).countSec.rd calm)

theorem rd_heFailed {j : Nat} (calm : Calm j = true) (other : j ≠ E.he_command_count + x) (other' : j ≠ E.descriptor_invalid_count + x) :
    rd (heFailed s x v) j = rd s j := by
  unfold heFailed
  split
  · exact (rd_inc_other (s := heCounted s x) other').trans (rd_heCounted calm other)
  · exact rd_heCounted calm other

theorem still_heCounted (s : State) (x : Nat) : still (heCounted s x) = still s := still_countSec (s := s) x 0x106 1

theorem still_heFailed (s : State) (x : Nat) (v : Taken) : still (heFailed s x v) = still s := by
  unfold heFailed
  split <;> exact still_heCounted s x
end

section
variable {u : State} {x k st : Nat} {v : Taken}

/-- A command that leaves its ring with a failure: it is recorded, and its completion posted (R393, R416). -/
theorem refuseHe_eq (fails : st ≠ 0) : ∃ r, refuseHe u x k v st =
    finishWith (noteHeFault { u with freeCtr := u.freeCtr + 1 } x { v with prov := none } st 0) x k { v with prov := none } r [] := by
  unfold refuseHe finishHe finishProv
  rw [if_neg fails]
  exact ⟨_, rfl⟩

theorem rd_noteHeFault (u : State) (x : Nat) (v : Taken) (st faults : Nat) : rd (noteHeFault u x v st faults) E.hef_status = cut E.hef_status st ∧
    rd (noteHeFault u x v st faults) E.hef_op = cut E.hef_op v.op ∧ rd (noteHeFault u x v st faults) E.hef_cmd_id = cut E.hef_cmd_id v.cmdId ∧
    (x < 32 → rd (noteHeFault u x v st faults) (E.he_fault_count + x) = cut (E.he_fault_count + x) (rd u (E.he_fault_count + x) + 1)) := by
  unfold noteHeFault
  dsimp only
  refine ⟨?_, ?_, ?_, fun known => ?_⟩
  · rw [rd_wr_other _ (by decide), rd_wr_other _ (by decide), rd_wr_same]
    rfl
  · rw [rd_wr_other _ (by decide), rd_wr_other _ (by decide), rd_wr_other _ (by decide), rd_wr_other _ (by decide), rd_wr_same]
    rfl
  · rw [rd_wr_other _ (by decide), rd_wr_other _ (by decide), rd_wr_other _ (by decide), rd_wr_same]
    rfl
  · have apart : ∀ j ∈ [E.hef_time, E.hef_fault_cores, E.hef_status, E.hef_cmd_id, E.hef_op, E.hef_sector], E.he_fault_count + x ≠ j := by
      intro j member
      have : j ∉ (List.range 32).map (E.he_fault_count + ·) := by revert j member; decide
      exact fun e => this (e ▸ List.mem_map_of_mem (List.mem_range.2 known))
    rw [rd_wr_other _ (apart _ (by simp)), rd_wr_other _ (apart _ (by simp)), rd_wr_other _ (apart _ (by simp)), rd_wr_other _ (apart _ (by simp)),
      rd_wr_other _ (apart _ (by simp)), rd_wr_other _ (apart _ (by simp)), rd_inc_same]

theorem calm_he (known : x < 32) : Calm (E.he_fault_count + x) = true ∧ Calm (E.he_command_count + x) = true := by
  revert known
  exact fun known => (show ∀ x < 32, Calm (E.he_fault_count + x) = true ∧ Calm (E.he_command_count + x) = true by decide) x known

theorem rd_refuseHe (fails : st ≠ 0) : rd (refuseHe u x k v st) E.hef_status = cut E.hef_status st ∧
    rd (refuseHe u x k v st) E.hef_op = cut E.hef_op v.op ∧ rd (refuseHe u x k v st) E.hef_cmd_id = cut E.hef_cmd_id v.cmdId ∧
    (x < 32 → rd (refuseHe u x k v st) (E.he_fault_count + x) = cut (E.he_fault_count + x) (rd u (E.he_fault_count + x) + 1)) := by
  obtain ⟨r, ends⟩ := refuseHe_eq (u := u) (x := x) (k := k) (v := v) fails
  have steady (w : State) : Steady w (finishWith w x k { v with prov := none } r []) := (steady_self w).finishWith
  obtain ⟨status, op, id, count⟩ := rd_noteHeFault { u with freeCtr := u.freeCtr + 1 } x { v with prov := none } st 0
  rw [ends]
  exact ⟨((steady _).rd (by decide)).trans status, ((steady _).rd (by decide)).trans op, ((steady _).rd (by decide)).trans id,
    fun known => ((steady _).rd (calm_he known).1).trans (count known)⟩
end

/-- What has been loaded and started for a command: its cores run its kernel from the first half-word. -/
theorem runHe_cores (s : State) (x k : Nat) (v : Taken) (h : HePlan) (l : List (List Byte)) (prov : Bool) : ∀ c ∈ v.cores x,
    (core (runHe s x k v h l prov) c).running = true ∧ (core (runHe s x k v h l prov) c).pc = 0 ∧
      (core (runHe s x k v h l prov) c).kernel = some (kernelOf h.op) := by
  intro c member
  have loaded := foldl_reaches (f := loadKernel h.op) (P := fun c u => (core u c).kernel = some (kernelOf h.op)) (l := v.cores x)
    (fun u a _ => (kernel_loadKernel h.op u a a).trans (if_pos rfl))
    (fun u a _ b kept => by rw [kernel_loadKernel]; split <;> [rfl; exact kept])
  have started := foldl_reaches (f := fun u c => startCore u c 0) (P := fun c u => (core u c).running = true ∧ (core u c).pc = 0)
    (l := v.cores x)
    (fun u a _ => ⟨(core_startCore u a 0 a).2.1, (core_startCore u a 0 a).2.2.1⟩)
    (fun u a _ b kept => by
      obtain ⟨other, running, pc, -⟩ := core_startCore u a 0 b
      by_cases it : b = a
      · rw [it]
        exact ⟨running, pc⟩
      · rw [other it]
        exact kept)
  unfold runHe
  dsimp only
  refine List.foldlRecOn (motive := fun u => (core u c).running = true ∧ (core u c).pc = 0 ∧ (core u c).kernel = some (kernelOf h.op))
    _ _ ?_ fun u kept e _ => ?_
  · obtain ⟨running, pc⟩ := started ((v.cores x).foldl (loadKernel h.op) (setTaken s x k v _)) c member
    refine ⟨running, pc, ?_⟩
    exact List.foldlRecOn (motive := fun u => (core u c).kernel = some (kernelOf h.op)) _ _ (loaded _ c member) fun u kept e _ =>
      (kernel_startCore u e 0 c).trans kept
  · obtain ⟨running, pc, kernel⟩ := core_openPass (onCore u e.1 fun k => { k with passes := h.passes u (v.cores x).length e.2 }) e.1 c
    rw [running, pc, kernel, core_onCore]
    split
    · rename_i it
      rw [← it]
      exact kept
    · exact kept

/-- A command that has started, as its ring keeps it. -/
def heRunningTaken (s : State) (x : Nat) (v : Taken) (h : HePlan) (l : List (List Byte)) (prov : Bool) : Taken :=
  { v with
    started := true, startTime := now s, startStep := rd s E.step_counter,
    loaded := (v.cores x).any fun c => (core s c).kernel != some (kernelOf h.op), nd := rd s (E.nd_count + h.part)
    inputs := l, prov := if prov then some (heMaterial s h v l) else none }

theorem runHe_sectors (s : State) (x k : Nat) (v : Taken) (h : HePlan) (l : List (List Byte)) (prov : Bool) :
    (runHe s x k v h l prov).sectors = (setTaken s x k v (heRunningTaken s x v h l prov)).sectors := by
  unfold runHe
  dsimp only
  refine List.foldlRecOn (motive := fun u : State => u.sectors = _) _ _ ?_ fun u kept e _ => (sectors_openPass ..).trans kept
  refine List.foldlRecOn (motive := fun u : State => u.sectors = _) _ _ ?_ fun u kept c _ => (sectors_startCore u c 0).trans kept
  exact List.foldlRecOn (motive := fun u : State => u.sectors = _) _ _ rfl fun u kept c _ => (sectors_loadKernel h.op u c).trans kept

theorem Steady.runHe {d₀ s : State} {x k : Nat} {v : Taken} {h : HePlan} {l : List (List Byte)} {prov : Bool} (kept : Steady d₀ s) :
    Steady d₀ (runHe s x k v h l prov) := by
  unfold Machine.runHe
  dsimp only
  exact Steady.foldl (Steady.foldl (kept.setTaken.foldl fun _ _ h => h.loadKernel) fun _ _ h => h.startCore) fun _ _ h => h.onCore.openPass

/-- A start: the command is counted, its ring keeps it as started, and each of its cores runs the kernel. -/
theorem heStart_success {s : State} {x k : Nat} {v : Taken} (hx : x < 32) (queued : v ∈ (ringOf s x k).queue)
    (h : HePlan) (l : List (List Byte)) (prov : Bool) :
    rd (runHe (heCounted s x) x k v h l prov) (E.he_command_count + x) = cut (E.he_command_count + x) (rd s (E.he_command_count + x) + 1) ∧
    (∃ w ∈ (ringOf (runHe (heCounted s x) x k v h l prov) x k).queue, w.record = v.record ∧ w.started = true ∧ w.startTime = now s) := by
  have calm := (calm_he hx).2
  have rings : ringOf (heCounted s x) x k = ringOf s x k := ringOf_congr (sectors_of_still (still_heCounted s x)) x k
  have apart : E.time_count ≠ E.he_command_count + x := Nat.ne_of_lt (Nat.lt_of_lt_of_le (by decide) (Nat.le_add_right ..))
  refine ⟨?_, heRunningTaken (heCounted s x) x v h l prov, ?_, rfl, rfl, rd_heCounted (by decide) apart⟩
  · rw [((steady_self (heCounted s x)).runHe).rd calm, heCounted, rd_inc_same, ((steady_self s).countSec).rd calm]
  · rw [ringOf_congr (runHe_sectors ..)]
    exact mem_setTaken (rings ▸ queued)

/-- What a homomorphic command does, by its operation. -/
theorem heCommand_runs {s : State} {x k : Nat} {v : Taken} {n : Instr} {op : Nat} (hx : x < 32) (hk : k < 8)
    (runs : exec n s = heCommand op s x k) (next : nextOp s x k op = some v) (fits : cut E.hef_op op = op) :
    ((∃ c ∈ v.cores x, (core s c).running = true) → Stays n s) ∧
      ((∀ c ∈ v.cores x, (core s c).running = false) →
        (heCode s x v = 0 → keysReady s (v.cores x) = true → Leads n s fun t =>
          rd t (E.he_command_count + x) = cut (E.he_command_count + x) (rd s (E.he_command_count + x) + 1) ∧
          (∃ w ∈ (ringOf t x k).queue, w.record = v.record ∧ w.started = true ∧ w.startTime = now s) ∧
          ∀ c ∈ v.cores x, (core t c).running = true ∧ (core t c).pc = 0 ∧ (core t c).kernel = some (kernelOf op)) ∧
        (heCode s x v ≠ 0 → Leads n s fun t => rd t E.hef_status = cut E.hef_status (heCode s x v) ∧ rd t E.hef_op = op ∧
          rd t (E.he_fault_count + x) = cut (E.he_fault_count + x) (rd s (E.he_fault_count + x) + 1) ∧
          ∀ c ∈ v.cores x, (core t c).running = false)) := by
  obtain ⟨queued, named⟩ := mem_of_nextOp next
  have ends : exec n s = done s (heStart s x k v) := by
    rw [runs, heCommand, next]
    exact guarded_of (decide_eq_true ⟨hx, hk⟩) ..
  refine ⟨fun ⟨c, member, running⟩ => stays_of_same ends (heStart_waits member running), fun halted => ⟨fun passes ready => ?_, fun fails => ?_⟩⟩
  · rw [heStart_starts halted passes ready] at ends
    obtain ⟨count, started⟩ := heStart_success (k := k) hx queued
      (hePlan s x (ringPart s x) v ((heInputs s x (ringPart s x) v).map Prod.snd)) ((heInputs s x (ringPart s x) v).map Prod.snd)
      (provPlan s x (ringPart s x) v).1
    refine leads_of_effect ends ⟨count, started, fun c member => ?_⟩ fun _ _ h => h
    obtain ⟨running, pc, kernel⟩ := runHe_cores (heCounted s x) x k v _ _ _ c member
    exact ⟨running, pc, kernel.trans (congrArg (fun o => some (kernelOf o)) named)⟩
  · rw [heStart_fails halted fails] at ends
    obtain ⟨status, op_, -, count⟩ := rd_refuseHe (u := heFailed s x v) (x := x) (k := k) (v := v) fails
    refine leads_of_effect ends ⟨status, op_.trans (by rw [named, fits]), ?_, fun c member => ?_⟩ fun _ _ h => h
    · have apart (a b : Nat) (ne : a ≠ b) : a + x ≠ b + x := fun e => ne (Nat.add_right_cancel e)
      rw [count hx, rd_heFailed (calm_he hx).1 (apart _ _ (by decide)) (apart _ _ (by decide))]
    · have same := (coresIs_def _).1 ((coresIs_self (heFailed s x v)).refuseHe (x := x) (k := k) (t := v) (status := heCode s x v))
      rw [core_congr (same.trans (cores_of_still (still_heFailed s x v)))]
      exact halted c member

/-- Settles O35: the twenty commands are one function of their operation; a start changes its cores by `runHe_cores`, and of the
dictionary no calm entry but the command count (`Steady`). -/
theorem homomorphicCommandsStart : Obligations.HomomorphicCommandsStart := by
  unfold Obligations.HomomorphicCommandsStart
  intro s x k v hx hk
  have runs {n : Instr} {op : Nat} (runs : exec n s = heCommand op s x k) (fits : cut E.hef_op op = op) (next : nextOp s x k op = some v) :=
    heCommand_runs hx hk runs next fits
  exact ⟨runs rfl rfl, runs rfl rfl, runs rfl rfl, runs rfl rfl, runs rfl rfl, runs rfl rfl, runs rfl rfl, runs rfl rfl, runs rfl rfl,
    runs rfl rfl, runs rfl rfl, runs rfl rfl, runs rfl rfl, runs rfl rfl, runs rfl rfl, runs rfl rfl, runs rfl rfl, runs rfl rfl,
    runs rfl rfl, runs rfl rfl⟩

end Sys2Proof.Machine
end

section
/-! SUPPORT. The start and the stop of programs (R685 to R687, R758). -/

namespace Sys2Proof.Machine

open Sys2Proof

section
variable {c₀ : Nat} {k₀ : Core}

protected theorem Rest.wrNat {s : State} {k n v : Nat} (h : Rest c₀ k₀ s) : Rest c₀ k₀ (wrNat s k n v) := h.wrBytes

protected theorem Rest.emit {s : State} {o : Out} (h : Rest c₀ k₀ s) : Rest c₀ k₀ (emit s o) := h.mk

protected theorem Rest.msixSend {s : State} {v : Nat} (h : Rest c₀ k₀ s) : Rest c₀ k₀ (msixSend s v) := h.mk.emit.ite h.mk

protected theorem Rest.signalVector {s : State} {v : Nat} (h : Rest c₀ k₀ s) : Rest c₀ k₀ (signalVector s v) :=
  h.ite (h.mk.ite h.msixSend)

protected theorem Rest.leaveAborted {s : State} {c : Nat} (h : Rest c₀ k₀ s) : Rest c₀ k₀ (leaveAborted s c) := by
  unfold leaveAborted
  split
  · exact h
  · split
    · exact h.unbind
    · exact .ite (h.unbind.ite h.unbind.mk.noteGroups) h

protected theorem Rest.setHandle {s : State} {h : Nat} {v : Handle} (hs : Rest c₀ k₀ s) : Rest c₀ k₀ (setHandle s h v) := hs.mk

protected theorem Rest.setPort {s : State} {p : Nat} {v : Port} (h : Rest c₀ k₀ s) : Rest c₀ k₀ (setPort s p v) := h.mk

protected theorem Rest.sendFlits {s : State} {p vc n : Nat} (h : Rest c₀ k₀ s) : Rest c₀ k₀ (sendFlits s p vc n) :=
  h.setPort.countDev

protected theorem Rest.sendMsg {s : State} {mtype : Nat} {m : Msg} (h : Rest c₀ k₀ s) : Rest c₀ k₀ (sendMsg s mtype m) :=
  .ite (.emit (by
    split
    · exact .sendFlits (h.noteNd.ite h)
    · exact h.noteNd.ite h)) h

protected theorem Rest.sendNow {s : State} {h : Nat} {r : Request} (hs : Rest c₀ k₀ s) : Rest c₀ k₀ (sendNow s h r) :=
  .sendMsg (hs.setHandle.mk.ite hs.setHandle)

protected theorem Rest.request {s : State} {h : Nat} {r : Request} (hs : Rest c₀ k₀ s) : Rest c₀ k₀ (request s h r) :=
  .ite (.sendNow (by
    split
    · exact hs.setGroup
    · exact hs)) (.setHandle (by
    split
    · exact hs.setGroup
    · exact hs))

protected theorem Rest.postEntry {s : State} {x cb off n : Nat} {r : List Byte} (h : Rest c₀ k₀ s) :
    Rest c₀ k₀ (postEntry s x cb off n r) := h.wrBytes.wrNat.wrNat

protected theorem Rest.unitStore {s : State} {x p : Nat} {g : Option Nat} {k : Nat} {d : List Byte} (h : Rest c₀ k₀ s) :
    Rest c₀ k₀ (unitStore s x p g k d).1 :=
  .ite_fst (h.ite_fst h.request) (h.ite_fst (by
    dsimp only
    split
    · exact .groupStore (h.noteLanded.ite h)
    · exact .storeAt (h.noteLanded.ite h)))

protected theorem Rest.vaWrite {s : State} {x p : Nat} {g : Option Nat} {va : Nat} {d : List Byte} (h : Rest c₀ k₀ s) :
    Rest c₀ k₀ (vaWrite s x p g va d).1 := h.ite_fst (h.foldl_fst fun _ _ h => h.unitStore)

protected theorem Rest.setRing {s : State} {x k : Nat} {v : Ring} (h : Rest c₀ k₀ s) : Rest c₀ k₀ (setRing s x k v) :=
  h.setSector

protected theorem Rest.mirrorEntry {s : State} {x k e : Nat} {r : List Byte} (h : Rest c₀ k₀ s) :
    Rest c₀ k₀ (mirrorEntry s x k e r) := h.ite (h.inc.ite h.emit)

protected theorem Rest.postCompletion {s : State} {x k : Nat} {r : List Byte} (h : Rest c₀ k₀ s) :
    Rest c₀ k₀ (postCompletion s x k r) := h.setRing.ite h.postEntry.mirrorEntry.signalVector

protected theorem Rest.finishWith {s : State} {x k : Nat} {t : Taken} {r extra : List Byte} (h : Rest c₀ k₀ s) :
    Rest c₀ k₀ (finishWith s x k t r extra) :=
  .postCompletion (.ite (.mk (by
    split
    · exact h.setRing
    · exact h.setRing.ite h.setRing.vaWrite)) (by
    split
    · exact h.setRing
    · exact h.setRing.ite h.setRing.vaWrite))

protected theorem Rest.finishProv {s : State} {x k : Nat} {t : Taken} {status : Nat} {r tail : List Byte} (h : Rest c₀ k₀ s) :
    Rest c₀ k₀ (finishProv s x k t status r tail) := h.finishWith

protected theorem Rest.finishPlain {s : State} {x k : Nat} {t : Taken} {status : Nat} (h : Rest c₀ k₀ s) :
    Rest c₀ k₀ (finishPlain s x k t status) := h.mk.finishWith

protected theorem Rest.finishCommit {s : State} {w : Option (Nat × Nat)} {i st : Nat} (h : Rest c₀ k₀ s) :
    Rest c₀ k₀ (finishCommit s w i st) := by
  unfold finishCommit
  split
  · exact h
  · split
    · exact h.finishPlain
    · exact h

protected theorem Rest.tryCommit {s : State} {i : Nat} (h : Rest c₀ k₀ s) : Rest c₀ k₀ (tryCommit s i) := by
  unfold tryCommit
  split
  · exact h
  · exact h.ite (h.resolveGroup.finishCommit.ite h.mk.setGroup)

protected theorem Rest.settleGroups {s : State} (h : Rest c₀ k₀ s) : Rest c₀ k₀ (settleGroups s) :=
  .foldl (h.foldl fun _ _ h => h.tryCommit.ite h) fun _ _ h => h.foldl fun _ _ h => h.foldl fun _ _ h => .ite (by
    split
    · exact h.finishPlain
    · exact h) h

protected theorem Rest.settleStart {s : State} {x k : Nat} {t : Taken} (h : Rest c₀ k₀ s) : Rest c₀ k₀ (settleStart s x k t) :=
  h.ite (h.finishPlain.ite h.mk.finishProv)

protected theorem Rest.settleStarts {s : State} {x : Nat} (h : Rest c₀ k₀ s) : Rest c₀ k₀ (settleStarts s x) :=
  h.foldl fun _ _ h => h.foldl fun _ _ h => h.settleStart

end

/-! ## Programs that start (R685, R686) -/

section
variable {α β : Type} {f : State → α → State} {R : State → α → β} {P : α → β → Prop} {I : State → Prop} {l : List α}

theorem foldl_apart (inv : ∀ u, I u → ∀ a ∈ l, I (f u a)) (other : ∀ u, I u → ∀ a ∈ l, ∀ b, b ≠ a → R (f u a) b = R u b) {s : State} (start : I s)
    {b : α} (out : b ∉ l) : R (l.foldl f s) b = R s b :=
  (List.foldlRecOn (motive := fun u => I u ∧ R u b = R s b) l f ⟨start, rfl⟩ fun u kept a member =>
    ⟨inv u kept.1 a member, (other u kept.1 a member b fun e => out (e ▸ member)).trans kept.2⟩).2

/-- A fold over distinct units whose steps each change one unit: what a step makes of its unit, as the fold found it, holds of that
unit at the end. -/
theorem foldl_each (distinct : l.Nodup) (inv : ∀ u, I u → ∀ a ∈ l, I (f u a)) (other : ∀ u, I u → ∀ a ∈ l, ∀ b, b ≠ a → R (f u a) b = R u b)
    {s : State} (start : I s) (own : ∀ u, I u → ∀ a ∈ l, R u a = R s a → P a (R (f u a) a)) : ∀ a ∈ l, P a (R (l.foldl f s) a) := by
  suffices steps : ∀ u, I u → (∀ a ∈ l, R u a = R s a) → ∀ a ∈ l, P a (R (l.foldl f u) a) from steps s start fun _ _ => rfl
  induction l with
  | nil => exact fun u _ _ a member => absurd member List.not_mem_nil
  | cons c l ih =>
    intro u good fresh a member
    have ⟨out, rest⟩ := List.nodup_cons.1 distinct
    have next := inv u good c (.head l)
    rcases List.mem_cons.1 member with here | later
    · rw [here, List.foldl_cons, foldl_apart (fun u i a m => inv u i a (.tail _ m)) (fun u i a m => other u i a (.tail _ m)) next out]
      exact own u good c (.head l) (fresh c (.head l))
    · refine ih rest (fun u i a m => inv u i a (.tail _ m)) (fun u i a m => other u i a (.tail _ m)) (fun u i a m => own u i a (.tail _ m))
        (f u c) next (fun a m => ?_) a later
      rw [other u good c (.head l) a fun e => out (e ▸ m)]
      exact fresh a (.tail _ m)
end

theorem cores_nodup (v : Taken) (x : Nat) : (v.cores x).Nodup :=
  (List.nodup_range.filter _).map_on fun _ _ _ _ same => Nat.add_left_cancel same

theorem cores_known {v : Taken} {x c : Nat} (hx : x < 32) (member : c ∈ v.cores x) : c < 800 := by
  obtain ⟨p, listed, rfl⟩ := List.mem_map.1 member
  have := List.mem_range.1 (List.mem_of_mem_filter listed)
  omega

/-- An image that is read whole has the bytes that its record gives. -/
theorem imageRead_length {s : State} {x p va n : Nat} (ok : (imageRead s x p va n).1 = 0) : (imageRead s x p va n).2.length = n := by
  revert ok
  unfold imageRead
  dsimp only
  split
  · exact fun ok => absurd ok (by assumption)
  · rename_i good
    split
    · exact fun ok => absurd ok (show (0x0302 : Nat) ≠ 0 by decide)
    · split
      · exact fun ok => absurd ok (by assumption)
      · intro _
        rw [List.length_flatMap]
        simp only [rdBytes_length]
        exact vaPieces_length (.inr (by omega)) (Decidable.not_not.1 good)

section
variable {s : State} {x k : Nat} {v : Taken}

/-- The bytes of an image go to the front bank of a core. -/
def loadImage (d : List Byte) (u : State) (c : Nat) : State :=
  setCore (pmWrite u c (core u c).front 0 d).1 c { core (pmWrite u c (core u c).front 0 d).1 c with kernel := none }

theorem loadImage_eq {u : State} {c : Nat} (halted : (core u c).running = false) (d : List Byte) : loadImage d u c =
    setCore (wrBytes u (Mem.prog c (core u c).front 0) d) c { core u c with kernel := none } := by
  have writes : pmWrite u c (core u c).front 0 d = (wrBytes u (Mem.prog c (core u c).front 0) d, 0) := by
    unfold pmWrite
    dsimp only
    rw [if_pos rfl, if_neg (by rw [halted]; decide)]
  unfold loadImage
  rw [writes]
  rfl

/-- Cores of a set that are halted. -/
def Halting (l : List Nat) (u : State) : Prop := ∀ c ∈ l, (core u c).running = false

theorem halting_loadImage {l : List Nat} {d : List Byte} {u : State} (halted : Halting l u) {a : Nat} (member : a ∈ l) : Halting l (loadImage d u a) := by
  intro c m
  rw [loadImage_eq (halted a member), core_setCore]
  split
  · rename_i it
    exact halted a member
  · exact halted c m

theorem core_loadImage {l : List Nat} {d : List Byte} {u : State} (halted : Halting l u) {a : Nat} (member : a ∈ l) (b : Nat) :
    core (loadImage d u a) b = if b = a then { core u a with kernel := none } else core u b := by
  rw [loadImage_eq (halted a member), core_setCore]
  rfl

theorem sectors_loadImages {l : List Nat} {d : List Byte} {u : State} (halted : Halting l u) :
    (l.foldl (loadImage d) u).sectors = u.sectors ∧ (l.foldl (loadImage d) u).dict = u.dict := by
  refine (List.foldlRecOn (motive := fun w => Halting l w ∧ w.sectors = u.sectors ∧ w.dict = u.dict) l _ ⟨halted, rfl, rfl⟩
    fun w kept a member => ?_).2
  obtain ⟨good, sectors, dict⟩ := kept
  refine ⟨halting_loadImage good member, ?_⟩
  rw [loadImage_eq (good a member)]
  exact ⟨sectors, dict⟩

/-- The image that a record names, and its bytes. -/
def Taken.image (v : Taken) : Nat := bits (v.word 1) 47 0
def Taken.imageBytes (v : Taken) : Nat := bits (v.word 2) 17 0
def imageOf (s : State) (x : Nat) (v : Taken) : Nat × List Byte :=
  if v.image = 0 then (0, []) else imageRead s x (ringPart s x) v.image v.imageBytes

/-- A record that `PSTART` obeys once its cores are halted and keys can be given. -/
structure Startable (s : State) (x : Nat) (v : Taken) : Prop where
  halted : Halting (v.cores x) s
  checks : v.checks = true
  some_ : v.cores x ≠ []
  prov : (provPlan s x (ringPart s x) v).2 = 0
  image : v.image ≠ 0 → v.imageBytes % 8 = 0 ∧ 8 ≤ v.imageBytes ∧ v.imageBytes ≤ 131072 ∧ (imageOf s x v).1 = 0

/-- The machine once the image is in the front banks, where the record names one. -/
def imagesLoaded (s : State) (x : Nat) (v : Taken) : State :=
  if v.image = 0 then s else (v.cores x).foldl (loadImage (imageOf s x v).2) s

/-- A started `PSTART`, as its ring keeps it. -/
def pstartTaken (s u : State) (x : Nat) (v : Taken) : Taken :=
  { v with
    started := true, startTime := now u, startStep := rd u E.step_counter, loaded := v.image != 0
    nd := rd u (E.nd_count + ringPart s x)
    prov := if (provPlan s x (ringPart s x) v).1 then some (entryBytes u E.running_digest ++ sm3 (if v.image = 0 then
        rdBytes u (Mem.prog ((v.cores x).headD 0) (core u ((v.cores x).headD 0)).front 0) 131072 else (imageOf s x v).2) ++
      v.record.take 8 ++ (v.record.drop 40).take 8 ++ List.replicate 8 0) else none }

/-- The machine once each core of a `PSTART` has started. -/
def coresStarted (s : State) (x k : Nat) (v : Taken) : State :=
  (v.cores x).foldl (fun u c => startCore u c (bits (v.word 3) 14 0))
    (setTaken (imagesLoaded s x v) x k v (pstartTaken s (imagesLoaded s x v) x v))

theorem pstart_eq (h : Startable s x v) : pstart s x k v = if !keysReady s (v.cores x) then s else coresStarted s x k v := by
  obtain ⟨halted, checks, some_, prov, image⟩ := h
  have none_ : ¬((v.cores x).any fun c => (core s c).running) = true := by
    rw [List.any_eq_true]
    exact fun ⟨c, member, running⟩ => absurd running (by rw [halted c member]; decide)
  have sized : ¬((!v.checks) = true ∨ (v.cores x).isEmpty = true ∨
      (v.image ≠ 0 ∧ (!(v.imageBytes % 8 == 0 && decide (8 ≤ v.imageBytes ∧ v.imageBytes ≤ 131072))) = true)) := by
    rintro (unchecked | empty | ⟨named, unsized⟩)
    · rw [checks] at unchecked
      exact absurd unchecked (by decide)
    · exact some_ (List.isEmpty_iff.1 empty)
    · obtain ⟨even, low, high, -⟩ := image named
      rw [even, decide_eq_true ⟨low, high⟩] at unsized
      exact absurd unsized (by decide)
  have read : ¬((imageOf s x v).1 ≠ 0 ∨ (provPlan s x (ringPart s x) v).2 ≠ 0) := by
    rintro (unread | fails)
    · by_cases named : v.image = 0
      · exact unread (congrArg Prod.fst (if_pos named))
      · exact unread (image named).2.2.2
    · exact fails prov
  exact (if_neg none_).trans ((if_neg sized).trans (if_neg read))

theorem loaded_kept {l : List Nat} {d : List Byte} {u : State} (halted : Halting l u) : Halting l (l.foldl (loadImage d) u) ∧
    ∀ b, (core (l.foldl (loadImage d) u) b).cmAttr = (core u b).cmAttr ∧ (core (l.foldl (loadImage d) u) b).front = (core u b).front := by
  refine List.foldlRecOn (motive := fun w => Halting l w ∧ ∀ b, (core w b).cmAttr = (core u b).cmAttr ∧ (core w b).front = (core u b).front)
    l _ ⟨halted, fun _ => ⟨rfl, rfl⟩⟩ fun w kept a member => ⟨halting_loadImage kept.1 member, fun b => ?_⟩
  rw [core_loadImage kept.1 member]
  split
  · rename_i it
    rw [it]
    exact kept.2 a
  · exact kept.2 b

theorem imagesLoaded_kept (halted : Halting (v.cores x) s) : (imagesLoaded s x v).sectors = s.sectors ∧ (imagesLoaded s x v).dict = s.dict ∧
    ∀ b, (core (imagesLoaded s x v) b).cmAttr = (core s b).cmAttr := by
  unfold imagesLoaded
  split
  · exact ⟨rfl, rfl, fun _ => rfl⟩
  · obtain ⟨sectors, dict⟩ := sectors_loadImages (d := (imageOf s x v).2) halted
    exact ⟨sectors, dict, fun b => ((loaded_kept halted).2 b).1⟩

/-- Front banks of distinct cores lie apart. -/
theorem banks_apart {a b f g n : Nat} (other : b ≠ a) (low : f < 2) (low' : g < 2) (fits : n ≤ 131072) :
    Mem.prog b g 0 + n ≤ Mem.prog a f 0 ∨ Mem.prog a f 0 + n ≤ Mem.prog b g 0 := by
  unfold Mem.prog
  omega

theorem rdBytes_loaded {l : List Nat} {d : List Byte} (distinct : l.Nodup) (fits : d.length ≤ 131072) (halted : Halting l s)
    (low : ∀ c ∈ l, (core s c).front < 2) : ∀ c ∈ l, rdBytes (l.foldl (loadImage d) s) (Mem.prog c (core s c).front 0) d.length = d := by
  suffices each : ∀ c ∈ l, (if c ∈ l then rdBytes (l.foldl (loadImage d) s) (Mem.prog c (core s c).front 0) d.length else d) = d from
    fun c member => (if_pos member).symm.trans (each c member)
  refine foldl_each (I := fun u => Halting l u ∧ ∀ c ∈ l, (core u c).front = (core s c).front) (P := fun _ e => e = d)
    (R := fun u c => if c ∈ l then rdBytes u (Mem.prog c (core s c).front 0) d.length else d) distinct ?_ ?_ ⟨halted, fun _ _ => rfl⟩ ?_
  · refine fun u kept a member => ⟨halting_loadImage kept.1 member, fun c m => ?_⟩
    rw [core_loadImage kept.1 member]
    split
    · rename_i it
      rw [it]
      exact kept.2 a member
    · exact kept.2 c m
  · intro u kept a member b other
    split
    · rename_i m
      rw [loadImage_eq (kept.1 a member), kept.2 a member]
      exact rdBytes_wrBytes_other u _ d _ _ (banks_apart other (low a member) (low b m) fits)
    · rfl
  · intro u kept a member _
    rw [if_pos member, loadImage_eq (kept.1 a member), kept.2 a member]
    exact rdBytes_wrBytes u _ d

theorem coresStarted_keeps : (coresStarted s x k v).sectors = (setTaken (imagesLoaded s x v) x k v (pstartTaken s (imagesLoaded s x v) x v)).sectors ∧
    (coresStarted s x k v).mem = (imagesLoaded s x v).mem := by
  unfold coresStarted
  refine List.foldlRecOn (motive := fun u : State => u.sectors = _ ∧ u.mem = _) _ _ ⟨rfl, rfl⟩ fun u kept c _ => ?_
  obtain ⟨w, f, starts, -, sectors, mem, -⟩ := startCore_eq u c (bits (v.word 3) 14 0)
  rw [starts]
  exact ⟨sectors.trans kept.1, mem.trans kept.2⟩

theorem coresStarted_cores (halted : Halting (v.cores x) s) : ∀ c ∈ v.cores x, (core (coresStarted s x k v) c).running = true ∧
    (core (coresStarted s x k v) c).pc = bits (v.word 3) 14 0 ∧ (core (coresStarted s x k v) c).block = none ∧
    (∀ j, (core (coresStarted s x k v) c).x j = 0) ∧ (core (coresStarted s x k v) c).cmAttr = (core s c).cmAttr := by
  refine foldl_each (I := fun _ => True) (R := fun u c => core u c) (P := fun c o => o.running = true ∧ o.pc = bits (v.word 3) 14 0 ∧ o.block = none ∧
    (∀ j, o.x j = 0) ∧ o.cmAttr = (core s c).cmAttr) (cores_nodup v x) (fun _ _ _ _ => trivial)
    (fun u _ a _ b other => (core_startCore u a (bits (v.word 3) 14 0) b).1 other) trivial fun u _ a _ same => ?_
  obtain ⟨-, running, pc, block, regs, attr, -⟩ := core_startCore u a (bits (v.word 3) 14 0) a
  refine ⟨running, pc, block, regs, ?_⟩
  rw [attr, same]
  exact (imagesLoaded_kept halted).2.2 a

/-- A `PSTART` whose record is obeyed, once keys can be given. -/
theorem pstart_leads (queued : v ∈ (ringOf s x k).queue) (runs : exec (.pstart x k) s = done s (coresStarted s x k v))
    (halted : Halting (v.cores x) s) (image : v.image ≠ 0 → v.imageBytes ≤ 131072 ∧ (imageOf s x v).1 = 0) : Leads (.pstart x k) s fun t =>
      (∃ w ∈ (ringOf t x k).queue, w.record = v.record ∧ w.started = true ∧ w.startTime = now s) ∧
      ∀ c ∈ v.cores x, (core t c).running = true ∧ (core t c).pc = bits (v.word 3) 14 0 ∧ (core t c).block = none ∧
        (∀ j, (core t c).x j = 0) ∧ (core t c).cmAttr = (core s c).cmAttr ∧
        (v.image ≠ 0 → (∀ d ∈ v.cores x, (core s d).front < 2) →
          rdBytes t (Mem.prog c (core s c).front 0) (imageOf s x v).2.length = (imageOf s x v).2) := by
  obtain ⟨sectors, mem⟩ := coresStarted_keeps (s := s) (x := x) (k := k) (v := v)
  obtain ⟨loaded, dict, -⟩ := imagesLoaded_kept halted
  refine leads_of_effect runs ⟨⟨pstartTaken s (imagesLoaded s x v) x v, ?_, rfl, rfl, rd_congr dict _⟩, fun c member => ?_⟩ fun _ _ h => h
  · rw [ringOf_congr sectors]
    exact mem_setTaken ((ringOf_congr loaded x k) ▸ queued)
  · obtain ⟨running, pc, block, regs, attr⟩ := coresStarted_cores (k := k) halted c member
    refine ⟨running, pc, block, regs, attr, fun named low => ?_⟩
    have size : (imageOf s x v).2.length = v.imageBytes := by
      have ok := (image named).2
      unfold imageOf at ok ⊢
      rw [if_neg named] at ok ⊢
      exact imageRead_length ok
    rw [rdBytes_congr mem, imagesLoaded, if_neg named]
    exact rdBytes_loaded (cores_nodup v x) (size ▸ (image named).1) halted low c member

/-! ## Programs that stop (R687) -/

theorem core_rest_eq {k k' : Core} (same : k.rest = k'.rest) : k.running = k'.running ∧ k.block = k'.block ∧ k.halt = k'.halt ∧
    k.stopping = k'.stopping :=
  ⟨show k.rest.running = k'.rest.running by rw [same], show k.rest.block = k'.rest.block by rw [same],
    show k.rest.halt = k'.rest.halt by rw [same], show k.rest.stopping = k'.rest.stopping by rw [same]⟩

/-- A core whose program something stops, from what it was. -/
def StoppedFrom (st : Nat) (k k' : Core) : Prop :=
  (k.block = none → k'.running = false ∧ k'.halt = st) ∧
    ∀ b, k.block = some b → k'.stopping = some st ∧ ∃ w, k'.block = some w ∧ w.fault = if b.fault = 0 then st else b.fault

theorem StoppedFrom.congr {st : Nat} {k k' l l' : Core} (h : StoppedFrom st k k') (same : l.rest = k.rest) (same' : l'.rest = k'.rest) :
    StoppedFrom st l l' := by
  obtain ⟨-, block, -, -⟩ := core_rest_eq same
  obtain ⟨running', block', halt', stopping'⟩ := core_rest_eq same'
  unfold StoppedFrom
  rw [block, running', halt', stopping', block']
  exact h

theorem rest_of_flush (u : State) (c j : Nat) : (core (flush u c) j).rest = (core u j).rest :=
  (rest_def _).1 (((rest_def u).2 rfl : Rest j (core u j).rest u).flush)

/-- The end of a program changes one core, but for what of stitch groups the others hold. -/
theorem rest_haltCore_other {u : State} {c st j : Nat} (other : j ≠ c) : (core (haltCore u c st) j).rest = (core u j).rest := by
  refine (rest_def _).1 ?_
  unfold haltCore
  dsimp only
  refine Rest.settleStarts (Rest.settleGroups (Rest.leaveAborted ((rest_def _).2 ?_)))
  rw [core_onCore, if_neg other]
  exact rest_of_flush u c j

theorem haltCore_halts (u : State) (c st : Nat) : (core (haltCore u c st) c).running = false ∧ (core (haltCore u c st) c).halt = st := by
  have kept {w : State} {o : Core} (is : (core w c).rest = o.rest) (x : Nat) :
      (core (settleStarts (settleGroups (leaveAborted w c)) x) c).rest = o.rest :=
    (rest_def _).1 (Rest.settleStarts (Rest.settleGroups (Rest.leaveAborted ((rest_def _).2 is))))
  obtain ⟨running, -, halt, -⟩ := core_rest_eq (kept (congrArg Core.rest ((core_onCore (flush u c) c _ c).trans (if_pos rfl))) (c / 25))
  exact ⟨running, halt⟩

theorem rest_stopCore_other {u : State} {c st j : Nat} (other : j ≠ c) : (core (stopCore u c st) j).rest = (core u j).rest := by
  unfold stopCore
  dsimp only
  split
  · rfl
  · split
    · exact rest_haltCore_other other
    · rw [core_onCore, if_neg other]

theorem stopCore_stops {u : State} {c : Nat} (runs : (core u c).running = true) (st : Nat) :
    StoppedFrom st (core u c) (core (stopCore u c st) c) := by
  unfold stopCore
  dsimp only
  rw [if_neg (by rw [runs]; decide)]
  split
  · rename_i none_
    exact ⟨fun _ => haltCore_halts u c st, fun b some_ => absurd (none_.symm.trans some_) (by simp)⟩
  · rename_i b some_
    refine ⟨fun none_ => absurd (some_.symm.trans none_) (by simp), fun b' is => ?_⟩
    rw [core_onCore, if_pos rfl]
    obtain rfl := Option.some.inj (some_.symm.trans is)
    exact ⟨rfl, _, rfl, rfl⟩

/-- The machine once a `PSTOP` is noted at its ring, and its cores' starters have its status. -/
def stopNoted (s : State) (x k : Nat) (t : Taken) (run : List Nat) : State :=
  setTaken (run.foldl (fun u c => abortStarter u x c 0x0504) s) x k t
    { t with started := true, startTime := now (run.foldl (fun u c => abortStarter u x c 0x0504) s),
             startStep := rd (run.foldl (fun u c => abortStarter u x c 0x0504) s) E.step_counter }

theorem cores_abortStarter (s : State) (x c st : Nat) : (abortStarter s x c st).cores = s.cores :=
  List.foldlRecOn (motive := fun u : State => u.cores = s.cores) _ _ rfl fun _ kept _ _ => kept

theorem cores_stopNoted (s : State) (x k : Nat) (t : Taken) (run : List Nat) : (stopNoted s x k t run).cores = s.cores :=
  List.foldlRecOn (motive := fun u : State => u.cores = s.cores) run _ rfl fun _ kept _ _ => (cores_abortStarter ..).trans kept

theorem pstop_eq (checks : v.checks = true) : pstop s x k v = settleStarts (((v.cores x).filter fun c => (core s c).running).foldl
    (fun u c => stopCore u c 0x0504) (stopNoted s x k v ((v.cores x).filter fun c => (core s c).running))) x :=
  if_neg (by rw [checks]; decide)

theorem pstop_stops (checks : v.checks = true) {c : Nat} (member : c ∈ v.cores x) (runs : (core s c).running = true) :
    StoppedFrom 0x0504 (core s c) (core (pstop s x k v) c) := by
  rw [pstop_eq checks]
  have rest (j : Nat) : (core (stopNoted s x k v ((v.cores x).filter fun c => (core s c).running)) j).rest = (core s j).rest :=
    congrArg Core.rest (core_congr (cores_stopNoted ..) j)
  have each := foldl_each (f := fun u c => stopCore u c 0x0504) (l := (v.cores x).filter fun c => (core s c).running) (I := fun _ => True)
    (R := fun u c => (core u c).rest) (P := fun c o => StoppedFrom 0x0504 (core s c) o) ((cores_nodup v x).filter _) (fun _ _ _ _ => trivial)
    (fun u _ a _ b other => rest_stopCore_other other) trivial (s := stopNoted s x k v ((v.cores x).filter fun c => (core s c).running))
    (fun u _ a m same => by
      have was := same.trans (rest a)
      have runs : (core u a).running = true := (core_rest_eq was).1.trans (List.mem_filter.1 m).2
      exact (stopCore_stops runs 0x0504).congr was.symm rfl) c (List.mem_filter.2 ⟨member, runs⟩)
  exact each.congr rfl ((rest_def _).1 (Rest.settleStarts ((rest_def _).2 rfl)))

end

/-- Settles O34: a start is `coresStarted`, whose cores and banks are read off one step at a time; a stop ends each running core of
its set, and no settling of groups or commands changes what of a core the statement speaks of. -/
theorem programsStartAndStop : Obligations.ProgramsStartAndStop := by
  unfold Obligations.ProgramsStartAndStop
  intro s x k v hx hk
  refine ⟨fun next => ⟨?_, ?_⟩, fun next checks => ?_⟩
  case refine_1 =>
    rintro ⟨c, member, running⟩
    have runs : exec (.pstart x k) s = done s (pstart s x k v) := by
      rw [show exec (.pstart x k) s = execPstart x k s from rfl, execPstart, next]
      exact guarded_of (decide_eq_true ⟨hx, hk⟩) ..
    exact stays_of_same runs (if_pos (List.any_eq_true.2 ⟨c, member, running⟩))
  case refine_2 =>
    intro halted checks some_ prov image
    have whole (named : v.image ≠ 0) : imageOf s x v = imageRead s x (ringPart s x) (bits (v.word 1) 47 0) (bits (v.word 2) 17 0) := if_neg named
    have fits (named : v.image ≠ 0) : v.imageBytes % 8 = 0 ∧ 8 ≤ v.imageBytes ∧ v.imageBytes ≤ 131072 ∧ (imageOf s x v).1 = 0 :=
      ⟨(image named).1, (image named).2.1, (image named).2.2.1, (whole named) ▸ (image named).2.2.2⟩
    have starts := pstart_eq (k := k) ⟨halted, checks, some_, prov, fits⟩
    have runs : exec (.pstart x k) s = done s (pstart s x k v) := by
      rw [show exec (.pstart x k) s = execPstart x k s from rfl, execPstart, next]
      exact guarded_of (decide_eq_true ⟨hx, hk⟩) ..
    refine ⟨fun keyless => stays_of_same runs (starts.trans (if_pos (by rw [keyless]; rfl))), fun ready => ?_⟩
    rw [starts, if_neg (by rw [ready]; decide)] at runs
    obtain ⟨t, leads, started, cores⟩ := pstart_leads (mem_of_nextOp next).1 runs halted fun named => ⟨(fits named).2.2.1, (fits named).2.2.2⟩
    refine ⟨t, leads, started, fun c member => ?_⟩
    obtain ⟨running, pc, block, regs, attr, bytes⟩ := cores c member
    exact ⟨running, pc, block, regs, attr, fun named low => whole named ▸ bytes named low⟩
  case refine_3 =>
    have runs : exec (.pstop x k) s = done s (pstop s x k v) := by
      rw [show exec (.pstop x k) s = execPstop x k s from rfl, execPstop, next]
      exact guarded_of (decide_eq_true ⟨hx, hk⟩) ..
    exact leads_of_effect runs (fun c member running => pstop_stops checks member running) fun _ _ h => h

end Sys2Proof.Machine
end

section
/-! SUPPORT. The end of a kernel (R388, R414), and a line that it finds on its way. -/

namespace Sys2Proof.Machine

open Sys2Proof

/-! ## What a kernel leaves (R414) -/

/-- Some keys of memory keep their errors; beside memory, the count of free values alone differs. -/
structure Scrambled (s t : State) : Prop where
  cores : t.cores = s.cores
  dict : t.dict = s.dict
  groups : t.groups = s.groups
  sectors : t.sectors = s.sectors
  flips : (∀ e ∈ s.flips, Mem.acc 800 0 0 ≤ e.1) → t.flips = s.flips

namespace Scrambled

variable {s t u : State}

theorem refl (s : State) : Scrambled s s := ⟨rfl, rfl, rfl, rfl, fun _ => rfl⟩

theorem trans (h : Scrambled s t) (h' : Scrambled t u) : Scrambled s u where
  cores := h'.cores.trans h.cores
  dict := h'.dict.trans h.dict
  groups := h'.groups.trans h.groups
  sectors := h'.sectors.trans h.sectors
  flips far := (h'.flips (by rw [h.flips far]; exact far)).trans (h.flips far)

theorem scramble {lo n : Nat} (low : lo + n ≤ Mem.acc 800 0 0) (s : State) (keep : Nat → Bool) : Scrambled s (scramble s lo n keep) where
  cores := rfl
  dict := rfl
  groups := rfl
  sectors := rfl
  flips far := List.filter_eq_self.2 fun e member => by
    rw [decide_eq_true (.inr (Nat.le_trans low (far e member)))]
    rfl

theorem foldl {α : Type} {f : State → α → State} {l : List α} (step : ∀ u, ∀ a ∈ l, Scrambled u (f u a)) (s : State) :
    Scrambled s (l.foldl f s) :=
  List.foldlRecOn (motive := Scrambled s) l f (refl s) fun u kept a member => kept.trans (step u a member)

theorem kernelLeaves {v : Taken} {h : HePlan} (hx : h.x < 32) (s : State) : Scrambled s (kernelLeaves s h v) := by
  have known {c : Nat} (member : c ∈ v.cores h.x) : c < 800 := cores_known hx member
  unfold Machine.kernelLeaves
  dsimp only
  have tiles := foldl (f := fun u c => Machine.scramble (Machine.scramble u (Mem.tile c 0 0) 131072 fun _ => false) (Mem.acc c 0 0) 65536 fun _ => false)
    (l := v.cores h.x) (fun u c member => (scramble (by have := known member; unfold Mem.tile Mem.acc; omega) ..).trans
      (scramble (by have := known member; unfold Mem.acc; omega) ..)) s
  have area (keep : Nat → Bool) (u : State) := foldl (f := fun u e => Machine.scramble u e.1 e.2.2 keep)
    (l := h.scratchRange.flatMap fun r => (vaRange (List.foldl (fun u c => Machine.scramble (Machine.scramble u (Mem.tile c 0 0) 131072 fun _ => false)
      (Mem.acc c 0 0) 65536 fun _ => false) s (v.cores h.x)) h.part (.unit h.x) .write r.1 r.2).2) (fun u e member => by
      obtain ⟨r, -, piece⟩ := List.mem_flatMap.1 member
      exact scramble (Nat.le_trans (vaPieces_low e piece) (by decide)) ..) u
  split
  · refine ((tiles.trans (area _ _)).trans (foldl (fun u c member => scramble ?_ ..) _)).trans (scramble ?_ ..)
    · have := known member
      unfold Mem.cm Mem.onchip Mem.acc
      omega
    · unfold Mem.commons Mem.onchip Mem.acc
      omega
  · exact tiles.trans (area _ _)

end Scrambled

/-! ## A line of a register that no core has -/

/-- Key k is as far above the accumulators as entry e stands above the counts of uncorrectable words. -/
structure Beyond (e k : Nat) : Prop where
  high : 2 ^ 42 ≤ k
  sector : coreAt k / 25 = e - E.onchip_uncorrectable_count
  above : E.last_ue_time < e

/-- A read of key k. -/
def strayLine (k : Nat) : Grant := ⟨0, none, false, k, 0, none, 1, none, none⟩

/-- Core 0 has that line alone on its way, and what stands there cannot be corrected. -/
structure Stray (u : State) (k : Nat) : Prop where
  grants : (core u 0).grants = [strayLine k]
  flips : u.flips = [(k, 3)]

/-- The machine once the line is granted. -/
def strayGranted (u : State) (k : Nat) : State := onCore u 0 fun c => { c with grants := c.grants.erase (strayLine k) }

/-- The machine once its word's errors are met. -/
def strayMet (u : State) (k : Nat) : State := { strayGranted u k with flips := Tab.set 0 u.flips k 0 }

theorem core_onCore_same (s : State) (c : Nat) (f : Core → Core) : core (onCore s c f) c = f (core s c) :=
  (core_onCore s c f c).trans (if_pos rfl)

theorem meetWord_tile {u : State} {k n : Nat} (high : 2 ^ 41 ≤ k) (many : ¬n ≤ 1) :
    meetWord u k n = loseWord { u with flips := Tab.set 0 u.flips k 0 } k := (if_pos high).trans (if_neg many)

theorem loseWord_tile {u : State} {k : Nat} (high : 2 ^ 41 ≤ k) : ∃ a b, loseWord u k =
    onchipUe { mark u k with freeCtr := u.freeCtr + 1 } (coreAt k / 25) a b := ⟨_, _, if_pos high⟩

theorem bound_strayGranted (u : State) (k : Nat) : (core (strayGranted u k) 0).bound = (core u 0).bound := by
  unfold strayGranted
  rw [core_onCore_same]

/-- The entries that the report of such a word writes. -/
def beyondWritten (e : Nat) : List Nat := [E.last_ue_address, E.last_ue_block, E.last_ue_time, e]

section
variable {u : State} {e k : Nat}

/-- A report of a word counts in entry e, where it names a sector that far above. -/
theorem rd_onchipUe_beyond (above : E.last_ue_time < e) (w : State) (a b : Nat) :
    rd (onchipUe w (e - E.onchip_uncorrectable_count) a b) e = cut e (rd w e + 1) ∧
    ∀ j ∉ beyondWritten e, rd (onchipUe w (e - E.onchip_uncorrectable_count) a b) j = rd w j := by
  have key : E.onchip_uncorrectable_count + (e - E.onchip_uncorrectable_count) = e :=
    Nat.add_sub_cancel' (Nat.le_trans (by decide) (Nat.le_of_lt above))
  unfold onchipUe
  rw [key]
  refine ⟨?_, fun j other => ?_⟩
  · rw [rd_wr_other _ (Nat.ne_of_gt above), rd_wr_other _ (Nat.ne_of_gt (Nat.lt_trans (by decide) above)),
      rd_wr_other _ (Nat.ne_of_gt (Nat.lt_trans (by decide) above))]
    exact rd_inc_same ..
  · simp only [beyondWritten, List.mem_cons, List.not_mem_nil, or_false, not_or] at other
    obtain ⟨address, block, time, count⟩ := other
    rw [rd_wr_other _ time, rd_wr_other _ block, rd_wr_other _ address, rd_inc_other _ count]

theorem onchipUe_dict {u v : State} (same : u.dict = v.dict) (x a b : Nat) : (onchipUe u x a b).dict = (onchipUe v x a b).dict := by
  simp only [onchipUe, inc, incBy, wr, rd, now, same]

theorem onchipUe_rest (u : State) (x a b : Nat) : (onchipUe u x a b).cores = u.cores ∧ (onchipUe u x a b).groups = u.groups ∧
    (onchipUe u x a b).recovery = u.recovery ∧ (onchipUe u x a b).ports = u.ports ∧ (onchipUe u x a b).host = u.host := ⟨rfl, rfl, rfl, rfl, rfl⟩

section
variable (beyond : Beyond e k) (h : Stray u k)
include beyond h

theorem meet_stray : meet (strayGranted u k) k 1 = loseWord (strayMet u k) k := by
  have high : 2 ^ 41 ≤ k := Nat.le_trans (by decide) beyond.high
  have word : 0 < wordBytes (strayGranted u k) k := by unfold wordBytes; split <;> decide
  unfold meet
  rw [show (strayGranted u k).flips = [(k, 3)] from h.flips,
    List.filter_eq_self.2 fun e member => by
      rw [List.mem_singleton.1 member]
      exact decide_eq_true ⟨Nat.lt_succ_self _, Nat.lt_add_of_pos_right word⟩]
  exact meetWord_tile (k := k) (n := 3) high (by decide)

omit beyond in
theorem grants_strayMet : (core (strayMet u k) 0).grants = [] := by
  refine (congrArg Core.grants (core_onCore_same u 0 fun c => { c with grants := c.grants.erase (strayLine k) })).trans ?_
  show (core u 0).grants.erase (strayLine k) = []
  rw [h.grants]
  exact List.erase_cons_head ..

theorem flush_stray_eq : flush u 0 = loseWord (strayMet u k) k := by
  have comes : runGrant u 0 (strayLine k) = loseWord (strayMet u k) k :=
    Eq.trans (b := meet (strayGranted u k) k 1) rfl (meet_stray beyond h)
  rw [flush, h.grants]
  refine Eq.trans (b := flushN 1 (runGrant u 0 (strayLine k)) 0) (by rw [List.length_singleton, flushN, h.grants]; rfl) ?_
  rw [flushN, comes, show (core (loseWord (strayMet u k) k) 0).grants = [] from ?_]
  · rfl
  · have high : 2 ^ 41 ≤ k := Nat.le_trans (by decide) beyond.high
    obtain ⟨a, b, lost⟩ := loseWord_tile (u := strayMet u k) high
    rw [lost]
    exact (congrArg Core.grants (core_congr (onchipUe_rest ..).1 0)).trans (grants_strayMet h)

/-- The line comes, and its lost word counts in entry e. -/
theorem flush_stray : rd (flush u 0) e = cut e (rd u e + 1) ∧ (flush u 0).groups = u.groups ∧ (core (flush u 0) 0).bound = (core u 0).bound := by
  have high : 2 ^ 41 ≤ k := Nat.le_trans (by decide) beyond.high
  obtain ⟨a, b, lost⟩ := loseWord_tile (u := strayMet u k) high
  rw [flush_stray_eq beyond h, lost, beyond.sector]
  obtain ⟨cores, groups, -⟩ := onchipUe_rest { mark (strayMet u k) k with freeCtr := (strayMet u k).freeCtr + 1 } (e - E.onchip_uncorrectable_count) a b
  refine ⟨?_, groups, ?_⟩
  · exact (rd_onchipUe_beyond beyond.above _ a b).1
  · exact (congrArg Core.bound (core_congr cores 0)).trans (bound_strayGranted u k)

end

end

/-! ## A kernel that ends while the line is on its way -/

section
variable {d₀ : State}

protected theorem Steady.finishProv {s : State} {x k : Nat} {t : Taken} {st : Nat} {r tail : List Byte} (h : Steady d₀ s) :
    Steady d₀ (finishProv s x k t st r tail) := h.finishWith

protected theorem Steady.settleStarts {s : State} {x : Nat} (h : Steady d₀ s) : Steady d₀ (settleStarts s x) :=
  h.foldl fun _ _ h => h.foldl fun u t h => by
    unfold settleStart
    dsimp only
    exact h.ite ((Steady.mk h).finishWith.ite (Steady.mk h).finishProv)

/-- No group's writes wait: only completions are posted. -/
protected theorem Steady.settleGroups {s : State} (none_ : s.groups = []) (h : Steady d₀ s) : Steady d₀ (settleGroups s) := by
  unfold Machine.settleGroups
  rw [none_, List.foldl_nil]
  refine h.foldl fun _ _ h => h.foldl fun _ _ h => h.foldl fun v q h => Steady.ite ?_ h
  split
  · exact (Steady.mk h).finishWith
  · exact h

protected theorem Steady.writeAll {s : State} {x p : Nat} {l : List (Nat × List Byte)} (h : Steady d₀ s) : Steady d₀ (writeAll s x p none l).1 :=
  List.foldlRecOn (motive := fun q : State × Nat => Steady d₀ q.1) _ _ h fun _ h _ _ => h.vaWrite
end

theorem lowest_ne_zero {l : List Nat} (some_ : ∃ a ∈ l, a ≠ 0) : lowest l ≠ 0 := by
  obtain ⟨a, member, ne⟩ := some_
  have listed : a ∈ l.filter (· != 0) := List.mem_filter.2 ⟨member, bne_iff_ne.2 ne⟩
  unfold lowest
  cases least : (l.filter (· != 0)).min? with
  | none => exact absurd (List.min?_eq_none_iff.1 least ▸ listed) List.not_mem_nil
  | some m => exact bne_iff_ne.1 (List.mem_filter.1 (List.min?_mem least)).2

/-- A command that leaves its ring with a failure is counted (R393). -/
theorem rd_finishHe {w : State} {x k : Nat} {t : Taken} {st faults limbs beats : Nat} {tail : List Byte} (hx : x < 32) (fails : st ≠ 0) :
    rd (finishHe w x k t st faults limbs beats tail) (E.he_fault_count + x) = cut (E.he_fault_count + x) (rd w (E.he_fault_count + x) + 1) := by
  unfold finishHe
  dsimp only
  rw [if_neg fails, ((steady_self (noteHeFault w x t st faults)).finishProv).rd (calm_he hx).1]
  exact (rd_noteHeFault w x t st faults).2.2.2 hx

/-- What follows the granting of core 0's line at its program's end changes no calm entry. -/
theorem rd_haltCore_stray {u : State} {e k : Nat} (beyond : Beyond e k) (calm : Calm e = true) (h : Stray u k)
    (unbound : (core u 0).bound = none) (none_ : u.groups = []) (st : Nat) : rd (haltCore u 0 st) e = cut e (rd u e + 1) := by
  obtain ⟨count, groups, bound⟩ := flush_stray beyond h
  have steady : Steady (flush u 0) (haltCore u 0 st) := by
    unfold haltCore
    dsimp only
    refine Steady.settleStarts ?_
    unfold leaveAborted
    rw [core_onCore_same, show ((core (flush u 0) 0).leaveRings).bound = none from bound.trans unbound]
    exact Steady.settleGroups (groups.trans none_) (steady_self (flush u 0)).onCore
  rw [steady.rd calm, count]

/-- A key beyond the accumulators whose lost words count in `he_fault_count` of sector 0. -/
def faultKey : Nat := 2 ^ 42 + 25 * (E.he_fault_count - E.onchip_uncorrectable_count) * 65536

theorem beyond_faultKey : Beyond E.he_fault_count faultKey := ⟨by decide, by decide, by decide⟩

/-- The writes of a result that joins no group. -/
theorem rd_written {q : Prop} [Decidable q] {u : State} {x p va : Nat} {d : List Byte} {l : List (Nat × List Byte)} {st : Nat} :
    rd (if q then vaWrite (writeAll u x p none l).1 x p none va d else ((writeAll u x p none l).1, st)).1 E.he_fault_count =
      rd u E.he_fault_count := by
  have all := (steady_self u).writeAll (x := x) (p := p) (l := l)
  split
  · exact all.vaWrite.rd (by decide)
  · exact all.rd (by decide)

/-- Core 0 closes its contexts and halts, whatever else has been counted. -/
theorem rd_closing {s w u : State} (left : Scrambled w u) (cores : w.cores = s.cores) (groups : w.groups = s.groups) (flips : w.flips = s.flips)
    (count : rd w E.he_fault_count = rd s E.he_fault_count) (h : Stray s faultKey) (runs : (core s 0).running = true) (unbound : (core s 0).bound = none)
    (none_ : s.groups = []) : rd (if (core (onCore u 0 fun k => { k with keys := [] }) 0).running = true then
      haltCore (onCore u 0 fun k => { k with keys := [] }) 0 0 else onCore u 0 fun k => { k with keys := [] }) E.he_fault_count =
        cut E.he_fault_count (rd s E.he_fault_count + 1) := by
  have same : core (onCore u 0 fun k => { k with keys := [] }) 0 = { core s 0 with keys := [] } := by
    rw [core_onCore_same, core_congr (left.cores.trans cores)]
  have far : u.flips = [(faultKey, 3)] := by
    refine ((left.flips ?_).trans flips).trans h.flips
    rw [flips, h.flips]
    intro e member
    rw [List.mem_singleton.1 member]
    decide
  rw [if_pos ((congrArg Core.running same).trans runs), rd_haltCore_stray beyond_faultKey (by decide) ⟨(congrArg Core.grants same).trans h.grants, far⟩
    ((congrArg Core.bound same).trans unbound) (left.groups.trans (groups.trans none_))]
  exact congrArg (fun v => cut E.he_fault_count (v + 1)) ((rd_congr left.dict _).trans count)

/-- The end of a negation of core 0 alone, which joins no group, while the line is on its way. -/
theorem rd_kernelEnd_stray {s : State} {k : Nat} {t : Taken} {r : KernelReport} (alone : bit (t.word 0) 54 = false) (negates : t.op = 0x03)
    (one : t.cores 0 = [0]) (fails : r.status ≠ 0) (h : Stray s faultKey) (runs : (core s 0).running = true) (unbound : (core s 0).bound = none)
    (none_ : s.groups = []) : rd (kernelEnd s 0 k t r) E.he_fault_count = cut E.he_fault_count (cut E.he_fault_count (rd s E.he_fault_count + 1) + 1) := by
  have ends {w : State} {st : Nat} (faults limbs beats : Nat) (tail : List Byte) (bad : st ≠ 0) (count : rd w E.he_fault_count = cut E.he_fault_count (rd s E.he_fault_count + 1)) :
      rd (finishHe w 0 k t st faults limbs beats tail) E.he_fault_count = cut E.he_fault_count (cut E.he_fault_count (rd s E.he_fault_count + 1) + 1) := by
    rw [← count]
    exact rd_finishHe (x := 0) (by decide) bad
  unfold kernelEnd
  dsimp only
  rw [alone]
  refine ends _ _ _ _ ?_ ?_
  · exact lowest_ne_zero ⟨_, .head _, lowest_ne_zero ⟨_, .head _, lowest_ne_zero ⟨_, .head _, lowest_ne_zero ⟨_, .head _, fails⟩⟩⟩⟩
  · refine rd_written.trans ?_
    rw [one, List.foldl_cons, List.foldl_nil]
    have plan : (hePlan s 0 (ringPart s 0) t t.inputs).op ≠ 0x06 := by
      show t.op ≠ 6
      rw [negates]
      decide
    rw [if_neg plan]
    have range {b : Bool} {n : Nat} (v : State) (is : v = { (if b then inc s (E.pe_range_count + 0) else s) with freeCtr := n }) :
        v.cores = s.cores ∧ v.groups = s.groups ∧ v.flips = s.flips ∧ rd v E.he_fault_count = rd s E.he_fault_count := by
      rw [is]
      cases b
      · exact ⟨rfl, rfl, rfl, rfl⟩
      · exact ⟨rfl, rfl, rfl, rd_wr_other s (by decide) _⟩
    obtain ⟨cores, groups, flips, count⟩ := range _ rfl
    exact rd_closing (Scrambled.kernelLeaves (show (0 : Nat) < 32 by decide) _) cores groups flips count h runs unbound none_

def strayRecord : List Byte := leBytes 8 (3 * 2 ^ 56 + 1) ++ List.replicate 56 0

/-- A negation that core 0 of sector 0 runs for ring 0. -/
def strayTaken : Taken := ⟨strayRecord, true, 0, 0, false, 0, 0, none, []⟩

def strayState : State :=
  { State.reset with
    flips := [(faultKey, 3)]
    cores := [(0, { Core.init with running := true, grants := [strayLine faultKey] })]
    sectors := [(0, { Sector.init with rings := [(0, { Ring.init with queue := [strayTaken] })] })] }

theorem startedHe_stray : (startedHe strayState 0 0)[0]? = some strayTaken := by decide +kernel

/-- Refutes O36: in `strayState` a line of a register that no core has is on its way to the command's core. It comes as the core
halts, its word cannot be corrected, and the count it adds to is the one that the failed command adds to (the statement asks of the
lines on their way nothing). -/
theorem not_homomorphicKernels : ¬ Obligations.HomomorphicKernels := by
  unfold Obligations.HomomorphicKernels
  rintro ⟨-, ends⟩
  obtain ⟨atEnd, -⟩ := ends strayState 0 0 strayTaken (by decide) (by decide)
  obtain ⟨t, runs, -, counts⟩ := atEnd 0 ⟨0, 1, 0, 0⟩ startedHe_stray
  have ended_ : exec (.commandKernelEnd 0 0 0 ⟨0, 1, 0, 0⟩) strayState = done strayState (kernelEnd strayState 0 0 strayTaken ⟨0, 1, 0, 0⟩) := by
    rw [show exec (.commandKernelEnd 0 0 0 ⟨0, 1, 0, 0⟩) strayState = execCommandKernelEnd 0 0 0 ⟨0, 1, 0, 0⟩ strayState from rfl,
      execCommandKernelEnd, startedHe_stray]
    exact guarded_of rfl ..
  have twice := rd_kernelEnd_stray (s := strayState) (k := 0) (t := strayTaken) (r := ⟨0, 1, 0, 0⟩) (by decide) (by decide) (by decide) (by decide)
    ⟨rfl, rfl⟩ rfl rfl rfl
  obtain ⟨-, -, once⟩ := counts (by decide) rfl
  have is : { kernelEnd strayState 0 0 strayTaken ⟨0, 1, 0, 0⟩ with pending := strayState.pending } = t := Host.Outcome.next.inj (ended_.symm.trans runs)
  have reads : rd t E.he_fault_count = rd (kernelEnd strayState 0 0 strayTaken ⟨0, 1, 0, 0⟩) E.he_fault_count := by
    rw [← is]
    rfl
  exact absurd ((reads.trans twice).symm.trans once) (by decide)

end Sys2Proof.Machine
end

section
/-! SUPPORT. Changes of protection codes, and what a scrub makes of errors (R143 to R153, R180). -/

namespace Sys2Proof.Machine

open Sys2Proof

/-! ## Words of the on-chip memories (R133, R134) -/

section
variable {x p o : Nat}

theorem bits_onchip_sector (hx : x < 32) (hp : p < 32) (ho : o < 2 ^ 23) : bits (Mem.onchip x p o) 36 32 = x := by
  simp only [bits, Mem.onchip]
  omega

theorem bits_onchip_target (hp : p < 32) (ho : o < 2 ^ 23) : bits (Mem.onchip x p o) 31 27 = p := by
  simp only [bits, Mem.onchip]
  omega

theorem bits_onchip_offset (ho : o < 2 ^ 23) : bits (Mem.onchip x p o) 22 0 = o := by
  simp only [bits, Mem.onchip]
  omega

theorem onchip_low (hx : x < 32) (hp : p < 32) (ho : o < 2 ^ 23) : 2 ^ 39 ≤ Mem.onchip x p o ∧ Mem.onchip x p o < 2 ^ 40 := by
  simp only [Mem.onchip]
  omega

/-- The word of a key begins in the same memory. -/
theorem onchip_word {b : Nat} (word : b = 8 ∨ b = 32) : Mem.onchip x p o - Mem.onchip x p o % b = Mem.onchip x p (o - o % b) := by
  simp only [Mem.onchip]
  rcases word with rfl | rfl <;> omega

theorem inA_onchip (s : State) (hx : x < 32) (hp : p < 25) (ho : o < 2 ^ 23) : inA s (Mem.onchip x p o) =
    !bit (core s (25 * x + p)).cmAttr (o / 65536) := by
  have hp' : p < 32 := Nat.lt_trans hp (by decide)
  unfold inA
  rw [decide_eq_true (onchip_low hx hp' ho), bits_onchip_target hp' ho, decide_eq_true hp, bits_onchip_sector hx hp' ho, bits_onchip_offset ho]
  rfl

theorem inA_commons (s : State) (ho : o < 2 ^ 23) : inA s (Mem.commons x o) = false := by
  unfold inA Mem.commons
  rw [bits_onchip_target (by decide) ho]
  exact Bool.and_eq_false_iff.2 (.inl (Bool.and_eq_false_iff.2 (.inr (by decide))))

end

theorem wordBytes_congr {s t : State} (same : t.cores = s.cores) (k : Nat) : wordBytes t k = wordBytes s k := by
  unfold wordBytes inA
  rw [core_congr same]

/-- A word that is marked stands among the marked ones. -/
theorem marked_mem (s : State) (k : Nat) : (k - k % wordBytes s k, true) ∈ (mark s k).poison := by
  refine mem_of_find? ?_
  have set_ : Tab.get false (mark s k).poison (k - k % wordBytes s k) = true := by
    unfold mark
    exact Tab.get_set_same false s.poison _ true
  unfold Tab.get at set_
  cases found : Tab.find? (mark s k).poison (k - k % wordBytes s k) with
  | none => rw [found] at set_; exact absurd set_ (by decide)
  | some v => rw [found] at set_; exact congrArg some set_

/-- The errors that arise in one word where there are none. -/
theorem addFlips_alone {s : State} (none_ : s.flips = []) (k : Nat) {n : Nat} (pos : 0 < n) :
    addFlips s k n = { s with flips := [(k - k % wordBytes s k, n)] } := by
  unfold addFlips
  dsimp only
  rw [none_, show Tab.get 0 ([] : Tab Nat) (k - k % wordBytes s k) = 0 from rfl, Nat.zero_add, Tab.set, if_neg (Nat.pos_iff_ne_zero.1 pos)]
  rfl

/-- A read that covers the one word with errors. -/
theorem meet_alone {u : State} {w n k m : Nat} (alone : u.flips = [(w, n)]) (inside : w < k + m) (reaches : k < w + wordBytes u w) :
    meet u k m = meetWord u w n := by
  unfold meet
  rw [alone, List.filter_eq_self.2 fun e member => by rw [List.mem_singleton.1 member]; exact decide_eq_true ⟨inside, reaches⟩]
  rfl

/-- A read that does not. -/
theorem meet_none {u : State} {w n k m : Nat} (alone : u.flips = [(w, n)]) (outside : k + m ≤ w) : meet u k m = u := by
  unfold meet
  rw [alone, List.filter_eq_nil_iff.2 fun e member => by rw [List.mem_singleton.1 member]; simp; omega]
  rfl

section
variable {s : State} {w n : Nat}

/-- The one word with errors is read: nothing is left of them. -/
theorem met_alone (none_ : s.flips = []) (w n : Nat) :
    { ({ s with flips := [(w, n)] } : State) with flips := Tab.set 0 [(w, n)] w 0 } = s := by
  have cleared : Tab.set 0 [(w, n)] w 0 = ([] : Tab Nat) := by
    rw [Tab.set, if_pos rfl]
    simp [Tab.erase]
  rw [cleared, ← none_]

/-- What a read of on-chip memory makes of the one word with errors (R147 to R151). -/
theorem meetWord_alone (none_ : s.flips = []) (low : w < 2 ^ 41) : meetWord { s with flips := [(w, n)] } w n =
    if bits w 31 27 = 31 then if n ≤ 2 then inc s (E.commons_corrected_count + bits w 36 32) else loseWord s w
    else if inA s w then if n ≤ 1 then inc s (E.cm_corrected_count + bits w 36 32) else loseWord s w
    else if n ≤ 2 then inc s (E.cm_corrected_count + bits w 36 32)
    else if rebuildable { s with flips := [(w, n)] } w then
      paceBreak (inc s (E.cm_reconstructed_count + bits w 36 32)) (bits w 36 32)
    else loseWord s w := by
  unfold meetWord
  dsimp only
  rw [met_alone none_, if_neg (Nat.not_le.2 low)]
  rfl

end

/-! ## Words that nothing restores (R150, R151, R180) -/

section
variable {s : State} {k w x block : Nat}

/-- A word of which a read reports that it is lost. -/
structure LostAt (s t : State) (k x : Nat) : Prop where
  count : rd t (E.onchip_uncorrectable_count + x) = cut (E.onchip_uncorrectable_count + x) (rd s (E.onchip_uncorrectable_count + x) + 1)
  mark : poisoned t k 1 = true
  mem : t.mem = s.mem
  cores : t.cores = s.cores
  flips : t.flips = s.flips

theorem apart_onchip (hx : x < 32) : ∀ j ∈ [E.last_ue_time, E.last_ue_block, E.last_ue_address], E.onchip_uncorrectable_count + x ≠ j := by
  intro j member
  have below : ∀ j ∈ [E.last_ue_time, E.last_ue_block, E.last_ue_address], E.onchip_uncorrectable_count + 32 ≤ j := by decide
  have := below j member
  omega

theorem onchipUe_lost {u : State} (hx : x < 32) (a b : Nat) (same : u.dict = s.dict) (mem : u.mem = s.mem) (cores : u.cores = s.cores)
    (flips : u.flips = s.flips) (marked : (k - k % wordBytes s k, true) ∈ u.poison)
    (whole : wordBytes s (k - k % wordBytes s k) = wordBytes s k) : LostAt s (onchipUe u x a b) k x := by
  have word : 0 < wordBytes s k := by unfold wordBytes; split <;> decide
  refine ⟨?_, List.any_eq_true.2 ⟨_, marked, decide_eq_true ⟨Nat.lt_succ_of_le (Nat.sub_le ..), ?_⟩⟩, mem, cores, flips⟩
  · unfold onchipUe
    rw [rd_wr_other _ (apart_onchip hx _ (by simp)), rd_wr_other _ (apart_onchip hx _ (by simp)), rd_wr_other _ (apart_onchip hx _ (by simp))]
    exact (rd_inc_same u _).trans (by rw [rd_congr same])
  · rw [wordBytes_congr (show (onchipUe u x a b).cores = s.cores from cores), whole]
    have := Nat.mod_lt k word
    omega

/-- What is reported of a word, with its line and its block. -/
theorem onchipUe_reports (u : State) (x a b : Nat) : rd (onchipUe u x a b) E.last_ue_address = cut E.last_ue_address a ∧
    rd (onchipUe u x a b) E.last_ue_block = cut E.last_ue_block b := by
  unfold onchipUe
  rw [rd_wr_other _ (by decide), rd_wr_other _ (by decide), rd_wr_same, rd_wr_other _ (by decide), rd_wr_same]
  exact ⟨rfl, rfl⟩

/-- The block that reports of an on-chip word. -/
def reporter (s : State) (w : Nat) : Nat := if bits w 31 27 = 31 then 0x300 + bits w 36 32 else coreBlock s (coreAt w)

theorem loseWord_onchip (low : w < 2 ^ 41) : loseWord s w = onchipUe (mark s w) (bits w 36 32) (w - w % 64) (reporter s w) := by
  unfold loseWord reporter
  rw [if_neg (Nat.not_le.2 low)]
  split <;> rfl

/-- A word of core memory or of the commons that is lost, seen from a key in it. -/
theorem loseWord_lost (hx : x < 32) (low : k < 2 ^ 41) (word : k - k % wordBytes s k = w) (whole : wordBytes s w = wordBytes s k)
    (sector : bits w 36 32 = x) : LostAt s (loseWord s w) k x ∧
      rd (loseWord s w) E.last_ue_address = cut E.last_ue_address (k - k % 64) ∧
      rd (loseWord s w) E.last_ue_block = cut E.last_ue_block (reporter s w) := by
  have below : w < 2 ^ 41 := Nat.lt_of_le_of_lt (word ▸ Nat.sub_le ..) low
  have size : wordBytes s k = 8 ∨ wordBytes s k = 32 := by unfold wordBytes; split <;> simp
  have line : w - w % 64 = k - k % 64 := by
    rw [← word]
    rcases size with e | e <;> rw [e] <;> omega
  have start : w % wordBytes s w = 0 := by
    rw [whole, ← word]
    rcases size with e | e <;> rw [e] <;> omega
  have marked : (k - k % wordBytes s k, true) ∈ (mark s w).poison := by
    have marked := marked_mem s w
    rw [start, Nat.sub_zero] at marked
    rwa [word]
  rw [loseWord_onchip below, sector]
  refine ⟨onchipUe_lost hx _ _ rfl rfl rfl rfl marked (word.symm ▸ whole), ?_⟩
  rw [← line]
  exact onchipUe_reports ..
end

/-! ## Scrubs (R147 to R153) -/

section
variable {s : State} {x : Nat}

theorem exec_scrubPass (hx : x < 32) (on : domainOn s x = true) (e : ScrubErrors) :
    exec (.scrubPass x e) s = done s (arise (scrub (arise s x e.found) x) x e.latent) := by
  rw [show exec (.scrubPass x e) s = execScrubPass x e s from rfl, execScrubPass, if_pos on]
  exact guarded_of (decide_eq_true hx) ..

theorem scrub_clean (none_ : s.flips = []) : scrub s x = s := by
  unfold scrub meet
  rw [none_]
  rfl

/-- A scrub that one error in the sector's core memory or commons waits for. -/
theorem scrubPass_one (hx : x < 32) (on : domainOn s x = true) (none_ : s.flips = []) {cell : MemCell} {n w : Nat} (pos : 0 < n)
    (word : cellKey x cell - cellKey x cell % wordBytes s (cellKey x cell) = w) (low : Mem.onchip x 0 0 ≤ w) (high : w < Mem.onchip x 0 0 + 2 ^ 32) :
    exec (.scrubPass x ⟨[⟨cell, n⟩], []⟩) s = done s (meetWord { s with flips := [(w, n)] } w n) := by
  have arises : arise s x [⟨cell, n⟩] = { s with flips := [(w, n)] } := (addFlips_alone none_ _ pos).trans (by rw [word])
  have size : 0 < wordBytes ({ s with flips := [(w, n)] } : State) w := by unfold wordBytes; split <;> decide
  rw [exec_scrubPass hx on]
  dsimp only
  rw [arises, show scrub ({ s with flips := [(w, n)] } : State) x = meet { s with flips := [(w, n)] } (Mem.onchip x 0 0) (2 ^ 32) from rfl,
    meet_alone rfl high (by omega)]
  rfl

/-- The word of a cell of core memory, and its code. -/
theorem cm_word {p o : Nat} (hx : x < 32) (hp : p < 25) (ho : o < 0x180000) : ∃ w,
    Mem.onchip x p o - Mem.onchip x p o % wordBytes s (Mem.onchip x p o) = w ∧ w < 2 ^ 41 ∧ bits w 36 32 = x ∧ bits w 31 27 = p ∧
      wordBytes s w = wordBytes s (Mem.onchip x p o) ∧ inA s w = !bit (core s (25 * x + p)).cmAttr (o / 65536) ∧
      Mem.onchip x 0 0 ≤ w ∧ w < Mem.onchip x 0 0 + 2 ^ 32 ∧ (bits w 22 0 / 65536 = o / 65536 ∧ bits w 22 0 / 64 = o / 64) := by
  have hp' : p < 32 := Nat.lt_trans hp (by decide)
  have ho' : o < 2 ^ 23 := Nat.lt_trans ho (by decide)
  have size : wordBytes s (Mem.onchip x p o) = 8 ∨ wordBytes s (Mem.onchip x p o) = 32 := by unfold wordBytes; split <;> simp
  have start : o - o % wordBytes s (Mem.onchip x p o) < 2 ^ 23 := Nat.lt_of_le_of_lt (Nat.sub_le ..) ho'
  have region : (o - o % wordBytes s (Mem.onchip x p o)) / 65536 = o / 65536 ∧ (o - o % wordBytes s (Mem.onchip x p o)) / 64 = o / 64 := by
    rcases size with e | e <;> rw [e] <;> omega
  have code : inA s (Mem.onchip x p (o - o % wordBytes s (Mem.onchip x p o))) = inA s (Mem.onchip x p o) := by
    rw [inA_onchip s hx hp start, inA_onchip s hx hp ho', region.1]
  have place {b : Nat} (hb : b < 2 ^ 23) : ¬2 ^ 41 ≤ Mem.onchip x p b := by
    have := onchip_low hx hp' hb
    omega
  refine ⟨_, onchip_word size, Nat.lt_trans (onchip_low hx hp' start).2 (by decide), bits_onchip_sector hx hp' start,
    bits_onchip_target hp' start, ?_, code.trans (inA_onchip s hx hp ho'), ?_, ?_, ?_⟩
  · unfold wordBytes
    rw [show (if 2 ^ 41 ≤ Mem.onchip x p o ∨ inA s (Mem.onchip x p o) = true then 8 else 32) = wordBytes s (Mem.onchip x p o) from rfl, code,
      if_congr (or_congr (iff_of_false (place start) (place ho')) Iff.rfl) rfl rfl]
    rfl
  · simp only [Mem.onchip]; omega
  · simp only [Mem.onchip] at start ⊢; omega
  · rw [bits_onchip_offset start]
    exact region

/-- The word of a cell of the commons. -/
theorem commons_word {o : Nat} (hx : x < 32) (ho : o < 0x800000) : ∃ w,
    Mem.commons x o - Mem.commons x o % wordBytes s (Mem.commons x o) = w ∧ w < 2 ^ 41 ∧ bits w 36 32 = x ∧ bits w 31 27 = 31 ∧
      wordBytes s w = wordBytes s (Mem.commons x o) ∧ Mem.onchip x 0 0 ≤ w ∧ w < Mem.onchip x 0 0 + 2 ^ 32 := by
  have size {b : Nat} (hb : b < 2 ^ 23) : wordBytes s (Mem.commons x b) = 32 := by
    have low := onchip_low (p := 31) hx (by decide) hb
    unfold wordBytes
    rw [inA_commons s hb]
    exact if_neg (by unfold Mem.commons; simp; omega)
  have start : o - o % 32 < 2 ^ 23 := Nat.lt_of_le_of_lt (Nat.sub_le ..) ho
  rw [size ho]
  refine ⟨Mem.commons x (o - o % 32), onchip_word (.inr rfl), Nat.lt_trans (onchip_low hx (by decide) start).2 (by decide),
    bits_onchip_sector hx (by decide) start, bits_onchip_target (by decide) start, size start, ?_, ?_⟩
  · simp only [Mem.commons, Mem.onchip]; omega
  · simp only [Mem.commons, Mem.onchip]; omega

/-- A scrub that meets an error in core memory. -/
theorem scrubPass_cm {p o n : Nat} (hx : x < 32) (on : domainOn s x = true) (none_ : s.flips = []) (hp : p < 25) (ho : o < 0x180000) (pos : 0 < n) :
    ∃ w, (exec (.scrubPass x ⟨[⟨.cm p o, n⟩], []⟩) s = done s (if bit (core s (25 * x + p)).cmAttr (o / 65536) = true then
        if n ≤ 2 then inc s (E.cm_corrected_count + x)
        else if rebuildable { s with flips := [(w, n)] } w then paceBreak (inc s (E.cm_reconstructed_count + x)) x else loseWord s w
      else if n ≤ 1 then inc s (E.cm_corrected_count + x) else loseWord s w)) ∧
    Mem.onchip x p o - Mem.onchip x p o % wordBytes s (Mem.onchip x p o) = w ∧ bits w 36 32 = x ∧ bits w 31 27 = p ∧
      wordBytes s w = wordBytes s (Mem.onchip x p o) ∧ (bits w 22 0 / 65536 = o / 65536 ∧ bits w 22 0 / 64 = o / 64) ∧ w < 2 ^ 41 := by
  obtain ⟨w, word, low, sector, target, whole, code, first, last, region⟩ := cm_word (s := s) hx hp ho
  have key : cellKey x (.cm p o) = Mem.onchip x p o := by
    show Mem.onchip x (p % 25) (o % 0x180000) = _
    rw [Nat.mod_eq_of_lt hp, Nat.mod_eq_of_lt ho]
  refine ⟨w, ?_, word, sector, target, whole, region, low⟩
  rw [scrubPass_one (w := w) hx on none_ pos (by rw [key]; exact word) first last, meetWord_alone none_ low, sector, target,
    if_neg (show ¬p = 31 by omega), code]
  cases bit (core s (25 * x + p)).cmAttr (o / 65536) <;> rfl

/-- A scrub that meets an error in the commons. -/
theorem scrubPass_commons {o n : Nat} (hx : x < 32) (on : domainOn s x = true) (none_ : s.flips = []) (ho : o < 0x800000) (pos : 0 < n) :
    ∃ w, (exec (.scrubPass x ⟨[⟨.commons o, n⟩], []⟩) s = done s (if n ≤ 2 then inc s (E.commons_corrected_count + x) else loseWord s w)) ∧
      Mem.commons x o - Mem.commons x o % wordBytes s (Mem.commons x o) = w ∧ bits w 36 32 = x ∧ bits w 31 27 = 31 ∧
      wordBytes s w = wordBytes s (Mem.commons x o) ∧ w < 2 ^ 41 := by
  obtain ⟨w, word, low, sector, target, whole, first, last⟩ := commons_word (s := s) hx ho
  have key : cellKey x (.commons o) = Mem.commons x o := by
    show Mem.commons x (o % 0x800000) = _
    rw [Nat.mod_eq_of_lt ho]
  refine ⟨w, ?_, word, sector, target, whole, low⟩
  rw [scrubPass_one (w := w) hx on none_ pos (by rw [key]; exact word) first last, meetWord_alone none_ low, sector, if_pos target]

theorem parityGroup_onchip {p o : Nat} (ho : o < 2 ^ 23) : parityGroup (Mem.onchip x p o) =
    (List.range 64).map fun i => Mem.onchip x p 0 + (o / 65536 * 65536 + 1024 * i + o / 64 % 16 * 64) := by
  have base : Mem.onchip x p o - o = Mem.onchip x p 0 := by simp only [Mem.onchip]; omega
  unfold parityGroup
  dsimp only
  rw [bits_onchip_offset ho, base]

/-- Every other line of the parity group is whole: one word's errors stand in its own line alone. -/
theorem rebuildable_alone {p o w n : Nat} (ho : o < 2 ^ 23)
    (word : Mem.onchip x p o - Mem.onchip x p o % wordBytes s (Mem.onchip x p o) = w)
    (whole : ∀ l ∈ parityGroup (Mem.onchip x p o), l ≠ Mem.onchip x p o - Mem.onchip x p o % 64 → poisoned s l 64 = false) :
    rebuildable { s with flips := [(w, n)] } w = true := by
  have size : wordBytes s (Mem.onchip x p o) = 8 ∨ wordBytes s (Mem.onchip x p o) = 32 := by unfold wordBytes; split <;> simp
  generalize wordBytes s (Mem.onchip x p o) = b at word size
  have start : o - o % b < 2 ^ 23 := Nat.lt_of_le_of_lt (Nat.sub_le ..) ho
  have place : (o - o % b) / 65536 = o / 65536 ∧ (o - o % b) / 64 = o / 64 := by rcases size with rfl | rfl <;> omega
  have line : w - w % 64 = Mem.onchip x p o - Mem.onchip x p o % 64 := by rw [← word]; rcases size with rfl | rfl <;> omega
  have group : parityGroup w = parityGroup (Mem.onchip x p o) := by
    rw [← word, onchip_word size, parityGroup_onchip start, parityGroup_onchip ho, place.1, place.2]
  unfold rebuildable
  rw [line, group]
  refine List.all_eq_true.2 fun l member => ?_
  obtain ⟨listed, other⟩ := List.mem_filter.1 member
  have other := bne_iff_ne.1 other
  have aligned : l % 64 = 0 := by
    rw [parityGroup_onchip ho] at listed
    obtain ⟨i, -, rfl⟩ := List.mem_map.1 listed
    simp only [Mem.onchip]
    omega
  have unlost : lineLost ({ s with flips := [(w, n)] } : State) l = false := by
    unfold lineLost
    rw [List.any_eq_false]
    intro e here
    rw [List.mem_singleton.1 here]
    simp only [decide_eq_true_eq]
    rintro ⟨below, above, -⟩
    rw [← line] at other
    omega
  rw [unlost, show poisoned ({ s with flips := [(w, n)] } : State) l 64 = false from whole l listed other]
  rfl

end

section
variable {q₀ : List Instr}

protected theorem QueueIs.flushN {n : Nat} {s : State} {c : Nat} (h : QueueIs q₀ s) : QueueIs q₀ (flushN n s c) := by
  induction n generalizing s with
  | zero => exact h
  | succ n ih =>
    rw [flushN]
    split
    · exact h
    · exact ih h.runGrant

protected theorem QueueIs.flush {s : State} {c : Nat} (h : QueueIs q₀ s) : QueueIs q₀ (flush s c) := h.flushN
end

/-! ## Changes of `cm_attr` (R143 to R145) -/

theorem changedRegions_fixed {s : State} {c v : Nat} : ((changedRegions s c v).any (regionFixed s c)) = true ↔
    ∃ k ∈ (List.range 24).filter fun k => bit v k != bit (core s c).cmAttr k, bit (rd s (E.shadow_pool_cfg + c / 25)) k = true ∨
      ∃ g ∈ (sector s (c / 25)).landing, g.target = c % 25 ∧ g.idx = k := by
  rw [List.any_eq_true]
  refine exists_congr fun k => and_congr Iff.rfl ?_
  rw [regionFixed, Bool.or_eq_true, List.any_eq_true]
  simp only [Bool.and_eq_true, beq_iff_eq]

/-- Regions that are filled with zeros: nothing else changes in memory. -/
theorem rdByte_zeroFills {c : Nat} (l : List Nat) (s : State) (a : Nat) :
    rdByte (l.foldl (fun t k => zeroFill t (Mem.cm c (65536 * k)) (Mem.cm c (65536 * (k + 1)))) s) a =
      if ∃ k ∈ l, Mem.cm c (65536 * k) ≤ a ∧ a < Mem.cm c (65536 * (k + 1)) then 0 else rdByte s a := by
  induction l generalizing s with
  | nil => simp
  | cons k l ih =>
    rw [List.foldl_cons, ih, rdByte_zeroFill]
    by_cases later : ∃ k ∈ l, Mem.cm c (65536 * k) ≤ a ∧ a < Mem.cm c (65536 * (k + 1))
    · obtain ⟨j, member, inside⟩ := later
      rw [if_pos ⟨j, member, inside⟩, if_pos ⟨j, .tail _ member, inside⟩]
    · rw [if_neg later]
      refine if_congr ⟨fun here => ⟨k, .head _, here⟩, fun ⟨j, member, inside⟩ => ?_⟩ rfl rfl
      rcases List.mem_cons.1 member with rfl | m
      · exact inside
      · exact absurd ⟨j, m, inside⟩ later

theorem zeroFills_keep {c : Nat} (l : List Nat) (s : State) :
    (l.foldl (fun t k => zeroFill t (Mem.cm c (65536 * k)) (Mem.cm c (65536 * (k + 1)))) s).cores = s.cores ∧
      (l.foldl (fun t k => zeroFill t (Mem.cm c (65536 * k)) (Mem.cm c (65536 * (k + 1)))) s).dict = s.dict :=
  List.foldlRecOn (motive := fun u : State => u.cores = s.cores ∧ u.dict = s.dict) _ _ ⟨rfl, rfl⟩ fun _ kept _ _ => kept

/-! ## The statement's parts -/

section
variable {s : State} {x : Nat}

/-- What a scrub leaves when it loses or corrects the one word with errors. -/
theorem leads_counted {e : ScrubErrors} {b : Nat} (none_ : s.flips = []) (runs : exec (.scrubPass x e) s = done s (inc s (b + x))) :
    Leads (.scrubPass x e) s fun t => t.mem = s.mem ∧ t.cores = s.cores ∧ t.flips = [] ∧
      (rd t (b + x) = cut (b + x) (rd s (b + x) + 1) ∧ t.poison = s.poison) :=
  leads_of_effect runs ⟨rfl, rfl, none_, rd_inc_same s _, rfl⟩ fun _ _ h => h

theorem leads_lost {e : ScrubErrors} {k w : Nat} (none_ : s.flips = []) (hx : x < 32) (low : k < 2 ^ 41) (word : k - k % wordBytes s k = w)
    (whole : wordBytes s w = wordBytes s k) (sector : bits w 36 32 = x) (runs : exec (.scrubPass x e) s = done s (loseWord s w)) :
    Leads (.scrubPass x e) s fun t => t.mem = s.mem ∧ t.cores = s.cores ∧ t.flips = [] ∧
      ((rd t (E.onchip_uncorrectable_count + x) = cut (E.onchip_uncorrectable_count + x) (rd s (E.onchip_uncorrectable_count + x) + 1) ∧
        poisoned t k 1 = true) ∧ rd t E.last_ue_address = cut E.last_ue_address (k - k % 64) ∧
        rd t E.last_ue_block = cut E.last_ue_block (reporter s w)) := by
  obtain ⟨lost, address, block⟩ := loseWord_lost hx low word whole sector
  exact leads_of_effect runs ⟨lost.mem, lost.cores, lost.flips.trans none_, ⟨lost.count, lost.mark⟩, address, block⟩ fun _ _ h => h

/-- A rebuilt word, and the pace of a paced sector. -/
theorem rd_rebuilt (hx : x < 32) : rd (paceBreak (inc s (E.cm_reconstructed_count + x)) x) (E.cm_reconstructed_count + x) =
      cut (E.cm_reconstructed_count + x) (rd s (E.cm_reconstructed_count + x) + 1) ∧
    (bit (rd s (E.sector_pacing + x)) 0 = true → rd (paceBreak (inc s (E.cm_reconstructed_count + x)) x) (E.pace_break_count + x) =
      cut (E.pace_break_count + x) (rd s (E.pace_break_count + x) + 1)) := by
  have apart (b : Nat) (ne : b ≠ E.cm_reconstructed_count) : b + x ≠ E.cm_reconstructed_count + x := fun e => ne (Nat.add_right_cancel e)
  refine ⟨?_, fun paced_ => ?_⟩
  · have other : E.cm_reconstructed_count + x ≠ E.pace_break_count + x := fun e => apart E.pace_break_count (by decide) e.symm
    have low : E.cm_reconstructed_count + x < E.nd_count := by simp only [E.cm_reconstructed_count, E.nd_count]; omega
    rw [rd_paceBreak _ other low]
    exact rd_inc_same s _
  · have same : paced (inc s (E.cm_reconstructed_count + x)) x = true := by
      unfold paced
      rw [rd_inc_other _ (apart E.sector_pacing (by decide))]
      exact paced_
    rw [rd_paceBreak_same _ hx, if_pos same, rd_inc_other _ (apart E.pace_break_count (by decide))]

/-- A tile register is no scrub's: an error there stands until its word is read (R147). -/
theorem scrubPass_tile {p r o : Nat} (hx : x < 32) (on : domainOn s x = true) (none_ : s.flips = []) (hp : p < 25) (hr : r < 32) (ho : o < 4096) :
    exec (.scrubPass x ⟨[⟨.tile p r o, 2⟩], []⟩) s =
      done s { s with flips := [(Mem.tile (25 * x + p) r o - Mem.tile (25 * x + p) r o % 8, 2)] } := by
  have key : cellKey x (.tile p r o) = Mem.tile (25 * x + p) r o := by
    show Mem.tile (25 * x + p % 25) (r % 32) (o % 4096) = _
    rw [Nat.mod_eq_of_lt hp, Nat.mod_eq_of_lt hr, Nat.mod_eq_of_lt ho]
  have size : wordBytes s (Mem.tile (25 * x + p) r o) = 8 := if_pos (.inl (by simp only [Mem.tile]; omega))
  have arises : arise s x [⟨.tile p r o, 2⟩] = { s with flips := [(Mem.tile (25 * x + p) r o - Mem.tile (25 * x + p) r o % 8, 2)] } :=
    (addFlips_alone none_ _ (show 0 < 2 by decide)).trans (by rw [key, size])
  rw [exec_scrubPass hx on]
  dsimp only
  rw [arises, scrub, meet_none rfl (by simp only [Mem.onchip, Mem.tile]; omega)]
  rfl

theorem meet_tile {c r o : Nat} (none_ : s.flips = []) (hc : c / 25 < 32) (hr : r < 32) (ho : o < 4096) :
    LostAt s (meet { s with flips := [(Mem.tile c r o - Mem.tile c r o % 8, 2)] } (Mem.tile c r 0) 4096) (Mem.tile c r o) (c / 25) := by
  have high : 2 ^ 41 ≤ Mem.tile c r o - Mem.tile c r o % 8 := by simp only [Mem.tile]; omega
  have high' : 2 ^ 41 ≤ Mem.tile c r o := Nat.le_trans high (Nat.sub_le ..)
  have size {u : State} {k : Nat} (h : 2 ^ 41 ≤ k) : wordBytes u k = 8 := if_pos (.inl h)
  have start : (Mem.tile c r o - Mem.tile c r o % 8) - (Mem.tile c r o - Mem.tile c r o % 8) % 8 = Mem.tile c r o - Mem.tile c r o % 8 := by omega
  have sector : coreAt (Mem.tile c r o - Mem.tile c r o % 8) / 25 = c / 25 := by
    have : coreAt (Mem.tile c r o - Mem.tile c r o % 8) = c := by
      unfold coreAt
      rw [if_neg (by simp only [Mem.tile]; omega), if_pos high]
      simp only [Mem.tile]
      omega
    rw [this]
  rw [meet_alone rfl (by simp only [Mem.tile]; omega) (by rw [size high]; simp only [Mem.tile]; omega), meetWord_tile high (by decide),
    met_alone none_]
  obtain ⟨a, b, lost⟩ := loseWord_tile (u := s) high
  rw [lost, sector]
  have marked := marked_mem s (Mem.tile c r o - Mem.tile c r o % 8)
  rw [size high, start] at marked
  exact onchipUe_lost hc a b rfl rfl rfl rfl (by rw [size high']; exact marked) (by rw [size high', size high])
end

/-- Settles O27: a write of `cm_attr` fills the changed regions one after another; a scrub meets one word, by the code of its memory,
and what it does then is what `meetWord` says. -/
theorem memoryKeepsCode : Obligations.MemoryKeepsCode := by
  unfold Obligations.MemoryKeepsCode
  refine ⟨fun s c v hc on => ?attributes, fun s x hx on none_ => ?scrubs⟩
  case attributes =>
    have queue : (flush s c).pending = s.pending := (queueIs_def _).1 (queueIs_self s).flush
    have runs : exec (.cmAttrWrite c v) s = done s (cmAttrWrite (flush s c) c v.toNat) := by
      rw [show exec (.cmAttrWrite c v) s = execCmAttrWrite c v s from rfl, execCmAttrWrite, if_pos on]
      exact guarded_of (decide_eq_true hc) ..
    refine ⟨fun fixed => ?_, fun free => ?_⟩
    · rw [runs, cmAttrWrite, if_pos (changedRegions_fixed.2 fixed)]
      exact done_eq queue
    · obtain ⟨cores, dict⟩ := zeroFills_keep (c := c) (changedRegions (flush s c) c v.toNat) (flush s c)
      rw [cmAttrWrite, if_neg (mt changedRegions_fixed.1 free)] at runs
      refine leads_of_effect runs ⟨?_, fun j other => ?_, dict, fun a => rdByte_zeroFills _ _ a⟩ fun _ _ h => h
      · rw [core_onCore_same, core_congr cores]
        rfl
      · rw [core_onCore, if_neg other, core_congr cores]
  case scrubs =>
    refine ⟨?_, fun cell n pos => ?_, fun p o hp ho => ⟨?_, ?_, ?_, ?_⟩, fun o ho => ⟨?_, ?_⟩, fun p r o hp hr ho => ?_⟩
    · refine stays_of_same (exec_scrubPass hx on _) ?_
      exact scrub_clean none_
    · have stands : arise (scrub s x) x [⟨cell, n⟩] =
          { s with flips := [(cellKey x cell - cellKey x cell % wordBytes s (cellKey x cell), n)] } := by
        rw [scrub_clean none_]
        exact addFlips_alone none_ _ pos
      have runs := exec_scrubPass hx on ⟨[], [⟨cell, n⟩]⟩
      rw [show arise s x [] = s from rfl, stands] at runs
      exact ⟨_, runs, rfl, rfl⟩
    · intro wide n low high
      obtain ⟨w, runs, -⟩ := scrubPass_cm hx on none_ hp ho low
      rw [if_pos wide, if_pos high] at runs
      exact leads_counted none_ runs
    · intro wide whole n many
      obtain ⟨w, runs, word, -⟩ := scrubPass_cm (n := n) hx on none_ hp ho (by omega)
      have rebuilt := rebuildable_alone (n := n) (show o < 2 ^ 23 by omega) word whole
      rw [if_pos wide, if_neg (by omega), if_pos rebuilt] at runs
      obtain ⟨count, pace⟩ := rd_rebuilt (s := s) hx
      have same := still_paceBreak (s := inc s (E.cm_reconstructed_count + x)) x
      have mem := mem_of_still same
      have cores := cores_of_still same
      have flips := congrArg State.flips same
      have poison := congrArg State.poison same
      exact leads_of_effect runs ⟨mem, cores, flips.trans none_, count, poison, pace⟩ fun _ _ h => h
    · intro narrow
      obtain ⟨w, runs, -⟩ := scrubPass_cm hx on none_ hp ho (show 0 < 1 by decide)
      rw [if_neg narrow, if_pos (by decide)] at runs
      exact leads_counted none_ runs
    · intro narrow n many
      obtain ⟨w, runs, word, sector, target, whole, -, below⟩ := scrubPass_cm (n := n) hx on none_ hp ho (by omega)
      rw [if_neg narrow, if_neg (by omega)] at runs
      have block : reporter s w = coreBlock s (25 * x + p) := by
        unfold reporter coreAt
        rw [if_neg (by omega), if_neg (by omega), if_neg (by omega), sector, target]
      rw [← block]
      exact leads_lost none_ hx (Nat.lt_trans (onchip_low hx (by omega) (by omega)).2 (by decide)) word whole sector runs
    · intro n low high
      obtain ⟨w, runs, -⟩ := scrubPass_commons hx on none_ ho low
      rw [if_pos high] at runs
      exact leads_counted none_ runs
    · intro n many
      obtain ⟨w, runs, word, sector, target, whole, -⟩ := scrubPass_commons (n := n) hx on none_ ho (by omega)
      rw [if_neg (by omega)] at runs
      have block : reporter s w = 0x300 + x := by
        unfold reporter
        rw [if_pos target, sector]
      have fits : cut E.last_ue_block (0x300 + x) = 0x300 + x := Nat.mod_eq_of_lt (show 0x300 + x < 2 ^ (8 * dictSize E.last_ue_block) by
        rw [show dictSize E.last_ue_block = 2 from by decide]; omega)
      have leads := leads_lost none_ hx (Nat.lt_trans (onchip_low (p := 31) hx (by decide) ho).2 (by decide)) word whole sector runs
      rw [block, fits] at leads
      exact leads
    · have lost := meet_tile (s := s) (c := 25 * x + p) none_ (by omega) hr ho
      rw [show (25 * x + p) / 25 = x by omega] at lost
      exact ⟨_, scrubPass_tile hx on none_ hp hr ho, rfl, lost.count, lost.mark⟩

end Sys2Proof.Machine
end

section
/-! SUPPORT.  -/

namespace Sys2Proof.Machine

open Sys2Proof

/-! ## Trust entries (R729, R733, R739, R742, R743) -/

/-- Where only trust is asked for, an entry that takes every value and has this effect accepts each write of the right size. -/
theorem trust_accepted {n : Instr} {s u : State} {via : Path} {k : Nat} {d : List Byte} {m : EntrySem} {w : DRow}
    (runs : exec n s = done s (access s (writeBytes via k d) m)) (serves : Serves s k) (entry : Writable k w)
    (device : partitionEntry (k / 256) = false) (open_ : ¬HeldBack s via w m) (size : d.length = w.size) (typ : w.typ ≠ 7)
    (rule : m.rule s (leNat d) = true) (idle : m.idle s = true) (effect : m.eff s via (leNat d) = u) (queue : u.pending = s.pending) :
    Accepts n s k u := by
  refine exec_accepted runs serves entry open_ size ?_ idle ?_ queue
  · rintro (⟨bool, -⟩ | fails)
    · exact typ bool
    · rw [rule] at fails
      exact absurd fails (by decide)
  · rw [told_device device]
    exact effect

theorem writable_debugUnlock : Writable E.debug_unlock ⟨0x8001, 1, 4, 4, 8, 128, .trust, 1, false, 0⟩ :=
  ⟨by decide, by decide, by decide, by decide, by decide⟩

theorem writable_svnMin : Writable E.svn_min ⟨0x8001, 1, 3, 3, 2, 2, .trust, 3, false, 0⟩ :=
  ⟨by decide, by decide, by decide, by decide, by decide⟩

theorem writable_trustAnchor {i : Nat} (low : i < 4) : Writable (E.trust_anchor + i) ⟨0x8021, 1, 1, 4, 10, 32, .trust, 3, false, 0⟩ := by
  refine ⟨?_, ?_, ?_, by decide, by decide⟩ <;> (revert i; decide)

/-- Bytes are the bytes of their value. -/
theorem leBytes_leNat (d : List Byte) : leBytes d.length (leNat d) = d := by
  induction d with
  | nil => rfl
  | cons b d ih =>
    have low := b.isLt
    rw [List.length_cons, leBytes, leNat]
    refine congrArg₂ List.cons ?_ ?_
    · exact BitVec.eq_of_toNat_eq (by rw [BitVec.toNat_ofNat]; omega)
    · rw [show (b.toNat + 256 * leNat d) / 256 = leNat d by omega, ih]

theorem anchor_size {i : Nat} (low : i < 4) : dictSize (E.trust_anchor + i) = 32 := by revert i; decide

section
variable {s : State} {via : Path}

theorem debugUnlock_cases {token : List Byte} (signed : Bool) (serves : Serves s E.debug_unlock) (size : token.length = 128) :
    (authentic s via = false → exec (.debugUnlock via token signed) s = .next (ended s E.debug_unlock 6)) ∧
    (authentic s via = true → Leads (.debugUnlock via token signed) s fun t => result t = 0 ∧ rd t E.debug_unlock = leNat token ∧
      t.island.unlock = (signed || s.island.unlock) ∧ rd t E.lifecycle_state = rd s E.lifecycle_state) := by
  have runs : exec (.debugUnlock via token signed) s = done s (access s (writeBytes via E.debug_unlock token) (unlockSem signed)) := rfl
  refine ⟨fun unknown => exec_heldBack runs serves writable_debugUnlock ⟨.inl rfl, unknown, rfl⟩, fun known => ?_⟩
  have fits : leNat token % 2 ^ (8 * dictSize E.debug_unlock) = leNat token :=
    Nat.mod_eq_of_lt (by
      rw [show dictSize E.debug_unlock = 128 from by decide, Nat.pow_mul, ← size]
      exact leNat_lt token)
  have stored : rd (wr s E.debug_unlock (leNat token)) E.debug_unlock = leNat token := (rd_wr_same ..).trans fits
  have life : rd (wr s E.debug_unlock (leNat token)) E.lifecycle_state = rd s E.lifecycle_state := rd_wr_other _ (by decide) _
  have takes := trust_accepted runs serves writable_debugUnlock (by decide) (not_heldBack_of_authentic known) size (by decide) rfl rfl rfl
  cases signed
  · exact ⟨_, takes rfl, rfl, stored, rfl, life⟩
  · exact ⟨_, takes rfl, rfl, stored, rfl, life⟩

theorem svnMinWrite_cases {v : Nat} (serves : Serves s E.svn_min) (small : v < 2 ^ 16) :
    let n := Instr.svnMinWrite via (leBytes 2 v)
    let fits := rd s E.svn_min ≤ v ∧ (v = rd s E.svn_min ∨ v ≤ rd s E.running_svn)
    (authentic s via = false → exec n s = .next (ended s E.svn_min 6)) ∧
    (authentic s via = true → ¬fits → exec n s = .next (ended s E.svn_min 4)) ∧
    (authentic s via = true → fits → Accepts n s E.svn_min (wr s E.svn_min v)) := by
  intro n fits
  have runs : exec n s = done s (access s (writeBytes via E.svn_min (leBytes 2 v)) svnSem) := rfl
  have value : leNat (leBytes 2 v) = v := leNat_value small
  have rule : svnSem.rule s v = true ↔ fits := by simp [svnSem, limited, fits]
  refine ⟨fun unknown => exec_heldBack runs serves writable_svnMin ⟨.inl rfl, unknown, rfl⟩, fun known bad => ?_, fun known good => ?_⟩
  · refine exec_badValue runs serves writable_svnMin (not_heldBack_of_authentic known) (leBytes_length ..) (.inr ?_)
    rw [value]
    exact Bool.eq_false_iff.2 fun h => bad (rule.1 h)
  · refine trust_accepted runs serves writable_svnMin (by decide) (not_heldBack_of_authentic known) (leBytes_length ..) (by decide) ?_ rfl ?_ rfl
    · rw [value]
      exact rule.2 good
    · rw [value]
      rfl

/-- The anchor list after d is written into its element i, as SM3 reads it. -/
theorem anchorDigest_wr {i : Nat} {d : List Byte} (low : i < 4) (size : d.length = 32) :
    anchorDigest (wr s (E.trust_anchor + i) (leNat d)) =
      sm3 ((List.range 4).flatMap fun j => if j = i then d else leBytes 32 (rd s (E.trust_anchor + j))) := by
  have width := anchor_size low
  have whole : leBytes 32 (leNat d) = d := by rw [← size, leBytes_leNat]
  refine congrArg (fun f => sm3 ((List.range 4).flatMap f)) (funext fun j => ?_)
  rw [rd_wr, width]
  by_cases same : j = i
  · rw [if_pos (by rw [same]), if_pos same, Nat.mod_eq_of_lt, whole]
    have := leNat_lt d
    rw [size] at this
    exact Nat.lt_of_lt_of_eq this (by decide)
  · rw [if_neg (by omega), if_neg same]

theorem noAnchor_iff : noAnchor s = true ↔ ∀ j < 4, rd s (E.trust_anchor + j) = 0 := by
  simp [noAnchor]

theorem rd_ended (u : State) (k r j : Nat) : rd (ended u k r) j = rd u j := rfl

theorem mr_size : dictSize (E.mr + 7) = dictSize E.mr := by decide

/-- s once element i of the anchor list is d. -/
def withAnchor (s : State) (i : Nat) (d : List Byte) : State :=
  extend (wr s (E.trust_anchor + i) (leNat d)) 7 (anchorDigest (wr s (E.trust_anchor + i) (leNat d)))

theorem anchorSem_rule (i v : Nat) : (anchorSem i).rule s v = true := rfl

theorem anchorSem_idle (i : Nat) : (anchorSem i).idle s = true := rfl

theorem pending_withAnchor (i : Nat) (d : List Byte) : (withAnchor s i d).pending = s.pending := by
  rw [withAnchor, extend, wr_pending, wr_pending]

theorem anchorSem_eff (i : Nat) (d : List Byte) : (anchorSem i).eff s via (leNat d) = withAnchor s i d := rfl

theorem trustAnchorWrite_cases {i : Nat} {d : List Byte} (low : i < 4) (serves : Serves s (E.trust_anchor + i)) (size : d.length = 32) :
    let n := Instr.trustAnchorWrite via i d
    let empty := ∀ j < 4, rd s (E.trust_anchor + j) = 0
    let i3c := ∃ a, via = .mctp .i3c a
    let anchor := fun (j : Nat) => if j = i then d else leBytes 32 (rd s (E.trust_anchor + j))
    (authentic s via = false → ¬(empty ∧ i3c) → exec n s = .next (ended s (E.trust_anchor + i) 6)) ∧
    (authentic s via = true ∨ (empty ∧ i3c) → Leads n s fun t => result t = 0 ∧ rd t (E.trust_anchor + i) = leNat d ∧
      rd t (E.mr + 7) = cut E.mr (leNat (sm3 (leBytes 32 (rd s (E.mr + 7)) ++ sm3 ((List.range 4).flatMap anchor))))) := by
  intro n empty i3c anchor
  have runs : exec n s = done s (access s (writeBytes via (E.trust_anchor + i) d) (anchorSem i)) := by
    rw [show exec n s = instanced (decide (i < 4)) s via E.trust_anchor (access s (writeBytes via (E.trust_anchor + i) d) (anchorSem i)) from rfl,
      decide_eq_true low, instanced_true]
  have exempt : (anchorSem i).exempt s via = true ↔ empty ∧ i3c := by
    show (noAnchor s && _) = true ↔ _
    rw [Bool.and_eq_true, noAnchor_iff]
    refine and_congr_right fun _ => ?_
    cases via with
    | mctp b a => cases b <;> simp [i3c]
    | _ => simp [i3c]
  refine ⟨fun unknown not => exec_heldBack runs serves (writable_trustAnchor low) ⟨.inl rfl, unknown, Bool.eq_false_iff.2 fun h => not (exempt.1 h)⟩,
    fun may => ?_⟩
  have open_ : ¬HeldBack s via ⟨0x8021, 1, 1, 4, 10, 32, .trust, 3, false, 0⟩ (anchorSem i) := by
    rcases may with known | free
    · exact not_heldBack_of_authentic known
    · rintro ⟨-, -, held⟩
      rw [exempt.2 free] at held
      exact absurd held (by decide)
  have device : partitionEntry ((E.trust_anchor + i) / 256) = false := by
    rw [show (E.trust_anchor + i) / 256 = 0x8021 by unfold E.trust_anchor; omega]
    decide
  have width := anchor_size low
  have small : leNat d < 2 ^ (8 * 32) := by
    have := leNat_lt d
    rw [size] at this
    exact Nat.lt_of_lt_of_eq this (by decide)
  have takes : Accepts n s (E.trust_anchor + i) (withAnchor s i d) :=
    trust_accepted runs serves (writable_trustAnchor low) device open_ size (show 10 ≠ 7 by decide) (anchorSem_rule i _)
      (anchorSem_idle i) (anchorSem_eff i d) (pending_withAnchor i d)
  refine ⟨_, takes, result_ended .., ?_, ?_⟩
  · rw [rd_ended, withAnchor, extend, rd_wr_other _ (by unfold E.trust_anchor E.mr; omega), rd_wr_same, width, Nat.mod_eq_of_lt small]
  · rw [rd_ended, withAnchor, extend, rd_wr_same, rd_wr_other _ (by unfold E.trust_anchor E.mr; omega), anchorDigest_wr low size, cut, mr_size]

end

/-! ## Measurements while changes run (R744, R745) -/

section
variable {s t : State}

theorem entryBytes_congr (dict : t.dict = s.dict) (k : Nat) : entryBytes t k = entryBytes s k := by
  rw [entryBytes, entryBytes, rd_congr dict]

theorem blockContent_congr (dict : t.dict = s.dict) (unlock : t.island.unlock = s.island.unlock) (hbm : t.hbm = s.hbm) (b : Nat) :
    blockContent t b = blockContent s b := by
  unfold blockContent
  simp only [entryBytes_congr dict, rd_congr dict, unlock, hbm]

theorem summary_congr (dict : t.dict = s.dict) (unlock : t.island.unlock = s.island.unlock) (hbm : t.hbm = s.hbm) : summary t = summary s := by
  unfold summary
  simp only [blockContent_congr dict unlock hbm]

end

/-- s once the responder has noted which content stands, and since when a change to it runs. -/
def noting (s : State) (ctr : Nat) (seen : Option (List Byte)) (noticed : Option (List Byte × Nat)) : State :=
  { s with freeCtr := ctr, island := { s.island with seen := seen, noticed := noticed } }

/-- Nothing that is measured has changed since the responder last looked. -/
def Settled (s : State) : Prop := s.island.seen = none ∨ s.island.seen = some (attested s)

theorem changeRuns_settled {s : State} (settled : Settled s) :
    changeRuns s = (false, noting s s.freeCtr (some (attested s)) s.island.noticed) := by
  unfold changeRuns
  rcases settled with none_ | same
  · rw [none_]
    rfl
  · rw [same]
    dsimp only
    rw [if_pos rfl, noting, ← same]

/-- When the responder noticed the change that stands now. -/
def changeSince (s : State) : Nat :=
  match s.island.noticed with
  | some e => if e.1 = attested s then e.2 else now s
  | none => now s

/-- Once what is measured has changed, the change runs on, which has lasted for less than 5 ms, or it has ended. -/
theorem changeRuns_unsettled {s : State} (unsettled : ¬Settled s) :
    (∃ since b, changeRuns s = (true, noting s (s.freeCtr + 1) (some b) (some (attested s, since))) ∧ now s < since + 125000 ∧
      ∀ e, s.island.noticed = some (attested s, e) → e = since) ∨
    changeRuns s = (false, noting s (s.freeCtr + 1) (some (attested s)) none) := by
  unfold Settled at unsettled
  unfold changeRuns
  rcases seen : s.island.seen with _ | b
  · exact absurd (.inl seen) unsettled
  · have changed : b ≠ attested s := fun same => unsettled (.inr (by rw [seen, same]))
    dsimp only
    rw [if_neg changed]
    by_cases runs : openValue 200 s.freeCtr 0 % 2 = 1 ∧ now s < changeSince s + 125000
    · refine .inl ⟨changeSince s, b, if_pos runs, runs.2, fun e noticed => ?_⟩
      rw [changeSince, noticed]
      exact (if_pos rfl).symm
    · exact .inr (if_neg runs)

/-! ## The responder (R736, R740 to R743) -/

section
variable {s : State}

/-- The responder cannot answer now. -/
def SpdmBusy (s : State) : Prop := s.recovery.fullTest.isSome = true ∨ rd s E.boot_state ≠ 3 ∨ s.island.trngFailing = true ∨ rd s E.trng_state = 2

theorem spdmSilent_iff : spdmSilent s = true ↔ s.supply.aonHeld = true ∨ s.save.running = true := by simp [spdmSilent]

theorem spdmBusy_iff : spdmBusy s = true ↔ SpdmBusy s := by simp [spdmBusy, SpdmBusy, or_assoc]

/-- The responder serves each request. -/
structure Responds (s : State) : Prop where
  silent : spdmSilent s = false
  life : rd s E.lifecycle_state ≠ 4
  busy : spdmBusy s = false

theorem spdmRequest_serves (q : SpdmReq) (responds : Responds s) :
    spdmRequest s q = if !awaitsChange q then spdmServe s q
      else if (changeRuns s).1 then spdmIsBusy (changeRuns s).2 else spdmServe (changeRuns s).2 q := by
  obtain ⟨silent, life, busy⟩ := responds
  rw [spdmRequest, silent, if_neg (by decide), if_neg life, busy, Bool.false_and, if_neg (by decide)]

theorem exec_spdm_plain {q : SpdmReq} (responds : Responds s) (plain : awaitsChange q = false) : exec (.spdmRequest q) s = done s (spdmServe s q) := by
  rw [show exec (.spdmRequest q) s = done s (spdmRequest s q) from rfl, spdmRequest_serves q responds, plain]
  rfl

theorem spdmServe_pending (u : State) (q : SpdmReq) : (spdmServe u q).pending = u.pending := by
  cases q <;> simp only [spdmServe, inSession] <;> (try split) <;> (try split) <;> (try split) <;> rfl

/-- A request that a change makes wait is served, unless a change has begun, for which it may be answered Busy. -/
theorem spdm_awaits {q : SpdmReq} {served : State → Prop} (responds : Responds s) (awaits : awaitsChange q = true)
    (serves : ∀ ctr c, served (spdmServe (noting s ctr (some (attested s)) c) q)) :
    (Settled s → Leads (.spdmRequest q) s served) ∧
    (¬Settled s → Leads (.spdmRequest q) s fun t => served t ∨ (t.sent = .spdm 3 [] :: s.sent ∧ rd t E.spdm_last_status = 0x0701 ∧
      t.sessions = s.sessions ∧ ∀ e, s.island.noticed = some (attested s, e) → now s < e + 125000)) := by
  have runs : exec (.spdmRequest q) s =
      done s (if (changeRuns s).1 then spdmIsBusy (changeRuns s).2 else spdmServe (changeRuns s).2 q) := by
    rw [show exec (.spdmRequest q) s = done s (spdmRequest s q) from rfl, spdmRequest_serves q responds, awaits]
    rfl
  refine ⟨fun settled => ?_, fun unsettled => ?_⟩
  · rw [changeRuns_settled settled] at runs
    exact ⟨_, runs.trans (done_eq (spdmServe_pending ..)), serves ..⟩
  · rcases changeRuns_unsettled unsettled with ⟨since, b, change, young, same⟩ | ended
    · rw [change] at runs
      refine ⟨_, runs.trans (done_eq rfl), .inr ⟨rfl, ?_, rfl, fun e noticed => ?_⟩⟩
      · exact (rd_wr_same _ E.spdm_last_status 0x0701).trans (by decide)
      · rw [same e noticed]
        exact young
    · rw [ended] at runs
      exact ⟨_, runs.trans (done_eq (spdmServe_pending ..)), .inl (serves ..)⟩

/-- So is one whose answer is content alone. -/
theorem spdm_gives {q : SpdmReq} {c : Nat} {d : List Byte} (responds : Responds s) (awaits : awaitsChange q = true)
    (serves : ∀ ctr e, spdmServe (noting s ctr (some (attested s)) e) q = emit (noting s ctr (some (attested s)) e) (.spdm c d)) :
    let served := fun (t : State) => t.sent = .spdm c d :: s.sent ∧ t.island.seen = some (attested s) ∧ t.mem = s.mem ∧ t.dict = s.dict ∧
      t.sessions = s.sessions
    (Settled s → Leads (.spdmRequest q) s served) ∧
    (¬Settled s → Leads (.spdmRequest q) s fun t => served t ∨ (t.sent = .spdm 3 [] :: s.sent ∧ rd t E.spdm_last_status = 0x0701 ∧
      t.sessions = s.sessions ∧ ∀ e, s.island.noticed = some (attested s, e) → now s < e + 125000)) :=
  spdm_awaits responds awaits fun ctr e => by
    rw [serves]
    exact ⟨rfl, rfl, rfl, rfl, rfl⟩

theorem summary_noting (ctr : Nat) (seen : Option (List Byte)) (c : Option (List Byte × Nat)) : summary (noting s ctr seen c) = summary s :=
  summary_congr rfl rfl rfl

theorem blockContent_measured {b : Nat} (low : 1 ≤ b) (high : b ≤ 8) : blockContent s b = some (leBytes 32 (rd s (E.mr + (b - 1)))) := by
  unfold blockContent
  exact if_pos ⟨low, high⟩

theorem spdmServe_measurements {b : Nat} (low : 1 ≤ b) (high : b ≤ 8) :
    spdmServe s (.getMeasurements b) = emit s (.spdm 0 (leBytes 32 (rd s (E.mr + (b - 1))))) := by
  rw [spdmServe, if_neg (by omega), if_neg (by omega), blockContent_measured low high]
  rfl

/-- A session number is free while fewer than eight sessions are open. -/
theorem freeSession_spec (room : s.sessions.length < 8) : (∀ v ∈ s.sessions, v.id ≠ freeSession s) ∧ freeSession s < 9 := by
  unfold freeSession
  rcases found : (List.range 9).find? fun i => !s.sessions.any (·.id == i) with _ | i
  · have taken : ∀ i < 9, ∃ v ∈ s.sessions, v.id = i := by simpa using found
    have short := (List.range 9).toFinset.card_le_card (t := (s.sessions.map (·.id)).toFinset) fun i member => by
      obtain ⟨v, held, rfl⟩ := taken i (by simpa using member)
      exact List.mem_toFinset.2 (List.mem_map_of_mem held)
    have few := (List.toFinset_card_le (s.sessions.map (·.id)))
    rw [List.length_map] at few
    rw [List.toFinset_range, Finset.card_range] at short
    omega
  · have low := List.mem_range.1 (List.mem_of_find?_eq_some found)
    have free := List.find?_some found
    refine ⟨fun v held same => ?_, low⟩
    simp only [Bool.not_eq_true', List.any_eq_false, beq_iff_eq] at free
    exact free v held same

theorem any_session {i : Nat} : s.sessions.any (·.id == i) = true ↔ ∃ v ∈ s.sessions, v.id = i := by simp

end

/-! ## Releases (R749, R750) -/

section
variable {s : State} {i p pkg : Nat} {r : ReleaseReq}

theorem sessionOk_iff : sessionOk s i = true ↔ ∃ v ∈ s.sessions, v.id = i ∧ v.authenticated = true := by simp [sessionOk]

/-- A request to change the releases, once the responder may answer it. -/
theorem keyRelease_serves (silent : spdmSilent s = false) (busy : spdmBusy s = false) (uses : 1 ≤ r.uses ∧ r.uses ≤ 255) :
    keyRelease s i r = if releaseCode s i r ≠ 0 then spdmAnswer s (leBytes 2 (releaseCode s i r)) else
      spdmAnswer (setReleases (forwardInput s 8 (leBytes 1 1 ++ leBytes 1 r.part ++ leBytes 8 r.pkg ++ r.secret ++ leBytes 1 r.uses))
        ((forwardInput s 8 (leBytes 1 1 ++ leBytes 1 r.part ++ leBytes 8 r.pkg ++ r.secret ++ leBytes 1 r.uses)).island.releases ++
          [⟨r.part, r.pkg, r.secret.take 32, r.uses⟩])) (leBytes 2 0) := by
  rw [keyRelease, silent, if_neg (by decide), busy, if_neg (by decide), decide_eq_true uses, if_neg (by decide)]

theorem keyRevoke_serves (silent : spdmSilent s = false) (busy : spdmBusy s = false) :
    keyRevoke s i p pkg = if !sessionOk s i then spdmAnswer s (leBytes 2 0x0706) else
      spdmAnswer (setReleases (forwardInput s 8 (leBytes 1 2 ++ leBytes 1 p ++ leBytes 8 pkg))
        ((forwardInput s 8 (leBytes 1 2 ++ leBytes 1 p ++ leBytes 8 pkg)).island.releases.filter fun r => !(r.part == p && r.pkg == pkg)))
        (leBytes 2 0) := by
  rw [keyRevoke, silent, if_neg (by decide), busy, if_neg (by decide)]

/-- The session that asks stands behind the present measurements. -/
def Measured (s : State) (i : Nat) (r : ReleaseReq) : Prop := (∃ v ∈ s.sessions, v.id = i ∧ v.summary = leNat r.digest) ∧ leNat r.digest = summary s

/-- The partition that is named is assigned. -/
def ReleaseAssigned (s : State) (r : ReleaseReq) : Prop := r.part < 32 ∧ rd s (E.part_state + 256 * r.part) = 1

theorem measured_iff :
    (!(s.sessions.any fun v => v.id == i && v.summary == leNat r.digest) || leNat r.digest != summary s) = true ↔ ¬Measured s i r := by
  have any : (s.sessions.any fun v => v.id == i && v.summary == leNat r.digest) = true ↔ ∃ v ∈ s.sessions, v.id = i ∧ v.summary = leNat r.digest := by simp
  rw [Bool.or_eq_true, Bool.not_eq_true', ← Bool.not_eq_true, any, bne_iff_ne, Measured]
  exact Classical.not_and_iff_not_or_not.symm

theorem releaseAssigned_iff : (!decide (r.part < 32) || rd s (E.part_state + 256 * r.part) != 1) = true ↔ ¬ReleaseAssigned s r := by
  rw [Bool.or_eq_true, Bool.not_eq_true', decide_eq_false_iff_not, bne_iff_ne, ReleaseAssigned]
  exact Classical.not_and_iff_not_or_not.symm

theorem releaseCode_eq : releaseCode s i r =
    if !sessionOk s i then 0x0706 else if !(s.sessions.any fun v => v.id == i && v.summary == leNat r.digest) || leNat r.digest != summary s then 0x0705
    else if !decide (r.part < 32) || rd s (E.part_state + 256 * r.part) != 1 then 0x0704
    else if 256 ≤ s.island.releases.length then 0x0706 else 0 := rfl

/-- The first check of R749 that fails gives the code. -/
theorem releaseCode_cases :
    (sessionOk s i = false → releaseCode s i r = 0x0706) ∧
    (sessionOk s i = true → ¬Measured s i r → releaseCode s i r = 0x0705) ∧
    (sessionOk s i = true → Measured s i r → ¬ReleaseAssigned s r → releaseCode s i r = 0x0704) ∧
    (sessionOk s i = true → Measured s i r → ReleaseAssigned s r → ¬s.island.releases.length < 256 → releaseCode s i r = 0x0706) ∧
    (sessionOk s i = true → Measured s i r → ReleaseAssigned s r → s.island.releases.length < 256 → releaseCode s i r = 0) := by
  rw [releaseCode_eq]
  refine ⟨fun session => ?_, fun session measured => ?_, fun session measured assigned => ?_, fun session measured assigned room => ?_,
    fun session measured assigned room => ?_⟩
  all_goals rw [session]
  · exact if_pos rfl
  · rw [if_neg (by decide), if_pos (measured_iff.2 measured)]
  · rw [if_neg (by decide), if_neg fun h => measured_iff.1 h measured, if_pos (releaseAssigned_iff.2 assigned)]
  · rw [if_neg (by decide), if_neg fun h => measured_iff.1 h measured, if_neg fun h => releaseAssigned_iff.1 h assigned, if_pos (by omega)]
  · rw [if_neg (by decide), if_neg fun h => measured_iff.1 h measured, if_neg fun h => releaseAssigned_iff.1 h assigned, if_neg (by omega)]

/-- New releases, and the answer that says so. -/
theorem leads_setReleases {n : Instr} {kind : Nat} {d : List Byte} {f : List Release → List Release}
    (runs : exec n s = done s (spdmAnswer (setReleases (forwardInput s kind d) (f (forwardInput s kind d).island.releases)) (leBytes 2 0))) :
    Leads n s fun t => t.island.releases = f s.island.releases ∧
      rd t E.releases_held = cut E.releases_held (f s.island.releases).length ∧ t.sent.head? = some (.spdm 0 (leBytes 2 0)) := by
  obtain ⟨l, sent⟩ := forwardInput_eq s kind d
  rw [sent] at runs
  exact ⟨_, runs, rfl, rd_wr_same .., rfl⟩

end

/-- Settles O53: each entry and each request by the first of its checks that fails; what the responder measures is read anew
by each request, and what a change makes wait is decided by what it noted last. -/
theorem trustGuards : Obligations.TrustGuards := by
  unfold Obligations.TrustGuards
  refine ⟨fun s via => ⟨fun token signed serves size => debugUnlock_cases signed serves size, fun v serves small => svnMinWrite_cases serves small,
    fun i d low serves size => trustAnchorWrite_cases low serves size⟩, fun s => ?_⟩
  intro silent busy busyNow serves ask answers refuses
  refine ⟨fun q quiet => ?_, fun q loud life waits kind => ?_, fun responds => ?_, fun i p pkg r => ?_⟩
  · rw [Stays, show exec (ask q) s = done s (spdmRequest s q) from rfl, spdmRequest, if_pos (spdmSilent_iff.2 quiet)]
    rfl
  · have asks : (spdmBusy s && (s.recovery.fullTest.isSome || !alwaysServed q)) = true := by
      rw [spdmBusy_iff.2 waits, Bool.true_and, Bool.or_eq_true, Bool.not_eq_true']
      exact kind
    rw [show exec (ask q) s = done s (spdmRequest s q) from rfl, spdmRequest, if_neg fun h => loud (spdmSilent_iff.1 h), if_neg life, if_pos asks]
    rfl
  · obtain ⟨loud, ready, life⟩ := responds
    have responds : Responds s := ⟨Bool.eq_false_iff.2 fun h => loud (spdmSilent_iff.1 h), life, Bool.eq_false_iff.2 fun h => ready (spdmBusy_iff.1 h)⟩
    intro settled changes gives
    refine ⟨?_, ?_, fun b low high => ?_, fun k high => ?_, fun c => ?_, fun b full => ?_, fun b room => ?_, fun i => ⟨fun unknown => ?_, fun known => ?_⟩⟩
    · exact spdm_gives responds rfl fun ctr e => by rw [spdmServe, summary_noting]; rfl
    · exact spdm_gives responds rfl fun ctr e => rfl
    · exact spdm_gives responds rfl fun ctr e => spdmServe_measurements low high
    · refine (exec_spdm_plain responds rfl).trans ?_
      rw [spdmServe, if_pos (.inl high)]
      rfl
    · exact exec_spdm_plain responds rfl
    · exact spdm_gives responds rfl fun ctr e => if_pos full
    · refine spdm_awaits responds rfl fun ctr e => ?_
      obtain ⟨free, low⟩ := freeSession_spec room
      rw [spdmServe, if_neg (show ¬8 ≤ (noting s ctr (some (attested s)) e).sessions.length from Nat.not_le.2 room)]
      refine ⟨freeSession s, free, low, ?_, ?_, ?_⟩
      · exact congrArg (fun v => s.sessions ++ [Session.mk (freeSession s) false b v]) (summary_noting ..)
      · exact congrArg (fun v => Out.spdm 0 (leBytes 1 (freeSession s) ++ leBytes 32 v) :: s.sent) (summary_noting ..)
      · refine (rd_wr_same ..).trans ?_
        rw [List.length_append]
        rfl
    · have none_ : s.sessions.any (·.id == i) = false := Bool.eq_false_iff.2 fun h => unknown (any_session.1 h)
      have absent : ∀ f : State → State, inSession s i f = spdmError s 2 := fun f => if_neg (by rw [none_]; decide)
      refine ⟨?_, ?_, ?_, fun d => ?_⟩
      all_goals
        refine (exec_spdm_plain responds rfl).trans ?_
        rw [spdmServe, absent]
        rfl
    · have present : ∀ f : State → State, inSession s i f = f s := fun f => if_pos (any_session.2 known)
      refine ⟨?_, ?_, ?_, fun d => ?_⟩
      · refine (exec_spdm_plain responds rfl).trans ?_
        rw [spdmServe, present]
        rfl
      · refine (exec_spdm_plain responds rfl).trans ?_
        rw [spdmServe, present]
        rfl
      · refine ⟨_, exec_spdm_plain responds rfl, ?_⟩
        rw [spdmServe, present]
        rfl
      · refine ⟨_, exec_spdm_plain responds rfl, ?_⟩
        rw [spdmServe, present]
        rfl
  · intro release revoke session measured assigned room uses
    refine ⟨fun quiet => ⟨?_, ?_⟩, fun loud waits => ⟨?_, ?_⟩, fun loud ready => ?_⟩
    · rw [Stays, show exec release s = done s (keyRelease s i r) from rfl, keyRelease, if_pos (spdmSilent_iff.2 quiet)]
      rfl
    · rw [Stays, show exec revoke s = done s (keyRevoke s i p pkg) from rfl, keyRevoke, if_pos (spdmSilent_iff.2 quiet)]
      rfl
    · rw [show exec release s = done s (keyRelease s i r) from rfl, keyRelease, if_neg fun h => loud (spdmSilent_iff.1 h), if_pos (spdmBusy_iff.2 waits)]
      rfl
    · rw [show exec revoke s = done s (keyRevoke s i p pkg) from rfl, keyRevoke, if_neg fun h => loud (spdmSilent_iff.1 h), if_pos (spdmBusy_iff.2 waits)]
      rfl
    · have silent : spdmSilent s = false := Bool.eq_false_iff.2 fun h => loud (spdmSilent_iff.1 h)
      have busy : spdmBusy s = false := Bool.eq_false_iff.2 fun h => ready (spdmBusy_iff.1 h)
      have code : uses → ∀ c, c ≠ 0 → releaseCode s i r = c → exec release s = .next (emit s (.spdm 0 (leBytes 2 c))) := by
        intro fits c bad is
        rw [show exec release s = done s (keyRelease s i r) from rfl, keyRelease_serves silent busy fits, is, if_pos bad]
        rfl
      have no : ¬session → sessionOk s i = false := fun none_ => Bool.eq_false_iff.2 fun h => none_ (sessionOk_iff.1 h)
      obtain ⟨stranger, stale, unassigned, full, takes⟩ := releaseCode_cases (s := s) (i := i) (r := r)
      refine ⟨fun fits none_ => code fits _ (by decide) (stranger (no none_)), fun fits open_ old => code fits _ (by decide) (stale (sessionOk_iff.2 open_) old),
        fun fits open_ fresh other => code fits _ (by decide) (unassigned (sessionOk_iff.2 open_) fresh other),
        fun fits open_ fresh given none_ => code fits _ (by decide) (full (sessionOk_iff.2 open_) fresh given none_),
        fun fits open_ fresh given space => ?_, fun none_ => ?_, fun open_ => ?_⟩
      · have runs : exec release s = done s (keyRelease s i r) := rfl
        rw [keyRelease_serves silent busy fits, takes (sessionOk_iff.2 open_) fresh given space, if_neg (by decide)] at runs
        obtain ⟨t, next, list, count, answer⟩ := leads_setReleases (f := (· ++ [⟨r.part, r.pkg, r.secret.take 32, r.uses⟩])) runs
        exact ⟨t, next, list, count.trans (by rw [List.length_append]; rfl), answer⟩
      · show exec revoke s = _
        rw [show exec revoke s = done s (keyRevoke s i p pkg) from rfl, keyRevoke_serves silent busy, no none_]
        rfl
      · have runs : exec revoke s = done s (keyRevoke s i p pkg) := rfl
        rw [keyRevoke_serves silent busy, sessionOk_iff.2 open_, if_neg (by decide)] at runs
        obtain ⟨t, next, list, -, answer⟩ := leads_setReleases (f := List.filter fun r => !(r.part == p && r.pkg == pkg)) runs
        exact ⟨t, next, list, answer⟩

end Sys2Proof.Machine
end

section
/-! SUPPORT. A held transfer that is abandoned (R474). -/

namespace Sys2Proof.Machine

open Sys2Proof

/-! ## A core in C2 mode whose transfer is abandoned (R259, R474) -/

/-- A transfer that holds at address 0. -/
def heldTransfer : Xfer := ⟨0, .ldt, 0, 0, 0, 0, 0, 0, false, 0, 0, 0, 0, 64, 0, [], 0, some 0, 0, false, 0⟩

/-- Core 0 of a device that has come ready runs in C2 mode, and holds a block with a transfer that holds. -/
def c2State : State :=
  { State.reset with
    dict := [(E.boot_state, 3)]
    cores := [(0, { Core.init with c2 := true, block := some ⟨0, 0, 0, 0, 0, 0, false, 0, 0, false, 0, 0⟩, xfers := [heldTransfer] })] }

theorem c2State_serves : Serves c2State E.stream_abandon := by
  refine ⟨by decide, rfl, fun w row shared => ?_⟩
  obtain rfl : (⟨0x3504, 1, 1, 1, 2, 2, .cmd, 1, false, 0⟩ : DRow) = w := Option.some.inj ((show dictRow 0x3504 1 = _ by decide).symm.trans row)
  exact absurd shared (by decide)

/-- Refutes O38: in `c2State` the fault of the abandoned transfer goes to the status that the next `WAITE` returns (R259), as
`faultBlock` has it for a core in C2 mode, and the block keeps fault 0 (the statement does not ask that the core is out of that mode). -/
theorem not_pagesMap : ¬ Obligations.PagesMap := by
  unfold Obligations.PagesMap
  rintro ⟨-, abandons⟩
  obtain ⟨t, runs, -, -, ⟨w, block, fault⟩, -⟩ :=
    abandons c2State .island 0 ⟨0, 0, 0, 0, 0, 0, false, 0, 0, false, 0, 0⟩ (by decide) c2State_serves (by decide) (by decide)
  have kept : (match exec (.streamAbandon .island (leBytes (dictSize E.stream_abandon) 0)) c2State with
      | .next t => (core t 0).block.map (·.fault)
      | _ => none) = some 0 := by decide +kernel
  rw [runs] at kept
  dsimp only at kept
  rw [block, Option.map_some, fault] at kept
  exact absurd kept (by decide)

end Sys2Proof.Machine
end

section
/-! SUPPORT.  -/

namespace Sys2Proof.Machine

open Sys2Proof

/-! ## The commit log (R519) -/

/-- The decisions that are logged are g₀. -/
@[irreducible] def LogIs (g₀ : List Decision) (s : State) : Prop := s.commitLog = g₀

section
variable {g₀ : List Decision}
theorem logIs_def (s : State) : LogIs g₀ s ↔ s.commitLog = g₀ := by unfold LogIs; exact Iff.rfl

theorem logIs_self (s : State) : LogIs s.commitLog s := (logIs_def s).2 rfl

protected theorem LogIs.mk {s : State} {dict mem poison flips pins supply save host power sectors cores xlat groups resolved keysets laces handles arrivals windows transport step ports routes paths twin island replays det pke hbm recovery sessions sent freeCtr pending} (h : LogIs g₀ s) :
    LogIs g₀ (.mk dict mem poison flips pins supply save host power sectors cores xlat groups resolved s.commitLog keysets laces handles arrivals windows transport step ports routes paths twin island replays det pke hbm recovery sessions sent freeCtr pending) :=
  (logIs_def _).2 ((logIs_def s).1 h)
protected theorem LogIs.ite {p : Prop} [Decidable p] {s t : State} (hs : LogIs g₀ s) (ht : LogIs g₀ t) :
    LogIs g₀ (if p then s else t) := by split <;> assumption
protected theorem LogIs.ite_fst {α : Type} {p : Prop} [Decidable p] {s t : State × α} (hs : LogIs g₀ s.1) (ht : LogIs g₀ t.1) :
    LogIs g₀ (if p then s else t).1 := by split <;> assumption
protected theorem LogIs.foldl {α : Type} {f : State → α → State} {l : List α} {s : State} (h : LogIs g₀ s)
    (step : ∀ s a, LogIs g₀ s → LogIs g₀ (f s a)) : LogIs g₀ (l.foldl f s) := by
  induction l generalizing s with
  | nil => exact h
  | cons a l ih => exact ih (step s a h)
protected theorem LogIs.foldl_fst {α β : Type} {f : State × β → α → State × β} {l : List α} {s : State × β} (h : LogIs g₀ s.1)
    (step : ∀ s a, LogIs g₀ s.1 → LogIs g₀ (f s a).1) : LogIs g₀ (l.foldl f s).1 := by
  induction l generalizing s with
  | nil => exact h
  | cons a l ih => exact ih (step s a h)

protected theorem LogIs.wr {s : State} {k v : Nat} (h : LogIs g₀ s) : LogIs g₀ (wr s k v) := h.mk

protected theorem LogIs.incBy {s : State} {k n : Nat} (h : LogIs g₀ s) : LogIs g₀ (incBy s k n) := h.wr

protected theorem LogIs.inc {s : State} {k : Nat} (h : LogIs g₀ s) : LogIs g₀ (inc s k) := h.incBy

protected theorem LogIs.wrBytes {s : State} {k : Nat} {d : List Byte} (h : LogIs g₀ s) : LogIs g₀ (wrBytes s k d) := h.mk

protected theorem LogIs.wrNat {s : State} {k n v : Nat} (h : LogIs g₀ s) : LogIs g₀ (wrNat s k n v) := h.wrBytes

protected theorem LogIs.zeroFill {s : State} {lo hi : Nat} (h : LogIs g₀ s) : LogIs g₀ (zeroFill s lo hi) := h.mk

protected theorem LogIs.mark {s : State} {k : Nat} (h : LogIs g₀ s) : LogIs g₀ (mark s k) := h.mk

protected theorem LogIs.emit {s : State} {o : Out} (h : LogIs g₀ s) : LogIs g₀ (emit s o) := h.mk

protected theorem LogIs.msixSend {s : State} {v : Nat} (h : LogIs g₀ s) : LogIs g₀ (msixSend s v) := h.mk.emit.ite h.mk

protected theorem LogIs.signalVector {s : State} {v : Nat} (h : LogIs g₀ s) : LogIs g₀ (signalVector s v) :=
  h.ite (h.mk.ite h.msixSend)

protected theorem LogIs.alertEdge {s0 s : State} (hs : LogIs g₀ s) : LogIs g₀ (alertEdge s0 s) := hs.emit.signalVector.ite hs

protected theorem LogIs.setAlert {s : State} {b : Nat} (h : LogIs g₀ s) : LogIs g₀ (setAlert s b) := h.wr.alertEdge

protected theorem LogIs.setSector {s : State} {x : Nat} {v : Sector} (h : LogIs g₀ s) : LogIs g₀ (setSector s x v) := h.mk

protected theorem LogIs.setCore {s : State} {c : Nat} {v : Core} (h : LogIs g₀ s) : LogIs g₀ (setCore s c v) := h.mk

protected theorem LogIs.countAt {s : State} {cfg val ev inst n : Nat} (h : LogIs g₀ s) :
    LogIs g₀ (countAt s cfg val ev inst n) := h.incBy.ite h

protected theorem LogIs.countDev {s : State} {ev inst n : Nat} (h : LogIs g₀ s) : LogIs g₀ (countDev s ev inst n) :=
  h.foldl fun _ _ h => h.countAt

protected theorem LogIs.noteNd {s : State} {cause : Nat} {p : Option Nat} (h : LogIs g₀ s) : LogIs g₀ (noteNd s cause p) := by
  unfold noteNd
  dsimp only
  split
  · exact h.inc.countDev.inc
  · exact h.inc.countDev

protected theorem LogIs.onchipUe {s : State} {x a block : Nat} (h : LogIs g₀ s) : LogIs g₀ (onchipUe s x a block) :=
  h.inc.wr.wr.wr

protected theorem LogIs.paceBreak {s : State} {x : Nat} (h : LogIs g₀ s) : LogIs g₀ (paceBreak s x) :=
  h.ite (by
    dsimp only
    split
    · exact h.inc.noteNd.ite h.inc
    · exact h.inc)

protected theorem LogIs.bootLog {s : State} {event kind status block : Nat} {detail : List Byte} (h : LogIs g₀ s) :
    LogIs g₀ (bootLog s event kind status block detail) := h.wrBytes.mk

protected theorem LogIs.goOutOfService {s : State} {cause : Nat} (h : LogIs g₀ s) : LogIs g₀ (goOutOfService s cause) :=
  h.wr.wr.setAlert.bootLog

protected theorem LogIs.clearLost {s : State} {lo hi : Nat} (h : LogIs g₀ s) : LogIs g₀ (clearLost s lo hi) := h.mk.ite h

protected theorem LogIs.setOut {s : State} {out : List Nat} (h : LogIs g₀ s) : LogIs g₀ (setOut s out) :=
  h.mk.wr.wr.foldl fun _ _ h => h.wr

protected theorem LogIs.forcedMapOut {s : State} {pc : Nat} (h : LogIs g₀ s) : LogIs g₀ (forcedMapOut s pc) :=
  h.ite (h.wr.ite (h.mk.setOut.inc.zeroFill.wr.goOutOfService.ite h.mk.setOut.inc.zeroFill.wr))

protected theorem LogIs.forceMapOut {s : State} {pc : Nat} (h : LogIs g₀ s) : LogIs g₀ (forceMapOut s pc) :=
  h.mk.ite h.forcedMapOut

protected theorem LogIs.countUe {s : State} {a : Nat} (h : LogIs g₀ s) : LogIs g₀ (countUe s a) :=
  h.inc.mk.forceMapOut.ite h.inc.mk

protected theorem LogIs.noteEcc {s : State} {a : Nat} {ecc : Ecc} (h : LogIs g₀ s) : LogIs g₀ (noteEcc s a ecc) := by
  unfold noteEcc
  split
  · exact h
  · exact h.inc
  · exact h.countUe.ite h

protected theorem LogIs.hbmStore {s : State} {a : Nat} {d : List Byte} (h : LogIs g₀ s) : LogIs g₀ (hbmStore s a d) :=
  h.wrBytes.clearLost.ite h.wrBytes

protected theorem LogIs.loseWord {s : State} {k : Nat} (h : LogIs g₀ s) : LogIs g₀ (loseWord s k) :=
  h.mark.mk.onchipUe.ite (h.mark.onchipUe.ite h.mark.onchipUe)

protected theorem LogIs.meetWord {s : State} {k n : Nat} (h : LogIs g₀ s) : LogIs g₀ (meetWord s k n) :=
  .ite (h.mk.ite h.mk.loseWord) (.ite (h.mk.inc.ite h.mk.loseWord) (.ite (h.mk.inc.ite h.mk.loseWord) (h.mk.inc.ite
    (h.mk.inc.paceBreak.ite h.mk.loseWord))))

protected theorem LogIs.meetEdges {s : State} {k n : Nat} (h : LogIs g₀ s) : LogIs g₀ (meetEdges s k n) :=
  h.foldl fun _ _ h => h.meetWord

protected theorem LogIs.setGroup {s : State} {o : Option Nat} {i : Nat} {f : Group → Group} (h : LogIs g₀ s) :
    LogIs g₀ (setGroup s o i f) := h.mk

protected theorem LogIs.noteGroups {s : State} (h : LogIs g₀ s) : LogIs g₀ (noteGroups s) := h.wr.wr

protected theorem LogIs.returnCredits {s : State} {k n : Nat} (h : LogIs g₀ s) : LogIs g₀ (returnCredits s k n) :=
  h.ite h.setSector

protected theorem LogIs.discard {s : State} {o : Option Nat} {i : Nat} (h : LogIs g₀ s) : LogIs g₀ (discard s o i) := by
  unfold discard
  split
  · exact h
  · exact .noteGroups (.setGroup (h.foldl fun _ _ h => h.returnCredits))

protected theorem LogIs.unbind {s : State} {c : Nat} (h : LogIs g₀ s) : LogIs g₀ (unbind s c) := h.ite h.setCore

protected theorem LogIs.resolveGroup {s : State} {o : Option Nat} {i code cause : Nat} (h : LogIs g₀ s) :
    LogIs g₀ (resolveGroup s o i code cause) := by
  unfold resolveGroup
  split
  · exact h
  · exact .noteGroups (.ite (.inc (.ite (.setGroup (h.discard.mk.ite h.discard)) (.ite (.mk (h.discard.mk.ite h.discard))
      (.foldl (.mk (h.discard.mk.ite h.discard)) fun _ _ h => h.unbind.ite h)))) (.inc (.ite (.setGroup (h.discard.mk.ite
      h.discard)) (.ite (.mk (h.discard.mk.ite h.discard)) (.foldl (.mk (h.discard.mk.ite h.discard)) fun _ _ h => h.unbind.ite
      h)))))

protected theorem LogIs.groupStore {s : State} {o : Option Nat} {i k : Nat} {d : List Byte} {cred : Nat} {bad : Bool}
    (h : LogIs g₀ s) :
    LogIs g₀ (groupStore s o i k d cred bad).1 := by
  unfold groupStore
  split
  · exact h
  · exact h.ite_fst (h.ite_fst (.ite_fst (.noteGroups (h.foldl_fst fun _ _ h => h.ite_fst (by
      split
      · exact h
      · split
        · exact h
        · exact h.setGroup))) (.setGroup (.discard (h.foldl_fst fun _ _ h => h.ite_fst (by
      split
      · exact h
      · split
        · exact h
        · exact h.setGroup))))))

protected theorem LogIs.storeAt {s : State} {k : Nat} {d : List Byte} (h : LogIs g₀ s) : LogIs g₀ (storeAt s k d) :=
  h.hbmStore.ite h.meetEdges.wrBytes

protected theorem LogIs.noteLanded {s : State} {k n : Nat} (h : LogIs g₀ s) : LogIs g₀ (noteLanded s k n) := by
  unfold noteLanded
  split
  · exact h
  · exact h.mk

protected theorem LogIs.setHandle {s : State} {h : Nat} {v : Handle} (hs : LogIs g₀ s) : LogIs g₀ (setHandle s h v) := hs.mk

protected theorem LogIs.setPort {s : State} {p : Nat} {v : Port} (h : LogIs g₀ s) : LogIs g₀ (setPort s p v) := h.mk

protected theorem LogIs.sendFlits {s : State} {p vc n : Nat} (h : LogIs g₀ s) : LogIs g₀ (sendFlits s p vc n) :=
  h.setPort.countDev

protected theorem LogIs.sendMsg {s : State} {mtype : Nat} {m : Msg} (h : LogIs g₀ s) : LogIs g₀ (sendMsg s mtype m) :=
  .ite (.emit (by
    split
    · exact .sendFlits (h.noteNd.ite h)
    · exact h.noteNd.ite h)) h

protected theorem LogIs.sendNow {s : State} {h : Nat} {r : Request} (hs : LogIs g₀ s) : LogIs g₀ (sendNow s h r) :=
  .sendMsg (hs.setHandle.mk.ite hs.setHandle)

protected theorem LogIs.request {s : State} {h : Nat} {r : Request} (hs : LogIs g₀ s) : LogIs g₀ (request s h r) :=
  .ite (.sendNow (by
    split
    · exact hs.setGroup
    · exact hs)) (.setHandle (by
    split
    · exact hs.setGroup
    · exact hs))

protected theorem LogIs.sendNotice {s : State} {mtype node window epoch : Nat} {payload : List Byte} (h : LogIs g₀ s) :
    LogIs g₀ (sendNotice s mtype node window epoch payload) := h.mk.sendMsg

protected theorem LogIs.postEntry {s : State} {x cb off n : Nat} {r : List Byte} (h : LogIs g₀ s) :
    LogIs g₀ (postEntry s x cb off n r) := h.wrBytes.wrNat.wrNat

protected theorem LogIs.noteLine {s : State} {a : Nat} {key : Option (Nat × Nat × Nat)} (h : LogIs g₀ s) :
    LogIs g₀ (noteLine s a key) := h.mk

protected theorem LogIs.applyAdd {s : State} {u : HeldAdd} {q : Nat} {ecc : Ecc} (h : LogIs g₀ s) :
    LogIs g₀ (applyAdd s u q ecc) := h.noteEcc.ite h.noteEcc.hbmStore.noteLine.countDev

protected theorem LogIs.noteHeld {s : State} {held : List HeldAdd} (h : LogIs g₀ s) : LogIs g₀ (noteHeld s held) := h.mk.wr

protected theorem LogIs.flushHeld {s : State} {f : HeldAdd → Bool} (h : LogIs g₀ s) : LogIs g₀ (flushHeld s f) :=
  h.noteHeld.foldl fun _ _ h => h.applyAdd

protected theorem LogIs.unitStore {s : State} {x p : Nat} {g : Option Nat} {k : Nat} {d : List Byte} (h : LogIs g₀ s) :
    LogIs g₀ (unitStore s x p g k d).1 :=
  .ite_fst (h.ite_fst h.request) (h.ite_fst (by
    dsimp only
    split
    · exact .groupStore (h.noteLanded.ite h)
    · exact .storeAt (h.noteLanded.ite h)))

protected theorem LogIs.vaWrite {s : State} {x p : Nat} {g : Option Nat} {va : Nat} {d : List Byte} (h : LogIs g₀ s) :
    LogIs g₀ (vaWrite s x p g va d).1 := h.ite_fst (h.foldl_fst fun _ _ h => h.unitStore)

protected theorem LogIs.setRing {s : State} {x k : Nat} {v : Ring} (h : LogIs g₀ s) : LogIs g₀ (setRing s x k v) := h.setSector

protected theorem LogIs.mirrorEntry {s : State} {x k e : Nat} {r : List Byte} (h : LogIs g₀ s) :
    LogIs g₀ (mirrorEntry s x k e r) := h.ite (h.inc.ite h.emit)

protected theorem LogIs.postCompletion {s : State} {x k : Nat} {r : List Byte} (h : LogIs g₀ s) :
    LogIs g₀ (postCompletion s x k r) := h.setRing.ite h.postEntry.mirrorEntry.signalVector

protected theorem LogIs.finishWith {s : State} {x k : Nat} {t : Taken} {r extra : List Byte} (h : LogIs g₀ s) :
    LogIs g₀ (finishWith s x k t r extra) :=
  .postCompletion (.ite (.mk (by
    split
    · exact h.setRing
    · exact h.setRing.ite h.setRing.vaWrite)) (by
    split
    · exact h.setRing
    · exact h.setRing.ite h.setRing.vaWrite))

protected theorem LogIs.finishPlain {s : State} {x k : Nat} {t : Taken} {status : Nat} (h : LogIs g₀ s) :
    LogIs g₀ (finishPlain s x k t status) := h.mk.finishWith

protected theorem LogIs.finishCommit {s : State} {w : Option (Nat × Nat)} {i st : Nat} (h : LogIs g₀ s) :
    LogIs g₀ (finishCommit s w i st) := by
  unfold finishCommit
  split
  · exact h
  · split
    · exact h.finishPlain
    · exact h

protected theorem LogIs.releaseChildren {s : State} {failed : Bool} (h : LogIs g₀ s) : LogIs g₀ (releaseChildren s failed) :=
  h.foldl fun _ _ h => h.sendNotice

protected theorem LogIs.becomeQuiet {s : State} (h : LogIs g₀ s) : LogIs g₀ (becomeQuiet s) := h.mk

protected theorem LogIs.stepProgress {s : State} (h : LogIs g₀ s) : LogIs g₀ (stepProgress s) :=
  h.ite (h.ite (h.mk.emit.ite (h.releaseChildren.becomeQuiet.ite h.mk.sendNotice)))

protected theorem LogIs.endSteps {s : State} {st : Nat} (h : LogIs g₀ s) : LogIs g₀ (endSteps s st) :=
  h.foldl fun _ _ h => h.foldl fun _ _ h => h.finishPlain.ite h

protected theorem LogIs.settleGroup {s : State} {i : Nat} (h : LogIs g₀ s) : LogIs g₀ (settleGroup s i) := by
  unfold settleGroup
  split
  · exact h
  · exact h.resolveGroup.finishCommit.ite (h.resolveGroup.ite h)

protected theorem LogIs.stepIncrement {s : State} (h : LogIs g₀ s) : LogIs g₀ (stepIncrement s) :=
  h.ite (h.ite (.mk (h.flushHeld.endSteps.wr.wr.ite h.flushHeld.endSteps.wr)))


end

/-! ## What a message to the fabric leaves alone (R559, R566) -/

section
variable {s t : State}

theorem groups_of_still (h : still t = still s) : t.groups = s.groups := show (still t).groups = (still s).groups from congrArg State.groups h
theorem commitLog_of_still (h : still t = still s) : t.commitLog = s.commitLog :=
  show (still t).commitLog = (still s).commitLog from congrArg State.commitLog h
theorem transport_of_still (h : still t = still s) : t.transport = s.transport :=
  show (still t).transport = (still s).transport from congrArg State.transport h
theorem step_of_still (h : still t = still s) : t.step = s.step := show (still t).step = (still s).step from congrArg State.step h
theorem pending_of_still (h : still t = still s) : t.pending = s.pending :=
  show (still t).pending = (still s).pending from congrArg State.pending h

theorem findGroup_congr (h : t.groups = s.groups) (o : Option Nat) (i : Nat) : findGroup t o i = findGroup s o i := by
  unfold findGroup
  rw [h]

/-- A group that takes another record is found with it. -/
theorem findGroup_setGroup {o : Option Nat} {i : Nat} {g : Group} {f : Group → Group} (found : findGroup s o i = some g)
    (opener : (f g).opener = g.opener) (id : (f g).id = g.id) : findGroup (setGroup s o i f) o i = some (f g) := by
  unfold findGroup at found ⊢
  rw [setGroup]
  generalize s.groups = l at found
  induction l with
  | nil => exact absurd found (by simp)
  | cons h l ih =>
    rw [List.map_cons]
    by_cases named : h.opener = o ∧ h.id = i
    · rw [List.find?_cons_of_pos (by simp [named])] at found
      obtain rfl := Option.some.inj found
      rw [if_pos named, List.find?_cons_of_pos (by simp [opener, id, named])]
    · rw [List.find?_cons_of_neg (by simpa using fun a => (not_and.1 named) a)] at found
      rw [if_neg named, List.find?_cons_of_neg (by simpa using fun a => (not_and.1 named) a)]
      exact ih found

theorem findGroup_setGroup_at {o : Option Nat} {i j k : Nat} {g : Group} {f : Group → Group} (found : findGroup s o i = some g) (hj : j = i) (hk : k = i)
    (opener : (f g).opener = g.opener) (id : (f g).id = g.id) : findGroup (setGroup s o j f) o k = some (f g) := by
  rw [hj, hk]
  exact findGroup_setGroup found opener id

theorem findGroup_key {o : Option Nat} {i : Nat} {g : Group} (found : findGroup s o i = some g) : g.opener = o ∧ g.id = i := by
  simpa using List.find?_some found

end

/-! ## The end of a request (R595 to R597) -/

/-- s once it has taken its turn of a flow, and the leader has told its follower. -/
def turned (s : State) (n : Tab (Option Nat)) (l : List Out) : State := { s with transport := { s.transport with next := n }, sent := l }

/-- The answers kept once m has its answer a. -/
def keptWith (s : State) (m : Msg) (ty : Nat) (a : Msg) : List Kept :=
  (s.transport.kept.filter fun k => decide (now s - k.time ≤ holdTime s) && !(k.src == m.src && k.flow == m.flow && k.tseq == m.tseq)) ++
    [⟨m.src, m.flow, m.tseq, ty, a, now s⟩]

section
variable {s : State} {m : Msg} {ty : Nat} {ecc : Ecc}

/-- An answer is kept, and beside it only what a message changes. -/
theorem still_sendAnswer (s : State) (m : Msg) (ty : Nat) (p : List Byte) : ∃ a : Msg, a.dst = m.src ∧ a.payload = p ∧
    still (sendAnswer s m ty p) = still { s with transport := { s.transport with kept := keptWith s m ty a } } := by
  have sends (a : Msg) : still (forwardInput (sendMsg { s with transport := { s.transport with kept := keptWith s m ty a } } ty a) 3
      (leBytes 2 m.src ++ leBytes 2 m.flow ++ leBytes 2 m.tseq ++ p)) = still { s with transport := { s.transport with kept := keptWith s m ty a } } := by
    rw [forwardInput, apply_ite still, still_emit, ite_self, still_sendMsg]
  by_cases credit : ty = 0x12
  · refine ⟨{ answerMsg s m p with epoch := winEpoch s m.window }, rfl, rfl, ?_⟩
    rw [← sends]
    unfold sendAnswer
    dsimp only
    rw [if_pos credit]
    rfl
  · refine ⟨answerMsg s m p, rfl, rfl, ?_⟩
    rw [← sends]
    unfold sendAnswer
    dsimp only
    rw [if_neg credit]
    rfl

theorem rd_sendAnswer {k : Nat} (low : k < E.nd_count) (s : State) (m : Msg) (ty : Nat) (p : List Byte) : rd (sendAnswer s m ty p) k = rd s k := by
  unfold sendAnswer
  dsimp only
  obtain ⟨l, sent⟩ := forwardInput_eq (sendMsg _ ty _) 3 (leBytes 2 m.src ++ leBytes 2 m.flow ++ leBytes 2 m.tseq ++ p)
  rw [sent]
  exact rd_sendMsg _ low ..

theorem answers_sendAnswer (u : State) (m : Msg) (ty : Nat) (p : List Byte) (time : now u = now s) : Answers s (sendAnswer u m ty p) m ty p := by
  obtain ⟨a, dst, payload, sends⟩ := still_sendAnswer u m ty p
  refine ⟨a, ?_, dst, payload⟩
  rw [transport_of_still sends, ← time]
  exact List.getLast?_concat ..

theorem sendAnswer_groups (u : State) (m : Msg) (ty : Nat) (p : List Byte) : (sendAnswer u m ty p).groups = u.groups := by
  obtain ⟨a, -, -, sends⟩ := still_sendAnswer u m ty p
  exact (groups_of_still sends :)

theorem sendAnswer_mem (u : State) (m : Msg) (ty : Nat) (p : List Byte) : (sendAnswer u m ty p).mem = u.mem := by
  obtain ⟨a, -, -, sends⟩ := still_sendAnswer u m ty p
  exact (mem_of_still sends :)

theorem sendAnswer_commitLog (u : State) (m : Msg) (ty : Nat) (p : List Byte) : (sendAnswer u m ty p).commitLog = u.commitLog := by
  obtain ⟨a, -, -, sends⟩ := still_sendAnswer u m ty p
  exact (commitLog_of_still sends :)

theorem sendAnswer_early (u : State) (m : Msg) (ty : Nat) (p : List Byte) : (sendAnswer u m ty p).transport.early = u.transport.early := by
  obtain ⟨a, -, -, sends⟩ := still_sendAnswer u m ty p
  rw [transport_of_still sends]

theorem sendAnswer_pending (u : State) (m : Msg) (ty : Nat) (p : List Byte) : (sendAnswer u m ty p).pending = u.pending := by
  obtain ⟨a, -, -, sends⟩ := still_sendAnswer u m ty p
  exact (pending_of_still sends :)

theorem releaseEarly_none {u : State} (n k : Nat) (none_ : u.transport.early = []) : releaseEarly n u k = u := by
  cases n with
  | zero => rfl
  | succ n =>
    rw [releaseEarly, none_]
    split <;> rfl

/-- A request whose turn it is, is served at once, in the state in which it has taken its turn. -/
theorem acceptRequest_fresh (fresh : Fresh s m) (plain : ty ≠ 5) (quiet : ∀ n, s.transport.early = [] →
      (serveRequest (turned s n s.sent) ty m ecc).transport.early = []) : ∃ n, acceptRequest s ty m ecc = serveRequest (turned s n s.sent) ty m ecc := by
  obtain ⟨-, kept, order⟩ := fresh
  have ordered : (m.ordered && ty != 5) = m.ordered := by simp [plain]
  have turns : (m.ordered || ty == 5) = m.ordered := by simp [plain]
  unfold acceptRequest
  rw [kept]
  dsimp only
  unfold takeRequest
  rw [ordered, turns]
  rcases order with free | ⟨none_, first | turn⟩
  · rw [free]
    rcases Tab.get none s.transport.next (flowKey m) with _ | n
    all_goals exact ⟨s.transport.next, rfl⟩
  · rw [first]
    dsimp only
    by_cases asks : m.ordered = true
    · rw [if_pos asks]
      exact ⟨_, rfl⟩
    · rw [if_neg asks]
      exact ⟨s.transport.next, rfl⟩
  · rw [turn]
    by_cases asks : m.ordered = true
    · rw [asks]
      dsimp only
      rw [if_pos rfl]
      exact ⟨_, releaseEarly_none _ _ (quiet _ none_)⟩
    · rw [Bool.eq_false_iff.2 asks]
      exact ⟨s.transport.next, rfl⟩

/-- A stitch, step or reset message from the fabric is served. -/
theorem serveRequest_device (u : State) (device : 6 < ty) : ∃ l, serveRequest u ty m ecc =
    match (if ty = 0x20 then vote { u with sent := l } m else if ty = 0x22 then takeDecision { u with sent := l } m false
      else if ty = 0x23 then answerQuery { u with sent := l } m else if ty = 0x24 then takeArrive { u with sent := l } m
      else if ty = 0x25 then takeRelease { u with sent := l } m else takeNotice { u with sent := l } m : State × Option (Nat × List Byte)) with
    | (t, some (a, p)) => sendAnswer t m a p
    | (t, none) => t := by
  obtain ⟨l, sent⟩ := forwardInput_eq u 2 (leBytes 1 ty ++ msgHeader m ++ m.payload)
  refine ⟨l, ?_⟩
  rw [serveRequest, if_neg (by omega), if_neg (by omega), serveDevice, sent]
  generalize (if ty = 0x20 then vote { u with sent := l } m else if ty = 0x22 then takeDecision { u with sent := l } m false
      else if ty = 0x23 then answerQuery { u with sent := l } m else if ty = 0x24 then takeArrive { u with sent := l } m
      else if ty = 0x25 then takeRelease { u with sent := l } m else takeNotice { u with sent := l } m) = r
  obtain ⟨t, a⟩ := r
  cases a <;> rfl

end

/-! ## Decisions (R518, R519, R525) -/

section
variable {s : State}

theorem foldl_returnCredits (l : List Granule) (u : State) : ∃ x, l.foldl (fun t r => returnCredits t r.base r.credits) u = { u with sectors := x } := by
  induction l generalizing u with
  | nil => exact ⟨_, rfl⟩
  | cons r l ih =>
    obtain ⟨x, first⟩ : ∃ x, returnCredits u r.base r.credits = { u with sectors := x } := by
      unfold returnCredits
      split <;> exact ⟨_, rfl⟩
    obtain ⟨y, rest⟩ := ih { u with sectors := x }
    exact ⟨y, by rw [List.foldl_cons, first, rest]⟩

/-- The groups beside one do not change with its record. -/
theorem filter_setGroup (l : List Group) (o : Option Nat) (i : Nat) (f : Group → Group) (opener : ∀ g, (f g).opener = g.opener)
    (id : ∀ g, (f g).id = g.id) : (l.map fun g => if g.opener = o ∧ g.id = i then f g else g).filter (fun g => !(g.opener == o && g.id == i)) =
      l.filter fun g => !(g.opener == o && g.id == i) := by
  induction l with
  | nil => rfl
  | cons h l ih =>
    rw [List.map_cons]
    by_cases named : h.opener = o ∧ h.id = i
    · rw [if_pos named, List.filter_cons_of_neg (by simp [opener, id, named]), List.filter_cons_of_neg (by simp [named]), ih]
    · rw [if_neg named, List.filter_cons, List.filter_cons, ih]

/-- A target's record of a group goes, with its shadow and its credits; of the entries only those that count groups change. -/
theorem resolveGroup_remote {o i cause : Nat} {g : Group} (found : findGroup s (some o) i = some g) : ∃ d x,
    resolveGroup s (some o) i 0x0502 cause = { s with dict := d, sectors := x, groups := s.groups.filter fun g => !(g.opener == some o && g.id == i) } ∧
    ∀ k, k ≠ E.sg_records_used → k ≠ E.sg_staging_used_bytes → k ≠ E.sg_abort_count → rd { s with dict := d } k = rd s k := by
  obtain ⟨x, returned⟩ := foldl_returnCredits g.granules s
  rw [resolveGroup_eq found]
  unfold discard
  rw [found]
  dsimp only
  rw [returned, leftGroup, if_neg fun (h : (0x0502 : Nat) = 0x0504 ∧ _) => absurd h.1 (by decide), if_neg (by decide)]
  refine ⟨_, x, (congrArg (fun l => noteGroups (inc { noteGroups (setGroup { s with sectors := x } (some o) i fun g => { g with granules := [] }) with groups := l }
    E.sg_abort_count)) (filter_setGroup s.groups (some o) i (fun g => { g with granules := [] }) (fun _ => rfl) fun _ => rfl)).trans rfl, fun k used staged counted => ?_⟩
  refine (rd_wr_other _ staged _).trans ((rd_wr_other _ used _).trans ((rd_inc_other _ counted).trans ?_))
  exact (rd_wr_other _ staged _).trans (rd_wr_other _ used _)

theorem findGroup_filtered {u : State} {o i : Nat} (groups : u.groups = s.groups.filter fun g => !(g.opener == some o && g.id == i)) :
    findGroup u (some o) i = none := by
  rw [findGroup, groups, List.find?_eq_none]
  intro g member named
  have other := (List.mem_filter.1 member).2
  rw [named] at other
  exact absurd other (by decide)

theorem still_sendNotice (s : State) (ty node w e : Nat) (d : List Byte) :
    ∃ l n, still (sendNotice s ty node w e d) = still { s with transport := { s.transport with notices := l, nextNotice := n } } :=
  ⟨_, _, still_sendMsg ..⟩

/-- What the device's own progress through a step leaves alone. -/
structure Progressed (s t : State) : Prop where
  groups : t.groups = s.groups
  commitLog : t.commitLog = s.commitLog
  mem : t.mem = s.mem
  pending : t.pending = s.pending
  sectors : t.sectors = s.sectors
  early : t.transport.early = s.transport.early
  boundary : t.step.boundary = s.step.boundary
  arrived : t.step.arrived = s.step.arrived
  entries : ∀ k < E.nd_count, rd t k = rd s k

namespace Progressed
variable {t u : State}

theorem refl (s : State) : Progressed s s := ⟨rfl, rfl, rfl, rfl, rfl, rfl, rfl, rfl, fun _ _ => rfl⟩

theorem trans (h : Progressed s t) (h' : Progressed t u) : Progressed s u where
  groups := h'.groups.trans h.groups
  commitLog := h'.commitLog.trans h.commitLog
  mem := h'.mem.trans h.mem
  pending := h'.pending.trans h.pending
  sectors := h'.sectors.trans h.sectors
  early := h'.early.trans h.early
  boundary := h'.boundary.trans h.boundary
  arrived := h'.arrived.trans h.arrived
  entries k low := (h'.entries k low).trans (h.entries k low)

theorem sendNotice (s : State) (ty node w e : Nat) (d : List Byte) : Progressed s (sendNotice s ty node w e d) := by
  obtain ⟨l, n, sends⟩ := still_sendNotice s ty node w e d
  have step : (Machine.sendNotice s ty node w e d).step = s.step := (step_of_still sends :)
  exact ⟨(groups_of_still sends :), (commitLog_of_still sends :), (mem_of_still sends :), (pending_of_still sends :), (sectors_of_still sends :),
    by rw [(transport_of_still sends :)], congrArg StepSt.boundary step, congrArg StepSt.arrived step, fun k low => rd_sendNotice _ low ..⟩

theorem foldl {α : Type} {f : State → α → State} {l : List α} (step : ∀ u a, Progressed u (f u a)) (s : State) : Progressed s (l.foldl f s) :=
  List.foldlRecOn (motive := Progressed s) l f (refl s) fun u kept a _ => kept.trans (step u a)

theorem releaseChildren (s : State) (failed : Bool) : Progressed s (releaseChildren s failed) := foldl (fun _ _ => sendNotice ..) s

theorem becomeQuiet (s : State) : Progressed s (becomeQuiet s) := ⟨rfl, rfl, rfl, rfl, rfl, rfl, rfl, rfl, fun _ _ => rfl⟩

theorem stepProgress (s : State) : Progressed s (stepProgress s) := by
  have sent (l : List Out) : Progressed s { s with step := { s.step with sent := true }, sent := l } := ⟨rfl, rfl, rfl, rfl, rfl, rfl, rfl, rfl, fun _ _ => rfl⟩
  unfold Machine.stepProgress
  dsimp only
  split
  · exact refl s
  · split
    · exact refl s
    · split
      · exact sent _
      · split
        · exact (releaseChildren s false).trans (becomeQuiet _)
        · exact (sent s.sent).trans (sendNotice ..)

end Progressed

end

/-! ## The messages of a group (R518, R519, R525, R530) -/

/-- What a handler of a message gives: the state, and the answer that leaves, if any. -/
def answeredBy (m : Msg) : State × Option (Nat × List Byte) → State
  | (t, some (a, p)) => sendAnswer t m a p
  | (t, none) => t

section
variable {s : State} {m : Msg} {ty : Nat} {r : State → State × Option (Nat × List Byte)}

/-- A fresh stitch, step or reset message goes to its handler. -/
theorem acceptRequest_device (fresh : Fresh s m) (device : 6 < ty)
    (handler : ∀ u, (if ty = 0x20 then vote u m else if ty = 0x22 then takeDecision u m false else if ty = 0x23 then answerQuery u m
      else if ty = 0x24 then takeArrive u m else if ty = 0x25 then takeRelease u m else takeNotice u m) = r u)
    (early : ∀ n l, (r (turned s n l)).1.transport.early = s.transport.early) :
    ∃ n l, acceptRequest s ty m .clean = answeredBy m (r (turned s n l)) := by
  have serves (n : Tab (Option Nat)) : ∃ l, serveRequest (turned s n s.sent) ty m .clean = answeredBy m (r (turned s n l)) := by
    obtain ⟨l, served⟩ := serveRequest_device (m := m) (ecc := .clean) (turned s n s.sent) device
    refine ⟨l, served.trans ?_⟩
    rw [handler]
    rfl
  obtain ⟨n, accepts⟩ := acceptRequest_fresh (ecc := .clean) fresh (ty := ty) (by omega) fun n none_ => by
    obtain ⟨l, served⟩ := serves n
    have kept := early n l
    rw [served]
    generalize r (turned s n l) = q at kept ⊢
    obtain ⟨t, _ | ⟨a, p⟩⟩ := q
    · exact kept.trans none_
    · exact (sendAnswer_early ..).trans (kept.trans none_)
  obtain ⟨l, served⟩ := serves n
  exact ⟨n, l, accepts.trans served⟩

theorem exec_receive (takes : takesMessages s m = true) {n : Instr} (runs : exec n s = receive s ty m .clean) :
    exec n s = done s (acceptRequest s ty m .clean) := by
  rw [runs, receive, if_pos takes]

/-- A handler that answers, and changes groups alone. -/
theorem leads_answer {n : Instr} {u : State} {p : List Byte} {a : Nat} (runs : exec n s = done s (sendAnswer u m a p))
    (time : now u = now s) : Leads n s fun t => Answers s t m a p ∧ t.groups = u.groups ∧ t.commitLog = u.commitLog ∧ t.mem = u.mem :=
  leads_of_effect runs ⟨answers_sendAnswer u m a p time, sendAnswer_groups .., sendAnswer_commitLog .., sendAnswer_mem ..⟩ fun _ _ h => h

theorem vote_none (none_ : findGroup s (some m.src) (sgId m) = none) : vote s m = (s, some (0x21, groupPayload (sgId m) 1 (sgStep m))) := by
  rw [vote, none_]

theorem vote_some {g : Group} (found : findGroup s (some m.src) (sgId m) = some g) :
    (¬((g.state = 1 ∨ g.state = 3) ∧ g.status = 0) → vote s m = (s, some (0x21, groupPayload (sgId m) 1 (sgStep m)))) ∧
    (g.state = 1 ∨ g.state = 3 → g.status = 0 → vote s m =
      (setGroup s (some m.src) g.id fun g => { g with state := 3, step := sgStep m }, some (0x21, groupPayload (sgId m) 0 (sgStep m)))) := by
  unfold vote
  rw [found]
  refine ⟨fun broken => ?_, fun open_ whole => ?_⟩
  · have no : (decide (g.state = 1 ∨ g.state = 3) && g.status == 0) = false := by simpa using broken
    dsimp only
    rw [no]
    rfl
  · dsimp only
    rw [decide_eq_true open_, whole]
    rfl

theorem vote_early : (vote s m).1.transport.early = s.transport.early := by
  unfold vote
  split
  · exact (apply_ite (fun u : State => u.transport.early) _ _ _).trans (ite_self _)
  · rfl

/-- The machine once a decision on group i of node o is logged. -/
def decided (s : State) (o i step : Nat) (commit : Bool) : State := { s with commitLog := s.commitLog ++ [⟨some o, i, step, commit, now s⟩] }

theorem takeDecision_none (none_ : findGroup s (some m.src) (sgId m) = none) : takeDecision s m false = (s, some (0x10, statusBytes 0)) := by
  rw [takeDecision, none_]

theorem takeDecision_commit {g : Group} (found : findGroup s (some m.src) (sgId m) = some g) (commit : sgVerdict m = 0) (waits : g.state ≠ 4) :
    takeDecision s m false = (setGroup (decided s m.src g.id (sgStep m) true) (some m.src) g.id fun g =>
      { g with state := 4, waiter := some (m.flow, m.tseq) }, none) := by
  unfold takeDecision
  rw [found]
  dsimp only
  rw [commit, if_neg (by decide), if_pos rfl, if_neg waits]
  rfl

theorem takeDecision_abort {g : Group} (found : findGroup s (some m.src) (sgId m) = some g) (abort : sgVerdict m = 1) (inside : s.step.boundary = false) :
    takeDecision s m false = (resolveGroup (decided s m.src g.id (sgStep m) false) (some m.src) g.id 0x0502 0, some (0x10, statusBytes 0)) := by
  have found' : findGroup (decided s m.src g.id (sgStep m) false) (some m.src) g.id = some g := by
    rw [(findGroup_key found).2]
    exact found
  obtain ⟨d, x, gone, -⟩ := resolveGroup_remote (cause := 0) found'
  unfold takeDecision
  rw [found]
  dsimp only
  rw [abort, if_neg (by decide), if_neg (by decide)]
  refine Prod.ext ?_ rfl
  show stepIncrement (resolveGroup (decided s m.src g.id (sgStep m) false) (some m.src) g.id 0x0502 0) = _
  rw [stepIncrement, gone, if_pos (by
    show (!s.step.boundary) = true
    rw [inside]
    rfl)]

theorem takeDecision_early (inside : s.step.boundary = false) : (takeDecision s m false).1.transport.early = s.transport.early := by
  rcases found : findGroup s (some m.src) (sgId m) with _ | g
  · rw [takeDecision_none found]
  · unfold takeDecision
    rw [found]
    dsimp only
    split
    · rfl
    · split
      · split <;> rfl
      · have found' : findGroup (decided s m.src g.id (sgStep m) (sgVerdict m == 0)) (some m.src) g.id = some g := by
          rw [(findGroup_key found).2]
          exact found
        obtain ⟨d, x, gone, -⟩ := resolveGroup_remote (cause := 0) found'
        show (stepIncrement (resolveGroup (decided s m.src g.id (sgStep m) (sgVerdict m == 0)) (some m.src) g.id 0x0502 0)).transport.early = _
        rw [stepIncrement, gone, if_pos (by
          show (!s.step.boundary) = true
          rw [inside]
          rfl)]
        rfl

theorem matchNotice_none {ok : Nat → Bool} (none_ : ∀ q ∈ s.transport.notices, ok q.mtype = false) : matchNotice s m ok = none := by
  unfold matchNotice
  split
  · refine List.find?_eq_none.2 fun q member => ?_
    rw [none_ q member, Bool.and_false]
    decide
  · rfl

theorem answerQuery_logged {d : Decision} (logged : (s.commitLog.find? fun d => d.opener.isNone && d.id == sgId m && d.step == sgStep m) = some d) :
    answerQuery s m = (s, some (0x22, groupPayload (sgId m) (if d.commit then 0 else 1) (sgStep m))) := by
  rw [answerQuery, logged]

end

/-! ## Votes come in (R518) -/

section
variable {s : State} {i node verdict : Nat} {g : Group}

/-- A vote that is awaited, of a group that has not failed. -/
structure Awaits (s : State) (i node : Nat) (g : Group) : Prop where
  found : findGroup s none i = some g
  state : g.state = 2
  whole : g.status = 0
  awaited : node ∈ g.awaited

/-- The opener's record once it has the vote. -/
def voted (g : Group) (node verdict : Nat) : Group :=
  { g with awaited := g.awaited.filter (· != node), status := if verdict = 0 then 0 else 0x0502 }

theorem takeVote_eq (awaits : Awaits s i node g) : ∃ f : Group → Group, f g = voted g node verdict ∧
    takeVote s i node verdict = if (g.awaited.filter (· != node)).isEmpty then decideGroup (setGroup s none i f) i (verdict == 0) else setGroup s none i f := by
  obtain ⟨found, state, whole, awaited⟩ := awaits
  refine ⟨fun h => { h with awaited := g.awaited.filter (· != node), status := if verdict = 0 then 0 else 0x0502 }, rfl, ?_⟩
  have status : (if verdict = 0 ∨ g.status ≠ 0 then g.status else 0x0502) = if verdict = 0 then 0 else 0x0502 := by simp [whole]
  have commit : ((if verdict = 0 then 0 else 0x0502) == 0) = (verdict == 0) := by split <;> simp [*]
  unfold takeVote
  rw [found]
  dsimp only
  rw [if_neg (by simp [state, awaited]), status, commit]

theorem decideGroup_commitLog {commit : Bool} (found : findGroup s none i = some g) :
    (decideGroup s i commit).commitLog = s.commitLog ++ [⟨none, i, g.step, commit, now s⟩] := by
  have logged : LogIs (s.commitLog ++ [⟨none, i, g.step, commit, now s⟩]) { s with commitLog := s.commitLog ++ [⟨none, i, g.step, commit, now s⟩] } :=
    (logIs_def _).2 rfl
  have sent := logged.foldl (f := fun t n => sendNotice t 0x22 n 0 0 (groupPayload i (if commit then 0 else 1) g.step)) (l := g.acked) fun _ _ h => h.sendNotice
  refine (logIs_def _).1 ?_
  unfold decideGroup
  rw [found]
  exact (LogIs.setGroup (sent.ite sent.discard)).settleGroup.stepIncrement

end

/-- Settles O41: a fresh message goes to its handler at once, and the handlers log before they act; of the device's own progress
through its step, on which an answer may set it, neither groups nor the log take notice. -/
theorem stitchMessagesDecide : Obligations.StitchMessagesDecide := by
  unfold Obligations.StitchMessagesDecide
  intro s m i verdict step reply status mine
  refine ⟨fun fresh => ?_, fun q g takes own pending_ seq dst kind found sealed whole awaited inside => ?_⟩
  · have takes : takesMessages s m = true := fresh.1
    have prepares : ∃ n l, exec (.sgPrepare m) s = done s (answeredBy m (vote (turned s n l) m)) := by
      obtain ⟨n, l, accepts⟩ := acceptRequest_device (r := (vote · m)) fresh (show 6 < 0x20 by decide) (fun _ => rfl) fun n l => vote_early
      exact ⟨n, l, by rw [exec_receive takes (ty := 0x20) rfl, accepts]⟩
    obtain ⟨n, l, prepares⟩ := prepares
    refine ⟨fun none_ => ?_, fun g found broken => ?_, fun g found open_ intact => ?_, fun d logged => ?_, fun quiet inside => ?_⟩
    · rw [vote_none (s := turned s n l) none_] at prepares
      obtain ⟨t, runs, answers, groups, -⟩ := leads_answer prepares rfl
      exact ⟨t, runs, answers, groups⟩
    · rw [(vote_some (s := turned s n l) found).1 broken] at prepares
      obtain ⟨t, runs, answers, groups, -⟩ := leads_answer prepares rfl
      exact ⟨t, runs, answers, groups⟩
    · rw [(vote_some (s := turned s n l) found).2 open_ intact] at prepares
      obtain ⟨t, runs, answers, groups, -⟩ := leads_answer prepares rfl
      refine ⟨t, runs, answers, (findGroup_congr groups _ _).trans ?_⟩
      exact findGroup_setGroup_at (s := turned s n l) (f := fun g => { g with state := 3, step := step }) found (findGroup_key found).2 rfl rfl rfl
    · obtain ⟨n, l, accepts⟩ := acceptRequest_device (r := (answerQuery · m)) fresh (show 6 < 0x23 by decide) (fun _ => rfl) fun n l => rfl
      have runs := exec_receive takes (ty := 0x23) (n := .sgQuery m) rfl
      rw [accepts, answerQuery_logged (s := turned s n l) logged] at runs
      obtain ⟨t, runs, answers, -, log, -⟩ := leads_answer runs rfl
      exact ⟨t, runs, answers, log⟩
    · have decides : ∃ n l, exec (.sgDecision m) s = done s (answeredBy m (takeDecision (turned s n l) m false)) := by
        obtain ⟨n, l, accepts⟩ := acceptRequest_device (r := (takeDecision · m false)) fresh (show 6 < 0x22 by decide) (fun _ => rfl)
          fun n l => takeDecision_early inside
        refine ⟨n, l, ?_⟩
        rw [← accepts, show exec (.sgDecision m) s = receiveAnswer s m takeDecisionMsg from rfl, receiveAnswer, if_pos takes, takeDecisionMsg,
          matchNotice_none fun q member => by simpa using quiet q member]
      obtain ⟨n, l, decides⟩ := decides
      refine ⟨fun none_ => ?_, fun g found commit waits => ?_, fun g found abort => ?_⟩
      · rw [takeDecision_none (s := turned s n l) none_] at decides
        obtain ⟨t, runs, answers, groups, -⟩ := leads_answer decides rfl
        exact ⟨t, runs, answers, groups⟩
      · have id := (findGroup_key found).2
        rw [takeDecision_commit (s := turned s n l) found commit waits, id] at decides
        refine leads_of_effect decides ⟨rfl, rfl, ?_⟩ fun _ _ h => h
        exact findGroup_setGroup (s := decided (turned s n l) m.src (sgId m) (sgStep m) true) found rfl rfl
      · have id : g.id = sgId m := (findGroup_key found).2
        rw [takeDecision_abort (s := turned s n l) found abort inside, id] at decides
        obtain ⟨d, x, gone, entries⟩ := resolveGroup_remote (s := decided (turned s n l) m.src (sgId m) (sgStep m) false) (i := sgId m) (cause := 0) found
        rw [gone] at decides
        obtain ⟨t, runs, answers, groups, log, mem⟩ := leads_answer decides (entries _ (by decide) (by decide) (by decide))
        exact ⟨t, runs, mem, answers, log, findGroup_filtered groups⟩
  · intro decides
    obtain ⟨l, sent⟩ := forwardInput_eq s 2 (leBytes 1 0x21 ++ msgHeader m ++ m.payload)
    have matched : matchNotice s m (· == 0x20) = some q := by
      rw [matchNotice, if_pos own, pending_, List.find?_cons_of_pos]
      simp [seq, dst, kind]
    have runs : exec (.sgVote m) s = done s (takeVote (stepProgress { s with sent := l, transport := { s.transport with
        notices := s.transport.notices.filter (·.tseq != q.tseq) } }) (sgId q.msg) m.src (sgVerdict m)) := by
      rw [show exec (.sgVote m) s = receiveAnswer s m takeVoteMsg from rfl, receiveAnswer, if_pos takes, takeVoteMsg, matched]
      dsimp only
      rw [forwardAnswer, sent, noticeDone]
      dsimp only
      rw [if_neg (by rw [kind]; decide)]
    have kept := Progressed.stepProgress { s with sent := l, transport := { s.transport with notices := s.transport.notices.filter (·.tseq != q.tseq) } }
    generalize stepProgress _ = u at runs kept
    have awaits : Awaits u (sgId q.msg) m.src g := ⟨(findGroup_congr kept.groups _ _).trans found, sealed, whole, awaited⟩
    have id := (findGroup_key awaits.found).2
    obtain ⟨f, is, votes⟩ := takeVote_eq (verdict := sgVerdict m) awaits
    have found' := findGroup_setGroup (f := f) awaits.found (by rw [is]; rfl) (by rw [is]; rfl)
    rw [is] at found'
    rw [votes] at runs
    refine ⟨fun all => ?_, fun more => ?_⟩
    · rw [if_pos (List.isEmpty_iff.2 all)] at runs
      refine leads_of_effect runs ?_ fun _ _ h => h
      rw [decideGroup_commitLog found']
      show u.commitLog ++ [⟨none, _, _, _, now u⟩] = _
      rw [kept.commitLog, ← id, show now u = now s from kept.entries _ (by decide)]
      rfl
    · rw [if_neg fun none_ => more (List.isEmpty_iff.1 none_)] at runs
      refine leads_of_effect runs ⟨kept.commitLog, kept.mem, ?_⟩ fun _ _ h => h
      exact (findGroup_setGroup_at (f := f) awaits.found rfl id (by rw [is]; rfl) (by rw [is]; rfl)).trans (congrArg some is)

end Sys2Proof.Machine
end

section
/-! SUPPORT. What leaves the sectors alone, and completions of plain commands (R390, R677). -/

namespace Sys2Proof.Machine

open Sys2Proof

/-! ## What leaves the sectors alone -/

/-- The sectors are x₀. -/
@[irreducible] def SectorsIs (x₀ : Tab Sector) (s : State) : Prop := s.sectors = x₀

section
variable {x₀ : Tab Sector}
theorem sectorsIs_def (s : State) : SectorsIs x₀ s ↔ s.sectors = x₀ := by unfold SectorsIs; exact Iff.rfl

theorem sectorsIs_self (s : State) : SectorsIs s.sectors s := (sectorsIs_def s).2 rfl

protected theorem SectorsIs.mk {s : State} {dict mem poison flips pins supply save host power cores xlat groups resolved commitLog keysets laces handles arrivals windows transport step ports routes paths twin island replays det pke hbm recovery sessions sent freeCtr pending} (h : SectorsIs x₀ s) :
    SectorsIs x₀ (.mk dict mem poison flips pins supply save host power s.sectors cores xlat groups resolved commitLog keysets laces handles arrivals windows transport step ports routes paths twin island replays det pke hbm recovery sessions sent freeCtr pending) :=
  (sectorsIs_def _).2 ((sectorsIs_def s).1 h)
protected theorem SectorsIs.ite {p : Prop} [Decidable p] {s t : State} (hs : SectorsIs x₀ s) (ht : SectorsIs x₀ t) :
    SectorsIs x₀ (if p then s else t) := by split <;> assumption
protected theorem SectorsIs.ite_fst {α : Type} {p : Prop} [Decidable p] {s t : State × α} (hs : SectorsIs x₀ s.1) (ht : SectorsIs x₀ t.1) :
    SectorsIs x₀ (if p then s else t).1 := by split <;> assumption
protected theorem SectorsIs.foldl {α : Type} {f : State → α → State} {l : List α} {s : State} (h : SectorsIs x₀ s)
    (step : ∀ s a, SectorsIs x₀ s → SectorsIs x₀ (f s a)) : SectorsIs x₀ (l.foldl f s) := by
  induction l generalizing s with
  | nil => exact h
  | cons a l ih => exact ih (step s a h)
protected theorem SectorsIs.foldl_fst {α β : Type} {f : State × β → α → State × β} {l : List α} {s : State × β} (h : SectorsIs x₀ s.1)
    (step : ∀ s a, SectorsIs x₀ s.1 → SectorsIs x₀ (f s a).1) : SectorsIs x₀ (l.foldl f s).1 := by
  induction l generalizing s with
  | nil => exact h
  | cons a l ih => exact ih (step s a h)

protected theorem SectorsIs.wr {s : State} {k v : Nat} (h : SectorsIs x₀ s) : SectorsIs x₀ (wr s k v) := h.mk

protected theorem SectorsIs.incBy {s : State} {k n : Nat} (h : SectorsIs x₀ s) : SectorsIs x₀ (incBy s k n) := h.wr

protected theorem SectorsIs.inc {s : State} {k : Nat} (h : SectorsIs x₀ s) : SectorsIs x₀ (inc s k) := h.incBy

protected theorem SectorsIs.wrBytes {s : State} {k : Nat} {d : List Byte} (h : SectorsIs x₀ s) : SectorsIs x₀ (wrBytes s k d) :=
  h.mk

protected theorem SectorsIs.wrNat {s : State} {k n v : Nat} (h : SectorsIs x₀ s) : SectorsIs x₀ (wrNat s k n v) := h.wrBytes

protected theorem SectorsIs.mark {s : State} {k : Nat} (h : SectorsIs x₀ s) : SectorsIs x₀ (mark s k) := h.mk

protected theorem SectorsIs.emit {s : State} {o : Out} (h : SectorsIs x₀ s) : SectorsIs x₀ (emit s o) := h.mk

protected theorem SectorsIs.msixSend {s : State} {v : Nat} (h : SectorsIs x₀ s) : SectorsIs x₀ (msixSend s v) :=
  h.mk.emit.ite h.mk

protected theorem SectorsIs.signalVector {s : State} {v : Nat} (h : SectorsIs x₀ s) : SectorsIs x₀ (signalVector s v) :=
  h.ite (h.mk.ite h.msixSend)

protected theorem SectorsIs.countAt {s : State} {cfg val ev inst n : Nat} (h : SectorsIs x₀ s) :
    SectorsIs x₀ (countAt s cfg val ev inst n) := h.incBy.ite h

protected theorem SectorsIs.countDev {s : State} {ev inst n : Nat} (h : SectorsIs x₀ s) : SectorsIs x₀ (countDev s ev inst n) :=
  h.foldl fun _ _ h => h.countAt

protected theorem SectorsIs.noteNd {s : State} {cause : Nat} {p : Option Nat} (h : SectorsIs x₀ s) :
    SectorsIs x₀ (noteNd s cause p) := by
  unfold noteNd
  dsimp only
  split
  · exact h.inc.countDev.inc
  · exact h.inc.countDev

protected theorem SectorsIs.onchipUe {s : State} {x a block : Nat} (h : SectorsIs x₀ s) : SectorsIs x₀ (onchipUe s x a block) :=
  h.inc.wr.wr.wr

protected theorem SectorsIs.paceBreak {s : State} {x : Nat} (h : SectorsIs x₀ s) : SectorsIs x₀ (paceBreak s x) :=
  h.ite (by
    dsimp only
    split
    · exact h.inc.noteNd.ite h.inc
    · exact h.inc)

protected theorem SectorsIs.clearLost {s : State} {lo hi : Nat} (h : SectorsIs x₀ s) : SectorsIs x₀ (clearLost s lo hi) :=
  h.mk.ite h

protected theorem SectorsIs.hbmStore {s : State} {a : Nat} {d : List Byte} (h : SectorsIs x₀ s) :
    SectorsIs x₀ (hbmStore s a d) := h.wrBytes.clearLost.ite h.wrBytes

protected theorem SectorsIs.loseWord {s : State} {k : Nat} (h : SectorsIs x₀ s) : SectorsIs x₀ (loseWord s k) :=
  h.mark.mk.onchipUe.ite (h.mark.onchipUe.ite h.mark.onchipUe)

protected theorem SectorsIs.meetWord {s : State} {k n : Nat} (h : SectorsIs x₀ s) : SectorsIs x₀ (meetWord s k n) :=
  .ite (h.mk.ite h.mk.loseWord) (.ite (h.mk.inc.ite h.mk.loseWord) (.ite (h.mk.inc.ite h.mk.loseWord) (h.mk.inc.ite
    (h.mk.inc.paceBreak.ite h.mk.loseWord))))

protected theorem SectorsIs.meetEdges {s : State} {k n : Nat} (h : SectorsIs x₀ s) : SectorsIs x₀ (meetEdges s k n) :=
  h.foldl fun _ _ h => h.meetWord

protected theorem SectorsIs.setGroup {s : State} {o : Option Nat} {i : Nat} {f : Group → Group} (h : SectorsIs x₀ s) :
    SectorsIs x₀ (setGroup s o i f) := h.mk

protected theorem SectorsIs.storeAt {s : State} {k : Nat} {d : List Byte} (h : SectorsIs x₀ s) : SectorsIs x₀ (storeAt s k d) :=
  h.hbmStore.ite h.meetEdges.wrBytes

protected theorem SectorsIs.noteLanded {s : State} {k n : Nat} (h : SectorsIs x₀ s) : SectorsIs x₀ (noteLanded s k n) := by
  unfold noteLanded
  split
  · exact h
  · exact h.mk

protected theorem SectorsIs.setHandle {s : State} {h : Nat} {v : Handle} (hs : SectorsIs x₀ s) :
    SectorsIs x₀ (setHandle s h v) := hs.mk

protected theorem SectorsIs.setPort {s : State} {p : Nat} {v : Port} (h : SectorsIs x₀ s) : SectorsIs x₀ (setPort s p v) := h.mk

protected theorem SectorsIs.sendFlits {s : State} {p vc n : Nat} (h : SectorsIs x₀ s) : SectorsIs x₀ (sendFlits s p vc n) :=
  h.setPort.countDev

protected theorem SectorsIs.sendMsg {s : State} {mtype : Nat} {m : Msg} (h : SectorsIs x₀ s) :
    SectorsIs x₀ (sendMsg s mtype m) :=
  .ite (.emit (by
    split
    · exact .sendFlits (h.noteNd.ite h)
    · exact h.noteNd.ite h)) h

protected theorem SectorsIs.sendNow {s : State} {h : Nat} {r : Request} (hs : SectorsIs x₀ s) : SectorsIs x₀ (sendNow s h r) :=
  .sendMsg (hs.setHandle.mk.ite hs.setHandle)

protected theorem SectorsIs.request {s : State} {h : Nat} {r : Request} (hs : SectorsIs x₀ s) : SectorsIs x₀ (request s h r) :=
  .ite (.sendNow (by
    split
    · exact hs.setGroup
    · exact hs)) (.setHandle (by
    split
    · exact hs.setGroup
    · exact hs))

protected theorem SectorsIs.sendNotice {s : State} {mtype node window epoch : Nat} {payload : List Byte} (h : SectorsIs x₀ s) :
    SectorsIs x₀ (sendNotice s mtype node window epoch payload) := h.mk.sendMsg

protected theorem SectorsIs.postEntry {s : State} {x cb off n : Nat} {r : List Byte} (h : SectorsIs x₀ s) :
    SectorsIs x₀ (postEntry s x cb off n r) := h.wrBytes.wrNat.wrNat

protected theorem SectorsIs.mirrorEntry {s : State} {x k e : Nat} {r : List Byte} (h : SectorsIs x₀ s) :
    SectorsIs x₀ (mirrorEntry s x k e r) := h.ite (h.inc.ite h.emit)

protected theorem SectorsIs.unitStore {s : State} {x p k : Nat} {d : List Byte} (h : SectorsIs x₀ s) : SectorsIs x₀ (unitStore s x p none k d).1 := by
  unfold Machine.unitStore
  dsimp only
  split
  · split
    · exact h
    · dsimp only
      exact h.request
  · split
    · exact h
    · exact SectorsIs.storeAt (h.noteLanded.ite h)

protected theorem SectorsIs.vaWrite {s : State} {x p va : Nat} {d : List Byte} (h : SectorsIs x₀ s) : SectorsIs x₀ (vaWrite s x p none va d).1 := by
  unfold Machine.vaWrite
  dsimp only
  split
  · exact h
  · exact h.foldl_fst fun _ _ h => h.unitStore

end

/-! ## Completions (R390, R677) -/

section
variable {s u : State} {x k code : Nat} {v : Taken}

theorem commons_high (x o : Nat) : 2 ^ 38 ≤ ringKey x o := by
  unfold ringKey Mem.commons Mem.onchip
  omega

theorem rdNat_wrNat_apart {a k n m : Nat} (apart : a + m ≤ k ∨ k + n ≤ a) (s : State) (w : Nat) : rdNat (wrNat s k n w) a m = rdNat s a m := by
  unfold rdNat wrNat
  rw [rdBytes_wrBytes_other _ _ _ _ _ (by rwa [leBytes_length])]

theorem rdBytes_take (s : State) (a m n : Nat) (le : m ≤ n) : rdBytes s a m = (rdBytes s a n).take m := by
  obtain ⟨d, rfl⟩ := Nat.exists_eq_add_of_le le
  rw [rdBytes_append, List.take_left' (rdBytes_length ..)]

/-- The first word of a posted entry, in an area that does not cover its control block. -/
theorem rdNat_postEntry {cb off n : Nat} {r : List Byte} (size : r.length = 32) (apart : cb + 8 ≤ off) (s : State) (x : Nat) :
    rdNat (postEntry s x cb off n r) (ringKey x (off + 64 * (rdNat s (ringKey x (cb + 4)) 4 % n))) 8 = leNat (r.take 8) := by
  unfold postEntry
  dsimp only
  have place (o : Nat) : ringKey x (off + o) = ringKey x (cb + 4) + (off - (cb + 4) + o) := by
    unfold ringKey Mem.commons Mem.onchip
    omega
  rw [rdNat_wrNat_apart (.inr (by rw [place]; omega)), rdNat_wrNat_apart (.inl (by omega)), rdNat, rdBytes_take _ _ 8 32 (by decide), ← size, rdBytes_wrBytes]

theorem completionRecord_length (s : State) (t : Taken) (c f l b : Nat) : (completionRecord s t c f l b).length = 32 := by
  simp [completionRecord]

theorem leNat_completionRecord (s : State) (t : Taken) (limbs beats : Nat) (fits : code < 2 ^ 16) :
    leNat ((completionRecord s t code 0 limbs beats).take 8) = code * 2 ^ 48 + t.cmdId * 2 ^ 32 := by
  have id : t.cmdId < 2 ^ 16 := bits_lt (t.word 6) 63 48
  rw [completionRecord, List.append_assoc, List.append_assoc, List.take_left' (leBytes_length ..), leNat_leBytes, Nat.add_zero]
  refine Nat.mod_eq_of_lt (Nat.lt_of_lt_of_eq (m := 2 ^ 64) ?_ (by decide))
  omega

/-- A completion entry is posted, or held, and the ring's queue is as it was. -/
theorem queue_postCompletion (s : State) (x k : Nat) (r : List Byte) : (ringOf (postCompletion s x k r) x k).queue = (ringOf s x k).queue := by
  unfold postCompletion
  dsimp only
  split
  · rw [ringOf_setRing]
  · exact congrArg Ring.queue (ringOf_congr (sectors_of_still ((still_signalVector _ _).trans (mirrorEntry_still ..)) :) x k)

/-- The first word of a posted completion. -/
theorem rdNat_postCompletion (unheld : (ringOf s x k).held = []) (room : HasRoom s x k) (hk : k < 8)
    (above : 0x1000 ≤ rd s (E.ring_comp_offset + ringAt x k)) {r : List Byte} (size : r.length = 32) :
    rdNat (postCompletion s x k r) (ringKey x (rd s (E.ring_comp_offset + ringAt x k) +
      64 * (rdNat s (ringKey x (ringBlock k + 4)) 4 % rd s (E.ring_comp_slots + ringAt x k)))) 8 = leNat (r.take 8) := by
  obtain ⟨e, w, posts⟩ : ∃ e w, postCompletion s x k r = signalVector (mirrorEntry (postEntry s x (ringBlock k)
      (rd s (E.ring_comp_offset + ringAt x k)) (rd s (E.ring_comp_slots + ringAt x k)) r) x k e r) w :=
    ⟨_, _, if_neg (by simpa [unheld, HasRoom] using room)⟩
  rw [posts, rdNat_congr (mem_of_still ((still_signalVector _ _).trans (mirrorEntry_still ..)) :)]
  exact rdNat_postEntry size (by unfold ringBlock; omega) s x

/-- Memory below the on-chip stores does not see a posted entry. -/
theorem rdByte_postEntry {a : Nat} (low : a < 2 ^ 38) (s : State) (x cb off n : Nat) (r : List Byte) : rdByte (postEntry s x cb off n r) a = rdByte s a := by
  have far (o : Nat) : a < ringKey x o := Nat.lt_of_lt_of_le low (commons_high x o)
  unfold postEntry
  dsimp only
  rw [rdByte_wrNat_other (.inl (far _)), rdByte_wrNat_other (.inl (Nat.lt_of_lt_of_le (far _) (Nat.le_add_right ..))), rdByte_wrBytes,
    if_neg fun h => absurd h.1 (Nat.not_le.2 (far _))]

theorem rdByte_postCompletion {a : Nat} (low : a < 2 ^ 38) (s : State) (x k : Nat) (r : List Byte) : rdByte (postCompletion s x k r) a = rdByte s a := by
  unfold postCompletion
  dsimp only
  split
  · rfl
  · exact (rdByte_congr (mem_of_still ((still_signalVector _ _).trans (mirrorEntry_still ..)) :) a).trans (rdByte_postEntry low ..)

/-- The machine once command v has left its queue, with its record written where it asks. -/
def leftQueue (s : State) (x k : Nat) (v : Taken) (r extra : List Byte) : State :=
  match ownerOf (setRing s x k { ringOf s x k with queue := (ringOf s x k).queue.erase v }) x with
  | none => setRing s x k { ringOf s x k with queue := (ringOf s x k).queue.erase v }
  | some p => if v.completion = 0 then setRing s x k { ringOf s x k with queue := (ringOf s x k).queue.erase v }
    else (vaWrite (setRing s x k { ringOf s x k with queue := (ringOf s x k).queue.erase v }) x p none v.completion (r ++ extra)).1

theorem leftQueue_zero (zero : v.completion = 0) (r extra : List Byte) :
    leftQueue s x k v r extra = setRing s x k { ringOf s x k with queue := (ringOf s x k).queue.erase v } := by
  unfold leftQueue
  split
  · rfl
  · exact if_pos zero

theorem ringOf_leftQueue (s : State) (x k : Nat) (v : Taken) (r extra : List Byte) :
    ringOf (leftQueue s x k v r extra) x k = { ringOf s x k with queue := (ringOf s x k).queue.erase v } := by
  refine (ringOf_congr (s := setRing s x k { ringOf s x k with queue := (ringOf s x k).queue.erase v }) ?_ x k).trans (ringOf_setRing ..)
  have start := sectorsIs_self (setRing s x k { ringOf s x k with queue := (ringOf s x k).queue.erase v })
  refine (sectorsIs_def _).1 ?_
  unfold leftQueue
  split
  · exact start
  · exact start.ite start.vaWrite

theorem finishWith_eq (s : State) (x k : Nat) (v : Taken) (r extra : List Byte) : ∃ w, finishWith s x k v r extra =
    postCompletion { leftQueue s x k v r extra with twin := { (leftQueue s x k v r extra).twin with completions := w } } x k r := by
  by_cases bound : twinBound (leftQueue s x k v r extra) = true
  · exact ⟨_, congrArg (postCompletion · x k r) (if_pos bound)⟩
  · exact ⟨(leftQueue s x k v r extra).twin.completions, congrArg (postCompletion · x k r) (if_neg bound)⟩

theorem queue_finishWith (s : State) (x k : Nat) (v : Taken) (r extra : List Byte) :
    (ringOf (finishWith s x k v r extra) x k).queue = (ringOf s x k).queue.erase v := by
  obtain ⟨w, ends⟩ := finishWith_eq s x k v r extra
  rw [ends, queue_postCompletion]
  exact congrArg Ring.queue (ringOf_leftQueue s x k v r extra)

theorem rdByte_finishWith {a : Nat} (low : a < 2 ^ 38) (zero : v.completion = 0) (s : State) (x k : Nat) (r extra : List Byte) :
    rdByte (finishWith s x k v r extra) a = rdByte s a := by
  obtain ⟨w, ends⟩ := finishWith_eq s x k v r extra
  rw [ends, rdByte_postCompletion low, leftQueue_zero zero]
  rfl

/-- A command that leaves its ring is completed, as seen from a state with the same ring. -/
theorem completed_finishPlain (hk : k < 8) (fits : code < 2 ^ 16) (ring : ringOf u x k = ringOf s x k)
    (offset : rd u (E.ring_comp_offset + ringAt x k) = rd s (E.ring_comp_offset + ringAt x k))
    (slots : rd u (E.ring_comp_slots + ringAt x k) = rd s (E.ring_comp_slots + ringAt x k))
    (block : ∀ i < 8, rdByte u (ringKey x (ringBlock k + 4) + i) = rdByte s (ringKey x (ringBlock k + 4) + i)) :
    Completed s (finishPlain u x k v code) x k v code := by
  have word (o : Nat) (inside : o = 0 ∨ o = 4) : rdNat u (ringKey x (ringBlock k + 4) + o) 4 = rdNat s (ringKey x (ringBlock k + 4) + o) 4 := by
    rw [rdNat, rdNat, rdBytes_eq_map, rdBytes_eq_map]
    refine congrArg leNat (List.map_congr_left fun i member => ?_)
    have := List.mem_range.1 member
    rw [Nat.add_assoc]
    exact block _ (by omega)
  have next : ringKey x (ringBlock k + 8) = ringKey x (ringBlock k + 4) + 4 := by
    unfold ringKey Mem.commons Mem.onchip
    omega
  have seen : unread u x (ringBlock k) = unread s x (ringBlock k) := by
    unfold unread
    rw [next, word 4 (.inr rfl), show rdNat u (ringKey x (ringBlock k + 4)) 4 = _ from word 0 (.inl rfl)]
    rfl
  unfold Completed
  refine ⟨?_, fun zero unheld room above => ?_⟩
  · rw [finishPlain, queue_finishWith, ← ring]
    rfl
  · unfold finishPlain
    obtain ⟨w, ends⟩ := finishWith_eq { u with freeCtr := u.freeCtr + 1 } x k v
      (completionRecord u v code 0 0 (plainBeats u)) []
    rw [ends, leftQueue_zero zero]
    have posted := rdNat_postCompletion (s := { setRing { u with freeCtr := u.freeCtr + 1 } x k { ringOf u x k with queue := (ringOf u x k).queue.erase v }
      with twin := { u.twin with completions := w } }) (x := x) (k := k) ?_ ?_ hk ?_ (completionRecord_length u v code 0 0 (plainBeats u))
    · rw [leNat_completionRecord _ _ _ _ fits] at posted
      refine Eq.trans ?_ posted
      show rdNat _ (ringKey x (rd s (E.ring_comp_offset + ringAt x k) + 64 * (rdNat s (ringKey x (ringBlock k + 4)) 4 % rd s (E.ring_comp_slots + ringAt x k)))) 8 =
        rdNat _ (ringKey x (rd u (E.ring_comp_offset + ringAt x k) + 64 * (rdNat u (ringKey x (ringBlock k + 4)) 4 % rd u (E.ring_comp_slots + ringAt x k)))) 8
      rw [offset, slots, show rdNat u (ringKey x (ringBlock k + 4)) 4 = _ from word 0 (.inl rfl)]
      rfl
    · show (ringOf (setRing { u with freeCtr := u.freeCtr + 1 } x k _) x k).held = []
      rw [ringOf_setRing]
      exact (congrArg Ring.held ring).trans unheld
    · show unread u x (ringBlock k) < rd u (E.ring_comp_slots + ringAt x k)
      rw [seen, slots]
      exact room
    · show 0x1000 ≤ rd u (E.ring_comp_offset + ringAt x k)
      rw [offset]
      exact above

/-- A command that completes at once is refused or done with nothing but its completion. -/
theorem refuses_finishPlain {n : Instr} (hk : k < 8) (fits : code < 2 ^ 16) (runs : exec n s = done s (finishPlain s x k v code)) : Refuses n s x k v code :=
  leads_of_effect runs ⟨completed_finishPlain hk fits rfl rfl rfl fun _ _ => rfl, fun zero _ low => rdByte_finishWith low zero ..⟩ fun _ _ h => h

end

end Sys2Proof.Machine
end

section
/-! SUPPORT. Steps (R602 to R610, R613, R795). -/

namespace Sys2Proof.Machine

open Sys2Proof

/-! ## What leaves the step alone -/

/-- The step, and the requests held out of order. -/
@[irreducible] def Marching (m₀ : StepSt × List (Nat × Msg)) (s : State) : Prop := (s.step, s.transport.early) = m₀

section
variable {m₀ : StepSt × List (Nat × Msg)}
theorem marching_def (s : State) : Marching m₀ s ↔ (s.step, s.transport.early) = m₀ := by unfold Marching; exact Iff.rfl

theorem marching_self (s : State) : Marching (s.step, s.transport.early) s := (marching_def s).2 rfl

protected theorem Marching.mk {s : State} {dict mem poison flips pins supply save host power sectors cores xlat groups resolved commitLog keysets laces handles arrivals windows ports routes paths twin island replays det pke hbm recovery sessions sent freeCtr pending} (h : Marching m₀ s) :
    Marching m₀ (.mk dict mem poison flips pins supply save host power sectors cores xlat groups resolved commitLog keysets laces handles arrivals windows s.transport s.step ports routes paths twin island replays det pke hbm recovery sessions sent freeCtr pending) :=
  (marching_def _).2 ((marching_def s).1 h)
protected theorem Marching.ite {p : Prop} [Decidable p] {s t : State} (hs : Marching m₀ s) (ht : Marching m₀ t) :
    Marching m₀ (if p then s else t) := by split <;> assumption
protected theorem Marching.ite_fst {α : Type} {p : Prop} [Decidable p] {s t : State × α} (hs : Marching m₀ s.1) (ht : Marching m₀ t.1) :
    Marching m₀ (if p then s else t).1 := by split <;> assumption
protected theorem Marching.foldl {α : Type} {f : State → α → State} {l : List α} {s : State} (h : Marching m₀ s)
    (step : ∀ s a, Marching m₀ s → Marching m₀ (f s a)) : Marching m₀ (l.foldl f s) := by
  induction l generalizing s with
  | nil => exact h
  | cons a l ih => exact ih (step s a h)
protected theorem Marching.foldl_fst {α β : Type} {f : State × β → α → State × β} {l : List α} {s : State × β} (h : Marching m₀ s.1)
    (step : ∀ s a, Marching m₀ s.1 → Marching m₀ (f s a).1) : Marching m₀ (l.foldl f s).1 := by
  induction l generalizing s with
  | nil => exact h
  | cons a l ih => exact ih (step s a h)

protected theorem Marching.wr {s : State} {k v : Nat} (h : Marching m₀ s) : Marching m₀ (wr s k v) := h.mk

protected theorem Marching.incBy {s : State} {k n : Nat} (h : Marching m₀ s) : Marching m₀ (incBy s k n) := h.wr

protected theorem Marching.inc {s : State} {k : Nat} (h : Marching m₀ s) : Marching m₀ (inc s k) := h.incBy

protected theorem Marching.wrBytes {s : State} {k : Nat} {d : List Byte} (h : Marching m₀ s) : Marching m₀ (wrBytes s k d) :=
  h.mk

protected theorem Marching.wrNat {s : State} {k n v : Nat} (h : Marching m₀ s) : Marching m₀ (wrNat s k n v) := h.wrBytes

protected theorem Marching.mark {s : State} {k : Nat} (h : Marching m₀ s) : Marching m₀ (mark s k) := h.mk

protected theorem Marching.emit {s : State} {o : Out} (h : Marching m₀ s) : Marching m₀ (emit s o) := h.mk

protected theorem Marching.msixSend {s : State} {v : Nat} (h : Marching m₀ s) : Marching m₀ (msixSend s v) := h.mk.emit.ite h.mk

protected theorem Marching.signalVector {s : State} {v : Nat} (h : Marching m₀ s) : Marching m₀ (signalVector s v) :=
  h.ite (h.mk.ite h.msixSend)

protected theorem Marching.setSector {s : State} {x : Nat} {v : Sector} (h : Marching m₀ s) : Marching m₀ (setSector s x v) :=
  h.mk

protected theorem Marching.setCore {s : State} {c : Nat} {v : Core} (h : Marching m₀ s) : Marching m₀ (setCore s c v) := h.mk

protected theorem Marching.countAt {s : State} {cfg val ev inst n : Nat} (h : Marching m₀ s) :
    Marching m₀ (countAt s cfg val ev inst n) := h.incBy.ite h

protected theorem Marching.countDev {s : State} {ev inst n : Nat} (h : Marching m₀ s) : Marching m₀ (countDev s ev inst n) :=
  h.foldl fun _ _ h => h.countAt

protected theorem Marching.noteNd {s : State} {cause : Nat} {p : Option Nat} (h : Marching m₀ s) :
    Marching m₀ (noteNd s cause p) := by
  unfold noteNd
  dsimp only
  split
  · exact h.inc.countDev.inc
  · exact h.inc.countDev

protected theorem Marching.onchipUe {s : State} {x a block : Nat} (h : Marching m₀ s) : Marching m₀ (onchipUe s x a block) :=
  h.inc.wr.wr.wr

protected theorem Marching.paceBreak {s : State} {x : Nat} (h : Marching m₀ s) : Marching m₀ (paceBreak s x) :=
  h.ite (by
    dsimp only
    split
    · exact h.inc.noteNd.ite h.inc
    · exact h.inc)

protected theorem Marching.clearLost {s : State} {lo hi : Nat} (h : Marching m₀ s) : Marching m₀ (clearLost s lo hi) :=
  h.mk.ite h

protected theorem Marching.hbmStore {s : State} {a : Nat} {d : List Byte} (h : Marching m₀ s) : Marching m₀ (hbmStore s a d) :=
  h.wrBytes.clearLost.ite h.wrBytes

protected theorem Marching.loseWord {s : State} {k : Nat} (h : Marching m₀ s) : Marching m₀ (loseWord s k) :=
  h.mark.mk.onchipUe.ite (h.mark.onchipUe.ite h.mark.onchipUe)

protected theorem Marching.meetWord {s : State} {k n : Nat} (h : Marching m₀ s) : Marching m₀ (meetWord s k n) :=
  .ite (h.mk.ite h.mk.loseWord) (.ite (h.mk.inc.ite h.mk.loseWord) (.ite (h.mk.inc.ite h.mk.loseWord) (h.mk.inc.ite
    (h.mk.inc.paceBreak.ite h.mk.loseWord))))

protected theorem Marching.meetEdges {s : State} {k n : Nat} (h : Marching m₀ s) : Marching m₀ (meetEdges s k n) :=
  h.foldl fun _ _ h => h.meetWord

protected theorem Marching.setGroup {s : State} {o : Option Nat} {i : Nat} {f : Group → Group} (h : Marching m₀ s) :
    Marching m₀ (setGroup s o i f) := h.mk

protected theorem Marching.noteGroups {s : State} (h : Marching m₀ s) : Marching m₀ (noteGroups s) := h.wr.wr

protected theorem Marching.returnCredits {s : State} {k n : Nat} (h : Marching m₀ s) : Marching m₀ (returnCredits s k n) :=
  h.ite h.setSector

protected theorem Marching.discard {s : State} {o : Option Nat} {i : Nat} (h : Marching m₀ s) :
    Marching m₀ (discard s o i) := by
  unfold discard
  split
  · exact h
  · exact .noteGroups (.setGroup (h.foldl fun _ _ h => h.returnCredits))

protected theorem Marching.unbind {s : State} {c : Nat} (h : Marching m₀ s) : Marching m₀ (unbind s c) := h.ite h.setCore

protected theorem Marching.resolveGroup {s : State} {o : Option Nat} {i code cause : Nat} (h : Marching m₀ s) :
    Marching m₀ (resolveGroup s o i code cause) := by
  unfold resolveGroup
  split
  · exact h
  · exact .noteGroups (.ite (.inc (.ite (.setGroup (h.discard.mk.ite h.discard)) (.ite (.mk (h.discard.mk.ite h.discard))
      (.foldl (.mk (h.discard.mk.ite h.discard)) fun _ _ h => h.unbind.ite h)))) (.inc (.ite (.setGroup (h.discard.mk.ite
      h.discard)) (.ite (.mk (h.discard.mk.ite h.discard)) (.foldl (.mk (h.discard.mk.ite h.discard)) fun _ _ h => h.unbind.ite
      h)))))

protected theorem Marching.groupStore {s : State} {o : Option Nat} {i k : Nat} {d : List Byte} {cred : Nat} {bad : Bool}
    (h : Marching m₀ s) :
    Marching m₀ (groupStore s o i k d cred bad).1 := by
  unfold groupStore
  split
  · exact h
  · exact h.ite_fst (h.ite_fst (.ite_fst (.noteGroups (h.foldl_fst fun _ _ h => h.ite_fst (by
      split
      · exact h
      · split
        · exact h
        · exact h.setGroup))) (.setGroup (.discard (h.foldl_fst fun _ _ h => h.ite_fst (by
      split
      · exact h
      · split
        · exact h
        · exact h.setGroup))))))

protected theorem Marching.storeAt {s : State} {k : Nat} {d : List Byte} (h : Marching m₀ s) : Marching m₀ (storeAt s k d) :=
  h.hbmStore.ite h.meetEdges.wrBytes

protected theorem Marching.noteLanded {s : State} {k n : Nat} (h : Marching m₀ s) : Marching m₀ (noteLanded s k n) := by
  unfold noteLanded
  split
  · exact h
  · exact h.mk

protected theorem Marching.setHandle {s : State} {h : Nat} {v : Handle} (hs : Marching m₀ s) : Marching m₀ (setHandle s h v) :=
  hs.mk

protected theorem Marching.setPort {s : State} {p : Nat} {v : Port} (h : Marching m₀ s) : Marching m₀ (setPort s p v) := h.mk

protected theorem Marching.sendFlits {s : State} {p vc n : Nat} (h : Marching m₀ s) : Marching m₀ (sendFlits s p vc n) :=
  h.setPort.countDev

protected theorem Marching.sendMsg {s : State} {mtype : Nat} {m : Msg} (h : Marching m₀ s) : Marching m₀ (sendMsg s mtype m) :=
  .ite (.emit (by
    split
    · exact .sendFlits (h.noteNd.ite h)
    · exact h.noteNd.ite h)) h

protected theorem Marching.sendNow {s : State} {h : Nat} {r : Request} (hs : Marching m₀ s) : Marching m₀ (sendNow s h r) :=
  .sendMsg (hs.setHandle.mk.ite hs.setHandle)

protected theorem Marching.request {s : State} {h : Nat} {r : Request} (hs : Marching m₀ s) : Marching m₀ (request s h r) :=
  .ite (.sendNow (by
    split
    · exact hs.setGroup
    · exact hs)) (.setHandle (by
    split
    · exact hs.setGroup
    · exact hs))

protected theorem Marching.sendNotice {s : State} {mtype node window epoch : Nat} {payload : List Byte} (h : Marching m₀ s) :
    Marching m₀ (sendNotice s mtype node window epoch payload) := by
  unfold Machine.sendNotice
  exact Marching.sendMsg ((marching_def _).2 ((marching_def s).1 h))

protected theorem Marching.postEntry {s : State} {x cb off n : Nat} {r : List Byte} (h : Marching m₀ s) :
    Marching m₀ (postEntry s x cb off n r) := h.wrBytes.wrNat.wrNat

protected theorem Marching.postEvent {s : State} {p etype status core detail : Nat} (h : Marching m₀ s) :
    Marching m₀ (postEvent s p etype status core detail) := h.inc.ite h.postEntry.signalVector

protected theorem Marching.unitStore {s : State} {x p : Nat} {g : Option Nat} {k : Nat} {d : List Byte} (h : Marching m₀ s) :
    Marching m₀ (unitStore s x p g k d).1 :=
  .ite_fst (h.ite_fst h.request) (h.ite_fst (by
    dsimp only
    split
    · exact .groupStore (h.noteLanded.ite h)
    · exact .storeAt (h.noteLanded.ite h)))

protected theorem Marching.vaWrite {s : State} {x p : Nat} {g : Option Nat} {va : Nat} {d : List Byte} (h : Marching m₀ s) :
    Marching m₀ (vaWrite s x p g va d).1 := h.ite_fst (h.foldl_fst fun _ _ h => h.unitStore)

protected theorem Marching.setRing {s : State} {x k : Nat} {v : Ring} (h : Marching m₀ s) : Marching m₀ (setRing s x k v) :=
  h.setSector

protected theorem Marching.mirrorEntry {s : State} {x k e : Nat} {r : List Byte} (h : Marching m₀ s) :
    Marching m₀ (mirrorEntry s x k e r) := h.ite (h.inc.ite h.emit)

protected theorem Marching.postCompletion {s : State} {x k : Nat} {r : List Byte} (h : Marching m₀ s) :
    Marching m₀ (postCompletion s x k r) := h.setRing.ite h.postEntry.mirrorEntry.signalVector

protected theorem Marching.finishWith {s : State} {x k : Nat} {t : Taken} {r extra : List Byte} (h : Marching m₀ s) :
    Marching m₀ (finishWith s x k t r extra) :=
  .postCompletion (.ite (.mk (by
    split
    · exact h.setRing
    · exact h.setRing.ite h.setRing.vaWrite)) (by
    split
    · exact h.setRing
    · exact h.setRing.ite h.setRing.vaWrite))

protected theorem Marching.finishPlain {s : State} {x k : Nat} {t : Taken} {status : Nat} (h : Marching m₀ s) :
    Marching m₀ (finishPlain s x k t status) := h.mk.finishWith

protected theorem Marching.setWinWord {s : State} {w i v : Nat} (h : Marching m₀ s) : Marching m₀ (setWinWord s w i v) :=
  h.wrNat

protected theorem Marching.releaseChildren {s : State} {failed : Bool} (h : Marching m₀ s) :
    Marching m₀ (releaseChildren s failed) := h.foldl fun _ _ h => h.sendNotice

protected theorem Marching.endSteps {s : State} {st : Nat} (h : Marching m₀ s) : Marching m₀ (endSteps s st) :=
  h.foldl fun _ _ h => h.foldl fun _ _ h => h.finishPlain.ite h

end

section
variable {d₀ : State}

protected theorem Steady.noteGroups {s : State} (h : Steady d₀ s) : Steady d₀ (noteGroups s) :=
  .wr (h.wr (by decide)) (by decide)

protected theorem Steady.returnCredits {s : State} {k n : Nat} (h : Steady d₀ s) : Steady d₀ (returnCredits s k n) :=
  h.ite h.setSector

protected theorem Steady.discard {s : State} {o : Option Nat} {i : Nat} (h : Steady d₀ s) : Steady d₀ (discard s o i) := by
  unfold discard
  split
  · exact h
  · exact .noteGroups (.setGroup (h.foldl fun _ _ h => h.returnCredits))

protected theorem Steady.unbind {s : State} {c : Nat} (h : Steady d₀ s) : Steady d₀ (unbind s c) := h.ite h.setCore

protected theorem Steady.resolveGroup {s : State} {o : Option Nat} {i code cause : Nat} (h : Steady d₀ s) :
    Steady d₀ (resolveGroup s o i code cause) := by
  unfold resolveGroup
  split
  · exact h
  · exact .noteGroups (.ite (.inc (.ite (.setGroup (h.discard.mk.ite h.discard)) (.ite (.mk (h.discard.mk.ite h.discard))
      (.foldl (.mk (h.discard.mk.ite h.discard)) fun _ _ h => h.unbind.ite h))) (by decide)) (.inc (.ite (.setGroup
      (h.discard.mk.ite h.discard)) (.ite (.mk (h.discard.mk.ite h.discard)) (.foldl (.mk (h.discard.mk.ite h.discard))
      fun _ _ h => h.unbind.ite h))) (by decide)))

protected theorem Steady.sendNotice {s : State} {mtype node window epoch : Nat} {payload : List Byte} (h : Steady d₀ s) :
    Steady d₀ (sendNotice s mtype node window epoch payload) := h.mk.sendMsg

protected theorem Steady.finishPlain {s : State} {x k : Nat} {t : Taken} {status : Nat} (h : Steady d₀ s) :
    Steady d₀ (finishPlain s x k t status) := h.mk.finishWith

protected theorem Steady.setWinWord {s : State} {w i v : Nat} (h : Steady d₀ s) : Steady d₀ (setWinWord s w i v) := h.wrNat

protected theorem Steady.releaseChildren {s : State} {failed : Bool} (h : Steady d₀ s) : Steady d₀ (releaseChildren s failed) :=
  h.foldl fun _ _ h => h.sendNotice

protected theorem Steady.endSteps {s : State} {st : Nat} (h : Steady d₀ s) : Steady d₀ (endSteps s st) :=
  h.foldl fun _ _ h => h.foldl fun _ _ h => h.finishPlain.ite h

protected theorem Steady.postEvent {s : State} {p etype status core detail : Nat} (h : Steady d₀ s) : Steady d₀ (postEvent s p etype status core detail) := by
  have loud : Calm (E.ev_lost_count + 256 * p) = false := not_calm_counter (Nat.le_trans (by decide) (Nat.le_add_right ..))
  unfold Machine.postEvent
  exact (h.inc loud).ite h.postEntry.signalVector

end

/-! ## A step that fails (R608, R609) -/

section
variable {s : State}

/-- The machine once the groups of the failed step are resolved, and its windows' DONE counts put back. -/
def failing (s : State) : State :=
  (windowsWhere (((s.groups.filter fun g => g.fabric && g.step == rd s E.step_counter).map fun g => (g.opener, g.id)).foldl
      (fun t g => resolveGroup (setGroup t g.1 g.2 fun r => { r with state := 5 }) g.1 g.2 0x0502 0) s) (· == 1)).foldl
    (fun t w => setWinWord t w 6 (bits (winWord t w 6) 63 32 * 2 ^ 32))
    (((s.groups.filter fun g => g.fabric && g.step == rd s E.step_counter).map fun g => (g.opener, g.id)).foldl
      (fun t g => resolveGroup (setGroup t g.1 g.2 fun r => { r with state := 5 }) g.1 g.2 0x0502 0) s)

/-- The partitions learn of it. -/
def failTold (s : State) : State :=
  ((List.range 32).filter (assigned (inc (failing s) E.step_failed_count))).foldl (fun t p => postEvent t p 2 0x0408 0 (rd s E.step_counter))
    (inc (failing s) E.step_failed_count)

theorem failStep_eq (s : State) :
    failStep s = endSteps (releaseChildren { failTold s with step := { StepSt.init with failed := true } } true) 0x0408 := rfl

theorem Steady.failing {d₀ : State} (h : Steady d₀ s) : Steady d₀ (failing s) :=
  (h.foldl fun _ _ h => h.setGroup.resolveGroup).foldl fun _ _ h => h.setWinWord

theorem Marching.failing {m₀ : StepSt × List (Nat × Msg)} (h : Marching m₀ s) : Marching m₀ (failing s) :=
  (h.foldl fun _ _ h => h.setGroup.resolveGroup).foldl fun _ _ h => h.setWinWord

/-- What a failed step leaves: it is marked, it counts, and what is calm beside that count is as it was. -/
structure StepFailed (s t : State) : Prop where
  step : t.step = { StepSt.init with failed := true }
  early : t.transport.early = s.transport.early
  count : rd t E.step_failed_count = cut E.step_failed_count (rd s E.step_failed_count + 1)
  entries : ∀ k, Calm k = true → k ≠ E.step_failed_count → rd t k = rd s k

theorem stepFailed_failStep (s : State) : StepFailed s (failStep s) := by
  have before := (steady_self s).failing
  have told : Steady (inc (failing s) E.step_failed_count) (failTold s) := (steady_self _).foldl fun _ _ h => h.postEvent
  have after : Steady (inc (failing s) E.step_failed_count) (failStep s) := by
    rw [failStep_eq]
    exact (Steady.mk told).releaseChildren.endSteps
  have early : Marching (s.step, s.transport.early) (failTold s) := (marching_self s).failing.inc.foldl fun _ _ h => h.postEvent
  have steps : Marching ({ StepSt.init with failed := true }, s.transport.early) { failTold s with step := { StepSt.init with failed := true } } := by
    have order : (failTold s).transport.early = s.transport.early := congrArg Prod.snd ((marching_def _).1 early)
    rw [marching_def, order]
  have marched : Marching ({ StepSt.init with failed := true }, s.transport.early) (failStep s) := by
    rw [failStep_eq]
    exact .endSteps (.releaseChildren steps)
  rw [marching_def] at marched
  obtain ⟨step, order⟩ := Prod.mk.inj marched
  refine ⟨step, order, ?_, fun k calm other => ?_⟩
  · rw [after.rd (by decide), rd_inc_same, before.rd (by decide)]
  · rw [after.rd calm, rd_inc_other _ other, before.rd calm]

end

/-! ## `STEPEND` (R602) -/

section
variable {s : State} {x k : Nat} {v : Taken}

theorem exec_stepend (hx : x < 32) (hk : k < 8) (next : nextOp s x k 0x54 = some v) : exec (.stepend x k) s = done s (stepEnd s x k v) := by
  rw [show exec (.stepend x k) s = execStepend x k s from rfl, execStepend, next]
  exact guarded_of (decide_eq_true ⟨hx, hk⟩) ..

theorem stepend_cases (hx : x < 32) (hk : k < 8) (next : nextOp s x k 0x54 = some v) :
    (v.checks = false → Refuses (.stepend x k) s x k v 0x0105) ∧
    (v.checks = true → v.word 2 ≠ rd s E.step_counter → Refuses (.stepend x k) s x k v 0x0407) ∧
    (v.checks = true → v.word 2 = rd s E.step_counter → Leads (.stepend x k) s fun t => Waits t x k v ∧ t.mem = s.mem) := by
  have runs := exec_stepend hx hk next
  refine ⟨fun bad => refuses_finishPlain hk (by decide) (runs.trans ?_), fun good other => refuses_finishPlain hk (by decide) (runs.trans ?_),
    fun good names => ?_⟩
  · rw [stepEnd, bad, if_pos (by decide)]
  · rw [stepEnd, good, if_neg (by decide), if_pos other]
  · rw [stepEnd, good, if_neg (by decide), if_neg fun h => h names] at runs
    have kept := Progressed.stepProgress (setTaken s x k v { v with started := true, startTime := now s })
    refine leads_of_effect runs ⟨⟨{ v with started := true, startTime := now s }, ?_, rfl, rfl⟩, kept.mem⟩ fun _ _ h => h
    rw [ringOf_congr kept.sectors]
    exact mem_setTaken (mem_of_nextOp next).1

end

/-! ## The messages of a step (R603, R608, R795) -/

section
variable {s : State} {m : Msg}

theorem leads_handled {n : Instr} {ty : Nat} {r : State → State × Option (Nat × List Byte)} {P : State → Prop} (fresh : Fresh s m) (device : 6 < ty)
    (runs : exec n s = receive s ty m .clean)
    (handler : ∀ u, (if ty = 0x20 then vote u m else if ty = 0x22 then takeDecision u m false else if ty = 0x23 then answerQuery u m
      else if ty = 0x24 then takeArrive u m else if ty = 0x25 then takeRelease u m else takeNotice u m) = r u)
    (answer : ∀ u, (r u).2 = some (0x10, statusBytes 0)) (early : ∀ n l, (r (turned s n l)).1.transport.early = s.transport.early)
    (post : ∀ n l, P (sendAnswer (r (turned s n l)).1 m 0x10 (statusBytes 0))) (blind : ∀ v q, P v → P { v with pending := q }) : Leads n s P := by
  obtain ⟨a, l, accepts⟩ := acceptRequest_device (r := r) fresh device handler early
  have runs := exec_receive fresh.1 runs
  rw [accepts, show r (turned s a l) = ((r (turned s a l)).1, some (0x10, statusBytes 0)) from Prod.ext rfl (answer _)] at runs
  exact leads_of_effect runs (post a l) blind

/-- The number of the step that a message names. -/
def stepNamed (m : Msg) : Nat := leNat (m.payload.take 8)

/-- The kind that a release or a notice carries. -/
def stepKind (m : Msg) : Nat := leNat ((m.payload.drop 8).take 1)

theorem takeArrive_other (other : stepNamed m ≠ rd s E.step_counter) : (takeArrive s m).1 = s := by
  unfold takeArrive
  dsimp only
  exact if_neg fun h => other h.1

/-- A child that arrives is listed. -/
theorem takeArrive_child (named : stepNamed m = rd s E.step_counter) (child : m.src ∈ stepChildren s) :
    m.src ∈ (takeArrive s m).1.step.arrived ∧ (takeArrive s m).1.mem = s.mem ∧ now (takeArrive s m).1 = now s := by
  have all : (allChildren s).contains m.src = true := List.contains_iff_mem.2 (List.mem_append_left _ child)
  unfold takeArrive
  dsimp only
  by_cases known : s.step.arrived.contains m.src = true
  · rw [if_neg (by rw [known]; exact fun h => absurd h.2.2 (by decide))]
    exact ⟨List.contains_iff_mem.1 known, rfl, rfl⟩
  · rw [if_pos ⟨named, all, by rw [Bool.eq_false_iff.2 known]; rfl⟩]
    have kept := Progressed.stepProgress { s with step := { s.step with arrived := s.step.arrived ++ [m.src] } }
    refine ⟨?_, kept.mem, kept.entries _ (by decide)⟩
    rw [kept.arrived]
    exact List.mem_append_right _ (.head _)

theorem takeArrive_early : (takeArrive s m).1.transport.early = s.transport.early := by
  unfold takeArrive
  dsimp only
  split
  · exact (Progressed.stepProgress _).early
  · rfl

/-- A release that the parent sends for the present step. -/
structure Released (s : State) (m : Msg) : Prop where
  named : stepNamed m = rd s E.step_counter
  parent : m.src = rd s E.step_parent
  child : rd s E.step_is_root ≠ 1
  whole : s.step.failed = false

theorem takeRelease_eq (released : Released s m) : (takeRelease s m).1 =
    if stepKind m == 1 then failStep s else if s.step.quiescent then s else becomeQuiet (releaseChildren s false) := by
  obtain ⟨named, parent, child, whole⟩ := released
  unfold takeRelease
  dsimp only
  refine if_neg ?_
  rintro (other | other | root | failed)
  · exact other named
  · exact other parent
  · exact child root
  · rw [whole] at failed
    exact absurd failed (by decide)

theorem takeRelease_early : (takeRelease s m).1.transport.early = s.transport.early := by
  unfold takeRelease
  dsimp only
  split
  · rfl
  · split
    · exact (stepFailed_failStep s).early
    · split
      · rfl
      · exact ((Progressed.releaseChildren s false).trans (.becomeQuiet _)).early

/-- A release of the step that has not failed makes the device quiescent. -/
theorem step_releaseChildren (s : State) (failed : Bool) : (releaseChildren s failed).step = s.step := by
  refine List.foldlRecOn (motive := fun u : State => u.step = s.step) _ _ rfl fun u same c _ => ?_
  obtain ⟨l, n, sends⟩ := still_sendNotice u 0x25 c 0 0 (releasePayload (rd u E.step_counter) failed)
  exact Eq.trans (step_of_still (still_sendMsg ..) :) same

/-- The entries that record a notice. -/
def noticed (s : State) (m : Msg) : State :=
  inc (wr (wr (wr (wr s E.prn_node m.src) E.prn_step (stepNamed m)) E.prn_kind (stepKind m)) E.prn_time (now s)) E.peer_reset_count

theorem takeNotice_eq : (takeNotice s m).1 =
    if stepNamed m = rd (noticed s m) E.step_counter ∧ (stepChildren (noticed s m)).contains m.src ∧ !(noticed s m).step.failed ∧ !(noticed s m).step.reported ∧
      !(noticed s m).step.quiescent then parentFails (noticed s m) m else noticed s m := rfl

theorem rd_noticed : rd (noticed s m) E.prn_node = cut E.prn_node m.src ∧ rd (noticed s m) E.prn_step = cut E.prn_step (stepNamed m) ∧
    rd (noticed s m) E.prn_kind = cut E.prn_kind (stepKind m) ∧ rd (noticed s m) E.prn_time = cut E.prn_time (now s) ∧
    rd (noticed s m) E.peer_reset_count = cut E.peer_reset_count (rd s E.peer_reset_count + 1) := by
  have count : rd (wr (wr (wr (wr s E.prn_node m.src) E.prn_step (stepNamed m)) E.prn_kind (stepKind m)) E.prn_time (now s)) E.peer_reset_count =
      rd s E.peer_reset_count := by
    rw [rd_wr_other _ (by decide), rd_wr_other _ (by decide), rd_wr_other _ (by decide), rd_wr_other _ (by decide)]
  unfold noticed
  refine ⟨?_, ?_, ?_, ?_, ?_⟩
  · rw [rd_inc_other _ (by decide), rd_wr_other _ (by decide), rd_wr_other _ (by decide), rd_wr_other _ (by decide), rd_wr_same]
    rfl
  · rw [rd_inc_other _ (by decide), rd_wr_other _ (by decide), rd_wr_other _ (by decide), rd_wr_same]
    rfl
  · rw [rd_inc_other _ (by decide), rd_wr_other _ (by decide), rd_wr_same]
    rfl
  · rw [rd_inc_other _ (by decide), rd_wr_same]
    rfl
  · rw [rd_inc_same, count]

theorem rd_noticed_other {k : Nat} (other : k < E.prn_node) : rd (noticed s m) k = rd s k := by
  have far (j : Nat) (above : E.prn_node ≤ j) : k ≠ j := by omega
  unfold noticed
  rw [rd_inc_other _ (far _ (by decide)), rd_wr_other _ (far _ (by decide)), rd_wr_other _ (far _ (by decide)), rd_wr_other _ (far _ (by decide)),
    rd_wr_other _ (far _ (by decide))]

theorem stepChildren_congr {t : State} (count : rd t E.step_child_count = rd s E.step_child_count)
    (nodes : ∀ i < 32, rd t (E.step_children + i) = rd s (E.step_children + i)) : stepChildren t = stepChildren s := by
  unfold stepChildren
  rw [count]
  exact List.map_congr_left fun i member => nodes i (by have := List.mem_range.1 member; omega)

theorem stepChildren_noticed : stepChildren (noticed s m) = stepChildren s :=
  stepChildren_congr (rd_noticed_other (by decide)) fun i low => rd_noticed_other (by unfold E.step_children E.prn_node; omega)

/-- What a parent does with the loss of a child leaves each calm entry but one count. -/
theorem parentFails_entries (s : State) (m : Msg) : (parentFails s m).transport.early = s.transport.early ∧
    ∀ k, Calm k = true → k ≠ E.step_failed_count → rd (parentFails s m) k = rd s k := by
  unfold parentFails
  split
  · have fails := stepFailed_failStep s
    exact ⟨fails.early, fails.entries⟩
  · have kept := Progressed.sendNotice { s with step := { s.step with reported := true } } 0x26 (rd s E.step_parent) 0 0 m.payload
    exact ⟨kept.early, fun k calm _ => kept.entries k (of_decide_eq_true (Bool.and_eq_true_iff.1 calm).1)⟩

theorem takeNotice_entries : (takeNotice s m).1.transport.early = s.transport.early ∧
    ∀ k, Calm k = true → k ≠ E.step_failed_count → rd (takeNotice s m).1 k = rd (noticed s m) k := by
  rw [takeNotice_eq]
  split
  · exact parentFails_entries ..
  · exact ⟨rfl, fun _ _ _ => rfl⟩

end

/-! ## The boundary (R602 to R605) -/

section
variable {s t u : State}

theorem ringOf_setRing_other {x k y j : Nat} (other : ¬(y = x ∧ j = k)) (s : State) (v : Ring) : ringOf (setRing s x k v) y j = ringOf s y j := by
  unfold ringOf setRing
  rw [sector_setSector]
  split
  · next same =>
    subst same
    exact Tab.get_set_other (fun e => other ⟨rfl, e⟩) _ _ _ _
  · rfl

/-- What completions of commands without a record leave of the machine, as a boundary reads it. -/
structure Completing (s t : State) : Prop where
  low : ∀ a < 2 ^ 38, rdByte t a = rdByte s a
  own : t.twin.own = s.twin.own
  queues : ∀ x k, ∀ v ∈ (ringOf t x k).queue, v ∈ (ringOf s x k).queue

namespace Completing

theorem refl (s : State) : Completing s s := ⟨fun _ _ => rfl, rfl, fun _ _ _ h => h⟩

theorem trans (h : Completing s t) (h' : Completing t u) : Completing s u where
  low a small := (h'.low a small).trans (h.low a small)
  own := h'.own.trans h.own
  queues x k v member := h.queues x k v (h'.queues x k v member)

theorem setRing {x k : Nat} {v : Ring} (fewer : ∀ q ∈ v.queue, q ∈ (ringOf s x k).queue) : Completing s (setRing s x k v) := by
  refine ⟨fun _ _ => rfl, rfl, fun y j q member => ?_⟩
  by_cases same : y = x ∧ j = k
  · obtain ⟨rfl, rfl⟩ := same
    rw [ringOf_setRing] at member
    exact fewer q member
  · rwa [ringOf_setRing_other same] at member

theorem postCompletion (s : State) (x k : Nat) (r : List Byte) : Completing s (postCompletion s x k r) := by
  unfold Machine.postCompletion
  dsimp only
  split
  · exact setRing fun _ h => h
  · have same (e w : Nat) (d : State) : still (signalVector (mirrorEntry d x k e r) w) = still d := (still_signalVector _ _).trans (mirrorEntry_still ..)
    refine ⟨fun a small => ?_, ?_, fun y j q member => ?_⟩
    · exact (rdByte_congr (mem_of_still (same ..)) a).trans (rdByte_postEntry small ..)
    · rw [twin_of_still (same ..)]
      rfl
    · rwa [ringOf_congr (sectors_of_still (same ..))] at member

theorem finishPlain {x k : Nat} {v : Taken} (zero : v.completion = 0) (s : State) (st : Nat) : Completing s (finishPlain s x k v st) := by
  obtain ⟨w, ends⟩ := finishWith_eq { s with freeCtr := s.freeCtr + 1 } x k v (completionRecord s v st 0 0 (plainBeats s)) []
  unfold Machine.finishPlain
  rw [ends, leftQueue_zero zero]
  refine trans ?_ (postCompletion ..)
  obtain ⟨low, own, queues⟩ := setRing (s := s) (x := x) (k := k) (v := { ringOf s x k with queue := (ringOf s x k).queue.erase v })
    fun q member => List.mem_of_mem_erase member
  exact ⟨low, own, queues⟩

theorem endSteps (plain : ∀ x k, ∀ v ∈ (ringOf s x k).queue, v.op = 0x54 → v.completion = 0) (st : Nat) : Completing s (endSteps s st) := by
  refine List.foldlRecOn (motive := Completing s) _ _ (refl s) fun t kept r _ => ?_
  refine List.foldlRecOn (motive := Completing s) _ _ kept fun u kept' q member => ?_
  split
  · next waits =>
    have op : q.op = 0x54 := by simpa using (Bool.and_eq_true_iff.1 waits).2
    exact kept'.trans (finishPlain (plain _ _ q (kept.queues _ _ q member) op) u st)
  · exact kept'

end Completing

end

/-! ### The DONE counts are latched (R604) -/

section
variable {s : State}

/-- The DONE count of each window of a list is latched. -/
def latch (s : State) (l : List Nat) : State := l.foldl (fun t w => setWinWord t w 6 (bits (winWord t w 6) 31 0 * 2 ^ 32)) s

theorem latch_eq (s : State) (l : List Nat) : ∃ m p f, latch s l = { s with mem := m, poison := p, flips := f } :=
  List.foldlRecOn (motive := fun t : State => ∃ m p f, t = { s with mem := m, poison := p, flips := f }) l _ ⟨_, _, _, rfl⟩ fun t is w _ => by
    obtain ⟨m, p, f, rfl⟩ := is
    exact ⟨_, _, _, rfl⟩

theorem winWord_setWinWord_other {w y : Nat} (other : w ≠ y) (s : State) (v : Nat) : winWord (setWinWord s y 6 v) w 6 = winWord s w 6 :=
  rdNat_wrNat_apart (by unfold Mem.hbm; omega) s v

theorem winWord_latch_other {w : Nat} {l : List Nat} (out : w ∉ l) (s : State) : winWord (latch s l) w 6 = winWord s w 6 := by
  induction l generalizing s with
  | nil => rfl
  | cons y l ih =>
    exact (ih (fun later => out (.tail _ later)) _).trans (winWord_setWinWord_other (fun e => out (by rw [e]; exact .head _)) s _)

theorem winWord_latch {w : Nat} {l : List Nat} (distinct : l.Nodup) (member : w ∈ l) (s : State) :
    winWord (latch s l) w 6 = bits (winWord s w 6) 31 0 * 2 ^ 32 := by
  induction l generalizing s with
  | nil => exact absurd member List.not_mem_nil
  | cons y l ih =>
    obtain ⟨out, rest⟩ := List.nodup_cons.1 distinct
    rw [latch, List.foldl_cons, ← latch]
    by_cases same : w = y
    · subst same
      have small := bits_lt (winWord s w 6) 31 0
      rw [winWord_latch_other out, winWord, setWinWord, rdNat_wrNat_same]
      exact Nat.mod_eq_of_lt (Nat.lt_of_lt_of_eq (m := 2 ^ 64) (by omega) (by decide))
    · rw [ih rest ((List.mem_cons.1 member).resolve_left same), winWord_setWinWord_other same]

/-! ### The boundary falls (R602 to R604) -/

/-- Nothing but the rings' `STEPEND`s waits for the boundary. -/
structure Alone (s : State) : Prop where
  groups : ∀ g ∈ s.groups, g.fabric = true → rd s E.step_counter < g.step
  role : rd s E.twin_role = 0
  handOver : s.twin.handOver = false
  held : s.det.held = []
  plain : ∀ x k, ∀ v ∈ (ringOf s x k).queue, v.op = 0x54 → v.completion = 0

/-- The machine at its boundary, before the step increments. -/
def atBoundary (s : State) : State :=
  { wr (latch s (windowsWhere s (· == 1))) E.last_boundary_time (now s) with
    step := { s.step with boundary := true, applied := [] }, twin := { s.twin with requests := [], completions := [], own := none } }

theorem fields_atBoundary (s : State) : (atBoundary s).groups = s.groups ∧ (atBoundary s).det = s.det ∧ (atBoundary s).sectors = s.sectors ∧
    (∀ a, rdByte (atBoundary s) a = rdByte (latch s (windowsWhere s (· == 1))) a) ∧
    ∀ k, k ≠ E.last_boundary_time → rd (atBoundary s) k = rd s k := by
  obtain ⟨m, p, f, is⟩ := latch_eq s (windowsWhere s (· == 1))
  unfold atBoundary
  rw [is]
  exact ⟨rfl, rfl, rfl, fun _ => rfl, fun k other => rd_wr_other _ other _⟩

/-- The machine once its rings' `STEPEND`s are done. -/
def stepsEnded (s : State) : State := endSteps (noteHeld (atBoundary s) []) 0

theorem stepIncrement_eq (alone : Alone s) : stepIncrement (atBoundary s) =
    { wr (stepsEnded s) E.step_counter (rd s E.step_counter + 1) with step := StepSt.init } := by
  obtain ⟨groups, det, sectors, -, entries⟩ := fields_atBoundary s
  have counter : rd (atBoundary s) E.step_counter = rd s E.step_counter := entries _ (by decide)
  have flushed : flushHeld (atBoundary s) (fun _ => true) = noteHeld (atBoundary s) [] := by
    unfold flushHeld
    dsimp only
    rw [det, alone.held]
    rfl
  have unpaired : twinBound (wr (stepsEnded s) E.step_counter (rd s E.step_counter + 1)) = false := by
    have role : rd (wr (stepsEnded s) E.step_counter (rd s E.step_counter + 1)) E.twin_role = 0 := by
      have steady : Steady (noteHeld (atBoundary s) []) (stepsEnded s) := (steady_self _).endSteps
      rw [rd_wr_other _ (by decide), steady.rd (by decide), noteHeld, rd_wr_other _ (by decide)]
      exact (entries _ (by decide)).trans alone.role
    rw [twinBound, role]
    rfl
  have none_ : ((atBoundary s).groups.any fun g => g.fabric && decide (g.step ≤ rd (atBoundary s) E.step_counter)) = false := by
    rw [groups, counter, List.any_eq_false]
    intro g member both
    obtain ⟨fabric, early⟩ := Bool.and_eq_true_iff.1 both
    exact absurd (alone.groups g member fabric) (Nat.not_lt.2 (of_decide_eq_true early))
  have boundary : (atBoundary s).step.boundary = true := rfl
  unfold stepIncrement
  rw [boundary, if_neg (by decide), none_, if_neg (by decide), flushed, counter]
  exact congrArg (fun u : State => { u with step := StepSt.init }) (if_neg (c := twinBound (wr (stepsEnded s) E.step_counter (rd s E.step_counter + 1)) = true) (by
    rw [unpaired]
    decide))

end

section
variable {s : State}

/-- What a boundary that falls leaves. -/
structure Fallen (s t : State) : Prop where
  step : t.step = StepSt.init
  counter : rd t E.step_counter = cut E.step_counter (rd s E.step_counter + 1)
  time : rd t E.last_boundary_time = cut E.last_boundary_time (now s)
  misses : rd t E.cinch_miss_count = rd s E.cinch_miss_count
  windows : (windowsWhere s (· == 1)).Nodup → ∀ w ∈ windowsWhere s (· == 1), w < 1048576 → winWord t w 6 = bits (winWord s w 6) 31 0 * 2 ^ 32

theorem completing_stepsEnded (alone : Alone s) : Completing (atBoundary s) (stepsEnded s) := by
  obtain ⟨-, -, sectors, -, -⟩ := fields_atBoundary s
  have plain (x k : Nat) (v : Taken) (member : v ∈ (ringOf (noteHeld (atBoundary s) []) x k).queue) (op : v.op = 0x54) : v.completion = 0 := by
    rw [ringOf_congr (t := noteHeld (atBoundary s) []) (s := s) sectors] at member
    exact alone.plain x k v member op
  obtain ⟨low, own, queues⟩ := Completing.endSteps plain 0
  exact ⟨low, own, queues⟩

/-- The machine once its boundary is marked. -/
def boundaryMarked (s : State) : State :=
  { wr (latch s (windowsWhere s (· == 1))) E.last_boundary_time (now s) with
    step := { (wr (latch s (windowsWhere s (· == 1))) E.last_boundary_time (now s)).step with boundary := true, applied := [] } }

/-- Its groups are prepared, and the leader has sent its commit record. -/
def boundaryPrepared (s : State) : State :=
  commitRecord ((((boundaryMarked s).groups.filter fun g => g.opener.isNone && g.fabric && g.step == rd s E.step_counter).map Group.id).foldl prepareGroup
    (boundaryMarked s))

theorem fallBoundary_steps (s : State) : fallBoundary s =
    let t := boundaryPrepared s
    let own := if rd t E.twin_role = 2 ∧ rd t E.twin_mode = 1 then some (rd s E.step_counter, stepDigest t) else none
    let u := compareDigests (stepIncrement { t with twin := { t.twin with requests := [], completions := [], own := own } })
    if t.twin.handOver then detachTwin ((List.range 32).foldl (fun t p => if portCode t p = 0 then t else portOut t p 0) u) 1 else u := rfl

theorem boundaryPrepared_eq (alone : Alone s) : boundaryPrepared s = boundaryMarked s := by
  obtain ⟨m, p, f, is⟩ := latch_eq s (windowsWhere s (· == 1))
  have groups : (boundaryMarked s).groups = s.groups := by rw [boundaryMarked, is]; rfl
  have none_ : (s.groups.filter fun g => g.opener.isNone && g.fabric && g.step == rd s E.step_counter) = [] := by
    rw [List.filter_eq_nil_iff]
    intro g member named
    simp only [Bool.and_eq_true, beq_iff_eq] at named
    have later := alone.groups g member named.1.2
    omega
  have role : rd (boundaryMarked s) E.twin_role = 0 := by
    refine (rd_wr_other _ (by decide) _).trans ?_
    rw [is]
    exact alone.role
  rw [boundaryPrepared, groups, none_, List.map_nil, List.foldl_nil, commitRecord, if_pos (by rw [role]; decide)]

theorem fallBoundary_eq (alone : Alone s) : fallBoundary s = compareDigests (stepIncrement (atBoundary s)) := by
  obtain ⟨m, p, f, is⟩ := latch_eq s (windowsWhere s (· == 1))
  have role : rd (boundaryMarked s) E.twin_role = 0 := by
    refine (rd_wr_other _ (by decide) _).trans ?_
    rw [is]
    exact alone.role
  have keeps : (boundaryMarked s).twin.handOver = false := by
    rw [boundaryMarked, is]
    exact alone.handOver
  have marked : { boundaryMarked s with twin := { (boundaryMarked s).twin with requests := [], completions := [], own := none } } = atBoundary s := by
    rw [boundaryMarked, atBoundary, is]
    rfl
  rw [fallBoundary_steps, boundaryPrepared_eq alone]
  dsimp only
  rw [role, if_neg (fun h : 0 = 2 ∧ _ => absurd h.1 (by decide)), marked, if_neg (show ¬(boundaryMarked s).twin.handOver = true by rw [keeps]; decide)]

theorem fallen_fallBoundary (alone : Alone s) : Fallen s (fallBoundary s) := by
  obtain ⟨low, own, -⟩ := completing_stepsEnded alone
  obtain ⟨-, -, -, bytes, entries⟩ := fields_atBoundary s
  have steady : Steady (noteHeld (atBoundary s) []) (stepsEnded s) := (steady_self _).endSteps
  have digests : compareDigests (stepIncrement (atBoundary s)) = stepIncrement (atBoundary s) := by
    have none_ : (stepIncrement (atBoundary s)).twin.own = none := by
      rw [stepIncrement_eq alone]
      exact own
    unfold compareDigests
    rw [none_]
  rw [fallBoundary_eq alone, digests, stepIncrement_eq alone]
  have reads {k : Nat} (counter : k ≠ E.step_counter) (calm : Calm k = true) (held : k ≠ E.ord_held) :
      rd { wr (stepsEnded s) E.step_counter (rd s E.step_counter + 1) with step := StepSt.init } k = rd (atBoundary s) k := by
    rw [show rd { wr (stepsEnded s) E.step_counter (rd s E.step_counter + 1) with step := StepSt.init } k =
      rd (wr (stepsEnded s) E.step_counter (rd s E.step_counter + 1)) k from rfl, rd_wr_other _ counter, steady.rd calm, noteHeld, rd_wr_other _ held]
    rfl
  refine ⟨rfl, rd_wr_same .., ?_, ?_, fun distinct w member small => ?_⟩
  · exact (reads (by decide) (by decide) (by decide)).trans (rd_wr_same ..)
  · exact (reads (by decide) (by decide) (by decide)).trans (entries _ (by decide))
  · rw [← winWord_latch distinct member s]
    unfold winWord
    rw [rdNat, rdNat, rdBytes_eq_map, rdBytes_eq_map]
    refine congrArg leNat (List.map_congr_left fun i inside => ?_)
    have := List.mem_range.1 inside
    exact (low _ (by unfold Mem.hbm; omega)).trans (bytes _)

/-! ## A child is missing (R608), and a failed step is left (R609) -/

theorem parentFails_root (root : rd s E.step_is_root = 1) (m : Msg) : parentFails s m = failStep s := if_pos root

/-- A parent that is not the root passes the loss on. -/
theorem parentFails_child (child : rd s E.step_is_root ≠ 1) (m : Msg) : parentFails s m =
    sendNotice { s with step := { s.step with reported := true } } 0x26 (rd s E.step_parent) 0 0 m.payload := if_neg child

theorem notices_sendNotice (s : State) (ty node w e : Nat) (d : List Byte) :
    ∃ q ∈ (sendNotice s ty node w e d).transport.notices, q.mtype = ty ∧ q.msg.dst = node ∧ q.msg.payload = d := by
  have sends := transport_of_still (still_sendMsg { s with transport := { s.transport with
    notices := s.transport.notices ++ [⟨s.transport.nextNotice, ty, deviceMsg s node s.transport.nextNotice w e d, 0⟩],
    nextNotice := (s.transport.nextNotice + 1) % 65536 } } ty (deviceMsg s node s.transport.nextNotice w e d))
  refine ⟨⟨s.transport.nextNotice, ty, deviceMsg s node s.transport.nextNotice w e d, 0⟩, ?_, rfl, rfl, rfl⟩
  rw [show sendNotice s ty node w e d = sendMsg _ ty (deviceMsg s node s.transport.nextNotice w e d) from rfl, sends]
  exact List.mem_append_right _ (.head _)

theorem step_sendNotice (s : State) (ty node w e : Nat) (d : List Byte) : (sendNotice s ty node w e d).step = s.step := by
  obtain ⟨l, n, sends⟩ := still_sendNotice s ty node w e d
  exact (step_of_still sends :)

theorem writable_stepResume : Writable E.step_resume ⟨0x6020, 1, 7, 7, 1, 1, .cmd, 1, false, 0⟩ :=
  ⟨by decide, by decide, by decide, by decide, by decide⟩

theorem stepResume_cases {via : Path} (serves : Serves s E.step_resume) :
    (s.step.failed = true → Accepts (.stepResume via (leBytes (dictSize E.step_resume) 1)) s E.step_resume { s with step := StepSt.init }) ∧
    (s.step.failed = false → exec (.stepResume via (leBytes (dictSize E.step_resume) 1)) s = .next (ended s E.step_resume 4)) := by
  have size : dictSize E.step_resume = 1 := by decide
  have runs : exec (.stepResume via (leBytes (dictSize E.step_resume) 1)) s = done s (access s (writeBytes via E.step_resume (leBytes 1 1)) stepResumeSem) := by
    rw [size]
    rfl
  have open_ : ¬HeldBack s via ⟨0x6020, 1, 7, 7, 1, 1, .cmd, 1, false, 0⟩ stepResumeSem := not_heldBack (by decide) rfl
  refine ⟨fun failed => trust_accepted runs serves writable_stepResume (by decide) open_ rfl (by decide) ?_ rfl rfl rfl, fun whole =>
    exec_badValue runs serves writable_stepResume open_ rfl (.inr ?_)⟩
  · show (1 == 1 && s.step.failed) = true
    rw [failed]
    rfl
  · show (1 == 1 && s.step.failed) = false
    rw [whole]
    rfl

end

theorem sendAnswer_step (u : State) (m : Msg) (ty : Nat) (p : List Byte) : (sendAnswer u m ty p).step = u.step := by
  obtain ⟨a, -, -, sends⟩ := still_sendAnswer u m ty p
  exact (step_of_still sends :)

/-- The windows that partitions hold do not depend on the counts of misses. -/
theorem windowsWhere_inc (s : State) (f : Nat → Bool) : windowsWhere (inc s E.cinch_miss_count) f = windowsWhere s f := by
  have same (k p : Nat) (apart : ∀ p < 32, k + 256 * p ≠ E.cinch_miss_count) (low : p < 32) : rd (inc s E.cinch_miss_count) (k + 256 * p) = rd s (k + 256 * p) :=
    rd_inc_other _ (apart p low)
  unfold windowsWhere
  refine congrArg List.flatten (List.map_congr_left fun p member => ?_)
  have low := List.mem_range.1 member
  rw [assigned, assigned, same E.part_state p (by decide) low, same E.part_window_count p (by decide) low, same E.part_window_first p (by decide) low]
  rfl

/-- Settles O45: the messages of a step go to their handlers; what the end of a step's commands leaves of the step, of the calm
entries and of the windows is proved once, for a failure and for the boundary. -/
theorem stepsAdvance : Obligations.StepsAdvance := by
  unfold Obligations.StepsAdvance
  intro s n status fails
  refine ⟨fun x k v hx hk next => stepend_cases hx hk next, fun m fresh => ⟨fun named child => ?arrives, fun other => ?late, fun named parent child whole =>
    ⟨fun kind quiet => ?releases, fun kind => ?failed⟩, ?notice⟩, ?boundary, fun c => ?missing, fun via serves => stepResume_cases serves⟩
  case arrives =>
    refine leads_handled (r := (takeArrive · m)) fresh (show 6 < 0x24 by decide) rfl (fun _ => rfl) (fun _ => rfl) (fun _ _ => takeArrive_early)
      (fun a l => ?_) fun _ _ h => h
    obtain ⟨arrived, mem, time⟩ := takeArrive_child (s := turned s a l) named child
    refine ⟨answers_sendAnswer _ _ _ _ time, ?_, (sendAnswer_mem ..).trans mem⟩
    rwa [sendAnswer_step]
  case late =>
    refine leads_handled (r := (takeArrive · m)) fresh (show 6 < 0x24 by decide) rfl (fun _ => rfl) (fun _ => rfl) (fun _ _ => takeArrive_early)
      (fun a l => ?_) fun _ _ h => h
    rw [takeArrive_other (s := turned s a l) other]
    exact ⟨answers_sendAnswer _ _ _ _ rfl, sendAnswer_step ..⟩
  case releases =>
    refine leads_handled (r := (takeRelease · m)) fresh (show 6 < 0x25 by decide) rfl (fun _ => rfl) (fun _ => rfl) (fun _ _ => takeRelease_early)
      (fun a l => ?_) fun _ _ h => h
    have kept := Progressed.releaseChildren (turned s a l) false
    have quiets : (takeRelease (turned s a l) m).1 = becomeQuiet (releaseChildren (turned s a l) false) := by
      rw [takeRelease_eq (s := turned s a l) ⟨named, parent, child, whole⟩, if_neg (by simpa [stepKind] using kind)]
      exact if_neg (by rw [show (turned s a l).step.quiescent = false from quiet]; decide)
    rw [quiets]
    refine ⟨answers_sendAnswer _ _ _ _ (kept.entries _ (by decide)), ?_, (sendAnswer_mem ..).trans kept.mem⟩
    rw [sendAnswer_step, becomeQuiet, step_releaseChildren, kept.entries E.cinch_mode (by decide)]
    rfl
  case failed =>
    refine leads_handled (r := (takeRelease · m)) fresh (show 6 < 0x25 by decide) rfl (fun _ => rfl) (fun _ => rfl) (fun _ _ => takeRelease_early)
      (fun a l => ?_) fun _ _ h => h
    have failed := stepFailed_failStep (turned s a l)
    rw [takeRelease_eq (s := turned s a l) ⟨named, parent, child, whole⟩, if_pos (show (stepKind m == 1) = true by simpa [stepKind] using kind)]
    exact ⟨(sendAnswer_step ..).trans failed.step, (rd_sendAnswer (by decide) ..).trans failed.count⟩
  case notice =>
    refine leads_handled (r := (takeNotice · m)) fresh (show 6 < 0x26 by decide) rfl (fun _ => rfl) (fun _ => rfl)
      (fun a l => takeNotice_entries.1) (fun a l => ?_) fun _ _ h => h
    obtain ⟨-, entries⟩ := takeNotice_entries (s := turned s a l) (m := m)
    obtain ⟨node, step, kind, time, count⟩ := rd_noticed (s := turned s a l) (m := m)
    have reads {k : Nat} (calm : Calm k = true) (other : k ≠ E.step_failed_count) : rd (sendAnswer (takeNotice (turned s a l) m).1 m 0x10 (statusBytes 0)) k =
        rd (noticed (turned s a l) m) k :=
      (rd_sendAnswer (of_decide_eq_true (Bool.and_eq_true_iff.1 calm).1) ..).trans (entries k calm other)
    refine ⟨(reads (by decide) (by decide)).trans node, (reads (by decide) (by decide)).trans step, (reads (by decide) (by decide)).trans kind,
      (reads (by decide) (by decide)).trans time, (reads (by decide) (by decide)).trans count, fun named child whole fresh' loud root => ?_⟩
    have failed := stepFailed_failStep (noticed (turned s a l) m)
    have same {k : Nat} (low : k < E.prn_node) : rd (noticed (turned s a l) m) k = rd s k := rd_noticed_other (s := turned s a l) low
    have due : (takeNotice (turned s a l) m).1 = failStep (noticed (turned s a l) m) := by
      refine takeNotice_eq.trans ((if_pos ⟨?_, ?_, ?_, ?_, ?_⟩).trans (parentFails_root ((same (by decide)).trans root) m))
      · exact named.trans (same (by decide)).symm
      · rw [stepChildren_noticed]
        exact List.contains_iff_mem.2 child
      · rw [show (noticed (turned s a l) m).step = s.step from rfl, whole]
        rfl
      · rw [show (noticed (turned s a l) m).step = s.step from rfl, fresh']
        rfl
      · rw [show (noticed (turned s a l) m).step = s.step from rfl, loud]
        rfl
    rw [due]
    refine ⟨(sendAnswer_step ..).trans failed.step, (rd_sendAnswer (by decide) ..).trans (failed.count.trans ?_)⟩
    rw [same (by decide)]
  case boundary =>
    intro waits alone falls
    have waiting : boundaryWaits s = true ↔ waits := by simp [boundaryWaits, waits, and_assoc]
    have plain : exec .stepBoundary s = done s (if boundaryWaits s && !s.step.cinch then fallBoundary s else s) := rfl
    have cinched : exec .cinchHoldExpiry s = done s (if boundaryWaits s && s.step.cinch then fallBoundary (inc s E.cinch_miss_count) else s) := rfl
    refine ⟨fun no => ⟨?_, ?_⟩, fun yes cinch => ?_, fun yes cinch => ?_, fun yes cinch single => ?_, fun yes cinch single => ?_⟩
    · rw [Bool.eq_false_iff.2 (mt waiting.1 no), Bool.false_and, if_neg (by decide)] at plain
      exact plain
    · rw [Bool.eq_false_iff.2 (mt waiting.1 no), Bool.false_and, if_neg (by decide)] at cinched
      exact cinched
    · rw [cinch, Bool.not_true, Bool.and_false, if_neg (by decide)] at plain
      exact plain
    · rw [cinch, Bool.and_false, if_neg (by decide)] at cinched
      exact cinched
    · obtain ⟨groups, role, stays, held, steps⟩ := single
      rw [waiting.2 yes, cinch, if_pos (by decide)] at plain
      have fallen := fallen_fallBoundary ⟨groups, role, stays, held, steps⟩
      exact leads_of_effect plain ⟨fallen.step, fallen.counter, fallen.time, fallen.windows⟩ fun _ _ h => h
    · obtain ⟨groups, role, stays, held, steps⟩ := single
      rw [waiting.2 yes, cinch, if_pos (by decide)] at cinched
      have same {k : Nat} (other : k ≠ E.cinch_miss_count) : rd (inc s E.cinch_miss_count) k = rd s k := rd_inc_other _ other
      have fallen := fallen_fallBoundary (s := inc s E.cinch_miss_count) ⟨fun g member fabric => by
        rw [same (by decide)]
        exact groups g member fabric, (same (by decide)).trans role, stays, held, steps⟩
      have windows : windowsWhere (inc s E.cinch_miss_count) (· == 1) = windowsWhere s (· == 1) := windowsWhere_inc ..
      refine leads_of_effect cinched ⟨⟨fallen.step, fallen.counter.trans ?_, fallen.time.trans ?_, fun distinct w member => ?_⟩, fallen.misses.trans ?_⟩ fun _ _ h => h
      · rw [same (by decide)]
      · rw [now, same (by decide)]
        rfl
      · exact fallen.windows (windows ▸ distinct) w (windows ▸ member)
      · exact rd_inc_same ..
  case missing =>
    intro due
    have runs : exec (.stepTimeout c) s = done s (stepTimeout s c) := rfl
    have idle : (s.step.failed ∨ s.step.reported ∨ s.step.quiescent ∨ s.step.arrived.contains c ∨ !(stepChildren s).contains c ∨ reachable s c) ↔ ¬due := by
      simp only [due, List.contains_iff_mem, Bool.not_eq_true', ← Bool.not_eq_true]
      tauto
    refine ⟨fun no => ?_, fun yes root => ?_, fun yes child => ?_⟩
    · rw [Stays, runs, stepTimeout, if_pos (idle.2 no)]
      rfl
    · have failed := stepFailed_failStep s
      rw [stepTimeout, if_neg fun h => idle.1 h yes, parentFails_root root] at runs
      exact leads_of_effect runs ⟨failed.step, failed.count⟩ fun _ _ h => h
    · rw [stepTimeout, if_neg fun h => idle.1 h yes, parentFails_child child] at runs
      exact leads_of_effect runs ⟨step_sendNotice .., (Progressed.sendNotice ..).mem, notices_sendNotice ..⟩ fun _ _ h => h

end Sys2Proof.Machine
end

section
/-! SUPPORT. A remote write that reaches a landing range (R164 to R166). -/

namespace Sys2Proof.Machine

open Sys2Proof

/-! ## A landing range whose window lies beyond the table (R165, R166, R578) -/

/-- A byte for the first landing range of core 0, with the credit of one unit. -/
def strayWrite : RemoteWr := ⟨0, 1, 0, 0, 0, [1], none⟩

/-- The first 64 KiB of core 0 are a landing range of window 2^20, whose context would stand behind the table, and is OPEN with a
limit of five credits. -/
def beyondState : State :=
  let s := { State.reset with
    supply := { State.reset.supply with mainOn := true }
    sectors := [(0, { Sector.init with landing := [⟨0, 0, 2 ^ 20, 0, false⟩] })] }
  setWinWord (setWinWord s (2 ^ 20) 0 (2 ^ 62)) (2 ^ 20) 4 5

/-- Refutes O43: in `beyondState` the new credit of the window goes into its context at 64 · 2^20, outside the 2^26 bytes that the
statement leaves to contexts (it does not ask that the window of a landing range is one of the 2^20 that exist). -/
theorem not_remoteWritesLand : ¬ Obligations.RemoteWritesLand := by
  unfold Obligations.RemoteWritesLand
  intro lands
  obtain ⟨-, -, -, -, stores, -⟩ := lands beyondState strayWrite (by decide)
  obtain ⟨t, runs, -, -, frame⟩ := stores ⟨⟨by decide +kernel, by decide +kernel⟩, by decide +kernel, by decide +kernel, by decide +kernel⟩ (by decide) rfl
  have granted : (match exec (.remoteWrite strayWrite) beyondState with
      | .next t => rdByte t (2 ^ 26 + 36)
      | _ => 0) = 5 := by decide +kernel
  have before : rdByte (settleMem beyondState (Mem.onchip 0 0 0)) (2 ^ 26 + 36) = 0 := by decide +kernel
  rw [runs] at granted
  exact absurd (granted.symm.trans ((frame (2 ^ 26 + 36) (by decide) (.inl (by decide))).trans before)) (by decide)

end Sys2Proof.Machine
end

section
/-! SUPPORT. The follower of a pair (R622 to R632). -/

namespace Sys2Proof.Machine

open Sys2Proof

/-! ## What leaves the twin's record and the entries of a pair alone -/

section
variable (s : State)

theorem still_sendHello (p : Nat) : still (sendHello s p) = still s := (still_emit _ _).trans (still_sendFlits ..)

theorem still_advertiseTo (p : Nat) : still (advertiseTo s p) = still s := by
  unfold advertiseTo
  split
  · rfl
  · refine (foldl_keeps still (fun t d => ?_) _ _).trans (still_computeRoute s _)
    split
    · rfl
    · exact still_emit t _

theorem twin_postEvent (p etype status core detail : Nat) : (postEvent s p etype status core detail).twin = s.twin := by
  unfold postEvent
  dsimp only
  split
  · rfl
  · exact (twin_of_still (still_signalVector ..)).trans rfl

/-- The twin's record and every calm entry are as before. -/
structure TwinKept (s t : State) : Prop where
  twin : t.twin = s.twin
  entries : ∀ k, Calm k = true → rd t k = rd s k

end

namespace TwinKept
variable {t u : State} {α : Type}

theorem refl (s : State) : TwinKept s s := ⟨rfl, fun _ _ => rfl⟩

theorem trans (h : TwinKept s t) (h' : TwinKept t u) : TwinKept s u :=
  ⟨h'.twin.trans h.twin, fun k calm => (h'.entries k calm).trans (h.entries k calm)⟩

theorem foldl {f : State → α → State} (step : ∀ u a, TwinKept u (f u a)) (l : List α) (s : State) : TwinKept s (l.foldl f s) :=
  List.foldlRecOn (motive := TwinKept s) l f (refl s) fun u kept a _ => kept.trans (step u a)

theorem of_still (same : still t = still s) (entries : ∀ k < E.nd_count, rd t k = rd s k) : TwinKept s t :=
  ⟨twin_of_still same, fun k calm => entries k (of_decide_eq_true (Bool.and_eq_true_iff.1 calm).1)⟩

theorem sendMsg (s : State) (ty : Nat) (m : Msg) : TwinKept s (sendMsg s ty m) := of_still (still_sendMsg ..) fun _ low => rd_sendMsg s low ty m

theorem sendHello (s : State) (p : Nat) : TwinKept s (sendHello s p) :=
  of_still (still_sendHello s p) fun _ low => rd_sendFlits s (low.trans (by decide)) ..

theorem advertiseTo (s : State) (p : Nat) : TwinKept s (advertiseTo s p) :=
  of_still (still_advertiseTo s p) fun k _ => rd_congr (advertiseTo_keeps (s := s) p).1 k

theorem postEvent (s : State) (p etype status core detail : Nat) : TwinKept s (postEvent s p etype status core detail) :=
  ⟨twin_postEvent .., fun _ calm => (steady_self s).postEvent.rd calm⟩

theorem resendAll (s : State) : TwinKept s (resendAll s) :=
  (foldl (fun _ _ => foldl (fun _ _ => sendMsg ..) ..) ..).trans (foldl (fun _ _ => sendMsg ..) ..)

end TwinKept

/-! ## Records of the leader (R622 to R627) -/

section
variable {s : State}

theorem inputRecord_of_stranger (role : rd s E.twin_role ≠ 2) (n : Nat) (r : InputRec) : inputRecord s n r = s := if_pos role

theorem inputRecord_of_mirror (role : rd s E.twin_role = 2) (mode : rd s E.twin_mode = 1) (n : Nat) (r : InputRec) :
    inputRecord s n r = ackYoke (takeInput s r) n := (if_neg (fun no => no role)).trans (if_pos mode)

theorem inputRecord_of_standby (role : rd s E.twin_role = 2) (mode : rd s E.twin_mode = 2) (n : Nat) (r : InputRec) : inputRecord s n r =
    ackYoke { s with twin := { s.twin with inputs := s.twin.inputs ++ [(n, r)] } } n :=
  (if_neg (fun no => no role)).trans (if_neg (by rw [mode]; decide))

theorem rdByte_hbmStore (s : State) (a : Nat) (d : List Byte) {b : Nat} (outside : b < a ∨ a + d.length ≤ b) :
    rdByte (hbmStore s a d) b = rdByte s b := by
  obtain ⟨v, same⟩ := hbmStore_eq (s := s) a d
  rw [same]
  show rdByte (wrBytes s a d) b = _
  rw [rdByte_wrBytes, if_neg (by omega)]

theorem putGranule_hbm {e : Nat × List Byte} (low : e.1 < 2 ^ 38) (s : State) : putGranule s e = hbmStore s e.1 e.2 := if_pos low

/-- A mirror follower that has the leader's digest of a step. -/
def heardCommit (s : State) (n : Nat) (d : List Byte) : State := ackYoke { s with twin := { s.twin with commit := some (n, d) } } n

/-- A follower whose digest of a step differs from the leader's, before it detaches (R626). -/
def diverged (u : State) (n : Nat) (own leader : List Byte) : State :=
  inc (wr (wr (wr { u with twin := { u.twin with own := none, commit := none } } E.td_step n) E.td_leader_digest (leNat leader))
    E.td_follower_digest (leNat own)) E.td_count

section
variable {n : Nat} {d e : List Byte} (own : s.twin.own = some (n, e))
include own

theorem compareDigests_differ (differ : e ≠ d) :
    compareDigests (heardCommit s n d) = detachTwin (diverged (heardCommit s n d) n e d) 2 := by
  have has : (heardCommit s n d).twin.own = some (n, e) := own
  unfold compareDigests
  rw [has, show (heardCommit s n d).twin.commit = some (n, d) from rfl]
  dsimp only
  rw [if_neg (fun no => no rfl), if_neg differ]
  rfl

theorem compareDigests_agree (agree : e = d) : compareDigests (heardCommit s n d) =
    { heardCommit s n d with twin := { (heardCommit s n d).twin with own := none, commit := none } } := by
  have has : (heardCommit s n d).twin.own = some (n, e) := own
  unfold compareDigests
  rw [has, show (heardCommit s n d).twin.commit = some (n, d) from rfl]
  dsimp only
  rw [if_neg (fun no => no rfl), if_pos agree]

end

section
variable {n : Nat} {ds : List (Nat × Nat)} {d : List Byte}

theorem commitRecordIn_of_mirror (role : rd s E.twin_role = 2) (mode : rd s E.twin_mode = 1) : commitRecordIn s n ds d =
    (if rd (compareDigests (heardCommit s n d)) E.twin_role = 2 ∧ n = rd (compareDigests (heardCommit s n d)) E.step_counter ∧
        localQuiet (compareDigests (heardCommit s n d)) ∧ !(compareDigests (heardCommit s n d)).step.quiescent
      then fallBoundary (becomeQuiet (compareDigests (heardCommit s n d))) else compareDigests (heardCommit s n d)) :=
  (if_neg (fun no => no role)).trans (if_pos mode)

/-- A mirror follower that differs from its leader detaches (R626). -/
theorem commitRecordIn_differ {e : List Byte} (role : rd s E.twin_role = 2) (mode : rd s E.twin_mode = 1)
    (own : s.twin.own = some (n, e)) (differ : e ≠ d) :
    commitRecordIn s n ds d = detachTwin (diverged (heardCommit s n d) n e d) 2 := by
  rw [commitRecordIn_of_mirror role mode, compareDigests_differ own differ, if_neg (fun both => ?_)]
  have detached : rd (detachTwin (diverged (heardCommit s n d) n e d) 2) E.twin_role = 3 := detachTwin_role ..
  rw [detached] at both
  exact absurd both.1 (by decide)

/-- The record of a step that is not the present one ends the comparison of an equal digest (R626). -/
theorem commitRecordIn_agree (role : rd s E.twin_role = 2) (mode : rd s E.twin_mode = 1) (own : s.twin.own = some (n, d))
    (past : n ≠ rd s E.step_counter) : commitRecordIn s n ds d =
      { heardCommit s n d with twin := { (heardCommit s n d).twin with own := none, commit := none } } := by
  rw [commitRecordIn_of_mirror role mode, compareDigests_agree own rfl, if_neg (fun both => past both.2.1)]

/-- A standby follower once it has applied the one delta of a step, which lies in HBM (R624, R627). -/
def caughtUp (s : State) (n : Nat) (ds : List (Nat × Nat)) (a : Nat) (g : List Byte) : State :=
  ackYoke (wr (wr { hbmStore s a g with
    commitLog := (hbmStore s a g).commitLog ++ ds.map fun d => ⟨none, d.1, n, d.2 == 0, now (hbmStore s a g)⟩
    twin := { (hbmStore s a g).twin with deltas := [], inputs := [] } } E.step_counter (n + 1)) E.twin_sequence n) n

theorem commitRecordIn_of_standby {a : Nat} {g : List Byte} (role : rd s E.twin_role = 2) (mode : rd s E.twin_mode = 2)
    (one : s.twin.deltas = [(a, g)]) (low : a < 2 ^ 38) : commitRecordIn s n ds d = caughtUp s n ds a g := by
  unfold commitRecordIn
  rw [if_neg (fun no => no role), if_neg (by rw [mode]; decide), one, List.foldl_cons, List.foldl_nil, putGranule_hbm low]
  rfl

theorem caughtUp_commitLog (a : Nat) (g : List Byte) : (caughtUp s n ds a g).commitLog =
    s.commitLog ++ ds.map fun d => ⟨none, d.1, n, d.2 == 0, now s⟩ := by
  obtain ⟨v, same⟩ := hbmStore_eq (s := s) a g
  unfold caughtUp
  rw [same]
  rfl

end

/-- A delta that a standby follower stages, or detaches for (R627). -/
theorem twinDelta_of_standby {a : Nat} {d : List Byte} (idle : s.twin.syncing ≠ some false) (role : rd s E.twin_role = 2)
    (mode : rd s E.twin_mode = 2) : twinDelta s a d =
      if rd s E.twin_delta_max_gib * 2 ^ 30 < (s.twin.deltas.map fun e => e.2.length).sum + d.length then detachTwin s 4
      else { s with twin := { s.twin with deltas := s.twin.deltas ++ [(a, d)] } } := by
  unfold twinDelta
  rw [if_neg idle, if_neg (by rw [role, mode]; decide)]
  dsimp only
  rw [List.map_append, List.sum_append]
  rfl

/-! ## The takeover (R630, R632) -/

/-- The survivor as it takes the lead, with nothing staged. -/
def takesLead (s : State) : State :=
  { wr (wr (wr s E.twin_generation (rd s E.twin_generation + 1)) E.twin_role 1) E.twin_last_takeover_time (now s) with
    twin := { s.twin with inputs := [], deltas := [], helloOnly := false, lost := true } }

/-- The survivor resends what it has no answer for, names itself to its neighbours, and tells its partitions. -/
theorem takeover_eq (pause : Nat) (nothing : rd s E.twin_mode = 1 ∨ s.twin.inputs = []) : ∃ u v, TwinKept (takesLead s) u ∧
    TwinKept (wr (inc u E.twin_takeover_count) E.twin_last_pause_us pause) v ∧ takeover s pause = refreshTwin v := by
  refine ⟨_, _, .trans ?resent (.foldl (fun t p => (TwinKept.sendHello t p).trans (.advertiseTo ..)) ((List.range 32).filter (portActive _)) _),
    .foldl (fun t p => .postEvent t ..) _ _, rfl⟩
  by_cases mode : rd s E.twin_mode = 1
  · rw [if_pos (beq_iff_eq.2 mode)]
    exact .resendAll _
  · have none_ : s.twin.inputs = [] := nothing.resolve_left mode
    rw [if_neg (mt beq_iff_eq.1 mode)]
    show TwinKept (takesLead s) (s.twin.inputs.foldl (fun t r => takeInput t r.2) (takesLead s))
    rw [none_]
    exact .refl _

/-- What the survivor's entries hold once it leads (R632). -/
theorem takeover_leads (pause : Nat) (nothing : rd s E.twin_mode = 1 ∨ s.twin.inputs = []) :
    rd (takeover s pause) E.twin_role = 1 ∧
    rd (takeover s pause) E.twin_generation = cut E.twin_generation (rd s E.twin_generation + 1) ∧
    rd (takeover s pause) E.twin_takeover_count = cut E.twin_takeover_count (rd s E.twin_takeover_count + 1) ∧
    rd (takeover s pause) E.twin_last_takeover_time = cut E.twin_last_takeover_time (now s) ∧
    rd (takeover s pause) E.twin_last_pause_us = cut E.twin_last_pause_us pause ∧ (takeover s pause).twin.helloOnly = false := by
  obtain ⟨u, v, early, late, takes⟩ := takeover_eq pause nothing
  rw [takes]
  have kept (k : Nat) (apart : k ≠ E.twin_state ∧ k ≠ E.twin_last_pause_us ∧ k ≠ E.twin_takeover_count ∧ Calm k = true := by decide) :
      rd (refreshTwin v) k = rd (takesLead s) k := by
    obtain ⟨state, us, count, calm⟩ := apart
    exact (rd_refreshTwin v state).trans ((late.entries k calm).trans ((rd_wr_other _ us _).trans ((rd_inc_other _ count).trans (early.entries k calm))))
  have count : rd u E.twin_takeover_count = rd s E.twin_takeover_count :=
    (early.entries _ (by decide)).trans ((rd_wr_other _ (by decide) _).trans ((rd_wr_other _ (by decide) _).trans (rd_wr_other _ (by decide) _)))
  refine ⟨(kept E.twin_role).trans ?_, (kept E.twin_generation).trans ?_, ?_, (kept E.twin_last_takeover_time).trans ?_, ?_, ?_⟩
  · exact (rd_wr_other _ (by decide) _).trans (rd_wr_same ..)
  · exact (rd_wr_other _ (by decide) _).trans ((rd_wr_other _ (by decide) _).trans (rd_wr_same ..))
  · rw [rd_refreshTwin v (by decide), late.entries _ (by decide), rd_wr_other _ (by decide), rd_inc_same, count]
  · exact rd_wr_same ..
  · rw [rd_refreshTwin v (by decide), late.entries _ (by decide)]
    exact rd_wr_same ..
  · exact congrArg Twin.helloOnly (late.twin.trans early.twin)

theorem twinTakeover_of_alone (role : rd s E.twin_role = 2) (lost : s.twin.lost = true) {p : Nat} (inside : p < 32)
    (active : portActive s p = true) (quiet pause : Nat) : twinTakeover s quiet pause =
      if !(pathPorts s (rd s E.node_id)).isEmpty then refreshTwin (detachTwin s 5)
      else if quiet < rd s E.step_fabric_diameter + 5 then s else takeover s pause := by
  refine if_neg ?_
  have some_ : (List.range 32).any (portActive s) = true := List.any_eq_true.2 ⟨p, List.mem_range.2 inside, active⟩
  rw [lost, some_, role]
  decide

theorem twinTakeover_of_other (other : ¬(rd s E.twin_role = 2 ∧ s.twin.lost = true ∧ ∃ p < 32, portActive s p = true)) (quiet pause : Nat) :
    twinTakeover s quiet pause = s := by
  refine if_pos ?_
  by_contra no
  simp only [not_or, ne_eq, Decidable.not_not, Bool.not_eq_true', Bool.not_eq_false, List.any_eq_true, List.mem_range] at no
  exact other no

end

/-! ## The statement -/

section
variable {s : State}

theorem detached_of (n : Instr) (u : State) (cause : Nat) (runs : exec n s = done s (refreshTwin (detachTwin u cause)) ∨ exec n s = done s (detachTwin u cause))
    (small : cut E.twin_detach_cause cause = cause) :
    Leads n s fun t => rd t E.twin_role = 3 ∧ rd t E.twin_detach_cause = cause ∧ t.twin.helloOnly = true := by
  rcases runs with runs | runs
  · refine leads_of_effect runs ⟨?_, ?_, rfl⟩ fun _ _ h => h
    · exact (rd_refreshTwin _ (by decide)).trans (detachTwin_role u cause)
    · exact (rd_refreshTwin _ (by decide)).trans ((detachTwin_cause u cause).trans small)
  · exact leads_of_effect runs ⟨detachTwin_role u cause, (detachTwin_cause u cause).trans small, rfl⟩ fun _ _ h => h

end

/-- Settles O49, record by record: a follower's records are rewritten by its role and mode, and a takeover keeps the entries of the
pair through what it sends and tells. -/
theorem twinFollows : Obligations.TwinFollows := by
  unfold Obligations.TwinFollows
  intro s
  refine ⟨fun n r => ⟨fun role => ?_, fun ⟨role, mode⟩ => ?_⟩, fun n a d ⟨role, mode⟩ inside => ?_,
    fun n x k r ⟨role, mode⟩ hx hk service unscrubbed known => ?_, fun n ds d role => ?_, fun n ds d e ⟨role, mode⟩ own differ => ?_,
    fun n ds d ⟨role, mode⟩ own past => ?_, fun n ds d a g ⟨role, mode⟩ one low => ?_, fun a d => ⟨fun copying low => ?_,
      fun idle other => ?_, fun idle ⟨role, mode⟩ full => ?_, fun idle ⟨role, mode⟩ fits => ?_⟩, fun role => ?_, fun role => ?_,
    fun one two => ?_, fun quiet pause => ⟨fun other => ?_, fun ⟨role, lost, p, hp, active⟩ heard => ?_,
      fun ⟨role, lost, p, hp, active⟩ unheard soon => ?_, fun ⟨role, lost, p, hp, active⟩ unheard late nothing => ?_⟩,
    fun src flow tseq ty a => ⟨fun role => ?_, fun role => ?_⟩, fun c key hc => ⟨fun role => ?_, fun role => ?_⟩⟩
  case refine_1 => exact stays_of_same (t := inputRecord s n r) rfl (inputRecord_of_stranger role n r)
  case refine_2 => exact congrArg (done s) (inputRecord_of_standby role mode n r)
  case refine_3 =>
    have takes : takeInput s (.bar2 a d) = hbmStore s a d := if_pos inside
    refine leads_of_effect (u := ackYoke (hbmStore s a d) n) ?_ ⟨rfl, rdBytes_hbmStore s a d, fun b out => rdByte_hbmStore s a d out⟩ fun _ _ h => h
    exact congrArg (done s) ((inputRecord_of_mirror role mode n _).trans (congrArg (ackYoke · n) takes))
  case refine_4 =>
    have takes : takeInput s (.slot x k r) = setRing s x k { ringOf s x k with queue := (ringOf s x k).queue ++ [freshTaken s r] } :=
      (if_pos ⟨hx, hk⟩).trans (takeRecord_eq service unscrubbed (List.contains_iff_mem.1 known))
    refine leads_of_effect (u := ackYoke (setRing s x k { ringOf s x k with queue := (ringOf s x k).queue ++ [freshTaken s r] }) n) ?_ ?_
      fun _ _ h => h
    · exact congrArg (done s) ((inputRecord_of_mirror role mode n _).trans (congrArg (ackYoke · n) takes))
    · refine ⟨rfl, ?_, rfl⟩
      show (ringOf (setRing s x k _) x k).queue.map Taken.record = _
      rw [ringOf_setRing, List.map_append]
      rfl
  case refine_5 => exact stays_of_same (t := commitRecordIn s n ds d) rfl (if_pos role)
  case refine_6 =>
    refine leads_of_effect (congrArg (done s) (commitRecordIn_differ role mode own differ)) ?_ fun _ _ h => h
    have kept (k : Nat) (apart : k ≠ E.twin_detach_cause ∧ k ≠ E.twin_role := by decide) :
        rd (detachTwin (diverged (heardCommit s n d) n e d) 2) k = rd (diverged (heardCommit s n d) n e d) k := by
      rw [rd_detachTwin, if_neg apart.1, if_neg apart.2]
    refine ⟨detachTwin_role .., detachTwin_cause .., (kept E.td_step).trans ?_, (kept E.td_leader_digest).trans ?_,
      (kept E.td_follower_digest).trans ?_, (kept E.td_count).trans ?_⟩
    · exact (rd_inc_other _ (by decide)).trans ((rd_wr_other _ (by decide) _).trans ((rd_wr_other _ (by decide) _).trans (rd_wr_same ..)))
    · exact (rd_inc_other _ (by decide)).trans ((rd_wr_other _ (by decide) _).trans (rd_wr_same ..))
    · exact (rd_inc_other _ (by decide)).trans (rd_wr_same ..)
    · refine (rd_inc_same _ _).trans (congrArg (fun v => cut E.td_count (v + 1)) ?_)
      exact (rd_wr_other _ (by decide) _).trans ((rd_wr_other _ (by decide) _).trans (rd_wr_other _ (by decide) _))
  case refine_7 =>
    exact leads_of_effect (congrArg (done s) (commitRecordIn_agree role mode own past)) ⟨rfl, role, rfl, rfl, rfl⟩ fun _ _ h => h
  case refine_8 =>
    refine leads_of_effect (congrArg (done s) (commitRecordIn_of_standby role mode one low)) ?_ fun _ _ h => h
    exact ⟨rfl, rdBytes_hbmStore s a g, (rd_wr_other _ (by decide) _).trans (rd_wr_same ..), rd_wr_same .., rfl, rfl, caughtUp_commitLog a g⟩
  case refine_9 =>
    refine leads_of_effect (u := hbmStore s a d) ?_ ⟨rdBytes_hbmStore s a d, fun b out => rdByte_hbmStore s a d out⟩ fun _ _ h => h
    exact congrArg (done s) ((if_pos copying).trans (putGranule_hbm low s))
  case refine_10 =>
    exact stays_of_same (t := twinDelta s a d) rfl ((if_neg idle).trans (if_pos (by
      simpa only [not_and_or] using other)))
  case refine_11 =>
    refine detached_of (.twinDelta a d) s 4 (.inr (congrArg (done s) ?_)) (by decide)
    exact (twinDelta_of_standby idle role mode).trans (if_pos full)
  case refine_12 => exact congrArg (done s) ((twinDelta_of_standby idle role mode).trans (if_neg (Nat.not_lt.2 fits)))
  case refine_13 => exact detached_of .twinLagExpiry s 3 (.inr (congrArg (done s) (if_pos role))) (by decide)
  case refine_14 =>
    refine leads_of_effect (congrArg (done s) ((if_neg (by rw [role]; decide)).trans (if_pos role))) ⟨?_, ?_, ?_⟩ fun _ _ h => h
    · exact congrArg Twin.lost (stepProgress_twin _)
    · exact (rd_stepProgress _ (by decide)).trans role
    · exact (Progressed.stepProgress _).mem
  case refine_15 => exact stays_of_same (t := lagExpiry s) rfl ((if_neg two).trans (if_neg one))
  case refine_16 => exact stays_of_same (t := twinTakeover s quiet pause) rfl (twinTakeover_of_other other quiet pause)
  case refine_17 =>
    refine detached_of (.twinTakeover quiet pause) s 5 (.inl (congrArg (done s) ?_)) (by decide)
    refine (twinTakeover_of_alone role lost hp active quiet pause).trans (if_pos ?_)
    rw [Bool.not_eq_true', List.isEmpty_eq_false_iff]
    exact heard
  case refine_18 =>
    refine stays_of_same (t := twinTakeover s quiet pause) rfl ((twinTakeover_of_alone role lost hp active quiet pause).trans ?_)
    rw [Decidable.not_not.1 unheard, if_pos soon]
    rfl
  case refine_19 =>
    refine leads_of_effect (u := takeover s pause) (congrArg (done s) ?_) (takeover_leads pause nothing) fun _ _ h => h
    refine (twinTakeover_of_alone role lost hp active quiet pause).trans ?_
    rw [Decidable.not_not.1 unheard, if_neg (Nat.not_lt.2 late)]
    rfl
  case refine_20 => exact stays_of_same (t := answerRecord s src flow tseq ty a) rfl (if_pos role)
  case refine_21 =>
    refine leads_of_effect (congrArg (done s) (if_neg (fun no => no role))) ⟨?_, rfl, rfl⟩ fun _ _ h => h
    exact List.getLast?_concat ..
  case refine_22 => exact stays_of_same (guarded_of (decide_eq_true hc) ..) (if_neg role)
  case refine_23 =>
    refine leads_of_effect ((guarded_of (decide_eq_true hc) ..).trans (congrArg (done s) (if_pos role))) ⟨?_, fun j other => ?_, rfl⟩ fun _ _ h => h
    · exact Tab.get_set_same none s.twin.noise c (some key.toNat)
    · exact Tab.get_set_other other none none s.twin.noise (some key.toNat)

end Sys2Proof.Machine
end

section
/-! SUPPORT. The end of a boot (R531, R793, R874). -/

namespace Sys2Proof.Machine

open Sys2Proof

/-! ## What a boot does with a granule that lies beyond the accumulators (R150, R180, R531) -/

/-- One byte of key k. -/
def beyondGranule (k : Nat) : Granule := ⟨k, [1], 0, []⟩

/-- A committed group that holds that byte. -/
def beyondGroup (k : Nat) : Group := ⟨none, 1, 0, false, 0, 4, 0, 0, [], [beyondGranule k], [], [], none, 0⟩

section
variable {w : State} {e k : Nat}

section
variable (beyond : Beyond e k) (flips : w.flips = [(k, 3)])
include beyond flips

theorem meetEdges_beyond : meetEdges w k 1 = loseWord { w with flips := Tab.set 0 w.flips k 0 } k := by
  have high : 2 ^ 41 ≤ k := Nat.le_trans (by decide) beyond.high
  have eight : wordBytes w k = 8 := if_pos (.inl high)
  have edges : (w.flips.filter fun f => decide (f.1 < k + 1 ∧ k < f.1 + wordBytes w f.1 ∧
      (f.1 < k ∨ k + 1 < f.1 + wordBytes w f.1))) = [(k, 3)] := by
    rw [flips, List.filter_cons_of_pos, List.filter_nil]
    simp only [eight, decide_eq_true_eq]
    omega
  unfold meetEdges
  rw [edges]
  exact meetWord_tile (k := k) (n := 3) high (by decide)

theorem showGranule_beyond : showGranule w (beyondGranule k) = wrBytes (loseWord { w with flips := Tab.set 0 w.flips k 0 } k) k [1] := by
  have high : ¬k < 2 ^ 38 := Nat.not_lt.2 (Nat.le_trans (by decide) beyond.high)
  have stores : storeAt w k [1] = wrBytes (meetEdges w k 1) k [1] := if_neg high
  rw [← meetEdges_beyond beyond flips, ← stores]
  rfl

/-- The byte is there, and the lost word has been reported. -/
theorem showGranule_reports : ∃ a b v, showGranule w (beyondGranule k) = wrBytes v k [1] ∧
    v.dict = (onchipUe w (e - E.onchip_uncorrectable_count) a b).dict ∧ v.recovery = w.recovery ∧ v.ports = w.ports ∧ v.host = w.host := by
  have high : 2 ^ 41 ≤ k := Nat.le_trans (by decide) beyond.high
  obtain ⟨a, b, lost⟩ := loseWord_tile (u := { w with flips := Tab.set 0 w.flips k 0 }) (k := k) high
  rw [beyond.sector] at lost
  refine ⟨a, b, _, showGranule_beyond beyond flips, ?_⟩
  rw [lost]
  obtain ⟨-, -, rest⟩ := onchipUe_rest { mark { w with flips := Tab.set 0 w.flips k 0 } k with freeCtr := w.freeCtr + 1 }
    (e - E.onchip_uncorrectable_count) a b
  exact ⟨onchipUe_dict rfl .., rest⟩

/-- The group settled: the lost word has been reported, and counts of groups are written. -/
theorem bootGroups_beyond (groups : w.groups = [beyondGroup k]) : ∃ a b u, bootGroups w [] = noteGroups u ∧
    u.dict = (onchipUe w (e - E.onchip_uncorrectable_count) a b).dict ∧ u.recovery = w.recovery ∧ u.ports = w.ports ∧ u.host = w.host := by
  obtain ⟨a, b, v, shown, reports⟩ := showGranule_reports beyond flips
  have live : (w.groups.filter fun g => !(g.opener.isNone && ([] : List Nat).contains g.id)) = [beyondGroup k] := by
    rw [groups]
    rfl
  refine ⟨a, b, { wrBytes v k [1] with resolved := Tab.set none (wrBytes v k [1]).resolved 1 (some (0, 0, 0)), groups := [] }, ?_, reports⟩
  rw [← shown]
  unfold bootGroups
  rw [live]
  rfl

end

theorem rd_noteGroups_other {u : State} {k : Nat} (other : k ≠ E.sg_records_used ∧ k ≠ E.sg_staging_used_bytes) : rd (noteGroups u) k = rd u k :=
  (rd_wr_other _ other.2 _).trans (rd_wr_other _ other.1 _)

end

/-! ## The rest of a boot (R793, R874) -/

/-- The steps of a boot before the groups: the domains are ON, and the window table is clear. -/
def unitsCleared (s : State) : State :=
  let s := (List.range 40).foldl (fun t d => setDomain t d 0) s
  let s := wr (pkeWipe s) E.pacer_lock_status (2 ^ 32 - 1)
  clearWindows { s with
    power := { s.power with routersOff := 0, deep := 0, owes713 := false, waking := 0, padWait := 0 }
    recovery := { s.recovery with deferred := none } }

/-- The steps of a boot after the groups. -/
def unitsBack (s : State) : State :=
  let s := (List.range 32).foldl (fun t x => (List.range 8).foldl (fun u k =>
    if rd u (E.ring_enable + ringAt x k) = 1 then ringReenable u x k else u) t) s
  [36, 37, 38].foldl portsOn (copyCrash (resumeScrubs s))

theorem bootUnits_eq (s : State) (l : List Nat) : bootUnits s l = unitsBack (bootGroups (unitsCleared s) l) := rfl

/-- No ring was enabled, no scrub was cut off, no record waits and no port was enabled. -/
structure NothingWaits (u : State) : Prop where
  rings : ∀ x < 32, ∀ k < 8, rd u (E.ring_enable + ringAt x k) ≠ 1
  scrubs : ∀ p < 32, rd u (E.part_state + 256 * p) ≠ 2
  crash : u.recovery.crashHeld = none
  ports : u.ports = []

theorem foldl_same {σ α : Type} {f : σ → α → σ} {s : σ} {l : List α} (same : ∀ a ∈ l, f s a = s) : l.foldl f s = s :=
  List.foldlRecOn (motive := fun t => t = s) l f rfl fun t is a member => by rw [is, same a member]

theorem unitsBack_of_nothing {u : State} (h : NothingWaits u) : unitsBack u = u := by
  have rings : (List.range 32).foldl (fun t x => (List.range 8).foldl (fun u k =>
      if rd u (E.ring_enable + ringAt x k) = 1 then ringReenable u x k else u) t) u = u :=
    foldl_same fun x hx => foldl_same fun k hk => if_neg (h.rings x (List.mem_range.1 hx) k (List.mem_range.1 hk))
  have scrubs : resumeScrubs u = u := foldl_same fun p hp => if_neg (h.scrubs p (List.mem_range.1 hp))
  have crash : copyCrash u = u := by
    unfold copyCrash
    rw [h.crash]
  have ports : [36, 37, 38].foldl portsOn u = u := foldl_same fun d _ => foldl_same fun p _ => by
    have off : (port u p).enabled = false := by
      unfold port
      rw [h.ports]
      rfl
    rw [off]
    rfl
  unfold unitsBack
  dsimp only
  rw [rings, scrubs, crash, ports]

/-- The entries that a boot with such a group writes beside its own. -/
def bootWritten (e : Nat) : List Nat := beyondWritten e ++ [E.sg_records_used, E.sg_staging_used_bytes]

/-- An entry that stands apart from those that the rest of a boot asks for. -/
structure Unasked (e : Nat) : Prop where
  groups : e ≠ E.sg_records_used ∧ e ≠ E.sg_staging_used_bytes
  rings : ∀ x < 32, ∀ k < 8, E.ring_enable + ringAt x k ∉ bootWritten e
  scrubs : ∀ p < 32, E.part_state + 256 * p ∉ bootWritten e

/-- The boot counts the lost word in entry e, and changes nothing of the entries that other words do not count in. -/
theorem bootUnits_beyond {s : State} {e k : Nat} (beyond : Beyond e k) (unasked : Unasked e) (flips : (unitsCleared s).flips = [(k, 3)])
    (groups : (unitsCleared s).groups = [beyondGroup k]) (waits : NothingWaits (unitsCleared s)) :
    rd (bootUnits s []) e = cut e (rd (unitsCleared s) e + 1) ∧
      (∀ j ∉ bootWritten e, rd (bootUnits s []) j = rd (unitsCleared s) j) ∧ (bootUnits s []).host = (unitsCleared s).host := by
  obtain ⟨a, b, u, settles, dict, recovery, ports, host⟩ := bootGroups_beyond beyond flips groups
  obtain ⟨counted, others⟩ := rd_onchipUe_beyond beyond.above (unitsCleared s) a b
  have same : ∀ j ∉ bootWritten e, rd (noteGroups u) j = rd (unitsCleared s) j := fun j other => by
    have apart := other
    rw [bootWritten, List.mem_append, not_or] at apart
    obtain ⟨report, counts⟩ := apart
    simp only [List.mem_cons, List.not_mem_nil, or_false, not_or] at counts
    rw [rd_noteGroups_other counts, rd_congr dict, others j report]
  have still : NothingWaits (noteGroups u) := by
    refine ⟨fun x hx k hk => ?_, fun p hp => ?_, (congrArg Recovery.crashHeld recovery).trans waits.crash, ports.trans waits.ports⟩
    · rw [same _ (unasked.rings x hx k hk)]
      exact waits.rings x hx k hk
    · rw [same _ (unasked.scrubs p hp)]
      exact waits.scrubs p hp
  rw [bootUnits_eq, settles, unitsBack_of_nothing still]
  exact ⟨(rd_noteGroups_other unasked.groups).trans ((rd_congr dict e).trans counted), same, host⟩

/-! ## What follows the units -/

theorem exec_bootReady (s : State) (r : BootReport) : exec (.bootReady r) s = done s (bootReady s r) := rfl

theorem rd_waiting (u : State) (q : List Instr) (k : Nat) : rd { u with pending := q } k = rd u k := rfl

theorem rd_release_none {u : State} {d : Nat} (none_ : u.host.stalled.filter (·.domain == d) = []) (k : Nat) : rd (release u d) k = rd u k := by
  unfold release releaseWith
  rw [none_]
  rfl

theorem stalled_signalVector (s : State) (v : Nat) : (signalVector s v).host.stalled = s.host.stalled := by
  unfold signalVector
  split
  · rfl
  · split
    · rfl
    · unfold msixSend
      dsimp only
      split <;> rfl

theorem stalled_setAlert (s : State) (b : Nat) : (setAlert s b).host.stalled = s.host.stalled := by
  unfold setAlert alertEdge
  split
  · exact stalled_signalVector ..
  · rfl

/-! ## A boot that takes the device out of service unasked -/

/-- A key beyond the accumulators whose lost words count in `out_of_service`. -/
def serviceKey : Nat := 2 ^ 42 + 25 * (E.out_of_service - E.onchip_uncorrectable_count) * 65536

theorem beyond_serviceKey : Beyond E.out_of_service serviceKey := ⟨by decide, by decide, by decide⟩

theorem unasked_outOfService : Unasked E.out_of_service := ⟨by decide, by decide +kernel, by decide +kernel⟩

/-- A boot is due with the main stage on, and a committed group holds one byte beyond the accumulators, in a word that cannot be
corrected. -/
def beyondBoot : State :=
  { State.reset with
    dict := [(E.boot_state, 2), (E.escalation_limit, 5)]
    supply := { State.reset.supply with mainOn := true }
    flips := [(serviceKey, 3)]
    groups := [beyondGroup serviceKey] }

/-- The boot before its units. -/
def beyondBooted : State :=
  let s := escalate (restoreSave (inc beyondBoot E.boot_count))
  wr (dropAllKeys (noteXlat { s with xlat := [], windows := [], transport := { s.transport with holdoff := true } })) E.boot_state 3

theorem bootReady_beyond : bootReady beyondBoot ⟨[]⟩ = release (refreshAlert (tellReset (bootUnits beyondBooted []))) 40 := by
  unfold bootReady
  rw [if_neg (by decide +kernel)]
  dsimp only
  rw [if_neg (by decide +kernel), if_pos (by decide +kernel)]
  rfl

/-- What the boot reads of the cleared machine. -/
theorem beyondCleared_reads : (unitsCleared beyondBooted).dict =
      [(E.pacer_lock_status, 2 ^ 32 - 1), (E.boot_state, 3), (E.boot_count, 1), (E.escalation_limit, 5)] ∧
    (unitsCleared beyondBooted).flips = [(serviceKey, 3)] ∧ (unitsCleared beyondBooted).groups = [beyondGroup serviceKey] ∧
    (unitsCleared beyondBooted).recovery.crashHeld = none ∧ (unitsCleared beyondBooted).ports = [] ∧
    (unitsCleared beyondBooted).host.stalled = [] := by decide +kernel

/-- A machine whose dictionary is the cleared one's. -/
def beyondDict : State :=
  { State.reset with dict := [(E.pacer_lock_status, 2 ^ 32 - 1), (E.boot_state, 3), (E.boot_count, 1), (E.escalation_limit, 5)] }

theorem beyondDict_idle : (∀ x < 32, ∀ k < 8, rd beyondDict (E.ring_enable + ringAt x k) ≠ 1) ∧
    ∀ p < 32, rd beyondDict (E.part_state + 256 * p) ≠ 2 := by decide +kernel

/-- Refutes O52: in `beyondBoot` the boot shows the group's byte, which meets the lost word, and the count that it adds to is
`out_of_service` itself (the statement asks nothing of where the granules of groups lie). -/
theorem not_bootChain : ¬ Obligations.BootChain := by
  unfold Obligations.BootChain
  intro chain
  obtain ⟨-, ready⟩ := chain beyondBoot
  obtain ⟨-, leads⟩ := ready ⟨[]⟩
  obtain ⟨t, runs, -, -, -, -, -, -, serves⟩ := leads (by decide +kernel) (by decide +kernel)
  obtain ⟨inService, -⟩ := serves (by decide +kernel) rfl
  obtain ⟨entries, flips, groups, crash, noPorts, noneStalled⟩ := beyondCleared_reads
  have cleared (k : Nat) : rd (unitsCleared beyondBooted) k = rd beyondDict k := rd_congr entries k
  have waits : NothingWaits (unitsCleared beyondBooted) :=
    ⟨fun x hx k hk => (cleared _).symm ▸ beyondDict_idle.1 x hx k hk, fun p hp => (cleared _).symm ▸ beyondDict_idle.2 p hp, crash, noPorts⟩
  obtain ⟨counted, same, host⟩ := bootUnits_beyond beyond_serviceKey unasked_outOfService flips groups waits
  have quiet : tellReset (bootUnits beyondBooted []) = bootUnits beyondBooted [] := if_neg (by
    have unassigned : rd (bootUnits beyondBooted []) E.node_id_assigned = 0 := (same _ (by decide)).trans ((cleared _).trans (by decide))
    unfold advertises
    rw [unassigned]
    exact Bool.false_ne_true)
  have none_ : (refreshAlert (bootUnits beyondBooted [])).host.stalled.filter (·.domain == 40) = [] := by
    rw [refreshAlert, stalled_setAlert, host, noneStalled]
    rfl
  have one : rd (bootReady beyondBoot ⟨[]⟩) E.out_of_service = 1 := by
    rw [bootReady_beyond, quiet, rd_release_none none_, refreshAlert, rd_setAlert_other _ (by decide), counted, cleared]
    decide
  have zero : rd (bootReady beyondBoot ⟨[]⟩) E.out_of_service = 0 := by
    rw [← Host.Outcome.next.inj ((exec_bootReady ..).symm.trans runs), rd_waiting] at inService
    exact inService
  exact absurd (one.symm.trans zero) (by decide)

end Sys2Proof.Machine
end

section
/-! SUPPORT. Resets of pins and supplies (R871, R874). -/

namespace Sys2Proof.Machine

open Sys2Proof

/-! ## A recovery of the main stage that an external reset has taken the place of (R871, R874) -/

/-- A key beyond the accumulators whose lost words count in `last_reset_kind`. -/
def kindKey : Nat := 2 ^ 42 + 25 * (E.last_reset_kind - E.onchip_uncorrectable_count) * 65536

theorem beyond_kindKey : Beyond E.last_reset_kind kindKey := ⟨by decide, by decide, by decide⟩

theorem unasked_lastResetKind : Unasked E.last_reset_kind := ⟨by decide, by decide +kernel, by decide +kernel⟩

/-- An overvoltage holds the main stage off, an external reset has taken the place of its recovery, the boot's units wait for the stage,
and a committed group holds one byte beyond the accumulators, in a word that cannot be corrected. -/
def beyondHeld : State :=
  { State.reset with
    supply := { State.reset.supply with hold := .overvoltage, mrstDone := true, romOk := true, auxOk := true, aonHeld := false }
    pins := { State.reset.pins with mrstHigh := true, coolOk := true }
    recovery := { State.reset.recovery with deferred := some [] }
    flips := [(kindKey, 3)]
    groups := [beyondGroup kindKey] }

/-- The stage is on again, and nothing waits for it but the boot's units. -/
def stageOn (s : State) : State :=
  { s with supply := { s.supply with mainOn := true }, power := { s.power with waitMain := 0 } }

theorem enableMain_of_none {s : State} {l : List Nat} (none_ : s.power.waitMain = 0) (defers : s.recovery.deferred = some l) :
    enableMain s = bootUnits (stageOn s) l := by
  have units : runDeferred (stageOn s) = bootUnits (stageOn s) l := by
    unfold runDeferred
    rw [show (stageOn s).recovery.deferred = some l from defers]
  unfold enableMain
  dsimp only
  rw [none_]
  refine (foldl_same fun d _ => if_neg ?_).trans units
  show ¬(0 / 2 ^ d % 2 == 1) = true
  rw [Nat.zero_div]
  decide

/-- The hold has ended. -/
def beyondEnded : State := endHold (noteInputs beyondHeld 50000 12000)

/-- What the end of the hold reads of the machine. -/
theorem beyondEnded_reads : holdMet (noteInputs beyondHeld 50000 12000) 50000 12000 = true ∧
    (noteInputs beyondHeld 50000 12000).supply.mrstDone = true ∧ mayEnable beyondEnded 50000 12000 = true ∧
    beyondEnded.power.waitMain = 0 ∧ beyondEnded.recovery.deferred = some [] := by decide +kernel

/-- A recovery in whose place an external reset has been ends the hold, and enables the stage where it may (R871). -/
theorem supplyRecovery_of_taken {s : State} {main aux : Nat} (held : holdMet (noteInputs s main aux) main aux = true)
    (taken : (noteInputs s main aux).supply.mrstDone = true) (may : mayEnable (endHold (noteInputs s main aux)) main aux = true) :
    supplyRecovery s main aux = enableMain (endHold (noteInputs s main aux)) := by
  unfold supplyRecovery
  dsimp only
  rw [if_pos held, if_pos taken, if_pos may]

theorem supplyRecovery_beyond : supplyRecovery beyondHeld 50000 12000 = bootUnits (stageOn beyondEnded) [] := by
  obtain ⟨held, taken, may, none_, defers⟩ := beyondEnded_reads
  exact (supplyRecovery_of_taken held taken may).trans (enableMain_of_none none_ defers)

/-- What the boot reads of the cleared machine. -/
theorem stageCleared_reads : (unitsCleared (stageOn beyondEnded)).dict = [(E.pacer_lock_status, 2 ^ 32 - 1)] ∧
    (unitsCleared (stageOn beyondEnded)).flips = [(kindKey, 3)] ∧ (unitsCleared (stageOn beyondEnded)).groups = [beyondGroup kindKey] ∧
    (unitsCleared (stageOn beyondEnded)).recovery.crashHeld = none ∧ (unitsCleared (stageOn beyondEnded)).ports = [] := by decide +kernel

/-- A machine whose dictionary is the cleared one's. -/
def stageDict : State := { State.reset with dict := [(E.pacer_lock_status, 2 ^ 32 - 1)] }

theorem stageDict_idle : (∀ x < 32, ∀ k < 8, rd stageDict (E.ring_enable + ringAt x k) ≠ 1) ∧
    ∀ p < 32, rd stageDict (E.part_state + 256 * p) ≠ 2 := by decide +kernel

theorem exec_supplyRecoveryReset (s : State) (main aux : Nat) : exec (.supplyRecoveryReset main aux) s = done s (supplyRecovery s main aux) := rfl

/-- Refutes O25: in `beyondHeld` the stage comes on again and the boot's units run, which show a committed group's byte in a word that is
lost; the count that it adds to is `last_reset_kind` (the statement asks nothing of where the granules of groups lie). -/
theorem not_pinsReset : ¬ Obligations.PinsReset := by
  unfold Obligations.PinsReset
  intro resets
  obtain ⟨-, -, recovers, -⟩ := resets beyondHeld
  obtain ⟨t, runs, -, kind⟩ := recovers 50000 12000 ⟨rfl, rfl⟩ (.inl ⟨rfl, by decide, by decide⟩)
  have before : rd t E.last_reset_kind = rd beyondHeld E.last_reset_kind := (if_pos (show beyondHeld.supply.mrstDone = true from rfl)).mp kind
  obtain ⟨entries, flips, groups, crash, noPorts⟩ := stageCleared_reads
  have cleared (k : Nat) : rd (unitsCleared (stageOn beyondEnded)) k = rd stageDict k := rd_congr entries k
  have waits : NothingWaits (unitsCleared (stageOn beyondEnded)) :=
    ⟨fun x hx k hk => (cleared _).symm ▸ stageDict_idle.1 x hx k hk, fun p hp => (cleared _).symm ▸ stageDict_idle.2 p hp, crash, noPorts⟩
  obtain ⟨counted, -⟩ := bootUnits_beyond beyond_kindKey unasked_lastResetKind flips groups waits
  have one : rd (supplyRecovery beyondHeld 50000 12000) E.last_reset_kind = 1 := by
    rw [supplyRecovery_beyond, counted, cleared]
    decide
  have zero : rd (supplyRecovery beyondHeld 50000 12000) E.last_reset_kind = 0 := by
    rw [← Host.Outcome.next.inj ((exec_supplyRecoveryReset ..).symm.trans runs), rd_waiting] at before
    exact before.trans (by decide)
  exact absurd (one.symm.trans zero) (by decide)

end Sys2Proof.Machine
end

section
/-! SUPPORT. Partitions (R754, R759). -/

namespace Sys2Proof.Machine

open Sys2Proof

/-! ## Accepted writes whose effect may meet the queue -/

section
variable {n : Instr} {s u : State} {via : Path} {k : Nat} {d : List Byte} {m : EntrySem} {w : DRow}

/-- A write that passes every check has its entry's effect, once the leader of a pair has forwarded it. -/
theorem exec_effect (runs : exec n s = done s (access s (writeBytes via k d) m)) (serves : Serves s k) (entry : Writable k w)
    (open_ : ¬HeldBack s via w m) (size : d.length = w.size) (good : ¬((w.typ = 7 ∧ 2 ≤ leNat d) ∨ m.rule s (leNat d) = false))
    (idle : m.idle s = true) (effect : m.eff (told s via k d) via (leNat d) = u) : exec n s = done s (ended u k 0) := by
  have checked := checks_good entry.write.1 entry.write.2 open_ size good
  rw [idle, if_pos rfl] at checked
  rw [runs, access_accepted serves entry.real entry.listed entry.row entry.keeps checked, effect]

end

/-! ## The rest of a scrub (R759) -/

/-- No unit holds anything that a scrub would end. -/
structure Bare (u : State) : Prop where
  laces : u.laces = []
  groups : u.groups = []
  keys : ∀ c, (core u c).keys = []
  windows : rd u E.part_window_count = 0
  handles : u.handles = []

section
variable {u : State}

theorem scrubUnits_bare (bare : Bare u) (p : Nat) : scrubUnits u p = u := by
  have lace (x : Nat) : laceStopSector u x = u := foldl_same fun r _ => by
    have none_ : (lace u r).members = [] := by
      unfold lace
      rw [bare.laces]
      rfl
    rw [none_, List.any_nil, Bool.and_false]
    rfl
  have contexts (c : Nat) : (if (core u c).keys.isEmpty then u else setCore u c { core u c with keys := [] }) = u := by
    rw [bare.keys]
    rfl
  unfold scrubUnits
  dsimp only
  rw [foldl_same fun x _ => lace x, foldl_same fun c _ => contexts c, bare.groups]
  rfl

theorem scrubFabric_bare (bare : Bare u) : scrubFabric u 0 = noteXlat { u with xlat := u.xlat.filter fun e => e.1 / 2 ^ 40 != 0 } := by
  unfold scrubFabric liveWindows
  dsimp only
  rw [show rd u (E.part_window_count + 256 * 0) = 0 from bare.windows]
  have none_ : (u.handles.filter fun h => h.2.part == 0 && h.2.state != 0) = [] := by rw [bare.handles]; rfl
  show dropXlat ((u.handles.filter fun h => h.2.part == 0 && h.2.state != 0).foldl (fun t h => setHandle t h.1 Handle.init) u) 0 = _
  rw [none_]
  rfl

/-- Entries that the later steps of a scrub write. -/
def scrubWritten : List Nat :=
  [E.xlat_entries_used, E.pke_job_state, E.pke_job_status, E.nr_mode, E.keysets_registered, E.key_store_used_bytes]

theorem rd_scrubPke {k : Nat} (other : k ≠ E.pke_job_state ∧ k ≠ E.pke_job_status) (u : State) (p : Nat) : rd (scrubPke u p) k = rd u k := by
  unfold scrubPke
  dsimp only
  split
  · exact (rd_wr_other _ other.1 _).trans (rd_wr_other _ other.2 _)
  · rfl

theorem rd_dropKeySets {k : Nat} (other : k ≠ E.keysets_registered ∧ k ≠ E.key_store_used_bytes) (u : State) (p : Nat) :
    rd (dropKeySets u p) k = rd u k := by
  unfold dropKeySets removeKeySets noteKeySets
  dsimp only
  have dict := foldl_keeps State.dict (fun t (e : KeySet) => zeroFill_dict t (65536 * e.base) (65536 * (e.base + e.units)))
    (u.keysets.filter fun e => e.part == p) u
  rw [rd_wr_other _ other.2, rd_wr_other _ other.1]
  exact rd_congr dict k

theorem scrubSector_dict (u : State) (x : Nat) : (scrubSector u x).dict = u.dict := by
  unfold scrubSector
  dsimp only
  rw [zeroFill_dict]
  refine foldl_keeps State.dict (fun t p => ?_) _ u
  rw [setCore_dict, zeroFill_dict, zeroFill_dict, zeroFill_dict, zeroFill_dict]

theorem clearLost_dict (u : State) (lo hi : Nat) : (clearLost u lo hi).dict = u.dict := by
  unfold clearLost
  split <;> rfl

/-- The units of a partition are left, and its key sets are gone. -/
def unitsLeft (u : State) (p : Nat) : State := dropKeySets (eraseReplay (scrubPke (scrubFabric (scrubUnits u p) p) p) p) p

/-- A partition's sectors are clear. -/
def sectorsLeft (u : State) (p : Nat) : State := (sectorsOf u p).foldl scrubSector u

/-- A partition's share is clear. -/
def shareLeft (s : State) (p : Nat) : State :=
  let s := zeroFill s (rd s (E.part_hbm_base + 256 * p)) (partEnd s p)
  clearLost s ((rd s (E.part_hbm_base + 256 * p) - 0x10000000) / 1024) ((partEnd s p - 0x10000000) / 1024)

theorem sectorsLeft_dict (u : State) (p : Nat) : (sectorsLeft u p).dict = u.dict := foldl_keeps State.dict scrubSector_dict _ u

theorem shareLeft_dict (u : State) (p : Nat) : (shareLeft u p).dict = u.dict := (clearLost_dict ..).trans (zeroFill_dict ..)

theorem rd_unitsLeft (bare : Bare u) {k : Nat} (other : k ∉ scrubWritten) : rd (unitsLeft u 0) k = rd u k := by
  simp only [scrubWritten, List.mem_cons, List.not_mem_nil, or_false, not_or] at other
  obtain ⟨xlat, job, status, replay, sets, store⟩ := other
  have erased (v : State) : rd (eraseReplay v 0) k = rd v k := rd_wr_other _ replay _
  have fabric : rd (scrubFabric (scrubUnits u 0) 0) k = rd u k := by
    rw [scrubUnits_bare bare, scrubFabric_bare bare]
    exact rd_wr_other _ xlat _
  rw [unitsLeft, rd_dropKeySets ⟨sets, store⟩, erased, rd_scrubPke ⟨job, status⟩, fabric]

/-- A scrub before its rings. -/
def scrubBegun (s : State) (p : Nat) (free : Bool) : State :=
  let s := wr (wr s (E.part_state + 256 * p) 2) (E.part_status + 256 * p) 1
  let s := { s with island := { s.island with scrubs := Tab.set none s.island.scrubs p (some ⟨free⟩) } }
  setReleases s (s.island.releases.filter (·.part != p))

/-- The steps of a scrub after the rings. -/
def scrubRest (u : State) (p : Nat) : State := stepProgress (shareLeft (sectorsLeft (unitsLeft u p) p) p)

theorem scrubStart_eq (s : State) (p : Nat) (free : Bool) :
    scrubStart s p free = scrubRest ((sectorsOf (scrubBegun s p free) p).foldl scrubRings (scrubBegun s p free)) p := rfl

theorem rd_scrubRest (bare : Bare u) {k : Nat} (low : k < E.nd_count) (other : k ∉ scrubWritten) : rd (scrubRest u 0) k = rd u k := by
  rw [scrubRest, rd_stepProgress _ low, rd_congr (shareLeft_dict ..), rd_congr (sectorsLeft_dict ..), rd_unitsLeft bare other]

end

/-! ## A scrub that halts a core whose line is on its way -/

/-- Core 0 alone runs, with such a line on its way and no unit that holds anything. -/
structure Lone (u : State) (k : Nat) : Prop where
  stray : Stray u k
  runs : (core u 0).running = true
  others : ∀ c, c ≠ 0 → (core u c).running = false
  unbound : (core u 0).bound = none
  keys : ∀ c, (core u c).keys = []
  sectors : u.sectors = []
  groups : u.groups = []
  laces : u.laces = []
  handles : u.handles = []

section
variable {u : State} {e k : Nat}

theorem ringOf_none (none_ : u.sectors = []) (x j : Nat) : ringOf u x j = Ring.init := by
  unfold ringOf sector
  rw [none_]
  rfl

theorem setRing_none (none_ : u.sectors = []) (x j : Nat) : setRing u x j Ring.init = u := by
  have is : sector u x = Sector.init := by
    unfold sector
    rw [none_]
    rfl
  unfold setRing
  rw [is]
  have same : { Sector.init with rings := Tab.set Ring.init Sector.init.rings j Ring.init } = Sector.init := by
    rw [show Tab.set Ring.init Sector.init.rings j Ring.init = [] from if_pos rfl]
    rfl
  rw [same]
  unfold setSector
  rw [show Tab.set Sector.init u.sectors x Sector.init = u.sectors by rw [none_]; exact if_pos rfl]

theorem abortStarter_none (none_ : u.sectors = []) (x c st : Nat) : abortStarter u x c st = u :=
  foldl_same fun j _ => by
    rw [ringOf_none none_]
    exact setRing_none none_ x j

theorem settleStarts_none (none_ : u.sectors = []) (x : Nat) : settleStarts u x = u :=
  foldl_same fun j _ => by
    rw [ringOf_none none_]
    rfl

theorem settleGroups_none (none_ : u.sectors = []) (groups : u.groups = []) : settleGroups u = u := by
  unfold settleGroups
  dsimp only
  rw [groups, List.foldl_nil, none_]
  rfl

/-- The core once its program has ended and nothing else has changed. -/
def haltedAt (u : State) (st : Nat) : State :=
  onCore u 0 fun k => { k.leaveRings with
    running := false, halt := st, noiseKey := 0, block := none, pendBlock := none, waiting := 0, stopping := none
    passes := [], ops := [], xfers := [], grants := [], raised := [], ldpm := none, c2q := [], c2Stopped := 0 }

theorem leaveAborted_none {c : Nat} (unbound : (core u c).bound = none) : leaveAborted u c = u := by
  unfold leaveAborted
  rw [unbound]

/-- A program that ends where no command runs and no group is open leaves its core alone. -/
theorem haltCore_none {v : State} (flushed : flush u 0 = v) (unbound : (core v 0).bound = none) (sectors : v.sectors = []) (groups : v.groups = [])
    (st : Nat) : haltCore u 0 st = haltedAt v st := by
  have off : (core (haltedAt v st) 0).bound = none := by
    unfold haltedAt
    rw [core_onCore_same]
    exact unbound
  rw [show haltCore u 0 st = settleStarts (settleGroups (leaveAborted (haltedAt (flush u 0) st) 0)) 0 from rfl, flushed, leaveAborted_none off,
    settleGroups_none (u := haltedAt v st) sectors groups, settleStarts_none (u := haltedAt v st) sectors]

/-- The machine once the lost word has been reported. -/
@[irreducible] def strayTold (u : State) (e k a b : Nat) : State :=
  onchipUe { mark (strayMet u k) k with freeCtr := (strayMet u k).freeCtr + 1 } (e - E.onchip_uncorrectable_count) a b

theorem flush_lone (beyond : Beyond e k) (lone : Lone u k) : ∃ a b, flush u 0 = strayTold u e k a b := by
  have high : 2 ^ 41 ≤ k := Nat.le_trans (by decide) beyond.high
  obtain ⟨a, b, lost⟩ := loseWord_tile (u := strayMet u k) high
  rw [beyond.sector] at lost
  refine ⟨a, b, (flush_stray_eq beyond lone.stray).trans ?_⟩
  unfold strayTold
  exact lost

theorem onchipUe_units (u : State) (x a b : Nat) : (onchipUe u x a b).sectors = u.sectors ∧ (onchipUe u x a b).laces = u.laces ∧
    (onchipUe u x a b).handles = u.handles := ⟨rfl, rfl, rfl⟩

/-- What the report leaves of the machine. -/
theorem strayTold_rest (u : State) (e k a b : Nat) : (strayTold u e k a b).sectors = u.sectors ∧ (strayTold u e k a b).groups = u.groups ∧
    (strayTold u e k a b).laces = u.laces ∧ (strayTold u e k a b).handles = u.handles ∧ (strayTold u e k a b).cores = (strayGranted u k).cores := by
  obtain ⟨cores, groups, -⟩ := onchipUe_rest { mark (strayMet u k) k with freeCtr := (strayMet u k).freeCtr + 1 } (e - E.onchip_uncorrectable_count) a b
  obtain ⟨sectors, laces, handles⟩ := onchipUe_units { mark (strayMet u k) k with freeCtr := (strayMet u k).freeCtr + 1 }
    (e - E.onchip_uncorrectable_count) a b
  unfold strayTold
  exact ⟨sectors, groups, laces, handles, cores⟩

theorem bare_haltedAt (lone : Lone u k) (windows : rd (strayTold u e k a b) E.part_window_count = 0) (st : Nat) :
    Bare (haltedAt (strayTold u e k a b) st) := by
  obtain ⟨-, groups, laces, handles, cores⟩ := strayTold_rest u e k a b
  refine ⟨laces.trans lone.laces, groups.trans lone.groups, fun c => ?_, windows, handles.trans lone.handles⟩
  have granted (c : Nat) : (core (strayTold u e k a b) c).keys = [] := by
    rw [core_congr cores, strayGranted, core_onCore]
    split
    · exact lone.keys 0
    · exact lone.keys c
  unfold haltedAt
  rw [core_onCore]
  split
  · show (core (strayTold u e k a b) 0).keys.map _ = []
    rw [granted]
    rfl
  · exact granted c

theorem running_haltedAt (lone : Lone u k) (a b st c : Nat) : (core (haltedAt (strayTold u e k a b) st) c).running = false := by
  unfold haltedAt
  rw [core_onCore]
  split
  · rfl
  · rename_i other
    rw [core_congr (strayTold_rest u e k a b).2.2.2.2, strayGranted, core_onCore, if_neg other]
    exact lone.others c other

/-- The rings of sector 0 hold nothing, and core 0 alone is halted. -/
theorem scrubRings_lone (beyond : Beyond e k) (lone : Lone u k) : ∃ a b, scrubRings u 0 = haltedAt (strayTold u e k a b) 0x0405 := by
  obtain ⟨a, b, flushed⟩ := flush_lone beyond lone
  obtain ⟨sectors, groups, -⟩ := strayTold_rest u e k a b
  have unbound : (core (strayTold u e k a b) 0).bound = none := by
    rw [← flushed]
    exact (flush_stray beyond lone.stray).2.2.trans lone.unbound
  have halts := haltCore_none flushed unbound (sectors.trans lone.sectors) (groups.trans lone.groups) 0x0405
  refine ⟨a, b, ?_⟩
  have starters : (List.range 25).foldl (fun t p => if (core t (25 * 0 + p)).running then abortStarter t 0 (25 * 0 + p) 0x0405 else t) u = u :=
    foldl_same fun p _ => by
      rw [abortStarter_none lone.sectors, ite_self]
  have cores : (List.range 25).foldl (fun t p => if (core t (25 * 0 + p)).running then haltCore t (25 * 0 + p) 0x0405 else t) u =
      haltedAt (strayTold u e k a b) 0x0405 := by
    rw [show List.range 25 = 0 :: (List.range 24).map (· + 1) from rfl, List.foldl_cons, if_pos lone.runs, halts]
    exact foldl_same fun p _ => by
      rw [running_haltedAt lone]
      rfl
  have rings : (List.range 8).foldl (fun t j => (ringOf t 0 j).queue.foldl (fun v q => finishPlain v 0 j q 0x0405) t)
      (haltedAt (strayTold u e k a b) 0x0405) = haltedAt (strayTold u e k a b) 0x0405 := foldl_same fun j _ => by
    rw [ringOf_none (u := haltedAt (strayTold u e k a b) 0x0405) (sectors.trans lone.sectors)]
    rfl
  unfold scrubRings
  dsimp only
  rw [starters, cores, rings]

end

/-! ## A partition whose state is one too high -/

/-- A key beyond the accumulators whose lost words count in the state of partition 0. -/
@[irreducible] def partKey : Nat := 2 ^ 42 + 25 * (E.part_state - E.onchip_uncorrectable_count) * 65536

theorem beyond_partKey : Beyond E.part_state partKey := by
  unfold partKey
  exact ⟨by decide, by decide, by decide⟩

/-- Partition 0 is assigned, with sector 0, whose core 0 runs with such a line on its way. -/
def beyondPart : State :=
  { State.reset with
    dict := [(E.boot_state, 3), (E.part_state, 1), (E.part_sectors, 1)]
    flips := [(partKey, 3)]
    cores := [(0, { Core.init with running := true, grants := [strayLine partKey] })] }

/-- The partition before its rings are scrubbed. -/
def beyondScrubbed : State := scrubBegun beyondPart 0 true

theorem core_beyondScrubbed (c : Nat) : core beyondScrubbed c =
    if c = 0 then { Core.init with running := true, grants := [strayLine partKey] } else Core.init := by
  have cores : beyondScrubbed.cores = [(0, { Core.init with running := true, grants := [strayLine partKey] })] := rfl
  unfold core Tab.get
  rw [cores]
  unfold Tab.find? Tab.find?
  by_cases zero : c = 0
  · rw [if_pos zero, if_pos zero.symm]
    rfl
  · rw [if_neg zero, if_neg (Ne.symm zero)]
    rfl

theorem lone_beyondScrubbed : Lone beyondScrubbed partKey where
  stray := ⟨by rw [core_beyondScrubbed, if_pos rfl], rfl⟩
  runs := by rw [core_beyondScrubbed, if_pos rfl]
  others c other := by
    rw [core_beyondScrubbed, if_neg other]
    rfl
  unbound := by
    rw [core_beyondScrubbed, if_pos rfl]
    rfl
  keys c := by
    rw [core_beyondScrubbed]
    split <;> rfl
  sectors := rfl
  groups := rfl
  laces := rfl
  handles := rfl

theorem sectorsOf_beyond : sectorsOf beyondScrubbed 0 = [0] := by decide +kernel

theorem scrubStart_of_one {s : State} {p x : Nat} {free : Bool} (one : sectorsOf (scrubBegun s p free) p = [x]) :
    scrubStart s p free = scrubRest (scrubRings (scrubBegun s p free) x) p := by
  rw [scrubStart_eq, one, List.foldl_cons, List.foldl_nil]

theorem scrubStart_beyond : scrubStart beyondPart 0 true = scrubRest (scrubRings beyondScrubbed 0) 0 := scrubStart_of_one sectorsOf_beyond

theorem partSem_eff (s : State) (p v : Nat) (ok : Bool) (via : Path) :
    (partSem p ok).eff s via v = if v = 1 then partAssign s p ok else scrubStart s p (v == 2) := rfl

theorem partSem_scrubs (s : State) (via : Path) : (partSem 0 true).eff s via 2 = scrubStart s 0 true := by
  rw [partSem_eff, if_neg (by decide), show (2 == 2) = true from rfl]

theorem writable_partCmd : Writable E.part_cmd ⟨33024, 32, 7, 7, 1, 1, .cmd, 1, false, 0⟩ :=
  ⟨by decide, by decide, by decide, by decide, by decide⟩

theorem exec_partScrubFree (s : State) (via : Path) : exec (.partScrubFree via 0) s =
    done s (access s (writeBytes via E.part_cmd (leBytes 1 2)) (partSem 0 true)) := rfl

theorem serves_beyondPart : Serves beyondPart (E.part_cmd + 256 * 0) := by unfold Serves; decide +kernel

/-- Refutes O54: in `beyondPart` a line of a register that no core has is on its way to the core that the scrub halts. Its word is lost,
and the count that it adds to is the state of the partition, which then reads 3 (the statement asks of the lines on their way nothing). -/
theorem not_packagesDecrypt : ¬ Obligations.PackagesDecrypt := by
  unfold Obligations.PackagesDecrypt
  rintro ⟨-, parts⟩
  obtain ⟨commands, -⟩ := parts beyondPart
  obtain ⟨-, -, -, -, -, scrubs⟩ := commands .island 0 false (by decide) serves_beyondPart
  obtain ⟨⟨t, runs, -, state, -⟩, -⟩ := scrubs rfl (by decide +kernel)
  have told_ : told beyondPart .island E.part_cmd (leBytes 1 2) = beyondPart := forwardWrite_eq _ (.inl (by decide +kernel))
  have ran : exec (.partScrubFree .island 0) beyondPart = done beyondPart (ended (scrubStart beyondPart 0 true) E.part_cmd 0) := by
    refine exec_effect (d := leBytes 1 2) (m := partSem 0 true) (exec_partScrubFree ..) serves_beyondPart writable_partCmd (not_heldBack_of_authentic rfl) rfl
      (by decide +kernel) rfl ?_
    rw [told_, show leNat (leBytes 1 2) = 2 from by decide, partSem_scrubs]
  obtain ⟨a, b, rings⟩ := scrubRings_lone beyond_partKey lone_beyondScrubbed
  have counted : rd (strayTold beyondScrubbed E.part_state partKey a b) E.part_state = 3 ∧
      rd (strayTold beyondScrubbed E.part_state partKey a b) E.part_window_count = 0 := by
    unfold strayTold
    obtain ⟨count, others⟩ := rd_onchipUe_beyond beyond_partKey.above
      { mark (strayMet beyondScrubbed partKey) partKey with freeCtr := (strayMet beyondScrubbed partKey).freeCtr + 1 } a b
    exact ⟨count.trans (by decide +kernel), (others _ (by decide)).trans (by decide +kernel)⟩
  have three : rd (scrubStart beyondPart 0 true) E.part_state = 3 := by
    rw [scrubStart_beyond, rings, rd_scrubRest (bare_haltedAt lone_beyondScrubbed counted.2 _) (by decide) (by decide)]
    exact counted.1
  have two : rd (scrubStart beyondPart 0 true) E.part_state = 2 := by
    rw [← Host.Outcome.next.inj (ran.symm.trans runs), rd_waiting, rd_ended] at state
    exact state
  exact absurd (three.symm.trans two) (by decide)

end Sys2Proof.Machine
end

section
/-! SUPPORT. Keepers, mesh links, noise replay and histograms. -/

namespace Sys2Proof.Machine

open Sys2Proof

/-! ## Writes of command entries (R861) -/

section
variable {n : Instr} {s : State} {via : Path} {k v : Nat} {m : EntrySem} {w : DRow}

/-- A command that its entry takes has its effect, once the leader of a pair has forwarded it. -/
theorem command_effect (runs : exec n s = done s (access s (writeBytes via k (leBytes w.size v)) m)) (serves : Serves s k) (entry : Writable k w)
    (open_ : ¬HeldBack s via w m) (small : v < 256 ^ w.size) (typ : w.typ ≠ 7) (rule : m.rule s v = true) (idle : m.idle s = true) :
    exec n s = done s (ended (m.eff (told s via k (leBytes w.size v)) via v) k 0) := by
  have value : leNat (leBytes w.size v) = v := leNat_value small
  refine exec_effect runs serves entry open_ (leBytes_length ..) ?_ idle (by rw [value])
  rintro (⟨bool, -⟩ | fails)
  · exact typ bool
  · rw [value, rule] at fails
    exact absurd fails (by decide)

/-- A value that the entry does not take ends with result 4. -/
theorem command_refused (runs : exec n s = done s (access s (writeBytes via k (leBytes w.size v)) m)) (serves : Serves s k) (entry : Writable k w)
    (open_ : ¬HeldBack s via w m) (small : v < 256 ^ w.size) (rule : m.rule s v = false) : exec n s = .next (ended s k 4) :=
  exec_badValue runs serves entry open_ (leBytes_length ..) (.inr (by rw [leNat_value small]; exact rule))

/-- What a command leads to, beyond its answer. -/
theorem leads_ended {u : State} {P : State → Prop} (runs : exec n s = done s (ended u k 0)) (holds : P u)
    (blind : ∀ v q a, P v → P { v with pending := q, host := { v.host with answer := a } } := by intros; assumption) :
    Leads n s fun t => result t = 0 ∧ P t :=
  leads_of_done runs ⟨result_ended u k 0, blind u s.pending (ended u k 0).host.answer holds⟩

end

/-! ## The slots of a sector (R24, R811, R866) -/

section
variable {s t : State} {x : Nat}

theorem slots_size {x i : Nat} (hx : x < 32) (hi : i < 28) : dictSize (E.keeper_slots + 256 * x + i) = 1 := by
  have all : ∀ x < 32, ∀ i < 28, dictSize (E.keeper_slots + 256 * x + i) = 1 := by decide +kernel
  exact all x hx i hi

theorem free_size {x : Nat} (hx : x < 32) : dictSize (E.keepers_free + x) = dictSize E.keepers_free := by
  have all : ∀ x < 32, dictSize (E.keepers_free + x) = dictSize E.keepers_free := by decide +kernel
  exact all x hx

/-- Values written to a row of entries, one after another. -/
theorem rd_wrRow (s : State) (k : Nat) (f : Nat → Nat) (n j : Nat) : rd ((List.range n).foldl (fun u i => wr u (k + i) (f i)) s) j =
    if k ≤ j ∧ j < k + n then f (j - k) % 2 ^ (8 * dictSize j) else rd s j := by
  induction n with
  | zero => rw [if_neg (by omega)]; rfl
  | succ n ih =>
    rw [List.range_succ, List.foldl_append, List.foldl_cons, List.foldl_nil, rd_wr, ih]
    by_cases last : j = k + n
    · rw [if_pos last, if_pos (by omega), last, Nat.add_sub_cancel_left]
    · rw [if_neg last]
      by_cases inside : k ≤ j ∧ j < k + n
      · rw [if_pos inside, if_pos (by omega)]
      · rw [if_neg inside, if_neg (by omega)]

/-- The slots that hold no active position. -/
def spares (act : List Nat) : List Nat := (List.range 28).filter fun t => !act.contains t

/-- A slot with its failed mark. -/
def slotMark (failed : List Nat) (t : Nat) : Nat := if failed.contains t then t + 128 else t

/-- The values of a sector's slots. -/
def slotVals (act failed : List Nat) : List Nat := act ++ (spares act).map (slotMark failed)

theorem spares_lt {act : List Nat} {t : Nat} (member : t ∈ spares act) : t < 28 := List.mem_range.1 (List.mem_filter.1 member).1

theorem spares_length {act : List Nat} (size : act.length = 25) (distinct : act.Nodup) (low : ∀ a ∈ act, a < 28) : (spares act).length = 3 := by
  have nodup : (spares act).Nodup := List.nodup_range.filter _
  have rest : (spares act).toFinset = Finset.range 28 \ act.toFinset := by
    ext t
    simp [spares]
  have inside : act.toFinset ⊆ Finset.range 28 := fun t member => Finset.mem_range.2 (low t (List.mem_toFinset.1 member))
  rw [← List.toFinset_card_of_nodup nodup, rest, Finset.card_sdiff_of_subset inside, List.toFinset_card_of_nodup distinct, size, Finset.card_range]

theorem rd_writeSlots (hx : x < 32) (act failed : List Nat) {i : Nat} (hi : i < 28) :
    rd (writeSlots s x act failed) (E.keeper_slots + 256 * x + i) = (slotVals act failed).getD i 0 % 256 := by
  refine (rd_wrRow s (E.keeper_slots + 256 * x) (fun i => (slotVals act failed).getD i 0) 28 _).trans ?_
  rw [if_pos (by omega), Nat.add_sub_cancel_left, slots_size hx hi]
  rfl

theorem rd_writeSlots_other (act failed : List Nat) {j : Nat} (out : j < E.keeper_slots + 256 * x ∨ E.keeper_slots + 256 * x + 28 ≤ j) :
    rd (writeSlots s x act failed) j = rd s j :=
  (rd_wrRow s (E.keeper_slots + 256 * x) (fun i => (slotVals act failed).getD i 0) 28 j).trans (if_neg (by omega))

theorem slotOf_writeSlots (hx : x < 32) {act : List Nat} (failed : List Nat) (size : act.length = 25) (low : ∀ a ∈ act, a < 128) {p : Nat} (hp : p < 25) :
    slotOf (writeSlots s x act failed) x p = act.getD p 0 := by
  have first : (slotVals act failed).getD p 0 = act.getD p 0 := by
    exact List.getD_append act ((spares act).map (slotMark failed)) 0 p (size ▸ hp)
  have small : act.getD p 0 < 128 := by
    rw [List.getD_eq_getElem _ _ (by omega)]
    exact low _ (List.getElem_mem _)
  unfold slotOf
  rw [rd_writeSlots hx act failed (by omega), first]
  omega

/-- Nothing but the slots and `dict` is written. -/
theorem writeSlots_rest (act failed : List Nat) : (writeSlots s x act failed).cores = s.cores ∧ (writeSlots s x act failed).mem = s.mem ∧
    (writeSlots s x act failed).recovery = s.recovery := by
  have kept {β : Type} (f : State → β) (writes : ∀ u k v, f (wr u k v) = f u) : f (writeSlots s x act failed) = f s :=
    foldl_keeps f (fun u i => writes u (E.keeper_slots + 256 * x + i) ((slotVals act failed).getD i 0)) (List.range 28) s
  exact ⟨kept State.cores fun _ _ _ => rfl, kept State.mem fun _ _ _ => rfl, kept State.recovery fun _ _ _ => rfl⟩

theorem slotOf_lt (s : State) (x p : Nat) : slotOf s x p < 128 := Nat.mod_lt _ (by decide)

/-- The active slots of a sector. -/
def actives (s : State) (x : Nat) : List Nat := (List.range 25).map (slotOf s x)

theorem actives_getD {p : Nat} (hp : p < 25) : (actives s x).getD p 0 = slotOf s x p := by
  unfold actives
  rw [List.getD_eq_getElem _ _ (by simpa using hp), List.getElem_map, List.getElem_range]

theorem actives_low : ∀ a ∈ actives s x, a < 128 := by
  intro a member
  obtain ⟨p, -, rfl⟩ := List.mem_map.1 member
  exact slotOf_lt s x p

/-- A sector's slots as `writeSlots` rewrites its active ones stay. -/
theorem slotOf_actives (hx : x < 32) (failed : List Nat) {p : Nat} (hp : p < 25) : slotOf (writeSlots t x (actives s x) failed) x p = slotOf s x p :=
  (slotOf_writeSlots hx failed (by simp [actives]) actives_low hp).trans (actives_getD hp)

/-- A slot outside the active ones is slotMark as its list of failed ones says. -/
theorem slotFailed_writeSlots (hx : x < 32) {act : List Nat} (failed : List Nat) (size : act.length = 25) (distinct : act.Nodup)
    (low : ∀ a ∈ act, a < 28) {k : Nat} (hk : k < 28) (idle : k ∉ act) : slotFailed (writeSlots s x act failed) x k = failed.contains k := by
  have three : (spares act).length = 3 := spares_length size distinct low
  have value {i : Nat} (hi : i < 3) : rd (writeSlots s x act failed) (E.keeper_slots + 256 * x + 25 + i) =
      slotMark failed ((spares act)[i]'(three ▸ hi)) := by
    have place : (slotVals act failed).getD (25 + i) 0 = slotMark failed ((spares act)[i]'(three ▸ hi)) := by
      rw [slotVals, List.getD_append_right _ _ _ _ (by omega), size, Nat.add_sub_cancel_left,
        List.getD_eq_getElem _ _ (by rw [List.length_map]; exact three ▸ hi), List.getElem_map]
    have small : (spares act)[i]'(three ▸ hi) < 28 := spares_lt (List.getElem_mem _)
    rw [Nat.add_assoc, rd_writeSlots hx act failed (by omega), place, Nat.mod_eq_of_lt]
    unfold slotMark
    split <;> omega
  have spare : k ∈ spares act := List.mem_filter.2 ⟨List.mem_range.2 hk, by simpa using idle⟩
  rw [Bool.eq_iff_iff]
  unfold slotFailed
  rw [List.any_eq_true]
  constructor
  · rintro ⟨i, hi, is⟩
    rw [value (List.mem_range.1 hi), beq_iff_eq] at is
    have small : (spares act)[i]'(three ▸ List.mem_range.1 hi) < 28 := spares_lt (List.getElem_mem _)
    unfold slotMark at is
    split at is
    · rename_i listed
      rwa [show (spares act)[i]'(three ▸ List.mem_range.1 hi) = k by omega] at listed
    · omega
  · intro listed
    obtain ⟨i, hi, is⟩ := List.getElem_of_mem spare
    refine ⟨i, List.mem_range.2 (three ▸ hi), ?_⟩
    rw [value (three ▸ hi), is, slotMark, if_pos listed, beq_iff_eq]

end


/-! ## Keepers (R811 to R813, R820) -/

theorem writable_keeperCmd : Writable E.keeper_cmd ⟨36896, 1, 1, 1, 3, 4, .cmd, 1, false, 0⟩ :=
  ⟨by decide, by decide, by decide, by decide, by decide⟩

section
variable {s : State} {via : Path}

/-- A write of `keeper_cmd`. -/
theorem exec_keeperSwap {c : Nat} (low : c < 800) :
    exec (.keeperSwap via c) s = done s (access s (writeBytes via E.keeper_cmd (leBytes 4 (2 ^ 28 + c))) keeperSem) := if_pos (decide_eq_true (by omega))

theorem exec_keeperSelftest {x k : Nat} (sector : x < 32) (slot : k < 32) : exec (.keeperSelftest via x k) s =
    done s (access s (writeBytes via E.keeper_cmd (leBytes 4 (2 * 2 ^ 28 + x * 2 ^ 15 + k * 2 ^ 10))) keeperSem) := if_pos (decide_eq_true ⟨sector, slot⟩)

/-- From a path that is not authenticated. -/
theorem keeper_unauthenticated (serves : Serves s E.keeper_cmd) (unknown : authentic s via = false) :
    (∀ c, c < 800 → exec (.keeperSwap via c) s = .next (ended s E.keeper_cmd 6)) ∧
    ∀ x t, x < 32 → t < 32 → exec (.keeperSelftest via x t) s = .next (ended s E.keeper_cmd 6) :=
  ⟨fun _ low => exec_heldBack (exec_keeperSwap low) serves writable_keeperCmd ⟨.inr rfl, unknown, rfl⟩,
    fun _ _ sector slot => exec_heldBack (exec_keeperSelftest sector slot) serves writable_keeperCmd ⟨.inr rfl, unknown, rfl⟩⟩

variable (serves : Serves s E.keeper_cmd) (known : authentic s via = true)
include serves known

theorem keeperSwap_effect {c : Nat} (low : c < 800) : exec (.keeperSwap via c) s = done s (ended (keeperSwap s c) E.keeper_cmd 0) := by
  have op : bits (2 ^ 28 + c) 31 28 = 1 := by unfold bits; omega
  have named : bits (2 ^ 28 + c) 9 0 = c := by unfold bits; omega
  rw [command_effect (exec_keeperSwap low) serves writable_keeperCmd (not_heldBack_of_authentic known) (by dsimp only; omega) (by decide)
    (decide_eq_true (.inl ⟨op, by rwa [named]⟩)) rfl, told_device (by decide)]
  show done s (ended (if bits (2 ^ 28 + c) 31 28 = 1 then keeperSwap s (bits (2 ^ 28 + c) 9 0) else _) E.keeper_cmd 0) = _
  rw [if_pos op, named]

theorem keeperSelftest_effect {x k : Nat} (sector : x < 32) (slot : k < 32) :
    exec (.keeperSelftest via x k) s = done s (ended (keeperTest s x k) E.keeper_cmd 0) := by
  have op : bits (2 * 2 ^ 28 + x * 2 ^ 15 + k * 2 ^ 10) 31 28 = 2 := by unfold bits; omega
  have sector_ : bits (2 * 2 ^ 28 + x * 2 ^ 15 + k * 2 ^ 10) 19 15 = x := by unfold bits; omega
  have slot_ : bits (2 * 2 ^ 28 + x * 2 ^ 15 + k * 2 ^ 10) 14 10 = k := by unfold bits; omega
  rw [command_effect (exec_keeperSelftest sector slot) serves writable_keeperCmd (not_heldBack_of_authentic known) (by dsimp only; omega) (by decide)
    (decide_eq_true (.inr op)) rfl, told_device (by decide)]
  show done s (ended (if bits (2 * 2 ^ 28 + x * 2 ^ 15 + k * 2 ^ 10) 31 28 = 1 then _ else
    keeperTest s (bits (2 * 2 ^ 28 + x * 2 ^ 15 + k * 2 ^ 10) 19 15) (bits (2 * 2 ^ 28 + x * 2 ^ 15 + k * 2 ^ 10) 14 10)) E.keeper_cmd 0) = _
  rw [if_neg (by omega), sector_, slot_]

end

/-- An accepted write whose effect is known. -/
theorem accepts_of_effect {n : Instr} {s u v : State} {k : Nat} (runs : exec n s = done s (ended u k 0)) (effect : u = v)
    (queue : v.pending = s.pending) : Accepts n s k v := by
  rw [Accepts, runs, effect]
  exact done_eq queue

section
variable {s : State} {c k : Nat}

theorem keeperSwap_refused (refused : coreSwapRefused s c = true) : keeperSwap s c = wr s E.keeper_status 4 := if_pos refused

theorem keeperSwap_none (open_ : coreSwapRefused s c = false) (none_ : freeKeeper s (c / 25) = none) : keeperSwap s c = wr s E.keeper_status 5 := by
  unfold keeperSwap
  rw [if_neg (ne_true_of_eq_false open_)]
  dsimp only
  rw [none_]

/-- The active slots of core c's sector after a swap. -/
def swapped (s : State) (c k : Nat) : List Nat := (actives s (c / 25)).set (c % 25) k

/-- The machine once core c stands in slot k. -/
def swapMoved (s : State) (c k : Nat) : State := coreMoved (writeSlots s (c / 25) (swapped s c k) (failedSlots s (c / 25))) c

/-- One keeper fewer is free, and the move stands in the boot log. -/
def swapLogged (s : State) (c k : Nat) : State :=
  let t := updateKeeperDigest (swapMoved s c k)
  let t := wr t (E.keepers_free + c / 25) (rd t (E.keepers_free + c / 25) - 1)
  bootLog t 11 0 0 (coreBlock t c) (leBytes 2 c ++ leBytes 1 (slotOf s (c / 25) (c % 25)) ++ leBytes 1 k)

theorem rdByte_bootLog (u : State) (event kind status block : Nat) (detail : List Byte) {a : Nat} (low : a < 2 ^ 44) :
    rdByte (bootLog u event kind status block detail) a = rdByte u a := by
  refine (rdByte_wrBytes u (Mem.flash (0x3810000 + u.recovery.logSeq % 16384 * 256)) (bootRecord u event kind status block detail) a).trans (if_neg ?_)
  unfold Mem.flash
  omega

/-- The former slot is under test. -/
def swapTests (s : State) (c k : Nat) : State :=
  { swapLogged s c k with recovery := { (swapLogged s c k).recovery with keeper := some (c / 25, slotOf s (c / 25) (c % 25), some c) } }

theorem swapTests_dict : (swapTests s c k).dict = (swapLogged s c k).dict := rfl

/-- A keeper's place is taken, and the former slot is tested. -/
theorem keeperSwap_some (open_ : coreSwapRefused s c = false) (free : freeKeeper s (c / 25) = some k) : keeperSwap s c =
    wr (swapTests s c k) E.keeper_status 2 := by
  unfold keeperSwap
  rw [if_neg (ne_true_of_eq_false open_)]
  dsimp only
  rw [free]
  rfl

theorem swapLogged_dict : (swapLogged s c k).dict = (wr (updateKeeperDigest (swapMoved s c k)) (E.keepers_free + c / 25)
    (rd (updateKeeperDigest (swapMoved s c k)) (E.keepers_free + c / 25) - 1)).dict := rfl

theorem freeKeeper_lt {x : Nat} (free : freeKeeper s x = some k) : k < 28 :=
  List.mem_range.1 (List.mem_of_find?_eq_some free)

theorem swapMoved_dict : (swapMoved s c k).dict = (writeSlots s (c / 25) (swapped s c k) (failedSlots s (c / 25))).dict := rfl

theorem core_swapMoved (d : Nat) : (core (swapMoved s c k) c).cmAttr = (core s c).cmAttr ∧ (d ≠ c → core (swapMoved s c k) d = core s d) := by
  obtain ⟨cores, -, -⟩ := writeSlots_rest (s := s) (x := c / 25) (swapped s c k) (failedSlots s (c / 25))
  have same (j : Nat) : core (writeSlots s (c / 25) (swapped s c k) (failedSlots s (c / 25))) j = core s j := by
    unfold core
    rw [cores]
  constructor
  · unfold swapMoved coreMoved
    rw [core_setCore, if_pos rfl]
    show (core (writeSlots s (c / 25) (swapped s c k) (failedSlots s (c / 25))) c).cmAttr = _
    rw [same]
  · intro other
    unfold swapMoved coreMoved
    rw [core_setCore, if_neg other]
    exact same d

/-- Core memory has moved with the core. -/
theorem rdByte_swapMoved {a : Nat} (low : a < 2 ^ 41) : rdByte (swapMoved s c k) a = rdByte s a := by
  obtain ⟨-, mem, -⟩ := writeSlots_rest (s := s) (x := c / 25) (swapped s c k) (failedSlots s (c / 25))
  unfold swapMoved coreMoved
  dsimp only
  refine (rdByte_congr (setCore_mem ..) a).trans ?_
  rw [rdByte_zeroFill, if_neg (by unfold Mem.acc; omega), rdByte_zeroFill, if_neg (by unfold Mem.tile; omega)]
  exact rdByte_congr mem a

theorem rdByte_swapLogged {a : Nat} (low : a < 2 ^ 41) : rdByte (swapLogged s c k) a = rdByte s a := by
  refine (rdByte_bootLog _ _ _ _ _ _ (by omega)).trans ?_
  refine (rdByte_congr (wr_mem ..) a).trans ((rdByte_congr (t := updateKeeperDigest (swapMoved s c k)) (s := swapMoved s c k) ?_ a).trans (rdByte_swapMoved low))
  rw [updateKeeperDigest, wr_mem]

/-- What a swap leaves of core c, of its sector and of the rest. -/
theorem keeperSwap_leads (low : c < 800) (open_ : coreSwapRefused s c = false) (free : freeKeeper s (c / 25) = some k) :
    rd (keeperSwap s c) E.keeper_status = 2 ∧ slotOf (keeperSwap s c) (c / 25) (c % 25) = k ∧
    (∀ q < 25, q ≠ c % 25 → slotOf (keeperSwap s c) (c / 25) q = slotOf s (c / 25) q) ∧
    rd (keeperSwap s c) (E.keepers_free + c / 25) = cut E.keepers_free (rd s (E.keepers_free + c / 25) - 1) ∧
    (keeperSwap s c).recovery.keeper = some (c / 25, slotOf s (c / 25) (c % 25), some c) ∧ (core (keeperSwap s c) c).cmAttr = (core s c).cmAttr ∧
    (∀ o < 0x180000, rdByte (keeperSwap s c) (Mem.cm c o) = rdByte s (Mem.cm c o)) ∧ ∀ d < 800, d ≠ c → core (keeperSwap s c) d = core s d := by
  have hx : c / 25 < 32 := by omega
  have hp : c % 25 < 25 := Nat.mod_lt _ (by decide)
  have keeper := freeKeeper_lt free
  have slots : E.keeper_slots = 9502721 := rfl
  have frees : E.keepers_free = 9445633 := rfl
  have digest : E.keeper_map_digest = 9445379 := rfl
  have status : E.keeper_status = 9445378 := rfl
  rw [keeperSwap_some open_ free]
  have size : (swapped s c k).length = 25 := by simp [swapped, actives]
  have small : ∀ a ∈ swapped s c k, a < 128 := by
    intro a member
    rcases List.mem_or_eq_of_mem_set member with old | rfl
    · exact actives_low a old
    · omega
  have slot {q : Nat} (hq : q < 25) : rd (updateKeeperDigest (swapMoved s c k)) (E.keeper_slots + 256 * (c / 25) + q) % 128 = (swapped s c k).getD q 0 := by
    rw [updateKeeperDigest, rd_wr_other _ (by omega), rd_congr swapMoved_dict]
    exact slotOf_writeSlots hx _ size small hq
  have place {q : Nat} (hq : q < 25) : slotOf (wr (swapTests s c k) E.keeper_status 2) (c / 25) q = (swapped s c k).getD q 0 := by
    rw [slotOf, rd_wr_other _ (by omega), rd_congr swapTests_dict, rd_congr swapLogged_dict, rd_wr_other _ (by omega)]
    exact slot hq
  refine ⟨rd_wr_same _ _ _, ?_, fun q hq other => ?_, ?_, rfl, (core_swapMoved c).1, fun o inside => ?_, fun d _ other => (core_swapMoved d).2 other⟩
  · rw [place hp, swapped, List.getD_eq_getElem _ _ (by simpa [actives] using hp), List.getElem_set_self]
  · rw [place hq, swapped, List.getD_eq_getElem _ _ (by simpa [actives] using hq), List.getElem_set_ne (Ne.symm other)]
    simp [actives]
  · have before : rd (updateKeeperDigest (swapMoved s c k)) (E.keepers_free + c / 25) = rd s (E.keepers_free + c / 25) := by
      rw [updateKeeperDigest, rd_wr_other _ (by omega), rd_congr swapMoved_dict, rd_writeSlots_other _ _ (by omega)]
    rw [rd_wr_other _ (by omega), rd_congr swapTests_dict, rd_congr swapLogged_dict, rd_wr_same, before, free_size hx]
    rfl
  · have below : Mem.cm c o < 2 ^ 41 := by unfold Mem.cm Mem.onchip; omega
    exact (rdByte_congr (show (wr (swapTests s c k) E.keeper_status 2).mem = (swapLogged s c k).mem from rfl) _).trans (rdByte_swapLogged below)

/-- A self-test is refused, or begins (R813). -/
theorem keeperTest_refused {x : Nat} (bad : 28 ≤ k ∨ ∃ p < 25, slotOf s x p = k) : keeperTest s x k = wr s E.keeper_status 7 := by
  refine if_pos (bad.imp_right ?_)
  rintro ⟨p, hp, is⟩
  exact List.any_eq_true.2 ⟨p, List.mem_range.2 hp, beq_iff_eq.2 is⟩

theorem keeperTest_begins {x : Nat} (slot : k < 28) (idle : ¬∃ p < 25, slotOf s x p = k) : keeperTest s x k =
    wr { s with recovery := { s.recovery with keeper := some (x, k, none) } } E.keeper_status 2 := by
  refine if_neg ?_
  rintro (high | active)
  · omega
  · obtain ⟨p, member, is⟩ := List.any_eq_true.1 active
    exact idle ⟨p, List.mem_range.1 member, beq_iff_eq.1 is⟩

end

/-! ## The end of a slot's self-test (R812, R813) -/

section
variable {s : State} {x k : Nat}

theorem keeperTestDone_other (passed : Bool) (other : ∀ c, s.recovery.keeper ≠ some (x, k, c)) : keeperTestDone s x k passed = s := by
  unfold keeperTestDone
  match is : s.recovery.keeper with
  | none => rfl
  | some (y, u, c) =>
    refine if_pos ?_
    by_contra same
    push Not at same
    obtain ⟨rfl, rfl⟩ := same
    exact other c is

/-- The machine with no slot under test, and the failed slots that the end of the test of slot k leaves. -/
def untested (s : State) : State := { s with recovery := { s.recovery with keeper := none } }

def failedAfter (s : State) (x k : Nat) (passed : Bool) : List Nat := if passed then (failedSlots s x).filter (· ≠ k) else k :: failedSlots s x

/-- The slots are written with the new failed marks, the count of free keepers may change, and the status tells the outcome. -/
theorem keeperTestDone_eq {c : Option Nat} (passed : Bool) (tested : s.recovery.keeper = some (x, k, c)) :
    ∃ (counts : Bool) (v : Nat), keeperTestDone s x k passed =
      wr (if counts then wr (writeSlots (untested s) x (actives s x) (failedAfter s x k passed)) (E.keepers_free + x) v
        else writeSlots (untested s) x (actives s x) (failedAfter s x k passed)) E.keeper_status (if passed then 3 else 6) := by
  cases passed with
  | true =>
    refine ⟨!(c.isNone && !(failedSlots s x).contains k), rd s (E.keepers_free + x) + 1, ?_⟩
    unfold keeperTestDone
    rw [tested]
    dsimp only
    rw [if_neg (by simp), if_pos rfl]
    cases healthy : c.isNone && !(failedSlots s x).contains k with
    | true => exact congrArg (wr · E.keeper_status 3) (if_pos healthy)
    | false => exact congrArg (wr · E.keeper_status 3) (if_neg (ne_true_of_eq_false healthy))
  | false =>
    refine ⟨c.isNone && !(failedSlots s x).contains k, rd s (E.keepers_free + x) - 1, ?_⟩
    unfold keeperTestDone
    rw [tested]
    dsimp only
    rw [if_neg (by simp), if_neg (by decide)]
    rfl

theorem failedAfter_contains (passed : Bool) : (failedAfter s x k passed).contains k = !passed := by
  cases passed <;> simp [failedAfter]

theorem keeperTestDone_leads {c : Option Nat} (hx : x < 32) (hk : k < 28) (passed : Bool) (tested : s.recovery.keeper = some (x, k, c))
    (distinct : (actives s x).Nodup) (low : ∀ p < 25, slotOf s x p < 28) (idle : ∀ p < 25, slotOf s x p ≠ k) :
    (keeperTestDone s x k passed).recovery.keeper = none ∧ rd (keeperTestDone s x k passed) E.keeper_status = (if passed then 3 else 6) ∧
    slotFailed (keeperTestDone s x k passed) x k = !passed ∧ (∀ p < 25, slotOf (keeperTestDone s x k passed) x p = slotOf s x p) ∧
    (keeperTestDone s x k passed).cores = s.cores ∧ (keeperTestDone s x k passed).mem = s.mem := by
  obtain ⟨counts, v, is⟩ := keeperTestDone_eq passed tested
  obtain ⟨cores, mem, recovery⟩ := writeSlots_rest (s := untested s) (x := x) (actives s x) (failedAfter s x k passed)
  have slots : E.keeper_slots = 9502721 := rfl
  have frees : E.keepers_free = 9445633 := rfl
  have status : E.keeper_status = 9445378 := rfl
  have kept {i : Nat} (hi : i < 28) : rd (keeperTestDone s x k passed) (E.keeper_slots + 256 * x + i) =
      rd (writeSlots (untested s) x (actives s x) (failedAfter s x k passed)) (E.keeper_slots + 256 * x + i) := by
    rw [is, rd_wr_other _ (by omega)]
    split
    · rw [rd_wr_other _ (by omega)]
    · rfl
  have rest {β : Type} (f : State → β) (writes : ∀ u j w, f (wr u j w) = f u) : f (keeperTestDone s x k passed) =
      f (writeSlots (untested s) x (actives s x) (failedAfter s x k passed)) := by
    rw [is, writes]
    split
    · rw [writes]
    · rfl
  refine ⟨?_, ?_, ?_, fun p hp => ?_, (rest State.cores fun _ _ _ => rfl).trans cores, (rest State.mem fun _ _ _ => rfl).trans mem⟩
  · rw [rest State.recovery fun _ _ _ => rfl, recovery]
    rfl
  · rw [is, rd_wr_same]
    cases passed <;> rfl
  · have marks : slotFailed (keeperTestDone s x k passed) x k =
        slotFailed (writeSlots (untested s) x (actives s x) (failedAfter s x k passed)) x k := by
      unfold slotFailed
      rw [Bool.eq_iff_iff, List.any_eq_true, List.any_eq_true]
      refine exists_congr fun i => and_congr_right fun hi => ?_
      have hi := List.mem_range.1 hi
      rw [Nat.add_assoc, kept (by omega)]
    have inside : ∀ a ∈ actives s x, a < 28 := by
      intro a member
      obtain ⟨p, hp, rfl⟩ := List.mem_map.1 member
      exact low p (List.mem_range.1 hp)
    have apart : k ∉ actives s x := by
      intro member
      obtain ⟨p, hp, is⟩ := List.mem_map.1 member
      exact idle p (List.mem_range.1 hp) is
    rw [marks, slotFailed_writeSlots hx _ (by simp [actives]) distinct inside hk apart, failedAfter_contains]
  · have same : slotOf (keeperTestDone s x k passed) x p = slotOf (writeSlots (untested s) x (actives s x) (failedAfter s x k passed)) x p :=
      congrArg (· % 128) (kept (by omega))
    rw [same, slotOf_actives hx _ hp]

end

end Sys2Proof.Machine
end

section
/-! SUPPORT. Mesh links, noise replay and histograms. -/

namespace Sys2Proof.Machine

open Sys2Proof

/-! ## Mesh links (R814, R815, R823) -/

theorem writable_meshLinkCmd : Writable E.mesh_link_cmd ⟨36912, 1, 1, 1, 2, 2, .cmd, 1, false, 0⟩ :=
  ⟨by decide, by decide, by decide, by decide, by decide⟩

/-- What `mesh_link_cmd` does of an op. -/
def meshDoes (op : Nat) (s : State) (k : Nat) : State :=
  match op with
  | 1 => detour s k
  | 2 => meshTest s k
  | _ => meshRestore s k

section
variable {s : State} {via : Path} {k op : Nat} {n : Instr} (link : k < 52)
include link

theorem exec_meshDetour : exec (.meshDetour via k) s = done s (access s (writeBytes via E.mesh_link_cmd (leBytes 2 (1 * 2 ^ 12 + k))) meshSem) :=
  if_pos (decide_eq_true (by omega))

theorem exec_meshLinkTest : exec (.meshLinkTest via k) s = done s (access s (writeBytes via E.mesh_link_cmd (leBytes 2 (2 * 2 ^ 12 + k))) meshSem) :=
  if_pos (decide_eq_true (by omega))

theorem exec_meshLinkRestore :
    exec (.meshLinkRestore via k) s = done s (access s (writeBytes via E.mesh_link_cmd (leBytes 2 (3 * 2 ^ 12 + k))) meshSem) :=
  if_pos (decide_eq_true (by omega))

theorem mesh_effect (op_ : 1 ≤ op ∧ op ≤ 3)
    (runs : exec n s = done s (access s (writeBytes via E.mesh_link_cmd (leBytes 2 (op * 2 ^ 12 + k))) meshSem))
    (serves : Serves s E.mesh_link_cmd) (known : authentic s via = true) : exec n s = done s (ended (meshDoes op s k) E.mesh_link_cmd 0) := by
  have code : bits (op * 2 ^ 12 + k) 15 12 = op := by unfold bits; omega
  have named : bits (op * 2 ^ 12 + k) 5 0 = k := by unfold bits; omega
  rw [command_effect runs serves writable_meshLinkCmd (not_heldBack_of_authentic known) (by dsimp only; omega) (by decide)
    (decide_eq_true (by rw [code, named]; omega)) rfl, told_device (by decide)]
  show done s (ended (meshDoes (bits (op * 2 ^ 12 + k) 15 12) s (bits (op * 2 ^ 12 + k) 5 0)) E.mesh_link_cmd 0) = _
  rw [code, named]

end

section
variable {s : State} {k : Nat}

theorem detour_refused (crosses : ∃ j ∈ detourPath k, bit (rd s E.mesh_detoured) j = true) : detour s k = wr s E.mesh_link_status 5 :=
  if_pos (List.any_eq_true.2 crosses)

/-- The map of detoured links, with link k in or out. -/
def meshMarked (s : State) (k : Nat) (b : Bool) : State := wr (wr s E.mesh_detoured (setBit (rd s E.mesh_detoured) k b)) E.mesh_link_status 2

theorem detour_made (free : ¬∃ j ∈ detourPath k, bit (rd s E.mesh_detoured) j = true) :
    detour s k = bootLog (meshMarked s k true) 12 0 0 (0x800 + k) (leBytes 1 k) :=
  if_neg fun crosses => free (List.any_eq_true.1 crosses)

theorem bit_mod {v i w : Nat} (inside : i < w) : bit (v % 2 ^ w) i = bit v i := by
  rw [bit_eq_testBit, bit_eq_testBit, Nat.testBit_mod_two_pow, decide_eq_true inside, Bool.true_and]

theorem rd_meshMarked (s : State) (k : Nat) (b : Bool) : rd (meshMarked s k b) E.mesh_link_status = 2 ∧
    rd (meshMarked s k b) E.mesh_detoured = setBit (rd s E.mesh_detoured) k b % 2 ^ 64 :=
  ⟨rd_wr_same _ _ _, (rd_wr_other _ (by decide) 2).trans (rd_wr_same s E.mesh_detoured _)⟩

/-- Of a link that is put in or out of the map, no other link's bit changes. -/
theorem meshMarked_map (link : k < 52) (b : Bool) : bit (rd (meshMarked s k b) E.mesh_detoured) k = b ∧
    ∀ j < 52, j ≠ k → bit (rd (meshMarked s k b) E.mesh_detoured) j = bit (rd s E.mesh_detoured) j := by
  obtain ⟨-, map⟩ := rd_meshMarked s k b
  refine ⟨?_, fun j low other => ?_⟩
  · rw [map, bit_mod (by omega), bit_setBit]
  · rw [map, bit_mod (by omega), bit_setBit_other other]

theorem meshTest_out (out : bit (rd s E.mesh_detoured) k = true) :
    meshTest s k = wr { s with recovery := { s.recovery with meshTest := some k } } E.mesh_link_status 1 := if_pos out

theorem meshTest_in (in_ : ¬bit (rd s E.mesh_detoured) k = true) : meshTest s k = wr s E.mesh_link_status 5 := if_neg in_

theorem meshRestore_out (out : bit (rd s E.mesh_detoured) k = true) : meshRestore s k = meshMarked s k false := if_pos out

theorem meshRestore_in (in_ : ¬bit (rd s E.mesh_detoured) k = true) : meshRestore s k = wr s E.mesh_link_status 5 := if_neg in_

/-- The repeats of link k within the last second. -/
def recentRepeats (s : State) (k : Nat) : List Nat := (Tab.get [] s.recovery.meshRepeats k).filter fun u => decide (now s < u + 25000000)

/-- The machine with these repeats of link k. -/
def withRepeats (s : State) (k : Nat) (l : List Nat) : State :=
  { s with recovery := { s.recovery with meshRepeats := Tab.set [] s.recovery.meshRepeats k l } }

theorem meshRepeat_few (few : (recentRepeats s k).length + 1 < rd s E.mesh_detour_threshold) :
    meshRepeat s k = withRepeats s k (now s :: recentRepeats s k) := by
  have full : decide (rd s E.mesh_detour_threshold ≤ (now s :: recentRepeats s k).length) = false := decide_eq_false (by simpa using few)
  have shape : meshRepeat s k =
      if decide (rd s E.mesh_detour_threshold ≤ (now s :: recentRepeats s k).length) && !bit (rd s E.mesh_detoured) k then
        detour (withRepeats s k (if decide (rd s E.mesh_detour_threshold ≤ (now s :: recentRepeats s k).length) then [] else now s :: recentRepeats s k)) k
      else withRepeats s k (if decide (rd s E.mesh_detour_threshold ≤ (now s :: recentRepeats s k).length) then [] else now s :: recentRepeats s k) := rfl
  rw [shape, full]
  rfl

theorem meshRepeat_many (many : rd s E.mesh_detour_threshold ≤ (recentRepeats s k).length + 1) (in_ : ¬bit (rd s E.mesh_detoured) k = true) :
    meshRepeat s k = detour (withRepeats s k []) k := by
  have full : decide (rd s E.mesh_detour_threshold ≤ (now s :: recentRepeats s k).length) = true := decide_eq_true (by simpa using many)
  have shape : meshRepeat s k =
      if decide (rd s E.mesh_detour_threshold ≤ (now s :: recentRepeats s k).length) && !bit (rd s E.mesh_detoured) k then
        detour (withRepeats s k (if decide (rd s E.mesh_detour_threshold ≤ (now s :: recentRepeats s k).length) then [] else now s :: recentRepeats s k)) k
      else withRepeats s k (if decide (rd s E.mesh_detour_threshold ≤ (now s :: recentRepeats s k).length) then [] else now s :: recentRepeats s k) := rfl
  rw [shape, full, Bool.eq_false_iff.2 in_]
  rfl

end

/-- The repeat that reaches the threshold detours its link, whose count begins anew (R814). -/
theorem meshRepeat_detours {s : State} {k : Nat} (link : k < 52) (many : rd s E.mesh_detour_threshold ≤ (recentRepeats s k).length + 1)
    (in_ : ¬bit (rd s E.mesh_detoured) k = true) (free : ¬∃ j ∈ detourPath k, bit (rd s E.mesh_detoured) j = true) :
    Leads (.meshLinkRepeat k) s fun t => rd t E.mesh_link_status = 2 ∧ (bit (rd t E.mesh_detoured) k = true ∧
      ∀ j < 52, j ≠ k → bit (rd t E.mesh_detoured) j = bit (rd s E.mesh_detoured) j) ∧ Tab.get [] t.recovery.meshRepeats k = [] := by
  refine leads_of_effect (show exec (.meshLinkRepeat k) s = done s (meshRepeat s k) from if_pos (decide_eq_true link)) ?_ fun v q h => h
  have path : ¬∃ j ∈ detourPath k, bit (rd (withRepeats s k []) E.mesh_detoured) j = true := free
  rw [meshRepeat_many many in_, detour_made path]
  refine ⟨(rd_meshMarked (withRepeats s k []) k true).1, meshMarked_map (s := withRepeats s k []) link true, ?_⟩
  exact Tab.get_set_same [] s.recovery.meshRepeats k []


/-! ## Noise replay (R837 to R841) -/

/-- The entries of a partition's noise replay, at the partition's place. -/
theorem nr_sizes {p : Nat} (hp : p < 32) : dictSize (E.nr_status + 256 * p) = 1 ∧ dictSize (E.nr_mode + 256 * p) = 1 ∧
    dictSize (E.nr_pkg_status + 256 * p) = 2 := by
  have all : ∀ p < 32, dictSize (E.nr_status + 256 * p) = 1 ∧ dictSize (E.nr_mode + 256 * p) = 1 ∧ dictSize (E.nr_pkg_status + 256 * p) = 2 := by
    decide +kernel
  exact all p hp

theorem writable_nrCmd {p : Nat} (hp : p < 32) : Writable (E.nr_cmd + 256 * p) ⟨41472, 32, 2, 2, 1, 1, .cmd, 1, false, 0⟩ := by
  refine ⟨?_, ?_, ?_, by decide, by decide⟩ <;> (revert p; decide)

section
variable {s : State} {via : Path} {p v : Nat} {n : Instr} (hp : p < 32) (serves : Serves s (E.nr_cmd + 256 * p))
include hp

theorem nrExec_eq (v : Nat) : nrExec via p v s = done s (access s (writeBytes via (E.nr_cmd + 256 * p) (leBytes 1 v)) (nrSem p)) := by
  have size : ∀ p < 32, dictSize (E.nr_cmd + 256 * p) = 1 := by decide
  rw [nrExec, instanced, if_pos (decide_eq_true hp), writeOf, size p hp, writeBytes, leBytes_length]

include serves

theorem nr_unauthenticated (runs : exec n s = nrExec via p v s) (unknown : authentic s via = false) :
    exec n s = .next (ended s (E.nr_cmd + 256 * p) 6) :=
  exec_heldBack (runs.trans (nrExec_eq hp v)) serves (writable_nrCmd hp) ⟨.inr rfl, unknown, rfl⟩

/-- A command of noise replay runs on the machine in which a leader has forwarded it. -/
theorem nr_effect (runs : exec n s = nrExec via p v s) (known : authentic s via = true) (op : 1 ≤ v ∧ v ≤ 3) :
    ∃ l, exec n s = done s (ended (nrCommand { s with sent := l } p v) (E.nr_cmd + 256 * p) 0) := by
  obtain ⟨l, told⟩ := told_eq (s := s) via (E.nr_cmd + 256 * p) (leBytes 1 v)
  refine ⟨l, ?_⟩
  rw [command_effect (runs.trans (nrExec_eq hp v)) serves (writable_nrCmd hp) (not_heldBack_of_authentic known) (by dsimp only; omega) (by decide)
    (decide_eq_true op) rfl, told]
  rfl

end

section
variable {s : State} {p v : Nat}

/-- What a command of noise replay leaves when it only tells a status. -/
theorem nr_tells (hp : p < 32) {c : Nat} (small : c < 256) : rd (wr s (E.nr_status + 256 * p) c) (E.nr_status + 256 * p) = c ∧
    rd (wr s (E.nr_status + 256 * p) c) (E.nr_mode + 256 * p) = rd s (E.nr_mode + 256 * p) := by
  have status : E.nr_status = 10616835 := rfl
  have mode : E.nr_mode = 10616833 := rfl
  refine ⟨?_, rd_wr_other _ (by omega) _⟩
  rw [rd_wr_same, (nr_sizes hp).1]
  omega

theorem nrCommand_unkeyed (unkeyed : rd s (E.nr_auditor_key + 256 * p) = 0) : nrCommand s p 1 = wr s (E.nr_status + 256 * p) 3 :=
  if_pos ⟨rfl, unkeyed⟩

theorem nrCommand_busy (keyed : v = 1 → rd s (E.nr_auditor_key + 256 * p) ≠ 0) (busy : partRuns s p = true) :
    nrCommand s p v = wr s (E.nr_status + 256 * p) 4 :=
  (if_neg fun both => keyed both.1 both.2).trans (if_pos busy)

variable (quiet : ¬partRuns s p = true)
include quiet

theorem nrCommand_arm (keyed : rd s (E.nr_auditor_key + 256 * p) ≠ 0) : nrCommand s p 1 =
    if s.island.trngFailing = true ∨ rd s E.trng_state = 2 then wr s (E.nr_status + 256 * p) 1 else armReplay s p :=
  (if_neg fun both => keyed both.2).trans (if_neg quiet)

theorem nrCommand_load : nrCommand s p 2 = loadReplay s p := by
  unfold nrCommand
  rw [if_neg (fun both => absurd both.1 (by decide)), if_neg quiet]
  rfl

theorem nrCommand_erase : nrCommand s p 3 = wr (eraseSeed s p) (E.nr_status + 256 * p) 2 := by
  unfold nrCommand
  rw [if_neg (fun both => absurd both.1 (by decide)), if_neg quiet]
  rfl

end

/-- The machine u with a new seed of partition p. -/
def armed (u : State) (p : Nat) (d : List Byte) : State :=
  { u with replays := Tab.set none u.replays p (some ⟨d, []⟩), freeCtr := u.freeCtr + 1 }

theorem armed_replays (u : State) (p : Nat) (d : List Byte) : Tab.get none (armed u p d).replays p = some ⟨d, []⟩ :=
  Tab.get_set_same none u.replays p (some ⟨d, []⟩)

/-- Its record's entries. -/
def armWritten (u : State) (p id z : Nat) : State := wr (wr (wr (wr (wr u (E.nr_record_id + 256 * p) id)
  (E.nr_sealed + 256 * p) z) (E.nr_starts + 256 * p) 0) (E.nr_mode + 256 * p) 1) (E.nr_status + 256 * p) 2

theorem armWritten_rest (u : State) (p id z : Nat) : (armWritten u p id z).mem = u.mem ∧ (armWritten u p id z).replays = u.replays := ⟨rfl, rfl⟩

theorem armReplay_eq (s : State) (p : Nat) : ∃ id z, armReplay s p = armWritten (armed (drawBytes 2 s).1 p (drawBytes 2 s).2) p id z :=
  ⟨_, _, rfl⟩

theorem drawBlock_mem (s : State) : (drawBlock s).1.mem = s.mem := by
  unfold drawBlock
  dsimp only

theorem drawBytes_mem (n : Nat) (s : State) : (drawBytes n s).1.mem = s.mem ∧ (drawBytes n s).2.length = 16 * n := by
  induction n generalizing s with
  | zero => exact ⟨rfl, rfl⟩
  | succ n ih =>
    obtain ⟨mem, size⟩ := ih (drawBlock s).1
    rw [drawBytes]
    refine ⟨mem.trans (drawBlock_mem s), ?_⟩
    rw [List.length_append, beBytes_length, size]
    omega

section
variable {s : State} {p : Nat} (hp : p < 32)
include hp

/-- An arm draws a seed and seals its record (R838, R839). -/
theorem armReplay_leads : rd (armReplay s p) (E.nr_status + 256 * p) = 2 ∧ rd (armReplay s p) (E.nr_mode + 256 * p) = 1 ∧
    rd (armReplay s p) (E.nr_starts + 256 * p) = 0 ∧ (armReplay s p).mem = s.mem ∧
    ∃ d, d.length = 32 ∧ Tab.get none (armReplay s p).replays p = some ⟨d, []⟩ := by
  have status : E.nr_status = 10616835 := rfl
  have mode : E.nr_mode = 10616833 := rfl
  have starts : E.nr_starts = 10616841 := rfl
  obtain ⟨size, size', -⟩ := nr_sizes hp
  obtain ⟨id, z, is⟩ := armReplay_eq s p
  obtain ⟨mem, length⟩ := drawBytes_mem 2 s
  rw [is]
  generalize (drawBytes 2 s).1 = u at mem ⊢
  obtain ⟨mem', replays⟩ := armWritten_rest (armed u p (drawBytes 2 s).2) p id z
  refine ⟨?_, ?_, ?_, mem'.trans mem, (drawBytes 2 s).2, length, ?_⟩
  · rw [armWritten, rd_wr_same, size]
    rfl
  · rw [armWritten, rd_wr_other _ (by omega), rd_wr_same, size']
    rfl
  · rw [armWritten, rd_wr_other _ (by omega), rd_wr_other _ (by omega), rd_wr_same, Nat.zero_mod]
  · rw [replays]
    exact armed_replays u p _

theorem eraseSeed_leads : rd (wr (eraseSeed s p) (E.nr_status + 256 * p) 2) (E.nr_status + 256 * p) = 2 ∧
    rd (wr (eraseSeed s p) (E.nr_status + 256 * p) 2) (E.nr_mode + 256 * p) = 0 ∧
    Tab.get none (wr (eraseSeed s p) (E.nr_status + 256 * p) 2).replays p = none := by
  obtain ⟨status, mode⟩ := nr_tells (s := eraseSeed s p) hp (c := 2) (by decide)
  refine ⟨status, mode.trans ?_, Tab.get_set_same none s.replays p none⟩
  exact (rd_wr_same _ _ _).trans (Nat.zero_mod _)

end

/-- Opening a package spends a release, and nothing else. -/
theorem openPackage_kept (s : State) (p kind a : Nat) : (∀ k, k ≠ E.releases_held → rd (openPackage s p kind a).1 k = rd s k) ∧
    (openPackage s p kind a).1.replays = s.replays := by
  unfold openPackage
  dsimp only
  split
  · exact ⟨fun _ _ => rfl, rfl⟩
  · split
    · exact ⟨fun _ _ => rfl, rfl⟩
    · split
      · exact ⟨fun _ _ => rfl, rfl⟩
      · split <;> exact ⟨fun k other => rd_wr_other _ other _, rfl⟩

theorem openPackage_sent (s : State) (l : List Out) (p kind a : Nat) :
    (openPackage { s with sent := l } p kind a).2 = (openPackage s p kind a).2 := by
  have share (n : Nat) : inShare { s with sent := l } p a n = inShare s p a n := rfl
  have bytes (a n : Nat) : rdBytes { s with sent := l } a n = rdBytes s a n := rfl
  have found (k : Nat) : findRelease { s with sent := l } p k = findRelease s p k := rfl
  unfold openPackage
  simp only [share, bytes, found]
  split
  · rfl
  · split
    · rfl
    · split
      · rfl
      · split <;> rfl

section
variable {s : State} {p : Nat}

/-- The package that a load of noise replay opens. -/
def replayPackage (s : State) (p : Nat) : State × Nat × Nat := openPackage s p 3 (rd s (E.nr_pkg_addr + 256 * p))

/-- Its plaintext, where its tag holds. -/
def replaySeed (s : State) (p : Nat) : Option (List Byte) := pkgPlain s (rd s (E.nr_pkg_addr + 256 * p)) (replayPackage s p).2.2

/-- What is forwarded to a follower is no part of a package. -/
theorem replayPackage_sent (l : List Out) : (replayPackage { s with sent := l } p).2 = (replayPackage s p).2 ∧
    replaySeed { s with sent := l } p = replaySeed s p := by
  have same : (replayPackage { s with sent := l } p).2 = (replayPackage s p).2 := openPackage_sent ..
  refine ⟨same, ?_⟩
  unfold replaySeed
  rw [same]
  rfl

theorem loadReplay_fails {c : Nat} (code : (if (replayPackage s p).2.1 = 0 then 0x0703 else (replayPackage s p).2.1) = c)
    (none_ : (if (replayPackage s p).2.1 = 0 then replaySeed s p else none) = none) : loadReplay s p =
    wr (wr (replayPackage s p).1 (E.nr_pkg_status + 256 * p) c) (E.nr_status + 256 * p) 5 := by
  have shape : loadReplay s p = match (if (replayPackage s p).2.1 = 0 then replaySeed s p else none) with
    | none => wr (wr (replayPackage s p).1 (E.nr_pkg_status + 256 * p) (if (replayPackage s p).2.1 = 0 then 0x0703 else (replayPackage s p).2.1))
        (E.nr_status + 256 * p) 5
    | some b => _ := rfl
  rw [shape, none_, code]

/-- A load that fails changes the status entries only (R840). -/
theorem loadReplay_failed (hp : p < 32) {c : Nat} (code : (if (replayPackage s p).2.1 = 0 then 0x0703 else (replayPackage s p).2.1) = c)
    (none_ : (if (replayPackage s p).2.1 = 0 then replaySeed s p else none) = none) :
    rd (loadReplay s p) (E.nr_status + 256 * p) = 5 ∧ rd (loadReplay s p) (E.nr_mode + 256 * p) = rd s (E.nr_mode + 256 * p) ∧
    (loadReplay s p).replays = s.replays ∧ rd (loadReplay s p) (E.nr_pkg_status + 256 * p) = cut (E.nr_pkg_status + 256 * p) c := by
  have status : E.nr_status = 10616835 := rfl
  have mode : E.nr_mode = 10616833 := rfl
  have pkg : E.nr_pkg_status = 10616836 := rfl
  have held : E.releases_held = 8401153 := rfl
  obtain ⟨same, replays⟩ := openPackage_kept s p 3 (rd s (E.nr_pkg_addr + 256 * p))
  obtain ⟨told, kept⟩ := nr_tells (s := wr (replayPackage s p).1 (E.nr_pkg_status + 256 * p) c) hp (c := 5) (by decide)
  rw [loadReplay_fails code none_]
  refine ⟨told, kept.trans ?_, replays, ?_⟩
  · rw [rd_wr_other _ (by omega)]
    exact same _ (by omega)
  · rw [rd_wr_other _ (by omega), rd_wr_same]
    rfl

/-- A load of 40 bytes gives the seed and its record's ID (R840). -/
theorem loadReplay_loads (hp : p < 32) {b : List Byte} (opens : (replayPackage s p).2.1 = 0) (seed : replaySeed s p = some b) (size : b.length = 40) :
    rd (loadReplay s p) (E.nr_status + 256 * p) = 2 ∧ rd (loadReplay s p) (E.nr_mode + 256 * p) = 2 ∧
    rd (loadReplay s p) (E.nr_pkg_status + 256 * p) = 0 ∧ rd (loadReplay s p) (E.nr_starts + 256 * p) = 0 ∧
    rd (loadReplay s p) (E.nr_record_id + 256 * p) = cut (E.nr_record_id + 256 * p) (leNat (b.drop 32)) ∧
    Tab.get none (loadReplay s p).replays p = some ⟨b.take 32, []⟩ := by
  have status : E.nr_status = 10616835 := rfl
  have mode : E.nr_mode = 10616833 := rfl
  have pkg : E.nr_pkg_status = 10616836 := rfl
  have record : E.nr_record_id = 10616838 := rfl
  have starts : E.nr_starts = 10616841 := rfl
  obtain ⟨small, small', -⟩ := nr_sizes hp
  have shape : loadReplay s p = match (if (replayPackage s p).2.1 = 0 then replaySeed s p else none) with
    | none => _
    | some b => if b.length ≠ 40 then _ else
      wr (wr (wr (wr (wr { (replayPackage s p).1 with replays := Tab.set none (replayPackage s p).1.replays p (some ⟨b.take 32, []⟩) }
        (E.nr_record_id + 256 * p) (leNat (b.drop 32))) (E.nr_starts + 256 * p) 0) (E.nr_pkg_status + 256 * p) 0) (E.nr_mode + 256 * p) 2)
        (E.nr_status + 256 * p) 2 := rfl
  rw [shape, if_pos opens, seed]
  dsimp only
  rw [if_neg (not_not.2 size)]
  refine ⟨?_, ?_, ?_, ?_, ?_, Tab.get_set_same none (replayPackage s p).1.replays p (some ⟨b.take 32, []⟩)⟩
  · rw [rd_wr_same, small]
    rfl
  · rw [rd_wr_other _ (by omega), rd_wr_same, small']
    rfl
  · rw [rd_wr_other _ (by omega), rd_wr_other _ (by omega), rd_wr_same, Nat.zero_mod]
  · rw [rd_wr_other _ (by omega), rd_wr_other _ (by omega), rd_wr_other _ (by omega), rd_wr_same, Nat.zero_mod]
  · rw [rd_wr_other _ (by omega), rd_wr_other _ (by omega), rd_wr_other _ (by omega), rd_wr_other _ (by omega), rd_wr_same]
    rfl

end


/-! ## Histograms and bandwidth windows (R849 to R851) -/

theorem writable_histCmd : Writable E.hist_cmd ⟨41792, 1, 1, 1, 1, 1, .cmd, 1, false, 0⟩ :=
  ⟨by decide, by decide, by decide, by decide, by decide⟩

section
variable {s : State} {via : Path}

theorem hist_effect {n : Instr} {v : Nat} (runs : exec n s = done s (access s (writeBytes via E.hist_cmd (leBytes 1 v)) histSem))
    (serves : Serves s E.hist_cmd) (op : 1 ≤ v ∧ v ≤ 3) :
    exec n s = done s (ended (if v = 1 then clearHist s else wr s E.hist_frozen (if v = 2 then 1 else 0)) E.hist_cmd 0) := by
  rw [command_effect runs serves writable_histCmd (not_heldBack (by decide) rfl) (by dsimp only; omega) (by decide) (decide_eq_true op) rfl,
    told_device (by decide)]
  rfl

theorem rd_clearHist (s : State) (k : Nat) : rd (clearHist s) k = if 0xA32000 ≤ k ∧ k < 0xA34000 then dictDefault k else rd s k :=
  Tab.get_clear (dictDefault k) s.dict 0xA32000 0xA34000 k

/-- A histogram's bin reads 0 before anything counts. -/
theorem dictDefault_latHist {x i : Nat} (hx : x < 32) (hi : i < 64) : dictDefault (E.lat_hist + 256 * x + i) = 0 := by
  have all : ∀ x < 32, ∀ i < 64, dictDefault (E.lat_hist + 256 * x + i) = 0 := by decide +kernel
  exact all x hx i hi

theorem histClear_leads (serves : Serves s E.hist_cmd) : Leads (.histClear via) s fun t => result t = 0 ∧
    (∀ x < 32, ∀ i < 64, rd t (E.lat_hist + 256 * x + i) = 0) ∧ rd t E.hist_frozen = rd s E.hist_frozen ∧ t.mem = s.mem := by
  have bins : E.lat_hist = 10690561 := rfl
  refine leads_ended (hist_effect (v := 1) rfl serves (by decide)) ⟨fun x hx i hi => ?_, ?_, rfl⟩ fun v q a h => h
  · rw [if_pos rfl, rd_clearHist, if_pos (by omega), dictDefault_latHist hx hi]
  · rw [if_pos rfl, rd_clearHist, if_neg (by decide)]

/-- The bytes moved in a window, by the first n sub-indices. -/
def windowBytes (s : State) (tx rx : List Nat) (n : Nat) : State :=
  (List.range n).foldl (fun t i => wr (wr t (E.bw_tx_bytes + i) (tx.getD i 0)) (E.bw_rx_bytes + i) (rx.getD i 0)) s

theorem windowBytes_succ (tx rx : List Nat) (n : Nat) : windowBytes s tx rx (n + 1) =
    wr (wr (windowBytes s tx rx n) (E.bw_tx_bytes + n) (tx.getD n 0)) (E.bw_rx_bytes + n) (rx.getD n 0) := by
  unfold windowBytes
  rw [List.range_succ, List.foldl_append, List.foldl_cons, List.foldl_nil]

theorem window_sizes {i : Nat} (hi : i < 0x67) : dictSize (E.bw_tx_bytes + i) = dictSize E.bw_tx_bytes ∧
    dictSize (E.bw_rx_bytes + i) = dictSize E.bw_rx_bytes := by
  have all : ∀ i < 0x67, dictSize (E.bw_tx_bytes + i) = dictSize E.bw_tx_bytes ∧ dictSize (E.bw_rx_bytes + i) = dictSize E.bw_rx_bytes := by
    decide +kernel
  exact all i hi

theorem rd_windowBytes (tx rx : List Nat) {n : Nat} (hn : n ≤ 0x67) :
    (∀ i < n, rd (windowBytes s tx rx n) (E.bw_tx_bytes + i) = cut E.bw_tx_bytes (tx.getD i 0) ∧
      rd (windowBytes s tx rx n) (E.bw_rx_bytes + i) = cut E.bw_rx_bytes (rx.getD i 0)) ∧
    ∀ k, (∀ i < n, k ≠ E.bw_tx_bytes + i ∧ k ≠ E.bw_rx_bytes + i) → rd (windowBytes s tx rx n) k = rd s k := by
  have sent : E.bw_tx_bytes = 10494209 := rfl
  have received : E.bw_rx_bytes = 10494465 := rfl
  induction n with
  | zero => exact ⟨fun i hi => absurd hi (Nat.not_lt_zero i), fun _ _ => rfl⟩
  | succ n ih =>
    obtain ⟨written, other⟩ := ih (by omega)
    obtain ⟨tx_, rx_⟩ := window_sizes (i := n) (by omega)
    rw [windowBytes_succ]
    refine ⟨fun i hi => ?_, fun k out => ?_⟩
    · rcases Nat.lt_succ_iff_lt_or_eq.1 hi with earlier | rfl
      · rw [rd_wr_other _ (by omega), rd_wr_other _ (by omega), rd_wr_other _ (by omega), rd_wr_other _ (by omega)]
        exact written i earlier
      · rw [rd_wr_other _ (by omega), rd_wr_same, rd_wr_same, tx_, rx_]
        exact ⟨rfl, rfl⟩
    · obtain ⟨notSent, notReceived⟩ := out n (by omega)
      rw [rd_wr_other _ notReceived, rd_wr_other _ notSent]
      exact other k fun i hi => out i (by omega)

theorem windowBytes_kept {β : Type} (f : State → β) (blind : ∀ u k v, f (wr u k v) = f u) (tx rx : List Nat) (n : Nat) :
    f (windowBytes s tx rx n) = f s :=
  foldl_keeps f (fun u i => (blind _ (E.bw_rx_bytes + i) _).trans (blind u (E.bw_tx_bytes + i) _)) (List.range n) s

theorem bwWindow_leads (tx rx : List Nat) : Leads (.bwWindowEnd tx rx) s fun t =>
    rd t E.bw_window_end = cut E.bw_window_end (now s) ∧ t.mem = s.mem ∧
    ∀ i < 0x67, rd t (E.bw_tx_bytes + i) = cut E.bw_tx_bytes (tx.getD i 0) ∧ rd t (E.bw_rx_bytes + i) = cut E.bw_rx_bytes (rx.getD i 0) := by
  have sent : E.bw_tx_bytes = 10494209 := rfl
  have received : E.bw_rx_bytes = 10494465 := rfl
  have window : E.bw_window_end = 10493954 := rfl
  have time : E.time_count = 2101764 := rfl
  obtain ⟨written, other⟩ := rd_windowBytes (s := s) tx rx (n := 0x67) (Nat.le_refl _)
  have clock : now (windowBytes s tx rx 0x67) = now s := other E.time_count fun i hi => ⟨by omega, by omega⟩
  refine leads_of_effect (u := wr (windowBytes s tx rx 0x67) E.bw_window_end (now (windowBytes s tx rx 0x67))) rfl ⟨?_, ?_, fun i hi => ?_⟩ fun v q h => h
  · rw [rd_wr_same, clock]
    rfl
  · exact (wr_mem ..).trans (windowBytes_kept State.mem (fun _ _ _ => rfl) tx rx 0x67)
  · rw [rd_wr_other _ (by omega), rd_wr_other _ (by omega)]
    exact written i hi

end

/-- Settles O60: a write of a command entry has its effect on the machine in which a leader has forwarded it; of the slots of a sector, of
the map of links and of the entries of a partition it is said once what the effect writes. -/
theorem keepersAndHistory : Obligations.KeepersAndHistory := by
  unfold Obligations.KeepersAndHistory
  refine ⟨fun s => ⟨fun via serves => ⟨keeper_unauthenticated serves, fun known => ⟨fun c low => ⟨fun refused => ?_, fun open_ none_ => ?_,
    fun k open_ free => ?_⟩, fun x k hx hk => ⟨fun bad => ?_, fun slot idle => ?_⟩⟩⟩, fun x k passed hx hk => ⟨fun other => ?_,
    fun c tested clean idle => ?_⟩, fun k link => ⟨fun via serves => ⟨fun unknown => ?_, fun known => ?_⟩, fun few => ?_, fun many in_ free => ?_⟩,
    fun passed => ⟨fun none_ => ?_, fun some_ => ?_⟩⟩, fun s => ⟨fun via p hp serves => ⟨fun unknown => ?_, fun known => ?_⟩, fun via serves => ?_,
    fun tx rx => bwWindow_leads tx rx⟩⟩
  · exact accepts_of_effect (keeperSwap_effect serves known low) (keeperSwap_refused refused) rfl
  · exact accepts_of_effect (keeperSwap_effect serves known low) (keeperSwap_none open_ none_) rfl
  · exact leads_ended (keeperSwap_effect serves known low) (keeperSwap_leads low open_ free) fun v q a h => h
  · exact accepts_of_effect (keeperSelftest_effect serves known hx hk) (keeperTest_refused bad) rfl
  · exact accepts_of_effect (keeperSelftest_effect serves known hx hk) (keeperTest_begins slot idle) rfl
  · rw [Stays, show exec (.keeperSelftestDone x k passed) s = done s (keeperTestDone s x k passed) from if_pos (decide_eq_true ⟨hx, hk⟩),
      keeperTestDone_other passed other]
    exact done_eq rfl
  · obtain ⟨distinct, low⟩ := clean
    exact leads_of_effect (show exec (.keeperSelftestDone x k passed) s = done s (keeperTestDone s x k passed) from if_pos (decide_eq_true ⟨hx, hk⟩))
      (keeperTestDone_leads hx hk passed tested distinct low idle) fun v q h => h
  · exact ⟨exec_heldBack (exec_meshDetour link) serves writable_meshLinkCmd ⟨.inr rfl, unknown, rfl⟩,
      exec_heldBack (exec_meshLinkTest link) serves writable_meshLinkCmd ⟨.inr rfl, unknown, rfl⟩,
      exec_heldBack (exec_meshLinkRestore link) serves writable_meshLinkCmd ⟨.inr rfl, unknown, rfl⟩⟩
  · have detours := mesh_effect link (op := 1) (by decide) (exec_meshDetour link) serves known
    have tests := mesh_effect link (op := 2) (by decide) (exec_meshLinkTest link) serves known
    have restores := mesh_effect link (op := 3) (by decide) (exec_meshLinkRestore link) serves known
    refine ⟨fun crosses => accepts_of_effect detours (detour_refused crosses) rfl, fun free => ?_, fun in_ => ⟨?_, ?_⟩, fun out => ⟨?_, ?_⟩⟩
    · refine leads_ended detours ?_ fun v q a h => h
      rw [show meshDoes 1 s k = detour s k from rfl, detour_made free]
      exact ⟨(rd_meshMarked s k true).1, meshMarked_map link true⟩
    · exact accepts_of_effect tests (meshTest_in in_) rfl
    · exact accepts_of_effect restores (meshRestore_in in_) rfl
    · refine leads_ended tests ?_ fun v q a h => h
      rw [show meshDoes 2 s k = meshTest s k from rfl, meshTest_out out]
      refine ⟨rd_wr_same _ _ _, rfl, ?_, fun j _ _ => ?_⟩
      · rw [rd_wr_other _ (by decide)]
        exact out
      · rw [rd_wr_other _ (by decide)]
        rfl
    · refine leads_ended restores ?_ fun v q a h => h
      rw [show meshDoes 3 s k = meshRestore s k from rfl, meshRestore_out out]
      exact ⟨(rd_meshMarked s k false).1, meshMarked_map link false⟩
  · rw [show exec (.meshLinkRepeat k) s = done s (meshRepeat s k) from if_pos (decide_eq_true link), meshRepeat_few few]
    exact done_eq rfl
  · exact meshRepeat_detours link many in_ free
  · rw [Stays, show exec (.meshLinkTestDone passed) s = done s (meshTestDone s passed) from rfl, meshTestDone, none_]
    exact done_eq rfl
  · obtain ⟨k, is⟩ := Option.ne_none_iff_exists'.1 some_
    rw [show exec (.meshLinkTestDone passed) s = done s (meshTestDone s passed) from rfl, meshTestDone, is]
    exact done_eq rfl
  · exact ⟨nr_unauthenticated hp serves (v := 1) rfl unknown, nr_unauthenticated hp serves (v := 2) rfl unknown,
      nr_unauthenticated hp serves (v := 3) rfl unknown⟩
  · obtain ⟨l, arms⟩ := nr_effect hp serves (n := .nrArm via p) (v := 1) rfl known (by decide)
    obtain ⟨m, loads⟩ := nr_effect hp serves (n := .nrLoad via p) (v := 2) rfl known (by decide)
    obtain ⟨o, erases⟩ := nr_effect hp serves (n := .nrErase via p) (v := 3) rfl known (by decide)
    have tells {n : Instr} {v c : Nat} {l : List Out} (small : c < 256)
        (runs : exec n s = done s (ended (nrCommand { s with sent := l } p v) (E.nr_cmd + 256 * p) 0))
        (is : nrCommand { s with sent := l } p v = wr { s with sent := l } (E.nr_status + 256 * p) c) : Leads n s fun t => result t = 0 ∧
          rd t (E.nr_status + 256 * p) = c ∧ rd t (E.nr_mode + 256 * p) = rd s (E.nr_mode + 256 * p) ∧ t.replays = s.replays ∧ t.mem = s.mem := by
      rw [is] at runs
      obtain ⟨status, mode⟩ := nr_tells (s := { s with sent := l }) hp small
      exact leads_ended runs ⟨status, mode, rfl, rfl⟩ fun v q a h => h
    obtain ⟨same, seed⟩ := replayPackage_sent (s := s) (p := p) m
    refine ⟨fun unkeyed => tells (by decide) arms (nrCommand_unkeyed (not_not.1 unkeyed)),
      fun keyed busy => tells (by decide) arms (nrCommand_busy (fun _ => keyed) busy),
      fun busy => ⟨tells (by decide) loads (nrCommand_busy (fun is => absurd is (by decide)) busy), tells (by decide) erases (nrCommand_busy (fun is => absurd is (by decide)) busy)⟩,
      fun keyed quiet failing => tells (by decide) arms ((nrCommand_arm (s := { s with sent := l }) quiet keyed).trans (if_pos failing)), fun keyed quiet passing => ?_,
      fun quiet => ?_, fun quiet code => ?_, fun quiet opens fails => ?_, fun b quiet opens plain size => ?_⟩
    · refine leads_ended arms ?_ fun v q a h => h
      have is : nrCommand { s with sent := l } p 1 = armReplay { s with sent := l } p := (nrCommand_arm (s := { s with sent := l }) quiet keyed).trans (if_neg passing)
      rw [is]
      exact armReplay_leads hp
    · refine leads_ended erases ?_ fun v q a h => h
      rw [nrCommand_erase (s := { s with sent := o }) quiet]
      exact eraseSeed_leads hp
    all_goals
      refine leads_ended loads ?_ fun v q a h => h
      rw [nrCommand_load (s := { s with sent := m }) quiet]
    · obtain ⟨status, mode, replays, told⟩ := loadReplay_failed (s := { s with sent := m }) hp (c := (replayPackage s p).2.1)
        (by rw [same]; exact if_neg code) (by rw [same]; exact if_neg code)
      exact ⟨status, mode, replays, told⟩
    · obtain ⟨status, -, replays, told⟩ := loadReplay_failed (s := { s with sent := m }) hp (c := 0x0703)
        (by rw [same]; exact if_pos opens) (by rw [same, seed]; exact (if_pos opens).trans fails)
      refine ⟨status, replays, told.trans ?_⟩
      rw [cut, (nr_sizes hp).2.2]
      rfl
    · exact loadReplay_loads (s := { s with sent := m }) hp (by rw [same]; exact opens) (by rw [seed]; exact plain) size
  · exact ⟨histClear_leads serves, accepts_of_effect (hist_effect (v := 2) rfl serves (by decide)) rfl rfl,
      accepts_of_effect (hist_effect (v := 3) rfl serves (by decide)) rfl rfl⟩

end Sys2Proof.Machine
end

section
/-! SUPPORT. Device-level and sector resets (R789 to R796). -/

namespace Sys2Proof.Machine

open Sys2Proof

/-! ## What the switched domains lose with their power (R49, R719) -/

/-- The entries that the loss of the switched domains writes: the first key, and how many. -/
def lossKeys : List (Nat × Nat) :=
  [(E.domain_state, 40), (E.sleep_phase, 1), (E.landing_ranges_open, 32), (E.pke_lost_job_count, 1), (E.pad_hold, 1), (E.pacer_lock_status, 1),
    (E.port_state, 34), (E.lane_map, 34), (E.neighbour, 34), (E.route_converged, 1), (E.link_down_count, 34), (E.link_flits_lost_count, 1)]

/-- An entry of none of these. -/
def Survives (k : Nat) : Bool := lossKeys.all fun e => decide (k < e.1 ∨ e.1 + e.2 ≤ k)

theorem survives_apart {k b n i : Nat} (h : Survives k = true) (listed : (b, n) ∈ lossKeys) (inside : i < n) : k ≠ b + i := by
  have apart := of_decide_eq_true (List.all_eq_true.1 h _ listed)
  dsimp only at apart
  omega

theorem survives_ne {k b n : Nat} (h : Survives k = true) (listed : (b, n) ∈ lossKeys) (some_ : 0 < n) : k ≠ b := survives_apart h listed some_

theorem rd_clearCores (s : State) (x keep k : Nat) : rd (clearCores s x keep) k = rd s k :=
  rd_congr (foldl_keeps State.dict (fun t _ => setCore_dict t ..) _ s) k

/-- What the loss of the switched domains leaves alone beside entries and memory. -/
def residue (s : State) : HostSide × Recovery × Island × Pins := (s.host, s.recovery, s.island, s.pins)

/-- Sector x without its memory and its cores' contents. -/
def sectorEmptied (s : State) (x keep : Nat) (commons : Bool) : State :=
  let c := 25 * x
  let s := zeroFill s (Mem.tile c 0 0) (Mem.tile (c + 25) 0 0)
  let s := zeroFill s (Mem.acc c 0 0) (Mem.acc (c + 25) 0 0)
  let s := zeroFill s (Mem.prog c 0 0) (Mem.prog (c + 25) 0 0)
  let s := clearCores (clearCoreMemory s x keep) x keep
  if commons then s else zeroFill s (Mem.commons x 0) (Mem.commons x 0x800000)

theorem rd_sectorEmptied (s : State) (x keep : Nat) (commons : Bool) (k : Nat) : rd (sectorEmptied s x keep commons) k = rd s k := by
  unfold sectorEmptied
  cases commons
  · exact (rd_congr (zeroFill_dict ..) k).trans (rd_clearCores ..)
  · exact rd_clearCores ..

/-- Sector x has no landing range, no write on its way and nothing in its record beside its levels. -/
def recordLost (t : State) (x : Nat) : State :=
  let s := { t with arrivals := t.arrivals.filter fun a => a.sector != some x }
  let v := sector s x
  setSector s x { Sector.init with cap := v.cap, throttle := v.throttle, pace := v.pace, volt := v.volt, slept := v.slept }

theorem sectorLost_eq (s : State) (x keep : Nat) (commons : Bool) :
    sectorLost s x keep commons = recordLost (setLanding (sectorEmptied s x keep commons) x []) x := rfl

theorem recordLost_rest (t : State) (x : Nat) : (recordLost t x).dict = t.dict ∧ (recordLost t x).supply = t.supply ∧
    (recordLost t x).mem = t.mem ∧ (recordLost t x).cores = t.cores ∧ (recordLost t x).recovery = t.recovery ∧ (recordLost t x).host = t.host ∧
    (recordLost t x).island = t.island ∧ (recordLost t x).pins = t.pins := ⟨rfl, rfl, rfl, rfl, rfl, rfl, rfl, rfl⟩

theorem sectorLost_dict (s : State) (x keep : Nat) (commons : Bool) :
    (sectorLost s x keep commons).dict = (setLanding (sectorEmptied s x keep commons) x []).dict := by
  rw [sectorLost_eq]
  exact (recordLost_rest ..).1

/-- The switched domains without their power. -/
def mainEmptied (s : State) : State :=
  wr (wr ((List.range 40).foldl (fun t d => setDomain t d 4)
    (pkeLost (portsDisable ((List.range 32).foldl (fun t x => sectorLost t x 0 false) (abandonEntry s))))) E.pad_hold 0) E.pacer_lock_status 0

/-- HBM that loses its contents. -/
def hbmLost (s : State) : State := { zeroFill s 0 (2 ^ 38) with hbm := { s.hbm with lost := [], soft := [], op := none, waiting := [] } }

/-- No domain wakes, and no die is hot. -/
def unfed (t : State) : State := { t with power := { t.power with waking := 0, byRequest := 0 }, supply := { t.supply with dieHot := false } }

theorem mainLost_eq (s : State) (keep : Bool) : mainLost s keep = unfed (if keep then mainEmptied s else hbmLost (mainEmptied s)) := rfl

theorem unfed_rest (t : State) : (unfed t).dict = t.dict ∧ residue (unfed t) = residue t ∧ (unfed t).supply = { t.supply with dieHot := false } :=
  ⟨rfl, rfl, rfl⟩

theorem hbmLost_rest (t : State) : (hbmLost t).dict = t.dict ∧ residue (hbmLost t) = residue t ∧ (hbmLost t).supply = t.supply := ⟨rfl, rfl, rfl⟩

/-- What the loss of HBM's contents does not touch. -/
theorem mainLost_rest (s : State) (keep : Bool) : (mainLost s keep).dict = (mainEmptied s).dict ∧
    residue (mainLost s keep) = residue (mainEmptied s) ∧ (mainLost s keep).supply = { (mainEmptied s).supply with dieHot := false } := by
  obtain ⟨dict, rest, supply⟩ := unfed_rest (if keep then mainEmptied s else hbmLost (mainEmptied s))
  obtain ⟨dict', rest', supply'⟩ := hbmLost_rest (mainEmptied s)
  rw [mainLost_eq, dict, rest, supply]
  cases keep
  · rw [if_neg (by decide), dict', rest', supply']
    exact ⟨rfl, rfl, rfl⟩
  · rw [if_pos rfl]
    exact ⟨rfl, rfl, rfl⟩

theorem rd_sectorLost_other {x k : Nat} (far : k ≠ E.landing_ranges_open + x) (s : State) (keep : Nat) (commons : Bool) :
    rd (sectorLost s x keep commons) k = rd s k := by
  rw [rd_congr (sectorLost_dict ..), setLanding, rd_wr_other _ far, rd_congr (setSector_dict ..), rd_sectorEmptied]

section
variable {k : Nat} (h : Survives k = true)
include h

theorem rd_abandonEntry_survives (s : State) : rd (abandonEntry s) k = rd s k := by
  unfold abandonEntry
  split
  · rfl
  · rw [rd_wr_other _ (survives_ne h (n := 1) (by decide) (by decide))]
    refine (foldl_keeps_of_mem (rd · k) (fun d hd t => ?_) _).trans rfl
    split
    · exact rd_wr_other _ (survives_apart h (n := 40) (by decide) (List.mem_range.1 hd)) _
    · rfl

theorem rd_sectorLost {x : Nat} (hx : x < 32) (s : State) (keep : Nat) (commons : Bool) : rd (sectorLost s x keep commons) k = rd s k :=
  rd_sectorLost_other (survives_apart h (n := 32) (by decide) hx) s keep commons

theorem rd_portOut_survives {p : Nat} (hp : p < 34) (s : State) (st : Nat) : rd (portOut s p st) k = rd s k := by
  have apart : Apart p k := ⟨survives_apart h (n := 34) (by decide) hp, survives_apart h (n := 34) (by decide) hp,
    survives_apart h (n := 34) (by decide) hp, survives_ne h (n := 1) (by decide) (by decide)⟩
  rw [rd_portOut s apart]
  unfold dropCounted
  split
  · split
    · rw [rd_inc_other _ (survives_apart h (n := 34) (by decide) hp)]
      exact rd_wr_other _ (survives_ne h (n := 1) (by decide) (by decide)) _
    · rfl
  · rfl

theorem rd_portsOff (s : State) (d : Nat) : rd (portsOff s d) k = rd s k :=
  foldl_keeps_of_mem (rd · k) (fun p member t => by
    split
    · rfl
    · exact rd_portOut_survives h (List.mem_range.1 (List.mem_filter.1 member).1) t 0) s

theorem rd_portsDisable (s : State) : rd (portsDisable s) k = rd s k := foldl_keeps (rd · k) (fun t d => rd_portsOff h t d) _ s

theorem rd_pkeLost (s : State) : rd (pkeLost s) k = rd s k := by
  unfold pkeLost pkeWipe
  dsimp only
  rw [rd_congr (zeroFill_dict ..)]
  split
  · exact rd_inc_other _ (survives_ne h (n := 1) (by decide) (by decide))
  · rfl

theorem rd_mainEmptied (s : State) : rd (mainEmptied s) k = rd s k := by
  have domains (t : State) : rd ((List.range 40).foldl (fun t d => setDomain t d 4) t) k = rd t k :=
    foldl_keeps_of_mem (rd · k) (fun d hd t => rd_wr_other t (survives_apart h (n := 40) (by decide) (List.mem_range.1 hd)) 4) t
  have sectors (t : State) : rd ((List.range 32).foldl (fun t x => sectorLost t x 0 false) t) k = rd t k :=
    foldl_keeps_of_mem (rd · k) (fun x hx t => rd_sectorLost h (List.mem_range.1 hx) t 0 false) t
  rw [mainEmptied, rd_wr_other _ (survives_ne h (n := 1) (by decide) (by decide)), rd_wr_other _ (survives_ne h (n := 1) (by decide) (by decide)),
    domains, rd_pkeLost h, rd_portsDisable h, sectors, rd_abandonEntry_survives h]

theorem rd_mainLost (s : State) (keep : Bool) : rd (mainLost s keep) k = rd s k := (rd_congr (mainLost_rest ..).1 k).trans (rd_mainEmptied h s)

end

section
variable (s : State)

@[simp] theorem residue_wr (k v : Nat) : residue (wr s k v) = residue s := by simp only [residue, wr]
@[simp] theorem residue_inc (k : Nat) : residue (inc s k) = residue s := residue_wr ..
@[simp] theorem residue_incBy (k n : Nat) : residue (incBy s k n) = residue s := residue_wr ..
@[simp] theorem residue_emit (o : Out) : residue (emit s o) = residue s := by simp only [residue, emit]
@[simp] theorem residue_freeCtr (n : Nat) : residue { s with freeCtr := n } = residue s := by simp only [residue]
@[simp] theorem residue_power (p : PowerMgr) : residue { s with power := p } = residue s := by simp only [residue]
@[simp] theorem residue_pke (p : Pke) : residue { s with pke := p } = residue s := by simp only [residue]
@[simp] theorem residue_setPort (p : Nat) (v : Port) : residue (setPort s p v) = residue s := by simp only [residue, setPort]
@[simp] theorem residue_setRoute (n v : Nat) : residue (setRoute s n v) = residue s := by simp only [residue, setRoute]
@[simp] theorem residue_setPath (p d : Nat) (l : List Nat) : residue (setPath s p d l) = residue s := by simp only [residue, setPath]
@[simp] theorem residue_setPortWord (p v : Nat) : residue (setPortWord s p v) = residue s := residue_wr ..
@[simp] theorem residue_setState (p v : Nat) : residue (setState s p v) = residue s := residue_wr ..
@[simp] theorem residue_setWidth (p v : Nat) : residue (setWidth s p v) = residue s := residue_wr ..
@[simp] theorem residue_setKeeper (p v : Nat) : residue (setKeeper s p v) = residue s := residue_wr ..
@[simp] theorem residue_setBurn (p v : Nat) : residue (setBurn s p v) = residue s := residue_wr ..
@[simp] theorem residue_setLane (p k v : Nat) : residue (setLane s p k v) = residue s := residue_wr ..
@[simp] theorem residue_setDomain (d v : Nat) : residue (setDomain s d v) = residue s := residue_wr ..
@[simp] theorem residue_setSector (x : Nat) (v : Sector) : residue (setSector s x v) = residue s := by simp only [residue, setSector]
@[simp] theorem residue_zeroFill (lo hi : Nat) : residue (zeroFill s lo hi) = residue s := by simp only [residue, zeroFill]

@[simp] theorem residue_computeRoute (d : Nat) : residue (computeRoute s d) = residue s := by simp [computeRoute, apply_ite residue]

@[simp] theorem residue_advertise (d : Nat) : residue (advertise s d) = residue s := by
  unfold advertise
  split
  · rfl
  · exact foldl_keeps residue (fun t _ => residue_emit t _) _ s

@[simp] theorem residue_routeChanged (s0 : State) (d : Nat) : residue (routeChanged s0 s d) = residue s := by
  simp [routeChanged, apply_ite residue]

@[simp] theorem residue_withdrawPort (s0 : State) (p : Nat) : residue (withdrawPort s0 s p) = residue s :=
  foldl_keeps residue (fun t _ => by simp) _ s

@[simp] theorem residue_stopBurnish (p : Nat) : residue (stopBurnish s p) = residue s := by
  unfold stopBurnish
  split <;> simp

@[simp] theorem residue_portOut (p st : Nat) : residue (portOut s p st) = residue s := by
  simp [portOut, dropLink, forgetNeighbour, apply_ite residue]

@[simp] theorem residue_portsDisable : residue (portsDisable s) = residue s :=
  foldl_keeps residue (fun t d => foldl_keeps residue (fun u p => by simp [apply_ite residue]) _ t) _ s

theorem residue_clearCores (x keep : Nat) : residue (clearCores s x keep) = residue s :=
  foldl_keeps residue (fun t p => by simp only [residue, setCore]) _ s

theorem residue_sectorEmptied (x keep : Nat) (commons : Bool) : residue (sectorEmptied s x keep commons) = residue s := by
  unfold sectorEmptied
  dsimp only
  rw [apply_ite residue, residue_zeroFill, ite_self, residue_clearCores]
  rfl

@[simp] theorem residue_sectorLost (x keep : Nat) (commons : Bool) : residue (sectorLost s x keep commons) = residue s := by
  obtain ⟨-, -, -, -, recovery, host, island, pins⟩ := recordLost_rest (setLanding (sectorEmptied s x keep commons) x []) x
  have kept : residue (setLanding (sectorEmptied s x keep commons) x []) = residue s := by
    rw [setLanding, residue_wr, residue_setSector, residue_sectorEmptied]
  rw [sectorLost_eq, ← kept]
  unfold residue
  rw [recovery, host, island, pins]

@[simp] theorem residue_abandonEntry : residue (abandonEntry s) = residue s := by
  unfold abandonEntry
  split
  · rfl
  · rw [residue_wr]
    exact (foldl_keeps residue (fun t d => by simp [apply_ite residue]) _ _).trans (residue_power ..)

@[simp] theorem residue_pkeLost : residue (pkeLost s) = residue s := by simp [pkeLost, pkeWipe, apply_ite residue]

theorem residue_mainEmptied : residue (mainEmptied s) = residue s := by
  unfold mainEmptied
  rw [residue_wr, residue_wr, foldl_keeps residue (fun t d => residue_setDomain t d 4), residue_pkeLost, residue_portsDisable,
    foldl_keeps residue (fun t x => residue_sectorLost t x 0 false), residue_abandonEntry]

theorem residue_mainLost (keep : Bool) : residue (mainLost s keep) = residue s := by
  rw [(mainLost_rest s keep).2.1, residue_mainEmptied]

theorem mainEmptied_supply : (mainEmptied s).supply = s.supply := by
  have engine (t : State) : (pkeLost t).supply = t.supply := by
    unfold pkeLost pkeWipe
    rw [zeroFill_supply]
    dsimp only
    rw [apply_ite State.supply, supply_of_still (still_inc ..), ite_self]
  have emptied (x : Nat) (t : State) : (sectorEmptied t x 0 false).supply = t.supply := by
    unfold sectorEmptied
    dsimp only
    rw [if_neg (by decide), zeroFill_supply]
    exact foldl_keeps State.supply (fun t p => setCore_supply t ..) _ _
  have lost (x : Nat) (t : State) : (sectorLost t x 0 false).supply = t.supply := by
    rw [sectorLost_eq, (recordLost_rest ..).2.1, setLanding, wr_supply, setSector_supply, emptied]
  unfold mainEmptied
  rw [wr_supply, wr_supply, supply_of_still (foldl_setDomain_still ..), engine, supply_of_still (still_portsDisable _),
    foldl_keeps State.supply (fun t x => lost x t), supply_of_still (still_abandonEntry s)]

theorem mainLost_supply (keep : Bool) : (mainLost s keep).supply = { s.supply with dieHot := false } := by
  rw [(mainLost_rest s keep).2.2, mainEmptied_supply]

end


/-! ## Device-level resets (R789 to R791, R796) -/

/-- The entries that a device-level reset writes beside those of the switched domains: the first key, and how many. -/
def resetKeys : List (Nat × Nat) :=
  [(E.crash_lost_count, 1), (E.crash_state, 1), (E.sg_records_used, 1), (E.sg_staging_used_bytes, 1), (E.twin_role, 1), (E.twin_detach_cause, 1),
    (E.ord_lost_count, 1), (E.ord_held, 1), (E.releases_held, 1), (E.pke_job_status, 1), (E.pke_job_state, 1), (E.pcie_link_status, 1),
    (E.i3c_static_address, 1), (E.lifecycle_state, 1), (E.svn_floor, 1), (E.timeref_status, 1), (E.device_reset_count, 1), (E.last_reset_kind, 1),
    (E.last_reset_time, 1), (E.sector_level, 32), (E.power_cap_effective_w, 1), (E.hbm_capacity_bytes, 1), (E.nr_mode, 7937)]

/-- An entry of none of these. -/
def Spared (k : Nat) : Bool := Survives k && resetKeys.all fun e => decide (k < e.1 ∨ e.1 + e.2 ≤ k)

theorem spared_survives {k : Nat} (h : Spared k = true) : Survives k = true := (Bool.and_eq_true_iff.1 h).1

theorem spared_apart {k b n i : Nat} (h : Spared k = true) (listed : (b, n) ∈ resetKeys) (inside : i < n) : k ≠ b + i := by
  have apart := of_decide_eq_true (List.all_eq_true.1 (Bool.and_eq_true_iff.1 h).2 _ listed)
  dsimp only at apart
  omega

theorem spared_ne {k b : Nat} (h : Spared k = true) (listed : (b, 1) ∈ resetKeys) : k ≠ b := spared_apart (i := 0) h listed (by decide)

/-- The entries that keep their values through a warm reset (R13, R791). -/
theorem rd_dictReset (s : State) (k : Nat) : rd (dictReset s true) k = if 2 ≤ dictPers k then rd s k else dictDefault k := by
  unfold rd dictReset Tab.get
  dsimp only
  rw [if_pos rfl, Tab.find?_filter (fun j => decide (2 ≤ dictPers j))]
  by_cases kept : 2 ≤ dictPers k
  · rw [if_pos (decide_eq_true kept), if_pos kept]
  · rw [if_neg (by simpa using kept), if_neg kept]
    rfl

/-- What a reset's units and levels leave alone. -/
structure Lasting where
  cores : Tab Core
  supply : Supply
  recovery : Recovery
  host : HostSide
  sessions : List Session
  windows : Tab Win
  laces : Tab Lace

def lasting (s : State) : Lasting := ⟨s.cores, s.supply, s.recovery, s.host, s.sessions, s.windows, s.laces⟩

theorem of_lasting {s t : State} (h : lasting s = lasting t) : s.cores = t.cores ∧ s.supply = t.supply ∧ s.recovery = t.recovery ∧ s.host = t.host ∧
    s.sessions = t.sessions ∧ s.windows = t.windows ∧ s.laces = t.laces := by
  simpa only [lasting, Lasting.mk.injEq] using h

section
variable (s : State)

@[simp] theorem lasting_wr (k v : Nat) : lasting (wr s k v) = lasting s := by simp only [lasting, wr]
@[simp] theorem lasting_inc (k : Nat) : lasting (inc s k) = lasting s := lasting_wr ..
@[simp] theorem lasting_incBy (k n : Nat) : lasting (incBy s k n) = lasting s := lasting_wr ..
@[simp] theorem lasting_setSector (x : Nat) (v : Sector) : lasting (setSector s x v) = lasting s := by simp only [lasting, setSector]
@[simp] theorem lasting_setPortWord (p v : Nat) : lasting (setPortWord s p v) = lasting s := lasting_wr ..

@[simp] theorem lasting_noteGroups : lasting (noteGroups s) = lasting s := by simp [noteGroups]

@[simp] theorem lasting_regrant (x : Nat) : lasting (regrant s x) = lasting s := by
  unfold regrant startRamp
  dsimp only
  split
  · rfl
  · split <;> simp

@[simp] theorem lasting_levelsReset : lasting (levelsReset s) = lasting s := foldl_keeps lasting (fun t x => by simp) _ s

/-- The entries that the units' resets write after their own records. -/
def unitEntries (s : State) : State := pkeReset (noteReleases (heldLost (refreshCables (twinReset s))))

theorem lasting_unitEntries : lasting (unitEntries s) = lasting s := by
  have cables (t : State) : lasting (refreshCables t) = lasting t := foldl_keeps lasting (fun t p => lasting_setPortWord t p _) _ t
  have pair (t : State) : lasting (twinReset t) = lasting t := by
    unfold twinReset
    dsimp only
    split
    · rfl
    · rw [lasting_wr, lasting_wr]
      rfl
  have held (t : State) : lasting (heldLost t) = lasting t := by
    unfold heldLost noteHeld
    rw [lasting_wr]
    refine (show _ = lasting (incBy { t with det := Det.init } E.ord_lost_count t.det.held.length) from rfl).trans ?_
    rw [lasting_incBy]
    rfl
  have engine (t : State) : lasting (pkeReset t) = lasting t := by
    unfold pkeReset
    split
    · rw [lasting_wr, lasting_wr]
      rfl
    · rfl
  unfold unitEntries noteReleases
  rw [engine, lasting_wr, held, cables, pair]

theorem rd_unitEntries {k : Nat} (h : Spared k = true) : rd (unitEntries s) k = rd s k := by
  have cables (t : State) : rd (refreshCables t) k = rd t k := foldl_keeps_of_mem (rd · k) (fun p hp t =>
    rd_wr_other t (survives_apart (spared_survives h) (b := E.port_state) (n := 34) (by decide) (List.mem_range.1 hp)) _) t
  have pair (t : State) : rd (twinReset t) k = rd t k := by
    unfold twinReset
    dsimp only
    split
    · rfl
    · rw [rd_wr_other _ (spared_ne h (by decide)), rd_wr_other _ (spared_ne h (by decide))]
      rfl
  have held (t : State) : rd (heldLost t) k = rd t k := by
    unfold heldLost noteHeld
    rw [rd_wr_other _ (spared_ne h (by decide))]
    exact rd_wr_other _ (spared_ne h (by decide)) _
  have engine (t : State) : rd (pkeReset t) k = rd t k := by
    unfold pkeReset
    split
    · rw [rd_wr_other _ (spared_ne h (by decide)), rd_wr_other _ (spared_ne h (by decide))]
      rfl
    · rfl
  unfold unitEntries noteReleases
  rw [engine, rd_wr_other _ (spared_ne h (by decide)), held, cables, pair]

/-- No lacing, window, step, route or release is left. -/
def unitRecords (s : State) : State := { s with
  laces := [], handles := [], windows := [], transport := Transport.init, step := StepSt.init, routes := [], paths := []
  island := { Island.init with scrubs := s.island.scrubs } }

/-- A power-on reset loses the answers of groups and the replays. -/
def replaysErased (s : State) : State := (List.range 32).foldl eraseReplay { s with resolved := [] }

theorem unitsReset_eq (kind : Nat) : unitsReset s kind = unitEntries (if kind = 1 then replaysErased (unitRecords (resetGroups s (kind != 1 && s.supply.mainOn)))
    else unitRecords (resetGroups s (kind != 1 && s.supply.mainOn))) := rfl

theorem rd_replaysErased {k : Nat} (h : Spared k = true) : rd (replaysErased s) k = rd s k := by
  have erased (p : Nat) (hp : p ∈ List.range 32) (t : State) : rd (eraseReplay t p) k = rd t k := by
    have place := List.mem_range.1 hp
    rw [eraseReplay, rd_wr_other _ (spared_apart (b := E.nr_mode) (n := 7937) h (by decide) (by omega))]
    rfl
  unfold replaysErased
  exact (foldl_keeps_of_mem (rd · k) erased _).trans rfl

theorem lasting_replaysErased : lasting (replaysErased s) = lasting s := by
  have erased (t : State) (p : Nat) : lasting (eraseReplay t p) = lasting t := by
    rw [eraseReplay, lasting_wr]
    rfl
  unfold replaysErased
  exact (foldl_keeps lasting erased _ _).trans rfl

/-- What `unitsReset` leaves of the machine. -/
theorem unitsReset_leads (kind : Nat) : lasting (unitsReset s kind) = { lasting s with windows := [], laces := [] } ∧
    ∀ k, Spared k = true → rd (unitsReset s kind) k = rd s k := by
  have grouped (b : Bool) : lasting (resetGroups s b) = lasting s := by
    unfold resetGroups
    dsimp only
    rw [lasting_noteGroups]
    rfl
  have record (t : State) : lasting (unitRecords t) = { lasting t with windows := [], laces := [] } := rfl
  have same {k : Nat} (h : Spared k = true) : rd (unitRecords (resetGroups s (kind != 1 && s.supply.mainOn))) k = rd s k := by
    refine (show _ = rd (resetGroups s (kind != 1 && s.supply.mainOn)) k from rfl).trans ?_
    unfold resetGroups noteGroups
    dsimp only
    rw [rd_wr_other _ (spared_ne h (by decide)), rd_wr_other _ (spared_ne h (by decide))]
    rfl
  rw [unitsReset_eq]
  refine ⟨?_, fun k h => ?_⟩
  · rw [lasting_unitEntries]
    split
    · rw [lasting_replaysErased, record, grouped]
    · rw [record, grouped]
  · rw [rd_unitEntries _ h]
    split
    · rw [rd_replaysErased _ h, same h]
    · exact same h

end

/-! ## The stages of a device-level reset -/

/-- The machine once the switched domains have lost their power. -/
def resetLost (s : State) (kind : Nat) : State :=
  let t := bootLog (crashAtReset s kind) 5 kind 0 0 []
  mainLost t t.supply.mainOn

/-- No unlock waits. -/
def unlockDone (u : State) : State := { u with island := { u.island with unlock := false } }

/-- The entries that outlive the reset beside those of their class, and the status of the reference. -/
def resetEntries (u v : State) : State :=
  let v := wr (wr (wr (wr v E.pcie_link_status (rd u E.pcie_link_status)) E.i3c_static_address (rd u E.i3c_static_address)) E.lifecycle_state
    (if u.island.unlock ∧ rd u E.lifecycle_state = 2 then 3 else rd u E.lifecycle_state)) E.svn_floor (rd u E.svn_floor)
  timerefReset v (rd u E.timeref_status)

def resetMarked (v : State) (kind : Nat) : State := wr (wr (inc v E.device_reset_count) E.last_reset_kind kind) E.last_reset_time (now v)

/-- What the recovery unit, the power manager and the host attachment keep. -/
def resetRecord (s : State) (kind : Nat) : State :=
  let r := s.recovery
  { s with
    recovery := { r with
      escal := if kind = 5 ∨ kind = 6 then r.escal ++ [now s] else r.escal
      kind := kind, keeper := none, meshTest := none, meshRepeats := [], fullTest := none, deferred := none }
    hbm := { s.hbm with op := none, waiting := [], soft := [] }
    power := { PowerMgr.init with owes713 := s.power.owes713 }
    host := { s.host with dw := DictWindow.init, stalled := [] }
    supply := { s.supply with mrstWaits := false }
    sessions := [] }

def resetTold (s : State) : State := capacityNow (refreshCap (levelsReset s))

theorem startReset_eq (s : State) (kind : Nat) : startReset s kind = resetTold (resetRecord (resetMarked (resetEntries (resetLost s kind)
    (unitsReset (dictReset (unlockDone (resetLost s kind)) true) kind)) kind) kind) := rfl

section
variable {k : Nat}

theorem rd_crashAtReset (count : k ≠ E.crash_lost_count) (state : k ≠ E.crash_state) (s : State) (kind : Nat) :
    rd (crashAtReset s kind) k = rd s k := by
  unfold crashAtReset
  split
  · rfl
  · dsimp only
    refine (show _ = rd (if kind = 3 then wr (incBy s E.crash_lost_count _) E.crash_state 4 else incBy s E.crash_lost_count _) k from rfl).trans ?_
    split
    · rw [rd_wr_other _ state]
      exact rd_wr_other _ count _
    · exact rd_wr_other _ count _

theorem rd_resetTold (levels : ∀ x < 32, k ≠ E.sector_level + x) (cap : k ≠ E.power_cap_effective_w) (capacity : k ≠ E.hbm_capacity_bytes)
    (s : State) : rd (resetTold s) k = rd s k := by
  have level (x : Nat) (hx : x ∈ List.range 32) (t : State) : rd (regrant t x) k = rd t k := by
    have written (v : Nat) : rd (wr t (E.sector_level + x) v) k = rd t k := rd_wr_other t (levels x (List.mem_range.1 hx)) v
    unfold regrant startRamp
    dsimp only
    split
    · rfl
    · split
      · exact (rd_congr (setSector_dict ..) k).trans (written _)
      · exact written _
  unfold resetTold capacityNow refreshCap levelsReset
  rw [rd_wr_other _ capacity, rd_wr_other _ cap]
  refine foldl_keeps_of_mem (rd · k) (fun x hx t => ?_) s
  dsimp only
  rw [rd_congr (setSector_dict ..), level x hx, rd_congr (setSector_dict ..)]

variable (h : Spared k = true)
include h

theorem rd_resetLost (s : State) (kind : Nat) : rd (resetLost s kind) k = rd s k := by
  rw [resetLost, rd_mainLost (spared_survives h), rd_bootLog, rd_crashAtReset (spared_ne h (by decide)) (spared_ne h (by decide))]

theorem rd_resetEntries (u v : State) : rd (resetEntries u v) k = rd v k := by
  unfold resetEntries timerefReset
  rw [rd_wr_other _ (spared_ne h (by decide)), rd_wr_other _ (spared_ne h (by decide)), rd_wr_other _ (spared_ne h (by decide)),
    rd_wr_other _ (spared_ne h (by decide)), rd_wr_other _ (spared_ne h (by decide))]

theorem rd_resetMarked (v : State) (kind : Nat) : rd (resetMarked v kind) k = rd v k := by
  unfold resetMarked
  rw [rd_wr_other _ (spared_ne h (by decide)), rd_wr_other _ (spared_ne h (by decide))]
  exact rd_inc_other _ (spared_ne h (by decide))

/-- A device-level reset gives an entry its default, or leaves it as its class says (R13, R791). -/
theorem rd_startReset (s : State) (kind : Nat) : rd (startReset s kind) k = if 2 ≤ dictPers k then rd s k else dictDefault k := by
  have record (u : State) : rd (resetRecord u kind) k = rd u k := rfl
  have lock (u : State) : rd (unlockDone u) k = rd u k := rfl
  obtain ⟨-, units⟩ := unitsReset_leads (dictReset (unlockDone (resetLost s kind)) true) kind
  rw [startReset_eq, rd_resetTold (fun x hx => spared_apart (b := E.sector_level) (n := 32) h (by decide) hx) (spared_ne h (by decide)) (spared_ne h (by decide)), record, rd_resetMarked h, rd_resetEntries h, units k h, rd_dictReset, lock, rd_resetLost h]

end

/-! ## What a device-level reset leaves (R789 to R791) -/

section
variable (s : State) (kind : Nat)

theorem lasting_resetTold : lasting (resetTold s) = lasting s := (lasting_wr ..).trans ((lasting_wr ..).trans (lasting_levelsReset s))

theorem lasting_resetMarked : lasting (resetMarked s kind) = lasting s := (lasting_wr ..).trans ((lasting_wr ..).trans (lasting_inc ..))

theorem lasting_resetEntries (u : State) : lasting (resetEntries u s) = lasting s := by
  unfold resetEntries timerefReset
  rw [lasting_wr, lasting_wr, lasting_wr, lasting_wr, lasting_wr]

/-- The record of a recovery unit whose hangs a device-level reset drops. -/
def Recovery.hangsDropped (r : Recovery) : Recovery := { r with crashes := [], logSeq := r.logSeq + 1 }

theorem crashAtReset_rest : (crashAtReset s kind).recovery = { s.recovery with crashes := [] } ∧ (crashAtReset s kind).host = s.host ∧
    (crashAtReset s kind).supply = s.supply := by
  unfold crashAtReset
  split
  · rename_i none_
    refine ⟨?_, rfl, rfl⟩
    rw [← none_]
  · dsimp only
    split <;> exact ⟨rfl, rfl, rfl⟩

theorem bootLog_rest (u : State) (event k status block : Nat) (d : List Byte) :
    (bootLog u event k status block d).recovery = { u.recovery with logSeq := u.recovery.logSeq + 1 } ∧ (bootLog u event k status block d).host = u.host ∧
    (bootLog u event k status block d).supply = u.supply := ⟨rfl, rfl, rfl⟩

theorem resetLost_rest : (resetLost s kind).recovery = s.recovery.hangsDropped ∧ (resetLost s kind).host = s.host ∧
    (resetLost s kind).supply.mainOn = s.supply.mainOn ∧ ∀ c < 800, core (resetLost s kind) c = Core.init := by
  obtain ⟨recovery, host, supply⟩ := crashAtReset_rest s kind
  obtain ⟨recovery', host', supply'⟩ := bootLog_rest (crashAtReset s kind) 5 kind 0 0 []
  have kept := residue_mainLost (bootLog (crashAtReset s kind) 5 kind 0 0 []) (bootLog (crashAtReset s kind) 5 kind 0 0 []).supply.mainOn
  refine ⟨?_, ?_, ?_, fun c hc => core_mainLost _ _ hc⟩
  · exact (congrArg (·.2.1) kept).trans (by rw [show (residue (bootLog (crashAtReset s kind) 5 kind 0 0 [])).2.1 = _ from recovery', recovery])
  · exact (congrArg (·.1) kept).trans (host'.trans host)
  · rw [resetLost, mainLost_supply]
    exact (congrArg Supply.mainOn supply').trans (congrArg Supply.mainOn supply)

/-- The machine before the last entries of a reset are written. -/
def resetReady : State :=
  resetMarked (resetEntries (resetLost s kind) (unitsReset (dictReset (unlockDone (resetLost s kind)) true) kind)) kind

theorem startReset_ready : startReset s kind = resetTold (resetRecord (resetReady s kind) kind) := startReset_eq s kind

theorem lasting_resetReady : lasting (resetReady s kind) = { lasting (resetLost s kind) with windows := [], laces := [] } := by
  rw [resetReady, lasting_resetMarked, lasting_resetEntries, (unitsReset_leads ..).1]
  rfl

theorem rd_resetReady {k : Nat} (h : Spared k = true) : rd (resetReady s kind) k = if 2 ≤ dictPers k then rd s k else dictDefault k := by
  have lock (u : State) : rd (unlockDone u) k = rd u k := rfl
  obtain ⟨-, units⟩ := unitsReset_leads (dictReset (unlockDone (resetLost s kind)) true) kind
  rw [resetReady, rd_resetMarked h, rd_resetEntries h, units k h, rd_dictReset, lock, rd_resetLost h]

/-- The recovery unit's record after a device-level reset (R789, R806). -/
def resetRecovery : Recovery := { s.recovery.hangsDropped with
  escal := if kind = 5 ∨ kind = 6 then s.recovery.escal ++ [now s] else s.recovery.escal
  kind := kind, keeper := none, meshTest := none, meshRepeats := [], fullTest := none, deferred := none }

/-- What a device-level reset leaves of the machine beside its entries. -/
theorem startReset_rest : (startReset s kind).recovery = resetRecovery s kind ∧ (startReset s kind).host = { s.host with dw := DictWindow.init, stalled := [] } ∧
    (startReset s kind).supply.mainOn = s.supply.mainOn ∧ (startReset s kind).sessions = [] ∧ (startReset s kind).windows = [] ∧
    (startReset s kind).laces = [] ∧ ∀ c < 800, core (startReset s kind) c = Core.init := by
  obtain ⟨recovery, host, mainOn, cores⟩ := resetLost_rest s kind
  have ready := lasting_resetReady s kind
  have time : now (resetReady s kind) = now s := (rd_resetReady s kind (k := E.time_count) (by decide)).trans (if_pos (by decide))
  have told := lasting_resetTold (resetRecord (resetReady s kind) kind)
  rw [← startReset_ready] at told
  generalize resetReady s kind = v at ready time told
  have recovery' : v.recovery = s.recovery.hangsDropped := (congrArg Lasting.recovery ready).trans recovery
  have host' : v.host = s.host := (congrArg Lasting.host ready).trans host
  have supply' : v.supply = (resetLost s kind).supply := congrArg Lasting.supply ready
  have cores' : v.cores = (resetLost s kind).cores := congrArg Lasting.cores ready
  obtain ⟨tCores, tSupply, tRecovery, tHost, tSessions, tWindows, tLaces⟩ := of_lasting told
  have windows : v.windows = [] := congrArg Lasting.windows ready
  have laces : v.laces = [] := congrArg Lasting.laces ready
  refine ⟨tRecovery.trans ?_, tHost.trans ?_, (congrArg Supply.mainOn tSupply).trans ?_, tSessions, tWindows.trans windows, tLaces.trans laces, fun c hc => ?_⟩
  · unfold resetRecord resetRecovery
    dsimp only
    rw [recovery', time]
    rfl
  · unfold resetRecord
    dsimp only
    rw [host']
  · exact (congrArg Supply.mainOn supply').trans mainOn
  · rw [core_congr (tCores.trans cores'), cores c hc]

theorem rd_startReset_kind (small : kind < 256) : rd (startReset s kind) E.last_reset_kind = kind := by
  have record (u : State) : rd (resetRecord u kind) E.last_reset_kind = rd u E.last_reset_kind := rfl
  rw [startReset_ready, rd_resetTold (by decide) (by decide) (by decide), record, resetReady, resetMarked, rd_wr_other _ (by decide), rd_wr_same]
  exact Nat.mod_eq_of_lt small

/-- The status of the PCIe link is as it was (R790). -/
theorem rd_startReset_link : rd (startReset s kind) E.pcie_link_status = cut E.pcie_link_status (rd s E.pcie_link_status) := by
  have record (u : State) : rd (resetRecord u kind) E.pcie_link_status = rd u E.pcie_link_status := rfl
  have lost : rd (resetLost s kind) E.pcie_link_status = rd s E.pcie_link_status := by
    rw [resetLost, rd_mainLost (by decide), rd_bootLog, rd_crashAtReset (by decide) (by decide)]
  rw [startReset_ready, rd_resetTold (by decide) (by decide) (by decide), record, resetReady, resetMarked, rd_wr_other _ (by decide),
    rd_wr_other _ (by decide), rd_inc_other _ (by decide), resetEntries, timerefReset]
  rw [rd_wr_other _ (by decide), rd_wr_other _ (by decide), rd_wr_other _ (by decide), rd_wr_other _ (by decide), rd_wr_same, lost]
  rfl

theorem wasReset_startReset (small : kind < 256) : WasReset s (startReset s kind) kind := by
  obtain ⟨recovery, host, mainOn, sessions, windows, laces, cores⟩ := startReset_rest s kind
  refine ⟨rd_startReset_kind s kind small, by rw [recovery]; rfl, ?_, cores, sessions, windows, laces, by rw [host], by rw [host],
    rd_startReset_link s kind, mainOn⟩
  rw [rd_startReset (by decide), if_neg (by decide)]
  rfl

end

/-- A reset of a machine that differs only where no reset looks is a reset of it. -/
theorem WasReset.of_same {s u t : State} {kind : Nat} (h : WasReset u t kind) (msix : u.host.msixTable = s.host.msixTable)
    (link : rd u E.pcie_link_status = rd s E.pcie_link_status) (mainOn : u.supply.mainOn = s.supply.mainOn) : WasReset s t kind := by
  obtain ⟨last, recorded, boot, cores, sessions, windows, laces, stalled, table, status, on⟩ := h
  exact ⟨last, recorded, boot, cores, sessions, windows, laces, stalled, table.trans msix, status.trans (by rw [link]), on.trans mainOn⟩

end Sys2Proof.Machine
end

section
/-! SUPPORT. Sector resets (R794), reset commands and full-stop tests. -/

namespace Sys2Proof.Machine

open Sys2Proof

/-! ## What leaves the recovery unit's record alone -/

/-- The recovery unit's record is r₀. -/
@[irreducible] def RecoveryIs (r₀ : Recovery) (s : State) : Prop := s.recovery = r₀

section
variable {r₀ : Recovery}
theorem recoveryIs_def (s : State) : RecoveryIs r₀ s ↔ s.recovery = r₀ := by unfold RecoveryIs; exact Iff.rfl

theorem recoveryIs_self (s : State) : RecoveryIs s.recovery s := (recoveryIs_def s).2 rfl

protected theorem RecoveryIs.mk {s : State} {dict mem poison flips pins supply save host power sectors cores xlat groups resolved commitLog keysets laces handles arrivals windows transport step ports routes paths twin island replays det pke hbm sessions sent freeCtr pending} (h : RecoveryIs r₀ s) :
    RecoveryIs r₀ (.mk dict mem poison flips pins supply save host power sectors cores xlat groups resolved commitLog keysets laces handles arrivals windows transport step ports routes paths twin island replays det pke hbm s.recovery sessions sent freeCtr pending) :=
  (recoveryIs_def _).2 ((recoveryIs_def s).1 h)
protected theorem RecoveryIs.ite {p : Prop} [Decidable p] {s t : State} (hs : RecoveryIs r₀ s) (ht : RecoveryIs r₀ t) :
    RecoveryIs r₀ (if p then s else t) := by split <;> assumption
protected theorem RecoveryIs.ite_fst {α : Type} {p : Prop} [Decidable p] {s t : State × α} (hs : RecoveryIs r₀ s.1) (ht : RecoveryIs r₀ t.1) :
    RecoveryIs r₀ (if p then s else t).1 := by split <;> assumption
protected theorem RecoveryIs.foldl {α : Type} {f : State → α → State} {l : List α} {s : State} (h : RecoveryIs r₀ s)
    (step : ∀ s a, RecoveryIs r₀ s → RecoveryIs r₀ (f s a)) : RecoveryIs r₀ (l.foldl f s) := by
  induction l generalizing s with
  | nil => exact h
  | cons a l ih => exact ih (step s a h)
protected theorem RecoveryIs.foldl_fst {α β : Type} {f : State × β → α → State × β} {l : List α} {s : State × β} (h : RecoveryIs r₀ s.1)
    (step : ∀ s a, RecoveryIs r₀ s.1 → RecoveryIs r₀ (f s a).1) : RecoveryIs r₀ (l.foldl f s).1 := by
  induction l generalizing s with
  | nil => exact h
  | cons a l ih => exact ih (step s a h)
end

section
variable {r₀ : Recovery}

protected theorem RecoveryIs.wr {s : State} {k v : Nat} (h : RecoveryIs r₀ s) : RecoveryIs r₀ (wr s k v) := h.mk

protected theorem RecoveryIs.incBy {s : State} {k n : Nat} (h : RecoveryIs r₀ s) : RecoveryIs r₀ (incBy s k n) := h.wr

protected theorem RecoveryIs.inc {s : State} {k : Nat} (h : RecoveryIs r₀ s) : RecoveryIs r₀ (inc s k) := h.incBy

protected theorem RecoveryIs.wrBytes {s : State} {k : Nat} {d : List Byte} (h : RecoveryIs r₀ s) :
    RecoveryIs r₀ (wrBytes s k d) := h.mk

protected theorem RecoveryIs.wrNat {s : State} {k n v : Nat} (h : RecoveryIs r₀ s) : RecoveryIs r₀ (wrNat s k n v) := h.wrBytes

protected theorem RecoveryIs.zeroFill {s : State} {lo hi : Nat} (h : RecoveryIs r₀ s) : RecoveryIs r₀ (zeroFill s lo hi) := h.mk

protected theorem RecoveryIs.mark {s : State} {k : Nat} (h : RecoveryIs r₀ s) : RecoveryIs r₀ (mark s k) := h.mk

protected theorem RecoveryIs.emit {s : State} {o : Out} (h : RecoveryIs r₀ s) : RecoveryIs r₀ (emit s o) := h.mk

protected theorem RecoveryIs.msixSend {s : State} {v : Nat} (h : RecoveryIs r₀ s) : RecoveryIs r₀ (msixSend s v) :=
  h.mk.emit.ite h.mk

protected theorem RecoveryIs.signalVector {s : State} {v : Nat} (h : RecoveryIs r₀ s) : RecoveryIs r₀ (signalVector s v) :=
  h.ite (h.mk.ite h.msixSend)

protected theorem RecoveryIs.setSector {s : State} {x : Nat} {v : Sector} (h : RecoveryIs r₀ s) :
    RecoveryIs r₀ (setSector s x v) := h.mk

protected theorem RecoveryIs.setCore {s : State} {c : Nat} {v : Core} (h : RecoveryIs r₀ s) : RecoveryIs r₀ (setCore s c v) :=
  h.mk

protected theorem RecoveryIs.countAt {s : State} {cfg val ev inst n : Nat} (h : RecoveryIs r₀ s) :
    RecoveryIs r₀ (countAt s cfg val ev inst n) := h.incBy.ite h

protected theorem RecoveryIs.countDev {s : State} {ev inst n : Nat} (h : RecoveryIs r₀ s) :
    RecoveryIs r₀ (countDev s ev inst n) := h.foldl fun _ _ h => h.countAt

protected theorem RecoveryIs.noteNd {s : State} {cause : Nat} {p : Option Nat} (h : RecoveryIs r₀ s) :
    RecoveryIs r₀ (noteNd s cause p) := by
  unfold noteNd
  dsimp only
  split
  · exact h.inc.countDev.inc
  · exact h.inc.countDev

protected theorem RecoveryIs.onchipUe {s : State} {x a block : Nat} (h : RecoveryIs r₀ s) :
    RecoveryIs r₀ (onchipUe s x a block) := h.inc.wr.wr.wr

protected theorem RecoveryIs.paceBreak {s : State} {x : Nat} (h : RecoveryIs r₀ s) : RecoveryIs r₀ (paceBreak s x) :=
  h.ite (by
    dsimp only
    split
    · exact h.inc.noteNd.ite h.inc
    · exact h.inc)

protected theorem RecoveryIs.levelAtWake {s : State} {x : Nat} (h : RecoveryIs r₀ s) : RecoveryIs r₀ (levelAtWake s x) :=
  h.setSector.ite h.setSector.paceBreak

protected theorem RecoveryIs.clearLost {s : State} {lo hi : Nat} (h : RecoveryIs r₀ s) : RecoveryIs r₀ (clearLost s lo hi) :=
  h.mk.ite h

protected theorem RecoveryIs.hbmStore {s : State} {a : Nat} {d : List Byte} (h : RecoveryIs r₀ s) :
    RecoveryIs r₀ (hbmStore s a d) := h.wrBytes.clearLost.ite h.wrBytes

protected theorem RecoveryIs.loseWord {s : State} {k : Nat} (h : RecoveryIs r₀ s) : RecoveryIs r₀ (loseWord s k) :=
  h.mark.mk.onchipUe.ite (h.mark.onchipUe.ite h.mark.onchipUe)

protected theorem RecoveryIs.meetWord {s : State} {k n : Nat} (h : RecoveryIs r₀ s) : RecoveryIs r₀ (meetWord s k n) :=
  .ite (h.mk.ite h.mk.loseWord) (.ite (h.mk.inc.ite h.mk.loseWord) (.ite (h.mk.inc.ite h.mk.loseWord) (h.mk.inc.ite
    (h.mk.inc.paceBreak.ite h.mk.loseWord))))

protected theorem RecoveryIs.meetEdges {s : State} {k n : Nat} (h : RecoveryIs r₀ s) : RecoveryIs r₀ (meetEdges s k n) :=
  h.foldl fun _ _ h => h.meetWord

protected theorem RecoveryIs.setGroup {s : State} {o : Option Nat} {i : Nat} {f : Group → Group} (h : RecoveryIs r₀ s) :
    RecoveryIs r₀ (setGroup s o i f) := h.mk

protected theorem RecoveryIs.noteGroups {s : State} (h : RecoveryIs r₀ s) : RecoveryIs r₀ (noteGroups s) := h.wr.wr

protected theorem RecoveryIs.returnCredits {s : State} {k n : Nat} (h : RecoveryIs r₀ s) :
    RecoveryIs r₀ (returnCredits s k n) := h.ite h.setSector

protected theorem RecoveryIs.discard {s : State} {o : Option Nat} {i : Nat} (h : RecoveryIs r₀ s) :
    RecoveryIs r₀ (discard s o i) := by
  unfold discard
  split
  · exact h
  · exact .noteGroups (.setGroup (h.foldl fun _ _ h => h.returnCredits))

protected theorem RecoveryIs.unbind {s : State} {c : Nat} (h : RecoveryIs r₀ s) : RecoveryIs r₀ (unbind s c) := h.ite h.setCore

protected theorem RecoveryIs.resolveGroup {s : State} {o : Option Nat} {i code cause : Nat} (h : RecoveryIs r₀ s) :
    RecoveryIs r₀ (resolveGroup s o i code cause) := by
  unfold resolveGroup
  split
  · exact h
  · exact .noteGroups (.ite (.inc (.ite (.setGroup (h.discard.mk.ite h.discard)) (.ite (.mk (h.discard.mk.ite h.discard))
      (.foldl (.mk (h.discard.mk.ite h.discard)) fun _ _ h => h.unbind.ite h)))) (.inc (.ite (.setGroup (h.discard.mk.ite
      h.discard)) (.ite (.mk (h.discard.mk.ite h.discard)) (.foldl (.mk (h.discard.mk.ite h.discard)) fun _ _ h => h.unbind.ite
      h)))))

protected theorem RecoveryIs.failGroup {s : State} {o : Option Nat} {i code cause : Nat} (h : RecoveryIs r₀ s) :
    RecoveryIs r₀ (failGroup s o i code cause) := by
  unfold failGroup
  split
  · exact h
  · exact h.resolveGroup.ite h.discard.setGroup

protected theorem RecoveryIs.groupStore {s : State} {o : Option Nat} {i k : Nat} {d : List Byte} {cred : Nat} {bad : Bool}
    (h : RecoveryIs r₀ s) :
    RecoveryIs r₀ (groupStore s o i k d cred bad).1 := by
  unfold groupStore
  split
  · exact h
  · exact h.ite_fst (h.ite_fst (.ite_fst (.noteGroups (h.foldl_fst fun _ _ h => h.ite_fst (by
      split
      · exact h
      · split
        · exact h
        · exact h.setGroup))) (.setGroup (.discard (h.foldl_fst fun _ _ h => h.ite_fst (by
      split
      · exact h
      · split
        · exact h
        · exact h.setGroup))))))

protected theorem RecoveryIs.storeAt {s : State} {k : Nat} {d : List Byte} (h : RecoveryIs r₀ s) :
    RecoveryIs r₀ (storeAt s k d) := h.hbmStore.ite h.meetEdges.wrBytes

protected theorem RecoveryIs.noteLanded {s : State} {k n : Nat} (h : RecoveryIs r₀ s) : RecoveryIs r₀ (noteLanded s k n) := by
  unfold noteLanded
  split
  · exact h
  · exact h.mk

protected theorem RecoveryIs.setHandle {s : State} {h : Nat} {v : Handle} (hs : RecoveryIs r₀ s) :
    RecoveryIs r₀ (setHandle s h v) := hs.mk

protected theorem RecoveryIs.setPort {s : State} {p : Nat} {v : Port} (h : RecoveryIs r₀ s) : RecoveryIs r₀ (setPort s p v) :=
  h.mk

protected theorem RecoveryIs.sendFlits {s : State} {p vc n : Nat} (h : RecoveryIs r₀ s) : RecoveryIs r₀ (sendFlits s p vc n) :=
  h.setPort.countDev

protected theorem RecoveryIs.sendMsg {s : State} {mtype : Nat} {m : Msg} (h : RecoveryIs r₀ s) :
    RecoveryIs r₀ (sendMsg s mtype m) :=
  .ite (.emit (by
    split
    · exact .sendFlits (h.noteNd.ite h)
    · exact h.noteNd.ite h)) h

protected theorem RecoveryIs.sendNow {s : State} {h : Nat} {r : Request} (hs : RecoveryIs r₀ s) :
    RecoveryIs r₀ (sendNow s h r) := .sendMsg (hs.setHandle.mk.ite hs.setHandle)

protected theorem RecoveryIs.request {s : State} {h : Nat} {r : Request} (hs : RecoveryIs r₀ s) :
    RecoveryIs r₀ (request s h r) :=
  .ite (.sendNow (by
    split
    · exact hs.setGroup
    · exact hs)) (.setHandle (by
    split
    · exact hs.setGroup
    · exact hs))

protected theorem RecoveryIs.sendNotice {s : State} {mtype node window epoch : Nat} {payload : List Byte} (h : RecoveryIs r₀ s)
    :
    RecoveryIs r₀ (sendNotice s mtype node window epoch payload) := h.mk.sendMsg

protected theorem RecoveryIs.postEntry {s : State} {x cb off n : Nat} {r : List Byte} (h : RecoveryIs r₀ s) :
    RecoveryIs r₀ (postEntry s x cb off n r) := h.wrBytes.wrNat.wrNat

protected theorem RecoveryIs.laceStopSector {s : State} {x : Nat} (h : RecoveryIs r₀ s) : RecoveryIs r₀ (laceStopSector s x) :=
  h.foldl fun _ _ h => h.wr.ite h

protected theorem RecoveryIs.unitStore {s : State} {x p : Nat} {g : Option Nat} {k : Nat} {d : List Byte} (h : RecoveryIs r₀ s)
    :
    RecoveryIs r₀ (unitStore s x p g k d).1 :=
  .ite_fst (h.ite_fst h.request) (h.ite_fst (by
    dsimp only
    split
    · exact .groupStore (h.noteLanded.ite h)
    · exact .storeAt (h.noteLanded.ite h)))

protected theorem RecoveryIs.vaWrite {s : State} {x p : Nat} {g : Option Nat} {va : Nat} {d : List Byte} (h : RecoveryIs r₀ s) :
    RecoveryIs r₀ (vaWrite s x p g va d).1 := h.ite_fst (h.foldl_fst fun _ _ h => h.unitStore)

protected theorem RecoveryIs.setRing {s : State} {x k : Nat} {v : Ring} (h : RecoveryIs r₀ s) :
    RecoveryIs r₀ (setRing s x k v) := h.setSector

protected theorem RecoveryIs.mirrorEntry {s : State} {x k e : Nat} {r : List Byte} (h : RecoveryIs r₀ s) :
    RecoveryIs r₀ (mirrorEntry s x k e r) := h.ite (h.inc.ite h.emit)

protected theorem RecoveryIs.postCompletion {s : State} {x k : Nat} {r : List Byte} (h : RecoveryIs r₀ s) :
    RecoveryIs r₀ (postCompletion s x k r) := h.setRing.ite h.postEntry.mirrorEntry.signalVector

protected theorem RecoveryIs.finishWith {s : State} {x k : Nat} {t : Taken} {r extra : List Byte} (h : RecoveryIs r₀ s) :
    RecoveryIs r₀ (finishWith s x k t r extra) :=
  .postCompletion (.ite (.mk (by
    split
    · exact h.setRing
    · exact h.setRing.ite h.setRing.vaWrite)) (by
    split
    · exact h.setRing
    · exact h.setRing.ite h.setRing.vaWrite))

protected theorem RecoveryIs.finishPlain {s : State} {x k : Nat} {t : Taken} {status : Nat} (h : RecoveryIs r₀ s) :
    RecoveryIs r₀ (finishPlain s x k t status) := h.mk.finishWith

protected theorem RecoveryIs.finishCommit {s : State} {w : Option (Nat × Nat)} {i st : Nat} (h : RecoveryIs r₀ s) :
    RecoveryIs r₀ (finishCommit s w i st) := by
  unfold finishCommit
  split
  · exact h
  · split
    · exact h.finishPlain
    · exact h

protected theorem RecoveryIs.dropSector {s : State} {o : Option Nat} {i x : Nat} (h : RecoveryIs r₀ s) :
    RecoveryIs r₀ (dropSector s o i x) := h.setGroup

protected theorem RecoveryIs.groupsSectorReset {s : State} {x : Nat} (h : RecoveryIs r₀ s) :
    RecoveryIs r₀ (groupsSectorReset s x) :=
  .noteGroups (h.foldl fun _ _ h => h.ite (.ite (by
    split
    · exact h.failGroup.finishCommit
    · exact h.failGroup) (by
    dsimp only
    split
    · exact h.dropSector.sendNotice.ite h.dropSector
    · exact h.dropSector)))

protected theorem RecoveryIs.zeroArea {s : State} {x : Nat} {a : Area} (h : RecoveryIs r₀ s) : RecoveryIs r₀ (zeroArea s x a) :=
  h.zeroFill

protected theorem RecoveryIs.ringStart {s : State} {x k : Nat} (h : RecoveryIs r₀ s) : RecoveryIs r₀ (ringStart s x k) :=
  .wr (.wrBytes (h.foldl fun _ _ h => h.zeroArea))

protected theorem RecoveryIs.ringReenable {s : State} {x k : Nat} (h : RecoveryIs r₀ s) : RecoveryIs r₀ (ringReenable s x k) :=
  h.setRing.ringStart.ite h.setRing.wr

protected theorem RecoveryIs.setWinWord {s : State} {w i v : Nat} (h : RecoveryIs r₀ s) : RecoveryIs r₀ (setWinWord s w i v) :=
  h.wrNat

protected theorem RecoveryIs.setWin {s : State} {w : Nat} {v : Win} (h : RecoveryIs r₀ s) : RecoveryIs r₀ (setWin s w v) := h.mk

protected theorem RecoveryIs.setWinState {s : State} {w st : Nat} (h : RecoveryIs r₀ s) : RecoveryIs r₀ (setWinState s w st) :=
  h.wr.setWinWord.setWinWord

protected theorem RecoveryIs.setLanding {s : State} {x : Nat} {l : List Landing} (h : RecoveryIs r₀ s) :
    RecoveryIs r₀ (setLanding s x l) := h.setSector.wr

protected theorem RecoveryIs.quietWindow {s : State} {w : Nat} (h : RecoveryIs r₀ s) : RecoveryIs r₀ (quietWindow s w) :=
  .setWin (.setWinState (h.ite h.setLanding))

protected theorem RecoveryIs.windowsQuiet {s : State} {x : Nat} (h : RecoveryIs r₀ s) : RecoveryIs r₀ (windowsQuiet s x) :=
  h.foldl fun _ _ h => h.quietWindow

protected theorem RecoveryIs.postAborted {s : State} {x k : Nat} {t : Taken} {st hung : Nat} (h : RecoveryIs r₀ s) :
    RecoveryIs r₀ (postAborted s x k t st hung) := h.mk.postCompletion

end


/-! ## Sector resets (R794) -/

/-- Rings, groups and windows of sector x have stopped. -/
def sectorStopped (s : State) (x : Nat) : State := windowsQuiet (groupsSectorReset (laceStopSector s x) x) x

/-- Sector x has lost what it held, and its counters have their defaults. -/
def sectorCleared (s : State) (x : Nat) : State :=
  (sectorV x).foldl (fun t k => wr t k (dictDefault k)) (sectorLost (sectorStopped s x) x 0 false)

/-- Sector x is ON at its level, and its rings are enabled again. -/
def sectorRestarted (u : State) (x : Nat) : State :=
  let t := levelAtWake (setDomain u x 0) x
  (List.range 8).foldl (fun t k => ringReenable t x k) (wr t E.pacer_lock_status (setBit (rd t E.pacer_lock_status) x true))

/-- The commands that ran, by ring. -/
def takenBefore (s : State) (x : Nat) : List (Nat × List Taken) :=
  (List.range 8).map fun k => (k, (Tab.get Ring.init (sector s x).rings k).queue.filter (·.started))

/-- Their completions are posted. -/
def takenPosted (u : State) (x kind hung : Nat) (l : List (Nat × List Taken)) : State :=
  l.foldl (fun t e => e.2.foldl (fun u r => postAborted u x e.1 r (if kind = 0x11 then 0x0901 else 0x0503) hung) t) u

def sectorCounted (u : State) (x kind : Nat) : State :=
  let u := inc u (E.sector_reset_count + x)
  wr (wr u E.last_reset_kind kind) E.last_reset_time (now u)

/-- A keeper of sector x is no longer under test. -/
def Recovery.keeperDropped (r : Recovery) (x : Nat) : Recovery :=
  match r.keeper with
  | some (y, _, _) => if y = x then { r with keeper := none } else r
  | none => r

/-- The recovery unit's record after a reset of sector x. -/
def Recovery.sectorReset (r : Recovery) (x kind t : Nat) : Recovery :=
  let r := r.keeperDropped x
  { r with sectorHangs := if kind = 0x11 then Tab.set [] r.sectorHangs x (t :: Tab.get [] r.sectorHangs x) else r.sectorHangs }

theorem sectorReset_eq (s : State) (x kind hung : Nat) : sectorReset s x kind hung =
    let t := sectorCounted (takenPosted (sectorRestarted (sectorCleared s x) x) x kind hung (takenBefore s x)) x kind
    { t with recovery := t.recovery.sectorReset x kind (now t) } := rfl

/-- Between u and t, sector x restarts: cores, landing ranges, memory below its ring region and quiet entries are as they were. -/
structure Restart (x : Nat) (u t : State) : Prop where
  cores : t.cores = u.cores
  landing : (sector t x).landing = (sector u x).landing
  mem : ∀ a < ringKey x 0, rdByte t a = rdByte u a
  entries : ∀ k < E.nd_count, k ≠ E.pace_break_count + x → k ≠ E.pacer_lock_status → rd t k = rd u k

namespace Restart
variable {x : Nat} {u v t : State} {α : Type}

theorem refl (x : Nat) (u : State) : Restart x u u := ⟨rfl, rfl, fun _ _ => rfl, fun _ _ _ _ => rfl⟩

theorem trans (h : Restart x u v) (h' : Restart x v t) : Restart x u t :=
  ⟨h'.cores.trans h.cores, h'.landing.trans h.landing, fun a low => (h'.mem a low).trans (h.mem a low),
    fun k low pace lock => (h'.entries k low pace lock).trans (h.entries k low pace lock)⟩

theorem foldl_mem {f : State → α → State} {l : List α} (step : ∀ a ∈ l, ∀ u, Restart x u (f u a)) (u : State) : Restart x u (l.foldl f u) :=
  List.foldlRecOn (motive := Restart x u) l f (refl x u) fun v kept a member => kept.trans (step a member v)

/-- A step that leaves the dictionary, sectors and cores, and writes memory from the ring region upward. -/
theorem of_mem (cores : t.cores = u.cores) (sectors : t.sectors = u.sectors) (dict : t.dict = u.dict)
    (mem : ∀ a < ringKey x 0, rdByte t a = rdByte u a) : Restart x u t :=
  ⟨cores, by rw [sector, sectors]; rfl, mem, fun k _ _ _ => rd_congr dict k⟩

theorem of_same (cores : t.cores = u.cores) (sectors : t.sectors = u.sectors) (dict : t.dict = u.dict) (mem : t.mem = u.mem) : Restart x u t :=
  of_mem cores sectors dict fun a _ => rdByte_congr mem a

theorem wr {k : Nat} (quiet : E.nd_count ≤ k ∨ k = E.pace_break_count + x ∨ k = E.pacer_lock_status) (u : State) (v : Nat) :
    Restart x u (Machine.wr u k v) :=
  ⟨rfl, rfl, fun _ _ => rfl, fun j low pace lock => rd_wr_other _ (by omega) v⟩

theorem setSector {v : Sector} (landing : v.landing = (sector u x).landing) : Restart x u (setSector u x v) :=
  ⟨rfl, by rw [sector_setSector_same, landing], fun _ _ => rfl, fun _ _ _ _ => rfl⟩

theorem setRing (u : State) (k : Nat) (v : Ring) : Restart x u (setRing u x k v) := setSector rfl

theorem ringKey_le {o : Nat} : ringKey x 0 ≤ ringKey x o := by unfold ringKey Mem.commons Mem.onchip; omega

theorem wrBytes (u : State) (o : Nat) (d : List Byte) : Restart x u (wrBytes u (ringKey x o) d) :=
  of_mem rfl rfl rfl fun a low => by
    have le := ringKey_le (x := x) (o := o)
    rw [rdByte_wrBytes, if_neg (by omega)]

theorem wrBytes_from {k : Nat} (far : ringKey x 0 ≤ k) (u : State) (d : List Byte) : Restart x u (Machine.wrBytes u k d) :=
  of_mem rfl rfl rfl fun a low => by rw [rdByte_wrBytes, if_neg (by omega)]

theorem zeroArea (u : State) (a : Area) : Restart x u (zeroArea u x a) :=
  of_mem rfl rfl rfl fun b low => by
    have le := ringKey_le (x := x) (o := a.1)
    unfold Machine.zeroArea
    rw [rdByte_zeroFill, if_neg (by omega)]

theorem paceBreak (u : State) : Restart x u (paceBreak u x) :=
  ⟨cores_of_still (still_paceBreak u x), by rw [sector, sectors_of_still (still_paceBreak u x)]; rfl,
    fun a _ => rdByte_congr (mem_of_still (still_paceBreak u x)) a, fun k low pace _ => rd_paceBreak u pace low⟩

theorem levelAtWake (u : State) : Restart x u (levelAtWake u x) := by
  have taken (g : Nat) : Restart x u (Machine.setSector u x { sector u x with ramp := none, pace := g, volt := g, slept := false }) := setSector rfl
  unfold Machine.levelAtWake
  dsimp only
  split
  · exact taken _
  · exact (taken _).trans (paceBreak _)

theorem ringReenable {k : Nat} (u : State) : Restart x u (ringReenable u x k) := by
  have high : E.nd_count ≤ E.ring_status + ringAt x k := Nat.le_trans (by decide : E.nd_count ≤ E.ring_status) (Nat.le_add_right ..)
  unfold Machine.ringReenable
  dsimp only
  refine (setRing u k Ring.init).trans ?_
  split
  · unfold ringStart
    exact ((foldl_mem (fun a _ u => zeroArea u a) _).trans (wrBytes _ _ _)).trans (wr (.inl high) _ 1)
  · exact wr (.inl high) _ 0

theorem signalVector (u : State) (v : Nat) : Restart x u (signalVector u v) :=
  ⟨cores_of_still (still_signalVector u v), by rw [sector, sectors_of_still (still_signalVector u v)]; rfl,
    fun a _ => rdByte_congr (mem_of_still (still_signalVector u v)) a, fun k _ _ _ => rd_congr (signalVector_dict u v) k⟩

theorem wrNat_from {k : Nat} (far : ringKey x 0 ≤ k) (u : State) (n v : Nat) : Restart x u (wrNat u k n v) := wrBytes_from far u _

theorem postEntry (u : State) (cb off n : Nat) (r : List Byte) : Restart x u (postEntry u x cb off n r) := by
  unfold Machine.postEntry
  dsimp only
  generalize hc : ringKey x (cb + 4) = c
  generalize hk : ringKey x (off + 64 * (rdNat u c 4 % n)) = k
  have control : ringKey x 0 ≤ c := hc ▸ ringKey_le
  have entry : ringKey x 0 ≤ k := hk ▸ ringKey_le
  exact ((wrBytes_from entry u r).trans (wrNat_from (Nat.le_add_right_of_le entry) _ _ _)).trans (wrNat_from control _ _ _)

theorem mirrorEntry (u : State) (k e : Nat) (r : List Byte) : Restart x u (mirrorEntry u x k e r) := by
  unfold Machine.mirrorEntry
  dsimp only
  split
  · exact refl x u
  · split
    · exact wr (.inl (by decide)) u _
    · exact of_same rfl rfl rfl rfl

theorem postCompletion (u : State) (k : Nat) (r : List Byte) : Restart x u (postCompletion u x k r) := by
  unfold Machine.postCompletion
  dsimp only
  split
  · exact setRing u k _
  · exact ((postEntry u _ _ _ r).trans (mirrorEntry _ k _ r)).trans (signalVector _ _)

theorem postAborted (u : State) (k : Nat) (t : Taken) (st hung : Nat) : Restart x u (postAborted u x k t st hung) := by
  have counted : Restart x u { u with freeCtr := u.freeCtr + 1 } := of_same rfl rfl rfl rfl
  exact counted.trans (postCompletion _ k _)

end Restart

theorem restart_takenPosted (u : State) (x kind hung : Nat) (l : List (Nat × List Taken)) : Restart x u (takenPosted u x kind hung l) :=
  Restart.foldl_mem (fun e _ u => Restart.foldl_mem (fun r _ u => Restart.postAborted u e.1 r _ hung) u) u

/-- From the sector's switch to ON on. -/
theorem restart_sectorRestarted (u : State) (x : Nat) : Restart x (setDomain u x 0) (sectorRestarted u x) :=
  ((Restart.levelAtWake (setDomain u x 0)).trans (Restart.wr (.inr (.inr rfl)) _ _)).trans (Restart.foldl_mem (fun _ _ u => Restart.ringReenable u) _)


/-! ## What a sector loses, and what stops before it -/

section
variable {d₀ : State}

theorem Steady.failGroup {s : State} {o : Option Nat} {i code cause : Nat} (h : Steady d₀ s) : Steady d₀ (failGroup s o i code cause) := by
  unfold Machine.failGroup
  split
  · exact h
  · exact h.resolveGroup.ite h.discard.setGroup

theorem Steady.finishCommit {s : State} {w : Option (Nat × Nat)} {i st : Nat} (h : Steady d₀ s) : Steady d₀ (finishCommit s w i st) := by
  unfold Machine.finishCommit
  split
  · exact h
  · split
    · exact h.finishPlain
    · exact h

theorem Steady.groupsSectorReset {s : State} {x : Nat} (h : Steady d₀ s) : Steady d₀ (groupsSectorReset s x) := by
  refine (h.foldl fun t g h => ?_).noteGroups
  refine h.ite (Steady.ite ?_ ?_)
  · split
    · exact h.failGroup.finishCommit
    · exact h.failGroup
  · have dropped : Steady d₀ (dropSector t g.opener g.id x) := h.setGroup
    dsimp only
    split
    · exact dropped.sendNotice.ite dropped
    · exact dropped

end

/-- A calm entry apart from the states of lacings and the count of open windows. -/
structure Still (k : Nat) : Prop where
  calm : Calm k = true
  survives : Survives k = true
  lacing : ∀ r < 64, k ≠ E.ring_state + r
  windows : k ≠ E.windows_open

theorem winSector_lt (s : State) (w : Nat) : winSector s w < 32 := by
  unfold winSector bits
  exact Nat.mod_lt _ (by decide)

theorem rd_quietWindow {k : Nat} (h : Still k) (s : State) (w : Nat) : rd (quietWindow s w) k = rd s k := by
  have state (t : State) (v : Win) : rd (setWin (setWinState t w 3) w v) k = rd t k := by
    refine (rd_congr (show (setWin (setWinState t w 3) w v).dict = (wr t E.windows_open _).dict from rfl) k).trans ?_
    exact rd_wr_other t h.windows _
  unfold quietWindow
  dsimp only
  rw [state]
  split
  · rfl
  · unfold setLanding
    exact (rd_wr_other _ (survives_apart (b := E.landing_ranges_open) (n := 32) h.survives (by decide) (winSector_lt s w)) _).trans
      (rd_congr (setSector_dict ..) k)

theorem rd_sectorStopped {k : Nat} (h : Still k) (s : State) (x : Nat) : rd (sectorStopped s x) k = rd s k := by
  have laces : rd (laceStopSector s x) k = rd s k := foldl_keeps_of_mem (rd · k) (fun r hr t => by
    split
    · exact rd_wr_other t (h.lacing r (List.mem_range.1 hr)) 4
    · rfl) s
  have groups : Steady (laceStopSector s x) (groupsSectorReset (laceStopSector s x) x) := (steady_self _).groupsSectorReset
  unfold sectorStopped windowsQuiet
  rw [foldl_keeps (rd · k) (fun t w => rd_quietWindow h t w), groups.rd h.calm, laces]

section
variable (s : State) {x : Nat}

theorem sectorCleared_kept {β : Type} (f : State → β) (blind : ∀ t k v, f (wr t k v) = f t) : f (sectorCleared s x) = f (sectorLost (sectorStopped s x) x 0 false) :=
  foldl_keeps f (fun t k => blind t k _) (sectorV x) _

theorem rd_sectorCleared (hx : x < 32) {k : Nat} (h : Still k) (other : k ∉ sectorV x) : rd (sectorCleared s x) k = rd s k := by
  have defaults (j : Nat) (hj : j ∈ sectorV x) (t : State) : rd (wr t j (dictDefault j)) k = rd t k :=
    rd_wr_other t (fun is => other (by rwa [is])) _
  unfold sectorCleared
  rw [foldl_keeps_of_mem (rd · k) defaults, rd_sectorLost h.survives hx, rd_sectorStopped h]

theorem core_sectorCleared {c : Nat} (own : c / 25 = x) : core (sectorCleared s x) c = Core.init := by
  rw [sectorCleared_kept s (core · c) fun _ _ _ => rfl, core_sectorLost, if_pos own]

theorem landing_sectorCleared : (sector (sectorCleared s x) x).landing = [] := by
  have lost (t : State) : (sector (recordLost t x) x).landing = [] := by
    unfold recordLost
    dsimp only
    rw [sector_setSector_same]
    rfl
  rw [sectorCleared_kept s (fun t => (sector t x).landing) fun _ _ _ => rfl, sectorLost_eq]
  exact lost _

/-- Bytes of core memory that `keep` does not select are lost. -/
theorem rdByte_clearCoreMemory (t : State) {a : Nat} (inside : Mem.onchip x 0 0 ≤ a ∧ a < Mem.onchip x 25 0) : rdByte (clearCoreMemory t x 0) a = 0 := by
  unfold rdByte clearCoreMemory Tab.get
  dsimp only
  rw [Tab.find?_filter (fun k => decide (k < Mem.onchip x 0 0 ∨ Mem.onchip x 25 0 ≤ k) || bit 0 (k / 64 % 16)), if_neg]
  · rfl
  · rw [decide_eq_false (by omega), Bool.false_or, bit, Nat.zero_div]
    decide

theorem rdByte_sectorEmptied (t : State) {a : Nat}
    (gone : (Mem.onchip x 0 0 ≤ a ∧ a < Mem.onchip x 25 0) ∨ (Mem.commons x 0 ≤ a ∧ a < Mem.commons x 0x800000)) :
    rdByte (sectorEmptied t x 0 false) a = 0 := by
  unfold sectorEmptied
  dsimp only
  rw [if_neg (by decide), rdByte_zeroFill]
  split
  · rfl
  · rename_i out
    have cores (u : State) : (clearCores u x 0).mem = u.mem := foldl_keeps State.mem (fun t p => setCore_mem t ..) _ u
    rw [rdByte_congr (cores _)]
    exact rdByte_clearCoreMemory _ (gone.resolve_right out)

theorem rdByte_sectorCleared {a : Nat}
    (gone : (Mem.onchip x 0 0 ≤ a ∧ a < Mem.onchip x 25 0) ∨ (Mem.commons x 0 ≤ a ∧ a < Mem.commons x 0x800000)) :
    rdByte (sectorCleared s x) a = 0 := by
  rw [sectorCleared_kept s (rdByte · a) fun _ _ _ => rfl, sectorLost_eq, rdByte_congr (recordLost_rest ..).2.2.1, setLanding, rdByte_congr (wr_mem ..),
    rdByte_congr (setSector_mem ..)]
  exact rdByte_sectorEmptied _ gone

theorem of_residue {s t : State} (h : residue s = residue t) : s.host = t.host ∧ s.recovery = t.recovery ∧ s.island = t.island ∧ s.pins = t.pins := by
  simpa only [residue, Prod.mk.injEq] using h

theorem recovery_sectorCleared : (sectorCleared s x).recovery = s.recovery := by
  have stopped : (sectorStopped s x).recovery = s.recovery :=
    (recoveryIs_def _).1 (recoveryIs_self s).laceStopSector.groupsSectorReset.windowsQuiet
  have lost : (sectorLost (sectorStopped s x) x 0 false).recovery = (sectorStopped s x).recovery :=
    (of_residue (residue_sectorLost ..)).2.1
  rw [sectorCleared_kept s State.recovery fun _ _ _ => rfl, lost, stopped]

end

/-! ## What a sector reset leaves (R794) -/

theorem sector_wr (t : State) (k v x : Nat) : sector (wr t k v) x = sector t x := rfl

theorem still_resetCount {x : Nat} (hx : x < 32) : Still (E.sector_reset_count + x) ∧ E.sector_reset_count + x ∉ sectorV x := by
  have all : ∀ x < 32, (Calm (E.sector_reset_count + x) = true ∧ Survives (E.sector_reset_count + x) = true) ∧
      E.sector_reset_count + x ∉ sectorV x := by decide +kernel
  obtain ⟨⟨calm, survives⟩, other⟩ := all x hx
  have count : E.sector_reset_count = 9437697 := rfl
  have lacing : E.ring_state = 4276481 := rfl
  have windows : E.windows_open = 6296321 := rfl
  exact ⟨⟨calm, survives, fun r hr => by omega, by omega⟩, other⟩

theorem still_timeCount {x : Nat} (hx : x < 32) : Still E.time_count ∧ E.time_count ∉ sectorV x := by
  have all : ∀ x < 32, E.time_count ∉ sectorV x := by decide +kernel
  exact ⟨⟨by decide, by decide, by decide, by decide⟩, all x hx⟩

section
variable (s : State) {x : Nat} (hx : x < 32) (kind hung : Nat)
include hx

/-- The machine before the reset is counted. -/
def sectorReady (s : State) (x kind hung : Nat) : State := takenPosted (sectorRestarted (sectorCleared s x) x) x kind hung (takenBefore s x)

omit hx in
theorem restart_sectorReady : Restart x (setDomain (sectorCleared s x) x 0) (sectorReady s x kind hung) :=
  (restart_sectorRestarted _ x).trans (restart_takenPosted _ x kind hung _)

theorem rd_sectorReady {k : Nat} (h : Still k) (other : k ∉ sectorV x) (pace : k ≠ E.pace_break_count + x) :
    rd (sectorReady s x kind hung) k = rd s k := by
  have low : k < E.nd_count := of_decide_eq_true (Bool.and_eq_true_iff.1 h.calm).1
  rw [(restart_sectorReady s kind hung).entries k low pace (survives_ne (n := 1) h.survives (by decide) (by decide)), setDomain,
    rd_wr_other _ (survives_apart (b := E.domain_state) (n := 40) h.survives (by decide) (by omega)), rd_sectorCleared s hx h other]

theorem now_sectorReady : now (sectorReady s x kind hung) = now s := by
  obtain ⟨still, other⟩ := still_timeCount hx
  have time : E.time_count = 2101764 := rfl
  have pace : E.pace_break_count = 2105857 := rfl
  exact rd_sectorReady s hx kind hung still other (by omega)

omit hx in
theorem recovery_sectorReady : (sectorReady s x kind hung).recovery = s.recovery := by
  have restarted (u : State) : (sectorRestarted u x).recovery = u.recovery := by
    refine (recoveryIs_def _).1 ?_
    exact (recoveryIs_self u).wr.levelAtWake.wr.foldl fun _ _ h => h.ringReenable
  have posted (u : State) (l : List (Nat × List Taken)) : (takenPosted u x kind hung l).recovery = u.recovery :=
    (recoveryIs_def _).1 ((recoveryIs_self u).foldl fun _ _ h => h.foldl fun _ _ h => h.postAborted)
  rw [sectorReady, posted, restarted, recovery_sectorCleared]

/-- What a reset of sector x leaves of its parts. -/
structure SectorWasReset (s t : State) (x kind : Nat) : Prop where
  domain : domainState t x = 0
  count : rd t (E.sector_reset_count + x) = cut E.sector_reset_count (rd s (E.sector_reset_count + x) + 1)
  last : rd t E.last_reset_kind = kind % 256
  time : rd t E.last_reset_time = cut E.last_reset_time (now s)
  cores : ∀ p < 25, core t (25 * x + p) = Core.init
  landing : (sector t x).landing = []
  mem : ∀ a, (Mem.onchip x 0 0 ≤ a ∧ a < Mem.onchip x 25 0) ∨ (Mem.commons x 0 ≤ a ∧ a < ringKey x 0) → rdByte t a = 0

omit hx in
theorem sectorReset_ready : sectorReset s x kind hung =
    let t := sectorCounted (sectorReady s x kind hung) x kind
    { t with recovery := t.recovery.sectorReset x kind (now t) } := sectorReset_eq s x kind hung

/-- The recovery unit's record after it. -/
theorem recovery_sectorReset : (sectorReset s x kind hung).recovery = s.recovery.sectorReset x kind (now s) := by
  have ready := now_sectorReady s hx kind hung
  have count : E.sector_reset_count = 9437697 := rfl
  have clock : now (sectorCounted (sectorReady s x kind hung) x kind) = now s := by
    rw [← ready]
    unfold sectorCounted
    exact (rd_wr_other _ (by decide) _).trans ((rd_wr_other _ (by decide) _).trans (rd_inc_other _ (by simp only [E.time_count, count]; omega)))
  have record : (sectorCounted (sectorReady s x kind hung) x kind).recovery = s.recovery :=
    (show _ = (sectorReady s x kind hung).recovery from rfl).trans (recovery_sectorReady s kind hung)
  rw [sectorReset_ready]
  dsimp only
  rw [clock, record]

theorem sectorWasReset_sectorReset : SectorWasReset s (sectorReset s x kind hung) x kind := by
  have ready := restart_sectorReady s (x := x) kind hung
  obtain ⟨still, other⟩ := still_resetCount hx
  have count : E.sector_reset_count = 9437697 := rfl
  have pace : E.pace_break_count = 2105857 := rfl
  have domain : E.domain_state = 2110465 := rfl
  have lock : E.pacer_lock_status = 2105345 := rfl
  have limit : E.nd_count = 10486273 := rfl
  have last : E.last_reset_kind = 9437442 := rfl
  have time : E.last_reset_time = 9437443 := rfl
  have before := rd_sectorReady s hx kind hung still other (by omega)
  have clock := now_sectorReady s hx kind hung
  have size : ∀ x < 32, dictSize (E.sector_reset_count + x) = dictSize E.sector_reset_count := by decide +kernel
  have dict : (sectorReset s x kind hung).dict = (sectorCounted (sectorReady s x kind hung) x kind).dict := by rw [sectorReset_ready]
  have on : rd (sectorReady s x kind hung) (E.domain_state + x) = 0 := by
    rw [ready.entries _ (by omega) (by omega) (by omega), setDomain, rd_wr_same, Nat.zero_mod]
  have kept {β : Type} (f : State → β) (blind : ∀ (t : State) r, f { t with recovery := r } = f t) (writes : ∀ t k v, f (wr t k v) = f t) :
      f (sectorReset s x kind hung) = f (sectorReady s x kind hung) := by
    rw [sectorReset_ready]
    dsimp only
    rw [blind]
    unfold sectorCounted
    rw [writes, writes]
    exact writes ..
  generalize sectorReady s x kind hung = u at *
  unfold sectorCounted at dict
  refine ⟨?_, ?_, ?_, ?_, fun p hp => ?_, ?_, fun a gone => ?_⟩
  · rw [domainState, rd_congr dict, rd_wr_other _ (by omega), rd_wr_other _ (by omega), rd_inc_other _ (by omega), on]
  · rw [rd_congr dict, rd_wr_other _ (by omega), rd_wr_other _ (by omega), rd_inc_same, before, cut, size x hx]
    rfl
  · rw [rd_congr dict, rd_wr_other _ (by decide), rd_wr_same]
    rfl
  · rw [rd_congr dict, rd_wr_same, ← clock]
    unfold now
    rw [rd_inc_other _ (by simp only [E.time_count, count]; omega)]
    rfl
  · rw [kept (core · (25 * x + p)) (fun _ _ => rfl) fun _ _ _ => rfl, core_congr ready.cores, setDomain, core_congr (wr_cores ..)]
    exact core_sectorCleared s (by omega)
  · rw [kept (fun t => (sector t x).landing) (fun _ _ => rfl) fun _ _ _ => rfl, ready.landing, setDomain, sector_wr]
    exact landing_sectorCleared s
  · have below : a < ringKey x 0 := by
      rcases gone with ⟨-, high⟩ | ⟨-, high⟩
      · unfold ringKey Mem.commons
        unfold Mem.onchip at high ⊢
        omega
      · exact high
    rw [kept (rdByte · a) (fun _ _ => rfl) fun _ _ _ => rfl, ready.mem a below, setDomain, rdByte_congr (wr_mem ..)]
    refine rdByte_sectorCleared s (gone.imp_right fun ⟨low, high⟩ => ⟨low, ?_⟩)
    unfold ringKey Mem.commons Mem.onchip at high
    unfold Mem.commons Mem.onchip
    omega

end


/-! ## Reset commands (R789, R810, R820, R822) -/

theorem writable_resetCmd : Writable E.reset_cmd ⟨36865, 1, 1, 1, 3, 4, .cmd, 1, false, 0⟩ :=
  ⟨by decide, by decide, by decide, by decide, by decide⟩

theorem writable_oosReinstate : Writable E.oos_reinstate ⟨36868, 1, 6, 6, 1, 1, .cmd, 1, false, 0⟩ :=
  ⟨by decide, by decide, by decide, by decide, by decide⟩

theorem writable_fullTestCmd : Writable E.full_test_cmd ⟨36928, 1, 1, 1, 1, 1, .cmd, 1, false, 0⟩ :=
  ⟨by decide, by decide, by decide, by decide, by decide⟩

section
variable {s : State} {via : Path}

theorem exec_sectorResetCmd {x : Nat} (hx : x < 32) :
    exec (.sectorResetCmd via x) s = done s (access s (writeBytes via E.reset_cmd (leBytes 4 (2 ^ 28 + x))) resetSem) := if_pos (decide_eq_true hx)

theorem exec_deviceResetCmd : exec (.deviceResetCmd via) s = done s (access s (writeBytes via E.reset_cmd (leBytes 4 (2 * 2 ^ 28))) resetSem) := rfl

theorem exec_oosReinstate : exec (.oosReinstate via (leBytes (dictSize E.oos_reinstate) 1)) s =
    done s (access s (writeBytes via E.oos_reinstate (leBytes 1 1)) reinstateSem) := by
  rw [show dictSize E.oos_reinstate = 1 by decide]
  rfl

theorem resetSem_eff (s : State) (via : Path) (v : Nat) :
    resetSem.eff s via v = if bits v 31 28 = 1 then sectorReset s (bits v 4 0) 0x10 0 else startReset s 4 := rfl

theorem resetSem_rule (s : State) {v : Nat} (op : bits v 31 28 = 1 ∨ bits v 31 28 = 2) : resetSem.rule s v = true := decide_eq_true op

theorem sectorReset_effect {x : Nat} (hx : x < 32) (serves : Serves s E.reset_cmd) (known : authentic s via = true) :
    exec (.sectorResetCmd via x) s = done s (ended (sectorReset s x 0x10 0) E.reset_cmd 0) := by
  have op : bits (2 ^ 28 + x) 31 28 = 1 := by unfold bits; omega
  have named : bits (2 ^ 28 + x) 4 0 = x := by unfold bits; omega
  rw [command_effect (exec_sectorResetCmd hx) serves writable_resetCmd (not_heldBack_of_authentic known) (by dsimp only; omega) (by decide)
    (resetSem_rule s (.inl op)) rfl, told_device (by decide), resetSem_eff, if_pos op, named]

theorem deviceReset_effect (serves : Serves s E.reset_cmd) (known : authentic s via = true) :
    exec (.deviceResetCmd via) s = done s (ended (startReset s 4) E.reset_cmd 0) := by
  rw [command_effect exec_deviceResetCmd serves writable_resetCmd (not_heldBack_of_authentic known) (by decide) (by decide)
    (resetSem_rule s (.inr (by decide))) rfl, told_device (by decide), resetSem_eff, if_neg (by decide)]

theorem reinstate_effect (serves : Serves s E.oos_reinstate) (known : authentic s via = true) :
    exec (.oosReinstate via (leBytes (dictSize E.oos_reinstate) 1)) s = done s (ended (reinstate s) E.oos_reinstate 0) := by
  rw [command_effect exec_oosReinstate serves writable_oosReinstate (not_heldBack_of_authentic known) (by decide) (by decide) rfl rfl,
    told_device (by decide)]
  rfl

end

/-- A reset of kind 4 or another that does not count leaves the escalation counter (R807). -/
theorem escal_startReset (s : State) {kind : Nat} (uncounted : ¬(kind = 5 ∨ kind = 6)) : (startReset s kind).recovery.escal = s.recovery.escal := by
  rw [(startReset_rest s kind).1]
  exact if_neg uncounted

theorem escal_startReset_counted (s : State) {kind : Nat} (counted : kind = 5 ∨ kind = 6) :
    (startReset s kind).recovery.escal = s.recovery.escal ++ [now s] := by
  rw [(startReset_rest s kind).1]
  exact if_pos counted

/-- The machine back in service, before its reset. -/
def reinstated (s : State) : State :=
  let s := wr (wr (wr s E.out_of_service 0) E.oos_cause 0) E.escalation_count 0
  bootLog { s with recovery := { s.recovery with escal := [] } } 9 0 0 0 []

theorem reinstate_eq (s : State) : reinstate s = startReset (reinstated s) 4 := rfl

theorem reinstated_rest (s : State) : (reinstated s).host = s.host ∧ (reinstated s).supply = s.supply ∧ (reinstated s).recovery.escal = [] ∧
    (reinstated s).dict = (wr (wr (wr s E.out_of_service 0) E.oos_cause 0) E.escalation_count 0).dict := ⟨rfl, rfl, rfl, rfl⟩

theorem reinstate_leads (s : State) : WasReset s (reinstate s) 4 ∧ rd (reinstate s) E.out_of_service = 0 ∧ rd (reinstate s) E.oos_cause = 0 ∧
    (reinstate s).recovery.escal = [] := by
  obtain ⟨host, supply, escal, dict⟩ := reinstated_rest s
  rw [reinstate_eq]
  refine ⟨(wasReset_startReset (reinstated s) 4 (by decide)).of_same (by rw [host]) ?_ (by rw [supply]), ?_, ?_, ?_⟩
  · rw [rd_congr dict, rd_wr_other _ (by decide), rd_wr_other _ (by decide), rd_wr_other _ (by decide)]
  · rw [rd_startReset (by decide), if_pos (by decide), rd_congr dict, rd_wr_other _ (by decide), rd_wr_other _ (by decide), rd_wr_same, Nat.zero_mod]
  · rw [rd_startReset (by decide), if_pos (by decide), rd_congr dict, rd_wr_other _ (by decide), rd_wr_same, Nat.zero_mod]
  · rw [escal_startReset _ (by decide), escal]

/-! ## Full-stop tests (R808, R816) -/

/-- Ports that go off are DISABLED (R546). -/
theorem portCode_portsDisable (s : State) {p : Nat} (hp : p < 34) : portCode (portsDisable s) p = 0 := by
  have step (t : State) (q : Nat) (off : portCode t p = 0) : portCode (if portCode t q = 0 then t else portOut t q 0) p = 0 := by
    split
    · exact off
    · by_cases same : q = p
      · rw [same]
        exact (wentOut_portOut t hp (by decide)).code
      · have apart : Apart q (E.port_state + p) := by
          constructor <;> simp only [E.port_state, E.lane_map, E.neighbour, E.route_converged] <;> omega
        have word : rd (portOut t q 0) (E.port_state + p) = rd t (E.port_state + p) := by
          rw [rd_portOut t apart, if_pos (by decide)]
          unfold dropCounted
          split
          · rw [rd_inc_other _ (by simp only [E.port_state, E.link_down_count]; omega)]
            exact rd_wr_other _ (by simp only [E.port_state, E.link_flits_lost_count]; omega) _
          · rfl
        unfold portCode at off ⊢
        rwa [word]
  have domain (t : State) (d : Nat) (off : portCode t p = 0) : portCode (portsOff t d) p = 0 :=
    List.foldlRecOn (motive := fun t => portCode t p = 0) _ _ off fun t off q _ => step t q off
  have own (t : State) : portCode (portsOff t (portDomain p)) p = 0 := by
    refine foldl_establishes (P := fun t => portCode t p = 0) (a := p) (l := (List.range 34).filter fun q => portDomain q == portDomain p)
      (g := fun t q => if portCode t q = 0 then t else portOut t q 0) (List.mem_filter.2 ⟨List.mem_range.2 hp, beq_self_eq_true _⟩) (fun t => ?_) step t
    split
    · assumption
    · exact (wentOut_portOut t hp (by decide)).code
  have listed : portDomain p ∈ [36, 37, 38] := by
    unfold portDomain
    split
    · decide
    · split <;> decide
  exact foldl_establishes (P := fun t => portCode t p = 0) listed own domain s

theorem exec_fullTest {n : Instr} {s : State} {via : Path} {v : Nat}
    (listed : (n, v) ∈ [(Instr.fullScanTest via, 1), (.emramMarchTest via, 2), (.sislSelfTest via, 3)]) :
    exec n s = done s (access s (writeBytes via E.full_test_cmd (leBytes 1 v)) fullTestSem) ∧ 1 ≤ v ∧ v ≤ 3 := by
  rcases List.mem_cons.1 listed with is | listed
  · obtain ⟨rfl, rfl⟩ := Prod.mk.injEq .. ▸ is
    exact ⟨rfl, by decide⟩
  rcases List.mem_cons.1 listed with is | listed
  · obtain ⟨rfl, rfl⟩ := Prod.mk.injEq .. ▸ is
    exact ⟨rfl, by decide⟩
  · obtain ⟨rfl, rfl⟩ := Prod.mk.injEq .. ▸ List.mem_singleton.1 listed
    exact ⟨rfl, by decide⟩

theorem fullTestSem_eff (s : State) (via : Path) (v : Nat) : fullTestSem.eff s via v = fullTest s v := rfl

theorem fullTest_effect {n : Instr} {s : State} {via : Path} {v : Nat}
    (runs : exec n s = done s (access s (writeBytes via E.full_test_cmd (leBytes 1 v)) fullTestSem)) (op : 1 ≤ v ∧ v ≤ 3)
    (serves : Serves s E.full_test_cmd) (known : authentic s via = true) : exec n s = done s (ended (fullTest s v) E.full_test_cmd 0) := by
  rw [command_effect runs serves writable_fullTestCmd (not_heldBack_of_authentic known) (by dsimp only; omega) (by decide) (decide_eq_true op) rfl,
    told_device (by decide), fullTestSem_eff]

/-- Every partition is FREE, and no twin is bound. -/
def MayTest (s : State) : Prop := (∀ p < 32, rd s (E.part_state + 256 * p) = 0) ∧ (rd s E.twin_role = 0 ∨ rd s E.twin_role = 3)

theorem mayTest_iff (s : State) : ((List.range 32).all (fun p => rd s (E.part_state + 256 * p) == 0) &&
    (rd s E.twin_role == 0 || rd s E.twin_role == 3)) = true ↔ MayTest s := by
  simp [MayTest]

theorem fullTest_refused {s : State} (not : ¬MayTest s) (v : Nat) : fullTest s v = wr s E.full_test_status 4 :=
  if_neg fun may => not ((mayTest_iff s).1 may)

/-- The cores of a device-level test of the cores' memory stop (R816). -/
def testEmptied (s : State) (v : Nat) : State :=
  if v = 1 then (List.range 32).foldl (fun t x => sectorLost t x 0 false) (portsDisable s) else portsDisable s

theorem fullTest_starts {s : State} (may : MayTest s) (v : Nat) : fullTest s v =
    wr { testEmptied s v with recovery := { (testEmptied s v).recovery with fullTest := some v } } E.full_test_status 1 :=
  if_pos ((mayTest_iff s).2 may)

theorem portCode_testEmptied (s : State) (v : Nat) {p : Nat} (hp : p < 34) : portCode (testEmptied s v) p = 0 := by
  have kept (t : State) : rd ((List.range 32).foldl (fun t x => sectorLost t x 0 false) t) (E.port_state + p) = rd t (E.port_state + p) :=
    foldl_keeps_of_mem (rd · (E.port_state + p)) (fun x hx t => rd_sectorLost_other (by
      have := List.mem_range.1 hx
      simp only [E.port_state, E.landing_ranges_open]
      omega) t 0 false) t
  unfold testEmptied
  split
  · unfold portCode
    rw [kept]
    exact portCode_portsDisable s hp
  · exact portCode_portsDisable s hp

theorem core_testEmptied (s : State) {c : Nat} (hc : c < 800) : core (testEmptied s 1) c = Core.init := by
  unfold testEmptied
  rw [if_pos rfl]
  refine foldl_establishes (P := fun t => core t c = Core.init) (a := c / 25) (List.mem_range.2 (by omega)) (fun t => ?_) (fun t x h => ?_) _
  · rw [core_sectorLost, if_pos rfl]
  · rw [core_sectorLost, h, ite_self]

theorem fullTest_leads {s : State} (may : MayTest s) (v : Nat) : (fullTest s v).recovery.fullTest = some v ∧ rd (fullTest s v) E.full_test_status = 1 ∧
    (∀ p < 34, portCode (fullTest s v) p = 0) ∧ (v = 1 → ∀ c < 800, core (fullTest s v) c = Core.init) := by
  rw [fullTest_starts may]
  have ports (p : Nat) (hp : p < 34) := portCode_testEmptied s v hp
  have cores : v = 1 → ∀ c < 800, core (testEmptied s v) c = Core.init := by
    rintro rfl c hc
    exact core_testEmptied s hc
  generalize testEmptied s v = u at ports cores ⊢
  refine ⟨rfl, rd_wr_same _ _ _, fun p hp => ?_, cores⟩
  have word : rd (wr { u with recovery := { u.recovery with fullTest := some v } } E.full_test_status 1) (E.port_state + p) = rd u (E.port_state + p) :=
    rd_wr_other _ (by simp only [E.port_state, E.full_test_status]; omega) 1
  unfold portCode
  rw [word]
  exact ports p hp

/-- The machine at the end of a test, before its reset. -/
def testEnded (s : State) (passed : Bool) : State :=
  let s := wr { s with recovery := { s.recovery with fullTest := none } } E.full_test_status (if passed then 2 else 3)
  let s := bootLog s 13 4 (if passed then 0 else 0x0902) 0 []
  if passed then s else goOutOfService s 3

theorem fullTestDone_some {s : State} (tests : s.recovery.fullTest ≠ none) (passed : Bool) : fullTestDone s passed = startReset (testEnded s passed) 4 := by
  obtain ⟨v, is⟩ := Option.ne_none_iff_exists'.1 tests
  unfold fullTestDone
  rw [is]
  rfl

theorem setAlert_msixTable (s : State) (b : Nat) : (setAlert s b).host.msixTable = s.host.msixTable := by
  have sent (t : State) (v : Nat) : (msixSend t v).host.msixTable = t.host.msixTable := by
    unfold msixSend
    dsimp only
    split
    · split <;> rfl
    · split <;> rfl
  have signalled (t : State) (v : Nat) : (signalVector t v).host.msixTable = t.host.msixTable := by
    unfold signalVector
    split
    · rfl
    · split
      · rfl
      · exact sent t v
  unfold setAlert alertEdge
  split
  · rw [signalled]
    rfl
  · rfl

/-- Where the end of a test comes from. -/
theorem testEnded_rest (s : State) (passed : Bool) : (testEnded s passed).host.msixTable = s.host.msixTable ∧
    rd (testEnded s passed) E.pcie_link_status = rd s E.pcie_link_status ∧ (testEnded s passed).supply.mainOn = s.supply.mainOn := by
  have ended (u : State) (v c : Nat) : (bootLog (wr u E.full_test_status v) 13 4 c 0 []).host = u.host ∧
      (bootLog (wr u E.full_test_status v) 13 4 c 0 []).supply = u.supply := ⟨rfl, rfl⟩
  have status (u : State) (v c : Nat) : rd (bootLog (wr u E.full_test_status v) 13 4 c 0 []) E.pcie_link_status = rd u E.pcie_link_status :=
    (rd_bootLog ..).trans (rd_wr_other _ (by decide) v)
  have out (u : State) : (goOutOfService u 3).host.msixTable = u.host.msixTable ∧ (goOutOfService u 3).supply = u.supply := by
    obtain ⟨-, host, supply⟩ := bootLog_rest (setAlert (wr (wr u E.out_of_service 1) E.oos_cause 3) 64) 8 0 0x0902 0 []
    refine ⟨(congrArg HostSide.msixTable host).trans (setAlert_msixTable ..), supply.trans ?_⟩
    exact supply_of_still (still_setAlert ..)
  cases passed with
  | true =>
    obtain ⟨host, supply⟩ := ended { s with recovery := { s.recovery with fullTest := none } } 2 0
    exact ⟨congrArg HostSide.msixTable host, status _ 2 0, congrArg Supply.mainOn supply⟩
  | false =>
    obtain ⟨host, supply⟩ := ended { s with recovery := { s.recovery with fullTest := none } } 3 0x0902
    have is : testEnded s false = goOutOfService (bootLog (wr { s with recovery := { s.recovery with fullTest := none } } E.full_test_status 3)
      13 4 0x0902 0 []) 3 := rfl
    rw [is]
    obtain ⟨table, supply'⟩ := out (bootLog (wr { s with recovery := { s.recovery with fullTest := none } } E.full_test_status 3) 13 4 0x0902 0 [])
    refine ⟨table.trans (congrArg HostSide.msixTable host), ?_, congrArg Supply.mainOn (supply'.trans supply)⟩
    rw [rd_goOutOfService (by decide) (by decide) (by decide)]
    exact status _ 3 0x0902

/-- The end of a test starts a reset, and its failure takes the device out of service (R808, R816). -/
theorem fullTestDone_leads {s : State} (tests : s.recovery.fullTest ≠ none) (passed : Bool) : WasReset s (fullTestDone s passed) 4 ∧
    (fullTestDone s passed).recovery.fullTest = none ∧
    (passed = false → rd (fullTestDone s passed) E.out_of_service = 1 ∧ rd (fullTestDone s passed) E.oos_cause = 3) := by
  obtain ⟨table, link, mainOn⟩ := testEnded_rest s passed
  rw [fullTestDone_some tests]
  refine ⟨(wasReset_startReset _ 4 (by decide)).of_same table link mainOn, ?_, ?_⟩
  · rw [(startReset_rest _ 4).1]
    rfl
  · rintro rfl
    have is : testEnded s false = goOutOfService (bootLog (wr { s with recovery := { s.recovery with fullTest := none } } E.full_test_status 3)
      13 4 0x0902 0 []) 3 := rfl
    constructor
    · rw [rd_startReset (by decide), if_pos (by decide), is, rd_goOutOfService_service]
    · rw [rd_startReset (by decide), if_pos (by decide), is, rd_goOutOfService_cause]
      rfl

/-- Settles O58: what a device-level reset leaves is said once, for every kind (`wasReset_startReset`), and so is what a sector reset
leaves (`sectorWasReset_sectorReset`). -/
theorem resetsRun : Obligations.ResetsRun := by
  unfold Obligations.ResetsRun
  intro s
  refine ⟨fun via serves => ⟨fun unknown => ⟨?_, fun x hx => ?_⟩, fun known => ⟨?_, fun x hx => ?_⟩⟩, fun a => ?_, fun via serves => ⟨fun unknown => ?_,
    fun known => ?_⟩, fun via n v listed serves => ?_, fun none_ passed => ?_, fun passed tests => ?_⟩
  · exact exec_heldBack exec_deviceResetCmd serves writable_resetCmd ⟨.inr rfl, unknown, rfl⟩
  · exact exec_heldBack (exec_sectorResetCmd hx) serves writable_resetCmd ⟨.inr rfl, unknown, rfl⟩
  · exact leads_ended (deviceReset_effect serves known) ⟨wasReset_startReset s 4 (by decide), escal_startReset s (by decide)⟩ fun v q a h => h
  · obtain ⟨domain, count, last, time, cores, landing, mem⟩ := sectorWasReset_sectorReset s hx 0x10 0
    refine leads_ended (sectorReset_effect hx serves known) ⟨domain, count, last, time, cores, landing, fun p hp o ho => mem _ (.inl ?_),
      fun o ho => mem _ (.inr ?_)⟩ fun v q a h => h
    · unfold Mem.onchip
      omega
    · unfold ringKey Mem.commons Mem.onchip
      omega
  · refine leads_of_effect (u := startReset s 6) rfl ⟨wasReset_startReset s 6 (by decide), ?_⟩ fun v q h => h
    exact escal_startReset_counted s (.inr rfl)
  · exact exec_heldBack exec_oosReinstate serves writable_oosReinstate ⟨.inr rfl, unknown, rfl⟩
  · exact leads_ended (reinstate_effect serves known) (reinstate_leads s) fun v q a h => h
  · obtain ⟨runs, op⟩ := exec_fullTest listed
    refine ⟨fun unknown => exec_heldBack runs serves writable_fullTestCmd ⟨.inr rfl, unknown, rfl⟩, fun known not => ?_, fun known may => ?_⟩
    · exact accepts_of_effect (fullTest_effect runs op serves known) (fullTest_refused not v) rfl
    · exact leads_ended (fullTest_effect runs op serves known) (fullTest_leads may v) fun v q a h => h
  · rw [Stays, show exec (.fullTestDone passed) s = done s (fullTestDone s passed) from rfl, fullTestDone, none_]
    exact done_eq rfl
  · exact leads_of_effect (u := fullTestDone s passed) rfl (fullTestDone_leads tests passed) fun v q h => h

end Sys2Proof.Machine
end

section
/-! SUPPORT. Hangs, and crash records. -/

namespace Sys2Proof.Machine

open Sys2Proof

/-! ## Hangs (R797 to R801) -/

/-- The kind of reset that a hang in sector x leads to (R799). -/
def hangKind (s : State) (sec : Option Nat) : Nat :=
  match sec with
  | some x => if 2 ≤ within s (Tab.get [] s.recovery.sectorHangs x) then 5 else 0x11
  | none => 5

/-- The machine that has told of a hang. -/
def hangTold (s : State) (block : Nat) : State :=
  wr (wr (setAlert (inc s E.hang_count) 32) E.last_hang_block block) E.last_hang_name (blockName block)

/-- The machine with these hangs. -/
def withCrashes (s : State) (l : List Crash) : State := { s with recovery := { s.recovery with crashes := l } }

/-- The record of a hang begins, or waits behind the others (R800, R806). -/
def hangQueued (t : State) (c : Crash) : State :=
  if t.recovery.crashes.isEmpty then beginCrash (withCrashes t [c]) else withCrashes t (t.recovery.crashes ++ [c])

/-- The boot log tells of it. -/
def hangLogged (s : State) (block : Nat) (sec : Option Nat) : State := bootLog (hangTold s block) 6 (hangKind (hangTold s block) sec) 0x0901 block []

theorem declareHang_eq (s : State) (block : Nat) (sec : Option Nat) (hdr : Bool) : declareHang s block sec hdr =
    hangQueued (hangLogged s block sec) ⟨block, sec, hdr, now (hangLogged s block sec), hangKind (hangTold s block) sec⟩ := by
  cases sec <;> rfl

section
variable (s : State) (block : Nat)

theorem rd_hangTold {k : Nat} (count : k ≠ E.hang_count) (alert : k ≠ E.alert_status) (last : k ≠ E.last_hang_block) (name : k ≠ E.last_hang_name) :
    rd (hangTold s block) k = rd s k := by
  rw [hangTold, rd_wr_other _ name, rd_wr_other _ last, rd_setAlert_other _ alert, rd_inc_other _ count]

theorem hangTold_rest : (hangTold s block).recovery = s.recovery ∧ (hangTold s block).cores = s.cores := by
  have kept : still (hangTold s block) = still s := by simp [hangTold]
  exact ⟨show (still (hangTold s block)).recovery = (still s).recovery from congrArg State.recovery kept, cores_of_still kept⟩

theorem hangKind_hangTold (sec : Option Nat) : hangKind (hangTold s block) sec = hangKind s sec := by
  cases sec with
  | none => rfl
  | some x =>
    unfold hangKind within now
    rw [(hangTold_rest s block).1, rd_hangTold s block (by decide) (by decide) (by decide) (by decide),
      rd_hangTold s block (by decide) (by decide) (by decide) (by decide)]

/-- What a hang that is declared leaves: its alert, its count and its block. -/
theorem hangTold_entries : rd (hangTold s block) E.hang_count = cut E.hang_count (rd s E.hang_count + 1) ∧
    rd (hangTold s block) E.last_hang_block = cut E.last_hang_block block ∧ bit (rd (hangTold s block) E.alert_status) 5 = true := by
  refine ⟨?_, ?_, ?_⟩
  · rw [hangTold, rd_wr_other _ (by decide), rd_wr_other _ (by decide), rd_setAlert_other _ (by decide), rd_inc_same]
  · rw [hangTold, rd_wr_other _ (by decide), rd_wr_same]
    rfl
  · rw [hangTold, rd_wr_other _ (by decide), rd_wr_other _ (by decide)]
    exact bit_setAlert _ (by decide) (by decide)

end

/-- What `beginCrash` leaves: entries but those of the crash unit, and the hangs that wait. -/
theorem beginCrash_rest (u : State) : (beginCrash u).recovery = { u.recovery with crashHeld := none } ∧ (beginCrash u).cores = u.cores ∧
    rd (beginCrash u) E.crash_state = 1 ∧ rd (beginCrash u) E.crash_seq = cut E.crash_seq (rd u E.crash_seq + 1) ∧
    ∀ k, k ≠ E.crash_state → k ≠ E.crash_seq → k ≠ E.crash_lost_count → rd (beginCrash u) k = rd u k := by
  have lost (v : State) : v = u ∨ v = inc u E.crash_lost_count → v.recovery = u.recovery ∧ v.cores = u.cores ∧
      ∀ k, k ≠ E.crash_lost_count → rd v k = rd u k := by
    rintro (rfl | rfl)
    · exact ⟨rfl, rfl, fun _ _ => rfl⟩
    · exact ⟨rfl, rfl, fun k other => rd_inc_other _ other⟩
  have shape : ∃ v, (v = u ∨ v = inc u E.crash_lost_count) ∧
      beginCrash u = inc (wr { v with recovery := { v.recovery with crashHeld := none } } E.crash_state 1) E.crash_seq := by
    unfold beginCrash
    split
    · exact ⟨_, .inr rfl, rfl⟩
    · exact ⟨_, .inl rfl, rfl⟩
  obtain ⟨v, from_, is⟩ := shape
  obtain ⟨recovery, cores, entries⟩ := lost v from_
  rw [is]
  refine ⟨?_, cores, ?_, ?_, fun k state seq count => ?_⟩
  · show { v.recovery with crashHeld := none } = _
    rw [recovery]
  · rw [rd_inc_other _ (by decide), rd_wr_same]
    rfl
  · rw [rd_inc_same, rd_wr_other _ (by decide)]
    exact congrArg (fun n => cut E.crash_seq (n + 1)) (entries _ (by decide))
  · rw [rd_inc_other _ seq, rd_wr_other _ state]
    exact entries k count

/-- A hang is declared, and its crash record begins or waits (R799 to R801, R806). -/
theorem declareHang_leads {n : Instr} (s : State) (block : Nat) (sec : Option Nat) (hdr : Bool) (runs : exec n s = done s (declareHang s block sec hdr)) :
    Leads n s fun t => t.recovery.crashes = s.recovery.crashes ++ [⟨block, sec, hdr, now s, hangKind s sec⟩] ∧
      rd t E.hang_count = cut E.hang_count (rd s E.hang_count + 1) ∧ rd t E.last_hang_block = cut E.last_hang_block block ∧
      bit (rd t E.alert_status) 5 = true ∧ t.cores = s.cores ∧
      (s.recovery.crashes = [] → rd t E.crash_state = 1 ∧ rd t E.crash_seq = cut E.crash_seq (rd s E.crash_seq + 1)) := by
  refine leads_of_effect runs ?_ fun v q h => h
  obtain ⟨recovery, cores⟩ := hangTold_rest s block
  obtain ⟨count, last, alert⟩ := hangTold_entries s block
  have seq : rd (hangTold s block) E.crash_seq = rd s E.crash_seq := rd_hangTold s block (by decide) (by decide) (by decide) (by decide)
  have clock : now (hangTold s block) = now s := rd_hangTold s block (by decide) (by decide) (by decide) (by decide)
  have logged : (hangLogged s block sec).recovery.crashes = s.recovery.crashes :=
    (congrArg Recovery.crashes (bootLog_rest ..).1).trans (show (hangTold s block).recovery.crashes = _ by rw [recovery])
  have entries (k : Nat) : rd (hangLogged s block sec) k = rd (hangTold s block) k := rd_bootLog ..
  have cores' : (hangLogged s block sec).cores = s.cores := (show (hangLogged s block sec).cores = (hangTold s block).cores from rfl).trans cores
  have clock' : now (hangLogged s block sec) = now s := (entries _).trans clock
  rw [declareHang_eq, hangKind_hangTold, clock']
  generalize hangLogged s block sec = t at *
  generalize hangTold s block = u at *
  have given (l : List Crash) (k : Nat) : rd (withCrashes t l) k = rd u k := (show rd (withCrashes t l) k = rd t k from rfl).trans (entries k)
  unfold hangQueued
  rw [logged]
  split
  · rename_i empty
    obtain ⟨held, kept, state, seq', others⟩ := beginCrash_rest (withCrashes t [⟨block, sec, hdr, now s, hangKind s sec⟩])
    refine ⟨?_, ?_, ?_, ?_, kept.trans cores', fun _ => ⟨state, ?_⟩⟩
    · rw [held, List.isEmpty_iff.1 empty]
      rfl
    · rw [others _ (by decide) (by decide) (by decide), given, count]
    · rw [others _ (by decide) (by decide) (by decide), given, last]
    · rw [others _ (by decide) (by decide) (by decide), given, alert]
    · rw [seq', given, seq]
  · rename_i waits
    refine ⟨rfl, ?_, ?_, ?_, cores', fun none_ => absurd (List.isEmpty_iff.2 none_) waits⟩
    · rw [given, count]
    · rw [given, last]
    · rw [given, alert]

/-! ## Crash records (R801 to R806) -/

section
variable (s : State) (c : Crash) (a b : List Nat)

theorem mem_sectorParts {x : Nat} {p : Nat × Nat × Nat} (member : p ∈ sectorParts s c x a b) :
    (p.2.1 ≠ 5 → p.1 ∉ a) ∧ (p.2.1 = 4 → p.1 ∉ b) ∧ p.2.1 ≠ 1 ∧ (domainOn s x = false → p = (0x100 + x, 5, 64)) ∧
      (p.2.1 = 2 → p.1 = 0x100 + x ∧ domainOn s x = true) := by
  unfold sectorParts at member
  split at member
  · rename_i on
    have off : ¬domainOn s x = false := by simp [on]
    simp only [List.mem_append] at member
    rcases member with (controller | core) | sample
    · split at controller
      · cases controller
      · rename_i answers
        obtain rfl := List.mem_singleton.1 controller
        exact ⟨fun _ listed => answers (List.contains_iff_mem.2 listed), fun is => absurd is (by decide : 2 ≠ 4), (by decide : 2 ≠ 1), fun is => absurd is off, fun _ => ⟨rfl, on⟩⟩
    · obtain ⟨b', member, rfl⟩ := List.mem_map.1 core
      obtain ⟨-, answers⟩ := List.mem_filter.1 member
      exact ⟨fun _ listed => by simp [listed] at answers, fun is => absurd is (by decide : 3 ≠ 4), (by decide : 3 ≠ 1), fun is => absurd is off,
        fun is => absurd is (by decide : 3 ≠ 2)⟩
    · split at sample
      · obtain ⟨b', member, rfl⟩ := List.mem_map.1 sample
        obtain ⟨core, reads⟩ := List.mem_filter.1 member
        obtain ⟨-, answers⟩ := List.mem_filter.1 core
        exact ⟨fun _ listed => by simp [listed] at answers, fun _ listed => by simp [listed] at reads, (by decide : 4 ≠ 1), fun is => absurd is off,
          fun is => absurd is (by decide : 4 ≠ 2)⟩
      · cases sample
  · rename_i off
    obtain rfl := List.mem_singleton.1 member
    exact ⟨fun is => absurd rfl is, fun is => absurd is (by decide : 5 ≠ 4), (by decide : 5 ≠ 1), fun _ => rfl,
      fun is => absurd is (by decide : 5 ≠ 2)⟩

theorem mem_crashParts {p : Nat × Nat × Nat} (member : p ∈ crashParts s c a b) : (p.2.1 ≠ 5 → p.1 ∉ a) ∧ (p.2.1 = 4 → p.1 ∉ b) ∧
    (p.2.1 = 2 → ∃ x, p.1 = 0x100 + x ∧ domainOn s x = true) := by
  unfold crashParts at member
  split at member
  · cases member
  · rcases List.mem_append.1 member with device | sector
    · obtain ⟨b', inside, rfl⟩ := List.mem_map.1 device
      obtain ⟨-, answers⟩ := List.mem_filter.1 inside
      exact ⟨fun _ listed => by simp [listed] at answers, fun is => absurd is (by decide : 1 ≠ 4), fun is => absurd is (by decide : 1 ≠ 2)⟩
    · obtain ⟨x, -, member⟩ := List.mem_flatMap.1 sector
      obtain ⟨silent, unread, -, -, controller⟩ := mem_sectorParts s c a b member
      exact ⟨silent, unread, fun is => ⟨x, controller is⟩⟩

/-- A sector that is not ON gives its domain state alone (R801). -/
theorem crashParts_off {x : Nat} (hx : x < 32) (full : c.headerOnly = false) (scope : c.sector = none ∨ c.sector = some x)
    (off : domainOn s x = false) : (0x100 + x, 5, 64) ∈ crashParts s c a b ∧ (0x100 + x, 2, 2048) ∉ crashParts s c a b := by
  constructor
  · unfold crashParts
    rw [full, if_neg (by decide)]
    refine List.mem_append_right _ (List.mem_flatMap.2 ⟨x, ?_, ?_⟩)
    · unfold crashSectors
      rcases scope with is | is
      · rw [is]
        exact List.mem_range.2 hx
      · rw [is]
        exact List.mem_singleton_self x
    · unfold sectorParts
      rw [off, if_neg (by decide)]
      exact List.mem_singleton_self _
  · intro member
    obtain ⟨-, -, controller⟩ := mem_crashParts s c a b member
    obtain ⟨y, is, on⟩ := controller rfl
    obtain rfl : x = y := Nat.add_left_cancel is
    rw [on] at off
    exact absurd off (by decide)

/-- What the record of a hang holds (R801, R802). -/
def Records (v : CrashRec) : Prop := v.seq = rd s E.crash_seq ∧ v.hang = c ∧ v.noAnswer.length ≤ 256 ∧
  (v.truncated = false → ∀ u, u ∈ v.noAnswer ↔ u ∈ a ∨ u ∈ b) ∧ (c.headerOnly = true → v.parts = []) ∧
  (∀ p ∈ v.parts, p.2.1 ≠ 5 → p.1 ∉ a) ∧ (∀ p ∈ v.parts, p.2.1 = 4 → p.1 ∉ b) ∧
  ∀ x < 32, c.headerOnly = false → (c.sector = none ∨ c.sector = some x) → domainOn s x = false →
    (0x100 + x, 5, 64) ∈ v.parts ∧ (0x100 + x, 2, 2048) ∉ v.parts

theorem records_crashRecOf : Records s c a b (crashRecOf s c a b) := by
  refine ⟨rfl, rfl, by simp [crashRecOf], fun whole u => ?_, fun header => ?_, fun p member => (mem_crashParts s c a b member).1,
    fun p member => (mem_crashParts s c a b member).2.1, fun x hx full scope off => crashParts_off s c a b hx full scope off⟩
  · have short : (a ++ b.filter fun b => !a.contains b).length ≤ 256 := Nat.not_lt.1 (of_decide_eq_false whole)
    show u ∈ (a ++ b.filter fun b => !a.contains b).take 256 ↔ _
    rw [List.take_of_length_le short, List.mem_append, List.mem_filter]
    constructor
    · exact Or.imp_right And.left
    · rintro (first | second)
      · exact .inl first
      · by_cases first : u ∈ a
        · exact .inl first
        · exact .inr ⟨second, by simpa using first⟩
  · show crashParts s c a b = []
    rw [crashParts, if_pos header]

/-- The machine whose record is written. -/
def crashWritten (s : State) (c : Crash) (a b : List Nat) : State :=
  let r := crashRecOf s c a b
  bootLog (wr { s with recovery := { s.recovery with crashHeld := some r.seq, crashRecs := r :: s.recovery.crashRecs.take 16 } } E.crash_state 2)
    7 c.kind 0 c.block []

theorem crashWritten_rest : (crashWritten s c a b).recovery = { s.recovery with
      crashHeld := some (rd s E.crash_seq), crashRecs := crashRecOf s c a b :: s.recovery.crashRecs.take 16, logSeq := s.recovery.logSeq + 1 } ∧
    (crashWritten s c a b).host = s.host ∧ (crashWritten s c a b).supply = s.supply ∧
    (crashWritten s c a b).dict = (wr s E.crash_state 2).dict := ⟨rfl, rfl, rfl, rfl⟩

/-- A hang of kind 0x11 resets its sector, and then the next record begins (R803, R806). -/
def crashSector (s : State) (c : Crash) (r : List Crash) (a b : List Nat) (x : Nat) : State :=
  copyCrash (sectorReset (withCrashes (crashWritten s c a b) r) x 0x11 (hungCore (crashWritten s c a b) c.block))

theorem crashDone_sector {r : List Crash} {x : Nat} (waits : s.recovery.crashes = c :: r) (sector : c.sector = some x) (kind : c.kind = 0x11) :
    crashDone s a b = if r.isEmpty then crashSector s c r a b x else beginCrash (crashSector s c r a b x) := by
  unfold crashDone
  rw [waits]
  dsimp only
  rw [sector]
  dsimp only
  rw [if_pos kind]
  rfl

theorem crashDone_device {r : List Crash} (waits : s.recovery.crashes = c :: r) (device : c.sector = none ∨ c.kind ≠ 0x11) :
    crashDone s a b = startReset (crashWritten s c a b) c.kind := by
  unfold crashDone
  rw [waits]
  dsimp only
  split
  · rename_i x is
    rw [if_neg (device.resolve_left (by rw [is]; exact Option.some_ne_none x))]
    rfl
  · rfl

end

/-- A copy of a record changes the crash unit's state and its copies. -/
theorem copyCrash_rest (u : State) : (copyCrash u).recovery.crashes = u.recovery.crashes ∧ (copyCrash u).recovery.crashRecs = u.recovery.crashRecs ∧
    (copyCrash u).recovery.sectorHangs = u.recovery.sectorHangs ∧ (copyCrash u).cores = u.cores ∧
    ∀ k, k ≠ E.crash_state → rd (copyCrash u) k = rd u k := by
  unfold copyCrash
  split
  · split
    · exact ⟨rfl, rfl, rfl, rfl, fun k other => rd_wr_other _ other 3⟩
    · exact ⟨rfl, rfl, rfl, rfl, fun _ _ => rfl⟩
  · exact ⟨rfl, rfl, rfl, rfl, fun _ _ => rfl⟩

theorem sectorReset_recovery_rest (r : Recovery) (x kind t : Nat) : (r.sectorReset x kind t).crashes = r.crashes ∧
    (r.sectorReset x kind t).crashRecs = r.crashRecs ∧
    (kind = 0x11 → (r.sectorReset x kind t).sectorHangs = Tab.set [] r.sectorHangs x (t :: Tab.get [] r.sectorHangs x)) := by
  have kept : ∃ k, r.keeperDropped x = { r with keeper := k } := by
    unfold Recovery.keeperDropped
    split
    · split
      · exact ⟨_, rfl⟩
      · exact ⟨_, rfl⟩
    · exact ⟨_, rfl⟩
  obtain ⟨k, is⟩ := kept
  unfold Recovery.sectorReset
  rw [is]
  exact ⟨rfl, rfl, fun counted => if_pos counted⟩

section
variable (s : State) (c : Crash) (a b : List Nat)

theorem crashSector_leads (r : List Crash) {x : Nat} (hx : x < 32) : (crashSector s c r a b x).recovery.crashes = r ∧
    crashRecOf s c a b ∈ (crashSector s c r a b x).recovery.crashRecs ∧ rd (crashSector s c r a b x) E.last_reset_kind = 0x11 ∧
    domainState (crashSector s c r a b x) x = 0 ∧ (∀ p < 25, core (crashSector s c r a b x) (25 * x + p) = Core.init) ∧
    Tab.get [] (crashSector s c r a b x).recovery.sectorHangs x = now s :: Tab.get [] s.recovery.sectorHangs x := by
  obtain ⟨recovery, -, -, dict⟩ := crashWritten_rest s c a b
  have clock : now (withCrashes (crashWritten s c a b) r) = now s := (rd_congr dict E.time_count).trans (rd_wr_other _ (by decide) 2)
  have recorded : (withCrashes (crashWritten s c a b) r).recovery.crashRecs = crashRecOf s c a b :: s.recovery.crashRecs.take 16 :=
    (show _ = (crashWritten s c a b).recovery.crashRecs from rfl).trans (by rw [recovery])
  have hangs : (withCrashes (crashWritten s c a b) r).recovery.sectorHangs = s.recovery.sectorHangs :=
    (show _ = (crashWritten s c a b).recovery.sectorHangs from rfl).trans (by rw [recovery])
  have waiting : (withCrashes (crashWritten s c a b) r).recovery.crashes = r := rfl
  unfold crashSector
  generalize hungCore (crashWritten s c a b) c.block = hung
  generalize withCrashes (crashWritten s c a b) r = u at *
  obtain ⟨domain, -, last, -, cores, -, -⟩ := sectorWasReset_sectorReset u hx 0x11 hung
  have record := recovery_sectorReset u hx 0x11 hung
  obtain ⟨crashes, recs, counted⟩ := sectorReset_recovery_rest u.recovery x 0x11 (now u)
  rw [← record] at crashes recs counted
  generalize sectorReset u x 0x11 hung = t at *
  obtain ⟨crashes', recs', hangs', cores', entries⟩ := copyCrash_rest t
  refine ⟨by rw [crashes', crashes, waiting], ?_, ?_, ?_, fun p hp => ?_, ?_⟩
  · rw [recs', recs, recorded]
    exact .head _
  · rw [entries _ (by decide), last]
  · have state : E.domain_state = 2110465 := rfl
    have crash : E.crash_state = 9441283 := rfl
    unfold domainState
    rw [entries _ (by omega)]
    exact domain
  · rw [core_congr cores', cores p hp]
  · rw [hangs', counted rfl, clock, hangs]
    exact Tab.get_set_same ..

theorem crashDone_sector_leads {r : List Crash} {x : Nat} (waits : s.recovery.crashes = c :: r) (sector : c.sector = some x) (hx : x < 32)
    (kind : c.kind = 0x11) : (crashDone s a b).recovery.crashes = r ∧ crashRecOf s c a b ∈ (crashDone s a b).recovery.crashRecs ∧
    rd (crashDone s a b) E.last_reset_kind = 0x11 ∧ domainState (crashDone s a b) x = 0 ∧ (∀ p < 25, core (crashDone s a b) (25 * x + p) = Core.init) ∧
    Tab.get [] (crashDone s a b).recovery.sectorHangs x = now s :: Tab.get [] s.recovery.sectorHangs x ∧
    (r ≠ [] → rd (crashDone s a b) E.crash_state = 1) := by
  obtain ⟨crashes, recs, last, domain, cores, hangs⟩ := crashSector_leads s c a b r hx
  rw [crashDone_sector s c a b waits sector kind]
  split
  · rename_i empty
    exact ⟨crashes, recs, last, domain, cores, hangs, fun more => absurd (List.isEmpty_iff.1 empty) more⟩
  · generalize crashSector s c r a b x = u at *
    obtain ⟨recovery, cores', state, -, entries⟩ := beginCrash_rest u
    have place : E.domain_state = 2110465 := rfl
    have crash : E.crash_state = 9441283 := rfl
    have seq : E.crash_seq = 9441284 := rfl
    have lost : E.crash_lost_count = 9441285 := rfl
    rw [recovery]
    refine ⟨crashes, recs, ?_, ?_, fun p hp => ?_, hangs, fun _ => state⟩
    · rw [entries _ (by decide) (by decide) (by decide), last]
    · unfold domainState
      rw [entries _ (by omega) (by omega) (by omega)]
      exact domain
    · rw [core_congr cores', cores p hp]

theorem crashDone_device_leads {r : List Crash} (waits : s.recovery.crashes = c :: r) (device : c.sector = none ∨ c.kind ≠ 0x11)
    (small : c.kind < 256) : WasReset s (crashDone s a b) c.kind ∧ crashRecOf s c a b ∈ (crashDone s a b).recovery.crashRecs ∧
    (crashDone s a b).recovery.crashes = [] ∧ (crashDone s a b).recovery.crashHeld = some (rd s E.crash_seq) := by
  obtain ⟨recovery, host, supply, dict⟩ := crashWritten_rest s c a b
  rw [crashDone_device s c a b waits device]
  refine ⟨(wasReset_startReset _ c.kind small).of_same (by rw [host]) ?_ (by rw [supply]), ?_⟩
  · exact (rd_congr dict _).trans (rd_wr_other _ (by decide) 2)
  · rw [(startReset_rest _ c.kind).1]
    have recs : (resetRecovery (crashWritten s c a b) c.kind).crashRecs = (crashWritten s c a b).recovery.crashRecs := rfl
    have held : (resetRecovery (crashWritten s c a b) c.kind).crashHeld = (crashWritten s c a b).recovery.crashHeld := rfl
    rw [recs, held, recovery]
    exact ⟨.head _, rfl, rfl⟩

end

/-! ## Reading the slots (R804, R820) -/

theorem writable_crashReadOffset : Writable E.crash_read_offset ⟨36880, 1, 7, 7, 3, 4, .rw, 1, false, 0⟩ :=
  ⟨by decide, by decide, by decide, by decide, by decide⟩

theorem crashRead_effect {s : State} {via : Path} {v : Nat} (serves : Serves s E.crash_read_offset) (small : v < 2 ^ 32)
    (good : v % 256 = 0 ∧ v < crashSlotBytes (rd s E.crash_read_slot)) : exec (.crashRead via (leBytes 4 v)) s =
      done s (ended (wr (wr s E.crash_read_offset v) E.crash_read_data (crashBytes s (rd s E.crash_read_slot) v)) E.crash_read_offset 0) := by
  rw [command_effect rfl serves writable_crashReadOffset (not_heldBack (by decide) rfl) (by dsimp only; omega) (by decide) (decide_eq_true good) rfl,
    told_device (by decide)]
  rfl

theorem crashRead_refused {s : State} {via : Path} {v : Nat} (serves : Serves s E.crash_read_offset) (small : v < 2 ^ 32)
    (bad : ¬(v % 256 = 0 ∧ v < crashSlotBytes (rd s E.crash_read_slot))) :
    exec (.crashRead via (leBytes 4 v)) s = .next (ended s E.crash_read_offset 4) :=
  command_refused rfl serves writable_crashReadOffset (not_heldBack (by decide) rfl) (by dsimp only; omega) (decide_eq_false bad)

/-- Settles O59: a hang's report, its record and the reset after it are each said once; of the resets the lemmas of the reset layer
(`sectorWasReset_sectorReset`, `wasReset_startReset`) tell. -/
theorem hangsCollect : Obligations.HangsCollect := by
  unfold Obligations.HangsCollect
  intro s
  have sector_ {x : Nat} (hx : x < 32) : exec (.hangDeclared (0x100 + x)) s = done s (hangDeclared s (0x100 + x)) := by
    refine if_pos ?_
    have block : (0x100 + x) / 256 = 1 := by omega
    have low : (0x100 + x) % 256 < 32 := by omega
    rw [Bool.or_eq_true, Bool.and_eq_true]
    exact .inr ⟨beq_iff_eq.2 block, decide_eq_true low⟩
  refine ⟨fun x hx => ⟨fun off => ?_, fun on => ?_⟩, declareHang_leads s 1 none false rfl, declareHang_leads s 2 none true rfl, fun b exists_ => ?_,
    fun none_ a b => ?_, fun c r a b waits => ⟨fun x sector hx kind => ?_, fun device small => ?_⟩, fun via v serves small => ⟨fun bad => ?_, fun even inside => ?_⟩⟩
  · rw [Stays, sector_ hx, hangDeclared, if_pos (by omega), show (0x100 + x) % 256 = x by omega, off, if_neg (by decide)]
    exact done_eq rfl
  · refine declareHang_leads s (0x100 + x) (some x) false ?_
    rw [sector_ hx, hangDeclared, if_pos (by omega), show (0x100 + x) % 256 = x by omega, on, if_pos rfl]
  · have stalls : exec (.stallDetected b) s = done s (stallDetected s b) := if_pos exists_
    refine ⟨fun x sector off => ?_, fun x sector on => ?_, fun device other => ?_, fun port_ => ⟨fun low => ?_, fun up => ?_⟩⟩
    · rw [Stays, stalls, stallDetected, sector]
      dsimp only
      rw [off, if_neg (by decide)]
      exact done_eq rfl
    · refine declareHang_leads s b (some x) false ?_
      rw [stalls, stallDetected, sector]
      dsimp only
      rw [on, if_pos rfl]
    · refine declareHang_leads s b none false ?_
      rw [stalls, stallDetected, device]
      dsimp only
      rw [if_neg other]
    all_goals
      have device : blockSector b = none := by
        unfold blockSector
        rw [if_neg (by omega), if_neg (by omega)]
      have number : b % 256 < 34 := by
        unfold blockExists at exists_
        rw [if_neg (by omega), if_neg (by omega), if_neg (by omega), if_neg (by omega), if_pos port_] at exists_
        exact of_decide_eq_true exists_
      have is : stallDetected s b = portStalled s (b % 256) := by
        unfold stallDetected
        rw [device]
        exact if_pos port_
      rw [is] at stalls
    · rw [Stays, stalls, portStalled, if_pos low]
      exact done_eq rfl
    · refine leads_of_effect stalls ?_ fun v q h => h
      rw [portStalled, if_neg (by omega)]
      exact (wentOut_portOut s number (by decide)).code
  · rw [Stays, show exec (.crashCollectionDone ⟨a, b⟩) s = done s (crashDone s a b) from rfl, crashDone, none_]
    exact done_eq rfl
  · obtain ⟨crashes, recs, last, domain, cores, hangs, next⟩ := crashDone_sector_leads s c a b waits sector hx kind
    exact leads_of_effect (u := crashDone s a b) rfl ⟨crashes, ⟨_, recs, records_crashRecOf s c a b⟩, last, domain, cores, hangs, next⟩ fun v q h => h
  · obtain ⟨was, recs, crashes, held⟩ := crashDone_device_leads s c a b waits device small
    exact leads_of_effect (u := crashDone s a b) rfl ⟨was, ⟨_, recs, records_crashRecOf s c a b⟩, crashes, held⟩ fun v q h => h
  · exact crashRead_refused serves small bad
  · refine leads_ended (crashRead_effect serves small ⟨even, inside⟩) ⟨?_, rfl, fun log => ?_⟩ fun v q a h => h
    · rw [rd_wr_other _ (by decide), rd_wr_same]
      exact Nat.mod_eq_of_lt small
    · rw [rd_wr_same, crashBytes, if_pos log, rdNat]
      refine Nat.mod_eq_of_lt ?_
      have bound := leNat_lt (rdBytes s (Mem.flash (0x3810000 + v)) 256)
      rw [rdBytes_length] at bound
      rw [show dictSize E.crash_read_data = 256 by decide, Nat.pow_mul]
      exact bound.trans_eq (congrArg (· ^ 256) (by decide : 256 = 2 ^ 8))

end Sys2Proof.Machine
end

section
/-! SUPPORT. Supplies that leave their ranges, and the main stage. -/

namespace Sys2Proof.Machine

open Sys2Proof

/-! ## Last saves that start, or join one (R719, R720) -/

section
variable (s : State)

theorem stageOff_rest : (stageOff s).pins = s.pins ∧ ∀ k, k ≠ E.main_current_ma → rd (stageOff s) k = rd s k := by
  refine ⟨(pins_of_still (still_mainCurrent _ 0)).trans rfl, fun k other => ?_⟩
  unfold stageOff mainCurrent
  dsimp only
  split
  · exact rd_wr_other _ other _
  · exact rd_wr_other _ other _

/-- What the module that disables the main stage keeps. -/
theorem mainOff_rest : (mainOff s).pins = s.pins ∧ (mainOff s).supply.hold = s.supply.hold ∧ (mainOff s).supply.mainOk = s.supply.mainOk ∧
    (mainOff s).supply.auxOk = s.supply.auxOk ∧ (mainOff s).supply.aonHeld = s.supply.aonHeld ∧
    ∀ k, Survives k = true → k ≠ E.main_current_ma → rd (mainOff s) k = rd s k := by
  unfold mainOff
  split
  · obtain ⟨pins, entries⟩ := stageOff_rest (mainLost s false)
    obtain ⟨-, -, -, pins'⟩ := of_residue (residue_mainLost s false)
    rw [stageOff_supply, mainLost_supply]
    exact ⟨pins.trans pins', rfl, rfl, rfl, rfl, fun k h other => (entries k other).trans (rd_mainLost h s false)⟩
  · exact ⟨rfl, rfl, rfl, rfl, rfl, fun _ _ _ => rfl⟩

/-- With the main stage off or without it, a save that starts takes the switched domains' power (R719). -/
def saveUnfed (u : State) : State := if u.supply.mainOn then mainOff u else abandonEntry u

theorem saveUnfed_rest : (saveUnfed s).pins = s.pins ∧ (saveUnfed s).supply.hold = s.supply.hold ∧ (saveUnfed s).supply.mainOk = s.supply.mainOk ∧
    (saveUnfed s).supply.auxOk = s.supply.auxOk ∧ (s.supply.mainOn = true → Unpowered (saveUnfed s)) ∧
    ∀ k, Survives k = true → k ≠ E.main_current_ma → rd (saveUnfed s) k = rd s k := by
  unfold saveUnfed
  split
  · rename_i on
    obtain ⟨pins, hold, mainOk, auxOk, -, entries⟩ := mainOff_rest s
    exact ⟨pins, hold, mainOk, auxOk, fun _ => ⟨mainOff_mainOn s, fun c hc => core_mainOff s on hc⟩, entries⟩
  · rename_i off
    have kept := still_abandonEntry s
    rw [supply_of_still kept]
    exact ⟨pins_of_still kept, rfl, rfl, rfl, fun on => absurd on off, fun k h _ => rd_abandonEntry_survives h s⟩

/-- The image that a save freezes (R717). -/
theorem lastSave_frozen (cause : Nat) (idle : s.save.running = false) : lastSave s cause = { saveUnfed (saveBegun s cause) with
    save := { (saveUnfed (saveBegun s cause)).save with
      running := true, frozen := critical { wr s E.last_save_cause cause with pins := { s.pins with sagOut := true } } cause }
    supply := { (saveUnfed (saveBegun s cause)).supply with hold := joinHold (saveUnfed (saveBegun s cause)).supply.hold cause, mrstDone := false } } :=
  if_neg (by rw [idle]; decide)

theorem rd_saveBegun {k : Nat} (cause : k ≠ E.last_save_cause) (state : k ≠ E.crash_state) (c : Nat) : rd (saveBegun s c) k = rd s k := by
  unfold saveBegun
  dsimp only
  split
  · exact rd_wr_other _ cause c
  · rw [rd_wr_other _ state]
    exact rd_wr_other _ cause c

/-- The cause of a last save is its own bit, beside those of the save that runs already (R720). -/
theorem causesNow_bit {b : Nat} (low : b < 8) : bit (causesNow s (2 ^ b) % 2 ^ 8) b = true := by
  have own : bit (2 ^ b) b = true := by rw [bit_eq_testBit, Nat.testBit_two_pow_self]
  unfold causesNow
  split
  · exact bit_or_mod _ low own
  · simpa using bit_or_mod 0 low own

/-- What a last save leaves of the supplies and of the alerts, whether it starts or joins one (R719, R720). -/
theorem lastSave_leads {b : Nat} (low : b < 8) : Saving (lastSave s (2 ^ b)) b ∧
    ((lastSave s (2 ^ b)).supply.mainOk = s.supply.mainOk ∧ (lastSave s (2 ^ b)).supply.auxOk = s.supply.auxOk ∧
      (lastSave s (2 ^ b)).supply.hold = joinHold s.supply.hold (causesNow s (2 ^ b)) ∧
      rd (lastSave s (2 ^ b)) E.alert_status = rd s E.alert_status) ∧
    (s.save.running = false → (lastSave s (2 ^ b)).save.frozen.cause = 2 ^ b ∧ (lastSave s (2 ^ b)).pins.sagOut = true ∧
      (s.supply.mainOn = true → Unpowered (lastSave s (2 ^ b)))) := by
  cases running : s.save.running with
  | true =>
    have joins : lastSave s (2 ^ b) = { wr s E.last_save_cause (rd s E.last_save_cause ||| 2 ^ b) with
        supply := { s.supply with hold := joinHold s.supply.hold (rd s E.last_save_cause ||| 2 ^ b), mrstDone := false } } := if_pos running
    have causes : causesNow s (2 ^ b) = rd s E.last_save_cause ||| 2 ^ b := if_pos running
    have own := causesNow_bit s low
    rw [joins, ← causes]
    refine ⟨⟨running, ?_⟩, ⟨rfl, rfl, rfl, rd_wr_other s (by decide) _⟩, fun none_ => absurd none_ (by decide)⟩
    exact (congrArg (bit · b) (rd_wr_same s E.last_save_cause (causesNow s (2 ^ b)))).trans own
  | false =>
    have own := causesNow_bit s low
    have causes : causesNow s (2 ^ b) = 2 ^ b := if_neg (by rw [running]; decide)
    have cause := rd_saveBegun_cause s (2 ^ b)
    have alert := rd_saveBegun s (k := E.alert_status) (by decide) (by decide) (2 ^ b)
    have pins := saveBegun_pins s (2 ^ b)
    have supply := saveBegun_supply s (2 ^ b)
    rw [causes] at own ⊢
    rw [lastSave_frozen s _ running]
    generalize saveBegun s (2 ^ b) = u at *
    obtain ⟨pins', hold, mainOk, auxOk, unpowered, entries⟩ := saveUnfed_rest u
    have cause' := entries E.last_save_cause (by decide) (by decide)
    have alert' := entries E.alert_status (by decide) (by decide)
    generalize saveUnfed u = v at *
    rw [supply] at hold mainOk auxOk unpowered
    refine ⟨⟨rfl, ?_⟩, ⟨mainOk, auxOk, congrArg (joinHold · (2 ^ b)) hold, alert'.trans alert⟩, fun _ => ⟨rfl, ?_, unpowered⟩⟩
    · exact (congrArg (bit · b) (cause'.trans cause)).trans own
    · show v.pins.sagOut = true
      rw [pins', pins]

end


/-! ## Supplies that leave their ranges (R44, R48, R49, R54 to R56, R868 to R870) -/

section
variable (s : State)

/-- An alert changes no supply, save or core. -/
theorem setAlert_rest (b : Nat) : (setAlert s b).supply = s.supply ∧ (setAlert s b).save = s.save ∧ (setAlert s b).cores = s.cores ∧
    (setAlert s b).mem = s.mem ∧ (setAlert s b).pins = s.pins :=
  ⟨supply_of_still (still_setAlert s b), save_of_still (still_setAlert s b), cores_of_still (still_setAlert s b), mem_of_still (still_setAlert s b),
    pins_of_still (still_setAlert s b)⟩

theorem mainOff_unpowered (on : s.supply.mainOn = true) : Unpowered (mainOff s) := ⟨mainOff_mainOn s, fun _ hc => core_mainOff s on hc⟩

/-- The hold of an overvoltage of main, where none stands (R49). -/
def overvoltageHeld (u : State) : State :=
  if u.supply.hold = .none then { u with supply := { u.supply with mainOk := false, hold := .overvoltage, mrstDone := false } }
  else { u with supply := { u.supply with mainOk := false } }

theorem mainOvervoltage_eq {mv : Nat} (high : 58000 < mv) : mainOvervoltage s mv = setAlert (overvoltageHeld (mainOff s)) 1 := if_pos high

theorem overvoltageHeld_rest (u : State) : (overvoltageHeld u).supply.mainOk = false ∧ (overvoltageHeld u).supply.mainOn = u.supply.mainOn ∧
    (overvoltageHeld u).supply.hold = (if u.supply.hold = .none then .overvoltage else u.supply.hold) ∧ (overvoltageHeld u).save = u.save ∧
    (overvoltageHeld u).cores = u.cores := by
  unfold overvoltageHeld
  split
  · exact ⟨rfl, rfl, rfl, rfl, rfl⟩
  · exact ⟨rfl, rfl, rfl, rfl, rfl⟩

theorem mainOvervoltage_leads {mv : Nat} (high : 58000 < mv) : (mainOvervoltage s mv).supply.mainOk = false ∧
    bit (rd (mainOvervoltage s mv) E.alert_status) 0 = true ∧ (mainOvervoltage s mv).save = s.save ∧
    (s.supply.mainOn = true → Unpowered (mainOvervoltage s mv)) ∧
    (mainOvervoltage s mv).supply.hold = if s.supply.hold = .none then .overvoltage else s.supply.hold := by
  obtain ⟨-, hold, -, -, -, -⟩ := mainOff_rest s
  obtain ⟨mainOk, mainOn, held, save, cores⟩ := overvoltageHeld_rest (mainOff s)
  obtain ⟨supply, save', cores', -, -⟩ := setAlert_rest (overvoltageHeld (mainOff s)) 1
  rw [mainOvervoltage_eq s high]
  refine ⟨by rw [supply, mainOk], bit_setAlert _ (by decide) (by decide), by rw [save', save, mainOff_save], fun on => ⟨?_, fun c hc => ?_⟩, ?_⟩
  · rw [supply, mainOn]
    exact mainOff_mainOn s
  · rw [core_congr cores', core_congr cores, core_mainOff s on hc]
  · rw [supply, held, hold]

/-- An overvoltage of AUX ends in a power-on reset, whatever held before (R870). -/
theorem joinHold_aux (h : Hold) {c : Nat} (own : bit c 5 = true) : joinHold h c = .auxOvervoltage := by
  unfold joinHold holdAfter
  rw [own, if_neg (by simp), if_pos rfl]

/-- The machine whose AUX supply has left its range, with its alert. -/
def auxAlerted (u : State) : State := setAlert { u with supply := { u.supply with auxOk := false } } 1

/-- The machine whose main supply has left its range, with its alert. -/
def mainAlerted (u : State) : State := setAlert { u with supply := { u.supply with mainOk := false } } 1

theorem auxAlerted_rest (u : State) : (auxAlerted u).supply = { u.supply with auxOk := false } ∧ (auxAlerted u).save = u.save ∧
    (auxAlerted u).cores = u.cores ∧ bit (rd (auxAlerted u) E.alert_status) 0 = true := by
  obtain ⟨supply, save, cores, -, -⟩ := setAlert_rest { u with supply := { u.supply with auxOk := false } } 1
  exact ⟨supply, save, cores, bit_setAlert _ (by decide) (by decide)⟩

theorem mainAlerted_rest (u : State) : (mainAlerted u).supply = { u.supply with mainOk := false } ∧ (mainAlerted u).save = u.save ∧
    bit (rd (mainAlerted u) E.alert_status) 0 = true := by
  obtain ⟨supply, save, -, -, -⟩ := setAlert_rest { u with supply := { u.supply with mainOk := false } } 1
  exact ⟨supply, save, bit_setAlert _ (by decide) (by decide)⟩

/-- From s, a save runs in t for the cause of bit b (R719, R720). -/
def Saves (s t : State) (b : Nat) : Prop := Saving t b ∧ (s.save.running = false → t.save.frozen.cause = 2 ^ b ∧ t.pins.sagOut = true ∧
  (s.supply.mainOn = true → Unpowered t))

theorem auxOvervoltage_leads {mv : Nat} (high : 13500 < mv) (awake : s.supply.aonHeld = false) : Saves s (auxOvervoltage s mv) 5 ∧
    (auxOvervoltage s mv).supply.auxOk = false ∧ (auxOvervoltage s mv).supply.hold = .auxOvervoltage ∧
    bit (rd (auxOvervoltage s mv) E.alert_status) 0 = true := by
  have is : auxOvervoltage s mv = lastSave (auxAlerted (mainOff s)) (2 ^ 5) := if_pos ⟨high, by rw [awake]; rfl⟩
  obtain ⟨supply, save, cores, alert⟩ := auxAlerted_rest (mainOff s)
  have off : (auxAlerted (mainOff s)).supply.mainOn = false := by
    rw [supply]
    exact mainOff_mainOn s
  have auxOk : (auxAlerted (mainOff s)).supply.auxOk = false := by rw [supply]
  have before : (auxAlerted (mainOff s)).save = s.save := save.trans (mainOff_save s)
  have lost (on : s.supply.mainOn = true) (c : Nat) (hc : c < 800) : core (auxAlerted (mainOff s)) c = Core.init := by
    rw [core_congr cores, core_mainOff s on hc]
  rw [is]
  generalize auxAlerted (mainOff s) = u at *
  obtain ⟨saving, ⟨-, auxOk', hold, alert'⟩, starts⟩ := lastSave_leads u (b := 5) (by decide)
  have joined : bit (causesNow u (2 ^ 5)) 5 = true := by
    unfold causesNow
    split
    · rw [bit_eq_testBit, Nat.testBit_or, Nat.testBit_two_pow_self, Bool.or_true]
    · decide
  refine ⟨⟨saving, fun idle => ?_⟩, auxOk'.trans auxOk, ?_, ?_⟩
  · obtain ⟨cause, sag, -⟩ := starts (by rw [before, idle])
    refine ⟨cause, sag, fun on => ⟨?_, fun c hc => ?_⟩⟩
    · rw [lastSave_supply u _ off]
      exact off
    · rw [core_congr (lastSave_cores u _ off), lost on c hc]
  · rw [hold, joinHold_aux _ joined]
  · rw [alert', alert]

theorem mainSag_leads {mv : Nat} (low : mv < 39500) (deep : s.power.deep ≠ 4) (awake : s.supply.aonHeld = false) :
    Saves s (mainSag s mv) 0 ∧ (mainSag s mv).supply.mainOk = false := by
  have sags : mainSags mv = true := by rw [mainSags, decide_eq_true low, Bool.true_or]
  have is : mainSag s mv = lastSave (mainAlerted s) (2 ^ 0) := if_pos ⟨sags, deep, by rw [awake]; rfl⟩
  obtain ⟨supply, save, -⟩ := mainAlerted_rest s
  rw [is]
  generalize mainAlerted s = u at *
  obtain ⟨saving, ⟨mainOk, -, -, -⟩, starts⟩ := lastSave_leads u (b := 0) (by decide)
  refine ⟨⟨saving, fun idle => ?_⟩, by rw [mainOk, supply]⟩
  obtain ⟨cause, sag, unpowered⟩ := starts (by rw [save, idle])
  exact ⟨cause, sag, fun on => unpowered (by rw [supply]; exact on)⟩

theorem auxSag_leads {mv : Nat} (low : mv < 10600) (awake : s.supply.aonHeld = false) :
    Saves s (auxSag s mv) 1 ∧ (auxSag s mv).supply.auxOk = false := by
  have sags : auxSags mv = true := by rw [auxSags, decide_eq_true low, Bool.true_or]
  have is : auxSag s mv = lastSave (auxAlerted s) (2 ^ 1) := if_pos ⟨sags, by rw [awake]; rfl⟩
  obtain ⟨supply, save, -, -⟩ := auxAlerted_rest s
  rw [is]
  generalize auxAlerted s = u at *
  obtain ⟨saving, ⟨-, auxOk, -, -⟩, starts⟩ := lastSave_leads u (b := 1) (by decide)
  refine ⟨⟨saving, fun idle => ?_⟩, by rw [auxOk, supply]⟩
  obtain ⟨cause, sag, unpowered⟩ := starts (by rw [save, idle])
  exact ⟨cause, sag, fun on => unpowered (by rw [supply]; exact on)⟩

theorem sagInput_leads (enabled : rd s E.sag_input_enable = 1) (deep : s.power.deep ≠ 4) (awake : s.supply.aonHeld = false) :
    Saves s (sagInput s) 2 := by
  have is : sagInput s = lastSave s (2 ^ 2) := if_pos ⟨enabled, deep, by rw [awake]; rfl⟩
  rw [is]
  obtain ⟨saving, -, starts⟩ := lastSave_leads s (b := 2) (by decide)
  exact ⟨saving, starts⟩

/-- Above its recovery no sag is taken, and none with the detector disarmed or the always-on domain held (R44, R54, R55). -/
theorem mainSag_none {mv : Nat} (none_ : 39900 ≤ mv ∨ s.power.deep = 4 ∨ s.supply.aonHeld = true) : mainSag s mv = s := by
  refine if_neg ?_
  rintro ⟨sags, deep, awake⟩
  rcases none_ with high | deep' | held
  · simp only [mainSags, Bool.or_eq_true, Bool.and_eq_true, decide_eq_true_eq] at sags
    omega
  · exact deep deep'
  · rw [held] at awake
    exact absurd awake (by decide)

theorem auxSag_none {mv : Nat} (none_ : 10800 ≤ mv ∨ s.supply.aonHeld = true) : auxSag s mv = s := by
  refine if_neg ?_
  rintro ⟨sags, awake⟩
  rcases none_ with high | held
  · simp only [auxSags, Bool.or_eq_true, Bool.and_eq_true, decide_eq_true_eq] at sags
    omega
  · rw [held] at awake
    exact absurd awake (by decide)

theorem sagInput_none (none_ : rd s E.sag_input_enable ≠ 1 ∨ s.power.deep = 4 ∨ s.supply.aonHeld = true) : sagInput s = s := by
  refine if_neg ?_
  rintro ⟨enabled, deep, awake⟩
  rcases none_ with off | deep' | held
  · exact off enabled
  · exact deep deep'
  · rw [held] at awake
    exact absurd awake (by decide)

theorem auxOvervoltage_none {mv : Nat} (none_ : mv ≤ 13500 ∨ s.supply.aonHeld = true) : auxOvervoltage s mv = s := by
  refine if_neg ?_
  rintro ⟨high, awake⟩
  rcases none_ with low | held
  · omega
  · rw [held] at awake
    exact absurd awake (by decide)

/-- AUX below 9.0 V (R61, R63, R869). -/
theorem auxBelowFloor_leads {mv : Nat} (low : mv < 9000) : (auxBelowFloor s mv).supply.aonHeld = true ∧ (auxBelowFloor s mv).supply.mainOn = false ∧
    (auxBelowFloor s mv).save.running = false ∧ (auxBelowFloor s mv).save.torn = (s.save.torn || s.save.running) ∧
    (auxBelowFloor s mv).save.lost = true ∧ (auxBelowFloor s mv).pins.sagOut = false ∧ (auxBelowFloor s mv).pins.thermTrip = false := by
  have off := mainOff_mainOn s
  have save := mainOff_save s
  have is : auxBelowFloor s mv = { mainOff s with
      save := { (mainOff s).save with running := false, torn := (mainOff s).save.torn || (mainOff s).save.running, lost := true }
      pins := { (mainOff s).pins with sagOut := false, thermTrip := false }
      supply := { (mainOff s).supply with aonHeld := true, auxOk := false, mrstWaits := false } } := if_pos low
  rw [is]
  generalize mainOff s = u at *
  refine ⟨rfl, off, rfl, ?_, rfl, rfl, rfl⟩
  show (u.save.torn || u.save.running) = _
  rw [save]

/-! ## The end of a last save (R718, R719, R725) -/

/-- The image whose header is written. -/
def savedImage : SaveImage := { s.save.frozen with cause := rd s E.last_save_cause }

/-- The slots after it. -/
def saveSlots : Save :=
  let toB := match s.save.slotA, s.save.slotB with
    | some a, some b => decide (b.seq < a.seq)
    | some _, none => true
    | none, _ => false
  if toB then { s.save with slotB := some (savedImage s) } else { s.save with slotA := some (savedImage s) }

theorem saveEnd_eq (us mv : Nat) : saveEnd s us mv = setAlert (inc (wr (wr (wr (wr { s with save := { saveSlots s with running := false, restore := true } }
    E.ls_sequence (savedImage s).seq) E.ls_duration_us us) E.ls_bytes (saveBytes (savedImage s))) E.ls_aux_mv_end mv) E.last_save_count) 16 := rfl

theorem saveEnd_rest (us mv : Nat) : (saveEnd s us mv).save = { saveSlots s with running := false, restore := true } ∧
    (saveEnd s us mv).supply = s.supply := by
  obtain ⟨supply, save, -, -, -⟩ := setAlert_rest (inc (wr (wr (wr (wr { s with save := { saveSlots s with running := false, restore := true } }
    E.ls_sequence (savedImage s).seq) E.ls_duration_us us) E.ls_bytes (saveBytes (savedImage s))) E.ls_aux_mv_end mv) E.last_save_count) 16
  rw [saveEnd_eq, supply, save]
  exact ⟨rfl, rfl⟩

theorem saveEnd_entries (us mv : Nat) : rd (saveEnd s us mv) E.ls_sequence = cut E.ls_sequence (savedImage s).seq ∧
    rd (saveEnd s us mv) E.ls_duration_us = cut E.ls_duration_us us ∧ rd (saveEnd s us mv) E.ls_aux_mv_end = cut E.ls_aux_mv_end mv ∧
    rd (saveEnd s us mv) E.last_save_count = cut E.last_save_count (rd s E.last_save_count + 1) := by
  rw [saveEnd_eq]
  refine ⟨?_, ?_, ?_, ?_⟩
  · rw [rd_setAlert_other _ (by decide), rd_inc_other _ (by decide), rd_wr_other _ (by decide), rd_wr_other _ (by decide), rd_wr_other _ (by decide),
      rd_wr_same]
    rfl
  · rw [rd_setAlert_other _ (by decide), rd_inc_other _ (by decide), rd_wr_other _ (by decide), rd_wr_other _ (by decide), rd_wr_same]
    rfl
  · rw [rd_setAlert_other _ (by decide), rd_inc_other _ (by decide), rd_wr_same]
    rfl
  · rw [rd_setAlert_other _ (by decide), rd_inc_same, rd_wr_other _ (by decide), rd_wr_other _ (by decide), rd_wr_other _ (by decide),
      rd_wr_other _ (by decide)]
    rfl

/-- The slot that does not hold the newest save takes the image (R718). -/
theorem saveSlots_cases : (∀ a b, s.save.slotA = some a → s.save.slotB = some b →
      if b.seq < a.seq then (saveSlots s).slotA = some a ∧ (saveSlots s).slotB = some (savedImage s)
      else (saveSlots s).slotA = some (savedImage s) ∧ (saveSlots s).slotB = some b) ∧
    (∀ a, s.save.slotA = some a → s.save.slotB = none → (saveSlots s).slotA = some a ∧ (saveSlots s).slotB = some (savedImage s)) ∧
    (s.save.slotA = none → (saveSlots s).slotA = some (savedImage s) ∧ (saveSlots s).slotB = s.save.slotB) := by
  unfold saveSlots
  refine ⟨fun a b first second => ?_, fun a first second => ?_, fun first => ?_⟩
  · rw [first, second]
    by_cases older : b.seq < a.seq
    · rw [if_pos older, if_pos (decide_eq_true older)]
      exact ⟨first, rfl⟩
    · rw [if_neg older, if_neg (by simpa using older)]
      exact ⟨rfl, second⟩
  · rw [first, second]
    exact ⟨first, rfl⟩
  · rw [first]
    exact ⟨rfl, rfl⟩

/-- Where no `MRST_N` waits, the end of a save is the write of its header, and a hold of AUX holds the always-on domain (R870). -/
theorem lastSaveEnd_eq (us mv : Nat) (running : s.save.running = true) (no : s.supply.mrstWaits = false) : ∃ v : Supply,
    lastSaveEnd s us mv = { saveEnd s us mv with supply := v } ∧ v.aonHeld = (s.supply.aonHeld || s.supply.hold == .auxOvervoltage) := by
  obtain ⟨-, supply⟩ := saveEnd_rest s us mv
  have some_ : ¬(!s.save.running) = true := by rw [running]; decide
  unfold lastSaveEnd
  rw [if_neg some_]
  dsimp only
  rw [supply]
  split
  · rename_i aux
    refine ⟨_, rfl, ?_⟩
    rw [aux]
    exact (Bool.or_true _).symm
  · rename_i other
    rw [no, if_neg (by decide)]
    refine ⟨s.supply, by rw [← supply], ?_⟩
    rw [beq_eq_false_iff_ne.2 other, Bool.or_false]

end

/-! ## The main stage (R51, R871, R874) -/

section
variable (s : State) (main aux : Nat)

/-- The machine that has noted whether its inputs lie in their ranges. -/
def inputsNoted : State := { s with supply := { s.supply with mainOk := mainInRange main, auxOk := auxInRange aux } }

theorem recovery_of_still {s t : State} (h : still t = still s) : t.recovery = s.recovery :=
  show (still t).recovery = (still s).recovery from congrArg State.recovery h

theorem noteInputs_rest : (noteInputs s main aux).supply = { s.supply with mainOk := mainInRange main, auxOk := auxInRange aux } ∧
    (noteInputs s main aux).save = s.save ∧ (noteInputs s main aux).cores = s.cores ∧ (noteInputs s main aux).mem = s.mem ∧
    (noteInputs s main aux).pins = s.pins ∧ (noteInputs s main aux).power = s.power ∧ (noteInputs s main aux).recovery = s.recovery ∧
    ∀ k, k ≠ E.alert_status → rd (noteInputs s main aux) k = rd s k := by
  obtain ⟨supply, save, cores, mem, pins⟩ := setAlert_rest (inputsNoted s main aux) (alertHolds (inputsNoted s main aux))
  have recovery := recovery_of_still (still_setAlert (inputsNoted s main aux) (alertHolds (inputsNoted s main aux)))
  exact ⟨supply, save, cores, mem, pins, power_setAlert .., recovery, fun k other => rd_setAlert_other _ other _⟩

/-- A hold in whose place an external reset has been ends by its own condition (R871). -/
def holdEnded (u : State) : State := if u.supply.mrstDone && holdMet u main aux then endHold u else u

theorem mainStageEnable_eq : mainStageEnable s main aux =
    let u := holdEnded main aux (noteInputs s main aux)
    if mayEnable u main aux && !u.supply.mainOn then enableMain u else u := rfl

theorem holdEnded_rest (u : State) : (holdEnded main aux u).power = u.power ∧ (holdEnded main aux u).cores = u.cores ∧
    (holdEnded main aux u).mem = u.mem ∧ (holdEnded main aux u).recovery = u.recovery ∧ (holdEnded main aux u).supply.mainOn = u.supply.mainOn ∧
    (holdEnded main aux u).dict = u.dict := by
  unfold holdEnded
  split
  · exact ⟨rfl, rfl, rfl, rfl, rfl, rfl⟩
  · exact ⟨rfl, rfl, rfl, rfl, rfl, rfl⟩

/-- The present hold's own condition is met in its recovery's place. -/
def HoldOver (s : State) : Prop := s.supply.mrstDone = true ∧ ((s.supply.hold = .overvoltage ∧ 40000 ≤ main ∧ main ≤ 56000) ∨
  (s.supply.hold = .sag ∧ 42000 < main ∧ 11200 < aux))

/-- The conditions of R51, with no hold standing. -/
def MayFeed (s : State) : Prop := 40000 ≤ main ∧ main ≤ 56000 ∧ 11400 ≤ aux ∧ aux ≤ 12600 ∧ s.supply.romOk = true ∧ s.pins.mrstHigh = true ∧
  s.pins.coolOk = true ∧ (s.supply.hold = .none ∨ HoldOver main aux s) ∧ s.supply.hot = false ∧ s.power.deep ≠ 4 ∧
  s.supply.aonHeld = false ∧ s.save.running = false

theorem holdMet_iff : (s.supply.mrstDone && holdMet s main aux) = true ↔
    HoldOver main aux s ∧ s.save.running = false ∧ s.supply.aonHeld = false := by
  unfold holdMet HoldOver mainInRange mainRecovered auxRecovered
  cases hold : s.supply.hold <;> simp <;> tauto

theorem mayEnable_iff : mayEnable s main aux = true ↔ 40000 ≤ main ∧ main ≤ 56000 ∧ 11400 ≤ aux ∧ aux ≤ 12600 ∧ s.supply.romOk = true ∧
    s.pins.mrstHigh = true ∧ s.pins.coolOk = true ∧ s.supply.hold = .none ∧ s.supply.hot = false ∧ s.power.deep ≠ 4 ∧
    s.supply.aonHeld = false ∧ s.save.running = false := by
  unfold mayEnable mainInRange auxInRange
  simp only [Bool.and_eq_true, decide_eq_true_eq, beq_iff_eq, Bool.not_eq_true', bne_iff_ne]
  tauto

/-- A hold that its own condition ends is none. -/
theorem hold_holdEnded (live : s.save.running = false ∧ s.supply.aonHeld = false) :
    (holdEnded main aux s).supply.hold = .none ↔ s.supply.hold = .none ∨ HoldOver main aux s := by
  unfold holdEnded
  split
  · rename_i met
    exact iff_of_true rfl (.inr ((holdMet_iff s main aux).1 met).1)
  · rename_i not
    exact ⟨.inl, fun h => h.resolve_right fun ended => not ((holdMet_iff s main aux).2 ⟨ended, live⟩)⟩

theorem mayEnable_holdEnded : mayEnable (holdEnded main aux s) main aux = true ↔ MayFeed main aux s := by
  have same : (holdEnded main aux s).supply.romOk = s.supply.romOk ∧ (holdEnded main aux s).pins = s.pins ∧
      (holdEnded main aux s).supply.hot = s.supply.hot ∧ (holdEnded main aux s).power = s.power ∧
      (holdEnded main aux s).supply.aonHeld = s.supply.aonHeld ∧ (holdEnded main aux s).save = s.save := by
    unfold holdEnded
    split
    · exact ⟨rfl, rfl, rfl, rfl, rfl, rfl⟩
    · exact ⟨rfl, rfl, rfl, rfl, rfl, rfl⟩
  obtain ⟨rom, pins, hot, power, held, save⟩ := same
  rw [mayEnable_iff, rom, pins, hot, power, held, save]
  unfold MayFeed
  constructor
  · rintro ⟨a, b, c, d, e, f, g, none_, h, i, live, idle⟩
    exact ⟨a, b, c, d, e, f, g, (hold_holdEnded s main aux ⟨idle, live⟩).1 none_, h, i, live, idle⟩
  · rintro ⟨a, b, c, d, e, f, g, ended, h, i, live, idle⟩
    exact ⟨a, b, c, d, e, f, g, (hold_holdEnded s main aux ⟨idle, live⟩).2 ended, h, i, live, idle⟩

theorem mayFeed_noteInputs : MayFeed main aux (noteInputs s main aux) ↔ MayFeed main aux s := by
  obtain ⟨supply, save, -, -, pins, power, -, -⟩ := noteInputs_rest s main aux
  unfold MayFeed HoldOver
  rw [supply, save, pins, power]

end

/-- With the main stage on, a domain that waits for it starts to wake, unless it is ON (R710, R874). -/
theorem wakeOne_fed {u : State} (on : u.supply.mainOn = true) (d : Nat) : (wakeOne u d).supply.mainOn = true ∧
    (wakeOne u d).power.waitMain = u.power.waitMain ∧ (∀ e, e ≠ d → domainState (wakeOne u d) e = domainState u e) ∧
    (d < 40 → domainState (wakeOne u d) d = if domainState u d ≠ 0 then 6 else domainState u d) := by
  have size : ∀ d < 40, dictSize (E.domain_state + d) = 1 := by decide +kernel
  unfold wakeOne
  rw [if_neg (by rw [on]; decide)]
  split
  · rename_i awake
    refine ⟨on, rfl, fun _ _ => rfl, fun _ => ?_⟩
    rcases awake with zero | waking
    · rw [if_neg (not_not.2 zero)]
    · rw [if_pos (by rw [waking]; decide), waking]
  · rename_i asleep
    refine ⟨on, rfl, fun e other => ?_, fun hd => ?_⟩
    · exact rd_wr_other _ (by omega) 6
    · rw [if_pos fun zero => asleep (.inl zero)]
      refine (rd_wr_same _ (E.domain_state + d) 6).trans ?_
      rw [size d hd]
      rfl

theorem wakeOnes_fed {u : State} (on : u.supply.mainOn = true) (w : Nat) {n : Nat} (hn : n ≤ 40) :
    let t := (List.range n).foldl (fun t d => if bit w d then wakeOne t d else t) u
    t.supply.mainOn = true ∧ t.power.waitMain = u.power.waitMain ∧
      ∀ d, domainState t d = if d < n ∧ bit w d = true ∧ domainState u d ≠ 0 then 6 else domainState u d := by
  induction n with
  | zero => exact ⟨on, rfl, fun d => (if_neg fun h => absurd h.1 (Nat.not_lt_zero d)).symm⟩
  | succ n ih =>
    obtain ⟨on', wait, domains⟩ := ih (by omega)
    simp only [List.range_succ, List.foldl_append, List.foldl_cons, List.foldl_nil]
    generalize (List.range n).foldl (fun t d => if bit w d then wakeOne t d else t) u = v at *
    have before : domainState v n = domainState u n := (domains n).trans (if_neg fun h => absurd h.1 (Nat.lt_irrefl n))
    split
    · rename_i named
      obtain ⟨on'', wait', others, own⟩ := wakeOne_fed on' n
      refine ⟨on'', wait'.trans wait, fun d => ?_⟩
      by_cases is : d = n
      · rw [is, own (by omega), before]
        simp [named]
      · rw [others d is, domains d]
        have same : d < n + 1 ↔ d < n := by omega
        simp only [same]
    · rename_i unnamed
      refine ⟨on', wait, fun d => ?_⟩
      by_cases is : d = n
      · rw [is, before, if_neg fun h => unnamed h.2.1]
      · rw [domains d]
        have same : d < n + 1 ↔ d < n := by omega
        simp only [same]

/-- The main stage comes on, and the domains that wait for it wake (R51, R874). -/
theorem enableMain_leads {u : State} (none_ : u.recovery.deferred = none) : (enableMain u).supply.mainOn = true ∧ (enableMain u).power.waitMain = 0 ∧
    ∀ d < 40, domainState (enableMain u) d = if bit u.power.waitMain.toNat d = true ∧ domainState u d ≠ 0 then 6 else domainState u d := by
  have is : enableMain u = (List.range 40).foldl (fun t d => if bit u.power.waitMain.toNat d then wakeOne t d else t)
      { u with supply := { u.supply with mainOn := true }, power := { u.power with waitMain := 0 } } := by
    unfold enableMain runDeferred
    dsimp only
    rw [none_]
  obtain ⟨on, wait, domains⟩ := wakeOnes_fed (u := { u with supply := { u.supply with mainOn := true }, power := { u.power with waitMain := 0 } }) rfl
    u.power.waitMain.toNat (n := 40) (Nat.le_refl _)
  rw [is]
  refine ⟨on, wait, fun d hd => (domains d).trans ?_⟩
  have same (e : Nat) : domainState { u with supply := { u.supply with mainOn := true }, power := { u.power with waitMain := 0 } } e = domainState u e := rfl
  rw [same]
  simp only [hd, true_and]

/-- Settles O23: what a last save leaves is said once, for a save that starts and for a cause that joins one (`lastSave_leads`); the main
stage comes on where R51's conditions hold and no hold stands, which `mayEnable_holdEnded` says of the model's tests. -/
theorem suppliesChange : Obligations.SuppliesChange := by
  unfold Obligations.SuppliesChange
  have stays {s u : State} {n : Instr} (runs : exec n s = done s u) (same : u = s) : Stays n s := by
    rw [Stays, runs, same]
    exact done_eq rfl
  refine ⟨fun s => ?_, fun s main aux => ⟨fun may off deferred => ?_, fun not => ?_⟩⟩
  · refine ⟨fun mv high => ?_, fun mv low => ?_, fun mv high awake => ?_, fun mv none_ => ?_, fun mv low deep awake => ?_, fun mv none_ => ?_,
      fun mv low awake => ?_, fun mv none_ => ?_, fun enabled deep awake => ?_, fun none_ => ?_, fun mv low => ?_, fun us mv running no => ?_⟩
    · exact leads_of_effect (u := mainOvervoltage s mv) rfl (mainOvervoltage_leads s high) fun v q h => h
    · exact stays (u := mainOvervoltage s mv) rfl (if_neg (by omega))
    · obtain ⟨⟨saving, starts⟩, rest⟩ := auxOvervoltage_leads s high awake
      exact leads_of_effect (u := auxOvervoltage s mv) rfl ⟨saving, rest, starts⟩ fun v q h => h
    · exact stays (u := auxOvervoltage s mv) rfl (auxOvervoltage_none s none_)
    · obtain ⟨⟨saving, starts⟩, rest⟩ := mainSag_leads s low deep awake
      exact leads_of_effect (u := mainSag s mv) rfl ⟨saving, rest, starts⟩ fun v q h => h
    · exact stays (u := mainSag s mv) rfl (mainSag_none s none_)
    · obtain ⟨⟨saving, starts⟩, rest⟩ := auxSag_leads s low awake
      exact leads_of_effect (u := auxSag s mv) rfl ⟨saving, rest, starts⟩ fun v q h => h
    · exact stays (u := auxSag s mv) rfl (auxSag_none s none_)
    · obtain ⟨saving, starts⟩ := sagInput_leads s enabled deep awake
      exact leads_of_effect (u := sagInput s) rfl ⟨saving, trivial, starts⟩ fun v q h => h
    · exact stays (u := sagInput s) rfl (sagInput_none s none_)
    · exact leads_of_effect (u := auxBelowFloor s mv) rfl (auxBelowFloor_leads s low) fun v q h => h
    · obtain ⟨v, is, held⟩ := lastSaveEnd_eq s us mv running no
      obtain ⟨save, -⟩ := saveEnd_rest s us mv
      obtain ⟨seq, duration, auxMv, count⟩ := saveEnd_entries s us mv
      obtain ⟨both, first, neither⟩ := saveSlots_cases s
      refine leads_of_effect (u := lastSaveEnd s us mv) rfl ?_ fun v q h => h
      rw [is]
      generalize saveEnd s us mv = u at *
      dsimp only
      rw [save]
      exact ⟨rfl, rfl, both, first, neither, seq, duration, auxMv, count, held⟩
  all_goals
    obtain ⟨supply, -, cores, mem, -, power, recovery, entries⟩ := noteInputs_rest s main aux
    obtain ⟨power', cores', mem', recovery', mainOn', dict'⟩ := holdEnded_rest main aux (noteInputs s main aux)
    have on : (noteInputs s main aux).supply.mainOn = s.supply.mainOn := by rw [supply]
    have feeds := (mayEnable_holdEnded (noteInputs s main aux) main aux).trans (mayFeed_noteInputs s main aux)
    have shape := mainStageEnable_eq s main aux
    have domains (d : Nat) (hd : d < 40) : domainState (holdEnded main aux (noteInputs s main aux)) d = domainState s d := by
      have place : E.domain_state = 2110465 := rfl
      have alert : E.alert_status = 2102017 := rfl
      exact (rd_congr dict' _).trans (entries _ (by omega))
    refine leads_of_effect (u := mainStageEnable s main aux) rfl ?_ fun v q h => h
    generalize holdEnded main aux (noteInputs s main aux) = u at *
    rw [shape]
    dsimp only
  · rw [if_pos (by rw [Bool.and_eq_true, mainOn', on, off]; exact ⟨feeds.2 may, rfl⟩)]
    obtain ⟨fed, wait, wakes⟩ := enableMain_leads (u := u) (by rw [recovery', recovery, deferred])
    refine ⟨fed, wait, fun d hd => ?_⟩
    rw [wakes d hd, domains d hd, power', power]
  · rw [if_neg]
    · exact ⟨mainOn'.trans on, power'.trans power, cores'.trans cores, mem'.trans mem⟩
    · rw [Bool.and_eq_true, mainOn', on, Bool.not_eq_true']
      rintro ⟨may, off⟩
      rcases not with not | fed
      · exact not (feeds.1 may)
      · rw [off] at fed
        exact absurd fed (by decide)

end Sys2Proof.Machine
end

section
/-! SUPPORT. A path whose length leaves its field. -/

namespace Sys2Proof.Machine

open Sys2Proof


/-! ## A path whose length leaves its field (R561, R563, R567) -/

/-- A path of more devices than the field of a routing entry's distance counts. -/
def farPath : List Nat := List.replicate (2 ^ 14) 1

/-- A device that has come ready, with port 0 ACTIVE, which advertised that path to node 0. -/
def farState : State := { State.reset with dict := [(E.boot_state, 3), (E.port_state, 3 * 2 ^ 28)], paths := [(0, farPath)] }

theorem routes_advertise (s : State) (d : Nat) : (advertise s d).routes = s.routes := by
  unfold advertise
  split
  · rfl
  · exact foldl_keeps State.routes (g := fun t p => emit t (.advert p d (ownPath t d))) (fun _ _ => rfl) _ s

/-- What a change of paths leaves in the routing table is the entry that was computed. -/
theorem routes_routeChanged (s0 s : State) (d : Nat) : (routeChanged s0 s d).routes = (computeRoute s d).routes := by
  unfold routeChanged
  dsimp only
  generalize (if route (computeRoute s d) d = route s0 d then 1 else 0) = v
  split
  · rfl
  · exact routes_advertise ..

/-- An answer, a status and the queue change no route. -/
theorem routes_answered (u : State) (k j v : Nat) (q : List Instr) : { ended (wr u j v) k 0 with pending := q }.routes = u.routes := rfl

theorem farState_serves : Serves farState E.rc_cmd := by
  refine ⟨by decide, rfl, fun w row shared => ?_⟩
  obtain rfl : (⟨0x600A, 1, 3, 3, 1, 1, .cmd, 1, false, 0⟩ : DRow) = w := Option.some.inj ((show dictRow 0x600A 3 = _ by decide).symm.trans row)
  exact absurd shared (by decide)

theorem writable_rcCmd : Writable E.rc_cmd ⟨0x600A, 1, 3, 3, 1, 1, .cmd, 1, false, 0⟩ := ⟨by decide, by decide, by decide, by decide, by decide⟩

/-- The state after the entry of node 0 is unpinned, before it is computed. -/
def farUnpinned : State := setRoute farState 0 (setBit (route farState 0) 62 false)

theorem pathPorts_farUnpinned : pathPorts farUnpinned 0 = [0] := by decide +kernel

theorem pathAt_farUnpinned : pathAt farUnpinned 0 0 = farPath := rfl

/-- The distance of node 0 is that path's length, which sets the bit of a pinned entry. -/
theorem route_computeRoute_farUnpinned : bit (route (computeRoute farUnpinned 0) 0) 62 = true := by
  have length : pathLength farUnpinned 0 = 2 ^ 14 := by
    rw [pathLength, pathPorts_farUnpinned, List.foldl_cons, List.foldl_nil, if_pos rfl, pathAt_farUnpinned, farPath, List.length_replicate]
  have unnamed : rd farUnpinned E.node_id_assigned ≠ 1 := by decide
  have free : bit (route farUnpinned 0) 62 = false := by decide
  have invalid : bit (route farUnpinned 0) 63 = false := by decide
  have root : 0 = treeRoot farUnpinned := by decide
  have shortest : [0].filter (fun p => (pathAt farUnpinned p 0).length == 2 ^ 14) = [0] := by
    rw [List.filter_cons, pathAt_farUnpinned, farPath, List.length_replicate, if_pos (beq_self_eq_true _), List.filter_nil]
  have first : treePort farUnpinned 0 [0] = 0 := by
    rw [treePort, if_pos root]
    rfl
  unfold computeRoute
  rw [if_neg fun own => unnamed own.1, if_neg (by rw [free]; decide), pathPorts_farUnpinned, length, shortest, first, if_neg (by decide)]
  dsimp only
  rw [if_neg fun kept => absurd (invalid.symm.trans kept.2.2.2.1) (by decide), route, setRoute, Tab.get_set_same]
  decide

/-- Refutes O47: in `farState` the entry that `rc_cmd` unpins is computed with a distance of 2^14, whose lowest bit above its field is
the bit of a pinned entry (the statement bounds the distance of an advertised path, and not that of an unpinned entry). -/
theorem not_packetsFind : ¬ Obligations.PacketsFind := by
  unfold Obligations.PacketsFind
  rintro ⟨finds, -⟩
  obtain ⟨-, commands⟩ := finds farState
  obtain ⟨-, -, -, unpins, -⟩ := commands .island farState_serves
  obtain ⟨t, runs, -, -, clear, -⟩ := unpins fun own => absurd own.1 (by decide)
  have node : rd farState E.rc_node = 0 := by decide
  have effect : exec (.routeUnpin .island) farState = done farState (ended (routeCommand farState 2) E.rc_cmd 0) := by
    have told : told farState .island E.rc_cmd (leBytes 1 2) = farState := told_device (by decide) ..
    have sets := command_effect (n := .routeUnpin .island) (m := routeSem) (v := 2) rfl farState_serves writable_rcCmd
      (not_heldBack (by decide) rfl) (by decide) (by decide) (by decide) rfl
    rwa [told] at sets
  have routed : routeCommand farState 2 = wr (routeChanged farState farUnpinned 0) E.rc_status 2 := by
    unfold routeCommand
    rw [node]
    rfl
  have changed : (routeChanged farState farUnpinned 0).routes = (computeRoute farUnpinned 0).routes := routes_routeChanged ..
  rw [runs, routed] at effect
  have same : t.routes = (computeRoute farUnpinned 0).routes := by
    rw [Host.Outcome.next.inj effect]
    exact (routes_answered ..).trans changed
  rw [node, route, same, ← route, route_computeRoute_farUnpinned] at clear
  exact absurd clear (by decide)

end Sys2Proof.Machine
end

section
/-! SUPPORT. A store that waited in the router of a sector that wakes. -/

namespace Sys2Proof.Machine

open Sys2Proof


/-! ## A store that waited in the router of a sector that wakes (R705, R711, R872) -/

/-- A store of core 0 into the ring region of sector 1. -/
def wakingStore : Xfer := { heldTransfer with kind := .stt, writes := [(ringKey 1 0, none, [7], false)], held := none, far := true }

/-- Sector 0 wakes by a `sleep_request`, its router holds the end of that store, and sector 1 has accepted a sleep entry. -/
def wakingState : State :=
  { State.reset with
    supply := { State.reset.supply with mainOn := true }
    dict := [(E.boot_state, 3), (E.domain_state, 6)]
    power := { PowerMgr.init with entry := some ⟨1, 0, 2, [(0x101, .accepted)]⟩, byRequest := 1 }
    arrivals := [.moved 0 0 0]
    cores := [(0, { Core.init with running := true, xfers := [wakingStore] })] }

/-- Refutes O51: in `wakingState` the store that sector 0 takes as it is ON reaches sector 1 and ends its sleep entry, whose result 0x0603
is written over the 0 of the wake (the statement does not ask that no entry is in progress). -/
theorem not_domainsSleepAndWake : ¬ Obligations.DomainsSleepAndWake := by
  unfold Obligations.DomainsSleepAndWake
  rintro ⟨-, wakes⟩
  obtain ⟨-, -, ends, -⟩ := wakes wakingState
  obtain ⟨-, -, done_⟩ := ends 0 0 (by decide)
  obtain ⟨t, runs, -, -, -, -, -, zero⟩ := done_ ⟨rfl, by decide, by decide⟩ (fun held => absurd held.1 (by decide)) (fun _ waits => nomatch waits)
  have aborted : (match exec (.domainWakeDone 0 0) wakingState with
      | .next t => rd t E.sleep_result
      | _ => 0) = 0x0603 := by decide +kernel
  rw [runs] at aborted
  exact absurd (aborted.symm.trans (zero rfl)) (by decide)

end Sys2Proof.Machine
end

section
/-! SUPPORT. Instructions of the engines (R251 to R257). -/

namespace Sys2Proof.Machine

open Sys2Proof


/-! ## What a plan comes to (R251, R257, R319) -/

/-- A plan without a failure and without an effect at its issue beat: whether it takes the working store, its beats, and the storages
that it reads and writes. -/
structure Plan.IsFor (p : Plan) (work : Bool) (occ lat : Nat) (srcs dsts : List (Nat × Nat)) : Prop where
  codes : ∀ n ∈ p.codes, n = 0
  work : p.work = work
  occ : p.occ = occ
  lat : p.lat = lat
  srcs : p.srcs = srcs
  dsts : p.dsts = dsts
  late : ∀ f ∈ p.fx, f.early = false

section
variable {u : State} {c a occ lat : Nat}

/-- A check of the working store against nothing that meets it finds no window (R319). -/
theorem checkDst_free {k : Core} {hi : Option Nat} {t g : Nat}
    (free : (k.readsOn t a ++ k.writesOn t a).any (meets a hi) = false) : ∀ f ∈ k.checkDst a a hi t g, f.kind ≠ 3 := by
  rw [List.any_append] at free
  intro f found
  rw [Option.mem_def, Core.checkDst, free, if_neg (by decide)] at found
  split at found
  · obtain rfl := Option.some.inj found
    exact (by decide : (4 : Nat) ≠ 3)
  · cases found

theorem schedule_of_free {eng : Nat} {p : Plan} (clear : Clear u c eng a p.occ p.lat p.srcs p.dsts)
    (store : p.work = true → StoreFree u c a p.occ) : (core u c).schedule a p = none := by
  cases work : p.work
  · exact schedule_of_clear work clear
  · obtain ⟨-, srcs, dsts⟩ := clear
    rw [Core.schedule, List.filterMap_eq_nil_iff.2 srcs, List.filterMap_eq_nil_iff.2 dsts, work, if_pos rfl]
    refine congrArg lowestKind (List.filterMap_eq_nil_iff.2 fun i hi => ?_)
    have apart := checkDst_free (g := 8) (store work (8 + i) (by omega) (by have := List.mem_range.1 hi; omega))
    rw [Option.bind_eq_none_iff]
    exact fun f found => if_neg (apart f found)

variable {s : State} {n : Instr} {b : Block} {x : XIns} {os : List Opnd} {r : Resolved} {eng op : Nat} {work : Bool}
  {srcs dsts : List (Nat × Nat)} {plan : State → Nat → List Opd → Plan}
  (runs : exec n s = guarded (decide (c < 800)) s (issue s c eng op x os plan)) (ready : Ready s u c a b x os r)
include runs ready

/-- An instruction whose operands are ready, whose plan has no failure and against which nothing stands issues, with the beats of its
plan (R251, R253, R257). -/
theorem issues_of_plan (is : (plan u a r.vals).IsFor work occ lat srcs dsts) (clear : Clear u c eng a occ lat srcs dsts)
    (store : work = true → StoreFree u c a occ) :
    IssuesAs n s u c eng a b r (plan u a r.vals) ∧ ((plan u a r.vals).occ, (plan u a r.vals).lat) = (occ, lat) := by
  obtain ⟨codes, rfl, rfl, rfl, rfl, rfl, late⟩ := is
  exact ⟨issuesAs_of_ready runs ready codes clear.1 (schedule_of_free clear store) late, rfl⟩

/-- The same of an instruction without tiles and banks, whose engine is free. -/
theorem issues_of_free (is : (plan u a r.vals).IsFor work occ lat [] []) (free : Tab.get 0 (core u c).busyTo eng ≤ a)
    (store : work = true → StoreFree u c a occ) :
    IssuesAs n s u c eng a b r (plan u a r.vals) ∧ ((plan u a r.vals).occ, (plan u a r.vals).lat) = (occ, lat) :=
  issues_of_plan runs ready is ⟨free, List.forall_mem_nil _, List.forall_mem_nil _⟩ store

end

section
variable {s : State} {c : Nat} {codes : List Nat} (sound : ∀ n ∈ codes, n = 0)
include sound

/-- Poison in what a tile form reads changes what it writes, and nothing of its beats (R150). -/
theorem tilePlan_isFor {srcs dsts : List (Nat × Nat)} {reads : List Opd} {o l : Nat} {writes : List (Nat × Option Nat × List Byte)} {fx : List Fx}
    (late : ∀ f ∈ fx, f.early = false) : (tilePlan s c codes srcs dsts reads o l writes fx).IsFor false o l srcs dsts := by
  unfold tilePlan
  split
  · exact ⟨sound, rfl, rfl, rfl, rfl, rfl, List.forall_mem_nil _⟩
  · exact ⟨sound, rfl, rfl, rfl, rfl, rfl, late⟩

/-- The same of a memory form (R150, R333). -/
theorem memPlan_isFor {elementwise work : Bool} {o l : Nat} {reads : List (List (Nat × Nat × Nat))} {dst : List (Nat × Nat × Nat)}
    {out : List Byte} {fx : List Fx} (late : ∀ f ∈ fx, f.early = false) :
    (memPlan s codes elementwise work o l reads dst out fx).IsFor work o l [] [] := by
  unfold memPlan
  split
  · exact ⟨sound, rfl, rfl, rfl, rfl, rfl, late⟩
  · unfold poisonedPlan
    dsimp only
    split
    · exact ⟨sound, rfl, rfl, rfl, rfl, rfl, by simp [Fx.early]⟩
    split
    · exact ⟨sound, rfl, rfl, rfl, rfl, rfl, by simp [Fx.early]⟩
    · refine ⟨sound, rfl, rfl, rfl, rfl, rfl, fun f member => ?_⟩
      rcases List.mem_append.1 member with marks | fault
      · obtain ⟨q, -, rfl⟩ := List.mem_map.1 marks
        rfl
      · obtain rfl := List.mem_singleton.1 fault
        rfl

end

/-- The same of the matrix engine, whose operands it may reach (R248, R453). -/
theorem mePlan_isFor {s : State} {c o l : Nat} {srcs : List Opd} {dst : Opd} {old : Bool} {writes : List (Nat × Option Nat × List Byte)}
    {fx : List Fx} (reach : storageCodes 1 dst srcs = []) (late : ∀ f ∈ fx, f.early = false) :
    (mePlan s c [] srcs dst old o l writes fx).IsFor false o l (srcs.flatMap Opd.storage) dst.storage := by
  unfold mePlan
  dsimp only
  rw [reach]
  generalize (if old = true then dst :: srcs else srcs) = reads
  split
  · exact ⟨List.forall_mem_nil _, rfl, rfl, rfl, rfl, rfl, by simp [Fx.early]⟩
  · exact ⟨List.forall_mem_nil _, rfl, rfl, rfl, rfl, rfl, late⟩


/-! ## Codes -/

theorem code_none {l : List Nat} (h : l = []) : ∀ n ∈ l, n = 0 := h ▸ List.forall_mem_nil _

theorem code_if {p : Prop} [Decidable p] (h : p) : ∀ n ∈ (if p then [] else [0x0105] : List Nat), n = 0 := code_none (if_pos h)

theorem code_one {m : Nat} {l : List Nat} (h : m = 0) (rest : ∀ n ∈ l, n = 0) : ∀ n ∈ m :: l, n = 0 := List.forall_mem_cons.2 ⟨h, rest⟩

theorem code_append {l m : List Nat} (h : ∀ n ∈ l, n = 0) (rest : ∀ n ∈ m, n = 0) : ∀ n ∈ l ++ m, n = 0 := List.forall_mem_append.2 ⟨h, rest⟩

/-! ## The plans of the PE (R301, R310 to R332) -/

section
variable {u : State} {c a : Nat} {mod : BitVec 18}

/-- The words that meet their primes' bounds or not leave no effect at the issue beat. -/
theorem hit_late {b : Bool} {f : Fx} (late : f.early = false) : ∀ g ∈ (if b then [f] else []), g.early = false := by
  split
  · exact List.forall_mem_singleton.2 late
  · exact List.forall_mem_nil _

theorem unless_late {p : Prop} [Decidable p] {f : Fx} (late : f.early = false) : ∀ g ∈ (if p then [] else [f]), g.early = false := by
  split
  · exact List.forall_mem_nil _
  · exact List.forall_mem_singleton.2 late

section
variable {inv : Bool} {p0 p1 : Prime} (slot : slotPrimes u c (mod.toNat / 32768 % 4) (bit mod.toNat 17) = some (p0, p1))
  (size : mod.toNat / 4096 % 8 + 10 ≤ p0.logN) (size' : bit mod.toNat 17 = true → mod.toNat / 4096 % 8 + 10 ≤ p1.logN)
include size size'

/-- Both primes of a slot serve the transform's length. -/
theorem slot_sizes : mod.toNat / 4096 % 8 + 10 ≤ p0.logN ∧ ((!bit mod.toNat 17) = true ∨ mod.toNat / 4096 % 8 + 10 ≤ p1.logN) := by
  refine ⟨size, ?_⟩
  cases narrow : bit mod.toNat 17
  · exact .inl rfl
  · exact .inr (size' narrow)

include slot

theorem nttPlan_tiles {d gd t gt : Nat} {dl sl : List (Nat × Nat)} (short : mod.toNat / 4096 % 8 + 10 ≤ 12)
    (dst : tileGroup (2 ^ (mod.toNat / 4096 % 8 + 10 - 9)) (.tile d gd) = some dl)
    (src : tileGroup (2 ^ (mod.toNat / 4096 % 8 + 10 - 9)) (.tile t gt) = some sl) :
    (nttPlan inv c mod u a [.tile d gd, .tile t gt]).IsFor false (2 ^ (mod.toNat / 4096 % 8 + 10) * (mod.toNat / 4096 % 8 + 10) / 256)
      (2 ^ (mod.toNat / 4096 % 8 + 10) * (mod.toNat / 4096 % 8 + 10) / 256 + 12) sl dl := by
  have entry : bits mod.toNat 16 15 = mod.toNat / 32768 % 4 := rfl
  have long : bits mod.toNat 14 12 = mod.toNat / 4096 % 8 := rfl
  have tiles : formOf [.tile d gd, .tile t gt] = .tile := rfl
  unfold nttPlan
  simp only [entry, long, slot, tiles, if_neg (Nat.not_lt.2 short), List.getD_cons_zero, List.getD_cons_succ, dst, src]
  exact tilePlan_isFor (code_if (slot_sizes size size')) (hit_late rfl)

theorem nttPlan_memory {d t : Nat} {dl sl : List (Nat × Nat × Nat)} (long : 12 ≤ mod.toNat / 4096 % 8 + 10)
    (dst : Spans u c d true (8 * 2 ^ (mod.toNat / 4096 % 8 + 10)) dl) (src : Spans u c t false (8 * 2 ^ (mod.toNat / 4096 % 8 + 10)) sl)
    (apart : overlapCodes dl [sl] true = []) :
    (nttPlan inv c mod u a [.ctx d, .ctx t]).IsFor true ((2 ^ (mod.toNat / 4096 % 8 + 10) + 11) / 12 + 64)
      ((2 ^ (mod.toNat / 4096 % 8 + 10) + 11) / 12 + 64 + 32) [] [] := by
  have entry : bits mod.toNat 16 15 = mod.toNat / 32768 % 4 := rfl
  have degree : bits mod.toNat 14 12 = mod.toNat / 4096 % 8 := rfl
  have memory : formOf [.ctx d, .ctx t] = .mem := rfl
  obtain ⟨dst, dn⟩ := dst
  obtain ⟨src, sn⟩ := src
  unfold nttPlan
  simp only [entry, degree, slot, memory, List.getD_cons_zero, List.getD_cons_succ, ctxNum, dst, src, apart]
  exact memPlan_isFor (code_append (code_append (code_append (code_if (slot_sizes size size')) (code_one rfl (code_one rfl (code_none rfl))))
    (code_if ⟨long, dn, sn⟩)) (code_none rfl)) (hit_late rfl)

theorem encrPlan_isFor {d t : Nat} {dl sl : List (Nat × Nat × Nat)} (long : 12 ≤ mod.toNat / 4096 % 8 + 10)
    (dst : Spans u c d true (8 * 2 ^ (mod.toNat / 4096 % 8 + 10)) dl) (src : Spans u c t false (8 * 2 ^ (mod.toNat / 4096 % 8 + 10)) sl)
    (apart : overlapCodes dl [sl] true = []) :
    (encrPlan c mod u a [.ctx d, .ctx t]).IsFor true ((2 ^ (mod.toNat / 4096 % 8 + 10) + 11) / 12 + 64)
      ((2 ^ (mod.toNat / 4096 % 8 + 10) + 11) / 12 + 64 + 32) [] [] := by
  have entry : bits mod.toNat 16 15 = mod.toNat / 32768 % 4 := rfl
  have degree : bits mod.toNat 14 12 = mod.toNat / 4096 % 8 := rfl
  obtain ⟨dst, dn⟩ := dst
  obtain ⟨src, sn⟩ := src
  obtain ⟨fits, fits'⟩ := slot_sizes size size'
  unfold encrPlan
  simp only [entry, degree, slot, dst, src, apart]
  exact memPlan_isFor (code_append (code_one rfl (code_one rfl (code_one (if_pos (decide_eq_true ⟨fits, fits', long, dn, sn⟩)) (code_none rfl))))
    (code_none rfl)) (List.forall_mem_nil _)

end

section
variable {g m : Nat} (table : Tab.get none (core u c).galois (mod.toNat / 65536 % 4) = some (g, m))
include table

theorem autPlan_isFor {d t : Nat} {dl sl : List (Nat × Nat × Nat)} (dst : Spans u c d true (8 * 2 ^ m) dl)
    (src : Spans u c t false (8 * 2 ^ m) sl) (apart : overlapCodes dl [sl] false = []) :
    (autPlan c mod u a [.ctx d, .ctx t]).IsFor true ((2 ^ m + 23) / 24 + 16) ((2 ^ m + 23) / 24 + 40) [] [] := by
  have entry : bits mod.toNat 17 16 = mod.toNat / 65536 % 4 := rfl
  have memory : formOf [.ctx d, .ctx t] = .mem := rfl
  obtain ⟨dst, dn⟩ := dst
  obtain ⟨src, sn⟩ := src
  unfold autPlan
  simp only [entry, table, memory, List.getD_cons_zero, List.getD_cons_succ, ctxNum, dst, src, apart]
  exact memPlan_isFor (code_append (code_append (code_one rfl (code_one rfl (code_none rfl))) (code_if ⟨dn, sn⟩)) (code_none rfl))
    (List.forall_mem_nil _)

theorem auttPlan_isFor {d gd t gt : Nat} (block : mod.toNat / 256 % 256 < 2 ^ (m - 9)) (hd : d < 24) (ht : t < 16) :
    (auttPlan c mod u a [.tile d gd, .tile t gt]).IsFor false 8 20 [(t, gt)] [(d, gd)] := by
  have entry : bits mod.toNat 17 16 = mod.toNat / 65536 % 4 := rfl
  have place : bits mod.toNat 15 8 = mod.toNat / 256 % 256 := rfl
  have tiles : formOf [.tile d gd, .tile t gt] = .tile := rfl
  have reach : storageCodes 0 (.tile d gd) [.tile t gt] = [] := by simp [storageCodes, mayWrite, mayRead, hd, ht]
  unfold auttPlan
  simp only [entry, place, table, tiles, List.getD_cons_zero, List.getD_cons_succ, reach]
  exact tilePlan_isFor (code_append (code_if block) (code_none rfl)) (List.forall_mem_nil _)

end

theorem gsetPlan_isFor (odd : Tab.get 0 (core u c).consts (mod.toNat / 512 % 16) % 2 ^ 18 % 2 = 1)
    (below : Tab.get 0 (core u c).consts (mod.toNat / 512 % 16) % 2 ^ 18 < 2 ^ (mod.toNat / 8192 % 8 + 11)) (vals : List Opd) :
    (gsetPlan c mod u a vals).IsFor false 1 2 [] [] :=
  ⟨code_if ⟨odd, below⟩, rfl, rfl, rfl, rfl, rfl, List.forall_mem_singleton.2 rfl⟩

theorem twbPlan_isFor (valid : (primeAt u c (mod.toNat / 1024 % 64)).valid = true) (vals : List Opd) :
    (twbPlan c mod u a vals).IsFor false 48 48 [] [] :=
  ⟨code_if valid, rfl, rfl, rfl, rfl, rfl, List.forall_mem_singleton.2 rfl⟩

theorem loadPlan_isFor {n o l k : Nat} {f : List Nat → Fx} {sl : List (Nat × Nat × Nat)} (src : Spans u c k false n sl)
    (late : ∀ w, (f w).early = false) : (loadPlan n o l f c u a [.ctx k]).IsFor false o l [] [] := by
  obtain ⟨src, sn⟩ := src
  unfold loadPlan
  simp only [src]
  exact memPlan_isFor (code_one rfl (code_one (if_pos sn) (code_none rfl))) (List.forall_mem_singleton.2 (late _))

/-- The lines that an encoding moves (R315). -/
def encLines (n na nb : Nat) : Nat := (na + 63) / 64 + (nb + 63) / 64 + 2 ^ n / 8

/-- An encoding by values or by slots, whose ranges and scales suffice (R327 to R331). -/
theorem encPlan_isFor {slots : Bool} {d ka kb na nb : Nat} {dl al bl : List (Nat × Nat × Nat)}
    (dst : Spans u c d true (8 * 2 ^ (EncMod.of mod).n) dl) (values : Spans u c ka false na al) (scales : Spans u c kb false nb bl)
    (group : (EncMod.of mod).group ≠ 3) (shift : (EncMod.of mod).e ≤ 60)
    (enough : ((EncMod.of mod).values na + 32 * 2 ^ (EncMod.of mod).group - 1) / (32 * 2 ^ (EncMod.of mod).group) * 4 ≤ nb)
    (apart : overlapCodes dl [al, bl] false = []) (place : slots = false → (EncMod.of mod).place ≠ 3)
    (fits : (EncMod.of mod).values na ≤ if slots = true ∨ (EncMod.of mod).place = 2 then 2 ^ ((EncMod.of mod).n - 1) else 2 ^ (EncMod.of mod).n) :
    let occ := if slots then 2 ^ (EncMod.of mod).n * ((EncMod.of mod).n - 1) / 128 + 96 else (encLines (EncMod.of mod).n na nb + 5) / 6 + 16
    (encPlan slots c mod u a [.ctx d, .ctx ka, .ctx kb]).IsFor slots occ (occ + if slots then 32 else 24) [] [] := by
  obtain ⟨dst, dn⟩ := dst
  obtain ⟨values, rfl⟩ := values
  obtain ⟨scales, rfl⟩ := scales
  intro occ
  unfold encPlan
  simp only [dst, values, scales, apart]
  refine memPlan_isFor (code_append (code_one rfl (code_one rfl (code_one rfl (code_one (if_neg ?_) (code_none rfl))))) (code_none rfl)) ?_
  · have placed : (!slots && (EncMod.of mod).place == 3) = false := by
      cases slots
      · simp [place rfl]
      · rfl
    have ok : (EncMod.of mod).ok = true := by simp [EncMod.ok, group, shift]
    simp [placed, ok, dn, fits, enough]
  · exact unless_late rfl

end


/-! ## The plans of the matrix and vector engines (R418 to R451) -/

section
variable {u : State} {c a : Nat} {mod : BitVec 18}

theorem storageCodes_matrix {d gd : Nat} {srcs : List Opd} (reads : srcs.all (mayRead 1) = true) : storageCodes 1 (.bank d gd) srcs = [] := by
  rw [storageCodes, reads]
  rfl

theorem mayRead_matrix {t g : Nat} (low : 16 ≤ t) (high : t < 24) : mayRead 1 (.tile t g) = true := decide_eq_true ⟨low, high⟩

/-- The storages that an `MMA` reads. -/
def mmaSources (m : MmaMod) (ta ga tb gb : Nat) : List (Nat × Nat) :=
  [(ta, ga), (tb, gb)] ++ if m.grp ≠ 0 ∨ m.zp = true then [(16 + m.aux, m.auxGen)] else []

theorem mmaPlan_isFor {d gd ta ga tb gb : Nat} (ok : (MmaMod.of mod).ok = true) (la : 16 ≤ ta) (ha : ta < 24) (lb : 16 ≤ tb) (hb : tb < 24) :
    let occ := if (MmaMod.of mod).fmt = 4 ∨ (MmaMod.of mod).fmt = 5 then 128 else 64
    (mmaPlan c mod u a [.bank d gd, .tile ta ga, .tile tb gb]).IsFor false occ (occ + 16) (mmaSources (MmaMod.of mod) ta ga tb gb) [(32 + d, gd)] := by
  have aux : (MmaMod.of mod).aux < 8 := Nat.mod_lt _ (by decide)
  have first := mayRead_matrix (g := ga) la ha
  have second := mayRead_matrix (g := gb) lb hb
  have third : mayRead 1 (.tile (16 + (MmaMod.of mod).aux) (MmaMod.of mod).auxGen) = true := mayRead_matrix (by omega) (by omega)
  intro occ
  unfold mmaPlan mmaSources
  dsimp only [List.getD_cons_zero, List.getD_cons_succ]
  rw [if_pos ok]
  split
  · have reach : storageCodes 1 (.bank d gd) [.tile ta ga, .tile tb gb, .tile (16 + (MmaMod.of mod).aux) (MmaMod.of mod).auxGen] = [] :=
      storageCodes_matrix (by rw [List.all_cons, List.all_cons, List.all_cons, first, second, third]; rfl)
    exact mePlan_isFor reach (List.forall_mem_singleton.2 rfl)
  · have reach : storageCodes 1 (.bank d gd) [.tile ta ga, .tile tb gb] = [] :=
      storageCodes_matrix (by rw [List.all_cons, List.all_cons, first, second]; rfl)
    exact mePlan_isFor reach (List.forall_mem_singleton.2 rfl)

theorem msumPlan_isFor {d gd ta ga : Nat} (int : (MmaMod.of mod).fmt ≤ 1) (groups : (MmaMod.of mod).g ≤ (MmaMod.of mod).k) (la : 16 ≤ ta)
    (ha : ta < 24) : (msumPlan c mod u a [.bank d gd, .tile ta ga]).IsFor false 16 24 [(ta, ga)] [(32 + d, gd)] := by
  have ok : (({ MmaMod.of mod with zp := false, acc := false, ua := bit mod.toNat 3, ub := false } : MmaMod).ok &&
      ({ MmaMod.of mod with zp := false, acc := false, ua := bit mod.toNat 3, ub := false } : MmaMod).isInt) = true := by
    have isInt : ({ MmaMod.of mod with zp := false, acc := false, ua := bit mod.toNat 3, ub := false } : MmaMod).isInt = true := decide_eq_true int
    rw [isInt, Bool.and_true, MmaMod.ok, isInt, Bool.true_or, Bool.and_true]
    exact decide_eq_true groups
  unfold msumPlan
  dsimp only [List.getD_cons_zero, List.getD_cons_succ]
  rw [if_pos ok]
  have reach : storageCodes 1 (.bank d gd) [.tile ta ga] = [] := storageCodes_matrix (by rw [List.all_cons, mayRead_matrix la ha]; rfl)
  exact mePlan_isFor reach (List.forall_mem_nil _)

/-- The prime-table entries that an `MMOD` names. -/
def mmodPrimes (u : State) (c : Nat) (w : MmodMod) : List Prime := (maskList (Tab.get 0 (core u c).consts w.kreg)).map (primeAt u c)

theorem mmodPlan_isFor {d gd ta ga tb gb : Nat} (ok : (MmodMod.of mod).ok (mmodPrimes u c (MmodMod.of mod)) = true) (la : 16 ≤ ta)
    (ha : ta < 24) (lb : 16 ≤ tb) (hb : tb < 24) :
    let w := MmodMod.of mod
    let lanes := if w.narrow then 256 else 64
    let occ := (w.k * (mmodPrimes u c w).length * w.c + lanes - 1) / lanes
    (mmodPlan c mod u a [.bank d gd, .tile ta ga, .tile tb gb]).IsFor false occ (occ + 16) [(ta, ga), (tb, gb)] [(32 + d, gd)] := by
  intro w lanes occ
  rw [mmodPrimes] at ok
  unfold mmodPlan
  dsimp only [List.getD_cons_zero, List.getD_cons_succ]
  rw [if_pos ok]
  have reach : storageCodes 1 (.bank d gd) [.tile ta ga, .tile tb gb] = [] :=
    storageCodes_matrix (by rw [List.all_cons, List.all_cons, mayRead_matrix la ha, mayRead_matrix lb hb]; rfl)
  exact mePlan_isFor reach (List.forall_mem_nil _)

/-- A record of chains, loaded or poisoned (R438, R150). -/
theorem vcldPlan_isFor {k n : Nat} {l : List (Nat × Nat × Nat)} (src : Spans u c k false (128 * n) l) (some_ : 1 ≤ n)
    (fits : mod.toNat / 16384 % 16 + n ≤ 16) (ok : (chainGroups n (wordsOf (pieceBytes u l))).all chainOk = true) :
    (vcldPlan c mod u a [.ctx k]).IsFor false ((2 * n + 2) / 3 + 2) ((2 * n + 2) / 3 + 10) [] [] := by
  obtain ⟨src, size⟩ := src
  have first : bits mod.toNat 17 14 = mod.toNat / 16384 % 16 := rfl
  have count : 128 * n / 128 = n := Nat.mul_div_cancel_left n (by decide)
  unfold vcldPlan
  simp only [src, size, count, first, ok, fits, some_, Nat.mul_mod_right, and_self, decide_true, Bool.and_self, beq_self_eq_true, if_true]
  split
  · exact ⟨code_one rfl (code_one rfl (code_none rfl)), rfl, rfl, rfl, rfl, rfl, List.forall_mem_nil _⟩
  · exact ⟨code_one rfl (code_one rfl (code_none rfl)), rfl, rfl, rfl, rfl, rfl, List.forall_mem_singleton.2 rfl⟩

end

/-! ## Effects at the issue beat (R361, R445) -/

/-- The machine with the effects of the issue beat. -/
def earlyState (u : State) (c eng word a : Nat) (r : Resolved) (p : Plan) : State :=
  (p.fx.filter Fx.early).foldl (fun t f => applyFx t c (issuedOp eng word a r p) f) u

/-- A plan without them. -/
def Plan.later (p : Plan) : Plan := { p with fx := p.fx.filter (!·.early) }

theorem Plan.later_late (p : Plan) : ∀ f ∈ p.later.fx, f.early = false := fun f member => by
  have kept := (List.mem_filter.1 member).2
  simpa using kept

section
variable {u : State} {c eng op word planned a : Nat} {r : Resolved} {p : Plan}

theorem issuedOp_later : issuedOp eng word a r p.later = issuedOp eng word a r p := by
  unfold issuedOp Plan.later
  dsimp only
  rw [List.filter_filter]
  simp only [Bool.and_self]

/-- An issue has its early effects first, and is then the issue of the plan without them. -/
theorem goIssue_early : goIssue u c eng op word planned a r p = goIssue (earlyState u c eng word a r p) c eng op word planned a r p.later := by
  have none_ : p.later.fx.filter Fx.early = [] := List.filter_eq_nil_iff.2 fun f member => by simp [p.later_late f member]
  have same : p.later.fx.filter (!·.early) = p.fx.filter (!·.early) := by
    unfold Plan.later
    simp only [List.filter_filter, Bool.and_self]
  unfold goIssue earlyState issuedOp
  rw [none_, same]
  rfl

/-- An issue leaves the key contexts and the trackers of its core to its early effects. -/
theorem records_goIssue (late : ∀ f ∈ p.fx, f.early = false) : (core (goIssue u c eng op word planned a r p) c).keys = (core u c).keys ∧
    (core (goIssue u c eng op word planned a r p) c).trackers = (core u c).trackers := by
  obtain ⟨v, cores⟩ := core_goIssue (u := u) (c := c) (eng := eng) (op := op) (word := word) (planned := planned) (a := a) (r := r) late
  obtain ⟨q, popped⟩ := popAll_eq r.pops a (core u c)
  rw [cores c, if_pos rfl, Core.issued, popped]
  exact ⟨rfl, rfl⟩

/-- What flies from a machine whose core differs only beside its operations, queues and block flies from that machine. -/
theorem flies_of_setCore {k : Core} {t : State} {o : Op}
    (same : k.ops = (core u c).ops ∧ k.queues = (core u c).queues ∧ k.gens = (core u c).gens ∧ k.block = (core u c).block)
    (h : Flies (setCore u c k) t c eng a word r o) : Flies u t c eng a word r o := by
  obtain ⟨ops, queues, gens, going⟩ := same
  have own : core (setCore u c k) c = k := (core_setCore ..).trans (if_pos rfl)
  have others (j : Nat) (other : j ≠ c) : core (setCore u c k) j = core u j := (core_setCore ..).trans (if_neg other)
  have held (q : Nat) : (core (setCore u c k) c).held q = (core u c).held q := by
    rw [own, Core.held, Core.held, Core.queue, Core.queue, queues]
  obtain ⟨⟨w, more, short⟩, is, at_, word_, rel, busy, ⟨b', v', block', block'', pos⟩, held', gens', others', memory⟩ := h
  rw [own, ops] at more
  rw [own, going] at block'
  rw [own, gens] at gens'
  exact ⟨⟨w, more, short⟩, is, at_, word_, rel, busy, ⟨b', v', block', block'', pos⟩, fun q => (held' q).trans (by rw [held]), gens',
    fun j other => (others' j other).trans (others j other), memory⟩

variable {k : Core} {os : List Opnd} {s : State} {b : Block} {x : XIns} {n : Instr} {plan : State → Nat → List Opd → Plan}

/-- An instruction whose early effects change a core's record only beside its operations, queues and block issues from the core so
changed. -/
theorem issues_early (runs : exec n s = guarded (decide (c < 800)) s (issue s c eng op x os plan)) (ready : Ready s u c a b x os r)
    (codes : ∀ n ∈ (plan u a r.vals).codes, n = 0) (free : Tab.get 0 (core u c).busyTo eng ≤ a)
    (clear : (core u c).schedule a (plan u a r.vals) = none)
    (early : earlyState u c eng (b.word + b.xpos) a r (plan u a r.vals) = setCore u c k)
    (same : k.ops = (core u c).ops ∧ k.queues = (core u c).queues ∧ k.gens = (core u c).gens ∧ k.block = (core u c).block) :
    ∃ t, exec n s = .next t ∧ Flies u t c eng a (b.word + b.xpos) r (issuedOp eng (b.word + b.xpos) a r (plan u a r.vals)) ∧
      (core t c).keys = k.keys ∧ (core t c).trackers = k.trackers := by
  obtain ⟨v, block, sound⟩ := block_of_ready ready
  have hc : c < 800 := by
    obtain ⟨⟨_, free, _⟩, _⟩ := ready
    exact free.1
  have pops : Tab.Rising none r.pops := by
    obtain ⟨_, rfl, _⟩ := ready
    exact resolve_pops_rising ..
  have operands : ∀ n ∈ r.codes, n = 0 := ready.2.2.2
  rw [issue_of_ready ready, weigh_eq_goIssue operands codes free clear, guarded_of (decide_eq_true hc), goIssue_early, early] at runs
  have own : core (setCore u c k) c = k := (core_setCore ..).trans (if_pos rfl)
  have going : (core (setCore u c k) c).block = some v := by rw [own, same.2.2.2, block]
  have flies := flies_goIssue (op := op) (planned := b.xbase + x.issue) (plan u a r.vals).later_late pops going sound (eng := eng)
    (word := b.word + b.xpos) (a := a)
  have kept := records_goIssue (u := setCore u c k) (c := c) (eng := eng) (op := op) (word := b.word + b.xpos)
    (planned := b.xbase + x.issue) (a := a) (r := r) (plan u a r.vals).later_late
  rw [own] at kept
  rw [issuedOp_later] at flies
  exact ⟨_, runs, (flies_of_setCore same flies).withPending _, kept⟩

end

/-- Trackers that close their steps one by one. -/
theorem tracker_hstep (m : Nat) (k : Core) {n : Nat} : ∀ j, ((List.range n).foldl (fun k t => if bit m t then k.setTracker t (k.tracker t).close else k) k).tracker j =
    if j < n ∧ bit m j = true then (k.tracker j).close else k.tracker j := by
  induction n with
  | zero => exact fun j => (if_neg fun h => absurd h.1 (Nat.not_lt_zero j)).symm
  | succ n ih =>
    intro j
    rw [List.range_succ, List.foldl_append, List.foldl_cons, List.foldl_nil]
    have own := ih n
    rw [if_neg fun h => absurd h.1 (Nat.lt_irrefl n)] at own
    have set_ (k : Core) (v : Tracker) : (k.setTracker n v).tracker j = if j = n then v else k.tracker j := by
      unfold Core.tracker Core.setTracker
      split
      · rename_i is
        rw [is, Tab.get_set_same]
        rfl
      · rename_i other
        rw [Tab.get_set_other other]
    have order : j < n + 1 ↔ j = n ∨ j < n := by omega
    split
    · rename_i named
      rw [set_, own, ih j]
      split
      · rename_i is
        simp [is, named]
      · rename_i other
        simp [order, other]
    · rename_i unnamed
      rw [ih j]
      by_cases is : j = n
      · simp [is, unnamed]
      · simp [order, is]

/-- Closing steps changes the trackers alone. -/
theorem hstep_frame (m : Nat) (k : Core) (l : List Nat) : ∃ t, l.foldl (fun k t => if bit m t then k.setTracker t (k.tracker t).close else k) k =
    { k with trackers := t } := by
  induction l generalizing k with
  | nil => exact ⟨k.trackers, rfl⟩
  | cons j l ih =>
    rw [List.foldl_cons]
    split
    · obtain ⟨t, is⟩ := ih (k.setTracker j (k.tracker j).close)
      exact ⟨t, is⟩
    · exact ih k


/-! ## Chains and updates of the vector engine (R437 to R451) -/

/-- Effects of a pass happen at its last beat. -/
def LateFx (l : List Fx) : Prop := ∀ f ∈ l, f.early = false

theorem LateFx.append {l m : List Fx} (h : LateFx l) (more : LateFx m) : LateFx (l ++ m) := List.forall_mem_append.2 ⟨h, more⟩

theorem lateFx_vs (v : VsUpd) : LateFx [.vs v] := List.forall_mem_singleton.2 rfl

theorem Pass.stage_late {p : Pass} (h : LateFx p.fx) (k : Core) (t : Stage) (ys : List Nat) (mixed : Bool) : LateFx (p.stage k t ys mixed).fx := by
  unfold Pass.stage
  dsimp only
  split
  case h_3 =>
    split
    · exact h
    · exact h.append fun f member => by
        rcases List.mem_cons.1 member with rfl | last
        · rfl
        · obtain rfl := List.mem_singleton.1 last
          rfl
  case h_6 =>
    split
    · exact h.append (lateFx_vs _)
    · exact h
  case h_7 | h_12 =>
    split
    · exact h
    · exact h.append (lateFx_vs _)
  case h_8 | h_9 | h_10 | h_11 => exact h.append (lateFx_vs _)
  case h_13 =>
    split
    · exact h
    split
    · exact h
    · exact h
  all_goals exact h

theorem runChain_late (k : Core) (w xs bs : List Nat) : LateFx (runChain k w xs bs).fx :=
  List.foldlRecOn (motive := fun p : Pass => LateFx p.fx) _ _ (List.forall_mem_nil _) fun _ h t _ => by
    exact Pass.stage_late h k t _ _


section
variable {u : State} {c a : Nat} {mod : BitVec 18}

theorem veOpd_bad (t : Nat) (w : Bool) : (veOpd u c t w .bad).code ≠ 0 := by
  show (0x0105 : Nat) ≠ 0
  decide

/-- The operands of a pass, of which those that its chain uses are none that R247 refuses. -/
theorem vch_operands {vs : List Opd} {two : Bool} (first : vs.getD 1 .bad ≠ .bad) (second : two = true → vs.getD 2 .bad ≠ .bad) :
    (vs.drop 1).take (if two then 2 else 1) = if two then [vs.getD 1 .bad, vs.getD 2 .bad] else [vs.getD 1 .bad] := by
  match vs, two with
  | [], _ => exact absurd rfl first
  | [_], _ => exact absurd rfl first
  | [_, _], true => exact absurd rfl (second rfl)
  | [_, _], false => rfl
  | _ :: _ :: _ :: _, true => rfl
  | _ :: _ :: _ :: _, false => rfl

/-- What is said of a pass: nothing refuses it, and it holds its engine some beats, and for no longer than its latency. -/
structure Plan.Passes (p : Plan) (srcs dsts : List (Nat × Nat)) : Prop where
  codes : ∀ n ∈ p.codes, n = 0
  work : p.work = false
  srcs : p.srcs = srcs
  dsts : p.dsts = dsts
  late : LateFx p.fx
  some_ : 0 < p.occ
  within : p.occ ≤ p.lat

theorem Plan.Passes.isFor {p : Plan} {srcs dsts : List (Nat × Nat)} (h : p.Passes srcs dsts) : p.IsFor false p.occ p.lat srcs dsts :=
  ⟨h.codes, h.work, rfl, rfl, h.srcs, h.dsts, h.late⟩

/-- The beats of a pass over memory, over a bank or over tiles (R441). -/
theorem pass_beats (mem bank : Bool) (k st : Nat) : 0 < (if mem then k + 2 else if bank then 32 else 8) ∧
    (if mem then k + 2 else if bank then 32 else 8) ≤
      if mem then (if mem then k + 2 else if bank then 32 else 8) + 14 + 2 * st else if bank then 38 + 2 * st else 14 + 2 * st := by
  cases mem
  · cases bank
    · exact ⟨Nat.succ_pos 7, Nat.le_trans (by decide : 8 ≤ 14) (Nat.le_add_right 14 (2 * st))⟩
    · exact ⟨Nat.succ_pos 31, Nat.le_trans (by decide : 32 ≤ 38) (Nat.le_add_right 38 (2 * st))⟩
  · exact ⟨Nat.succ_pos _, Nat.le_trans (Nat.le_add_right (k + 2) 14) (Nat.le_add_right _ (2 * st))⟩

theorem runChain_ends_late (k : Core) (w xs bs : List Nat) :
    LateFx ((runChain k w xs bs).fx ++ if (runChain k w xs bs).odd then [.nonfinite] else []) :=
  LateFx.append (runChain_late k w xs bs) (hit_late rfl)

/-- A pass over operands that its chain fits (R439 to R444). -/
theorem vchPlan_passes {vs : List Opd} {w : List Nat} {d e f : VeOpd} {n : Nat} {two : Bool} {srcs : List Opd}
    (chain : Tab.get [] (core u c).chains (mod.toNat / 16384 % 16) = w) (some_ : w ≠ []) (uses : usesSrcb w = two)
    (hd : veOpd u c (chainTout w) true (vs.getD 0 .bad) = d) (he : veOpd u c (chainTa w) false (vs.getD 1 .bad) = e)
    (hf : veOpd u c (chainTb w) false (if two then vs.getD 2 .bad else .bad) = f) (dCode : d.code = 0) (eCode : e.code = 0)
    (hn : max (max d.sets e.sets) (if two && mod.toNat / 4096 % 4 == 0 then f.sets else 0) = n) (dFits : n ≤ d.cap (chainTout w))
    (eFits : n ≤ e.cap (chainTa w))
    (named : (if two then [vs.getD 1 .bad, if two then vs.getD 2 .bad else .bad] else [vs.getD 1 .bad]) = srcs)
    (reach : storageCodes 2 (vs.getD 0 .bad) srcs = [])
    (last : two = true → f.code = 0 ∧ mod.toNat / 4096 % 4 ≠ 3 ∧
      (if mod.toNat / 4096 % 4 = 0 then n else if mod.toNat / 4096 % 4 = 1 then 1 else 128) ≤ f.cap (chainTb w)) :
    (vchPlan c mod u a vs).Passes (srcs.flatMap Opd.storage) (vs.getD 0 .bad).storage := by
  have entry : bits mod.toNat 17 14 = mod.toNat / 16384 % 16 := rfl
  have mode : bits mod.toNat 13 12 = mod.toNat / 4096 % 4 := rfl
  have filled : ¬w.isEmpty = true := by simpa using some_
  have fCode : (if two then f.code else 0) = 0 := by
    split
    · exact (last ‹_›).1
    · rfl
  have long : (decide (d.cap (chainTout w) < n ∨ e.cap (chainTa w) < n) || (two && (decide (f.cap (chainTb w) <
      if mod.toNat / 4096 % 4 = 0 then n else if mod.toNat / 4096 % 4 = 1 then 1 else 128) || mod.toNat / 4096 % 4 == 3))) = false := by
    cases used : two
    · simp [dFits, eFits]
    · obtain ⟨-, mode, fFits⟩ := last used
      simp [dFits, eFits, mode, fFits]
  unfold vchPlan
  dsimp only
  rw [entry, mode, chain, if_neg filled, uses, hd, he, hf, hn, long, named, reach]
  have codes : ∀ n ∈ [d.code, e.code, if two then f.code else 0, if (false : Bool) = true then 0x0105 else 0] ++ ([] : List Nat), n = 0 :=
    code_append (code_one dCode (code_one eCode (code_one fCode (code_one rfl (code_none rfl))))) (code_none rfl)
  have fault (k : Nat) : LateFx [.veFault k] := List.forall_mem_singleton.2 rfl
  split
  · split
    · exact ⟨codes, rfl, rfl, rfl, runChain_ends_late _ _ _ _, (pass_beats _ _ _ 0).1, (pass_beats _ _ _ _).2⟩
    · split
      · exact ⟨codes, rfl, rfl, rfl, fault _, (pass_beats _ _ _ 0).1, (pass_beats _ _ _ _).2⟩
      · exact ⟨codes, rfl, rfl, rfl, fault _, (pass_beats _ _ _ 0).1, (pass_beats _ _ _ _).2⟩
  · exact ⟨codes, rfl, rfl, rfl, runChain_ends_late _ _ _ _, (pass_beats _ _ _ 0).1, (pass_beats _ _ _ _).2⟩

end


section
variable {u : State} {c a : Nat}

/-- What is said of an update: nothing refuses it, and its latency is 30 beats above its occupancy (R449). -/
structure Plan.Updates (p : Plan) : Prop where
  codes : ∀ n ∈ p.codes, n = 0
  work : p.work = false
  srcs : p.srcs = []
  dsts : p.dsts = []
  late : LateFx p.fx
  lat : p.lat = p.occ + 30

theorem Plan.Updates.isFor {p : Plan} (h : p.Updates) : p.IsFor false p.occ (p.occ + 30) [] [] :=
  ⟨h.codes, h.work, rfl, h.lat, h.srcs, h.dsts, h.late⟩

/-- An update whose record names streams that suffice (R449 to R451). -/
theorem vupdPlan_updates {k w0 : Nat} {l : List (Nat × Nat × Nat)} {w : List Nat} {y : Upd} {p g m v f : UpdStream} (src : Spans u c k false 64 l)
    (record : wordsOf (pieceBytes u l) = w) (first : w.getD 0 0 = w0) (update : Upd.of w = y)
    (hp : updStream u c (bits w0 39 35) (bits w0 55 52) true true = p) (hg : updStream u c (bits w0 34 30) (bits w0 51 48) true false = g)
    (hm : updStream u c (bits w0 29 25) (bits w0 47 44) (decide (1 ≤ y.opt)) true = m)
    (hv : updStream u c (bits w0 24 20) (bits w0 47 44) (y.opt == 2) true = v) (hf : updStream u c (bits w0 19 15) 5 (bit w0 14) false = f)
    (known : y.opt ≤ 2) (typeP : updType (bits w0 55 52) = true) (typeG : updType (bits w0 51 48) = true)
    (typeS : 1 ≤ y.opt → updType (bits w0 47 44) = true) (codes : ([p, g, m, v, f].all fun y => y.codes.all (· == 0)) = true)
    (fitsG : p.count ≤ g.count) (fitsM : m.used = true → p.count ≤ m.count) (fitsV : v.used = true → p.count ≤ v.count)
    (fitsF : f.used = true → (p.count + 7) / 8 ≤ rangeBytes f.pieces) : (vupdPlan c u a [.ctx k]).Updates := by
  obtain ⟨src, size⟩ := src
  have used {b : Bool} {n h : Nat} (fits : b = true → n ≤ h) : (b && decide (h < n)) = false := by
    cases b
    · rfl
    · simpa using fits rfl
  have long : (decide (g.count < p.count) || (m.used && decide (m.count < p.count)) || (v.used && decide (v.count < p.count)) ||
      (f.used && decide (rangeBytes f.pieces < (p.count + 7) / 8))) = false := by
    rw [used fitsM, used fitsV, used fitsF, decide_eq_false (Nat.not_lt.2 fitsG)]
    rfl
  have good : (rangeBytes l != 64 || decide (2 < y.opt) || !updType (bits w0 55 52) || !updType (bits w0 51 48) ||
      (decide (1 ≤ y.opt) && !updType (bits w0 47 44))) = false := by
    rw [size, typeP, typeG, decide_eq_false (Nat.not_lt.2 known)]
    cases more : decide (1 ≤ y.opt)
    · rfl
    · rw [typeS (of_decide_eq_true more)]
      rfl
  have all_ : ∀ n ∈ [0, 0] ++ p.codes ++ g.codes ++ m.codes ++ v.codes ++ f.codes, n = 0 := by
    simp only [List.all_cons, List.all_nil, Bool.and_true, Bool.and_eq_true, List.all_eq_true, beq_iff_eq] at codes
    obtain ⟨cp, cg, cm, cv, cf⟩ := codes
    exact code_append (code_append (code_append (code_append (code_append (code_one rfl (code_one rfl (code_none rfl))) cp) cg) cm) cv) cf
  unfold vupdPlan
  dsimp only
  rw [src]
  dsimp only
  rw [record, first, update, hp, hg, hm, hv, hf, long, good, if_neg (by simp : ¬(false = true ∨ false = true))]
  have fault (k : Nat) : LateFx [.veFault k] := List.forall_mem_singleton.2 rfl
  split
  · split
    · exact ⟨all_, rfl, rfl, rfl, hit_late rfl, rfl⟩
    · split
      · exact ⟨all_, rfl, rfl, rfl, fault _, rfl⟩
      · exact ⟨all_, rfl, rfl, rfl, fault _, rfl⟩
  · exact ⟨all_, rfl, rfl, rfl, hit_late rfl, rfl⟩

end


/-! ## The KXU (R358 to R363) -/

theorem bits_low (v h : Nat) : bits v h 0 = v % 2 ^ (h + 1) := by
  unfold bits
  rw [pow_zero, Nat.div_one, Nat.sub_zero]

/-- A core whose key context i has filled one more tile. -/
def Core.expandKey (k : Core) (i : Nat) : Core := k.setKey i { k.key i with expanded := (k.key i).expanded + 1 }

theorem key_expandKey (k : Core) (i : Nat) : (k.expandKey i).key i = { k.key i with expanded := (k.key i).expanded + 1 } := by
  unfold Core.expandKey
  rw [Core.key, Core.setKey, Tab.get_set_same]

section
variable {s u : State} {c a : Nat} {b : Block} {x : XIns} {r : Resolved}

/-- `XEXP` fills a tile with the next one of its key context (R361). -/
theorem xexp_issues {d gd : Nat} (ready : Ready s u c a b x [x.dst] r) (vals : r.vals = [.tile d gd]) (hd : d < 16)
    (clear : Clear u c 3 a 4 24 [] [(d, gd)]) (opened : ((core u c).key (x.mod.toNat % 2)).state = 1)
    (left : ((core u c).key (x.mod.toNat % 2)).expanded < ((core u c).key (x.mod.toNat % 2)).total * ((core u c).key (x.mod.toNat % 2)).tiles) :
    ∃ t o, exec (.xexp c x) s = .next t ∧ Flies u t c 3 a (b.word + b.xpos) r o ∧ o.occ = 4 ∧ o.lat = 24 ∧
      o.writes = [(Mem.tile c d 0, none, bytesOf (halfTile u ((core u c).key (x.mod.toNat % 2)) ((core u c).key (x.mod.toNat % 2)).expanded))] ∧
      (core t c).key (x.mod.toNat % 2) = { (core u c).key (x.mod.toNat % 2) with expanded := ((core u c).key (x.mod.toNat % 2)).expanded + 1 } := by
  have which : bits x.mod.toNat 0 0 = x.mod.toNat % 2 := bits_low ..
  have reach : storageCodes 3 (.tile d gd) [] = [] := by simp [storageCodes, mayWrite, hd]
  have plan : xexpPlan c x.mod u a r.vals = ⟨[], [], [(d, gd)], false, 4, 24, [(Mem.tile c d 0, none, bytesOf (halfTile u
      ((core u c).key (x.mod.toNat % 2)) ((core u c).key (x.mod.toNat % 2)).expanded))], [.expand (x.mod.toNat % 2)], 0⟩ := by
    unfold xexpPlan
    rw [vals, which]
    simp only [KeyCtx.refusal, opened, if_true, List.getD_cons_zero, reach, if_neg (Nat.not_le.2 left)]
    rfl
  obtain ⟨t, runs, flies, keys, -⟩ := issues_early (n := .xexp c x) (plan := xexpPlan c x.mod) (k := (core u c).expandKey (x.mod.toNat % 2)) rfl ready
    (by rw [plan]; exact List.forall_mem_nil _) clear.1 (by rw [plan]; exact schedule_of_clear (eng := 3) rfl clear) (by rw [plan]; rfl)
    ⟨rfl, rfl, rfl, rfl⟩
  rw [plan] at flies
  refine ⟨t, _, runs, flies, rfl, rfl, rfl, ?_⟩
  rw [Core.key, keys, ← Core.key, key_expandKey]

/-- `XNOISE` fills a tile with noise of the distribution in force (R362, R363). -/
theorem xnoise_issues {d gd : Nat} (ready : Ready s u c a b x [x.dst] r) (vals : r.vals = [.tile d gd]) (hd : d < 16)
    (clear : Clear u c 3 a 4 24 [] [(d, gd)]) (set_ : noiseOk (core u c).noiseDist (core u c).noiseParam = true) (log : 10 ≤ (core u c).noiseLog)
    (tile : x.mod.toNat % 256 < 2 ^ (core u c).noiseLog / 512) (valid : (primeAt u c (x.mod.toNat / 4096 % 64)).valid = true) :
    ∃ w o, exec (.xnoise c x) s = .next w ∧ Flies u w c 3 a (b.word + b.xpos) r o ∧ o.occ = 4 ∧ o.lat = 24 ∧
      o.writes = [(Mem.tile c d 0, none, bytesOf ((List.range 512).map fun j => ((noiseValue (core u c).noiseDist (core u c).noiseParam
        (sm4 (core u c).noiseKey (((core u c).noiseCtr + 512 * (x.mod.toNat % 256) + j) % 2 ^ 128))) %
          ((primeAt u c (x.mod.toNat / 4096 % 64)).q : Int)).toNat))] := by
  have which : bits x.mod.toNat 7 0 = x.mod.toNat % 256 := bits_low ..
  have entry : bits x.mod.toNat 17 12 = x.mod.toNat / 4096 % 64 := rfl
  have reach : storageCodes 3 (.tile d gd) [] = [] := by simp [storageCodes, mayWrite, hd]
  have plan : xnoisePlan c x.mod u a r.vals = ⟨[], [], [(d, gd)], false, 4, 24, [(Mem.tile c d 0, none, bytesOf ((List.range 512).map fun j =>
      ((noiseValue (core u c).noiseDist (core u c).noiseParam
        (sm4 (core u c).noiseKey (((core u c).noiseCtr + 512 * (x.mod.toNat % 256) + j) % 2 ^ 128))) %
          ((primeAt u c (x.mod.toNat / 4096 % 64)).q : Int)).toNat))], [], 0⟩ := by
    unfold xnoisePlan
    rw [vals, which, entry]
    simp only [set_, log, tile, valid, and_self, decide_true, Bool.and_self, if_true, List.getD_cons_zero, reach]
    rfl
  obtain ⟨⟨t, o, runs, flies, occ, lat, -, -, writes, -⟩, beats⟩ := issues_of_plan (work := false) (n := .xnoise c x) (plan := xnoisePlan c x.mod) rfl ready
    (by rw [plan]; exact ⟨List.forall_mem_nil _, rfl, rfl, rfl, rfl, rfl, List.forall_mem_nil _⟩) clear (fun h => absurd h Bool.false_ne_true)
  rw [plan] at occ lat writes
  exact ⟨t, o, runs, flies, occ, lat, writes⟩

/-- `XNSET` sets the distribution at its last beat (R360). -/
theorem xnset_issues (ready : Ready s u c a b x [] r) (good : noiseOk (x.mod.toNat / 65536 % 4) (x.mod.toNat / 1024 % 64) = true)
    (free : Tab.get 0 (core u c).busyTo 3 ≤ a) : ∃ t o, exec (.xnset c x) s = .next t ∧ Flies u t c 3 a (b.word + b.xpos) r o ∧ o.occ = 1 ∧ o.lat = 2 ∧
      o.fx = [.noise (x.mod.toNat / 65536 % 4) (x.mod.toNat / 1024 % 64) (x.mod.toNat / 128 % 8 + 10) (bit x.mod.toNat 0)] := by
  have is : (xnsetPlan x.mod u a r.vals).IsFor false 1 2 [] [] :=
    ⟨code_if good, rfl, rfl, rfl, rfl, rfl, List.forall_mem_singleton.2 rfl⟩
  obtain ⟨⟨t, o, runs, flies, occ, lat, -, -, -, -, fx⟩, -⟩ := issues_of_free (work := false) (n := .xnset c x) (plan := xnsetPlan x.mod) rfl ready is free
    (fun h => absurd h Bool.false_ne_true)
  exact ⟨t, o, runs, flies, occ, lat, fx⟩

/-! ## Trackers (R445) -/

/-- The plan of an instruction that acts on trackers alone. -/
def trackerPlan (f : Fx) : Plan := ⟨[], [], [], false, 1, 2, [], [f], 0⟩

theorem trackerPlan_clear (f : Fx) (k : Core) : k.schedule a (trackerPlan f) = none := rfl

theorem vhcfg_issues (ready : Ready s u c a b x [] r) (free : Tab.get 0 (core u c).busyTo 2 ≤ a) : ∃ t o, exec (.vhcfg c x) s = .next t ∧
    Flies u t c 2 a (b.word + b.xpos) r o ∧ o.occ = 1 ∧ o.lat = 2 ∧ (core t c).tracker (x.mod.toNat / 16384 % 16) =
      { (core u c).tracker (x.mod.toNat / 16384 % 16) with hist := [], r := 0, k := x.mod.toNat / 1024 % 16 + 1 } := by
  obtain ⟨t, runs, flies, -, trackers⟩ := issues_early (n := .vhcfg c x) (os := [])
    (plan := fun _ _ _ => trackerPlan (.hcfg (x.mod.toNat / 16384 % 16) (x.mod.toNat / 1024 % 16 + 1)))
    (k := (core u c).setTracker (x.mod.toNat / 16384 % 16)
      { (core u c).tracker (x.mod.toNat / 16384 % 16) with hist := [], r := 0, k := x.mod.toNat / 1024 % 16 + 1 })
    rfl ready (List.forall_mem_nil _) free (trackerPlan_clear ..) rfl ⟨rfl, rfl, rfl, rfl⟩
  refine ⟨t, _, runs, flies, rfl, rfl, ?_⟩
  rw [Core.tracker, trackers, Core.setTracker, Tab.get_set_same]
  rfl

theorem vhstep_issues (ready : Ready s u c a b x [] r) (free : Tab.get 0 (core u c).busyTo 2 ≤ a) : ∃ t o, exec (.vhstep c x) s = .next t ∧
    Flies u t c 2 a (b.word + b.xpos) r o ∧ o.occ = 1 ∧ o.lat = 2 ∧
      ∀ n < 16, (core t c).tracker n = if bit x.mod.toNat n then ((core u c).tracker n).close else (core u c).tracker n := by
  have mask (n : Nat) (hn : n < 16) : bit (bits x.mod.toNat 15 0) n = bit x.mod.toNat n := by
    rw [bits_low, bit_eq_testBit, bit_eq_testBit, Nat.testBit_mod_two_pow, decide_eq_true hn, Bool.true_and]
  obtain ⟨l, frame⟩ := hstep_frame (bits x.mod.toNat 15 0) (core u c) (List.range 16)
  obtain ⟨t, runs, flies, -, trackers⟩ := issues_early (n := .vhstep c x) (os := []) (plan := fun _ _ _ => trackerPlan (.hstep (bits x.mod.toNat 15 0)))
    (k := (List.range 16).foldl (fun k t => if bit (bits x.mod.toNat 15 0) t then k.setTracker t (k.tracker t).close else k) (core u c))
    rfl ready (List.forall_mem_nil _) free (trackerPlan_clear ..) rfl (by rw [frame]; exact ⟨rfl, rfl, rfl, rfl⟩)
  refine ⟨t, _, runs, flies, rfl, rfl, fun n hn => ?_⟩
  rw [Core.tracker, trackers, ← Core.tracker, tracker_hstep, mask n hn]
  simp only [hn, true_and]

end

/-! ## The statement -/

/-- No instruction without the working store asks for it. -/
theorem no_store {u : State} {c a occ : Nat} : false = true → StoreFree u c a occ := fun h => absurd h Bool.false_ne_true

/-- The pass of a vector instruction, from what its chain asks of its operands (R437 to R444). -/
theorem vch_issues {s u : State} {c a : Nat} {b : Block} {x : XIns} {r : Resolved} (ready : Ready s u c a b x (vchOperands s c x) r)
    {w : List Nat} (chain : Tab.get [] (core u c).chains (x.mod.toNat / 16384 % 16) = w) (some_ : w ≠ []) {srcs : List Opd} {d e f : VeOpd} {n : Nat}
    (hsrcs : (r.vals.drop 1).take (if usesSrcb w then 2 else 1) = srcs) (hd : veOpd u c (chainTout w) true (r.vals.getD 0 .bad) = d)
    (he : veOpd u c (chainTa w) false (srcs.getD 0 .bad) = e) (hf : veOpd u c (chainTb w) false (srcs.getD 1 .bad) = f)
    (hn : max (max d.sets e.sets) (if usesSrcb w = true ∧ x.mod.toNat / 4096 % 4 = 0 then f.sets else 0) = n) (dCode : d.code = 0)
    (eCode : e.code = 0) (dFits : n ≤ d.cap (chainTout w)) (eFits : n ≤ e.cap (chainTa w)) (writes : mayWrite 2 (r.vals.getD 0 .bad) = true)
    (reads : srcs.all (mayRead 2) = true) (last : usesSrcb w = true → f.code = 0 ∧ x.mod.toNat / 4096 % 4 ≠ 3 ∧
      (if x.mod.toNat / 4096 % 4 = 0 then n else if x.mod.toNat / 4096 % 4 = 1 then 1 else 128) ≤ f.cap (chainTb w))
    (clear : Clear u c 2 a (vchPlan c x.mod u a r.vals).occ (vchPlan c x.mod u a r.vals).lat (srcs.flatMap Opd.storage)
      (r.vals.getD 0 .bad).storage) :
    IssuesAs (.vch c x) s u c 2 a b r (vchPlan c x.mod u a r.vals) ∧ 0 < (vchPlan c x.mod u a r.vals).occ ∧
      (vchPlan c x.mod u a r.vals).occ ≤ (vchPlan c x.mod u a r.vals).lat := by
  have passes : (vchPlan c x.mod u a r.vals).Passes (srcs.flatMap Opd.storage) (r.vals.getD 0 .bad).storage := by
    have reach : storageCodes 2 (r.vals.getD 0 .bad) srcs = [] := by rw [storageCodes, writes, reads]; rfl
    generalize r.vals = vs at *
    cases uses : usesSrcb w
    · rw [uses] at hsrcs hn last
      have first : srcs.getD 0 .bad = vs.getD 1 .bad := by
        subst hsrcs
        match vs with
        | [] => rfl
        | [_] => rfl
        | _ :: _ :: _ => rfl
      have named : srcs = [vs.getD 1 .bad] := by
        refine hsrcs.symm.trans (vch_operands (two := false) (fun bad => ?_) (fun h => absurd h Bool.false_ne_true))
        rw [first, bad] at he
        exact veOpd_bad _ _ (he ▸ eCode)
      refine vchPlan_passes (two := false) (f := veOpd u c (chainTb w) false .bad) (n := n) chain some_ uses hd (first ▸ he) rfl dCode eCode ?_ dFits
        eFits named.symm reach fun h => absurd h Bool.false_ne_true
      rw [← hn]
      simp
    · rw [uses] at hsrcs hn last
      obtain ⟨fCode, -, -⟩ := last rfl
      have first : srcs.getD 0 .bad = vs.getD 1 .bad ∧ srcs.getD 1 .bad = vs.getD 2 .bad := by
        subst hsrcs
        match vs with
        | [] => exact ⟨rfl, rfl⟩
        | [_] => exact ⟨rfl, rfl⟩
        | [_, _] => exact ⟨rfl, rfl⟩
        | _ :: _ :: _ :: _ => exact ⟨rfl, rfl⟩
      obtain ⟨first, second⟩ := first
      rw [first] at he
      rw [second] at hf
      have named : srcs = [vs.getD 1 .bad, vs.getD 2 .bad] := by
        refine hsrcs.symm.trans (vch_operands (two := true) (fun bad => ?_) (fun _ bad => ?_))
        · rw [bad] at he
          exact veOpd_bad _ _ (he ▸ eCode)
        · rw [bad] at hf
          exact veOpd_bad _ _ (hf ▸ fCode)
      refine vchPlan_passes (two := true) (f := f) (n := n) chain some_ uses hd he hf dCode eCode ?_ dFits eFits named.symm reach fun _ => last rfl
      rw [← hn]
      simp
  exact ⟨(issues_of_plan (work := false) (n := .vch c x) (plan := vchPlan c x.mod) rfl ready passes.isFor clear no_store).1, passes.some_, passes.within⟩


/-- Settles O19: an instruction whose plan nothing refuses issues as that plan says (`issues_of_plan`), and the plan of each instruction
is read off its definition once; effects at the issue beat come before the rest of the issue (`goIssue_early`). -/
theorem enginesIssue : Obligations.EnginesIssue := by
  unfold Obligations.EnginesIssue
  refine ⟨?_, ?_, ?_⟩
  · intro s u c a b x r v narrow n N far goes slot free transform
    have transforms (i : Instr) (inv : Bool) {op : Nat}
        (runs : exec i s = guarded (decide (c < 800)) s (issue s c 0 op x [x.dst, x.srca] (nttPlan inv c x.mod))) : transform i inv := by
      rintro ready p0 p1 ⟨slot, size, size'⟩
      refine ⟨fun d gd t gt dl sl vals short dst src clear => ?_, fun d t dl sl vals long dst src apart free store => ?_⟩
      · exact issues_of_plan runs ready (by rw [vals]; exact nttPlan_tiles slot size size' short dst src) clear no_store
      · exact issues_of_free runs ready (by rw [vals]; exact nttPlan_memory slot size size' long dst src apart) free fun _ => store
    refine ⟨transforms _ false rfl, transforms _ true rfl, ?_, ?_, ?_, ?_, ?_⟩
    · intro ready g m table
      refine ⟨fun d t dl sl vals dst src apart free store => ?_, fun d gd t gt vals block hd ht clear => ?_⟩
      · exact issues_of_free (n := .aut c x) (plan := autPlan c x.mod) rfl ready (by rw [vals]; exact autPlan_isFor table dst src apart) free
          fun _ => store
      · exact issues_of_plan (n := .autt c x) (plan := auttPlan c x.mod) rfl ready (by rw [vals]; exact auttPlan_isFor table block hd ht) clear
          no_store
    · intro ready g
      refine ⟨fun odd below free => ?_, fun valid free => ?_⟩
      · exact issues_of_free (n := .gset c x) (plan := gsetPlan c x.mod) rfl ready (gsetPlan_isFor odd below _) free no_store
      · exact issues_of_free (n := .twb c x) (plan := twbPlan c x.mod) rfl ready (twbPlan_isFor valid _) free no_store
    · intro ready k l vals free
      refine ⟨fun src => ?_, fun src => ?_⟩
      · exact issues_of_free (n := .ptl c x) (plan := loadPlan 4096 11 15 (fun w => .primes (primesOfWords w)) c) rfl ready
          (by rw [vals]; exact loadPlan_isFor src fun _ => rfl) free no_store
      · exact issues_of_free (n := .kld c x) (plan := loadPlan 128 4 8 (fun w => .consts (constsOfWords w)) c) rfl ready
          (by rw [vals]; exact loadPlan_isFor src fun _ => rfl) free no_store
    · intro ready d ka kb dl al bl na nb m count lines vals dst values scales group shift enough apart free
      refine ⟨fun place fits => ?_, fun fits store => ?_⟩
      · exact issues_of_free (n := .encc c x) (plan := encPlan false c x.mod) rfl ready
          (by rw [vals]; exact encPlan_isFor (slots := false) dst values scales group shift enough apart (fun _ => place) (by simpa using fits)) free
          no_store
      · exact issues_of_free (n := .encs c x) (plan := encPlan true c x.mod) rfl ready
          (by
            rw [vals]
            exact encPlan_isFor (slots := true) dst values scales group shift enough apart (fun h => absurd h.symm Bool.false_ne_true) (by simpa using fits))
          free fun _ => store
    · rintro ready p0 p1 d t dl sl ⟨slot, size, size'⟩ vals long dst src apart free store
      exact issues_of_free (n := .encr c x) (plan := encrPlan c x.mod) rfl ready
        (by rw [vals]; exact encrPlan_isFor slot size size' long dst src apart) free fun _ => store
  · intro s u c a b x r k i v p t
    refine ⟨fun d gd ready vals hd clear => ⟨?_, ?_⟩, ?_⟩
    · exact fun opened left => xexp_issues ready vals hd clear opened left
    · exact fun set_ log tile valid => xnoise_issues ready vals hd clear set_ log tile valid
    · exact fun ready good free => xnset_issues ready good free
  · intro s u c a b x r goes m trk
    refine ⟨?_, ?_, ?_, ?_, ?_⟩
    · intro d gd ta ga tb gb ready vals la ha lb hb
      refine ⟨fun ok clear => ?_, fun ok clear => ?_⟩
      · exact issues_of_plan (n := .mma c x) (plan := mmaPlan c x.mod) rfl ready (by rw [vals]; exact mmaPlan_isFor ok la ha lb hb) clear no_store
      · exact issues_of_plan (n := .mmod c x) (plan := mmodPlan c x.mod) rfl ready (by rw [vals]; exact mmodPlan_isFor ok la ha lb hb) clear
          no_store
    · intro d gd ta ga ready vals la ha int groups clear
      exact issues_of_plan (n := .msum c x) (plan := msumPlan c x.mod) rfl ready (by rw [vals]; exact msumPlan_isFor int groups la ha) clear
        no_store
    · intro ready w bcb two dst srcs d e f n p some_ dCode eCode dFits eFits writes reads last clear
      exact vch_issues ready rfl some_ rfl rfl rfl rfl rfl dCode eCode dFits eFits writes reads last clear
    · intro ready k l vals free
      refine ⟨fun n src some_ fits ok => ?_, ?_⟩
      · exact issues_of_free (n := .vcld c x) (plan := vcldPlan c x.mod) rfl ready (by rw [vals]; exact vcldPlan_isFor src some_ fits ok) free no_store
      · intro src w opt stream p g m v f known typeP typeG typeS codes fitsG fitsM fitsV fitsF q
        have updates : (vupdPlan c u a r.vals).Updates := by
          rw [vals]
          exact vupdPlan_updates src rfl rfl rfl rfl rfl rfl rfl rfl known typeP typeG typeS codes fitsG fitsM fitsV fitsF
        exact ⟨(issues_of_free (n := .vupd c x) (plan := vupdPlan c) rfl ready updates.isFor free no_store).1, updates.lat⟩
    · exact fun ready free => ⟨vhcfg_issues ready free, vhstep_issues ready free⟩

end Sys2Proof.Machine
end

section
/-! SUPPORT. Moduli chains and key sets (R292 to R297, R350 to R357). -/

namespace Sys2Proof.Machine

open Sys2Proof


/-! ## Moduli chains (R292 to R297, R336, R337) -/

theorem writable_chainCommit : Writable E.chain_commit ⟨0x5002, 1, 4, 4, 1, 1, .cmd, 1, false, 0⟩ :=
  ⟨by decide, by decide, by decide, by decide, by decide⟩

section
variable {s u : State} {c : Nat}

theorem chainCount_size (hc : c < 256) : dictSize (E.chain_prime_count + 256 * c) = 1 := by
  have all : ∀ c < 256, dictSize (E.chain_prime_count + 256 * c) = 1 := by decide +kernel
  exact all c hc

theorem chainLog_size (hc : c < 256) : dictSize (E.chain_log2_n_max + 256 * c) = 1 := by
  have all : ∀ c < 256, dictSize (E.chain_log2_n_max + 256 * c) = 1 := by decide +kernel
  exact all c hc

/-- The count of chains is none of their entries. -/
theorem rd_noteChains {k : Nat} (other : k ≠ E.chains_registered) : rd (noteChains s) k = rd s k := rd_wr_other _ other _

/-- A write of `chain_commit` while a check runs is refused; any other has its effect. -/
theorem chainCommand {n : Instr} {via : Path} {v : Nat} (serves : Serves s E.chain_commit)
    (runs : exec n s = done s (access s (writeBytes via E.chain_commit (leBytes 1 v)) chainSem)) (hv : v = 1 ∨ v = 2) :
    (rd s E.chain_status = 1 → exec n s = .next (ended s E.chain_commit 4)) ∧
    (rd s E.chain_status ≠ 1 → exec n s = done s (ended (chainSem.eff (told s via E.chain_commit (leBytes 1 v)) via v) E.chain_commit 0)) := by
  have open_ : ¬HeldBack s via ⟨0x5002, 1, 4, 4, 1, 1, .cmd, 1, false, 0⟩ chainSem := not_heldBack (by decide) rfl
  have small : v < 256 := by omega
  refine ⟨fun busy => ?_, fun free => ?_⟩
  · refine command_refused runs serves writable_chainCommit open_ small ?_
    show (rd s E.chain_status != 1 && _) = false
    rw [busy]
    rfl
  · refine command_effect runs serves writable_chainCommit open_ small (by decide) ?_ rfl
    show (rd s E.chain_status != 1 && (v == 1 || v == 2)) = true
    rw [bne_iff_ne.2 free]
    rcases hv with rfl | rfl
    · rfl
    · rfl

/-- A release of an unknown chain, or of one that a key set uses (R294). -/
theorem releaseChain_refused (refused : chainPrimes u (rd u E.chain_id) = 0 ∨ ∃ k ∈ u.keysets, k.chain = rd u E.chain_id) :
    releaseChain u = wr u E.chain_status 10 := by
  refine if_pos (refused.imp_right ?_)
  rintro ⟨k, member, uses⟩
  exact List.any_eq_true.2 ⟨k, member, beq_iff_eq.2 uses⟩

/-- What a release leaves (R294, R337). -/
theorem releaseChain_leads (is : rd u E.chain_id = c) (hc : c < 256) (known : rd u (E.chain_prime_count + 256 * c) ≠ 0)
    (unused : ∀ k ∈ u.keysets, k.chain ≠ c) : rd (releaseChain u) E.chain_status = 9 ∧ rd (releaseChain u) (E.chain_prime_count + 256 * c) = 0 ∧
    rd (releaseChain u) (E.chain_digest + 256 * c) = 0 ∧ (releaseChain u).mem = u.mem ∧ (releaseChain u).keysets = u.keysets ∧
    ∀ d < 256, d ≠ c → rd (releaseChain u) (E.chain_prime_count + 256 * d) = rd u (E.chain_prime_count + 256 * d) := by
  have count : E.chain_prime_count = 5308417 := rfl
  have log : E.chain_log2_n_max = 5308418 := rfl
  have digest : E.chain_digest = 5308419 := rfl
  have status : E.chain_status = 5243397 := rfl
  have chains : E.chains_registered = 5243137 := rfl
  have is' : releaseChain u = wr (noteChains (clearChain u c)) E.chain_status 9 := by
    unfold releaseChain
    rw [is]
    refine if_neg ?_
    rintro (unknown | used)
    · exact known unknown
    · obtain ⟨k, member, uses⟩ := List.any_eq_true.1 used
      exact unused k member (beq_iff_eq.1 uses)
  rw [is']
  refine ⟨rd_wr_same .., ?_, ?_, rfl, rfl, fun d _ other => ?_⟩
  · rw [rd_wr_other _ (by omega), rd_noteChains (by omega), clearChain, rd_wr_other _ (by omega), rd_wr_other _ (by omega), rd_wr_same, Nat.zero_mod]
  · rw [rd_wr_other _ (by omega), rd_noteChains (by omega), clearChain, rd_wr_same, Nat.zero_mod]
  · rw [rd_wr_other _ (by omega), rd_noteChains (by omega), clearChain, rd_wr_other _ (by omega), rd_wr_other _ (by omega), rd_wr_other _ (by omega)]

end

/-! ### The record of a chain (R296) -/

section
variable {c n : Nat} {l : List Nat}

/-- The words of entry i of a record. -/
def recordEntry (c n : Nat) (l : List Nat) (i : Nat) : List Nat := if i < l.length then chainEntry c n i (l.getD i 0) else List.replicate 8 0

theorem recordEntry_length (i : Nat) : (recordEntry c n l i).length = 8 := by
  unfold recordEntry
  split
  · rfl
  · rfl

theorem chainRecordBytes_eq : chainRecordBytes c n l = (List.range 64).flatMap fun i => bytesOf (recordEntry c n l i) := by
  unfold chainRecordBytes bytesOf
  rw [List.flatMap_assoc]
  rfl

theorem entryBytes_length (i : Nat) : (bytesOf (recordEntry c n l i)).length = 64 := by rw [bytesOf_length, recordEntry_length]

theorem chainRecordBytes_length : (chainRecordBytes c n l).length = 4096 := by
  rw [chainRecordBytes_eq, List.length_flatMap, List.map_congr_left fun i _ => entryBytes_length i]
  rfl

/-- A word of the record, where the record stands in memory. -/
theorem rdNat_record {t : State} {a i j : Nat} (stands : rdBytes t a 4096 = chainRecordBytes c n l) (hi : i < 64) (hj : j < 8) :
    rdNat t (a + 64 * i + 8 * j) 8 = (recordEntry c n l i).getD j 0 % 2 ^ 64 := by
  have entry : rdBytes t (a + 64 * i) 64 = bytesOf (recordEntry c n l i) := by
    rw [← take_drop_rdBytes t a (m := 4096) (by omega), stands, chainRecordBytes_eq,
      take_drop_flatMap _ 64 (fun i _ => entryBytes_length i) (by rw [List.length_range]; exact hi), List.getElem_range]
  rw [← word64_bytesOf (by rw [recordEntry_length]; exact hj), ← entry, word64, take_drop_rdBytes t _ (by omega)]
  rfl

end

/-- The reciprocal of a modulus below 2^61 fits its word (R296). -/
theorem reciprocal_lt {q : Nat} (below : q < 2 ^ 61) : 2 ^ (2 * bitLen q) / q < 2 ^ 64 := by
  unfold bitLen
  split
  · rename_i zero
    rw [zero]
    decide
  · rename_i some_
    have low := Nat.log2_self_le some_
    have few : Nat.log2 q < 61 := (Nat.log2_lt some_).2 below
    rw [Nat.div_lt_iff_lt_mul (Nat.pos_of_ne_zero some_)]
    calc 2 ^ (2 * (Nat.log2 q + 1)) = 2 ^ (Nat.log2 q + 2) * 2 ^ Nat.log2 q := by rw [← pow_add]; congr 1; omega
      _ ≤ 2 ^ (Nat.log2 q + 2) * q := Nat.mul_le_mul_left _ low
      _ < 2 ^ 64 * q := Nat.mul_lt_mul_of_pos_right (Nat.pow_lt_pow_right (by decide) (by omega)) (Nat.pos_of_ne_zero some_)

/-! ### The check of the staged chain (R293) -/

theorem hasTwice_iff {l : List Nat} : hasTwice l = true ↔ ¬l.Nodup := by
  induction l with
  | nil => exact iff_of_false (by decide) (not_not.2 List.nodup_nil)
  | cons a l ih =>
    rw [hasTwice, Bool.or_eq_true, ih, List.contains_iff_mem, List.nodup_cons]
    tauto

section
variable {s : State} {c n count : Nat} {l : List Nat} (chain : rd s E.chain_id = c) (degree : rd s E.log2_n_max = n) (number : rd s E.prime_count = count)
  (staged : (List.range count).map (fun i => rd s (E.chain_stage_primes + i)) = l)
include chain degree number staged

/-- The code of the first check that fails (R293). -/
theorem chainCheck_eq : chainCheck s = if rd s (E.chain_prime_count + 256 * c) ≠ 0 then 3
    else if ¬(1 ≤ count ∧ count ≤ 64 ∧ 10 ≤ n ∧ n ≤ 17) then 4
    else if ¬∀ q ∈ l, q < 2 ^ 61 ∧ q % 2 = 1 then 5
    else if ¬∀ q ∈ l, isPrime q = true then 6
    else if ¬∀ q ∈ l, q % 2 ^ (n + 1) = 1 then 7
    else if ¬l.Nodup then 8 else 2 := by
  have stagedPrimes_ : stagedPrimes s = l := by
    unfold stagedPrimes
    rw [number, staged]
  have sized : (l.any fun q => decide (2 ^ 61 ≤ q ∨ q % 2 = 0)) = true ↔ ¬∀ q ∈ l, q < 2 ^ 61 ∧ q % 2 = 1 := by
    rw [List.any_eq_true]
    push Not
    refine exists_congr fun q => and_congr_right fun _ => ?_
    rw [decide_eq_true_iff]
    omega
  have primes : (l.any fun q => !isPrime q) = true ↔ ¬∀ q ∈ l, isPrime q = true := by
    rw [List.any_eq_true]
    push Not
    simp
  have ones : (l.any fun q => q % 2 ^ (n + 1) != 1) = true ↔ ¬∀ q ∈ l, q % 2 ^ (n + 1) = 1 := by
    rw [List.any_eq_true]
    push Not
    simp
  unfold chainCheck chainPrimes
  dsimp only
  rw [stagedPrimes_, chain, degree, number]
  simp only [sized, primes, ones, hasTwice_iff, Bool.not_eq_true', decide_eq_false_iff_not]

/-- What the registration of a sound chain leaves (R295, R296, R337). -/
theorem registerChain_leads (hc : c < 256) (some_ : count ≤ 64) (small : n ≤ 17) (below : ∀ q ∈ l, q < 2 ^ 61) :
    rd (registerChain s) (E.chain_prime_count + 256 * c) = count ∧ rd (registerChain s) (E.chain_log2_n_max + 256 * c) = n ∧
    (∀ i < count, rdNat (registerChain s) (chainRecord c + 64 * i) 8 = l.getD i 0 ∧
      rdNat (registerChain s) (chainRecord c + 64 * i + 8) 8 = 2 ^ (2 * bitLen (l.getD i 0)) / l.getD i 0) ∧
    ∀ a, a < chainRecord c ∨ chainRecord c + 4096 ≤ a → rdByte (registerChain s) a = rdByte s a := by
  have primes : E.chain_prime_count = 5308417 := rfl
  have log : E.chain_log2_n_max = 5308418 := rfl
  have digest : E.chain_digest = 5308419 := rfl
  have chains : E.chains_registered = 5243137 := rfl
  have length : l.length = count := by rw [← staged, List.length_map, List.length_range]
  have stagedPrimes_ : stagedPrimes s = l := by
    unfold stagedPrimes
    rw [number, staged]
  have size : (chainRecordBytes c n l).length = 4096 := chainRecordBytes_length
  obtain ⟨w, forwarded⟩ := forwardInput_eq s 9 (chainRecordBytes c n l)
  obtain ⟨v, stored⟩ := hbmStore_eq (s := { s with sent := w }) (chainRecord c) (chainRecordBytes c n l)
  have is : registerChain s = noteChains (wr (wr (wr { wrBytes { s with sent := w } (chainRecord c) (chainRecordBytes c n l) with hbm := v }
      (E.chain_prime_count + 256 * c) count) (E.chain_log2_n_max + 256 * c) n)
      (E.chain_digest + 256 * c) (leNat (sm3 (chainRecordBytes c n l)))) := by
    unfold registerChain
    dsimp only
    have kept : rd (hbmStore (forwardInput s 9 (chainRecordBytes c n l)) (chainRecord c) (chainRecordBytes c n l)) E.prime_count = count := by
      rw [rd_hbmStore, forwarded]
      exact number
    rw [stagedPrimes_, chain, degree, kept, forwarded, stored]
  rw [is]
  refine ⟨?_, ?_, fun i hi => ?_, fun a outside => ?_⟩
  · rw [rd_noteChains (by omega), rd_wr_other _ (by omega), rd_wr_other _ (by omega), rd_wr_same, chainCount_size hc, Nat.mod_eq_of_lt]
    exact Nat.lt_of_le_of_lt some_ (by decide)
  · rw [rd_noteChains (by omega), rd_wr_other _ (by omega), rd_wr_same, chainLog_size hc, Nat.mod_eq_of_lt]
    exact Nat.lt_of_le_of_lt small (by decide)
  · have stands : rdBytes (wrBytes { s with sent := w } (chainRecord c) (chainRecordBytes c n l)) (chainRecord c) 4096 = chainRecordBytes c n l := by
      rw [← size]
      exact rdBytes_wrBytes ..
    have entry : recordEntry c n l i = chainEntry c n i (l.getD i 0) := if_pos (by omega)
    have modulus : l.getD i 0 < 2 ^ 61 := by
      rw [List.getD_eq_getElem _ _ (by omega)]
      exact below _ (List.getElem_mem _)
    have first := rdNat_record (j := 0) stands (Nat.lt_of_lt_of_le hi some_) (by decide)
    have second := rdNat_record (j := 1) stands (Nat.lt_of_lt_of_le hi some_) (by decide)
    rw [entry] at first second
    exact ⟨first.trans (Nat.mod_eq_of_lt (Nat.lt_trans modulus (by decide))), second.trans (Nat.mod_eq_of_lt (reciprocal_lt modulus))⟩
  · refine (rdByte_wrBytes _ _ _ a).trans (if_neg ?_)
    rw [size]
    omega

end


/-! ## Key sets (R350 to R357, R380 to R382) -/

theorem writable_keysetCmd : Writable E.keyset_cmd ⟨0x5004, 1, 3, 3, 1, 1, .cmd, 1, false, 0⟩ :=
  ⟨by decide, by decide, by decide, by decide, by decide⟩

theorem writable_queryTag : Writable E.query_tag ⟨0x5006, 1, 1, 1, 4, 8, .rw, 1, false, 0⟩ :=
  ⟨by decide, by decide, by decide, by decide, by decide⟩

section
variable {s u : State} {tag : Nat}

/-- A write of `keyset_cmd` while a registration runs is refused; any other has its effect. -/
theorem keysetCommand {n : Instr} {via : Path} {v : Nat} (serves : Serves s E.keyset_cmd)
    (runs : exec n s = done s (access s (writeBytes via E.keyset_cmd (leBytes 1 v)) keysetSem)) (hv : v = 1 ∨ v = 2) :
    (rd s E.keyset_status = 1 → exec n s = .next (ended s E.keyset_cmd 4)) ∧
    (rd s E.keyset_status ≠ 1 → exec n s = done s (ended (keysetSem.eff (told s via E.keyset_cmd (leBytes 1 v)) via v) E.keyset_cmd 0)) := by
  have open_ : ¬HeldBack s via ⟨0x5004, 1, 3, 3, 1, 1, .cmd, 1, false, 0⟩ keysetSem := not_heldBack (by decide) rfl
  have small : v < 256 := by omega
  refine ⟨fun busy => ?_, fun free => ?_⟩
  · refine command_refused runs serves writable_keysetCmd open_ small ?_
    show (rd s E.keyset_status != 1 && _) = false
    rw [busy]
    rfl
  · refine command_effect runs serves writable_keysetCmd open_ small (by decide) ?_ rfl
    show (rd s E.keyset_status != 1 && (v == 1 || v == 2)) = true
    rw [bne_iff_ne.2 free]
    rcases hv with rfl | rfl
    · rfl
    · rfl

/-- A release of a key set that is not there, or that a context holds open (R355). -/
theorem releaseKeySet_refused (refused : ¬(u.keysets.any (·.tag == rd u E.keyset_tag) = true ∧ openContexts u (rd u E.keyset_tag) = 0)) :
    releaseKeySet u = wr u E.keyset_status 11 := by
  refine if_pos ?_
  rw [Bool.not_eq_true']
  by_cases there : u.keysets.any (·.tag == rd u E.keyset_tag) = true
  · exact .inr fun closed => refused ⟨there, closed⟩
  · exact .inl (eq_false_of_ne_true there)

/-- Spaces of the key store that are filled with zeros: nothing else changes in memory. -/
theorem rdByte_zeroSpaces (l : List KeySet) (s : State) (a : Nat) :
    rdByte (l.foldl (fun t k => zeroFill t (65536 * k.base) (65536 * (k.base + k.units))) s) a =
      if ∃ k ∈ l, 65536 * k.base ≤ a ∧ a < 65536 * (k.base + k.units) then 0 else rdByte s a := by
  induction l generalizing s with
  | nil => simp
  | cons k l ih =>
    rw [List.foldl_cons, ih, rdByte_zeroFill]
    by_cases later : ∃ k ∈ l, 65536 * k.base ≤ a ∧ a < 65536 * (k.base + k.units)
    · obtain ⟨j, member, inside⟩ := later
      rw [if_pos ⟨j, member, inside⟩, if_pos ⟨j, .tail _ member, inside⟩]
    · rw [if_neg later]
      refine if_congr ⟨fun here => ⟨k, .head _, here⟩, fun ⟨j, member, inside⟩ => ?_⟩ rfl rfl
      rcases List.mem_cons.1 member with rfl | m
      · exact inside
      · exact absurd ⟨j, m, inside⟩ later

theorem keysets_zeroSpaces (l : List KeySet) (s : State) :
    (l.foldl (fun t k => zeroFill t (65536 * k.base) (65536 * (k.base + k.units))) s).keysets = s.keysets :=
  List.foldlRecOn (motive := fun u : State => u.keysets = s.keysets) _ _ rfl fun _ kept _ _ => kept

/-- What a release leaves (R355, R189). -/
theorem releaseKeySet_leads (is : rd u E.keyset_tag = tag) (there : u.keysets.any (·.tag == tag) = true) (closed : openContexts u tag = 0) :
    rd (releaseKeySet u) E.keyset_status = 10 ∧ (releaseKeySet u).keysets = u.keysets.filter (fun k => k.tag ≠ tag) ∧
    ∀ b, rdByte (releaseKeySet u) b = if ∃ k ∈ u.keysets, k.tag = tag ∧ 65536 * k.base ≤ b ∧ b < 65536 * (k.base + k.units) then 0 else rdByte u b := by
  have is' : releaseKeySet u = wr (removeKeySets u (·.tag == tag)) E.keyset_status 10 := by
    unfold releaseKeySet
    rw [is]
    dsimp only
    rw [there]
    refine if_neg ?_
    rintro (missing | open_)
    · exact absurd missing (by decide)
    · exact open_ closed
  rw [is']
  refine ⟨rd_wr_same .., ?_, fun b => ?_⟩
  · show (List.foldl _ u _).keysets.filter _ = _
    rw [keysets_zeroSpaces]
    refine List.filter_congr fun k _ => ?_
    rw [decide_not]
    rfl
  · refine (rdByte_zeroSpaces _ u b).trans (if_congr (exists_congr fun k => ?_) rfl rfl)
    rw [List.mem_filter, and_assoc, beq_iff_eq]

/-! ### Registrations (R353, R356) -/

variable {p a : Nat} {pt : List Byte}

theorem registerKeySet_outside (addr : rd u E.keyset_package_addr = a) (none_ : sharePart u a = none) : registerKeySet u = wr u E.keyset_status 3 := by
  unfold registerKeySet
  rw [addr]
  dsimp only
  rw [none_]

section
variable (addr : rd u E.keyset_package_addr = a) (share : sharePart u a = some p)
  (opens : (if (openPackage u p 1 a).2.1 = 0 then pkgPlain u a (openPackage u p 1 a).2.2 else none) = some pt)
include addr share opens

theorem registerKeySet_unsound (unsound : (checkKeySet (openPackage u p 1 a).1 p pt).2 = none) :
    registerKeySet u = wr (openPackage u p 1 a).1 E.keyset_status (checkKeySet (openPackage u p 1 a).1 p pt).1 := by
  unfold registerKeySet
  rw [addr]
  dsimp only
  rw [share]
  dsimp only
  rw [opens]
  dsimp only
  rw [unsound]

theorem registerKeySet_leads {v : KeySet} (sound : (checkKeySet (openPackage u p 1 a).1 p pt).2 = some v) :
    rd (registerKeySet u) E.keyset_status = 2 ∧ rd (registerKeySet u) E.keyset_tag = cut E.keyset_tag v.tag ∧
    (registerKeySet u).keysets = (openPackage u p 1 a).1.keysets ++ [v] ∧ rdBytes (registerKeySet u) (65536 * v.base) pt.length = pt := by
  obtain ⟨w, forwarded⟩ := forwardInput_eq (openPackage u p 1 a).1 9 pt
  obtain ⟨h, stored⟩ := hbmStore_eq (s := { (openPackage u p 1 a).1 with sent := w }) (65536 * v.base) pt
  have is : registerKeySet u = wr (wr (noteKeySets { wrBytes { (openPackage u p 1 a).1 with sent := w } (65536 * v.base) pt with
      hbm := h, keysets := (openPackage u p 1 a).1.keysets ++ [v] }) E.keyset_tag v.tag) E.keyset_status 2 := by
    unfold registerKeySet
    rw [addr]
    dsimp only
    rw [share]
    dsimp only
    rw [opens]
    dsimp only
    rw [sound]
    dsimp only
    rw [forwarded, stored]
    rfl
  rw [is]
  exact ⟨rd_wr_same .., (rd_wr_other _ (by decide) _).trans (rd_wr_same ..), rfl, rdBytes_wrBytes { (openPackage u p 1 a).1 with sent := w } ..⟩

end

/-! ### Queries (R382) -/

variable {q : Nat}

/-- The entries that a query answers. -/
theorem queryKeySet_none (missing : u.keysets.find? (·.tag == q) = none) :
    rd (queryKeySet u q) E.query_found = 0 ∧ rd (queryKeySet u q) E.query_digest = 0 ∧ rd (queryKeySet u q) E.query_tag = cut E.query_tag q := by
  have is : queryKeySet u q = [E.query_found, E.query_chain, E.query_log2_n, E.query_keys, E.query_digest, E.query_open_contexts,
      E.query_partition].foldl (fun u k => wr u k 0) (wr u E.query_tag q) := by
    unfold queryKeySet
    dsimp only
    rw [show (wr u E.query_tag q).keysets = u.keysets from rfl, missing]
  rw [is]
  simp only [List.foldl_cons, List.foldl_nil]
  refine ⟨?_, ?_, ?_⟩
  · iterate 6 rw [rd_wr_other _ (by decide)]
    exact (rd_wr_same ..).trans (Nat.zero_mod _)
  · iterate 2 rw [rd_wr_other _ (by decide)]
    exact (rd_wr_same ..).trans (Nat.zero_mod _)
  · iterate 7 rw [rd_wr_other _ (by decide)]
    exact rd_wr_same ..

theorem queryKeySet_found {v : KeySet} (there : u.keysets.find? (·.tag == q) = some v) :
    rd (queryKeySet u q) E.query_found = 1 ∧ rd (queryKeySet u q) E.query_chain = cut E.query_chain v.chain ∧
    rd (queryKeySet u q) E.query_partition = cut E.query_partition v.part ∧
    rd (queryKeySet u q) E.query_open_contexts = cut E.query_open_contexts (openContexts u q) ∧
    rd (queryKeySet u q) E.query_tag = cut E.query_tag q := by
  have is : queryKeySet u q = wr (wr (wr (wr (wr (wr (wr (wr u E.query_tag q) E.query_found 1) E.query_chain v.chain) E.query_log2_n v.logn)
      E.query_keys v.keys.length) E.query_digest v.digest) E.query_open_contexts (openContexts u q)) E.query_partition v.part := by
    unfold queryKeySet
    dsimp only
    rw [show (wr u E.query_tag q).keysets = u.keysets from rfl, there]
    rfl
  rw [is]
  refine ⟨?_, ?_, rd_wr_same .., ?_, ?_⟩
  · iterate 6 rw [rd_wr_other _ (by decide)]
    exact rd_wr_same ..
  · iterate 5 rw [rd_wr_other _ (by decide)]
    exact rd_wr_same ..
  · rw [rd_wr_other _ (by decide)]
    exact rd_wr_same ..
  · iterate 7 rw [rd_wr_other _ (by decide)]
    exact rd_wr_same ..

/-- A query changes neither memory nor the key sets. -/
theorem queryKeySet_keeps : (queryKeySet u q).mem = u.mem ∧ (queryKeySet u q).keysets = u.keysets := by
  unfold queryKeySet
  dsimp only
  split
  · exact ⟨rfl, rfl⟩
  · exact ⟨rfl, rfl⟩

end


/-! ## The statement's parts -/

/-- The commands of moduli chains, and the end of a check. -/
theorem chains_register (s : State) :
    let c := rd s E.chain_id
    let n := rd s E.log2_n_max
    let count := rd s E.prime_count
    let l := (List.range count).map fun i => rd s (E.chain_stage_primes + i)
    let tells := fun (v : Nat) => exec .chainCommitDone s = .next (wr s E.chain_status v)
    let known := rd s (E.chain_prime_count + 256 * c) ≠ 0
    let inRange := 1 ≤ count ∧ count ≤ 64 ∧ 10 ≤ n ∧ n ≤ 17
    let sized := ∀ q ∈ l, q < 2 ^ 61 ∧ q % 2 = 1
    let primes := ∀ q ∈ l, isPrime q = true
    let ones := ∀ q ∈ l, q % 2 ^ (n + 1) = 1
    c < 256 →
    (∀ via, Serves s E.chain_commit →
      let go := fun (n : Instr) (v : Nat) (u : State → State) =>
        (rd s E.chain_status = 1 → exec n s = .next (ended s E.chain_commit 4)) ∧
        (rd s E.chain_status ≠ 1 → Accepts n s E.chain_commit (u (told s via E.chain_commit (leBytes 1 v))))
      go (.chainCommit via) 1 (fun u => wr u E.chain_status 1) ∧
      (¬known ∨ (∃ k ∈ s.keysets, k.chain = c) → go (.chainRelease via) 2 (fun u => wr u E.chain_status 10)) ∧
      (rd s E.chain_status ≠ 1 → known → (∀ k ∈ s.keysets, k.chain ≠ c) → Leads (.chainRelease via) s fun t =>
        result t = 0 ∧ rd t E.chain_status = 9 ∧ rd t (E.chain_prime_count + 256 * c) = 0 ∧
        rd t (E.chain_digest + 256 * c) = 0 ∧ t.mem = s.mem ∧ t.keysets = s.keysets ∧
        ∀ d < 256, d ≠ c → rd t (E.chain_prime_count + 256 * d) = rd s (E.chain_prime_count + 256 * d))) ∧
    (rd s E.chain_status ≠ 1 → Stays .chainCommitDone s) ∧
    (rd s E.chain_status = 1 →
      (known → tells 3) ∧ (¬known → ¬inRange → tells 4) ∧ (¬known → inRange → ¬sized → tells 5) ∧
      (¬known → inRange → sized → ¬primes → tells 6) ∧ (¬known → inRange → sized → primes → ¬ones → tells 7) ∧
      (¬known → inRange → sized → primes → ones → ¬l.Nodup → tells 8) ∧
      (¬known → inRange → sized → primes → ones → l.Nodup → Leads .chainCommitDone s fun t =>
        rd t E.chain_status = 2 ∧ rd t (E.chain_prime_count + 256 * c) = count ∧ rd t (E.chain_log2_n_max + 256 * c) = n ∧
        (∀ i < count, rdNat t (chainRecord c + 64 * i) 8 = l.getD i 0 ∧
          rdNat t (chainRecord c + 64 * i + 8) 8 = 2 ^ (2 * bitLen (l.getD i 0)) / l.getD i 0) ∧
        ∀ a, a < chainRecord c ∨ chainRecord c + 4096 ≤ a → rdByte t a = rdByte s a)) := by
  intro c n count l tells known inRange sized primes ones hc
  have check := chainCheck_eq (s := s) (c := c) (n := n) (count := count) (l := l) rfl rfl rfl rfl
  refine ⟨fun via serves => ?_, fun still => ?_, fun runs => ?_⟩
  · obtain ⟨busy, commits⟩ := chainCommand (n := .chainCommit via) (via := via) serves rfl (.inl rfl)
    obtain ⟨busy', releases⟩ := chainCommand (n := .chainRelease via) (via := via) serves rfl (.inr rfl)
    obtain ⟨l₁, told₁⟩ := told_eq (s := s) via E.chain_commit (leBytes 1 1)
    obtain ⟨l₂, told₂⟩ := told_eq (s := s) via E.chain_commit (leBytes 1 2)
    refine ⟨⟨busy, fun free => ?_⟩, fun refused => ⟨busy', fun free => ?_⟩, fun free there unused => ?_⟩
    · exact accepts_of_effect (commits free) rfl (by rw [told₁]; rfl)
    · refine accepts_of_effect (releases free) ?_ (by rw [told₂]; rfl)
      refine releaseChain_refused ?_
      rw [told₂]
      exact refused.imp_left not_not.1
    · refine leads_ended (releases free) ?_
      rw [told₂]
      exact releaseChain_leads (u := { s with sent := l₂ }) rfl hc there unused
  · exact (done_eq (s := s) (t := chainDone s) (by rw [chainDone, if_pos still])).trans (by rw [chainDone, if_pos still])
  · have other {v : Nat} (is : chainCheck s = v) (ne : v ≠ 2) : tells v := by
      have ends : chainDone s = wr s E.chain_status v := by
        unfold chainDone
        rw [if_neg (not_not.2 runs)]
        dsimp only
        rw [is, if_neg ne]
      show done s (chainDone s) = _
      rw [ends]
      rfl
    refine ⟨fun a => other (check.trans (if_pos a)) (by decide), fun a b => other ?_ (by decide), fun a b d => other ?_ (by decide),
      fun a b d e => other ?_ (by decide), fun a b d e f => other ?_ (by decide), fun a b d e f g => other ?_ (by decide), fun a b d e f g => ?_⟩
    · rw [check, if_neg a, if_pos b]
    · rw [check, if_neg a, if_neg (not_not.2 b), if_pos d]
    · rw [check, if_neg a, if_neg (not_not.2 b), if_neg (not_not.2 d), if_pos e]
    · rw [check, if_neg a, if_neg (not_not.2 b), if_neg (not_not.2 d), if_neg (not_not.2 e), if_pos f]
    · rw [check, if_neg a, if_neg (not_not.2 b), if_neg (not_not.2 d), if_neg (not_not.2 e), if_neg (not_not.2 f), if_pos g]
    · have is : chainCheck s = 2 := by
        rw [check, if_neg a, if_neg (not_not.2 b), if_neg (not_not.2 d), if_neg (not_not.2 e), if_neg (not_not.2 f), if_neg (not_not.2 g)]
      have ends : chainDone s = wr (registerChain s) E.chain_status 2 := by
        unfold chainDone
        rw [if_neg (not_not.2 runs)]
        dsimp only
        rw [is, if_pos rfl]
      obtain ⟨-, most, -, small⟩ := b
      obtain ⟨number, degree, record, frame⟩ := registerChain_leads (s := s) (c := c) (n := n) (count := count) (l := l) rfl rfl rfl rfl hc most small
        (fun q member => (d q member).1)
      have runs' : exec .chainCommitDone s = done s (wr (registerChain s) E.chain_status 2) := congrArg (done s) ends
      generalize registerChain s = w at number degree record frame runs'
      refine leads_of_done runs' ?_
      have count_ : E.chain_prime_count = 5308417 := rfl
      have degree_ : E.chain_log2_n_max = 5308418 := rfl
      have status_ : E.chain_status = 5243397 := rfl
      have countKept : E.chain_prime_count + 256 * c ≠ E.chain_status := by omega
      have degreeKept : E.chain_log2_n_max + 256 * c ≠ E.chain_status := by omega
      exact ⟨rd_wr_same w E.chain_status 2, (rd_wr_other w countKept 2).trans number, (rd_wr_other w degreeKept 2).trans degree, record, frame⟩

/-- The commands of key sets, and the end of a registration. -/
theorem keysets_register (s : State) :
    let tag := rd s E.keyset_tag
    let held := s.keysets.any (·.tag == tag) = true ∧ openContexts s tag = 0
    let a := rd s E.keyset_package_addr
    (∀ via, Serves s E.keyset_cmd →
      let go := fun (n : Instr) (v : Nat) (u : State → State) =>
        (rd s E.keyset_status = 1 → exec n s = .next (ended s E.keyset_cmd 4)) ∧
        (rd s E.keyset_status ≠ 1 → Accepts n s E.keyset_cmd (u (told s via E.keyset_cmd (leBytes 1 v))))
      go (.keysetRegister via) 1 (fun u => wr u E.keyset_status 1) ∧
      (¬held → go (.keysetRelease via) 2 (fun u => wr u E.keyset_status 11)) ∧
      (held → rd s E.keyset_status ≠ 1 → Leads (.keysetRelease via) s fun t => result t = 0 ∧ rd t E.keyset_status = 10 ∧
        t.keysets = s.keysets.filter (fun k => k.tag ≠ tag) ∧
        ∀ b, rdByte t b = if ∃ k ∈ s.keysets, k.tag = tag ∧ 65536 * k.base ≤ b ∧ b < 65536 * (k.base + k.units) then 0
          else rdByte s b)) ∧
    (rd s E.keyset_status ≠ 1 → Stays .keysetRegisterDone s) ∧
    (rd s E.keyset_status = 1 → sharePart s a = none →
      exec .keysetRegisterDone s = .next (wr s E.keyset_status 3)) ∧
    (∀ p pt, rd s E.keyset_status = 1 → sharePart s a = some p →
      let r := openPackage s p 1 a
      (if r.2.1 = 0 then pkgPlain s a r.2.2 else none) = some pt →
      let c := checkKeySet r.1 p pt
      (c.2 = none → exec .keysetRegisterDone s = .next { wr r.1 E.keyset_status c.1 with pending := s.pending }) ∧
      ∀ v, c.2 = some v → Leads .keysetRegisterDone s fun t => rd t E.keyset_status = 2 ∧
        rd t E.keyset_tag = cut E.keyset_tag v.tag ∧ t.keysets = r.1.keysets ++ [v] ∧
        rdBytes t (65536 * v.base) pt.length = pt) := by
  intro tag held a
  have starts (runs : rd s E.keyset_status = 1) : exec .keysetRegisterDone s = done s (registerKeySet s) := by
    show done s (keysetDone s) = _
    rw [keysetDone, if_pos runs]
  refine ⟨fun via serves => ?_, fun still => ?_, fun runs none_ => ?_, fun p pt runs share => ?_⟩
  · obtain ⟨busy, registers⟩ := keysetCommand (n := .keysetRegister via) (via := via) serves rfl (.inl rfl)
    obtain ⟨busy', releases⟩ := keysetCommand (n := .keysetRelease via) (via := via) serves rfl (.inr rfl)
    obtain ⟨l₁, told₁⟩ := told_eq (s := s) via E.keyset_cmd (leBytes 1 1)
    obtain ⟨l₂, told₂⟩ := told_eq (s := s) via E.keyset_cmd (leBytes 1 2)
    refine ⟨⟨busy, fun free => ?_⟩, fun refused => ⟨busy', fun free => ?_⟩, fun ⟨there, closed⟩ free => ?_⟩
    · exact accepts_of_effect (registers free) rfl (by rw [told₁]; rfl)
    · refine accepts_of_effect (releases free) ?_ (by rw [told₂]; rfl)
      refine releaseKeySet_refused ?_
      rw [told₂]
      exact refused
    · refine leads_ended (releases free) ?_
      rw [told₂]
      exact releaseKeySet_leads (u := { s with sent := l₂ }) rfl there closed
  · show done s (keysetDone s) = _
    rw [keysetDone, if_neg still]
    rfl
  · rw [starts runs, registerKeySet_outside rfl none_]
    rfl
  · intro r opens c
    refine ⟨fun unsound => ?_, fun v sound => ?_⟩
    · rw [starts runs, registerKeySet_unsound rfl share opens unsound]
      rfl
    · exact leads_of_done (u := registerKeySet s) (starts runs) (registerKeySet_leads rfl share opens sound)

/-- A query of a key set (R382). -/
theorem keysets_query (s : State) : ∀ via q, q < 2 ^ 64 → Serves s E.query_tag → Leads (.keysetQuery via (leBytes 8 q)) s fun t => result t = 0 ∧
    rd t E.query_tag = q ∧ t.mem = s.mem ∧ t.keysets = s.keysets ∧
    (s.keysets.find? (·.tag == q) = none → rd t E.query_found = 0 ∧ rd t E.query_digest = 0) ∧
    ∀ v, s.keysets.find? (·.tag == q) = some v → rd t E.query_found = 1 ∧ rd t E.query_chain = cut E.query_chain v.chain ∧
      rd t E.query_partition = cut E.query_partition v.part ∧
      rd t E.query_open_contexts = cut E.query_open_contexts (openContexts s q) := by
  intro via q small serves
  have runs := command_effect (n := .keysetQuery via (leBytes 8 q)) (via := via) (m := querySem) rfl serves writable_queryTag
    (not_heldBack (by decide) rfl) (v := q) small (by decide) rfl rfl
  obtain ⟨l, told_⟩ := told_eq (s := s) via E.query_tag (leBytes 8 q)
  refine leads_ended (u := queryKeySet (told s via E.query_tag (leBytes 8 q)) q) runs ?_
  rw [told_]
  obtain ⟨mem, keysets⟩ := queryKeySet_keeps (u := { s with sent := l }) (q := q)
  have whole : cut E.query_tag q = q := Nat.mod_eq_of_lt small
  refine ⟨?_, mem, keysets, fun missing => ?_, fun v there => ?_⟩
  · rcases found : s.keysets.find? (·.tag == q) with _ | v
    · obtain ⟨-, -, tag⟩ := queryKeySet_none (u := { s with sent := l }) found
      exact tag.trans whole
    · obtain ⟨-, -, -, -, tag⟩ := queryKeySet_found (u := { s with sent := l }) found
      exact tag.trans whole
  · obtain ⟨none_, digest, -⟩ := queryKeySet_none (u := { s with sent := l }) missing
    exact ⟨none_, digest⟩
  · obtain ⟨one, chain, part, contexts, -⟩ := queryKeySet_found (u := { s with sent := l }) there
    exact ⟨one, chain, part, contexts⟩

/-- Settles O32: each command of a chain or a key set is refused while a check runs and has its effect otherwise; the end of a check
tells the first check of R293 that fails, or registers the chain's entries and record; the end of a registration stores a package
that opens and passes R353. -/
theorem keysRegister : Obligations.KeysRegister := by
  refine ⟨chains_register, fun s => ?_⟩
  obtain ⟨commands, stays, outside, opened⟩ := keysets_register s
  exact ⟨commands, stays, outside, opened, keysets_query s⟩

end Sys2Proof.Machine
end

section
/-! SUPPORT. What the host reaches (R645 to R656, R691, R737, R738). -/

namespace Sys2Proof.Machine

open Sys2Proof


/-! ## Images (R730, R731) -/

section
variable {h : List Byte} {count n : Nat}

/-- What a header says of section k. -/
def sectionOf (h : List Byte) (k : Nat) : ImageSection :=
  ⟨leNat ((h.drop (16 + 48 * k)).take 4), leNat ((h.drop (20 + 48 * k)).take 4), leNat ((h.drop (24 + 48 * k)).take 1),
    (h.drop (32 + 48 * k)).take 32⟩

theorem imageSections_eq (number : leNat ((h.drop 9).take 1) = count) (few : count ≤ 8) :
    imageSections h = (List.range count).map (sectionOf h) := by
  unfold imageSections
  rw [number, Nat.min_eq_right few]
  refine List.map_congr_left fun k _ => ?_
  unfold sectionOf
  simp only [List.drop_drop]
  rw [show 20 + 48 * k = 16 + 48 * k + 4 by omega, show 24 + 48 * k = 16 + 48 * k + 8 by omega, show 32 + 48 * k = 16 + 48 * k + 16 by omega]

/-- Sections after section i. -/
theorem mem_drop_sections {i : Nat} {e : ImageSection} : e ∈ ((List.range count).map (sectionOf h)).drop (i + 1) ↔
    ∃ j < count, i < j ∧ e = sectionOf h j := by
  rw [List.mem_drop_iff_getElem]
  simp only [List.length_map, List.length_range, List.getElem_map, List.getElem_range]
  constructor
  · rintro ⟨j, inside, rfl⟩
    exact ⟨i + 1 + j, by omega, by omega, congrArg _ (by omega)⟩
  · rintro ⟨j, inside, after, rfl⟩
    exact ⟨j - (i + 1), by omega, congrArg _ (by omega)⟩

theorem sectionsFit_iff (number : leNat ((h.drop 9).take 1) = count) : sectionsFit h n = true ↔ (1 ≤ count ∧ count ≤ 8) ∧
    (∀ k < count, (sectionOf h k).offset + (sectionOf h k).length ≤ min n (28 * 2 ^ 20) ∧ 1 ≤ (sectionOf h k).kind ∧ (sectionOf h k).kind ≤ 5) ∧
    (∀ i < count, ∀ j < count, i < j → (sectionOf h i).offset + (sectionOf h i).length ≤ (sectionOf h j).offset ∨
      (sectionOf h j).offset + (sectionOf h j).length ≤ (sectionOf h i).offset) ∧
    ∀ w, 1 ≤ w → w ≤ 3 → ((List.range count).filter (fun k => (sectionOf h k).kind == w)).length = 1 := by
  by_cases bounds : 1 ≤ count ∧ count ≤ 8
  · have kinds : ([1, 2, 3].all fun k => (((List.range count).map (sectionOf h)).map ImageSection.kind).count k == 1) = true ↔
        ∀ w, 1 ≤ w → w ≤ 3 → ((List.range count).filter (fun k => (sectionOf h k).kind == w)).length = 1 := by
      have counts (w : Nat) : (((List.range count).map (sectionOf h)).map ImageSection.kind).count w =
          ((List.range count).filter (fun k => (sectionOf h k).kind == w)).length := by
        rw [List.count, List.map_map, List.countP_map, List.countP_eq_length_filter]
        rfl
      rw [List.all_eq_true]
      simp only [counts, beq_iff_eq]
      refine ⟨fun each w low high => each w ?_, fun each w member => ?_⟩
      · rw [List.mem_cons, List.mem_cons, List.mem_singleton]
        omega
      · rw [List.mem_cons, List.mem_cons, List.mem_singleton] at member
        exact each w (by omega) (by omega)
    unfold sectionsFit
    dsimp only
    rw [number, imageSections_eq number bounds.2, Bool.and_eq_true, Bool.and_eq_true, Bool.and_eq_true, decide_eq_true_iff, kinds, and_assoc, and_assoc]
    refine and_congr Iff.rfl (and_congr ?_ ?_)
    · rw [List.all_eq_true]
      simp only [List.mem_map, List.mem_range, decide_eq_true_iff, forall_exists_index, and_imp, forall_apply_eq_imp_iff₂]
    · rw [and_comm]
      refine and_congr ?_ Iff.rfl
      rw [List.all_eq_true]
      simp only [List.length_map, List.length_range, List.mem_range]
      refine forall_congr' fun i => forall_congr' fun inside => ?_
      have this_ : ((List.range count).map (sectionOf h)).getD i ⟨0, 0, 0, []⟩ = sectionOf h i := by
        rw [List.getD_eq_getElem _ _ (by rw [List.length_map, List.length_range]; exact inside), List.getElem_map, List.getElem_range]
      rw [List.all_eq_true, this_]
      simp only [mem_drop_sections, decide_eq_true_iff]
      exact ⟨fun each j jn after => each _ ⟨j, jn, after, rfl⟩, fun each e ⟨j, jn, after, is⟩ => is ▸ each j jn after⟩
  · refine iff_of_false (fun fits => bounds ?_) fun all => bounds all.1
    unfold sectionsFit at fits
    dsimp only at fits
    rw [number] at fits
    rw [Bool.and_eq_true, Bool.and_eq_true, Bool.and_eq_true] at fits
    exact of_decide_eq_true fits.1.1.1

/-- The checks of R731 accept the images that are sound. -/
theorem imageAccepted_iff {s : State} {get : Nat → Nat → List Byte} {v : ImageVerdict} :
    imageAccepted s (readImage get n v) = true ↔ ImageSound s get n v := by
  have digests (few : leNat (((get 0 4096).drop 9).take 1) ≤ 8) :
      ((imageSections (get 0 4096)).all fun e => sm3 (get e.offset e.length) == e.digest) = true ↔
      ∀ k < leNat (((get 0 4096).drop 9).take 1), sm3 (get (sectionOf (get 0 4096) k).offset (sectionOf (get 0 4096) k).length) =
        (sectionOf (get 0 4096) k).digest := by
    rw [imageSections_eq rfl few, List.all_eq_true]
    simp only [List.mem_map, List.mem_range, beq_iff_eq, forall_exists_index, and_imp, forall_apply_eq_imp_iff₂]
  unfold imageAccepted readImage
  dsimp only
  simp only [Bool.and_eq_true, decide_eq_true_iff, beq_iff_eq, sectionsFit_iff rfl]
  constructor
  · rintro ⟨⟨⟨⟨⟨⟨magic, version⟩, key, few⟩, signature⟩, large, ⟨one, eight⟩, within, apart, kinds⟩, sums⟩, svn⟩
    have sums' := (digests eight).1 sums
    exact ⟨magic, version, key, few, signature, large, one, eight, svn,
      fun k inside => ⟨(within k inside).1, (within k inside).2.1, (within k inside).2.2, sums' k inside⟩, apart, kinds⟩
  · rintro ⟨magic, version, key, few, signature, large, one, eight, svn, each, apart, kinds⟩
    exact ⟨⟨⟨⟨⟨⟨magic, version⟩, key, few⟩, signature⟩, large, ⟨one, eight⟩,
      fun k inside => ⟨(each k inside).1, (each k inside).2.1, (each k inside).2.2.1⟩, apart, kinds⟩,
      (digests eight).2 fun k inside => (each k inside).2.2.2⟩, svn⟩

end

/-- A digest has at most 32 bytes. -/
theorem sm3_length_le (m : List Byte) : (sm3 m).length ≤ 32 := by
  have words (l : List (List Byte)) (v : List W32) (few : v.length ≤ 8) : (l.foldl sm3Block v).length ≤ 8 :=
    List.foldlRecOn (motive := fun u : List W32 => u.length ≤ 8) _ _ few fun u fewer b _ => by
      unfold sm3Block
      dsimp only
      rw [List.length_zipWith]
      exact Nat.le_trans (Nat.min_le_right ..) fewer
  unfold sm3
  dsimp only
  rw [List.length_flatMap, List.map_congr_left (g := fun _ => 4) fun x _ => by rw [beBytes, List.length_reverse, leBytes_length], List.map_const',
    List.sum_replicate, smul_eq_mul]
  have := words (groupsOf 64 ((m ++ [0x80#8] ++ List.replicate ((119 - m.length % 64) % 64) 0 ++ beBytes 8 (8 * m.length)).length / 64)
    (m ++ [0x80#8] ++ List.replicate ((119 - m.length % 64) % 64) 0 ++ beBytes 8 (8 * m.length))) sm3Init (by decide)
  omega

/-- A digest fits the entry that shows it. -/
theorem sm3_lt (m : List Byte) : leNat (sm3 m) < 256 ^ 32 :=
  Nat.lt_of_lt_of_le (leNat_lt _) (Nat.pow_le_pow_right (by decide) (sm3_length_le m))


/-! ## Accesses to BAR2 and to the ring window (R648, R669) -/

section
variable {s : State}

/-- An access that waits for the domain that it wakes. -/
theorem waits_leads {n : Instr} {d : Nat} {a : Access} (known : d < 40) (runs : exec n s = done s (stall (wakeDomain s d) a d)) :
    Leads n s fun t => t.mem = s.mem ∧ t.host.stalled.length = s.host.stalled.length + 1 := by
  have woken := PowerOnly.wakeDomain known s
  have host : (wakeDomain s d).host = s.host := by
    obtain ⟨_, _, is⟩ := woken.rest
    rw [is]
  have mem := woken.mem
  generalize wakeDomain s d = w at runs host mem
  refine leads_of_done runs ⟨mem, ?_⟩
  show (w.host.stalled ++ [_]).length = _
  rw [List.length_append, host]
  rfl

variable {w : Bool} {o n : Nat} {d : List Byte}

section
variable (within : o + (if w then d.length else n) ≤ 0x10000000) (normal : rd s E.boot_state ≠ 1)
include within normal

/-- What BAR2 does beyond the recovery state. -/
theorem exec_bar2 : exec (.bar2Access w o n d) s = done s (
    if rd s E.out_of_service = 1 ∨ !bar2Permits s (rd s E.bar2_base + o) (if w then d.length else n) then bar2Refuse s w (if w then d.length else n)
    else
      let dom := 32 + stackAt s (rd s E.bar2_base + o) / 4
      let t := workReaches s (0x600 + stackAt s (rd s E.bar2_base + o))
      if !domainOn t dom then stall (wakeDomain t dom) ⟨.bar0, 0, w, 0x20000000 + o, 0, n, d, 0⟩ dom
      else if w then hbmStore (forwardInput t 2 (leBytes 8 (rd s E.bar2_base + o) ++ d)) (rd s E.bar2_base + o) d
      else answerStatus t (hbmStatus t (rd s E.bar2_base + o) n .clean).1 (hbmStatus t (rd s E.bar2_base + o) n .clean).2
        (rdBytes t (rd s E.bar2_base + o) n)) := by
  show guarded _ s (bar2Access s w o n d) = _
  rw [guarded_of (decide_eq_true within)]
  exact congrArg _ (if_neg normal)

theorem bar2_refused (refused : rd s E.out_of_service = 1 ∨ bar2Permits s (rd s E.bar2_base + o) (if w then d.length else n) = false) :
    exec (.bar2Access w o n d) s = .next (if w then inc s E.bar_violation_count
      else emit (inc s E.bar_violation_count) (.status 0 false (List.replicate (if w then d.length else n) 0xFF))) := by
  rw [exec_bar2 within normal, if_pos (by rw [Bool.not_eq_true']; exact refused)]
  cases w
  · rfl
  · rfl

variable (still : s.power.entry = none) (serving : rd s E.out_of_service ≠ 1)
  (permits : bar2Permits s (rd s E.bar2_base + o) (if w then d.length else n) = true)
include still serving permits

theorem exec_bar2_permitted : exec (.bar2Access w o n d) s = done s (
    if !domainOn s (32 + stackAt s (rd s E.bar2_base + o) / 4) then
      stall (wakeDomain s (32 + stackAt s (rd s E.bar2_base + o) / 4)) ⟨.bar0, 0, w, 0x20000000 + o, 0, n, d, 0⟩
        (32 + stackAt s (rd s E.bar2_base + o) / 4)
    else if w then hbmStore (forwardInput s 2 (leBytes 8 (rd s E.bar2_base + o) ++ d)) (rd s E.bar2_base + o) d
    else answerStatus s (hbmStatus s (rd s E.bar2_base + o) n .clean).1 (hbmStatus s (rd s E.bar2_base + o) n .clean).2
      (rdBytes s (rd s E.bar2_base + o) n)) := by
  rw [exec_bar2 within normal, if_neg]
  · dsimp only
    rw [workReaches_none still]
  · rintro (out | refused)
    · exact serving out
    · rw [permits] at refused
      exact absurd refused (by decide)

theorem bar2_reaches (on : domainOn s (32 + stackAt s (rd s E.bar2_base + o) / 4) = true) :
    Leads (.bar2Access w o n d) s fun t => t.cores = s.cores ∧ t.dict = s.dict ∧
      (w = true → rdBytes t (rd s E.bar2_base + o) d.length = d ∧
        ∀ b, b < rd s E.bar2_base + o ∨ rd s E.bar2_base + o + d.length ≤ b → rdByte t b = rdByte s b) ∧
      (w = false → t.mem = s.mem ∧ ∃ c b, t.sent = .status c b (rdBytes s (rd s E.bar2_base + o) n) :: s.sent) := by
  have runs := exec_bar2_permitted within normal still serving permits
  rw [on, if_neg (by decide)] at runs
  generalize rd s E.bar2_base + o = a at *
  cases w with
  | false =>
    exact leads_of_done (runs.trans (congrArg (done s) (if_neg (by decide)))) ⟨rfl, rfl, fun store => absurd store (by decide), fun _ => ⟨rfl, _, _, rfl⟩⟩
  | true =>
    obtain ⟨l, forwarded⟩ := forwardInput_eq s 2 (leBytes 8 a ++ d)
    obtain ⟨v, stored⟩ := hbmStore_eq (s := { s with sent := l }) a d
    rw [if_pos rfl, forwarded, stored] at runs
    refine leads_of_done runs ⟨rfl, rfl, fun _ => ⟨rdBytes_wrBytes { s with sent := l } a d, fun b outside => ?_⟩, fun load => absurd load (by decide)⟩
    exact (rdByte_wrBytes { s with sent := l } a d b).trans (if_neg (by omega))

theorem bar2_waits (off : domainOn s (32 + stackAt s (rd s E.bar2_base + o) / 4) = false) :
    Leads (.bar2Access w o n d) s fun t => t.mem = s.mem ∧ t.host.stalled.length = s.host.stalled.length + 1 := by
  have runs := exec_bar2_permitted within normal still serving permits
  rw [off, if_pos (by decide)] at runs
  refine waits_leads ?_ runs
  have stack : stackAt s (rd s E.bar2_base + o) < 16 := Nat.mod_lt _ (by decide)
  omega

end

theorem ringWindow_writes (inside : o < 0x800000) (fits : o % 0x40000 + d.length ≤ 0x40000) (still : s.power.entry = none) :
    (domainOn s (o / 0x40000) = true → exec (.ringWindowWrite o d) s =
      .next (wrBytes s (Mem.commons (o / 0x40000) (0x6C0000 + o % 0x40000)) d)) ∧
    (domainOn s (o / 0x40000) = false → Leads (.ringWindowWrite o d) s fun t =>
      t.mem = s.mem ∧ t.host.stalled.length = s.host.stalled.length + 1) := by
  have runs : exec (.ringWindowWrite o d) s = done s (if domainOn s (o / 0x40000) then windowStore s o d
      else stall (wakeDomain s (o / 0x40000)) ⟨.bar0, 0, true, 0x10000 + o, 0, d.length, d, 0⟩ (o / 0x40000)) := by
    show guarded _ s (ringWindowWrite s o d) = _
    rw [guarded_of (decide_eq_true ⟨inside, fits⟩)]
    unfold ringWindowWrite windowSector
    dsimp only
    rw [workReaches_none still, workReaches_none still]
  refine ⟨fun on => ?_, fun off => ?_⟩
  · rw [runs, if_pos on]
    rfl
  · exact waits_leads (by omega) (runs.trans (congrArg (done s) (if_neg (by rw [off]; decide))))

end

/-! ## Interrupts (R646, R651, R652) -/

section
variable {s : State} {v : Nat}

theorem bit_cleared (x : BitVec 64) (hv : v < 64) : bit (x &&& ~~~BitVec.ofNat 64 (2 ^ v)).toNat v = false := by
  rw [bit_eq_testBit, ← BitVec.getLsbD, BitVec.getLsbD_and, BitVec.getLsbD_not, BitVec.getLsbD_ofNat]
  simp [hv]

theorem bit_added (x : BitVec 64) (hv : v < 64) : bit (x ||| BitVec.ofNat 64 (2 ^ v)).toNat v = true := by
  rw [bit_eq_testBit, ← BitVec.getLsbD, BitVec.getLsbD_or, BitVec.getLsbD_ofNat]
  simp [hv]

/-- The state in which the holdoff of vector v has ended. -/
def holdoffFreed (s : State) (v : Nat) : State :=
  { s with host := { s.host with holdoff := s.host.holdoff &&& ~~~BitVec.ofNat 64 (2 ^ v), behind := s.host.behind &&& ~~~BitVec.ofNat 64 (2 ^ v) } }

theorem holdoff_expires (hv : v < 64) : (bit s.host.behind.toNat v = false → exec (.msixHoldoffExpiry v) s = .next (holdoffFreed s v)) ∧
    (bit s.host.behind.toNat v = true → s.host.busMaster = true → Leads (.msixHoldoffExpiry v) s fun t =>
      t.sent = .msix v :: s.sent ∧ bit t.host.behind.toNat v = false ∧ bit t.host.holdoff.toNat v = (rd s E.msix_holdoff_us != 0)) := by
  have runs : exec (.msixHoldoffExpiry v) s = done s (if bit s.host.behind.toNat v then msixSend (holdoffFreed s v) v else holdoffFreed s v) :=
    guarded_of (decide_eq_true hv) s _
  refine ⟨fun none_ => ?_, fun some_ master => ?_⟩
  · rw [runs, if_neg (ne_true_of_eq_false none_)]
    rfl
  · rw [if_pos some_, msixSend] at runs
    rw [if_pos (show (holdoffFreed s v).host.busMaster = true from master)] at runs
    refine leads_of_done runs ⟨rfl, bit_cleared _ hv, ?_⟩
    by_cases zero : rd s E.msix_holdoff_us = 0
    · show bit (if rd s E.msix_holdoff_us = 0 then _ else _ : BitVec 64).toNat v = _
      rw [if_pos zero, zero]
      exact bit_cleared _ hv
    · show bit (if rd s E.msix_holdoff_us = 0 then _ else _ : BitVec 64).toNat v = _
      rw [if_neg zero, bne_iff_ne.2 zero]
      exact bit_added _ hv

theorem foldl_emit {β : Type} (f : β → Out) (l : List β) (s : State) :
    l.foldl (fun t b => emit t (f b)) s = { s with sent := (l.map f).reverse ++ s.sent } := by
  induction l generalizing s with
  | nil => rfl
  | cons b l ih =>
    rw [List.foldl_cons, ih, List.map_cons, List.reverse_cons, List.append_assoc]
    rfl

theorem busMaster_on : Leads (.busMasterEnable true) s fun t => t.host = { s.host with busMaster := true, pba := 0 } ∧
    t.sent = (((List.range 64).filter (bit s.host.pba.toNat)).map Out.msix).reverse ++ s.sent ∧ EntriesBut s t [E.pcie_link_status] := by
  have runs : exec (.busMasterEnable true) s = done s (((List.range 64).filter (bit s.host.pba.toNat)).foldl (fun t v => emit t (.msix v))
      { wr s E.pcie_link_status (setBit (rd s E.pcie_link_status) 22 true) with host := { s.host with busMaster := true, pba := 0 } }) := rfl
  rw [foldl_emit] at runs
  refine leads_of_done runs ⟨rfl, rfl, fun k other => ?_⟩
  exact rd_wr_other s (fun is => other (List.mem_singleton.2 is)) _

theorem busMaster_off : Leads (.busMasterEnable false) s fun t => t.host = { s.host with busMaster := false } ∧ t.sent = s.sent ∧
    EntriesBut s t [E.pcie_link_status] :=
  leads_of_done (u := busMaster s false) rfl ⟨rfl, rfl, fun _ other => rd_wr_other s (fun is => other (List.mem_singleton.2 is)) _⟩

end


/-! ## Firmware (R691, R731, R737, R738) -/

theorem writable_fwLoadCmd : Writable E.fw_load_cmd ⟨0xB300, 1, 3, 3, 1, 1, .cmd, 1, false, 0⟩ :=
  ⟨by decide, by decide, by decide, by decide, by decide⟩

section
variable {s : State}

/-- A write of `fw_load_cmd` while an image is staged is refused; any other has its effect. -/
theorem fwCommand {n : Instr} {via : Path} {v : Nat} (serves : Serves s E.fw_load_cmd)
    (runs : exec n s = done s (access s (writeBytes via E.fw_load_cmd (leBytes 1 v)) fwSem)) (hv : v = 1 ∨ v = 2) :
    (rd s E.fw_load_status = 1 → exec n s = .next (ended s E.fw_load_cmd 4)) ∧
    (rd s E.fw_load_status ≠ 1 → exec n s = done s (ended (fwSem.eff s via v) E.fw_load_cmd 0)) := by
  have open_ : ¬HeldBack s via ⟨0xB300, 1, 3, 3, 1, 1, .cmd, 1, false, 0⟩ fwSem := not_heldBack (by decide) rfl
  have small : v < 256 := by omega
  refine ⟨fun busy => ?_, fun free => ?_⟩
  · refine command_refused runs serves writable_fwLoadCmd open_ small ?_
    show (rd s E.fw_load_status != 1 && _) = false
    rw [busy]
    rfl
  · have rule : fwSem.rule s v = true := by
      show (rd s E.fw_load_status != 1 && (v == 1 || v == 2)) = true
      rw [bne_iff_ne.2 free]
      rcases hv with rfl | rfl
      · rfl
      · rfl
    have effect := command_effect runs serves writable_fwLoadCmd open_ small (by decide) rule rfl
    rwa [told_device (by decide) s via _] at effect

theorem stageStart_none (missing : imageSource s = none) : stageStart s = wr s E.fw_load_status 3 := by
  unfold stageStart
  rw [missing]

theorem stageStart_leads {b : List Byte} (source : imageSource s = some b) : (stageStart s).island.staging = some b ∧
    rd (stageStart s) E.fw_load_status = 1 ∧ rd (stageStart s) E.staged_state = 1 ∧ rd (stageStart s) E.staged_digest = 0 ∧
    (stageStart s).mem = s.mem := by
  have is : stageStart s = wr { wr (wr (wr s E.staged_state 1) E.staged_digest 0) E.staged_svn 0 with
      island := { s.island with staging := some b } } E.fw_load_status 1 := by
    unfold stageStart
    rw [source]
    rfl
  rw [is]
  refine ⟨rfl, rd_wr_same .., ?_, ?_, rfl⟩
  · rw [rd_wr_other _ (by decide)]
    show rd (wr (wr (wr s E.staged_state 1) E.staged_digest 0) E.staged_svn 0) E.staged_state = 1
    rw [rd_wr_other _ (by decide), rd_wr_other _ (by decide)]
    exact rd_wr_same ..
  · rw [rd_wr_other _ (by decide)]
    show rd (wr (wr (wr s E.staged_state 1) E.staged_digest 0) E.staged_svn 0) E.staged_digest = 0
    rw [rd_wr_other _ (by decide)]
    exact (rd_wr_same ..).trans (Nat.zero_mod _)

/-- The state in which nothing is staged. -/
def unstaged (s : State) : State := { s with island := { s.island with staging := none } }

section
variable {v : ImageVerdict} {b : List Byte} (staging : s.island.staging = some b)
include staging

/-- What an image that passes leaves (R737). -/
theorem stageDone_good (good : ImageSound s (fun o n => (b.drop o).take n) b.length v) : stageDone s v =
    wr (wr (wr (wr (wrBytes (unstaged s) (Mem.flash (slotFlash (idleSlot s))) b) E.staged_state 2) E.staged_svn (leNat (((b.take 4096).drop 6).take 2)))
      E.staged_digest (leNat ((sm3 (b.take 4096)).take 32))) E.fw_load_status 2 := by
  have accepted : imageAccepted (unstaged s) (readImage (fun o n => (b.drop o).take n) b.length v) = true := imageAccepted_iff.2 good
  unfold stageDone
  rw [staging]
  exact if_pos accepted

theorem stageDone_bad (bad : ¬ImageSound s (fun o n => (b.drop o).take n) b.length v) : stageDone s v =
    wr (wr (unstaged s) E.staged_state 0) E.fw_load_status 4 := by
  have accepted : ¬imageAccepted (unstaged s) (readImage (fun o n => (b.drop o).take n) b.length v) = true := fun yes => bad (imageAccepted_iff.1 yes)
  unfold stageDone
  rw [staging]
  exact if_neg accepted

theorem stageDone_good_leads (good : ImageSound s (fun o n => (b.drop o).take n) b.length v) : Leads (.fwStageDone v) s fun t =>
    t.island.staging = none ∧ rd t E.staged_state = 2 ∧ rd t E.fw_load_status = 2 ∧ rd t E.staged_svn = leNat ((b.drop 6).take 2) ∧
    rd t E.staged_digest = leNat (sm3 (b.take 4096)) ∧ rdBytes t (Mem.flash (slotFlash (idleSlot s))) b.length = b ∧
    ∀ a, a < Mem.flash (slotFlash (idleSlot s)) ∨ Mem.flash (slotFlash (idleSlot s)) + b.length ≤ a → rdByte t a = rdByte s a := by
  have svn : leNat (((b.take 4096).drop 6).take 2) = leNat ((b.drop 6).take 2) := by
    rw [List.drop_take, List.take_take]
    rfl
  have svnFits : leNat ((b.drop 6).take 2) < 2 ^ 16 :=
    Nat.lt_of_lt_of_le (leNat_lt _) (Nat.pow_le_pow_right (n := 256) (by decide) (List.length_take_le 2 _))
  have digest : (sm3 (b.take 4096)).take 32 = sm3 (b.take 4096) := List.take_of_length_le (sm3_length_le _)
  have digestFits : leNat (sm3 (b.take 4096)) < 256 ^ 32 := sm3_lt _
  have runs : exec (.fwStageDone v) s = done s (stageDone s v) := rfl
  rw [stageDone_good staging good, svn, digest] at runs
  generalize leNat ((b.drop 6).take 2) = number at *
  generalize leNat (sm3 (b.take 4096)) = sum at *
  generalize Mem.flash (slotFlash (idleSlot s)) = key at *
  refine leads_of_done runs ⟨rfl, ?_, rd_wr_same _ E.fw_load_status 2, ?_, ?_, rdBytes_wrBytes (unstaged s) key b, fun a outside => ?_⟩
  · show rd (wr _ E.fw_load_status 2) E.staged_state = 2
    rw [rd_wr_other _ (by decide), rd_wr_other _ (by decide), rd_wr_other _ (by decide)]
    exact rd_wr_same ..
  · show rd (wr _ E.fw_load_status 2) E.staged_svn = number
    rw [rd_wr_other _ (by decide), rd_wr_other _ (by decide)]
    exact (rd_wr_same ..).trans (Nat.mod_eq_of_lt svnFits)
  · show rd (wr _ E.fw_load_status 2) E.staged_digest = sum
    rw [rd_wr_other _ (by decide)]
    exact (rd_wr_same ..).trans (Nat.mod_eq_of_lt (Nat.lt_of_lt_of_le digestFits (by decide)))
  · exact (rdByte_wrBytes (unstaged s) key b a).trans (if_neg (by omega))

theorem stageDone_bad_leads (bad : ¬ImageSound s (fun o n => (b.drop o).take n) b.length v) : Leads (.fwStageDone v) s fun t =>
    t.island.staging = none ∧ rd t E.staged_state = 0 ∧ rd t E.fw_load_status = 4 ∧ t.mem = s.mem := by
  have runs : exec (.fwStageDone v) s = done s (stageDone s v) := rfl
  rw [stageDone_bad staging bad] at runs
  refine leads_of_done runs ⟨rfl, ?_, rd_wr_same _ E.fw_load_status 4, rfl⟩
  show rd (wr _ E.fw_load_status 4) E.staged_state = 0
  rw [rd_wr_other _ (by decide)]
  exact (rd_wr_same ..).trans (Nat.zero_mod _)

end

end

/-! ## The statement -/

/-- Settles O37: BAR2 and the ring window by what permits them and by the domain they reach, messages by the holdoff's bits, and
firmware by the checks of R731, which the model's reader of images decides (`imageAccepted_iff`). -/
theorem hostReaches : Obligations.HostReaches := by
  refine ⟨fun s => ⟨fun w o n d => ?_, fun o d inside fits still => ringWindow_writes inside fits still, fun v hv => holdoff_expires hv,
    busMaster_on, busMaster_off, fun eid => ⟨rfl, rfl⟩, fun addr => ⟨rfl, rfl⟩⟩, fun s => ?_⟩
  · intro len a cmd refused within normal still
    exact ⟨bar2_refused within normal, fun serving permits on => bar2_reaches within normal still serving permits on,
      fun serving permits off => bar2_waits within normal still serving permits off⟩
  · intro go slot key
    refine ⟨fun via serves => ?_, fun via serves => ?_, fun v none_ => ?_, fun v b staging => ⟨stageDone_good_leads staging, stageDone_bad_leads staging⟩⟩
    · obtain ⟨busy, starts⟩ := fwCommand (n := .fwStage via) (via := via) serves rfl (.inl rfl)
      refine ⟨busy, fun free => ⟨fun missing => ?_, fun b source => ?_⟩⟩
      · exact accepts_of_effect (starts free) (stageStart_none missing) rfl
      · exact leads_ended (u := stageStart s) (starts free) (stageStart_leads source)
    · obtain ⟨busy, starts⟩ := fwCommand (n := .fwActivate via) (via := via) serves rfl (.inr rfl)
      exact ⟨busy, fun free => ⟨fun early => accepts_of_effect (starts free) (if_pos early) rfl,
        fun late => accepts_of_effect (starts free) (if_neg (Nat.not_lt.2 late)) rfl⟩⟩
    · show done s (stageDone s v) = _
      unfold stageDone
      rw [none_]
      rfl

end Sys2Proof.Machine
end

section
/-! SUPPORT. Key contexts (R366 to R374). -/

namespace Sys2Proof.Machine

open Sys2Proof


/-! ## The mode of a core (R279) -/

section
variable {s t : State} {c : Nat}

theorem c2_of_rest (rest : Rest c (core s c).rest t) : (core t c).c2 = (core s c).c2 := by
  have same := congrArg Core.c2 ((rest_def t).1 rest)
  exact same

theorem c2_onCore {f : Core → Core} (same : ∀ k, (f k).c2 = k.c2) : (core (onCore s c f) c).c2 = (core s c).c2 := by
  rw [core_onCore, if_pos rfl, same]

theorem c2_of_cores (same : t.cores = s.cores) : (core t c).c2 = (core s c).c2 := congrArg Core.c2 (core_congr same c)

theorem cores_noteFault (code word beat : Nat) (f : Found) : (noteFault s c code word beat f).cores = s.cores := by
  unfold noteFault
  split
  · rfl
  · dsimp only
    split
    · exact cores_of_still (still_countCore ..)
    · rfl

theorem c2_faultBlock (code word beat : Nat) (f : Found) : (core (faultBlock s c code word beat f) c).c2 = (core s c).c2 := by
  refine (c2_onCore fun k => ?_).trans (c2_of_cores (cores_noteFault code word beat f))
  split
  · rfl
  · rfl

theorem c2_failGroup (i code cause : Nat) : (core (failGroup s none i code cause) c).c2 = (core s c).c2 := c2_of_rest (rest_self s c).failGroup

theorem c2_applyVs (k : Core) (u : VsUpd) : (k.applyVs u).c2 = k.c2 := by
  cases u with
  | sum | cnt => rfl
  | best i fl mx v =>
    cases v with
    | none => rfl
    | some v =>
      show (if bit k.vsSeen i then if (if mx then laneLt fl (k.vsAt i) v else laneLt fl v (k.vsAt i)) then k.setVs i v else k else _ : Core).c2 = k.c2
      generalize (if mx then laneLt fl (k.vsAt i) v else laneLt fl v (k.vsAt i)) = better
      split
      · cases better <;> rfl
      · rfl
  | arg i fl v n =>
    cases v with
    | none => rfl
    | some v =>
      show (if bit k.vsSeen i && !laneLt fl (k.vsAt i) v.1 then k else _ : Core).c2 = k.c2
      split <;> rfl
  | amax t v =>
    show (if laneLt true (k.tracker t).c v then _ else k : Core).c2 = k.c2
    split <;> rfl

theorem c2_applyFx (o : Op) (f : Fx) : (core (applyFx s c o f) c).c2 = (core s c).c2 := by
  cases f with
  | primes | consts | twiddle | chains | expand | hcfg | noise => exact c2_onCore fun _ => rfl
  | rangeHit | saturated | peFault | veFault | nonfinite | veSaturated => exact c2_of_cores rfl
  | mma b m x y aux =>
    obtain ⟨v, same⟩ := applyFx_mma (s := s) (c := c) (o := o) b m x y aux
    rw [same]
    exact c2_of_cores rfl
  | vs u => exact c2_onCore fun k => c2_applyVs k u
  | marks => exact c2_of_rest (rest_self s c).markWords
  | hstep m =>
    refine c2_onCore fun k => foldl_keeps Core.c2 (fun k t => ?_) _ k
    split <;> rfl
  | galois m g n =>
    show (core (match ((core s c).primes.filter fun e => e.2.valid).map (fun e => e.2.logN) |>.min? with
      | none => _
      | some l => _) c).c2 = _
    split
    · exact c2_faultBlock ..
    · split
      · exact c2_faultBlock ..
      · exact c2_onCore fun _ => rfl
  | macc t nw hit prods p0 p1 =>
    obtain ⟨v, same⟩ := applyFx_macc (s := s) (c := c) (o := o) t nw hit prods p0 p1
    rw [same]
    exact c2_of_cores rfl

theorem c2_applyWrite (e : Nat × Option Nat × List Byte) : (core (applyWrite s c e).1 c).c2 = (core s c).c2 := by
  unfold applyWrite
  split
  · rfl
  · exact c2_of_rest (rest_self s c).coreStore

theorem c2_completeOp (o : Op) : (core (completeOp s c o) c).c2 = (core s c).c2 := by
  have folded (l : List (Nat × Option Nat × List Byte)) (p : State × Nat) : (core (l.foldl (fun (p : State × Nat) e =>
      ((applyWrite p.1 c e).1, lowestCode [p.2, (applyWrite p.1 c e).2])) p).1 c).c2 = (core p.1 c).c2 :=
    foldl_keeps (fun q : State × Nat => (core q.1 c).c2)
      (g := fun (p : State × Nat) e => ((applyWrite p.1 c e).1, lowestCode [p.2, (applyWrite p.1 c e).2])) (fun q e => c2_applyWrite (s := q.1) e) l p
  have effects (l : List Fx) (u : State) : (core (l.foldl (fun t f => applyFx t c o f) u) c).c2 = (core u c).c2 :=
    foldl_keeps (fun u => (core u c).c2) (fun u f => c2_applyFx (s := u) o f) l u
  unfold completeOp
  dsimp only
  have ends (u : State) (code : Nat) : (core (if code = 0 then u else faultBlock u c code o.word o.issue ⟨0, 0, 0, 0⟩) c).c2 = (core u c).c2 := by
    split
    · rfl
    · exact c2_faultBlock ..
  rw [ends, effects]
  refine (c2_onCore ?_).trans ((folded _ _).trans ?_)
  · exact fun _ => rfl
  dsimp only
  split
  · split
    · rfl
    · exact c2_failGroup ..
  · rfl

theorem c2_settle (x : Xfer) : (core (settle s c x).1 c).c2 = (core s c).c2 := by
  unfold settle
  dsimp only
  have puts (u : State) (l : List (Nat × Option Nat × List Byte × Bool)) (st : Nat) : (core (putAll u c l st).1 c).c2 = (core u c).c2 :=
    c2_of_rest ((rest_self u c).foldl_fst (s := (u, st)) fun _ _ h => h.putPiece)
  rw [puts]
  split
  · split
    · rfl
    · exact c2_failGroup ..
  · rfl

theorem c2_endXfer (x : Xfer) (st e : Nat) : (core (endXfer s c x st e) c).c2 = (core s c).c2 := by
  unfold endXfer
  dsimp only
  split
  · exact c2_onCore fun _ => rfl
  · exact (c2_faultBlock ..).trans (c2_onCore fun _ => rfl)

theorem c2_finishLoad (x : Xfer) (e : Nat) : (core (finishLoad s c x e) c).c2 = (core s c).c2 := by
  refine (c2_endXfer ..).trans ((c2_onCore fun k => ?_).trans (c2_settle x))
  split <;> rfl

theorem c2_finishStore (x : Xfer) (e : Nat) : (core (finishStore s c x e) c).c2 = (core s c).c2 := by
  refine (c2_endXfer ..).trans ?_
  split
  · refine (c2_onCore ?_).trans (c2_settle x)
    exact fun _ => rfl
  · exact c2_settle x

theorem c2_nextEvent : (core (nextEvent s c).2 c).c2 = (core s c).c2 := by
  have op (o : Op) : (core (completeOp (onCore s c fun k => k.endOp o) c o) c).c2 = (core s c).c2 := (c2_completeOp o).trans (c2_onCore fun _ => rfl)
  have ends (e : Xfer × Nat) : (core (nextEvent.ends s c e) c).c2 = (core s c).c2 := by
    unfold nextEvent.ends
    split
    · exact c2_finishLoad ..
    · exact c2_finishStore ..
  have opOrEnd (o : Option Op) (x : Option (Xfer × Nat)) : (core (nextEvent.opOrEnd s c o x).2 c).c2 = (core s c).c2 := by
    cases o with
    | none =>
      cases x with
      | none => rfl
      | some e => exact ends e
    | some o =>
      cases x with
      | none => exact op o
      | some e =>
        show (core (if o.last ≤ e.2 then _ else _ : Option Nat × State).2 c).c2 = _
        split
        · exact op o
        · exact ends e
  unfold nextEvent
  dsimp only
  split
  · split
    · exact c2_of_rest (rest_self s c).runGrant
    · exact opOrEnd ..
  · exact opOrEnd ..

/-- What a core does before a beat leaves its mode. -/
theorem c2_retire (a : Nat) : (core (retire s c a) c).c2 = (core s c).c2 := by
  have go (n : Nat) (s : State) : (core (retireN n s c a) c).c2 = (core s c).c2 := by
    induction n generalizing s with
    | zero => rfl
    | succ n ih =>
      rw [retireN]
      split
      · exact c2_onCore fun _ => rfl
      · split
        · exact (ih _).trans c2_nextEvent
        · exact c2_onCore fun _ => rfl
  exact go _ s

end


/-! ## Operations of a free access stream (R264) -/

section
variable {s u w : State} {c a : Nat} {b : Block} {i : AIns}

/-- An instruction of a free stream issues at its beat, as its body says of the word at the stream's place. -/
theorem auIssue_at {op : Nat} {ok : Bool} {early : Core → List Nat} {ready : Core → Nat → Option Nat} {body : State → Nat → Nat → AuRes}
    (free : AccessFree s c a b u) (beat : a = max (max b.anext b.b0) (core s c).beat) (defined : (early (core s c)).contains 0x0105 = false)
    (atOnce : ready (core s c) a = some a) (goes : body u a (b.word + b.apos) = .go w none) :
    auIssue s c op ok early ready body = onCore w c fun k => k.issuedAccess a := by
  obtain ⟨hc, runs, native, block, going, unfaulted, within, moving, _, rfl, v, blockAt, sound⟩ := free
  unfold auIssue auNative
  rw [runs, native, block]
  simp only [going, unfaulted, moving, defined, ← beat, atOnce, blockAt, goes, Nat.not_le.2 within, Option.map_some, Option.getD_some, sound]
  rfl

/-- What issuing keeps of core c. -/
structure KeepsStream (u w : State) (c : Nat) : Prop where
  block : (core w c).block = (core u c).block
  ops : (core w c).ops = (core u c).ops
  gens : (core w c).gens = (core u c).gens
  other : ∀ j, j ≠ c → core w j = core u j

theorem KeepsStream.onCore {f : Core → Core} (h : KeepsStream u w c)
    (same : ∀ k : Core, (f k).block = k.block ∧ (f k).ops = k.ops ∧ (f k).gens = k.gens) : KeepsStream u (Machine.onCore w c f) c := by
  have own : core (Machine.onCore w c f) c = f (core w c) := (core_onCore ..).trans (if_pos rfl)
  obtain ⟨block, ops, gens⟩ := same (core w c)
  exact ⟨by rw [own, block, h.block], by rw [own, ops, h.ops], by rw [own, gens, h.gens],
    fun j hj => ((core_onCore ..).trans (if_neg hj)).trans (h.other j hj)⟩

theorem KeepsStream.of_cores (same : ∀ j, core w j = core u j) : KeepsStream u w c :=
  ⟨by rw [same], by rw [same], by rw [same], fun j _ => same j⟩

theorem KeepsStream.went (h : KeepsStream u w c) (free : AccessFree s c a b u) :
    AccessWent u (Machine.onCore w c fun k => k.issuedAccess a) c (b.apos + 1) (a + 1) false := by
  obtain ⟨_, _, _, block, going, _, _, _, _, rfl, v, blockAt, sound⟩ := free
  obtain ⟨apos, adone⟩ := (retire_keeps block a).2 v blockAt
  have own : core (Machine.onCore w c fun k => k.issuedAccess a) c = (core w c).issuedAccess a := core_setCore_same ..
  have kept : (core w c).block = some v := h.block.trans blockAt
  refine ⟨⟨{ v with apos := v.apos + 1, anext := a + 1, last := max v.last a }, ?_, ?_, rfl, ?_, sound⟩, ?_, ?_, ?_, fun j hj => ?_⟩
  · rw [own, Core.issuedAccess, kept]
    rfl
  · rw [apos]
  · rw [← going, ← adone]
  · rw [own]
    rfl
  · rw [own]
    exact h.ops
  · rw [own]
    exact h.gens
  · rw [core_onCore, if_neg hj, h.other j hj]

/-- An operation that issues, and what it leads to. -/
theorem access_leads {n : Instr} {op : Nat} {ok : Bool} {early : Core → List Nat} {ready : Core → Nat → Option Nat} {body : State → Nat → Nat → AuRes}
    (runs : exec n s = guarded (decide (c < 800)) s (auIssue s c op ok early ready body)) (free : AccessFree s c a b u)
    (beat : a = max (max b.anext b.b0) (core s c).beat) (defined : (early (core s c)).contains 0x0105 = false)
    (atOnce : ready (core s c) a = some a) (goes : body u a (b.word + b.apos) = .go w none) (keeps : KeepsStream u w c) :
    ∃ t, exec n s = .next t ∧ AccessWent u t c (b.apos + 1) (a + 1) false ∧ core t c = (core w c).issuedAccess a ∧ t.mem = w.mem ∧ t.poison = w.poison := by
  have issued := auIssue_at (op := op) (ok := ok) free beat defined atOnce goes
  rw [issued, guarded_of (decide_eq_true free.1)] at runs
  exact ⟨_, runs, keeps.went free, core_setCore_same .., rfl, rfl⟩

theorem mode_of_free (free : AccessFree s c a b u) : (core u c).c2 = false := by
  obtain ⟨_, _, native, _, _, _, _, _, _, rfl, _⟩ := free
  exact (c2_retire a).trans native

/-- Memory that stands keeps every byte. -/
theorem sameMemory_of {t : State} (mem : t.mem = u.mem) (poison : t.poison = u.poison) : SameMemory u t := ⟨fun k => rdByte_congr mem k, poison⟩

theorem low_bit (v : Nat) : bits v 0 0 = v % 2 := by
  unfold bits
  rw [pow_zero, Nat.div_one]
  rfl

theorem key_issued (k : Core) (n : Nat) : (k.issuedAccess a).key n = k.key n := rfl

theorem key_setKey_same (k : Core) (n : Nat) (v : KeyCtx) : (k.setKey n v).key n = v := Tab.get_set_same ..

theorem key_setKey_other {j n : Nat} (other : j ≠ n) (k : Core) (v : KeyCtx) : (k.setKey n v).key j = k.key j := Tab.get_set_other other ..

/-- A queue toward the execute stream may be pushed. -/
theorem auPushes_of {q : Nat} {k : Core} (open_ : (k.queue q).toAccess = false) : (auPushes q k).contains 0x0105 = false := by
  rw [auPushes, open_]
  rfl

/-- A fetch of the next chunk of key context n into staging place p. -/
def fetched (u : State) (c n p : Nat) (x : Xfer) : State :=
  onCore u c fun k => (k.addXfer { x with cursor := ((core u c).key n).fetched }).setKey n { (core u c).key n with
    fetched := ((core u c).key n).fetched + 1
    staged := ((core u c).key n).staged ++ [⟨p, ((core u c).key n).fetched, false, 0, 0, []⟩] }

variable (free : AccessFree s c a b u) (beat : a = max (max b.anext b.b0) (core s c).beat)
include free beat

/-! ### `KFETCH`, `KCLOSE` and `KSTAT` (R367, R369, R374) -/

theorem kfetch_goes {p : Nat} (usable : ((core u c).key (i.imm.toNat % 2)).state = 1) (none_ : ((core u c).key (i.imm.toNat % 2)).ring = none)
    (ringless : ((core s c).key (i.imm.toNat % 2)).ring = none)
    (more : ((core u c).key (i.imm.toNat % 2)).fetched < ((core u c).key (i.imm.toNat % 2)).total)
    (place : ((core u c).key (i.imm.toNat % 2)).freePlace = some p) (few : (core u c).inFlight < 16) :
    ∃ t x, exec (.kfetch c i) s = .next t ∧ AccessWent u t c (b.apos + 1) (a + 1) false ∧ SameMemory u t ∧ (core t c).xfers = (core u c).xfers ++ [x] ∧
      x.kind = .kfetch ∧ x.cursor = ((core u c).key (i.imm.toNat % 2)).fetched ∧ (core t c).key (i.imm.toNat % 2) =
        { (core u c).key (i.imm.toNat % 2) with
          fetched := ((core u c).key (i.imm.toNat % 2)).fetched + 1
          staged := ((core u c).key (i.imm.toNat % 2)).staged ++ [⟨p, ((core u c).key (i.imm.toNat % 2)).fetched, false, 0, 0, []⟩] } := by
  have runs : exec (.kfetch c i) s = guarded (decide (c < 800)) s (kfetch (kfetchStop s c i) c i) := rfl
  have stays : kfetchStop s c i = s := by
    unfold kfetchStop
    dsimp only
    rw [low_bit, ringless]
    refine if_neg ?_
    rw [Option.any_none, Bool.and_false]
    decide
  rw [stays] at runs
  unfold kfetch at runs
  dsimp only at runs
  rw [low_bit] at runs
  generalize i.imm.toNat % 2 = n at *
  have noRing : ¬((core u c).key n).ring.any (fun r => !laceRuns u r) = true := by
    rw [none_]
    exact Bool.false_ne_true
  obtain ⟨t, run, went, own, mem, poison⟩ := access_leads (w := fetched u c n p (newXfer u c .kfetch (b.word + b.apos) a 0 n 0 0 false ((core u c).key n).payload))
    runs free beat rfl rfl (by
      rw [KeyCtx.refusal, if_pos usable]
      dsimp only
      rw [if_neg (Nat.not_le.2 more), place]
      dsimp only
      rw [if_neg (Nat.not_le.2 few)]
      exact if_neg noRing) (.onCore (.of_cores fun _ => rfl) fun _ => ⟨rfl, rfl, rfl⟩)
  have core_ : core (fetched u c n p (newXfer u c .kfetch (b.word + b.apos) a 0 n 0 0 false ((core u c).key n).payload)) c = _ := core_onCore_same ..
  rw [core_] at own
  refine ⟨t, _, run, went, sameMemory_of mem poison, (congrArg Core.xfers own :), rfl, rfl, ?_⟩
  rw [own, key_issued, key_setKey_same]

theorem kclose_goes (opened : ((core u c).key (i.imm.toNat % 2)).state ≠ 0) (idle : (core u c).fetching (i.imm.toNat % 2) = false) :
    ∃ t, exec (.kclose c i) s = .next t ∧ AccessWent u t c (b.apos + 1) (a + 1) false ∧ SameMemory u t ∧
      (core t c).key (i.imm.toNat % 2) = KeyCtx.init ∧ ∀ j, j ≠ i.imm.toNat % 2 → (core t c).key j = (core u c).key j := by
  have runs : exec (.kclose c i) s = guarded (decide (c < 800)) s (kclose s c i) := rfl
  unfold kclose at runs
  dsimp only at runs
  rw [low_bit] at runs
  generalize i.imm.toNat % 2 = n at *
  obtain ⟨t, run, went, own, mem, poison⟩ := access_leads (w := onCore u c fun k => k.setKey n KeyCtx.init) runs free beat rfl rfl
    (by rw [if_neg opened, if_neg (ne_true_of_eq_false idle)]) (.onCore (.of_cores fun _ => rfl) fun _ => ⟨rfl, rfl, rfl⟩)
  rw [core_onCore_same] at own
  refine ⟨t, run, went, sameMemory_of mem poison, ?_, fun j other => ?_⟩
  · rw [own, key_issued, key_setKey_same]
  · rw [own, key_issued, key_setKey_other other]

theorem kstat_goes (opened : ((core u c).key (i.imm.toNat % 2)).state ≠ 0)
    (all : ((core u c).key (i.imm.toNat % 2)).fetched ≤ ((core u c).key (i.imm.toNat % 2)).arrived)
    (toExecute : ((core s c).queue i.queue).toAccess = false) (room : ((core s c).queue i.queue).entries.length < ((core s c).queue i.queue).depth)
    (roomAt : ((core s c).queue i.queue).roomAt ≤ a) :
    ∃ t, exec (.kstat c i) s = .next t ∧ AccessWent u t c (b.apos + 1) (a + 1) false ∧ SameMemory u t ∧
      OnlyQueue u t c i.queue ((core u c).held i.queue ++ [(true, 0, 0, a)]) := by
  have runs : exec (.kstat c i) s = guarded (decide (c < 800)) s (kstat s c i) := rfl
  unfold kstat at runs
  dsimp only at runs
  rw [low_bit] at runs
  generalize i.imm.toNat % 2 = n at *
  have pushes : pushBeat (core s c) i.queue a = some a := by
    rw [pushBeat, if_pos (show ((core s c).queue i.queue).room = true from decide_eq_true room), Nat.max_eq_left roomAt]
  obtain ⟨t, run, went, own, mem, poison⟩ := access_leads (w := onCore u c fun k => k.pushEntry i.queue true 0 0 a) runs free beat
    (auPushes_of toExecute) pushes (by rw [if_neg opened, if_neg (Nat.not_lt.2 all)]) (.onCore (.of_cores fun _ => rfl) fun _ => ⟨rfl, rfl, rfl⟩)
  rw [core_onCore_same] at own
  refine ⟨t, run, went, sameMemory_of mem poison, ?_, fun j other => ?_⟩
  · have held := (congrArg (Core.held · i.queue) own :)
    refine held.trans ?_
    show Queue.entries (Tab.get Queue.init (Tab.set Queue.init ..) i.queue) = _
    rw [Tab.get_set_same]
    rfl
  · exact (congrArg (Core.queue · j) own :).trans (Tab.get_set_other other ..)

end


/-! ### Slots of the PE (R120 to R122) -/

/-- Of the beats in which an owner is served by a bank, one that no line has is found where the search is long enough. -/
theorem grantFrom_serves {used : List (Nat × Nat)} {o : Owner} {k t : Nat} (f r : Nat) (low : r ≤ t) (high : t < r + f) (turn : serves o k t = true)
    (unused : (t, k) ∉ used) : r ≤ grantFrom used o k f r ∧ serves o k (grantFrom used o k f r) = true := by
  induction f generalizing r with
  | zero => omega
  | succ f ih =>
    rw [grantFrom]
    split
    · rename_i here
      exact ⟨Nat.le_refl r, (Bool.and_eq_true_iff.1 here).1⟩
    · rename_i taken
      have later : r ≠ t := by
        rintro rfl
        refine taken (Bool.and_eq_true_iff.2 ⟨turn, ?_⟩)
        rw [Bool.not_eq_true', List.contains_iff_mem.not.2 unused |> eq_false_of_ne_true]
      obtain ⟨after, turns⟩ := ih (r + 1) (by omega) (by omega)
      exact ⟨by omega, turns⟩

/-- Each bank serves the PE at least once in 16 beats. -/
theorem pe_turn (k r i : Nat) : serves .pe k (r + (16 - (r + k) % 16) % 16 + 16 * i) = true := by
  have first : (r + (16 - (r + k) % 16) % 16 + 16 * i + k) % 16 = 0 := by omega
  rw [serves, first]
  rfl

/-- A list shorter than a row of beats leaves one of them free. -/
theorem unused_beat (used : List (Nat × Nat)) (k t : Nat) : ∃ i ≤ used.length, (t + 16 * i, k) ∉ used := by
  by_contra none_
  push Not at none_
  have inside : ((List.range (used.length + 1)).map fun i => (t + 16 * i, k)) ⊆ used := by
    intro e member
    obtain ⟨i, hi, rfl⟩ := List.mem_map.1 member
    exact none_ i (by have := List.mem_range.1 hi; omega)
  have distinct : ((List.range (used.length + 1)).map fun i => (t + 16 * i, k)).Nodup :=
    List.Nodup.map (fun i j same => by have := congrArg Prod.fst same; dsimp only at this; omega) List.nodup_range
  have fits := (distinct.subperm inside).length_le
  rw [List.length_map, List.length_range] at fits
  omega

/-- An access of the PE is granted in a beat of the PE. -/
theorem grantBeat_pe (k : Core) (key a : Nat) : a ≤ k.grantBeat .pe key a ∧ slotOwner ((k.grantBeat .pe key a + key / 64 % 16) % 16) = .pe := by
  have length : (k.grants.map Grant.place).length = k.grants.length := List.length_map ..
  obtain ⟨i, few, unused⟩ := unused_beat (k.grants.map Grant.place) (bankOf key) (a + (16 - (a + bankOf key) % 16) % 16)
  rw [length] at few
  obtain ⟨after, turn⟩ := grantFrom_serves (16 * (k.grants.length + 2)) a (by omega) (by omega) (pe_turn (bankOf key) a i) unused
  exact ⟨after, beq_iff_eq.1 turn⟩

/-- Lines of a tile that wait for slots of the PE. -/
structure TileLines (c id src t a n m : Nat) (l : List Grant) : Prop where
  places : (l.map fun e => (e.src, e.dst, e.n)) = (List.range n).map fun j => (src + 64 * j, Mem.tile c t (64 * j), 64)
  each : ∀ e ∈ l, e.xfer = some id ∧ a ≤ e.beat ∧ e.beat + 4 ≤ m ∧ slotOwner ((e.beat + e.src / 64 % 16) % 16) = .pe

theorem ktileSlots_lines (k : Core) (c id src t a : Nat) : ∃ l, (ktileSlots k c id src t a).1.grants = k.grants ++ l ∧
    TileLines c id src t a 64 (ktileSlots k c id src t a).2 l := by
  unfold ktileSlots
  suffices lines : ∀ n, ∃ l, ((List.range n).foldl (fun (q : Core × Nat) i =>
      let r := q.1.take .pe false (src + 64 * i) a
      (r.1.book ⟨r.2, some id, false, src + 64 * i, Mem.tile c t (64 * i), none, 64, none, none⟩, max q.2 (r.2 + 4))) (k, 0)).1.grants = k.grants ++ l ∧
      TileLines c id src t a n ((List.range n).foldl (fun (q : Core × Nat) i =>
      let r := q.1.take .pe false (src + 64 * i) a
      (r.1.book ⟨r.2, some id, false, src + 64 * i, Mem.tile c t (64 * i), none, 64, none, none⟩, max q.2 (r.2 + 4))) (k, 0)).2 l from lines 64
  intro n
  induction n with
  | zero => exact ⟨[], (List.append_nil _).symm, rfl, fun e none_ => absurd none_ List.not_mem_nil⟩
  | succ n ih =>
    obtain ⟨l, grants, places, each⟩ := ih
    rw [List.range_succ, List.foldl_append, List.foldl_cons, List.foldl_nil]
    generalize (List.range n).foldl _ (k, 0) = q at *
    obtain ⟨after, turn⟩ := grantBeat_pe q.1 (src + 64 * n) a
    refine ⟨l ++ [⟨q.1.grantBeat .pe (src + 64 * n) a, some id, false, src + 64 * n, Mem.tile c t (64 * n), none, 64, none, none⟩], ?_, ?_, fun e member => ?_⟩
    · show q.1.grants ++ [_] = _
      rw [grants, List.append_assoc]
      rfl
    · rw [List.map_append, places, List.range_succ, List.map_append]
      rfl
    · rcases List.mem_append.1 member with old | new
      · obtain ⟨same, since, until_, pe⟩ := each e old
        exact ⟨same, since, Nat.le_trans until_ (Nat.le_max_left ..), pe⟩
      · obtain rfl := List.mem_singleton.1 new
        exact ⟨rfl, after, Nat.le_max_right .., turn⟩

section
variable {s u : State} {c a n : Nat} {b : Block} {i : AIns} {g : Staged}

/-- The record of a `KTILE` that loads the next tile of chunk g, with its last line moved at beat e. -/
def tileXfer (u : State) (c n word a : Nat) (i : AIns) (g : Staged) (e : Nat) : Xfer :=
  { newXfer u c .ktile word a 0 n i.queue i.tile false 4096 with cursor := g.position, done := 4096, ownEnd := e }

/-- The slots of its lines. -/
def tileSlots (u : State) (c n a : Nat) (i : AIns) (g : Staged) : Core × Nat :=
  ktileSlots (core u c) c (core u c).nextXfer (((core u c).key n).stageKey c g.place + 4096 * g.taken) i.tile a

/-- The context of which it takes a tile. -/
def KeyCtx.takesTile (v : KeyCtx) (g : Staged) : KeyCtx :=
  { v with staged := v.staged.map fun (y : Staged) => if y.position = g.position then { y with taken := y.taken + 1 } else y }

/-- The machine in which it waits for them. -/
def tileLoads (u : State) (c n word a : Nat) (i : AIns) (g : Staged) : State :=
  onCore u c fun k => ({ k with grants := (tileSlots u c n a i g).1.grants }.addXfer (tileXfer u c n word a i g (tileSlots u c n a i g).2)).setKey n (((core u c).key n).takesTile g)

theorem keepsStream_tileLoads (u : State) (c n word a : Nat) (i : AIns) (g : Staged) : KeepsStream u (tileLoads u c n word a i g) c := by
  unfold tileLoads
  generalize tileXfer u c n word a i g (tileSlots u c n a i g).2 = x
  generalize (tileSlots u c n a i g).1.grants = l
  exact .onCore (.of_cores fun _ => rfl) fun _ => ⟨rfl, rfl, rfl⟩

theorem ktile_goes (free : AccessFree s c a b u) (beat : a = max (max b.anext b.b0) (core s c).beat)
    (usable : ((core u c).key (i.imm.toNat % 2)).state = 1) (toExecute : ((core s c).queue i.queue).toAccess = false)
    (found : ((core u c).key (i.imm.toNat % 2)).staged.find? (fun g => decide (g.taken < ((core u c).key (i.imm.toNat % 2)).tiles)) = some g)
    (verdict : g.verdict = true) (named : i.pool = false) (low : i.tile < 16) (checked : loadCheck (core u c) a i = none) :
    ∃ t x l, exec (.ktile c i) s = .next t ∧ AccessWent u t c (b.apos + 1) (a + 1) false ∧ SameMemory u t ∧
      (core t c).xfers = (core u c).xfers ++ [x] ∧ x.kind = .ktile ∧ x.tile = i.tile ∧ x.cursor = g.position ∧
      (core t c).grants = (core u c).grants ++ l ∧ (l.map fun e => (e.src, e.dst, e.n)) = ((List.range 64).map fun j =>
        (((core u c).key (i.imm.toNat % 2)).stageKey c g.place + 4096 * g.taken + 64 * j, Mem.tile c i.tile (64 * j), 64)) ∧
      ∀ e ∈ l, e.xfer = some x.id ∧ a ≤ e.beat ∧ e.beat + 4 ≤ x.ownEnd ∧ slotOwner ((e.beat + e.src / 64 % 16) % 16) = .pe := by
  have runs : exec (.ktile c i) s = guarded (decide (c < 800)) s (ktile s c i) := rfl
  have native := mode_of_free free
  unfold ktile at runs
  dsimp only at runs
  rw [low_bit] at runs
  generalize i.imm.toNat % 2 = n at *
  have fine : ktileBad i = false := by
    rw [ktileBad, named]
    exact decide_eq_false (Nat.not_le.2 low)
  have one : ¬((core u c).c2 ∧ 6 ≤ (core u c).outstanding (tileEngine i.tile)) := fun ⟨c2, _⟩ => by
    rw [native] at c2
    exact absurd c2 (by decide)
  obtain ⟨t, run, went, own, mem, poison⟩ := access_leads (w := tileLoads u c n (b.word + b.apos) a i g) runs free beat (auPushes_of toExecute)
    (by
      rw [fine, loadReady, named]
      rfl) (by
      rw [fine, KeyCtx.refusal, if_pos usable, if_neg Bool.false_ne_true]
      dsimp only
      rw [found]
      dsimp only
      rw [verdict, loadTile, named, if_neg Bool.false_ne_true]
      dsimp only
      rw [if_neg (by decide), if_neg one, checked]
      rfl) (keepsStream_tileLoads ..)
  have core_ : core (tileLoads u c n (b.word + b.apos) a i g) c = _ := core_onCore_same ..
  rw [core_] at own
  obtain ⟨l, grants, places, each⟩ := ktileSlots_lines (core u c) c (core u c).nextXfer (((core u c).key n).stageKey c g.place + 4096 * g.taken) i.tile a
  exact ⟨t, tileXfer u c n (b.word + b.apos) a i g (tileSlots u c n a i g).2, l, run, went, sameMemory_of mem poison, (congrArg Core.xfers own :), rfl, rfl, rfl,
    (congrArg Core.grants own :).trans grants, places, each⟩

end


/-! ### `KOPEN` and `KCHAIN` (R367, R470 to R472) -/

section
variable {k₀ : Tab Core} {s : State} {c a : Nat} {x : Xfer}

theorem CoresIs.postEvent {p t st core d : Nat} (h : CoresIs k₀ s) : CoresIs k₀ (postEvent s p t st core d) :=
  h.inc.ite h.postEntry.signalVector

theorem CoresIs.meet {k n : Nat} (h : CoresIs k₀ s) : CoresIs k₀ (meet s k n) := h.foldl fun _ _ h => h.meetWord

theorem CoresIs.sendWrites {id : Nat} {l : List (Nat × Nat × List Byte)} (h : CoresIs k₀ s) : CoresIs k₀ (sendWrites s c id l) :=
  h.foldl fun _ _ h => h.request

theorem CoresIs.sendReads {id : Nat} {l : List Placed} (h : CoresIs k₀ s) : CoresIs k₀ (sendReads s c id l) := h.foldl fun _ _ h => h.request

theorem CoresIs.holdXfer {p : Placed} (h : CoresIs k₀ s) : CoresIs k₀ (holdXfer s c x p).1 := by
  have noted {u : State} (h : CoresIs k₀ u) : CoresIs k₀ (match ownerOf u (c / 25) with
      | some q => Machine.postEvent u q 1 0x0301 c p.miss.toNat
      | none => u) := by
    split
    · exact h.postEvent
    · exact h
  exact noted h.putAll.wr.wr.wr.wr.wr.wr.inc

/-- A machine with a core put in its own place. -/
theorem core_of_coresIs {t : State} (h : CoresIs (setCore s c (core s c)).cores t) (j : Nat) : core t j = core s j :=
  (core_congr ((coresIs_def t).1 h) j).trans (core_setCore_self s c j)

/-- Where a piece of a `KCHAIN` comes from. -/
theorem pairUp_source {B : Int} (f : Nat) (l m : List (Int × Nat)) (within : ∀ e ∈ l, e.1 + e.2 ≤ B) : ∀ p ∈ pairUp f l m, p.1 + p.2.2 ≤ B := by
  induction f generalizing l m with
  | zero => exact fun _ none_ => absurd none_ List.not_mem_nil
  | succ f ih =>
    cases l with
    | nil => exact fun _ none_ => absurd none_ List.not_mem_nil
    | cons e l =>
      cases m with
      | nil => exact fun _ none_ => absurd none_ List.not_mem_nil
      | cons d m =>
        intro p member
        have first : e.1 + e.2 ≤ B := within e (.head _)
        have least := Nat.min_le_left e.2 d.2
        rcases List.mem_cons.1 member with rfl | rest
        · show e.1 + (min e.2 d.2 : Nat) ≤ B
          omega
        · refine ih _ _ (fun y inside => ?_) p rest
          split at inside
          · exact within y (.tail _ inside)
          · rcases List.mem_cons.1 inside with rfl | old
            · show e.1 + (min e.2 d.2 : Nat) + (e.2 - min e.2 d.2 : Nat) ≤ B
              omega
            · exact within y (.tail _ old)

theorem mem_of_dropBytes {p : Int × Int × Nat} (l : List (Int × Int × Nat)) (n : Nat) (member : p ∈ dropBytes l n) : p ∈ l := by
  induction l generalizing n with
  | nil => exact member
  | cons q l ih =>
    rw [dropBytes] at member
    split at member
    · exact .tail _ (ih _ member)
    · exact member

section
variable (chain : x.kind = .kchain) (small : x.tile < 256)
include chain small

/-- The pieces of a `KCHAIN` come from the records of chains, in HBM. -/
theorem kchain_low : ∀ p ∈ (dropBytes (xferPieces s c x) x.done).map (place s c x), p.src < 2 ^ 38 := by
  intro p member
  obtain ⟨q, inside, rfl⟩ := List.mem_map.1 member
  have fromTile : x.fromTile = true := by
    rw [Xfer.fromTile, chain]
    rfl
  have piece := mem_of_dropBytes _ _ inside
  unfold xferPieces at piece
  dsimp only at piece
  rw [fromTile, if_pos rfl] at piece
  have within : q.1 + q.2.2 ≤ 4096 := by
    refine pairUp_source _ _ _ (fun e line => ?_) q piece
    obtain ⟨i, hi, rfl⟩ := List.mem_map.1 line
    have := List.mem_range.1 hi
    show ((64 * i : Nat) : Int) + (64 : Nat) ≤ 4096
    omega
  have source : (if x.kind == .kchain then (0, Mem.hbm (0x10000000 + 0x1000 * x.tile + q.1.toNat)) else sideAt s c x.fromTile x.tile x.context .read q.1) =
      (0, Mem.hbm (0x10000000 + 0x1000 * x.tile + q.1.toNat)) := if_pos (by rw [chain]; rfl)
  unfold place
  rw [source]
  dsimp only
  rw [if_neg (fun no => no rfl)]
  generalize (if x.kind == .cpy then x.dstContext else x.context) = side
  split
  · show 0 < 2 ^ 38
    decide
  · show 0x10000000 + 0x1000 * x.tile + q.1.toNat < 2 ^ 38
    omega

/-- A `KCHAIN` moves on in a machine with the same cores. -/
theorem core_moveXfer_kchain (j : Nat) : core (moveXfer s c x a).1 j = core s j := by
  have low := kchain_low (s := s) (c := c) chain small
  have moved (l : List Placed) (low : ∀ p ∈ l, p.src < 2 ^ 38) : CoresIs (setCore s c (core s c)).cores (moveAll s c x a l).1 := by
    have far (p : Placed) (member : p ∈ l) : ownCm c p.src = false ∧ decide (2 ^ 41 ≤ p.src) = false := by
      have := low p member
      refine ⟨?_, decide_eq_false (by omega)⟩
      unfold ownCm bits
      rw [beq_eq_false_iff_ne.2 (by omega)]
      rfl
    have inner : (l.filter fun p => (ownCm c p.src || (decide (2 ^ 41 ≤ p.src) && ownCm c p.dst)) && !isOutbound p.dst) = [] := by
      refine List.filter_eq_nil_iff.2 fun p member => ?_
      obtain ⟨near, tile⟩ := far p member
      rw [near, tile]
      exact Bool.false_ne_true
    unfold moveAll
    dsimp only
    rw [inner]
    have met (m : List Placed) (sub : ∀ p ∈ m, p ∈ l) (t : State) (h : CoresIs (setCore s c (core s c)).cores t) :
        CoresIs (setCore s c (core s c)).cores (m.foldl (fun t p => Machine.meet (if ownCm c p.src then t else settleMem t p.src) p.src p.n) t) := by
      refine List.foldlRecOn (motive := CoresIs (setCore s c (core s c)).cores) m _ h fun t h p member => ?_
      have stands : settleMem t p.src = t := if_neg (by have := low p (sub p member); omega)
      rw [(far p (sub p member)).1, if_neg Bool.false_ne_true, stands]
      exact h.meet
    refine .sendReads (.sendWrites ?_)
    have base : CoresIs (setCore s c (core s c)).cores (setCore s c (core s c)) := coresIs_self _
    split
    · exact (met _ (fun p member => (List.mem_filter.1 member).1) _ base).putAll
    · exact met _ (fun p member => (List.mem_filter.1 member).1) _ base
  have good : ∀ p ∈ ((dropBytes (xferPieces s c x) x.done).map (place s c x)).takeWhile (fun p => p.code == 0), p.src < 2 ^ 38 :=
    fun p member => low p (List.takeWhile_subset _ member)
  have here := moved _ good
  refine core_of_coresIs (s := s) (c := c) ?_ j
  unfold moveXfer
  rw [if_neg (by rw [chain]; decide)]
  dsimp only
  split
  · exact here
  · split
    · exact here.holdXfer
    · exact here

end

/-- A `KOPEN` that starts does so in a machine with the same cores. -/
theorem core_moveXfer_kopen (opens : x.kind = .kopen) (j : Nat) : core (moveXfer s c x a).1 j = core s j := by
  have self : CoresIs s.cores s := coresIs_self s
  have kept : CoresIs s.cores (moveXfer s c x a).1 := by
    unfold moveXfer
    rw [if_pos (by rw [opens]; rfl)]
    split
    · exact self
    · split
      · exact self.holdXfer
      · exact self
  exact core_congr ((coresIs_def _).1 kept) j

/-- What a transfer keeps however far it moves. -/
theorem moveXfer_same (s : State) (c : Nat) (x : Xfer) (a : Nat) : (moveXfer s c x a).2.1.kind = x.kind ∧
    (moveXfer s c x a).2.1.dstContext = x.dstContext ∧ (moveXfer s c x a).2.1.length = x.length := by
  unfold moveXfer
  split
  · split
    · exact ⟨rfl, rfl, rfl⟩
    · split <;> exact ⟨rfl, rfl, rfl⟩
  · dsimp only
    split
    · exact ⟨rfl, rfl, rfl⟩
    · split <;> exact ⟨rfl, rfl, rfl⟩

theorem launch_goes (goes : Goes s c x) (f : Core → Core) : launch s c x f =
    .go (onCore (moveXfer s c x x.issue).1 c fun k => f (k.addXfer (moveXfer s c x x.issue).2.1)) none := by
  unfold launch
  dsimp only
  rw [if_neg (fun ⟨fails, _⟩ => fails (moveXfer_of_goes goes _))]

end

section
variable {s u : State} {c a : Nat} {b : Block} {i : AIns} {n : Nat} (free : AccessFree s c a b u) (beat : a = max (max b.anext b.b0) (core s c).beat)
include free beat

/-- An operation whose transfer starts, in a machine with the same cores. -/
theorem launches {m : Instr} {op : Nat} {ok : Bool} {early : Core → List Nat} {body : State → Nat → Nat → AuRes} {x : Xfer} {f : Core → Core}
    (runs : exec m s = guarded (decide (c < 800)) s (auIssue s c op ok early anyBeat body)) (defined : (early (core s c)).contains 0x0105 = false)
    (goes : Goes u c x) (starts : body u a (b.word + b.apos) = launch u c x f) (same : ∀ j, core (moveXfer u c x x.issue).1 j = core u j)
    (id_ : ∀ k, f k = k) : ∃ t y, exec m s = .next t ∧ AccessWent u t c (b.apos + 1) (a + 1) false ∧ (core t c).xfers = (core u c).xfers ++ [y] ∧
      (y.kind = x.kind ∧ y.dstContext = x.dstContext ∧ y.length = x.length) ∧ y.id = x.id ∧ (core t c).cursors = (core u c).cursors := by
  have body_ := starts.trans (launch_goes goes f)
  obtain ⟨t, run, went, own, -, -⟩ := access_leads runs free beat defined rfl body_
    (.onCore (.of_cores same) fun k => by rw [id_]; exact ⟨rfl, rfl, rfl⟩)
  rw [core_onCore_same, id_, same] at own
  exact ⟨t, (moveXfer u c x x.issue).2.1, run, went, (congrArg Core.xfers own :), moveXfer_same .., moveXfer_id .., (congrArg Core.cursors own :)⟩

theorem kopen_goes (toExecute : ((core s c).queue i.queue).toAccess = false) (usable : ctxUsable u c i.context = true)
    (goes : Goes u c (newXfer u c .kopen (b.word + b.apos) a i.context (i.imm.toNat % 2) i.queue 0 false 64)) :
    ∃ t x, exec (.kopen c i) s = .next t ∧ AccessWent u t c (b.apos + 1) (a + 1) false ∧ (core t c).xfers = (core u c).xfers ++ [x] ∧ x.kind = .kopen ∧
      x.dstContext = i.imm.toNat % 2 ∧ x.id = (core u c).nextXfer := by
  have runs : exec (.kopen c i) s = guarded (decide (c < 800)) s (kopen s c i) := rfl
  unfold kopen at runs
  rw [low_bit] at runs
  obtain ⟨t, x, run, went, xfers, ⟨kind, context, -⟩, number, -⟩ := launches free beat (f := id) runs (auPushes_of toExecute) goes
    (by rw [usable]; rfl) (core_moveXfer_kopen rfl) fun _ => rfl
  exact ⟨t, x, run, went, xfers, kind, context, number⟩

theorem kchain_goes (usable : ctxUsable u c i.context = true) (known : chainPrimes u (i.imm.toNat / 256) ≠ 0)
    (goes : Goes u c { newXfer u c .kchain (b.word + b.apos) a i.context 0 0 (i.imm.toNat / 256) false 4096 with cursor := 0, dstCursor := 0 }) :
    ∃ t x, exec (.kchain c i) s = .next t ∧ AccessWent u t c (b.apos + 1) (a + 1) false ∧ (core t c).xfers = (core u c).xfers ++ [x] ∧ x.kind = .kchain ∧
      x.length = 4096 ∧ (core t c).cursors = (core u c).cursors := by
  have runs : exec (.kchain c i) s = guarded (decide (c < 800)) s (kchain s c i) := rfl
  have bound := i.imm.isLt
  have high : bits i.imm.toNat 15 8 = i.imm.toNat / 256 := by
    unfold bits
    omega
  unfold kchain at runs
  dsimp only at runs
  rw [high] at runs
  obtain ⟨t, x, run, went, xfers, ⟨kind, -, length⟩, -, cursors⟩ := launches free beat (f := kchain.id') runs rfl goes
    (by
      dsimp only
      rw [usable, if_pos rfl, if_neg known, if_neg (by decide)]) (core_moveXfer_kchain rfl (show i.imm.toNat / 256 < 256 by omega)) fun _ => rfl
  exact ⟨t, x, run, went, xfers, kind, length, cursors⟩

end


/-! ## Chunks that arrive (R370 to R374) -/

section
variable {s : State} {c n beats : Nat} {v : KeyCtx} {x : Xfer} {g : Staged} {f : Nat} {h : List Byte}

theorem chunkChecks_le (v : KeyCtx) (k : Nat) (h d : List Byte) : chunkChecks v k h d ≤ 7 := by
  unfold chunkChecks
  dsimp only
  have one (p : Prop) [Decidable p] (m : Nat) : (if p then 0 else m) ≤ m := by split <;> omega
  calc _ ≤ 1 + 2 + 4 := Nat.add_le_add (Nat.add_le_add (one _ 1) (one _ 2)) (one _ 4)
    _ = 7 := rfl

/-- A failing chunk has a status. -/
theorem checksStatus_eq (few : f ≤ 7) (fails : f ≠ 0) : checksStatus f = if bit f 0 then 0x0203 else if bit f 1 then 0x0204 else 0x0205 := by
  have all : ∀ f ≤ 7, f ≠ 0 → checksStatus f = if bit f 0 then 0x0203 else if bit f 1 then 0x0204 else 0x0205 := by decide
  exact all f few fails

/-- The first byte of the header of the next chunk, in the key store (R357, R370). -/
def KeyCtx.chunkAt (v : KeyCtx) : Nat := Mem.hbm (v.base + (64 + v.payload) * v.indexAt (v.position v.arrived))

/-- The machine in which the next chunk's payload has landed. -/
def chunkLanded (s : State) (c : Nat) (v : KeyCtx) (place : Nat) : State :=
  countCore (copyMarked s (v.chunkAt + 64) (v.stageKey c place) v.payload) c 0x00C 1

theorem cores_chunkLanded (place : Nat) : (chunkLanded s c v place).cores = s.cores :=
  (cores_of_still (still_countCore ..)).trans (copyMarked_cores ..)

/-- A read of the key store that meets nothing (R186, R194). -/
theorem readStatus_clean {a m : Nat} (low : a ≤ 2 ^ 38) (clean : (hbmStatus s a m .clean).1 = 0) : (readStatus s c a m).1 = 0 := by
  unfold readStatus
  rw [if_neg (by omega)]
  by_cases below : a < 2 ^ 38
  · rw [if_pos below]
    exact clean
  · obtain rfl : a = 2 ^ 38 := by omega
    have unmarked : poisoned s (2 ^ 38) m = false := by
      by_contra marked
      rw [hbmStatus, if_pos (.inr (eq_true_of_ne_false marked))] at clean
      exact absurd clean (by decide)
    have foreign : ownCm c (2 ^ 38) = false := rfl
    rw [if_neg below, foreign, unmarked]
    rfl

theorem landChunk_clean (key : (core s c).key n = v) (none_ : v.ring = none) (low : v.chunkAt + 64 + v.payload ≤ 2 ^ 38) (idle : (core s c).grants = [])
    (whole : s.flips = []) (header : (hbmStatus s v.chunkAt 64 .clean).1 = 0) (payload : (hbmStatus s (v.chunkAt + 64) v.payload .clean).1 = 0) (place : Nat) :
    landChunk s c n place 0 .clean = ⟨chunkLanded s c v place, 0,
      chunkChecks v v.arrived (rdBytes s v.chunkAt 64) (rdBytes s (v.chunkAt + 64) v.payload), rdBytes s v.chunkAt 64⟩ := by
  have keys : v.chunkKeys s 0 = (v.chunkAt, v.chunkAt + 64) := by
    unfold KeyCtx.chunkKeys
    rw [none_]
    rfl
  have met (k m : Nat) : meet s k m = s := by
    rw [meet, whole]
    rfl
  have settled : settleMem s (v.chunkAt + 64) = s := if_neg (by omega)
  have flushed : flush s c = s := by
    rw [flush, idle]
    rfl
  have clean : (if decide (v.chunkAt + 64 < 2 ^ 38) = true then s else wordErrors s (v.chunkAt + 64) .clean) = s := by split <;> rfl
  have status : lowestCode [(readStatus s c v.chunkAt 64).1, (if decide (v.chunkAt + 64 < 2 ^ 38) = true then hbmStatus s (v.chunkAt + 64) v.payload .clean
      else readStatus s c (v.chunkAt + 64) v.payload).1] = 0 := by
    rw [readStatus_clean (by omega) header]
    split
    · rw [payload]
      rfl
    · rw [readStatus_clean (by omega) payload]
      rfl
  unfold landChunk
  dsimp only
  rw [key, keys]
  dsimp only
  rw [clean, settled, met, met, flushed, status]
  rw [chunkLanded]
  generalize copyMarked s (v.chunkAt + 64) (v.stageKey c place) v.payload = t
  split
  · rfl
  · rfl

/-- A staging place once the chunk of g's position has arrived: its header and its verdict. -/
def Staged.judged (g : Staged) (f : Nat) (h : List Byte) (y : Staged) : Staged :=
  if y.position = g.position then { y with verdict := f == 0, header := h } else y

theorem judged_position (y : Staged) : (g.judged f h y).position = y.position := by
  unfold Staged.judged
  split <;> rfl

/-- The context once the chunk has arrived. -/
def KeyCtx.receives (v : KeyCtx) (g : Staged) (f : Nat) (h : List Byte) : KeyCtx :=
  { v.advance 0 with staged := v.staged.map (g.judged f h) }

theorem receives_staged (found : v.staged.find? (fun g => g.position == v.arrived) = some g) :
    (v.receives g f h).staged.find? (fun y => y.position == v.arrived) = some { g with verdict := f == 0, header := h } := by
  have same : (fun y : Staged => y.position == v.arrived) ∘ g.judged f h = fun y : Staged => y.position == v.arrived :=
    funext fun y => congrArg (· == v.arrived) (judged_position y)
  show (v.staged.map (g.judged f h)).find? _ = _
  rw [List.find?_map, same, found]
  exact congrArg some (if_pos rfl)

/-- The machine in which the fetch x of key context n has ended at beat e. -/
def fetchEnded (s : State) (c n : Nat) (v : KeyCtx) (g : Staged) (x : Xfer) (f : Nat) (h : List Byte) (e : Nat) : State :=
  endXfer (onCore (chunkLanded s c v g.place) c fun k => k.setKey n (v.receives g f h)) c x 0 e

/-- What the end of a fetch makes of its core. -/
def Core.fetchEnds (k : Core) (n : Nat) (v : KeyCtx) (x : Xfer) (e : Nat) : Core := (k.setKey n v).leaves x e

theorem core_fetchEnded (j e : Nat) : core (fetchEnded s c n v g x f h e) j =
    if j = c then (core s c).fetchEnds n (v.receives g f h) x e else core s j := by
  unfold fetchEnded
  rw [endXfer_zero, core_onCore, core_onCore_same]
  split
  · rw [core_congr (cores_chunkLanded g.place)]
    rfl
  · rename_i other
    rw [core_onCore, if_neg other, core_congr (cores_chunkLanded g.place)]

theorem mem_fetchEnded (e : Nat) : (fetchEnded s c n v g x f h e).mem = (copyMarked s (v.chunkAt + 64) (v.stageKey c g.place) v.payload).mem := by
  have landed : (chunkLanded s c v g.place).mem = (copyMarked s (v.chunkAt + 64) (v.stageKey c g.place) v.payload).mem :=
    mem_of_still (still_countCore ..)
  rw [← landed]
  unfold fetchEnded
  rw [endXfer_zero]
  rfl

theorem chunkArrives_clean (key : (core s c).key n = v) (none_ : v.ring = none) (low : v.chunkAt + 64 + v.payload ≤ 2 ^ 38) (idle : (core s c).grants = [])
    (whole : s.flips = []) (fetch : (core s c).xfers.find? (fun x => x.kind == .kfetch && x.dstContext == n) = some x)
    (found : v.staged.find? (fun g => g.position == v.arrived) = some g) (header : (hbmStatus s v.chunkAt 64 .clean).1 = 0)
    (payload : (hbmStatus s (v.chunkAt + 64) v.payload .clean).1 = 0)
    (checks : chunkChecks v v.arrived (rdBytes s v.chunkAt 64) (rdBytes s (v.chunkAt + 64) v.payload) = f) (read : rdBytes s v.chunkAt 64 = h) :
    chunkArrives s c n beats .clean = chunkVerdict (fetchEnded s c n v g x f h (max (core s c).beat (x.issue + beats))) c n v f h := by
  have offer : ringOffer s v = some 0 := by rw [ringOffer, none_]
  have beat : (core (onCore (chunkLanded s c v g.place) c fun k => k.setKey n (v.receives g f h)) c).beat = (core s c).beat := by
    rw [core_onCore_same, core_congr (cores_chunkLanded g.place)]
    rfl
  unfold chunkArrives
  dsimp only
  rw [key, fetch, found]
  dsimp only
  rw [offer]
  dsimp only
  rw [landChunk_clean key none_ low idle whole header payload g.place, checks, read]
  dsimp only
  show chunkVerdict (endXfer (onCore (chunkLanded s c v g.place) c fun k => k.setKey n (v.receives g f h)) c x 0
    (max (core (onCore (chunkLanded s c v g.place) c fun k => k.setKey n (v.receives g f h)) c).beat (x.issue + beats))) c n v f h = _
  rw [beat]
  rfl

/-- A chunk that arrives for the oldest fetch of a key context of a running core. -/
theorem chunk_lands (hc : c < 800) (hn : n < 2) (still_ : s.power.entry = none) (awake : asleep s (c / 25) = false) (running : (core s c).running = true)
    (plain_ : (core s c).passes = []) (key : (core s c).key n = v) (none_ : v.ring = none) (usable : v.state = 1)
    (low : v.chunkAt + 64 + v.payload ≤ 2 ^ 38) (idle : (core s c).grants = []) (whole : s.flips = [])
    (fetch : (core s c).xfers.find? (fun x => x.kind == .kfetch && x.dstContext == n) = some x)
    (found : v.staged.find? (fun g => g.position == v.arrived) = some g) (header : (hbmStatus s v.chunkAt 64 .clean).1 = 0)
    (payload : (hbmStatus s (v.chunkAt + 64) v.payload .clean).1 = 0)
    (checks : chunkChecks v v.arrived (rdBytes s v.chunkAt 64) (rdBytes s (v.chunkAt + 64) v.payload) = f) (read : rdBytes s v.chunkAt 64 = h) :
    ∃ t, exec (.keyChunkArrival c n beats .clean) s = .next t ∧ (core t c).beat = max (core s c).beat (x.issue + beats) ∧
      rdBytes t (v.stageKey c g.place) v.payload = rdBytes s (v.chunkAt + 64) v.payload ∧
      (∀ a, a < v.stageKey c g.place ∨ v.stageKey c g.place + v.payload ≤ a → rdByte t a = rdByte s a) ∧
      ((core t c).key n).arrived = v.arrived + 1 ∧ ((core t c).xfers = (core s c).xfers.filter fun y => y.id ≠ x.id) ∧
      (if f = 0 then ((core t c).key n).state = 1 ∧
          (((core t c).key n).staged.find? fun y => y.position == v.arrived) = some { g with verdict := true, header := h }
        else ((core t c).key n).state = 2 ∧ ((core t c).key n).status = if bit f 0 then 0x0203 else if bit f 1 then 0x0204 else 0x0205) ∧
      ∀ j, j ≠ c → core t j = core s j := by
  have runs : exec (.keyChunkArrival c n beats .clean) s = done s (chunkVerdict
      (fetchEnded s c n v g x f h (max (core s c).beat (x.issue + beats))) c n v f h) := by
    show guarded (decide (c < 800)) s (arrival s (c / 25) _ _) = _
    rw [guarded_of (decide_eq_true hc), arrival_awake still_ awake, keyChunk, running, Nat.mod_eq_of_lt hn]
    rw [if_neg (by decide), if_pos plain_, chunkArrives_clean key none_ low idle whole fetch found header payload checks read]
  have beat : max (core s c).beat (max (core s c).beat (x.issue + beats)) = max (core s c).beat (x.issue + beats) := by omega
  have xfers : ((core s c).fetchEnds n (v.receives g f h) x (max (core s c).beat (x.issue + beats))).xfers =
      (core s c).xfers.filter fun y => y.id ≠ x.id := List.filter_congr fun y _ => by rw [decide_not]; rfl
  have keyAt : ((core s c).fetchEnds n (v.receives g f h) x (max (core s c).beat (x.issue + beats))).key n = v.receives g f h := key_setKey_same ..
  have own (j : Nat) := core_fetchEnded (s := s) (c := c) (n := n) (v := v) (g := g) (x := x) (f := f) (h := h) j (max (core s c).beat (x.issue + beats))
  have mem := mem_fetchEnded (s := s) (c := c) (n := n) (v := v) (g := g) (x := x) (f := f) (h := h) (max (core s c).beat (x.issue + beats))
  have bytes := rdBytes_copyMarked s (v.chunkAt + 64) (v.stageKey c g.place) v.payload
  have frame (a : Nat) (outside : a < v.stageKey c g.place ∨ v.stageKey c g.place + v.payload ≤ a) := rdByte_copyMarked_other outside s (v.chunkAt + 64)
  have kept := receives_staged (f := f) (h := h) found
  have ends : ((core s c).fetchEnds n (v.receives g f h) x (max (core s c).beat (x.issue + beats))).beat = max (core s c).beat (x.issue + beats) := beat
  generalize (core s c).fetchEnds n (v.receives g f h) x (max (core s c).beat (x.issue + beats)) = k at *
  generalize fetchEnded s c n v g x f h (max (core s c).beat (x.issue + beats)) = e at *
  have state : (v.receives g f h).state = 1 := usable
  have arrived : (v.receives g f h).arrived = v.arrived + 1 := rfl
  generalize v.receives g f h = w at *
  rw [← rdBytes_congr mem] at bytes
  have frame' (a : Nat) (outside : a < v.stageKey c g.place ∨ v.stageKey c g.place + v.payload ≤ a) : rdByte e a = rdByte s a :=
    (rdByte_congr mem a).trans (frame a outside)
  have mine : core e c = k := (own c).trans (if_pos rfl)
  have others (j : Nat) (other : j ≠ c) : core e j = core s j := (own j).trans (if_neg other)
  by_cases good : f = 0
  · rw [chunkVerdict, if_pos (.inr good)] at runs
    refine ⟨_, runs, ?_⟩
    show (core e c).beat = _ ∧ rdBytes e _ _ = _ ∧ (∀ a, _ → rdByte e a = _) ∧ ((core e c).key n).arrived = _ ∧ (core e c).xfers = _ ∧
      (if f = 0 then ((core e c).key n).state = 1 ∧ ((core e c).key n).staged.find? _ = _ else _) ∧ ∀ j, j ≠ c → core e j = core s j
    rw [mine, keyAt, if_pos good]
    refine ⟨ends, bytes, frame', arrived, xfers, ⟨state, ?_⟩, others⟩
    rw [kept, good]
    rfl
  · have bad : ¬(v.state ≠ 1 ∨ f = 0) := by
      rintro (no | no)
      · exact no usable
      · exact good no
    rw [chunkVerdict, if_neg bad] at runs
    have stopped : core (stopKey (noteKeyFault e c n v.arrived f v h) c n (checksStatus f)) c = k.setKey n { w with state := 2, status := checksStatus f } := by
      rw [stopKey, core_onCore_same, core_congr (show (noteKeyFault e c n v.arrived f v h).cores = e.cores from rfl), mine, keyAt]
    have others' (j : Nat) (other : j ≠ c) : core (stopKey (noteKeyFault e c n v.arrived f v h) c n (checksStatus f)) j = core s j := by
      rw [stopKey, core_onCore, if_neg other]
      exact others j other
    have mem' : (stopKey (noteKeyFault e c n v.arrived f v h) c n (checksStatus f)).mem = e.mem := rfl
    have status := checksStatus_eq (f := f) (by rw [← checks]; exact chunkChecks_le ..) good
    generalize stopKey (noteKeyFault e c n v.arrived f v h) c n (checksStatus f) = z at *
    refine ⟨_, runs, ?_⟩
    show (core z c).beat = _ ∧ rdBytes z _ _ = _ ∧ (∀ a, _ → rdByte z a = _) ∧ ((core z c).key n).arrived = _ ∧ (core z c).xfers = _ ∧
      (if f = 0 then _ else ((core z c).key n).state = 2 ∧ ((core z c).key n).status = _) ∧ ∀ j, j ≠ c → core z j = core s j
    rw [stopped, key_setKey_same, if_neg good, rdBytes_congr mem']
    exact ⟨ends, bytes, fun a outside => (rdByte_congr mem' a).trans (frame' a outside), arrived, xfers, ⟨rfl, status⟩, others'⟩

end

/-! ## The statement -/

/-- Settles O20: the operations on key contexts issue as their bodies say in the machine that the stream has retired to, and a chunk
that arrives lands by the model's copy, with the verdict of its checks. -/
theorem keyContexts : Obligations.KeyContexts := by
  refine ⟨fun s u c a b i free beat => ?_, fun s c n beats x g => ?_⟩
  · exact ⟨fun toExecute usable goes => kopen_goes free beat toExecute usable goes, fun usable known goes => kchain_goes free beat usable known goes,
      fun p usable none_ ringless more place few => kfetch_goes free beat usable none_ ringless more place few,
      fun g usable toExecute found verdict named low checked => ktile_goes free beat usable toExecute found verdict named low checked,
      fun opened idle => kclose_goes free beat opened idle,
      fun opened all toExecute room roomAt => kstat_goes free beat opened all toExecute room roomAt⟩
  · intro k v at_ h d f key hc hn still_ awake running plain_ none_ usable low idle whole fetch found header payload
    exact chunk_lands hc hn still_ awake running plain_ rfl none_ usable low idle whole fetch found header payload rfl rfl

end Sys2Proof.Machine
end

section
/-! SUPPORT. Windows in time: contexts, credits and ranges (R576 to R594). -/

namespace Sys2Proof.Machine

open Sys2Proof


/-! ## Contexts of windows (R576, R578) -/

section
variable {s t u : State} {w i j : Nat}

/-- A word of eight bytes keeps its fields. -/
theorem bits_word {hi lo : Nat} (v : Nat) (high : hi < 64) : bits (v % 256 ^ 8) hi lo = bits v hi lo := by
  have cut : v % 256 ^ 8 = v % 2 ^ 64 := rfl
  rw [cut]
  exact bits_congr fun k _ _ => by rw [Nat.testBit_mod_two_pow, decide_eq_true (show k < 64 by omega), Bool.true_and]

theorem winWord_congr (mem : t.mem = s.mem) (w i : Nat) : winWord t w i = winWord s w i := rdNat_congr mem ..

theorem winWord_setWinWord_same (s : State) (w i v : Nat) : winWord (setWinWord s w i v) w i = v % 256 ^ 8 := rdNat_wrNat_same ..

theorem winWord_setWinWord_next (other : j ≠ i) (s : State) (w v : Nat) : winWord (setWinWord s w i v) w j = winWord s w j := by
  refine rdNat_wrNat_apart ?_ s v
  show 64 * w + 8 * j + 8 ≤ 64 * w + 8 * i ∨ 64 * w + 8 * i + 8 ≤ 64 * w + 8 * j
  omega

/-- Memory beside the context of window w reads as before. -/
def Elsewhere (s t : State) (w : Nat) : Prop := ∀ b, b < 64 * w ∨ 64 * w + 64 ≤ b → rdByte t b = rdByte s b

theorem Elsewhere.trans (h : Elsewhere s t w) (h' : Elsewhere t u w) : Elsewhere s u w := fun b far => (h' b far).trans (h b far)

theorem Elsewhere.of_mem (mem : t.mem = s.mem) : Elsewhere s t w := fun b _ => rdByte_congr mem b

theorem elsewhere_setWinWord (small : i < 8) (s : State) (w v : Nat) : Elsewhere s (setWinWord s w i v) w := fun b far => by
  refine rdByte_wrNat_other ?_ s v
  show b < 64 * w + 8 * i ∨ 64 * w + 8 * i + 8 ≤ b
  omega

/-! ### A window that changes its state (R583) -/

theorem winWord_setWinState (inner : i ≠ 0 ∧ i ≠ 7) (s : State) (w st : Nat) : winWord (setWinState s w st) w i = winWord s w i := by
  obtain ⟨first, last⟩ := inner
  unfold setWinState
  dsimp only
  rw [winWord_setWinWord_next last, winWord_setWinWord_next first]
  exact winWord_congr rfl ..

theorem winWord_setWinState_first (s : State) (w st : Nat) : winWord (setWinState s w st) w 0 = setBits (winWord s w 0) 63 62 st % 256 ^ 8 := by
  unfold setWinState
  dsimp only
  rw [winWord_setWinWord_next (by decide), winWord_setWinWord_same]

theorem winState_setWinState (s : State) (w st : Nat) : winState (setWinState s w st) w = st % 4 := by
  rw [winState, winWord_setWinState_first, bits_word _ (by decide), bits_setBits (by decide)]
  rfl

/-- The other fields of the first word. -/
theorem first_setWinState {hi lo : Nat} (below : hi < 62) (s : State) (w st : Nat) :
    bits (winWord (setWinState s w st) w 0) hi lo = bits (winWord s w 0) hi lo := by
  rw [winWord_setWinState_first, bits_word _ (by omega), bits_setBits_other (by decide) (.inl below)]

theorem elsewhere_setWinState (s : State) (w st : Nat) : Elsewhere s (setWinState s w st) w := by
  unfold setWinState
  dsimp only
  exact (Elsewhere.of_mem rfl).trans ((elsewhere_setWinWord (by decide) _ w _).trans (elsewhere_setWinWord (by decide) _ w _))

theorem win_setWin_same (s : State) (w : Nat) (v : Win) : win (setWin s w v) w = v := Tab.get_set_same ..

theorem landing_setLanding (s : State) (x : Nat) (l : List Landing) : (sector (setLanding s x l) x).landing = l :=
  congrArg Sector.landing (sector_setSector_same (s := s) x { sector s x with landing := l })

/-! ### Windows that become QUIET or FREE (R583, R585) -/

/-- A window that has changed its state, and nothing beside its context in memory. -/
theorem leads_state {n : Instr} {v : Nat} (runs : exec n s = done s t) (state : winState t w = v) (frame : Elsewhere s t w) :
    Leads n s fun t => winState t w = v ∧ Elsewhere s t w := leads_of_done runs ⟨state, frame⟩

theorem windowQuietExpiry_leads (hw : w < 1048576) : (winState s w ≠ 3 → Stays (.windowQuietExpiry w) s) ∧
    (winState s w = 3 → Leads (.windowQuietExpiry w) s fun t => winState t w = 0 ∧ Elsewhere s t w) := by
  have runs : exec (.windowQuietExpiry w) s = done s (if winState s w = 3 then setWinState s w 0 else s) := guarded_of (decide_eq_true hw) s _
  refine ⟨fun other => ?_, fun quiet => ?_⟩
  · rw [if_neg other] at runs
    exact runs
  · rw [if_pos quiet] at runs
    exact leads_state runs (winState_setWinState s w 0) (elsewhere_setWinState s w 0)

/-- Window w is QUIET, and its landing ranges have closed. -/
structure Quieted (s t : State) (w : Nat) : Prop where
  state : winState t w = 3
  frame : Elsewhere s t w
  blocks : (win t w).blocks = []
  flows : (win t w).flows = []
  landing : winTarget s w ≠ 2 → (sector t (winSector s w)).landing = (sector s (winSector s w)).landing.filter (·.window != w)

theorem leads_quieted {n : Instr} (runs : exec n s = done s t) (h : Quieted s t w) : Leads n s fun t => winState t w = 3 ∧ Elsewhere s t w ∧
    (win t w).blocks = [] ∧ (win t w).flows = [] ∧
    (winTarget s w ≠ 2 → (sector t (winSector s w)).landing = (sector s (winSector s w)).landing.filter (·.window != w)) :=
  leads_of_done runs ⟨h.state, h.frame, h.blocks, h.flows, h.landing⟩

theorem quieted_setWin (state : winState t w = 3) (frame : Elsewhere s t w) (landing : winTarget s w ≠ 2 →
    (sector t (winSector s w)).landing = (sector s (winSector s w)).landing.filter (·.window != w)) (v : Win) :
    Quieted s (setWin t w { v with blocks := [], flows := [] }) w where
  state := state
  frame := frame
  blocks := by rw [win_setWin_same]
  flows := by rw [win_setWin_same]
  landing := landing

theorem sectors_setWinState (s : State) (w st x : Nat) : sector (setWinState s w st) x = sector s x := rfl

theorem quieted_quietWindow (s : State) (w : Nat) : Quieted s (quietWindow s w) w := by
  unfold quietWindow
  dsimp only
  split
  · rename_i hbm
    exact quieted_setWin (winState_setWinState s w 3) (elsewhere_setWinState s w 3) (fun own => absurd hbm own) _
  · have mem : (setLanding s (winSector s w) ((sector s (winSector s w)).landing.filter (·.window != w))).mem = s.mem := rfl
    refine quieted_setWin (winState_setWinState _ w 3) ((Elsewhere.of_mem mem).trans (elsewhere_setWinState _ w 3)) (fun _ => ?_) _
    rw [sectors_setWinState]
    exact landing_setLanding ..

/-- What the target keeps of a window plays no part in its context. -/
theorem Quieted.of_setWin {v : Win} (h : Quieted (setWin s w v) t w) : Quieted s t w := ⟨h.state, h.frame, h.blocks, h.flows, h.landing⟩

theorem mayQuiet_of (settles : winTarget s w = 2 ∨ ((creditLeft s w = 0 ∨ (win s w).late = true) ∧ winShadowed s w = 0)) : mayQuiet s w = true := by
  rw [mayQuiet, Bool.or_eq_true, Bool.and_eq_true, Bool.or_eq_true, beq_iff_eq, beq_iff_eq, beq_iff_eq]
  exact settles

/-- A window of which 10 ms have passed since its REVOKE. -/
def lateWindow (s : State) (w : Nat) : State := setWin s w { win s w with late := true }

theorem mayQuiet_lateWindow (settles : winTarget s w = 2 ∨ winShadowed s w = 0) : mayQuiet (lateWindow s w) w = true := by
  refine mayQuiet_of (settles.imp id fun shadows => ⟨.inr ?_, shadows⟩)
  rw [lateWindow, win_setWin_same]

theorem closingEnd_leads (hw : w < 1048576) (late : Bool) : (winState s w ≠ 2 → Stays (.closingEnd w late) s) ∧
    (winState s w = 2 → winTarget s w = 2 ∨ ((creditLeft s w = 0 ∨ (win s w).late = true ∨ late = true) ∧ winShadowed s w = 0) →
      Leads (.closingEnd w late) s fun t => winState t w = 3 ∧ Elsewhere s t w ∧ (win t w).blocks = [] ∧ (win t w).flows = [] ∧
        (winTarget s w ≠ 2 → (sector t (winSector s w)).landing = (sector s (winSector s w)).landing.filter (·.window != w))) := by
  have runs : exec (.closingEnd w late) s = done s (closingEnd s w late) := guarded_of (decide_eq_true hw) s _
  refine ⟨fun other => ?_, fun closing settles => ?_⟩
  · rw [closingEnd, if_pos other] at runs
    exact runs
  · cases late with
    | true =>
      have ends : closingEnd s w true = quietWindow (lateWindow s w) w :=
        (if_neg (not_not.2 closing)).trans (if_pos (mayQuiet_lateWindow (settles.imp id And.right)))
      rw [ends] at runs
      exact leads_quieted runs (quieted_quietWindow (lateWindow s w) w).of_setWin
    | false =>
      have settled : mayQuiet s w = true := mayQuiet_of (settles.imp id fun ⟨credits, shadows⟩ =>
        ⟨credits.imp id fun late => late.resolve_right Bool.false_ne_true, shadows⟩)
      have ends : closingEnd s w false = quietWindow s w := (if_neg (not_not.2 closing)).trans (if_pos settled)
      rw [ends] at runs
      exact leads_quieted runs (quieted_quietWindow s w)

end


/-! ## Credits (R165, R581, R593) -/

/-- Since s, messages have left and counts have risen, and nothing else has changed that a message depends on. -/
structure Told (s t : State) : Prop where
  still : still t = still s
  dict : ∀ k < E.nd_count, rd t k = rd s k
  routes : t.routes = s.routes
  sent : ∀ o ∈ s.sent, o ∈ t.sent

namespace Told
variable {s t u : State}

theorem refl (s : State) : Told s s := ⟨rfl, fun _ _ => rfl, rfl, fun _ member => member⟩

theorem trans (h : Told s t) (h' : Told t u) : Told s u :=
  ⟨h'.still.trans h.still, fun k low => (h'.dict k low).trans (h.dict k low), h'.routes.trans h.routes, fun o member => h'.sent o (h.sent o member)⟩

theorem countDev (s : State) (ev i n : Nat) : Told s (countDev s ev i n) where
  still := still_countDev ..
  dict k low := rd_countDev s (low.trans (by decide)) ev i n
  routes := by
    refine foldl_keeps State.routes (fun t j => ?_) _ s
    unfold countAt
    dsimp only
    split <;> rfl
  sent o member := by rwa [sent_countDev]

theorem inc {k : Nat} (high : E.nd_count ≤ k) (s : State) : Told s (inc s k) where
  still := still_inc (s := s) k
  dict j low := rd_wr_other s (by omega) _
  routes := rfl
  sent o member := member

theorem noteNd (s : State) (cause : Nat) (p : Option Nat) : Told s (noteNd s cause p) := by
  have cause_ : Told s (Machine.countDev (Machine.inc s (E.nd_cause_count + (cause - 1))) 0x20B 64 1) :=
    (Told.inc (by show 0xA00201 ≤ 0xA00301 + _; omega) s).trans (Told.countDev ..)
  cases p with
  | none => exact cause_
  | some p => exact cause_.trans (Told.inc (by omega) _)

theorem sendFlits (s : State) (p vc n : Nat) : Told s (sendFlits s p vc n) := by
  have ported (v : Port) : Told s (setPort s p v) := ⟨rfl, fun _ _ => rfl, rfl, fun _ member => member⟩
  exact (ported _).trans (Told.countDev ..)

theorem emit (s : State) (o : Out) : Told s (emit s o) := ⟨rfl, fun _ _ => rfl, rfl, fun _ member => List.mem_cons_of_mem _ member⟩

/-- A message that leaves stands among the outputs. -/
theorem sendMsg (s : State) (ty : Nat) (m : Msg) : Told s (sendMsg s ty m) ∧
    (transmits s = true → reachable s m.dst = true → .msg ty m ∈ (Machine.sendMsg s ty m).sent) := by
  unfold Machine.sendMsg
  by_cases leaves : (transmits s && reachable s m.dst) = true
  · rw [if_pos leaves]
    dsimp only
    have noted (b : Bool) (p : Option Nat) : Told s (if b then Machine.noteNd s 1 p else s) := by
      split
      · exact Told.noteNd ..
      · exact refl s
    have flits (u : State) (e : Option Nat) (vc n : Nat) : Told u (match e with
        | some p => Machine.sendFlits u p vc n
        | none => u) := by
      split
      · exact Told.sendFlits ..
      · exact refl u
    exact ⟨((noted _ _).trans (flits _ _ _ _)).trans (Told.emit ..), fun _ _ => List.mem_cons_self ..⟩
  · rw [if_neg leaves]
    exact ⟨refl s, fun speaks known => absurd (Bool.and_eq_true_iff.2 ⟨speaks, known⟩) leaves⟩

theorem mem (h : Told s t) : t.mem = s.mem := mem_of_still h.still
theorem sectors (h : Told s t) : t.sectors = s.sectors := sectors_of_still h.still
theorem windows (h : Told s t) : t.windows = s.windows := show (Machine.still t).windows = (Machine.still s).windows from congrArg State.windows h.still

theorem reachable_eq (h : Told s t) (d : Nat) : reachable t d = reachable s d := by
  unfold reachable route
  rw [h.routes]

theorem transmits_eq (h : Told s t) : transmits t = transmits s := congrArg (· != 2) (h.dict E.twin_role (by decide))

theorem creditMsg_eq (h : Told s t) (w node flow tseq : Nat) : creditMsg t w node flow tseq = creditMsg s w node flow tseq := by
  have word (i : Nat) : winWord t w i = winWord s w i := winWord_congr h.mem w i
  have kept : win t w = win s w := by rw [win, win, h.windows]
  unfold creditMsg winEpoch creditTotal winTarget winFrontier
  rw [word, word, word, kept, h.dict E.node_id (by decide)]

end Told

section
variable {s t u : State} {w : Nat}

theorem credits_sent (l : List (Nat × Nat)) (s : State) : Told s (l.foldl (fun t f => sendMsg t 0x12 (creditMsg t w f.1 f.2 0)) s) ∧
    ∀ f ∈ l, transmits s = true → reachable s f.1 = true →
      .msg 0x12 (creditMsg s w f.1 f.2 0) ∈ (l.foldl (fun t f => sendMsg t 0x12 (creditMsg t w f.1 f.2 0)) s).sent := by
  induction l generalizing s with
  | nil => exact ⟨.refl s, fun _ none_ => absurd none_ List.not_mem_nil⟩
  | cons f l ih =>
    obtain ⟨first, sends⟩ := Told.sendMsg s 0x12 (creditMsg s w f.1 f.2 0)
    obtain ⟨rest, each⟩ := ih (sendMsg s 0x12 (creditMsg s w f.1 f.2 0))
    refine ⟨first.trans rest, fun g member speaks known => ?_⟩
    rcases List.mem_cons.1 member with rfl | later
    · exact rest.sent _ (sends speaks known)
    · have here := each g later (first.transmits_eq.trans speaks) ((first.reachable_eq g.1).trans known)
      rwa [first.creditMsg_eq] at here

theorem told_sendCredits (s : State) (w : Nat) : Told s (sendCredits s w) := by
  unfold sendCredits
  split
  · exact .refl s
  · exact (credits_sent _ s).1

theorem creditRepeatTimer_leads (hw : w < 1048576) : (winState s w ≠ 1 → Stays (.creditRepeatTimer w) s) ∧
    (winState s w = 1 → Leads (.creditRepeatTimer w) s fun t => t.mem = s.mem ∧ t.windows = s.windows ∧
      ∀ f ∈ (win s w).flows, transmits s = true → reachable s f.1 = true →
        (winPartition s w).any (scrubbing s) = false → .msg 0x12 (creditMsg s w f.1 f.2 0) ∈ t.sent) := by
  have runs : exec (.creditRepeatTimer w) s = done s (if winState s w = 1 then sendCredits s w else s) := guarded_of (decide_eq_true hw) s _
  refine ⟨fun other => ?_, fun opened => ?_⟩
  · rw [if_neg other] at runs
    exact runs
  · rw [if_pos opened] at runs
    have told := told_sendCredits s w
    refine leads_of_done runs ⟨told.mem, told.windows, fun f member speaks known assigned => ?_⟩
    show _ ∈ (sendCredits s w).sent
    rw [sendCredits, if_neg (ne_true_of_eq_false assigned)]
    exact (credits_sent _ s).2 f member speaks known

/-! ### A rolling window (R581) -/

/-- Since s, window w may have taken new credit, and nothing else has changed of windows and sectors. -/
structure Granted (s t : State) (w : Nat) : Prop where
  words : ∀ i, i ≠ 4 → winWord t w i = winWord s w i
  windows : t.windows = s.windows
  sectors : t.sectors = s.sectors

theorem granted_regrantWindow (s : State) (w : Nat) : Granted s (regrantWindow s w) w := by
  have stands : Granted s s w := ⟨fun _ _ => rfl, rfl, rfl⟩
  have counted (g x d : Nat) : Granted s (countSec (sendCredits (setWinWord s w 4 g) w) x 0x104 d) w := by
    have told := told_sendCredits (setWinWord s w 4 g) w
    have counts := still_countSec (s := sendCredits (setWinWord s w 4 g) w) x 0x104 d
    generalize countSec (sendCredits (setWinWord s w 4 g) w) x 0x104 d = v at counts
    generalize sendCredits (setWinWord s w 4 g) w = r at told counts
    refine ⟨fun i other => ?_, ?_, (sectors_of_still counts).trans told.sectors⟩
    · rw [winWord_congr ((mem_of_still counts).trans told.mem), winWord_setWinWord_next other]
    · exact (show (still v).windows = (still r).windows from congrArg State.windows counts).trans told.windows
  unfold regrantWindow
  dsimp only
  split
  · exact stands
  · split
    · exact stands
    · split
      · exact stands
      · exact counted _ _ _

theorem Granted.trans (h : Granted s t w) (h' : Granted t u w) : Granted s u w :=
  ⟨fun i other => (h'.words i other).trans (h.words i other), h'.windows.trans h.windows, h'.sectors.trans h.sectors⟩

theorem getD_winWords {i : Nat} (small : i < 8) (s : State) (w : Nat) : (winWords s w).getD i 0 = winWord s w i := by
  rw [winWords, List.getD_eq_getElem _ _ (by rwa [List.length_map, List.length_range]), List.getElem_map, List.getElem_range]

/-- The ranges of a window do not depend on its credits. -/
theorem blocksOf_congr (words : ∀ i, i ≠ 4 → winWord t w i = winWord s w i) : blocksOf (winWords t w) = blocksOf (winWords s w) := by
  unfold blocksOf
  rw [getD_winWords (by decide), getD_winWords (by decide), getD_winWords (by decide), getD_winWords (by decide), getD_winWords (by decide),
    getD_winWords (by decide), getD_winWords (by decide), getD_winWords (by decide), words 0 (by decide), words 1 (by decide), words 2 (by decide),
    words 3 (by decide)]

/-- A window without an open block rolls no further. -/
theorem rollWindow_none (none_ : (win s w).blocks = []) (f : Nat) : rollWindow f s w = s := by
  cases f with
  | zero => rfl
  | succ f =>
    rw [rollWindow]
    split
    · rfl
    · rw [none_]
      rfl

/-- A window whose block b has closed. -/
def blockClosed (s : State) (w : Nat) (b : Nat × Nat) : State :=
  setWin (setLanding s (winSector s w) ((sector s (winSector s w)).landing.filter fun r => !(r.window == w && 64 * r.target + r.idx == b.1))) w
    { win s w with blocks := (win s w).blocks.filter (·.1 != b.1) }

theorem winWord_blockClosed (s : State) (w : Nat) (b : Nat × Nat) (i : Nat) : winWord (blockClosed s w b) w i = winWord s w i := winWord_congr rfl w i

section
variable {b : Nat × Nat}

theorem win_blockClosed (blocks : (win s w).blocks = [b]) : (win (blockClosed s w b) w).blocks = [] := by
  rw [blockClosed, win_setWin_same]
  show (win s w).blocks.filter _ = []
  rw [blocks]
  exact List.filter_eq_nil_iff.2 fun c member => by rw [List.mem_singleton.1 member, bne_self_eq_false]; exact Bool.false_ne_true

theorem landing_blockClosed (s : State) (w : Nat) (b : Nat × Nat) : (sector (blockClosed s w b) (winSector s w)).landing =
    (sector s (winSector s w)).landing.filter fun r => !(r.window == w && 64 * r.target + r.idx == b.1) := landing_setLanding ..

/-- A rolling window whose one block is done, and that has no further range. -/
structure LastBlock (s : State) (w : Nat) (b : Nat × Nat) : Prop where
  opened : winState s w = 1
  own : winTarget s w ≠ 2
  rolls : bit (winWord s w 0) 50 = true
  blocks : (win s w).blocks = [b]
  finished : blockDone s w b = true
  last : (blocksOf (winWords s w))[winFrontier s w * 256 / blockSize (winTarget s w)]? = none

theorem LastBlock.granted (h : LastBlock s w b) (g : Granted s t w) : LastBlock t w b := by
  have target : winTarget t w = winTarget s w := by rw [winTarget, winTarget, g.words 0 (by decide)]
  have place : winSector t w = winSector s w := by rw [winSector, winSector, g.words 0 (by decide)]
  have sector_ (x : Nat) : sector t x = sector s x := by rw [sector, sector, g.sectors]
  refine ⟨?_, ?_, ?_, ?_, ?_, ?_⟩
  · rw [winState, g.words 0 (by decide)]
    exact h.opened
  · rw [target]
    exact h.own
  · rw [g.words 0 (by decide)]
    exact h.rolls
  · rw [win, g.windows]
    exact h.blocks
  · rw [blockDone, target, place, sector_]
    exact h.finished
  · rw [blocksOf_congr g.words, target, winFrontier, g.words 5 (by decide)]
    exact h.last

theorem LastBlock.rollWindow (h : LastBlock s w b) (f : Nat) : rollWindow (f + 1) s w = blockClosed s w b := by
  have found : (win s w).blocks.find? (blockDone s w) = some b := by
    rw [h.blocks]
    exact List.find?_cons_of_pos h.finished
  have words (i : Nat) (_ : i ≠ 4) : winWord (blockClosed s w b) w i = winWord s w i := winWord_blockClosed s w b i
  have none_ : (blocksOf (winWords (blockClosed s w b) w))[winFrontier (blockClosed s w b) w * 256 / blockSize (winTarget (blockClosed s w b) w)]? = none := by
    rw [blocksOf_congr words, winFrontier, winTarget, winWord_blockClosed, winWord_blockClosed]
    exact h.last
  rw [Machine.rollWindow, if_neg (by
    rintro (closed | hbm | still_)
    · exact closed h.opened
    · exact h.own hbm
    · rw [h.rolls] at still_
      exact absurd still_ (by decide)), found]
  show Machine.rollWindow f (match (blocksOf (winWords (blockClosed s w b) w))[winFrontier (blockClosed s w b) w * 256 /
    blockSize (winTarget (blockClosed s w b) w)]? with
    | some c => _
    | none => blockClosed s w b) w = _
  rw [none_]
  exact rollWindow_none (win_blockClosed h.blocks) f

theorem LastBlock.creditsMove (h : LastBlock s w b) : creditsMove s w = blockClosed (regrantWindow s w) w b := by
  have granted := granted_regrantWindow s w
  have closes := (h.granted granted).rollWindow (blocksOf (winWords s w)).length
  have frontier : winFrontier (blockClosed (regrantWindow s w) w b) w = winFrontier s w := by
    rw [winFrontier, winFrontier, winWord_blockClosed, granted.words 5 (by decide)]
  unfold Machine.creditsMove
  rw [Nat.add_comm, closes]
  exact if_pos frontier

variable {y r : Nat} {l : Landing} (hy : y < 32) (found : (sector s y).landing[r]? = some l) (of_ : l.window = w)
include hy found of_

theorem landingRangeClose_eq : exec (.landingRangeClose y r) s = done s (if winState s w = 2 then closingEnd s w false else creditsMove s w) := by
  show guarded _ s (landingRangeClose s y r) = _
  rw [guarded_of (decide_eq_true hy), landingRangeClose, found]
  dsimp only
  rw [of_]

theorem landingRangeClose_closing (hw : w < 1048576) (closing : winState s w = 2) :
    exec (.landingRangeClose y r) s = exec (.closingEnd w false) s := by
  rw [landingRangeClose_eq hy found of_, if_pos closing]
  exact (guarded_of (decide_eq_true hw) s _).symm

theorem landingRangeClose_rolls (h : LastBlock s w b) : Leads (.landingRangeClose y r) s fun t => (win t w).blocks = [] ∧
    (sector t (winSector s w)).landing = (sector s (winSector s w)).landing.filter fun r => !(r.window == w && 64 * r.target + r.idx == b.1) := by
  have runs := landingRangeClose_eq hy found of_
  rw [if_neg (by rw [h.opened]; decide), h.creditsMove] at runs
  have granted := granted_regrantWindow s w
  have after := h.granted granted
  have place : winSector (regrantWindow s w) w = winSector s w := by rw [winSector, winSector, granted.words 0 (by decide)]
  have landing := landing_blockClosed (regrantWindow s w) w b
  rw [place, show sector (regrantWindow s w) (winSector s w) = sector s (winSector s w) by rw [sector, sector, granted.sectors]] at landing
  exact leads_of_done runs ⟨win_blockClosed after.blocks, landing⟩

end

end


/-! ## What a completion leaves of flows and handles (R390, R582) -/

/-- From s to t neither the transport's state nor a handle has changed. -/
structure Flowless (s t : State) : Prop where
  transport : t.transport = s.transport
  handles : t.handles = s.handles

namespace Flowless
variable {s t u : State}

theorem refl (s : State) : Flowless s s := ⟨rfl, rfl⟩
theorem trans (h : Flowless s t) (h' : Flowless t u) : Flowless s u := ⟨h'.transport.trans h.transport, h'.handles.trans h.handles⟩
theorem of_still (same : still t = still s) : Flowless s t :=
  ⟨transport_of_still same, show (still t).handles = (still s).handles from congrArg State.handles same⟩

theorem onchipUe (s : State) (x a b : Nat) : Flowless s (onchipUe s x a b) := ⟨rfl, rfl⟩

theorem loseWord (s : State) (k : Nat) : Flowless s (loseWord s k) := by
  have marked (v : Nat) : Flowless s { mark s k with freeCtr := v } := ⟨rfl, rfl⟩
  have mark_ : Flowless s (mark s k) := ⟨rfl, rfl⟩
  unfold Machine.loseWord
  dsimp only
  split
  · exact (marked _).trans (onchipUe ..)
  · split
    · exact mark_.trans (onchipUe ..)
    · exact mark_.trans (onchipUe ..)

theorem meetWord (s : State) (k n : Nat) : Flowless s (meetWord s k n) := by
  have cleared : Flowless s { s with flips := Tab.set 0 s.flips k 0 } := ⟨rfl, rfl⟩
  have counted (e : Nat) : Flowless s (inc { s with flips := Tab.set 0 s.flips k 0 } e) := ⟨rfl, rfl⟩
  have lost := cleared.trans (loseWord _ k)
  unfold Machine.meetWord
  dsimp only
  repeat' split
  · exact cleared
  · exact lost
  · exact counted _
  · exact lost
  · exact counted _
  · exact lost
  · exact counted _
  · exact (counted _).trans (of_still (still_paceBreak ..))
  · exact lost

theorem storeAt (s : State) (k : Nat) (d : List Byte) : Flowless s (storeAt s k d) := by
  unfold Machine.storeAt
  split
  · obtain ⟨v, stored⟩ := hbmStore_eq (s := s) k d
    rw [stored]
    exact ⟨rfl, rfl⟩
  · have met : Flowless s (meetEdges s k d.length) :=
      List.foldlRecOn (motive := Flowless s) _ _ (refl s) fun t h e _ => h.trans (meetWord t e.1 e.2)
    exact met.trans ⟨rfl, rfl⟩

theorem noteLanded (s : State) (k n : Nat) : Flowless s (noteLanded s k n) := by
  unfold Machine.noteLanded
  split
  · exact refl s
  · exact ⟨rfl, rfl⟩

theorem postCompletion (s : State) (x k : Nat) (r : List Byte) : Flowless s (postCompletion s x k r) := by
  unfold Machine.postCompletion
  dsimp only
  split
  · exact ⟨rfl, rfl⟩
  · exact (⟨rfl, rfl⟩ : Flowless s (postEntry s ..)).trans (of_still ((still_signalVector _ _).trans (mirrorEntry_still ..)))

end Flowless

section
variable {s t u : State} {x k h : Nat} {v : Taken}

theorem handle_setHandle (s : State) (h : Nat) (v : Handle) (j : Nat) : handle (setHandle s h v) j = if j = h then v else handle s j := by
  split
  · rename_i same
    subst same
    exact Tab.get_set_same ..
  · rename_i other
    exact Tab.get_set_other other ..

theorem handle_congr (same : t.handles = s.handles) (j : Nat) : handle t j = handle s j := by rw [handle, handle, same]

/-- From s to t the transport's state stands, and of the handles those that are free or connect. -/
structure KeepsFree (s t : State) : Prop where
  transport : t.transport = s.transport
  free : ∀ j, (handle s j).state < 2 → handle t j = handle s j

theorem KeepsFree.trans (h : KeepsFree s t) (h' : KeepsFree t u) : KeepsFree s u :=
  ⟨h'.transport.trans h.transport, fun j low => (h'.free j (by rw [h.free j low]; exact low)).trans (h.free j low)⟩

theorem Flowless.keepsFree (h : Flowless s t) : KeepsFree s t := ⟨h.transport, fun j _ => handle_congr h.handles j⟩

/-- What a request leaves: its own handle alone takes it. -/
theorem request_keeps (r : Request) (ungrouped : r.group = none) : (request s h r).transport = s.transport ∧
    ∀ j, j ≠ h → handle (request s h r) j = handle s j := by
  have sends (u : State) : (sendNow u h r).transport = u.transport ∧ ∀ j, j ≠ h → handle (sendNow u h r) j = handle u j := by
    unfold sendNow
    dsimp only
    have after (m : Msg) (ty : Nat) (w : State) (same : w.transport = u.transport) (others : ∀ j, j ≠ h → handle w j = handle u j) :
        (sendMsg w ty m).transport = u.transport ∧ ∀ j, j ≠ h → handle (sendMsg w ty m) j = handle u j := by
      have leaves := Flowless.of_still (still_sendMsg (s := w) ty m)
      exact ⟨leaves.transport.trans same, fun j other => (handle_congr leaves.handles j).trans (others j other)⟩
    refine after _ _ _ ?_ fun j other => ?_
    · split <;> rfl
    · split
      · exact (handle_setHandle u h _ j).trans (if_neg other)
      · exact (handle_setHandle u h _ j).trans (if_neg other)
  unfold request
  rw [ungrouped]
  dsimp only
  split
  · exact sends s
  · exact ⟨rfl, fun j other => (handle_setHandle s h _ j).trans (if_neg other)⟩

theorem keepsFree_unitStore (s : State) (x p k : Nat) (d : List Byte) : KeepsFree s (unitStore s x p none k d).1 := by
  unfold unitStore
  dsimp only
  split
  · split
    · exact (Flowless.refl s).keepsFree
    · rename_i permitted
      dsimp only
      obtain ⟨transport, others⟩ := request_keeps (s := s) (h := outHandle k)
        ⟨0, 1, (handle s (outHandle k)).base + outOffset k, 0, d, none, 0, .other⟩ rfl
      refine ⟨transport, fun j low => others j ?_⟩
      rintro rfl
      refine permitted ?_
      unfold handleCode
      dsimp only
      rw [if_pos (.inr low)]
      decide
  · split
    · exact (Flowless.refl s).keepsFree
    · have stored (u : State) : KeepsFree u (storeAt u k d) := (Flowless.storeAt u k d).keepsFree
      dsimp only
      split
      · exact (Flowless.noteLanded ..).keepsFree.trans (stored _)
      · exact stored s

theorem keepsFree_vaWrite (s : State) (x p va : Nat) (d : List Byte) : KeepsFree s (vaWrite s x p none va d).1 := by
  unfold vaWrite
  dsimp only
  split
  · exact (Flowless.refl s).keepsFree
  · exact List.foldlRecOn (motive := fun q : State × Nat => KeepsFree s q.1) _ _ (Flowless.refl s).keepsFree
      fun q h e _ => h.trans (keepsFree_unitStore q.1 x p e.1 _)

/-- Landing ranges stand where a ring changes. -/
theorem landing_setRing (s : State) (x k : Nat) (v : Ring) (y : Nat) : (sector (setRing s x k v) y).landing = (sector s y).landing := by
  rw [setRing, sector_setSector]
  split
  · rename_i same
    rw [same]
  · rfl

/-- A record that leaves its ring keeps the transport's state, the free handles and the landing ranges. -/
theorem leftQueue_keeps (u : State) (x k : Nat) (v : Taken) (r extra : List Byte) : KeepsFree u (leftQueue u x k v r extra) ∧
    ∀ y, (sector (leftQueue u x k v r extra) y).landing = (sector u y).landing := by
  have ringed (q : Ring) : KeepsFree u (setRing u x k q) := ⟨rfl, fun _ _ => rfl⟩
  unfold leftQueue
  split
  · exact ⟨ringed _, fun y => landing_setRing u x k _ y⟩
  · rename_i p _
    split
    · exact ⟨ringed _, fun y => landing_setRing u x k _ y⟩
    · refine ⟨(ringed _).trans (keepsFree_vaWrite ..), fun y => ?_⟩
      have sectors := (sectorsIs_def _).1 ((sectorsIs_self (setRing u x k { ringOf u x k with queue := (ringOf u x k).queue.erase v })).vaWrite
        (x := x) (p := p) (va := v.completion) (d := r ++ extra))
      rw [sector, sectors]
      exact landing_setRing u x k _ y

theorem landing_postCompletion (s : State) (x k : Nat) (r : List Byte) (y : Nat) :
    (sector (postCompletion s x k r) y).landing = (sector s y).landing := by
  unfold postCompletion
  dsimp only
  split
  · exact landing_setRing s x k _ y
  · refine congrArg Sector.landing ?_
    rw [sector, sectors_of_still ((still_signalVector _ _).trans (mirrorEntry_still ..))]
    rfl

theorem finishWith_keeps (u : State) (x k : Nat) (v : Taken) (r extra : List Byte) : KeepsFree u (finishWith u x k v r extra) ∧
    ∀ y, (sector (finishWith u x k v r extra) y).landing = (sector u y).landing := by
  obtain ⟨w, ends⟩ := finishWith_eq u x k v r extra
  obtain ⟨free, landing⟩ := leftQueue_keeps u x k v r extra
  rw [ends]
  generalize leftQueue u x k v r extra = q at *
  have twinned : KeepsFree q { q with twin := { q.twin with completions := w } } := ⟨rfl, fun _ _ => rfl⟩
  exact ⟨(free.trans twinned).trans (Flowless.postCompletion ..).keepsFree, fun y => (landing_postCompletion _ x k r y).trans (landing y)⟩

/-- A completion keeps the transport's state, the free handles and the landing ranges. -/
theorem finishPlain_keeps (u : State) (x k : Nat) (v : Taken) (c : Nat) : KeepsFree u (finishPlain u x k v c) ∧
    ∀ y, (sector (finishPlain u x k v c) y).landing = (sector u y).landing := by
  obtain ⟨free, landing⟩ := finishWith_keeps { u with freeCtr := u.freeCtr + 1 } x k v (completionRecord u v c 0 0 (plainBeats u)) []
  exact ⟨⟨free.transport, free.free⟩, landing⟩

end


/-! ## What stands around a ring while a window changes -/

/-- From s to t the rings, the entries that describe them and the commons they lie in have not changed. -/
structure RingsKept (s t : State) : Prop where
  rings : ∀ x k, ringOf t x k = ringOf s x k
  entries : ∀ j, 0xB00000 ≤ j → rd t j = rd s j
  onchip : ∀ b, 2 ^ 38 ≤ b → rdByte t b = rdByte s b

namespace RingsKept
variable {s t u : State}

theorem refl (s : State) : RingsKept s s := ⟨fun _ _ => rfl, fun _ _ => rfl, fun _ _ => rfl⟩

theorem trans (h : RingsKept s t) (h' : RingsKept t u) : RingsKept s u :=
  ⟨fun x k => (h'.rings x k).trans (h.rings x k), fun j high => (h'.entries j high).trans (h.entries j high),
    fun b high => (h'.onchip b high).trans (h.onchip b high)⟩

theorem of_still (same : still t = still s) (entries : ∀ j, 0xB00000 ≤ j → rd t j = rd s j) : RingsKept s t :=
  ⟨fun x k => ringOf_congr (sectors_of_still same) x k, entries, fun b _ => rdByte_congr (mem_of_still same) b⟩

theorem wr {k : Nat} (low : k < 0xB00000) (s : State) (v : Nat) : RingsKept s (wr s k v) :=
  ⟨fun _ _ => rfl, fun _ high => rd_wr_other s (by omega) v, fun _ _ => rfl⟩

theorem setWin (s : State) (w : Nat) (v : Win) : RingsKept s (setWin s w v) := ⟨fun _ _ => rfl, fun _ _ => rfl, fun _ _ => rfl⟩

theorem setWinWord {w i : Nat} (small : w < 1048576) (inside : i < 8) (s : State) (v : Nat) : RingsKept s (setWinWord s w i v) :=
  ⟨fun _ _ => rfl, fun _ _ => rfl, fun b high => elsewhere_setWinWord inside s w v b (.inr (by omega))⟩

theorem setWinState {w : Nat} (small : w < 1048576) (s : State) (st : Nat) : RingsKept s (setWinState s w st) := by
  unfold Machine.setWinState
  dsimp only
  exact ((wr (by decide) s _).trans (setWinWord small (by decide) _ _)).trans (setWinWord small (by decide) _ _)

theorem setLanding {x : Nat} (known : x < 32) (s : State) (l : List Landing) : RingsKept s (setLanding s x l) := by
  refine RingsKept.trans (t := setSector s x { sector s x with landing := l }) ⟨fun y k => ?_, fun _ _ => rfl, fun _ _ => rfl⟩
    (wr (by show 0x340A01 + x < _; omega) _ _)
  rw [ringOf, ringOf, sector_setSector]
  split
  · rename_i same
    rw [same]
  · rfl

theorem countDev (s : State) (ev i n : Nat) : RingsKept s (countDev s ev i n) :=
  of_still (still_countDev ..) fun j high => foldl_keeps_of_mem (rd · j) (fun i member t => rd_countAt_other t (by
    have := List.mem_range.1 member
    show j ≠ 0xA01101 + i
    omega) ..) s

theorem countSec {x : Nat} (known : x < 32) (s : State) (ev n : Nat) : RingsKept s (countSec s x ev n) := by
  refine RingsKept.trans (of_still ?_ fun j high => ?_) (countDev _ ev 64 n)
  · exact foldl_keeps still (fun t _ => still_countAt t ..) _ s
  · exact foldl_keeps_of_mem (rd · j) (fun i member t => rd_countAt_other t (by
      have := List.mem_range.1 member
      show j ≠ 0xA30011 + 256 * x + i
      omega) ..) s

theorem inc {k : Nat} (low : k < 0xB00000) (s : State) : RingsKept s (inc s k) := wr low s _

theorem sendFlits (s : State) (p vc n : Nat) : RingsKept s (sendFlits s p vc n) := by
  have ported (v : Port) : RingsKept s (setPort s p v) := ⟨fun _ _ => rfl, fun _ _ => rfl, fun _ _ => rfl⟩
  exact (ported _).trans (countDev ..)

theorem winPartition_lt {p w : Nat} (found : winPartition s w = some p) : p < 32 := List.mem_range.1 (List.mem_of_find?_eq_some found)

/-- A choice among ports is charged to the window's partition. -/
theorem noteWindow (s r : State) (w : Nat) : RingsKept s (noteNd s 1 (winPartition r w)) := by
  have cause_ : RingsKept s (Machine.countDev (Machine.inc s (E.nd_cause_count + (1 - 1))) 0x20B 64 1) := (inc (by decide) s).trans (countDev ..)
  unfold noteNd
  dsimp only
  split
  · rename_i p found
    refine cause_.trans (inc ?_ _)
    have := winPartition_lt found
    show 0xA00201 + p < _
    omega
  · exact cause_

/-- A message of a window. -/
theorem sendMsg {ty : Nat} (of_ : 6 ≤ ty ∧ ty < 0x20) (s : State) (m : Msg) : RingsKept s (sendMsg s ty m) := by
  have named : msgPartition s ty m = winPartition s m.window := by
    rw [msgPartition, if_neg (Nat.not_lt.2 of_.1), if_pos of_.2]
  have noted (b : Bool) : RingsKept s (if b then noteNd s 1 (winPartition s m.window) else s) := by
    split
    · exact noteWindow ..
    · exact refl s
  have flits (u : State) (e : Option Nat) (vc n : Nat) : RingsKept u (match e with
      | some p => Machine.sendFlits u p vc n
      | none => u) := by
    split
    · exact sendFlits ..
    · exact refl u
  unfold Machine.sendMsg
  rw [named]
  dsimp only
  split
  · exact (noted _).trans ((flits _ _ _ _).trans ⟨fun _ _ => rfl, fun _ _ => rfl, fun _ _ => rfl⟩)
  · exact refl s

theorem completed {x k code : Nat} (h : RingsKept s u) (hk : k < 8) (fits : code < 2 ^ 16) (v : Taken) :
    Completed s (finishPlain u x k v code) x k v code :=
  completed_finishPlain hk fits (h.rings x k) (h.entries _ (by show _ ≤ 0xB10004 + _; omega)) (h.entries _ (by show _ ≤ 0xB10005 + _; omega))
    fun i _ => h.onchip _ (Nat.le_add_right_of_le (commons_high ..))

end RingsKept

section
variable {s t u : State} {x k w : Nat} {v : Taken}

/-- A completion that writes no record leaves the contexts of windows. -/
theorem winWord_finishPlain (small : w < 1048576) (zero : v.completion = 0) (u : State) (x k c : Nat) {i : Nat} (inside : i < 8) :
    winWord (finishPlain u x k v c) w i = winWord u w i := by
  rw [winWord, winWord, rdNat, rdNat, rdBytes_eq_map, rdBytes_eq_map]
  refine congrArg leNat (List.map_congr_left fun j member => ?_)
  have := List.mem_range.1 member
  exact rdByte_finishWith (by show 64 * w + 8 * i + j < _; omega) zero { u with freeCtr := u.freeCtr + 1 } x k _ []

theorem id_lt (v : Taken) : v.id < 1048576 := bits_lt ..

end

end Sys2Proof.Machine
end

section
/-! SUPPORT. Window records (R577 to R589). -/

namespace Sys2Proof.Machine

open Sys2Proof


/-! ## `WOPEN` (R577 to R582) -/

section
variable {s t u : State} {x k w : Nat} {v : Taken} {l : List Nat}

/-- What an image of words l opens of a window: its state, its fields, and no flow. -/
structure Opened (s t : State) (w : Nat) (l : List Nat) : Prop where
  state : winState t w = 1
  epoch : winEpoch t w = (winEpoch s w + 1) % 65536
  target : winTarget t w = bits (l.getD 0 0) 56 55
  base : winBase t w = bits (l.getD 2 0) 47 0
  length : winLength t w = bits (l.getD 3 0) 35 0

theorem Opened.of_words (h : Opened s t w l) (words : ∀ i < 4, winWord u w i = winWord t w i) : Opened s u w l where
  state := (congrArg (bits · 63 62) (words 0 (by decide))).trans h.state
  epoch := (congrArg (bits · 15 0) (words 0 (by decide))).trans h.epoch
  target := (congrArg (bits · 56 55) (words 0 (by decide))).trans h.target
  base := (congrArg (bits · 47 0) (words 2 (by decide))).trans h.base
  length := (congrArg (bits · 35 0) (words 3 (by decide))).trans h.length

/-- The first word of an open context. -/
def openWord (w0 e : Nat) : Nat := 2 ^ 62 + bits w0 61 39 * 2 ^ 39 + e

theorem bits_openWord {e : Nat} (small : e < 65536) (w0 : Nat) : bits (openWord w0 e) 63 62 = 1 ∧ bits (openWord w0 e) 15 0 = e ∧
    bits (openWord w0 e) 56 55 = bits w0 56 55 := by
  unfold openWord bits
  omega

theorem words_openContext (s : State) (w : Nat) (l : List Nat) :
    winWord (openContext s w l) w 0 = openWord (l.getD 0 0) ((winEpoch s w + 1) % 65536) % 256 ^ 8 ∧
    winWord (openContext s w l) w 2 = (l.getD 2 0 - bits (l.getD 2 0) 62 48 * 2 ^ 48) % 256 ^ 8 ∧
    winWord (openContext s w l) w 3 = bits (l.getD 3 0) 35 0 % 256 ^ 8 := by
  have ends (r : State) (i : Nat) : winWord (setWin r w Win.init) w i = winWord r w i := winWord_congr rfl w i
  unfold openContext
  dsimp only
  refine ⟨?_, ?_, ?_⟩
  · rw [ends, winWord_setWinWord_next (by decide), winWord_setWinWord_next (by decide), winWord_setWinWord_next (by decide),
      winWord_setWinWord_next (by decide), winWord_setWinWord_next (by decide), winWord_setWinWord_next (by decide), winWord_setWinWord_same]
    rfl
  · rw [ends, winWord_setWinWord_next (by decide), winWord_setWinWord_next (by decide), winWord_setWinWord_next (by decide),
      winWord_setWinWord_next (by decide), winWord_setWinWord_same]
  · rw [ends, winWord_setWinWord_next (by decide), winWord_setWinWord_next (by decide), winWord_setWinWord_next (by decide),
      winWord_setWinWord_same]

theorem opened_openContext (s : State) (w : Nat) (l : List Nat) : Opened s (openContext s w l) w l := by
  obtain ⟨first, base, length⟩ := words_openContext s w l
  obtain ⟨state, epoch, target⟩ := bits_openWord (Nat.mod_lt (winEpoch s w + 1) (by decide : 0 < 65536)) (l.getD 0 0)
  refine ⟨?_, ?_, ?_, ?_, ?_⟩
  · rw [winState, first, bits_word _ (by decide), state]
  · rw [winEpoch, first, bits_word _ (by decide), epoch]
  · rw [winTarget, first, bits_word _ (by decide), target]
  · rw [winBase, base, bits_word _ (by decide)]
    unfold bits
    omega
  · rw [winLength, length, bits_word _ (by decide)]
    unfold bits
    omega

theorem rd_setWin (s : State) (w : Nat) (v : Win) (j : Nat) : rd (setWin s w v) j = rd s j := rfl
theorem rd_setWinWord (s : State) (w i v j : Nat) : rd (setWinWord s w i v) j = rd s j := rfl

theorem rd_openContext (closed : winState s w ≠ 1) (l : List Nat) :
    rd (openContext s w l) E.windows_open = cut E.windows_open (rd s E.windows_open + 1) := by
  have counted : rd (setWinState s w 1) E.windows_open = cut E.windows_open (rd s E.windows_open + 1) := by
    unfold setWinState
    dsimp only
    rw [if_neg fun h => closed h.1, if_pos ⟨closed, rfl⟩]
    exact (rd_wr ..).trans (if_pos rfl)
  unfold openContext
  dsimp only
  rw [rd_setWin, rd_setWinWord, rd_setWinWord, rd_setWinWord, rd_setWinWord, rd_setWinWord, rd_setWinWord, rd_setWinWord, counted]

theorem kept_openContext (small : w < 1048576) (s : State) (l : List Nat) : RingsKept s (openContext s w l) := by
  unfold openContext
  dsimp only
  exact (((((((RingsKept.setWinState small s 1).trans (.setWinWord small (by decide) ..)).trans (.setWinWord small (by decide) ..)).trans
    (.setWinWord small (by decide) ..)).trans (.setWinWord small (by decide) ..)).trans (.setWinWord small (by decide) ..)).trans
    (.setWinWord small (by decide) ..)).trans ((RingsKept.setWinWord small (by decide) ..).trans (.setWin ..))

/-- Ranges of window w have opened, or credit has been granted to it. -/
structure Ranged (s t : State) (w : Nat) : Prop where
  kept : RingsKept s t
  steady : Steady s t
  words : ∀ i < 4, winWord t w i = winWord s w i

theorem Ranged.trans (h : Ranged s t w) (h' : Ranged t u w) : Ranged s u w :=
  ⟨h.kept.trans h'.kept, h.steady.trans h'.steady, fun i low => (h'.words i low).trans (h.words i low)⟩

theorem ranged_openBlock (small : w < 1048576) (s : State) (n : Nat) : Ranged s (openBlock s w n) w := by
  unfold openBlock
  split
  · exact ⟨.refl s, steady_self s, fun _ _ => rfl⟩
  · dsimp only
    refine ⟨(RingsKept.setLanding (winSector_lt s w) s _).trans ((RingsKept.setWin ..).trans (.setWinWord small (by decide) ..)), ?_, fun i low => ?_⟩
    · have counted (l : List Landing) : Steady s (setLanding s (winSector s w) l) :=
        (steady_self s).setSector.wr (not_calm (b := E.landing_ranges_open) (n := 32) (by decide) (winSector_lt s w))
      exact (counted _).mk.wrNat
    · rw [winWord_setWinWord_next (by omega)]
      exact winWord_congr rfl w i

theorem ranged_sendCredits (s : State) (w : Nat) : Ranged s (sendCredits s w) w := by
  have sent (l : List (Nat × Nat)) : Ranged s (l.foldl (fun t f => sendMsg t 0x12 (creditMsg t w f.1 f.2 0)) s) w :=
    List.foldlRecOn (motive := (Ranged s · w)) l _ ⟨.refl s, steady_self s, fun _ _ => rfl⟩ fun u h f _ => h.trans
      ⟨.sendMsg (by decide) u _, (steady_self u).sendMsg, fun i _ => winWord_congr (mem_of_still (still_sendMsg ..)) w i⟩
  unfold sendCredits
  split
  · exact ⟨.refl s, steady_self s, fun _ _ => rfl⟩
  · exact sent _

theorem ranged_regrantWindow (small : w < 1048576) (s : State) : Ranged s (regrantWindow s w) w := by
  have stands : Ranged s s w := ⟨.refl s, steady_self s, fun _ _ => rfl⟩
  have counted (g x d : Nat) (known : x < 32) : Ranged s (countSec (sendCredits (setWinWord s w 4 g) w) x 0x104 d) w := by
    have granted : Ranged s (setWinWord s w 4 g) w :=
      ⟨.setWinWord small (by decide) s g, (steady_self s).wrNat, fun i low => winWord_setWinWord_next (by omega) s w g⟩
    refine (granted.trans (ranged_sendCredits ..)).trans ⟨.countSec known .., (steady_self _).countSec, fun i _ => ?_⟩
    exact winWord_congr (mem_of_still (still_countSec ..)) w i
  unfold regrantWindow
  dsimp only
  split
  · exact stands
  · split
    · exact stands
    · split
      · exact stands
      · exact counted _ _ _ (winSector_lt s w)

/-- The machine in which window w has opened as l says. -/
def openedWindow (s : State) (w : Nat) (l : List Nat) : State :=
  regrantWindow ((List.range (openAtOnce l)).foldl (fun u n => openBlock u w n) (openContext s w l)) w

theorem ranged_openedWindow (small : w < 1048576) (s : State) (l : List Nat) : Ranged (openContext s w l) (openedWindow s w l) w :=
  (List.foldlRecOn (motive := (Ranged (openContext s w l) · w)) _ _ ⟨.refl _, steady_self _, fun _ _ => rfl⟩
    fun u h n _ => h.trans (ranged_openBlock small u n)).trans (ranged_regrantWindow small _)

/-- The words of an image. -/
def imageWords (d : List Byte) : List Nat := (List.range 8).map (recWord d)

/-- An image names no target, or a range of HBM. -/
def imageIll (l : List Nat) : Bool :=
  bits (l.getD 0 0) 56 55 == 3 || (bits (l.getD 0 0) 56 55 != 2 && (bit (l.getD 0 0) 52 || bit (l.getD 0 0) 51))

/-- What a `WOPEN` of window w, with an image that reads as r, is refused with (R18). -/
def openCode (s : State) (p w : Nat) (checks : Bool) (r : Nat × List Byte) : Nat :=
  if !checks then 0x0105
  else if r.1 ≠ 0 then lowestOf [0x0302, if winState s w = 0 then 0 else 0x0407]
  else lowestOf [if imageIll (imageWords r.2) then 0x0105 else 0, if imageRefused s p w (imageWords r.2) then 0x0302 else 0,
    if winState s w = 0 then 0 else 0x0407]

/-- The image of a window record. -/
def recordImage (s : State) (x : Nat) (v : Taken) : Nat × List Byte := vaRead s (ringPart s x) (.unit x) (bits (v.word 1) 47 0) 64

section
variable (hx : x < 32) (hk : k < 8) (next : nextOp s x k 0x50 = some v)
include hx hk next

theorem exec_wopen : exec (.wopen x k) s = done s (wopen s x k v) := by
  rw [show exec (.wopen x k) s = execWopen x k s from rfl, execWopen, next]
  exact guarded_of (decide_eq_true ⟨hx, hk⟩) ..

theorem wopen_holdoff (holds : s.transport.holdoff = true) : Stays (.wopen x k) s :=
  (exec_wopen hx hk next).trans (congrArg (done s) (if_pos holds))

variable (open_ : s.transport.holdoff = false)
include open_

theorem wopen_refuses {code : Nat} (refused : openCode s (ringPart s x) v.id v.checks (recordImage s x v) = code) (some_ : code ≠ 0)
    (fits : code < 2 ^ 16) : Refuses (.wopen x k) s x k v code := by
  refine refuses_finishPlain hk fits ((exec_wopen hx hk next).trans (congrArg (done s) ?_))
  have nonzero : openCode s (ringPart s x) v.id v.checks (recordImage s x v) ≠ 0 := by rwa [refused]
  have ends : wopen s x k v = finishPlain s x k v (openCode s (ringPart s x) v.id v.checks (recordImage s x v)) :=
    (if_neg (ne_true_of_eq_false open_)).trans (if_pos nonzero)
  rw [ends, refused]

theorem wopen_opens (passes : openCode s (ringPart s x) v.id v.checks (recordImage s x v) = 0) (free : winState s v.id = 0) :
    Leads (.wopen x k) s fun t => Completed s t x k v 0 ∧ rd t E.windows_open = cut E.windows_open (rd s E.windows_open + 1) ∧
      (v.completion = 0 → winState t v.id = 1 ∧ winEpoch t v.id = (winEpoch s v.id + 1) % 65536 ∧
        winTarget t v.id = bits ((imageWords (recordImage s x v).2).getD 0 0) 56 55 ∧
        winBase t v.id = bits ((imageWords (recordImage s x v).2).getD 2 0) 47 0 ∧
        winLength t v.id = bits ((imageWords (recordImage s x v).2).getD 3 0) 35 0) := by
  have runs : wopen s x k v = finishPlain (openedWindow s v.id (imageWords (recordImage s x v).2)) x k v 0 :=
    (if_neg (ne_true_of_eq_false open_)).trans (if_neg (not_not.2 passes))
  generalize imageWords (recordImage s x v).2 = l at runs ⊢
  have small := id_lt v
  have ranged := ranged_openedWindow small s l
  have counts := rd_openContext (s := s) (w := v.id) (by rw [free]; decide) l
  have kept := (kept_openContext small s l).trans ranged.kept
  have opened := (opened_openContext s v.id l).of_words ranged.words
  generalize openedWindow s v.id l = u at runs ranged kept opened
  refine leads_of_effect ((exec_wopen hx hk next).trans (congrArg (done s) runs)) ⟨kept.completed hk (by decide) v, ?_, fun zero => ?_⟩ fun _ _ h => h
  · have stands : Steady u (finishPlain u x k v 0) := (steady_self u).mk.finishWith
    rw [stands.rd (by decide), ranged.steady.rd (by decide), counts]
  · obtain ⟨state, epoch, target, base, length⟩ := opened.of_words fun i low => winWord_finishPlain small zero u x k 0 (Nat.lt_trans low (by decide))
    exact ⟨state, epoch, target, base, length⟩

end

end


/-! ## `WCLOSE` (R585) -/

section
variable {s t u : State} {x k w : Nat} {v : Taken}

/-- Window w closes: it is CLOSING, and the peer of a window of core memory or the commons has its REVOKE. -/
structure Closes (s t : State) (w : Nat) : Prop where
  kept : RingsKept s t
  state : winState t w = 2
  landing : winTarget s w ≠ 2 → ∀ r ∈ (sector t (winSector s w)).landing, r.window = w → r.closing = true
  revokes : winTarget s w ≠ 2 → ∃ m ∈ t.transport.notices, m.mtype = 6 ∧ m.msg.dst = bits (winWord s w 1) 63 48 ∧ m.msg.window = w ∧
    m.msg.epoch = winEpoch s w

/-- A window that is CLOSING, and not yet late. -/
def closingWindow (s : State) (w : Nat) : State := setWin (setWinState s w 2) w { win s w with late := false }

theorem winWord_setWin (s : State) (w : Nat) (v : Win) (i : Nat) : winWord (setWin s w v) w i = winWord s w i := winWord_congr rfl w i

theorem winWord_closingWindow {i : Nat} (inner : i ≠ 0 ∧ i ≠ 7) (s : State) (w : Nat) : winWord (closingWindow s w) w i = winWord s w i :=
  (winWord_setWin (setWinState s w 2) w _ i).trans (winWord_setWinState inner s w 2)

theorem first_closingWindow {hi lo : Nat} (below : hi < 62) (s : State) (w : Nat) :
    bits (winWord (closingWindow s w) w 0) hi lo = bits (winWord s w 0) hi lo :=
  (congrArg (bits · hi lo) (winWord_setWin (setWinState s w 2) w _ 0)).trans (first_setWinState below s w 2)

theorem winState_closingWindow (s : State) (w : Nat) : winState (closingWindow s w) w = 2 :=
  (congrArg (bits · 63 62) (winWord_setWin (setWinState s w 2) w _ 0)).trans (winState_setWinState s w 2)

theorem kept_closingWindow (small : w < 1048576) (s : State) : RingsKept s (closingWindow s w) :=
  (RingsKept.setWinState small s 2).trans (.setWin ..)

/-- The device's next request, to a node about window w. -/
def windowNotice (s : State) (node w e : Nat) : Msg := deviceMsg s node s.transport.nextNotice w e []

/-- The machine that waits for the answer to its next request. -/
def revoking (s : State) (ty node w e : Nat) : State :=
  { s with transport := { s.transport with
      notices := s.transport.notices ++ [⟨s.transport.nextNotice, ty, windowNotice s node w e, 0⟩]
      nextNotice := (s.transport.nextNotice + 1) % 65536 } }

theorem sendNotice_eq (s : State) (ty node w e : Nat) : sendNotice s ty node w e [] = sendMsg (revoking s ty node w e) ty (windowNotice s node w e) := rfl

theorem still_notice (s : State) (ty node w e : Nat) : still (sendNotice s ty node w e []) = still (revoking s ty node w e) := by
  rw [sendNotice_eq, still_sendMsg]

/-- A notice is the last of those that wait for an answer. -/
theorem sendNotice_noted (s : State) (ty node w e : Nat) : ∃ m ∈ (sendNotice s ty node w e []).transport.notices,
    m.mtype = ty ∧ m.msg.dst = node ∧ m.msg.window = w ∧ m.msg.epoch = e := by
  rw [transport_of_still (still_notice ..)]
  exact ⟨_, List.mem_append_right _ (List.mem_singleton.2 rfl), rfl, rfl, rfl, rfl⟩

theorem kept_sendNotice {ty : Nat} (of_ : 6 ≤ ty ∧ ty < 0x20) (s : State) (node w e : Nat) : RingsKept s (sendNotice s ty node w e []) := by
  have waits : RingsKept s (revoking s ty node w e) := ⟨fun _ _ => rfl, fun _ _ => rfl, fun _ _ => rfl⟩
  rw [sendNotice_eq]
  exact waits.trans (.sendMsg of_ _ _)

theorem mem_sendNotice (s : State) (ty node w e : Nat) : (sendNotice s ty node w e []).mem = s.mem := by
  rw [mem_of_still (still_notice ..)]
  rfl

theorem sectors_sendNotice (s : State) (ty node w e : Nat) : (sendNotice s ty node w e []).sectors = s.sectors := by
  rw [sectors_of_still (still_notice ..)]
  rfl

/-- The landing ranges of window w are closing. -/
def landingClosing (s : State) (w : Nat) : State :=
  setLanding s (winSector s w) ((sector s (winSector s w)).landing.map fun r => if r.window = w then { r with closing := true } else r)

theorem landing_landingClosing (s : State) (w : Nat) : ∀ r ∈ (sector (landingClosing s w) (winSector s w)).landing, r.window = w → r.closing = true := by
  unfold landingClosing
  rw [landing_setLanding]
  intro r member of_
  obtain ⟨q, _, rfl⟩ := List.mem_map.1 member
  by_cases same : q.window = w
  · rw [if_pos same]
  · rw [if_neg same] at of_
    exact absurd of_ same

/-- What a closing does once the window is CLOSING: REVOKE goes to the peer (R585). -/
def revoked (s : State) (w : Nat) : State :=
  if winTarget s w = 2 then s
  else sendNotice (landingClosing s w) 0x06 (bits (winWord s w 1) 63 48) w (winEpoch s w) []

theorem closeWindow_eq (s : State) (w : Nat) : closeWindow s w = revoked (closingWindow s w) w := by
  unfold closeWindow revoked closingWindow
  dsimp only
  rfl

theorem closes_revoked (state : winState s w = 2) : Closes s (revoked s w) w := by
  unfold revoked
  split
  · rename_i hbm
    exact ⟨.refl s, state, fun own => absurd hbm own, fun own => absurd hbm own⟩
  · have ranged : RingsKept s (landingClosing s w) := .setLanding (winSector_lt s w) ..
    refine ⟨ranged.trans (kept_sendNotice (by decide) ..), ?_, fun _ => ?_, fun _ => sendNotice_noted ..⟩
    · rw [winState, winWord_congr (mem_sendNotice ..)]
      exact state
    · rw [sector, sectors_sendNotice]
      exact landing_landingClosing s w

/-- A closing of a window whose words, but for its state, are those of window w of s. -/
theorem Closes.of_words (kept : RingsKept s t) (first : ∀ hi lo, hi < 62 → bits (winWord t w 0) hi lo = bits (winWord s w 0) hi lo)
    (peer : winWord t w 1 = winWord s w 1) (h : Closes t u w) : Closes s u w := by
  have target : winTarget t w = winTarget s w := first _ _ (by decide)
  have place : winSector t w = winSector s w := first _ _ (by decide)
  have epoch : winEpoch t w = winEpoch s w := first _ _ (by decide)
  obtain ⟨rings, state, landing, revokes⟩ := h
  rw [target, place] at landing
  rw [target, peer, epoch] at revokes
  exact ⟨kept.trans rings, state, landing, revokes⟩

theorem closes_closeWindow (small : w < 1048576) (s : State) : Closes s (closeWindow s w) w := by
  rw [closeWindow_eq]
  exact (closes_revoked (winState_closingWindow s w)).of_words (kept_closingWindow small s) (fun _ _ below => first_closingWindow below s w)
    (winWord_closingWindow (by decide) s w)

theorem wclose_cases (hx : x < 32) (hk : k < 8) (next : nextOp s x k 0x51 = some v) :
    (v.checks = false → Refuses (.wclose x k) s x k v 0x0105) ∧
    (v.checks = true → ¬(winState s v.id = 1 ∧ winPartition s v.id = some (ringPart s x)) → Refuses (.wclose x k) s x k v 0x0407) ∧
    (v.checks = true → winState s v.id = 1 → winPartition s v.id = some (ringPart s x) → Leads (.wclose x k) s fun t =>
      Completed s t x k v 0 ∧ (v.completion = 0 → winState t v.id = 2) ∧ (winTarget s v.id ≠ 2 →
        (∀ r ∈ (sector t (winSector s v.id)).landing, r.window = v.id → r.closing = true) ∧
        ∃ m ∈ t.transport.notices, m.mtype = 6 ∧ m.msg.dst = bits (winWord s v.id 1) 63 48 ∧ m.msg.window = v.id ∧
          m.msg.epoch = winEpoch s v.id)) := by
  have runs : exec (.wclose x k) s = done s (wclose s x k v) := by
    rw [show exec (.wclose x k) s = execWclose x k s from rfl, execWclose, next]
    exact guarded_of (decide_eq_true ⟨hx, hk⟩) ..
  refine ⟨fun bad => refuses_finishPlain hk (by decide) (runs.trans (congrArg (done s) ?_)), fun good other =>
    refuses_finishPlain hk (by decide) (runs.trans (congrArg (done s) ?_)), fun good opened own => ?_⟩
  · rw [wclose, bad, if_pos (by decide)]
  · rw [wclose, good, if_neg (by decide), if_pos (Decidable.not_and_iff_or_not.1 other)]
  · rw [wclose, good, if_neg (by decide), if_neg (by rintro (h | h); exacts [h opened, h own])] at runs
    have closes := closes_closeWindow (id_lt v) s
    generalize closeWindow s v.id = u at runs closes
    obtain ⟨keeps, landing⟩ := finishPlain_keeps u x k v 0
    refine leads_of_effect runs ⟨closes.kept.completed hk (by decide) v, fun zero => ?_, fun target => ⟨?_, ?_⟩⟩ fun _ _ h => h
    · rw [winState, winWord_finishPlain (id_lt v) zero u x k 0 (by decide)]
      exact closes.state
    · rw [landing]
      exact closes.landing target
    · rw [keeps.transport]
      exact closes.revokes target

/-! ## `WBIND` (R562, R588, R589) -/

/-- What leaves at once through a handle. -/
theorem sendNow_sends (s : State) (h : Nat) (r : Request) : (sendNow s h r).mem = s.mem ∧ (sendNow s h r).sectors = s.sectors ∧
    handle (sendNow s h r) h = { handle s h with
      nextSeq := ((handle s h).nextSeq + 1) % 65536, sent := (handle s h).sent + r.units,
      out := (handle s h).out ++ [{ r with tseq := (handle s h).nextSeq }] } := by
  have after (m : Msg) (ty : Nat) (q : Handle) (w : State) (kept : w.mem = s.mem ∧ w.sectors = s.sectors ∧ handle w h = q) :
      (sendMsg w ty m).mem = s.mem ∧ (sendMsg w ty m).sectors = s.sectors ∧ handle (sendMsg w ty m) h = q := by
    obtain ⟨mem, sectors, queued⟩ := kept
    have same := still_sendMsg (s := w) ty m
    exact ⟨(mem_of_still same).trans mem, (sectors_of_still same).trans sectors, (handle_congr (Flowless.of_still same).handles h).trans queued⟩
  unfold sendNow
  dsimp only
  refine after _ _ _ _ ?_
  split
  · exact ⟨rfl, rfl, (handle_setHandle ..).trans (if_pos rfl)⟩
  · exact ⟨rfl, rfl, (handle_setHandle ..).trans (if_pos rfl)⟩

/-- A request that nothing holds back leaves. -/
theorem request_sends {h : Nat} {r : Request} (ungrouped : r.group = none) (unheld : (handle s h).held = []) (may : (handle s h).maySend r = true) :
    request s h r = sendNow s h r := by
  unfold request
  rw [ungrouped]
  dsimp only
  rw [unheld, may]
  exact if_pos rfl

/-- What a `WBIND` of handle h, with a context that reads as r, is refused with (R18). -/
def bindCode (s : State) (h : Nat) (checks : Bool) (r : Nat × List Byte) : Nat :=
  if !checks ∨ 4096 ≤ h then 0x0105
  else if r.1 ≠ 0 then lowestOf [0x0302, if (handle s h).state = 0 then 0 else 0x0407]
  else lowestOf [if !checkOk r.2 || bits (recWord r.2 1) 35 0 % 65536 != 0 then 0x0105 else 0,
    if (handle s h).state = 0 then 0 else 0x0407, if reachable s (bits (recWord r.2 0) 63 48) then 0 else 0x0404]

/-- A handle that connects as the words of d say. -/
def boundHandle (p seq : Nat) (d : List Byte) : Handle :=
  { Handle.init with
    state := 1, part := p, node := bits (recWord d 0) 63 48, window := bits (recWord d 0) 47 28, base := bits (recWord d 1) 35 0
    ordered := bit (recWord d 0) 27, nextSeq := seq }

/-- The command has started. -/
def startedTaken (s : State) (v : Taken) : Taken := { v with started := true, startTime := now s }

section
variable (hx : x < 32) (hk : k < 8) (next : nextOp s x k 0x52 = some v)
include hx hk next

theorem exec_wbind : exec (.wbind x k) s = done s (wbind s x k v) := by
  rw [show exec (.wbind x k) s = execWbind x k s from rfl, execWbind, next]
  exact guarded_of (decide_eq_true ⟨hx, hk⟩) ..

theorem wbind_refuses {code : Nat} (refused : bindCode s v.id v.checks (recordImage s x v) = code) (some_ : code ≠ 0)
    (fits : code < 2 ^ 16) : Refuses (.wbind x k) s x k v code := by
  refine refuses_finishPlain hk fits ((exec_wbind hx hk next).trans (congrArg (done s) ?_))
  have nonzero : bindCode s v.id v.checks (recordImage s x v) ≠ 0 := by rwa [refused]
  have ends : wbind s x k v = finishPlain s x k v (bindCode s v.id v.checks (recordImage s x v)) := if_pos nonzero
  rw [ends, refused]

theorem wbind_binds (passes : bindCode s v.id v.checks (recordImage s x v) = 0) : Leads (.wbind x k) s fun t =>
    Waits t x k v ∧ t.mem = s.mem ∧ (handle t v.id).state = 1 ∧ (handle t v.id).part = ringPart s x ∧
      (handle t v.id).node = bits (recWord (recordImage s x v).2 0) 63 48 ∧ (handle t v.id).window = bits (recWord (recordImage s x v).2 0) 47 28 ∧
      (handle t v.id).base = bits (recWord (recordImage s x v).2 1) 35 0 ∧ (handle t v.id).out.map Request.mtype = [5] := by
  have runs : wbind s x k v = request (setHandle (setTaken s x k v (startedTaken s v)) v.id
      (boundHandle (ringPart s x) (handle (setTaken s x k v (startedTaken s v)) v.id).nextSeq (recordImage s x v).2)) v.id
      ⟨0, 5, 0, 0, [], none, 0, .bind x k⟩ := if_neg (not_not.2 passes)
  have queued : startedTaken s v ∈ (ringOf (setTaken s x k v (startedTaken s v)) x k).queue := mem_setTaken (mem_of_nextOp next).1
  have mem : (setTaken s x k v (startedTaken s v)).mem = s.mem := rfl
  generalize setTaken s x k v (startedTaken s v) = u at runs queued mem
  have own (q : Handle) : handle (setHandle u v.id q) v.id = q := (handle_setHandle ..).trans (if_pos rfl)
  rw [request_sends rfl (by rw [own]; rfl) (by rw [own]; rfl)] at runs
  obtain ⟨sentMem, sectors, flow⟩ := sendNow_sends (setHandle u v.id (boundHandle (ringPart s x) (handle u v.id).nextSeq (recordImage s x v).2)) v.id
    ⟨0, 5, 0, 0, [], none, 0, .bind x k⟩
  rw [own] at flow
  rw [← runs] at flow sentMem sectors
  refine leads_of_effect (exec_wbind hx hk next) ⟨⟨startedTaken s v, ?_, rfl, rfl⟩, sentMem.trans mem, ?_⟩ fun _ _ h => h
  · rw [ringOf_congr sectors]
    exact queued
  · rw [flow]
    exact ⟨rfl, rfl, rfl, rfl, rfl, rfl⟩

end

/-! ## `WUNBIND` (R582) -/

/-- The record that replaces one of a queue in which nothing answers to p is the first that does. -/
theorem find?_replace {α : Type} [BEq α] [LawfulBEq α] {p : α → Bool} {a b : α} (answers : p b = true) :
    ∀ {l : List α}, a ∈ l → (∀ c ∈ l, c ≠ a → p c = false) → (l.replace a b).find? p = some b
  | c :: l, member, silent => by
    by_cases here : c = a
    · rw [here, List.replace_cons_self, List.find?_cons_of_pos answers]
    · rw [List.replace_cons, beq_false_of_ne (fun e => here e.symm)]
      exact (List.find?_cons_of_neg (by rw [silent c (.head _) here]; decide)).trans
        (find?_replace answers ((List.mem_cons.1 member).resolve_left (fun e => here e.symm)) fun d later => silent d (.tail _ later))

/-- A record that has replaced one leaves its queue as that one would. -/
theorem erase_replace {α : Type} [BEq α] [LawfulBEq α] {a b : α} : ∀ {l : List α}, b ∉ l → (l.replace a b).erase b = l.erase a
  | [], _ => rfl
  | c :: l, new => by
    by_cases here : c = a
    · rw [here, List.replace_cons_self, List.erase_cons_head, List.erase_cons_head]
    · rw [List.replace_cons, beq_false_of_ne (fun e => here e.symm)]
      exact (List.erase_cons_tail (by rw [beq_false_of_ne (fun e => new (List.mem_cons.2 (.inl e.symm)))]; decide)).trans
        ((congrArg (c :: ·) (erase_replace fun later => new (.tail _ later))).trans
          (List.erase_cons_tail (by rw [beq_false_of_ne here]; decide)).symm)

/-- A started command of which the record stood in the queue completes as that record. -/
theorem completed_started {code : Nat} {v' : Taken} (record : v'.record = v.record) (ring : ringOf u x k = { ringOf s x k with queue := (ringOf s x k).queue.replace v v' })
    (new : v' ∉ (ringOf s x k).queue) (dict : u.dict = s.dict) (mem : u.mem = s.mem) (h : Completed u t x k v' code) : Completed s t x k v code := by
  have entry (j : Nat) : rd u j = rd s j := by rw [rd, rd, dict]
  have read (a n : Nat) : rdNat u a n = rdNat s a n := rdNat_congr mem a n
  have seen : unread u x (128 * k) = unread s x (128 * k) := by
    unfold unread
    rw [read, read]
  obtain ⟨queue, posts⟩ := h
  rw [ring] at queue posts
  rw [seen, entry, entry, read, Taken.completion, Taken.cmdId, Taken.word, record] at posts
  exact ⟨queue.trans (erase_replace new), posts⟩

section
variable (hx : x < 32) (hk : k < 8) (next : nextOp s x k 0x53 = some v)
include hx hk next

theorem exec_wunbind : exec (.wunbind x k) s = done s (wunbind s x k v) := by
  rw [show exec (.wunbind x k) s = execWunbind x k s from rfl, execWunbind, next]
  exact guarded_of (decide_eq_true ⟨hx, hk⟩) ..

theorem wunbind_invalid (bad : v.checks = false ∨ 4096 ≤ v.id) : Refuses (.wunbind x k) s x k v 0x0105 := by
  refine refuses_finishPlain hk (by decide) ((exec_wunbind hx hk next).trans (congrArg (done s) ?_))
  exact if_pos (bad.imp (fun b => by rw [b]; rfl) id)

theorem wunbind_refused (good : v.checks = true) (small : v.id < 4096)
    (other : (handle s v.id).state < 2 ∨ (handle s v.id).part ≠ ringPart s x ∨ (handle s v.id).unbinding ≠ none) :
    Refuses (.wunbind x k) s x k v 0x0407 := by
  refine refuses_finishPlain hk (by decide) ((exec_wunbind hx hk next).trans (congrArg (done s) ?_))
  refine (if_neg ?_).trans (if_pos (other.imp id fun h => h.imp id Option.isSome_iff_ne_none.2))
  rw [good]
  rintro (h | h)
  · exact absurd h (by decide)
  · omega

variable (good : v.checks = true) (small : v.id < 4096) (bound : 2 ≤ (handle s v.id).state) (own : (handle s v.id).part = ringPart s x)
  (free : (handle s v.id).unbinding = none)
include good small bound own free

/-- The machine in which the handle waits to be unbound. -/
theorem wunbind_settles : exec (.wunbind x k) s = done s (settleHandle (setHandle (setTaken s x k v (startedTaken s v)) v.id
    { handle s v.id with unbinding := some (x, k) }) v.id) := by
  refine (exec_wunbind hx hk next).trans (congrArg (done s) ((if_neg ?_).trans (if_neg ?_)))
  · rw [good]
    rintro (h | h)
    · exact absurd h (by decide)
    · omega
  · rw [free]
    rintro (h | h | h)
    · omega
    · exact h own
    · exact absurd h (by decide)

theorem wunbind_waits (busy : (handle s v.id).out ≠ [] ∨ (handle s v.id).held ≠ []) : Leads (.wunbind x k) s fun t =>
    Waits t x k v ∧ t.mem = s.mem ∧ handle t v.id = { handle s v.id with unbinding := some (x, k) } := by
  have runs := wunbind_settles hx hk next good small bound own free
  have queued : startedTaken s v ∈ (ringOf (setTaken s x k v (startedTaken s v)) x k).queue := mem_setTaken (mem_of_nextOp next).1
  have mem : (setTaken s x k v (startedTaken s v)).mem = s.mem := rfl
  generalize setTaken s x k v (startedTaken s v) = u at runs queued mem
  have named : handle (setHandle u v.id { handle s v.id with unbinding := some (x, k) }) v.id = { handle s v.id with unbinding := some (x, k) } :=
    (handle_setHandle ..).trans (if_pos rfl)
  have stands : settleHandle (setHandle u v.id { handle s v.id with unbinding := some (x, k) }) v.id =
      setHandle u v.id { handle s v.id with unbinding := some (x, k) } := by
    unfold settleHandle
    rw [named]
    refine if_neg fun settled => ?_
    obtain ⟨out, held⟩ := Bool.and_eq_true_iff.1 settled
    exact busy.elim (fun h => h (List.isEmpty_iff.1 out)) fun h => h (List.isEmpty_iff.1 held)
  rw [stands] at runs
  exact leads_of_effect runs ⟨⟨startedTaken s v, queued, rfl, rfl⟩, mem, named⟩ fun _ _ h => h

theorem wunbind_frees (out : (handle s v.id).out = []) (held : (handle s v.id).held = [])
    (alone : ∀ u ∈ (ringOf s x k).queue, u.started = true → u.op = 0x53 → u.id ≠ v.id) : Leads (.wunbind x k) s fun t =>
    Completed s t x k v 0 ∧ handle t v.id = { Handle.init with nextSeq := (handle s v.id).nextSeq } := by
  have runs := wunbind_settles hx hk next good small bound own free
  obtain ⟨queued, op⟩ := mem_of_nextOp next
  have silent : ∀ c ∈ (ringOf s x k).queue, (c.started && c.op == 0x53 && c.id == v.id) = false := fun c member => by
    rw [← Bool.not_eq_true, Bool.and_eq_true, Bool.and_eq_true, beq_iff_eq, beq_iff_eq]
    rintro ⟨⟨started, named⟩, same⟩
    exact alone c member started named same
  have answers : ((startedTaken s v).started && (startedTaken s v).op == 0x53 && (startedTaken s v).id == v.id) = true := by
    rw [Bool.and_eq_true, Bool.and_eq_true, beq_iff_eq, beq_iff_eq]
    exact ⟨⟨rfl, op⟩, rfl⟩
  have new : startedTaken s v ∉ (ringOf s x k).queue := fun member => absurd answers (ne_true_of_eq_false (silent _ member))
  have ring := ringOf_setTaken s x k v (startedTaken s v)
  have mem : (setTaken s x k v (startedTaken s v)).mem = s.mem := rfl
  have dict : (setTaken s x k v (startedTaken s v)).dict = s.dict := rfl
  generalize setTaken s x k v (startedTaken s v) = u at runs ring mem dict
  have named (q : Handle) (r : State) : handle (setHandle r v.id q) v.id = q := (handle_setHandle ..).trans (if_pos rfl)
  have settles : settleHandle (setHandle u v.id { handle s v.id with unbinding := some (x, k) }) v.id =
      finishWaiting (setHandle (setHandle u v.id { handle s v.id with unbinding := some (x, k) }) v.id
        { Handle.init with nextSeq := (handle s v.id).nextSeq }) x k 0x53 v.id 0 := by
    unfold settleHandle
    rw [named]
    exact if_pos (by rw [out, held]; rfl)
  have freed := named { Handle.init with nextSeq := (handle s v.id).nextSeq } (setHandle u v.id { handle s v.id with unbinding := some (x, k) })
  have ring' : ringOf (setHandle (setHandle u v.id { handle s v.id with unbinding := some (x, k) }) v.id
      { Handle.init with nextSeq := (handle s v.id).nextSeq }) x k = _ := ring
  have mem' : (setHandle (setHandle u v.id { handle s v.id with unbinding := some (x, k) }) v.id
      { Handle.init with nextSeq := (handle s v.id).nextSeq }).mem = s.mem := mem
  have dict' : (setHandle (setHandle u v.id { handle s v.id with unbinding := some (x, k) }) v.id
      { Handle.init with nextSeq := (handle s v.id).nextSeq }).dict = s.dict := dict
  rw [settles] at runs
  generalize setHandle (setHandle u v.id { handle s v.id with unbinding := some (x, k) }) v.id
    { Handle.init with nextSeq := (handle s v.id).nextSeq } = r at runs freed ring' mem' dict'
  have finishes : finishWaiting r x k 0x53 v.id 0 = finishPlain r x k (startedTaken s v) 0 := by
    unfold finishWaiting
    rw [ring', find?_replace (p := fun t => t.started && t.op == 0x53 && t.id == v.id) answers queued fun c member _ => silent c member]
  rw [finishes] at runs
  obtain ⟨keeps, _⟩ := finishPlain_keeps r x k (startedTaken s v) 0
  have ends : Completed r (finishPlain r x k (startedTaken s v) 0) x k (startedTaken s v) 0 := (RingsKept.refl r).completed hk (by decide) _
  refine leads_of_effect runs ⟨completed_started (v := v) (v' := startedTaken s v) rfl ring' new dict' mem' ends, ?_⟩ fun _ _ h => h
  exact (keeps.free v.id (by rw [freed]; exact Nat.zero_lt_two)).trans freed

end

end


/-! ## Codes of window records (R18) -/

section
variable {s : State} {p w : Nat} {r : Nat × List Byte} {checks : Bool}

theorem openCode_unchecked (r : Nat × List Byte) : openCode s p w false r = 0x0105 := rfl

theorem openCode_unreadable (fails : r.1 ≠ 0) : openCode s p w true r = 0x0302 := by
  refine (if_neg (by decide)).trans ((if_pos fails).trans ?_)
  split <;> decide

theorem openCode_readable (reads : r.1 = 0) : openCode s p w true r = lowestOf [if imageIll (imageWords r.2) then 0x0105 else 0,
    if imageRefused s p w (imageWords r.2) then 0x0302 else 0, if winState s w = 0 then 0 else 0x0407] :=
  (if_neg (by decide)).trans (if_neg (not_not.2 reads))

theorem imageIll_iff (l : List Nat) : imageIll l = true ↔ bits (l.getD 0 0) 56 55 = 3 ∨
    (bits (l.getD 0 0) 56 55 ≠ 2 ∧ (bit (l.getD 0 0) 52 = true ∨ bit (l.getD 0 0) 51 = true)) := by
  rw [imageIll, Bool.or_eq_true, Bool.and_eq_true, Bool.or_eq_true, beq_iff_eq, bne_iff_ne]

theorem openCode_ill (reads : r.1 = 0) (ill : imageIll (imageWords r.2) = true) : openCode s p w true r = 0x0105 := by
  rw [openCode_readable reads, if_pos ill]
  split <;> split <;> decide

theorem openCode_refused (reads : r.1 = 0) (sound : imageIll (imageWords r.2) = false) (refused : imageRefused s p w (imageWords r.2) = true) :
    openCode s p w true r = 0x0302 := by
  rw [openCode_readable reads, if_neg (ne_true_of_eq_false sound), if_pos refused]
  split <;> decide

theorem openCode_accepted (reads : r.1 = 0) (sound : imageIll (imageWords r.2) = false) (accepted : imageRefused s p w (imageWords r.2) = false) :
    openCode s p w true r = if winState s w = 0 then 0 else 0x0407 := by
  rw [openCode_readable reads, if_neg (ne_true_of_eq_false sound), if_neg (ne_true_of_eq_false accepted)]
  split <;> decide

theorem bindCode_invalid {h : Nat} (bad : checks = false ∨ 4096 ≤ h) : bindCode s h checks r = 0x0105 :=
  if_pos (bad.imp (fun b => by rw [b]; rfl) id)

section
variable {h : Nat} (small : h < 4096)
include small

theorem bindCode_valid : bindCode s h true r = if r.1 ≠ 0 then lowestOf [0x0302, if (handle s h).state = 0 then 0 else 0x0407]
    else lowestOf [if !checkOk r.2 || bits (recWord r.2 1) 35 0 % 65536 != 0 then 0x0105 else 0,
      if (handle s h).state = 0 then 0 else 0x0407, if reachable s (bits (recWord r.2 0) 63 48) then 0 else 0x0404] :=
  if_neg (by
    rintro (bad | large)
    · exact absurd bad (by decide)
    · omega)

theorem bindCode_unreadable (fails : r.1 ≠ 0) : bindCode s h true r = 0x0302 := by
  rw [bindCode_valid small, if_pos fails]
  split <;> decide

variable (reads : r.1 = 0)
include reads

theorem bindCode_ill (ill : checkOk r.2 = false ∨ bits (recWord r.2 1) 35 0 % 65536 ≠ 0) : bindCode s h true r = 0x0105 := by
  rw [bindCode_valid small, if_neg (not_not.2 reads), if_pos (by simpa using ill)]
  split <;> split <;> decide

theorem bindCode_sound (checked : checkOk r.2 = true) (aligned : bits (recWord r.2 1) 35 0 % 65536 = 0) : bindCode s h true r =
    lowestOf [0, if (handle s h).state = 0 then 0 else 0x0407, if reachable s (bits (recWord r.2 0) 63 48) then 0 else 0x0404] := by
  rw [bindCode_valid small, if_neg (not_not.2 reads), if_neg (by simp [checked, aligned])]

variable (checked : checkOk r.2 = true) (aligned : bits (recWord r.2 1) 35 0 % 65536 = 0)
include checked aligned

theorem bindCode_unreachable (unknown : reachable s (bits (recWord r.2 0) 63 48) = false) : bindCode s h true r = 0x0404 := by
  rw [bindCode_sound small reads checked aligned, if_neg (ne_true_of_eq_false unknown)]
  split <;> decide

theorem bindCode_known (known : reachable s (bits (recWord r.2 0) 63 48) = true) :
    bindCode s h true r = if (handle s h).state = 0 then 0 else 0x0407 := by
  rw [bindCode_sound small reads checked aligned, if_pos known]
  split <;> decide

end

end

/-! ## The obligation -/

/-- Settles O42, part by part: the timed changes of a window, and each of the four window records by the code of its checks. -/
theorem windowsOpen : Obligations.WindowsOpen := by
  unfold Obligations.WindowsOpen
  refine ⟨⟨fun _ => rfl, fun s w small => ?_⟩, fun s x k v hx hk => ?_⟩
  · refine ⟨(windowQuietExpiry_leads small).1, (windowQuietExpiry_leads small).2, closingEnd_leads small, (creditRepeatTimer_leads small).1,
      (creditRepeatTimer_leads small).2, fun y r l hy found of_ => ⟨landingRangeClose_closing hy found of_ small, ?_⟩⟩
    exact fun b opened own rolls blocks finished last => landingRangeClose_rolls hy found of_ ⟨opened, own, rolls, blocks, finished, last⟩
  · refine ⟨fun next => wopen_holdoff hx hk next, fun next open_ => ?_, fun next => (wclose_cases hx hk next).1, fun next => (wclose_cases hx hk next).2.1,
      fun next => (wclose_cases hx hk next).2.2, fun next => ?_, fun next => ?_⟩
    · have sound {l : List Nat} (h : ¬_) : imageIll l = false := Bool.eq_false_iff.2 fun ill => h ((imageIll_iff l).1 ill)
      refine ⟨fun bad => ?_, fun good fails => ?_, fun good reads ill => ?_, fun good reads ill refused => ?_,
        fun good reads ill accepted busy => ?_, fun good reads ill accepted free => ?_⟩
      · exact wopen_refuses hx hk next open_ (by rw [bad]; exact openCode_unchecked _) (by decide) (by decide)
      · exact wopen_refuses hx hk next open_ (by rw [good]; exact openCode_unreadable fails) (by decide) (by decide)
      · exact wopen_refuses hx hk next open_ (by rw [good]; exact openCode_ill reads ((imageIll_iff _).2 ill)) (by decide) (by decide)
      · exact wopen_refuses hx hk next open_ (by rw [good]; exact openCode_refused reads (sound ill) refused) (by decide) (by decide)
      · exact wopen_refuses hx hk next open_ (by rw [good]; exact (openCode_accepted reads (sound ill) accepted).trans (if_neg busy))
          (by decide) (by decide)
      · exact wopen_opens hx hk next open_ (by rw [good]; exact (openCode_accepted reads (sound ill) accepted).trans (if_pos free)) free
    · refine ⟨fun bad => wbind_refuses hx hk next (bindCode_invalid bad) (by decide) (by decide), fun good small =>
        ⟨fun fails => ?_, fun reads ill => ?_, fun reads checked aligned unknown => ?_, fun reads checked aligned known busy => ?_,
          fun reads checked aligned known free => ?_⟩⟩
      · exact wbind_refuses hx hk next (by rw [good]; exact bindCode_unreadable small fails) (by decide) (by decide)
      · exact wbind_refuses hx hk next (by rw [good]; exact bindCode_ill small reads ill) (by decide) (by decide)
      · exact wbind_refuses hx hk next (by rw [good]; exact bindCode_unreachable small reads checked aligned unknown) (by decide) (by decide)
      · exact wbind_refuses hx hk next (by rw [good]; exact (bindCode_known small reads checked aligned known).trans (if_neg busy))
          (by decide) (by decide)
      · exact wbind_binds hx hk next (by rw [good]; exact (bindCode_known small reads checked aligned known).trans (if_pos free))
    · exact ⟨wunbind_invalid hx hk next, fun good small => wunbind_refused hx hk next good small, fun good small bound own free =>
        ⟨wunbind_waits hx hk next good small bound own free, wunbind_frees hx hk next good small bound own free⟩⟩

end Sys2Proof.Machine
end
